-- ==== Sys2Proof/Word.lean ====
section
/-! DEFINITION. The word types of the SR16K and their plainest arithmetic. Gliyx-16 words are 16 bits
(spec/05, R111), Loam registers 32 bits (R385), Loam addresses 48 bits (R377). -/

namespace Sys2Proof

/-- A Gliyx-16 word (R111). -/
abbrev Word := BitVec 16

/-- A byte of Loam memory (R381). -/
abbrev Byte := BitVec 8

/-- A 32-bit Loam register value (R385). -/
abbrev Reg32 := BitVec 32

/-- A 48-bit Loam byte address (spec/00, Numbers and units). -/
abbrev LoamAddr := BitVec 48

/-- A context number, 18 bits (R14, Context). -/
abbrev CtxNo := BitVec 18

/-- A slot number, 14 bits (R32). -/
abbrev SlotNo := BitVec 14

/-- A general register w0 to w15 (R111). -/
abbrev RegNo := Fin 16

end Sys2Proof
end

