-- ==== Sys2Proof/Syntax.lean ====
section
/-! DEFINITION. The commands of the block: one constructor of `Instr` for every row of
spec/opcode_table.json, in the table's order, with the operands that the row's rule gives it. -/

namespace Sys2Proof

/-- The processor that executes a Gliyx-16 instruction: a session's (R114) or a Keeper's (R137). -/
inductive Cpu where
  | session (c : CtxNo)
  | keeper (k : Fin 4)
  deriving DecidableEq, Repr

/-- The right operand of the register and 32-bit immediate forms (R150, R151). -/
inductive Src where
  | reg (s : RegNo)
  | imm (i : Word)
  deriving DecidableEq, Repr

/-- The amount of a shift: immediate, or the low four bits of a register (R152). -/
inductive Amount where
  | imm (a : BitVec 4)
  | reg (s : RegNo)
  deriving DecidableEq, Repr

/-- The address forms of loads and stores (R155). -/
inductive MemForm where
  | reg (s : RegNo)
  | index (n : Fin 4)
  | indexInc (n : Fin 4)
  | indexDec (n : Fin 4)
  | stack (u : BitVec 7)
  | abs (i : Word)
  | base (s : RegNo) (e : BitVec 12)
  | indexStep (n : Fin 4) (m : RegNo)
  deriving DecidableEq, Repr

/-- The displacement of a conditional branch: short (7 bits) or long (16 bits) (R158). -/
inductive BranchDisp where
  | short (e : BitVec 7)
  | long (i : Word)
  deriving DecidableEq, Repr

/-- The target of JMP: a register or an absolute address (R158). -/
inductive JmpTarget where
  | reg (s : RegNo)
  | abs (i : Word)
  deriving DecidableEq, Repr

/-- The target of CALL: relative or a register (R158). -/
inductive CallTarget where
  | rel (e : BitVec 11)
  | reg (s : RegNo)
  deriving DecidableEq, Repr

/-- What a page miss comes from (R68): a unit of a band's path to its deadline, a thread or another unit, or beam-ahead prefetch. -/
inductive Requester where
  | band | unit | ahead
  deriving DecidableEq, Repr

/-- How a word of the context table or the title table is written (R35, R77): whole, or one half. -/
inductive EntryPart where
  | whole (v : BitVec 64)
  | low (v : Reg32)
  | high (v : Reg32)
  deriving DecidableEq, Repr

/-- What a persistent parity failure struck (R85). -/
inductive Failure where
  | read (a : LoamAddr)
  | write (a : LoamAddr)
  | stagingClean (c : CtxNo) (line : Nat)
  | stagingDirty (c : CtxNo) (line : Nat)
  deriving DecidableEq, Repr

/-- The pages of a context, by the index of its page map entry (R59: 0 to 226). -/
abbrev PageIx := Fin 227

/-- The way of a datagram: the sub-port it comes by, IP version, addresses and UDP ports (R364, R365). -/
structure DcpPath where
  port : Fin 2
  sub : Fin 4
  v6 : Bool
  src : List Byte
  dst : List Byte
  sport : BitVec 16
  dport : BitVec 16
  deriving DecidableEq, Repr

/-- A Dreug Control Protocol message: its bytes, field by field (R364), and the way it travels. -/
structure DcpMsg where
  path : DcpPath
  ver : Byte
  kind : Byte
  cmd : BitVec 16
  keyId : Byte
  status : Byte
  len : BitVec 16
  boot : BitVec 32
  seq : BitVec 64
  body : List Byte
  mac : List Byte
  deriving DecidableEq, Repr

/-- A video packet as a client receives it: the fields of R292 and the coded bytes after the header. -/
structure VideoPkt where
  kind : BitVec 4
  flags : Byte
  seq : BitVec 32
  frame : BitVec 32
  band : Byte
  fidx : Byte
  w : BitVec 16
  line0 : BitVec 16
  nlines : BitVec 16
  mgen : BitVec 16
  chk : BitVec 16
  pos : BitVec 32
  payload : List Byte
  deriving DecidableEq, Repr

/-- An audio packet as a client receives it (R304): its release instant and that of the packet after it, as REL_S and REL_NS. -/
structure AudioPkt where
  kind : BitVec 4
  flags : Byte
  seq : BitVec 32
  pkt : BitVec 32
  relS : BitVec 32
  relNs : BitVec 32
  nextS : BitVec 32
  nextNs : BitVec 32
  samples : List Byte
  deriving DecidableEq, Repr

/-- The register a REGISTER_WRITE names: a Loam register or a session's or Keeper's I/O word (R8). -/
inductive RegTarget where
  | loam (node : Byte) (a : LoamAddr) (v : Reg32)
  | io (p : Cpu) (a : Word) (v : Word)
  deriving DecidableEq, Repr

/-- What the DisplayPort hot-plug line does (R457, R459). -/
inductive HpdEvent where
  | high
  | low
  | pulse (lostLock : Bool)
  deriving DecidableEq, Repr

/-- A page of a context that is missed, and what misses it. -/
structure PageAsk where
  page : PageIx
  by' : Requester
  deriving DecidableEq, Repr

/-- A message as it reaches its node (R397): MTYPE, the node it was sent to, MARG, and whether its words pass their parity. -/
structure EventMsg where
  mtype : Byte
  dst : Byte
  marg : Word
  parityOk : Bool
  deriving DecidableEq, Repr

/-- What isolates the guest die (R403): the cause, and the flits that came, of a malformed packet. -/
structure IsolationCause where
  cause : Byte
  flits : List (List Word)
  deriving DecidableEq, Repr

/-- A step of the power sequencer that fails: FAIL's cause of a step of ASCENT, and of a descent the step whose domain fails. -/
structure StepFailure where
  cause : Byte
  step : Byte
  deriving DecidableEq, Repr

/-- The commands of the SR16K, one constructor per row of spec/opcode_table.json. -/
inductive Instr where
  | nop (p : Cpu)
  | wait (p : Cpu)
  | waitEnd (p : Cpu) (n : Nat)
  | reti (p : Cpu)
  | fence (p : Cpu)
  | di (p : Cpu)
  | ei (p : Cpu)
  | mfst (p : Cpu) (d : RegNo)
  | mtst (p : Cpu) (s : RegNo)
  | push (p : Cpu) (s : RegNo)
  | pop (p : Cpu) (d : RegNo)
  | mtx (p : Cpu) (n : Fin 4) (s : RegNo)
  | mfx (p : Cpu) (d : RegNo) (n : Fin 4)
  | mov (p : Cpu) (d : RegNo) (s : Src)
  | add (p : Cpu) (d : RegNo) (s : Src)
  | adc (p : Cpu) (d : RegNo) (s : Src)
  | sub (p : Cpu) (d : RegNo) (s : Src)
  | sbc (p : Cpu) (d : RegNo) (s : Src)
  | cmp (p : Cpu) (d : RegNo) (s : Src)
  | and (p : Cpu) (d : RegNo) (s : Src)
  | or (p : Cpu) (d : RegNo) (s : Src)
  | xor (p : Cpu) (d : RegNo) (s : Src)
  | tst (p : Cpu) (d : RegNo) (s : Src)
  | neg (p : Cpu) (d s : RegNo)
  | not (p : Cpu) (d s : RegNo)
  | swpb (p : Cpu) (d s : RegNo)
  | sxb (p : Cpu) (d s : RegNo)
  | zxb (p : Cpu) (d s : RegNo)
  | addi (p : Cpu) (d : RegNo) (k : Byte)
  | movi (p : Cpu) (d : RegNo) (k : Byte)
  | cmpi (p : Cpu) (d : RegNo) (k : Byte)
  | shl (p : Cpu) (d : RegNo) (a : Amount)
  | shr (p : Cpu) (d : RegNo) (a : Amount)
  | sar (p : Cpu) (d : RegNo) (a : Amount)
  | rol (p : Cpu) (d : RegNo) (a : Amount)
  | ror (p : Cpu) (d : RegNo) (a : Amount)
  | rlc (p : Cpu) (d : RegNo) (a : Amount)
  | rrc (p : Cpu) (d : RegNo) (a : Amount)
  | mul (p : Cpu) (d s : RegNo)
  | mulu (p : Cpu) (d s : RegNo)
  | mull (p : Cpu) (d s : RegNo)
  | divs (p : Cpu) (d s : RegNo)
  | divu (p : Cpu) (d s : RegNo)
  | mac (p : Cpu) (d s t : RegNo)
  | macu (p : Cpu) (d s t : RegNo)
  | macf (p : Cpu) (d s t : RegNo)
  | ld (p : Cpu) (d : RegNo) (m : MemForm)
  | ldp (p : Cpu) (d : RegNo) (m : MemForm)
  | st (p : Cpu) (d : RegNo) (m : MemForm)
  | stp (p : Cpu) (d : RegNo) (m : MemForm)
  | ldv (p : Cpu) (d : RegNo) (m : MemForm)
  | ldpv (p : Cpu) (d : RegNo) (m : MemForm)
  | stv (p : Cpu) (d : RegNo) (m : MemForm)
  | stpv (p : Cpu) (d : RegNo) (m : MemForm)
  | lds (p : Cpu) (d : RegNo) (m : MemForm)
  | ldps (p : Cpu) (d : RegNo) (m : MemForm)
  | sts (p : Cpu) (d : RegNo) (m : MemForm)
  | stps (p : Cpu) (d : RegNo) (m : MemForm)
  | ldc (p : Cpu) (d : RegNo) (m : MemForm)
  | bcc (p : Cpu) (c : BitVec 4) (annul : Bool) (e : BranchDisp)
  | bra (p : Cpu) (annul : Bool) (e : BitVec 11)
  | jmp (p : Cpu) (annul : Bool) (t : JmpTarget)
  | call (p : Cpu) (annul : Bool) (t : CallTarget) (mask : Word)
  | ret (p : Cpu) (annul : Bool) (mask : Word)
  | bbs (p : Cpu) (b : BitVec 14) (annul : Bool) (e : BitVec 6)
  | bbc (p : Cpu) (b : BitVec 14) (annul : Bool) (e : BitVec 6)
  | bld (p : Cpu) (d : RegNo) (b : BitVec 14)
  | bst (p : Cpu) (d : RegNo) (b : BitVec 14)
  | bset (p : Cpu) (b : BitVec 14)
  | bclr (p : Cpu) (b : BitVec 14)
  | bnot (p : Cpu) (b : BitVec 14)
  | btst (p : Cpu) (b : BitVec 14)
  | bldc (p : Cpu) (b : BitVec 14)
  | bstc (p : Cpu) (b : BitVec 14)
  | bandc (p : Cpu) (b : BitVec 14)
  | borc (p : Cpu) (b : BitVec 14)
  | bxorc (p : Cpu) (b : BitVec 14)
  | mtseg (p : Cpu) (n : Fin 8) (d : RegNo)
  | mfseg (p : Cpu) (d : RegNo) (n : Fin 8)
  | ldf (p : Cpu) (d : RegNo) (n : Fin 8) (a : Word)
  | stf (p : Cpu) (d : RegNo) (n : Fin 8) (a : Word)
  | ldfp (p : Cpu) (d : RegNo) (n : Fin 8) (a : Word)
  | stfp (p : Cpu) (d : RegNo) (n : Fin 8) (a : Word)
  | fadd32 (p : Cpu) (d : RegNo) (n : Fin 8) (a : Word)
  | fswp32 (p : Cpu) (d : RegNo) (n : Fin 8) (a : Word)
  | fcas32 (p : Cpu) (d : RegNo) (n : Fin 8) (a : Word)
  | fadd64 (p : Cpu) (d : RegNo) (n : Fin 8) (a : Word)
  | fswp64 (p : Cpu) (d : RegNo) (n : Fin 8) (a : Word)
  | fcas64 (p : Cpu) (d : RegNo) (n : Fin 8) (a : Word)
  | entry (p : Cpu)
  | intSet (p : Cpu) (bits : Word)
  | timerArm (p : Cpu) (n : Fin 2) (ctrl : Word)
  | timerStart (p : Cpu) (n : Fin 2)
  | timerExpiry (p : Cpu) (n : Fin 2)
  | contextEntryWrite (node : Byte) (c : CtxNo) (k : Fin 4) (v : EntryPart)
  | create (port : Fin 4) (c : CtxNo)
  | admitCtx (port : Fin 4) (c : CtxNo) (slot : SlotNo)
  | suspend (port : Fin 4) (c : CtxNo)
  | snapshot (port : Fin 4) (c new : CtxNo)
  | fork (port : Fin 4) (c new : CtxNo) (slot : SlotNo)
  | exportCtx (port : Fin 4) (c : CtxNo) (a : LoamAddr)
  | returnCtx (port : Fin 4) (c : CtxNo)
  | importCtx (port : Fin 4) (c : CtxNo) (a : LoamAddr)
  | retire (port : Fin 4) (c : CtxNo)
  | release (port : Fin 4) (c : CtxNo)
  | commandDone (port : Fin 4)
  | placementQuery (c : CtxNo)
  | bscBookSnap
  | periodCommit (slot : SlotNo) (h : BitVec 12)
  | phaseWrite (slot : SlotNo) (adj : Reg32)
  | slipRecordRead (die : Fin 2)
  | haltRecordRead (die : Fin 2)
  | horizonEntry (c : CtxNo)
  | bandBoundary (c : CtxNo)
  | deadlineTest (c : CtxNo)
  | lineRender (c : CtxNo)
  | bandCode (c : CtxNo)
  | monitorCopy (c : CtxNo)
  | bandRelease (c : CtxNo)
  | markerSend (c : CtxNo)
  | lateBandSend (c : CtxNo)
  | audioSample (c : CtxNo)
  | audioPacketRelease (c : CtxNo)
  | kon (c : CtxNo) (v : Fin 32) (ctrl : Word)
  | koff (c : CtxNo) (v : Fin 32) (ctrl : Word)
  | gainWrite (c : CtxNo) (node : Fin 138) (g : Word)
  | vidCommit (c : CtxNo)
  | vblankInstant (c : CtxNo)
  | lineCompare (c : CtxNo)
  | beamlineRead (c : CtxNo)
  | lpgStart (c : CtxNo)
  | lpgEnd (c : CtxNo)
  | lpgWait (c : CtxNo)
  | wreg (c : CtxNo)
  | wpal (c : CtxNo)
  | loop (c : CtxNo)
  | setp (c : CtxNo)
  | paletteWrite (c : CtxNo) (w1 : Word)
  | paletteRead (c : CtxNo)
  | blitGo (c : CtxNo) (withAbort : Bool)
  | blitAbort (c : CtxNo)
  | blitBurst (c : CtxNo)
  | dmaEnable (c : CtxNo) (ch : Fin 4) (ctrl : Word)
  | kick (c : CtxNo) (ch : Fin 2)
  | dmaAbort (c : CtxNo) (ch : Fin 4)
  | descriptorRead (c : CtxNo) (ch : Fin 2)
  | dmaBurst (c : CtxNo)
  | writeBackDescriptor (c : CtxNo) (ch : Fin 2)
  | dmaTrigger (c : CtxNo) (ch : Fin 4)
  | dmaFence (c : CtxNo)
  | mailboxCommit (slot : SlotNo) (h : Reg32)
  | mailboxSend (c : CtxNo)
  | outboxRead (slot : SlotNo)
  | mailboxQueueRead (die : Fin 2)
  | pageMiss (c : CtxNo) (pg : PageAsk)
  | pageInDone (c : CtxNo) (pg : PageIx)
  | firstTouch (c : CtxNo) (pg : PageIx)
  | copyOnWrite (c : CtxNo) (pg : PageIx)
  | stagingMiss (c : CtxNo) (line : Nat)
  | eviction (die : Fin 2)
  | writeBack (c : CtxNo) (pg : PageIx)
  | persistentFailure (node : Byte) (f : Failure)
  | sealDevice (cause : Byte)
  | alloc (pool : Fin 8)
  | free (a : LoamAddr)
  | retireOperation (k : Fin 4) (a : LoamAddr)
  | query (a : LoamAddr)
  | curBookSnap
  | quarantineRecordRead
  | titleEntryWrite (node : Byte) (t : BitVec 16) (k : Fin 2) (v : EntryPart)
  | input (c : CtxNo) (payload : List Byte)
  | feedback (c : CtxNo) (payload : List Byte)
  | refresh (c : CtxNo) (payload : List Byte)
  | frameReceive (port : Fin 2) (sub : Fin 4) (fcsOk : Bool) (bytes : List Byte)
  | xoff (port : Fin 2) (sub : Fin 4)
  | xon (port : Fin 2) (sub : Fin 4)
  | packetDequeue (port : Fin 2) (sub : Fin 4)
  | transmitEnd (port : Fin 2) (sub : Fin 4)
  | portControlWrite (port : Fin 2) (v : Reg32)
  | linkChange (port : Fin 2) (sub : Fin 4) (up : Bool)
  | flowRead
  | flowWrite
  | controlPush
  | qmBookSnap
  | wakeRead
  | keeperTransmit
  | transmitRingPoll
  | rootLock
  | ptpSet
  | ptpStep (neg : Bool)
  | pherrWrite (e : Reg32)
  | integratorWrite (v : BitVec 28)
  | synceWindow (f : BitVec 28)
  | holdPtp
  | ptpTimeRead
  | kprRunWrite (node : Byte) (v : Reg32)
  | claimRead (node : Byte) (c : Fin 64)
  | claimFree (node : Byte) (c : Fin 64)
  | watchdogKick (k : Fin 4) (v : Word)
  | watchdogWarn (k : Fin 4)
  | watchdog (k : Fin 4)
  | dicClaim (t : Fin 8)
  | dicComplete (t : Fin 8) (n : BitVec 9)
  | dicSwset (n : BitVec 9)
  | groupFire (g : Fin 64)
  | bootRomStart
  | ident (m : DcpMsg)
  | logread (m : DcpMsg)
  | dcpMode (m : DcpMsg)
  | imgcheck (m : DcpMsg)
  | imgwrite (m : DcpMsg)
  | bootsel (m : DcpMsg)
  | imgrun (m : DcpMsg)
  | lread (m : DcpMsg)
  | lwrite (m : DcpMsg)
  | keyset (m : DcpMsg)
  | minver (m : DcpMsg)
  | netset (m : DcpMsg)
  | programCommand (m : DcpMsg)
  | dcpReply (status : Byte) (body : List Byte)
  | rd (node tag : Byte) (a : LoamAddr) (len : BitVec 7)
  | wr (node tag : Byte) (a : LoamAddr) (data : List Word) (parityOk poison : Bool)
  | pwr (node tag : Byte) (a : LoamAddr) (data : List Word) (parityOk poison : Bool)
  | atom (node tag : Byte) (atype : BitVec 4) (a : LoamAddr) (data : List Word)
  | event (node : Byte) (msg : EventMsg)
  | line (agent : Fin 4) (level : Bool)
  | doorbell (agent : Fin 4) (code : Word) (slot : Word) (idx : Reg32)
  | rdr (node tag : Byte) (parityOk : Bool)
  | wrr (node tag : Byte)
  | pack (node tag : Byte)
  | atr (node tag : Byte) (parityOk : Bool)
  | loamTimeout (node tag : Byte)
  | moduleFail (link : Fin 4)
  | loamCredsnap (die : Fin 3)
  | tapItem (c : CtxNo)
  | tapReturn (agent : Fin 4) (data : List Word)
  | plinthRun (cause : Byte)
  | plinthReset
  | isolation (cause : IsolationCause)
  | plnPwrloss (thermal : Bool)
  | plnTDbell (v : Reg32)
  | powerRequest (node : Byte) (v : Reg32)
  | ascentStep
  | stepFail (what : StepFailure)
  | descent
  | drainEnd
  | pwrDieWrite (node : Byte) (v : Reg32)
  | wakeTimer
  | wakePin (pin : Fin 16)
  | pwrSwreset (node : Byte) (key : Word)
  | resetN
  | supplyOn
  | supplyLoss
  | supplyLow (mv : Word)
  | temperatureRead (rd0 rd1 hd : BitVec 10) (ps : BitVec 2)
  | nvrWrite (node : Byte) (fromRom : Bool) (n : BitVec 9) (v : Reg32)
  | nvrCommit (ok : Bool)
  | alogWrite (k : Fin 4) (ctrl : Reg32)
  | recordSeal
  | logScan (lostBefore : Word)
  | gpioOutWrite (bank : Fin 3) (oe : Bool) (v : Reg32)
  | gpioEnWrite (v : Reg32)
  | debounceChange (pin : Fin 48) (level : Bool)
  | strapSample (gpio9 gpio10 : Bool)
  | i2cGo (i : Fin 4) (ctrl : Reg32)
  | i2cDone (i : Fin 4) (result : BitVec 3) (rx : List Byte)
  | uartWrite (k : Fin 2) (b : Byte)
  | uartRead (k : Fin 2)
  | uartReceive (k : Fin 2) (b : Byte)
  | tachEdge (k : Fin 4) (us : Nat)
  | tachStall (k : Fin 4)
  | monitorEnable
  | monCommit
  | monVblank
  | monHpd (e : HpdEvent)
  | linkTraining (trains : List (Nat × Nat))
  | bypass
  | idcode
  | samplePreload (preload : List Bool)
  | extest
  | clamp
  | highz
  | trstN
  | registerWrite (t : RegTarget)
  | pfcPauseEnd (port : Fin 2) (sub : Fin 4) (prio : Fin 8)
  | supplyLowEnd (mv : Word)
  | moduleRetrain (link : Fin 4)
  | moduleRetrainEnd (link : Fin 4)
  | uartTransmit (k : Fin 2)
  | ledBlink (k : Fin 6)
  | videoPacketReceive (pk : VideoPkt)
  | audioPacketPlay (pk : AudioPkt)
  | rootLockLoss
  deriving DecidableEq, Repr

end Sys2Proof
end

