-- ==== Sys2Proof/Config.lean ====
section
/-! DEFINITION. What the specification leaves open or takes from outside: opaque constants, with no body, so that
nothing in Lean can evaluate them. `notes/assumptions/1.md` and `7.md` list them. The counter that feeds the free
values is `State.fresh`. -/

namespace Sys2Proof.Config

/-- Free word number `n`: a result that the specification leaves open (log entry 1). -/
opaque freeWord : Nat → Word

/-- Free count number `n`: a wall-time or cycle figure that the specification gives as typical or as a bound only
(R76, R101, R128; log entry 1). -/
opaque freeCount : Nat → Nat

/-- The wall time of stall number `n` of the stall counter at an address: no figure is given (R70, R72, R73, R76; log
entry 1). -/
opaque stallTime : (counter n : Nat) → Nat

/-- Whether the `n`th virtual cycle that a thread of a slot has run is a spare seat that its core gave it: the order among the
threads of a core, and which seats go spare, are not a function of one session (R97; log entry 69). -/
opaque spareSeat : (slot n : Nat) → Bool

/-- The cache lines that wrong paths fill in the `n`th virtual cycle a Fast-mode session has run on a slot (R131, R132; log entry
69). -/
opaque wrongFills : (slot n : Nat) → Nat

/-- What the five bits of QM_QSTAT.COUNT show of an input queue of `n` packets, more than 31 (R324; log entry 72). -/
opaque queueCount : Nat → BitVec 5

/-- Free choice number `n`: an order or instant that the specification leaves open (R61, R307; log entry 1). -/
opaque freeBool : Nat → Bool

/-- The candidate that a pool's free list gives next: any frame number (R61: the order is not specified). -/
opaque freeFrame : (pool n : Nat) → Nat

/-- The block hash of R296: a 64-bit function of the block's 64 colours and DEPTH; Alquel does not publish it. -/
opaque blockHash : (depth : Nat) → List (BitVec 30) → BitVec 64

/-- The first 16 bytes of HMAC-SHA-256 (R364), defined outside the specification. -/
opaque hmac : (key msg : List Byte) → Vector Byte 16

/-- Ed25519 verification of an image's signature under a public key (R359, R360), defined outside the specification. -/
opaque ed25519 : (key msg sig : List Byte) → Bool

/-- The fused base MAC address: unicast, its low three bits 0 (R361). -/
opaque fusedMac : BitVec 45

/-- The identity registers of the guest die that the partner fixes (R396), by register offset. -/
opaque guestIdent : Nat → BitVec 32

/-- The bytes of the reply of the Keeper program or the module text that leave the model (R367 program range). -/
opaque freeByte : Nat → Byte

/-- The words of Alquel's release key, image key 0 at manufacture (R358): not published. -/
opaque releaseKey : Nat → BitVec 32

/-- The ORIGIN byte of a WATCHDOG or KEEPER_HALT record: R426 names no unit for it (log entry 1). -/
opaque keeperOrigin : Byte

/-- The cause byte of the SEALED record at critical temperature (R437): no code is given (log entry 1). -/
opaque sealHotCause : Byte

/-- The duration of ASCENT number `n` as PWR_STEP.TIME shows it (R409: typical figures only). -/
opaque ascentTime : Nat → Word

/-- The bytes of the Keeper rings' placement by the boot ROM (R361 step 3): item `i` of its choice. -/
opaque bootRing : Nat → BitVec 32

/-- What the guest die answers to its `n`th request (R393, R396): it decodes its ranges as it chooses. -/
opaque guestStatus : Nat → BitVec 4
opaque guestWord : (n i : Nat) → Word

/-- A reading of PWR_PIN (R420): the input power is not a function of this model's state. -/
opaque inputPower : Nat → Word

/-- A word of the boot ROM (R347): its contents are not published. -/
opaque romWord : Nat → Word

end Sys2Proof.Config
end

