-- ==== Sys2Proof/Machine/State.lean ====
section
/-! DEFINITION. The state of the block as plain data, the reasons a step can stop, and the state after a supply
reset. Sparse tables are lists of (key, value) pairs with strictly rising keys and no entry equal to what an unlisted
key reads as; `Machine/Sparse.lean` reads and writes them. -/

namespace Sys2Proof.Machine

/-- The four parts of R2. -/
inductive Part where
  | sr16k128 | sr16k064 | sr16k128p | sr16k064p
  deriving DecidableEq, Repr, Inhabited

/-- A sparse table: keys strictly rising. -/
abbrev Sparse (α : Type) := List (Nat × α)

/-! ### The Gliyx-16 processor -/

/-- What a scoreboard bit stands on: a register or ST (R121). -/
inductive ScoreTarget where
  | reg (r : RegNo)
  | status
  deriving DecidableEq, Repr, Inhabited

/-- A control transfer waiting for its delay slot (R123, R157). `annulled`: the slot does not complete. -/
structure DelaySlot where
  taken : Bool
  target : Word
  annulled : Bool
  deriving DecidableEq, Repr, Inhabited

/-- What a write subject to the mode-change distance will change (R126). -/
inductive ModeTarget where
  | yz (b : Bool)
  | il (l : BitVec 3)
  | ie (b : Bool)
  | io (a : Nat) (v : Word)
  deriving DecidableEq, Repr, Inhabited

/-- A mode-change write and the instructions still to complete before it takes effect (R126). -/
structure ModeWrite where
  left : Nat
  target : ModeTarget
  deriving DecidableEq, Repr, Inhabited

/-- What an instruction sequence of several cycles does (R169, R172, R173): an entry, a RETI, or a tail-chain. -/
inductive SeqKind where
  | entry | reti | chain
  deriving DecidableEq, Repr, Inhabited

/-- A sequence in progress: the cycle it makes next, the source selected (none for a fault) and its level, the words it
pushes or has popped, and the vector it has read. Until a RETI has popped its return address, `ret` is the stack pointer it began
with. -/
structure Seq where
  kind : SeqKind
  step : Nat
  src : Option Nat
  level : Nat
  ret : Word
  st : Word
  vec : Word
  deriving DecidableEq, Repr, Inhabited

/-- An instruction in progress: the cycle it issued in, the cycles it takes in all, and what the first half of a split pair
access has loaded, once that has been made (R119). -/
structure Issued where
  first : Nat
  total : Nat
  half : Option (List Word)
  deriving DecidableEq, Repr, Inhabited

/-- The last instruction of a Fast-mode thread, where a second may share its issue cycle (R130): that cycle, its code line,
whether it accesses memory, what it writes, and the scoreboard bits that were set in that cycle. -/
structure IssuedFirst where
  first : Nat
  line : Nat
  mem : Bool
  writes : List ScoreTarget
  held : List ScoreTarget
  deriving DecidableEq, Repr, Inhabited

/-- A far access of a Keeper whose response is on the way (R139): the die it goes to, whether it is a store, and the cycle in which
the response arrives. -/
structure FarOut where
  die : Nat
  store : Bool
  back : Nat
  deriving DecidableEq, Repr, Inhabited

/-- The state of one Gliyx-16 processor (R111, R112, R120 to R126, R137). `st` is ST as MFST reads it; `yz`, `il`
and `ie` are the fields in force. `shadow`: what ran last, a load or an entry, shadows the boundary the processor stands at
(R125, R170, R173). `clear`: a RETI ran last, and that boundary is not shadowed (R172). `now` counts its cycles since CREATE or
start. `issued`, `seq`: the instruction or sequence that virtual time stopped in, or that waits (R45, R73). `far`: the far accesses
outstanding. -/
structure CpuState where
  w : Vector Word 16
  x : Vector Word 4
  seg : Vector (BitVec 38) 8
  pc : Word
  st : Word
  yz : Bool
  il : BitVec 3
  ie : Bool
  loadOld : List (RegNo × Word)
  shadow : Bool
  clear : Bool
  score : List (ScoreTarget × Nat)
  slot : Option DelaySlot
  modePend : List ModeWrite
  waiting : Bool
  halted : Bool
  now : Nat
  issued : Option Issued
  seq : Option Seq
  prev : Option IssuedFirst
  far : List FarOut
  deriving DecidableEq, Repr, Inhabited

/-- A session timer (R174 to R177): its control word (EN, PERIODIC, CHAIN, START, PRE), RELOAD, COUNT, whether it
waits for its start cycle, and its prescaler phase. -/
structure TimerSt where
  ctrl : Word
  reload : Word
  count : Word
  armed : Bool
  phase : Nat
  deriving DecidableEq, Repr, Inhabited

/-- The interrupt sources of one processor (R165 to R168). -/
structure IntSt where
  pend : Word
  en : Word
  lvl0 : Word
  lvl1 : Word
  ovr : Word
  last : Word
  t0 : TimerSt
  t1 : TimerSt
  deriving DecidableEq, Repr, Inhabited

/-! ### Sound -/

/-- One voice (R253 to R258): envelope phase 0 OFF to 4 RELEASE, position, envelope level, ADPCM history, the values
latched at key-on, and the key stores that wait for the next sample (true: KON). -/
structure Voice where
  phase : BitVec 3
  idx : Nat
  frac : Nat
  env : Nat
  s1 : Int
  s2 : Int
  start : Word
  len : Word
  lp : Word
  fmt : BitVec 2
  bank : Bool
  interp : Bool
  keys : List Bool
  deriving DecidableEq, Repr, Inhabited

/-- A linear ramp over 32 samples (R262): the gain before it, its target and the samples done. -/
structure Ramp where
  g0 : Int
  gt : Int
  j : Nat
  deriving DecidableEq, Repr, Inhabited

/-- The sound unit of a session (R250 to R267). `due` counts samples whose cycle virtual time has passed and that are
not yet mixed; `ramps` is keyed by node 4i+b, 136 and 137 the master gains, 140+b the bus scales; `scale` holds each
F_b. `packet` holds the samples of the packet being filled. -/
structure Sound where
  acc : Nat
  samples : Nat
  due : List Nat
  voices : Sparse Voice
  ramps : Sparse Ramp
  scale : Vector Nat 4
  silent : Bool
  quiet : Nat
  packet : List (Int × Int)
  packetSilent : Bool
  deriving DecidableEq, Repr, Inhabited

/-! ### Blitter and DMA -/

/-- An accepted blit (R238 to R247): its latched parameters, directions, and where its schedule stands. `start` is the
first cycle of the next or present burst, or the cycle a blit with no bursts completes in; `latched` holds the words the
present burst will write (address, bits written, their values); `abort`: an abort landed during it. -/
structure Blit where
  fillOp : Bool
  depth : Nat
  rop : BitVec 4
  keyen : Bool
  sbank : Nat
  dbank : Nat
  sbase : Nat
  sstride : Nat
  sx : Nat
  sy : Nat
  dbase : Nat
  dstride : Nat
  dx : Nat
  dy : Nat
  width : Nat
  height : Nat
  fill : Word
  key : Word
  dead : Nat
  wmline : Nat
  ydesc : Bool
  xdesc : Bool
  cost : Nat
  row : Nat
  burst : Nat
  start : Nat
  rowsDone : Nat
  wmRaised : Bool
  latched : Option (List (Nat × Word × Word))
  abort : Bool
  deriving DecidableEq, Repr, Inhabited

/-- The phase in which a DMA channel stands (R278, R281, R284). -/
inductive DmaPhase where
  | off | idle | fetch | run | writeBack
  deriving DecidableEq, Repr, Inhabited

/-- The parameters of a DMA channel's run, latched as EN becomes 1: the ring's base and length and, on a streaming channel, the
control word, the destination ring and the chunk (R278, R284, R288). -/
structure DmaRun where
  ctrl : Word
  p0 : Word
  p1 : Word
  dlen : Word
  chunk : Word
  dbase : Word
  rate : Nat
  deriving DecidableEq, Repr, Inhabited

/-- A DMA channel (R276 to R287): the parameters latched at EN, the descriptor in hand and the transfer position.
`p0` and `p1` are the ring's base and length; `desc` and `descAt` the descriptor in hand and its address; `next`: EN was stored as 1
while what was begun before still ends, and these are the parameters the channel then starts with; `ready` the first cycle its next action may start in, `gapUntil` the first
cycle the rate gap leaves to its next burst; `trigs` the trigger cycles that its schedule has not reached. -/
structure DmaCh where
  phase : DmaPhase
  kpend : Bool
  ctrl : Word
  p0 : Word
  p1 : Word
  dlen : Word
  chunk : Word
  dbase : Word
  rate : Nat
  desc : List Word
  descAt : Nat
  next : Option DmaRun
  row : Nat
  col : Nat
  left : Nat
  held : Bool
  ready : Nat
  gapUntil : Nat
  trigs : List Nat
  result : BitVec 2
  abort : Bool
  abortLate : Bool
  stopAfter : Bool
  deriving DecidableEq, Repr, Inhabited

/-- The transfer action the DMA port carries (R273): its channel, its first and last cycles, how many words a burst
moves from what source offset, and what it writes when it lands: space, bank, address, value. -/
structure DmaAct where
  ch : Fin 4
  first : Nat
  land : Nat
  count : Nat
  source : Nat
  words : List (Nat × Nat × Nat × Word)
  deriving DecidableEq, Repr, Inhabited

/-! ### The session -/

/-- What a beam undo entry restores: an I/O word, the live value of a shadowed register, a palette entry. -/
inductive UndoKind where
  | io | live | palette
  deriving DecidableEq, Repr, Inhabited

/-- An undo entry of a display register or palette write, with the beam position it landed at (R199). `lpg`: a line
program's entry (R200). -/
structure BeamUndo where
  frame : Nat
  line : Nat
  dot : Nat
  kind : UndoKind
  addr : Nat
  old : BitVec 24
  lpg : Bool
  deriving DecidableEq, Repr, Inhabited

/-- A journal entry: bank, word address, old value and landing cycle (R204, R251). -/
structure JournalEntry where
  bank : Nat
  addr : Nat
  old : Word
  cycle : Nat
  deriving DecidableEq, Repr, Inhabited

/-- The line-program sequencer (R212 to R215): `frame` counts the frame starts it has taken, `line` and `dot` are the
position of the entry at `pc`. LPG_PTR is held with the I/O words. -/
structure Lpg where
  running : Bool
  bank : Nat
  pc : Word
  lc : BitVec 12
  frame : Nat
  line : Nat
  dot : Nat
  deriving DecidableEq, Repr, Inhabited

/-- A session mailbox (R354): inbound words written low and high, whether committed, replaced, and the outbox. -/
structure Mailbox where
  low : Reg32
  inbound : Option (BitVec 64)
  replaced : Bool
  outbox : BitVec 64
  full : Bool
  emptied : Bool
  deriving DecidableEq, Repr, Inhabited

/-- A rendered line in a band buffer: RGB 8:8:8 pixels (R224). -/
structure LineBuf where
  frame : Nat
  line : Nat
  pixels : List (BitVec 24)
  deriving DecidableEq, Repr, Inhabited

/-- A line of a thread's staging share (R74): its tag, and its words that the thread has written since it was filled. Its
other words are those of the copy it was filled from, which no other agent writes without dropping the line (R76). -/
structure StageLine where
  tag : Nat
  words : List (Nat × Word)
  deriving DecidableEq, Repr, Inhabited

/-- A frame that has ended: the cycle it began in and its five timing values, kept while the line engine has lines of it to
render (R99, R203). -/
structure PastFrame where
  f : Nat
  start : Nat
  timing : List Word
  deriving DecidableEq, Repr, Inhabited

/-- Everything a context's state pages hold (R45, R54). `io` holds each I/O word as last written, `eff` the values
in force of the registers of R126, `live` the live values of the shadowed registers (R209). `share` is the staging
share in lines, fixed at admission (R86); `lastBoundary` the frame and line of the last band boundary that acted,
`endPos` the line and dot at which the last frame ended, `past` the frames that have ended, the latest first;
`lineSkip` that the LINE position was set when already passed, `lineFrom` the cycles passed at that write (R211).
`lines`: composed lines that no coded band has used yet. `blitEnd`: the cycle after the last blit's end; `unitAt` and
`unitPre`: the first cycle whose DMA and blitter events are not all performed, and whether its starts are. `raiseNext`: the
sources that the band boundary just crossed raises in the next cycle that passes, its line's first (R211). `sprClears`: stores to SPR_STAT, by the frame and line they landed
in, that come before the overflow flags of lines not rendered yet (R194). -/
structure Session where
  cpu : CpuState
  int : IntSt
  grand : Bool
  fast : Bool
  io : Sparse Word
  eff : Sparse Word
  live : Sparse Word
  nextTiming : Option (List Word)
  pal : Sparse (BitVec 24)
  vcyc : Nat
  frame : Nat
  lineRaised : Bool
  vblankDone : Bool
  undo : List BeamUndo
  vjournal : List JournalEntry
  sjournal : List JournalEntry
  lpg : Lpg
  blit : Option Blit
  blitEnd : Nat
  dma : Vector DmaCh 4
  dmaAct : Option DmaAct
  unitAt : Nat
  unitPre : Bool
  snd : Sound
  mb : Mailbox
  lastValid : Bool
  vseq : BitVec 32
  aseq : BitVec 32
  mgen : Word
  ranKind : BitVec 2
  ranDepth : BitVec 2
  emptiedAt : Option Nat
  staging : List StageLine
  share : Nat
  midBand : Bool
  lastBoundary : Option (Nat × Nat)
  endPos : Nat × Nat
  past : List PastFrame
  lines : List LineBuf
  lineSkip : Bool
  lineFrom : Nat
  raiseNext : Word
  sprClears : List (Nat × Nat × Word)
  deriving DecidableEq, Repr, Inhabited

/-! ### Contexts, titles, flows -/

/-- The states of a context (R36). -/
inductive CtxState where
  | free | suspended | admitting | running | suspending | exported | quarantined | retiring | importing
  deriving DecidableEq, Repr

/-- A page map entry (R59), with whether a page-in is in flight (R66). -/
structure PageEntry where
  alloc : Bool
  cow : Bool
  gcopy : Bool
  dirty : Bool
  home : BitVec 25
  gframe : BitVec 16
  inflight : Bool
  deriving DecidableEq, Repr

/-- The context table entry (R35, R36), the page map (R59), the wake-pending bit (R323) and the state pages. -/
structure Context where
  state : CtxState
  profile : Bool
  xmode : Bool
  keepMirror : Bool
  wake : Bool
  gen : Byte
  slot : SlotNo
  title : BitVec 16
  mapRoot : BitVec 36
  envH : BitVec 10
  envV : BitVec 10
  periodFx : BitVec 44
  vclk : BitVec 27
  lead : BitVec 4
  pixCharge : Reg32
  pages : Sparse PageEntry
  wakePending : Bool
  ses : Option Session
  deriving DecidableEq, Repr

/-- A title entry (R77). -/
structure Title where
  state : BitVec 2
  cPages : BitVec 16
  dPages : BitVec 16
  list : LoamAddr
  frames : List (BitVec 25)
  deriving DecidableEq, Repr

/-- A frame record (R57, R87). `shares` counts the page maps that name a home frame; `copy` names the die and Gallery
frame of the current copy, if that is in a Gallery. `home`: for a Gallery frame that holds a copy, the Vault frame it
is a copy of (what R57 has the Curator keep in its own SRAM). -/
structure FrameRec where
  pool : BitVec 2
  shares : BitVec 16
  title : Bool
  grant : Bool
  copy : Option (Bool × BitVec 16)
  home : Option Nat
  deriving DecidableEq, Repr

/-- A page-in under way (R66 to R68): its die and home frame, its class (1 to 3), in class 1 the deadline of the band it
serves, and the contexts of the Exact-mode sessions whose virtual time stands for it (R73). They stand in the order in which they
arose. -/
structure PageReq where
  die : Nat
  home : Nat
  cls : Nat
  due : Nat
  freezes : List CtxNo
  deriving DecidableEq, Repr

/-! ### Slots: schedule, queues, line engine -/

/-- A frame start fixed by the Beam Scheduler, and the band periods at which STRETCH shifts were taken (R92). -/
structure FrameSched where
  f : Nat
  s : Nat
  period : Nat
  shifts : List Nat
  deriving DecidableEq, Repr

/-- A packet in an input queue: its UDP payload and arrival timestamp (R306, R324). -/
structure InPkt where
  payload : List Byte
  arrival : Nat
  deriving DecidableEq, Repr

/-- The headers a packet leaves with: the flow entry's words as R331 fixes them for it. -/
abbrev FlowWords := List Reg32

/-- A returned packet (R400): the tap item it answers, its payload's address and length, and whether it is the last. -/
structure TapBuf where
  idx : Reg32
  buf : LoamAddr
  len : Nat
  last : Bool
  deriving DecidableEq, Repr

/-- A band or packet that is to be written to a tap (R399): the fields of its header and its data. -/
structure TapItem where
  kind : Nat
  frame : Nat
  band : Nat
  depth : Nat
  width : Nat
  line0 : Nat
  nlines : Nat
  rel : Nat
  late : Bool
  seq : Nat
  flags : Byte
  final : Bool
  data : List Byte
  deriving DecidableEq, Repr

/-- A band descriptor in a video queue (R293, R324). -/
structure BandDesc where
  frame : Nat
  band : Nat
  flags : Byte
  fragments : List (List Byte)
  lead : Int
  tag : Word
  chk : List Word
  pos : List Nat
  mgen : Word
  width : Nat
  line0 : Nat
  nlines : Nat
  kind : BitVec 2
  flow : FlowWords
  late : Bool
  sentFragments : Nat
  returned : Option TapBuf
  deriving DecidableEq, Repr

/-- An audio packet in an audio queue (R268, R304), with the frame and band period of its last sample (R269). -/
structure AudioDesc where
  pkt : Nat
  frame : Nat
  band : Nat
  silence : Bool
  samples : List Byte
  rel : Nat
  flow : FlowWords
  late : Bool
  returned : Option TapBuf
  deriving DecidableEq, Repr

/-- A control packet in a control queue (R325). -/
structure CtlDesc where
  buf : LoamAddr
  len : Nat
  pushed : Nat
  flow : FlowWords
  deriving DecidableEq, Repr

/-- A band that slipped and whose marker or late band is still to go (R102). -/
structure Slip where
  frame : Nat
  band : Nat
  policy : BitVec 2
  markerSent : Bool
  deriving DecidableEq, Repr

/-- A slot: the context that holds it, its schedule, its queues and its band buffers. `horizonF` and `horizonK` name the
first band period that has not entered the horizon (R94); `audioWait`: audio packets that wait for room in their queue (R324); `tested`, `coded` and `released` the first band not yet tested
at its deadline, coded and queued, released. `strLog` and `flowLog` hold STR_CTRL and the egress headers with the band
period from which each applies, the latest first (R312, R331). `emptyAt`: the band periods before whose bands the mirror
is emptied (R298); `emptyPend` and `orderPend`: a reset waits for the next boundary. `monF` and `monK` name the next band
to copy to the monitor (R233). `recent`: the mirror entries used since the order was last reset, the least recent first (R296).
`jitNow`: the jitter of the band being sent, none where its first fragment was discarded; `dropped`: plane bands discarded under
REPEAT that bands before them have still to leave (R102, R311).
`firstF` and `firstLine`: the position at which virtual time resumed (R45). `ahead`: the pages R71 holds. `tapLog`: TMODE
with the frame from which each applies, the latest first; `tapQ`: what is still to be written to the tap; `tapDone`: bands
whose last return was accepted (R398 to R400). -/
structure SlotSt where
  ctx : Option CtxNo
  upper : Bool
  stopped : Bool
  sched : List FrameSched
  period : Nat
  periodPend : Option Nat
  phasePend : Option Reg32
  ctrlEff : Reg32
  strLog : List (Nat × Nat × Reg32)
  flowNew : Option FlowWords
  flowLog : List (Nat × Nat × FlowWords)
  leadNow : Nat
  leadPend : Option Nat
  narrow : Nat
  tightFrames : List Nat
  horizonF : Nat
  horizonK : Nat
  tokens : Int
  rendered : Nat
  renderFrame : Nat
  clocks : Nat
  inputQ : List InPkt
  videoQ : List BandDesc
  audioQ : List AudioDesc
  audioWait : List AudioDesc
  controlQ : List CtlDesc
  slips : List Slip
  slipped : List (Nat × Nat)
  slipFrameQuiet : Bool
  testedF : Nat
  testedK : Nat
  codedF : Nat
  codedK : Nat
  releasedF : Nat
  releasedK : Nat
  monF : Nat
  monK : Nat
  recent : List Nat
  emptyAt : List (Nat × Nat)
  emptyPend : Bool
  orderPend : Bool
  refreshQ : List (Word × Nat)
  leadMinF : Option Int
  jitMaxF : Option Nat
  jitNow : Option Nat
  dropped : List (Nat × Nat)
  firstF : Nat
  firstLine : Nat
  ahead : List Nat
  tapLog : List (Nat × BitVec 3)
  tapQ : List TapItem
  tapDone : List (Nat × Nat)
  deriving DecidableEq, Repr

/-! ### Keepers -/

/-- A Keeper (R347 to R351, R355): its processor, RAM, I/O words, and watchdog stage and count. -/
structure Keeper where
  cpu : CpuState
  int : IntSt
  dram : Sparse Word
  io : Sparse Word
  eff : Sparse Word
  running : Bool
  wdStage2 : Bool
  wdLeft : Nat
  lineWas : Bool
  deriving DecidableEq, Repr

/-! ### Device units -/

/-- The device interrupt controller (R370 to R376). -/
structure Dic where
  pend : BitVec 512
  insvc : BitVec 512
  level : BitVec 512
  released : BitVec 512
  deferred : BitVec 512
  holder : Sparse (BitVec 3)
  gEvents : Sparse Nat
  gElapsed : Sparse Nat
  gRunning : BitVec 64
  deriving DecidableEq, Repr

/-- The operating modes, in the order of their codes (R406). -/
inductive Mode where
  | off | bedrock | ascent | attended | serving | draining | quiescent | dormant | diagnostic | plinthTest
  | recovery | sealed
  deriving DecidableEq, Repr

/-- The power sequencer (R405 to R420). Bit k of `on`: the domain of step k of R409 is powered; `goal`: the mode a
descent or warm ASCENT leads to; `ascents` counts those begun. -/
structure Power where
  mode : Mode
  transit : Bool
  warm : Bool
  after : Mode
  cause : Byte
  on : BitVec 64
  retained : Bool
  selfRefresh : BitVec 2
  dieEn : BitVec 2
  dieFailed : BitVec 2
  dieUnavail : BitVec 2
  fail : BitVec 10
  lastStep : Byte
  goal : Mode
  dieGoal : Option (BitVec 2)
  result : Byte
  target : BitVec 4
  hot : Vector Nat 3
  level : Vector (BitVec 2) 4
  temp : Vector (BitVec 10) 3
  vin : Word
  supplyLow : Bool
  heldWake : Bool
  ascents : Nat
  deriving DecidableEq, Repr

/-- The timebase and the clock servo (R333 to R346): `time` in units of 2^-16 ns, the rotation place, and the divider
positions of the 1 MHz utility tick and the millisecond. -/
structure Clock where
  time : Nat
  rot : Fin 3
  sub : Nat
  subMs : Nat
  rootLock : Bool
  adjBad : Bool
  trimLim : Bool
  holdPtp : Bool
  holdSynce : Bool
  trim : Int
  integ : Int
  prop : Int
  freq : Int
  windows : List Int
  src : BitVec 2
  phAge : Nat
  deriving DecidableEq, Repr

/-- A context command port (R38 to R41). `prior`: the new entry of a SNAPSHOT or FORK as it was before the command. -/
structure Port where
  ctx : CtxNo
  args : Vector Reg32 3
  busy : Bool
  lastOp : Byte
  result : Byte
  waiting : Option (CtxNo × Byte)
  prior : Option Context
  deriving DecidableEq, Repr

/-- An accepted Accession Log record: its 256 bytes (R426). -/
abbrev AlogRec := List Byte

/-- What survives a power loss: NV registers, Accession Log, images (ch. 20). A queued NV write holds its register, its value and the
utility ticks since its acceptance. -/
structure Rram where
  nvShadow : Sparse Reg32
  nvCommitted : Sparse Reg32
  nvWear : Sparse Reg32
  nvQueue : List (Nat × Reg32 × Nat)
  ring : Sparse AlogRec
  imageA : Sparse Byte
  imageB : Sparse Byte
  deriving DecidableEq, Repr

/-- A record as offered: its fields before SEQ is assigned (R426). -/
structure AlogOffer where
  code : Word
  origin : Byte
  body : List Byte
  boot : Reg32
  time : Nat
  deriving DecidableEq, Repr

/-- The Accession Log engine (R428 to R432). `backlog`: records accepted before the scan has given the next SEQ. -/
structure Alog where
  ready : Bool
  next : Reg32
  queue : List AlogRec
  writing : Option AlogRec
  lostSince : Nat
  backlog : List (AlogOffer × Nat)
  deriving DecidableEq, Repr

/-- The kinds of Loam request (R382). -/
inductive LoamOp where
  | rd | wr | pwr | atom
  deriving DecidableEq, Repr

/-- An outstanding Loam request with the response its target has sent (R384, R390). `got`: the target answered; `wrong`:
a word it read holds inverted parity; `poison`: the response has POISON set, or the write does; `age`: utility ticks since it was
issued (R392). -/
structure LoamReq where
  node : Byte
  tag : Byte
  op : LoamOp
  addr : LoamAddr
  len : Nat
  data : List Word
  attempts : Nat
  got : Bool
  status : BitVec 4
  resp : List Word
  wrong : Bool
  poison : Bool
  atype : BitVec 4
  age : Nat
  deriving DecidableEq, Repr

/-- A UCIe link (R17, R378, R379): modules up, modules retraining. Links: 0 RD0-HD, 1 RD1-HD, 2 RD0-RD1, 3 PS-HD. -/
structure Link where
  up : Nat
  retraining : Nat
  deriving DecidableEq, Repr

/-- A Loam credit pool (R388). -/
structure Pool where
  avail : Byte
  held : Byte
  adv : Byte
  deriving DecidableEq, Repr

/-- A tap item the guest die has been sent (R399, R400): its slot, sequence number, kind, band or packet, the flags its
returns' descriptor carries, the returns accepted and still to leave, and whether the last was accepted. `final`: the
last item of its band. -/
structure TapSent where
  slot : SlotNo
  idx : Reg32
  kind : Nat
  frame : Nat
  band : Nat
  rel : Nat
  flags : Byte
  final : Bool
  count : Nat
  open_ : Nat
  done : Bool
  deriving DecidableEq, Repr

/-- The Plinth site as HD sees it (R393 to R404). -/
structure Plinth where
  present : Bool
  resetN : Bool
  pwrGood : Bool
  therm : BitVec 2
  isolated : Bool
  isoCause : Byte
  guest : Sparse Reg32
  ram : Sparse Byte
  msgBad : Nat
  msgMs : Nat
  idx : Sparse Reg32
  delivered : List TapSent
  deriving DecidableEq, Repr

/-- A sub-port (R316, R318, R328, R329): link, the bytes without FCS of the packets on the wire, PFC pauses, XOFF sent. -/
structure SubPort where
  link : Bool
  align : Bool
  held : List Nat
  paused : BitVec 8
  xoff : Bool
  deriving DecidableEq, Repr

/-- A GPIO pin (R445 to R453): filtered and synchronised level, debounce count, owner, the 384 MHz cycles its switch still
takes, and the level the pad holds meanwhile (none: undriven). -/
structure Pin where
  filt : Bool
  raw : Bool
  cnt : Nat
  owner : BitVec 2
  switch : Nat
  held : Option Bool
  deriving DecidableEq, Repr

/-- The peripheral blocks (R455). -/
structure Periph where
  i2cBusy : BitVec 4
  i2cResult : Vector (BitVec 3) 4
  uartTx : Vector (List Byte) 2
  uartRx : Vector (List Byte) 2
  uartOvr : BitVec 2
  tachLast : Vector (List Nat) 4
  tachStall : BitVec 4
  ledLit : BitVec 6
  straps : BitVec 2
  strapped : Bool
  deriving DecidableEq, Repr

/-- The monitor compositor (R231 to R234, R459). -/
structure Monitor where
  en : Bool
  pending : Bool
  live : Sparse (Reg32 × Reg32 × Reg32)
  written : List (Nat × Nat)
  hpd : Bool
  link : Bool
  lanes : BitVec 2
  rate : BitVec 2
  deriving DecidableEq, Repr

/-- The instructions of the test access port (R460). -/
inductive JtagInstr where
  | reset | bypass | idcode | samplePreload | extest | clamp | highz
  deriving DecidableEq, Repr

/-- The test access port (R460): the selected instruction, the selected data register's value, the boundary
register. -/
structure Jtag where
  instr : JtagInstr
  dr : Reg32
  bsr : List Bool
  frozen : List Bool
  deriving DecidableEq, Repr

/-- The boot ROM and its DCP service (R361 to R369). `image`: what step 7 of R361 has loaded for the Keepers. -/
structure Boot where
  step : Nat
  slotB : Bool
  version : Reg32
  macFail : Reg32
  replays : Reg32
  lastSeq : Sparse (BitVec 64)
  lastReq : Sparse DcpMsg
  lastReply : Sparse DcpMsg
  image : Sparse Byte
  deriving DecidableEq, Repr

/-- A client of a stream (R300, R301) and what it last presented or played (R305): the blocks of a tile stream by their place, the
bytes of a plane stream by line pair and offset, both as they stand and as the frame before `frame` left them. -/
structure Client where
  cache : Sparse (List (BitVec 30))
  recent : List Nat
  mgen : Word
  insync : Bool
  expect : BitVec 32
  started : Bool
  screen : Sparse (List (BitVec 30))
  previous : Sparse (List (BitVec 30))
  refreshWanted : Bool
  played : List AudioPkt
  frame : BitVec 32
  planes : Sparse Byte
  previousPlanes : Sparse Byte
  deriving DecidableEq, Repr

/-- What leaves the device, or reaches a Loam requester: a frame on a sub-port, a Loam message, a DCP reply, a UART byte,
an I2C transfer, a tap item, a Loam response (log entry 3). -/
inductive Sent where
  | frame (port : Fin 2) (sub : Fin 4) (time : Nat) (bytes : List Byte)
  | message (mtype : Byte) (dst : Byte) (marg : Word) (data : List Word)
  | pfc (port : Fin 2) (sub : Fin 4) (prios : Byte) (quanta : Word)
  | dcp (m : DcpMsg)
  | uart (k : Fin 2) (b : Byte)
  | i2c (i : Fin 4) (addr : BitVec 7) (bytes : List Byte)
  | tap (agent : Fin 4) (addr : Nat) (bytes : List Byte)
  | response (node tag : Byte) (status : BitVec 4) (data : List Word)
  deriving DecidableEq, Repr

/-- The state of the block. `galleryOrder` lists the Gallery frames in the order of their last access, the least recent
first (R69); `pageReqs` the page-ins under way (R68). `images`: freed frames that still hold a state page of a session, and
`captured` the sessions exported (R45, R48; log entry 66). `ktxReady`: when the transmit ring's head was found owned (R330). `bad` marks the Loam words, by address divided by 2,
that hold inverted parity (R391). `pending`, `fresh`, `wire` and `answer` are the model's own (log entries 2 and 3). -/
structure State where
  pending : List Instr
  fresh : Nat
  wire : List Sent
  answer : BitVec 64
  part : Part
  mem : List Host.Cell
  bad : Sparse Bool
  regs : Sparse Reg32
  cnt64 : Sparse (BitVec 64)
  latch : Sparse Reg32
  entryLatch : Sparse (Option (Nat × Reg32))
  entryHold : Sparse (Option (Nat × Reg32))
  ctxs : Sparse Context
  titles : Sparse Title
  flows : Sparse FlowWords
  frames : Sparse FrameRec
  galleryOrder : List Nat
  pageReqs : List PageReq
  images : Sparse (Option (Session × Nat))
  captured : List Session
  slots : Sparse SlotSt
  ports : Vector Port 4
  keepers : Vector Keeper 4
  claims : Sparse (Option (Fin 4))
  dic : Dic
  power : Power
  clock : Clock
  rram : Rram
  alog : Alog
  loam : List LoamReq
  links : Vector Link 4
  credits : Sparse Pool
  plinth : Plinth
  subports : Sparse SubPort
  ktxReady : Option Nat
  pins : Sparse Pin
  periph : Periph
  monitor : Monitor
  jtag : Jtag
  boot : Boot
  client : Client
  wakeFifo : List Reg32
  slipFifo : Vector (List Reg32) 2
  haltFifo : Vector (List Reg32) 2
  mbqFifo : Vector (List Reg32) 2
  quarFifo : List Reg32
  deriving DecidableEq, Repr

/-- No command of the block stops the machine with a fault: every fault the specification names is a next state
(R140, R383, R433). -/
inductive Fault where
  deriving DecidableEq, Repr

/-- Why a step refuses a command. -/
inductive Refusal where
  /-- Raised by an arm of `exec` whose command has no meaning yet. Safe: nothing is claimed of it. -/
  | notModelled (mnemonic : String)
  deriving DecidableEq, Repr

/-! ### Reset values -/

/-- A timer at CREATE (R174). -/
def TimerSt.zero : TimerSt := { ctrl := 0, reload := 0, count := 0, armed := false, phase := 0 }

/-- Interrupt state at CREATE or start: nothing pending, enabled or overrun (R167, R168). -/
def IntSt.zero : IntSt :=
  { pend := 0, en := 0, lvl0 := 0, lvl1 := 0, ovr := 0, last := 0, t0 := TimerSt.zero, t1 := TimerSt.zero }

/-- A processor with every register zero: a session's at CREATE before its start values (R111), a Keeper's before its
first start (log entry 5). -/
def CpuState.zero : CpuState :=
  { w := Vector.replicate 16 0, x := Vector.replicate 4 0, seg := Vector.replicate 8 0, pc := 0, st := 0, yz := false,
    il := 0, ie := false, loadOld := [], shadow := false, clear := false, score := [], slot := none, modePend := [],
    waiting := false, halted := false, now := 0, issued := none, seq := none, prev := none, far := [] }

/-- A Keeper that has never run: ST.K reads 1 (R112; log entry 5). -/
def Keeper.zero : Keeper :=
  { cpu := { CpuState.zero with st := 0x8000 }, int := IntSt.zero, dram := [], io := [], eff := [], running := false, wdStage2 := false,
    wdLeft := 0, lineWas := false }

/-- The NV registers at manufacture (R358, R421): image key 0 is Alquel's release key, and valid. -/
def nvMade : Sparse Reg32 :=
  [(0x20, Config.releaseKey 0), (0x21, Config.releaseKey 1), (0x22, Config.releaseKey 2), (0x23, Config.releaseKey 3),
   (0x24, Config.releaseKey 4), (0x25, Config.releaseKey 5), (0x26, Config.releaseKey 6), (0x27, Config.releaseKey 7),
   (0x30, 0x100)]

/-- The state after a supply reset (R417, R406): BEDROCK, only the AON domain powered, cause 0x01, nothing commanded.
The part is the one of the reset line of log entry 8. -/
def State.reset : State :=
  { pending := []
    fresh := 0
    wire := []
    answer := 0
    part := .sr16k128p
    mem := []
    bad := []
    regs := []
    cnt64 := []
    latch := []
    entryLatch := []
    entryHold := []
    ctxs := []
    titles := []
    flows := []
    frames := []
    galleryOrder := []
    pageReqs := []
    images := []
    captured := []
    slots := []
    ports := Vector.replicate 4
      { ctx := 0, args := Vector.replicate 3 0, busy := false, lastOp := 0, result := 0, waiting := none, prior := none }
    keepers := Vector.replicate 4 Keeper.zero
    claims := []
    dic := { pend := 0, insvc := 0, level := (15 : BitVec 512) <<< 105, released := 0, deferred := 0, holder := [], gEvents := [], gElapsed := [],
             gRunning := 0 }
    power := { mode := .bedrock, transit := false, warm := false, after := .off, cause := 1, on := 0,
               retained := false, selfRefresh := 0, dieEn := 3, dieFailed := 0, dieUnavail := 0, fail := 0,
               lastStep := 0, goal := .bedrock, dieGoal := none, result := 0, target := 0,
               hot := Vector.replicate 3 0, level := Vector.replicate 4 0, temp := Vector.replicate 3 0, vin := 0,
               supplyLow := false, heldWake := false, ascents := 0 }
    clock := { time := 0, rot := 0, sub := 0, subMs := 0, rootLock := false, adjBad := false, trimLim := false,
               holdPtp := false, holdSynce := false, trim := 0, integ := 0, prop := 0, freq := 0, windows := [],
               src := 0, phAge := 0 }
    rram := { nvShadow := nvMade, nvCommitted := nvMade, nvWear := [], nvQueue := [], ring := [], imageA := [],
              imageB := [] }
    alog := { ready := false, next := 0, queue := [], writing := none, lostSince := 0, backlog := [] }
    loam := []
    links := Vector.replicate 4 { up := 0, retraining := 0 }
    credits := []
    plinth := { present := false, resetN := false, pwrGood := false, therm := 0, isolated := false, isoCause := 0,
                guest := [], ram := [], msgBad := 0, msgMs := 0, idx := [], delivered := [] }
    subports := []
    ktxReady := none
    pins := []
    periph := { i2cBusy := 0, i2cResult := Vector.replicate 4 0, uartTx := Vector.replicate 2 [],
                uartRx := Vector.replicate 2 [], uartOvr := 0, tachLast := Vector.replicate 4 [], tachStall := 15,
                ledLit := 0, straps := 0, strapped := false }
    monitor := { en := false, pending := false, live := [], written := [], hpd := false, link := false, lanes := 0,
                 rate := 0 }
    jtag := { instr := .reset, dr := 0, bsr := [], frozen := [] }
    boot := { step := 0, slotB := false, version := 0, macFail := 0, replays := 0, lastSeq := [], lastReq := [],
              lastReply := [], image := [] }
    client := { cache := [], recent := [], mgen := 0, insync := false, expect := 0, started := false, screen := [],
                previous := [], refreshWanted := false, played := [], frame := 0, planes := [], previousPlanes := [] }
    wakeFifo := []
    slipFifo := Vector.replicate 2 []
    haltFifo := Vector.replicate 2 []
    mbqFifo := Vector.replicate 2 []
    quarFifo := [] }

end Sys2Proof.Machine
end

