-- ==== Sys2Proof/Machine/Sparse.lean ====
section
/-! DEFINITION. Reading and writing sparse tables: lists of (key, value) pairs in one canonical form, keys strictly
rising and no entry equal to what an unlisted key reads as. Memory (`Machine/Ops.lean`) is the table of bytes. -/

namespace Sys2Proof.Machine

/-- The value at a key, or the default `d` of an unlisted key. -/
def Sparse.get {α : Type} (d : α) : Sparse α → Nat → α
  | [], _ => d
  | (k', v) :: m, k => if k' = k then v else Sparse.get d m k

/-- The table without the entry at a key. -/
def Sparse.erase {α : Type} : Sparse α → Nat → Sparse α
  | [], _ => []
  | (k', v) :: m, k => if k' = k then Sparse.erase m k else (k', v) :: Sparse.erase m k

/-- The table with an entry put at its place. -/
def Sparse.insert {α : Type} : Sparse α → Nat → α → Sparse α
  | [], k, v => [(k, v)]
  | (k', v') :: m, k, v =>
    if k' = k then (k, v) :: m else if k < k' then (k, v) :: (k', v') :: m else (k', v') :: Sparse.insert m k v

/-- A write: a value equal to the default leaves no entry. -/
def Sparse.set {α : Type} [DecidableEq α] (d : α) (m : Sparse α) (k : Nat) (v : α) : Sparse α :=
  if v = d then Sparse.erase m k else Sparse.insert m k v

/-- A change of the value at a key. -/
def Sparse.modify {α : Type} [DecidableEq α] (d : α) (m : Sparse α) (k : Nat) (f : α → α) : Sparse α :=
  Sparse.set d m k (f (Sparse.get d m k))

/-- Every key lies above a bound and the keys rise. -/
def Sparse.sortedAbove {α : Type} : Option Nat → Sparse α → Bool
  | _, [] => true
  | none, (k, _) :: m => Sparse.sortedAbove (some k) m
  | some b, (k, _) :: m => decide (b < k) && Sparse.sortedAbove (some k) m

/-- The canonical form. -/
def Sparse.wf {α : Type} [DecidableEq α] (d : α) (m : Sparse α) : Bool :=
  Sparse.sortedAbove none m && m.all (fun e => decide (e.2 ≠ d))

end Sys2Proof.Machine
end

