-- ==== Sys2Proof/Machine/RegTable.lean ====
section
/-! DEFINITION. The Loam registers that are held by address: for each, which bits software may write, which it clears
by writing 1, which clear on a read, and the reset value, as the spec's register tables give them. Registers whose
value is derived from other state are read in `Machine/LoamRegs.lean`. -/

namespace Sys2Proof.Machine

/-- A register's bit masks and its reset value. -/
structure RegDesc where
  rw : Nat
  w1c : Nat
  rc : Nat
  reset : Nat
  deriving DecidableEq, Repr

/-- A register of writable bits under a mask. -/
def rwDesc (mask reset : Nat) : RegDesc := { rw := mask, w1c := 0, rc := 0, reset := reset }
/-- A counter that a read clears. -/
def rcDesc : RegDesc := { rw := 0, w1c := 0, rc := 0xFFFFFFFF, reset := 0 }
/-- A register software cannot write. -/
def roDesc (reset : Nat) : RegDesc := { rw := 0, w1c := 0, rc := 0, reset := reset }
/-- A register of bits that a write of 1 clears. -/
def w1cDesc (mask : Nat) : RegDesc := { rw := 0, w1c := mask, rc := 0, reset := 0 }

/-! ### Addresses of the register blocks (R393) -/

def rdWindow : Nat := 0x008000000000
def hdWindow : Nat := 0x008002000000
def curBase : Nat := 0x008000300000
def bscBase : Nat := 0x008000400000
def mbBase : Nat := 0x008000500000
def loamRdBase : Nat := 0x008000600000
def codeStoreBase : Nat := 0x008002000000
def clkBase : Nat := 0x008002080000
def dicBase : Nat := 0x008002090000
def kprBase : Nat := 0x0080020A0000
def nvrBase : Nat := 0x0080020B0000
def alogBase : Nat := 0x0080020B8000
def loamHdBase : Nat := 0x0080020C0000
def plnBase : Nat := 0x0080020D0000
def pwrBase : Nat := 0x0080020E0000
def gpioBase : Nat := 0x0080020F0000
def monBase : Nat := 0x008002100000
def tapBase : Nat := 0x008002180000
def ethBase : Nat := 0x008002200000
def clsBase : Nat := 0x008002300000
def qmBase : Nat := 0x008002400000
def strBase : Nat := 0x008002500000
def schBase : Nat := 0x008002600000
def titleBase : Nat := 0x008002700000
def ctxBase : Nat := 0x008002800000
def guestBase : Nat := 0x008003000000

/-- Curator registers (R86, R87, R438), by offset. -/
def curDesc (o : Nat) : RegDesc :=
  if o = 0x000 then rwDesc 0xF03 0x302
  else if o = 0x004 then rwDesc 0xF 0x8
  else if o = 0x008 then rwDesc 0x3FFFF 0x37B1A
  else if o = 0x010 ∨ o = 0x014 then rwDesc 0xFFFFFF 0x4000
  else if o = 0x018 ∨ o = 0x01C then rwDesc 0xFFFFFF 0x10000
  else if o = 0x020 then rwDesc 0xFFFF 0x400
  else if o = 0x040 then rwDesc 0xFFFFFFFF 0
  else if o = 0x044 then rwDesc 0xFFFF 0
  else if o = 0x200 ∨ o = 0x204 ∨ o = 0x208 ∨ o = 0x210 ∨ o = 0x214 ∨ o = 0x304 then rcDesc
  else roDesc 0

/-- Beam Scheduler registers on the Raster dies (R50, R110, R371), by offset. -/
def bscDesc (o : Nat) : RegDesc :=
  if o = 0x100 then rwDesc 0xFFFF 0xFFFF
  else if o = 0x120 then rwDesc 0x3FFFF 0
  else if o = 0x128 then rwDesc 0x3 0
  else if o = 0x308 ∨ o = 0x318 then rcDesc
  else roDesc 0

/-- A schedule block (R109, R110), by offset. -/
def schDesc (o : Nat) : RegDesc :=
  if o = 0x00 ∨ o = 0x10 ∨ o = 0x1C then rwDesc 0xFFFFFFFF 0
  else if o = 0x04 ∨ o = 0x0C then rwDesc 0xFFFF 0
  else if o = 0x08 then rwDesc 0x3FFFFFFF 0
  else if o = 0x14 then rwDesc 0xFFF 0
  else if o = 0x18 then rwDesc 0xFFFFFF1F 0x3C810A09
  else if o = 0x28 then { rw := 0, w1c := 0, rc := 0x01000000, reset := 0 }
  else if o = 0x2C then rcDesc
  else roDesc 0

/-- A stream block (R312), by offset. -/
def strDesc (o : Nat) : RegDesc :=
  if o = 0x00 then rwDesc 0x00FF0103 0x00160101
  else if o = 0x04 then rwDesc 0xFFFFFFFF 0
  else if o = 0x24 then roDesc 0xFFFFFFFF
  else roDesc 0

/-- An Ethernet port's registers (R331), by port and offset. -/
def ethDesc (p o : Nat) : RegDesc :=
  if o = 0x000 then rwDesc 0xFB (if p = 0 then 0x12 else 0)
  else if 0x100 ≤ o ∧ o < 0x500 then
    let r := o % 0x100
    if r = 0x00 then rwDesc 0xFFFFFFFF 0
    else if r = 0x04 ∨ r = 0x08 then rwDesc 0xFFFF 0
    else roDesc 0
  else roDesc 0

/-- Classifier registers (R331), by offset. -/
def clsDesc (o : Nat) : RegDesc :=
  if o = 0x000 then rwDesc 0xFFFF 0x5352
  else if o = 0x010 then rwDesc 0x3FFFF 0
  else if 0x020 ≤ o ∧ o < 0x048 then rwDesc 0xFFFFFFFF 0
  else if 0x100 ≤ o ∧ o < 0x200 then
    let r := o % 0x20
    if r = 0 then rwDesc 0xF0000000 0 else if r < 0x14 then rwDesc 0xFFFFFFFF 0 else roDesc 0
  else if o = 0x304 then rcDesc
  else if o = 0x400 ∨ o = 0x410 then rwDesc 0xFFFFFFFF 0
  else if o = 0x404 ∨ o = 0x414 then rwDesc 0xFFFF 0
  else if o = 0x408 ∨ o = 0x418 then rwDesc 0x800000FF 1
  else if 0x500 ≤ o ∧ o < 0x510 then rcDesc
  else roDesc 0

/-- Queue manager registers (R331), by offset. -/
def qmDesc (o : Nat) : RegDesc :=
  if o = 0x100 ∨ o = 0x104 then rcDesc
  else if o = 0x200 ∨ o = 0x20C then rwDesc 0x3FFF 0
  else if o = 0x204 then rwDesc 0xFFFFFFFF 0
  else if o = 0x208 then rwDesc 0xFFFF 0
  else roDesc 0

/-- Clock registers (R346), by offset. -/
def clkDesc (o : Nat) : RegDesc :=
  if o = 0x004 then rwDesc 0xFF1F 0x1400
  else if o = 0x008 then rwDesc 0xFFFF00FF 0x01000004
  else if o = 0x00C then rwDesc 0x0FFFFFFF 0
  else if o = 0x050 then rwDesc 0xFFFFFFFF 0
  else if o = 0x054 ∨ o = 0x05C then rwDesc 0xFFFF 0
  else if o = 0x058 then rwDesc 0x3FFFFFFF 0
  else roDesc 0

/-- Keeper registers (after R351), by offset: the watchdog control words; the rest is typed state. -/
def kprDesc (o : Nat) : RegDesc :=
  if o = 0x300 ∨ o = 0x310 ∨ o = 0x320 ∨ o = 0x330 then rwDesc 0x8000FFFF 0
  else if o = 0x308 ∨ o = 0x318 ∨ o = 0x328 ∨ o = 0x338 then w1cDesc 0x80000000
  else if o = 0x508 then rcDesc
  else roDesc 0

/-- DIC configuration registers (after R376), by offset. -/
def dicDesc (o : Nat) : RegDesc :=
  if 4 ≤ o ∧ o < 0x800 then rwDesc 0x00FFBF07 0
  else if 0x1000 ≤ o ∧ o < 0x1080 ∧ o % 0x10 = 0 then rwDesc 0x7 0
  else if 0x2000 ≤ o ∧ o < 0x2200 ∧ o % 8 = 0 then rwDesc 0xFFFF00FF 0x00010001
  else roDesc 0

/-- LOAM_ registers of a die (after R404), by offset. -/
def loamDesc (o : Nat) : RegDesc :=
  if o = 0x000 then rwDesc 0xFFFF 0x07D0
  else if 0x400 ≤ o ∧ o < 0x41C then rcDesc
  else roDesc 0

/-- Plinth control block (after R404), by offset. -/
def plnDesc (o : Nat) : RegDesc :=
  if o = 0x000 then rwDesc 0x1 0
  else if o = 0x010 ∨ o = 0x014 then rcDesc
  else if 0x100 ≤ o ∧ o < 0x200 then
    let r := o % 0x10
    if r = 0 then rwDesc 0xFFFFF003 0
    else if r = 4 then rwDesc 0xFFFF 0
    else if r = 8 then rwDesc 0xFFFFFF 0
    else roDesc 0
  else roDesc 0

/-- A tap entry (R398), by offset. -/
def tapDesc (o : Nat) : RegDesc :=
  if o = 0 then rwDesc 0x37 0
  else if o = 4 then rwDesc 0xFFFF8000 0
  else if o = 8 then rwDesc 0xFFFFF 0x10000
  else rwDesc 0xFFFF0000 0

/-- Power sequencer registers that are plain storage (after R420), by offset. -/
def pwrDesc (o : Nat) : RegDesc :=
  if o = 0x010 then rwDesc 0x3 0
  else if o = 0x014 then rwDesc 0xFFFFFFFF 0
  else roDesc 0

/-- Accession Log engine registers (after R438), by offset. -/
def alogDesc (o : Nat) : RegDesc :=
  if o = 0x008 then rcDesc
  else if 0x040 ≤ o ∧ o < 0x054 then rwDesc 0x3FFF 0
  else if 0x100 ≤ o ∧ o < 0x500 then
    let r := o % 0x100
    if r = 0 then rwDesc 0x00FFFFFF 0 else if 0x20 ≤ r then rwDesc 0xFFFFFFFF 0 else roDesc 0
  else roDesc 0

/-- NV register unit: the failure count (after R438). -/
def nvrDesc (o : Nat) : RegDesc := if o = 0x1004 then rcDesc else roDesc 0

/-- GPIO registers (R457), by offset. -/
def gpioDesc (o : Nat) : RegDesc :=
  if o = 0x040 then rwDesc 0xFFFFF 0
  else if 0x100 ≤ o ∧ o < 0x1C0 then rwDesc 0x1FFFF 0xD00
  else if 0x200 ≤ o ∧ o < 0x280 then
    let r := o % 0x20
    if r = 0 then rwDesc 0x011F1F7F 0 else if 8 ≤ r ∧ r < 0x18 then rwDesc 0xFFFFFFFF 0 else roDesc 0
  else if o = 0x300 ∨ o = 0x310 then rwDesc 0xFFFF 0xCF
  else if 0x380 ≤ o ∧ o < 0x390 then rwDesc 0xFF 0xFF
  else if 0x390 ≤ o ∧ o < 0x3A0 then roDesc 0x8000FFFF
  else if 0x3A0 ≤ o ∧ o < 0x3B8 then rwDesc 0xF 0
  else roDesc 0

/-- Monitor registers (R235, R459), by offset. -/
def monDesc (o : Nat) : RegDesc :=
  if o = 0x000 then rwDesc 0x1 0
  else if o = 0x004 then rwDesc 0xFFFFFF 0
  else if o = 0x008 then rwDesc 0xFFFFFFFF 0
  else if o = 0x00C then rwDesc 0xFFFF 0
  else if o = 0x010 then rwDesc 0x3FFF 0
  else if o = 0x018 then w1cDesc 0x6
  else if o = 0x01C then rcDesc
  else if o = 0x020 then rwDesc 0x7 1
  else if o = 0x024 then w1cDesc 0x100
  else if 0x1000 ≤ o ∧ o < 0x1400 then
    let r := o % 0x10
    if r = 0 then rwDesc 0x80003FFF 0 else if r = 4 ∨ r = 8 then rwDesc 0x0FFF0FFF 0 else roDesc 0
  else roDesc 0

/-- The one address of a register that two Raster-die windows show (R38, R50, R86, R110, R371). -/
def canonReg (a : Nat) : Nat :=
  if 0x008001300000 ≤ a ∧ a < 0x008001350000 then a - 0x1000000
  else if 0x008001400000 ≤ a ∧ a < 0x008001400800 then a - 0x1000000
  else a

/-- The descriptor of a Loam register by its canonical address. -/
def regDesc (a : Nat) : RegDesc :=
  if curBase ≤ a ∧ a < curBase + 0x50000 then curDesc (a - curBase)
  else if bscBase ≤ a ∧ a < bscBase + 0x800 then bscDesc (a - bscBase)
  else if loamRdBase ≤ a ∧ a < loamRdBase + 0x1000 then loamDesc (a - loamRdBase)
  else if loamRdBase + 0x1000000 ≤ a ∧ a < loamRdBase + 0x1001000 then loamDesc (a - loamRdBase - 0x1000000)
  else if clkBase ≤ a ∧ a < clkBase + 0x1000 then clkDesc (a - clkBase)
  else if dicBase ≤ a ∧ a < dicBase + 0x4000 then dicDesc (a - dicBase)
  else if kprBase ≤ a ∧ a < kprBase + 0x1000 then kprDesc (a - kprBase)
  else if nvrBase ≤ a ∧ a < alogBase then nvrDesc (a - nvrBase)
  else if alogBase ≤ a ∧ a < alogBase + 0x8000 then alogDesc (a - alogBase)
  else if loamHdBase ≤ a ∧ a < loamHdBase + 0x1000 then loamDesc (a - loamHdBase)
  else if plnBase ≤ a ∧ a < plnBase + 0x1000 then plnDesc (a - plnBase)
  else if pwrBase ≤ a ∧ a < pwrBase + 0x10000 then pwrDesc (a - pwrBase)
  else if gpioBase ≤ a ∧ a < gpioBase + 0x10000 then gpioDesc (a - gpioBase)
  else if monBase ≤ a ∧ a < monBase + 0x2000 then monDesc (a - monBase)
  else if tapBase ≤ a ∧ a < tapBase + 0x40000 then tapDesc ((a - tapBase) % 16)
  else if ethBase ≤ a ∧ a < ethBase + 0x20000 then ethDesc ((a - ethBase) / 0x10000) ((a - ethBase) % 0x10000)
  else if clsBase ≤ a ∧ a < clsBase + 0x1000 then clsDesc (a - clsBase)
  else if qmBase ≤ a ∧ a < qmBase + 0x50000 then qmDesc (a - qmBase)
  else if strBase ≤ a ∧ a < strBase + 0x100000 then strDesc ((a - strBase) % 64)
  else if schBase ≤ a ∧ a < schBase + 0x100000 then schDesc ((a - schBase) % 64)
  else roDesc 0

/-- The reset value of a Loam register. -/
def regReset (a : Nat) : Reg32 := BitVec.ofNat 32 (regDesc a).reset

end Sys2Proof.Machine
end

