-- ==== Sys2Proof/Machine/IoTable.lean ====
section
/-! DEFINITION. The session I/O registers by D-space address: writable bits, bits cleared by writing 1, bits cleared by
a read, and the value CREATE gives, as the spec's register tables give them. -/

namespace Sys2Proof.Machine

/-- A tile plane block (after R197): BANK of PLN_CTRL is held in Grand only (R178). -/
def planeDesc (grand : Bool) (r : Nat) : RegDesc :=
  if r = 0 then rwDesc (if grand then 0xFFF else 0x9FF) 0
  else if r = 1 ∨ r = 2 ∨ r = 6 ∨ r = 7 then rwDesc 0xFFFF 0
  else if r = 3 ∨ r = 4 ∨ r = 5 then rwDesc 0x7FF 0
  else roDesc 0

/-- Timing, LINE compare and line-program registers (after R215). -/
def videoDesc (grand : Bool) (a : Nat) : RegDesc :=
  if a = 0xF000 then rwDesc 0xFFF 0
  else if a = 0xF001 ∨ a = 0xF002 then rwDesc 0x7FF 0
  else if a = 0xF003 then rwDesc 0x3FF 0
  else if a = 0xF004 then rwDesc 0xFFFF 0
  else if a = 0xF009 then w1cDesc 0x3
  else if a = 0xF018 ∨ a = 0xF019 then rwDesc 0x7FF 0
  else if a = 0xF500 then rwDesc (if grand then 0x7 else 0x1) 0
  else if a = 0xF501 ∨ a = 0xF502 then rwDesc 0xFFFF 0
  else if a = 0xF504 then w1cDesc 0x7
  else roDesc 0

/-- Bitmap, movie and sprite registers (after R197). -/
def layerDesc (grand : Bool) (a : Nat) : RegDesc :=
  if a = 0xF180 then rwDesc (if grand then 0x1F else 0x7) 0
  else if a = 0xF181 ∨ a = 0xF182 then rwDesc 0xFFFF 0
  else if 0xF183 ≤ a ∧ a ≤ 0xF187 then rwDesc 0x7FF 0
  else if a = 0xF1C0 then rwDesc (if grand then 0xF else 0x3) 0
  else if 0xF1C1 ≤ a ∧ a ≤ 0xF1C5 then rwDesc 0xFFFF 0
  else if 0xF1C6 ≤ a ∧ a ≤ 0xF1CA then rwDesc 0x7FF 0
  else if a = 0xF400 then rwDesc (if grand then 0x7 else 0x1) 0
  else if a = 0xF401 ∨ a = 0xF402 then rwDesc 0xFFFF 0
  else if a = 0xF404 then w1cDesc 0x3
  else roDesc 0

/-- Composition registers (after R235). -/
def compDesc (a : Nat) : RegDesc :=
  if 0xF600 ≤ a ∧ a ≤ 0xF605 then rwDesc 0xFF ((13 - (a - 0xF600)) * 16 + (7 - (a - 0xF600)))
  else if a = 0xF606 then rwDesc 0xFFFF 0xEC95
  else if a = 0xF607 then rwDesc 0xFF 0x01
  else if a = 0xF608 ∨ a = 0xF609 then rwDesc 0xFFFF 0xFFFF
  else if a = 0xF60A then rwDesc 0xFF 0xFF
  else if a = 0xF60B then rwDesc 0x1FF 0
  else if a = 0xF60C then rwDesc 0x3FF 0
  else if a = 0xF610 ∨ a = 0xF611 ∨ a = 0xF614 ∨ a = 0xF615 then rwDesc 0x7FF 0
  else if a = 0xF612 ∨ a = 0xF613 ∨ a = 0xF616 ∨ a = 0xF617 then rwDesc 0x3FF 0
  else if a = 0xF618 then rwDesc 0x3 0
  else if a = 0xF620 then rwDesc 0x1F1F 0x0010
  else if a = 0xF622 then rwDesc 0x7FF 0
  else if a = 0xF630 then rwDesc 0x7F 0x05
  else if a = 0xF631 then rwDesc 0x7FF 0
  else if a = 0xF632 then rwDesc 0x3FF 0
  else if a = 0xF638 then w1cDesc 0x1
  else if a = 0xF640 then rwDesc 0x7FF 0
  else if a = 0xF642 ∨ a = 0xF643 then rwDesc 0xFFFF 0
  else roDesc 0

/-- Blitter registers (after R249). -/
def blitDesc (grand : Bool) (a : Nat) : RegDesc :=
  if a = 0xF801 then rwDesc (if grand then 0x1FFF else 0x01FF) 0x180
  else if a = 0xF802 ∨ a = 0xF803 ∨ a = 0xF806 ∨ a = 0xF807 ∨ a = 0xF80C ∨ a = 0xF80D then rwDesc 0xFFFF 0
  else if a = 0xF804 ∨ a = 0xF808 ∨ a = 0xF80A then rwDesc 0xFFF 0
  else if a = 0xF805 ∨ a = 0xF809 ∨ a = 0xF80B ∨ a = 0xF80F then rwDesc 0x7FF 0
  else if a = 0xF80E then rwDesc 0xFF 0
  else if a = 0xF810 then w1cDesc 0x9E
  else roDesc 0

/-- DMA registers (R288): channel block `n`, word `r`. -/
def dmaDesc (n r : Nat) : RegDesc :=
  if n < 2 then
    if r = 0 then rwDesc 0x1 0
    else if r = 1 then rwDesc 0xFFFF 0
    else if r = 2 then rwDesc 0x1FF 0x001
    else if r = 8 then rwDesc 0x3F 0x3F
    else if r = 9 then w1cDesc 0x10
    else roDesc 0
  else
    if r = 0 then rwDesc 0x1FF9 0x80
    else if 1 ≤ r ∧ r ≤ 6 then rwDesc 0xFFFF 0
    else if r = 7 then rwDesc 0xFFFF 0x0001
    else if r = 8 then rwDesc 0x3F 0x3F
    else if r = 9 then w1cDesc 0xE
    else roDesc 0

/-- Sound registers (after R271). -/
def soundDesc (grand : Bool) (a : Nat) : RegDesc :=
  if 0xF900 ≤ a ∧ a < 0xFA00 then
    let r := (a - 0xF900) % 8
    if ¬ grand ∧ 0xF980 ≤ a then roDesc 0
    else if r = 0 then rwDesc 0x07F0 0
    else if r = 1 ∨ r = 2 ∨ r = 3 then rwDesc 0xFFFF 0
    else if r = 4 then rwDesc 0xFFFF 0x1000
    else if r = 5 ∨ r = 6 then rwDesc 0xFFFF 0xFF00
    else roDesc 0
  else if 0xFA00 ≤ a ∧ a < 0xFA88 then
    if ¬ grand ∧ 0xFA40 ≤ a ∧ a < 0xFA80 then roDesc 0 else rwDesc 0xFFFF 0
  else if a = 0xFAC0 then rwDesc 0x1DF3 0
  else if a = 0xFAC1 ∨ a = 0xFAC2 then rwDesc 0xFFFF 0x7FFF
  else if a = 0xFAC3 then rwDesc 0x7FFF 0x0010
  else if a = 0xFAC4 then rwDesc 0xFFFF 0x0960
  else if a = 0xFAC7 then roDesc 0
  else if 0xFAC5 ≤ a ∧ a ≤ 0xFACD then rwDesc 0xFFFF 0
  else if a = 0xFAD0 ∨ a = 0xFAD1 then w1cDesc 0xFFFF
  else if a = 0xFAD2 then w1cDesc 0x7
  else if a = 0xFAD3 then rwDesc 0x7 0
  else if a = 0xFAD5 then { rw := 0, w1c := 0, rc := 0xFFFF, reset := 0 }
  else if a = 0xFAD8 ∨ a = 0xFAD9 then rwDesc 0xFFFF 0
  else roDesc 0

/-- CPU mode, bank and index registers (after R142), input, stream tag and mailbox registers. -/
def miscDesc (grand : Bool) (a : Nat) : RegDesc :=
  if a = 0xFC28 ∨ a = 0xFC29 then { rw := 0, w1c := 0, rc := 0xFFFF, reset := 0 }
  else if a = 0xFD01 then rwDesc 0xFFFF 0
  else if a = 0xFE00 then rwDesc 0x6 0
  else if 0xFE04 ≤ a ∧ a ≤ 0xFE07 then rwDesc 0xFF (a - 0xFE04)
  else if a = 0xFE08 then rwDesc 0x7FF 0
  else if a = 0xFE09 then rwDesc (if grand then 0x3 else 0) 0
  else if a = 0xFE0A then rwDesc (if grand then 0x1 else 0) 0
  else if 0xFE10 ≤ a ∧ a ≤ 0xFE17 then rwDesc 0xFFFF 0
  else if a = 0xFE18 then rwDesc 0xFF 0
  else if 0xFF24 ≤ a ∧ a ≤ 0xFF27 then rwDesc 0xFFFF 0
  else if a = 0xFF29 then w1cDesc 0x6
  else roDesc 0

/-- The descriptor of a session I/O word. Interrupt and timer words are typed state (`Machine/Interrupts.lean`). -/
def ioDesc (grand : Bool) (a : Nat) : RegDesc :=
  if 0xF000 ≤ a ∧ a < 0xF100 then videoDesc grand a
  else if 0xF100 ≤ a ∧ a < 0xF160 then
    if ¬ grand ∧ 0xF140 ≤ a then roDesc 0 else planeDesc grand (a % 16)
  else if 0xF180 ≤ a ∧ a < 0xF500 then layerDesc grand a
  else if 0xF500 ≤ a ∧ a < 0xF600 then videoDesc grand a
  else if 0xF600 ≤ a ∧ a < 0xF700 then compDesc a
  else if 0xF800 ≤ a ∧ a < 0xF880 then blitDesc grand a
  else if 0xF880 ≤ a ∧ a < 0xF8F0 then dmaDesc ((a - 0xF880) / 32) ((a - 0xF880) % 32)
  else if 0xF8F0 ≤ a ∧ a < 0xF900 then roDesc 0
  else if 0xF900 ≤ a ∧ a < 0xFB00 then soundDesc grand a
  else miscDesc grand a

/-- The value a session I/O word holds at CREATE. -/
def ioReset (grand : Bool) (a : Nat) : Word := BitVec.ofNat 16 (ioDesc grand a).reset

end Sys2Proof.Machine
end

