-- ==== Sys2Proof/Machine/Ops.lean ====
section
/-! DEFINITION. The named operations over memory, registers and the device-wide units that every family of commands
uses: bytes and words of Loam memory, Loam registers, contexts, slots, session I/O words, free values, device
interrupts and Accession Log records. -/

namespace Sys2Proof.Machine

/-- The three outcomes of a command on this machine. -/
abbrev Outcome := Host.Outcome State Fault Refusal

/-! ### Bits and bytes -/

/-- Bits `lo` to `lo + w - 1` of a number. -/
def field (v lo w : Nat) : Nat := v / 2 ^ lo % 2 ^ w

/-- One bit of a word. -/
def wbit (v : Word) (i : Nat) : Bool := v.getLsbD i

/-- A Boolean as a bit. -/
def b2n (b : Bool) : Nat := if b then 1 else 0

/-- The low `n` bits of `v` as an integer in two's complement. -/
def sext (n v : Nat) : Int := if v % 2 ^ n < 2 ^ (n - 1) then (v % 2 ^ n : Nat) else (v % 2 ^ n : Nat) - (2 ^ n : Nat)

/-- An integer as a word, modulo 2^16. -/
def ofIntW (i : Int) : Word := BitVec.ofInt 16 i

/-- A number clamped to a range of integers. -/
def clampInt (lo hi v : Int) : Int := if v < lo then lo else if hi < v then hi else v

/-- Bitwise selection of a register write: bits of `mask` come from `new`, the rest from `old`. -/
def mergeBits (mask old new : Nat) : Nat := (old - (old &&& mask)) ||| (new &&& mask)

/-- The `n` low bytes of a number, most significant byte first (R7). -/
def bytesBE : Nat → Nat → List Byte
  | 0, _ => []
  | n + 1, v => bytesBE n (v / 256) ++ [BitVec.ofNat 8 v]

/-- The number a list of bytes spells, most significant byte first. -/
def ofBytesBE (l : List Byte) : Nat := l.foldl (fun a b => a * 256 + b.toNat) 0

/-- The `n` low bytes of a number, least significant byte first (R381). -/
def bytesLE : Nat → Nat → List Byte
  | 0, _ => []
  | n + 1, v => BitVec.ofNat 8 v :: bytesLE n (v / 256)

/-- The number a list of bytes spells, least significant byte first. -/
def ofBytesLE : List Byte → Nat
  | [] => 0
  | b :: l => b.toNat + 256 * ofBytesLE l

/-- Byte `i` of a list, 0 past its end. -/
def byteAt (l : List Byte) (i : Nat) : Byte := l.getD i 0

/-- The first set bit of a number at or above `i`, within `fuel` places. -/
def firstBit (v : Nat) : Nat → Nat → Option Nat
  | 0, _ => none
  | fuel + 1, i => if v.testBit i then some i else firstBit v fuel (i + 1)

/-- One step of the CRC of R426. -/
def crcBit (c : Nat) : Nat := if c % 2 = 1 then (c / 2) ^^^ 0xEDB88320 else c / 2

/-- CRC-32 with the IEEE 802.3 polynomial (R426). -/
def crc32 (l : List Byte) : Nat :=
  (l.foldl (fun c b => crcBit (crcBit (crcBit (crcBit (crcBit (crcBit (crcBit (crcBit (c ^^^ b.toNat)))))))))
    0xFFFFFFFF) ^^^ 0xFFFFFFFF

/-! ### Free values, answers and what leaves the device -/

/-- The next free value's number is used up. -/
def State.spend (s : State) : State := { s with fresh := s.fresh + 1 }

/-- What leaves the device is put on the trace (log entry 3). -/
def State.send (x : Sent) (s : State) : State := { s with wire := x :: s.wire }

/-- The value a read returns to the outside (log entry 3). -/
def State.reply (v : Nat) (s : State) : State := { s with answer := BitVec.ofNat 64 v }

/-! ### Loam memory -/

/-- A byte of memory; a byte nothing has written reads 0x00 (log entry 4). -/
def memByte (m : List Host.Cell) (a : Nat) : Byte := Sparse.get 0 m a

/-- A byte of memory written, in canonical form. -/
def memSet (m : List Host.Cell) (a : Nat) (b : Byte) : List Host.Cell := Sparse.set 0 m a b

/-- The canonical form of memory. -/
def memWf (m : List Host.Cell) : Bool := Sparse.wf (0 : Byte) m

/-- `n` bytes from an address up. -/
def memRead (m : List Host.Cell) (a : Nat) : Nat → List Byte
  | 0 => []
  | n + 1 => memByte m a :: memRead m (a + 1) n

/-- A list of bytes stored from an address up. -/
def memWrite (m : List Host.Cell) (a : Nat) : List Byte → List Host.Cell
  | [] => m
  | b :: l => memWrite (memSet m a b) (a + 1) l

/-- The Loam word at a byte address: bits [7:0] at the address itself (R381). -/
def memWord (m : List Host.Cell) (a : Nat) : Word := memByte m (a + 1) ++ memByte m a

/-- A Loam word stored. -/
def memSetWord (m : List Host.Cell) (a : Nat) (v : Word) : List Host.Cell :=
  memSet (memSet m a (BitVec.ofNat 8 v.toNat)) (a + 1) (BitVec.ofNat 8 (v.toNat / 256))

/-- The cells of one 4 KiB frame cleared. -/
def memClearFrame (m : List Host.Cell) (f : Nat) : List Host.Cell :=
  m.foldl (fun acc c => if c.1 / 4096 = f then memSet acc c.1 0 else acc) m

/-- One frame copied over another. -/
def memCopyFrame (m : List Host.Cell) (src dst : Nat) : List Host.Cell :=
  m.foldl (fun acc c => if c.1 / 4096 = src then memSet acc (dst * 4096 + c.1 % 4096) c.2 else acc)
    (memClearFrame m dst)

def State.word (s : State) (a : Nat) : Word := memWord s.mem a
def State.bytes (s : State) (a n : Nat) : List Byte := memRead s.mem a n

/-- A word of memory stored with good parity. -/
def State.setWord (a : Nat) (v : Word) (s : State) : State :=
  { s with mem := memSetWord s.mem a v, bad := Sparse.erase s.bad (a / 2) }

/-- Bytes of memory stored with good parity. -/
def State.setBytes (a : Nat) (l : List Byte) (s : State) : State :=
  { s with mem := memWrite s.mem a l, bad := s.bad.filter (fun e => !decide (a ≤ 2 * e.1 ∧ 2 * e.1 < a + l.length)) }

/-- A frame cleared, with good parity. -/
def State.clearFrame (f : Nat) (s : State) : State :=
  { s with mem := memClearFrame s.mem f, bad := s.bad.filter (fun e => e.1 / 2048 != f) }

/-- A frame copied, each word with the parity it carries. -/
def State.copyFrame (src dst : Nat) (s : State) : State :=
  { s with
    mem := memCopyFrame s.mem src dst
    bad := (s.bad.filter (fun e => e.1 / 2048 == src)).foldl (fun m e => Sparse.set false m (dst * 2048 + e.1 % 2048) true)
      (s.bad.filter (fun e => e.1 / 2048 != dst)) }

/-- The words of a write that carries POISON take inverted parity (R391). -/
def State.poisonWords (a n : Nat) (s : State) : State :=
  { s with bad := (List.range n).foldl (fun m i => Sparse.set false m (a / 2 + i) true) s.bad }

/-! ### Loam registers -/

/-- A Loam register held by address. -/
def State.reg (s : State) (a : Nat) : Reg32 := Sparse.get (regReset (canonReg a)) s.regs (canonReg a)

/-- The number in a Loam register. -/
def State.regN (s : State) (a : Nat) : Nat := (s.reg a).toNat

/-- A Loam register set by the hardware. -/
def State.setReg (a : Nat) (v : Nat) (s : State) : State :=
  { s with regs := Sparse.set (regReset (canonReg a)) s.regs (canonReg a) (BitVec.ofNat 32 v) }

/-- A saturating 32-bit counter raised. -/
def State.countReg (a n : Nat) (s : State) : State := s.setReg a (min 0xFFFFFFFF (s.regN a + n))

/-- A field of a Loam register set by the hardware. -/
def State.setRegField (a lo w v : Nat) (s : State) : State :=
  s.setReg a (mergeBits ((2 ^ w - 1) * 2 ^ lo) (s.regN a) (v % 2 ^ w * 2 ^ lo))

/-- What a software write leaves in a register under its descriptor. -/
def softWrite (d : RegDesc) (old new : Nat) : Nat :=
  let kept := mergeBits d.rw old new
  kept - (kept &&& (new &&& d.w1c))

/-- A software write of a register held by address. -/
def State.writeReg (a v : Nat) (s : State) : State :=
  s.setReg a (softWrite (regDesc (canonReg a)) (s.regN a) v)

/-- A 64-bit counter (R331, R110) by its address. -/
def State.cnt (s : State) (a : Nat) : Nat := (Sparse.get 0 s.cnt64 (canonReg a)).toNat

def State.setCnt (a v : Nat) (s : State) : State :=
  { s with cnt64 := Sparse.set 0 s.cnt64 (canonReg a) (BitVec.ofNat 64 v) }

def State.addCnt (a n : Nat) (s : State) : State := s.setCnt a (s.cnt a + n)

/-! ### Addresses of per-slot blocks -/

def schAddr (slot o : Nat) : Nat := schBase + 64 * slot + o
def strAddr (slot o : Nat) : Nat := strBase + 64 * slot + o
def tapAddr (slot o : Nat) : Nat := tapBase + 16 * slot + o
def curSlotAddr (slot o : Nat) : Nat := curBase + 0x10000 + 16 * slot + o
def qstatAddr (q : Nat) : Nat := qmBase + 0x10000 + 4 * q

/-- TMODE of a slot's tap entry: values above 3 act as 0 (R398). -/
def State.tmode (s : State) (k : Nat) : BitVec 3 :=
  let v := field (s.regN (tapAddr k 0)) 0 3
  if v ≤ 3 then BitVec.ofNat 3 v else 0

/-- The die of a slot (R32). -/
def slotDie (slot : Nat) : Nat := slot / 8192

/-- The core index of a slot (R32). -/
def slotCore (slot : Nat) : Nat := slot / 64

/-! ### Contexts, sessions and slots -/

/-- An entry at its reset value (R36). -/
def Context.reset : Context :=
  { state := .free, profile := false, xmode := false, keepMirror := false, wake := false, gen := 0, slot := 0,
    title := 0, mapRoot := 0, envH := 0, envV := 0, periodFx := 0, vclk := 0, lead := 2, pixCharge := 0, pages := [],
    wakePending := false, ses := none }

def State.ctx (s : State) (c : CtxNo) : Context := Sparse.get Context.reset s.ctxs c.toNat
def State.setCtx (c : CtxNo) (x : Context) (s : State) : State :=
  { s with ctxs := Sparse.set Context.reset s.ctxs c.toNat x }
def State.modCtx (c : CtxNo) (f : Context → Context) (s : State) : State := s.setCtx c (f (s.ctx c))

/-- The session of a context, when it has state pages. -/
def State.ses (s : State) (c : CtxNo) : Option Session := (s.ctx c).ses
def State.modSes (c : CtxNo) (f : Session → Session) (s : State) : State :=
  s.modCtx c (fun x => { x with ses := x.ses.map f })

/-- A value read from the session, or a default where the context holds none. -/
def State.sesD {α : Type} (s : State) (c : CtxNo) (d : α) (f : Session → α) : α :=
  match s.ses c with | some x => f x | none => d

/-- A slot nothing holds. -/
def SlotSt.idle : SlotSt :=
  { ctx := none, upper := false, stopped := false, sched := [], period := 0, periodPend := none, phasePend := none,
    ctrlEff := 0, strLog := [], flowNew := none, flowLog := [], leadNow := 0, leadPend := none, narrow := 0,
    tightFrames := [], horizonF := 0, horizonK := 0, tokens := 0, rendered := 0, renderFrame := 0, clocks := 0,
    inputQ := [], videoQ := [], audioQ := [], audioWait := [], controlQ := [], slips := [], slipped := [],
    slipFrameQuiet := false, testedF := 0, testedK := 0, codedF := 0, codedK := 0, releasedF := 0, releasedK := 0,
    monF := 0, monK := 0, recent := [], emptyAt := [], emptyPend := false, orderPend := false, refreshQ := [],
    leadMinF := none, jitMaxF := none, jitNow := none, dropped := [], firstF := 0, firstLine := 0, ahead := [], tapLog := [], tapQ := [], tapDone := [] }

def State.slot (s : State) (k : Nat) : SlotSt := Sparse.get SlotSt.idle s.slots k
def State.setSlot (k : Nat) (x : SlotSt) (s : State) : State :=
  { s with slots := Sparse.set SlotSt.idle s.slots k x }
def State.modSlot (k : Nat) (f : SlotSt → SlotSt) (s : State) : State := s.setSlot k (f (s.slot k))

/-- The slot of a context that holds one (R36). -/
def State.heldSlot (s : State) (c : CtxNo) : Option Nat :=
  match (s.ctx c).state with
  | .admitting | .running | .suspending => some (s.ctx c).slot.toNat
  | .retiring => if (s.slot (s.ctx c).slot.toNat).ctx = some c then some (s.ctx c).slot.toNat else none
  | _ => none

/-! ### Session I/O words -/

/-- A session I/O word as last written. -/
def Session.ioW (x : Session) (a : Nat) : Word := Sparse.get (ioReset x.grand a) x.io a
def Session.ioN (x : Session) (a : Nat) : Nat := (x.ioW a).toNat
def Session.setIo (a : Nat) (v : Nat) (x : Session) : Session :=
  { x with io := Sparse.set (ioReset x.grand a) x.io a (BitVec.ofNat 16 v) }

/-- A register of R126 as in force. -/
def Session.inForce (x : Session) (a : Nat) : Nat := (Sparse.get (ioReset x.grand a) x.eff a).toNat
def Session.setForce (a v : Nat) (x : Session) : Session :=
  { x with eff := Sparse.set (ioReset x.grand a) x.eff a (BitVec.ofNat 16 v) }

/-- The live value of a shadowed register (R209). -/
def Session.liveN (x : Session) (a : Nat) : Nat := (Sparse.get (ioReset x.grand a) x.live a).toNat
def Session.setLive (a v : Nat) (x : Session) : Session :=
  { x with live := Sparse.set (ioReset x.grand a) x.live a (BitVec.ofNat 16 v) }

/-- Bits set in a session I/O word by the hardware. -/
def Session.orIo (a bits : Nat) (x : Session) : Session := x.setIo a (x.ioN a ||| bits)

/-- A saturating 16-bit session counter raised. -/
def Session.countIo (a n : Nat) (x : Session) : Session := x.setIo a (min 0xFFFF (x.ioN a + n))

/-! ### Keepers -/

def State.keeper (s : State) (k : Fin 4) : Keeper := s.keepers[k.val]
def State.setKeeper (k : Fin 4) (x : Keeper) (s : State) : State := { s with keepers := s.keepers.set k.val x }
def State.modKeeper (k : Fin 4) (f : Keeper → Keeper) (s : State) : State := s.setKeeper k (f (s.keeper k))

/-- The Keeper a node number names (R377). -/
def nodeKeeper (node : Byte) : Option (Fin 4) :=
  if h : 0x80 ≤ node.toNat ∧ node.toNat < 0x84 then some ⟨node.toNat - 0x80, by omega⟩ else none

/-! ### Time (R334) -/

/-- 2^-16 ns units in a second. -/
def unitsPerSec : Nat := 1000000000 * 65536

def Clock.secs (c : Clock) : Nat := c.time / unitsPerSec
def Clock.nanos (c : Clock) : Nat := c.time / 65536 % 1000000000
def Clock.frac (c : Clock) : Nat := c.time % 65536

/-- The timestamp of a frame that passes a reference point now: within 2 ns of the timebase value, the rest free (R318, R339; log entry
72). -/
def State.stamp (s : State) : Nat := s.clock.time + Config.freeCount s.fresh % 262145 - 131072

/-- A clock that stands at a frame's timestamp. -/
def State.stampClock (s : State) : Clock := { s.clock with time := s.stamp }

/-! ### Power (R405, R409) -/

/-- A step of R409 is powered. -/
def Power.stepOn (p : Power) (k : Nat) : Bool := p.on.getLsbD k

/-- The steps of a Raster die and its Vault pairs (R405). -/
def dieMask (d : Nat) : BitVec 64 := if d = 0 then 0x0FFFFFCC else 0x3FFFFF0000030

/-- A Raster die is up (R405): all its groups powered, not in retention or self-refresh. -/
def Power.dieUp (p : Power) (d : Nat) : Bool :=
  (p.on &&& dieMask d == dieMask d) && !p.retained && !p.selfRefresh.getLsbD d

/-- Hub main is powered. -/
def Power.hub (p : Power) : Bool := p.stepOn 1

/-- The boundary register has the pads (R460): the device's logic sees no change. -/
def State.scanned (s : State) : Bool :=
  s.jtag.instr == .extest || s.jtag.instr == .clamp || s.jtag.instr == .highz

/-! ### Session and Keeper interrupt sources (R166) -/

/-- A source is raised: pending, or overrun when pending already. -/
def IntSt.raise (n : Nat) (i : IntSt) : IntSt :=
  if i.pend.getLsbD n then { i with ovr := i.ovr ||| (1#16 <<< n) } else { i with pend := i.pend ||| (1#16 <<< n) }

/-- A session source is raised. -/
def State.raiseSes (c : CtxNo) (n : Nat) (s : State) : State :=
  s.modSes c (fun x => { x with int := x.int.raise n })

/-! ### The device interrupt controller (R370 to R376) -/

def dicPrio (cfg : Nat) : Nat := field cfg 0 3
def dicGroup (cfg : Nat) : Nat := field cfg 8 6
def dicGrouped (cfg : Nat) : Bool := cfg.testBit 15
def dicMasked (cfg t : Nat) : Bool := cfg.testBit (16 + t)

/-- The configuration word of a source. -/
def State.dicCfg (s : State) (n : Nat) : Nat := s.regN (dicBase + 4 * n)

/-- A source is deliverable to a target (R372). -/
def State.deliverable (s : State) (t n : Nat) : Bool :=
  let cfg := s.dicCfg n
  s.dic.pend.getLsbD n && !s.dic.insvc.getLsbD n && dicMasked cfg t
    && decide (s.regN (dicBase + 0x1000 + 16 * t) < dicPrio cfg)
    && (!dicGrouped cfg || s.dic.released.getLsbD n)

/-- The deliverable source of highest priority, the lowest number among equals; 0 where none is (R373). -/
def State.dicBest (s : State) (t : Nat) : Nat :=
  (List.range 512).foldl
    (fun best n => if s.deliverable t n && (best == 0 || decide (dicPrio (s.dicCfg best) < dicPrio (s.dicCfg n)))
      then n else best) 0

/-- Target `t`'s line (R372). -/
def State.dicLine (s : State) (t : Nat) : Bool := s.dicBest t != 0

/-- DEVICE is raised on one Keeper whose line becomes asserted (R376). -/
def State.dicSettleOne (k : Fin 4) (s : State) : State :=
  let now := s.power.hub && s.dicLine k.val
  let was := (s.keeper k).lineWas
  s.modKeeper k (fun x =>
    { x with lineWas := now, int := if now && !was then x.int.raise 0 else x.int })

/-- DEVICE is raised on each Keeper whose line becomes asserted (R376). -/
def State.dicSettle (s : State) : State :=
  (((s.dicSettleOne 0).dicSettleOne 1).dicSettleOne 2).dicSettleOne 3

/-- One event of a group: its timer starts at the first (R374). -/
def Dic.groupEvent (g : Nat) (d : Dic) : Dic :=
  { d with gEvents := Sparse.modify 0 d.gEvents g (· + 1), gRunning := d.gRunning ||| (1#64 <<< g) }

/-- A source's pending bit is set; a grouped source counts the change from 0 (R374). -/
def State.dicPend (n : Nat) (s : State) : State :=
  if s.dic.pend.getLsbD n then s else
    let d := { s.dic with pend := s.dic.pend ||| (1#512 <<< n) }
    let cfg := s.dicCfg n
    { s with dic := if dicGrouped cfg then d.groupEvent (dicGroup cfg) else d }

/-- A P source's event (R372). While the DIC is off in QUIESCENT or DORMANT the event waits for the restore (R375);
while hub main has not started it is lost (R411). -/
def State.raiseP (n : Nat) (s : State) : State :=
  if s.power.hub then (s.dicPend n).dicSettle
  else if s.power.mode == .quiescent || s.power.mode == .dormant
      || (s.power.mode == .ascent && s.power.warm) then
    { s with dic := { s.dic with deferred := s.dic.deferred ||| (1#512 <<< n) } }
  else s

/-- An L source's level (R372): its pending bit follows it while the source is not in service. -/
def State.setLevel (n : Nat) (b : Bool) (s : State) : State :=
  let m : BitVec 512 := 1#512 <<< n
  let s1 := { s with dic := { s.dic with level := if b then s.dic.level ||| m else s.dic.level &&& ~~~m } }
  if !s.power.hub || s.dic.insvc.getLsbD n then s1
  else if b then (s1.dicPend n).dicSettle
  else { s1 with dic := { s1.dic with pend := s1.dic.pend &&& ~~~m, released := s1.dic.released &&& ~~~m } }.dicSettle

/-! ### The Accession Log (R426, R428) -/

/-- A record's 256 bytes (R426). -/
def alogBytes (o : AlogOffer) (seq lost : Nat) : AlogRec :=
  let body := o.body ++ List.replicate (224 - o.body.length) 0
  let head := bytesBE 4 seq ++ bytesBE 2 o.code.toNat ++ [o.origin] ++ bytesBE 1 o.body.length
    ++ bytesBE 4 o.boot.toNat ++ bytesBE 6 (o.time / unitsPerSec) ++ bytesBE 4 (o.time / 65536 % 1000000000)
    ++ bytesBE 2 (min 65535 lost) ++ body
  head ++ bytesBE 4 (crc32 head) ++ bytesBE 4 (seq ^^^ 0x5EA15EA1)

/-- A ring slot nothing has written (log entry 6). -/
def alogBlank : AlogRec := List.replicate 256 0

/-- The engine takes up the oldest waiting record; step 1 of R428 empties its slot. -/
def State.alogStart (s : State) : State :=
  match s.alog.writing, s.alog.queue with
  | none, r :: q =>
    let i := ofBytesBE (r.take 4) % 16384
    let old := Sparse.get alogBlank s.rram.ring i
    { s with
      alog := { s.alog with writing := some r, queue := q }
      rram := { s.rram with ring := Sparse.set alogBlank s.rram.ring i (old.take 252 ++ List.replicate 4 0) } }
  | _, _ => s

/-- A record is accepted with the next SEQ. -/
def State.alogAccept (o : AlogOffer) (lost : Nat) (s : State) : State :=
  { s with alog := { s.alog with queue := s.alog.queue ++ [alogBytes o s.alog.next.toNat lost],
                                 next := s.alog.next + 1 } }.alogStart

/-- A record that finds the queue full is not accepted (R428). -/
def State.alogLose (s : State) : State :=
  ({ s with alog := { s.alog with lostSince := s.alog.lostSince + 1 } }.countReg (alogBase + 8) 1).raiseP 34

/-- The address of NVR_BOOTCNT's register number (R358). -/
def nvrBootcnt : Nat := 0x033

/-- A record is offered (R428); before READY it waits (R429). -/
def State.offer (code : Word) (origin : Byte) (body : List Byte) (s : State) : State :=
  let o : AlogOffer := { code := code, origin := origin, body := body,
                         boot := Sparse.get 0 s.rram.nvShadow nvrBootcnt, time := s.clock.time }
  if s.alog.ready then
    if 64 ≤ s.alog.queue.length then s.alogLose
    else { s.alogAccept o s.alog.lostSince with alog := { (s.alogAccept o s.alog.lostSince).alog with lostSince := 0 } }
  else if 64 ≤ s.alog.backlog.length then s.alogLose
  else { s with alog := { s.alog with backlog := s.alog.backlog ++ [(o, s.alog.lostSince)], lostSince := 0 } }

end Sys2Proof.Machine
end

