-- ==== Sys2Proof/Machine/Encoding.lean ====
section
/-! DEFINITION. Which instruction words are encodings of ch. 6 (R143, R144): the first two cases of ILLEGAL. -/

namespace Sys2Proof.Machine

/-- A system or register-move word, bits [15:12] 0x0 (R149, R158, R162). -/
def sysWord (a : Nat) : Bool :=
  let k := field a 8 4
  let n := field a 4 4
  if k = 0 then decide (a % 256 ≤ 5) else if k = 1 then decide (n ≤ 5) else if k = 2 then decide (n < 8) else k == 3

/-- A transfer of group 0xE: its second byte is A × 128 and a field, the bits between them zero (R158). -/
def farTransfer (a : Nat) : Bool :=
  let k := field a 8 4
  if k = 0 then decide (field a 4 3 = 0 ∧ a % 16 ≠ 15)
  else if k = 1 ∨ k = 3 then field a 0 7 == 0
  else if k = 2 then field a 4 3 == 0
  else k == 4

/-- A long operation, group 0xF: its LOP byte, and d = 0 where a form names no register (R151, R153, R155, R161, R162). -/
def longOp (a : Nat) : Bool :=
  let l := a % 256
  if l < 0x10 then decide (l ≤ 9)
  else if l < 0x40 then decide (l % 16 ≤ 12)
  else if l < 0x50 then decide (l ≤ 0x42)
  else if l < 0x60 then decide (l ≤ 0x51 ∨ l ≤ 0x5A ∧ field a 8 4 = 0)
  else decide (0x70 ≤ l ∧ l < 0xC0)

/-- A first word that a table of ch. 6 gives. -/
def firstWord (a : Nat) : Bool :=
  let g := field a 12 4
  if g = 0 then sysWord a
  else if g = 1 then a % 16 != 15
  else if g = 5 then a % 8 != 7
  else if g = 6 then decide (a % 16 ≤ 12)
  else if g = 7 then decide (field a 4 4 ≤ 12 ∧ a % 16 < 12)
  else if g = 8 then decide (a % 16 ≤ 4)
  else if g = 9 then field a 8 4 != 15
  else if g = 0xB then false
  else if g = 0xE then farTransfer a
  else if g = 0xF then longOp a
  else true

/-- The zero fields of a second word are zero. -/
def secondWord (a b : Nat) : Bool :=
  if field a 8 8 = 0xE4 then field b 14 2 == 0
  else if field a 12 4 = 0xF then
    let l := a % 256
    if 0x30 ≤ l ∧ l < 0x40 then field b 0 10 == 0
    else if 0x40 ≤ l ∧ l < 0x43 then field b 0 8 == 0
    else if 0x50 ≤ l ∧ l < 0x5B then field b 14 2 == 0
    else true
  else true

/-- Words of an instruction (R143). -/
def wordLength (a : Nat) : Nat := if 0xD000 ≤ a then 2 else 1

/-- Two words at a PC begin an instruction of ch. 6. -/
def encoded (a b : Word) : Bool := firstWord a.toNat && (wordLength a.toNat == 1 || secondWord a.toNat b.toNat)

end Sys2Proof.Machine
end

