-- ==== Sys2Proof/Machine/Flags.lean ====
section
/-! DEFINITION. The flags of ST (R112, R113) and every flag computation of the instruction reference (R145, R152, R153),
and the conditions of R146. -/

namespace Sys2Proof.Machine

/-- Z, N, C and V. -/
structure Flags where
  z : Bool
  n : Bool
  c : Bool
  v : Bool
  deriving DecidableEq, Repr

/-- The flags of a status word (R112). -/
def flagsOf (st : Word) : Flags := { z := wbit st 0, n := wbit st 1, c := wbit st 2, v := wbit st 3 }

/-- A status word with its flags replaced. -/
def setFlags (st : Word) (f : Flags) : Word :=
  (st &&& 0xFFF0#16) ||| BitVec.ofNat 16 (b2n f.z + 2 * b2n f.n + 4 * b2n f.c + 8 * b2n f.v)

/-- A result with the flags it sets. -/
structure Result where
  value : Word
  flags : Flags
  deriving DecidableEq, Repr

/-- Z and N of a 16-bit result; C and V as they are. -/
def Flags.zn (f : Flags) (r : Word) : Flags := { f with z := r == 0, n := wbit r 15 }

/-- The add of R145. -/
def addFlags (a b : Word) (cin : Bool) : Result :=
  let t := a.toNat + b.toNat + b2n cin
  let r := BitVec.ofNat 16 t
  { value := r, flags := { z := r == 0, n := wbit r 15, c := decide (65536 ≤ t), v := wbit ((a ^^^ r) &&& (b ^^^ r)) 15 } }

/-- The sub of R145; `bin` is the borrow in. -/
def subFlags (a b : Word) (bin : Bool) : Result :=
  let t := a.toNat + (~~~b).toNat + 1 - b2n bin
  let r := BitVec.ofNat 16 t
  { value := r, flags := { z := r == 0, n := wbit r 15, c := decide (65536 ≤ t), v := wbit ((a ^^^ b) &&& (a ^^^ r)) 15 } }

/-- A logical result: Z and N, V cleared, C unchanged (R150). -/
def logicFlags (f : Flags) (r : Word) : Result := { value := r, flags := { f.zn r with v := false } }

/-- A moved result: Z and N only (R150, R151). -/
def moveFlags (f : Flags) (r : Word) : Result := { value := r, flags := f.zn r }

/-- The shifts of R152, by kind: 0 SHL to 6 RRC. -/
def shiftFlags (kind a : Nat) (f : Flags) (w : Word) : Result :=
  let x := w.toNat
  if a = 0 then { value := w, flags := { f.zn w with v := false } }
  else
    let cw := b2n f.c * 65536 + x
    let p : Nat × Bool :=
      if kind = 0 then (x * 2 ^ a, x.testBit (16 - a))
      else if kind = 1 then (x / 2 ^ a, x.testBit (a - 1))
      else if kind = 2 then ((w.sshiftRight a).toNat, x.testBit (a - 1))
      else if kind = 3 then
        let r := (x * 2 ^ a + x / 2 ^ (16 - a)) % 65536
        (r, r.testBit 0)
      else if kind = 4 then
        let r := (x / 2 ^ a + x * 2 ^ (16 - a)) % 65536
        (r, r.testBit 15)
      else if kind = 5 then
        let r := (cw * 2 ^ a + cw / 2 ^ (17 - a)) % 131072
        (r % 65536, r.testBit 16)
      else
        let r := (cw / 2 ^ a + cw * 2 ^ (17 - a)) % 131072
        (r % 65536, r.testBit 16)
    let r := BitVec.ofNat 16 p.1
    { value := r, flags := { z := r == 0, n := wbit r 15, c := p.2, v := false } }

/-- Z and N of a 32-bit result, C cleared, V as given (R153). -/
def pairFlags (r : Nat) (v : Bool) : Flags := { z := r == 0, n := r.testBit 31, c := false, v := v }

/-- A condition of R146. -/
def condMet (f : Flags) (c : BitVec 4) : Bool :=
  match c.toNat with
  | 0x0 => f.z | 0x1 => !f.z | 0x2 => f.c | 0x3 => !f.c | 0x4 => f.n | 0x5 => !f.n | 0x6 => f.v | 0x7 => !f.v
  | 0x8 => f.c && !f.z | 0x9 => !f.c || f.z | 0xA => f.n == f.v | 0xB => f.n != f.v
  | 0xC => !f.z && f.n == f.v | 0xD => f.z || f.n != f.v | _ => true

end Sys2Proof.Machine
end

