-- ==== Sys2Proof/Machine/Pages.lean ====
section
/-! DEFINITION. Frames, pools and page maps: where a page's words lie, which frames are free, and how a frame is taken
and given back (R56 to R65, R82). A frame is named by its Loam address divided by 4,096. -/

namespace Sys2Proof.Machine

/-! ### Pools (R56) -/

/-- Frames in a Vault pool. -/
def vaultFrames : Part → Nat
  | .sr16k128 | .sr16k128p => 15728640
  | .sr16k064 | .sr16k064p => 7864320

/-- Frames in a pool. -/
def poolSize (p : Part) (k : Nat) : Nat :=
  if k < 2 then vaultFrames p else if k < 4 then 40960 else if k = 4 then 16384 else 0

/-- The first frame of a pool. -/
def poolBase (p : Part) (k : Nat) : Nat :=
  if k = 0 then 0 else if k = 1 then vaultFrames p else if k = 2 then 0x4000000 else if k = 3 then 0x4010000
  else 0x4020000

/-- The pool a frame belongs to. -/
def framePool (p : Part) (f : Nat) : Option Nat :=
  (List.range 5).find? (fun k => decide (poolBase p k ≤ f ∧ f < poolBase p k + poolSize p k))

/-- The die whose pools are `k`: 2 for HD. -/
def poolDie (k : Nat) : Nat := if k = 4 then 2 else k % 2

/-- A frame nothing holds. -/
def FrameRec.free : FrameRec :=
  { pool := 0, shares := 0, title := false, grant := false, copy := none, home := none }

def State.frame (s : State) (f : Nat) : FrameRec := Sparse.get FrameRec.free s.frames f
def State.putFrame (f : Nat) (r : FrameRec) (s : State) : State :=
  { s with frames := Sparse.set FrameRec.free s.frames f r }

/-- A pool's frames stand on its free list or in use: its memory has finished its ASCENT steps (before R62). -/
def State.poolListed (s : State) (k : Nat) : Bool :=
  if k = 4 then s.power.hub
  else if k % 2 = 0 then s.power.stepOn 6 && s.power.stepOn 7 || s.power.selfRefresh.getLsbD 0
  else s.power.stepOn 28 && s.power.stepOn 29 || s.power.selfRefresh.getLsbD 1

/-- A frame's memory is populated now (R24, R405, R412). -/
def State.frameUp (s : State) (f : Nat) : Bool :=
  match framePool s.part f with
  | some k => if k = 4 then (if f < 0x4020040 then s.power.mode != .off else s.power.hub) else s.power.dieUp (k % 2)
  | none => false

/-- Frames may be taken from the pool now (R63, R87, R415). -/
def State.poolUsable (s : State) (k : Nat) : Bool :=
  if k = 4 then s.power.hub
  else s.power.dieUp (k % 2) && !s.power.dieUnavail.getLsbD (k % 2)

/-- Frames of a pool with a given record state. -/
def State.poolCount (s : State) (k st : Nat) : Nat :=
  (s.frames.filter (fun e => framePool s.part e.1 == some k && e.2.pool.toNat == st)).length

/-- The frames of a coded band's stream buffer: its payload's bytes, in whole frames (log entry 64). -/
def BandDesc.frames (d : BandDesc) : Nat := ((d.fragments.map List.length).sum + 4095) / 4096

/-- The Gallery frames of a die that hold the stream buffers of its unreleased bands (R58, R69). -/
def State.bufferFrames (s : State) (die : Nat) : Nat :=
  ((s.slots.filter (fun e => e.1 / 8192 == die)).map (fun e => (e.2.videoQ.map BandDesc.frames).sum)).sum

/-- RESIDENT of R82: frames that hold a page or a grant and, in a Raster die's Gallery, stream buffers. -/
def State.residentCount (s : State) (k : Nat) : Nat :=
  s.poolCount k 1 + (if k = 2 ∨ k = 3 then s.bufferFrames (k - 2) else 0)
def State.inflightCount (s : State) (k : Nat) : Nat := s.poolCount k 2
def State.retiredCount (s : State) (k : Nat) : Nat := s.poolCount k 3

/-- TOTAL of R82. -/
def State.totalCount (s : State) (k : Nat) : Nat :=
  if s.poolListed k then poolSize s.part k - s.retiredCount k else 0

/-- FREE of R82. -/
def State.freeCount (s : State) (k : Nat) : Nat :=
  s.totalCount k - s.residentCount k - s.inflightCount k

/-- A pool's reserve: CUR_RESV of a Vault pool; Galleries have none for ALLOC. -/
def State.poolReserve (s : State) (k : Nat) : Nat := if k < 2 then s.regN (curBase + 0x10 + 4 * k) else 0

/-- CUR_GRESV (R70). -/
def State.galleryReserve (s : State) : Nat := min 8192 (s.regN (curBase + 0x20))

/-- A frame's record is changed; a Vault pool whose FREE falls below CUR_LOWWM raises its source (R65). -/
def State.setFrame (f : Nat) (r : FrameRec) (s : State) : State :=
  let s1 := s.putFrame f r
  match framePool s.part f with
  | some k =>
    if k < 2 then
      let lvl := s.regN (curBase + 0x18 + 4 * k)
      if lvl ≤ s.freeCount k ∧ s1.freeCount k < lvl then s1.raiseP (9 + k) else s1
    else s1
  | none => s1

def State.modFrame (f : Nat) (g : FrameRec → FrameRec) (s : State) : State := s.setFrame f (g (s.frame f))

/-- The first free frame at or after a place in a pool, going round once. -/
def State.seekFree (s : State) (base n : Nat) : Nat → Nat → Option Nat
  | 0, _ => none
  | fuel + 1, i =>
    if (s.frame (base + i % n)).pool = 0 then some (base + i % n) else s.seekFree base n fuel (i + 1)

/-- The frame a pool gives out next; the order is free (R61, log entry 1). -/
def State.nextFree (s : State) (k : Nat) : Option Nat :=
  if s.freeCount k = 0 then none
  else s.seekFree (poolBase s.part k) (poolSize s.part k) (s.frames.length + 1)
    (Config.freeFrame k s.fresh % poolSize s.part k)

/-- A frame is taken from a pool with the record given. -/
def State.takeFrame (k : Nat) (r : FrameRec) (s : State) : Option (Nat × State) :=
  (s.nextFree k).map (fun f => (f, { (s.setFrame f r).spend with images := Sparse.erase s.images f }))

/-- A frame goes back to its free list. -/
def State.freeFrame (f : Nat) (s : State) : State :=
  { s.setFrame f FrameRec.free with galleryOrder := s.galleryOrder.filter (· != f) }

/-- The record of a resident home frame of one map. -/
def FrameRec.page : FrameRec := { FrameRec.free with pool := 1, shares := 1 }

/-- The Vault pool that R63 takes the next home frame from. `die`: the slot's die of an admitted session; `touch`: a
first touch, a copy-on-write write or a relocation of R85. -/
def State.homePool (s : State) (die : Option Nat) (touch : Bool) : Option Nat :=
  let cur := s.regN curBase
  let spill := cur.testBit 1
  let above := fun k => s.poolUsable k && decide (s.poolReserve k < s.freeCount k)
  let any := fun k => s.poolUsable k && decide (0 < s.freeCount k)
  match die with
  | some d =>
    let o := 1 - d
    if above d then some d
    else if spill && above o then some o
    else if touch && any d then some d
    else if touch && spill && any o then some o
    else none
  | none =>
    let d := b2n (cur.testBit 0)
    if above d then some d else if spill && above (1 - d) then some (1 - d) else none

/-- A home frame is taken under R63. -/
def State.takeHome (die : Option Nat) (touch : Bool) (s : State) : Option (Nat × State) :=
  (s.homePool die touch).bind (fun k => s.takeFrame k FrameRec.page)

/-! ### Page maps (R59) -/

/-- A page nobody has allocated. -/
def PageEntry.none : PageEntry :=
  { alloc := false, cow := false, gcopy := false, dirty := false, home := 0, gframe := 0, inflight := false }

def Context.page (x : Context) (i : Nat) : PageEntry := Sparse.get PageEntry.none x.pages i
def Context.setPage (i : Nat) (e : PageEntry) (x : Context) : Context :=
  { x with pages := Sparse.set PageEntry.none x.pages i e }
def State.page (s : State) (c : CtxNo) (i : Nat) : PageEntry := (s.ctx c).page i
def State.setPage (c : CtxNo) (i : Nat) (e : PageEntry) (s : State) : State := s.modCtx c (·.setPage i e)

/-- The eight bytes of an entry as a number (R59). -/
def PageEntry.bits (e : PageEntry) : Nat :=
  b2n e.alloc * 2 ^ 63 + b2n e.cow * 2 ^ 62 + b2n e.gcopy * 2 ^ 61 + b2n e.dirty * 2 ^ 60
    + e.home.toNat * 2 ^ 33 + (if e.gcopy then e.gframe.toNat else 0) * 2 ^ 17

/-- The space and page index of a page map entry, by the SPACE codes of R48. -/
def pageSpace (i : Nat) : Nat × Nat :=
  if i < 3 then (0, i) else if i < 27 then (1, i - 3) else if i < 155 then (2, i - 27)
  else if i < 219 then (3, i - 155) else (4, i - 219)

/-- The entries a profile uses (R59). -/
def pageInUse (grand : Bool) (i : Nat) : Bool :=
  if grand then decide (i < 227)
  else decide (i = 0 ∨ 3 ≤ i ∧ i < 59 ∨ 155 ≤ i ∧ i < 171 ∨ 219 ≤ i ∧ i < 227)

/-- Gallery frame numbers to frames. -/
def galleryFrame (die g : Nat) : Nat := (if die = 0 then 0x4000000 else 0x4010000) + g

/-- The frame that holds a Vault frame's current contents (R57, R80). -/
def State.current (s : State) (h : Nat) : Nat :=
  match (s.frame h).copy with
  | some (d, g) => galleryFrame (b2n d) g.toNat
  | none => h

/-- The copy of a Vault frame that a die's Gallery holds, if any. -/
def State.copyOn (s : State) (die h : Nat) : Option Nat :=
  (s.frames.find? (fun e => e.2.home == some h && e.2.pool == 1
    && decide (galleryFrame die 0 ≤ e.1 ∧ e.1 < galleryFrame die 0 + 0x10000))).map (·.1)

/-- The Gallery frame of a die that a page-in under way fills from a Vault frame. -/
def State.flightOn (s : State) (die h : Nat) : Option Nat :=
  (s.frames.find? (fun e => e.2.home == some h && e.2.pool == 2
    && decide (galleryFrame die 0 ≤ e.1 ∧ e.1 < galleryFrame die 0 + 0x10000))).map (·.1)

/-- The slot die of an admitted context. -/
def State.ctxDie (s : State) (c : CtxNo) : Option Nat := (s.heldSlot c).map slotDie

/-- The frame a page is read from: its Gallery copy, or where its home's contents lie. -/
def State.pageFrame (s : State) (c : CtxNo) (i : Nat) : Option Nat :=
  let e := s.page c i
  if !e.alloc then none
  else match s.ctxDie c with
    | some d => if e.gcopy then some (galleryFrame d e.gframe.toNat) else some (s.current e.home.toNat)
    | none => some (s.current e.home.toNat)

/-- A word of a page, with no page movement; an unallocated page reads 0 (R61). -/
def State.peek (s : State) (c : CtxNo) (i off : Nat) : Word :=
  match s.pageFrame c i with
  | some f => s.word (f * 4096 + 2 * off)
  | none => 0

/-- MAPPED (R55): pages in the page map; the mirror and state pages count. -/
def Context.mapped (x : Context) : Nat := (x.pages.filter (fun e => e.2.alloc)).length

/-- OWNED (R55): pages whose frame no other context maps. -/
def State.owned (s : State) (x : Context) : Nat :=
  (x.pages.filter (fun e => e.2.alloc && decide ((s.frame e.2.home.toNat).shares.toNat ≤ 1))).length

/-- The V page of a word, by bank (R59). -/
def vPage (bank a : Nat) : Nat := 27 + 32 * bank + a / 2048
/-- The S page of a word, by half. -/
def sPage (half a : Nat) : Nat := 155 + 32 * half + a / 2048
/-- The D page of a word. -/
def dPage (a : Nat) : Nat := 3 + a / 2048

/-- Gallery frame `f` is accessed: it becomes the most recent (R69). -/
def State.touchGallery (f : Nat) (s : State) : State :=
  { s with galleryOrder := s.galleryOrder.filter (· != f) ++ [f] }

end Sys2Proof.Machine
end

