-- ==== Sys2Proof/Machine/Contain.lean ====
section
/-! DEFINITION. Ending context commands, freeing slots, writing back Gallery copies, and quarantine (R39, R44, R433 to
R436). -/

namespace Sys2Proof.Machine

/-- The state codes of R36. -/
def CtxState.code : CtxState → Nat
  | .free => 0 | .suspended => 1 | .admitting => 2 | .running => 3 | .suspending => 4 | .exported => 5
  | .quarantined => 6 | .retiring => 7 | .importing => 8

def State.modPort (p : Fin 4) (f : Port → Port) (s : State) : State :=
  { s with ports := s.ports.set p.val (f s.ports[p.val]) }

/-- A command ends: BUSY clears, RESULT is set and the port's source is raised (R39). -/
def State.endPort (p : Fin 4) (result : Nat) (s : State) : State :=
  (s.modPort p (fun x => { x with busy := false, waiting := none, result := BitVec.ofNat 8 result })).raiseP
    (1 + p.val)

/-- Lines of a band by the BAND_H field (R109). -/
def bandLines (f : Nat) : Nat := if f = 0 then 4 else if f = 2 then 16 else 8

/-- The band height of the slot a session is admitted to. -/
def State.bandH (s : State) (k : Nat) : Nat := bandLines (field (s.slot k).ctrlEff.toNat 0 2)

/-- Another session admitted on a die runs a title (R44). -/
def State.titleUsedOn (s : State) (c : CtxNo) (t : BitVec 16) (die : Nat) : Bool :=
  s.ctxs.any (fun e => e.1 != c.toNat && e.2.title == t && s.ctxDie (BitVec.ofNat 18 e.1) == some die)

/-- The Gallery copies of a title's pages that no session of the die uses any longer are freed (R44). -/
def State.dropTitleCopies (c : CtxNo) (die : Nat) (s : State) : State :=
  let t := (s.ctx c).title
  if s.titleUsedOn c t die then s
  else match s.titles.find? (fun e => e.1 == t.toNat) with
    | some e => e.2.frames.foldl (fun (s : State) h =>
        match s.copyOn die h.toNat with | some f => s.freeFrame f | none => s) s
    | none => s

/-- One slot holds nothing any longer: its queues are emptied and disabled (R34) and no phase adjustment is pending. -/
def State.idleSlot (k : Nat) (s : State) : State := (s.setSlot k SlotSt.idle).setReg (schAddr k 0x1C) 0

/-- A slot is freed, and its budget charges released (R34, R53). -/
def State.freeSlot (c : CtxNo) (s : State) : State :=
  match s.heldSlot c with
  | some k =>
    let s0 := s.dropTitleCopies c (slotDie k)
    let s1 := ([k + 1, k + 2, k + 3] : List Nat).foldl (fun (s : State) j =>
      if (s.slot j).upper && (s.slot j).ctx == some c then s.idleSlot j else s) (s0.idleSlot k)
    s1.modCtx c (fun x => { x with slot := 0, pixCharge := 0 })
  | none => s

/-- A context whose map names a Gallery frame of a die. -/
def State.namesCopy (s : State) (die f : Nat) (c : CtxNo) : Bool :=
  s.ctxDie c == some die
    && (s.ctx c).pages.any (fun e => e.2.gcopy && galleryFrame die e.2.gframe.toNat == f)

/-- The contexts that hold an entry of the table away from reset, in ascending order. -/
def State.ctxNos (s : State) : List CtxNo := s.ctxs.map (fun e => BitVec.ofNat 18 e.1)

/-- A dirty Gallery copy is written to its home frame (R69). -/
def State.writeBackFrame (f : Nat) (s : State) : State :=
  match (s.frame f).home with
  | some h =>
    if s.current h = f ∧ f ≠ h then
      let s1 := (s.copyFrame f h).modFrame h (fun r => { r with copy := none })
      s1.ctxNos.foldl (fun (s : State) c =>
        if s.namesCopy (if f < 0x4010000 then 0 else 1) f c then
          s.modCtx c (fun x => { x with pages := x.pages.map (fun e =>
            (e.1, if e.2.home.toNat == h then { e.2 with dirty := false } else e.2)) })
        else s) s1
    else s
  | none => s

/-- A context whose map waits for the page-in into a Gallery frame of a die. -/
def State.awaitsCopy (s : State) (die f : Nat) (c : CtxNo) : Bool :=
  s.ctxDie c == some die
    && (s.ctx c).pages.any (fun e => e.2.inflight && galleryFrame die e.2.gframe.toNat == f)

/-- A page-in of a home frame ends without a copy. -/
def State.endFlight (die f h : Nat) (s : State) : State :=
  { s.freeFrame f with pageReqs := s.pageReqs.filter (fun r => !(r.die == die && r.home == h)) }

/-- No map waits for a page-in of a home frame any longer. -/
def State.unawait (die f : Nat) (s : State) : State :=
  s.ctxNos.foldl (fun (s : State) c =>
    if s.awaitsCopy die f c then
      s.modCtx c (fun x => { x with pages := x.pages.map (fun e : Nat × PageEntry =>
        (e.1, if e.2.inflight && galleryFrame die e.2.gframe.toNat == f then { e.2 with inflight := false, gframe := 0 } else e.2)) })
    else s) s

/-- The Gallery copies of a home frame, and page-ins of it, are given up. -/
def State.freeCopies (h : Nat) (s : State) : State :=
  ([0, 1] : List Nat).foldl (fun (s : State) d =>
      let s1 := match s.copyOn d h with | some f => s.freeFrame f | none => s
      match s1.flightOn d h with | some f => (s1.unawait d f).endFlight d f h | none => s1)
    (s.modFrame h (fun r => { r with copy := none }))

/-- A context's page loses its Gallery copy, or its page-in; the frame is freed when no other admitted session of the die names it. -/
def State.dropPageCopy (c : CtxNo) (i : Nat) (s : State) : State :=
  let e := s.page c i
  match s.ctxDie c with
  | some d =>
    if e.inflight then
      let f := galleryFrame d e.gframe.toNat
      let s1 := s.modCtx c (fun x => x.setPage i { x.page i with inflight := false, gframe := 0 })
      if s1.ctxNos.any (s1.awaitsCopy d f) then
        { s1 with pageReqs := s1.pageReqs.map (fun r => if r.die == d && r.home == e.home.toNat then
            { r with freezes := r.freezes.filter (· != c) } else r) }
      else s1.endFlight d f e.home.toNat
    else if e.gcopy then
      let f := galleryFrame d e.gframe.toNat
      let s1 := (s.writeBackFrame f).modCtx c (fun x =>
        x.setPage i { x.page i with gcopy := false, dirty := false, gframe := 0, inflight := false })
      if s1.ctxNos.any (s1.namesCopy d f) then s1 else s1.freeFrame f
    else s
  | none => s

/-- The page indices a context maps. -/
def Context.pageList (x : Context) : List Nat := x.pages.map (·.1)

/-- The Gallery copy of a page differs from its home from now on. -/
def State.markDirty (c : CtxNo) (i : Nat) (s : State) : State :=
  let e := s.page c i
  match s.ctxDie c with
  | some d =>
    if e.gcopy then
      (s.modCtx c (fun x => x.setPage i { x.page i with dirty := true })).modFrame e.home.toNat (fun r =>
        { r with copy := some (d == 1, e.gframe) })
    else s
  | none => s

/-- The words a thread has written in a staging line go to the copy of their page of work RAM (R75, R76). -/
def State.writeLine (c : CtxNo) (e : StageLine) (s : State) : State :=
  let i := dPage (64 * e.tag)
  match s.pageFrame c i with
  | some f =>
    if e.words.isEmpty then s
    else (e.words.foldl (fun (s : State) w => s.setWord (f * 4096 + 2 * (64 * e.tag % 2048 + w.1)) w.2) s).markDirty c i
  | none => s

/-- Every written staging line of a session is written back; the lines stay (R80). -/
def State.flushLines (c : CtxNo) (s : State) : State :=
  (s.sesD c [] (·.staging)).foldl (fun (s : State) e => s.writeLine c e) s
    |>.modSes c (fun x => { x with staging := x.staging.map (fun e => { e with words := [] }) })

/-- Steps 1 to 3 of R44: every written line, then every dirty copy is written back and the Gallery copies of the session's pages are freed. -/
def State.writeBackAll (c : CtxNo) (s : State) : State :=
  ((s.ctx c).pageList.foldl (fun s i => s.dropPageCopy c i) (s.flushLines c)).modSes c (fun x => { x with staging := [] })

/-- One map's share of a home frame is dropped; a frame no map names any longer is freed (R44). -/
def State.dropShare (h : Nat) (s : State) : State :=
  let r := s.frame h
  if r.shares.toNat ≤ 1 then (s.freeCopies h).freeFrame h
  else s.setFrame h { r with shares := r.shares - 1 }

/-- A page leaves a context's map. -/
def State.unmapPage (c : CtxNo) (i : Nat) (s : State) : State :=
  let e := s.page c i
  if e.alloc then
    let s1 := (s.dropPageCopy c i).modCtx c (fun x => x.setPage i PageEntry.none)
    s1.dropShare e.home.toNat
  else s

/-- The new entry of an unfinished SNAPSHOT or FORK becomes what it was before the command (R39). -/
def State.undoNew (p : Fin 4) (s : State) : State :=
  let n : CtxNo := s.ports[p.val].args[0].setWidth 18
  match s.ports[p.val].prior with
  | some x => (((s.ctx n).pageList.foldl (fun s i => s.unmapPage n i) s).freeSlot n).setCtx n x
  | none => s

/-- A SNAPSHOT or FORK of a quarantined source (Quarantine meeting a command): one whose Curator operation is not done
is undone; the new context of one whose operation is done stays SUSPENDED. -/
def State.quarantinedSource (p : Fin 4) (s : State) : State :=
  let n : CtxNo := s.ports[p.val].args[0].setWidth 18
  if (s.ses n).isNone then s.undoNew p
  else if (s.ctx n).state = .admitting then
    ((s.writeBackAll n).freeSlot n).modCtx n (fun x => { x with state := .suspended })
  else s

/-- Every command that names a context, RETIRE apart, ends with BAD_STATE (Quarantine meeting a command). -/
def State.endWaiting (c : CtxNo) (s : State) : State :=
  ([0, 1, 2, 3] : List (Fin 4)).foldl (fun (s : State) (p : Fin 4) =>
    match s.ports[p.val].waiting with
    | some (c', op) =>
      if op = 9 then s
      else if c' = c then (if op = 4 ∨ op = 5 then s.quarantinedSource p else s).endPort p 1
      else if (op = 4 ∨ op = 5) ∧ s.ports[p.val].args[0].setWidth 18 = c then s.endPort p 1
      else s
    | none => s) s

/-- A context's map entry of a poisoned page is cleared to ALLOC 0 (R86). -/
def State.clearPage (c : CtxNo) (i : Nat) (s : State) : State :=
  s.modCtx c (fun x => x.setPage i PageEntry.none)

/-- The causes of a quarantine (R434). -/
def causePoisonRead : Nat := 1
def causePoisonStaging : Nat := 2
def causeFrameExhausted : Nat := 3
def causeTitleFaulted : Nat := 4

/-- A record goes to CUR_QREC (R438); a full FIFO counts it in CUR_QOVF. -/
def State.quarRecord (c : CtxNo) (cause : Nat) (s : State) : State :=
  if s.quarFifo.length < 256 then
    { s with quarFifo := s.quarFifo ++ [BitVec.ofNat 32 (2 ^ 31 + cause % 256 * 2 ^ 18 + c.toNat)] }.setLevel 32 true
  else s.countReg (curBase + 0x304) 1

/-- Virtual time stands inside a band period it has begun (R435). -/
def State.midBand (s : State) (c : CtxNo) : Bool :=
  match s.heldSlot c, s.ses c with
  | some k, some x =>
    !(s.slot k).stopped && (match x.lastBoundary with
      | some (f, l) => f == x.frame && decide (l / s.bandH k = x.vcyc / x.liveN 0xF004 / s.bandH k)
      | none => false)
  | _, _ => false

/-- A quarantine (R434) with the failing frame's Loam address and the space and page of its record. -/
def State.quarantine (c : CtxNo) (cause addr space page : Nat) (s : State) : State :=
  let x := s.ctx c
  if x.state = .free ∨ x.state = .quarantined then s else
    let slot := (s.heldSlot c).getD 0
    let s1 := if s.midBand c then (s.writeBackAll c).modSes c (fun y => { y with midBand := true })
      else s.writeBackAll c
    let s2 := (s1.freeSlot c).modCtx c (fun y => { y with state := .quarantined })
    let s3 := (s2.offer 0x0011 2 (bytesBE 3 c.toNat ++ [x.gen] ++ bytesBE 1 x.state.code ++ bytesBE 2 slot
      ++ bytesBE 1 cause ++ bytesBE 6 addr ++ bytesBE 1 space ++ bytesBE 2 page)).quarRecord c cause
    s3.endWaiting c

/-- FRAME_EXHAUSTED for a page index of the map (R64, R431). -/
def State.exhausted (c : CtxNo) (i : Nat) (s : State) : State :=
  s.quarantine c causeFrameExhausted 0 (pageSpace i).1 (pageSpace i).2

/-- A session halts: its slot goes to the halt FIFO of its die (R142, R371). -/
def State.haltRecord (c : CtxNo) (s : State) : State :=
  match s.heldSlot c with
  | some k =>
    let d := slotDie k % 2
    let q := if d = 0 then s.haltFifo[0] else s.haltFifo[1]
    if q.length < 256 then
      let v : Reg32 := BitVec.ofNat 32 (2 ^ 31 + k)
      { s with haltFifo := if d = 0 then s.haltFifo.set 0 (q ++ [v]) else s.haltFifo.set 1 (q ++ [v]) }.setLevel
        (7 + d) true
    else s.countReg (bscBase + 0x318) 1
  | none => s

end Sys2Proof.Machine
end

