-- ==== Sys2Proof/Machine/Curator.lean ====
section
/-! DEFINITION. Page movement (R61 to R73, R80 to R82): page-ins and the order in which they are served, first touches,
copy-on-write and eviction. A movement that cannot complete leaves the state as it is, or with the session quarantined, and answers
so. -/

namespace Sys2Proof.Machine

/-! ### Titles (R77) -/

def State.titleOf (s : State) (t : BitVec 16) : Title :=
  Sparse.get { state := 0, cPages := 0, dPages := 0, list := 0, frames := [] } s.titles t.toNat

def State.titleReady (s : State) (t : BitVec 16) : Bool := (s.titleOf t).state == 1

/-- The title of a context. -/
def State.ctxTitle (s : State) (c : CtxNo) : Title := s.titleOf (s.ctx c).title

/-- The home frame of page `i` of a title's list, code pages first. -/
def Title.frame (t : Title) (i : Nat) : Nat := ((t.frames.getD i 0).toNat)

/-! ### Eviction (R69) -/

/-- The title pages of the table that list a frame: the place in the list and whether it is code. -/
def State.titleOfFrame (s : State) (h : Nat) : Option (Nat × Nat × Bool) :=
  (s.titles.filterMap (fun e =>
    if e.2.state = 0 then none else
      match e.2.frames.findIdx? (fun f => f.toNat == h) with
      | some i => some (e.1, i, decide (i < e.2.cPages.toNat))
      | none => none)).head?

/-- The CUR_CLASS weight of a copy by what its home frame holds. -/
def State.copyWeight (s : State) (h : Nat) : Nat :=
  let w := s.regN (curBase + 8)
  match s.titleOfFrame h with
  | some (_, _, code) => if code then field w 12 3 else field w 9 3
  | none =>
    match (s.ctxs.filterMap (fun e => (e.2.pages.find? (fun p => p.2.alloc && p.2.home.toNat == h)).map (·.1))).head? with
    | some i => if i < 27 then field w 6 3 else if i < 155 then field w 3 3 else if i < 219 then field w 0 3
      else field w 15 3
    | none => 0

/-- Some line of a session's frames up to the one its engine has reached is in no coded band yet (R69, R93). -/
def State.codingOpen (s : State) (c : CtxNo) : Bool :=
  match s.heldSlot c, s.ses c with
  | some k, some x =>
    let y := s.slot k
    decide (y.codedF < x.frame ∨ y.codedF = x.frame ∧ y.codedK * s.bandH k ≤ x.vcyc / max 1 (x.liveN 0xF004))
  | _, _ => false

/-- A copy is held (R69): a state page or a page of the present and next AHEAD bands of an admitted session, a mirror page of one
with a band whose coding has not finished, or one a movement involves. -/
def State.copyHeld (s : State) (die f : Nat) : Bool :=
  (s.frame f).pool != 1 || s.ctxNos.any (fun c =>
    s.ctxDie c == some die && (s.ctx c).pages.any (fun e =>
      e.2.gcopy && galleryFrame die e.2.gframe.toNat == f
        && (decide (e.1 < 3) || decide (219 ≤ e.1) && s.codingOpen c
          || (s.slot ((s.heldSlot c).getD 0)).ahead.contains e.1)))

/-- The copy R69 chooses: the lowest weight, and among equals the least recently accessed. -/
def State.victim (s : State) (die : Nat) : Option Nat :=
  let cands := s.galleryOrder.filter (fun f =>
    decide (galleryFrame die 0 ≤ f ∧ f < galleryFrame die 0 + 40960) && (s.frame f).home.isSome && !s.copyHeld die f)
  cands.foldl (fun best f =>
    match best with
    | none => some f
    | some b => if s.copyWeight ((s.frame f).home.getD 0) < s.copyWeight ((s.frame b).home.getD 0) then some f
      else some b) none

/-- A copy is evicted: written back when dirty, unmapped everywhere, freed. -/
def State.evictFrame (die f : Nat) (s : State) : State :=
  let s1 := s.writeBackFrame f
  let s2 := s1.ctxNos.foldl (fun (s : State) c =>
    if s.namesCopy die f c then
      s.modCtx c (fun x => { x with pages := x.pages.map (fun e =>
        (e.1, if e.2.gcopy && galleryFrame die e.2.gframe.toNat == f then
          { e.2 with gcopy := false, dirty := false, gframe := 0 } else e.2)) })
    else s) s1
  s2.freeFrame f

/-- A Gallery frame for a copy; `special`: a stream buffer or mirror page, which may take the reserve (R70). None: the
request waits. -/
def State.takeGallery (die : Nat) (special : Bool) (r : FrameRec) (s : State) : Option (Nat × State) :=
  let floor := if special then 0 else s.galleryReserve
  if floor < s.freeCount (2 + die) then s.takeFrame (2 + die) r
  else match s.victim die with
    | some f => (s.evictFrame die f).takeFrame (2 + die) r
    | none => none

/-! ### Page-ins, first touches and copies -/

/-- The slot whose counters a session uses (R87). -/
def State.countSlot (c : CtxNo) (o n : Nat) (s : State) : State :=
  match s.heldSlot c with
  | some k => s.countReg (curSlotAddr k o) n
  | none => s

/-! ### Stalls (R70, R72, R73): each stall is counted, and its wall time is a free count of its own (log entry 1) -/

/-- One more stall on the counter at an address. -/
def State.stall (a : Nat) (s : State) : State := s.addCnt a 1

/-- The wall time that a stall counter reads: of the stalls since it was cleared. -/
def State.stallTime (s : State) (a : Nat) : Nat :=
  min 0xFFFFFFFF (((List.range (s.cnt a - s.cnt (a + 1))).map (fun i => Config.stallTime a (s.cnt (a + 1) + i))).sum)

/-- A stall counter is cleared. -/
def State.clearStall (a : Nat) (s : State) : State := s.setCnt (a + 1) (s.cnt a)

/-- BSC_SPARE of a slot: the spare seats among the cycles that its session has run since admission (R97, R109). -/
def State.spareSeats (s : State) (k : Nat) : Nat :=
  let a := schAddr k 0x34
  min 0xFFFFFFFF ((List.range (s.cnt a - s.cnt (a + 1))).filter (fun i => Config.spareSeat k (s.cnt (a + 1) + i))).length

/-- SES_PERF_WPFILL of the session of a slot (R132). -/
def State.wrongFills (s : State) (k : Nat) : Nat :=
  let a := schAddr k 0x36
  min 0xFFFF (((List.range (s.cnt a - s.cnt (a + 1))).map (fun i => Config.wrongFills k (s.cnt (a + 1) + i))).sum)

/-- An Exact-mode session's virtual time has frozen for a stall: its FREEZE counter takes it (R73). -/
def State.countFreeze (c : CtxNo) (s : State) : State :=
  if s.sesD c true (·.fast) then s
  else match s.heldSlot c with | some k => s.stall (curSlotAddr k 8) | none => s

/-- A request waits for a Gallery frame: GAL_WAIT of the die counts it (R70). -/
def State.countGalWait (die : Nat) (s : State) : State := s.stall (curBase + 0x210 + 4 * die)

/-- An operation that waits for a Gallery frame has not begun, and its wait is counted; one that found no home frame has
quarantined its session (R64, R70). `s1`: the state in which it found that. -/
def State.waits (c : CtxNo) (s s1 : State) : State :=
  if (s1.ctx c).state = .quarantined then s1 else { s with cnt64 := s1.cnt64 }

/-- The context's request waits: for a Gallery frame of its die, which GAL_WAIT counts, or for its turn. -/
def State.waitsHere (c : CtxNo) (s : State) : State :=
  match s.ctxDie c with
  | some d => if (s.takeGallery d false FrameRec.free).isNone then s.countGalWait d else s
  | none => s

/-- A page's entry is changed. -/
def State.modPage (c : CtxNo) (i : Nat) (f : PageEntry → PageEntry) (s : State) : State :=
  s.modCtx c (fun x => x.setPage i (f (x.page i)))

/-- The record of a Gallery copy of a home frame. -/
def FrameRec.copyOf (h : Nat) : FrameRec := { FrameRec.free with pool := 1, home := some h }

/-! #### The order of service (R68) -/

/-- A page-in's class: 1 for a band's path to its deadline, 2 for a thread or another unit, 3 for beam-ahead prefetch. -/
def pageClass : Requester → Nat | .band => 1 | .unit => 2 | .ahead => 3

/-- One page-in is served before another: the lower class, and in class 1 the earlier deadline. -/
def PageReq.before (a b : PageReq) : Bool := decide (a.cls < b.cls ∨ a.cls = b.cls ∧ a.cls = 1 ∧ a.due < b.due)

/-- The page-in that a die serves next: of the first class, the earliest deadline, and then the first that arose. -/
def State.nextReq (s : State) (die : Nat) : Option PageReq :=
  (s.pageReqs.filter (fun r => r.die == die)).foldl (fun (best : Option PageReq) r =>
    match best with
    | some b => if r.before b then some r else some b
    | none => some r) none

/-- A page-in that arises now and completes now is served before everything under way on the die. -/
def State.servedNow (s : State) (die cls due : Nat) : Bool :=
  s.pageReqs.all (fun r => r.die != die || ({ die := die, home := 0, cls := cls, due := due, freezes := [] } : PageReq).before r)

/-- A page-in arises, or joins the one of the same page under way, which then counts in the class that is served first (R67, R68;
log entry 63). -/
def State.askPage (r : PageReq) (s : State) : State :=
  { s with pageReqs :=
      if s.pageReqs.any (fun q => q.die == r.die && q.home == r.home) then
        s.pageReqs.map (fun q => if q.die == r.die && q.home == r.home then
          { (if r.before q then r else q) with freezes := (q.freezes ++ r.freezes).eraseDups } else q)
      else s.pageReqs ++ [r] }

/-- A page miss begins (R66): a Gallery frame is taken and the page-in is in flight. A copy the die already holds, or a page-in
of the same page under way, serves without one (R67). -/
def State.startPageIn (c : CtxNo) (i cls due : Nat) (s : State) : Option State :=
  let e := s.page c i
  match s.ctxDie c with
  | some d =>
    let h := e.home.toNat
    let r : PageReq := { die := d, home := h, cls := cls, due := due,
                         freezes := if cls = 2 ∧ s.sesD c false (fun x => !x.fast) = true then [c] else [] }
    let await := fun (f : Nat) (z : State) => (z.modPage c i (fun x =>
      { x with inflight := true, gframe := BitVec.ofNat 16 (f - galleryFrame d 0) })).askPage r
    if !e.alloc || e.gcopy then some s
    else if e.inflight then some (s.askPage r)
    else
      match s.copyOn d h, s.flightOn d h with
      | some f, _ => some (s.modPage c i (fun x =>
          { x with gcopy := true, gframe := BitVec.ofNat 16 (f - galleryFrame d 0),
                   dirty := decide (s.current h = f) }))
      | none, some f => some (await f s)
      | none, none =>
        if s.frameUp (s.current h) then
          (s.takeGallery d (decide (219 ≤ i)) { FrameRec.copyOf h with pool := 2 }).map (fun (f, s1) => await f s1)
        else none
  | none => some s

/-- A page-in in flight completes: the copy is resident and clean for every map that waited for it (R66, R67, R82). -/
def State.endPageIn (c : CtxNo) (i : Nat) (s : State) : State :=
  let e := s.page c i
  match s.ctxDie c with
  | some d =>
    if e.inflight then
      let f := galleryFrame d e.gframe.toNat
      let h := e.home.toNat
      let s1 := (s.copyFrame (s.current h) f).setFrame f (FrameRec.copyOf h)
      let s2 := s1.ctxNos.foldl (fun (z : State) n =>
        if s.awaitsCopy d f n then
          z.modCtx n (fun x => { x with pages := x.pages.map (fun p : Nat × PageEntry =>
            (p.1, if p.2.inflight && galleryFrame d p.2.gframe.toNat == f then
              { p.2 with inflight := false, gcopy := true, dirty := false } else p.2)) })
        else z) s1
      { (s2.countSlot c 0 1).touchGallery f with pageReqs := s2.pageReqs.filter (fun r => !(r.die == d && r.home == h)) }
    else s
  | none => s

/-- A first touch (R61). No frame in any source: the session is quarantined (R64; of a context that is not RUNNING too, log entry
63). -/
def State.firstTouch (c : CtxNo) (i : Nat) (s : State) : State × Bool :=
  if (s.page c i).alloc then (s, true)
  else match s.takeHome (s.ctxDie c) true with
    | none => (s.exhausted c i, false)
    | some (h, s1) =>
      let s2 := s1.setPage c i { PageEntry.none with alloc := true, home := BitVec.ofNat 25 h }
      match s.ctxDie c with
      | none => (s2.clearFrame h, true)
      | some d =>
        match s2.takeGallery d (decide (219 ≤ i)) (FrameRec.copyOf h) with
        | none => (s.waitsHere c, false)
        | some (f, s3) =>
          ((((((s3.clearFrame f).modPage c i (fun x =>
            { x with gcopy := true, gframe := BitVec.ofNat 16 (f - galleryFrame d 0) })).markDirty c i).countSlot
              c 4 1).touchGallery f), true)

/-- A write to a copy-on-write page (R81): a new home frame holds the page, or the last sharer writes in place. It waits while the
page's page-in is in flight. -/
def State.copyOnWrite (c : CtxNo) (i : Nat) (s : State) : State × Bool :=
  let e := s.page c i
  if !(e.alloc && e.cow) then (s, true)
  else if e.inflight then (s, false)
  else
    let old := e.home.toNat
    if (s.frame old).shares.toNat ≤ 1 then (s.modPage c i (fun x => { x with cow := false }), true)
    else match s.takeHome (s.ctxDie c) true with
      | none => (s.exhausted c i, false)
      | some (h, s1) =>
        let s2 := s1.modFrame old (fun r => { r with shares := r.shares - 1 })
        match s.ctxDie c with
        | none =>
          ((s2.copyFrame (s2.current old) h).modPage c i (fun x => { x with cow := false, home := BitVec.ofNat 25 h }),
            true)
        | some d =>
          match s2.takeGallery d (decide (219 ≤ i)) (FrameRec.copyOf h) with
          | none => (s.waitsHere c, false)
          | some (f, s3) =>
            ((((((s3.copyFrame (s3.current old) f).modPage c i (fun x =>
              { x with cow := false, home := BitVec.ofNat 25 h, gcopy := true,
                       gframe := BitVec.ofNat 16 (f - galleryFrame d 0) })).markDirty c i).countSlot c 4 1).touchGallery
                f), true)

end Sys2Proof.Machine
end

