-- ==== Sys2Proof/Machine/Parity.lean ====
section
/-! DEFINITION. What the Curator does about frames that fail parity (R85, R86, R391): retirement, relocation, poisoned pages and
faulted titles. -/

namespace Sys2Proof.Machine

/-- MAP_ROOT names the home frame of state page 0 (R59). -/
def State.setRoot (c : CtxNo) (s : State) : State :=
  s.modCtx c (fun x => { x with mapRoot := (x.page 0).home.setWidth 36 })

/-! ### Retirement (R85) -/

/-- A retired frame's record. -/
def FrameRec.retired : FrameRec := { FrameRec.free with pool := 3 }

/-- The contexts that map a home frame, with the page index, in ascending order. -/
def State.mappers (s : State) (h : Nat) : List (CtxNo × Nat) :=
  s.ctxs.filterMap (fun e => (e.2.pages.find? (fun p => p.2.alloc && p.2.home.toNat == h)).map
    (fun p => (BitVec.ofNat 18 e.1, p.1)))

/-- A RETIRE record (R431). -/
def State.retireRecord (f row node : Nat) (s : State) : State :=
  s.offer 0x0010 2 (bytesBE 6 (f * 4096) ++ bytesBE 1 ((framePool s.part f).getD 0) ++ bytesBE 1 row ++ bytesBE 1 node)

/-- A frame leaves its pool's TOTAL and is never given out again. -/
def State.dropFrame (f : Nat) (s : State) : State :=
  { (s.setFrame f FrameRec.retired).countReg (curBase + 0x208) 1 with
    galleryOrder := s.galleryOrder.filter (· != f) }

/-- A retirement under R85 with its record and source (R431, R438). -/
def State.retireFrame (f row : Nat) (node : Byte) (s : State) : State :=
  ((s.dropFrame f).retireRecord f row node.toNat).raiseP 33

/-- A page is poisoned: its entry leaves every map, and each context that maps its home frame is quarantined. -/
def State.poisonPage (h cause addr : Nat) (retired : Bool) (s : State) : State :=
  let l := s.mappers h
  let s1 := ((s.freeCopies h).countReg (curBase + 0x204) 1)
  let s2 := l.foldl (fun (s : State) m => (if retired then s else s.dropShare h).clearPage m.1 m.2) s1
  l.foldl (fun (s : State) m => s.quarantine m.1 cause addr (pageSpace m.2).1 (pageSpace m.2).2) s2

/-- USERS of a title (R77). -/
def State.titleUsers (s : State) (t : Nat) : List CtxNo :=
  s.ctxNos.filter (fun c => (s.ctx c).state != .free && (s.ctx c).title.toNat == t)

/-- A title becomes FAULTED and its users are quarantined (R85 row 4). `i`: the failing frame's place in the list. -/
def State.titleFault (t i addr : Nat) (s : State) : State :=
  let x := s.titleOf (BitVec.ofNat 16 t)
  let users := s.titleUsers t
  let code := decide (i < x.cPages.toNat)
  let s1 := ({ s with titles := Sparse.insert s.titles t { x with state := 2 } }).offer 0x0012 2
    (bytesBE 2 t ++ bytesBE 6 addr ++ bytesBE 3 users.length)
  users.foldl (fun (s : State) c =>
    s.quarantine c causeTitleFaulted addr (if code then 5 else 6) (if code then i else i - x.cPages.toNat)) s1

/-- A ready title that lists a frame: its number and the place in its list. -/
def State.titleListing (s : State) (h : Nat) : Option (Nat × Nat) := (s.titleOfFrame h).map (fun e => (e.1, e.2.1))

/-- A Vault frame is lost: it is retired and its page poisoned (R85 row 4). -/
def State.loseFrame (h row cause : Nat) (node : Byte) (s : State) : State :=
  match s.titleListing h with
  | some (t, i) => ((s.freeCopies h).retireFrame h row node).titleFault t i (h * 4096)
  | none =>
    let m := s.mappers h
    let s1 := s.retireFrame h row node
    if m.isEmpty then s1.freeCopies h |>.putFrame h FrameRec.retired
    else (s1.poisonPage h cause (h * 4096) true).putFrame h FrameRec.retired

/-- Every map and title list that names home frame `h` names `g` instead; the copies are copies of `g`, and clean; page-ins of
`h` go on as page-ins of `g`. -/
def State.renameHome (h g : Nat) (s : State) : State :=
  let ms := s.mappers h
  let s1 : State := { s with
    titles := s.titles.map (fun e =>
      (e.1, { e.2 with frames := e.2.frames.map (fun f => if f.toNat = h then BitVec.ofNat 25 g else f) }))
    pageReqs := s.pageReqs.map (fun r => if r.home = h then { r with home := g } else r) }
  let s2 := ([0, 1] : List Nat).foldl (fun (s : State) d =>
    let z := match s.copyOn d h with | some f => s.modFrame f (fun r => { r with home := some g }) | none => s
    match s.flightOn d h with | some f => z.modFrame f (fun r => { r with home := some g }) | none => z) s1
  ms.foldl (fun (s : State) m =>
    (s.modCtx m.1 (fun x => x.setPage m.2 { x.page m.2 with home := BitVec.ofNat 25 g, dirty := false })).setRoot m.1) s2

/-- The home frame's contents move to a new home frame and the old one is retired (R85 rows 3 and 5); the new frame is taken as a
first touch's is, both reserves included. With no frame in any source the page is poisoned. Where no session that maps the frame
is admitted, pool CUR_ALLOC.SUSP_DIE comes first (log entry 63). -/
def State.relocate (h row : Nat) (node : Byte) (s : State) : State :=
  let r := s.frame h
  let die := (((s.mappers h).filterMap (fun m => s.ctxDie m.1)).head?).getD (b2n ((s.regN curBase).testBit 0))
  match s.takeHome (some die) true with
  | none => s.loseFrame h row causeFrameExhausted node
  | some (g, s1) =>
    let src := match s1.copyOn 0 h, s1.copyOn 1 h with
      | some f, _ => if s1.current h = h then f else s1.current h
      | none, some f => if s1.current h = h then f else s1.current h
      | none, none => s1.current h
    let s2 := (s1.copyFrame src g).setFrame g { r with copy := none }
    (s2.renameHome h g).retireFrame h row node

/-- The maps that name Gallery frame `f` of a die name another one, or none. -/
def State.renameCopy (die f : Nat) (g : Option Nat) (s : State) : State :=
  s.ctxNos.foldl (fun (s : State) c =>
    if s.namesCopy die f c then
      s.modCtx c (fun x => { x with pages := x.pages.map (fun e =>
        (e.1, if e.2.gcopy && galleryFrame die e.2.gframe.toNat == f then
          (match g with
          | some k => { e.2 with gframe := BitVec.ofNat 16 (k - galleryFrame die 0) }
          | none => { e.2 with gcopy := false, dirty := false, gframe := 0 }) else e.2)) })
    else s) s

/-- A Gallery copy moves to another Gallery frame, whose contents `src` gives (R85 rows 1 and 6); with none to take, its
page is paged in again when it is next reached. -/
def State.moveCopy (die f h src row : Nat) (node : Byte) (s : State) : State :=
  let dirty := decide (s.current h = f)
  let s0 := s.retireFrame f row node
  match s0.takeGallery die false (FrameRec.copyOf h) with
  | some (g, s1) =>
    let s2 := ((s1.copyFrame src g).renameCopy die f (some g)).touchGallery g
    if dirty then s2.modFrame h (fun r => { r with copy := some (die == 1, BitVec.ofNat 16 (g - galleryFrame die 0)) })
    else s2
  | none =>
    if dirty then ((s0.copyFrame f h).modFrame h (fun r => { r with copy := none })).renameCopy die f none
    else s0.renameCopy die f none

/-- The die of a Raster Gallery frame. -/
def galleryDie (p : Part) (f : Nat) : Option Nat :=
  match framePool p f with | some 2 => some 0 | some 3 => some 1 | _ => none

/-- A word of a frame holds inverted parity: every read of it is persistent (R391). -/
def State.frameBad (s : State) (f : Nat) : Bool := s.bad.any (fun e => e.2 && e.1 / 2048 == f)

/-- The same among `n` words from an offset of the frame. -/
def State.badIn (s : State) (f off n : Nat) : Bool :=
  s.bad.any (fun e => e.2 && decide (f * 2048 + off ≤ e.1 ∧ e.1 < f * 2048 + off + n))

/-- A persistent read of a Vault frame (R85 rows 3 and 4). -/
def State.failVault (f : Nat) (node : Byte) (s : State) : State :=
  if (s.copyOn 0 f).isSome || (s.copyOn 1 f).isSome then s.relocate f 3 node else s.loseFrame f 4 causePoisonRead node

/-- A persistent read of a frame (R85 rows 1 to 4). The home frame that a clean copy is paged in from again may fail in its turn. -/
def State.failRead (f : Nat) (node : Byte) (s : State) : State :=
  match framePool s.part f with
  | none => s
  | some k =>
    if (s.frame f).pool = 3 then s
    else if k < 2 then s.failVault f node
    else match galleryDie s.part f, (s.frame f).home with
      | some d, some h =>
        if s.current h = f then (s.retireFrame f 2 node |>.renameCopy d f none).poisonPage h causePoisonRead (f * 4096) false
        else if s.frameBad h then (s.retireFrame f 1 node |>.renameCopy d f none).failVault h node
        else s.moveCopy d f h (s.current h) 1 node
      | _, _ => s.retireFrame f 1 node

/-- A persistent write to a frame (R85 rows 5 and 6). -/
def State.failWrite (f : Nat) (node : Byte) (s : State) : State :=
  match framePool s.part f with
  | none => s
  | some k =>
    if (s.frame f).pool = 3 then s
    else if k < 2 then
      if (s.mappers f).isEmpty && (s.titleListing f).isNone then s.retireFrame f 5 node else s.relocate f 5 node
    else match galleryDie s.part f, (s.frame f).home with
      | some d, some h => s.moveCopy d f h f 6 node
      | _, _ => s.retireFrame f 6 node

/-! ### Reads by a session's units (R66, R73, R86) -/

/-- The Curator half that reads for a session (log entry 63). -/
def State.curatorNode (s : State) (c : CtxNo) : Byte := BitVec.ofNat 8 (0x40 * (s.ctxDie c).getD 0 + 0x30)

/-- A read for a session is persistent: the Curator acts under R85. -/
def State.unitFail (c : CtxNo) (f : Nat) (s : State) : State := s.failRead f (s.curatorNode c)

/-- A page of an admitted session has its Gallery copy, by a page-in of a class where it has none: at once, when its turn has come
(R66 to R68). False: it waits, or the page could not be read. -/
def State.ensureCopyAs (c : CtxNo) (i cls due : Nat) (s : State) : State × Bool :=
  let e := s.page c i
  match s.ctxDie c with
  | some d =>
    let h := e.home.toNat
    if !e.alloc then (s, true)
    else if e.gcopy then (s.touchGallery (galleryFrame d e.gframe.toNat), true)
    else if (s.copyOn d h).isSome || s.servedNow d cls due || (s.nextReq d).any (fun r => r.home == h) then
      if (s.copyOn d h).isNone && s.frameBad (s.current h) then (s.unitFail c (s.current h), false)
      else match s.startPageIn c i cls due with
        | some s1 => (s1.endPageIn c i, true)
        | none => (s, false)
    else (s, false)
  | none => (s, true)

/-- The same for a thread, blitter, DMA cluster or audio engine. -/
def State.ensureCopy (c : CtxNo) (i : Nat) (s : State) : State × Bool := s.ensureCopyAs c i 2 0

end Sys2Proof.Machine
end

