-- ==== Sys2Proof/Machine/Words.lean ====
section
/-! DEFINITION. The read and the write of one word of a page by a session unit (R61, R66, R81, R86), and Exact-mode staging (R74 to
R76). An access that cannot complete leaves the state as it is, or with the session quarantined, and answers so. -/

namespace Sys2Proof.Machine

/-! ### One word of a page -/

/-- What an access that could not complete leaves: the state as it was with its wait counted, or a failure acted on (R64, R70, R85). -/
def State.stuck (c : CtxNo) (s s1 : State) : State := if s1.frames == s.frames then s.waitsHere c else s1

/-- What landings that could not all be made leave: nothing landed, or a failure of the Curator's acted on (R85). -/
def State.backOut (s s1 : State) : State := if s1.frames == s.frames then { s with cnt64 := s1.cnt64 } else s1

/-- `n` words of a page are there to be read by a session unit (R61, R66, R86). False: the access waits, or has failed. -/
def State.pageReady (c : CtxNo) (i off n : Nat) (s : State) : State × Bool :=
  if (s.page c i).alloc then
    match s.ensureCopy c i with
    | (s1, true) =>
      (match s1.pageFrame c i with
        | some f =>
          if s1.badIn f off n then (s1.unitFail c f, false) else (s1, true)
        | none => (s1, true))
    | (s1, false) => (s.stuck c s1, false)
  else (s, true)

/-- A word read by a session unit (R61, R66, R86). None: the access waits. -/
def State.pageRead (c : CtxNo) (i off : Nat) (s : State) : State × Option Word :=
  match s.pageReady c i off 1 with
  | (s1, true) => (s1, some (s1.peek c i off))
  | (s1, false) => (s1, none)

/-- A page is made ready for a write: first touched, copied where it is shared, with its Gallery copy (R61, R66, R81). False: the
write waits, or its page could not be read. -/
def State.pageTouch (c : CtxNo) (i : Nat) (s : State) : State × Bool :=
  match s.firstTouch c i with
  | (s1, false) => (s1, false)
  | (s1, true) =>
    let e := s1.page c i
    let src := s1.current e.home.toNat
    let copies := e.cow && decide (1 < (s1.frame e.home.toNat).shares.toNat)
    if copies && s1.frameBad src then (s1.unitFail c src, false)
    else match s1.copyOnWrite c i with
      | (s2, false) => (s2, false)
      | (s2, true) =>
        match s2.ensureCopy c i with
        | (s3, false) => (s.stuck c s3, false)
        | r => r

/-- A word written by a session unit (R61, R66, R81). -/
def State.pageWrite (c : CtxNo) (i off : Nat) (v : Word) (s : State) : State × Bool :=
  match s.pageTouch c i with
  | (s1, false) => (s1, false)
  | (s1, true) =>
    match s1.pageFrame c i with
    | some f => ((s1.setWord (f * 4096 + 2 * off) v).markDirty c i, true)
    | none => (s1, false)

/-- A page access by the thread of a session stalls: its page has no copy there, or a write must copy it first (R73). -/
def State.stalls (s : State) (c : CtxNo) (i : Nat) (write : Bool) : Bool :=
  let e := s.page c i
  e.alloc && (!e.gcopy || write && e.cow && decide (1 < (s.frame e.home.toNat).shares.toNat))

/-- What a thread's page access leaves: an Exact-mode session has frozen where it stalled, or where the Curator acted on a failure
(R73). -/
def State.thawed (c : CtxNo) (i : Nat) (write done : Bool) (s s1 : State) : State :=
  if (if done then s.stalls c i write else s1.frames != s.frames) then s1.countFreeze c else s1

/-- The word is written on the pages as they are, with no page movement, for a unit whose pages R71 holds. -/
def State.pageWriteD (c : CtxNo) (i off : Nat) (v : Word) (s : State) : State := (s.pageWrite c i off v).1

/-! ### Exact-mode staging (R74, R75) -/

/-- The staging line of a D word and of a title page's word (R74): lines of 64 words. -/
def dLine (a : Nat) : Nat := a / 64
def titleLine (i off : Nat) : Nat := 1024 + 32 * i + off / 64

/-- A staging line of the session. -/
def Session.staged (x : Session) (tag : Nat) : Option StageLine := x.staging.find? (fun e => e.tag == tag)

/-- The word at an offset of a staging line that the thread has written since the line was filled. -/
def Session.stagedWord (x : Session) (tag off : Nat) : Option Word :=
  (x.staged tag).bind (fun e => (e.words.find? (fun w => w.1 == off)).map (·.2))

/-- A staging line becomes the most recent, with a word written where one is given. -/
def Session.stage (tag : Nat) (w : Option (Nat × Word)) (x : Session) : Session :=
  let e := (x.staged tag).getD { tag := tag, words := [] }
  let e1 := match w with
    | some (o, v) => { e with words := e.words.filter (fun z => z.1 != o) ++ [(o, v)] }
    | none => e
  { x with staging := e1 :: x.staging.filter (fun z => z.tag != tag) }

/-- Lines beyond the share leave, the least recently used, the written ones back to their Gallery copies (R75). -/
def State.trimLines (c : CtxNo) (s : State) : State :=
  let n := s.sesD c 0 (fun x => max 1 x.share)
  let out := s.sesD c [] (·.staging.drop n)
  let back := fun (s : State) (e : StageLine) =>
    if e.words.isEmpty then s else (s.ensureCopy c (dPage (64 * e.tag))).1.writeLine c e
  (out.foldl back s).modSes c (fun x => { x with staging := x.staging.take n })

/-- The processor uses a staging line: a miss freezes the session until it is filled (R73, R75). -/
def State.useLine (c : CtxNo) (tag : Nat) (w : Option (Nat × Word)) (s : State) : State :=
  if s.sesD c true (·.fast) then s
  else
    let s1 := if s.sesD c true (fun x => (x.staged tag).isSome) then s else s.countFreeze c
    (s1.modSes c (·.stage tag w)).trimLines c

/-- A line is dropped, what the thread wrote in it first written back (R76). -/
def State.dropLine (c : CtxNo) (tag : Nat) (s : State) : State :=
  match s.sesD c none (·.staged tag) with
  | some e => (s.writeLine c e).modSes c (fun x => { x with staging := x.staging.filter (fun z => z.tag != tag) })
  | none => s

end Sys2Proof.Machine
end

