-- ==== Sys2Proof/Machine/Timing.lean ====
section
/-! DEFINITION. Virtual time (R88 to R92), the timers (R174 to R177) and the sample clock (R250): what passes in a
processor's cycles. -/

namespace Sys2Proof.Machine

/-! ### The beam (R88) -/

def Session.htotal (x : Session) : Nat := x.liveN 0xF000
def Session.hactive (x : Session) : Nat := x.liveN 0xF001
def Session.vtotal (x : Session) : Nat := x.liveN 0xF002
def Session.vactive (x : Session) : Nat := x.liveN 0xF003
def Session.cpl (x : Session) : Nat := x.liveN 0xF004

/-- Virtual cycles in a frame. -/
def Session.frameCycles (x : Session) : Nat := x.vtotal * x.cpl

/-- The line of a virtual cycle of the frame. -/
def Session.lineOf (x : Session) (n : Nat) : Nat := n / x.cpl

/-- The dot of a virtual cycle of the frame. -/
def Session.dotOf (x : Session) (n : Nat) : Nat := n % x.cpl * x.htotal / x.cpl

/-- The frame, line and dot of the last cycle that has passed: an instruction's last cycle, once its count has
passed. -/
def Session.lastPos (x : Session) : Nat × Nat × Nat :=
  if x.vcyc = 0 then (x.frame - 1, x.endPos.1, x.endPos.2)
  else (x.frame, x.lineOf (x.vcyc - 1), x.dotOf (x.vcyc - 1))

/-! ### Timers -/

def TimerSt.en (t : TimerSt) : Bool := wbit t.ctrl 0
def TimerSt.periodic (t : TimerSt) : Bool := wbit t.ctrl 1
def TimerSt.chain (t : TimerSt) : Bool := wbit t.ctrl 2
def TimerSt.start (t : TimerSt) : Nat := field t.ctrl.toNat 3 2
def TimerSt.pre (t : TimerSt) : Nat := 2 ^ field t.ctrl.toNat 5 3
def TimerSt.running (t : TimerSt) : Bool := t.en && !t.armed

/-- A count of 0 stands for 65,536 (R176). -/
def full16 (v : Word) : Nat := if v = 0 then 65536 else v.toNat

/-- `k` steps of R176 and how many of them expire. -/
def TimerSt.steps (k : Nat) (t : TimerSt) : TimerSt × Nat :=
  let c := full16 t.count
  if !t.running then (t, 0)
  else if k < c then ({ t with count := BitVec.ofNat 16 (c - k) }, 0)
  else if t.periodic then
    let r := full16 t.reload
    ({ t with count := BitVec.ofNat 16 (r - (k - c) % r) }, 1 + (k - c) / r)
  else ({ t with count := 0, ctrl := t.ctrl &&& ~~~1#16 }, 1)

/-- `n` cycles of a timer's prescaler: the steps that fall in them. -/
def TimerSt.cycles (n : Nat) (t : TimerSt) : TimerSt × Nat :=
  if t.running then
    let r := t.steps ((t.phase + n) / t.pre)
    ({ r.1 with phase := (t.phase + n) % t.pre }, r.2)
  else (t, 0)

/-- A source raised `m` times (R166). -/
def IntSt.raiseMany (n m : Nat) (i : IntSt) : IntSt :=
  if m = 0 then i else if m = 1 then i.raise n else (i.raise n).raise n

/-- `n` cycles of both timers, none of which starts inside them. A chained Timer1 steps as Timer0 expires (R175). -/
def IntSt.timerCycles (n : Nat) (i : IntSt) : IntSt :=
  let r0 := i.t0.cycles n
  let r1 := if i.t1.chain then i.t1.steps r0.2 else i.t1.cycles n
  (({ i with t0 := r0.1, t1 := r1.1 }).raiseMany 11 r0.2).raiseMany 12 r1.2

/-- A write of a timer's control word (R175, R177). `keeper`: START acts as 0b00 (R349). -/
def TimerSt.write (keeper : Bool) (second : Bool) (v : Word) (t : TimerSt) : TimerSt :=
  let v1 := v &&& (if second then 0xFF#16 else 0xFB#16)
  let st := field v.toNat 3 2
  if wbit v 0 then { t with ctrl := v1, phase := 0, armed := !keeper && (st == 1 || st == 2) }
  else { t with ctrl := v1, armed := false }

/-- A timer that waits for a line or a frame starts at its start cycle (R175). -/
def TimerSt.startAt (lineStart frameStart : Bool) (t : TimerSt) : TimerSt :=
  if t.armed && (t.start == 1 && lineStart || t.start == 2 && frameStart) then { t with armed := false } else t

/-! ### The sample clock (R250) -/

/-- The cycles, counted from `now`, in which samples fall during `n` cycles. -/
def sampleCycles (acc vclk now n : Nat) : List Nat :=
  if vclk = 0 then []
  else (List.range ((acc + 48000 * n) / vclk)).map (fun j => now + max 1 (((j + 1) * vclk - acc + 47999) / 48000) - 1)

/-- `n` cycles of the sample clock. -/
def Sound.cycles (vclk now n : Nat) (d : Sound) : Sound :=
  if vclk = 0 then d
  else { d with acc := (d.acc + 48000 * n) % vclk, due := d.due ++ sampleCycles d.acc vclk now n }

/-! ### A session's virtual time -/

/-- A 32-bit counter in two I/O words raised, saturating (after R142). -/
def Session.count32 (a n : Nat) (x : Session) : Session :=
  let v := min 0xFFFFFFFF (x.ioN a + 65536 * x.ioN (a + 1) + n)
  (x.setIo a (v % 65536)).setIo (a + 1) (v / 65536)

/-- The frame that follows has begun: accepted timing values become live (R210 step 3). -/
def Session.newFrame (x : Session) : Session :=
  let y := match x.nextTiming with
    | some l =>
      { (l.zipIdx.foldl (fun (z : Session) (e : Word × Nat) => z.setLive (0xF000 + e.2) e.1.toNat) x) with
        nextTiming := none }
    | none => x
  { y with vcyc := 0, frame := x.frame + 1, endPos := (x.lineOf (x.vcyc - 1), x.dotOf (x.vcyc - 1)), lineRaised := false,
           vblankDone := false, lineSkip := false,
           past := { f := x.frame, start := x.cpu.now - x.vcyc,
                     timing := (List.range 5).map (fun i => BitVec.ofNat 16 (x.liveN (0xF000 + i))) } :: x.past }

/-- Every cycle of the frame has passed: the next begins. -/
def Session.turnFrame (x : Session) : Session := if x.frameCycles ≤ x.vcyc then x.newFrame else x

/-- The cycles among the next `k` of a frame in which lines start. -/
def Session.lineStarts (k : Nat) (x : Session) : List Nat :=
  let first := (x.vcyc + x.cpl - 1) / x.cpl
  (List.range ((x.vcyc + k + x.cpl - 1) / x.cpl - first)).map (fun i => x.cpu.now + ((first + i) * x.cpl - x.vcyc))

/-- A streaming channel notes the triggers that pass (R285). -/
def DmaCh.note (lines samples : List Nat) (d : DmaCh) : DmaCh :=
  if d.phase = .run ∧ field d.ctrl.toNat 3 2 = 1 then { d with trigs := d.trigs ++ lines }
  else if d.phase = .run ∧ field d.ctrl.toNat 3 2 = 3 then { d with trigs := d.trigs ++ samples }
  else d

/-- Timers that wait for the line or frame that begins now start. -/
def Session.startTimers (x : Session) : Session :=
  let l := x.vcyc % x.cpl == 0
  let f := x.vcyc == 0
  { x with int := { x.int with t0 := x.int.t0.startAt l f, t1 := x.int.t1.startAt l f } }

/-- The sources the boundary just crossed raises are raised (R211). -/
def Session.raiseBoundary (x : Session) : Session :=
  { x with int := (List.range 16).foldl (fun (i : IntSt) n => if wbit x.raiseNext n then i.raise n else i) x.int, raiseNext := 0 }

/-- `k` cycles of a session that no line start divides while a timer waits for one, and no frame start. -/
def Session.cyclesIn (vclk k : Nat) (x0 : Session) : Session :=
  let x := x0.raiseBoundary.startTimers
  let y := { x with int := x.int.timerCycles k, snd := x.snd.cycles vclk x.cpu.now k,
                    dma := x.dma.map (DmaCh.note (x.lineStarts k) (sampleCycles x.snd.acc vclk x.cpu.now k)),
                    cpu := { x.cpu with now := x.cpu.now + k }, vcyc := x.vcyc + k }
  y.count32 0xFE32 k

/-- `k` virtual cycles of a context's session pass. -/
def State.sesCycles (c : CtxNo) (k : Nat) (s : State) : State := s.modSes c (fun x => x.cyclesIn (s.ctx c).vclk.toNat k)

/-- `n` cycles of a Keeper pass (R348, R349). -/
def State.keeperCycles (k : Fin 4) (n : Nat) (s : State) : State :=
  s.modKeeper k (fun x => { x with int := x.int.timerCycles n, cpu := { x.cpu with now := x.cpu.now + n } })

/-! ### Bands (R91, R92) -/

/-- The band height of the slot of a context. -/
def State.ctxBandH (s : State) (c : CtxNo) : Nat := s.bandH ((s.heldSlot c).getD 0)

/-- Band periods of a frame. -/
def bandCount (vtotal h : Nat) : Nat := (vtotal + h - 1) / h

/-- The band period virtual time stands in. -/
def State.bandNow (s : State) (c : CtxNo) : Nat :=
  s.sesD c 0 (fun x => x.lineOf x.vcyc / s.ctxBandH c)

/-- An Exact-mode session stands still while a page-in that one of its threads or units waits for is under way (R73); a page-in
for its line engine or ahead of its beam does not hold it (R71, R72). -/
def State.frozen (s : State) (c : CtxNo) : Bool :=
  s.sesD c false (fun x => !x.fast) && s.pageReqs.any (fun r => r.freezes.contains c)

/-- The context is in RUNNING, or its slot is held and its virtual time has not stopped yet (R43, R320). -/
def State.admitted (s : State) (c : CtxNo) : Bool :=
  match (s.ctx c).state with
  | .running | .suspending | .retiring =>
    match s.heldSlot c with
    | some k => !(s.slot k).stopped
    | none => false
  | _ => false

/-- The band time of a frame period (R92). -/
def bandTime (h period vtotal : Nat) : Nat := h * period / vtotal

end Sys2Proof.Machine
end

