-- ==== Sys2Proof/Machine/Schedule.lean ====
section
/-! DEFINITION. A slot's release schedule (R92 to R94, R102, R104, R110, R269): the start and period of each frame, the
release instant of each band, the wall image of a virtual cycle, and when virtual time may move (R73, R94). Instants are counts of 2^-16 ns. -/

namespace Sys2Proof.Machine

/-- The PERIOD a schedule block holds (R108). -/
def State.periodReg (s : State) (k : Nat) : Nat := s.regN (schAddr k 0x11) + 2 ^ 32 * s.regN (schAddr k 0x14)

/-- The EPOCH a schedule block holds. -/
def State.epochReg (s : State) (k : Nat) : Nat :=
  (s.regN (schAddr k 0) + 2 ^ 32 * s.regN (schAddr k 4)) * unitsPerSec + s.regN (schAddr k 8) * 65536
    + s.regN (schAddr k 0xC)

/-- The band time of a fixed frame. -/
def FrameSched.tb (h vtotal : Nat) (e : FrameSched) : Nat := bandTime h e.period vtotal

/-- R(f, k) of a fixed frame (R92). -/
def FrameSched.release (h vtotal k : Nat) (e : FrameSched) : Nat :=
  e.s + min ((k + 1) * h) vtotal * e.period / vtotal + (e.shifts.filter (· ≤ k)).length * e.tb h vtotal

/-- The wall image of virtual cycle `n` of a fixed frame (R269). -/
def FrameSched.image (h vtotal cpl n : Nat) (e : FrameSched) : Nat :=
  e.s + n * e.period / (vtotal * cpl) + (e.shifts.filter (· ≤ n / cpl / h)).length * e.tb h vtotal

/-- The last fixed frame of a slot. -/
def SlotSt.lastSched (x : SlotSt) : Option FrameSched := x.sched.getLast?

/-- The pending phase adjustment, limited to half of Tb (R110), and whether it had to be. -/
def limitPhase (adj : Reg32) (tb : Nat) : Int × Bool :=
  let v := clampInt (-(tb / 2 : Nat)) (tb / 2 : Nat) adj.toInt
  (v, decide (v ≠ adj.toInt))

/-- The next frame's start and period are fixed (R92, R104): a pending PERIOD and phase adjustment are taken. -/
def State.fixNext (k h vtotal : Nat) (s : State) : State :=
  let x := s.slot k
  match x.lastSched with
  | none => s
  | some e =>
    let adj := match x.phasePend with | some a => limitPhase a (e.tb h vtotal) | none => (0, false)
    let p := x.periodPend.getD x.period
    let start := ((e.s + e.period + e.shifts.length * e.tb h vtotal : Nat) : Int) + adj.1
    let s1 := s.setSlot k { x with sched := x.sched ++ [{ f := e.f + 1, s := start.toNat, period := p, shifts := [] }],
                                   period := p, periodPend := none, phasePend := none }
    let s2 := if x.phasePend.isSome then s1.setReg (schAddr k 0x1C) 0 else s1
    if adj.2 then s2.setRegField (schAddr k 0x28) 24 1 1 else s2

/-- Frames are fixed up to frame `f`. -/
def State.fixTo (k h vtotal f : Nat) : Nat → State → State
  | 0, s => s
  | fuel + 1, s =>
    match (s.slot k).lastSched with
    | some e => if e.f < f then State.fixTo k h vtotal f fuel (s.fixNext k h vtotal) else s
    | none => s

/-- The schedule of a frame: fixed, or whole periods before the first fixed frame (R92). -/
def SlotSt.schedOf (x : SlotSt) (f : Nat) : FrameSched :=
  match x.sched.find? (fun e => e.f == f) with
  | some e => e
  | none =>
    match x.sched.head? with
    | some e => { f := f, s := e.s - (e.f - f) * e.period, period := e.period, shifts := [] }
    | none => { f := f, s := 0, period := x.period, shifts := [] }

/-- One of the five timing values of a frame: an ended frame's own, the live ones of the present frame, and of a later frame
those accepted for it (R210). -/
def Session.timingOf (x : Session) (f i : Nat) : Nat :=
  if f < x.frame then
    match x.past.find? (fun e => e.f == f) with
    | some e => (e.timing.getD i 0).toNat
    | none => x.liveN (0xF000 + i)
  else if f = x.frame then x.liveN (0xF000 + i)
  else match x.nextTiming with
    | some l => (l.getD i 0).toNat
    | none => x.liveN (0xF000 + i)

/-- VTOTAL of a frame of a session. -/
def State.vtotalOf (s : State) (c : CtxNo) (f : Nat) : Nat := s.sesD c 1 (fun x => max 1 (x.timingOf f 2))

/-- A band's release instant, its frame fixed where it was not. -/
def State.releaseOf (c : CtxNo) (f k : Nat) (s : State) : State × Nat :=
  match s.heldSlot c with
  | some n =>
    let s1 := s.fixTo n (s.bandH n) (s.vtotalOf c f) f (f + 1)
    (s1, ((s1.slot n).schedOf f).release (s1.bandH n) (s1.vtotalOf c f) k)
  | none => (s, 0)

/-- The band time of a frame on a slot. -/
def State.tbOf (s : State) (c : CtxNo) (n f : Nat) : Nat := ((s.slot n).schedOf f).tb (s.bandH n) (s.vtotalOf c f)

/-- GUARD in units (R93, R109): 0 and 1 act as 2. -/
def State.guardOf (s : State) (n : Nat) : Nat := max 2 (field (s.slot n).ctrlEff.toNat 8 8) * 65536000

/-- The SLIP policy in force (R102): 0 REPEAT, 1 STRETCH, 2 MARK. -/
def State.slipPolicy (s : State) (n : Nat) : Nat := min 2 (field (s.slot n).ctrlEff.toNat 2 2)

/-- An audio packet whose last sample falls in a band period or later moves with it (R269). -/
def AudioDesc.stretch (f k tb : Nat) (d : AudioDesc) : AudioDesc :=
  if f < d.frame ∨ f = d.frame ∧ k ≤ d.band then { d with rel := d.rel + tb } else d

/-- A STRETCH shift at a band period (R102, R269): every later release instant and frame start moves by Tb, and every audio packet whose
last sample falls in it or later. -/
def State.stretch (n f k tb : Nat) (s : State) : State :=
  s.modSlot n (fun x => { x with
    sched := x.sched.map (fun e =>
      if e.f = f then { e with shifts := e.shifts ++ [k] } else if f < e.f then { e with s := e.s + tb } else e)
    audioQ := x.audioQ.map (AudioDesc.stretch f k tb), audioWait := x.audioWait.map (AudioDesc.stretch f k tb) })

/-- The band period after another, with the frame's band count. -/
def nextBand (count f k : Nat) : Nat × Nat := if k + 1 < count then (f, k + 1) else (f + 1, 0)

/-- The band periods of a session's frames on its slot. -/
def State.bandsOf (s : State) (c : CtxNo) (f : Nat) : Nat :=
  bandCount (s.vtotalOf c f) (s.ctxBandH c)

/-- A band period holds an active line (R91). -/
def State.bandActive (s : State) (c : CtxNo) (f k : Nat) : Bool :=
  s.sesD c false (fun x => decide (k * s.ctxBandH c < x.timingOf f 3))

/-- The first band at or after a band period that carries an active line. -/
def State.nextActive (s : State) (c : CtxNo) (f k : Nat) : Nat × Nat :=
  if s.bandActive c f k then (f, k) else (f + 1, 0)

/-- The release instant of a band of a frame whose start stands, and its band time. -/
def State.releaseNow (s : State) (c : CtxNo) (n f k : Nat) : Nat :=
  ((s.slot n).schedOf f).release (s.bandH n) (s.vtotalOf c f) k

/-! ### When virtual time may move (R73, R94) -/

/-- A band period of a frame whose start is fixed is at or before the horizon now (R94): a STRETCH shift, a change of LEAD_NOW
or a step of the time of day may have put it back outside (R338). -/
def State.horizonHolds (s : State) (c : CtxNo) (n f k : Nat) : Bool :=
  !(s.slot n).sched.any (fun e => e.f == f)
    || decide (s.releaseNow c n f k ≤ s.clock.time + (s.slot n).leadNow * s.tbOf c n f)

/-- Virtual time stands in a band period that has entered the horizon (R94); otherwise the session is parked. -/
def State.inHorizon (s : State) (c : CtxNo) : Bool :=
  let n := (s.heldSlot c).getD 0
  let k := s.slot n
  s.sesD c false (fun x => decide (x.frame < k.horizonF ∨ x.frame = k.horizonF ∧ s.bandNow c < k.horizonK)
    && s.horizonHolds c n x.frame (s.bandNow c))

/-- A session whose virtual time may move: admitted, not parked, not frozen. -/
def State.live (s : State) (c : CtxNo) : Bool := s.admitted c && s.inHorizon c && !s.frozen c

/-- A session whose program executes now: it has not halted and does not wait (R142, R160). -/
def State.programs (s : State) (c : CtxNo) : Bool := s.live c && s.sesD c false (fun x => !x.cpu.halted && !x.cpu.waiting)

end Sys2Proof.Machine
end

