-- ==== Sys2Proof/Machine/Video.lean ====
section
/-! DEFINITION. Display registers and the palette by beam position (R198 to R202, R209, R222), and V-space and S-space
words with their journals (R203, R204, R251). -/

namespace Sys2Proof.Machine

/-- The registers that are shadowed (R209, R235). -/
def shadowed (a : Nat) : Bool :=
  decide (0xF000 ≤ a ∧ a ≤ 0xF004 ∨ 0xF600 ≤ a ∧ a ≤ 0xF60C ∨ 0xF630 ≤ a ∧ a ≤ 0xF632)

/-- The composition registers that are shadowed. -/
def shadowedComp : List Nat :=
  (List.range 13).map (0xF600 + ·) ++ [0xF630, 0xF631, 0xF632]

/-- A live word beside the registers: 1 where the scaling pair was refused at the vertical blank (R225). -/
def scaleWord : Nat := 0x1F630

/-- Palette entries of the profile (R31). -/
def Session.palSize (x : Session) : Nat := if x.grand then 2048 else 512

def Session.palEntry (x : Session) (i : Nat) : BitVec 24 := Sparse.get 0 x.pal (i % x.palSize)

/-- One beam position after another (Beam positions). -/
def posLt (f l d f' l' d' : Nat) : Bool :=
  decide (f < f' ∨ f = f' ∧ (l < l' ∨ l = l' ∧ d < d'))

/-- A line program's entry at the same position for the same word. -/
def BeamUndo.sameAs (e n : BeamUndo) : Bool :=
  e.frame == n.frame && e.line == n.line && e.dot == n.dot && e.kind == n.kind && e.addr == n.addr && e.lpg

/-- A program's store goes beneath the line program's entries of its position (R200): the last of the list that is one
takes the store's value as its old value. Answers none where there is none. -/
def undoBeneath (n : BeamUndo) (v : BitVec 24) : List BeamUndo → Option (List BeamUndo)
  | [] => none
  | e :: l =>
    match undoBeneath n v l with
    | some l' => some (e :: l')
    | none => if e.sameAs n then some ({ e with old := v } :: { n with old := e.old } :: l) else none

/-- The value a word of a kind holds now. -/
def Session.nowAt (x : Session) (k : UndoKind) (a : Nat) : BitVec 24 :=
  match k with
  | .io => (x.ioW a).setWidth 24
  | .live => BitVec.ofNat 24 (x.liveN a)
  | .palette => Sparse.get 0 x.pal a

def Session.putNow (k : UndoKind) (a : Nat) (v : BitVec 24) (x : Session) : Session :=
  match k with
  | .io => x.setIo a v.toNat
  | .live => x.setLive a v.toNat
  | .palette => { x with pal := Sparse.set 0 x.pal a v }

/-- A display word changes at a beam position (R199, R200). -/
def Session.land (lpg : Bool) (pos : Nat × Nat × Nat) (k : UndoKind) (a : Nat) (v : BitVec 24) (x : Session) : Session :=
  let n : BeamUndo := { frame := pos.1, line := pos.2.1, dot := pos.2.2, kind := k, addr := a, old := x.nowAt k a,
                        lpg := lpg }
  match (if lpg then none else undoBeneath n v x.undo) with
  | some l => { x with undo := l }
  | none => { x.putNow k a v with undo := n :: x.undo }

/-- The value of a display word at a beam position: every event after the position undone (R199). -/
def Session.valueAt (x : Session) (k : UndoKind) (a f l d : Nat) : Nat :=
  (x.undo.foldl (fun (v : BitVec 24) e =>
    if e.kind = k ∧ e.addr = a ∧ posLt f l d e.frame e.line e.dot then e.old else v) (x.nowAt k a)).toNat

/-- A display register at a position: the live value of a shadowed one. -/
def Session.regAt (x : Session) (a f l d : Nat) : Nat :=
  x.valueAt (if shadowed a then .live else .io) a f l d

/-- A palette entry at a position. -/
def Session.palAt (x : Session) (i f l d : Nat) : BitVec 24 :=
  BitVec.ofNat 24 (x.valueAt .palette (i % x.palSize) f l d)

/-- The session cycle, counted from CREATE, in which a line of a frame starts: its fetch instant (R203). -/
def Session.fetchCycle (x : Session) (f l : Nat) : Nat :=
  if f < x.frame then
    match x.past.find? (fun e => e.f == f) with
    | some e => e.start + l * x.timingOf f 4
    | none => l * x.timingOf f 4
  else x.cpu.now - x.vcyc + (if f = x.frame then 0 else x.frameCycles + (f - x.frame - 1) * (x.timingOf f 2 * x.timingOf f 4))
    + l * x.timingOf f 4

/-- The value of a V word at a line's fetch instant: writes that landed at or after it undone (R203, R204). -/
def Session.vOld (x : Session) (bank a fetch : Nat) (now : Word) : Word :=
  x.vjournal.foldl (fun v e => if e.bank = bank ∧ e.addr = a ∧ fetch ≤ e.cycle then e.old else v) now

/-- The value of an S word at a sample's cycle (R251). -/
def Session.sOld (x : Session) (half a cycle : Nat) (now : Word) : Word :=
  x.sjournal.foldl (fun v e => if e.bank = half ∧ e.addr = a ∧ cycle < e.cycle then e.old else v) now

/-- A journal entry put in the order of landing, the latest first. -/
def journalInsert (e : JournalEntry) : List JournalEntry → List JournalEntry
  | [] => [e]
  | d :: l => if d.cycle ≤ e.cycle then e :: d :: l else d :: journalInsert e l

/-- The V bank an access reaches: only bank 0 in Classic (R178). -/
def Session.bankOf (x : Session) (b : Nat) : Nat := if x.grand then b % 4 else 0

/-- The S half an access reaches. -/
def Session.halfOf (x : Session) (b : Nat) : Nat := if x.grand then b % 2 else 0

/-- S addresses are taken modulo the profile's S space by the sound unit and DMA (R253, R276). -/
def Session.sWrap (x : Session) (a : Nat) : Nat := if x.grand then a % 65536 else a % 32768

/-- A V word read by a session unit now. -/
def State.vRead (c : CtxNo) (bank a : Nat) (s : State) : State × Option Word :=
  s.pageRead c (vPage bank (a % 65536)) (a % 2048)

/-- The fetch instant of the first line that still has V words to read as they stood: the next line to render, or the
sequencer's (R203, R204). -/
def Session.oldestFetch (f l : Nat) (x : Session) : Nat :=
  if x.lpg.running then min (x.fetchCycle f l) (x.fetchCycle (x.lpg.frame - 1) x.lpg.line) else x.fetchCycle f l

/-- Journal entries that no line needs any more are released (R204). -/
def Session.pruneJournal (f l : Nat) (x : Session) : Session :=
  { x with vjournal := x.vjournal.filter (fun e => decide (x.oldestFetch f l ≤ e.cycle)) }

/-- A V-space write at a landing cycle; a line not yet rendered, and the line program of a line, keep the old value in the
journal (R204). A full journal makes the write wait. -/
def State.vWrite (c : CtxNo) (bank a : Nat) (v : Word) (landing : Nat) (s0 : State) : State × Bool :=
  let k := (s0.heldSlot c).getD 0
  let f := (s0.slot k).renderFrame
  let l := (s0.slot k).rendered
  let full := fun (s : State) => s.sesD c false (fun x => decide (4096 ≤ x.vjournal.length))
  let s := if full s0 then s0.modSes c (·.pruneJournal f l) else s0
  let need := s.sesD c false (fun x => decide (x.oldestFetch f l ≤ landing))
  if need && full s then (s, false)
  else
    let old := s.peek c (vPage bank (a % 65536)) (a % 2048)
    match s.pageWrite c (vPage bank (a % 65536)) (a % 2048) v with
    | (s1, false) => (s1, false)
    | (s1, true) =>
      (if need then s1.modSes c (fun x =>
        { x with vjournal := journalInsert { bank := bank, addr := a % 65536, old := old, cycle := landing } x.vjournal })
       else s1, true)

/-- An S word read by a session unit now. -/
def State.sRead (c : CtxNo) (half a : Nat) (s : State) : State × Option Word :=
  s.pageRead c (sPage half (a % 65536)) (a % 2048)

/-- A value put under the journal entries of its word that landed later: the earliest of them takes it as its old value, and
answers its own; none where nothing landed later (R251). -/
def journalBeneath (h a landing : Nat) (v : Word) : List JournalEntry → Option (List JournalEntry × Word)
  | [] => none
  | e :: l =>
    match journalBeneath h a landing v l with
    | some (l', w) => some (e :: l', w)
    | none => if e.bank = h ∧ e.addr = a ∧ landing < e.cycle then some ({ e with old := v } :: l, e.old) else none

/-- An S-space write at a landing cycle, journalled for a sample not yet mixed; one that lands beneath a later write of its word
does not replace it (R251). -/
def State.sWrite (c : CtxNo) (half a : Nat) (v : Word) (landing : Nat) (s : State) : State × Bool :=
  let need := s.sesD c false (fun x => x.snd.due.any (fun d => decide (d < landing)))
  let entry := fun (old : Word) (x : Session) =>
    { x with sjournal := journalInsert { bank := half, addr := a % 65536, old := old, cycle := landing } x.sjournal }
  if need && s.sesD c false (fun x => decide (1024 ≤ x.sjournal.length)) then (s, false)
  else
    match s.sesD c none (fun x => journalBeneath half (a % 65536) landing v x.sjournal) with
    | some (l, old) =>
      let s1 := s.modSes c (fun x => { x with sjournal := l })
      (if need then s1.modSes c (entry old) else s1, true)
    | none =>
      let old := s.peek c (sPage half (a % 65536)) (a % 2048)
      match s.pageWrite c (sPage half (a % 65536)) (a % 2048) v with
      | (s1, false) => (s1, false)
      | (s1, true) => (if need then s1.modSes c (entry old) else s1, true)

/-- A palette entry is written at a position from its two words (R182, R222). -/
def Session.writePalette (lpg : Bool) (pos : Nat × Nat × Nat) (i : Nat) (w0 w1 : Word) (x : Session) : Session :=
  x.land lpg pos .palette (i % x.palSize) (BitVec.ofNat 24 (w0.toNat % 256 * 65536 + w1.toNat))

/-- The two words of a palette entry (R182). -/
def Session.palWord0 (x : Session) (i : Nat) : Word := BitVec.ofNat 16 ((x.palEntry i).toNat / 65536)
def Session.palWord1 (x : Session) (i : Nat) : Word := BitVec.ofNat 16 (x.palEntry i).toNat

end Sys2Proof.Machine
end

