-- ==== Sys2Proof/Machine/LineProgram.lean ====
section
/-! DEFINITION. Stores to the display registers at a beam position (R199, R209 to R211, R222) and the line-program
sequencer (R212 to R215). -/

namespace Sys2Proof.Machine

/-- A store to a word of D:0xF000 to D:0xF7FF at a beam position, by the program or by a WREG (R214). -/
def Session.videoStore (lpg : Bool) (pos : Nat × Nat × Nat) (a : Nat) (v : Word) (x : Session) : Session :=
  let d := ioDesc x.grand a
  if a = 0xF008 then (if wbit v 0 then x.setIo 0xF009 (x.ioN 0xF009 ||| 0x100) else x)
  else if a = 0xF643 then
    let i := x.ioN 0xF640
    let y := (x.writePalette lpg pos i (x.ioW 0xF642) v).land lpg pos .io 0xF643 (v.setWidth 24)
    y.land lpg pos .io 0xF640 (BitVec.ofNat 24 ((i % x.palSize + 1) % x.palSize))
  else if a = 0xF404 then { x with sprClears := x.sprClears ++ [(pos.1, pos.2.1, v)] }
  else if d.w1c ≠ 0 then x.setIo a (softWrite d (x.ioN a) v.toNat)
  else if d.rw = 0 then x
  else
    let y := x.land lpg pos .io a (BitVec.ofNat 24 (softWrite d (x.ioN a) v.toNat))
    if a = 0xF018 ∨ a = 0xF019 then
      { y with lineSkip := pos.1 == y.frame && posLt pos.1 (y.ioN 0xF018) (y.ioN 0xF019) pos.1 pos.2.1 pos.2.2
               lineFrom := if lpg then y.cpu.now - 1 else y.cpu.now }
    else if a = 0xF500 ∧ !wbit v 0 then { y with lpg := { y.lpg with running := false } }
    else y

/-- How far the sequencer is to have run: the entries before the position of the last cycle that passed, those at it too, or
every entry before the position of the next cycle. -/
inductive Reach where
  | beforeLast | last | beforeNext
  deriving DecidableEq, Repr

/-- A position of a frame lies within that reach. -/
def Session.reached (m : Reach) (f l d : Nat) (x : Session) : Bool :=
  let p := x.lastPos
  match m with
  | .beforeLast => posLt f l d p.1 p.2.1 p.2.2
  | .last => !posLt p.1 p.2.1 p.2.2 f l d
  | .beforeNext => posLt f l d x.frame (x.lineOf x.vcyc) (x.dotOf x.vcyc)

/-- The frame start that the sequencer takes next, once for each frame (R212). One still running has overrun. -/
def Session.lpgFrameStart (x : Session) : Session :=
  let f := x.lpg.frame
  let y := if x.lpg.running then x.orIo 0xF504 4 else x
  let ctrl := x.valueAt .io 0xF500 f 0 0
  { y with lpg :=
    if ctrl.testBit 0 then
      { running := true, bank := x.bankOf (field ctrl 1 2),
        pc := BitVec.ofNat 16 (x.valueAt .io 0xF501 f 0 0), lc := 0, frame := f + 1, line := 0, dot := 0 }
    else { y.lpg with running := false, frame := f + 1 } }

/-- That frame start has been reached. -/
def Session.lpgStartDue (m : Reach) (x : Session) : Bool := decide (x.lpg.frame ≤ x.frame) && x.reached m x.lpg.frame 0 0

/-- The frame the sequencer runs in. -/
def Session.lpgFrame (x : Session) : Nat := x.lpg.frame - 1

/-- The sequencer's entry is due: the beam has reached its position, or passed it. -/
def Session.lpgDue (m : Reach) (x : Session) : Bool :=
  x.lpg.running && x.reached m x.lpgFrame x.lpg.line x.lpg.dot && decide (x.lpg.line < x.timingOf x.lpgFrame 2)

/-- The position after one dot (R212). -/
def Session.lpgNext (x : Session) : Nat × Nat :=
  if x.lpg.dot + 1 < x.timingOf x.lpgFrame 0 then (x.lpg.line, x.lpg.dot + 1) else (x.lpg.line + 1, 0)

/-- A V word the sequencer reads: as it stood at its line's fetch instant (R203). None: it waits for a Gallery frame (R66,
R70). -/
def State.lpgWord (c : CtxNo) (a : Nat) (s : State) : State × Option Word :=
  match s.ses c with
  | some x =>
    let r := s.vRead c x.lpg.bank a
    (r.1, r.2.map (x.vOld x.lpg.bank (a % 65536) (x.fetchCycle x.lpgFrame x.lpg.line)))
  | none => (s, none)

/-- Two V words, the second at the next address. -/
def State.lpgPair (c : CtxNo) (a : Nat) (s : State) : State × Option (Word × Word) :=
  match s.lpgWord c a with
  | (s1, some w0) => let r := s1.lpgWord c (a + 1); (r.1, r.2.map (w0, ·))
  | (s1, none) => (s1, none)

/-- Where a WAIT continues (R213): a position of the frame, or past its last line where it never does. -/
def Session.waitTarget (x : Session) (w0 w1 : Word) : Nat × Nat :=
  let h := x.timingOf x.lpgFrame 0
  let vt := x.timingOf x.lpgFrame 2
  let line := field w0.toNat 0 10
  let dot := field w1.toNat 0 11
  if wbit w0 11 then
    if h ≤ dot then (vt, 0) else if x.lpg.dot ≤ dot then (x.lpg.line, dot) else (x.lpg.line + 1, dot)
  else
    let t : Nat × Nat := if h ≤ dot then (line + 1, 0) else (line, dot)
    if t.1 < x.lpg.line ∨ t.1 = x.lpg.line ∧ t.2 ≤ x.lpg.dot then (x.lpg.line, x.lpg.dot)
    else if vt ≤ line ∨ vt ≤ t.1 then (vt, 0) else t

/-- The sequencer's position and counter after an entry. -/
def Session.lpgGo (pc : Word) (p : Nat × Nat) (x : Session) : Session :=
  { x with lpg := { x.lpg with pc := pc, line := p.1, dot := p.2 } }

/-- The sequencer stops until the next frame start. -/
def Session.lpgStop (x : Session) : Session := { x with lpg := { x.lpg with running := false } }

def Session.lpgPos (x : Session) : Nat × Nat × Nat := (x.lpgFrame, x.lpg.line, x.lpg.dot)

/-- END and the operations that do not exist (R213). -/
def Session.lpgEndEntry (w0 : Word) (x : Session) : Session :=
  if field w0.toNat 12 4 = 0 then x.lpgStop.lpgGo (x.lpg.pc + 2) x.lpgNext else (x.orIo 0xF504 1).lpgStop

def Session.lpgWaitEntry (w0 w1 : Word) (x : Session) : Session := x.lpgGo (x.lpg.pc + 2) (x.waitTarget w0 w1)

def Session.lpgLoopEntry (w0 w1 : Word) (x : Session) : Session :=
  let start := if x.lpg.lc = 0 then max (field w0.toNat 0 12) 1 else x.lpg.lc.toNat
  let y := { x with lpg := { x.lpg with lc := BitVec.ofNat 12 (start - 1) } }
  y.lpgGo (if start - 1 = 0 then x.lpg.pc + 2 else w1) x.lpgNext

def Session.lpgSetpEntry (w1 : Word) (x : Session) : Session :=
  (x.land true x.lpgPos .io 0xF502 (w1.setWidth 24)).lpgGo (x.lpg.pc + 2) x.lpgNext

/-- WREG of a value (R213, R214), LPG_PTR moved on where the value came from it. -/
def Session.lpgWregEntry (ind : Bool) (off : Nat) (v : Word) (x : Session) : Session :=
  let y := if ind then x.land true x.lpgPos .io 0xF502 (BitVec.ofNat 24 ((x.ioN 0xF502 + 1) % 65536)) else x
  let z := if 0x500 ≤ off ∧ off ≤ 0x5FF then y.orIo 0xF504 2 else y.videoStore true x.lpgPos (0xF000 + off) v
  z.lpgGo (x.lpg.pc + 2) x.lpgNext

/-- WPAL of two words (R213). -/
def Session.lpgWpalEntry (ind : Bool) (i : Nat) (w0 w1 : Word) (x : Session) : Session :=
  let y := if ind then x.land true x.lpgPos .io 0xF502 (BitVec.ofNat 24 ((x.ioN 0xF502 + 2) % 65536)) else x
  (y.writePalette true x.lpgPos i w0 w1).lpgGo (x.lpg.pc + 2) x.lpgNext

/-- The sequencer executes an entry. False: it waits for a page of its data. -/
def State.lpgAct (c : CtxNo) (w0 w1 : Word) (s : State) : State × Bool :=
  let op := field w0.toNat 12 4
  let ind := wbit w0 11
  let ptr := s.sesD c 0 (·.ioN 0xF502)
  if op = 1 then (s.modSes c (·.lpgWaitEntry w0 w1), true)
  else if op = 2 then
    let r := if ind then s.lpgWord c ptr else (s, some w1)
    match r.2 with
    | some v => (r.1.modSes c (·.lpgWregEntry ind (field w0.toNat 0 11) v), true)
    | none => (r.1, false)
  else if op = 3 then
    match s.lpgPair c (if ind then ptr else w1.toNat) with
    | (s1, some (v0, v1)) => (s1.modSes c (·.lpgWpalEntry ind (field w0.toNat 0 11) v0 v1), true)
    | (s1, none) => (s1, false)
  else if op = 4 then (s.modSes c (·.lpgLoopEntry w0 w1), true)
  else if op = 5 then (s.modSes c (·.lpgSetpEntry w1), true)
  else (s.modSes c (·.lpgEndEntry w0), true)

/-- The sequencer's next entry, where its operation is among those asked for. False: it waits. -/
def State.lpgEntry (c : CtxNo) (ops : Nat → Bool) (s : State) : State × Bool :=
  match s.lpgPair c (s.sesD c 0 (·.lpg.pc.toNat)) with
  | (s1, some (w0, w1)) =>
    if ops (field w0.toNat 12 4) then
      match s1.lpgAct c w0 w1 with
      | (s2, true) => (s2, true)
      | (s2, false) => (s.waits c s2, false)
    else (s, true)
  | (s1, none) => (s.waits c s1, false)

/-- Every due entry and frame start in their order, the entries of a frame before the start of the next (R200, R202, R212). -/
def State.lpgRun (c : CtxNo) (m : Reach) : Nat → State → State × Bool
  | 0, s => (s, true)
  | fuel + 1, s =>
    if s.sesD c false (·.lpgDue m) then
      match s.lpgEntry c (fun _ => true) with
      | (s1, true) => State.lpgRun c m fuel s1
      | r => r
    else if s.sesD c false (·.lpgStartDue m) then State.lpgRun c m fuel (s.modSes c (·.lpgFrameStart))
    else (s, true)

/-- The sequencer has executed every entry up to the beam's last position, or every entry whose position has passed. False:
it waits for a page. -/
def State.lpgCatchUp (c : CtxNo) (m : Reach) (s : State) : State × Bool :=
  s.lpgRun c m (s.sesD c 0 (fun x => if x.lpg.running || wbit (x.ioW 0xF500) 0 then 4 * x.htotal * x.vtotal + 65536
    else x.frame + 2 - x.lpg.frame))

/-! ### The rows of the sequencer -/

/-- A row of the sequencer: its next entry, once the beam has reached it. -/
def State.lpgRow (c : CtxNo) (ops : Nat → Bool) (s : State) : State :=
  if s.admitted c && s.sesD c false (·.lpgDue .last) then (s.lpgEntry c ops).1 else s

/-- LPG_START (R212): the frame start of a session whose beam has reached the frame. -/
def execLpgStart (c : CtxNo) (s : State) : Outcome :=
  .next (if s.admitted c && s.sesD c false (fun x => !x.lpgDue .last && x.lpgStartDue .last) then s.modSes c (·.lpgFrameStart) else s)

/-- LPG_END (R213): END, or an operation that does not exist, stops the sequencer. -/
def execLpgEnd (c : CtxNo) (s : State) : Outcome := .next (s.lpgRow c (fun op => op == 0 || decide (6 ≤ op)))

/-- LPG_WAIT (R213). -/
def execLpgWait (c : CtxNo) (s : State) : Outcome := .next (s.lpgRow c (· == 1))

/-- WREG (R213, R214). -/
def execWreg (c : CtxNo) (s : State) : Outcome := .next (s.lpgRow c (· == 2))

/-- WPAL (R213). -/
def execWpal (c : CtxNo) (s : State) : Outcome := .next (s.lpgRow c (· == 3))

/-- LOOP (R213). -/
def execLoop (c : CtxNo) (s : State) : Outcome := .next (s.lpgRow c (· == 4))

/-- SETP (R213). -/
def execSetp (c : CtxNo) (s : State) : Outcome := .next (s.lpgRow c (· == 5))

end Sys2Proof.Machine
end

