-- ==== Sys2Proof/Machine/Beam.lean ====
section
/-! DEFINITION. Beam timing: valid timing sets (R206, R207), the vertical-blank instant with its commit (R209, R210,
R225), the LINE compare and readback (R208, R211), and the palette port (R222). -/

namespace Sys2Proof.Machine

/-- The profile limits of the active area (R31). -/
def limitH (grand : Bool) : Nat := if grand then 768 else 384
def limitV (grand : Bool) : Nat := if grand then 576 else 288

/-- The lengths of a frame that R206 allows for a virtual clock. -/
def periodValid (vtotal cpl vclk : Nat) : Bool :=
  decide (vtotal * cpl * 24 ≤ vclk ∧ vclk ≤ vtotal * cpl * 240)

/-- A valid set of timing values (R206). -/
def timingValid (grand : Bool) (vclk h ha v va cpl : Nat) : Bool :=
  decide (16 ≤ h ∧ h ≤ 2048 ∧ ha % 8 = 0 ∧ 16 ≤ ha ∧ ha ≤ min h (limitH grand) ∧ 17 ≤ v ∧ v ≤ 1024
    ∧ va % 8 = 0 ∧ 16 ≤ va ∧ va ≤ min (v - 1) (limitV grand) ∧ 16 ≤ cpl ∧ cpl ≤ 65535)
    && periodValid v cpl vclk

/-- The nominal frame period in units of 2^-16 ns, rounded up (R206). -/
def nominalPeriod (vtotal cpl vclk : Nat) : Nat := (vtotal * cpl * unitsPerSec + vclk - 1) / vclk

/-- The smallest CPL of R207, if there is one. -/
def startCpl (vtotal vclk periodFx : Nat) : Option Nat :=
  let a := (vclk + vtotal * 240 - 1) / (vtotal * 240)
  let b := if periodFx = 0 then 0 else (periodFx - 1) * vclk / (vtotal * unitsPerSec) + 1
  let cpl := max 16 (max a b)
  if cpl ≤ 65535 ∧ 0 < vclk ∧ periodValid vtotal cpl vclk ∧ periodFx ≤ nominalPeriod vtotal cpl vclk then some cpl
  else none

/-- The starting timing of a context (R207): HTOTAL, HACTIVE, VTOTAL, VACTIVE, CPL. -/
def startTiming (x : Context) : Option (List Nat) :=
  let h := x.envH.toNat
  let v := x.envV.toNat
  let ht := min 2048 (h + h / 4)
  let vt := min 1024 (v + 22)
  match startCpl vt x.vclk.toNat x.periodFx.toNat with
  | some cpl => if timingValid x.profile x.vclk.toNat ht h vt v cpl then some [ht, h, vt, v, cpl] else none
  | none => none

/-- The timing shadows or the live timing values. -/
def Session.timingShadow (x : Session) : List Nat := (List.range 5).map (fun i => x.ioN (0xF000 + i))
def Session.timingLive (x : Session) : List Nat := (List.range 5).map (fun i => x.liveN (0xF000 + i))

/-- Step 1 of R210: changed timing shadows are accepted for the next frame, or refused and set back. -/
def Session.commitTiming (cx : Context) (x : Session) : Session :=
  let t := x.timingShadow
  let at' := fun i => t.getD i 0
  if t = x.timingLive then x
  else if !timingValid x.grand cx.vclk.toNat (at' 0) (at' 1) (at' 2) (at' 3) (at' 4) then
    (x.timingLive.zipIdx.foldl (fun (z : Session) (e : Nat × Nat) => z.setIo (0xF000 + e.2) e.1) x).orIo 0xF009 1
  else if cx.envH.toNat < at' 1 ∨ cx.envV.toNat < at' 3
      ∨ nominalPeriod (at' 2) (at' 4) cx.vclk.toNat < cx.periodFx.toNat then
    (x.timingLive.zipIdx.foldl (fun (z : Session) (e : Nat × Nat) => z.setIo (0xF000 + e.2) e.1) x).orIo 0xF009 2
  else { x with nextTiming := some (t.map (BitVec.ofNat 16)) }

/-- Step 2 of R210: the composition shadows become live. -/
def Session.commitComp (x : Session) : Session :=
  shadowedComp.foldl (fun (z : Session) a =>
    if z.liveN a = z.ioN a then z
    else z.land false (x.frame, x.vactive, 0) .live a (BitVec.ofNat 24 (z.ioN a))) x

/-- One stream dimension of R225. -/
def scaleOk (out active : Nat) : Bool :=
  decide (out = 0 ∨ out % 8 = 0 ∧ 16 ≤ out ∧ out ≤ active ∧ active ≤ 4 * out)

/-- The outcome of the check of a vertical blank, dated like the live registers, so that a frame's bands use the one before it (R225). -/
def Session.landScale (v : Nat) (x : Session) : Session :=
  if x.liveN scaleWord = v then x else x.land false (x.frame, x.vactive, 0) .live scaleWord (BitVec.ofNat 24 v)

/-- The check of the scaling pair against the timing of the next frame (R225). -/
def Session.checkScale (x : Session) : Session :=
  let t := match x.nextTiming with | some l => l.map BitVec.toNat | none => x.timingLive
  if scaleOk (x.liveN 0xF631) (t.getD 1 0) && scaleOk (x.liveN 0xF632) (t.getD 3 0) then x.landScale 0
  else (x.orIo 0xF638 1).landScale 1

/-- The vertical-blank instant (R210). -/
def Session.vblank (cx : Context) (x : Session) : Session :=
  let y := if wbit (x.ioW 0xF009) 8 then
      ((x.commitTiming cx).setIo 0xF009 ((x.commitTiming cx).ioN 0xF009 - 0x100)).commitComp
    else x
  let z := y.checkScale
  { z with vblankDone := true, int := z.int.raise 0 }

/-- The beam has passed the first cycle of line VACTIVE. -/
def Session.vblankDue (x : Session) : Bool := !x.vblankDone && decide (x.vactive * x.cpl < x.vcyc)

/-- The cycle of the present frame in which the position of LINE is reached, if it is in the frame (R211). -/
def Session.lineCycle (x : Session) : Option Nat :=
  let l := x.ioN 0xF018
  let d := x.ioN 0xF019
  let n := l * x.cpl + (d * x.cpl + x.htotal - 1) / x.htotal
  if l < x.vtotal ∧ d < x.htotal ∧ n < x.frameCycles then some n else none

/-- LINE is still to be raised in this frame, at that cycle or at once where it is passed. -/
def Session.lineAhead (x : Session) : Option Nat := if x.lineRaised || x.lineSkip then none else x.lineCycle

/-- The LINE compare of R211 is met and not yet raised in this frame. -/
def Session.lineDue (x : Session) : Bool :=
  decide (x.lineFrom < x.cpu.now) && (match x.lineAhead with | some n => decide (n < x.vcyc) | none => false)

def Session.lineCompare (x : Session) : Session := { x with lineRaised := true, int := x.int.raise 1 }

/-- The beam's events of the cycle that has just passed, after every line-program entry whose position lies before it (R200,
R210, R211); then the next frame begins, where it was the frame's last. -/
def State.beamDue (c : CtxNo) (s : State) : State :=
  let s0 := (s.lpgCatchUp c .beforeLast).1
  let s1 := if s0.sesD c false (·.vblankDue) then s0.modSes c (·.vblank (s0.ctx c)) else s0
  let s2 := if s1.sesD c false (·.lineDue) then s1.modSes c (·.lineCompare) else s1
  s2.modSes c (·.turnFrame)

/-- BEAMLINE latches the dot and the frame count (R208). -/
def Session.beamRead (x : Session) : Session :=
  let p := x.lastPos
  ((x.setIo 0xF010 p.2.1).setIo 0xF011 p.2.2).setIo 0xF012 (p.1 % 65536)

/-- A load of CMP_PALW1 advances CMP_PALIDX (R222). -/
def Session.palAdvance (x : Session) : Session :=
  let i := x.ioN 0xF640
  x.land false x.lastPos .io 0xF640 (BitVec.ofNat 24 ((i % x.palSize + 1) % x.palSize))

/-! ### The rows -/

/-- VID_COMMIT (R209): GO written by the session program. -/
def execVidCommit (c : CtxNo) (s : State) : Outcome :=
  .next (if s.programs c then s.modSes c (fun x => x.videoStore false x.lastPos 0xF008 1) else s)

/-- BEAMLINE_READ (R208): the line is answered, the dot and frame latched. -/
def execBeamlineRead (c : CtxNo) (s : State) : Outcome :=
  .next (if s.programs c then
    let s1 := s.modSes c (·.beamRead)
    s1.reply (s1.sesD c 0 (·.ioN 0xF010))
  else s)

/-- PALETTE_WRITE (R222): word 1 is stored to CMP_PALW1. -/
def execPaletteWrite (c : CtxNo) (w1 : Word) (s : State) : Outcome :=
  .next (if s.programs c then s.modSes c (fun x => x.videoStore false x.lastPos 0xF643 w1) else s)

/-- PALETTE_READ (R202, R222): both words of the entry are answered and the index advances; the load waits for the sequencer. -/
def execPaletteRead (c : CtxNo) (s : State) : Outcome :=
  .next (if s.programs c then
    match s.lpgCatchUp c .last with
    | (s1, true) =>
      let v := s1.sesD c 0 (fun x => (x.palEntry (x.ioN 0xF640)).toNat)
      (s1.modSes c (·.palAdvance)).reply v
    | (s1, false) => s1
  else s)

end Sys2Proof.Machine
end

