-- ==== Sys2Proof/Machine/Flits.lean ====
section
/-! DEFINITION. Loam packets and flits (R379 to R382): a packet's words, the flits that carry them with their parity and credits,
and a packet read from its flits, or found malformed. -/

namespace Sys2Proof.Machine

/-! ### Packets (R381, R382) -/

/-- A Loam packet: its header fields and data words. `len`: the LEN field. -/
structure Packet where
  op : BitVec 5
  len : BitVec 7
  src : Byte
  dst : Byte
  tag : Byte
  poison : Bool
  fwd : Bool
  addr : LoamAddr
  status : BitVec 4
  atype : BitVec 4
  mtype : Byte
  marg : Word
  data : List Word
  deriving DecidableEq, Repr

/-- The virtual channel of an opcode; none for an opcode of no packet. -/
def opChannel (op : Nat) : Option Nat :=
  if op = 1 ∨ op = 2 ∨ op = 4 then some 0 else if op = 3 then some 2 else if op = 8 then some 3
  else if 0x10 ≤ op ∧ op ≤ 0x13 then some 1 else none

/-- A LEN that an opcode allows, with the STATUS of a response. -/
def opLen (op status len : Nat) : Bool :=
  if op = 1 ∨ op = 2 ∨ op = 3 then decide (1 ≤ len ∧ len ≤ 64)
  else if op = 4 then len == 2 || len == 4 || len == 8
  else if op = 8 then len == 0 || len == 4
  else if op = 0x10 then (if status = 0 then decide (1 ≤ len ∧ len ≤ 64) else len == 0)
  else if op = 0x13 then (if status = 0 then len == 2 || len == 4 else len == 0)
  else len == 0

/-- The data words a packet carries: an RD's LEN counts the words it asks for. -/
def Packet.carries (p : Packet) : Nat := if p.op = 1 then 0 else p.len.toNat

/-- A packet R382 allows. -/
def Packet.wf (p : Packet) : Bool :=
  (opChannel p.op.toNat).isSome && opLen p.op.toNat p.status.toNat p.len.toNat && p.data.length == p.carries

/-- The header's eight words. -/
def Packet.header (p : Packet) : List Word :=
  [p.op ++ (0 : BitVec 4) ++ p.len, p.src ++ p.dst,
   p.tag ++ BitVec.ofBool p.poison ++ BitVec.ofBool p.fwd ++ (0 : BitVec 6),
   p.addr.extractLsb' 32 16, p.addr.extractLsb' 16 16, p.addr.extractLsb' 0 16,
   p.status ++ p.atype ++ p.mtype, p.marg]

/-- The words of a packet. -/
def Packet.words (p : Packet) : List Word := p.header ++ p.data

/-- The packet that a list of words spells; none where they are too few. -/
def Packet.ofWords : List Word → Option Packet
  | a :: b :: c :: d :: e :: f :: g :: h :: l =>
    some { op := a.extractLsb' 11 5, len := a.extractLsb' 0 7, src := b.extractLsb' 8 8, dst := b.extractLsb' 0 8,
           tag := c.extractLsb' 8 8, poison := c.getLsbD 7, fwd := c.getLsbD 6, addr := d ++ e ++ f,
           status := g.extractLsb' 12 4, atype := g.extractLsb' 8 4, mtype := g.extractLsb' 0 8, marg := h, data := l }
  | _ => none

/-- The module of a link on which a packet goes, of `n` that are up (R379). -/
def packetModule (src : Byte) (vc n : Nat) : Nat := (src.toNat + vc) % n

/-! ### Flits (R380) -/

/-- The bit that makes the number of ones in a word odd. -/
def oddParity (w : Word) : Bool := (List.range 16).foldl (fun b i => b != w.getLsbD i) true

/-- The parity bits of words, the first word's in bit 0. -/
def parityBits (l : List Word) : Nat := l.foldr (fun w n => b2n (oddParity w) + 2 * n) 0

/-- One flit: its kind, channel, LAST, packet words and credits. -/
def flitOf (kind vc : Nat) (last : Bool) (payload : List Word) (credits : Word) : List Word :=
  let body := BitVec.ofNat 16 (kind * 2 ^ 14 + vc * 2 ^ 12 + b2n last * 2 ^ 11 + payload.length * 2 ^ 6) :: payload
    ++ List.replicate (28 - payload.length) 0
  let par := parityBits (body ++ [credits])
  body ++ [BitVec.ofNat 16 par, BitVec.ofNat 16 (par / 65536), credits]

/-- 68-byte flits of a packet with `n` data words (R381). -/
def packetFlits (n : Nat) : Nat := (8 + n + 27) / 28

/-- The flits of a packet; `credits i`: the CR word of flit `i`. -/
def Packet.flits (p : Packet) (credits : Nat → Word) : List (List Word) :=
  let n := packetFlits p.data.length
  (List.range n).map (fun i =>
    flitOf (if i = 0 then 1 else 2) ((opChannel p.op.toNat).getD 0) (i + 1 == n) ((p.words.drop (28 * i)).take 28) (credits i))

/-- A flit taken apart. -/
structure FlitParts where
  kind : Nat
  vc : Nat
  last : Bool
  payload : List Word
  deriving DecidableEq, Repr

/-- A flit that keeps R380, its parity apart. -/
def readFlit (f : List Word) : Option FlitParts :=
  let h := (f.getD 0 0).toNat
  let n := field h 6 5
  let rest := f.drop 1
  if f.length ≠ 32 ∨ field h 14 2 = 3 ∨ field h 0 6 ≠ 0 ∨ 28 < n ∨ (n = 0) ≠ (field h 14 2 = 0)
      ∨ ((rest.drop n).take (28 - n)).any (· != 0) ∨ (f.getD 30 0).toNat / 2 ^ 14 ≠ 0 then none
  else some { kind := field h 14 2, vc := field h 12 2, last := h.testBit 11, payload := rest.take n }

/-- Every word's parity in a flit is right (R390). -/
def flitParityOk (f : List Word) : Bool :=
  (f.getD 29 0).toNat + 65536 * (f.getD 30 0).toNat == parityBits (f.take 29 ++ [f.getD 31 0])

/-- The flits of one packet in their order: a HEAD, then BODY flits of its channel, each but the last full, LAST on the last alone. -/
def flitsInOrder (vc : Nat) (head : Bool) : List FlitParts → Bool
  | [] => false
  | f :: l =>
    f.kind == (if head then 1 else 2) && f.vc == vc && f.last == l.isEmpty && (l.isEmpty || f.payload.length == 28)
      && (l.isEmpty || flitsInOrder vc false l)

/-- The packet that flits carry; none where they are malformed (R380 to R382). -/
def readPacket (l : List (List Word)) : Option Packet :=
  match l.mapM readFlit with
  | none => none
  | some fs =>
    match Packet.ofWords (fs.flatMap (·.payload)) with
    | none => none
    | some p => if p.wf && (opChannel p.op.toNat).any (fun vc => flitsInOrder vc true fs) then some p else none

/-! ### The packets of a request -/

/-- The opcode of a request (R382). -/
def LoamOp.code : LoamOp → Nat
  | .rd => 1
  | .wr => 2
  | .pwr => 3
  | .atom => 4

/-- The opcodes of a request and of its response. -/
def LoamOp.request (o : LoamOp) : BitVec 5 := BitVec.ofNat 5 o.code
def LoamOp.response : LoamOp → BitVec 5 | .rd => 0x10 | .wr => 0x11 | .pwr => 0x12 | .atom => 0x13

/-- The packet in which a request goes to the node that serves it. -/
def LoamReq.packet (r : LoamReq) (dst : Byte) : Packet :=
  { op := r.op.request, len := BitVec.ofNat 7 r.len, src := r.node, dst := dst, tag := r.tag, poison := r.poison && r.op != .rd,
    fwd := false, addr := r.addr, status := 0, atype := r.atype, mtype := 0, marg := 0, data := r.data }

/-- The packet of its response. -/
def LoamReq.answer (r : LoamReq) (dst : Byte) : Packet :=
  { op := r.op.response, len := BitVec.ofNat 7 r.resp.length, src := dst, dst := r.node, tag := r.tag,
    poison := r.poison && r.op == .rd, fwd := false, addr := r.addr, status := r.status, atype := 0, mtype := 0, marg := 0,
    data := r.resp }

/-- The packet of a message. -/
def messagePacket (src dst mtype : Byte) (marg : Word) (data : List Word) : Packet :=
  { op := 8, len := BitVec.ofNat 7 data.length, src := src, dst := dst, tag := 0, poison := false, fwd := false, addr := 0, status := 0,
    atype := 0, mtype := mtype, marg := marg, data := data }

end Sys2Proof.Machine
end

