-- ==== Sys2Proof/Machine/Vault.lean ====
section
/-! DEFINITION. Memory as a Loam agent reaches it: which die and link an address takes, whether it is populated, which frames
serve and take an access, what a state page holds, and the reads and writes of the device's own agents (R16, R18, R23, R24, R76,
R385, R387, R390, R391). -/

namespace Sys2Proof.Config

/-- The session that imported state pages hold where their words are no captured session's (R54, R59; log entry 1). -/
opaque freeSession : (ctx : Nat) → Machine.Session

/-- The words of the state pages that hold a session: their layout is not published (R45, R54, R59; log entry 66). -/
opaque stateImage : (x : Machine.Session) → (page off : Nat) → Word

/-- What an agent of the device takes from an address it cannot read (log entry 67). -/
opaque absentByte : (n addr : Nat) → Byte

end Sys2Proof.Config

namespace Sys2Proof.Machine

/-! ### Dies and routes -/

/-- A UCIe link has a module up (R379). -/
def State.linkUp (s : State) (l : Fin 4) : Bool := s.links[l.val].up != 0

/-- The Plinth window and the Plinth register window (R23). -/
def inPlinth (a : Nat) : Bool := decide (guestBase ≤ a ∧ a < guestBase + 0x1000000 ∨ 0x400000000000 ≤ a ∧ a < 0x404000000000)

/-- The die of a node (R377). -/
def nodeDie (n : Byte) : Nat := n.toNat / 64

/-- The die that holds an address (R23): none where it lies in no range. -/
def addrDie (p : Part) (a : Nat) : Option Nat :=
  if inPlinth a then some 3
  else if rdWindow ≤ a ∧ a < guestBase then some ((a - rdWindow) / 0x1000000)
  else (framePool p (a / 4096)).map poolDie

/-- The links of the fixed route between two dies (R18). -/
def routeLinks (x y : Nat) : List (Fin 4) :=
  if x = y then []
  else if x < 2 ∧ y < 2 then [2]
  else ([x, y].filter (· != 2)).map (fun d => if d = 0 then 0 else if d = 1 then 1 else 3)

def State.routeUp (s : State) (x y : Nat) : Bool := (routeLinks x y).all s.linkUp

/-- The die whose Gallery serves a Vault frame that lies elsewhere (R387). -/
def State.forwardDie (s : State) (f : Nat) : Option Nat := (s.frame f).copy.map (fun c => b2n c.1)

/-- The route by which a Vault frame's requests are forwarded is up (R387). -/
def State.forwardUp (s : State) (a : Nat) : Bool :=
  match addrDie s.part a, s.forwardDie (a / 4096) with
  | some d, some g => decide (0x4000000 ≤ a / 4096) || s.routeUp d g
  | _, _ => true

/-! ### Memory targets -/

/-- The home frame a frame's contents belong to. -/
def State.homeOf (s : State) (f : Nat) : Nat :=
  if f < 0x4000000 then f else ((s.frame f).home).getD f

/-- The frame that a read of a frame is served from (R387). -/
def State.served (s : State) (f : Nat) : Nat := if f < 0x4000000 then s.current f else f

/-- The frames that take a write to a frame: the one named, the current copy, and every Gallery copy of the same page. -/
def State.takers (s : State) (f : Nat) : List Nat :=
  let h := s.homeOf f
  if f < 0x4000000 ∨ h ≠ f then
    ([s.served f, s.current h].filter (fun g => decide (f < 0x4000000 ∨ 0x4000000 ≤ g)) ++ (s.copyOn 0 h).toList
      ++ (s.copyOn 1 h).toList).eraseDups
  else [f]

/-- A Gallery copy written over Loam differs from its home frame from now on. -/
def State.dirtied (f : Nat) (s : State) : State :=
  let h := s.homeOf f
  if h = f ∨ s.current h ≠ h then s
  else
    let die := if f < 0x4010000 then 0 else 1
    let s1 := s.modFrame h (fun r => { r with copy := some (die == 1, BitVec.ofNat 16 (f - galleryFrame die 0)) })
    s1.ctxNos.foldl (fun (s : State) c =>
      if s.namesCopy die f c then
        s.modCtx c (fun x => { x with pages := x.pages.map (fun e : Nat × PageEntry =>
          (e.1, if e.2.home.toNat = h then { e.2 with dirty := true } else e.2)) })
      else s) s1

/-- The staging lines of an admitted session that hold words of a home frame from an offset: of its work RAM, and of its
title's pages. -/
def State.linesOf (s : State) (c : CtxNo) (h off : Nat) : List Nat :=
  ((s.ctx c).pages.filter (fun e : Nat × PageEntry => e.2.alloc && decide (e.2.home.toNat = h ∧ 3 ≤ e.1 ∧ e.1 < 27))).map
      (fun e => (e.1 - 3) * 32 + off / 64)
    ++ ((s.ctxTitle c).frames.zipIdx.filter (fun e => decide (e.1.toNat = h))).map (fun e => titleLine e.2 off)

/-- The staged lines of admitted sessions that hold a word written over Loam are written back and dropped (R76). The order of
the drop and the write is not seen: the line's own words reach the copy before the write. -/
def State.unstaged (a : Nat) (s : State) : State :=
  let h := s.homeOf (a / 4096)
  s.ctxNos.foldl (fun (s : State) c =>
    if (s.heldSlot c).isSome then (s.linesOf c h (a % 4096 / 2)).foldl (fun (s : State) tag => s.dropLine c tag) s else s) s

/-- The context and the number of the state page that a frame holds. -/
def State.statePage (s : State) (f : Nat) : Option (CtxNo × Nat) :=
  let h := s.homeOf f
  (s.ctxs.find? (fun e => e.2.pages.any (fun p => decide (p.1 < 3) && p.2.alloc && p.2.home.toNat == h))).bind (fun e =>
    (e.2.pages.find? (fun p => decide (p.1 < 3) && p.2.alloc && p.2.home.toNat == h)).map (fun p =>
      (BitVec.ofNat 18 e.1, p.1)))

/-- Virtual time of a context stands, its session wholly in its state pages (R45). -/
def CtxState.stored (st : CtxState) : Bool := st == .suspended || st == .exported || st == .quarantined

/-- A word of a state page: the page map where a read of it is exact (R59, R60), the words of the session it holds while virtual
time stands (log entry 66), and else a free word (log entry 1). -/
def State.stateWord (s : State) (c : CtxNo) (i off n : Nat) : Word :=
  if (s.ctx c).state.stored then
    if i = 0 ∧ 1024 ≤ off then
      let l := bytesBE 8 ((s.page c ((off - 1024) / 4)).bits)
      byteAt l (2 * (off % 4) + 1) ++ byteAt l (2 * (off % 4))
    else match s.ses c with
      | some x => Config.stateImage x i off
      | none => Config.freeWord n
  else Config.freeWord n

/-- The state page of a session that a freed frame still holds (log entry 66). -/
def State.image (s : State) (f : Nat) : Option (Session × Nat) := Sparse.get none s.images f

/-- `n` words that memory holds from an address on. -/
def State.loamWords (s : State) (a n : Nat) : List Word :=
  let f := a / 4096
  match s.statePage f, s.image f with
  | some (c, i), _ => (List.range n).map (fun j => s.stateWord c i (a % 4096 / 2 + j) (s.fresh + j))
  | none, some (x, i) => (List.range n).map (fun j => Config.stateImage x i (a % 4096 / 2 + j))
  | none, none => (List.range n).map (fun j => s.word (s.served f * 4096 + a % 4096 + 2 * j))

/-- One of `n` words holds inverted parity (R391). -/
def State.loamBad (s : State) (a n : Nat) : Bool := s.badIn (s.served (a / 4096)) (a % 4096 / 2) n

/-- `n` words read from memory over Loam, and whether one holds inverted parity. -/
def State.loamRead (a n : Nat) (s : State) : State × List Word × Bool :=
  ({ s with fresh := s.fresh + n }, s.loamWords a n, s.loamBad a n)

/-- Bytes stored in the frames that take a write. -/
def State.storeTakers (a : Nat) (l : List Byte) (poison : Bool) (s : State) : State :=
  (s.takers (a / 4096)).foldl (fun (s : State) g =>
    let b := g * 4096 + a % 4096
    let s' := s.setBytes b l
    if poison then s'.poisonWords b (l.length / 2) else s') { s with images := Sparse.erase s.images (a / 4096) }

/-- Words written to memory over Loam (R76, R387, R391). -/
def State.loamStore (a : Nat) (data : List Word) (poison : Bool) (s : State) : State :=
  ((s.unstaged a).storeTakers a (data.flatMap (fun w => bytesLE 2 w.toNat)) poison).dirtied (a / 4096)

/-! ### Counters and persistent failures (R390, R391) -/

/-- A LOAM_ counter of the requester's die; a guest die keeps its own. -/
def State.countLoam (node : Byte) (o n : Nat) (s : State) : State :=
  if nodeDie node < 2 then s.countReg (loamRdBase + 0x1000000 * nodeDie node + o) n
  else if nodeDie node = 2 then s.countReg (loamHdBase + o) n
  else s

/-- A persistent failure: the Curator acts on a frame, and an agent other than a Keeper raises its source (R391). -/
def State.persistent (op : LoamOp) (node : Byte) (a : Nat) (s : State) : State :=
  if 0xC0 ≤ node.toNat then s
  else
    let s1 := s.countLoam node 0x408 1
    let f := a / 4096
    let s2 := if (framePool s.part f).isNone ∨ a ≥ rdWindow then s1
      else if op = .wr ∨ op = .pwr then s1.failWrite f node else s1.failRead f node
    if (nodeKeeper node).isSome then s2
    else (s2.offer 0x0041 4 ([node] ++ bytesBE 6 a ++ bytesBE 1 op.code)).raiseP (37 + nodeDie node)

/-! ### The device's own agents (R16, R24, R391) -/

/-- The queue manager, the monitor compositor (R377). -/
def nodeQm : Byte := 0x88
def nodeMon : Byte := 0x8A

/-- An agent of a die reaches the memory at an address: it is populated, and the route to it is up. -/
def State.reaches (s : State) (die a : Nat) : Bool :=
  s.frameUp (a / 4096) && s.forwardUp a && (match addrDie s.part a with | some d => s.routeUp die d | none => false)

/-- The same of every frame that a range of bytes touches. -/
def State.reachesAll (s : State) (die a n : Nat) : Bool :=
  (List.range (n / 4096 + 2)).all (fun i =>
    let b := if i = 0 then a else (a / 4096 + i) * 4096
    decide (a + n ≤ b) || s.reaches die b)

/-- The die whose Curator half acts for commands: the first that is up. -/
def State.curatorDie (s : State) : Nat := if s.power.dieUp 0 then 0 else 1

/-- A byte of memory as an agent of a die reads it: of an address error nothing is given (log entry 67). -/
def State.agentByte (s : State) (die a : Nat) : Byte :=
  if s.reaches die a then
    (match s.loamWords (a / 2 * 2) 1 with
      | w :: _ => if a % 2 = 0 then w.setWidth 8 else (w >>> 8).setWidth 8
      | [] => 0)
  else Config.absentByte s.fresh a

/-- The bytes an agent of a die reads. -/
def State.agentBytes (s : State) (die a n : Nat) : List Byte := (List.range n).map (fun i => s.agentByte die (a + i))

/-- What an agent's read does besides: a persistent one is acted on (R390, R391). -/
def State.agentRead (node : Byte) (a n : Nat) (s : State) : State :=
  match (List.range ((n + 1) / 2)).find? (fun i => s.reaches (nodeDie node) (a + 2 * i) && s.loamBad (a + 2 * i) 1) with
  | some i => (s.countLoam node 0x400 3).persistent .rd node (a + 2 * i)
  | none => s

/-- The staged lines that hold one of `n` words from an address of a frame are written back and dropped (R76). -/
def State.unstagedFrom (a n : Nat) (s : State) : State :=
  (List.range (n / 128 + 2)).foldl (fun (s : State) j =>
    let b := if j = 0 then a else (a / 128 + j) * 128
    if b < a + n then s.unstaged b else s) s

/-- The bytes an agent of a die writes, frame by frame; an address error writes nothing (log entry 67). -/
def State.agentStore (die a : Nat) (l : List Byte) (s : State) : State :=
  (List.range (l.length / 4096 + 2)).foldl (fun (s : State) i =>
    let b := if i = 0 then a else (a / 4096 + i) * 4096
    let part := (l.drop (b - a)).take (4096 - b % 4096)
    if !part.isEmpty && s.reaches die b then ((s.unstagedFrom b part.length).storeTakers b part false).dirtied (b / 4096) else s) s

end Sys2Proof.Machine
end

