-- ==== Sys2Proof/Machine/Egress.lean ====
section
/-! DEFINITION. The queue manager's egress side (R324 to R331): sub-ports, credits, headers, and the order in which
packets leave a sub-port. -/

namespace Sys2Proof.Machine

/-! ### Sub-ports (R316, R317) -/

def SubPort.none : SubPort := { link := false, align := false, held := [], paused := 0, xoff := false }

def State.sub (s : State) (p m : Nat) : SubPort := Sparse.get SubPort.none s.subports (4 * p + m)
def State.setSub (p m : Nat) (x : SubPort) (s : State) : State :=
  { s with subports := Sparse.set SubPort.none s.subports (4 * p + m) x }

def ethAddr (p o : Nat) : Nat := ethBase + 0x10000 * p + o
def ethSub (p m o : Nat) : Nat := ethBase + 0x10000 * p + 0x100 + 0x100 * m + o

/-- The SerDes step of ASCENT has ended (R317). -/
def State.serdes (s : State) : Bool := s.power.stepOn 51

/-- MODE of a port (R316, R317). -/
def State.portMode (s : State) (p : Nat) : Nat :=
  if s.serdes then field (s.regN (ethAddr p 0)) 0 2 else if p = 0 then 2 else 0

/-- The sub-ports a MODE gives. -/
def modeSubs (m : Nat) : Nat := if m = 1 then 2 else if m = 2 then 4 else 1

/-- TOTAL credits of a sub-port in a MODE. -/
def modeCredits (m : Nat) : Nat := if m = 1 then 1024 else if m = 2 then 512 else 2048

/-- A sub-port exists in the current mode and its lanes are powered. -/
def State.subExists (s : State) (p m : Nat) : Bool :=
  if s.serdes then decide (m < modeSubs (s.portMode p)) && (p == 0 || s.power.stepOn 52)
  else p == 0 && m == 0 && s.power.mode != .off && s.power.mode != .dormant

/-- A sub-port that can send: it exists, is enabled and has link (R327). -/
def State.subUp (s : State) (p m : Nat) : Bool :=
  s.subExists p m && (s.regN (ethAddr p 0)).testBit (4 + m) && (s.sub p m).link

/-- Credits of a frame (R328). -/
def frameCredits (bytes : Nat) : Nat := (bytes + 63) / 64

def State.creditTotal (s : State) (p m : Nat) : Nat := if s.subExists p m then modeCredits (s.portMode p) else 0
def State.creditHeld (s : State) (p m : Nat) : Nat := ((s.sub p m).held.map frameCredits).sum
def State.creditFree (s : State) (p m : Nat) : Nat := s.creditTotal p m - s.creditHeld p m

/-! ### Headers (R321, R331) -/

def flowWord (f : FlowWords) (i : Nat) : Nat := (f.getD i 0).toNat
def flowValid (f : FlowWords) : Bool := (flowWord f 0).testBit 31
def flowV6 (f : FlowWords) : Bool := (flowWord f 0).testBit 30
def flowVlan (f : FlowWords) : Bool := (flowWord f 0).testBit 29
def flowPort (f : FlowWords) : Nat := field (flowWord f 0) 28 1
def flowSub (f : FlowWords) : Nat := field (flowWord f 0) 26 2
def flowLip (f : FlowWords) : Nat := field (flowWord f 0) 20 4

/-- The priority a session packet has for flow control (R329). -/
def flowPrio (f : FlowWords) : Nat := if flowVlan f then field (flowWord f 2) 29 3 else 0

/-- The flow entry of a context (R321). -/
def State.flowEntry (s : State) (c : CtxNo) : FlowWords := Sparse.get [] s.flows c.toNat

/-- Word `w` of a local address entry. -/
def State.lip (s : State) (i w : Nat) : Nat := s.regN (clsBase + 0x100 + 0x20 * i + 4 * w)

/-- A local address is valid and of the entry's version (R322). -/
def State.lipUsable (s : State) (f : FlowWords) : Bool :=
  (s.lip (flowLip f) 0).testBit 31 && (s.lip (flowLip f) 0).testBit 30 == flowV6 f

/-- The bytes of a local address. -/
def State.lipBytes (s : State) (i : Nat) (v6 : Bool) : List Byte :=
  if v6 then (List.range 4).flatMap (fun w => bytesBE 4 (s.lip i (w + 1))) else bytesBE 4 (s.lip i 4)

/-- Sum of 16-bit words, most significant byte first, the last padded with 0. -/
def sum16 : List Byte → Nat
  | a :: b :: l => a.toNat * 256 + b.toNat + sum16 l
  | [a] => a.toNat * 256
  | [] => 0

/-- Carries folded into 16 bits. -/
def fold16 (n : Nat) : Nat :=
  let a := n % 65536 + n / 65536
  let b := a % 65536 + a / 65536
  b % 65536 + b / 65536

/-- The Internet checksum of some bytes. -/
def inetSum (l : List Byte) : Nat := 65535 - fold16 (sum16 l)

/-- A UDP header and payload with its checksum over the addresses. -/
def udpBytes (src dst : List Byte) (sport dport : Nat) (payload : List Byte) : List Byte :=
  let len := 8 + payload.length
  let pseudo := src ++ dst ++ bytesBE 4 len ++ bytesBE 4 17
  let body := bytesBE 2 sport ++ bytesBE 2 dport ++ bytesBE 2 len
  let c := inetSum (pseudo ++ body ++ bytesBE 2 0 ++ payload)
  body ++ bytesBE 2 (if c = 0 then 65535 else c) ++ payload

/-- An IPv4 header (R331). -/
def ipv4Header (dscp ttl proto len : Nat) (src dst : List Byte) : List Byte :=
  let a := bytesBE 1 0x45 ++ bytesBE 1 (dscp * 4) ++ bytesBE 2 (20 + len) ++ bytesBE 2 0 ++ bytesBE 2 0x4000
    ++ bytesBE 1 ttl ++ bytesBE 1 proto
  a ++ bytesBE 2 (inetSum (a ++ bytesBE 2 0 ++ src ++ dst)) ++ src ++ dst

/-- An IPv6 header (R331). -/
def ipv6Header (dscp ttl len : Nat) (src dst : List Byte) : List Byte :=
  bytesBE 4 (6 * 2 ^ 28 + dscp * 4 * 2 ^ 20) ++ bytesBE 2 len ++ bytesBE 1 17 ++ bytesBE 1 ttl ++ src ++ dst

/-- The MAC address of a sub-port. -/
def State.macOf (s : State) (p m : Nat) : List Byte :=
  bytesBE 6 (s.regN (ethSub p m 4) * 2 ^ 32 + s.regN (ethSub p m 0))

/-- A session packet's frame without FCS (R331). -/
def State.sessionFrame (s : State) (f : FlowWords) (payload : List Byte) : List Byte :=
  let w2 := flowWord f 2
  let v6 := flowV6 f
  let src := s.lipBytes (flowLip f) v6
  let dst := if v6 then (List.range 4).flatMap (fun w => bytesBE 4 (flowWord f (5 + w))) else bytesBE 4 (flowWord f 8)
  let udp := udpBytes src dst (field (flowWord f 1) 16 16) (field (flowWord f 1) 0 16) payload
  let tag := if flowVlan f then bytesBE 2 0x8100 ++ bytesBE 2 (field w2 29 3 * 2 ^ 13 + field w2 16 12) else []
  let ip := if v6 then ipv6Header (field w2 10 6) (field w2 0 8) udp.length src dst
    else ipv4Header (field w2 10 6) (field w2 0 8) 17 udp.length src dst
  bytesBE 6 (flowWord f 3 % 65536 * 2 ^ 32 + flowWord f 4) ++ s.macOf (flowPort f) (flowSub f) ++ tag
    ++ bytesBE 2 (if v6 then 0x86DD else 0x0800) ++ ip ++ udp

/-! ### What a slot's session sends with -/

/-- The newest entry of a log that applies at a band period; the oldest where none does. -/
def logAt {α : Type} (d : α) (f k : Nat) (l : List (Nat × Nat × α)) : α :=
  match l.find? (fun e => decide (e.1 < f ∨ e.1 = f ∧ e.2.1 ≤ k)) with
  | some e => e.2.2
  | none => (l.getLast?.map (·.2.2)).getD d

/-- STR_CTRL as it governs a band period (R312). -/
def SlotSt.strAt (x : SlotSt) (f k : Nat) : Nat := (logAt (0x00160101 : Reg32) f k x.strLog).toNat

/-- STR_CTRL.KIND of a frame: 0 no video, 1 tile, 2 plane; 3 acts as 0. -/
def SlotSt.kindAt (x : SlotSt) (f : Nat) : Nat := field (x.strAt f 0) 0 2 % 3

/-- MAXP in bytes for a band period (R312): 8 to 140 units of 64. -/
def SlotSt.maxpAt (x : SlotSt) (f k : Nat) : Nat := 64 * max 8 (min 140 (field (x.strAt f k) 16 8))

/-- The egress headers of a band period (R331). -/
def SlotSt.flowAt (x : SlotSt) (f k : Nat) : FlowWords := logAt [] f k x.flowLog

/-- The context whose session a slot's queues serve. -/
def State.slotCtx (s : State) (k : Nat) : CtxNo := (s.slot k).ctx.getD 0

/-- The stream identifier of a slot (R289). -/
def State.sid (s : State) (k : Nat) : Nat := s.regN (strAddr k 4)

/-- A band's release instant under the schedule in force. -/
def State.releaseAt (s : State) (k f b : Nat) : Nat :=
  ((s.slot k).schedOf f).release (s.bandH k) (s.vtotalOf (s.slotCtx k) f) b

/-- The seconds and nanoseconds of an instant as packets carry them. -/
def relBytes (t : Nat) : List Byte := bytesBE 4 (t / unitsPerSec) ++ bytesBE 4 (t / 65536 % 1000000000)

/-- Fragment `i` of a band as a UDP payload (R289, R292). -/
def State.bandPacket (s : State) (k : Nat) (d : BandDesc) (i seq : Nat) : List Byte :=
  let pay := d.fragments.getD i []
  bytesBE 1 (0x10 + d.kind.toNat) ++ [d.flags] ++ bytesBE 2 pay.length ++ bytesBE 4 (s.sid k) ++ bytesBE 4 seq
    ++ bytesBE 4 d.frame ++ bytesBE 1 d.band ++ bytesBE 1 i ++ bytesBE 1 d.fragments.length ++ [0]
    ++ bytesBE 2 d.width ++ bytesBE 2 d.line0 ++ bytesBE 2 d.nlines ++ bytesBE 2 d.tag.toNat
    ++ bytesBE 2 d.mgen.toNat ++ bytesBE 2 (d.chk.getD i 0).toNat ++ bytesBE 4 (d.pos.getD i 0)
    ++ relBytes (s.releaseAt k d.frame d.band) ++ pay

/-- An audio or silence packet as a UDP payload (R304). -/
def State.audioPacket (s : State) (k : Nat) (d : AudioDesc) (seq : Nat) : List Byte :=
  bytesBE 1 (if d.silence then 0x15 else 0x14) ++ bytesBE 1 (if d.late then 0x80 else 0)
    ++ bytesBE 2 (if d.silence then 0 else 192) ++ bytesBE 4 (s.sid k) ++ bytesBE 4 seq ++ bytesBE 4 d.pkt
    ++ relBytes d.rel ++ bytesBE 2 48 ++ bytesBE 2 0 ++ (if d.silence then [] else d.samples)

/-! ### The next packet of a sub-port (R326) -/

/-- What may leave a sub-port next. -/
inductive TxItem where
  | audio (k : Nat)
  | band (k : Nat)
  | marker (k : Nat)
  | control (k : Nat)
  | keeper
  deriving DecidableEq, Repr

/-- A candidate: its instant, its place among kinds, its slot, its priority, whether its band is begun. -/
structure TxCand where
  item : TxItem
  at' : Nat
  rank : Nat
  slot : Nat
  prio : Nat
  begun : Bool
  deriving DecidableEq, Repr

/-- TMODE in force for a frame (R398): it changes at frame starts. -/
def SlotSt.tapMode (x : SlotSt) (f : Nat) : Nat :=
  match x.tapLog.find? (fun e => decide (e.1 ≤ f)) with | some e => e.2.toNat | none => 0

/-- The first slip whose marker is still to be sent; the bands of TMODE 2 and 3 send none (R400). -/
def SlotSt.nextMarker (x : SlotSt) : Option Slip :=
  x.slips.find? (fun e => !e.markerSent && e.policy.toNat != 1 && decide (x.tapMode e.frame < 2))

/-- The video candidate of a slot: the earlier of its next marker and its first band, the marker first among equals. -/
def State.videoCand (s : State) (k : Nat) : Option TxCand :=
  let x := s.slot k
  let band := x.videoQ.head?.map (fun d =>
    { item := .band k, at' := s.releaseAt k d.frame d.band, rank := 1, slot := k, prio := flowPrio d.flow,
      begun := decide (0 < d.sentFragments) : TxCand })
  let mark := x.nextMarker.map (fun e =>
    { item := .marker k, at' := s.releaseAt k e.frame e.band, rank := 1, slot := k,
      prio := flowPrio (x.flowAt e.frame e.band), begun := false : TxCand })
  match band, mark with
  | some b, some m => if b.begun || decide (b.at' < m.at') then some b else some m
  | some b, none => some b
  | none, m => m

/-- The headers an item leaves with. -/
def State.itemFlow (s : State) : TxItem → FlowWords
  | .audio k => ((s.slot k).audioQ.head?.map (·.flow)).getD []
  | .band k => ((s.slot k).videoQ.head?.map (·.flow)).getD []
  | .marker k => (((s.slot k).nextMarker).map (fun e => (s.slot k).flowAt e.frame e.band)).getD []
  | .control k => ((s.slot k).controlQ.head?.map (·.flow)).getD []
  | .keeper => []

/-- The candidates of one slot. -/
def State.slotCands (s : State) (k : Nat) : List TxCand :=
  let x := s.slot k
  let audio := x.audioQ.head?.map (fun d =>
    { item := .audio k, at' := d.rel, rank := 0, slot := k, prio := flowPrio d.flow, begun := false : TxCand })
  let ctl := x.controlQ.head?.map (fun d =>
    { item := .control k, at' := d.pushed, rank := 2, slot := k, prio := flowPrio d.flow, begun := false : TxCand })
  (audio.toList ++ (s.videoCand k).toList ++ ctl.toList).filter (fun e => decide (e.at' ≤ s.clock.time))

/-! ### The Keeper transmit ring's head (R330) -/

def ringLen (ctrl : Nat) : Nat := if field ctrl 0 8 = 0 ∨ 128 < field ctrl 0 8 then 128 else field ctrl 0 8

/-- The descriptor at the head of a ring: receive at 0x400, transmit at 0x410. -/
def State.ringDesc (s : State) (o : Nat) : Nat :=
  s.regN (clsBase + o) + 2 ^ 32 * s.regN (clsBase + o + 4) + 32 * (s.regN (clsBase + o + 12) % 128)

def State.ringOn (s : State) (o : Nat) : Bool := (s.regN (clsBase + o + 8)).testBit 31

/-- A 64-bit Loam word as HD's agents read it: bits [31:0] at the lower address (R163). -/
def State.word64 (s : State) (a : Nat) : Nat := ofBytesLE (s.agentBytes 2 a 8)

/-- The head descriptor of a ring may be used by the device. -/
def State.ringOwned (s : State) (o : Nat) : Bool := s.ringOn o && (s.word64 (s.ringDesc o)).testBit 63

/-- Port, sub-port, length and buffer of the transmit head. -/
def State.ktxPort (s : State) : Nat := field (s.word64 (s.ringDesc 0x410 + 8)) 44 1
def State.ktxSub (s : State) : Nat := field (s.word64 (s.ringDesc 0x410 + 8)) 42 2
def State.ktxLen (s : State) : Nat := field (s.word64 (s.ringDesc 0x410 + 8)) 48 16
def State.ktxBuf (s : State) : Nat := field (s.word64 (s.ringDesc 0x410)) 0 48
def State.ktxFlags (s : State) : Nat := field (s.word64 (s.ringDesc 0x410)) 48 8

/-- The priority of a Keeper frame: the PCP of its own tag; a tag with VID 0 counts as none (R320, R329). -/
def framePrio (l : List Byte) : Nat :=
  if byteAt l 12 = 0x81 ∧ byteAt l 13 = 0 ∧ ofBytesBE ((l.drop 14).take 2) % 4096 ≠ 0 then (byteAt l 14).toNat / 32 else 0

/-- The transmit ring's candidate. -/
def State.keeperCand (s : State) : Option TxCand :=
  match s.ktxReady with
  | some t => if s.ringOwned 0x410 && decide (60 ≤ s.ktxLen ∧ s.ktxLen ≤ 4096) then
      some { item := .keeper, at' := t, rank := 3, slot := 0, prio := framePrio (s.agentBytes 2 s.ktxBuf 18), begun := false }
    else none
  | none => none

/-- One candidate goes before another (R326). -/
def TxCand.before (a b : TxCand) : Bool :=
  if a.begun != b.begun then a.begun
  else decide (a.at' < b.at' ∨ a.at' = b.at' ∧ (a.rank < b.rank ∨ a.rank = b.rank ∧ a.slot < b.slot))

/-- The sub-port an item leaves on. -/
def State.itemSub (s : State) (i : TxItem) : Nat × Nat :=
  match i with
  | .keeper => (s.ktxPort, s.ktxSub)
  | i => (flowPort (s.itemFlow i), flowSub (s.itemFlow i))

/-- The slots a session holds. -/
def State.slotNos (s : State) : List Nat := (s.slots.filter (fun e => e.2.ctx.isSome && !e.2.upper)).map (·.1)

/-- The packet a sub-port takes next (R326, R329). -/
def State.chooseNext (s : State) (p m : Nat) : Option TxCand :=
  let all := s.slotNos.flatMap s.slotCands ++ s.keeperCand.toList
  (all.filter (fun e => s.itemSub e.item == (p, m) && !(s.sub p m).paused.getLsbD e.prio)).foldl
    (fun best e => match best with
      | none => some e
      | some b => if e.before b then some e else some b) none

/-! ### Sending -/

/-- The LEDs of SRC 6 flash for a frame sent (after R457). -/
def State.flashLeds (s : State) : State :=
  { s with periph := { s.periph with ledLit := s.periph.ledLit ||| (List.range 6).foldl (fun (m : BitVec 6) k =>
    if field (s.regN (gpioBase + 0x3A0 + 4 * k)) 0 3 = 6 then m ||| (1#6 <<< k) else m) 0 } }

/-- A frame padded to the least length, its FCS apart (R314, R330). -/
def padFrame (l : List Byte) : List Byte := l ++ List.replicate (60 - l.length) 0

/-- A frame goes onto the wire of a sub-port with its transmit timestamp and holds its credits (R314, R318, R328). -/
def State.putOnWire (p m : Nat) (bytes : List Byte) (s : State) : State :=
  let x := s.sub p m
  ((s.setSub p m { x with held := x.held ++ [(padFrame bytes).length] }).flashLeds.send
    (.frame (Fin.ofNat 2 p) (Fin.ofNat 4 m) s.stamp (padFrame bytes))).spend

/-- A frame fits the credits a sub-port has left. -/
def State.fits (s : State) (p m : Nat) (bytes : List Byte) : Bool :=
  decide (frameCredits bytes.length ≤ s.creditFree p m)

/-- A session packet cannot leave and is discarded (R327). -/
def State.undeliverable (s : State) (f : FlowWords) : Bool :=
  !(flowValid f && s.lipUsable f) || !s.subUp (flowPort f) (flowSub f)

/-- The counter of R327 a discard adds to. -/
def State.countDiscard (f : FlowWords) (s : State) : State :=
  s.countReg (qmBase + (if flowValid f && s.lipUsable f then 0x104 else 0x100)) 1

/-- A session packet leaves, or is discarded under R327. None: it waits for credits. -/
def State.emit (f : FlowWords) (payload : List Byte) (s : State) : Option State :=
  if s.undeliverable f then some (s.countDiscard f)
  else
    let bytes := s.sessionFrame f payload
    if s.fits (flowPort f) (flowSub f) bytes then some (s.putOnWire (flowPort f) (flowSub f) bytes) else none

/-- STR_VPKTS or STR_APKTS counts a packet; it wraps (R312). -/
def State.countPkt (k o : Nat) (s : State) : State := s.setReg (strAddr k o) (s.regN (strAddr k o) + 1)

/-- One video SEQ is used (R290). -/
def State.useVseq (k : Nat) (s : State) : State :=
  (s.modSes (s.slotCtx k) (fun x => { x with vseq := x.vseq + 1 })).countPkt k 0x38

def State.vseqOf (s : State) (k : Nat) : Nat := s.sesD (s.slotCtx k) 0 (·.vseq.toNat)
def State.aseqOf (s : State) (k : Nat) : Nat := s.sesD (s.slotCtx k) 0 (·.aseq.toNat)

/-- A 32-bit word of a signed number of units as nanoseconds. -/
def unitsToNs (v : Int) : Nat := (v.tdiv 65536 % (2 ^ 32 : Nat)).toNat

/-- A measurement is published where a frame has one. -/
def State.publish (a : Nat) (v : Option Nat) (s : State) : State := match v with | some n => s.setReg a n | none => s

/-- A band has left or been discarded: its lead, where it reached its queue, and its jitter, where its first fragment was sent, enter
the frame's measurements, and with the frame's last band these are published (R311, R312). -/
def State.bandDone (k f b : Nat) (last : Bool) (lead : Option Int) (s : State) : State :=
  let x := s.slot k
  let lmin := Option.merge min x.leadMinF lead
  let jmax := Option.merge max x.jitMaxF x.jitNow
  let s1 := s.setSlot k { x with
    leadMinF := if last then none else lmin, jitMaxF := if last then none else jmax, jitNow := none
    releasedF := if last then f + 1 else f, releasedK := if last then 0 else b + 1
    sched := x.sched.filter (fun e => decide (f ≤ e.f + 1)) }
  if last then
    ((s1.publish (strAddr k 0x14) (lmin.map unitsToNs)).publish (strAddr k 0x1C) (jmax.map (· / 65536))).setReg (schAddr k 0x3C)
      (s1.regN (schAddr k 0x3C) + 1)
  else s1

/-- Bands discarded under REPEAT count as released as soon as every band before them has left (R102, R109; log entry 73). -/
def State.passDropped (k : Nat) : Nat → State → State
  | 0, s => s
  | n + 1, s =>
    let x := s.slot k
    let p := s.nextActive (s.slotCtx k) x.releasedF x.releasedK
    if x.dropped.contains p then
      State.passDropped k n ((s.setSlot k { x with dropped := x.dropped.filter (· != p) }).bandDone k p.1 p.2
        (!s.bandActive (s.slotCtx k) p.1 (p.2 + 1)) none)
    else s

/-- The last of a queued band's packets has left or been discarded. -/
def State.bandEnd (k : Nat) (d : BandDesc) (s : State) : State :=
  (s.bandDone k d.frame d.band (d.flags.getLsbD 3) (some d.lead)).passDropped k (s.slot k).dropped.length

/-- Bands that a video queue holds (R324): the returns of one band share its entry. -/
def SlotSt.videoBands (x : SlotSt) : List (Nat × Nat) := (x.videoQ.map (fun d => (d.frame, d.band))).eraseDups

/-- A message to a Plinth agent: DOORBELL with its code, slot and IDX (R397). -/
def State.doorbell (agent : Fin 4) (code : Word) (slot : Word) (idx : Reg32) (s : State) : State :=
  s.send (.message 3 (0xC0 + BitVec.ofNat 8 agent.val) code
    [slot, 0, BitVec.ofNat 16 idx.toNat, BitVec.ofNat 16 (idx.toNat / 65536)])

/-- The agent of a slot's tap entry. -/
def State.tapAgent (s : State) (k : Nat) : Fin 4 := Fin.ofNat 4 (field (s.regN (tapAddr k 0)) 4 2)

/-- A return of a slot's tap item has left or been discarded; after the last, DOORBELL SENT is sent (R400). -/
def State.returnLeft (k : Nat) (idx : Reg32) (s : State) : State :=
  match s.plinth.delivered.find? (fun e => e.slot.toNat == k && e.idx == idx) with
  | some e =>
    let rest := s.plinth.delivered.filter (fun e => !(e.slot.toNat == k && e.idx == idx))
    if e.done ∧ e.open_ ≤ 1 then
      { s with plinth := { s.plinth with delivered := rest } }.doorbell (s.tapAgent k) 2 (BitVec.ofNat 16 k) idx
    else { s with plinth := { s.plinth with delivered := rest ++ [{ e with open_ := e.open_ - 1 }] } }
  | none => s

/-- The payload of a return as the queue manager reads it from the Plinth window: what the guest answers is free (log
entry 1). None: the read fails. -/
def State.guestPayload (s : State) (len : Nat) : Option (List Byte) :=
  if Config.guestStatus s.fresh = 0 then
    some ((List.range len).map (fun i => BitVec.ofNat 8 ((Config.guestWord s.fresh (i / 2)).toNat / 256 ^ (i % 2))))
  else none

/-- A returned packet leaves, or is discarded and counted in PLN_T_RETBAD. None: it waits for credits (R400). -/
def State.sendReturn (k : Nat) (f : FlowWords) (r : TapBuf) (o : Nat) (s : State) : Option State :=
  match s.guestPayload r.len with
  | none => some ((s.countReg (plnBase + 0x14) 1).spend.returnLeft k r.idx)
  | some l => (s.emit f l).map (fun s1 => (s1.spend.countPkt k o).returnLeft k r.idx)

/-- The next fragment of a slot's first band leaves (R293). -/
def State.sendFragment (k : Nat) (s : State) : State :=
  match (s.slot k).videoQ with
  | d :: q =>
    match d.returned with
    | some r =>
      (match s.sendReturn k d.flow r 0x38 with
      | none => s
      | some s1 =>
        let s2 := s1.modSlot k (fun x => { x with videoQ := q })
        if r.last ∧ d.fragments.isEmpty then s2.bandEnd k d else s2)
    | none =>
    match s.emit d.flow (s.bandPacket k d d.sentFragments (s.vseqOf k)) with
    | none => s
    | some s1 =>
      let jit := s.stamp - s.releaseAt k d.frame d.band
      let s2 := if d.sentFragments = 0 ∧ !s.undeliverable d.flow then
          (s1.modSlot k (fun x => { x with jitNow := some jit })).setReg (strAddr k 0x18) (jit / 65536)
        else s1
      let s3 := s2.useVseq k
      if d.sentFragments + 1 < d.fragments.length then
        s3.modSlot k (fun x => { x with videoQ := { d with sentFragments := d.sentFragments + 1 } :: q })
      else (s3.modSlot k (fun x => { x with videoQ := q, slips := x.slips.filter (fun e =>
        !(e.frame == d.frame && e.band == d.band && e.markerSent)) })).bandEnd k d
  | [] => s

/-- An audio packet enters its queue: late where that is after its release instant less GUARD (R269). -/
def State.enterAudio (k : Nat) (d : AudioDesc) (s : State) : State :=
  let late := decide (d.rel < s.clock.time + s.guardOf k)
  let s1 := s.modSlot k (fun x => { x with audioQ := x.audioQ ++ [{ d with late := late }] })
  if late then s1.modSes (s.slotCtx k) (·.countIo 0xFAD5 1) else s1

/-- A packet leaves an audio queue; the first that waits for room enters it (R324). -/
def State.popAudio (k : Nat) (q : List AudioDesc) (s : State) : State :=
  match (s.slot k).audioWait with
  | d :: l => (s.modSlot k (fun x => { x with audioQ := q, audioWait := l })).enterAudio k d
  | [] => s.modSlot k (fun x => { x with audioQ := q })

/-- The first audio packet of a slot leaves (R269, R304). -/
def State.sendAudio (k : Nat) (s : State) : State :=
  match (s.slot k).audioQ with
  | d :: q =>
    match d.returned with
    | some r =>
      (match s.sendReturn k d.flow r 0x3C with
      | none => s
      | some s1 => s1.popAudio k q)
    | none =>
    match s.emit d.flow (s.audioPacket k d (s.aseqOf k)) with
    | none => s
    | some s1 =>
      ((s1.popAudio k q).modSes (s.slotCtx k) (fun x =>
        { x with aseq := x.aseq + 1 })).countPkt k 0x3C
  | [] => s

/-- The first control packet of a slot leaves (R325): the queue manager reads its payload over Loam, and acts on a persistent read
(R391; log entry 67). -/
def State.sendControl (k : Nat) (s : State) : State :=
  match (s.slot k).controlQ with
  | d :: q =>
    match s.emit d.flow (s.agentBytes 2 d.buf.toNat d.len) with
    | none => s
    | some s1 => (s1.agentRead nodeQm d.buf.toNat d.len).modSlot k (fun x => { x with controlQ := q })
  | [] => s

/-- Output width and height of a frame, its DEPTH, and the lines a band carries, as the frame's committed timing and
scaling fix them (R225, R227, R294). -/
structure BandGeom where
  width : Nat
  height : Nat
  depth : Nat
  line0 : Nat
  nlines : Nat
  endf : Bool
  deriving DecidableEq, Repr

/-- The output size: the scaled value, or the active one where it is 0 (R225). -/
def outSize (set active : Nat) : Nat := if set = 0 then active else set

/-- Output lines whose last source line lies below a line (R227). -/
def outLinesBelow (hs ho line : Nat) : Nat := line * ho / hs

/-- Output lines of whole groups (block rows of 8, or line pairs). -/
def groupFloor (kind n : Nat) : Nat := if kind = 2 then n / 2 * 2 else n / 8 * 8

/-- DEPTH: 0 6 bits, 1 8 bits, 2 10 bits; 3 acts as 1. -/
def depthField (outctrl : Nat) : Nat := if field outctrl 0 2 = 3 then 1 else field outctrl 0 2

/-- The geometry of a band (R292, R294). `from'`: the first line the band may carry where virtual time resumed inside
the band period (R45). -/
def State.bandGeomOf (s : State) (kind k f b : Nat) : BandGeom :=
  let c := s.slotCtx k
  let h := s.bandH k
  match s.ses c with
  | some x =>
    let ws := x.timingOf f 1
    let hs := max 1 (x.timingOf f 3)
    let out := fun a => x.valueAt .live a f 0 0
    let bad := out scaleWord != 0
    let ow := outSize (if bad then 0 else out 0xF631) ws
    let oh := outSize (if bad then 0 else out 0xF632) hs
    let first := if f = (s.slot k).firstF then (s.slot k).firstLine else 0
    let l0 := groupFloor kind (outLinesBelow hs oh (min hs (max first (b * h))))
    let l1 := groupFloor kind (outLinesBelow hs oh (min hs ((b + 1) * h)))
    { width := ow, height := oh, depth := depthField (out 0xF630), line0 := l0, nlines := l1 - l0,
      endf := decide (hs ≤ (b + 1) * h) }
  | none => { width := 0, height := 0, depth := 0, line0 := 0, nlines := 0, endf := false }

/-- The geometry of a band as its stream carries it. -/
def State.bandGeom (s : State) (k f b : Nat) : BandGeom := s.bandGeomOf ((s.slot k).kindAt f) k f b

/-! ### Taps (R399) -/

/-- The packets of a band in TMODE 3: each takes its SEQ, and goes to the tap in place of the queue. -/
def State.tapPackets (c : CtxNo) (k : Nat) (d : BandDesc) (s : State) : State :=
  let depth := field d.flags.toNat 1 2
  (List.range d.fragments.length).foldl (fun (s : State) i =>
    let seq := s.vseqOf k
    let item : TapItem :=
      { kind := 2, frame := d.frame, band := d.band, depth := if depth = 2 then 10 else 8, width := d.width,
        line0 := d.line0, nlines := d.nlines, rel := s.releaseAt k d.frame d.band, late := d.late, seq := seq,
        flags := d.flags, final := decide (i + 1 = d.fragments.length), data := s.bandPacket k d i seq }
    (s.modSlot k (fun y => { y with tapQ := y.tapQ ++ [item] })).modSes c (fun x => { x with vseq := x.vseq + 1 })) s

/-- An audio packet in TMODE 3. -/
def State.tapAudio (c : CtxNo) (k : Nat) (d : AudioDesc) (f : Nat) (s : State) : State :=
  let seq := s.aseqOf k
  let item : TapItem :=
    { kind := 3, frame := f, band := 0, depth := 8, width := 0, line0 := 0, nlines := 0, rel := d.rel, late := d.late,
      seq := seq, flags := 0, final := true, data := s.audioPacket k d seq }
  (s.modSlot k (fun y => { y with tapQ := y.tapQ ++ [item] })).modSes c (fun x => { x with aseq := x.aseq + 1 })

/-- The current mirror generation, for the marker of a band of a frame; 0 for a plane stream (R295). -/
def State.mgenNow (s : State) (k f : Nat) : Word :=
  if (s.slot k).kindAt f = 1 then s.sesD (s.slotCtx k) 0 (·.mgen) else 0

/-- A slip's marker (R295). -/
def State.markerDesc (s : State) (k : Nat) (e : Slip) : BandDesc :=
  let g := s.bandGeom k e.frame e.band
  { frame := e.frame, band := e.band,
    flags := BitVec.ofNat 8 (b2n g.endf * 8 + g.depth * 2 + (if e.policy = 0 then 0 else 1)), fragments := [[]],
    lead := 0, tag := s.sesD (s.slotCtx k) 0 (·.ioW 0xFD01), chk := [0], pos := [0], mgen := s.mgenNow k e.frame,
    width := g.width, line0 := g.line0, nlines := g.nlines, kind := 3, flow := (s.slot k).flowAt e.frame e.band,
    late := false, sentFragments := 0, returned := none }

/-- The first marker due on a slot leaves. -/
def State.sendMarker (k : Nat) (s : State) : State :=
  match (s.slot k).nextMarker with
  | some e =>
    match s.emit ((s.slot k).flowAt e.frame e.band) (s.bandPacket k (s.markerDesc k e) 0 (s.vseqOf k)) with
    | none => s
    | some s1 => (s1.useVseq k).modSlot k (fun x => { x with slips := x.slips.map (fun y =>
        if y = e then { y with markerSent := true } else y) })
  | none => s

/-- A 64-bit Loam word is written (R163). -/
def State.setWord64 (a v : Nat) (s : State) : State := s.agentStore 2 a (bytesLE 8 v)

/-- Checksums of a Keeper frame are filled (R330): IPv4 header, and UDP where the packet is one. A packet with options, a fragment and
one with extension headers are left as they are (R315). -/
def fillChecksums (l : List Byte) : List Byte :=
  let t := if byteAt l 12 = 0x81 ∧ byteAt l 13 = 0 then 18 else 14
  let et := ofBytesBE ((l.drop (t - 2)).take 2)
  if et = 0x0800 ∧ byteAt l t = 0x45 ∧ ofBytesBE ((l.drop (t + 6)).take 2) % 0x4000 = 0 then
    let hd := (l.drop t).take 20
    let hd0 := hd.take 10 ++ bytesBE 2 0 ++ hd.drop 12
    let hd1 := hd.take 10 ++ bytesBE 2 (inetSum hd0) ++ hd.drop 12
    let rest := l.drop (t + 20)
    let rest1 := if byteAt hd 9 = 17 then
        let len := ofBytesBE ((rest.drop 4).take 2)
        udpBytes ((hd.drop 12).take 4) ((hd.drop 16).take 4) (ofBytesBE (rest.take 2)) (ofBytesBE ((rest.drop 2).take 2))
          ((rest.drop 8).take (len - 8)) ++ rest.drop len
      else rest
    l.take t ++ hd1 ++ rest1
  else if et = 0x86DD ∧ byteAt l (t + 6) = 17 then
    let rest := l.drop (t + 40)
    let len := ofBytesBE ((rest.drop 4).take 2)
    l.take (t + 40) ++ udpBytes ((l.drop (t + 8)).take 16) ((l.drop (t + 24)).take 16) (ofBytesBE (rest.take 2))
      (ofBytesBE ((rest.drop 2).take 2)) ((rest.drop 8).take (len - 8)) ++ rest.drop len
  else l

/-- The transmit descriptor at the head is given back, with a timestamp where asked for, and the head moves on
(R330). `sent`: the transmit timestamp, none where the frame is not sent. -/
def State.ktxReturn (len : Nat) (sent : Option Clock) (s : State) : State :=
  let a := s.ringDesc 0x410
  let s1 := match sent with
    | some c => if s.ktxFlags.testBit 0 then
        (s.setWord64 (a + 16) c.secs).setWord64 (a + 24) (c.nanos * 2 ^ 32 + c.frac * 2 ^ 16)
      else s
    | none => s
  let s2 := s1.setWord64 (a + 8) (s1.word64 (a + 8) % 2 ^ 48 + len * 2 ^ 48)
  let s3 := s2.setWord64 a (s2.word64 a % 2 ^ 63)
  let s4 := s3.setReg (clsBase + 0x41C) ((s3.regN (clsBase + 0x41C) + 1) % ringLen (s3.regN (clsBase + 0x418)))
  { s4 with ktxReady := none }.raiseP 16

end Sys2Proof.Machine
end

