-- ==== Sys2Proof/Machine/Render.lean ====
section
/-! DEFINITION. One line of picture (R178 to R201, R216 to R224): layers, sprites, charges and suppression, windows,
depth order, blending; and LINE_RENDER. -/

namespace Sys2Proof.Machine

/-- What a line is drawn from: the session, the frame, the line, and the V words as they stood at the fetch instant
(R203), by bank and address. -/
structure LineSrc where
  ses : Session
  frame : Nat
  line : Nat
  v : Nat → Nat → Nat

/-- A register at a pixel of the line (R199). -/
def LineSrc.at (q : LineSrc) (a sx : Nat) : Nat := q.ses.regAt a q.frame q.line sx

/-- A field sampled for the whole line (R201). -/
def LineSrc.ctl (q : LineSrc) (a : Nat) : Nat := q.at a 0

/-- Active width of the line. -/
def LineSrc.width (q : LineSrc) : Nat := q.ses.timingOf q.frame 1

/-- A V word of a layer: its address modulo 0x1_0000, its bank (R178). -/
def LineSrc.word (q : LineSrc) (bank a : Nat) : Nat := q.v (q.ses.bankOf bank) (a % 65536)

/-- Pixel `x` of a row of depth 4 or 8 bits that begins at a word (R180). -/
def LineSrc.pixel (q : LineSrc) (bank deep row x : Nat) : Nat :=
  if deep = 0 then field (q.word bank (row + x / 4)) (12 - 4 * (x % 4)) 4
  else field (q.word bank (row + x / 2)) (if x % 2 = 0 then 8 else 0) 8

/-- Words of a row of W pixels. -/
def rowWords (w deep : Nat) : Nat := if deep = 0 then w / 4 else w / 2

/-- A palette entry's colour at a pixel (R181, R199). -/
def LineSrc.pal (q : LineSrc) (i sx : Nat) : Nat := (q.ses.palAt i q.frame q.line sx).toNat

/-! ### Tile planes (R183 to R186) -/

def plnAddr (p r : Nat) : Nat := 0xF100 + 16 * p + r

def LineSrc.planeOn (q : LineSrc) (p : Nat) : Bool := (q.ctl (plnAddr p 0)).testBit 0

/-- Tile size of a plane on the line. -/
def LineSrc.tile (q : LineSrc) (p : Nat) : Nat := if (q.ctl (plnAddr p 0)).testBit 1 then 16 else 8

/-- The map entry that pixel `sx` shows, with its place in the tile before flips (R184). -/
def LineSrc.mapEntry (q : LineSrc) (p sx : Nat) : Nat × Nat × Nat :=
  let ctrl := q.ctl (plnAddr p 0)
  let t := q.tile p
  let mw := 32 * 2 ^ min (field ctrl 3 2) 2
  let mh := 32 * 2 ^ min (field ctrl 5 2) 2
  let bank := field ctrl 9 2
  let ls := field ctrl 7 2
  let lb := q.at (plnAddr p 6) sx
  let hs := q.at (plnAddr p 4) sx
    + (if ls = 1 then q.word bank (lb + q.line) else if 2 ≤ ls then q.word bank (lb + 2 * q.line) else 0)
  let vs := q.at (plnAddr p 5) sx + (if 2 ≤ ls then q.word bank (lb + 2 * q.line + 1) else 0)
  let px := (sx + hs) % (mw * t)
  let py := (q.line + vs) % (mh * t)
  (q.word bank (q.at (plnAddr p 1) sx + py / t * mw + px / t), px % t, py % t)

/-- A tile is marked opaque (R186). -/
def LineSrc.tileOpaque (q : LineSrc) (p sx e : Nat) : Bool :=
  let ctrl := q.ctl (plnAddr p 0)
  ctrl.testBit 11 && (q.word (field ctrl 9 2) (q.at (plnAddr p 7) sx + e % 1024 / 16)).testBit (e % 16)

/-- A tile plane's pixel: its colour and map PRI, none where transparent. -/
def LineSrc.tilePixel (q : LineSrc) (p sx : Nat) : Option (Nat × Nat) :=
  if !q.planeOn p then none
  else
    let ctrl := q.ctl (plnAddr p 0)
    let t := q.tile p
    let deep := field ctrl 2 1
    let m := q.mapEntry p sx
    let e := m.1
    let x := if e.testBit 13 then t - 1 - m.2.1 else m.2.1
    let y := if e.testBit 14 then t - 1 - m.2.2 else m.2.2
    let row := q.at (plnAddr p 2) sx + e % 1024 * (t * rowWords t deep) + y * rowWords t deep
    let v := q.pixel (field ctrl 9 2) deep row x
    if v = 0 ∧ !q.tileOpaque p sx e then none
    else some (q.pal (q.at (plnAddr p 3) sx + 16 * field e 10 3 + v) sx, field e 15 1)

/-! ### Sprites (R187 to R189, R192, R193) -/

/-- A sprite selected for the line. -/
structure Sprite where
  num : Nat
  row : Nat
  x : Int
  w : Nat
  hf : Bool
  deep : Nat
  pri : Nat
  pal : Nat
  deriving DecidableEq, Repr

def LineSrc.spritesOn (q : LineSrc) : Bool := (q.ctl 0xF400).testBit 0
def LineSrc.sprBank (q : LineSrc) : Nat := field (q.ctl 0xF400) 1 2

/-- Sprite `i`, when it is on the line. -/
def LineSrc.sprite (q : LineSrc) (i : Nat) : Option Sprite :=
  let w := fun k => q.word q.sprBank (q.ctl 0xF401 + 4 * i + k)
  let h := (field (w 0) 12 3 + 1) * 8
  let d : Int := (q.line : Int) - sext 11 (w 0)
  if (w 0).testBit 15 ∧ 0 ≤ d ∧ d < h then
    let r := if (w 0).testBit 11 then h - 1 - d.toNat else d.toNat
    let wd := (field (w 1) 13 3 + 1) * 8
    let deep := field (w 1) 11 1
    some { num := i, row := q.ctl 0xF402 + w 2 + r * rowWords wd deep, x := sext 11 (w 1), w := wd,
           hf := (w 1).testBit 12, deep := deep, pri := field (w 3) 14 2, pal := 16 * field (w 3) 0 7 }
  else none

/-- Sprites on the line, in ascending order. -/
def LineSrc.onLine (q : LineSrc) : List Sprite :=
  if q.spritesOn then (List.range (if q.ses.grand then 512 else 128)).filterMap q.sprite else []

/-- Sprites a line may select. -/
def LineSrc.spriteLimit (q : LineSrc) : Nat := if q.ses.grand then 96 else 32

def LineSrc.selected (q : LineSrc) : List Sprite := q.onLine.take q.spriteLimit

/-- A sprite's charge (R192). -/
def Sprite.charge (e : Sprite) : Nat := 1 + rowWords e.w e.deep

/-- Charge of a tile plane on the line. -/
def LineSrc.planeCharge (q : LineSrc) (p : Nat) : Nat :=
  if !q.planeOn p then 0
  else
    let ctrl := q.ctl (plnAddr p 0)
    let t := q.tile p
    ((q.width + t - 1) / t + 1) * (1 + rowWords t (field ctrl 2 1)) + min (field ctrl 7 2) 2

def LineSrc.bitmapOn (q : LineSrc) : Bool := (q.ctl 0xF180).testBit 0
def LineSrc.bitmapFmt (q : LineSrc) : Nat := field (q.ctl 0xF180) 1 2

def LineSrc.bitmapCharge (q : LineSrc) : Nat :=
  if !q.bitmapOn then 0
  else match q.bitmapFmt with
    | 0 => (q.width + 3) / 4
    | 1 => (q.width + 1) / 2
    | 2 => q.width
    | _ => (3 * q.width + 1) / 2

def LineSrc.movieOn (q : LineSrc) : Bool := (q.ctl 0xF1C0).testBit 0

def LineSrc.movieCharge (q : LineSrc) : Nat :=
  if q.movieOn then (q.width + 1) / 2 + 2 * (((q.width + 1) / 2 + 1) / 2) else 0

/-- The line's budget in words (R193). -/
def LineSrc.budget (q : LineSrc) : Nat := 8 * max q.width 64

/-- What the fixed layers are charged. -/
def LineSrc.fixedCharge (q : LineSrc) : Nat :=
  q.movieCharge + q.bitmapCharge + ((List.range 6).map q.planeCharge).sum

/-- Sprites that fit what remains; the first that does not ends the list (R193). -/
def drawnWithin : Nat → List Sprite → List Sprite
  | _, [] => []
  | left, e :: l => if e.charge ≤ left then e :: drawnWithin (left - e.charge) l else []

def LineSrc.drawn (q : LineSrc) : List Sprite := drawnWithin (q.budget - q.fixedCharge) q.selected

/-- A sprite's pixel value at `sx`, 0 where it does not reach. -/
def LineSrc.spriteValue (q : LineSrc) (sx : Nat) (e : Sprite) : Nat :=
  let c : Int := (sx : Int) - e.x
  if 0 ≤ c ∧ c < e.w then
    q.pixel q.sprBank e.deep e.row (if e.hf then e.w - 1 - c.toNat else c.toNat)
  else 0

/-- The sprite layer's pixel from the drawn sprites: its colour and PRI (R189). -/
def LineSrc.spritePixel (q : LineSrc) (l : List Sprite) (sx : Nat) : Option (Nat × Nat) :=
  (l.find? (fun e => q.spriteValue sx e != 0)).map (fun e => (q.pal (e.pal + q.spriteValue sx e) sx, e.pri))

/-! ### Bitmap and movie (R190, R191, R223) -/

/-- The bitmap pixel that a position reads, where its rectangle holds it. -/
def LineSrc.bitmapAt (q : LineSrc) (sx : Nat) : Option (Nat × Nat) :=
  let bx := (sx + q.at 0xF185 sx) % 2048
  let by' := (q.line + q.at 0xF186 sx) % 2048
  if q.bitmapOn ∧ bx < q.at 0xF183 sx ∧ by' < q.at 0xF184 sx then some (bx, by') else none

def LineSrc.bitmapPixel (q : LineSrc) (sx : Nat) : Option Nat :=
  match q.bitmapAt sx with
  | none => none
  | some (bx, by') =>
    let bank := field (q.ctl 0xF180) 3 2
    let row := q.at 0xF181 sx + by' * q.at 0xF182 sx
    let byte := fun k => field (q.word bank (row + k / 2)) (if k % 2 = 0 then 8 else 0) 8
    match q.bitmapFmt with
    | 2 =>
      let w := q.word bank (row + bx)
      let r := field w 11 5
      let g := field w 5 6
      let b := field w 0 5
      some ((r * 8 + r / 4) * 65536 + (g * 4 + g / 16) * 256 + (b * 8 + b / 4))
    | 3 => some (byte (3 * bx) * 65536 + byte (3 * bx + 1) * 256 + byte (3 * bx + 2))
    | n =>
      let v := q.pixel bank n row bx
      if v = 0 then none else some (q.pal (q.at 0xF187 sx + v) sx)

/-- The movie sample that a position reads, where its rectangle holds it. -/
def LineSrc.movieAt (q : LineSrc) (sx : Nat) : Option (Nat × Nat) :=
  let mx := (sx + q.at 0xF1C8 sx) % 2048
  let my := (q.line + q.at 0xF1C9 sx) % 2048
  if q.movieOn ∧ mx < q.at 0xF1C6 sx ∧ my < q.at 0xF1C7 sx then some (mx, my) else none

/-- Kr and Kb of a matrix in ten-thousandths (R229). -/
def matrixK (bt709 : Bool) : Int × Int := if bt709 then (2126, 722) else (2990, 1140)

/-- A fraction rounded to the nearest integer, halves upward. -/
def roundHalf (num den : Int) : Int := (2 * num + den) / (2 * den)

/-- Y, Cb, Cr at 8 bits as RGB (R223). -/
def movieRgb (bt709 full : Bool) (y cb cr : Nat) : Nat :=
  let k := matrixK bt709
  let dy : Int := if full then 255 else 219
  let dc : Int := if full then 255 else 224
  let yy : Int := (y : Int) - (if full then 0 else 16)
  let pb : Int := (cb : Int) - 128
  let pr : Int := (cr : Int) - 128
  let d : Int := dy * dc * 10000
  let ny : Int := 255 * yy * dc * 10000
  let nr : Int := ny + 510 * (10000 - k.1) * pr * dy
  let nb : Int := ny + 510 * (10000 - k.2) * pb * dy
  let ng : Int := 10000 * ny - k.1 * nr - k.2 * nb
  let r := (clampInt 0 255 (roundHalf nr d)).toNat
  let b := (clampInt 0 255 (roundHalf nb d)).toNat
  let g := (clampInt 0 255 (roundHalf ng (d * (10000 - k.1 - k.2)))).toNat
  r * 65536 + g * 256 + b

def LineSrc.moviePixel (q : LineSrc) (sx : Nat) : Option Nat :=
  match q.movieAt sx with
  | none => none
  | some (mx, my) =>
    let ctrl := q.ctl 0xF1C0
    let bank := field ctrl 2 2
    let sub := field ctrl 1 1
    let r0 := q.at 0xF1CA sx
    let ring := if sub = 0 then r0 / 2 * 2 else r0
    let cy := if sub = 0 then my / 2 else my
    let cring := if sub = 0 then ring / 2 else ring
    let lrow := (if ring = 0 then my else my % ring) * q.at 0xF1C4 sx
    let crow := (if cring = 0 then cy else cy % cring) * q.at 0xF1C5 sx
    let smp := fun base k => q.pixel bank 1 base k
    let out := q.at 0xF630 sx
    some (movieRgb (out.testBit 5) (out.testBit 6) (smp (q.at 0xF1C1 sx + lrow) mx)
      (smp (q.at 0xF1C2 sx + crow) (mx / 2)) (smp (q.at 0xF1C3 sx + crow) (mx / 2)))

/-! ### Windows, depth and blending (R216 to R220) -/

/-- A window holds the pixel (R218). -/
def LineSrc.inWindow (q : LineSrc) (w sx : Nat) : Bool :=
  let e := fun i => q.at (0xF610 + 4 * w + i) sx
  let inside := decide (e 0 ≤ sx ∧ sx ≤ e 1 ∧ e 2 ≤ q.line ∧ q.line ≤ e 3)
  inside != (q.at 0xF618 sx).testBit w

/-- The region of a pixel. -/
def LineSrc.region (q : LineSrc) (sx : Nat) : Nat := b2n (q.inWindow 0 sx) + 2 * b2n (q.inWindow 1 sx)

/-- A layer's window field (R219): layers 0 to 5 planes, 6 sprites, 7 bitmap, 8 movie. -/
def LineSrc.winField (q : LineSrc) (layer sx : Nat) : Nat :=
  if layer < 4 then field (q.at 0xF608 sx) (4 * layer) 4
  else if layer < 6 then field (q.at 0xF609 sx) (4 * (layer - 4)) 4
  else if layer = 6 then field (q.at 0xF609 sx) 8 4
  else if layer = 7 then field (q.at 0xF609 sx) 12 4
  else field (q.at 0xF60A sx) 0 4

def LineSrc.winOpen (q : LineSrc) (layer sx : Nat) : Bool := (q.winField layer sx).testBit (q.region sx)

/-- Blending is open in the pixel's region (R220). -/
def LineSrc.blendOpen (q : LineSrc) (sx : Nat) : Bool := (field (q.at 0xF60A sx) 4 4).testBit (q.region sx)

/-- A candidate at a pixel: its depth, layer and colour. -/
structure Cand where
  depth : Nat
  layer : Nat
  colour : Nat
  deriving DecidableEq, Repr

/-- The depth of a layer's pixel by its priority (R216). -/
def LineSrc.depth (q : LineSrc) (layer pri sx : Nat) : Nat :=
  if layer < 6 then field (q.at (0xF600 + layer) sx) (4 * pri) 4
  else if layer = 6 then field (q.at 0xF606 sx) (4 * pri) 4
  else if layer = 7 then field (q.at 0xF607 sx) 0 4
  else field (q.at 0xF607 sx) 4 4

/-- The layers in the tie order (R217). -/
def tieOrder : List Nat := [6, 0, 1, 2, 3, 4, 5, 7, 8]

/-- A layer's pixel: colour and priority, none where transparent. -/
def LineSrc.layerPixel (q : LineSrc) (l : List Sprite) (layer sx : Nat) : Option (Nat × Nat) :=
  if layer < 6 then q.tilePixel layer sx
  else if layer = 6 then q.spritePixel l sx
  else if layer = 7 then (q.bitmapPixel sx).map (fun v => (v, 0))
  else (q.moviePixel sx).map (fun v => (v, 0))

/-- The candidates of a pixel in the tie order (R217). -/
def LineSrc.cands (q : LineSrc) (l : List Sprite) (sx : Nat) : List Cand :=
  tieOrder.filterMap (fun n =>
    match q.layerPixel l n sx with
    | some (v, pri) => if q.winOpen n sx then some { depth := q.depth n pri sx, layer := n, colour := v } else none
    | none => none)

/-- The candidate of highest depth, the earlier among equals. -/
def topCand (l : List Cand) : Option Cand :=
  l.foldl (fun best e => match best with
    | none => some e
    | some b => if b.depth < e.depth then some e else some b) none

/-- One component of the blend (R220). -/
def blendPart (a b t u : Nat) : Nat := min 255 ((t * a + u * b + 8) / 16)

def colourMap2 (f : Nat → Nat → Nat) (x y : Nat) : Nat :=
  f (x / 65536 % 256) (y / 65536 % 256) * 65536 + f (x / 256 % 256) (y / 256 % 256) * 256 + f (x % 256) (y % 256)

/-- The composed colour of a pixel (R217, R220). -/
def LineSrc.compose (q : LineSrc) (l : List Sprite) (sx : Nat) : Nat :=
  let cs := q.cands l sx
  let back := q.pal (q.at 0xF622 sx) sx
  match topCand cs with
  | none => back
  | some t =>
    let second := match topCand (cs.filter (· != t)) with
      | some u => (u.layer, u.colour)
      | none => (9, back)
    if (q.at 0xF60B sx).testBit t.layer ∧ (q.at 0xF60C sx).testBit second.1 ∧ q.blendOpen sx then
      let al := q.at 0xF620 sx
      colourMap2 (blendPart (min 16 (field al 0 5)) (min 16 (field al 8 5))) t.colour second.2
    else t.colour

/-! ### Suppression and clocks (R195 to R197, R221) -/

/-- The place of a layer in the tie order. -/
def tieRank (layer : Nat) : Nat := tieOrder.findIdx (· == layer)

def LineSrc.lowDepth (q : LineSrc) (n sx : Nat) : Nat := if n < 6 then min (q.depth n 0 sx) (q.depth n 1 sx) else q.depth n 0 sx
def LineSrc.highDepth (q : LineSrc) (n sx : Nat) : Nat :=
  if n < 6 then max (q.depth n 0 sx) (q.depth n 1 sx)
  else if n = 6 then max (max (q.depth 6 0 sx) (q.depth 6 1 sx)) (max (q.depth 6 2 sx) (q.depth 6 3 sx))
  else q.depth n 0 sx

/-- Every tile the line touches on a plane is opaque. -/
def LineSrc.planeOpaque (q : LineSrc) (p : Nat) : Bool :=
  q.planeOn p && (List.range q.width).all (fun sx => q.tileOpaque p sx (q.mapEntry p sx).1)

/-- A layer covers at a pixel in one of the forms of R195; `po` tells the planes that are opaque over the line. -/
def LineSrc.opaqueAt (q : LineSrc) (po : List Bool) (n sx : Nat) : Bool :=
  if n < 6 then po.getD n false
  else if n = 7 then (q.bitmapAt sx).isSome && decide (2 ≤ q.bitmapFmt)
  else if n = 8 then (q.movieAt sx).isSome
  else false

/-- Layer `y` covers layer `n` at a pixel (R221). -/
def LineSrc.covers (q : LineSrc) (po : List Bool) (y n sx : Nat) : Bool :=
  y != n && q.opaqueAt po y sx && q.winOpen y sx && !((q.at 0xF60B sx).testBit y && q.blendOpen sx)
    && decide (q.highDepth n sx < q.lowDepth y sx ∨ q.highDepth n sx = q.lowDepth y sx ∧ tieRank y < tieRank n)

/-- A layer is suppressed on the line (R195). -/
def LineSrc.suppressed (q : LineSrc) (po : List Bool) (n : Nat) : Bool :=
  (List.range q.width).all (fun sx => tieOrder.any (fun y => q.covers po y n sx))

/-- Charged words the line fetches (R197). -/
def LineSrc.fetched (q : LineSrc) (l : List Sprite) : Nat :=
  let po := (List.range 6).map q.planeOpaque
  let of := fun n c => if c = 0 ∨ q.suppressed po n then 0 else c
  ((List.range 6).map (fun p => of p (q.planeCharge p))).sum + of 7 q.bitmapCharge + of 8 q.movieCharge
    + of 6 (l.map Sprite.charge).sum

/-- Words the evaluation port reads (R197). -/
def LineSrc.evaluated (q : LineSrc) : Nat :=
  (if q.spritesOn then (if q.ses.grand then 512 else 128) else 0)
    + 64 * ((List.range 6).filter (fun p => q.planeOn p && (q.ctl (plnAddr p 0)).testBit 11)).length

/-- Line-engine clocks of the line (R197). -/
def LineSrc.clocks (q : LineSrc) (l : List Sprite) : Nat :=
  max ((q.width + 3) / 4) (max ((q.fetched l + 31) / 32) ((q.evaluated + 31) / 32)) + 8

/-! ### The line on the machine -/

/-- The source of a line: V words undone to the fetch instant (R203, R204). -/
def State.lineSrc (s : State) (c : CtxNo) (x : Session) (f l : Nat) : LineSrc :=
  { ses := x, frame := f, line := l
    v := fun bank a => (x.vOld bank a (x.fetchCycle f l) (s.peek c (vPage bank a) (a % 2048))).toNat }

/-- The overflow flags of a line (R188, R193, R194). -/
def Session.overflow (line : Nat) (lineOvf fetchOvf : Bool) (x : Session) : Session :=
  if !lineOvf && !fetchOvf then x
  else
    let y := if x.ioN 0xF404 = 0 then x.setIo 0xF405 (0x8000 + line % 1024) else x
    y.orIo 0xF404 (b2n lineOvf + 2 * b2n fetchOvf)

/-- The line after a rendered one: the next active line, or line 0 of the next frame. -/
def Session.nextLine (x : Session) (f l : Nat) : Nat × Nat := if l + 1 < x.timingOf f 3 then (f, l + 1) else (f + 1, 0)

/-- A line is ready: virtual time has passed its end (R99). -/
def Session.lineReady (x : Session) (f l : Nat) : Bool :=
  decide (f < x.frame ∨ f = x.frame ∧ (l + 1) * x.cpl ≤ x.vcyc) && decide (l < x.timingOf f 3)

/-- Journal and beam entries, and frames, that no line still to be drawn needs, nor a sample to be mixed, are released (R204). -/
def Session.prune (codedF f l : Nat) (x : Session) : Session :=
  { x.pruneJournal f l with
    undo := x.undo.filter (fun e => decide (min codedF f ≤ e.frame))
    past := x.past.filter (fun e => decide (min codedF (min f (x.lpg.frame - 1)) ≤ e.f)
      || x.snd.due.any (fun d => decide (e.start ≤ d ∧ d < x.cpu.now - x.vcyc))) }

/-- Stores to SPR_STAT that landed in a line or an earlier one clear its bits; SPR_OVFLINE.VALID follows (R194). -/
def Session.spriteClears (f l : Nat) (x : Session) : Session :=
  let due := fun (e : Nat × Nat × Word) => decide (e.1 < f ∨ e.1 = f ∧ e.2.1 ≤ l)
  (x.sprClears.filter due).foldl (fun (y : Session) e =>
    let z := y.setIo 0xF404 (softWrite (ioDesc y.grand 0xF404) (y.ioN 0xF404) e.2.2.toNat)
    if z.ioN 0xF404 = 0 then z.setIo 0xF405 (z.ioN 0xF405 % 0x8000) else z)
    { x with sprClears := x.sprClears.filter (fun e => !due e) }

/-- The running books of a die (R101): 0 CLOCKS, 1 RENDER, 2 WAIT, 3 IDLE, 4 DONE, 5 INPROG. -/
def bookAddr (d i : Nat) : Nat := bscBase + 0x210 + 0x40 * d + 8 * i

/-- A line of a session is rendered. -/
def State.renderLine (c : CtxNo) (k : Nat) (x : Session) (s : State) : State :=
  let f := (s.slot k).renderFrame
  let l := (s.slot k).rendered
  let q := s.lineSrc c x f l
  let spr := q.drawn
  let px := (List.range q.width).map (fun sx => BitVec.ofNat 24 (q.compose spr sx))
  let clk := q.clocks spr
  let next := x.nextLine f l
  let total := (s.slot k).clocks + clk
  let s1 := s.modSes c (fun y =>
    let z : Session := { y with lines := y.lines ++ [{ frame := f, line := l, pixels := px }] }
    ((z.spriteClears f l).overflow l (decide (q.spriteLimit < q.onLine.length)) (decide (spr.length < q.selected.length))).prune
      (s.slot k).codedF next.1 next.2)
  let s2 := s1.modSlot k (fun y => { y with renderFrame := next.1, rendered := next.2, clocks := total
                                            tokens := y.tokens - clk })
  ((s2.setReg (schAddr k 0x38) (min 0xFFFFFFFF (total / 64))).addCnt (bookAddr (slotDie k) 1) clk).addCnt
    (bookAddr (slotDie k) 4) clk

/-- The next line of a session is ready to render. -/
def State.renderReady (s : State) (c : CtxNo) (k : Nat) : Bool :=
  s.sesD c false (fun x => x.lineReady (s.slot k).renderFrame (s.slot k).rendered)

/-- Every line whose last cycle precedes the last cycle that passed is rendered, for a read that must see it (R194). -/
def State.renderUpTo (c : CtxNo) (k : Nat) : Nat → State → State
  | 0, s => s
  | fuel + 1, s =>
    match s.ses c with
    | some x =>
      let p := x.lastPos
      let f := (s.slot k).renderFrame
      if s.renderReady c k && decide (f < p.1 ∨ f = p.1 ∧ (s.slot k).rendered < p.2.1) then
        State.renderUpTo c k fuel (s.renderLine c k x)
      else s
    | none => s

/-- The overflow state after every line before the present position, and whether the sequencer let it be evaluated (R194). A
read that finds lines still to be evaluated freezes an Exact-mode session (R73). -/
def State.spriteDue (c : CtxNo) (s : State) : State × Bool :=
  match s.heldSlot c, s.lpgCatchUp c .last with
  | some k, (s1, true) =>
    let s2 := s1.renderUpTo c k 2048
    let s3 := if (s2.slot k).rendered == (s.slot k).rendered && (s2.slot k).renderFrame == (s.slot k).renderFrame then s2
      else s2.countFreeze c
    (s3.modSes c (fun x => x.spriteClears x.lastPos.1 x.lastPos.2.1), true)
  | _, r => r

end Sys2Proof.Machine
end

