-- ==== Sys2Proof/Machine/Sound.lean ====
section
/-! DEFINITION. The sound unit (R250 to R271): voices, envelopes, the crosspoint with its ramps, rings, events, silence,
audio packets, and stores to its registers. -/

namespace Sys2Proof.Machine

/-! ### Voices -/

/-- A voice at CREATE. -/
def Voice.zero : Voice :=
  { phase := 0, idx := 0, frac := 0, env := 0, s1 := 0, s2 := 0, start := 0, len := 0, lp := 0, fmt := 0, bank := false,
    interp := false, keys := [] }

def Sound.voice (d : Sound) (v : Nat) : Voice := Sparse.get Voice.zero d.voices v
def Sound.setVoice (v : Nat) (y : Voice) (d : Sound) : Sound := { d with voices := Sparse.set Voice.zero d.voices v y }

/-- Voices of the profile (R31). -/
def Session.voiceCount (x : Session) : Nat := if x.grand then 32 else 16

/-- Register `r` of a voice's block. -/
def Session.voiceReg (x : Session) (v r : Nat) : Nat := x.ioN (0xF900 + 8 * v + r)

/-- Samples N, or the loop sample L, of a length in words (R253). -/
def sampleCount (fmt : BitVec 2) (words : Nat) : Nat :=
  if fmt = 0 then 2 * words else if fmt = 2 then 60 * (words / 16) else words

/-- The step of a rate byte (R256). -/
def rateStep (r : Nat) : Nat := (16 + r % 16) * 2 ^ (r / 16 % 16)

/-- The envelope of one sample (R256): `ad` holds ATK and DEC, `sr` SUS and REL. -/
def Voice.envStep (ad sr : Nat) (y : Voice) : Voice :=
  if y.phase = 1 then
    let e := y.env + rateStep (ad / 256)
    if 0x7FFFFF ≤ e then { y with env := 0x7FFFFF, phase := 2 } else { y with env := e }
  else if y.phase = 2 then
    let sus := sr / 256 * 2 ^ 15
    let e := y.env - rateStep (ad % 256)
    if e ≤ sus then { y with env := sus, phase := 3 } else { y with env := e }
  else if y.phase = 4 then
    let e := y.env - rateStep (sr % 256)
    if e = 0 then { y with env := 0, phase := 0 } else { y with env := e }
  else y

/-- Prediction coefficients (R254). -/
def adpcmCoef (p : Nat) : Int × Int :=
  match p with
  | 0 => (0, 0) | 1 => (64, 0) | 2 => (128, -64) | 3 => (96, -32)
  | 4 => (112, -56) | 5 => (80, -24) | 6 => (48, 0) | _ => (120, -60)

def clamp16 (v : Int) : Int := clampInt (-32768) 32767 v

/-- Sample `i` of a voice whose history stands before it; `rd` reads a word by its address (R253, R254). -/
def Voice.sample (rd : Nat → Word) (y : Voice) (i : Nat) : Int :=
  if y.fmt = 0 then
    let w := (rd (y.start.toNat + i / 2)).toNat
    sext 8 (if i % 2 = 0 then w / 256 else w % 256) * 256
  else if y.fmt = 2 then
    let base := y.start.toNat + 16 * (i / 60)
    let hd := (rd base).toNat
    let q := i % 60
    let nib := (rd (base + 1 + q / 4)).toNat / 2 ^ (12 - 4 * (q % 4)) % 16
    let c := adpcmCoef (hd / 2 ^ 9 % 8)
    clamp16 (sext 4 nib * (2 ^ (min 12 (hd / 2 ^ 12)) : Nat) + (c.1 * y.s1 + c.2 * y.s2) / 64)
  else (rd (y.start.toNat + i)).toInt

/-- The decoder passes over the sample at the position (R254). -/
def Voice.pass (rd : Nat → Word) (y : Voice) : Voice :=
  if y.fmt = 2 then { y with s2 := y.s1, s1 := y.sample rd y.idx } else y

/-- The position advances by whole samples, looping or ending (R255): the voice and whether it looped and ended. -/
def Voice.advance (rd : Nat → Word) (loop : Bool) : Nat → Voice → Bool → Voice × Bool × Bool
  | 0, y, looped => (y, looped, false)
  | n + 1, y, looped =>
    let z := y.pass rd
    let total := sampleCount y.fmt y.len.toNat
    let l := sampleCount y.fmt y.lp.toNat
    if y.idx + 1 < total then Voice.advance rd loop n { z with idx := y.idx + 1 } looped
    else if loop && decide (l < total) then Voice.advance rd loop n { z with idx := l } true
    else ({ z with idx := y.idx + 1, phase := 0, env := 0 }, looped, true)

/-- A voice's output and its next state in one sample (R255, R256): the voice, its value, loop event, end event. -/
def Voice.play (rd : Nat → Word) (pitch : Nat) (loop : Bool) (y : Voice) : Voice × Int × Bool × Bool :=
  let total := sampleCount y.fmt y.len.toNat
  let l := sampleCount y.fmt y.lp.toNat
  if y.phase = 0 then (y, 0, false, false)
  else if total = 0 then ({ y with phase := 0, env := 0 }, 0, false, true)
  else
    let a := y.sample rd y.idx
    let b := if y.idx + 1 < total then (y.pass rd).sample rd (y.idx + 1)
      else if loop && decide (l < total) then (y.pass rd).sample rd l else a
    let out := if y.interp then a + (b - a) * (y.frac : Int) / 4096 else a
    let pos := y.frac + pitch
    let r := Voice.advance rd loop (pos / 4096) { y with frac := pos % 4096 } false
    (r.1, out * (y.env : Int) / 2 ^ 23, r.2.1, r.2.2)

/-- The word offset from START of the word that holds the sample at the position (R271). -/
def Voice.posWord (y : Voice) : Nat :=
  if y.fmt = 0 then y.idx / 2 else if y.fmt = 2 then 16 * (y.idx / 60) + 1 + y.idx % 60 / 4 else y.idx

/-- A key store takes effect on a voice (R257, R258). -/
def Session.applyKey (v : Nat) (on : Bool) (x : Session) : Session :=
  let y := x.snd.voice v
  let ctrl := x.voiceReg v 0
  let z : Voice := if on then
      { y with phase := 1, idx := 0, frac := 0, env := 0, s1 := 0, s2 := 0, start := x.ioW (0xF900 + 8 * v + 1),
               len := x.ioW (0xF900 + 8 * v + 2), lp := x.ioW (0xF900 + 8 * v + 3),
               fmt := BitVec.ofNat 2 (field ctrl 6 2), bank := ctrl.testBit 9, interp := ctrl.testBit 10 }
    else if y.phase = 1 ∨ y.phase = 2 ∨ y.phase = 3 then { y with phase := 4 } else y
  { x with snd := x.snd.setVoice v z }

/-- Every key store that waits for this sample, in the order of the voices and of the stores of each. -/
def Session.applyKeys (x : Session) : Session :=
  (List.range x.voiceCount).foldl (fun (x : Session) v =>
    let y := (x.snd.voice v).keys.foldl (fun (x : Session) on => x.applyKey v on) x
    { y with snd := y.snd.setVoice v { y.snd.voice v with keys := [] } }) x

/-- A key-on waits for this sample. -/
def Session.keyOnDue (x : Session) : Bool := x.snd.voices.any (fun e => e.2.keys.contains true)

/-- Envelope steps of every voice. -/
def Session.envSteps (x : Session) : Session :=
  { x with snd := { x.snd with voices := x.snd.voices.map (fun e =>
      (e.1, e.2.envStep (x.voiceReg e.1 5) (x.voiceReg e.1 6))) } }

/-! ### Events (R265) -/

/-- A voice event's bit is set; where its enable is 1, SOUND is raised. -/
def Session.voiceEvent (v : Nat) (x : Session) : Session :=
  let y := x.orIo (0xFAD0 + v / 16) (2 ^ (v % 16))
  if (x.ioN (0xFAD8 + v / 16)).testBit (v % 16) then { y with int := y.int.raise 14 } else y

/-- A mixer event's bit is set. -/
def Session.mixEvent (b : Nat) (x : Session) : Session :=
  let y := x.orIo 0xFAD2 (2 ^ b)
  if (x.ioN 0xFAD3).testBit b then { y with int := y.int.raise 14 } else y

/-! ### Ramps (R262, R263) -/

/-- No ramp. -/
def Ramp.idle : Ramp := { g0 := 0, gt := 0, j := 32 }

/-- The gain of a ramp after its samples so far. -/
def Ramp.now (r : Ramp) : Int := r.g0 + ((r.gt - r.g0) * (r.j : Int)).tdiv 32

/-- The register of a gain node: 0 to 135 the crosspoint, 136 and 137 the master gains. -/
def gainAddr (n : Nat) : Nat := if n < 136 then 0xFA00 + n else 0xFAC1 + (n - 136)

/-- The gain in use of a node: by its ramp, or its target. -/
def Session.gain (x : Session) (n : Nat) : Int :=
  match x.snd.ramps.find? (fun e => e.1 == n) with
  | some e => e.2.now
  | none => if n < 138 then (x.ioW (gainAddr n)).toInt else ((x.snd.scale.toList.getD (n - 140) 0 : Nat) : Int)

def Session.setRamp (n : Nat) (r : Ramp) (x : Session) : Session :=
  { x with snd := { x.snd with ramps := Sparse.set Ramp.idle x.snd.ramps n r } }

/-- A write of a gain's target (R262). -/
def Session.writeGain (n : Nat) (v : Word) (x : Session) : Session :=
  let g := x.gain n
  (x.setIo (gainAddr n) v.toNat).setRamp n { g0 := g, gt := v.toInt, j := 0 }

/-- Every ramp goes on by one sample. -/
def Session.stepRamps (x : Session) : Session :=
  { x with snd := { x.snd with ramps := x.snd.ramps.map (fun e => (e.1, { e.2 with j := e.2.j + 1 })) } }

/-- Ramps that have reached their targets end. -/
def Session.endRamps (x : Session) : Session :=
  { x with snd := { x.snd with ramps := x.snd.ramps.filter (fun e => decide (e.2.j < 32)) } }

/-! ### The crosspoint -/

/-- Crosspoint inputs of the profile: its voices and the auxiliary inputs. -/
def Session.inputs (x : Session) : List Nat := List.range x.voiceCount ++ [32, 33]

/-- Auxiliary input `k` is enabled with a ring (R260). -/
def Session.auxOn (x : Session) (k : Nat) : Bool :=
  (x.ioN 0xFAC0).testBit k && decide (x.ioN (0xFAC9 + 3 * k) ≠ 0)

/-- The word an auxiliary input reads; `rd` by bank and address. -/
def Session.auxWord (rd : Bool → Nat → Word) (x : Session) (k : Nat) : Int :=
  if x.auxOn k then (rd ((x.ioN 0xFAC0).testBit (11 + k)) (x.ioN (0xFAC8 + 3 * k) + x.ioN (0xFACA + 3 * k))).toInt
  else 0

/-- The auxiliary pointers move on (R260). -/
def Session.auxStep (k : Nat) (x : Session) : Session :=
  if x.auxOn k then x.setIo (0xFACA + 3 * k) ((x.ioN (0xFACA + 3 * k) + 1) % x.ioN (0xFAC9 + 3 * k)) else x

/-- An input is active on a bus (R259). -/
def Session.active (x : Session) (b i : Nat) : Bool :=
  x.ioW (0xFA00 + 4 * i + b) != 0 && (if i < 32 then (x.snd.voice i).phase != 0 else x.auxOn (i - 32))

/-- The scale of a bus follows the count of its active inputs (R263). -/
def Session.scaleBus (b : Nat) (x : Session) : Session :=
  let n := ((x.inputs).filter (x.active b)).length
  let target := 65536 / max n 1
  if x.snd.scale.toList.getD b 0 = target then x
  else
    let y := x.setRamp (140 + b) { g0 := x.gain (140 + b), gt := (target : Int), j := 0 }
    { y with snd := { y.snd with scale := y.snd.scale.set! b target } }

/-- Every voice plays (R255, R265): the session and the value of each voice. -/
def Session.playVoices (rd : Bool → Nat → Word) (x : Session) : Session × List (Nat × Int) :=
  (List.range x.voiceCount).foldl (fun (acc : Session × List (Nat × Int)) v =>
    let y := acc.1
    let vo := y.snd.voice v
    let ctrl := y.voiceReg v 0
    let r := vo.play (rd vo.bank) (y.voiceReg v 4) (ctrl.testBit 8)
    let y1 := { y with snd := y.snd.setVoice v r.1 }
    let y2 := if r.2.2.1 && ctrl.testBit 5 then y1.voiceEvent v else y1
    let y3 := if r.2.2.2 && ctrl.testBit 4 then y2.voiceEvent v else y2
    (y3, acc.2 ++ [(v, r.2.1)])) (x, [])

/-- A bus of R261 from the values of the inputs. -/
def Session.bus (x : Session) (vals : List (Nat × Int)) (b : Nat) : Int :=
  let acc : Int := (vals.map (fun e => e.2 * x.gain (4 * e.1 + b))).sum
  let v := acc / 2 ^ 15
  if (x.ioN 0xFAC0).testBit (4 + b) then v * x.gain (140 + b) / 2 ^ 16 else v

/-- What one sample gives: the session, L, R, and the words for the send ring. -/
structure Mixed where
  ses : Session
  l : Int
  r : Int
  a : Int
  b : Int

/-- Samples below the threshold before SILENT (R266). -/
def Session.siln (x : Session) : Nat := if x.ioN 0xFAC4 = 0 then 65536 else x.ioN 0xFAC4

/-- SILENT begins (R266). -/
def Session.enterSilent (x : Session) : Session :=
  let y := { x with snd := { x.snd with
    silent := true, ramps := []
    voices := x.snd.voices.filterMap (fun (e : Nat × Voice) =>
      let z : Voice := { e.2 with phase := 0, env := 0 }
      if z = Voice.zero then none else some (e.1, z)) } }
  y.mixEvent 1

/-- The test at the end of a sample (R266). -/
def Session.silenceTest (l r a b : Int) (x : Session) : Session :=
  let thr : Int := (x.ioN 0xFAC3 : Nat)
  let low := decide (l.natAbs < thr ∧ r.natAbs < thr ∧ a.natAbs < thr ∧ b.natAbs < thr)
  let q := if low then min 65536 (x.snd.quiet + 1) else 0
  let y := { x with snd := { x.snd with quiet := q } }
  if (x.ioN 0xFAC0).testBit 8 && !x.snd.silent && decide (x.siln ≤ q) then y.enterSilent else y

/-- The scales and ramps of one sample. -/
def Session.stepScales (x : Session) : Session := ((((x.scaleBus 0).scaleBus 1).scaleBus 2).scaleBus 3).stepRamps

/-- A sample that is mixed in full (R261). -/
def Session.mixFull (rd : Bool → Nat → Word) (x : Session) : Mixed :=
  let x1 := x.stepScales
  let aux := [(32, x1.auxWord rd 0), (33, x1.auxWord rd 1)]
  let p := x1.playVoices rd
  let vals := p.2 ++ aux
  let l0 := x1.bus vals 0 * x1.gain 136 / 2 ^ 15
  let r0 := x1.bus vals 1 * x1.gain 137 / 2 ^ 15
  let x2 := ((p.1.auxStep 0).auxStep 1).endRamps
  let x3 := if clamp16 l0 ≠ l0 ∨ clamp16 r0 ≠ r0 then x2.mixEvent 2 else x2
  { ses := x3, l := clamp16 l0, r := clamp16 r0, a := clamp16 (x1.bus vals 2), b := clamp16 (x1.bus vals 3) }

/-- SILENT ends in this sample (R267). -/
def Session.wakes (rd : Bool → Nat → Word) (x : Session) : Bool :=
  let thr : Int := (x.ioN 0xFAC3 : Nat)
  !(x.ioN 0xFAC0).testBit 8 || x.keyOnDue
    || (x.auxOn 0 && decide (thr ≤ ((x.auxWord rd 0).natAbs : Int)))
    || (x.auxOn 1 && decide (thr ≤ ((x.auxWord rd 1).natAbs : Int)))

/-- One sample of the unit (R259 to R267). -/
def Session.mix (rd : Bool → Nat → Word) (x : Session) : Mixed :=
  if x.snd.silent && !x.wakes rd then
    let y := (((x.applyKeys.envSteps.stepScales).auxStep 0).auxStep 1).endRamps
    { ses := y.silenceTest 0 0 0 0, l := 0, r := 0, a := 0, b := 0 }
  else
    let x0 := if x.snd.silent then { x with snd := { x.snd with silent := false } }.mixEvent 0 else x
    let m := x0.applyKeys.envSteps.mixFull rd
    { m with ses := m.ses.silenceTest m.l m.r m.a m.b }

/-- The sample is counted and joins its packet (R268). -/
def Session.countSample (silent : Bool) (l r : Int) (x : Session) : Session :=
  { x with snd := { x.snd with
      samples := x.snd.samples + 1, packet := x.snd.packet ++ [(l, r)]
      packetSilent := (x.snd.packet.isEmpty || x.snd.packetSilent) && silent }
           sjournal := match x.snd.due with
             | [] => []
             | d :: _ => x.sjournal.filter (fun e => decide (d < e.cycle)) }

/-! ### A sample on the machine -/

/-- An S word at the cycle of a sample (R251, R253). -/
def State.sampleWord (c : CtxNo) (cycle : Nat) (s : State) (bank : Bool) (a : Nat) : Word :=
  match s.ses c with
  | some x =>
    let h := x.halfOf (b2n bank)
    let a' := x.sWrap a
    x.sOld h a' cycle (s.peek c (sPage h a') (a' % 2048))
  | none => 0

/-- The words that a sample of a format reads. -/
def Voice.sampleWords (y : Voice) (i : Nat) : List Nat :=
  if y.fmt = 0 then [y.start.toNat + i / 2]
  else if y.fmt = 2 then [y.start.toNat + 16 * (i / 60), y.start.toNat + 16 * (i / 60) + 1 + i % 60 / 4]
  else [y.start.toNat + i]

/-- The samples that a position passes over (R254, R255). -/
def Voice.passed (loop : Bool) (total l : Nat) : Nat → Nat → List Nat
  | 0, _ => []
  | n + 1, i =>
    i :: (if i + 1 < total then Voice.passed loop total l n (i + 1)
      else if loop && decide (l < total) then Voice.passed loop total l n l else [])

/-- The words that a voice reads in one sample. -/
def Voice.playWords (pitch : Nat) (loop : Bool) (y : Voice) : List Nat :=
  let total := sampleCount y.fmt y.len.toNat
  let l := sampleCount y.fmt y.lp.toNat
  if y.phase = 0 ∨ total = 0 then []
  else
    let next := if y.idx + 1 < total then y.sampleWords (y.idx + 1) else if loop && decide (l < total) then y.sampleWords l else []
    y.sampleWords y.idx ++ next
      ++ (if y.fmt = 2 then (Voice.passed loop total l ((y.frac + pitch) / 4096) y.idx).flatMap y.sampleWords else [])

/-- The S words that the auxiliary inputs read (R260): half and address. -/
def Session.auxReads (x : Session) : List (Nat × Nat) :=
  [0, 1].flatMap (fun k => if x.auxOn k then
    [(x.halfOf (b2n ((x.ioN 0xFAC0).testBit (11 + k))), x.sWrap (x.ioN (0xFAC8 + 3 * k) + x.ioN (0xFACA + 3 * k)))] else [])

/-- The S words that the voices read in the next sample. -/
def Session.voiceReads (x : Session) : List (Nat × Nat) :=
  let y := x.applyKeys.envSteps
  (List.range y.voiceCount).flatMap (fun v =>
    let vo := y.snd.voice v
    (vo.playWords (y.voiceReg v 4) ((y.voiceReg v 0).testBit 8)).map (fun a => (y.halfOf (b2n vo.bank), y.sWrap a)))

/-- S words are brought in for a sample (R66, R270). False: a page waits, or could not be read. -/
def State.bringSound (c : CtxNo) : List (Nat × Nat) → State → State × Bool
  | [], s => (s, true)
  | (h, a) :: l, s =>
    match s.sRead c h a with
    | (s1, some _) => State.bringSound c l s1
    | (s1, none) => (s1, false)

/-- What a sample reads is there: the auxiliary words, and the voices' where it is mixed in full (R266, R267). -/
def State.bringSample (c : CtxNo) (d : Nat) (x : Session) (s : State) : State × Bool :=
  match s.bringSound c x.auxReads with
  | (s1, true) => if x.snd.silent && !x.wakes (s1.sampleWord c d) then (s1, true) else s1.bringSound c x.voiceReads
  | r => r

/-- The cycle in which a frame that has not been forgotten began, and its number, for a cycle of the session. -/
def Session.frameAt (x : Session) (d : Nat) : Nat × Nat :=
  if x.cpu.now - x.vcyc ≤ d then (x.frame, x.cpu.now - x.vcyc)
  else match x.past.find? (fun e => decide (e.start ≤ d)) with
    | some e => (e.f, e.start)
    | none => (x.frame, d)

/-- The frame and the cycle in it of a session cycle. -/
def Session.frameOfCycle (x : Session) (d : Nat) : Nat × Nat := ((x.frameAt d).1, d - (x.frameAt d).2)

/-- A packet's bytes (R268). -/
def packetBytes (l : List (Int × Int)) : List Byte :=
  l.flatMap (fun e => bytesBE 2 (ofIntW e.1).toNat ++ bytesBE 2 (ofIntW e.2).toNat)

/-- A full packet goes to the slot's audio queue, or waits for room in it (R268, R269, R312, R324). -/
def State.queuePacket (c : CtxNo) (cycle : Nat) (s : State) : State :=
  match s.heldSlot c, s.ses c with
  | some k, some x =>
    let y := { x with snd := { x.snd with packet := [], packetSilent := false } }
    let s0 := s.modSes c (fun _ => y)
    let pos := x.frameOfCycle cycle
    let cpl := max 1 (x.timingOf pos.1 4)
    let band := pos.2 / cpl / s.bandH k
    if !((s.slot k).strAt pos.1 0).testBit 8 then s0
    else
      let rel := ((s.slot k).schedOf pos.1).image (s.bandH k) (s.vtotalOf c pos.1) cpl pos.2
      let d : AudioDesc := { pkt := x.snd.samples / 48 - 1, frame := pos.1, band := band, silence := x.snd.packetSilent,
                             samples := packetBytes x.snd.packet, rel := rel, flow := (s.slot k).flowAt pos.1 band,
                             late := decide (rel < s.clock.time + s.guardOf k), returned := none }
      if (s.slot k).tapMode pos.1 = 3 then
        (if d.late then s0.modSes c (·.countIo 0xFAD5 1) else s0).tapAudio c k d pos.1
      else if 16 ≤ (s.slot k).audioQ.length then s0.modSlot k (fun z => { z with audioWait := z.audioWait ++ [d] })
      else s0.enterAudio k d
  | _, _ => s

/-- The send ring takes a sample's words (R264): the state and whether they could be written. -/
def State.sendWords (c : CtxNo) (cycle : Nat) (a b : Int) (s : State) : State × Bool :=
  match s.ses c with
  | some x =>
    let n := x.ioN 0xFAC6 / 2 * 2
    if n < 2 then (s, true)
    else
      let h := x.halfOf (b2n ((x.ioN 0xFAC0).testBit 10))
      let p := x.ioN 0xFAC5 + x.ioN 0xFAC7
      let r0 := s.sWrite c h (x.sWrap p) (ofIntW a) cycle
      let r1 := r0.1.sWrite c h (x.sWrap (p + 1)) (ofIntW b) cycle
      if r0.2 && r1.2 then (r1.1.modSes c (fun y => y.setIo 0xFAC7 ((y.ioN 0xFAC7 + 2) % n)), true) else (r1.1, false)
  | none => (s, true)

/-- The blitter's and the DMA port's events up to the first due sample's cycle are performed: the audio engine waits for them (R244,
R275). -/
def Session.mayMix (x : Session) : Bool := match x.snd.due with | d :: _ => decide (d < x.unitAt) | [] => false

/-- The cycle in which the last sample of the packet being filled falls (R250, R268). -/
def Session.packetEnd (vclk : Nat) (x : Session) : Nat :=
  let r := 48 - x.snd.packet.length
  let q := x.snd.due.length
  if r ≤ q then x.snd.due.getD (r - 1) 0
  else x.cpu.now - 1 + ((r - q) * vclk - x.snd.acc + 47999) / 48000

/-- The release instant of a session's next audio packet as its schedule stands. -/
def State.nextAudio (s : State) (c : CtxNo) (k : Nat) : Nat :=
  match s.ses c with
  | some x =>
    let pos := x.frameOfCycle (x.packetEnd (s.ctx c).vclk.toNat)
    ((s.slot k).schedOf pos.1).image (s.bandH k) (s.vtotalOf c pos.1) (max 1 (x.timingOf pos.1 4)) pos.2
  | none => 0

/-- Among the 512 slots of an audio engine a session's samples are served now: no other with a sample to mix has an earlier next
packet, or an equal one and a lower slot (R270). -/
def State.audioTurn (s : State) (c : CtxNo) (k : Nat) : Bool :=
  !s.ctxNos.any (fun n => match s.heldSlot n with
    | some j => j / 512 == k / 512 && s.sesD n false (·.mayMix)
        && decide (s.nextAudio n j < s.nextAudio c k ∨ s.nextAudio n j = s.nextAudio c k ∧ j < k)
    | none => false)

/-- The sample of cycle `d` is mixed, its words being there. A send word that cannot be written leaves it unmixed. -/
def State.mixNow (c : CtxNo) (d : Nat) (s : State) : State :=
  match s.ses c with
  | some x =>
    let m := ({ x with snd := { x.snd with due := x.snd.due.tail } }).mix (s.sampleWord c d)
    let silentNow := x.snd.silent && !x.wakes (s.sampleWord c d)
    let y := m.ses.countSample silentNow m.l m.r
    let s1 := s.modSes c (fun _ => y)
    let r := if silentNow then (s1, true) else s1.sendWords c d m.a m.b
    if r.2 then (if y.snd.samples % 48 = 0 then r.1.queuePacket c d else r.1)
    else (s.backOut r.1).modSes c (fun z => { x with cpu := z.cpu, staging := z.staging })
  | none => s

/-- The first due sample is mixed (R250 to R268), once its words are there. -/
def State.mixSample (c : CtxNo) (s0 : State) : State :=
  match s0.ses c with
  | some x =>
    if !x.mayMix then s0 else
    match x.snd.due with
    | d :: _ =>
      (match s0.bringSample c d x with
        | (s, true) => s.mixNow c d
        | (s, false) => s)
    | [] => s0
  | none => s0

/-- Due samples of cycles before a cycle are mixed. -/
def State.mixBefore (c : CtxNo) (cycle : Nat) : Nat → State → State
  | 0, s => s
  | fuel + 1, s =>
    if s.sesD c false (fun x => match x.snd.due with | d :: _ => decide (d < cycle) && x.mayMix | [] => false) then
      State.mixBefore c cycle fuel (s.mixSample c)
    else s

def State.mixDueBefore (c : CtxNo) (cycle : Nat) (s : State) : State :=
  s.mixBefore c cycle (s.sesD c 0 (·.snd.due.length))

/-- An event enable of the unit is set: virtual time waits for its samples (R252). -/
def Session.soundWaits (x : Session) : Bool := x.ioW 0xFAD3 != 0 || x.ioW 0xFAD8 != 0 || x.ioW 0xFAD9 != 0

/-- A sample is due before a cycle: what waits for it has frozen an Exact-mode session (R252, R73). -/
def State.countMixWait (c : CtxNo) (cycle : Nat) (s : State) : State :=
  if s.sesD c false (fun x => match x.snd.due with | d :: _ => decide (d < cycle) | [] => false) then s.countFreeze c else s

/-- Where virtual time waits for the samples, every due sample is mixed (R252). -/
def State.soundDue (c : CtxNo) (s : State) : State :=
  if s.sesD c false (·.soundWaits) then (s.countMixWait c (s.sesD c 0 (·.cpu.now))).mixDueBefore c (s.sesD c 0 (·.cpu.now)) else s

/-! ### Stores to the unit -/

/-- A store to a register of the unit takes effect. -/
def Session.soundWrite (a : Nat) (v : Word) (x : Session) : Session :=
  let d := ioDesc x.grand a
  if d.rw = 0 ∧ d.w1c = 0 then x
  else if a < 0xFA00 then
    let y := x.setIo a (softWrite d (x.ioN a) v.toNat)
    if (a - 0xF900) % 8 = 0 ∧ (wbit v 15 || wbit v 14) then
      let n := (a - 0xF900) / 8
      { y with snd := y.snd.setVoice n { y.snd.voice n with keys := (y.snd.voice n).keys ++ [wbit v 15] } }
    else y
  else if a < 0xFA88 then x.writeGain (a - 0xFA00) v
  else if a = 0xFAC1 ∨ a = 0xFAC2 then x.writeGain (136 + (a - 0xFAC1)) v
  else x.setIo a (softWrite d (x.ioN a) v.toNat)

/-- A sample whose cycle lies before another is not mixed. -/
def Session.dueBefore (cycle : Nat) (x : Session) : Bool :=
  match x.snd.due with | d :: _ => decide (d < cycle) | [] => false

/-- The samples that fall before a cycle are mixed for an access that comes after them; what waits has frozen an Exact-mode session
(R252). False: one is not mixed yet. -/
def State.mixFirst (c : CtxNo) (cycle : Nat) (s : State) : State × Bool :=
  let s1 := (s.countMixWait c cycle).mixDueBefore c cycle
  (s1, !s1.sesD c false (·.dueBefore cycle))

/-- A store to the unit by the session program, its last cycle just passed, after the samples that fall before it (R251). False:
one of them is not mixed yet. -/
def State.soundStore (c : CtxNo) (a : Nat) (v : Word) (s : State) : State × Bool :=
  let g := s.sesD c 0 (·.cpu.now) - 1
  let s1 := s.mixDueBefore c g
  if s1.sesD c false (·.dueBefore g) then (s1, false) else (s1.modSes c (·.soundWrite a v), true)

/-- The sound unit writes an S word: it lies in the send ring (R252, R264). -/
def Session.inSendRing (h a : Nat) (x : Session) : Bool :=
  let n := x.ioN 0xFAC6 / 2 * 2
  decide (2 ≤ n) && h == x.halfOf (b2n ((x.ioN 0xFAC0).testBit 10))
    && decide ((x.sWrap a + 0x20000 - x.ioN 0xFAC5) % (if x.grand then 65536 else 32768) < n)

/-- The value of a register of the unit after every sample due (R252, R271). -/
def Session.soundRead (a : Nat) (x : Session) : Nat :=
  if 0xF900 ≤ a ∧ a < 0xFA00 ∧ a % 8 = 7 then
    let y := x.snd.voice ((a - 0xF900) / 8)
    y.phase.toNat * 2 ^ 13 + y.env / 2 ^ 15 % 256
  else if 0xFA90 ≤ a ∧ a < 0xFAB0 then (x.snd.voice (a - 0xFA90)).posWord % 65536
  else if a = 0xFAD4 then b2n x.snd.silent
  else if a = 0xFAD6 then x.snd.samples % 65536
  else x.ioN a

/-- What a load of a register of the unit changes: a counter cleared, the high word latched. -/
def Session.soundLoaded (a : Nat) (x : Session) : Session :=
  if a = 0xFAD5 then x.setIo a 0
  else if a = 0xFAD6 then x.setIo 0xFAD7 (x.snd.samples / 65536)
  else x

/-! ### The rows -/

/-- A session that waits or has halted: its virtual time passes without instructions (R142, R160). -/
def Session.idle (x : Session) : Bool := x.cpu.waiting && (x.int.pend &&& x.int.en) == 0 || x.cpu.halted

/-- Cycles to the end of the cycle in which the next sample falls. -/
def Session.toSample (vclk : Nat) (x : Session) : Nat := max 1 ((vclk - x.snd.acc + 47999) / 48000)

/-- KON (R257): a store of SND_VCTRL with KON. -/
def execKon (c : CtxNo) (v : Fin 32) (ctrl : Word) (s : State) : Outcome :=
  .next (if s.programs c && wbit ctrl 15 then (s.soundStore c (0xF900 + 8 * v.val) ctrl).1 else s)

/-- KOFF (R257): a store of SND_VCTRL with KOFF. -/
def execKoff (c : CtxNo) (v : Fin 32) (ctrl : Word) (s : State) : Outcome :=
  .next (if s.programs c && wbit ctrl 14 then (s.soundStore c (0xF900 + 8 * v.val) ctrl).1 else s)

/-- GAIN_WRITE (R262): a store of a node's target or a master gain. -/
def execGainWrite (c : CtxNo) (node : Fin 138) (g : Word) (s : State) : Outcome :=
  .next (if s.programs c then (s.soundStore c (gainAddr node.val) g).1 else s)

end Sys2Proof.Machine
end

