-- ==== Sys2Proof/Machine/Prefetch.lean ====
section
/-! DEFINITION. Beam-ahead prefetch (R71): the V pages that the lines of the next bands will fetch and the S pages that
keyed-on voices will read in the next millisecond, computed from the registers and map entries as they stand. -/

namespace Sys2Proof.Machine

/-- AHEAD (R86): 0 acts as 1, 10 to 15 as 9. -/
def aheadField (cur : Nat) : Nat := max 1 (min 9 (field cur 8 4))

/-! ### The V words a line reads -/

/-- A V word that a layer reads: its bank and address. -/
abbrev VWord := Nat × Nat

/-- A word of a layer (R178). -/
def LineSrc.ref (q : LineSrc) (bank a : Nat) : VWord := (q.ses.bankOf bank, a % 65536)

/-- Words that follow one another. -/
def LineSrc.refs (q : LineSrc) (bank a n : Nat) : List VWord := (List.range n).map (fun i => q.ref bank (a + i))

/-- The words a tile plane reads for one pixel: its scroll table, its map entry and its pattern row (R183 to R185). -/
def LineSrc.tileReads (q : LineSrc) (p sx : Nat) : List VWord :=
  let ctrl := q.ctl (plnAddr p 0)
  let bank := field ctrl 9 2
  let t := q.tile p
  let mw := 32 * 2 ^ min (field ctrl 3 2) 2
  let mh := 32 * 2 ^ min (field ctrl 5 2) 2
  let ls := field ctrl 7 2
  let lb := q.at (plnAddr p 6) sx
  let table := if ls = 0 then [] else if ls = 1 then q.refs bank (lb + q.line) 1 else q.refs bank (lb + 2 * q.line) 2
  let hs := q.at (plnAddr p 4) sx
    + (if ls = 1 then q.word bank (lb + q.line) else if 2 ≤ ls then q.word bank (lb + 2 * q.line) else 0)
  let vs := q.at (plnAddr p 5) sx + (if 2 ≤ ls then q.word bank (lb + 2 * q.line + 1) else 0)
  let px := (sx + hs) % (mw * t)
  let py := (q.line + vs) % (mh * t)
  let m := q.at (plnAddr p 1) sx + py / t * mw + px / t
  let e := q.word bank m
  let deep := field ctrl 2 1
  let y := if e.testBit 14 then t - 1 - py % t else py % t
  let row := q.at (plnAddr p 2) sx + e % 1024 * (t * rowWords t deep) + y * rowWords t deep
  table ++ q.ref bank m :: q.refs bank row (rowWords t deep)

/-- The bitmap words behind a pixel (R190). -/
def LineSrc.bitmapReads (q : LineSrc) (sx : Nat) : List VWord :=
  match q.bitmapAt sx with
  | none => []
  | some (bx, by') =>
    let bank := field (q.ctl 0xF180) 3 2
    let row := q.at 0xF181 sx + by' * q.at 0xF182 sx
    match q.bitmapFmt with
    | 0 => [q.ref bank (row + bx / 4)]
    | 1 => [q.ref bank (row + bx / 2)]
    | 2 => [q.ref bank (row + bx)]
    | _ => q.refs bank (row + 3 * bx / 2) 2

/-- The movie words behind a pixel (R191). -/
def LineSrc.movieReads (q : LineSrc) (sx : Nat) : List VWord :=
  match q.movieAt sx with
  | none => []
  | some (mx, my) =>
    let ctrl := q.ctl 0xF1C0
    let bank := field ctrl 2 2
    let sub := field ctrl 1 1
    let r0 := q.at 0xF1CA sx
    let ring := if sub = 0 then r0 / 2 * 2 else r0
    let cy := if sub = 0 then my / 2 else my
    let cring := if sub = 0 then ring / 2 else ring
    let lrow := (if ring = 0 then my else my % ring) * q.at 0xF1C4 sx
    let crow := (if cring = 0 then cy else cy % cring) * q.at 0xF1C5 sx
    [q.ref bank (q.at 0xF1C1 sx + lrow + mx / 2), q.ref bank (q.at 0xF1C2 sx + crow + mx / 4),
      q.ref bank (q.at 0xF1C3 sx + crow + mx / 4)]

/-- The words of a layer's own fetches on the line: layers 0 to 5 planes, 6 the patterns of the sprites that cross it, 7 bitmap,
8 movie. -/
def LineSrc.layerReads (q : LineSrc) (n : Nat) : List VWord :=
  let each := fun (f : Nat → List VWord) => ((List.range q.width).flatMap f).eraseDups
  if n < 6 then (if q.planeOn n then each (q.tileReads n) else [])
  else if n = 6 then q.onLine.flatMap (fun e => q.refs q.sprBank e.row (rowWords e.w e.deep))
  else if n = 7 then each q.bitmapReads
  else each q.movieReads

/-- The words of the evaluation port: the sprite attribute table, and the opacity tables (R186, R187, R197). -/
def LineSrc.evaluationReads (q : LineSrc) : List VWord :=
  (if q.spritesOn then q.refs q.sprBank (q.ctl 0xF401) (if q.ses.grand then 2048 else 512) else [])
    ++ (List.range 6).flatMap (fun p =>
      if q.planeOn p && (q.ctl (plnAddr p 0)).testBit 11 then q.refs (field (q.ctl (plnAddr p 0)) 9 2) (q.at (plnAddr p 7) 0) 64
      else [])

/-- The page map indices of V words. -/
def vPages (l : List VWord) : List Nat := (l.map (fun e => vPage e.1 e.2)).eraseDups

/-- Everything the line's fetches may read. -/
def LineSrc.lineReads (q : LineSrc) : List VWord := q.evaluationReads ++ tieOrder.flatMap q.layerReads

/-- What the line's fetches read: nothing of a suppressed layer (R196). -/
def LineSrc.fetchReads (q : LineSrc) : List VWord :=
  let po := (List.range 6).map q.planeOpaque
  q.evaluationReads ++ (tieOrder.filter (fun n => !q.suppressed po n)).flatMap q.layerReads

/-! ### The pages of the next bands -/

/-- The line program's pages: those of LPG_PC and LPG_PTR, and of LPG_BASE where a frame start lies ahead. -/
def Session.lpgPages (x : Session) (frameStart : Bool) : List Nat :=
  let bank := x.bankOf (field (x.ioN 0xF500) 1 2)
  let two := fun a => [vPage bank (a % 65536), vPage bank ((a + 2048) % 65536)]
  if wbit (x.ioW 0xF500) 0 || x.lpg.running then
    two x.lpg.pc.toNat ++ two (x.ioN 0xF502) ++ (if frameStart then two (x.ioN 0xF501) else [])
  else []

/-- Words a voice passes over in the next 48 samples, from its place in its sample. -/
def Voice.aheadWords (pitch : Nat) (v : Voice) : List (Nat × Nat) :=
  let n := 48 * pitch / 4096 + 2
  let words := if v.fmt = 0 then n / 2 + 1 else if v.fmt = 2 then n / 60 * 16 + 32 else n
  let at' := if v.fmt = 0 then v.idx / 2 else if v.fmt = 2 then v.idx / 60 * 16 else v.idx
  [(v.start.toNat + at', min words (v.len.toNat - at')), (v.start.toNat + v.lp.toNat, min words (at' + words - v.len.toNat))]

/-- The S pages that keyed-on voices will read in the next millisecond. -/
def Session.voicePages (x : Session) : List Nat :=
  x.snd.voices.flatMap (fun e =>
    if e.2.phase = 0 then []
    else (e.2.aheadWords (x.voiceReg e.1 4)).flatMap (fun r =>
      if r.2 = 0 then []
      else [sPage (x.halfOf (b2n e.2.bank)) (x.sWrap r.1), sPage (x.halfOf (b2n e.2.bank)) (x.sWrap (r.1 + r.2 - 1))]))

/-- A line of a frame as the registers stand. -/
def State.aheadLine (s : State) (c : CtxNo) (x : Session) (f l : Nat) : List Nat :=
  let q : LineSrc := { ses := x, frame := f, line := l, v := fun bank a => (s.peek c (vPage bank a) (a % 2048)).toNat }
  vPages q.lineReads

/-- The lines of the present band and the AHEAD bands after it: frame and line. -/
def Session.aheadLines (x : Session) (h n : Nat) : List (Nat × Nat) :=
  let first := x.lineOf x.vcyc / h * h
  (List.range (h * (n + 1))).map (fun j =>
    if first + j < x.vtotal then (x.frame, first + j) else (x.frame + 1, first + j - x.vtotal))

/-- The page map indices R71 names for a session. -/
def State.aheadPages (s : State) (c : CtxNo) (h : Nat) : List Nat :=
  match s.ses c with
  | some x =>
    let ls := x.aheadLines h (aheadField (s.regN curBase))
    ((ls.filter (fun e => decide (e.2 < x.vactive))).flatMap (fun e => s.aheadLine c x e.1 e.2)
      ++ x.lpgPages (ls.any (fun e => e.2 == 0)) ++ x.voicePages).eraseDups
  | none => []

/-- The Curator holds those pages and pages in any that lack Gallery copies, in class 3 of R68. -/
def State.prefetch (c : CtxNo) (k : Nat) (s : State) : State :=
  let l := (s.aheadPages c (s.bandH k)).filter (fun i => (s.page c i).alloc)
  l.foldl (fun (s : State) i => (s.ensureCopyAs c i 3 0).1) (s.modSlot k (fun x => { x with ahead := l }))

/-! ### LINE_RENDER (R99) -/

/-- The deadline of the band that holds a line: what class 1 of R68 orders by. -/
def State.lineDeadline (s : State) (c : CtxNo) (k f l : Nat) : Nat := s.releaseNow c k f (l / s.bandH k) - s.guardOf k

/-- The line engine waits: LE_WAIT of the slot counts it (R72), and WAIT of the die's books the clocks that it holds the line, a
free count (R101; log entry 1). -/
def State.countLineWait (k : Nat) (s : State) : State :=
  ((s.stall (curSlotAddr k 0xC)).addCnt (bookAddr (slotDie k) 2) (Config.freeCount s.fresh)).spend

/-- A ready line's place in the die-wide order: whether its session's balance is negative, its band's deadline and its slot. -/
def State.linePlace (s : State) (c : CtxNo) (k : Nat) : Nat × Nat × Nat :=
  (b2n (decide ((s.slot k).tokens < 0)), s.lineDeadline c k (s.slot k).renderFrame (s.slot k).rendered, k)

/-- One place comes before another. -/
def placeBefore (a b : Nat × Nat × Nat) : Bool :=
  decide (a.1 < b.1 ∨ a.1 = b.1 ∧ (a.2.1 < b.2.1 ∨ a.2.1 = b.2.1 ∧ a.2.2 < b.2.2))

/-- One of the die's 64 engines takes the line now: fewer than 64 ready lines of the die come before it (R99). -/
def State.lineTurn (s : State) (c : CtxNo) (k : Nat) : Bool :=
  decide ((s.ctxNos.filter (fun n => match s.heldSlot n with
    | some j => slotDie j == slotDie k && s.renderReady n j && placeBefore (s.linePlace n j) (s.linePlace c k)
    | none => false)).length < 64)

/-- Pages are brought in for a unit, in a class; false where one has to wait or could not be read. -/
def State.bringPages (c : CtxNo) (cls due : Nat) : List Nat → State → State × Bool
  | [], s => (s, true)
  | i :: l, s =>
    match s.ensureCopyAs c i cls due with
    | (s1, true) => s1.bringPages c cls due l
    | r => r

/-- The Gallery frames with a word among those a line reads that fails (R86). -/
def State.badRead (s : State) (c : CtxNo) (l : List VWord) : Option Nat :=
  if s.bad.isEmpty then none
  else l.findSome? (fun e => (s.pageFrame c (vPage e.1 e.2)).bind (fun f => if s.badIn f (e.2 % 2048) 1 then some f else none))

/-- The pages a line's fetches read are there, paged in where they were not, which LE_WAIT counts (R66, R72, R86, R196). False:
the line waits, or a read has failed. -/
def State.linePages (c : CtxNo) (k : Nat) (q : LineSrc) (s : State) : State × Bool :=
  let words := q.fetchReads
  let out := (vPages words).filter (fun i => (s.page c i).alloc && !(s.page c i).gcopy)
  match s.bringPages c 1 (s.lineDeadline c k q.frame q.line) (vPages words) with
  | (s1, false) => ((s.stuck c s1).countLineWait k, false)
  | (s1, true) =>
    match s1.badRead c words with
    | some f => (s1.unitFail c f, false)
    | none => (if out.isEmpty then s1 else s1.countLineWait k, true)

/-- A write of the blitter or DMA that comes before the line's fetches waits for a page, and the line with it (R244, R275). -/
def State.lineBehind (s : State) (c : CtxNo) (f l : Nat) : Bool :=
  s.sesD c false (fun x => decide (x.unitAt < x.cpu.now ∧ x.unitAt ≤ x.fetchCycle f l))

/-- LINE_RENDER (R99): the next line of a session in beam order, once it is ready and its turn on the die has come. -/
def State.lineRender (c : CtxNo) (k : Nat) (s : State) : State :=
  let y := s.slot k
  if s.lineBehind c y.renderFrame y.rendered then s.countLineWait k
  else match s.lpgCatchUp c .beforeNext with
    | (s1, false) => s1
    | (s1, true) =>
      match s1.ses c with
      | none => s1
      | some x =>
        match s1.linePages c k (s1.lineSrc c x y.renderFrame y.rendered) with
        | (s2, true) => s2.renderLine c k x
        | (s2, false) => s2

def execLineRender (c : CtxNo) (s : State) : Outcome :=
  .next (match s.heldSlot c with
    | some k => if s.renderReady c k && s.lineTurn c k then s.lineRender c k else s
    | none => s)

end Sys2Proof.Machine
end

