-- ==== Sys2Proof/Machine/DSpace.lean ====
section
/-! DEFINITION. Title pages (R77, R115, R116) and D-space words (R76, R115, R272): the pages of the title image, the
title data window, and the words of work RAM. -/

namespace Sys2Proof.Machine

/-- A title page has a Gallery copy on the session's die, by a page-in where it has none (R66 to R68). False: it waits, or the page
could not be read. -/
def State.ensureTitle (c : CtxNo) (i : Nat) (s : State) : State × Bool :=
  let h := (s.ctxTitle c).frame i
  match s.ctxDie c with
  | none => (s, true)
  | some d =>
    match s.copyOn d h with
    | some f => (s.touchGallery f, true)
    | none =>
      if !(s.servedNow d 2 0 && s.frameUp (s.current h)) then (s, false)
      else if s.frameBad (s.current h) then (s.unitFail c (s.current h), false)
      else match s.takeGallery d false (FrameRec.copyOf h) with
        | some (f, s1) => (((s1.copyFrame (s1.current h) f).countSlot c 0 1).touchGallery f, true)
        | none => (s, false)

/-- A word of a title page as its copy, or its home frame, holds it. -/
def State.titlePeek (s : State) (c : CtxNo) (i off : Nat) : Word :=
  let h := (s.ctxTitle c).frame i
  let f := match s.ctxDie c with | some d => (s.copyOn d h).getD (s.current h) | none => s.current h
  s.word (f * 4096 + 2 * off)

/-- `n` words of a title page are there to be read by a session unit (R66, R86). -/
def State.titleReadyAt (c : CtxNo) (i off n : Nat) (s : State) : State × Bool :=
  match s.ensureTitle c i with
  | (s1, true) =>
    (match (s1.ctxDie c).bind (fun d => s1.copyOn d ((s.ctxTitle c).frame i)) with
      | some f =>
        if s1.badIn f off n then (s1.unitFail c f, false) else (s1, true)
      | none => (s1, true))
  | (s1, false) => (s.stuck c s1, false)

/-- A word of a title page read by a session unit. -/
def State.titleRead (c : CtxNo) (i off : Nat) (s : State) : State × Option Word :=
  match s.titleReadyAt c i off 1 with
  | (s1, true) => (s1, some (s1.titlePeek c i off))
  | (s1, false) => (s1, none)

/-- The title code page behind a C-space address: bank SES_CBANKw, as in force (R115, R116). -/
def Session.codePage (x : Session) (a : Nat) : Nat := 8 * x.inForce (0xFE04 + a / 16384) + a % 16384 / 2048

/-- The title data page behind an address of the title window, by SES_DBANK as in force. -/
def Session.dataPage (x : Session) (a : Nat) : Nat := x.inForce 0xFE08 + (a - 0xC000) / 2048

/-- A C-space address lies within the title's code pages. -/
def State.codeOk (s : State) (c : CtxNo) (a : Nat) : Bool :=
  s.sesD c false (fun x => decide (x.codePage (a % 65536) < (s.ctxTitle c).cPages.toNat))

/-- An address of the title window lies within the title's data pages. -/
def State.dataOk (s : State) (c : CtxNo) (a : Nat) : Bool :=
  s.sesD c false (fun x => decide (x.dataPage a < (s.ctxTitle c).dPages.toNat))

/-- The words a read by the session's processor brings: the line that is filled in Exact mode (R75), or the word. -/
def State.lineSpan (s : State) (c : CtxNo) (off : Nat) : Nat × Nat :=
  if s.sesD c false (·.fast) then (off, 1) else (off / 64 * 64, 64)

/-- A word of a title page read by the session's processor: from its staging line, or by a fill of it (R74, R75). -/
def State.titleStaged (c : CtxNo) (i off : Nat) (s : State) : State × Option Word :=
  let tag := titleLine i off
  if s.sesD c false (fun x => !x.fast && (x.staged tag).isSome) then (s.useLine c tag none, some (s.titlePeek c i off))
  else
    match s.titleReadyAt c i (s.lineSpan c off).1 (s.lineSpan c off).2 with
    | (s1, true) => (s1.useLine c tag none, some (s1.titlePeek c i off))
    | (s1, false) => (s1, none)

/-- A word of C space read by the session's processor (R74, R115). -/
def State.cRead (c : CtxNo) (a : Nat) (s : State) : State × Option Word :=
  s.titleStaged c (s.sesD c 0 (fun x => x.codePage (a % 65536))) (a % 2048)

/-- The title page of an address of the title window. -/
def State.windowPage (s : State) (c : CtxNo) (a : Nat) : Nat := (s.ctxTitle c).cPages.toNat + s.sesD c 0 (·.dataPage a)

/-- A code line is filled ahead, where it is not staged and its page comes (R75). -/
def State.fillTitle (c : CtxNo) (i off : Nat) (s : State) : State :=
  if s.sesD c true (fun x => (x.staged (titleLine i off)).isSome) then s
  else match s.titleReadyAt c i (off / 64 * 64) 64 with
    | (z, true) => (z.modSes c (·.stage (titleLine i off) none)).trimLines c
    | (z, false) => z

/-- The line of a word of work RAM is filled ahead. -/
def State.fillData (c : CtxNo) (a : Nat) (s : State) : State :=
  if s.sesD c true (fun x => (x.staged (dLine a)).isSome) then s
  else match s.pageReady c (dPage a) (a % 2048 / 64 * 64) 64 with
    | (z, true) => (z.modSes c (·.stage (dLine a) none)).trimLines c
    | (z, false) => z

/-- Ahead of use, the Curator fills the two code lines that follow the present one and the line of the word at w15 (R75). -/
def State.fillAhead (c : CtxNo) (s : State) : State :=
  match s.ses c with
  | none => s
  | some x =>
    let line := x.cpu.pc.toNat / 64
    let code := [64 * (line + 1) % 65536, 64 * (line + 2) % 65536].filter (s.codeOk c)
    let s1 := code.foldl (fun (s : State) a => s.fillTitle c (x.codePage a) (a % 2048)) s
    let sp := x.cpu.w[15].toNat
    if sp < 0xC000 then s1.fillData c sp
    else if sp < 0xF000 ∧ s1.dataOk c sp then s1.fillTitle c (s1.windowPage c sp) (sp % 2048)
    else s1

/-- A word of D:0x0000 to D:0xEFFF read by a unit of the session other than its processor (R272). -/
def State.dUnitRead (c : CtxNo) (a : Nat) (s : State) : State × Option Word :=
  if a < 0xC000 then s.pageRead c (dPage a) (a % 2048) else s.titleRead c (s.windowPage c a) (a % 2048)

/-- A word of work RAM read by the session's processor (R74): what it wrote in the word's staging line, or the copy's word. -/
def State.ramRead (c : CtxNo) (a : Nat) (s : State) : State × Option Word :=
  match s.sesD c none (fun x => if x.fast then none else x.staged (dLine a)) with
  | some _ => (s.useLine c (dLine a) none,
      some ((s.sesD c none (·.stagedWord (dLine a) (a % 64))).getD (s.peek c (dPage a) (a % 2048))))
  | none =>
    match s.pageReady c (dPage a) (s.lineSpan c (a % 2048)).1 (s.lineSpan c (a % 2048)).2 with
    | (s1, true) => (s1.useLine c (dLine a) none, some (s1.peek c (dPage a) (a % 2048)))
    | (s1, false) => (s1, none)

/-- A word of D:0x0000 to D:0xEFFF read by the session's processor (R74). -/
def State.dRead (c : CtxNo) (a : Nat) (s : State) : State × Option Word :=
  if a < 0xC000 then s.ramRead c a else s.titleStaged c (s.windowPage c a) (a % 2048)

/-- A word of work RAM written by the session's processor: in Exact mode it goes to its staging line (R74). -/
def State.dWrite (c : CtxNo) (a : Nat) (v : Word) (s : State) : State × Bool :=
  let line := some (a % 64, v)
  if s.sesD c true (·.fast) then s.pageWrite c (dPage a) (a % 2048) v
  else if s.sesD c false (fun x => (x.staged (dLine a)).isSome) && (s.page c (dPage a)).alloc && !(s.page c (dPage a)).cow then
    (s.useLine c (dLine a) line, true)
  else
    let staged := s.sesD c false (fun x => (x.staged (dLine a)).isSome)
    match s.pageTouch c (dPage a) with
    | (s1, true) =>
      (match (if staged then State.thawed c (dPage a) true true s s1 else s1).pageReady c (dPage a) (a % 2048 / 64 * 64) 64 with
        | (s2, true) => (s2.useLine c (dLine a) line, true)
        | r => r)
    | r => r

/-- A word of work RAM written by DMA: the staged line that holds it is written back, the write lands, the line is dropped
(R76). -/
def State.dUnitWrite (c : CtxNo) (a : Nat) (v : Word) (s : State) : State × Bool :=
  let r := (s.dropLine c (dLine a)).pageWrite c (dPage a) (a % 2048) v
  if r.2 then r else (s.backOut r.1, false)

end Sys2Proof.Machine
end

