-- ==== Sys2Proof/Machine/Contexts.lean ====
section
/-! DEFINITION. Context commands (R38 to R48), admission (R42, R46, R49 to R53, R105, R109), the context table (R35,
R36) and the Beam Scheduler's own registers (R101, R107, R108, R110, R371). -/

namespace Sys2Proof.Machine

/-! ### The context table (R35, R36) -/

def CtxState.ofNatShown (x : Context) : Nat :=
  match x.state with
  | .admitting | .running | .suspending => x.slot.toNat
  | _ => 0

/-- Word `k` of a context's entry. -/
def State.entryWord (s : State) (c : CtxNo) (k : Nat) : Nat :=
  let x := s.ctx c
  if k = 0 then
    x.state.code * 2 ^ 60 + b2n x.profile * 2 ^ 59 + b2n x.xmode * 2 ^ 58 + b2n x.keepMirror * 2 ^ 57 + b2n x.wake * 2 ^ 56
      + x.gen.toNat * 2 ^ 48 + CtxState.ofNatShown x * 2 ^ 32 + x.title.toNat * 2 ^ 16
  else if k = 1 then s.owned x * 2 ^ 48 + x.mapped * 2 ^ 36 + x.mapRoot.toNat
  else if k = 2 then x.envH.toNat * 2 ^ 54 + x.envV.toNat * 2 ^ 44 + x.periodFx.toNat
  else x.vclk.toNat * 2 ^ 37 + x.lead.toNat * 2 ^ 33 + x.pixCharge.toNat

/-- The RW fields of a word taken into an entry (R36). A session that exists keeps the profile and mode it was created with
(R31, R41; log entry 58). -/
def Context.takeWord (k v : Nat) (x : Context) : Context :=
  if k = 0 then
    { x with profile := v.testBit 59, xmode := v.testBit 58, keepMirror := v.testBit 57, wake := v.testBit 56,
             title := BitVec.ofNat 16 (v / 2 ^ 16) }
  else if k = 2 then
    { x with envH := BitVec.ofNat 10 (v / 2 ^ 54), envV := BitVec.ofNat 10 (v / 2 ^ 44), periodFx := BitVec.ofNat 44 v }
  else if k = 3 then { x with vclk := BitVec.ofNat 27 (v / 2 ^ 37), lead := BitVec.ofNat 4 (v / 2 ^ 33) }
  else x

/-- The profile of a context: that of its session, fixed when the context was created (R31), else the entry's. -/
def Context.grand (x : Context) : Bool := match x.ses with | some y => y.grand | none => x.profile

/-- The mirror's page indices (R59). -/
def mirrorPages : List Nat := (List.range 8).map (219 + ·)

/-- The mirror pages leave a context's map (R44). -/
def State.dropMirror (c : CtxNo) (s : State) : State := mirrorPages.foldl (fun s i => s.unmapPage c i) s

/-- A 64-bit write of an entry word is judged and taken (R36, R44). -/
def State.commitEntry (c : CtxNo) (k v : Nat) (s : State) : State :=
  match (s.ctx c).state with
  | .free | .suspended =>
    let s1 := s.modCtx c (·.takeWord k v)
    if k = 0 ∧ !v.testBit 57 then s1.dropMirror c else s1
  | _ => s

/-- The hold of a requester node over a region of entry words: 0 the context table, 1 the title table (R35, R77). -/
def holdKey (node : Byte) (region : Nat) : Nat := 256 * region + node.toNat

/-- A write of a word of such a region: the value to commit, if it commits now (R35). `old`: the word as it stands. The low half
held for another word stays held. -/
def State.holdWrite (node : Byte) (region word old : Nat) (v : EntryPart) (s : State) : State × Option Nat :=
  let key := holdKey node region
  match v with
  | .whole w => (s, some w.toNat)
  | .low l => ({ s with entryHold := Sparse.set none s.entryHold key (some (word, l)) }, none)
  | .high h =>
    match Sparse.get none s.entryHold key with
    | some (w, l) =>
      if w = word then ({ s with entryHold := Sparse.set none s.entryHold key none }, some (h.toNat * 2 ^ 32 + l.toNat))
      else (s, some (h.toNat * 2 ^ 32 + old % 2 ^ 32))
    | none => (s, some (h.toNat * 2 ^ 32 + old % 2 ^ 32))

/-- A read of half a word: a low half latches the high one for the node (R35). A high half that the node has latched nothing for reads
as it stands (DESIGN CHOICE, log entry 68). -/
def State.latchRead (node : Byte) (region word v : Nat) (high : Bool) (s : State) : State × Nat :=
  let key := holdKey node region
  if high then
    (s, match Sparse.get none s.entryLatch key with
      | some (w, h) => if w = word then h.toNat else v / 2 ^ 32
      | none => v / 2 ^ 32)
  else ({ s with entryLatch := Sparse.set none s.entryLatch key (some (word, BitVec.ofNat 32 (v / 2 ^ 32))) }, v % 2 ^ 32)

/-- CONTEXT_ENTRY_WRITE (R35, R36): the table lies in AON (R405). -/
def State.contextEntryWrite (node : Byte) (c : CtxNo) (k : Fin 4) (v : EntryPart) (s : State) : State :=
  let r := s.holdWrite node 0 (4 * c.toNat + k.val) (s.entryWord c k.val) v
  match r.2 with
  | some w => r.1.commitEntry c k.val w
  | none => r.1

def execContextEntryWrite (node : Byte) (c : CtxNo) (k : Fin 4) (v : EntryPart) (s : State) : Outcome :=
  .next (if s.power.mode = .off then s else s.contextEntryWrite node c k v)

/-! ### Sessions as CREATE leaves them -/

/-- A DMA channel at CREATE. -/
def DmaCh.zero : DmaCh :=
  { phase := .off, kpend := false, ctrl := 0, p0 := 0, p1 := 0, dlen := 0, chunk := 0, dbase := 0, rate := 0, desc := [],
    descAt := 0, next := none, row := 0, col := 0, left := 0, held := false, ready := 0, gapUntil := 0, trigs := [], result := 0, abort := false,
    abortLate := false, stopAfter := false }

/-- The sound unit at CREATE (R250, R263). -/
def Sound.zero : Sound :=
  { acc := 0, samples := 0, due := [], voices := [], ramps := [], scale := Vector.replicate 4 65536, silent := false,
    quiet := 0, packet := [], packetSilent := false }

/-- The five timing registers as shadow and live values (R207). -/
def Session.setTiming (t : List Nat) (x : Session) : Session :=
  t.zipIdx.foldl (fun (z : Session) (e : Nat × Nat) => (z.setIo (0xF000 + e.2) e.1).setLive (0xF000 + e.2) e.1) x

/-- A session at CREATE (R41, R111, R207, R462). `pc`: the word at C:0x0000. -/
def Session.initial (grand fast : Bool) (pc : Word) (timing : List Nat) : Session :=
  Session.setTiming timing
    { cpu := { CpuState.zero with pc := pc, w := CpuState.zero.w.set 15 0xC000 }
      int := IntSt.zero, grand := grand, fast := fast, io := [], eff := [], live := [], nextTiming := none, pal := [],
      vcyc := 0, frame := 0, lineRaised := false, vblankDone := false, undo := [], vjournal := [],
      sjournal := []
      lpg := { running := false, bank := 0, pc := 0, lc := 0, frame := 0, line := 0, dot := 0 }
      blit := none, blitEnd := 0, dma := Vector.replicate 4 DmaCh.zero, dmaAct := none, unitAt := 0, unitPre := false
      snd := Sound.zero
      mb := { low := 0, inbound := none, replaced := false, outbox := 0, full := false, emptied := false }
      lastValid := false, vseq := 0, aseq := 0, mgen := 0, ranKind := 1, ranDepth := 1, emptiedAt := none, staging := [], share := 0
      midBand := false, lastBoundary := none, endPos := (0, 0), past := [], raiseNext := 0, sprClears := [], lines := [], lineSkip := false
      lineFrom := 0 }

/-! ### Frames for commands -/

/-- Pages taken for a context that is not admitted, all or none (R63, R64). -/
def State.takePages (c : CtxNo) (die : Option Nat) : List Nat → State → Option State
  | [], s => some s
  | i :: l, s =>
    match s.takeHome die false with
    | none => none
    | some (h, s1) =>
      State.takePages c die l ((s1.clearFrame h).setPage c i { PageEntry.none with alloc := true, home := BitVec.ofNat 25 h })

/-- The state pages of a profile (R54). -/
def statePages (grand : Bool) : List Nat := if grand then [0, 1, 2] else [0]

/-! ### Admission checks (R42, R49, R50, R109) -/

/-- The pixel charge (R49). -/
def pixCharge (h v periodFx : Nat) : Nat :=
  if periodFx = 0 then 0 else (h * v * 1100000000 * 65536 + periodFx - 1) / periodFx

/-- The contexts that hold slots, with their slot numbers. -/
def State.holders (s : State) : List (CtxNo × Nat) :=
  s.ctxNos.filterMap (fun c => (s.heldSlot c).map (fun k => (c, k)))

/-- BSC_PIX_USED of a die (R51, R53); a die that is down reads 0. -/
def State.pixUsed (s : State) (d : Nat) : Nat :=
  if s.power.dieUp d then
    ((s.holders.filter (fun e => slotDie e.2 == d)).map (fun e => (s.ctx e.1).pixCharge.toNat)).sum
  else 0

/-- BSC_ISSUE_USED of a core (R50, R53). -/
def State.issueUsed (s : State) (core : Nat) : Nat :=
  if s.power.dieUp (core / 128) then
    ((s.holders.filter (fun e => slotCore e.2 == core)).map (fun e => (s.ctx e.1).vclk.toNat)).sum
  else 0

/-- The fields of an entry are within the limits of R31 and the entry tables, and the slot's registers within R109. -/
def State.admitArgs (s : State) (x : Context) (k : Nat) : Bool :=
  let h := x.envH.toNat
  let v := x.envV.toNat
  let p := x.periodFx.toNat
  decide (h % 8 = 0 ∧ 64 ≤ h ∧ h ≤ limitH x.grand ∧ v % 8 = 0 ∧ 64 ≤ v ∧ v ≤ limitV x.grand
    ∧ 0 < x.vclk.toNat ∧ x.vclk.toNat ≤ (if x.grand then 64000000 else 24000000)
    ∧ 1 ≤ x.lead.toNat ∧ x.lead.toNat ≤ 8 ∧ unitsPerSec ≤ p * 240 ∧ p * 24 ≤ unitsPerSec
    ∧ (x.grand = true → k % 4 = 0) ∧ 0 < s.periodReg k ∧ p ≤ s.periodReg k
    ∧ s.regN (schAddr k 8) < 1000000000)

/-- The threads a session needs on a slot. -/
def slotThreads (grand : Bool) (k : Nat) : List Nat := if grand then [k, k + 1, k + 2, k + 3] else [k]

/-- Checks 2 to 6 of R42: the RESULT, 0 when all pass. -/
def State.admitCheck (s : State) (x : Context) (k : Nat) : Nat :=
  let d := slotDie k
  let cap := s.regN (bscBase + 0x100)
  if !s.admitArgs x k then 7
  else if !(s.power.mode == .serving && s.power.dieUp d && !s.power.dieUnavail.getLsbD d) then 6
  else if !(slotThreads x.grand k).all (fun j => (s.slot j).ctx.isNone) then 4
  else if 196608000000 * (field cap 0 8 + 1)
      < (s.pixUsed d + pixCharge x.envH.toNat x.envV.toNat x.periodFx.toNat) * 256 then 2
  else if 1536000000 * (field cap 8 8 + 1) < (s.issueUsed (slotCore k) + x.vclk.toNat) * 256 then 3
  else 0

/-! ### Taking a slot -/

/-- The staging lines of a session admitted now (R74, R86). -/
def State.stagingShare (s : State) (grand : Bool) : Nat :=
  let l := field (s.regN (curBase + 4)) 0 4
  8 * (if l = 0 then 1 else min l 8) * (if grand then 4 else 1)

/-- The counters and measurements of a slot at admission (R46, R87, R108, R312, R398). -/
def State.clearSlotRegs (k : Nat) (s : State) : State :=
  let z := fun (l : List Nat) (s : State) => l.foldl (fun (s : State) a => s.setReg a 0) s
  let s1 := ((((z ([0, 4].map (curSlotAddr k)) s).clearStall (curSlotAddr k 8)).clearStall (curSlotAddr k 12)).clearStall
    (schAddr k 0x34)).clearStall (schAddr k 0x36)
  let s2 := z ([0x1C, 0x28, 0x2C, 0x30, 0x34, 0x38, 0x3C].map (schAddr k)) s1
  let s3 := z ([0x0C, 0x10, 0x14, 0x18, 0x1C, 0x20, 0x28, 0x2C, 0x30, 0x34, 0x38, 0x3C].map (strAddr k)) s2
  let s4 := (s3.setReg (strAddr k 0x24) 0xFFFFFFFF).setReg (tapAddr k 12) 0
  { s4 with plinth := { s4.plinth with idx := Sparse.set 0 s4.plinth.idx k 0
                                       delivered := s4.plinth.delivered.filter (fun e => e.slot.toNat != k) } }

/-- A slot of an admitted session, before its schedule is placed: the controls that change only at its frame starts and boundaries are
those it has at ADMIT (R108, R312, R398). -/
def State.newSlot (s : State) (c : CtxNo) (k : Nat) : SlotSt :=
  { SlotSt.idle with
    ctx := some c, stopped := true, ctrlEff := s.reg (schAddr k 0x18), period := s.periodReg k
    strLog := [(0, 0, s.reg (strAddr k 0))], tapLog := [(0, s.tmode k)] }

/-- A context of a profile takes a slot's threads, its charges and the mirror's frames (R40, R42). `none`: NO_FRAMES. -/
def State.reserve (c : CtxNo) (k : Nat) (grand : Bool) (s : State) : Option State :=
  let x := s.ctx c
  let s1 := (s.setSlot k (s.newSlot c k)).clearSlotRegs k
  let s2 := if grand then ([k + 1, k + 2, k + 3] : List Nat).foldl (fun (s : State) j =>
      s.setSlot j { SlotSt.idle with ctx := some c, upper := true }) s1 else s1
  let s3 := s2.modCtx c (fun y => { y with
    state := .admitting, slot := BitVec.ofNat 14 k
    pixCharge := BitVec.ofNat 32 (pixCharge x.envH.toNat x.envV.toNat x.periodFx.toNat) })
  let kept := x.keepMirror && mirrorPages.all (fun i => (x.page i).alloc)
  let s4 := s3.modSlot k (fun y => { y with emptyPend := !kept, orderPend := kept })
  if kept then some s4
  else (s4.dropMirror c).takePages c (some (slotDie k)) mirrorPages

/-- A new mirror page has its Gallery copy filled with zeros (R46, R61). -/
def State.touchMirror (c : CtxNo) (i : Nat) (s : State) : State :=
  match s.ctxDie c with
  | some d =>
    let s1 := s.countSlot c 4 1
    match s1.takeGallery d true (FrameRec.copyOf (s.page c i).home.toNat) with
    | some (f, s2) => (((s2.clearFrame f).modPage c i (fun x =>
        { x with gcopy := true, gframe := BitVec.ofNat 16 (f - galleryFrame d 0) })).markDirty c i).touchGallery f
    | none => s1
  | none => s

/-- The page has its Gallery copy, where one can be had. -/
def State.bringIn (c : CtxNo) (i : Nat) (s : State) : State := (s.ensureCopy c i).1

/-- LEAD limits (R109): 0 acts as 1, 9 to 15 as 8. -/
def leadField (v : Nat) : Nat := if v = 0 then 1 else min v 8

/-- LEAD_MIN and LEAD_MAX as they act. -/
def leadLimits (ctrl : Nat) : Nat × Nat :=
  let hi := leadField (field ctrl 20 4)
  (min (leadField (field ctrl 16 4)) hi, hi)

/-- The earliest start on an epoch and period that lies at or after an instant (R92). -/
def epochStart (epoch period : Nat) (least : Int) : Nat :=
  let p : Int := max 1 period
  ((epoch : Int) + -(((epoch : Int) - least) / p) * p).toNat

/-- The band credit of R100, in tokens. -/
def State.bandCredit (s : State) (c : CtxNo) (tb : Nat) : Nat :=
  ((s.ctx c).pixCharge.toNat * tb + 4000000000 * 65536 - 1) / (4000000000 * 65536)

/-- The session's position in its slot's terms: frame, line, and the first band period the schedule places (R46,
R435). -/
def State.placeSlot (c : CtxNo) (k : Nat) (x : Session) (s : State) : State :=
  let h := s.bandH k
  let vt := max 1 x.vtotal
  let line := x.lineOf x.vcyc
  let p := s.periodReg k
  let tb := bandTime h p vt
  let here : Nat × Nat := (x.frame, line / h)
  let first := if x.midBand then nextBand (bandCount vt h) here.1 here.2 else here
  let lead := (s.ctx c).lead.toNat
  let off := min ((first.2 + 1) * h) vt * p / vt
  let start := epochStart (s.epochReg k) p (((s.clock.time + (lead + 1) * tb : Nat) : Int) - (off : Nat))
  let lim := leadLimits (s.reg (schAddr k 0x18)).toNat
  let rline := if line < x.vactive then (x.frame, line) else (x.frame + 1, 0)
  let fr := if first.1 = here.1 then start else start - p
  s.modSlot k (fun y => { y with
    stopped := false, period := p
    sched := if first.1 = here.1 then [{ f := here.1, s := start, period := p, shifts := [] }]
      else [{ f := here.1, s := fr, period := p, shifts := [] }, { f := first.1, s := start, period := p, shifts := [] }]
    strLog := y.strLog.map (fun e => (here.1, here.2, e.2.2)), flowLog := [(here.1, here.2, s.flowEntry c)], flowNew := none
    leadNow := min lim.2 (max lim.1 lead), horizonF := here.1, horizonK := here.2
    tokens := ((2 * s.bandCredit c tb : Nat) : Int), rendered := rline.2, renderFrame := rline.1
    testedF := first.1, testedK := first.2, codedF := first.1, codedK := first.2
    releasedF := first.1, releasedK := first.2, monF := first.1, monK := first.2
    firstF := first.1, firstLine := if x.midBand then first.2 * h else line
    tapLog := y.tapLog.map (fun e => (here.1, e.2)) })

/-- ADMITTING ends: the session is RUNNING, parked before its first band (R41, R46, R105, R323). -/
def State.enterRunning (c : CtxNo) (s : State) : State :=
  match s.heldSlot c, s.ses c with
  | some k, some x =>
    let s1 := (s.modCtx c (fun y => { y with state := .running, wakePending := false })).placeSlot c k x
    let s2 := s1.modSes c (fun y => { y with
      share := s.stagingShare y.grand, staging := [], midBand := false
      io := y.io.filter (fun e => !decide (0xFE30 ≤ e.1 ∧ e.1 ≤ 0xFE34))
      lastBoundary := if y.midBand then some (y.frame, y.lineOf y.vcyc / s.bandH k * s.bandH k) else none })
    let s3 := (statePages x.grand).foldl (fun (s : State) i => s.bringIn c i) s2
    (mirrorPages.foldl (fun (s : State) i =>
      if (s1.slot k).emptyPend then s.touchMirror c i else s.bringIn c i) s3).prefetch c k
  | _, _ => s

/-! ### Command ports (R38, R39) -/

/-- A command port answers: one Raster window is up. -/
def State.portsUp (s : State) : Bool := s.power.dieUp 0 || s.power.dieUp 1

/-- The OP write of a command that has passed or failed its checks: BUSY until COMMAND_DONE. -/
def State.beginCommand (p : Fin 4) (c : CtxNo) (args : List Reg32) (op result : Nat) (s : State) : State :=
  s.modPort p (fun x => { x with
    ctx := c
    args := args.zipIdx.foldl (fun (v : Vector Reg32 3) e => v.set! e.2 e.1) x.args
    busy := true, lastOp := BitVec.ofNat 8 op, result := BitVec.ofNat 8 result
    waiting := if result = 0 then some (c, BitVec.ofNat 8 op) else none })

/-- A port takes a command: its window is up and BUSY is 0. -/
def State.portFree (s : State) (p : Fin 4) : Bool := s.portsUp && !s.ports[p.val].busy

/-- A command with a check and an effect at its turn (R39, R40): a failed one changes nothing else. -/
def State.command (p : Fin 4) (c : CtxNo) (args : List Reg32) (op : Nat) (r : Nat × State) (s : State) : State :=
  if s.portFree p then (if r.1 = 0 then r.2 else s).beginCommand p c args op r.1 else s

/-- An unfinished SNAPSHOT or FORK still fills a context (R40, R47). -/
def State.beingFilled (s : State) (c : CtxNo) : Bool :=
  (List.finRange 4).any (fun p => match s.ports[p.val].waiting with
    | some (_, op) => (op == 4 || op == 5) && s.ports[p.val].args[0].setWidth 18 == c && (s.ses c).isNone
    | none => false)

/-! ### CREATE -/

/-- The word at C:0x0000 of a title as the Curator reads it (R41, R111). -/
def State.resetVector (s : State) (t : BitVec 16) : Word :=
  let l := s.agentBytes s.curatorDie ((s.titleOf t).frame 0 * 4096) 2
  byteAt l 1 ++ byteAt l 0

def State.createAt (c : CtxNo) (s : State) : Nat × State :=
  let x := s.ctx c
  if x.state ≠ .free then (1, s)
  else if !s.titleReady x.title then (7, s)
  else match startTiming x with
    | none => (7, s)
    | some t =>
      match s.takePages c none (statePages x.profile) with
      | none => (5, s)
      | some s1 =>
        let pc := s.resetVector x.title
        (0, (s1.modCtx c (fun y => { y with
          state := .suspended, wakePending := false
          ses := some (Session.initial x.profile x.xmode pc t) })).setRoot c)

/-- CREATE (R41, R54, R111, R207, R462). -/
def execCreate (port : Fin 4) (c : CtxNo) (s : State) : Outcome := .next (s.command port c [] 1 (s.createAt c))

/-! ### ADMIT -/

def State.admitAt (c : CtxNo) (k : Nat) (s : State) : Nat × State :=
  let x := s.ctx c
  if x.state ≠ .suspended then (1, s)
  else
    let r := s.admitCheck x k
    if r ≠ 0 then (r, s)
    else match s.reserve c k x.grand with
      | none => (5, s)
      | some s1 => (0, s1)

/-- ADMIT (R41, R42). -/
def execAdmitCtx (port : Fin 4) (c : CtxNo) (slot : SlotNo) (s : State) : Outcome :=
  .next (s.command port c [slot.setWidth 32] 2 (s.admitAt c slot.toNat))

/-! ### SUSPEND and RETIRE -/

def State.suspendAt (c : CtxNo) (s : State) : Nat × State :=
  if (s.ctx c).state = .running then (0, s.modCtx c (fun x => { x with state := .suspending })) else (1, s)

/-- SUSPEND (R41): the session stops at its next band boundary. -/
def execSuspend (port : Fin 4) (c : CtxNo) (s : State) : Outcome := .next (s.command port c [] 3 (s.suspendAt c))

def State.retireAt (c : CtxNo) (s : State) : Nat × State :=
  match (s.ctx c).state with
  | .suspended | .running | .exported | .quarantined => (0, s.modCtx c (fun x => { x with state := .retiring }))
  | _ => (1, s)

/-- RETIRE (R41, R44). -/
def execRetire (port : Fin 4) (c : CtxNo) (s : State) : Outcome := .next (s.command port c [] 9 (s.retireAt c))

/-- Every band of the session that virtual time has passed has been coded and queued. -/
def State.allCoded (s : State) (c : CtxNo) (k : Nat) : Bool :=
  s.sesD c true (fun x =>
    let y := s.slot k
    let b := x.lineOf x.vcyc / s.bandH k
    !decide (y.codedF < x.frame ∨ y.codedF = x.frame ∧ y.codedK < b)
      || y.kindAt y.codedF == 0
      || !(List.range (bandCount x.vtotal (s.bandH k))).any (fun j =>
          decide (j * s.bandH k < x.timingOf y.codedF 3) && decide (y.codedK ≤ j)
            && decide (y.codedF < x.frame ∨ y.codedF = x.frame ∧ j < b)))

/-- A stopped session has drained: nothing of it is still to be coded or released (R41). -/
def State.drained (s : State) (c : CtxNo) : Bool :=
  match s.heldSlot c with
  | some k =>
    let y := s.slot k
    y.stopped && y.videoQ.isEmpty && y.audioQ.isEmpty && y.audioWait.isEmpty && y.nextMarker.isNone && s.allCoded c k
  | none => false

/-- The end of a SUSPEND (R44). -/
def State.finishSuspend (c : CtxNo) (s : State) : State :=
  let s1 := s.writeBackAll c
  let s2 := if (s.ctx c).keepMirror then s1 else s1.dropMirror c
  (s2.freeSlot c).modCtx c (fun x => { x with state := .suspended })

/-- The state pages of a stored session stay in their frames as those are freed (log entry 66). -/
def State.keepImages (c : CtxNo) (s : State) : State :=
  match s.ses c, s.heldSlot c with
  | some x, none => { s with images := (statePages x.grand).foldl (fun m i =>
      let e := s.page c i
      if e.alloc then Sparse.set none m e.home.toNat (some (x, i)) else m) s.images }
  | _, _ => s

/-- The end of a RETIRE (R44): every page leaves the map, and the entry is at its reset values but for GEN. -/
def State.finishRetire (c : CtxNo) (s0 : State) : State :=
  let s := s0.keepImages c
  let s1 := (s.ctx c).pageList.foldl (fun (s : State) i => s.unmapPage c i) s
  (s1.freeSlot c).setCtx c { Context.reset with gen := (s.ctx c).gen }

/-- A RETIRE may end: virtual time has stopped where it ran. -/
def State.retireReady (s : State) (c : CtxNo) : Bool :=
  match s.heldSlot c with
  | some k => (s.slot k).stopped
  | none => true

/-! ### SNAPSHOT and FORK (R47, R80) -/

/-- The new context's mirror is a copy of the source's. -/
def Context.mirrorCopied (x : Context) (fork : Bool) : Bool := !fork && (x.state == .running || x.keepMirror)

/-- The fields a snapshot takes from its source. -/
def Context.inherit (x : Context) (mirror : Bool) (y : Context) : Context :=
  { y with state := .suspended, profile := x.profile, xmode := x.xmode, keepMirror := mirror, wake := false,
           title := x.title, envH := x.envH, envV := x.envV, periodFx := x.periodFx, vclk := x.vclk, lead := x.lead,
           ses := none, wakePending := false }

/-- The pages a snapshot copies: the state pages and, where it has one, the mirror. -/
def Context.copiedPages (x : Context) (mirror : Bool) : List Nat :=
  statePages x.grand ++ (if mirror then mirrorPages.filter (fun i => (x.page i).alloc) else [])

/-- A shared page of D, V or S space goes into the new map (R80). -/
def State.sharePage (c n : CtxNo) (i : Nat) (s : State) : State :=
  let e := s.page c i
  if e.alloc && decide (3 ≤ i ∧ i < 219) then
    ((s.modPage c i (fun x => { x with cow := true })).modFrame e.home.toNat (fun r =>
      { r with shares := r.shares + 1 })).setPage n i
        { PageEntry.none with alloc := true, cow := true, home := e.home }
  else s

/-- The pages of a new context that are copies of the source's: its state pages, and a SNAPSHOT's mirror; a FORK's mirror frames are its
own (R47). -/
def State.copyPages (c n : CtxNo) (s : State) : State :=
  (s.ctx n).pageList.foldl (fun (s : State) i =>
    if decide (i < 3) || decide (219 ≤ i) && (s.ctx n).keepMirror then
      (match s.pageFrame c i, s.pageFrame n i with
        | some a, some b => s.copyFrame a b
        | _, _ => s)
    else s) s

/-- The Curator operation of a SNAPSHOT (R47, R80): the source's staged lines written back, pages shared and copied, and its session
captured. -/
def State.snapFill (c n : CtxNo) (s : State) : State :=
  let s1 := s.flushLines c
  let s2 := ((s1.ctx c).pageList.foldl (fun (s : State) i => s.sharePage c n i) s1).copyPages c n
  s2.modCtx n (fun y => { y with ses := s1.ses c })

/-- The checks and takings of a SNAPSHOT or FORK at its turn (R40, R47): a FORK makes ADMIT's checks before SNAPSHOT's frames are
taken (DESIGN CHOICE, log entry 68). -/
def State.snapAt (p : Fin 4) (c n : CtxNo) (fork : Option Nat) (s : State) : Nat × State :=
  let x := s.ctx c
  if (x.state ≠ .running ∧ x.state ≠ .suspended) ∨ (s.ctx n).state ≠ .free ∨ n = c then (1, s)
  else
    let r := match fork with | some k => s.admitCheck x k | none => 0
    if r ≠ 0 then (r, s)
    else
      let mirror := x.mirrorCopied fork.isSome
      let s0 := (s.modPort p (fun q => { q with prior := some (s.ctx n) })).modCtx n (x.inherit mirror)
      match s0.takePages n none (x.copiedPages mirror) with
      | none => (5, s)
      | some s1 =>
        let s2 := s1.setRoot n
        let go := fun (z : State) => if x.state = .suspended ∧ (s.ses c).isSome then z.snapFill c n else z
        match fork with
        | none => (0, go s2)
        | some k => match s2.reserve n k x.grand with
          | none => (5, s)
          | some s3 => (0, go s3)

/-- SNAPSHOT (R41, R47): from RUNNING, the operation takes place at the next band boundary. -/
def execSnapshot (port : Fin 4) (c new : CtxNo) (s : State) : Outcome :=
  .next (s.command port c [new.setWidth 32] 4 (s.snapAt port c new none))

/-- FORK (R41, R47). -/
def execFork (port : Fin 4) (c new : CtxNo) (slot : SlotNo) (s : State) : Outcome :=
  .next (s.command port c [new.setWidth 32, slot.setWidth 32] 5 (s.snapAt port c new (some slot.toNat)))

/-- The Curator operations that wait for a context's boundary are carried out (R47). -/
def State.snapBoundary (c : CtxNo) (s : State) : State :=
  ([0, 1, 2, 3] : List (Fin 4)).foldl (fun (s : State) (p : Fin 4) =>
    match s.ports[p.val].waiting with
    | some (c', op) =>
      let n : CtxNo := s.ports[p.val].args[0].setWidth 18
      if c' = c ∧ (op = 4 ∨ op = 5) ∧ (s.ses n).isNone then s.snapFill c n else s
    | none => s) s

/-! ### EXPORT, RETURN, IMPORT (R48) -/

/-- The Loam address in the arguments of EXPORT and IMPORT. -/
def manifestArgs (a : LoamAddr) : List Reg32 := [a.setWidth 32, (a.toNat / 2 ^ 32 : Nat)]

/-- A manifest address that EXPORT and IMPORT take: 64-byte aligned, in memory the Curator reaches; BAD_ARG otherwise (R24, R48;
DESIGN CHOICE, log entry 68). -/
def State.manifestOk (s : State) (a n : Nat) : Bool := a % 64 == 0 && s.reachesAll s.curatorDie a n

def State.exportAt (c : CtxNo) (a : LoamAddr) (s : State) : Nat × State :=
  let x := s.ctx c
  if x.state ≠ .suspended then (1, s)
  else if !s.manifestOk a.toNat (48 + 16 * x.mapped) then (7, s)
  else
    let kept := x.ses.toList.filter (fun y => !s.captured.contains y)
    (0, { s.modCtx c (fun x => { x with state := .exported }) with captured := kept ++ s.captured })

/-- EXPORT (R48). -/
def execExportCtx (port : Fin 4) (c : CtxNo) (a : LoamAddr) (s : State) : Outcome :=
  .next (s.command port c (manifestArgs a) 6 (s.exportAt c a))

/-- A page's manifest entry. -/
def State.manifestEntry (s : State) (i : Nat) (e : PageEntry) : List Byte :=
  bytesBE 1 (pageSpace i).1 ++ bytesBE 1 (b2n (decide (1 < (s.frame e.home.toNat).shares.toNat)))
    ++ bytesBE 2 (pageSpace i).2 ++ bytesBE 4 0 ++ bytesBE 8 (e.home.toNat * 4096)

/-- The manifest of a context (R48). -/
def State.manifest (s : State) (c : CtxNo) : List Byte :=
  let pages := (s.ctx c).pages.filter (fun e => e.2.alloc)
  (List.range 4).flatMap (fun k => bytesBE 8 (s.entryWord c k)) ++ bytesBE 4 pages.length ++ bytesBE 12 0
    ++ pages.flatMap (fun e => s.manifestEntry e.1 e.2)

def State.returnAt (c : CtxNo) (s : State) : Nat × State :=
  if (s.ctx c).state = .exported then (0, s.modCtx c (fun x => { x with state := .suspended })) else (1, s)

/-- RETURN (R41). -/
def execReturnCtx (port : Fin 4) (c : CtxNo) (s : State) : Outcome := .next (s.command port c [] 7 (s.returnAt c))

/-- The page map index of a space and page, where there is one (R48, R59). -/
def pageIndexOf (space page : Nat) : Option Nat :=
  if space = 0 then (if page < 3 then some page else none)
  else if space = 1 then (if page < 24 then some (3 + page) else none)
  else if space = 2 then (if page < 128 then some (27 + page) else none)
  else if space = 3 then (if page < 64 then some (155 + page) else none)
  else if space = 4 then (if page < 8 then some (219 + page) else none)
  else none

/-- The pages a manifest lists: page map index and Loam address. A COUNT above the 227 entries of a page map acts as 227, and an entry
of no space and page is passed over (DESIGN CHOICE, log entry 68). -/
def State.manifestPages (s : State) (a : Nat) : List (Nat × Nat) :=
  let rd := fun (b n : Nat) => s.agentBytes s.curatorDie b n
  (List.range (min 227 (ofBytesBE (rd (a + 32) 4)))).filterMap (fun i =>
    let e := rd (a + 48 + 16 * i) 16
    (pageIndexOf (byteAt e 0).toNat (ofBytesBE ((e.drop 2).take 2))).map (fun j =>
      (j, ofBytesBE ((e.drop 8).take 8) % 2 ^ 48)))

/-- The pages of a manifest copied into new home frames, all or none. -/
def State.importPages (c : CtxNo) : List (Nat × Nat) → State → Option State
  | [], s => some s
  | (i, a) :: l, s =>
    match s.takeHome none false with
    | none => none
    | some (h, s1) =>
      State.importPages c l ((s1.copyFrame (s1.served (a / 4096)) h).setPage c i
        { PageEntry.none with alloc := true, home := BitVec.ofNat 25 h })

/-- The words at an address are those of a state page of a session, its page map apart. -/
def State.holdsImage (s : State) (y : Session) (e : Nat × Nat) : Bool :=
  let n := if e.1 = 0 then 1024 else 2048
  (s.loamWords e.2 2048).take n == (List.range n).map (Config.stateImage y e.1)

/-- The sessions whose state pages memory may hold: of stored contexts, of freed frames, and those exported. -/
def State.knownSessions (s : State) : List Session :=
  s.ctxs.filterMap (fun e => if e.2.state.stored then e.2.ses else none) ++ s.images.filterMap (fun e => e.2.map (·.1)) ++ s.captured

/-- The session that imported state pages hold (R45): that of the stored context whose page they are, or of the freed frame; else the one
whose words they are; else one nothing fixes (log entry 66). -/
def State.sessionAt (s : State) (c : CtxNo) (pages : List (Nat × Nat)) : Session :=
  let l := pages.filter (fun e => decide (e.1 < 3))
  match l.find? (fun e => e.1 == 0) with
  | some (_, a) =>
    (match (s.statePage (a / 4096)).bind (fun e => if (s.ctx e.1).state.stored && e.2 == 0 then s.ses e.1 else none),
        s.image (a / 4096) with
      | some y, _ => y
      | none, some (y, 0) => y
      | _, _ => (s.knownSessions.find? (fun y => l.all (s.holdsImage y))).getD (Config.freeSession c.toNat))
  | none => Config.freeSession c.toNat

/-- The words of the pages a manifest lists, and its own, that hold inverted parity: the address of the first (R391). -/
def State.importBad (s : State) (a : Nat) : Option Nat :=
  let l := s.manifestPages a
  (if s.loamBad a 24 then some a else none).or ((l.find? (fun e => s.frameBad (s.served (e.2 / 4096)))).map (·.2))

/-- IMPORT at its turn (R48, R79). A manifest or page that the Curator does not reach or cannot read ends it with BAD_ARG (DESIGN
CHOICE, log entry 68). -/
def State.importAt (c : CtxNo) (a : LoamAddr) (s : State) : Nat × State :=
  if (s.ctx c).state ≠ .free then (1, s)
  else if !s.manifestOk a.toNat 48 then (7, s)
  else
    let w := fun (k : Nat) => ofBytesBE (s.agentBytes s.curatorDie (a.toNat + 8 * k) 8)
    let x := ((((s.ctx c).takeWord 0 (w 0)).takeWord 2 (w 2)).takeWord 3 (w 3))
    let pages := s.manifestPages a.toNat
    if !s.titleReady x.title then (7, s)
    else if !(s.manifestOk a.toNat (48 + 16 * pages.length) && pages.all (fun e => s.reaches s.curatorDie e.2))
      || (s.importBad a.toNat).isSome then (7, s)
    else
      match (s.setCtx c x).importPages c pages with
      | none => (5, s)
      | some s1 =>
        let y := s.sessionAt c pages
        let z := if s.knownSessions.contains y then y else { y with grand := x.profile, fast := x.xmode }
        (0, (s1.modCtx c (fun q => { q with state := .importing, ses := some z })).setRoot c)

/-- A persistent read of a manifest or a page it lists (R391). -/
def State.importFail (c : CtxNo) (a : Nat) (s : State) : State :=
  match (if (s.ctx c).state = .free then s.importBad a else none) with
  | some b => s.persistent .rd (BitVec.ofNat 8 (0x40 * s.curatorDie + 0x30)) b
  | none => s

/-- IMPORT (R48). -/
def execImportCtx (port : Fin 4) (c : CtxNo) (a : LoamAddr) (s : State) : Outcome :=
  .next (let t := s.command port c (manifestArgs a) 8 (s.importAt c a)
    if s.portFree port && s.manifestOk a.toNat 48 then t.importFail c a.toNat else t)

/-! ### RELEASE and the end of commands -/

def State.releaseCtx (c : CtxNo) (s : State) : Nat × State :=
  if (s.ctx c).state ≠ .quarantined then (1, s)
  else if (s.titleOf (s.ctx c).title).state = 2 then (7, s)
  else (0, s.modCtx c (fun x => { x with state := .suspended }))

/-- RELEASE (R435, R436). -/
def execRelease (port : Fin 4) (c : CtxNo) (s : State) : Outcome := .next (s.command port c [] 0xA (s.releaseCtx c))

/-- GEN counts an entry taken out of FREE (R36). -/
def State.nextGen (c : CtxNo) (s : State) : State := s.modCtx c (fun x => { x with gen := x.gen + 1 })

/-- A command that waits comes to its end, where it can. -/
def State.finish (p : Fin 4) (c : CtxNo) (op : Nat) (s : State) : State :=
  let n : CtxNo := s.ports[p.val].args[0].setWidth 18
  let addr := s.ports[p.val].args[0].toNat + 2 ^ 32 * (s.ports[p.val].args[1].toNat % 65536)
  let done := fun (z : State) => z.endPort p 0
  if op = 1 then done (s.nextGen c)
  else if op = 2 then (if (s.ses c).isSome then done (s.enterRunning c) else s)
  else if op = 3 then (if s.drained c then done (s.finishSuspend c) else s)
  else if op = 4 ∨ op = 5 then
    let s1 := if (s.ses n).isNone && (s.ctx c).state == .suspended then s.snapFill c n else s
    if (s1.ses n).isNone then s
    else if op = 4 then done (s1.nextGen n)
    else done ((s1.enterRunning n).nextGen n)
  else if op = 6 then (if s.beingFilled c then s else done (s.agentStore s.curatorDie addr (s.manifest c)))
  else if op = 7 then done s
  else if op = 8 then done ((s.nextGen c).modCtx c (fun x => { x with state := .suspended }))
  else if op = 9 then (if s.retireReady c && !s.beingFilled c then done (s.finishRetire c) else s)
  else done s

/-- COMMAND_DONE (R39). -/
def execCommandDone (port : Fin 4) (s : State) : Outcome :=
  let q := s.ports[port.val]
  .next (if !q.busy then s
    else match q.waiting with
      | some (c, op) => s.finish port c op.toNat
      | none => s.endPort port q.result.toNat)

/-! ### Placement (R107) -/

/-- Cores of a die in ascending order of issue charge, the lower index on a tie. -/
def State.coreOrder (s : State) (d : Nat) : List Nat :=
  ((List.range 128).map (128 * d + ·)).mergeSort (fun a b => decide (s.issueUsed a ≤ s.issueUsed b))

/-- The candidate slots of a query in the order of R107. -/
def State.candidates (s : State) (grand : Bool) : List Nat :=
  let pol := field (s.regN (bscBase + 0x128)) 0 2
  let dies := if pol = 2 then [0] else if pol = 3 then [1] else if pol = 1 then [0, 1]
    else if s.pixUsed 0 ≤ s.pixUsed 1 then [0, 1] else [1, 0]
  (dies.filter (fun d => s.power.dieUp d)).flatMap (fun d =>
    (s.coreOrder d).flatMap (fun core =>
      ((List.range 64).filter (fun t => !grand || t % 4 == 0)).map (fun t => 64 * core + t)))

/-- The first candidate that passes, or the RESULT of the last that failed (DIE_DOWN where there is none). -/
def State.place (s : State) (x : Context) : Nat × Nat :=
  (s.candidates x.grand).foldl (fun (r : Nat × Nat) k =>
    if r.1 = 0 then r else let q := s.admitCheck x k; (q, if q = 0 then k else 0)) (6, 0)

/-- PLACEMENT_QUERY (R107): BSC_PLQ written with GO; the result stands in BSC_PLQ_RES. -/
def State.placeQuery (c : CtxNo) (s : State) : State :=
  let r := s.place (s.ctx c)
  (s.setReg (bscBase + 0x120) c.toNat).setReg (bscBase + 0x124) (r.1 * 2 ^ 16 + r.2)

def execPlacementQuery (c : CtxNo) (s : State) : Outcome := .next (if s.portsUp then s.placeQuery c else s)

/-! ### Schedule registers and FIFOs -/

/-- The slot's threads are held (R108). -/
def State.slotHeld (s : State) (k : Nat) : Bool := (s.slot k).ctx.isSome

/-- The books of a die latched (R101): CLOCKS and IDLE follow from the running books. -/
def State.snapBooks (d : Nat) (s : State) : State :=
  let v := fun i => s.cnt (bookAddr d i)
  let clocks := max (v 0) (v 1 + v 2)
  let put := fun (i n : Nat) (s : State) =>
    (s.setReg (bookAddr d i) (n % 2 ^ 32)).setReg (bookAddr d i + 4) (n / 2 ^ 32)
  put 5 (v 5) (put 4 (v 4) (put 3 (clocks - v 1 - v 2) (put 2 (v 2) (put 1 (v 1) (put 0 clocks s)))))

/-- BSC_BOOK_SNAP (R101). -/
def execBscBookSnap (s : State) : Outcome := .next (if s.portsUp then (s.snapBooks 0).snapBooks 1 else s)

/-- PERIOD_COMMIT (R108, R109): the PERIOD_H write commits the pair. -/
def State.periodCommit (k h : Nat) (s : State) : State :=
  let low := s.regN (schAddr k 0x10)
  let p := low + 2 ^ 32 * h
  let put := (s.setReg (schAddr k 0x11) low).setReg (schAddr k 0x14) h
  if s.slotHeld k then
    if p = 0 ∨ p < (s.ctx (s.slotCtx k)).periodFx.toNat then s.setReg (schAddr k 0x10) (s.regN (schAddr k 0x11))
    else put.modSlot k (fun x => { x with periodPend := some p })
  else put

def execPeriodCommit (slot : SlotNo) (h : BitVec 12) (s : State) : Outcome :=
  .next (if s.power.hub then s.periodCommit slot.toNat h.toNat else s)

/-- PHASE_WRITE (R110): a write while the slot is not held is discarded. -/
def State.phaseWrite (k : Nat) (adj : Reg32) (s : State) : State :=
  if s.slotHeld k then (s.setReg (schAddr k 0x1C) adj.toNat).modSlot k (fun x => { x with phasePend := some adj }) else s

def execPhaseWrite (slot : SlotNo) (adj : Reg32) (s : State) : Outcome :=
  .next (if s.power.hub then s.phaseWrite slot.toNat adj else s)

/-- SLIP_RECORD_READ (R103): the oldest record is answered and removed; 0 when there is none. -/
def State.slipRead (d : Fin 2) (s : State) : State :=
  match s.slipFifo[d.val] with
  | v :: l => ({ s with slipFifo := s.slipFifo.set d.val l }.setLevel (5 + d.val) (!l.isEmpty)).reply v.toNat
  | [] => s.reply 0

def execSlipRecordRead (die : Fin 2) (s : State) : Outcome := .next (if s.portsUp then s.slipRead die else s)

/-- HALT_RECORD_READ (R371). -/
def State.haltRead (d : Fin 2) (s : State) : State :=
  match s.haltFifo[d.val] with
  | v :: l => ({ s with haltFifo := s.haltFifo.set d.val l }.setLevel (7 + d.val) (!l.isEmpty)).reply v.toNat
  | [] => s.reply 0

def execHaltRecordRead (die : Fin 2) (s : State) : Outcome := .next (if s.portsUp then s.haltRead die else s)

end Sys2Proof.Machine
end

