-- ==== Sys2Proof/Machine/Blitter.lean ====
section
/-! DEFINITION. The blitter (R236 to R249): surfaces, raster operations, overlap, the schedule of a blit in virtual time,
its ends and its signals, and stores to its registers. -/

namespace Sys2Proof.Machine

/-! ### Surfaces (R236) -/

/-- Pixels in a word. -/
def pixPerWord (depth : Nat) : Nat := 16 / max 1 depth

/-- Pixels in a surface row. -/
def rowPixels (stride depth : Nat) : Nat := stride * pixPerWord depth

/-- A word address of a surface. -/
def surfWord (base stride depth x y : Nat) : Nat := (base + y * stride + x / pixPerWord depth) % 65536

/-- The lowest bit of pixel `x` within its word (R180). -/
def pixShift (depth x : Nat) : Nat := 16 - depth - depth * (x % pixPerWord depth)

/-- A pixel of a word. -/
def pixOf (depth x : Nat) (w : Word) : Nat := field w.toNat (pixShift depth x) depth

/-! ### Operations (R238, R239) -/

/-- A raster operation on values of `depth` bits. -/
def ropBits (rop : BitVec 4) (depth sv dv : Nat) : Nat :=
  ((List.range depth).map (fun i =>
    if rop.getLsbD (2 * b2n (sv.testBit i) + b2n (dv.testBit i)) then 2 ^ i else 0)).sum

/-- ROP uses S; ROP uses D. -/
def ropUsesS (rop : BitVec 4) : Bool := rop.extractLsb' 2 2 != rop.extractLsb' 0 2
def ropUsesD (rop : BitVec 4) : Bool := rop.getLsbD 3 != rop.getLsbD 2 || rop.getLsbD 1 != rop.getLsbD 0

/-- The blit reads its source. -/
def Blit.readsS (b : Blit) : Bool := !b.fillOp && (ropUsesS b.rop || b.keyen)

/-- A destination pixel's new value, or none where the key leaves it. -/
def Blit.pixel (b : Blit) (sv dv : Nat) : Option Nat :=
  let m := 2 ^ b.depth
  let src := if b.fillOp then b.fill.toNat % m else sv
  if !b.fillOp && b.keyen && src == b.key.toNat % m then none else some (ropBits b.rop b.depth src dv)

/-! ### Bursts (R243) -/

/-- The first and last destination words of a row, counted from the row's first word of the surface. -/
def Blit.word0 (b : Blit) : Nat := b.dx / pixPerWord b.depth
def Blit.word1 (b : Blit) : Nat := (b.dx + b.width - 1) / pixPerWord b.depth
def Blit.rowWords (b : Blit) : Nat := if b.width = 0 ∨ b.height = 0 then 0 else b.word1 - b.word0 + 1
def Blit.rowBursts (b : Blit) : Nat := (b.rowWords + 63) / 64
def Blit.bursts (b : Blit) : Nat := b.rowBursts * b.height

/-- Words of burst `i` of a row. -/
def Blit.burstWords (b : Blit) (i : Nat) : Nat := min 64 (b.rowWords - 64 * i)

/-- The first destination word of burst `i` of a row, counted as `word0` is: from the right when XDESC. -/
def Blit.burstAt (b : Blit) (i : Nat) : Nat :=
  if b.xdesc then b.word1 + 1 - 64 * i - b.burstWords i else b.word0 + 64 * i

/-- The destination row the blit stands at. -/
def Blit.yNow (b : Blit) : Nat := if b.ydesc then b.height - 1 - b.row else b.row

/-- The landing cycle of the present burst. -/
def Blit.land (b : Blit) : Nat :=
  if b.bursts = 0 then b.start else b.start + b.burstWords b.burst * b.cost + 1

/-- The present burst is the last. -/
def Blit.last (b : Blit) : Bool := decide (b.bursts ≤ b.row * b.rowBursts + b.burst + 1)

/-- What a burst writes to its `j`th destination word: address, bits written, values. `rd` reads a word of a bank. -/
def Blit.wordWrite (b : Blit) (rd : Nat → Nat → Word) (j : Nat) : Nat × Word × Word :=
  let w := b.burstAt b.burst + j
  let y := b.yNow
  let a := (b.dbase + (b.dy + y) * b.dstride + w) % 65536
  let old := rd b.dbank a
  let px := (List.range (pixPerWord b.depth)).filterMap (fun i =>
    let x := w * pixPerWord b.depth + i
    if b.dx ≤ x ∧ x < b.dx + b.width then
      let sx := b.sx + (x - b.dx)
      let sv := if b.readsS then pixOf b.depth sx (rd b.sbank (surfWord b.sbase b.sstride b.depth sx (b.sy + y))) else 0
      (b.pixel sv (pixOf b.depth x old)).map (fun v => (pixShift b.depth x, v))
    else none)
  (a, BitVec.ofNat 16 ((px.map (fun e => (2 ^ b.depth - 1) * 2 ^ e.1)).sum), BitVec.ofNat 16 ((px.map (fun e => e.2 * 2 ^ e.1)).sum))

/-- The words a burst reads: bank and address. -/
def Blit.burstReads (b : Blit) : List (Nat × Nat) :=
  let y := b.yNow
  (List.range (b.burstWords b.burst)).flatMap (fun j =>
    let w := b.burstAt b.burst + j
    (b.dbank, (b.dbase + (b.dy + y) * b.dstride + w) % 65536) ::
      (if b.readsS then
        (List.range (pixPerWord b.depth)).filterMap (fun i =>
          let x := w * pixPerWord b.depth + i
          if b.dx ≤ x ∧ x < b.dx + b.width then
            some (b.sbank, surfWord b.sbase b.sstride b.depth (b.sx + (x - b.dx)) (b.sy + y))
          else none)
      else []))

/-! ### Overlap (R240, R241) -/

/-- The word addresses of a rectangle. -/
def rectWords (base stride depth x y w h : Nat) : List Nat :=
  if w = 0 then [] else
    (List.range h).flatMap (fun r =>
      (List.range ((x + w - 1) / pixPerWord depth - x / pixPerWord depth + 1)).map (fun i =>
        (base + (y + r) * stride + x / pixPerWord depth + i) % 65536))

/-- Some word is both read as source and written. -/
def Blit.overlapping (b : Blit) : Bool :=
  b.readsS && b.sbank == b.dbank
    && (let d := rectWords b.dbase b.dstride b.depth b.dx b.dy b.width b.height
        (rectWords b.sbase b.sstride b.depth b.sx b.sy b.width b.height).any d.contains)

/-- Both rectangles lie in one grid (R240). -/
def Blit.oneGrid (b : Blit) : Bool :=
  b.sstride == b.dstride
    && (let d := (b.dbase + 65536 - b.sbase) % 65536
        if b.sstride = 0 then d == 0 else d % b.sstride == 0)

/-- The source's grid row: SY plus the bases' distance in rows, as a signed count (R240). The distance is that of the addresses
as they stand where it is whole rows, else that of the way round past 0xFFFF (DEDUCED, log entry 65). -/
def Blit.sourceRow (b : Blit) : Int :=
  let d : Int := (b.sbase : Int) - b.dbase
  let n : Int := (max 1 b.sstride : Nat)
  (b.sy : Int) + (if d % n = 0 then d / n else (d - 65536) / n)

/-- The directions of an overlapping blit (R241). -/
def Blit.direct (b : Blit) : Blit :=
  if b.overlapping then { b with ydesc := decide (b.sourceRow < (b.dy : Int)), xdesc := decide (b.sx < b.dx) } else b

/-- The parameters as a GO landing in cycle `g` copies them (R242). -/
def Session.blitParams (g : Nat) (x : Session) : Blit :=
  let mode := x.ioN 0xF801
  let b : Blit :=
    { fillOp := field mode 0 2 == 1, depth := 4 * 2 ^ field mode 2 2, rop := BitVec.ofNat 4 (field mode 5 4)
      keyen := mode.testBit 4, sbank := x.bankOf (field mode 9 2), dbank := x.bankOf (field mode 11 2)
      sbase := x.ioN 0xF802, sstride := x.ioN 0xF803, sx := x.ioN 0xF804, sy := x.ioN 0xF805
      dbase := x.ioN 0xF806, dstride := x.ioN 0xF807, dx := x.ioN 0xF808, dy := x.ioN 0xF809
      width := x.ioN 0xF80A, height := x.ioN 0xF80B, fill := x.ioW 0xF80C, key := x.ioW 0xF80D
      dead := x.ioN 0xF80E, wmline := x.ioN 0xF80F, ydesc := false, xdesc := false, cost := 1, row := 0, burst := 0
      start := g + 5, rowsDone := 0, wmRaised := false, latched := none, abort := false }
  let c := { b with cost := 1 + b2n b.readsS + b2n (ropUsesD b.rop) }.direct
  if c.bursts = 0 then { c with start := g + 4 } else c

/-- The blit has no pixels: it reads and writes no rectangle. -/
def Blit.empty (b : Blit) : Bool := b.width == 0 || b.height == 0

/-- A blit is refused (R242). One with W or H of 0 breaks no limit; a DEPTH of 0b11 is refused all the same (DEDUCED, log entry
65). -/
def Blit.refused (b : Blit) : Bool :=
  decide (16 < b.depth)
    || (!b.empty && (b.readsS && decide (rowPixels b.sstride b.depth < b.sx + b.width)
      || decide (rowPixels b.dstride b.depth < b.dx + b.width)
      || (b.overlapping && !b.oneGrid)))

/-! ### Signals (R245, R246) -/

def statBit (n : Nat) (x : Session) : Session := x.orIo 0xF810 (2 ^ n)

/-- Destination rows written in full, from the top, that the watermark asks for. -/
def Blit.wmNeed (b : Blit) : Nat := if b.wmline < b.dy then 0 else min b.wmline (b.dy + b.height - 1) - b.dy + 1

/-- Every row up to the watermark is written, once `done` rows are. -/
def Blit.wmMet (b : Blit) (done : Nat) : Bool :=
  if b.ydesc then decide (b.wmNeed = 0 ∨ b.height ≤ done) else decide (b.wmNeed ≤ done)

/-- BLIT_WM is raised, once (R246). -/
def Session.raiseWm (x : Session) : Session :=
  match x.blit with
  | some b =>
    if x.grand || b.wmRaised then x
    else
      let y := statBit 7 { x with blit := some { b with wmRaised := true } }
      { y with int := y.int.raise 3 }
  | none => x

/-- The blit ends in cycle `t` (R245): DONE or ABORTED. -/
def Session.endBlit (aborted : Bool) (t : Nat) (x : Session) : Session :=
  let y := statBit (if aborted then 2 else 1) x.raiseWm
  let z := if y.grand then { y with int := y.int.raise 4 } else y
  { z with blit := none, blitEnd := t + 1 }

/-- A burst has landed in cycle `t`: the schedule goes on, or the blit ends (R243, R245 to R247). -/
def Session.burstLanded (b : Blit) (t : Nat) (x : Session) : Session :=
  let rowEnd := decide (b.rowBursts ≤ b.burst + 1)
  let rows := b.rowsDone + b2n rowEnd
  let y := (x.setIo 0xF811 rows)
  let nb : Blit := { b with
    latched := none, rowsDone := rows, row := if rowEnd then b.row + 1 else b.row
    burst := if rowEnd then 0 else b.burst + 1, start := t + 1 + b.dead }
  let z := { y with blit := some nb }
  let w := if b.wmMet rows then z.raiseWm else z
  if b.last then (if b.abort then statBit 3 w else w).endBlit false t
  else if b.abort then w.endBlit true t else w

/-! ### The bursts on the machine -/

/-- Every word of a list is brought in for reading. False: one waits, or has failed (R66, R86). -/
def State.bringWords (c : CtxNo) : List (Nat × Nat) → State → State × Bool
  | [], s => (s, true)
  | (bank, a) :: l, s =>
    match s.vRead c bank a with
    | (s1, some _) => State.bringWords c l s1
    | (s1, none) => (s1, false)

/-- The burst begins: its words are read as they stand (R243). -/
def State.blitStart (c : CtxNo) (b : Blit) (s : State) : State × Bool :=
  match s.bringWords c b.burstReads with
  | (s1, true) =>
    let rd := fun bank a => s1.peek c (vPage bank a) (a % 2048)
    (s1.modSes c (fun x =>
      { x with blit := some { b with latched := some ((List.range (b.burstWords b.burst)).map (b.wordWrite rd)) } }), true)
  | r => r

/-- One word lands: only the destination pixels change (R237). -/
def State.blitWord (c : CtxNo) (bank t : Nat) (e : Nat × Word × Word) (s : State) : State × Bool :=
  let old := s.peek c (vPage bank e.1) (e.1 % 2048)
  if e.2.1 = 0 then (s, true) else s.vWrite c bank e.1 ((old &&& ~~~e.2.1) ||| e.2.2) t

/-- Words land in order, as long as none waits. -/
def State.blitWords (c : CtxNo) (bank t : Nat) : List (Nat × Word × Word) → State → State × Bool
  | [], s => (s, true)
  | e :: l, s =>
    match s.blitWord c bank t e with
    | (s1, true) => State.blitWords c bank t l s1
    | r => r

/-- The burst lands (R243, R244). -/
def State.blitLand (c : CtxNo) (b : Blit) (s : State) : State × Bool :=
  match s.blitWords c b.dbank b.land (b.latched.getD []) with
  | (s1, true) => (s1.modSes c (·.burstLanded b b.land), true)
  | r => r

/-! ### Stores to the blitter's registers (R242, R247) -/

/-- A GO lands in cycle `g`. -/
def Session.blitGo (g : Nat) (x : Session) : Session :=
  let b := x.blitParams g
  if x.blit.isSome || decide (g < x.blitEnd) then x
  else if b.refused then statBit 4 x
  else
    let y := (x.setIo 0xF810 (mergeBits 0xEE (x.ioN 0xF810) (b2n b.ydesc * 64 + b2n b.xdesc * 32))).setIo 0xF811 0
    { y with blit := some b }

/-- An abort lands in cycle `g`. -/
def Session.blitAbort (g : Nat) (x : Session) : Session :=
  match x.blit with
  | some b =>
    if b.latched.isSome then { x with blit := some { b with abort := true } } else x.endBlit true g
  | none => x

/-- A store to D:0xF800 to D:0xF87F, landing in cycle `g`. -/
def Session.blitStore (g a : Nat) (v : Word) (x : Session) : Session :=
  let d := ioDesc x.grand a
  if a = 0xF800 then
    if wbit v 1 then x.blitAbort g else if wbit v 0 then x.blitGo g else x
  else if d.rw = 0 ∧ d.w1c = 0 then x
  else x.setIo a (softWrite d (x.ioN a) v.toNat)

/-- BLT_STAT and BLT_ROWS as a load reads them: BUSY until the cycle after the blit's end. -/
def Session.blitRead (a : Nat) (x : Session) : Nat :=
  if a = 0xF810 then x.ioN a + b2n (x.blit.isSome || decide (x.cpu.now ≤ x.blitEnd)) else x.ioN a

end Sys2Proof.Machine
end

