-- ==== Sys2Proof/Machine/Dma.lean ====
section
/-! DEFINITION. Session DMA (R272 to R288): the port and its order, descriptor channels, streaming channels, aborts, and
stores to the registers. -/

namespace Sys2Proof.Machine

/-! ### Registers -/

def dmaReg (n r : Nat) : Nat := 0xF880 + 32 * n + r

def Session.ch (x : Session) (n : Fin 4) : DmaCh := x.dma[n.val]
def Session.setCh (n : Fin 4) (d : DmaCh) (x : Session) : Session := { x with dma := x.dma.set n.val d }

/-- EN is cleared by the channel. -/
def Session.clearEn (n : Nat) (x : Session) : Session :=
  x.setIo (dmaReg n 0) (x.ioN (dmaReg n 0) - x.ioN (dmaReg n 0) % 2)

/-- The ring length of a descriptor channel: 0 and above 256 act as 256 (R288). -/
def ringEntries (v : Nat) : Nat := if v = 0 ∨ 256 < v then 256 else v

/-! ### Words (R272, R273) -/

/-- A word a transfer reads, as it stands: what the thread has written in a staging line too (R273; DEDUCED, log entry 62). None
where the access waits. -/
def State.dmaRead (c : CtxNo) (space bank a : Nat) (s : State) : State × Option Word :=
  match s.ses c with
  | some x =>
    if space = 0 then
      (match (if a < 0xC000 && !x.fast then x.stagedWord (dLine a) (a % 64) else none) with
        | some w => (s, some w)
        | none => s.dUnitRead c a)
    else if space = 1 then s.vRead c (x.bankOf bank) (a % 65536)
    else s.sRead c (x.halfOf bank) (x.sWrap a)
  | none => (s, none)

/-- A word a transfer writes, landing in cycle `t`. -/
def State.dmaWrite (c : CtxNo) (t : Nat) (e : Nat × Nat × Nat × Word) (s : State) : State × Bool :=
  match s.ses c with
  | some x =>
    if e.1 = 0 then s.dUnitWrite c e.2.2.1 e.2.2.2
    else if e.1 = 1 then s.vWrite c (x.bankOf e.2.1) (e.2.2.1 % 65536) e.2.2.2 t
    else s.sWrite c (x.halfOf e.2.1) (x.sWrap e.2.2.1) e.2.2.2 t
  | none => (s, false)

def State.dmaWrites (c : CtxNo) (t : Nat) : List (Nat × Nat × Nat × Word) → State → State × Bool
  | [], s => (s, true)
  | e :: l, s =>
    match s.dmaWrite c t e with
    | (s1, true) => State.dmaWrites c t l s1
    | r => r

/-- Words read at increasing addresses. None: one waits, or has failed (R66, R86). -/
def State.dmaReads (c : CtxNo) (space bank a : Nat) : Nat → State → State × Option (List Word)
  | 0, s => (s, some [])
  | n + 1, s =>
    match s.dmaRead c space bank a with
    | (s1, some v) =>
      (match State.dmaReads c space bank (a + 1) n s1 with
        | (s2, some l) => (s2, some (v :: l))
        | r => r)
    | (s1, none) => (s1, none)

/-! ### Descriptors (R277 to R281) -/

def DmaCh.word (d : DmaCh) (i : Nat) : Nat := (d.desc.getD i 0).toNat
def DmaCh.own (d : DmaCh) : Bool := (d.word 0).testBit 15
def DmaCh.sspace (d : DmaCh) : Nat := field (d.word 0) 12 2
def DmaCh.dspace (d : DmaCh) : Nat := field (d.word 0) 10 2
def DmaCh.isFill (d : DmaCh) : Bool := (d.word 0).testBit 5
def DmaCh.len (d : DmaCh) : Nat := d.word 3
def DmaCh.rows (d : DmaCh) : Nat := field (d.word 4) 0 11

/-- The address one past the last D word of every row, from a start and a stride. -/
def DmaCh.span (d : DmaCh) (a stride : Nat) : Nat :=
  if d.len = 0 ∨ d.rows = 0 then 0 else a + (d.rows - 1) * stride + d.len

/-- A descriptor ends BADARG before its first burst (R279). -/
def DmaCh.badDesc (d : DmaCh) : Bool :=
  d.sspace == 3 || d.dspace == 3
    || (d.dspace == 0 && decide (0xC000 < d.span (d.word 2) (d.word 6)))
    || (!d.isFill && d.sspace == 0 && decide (0xF000 < d.span (d.word 1) (d.word 5)))

/-- The descriptor ends with a result: it is written back from the next cycle (R281). -/
def DmaCh.finish (result : BitVec 2) (t : Nat) (d : DmaCh) : DmaCh :=
  { d with phase := .writeBack, result := result, ready := t + 1 }

/-- A channel stops. -/
def DmaCh.stop (d : DmaCh) : DmaCh :=
  { d with phase := .off, held := false, abort := false, stopAfter := false, trigs := [], left := 0, next := none }

/-- A channel starts with a run's parameters, its first action from cycle `t` on; a rate gap goes on (R274, R278, R284). -/
def DmaCh.begin (stream : Bool) (r : DmaRun) (t : Nat) (d : DmaCh) : DmaCh :=
  { d with
    phase := if stream then .run else .fetch, kpend := false, ctrl := r.ctrl, p0 := r.p0, p1 := r.p1, dlen := r.dlen
    chunk := r.chunk, dbase := r.dbase, rate := r.rate, desc := [], left := if stream ∧ field r.ctrl.toNat 3 2 = 0 then r.chunk.toNat else 0
    held := false, ready := t, trigs := [], abort := false, abortLate := false, stopAfter := false, next := none }

/-- What a channel had begun before its EN became 0 has ended in cycle `t`: it stops, or starts the run that EN 1 has asked for
since. -/
def DmaCh.ended (stream : Bool) (t : Nat) (d : DmaCh) : DmaCh :=
  match d.next with
  | some r => { d.begin stream r (t + 1) with kpend := d.kpend }
  | none => d.stop

/-- A descriptor read has landed in cycle `t` (R278, R279). -/
def DmaCh.readDone (t : Nat) (d : DmaCh) : DmaCh :=
  if !d.own then
    if d.stopAfter then d.ended false t
    else if d.kpend then { d with kpend := false, ready := t + 1 } else { d with phase := .idle }
  else
    let e := { d with row := 0, col := 0, abort := false, abortLate := false }
    if d.badDesc then e.finish 2 t
    else if d.len = 0 ∨ d.rows = 0 then e.finish 0 t
    else { e with phase := .run, ready := t + 1 }

/-- Word 7 as written back (R277). -/
def DmaCh.word7 (d : DmaCh) : Word :=
  BitVec.ofNat 16 (d.result.toNat * 2 ^ 14 + b2n d.abortLate * 2 ^ 13 + d.row % 2048)

/-! ### Streaming (R284 to R286) -/

def DmaCh.trig (d : DmaCh) : Nat := field d.ctrl.toNat 3 2
def DmaCh.stream (n : Fin 4) : Bool := decide (2 ≤ n.val)

/-- Words of the next burst of a channel. -/
def Session.burstCount (n : Fin 4) (x : Session) : Nat :=
  let d := x.ch n
  if DmaCh.stream n then
    min (min 64 d.left) (min (d.p1.toNat - x.ioN (dmaReg n 3) % max 1 d.p1.toNat)
      (d.dlen.toNat - x.ioN (dmaReg n 6) % max 1 d.dlen.toNat))
  else min 64 (d.len - d.col)

/-- A trigger (R285). -/
def Session.trigger (n : Fin 4) (x : Session) : Session :=
  let d := x.ch n
  if d.phase ≠ .run then x
  else if d.left = 0 then x.setCh n { d with left := d.chunk.toNat }
  else if d.held then x.orIo (dmaReg n 9) 4
  else x.setCh n { d with held := true }

/-- The triggers of a cycle reach their channels. -/
def Session.triggersAt (t : Nat) (x : Session) : Session :=
  ([2, 3] : List (Fin 4)).foldl (fun (x : Session) n =>
    let d := x.ch n
    ((d.trigs.filter (· ≤ t)).foldl (fun (x : Session) _ => x.trigger n)
      (x.setCh n { d with trigs := d.trigs.filter (t < ·) }))) x

/-- A band boundary triggers the channels that wait for one. -/
def Session.bandTrigger (x : Session) : Session :=
  { x with dma := x.dma.map (fun d =>
    if d.phase = .run ∧ d.trig = 2 then { d with trigs := d.trigs ++ [x.cpu.now] } else d) }

/-! ### The port (R274) -/

/-- The first cycle in which a channel's action may start. -/
def DmaCh.startAt (d : DmaCh) (n : Fin 4) : Option Nat :=
  match d.phase with
  | .off | .idle => none
  | .fetch | .writeBack => some d.ready
  | .run => if DmaCh.stream n && d.left == 0 then none else some (max d.ready d.gapUntil)

/-- The channel whose action starts in cycle `t`: 2, 3, 0, 1. -/
def Session.nextCh (t : Nat) (x : Session) : Option (Fin 4) :=
  ([2, 3, 0, 1] : List (Fin 4)).find? (fun n =>
    match (x.ch n).startAt n with | some r => decide (r ≤ t) | none => false)

/-- The rate gap of a burst of `k` words that starts in cycle `t`. -/
def DmaCh.gap (t k : Nat) (d : DmaCh) : DmaCh :=
  { d with gapUntil := t + ((k + 2) * 64 + d.rate) / (d.rate + 1) }

/-- Where a burst reads from and writes to: spaces, banks and first addresses; whether it fills. -/
def Session.burstFrom (n : Fin 4) (x : Session) : (Nat × Nat × Nat) × (Nat × Nat × Nat) × Bool :=
  let d := x.ch n
  if DmaCh.stream n then
    let c := d.ctrl.toNat
    ((field c 5 2, field c 9 2, d.p0.toNat + x.ioN (dmaReg n 3) % max 1 d.p1.toNat),
     (field c 7 2, field c 11 2, d.dbase.toNat + x.ioN (dmaReg n 6) % max 1 d.dlen.toNat), false)
  else
    ((d.sspace, field (d.word 0) 8 2, d.word 1 + d.row * d.word 5 + d.col),
     (d.dspace, field (d.word 0) 6 2, d.word 2 + d.row * d.word 6 + d.col), d.isFill)

/-- A burst would read a word of the title window beyond the title's data pages (R279). -/
def State.badWindow (s : State) (c : CtxNo) (src : Nat × Nat × Nat) (k : Nat) : Bool :=
  src.1 == 0 && (List.range k).any (fun i => decide (0xC000 ≤ src.2.2 + i) && !s.dataOk c (src.2.2 + i))

/-- A burst of `k` words in hand, from its first cycle `t` (R273, R274). -/
def Session.carry (n : Fin 4) (t k : Nat) (words : List Word) (x : Session) : Session :=
  let dst := (x.burstFrom n).2.1
  { x.setCh n ((x.ch n).gap t k) with
    dmaAct := some { ch := n, first := t, land := t + k + 1, count := k, source := x.ioN (dmaReg n 3) % max 1 (x.ch n).p1.toNat,
                     words := words.zipIdx.map (fun e => (dst.1, dst.2.1, dst.2.2 + e.2, e.1)) } }

/-- A burst starts in cycle `t`: it reads its source words as they stand (R273). False: one waits, or has failed. -/
def State.startBurst (c : CtxNo) (n : Fin 4) (t : Nat) (x : Session) (s : State) : State × Bool :=
  let k := x.burstCount n
  let f := x.burstFrom n
  let d := x.ch n
  if !f.2.2 && s.badWindow c f.1 k then (s.modSes c (·.setCh n (d.finish 2 t)), true)
  else if f.2.2 then (s.modSes c (·.carry n t k (List.replicate k (BitVec.ofNat 16 (d.word 1)))), true)
  else match s.dmaReads c f.1.1 f.1.2.1 f.1.2.2 k with
    | (s1, some ws) => (s1.modSes c (·.carry n t k ws), true)
    | (s1, none) => (s1, false)

/-- The descriptor's first word in D space. -/
def Session.descAddr (n : Fin 4) (x : Session) : Nat := (x.ch n).p0.toNat + 8 * x.ioN (dmaReg n 3)

/-- A descriptor read starts in cycle `t` (R278). False: a word waits, or has failed. -/
def State.startRead (c : CtxNo) (n : Fin 4) (t : Nat) (x : Session) (s : State) : State × Bool :=
  match s.dmaReads c 0 0 (x.descAddr n) 8 with
  | (s1, some ws) =>
    (s1.modSes c (fun y =>
      { y.setCh n { x.ch n with desc := ws, descAt := x.descAddr n, kpend := false } with
        dmaAct := some { ch := n, first := t, land := t + 1, count := 0, source := 0, words := [] } }), true)
  | (s1, none) => (s1, false)

/-- A write-back starts in cycle `t` with word 7 (R281). -/
def Session.startBack (n : Fin 4) (t : Nat) (x : Session) : Session :=
  { x with dmaAct := some { ch := n, first := t, land := t, count := 7, source := 0,
                            words := [(0, 0, (x.ch n).descAt + 7, (x.ch n).word7)] } }

/-- The port starts an action in cycle `t`, where it is free and a channel has one. False: it waits, or a read has failed. -/
def State.dmaStart (c : CtxNo) (t : Nat) (s : State) : State × Bool :=
  match s.ses c with
  | some x =>
    if x.dmaAct.isSome then (s, true)
    else match x.nextCh t with
      | none => (s, true)
      | some n =>
        match (x.ch n).phase with
        | .fetch => s.startRead c n t x
        | .writeBack => (s.modSes c (·.startBack n t), true)
        | _ => s.startBurst c n t x
  | none => (s, true)

/-! ### Landing -/

/-- The events of a streaming burst (R286). -/
def Session.ringEvents (n : Fin 4) (sp k : Nat) (x : Session) : Session :=
  let len := (x.ch n).p1.toNat
  let base := if n = 2 then 7 else 9
  let y := if sp ≤ len / 2 - 1 ∧ len / 2 - 1 < sp + k then { x with int := x.int.raise base } else x
  if sp ≤ len - 1 ∧ len - 1 < sp + k then { y with int := y.int.raise (base + 1) } else y

/-- A streaming channel ends ABORTED (R287). -/
def Session.streamAbort (n : Fin 4) (x : Session) : Session :=
  ((x.setCh n (x.ch n).stop).clearEn n).orIo (dmaReg n 9) 2

/-- A streaming burst of `k` words from source offset `src` has landed in cycle `t` (R285, R286). -/
def Session.streamLanded (n : Fin 4) (src k t : Nat) (x : Session) : Session :=
  let d := x.ch n
  let sp := x.ioN (dmaReg n 3) % max 1 d.p1.toNat
  let dp := x.ioN (dmaReg n 6) % max 1 d.dlen.toNat
  let y := ((x.setIo (dmaReg n 3) ((sp + k) % max 1 d.p1.toNat)).setIo (dmaReg n 6) ((dp + k) % max 1 d.dlen.toNat)).ringEvents
    n src k
  let left := d.left - k
  if d.abort then y.streamAbort n
  else if left ≠ 0 then y.setCh n { d with left := left, ready := t + 1 }
  else if d.stopAfter then y.setCh n (d.ended true t)
  else if d.trig = 0 then y.setCh n { d with left := d.chunk.toNat, ready := t + 1 }
  else if d.held then y.setCh n { d with left := d.chunk.toNat, held := false, ready := t + 1 }
  else y.setCh n { d with left := 0, ready := t + 1 }

/-- A burst of a descriptor has landed in cycle `t` (R280, R281, R287). -/
def DmaCh.burstLanded (k t : Nat) (d : DmaCh) : DmaCh :=
  let e := if d.len ≤ d.col + k then { d with row := d.row + 1, col := 0 } else { d with col := d.col + k }
  if d.rows ≤ e.row then { e with abortLate := d.abort, abort := false }.finish 0 t
  else if d.abort then { e with abort := false }.finish 1 t
  else { e with ready := t + 1 }

/-- The write-back is complete in cycle `t` (R281, R287). RIDX moves on, but where an EN 1 has set it to 0 since. -/
def Session.backDone (n : Fin 4) (t : Nat) (x : Session) : Session :=
  let d := x.ch n
  let y := if (d.word 0).testBit 14 then { x with int := x.int.raise (5 + n.val) } else x
  if d.result = 1 then (y.setCh n d.stop).clearEn n
  else
    let z := if d.next.isSome then y else y.setIo (dmaReg n 3) ((y.ioN (dmaReg n 3) + 1) % ringEntries d.p1.toNat)
    if d.stopAfter then
      (match d.next with
        | some _ => z.setCh n (d.ended false t)
        | none => (z.setCh n d.stop).clearEn n)
    else z.setCh n { d with phase := .fetch, ready := t + 1 }

/-- The action that lands in cycle `t` takes its effect beyond its words. -/
def Session.actDone (e : DmaAct) (word0 : Word) (t : Nat) (x : Session) : Session :=
  let y := { x with dmaAct := none }
  let d := x.ch e.ch
  match d.phase with
  | .fetch => y.setCh e.ch (d.readDone t)
  | .writeBack =>
    if e.count = 7 then
      { x.setCh e.ch { d with desc := if d.desc.isEmpty then [word0] else d.desc } with
        dmaAct := some { ch := e.ch, first := t + 1, land := t + 1, count := 0, source := 0,
                         words := [(0, 0, d.descAt, word0 &&& 0x7FFF#16)] } }
    else y.backDone e.ch t
  | _ => if DmaCh.stream e.ch then y.streamLanded e.ch e.source e.count t else y.setCh e.ch (d.burstLanded e.count t)

/-- The action that lands in cycle `t`, if one does. -/
def State.dmaLand (c : CtxNo) (t : Nat) (s : State) : State × Bool :=
  match s.ses c with
  | some x =>
    match x.dmaAct with
    | some e =>
      if e.land = t then
        match s.dmaWrites c t e.words with
        | (s1, true) =>
          let w0 := (s1.dmaRead c 0 0 (x.ch e.ch).descAt).2.getD 0
          (s1.modSes c (·.actDone e w0 t), true)
        | r => r
      else (s, true)
    | none => (s, true)
  | none => (s, true)

/-! ### Stores to the registers (R278, R284, R287, R288) -/

/-- The parameters of a descriptor channel as its registers stand; none where the ring leaves D:0x0000 to D:0xBFFF (R278). -/
def Session.ringRun (n : Fin 4) (x : Session) : Option DmaRun :=
  let rbase := x.ioW (dmaReg n 1)
  let rlen := ringEntries (x.ioN (dmaReg n 2))
  if 0xC000 < rbase.toNat + 8 * rlen then none
  else some { ctrl := 0, p0 := rbase, p1 := BitVec.ofNat 16 rlen, dlen := 0, chunk := 0, dbase := 0
              rate := field (x.ioN (dmaReg n 8)) 0 6 }

/-- The parameters of a streaming channel enabled by a store of `v`; none where a check of R284 fails. -/
def Session.streamRun (n : Fin 4) (v : Word) (x : Session) : Option DmaRun :=
  let ss := field v.toNat 5 2
  let ds := field v.toNat 7 2
  let slen := x.ioN (dmaReg n 2)
  let dlen := x.ioN (dmaReg n 5)
  let chunk := x.ioN (dmaReg n 7)
  if !decide (ss < 3 ∧ (ds = 1 ∨ ds = 2) ∧ slen % 2 = 0 ∧ 2 ≤ slen ∧ 1 ≤ dlen ∧ 1 ≤ chunk ∧ chunk ≤ slen / 2
      ∧ (ss = 0 → x.ioN (dmaReg n 1) + slen ≤ 0xC000)) then none
  else some { ctrl := v, p0 := x.ioW (dmaReg n 1), p1 := BitVec.ofNat 16 slen, dlen := BitVec.ofNat 16 dlen
              chunk := BitVec.ofNat 16 chunk, dbase := x.ioW (dmaReg n 4), rate := field (x.ioN (dmaReg n 8)) 0 6 }

/-- A channel is enabled in cycle `g` by a store of `v` (R278, R284). One that still ends what it had begun starts after that
(log entry 41). -/
def Session.enable (n : Fin 4) (v : Word) (g : Nat) (x : Session) : Session :=
  let stream := DmaCh.stream n
  match (if stream then x.streamRun n v else x.ringRun n) with
  | none => (x.orIo (dmaReg n 9) (if stream then 8 else 16)).clearEn n
  | some r =>
    let y := if stream then x else x.setIo (dmaReg n 3) 0
    if (x.ch n).phase = .off then y.setCh n ((x.ch n).begin stream r (g + 1))
    else y.setCh n { x.ch n with next := some r, kpend := false }

/-- EN 0 is stored: the channel ends what it has begun and stops (log entry 41). -/
def DmaCh.release (n : Fin 4) (d : DmaCh) : DmaCh :=
  match d.phase with
  | .off => d
  | .idle => d.stop
  | .run => if DmaCh.stream n && d.left == 0 then d.stop else { d with stopAfter := true, next := none }
  | _ => { d with stopAfter := true, next := none }

/-- A KICK lands in cycle `g` (R278). -/
def DmaCh.kick (g : Nat) (d : DmaCh) : DmaCh :=
  match d.phase with
  | .off => d
  | .idle => { d with phase := .fetch, kpend := true, ready := g + 1 }
  | _ => { d with kpend := true }

/-- An abort lands in cycle `g` (R287). A descriptor whose read waits for the port is written back as ABORTED like one that is
being read; one read with OWN 0 is not the channel's, and is left alone (R281; DEDUCED, log entry 62). -/
def Session.dmaAbort (n : Fin 4) (g : Nat) (x : Session) : Session :=
  let d := { x.ch n with next := none }
  let mine := match x.dmaAct with | some e => e.ch == n | none => false
  match d.phase with
  | .off | .idle => x
  | .fetch =>
    if mine && !d.own then ({ x with dmaAct := none }.setCh n d.stop).clearEn n
    else
      { x with dmaAct := if mine then none else x.dmaAct }.setCh n
        ({ d with row := 0, abortLate := false, desc := if mine then d.desc else [],
                  descAt := if mine then d.descAt else x.descAddr n }.finish 1 g)
  | .writeBack => x.setCh n { d with stopAfter := true }
  | .run =>
    if mine then x.setCh n { d with abort := true }
    else if DmaCh.stream n then x.streamAbort n
    else x.setCh n ({ d with abortLate := false }.finish 1 g)

/-- A store of DMA_CTRLn in cycle `g`. -/
def Session.dmaControl (n : Fin 4) (g : Nat) (v : Word) (x : Session) : Session :=
  let a := dmaReg n 0
  let en := x.ioN a % 2
  let y := x.setIo a (softWrite (ioDesc x.grand a) (x.ioN a) v.toNat)
  if wbit v 0 && en == 0 then y.enable n v g
  else
    let z := if wbit v 2 && en == 1 then y.dmaAbort n g else y
    if !wbit v 0 then z.setCh n ((z.ch n).release n)
    else if wbit v 1 && !DmaCh.stream n then z.setCh n ((z.ch n).kick g)
    else z

/-- A store to D:0xF880 to D:0xF8FF, landing in cycle `g`. -/
def Session.dmaStore (g a : Nat) (v : Word) (x : Session) : Session :=
  let d := ioDesc x.grand a
  if 0xF8F0 ≤ a then x
  else if a % 32 = 0 then
    (match (a - 0xF880) / 32 with
      | 0 => x.dmaControl 0 g v | 1 => x.dmaControl 1 g v | 2 => x.dmaControl 2 g v | _ => x.dmaControl 3 g v)
  else if d.rw = 0 ∧ d.w1c = 0 then x
  else x.setIo a (softWrite d (x.ioN a) v.toNat)

/-- A register of the channels as a load reads it; DMA_FENCE reads 0 (R283, R288). -/
def Session.dmaLoad (a : Nat) (x : Session) : Nat :=
  let n := (a - 0xF880) / 32
  if 0xF8F0 ≤ a then 0
  else if a % 32 = 9 then
    let d := x.dma.toList.getD n { x.dma[0] with phase := .off }
    if n < 2 then
      x.ioN a + b2n d.kpend * 8 + (match d.phase with | .off => 0 | .idle => 2 | _ => 4)
    else x.ioN a + b2n (d.phase == .run)
  else x.ioN a

end Sys2Proof.Machine
end

