-- ==== Sys2Proof/Machine/Receive.lean ====
section
/-! DEFINITION. What arrives: client packets (R289 to R291, R306, R309, R310), wake requests (R323), the Keeper receive
ring (R330) and the classifier (R319, R320, R329). -/

namespace Sys2Proof.Machine

/-! ### Client packets -/

def pktVer (l : List Byte) : Nat := (byteAt l 0).toNat / 16
def pktType (l : List Byte) : Nat := (byteAt l 0).toNat % 16
def be16 (l : List Byte) (i : Nat) : Nat := ofBytesBE ((l.drop i).take 2)
def be32 (l : List Byte) (i : Nat) : Nat := ofBytesBE ((l.drop i).take 4)

/-- The header bytes of a client packet type (R290). -/
def clientHeader (t : Nat) : Option Nat :=
  if t = 8 then some 16 else if t = 9 then some 32 else if t = 10 then some 16 else none

/-- Bits set in a 16-bit word. -/
def bitCount16 (v : Nat) : Nat := ((List.range 16).filter (fun i => v.testBit i)).length

/-- A client packet passes R291 for a slot. -/
def State.clientOk (s : State) (k : Nat) (l : List Byte) : Bool :=
  match clientHeader (pktType l) with
  | some h => pktVer l == 1 && l.length == h + be16 l 2
      && (pktType l != 8 || be16 l 2 == 2 * bitCount16 (be16 l 12)) && be32 l 4 == s.sid k
  | none => false

/-- A session's INP_DROPPED rises (R291). -/
def State.dropInput (c : CtxNo) (n : Nat) (s : State) : State := s.modSes c (·.countIo 0xFC29 n)

/-- FEEDBACK (R310): the round trip in ns, where it is from 0 to 1 s, and the client's report. -/
def State.feedbackIn (k : Nat) (l : List Byte) (s : State) : State :=
  let t := s.stampClock
  let ds := sext 32 ((t.secs + 2 ^ 32 - be32 l 12) % 2 ^ 32)
  let rtt : Int := ds * 1000000000 + (t.nanos : Int) - (be32 l 16 : Int) - (be32 l 20 : Int)
  let s1 := if 0 ≤ rtt ∧ rtt ≤ 1000000000 then
      let v := rtt.toNat
      (s.setReg (strAddr k 0x20) v).setReg (strAddr k 0x24) (min v (s.regN (strAddr k 0x24)))
    else s
  (s1.setReg (strAddr k 0x30) (be32 l 24)).setReg (strAddr k 0x34) (be32 l 28)

/-- A packet of an admitted context's client (R291, R306, R320). -/
def State.depacket (c : CtxNo) (k : Nat) (l : List Byte) (s : State) : State :=
  if !s.clientOk k l then s.dropInput c 1
  else if pktType l = 8 then
    if 64 ≤ (s.slot k).inputQ.length then s.countReg (clsBase + 0x508) 1
    else s.modSlot k (fun x => { x with inputQ := x.inputQ ++ [{ payload := l, arrival := s.stamp }] })
  else if pktType l = 9 then s.feedbackIn k l
  else s.modSlot k (fun x => { x with refreshQ := x.refreshQ ++ [(BitVec.ofNat 16 (be16 l 12), s.stamp)] })

/-- A wake request (R323). -/
def State.wakeRequest (c : CtxNo) (s : State) : State :=
  if (s.ctx c).wakePending then s
  else if s.wakeFifo.length < 1024 then
    ({ s.modCtx c (fun x => { x with wakePending := true }) with
        wakeFifo := s.wakeFifo ++ [BitVec.ofNat 32 (2 ^ 31 + c.toNat)] }).setLevel 12 true
  else s.countReg (clsBase + 0x304) 1

/-- A packet matched to a context (R320). -/
def State.matched (c : CtxNo) (l : List Byte) (s : State) : State :=
  if s.admitted c then
    match s.heldSlot c with
    | some k => s.depacket c k l
    | none => s
  else
    let s1 := s.countReg (clsBase + 0x504) 1
    if pktType l = 8 ∧ pktVer l = 1 ∧ (s.ctx c).wake then s1.wakeRequest c else s1

/-! ### The Keeper receive ring -/

/-- A frame for the Keeper program (R330). -/
def State.toKeeper (cls p m : Nat) (bytes : List Byte) (s : State) : State :=
  if 4096 < bytes.length then s.addCnt (ethSub p m 0x58) 1
  else if !s.ringOwned 0x400 then s.countReg (clsBase + 0x50C) 1
  else
    let a := s.ringDesc 0x400
    let buf := field (s.word64 a) 0 48
    let t := s.stampClock
    let s1 := s.agentStore 2 buf bytes
    let s2 := s1.setWord64 (a + 8) (bytes.length * 2 ^ 48 + p * 2 ^ 44 + m * 2 ^ 42)
    let s3 := (s2.setWord64 (a + 16) t.secs).setWord64 (a + 24) (t.nanos * 2 ^ 32 + t.frac * 2 ^ 16)
    let s4 := s3.setWord64 a (cls * 2 ^ 48 + buf)
    (s4.setReg (clsBase + 0x40C) ((s4.regN (clsBase + 0x40C) + 1) % ringLen (s4.regN (clsBase + 0x408)))).raiseP 15

/-! ### The classifier -/

/-- A received frame taken apart: its tag, EtherType and where its payload begins. -/
structure RxFrame where
  tags : Nat
  svlan : Bool
  vid : Nat
  etype : Nat
  off : Nat
  deriving DecidableEq, Repr

/-- The tag and EtherType of a frame. -/
def parseFrame (l : List Byte) : RxFrame :=
  let t0 := be16 l 12
  if t0 = 0x88A8 then { tags := 1, svlan := true, vid := 0, etype := t0, off := 14 }
  else if t0 = 0x8100 then
    let t1 := be16 l 16
    if t1 = 0x8100 ∨ t1 = 0x88A8 then { tags := 2, svlan := t1 == 0x88A8, vid := be16 l 14 % 4096, etype := t1, off := 18 }
    else { tags := 1, svlan := false, vid := be16 l 14 % 4096, etype := t1, off := 18 }
  else { tags := 0, svlan := false, vid := 0, etype := t0, off := 14 }

/-- The destination addresses a sub-port accepts (R319, step 1). -/
def State.macAccept (s : State) (p m : Nat) (l : List Byte) : Bool :=
  let d := ofBytesBE (l.take 6)
  d == ofBytesBE (s.macOf p m) || d == 0xFFFFFFFFFFFF || d == 0x0180C2000001 || d == 0x011B19000000
    || d == 0x0180C200000E || d / 2 ^ 24 == 0x3333FF
    || (d / 2 ^ 40 % 2 == 1 && (s.regN (ethAddr p 0)).testBit 3)

/-- An IP packet as the classifier sees it. -/
structure RxIp where
  v6 : Bool
  proto : Nat
  options : Bool
  fragment : Bool
  multi : Bool
  src : List Byte
  dst : List Byte
  l4 : List Byte
  deriving DecidableEq, Repr

/-- An IPv4 header that passes step 7, taken apart. -/
def parseIp4 (l : List Byte) : Option RxIp :=
  let ihl := (byteAt l 0).toNat % 16
  let len := be16 l 2
  if (byteAt l 0).toNat / 16 ≠ 4 ∨ ihl < 5 ∨ len < 4 * ihl ∨ l.length < len ∨ inetSum (l.take (4 * ihl)) ≠ 0 then none
  else
    let d := be32 l 16
    some { v6 := false, proto := (byteAt l 9).toNat, options := decide (5 < ihl),
           fragment := decide (be16 l 6 % 0x4000 ≠ 0), multi := decide (d / 2 ^ 28 = 0xE ∨ d = 0xFFFFFFFF),
           src := (l.drop 12).take 4, dst := (l.drop 16).take 4, l4 := (l.take len).drop (4 * ihl) }

/-- An IPv6 header taken apart. -/
def parseIp6 (l : List Byte) : RxIp :=
  { v6 := true, proto := (byteAt l 6).toNat, options := false, fragment := false, multi := byteAt l 24 == 0xFF,
    src := (l.drop 8).take 16, dst := (l.drop 24).take 16, l4 := (l.drop 40).take (be16 l 4) }

/-- The local address a packet was sent to: valid, of its version, enabled on the port (R319, step 8). -/
def State.lipMatch (s : State) (p : Nat) (ip : RxIp) : Option Nat :=
  (List.range 16).find? (fun i =>
    (s.lip i 0).testBit 31 && (s.lip i 0).testBit 30 == ip.v6 && (s.lip i 0).testBit (28 + p)
      && s.lipBytes i ip.v6 == ip.dst)

/-- The UDP checksum of a packet is right (R319, step 11). -/
def udpOk (ip : RxIp) : Bool :=
  let len := be16 ip.l4 4
  if len < 8 ∨ ip.l4.length < len then false
  else if be16 ip.l4 6 = 0 then !ip.v6
  else inetSum (ip.src ++ ip.dst ++ bytesBE 4 len ++ bytesBE 4 17 ++ ip.l4.take len) == 0

/-- The key of a packet equals the key of a flow entry (R321, R322). -/
def State.flowMatches (s : State) (lip vid : Nat) (ip : RxIp) (f : FlowWords) : Bool :=
  let rip := (List.range 4).flatMap (fun w => bytesBE 4 (flowWord f (5 + w)))
  flowValid f && s.lipUsable f && flowV6 f == ip.v6 && flowLip f == lip
    && field (flowWord f 1) 16 16 == be16 ip.l4 2 && field (flowWord f 1) 0 16 == be16 ip.l4 0
    && (if ip.v6 then rip == ip.src else rip.drop 12 == ip.src)
    && (if flowVlan f then vid != 0 && field (flowWord f 2) 16 12 == vid else vid == 0)

/-- Steps 11 to 15 of R319: UDP to a local address. -/
def State.classifyUdp (p m lip vid : Nat) (ip : RxIp) (frame : List Byte) (s : State) : State :=
  let port := be16 ip.l4 2
  if !udpOk ip then s.countReg (clsBase + 0x500) 1
  else if port = 319 ∨ port = 320 then s.toKeeper 6 p m frame
  else if port = s.regN clsBase then s.toKeeper 5 p m frame
  else match s.flows.find? (fun e => s.flowMatches lip vid ip e.2) with
    | some e =>
      let hits := BitVec.ofNat 32 (flowWord e.2 9 + 1)
      { s with flows := Sparse.set [] s.flows e.1 (e.2.set 9 hits) }.matched (BitVec.ofNat 18 e.1)
        ((ip.l4.take (be16 ip.l4 4)).drop 8)
    | none => s.toKeeper 4 p m frame

/-- Steps 8 to 10 of R319. -/
def State.classifyIp (p m vid : Nat) (ip : RxIp) (frame : List Byte) (s : State) : State :=
  match s.lipMatch p ip with
  | none =>
    if !ip.multi then s.addCnt (ethSub p m 0x60) 1
    else if ip.proto = (if ip.v6 then 58 else 1) then s.toKeeper 2 p m frame else s.toKeeper 3 p m frame
  | some lip =>
    if ip.proto = (if ip.v6 then 58 else 1) then s.toKeeper 2 p m frame
    else if ip.proto ≠ 17 ∨ ip.options ∨ ip.fragment ∨ ip.multi then s.toKeeper 3 p m frame
    else s.classifyUdp p m lip vid ip frame

/-- A PFC frame's class-enable vector and quanta applied (R329). -/
def State.pfcIn (p m : Nat) (l : List Byte) (s : State) : State :=
  let s1 := s.addCnt (ethSub p m 0x78) 1
  let rxen := field (s.regN (ethSub p m 8)) 0 8
  let x := s.sub p m
  let paused := (List.range 8).foldl (fun (v : BitVec 8) i =>
    if rxen.testBit i ∧ (be16 l 2).testBit i then
      if be16 l (4 + 2 * i) = 0 then v &&& ~~~(1#8 <<< i) else v ||| (1#8 <<< i)
    else v) x.paused
  s1.setSub p m { x with paused := paused }

/-- MAC control frames (R315, R319 step 2): the payload begins with the opcode. -/
def State.macControl (p m : Nat) (l : List Byte) (s : State) : State :=
  if be16 l 0 = 0x0101 then s.pfcIn p m l
  else if be16 l 0 = 0x0001 then s.addCnt (ethSub p m 0x70) 1
  else s

/-- A frame that passes the FCS and length checks (R319). -/
def State.classify (p m : Nat) (l : List Byte) (s : State) : State :=
  let f := parseFrame l
  let pay := l.drop f.off
  if !s.macAccept p m l then s.addCnt (ethSub p m 0x60) 1
  else if f.etype = 0x8808 then s.macControl p m pay
  else if f.svlan ∨ 1 < f.tags then s.toKeeper 7 p m l
  else if f.etype = 0x88F7 then s.toKeeper 6 p m l
  else if f.etype = 0x0806 then s.toKeeper 1 p m l
  else if f.etype = 0x0800 then
    match parseIp4 pay with
    | some ip => s.classifyIp p m f.vid ip l
    | none => s.countReg (clsBase + 0x500) 1
  else if f.etype = 0x86DD then s.classifyIp p m f.vid (parseIp6 pay) l
  else s.toKeeper 8 p m l

/-- A frame may find the receive buffer full, once it has passed 75 %: how fast the buffer drains is free (R329; log entry 17). -/
def State.bufferFull (s : State) (p m : Nat) : Bool := (s.sub p m).xoff && Config.freeBool s.fresh

/-- A frame received on a sub-port, its FCS apart, with its arrival timestamp (R314, R315, R318, R319, R329). -/
def State.receive (p m : Nat) (fcsOk : Bool) (l : List Byte) (s : State) : State :=
  let len := l.length + 4
  if s.bufferFull p m then (s.addCnt (ethSub p m 0x68) 1).spend else
  let s1 := if fcsOk then s else s.addCnt (ethSub p m 0x50) 1
  if len < 64 ∨ 9216 < len then s1.addCnt (ethSub p m 0x58) 1
  else if !fcsOk then s1
  else (((s1.addCnt (ethSub p m 0x40) 1).addCnt (ethSub p m 0x48) len).spend.classify p m l).spend

/-! ### The rows -/

/-- FRAME_RECEIVE (R319): a frame without its FCS arrives on a sub-port that is up. -/
def execFrameReceive (port : Fin 2) (sub : Fin 4) (fcsOk : Bool) (bytes : List Byte) (s : State) : Outcome :=
  .next (if s.subUp port sub then s.receive port sub fcsOk bytes else s)

/-- INPUT (R306, R323): a packet of that type matched to a context. -/
def execInput (c : CtxNo) (payload : List Byte) (s : State) : Outcome :=
  .next (if pktType payload = 8 then (s.matched c payload).spend else s)

/-- FEEDBACK (R310). -/
def execFeedback (c : CtxNo) (payload : List Byte) (s : State) : Outcome :=
  .next (if pktType payload = 9 then (s.matched c payload).spend else s)

/-- REFRESH (R302, R306). -/
def execRefresh (c : CtxNo) (payload : List Byte) (s : State) : Outcome :=
  .next (if pktType payload = 10 then (s.matched c payload).spend else s)

/-- WAKE_READ (R323): the oldest record is answered and removed; 0 when there is none. -/
def State.wakeRead (s : State) : State :=
  match s.wakeFifo with
  | v :: l => ({ s with wakeFifo := l }.setLevel 12 (!l.isEmpty)).reply v.toNat
  | [] => s.reply 0

def execWakeRead (s : State) : Outcome := .next (if s.power.mode = .off then s else s.wakeRead)

/-- PFC's own frames (R329): one for each priority of TXEN. -/
def State.sendPfc (p m quanta : Nat) (s : State) : State :=
  let txen := field (s.regN (ethSub p m 8)) 8 8
  if txen = 0 then s
  else (s.addCnt (ethSub p m 0x90) 1).send (.pfc (Fin.ofNat 2 p) (Fin.ofNat 4 m) (BitVec.ofNat 8 txen)
    (BitVec.ofNat 16 quanta))

/-- XOFF (R329). -/
def execXoff (port : Fin 2) (sub : Fin 4) (s : State) : Outcome :=
  .next (if s.subUp port sub then
    (s.sendPfc port sub 0xFFFF).setSub port sub { s.sub port sub with xoff := true } else s)

/-- XON (R329): after an XOFF. -/
def execXon (port : Fin 2) (sub : Fin 4) (s : State) : Outcome :=
  .next (if s.subUp port sub && (s.sub port sub).xoff then
    (s.sendPfc port sub 0).setSub port sub { s.sub port sub with xoff := false } else s)

/-- PFC_PAUSE_END (R329). -/
def execPfcPauseEnd (port : Fin 2) (sub : Fin 4) (prio : Fin 8) (s : State) : Outcome :=
  let x := s.sub port sub
  .next (s.setSub port sub { x with paused := x.paused &&& ~~~(1#8 <<< prio.val) })

end Sys2Proof.Machine
end

