-- ==== Sys2Proof/Machine/Bands.lean ====
section
/-! DEFINITION. Band boundaries (R43, R45, R91, R100, R104, R105, R298, R302, R307, R308, R311, R312, R354), the horizon
(R94) and the slip test (R93, R102, R103). -/

namespace Sys2Proof.Machine

/-! ### The horizon (R94) -/

/-- The first band period outside the horizon enters it, if its instant has come. -/
def State.horizonStep (c : CtxNo) (k : Nat) (s : State) : Option State :=
  let y := s.slot k
  let r := s.releaseOf c y.horizonF y.horizonK
  let tb := r.1.tbOf c k y.horizonF
  if r.2 ≤ s.clock.time + y.leadNow * tb then
    let n := nextBand (r.1.bandsOf c y.horizonF) y.horizonF y.horizonK
    some (r.1.modSlot k (fun z => { z with horizonF := n.1, horizonK := n.2 }))
  else none

/-- Every band period whose instant has come enters. -/
def State.horizonAll (c : CtxNo) (k : Nat) : Nat → State → State
  | 0, s => s
  | fuel + 1, s => match s.horizonStep c k with | some s1 => State.horizonAll c k fuel s1 | none => s

/-- HORIZON_ENTRY (R94). -/
def execHorizonEntry (c : CtxNo) (s : State) : Outcome :=
  .next (if s.admitted c then
    match s.heldSlot c with | some k => (s.horizonStep c k).getD s | none => s
  else s)

/-! ### What a boundary does -/

/-- The frame and line of the boundary that virtual time stands at or has last passed: a multiple of BAND_H, or the
position at which it resumed (R45, R91). -/
def State.bandStart (s : State) (c : CtxNo) : Nat × Nat :=
  match s.heldSlot c, s.ses c with
  | some k, some x =>
    let h := s.bandH k
    let l := x.lineOf x.vcyc
    let y := s.slot k
    if y.firstF = x.frame ∧ y.firstLine / h = l / h ∧ y.firstLine ≤ l then (x.frame, y.firstLine)
    else (x.frame, l / h * h)
  | _, _ => (0, 0)

/-- A boundary has been reached and has not acted yet. -/
def State.boundaryDue (s : State) (c : CtxNo) : Bool :=
  s.admitted c && s.sesD c false (fun x => x.lastBoundary != some (s.bandStart c))

/-- Virtual time stops (R43, R44): unlatched packets are dropped and counted; a RETIRE discards what is unreleased. -/
def State.stopAt (c : CtxNo) (k : Nat) (s : State) : State :=
  let retire := (s.ctx c).state == .retiring
  (s.dropInput c (s.slot k).inputQ.length).modSlot k (fun y => { y with
    stopped := true, inputQ := [], refreshQ := []
    videoQ := if retire then [] else y.videoQ, audioQ := if retire then [] else y.audioQ, audioWait := if retire then [] else y.audioWait
    slips := if retire then [] else y.slips })

/-- BSC_SCHED, STR_CTRL and the egress headers as written are taken (R108, R312, R331). -/
def State.takeControls (k f b : Nat) (s : State) : State :=
  let sched := s.regN (schAddr k 0x18)
  let str := s.reg (strAddr k 0)
  s.modSlot k (fun y => { y with
    ctrlEff := BitVec.ofNat 32 (sched - sched % 4 + y.ctrlEff.toNat % 4)
    strLog := if (y.strLog.head?.map (·.2.2)) = some str then y.strLog else (f, b, str) :: y.strLog
    flowLog := match y.flowNew with | some w => (f, b, w) :: y.flowLog | none => y.flowLog
    tapLog := if b = 0 ∧ (y.tapLog.head?.map (·.2)) ≠ some (s.tmode k) then (f, s.tmode k) :: y.tapLog.take 4 else y.tapLog
    flowNew := none })

/-- A pending change of LEAD_NOW takes effect; the horizon follows (R105). -/
def State.takeLead (c : CtxNo) (k f b : Nat) (s : State) : State :=
  match (s.slot k).leadPend with
  | some n =>
    (s.modSlot k (fun y => { y with leadNow := n, leadPend := none, horizonF := f, horizonK := b })).horizonAll c k 64
  | none => s

/-- The token balance rises by a band credit, to two at most (R100). -/
def State.creditTokens (c : CtxNo) (k f : Nat) (s : State) : State :=
  let n : Int := (s.bandCredit c (s.tbOf c k f) : Nat)
  s.modSlot k (fun y => { y with tokens := min (2 * n) (y.tokens + n) })

/-- Mailbox delivery and clearing (R354). -/
def Session.mailBoundary (x : Session) : Session :=
  let x1 := if x.mb.emptied then { x with mb := { x.mb with full := false, emptied := false } } else x
  match x1.mb.inbound with
  | some v =>
    let y := (List.range 4).foldl (fun (z : Session) i => z.setIo (0xFF20 + i) (field v.toNat (16 * i) 16)) x1
    let z := if y.mb.replaced then y.orIo 0xFF29 4 else y
    { z with mb := { z.mb with inbound := none, replaced := false }, raiseNext := z.raiseNext ||| 0x8000#16 }
  | none => x1

/-- The cut of R307: taken, left, or between its limits, where either may happen. -/
def State.cut (t : Nat) (s : State) : Bool × State :=
  if t + 65536000 ≤ s.clock.time then (true, s)
  else if s.clock.time ≤ t then (false, s)
  else (Config.freeBool s.fresh, s.spend)

/-- The packets a boundary takes from the input queue, at most `n`, in order. -/
def State.takeInputs (k : Nat) : Nat → State → List InPkt × State
  | 0, s => ([], s)
  | n + 1, s =>
    match (s.slot k).inputQ with
    | [] => ([], s)
    | p :: q =>
      let r := s.cut p.arrival
      if r.1 then
        let t := State.takeInputs k n (r.2.modSlot k (fun y => { y with inputQ := q }))
        (p :: t.1, t.2)
      else ([], r.2)

/-- The SEQ last applied: its true value is in INP_SEQ_L and the word beside INP_SEQ_H that its load latches. -/
def Session.inpSeq (x : Session) : Nat := x.ioN 0xFC23 + 65536 * x.ioN 0x1FC24

/-- One packet applied (R308). -/
def Session.applyInput (p : InPkt) (x : Session) : Session :=
  let seq := be32 p.payload 8
  let d := (seq + 2 ^ 32 - x.inpSeq) % 2 ^ 32
  if x.lastValid ∧ (d = 0 ∨ 2 ^ 31 ≤ d) then x.countIo 0xFC29 1
  else
    let mask := be16 p.payload 12
    let y := if x.lastValid then x.countIo 0xFC28 (d - 1) else x
    let set := (List.range 16).filter (fun n => mask.testBit n)
    let z := set.zipIdx.foldl (fun (z : Session) (e : Nat × Nat) =>
      let w := be16 p.payload (16 + 2 * e.2)
      let z1 := z.setIo (0xFC00 + e.1) w
      if e.1 < 8 then z1.orIo (0xFC10 + e.1) w else z1) y
    let ns := p.arrival / 65536 % 1000000000
    let z1 := ((z.setIo 0xFC23 seq).setIo 0x1FC24 (seq / 65536)).setIo 0xFC25 (p.arrival / unitsPerSec)
    { (z1.setIo 0x1FC26 ns).setIo 0x1FC27 (ns / 65536) with lastValid := true }

/-- A latch that takes packets (R308). -/
def Session.latchInputs (l : List InPkt) (f line : Nat) (x : Session) : Session :=
  let y := (List.range 8).foldl (fun (z : Session) n => z.setIo (0xFC10 + n) 0) x
  let z := l.foldl (fun (z : Session) p => z.applyInput p) y
  let z1 := ((z.setIo 0xFC20 l.length).setIo 0xFC21 line).setIo 0xFC22 f
  { z1 with raiseNext := z1.raiseNext ||| 0x2000#16 }

/-- A signed number of nanoseconds or lines as a register's word. -/
def signedReg (v : Int) : Nat := (v % (2 ^ 32 : Nat)).toNat

/-- Input latching at a boundary (R307, R308, R311). -/
def State.latchBoundary (c : CtxNo) (k f line : Nat) (s : State) : State :=
  let r := s.takeInputs k 16
  match r.1 with
  | [] => r.2
  | p :: _ =>
    let s1 := r.2.modSes c (·.latchInputs r.1 f line)
    let n := s1.nextActive c f (line / s.bandH k)
    let rel := s1.releaseOf c n.1 n.2
    let e := (rel.1.slot k).schedOf f
    let vt := rel.1.vtotalOf c f
    let ln : Int := ((e.s + line * e.period / vt : Nat) : Int) - (p.arrival : Nat)
    (rel.1.setReg (strAddr k 0x28) (unitsToNs ((rel.2 : Int) - (p.arrival : Nat)))).setReg (strAddr k 0x2C)
      (signedReg ((ln * (vt : Nat)).tdiv (max 1 e.period : Nat)))

/-- The mirror is emptied for the band period that begins here; once for each boundary (R298). -/
def State.emptyMirror (c : CtxNo) (k f b : Nat) (s : State) : State :=
  if (s.slot k).emptyAt.contains (f, b) then s
  else (s.modSlot k (fun y => { y with emptyAt := y.emptyAt ++ [(f, b)], emptyPend := false, orderPend := false })).modSes c
    (fun x => { x with mgen := x.mgen + 1, emptiedAt := some s.clock.time })

/-- A refresh request is honoured (R302). -/
def State.honours (s : State) (c : CtxNo) (k : Nat) (mgen : Word) : Bool :=
  s.sesD c false (fun x => x.mgen == mgen || (match x.emptiedAt with
    | some t => decide (t + 2 * (s.slot k).period ≤ s.clock.time)
    | none => true))

/-- The refresh requests a boundary takes (R302). -/
def State.takeRefresh (c : CtxNo) (k f b : Nat) : Nat → State → State
  | 0, s => s
  | n + 1, s =>
    match (s.slot k).refreshQ with
    | [] => s
    | (g, t) :: q =>
      let r := s.cut t
      if r.1 then
        let s1 := r.2.modSlot k (fun y => { y with refreshQ := q })
        State.takeRefresh c k f b n
          (if s1.honours c k g then (s1.emptyMirror c k f b).countReg (strAddr k 0xC) 1 else s1)
      else r.2

/-- DEPTH and KIND at the first band of a frame, and of an admission, against those the session last ran with (R298, R312). -/
def State.mirrorEvents (c : CtxNo) (k f b : Nat) (s : State) : State :=
  let kind := (s.slot k).kindAt f
  let depth := s.sesD c 0 (fun x => depthField (x.valueAt .live 0xF630 f 0 0))
  let changed := kind == 1 && s.sesD c false (fun x => depth != x.ranDepth.toNat)
  let became := kind == 1 && s.sesD c false (fun x => x.ranKind != 1)
  let s1 := if changed || became then s.emptyMirror c k f b else s
  s1.modSes c (fun x => { x with ranKind := BitVec.ofNat 2 kind, ranDepth := BitVec.ofNat 2 depth })

/-- The mirror's events of a boundary in their order. -/
def State.mirrorBoundary (c : CtxNo) (k f b : Nat) (s : State) : State :=
  let first := decide ((s.slot k).firstF = f ∧ (s.slot k).firstLine / s.bandH k = b)
  let s1 := if (s.slot k).emptyPend then s.emptyMirror c k f b else s
  let s2 := s1.takeRefresh c k f b (s1.slot k).refreshQ.length
  if first || b == 0 then s2.mirrorEvents c k f b else s2

/-- Virtual time crosses a boundary. Its sources are raised in the cycle that follows (R211); BAND and the trigger of R285 belong
to the lines of R91, not to a position at which a session of another band height resumes. -/
def State.crossBoundary (c : CtxNo) (k : Nat) (s : State) : State :=
  let p := s.bandStart c
  let b := p.2 / s.bandH k
  let line := decide (p.2 % s.bandH k = 0)
  let s1 := (((s.takeControls k p.1 b).takeLead c k p.1 b).creditTokens c k p.1).modSes c (fun x =>
    (if line then { x with raiseNext := x.raiseNext ||| 4 } else x).mailBoundary)
  let s2 := ((s1.latchBoundary c k p.1 p.2).mirrorBoundary c k p.1 b).prefetch c k
  s2.modSes c (fun x =>
    let y := { x with lastBoundary := some p }
    if line then y.bandTrigger else y)

/-- A boundary that virtual time stands at acts, once it may be crossed. -/
def State.boundary (c : CtxNo) (s : State) : State :=
  match s.heldSlot c with
  | some k =>
    if s.boundaryDue c then
      let s1 := s.snapBoundary c
      if (s1.ctx c).state = .suspending ∨ (s1.ctx c).state = .retiring then s1.stopAt c k
      else if s1.live c then s1.crossBoundary c k
      else s
    else s
  | none => s

/-! ### The slip test (R93, R102, R103, R105) -/

/-- A slip's record goes to the FIFO of the slot's die (R103). -/
def State.slipRecord (k band policy : Nat) (s : State) : State :=
  let d := slotDie k % 2
  let q := if d = 0 then s.slipFifo[0] else s.slipFifo[1]
  if q.length < 256 then
    let v : Reg32 := BitVec.ofNat 32 (2 ^ 31 + policy * 2 ^ 22 + band % 256 * 2 ^ 14 + k)
    { s with slipFifo := if d = 0 then s.slipFifo.set 0 (q ++ [v]) else s.slipFifo.set 1 (q ++ [v]) }.setLevel (5 + d) true
  else s.countReg (bscBase + 0x308) 1

/-- AUTO raises LEAD_NOW after a slip (R105). -/
def SlotSt.raiseLead (y : SlotSt) : SlotSt :=
  let lim := leadLimits y.ctrlEff.toNat
  let now := y.leadPend.getD y.leadNow
  if y.ctrlEff.getLsbD 4 && decide (now < lim.2) then { y with leadPend := some (now + 1) } else y

/-- A band slips (R102, R103). -/
def State.slip (c : CtxNo) (k f b : Nat) (s : State) : State :=
  let pol := s.slipPolicy k
  let s1 := ((s.countReg (schAddr k 0x2C) 1).slipRecord k b pol).modSlot k (fun y =>
    { y.raiseLead with slipped := if y.slipped.contains (f, b) then y.slipped else y.slipped ++ [(f, b)] })
  if pol = 1 then (s1.stretch k f b (s.tbOf c k f)).countReg (schAddr k 0x30) 1
  else s1.modSlot k (fun y => { y with
    slips := y.slips ++ [{ frame := f, band := b, policy := BitVec.ofNat 2 pol, markerSent := false }] })

/-- The tests of a frame's active bands are done: SLIPFRAME (R103) and the count of frames for AUTO (R105). -/
def State.frameTested (c : CtxNo) (k f b : Nat) (s : State) : State :=
  let y := s.slot k
  let b0 := if f = y.firstF then y.firstLine / s.bandH k else 0
  let n := (y.slipped.filter (fun e => e.1 == f)).length
  let all := decide (b + 1 ≤ n + b0)
  let s1 := if all && !y.slipFrameQuiet then
      s.offer 0x0020 3 (bytesBE 3 c.toNat ++ bytesBE 2 k ++ bytesBE 4 (s.regN (schAddr k 0x3C)))
    else s
  let need := max 1 (field y.ctrlEff.toNat 24 8)
  let calm := decide (n = 0) && !y.tightFrames.contains f
  let count := if y.ctrlEff.getLsbD 4 && calm then y.narrow + 1 else 0
  let now := y.leadPend.getD y.leadNow
  s1.modSlot k (fun z => { z with
    slipFrameQuiet := all
    slipped := z.slipped.filter (fun e => e.1 != f), tightFrames := z.tightFrames.filter (· != f)
    narrow := if need ≤ count then 0 else count
    leadPend := if need ≤ count ∧ (leadLimits y.ctrlEff.toNat).1 < now then some (now - 1) else z.leadPend })

/-- The band is in its queue (R93): its place lies before the next to be coded; in TMODE 2 its last return has been
accepted, and in TMODE 3 the site is there to send it (R400, R402). -/
def State.bandQueued (s : State) (k f b : Nat) : Bool :=
  let y := s.slot k
  let coded := decide (f < y.codedF ∨ f = y.codedF ∧ b < y.codedK)
  if y.tapMode f = 2 then y.tapDone.contains (f, b) else if y.tapMode f = 3 then coded && s.plinth.present else coded

/-- The pointer of the tests moves past a band. -/
def State.testNext (c : CtxNo) (k f b : Nat) (s : State) : State :=
  let s1 := if s.bandActive c f (b + 1) then s else s.frameTested c k f b
  s1.modSlot k (fun y => { y with
    tapDone := y.tapDone.filter (· != (f, b))
    testedF := if s.bandActive c f (b + 1) then f else f + 1
    testedK := if s.bandActive c f (b + 1) then b + 1 else 0 })

/-- A band of a session that has stopped lies past the place where it stopped. -/
def State.pastStop (s : State) (c : CtxNo) (k f b : Nat) : Bool :=
  (s.slot k).stopped && s.sesD c false (fun x => decide (x.frame < f ∨ x.frame = f ∧ x.lineOf x.vcyc / s.bandH k ≤ b))

/-- DEADLINE_TEST (R93): the session's next band, at its deadline. -/
def State.deadlineTest (c : CtxNo) (k : Nat) (s : State) : State :=
  let n := s.nextActive c (s.slot k).testedF (s.slot k).testedK
  let r := s.releaseOf c n.1 n.2
  let s1 := r.1
  if s.pastStop c k n.1 n.2 ∨ s.clock.time + s.guardOf k < r.2 then s
  else if (s1.slot k).kindAt n.1 = 0 ∨ s1.bandQueued k n.1 n.2 then s1.testNext c k n.1 n.2
  else
    let s2 := s1.slip c k n.1 n.2
    if s.slipPolicy k = 1 then s2 else s2.testNext c k n.1 n.2

def execDeadlineTest (c : CtxNo) (s : State) : Outcome :=
  .next (match s.heldSlot c with
    | some k => if (s.ctx c).state = .admitting then s else s.deadlineTest c k
    | none => s)

end Sys2Proof.Machine
end

