-- ==== Sys2Proof/Machine/Pass.lean ====
section
/-! DEFINITION. What passes with a session's virtual cycles: the blitter's and the DMA port's events in the order of their
cycles (R243, R244, R273 to R276), the beam's and the sound unit's; and the rows of the blitter, DMA and samples. -/

namespace Sys2Proof.Machine

/-! ### The events of a cycle -/

def minOpt (a b : Option Nat) : Option Nat :=
  match a, b with | some x, some y => some (min x y) | some x, none => some x | none, b => b

/-- The next cycle in which a blit starts or lands a burst, or ends. -/
def Session.blitNext (x : Session) : Option Nat :=
  x.blit.map (fun b => if b.latched.isSome then b.land else b.start)

/-- The next cycle in which the port starts or lands an action, or a trigger arrives. -/
def Session.dmaNext (x : Session) : Option Nat :=
  let trigs := minOpt (x.dma[2].trigs.head?) (x.dma[3].trigs.head?)
  match x.dmaAct with
  | some e => minOpt trigs (some e.land)
  | none => ([0, 1, 2, 3] : List (Fin 4)).foldl (fun m n => minOpt m ((x.ch n).startAt n)) trigs

/-- The next cycle with an event, not before the cycle the units stand at. -/
def Session.unitNext (x : Session) : Option Nat := (minOpt x.blitNext x.dmaNext).map (max x.unitAt)

/-- The triggers and the starts of cycle `t` (R243, R273, R274): reads come before every write of the cycle. False: one waits
for a page, or could not be read; what has started stays so. -/
def State.unitStarts (c : CtxNo) (t : Nat) (s : State) : State × Bool :=
  match (s.modSes c (·.triggersAt t)).dmaStart c t with
  | (s1, true) =>
    (match s1.sesD c none (·.blit) with
      | some b => if b.latched.isNone && b.bursts != 0 && decide (b.start ≤ t) then s1.blitStart c b else (s1, true)
      | none => (s1, true))
  | r => r

/-- The landings of cycle `t`: DMA, then the blitter (R273). -/
def State.unitLands (c : CtxNo) (t : Nat) (s : State) : State × Bool :=
  match s.dmaLand c t with
  | (s1, true) =>
    match s1.sesD c none (·.blit) with
    | some b =>
      if b.latched.isSome && b.land == t then s1.blitLand c b
      else if b.bursts = 0 ∧ b.start ≤ t then (s1.modSes c (·.endBlit false t), true)
      else (s1, true)
    | none => (s1, true)
  | r => r

/-- The starts of cycle `t` are performed, if they are not yet. -/
def State.unitPreAt (c : CtxNo) (t : Nat) (s : State) : State × Bool :=
  if s.sesD c false (fun x => x.unitPre && x.unitAt == t) then (s, true)
  else match s.unitStarts c t with
    | (s1, true) => (s1.modSes c (fun x => { x with unitAt := t, unitPre := true }), true)
    | r => r

/-- Every event up to and in cycle `last` is performed, until one waits for a page. -/
def State.unitsLoop (c : CtxNo) (last : Nat) : Nat → State → State
  | 0, s => s
  | fuel + 1, s =>
    match s.sesD c none (·.unitNext) with
    | some t =>
      if t ≤ last then
        match s.unitPreAt c t with
        | (s1, false) => s1
        | (s1, true) =>
          match s1.unitLands c t with
          | (s2, true) => State.unitsLoop c last fuel (s2.modSes c (fun x => { x with unitAt := t + 1, unitPre := false }))
          | (s2, false) => s1.backOut s2
      else s.modSes c (fun x => { x with unitAt := last + 1, unitPre := false })
    | none => s.modSes c (fun x => { x with unitAt := last + 1, unitPre := false })

/-- Events up to and in cycle `last`. -/
def State.unitsTo (c : CtxNo) (last : Nat) (s : State) : State :=
  if s.sesD c true (fun x => decide (last < x.unitAt)) then s
  else s.unitsLoop c last (last + 2 - s.sesD c 0 (·.unitAt))

/-- Events before cycle `t`, and the starts of cycle `t`: what a store that lands in `t` comes after. -/
def State.unitsBefore (c : CtxNo) (t : Nat) (s : State) : State :=
  let s1 := if t = 0 then s else s.unitsTo c (t - 1)
  if s1.sesD c false (fun x => x.unitAt == t && x.unitNext == some t) then (s1.unitPreAt c t).1 else s1

/-- The units have not performed every event up to and in the last cycle: one waits for a page, and a load waits with it (R244,
R275). -/
def State.unitsBehind (s : State) (c : CtxNo) : Bool := s.sesD c false (fun x => decide (x.unitAt < x.cpu.now))

/-- What an access of the session's program reaches: work RAM, V space, S space, or the I/O window. -/
inductive Reached where
  | ram | v | s | io
  deriving DecidableEq, Repr

/-- The units of the session may have events that touch what an access reaches (R244, R275); the I/O window shows all of them. -/
def Session.unitsTouch (r : Reached) (x : Session) : Bool :=
  let port := x.dmaAct.isSome || ([0, 1, 2, 3] : List (Fin 4)).any (fun n => (x.ch n).phase != .off)
  match r with
  | .ram | .s => port
  | .v => port || x.blit.isSome
  | .io => true

/-- They have not performed what comes before a store that lands in the last cycle: the events before it, and its starts. -/
def State.unitsLate (s : State) (c : CtxNo) : Bool :=
  s.sesD c false (fun x => decide (x.unitAt + 1 < x.cpu.now)
    || decide (x.unitAt + 1 = x.cpu.now) && !x.unitPre && x.unitNext == some x.unitAt)

/-! ### Virtual cycles -/

/-- The cycle that passed last. -/
def State.lastCycle (s : State) (c : CtxNo) : Nat := s.sesD c 0 (·.cpu.now) - 1

/-- Cycles to a cycle of the present frame, that cycle included; none where it has passed. -/
def Session.toCycle (n : Nat) (x : Session) : List Nat := if x.vcyc ≤ n then [n - x.vcyc + 1] else []

/-- The first cycle of the frame whose position comes after a position: there the sequencer has executed an entry at it. -/
def Session.cycleAfter (l d : Nat) (x : Session) : Nat := l * x.cpl + ((d + 1) * x.cpl + x.htotal - 1) / x.htotal

/-- Cycles to the next multiple of BAND_H or frame start. -/
def Session.toBoundary (h : Nat) (x : Session) : Nat :=
  let nl := (x.lineOf x.vcyc / h + 1) * h
  (if nl < x.vtotal then nl * x.cpl else x.frameCycles) - x.vcyc

/-- Cycles to a running timer's expiry. -/
def TimerSt.toExpiry (t : TimerSt) : Nat := full16 t.count * t.pre - t.phase

/-- Cycles to the end of the next one in which something happens besides counting: a boundary, a beam event, an entry of the
line program, a line that a timer waits for, a sample that virtual time waits for; and, in a session that waits, whatever may
raise a source. -/
def Session.toEvent (h vclk : Nat) (x : Session) : Nat :=
  let beam := (if x.vblankDone then [] else x.toCycle (x.vactive * x.cpl))
    ++ (match x.lineAhead with | some n => if n < x.vcyc then [1] else x.toCycle n | none => [])
  let lpg :=
    if x.lpg.running then (if x.lpg.frame = x.frame + 1 then x.toCycle (x.cycleAfter x.lpg.line x.lpg.dot) else [])
    else if x.lpg.frame ≤ x.frame && wbit (x.ioW 0xF500) 0 then x.toCycle (x.cycleAfter 0 0) else []
  let line := if x.int.t0.armed || x.int.t1.armed then [x.cpl - x.vcyc % x.cpl] else []
  let sample := if (x.soundWaits || x.cpu.waiting) && vclk != 0 then [x.toSample vclk] else []
  let wait := if x.cpu.waiting then
      (if x.int.t0.running then [x.int.t0.toExpiry] else []) ++ (if x.int.t1.running && !x.int.t1.chain then [x.int.t1.toExpiry] else [])
        ++ (match x.unitNext with | some t => [t + 1 - x.cpu.now] | none => [])
    else []
  max 1 ((beam ++ lpg ++ line ++ sample ++ wait).foldl min (x.toBoundary h))

/-- Virtual time in Exact mode waits for a sample that is not mixed (R252). -/
def Session.soundHolds (x : Session) : Bool := !x.fast && x.soundWaits && !x.snd.due.isEmpty

/-- Virtual time in Exact mode stands while an event of the blitter or the DMA port that its cycles have passed waits for a page
(R73). -/
def Session.unitHolds (x : Session) : Bool := !x.fast && decide (x.unitAt < x.cpu.now)

/-- A session whose next cycle may pass: its virtual time may move, the boundary it stands at has acted, and no sample or unit holds
it. -/
def State.runs (s : State) (c : CtxNo) : Bool :=
  s.live c && !s.boundaryDue c && !s.sesD c false (fun x => x.soundHolds || x.unitHolds)

/-- What holds virtual time is tried again, and the boundary it stands at crossed (R43, R73, R94, R252). -/
def State.stand (c : CtxNo) (s : State) : State :=
  let s1 := if s.sesD c false (·.soundHolds) then s.soundDue c else s
  let s2 := if s1.sesD c false (·.unitHolds) then (s1.unitsTo c (s1.lastCycle c)).countFreeze c else s1
  s2.boundary c

/-- The virtual cycles of a slot that may be spare seats are counted, a Classic session's that has not halted (R96, R97), and those
of a Fast-mode session, in which wrong paths may fill lines (R131). -/
def State.countSeats (c : CtxNo) (n : Nat) (s : State) : State :=
  match s.heldSlot c, s.ses c with
  | some k, some x =>
    let s1 := if x.grand || x.cpu.halted then s else s.addCnt (schAddr k 0x34) n
    if x.fast then s1.addCnt (schAddr k 0x36) n else s1
  | _, _ => s

/-- Cycles pass with nothing but counting before the last, up to the point in that at which a store of the program takes effect. -/
def State.passPre (c : CtxNo) (k : Nat) (s : State) : State :=
  let s1 := ((s.countSeats c k).sesCycles c k).beamDue c
  s1.unitsBefore c (s1.lastCycle c)

/-- A source that is pending and enabled ends the wait of the session's program (R160). -/
def CpuState.wakes (i : IntSt) (u : CpuState) : CpuState := if i.pend &&& i.en != 0 then { u with waiting := false } else u

/-- The rest of the last cycle: what lands in it after the program's stores, the samples due, and the end of a WAIT. -/
def State.passPost (c : CtxNo) (s : State) : State :=
  ((s.unitsTo c (s.lastCycle c)).soundDue c).modSes c (fun x => { x with cpu := x.cpu.wakes x.int })

/-- Up to `n` virtual cycles pass while `go` holds, boundaries crossed on the way. Virtual time stops at a boundary that may
not be crossed (R43, R94). -/
def State.passWhile (c : CtxNo) (go : State → Bool) : Nat → Nat → State → State
  | 0, _, s => s
  | fuel + 1, n, s =>
    if n = 0 then s
    else
      let s1 := s.stand c
      if s1.runs c && go s1 then
        let k := min n (s1.sesD c 1 (·.toEvent (s1.ctxBandH c) (s1.ctx c).vclk.toNat))
        State.passWhile c go fuel (n - k) ((s1.passPre c k).passPost c)
      else s1

/-- Up to `n` virtual cycles pass. -/
def State.passTime (c : CtxNo) (n : Nat) (s : State) : State := s.passWhile c (fun _ => true) n n

/-! ### A session that waits or has halted -/

/-- A session whose virtual time passes without instructions, now. -/
def State.idles (s : State) (c : CtxNo) : Bool := s.live c && s.sesD c false (·.idle)

/-- Up to `n` cycles of a session that waits or has halted pass: a WAIT ends with the first in which a source is pending and
enabled (R160). -/
def State.passIdle (c : CtxNo) (n : Nat) (s : State) : State := s.passWhile c (fun t => t.sesD c false (·.idle)) n n

/-- Time of a session that waits or has halted passes until a cycle has passed. -/
def State.passTo (c : CtxNo) (cycle : Nat) (s : State) : State :=
  if s.idles c then s.passIdle c (cycle + 1 - s.sesD c 0 (·.cpu.now)) else s.unitsTo c (s.lastCycle c)

/-! ### The rows -/

/-- BAND_BOUNDARY (R91): the boundary a session stands at acts; one that waits or has halted comes to its next boundary by
itself. -/
def execBandBoundary (c : CtxNo) (s : State) : Outcome :=
  .next (if s.boundaryDue c then s.boundary c
    else if s.idles c then (s.passIdle c (s.sesD c 0 (·.toBoundary (s.ctxBandH c)))).boundary c
    else s)

/-- VBLANK_INSTANT (R210): raised as its cycle passes; a session that waits or has halted comes to that cycle by itself. -/
def execVblankInstant (c : CtxNo) (s : State) : Outcome :=
  .next (if s.live c && s.sesD c false (·.vblankDue) then s.modSes c (·.vblank (s.ctx c))
    else if s.sesD c true (·.vblankDone) then s
    else if s.idles c then s.passIdle c (s.sesD c 0 (fun x => x.vactive * x.cpl + 1 - x.vcyc))
    else s)

/-- LINE_COMPARE (R211): the same of LINE. -/
def execLineCompare (c : CtxNo) (s : State) : Outcome :=
  .next (if s.live c && s.sesD c false (·.lineDue) then s.modSes c (·.lineCompare)
    else match s.sesD c none (·.lineAhead) with
      | some n => if s.idles c then s.passIdle c (n + 1 - s.sesD c 0 (·.vcyc)) else s
      | none => s)

/-- AUDIO_SAMPLE (R261, R270): a sample whose cycle has passed is mixed in its session's turn; in a session that waits or has halted,
virtual time passes to the next one. -/
def execAudioSample (c : CtxNo) (s : State) : Outcome :=
  .next (match s.heldSlot c with
    | none => s
    | some k =>
      let s1 := if s.sesD c false (·.snd.due.isEmpty) && s.idles c then
          s.passIdle c (s.sesD c 1 (·.toSample (s.ctx c).vclk.toNat)) else s
      if s1.audioTurn c k then s1.mixSample c else s1)

/-- A store to the blitter or DMA by the program, its last cycle just passed. -/
def State.unitStore (c : CtxNo) (a : Nat) (v : Word) (s : State) : State :=
  let g := s.lastCycle c
  s.modSes c (fun x => if a < 0xF880 then x.blitStore g a v else x.dmaStore g a v)

/-- A row that stands for a store of the program: made where its program executes (R142). -/
def State.storeRow (c : CtxNo) (a : Nat) (v : Word) (s : State) : State :=
  if s.programs c then s.unitStore c a v else s

/-- BLIT_GO (R242): a store of BLT_CTRL with GO. -/
def execBlitGo (c : CtxNo) (withAbort : Bool) (s : State) : Outcome := .next (s.storeRow c 0xF800 (if withAbort then 3 else 1))

/-- BLIT_ABORT (R247): a store of BLT_CTRL with ABORT. -/
def execBlitAbort (c : CtxNo) (s : State) : Outcome := .next (s.storeRow c 0xF800 2)

/-- BLIT_BURST (R243): the blit's next event. A running session's blit goes on as its instructions pass cycles; one that
waits or has halted comes to the burst's landing by itself. -/
def execBlitBurst (c : CtxNo) (s : State) : Outcome :=
  .next (match s.sesD c none (·.blit) with
    | some b => if s.live c then s.passTo c b.land else s
    | none => s)

/-- DMA_ENABLE (R278, R284): a store of DMA_CTRLn with EN. -/
def execDmaEnable (c : CtxNo) (ch : Fin 4) (ctrl : Word) (s : State) : Outcome :=
  .next (if wbit ctrl 0 then s.storeRow c (dmaReg ch.val 0) ctrl else s)

/-- The present EN and settings of a channel with bits added: what a KICK or an abort stores. -/
def State.dmaBits (s : State) (c : CtxNo) (n bits : Nat) : Word := BitVec.ofNat 16 (s.sesD c 0 (·.ioN (dmaReg n 0)) ||| bits)

/-- KICK (R278). -/
def execKick (c : CtxNo) (ch : Fin 2) (s : State) : Outcome := .next (s.storeRow c (dmaReg ch.val 0) (s.dmaBits c ch.val 2))

/-- DMA_ABORT (R287). -/
def execDmaAbort (c : CtxNo) (ch : Fin 4) (s : State) : Outcome :=
  .next (s.storeRow c (dmaReg ch.val 0) (s.dmaBits c ch.val 4))

/-- The last cycle of the action of a kind that the port carries or starts next, for a channel where one is named. -/
def Session.actEnd (x : Session) (kind : DmaPhase) (ch : Option Nat) : Option Nat :=
  let ok := fun (n : Fin 4) => (x.ch n).phase == kind && (ch.isNone || ch == some n.val)
  match x.dmaAct with
  | some e => if ok e.ch then some (e.land + (if e.count = 7 && kind == .writeBack then 1 else 0)) else none
  | none => ([2, 3, 0, 1] : List (Fin 4)).foldl (fun m n => if ok n then minOpt m (((x.ch n).startAt n).map (fun t =>
      max x.unitAt t + (if kind == .run then x.burstCount n + 1 else 1))) else m) none

/-- An action of the port: a session that waits or has halted comes to its landing by itself. -/
def State.portAction (c : CtxNo) (kind : DmaPhase) (ch : Option Nat) (s : State) : State :=
  if s.live c then
    match s.sesD c none (·.actEnd kind ch) with
    | some t => s.passTo c t
    | none => s
  else s

/-- DESCRIPTOR_READ (R278). -/
def execDescriptorRead (c : CtxNo) (ch : Fin 2) (s : State) : Outcome := .next (s.portAction c .fetch (some ch.val))

/-- DMA_BURST (R273, R280, R285). -/
def execDmaBurst (c : CtxNo) (s : State) : Outcome := .next (s.portAction c .run none)

/-- WRITE_BACK_DESCRIPTOR (R281). -/
def execWriteBackDescriptor (c : CtxNo) (ch : Fin 2) (s : State) : Outcome :=
  .next (s.portAction c .writeBack (some ch.val))

/-- The cycle of a streaming channel's next trigger (R285): a line's first cycle, a band boundary's, or a sample's. -/
def Session.nextTrigger (vclk h : Nat) (n : Fin 4) (x : Session) : Option Nat :=
  let d := x.ch n
  if d.phase ≠ .run ∨ !DmaCh.stream n then none
  else if d.trig = 1 then some (x.cpu.now + (x.cpl - x.vcyc % x.cpl) % x.cpl)
  else if d.trig = 2 then some (x.cpu.now + x.toBoundary h)
  else if d.trig = 3 then some (x.cpu.now + x.toSample vclk - 1)
  else none

/-- DMA_TRIGGER (R285): triggers act as their cycles pass; a session that waits or has halted comes to the next. -/
def execDmaTrigger (c : CtxNo) (ch : Fin 4) (s : State) : Outcome :=
  .next (if s.live c then
    match s.sesD c none (·.nextTrigger (s.ctx c).vclk.toNat (s.ctxBandH c) ch) with
    | some t => s.passTo c t
    | none => s
  else s)

/-- DMA_FENCE (R283): the load answers 0 once every write that precedes it has reached its Gallery copy. -/
def execDmaFence (c : CtxNo) (s : State) : Outcome :=
  .next (if !s.programs c then s else if s.unitsBehind c then s.countFreeze c else s.reply 0)

end Sys2Proof.Machine
end

