-- ==== Sys2Proof/Machine/SessionIo.lean ====
section
/-! DEFINITION. The session I/O window (R116, R126, R165 to R177, R313, R354): what a load of a word returns and changes,
and what a store does; and the session mailbox with its rows. -/

namespace Sys2Proof.Machine

/-! ### Interrupt and timer registers (after R177) -/

/-- A timer's control word as read: ARMED while EN is 1 and it waits for its start cycle. -/
def TimerSt.readCtrl (t : TimerSt) : Nat := t.ctrl.toNat + b2n (t.en && t.armed) * 256

/-- A load of D:0xFB00 to D:0xFBFF. -/
def IntSt.read (a : Nat) (i : IntSt) : Nat :=
  if a = 0xFB00 then i.pend.toNat else if a = 0xFB01 then i.en.toNat else if a = 0xFB02 then i.lvl0.toNat
  else if a = 0xFB03 then i.lvl1.toNat else if a = 0xFB04 then i.ovr.toNat else if a = 0xFB06 then i.last.toNat
  else if a = 0xFB10 then i.t0.readCtrl else if a = 0xFB11 then i.t0.reload.toNat else if a = 0xFB12 then i.t0.count.toNat
  else if a = 0xFB14 then i.t1.readCtrl else if a = 0xFB15 then i.t1.reload.toNat else if a = 0xFB16 then i.t1.count.toNat
  else 0

/-- The sources of a word of INT_SET, raised (R166). -/
def IntSt.raiseSet (v : Word) (i : IntSt) : IntSt :=
  (List.range 16).foldl (fun (i : IntSt) n => if wbit v n then i.raise n else i) i

/-- The bits a store to INT_PEND or INT_OVR clears: before the events of the store's last cycle (R166). -/
def IntSt.clear (a : Nat) (v : Word) (i : IntSt) : IntSt :=
  if a = 0xFB00 then { i with pend := i.pend &&& ~~~v }
  else if a = 0xFB04 then { i with ovr := i.ovr &&& ~~~v }
  else i

/-- A store to D:0xFB01 to D:0xFBFF, at the end of its last cycle (R168, R177). -/
def IntSt.write (keeper : Bool) (a : Nat) (v : Word) (i : IntSt) : IntSt :=
  if a = 0xFB01 then { i with en := v } else if a = 0xFB02 then { i with lvl0 := v }
  else if a = 0xFB03 then { i with lvl1 := v } else if a = 0xFB05 then i.raiseSet v
  else if a = 0xFB10 then { i with t0 := i.t0.write keeper false v }
  else if a = 0xFB11 then { i with t0 := { i.t0 with reload := v } }
  else if a = 0xFB12 then { i with t0 := { i.t0 with count := v } }
  else if a = 0xFB14 then { i with t1 := i.t1.write keeper true v }
  else if a = 0xFB15 then { i with t1 := { i.t1 with reload := v } }
  else if a = 0xFB16 then { i with t1 := { i.t1 with count := v } }
  else i

/-! ### Registers that take effect at the mode-change distance (R126) -/

/-- A register whose writes wait for the mode-change distance. -/
def modeReg (a : Nat) : Bool := decide (a = 0xFE00 ∨ 0xFE04 ≤ a ∧ a ≤ 0xFE0A ∨ 0xFE10 ≤ a ∧ a ≤ 0xFE18)

/-- A write subject to the distance: three instructions are still to complete, the writing one among them. -/
def CpuState.pendMode (m : ModeTarget) (u : CpuState) : CpuState :=
  { u with modePend := u.modePend ++ [{ left := 3, target := m }] }

/-! ### The mailbox (R354) -/

/-- A record goes to the FIFO of the slot's die. -/
def State.mailRecord (k : Nat) (s : State) : State :=
  let d := slotDie k % 2
  let q := if d = 0 then s.mbqFifo[0] else s.mbqFifo[1]
  if q.length < 256 then
    let v : Reg32 := BitVec.ofNat 32 (2 ^ 31 + k % 8192)
    { s with mbqFifo := if d = 0 then s.mbqFifo.set 0 (q ++ [v]) else s.mbqFifo.set 1 (q ++ [v]) }.setLevel (18 + d) true
  else s.countReg (kprBase + 0x508) 1

/-- GO of SES_MBSEND. -/
def State.mailSend (c : CtxNo) (s : State) : State :=
  match s.heldSlot c, s.ses c with
  | some k, some x =>
    if x.mb.full then s.modSes c (·.orIo 0xFF29 2)
    else
      let out := ((List.range 4).map (fun i => x.ioN (0xFF24 + i) * 2 ^ (16 * i))).sum
      (s.modSes c (fun y => { y with mb := { y.mb with outbox := BitVec.ofNat 64 out, full := true, emptied := false } })).mailRecord
        k
  | _, _ => s

/-- The context whose session holds a slot as its lowest. -/
def State.mailSlot (s : State) (k : Nat) : Option CtxNo :=
  if (s.slot k).upper then none else (s.slot k).ctx

/-- A write of KPR_MBIN_L: held. -/
def State.mailLow (k : Nat) (v : Reg32) (s : State) : State :=
  match s.mailSlot k with
  | some c => s.modSes c (fun x => { x with mb := { x.mb with low := v } })
  | none => s

/-- A write of KPR_MBIN_H commits the four words; one not yet delivered is replaced. -/
def State.mailCommit (k : Nat) (h : Reg32) (s : State) : State :=
  match s.mailSlot k with
  | some c => s.modSes c (fun x =>
      { x with mb := { x.mb with inbound := some (h ++ x.mb.low), replaced := x.mb.inbound.isSome } })
  | none => s

/-- MAILBOX_COMMIT (R354). -/
def execMailboxCommit (slot : SlotNo) (h : Reg32) (s : State) : Outcome :=
  .next (if s.power.dieUp (slotDie slot.toNat) then s.mailCommit slot.toNat h else s)

/-- MAILBOX_SEND (R354): a store of GO. -/
def execMailboxSend (c : CtxNo) (s : State) : Outcome := .next (if s.programs c then s.mailSend c else s)

/-- A read of KPR_MBOUT_H: words 2 and 3; the outbox is emptied. -/
def State.mailRead (k : Nat) (s : State) : State × Nat :=
  match s.mailSlot k with
  | some c => (s.modSes c (fun x => { x with mb := { x.mb with emptied := true } }),
      s.sesD c 0 (fun x => x.mb.outbox.toNat / 2 ^ 32))
  | none => (s, 0)

/-- OUTBOX_READ (R354). -/
def execOutboxRead (slot : SlotNo) (s : State) : Outcome :=
  .next (if s.power.dieUp (slotDie slot.toNat) then
    let r := s.mailRead slot.toNat
    r.1.reply r.2
  else s)

/-- The oldest outbound record of a die is read; 0 where there is none. -/
def State.mbqRead (d : Fin 2) (s : State) : State × Nat :=
  match s.mbqFifo[d.val] with
  | v :: q =>
    let s1 := { s with mbqFifo := s.mbqFifo.set d.val q }
    (if q.isEmpty then s1.setLevel (18 + d.val) false else s1, v.toNat)
  | [] => (s, 0)

/-- MAILBOX_QUEUE_READ (after R351). -/
def execMailboxQueueRead (die : Fin 2) (s : State) : Outcome :=
  .next (if s.power.hub then
    let r := s.mbqRead die
    r.1.reply r.2
  else s)

/-! ### Loads -/

/-- A word of the display as it stands once the sequencer has run up to the beam. -/
def State.videoRead (c : CtxNo) (a : Nat) (s1 : State) : State × Nat :=
  if a = 0xF010 then
    let s2 := s1.modSes c (·.beamRead)
    (s2, s2.sesD c 0 (·.ioN 0xF010))
  else if a = 0xF009 then (s1, s1.sesD c 0 (·.ioN 0xF009) + 4 * field (s1.slot ((s1.heldSlot c).getD 0)).ctrlEff.toNat 0 2)
  else if a = 0xF503 then (s1, s1.sesD c 0 (·.lpg.pc.toNat))
  else if a = 0xF505 then (s1, s1.sesD c 0 (·.lpg.lc.toNat))
  else if a = 0xF642 then (s1, s1.sesD c 0 (fun x => (x.palWord0 (x.ioN 0xF640)).toNat))
  else if a = 0xF643 then (s1.modSes c (·.palAdvance), s1.sesD c 0 (fun x => (x.palWord1 (x.ioN 0xF640)).toNat))
  else (s1, s1.sesD c 0 (·.ioN a))

/-- A load of a display word: the sequencer has run up to the beam first (R202); SPR_STAT and SPR_OVFLINE wait for the
lines before the read (R194). None: it waits, which freezes an Exact-mode session (R73). -/
def State.videoLoad (c : CtxNo) (a : Nat) (s : State) : State × Option Nat :=
  match (if a = 0xF404 ∨ a = 0xF405 then s.spriteDue c else s.lpgCatchUp c .last) with
  | (s1, true) => let r := s1.videoRead c a; (r.1, some r.2)
  | (s1, false) => (s1.countFreeze c, none)

/-- What the load of a word besides latches or clears (R52, R132, R313). -/
def Session.loaded (a : Nat) (x : Session) : Session :=
  if a = 0xFC23 then x.setIo 0xFC24 (x.ioN 0x1FC24)
  else if a = 0xFC25 then (x.setIo 0xFC26 (x.ioN 0x1FC26)).setIo 0xFC27 (x.ioN 0x1FC27)
  else if a = 0xFE30 ∨ a = 0xFE32 then x.setIo (0x10001 + a) (x.ioN (a + 1))
  else x.setIo a (x.ioN a - (x.ioN a &&& (ioDesc x.grand a).rc))

/-- The value of a word outside the display, blitter, DMA and sound ranges. -/
def State.miscLoad (s : State) (c : CtxNo) (a : Nat) : Nat :=
  match s.ses c with
  | some x =>
    if 0xFB00 ≤ a ∧ a < 0xFC00 then x.int.read a
    else if a = 0xFD00 then (s.slot ((s.heldSlot c).getD 0)).kindAt x.frame
    else if a = 0xFE00 then x.ioN a + b2n x.fast
    else if a = 0xFE31 ∨ a = 0xFE33 then x.ioN (0x10000 + a)
    else if a = 0xFF29 then x.ioN a + b2n x.mb.full
    else if a = 0xFE34 then (match s.heldSlot c with | some k => if x.fast then s.wrongFills k else 0 | none => 0)
    else x.ioN a
  | none => 0

/-- A load of a word of the I/O window by the session's processor. None: it waits. -/
def State.ioLoad (c : CtxNo) (a : Nat) (s : State) : State × Option Word :=
  if a < 0xF800 then
    let r := s.videoLoad c a
    (r.1, r.2.map (BitVec.ofNat 16))
  else if a < 0xF880 then (s, some (BitVec.ofNat 16 (s.sesD c 0 (·.blitRead a))))
  else if a < 0xF900 then (s, some (BitVec.ofNat 16 (s.sesD c 0 (·.dmaLoad a))))
  else if a < 0xFB00 then
    match s.mixFirst c (s.sesD c 0 (·.cpu.now)) with
    | (s1, true) => (s1.modSes c (·.soundLoaded a), some (BitVec.ofNat 16 (s1.sesD c 0 (·.soundRead a))))
    | (s1, false) => (s1, none)
  else (s.modSes c (·.loaded a), some (BitVec.ofNat 16 (s.miscLoad c a)))

/-! ### Stores -/

/-- A store to a word outside the display, blitter, DMA and sound ranges. -/
def State.miscStore (c : CtxNo) (a : Nat) (v : Word) (s : State) : State :=
  if 0xFB00 ≤ a ∧ a < 0xFC00 then s.modSes c (fun x => { x with int := x.int.write false a v })
  else if a = 0xFD01 then s.modSes c (fun x => x.land false x.lastPos .io a (v.setWidth 24))
  else if a = 0xFF28 then (if wbit v 0 then s.mailSend c else s)
  else s.modSes c (fun x =>
    let d := ioDesc x.grand a
    let w := softWrite d (x.ioN a) v.toNat
    if d.rw = 0 ∧ d.w1c = 0 then x
    else if modeReg a then { x.setIo a w with cpu := x.cpu.pendMode (.io a (BitVec.ofNat 16 w)) }
    else x.setIo a w)

/-- A store to a word of the I/O window by the session's processor. False: it waits. -/
def State.ioStore (c : CtxNo) (a : Nat) (v : Word) (s : State) : State × Bool :=
  if a < 0xF800 then (s.modSes c (fun x => x.videoStore false x.lastPos a v), true)
  else if a < 0xF900 then (s.unitStore c a v, true)
  else if a < 0xFB00 then s.soundStore c a v
  else (s.miscStore c a v, true)

end Sys2Proof.Machine
end

