-- ==== Sys2Proof/Machine/Cpu.lean ====
section
/-! DEFINITION. The Gliyx-16 processor, of a session and of a Keeper (R111 to R142, R147, R165 to R173, R347 to R349): what
may issue, fetch, waits, delay slots, faults, interrupt entry, and one instruction's passage from issue to completion. -/

namespace Sys2Proof.Machine

/-! ### The processor of a command -/

/-- A processor that nothing runs on. -/
def State.cpu (s : State) : Cpu → CpuState
  | .session c => s.sesD c CpuState.zero (·.cpu)
  | .keeper k => (s.keeper k).cpu

def State.int (s : State) : Cpu → IntSt
  | .session c => s.sesD c IntSt.zero (·.int)
  | .keeper k => (s.keeper k).int

def State.modCpu (p : Cpu) (f : CpuState → CpuState) (s : State) : State :=
  match p with
  | .session c => s.modSes c (fun x => { x with cpu := f x.cpu })
  | .keeper k => s.modKeeper k (fun x => { x with cpu := f x.cpu })

def State.modInt (p : Cpu) (f : IntSt → IntSt) (s : State) : State :=
  match p with
  | .session c => s.modSes c (fun x => { x with int := f x.int })
  | .keeper k => s.modKeeper k (fun x => { x with int := f x.int })

/-- An I/O word of a processor's own window as held, and set by the hardware. -/
def State.ownIo (s : State) (p : Cpu) (a : Nat) : Nat :=
  match p with
  | .session c => s.sesD c 0 (·.ioN a)
  | .keeper k => (Sparse.get (ioReset false a) (s.keeper k).io a).toNat

def State.setOwnIo (p : Cpu) (a v : Nat) (s : State) : State :=
  match p with
  | .session c => s.modSes c (·.setIo a v)
  | .keeper k => s.modKeeper k (fun x => { x with io := Sparse.set (ioReset false a) x.io a (BitVec.ofNat 16 v) })

/-- A register of R126 as in force. -/
def State.ownForce (s : State) (p : Cpu) (a : Nat) : Nat :=
  match p with
  | .session c => s.sesD c 0 (·.inForce a)
  | .keeper k => (Sparse.get (ioReset false a) (s.keeper k).eff a).toNat

def State.setForce (p : Cpu) (a : Nat) (v : Word) (s : State) : State :=
  match p with
  | .session c => s.modSes c (·.setForce a v.toNat)
  | .keeper k => s.modKeeper k (fun x => { x with eff := Sparse.set (ioReset false a) x.eff a v })

def isKeeper : Cpu → Bool | .session _ => false | .keeper _ => true

/-- A saturating 32-bit count in two I/O words. -/
def State.count32 (p : Cpu) (a n : Nat) (s : State) : State :=
  let v := min 0xFFFFFFFF (s.ownIo p a + 65536 * s.ownIo p (a + 1) + n)
  (s.setOwnIo p a (v % 65536)).setOwnIo p (a + 1) (v / 65536)

/-! ### Registers -/

/-- A register as the next instruction reads it: the instruction after a load still sees the old value (R120). -/
def CpuState.read (u : CpuState) (r : RegNo) : Word :=
  match u.loadOld.find? (fun e => e.1 == r) with
  | some e => e.2
  | none => u.w[r.val]

def CpuState.write (r : RegNo) (v : Word) (u : CpuState) : CpuState := { u with w := u.w.set r.val v }

/-- The register that follows another in a group. -/
def regAfter (r : RegNo) (i : Nat) : RegNo := ⟨(r.val + i) % 16, Nat.mod_lt _ (by decide)⟩

def CpuState.flags (u : CpuState) : Flags := flagsOf u.st
def CpuState.withFlags (f : Flags) (u : CpuState) : CpuState := { u with st := setFlags u.st f }

/-- The interrupt level in force: 5 and 6 act as 4 (R112). -/
def CpuState.level (u : CpuState) : Nat := if u.il = 5 ∨ u.il = 6 then 4 else u.il.toNat

/-- IL of a status word. -/
def stLevel (st : Word) : BitVec 3 := BitVec.ofNat 3 (field st.toNat 5 3)
def stWithLevel (st : Word) (l : Nat) : Word := BitVec.ofNat 16 (mergeBits 0xE0 st.toNat (l * 32))

/-- ST with the YZ, IL and IE in force, where a write of them may still be within its distance (R113, R126). -/
def CpuState.stInForce (u : CpuState) : Word :=
  BitVec.ofNat 16 (mergeBits 0x4010 (stWithLevel u.st u.il.toNat).toNat (b2n u.yz * 0x4000 + b2n u.ie * 16))

/-- A write of IL is within its mode-change distance. -/
def CpuState.levelPending (u : CpuState) : Bool :=
  u.modePend.any (fun m => match m.target with | .il _ => true | _ => false)

/-- A value written to ST: K stays, and the reserved bits read 0 (R112, R113). -/
def stWritten (old v : Word) : Word := (old &&& 0x8000#16) ||| (v &&& 0x40FF#16)

/-! ### Faults (R140) -/

/-- A fault: its code, the space of the access and the word address. -/
structure FaultInfo where
  code : Nat
  space : Nat
  data : Nat
  deriving DecidableEq, Repr

def faultIllegal : FaultInfo := { code := 1, space := 0, data := 0 }
def faultSlot : FaultInfo := { code := 2, space := 0, data := 0 }
def faultWriteRo (a : Nat) : FaultInfo := { code := 3, space := 2, data := a }
def faultFetch (a : Nat) : FaultInfo := { code := 4, space := 1, data := a }
def faultData (space a : Nat) : FaultInfo := { code := 5, space := space, data := a }
def faultSpace (a : Nat) : FaultInfo := { code := 6, space := 4, data := a }
def faultSpan (space a : Nat) : FaultInfo := { code := 7, space := space, data := a }
def faultOdd (space a : Nat) : FaultInfo := { code := 8, space := space, data := a }
def faultDiv : FaultInfo := { code := 9, space := 0, data := 0 }
def faultFar (a : Nat) : FaultInfo := { code := 10, space := 0, data := a }

/-- The fault registers (R141): `slot`: the instruction was in a delay slot. -/
def State.faultRegs (p : Cpu) (slot : Bool) (pc : Word) (f : FaultInfo) (s : State) : State :=
  ((s.setOwnIo p 0xFE20 (b2n slot * 2 ^ 15 + f.space * 2 ^ 12 + f.code)).setOwnIo p 0xFE21 pc.toNat).setOwnIo p 0xFE22 f.data

/-- The processor halts (R142, R348). -/
def State.haltCpu (p : Cpu) (s : State) : State :=
  let s1 := s.modCpu p (fun u => { u with halted := true, slot := none, loadOld := [], shadow := false })
  match p with
  | .session c => s1.haltRecord c
  | .keeper k =>
    (s1.offer 0x0031 Config.keeperOrigin (bytesBE 1 k.val ++ bytesBE 2 (s1.ownIo p 0xFE20) ++ bytesBE 2 (s1.ownIo p 0xFE21))).raiseP
      (48 + k.val)

/-! ### C space (R115, R116, R347) -/

/-- Keeper bank `b` is the code store or the boot ROM. -/
def keeperBank (b : Nat) : Bool := decide (b < 16 ∨ 0x80 ≤ b ∧ b ≤ 0x83)

/-- The bank of the window an address lies in, as in force. -/
def State.codeBank (s : State) (p : Cpu) (a : Nat) : Nat := s.ownForce p (0xFE04 + a % 65536 / 16384)

/-- A C-space address may be read. -/
def State.cOk (s : State) (p : Cpu) (a : Nat) : Bool :=
  match p with
  | .session c => s.codeOk c a
  | .keeper _ => keeperBank (s.codeBank p a)

/-- A C-space word read by a processor; none where the access waits. -/
def State.cWord (p : Cpu) (a : Nat) (s : State) : State × Option Word :=
  match p with
  | .session c => s.cRead c a
  | .keeper _ =>
    let b := s.codeBank p a
    (s, some (if b < 16 then s.word (codeStoreBase + 32768 * b + 2 * (a % 16384))
      else Config.romWord ((b - 0x80) * 16384 + a % 16384)))

/-! ### Time -/

/-- `n` cycles of a Keeper pass. -/
def State.keeperTime (k : Fin 4) (n : Nat) (s : State) : State := (s.keeperCycles k n).count32 (.keeper k) 0xFE32 n

/-- Whether a processor's next cycle may pass, what holds virtual time tried again first and the boundary it stands at crossed. -/
def State.poised (p : Cpu) (s : State) : State × Bool :=
  match p with
  | .session c => let s1 := s.stand c; (s1, s1.runs c)
  | .keeper _ => (s, true)

/-- The next cycle of a processor passes, up to the point at which its own store takes effect. -/
def State.cpuPre (p : Cpu) (s : State) : State :=
  match p with
  | .session c => s.passPre c 1
  | .keeper k => s.keeperTime k 1

/-- The rest of that cycle. -/
def State.cpuPost (p : Cpu) (s : State) : State :=
  match p with
  | .session c => s.passPost c
  | .keeper _ => s

/-- Cycles pass until a cycle is next. False: virtual time stopped before it. -/
def State.cpuUntil (p : Cpu) (t : Nat) (s : State) : State × Bool :=
  let n := t - (s.cpu p).now
  match p with
  | .session c => let s1 := s.passTime c n; (s1, decide (t ≤ (s1.cpu p).now))
  | .keeper k => (s.keeperTime k n, true)

/-- An access waits for the session's own units: a load for all that its last cycle holds, a store for what comes before it (R244,
R275). -/
def State.lagging (s : State) (p : Cpu) (load : Bool) (acc : List Reached) : Bool :=
  match p with
  | .session c => (if load then s.unitsBehind c else s.unitsLate c) && s.sesD c false (fun x => acc.any (fun r => x.unitsTouch r))
  | .keeper _ => false

/-- What comes of a cycle that an instruction or a sequence is to make: it is made, virtual time stands before it, or what is done
in it waits. -/
inductive CycleEnd where
  | made | stands | waits
  deriving DecidableEq, Repr

/-- What an access that could not complete leaves, from the state before its cycle: the wait counted, or what the Curator did about a
failure (R64, R70, R73, R85). `s1`: the state in which it found that. -/
def State.retried (p : Cpu) (act : State → State × Bool) (s s1 : State) : State :=
  match p with
  | .session c =>
    (match act s with
      | (z, false) => if (z.ctx c).state = .quarantined then z else s.backOut z
      | (_, true) => { s with cnt64 := s1.cnt64 })
  | .keeper _ => s

/-- An access that waits for the session's units has frozen an Exact-mode session. -/
def State.unitWait (p : Cpu) (s s1 : State) : State :=
  match p with
  | .session c => { s with cnt64 := s1.cnt64 }.countFreeze c
  | .keeper _ => s

/-- One cycle, in which something is done: `early` before the cycle's events (R166), `act` after them where it loads, and before what
lands in the cycle where it stores. Where it waits, the state is as before the cycle. -/
def State.inCycle (p : Cpu) (load : Bool) (acc : List Reached) (early : State → State) (act : State → State × Bool) (s : State) :
    State × CycleEnd :=
  match s.poised p with
  | (s1, false) => (s1, .stands)
  | (s1, true) =>
    let s2 := (early s1).cpuPre p
    let s3 := if load then s2.cpuPost p else s2
    if s3.lagging p load acc then (s1.unitWait p s3, .waits)
    else match act s3 with
      | (s4, true) => (if load then s4 else s4.cpuPost p, .made)
      | (s4, false) => (s1.retried p act s4, .waits)

/-- A session in Fast mode. -/
def State.isFast (s : State) : Cpu → Bool
  | .session c => s.sesD c false (·.fast)
  | .keeper _ => false

/-- Extra cycles of a Fast-mode instruction or sequence (R12, R128): a free count. -/
def State.fastExtra (s : State) (p : Cpu) : Nat := if s.isFast p then Config.freeCount s.fresh else 0

def State.spendFast (p : Cpu) (s : State) : State := if s.isFast p then s.spend else s

/-- Cycles that elapse in Fast mode while an access waits (R89, R119): a free number, one at least. -/
def State.elapse (p : Cpu) (s : State) : State :=
  if s.isFast p then ((s.spendFast p).cpuUntil p ((s.cpu p).now + 1 + s.fastExtra p)).1 else s

/-! ### D space (R115, R347) -/

/-- D:0xC000 in a session, D:0xF000 on a Keeper: where work RAM ends. -/
def ramEnd : Cpu → Nat | .session _ => 0xC000 | .keeper _ => 0xF000

/-- A load of a word of a Keeper's I/O window (R349). -/
def State.keeperIoLoad (k : Fin 4) (a : Nat) (s : State) : State × Word :=
  let p : Cpu := .keeper k
  if 0xFB00 ≤ a ∧ a < 0xFC00 then (s, BitVec.ofNat 16 ((s.keeper k).int.read a))
  else if a = 0xFF00 then (s, BitVec.ofNat 16 k.val)
  else if a = 0xFE30 ∨ a = 0xFE32 then (s.setOwnIo p (0x10001 + a) (s.ownIo p (a + 1)), BitVec.ofNat 16 (s.ownIo p a))
  else if a = 0xFE31 ∨ a = 0xFE33 then (s, BitVec.ofNat 16 (s.ownIo p (0x10000 + a)))
  else if a = 0xFE00 ∨ 0xFE04 ≤ a ∧ a ≤ 0xFE07 ∨ 0xFE20 ≤ a ∧ a ≤ 0xFE22 then (s, BitVec.ofNat 16 (s.ownIo p a))
  else (s, 0)

/-- A store to a word of a Keeper's I/O window. -/
def State.keeperIoStore (k : Fin 4) (a : Nat) (v : Word) (s : State) : State :=
  let p : Cpu := .keeper k
  if 0xFB00 ≤ a ∧ a < 0xFC00 then s.modKeeper k (fun x => { x with int := x.int.write true a v })
  else if a = 0xFE00 ∨ 0xFE04 ≤ a ∧ a ≤ 0xFE07 then
    let w := softWrite (ioDesc false a) (s.ownIo p a) v.toNat
    (s.setOwnIo p a w).modCpu p (·.pendMode (.io a (BitVec.ofNat 16 w)))
  else s

/-- A D word loaded; none where the access waits. -/
def State.dLoad (p : Cpu) (a : Nat) (s : State) : State × Option Word :=
  if 0xF000 ≤ a then
    (match p with
      | .session c => s.ioLoad c a
      | .keeper k => let r := s.keeperIoLoad k a; (r.1, some r.2))
  else match p with
    | .session c => s.dRead c a
    | .keeper k => (s, some (Sparse.get 0 (s.keeper k).dram a))

/-- A D word stored. -/
def State.dStore (p : Cpu) (a : Nat) (v : Word) (s : State) : State × Bool :=
  if 0xF000 ≤ a then
    (match p with
      | .session c => s.ioStore c a v
      | .keeper k => (s.keeperIoStore k a v, true))
  else match p with
    | .session c => s.dWrite c a v
    | .keeper k => (s.modKeeper k (fun x => { x with dram := Sparse.set 0 x.dram a v }), true)

/-! ### Selection (R167) -/

/-- The priority level of a source, 1 to 4. -/
def IntSt.levelOf (i : IntSt) (n : Nat) : Nat :=
  (if n < 8 then field i.lvl0.toNat (2 * n) 2 else field i.lvl1.toNat (2 * (n - 8)) 2) + 1

/-- The pending and enabled source of highest level above a level, the lowest number among equals. -/
def IntSt.select (above : Nat) (i : IntSt) : Option (Nat × Nat) :=
  (List.range 16).foldl (fun best n =>
    let l := i.levelOf n
    if wbit i.pend n && wbit i.en n && decide (above < l) && (match best with | some b => decide (b.2 < l) | none => true)
    then some (n, l) else best) none

/-- The eligible source a processor selects now. -/
def State.selected (s : State) (p : Cpu) : Option (Nat × Nat) :=
  if (s.cpu p).ie then (s.int p).select (s.cpu p).level else none

/-- The boundary the processor stands at takes no source (R125, R170, R173); one after a RETI is not shadowed (R172). -/
def CpuState.shadowed (u : CpuState) : Bool := u.shadow || u.slot.isSome || !u.modePend.isEmpty && !u.clear

/-- Keeper `k` is powered and clocked: Keeper 0 with AON, but for DORMANT (R406, R412). -/
def State.keeperClocked (s : State) (k : Fin 4) : Bool :=
  if k = 0 then
    s.power.mode != .off && s.power.mode != .dormant
      && !(s.power.transit && s.power.goal == .dormant && s.power.mode != .ascent)
  else s.power.hub

/-- The processor is powered, released and not halted, and its time may move. -/
def State.active (s : State) (p : Cpu) : Bool :=
  !(s.cpu p).halted && (match p with
    | .session c => s.runs c
    | .keeper k => (s.keeper k).running && s.keeperClocked k)

/-- The processor stands at an instruction boundary. -/
def CpuState.between (u : CpuState) : Bool := u.issued.isNone && u.seq.isNone

/-- An interrupt is to be taken at this boundary. -/
def State.entryDue (s : State) (p : Cpu) : Bool :=
  s.active p && (s.cpu p).between && !(s.cpu p).waiting && !(s.cpu p).shadowed && (s.selected p).isSome

/-- The processor issues its next instruction now, or goes on with the one it has issued. -/
def State.mayIssue (s : State) (p : Cpu) : Bool :=
  s.active p && (s.cpu p).seq.isNone && !(s.cpu p).waiting && !s.entryDue p

/-! ### Sequences: entry, RETI and tail-chain (R169 to R173) -/

/-- The vector of a source; none for a fault. -/
def vectorAddr : Option Nat → Nat | some n => 2 + n | none => 1

/-- A sequence goes on from a state of it. -/
def State.setSeq (p : Cpu) (q : Option Seq) (s : State) : State := s.modCpu p (fun u => { u with seq := q })

/-- What a word of D space is, for the units it may wait for. -/
def dReach (a : Nat) : List Reached := if 0xF000 ≤ a then [.io] else if a < 0xC000 then [.ram] else []

/-- A push of an entry: w15 is decremented, then the word written (R111, R169). -/
def State.push (p : Cpu) (v : Word) (s : State) : State × Bool :=
  let a := (s.cpu p).w[15] - 1
  let r := s.dStore p a.toNat v
  (if r.2 then r.1.modCpu p (·.write 15 a) else r.1, r.2)

/-- A pop of a RETI: the word at an address, and w15 past it. -/
def State.pop (p : Cpu) (a : Word) (f : Word → Seq) (s : State) : State × Bool :=
  match s.dLoad p a.toNat with
  | (s1, some v) => ((s1.modCpu p (·.write 15 (a + 1))).setSeq p (some (f v)), true)
  | (s1, none) => (s1, false)

/-- Entry cycle 5, or T1 of a tail-chain: the level is set, the pending bit cleared before the cycle's events, and INT_LAST
written. A write of IL still within its distance, under a fault, is what MFST goes on showing (DEDUCED, log entry 57). -/
def State.setLevelOf (p : Cpu) (src : Option Nat) (level : Nat) (s : State) : State :=
  let s1 := s.modInt p (fun i => { i with
    pend := match src with | some n => i.pend &&& ~~~(1#16 <<< n) | none => i.pend
    last := BitVec.ofNat 16 (level * 32 + src.getD 16) })
  s1.modCpu p (fun u => { u with il := BitVec.ofNat 3 level, st := if u.levelPending then u.st else stWithLevel u.st level })

/-- The selection after one of entry cycles 1 to 4: a level strictly higher than the one selected replaces it; a fault's entry is
never replaced (R170). -/
def State.reselect (p : Cpu) (s : State) : State :=
  match (s.cpu p).seq with
  | some q =>
    (match q.src, s.selected p with
      | some _, some (m, l) => if q.level < l then s.setSeq p (some { q with src := some m, level := l }) else s
      | _, _ => s)
  | none => s

/-- The vector is read, or the processor halts where it lies beyond the code pages (R171). -/
def State.readVector (p : Cpu) (q : Seq) (s : State) : State × Bool :=
  let a := vectorAddr q.src
  if !s.cOk p a then (((s.faultRegs p false q.ret (faultFetch a)).setSeq p none).haltCpu p, true)
  else match s.cWord p a with
    | (s1, some v) => (s1.setSeq p (some { q with step := q.step + 1, vec := v }), true)
    | (s1, none) => (s1, false)

/-- The vector becomes the PC. No source is taken before the handler's first instruction (R170, R173). -/
def State.takeVector (p : Cpu) (q : Seq) (s : State) : State :=
  s.modCpu p (fun u => { u with pc := q.vec, shadow := true, seq := none })

/-- The push address of an entry that lies outside work RAM, the first (R171). -/
def CpuState.badPush (p : Cpu) (u : CpuState) : Option Word :=
  ([u.w[15] - 1, u.w[15] - 2] : List Word).find? (fun a => decide (ramEnd p ≤ a.toNat))

/-- A cycle of a sequence that does nothing else. -/
def State.seqIdle (p : Cpu) (f : State → State) (s : State) : State × CycleEnd :=
  s.inCycle p true [] id (fun t => (f t, true))

/-- The next cycle of an entry (R169 to R171). -/
def State.entryCycle (p : Cpu) (q : Seq) (s : State) : State × CycleEnd :=
  let next := some { q with step := q.step + 1 }
  if q.step = 1 then
    match (s.cpu p).badPush p with
    | some a => s.seqIdle p (fun t => ((t.faultRegs p false q.ret (faultWriteRo a.toNat)).setSeq p none).haltCpu p)
    | none => s.inCycle p false [.ram] id (fun t => let r := t.push p q.ret; (r.1.setSeq p next, r.2))
  else if q.step = 2 then s.inCycle p false [.ram] id (fun t => let r := t.push p q.st; (r.1.setSeq p next, r.2))
  else if q.step ≤ 4 then s.seqIdle p (·.setSeq p next)
  else if q.step = 5 then s.inCycle p true [] (·.setLevelOf p q.src q.level) (·.readVector p q)
  else s.seqIdle p (·.takeVector p q)

/-! #### RETI (R172, R173) -/

/-- The source a RETI tail-chains (R173): IE of the stored ST, and a level above its IL. -/
def State.chained (s : State) (p : Cpu) (st : Word) : Option (Nat × Nat) :=
  if wbit st 4 then
    let l := field st.toNat 5 3
    (s.int p).select (if l = 5 ∨ l = 6 then 4 else l)
  else none

/-- Pending writes of YZ, IL and IE are dropped (R172). -/
def CpuState.dropSt (u : CpuState) : CpuState :=
  { u with modePend := u.modePend.filter (fun m => match m.target with | .io _ _ => true | _ => false) }

/-- Every field of ST takes effect at once (R172). -/
def CpuState.restoreSt (v : Word) (u : CpuState) : CpuState :=
  let st := stWritten u.st v
  { u.dropSt with st := st, yz := wbit st 14, il := stLevel st, ie := wbit st 4 }

/-- A mode-change write takes effect (R126). -/
def State.applyMode (p : Cpu) (m : ModeTarget) (s : State) : State :=
  match m with
  | .yz b => s.modCpu p (fun u => { u with yz := b })
  | .il l => s.modCpu p (fun u => { u with il := l })
  | .ie b => s.modCpu p (fun u => { u with ie := b })
  | .io a v => s.setForce p a v

/-- One instruction has completed: the writes whose distance it ends take effect (R126). -/
def State.stepModes (p : Cpu) (s : State) : State :=
  let l := (s.cpu p).modePend.map (fun m => { m with left := m.left - 1 })
  (l.filter (fun m => m.left == 0)).foldl (fun (s : State) m => s.applyMode p m.target)
    (s.modCpu p (fun u => { u with modePend := l.filter (fun m => m.left != 0) }))

/-- A RETI counts as one instruction (R126, R132). -/
def State.retiCommit (p : Cpu) (s : State) : State :=
  ((s.modCpu p (fun u => { u with loadOld := [], shadow := false })).count32 p 0xFE30 1).stepModes p

/-- RETI cycle 3 has ended: the instruction counts, and what follows is fixed (R173). -/
def State.retiFix (p : Cpu) (q : Seq) (s : State) : State :=
  let s1 := s.retiCommit p
  s1.setSeq p (some (match s1.chained p q.st with
    | some (n, l) => { q with kind := .chain, step := 1, src := some n, level := l }
    | none => { q with step := 4 }))

/-- The next cycle of a RETI. -/
def State.retiCycle (p : Cpu) (q : Seq) (s : State) : State × CycleEnd :=
  if q.step = 1 then
    s.inCycle p true (dReach q.ret.toNat) id (·.pop p q.ret (fun v => { q with step := 2, st := v, ret := q.ret + 1 }))
  else if q.step = 2 then
    s.inCycle p true (dReach q.ret.toNat) id (·.pop p q.ret (fun v => { q with step := 3, ret := v }))
  else if q.step = 3 then s.seqIdle p (·.retiFix p q)
  else if q.step = 4 then s.seqIdle p (fun t => (t.modCpu p (·.restoreSt q.st)).setSeq p (some { q with step := 5 }))
  else s.seqIdle p (fun t => t.modCpu p (fun u => { u with pc := q.ret, clear := true, seq := none }))

/-- The next cycle of a tail-chain. -/
def State.chainCycle (p : Cpu) (q : Seq) (s : State) : State × CycleEnd :=
  if q.step = 1 then
    s.inCycle p true [] (fun t => (t.modCpu p (fun u => (u.restoreSt q.st).write 15 (u.w[15] - 2))).setLevelOf p q.src q.level)
      (fun t => (t.setSeq p (some { q with step := 2 }), true))
  else if q.step = 2 then s.inCycle p true [] id (·.readVector p q)
  else s.seqIdle p (·.takeVector p q)

/-- One cycle of the sequence in progress. -/
def State.seqCycle (p : Cpu) (q : Seq) (s : State) : State × CycleEnd :=
  match q.kind with
  | .entry =>
    let r := s.entryCycle p q
    (if r.2 = .made ∧ q.step ≤ 4 then r.1.reselect p else r.1, r.2)
  | .reti => s.retiCycle p q
  | .chain => s.chainCycle p q

/-- The sequence in progress goes on until it ends, or virtual time stands, or an access of it waits. -/
def State.seqRun (p : Cpu) : Nat → State → State
  | 0, s => s
  | fuel + 1, s =>
    match (s.cpu p).seq with
    | none => s
    | some q =>
      match s.seqCycle p q with
      | (s1, .made) => State.seqRun p fuel s1
      | (s1, .stands) => s1
      | (s1, .waits) => s1.elapse p

/-- A sequence begins and runs: 8 cycles at most, and a free number more before the first in Fast mode (R12). -/
def State.seqStart (p : Cpu) (q : Seq) (s : State) : State :=
  let s1 := (s.modCpu p (fun u => { u with seq := some q, slot := none, loadOld := [], shadow := false, clear := false,
                                           prev := none })).spendFast p
  State.seqRun p 8 (s1.cpuUntil p ((s.cpu p).now + s.fastExtra p)).1

/-- Entry (R169): six cycles. `src`: the source selected, none for a fault. The ST pushed is the one in force at the boundary
(DEDUCED, log entry 57). -/
def State.enter (p : Cpu) (src : Option Nat) (level : Nat) (ret : Word) (s : State) : State :=
  s.seqStart p { kind := .entry, step := 1, src := src, level := level, ret := ret, st := (s.cpu p).stInForce, vec := 0 }

/-- A fault is taken (R141), or halts the processor while IL is 7 (R142). -/
def State.takeFault (p : Cpu) (f : FaultInfo) (s : State) : State :=
  let u := s.cpu p
  let s1 := s.faultRegs p u.slot.isSome u.pc f
  if u.level = 7 then s1.haltCpu p else s1.enter p none 7 u.pc

/-- ENTRY (R167, R169, R170): the source selected at this boundary is taken; an entry that stood still goes on. -/
def execEntry (p : Cpu) (s : State) : Outcome :=
  let s0 := (s.poised p).1
  .next (if s0.active p && (s0.cpu p).seq.isSome then s0.seqRun p 8
    else if s0.entryDue p then
      match s0.selected p with
      | some (n, l) => s0.enter p (some n) l (s0.cpu p).pc
      | none => s0
    else s0)

/-! ### One instruction -/

/-- What an instruction needs and does: its words, its count (R147), the registers it reads and writes, the results the
scoreboard holds with their latencies (R121), the cycles it waits for far responses (R139), whether it is a load (R120) or a control
transfer, whether it reads memory as what lands in its last cycle leaves it, as every load does (R275), what its accesses reach, whether it never shares an issue cycle (R130), its fault, what it does before its last cycle's
events, and its effect at the end of its count. `resolve`: a transfer's outcome, where it comes from memory. `mid`: the first half of
a split pair: the cycle of the count in which it is made, what it does before that cycle's events, and the half itself (R119). -/
structure Op where
  len : Nat
  cycles : Nat
  reads : List ScoreTarget
  writes : List ScoreTarget
  late : List (ScoreTarget × Nat)
  stall : Nat
  isLoad : Bool
  sees : Bool
  transfer : Option DelaySlot
  resolve : State → DelaySlot → DelaySlot
  acc : List Reached
  solo : Bool
  fault : Option FaultInfo
  early : State → State
  effect : State → State × Bool
  mid : Option (Nat × (State → State) × (State → State × Bool))

/-- An operation that does nothing and takes one cycle. -/
def Op.nop : Op :=
  { len := 1, cycles := 1, reads := [], writes := [], late := [], stall := 0, isLoad := false, sees := false, transfer := none,
    resolve := fun _ d => d, acc := [], solo := false, fault := none, early := id, effect := fun s => (s, true), mid := none }

/-- The cycles an instruction waits on the scoreboard (R121, R122): the instruction after a load does not wait to read what
it loaded. -/
def CpuState.waitFor (u : CpuState) (o : Op) : Nat :=
  let old := u.loadOld.map (fun e => ScoreTarget.reg e.1)
  (u.score.filter (fun e => o.writes.contains e.1 || (o.reads.contains e.1 && !old.contains e.1))).foldl
    (fun m e => max m (e.2 - u.now)) o.stall

/-- The processor as its instruction completes: PC, delay slot, scoreboard and load delay (R120 to R123). `issue`: its issue
cycle. -/
def CpuState.retire (o : Op) (issue : Nat) (u : CpuState) : CpuState :=
  let late := o.late.map (fun e => (e.1, issue + max e.2 (if o.isLoad then o.cycles else 0)))
  { u with
    pc := match u.slot with
      | some d => if d.taken then d.target else u.pc + BitVec.ofNat 16 o.len
      | none => u.pc + BitVec.ofNat 16 o.len
    slot := o.transfer
    score := (u.score.filter (fun e => decide (u.now < e.2) && !(late.map (·.1)).contains e.1)) ++ late
    far := u.far.filter (fun e => decide (u.now < e.back))
    shadow := o.isLoad
    clear := false
    issued := none }

/-- The code line of an instruction whose words lie in one (R129, R130). -/
def CpuState.lineOf (u : CpuState) (len : Nat) : Option Nat :=
  let l := u.pc.toNat / 32
  if (u.pc.toNat + len - 1) / 32 = l then some l else none

/-- What a Fast-mode thread keeps of an instruction for a second one to share its issue cycle (R130). -/
def CpuState.firstOf (o : Op) (issue : Nat) (u : CpuState) : Option IssuedFirst :=
  match u.lineOf o.len with
  | some l =>
    if o.solo || o.transfer.isSome || u.slot.isSome || u.prev.any (fun q => q.first == issue) then none
    else some { first := issue, line := l, mem := !o.acc.isEmpty, writes := o.writes,
                held := (u.score.filter (fun e => decide (issue < e.2))).map (·.1) }
  | none => none

/-- The instruction completes: the processor, the count of instructions and the mode-change distance (R126, R132). -/
def State.commit (p : Cpu) (o : Op) (issue : Nat) (s : State) : State :=
  let s1 := if s.isFast p then s.modCpu p (fun u => { u with prev := u.firstOf o issue }) else s
  ((s1.modCpu p (·.retire o issue)).count32 p 0xFE30 1).stepModes p

/-- Virtual time stands in an instruction, or an access of it waits. -/
def State.holdAt (p : Cpu) (i : Issued) (s : State) : State := s.modCpu p (fun u => { u with issued := some i })

/-- The same where cycles elapse meanwhile (R89): the instruction's cycles move on by them. A session quarantined meanwhile stands
at the instruction's boundary (R86). -/
def State.holdOn (p : Cpu) (i : Issued) (s : State) : State :=
  let s1 := s.elapse p
  match p with
  | .session c => if (s1.ctx c).state = .quarantined then s1.modCpu p (fun u => { u with issued := none })
      else s1.holdAt p { i with first := i.first + ((s1.cpu p).now - (s.cpu p).now) }
  | .keeper _ => s1.holdAt p i

/-- Cycles of an instruction pass to one of its count, counted from 1, in which something is done; where it cannot be, the
instruction is held there. The flag: it has been done. -/
def State.atCycle (p : Cpu) (o : Op) (n : Nat) (early : State → State) (act : State → State × Bool) (i : Issued) (s : State) :
    State × Bool :=
  match s.cpuUntil p (i.first + n - 1) with
  | (s1, false) => (s1.holdAt p i, false)
  | (s1, true) =>
    match s1.inCycle p (o.isLoad || o.sees) o.acc early act with
    | (s2, .made) => (s2, true)
    | (s2, .stands) => (s2.holdAt p i, false)
    | (s2, .waits) => (s2.holdOn p i, false)

/-- The effect of an instruction, and its completion. -/
def State.finishOp (p : Cpu) (o : Op) (issue : Nat) (s : State) : State × Bool :=
  let s1 := s.modCpu p (fun u => { u with loadOld := [] })
  match o.effect s1 with
  | (s2, true) => (s2.commit p { o with transfer := o.transfer.map (o.resolve s1) } issue, true)
  | r => r

/-- The last cycle of an instruction. One that shares the issue cycle of another, whose cycles have passed, takes none (R128). -/
def State.lastCycleOf (p : Cpu) (o : Op) (i : Issued) (s : State) : State :=
  if i.first + i.total ≤ (s.cpu p).now then
    if s.lagging p (o.isLoad || o.sees) o.acc then (s.unitWait p s).holdOn p i
    else match (o.early s).finishOp p o i.first with
      | (s1, true) => s1
      | (s1, false) => (s.retried p (·.finishOp p o i.first) s1).holdOn p i
  else (s.atCycle p o i.total o.early (·.finishOp p o i.first) i).1

/-- An instruction that has issued goes on: the first half of a split pair, then its last cycle. -/
def State.goOn (p : Cpu) (o : Op) (i : Issued) (s : State) : State :=
  match o.mid, i.half with
  | some (n, early, act), none =>
    (match (s.holdAt p i).atCycle p o n early act i with
      | (s1, true) => s1.lastCycleOf p o (((s1.cpu p).issued).getD i)
      | (s1, false) => s1)
  | _, _ => s.lastCycleOf p o i

/-- A faulting instruction's cycles pass: its issue cycle and any wait before it (R141). -/
def State.faultOn (p : Cpu) (f : FaultInfo) (i : Issued) (s : State) : State :=
  match s.cpuUntil p (i.first + i.total) with
  | (s1, true) => (s1.modCpu p (fun u => { u with issued := none })).takeFault p f
  | (s1, false) => s1.holdAt p i

/-- An annulled delay slot's cycle passes, and nothing else (R123). -/
def State.annulOn (p : Cpu) (len : Nat) (i : Issued) (s : State) : State :=
  match s.cpuUntil p (i.first + i.total) with
  | (s1, true) => (s1.modCpu p (fun u => { u with loadOld := [] })).commit p { Op.nop with len := len, solo := true } i.first
  | (s1, false) => s1.holdAt p i

/-- A second instruction may share the issue cycle of the one before it (R130). -/
def CpuState.pairs (u : CpuState) (o : Op) : Bool :=
  match u.prev, u.lineOf o.len with
  | some q, some l =>
    l == q.line && !o.solo && o.transfer.isNone && u.slot.isNone && !(q.mem && !o.acc.isEmpty)
      && (o.reads ++ o.writes).all (fun t => !q.writes.contains t && !q.held.contains t)
  | _, _ => false

/-- The fault of an instruction where it issues: ILLEGAL and ILLEGAL_SLOT are seen before its registers are waited for (R141, R144;
DEDUCED, log entry 56). -/
def CpuState.faultOf (u : CpuState) (o : Op) : Option FaultInfo :=
  if o.transfer.isSome && u.slot.isSome && o.fault != some faultIllegal then some faultSlot else o.fault

/-- The cycles of an instruction that issues now: its issue cycle, after what it waits, and its count. -/
def State.issueOf (s : State) (p : Cpu) (o : Op) : Issued :=
  let u := s.cpu p
  match u.faultOf o with
  | some f => { first := u.now + (if f.code ≤ 2 then 0 else u.waitFor o), total := 1, half := none }
  | none =>
    if s.isFast p && u.pairs o && Config.freeBool s.fresh then
      { first := (u.prev.map (·.first)).getD u.now, total := o.cycles + Config.freeCount s.fresh, half := none }
    else { first := u.now + u.waitFor o, total := o.cycles + s.fastExtra p, half := none }

/-- An instruction of a processor that may issue, with its words fetched. -/
def State.issue (p : Cpu) (o : Op) (s : State) : State :=
  let i := ((s.cpu p).issued).getD (s.issueOf p o)
  let s1 := if (s.cpu p).issued.isNone then s.spendFast p else s
  match (s.cpu p).faultOf o with
  | some f => s1.faultOn p f i
  | none => s1.goOn p o i

/-- The first word of an instruction that lies beyond the code pages (R143). -/
def State.badFetch (s : State) (p : Cpu) (len : Nat) : Option Nat :=
  let pc := (s.cpu p).pc.toNat
  ((List.range len).map (fun i => (pc + i) % 65536)).find? (fun a => !s.cOk p a)

/-- The words of an instruction are read (R74, R75), the code lines ahead filled in Exact mode; false where one waits. -/
def State.fetchLine (p : Cpu) (len : Nat) (s : State) : State × Bool :=
  match p with
  | .session c =>
    (List.range len).foldl (fun (r : State × Bool) i =>
      if r.2 then let z := r.1.cRead c ((s.cpu p).pc.toNat + i); (z.1, z.2.isSome) else r)
      (if s.isFast p then s else s.fillAhead c, true)
  | .keeper _ => (s, true)

/-- The words at the PC are no instruction's (R144). The words of the boot ROM are not published, and are taken to be instructions'. -/
def State.unencoded (s : State) (p : Cpu) : Bool :=
  let pc := (s.cpu p).pc.toNat
  let rom := match p with | .session _ => false | .keeper _ => decide (16 ≤ s.codeBank p pc)
  match (s.cWord p pc).2 with
  | some a => !rom && !encoded a (((s.cWord p (pc + 1)).2).getD 0)
  | none => false

/-- The instruction as its words at the PC let it be: ILLEGAL where they are no instruction's. -/
def State.asEncoded (s : State) (p : Cpu) (o : Op) : Op :=
  if s.unencoded p then { Op.nop with fault := some faultIllegal } else o

/-- A command that is an instruction of a processor: it issues, or goes on where virtual time stood in it; a sequence in progress
goes on first. -/
def State.run (p : Cpu) (o : Op) (s0 : State) : State :=
  let s := (s0.poised p).1
  let u := s.cpu p
  if s.active p && u.seq.isSome then s.seqRun p 8
  else if !s.mayIssue p then s
  else if (match u.slot with | some d => d.annulled | none => false) then
    (s.spendFast p).annulOn p o.len (u.issued.getD { first := u.now, total := 1 + s.fastExtra p, half := none })
  else match s.badFetch p o.len with
    | some a => s.faultOn p (faultFetch a) (u.issued.getD { first := u.now, total := 1, half := none })
    | none =>
      if u.issued.isSome then s.issue p (s.asEncoded p o)
      else match s.fetchLine p o.len with
        | (s1, true) => s1.issue p (s1.asEncoded p o)
        | (s1, false) => (s.retried p (·.fetchLine p o.len) s1).elapse p

/-- The same as an outcome. -/
def State.instr (p : Cpu) (o : Op) (s : State) : Outcome := .next (s.run p o)

end Sys2Proof.Machine
end

