-- ==== Sys2Proof/Machine/Operands.lean ====
section
/-! DEFINITION. The operand forms of the instruction reference: registers and immediates (R150, R151), shift amounts (R152),
the address forms of loads and stores (R154 to R156) with the index registers (R135), pairs (R117 to R119), counts by region
(R148), and bit operands (R136, R161). -/

namespace Sys2Proof.Machine

/-! ### Registers, immediates, amounts -/

/-- The right operand of an arithmetic form. -/
def CpuState.src (u : CpuState) : Src → Word
  | .reg r => u.read r
  | .imm i => i

/-- Words of an instruction with such an operand; its count is the same number (R150, R151). -/
def srcLen : Src → Nat | .reg _ => 1 | .imm _ => 2

def srcReads : Src → List ScoreTarget | .reg r => [.reg r] | .imm _ => []

/-- The amount of a shift (R152). -/
def CpuState.amount (u : CpuState) : Amount → Nat
  | .imm a => a.toNat
  | .reg r => (u.read r).toNat % 16

def amountReads : Amount → List ScoreTarget | .reg r => [.reg r] | .imm _ => []

/-! ### Spaces -/

/-- The spaces of the memory codes (R154). -/
inductive MemSpace where
  | d | v | s | c
  deriving DecidableEq, Repr

/-- SPACE of SES_FAULT_CAUSE. -/
def MemSpace.code : MemSpace → Nat | .c => 1 | .d => 2 | .v => 3 | .s => 4

/-- The fault of an access to one word (R115, R116, R140). -/
def State.wordFault (s : State) (p : Cpu) (m : MemSpace) (store : Bool) (a : Nat) : Option FaultInfo :=
  match m with
  | .c => if s.cOk p a then none else some (faultData 1 a)
  | .v => none
  | .s => match p with
    | .session c => if s.sesD c true (·.grand) || decide (a < 0x8000) then none else some (faultSpace a)
    | .keeper _ => none
  | .d => match p with
    | .session c =>
      if a < 0xC000 ∨ 0xF000 ≤ a then none
      else if store then some (faultWriteRo a)
      else if s.dataOk c a then none else some (faultData 2 a)
    | .keeper _ => none

/-- The row of R115 or R347 that an address lies in. -/
def spaceRow (p : Cpu) (m : MemSpace) (a : Nat) : Nat :=
  match m with
  | .d => if a < ramEnd p then 0 else if a < 0xF000 then 1 else 2
  | _ => 0

/-- The fault of an access of one word or a pair (R117 to R119). -/
def State.accessFault (s : State) (p : Cpu) (m : MemSpace) (store pair : Bool) (a : Nat) : Option FaultInfo :=
  if !pair then s.wordFault p m store a
  else if a = 0xFFFF ∨ spaceRow p m a ≠ spaceRow p m (a + 1) then some (faultSpan m.code a)
  else if a % 2 = 1 ∧ (s.ownForce p 0xFE00).testBit 2 then some (faultOdd m.code a)
  else match s.wordFault p m store a with
    | some f => some f
    | none => s.wordFault p m store (a + 1)

/-- The count of an access (R148). -/
def accessCount (m : MemSpace) (store pair : Bool) (a : Nat) : Nat :=
  let odd := b2n (pair && a % 2 == 1)
  match m with
  | .c => 1 + odd
  | .d => if a < 0xF000 then 1 + odd else if pair then 3 + odd else 2
  | _ => if pair then (if store then 3 else 4) + odd else if store then 2 else 3

/-- What a word of a space is, for the units an access of it may wait for. -/
def memReach (m : MemSpace) (a : Nat) : List Reached :=
  match m with
  | .c => []
  | .d => dReach (a % 65536)
  | .v => [.v]
  | .s => [.s]

/-- The bank of V space, and the half of S space, that a program's access reaches, as in force (R116). -/
def State.vBank (s : State) (c : CtxNo) : Nat := s.sesD c 0 (fun x => x.bankOf (x.inForce 0xFE09))
def State.sHalf (s : State) (c : CtxNo) : Nat := s.sesD c 0 (fun x => x.halfOf (x.inForce 0xFE0A))

/-- A V word loaded by the program: a page that has no copy freezes an Exact-mode session (R73). -/
def State.vLoad (c : CtxNo) (a : Nat) (s : State) : State × Option Word :=
  let r := s.vRead c (s.vBank c) a
  (State.thawed c (vPage (s.vBank c) (a % 65536)) false r.2.isSome s r.1, r.2)

/-- An S word loaded by the program: one that the sound unit writes comes after every sample due (R252). -/
def State.sLoad (c : CtxNo) (a : Nat) (s : State) : State × Option Word :=
  let h := s.sHalf c
  match (if s.sesD c false (·.inSendRing h a) then s.mixFirst c (s.sesD c 0 (·.cpu.now)) else (s, true)) with
  | (s1, true) =>
    let r := s1.sRead c h a
    (State.thawed c (sPage h (a % 65536)) false r.2.isSome s1 r.1, r.2)
  | (s1, false) => (s1, none)

/-- A word loaded; none where the access waits. -/
def State.memLoad (p : Cpu) (m : MemSpace) (a : Nat) (s : State) : State × Option Word :=
  match m, p with
  | .d, _ => s.dLoad p (a % 65536)
  | .c, _ => s.cWord p (a % 65536)
  | .v, .session c => s.vLoad c a
  | .s, .session c => s.sLoad c a
  | _, .keeper _ => (s, none)

/-- What a store of the program to V or S space leaves: an Exact-mode session has frozen for its page (R73), or for a full journal
(R204, R251). -/
def State.storeWait (c : CtxNo) (i : Nat) (s : State) (r : State × Bool) : State × Bool :=
  (if !r.2 && r.1.frames == s.frames && (s.page c i).alloc && !s.stalls c i true then r.1.countFreeze c
   else State.thawed c i true r.2 s r.1, r.2)

/-- A V or S word stored by the program. -/
def State.vStore (c : CtxNo) (a : Nat) (v : Word) (s : State) : State × Bool :=
  s.storeWait c (vPage (s.vBank c) (a % 65536)) (s.vWrite c (s.vBank c) a v (s.lastCycle c))

def State.sStore (c : CtxNo) (a : Nat) (v : Word) (s : State) : State × Bool :=
  s.storeWait c (sPage (s.sHalf c) (a % 65536)) (s.sWrite c (s.sHalf c) a v (s.lastCycle c))

/-- A word stored. -/
def State.memStore (p : Cpu) (m : MemSpace) (a : Nat) (v : Word) (s : State) : State × Bool :=
  match m, p with
  | .d, _ => s.dStore p (a % 65536) v
  | .v, .session c => s.vStore c a v
  | .s, .session c => s.sStore c a v
  | _, _ => (s, false)

/-! ### Index registers (R135) -/

/-- The low `k` bits of a number in reverse order. -/
def revBits (k v : Nat) : Nat := ((List.range k).map (fun i => if v.testBit i then 2 ^ (k - 1 - i) else 0)).sum

/-- The largest `k` with 2^k ≤ a length; 0 for a length of 0. -/
def ringLog (l : Nat) : Nat := ((List.range 16).filter (fun k => decide (2 ^ k ≤ l))).length - 1

/-- An index register advanced by a signed step. -/
def advanceIndex (xb xl mode : Nat) (x : Word) (step : Int) : Word :=
  let linear := ofIntW ((x.toNat : Int) + step)
  let o := (x.toNat + 65536 - xb) % 65536
  if mode = 1 then
    if xl = 0 ∨ xl ≤ o then linear else ofIntW ((xb : Int) + ((o : Int) + step) % (xl : Int))
  else if mode = 2 then
    let k := ringLog xl
    let m := 2 ^ k
    if k = 0 ∨ m ≤ o then linear
    else ofIntW ((xb : Int) + (revBits k (((revBits k o : Nat) + step) % (m : Int)).toNat : Nat))
  else linear

/-- XBn, XLn and the mode of an index register, as in force. -/
def State.indexMode (s : State) (p : Cpu) (n : Fin 4) : Nat × Nat × Nat :=
  match p with
  | .session c => (s.sesD c 0 (·.inForce (0xFE10 + n.val)), s.sesD c 0 (·.inForce (0xFE14 + n.val)),
      field (s.sesD c 0 (·.inForce 0xFE18)) (2 * n.val) 2)
  | .keeper _ => (0, 0, 0)

/-- An index register advanced on the processor. -/
def State.advance (p : Cpu) (n : Fin 4) (step : Int) (s : State) : State :=
  let md := s.indexMode p n
  s.modCpu p (fun u => { u with x := u.x.set n.val (advanceIndex md.1 md.2.1 md.2.2 u.x[n.val] step) })

/-! ### Address forms (R155) -/

/-- A resolved address: its words, the registers it reads, and the index register to advance with its step for one word. -/
structure Address where
  addr : Nat
  len : Nat
  reads : List ScoreTarget
  advance : Option (Fin 4 × Int)

/-- The address a form names. -/
def CpuState.address (u : CpuState) : MemForm → Address
  | .reg r => { addr := (u.read r).toNat, len := 1, reads := [.reg r], advance := none }
  | .index n => { addr := u.x[n.val].toNat, len := 1, reads := [], advance := none }
  | .indexInc n => { addr := u.x[n.val].toNat, len := 1, reads := [], advance := some (n, 1) }
  | .indexDec n => { addr := u.x[n.val].toNat, len := 1, reads := [], advance := some (n, -1) }
  | .stack o => { addr := ((u.read 15).toNat + o.toNat) % 65536, len := 1, reads := [.reg 15], advance := none }
  | .abs i => { addr := i.toNat, len := 2, reads := [], advance := none }
  | .base r e => { addr := (u.read r + e.signExtend 16).toNat, len := 2, reads := [.reg r], advance := none }
  | .indexStep n r => { addr := u.x[n.val].toNat, len := 2, reads := [.reg r], advance := some (n, (u.read r).toInt) }

/-- The stack form exists for LD and ST only. -/
def isStack : MemForm → Bool | .stack _ => true | _ => false

/-- What makes a load or store ILLEGAL (R144, R155, R347). -/
def memIllegal (p : Cpu) (m : MemSpace) (pair : Bool) (d : RegNo) (f : MemForm) : Bool :=
  (pair && d == 15) || (isStack f && (pair || m != .d)) || (isKeeper p && (m == .v || m == .s))

/-- The index register of a form moves on, twice as far for a pair. -/
def State.advanceBy (p : Cpu) (a : Address) (pair : Bool) (s : State) : State :=
  match a.advance with
  | some (n, k) => s.advance p n (if pair then 2 * k else k)
  | none => s

/-- Registers receive loaded values; the next instruction still sees the old ones (R120). -/
def CpuState.loadRegs (l : List (RegNo × Word)) (u : CpuState) : CpuState :=
  l.foldl (fun (v : CpuState) e => v.write e.1 e.2) { u with loadOld := l.map (fun e => (e.1, u.w[e.1.val])) }

/-- The cycles until every far access that a property names has its response (R139). -/
def CpuState.farWait (u : CpuState) (q : FarOut → Bool) : Nat :=
  (u.far.filter q).foldl (fun m e => max m (e.back - u.now)) 0

/-! ### Bit operands (R136) -/

/-- The D word of a bit and its place in it. -/
def bitWord (b : BitVec 14) : Nat := b.toNat / 16
def bitPlace (b : BitVec 14) : Nat := b.toNat % 16

/-- A bit form is valid in YZ mode only, and never on a Keeper (R136, R347). -/
def State.bitIllegal (s : State) (p : Cpu) : Bool := isKeeper p || !(s.cpu p).yz

end Sys2Proof.Machine
end

