-- ==== Sys2Proof/Machine/Alu.lean ====
section
/-! DEFINITION. Arithmetic, logic and shifts (R145, R150 to R152). -/

namespace Sys2Proof.Machine

/-- An operation that writes a register and the flags. -/
def aluOp (len : Nat) (reads : List ScoreTarget) (d : RegNo) (r : Result) (p : Cpu) : Op :=
  { Op.nop with
    len := len, cycles := len, reads := .status :: reads, writes := [.reg d, .status]
    effect := fun s => (s.modCpu p (fun u => (u.write d r.value).withFlags r.flags), true) }

/-- An operation that writes the flags only. -/
def flagOp (len : Nat) (reads : List ScoreTarget) (r : Result) (p : Cpu) : Op :=
  { Op.nop with
    len := len, cycles := len, reads := .status :: reads, writes := [.status]
    effect := fun s => (s.modCpu p (·.withFlags r.flags), true) }

/-- A two-operand form that writes wd. -/
def State.binary (p : Cpu) (d : RegNo) (src : Src) (f : Flags → Word → Word → Result) (s : State) : Outcome :=
  let u := s.cpu p
  s.instr p (aluOp (srcLen src) (.reg d :: srcReads src) d (f u.flags (u.read d) (u.src src)) p)

/-- A two-operand form that writes only the flags. -/
def State.compare (p : Cpu) (d : RegNo) (src : Src) (f : Flags → Word → Word → Result) (s : State) : Outcome :=
  let u := s.cpu p
  s.instr p (flagOp (srcLen src) (.reg d :: srcReads src) (f u.flags (u.read d) (u.src src)) p)

/-- A one-operand form from ws to wd. -/
def State.unary (p : Cpu) (d r : RegNo) (f : Flags → Word → Result) (s : State) : Outcome :=
  let u := s.cpu p
  s.instr p (aluOp 1 [.reg r] d (f u.flags (u.read r)) p)

/-- An 8-bit signed immediate. -/
def imm8 (k : Byte) : Word := k.signExtend 16

/-- MOV (R150, R151). -/
def execMov (p : Cpu) (d : RegNo) (src : Src) (s : State) : Outcome :=
  let u := s.cpu p
  s.instr p (aluOp (srcLen src) (srcReads src) d (moveFlags u.flags (u.src src)) p)

/-- ADD. -/
def execAdd (p : Cpu) (d : RegNo) (src : Src) (s : State) : Outcome := s.binary p d src (fun _ a b => addFlags a b false)

/-- ADC. -/
def execAdc (p : Cpu) (d : RegNo) (src : Src) (s : State) : Outcome := s.binary p d src (fun f a b => addFlags a b f.c)

/-- SUB. -/
def execSub (p : Cpu) (d : RegNo) (src : Src) (s : State) : Outcome := s.binary p d src (fun _ a b => subFlags a b false)

/-- SBC. -/
def execSbc (p : Cpu) (d : RegNo) (src : Src) (s : State) : Outcome := s.binary p d src (fun f a b => subFlags a b (!f.c))

/-- CMP. -/
def execCmp (p : Cpu) (d : RegNo) (src : Src) (s : State) : Outcome := s.compare p d src (fun _ a b => subFlags a b false)

/-- AND. -/
def execAnd (p : Cpu) (d : RegNo) (src : Src) (s : State) : Outcome := s.binary p d src (fun f a b => logicFlags f (a &&& b))

/-- OR. -/
def execOr (p : Cpu) (d : RegNo) (src : Src) (s : State) : Outcome := s.binary p d src (fun f a b => logicFlags f (a ||| b))

/-- XOR. -/
def execXor (p : Cpu) (d : RegNo) (src : Src) (s : State) : Outcome := s.binary p d src (fun f a b => logicFlags f (a ^^^ b))

/-- TST. -/
def execTst (p : Cpu) (d : RegNo) (src : Src) (s : State) : Outcome := s.compare p d src (fun f a b => logicFlags f (a &&& b))

/-- NEG. -/
def execNeg (p : Cpu) (d r : RegNo) (s : State) : Outcome := s.unary p d r (fun _ a => subFlags 0 a false)

/-- NOT. -/
def execNot (p : Cpu) (d r : RegNo) (s : State) : Outcome := s.unary p d r (fun f a => logicFlags f (~~~a))

/-- SWPB. -/
def execSwpb (p : Cpu) (d r : RegNo) (s : State) : Outcome :=
  s.unary p d r (fun f a => moveFlags f ((a <<< 8) ||| (a >>> 8)))

/-- SXB. -/
def execSxb (p : Cpu) (d r : RegNo) (s : State) : Outcome :=
  s.unary p d r (fun f a => moveFlags f ((a.setWidth 8).signExtend 16))

/-- ZXB. -/
def execZxb (p : Cpu) (d r : RegNo) (s : State) : Outcome := s.unary p d r (fun f a => moveFlags f (a &&& 0x00FF#16))

/-- ADDI (R151). -/
def execAddi (p : Cpu) (d : RegNo) (k : Byte) (s : State) : Outcome :=
  s.instr p (aluOp 1 [.reg d] d (addFlags ((s.cpu p).read d) (imm8 k) false) p)

/-- MOVI (R151). -/
def execMovi (p : Cpu) (d : RegNo) (k : Byte) (s : State) : Outcome :=
  s.instr p (aluOp 1 [] d (moveFlags (s.cpu p).flags (imm8 k)) p)

/-- CMPI (R151). -/
def execCmpi (p : Cpu) (d : RegNo) (k : Byte) (s : State) : Outcome :=
  s.instr p (flagOp 1 [.reg d] (subFlags ((s.cpu p).read d) (imm8 k) false) p)

/-- A shift of a kind (R152). -/
def State.shift (p : Cpu) (kind : Nat) (d : RegNo) (a : Amount) (s : State) : Outcome :=
  let u := s.cpu p
  s.instr p (aluOp 1 (.reg d :: amountReads a) d (shiftFlags kind (u.amount a) u.flags (u.read d)) p)

/-- SHL. -/
def execShl (p : Cpu) (d : RegNo) (a : Amount) (s : State) : Outcome := s.shift p 0 d a
/-- SHR. -/
def execShr (p : Cpu) (d : RegNo) (a : Amount) (s : State) : Outcome := s.shift p 1 d a
/-- SAR. -/
def execSar (p : Cpu) (d : RegNo) (a : Amount) (s : State) : Outcome := s.shift p 2 d a
/-- ROL. -/
def execRol (p : Cpu) (d : RegNo) (a : Amount) (s : State) : Outcome := s.shift p 3 d a
/-- ROR. -/
def execRor (p : Cpu) (d : RegNo) (a : Amount) (s : State) : Outcome := s.shift p 4 d a
/-- RLC. -/
def execRlc (p : Cpu) (d : RegNo) (a : Amount) (s : State) : Outcome := s.shift p 5 d a
/-- RRC. -/
def execRrc (p : Cpu) (d : RegNo) (a : Amount) (s : State) : Outcome := s.shift p 6 d a

end Sys2Proof.Machine
end

