-- ==== Sys2Proof/Machine/Bits.lean ====
section
/-! DEFINITION. Bit operands in YZ mode (R136, R161). -/

namespace Sys2Proof.Machine

/-- The operation of a form that reads a bit: what it does with the bit's value. -/
def State.bitReadOp (p : Cpu) (b : BitVec 14) (o : Op) (f : Bool → CpuState → CpuState) (s : State) : Op :=
  { o with
    len := 2, cycles := 2, sees := true, acc := [.ram], fault := if s.bitIllegal p then some faultIllegal else none
    effect := fun t =>
      match t.dLoad p (bitWord b) with
      | (t1, some v) => (t1.modCpu p (f (wbit v (bitPlace b))), true)
      | (t1, none) => (t1, false) }

/-- A form that reads a bit. -/
def State.bitRead (p : Cpu) (b : BitVec 14) (o : Op) (f : Bool → CpuState → CpuState) (s : State) : Outcome :=
  s.instr p (s.bitReadOp p b o f)

/-- The operation of a form that writes a bit: one read-modify-write of its word. -/
def State.bitWriteOp (p : Cpu) (b : BitVec 14) (reads : List ScoreTarget) (f : Bool → Bool) (s : State) : Op :=
  { Op.nop with
    len := 2, cycles := 3, reads := reads, acc := [.ram], fault := if s.bitIllegal p then some faultIllegal else none
    effect := fun t =>
      match t.dLoad p (bitWord b) with
      | (t1, some v) =>
        let bit := f (wbit v (bitPlace b))
        let m := 1#16 <<< bitPlace b
        t1.dStore p (bitWord b) (if bit then v ||| m else v &&& ~~~m)
      | (t1, none) => (t1, false) }

/-- A form that writes a bit. -/
def State.bitWrite (p : Cpu) (b : BitVec 14) (reads : List ScoreTarget) (f : Bool → Bool) (s : State) : Outcome :=
  s.instr p (s.bitWriteOp p b reads f)

/-- A form that only changes C by the bit's value. -/
def State.bitCarry (p : Cpu) (b : BitVec 14) (f : Bool → Bool → Bool) (s : State) : Outcome :=
  s.bitRead p b { Op.nop with reads := [.status], writes := [.status] } (fun v u =>
    u.withFlags { u.flags with c := f u.flags.c v })

/-- BLD: a load under R120. -/
def execBld (p : Cpu) (d : RegNo) (b : BitVec 14) (s : State) : Outcome :=
  s.bitRead p b { Op.nop with reads := [.status], writes := [.reg d, .status], isLoad := true } (fun v u =>
    (u.loadRegs [(d, BitVec.ofNat 16 (b2n v))]).withFlags { u.flags with z := !v, n := false })

/-- BST. -/
def execBst (p : Cpu) (d : RegNo) (b : BitVec 14) (s : State) : Outcome :=
  let v := wbit ((s.cpu p).read d) 0
  s.bitWrite p b [.reg d] (fun _ => v)

/-- BSET. -/
def execBset (p : Cpu) (b : BitVec 14) (s : State) : Outcome := s.bitWrite p b [] (fun _ => true)

/-- BCLR. -/
def execBclr (p : Cpu) (b : BitVec 14) (s : State) : Outcome := s.bitWrite p b [] (fun _ => false)

/-- BNOT. -/
def execBnot (p : Cpu) (b : BitVec 14) (s : State) : Outcome := s.bitWrite p b [] (fun v => !v)

/-- BTST. -/
def execBtst (p : Cpu) (b : BitVec 14) (s : State) : Outcome :=
  s.bitRead p b { Op.nop with reads := [.status], writes := [.status] } (fun v u =>
    u.withFlags { u.flags with z := !v })

/-- BLDC. -/
def execBldc (p : Cpu) (b : BitVec 14) (s : State) : Outcome := s.bitCarry p b (fun _ v => v)

/-- BSTC. -/
def execBstc (p : Cpu) (b : BitVec 14) (s : State) : Outcome :=
  let c := (s.cpu p).flags.c
  s.bitWrite p b [.status] (fun _ => c)

/-- BANDC. -/
def execBandc (p : Cpu) (b : BitVec 14) (s : State) : Outcome := s.bitCarry p b (fun c v => c && v)

/-- BORC. -/
def execBorc (p : Cpu) (b : BitVec 14) (s : State) : Outcome := s.bitCarry p b (fun c v => c || v)

/-- BXORC. -/
def execBxorc (p : Cpu) (b : BitVec 14) (s : State) : Outcome := s.bitCarry p b (fun c v => c != v)

end Sys2Proof.Machine
end

