-- ==== Sys2Proof/Machine/Coder.lean ====
section
/-! DEFINITION. Scaling, stream colour and the two stream formats (R225 to R230, R293, R294, R296 to R299, R303), and
BAND_CODE. -/

namespace Sys2Proof.Machine

/-! ### The picture and its scaling (R226) -/

/-- A frame's composed picture and its output size. -/
structure Picture where
  lines : List LineBuf
  frame : Nat
  ws : Nat
  hs : Nat
  wo : Nat
  ho : Nat

/-- A composed pixel; 0 where no line stands. -/
def Picture.px (p : Picture) (x y : Nat) : Nat :=
  match p.lines.find? (fun e => e.frame == p.frame && e.line == y) with
  | some e => (e.pixels.getD x 0).toNat
  | none => 0

/-- Overlap of source cell `x` with output cell `o`, times the output size. -/
def overlap (s o x w : Nat) : Nat := min ((x + 1) * o) ((w + 1) * s) - max (x * o) (w * s)

/-- One component of a scaled pixel. -/
def Picture.part (p : Picture) (ox oy comp : Nat) : Nat :=
  if p.ws = p.wo ∧ p.hs = p.ho then field (p.px ox oy) (16 - 8 * comp) 8
  else
    let xs := (List.range ((p.ws + p.wo - 1) / p.wo + 1)).map (ox * p.ws / p.wo + ·)
    let ys := (List.range ((p.hs + p.ho - 1) / p.ho + 1)).map (oy * p.hs / p.ho + ·)
    let sum := (ys.map (fun y => overlap p.hs p.ho y oy *
      (xs.map (fun x => overlap p.ws p.wo x ox * field (p.px x y) (16 - 8 * comp) 8)).sum)).sum
    (sum + p.ws * p.hs / 2) / (p.ws * p.hs)

/-- The dither matrix (R230). -/
def ditherB (x y : Nat) : Nat :=
  (([[0, 8, 2, 10], [12, 4, 14, 6], [3, 11, 1, 9], [15, 7, 13, 5]] : List (List Nat)).getD (y % 4) []).getD (x % 4) 0

/-! ### The tile stream -/

/-- A component at DEPTH bits (R228): depth 0 6 bits, 1 8 bits, 2 10 bits. -/
def depthPart (depth : Nat) (dither : Bool) (x y c : Nat) : Nat :=
  if depth = 0 then min 63 ((c + (if dither then ditherB x y / 4 else 2)) / 4)
  else if depth = 2 then c * 4 + c / 64
  else c

/-- A pixel's stream colour, its components in ten bits each. -/
def Picture.colour (p : Picture) (depth : Nat) (dither : Bool) (x y : Nat) : BitVec 30 :=
  let q := fun comp => depthPart depth dither x y (p.part x y comp)
  BitVec.ofNat 30 (q 0 * 2 ^ 20 + q 1 * 2 ^ 10 + q 2)

/-- The bytes of a colour field (R297). -/
def colourBytes (depth : Nat) (c : BitVec 30) : List Byte :=
  if depth = 2 then bytesBE 4 c.toNat
  else bytesBE 1 (field c.toNat 20 10) ++ bytesBE 1 (field c.toNat 10 10) ++ bytesBE 1 (field c.toNat 0 10)

/-- Indices of `b` bits packed into bytes, the first in the most significant place. -/
def packIndices (b : Nat) : List Nat → Nat → List Byte
  | _, 0 => []
  | l, n + 1 =>
    BitVec.ofNat 8 ((l.take (8 / b)).foldl (fun a i => a * 2 ^ b + i) 0) :: packIndices b (l.drop (8 / b)) n

/-- SOLID, PAL or RAW (R296 step 3, R297). -/
def fillCode (depth : Nat) (cs : List (BitVec 30)) : List Byte :=
  let d := cs.foldl (fun (l : List (BitVec 30)) c => if l.contains c then l else l ++ [c]) []
  let n := d.length
  if n = 1 then 0x40 :: colourBytes depth (cs.getD 0 0)
  else if n ≤ 16 then
    let b := if n = 2 then 1 else if n ≤ 4 then 2 else 4
    bytesBE 1 (0x80 + (n - 1)) ++ d.flatMap (colourBytes depth)
      ++ packIndices b (cs.map (fun c => d.findIdx (· == c))) (8 * b)
  else 0xC0 :: cs.flatMap (colourBytes depth)

/-- The mirror and order while a band is coded: entries given a hash in this band, and the entries used since the order
was reset, the least recent first. -/
structure CoderSt where
  set : List (Nat × BitVec 64)
  recent : List Nat
  deriving DecidableEq, Repr

/-- The hash of a mirror entry as it stands. -/
def CoderSt.hash (base : Nat → BitVec 64) (m : CoderSt) (e : Nat) : BitVec 64 :=
  match m.set.find? (fun q => q.1 == e) with | some q => q.2 | none => base e

/-- The least recent entry of an order. -/
def leastRecent (recent : List Nat) : Nat :=
  ((List.range 4096).find? (fun e => !recent.contains e)).getD (recent.headD 0)

/-- An entry becomes the most recent. -/
def useEntry (e : Nat) (recent : List Nat) : List Nat := recent.filter (· != e) ++ [e]

/-- One block coded (R296). -/
def CoderSt.code (base : Nat → BitVec 64) (depth : Nat) (cs : List (BitVec 30)) (m : CoderSt) : List Byte × CoderSt :=
  let h0 := Config.blockHash depth cs
  let h := if h0 = 0 then 1 else h0
  match (List.range 4096).find? (fun e => m.hash base e == h) with
  | some e => (bytesBE 1 (e / 256) ++ bytesBE 1 e, { m with recent := useEntry e m.recent })
  | none =>
    let e := leastRecent m.recent
    (fillCode depth cs, { set := (e, h) :: m.set.filter (fun q => q.1 != e), recent := useEntry e m.recent })

/-- The colours of band block `i` from its band's first line (R296). -/
def Picture.block (p : Picture) (depth : Nat) (dither : Bool) (line0 i : Nat) : List (BitVec 30) :=
  let cols := max 1 (p.wo / 8)
  (List.range 64).map (fun j =>
    p.colour depth dither (i % cols * 8 + j % 8) (line0 + i / cols * 8 + j / 8))

/-- A fragment: its payload, CHK and POS. -/
structure Frag where
  bytes : List Byte
  chk : Nat
  pos : Nat
  deriving DecidableEq, Repr

/-- A band's blocks coded into fragments of whole codes (R293, R296): the fragments, the last first, and the coder. -/
def tileFrags (base : Nat → BitVec 64) (depth maxb : Nat) : List (Nat × List (BitVec 30)) → CoderSt → List Frag →
    List Frag × CoderSt
  | [], m, acc => (acc, m)
  | (i, cs) :: l, m, acc =>
    let r := m.code base depth cs
    let fresh : Frag := { bytes := r.1, chk := leastRecent m.recent, pos := i }
    match acc with
    | f :: rest =>
      if f.bytes.length + r.1.length ≤ maxb then
        tileFrags base depth maxb l r.2 ({ f with bytes := f.bytes ++ r.1 } :: rest)
      else tileFrags base depth maxb l r.2 (fresh :: f :: rest)
    | [] => tileFrags base depth maxb l r.2 [fresh]

/-- A tile band (R293, R296): its fragments and the coder after it. -/
def Picture.tileBand (p : Picture) (base : Nat → BitVec 64) (depth : Nat) (dither : Bool) (line0 nlines maxb : Nat)
    (m : CoderSt) : List Frag × CoderSt :=
  if nlines = 0 then ([{ bytes := [], chk := leastRecent m.recent, pos := 0 }], m)
  else
    let blocks := (List.range (p.wo / 8 * (nlines / 8))).map (fun i => (i, p.block depth dither line0 i))
    let r := tileFrags base depth maxb blocks m []
    (r.1.reverse, r.2)

/-! ### The plane stream (R229, R303) -/

/-- v16 of Y (0), Cb (1) or Cr (2) of a pixel (R229). -/
def planeV16 (n : Nat) (bt709 full : Bool) (comp r g b : Nat) : Int :=
  let k := matrixK bt709
  let num : Int := k.1 * r + (10000 - k.1 - k.2) * g + k.2 * b
  let den : Int := 2550000
  let s : Int := (2 ^ (n - 8) : Nat)
  let top : Int := (2 ^ n : Nat) - 1
  if comp = 0 then
    if full then roundHalf (16 * top * num) den else roundHalf (16 * s * (16 * den + 219 * num)) den
  else
    let q : Int := if comp = 1 then 510 * (10000 - k.2) else 510 * (10000 - k.1)
    let pn : Int := 10000 * (if comp = 1 then (b : Int) else (r : Int)) - num
    if full then roundHalf (16 * ((2 ^ (n - 1) : Nat) * q + top * pn)) q
    else roundHalf (16 * s * (128 * q + 224 * pn)) q

/-- A sample quantised from its v16 (R229). -/
def quantise (n : Nat) (dither : Bool) (x y : Nat) (v : Int) : Nat :=
  (clampInt 0 ((2 ^ n : Nat) - 1) ((v + (if dither then (ditherB x y : Int) else 8)) / 16)).toNat

/-- A row of the plane stream as samples: 0 Y row `y`, 1 Cb and 2 Cr row `y`. -/
def Picture.planeRow (p : Picture) (n : Nat) (bt709 full dither : Bool) (comp y : Nat) : List Nat :=
  let v := fun (x y : Nat) => planeV16 n bt709 full comp (p.part x y 0) (p.part x y 1) (p.part x y 2)
  if comp = 0 then (List.range p.wo).map (fun x => quantise n dither x y (v x y))
  else (List.range (p.wo / 2)).map (fun x =>
    quantise n dither x y ((v (2 * x) (2 * y) + v (2 * x + 1) (2 * y) + v (2 * x) (2 * y + 1)
      + v (2 * x + 1) (2 * y + 1) + 2) / 4))

/-- Samples packed: bytes at 8 bits, groups of 4 in 5 bytes at 10 (R303). -/
def packSamples (n : Nat) : List Nat → List Byte
  | a :: b :: c :: d :: l =>
    (if n = 10 then bytesBE 5 (((a * 1024 + b) * 1024 + c) * 1024 + d)
     else bytesBE 1 a ++ bytesBE 1 b ++ bytesBE 1 c ++ bytesBE 1 d) ++ packSamples n l
  | l => l.map (BitVec.ofNat 8)

/-- A plane band's payload (R303). -/
def Picture.planeBand (p : Picture) (n : Nat) (bt709 full dither : Bool) (line0 nlines : Nat) : List Byte :=
  (List.range (nlines / 2)).flatMap (fun j =>
    let i := line0 / 2 + j
    let row := fun comp y => packSamples n (p.planeRow n bt709 full dither comp y)
    row 0 (2 * i) ++ row 0 (2 * i + 1) ++ row 1 i ++ row 2 i)

/-- A payload cut into fragments (R293). -/
def cutFrags (maxb : Nat) : Nat → Nat → List Byte → List Frag
  | 0, _, _ => []
  | fuel + 1, pos, l =>
    if l.length ≤ maxb then [{ bytes := l, chk := 0, pos := pos }]
    else { bytes := l.take maxb, chk := 0, pos := pos } :: cutFrags maxb fuel (pos + maxb) (l.drop maxb)

/-! ### Coding a band on the machine -/

/-- A mirror entry's hash in the mirror pages. -/
def State.mirrorHash (s : State) (c : CtxNo) (e : Nat) : BitVec 64 :=
  let w := fun i => (s.peek c (219 + e / 512) (e % 512 * 4 + i)).toNat
  BitVec.ofNat 64 (w 0 + 2 ^ 16 * w 1 + 2 ^ 32 * w 2 + 2 ^ 48 * w 3)

/-- Hashes written to the mirror pages. None: a page cannot be had yet. -/
def State.mirrorPut (c : CtxNo) : List (Nat × BitVec 64) → State → Option State
  | [], s => some s
  | (e, h) :: l, s =>
    let r := (List.range 4).foldl (fun (a : State × Bool) i =>
      let w := a.1.pageWrite c (219 + e / 512) (e % 512 * 4 + i) (BitVec.ofNat 16 (h.toNat / 2 ^ (16 * i)))
      (w.1, a.2 && w.2)) (s, true)
    if r.2 then State.mirrorPut c l r.1 else none

/-- Every hash of the mirror becomes 0 (R298). -/
def State.mirrorClear (c : CtxNo) (s : State) : State :=
  mirrorPages.foldl (fun (s : State) i =>
    match s.pageFrame c i with
    | some f => (s.clearFrame f).markDirty c i
    | none => s) s

/-- The last line of a band's active lines has been rendered. -/
def State.bandRendered (s : State) (c : CtxNo) (k f b : Nat) : Bool :=
  let y := s.slot k
  let last := s.sesD c 0 (fun x => min (x.timingOf f 3) ((b + 1) * s.bandH k))
  decide (f < y.renderFrame ∨ f = y.renderFrame ∧ last ≤ y.rendered)

/-- A frame's picture on a slot. -/
def State.picture (s : State) (k f : Nat) (g : BandGeom) : Picture :=
  let c := s.slotCtx k
  { lines := s.sesD c [] (·.lines), frame := f, ws := s.sesD c 0 (fun x => x.timingOf f 1)
    hs := s.sesD c 0 (fun x => x.timingOf f 3), wo := g.width, ho := g.height }

/-- Output colour controls of a frame. -/
def State.outCtrl (s : State) (c : CtxNo) (f : Nat) : Nat := s.sesD c 0 (fun x => x.valueAt .live 0xF630 f 0 0)

/-- The coded pointer moves past a band; the lines of frames before are released with the first band of a frame (R21 gives band
buffers no number: DESIGN CHOICE, log entry 73). -/
def State.codedNext (c : CtxNo) (k f b : Nat) (s : State) : State :=
  let more := s.bandActive c f (b + 1)
  (s.modSlot k (fun y => { y with
    codedF := if more then f else f + 1, codedK := if more then b + 1 else 0 })).modSes c (fun x =>
      { x with lines := x.lines.filter (fun e => decide (f ≤ e.frame)) })

/-- Flags of a band: LATE, NODISP, EMPTY, ORDER, ENDF, DEPTH. -/
def bandFlags (late nodisp empty order endf : Bool) (depth : Nat) : Byte :=
  BitVec.ofNat 8 (b2n late * 128 + b2n nodisp * 64 + b2n empty * 32 + b2n order * 16 + b2n endf * 8 + depth * 2)

/-- A band is in its queue: its render lead is measured, and what AUTO counts of it (R105, R311). -/
def State.measureLead (c : CtxNo) (k f b : Nat) (s : State) : State × Int :=
  let r := s.releaseOf c f b
  let lead : Int := (r.2 : Int) - (s.clock.time : Nat)
  let tight := decide (lead < ((r.1.tbOf c k f + s.guardOf k : Nat) : Int))
  ((r.1.modSlot k (fun y => { y with
    tightFrames := if tight ∧ !y.tightFrames.contains f then y.tightFrames ++ [f] else y.tightFrames })).setReg
      (strAddr k 0x10) (unitsToNs lead), lead)

/-- The band's descriptor reaches the video queue (R293, R324), or the tap in TMODE 3. -/
def State.queueBand (c : CtxNo) (k : Nat) (d : BandDesc) (s : State) : State :=
  let r := s.measureLead c k d.frame d.band
  if (s.slot k).tapMode d.frame = 3 then r.1.tapPackets c k d
  else r.1.modSlot k (fun y => { y with videoQ := y.videoQ ++ [{ d with lead := r.2 }] })

/-- What the slip test decided of a band that is coded only now. -/
def SlotSt.slipOf (y : SlotSt) (f b : Nat) : Option Slip :=
  y.slips.find? (fun e => e.frame == f && e.band == b && e.policy.toNat != 1)

/-- The descriptor of a band without its payload. -/
def State.bandBase (s : State) (c : CtxNo) (k f b : Nat) (g : BandGeom) (kind : Nat) : BandDesc :=
  let y := s.slot k
  let pos := max (b * s.bandH k) (if f = y.firstF then y.firstLine else 0)
  { frame := f, band := b, flags := 0, fragments := [], lead := 0
    tag := s.sesD c 0 (fun x => BitVec.ofNat 16 (x.valueAt .io 0xFD01 f pos 0)), chk := [], pos := [], mgen := 0,
    width := g.width, line0 := g.line0, nlines := g.nlines, kind := BitVec.ofNat 2 kind, flow := y.flowAt f b,
    late := (y.slipOf f b).isSome, sentFragments := 0, returned := none }

/-- The fragments put into a descriptor. -/
def BandDesc.withFrags (d : BandDesc) (l : List Frag) (flags : Byte) (mgen : Word) : BandDesc :=
  { d with fragments := l.map (·.bytes), chk := l.map (fun e => BitVec.ofNat 16 e.chk), pos := l.map (·.pos),
           flags := flags, mgen := mgen }

/-- A tile band coded and queued (R296 to R298). None: a mirror page cannot be had yet. -/
def State.codeTile (c : CtxNo) (k f b : Nat) (g : BandGeom) (s : State) : Option State :=
  let y := s.slot k
  let due := y.emptyAt.filter (fun e => decide (e.1 < f ∨ e.1 = f ∧ e.2 ≤ b))
  let later := y.emptyAt.filter (fun e => !decide (e.1 < f ∨ e.1 = f ∧ e.2 ≤ b))
  let empty := !due.isEmpty
  let order := !empty && y.orderPend
  let s1 := if empty then s.mirrorClear c else s
  let m0 : CoderSt := { set := [], recent := if empty || order then [] else y.recent }
  let ctl := s.outCtrl c f
  let r := (s.picture k f g).tileBand (s1.mirrorHash c) g.depth (ctl.testBit 2) g.line0 g.nlines (y.maxpAt f b - 44) m0
  let mgen : Word := s.sesD c 0 (fun x => x.mgen - BitVec.ofNat 16 later.length)
  let slip := y.slipOf f b
  let nodisp := slip.any (fun e => e.policy == 0)
  let d := (s.bandBase c k f b g 1).withFrags r.1 (bandFlags slip.isSome nodisp empty order g.endf g.depth) mgen
  (s1.mirrorPut c r.2.set).map (fun s2 =>
    ((s2.modSlot k (fun z => { z with emptyAt := later, orderPend := false, recent := r.2.recent })).setReg
      (strAddr k 8) (leastRecent r.2.recent * 2 ^ 16 + mgen.toNat)).queueBand c k d)

/-- A plane band packed (R303): queued, or discarded where it slipped under REPEAT (R102) and counted as released once the bands
before it have left (DESIGN CHOICE, log entry 73). -/
def State.codePlane (c : CtxNo) (k f b : Nat) (g : BandGeom) (s : State) : State :=
  let y := s.slot k
  let ctl := s.outCtrl c f
  let n := if g.depth = 2 then 10 else 8
  let pay := (s.picture k f g).planeBand n (ctl.testBit 3) (ctl.testBit 4) (ctl.testBit 2) g.line0 g.nlines
  let slip := y.slipOf f b
  let d := (s.bandBase c k f b g 2).withFrags (cutFrags (y.maxpAt f b - 44) 256 0 pay)
    (bandFlags slip.isSome false false false g.endf g.depth) 0
  match slip with
  | some e =>
    if e.policy = 0 then
      (s.modSlot k (fun z => { z with
        dropped := z.dropped ++ [(f, b)], slips := z.slips.filter (fun q => !(q.markerSent && decide (q.frame < f)))
        })).passDropped k (y.dropped.length + 1)
    else s.queueBand c k d
  | none => s.queueBand c k d

/-- A live tile (R235). -/
structure Tile where
  num : Nat
  en : Bool
  slot : Nat
  x : Nat
  y : Nat
  ow : Nat
  oh : Nat
  deriving DecidableEq, Repr

/-- A tile from the three words of its entry. -/
def tileOf (t : Nat) (w : Reg32 × Reg32 × Reg32) : Tile :=
  { num := t, en := w.1.getLsbD 31, slot := field w.1.toNat 0 14, x := field w.2.1.toNat 0 12, y := field w.2.1.toNat 16 12
    ow := field w.2.2.toNat 0 12, oh := field w.2.2.toNat 16 12 }

/-- The enabled live tiles, in ascending order. -/
def State.tiles (s : State) : List Tile := (s.monitor.live.map (fun e => tileOf e.1 e.2)).filter (·.en)

/-- A tile takes bands of a picture of an active size (R233). -/
def Tile.fits (t : Tile) (ws hs : Nat) : Bool :=
  decide (0 < t.ow ∧ 0 < t.oh ∧ t.ow ≤ ws ∧ ws ≤ 4 * t.ow ∧ t.oh ≤ hs ∧ hs ≤ 4 * t.oh)

/-- The band copies of a frame from a band on: for each band left, one to every tile that takes them. -/
def State.copiesLeft (s : State) (k f b : Nat) : Nat :=
  let c := s.slotCtx k
  let hs := s.sesD c 0 (fun x => x.timingOf f 3)
  ((hs + s.bandH k - 1) / s.bandH k - b)
    * (s.tiles.filter (fun t => t.slot == k && t.fits (s.sesD c 0 (fun x => x.timingOf f 1)) hs)).length

/-- The copies of bands that the line engine's next frame overwrites are abandoned, each counted (R21, R233; DESIGN CHOICE, log
entry 73). -/
def State.monDrop (k f : Nat) (s : State) : State :=
  let y := s.slot k
  if y.monF < f then
    let n := ((List.range (f - y.monF)).map (fun i => s.copiesLeft k (y.monF + i) (if i = 0 then y.monK else 0))).sum
    (if s.monitor.en then s.countReg (monBase + 0x1C) n else s).modSlot k (fun z => { z with monF := f, monK := 0 })
  else s

/-- A band for the tap of TMODE 1 or 2: the plane-stream payload, whatever the stream kind (R229, R399). -/
def State.tapBand (c : CtxNo) (k f b : Nat) (s : State) : State :=
  let g := s.bandGeomOf 2 k f b
  let ctl := s.outCtrl c f
  let n := if g.depth = 2 then 10 else 8
  let late := ((s.slot k).slipOf f b).isSome
  let item : TapItem :=
    { kind := 1, frame := f, band := b, depth := n, width := g.width, line0 := g.line0, nlines := g.nlines,
      rel := s.releaseAt k f b, late := late, seq := 0
      flags := bandFlags late false false false g.endf g.depth, final := true
      data := (s.picture k f g).planeBand n (ctl.testBit 3) (ctl.testBit 4) (ctl.testBit 2) g.line0 g.nlines }
  s.modSlot k (fun y => { y with tapQ := y.tapQ ++ [item] })

/-- A band coded as its stream carries it (R296, R303). None: a mirror page cannot be had yet. -/
def State.codeKind (c : CtxNo) (k f b : Nat) (s : State) : Option State :=
  let g := s.bandGeom k f b
  if (s.slot k).kindAt f = 2 then some (s.codePlane c k f b g) else s.codeTile c k f b g

/-- BAND_CODE: the next band of a session, once its lines are rendered. In TMODE 2 it goes to the tap alone. -/
def State.codeBand (c : CtxNo) (k : Nat) (s : State) : State :=
  let n := s.nextActive c (s.slot k).codedF (s.slot k).codedK
  let m := (s.slot k).tapMode n.1
  if !s.bandRendered c k n.1 n.2 ∨ (16 ≤ (s.slot k).videoBands.length ∧ m < 2) then s
  else
    let done := fun (z : State) => (z.codedNext c k n.1 n.2).monDrop k n.1
    if (s.slot k).kindAt n.1 = 0 then done s
    else if m = 2 then done (s.tapBand c k n.1 n.2)
    else match (if m = 1 then s.tapBand c k n.1 n.2 else s).codeKind c k n.1 n.2 with
      | some s1 => done s1
      | none => s

def execBandCode (c : CtxNo) (s : State) : Outcome :=
  .next (match s.heldSlot c with
    | some k => if (s.ctx c).state = .admitting then s else s.codeBand c k
    | none => s)

end Sys2Proof.Machine
end

