-- ==== Sys2Proof/Machine/Client.lean ====
section
/-! DEFINITION. The far end of a stream: the tile-stream client's decoder and what a client does with markers, late bands
and audio packets (R300, R301, R305). -/

namespace Sys2Proof.Machine

/-! ### Block codes (R297) -/

/-- The bytes of a colour field at a depth. -/
def colourLen (depth : Nat) : Nat := if depth = 2 then 4 else 3

/-- A colour field read back. -/
def colourOf (depth : Nat) (l : List Byte) : BitVec 30 :=
  if depth = 2 then BitVec.ofNat 30 (ofBytesBE (l.take 4))
  else BitVec.ofNat 30 ((byteAt l 0).toNat * 2 ^ 20 + (byteAt l 1).toNat * 2 ^ 10 + (byteAt l 2).toNat)

def coloursOf (depth n : Nat) (l : List Byte) : List (BitVec 30) :=
  (List.range n).map (fun i => colourOf depth (l.drop (i * colourLen depth)))

/-- The 64 colours of a PAL code from its palette and its indices. -/
def palBlock (pal : List (BitVec 30)) (b : Nat) (l : List Byte) : List (BitVec 30) :=
  (List.range 64).map (fun i =>
    let per := 8 / b
    pal.getD (field (byteAt l (i / per)).toNat (8 - b - b * (i % per)) b) 0)

/-- What a code says: an entry of the cache, or a block of its own. -/
inductive BlockCode where
  | ref (e : Nat)
  | fill (cs : List (BitVec 30))
  deriving DecidableEq, Repr

/-- The first code of a run of bytes and its length. None: not a code, or cut short. -/
def readCode (depth : Nat) (l : List Byte) : Option (BlockCode × Nat) :=
  match l with
  | [] => none
  | b0 :: rest =>
    let v := b0.toNat
    let c := colourLen depth
    let take := fun (n : Nat) (x : BlockCode) => if n ≤ l.length then some (x, n) else none
    if v < 16 then take 2 (.ref (v * 256 + (byteAt rest 0).toNat))
    else if v = 0x40 then take (1 + c) (.fill (List.replicate 64 (colourOf depth rest)))
    else if 0x80 ≤ v ∧ v < 0x90 then
      let k := v - 0x80
      let b := if k = 1 then 1 else if k < 4 then 2 else 4
      take (1 + (k + 1) * c + 8 * b) (.fill (palBlock (coloursOf depth (k + 1) rest) b (rest.drop ((k + 1) * c))))
    else if v = 0xC0 then take (1 + 64 * c) (.fill (coloursOf depth 64 rest))
    else none

/-! ### The decoder (R300) -/

/-- The screen place of a band block: column and block row. -/
def screenKey (pk : VideoPkt) (k : Nat) : Nat :=
  let cols := max 1 (pk.w.toNat / 8)
  (pk.line0.toNat / 8 + k / cols) * 65536 + k % cols

/-- A cache entry's block is placed at band block `k`, and the entry becomes the most recent. -/
def Client.place (pk : VideoPkt) (k e : Nat) (x : Client) : Client :=
  { x with
    recent := useEntry e x.recent
    screen := if pk.flags.getLsbD 6 then x.screen
      else Sparse.insert x.screen (screenKey pk k) (Sparse.get [] x.cache e) }

/-- The codes of a fragment, one after the other. -/
def Client.decode (pk : VideoPkt) (depth : Nat) : Nat → Nat → List Byte → Client → Client
  | 0, _, _, x => x
  | fuel + 1, k, l, x =>
    match readCode depth l with
    | none => x
    | some (.ref e, n) => Client.decode pk depth fuel (k + 1) (l.drop n) (x.place pk k e)
    | some (.fill cs, n) =>
      let e := leastRecent x.recent
      Client.decode pk depth fuel (k + 1) (l.drop n) ({ x with cache := Sparse.insert x.cache e cs }.place pk k e)

/-- What stands at the keys from `lo` up to `hi` gives way to what stood there before. -/
def restore {α : Type} (lo hi : Nat) (was now : Sparse α) : Sparse α :=
  now.filter (fun e => decide (e.1 < lo)) ++ was.filter (fun e => decide (lo ≤ e.1 ∧ e.1 < hi))
    ++ now.filter (fun e => decide (hi ≤ e.1))

/-- The key of a byte of a plane stream's picture: its line pair, and its place among the pair's bytes. -/
def planeKey (pair off : Nat) : Nat := pair * 65536 + off

/-- A marked position (R301): the client presents there what it presented in the previous frame, whichever its stream kind. -/
def Client.repeatBand (pk : VideoPkt) (x : Client) : Client :=
  let l := pk.line0.toNat
  let h := l + pk.nlines.toNat
  { x with screen := restore (l / 8 * 65536) (h / 8 * 65536) x.previous x.screen
           planes := restore (planeKey (l / 2) 0) (planeKey (h / 2) 0) x.previousPlanes x.planes }

/-- The first packet of a later frame: what is presented now is what that frame's repeat markers show. A packet of an earlier frame, a
late band, changes nothing here. -/
def Client.turnFrame (pk : VideoPkt) (x : Client) : Client :=
  if x.started && (pk.frame == x.frame || (pk.frame - x.frame).getLsbD 31) then x
  else { x with frame := pk.frame, previous := x.screen, previousPlanes := x.planes }

/-- The bytes of a line pair at a depth (R303). -/
def pairBytes (pk : VideoPkt) : Nat :=
  if field pk.flags.toNat 1 2 = 2 then pk.w.toNat * 15 / 4 else pk.w.toNat * 3

/-- A PLANE packet (R301, R303): its bytes are presented at their place in the band. -/
def Client.plane (pk : VideoPkt) (x : Client) : Client :=
  let n := max 1 (pairBytes pk)
  { x with planes := pk.payload.zipIdx.foldl (fun m e =>
      let o := pk.pos.toNat + e.2
      Sparse.insert m (planeKey (pk.line0.toNat / 2 + o / n) (o % n)) e.1) x.planes }

/-- A marker (R301): a repeat marker shows the previous frame's content; a late marker keeps what stands. -/
def Client.marker (pk : VideoPkt) (x : Client) : Client := if pk.flags.getLsbD 0 then x else x.repeatBand pk

/-- A TILE packet (R300). -/
def Client.tile (pk : VideoPkt) (x : Client) : Client :=
  let empty := pk.flags.getLsbD 5 && pk.fidx == 0
  let x1 := if empty then { x with recent := [], mgen := pk.mgen, insync := true }
    else if pk.mgen ≠ x.mgen then { x with insync := false } else x
  let x2 := if pk.flags.getLsbD 4 && pk.fidx == 0 && x1.insync then { x1 with recent := [] } else x1
  let x3 := if x2.insync && leastRecent x2.recent != pk.chk.toNat then { x2 with insync := false } else x2
  if x3.insync then
    { x3.decode pk (field pk.flags.toNat 1 2) pk.payload.length pk.pos.toNat pk.payload with refreshWanted := false }
  else { x3 with refreshWanted := true }

/-- TYPE of a video packet (R290). -/
def typeTile : BitVec 4 := 1
def typePlane : BitVec 4 := 2
def typeMarker : BitVec 4 := 3

/-- A video packet taken in SEQ order (R300): a gap puts the client out of step. -/
def Client.video (pk : VideoPkt) (x : Client) : Client :=
  let x1 := { x.turnFrame pk with
    insync := x.insync && x.started && pk.seq == x.expect, expect := pk.seq + 1, started := true }
  if pk.kind = typeMarker then x1.marker pk
  else if pk.kind = typeTile then x1.tile pk
  else if pk.kind = typePlane then x1.plane pk
  else x1

/-- VIDEO_PACKET_RECEIVE. -/
def execVideoPacketReceive (pk : VideoPkt) (s : State) : Outcome := .next { s with client := s.client.video pk }

/-! ### Audio (R305) -/

def typeAudio : BitVec 4 := 4
def typeSilence : BitVec 4 := 5

/-- A packet is played over the interval it carries; a SILENCE packet is 48 frames of 0. -/
def Client.play (pk : AudioPkt) (x : Client) : Client :=
  { x with played := (if pk.kind = typeSilence then { pk with samples := List.replicate 192 0 } else pk) :: x.played }

/-- A packet's interval has passed: REL_S values are compared modulo 2^32 (R345). -/
def intervalPassed (pk : AudioPkt) (c : Clock) : Bool :=
  let d := BitVec.ofNat 32 c.secs - pk.nextS
  if d = 0 then decide (pk.nextNs.toNat ≤ c.nanos) else !d.getLsbD 31

/-- AUDIO_PACKET_PLAY: a late packet whose interval has passed is discarded or not, as the client chooses. -/
def execAudioPacketPlay (pk : AudioPkt) (s : State) : Outcome :=
  .next (if pk.kind = typeAudio ∨ pk.kind = typeSilence then
    (if pk.flags.getLsbD 7 && intervalPassed pk s.clock then
      (if Config.freeBool s.fresh then s.spend else { s.spend with client := s.client.play pk })
    else { s with client := s.client.play pk })
  else s)

end Sys2Proof.Machine
end

