-- ==== Sys2Proof/Machine/Clocks.lean ====
section
/-! DEFINITION. The root clock, the timebase and the clock servo (R333 to R346). Trims and frequencies are in units of
2^-8 ppb, phase errors in units of 2^-16 ns. -/

namespace Sys2Proof.Machine

/-- The hub always-on domain has power (R405). -/
def State.aon (s : State) : Bool := s.power.mode != .off

/-- The limit of the trim: 200 ppm. -/
def trimLimit : Int := 51200000

/-- The servo takes its phase terms from PHERR (R341): the time without a write of it is counted (R344). -/
def Clock.phased (c : Clock) : Bool := c.src == 1 || c.src == 2

/-- CLK_CTRL.SRC. -/
def State.srcField (s : State) : BitVec 2 := BitVec.ofNat 2 (s.regN (clkBase + 4))

/-- CLK_TRIM_MAN, CLK_GAIN. -/
def State.trimMan (s : State) : Int := sext 28 (s.regN (clkBase + 0xC))
def State.gainP (s : State) : Int := ((field (s.regN (clkBase + 8)) 16 16 : Nat) : Int)
def State.gainI (s : State) : Int := ((field (s.regN (clkBase + 8)) 0 8 : Nat) : Int)

/-- The trim that the terms in force give (R341, R342). -/
def Clock.trimOf (man : Int) (c : Clock) : Int :=
  clampInt (-trimLimit) trimLimit
    (if c.src = 0 then man else if c.src = 1 then c.prop + c.integ else if c.src = 2 then c.freq + c.prop + c.integ
     else c.freq)

/-- The clock-status source (R344). -/
def State.clkStatus (s : State) : State := s.raiseP 17

/-- The trim is computed anew; a change of TRIMLIM raises the clock-status source. -/
def State.retrim (s : State) : State :=
  let t := s.clock.trimOf s.trimMan
  let lim := decide (t = trimLimit ∨ t = -trimLimit)
  let s1 := { s with clock := { s.clock with trim := t, trimLim := lim } }
  if lim = s.clock.trimLim then s1 else s1.clkStatus

/-- ROOT_LOCK (R333). -/
def State.lockRoot (s : State) : State :=
  if s.aon && !s.clock.rootLock then { s with clock := { s.clock with rootLock := true } }.clkStatus else s

def execRootLock (s : State) : Outcome := .next s.lockRoot

/-- ROOT_LOCK_LOSS (R344). -/
def State.loseRoot (s : State) : State :=
  if s.clock.rootLock then { s with clock := { s.clock with rootLock := false } }.clkStatus else s

def execRootLockLoss (s : State) : Outcome := .next s.loseRoot

/-- The range of the timebase: 2^48 seconds (R334). -/
def timeRange : Nat := 2 ^ 48 * unitsPerSec

/-- PTP_ADJ's nanoseconds are a number of nanoseconds (R337). -/
def State.adjOk (s : State) : Bool := decide (s.regN (clkBase + 0x58) < 1000000000)

/-- The PTP_ADJ operand. -/
def State.adjOperand (s : State) : Nat :=
  (s.regN (clkBase + 0x50) + 2 ^ 32 * s.regN (clkBase + 0x54)) * unitsPerSec + s.regN (clkBase + 0x58) * 65536
    + s.regN (clkBase + 0x5C)

/-- An operation of PTP_ADJ_OP (R337). -/
def State.adjust (f : Nat → Nat → Nat) (s : State) : State :=
  if !s.aon then s
  else if s.adjOk then { s with clock := { s.clock with time := f s.clock.time s.adjOperand } }
  else { s with clock := { s.clock with adjBad := true } }

/-- SET (R337). -/
def execPtpSet (s : State) : Outcome := .next (s.adjust (fun _ v => v))

/-- STEP (R337). -/
def stepTime (neg : Bool) (t v : Nat) : Nat := (if neg then t + (timeRange - v) else t + v) % timeRange

def execPtpStep (neg : Bool) (s : State) : Outcome := .next (s.adjust (stepTime neg))

/-- PHERR_WRITE (R342, R344): SRC takes effect, a PTP holdover ends; with PTP phase terms in use P and I are updated. -/
def State.pherr (e : Int) (s : State) : State :=
  let src := s.srcField
  let used := decide (src = 1 ∨ src = 2)
  let c := { s.clock with src := src, phAge := 0, holdPtp := false }
  let c1 : Clock := if used then
      { c with prop := (e * s.gainP).fdiv 65536
               integ := clampInt (-trimLimit) trimLimit (c.integ + (e * s.gainI).fdiv 16777216) }
    else c
  let s1 := { s with clock := c1 }
  (if s.clock.holdPtp then s1.clkStatus else s1).retrim

def execPherrWrite (e : Reg32) (s : State) : Outcome := .next (if s.aon then s.pherr e.toInt else s)

/-- INTEGRATOR_WRITE (R346). -/
def State.writeInteg (v : Int) (s : State) : State := { s with clock := { s.clock with integ := v } }.retrim

def execIntegratorWrite (v : BitVec 28) (s : State) : Outcome := .next (if s.aon then s.writeInteg v.toInt else s)

/-- The mean of the last valid windows; its rounding is free (log entry 1). -/
def State.meanFreq (s : State) : Int :=
  let l := s.clock.windows
  if l.isEmpty then s.clock.freq
  else
    let n : Int := (l.length : Nat)
    l.sum.fdiv n + (if l.sum.fmod n ≠ 0 ∧ Config.freeBool s.fresh then 1 else 0)

/-- The measured sub-port has link (R343): its address among `State.subports`. -/
def State.seLink (s : State) : Bool :=
  let v := s.regN (clkBase + 4)
  (Sparse.get { link := false, align := false, held := [], paused := 0, xoff := false } s.subports
    (4 * field v 4 1 + field v 2 2)).link

/-- SYNCE_WINDOW (R343, R344): a measurement window ends with offset `f`. -/
def State.synce (f : Int) (s : State) : State :=
  let src := s.srcField
  let c := { s.clock with src := src, phAge := if s.clock.phased then s.clock.phAge else 0 }
  if src = 2 ∨ src = 3 then
    (if s.seLink ∧ -trimLimit ≤ f ∧ f ≤ trimLimit then
      let s1 := { s with clock := { c with freq := f, windows := (f :: c.windows).take 16, holdSynce := false } }
      (if c.holdSynce then s1.clkStatus else s1).retrim
    else
      (if c.holdSynce then { s with clock := c }.retrim
      else { s with clock := { c with freq := s.meanFreq, holdSynce := true } }.spend.clkStatus.retrim))
  else if s.clock.src = 2 ∨ s.clock.src = 3 then { s with clock := c }.retrim
  else s

def execSynceWindow (f : BitVec 28) (s : State) : Outcome := .next (if s.aon then s.synce f.toInt else s)

/-- CLK_CTRL.HOLD_TO in utility ticks: 0 acts as 1. -/
def State.holdTo (s : State) : Nat := 100000 * max 1 (field (s.regN (clkBase + 4)) 8 8)

/-- HOLD_PTP (R344): no PHERR for HOLD_TO; P is 0 and I is held. -/
def State.enterHold (s : State) : State :=
  if s.aon && s.clock.phased && !s.clock.holdPtp && decide (s.holdTo ≤ s.clock.phAge) then
    { s with clock := { s.clock with holdPtp := true, prop := 0 } }.clkStatus.retrim
  else s

def execHoldPtp (s : State) : Outcome := .next s.enterHold

/-- PTP_TIME_READ (R346): PTP_TIME_SL is read and the rest of the value latched. -/
def State.timeRead (s : State) : State × Nat :=
  let c := s.clock
  (((s.setReg (clkBase + 0x44) (c.secs / 2 ^ 32)).setReg (clkBase + 0x48) c.nanos).setReg (clkBase + 0x4C) c.frac,
    c.secs % 2 ^ 32)

def execPtpTimeRead (s : State) : Outcome := .next (if s.aon then let r := s.timeRead; r.1.reply r.2 else s)

/-- CLK_STAT. -/
def Clock.stat (c : Clock) : Nat :=
  b2n c.rootLock + 4 * b2n c.holdPtp + 8 * b2n c.holdSynce + 16 * b2n c.trimLim + 32 * b2n c.adjBad

/-- A 28-bit signed value as a register shows it. -/
def show28 (v : Int) : Nat := (v % (2 ^ 28 : Nat)).toNat

end Sys2Proof.Machine
end

