-- ==== Sys2Proof/Machine/LoadStore.lean ====
section
/-! DEFINITION. Loads and stores (R115 to R121, R148, R154 to R156). -/

namespace Sys2Proof.Machine

/-- The fault of a load or store: an undefined form, or the access. -/
def State.memFault (s : State) (p : Cpu) (m : MemSpace) (store pair : Bool) (d : RegNo) (f : MemForm) (a : Address) :
    Option FaultInfo :=
  if memIllegal p m pair d f then some faultIllegal else s.accessFault p m store pair a.addr

/-- A word is loaded into a register. -/
def State.loadWord (p : Cpu) (m : MemSpace) (d : RegNo) (a : Address) (s : State) : State × Bool :=
  match s.memLoad p m a.addr with
  | (s1, some v) => ((s1.advanceBy p a false).modCpu p (·.loadRegs [(d, v)]), true)
  | (s1, none) => (s1, false)

/-- An odd-addressed pair is split into two accesses (R117, R119). -/
def splitPair (pair : Bool) (a : Nat) : Bool := pair && a % 2 == 1

/-- What the first half of a split pair has loaded; none where the access is one, or the half is still to be made. -/
def State.halfOf (s : State) (p : Cpu) : Option (List Word) := (s.cpu p).issued.bind (·.half)

/-- The first half of a split pair has been made. -/
def State.setHalf (p : Cpu) (l : List Word) (s : State) : State :=
  s.modCpu p (fun u => { u with issued := u.issued.map (fun i => { i with half := some l }) })

/-- The first word of a pair: what a first half has loaded, or the word itself. -/
def State.firstWord (p : Cpu) (m : MemSpace) (a : Nat) (s : State) : State × Option Word :=
  match s.halfOf p with
  | some l => (s, some (l.getD 0 0))
  | none => s.memLoad p m a

/-- The first half of a split pair load. -/
def State.loadHalf (p : Cpu) (m : MemSpace) (a : Nat) (s : State) : State × Bool :=
  match s.memLoad p m a with
  | (s1, some v) => (s1.setHalf p [v], true)
  | (s1, none) => (s1, false)

/-- A pair is loaded: word a into wd, word a + 1 into the next register (R117). -/
def State.loadPair (p : Cpu) (m : MemSpace) (d : RegNo) (a : Address) (s : State) : State × Bool :=
  match s.firstWord p m a.addr with
  | (s1, some v) =>
    match s1.memLoad p m (a.addr + 1) with
    | (s2, some w) => ((s2.advanceBy p a true).modCpu p (·.loadRegs [(d, v), (regAfter d 1, w)]), true)
    | (s2, none) => (s2, false)
  | (s1, none) => (s1, false)

/-- The words of a store, before the events of its last cycle: what it clears in INT_PEND and INT_OVR (R166). -/
def State.clearEarly (p : Cpu) (m : MemSpace) (l : List (Nat × Word)) (s : State) : State :=
  if m = .d then l.foldl (fun (s : State) e => s.modInt p (·.clear e.1 e.2)) s else s

/-- Words are stored in order. -/
def State.storeWords (p : Cpu) (m : MemSpace) : List (Nat × Word) → State → State × Bool
  | [], s => (s, true)
  | (a, v) :: l, s =>
    match s.memStore p m a v with
    | (s1, true) => State.storeWords p m l s1
    | r => r

/-- The operation of a load (R154, R155). -/
def State.loadOp (p : Cpu) (m : MemSpace) (pair : Bool) (d : RegNo) (f : MemForm) (s : State) : Op :=
  let a := (s.cpu p).address f
  let out : List ScoreTarget := if pair then [.reg d, .reg (regAfter d 1)] else [.reg d]
  { Op.nop with
    len := a.len, cycles := accessCount m false pair a.addr + (a.len - 1), reads := a.reads, writes := out
    late := if pair then out.map (fun t => (t, if a.addr % 2 = 0 then 3 else 4)) else [], isLoad := true
    acc := memReach m a.addr, solo := a.advance.isSome
    fault := s.memFault p m false pair d f a
    effect := fun t => if pair then t.loadPair p m d a else t.loadWord p m d a
    mid := if splitPair pair a.addr then
        some (accessCount m false false a.addr + (a.len - 1), id, (·.loadHalf p m a.addr))
      else none }

/-- A load instruction. -/
def State.load (p : Cpu) (m : MemSpace) (pair : Bool) (d : RegNo) (f : MemForm) (s : State) : Outcome :=
  s.instr p (s.loadOp p m pair d f)

/-- The words a store writes, by address (R117). -/
def CpuState.storeList (u : CpuState) (pair : Bool) (d : RegNo) (a : Nat) : List (Nat × Word) :=
  if pair then [(a, u.read d), (a + 1, u.read (regAfter d 1))] else [(a, u.read d)]

/-- The first half of a split pair store. -/
def State.storeHalf (p : Cpu) (m : MemSpace) (l : List (Nat × Word)) (s : State) : State × Bool :=
  let r := s.storeWords p m l
  (if r.2 then r.1.setHalf p [] else r.1, r.2)

/-- The words that are still to be stored. -/
def State.wordsLeft (s : State) (p : Cpu) (l : List (Nat × Word)) : List (Nat × Word) :=
  if (s.halfOf p).isSome then l.drop 1 else l

/-- A store of these words writes a register of R126. -/
def writesMode (m : MemSpace) (l : List (Nat × Word)) : Bool := m == .d && l.any (fun e => modeReg e.1)

/-- The operation of a store (R154, R155). -/
def State.storeOp (p : Cpu) (m : MemSpace) (pair : Bool) (d : RegNo) (f : MemForm) (s : State) : Op :=
  let u := s.cpu p
  let a := u.address f
  let src : List ScoreTarget := if pair then [.reg d, .reg (regAfter d 1)] else [.reg d]
  let words := u.storeList pair d a.addr
  { Op.nop with
    len := a.len, cycles := accessCount m true pair a.addr + (a.len - 1), reads := src ++ a.reads
    acc := memReach m a.addr, solo := a.advance.isSome || writesMode m words
    fault := s.memFault p m true pair d f a
    early := fun t => t.clearEarly p m (t.wordsLeft p words)
    effect := fun t => let r := t.storeWords p m (t.wordsLeft p words); (r.1.advanceBy p a pair, r.2)
    mid := if splitPair pair a.addr then
        some (accessCount m true false a.addr + (a.len - 1), (·.clearEarly p m (words.take 1)), (·.storeHalf p m (words.take 1)))
      else none }

/-- A store instruction. -/
def State.store (p : Cpu) (m : MemSpace) (pair : Bool) (d : RegNo) (f : MemForm) (s : State) : Outcome :=
  s.instr p (s.storeOp p m pair d f)

/-- LD. -/
def execLd (p : Cpu) (d : RegNo) (m : MemForm) (s : State) : Outcome := s.load p .d false d m
/-- LDP. -/
def execLdp (p : Cpu) (d : RegNo) (m : MemForm) (s : State) : Outcome := s.load p .d true d m
/-- ST. -/
def execSt (p : Cpu) (d : RegNo) (m : MemForm) (s : State) : Outcome := s.store p .d false d m
/-- STP. -/
def execStp (p : Cpu) (d : RegNo) (m : MemForm) (s : State) : Outcome := s.store p .d true d m
/-- LDV. -/
def execLdv (p : Cpu) (d : RegNo) (m : MemForm) (s : State) : Outcome := s.load p .v false d m
/-- LDPV. -/
def execLdpv (p : Cpu) (d : RegNo) (m : MemForm) (s : State) : Outcome := s.load p .v true d m
/-- STV. -/
def execStv (p : Cpu) (d : RegNo) (m : MemForm) (s : State) : Outcome := s.store p .v false d m
/-- STPV. -/
def execStpv (p : Cpu) (d : RegNo) (m : MemForm) (s : State) : Outcome := s.store p .v true d m
/-- LDS. -/
def execLds (p : Cpu) (d : RegNo) (m : MemForm) (s : State) : Outcome := s.load p .s false d m
/-- LDPS. -/
def execLdps (p : Cpu) (d : RegNo) (m : MemForm) (s : State) : Outcome := s.load p .s true d m
/-- STS. -/
def execSts (p : Cpu) (d : RegNo) (m : MemForm) (s : State) : Outcome := s.store p .s false d m
/-- STPS. -/
def execStps (p : Cpu) (d : RegNo) (m : MemForm) (s : State) : Outcome := s.store p .s true d m
/-- LDC. -/
def execLdc (p : Cpu) (d : RegNo) (m : MemForm) (s : State) : Outcome := s.load p .c false d m

end Sys2Proof.Machine
end

