-- ==== Sys2Proof/Machine/Control.lean ====
section
/-! DEFINITION. Control transfers (R123, R124, R146, R157 to R159), RETI with tail-chaining (R172, R173) and WAIT (R160). -/

namespace Sys2Proof.Machine

/-! ### Branches and jumps -/

/-- The address of the word after a transfer's last word (R157). -/
def CpuState.after (u : CpuState) (len : Nat) : Word := u.pc + BitVec.ofNat 16 len

/-- A transfer's operation: taken or not, its target and its annul bit. -/
def transferOp (len : Nat) (taken : Bool) (target : Word) (annul : Bool) : Op :=
  { Op.nop with
    len := len, cycles := len, transfer := some { taken := taken, target := target, annulled := annul && !taken } }

/-- Words of a branch's displacement form. -/
def dispLen : BranchDisp → Nat | .short _ => 1 | .long _ => 2

/-- A displacement, sign-extended. -/
def dispValue : BranchDisp → Word | .short e => e.signExtend 16 | .long i => i

/-- Bcc (R146, R158): condition 0xF is ILLEGAL. -/
def execBcc (p : Cpu) (cond : BitVec 4) (annul : Bool) (e : BranchDisp) (s : State) : Outcome :=
  let u := s.cpu p
  let len := dispLen e
  s.instr p { transferOp len (condMet u.flags cond) (u.after len + dispValue e) annul with
    reads := [.status], fault := if cond = 15 then some faultIllegal else none }

/-- BRA. -/
def execBra (p : Cpu) (annul : Bool) (e : BitVec 11) (s : State) : Outcome :=
  s.instr p (transferOp 1 true ((s.cpu p).after 1 + e.signExtend 16) annul)

/-- JMP. -/
def execJmp (p : Cpu) (annul : Bool) (t : JmpTarget) (s : State) : Outcome :=
  match t with
  | .reg r => s.instr p { transferOp 1 true ((s.cpu p).read r) annul with reads := [.reg r] }
  | .abs i => s.instr p (transferOp 2 true i annul)

/-- The operation of BBS and BBC (R158): valid in YZ mode only. -/
def State.bitBranchOp (p : Cpu) (b : BitVec 14) (want annul : Bool) (e : BitVec 6) (s : State) : Op :=
  { transferOp 2 true ((s.cpu p).after 2 + e.signExtend 16) annul with
    sees := true, acc := dReach (bitWord b)
    fault := if s.bitIllegal p then some faultIllegal else none
    resolve := fun t d =>
      let taken := wbit ((t.dLoad p (bitWord b)).2.getD 0) (bitPlace b) == want
      { d with taken := taken, annulled := annul && !taken }
    effect := fun t => let q := t.dLoad p (bitWord b); (q.1, q.2.isSome) }

def State.bitBranch (p : Cpu) (b : BitVec 14) (want annul : Bool) (e : BitVec 6) (s : State) : Outcome :=
  s.instr p (s.bitBranchOp p b want annul e)

/-- BBS. -/
def execBbs (p : Cpu) (b : BitVec 14) (annul : Bool) (e : BitVec 6) (s : State) : Outcome := s.bitBranch p b true annul e

/-- BBC. -/
def execBbc (p : Cpu) (b : BitVec 14) (annul : Bool) (e : BitVec 6) (s : State) : Outcome := s.bitBranch p b false annul e

/-! ### CALL and RET (R159) -/

/-- The registers a mask names, in ascending order. -/
def maskRegs (mask : Word) : List RegNo := (List.finRange 15).filterMap (fun i =>
  if wbit mask i.val then some ⟨i.val, by omega⟩ else none)

/-- The stack words of CALL, in the order they are pushed: address and value. -/
def CpuState.callWords (u : CpuState) (ret mask : Word) : List (Nat × Word) :=
  ((ret :: (maskRegs mask).reverse.map u.read).zipIdx).map (fun e => ((u.read 15 - BitVec.ofNat 16 (e.2 + 1)).toNat, e.1))

/-- The stack addresses of RET: one for each register, then the return address's. -/
def CpuState.retAddrs (u : CpuState) (mask : Word) : List Nat :=
  (List.range ((maskRegs mask).length + 1)).map (fun i => (u.read 15 + BitVec.ofNat 16 i).toNat)

/-- The first fault among accesses (R159). -/
def State.firstFault (s : State) (p : Cpu) (store : Bool) (l : List Nat) : Option FaultInfo :=
  (l.filterMap (fun a => s.wordFault p .d store a)).head?

/-- The length of the instruction at an address: its first word's bits [15:12] (R143). None: the word is not there yet. -/
def State.lenAt (p : Cpu) (a : Word) (s : State) : State × Option Nat :=
  if s.cOk p a.toNat then
    let r := s.cWord p a.toNat
    (r.1, r.2.map (fun v => wordLength v.toNat))
  else (s, some 1)

/-- The stack words of a CALL, with the length of its delay slot's instruction: the return address follows it (R157). -/
def CpuState.callList (u : CpuState) (mask : Word) (slot : Nat) : List (Nat × Word) :=
  u.callWords (u.after 2 + BitVec.ofNat 16 slot) mask

/-- The pushes of a CALL, made once its delay slot's word is there. -/
def State.callPush (p : Cpu) (mask : Word) (u : CpuState) (s : State) : State × Bool :=
  match s.lenAt p (u.after 2) with
  | (s1, some n) =>
    let r := s1.storeWords p .d (u.callList mask n)
    (r.1.modCpu p (·.write 15 (u.read 15 - BitVec.ofNat 16 (u.callList mask n).length)), r.2)
  | (s1, none) => (s1, false)

/-- The target of a CALL. -/
def CpuState.callTarget (u : CpuState) : CallTarget → Word
  | .rel e => u.after 2 + e.signExtend 16
  | .reg r => u.read r

/-- The operation of CALL (R158, R159). -/
def State.callOp (p : Cpu) (annul : Bool) (t : CallTarget) (mask : Word) (s : State) : Op :=
  let u := s.cpu p
  let words := u.callList mask (((s.lenAt p (u.after 2)).2).getD 1)
  { transferOp 2 true (u.callTarget t) annul with
    cycles := 2 + ((words.drop 1).map (fun e => accessCount .d true false e.1)).sum
    reads := (match t with | .rel _ => [] | .reg r => [.reg r]) ++ (maskRegs mask).map .reg ++ [.reg 15]
    writes := [.reg 15]
    acc := words.flatMap (fun e => dReach e.1)
    fault := if wbit mask 15 then some faultIllegal else s.firstFault p true (words.map (·.1))
    early := fun t => t.clearEarly p .d words
    effect := fun t => t.callPush p mask u }

/-- CALL. -/
def execCall (p : Cpu) (annul : Bool) (t : CallTarget) (mask : Word) (s : State) : Outcome :=
  s.instr p (s.callOp p annul t mask)

/-- Words loaded from the stack, in order; none where one waits. -/
def State.loadWords (p : Cpu) : List Nat → State → State × Option (List Word)
  | [], s => (s, some [])
  | a :: l, s =>
    match s.dLoad p a with
    | (s1, some v) => let r := State.loadWords p l s1; (r.1, r.2.map (v :: ·))
    | (s1, none) => (s1, none)

/-- The operation of RET (R158, R159): the target is the word popped last, known when the pops are complete. -/
def State.retOp (p : Cpu) (annul : Bool) (mask : Word) (s : State) : Op :=
  let u := s.cpu p
  let addrs := u.retAddrs mask
  let regs := maskRegs mask
  let sp := u.read 15 + BitVec.ofNat 16 addrs.length
  { transferOp 2 true 0 annul with
    cycles := 2 + ((addrs.take regs.length).map (fun a => accessCount .d false false a)).sum
    reads := [.reg 15], writes := .reg 15 :: regs.map .reg
    sees := true, acc := addrs.flatMap dReach
    fault := if wbit mask 15 then some faultIllegal else s.firstFault p false addrs
    resolve := fun t d => { d with target := ((t.loadWords p addrs).2.bind (·.getLast?)).getD 0 }
    effect := fun t =>
      match t.loadWords p addrs with
      | (t1, some ws) =>
        (t1.modCpu p (fun v =>
          ((regs.zip ws).foldl (fun (z : CpuState) e => z.write e.1 e.2) v).write 15 sp), true)
      | (t1, none) => (t1, false) }

/-- RET. -/
def execRet (p : Cpu) (annul : Bool) (mask : Word) (s : State) : Outcome := s.instr p (s.retOp p annul mask)

/-! ### RETI (R172, R173) -/

/-- What a RETI waits for on the scoreboard. -/
def retiOp : Op := { Op.nop with reads := [.reg 15, .status], writes := [.reg 15, .status], solo := true }

/-- RETI past its checks: it issues once its registers are there, and its cycles follow. -/
def State.reti (p : Cpu) (s : State) : State :=
  let u := s.cpu p
  let sp := u.read 15
  let w := u.waitFor retiOp
  match s.firstFault p false [sp.toNat, (sp + 1).toNat] with
  | some f => s.faultOn p f (u.issued.getD { first := u.now + w, total := 1, half := none })
  | none =>
    let i := u.issued.getD { first := u.now + w, total := 0, half := none }
    match s.cpuUntil p i.first with
    | (s1, true) => (s1.modCpu p (fun v => { v with issued := none })).seqStart p
        { kind := .reti, step := 1, src := none, level := 0, ret := sp, st := 0, vec := 0 }
    | (s1, false) => s1.holdAt p i

/-- RETI (R172, R173): no delay slot; ILLEGAL_SLOT in one (R124). One that stood still goes on. -/
def execReti (p : Cpu) (s : State) : Outcome :=
  let s0 := (s.poised p).1
  .next (if !s0.mayIssue p || (s0.cpu p).slot.isSome then s.run p { Op.nop with fault := some faultSlot }
    else match s0.badFetch p 1 with
      | some a => s0.faultOn p (faultFetch a) ((s0.cpu p).issued.getD { first := (s0.cpu p).now, total := 1, half := none })
      | none =>
        match s0.fetchLine p 1 with
        | (s1, true) => if s1.unencoded p then s1.issue p (s1.asEncoded p Op.nop) else s1.reti p
        | (s1, false) => (s0.retried p (·.fetchLine p 1) s1).elapse p)

/-! ### WAIT (R160) -/

/-- A source is pending and enabled. -/
def State.waitOver (s : State) (p : Cpu) : Bool := ((s.int p).pend &&& (s.int p).en) != 0

/-- WAIT: one cycle; without a source pending and enabled the processor waits. -/
def execWait (p : Cpu) (s : State) : Outcome :=
  s.instr p { Op.nop with
    effect := fun t => (if t.waitOver p then t else t.modCpu p (fun u => { u with waiting := true }), true) }

/-- Cycles of a waiting Keeper pass until a source is pending and enabled, `n` at most. -/
def State.waitCycles (k : Fin 4) : Nat → State → State
  | 0, s => if s.waitOver (.keeper k) then s.modCpu (.keeper k) (fun u => { u with waiting := false }) else s
  | n + 1, s =>
    if s.waitOver (.keeper k) then s.modCpu (.keeper k) (fun u => { u with waiting := false })
    else if s.active (.keeper k) then State.waitCycles k n (s.keeperTime k 1) else s

/-- WAIT_END (R160): the first cycle in which a source is pending and enabled ends the wait. -/
def execWaitEnd (p : Cpu) (n : Nat) (s : State) : Outcome :=
  .next (match p with
    | .session c =>
      let s1 := if (s.cpu p).waiting && s.waitOver p then s.modCpu p (fun u => { u with waiting := false }) else s
      if s1.sesD c false (·.cpu.waiting) then s1.passIdle c n else s1
    | .keeper k => if s.active p && (s.cpu p).waiting then s.waitCycles k n else s)

end Sys2Proof.Machine
end

