-- ==== Sys2Proof/Machine/CuratorOps.lean ====
section
/-! DEFINITION. The Curator's commands: page misses and their ends, first touches, copies, staging fills, eviction and
write-back (R61, R66 to R76, R81, R82), parity failures (R85, R86), Curator operations and books (R83, R87), the
quarantine FIFO (R438) and the title table (R77, R78). -/

namespace Sys2Proof.Machine

/-! ### Paging -/

/-- The deadline of the band that the line engine of a context renders next (R68, R93). -/
def State.bandDue (s : State) (c : CtxNo) : Nat :=
  let k := (s.heldSlot c).getD 0
  s.lineDeadline c k (s.slot k).renderFrame (s.slot k).rendered

/-- PAGE_MISS (R66 to R68): a session unit reaches a page with no Gallery copy, or the Curator one ahead of the beam; without a frame
the request waits (R70). -/
def State.pageMiss (c : CtxNo) (i : Nat) (by' : Requester) (s : State) : State :=
  let e := s.page c i
  if (s.ctxDie c).isSome && e.alloc && !e.gcopy then
    (s.startPageIn c i (pageClass by') (if by' = .band then s.bandDue c else 0)).getD (s.waitsHere c)
  else s

def execPageMiss (c : CtxNo) (pg : PageAsk) (s : State) : Outcome := .next (s.pageMiss c pg.page.val pg.by')

/-- The freezes that a page-in ends are counted (R73). -/
def State.countFreezes (l : List CtxNo) (s : State) : State := l.foldl (fun (s : State) c => s.countFreeze c) s

/-- PAGE_IN_DONE (R66, R68): the page-in that its die serves next completes. Its copy is resident, and the freezes it caused end
(R73); a home frame that cannot be read is acted on (R85). -/
def State.pageInDone (c : CtxNo) (i : Nat) (s : State) : State :=
  let h := (s.page c i).home.toNat
  match (s.ctxDie c).bind s.nextReq with
  | some r =>
    if (s.page c i).inflight && r.home == h then
      if !s.frameUp (s.current h) then s
      else if s.frameBad (s.current h) then (s.unitFail c (s.current h)).countFreezes r.freezes
      else (s.endPageIn c i).countFreezes r.freezes
    else s
  | none => s

def execPageInDone (c : CtxNo) (pg : PageIx) (s : State) : Outcome := .next (s.pageInDone c pg.val)

/-- A context whose pages a unit may write: admitted or suspended. -/
def Context.writable (x : Context) : Bool :=
  x.state == .running || x.state == .suspending || x.state == .suspended || x.state == .admitting || x.state == .retiring

/-- FIRST_TOUCH (R61). Without a frame the session is quarantined (R64), one that is not RUNNING too (DESIGN CHOICE, log entry 63). -/
def State.touchPage (c : CtxNo) (i : Nat) (s : State) : State :=
  if (s.ctx c).writable && pageInUse (s.ctx c).grand i && !(s.page c i).alloc then (s.firstTouch c i).1 else s

def execFirstTouch (c : CtxNo) (pg : PageIx) (s : State) : Outcome := .next (s.touchPage c pg.val)

/-- COPY_ON_WRITE (R81): it waits while the page's page-in is in flight. -/
def State.cowPage (c : CtxNo) (i : Nat) (s : State) : State :=
  let e := s.page c i
  if (s.ctx c).writable && e.alloc && e.cow && !e.inflight then
    let shared := decide (1 < (s.frame e.home.toNat).shares.toNat)
    let src := s.current e.home.toNat
    if shared && s.frameBad src then (s.unitFail c src).countFreeze c
    else
      let r := s.copyOnWrite c i
      if shared && r.2 && (s.ctxDie c).isSome then r.1.countFreeze c else r.1
  else s

def execCopyOnWrite (c : CtxNo) (pg : PageIx) (s : State) : Outcome := .next (s.cowPage c pg.val)

/-- A staging line's contents are brought in: a line of work RAM, or of a title page (R74). False: it waits, or there is no
such line. -/
def State.bringLine (c : CtxNo) (line : Nat) (s : State) : State × Bool :=
  let t := s.ctxTitle c
  if line < 768 then s.pageReady c (dPage (64 * line)) (64 * line % 2048) 64
  else if 1024 ≤ line ∧ line < 1024 + 32 * (t.cPages.toNat + t.dPages.toNat) then
    s.titleReadyAt c ((line - 1024) / 32) (64 * (line % 32)) 64
  else (s, false)

/-- STAGING_MISS (R75): an Exact-mode thread's line is filled, the least recently used line leaving a full share. -/
def State.stagingMiss (c : CtxNo) (line : Nat) (s : State) : State :=
  if s.admitted c && s.sesD c false (fun x => !x.fast && (x.staged line).isNone) then
    match s.bringLine c line with
    | (s1, true) => s1.useLine c line none
    | (s1, false) => s1
  else s

def execStagingMiss (c : CtxNo) (line : Nat) (s : State) : Outcome := .next (s.stagingMiss c line)

/-- EVICTION (R69): the copy the weights choose, of a die that holds an unheld one. -/
def State.evict (die : Nat) (s : State) : State :=
  if s.power.dieUp die then
    match s.victim die with
    | some f => s.evictFrame die f
    | none => s
  else s

def execEviction (die : Fin 2) (s : State) : Outcome := .next (s.evict die.val)

/-- WRITE_BACK (R68, R82): a dirty copy's contents reach the home frame, and the copy is clean; every page-in of the die comes before
it. -/
def State.writeBackPage (c : CtxNo) (i : Nat) (s : State) : State :=
  let e := s.page c i
  match s.ctxDie c with
  | some d =>
    if e.gcopy && e.dirty && (s.nextReq d).isNone then s.writeBackFrame (galleryFrame d e.gframe.toNat) else s
  | none => s

def execWriteBack (c : CtxNo) (pg : PageIx) (s : State) : Outcome := .next (s.writeBackPage c pg.val)

/-! ### Parity failures (R85) -/

/-- The Gallery frame that a staging line comes from. -/
def State.lineFrame (s : State) (c : CtxNo) (line : Nat) : Option Nat :=
  if line < 768 then s.pageFrame c (dPage (64 * line))
  else (s.ctxDie c).bind (fun d => s.copyOn d ((s.ctxTitle c).frame ((line - 1024) / 32)))

/-- A staging line's parity failure (R85 rows 7 and 8): a clean line is filled again, a written one is poisoned. -/
def State.failStaging (c : CtxNo) (line : Nat) (written : Bool) (node : Byte) (s : State) : State :=
  if s.sesD c false (fun x => (x.staged line).any (fun e => !e.words.isEmpty == written)) then
    (if written then
      let i := dPage (64 * line)
      let h := (s.page c i).home.toNat
      let s1 := (((s.dropPageCopy c i).dropShare h).clearPage c i).countReg (curBase + 0x204) 1
      s1.quarantine c causePoisonStaging 0 (pageSpace i).1 (pageSpace i).2
    else match s.lineFrame c line with
      | some f => (s.retireRecord f 7 node.toNat).countFreeze c
      | none => s)
  else s

/-- PERSISTENT_FAILURE (R85). -/
def execPersistentFailure (node : Byte) (f : Failure) (s : State) : Outcome :=
  .next (match f with
    | .read a => s.failRead (a.toNat / 4096) node
    | .write a => s.failWrite (a.toNat / 4096) node
    | .stagingClean c line => s.failStaging c line false node
    | .stagingDirty c line => s.failStaging c line true node)

/-! ### Curator operations (R87) -/

/-- CUR_OP_ARG, CUR_OP_STAT and CUR_OP_RES after an operation. -/
def State.curEnd (result res : Nat) (s : State) : State :=
  ((((s.setReg (curBase + 0x4C) result).setReg (curBase + 0x50) (res % 2 ^ 32)).setReg (curBase + 0x54)
    (res / 2 ^ 32)).setReg (curBase + 0x58) 0).setReg (curBase + 0x5C) 0

def State.curArg (a : Nat) (s : State) : State :=
  (s.setReg (curBase + 0x40) (a % 2 ^ 32)).setReg (curBase + 0x44) (a / 2 ^ 32)

/-- ALLOC of a pool; a pool number of none ends with BAD_ARG (DESIGN CHOICE, log entry 68). -/
def State.curAlloc (k : Nat) (s : State) : State :=
  if 5 ≤ k then s.curEnd 7 0
  else if s.poolUsable k && decide (s.poolReserve k < s.freeCount k) then
    match s.takeFrame k { FrameRec.free with pool := 1, grant := true } with
    | some (f, s1) => s1.curEnd 0 (4096 * f)
    | none => s.curEnd 1 0
  else s.curEnd 1 0

/-- A frame that a ready title lists. -/
def State.listed (s : State) (f : Nat) : Bool := s.titles.any (fun e => e.2.state == 1 && e.2.frames.any (·.toNat == f))

/-- An aligned address of a frame; FREE, RETIRE and QUERY of another end with BAD_ARG (DESIGN CHOICE, log entry 68). -/
def State.frameAt (s : State) (a : Nat) : Option Nat :=
  if a % 4096 = 0 ∧ (framePool s.part (a / 4096)).isSome then some (a / 4096) else none

/-- FREE of a grant. -/
def State.curFree (a : Nat) (s : State) : State :=
  match s.frameAt a with
  | none => s.curEnd 7 0
  | some f => if (s.frame f).grant && !s.listed f then ((s.freeCopies f).freeFrame f).curEnd 0 0 else s.curEnd 2 0

/-- RETIRE of a free frame or a grant, by a Keeper. -/
def State.curRetire (k : Fin 4) (a : Nat) (s : State) : State :=
  match s.frameAt a with
  | none => s.curEnd 7 0
  | some f =>
    let r := s.frame f
    if r.grant || r.pool = 0 then ((s.dropFrame f).retireRecord f 0xFF (0x80 + k.val)).curEnd 0 0 else s.curEnd 3 0

/-- QUERY: the frame record. -/
def FrameRec.bits (r : FrameRec) : Nat :=
  r.pool.toNat + r.shares.toNat * 2 ^ 2 + b2n r.title * 2 ^ 18 + b2n r.grant * 2 ^ 19
    + (match r.copy with | some (d, g) => 2 ^ 20 + b2n d * 2 ^ 21 + g.toNat * 2 ^ 22 | none => 0)

def State.curQuery (a : Nat) (s : State) : State :=
  match s.frameAt a with
  | none => s.curEnd 7 0
  | some f => s.curEnd 0 (s.frame f).bits

/-- The Curator's registers answer while a Raster die is up. -/
def State.curUp (s : State) : Bool := s.portsUp

def execAlloc (pool : Fin 8) (s : State) : Outcome := .next (if s.curUp then (s.curArg pool.val).curAlloc pool.val else s)

def execFree (a : LoamAddr) (s : State) : Outcome := .next (if s.curUp then (s.curArg a.toNat).curFree a.toNat else s)

def execRetireOperation (k : Fin 4) (a : LoamAddr) (s : State) : Outcome :=
  .next (if s.curUp then (s.curArg a.toNat).curRetire k a.toNat else s)

def execQuery (a : LoamAddr) (s : State) : Outcome := .next (if s.curUp then (s.curArg a.toNat).curQuery a.toNat else s)

/-- A write of CUR_OP (R87): other codes end with BAD_ARG. -/
def State.curOp (k : Fin 4) (op : Nat) (s : State) : State :=
  let a := s.regN (curBase + 0x40) + 2 ^ 32 * s.regN (curBase + 0x44)
  if op = 1 then s.curAlloc (a % 8)
  else if op = 2 then s.curFree a
  else if op = 3 then s.curRetire k a
  else if op = 4 then s.curQuery a
  else s.curEnd 7 0

/-! ### Books (R83) -/

/-- The books of one pool. -/
def State.snapPool (k : Nat) (s : State) : State :=
  let o := curBase + 0x110 + 0x10 * k
  (((s.setReg o (s.freeCount k)).setReg (o + 4) (s.residentCount k)).setReg (o + 8) (s.inflightCount k)).setReg (o + 12)
    (s.totalCount k)

/-- The four counts of all five pools latched. -/
def State.curSnap (s : State) : State :=
  ([0, 1, 2, 3, 4] : List Nat).foldl (fun (s : State) k => s.snapPool k) s

def execCurBookSnap (s : State) : Outcome := .next (if s.curUp then s.curSnap else s)

/-! ### The quarantine FIFO (R438) -/

def State.quarRead (s : State) : State × Nat :=
  match s.quarFifo with
  | v :: l =>
    let s1 := { s with quarFifo := l }
    (if l.isEmpty then s1.setLevel 32 false else s1, v.toNat)
  | [] => (s, 0)

def execQuarantineRecordRead (s : State) : Outcome :=
  .next (if s.curUp then let r := s.quarRead; r.1.reply r.2 else s)

/-! ### The title table (R77, R78) -/

/-- Word `k` of a title entry. -/
def State.titleWord (s : State) (t : BitVec 16) (k : Nat) : Nat :=
  let x := s.titleOf t
  if k = 0 then x.state.toNat * 2 ^ 62 + (s.titleUsers t.toNat).length * 2 ^ 44 + x.cPages.toNat * 2 ^ 16 + x.dPages.toNat
  else x.list.toNat

/-- The page list in memory: 32-bit frame numbers. -/
def State.titleList (s : State) (a : Nat) : Nat → List Nat
  | 0 => []
  | n + 1 => ofBytesLE (s.agentBytes s.curatorDie a 4) :: s.titleList (a + 4) n

/-- The Curator's check of a title made ready; a list it cannot reach fails it (log entry 67). -/
def State.titleCheck (s : State) (x : Title) : Option (List Nat) :=
  if x.cPages = 0 ∨ 2048 < x.cPages.toNat ∨ 2048 < x.dPages.toNat ∨ x.list.toNat % 4 ≠ 0
      ∨ !s.reachesAll s.curatorDie x.list.toNat (4 * (x.cPages.toNat + x.dPages.toNat)) then none
  else
    let l := s.titleList x.list.toNat (x.cPages.toNat + x.dPages.toNat)
    if l.all (fun f => decide (f < 2 * vaultFrames s.part) && (s.frame f).grant && !s.listed f) then some l else none

def State.setTitle (t : BitVec 16) (x : Title) (s : State) : State :=
  { s with titles := Sparse.set { state := 0, cPages := 0, dPages := 0, list := 0, frames := [] } s.titles t.toNat x }

/-- The frames of a title are the Keeper program's again. -/
def State.releaseTitle (t : BitVec 16) (s : State) : State :=
  let x := s.titleOf t
  (x.frames.foldl (fun (s : State) f => s.modFrame f.toNat (fun r => { r with title := false })) s).setTitle t
    { x with state := 0, frames := [] }

/-- A title is made ready, or stays EMPTY with the operation-error source raised. -/
def State.readyTitle (t : BitVec 16) (s : State) : State :=
  let x := s.titleOf t
  match s.titleCheck x with
  | some l => (l.foldl (fun (s : State) f => s.modFrame f (fun r => { r with title := true })) s).setTitle t
      { x with state := 1, frames := l.map (BitVec.ofNat 25) }
  | none => s.raiseP 11

/-- A 64-bit write of a title entry's word is judged and taken (R78). -/
def State.commitTitle (t : BitVec 16) (k v : Nat) (s : State) : State :=
  if !(s.titleUsers t.toNat).isEmpty then s
  else if k = 0 then
    let st := v / 2 ^ 62 % 4
    let put := fun (z : State) =>
      z.setTitle t { z.titleOf t with cPages := BitVec.ofNat 16 (v / 2 ^ 16), dPages := BitVec.ofNat 16 v }
    if st = 0 then put (s.releaseTitle t)
    else if st = 1 then (put (s.releaseTitle t)).readyTitle t
    else if st = 2 then let z := put s; z.setTitle t { z.titleOf t with state := 2 }
    else put s
  else s.setTitle t { s.titleOf t with list := BitVec.ofNat 48 v }

/-- TITLE_ENTRY_WRITE (R77, R78): the halves under the rules of R35. -/
def State.titleEntryWrite (node : Byte) (t : BitVec 16) (k : Nat) (v : EntryPart) (s : State) : State :=
  let r := s.holdWrite node 1 (2 * t.toNat + k) (s.titleWord t k) v
  match r.2 with
  | some w => r.1.commitTitle t k w
  | none => r.1

def execTitleEntryWrite (node : Byte) (t : BitVec 16) (k : Fin 2) (v : EntryPart) (s : State) : Outcome :=
  .next (if s.power.mode = .off then s else s.titleEntryWrite node t k.val v)

end Sys2Proof.Machine
end

