-- ==== Sys2Proof/Machine/Monitor.lean ====
section
/-! DEFINITION. The monitor output (R231 to R234, R457 to R459): the canvas, the tile table, band copies, and the
DisplayPort link. -/

namespace Sys2Proof.Machine

/-- W and H by MODE (R459). -/
def monSize (mode : Nat) : Nat × Nat :=
  if mode = 0 then (1280, 720) else if mode = 2 then (2560, 1440) else if mode = 3 ∨ mode = 4 then (3840, 2160)
  else (1920, 1080)

/-- The mode's need in Mbit/s. -/
def monNeed (mode : Nat) : Nat :=
  if mode = 0 then 1782 else if mode = 2 then 5796 else if mode = 3 then 7128 else if mode = 4 then 14256 else 3564

def State.monMode (s : State) : Nat := field (s.regN (monBase + 0x20)) 0 3

def State.canvasList (s : State) : Nat := s.regN (monBase + 8) + 2 ^ 32 * s.regN (monBase + 0xC)

/-- A 32-bit Loam word as the compositor reads it (R163). -/
def State.word32 (s : State) (a : Nat) : Nat := ofBytesLE (s.agentBytes 2 a 4)

/-- The Loam address of a canvas byte (R231). -/
def State.canvasAddr (s : State) (o : Nat) : Nat :=
  (0x4020000 + s.word32 (s.canvasList + 4 * (o / 4096))) * 4096 + o % 4096

/-- A pixel stands inside a tile. -/
def Tile.covers (t : Tile) (x y : Nat) : Bool :=
  decide (t.x ≤ x ∧ x < t.x + t.ow ∧ t.y ≤ y ∧ y < t.y + t.oh)

/-- A line of a tile's picture written to the canvas (R233). -/
def State.copyLine (p : Picture) (t : Tile) (oy : Nat) (s : State) : State :=
  let size := monSize s.monMode
  let y := t.y + oy
  let above := s.tiles.filter (fun u => decide (t.num < u.num))
  if size.2 ≤ y then s
  else
    let s1 := (List.range t.ow).foldl (fun (s : State) ox =>
      let x := t.x + ox
      if decide (size.1 ≤ x) || above.any (fun u => u.covers x y) then s
      else (List.range 3).foldl (fun (s : State) comp =>
        let a := s.canvasAddr (3 * (y * size.1 + x) + comp)
        if s.reaches 2 a then s.setBytes a [BitVec.ofNat 8 (p.part ox oy comp)] else s) s) s
    let w := s1.monitor.written
    { s1 with monitor := { s1.monitor with written := if w.contains (t.num, y) then w else w ++ [(t.num, y)] } }

/-- One tile takes its copy of a band (R233). -/
def State.copyTile (c : CtxNo) (k f b : Nat) (t : Tile) (s : State) : State :=
  let ws := s.sesD c 0 (fun x => x.timingOf f 1)
  let hs := s.sesD c 0 (fun x => x.timingOf f 3)
  if !t.fits ws hs then
    s.setReg (monBase + 0x18) (s.regN (monBase + 0x18) ||| 2)
  else
    let p : Picture := { lines := s.sesD c [] (·.lines), frame := f, ws := ws, hs := hs, wo := t.ow, ho := t.oh }
    let h := s.bandH k
    let lo := outLinesBelow hs t.oh (min hs (b * h))
    let hi := outLinesBelow hs t.oh (min hs ((b + 1) * h))
    ((List.range (hi - lo)).map (lo + ·)).foldl (fun (s : State) oy => s.copyLine p t oy) s

/-- MONITOR_COPY: the next band of a session goes to every tile that names its slot. -/
def State.monitorCopy (c : CtxNo) (k : Nat) (s : State) : State :=
  let n := s.nextActive c (s.slot k).monF (s.slot k).monK
  if !s.bandRendered c k n.1 n.2 then s
  else
    let s1 := if s.monitor.en then
        (s.tiles.filter (fun t => t.slot == k)).foldl (fun (s : State) t => s.copyTile c k n.1 n.2 t) s
      else s
    let more := s.bandActive c n.1 (n.2 + 1)
    s1.modSlot k (fun y => { y with monF := if more then n.1 else n.1 + 1, monK := if more then n.2 + 1 else 0 })

def execMonitorCopy (c : CtxNo) (s : State) : Outcome :=
  .next (match s.heldSlot c with
    | some k => if (s.ctx c).state = .admitting then s else s.monitorCopy c k
    | none => s)

/-- The colour scanned out at a canvas pixel (R234). -/
def State.scanPixel (s : State) (x y : Nat) : Nat :=
  let bkg := field (s.regN (monBase + 4)) 0 24
  match (s.tiles.filter (fun t => t.covers x y)).getLast? with
  | some t =>
    if s.monitor.written.contains (t.num, y) then
      let o := 3 * (y * (monSize s.monMode).1 + x)
      ofBytesBE ((List.range 3).map (fun i => s.agentByte 2 (s.canvasAddr (o + i))))
    else bkg
  | none => bkg

/-! ### The rows -/

/-- A canvas list is long enough and every counted entry names a frame of pool 4 (R231). -/
def State.canvasOk (s : State) : Bool :=
  let size := monSize s.monMode
  let n := s.regN (monBase + 0x10)
  decide ((3 * size.1 * size.2 + 4095) / 4096 ≤ n)
    && (List.range n).all (fun i => decide (s.word32 (s.canvasList + 4 * i) < 16384))

/-- MONITOR_ENABLE (R231). -/
def State.monEnable (s : State) : State :=
  if s.monitor.en then s
  else if s.canvasOk then { s with monitor := { s.monitor with en := true } }
  else s.setReg (monBase + 0x18) (s.regN (monBase + 0x18) ||| 4)

def execMonitorEnable (s : State) : Outcome := .next (if s.power.hub then s.monEnable else s)

/-- MON_COMMIT (R232). -/
def State.monCommit (s : State) : State := { s with monitor := { s.monitor with pending := true } }

def execMonCommit (s : State) : Outcome := .next (if s.power.hub then s.monCommit else s)

/-- The shadow of a tile entry. -/
def State.tileShadow (s : State) (t : Nat) : Reg32 × Reg32 × Reg32 :=
  (s.reg (monBase + 0x1000 + 16 * t), s.reg (monBase + 0x1004 + 16 * t), s.reg (monBase + 0x1008 + 16 * t))

/-- The shadow table becomes live (R232); a changed entry's lines count as not yet written (R234). -/
def State.monTake (s : State) : State :=
  let old := fun t => Sparse.get (0, 0, 0) s.monitor.live t
  { s with monitor := { s.monitor with
    pending := false
    live := (List.range 64).foldl (fun m t => Sparse.set (0, 0, 0) m t (s.tileShadow t)) s.monitor.live
    written := s.monitor.written.filter (fun e => old e.1 == s.tileShadow e.1) } }

/-- MON_VBLANK (R232, R457): the first line of the monitor's vertical blank. -/
def execMonVblank (s : State) : Outcome :=
  .next (if s.power.hub && s.monitor.en then (if s.monitor.pending then s.monTake else s).raiseP 96 else s)

/-- MON_HPD (R457): DP_HPD changes, or a hot-plug interrupt pulse; the boundary register hides it while it has the pads (R460). -/
def execMonHpd (e : HpdEvent) (s : State) : Outcome :=
  let m := s.monitor
  let noLink := { m with link := false, lanes := 0, rate := 0 }
  .next (if !s.power.hub || s.scanned then s
    else match e with
      | .high => if m.hpd then s else { s with monitor := { m with hpd := true } }.raiseP 97
      | .low => if m.hpd then { s with monitor := { noLink with hpd := false } }.raiseP 97 else s
      | .pulse lost => if m.hpd then { s with monitor := if lost then noLink else m }.raiseP 97 else s)

/-- The settings of R459 in order of falling capacity: lanes and rate code. -/
def linkSettings : List (Nat × Nat) :=
  [(4, 3), (4, 2), (2, 3), (4, 1), (2, 2), (1, 3), (4, 0), (2, 1), (1, 2), (2, 0), (1, 1), (1, 0)]

/-- A rate in Mbit/s for each lane. -/
def linkRate (r : Nat) : Nat := if r = 0 then 1620 else if r = 1 then 2700 else if r = 2 then 5400 else 8100

/-- LINK_TRAINING (R459): `trains` names the settings that would train. -/
def State.linkTrain (trains : List (Nat × Nat)) (s : State) : State :=
  let need := monNeed s.monMode
  match (linkSettings.find? (fun e => decide (need * 10 ≤ e.1 * linkRate e.2 * 8) && trains.contains e)) with
  | some e => { s with monitor := { s.monitor with
      link := true, lanes := if e.1 = 4 then 3 else BitVec.ofNat 2 e.1, rate := BitVec.ofNat 2 e.2 } }
  | none =>
    ({ s with monitor := { s.monitor with link := false, lanes := 0, rate := 0 } }.setReg (monBase + 0x24)
      (s.regN (monBase + 0x24) ||| 0x100)).raiseP 98

def execLinkTraining (trains : List (Nat × Nat)) (s : State) : Outcome :=
  .next (if s.power.hub && s.monitor.en && s.monitor.hpd then s.linkTrain trains else s)

end Sys2Proof.Machine
end

