-- ==== Sys2Proof/Machine/Persist.lean ====
section
/-! DEFINITION. What outlives a power loss (R421 to R432): the NV registers and their commit queue, the Accession Log
engine and its ports. -/

namespace Sys2Proof.Machine

/-! ### NV registers (R421 to R425) -/

def State.nv (s : State) (n : Nat) : Reg32 := Sparse.get 0 s.rram.nvShadow n
def State.nvN (s : State) (n : Nat) : Nat := (s.nv n).toNat

/-- The endurance limit (R424). -/
def nvEndurance : Nat := 100000

/-- A write is accepted (R422, R424): reads return the new value, and the register's wear rises. -/
def State.nvTake (n : Nat) (v : Reg32) (s : State) : State :=
  let w := (Sparse.get 0 s.rram.nvWear n).toNat
  let s1 := { s with rram := { s.rram with
    nvShadow := Sparse.set 0 s.rram.nvShadow n v
    nvWear := Sparse.set 0 s.rram.nvWear n (BitVec.ofNat 32 (min 0xFFFFFFFF (w + 1))) } }
  if w = nvEndurance then (s1.offer 0x0060 5 (bytesBE 2 n)).raiseP 35 else s1

/-- A write reaches the commit queue of 16; one that finds it full is held behind it (R422). -/
def State.nvOffer (n : Nat) (v : Reg32) (s : State) : State :=
  let s1 := { s with rram := { s.rram with nvQueue := s.rram.nvQueue ++ [(n, v, 0)] } }
  if s.rram.nvQueue.length < 16 then s1.nvTake n v else s1

/-- The oldest queued write is committed, or fails verification three times (R425). -/
def State.nvCommit (ok : Bool) (s : State) : State :=
  match s.rram.nvQueue with
  | [] => s
  | (n, v, _) :: q =>
    let s1 := { s with rram := { s.rram with nvQueue := q } }
    let s2 := if ok then { s1 with rram := { s1.rram with nvCommitted := Sparse.set 0 s1.rram.nvCommitted n v } }
      else ((s1.countReg (nvrBase + 0x1004) 1).offer 0x0061 5 (bytesBE 2 n)).raiseP 36
    match q.drop 15 with
    | (n', v', _) :: _ => s2.nvTake n' v'
    | [] => s2

/-- The boot ROM writes one of its registers, waiting for room where the queue is full. -/
def State.nvRom (n : Nat) (v : Nat) (s : State) : State :=
  ((if 16 ≤ s.rram.nvQueue.length then s.nvCommit true else s).nvOffer n (BitVec.ofNat 32 v))

/-- A Keeper. -/
def isKeeperNode (node : Byte) : Bool := (nodeKeeper node).isSome

/-- A requester may write an NV register (R423). -/
def nvMayWrite (node : Byte) (fromRom : Bool) (n : Nat) : Bool :=
  if n < 0x40 then fromRom && node == 0x80 else isKeeperNode node

/-- NVR_WRITE (R421 to R423). -/
def execNvrWrite (node : Byte) (fromRom : Bool) (n : BitVec 9) (v : Reg32) (s : State) : Outcome :=
  .next (if s.power.mode != .off && nvMayWrite node fromRom n.toNat then s.nvOffer n.toNat v else s)

/-- NVR_COMMIT (R422, R425). -/
def execNvrCommit (ok : Bool) (s : State) : Outcome := .next (if s.power.mode = .off then s else s.nvCommit ok)

/-- Accepted writes count a utility tick. -/
def nvAge (l : List (Nat × Reg32 × Nat)) : List (Nat × Reg32 × Nat) :=
  (l.take 16).map (fun e => (e.1, e.2.1, e.2.2 + 1)) ++ l.drop 16

/-- The queued writes up to the last whose 40 µs are over, its register within its endurance (R422, R424, R425). -/
def nvDue (r : Rram) (q : List (Nat × Reg32 × Nat)) : Nat :=
  q.zipIdx.foldl (fun m e =>
    if 40 ≤ e.1.2.2 ∧ (Sparse.get 0 r.nvWear e.1.1).toNat ≤ nvEndurance then e.2 + 1 else m) 0

/-- The writes that a power loss or a reset finds in the queue survive up to a free place, those accepted 40 µs before among them,
and the wear of the others as it may (R425, log entry 1). -/
def nvSurvive (fresh : Nat) (r : Rram) : Rram :=
  let q := r.nvQueue.take 16
  let k := max (nvDue r q) (Config.freeCount fresh % (q.length + 1))
  let done := (q.take k).foldl (fun m e => Sparse.set 0 m e.1 e.2.1) r.nvCommitted
  let wear := (q.drop k).zipIdx.foldl (fun m e =>
    if Config.freeBool (fresh + 1 + e.2) then m
    else Sparse.set 0 m e.1.1 (Sparse.get 0 m e.1.1 - 1)) r.nvWear
  { r with nvCommitted := if q.isEmpty then r.nvCommitted else done, nvShadow := if q.isEmpty then r.nvCommitted else done,
           nvWear := if q.isEmpty then r.nvWear else wear, nvQueue := [] }

/-! ### The Accession Log engine (R427 to R430) -/

/-- A slot's SEQ. -/
def recSeq (r : AlogRec) : Nat := ofBytesBE (r.take 4)

/-- A record is valid (R427). -/
def recValid (r : AlogRec) : Bool :=
  decide (ofBytesBE (r.drop 252) = recSeq r ^^^ 0x5EA15EA1) && decide (ofBytesBE ((r.drop 248).take 4) = crc32 (r.take 248))

/-- The record being written is sealed, and the next is taken up (R428). -/
def State.sealRecord (s : State) : State :=
  match s.alog.writing with
  | some r =>
    { s with
      alog := { s.alog with writing := none }
      rram := { s.rram with ring := Sparse.set alogBlank s.rram.ring (recSeq r % 16384) r } }.alogStart
  | none => s

/-- RECORD_SEAL (R428). -/
def execRecordSeal (s : State) : Outcome := .next s.sealRecord

/-- The later of two SEQ values, modulo 2^32 (R429). -/
def laterSeq (a b : Nat) : Nat := if (a + 2 ^ 32 - b) % 2 ^ 32 < 2 ^ 31 then a else b

/-- The SEQ after the highest valid one in the ring; 0 where there is none. -/
def nextSeq (ring : Sparse AlogRec) : Reg32 :=
  match (ring.filter (fun e => recValid e.2)).map (fun e => recSeq e.2) with
  | [] => 0
  | a :: l => BitVec.ofNat 32 (l.foldl laterSeq a + 1)

/-- LOG_SCAN (R429): the waiting records are accepted; the first carries the records lost in the previous power-up. -/
def State.logScan (lostBefore : Nat) (s : State) : State :=
  let wait := s.alog.backlog
  let s1 := { s with alog := { s.alog with ready := true, next := nextSeq s.rram.ring, backlog := [] } }
  match wait with
  | [] => { s1 with alog := { s1.alog with lostSince := s1.alog.lostSince + lostBefore } }
  | e :: l => l.foldl (fun (s : State) r => s.alogAccept r.1 r.2) (s1.alogAccept e.1 (e.2 + lostBefore))

def execLogScan (lostBefore : Word) (s : State) : Outcome :=
  .next (if s.power.mode = .off ∨ s.alog.ready then s else s.logScan lostBefore.toNat)

/-- The ring after a power loss or a reset (R430): what is sealed survives; the slot being written holds a free part of
the new record, and is not sealed (log entry 1). -/
def alogSurvive (fresh : Nat) (a : Alog) (ring : Sparse AlogRec) : Sparse AlogRec :=
  match a.writing with
  | some r =>
    let i := recSeq r % 16384
    let n := Config.freeCount fresh % 253
    Sparse.insert ring i (r.take n ++ ((Sparse.get alogBlank ring i).take 252).drop n ++ List.replicate 4 0)
  | none => ring

/-! ### The write ports (R432) -/

/-- The queue takes no further record. -/
def State.alogFull (s : State) : Bool :=
  if s.alog.ready then decide (64 ≤ s.alog.queue.length) else decide (64 ≤ s.alog.backlog.length)

def alogPort (k : Fin 4) (o : Nat) : Nat := alogBase + 0x100 + 0x100 * k.val + o

/-- The body bytes of a Keeper's write port. -/
def State.alogBody (s : State) (k : Fin 4) (len : Nat) : List Byte :=
  ((List.range 56).flatMap (fun i => bytesLE 4 (s.regN (alogPort k (0x20 + 4 * i))))).take len

/-- A write of ALOG_WCTRLk: with GO, the port offers the record and ends (R432). -/
def State.alogWrite (k : Fin 4) (ctrl : Nat) (s : State) : State :=
  let s1 := s.writeReg (alogPort k 0) ctrl
  let code := field ctrl 0 16
  let len := field ctrl 16 8
  if !ctrl.testBit 31 then s1
  else if code < 0x8000 ∨ 224 < len then s1.setReg (alogPort k 4) 7
  else
    let body := s.alogBody k len
    (s1.offer (BitVec.ofNat 16 code) (BitVec.ofNat 8 (8 + k.val)) body).setReg (alogPort k 4) (b2n s.alogFull)

/-- ALOG_WRITE (R432). -/
def execAlogWrite (k : Fin 4) (ctrl : Reg32) (s : State) : Outcome :=
  .next (if s.power.mode = .off then s else s.alogWrite k ctrl.toNat)

/-- Byte `j` of the slot a read window shows (R432). -/
def State.windowSlot (s : State) (w : Nat) : AlogRec := Sparse.get alogBlank s.rram.ring (s.regN (alogBase + 0x40 + 4 * w) % 16384)

end Sys2Proof.Machine
end

