-- ==== Sys2Proof/Machine/Keepers.lean ====
section
/-! DEFINITION. Keepers as units (R347, R351, R357, R359, R463), claims (R352), watchdogs (R355) and the device interrupt
controller's commands (R370 to R376). -/

namespace Sys2Proof.Machine

/-! ### Images (R359) -/

def Rram.image (r : Rram) (b : Bool) : Sparse Byte := if b then r.imageB else r.imageA

/-- Bytes of an image slot. -/
def imgBytes (m : Sparse Byte) (a n : Nat) : List Byte := (List.range n).map (fun i => Sparse.get 0 m (a + i))

/-- A field of an image, most significant byte first. -/
def imgNum (m : Sparse Byte) (a n : Nat) : Nat := ofBytesBE (imgBytes m a n)

def imgVersion (m : Sparse Byte) : Nat := imgNum m 4 4
def imgCodeLen (m : Sparse Byte) : Nat := imgNum m 8 4
def imgDataLen (m : Sparse Byte) (k : Nat) : Nat := imgNum m (12 + 4 * k) 4
def imgEntry (m : Sparse Byte) (k : Nat) : Nat := imgNum m (28 + 2 * k) 2
def imgWdt (m : Sparse Byte) : Nat := imgNum m 36 2

/-- Where the data of Keeper `k` begin. -/
def imgDataAt (m : Sparse Byte) (k : Nat) : Nat :=
  256 + imgCodeLen m + ((List.range k).map (imgDataLen m)).sum

/-- The words of a run of bytes, without those that are 0. -/
def imgWords (m : Sparse Byte) (a len : Nat) : Sparse Word :=
  (List.range (len / 2)).filterMap (fun i =>
    let w : Word := BitVec.ofNat 16 (imgNum m (a + 2 * i) 2)
    if w = 0 then none else some (i, w))

/-- The image the Keepers run, as step 7 of R361 has given it to them. -/
def State.runImage (s : State) : Sparse Byte := s.boot.image

/-! ### Start and reset (R351, R357, R463) -/

/-- The processor of a Keeper that starts from an image. -/
def CpuState.keeperStart (pc : Word) : CpuState := { CpuState.zero with pc := pc, st := 0x8000, yz := false, w := CpuState.zero.w.set 15 0xF000 }

/-- A Keeper starts from the image (R351). -/
def State.startKeeper (k : Fin 4) (s : State) : State :=
  let m := s.runImage
  let banks : Sparse Word := [(0xFE05, 1), (0xFE06, 2), (0xFE07, 3)]
  s.modKeeper k (fun x =>
    { Keeper.zero with
      cpu := CpuState.keeperStart (BitVec.ofNat 16 (imgEntry m k.val)), io := banks, eff := banks, running := true
      dram := imgWords m (imgDataAt m k.val) (imgDataLen m k.val), lineWas := x.lineWas, wdStage2 := x.wdStage2
      wdLeft := x.wdLeft })

/-- A source leaves service; an L source still asserted is pending again at once (R373). -/
def State.dicLeave (n : Nat) (s : State) : State :=
  let m : BitVec 512 := 1#512 <<< n
  let s1 := { s with dic := { s.dic with insvc := s.dic.insvc &&& ~~~m, holder := Sparse.set 0 s.dic.holder n 0 } }
  if s.dic.level.getLsbD n then s1.dicPend n else s1

/-- Target `t` holds source `n`. -/
def State.dicHolds (s : State) (t n : Nat) : Bool :=
  s.dic.insvc.getLsbD n && decide ((Sparse.get 0 s.dic.holder n).toNat = t)

/-- Every source in service to a target is completed (R357, R402). -/
def State.dicCompleteAll (t : Nat) (s : State) : State :=
  ((List.range 512).foldl (fun (s : State) n => if s.dicHolds t n then s.dicLeave n else s) s).dicSettle

/-- KPR_WDCTRLk. -/
def wdAddr (k : Fin 4) (o : Nat) : Nat := kprBase + 0x300 + 0x10 * k.val + o
def State.wdEn (s : State) (k : Fin 4) : Bool := (s.regN (wdAddr k 0)).testBit 31

/-- A full count in utility ticks: TIMEOUT 0 acts as 1 (R355). -/
def State.wdFull (s : State) (k : Fin 4) : Nat := 1000 * max 1 (field (s.regN (wdAddr k 0)) 0 16)

/-- A Keeper is reset and held (R357): its claims are free, its sources completed, its watchdog off, and its outstanding far
accesses abandoned, a write among them landed or not as it stands. -/
def State.resetKeeper (k : Fin 4) (s : State) : State :=
  let s1 := s.modKeeper k (fun x => { Keeper.zero with lineWas := x.lineWas })
  (({ s1 with claims := s1.claims.filter (fun e => e.2 != some k),
              loam := s1.loam.filter (fun r => r.node != 0x80 + BitVec.ofNat 8 k.val) }).setRegField (wdAddr k 0) 31 1 0).dicCompleteAll k.val

/-- A write of KPR_RUN acts on the bits it changes, while hub main is powered (R463). -/
def State.kprRunBit (v : Nat) (s : State) (k : Fin 4) : State :=
  if k = 0 ∨ !s.power.hub then s
  else if v.testBit k.val && !(s.keeper k).running then s.startKeeper k
  else if !v.testBit k.val && (s.keeper k).running then s.resetKeeper k
  else s

def State.kprRun (v : Nat) (s : State) : State := ([1, 2, 3] : List (Fin 4)).foldl (State.kprRunBit v) s

/-- KPR_RUN_WRITE: from Keeper 0 alone. -/
def execKprRunWrite (node : Byte) (v : Reg32) (s : State) : Outcome :=
  .next (if s.power.mode != .off && node == 0x80 then s.kprRun v.toNat else s)

/-! ### Claims (R352) -/

/-- A read of KPR_CLAIMc. -/
def State.claimRead (node : Byte) (c : Nat) (s : State) : State × Nat :=
  match nodeKeeper node, Sparse.get none s.claims c with
  | some k, none => ({ s with claims := Sparse.set none s.claims c (some k) }, 2 ^ 31 + k.val)
  | some k, some j => (s, b2n (k == j) * 2 ^ 31 + j.val)
  | none, some j => (s, j.val)
  | none, none => (s, 0)

def execClaimRead (node : Byte) (c : Fin 64) (s : State) : Outcome :=
  .next (if s.power.mode = .off then s else let r := s.claimRead node c.val; r.1.reply r.2)

/-- A write of KPR_CLAIMc. -/
def State.claimFree (node : Byte) (c : Nat) (s : State) : State :=
  match nodeKeeper node, Sparse.get none s.claims c with
  | some k, some j => if k = j then { s with claims := Sparse.set none s.claims c none } else s
  | _, _ => s

def execClaimFree (node : Byte) (c : Fin 64) (s : State) : Outcome :=
  .next (if s.power.mode = .off then s else s.claimFree node c.val)

/-! ### Watchdogs (R355) -/

/-- The count begins anew. -/
def State.wdRestart (k : Fin 4) (stage2 : Bool) (s : State) : State :=
  s.modKeeper k (fun x => { x with wdStage2 := stage2, wdLeft := s.wdFull k })

/-- A write of KPR_WDKICKk. -/
def State.wdKick (k : Fin 4) (v : Word) (s : State) : State :=
  if s.wdEn k && v == 0xA5C3 then s.wdRestart k false else s

def execWatchdogKick (k : Fin 4) (v : Word) (s : State) : Outcome := .next (if s.power.mode = .off then s else s.wdKick k v)

/-- A write of KPR_WDCTRLk: EN is cleared only by a reset of the Keeper. -/
def State.wdWrite (k : Fin 4) (v : Nat) (s : State) : State :=
  let en := s.wdEn k
  let s1 := s.writeReg (wdAddr k 0) (if en then v ||| 2 ^ 31 else v)
  if !en && v.testBit 31 then s1.wdRestart k false else s1

/-- Stage 1 ends: WARN, its source, and stage 2 with a full count. -/
def State.wdWarn (k : Fin 4) (s : State) : State :=
  if s.wdEn k && !(s.keeper k).wdStage2 && (s.keeper k).wdLeft == 0 then
    ((s.setRegField (wdAddr k 8) 31 1 1).raiseP (20 + k.val)).wdRestart k true
  else s

def execWatchdogWarn (k : Fin 4) (s : State) : Outcome := .next (s.wdWarn k)

/-- Stage 2 has ended. -/
def State.wdExpired (s : State) (k : Fin 4) : Bool := s.wdEn k && (s.keeper k).wdStage2 && (s.keeper k).wdLeft == 0

/-- The WATCHDOG record (R431). -/
def State.wdRecord (k : Fin 4) (s : State) : State := s.offer 0x0030 Config.keeperOrigin (bytesBE 1 k.val)

/-! ### The device interrupt controller (R373, R374) -/

/-- A Keeper whose own claim or completion leaves its line asserted is raised again (R376). -/
def State.dicAgain (t : Nat) (was : Bool) (s : State) : State :=
  if h : t < 4 then
    if was && s.dicLine t then s.modKeeper ⟨t, h⟩ (fun x => { x with int := x.int.raise 0 }) else s
  else s

/-- A read of DIC_CLAIMt. -/
def State.dicClaim (t : Nat) (s : State) : State × Nat :=
  let n := s.dicBest t
  if n = 0 then (s, 0)
  else
    let m : BitVec 512 := 1#512 <<< n
    let s1 := { s with dic := { s.dic with
      pend := s.dic.pend &&& ~~~m, insvc := s.dic.insvc ||| m, released := s.dic.released &&& ~~~m
      holder := Sparse.set 0 s.dic.holder n (BitVec.ofNat 3 t) } }
    (s1.dicSettle.dicAgain t true, n)

def execDicClaim (t : Fin 8) (s : State) : Outcome :=
  .next (if s.power.hub then let r := s.dicClaim t.val; r.1.reply r.2 else s)

/-- A write of DIC_COMPLETEt. -/
def State.dicComplete (t n : Nat) (s : State) : State :=
  if s.dicHolds t n then (s.dicLeave n).dicSettle.dicAgain t (s.dicLine t) else s

def execDicComplete (t : Fin 8) (n : BitVec 9) (s : State) : Outcome :=
  .next (if s.power.hub then s.dicComplete t.val n.toNat else s)

/-- The L sources (R370, R420, R438, R457); a GPIO source is one in its level modes (R452). -/
def State.isLevel (s : State) (n : Nat) : Bool :=
  decide (5 ≤ n ∧ n ≤ 8 ∨ n = 12 ∨ n = 18 ∨ n = 19 ∨ n = 32 ∨ 66 ≤ n ∧ n ≤ 68 ∨ n = 70 ∨ 103 ≤ n ∧ n ≤ 108)
    || (decide (128 ≤ n ∧ n < 176) && decide (4 ≤ field (s.regN (gpioBase + 0x100 + 4 * (n - 128))) 13 3
        ∧ field (s.regN (gpioBase + 0x100 + 4 * (n - 128))) 13 3 ≤ 5))

/-- A write of DIC_SWSET: one event of a P source; an L source's pending bit follows its level alone (R372). -/
def State.dicSwset (n : Nat) (s : State) : State :=
  if n = 0 ∨ 512 ≤ n ∨ s.isLevel n then s else s.raiseP n

def execDicSwset (n : BitVec 9) (s : State) : Outcome := .next (if s.power.hub then s.dicSwset n.toNat else s)

def gcfgAddr (g : Nat) : Nat := dicBase + 0x2000 + 8 * g

/-- A group has reached its COUNT or its TIME (R374): 0 acts as 1. -/
def State.groupDue (s : State) (g : Nat) : Bool :=
  let cfg := s.regN (gcfgAddr g)
  decide (max 1 (field cfg 0 8) ≤ Sparse.get 0 s.dic.gEvents g)
    || (s.dic.gRunning.getLsbD g && decide (max 1 (field cfg 16 16) ≤ Sparse.get 0 s.dic.gElapsed g))

/-- The member sources of a group. -/
def State.groupMembers (s : State) (g : Nat) : BitVec 512 :=
  (List.range 512).foldl (fun (m : BitVec 512) n =>
    if dicGrouped (s.dicCfg n) && dicGroup (s.dicCfg n) == g then m ||| (1#512 <<< n) else m) 0

/-- A group fires: its pending members are released, its count and timer are 0. -/
def State.groupFire (g : Nat) (s : State) : State :=
  { s with dic := { s.dic with
    released := s.dic.released ||| (s.dic.pend &&& s.groupMembers g)
    gEvents := Sparse.set 0 s.dic.gEvents g 0, gElapsed := Sparse.set 0 s.dic.gElapsed g 0
    gRunning := s.dic.gRunning &&& ~~~(1#64 <<< g) } }

/-- GROUP_FIRE. -/
def execGroupFire (g : Fin 64) (s : State) : Outcome :=
  .next (if s.power.hub && s.groupDue g.val then (s.groupFire g.val).dicSettle else s)

/-- A write of DIC_SRCCFGn: a pending source that leaves its group is released at once (R374). -/
def State.dicConfig (n v : Nat) (s : State) : State := (s.writeReg (dicBase + 4 * n) v).dicSettle

/-- A write of DIC_GCFGg configures the group: its count and timer start anew. -/
def State.groupConfig (g v : Nat) (s : State) : State :=
  let s1 := s.writeReg (gcfgAddr g) v
  { s1 with dic := { s1.dic with
    gEvents := Sparse.set 0 s1.dic.gEvents g 0, gElapsed := Sparse.set 0 s1.dic.gElapsed g 0
    gRunning := s1.dic.gRunning &&& ~~~(1#64 <<< g) } }

/-- The DIC is restored (R375): levels as they stand, then the events that waited, in the order of their numbers. -/
def State.dicRestore (s : State) : State :=
  let s1 := (List.range 512).foldl (fun (s : State) n =>
    if s.isLevel n && !s.dic.insvc.getLsbD n then
      (if s.dic.level.getLsbD n then s.dicPend n
      else { s with dic := { s.dic with pend := s.dic.pend &&& ~~~(1#512 <<< n), released := s.dic.released &&& ~~~(1#512 <<< n) } })
    else s) s
  let s2 := (List.range 512).foldl (fun (s : State) n => if s1.dic.deferred.getLsbD n then s.dicPend n else s) s1
  { s2 with dic := { s2.dic with deferred := 0 } }.dicSettle

end Sys2Proof.Machine
end

