-- ==== Sys2Proof/Machine/Pads.lean ====
section
/-! DEFINITION. GPIO pads (R445 to R453, R460): who owns a pin, what drives it, its filtered level and its source. -/

namespace Sys2Proof.Machine

/-- A pin after a reset: an undriven input with a pull-up (R453). -/
def Pin.rest : Pin := { filt := true, raw := true, cnt := 0, owner := 0, switch := 0, held := none }

def State.pin (s : State) (n : Nat) : Pin := Sparse.get Pin.rest s.pins n
def State.modPin (n : Nat) (f : Pin → Pin) (s : State) : State := { s with pins := Sparse.modify Pin.rest s.pins n f }

def gpioOut (b : Nat) : Nat := gpioBase + 0x10 * b
def gpioOe (b : Nat) : Nat := gpioBase + 0x10 * b + 4
def gpioEn : Nat := gpioBase + 0x40
def gpioCfg (n : Nat) : Nat := gpioBase + 0x100 + 4 * n

/-- GPIO_EN's blocks in AON: I2C0, UART0, PWM0, TACH0, LED0 (R446). -/
def aonBlocks : Nat := 0x4451

/-- The bits of GPIO_EN that software reaches now (R446). -/
def State.gpioEnMask (s : State) : Nat := if s.power.hub then 0xFFFFF else aonBlocks

/-- The GPIO_EN bit of the priority-1 block of a pin (R447). -/
def pinFirst (n : Nat) : Option Nat :=
  if n = 0 ∨ n = 1 then some 0 else if n = 7 ∨ n = 8 then some 4 else if n = 11 then some 14
  else if n = 12 then some 6 else if n = 16 ∨ n = 17 then some 1 else if n = 23 ∨ n = 24 then some 2
  else if n = 25 ∨ n = 26 then some 5 else if n = 27 then some 7 else if n = 28 then some 11
  else if n = 29 then some 8 else if n = 30 then some 12 else if n = 31 then some 15
  else if n = 32 ∨ n = 33 then some 3 else if n = 34 then some 9 else if n = 35 then some 13
  else if n = 36 then some 16 else if n = 37 then some 17 else none

/-- The GPIO_EN bit of the priority-2 block of a pin (R447). -/
def pinSecond (n : Nat) : Option Nat :=
  if n = 13 then some 10 else if n = 32 then some 18 else if n = 33 then some 19 else none

/-- A block is enabled under a value of GPIO_EN. -/
def blockOn (en : Nat) : Option Nat → Bool | some b => en.testBit b | none => false

/-- The owner of a pin under a value of GPIO_EN (R447): 0 the GPIO logic, 1 or 2 a block. -/
def ownerOf (en n : Nat) : BitVec 2 :=
  if blockOn en (pinFirst n) then 1 else if blockOn en (pinSecond n) then 2 else 0

/-- The block that owns a pin, by its GPIO_EN bit. -/
def Pin.block (x : Pin) (n : Nat) : Option Nat :=
  if x.owner = 1 then pinFirst n else if x.owner = 2 then pinSecond n else none

/-- The logic that drives a pin is powered (R453). -/
def State.pinLogic (s : State) (n : Nat) : Bool :=
  if n < 16 then s.power.mode != .dormant && s.power.mode != .off else s.power.hub

def ledAddr (k : Nat) : Nat := gpioBase + 0x3A0 + 4 * k

/-- A port has a LINK bit of 1 (after R457). -/
def State.portLink (s : State) (p : Nat) : Bool := (List.range 4).any (fun m => s.subExists p m && (s.sub p m).link)

/-- An LED is lit (R455). -/
def State.ledLit (s : State) (k : Nat) : Bool :=
  let src := field (s.regN (ledAddr k)) 0 3
  if src = 1 then true else if src = 2 then s.portLink 0 else if src = 3 then s.portLink 1
  else if 4 ≤ src ∧ src ≤ 6 then s.periph.ledLit.getLsbD k else false

/-- What a block drives on its pin; I2C, UART and PWM waveforms within a bit or a period are not modelled (log entry
52). -/
def State.blockDrive (s : State) (b n : Nat) : Option Bool :=
  if 14 ≤ b then some (s.ledLit (b - 14) == (s.regN (ledAddr (b - 14))).testBit 3)
  else if 6 ≤ b ∧ b < 10 then (if field (s.regN (gpioBase + 0x380 + 4 * (b - 6))) 0 8 = 0 then some false else none)
  else if n = 7 ∨ n = 25 then some true
  else none

/-- What the pin's owner drives (R448, R449). -/
def State.ownerDrive (s : State) (n : Nat) : Option Bool :=
  match (s.pin n).block n with
  | some b => s.blockDrive b n
  | none => if (s.regN (gpioOe (n / 16))).testBit (n % 16) then some ((s.regN (gpioOut (n / 16))).testBit (n % 16)) else none

/-- What the device drives on a pad now (R451, R453); none: it is undriven. -/
def State.padDrive (s : State) (n : Nat) : Option Bool :=
  if !s.pinLogic n || (s.pin n).switch != 0 then (s.pin n).held else s.ownerDrive n

/-- A driven pad's level reaches its pin's synchroniser. -/
def State.padsSettle (s : State) : State :=
  if s.scanned then s else
    (List.range 48).foldl (fun (s : State) n =>
      match s.padDrive n with
      | some v => if (s.pin n).raw == v then s else s.modPin n (fun x => { x with raw := v })
      | none => s) s

/-- IRQ of a pin (R452). -/
def State.pinIrq (s : State) (n : Nat) : Nat := field (s.regN (gpioCfg n)) 13 3

/-- A level source follows its pin (R452). -/
def State.pinLevel (n : Nat) (s : State) : State :=
  let own := (s.pin n).owner == 0
  if s.pinIrq n = 4 then s.setLevel (128 + n) (own && (s.pin n).filt)
  else if s.pinIrq n = 5 then s.setLevel (128 + n) (own && !(s.pin n).filt)
  else if s.dic.level.getLsbD (128 + n) then s.setLevel (128 + n) false
  else s

/-- The filtered level of a pin changes to a level (R450, R452). -/
def State.pinChange (n : Nat) (v : Bool) (s : State) : State :=
  if (s.pin n).filt == v then s.modPin n (fun x => { x with raw := v, cnt := 0 })
  else
    let s1 := s.modPin n (fun x => { x with filt := v, raw := v, cnt := 0 })
    if (s.pin n).owner != 0 then s1
    else if s.pinIrq n = 3 ∨ s.pinIrq n = 1 ∧ v ∨ s.pinIrq n = 2 ∧ !v then s1.raiseP (128 + n)
    else s1.pinLevel n

/-- One utility tick of a pin's filter (R450). -/
def State.pinTick (s : State) (n : Nat) : State :=
  let x := s.pin n
  if x.raw == x.filt then (if x.cnt = 0 then s else s.modPin n (fun x => { x with cnt := 0 }))
  else if x.switch ≠ 0 then s
  else if field (s.regN (gpioCfg n)) 0 8 ≤ x.cnt + 1 then s.pinChange n x.raw
  else s.modPin n (fun x => { x with cnt := x.cnt + 1 })

def State.pinsTick (s : State) : State := if s.scanned then s else (List.range 48).foldl State.pinTick s

/-- One 384 MHz cycle of a switch in progress (R451): after the third the new owner drives, and the filter restarts. -/
def Pin.cycle (x : Pin) : Pin :=
  if x.switch = 0 then x
  else if x.switch = 1 then { x with switch := 0, held := none, cnt := 0 }
  else { x with switch := x.switch - 1 }

/-- One 384 MHz cycle of the switches in progress. -/
def State.pinsCycle (s : State) : State :=
  if s.pins.all (fun e => e.2.switch == 0) then s
  else
    let l : Sparse Pin := s.pins.map (fun e : Nat × Pin => (e.1, e.2.cycle))
    { s with pins := l }.padsSettle

/-- A pin's owner changes (R451); the pad holds its level meanwhile. -/
def State.switchPin (o : BitVec 2) (n : Nat) (s : State) : State :=
  if (s.pin n).owner = o then s
  else
    let lvl := s.padDrive n
    (s.modPin n (fun x => { x with owner := o, switch := 3, held := lvl })).pinLevel n

/-- GPIO_EN takes a value, and every pin its owner. -/
def State.setGpioEn (v : Nat) (s : State) : State :=
  (List.range 48).foldl (fun (s : State) n => s.switchPin (ownerOf v n) n) (s.setReg gpioEn v)

/-- The level a pad takes in its sleep state (R453). -/
def State.sleepLevel (s : State) (n : Nat) : Option Bool :=
  let m := field (s.regN (gpioCfg n)) 10 3
  if m = 0 then some false else if m = 1 then some true else if m = 5 then s.padDrive n else none

/-- A pin whose logic loses its power takes its sleep state (R453). -/
def State.sleepPin (s : State) (n : Nat) : State :=
  let lvl := s.sleepLevel n
  s.modPin n (fun x => { x with owner := 0, switch := 0, held := lvl })

/-- A pin whose logic returns passes to the GPIO logic (R453). -/
def State.wakePad (s : State) (n : Nat) : State := s.modPin n (fun x => { x with owner := 0, switch := 3 })

def State.padsSleep (l : List Nat) (s : State) : State := l.foldl State.sleepPin s
def State.padsWake (l : List Nat) (s : State) : State := l.foldl State.wakePad s

/-- Banks 1 and 2. -/
def hubPins : List Nat := (List.range 32).map (· + 16)

/-- Bank 0 enters DORMANT (R453): its pins pass to the GPIO logic, whose latches are at reset, those without WAKE in their sleep
states, the others as inputs. -/
def State.bankSleep (s : State) : State :=
  let s1 := (List.range 16).foldl (fun (s : State) n =>
    if (s.regN (gpioCfg n)).testBit 16 then s.modPin n (fun x => { x with owner := 0, switch := 0, held := none }) else s.sleepPin n) s
  ((s1.setReg gpioEn 0).setReg (gpioOut 0) 0).setReg (gpioOe 0) 0

/-- The pins of bank 0 that sleep in DORMANT: those without WAKE (R453). -/
def State.sleepers (s : State) : List Nat := (List.range 16).filter (fun n => !(s.regN (gpioCfg n)).testBit 16)

end Sys2Proof.Machine
end

