-- ==== Sys2Proof/Machine/Plinth.lean ====
section
/-! DEFINITION. UCIe links and their credit pools (R17, R378, R379, R388), and the Plinth site's reset, bring-up and
isolation (R401 to R404). -/

namespace Sys2Proof.Machine

/-! ### Links -/

/-- Modules of a link (R17): 0 RD0–HD, 1 RD1–HD, 2 RD0–RD1, 3 PS–HD. -/
def linkModules (l : Fin 4) : Nat := if l = 3 then 2 else 4

/-- The sending ends of a link: die and the link's number on it (before the LOAM_ registers). -/
def linkEnds (l : Fin 4) : List (Nat × Nat) :=
  if l = 0 then [(0, 0), (2, 0)] else if l = 1 then [(1, 0), (2, 1)] else if l = 2 then [(0, 1), (1, 1)] else [(2, 2)]

/-- The pools of a link (R388): four channels, and the forwarded pools of RD0–RD1. -/
def linkPools (l : Fin 4) : Nat := if l = 2 then 6 else 4

/-- The place of a pool in the table of pools. -/
def poolKey (die link p : Nat) : Nat := 64 * die + 8 * link + p

def Pool.zero : Pool := { avail := 0, held := 0, adv := 0 }
def State.pool (s : State) (key : Nat) : Pool := Sparse.get Pool.zero s.credits key

/-- What a link's receivers advertise for a pool (R388); a guest die's count is free between 16 and 255 (log entry 1). -/
def advertised (l : Fin 4) (fresh p : Nat) : Nat :=
  if l = 3 then 16 + Config.freeCount (fresh + p) % 240 else if 4 ≤ p then 32 else 96

/-- A link's modules and its pools are set. -/
def State.setLink (l : Fin 4) (up : Nat) (s : State) : State :=
  let was := s.links[l.val].up
  let s1 := { s with links := s.links.set l.val { up := up, retraining := 0 } }
  if (was = 0) = (up = 0) then s1
  else
    { s1 with
      fresh := s1.fresh + 4
      credits := ((linkEnds l).flatMap (fun e => (List.range (linkPools l)).map (fun p => (poolKey e.1 e.2 p, p)))).foldl
        (fun m e =>
          let n : Byte := if up = 0 then 0 else BitVec.ofNat 8 (advertised l s1.fresh e.2)
          Sparse.set Pool.zero m e.1 { avail := n, held := 0, adv := n }) s1.credits }

/-- The LINK record (R431). -/
def State.linkRecord (l : Fin 4) (s : State) : State :=
  s.offer 0x0040 4 (bytesBE 1 l.val ++ bytesBE 1 s.links[l.val].up ++ bytesBE 1 (b2n (s.links[l.val].up == 0)))

/-! ### The Plinth site -/

/-- The part has a guest die (R2). -/
def State.isP (s : State) : Bool := s.part == .sr16k128p || s.part == .sr16k064p

def hctrl : Nat := plnBase
def vwin (i o : Nat) : Nat := plnBase + 0x100 + 0x10 * i + o

/-- PLN_T_STATUS as a record carries it: the guest's own value is free (log entry 1). -/
def State.guestStatusWord (s : State) : Nat :=
  (Config.guestWord s.fresh 0).toNat + 65536 * (Config.guestWord s.fresh 1).toNat

/-- A request routed to the guest die (R393). -/
def LoamReq.toGuest (r : LoamReq) : Bool := inPlinth r.addr.toNat

/-- HD answers a request outstanding to PS with LINK_DOWN (R402). -/
def LoamReq.linkDown (r : LoamReq) : LoamReq := { r with got := true, status := 5, resp := [] }

/-- A slot's taps hold nothing for the guest die any longer, and its returns not yet sent are discarded (R402). -/
def SlotSt.dropTaps (x : SlotSt) : SlotSt :=
  { x with tapQ := [], tapDone := [], videoQ := x.videoQ.filter (fun d => d.returned.isNone),
           audioQ := x.audioQ.filter (fun d => d.returned.isNone) }

/-- A Plinth reset (R402). -/
def State.plinthReset (s : State) : State :=
  let s1 := (List.range 16).foldl (fun (s : State) i => s.setRegField (vwin i 0) 0 1 0) s
  let reqs : List LoamReq := (s1.loam.filter (fun r : LoamReq => r.node.toNat < 0xC0)).map (fun r : LoamReq =>
    if r.toGuest && !r.got then r.linkDown else r)
  let slots : Sparse SlotSt := s1.slots.map (fun e : Nat × SlotSt => (e.1, e.2.dropTaps))
  let s2 : State := { s1 with
    plinth := { s1.plinth with present := false, resetN := false, delivered := [] }, loam := reqs, slots := slots }
  ((List.range 4).foldl (fun (s : State) i => s.dicCompleteAll (4 + i)) (s2.setLink 3 0)).raiseP 73

/-- The PLINTH record (R431). -/
def State.plinthRecord (cause : Nat) (s : State) : State :=
  (s.offer 0x0050 6 (bytesBE 1 cause ++ bytesBE 4 s.guestStatusWord)).spend

/-- The site's rail is removed. -/
def State.plinthRailOff (s : State) : State :=
  { s with
    power := { s.power with on := s.power.on &&& ~~~(1#64 <<< 50) }
    plinth := { s.plinth with pwrGood := false, present := false, resetN := false } }

/-- A step of R401 fails. -/
def State.plinthFail (cause : Byte) (s : State) : State :=
  let s1 := s.plinthRailOff.setLink 3 0
  (({ s1 with plinth := { s1.plinth with isoCause := cause } }).plinthRecord cause.toNat).raiseP 71

/-- Steps 3 to 5 of R401 end with the site PRESENT. -/
def State.plinthPresent (s : State) : State :=
  let s1 := s.setLink 3 2
  { s1 with plinth := { s1.plinth with present := true, resetN := true, isolated := false, isoCause := 0, guest := [] } }

/-- PLINTH_RUN: a write of 1 to PLN_T_HCTRL.RUN (R402). `cause`: 0 where steps 3 to 5 of R401 pass, else the ISOCAUSE of
the step that fails; without PLN_PWRGOOD it is 0x01. -/
def State.plinthRun (cause : Byte) (s : State) : State :=
  if !s.isP then s
  else
    let s1 := s.setReg hctrl 1
    if s.plinth.present then s1
    else if !s.plinth.pwrGood then s1.plinthFail 1
    else if cause = 0 then s1.plinthPresent
    else s1.plinthFail cause

def execPlinthRun (cause : Byte) (s : State) : Outcome := .next (if s.power.hub then s.plinthRun cause else s)

/-- PLINTH_RESET: a write of 0 to PLN_T_HCTRL.RUN (R402). -/
def execPlinthReset (s : State) : Outcome :=
  .next (if s.power.hub && s.isP then (s.setReg hctrl 0).plinthReset else s)

/-- The guest die is isolated and its site reset (R403). -/
def State.isolate (cause : Byte) (s : State) : State :=
  let s1 := ((s.plinthRecord cause.toNat).setReg hctrl 0).plinthReset
  ({ s1 with plinth := { s1.plinth with isolated := true, isoCause := cause } }).raiseP 71

/-- ISOLATION: a malformed packet (4), with the flits that came, a credit overrun (5), messages (6) or FAULT (7). -/
def execIsolation (x : IsolationCause) (s : State) : Outcome :=
  .next (if s.isP && s.plinth.resetN
      && (x.cause == 4 && (readPacket x.flits).isNone || decide (5 ≤ x.cause.toNat ∧ x.cause.toNat ≤ 7)) then
    s.isolate x.cause else s)

/-- PLN_PWRGOOD falls or PLN_THERM reads 0b11 (R401, R418). -/
def State.plinthLoss (thermal : Bool) (s : State) : State :=
  let was := s.plinth.present
  let s1 := s.plinthReset.plinthRailOff
  let s2 := { s1 with plinth := { s1.plinth with isoCause := 8, therm := if thermal then 3 else s1.plinth.therm } }
  let s3 := if thermal then s2.setLevel 70 false else s2
  if was && !thermal then s3.raiseP 72 else s3

def execPlnPwrloss (thermal : Bool) (s : State) : Outcome :=
  .next (if s.isP && s.plinth.pwrGood then s.plinthLoss thermal else s)

/-- PLN_T_DBELL: a doorbell of the program's own code (R397). -/
def State.plnDbell (v : Nat) (s : State) : State :=
  if s.isP && s.plinth.present && s.power.mode != .plinthTest && decide (0x100 ≤ field v 16 16) then
    s.doorbell (Fin.ofNat 4 (v % 4)) (BitVec.ofNat 16 (field v 16 16)) 0 0
  else s

def execPlnTDbell (v : Reg32) (s : State) : Outcome := .next (if s.power.hub then s.plnDbell v.toNat else s)

/-! ### Messages (R397) -/

/-- A message is discarded and counted where it was to go (R391, R397); a guest die keeps its own count. -/
def State.dropMessage (dst : Byte) (s : State) : State :=
  if 0xC0 ≤ dst.toNat then s
  else (s.countReg (if dst.toNat < 0x80 then loamRdBase + 0x1000000 * (dst.toNat / 0x40) + 0x418 else loamHdBase + 0x418) 1).raiseP 52

/-- A message that R397 does not allow is discarded; more than 255 of a guest's in a second isolate it (R403). -/
def State.badMessage (node dst : Byte) (s : State) : State :=
  let s1 := s.dropMessage dst
  if node.toNat < 0xC0 then s1
  else
    let s2 := { s1 with plinth := { s1.plinth with msgBad := s1.plinth.msgBad + 1 } }
    if s2.plinth.msgBad = 256 ∧ s2.plinth.resetN then s2.isolate 6 else s2

/-- Every write and atomic a node has issued is complete (R386). -/
def State.writesDone (s : State) (node : Byte) : Bool :=
  s.loam.all (fun r => r.node != node || r.op == .rd)

/-- EVENT: one event of a DIC source 256 to 511; in PLINTH_TEST a guest's comes back to it (R397, R404). A message that fails its
parity, of another MTYPE, or sent to a node that does not take it, is discarded. -/
def State.eventMsg (node mtype dst : Byte) (marg : Word) (parityOk : Bool) (s : State) : State :=
  if !parityOk then s.dropMessage dst
  else if 0xC0 ≤ node.toNat ∧ s.power.mode = .plinthTest ∧ mtype = 1 then s.send (.message 1 node marg [])
  else if mtype = 1 ∧ dst = 0x8B ∧ 256 ≤ marg.toNat ∧ marg.toNat < 512 then s.raiseP marg.toNat
  else s.badMessage node dst

def execEvent (node : Byte) (m : EventMsg) (s : State) : Outcome :=
  .next (if s.power.hub && s.writesDone node && (node.toNat < 0xC0 || s.linkUp 3) then
    s.eventMsg node m.mtype m.dst m.marg m.parityOk else s)

/-- LINE: the level of an agent's DIC line, sent at each change and at link-up (R397). -/
def execLine (agent : Fin 4) (level : Bool) (s : State) : Outcome :=
  .next (if s.power.hub && s.linkUp 3 && s.power.mode != .plinthTest && s.dicLine (4 + agent.val) == level then
    s.send (.message 2 (0xC0 + BitVec.ofNat 8 agent.val) (if level then 0x8000 else 0) [])
  else s)

/-- DOORBELL: a message of HD to an agent (R397). -/
def execDoorbell (agent : Fin 4) (code : Word) (slot : Word) (idx : Reg32) (s : State) : Outcome :=
  .next (if s.power.hub && s.linkUp 3 && s.power.mode != .plinthTest then s.doorbell agent code slot idx else s)

end Sys2Proof.Machine
end

