-- ==== Sys2Proof/Machine/Power.lean ====
section
/-! DEFINITION. Power domains, the operating modes and their transitions, and the resets (R405 to R420, R361 steps 6 and
7, R437). -/

namespace Sys2Proof.Machine

/-! ### Domains (R405) -/

/-- The power domain of a register block. -/
inductive Domain where
  | aon | hub | die (d : Nat)
  deriving DecidableEq, Repr

/-- GPIO registers in AON (R446): bank 0, GPIO_EN, GPIO_STRAP, every GPIO_CFG, and the first block of each kind. -/
def gpioAon (o : Nat) : Bool :=
  decide (o < 0x10 ∨ 0x40 ≤ o ∧ o < 0x48 ∨ 0x100 ≤ o ∧ o < 0x1C0 ∨ 0x200 ≤ o ∧ o < 0x220 ∨ 0x300 ≤ o ∧ o < 0x310
    ∨ o = 0x380 ∨ o = 0x390 ∨ o = 0x3A0)

/-- The domain of a register address in the windows of RD0, RD1 and HD. -/
def regDomain (a : Nat) : Domain :=
  if a < 0x008001000000 then .die 0
  else if a < hdWindow then .die 1
  else if a < clkBase + 0x1000 then .aon
  else if a < kprBase then .hub
  else if a < loamHdBase then .aon
  else if a < pwrBase then .hub
  else if a < gpioBase then .aon
  else if a < monBase then (if gpioAon (a - gpioBase) then .aon else .hub)
  else if a < ethBase then .hub
  else if a < qmBase then .aon
  else if a < titleBase then .hub
  else .aon

/-- A register of the DIC, which keeps its state while hub main is off (R375). -/
def inDic (a : Nat) : Bool := decide (dicBase ≤ a ∧ a < dicBase + 0x4000)

/-- A register of a Curator or Beam Scheduler half that only die `d` has (R86, R110, R371). -/
def halfOwn (d a : Nat) : Bool :=
  decide (curBase ≤ a ∧ a < curBase + 0x10000 ∧ (a - curBase = 0x10 + 4 * d ∨ a - curBase = 0x18 + 4 * d
      ∨ (a - curBase) / 2 = (0x210 + 4 * d) / 2)
    ∨ curBase + 0x10000 + 0x20000 * d ≤ a ∧ a < curBase + 0x30000 + 0x20000 * d)

/-- The LOAM_ registers of a Raster die. -/
def loamBlock (d a : Nat) : Bool := decide (loamRdBase + 0x1000000 * d ≤ a ∧ a < loamRdBase + 0x1000000 * d + 0x1000)

/-- A register that goes with a Raster die: its own Loam block and, while the other die keeps the shared halves, its own
part of them. -/
def goesWith (d : Nat) (otherUp : Bool) (a : Nat) : Bool :=
  match regDomain a with
  | .die _ =>
    let half := decide (canonReg a = a ∧ a < 0x008000500000)
    loamBlock d a || half && (!otherUp || halfOwn d a)
  | _ => false

/-- The registers held by address that a test drops return to their reset values. -/
def State.dropRegs (p : Nat → Bool) (s : State) : State :=
  { s with
    regs := s.regs.filter (fun e => !p e.1), cnt64 := s.cnt64.filter (fun e => !p e.1)
    latch := s.latch.filter (fun e => !p e.1) }

/-- The memory bytes that a test drops are lost. -/
def State.dropMem (p : Nat → Bool) (s : State) : State :=
  { s with mem := s.mem.filter (fun e => !p e.1), bad := s.bad.filter (fun e => !p (2 * e.1)) }

/-- Addresses of a die's Gallery. -/
def inGallery (d a : Nat) : Bool :=
  decide (galleryFrame d 0 ≤ a / 4096 ∧ a / 4096 < galleryFrame d 0 + 0x10000)

/-- HD Gallery frames 64 and up (R405). -/
def inHubGallery (a : Nat) : Bool := decide (0x4020040 ≤ a / 4096 ∧ a / 4096 < 0x4024000)

/-- Bytes that AON keeps: HD Gallery frames 0 to 63 and the code store. -/
def inAonMem (a : Nat) : Bool :=
  decide (0x4020000 ≤ a / 4096 ∧ a / 4096 < 0x4020040 ∨ codeStoreBase ≤ a ∧ a < codeStoreBase + 0x80000)

/-- Frames of a pool leave their records, but for retired ones (R411, R412). -/
def State.dropFrames (p : Nat → Bool) (s : State) : State :=
  { s with
    frames := s.frames.filter (fun e => !p e.1 || e.2.pool == 3)
    galleryOrder := s.galleryOrder.filter (fun f => !p f) }

/-! ### Domains leave and return -/

/-- The monitor's state at reset, with the plug where it is. -/
def Monitor.rest (hpd : Bool) : Monitor :=
  { en := false, pending := false, live := [], written := [], hpd := hpd, link := false, lanes := 0, rate := 0 }

/-- The peripheral blocks of hub main at reset (R446). -/
def Periph.hubRest (x : Periph) : Periph :=
  { x with
    i2cBusy := x.i2cBusy &&& 1, i2cResult := ((x.i2cResult.set 1 0).set 2 0).set 3 0
    uartTx := x.uartTx.set 1 [], uartRx := x.uartRx.set 1 [], uartOvr := x.uartOvr &&& 1
    tachLast := ((x.tachLast.set 1 []).set 2 []).set 3 [], tachStall := x.tachStall ||| 14, ledLit := x.ledLit &&& 1 }

/-- Every group fires (R375). -/
def State.allGroupsFire (s : State) : State := (List.range 64).foldl (fun (s : State) g => s.groupFire g) s

/-- Hub main is powered down (R405, R412, R446). -/
def State.hubOff (s : State) : State :=
  let s1 := ([1, 2, 3] : List (Fin 4)).foldl (fun (s : State) k => s.resetKeeper k) s
  let s2 := (s1.padsSleep hubPins).setReg gpioEn (s1.regN gpioEn &&& aonBlocks)
  let s3 := ((s2.dropRegs (fun a => regDomain a == .hub && !inDic a)).dropMem inHubGallery).dropFrames
    (fun f => decide (0x4020040 ≤ f))
  { s3 with
    power := { s3.power with on := s3.power.on &&& ~~~2 }, monitor := Monitor.rest s3.monitor.hpd
    periph := s3.periph.hubRest
    dic := { s3.dic with level := (s3.dic.level ||| (7#512 <<< 106)) &&& ~~~(1#512 <<< 104) } }

/-- A Raster die's registers return to reset; its FIFOs are empty, and their sources with them (R370). -/
def State.dropHalf (d : Nat) (s : State) : State :=
  let other := s.power.stepOn (if d = 0 then 28 else 6)
  let s1 := s.dropRegs (goesWith d other)
  let s2 : State := { s1 with
    slipFifo := if d = 0 then s1.slipFifo.set 0 [] else s1.slipFifo.set 1 []
    haltFifo := if d = 0 then s1.haltFifo.set 0 [] else s1.haltFifo.set 1 []
    quarFifo := if other then s1.quarFifo else [] }
  let s3 := (s2.setLevel (if d = 0 then 5 else 6) false).setLevel (if d = 0 then 7 else 8) false
  if other then s3 else s3.setLevel 32 false

/-- The link to HD of a die. -/
def dieLink (d : Nat) : Fin 4 := if d = 0 then 0 else 1

/-- A Raster die's fabric, memory and groups lose their power; its Vault pairs stay in self-refresh (R412, R415). -/
def State.dieOff (d : Nat) (s : State) : State :=
  let s1 := (((s.dropHalf d).dropMem (inGallery d)).dropFrames (fun f => inGallery d (4096 * f)))
  let pairs : BitVec 64 := if d = 0 then 0xC else 0x30
  let s2 : State := { s1 with power := { s1.power with
    on := s1.power.on &&& ~~~(dieMask d &&& ~~~pairs), selfRefresh := s1.power.selfRefresh ||| (1#2 <<< d) } }
  (s2.setLink (dieLink d) 0).setLink 2 0

/-- Every dirty Gallery copy of a die is written back (R412). -/
def State.writeBackDie (d : Nat) (s : State) : State :=
  (s.frames.filter (fun e => e.2.home.isSome && inGallery d (4096 * e.1))).foldl
    (fun (s : State) e => s.writeBackFrame e.1) s

/-- The pool-4 frames that AON holds are the boot ROM's grants (R362). -/
def State.aonGrants (s : State) : State :=
  (List.range 64).foldl (fun (s : State) i =>
    if (s.frame (0x4020000 + i)).pool = 3 then s
    else s.putFrame (0x4020000 + i) { FrameRec.free with pool := 1, grant := true }) s

/-! ### Modes (R406, R408) -/

def Mode.code : Mode → Nat
  | .off => 0 | .bedrock => 1 | .ascent => 2 | .attended => 3 | .serving => 4 | .draining => 5 | .quiescent => 6
  | .dormant => 7 | .diagnostic => 8 | .plinthTest => 9 | .recovery => 10 | .sealed => 11

def Mode.ofCode (n : Nat) : Option Mode :=
  [Mode.off, .bedrock, .ascent, .attended, .serving, .draining, .quiescent, .dormant, .diagnostic, .plinthTest,
    .recovery, .sealed][n]?

/-- The modes in which the Keeper program runs, but for ASCENT. -/
def Mode.program (m : Mode) : Bool :=
  m == .attended || m == .serving || m == .draining || m == .quiescent || m == .diagnostic || m == .plinthTest

/-- The MODE record of a transition not caused by a request (R408, R431). -/
def State.modeRecord (old new : Mode) (s : State) : State :=
  if s.power.cause = 0 then s
  else s.offer 0x0003 1 (bytesBE 1 old.code ++ bytesBE 1 new.code ++ [s.power.cause])

/-- A slot is held. -/
def State.anySlot (s : State) : Bool := s.slots.any (fun e => e.2.ctx.isSome)

/-- The mode changes (R408). -/
def State.setMode (m : Mode) (s : State) : State :=
  let s1 := s.modeRecord s.power.mode m
  { s1 with power := { s1.power with mode := m } }

/-- The device arrives in a mode. -/
def State.arrive (m : Mode) (s : State) : State :=
  let s1 := s.setMode m
  let s2 : State := { s1 with
    power := { s1.power with transit := false, dieGoal := none }
    plinth := if m = .plinthTest then { s1.plinth with ram := [] } else s1.plinth }
  s2.raiseP 64

def State.setCause (c : Byte) (s : State) : State := { s with power := { s.power with cause := c } }

/-! ### Recovery, sealing and resets (R417, R437) -/

/-- Registers of Port 0's sub-ports 1 to 3 and of Port 1, in the SerDes domain. -/
def serdesReg (a : Nat) : Bool := decide (ethBase + 0x200 ≤ a ∧ a < ethBase + 0x20000)

/-- The levels whose conditions stand in AON: SUPPLY_LOW, the thermal levels, UART0, TACH and bank 0's pins. -/
def aonLevels : BitVec 512 := (7#512 <<< 66) ||| (1#512 <<< 103) ||| (15#512 <<< 105) ||| (0xFFFF#512 <<< 128)

/-- The units of the other domains stand as at reset. -/
def State.aonUnits (s : State) : State :=
  let r := State.reset
  { s with
    entryLatch := [], entryHold := [], ctxs := [], titles := [], flows := [], frames := [], galleryOrder := [], slots := []
    ports := r.ports, claims := [], dic := { r.dic with level := s.dic.level &&& aonLevels }, loam := [], credits := [], plinth := r.plinth
    links := r.links, slipFifo := r.slipFifo, haltFifo := r.haltFifo, mbqFifo := r.mbqFifo, quarFifo := []
    wakeFifo := [], subports := s.subports.filter (fun e => e.1 = 0)
    power := { s.power with
      on := 0, retained := false, selfRefresh := 0, dieUnavail := 0, transit := false, dieGoal := none
      heldWake := false } }

/-- Only AON goes on: every other domain is powered down, and contexts, titles and flow entries are lost. -/
def State.aonOnly (s : State) : State :=
  ((((s.resetKeeper 0).allGroupsFire.hubOff).dropRegs (fun a => regDomain a != .aon || serdesReg a)).dropMem
    (fun a => !inAonMem a)).aonUnits

/-! ### What the boot ROM sets up (R361 to R363) -/

/-- The value of a register the boot ROM sets as it chooses. -/
def State.romReg (a v : Nat) (s : State) : State :=
  { s with regs := Sparse.insert s.regs a (BitVec.ofNat 32 v) }

/-- The frame of HD Gallery frames 2 to 63 that item `i` of the boot ROM's placement names (R361 step 3, R362). -/
def ringFrame (i : Nat) : Nat := 0x4020002 + (Config.bootRing i).toNat % 62

/-- One ring of the Keeper rings: at 0x400 the receive ring, at 0x410 the transmit ring. Its frame and its length are free. -/
def State.bootRingAt (o i : Nat) (s : State) : State :=
  let a := ringFrame i * 4096
  (((s.romReg (clsBase + o) a).setReg (clsBase + o + 4) 0x40).romReg (clsBase + o + 8)
    (2 ^ 31 + 1 + (Config.bootRing (i + 1)).toNat % 128)).setReg (clsBase + o + 12) 0

/-- The receive ring's descriptors. -/
def State.rxBase (s : State) : Nat := s.regN (clsBase + 0x400) + 2 ^ 32 * s.regN (clsBase + 0x404)
def State.rxLen (s : State) : Nat := ringLen (s.regN (clsBase + 0x408))

/-- The word that gives a receive descriptor to the device: its buffer as it stands, or one of the boot ROM's choice. -/
def armWord (first : Bool) (m : List Host.Cell) (a i : Nat) : Nat :=
  2 ^ 63 + (if first then 4096 * ringFrame (4 + i) else ofBytesLE (memRead m a 6))

/-- The receive descriptors are the device's. -/
def armMem (first : Bool) (base n : Nat) (m : List Host.Cell) : List Host.Cell :=
  (List.range n).foldl (fun m i => memWrite m (base + 32 * i) (bytesLE 8 (armWord first m (base + 32 * i) i))) m

/-- The boot ROM gives the device every receive descriptor. -/
def State.bootRearm (first : Bool) (s : State) : State := { s with mem := armMem first s.rxBase s.rxLen s.mem }

/-- A local address: its VALID and V6 bits and its four words; it is enabled on Port 0, on Port 1 as the boot ROM chooses. -/
def State.bootLip (i : Nat) (valid v6 : Bool) (l : List Nat) (s : State) : State :=
  let a := clsBase + 0x100 + 0x20 * i
  let s1 := s.romReg a (b2n valid * 2 ^ 31 + b2n v6 * 2 ^ 30 + 2 ^ 28 + 2 ^ 29 * ((Config.bootRing 132).toNat % 2))
  (((s1.setReg (a + 4) (l.getD 0 0)).setReg (a + 8) (l.getD 1 0)).setReg (a + 12) (l.getD 2 0)).setReg (a + 16) (l.getD 3 0)

/-- The link-local IPv6 address formed from a MAC address (log entry 9). -/
def linkLocal (mac : Nat) : List Nat :=
  let hi := (mac / 2 ^ 24 % 2 ^ 24) ^^^ 0x020000
  [0xFE800000, 0, hi * 256 + 0xFF, 0xFE000000 + mac % 2 ^ 24]

/-- Step 3 of R361: the rings, DCPPORT and the local addresses. -/
def State.bootNet (s : State) : State :=
  let cfg := s.nvN 0x35
  let s1 := ((s.bootRingAt 0x400 0).bootRingAt 0x410 2).bootRearm true
  let s2 := s1.setReg clsBase (if cfg % 65536 = 0 then 21330 else cfg % 65536)
  ((s2.bootLip 0 (cfg.testBit 31) false [0, 0, 0, s.nvN 0x34]).bootLip 1 (cfg.testBit 30) true
    [s.nvN 0x36, s.nvN 0x37, s.nvN 0x38, s.nvN 0x39]).bootLip 2 true true (linkLocal (8 * Config.fusedMac.toNat))

/-- The boot ROM takes port 0's traffic and DCP back (R363, R417). -/
def State.bootRomAgain (s : State) : State :=
  { s.bootNet with boot := { s.boot with step := 4, version := 0 } }

/-- RECOVERY is entered (R408, R417). -/
def State.recoveryEntry (cause : Byte) (s : State) : State :=
  let held := (s.slots.filter (fun e => e.2.ctx.isSome)).length
  let s1 := if s.power.mode = .serving ∨ s.power.mode = .draining then s.offer 0x0005 1 (bytesBE 2 held) else s
  (s1.aonOnly.setCause cause).bootRomAgain.arrive .recovery

/-- The device is sealed (R418, R437): `record` is the cause of the SEALED record. -/
def State.sealNow (cause record : Byte) (s : State) : State :=
  ((s.offer 0x0070 1 [record]).aonOnly.setCause cause).bootRomAgain.arrive .sealed

/-- SEALED: a Device fault of R437; 0x01 is what the last module of an inner link leaves. -/
def State.sealFault (cause : Byte) (s : State) : State :=
  if s.power.mode = .off ∨ s.power.mode = .sealed then s else s.sealNow 9 cause

def execSealDevice (cause : Byte) (s : State) : Outcome :=
  .next (if 1 ≤ cause.toNat ∧ cause.toNat ≤ 3 then s.sealFault cause else s)

/-- A pin after a device reset: what stands on the pad stands on it still. -/
def Pin.afterReset (x : Pin) : Pin := { Pin.rest with filt := x.raw, raw := x.raw }

/-- What a supply or device reset leaves (R417): RRAM, and what lies outside the device. -/
def State.afterReset (s : State) : State :=
  let f := s.fresh
  let r := nvSurvive f s.rram
  let pins : Sparse Pin := s.pins.map (fun e : Nat × Pin => (e.1, e.2.afterReset))
  { State.reset with
    pending := s.pending, fresh := f + 20, wire := s.wire, answer := s.answer, part := s.part, client := s.client, pins := pins
    rram := { r with ring := alogSurvive (f + 18) s.alog r.ring }
    dic := { State.reset.dic with level := if s.power.supplyLow then State.reset.dic.level ||| (1#512 <<< 66)
      else State.reset.dic.level }
    monitor := Monitor.rest s.monitor.hpd
    power := { State.reset.power with vin := s.power.vin, supplyLow := s.power.supplyLow } }

/-- A device reset (R417). -/
def State.deviceReset (cause : Byte) (s : State) : State :=
  let s1 := s.afterReset.setCause cause
  s1.modeRecord s.power.mode .bedrock

/-- RESET_N low for 1 µs; the boundary register hides the pin while it has the pads (R445, R460). -/
def execResetN (s : State) : Outcome := .next (if s.power.mode = .off ∨ s.scanned then s else s.deviceReset 2)

/-- PWR_SWRESET (R417). -/
def State.swReset (node : Byte) (key : Nat) (s : State) : State :=
  if node = 0x80 ∧ key % 65536 = 0xD5A7 then s.deviceReset 3 else s

def execPwrSwreset (node : Byte) (key : Word) (s : State) : Outcome :=
  .next (if s.power.mode = .off then s else s.swReset node key.toNat)

/-- SUPPLY_ON (R408). -/
def execSupplyOn (s : State) : Outcome :=
  .next (if s.power.mode = .off then { s.afterReset with power := State.reset.power } else s)

/-- SUPPLY_LOSS (R419): every rail is removed at once. -/
def execSupplyLoss (s : State) : Outcome :=
  .next (if s.power.mode = .off then s
  else { s.afterReset with
    power := { State.reset.power with mode := .off }, monitor := Monitor.rest s.monitor.hpd, dic := State.reset.dic })

/-- SUPPLY_LOW (R419). -/
def State.inputLow (mv : Word) (s : State) : State :=
  let s1 : State := { s with power := { s.power with vin := mv, supplyLow := true } }
  if s.power.supplyLow then s1 else (s1.offer 0x0006 1 (bytesBE 2 mv.toNat)).setLevel 66 true

def execSupplyLow (mv : Word) (s : State) : Outcome :=
  .next (if s.power.mode = .off ∨ 11500 ≤ mv.toNat ∨ mv.toNat < 10800 then s else s.inputLow mv)

/-- SUPPLY_LOW_END (R419). -/
def execSupplyLowEnd (mv : Word) (s : State) : Outcome :=
  .next (if s.power.mode = .off ∨ mv.toNat < 11500 then s
  else { s with power := { s.power with vin := mv, supplyLow := false } }.setLevel 66 false)

/-! ### ASCENT (R409 to R411) -/

/-- The Raster die a step belongs to. -/
def stepDie (k : Nat) : Option Nat :=
  if (dieMask 0).getLsbD k then some 0 else if (dieMask 1).getLsbD k then some 1 else none

/-- The PWR_FAIL bit of a step (R410). -/
def failBit (k : Nat) : Nat :=
  if k = 1 then 0 else if k ≤ 5 then k - 1 else if k ≤ 27 then 5 else if k ≤ 49 then 6 else k - 43

/-- A step is run: its domain is off, not failed, enabled, and on the part. -/
def State.stepWanted (s : State) (k : Nat) : Bool :=
  !s.power.stepOn k && !s.power.fail.getLsbD (failBit k) && (k != 50 || s.isP)
    && (match stepDie k with
      | some d => s.power.dieEn.getLsbD d && !s.power.dieFailed.getLsbD d
      | none => s.power.mode == .ascent)

/-- The step ASCENT or a die's power-up stands at. -/
def State.nextStep (s : State) : Option Nat := ((List.range 52).map (· + 1)).find? s.stepWanted

/-- Steps run now. -/
def State.ascending (s : State) : Bool :=
  s.power.transit && (s.power.mode == .ascent || s.power.dieGoal.isSome && s.power.dieUnavail == 0)

/-- Both Raster fabrics are up: the link between them trains. -/
def State.joinDies (s : State) : State := if s.power.stepOn 6 && s.power.stepOn 28 then s.setLink 2 4 else s

/-- What VMOD0, VMOD1 and V3A carry their 3.3 V (R442). -/
def State.vmod0 (s : State) : Bool := s.power.mode != .off
def State.vmod1 (s : State) : Bool := s.power.stepOn 52 && s.power.mode != .sealed
def State.v3a (s : State) : Bool := s.power.mode != .off

/-- What a step brings beside its power. -/
def State.stepEffect (k : Nat) (s : State) : State :=
  if k = 1 then
    ((if s.power.warm then s else s.aonGrants).padsWake hubPins).dicRestore
  else if k = 6 then (s.setLink 0 4).joinDies
  else if k = 28 then (s.setLink 1 4).joinDies
  else if k = 7 then { s with power := { s.power with selfRefresh := s.power.selfRefresh &&& 2 } }
  else if k = 29 then { s with power := { s.power with selfRefresh := s.power.selfRefresh &&& 1 } }
  else if k = 50 then
    let s1 : State := { s with plinth := { s.plinth with pwrGood := true } }
    (s1.setReg hctrl 1).plinthPresent
  else s

/-- The MAC address of a sub-port as the boot ROM writes it (R361 step 2). -/
def State.bootMac (p m : Nat) (s : State) : State :=
  let v := 8 * Config.fusedMac.toNat + 4 * p + m
  (s.setReg (ethSub p m 0) v).setReg (ethSub p m 4) (v / 2 ^ 32)

/-- The image's code as the code store holds it, low byte first. -/
def State.loadCode (s : State) : State :=
  let m := s.runImage
  s.setBytes codeStoreBase ((List.range (imgCodeLen m / 2)).flatMap (fun i =>
    bytesLE 2 (imgNum m (256 + 2 * i) 2)))

/-- Step 7 of R361: the image is loaded and Keeper 0 started. -/
def State.handoff (s : State) : State :=
  let m := s.rram.image s.boot.slotB
  let s0 : State := { s with boot := { s.boot with image := m } }
  let s1 := (List.range 8).foldl (fun (s : State) i => s.bootMac (i / 4) (i % 4)) s0.loadCode
  let s2 := s1.offer 0x0001 0 (bytesBE 1 (b2n s.boot.slotB) ++ bytesBE 4 (imgVersion m) ++ bytesBE 4 (s.nvN nvrBootcnt))
  let s3 := (s2.setReg (wdAddr 0 0) (2 ^ 31 + imgWdt m)).wdRestart 0 false
  { s3 with boot := { s3.boot with step := 7, version := BitVec.ofNat 32 (imgVersion m) } }.startKeeper 0

/-- ASCENT ends: ATTENDED, and SERVING where the wake asked for it and a Raster die is up (R408, R414). -/
def State.ascentEnd (s : State) : State :=
  let cold := !s.power.warm
  let goal := s.power.goal
  let s0 : State := { s with power := { s.power with retained := false } }
  let s1 := s0.arrive .attended
  let s2 := if cold then s1.handoff else s1
  if goal = .serving ∧ (s.power.dieUp 0 ∨ s.power.dieUp 1) then s2.arrive .serving else s2

/-- PWR_RESULT takes a value. -/
def State.pwrResult (v : Byte) (s : State) : State := { s with power := { s.power with result := v } }

/-- A die change ends (R415). -/
def State.dieChangeEnd (s : State) : State :=
  ({ s with power := { s.power with transit := false, dieGoal := none } }.pwrResult 0).raiseP 69

/-- With no step left, the transition ends. -/
def State.stepsDone (s : State) : State :=
  if s.nextStep.isSome then s else if s.power.mode = .ascent then s.ascentEnd else s.dieChangeEnd

/-- ASCENT_STEP (R409): the step's domain reaches power-good, and the next begins. -/
def State.ascentStep (s : State) : State :=
  if !s.ascending then s
  else match s.nextStep with
    | some k =>
      let s1 : State := { s with power := { s.power with
        on := s.power.on ||| (1#64 <<< k), lastStep := BitVec.ofNat 8 k
        retained := s.power.retained && !(k == 6 || k == 28) } }
      (s1.stepEffect k).stepsDone
    | none => s.stepsDone

def execAscentStep (s : State) : Outcome := .next s.ascentStep

/-- A Raster die has failed (R410): the steps it has passed are powered down. -/
def State.dieFail (d : Nat) (s : State) : State :=
  let s1 := s.dieOff d
  let s2 := s1.dropMem (fun a => framePool s1.part (a / 4096) == some d)
  { s2 with power := { s2.power with
    on := s2.power.on &&& ~~~(dieMask d), selfRefresh := s2.power.selfRefresh &&& ~~~(1#2 <<< d)
    dieFailed := s2.power.dieFailed ||| (1#2 <<< d) } }

/-- STEPFAIL (R410); `cause`: the ISOCAUSE of a step of R401. -/
def State.stepFail (cause : Byte) (s : State) : State :=
  if !s.ascending then s
  else match s.nextStep with
    | some k =>
      let s0 := if k = 50 then s.plinthFail cause else s
      let s1 : State := { s0 with power := { s0.power with fail := s0.power.fail ||| (1#10 <<< failBit k) } }
      let s2 := (s1.offer 0x0004 1 (bytesBE 1 k ++ bytesBE 4 s1.power.fail.toNat)).raiseP 65
      if k = 1 then s2.recoveryEntry 7
      else match stepDie k with
        | some d => (s2.dieFail d).stepsDone
        | none => s2.stepsDone
    | none => s

/-- A domain fails while it is being powered down (R416): it is off, and counts as failed. -/
def State.descentFail (k : Nat) (s : State) : State :=
  if !s.power.transit ∨ s.power.mode = .ascent ∨ s.ascending ∨ k = 0 ∨ 52 < k ∨ !s.power.stepOn k then s
  else
    let s1 : State := { s with power := { s.power with
      on := s.power.on &&& ~~~(1#64 <<< k), fail := s.power.fail ||| (1#10 <<< failBit k) } }
    let s2 := (s1.offer 0x0004 1 (bytesBE 1 k ++ bytesBE 4 s1.power.fail.toNat)).raiseP 65
    match stepDie k with
    | some d => s2.dieFail d
    | none => s2

/-- STEPFAIL: a step of ASCENT, or a step whose domain fails where none is being powered up. -/
def execStepFail (x : StepFailure) (s : State) : Outcome :=
  .next (if s.ascending then s.stepFail x.cause else s.descentFail x.step.toNat)

/-- A cold ASCENT starts (R361 step 6, R411). -/
def State.coldAscent (s : State) : State :=
  let s1 : State := { s with ctxs := [], titles := [], flows := [] }
  let s2 := (s1.setCause 0).setMode .ascent
  { s2 with
    power := { s2.power with transit := true, warm := false, goal := .attended, ascents := s2.power.ascents + 1 }
    boot := { s2.boot with step := 6 } }

/-- A warm ASCENT starts (R411, R414). -/
def State.warmAscent (cause : Byte) (goal : Mode) (s : State) : State :=
  let dormant := s.power.mode == .dormant
  let s1 := (s.setCause cause).setMode .ascent
  let s2 : State := { s1 with power := { s1.power with
    transit := true, warm := true, goal := goal, heldWake := false, ascents := s1.power.ascents + 1 } }
  let s3 := if dormant then
      (s2.padsWake s2.sleepers).modKeeper 0 (fun x => { x with cpu := { x.cpu with w := x.cpu.w.set 0 1 } })
    else s2
  s3.raiseP 74

/-! ### Descent (R412 to R414) -/

/-- A descent starts. -/
def State.startDescent (m : Mode) (s : State) : State :=
  { s with power := { s.power with transit := true, goal := m } }

/-- The Plinth site goes first (R412 step 1). -/
def State.plinthDown (s : State) : State :=
  if s.power.stepOn 50 then (s.setReg hctrl 0).plinthReset.plinthRailOff else s

/-- A Raster die leaves service: into retention for QUIESCENT, off for DORMANT (R412). -/
def State.dieDescend (m : Mode) (d : Nat) (s : State) : State :=
  if !s.power.stepOn (if d = 0 then 6 else 28) then s
  else if m = .dormant then s.dieOff d
  else
    let pairs : BitVec 64 := if d = 0 then 0xC else 0x30
    let s0 := s.dropRegs (loamBlock d)
    let s1 : State := { s0 with power := { s0.power with
      on := s0.power.on &&& ~~~(dieMask d &&& ~~~pairs), retained := true
      selfRefresh := s0.power.selfRefresh ||| (1#2 <<< d) } }
    (s1.setLink (dieLink d) 0).setLink 2 0

/-- The SerDes and Port 0 lane 0 lose their power for DORMANT (R412). -/
def State.portsDown (s : State) : State :=
  let s1 := s.dropRegs serdesReg
  { s1 with subports := [], power := { s1.power with on := s1.power.on &&& ~~~(3#64 <<< 51) } }

/-- Descent into QUIESCENT or DORMANT, to its end (R412). -/
def State.descend (m : Mode) (s : State) : State :=
  let s1 := ((s.plinthDown.writeBackDie 0).writeBackDie 1).allGroupsFire.hubOff
  let s2 := (s1.dieDescend m 0).dieDescend m 1
  let s3 := if m = .dormant then s2.portsDown.bankSleep else s2
  let s4 := (s3.setCause 0).arrive m
  if s.power.heldWake then s4.warmAscent 0x0A .attended else s4

/-- A die is powered down (R415). -/
def State.dieDown (s : State) (d : Nat) : State :=
  if s.power.dieUnavail.getLsbD d then (if s.power.stepOn (if d = 0 then 6 else 28) then (s.writeBackDie d).dieOff d else s)
  else s

/-- DESCENT: the descent, or the power-downs of a die change, end (R412, R415). -/
def State.descentRow (s : State) : State :=
  if !s.power.transit ∨ s.power.mode = .ascent then s
  else if s.power.dieGoal.isSome then
    if s.power.dieUnavail = 0 then s
    else
      let s1 := (s.dieDown 0).dieDown 1
      let s2 : State := { s1 with power := { s1.power with dieUnavail := 0 } }
      s2.stepsDone
  else s.descend s.power.goal

def execDescent (s : State) : Outcome := .next s.descentRow

/-- DRAIN_END (R408): the first cycle in which no slot is held. -/
def execDrainEnd (s : State) : Outcome :=
  .next (if s.power.mode = .draining ∧ !s.power.transit ∧ !s.anySlot then
    (if s.power.after = .attended then (s.setCause 0).arrive .attended else s.startDescent s.power.after)
  else s)

/-- An event that wakes: at once, or held until the descent ends (R414, R416). -/
def State.wakeEvent (cause : Byte) (s : State) : State :=
  if s.power.mode = .quiescent ∨ s.power.mode = .dormant then s.warmAscent cause .attended
  else if s.power.transit ∧ (s.power.goal = .quiescent ∨ s.power.goal = .dormant) ∧ s.power.mode ≠ .ascent then
    { s with power := { s.power with heldWake := true } }
  else s

/-- WAKE_TIMER (R414). -/
def execWakeTimer (s : State) : Outcome :=
  .next (if s.power.mode = .dormant ∧ (s.regN (pwrBase + 0x10)).testBit 0
      ∧ s.regN (pwrBase + 0x14) ≤ s.clock.secs % 2 ^ 32 then s.warmAscent 0x0B .attended else s)

/-- A wake pin's event stands (R453): its IRQ mode names the level it has reached. -/
def State.wakeLevel (s : State) (n : Nat) : Bool :=
  (s.regN (gpioCfg n)).testBit 16 && (match s.pinIrq n with
    | 1 => (s.pin n).filt | 2 => !(s.pin n).filt | 3 => true | 4 => (s.pin n).filt | 5 => !(s.pin n).filt | _ => false)

/-- WAKE_PIN (R414, R453). -/
def execWakePin (pin : Fin 16) (s : State) : Outcome :=
  let toDormant := s.power.mode = .dormant ∨ s.power.transit ∧ s.power.goal = .dormant
  .next (if s.wakeLevel pin.val ∧ (¬ toDormant ∨ (s.regN (pwrBase + 0x10)).testBit 1) then s.wakeEvent 0x0A else s)

/-! ### Requests (R408) -/

/-- What a request does: its result, and the transition it begins. -/
inductive PowerAct where
  | result (r : Byte)
  | go (m : Mode)
  | drain (after : Mode)
  | after (m : Mode)
  | descend (m : Mode)
  | wake (m : Mode)
  | recover
  deriving DecidableEq, Repr

/-- PWR_REQ.AFTER of a request for DRAINING. -/
def drainAfter (after : Nat) : Mode := if after = 6 then .quiescent else if after = 7 then .dormant else .attended

/-- The table of R408 for requests. -/
def State.powerAct (s : State) (target : Option Mode) (after : Nat) : PowerAct :=
  if s.power.transit then .result 4
  else match s.power.mode, target with
    | .bedrock, some .recovery => .recover
    | .attended, some .serving => if s.power.dieUp 0 || s.power.dieUp 1 then .go .serving else .result 5
    | .attended, some .quiescent => if s.anySlot then .result 0xA else .descend .quiescent
    | .attended, some .dormant => if s.anySlot then .result 0xA else .descend .dormant
    | .attended, some .diagnostic => .go .diagnostic
    | .attended, some .plinthTest => if s.plinth.present then .go .plinthTest else .result 5
    | .attended, some .recovery => .recover
    | .serving, some .draining => .drain (drainAfter after)
    | .serving, some .attended => .drain .attended
    | .serving, some .quiescent => .drain .quiescent
    | .serving, some .dormant => .drain .dormant
    | .draining, some .serving => .go .serving
    | .draining, some .attended => .after .attended
    | .draining, some .quiescent => .after .quiescent
    | .draining, some .dormant => .after .dormant
    | .quiescent, some .attended => .wake .attended
    | .quiescent, some .serving => .wake .serving
    | .quiescent, some .recovery => .recover
    | .diagnostic, some .attended => .go .attended
    | .diagnostic, some .recovery => .recover
    | .plinthTest, some .attended => .go .attended
    | _, _ => .result 5

/-- A request is carried out; a result other than OK changes nothing else. -/
def State.powerDo (a : PowerAct) (s : State) : State :=
  match a with
  | .result r => s.pwrResult r
  | .go m => ((s.pwrResult 0).setCause 0).arrive m
  | .drain m =>
    let s1 : State := { s with power := { s.power with after := m } }
    ((s1.pwrResult 0).setCause 0).arrive .draining
  | .after m => { s with power := { s.power with after := m } }.pwrResult 0
  | .descend m => (s.pwrResult 0).startDescent m
  | .wake m => (s.pwrResult 0).warmAscent 0 m
  | .recover => (s.pwrResult 0).recoveryEntry 0

/-- A write of PWR_REQ by Keeper 0, or a DCP MODE as the same write. -/
def State.powerRequest (v : Nat) (s : State) : State :=
  let s1 : State := { s with power := { s.power with target := BitVec.ofNat 4 v } }
  (s1.powerDo (s.powerAct (Mode.ofCode (v % 16)) (field v 8 4))).raiseP 75

/-- POWER_REQUEST. -/
def execPowerRequest (node : Byte) (v : Reg32) (s : State) : Outcome :=
  .next (if node = 0x80 ∧ s.power.mode ≠ .off ∧ s.power.mode ≠ .dormant then s.powerRequest v.toNat else s)

/-! ### One Raster die (R415) -/

/-- A power-down of a die is refused. -/
def State.dieBusy (s : State) (d : Nat) : Bool :=
  s.slots.any (fun e => e.2.ctx.isSome && slotDie e.1 == d)
    || s.frames.any (fun e => e.2.grant && framePool s.part e.1 == some (2 + d))
    || s.ctxNos.any (fun c => s.ctxDie c == some (1 - d) && (s.ctx c).pages.any (fun e =>
        e.2.alloc && framePool s.part e.2.home.toNat == some d))
    || s.ctxNos.any (fun c => s.ctxDie c == some (1 - d) && s.titles.any (fun t =>
        t.1 == (s.ctx c).title.toNat && t.2.state == 1 && t.2.frames.any (fun f => framePool s.part f.toNat == some d)))

/-- The modes that power the Raster dies. -/
def Mode.dies (m : Mode) : Bool :=
  m == .attended || m == .serving || m == .draining || m == .diagnostic || m == .plinthTest

/-- A write of PWR_DIE by Keeper 0. -/
def State.pwrDie (v : Nat) (s : State) : State :=
  let new : BitVec 2 := BitVec.ofNat 2 v
  let set := fun (s : State) => { s with power := { s.power with dieEn := new } }
  if s.power.transit then s.pwrResult 4
  else if !s.power.mode.dies ∨ new = s.power.dieEn then set s
  else
    let downs := s.power.dieEn &&& ~~~new
    if downs.getLsbD 0 && s.dieBusy 0 || downs.getLsbD 1 && s.dieBusy 1 then s.pwrResult 0xA
    else
      let s1 := set s
      let s2 : State := { s1 with power := { s1.power with transit := true, dieGoal := some new, dieUnavail := downs } }
      if downs = 0 then s2.stepsDone else s2

/-- PWR_DIE_WRITE. -/
def execPwrDieWrite (node : Byte) (v : Reg32) (s : State) : Outcome :=
  .next (if node = 0x80 ∧ s.power.mode ≠ .off ∧ s.power.mode ≠ .dormant then s.pwrDie v.toNat else s)

/-! ### Watchdog stage 2 and temperature (R355, R356, R418) -/

/-- WATCHDOG. -/
def execWatchdog (k : Fin 4) (s : State) : Outcome :=
  .next (if s.wdExpired k then
    (if k = 0 then (s.wdRecord 0).recoveryEntry 4 else (s.resetKeeper k).wdRecord k)
  else s)

/-- The level of a junction reading (R418): 95, 105 and 115 °C, each left 3 °C below. -/
def thermLevel (old : BitVec 2) (v : Nat) : BitVec 2 :=
  if 580 ≤ v ∨ 2 ≤ old.toNat ∧ 568 < v then 2 else if 540 ≤ v ∨ 1 ≤ old.toNat ∧ 528 < v then 1 else 0

/-- The die of a reading is powered; HD is with AON. -/
def State.tempOn (s : State) (i : Fin 3) : Bool :=
  if i = 0 then s.power.stepOn 6 else if i = 1 then s.power.stepOn 28 else s.power.mode != .off

/-- One reading of a die. -/
def State.readTemp (i : Fin 3) (v : BitVec 10) (s : State) : State :=
  let v := if s.tempOn i then v else 0
  let hot := if 620 ≤ v.toNat then s.power.hot[i.val] + 1 else 0
  let lvl := if 3 ≤ hot then 3 else thermLevel s.power.level[i.val] v.toNat
  { s with power := { s.power with
    temp := s.power.temp.set i.val v, hot := s.power.hot.set i.val hot, level := s.power.level.set i.val lvl } }

/-- TEMPERATURE_READ (R418). -/
def State.temperatures (rd0 rd1 hd : BitVec 10) (ps : BitVec 2) (s : State) : State :=
  let s1 := ((s.readTemp 0 rd0).readTemp 1 rd1).readTemp 2 hd
  let above := fun (n : Nat) => decide (n ≤ s1.power.level[0].toNat ∨ n ≤ s1.power.level[1].toNat ∨ n ≤ s1.power.level[2].toNat)
  let s2 := (s1.setLevel 67 (above 1)).setLevel 68 (above 2)
  let on := s.isP && s.plinth.pwrGood
  let lv := if on then ps else 0
  let s3 : State := { s2 with
    plinth := { s2.plinth with therm := lv }, power := { s2.power with level := s2.power.level.set 3 lv } }
  let s4 := s3.setLevel 70 (lv == 1 || lv == 2)
  let s5 := if lv = 3 then s4.plinthLoss true else s4
  if above 3 ∧ s.power.mode ≠ .sealed then s5.sealNow 8 Config.sealHotCause else s5

def execTemperatureRead (rd0 rd1 hd : BitVec 10) (ps : BitVec 2) (s : State) : Outcome :=
  .next (if s.power.mode = .off then s else s.temperatures rd0 rd1 hd ps)

end Sys2Proof.Machine
end

