-- ==== Sys2Proof/Machine/Pins.lean ====
section
/-! DEFINITION. The commands of GPIO, straps, the peripheral blocks and the test access port (R446 to R457, R460). -/

namespace Sys2Proof.Machine

/-- A bank's or block's logic answers: bank 0 and the first blocks with AON, the others with hub main (R446). -/
def State.blockUp (s : State) (i : Nat) : Bool := if i = 0 then s.power.mode != .off else s.power.hub

/-! ### GPIO (R448 to R452) -/

/-- A masked write (R449). -/
def maskedWrite (old v : Nat) : Nat := mergeBits (field v 16 16) old (v % 65536)

/-- A write of GPIO_OUT or GPIO_OE. -/
def State.gpioWrite (bank : Nat) (oe : Bool) (v : Nat) (s : State) : State :=
  let a := if oe then gpioOe bank else gpioOut bank
  (s.setReg a (maskedWrite (s.regN a) v)).padsSettle

/-- GPIO_OUT_WRITE (R448, R449). -/
def execGpioOutWrite (bank : Fin 3) (oe : Bool) (v : Reg32) (s : State) : Outcome :=
  .next (if s.blockUp bank.val then s.gpioWrite bank.val oe v.toNat else s)

/-- A write of GPIO_EN (R446, R451). -/
def State.gpioEnWrite (v : Nat) (s : State) : State := s.setGpioEn (mergeBits s.gpioEnMask (s.regN gpioEn) v)

/-- GPIO_EN_WRITE (R451). -/
def execGpioEnWrite (v : Reg32) (s : State) : Outcome := .next (if s.power.mode = .off then s else s.gpioEnWrite v.toNat)

/-- A write of GPIO_CFGn: DEB restarts the filter (R450), IRQ governs the source (R452). -/
def State.cfgWrite (n v : Nat) (s : State) : State :=
  let v := if n < 16 then v else v - (v &&& 0x10000)
  ((s.writeReg (gpioCfg n) v).modPin n (fun x => { x with cnt := 0 })).pinLevel n

/-- The pin's filter runs: its logic is powered, or it is a wake pin in DORMANT (R453). -/
def State.filterUp (s : State) (n : Nat) : Bool :=
  s.pinLogic n || (s.power.mode == .dormant && decide (n < 16) && (s.regN (gpioCfg n)).testBit 16)

/-- DEBOUNCE_CHANGE (R450, R452): a level has stood for DEB utility ticks. A pad the device drives stays as driven. -/
def execDebounceChange (pin : Fin 48) (level : Bool) (s : State) : Outcome :=
  .next (if s.filterUp pin.val && !s.scanned && (s.pin pin.val).switch == 0
      && (s.padDrive pin.val).getD level == level then s.pinChange pin.val level else s)

/-- STRAP_SAMPLE (R454): once, at the first utility tick after ROOTLOCK; a pin read as 0 is asserted. -/
def execStrapSample (gpio9 gpio10 : Bool) (s : State) : Outcome :=
  .next (if s.power.mode != .off && s.clock.rootLock && !s.periph.strapped then
    { s with periph := { s.periph with strapped := true, straps := BitVec.ofNat 2 (b2n (!gpio9) + 2 * b2n (!gpio10)) } }
  else s)

/-! ### I2C (R455) -/

def i2cAddr (i o : Nat) : Nat := gpioBase + 0x200 + 0x20 * i + o

/-- The buffer's bytes. -/
def State.i2cBuf (s : State) (i : Nat) : List Byte := (List.range 4).flatMap (fun j => bytesLE 4 (s.regN (i2cAddr i (8 + 4 * j))))

/-- Lengths above 16 act as 16. -/
def i2cLen (v : Nat) : Nat := min 16 v

/-- A write of GPIO_I2Ci_CTRL. -/
def State.i2cGo (i : Fin 4) (ctrl : Nat) (s : State) : State :=
  let s1 := s.writeReg (i2cAddr i.val 0) ctrl
  if !ctrl.testBit 31 || s.periph.i2cBusy.getLsbD i.val then s1
  else
    let s2 : State := { s1 with periph := { s1.periph with i2cBusy := s1.periph.i2cBusy ||| (1#4 <<< i.val) } }
    if (s.regN gpioEn).testBit i.val && !s.scanned then
      s2.send (.i2c i (BitVec.ofNat 7 ctrl) ((s1.i2cBuf i.val).take (i2cLen (field ctrl 8 5))))
    else s2

/-- I2C_GO. -/
def execI2cGo (i : Fin 4) (ctrl : Reg32) (s : State) : Outcome := .next (if s.blockUp i.val then s.i2cGo i ctrl.toNat else s)

/-- The buffer takes bytes from its start. -/
def State.i2cFill (i : Nat) (rx : List Byte) (s : State) : State :=
  let l := rx ++ (s.i2cBuf i).drop rx.length
  (List.range 4).foldl (fun (s : State) j => s.setReg (i2cAddr i (8 + 4 * j)) (ofBytesLE ((l.drop (4 * j)).take 4))) s

/-- I2C_DONE: the transaction ends with its result; one that ends OK has read RLEN bytes, one that times out as many as have come. -/
def State.i2cDone (i : Fin 4) (result : BitVec 3) (rx : List Byte) (s : State) : State :=
  let n := i2cLen (field (s.regN (i2cAddr i.val 0)) 16 5)
  let s1 : State := { s with periph := { s.periph with
    i2cBusy := s.periph.i2cBusy &&& ~~~(1#4 <<< i.val), i2cResult := s.periph.i2cResult.set i.val result } }
  (if result = 0 ∨ result = 3 then s1.i2cFill i.val (rx.take n) else s1).raiseP (99 + i.val)

def execI2cDone (i : Fin 4) (result : BitVec 3) (rx : List Byte) (s : State) : Outcome :=
  .next (if s.blockUp i.val && s.periph.i2cBusy.getLsbD i.val && decide (result.toNat ≤ 3) then s.i2cDone i result rx
  else s)

/-! ### UART (R455, R457) -/

/-- UART0 or UART1's source follows its receive FIFO and OVR. -/
def State.uartLevel (k : Fin 2) (s : State) : State :=
  s.setLevel (103 + k.val) (!s.periph.uartRx[k.val].isEmpty || s.periph.uartOvr.getLsbD k.val)

/-- A byte is queued for transmission; a full FIFO discards it. -/
def State.uartPut (k : Fin 2) (b : Byte) (s : State) : State :=
  let q := s.periph.uartTx[k.val]
  if 16 ≤ q.length then s else { s with periph := { s.periph with uartTx := s.periph.uartTx.set k.val (q ++ [b]) } }

/-- UART_WRITE. -/
def execUartWrite (k : Fin 2) (b : Byte) (s : State) : Outcome := .next (if s.blockUp k.val then s.uartPut k b else s)

/-- The oldest received byte is taken. -/
def State.uartTake (k : Fin 2) (s : State) : State × Nat :=
  match s.periph.uartRx[k.val] with
  | b :: q =>
    let s1 : State := { s with periph := { s.periph with uartRx := s.periph.uartRx.set k.val q } }
    (s1.uartLevel k, 2 ^ 31 + b.toNat)
  | [] => (s, 0)

/-- UART_READ. -/
def execUartRead (k : Fin 2) (s : State) : Outcome :=
  .next (if s.blockUp k.val then let r := s.uartTake k; r.1.reply r.2 else s)

/-- A pin's owner sees and drives the pad: no switch is in progress, and the boundary register does not have it (R451, R460). -/
def State.pinOpen (s : State) (n : Nat) : Bool := (s.pin n).switch == 0 && !s.scanned

/-- The UART is enabled, and so owns its pins, TX the first. -/
def State.uartOn (s : State) (k : Fin 2) : Bool :=
  let n := if k = 0 then 7 else 25
  s.blockUp k.val && (s.regN gpioEn).testBit (4 + k.val) && s.pinOpen n && s.pinOpen (n + 1)

/-- A byte enters the receive FIFO, or is lost and sets OVR. -/
def State.uartGet (k : Fin 2) (b : Byte) (s : State) : State :=
  let q := s.periph.uartRx[k.val]
  let s1 : State := if q.length < 16 then
      { s with periph := { s.periph with uartRx := s.periph.uartRx.set k.val (q ++ [b]) } }
    else { s with periph := { s.periph with uartOvr := s.periph.uartOvr ||| (1#2 <<< k.val) } }
  s1.uartLevel k

/-- UART_RECEIVE. -/
def execUartReceive (k : Fin 2) (b : Byte) (s : State) : Outcome := .next (if s.uartOn k then s.uartGet k b else s)

/-- UART_TRANSMIT: the oldest queued byte has been sent. -/
def execUartTransmit (k : Fin 2) (s : State) : Outcome :=
  .next (if s.uartOn k then
    match s.periph.uartTx[k.val] with
    | b :: q => { s with periph := { s.periph with uartTx := s.periph.uartTx.set k.val q } }.send (.uart k b)
    | [] => s
  else s)

/-! ### TACH and LED (R455, R457) -/

/-- The tachometer owns its pin. -/
def State.tachOn (s : State) (k : Fin 4) : Bool :=
  let n := if k = 0 then 13 else if k = 1 then 28 else if k = 2 then 30 else 35
  s.blockUp k.val && (s.pin n).block n == some (10 + k.val) && s.pinOpen n

/-- GPIO_TACHk.PERIOD: the mean of the last two periods. -/
def State.tachPeriod (s : State) (k : Fin 4) : Nat :=
  match s.periph.tachLast[k.val] with
  | [a, b] => if s.periph.tachStall.getLsbD k.val ∨ 65534 < (a + b) / 2 then 0xFFFF else (a + b) / 2
  | _ => 0xFFFF

/-- TACH_EDGE: a falling edge `us` microseconds after the one before it. -/
def State.tachEdge (k : Fin 4) (us : Nat) (s : State) : State :=
  let l := us :: s.periph.tachLast[k.val].take 1
  { s with periph := { s.periph with
    tachLast := s.periph.tachLast.set k.val l, tachStall := s.periph.tachStall &&& ~~~(1#4 <<< k.val) } }.setLevel
    (105 + k.val) false

def execTachEdge (k : Fin 4) (us : Nat) (s : State) : Outcome := .next (if s.tachOn k then s.tachEdge k us else s)

/-- TACH_STALL. -/
def execTachStall (k : Fin 4) (s : State) : Outcome :=
  .next (if s.blockUp k.val then
    { s with periph := { s.periph with tachStall := s.periph.tachStall ||| (1#4 <<< k.val) } }.setLevel (105 + k.val) true
  else s)

/-- LED_BLINK: the blink timer toggles the LED, or its flash ends. -/
def State.ledBlink (k : Nat) (s : State) : State :=
  let src := field (s.regN (ledAddr k)) 0 3
  let m : BitVec 6 := 1#6 <<< k
  let lit := if src = 4 ∨ src = 5 then s.periph.ledLit ^^^ m else if src = 6 then s.periph.ledLit &&& ~~~m
    else s.periph.ledLit
  { s with periph := { s.periph with ledLit := lit } }.padsSettle

def execLedBlink (k : Fin 6) (s : State) : Outcome := .next (if s.blockUp k.val then s.ledBlink k.val else s)

/-! ### The test access port (R460, R417) -/

/-- The levels of the covered pads: GPIO0 to GPIO47, RESET_N, DP_HPD, and the AUX pair, which nothing drives. -/
def State.padLevels (s : State) : List Bool :=
  (List.range 48).map (fun n => (s.padDrive n).getD (s.pin n).raw) ++ [true, s.monitor.hpd, false, false]

/-- A list of levels as a number, the first in bit 0. -/
def levelBits : List Bool → Nat
  | [] => 0
  | b :: l => b2n b + 2 * levelBits l

/-- An instruction takes effect. While the boundary register has the pads, the device's logic keeps the levels it saw. -/
def State.jtagTake (i : JtagInstr) (dr : Nat) (s : State) : State :=
  let takes := i == .extest || i == .clamp || i == .highz
  let keep := if takes then (if s.scanned then s.jtag.frozen else s.padLevels) else []
  { s with jtag := { s.jtag with instr := i, dr := BitVec.ofNat 32 dr, frozen := keep } }.padsSettle

def State.jtagUp (s : State) : Bool := s.power.mode != .off

/-- BYPASS. -/
def execBypass (s : State) : Outcome := .next (if s.jtagUp then s.jtagTake .bypass 0 else s)

/-- IDCODE reads 0x1516AA43. -/
def execIdcode (s : State) : Outcome := .next (if s.jtagUp then (s.jtagTake .idcode 0x1516AA43).reply 0x1516AA43 else s)

/-- SAMPLE/PRELOAD: the pads are sampled, and the boundary register takes the shifted-in value. -/
def execSamplePreload (preload : List Bool) (s : State) : Outcome :=
  .next (if s.jtagUp then
    let s1 := (s.jtagTake .samplePreload 0).reply (levelBits s.padLevels)
    { s1 with jtag := { s1.jtag with bsr := preload.take 52 } }
  else s)

/-- EXTEST. -/
def execExtest (s : State) : Outcome :=
  .next (if s.jtagUp then (s.jtagTake .extest 0).reply (levelBits s.padLevels) else s)

/-- CLAMP selects the bypass register. -/
def execClamp (s : State) : Outcome := .next (if s.jtagUp then s.jtagTake .clamp 0 else s)

/-- HIGHZ selects the bypass register. -/
def execHighz (s : State) : Outcome := .next (if s.jtagUp then s.jtagTake .highz 0 else s)

/-- TRST_N (R417, R461). -/
def execTrstN (s : State) : Outcome :=
  .next (if s.jtagUp then { s with jtag := State.reset.jtag }.padsSettle else s)

end Sys2Proof.Machine
end

