-- ==== Sys2Proof/Machine/Queues.lean ====
section
/-! DEFINITION. The rows of the queue manager and the ports: dequeuing and credits (R326 to R328), release of bands,
markers and audio packets (R102, R269, R293, R295), port control and link (R316), the flow table (R322), control pushes
(R325) and the Keeper transmit ring (R330, R340). -/

namespace Sys2Proof.Machine

/-! ### The Keeper transmit ring -/

/-- Where a PTP message lies in a frame (R340). -/
def ptpAt (l : List Byte) : Option Nat :=
  let f := parseFrame l
  if f.svlan ∨ 1 < f.tags then none
  else if f.etype = 0x88F7 then some f.off
  else if f.etype = 0x0800 ∧ byteAt l f.off = 0x45 ∧ byteAt l (f.off + 9) = 17 ∧ be16 l (f.off + 22) = 319 then
    some (f.off + 28)
  else if f.etype = 0x86DD ∧ byteAt l (f.off + 6) = 17 ∧ be16 l (f.off + 42) = 319 then some (f.off + 48)
  else none

/-- Bytes of a list replaced from a place on. -/
def putBytes (l : List Byte) (i : Nat) (v : List Byte) : List Byte := l.take i ++ v ++ l.drop (i + v.length)

/-- One-step insertion of the transmit timestamp (R340). -/
def oneStep (c : Clock) (l : List Byte) : List Byte :=
  match ptpAt l with
  | some i =>
    if (byteAt l i).toNat % 16 ≤ 1 then
      let corr := (ofBytesBE ((l.drop (i + 8)).take 8) + c.frac) % 2 ^ 64
      let l1 := putBytes (putBytes (putBytes l (i + 34) (bytesBE 6 c.secs)) (i + 40) (bytesBE 4 c.nanos)) (i + 8)
        (bytesBE 8 corr)
      let f := parseFrame l
      if f.etype = 0x0800 ∧ be16 l (f.off + 26) ≠ 0 then
        putBytes l1 (f.off + 20) (udpBytes ((l1.drop (f.off + 12)).take 4) ((l1.drop (f.off + 16)).take 4)
          (be16 l1 (f.off + 20)) (be16 l1 (f.off + 22)) ((l1.drop (f.off + 28)).take (be16 l1 (f.off + 24) - 8)))
      else if f.etype = 0x86DD then
        putBytes l1 (f.off + 40) (udpBytes ((l1.drop (f.off + 8)).take 16) ((l1.drop (f.off + 24)).take 16)
          (be16 l1 (f.off + 40)) (be16 l1 (f.off + 42)) ((l1.drop (f.off + 48)).take (be16 l1 (f.off + 44) - 8)))
      else l1
    else l
  | none => l

/-- The frame of the transmit head as it is sent, but for its pad and FCS (R330). -/
def State.ktxFrame (s : State) : List Byte :=
  let l := s.agentBytes 2 s.ktxBuf s.ktxLen
  let l1 := if s.ktxFlags.testBit 1 then fillChecksums l else l
  if s.ktxFlags.testBit 2 then oneStep s.stampClock l1 else l1

/-- The transmit head's frame leaves. -/
def State.sendKeeper (s : State) : State :=
  let bytes := s.ktxFrame
  if s.subUp s.ktxPort s.ktxSub && s.fits s.ktxPort s.ktxSub bytes then
    ((s.putOnWire s.ktxPort s.ktxSub bytes).agentRead nodeQm s.ktxBuf s.ktxLen).ktxReturn s.ktxLen (some s.stampClock)
  else s

/-- The head of the transmit ring is found owned. -/
def State.ktxPoll (s : State) : State :=
  if s.ringOwned 0x410 && s.ktxReady.isNone then { s with ktxReady := some s.clock.time } else s

/-- TRANSMIT_RING_POLL (R330). -/
def execTransmitRingPoll (s : State) : Outcome := .next s.ktxPoll

/-- KEEPER_TRANSMIT (R330): a frame of a bad length is written back with LEN 0; another leaves in its turn. -/
def execKeeperTransmit (s : State) : Outcome :=
  let s1 := s.ktxPoll
  .next (if s1.ktxReady.isNone || !s1.ringOwned 0x410 then s1
    else if s1.ktxLen < 60 ∨ 4096 < s1.ktxLen then s1.ktxReturn 0 none
    else if (s1.chooseNext s1.ktxPort s1.ktxSub).map (·.item) = some .keeper then s1.sendKeeper else s1)

/-! ### Dequeuing -/

/-- The packet chosen on a sub-port leaves. -/
def State.sendItem (i : TxItem) (s : State) : State :=
  match i with
  | .audio k => s.sendAudio k
  | .band k => s.sendFragment k
  | .marker k => s.sendMarker k
  | .control k => s.sendControl k
  | .keeper => s.sendKeeper

/-- PACKET_DEQUEUE (R326). -/
def execPacketDequeue (port : Fin 2) (sub : Fin 4) (s : State) : Outcome :=
  .next (match s.chooseNext port sub with | some e => s.sendItem e.item | none => s)

/-- TRANSMIT_END (R328): the oldest packet on the wire returns its credits. -/
def execTransmitEnd (port : Fin 2) (sub : Fin 4) (s : State) : Outcome :=
  let x := s.sub port sub
  .next (match x.held with
    | n :: l => ((s.setSub port sub { x with held := l }).addCnt (ethSub port sub 0x80) 1).addCnt (ethSub port sub 0x88)
        (max 60 n + 4)
    | [] => s)

/-- An item is the one its sub-port takes next. -/
def State.isNext (s : State) (i : TxItem) : Bool :=
  (s.chooseNext (s.itemSub i).1 (s.itemSub i).2).map (·.item) == some i

/-- A session packet leaves now: its sub-port takes it next, or its release instant has come and it is discarded there, whatever waits
before it (R327). -/
def State.goes (s : State) (k : Nat) (i : TxItem) : Bool :=
  s.isNext i || (s.slotCands k).any (fun e => e.item == i && s.undeliverable (s.itemFlow i))

/-- The fragments of a slot's first band leave while the order gives them the sub-port. -/
def State.sendBand (k : Nat) : Nat → State → State
  | 0, s => s
  | fuel + 1, s =>
    if s.goes k (.band k) then
      let s1 := s.sendFragment k
      match (s.slot k).videoQ.head?, (s1.slot k).videoQ.head? with
      | some d, some d' =>
        if d'.frame = d.frame ∧ d'.band = d.band ∧ d.sentFragments < d'.sentFragments then State.sendBand k fuel s1
        else s1
      | _, _ => s1
    else s

/-- The first band of a slot is late or not. -/
def State.headLate (s : State) (k : Nat) : Option Bool := (s.slot k).videoQ.head?.map (·.late)

/-- BAND_RELEASE (R293): a band on time, at its release instant. -/
def execBandRelease (c : CtxNo) (s : State) : Outcome :=
  .next (match s.heldSlot c with
    | some k => if s.headLate k = some false then s.sendBand k 256 else s
    | none => s)

/-- LATE_BAND_SEND (R102): a late band, after its marker. -/
def execLateBandSend (c : CtxNo) (s : State) : Outcome :=
  .next (match s.heldSlot c with
    | some k => if s.headLate k = some true then s.sendBand k 256 else s
    | none => s)

/-- MARKER_SEND (R295). -/
def execMarkerSend (c : CtxNo) (s : State) : Outcome :=
  .next (match s.heldSlot c with
    | some k => if s.goes k (.marker k) then s.sendMarker k else s
    | none => s)

/-- AUDIO_PACKET_RELEASE (R269). -/
def execAudioPacketRelease (c : CtxNo) (s : State) : Outcome :=
  .next (match s.heldSlot c with
    | some k => if s.goes k (.audio k) then s.sendAudio k else s
    | none => s)

/-! ### Books -/

/-- The credit books of one sub-port latched (R328). -/
def State.snapSub (p m : Nat) (s : State) : State :=
  let a := qmBase + 0x10 + 0x10 * (4 * p + m)
  ((s.setReg a (s.creditFree p m)).setReg (a + 4) (s.creditHeld p m)).setReg (a + 8)
    (s.creditTotal p m)

/-- The credit books of all eight sub-ports latched. -/
def State.qmSnap (s : State) : State := (List.range 8).foldl (fun (s : State) i => s.snapSub (i / 4) (i % 4)) s

/-- QM_BOOK_SNAP (R328). -/
def execQmBookSnap (s : State) : Outcome := .next (if s.power.hub then s.qmSnap else s)

/-! ### Port control and link (R316) -/

/-- The sub-ports of a port have their books at FREE = TOTAL. -/
def State.clearPort (p : Nat) (s : State) : State :=
  (List.range 4).foldl (fun (s : State) m => s.setSub p m { s.sub p m with held := [] }) s

/-- A write of ETH_PCTRL. -/
def State.portControl (p v : Nat) (s : State) : State :=
  let a := ethAddr p 0
  let old := s.regN a
  let new := v &&& 0xFB
  if !s.serdes then
    if p = 0 then s.setReg a (new - new % 4 + 2) else s
  else if field old 4 4 = 0 ∧ new % 4 ≠ old % 4 then (s.setReg a new).clearPort p
  else s.setReg a (new - new % 4 + old % 4)

/-- PORT_CONTROL_WRITE (R316). -/
def execPortControlWrite (port : Fin 2) (v : Reg32) (s : State) : Outcome :=
  .next (if s.power.mode = .off then s else s.portControl port v.toNat)

/-- LINK_CHANGE (R319, R370): a LINK bit that changes raises the port's source. -/
def execLinkChange (port : Fin 2) (sub : Fin 4) (up : Bool) (s : State) : Outcome :=
  let x := s.sub port sub
  .next (if s.subExists port sub && x.link != up then
    (s.setSub port sub { x with link := up, align := up }).raiseP (13 + port.val) else s)

/-! ### The flow table (R322) -/

/-- The ten data registers as an entry. -/
def State.flowData (s : State) : FlowWords := (List.range 10).map (fun i => s.reg (clsBase + 0x20 + 4 * i))

/-- The fields that make a key (R321). -/
def flowKey (f : FlowWords) : Nat × Nat × Nat × List Nat × Bool × Nat :=
  (b2n (flowV6 f), flowLip f, flowWord f 1, (List.range 4).map (fun w => flowWord f (5 + w)), flowVlan f,
    if flowVlan f then field (flowWord f 2) 16 12 else 0)

/-- The masks of the writable fields of words 0 to 9. -/
def flowMasks : List Nat :=
  [0xFCF00000, 0xFFFFFFFF, 0xEFFFFCFF, 0x0000FFFF, 0xFFFFFFFF, 0xFFFFFFFF, 0xFFFFFFFF, 0xFFFFFFFF, 0xFFFFFFFF, 0]

/-- The result of a WRITE: 0 OK, 1 DUP, 7 BAD_ARG. -/
def State.flowCheck (s : State) (n : Nat) (f : FlowWords) : Nat :=
  if !flowValid f then 0
  else if !s.lipUsable f || (!flowV6 f && (flowWord f 5 + flowWord f 6 + flowWord f 7 != 0)) then 7
  else if s.flows.any (fun e => e.1 != n && flowValid e.2 && flowKey e.2 == flowKey f) then 1
  else 0

/-- The entry a WRITE leaves. -/
def flowStored (f : FlowWords) : FlowWords :=
  (f.zip flowMasks).map (fun e => e.1 &&& BitVec.ofNat 32 e.2)

/-- A READ of the entry that ETH_FT_CTX names. -/
def State.flowRead (s : State) : State :=
  let f := s.flowEntry (BitVec.ofNat 18 (s.regN (clsBase + 0x10)))
  ((List.range 10).foldl (fun (s : State) i => s.setReg (clsBase + 0x20 + 4 * i) (flowWord f i)) s).setReg
    (clsBase + 0x18) 0

/-- FLOW_READ (R322). -/
def execFlowRead (s : State) : Outcome := .next (if s.power.mode = .off then s else s.flowRead)

/-- A WRITE of entry `c` (R322, R331). -/
def State.flowWrite (c : CtxNo) (f : FlowWords) (s : State) : State :=
  let r := s.flowCheck c.toNat f
  if r ≠ 0 then s.setReg (clsBase + 0x18) r
  else
    let g := flowStored f
    let s1 := { s with flows := Sparse.set [] s.flows c.toNat (if g.all (· == 0) then [] else g) }
    let s2 := if s.admitted c then
        match s.heldSlot c with
        | some k => s1.modSlot k (fun x => { x with flowNew := some g })
        | none => s1
      else s1
    s2.setReg (clsBase + 0x18) 0

/-- FLOW_WRITE (R322). -/
def execFlowWrite (s : State) : Outcome :=
  .next (if s.power.mode = .off then s else s.flowWrite (BitVec.ofNat 18 (s.regN (clsBase + 0x10))) s.flowData)

/-! ### Control pushes (R325) -/

/-- The result of a control push: 0 OK, 1 FULL, 2 NOQ, 7 BAD_ARG. A slot whose context is still ADMITTING takes it (DESIGN CHOICE,
log entry 68). -/
def State.pushCheck (s : State) (k len : Nat) : Nat :=
  if len = 0 ∨ 8960 < len then 7
  else if (s.slot k).ctx.isNone || (s.slot k).upper then 2
  else if 16 ≤ (s.slot k).controlQ.length then 1
  else 0

/-- A write of 1 to QM_CTL_OP.GO. -/
def State.controlPush (s : State) : State :=
  let k := s.regN (qmBase + 0x200)
  let len := s.regN (qmBase + 0x20C)
  let r := s.pushCheck k len
  let d : CtlDesc := { buf := BitVec.ofNat 48 (s.regN (qmBase + 0x204) + 2 ^ 32 * s.regN (qmBase + 0x208)), len := len,
                       pushed := s.clock.time, flow := s.flowEntry (s.slotCtx k) }
  (if r = 0 then s.modSlot k (fun x => { x with controlQ := x.controlQ ++ [d] }) else s).setReg (qmBase + 0x214) r

/-- CONTROL_PUSH (R325). -/
def execControlPush (s : State) : Outcome := .next (if s.power.hub then s.controlPush else s)

end Sys2Proof.Machine
end

