-- ==== Sys2Proof/Machine/System.lean ====
section
/-! DEFINITION. System instructions and register moves (R113, R149), and the interrupt and timer rows (R166, R175, R176). -/

namespace Sys2Proof.Machine

/-- NOP. -/
def execNop (p : Cpu) (s : State) : Outcome := s.instr p Op.nop

/-- FENCE: a session's stores have completed by the end of their own counts (R127, log entry 31); a Keeper waits for every far
access that has no response yet (R139). -/
def execFence (p : Cpu) (s : State) : Outcome :=
  s.instr p { Op.nop with stall := (s.cpu p).farWait (fun _ => true) }

/-- A write of ST.IE at the mode-change distance (R126). -/
def State.writeIe (p : Cpu) (b : Bool) (s : State) : Outcome :=
  s.instr p { Op.nop with
    reads := [.status], writes := [.status], solo := true
    effect := fun t => (t.modCpu p (fun u =>
      { u.pendMode (.ie b) with st := BitVec.ofNat 16 (mergeBits 0x10 u.st.toNat (b2n b * 16)) }), true) }

/-- DI. -/
def execDi (p : Cpu) (s : State) : Outcome := s.writeIe p false

/-- EI. -/
def execEi (p : Cpu) (s : State) : Outcome := s.writeIe p true

/-- MFST: fields as last written (R126). -/
def execMfst (p : Cpu) (d : RegNo) (s : State) : Outcome :=
  let v := (s.cpu p).st
  s.instr p { Op.nop with
    reads := [.status], writes := [.reg d], effect := fun t => (t.modCpu p (·.write d v), true) }

/-- ST written whole (R113): the flags at once, YZ, IL and IE at the mode-change distance. -/
def CpuState.writeSt (v : Word) (u : CpuState) : CpuState :=
  let st := stWritten u.st v
  { ((u.pendMode (.yz (wbit st 14))).pendMode (.il (stLevel st))).pendMode (.ie (wbit st 4)) with st := st }

/-- MTST. -/
def execMtst (p : Cpu) (r : RegNo) (s : State) : Outcome :=
  let v := (s.cpu p).read r
  s.instr p { Op.nop with
    reads := [.reg r, .status], writes := [.status], solo := true
    effect := fun t => (t.modCpu p (·.writeSt v), true) }

/-- The operation of PUSH: w15 is ILLEGAL (R144). -/
def State.pushOp (p : Cpu) (r : RegNo) (s : State) : Op :=
  let u := s.cpu p
  let a := u.read 15 - 1
  let v := u.read r
  { Op.nop with
    cycles := accessCount .d true false a.toNat, reads := [.reg r, .reg 15], writes := [.reg 15]
    acc := dReach a.toNat, solo := writesMode .d [(a.toNat, v)]
    fault := if r = 15 then some faultIllegal else s.wordFault p .d true a.toNat
    early := fun t => t.clearEarly p .d [(a.toNat, v)]
    effect := fun t => let q := t.dStore p a.toNat v; (if q.2 then q.1.modCpu p (·.write 15 a) else q.1, q.2) }

/-- PUSH. -/
def execPush (p : Cpu) (r : RegNo) (s : State) : Outcome := s.instr p (s.pushOp p r)

/-- The operation of POP: a load under R120; w15 is ILLEGAL. -/
def State.popOp (p : Cpu) (d : RegNo) (s : State) : Op :=
  let a := (s.cpu p).read 15
  { Op.nop with
    cycles := accessCount .d false false a.toNat, reads := [.reg 15], writes := [.reg d, .reg 15], isLoad := true
    acc := dReach a.toNat
    fault := if d = 15 then some faultIllegal else s.wordFault p .d false a.toNat
    effect := fun t =>
      match t.dLoad p a.toNat with
      | (t1, some v) => (t1.modCpu p (fun u => (u.loadRegs [(d, v)]).write 15 (a + 1)), true)
      | (t1, none) => (t1, false) }

/-- POP. -/
def execPop (p : Cpu) (d : RegNo) (s : State) : Outcome := s.instr p (s.popOp p d)

/-- MTX: seen by the next instruction. -/
def execMtx (p : Cpu) (n : Fin 4) (r : RegNo) (s : State) : Outcome :=
  let v := (s.cpu p).read r
  s.instr p { Op.nop with
    reads := [.reg r], solo := true
    effect := fun t => (t.modCpu p (fun u => { u with x := u.x.set n.val v }), true) }

/-- MFX. -/
def execMfx (p : Cpu) (d : RegNo) (n : Fin 4) (s : State) : Outcome :=
  let v := (s.cpu p).x[n.val]
  s.instr p { Op.nop with
    writes := [.reg d], effect := fun t => (t.modCpu p (·.write d v), true) }

/-! ### Interrupt and timer rows -/

/-- A processor whose program can store now: it executes (R142, R160, R348). -/
def State.storeReady (s : State) (p : Cpu) : Bool :=
  match p with
  | .session c => s.programs c
  | .keeper k => (s.keeper k).running && s.keeperClocked k && !(s.keeper k).cpu.halted && !(s.keeper k).cpu.waiting

/-- INT_SET (R166): a store raises the sources of its bits. -/
def execIntSet (p : Cpu) (bits : Word) (s : State) : Outcome :=
  .next (if s.storeReady p then s.modInt p (·.raiseSet bits) else s)

/-- TIMER_ARM (R175): a store of INT_TnCTRL with EN 1. -/
def execTimerArm (p : Cpu) (n : Fin 2) (ctrl : Word) (s : State) : Outcome :=
  .next (if s.storeReady p && wbit ctrl 0 then
    s.modInt p (fun i => i.write (isKeeper p) (if n = 0 then 0xFB10 else 0xFB14) ctrl)
  else s)

/-- The timer a row names. -/
def IntSt.timer (i : IntSt) (n : Fin 2) : TimerSt := if n = 0 then i.t0 else i.t1

/-- Cycles to the start of the next line, or of the next frame. -/
def Session.toStart (frame : Bool) (x : Session) : Nat :=
  if frame then (if x.vcyc = 0 then 0 else x.frameCycles - x.vcyc) else (x.cpl - x.vcyc % x.cpl) % x.cpl

/-- TIMER_START (R175): the start cycle of an armed timer is reached. -/
def execTimerStart (p : Cpu) (n : Fin 2) (s : State) : Outcome :=
  .next (match p with
    | .session c =>
      let t := s.sesD c TimerSt.zero (fun x => x.int.timer n)
      if s.live c && t.en && t.armed then
        let s1 := s.passIdle c (s.sesD c 0 (·.toStart (t.start == 2)))
        if s1.sesD c false (fun x => x.toStart (t.start == 2) == 0) then s1.modSes c (·.startTimers) else s1
      else s
    | .keeper _ => s)

/-- TIMER_EXPIRY (R176): a processor that waits or has halted comes to the expiry by itself. -/
def execTimerExpiry (p : Cpu) (n : Fin 2) (s : State) : Outcome :=
  let i := s.int p
  let chained := n = 1 ∧ i.t1.chain
  let t := if chained then i.t0 else i.timer n
  let k := t.toExpiry + (if chained then (full16 i.t1.count - 1) * (full16 i.t0.reload * i.t0.pre) else 0)
  .next (if t.running && (i.timer n).running then
    match p with
    | .session c => s.passIdle c k
    | .keeper n => if s.active p && (s.cpu p).waiting then s.waitCycles n k else s
  else s)

end Sys2Proof.Machine
end

