-- ==== Sys2Proof/Machine/LoamRegs.lean ====
section
/-! DEFINITION. The register windows (R8, R393): for each block, what a 32-bit read answers and does, and what a write
does. Addresses are those of the first window that shows a register. -/

namespace Sys2Proof.Machine

/-! ### Shared forms -/

/-- A register held by address is read; its RC bits clear. -/
def State.readStored (a : Nat) (s : State) : State × Nat :=
  let v := s.regN a
  let rc := (regDesc (canonReg a)).rc
  (if v &&& rc = 0 then s else s.setReg a (v - (v &&& rc)), v)

/-- Half of a 64-bit register: the low half latches the high one (R52). -/
def State.read64 (a v : Nat) (s : State) : State × Nat :=
  if a % 8 = 0 then ({ s with latch := Sparse.set 0 s.latch (a + 4) (BitVec.ofNat 32 (v / 2 ^ 32)) }, v % 2 ^ 32)
  else (s, (Sparse.get 0 s.latch a).toNat)

/-- An answer that changes nothing. -/
def State.shows (v : Nat) (s : State) : State × Nat := (s, v)

/-- What a read that replies has replied. -/
def State.replied (s : State) : State × Nat := (s, s.answer.toNat)

/-! ### Raster windows -/

/-- Curator registers (R86, R87, R438). -/
def State.curReadReg (o : Nat) (s : State) : State × Nat :=
  if o = 0x48 ∨ o = 0x100 then s.shows 0
  else if o = 0x210 ∨ o = 0x214 then (s.clearStall (curBase + o), s.stallTime (curBase + o))
  else if o = 0x300 then s.quarRead
  else if 0x10000 ≤ o ∧ 8 ≤ o % 16 then s.shows (s.stallTime (curBase + o))
  else s.readStored (curBase + o)

def State.curWriteReg (node : Byte) (o v : Nat) (s : State) : State :=
  if o = 0x48 then (match nodeKeeper node with | some k => s.curOp k (v % 256) | none => s)
  else if o = 0x100 then s.curSnap
  else s.writeReg (curBase + o) v

/-- A write of BSC_CCMD_OP (R38 to R41); other codes end with BAD_ARG. -/
def State.portOp (p : Fin 4) (op : Nat) (s : State) : State :=
  let q := s.ports[p.val]
  let c := q.ctx
  let n : CtxNo := q.args[0].setWidth 18
  let a : LoamAddr := BitVec.ofNat 48 (q.args[0].toNat + 2 ^ 32 * q.args[1].toNat)
  let go := fun (r : Nat × State) => s.command p c q.args.toList op r
  if op = 1 then go (s.createAt c)
  else if op = 2 then go (s.admitAt c (q.args[0].toNat % 16384))
  else if op = 3 then go (s.suspendAt c)
  else if op = 4 then go (s.snapAt p c n none)
  else if op = 5 then go (s.snapAt p c n (some (q.args[1].toNat % 16384)))
  else if op = 6 then go (s.exportAt c a)
  else if op = 7 then go (s.returnAt c)
  else if op = 8 then go (s.importAt c a)
  else if op = 9 then go (s.retireAt c)
  else if op = 10 then go (s.releaseCtx c)
  else go (7, s)

/-- BSC_CCMD_STAT. -/
def Port.stat (q : Port) : Nat := b2n q.busy * 2 ^ 31 + q.lastOp.toNat * 2 ^ 16 + (if q.busy then 0 else q.result.toNat)

/-- Beam Scheduler registers on the Raster dies. -/
def State.bscReadReg (o : Nat) (s : State) : State × Nat :=
  if o < 0x100 then
    let p : Fin 4 := Fin.ofNat 4 (o / 0x40)
    let q := s.ports[p.val]
    let r := o % 0x40
    s.shows (if r = 0 then q.ctx.toNat else if r = 4 then q.args[0].toNat else if r = 8 then q.args[1].toNat
      else if r = 12 then q.args[2].toNat else if r = 0x14 then q.stat else 0)
  else if 0x110 ≤ o ∧ o < 0x120 then s.read64 (bscBase + o) (s.pixUsed ((o - 0x110) / 8))
  else if 0x210 ≤ o ∧ o < 0x290 then
    s.read64 (bscBase + o) (s.regN (bscBase + o / 8 * 8) + 2 ^ 32 * s.regN (bscBase + o / 8 * 8 + 4))
  else if o = 0x300 then (s.slipRead 0).replied
  else if o = 0x304 then (s.slipRead 1).replied
  else if o = 0x310 then (s.haltRead 0).replied
  else if o = 0x314 then (s.haltRead 1).replied
  else if 0x400 ≤ o then s.shows (s.issueUsed ((o - 0x400) / 4))
  else s.readStored (bscBase + o)

def State.bscWriteReg (o v : Nat) (s : State) : State :=
  if o < 0x100 then
    let p : Fin 4 := Fin.ofNat 4 (o / 0x40)
    let r := o % 0x40
    if s.ports[p.val].busy then s
    else if r = 0 then s.modPort p (fun q => { q with ctx := BitVec.ofNat 18 v })
    else if r = 4 then s.modPort p (fun q => { q with args := q.args.set 0 (BitVec.ofNat 32 v) })
    else if r = 8 then s.modPort p (fun q => { q with args := q.args.set 1 (BitVec.ofNat 32 v) })
    else if r = 12 then s.modPort p (fun q => { q with args := q.args.set 2 (BitVec.ofNat 32 v) })
    else if r = 0x10 then s.portOp p (v % 256)
    else s
  else if o = 0x120 then
    let s1 := s.writeReg (bscBase + o) v
    if v.testBit 31 then s1.placeQuery (BitVec.ofNat 18 v) else s1
  else if o = 0x200 then (s.snapBooks 0).snapBooks 1
  else s.writeReg (bscBase + o) v

/-- Session mailboxes of a die (R354). -/
def State.mbReadReg (slot r : Nat) (s : State) : State × Nat :=
  match s.mailSlot slot with
  | some c =>
    if r = 8 then s.shows (s.sesD c 0 (fun x => x.mb.outbox.toNat % 2 ^ 32))
    else if r = 12 then s.mailRead slot
    else s.shows 0
  | none => s.shows 0

def State.mbWriteReg (slot r v : Nat) (s : State) : State :=
  if r = 0 then s.mailLow slot (BitVec.ofNat 32 v) else if r = 4 then s.mailCommit slot (BitVec.ofNat 32 v) else s

/-- The link that a die numbers `l` (before the LOAM_ registers). -/
def dieLinkNo (die l : Nat) : Option (Fin 4) :=
  if die = 2 then (if l = 0 then some 0 else if l = 1 then some 1 else if l = 2 then some 3 else none)
  else if l = 0 then some (dieLink die) else if l = 1 then some 2 else none

/-- The pools of a die latched (R388): how many flits are on the way at that moment is free (log entry 1). -/
def State.credSnap (die : Nat) (s : State) : State :=
  let base := if die = 2 then loamHdBase else loamRdBase + 0x1000000 * die
  let keys := (List.range 3).flatMap (fun l =>
    match dieLinkNo die l with | some n => (List.range (linkPools n)).map (fun p => (l, p)) | none => [])
  keys.foldl (fun (s : State) e =>
    let k := poolKey die e.1 e.2
    let x := s.pool k
    let held := if x.adv = 0 then 0 else Config.freeCount s.fresh % (x.adv.toNat + 1)
    let y : Pool := { x with held := BitVec.ofNat 8 held, avail := BitVec.ofNat 8 (x.adv.toNat - held) }
    let a := base + 0x100 + 0x40 * e.1 + 4 * e.2
    { s with
      fresh := s.fresh + 1
      credits := if x.adv = 0 then s.credits else Sparse.insert s.credits k y
      latch := if x.adv = 0 then Sparse.erase s.latch a else
        Sparse.insert s.latch a (BitVec.ofNat 32 (y.avail.toNat + y.held.toNat * 256 + y.adv.toNat * 65536)) }) s

/-- A die's LOAM_ registers. -/
def State.loamReadReg (die o : Nat) (s : State) : State × Nat :=
  let base := if die = 2 then loamHdBase else loamRdBase + 0x1000000 * die
  if 0x10 ≤ o ∧ o < 0x40 ∧ o % 16 = 0 then
    match dieLinkNo die (o / 16 - 1) with
    | some l =>
      let n := s.links[l.val].up
      s.shows (n + 256 * b2n (n != 0) + 512 * b2n (n != 0 && decide (n < linkModules l)))
    | none => s.shows 0
  else if 0x100 ≤ o ∧ o < 0x1C0 then s.shows (Sparse.get 0 s.latch (base + o)).toNat
  else if o = 4 then s.shows 0
  else s.readStored (base + o)

def State.loamWriteReg (die o v : Nat) (s : State) : State :=
  let base := if die = 2 then loamHdBase else loamRdBase + 0x1000000 * die
  if o = 4 then s.credSnap die else s.writeReg (base + o) v

/-- LOAM_CREDSNAP. -/
def execLoamCredsnap (die : Fin 3) (s : State) : Outcome :=
  .next (if (if die = 2 then s.power.hub else s.power.stepOn (if die = 0 then 6 else 28)) then s.credSnap die.val else s)

/-! ### The HD window -/

/-- Clock and timebase (R346). -/
def State.clkReadReg (o : Nat) (s : State) : State × Nat :=
  if o = 0 then s.shows s.clock.stat
  else if o = 0x10 then s.shows (show28 s.clock.trim)
  else if o = 0x14 then s.shows (show28 (s.clock.windows.headD 0))
  else if o = 0x18 then s.shows (show28 s.clock.integ)
  else if o = 0x40 then s.timeRead
  else s.readStored (clkBase + o)

def State.clkWriteReg (o v : Nat) (s : State) : State :=
  if o = 0 then { s with clock := { s.clock with adjBad := s.clock.adjBad && !v.testBit 5 } }
  else if o = 0xC then (s.writeReg (clkBase + o) v).retrim
  else if o = 0x18 then s.writeInteg (sext 28 v)
  else if o = 0x20 then s.pherr (sext 32 v)
  else if o = 0x60 then
    (if v % 4 = 1 then s.adjust (fun _ x => x) else if v % 4 = 2 then s.adjust (stepTime (v.testBit 2)) else s)
  else s.writeReg (clkBase + o) v

/-- The device interrupt controller (after R376). -/
def State.dicReadReg (o : Nat) (s : State) : State × Nat :=
  if o = 0 then s.shows 0
  else if o < 0x800 then s.readStored (dicBase + o)
  else if o < 0x840 then s.shows (field s.dic.pend.toNat (8 * (o - 0x800)) 32)
  else if o < 0x880 then s.shows (field s.dic.insvc.toNat (8 * (o - 0x840)) 32)
  else if 0x1000 ≤ o ∧ o < 0x1080 then
    let t := (o - 0x1000) / 16
    if o % 16 = 4 then s.dicClaim t
    else if o % 16 = 8 then s.shows 0
    else if o % 16 = 12 then s.shows (b2n (s.dicLine t))
    else s.readStored (dicBase + o)
  else if 0x2000 ≤ o ∧ o < 0x2200 ∧ o % 8 = 4 then
    let g := (o - 0x2000) / 8
    s.shows (65536 * (Sparse.get 0 s.dic.gElapsed g % 65536) + Sparse.get 0 s.dic.gEvents g % 256)
  else s.readStored (dicBase + o)

def State.dicWriteReg (o v : Nat) (s : State) : State :=
  if o = 0 then s
  else if o < 0x800 then s.dicConfig (o / 4) v
  else if o = 0x880 then s.dicSwset (v % 512)
  else if 0x1000 ≤ o ∧ o < 0x1080 then
    let t := (o - 0x1000) / 16
    if o % 16 = 8 then s.dicComplete t (v % 512)
    else if o % 16 = 0 then (s.writeReg (dicBase + o) v).dicSettle
    else s
  else if 0x2000 ≤ o ∧ o < 0x2200 ∧ o % 8 = 0 then s.groupConfig ((o - 0x2000) / 8) v
  else s

/-- KPR_RUN. -/
def State.kprRunRead (s : State) : Nat :=
  1 + 2 * b2n (s.keeper 1).running + 4 * b2n (s.keeper 2).running + 8 * b2n (s.keeper 3).running

/-- Keeper registers (after R351). -/
def State.kprReadReg (node : Byte) (o : Nat) (s : State) : State × Nat :=
  if o = 0 then s.shows s.kprRunRead
  else if 0x100 ≤ o ∧ o < 0x200 then s.claimRead node ((o - 0x100) / 4)
  else if 0x300 ≤ o ∧ o < 0x340 then
    let k : Fin 4 := Fin.ofNat 4 ((o - 0x300) / 16)
    if o % 16 = 8 then s.shows (s.regN (kprBase + o) + (((s.keeper k).wdLeft + 999) / 1000) % 65536)
    else if o % 16 = 0 then s.readStored (kprBase + o)
    else s.shows 0
  else if o = 0x500 then s.mbqRead 0
  else if o = 0x504 then s.mbqRead 1
  else s.readStored (kprBase + o)

def State.kprWriteReg (node : Byte) (o v : Nat) (s : State) : State :=
  if o = 0 then (if node = 0x80 then s.kprRun v else s)
  else if 0x100 ≤ o ∧ o < 0x200 then s.claimFree node ((o - 0x100) / 4)
  else if 0x300 ≤ o ∧ o < 0x340 then
    let k : Fin 4 := Fin.ofNat 4 ((o - 0x300) / 16)
    if o % 16 = 0 then s.wdWrite k v
    else if o % 16 = 4 then s.wdKick k (BitVec.ofNat 16 v)
    else s.writeReg (kprBase + o) v
  else s.writeReg (kprBase + o) v

/-- Keeper 0's PC lies in a window that maps boot ROM (R423). -/
def State.inRom (s : State) (node : Byte) : Bool :=
  node == 0x80 && (s.keeper 0).running &&
    (let w := (s.keeper 0).cpu.pc.toNat / 16384
     let b := (Sparse.get 0 (s.keeper 0).eff (0xFE04 + w)).toNat
     decide (0x80 ≤ b ∧ b < 0x84))

/-- NV registers (R421 to R424, R358). -/
def State.nvReadReg (node : Byte) (o : Nat) (s : State) : State × Nat :=
  if o < 0x800 then s.shows (if o < 0xC0 ∧ !s.inRom node then 0 else s.nvN (o / 4))
  else if o < 0x1000 then s.shows (Sparse.get 0 s.rram.nvWear ((o - 0x800) / 4)).toNat
  else if o = 0x1000 then s.shows (min 16 s.rram.nvQueue.length)
  else s.readStored (nvrBase + o)

def State.nvWriteReg (node : Byte) (o v : Nat) (s : State) : State :=
  if o < 0x800 then
    (if nvMayWrite node (s.inRom node) (o / 4) then s.nvOffer (o / 4) (BitVec.ofNat 32 v) else s)
  else s.writeReg (nvrBase + o) v

/-- Accession Log engine (R432). -/
def State.alogReadReg (o : Nat) (s : State) : State × Nat :=
  if o = 0 then s.shows (b2n s.alog.ready * 2 ^ 31
    + (if s.alog.ready then s.alog.queue.length else s.alog.backlog.length))
  else if o = 4 then s.shows s.alog.next.toNat
  else if 0x40 ≤ o ∧ o < 0x54 then
    s.shows (s.regN (alogBase + o) % 16384 + b2n (recValid (s.windowSlot ((o - 0x40) / 4))) * 2 ^ 31)
  else if 0x1000 ≤ o ∧ o < 0x1500 then
    s.shows (ofBytesLE (((s.windowSlot ((o - 0x1000) / 256)).drop (o % 256)).take 4))
  else s.readStored (alogBase + o)

def State.alogWriteReg (node : Byte) (o v : Nat) (s : State) : State :=
  if 0x40 ≤ o ∧ o < 0x50 then
    (if nodeKeeper node = some (Fin.ofNat 4 ((o - 0x40) / 4)) then s.writeReg (alogBase + o) v else s)
  else if o = 0x50 then (if s.inRom node then s.writeReg (alogBase + o) v else s)
  else if 0x100 ≤ o ∧ o < 0x500 then
    let k : Fin 4 := Fin.ofNat 4 ((o - 0x100) / 256)
    if nodeKeeper node ≠ some k then s
    else if o % 256 = 0 then s.alogWrite k v
    else s.writeReg (alogBase + o) v
  else s.writeReg (alogBase + o) v

/-- PLN_T_HSTAT. -/
def State.hstat (s : State) : Nat :=
  if !s.isP then 0
  else
    s.links[3].up + 4 * b2n (s.linkUp 3) + 8 * b2n s.plinth.pwrGood + 16 * b2n s.plinth.resetN
      + 32 * s.plinth.therm.toNat + 128 * b2n s.plinth.isolated + 256 * b2n s.plinth.present
      + 512 * b2n (s.power.mode == .plinthTest) + 65536 * s.plinth.isoCause.toNat

/-- A write of PLN_T_HCTRL: how steps 3 to 5 of R401 end is free (log entry 1). -/
def State.hctrlWrite (v : Nat) (s : State) : State :=
  if !s.isP then s
  else if v.testBit 0 then
    let r := Config.freeCount s.fresh % 3
    s.spend.plinthRun (if r = 0 then 0 else if r = 1 then 2 else 3)
  else (s.setReg hctrl 0).plinthReset

/-- Plinth control (after R404). -/
def State.plnReadReg (o : Nat) (s : State) : State × Nat :=
  if o = 4 then s.shows s.hstat
  else if 0x200 ≤ o ∧ o < 0x280 then s.shows 0
  else s.readStored (plnBase + o)

def State.plnWriteReg (o v : Nat) (s : State) : State :=
  if o = 0 then s.hctrlWrite v else if o = 8 then s.plnDbell v else s.writeReg (plnBase + o) v

/-- Bits UP of PWR_DIE. -/
def State.diesUp (s : State) : Nat := b2n (s.power.dieUp 0) + 2 * b2n (s.power.dieUp 1)

/-- Power sequencer (after R420). -/
def State.pwrReadReg (o : Nat) (s : State) : State × Nat :=
  let p := s.power
  if o = 0 then
    s.shows (p.mode.code + 16 * b2n p.transit + 32 * b2n p.warm + 256 * (if p.mode = .draining then p.after.code else 0)
      + 65536 * p.cause.toNat)
  else if o = 8 then s.shows (p.result.toNat + 256 * p.target.toNat)
  else if o = 0xC then s.shows (p.dieEn.toNat + 256 * s.diesUp + 65536 * p.dieFailed.toNat)
  else if o = 0x18 then s.shows p.fail.toNat
  else if o = 0x1C then
    s.shows (p.lastStep.toNat + 65536 * (if p.ascents = 0 then 0 else (Config.ascentTime p.ascents).toNat))
  else if o = 0x30 then s.shows ((if s.tempOn 0 then p.temp[0].toNat else 0) + 65536 * p.level[0].toNat)
  else if o = 0x34 then s.shows ((if s.tempOn 1 then p.temp[1].toNat else 0) + 65536 * p.level[1].toNat)
  else if o = 0x38 then s.shows (p.temp[2].toNat + 65536 * p.level[2].toNat)
  else if o = 0x3C then s.shows (65536 * p.level[3].toNat)
  else if o = 0x40 then s.shows p.vin.toNat
  else if o = 0x44 then (s.spend, (Config.inputPower s.fresh).toNat)
  else if o = 0x10 ∨ o = 0x14 then s.readStored (pwrBase + o)
  else s.shows 0

def State.pwrWriteReg (node : Byte) (o v : Nat) (s : State) : State :=
  if node ≠ 0x80 then s
  else if o = 4 then s.powerRequest v
  else if o = 0xC then s.pwrDie v
  else if o = 0x20 then s.swReset node v
  else s.writeReg (pwrBase + o) v

/-- The levels of a bank's pins. -/
def State.bankLevels (s : State) (b : Nat) (f : Pin → Bool) : Nat :=
  levelBits ((List.range 16).map (fun i => f (s.pin (16 * b + i))))

/-- GPIO and its blocks (R457). -/
def State.gpioReadReg (o : Nat) (s : State) : State × Nat :=
  if o < 0x30 then
    if o % 16 = 8 then s.shows (s.bankLevels (o / 16) (·.filt))
    else if o % 16 = 12 then s.shows (s.bankLevels (o / 16) (·.raw))
    else s.shows (s.regN (gpioBase + o) % 65536)
  else if o = 0x44 then s.shows s.periph.straps.toNat
  else if 0x100 ≤ o ∧ o < 0x1C0 then
    s.shows (s.regN (gpioBase + o) + 2 ^ 17 * (s.pin ((o - 0x100) / 4)).owner.toNat)
  else if 0x200 ≤ o ∧ o < 0x280 ∧ o % 32 = 4 then
    let i : Fin 4 := Fin.ofNat 4 ((o - 0x200) / 32)
    s.shows (b2n (s.periph.i2cBusy.getLsbD i.val) * 2 ^ 31 + s.periph.i2cResult[i.val].toNat)
  else if o = 0x304 then s.uartTake 0
  else if o = 0x314 then s.uartTake 1
  else if o = 0x308 ∨ o = 0x318 then
    let k : Fin 2 := if o = 0x308 then 0 else 1
    s.shows (s.periph.uartTx[k.val].length + 256 * s.periph.uartRx[k.val].length
      + 65536 * b2n (s.periph.uartOvr.getLsbD k.val))
  else if 0x390 ≤ o ∧ o < 0x3A0 then
    let k : Fin 4 := Fin.ofNat 4 ((o - 0x390) / 4)
    s.shows (b2n (s.periph.tachStall.getLsbD k.val) * 2 ^ 31 + s.tachPeriod k)
  else s.readStored (gpioBase + o)

def State.gpioWriteReg (o v : Nat) (s : State) : State :=
  if o < 0x30 then
    if o % 16 = 0 then s.gpioWrite (o / 16) false v else if o % 16 = 4 then s.gpioWrite (o / 16) true v else s
  else if o = 0x40 then s.gpioEnWrite v
  else if 0x100 ≤ o ∧ o < 0x1C0 then s.cfgWrite ((o - 0x100) / 4) v
  else if 0x200 ≤ o ∧ o < 0x280 ∧ o % 32 = 0 then s.i2cGo (Fin.ofNat 4 ((o - 0x200) / 32)) v
  else if o = 0x304 then s.uartPut 0 (BitVec.ofNat 8 v)
  else if o = 0x314 then s.uartPut 1 (BitVec.ofNat 8 v)
  else if o = 0x308 ∨ o = 0x318 then
    let k : Fin 2 := if o = 0x308 then 0 else 1
    if v.testBit 16 then
      { s with periph := { s.periph with uartOvr := s.periph.uartOvr &&& ~~~(1#2 <<< k.val) } }.uartLevel k
    else s
  else (s.writeReg (gpioBase + o) v).padsSettle

/-- Monitor (R231 to R235, R459). -/
def State.monReadReg (o : Nat) (s : State) : State × Nat :=
  if o = 0 then s.shows (b2n s.monitor.en)
  else if o = 0x18 then s.shows (s.regN (monBase + o) + b2n s.monitor.pending)
  else if o = 0x24 then
    let m := s.monitor
    s.shows (s.regN (monBase + o) + b2n m.hpd + 2 * b2n m.link + 4 * m.lanes.toNat + 16 * m.rate.toNat)
  else s.readStored (monBase + o)

def State.monWriteReg (o v : Nat) (s : State) : State :=
  if o = 0 then (if v.testBit 0 then s.monEnable else { s with monitor := { s.monitor with en := false } })
  else if (o = 8 ∨ o = 0xC ∨ o = 0x10 ∨ o = 0x20) ∧ s.monitor.en then s
  else if o = 0x14 then (if v.testBit 0 then s.monCommit else s)
  else s.writeReg (monBase + o) v

/-- The IDX of a tap entry. -/
def State.tapIdx (s : State) (k : Nat) : Reg32 := Sparse.get 0 s.plinth.idx k

/-- The tap table (R398). -/
def State.tapReadReg (o : Nat) (s : State) : State × Nat :=
  if o % 16 = 12 then s.shows (s.regN (tapBase + o) + (s.tapIdx (o / 16)).toNat % 65536) else s.readStored (tapBase + o)

def State.tapWriteReg (o v : Nat) (s : State) : State :=
  if o % 16 = 12 ∨ !s.slotHeld (o / 16) then s.writeReg (tapBase + o) v
  else if o % 16 = 0 then s.setRegField (tapBase + o) 0 3 v
  else s

/-- A register of a sub-port that does not exist in the port's mode, or of a port without power, reads 0 and discards writes (R316,
R317). -/
def State.ethDark (s : State) (o : Nat) : Bool :=
  let r := o % 0x10000
  if 0x100 ≤ r ∧ r < 0x500 then
    !(if s.serdes then decide (r / 256 - 1 < modeSubs (s.portMode (o / 0x10000))) else decide (o < 0x200))
  else !s.serdes && decide (0x10000 ≤ o)

/-- ETH_FEC_CORR and ETH_FEC_UNCORR have risen by the codewords that the line has brought since: a free count, for no rule
and no row gives them (log entry 49). -/
def State.fecRises (o : Nat) (s : State) : State :=
  if o % 256 = 0xA0 ∨ o % 256 = 0xA8 then (s.addCnt (ethBase + o) (Config.freeCount s.fresh)).spend else s

/-- Ethernet ports (R316, R331). `o` counts on from Port 0 to Port 1. -/
def State.ethReadReg (o : Nat) (s : State) : State × Nat :=
  let p := o / 0x10000
  let r := o % 0x10000
  if s.ethDark o then s.shows 0
  else if r = 0 then s.shows (let v := s.regN (ethBase + o); v - v % 4 + s.portMode p)
  else if r = 4 then
    s.shows (levelBits ((List.range 4).map (fun m => (s.sub p m).link) ++ (List.range 4).map (fun m => (s.sub p m).align)))
  else if 0x100 ≤ r ∧ r < 0x500 ∧ 0x40 ≤ r % 256 then
    (s.fecRises o).read64 (ethBase + o) ((s.fecRises o).cnt (ethBase + o / 8 * 8))
  else s.readStored (ethBase + o)

def State.ethWriteReg (o v : Nat) (s : State) : State :=
  if s.ethDark o then s
  else if o % 0x10000 = 0 then s.portControl (o / 0x10000) v
  else s.writeReg (ethBase + o) v

/-- The classifier (R322, R323, R330). -/
def State.clsReadReg (o : Nat) (s : State) : State × Nat :=
  if o = 0x14 then s.shows 0 else if o = 0x300 then s.wakeRead.replied else s.readStored (clsBase + o)

def State.clsWriteReg (o v : Nat) (s : State) : State :=
  if o = 0x14 then
    if v % 256 = 1 then s.flowRead
    else if v % 256 = 2 then s.flowWrite (BitVec.ofNat 18 (s.regN (clsBase + 0x10))) s.flowData
    else s.setReg (clsBase + 0x18) 7
  else if o = 0x408 ∨ o = 0x418 then
    let s1 := s.writeReg (clsBase + o) v
    let s2 : State := if o = 0x418 then { s1 with ktxReady := none } else s1
    if v.testBit 31 then s2.setReg (clsBase + o + 4) 0 else s2
  else s.writeReg (clsBase + o) v

/-- QM_QSTAT of a queue (R331): 0 input, 1 video, 2 audio, 3 control. What COUNT shows of more than 31 entries is open (log entry 72). -/
def State.queueStat (s : State) (q : Nat) : Nat :=
  let x := s.slot (q / 4)
  let on := (match x.ctx with | some c => (s.ctx c).state != .admitting && !x.upper | none => false)
  let n := if q % 4 = 0 then x.inputQ.length else if q % 4 = 1 then x.videoBands.length
    else if q % 4 = 2 then x.audioQ.length else x.controlQ.length
  b2n on * 2 ^ 31 + (if n < 32 then n else (Config.queueCount n).toNat)

/-- The queue manager (R325, R328). -/
def State.qmReadReg (o : Nat) (s : State) : State × Nat :=
  if o = 0 ∨ o = 0x210 then s.shows 0
  else if 0x10000 ≤ o then s.shows (s.queueStat ((o - 0x10000) / 4))
  else s.readStored (qmBase + o)

def State.qmWriteReg (o v : Nat) (s : State) : State :=
  if o = 0 then s.qmSnap
  else if o = 0x210 then (if v.testBit 0 then s.controlPush else s)
  else s.writeReg (qmBase + o) v

/-- S(f) of the frame that holds the next band to be released (R109): of a frame whose start is not fixed yet, the start it has as the
schedule stands. -/
def State.frameStart (s : State) (k : Nat) : Nat :=
  let f := (s.slot k).releasedF
  match (s.slot k).ctx with
  | some c => (((s.releaseOf c f 0).1.slot k).schedOf f).s
  | none => ((s.slot k).schedOf f).s

/-- The band period virtual time stands in has passed its deadline (R109). -/
def State.bandBehind (s : State) (c : CtxNo) (k : Nat) : Bool :=
  decide ((s.releaseOf c (s.sesD c 0 (·.frame)) (s.bandNow c)).2 < s.clock.time + s.guardOf k)

/-- BSC_STATUS, but for CLIPPED. -/
def State.pacing (s : State) (k : Nat) : Nat :=
  match (s.slot k).ctx with
  | some c =>
    let run := s.admitted c
    65536 * (s.bandNow c % 256) + 64 * b2n (run && s.bandBehind c k) + 32 * b2n (s.frozen c)
      + 16 * b2n (run && !s.inHorizon c) + (s.slot k).leadNow % 16
  | none => 0

/-- A slot's schedule block (R108 to R110). -/
def State.schReadReg (k r : Nat) (s : State) : State × Nat :=
  if r = 0x20 then
    let t := s.frameStart k
    ({ s with latch := Sparse.set 0 s.latch (schAddr k 0x24) (BitVec.ofNat 32 (t / 65536 % 1000000000)) },
      t / unitsPerSec % 2 ^ 32)
  else if r = 0x24 then s.shows (Sparse.get 0 s.latch (schAddr k 0x24)).toNat
  else if r = 0x28 then
    let q := s.readStored (schAddr k 0x28)
    (q.1, q.2 + s.pacing k)
  else if r = 0x34 then s.shows (s.spareSeats k)
  else s.readStored (schAddr k r)

def State.schWriteReg (k r v : Nat) (s : State) : State :=
  if r = 0x14 then s.periodCommit k (v % 4096)
  else if r = 0x1C then s.phaseWrite k (BitVec.ofNat 32 v)
  else if r < 0x10 ∧ s.slotHeld k then s
  else s.writeReg (schAddr k r) v

/-- A slot's stream block (R312): SID is written while the slot is not held. -/
def State.strWriteReg (k r v : Nat) (s : State) : State :=
  if r = 4 ∧ s.slotHeld k then s else s.writeReg (strAddr k r) v

/-- The context table, as 32-bit halves (R35). -/
def State.ctxReadReg (node : Byte) (o : Nat) (s : State) : State × Nat :=
  let c : CtxNo := BitVec.ofNat 18 (o / 32)
  let k := o / 8 % 4
  s.latchRead node 0 (4 * c.toNat + k) (s.entryWord c k) (o % 8 = 4)

def State.ctxWriteReg (node : Byte) (o v : Nat) (s : State) : State :=
  s.contextEntryWrite node (BitVec.ofNat 18 (o / 32)) (Fin.ofNat 4 (o / 8))
    (if o % 8 = 4 then .high (BitVec.ofNat 32 v) else .low (BitVec.ofNat 32 v))

/-- The title table, as 32-bit halves (R77). -/
def State.titleReadReg (node : Byte) (o : Nat) (s : State) : State × Nat :=
  let t : BitVec 16 := BitVec.ofNat 16 (o / 16)
  s.latchRead node 1 (2 * t.toNat + o / 8 % 2) (s.titleWord t (o / 8 % 2)) (o % 8 = 4)

def State.titleWriteReg (node : Byte) (o v : Nat) (s : State) : State :=
  s.titleEntryWrite node (BitVec.ofNat 16 (o / 16)) (o / 8 % 2)
    (if o % 8 = 4 then .high (BitVec.ofNat 32 v) else .low (BitVec.ofNat 32 v))

/-! ### Windows (R393) -/

/-- The listed blocks of a Raster window. -/
def rdListed (o : Nat) : Bool :=
  decide (0x300000 ≤ o ∧ o < 0x350000 ∨ 0x400000 ≤ o ∧ o < 0x400800 ∨ 0x500000 ≤ o ∧ o < 0x520000
    ∨ 0x600000 ≤ o ∧ o < 0x601000)

/-- The listed blocks of the HD window. -/
def hdListed (o : Nat) : Bool :=
  decide (o < 0x81000 ∨ 0x90000 ≤ o ∧ o < 0x94000 ∨ 0xA0000 ≤ o ∧ o < 0xA1000 ∨ 0xB0000 ≤ o ∧ o < 0xC1000
    ∨ 0xD0000 ≤ o ∧ o < 0xD1000 ∨ 0xE0000 ≤ o ∧ o < 0x102000 ∨ 0x180000 ≤ o ∧ o < 0x1C0000
    ∨ 0x200000 ≤ o ∧ o < 0x220000 ∨ 0x300000 ≤ o ∧ o < 0x301000 ∨ 0x400000 ≤ o ∧ o < 0x450000 ∨ 0x500000 ≤ o)

/-- A register address of the device's own windows lies in a listed block whose domain is powered (R393, R405). -/
def State.regUp (s : State) (a : Nat) : Bool :=
  (if a < hdWindow then rdListed (a % 0x1000000) else hdListed (a - hdWindow))
    && (match regDomain a with
      | .aon => s.power.mode != .off
      | .hub => s.power.hub
      | .die d => s.power.stepOn (if d = 0 then 6 else 28))

/-- A 32-bit read of the device's own windows, at a 4-byte-aligned address that is up. -/
def State.regRead (node : Byte) (a : Nat) (s : State) : State × Nat :=
  let die := a / 0x1000000 % 2
  let o := a % 0x1000000
  if a < hdWindow then
    if o < 0x400000 then s.curReadReg (o - 0x300000)
    else if o < 0x500000 then s.bscReadReg (o - 0x400000)
    else if o < 0x600000 then s.mbReadReg (8192 * die + (o - 0x500000) / 16) (o % 16)
    else s.loamReadReg die (o - 0x600000)
  else if o < 0x80000 then s.shows ((s.word a).toNat + 65536 * (s.word (a + 2)).toNat)
  else if o < 0x90000 then s.clkReadReg (o - 0x80000)
  else if o < 0xA0000 then s.dicReadReg (o - 0x90000)
  else if o < 0xB0000 then s.kprReadReg node (o - 0xA0000)
  else if o < 0xB8000 then s.nvReadReg node (o - 0xB0000)
  else if o < 0xC0000 then s.alogReadReg (o - 0xB8000)
  else if o < 0xD0000 then s.loamReadReg 2 (o - 0xC0000)
  else if o < 0xE0000 then s.plnReadReg (o - 0xD0000)
  else if o < 0xF0000 then s.pwrReadReg (o - 0xE0000)
  else if o < 0x100000 then s.gpioReadReg (o - 0xF0000)
  else if o < 0x180000 then s.monReadReg (o - 0x100000)
  else if o < 0x200000 then s.tapReadReg (o - 0x180000)
  else if o < 0x300000 then s.ethReadReg (o - 0x200000)
  else if o < 0x400000 then s.clsReadReg (o - 0x300000)
  else if o < 0x500000 then s.qmReadReg (o - 0x400000)
  else if o < 0x600000 then s.readStored a
  else if o < 0x700000 then s.schReadReg ((o - 0x600000) / 64) (o % 64)
  else if o < 0x800000 then s.titleReadReg node (o - 0x700000)
  else s.ctxReadReg node (o - 0x800000)

/-- A 32-bit write of the device's own windows, at a 4-byte-aligned address that is up. -/
def State.regWrite (node : Byte) (a v : Nat) (s : State) : State :=
  let die := a / 0x1000000 % 2
  let o := a % 0x1000000
  if a < hdWindow then
    if o < 0x400000 then s.curWriteReg node (o - 0x300000) v
    else if o < 0x500000 then s.bscWriteReg (o - 0x400000) v
    else if o < 0x600000 then s.mbWriteReg (8192 * die + (o - 0x500000) / 16) (o % 16) v
    else s.loamWriteReg die (o - 0x600000) v
  else if o < 0x80000 then (if (nodeKeeper node).isSome then s.setBytes a (bytesLE 4 v) else s)
  else if o < 0x90000 then s.clkWriteReg (o - 0x80000) v
  else if o < 0xA0000 then s.dicWriteReg (o - 0x90000) v
  else if o < 0xB0000 then s.kprWriteReg node (o - 0xA0000) v
  else if o < 0xB8000 then s.nvWriteReg node (o - 0xB0000) v
  else if o < 0xC0000 then s.alogWriteReg node (o - 0xB8000) v
  else if o < 0xD0000 then s.loamWriteReg 2 (o - 0xC0000) v
  else if o < 0xE0000 then s.plnWriteReg (o - 0xD0000) v
  else if o < 0xF0000 then s.pwrWriteReg node (o - 0xE0000) v
  else if o < 0x100000 then s.gpioWriteReg (o - 0xF0000) v
  else if o < 0x180000 then s.monWriteReg (o - 0x100000) v
  else if o < 0x200000 then s.tapWriteReg (o - 0x180000) v
  else if o < 0x300000 then s.ethWriteReg (o - 0x200000) v
  else if o < 0x400000 then s.clsWriteReg (o - 0x300000) v
  else if o < 0x500000 then s.qmWriteReg (o - 0x400000) v
  else if o < 0x600000 then s.strWriteReg ((o - 0x500000) / 64) (o % 64) v
  else if o < 0x700000 then s.schWriteReg ((o - 0x600000) / 64) (o % 64) v
  else if o < 0x800000 then s.titleWriteReg node (o - 0x700000) v
  else s.ctxWriteReg node (o - 0x800000) v

/-- REGISTER_WRITE (R8): a register's fields under their access codes; an I/O word as its processor stores it. -/
def execRegisterWrite (t : RegTarget) (s : State) : Outcome :=
  .next (match t with
    | .loam node a v => if a.toNat % 4 = 0 && decide (rdWindow ≤ a.toNat ∧ a.toNat < 0x008003000000) && s.regUp a.toNat then
        s.regWrite node a.toNat v.toNat else s
    | .io p a v => if s.storeReady p && decide (0xF000 ≤ a.toNat) then (s.dStore p a.toNat v).1 else s)

end Sys2Proof.Machine
end

