-- ==== Sys2Proof/Machine/Taps.lean ====
section
/-! DEFINITION. Taps (R398 to R400): what the guest die is sent of a session's output, and the packets it returns. -/

namespace Sys2Proof.Machine

/-- Slots of a tap ring: 2^LOG2, with 0 as 1 and above 12 as 12 (R398). -/
def tapRing (w2 : Nat) : Nat := 2 ^ (if field w2 16 4 = 0 then 1 else min 12 (field w2 16 4))

/-- The ring's base address. -/
def State.tapRingBase (s : State) (k : Nat) : Nat :=
  s.regN (tapAddr k 4) + 2 ^ 32 * field (s.regN (tapAddr k 8)) 0 16

/-- The 64-byte header of a tap item (R399), its fields least significant byte first (R163). -/
def TapItem.header (d : TapItem) (idx : Nat) : List Byte :=
  bytesLE 4 d.kind ++ bytesLE 4 idx ++ bytesLE 4 d.frame ++ bytesLE 1 d.band ++ bytesLE 1 d.depth ++ bytesLE 2 d.width
    ++ bytesLE 2 d.line0 ++ bytesLE 2 d.nlines ++ bytesLE 4 (d.rel / unitsPerSec)
    ++ bytesLE 4 (d.rel / 65536 % 1000000000) ++ bytesLE 2 d.rel ++ bytesLE 2 (b2n d.late) ++ bytesLE 4 d.data.length
    ++ bytesLE 4 d.seq ++ List.replicate 24 0

/-- Taps deliver: the site is PRESENT and PLINTH_TEST does not hold (R402, R404). -/
def State.tapsOn (s : State) : Bool := s.plinth.present && s.linkUp 3 && s.power.mode != .plinthTest

/-- A tap item is written and its doorbell sent, or dropped and counted (R399). -/
def State.putTap (k : Nat) (d : TapItem) (s : State) : State :=
  let idx : Reg32 := Sparse.get 0 s.plinth.idx k
  let n := tapRing (s.regN (tapAddr k 8))
  let cons := field (s.regN (tapAddr k 12)) 16 16
  if n ≤ (idx.toNat + 65536 - cons) % 65536 then s.countReg (plnBase + 0x10) 1
  else
    let s1 := (s.send (.tap (s.tapAgent k) (s.tapRingBase k + 32768 * (idx.toNat % n)) (d.header idx.toNat ++ d.data))).doorbell
      (s.tapAgent k) 1 (BitVec.ofNat 16 k) idx
    let sent : TapSent :=
      { slot := BitVec.ofNat 14 k, idx := idx, kind := d.kind, frame := d.frame, band := d.band, rel := d.rel,
        flags := d.flags, final := d.final, count := 0, open_ := 0, done := false }
    { s1 with plinth := { s1.plinth with idx := Sparse.set 0 s1.plinth.idx k (idx + 1)
                                         delivered := s1.plinth.delivered ++ [sent] } }

/-- The next item of a slot's tap: with no site to take it, it is delivered nowhere (R402). -/
def State.tapItem (k : Nat) (s : State) : State :=
  match (s.slot k).tapQ with
  | [] => s
  | d :: q =>
    let s1 := s.modSlot k (fun x => { x with tapQ := q })
    if s1.tapsOn then s1.putTap k d else s1

/-- TAP_ITEM. -/
def execTapItem (c : CtxNo) (s : State) : Outcome :=
  .next (match s.heldSlot c with
    | some k => s.tapItem k
    | none => s)

/-- A packet returned for a tap item joins the queue of its kind (R400); the last of a plane band is its arrival. -/
def State.acceptReturn (k : Nat) (e : TapSent) (r : TapBuf) (s : State) : State :=
  let x := s.slot k
  let e1 := { e with count := e.count + 1, open_ := e.open_ + 1, done := r.last }
  let flow := x.flowAt e.frame e.band
  let rel := if e.kind = 3 then e.rel else s.releaseAt k e.frame e.band
  let s1 := { s with plinth := { s.plinth with
    delivered := s.plinth.delivered.map (fun y : TapSent => if y.slot = e.slot ∧ y.idx = e.idx then e1 else y) } }
  if e.kind = 3 then
    let d : AudioDesc := { pkt := 0, frame := 0, band := 0, silence := false, samples := [], rel := rel, flow := flow, late := false, returned := some r }
    s1.modSlot k (fun y => { y with audioQ := y.audioQ ++ [d] })
  else
    let final := e.final && r.last
    let d : BandDesc :=
      { frame := e.frame, band := e.band, flags := e.flags, fragments := if final then [] else [[]],
        lead := (rel : Int) - (s.clock.time : Nat), tag := 0, chk := [], pos := [], mgen := 0, width := 0, line0 := 0,
        nlines := 0, kind := 0, flow := flow, late := false, sentFragments := 0, returned := some r }
    let s2 := if e.kind = 1 && r.last then (s1.measureLead (s.slotCtx k) k e.frame e.band).1 else s1
    s2.modSlot k (fun y => { y with
      videoQ := y.videoQ ++ [d]
      tapDone := if e.kind = 1 && r.last then y.tapDone ++ [(e.frame, e.band)] else y.tapDone })

/-- A return at an agent's PLN_T_RET port (R400): the status of its WRR, and the state. -/
def State.tapReturn (agent : Fin 4) (data : List Word) (s : State) : Nat × State :=
  let w := fun (i : Nat) => (data.getD (2 * i) 0).toNat + 65536 * (data.getD (2 * i + 1) 0).toNat
  let k := w 0 % 16384
  let idx : Reg32 := BitVec.ofNat 32 (w 1)
  let buf := w 2 + 2 ^ 32 * (w 3 % 65536)
  let len := w 4 % 16384
  let last := (w 4).testBit 31
  if !s.slotHeld k then (7, s)
  else if len = 0 ∨ 8960 < len ∨ buf % 64 ≠ 0 ∨ buf < 0x400000000000 ∨ 0x404000000000 < buf + len then (8, s)
  else if (s.tmode k).toNat < 2 ∨ s.tapAgent k ≠ agent then (8, s)
  else match s.plinth.delivered.find? (fun e => e.slot.toNat == k && e.idx == idx) with
    | none => (8, s)
    | some e =>
      let x := s.slot k
      if e.done ∨ 255 ≤ e.count then (8, s)
      else if e.kind = 3 ∧ 16 ≤ x.audioQ.length
          ∨ e.kind ≠ 3 ∧ 16 ≤ x.videoBands.length ∧ !x.videoBands.contains (e.frame, e.band) then (6, s)
      else (0, s.acceptReturn k e { idx := idx, buf := BitVec.ofNat 48 buf, len := len, last := last })

/-- TAP_RETURN: the 16-word WR of a return; its WRR's status is the reply. -/
def execTapReturn (agent : Fin 4) (data : List Word) (s : State) : Outcome :=
  .next (if s.tapsOn && decide (data.length = 16) then
    let r := s.tapReturn agent data
    r.2.reply r.1
  else s)

end Sys2Proof.Machine
end

