-- ==== Sys2Proof/Machine/Loam.lean ====
section
/-! DEFINITION. The Loam fabric: routes, address decode, targets, atomics, the guest die's reach, requests with their
responses and replays, and the links' modules (R18, R23, R24, R377 to R394, R404). -/

namespace Sys2Proof.Machine

/-! ### Nodes and routes -/

/-- The agent exists, has power and may issue requests (R377). -/
def State.mayRequest (s : State) (n : Byte) : Bool :=
  let i := n.toNat % 64
  if nodeDie n < 2 then s.power.dieUp (nodeDie n) && decide (i < 0x32)
  else if nodeDie n = 2 then
    match nodeKeeper n with
    | some k => s.keeperClocked k
    | none => s.power.hub && decide (8 ≤ i ∧ i < 0xD)
  else s.isP && s.plinth.resetN && s.linkUp 3

/-! ### Replies -/

/-- What a target answers: whether it answers, its status, its data, whether a word of them holds inverted parity, and
POISON (R382, R383, R390). -/
structure LoamReply where
  got : Bool
  status : Nat
  data : List Word
  wrong : Bool
  poison : Bool
  deriving DecidableEq, Repr

def LoamReply.fail (n : Nat) : LoamReply := { got := true, status := n, data := [], wrong := false, poison := false }
def LoamReply.done (d : List Word) : LoamReply := { got := true, status := 0, data := d, wrong := false, poison := false }

/-- The number a list of Loam words spells, least significant first (R163). -/
def ofWordsLE : List Word → Nat
  | [] => 0
  | w :: l => w.toNat + 65536 * ofWordsLE l

/-- The `n` low words of a number, least significant first. -/
def wordsLE : Nat → Nat → List Word
  | 0, _ => []
  | n + 1, v => BitVec.ofNat 16 v :: wordsLE n (v / 65536)

/-! ### Memory targets -/

/-- Operand words, alignment and old-value words of an atomic (R385). -/
def atomShape (t : Nat) : Option (Nat × Nat × Nat) :=
  if t < 2 then some (2, 4, 2) else if t = 2 then some (4, 4, 2) else if t < 5 then some (4, 8, 4)
  else if t = 5 then some (8, 8, 4) else none

/-- The value an atomic stores: none where a compare fails (R385). -/
def atomNew (t : Nat) (old : Nat) (data : List Word) : Option Nat :=
  let w := if t < 3 then 2 else 4
  if t = 0 ∨ t = 3 then some (old + ofWordsLE data)
  else if t = 1 ∨ t = 4 then some (ofWordsLE data)
  else if old = ofWordsLE (data.take w) then some (ofWordsLE (data.drop w)) else none

/-- A memory access's address and size are in order (R385); otherwise its status. -/
def State.memCheck (s : State) (link : Bool) (a n : Nat) : Option Nat :=
  if !s.frameUp (a / 4096) then some 1
  else if a % 2 = 1 then some 3
  else if 128 < a % 128 + 2 * n then some 3
  else if !link then some 5
  else none

def State.memRd (a n : Nat) (s : State) : State × LoamReply :=
  match s.memCheck (s.forwardUp a) a n with
  | some e => (s, LoamReply.fail e)
  | none =>
    let r := s.loamRead a n
    (r.1, { LoamReply.done r.2.1 with wrong := r.2.2 })

def State.memWr (a : Nat) (data : List Word) (parityOk poison : Bool) (s : State) : State × LoamReply :=
  match s.memCheck (s.forwardUp a) a data.length with
  | some e => (s, LoamReply.fail e)
  | none => if parityOk then (s.loamStore a data poison, LoamReply.done []) else (s, LoamReply.fail 2)

def State.memAtom (t a : Nat) (data : List Word) (s : State) : State × LoamReply :=
  match atomShape t with
  | none => (s, LoamReply.fail (if s.frameUp (a / 4096) then 3 else 1))
  | some (_, al, w) =>
    match s.memCheck (s.forwardUp a) a w with
    | some e => (s, LoamReply.fail e)
    | none =>
      if a % al ≠ 0 then (s, LoamReply.fail 3)
      else
        let r := s.loamRead a w
        if r.2.2 then (r.1, { LoamReply.done r.2.1 with wrong := true })
        else match atomNew t (ofWordsLE r.2.1) data with
          | some v => (r.1.loamStore a (wordsLE w v) false, LoamReply.done r.2.1)
          | none => (r.1, LoamReply.done r.2.1)

/-! ### Register windows -/

/-- The block of a window has power. -/
def State.winPowered (s : State) (a : Nat) : Bool :=
  match regDomain a with
  | .aon => s.power.mode != .off
  | .hub => s.power.hub
  | .die d => s.power.stepOn (if d = 0 then 6 else 28)

/-- The context table and the title table, which have 64-bit words (R35, R77). -/
def wideWords (a : Nat) : Bool := decide (titleBase ≤ a ∧ a < guestBase)

/-- The return ports (R400). -/
def inReturnPort (a : Nat) : Bool := decide (plnBase + 0x200 ≤ a ∧ a < plnBase + 0x280)

/-- A window access at its address can be served; otherwise its status (R385, R393). -/
def State.winCheck (s : State) (a : Nat) : Option Nat :=
  if !s.winPowered a then some 1
  else if a % 2 = 1 then some 3
  else if !s.regUp a then some 1
  else none

/-- The status of an access of a form that a register does not take: UNSUP (R385), and of the context and title tables an address
error (R35, R77; DEDUCED, log entry 70). -/
def otherAccess (a : Nat) : Nat := if wideWords a then 1 else 3

def State.winRd (node : Byte) (a n : Nat) (s : State) : State × LoamReply :=
  match s.winCheck a with
  | some e => (s, LoamReply.fail e)
  | none =>
    if inReturnPort a then (s, LoamReply.fail 3)
    else if n = 2 ∧ a % 4 = 0 then
      let r := s.regRead node a
      (r.1, LoamReply.done (wordsLE 2 r.2))
    else if n = 4 ∧ a % 8 = 0 ∧ wideWords a then
      (s, LoamReply.done (wordsLE 4 (if a < ctxBase then
        s.titleWord (BitVec.ofNat 16 ((a - titleBase) / 16)) ((a - titleBase) / 8 % 2)
      else s.entryWord (BitVec.ofNat 18 ((a - ctxBase) / 32)) ((a - ctxBase) / 8 % 4))))
    else (s, LoamReply.fail (otherAccess a))

/-- A write of a window: its effect once its words have passed their parity check. -/
def State.winWr (node : Byte) (a : Nat) (data : List Word) (parityOk : Bool) (s : State) : State × LoamReply :=
  match s.winCheck a with
  | some e => (s, LoamReply.fail e)
  | none =>
    let v := ofWordsLE data
    let go := fun (z : State) => if parityOk then (z, LoamReply.done []) else (s, LoamReply.fail 2)
    if inReturnPort a then
      if data.length = 16 ∧ a % 32 = 0 then
        if parityOk then
          let r := s.tapReturn (Fin.ofNat 4 ((a - plnBase) / 32)) data
          (r.2, LoamReply.fail r.1)
        else (s, LoamReply.fail 2)
      else (s, LoamReply.fail 3)
    else if a < codeStoreBase + 0x80000 ∧ codeStoreBase ≤ a ∧ (nodeKeeper node).isNone then (s, LoamReply.fail 1)
    else if data.length = 2 ∧ a % 4 = 0 then go (s.regWrite node a v)
    else if data.length = 4 ∧ a % 8 = 0 ∧ wideWords a then
      go (if a < ctxBase then
        s.titleEntryWrite node (BitVec.ofNat 16 ((a - titleBase) / 16)) ((a - titleBase) / 8 % 2) (.whole (BitVec.ofNat 64 v))
      else
        s.contextEntryWrite node (BitVec.ofNat 18 ((a - ctxBase) / 32)) (Fin.ofNat 4 ((a - ctxBase) / 8))
          (.whole (BitVec.ofNat 64 v)))
    else (s, LoamReply.fail (otherAccess a))

/-! ### The guest die as a target (R393, R396) -/

/-- A register of the identity block; the values that the partner chooses, and STATUS, are free (log entry 1). -/
def State.guestReg (s : State) (o : Nat) : Nat :=
  if o = 0 then 0x504C4E54
  else if o = 0xC then 0x10000
  else if o = 0x10 then (Config.guestIdent o).toNat % 65536
  else if o < 0x1C then (Config.guestIdent o).toNat
  else if o = 0x1C then field s.guestStatusWord 0 3 + 256 * field s.guestStatusWord 8 8
  else if o = 0x20 then (Sparse.get 0 s.plinth.guest 0x20).toNat
  else 0

/-- What the guest die answers outside its identity block is its own (log entry 1); an odd address is ADDR_ERROR or
UNSUP (R385). -/
def State.guestFree (s : State) (a n : Nat) (rd : Bool) : State × LoamReply :=
  let st := (Config.guestStatus s.fresh).toNat
  (s.spend, if a % 2 = 1 then LoamReply.fail (if st = 1 then 1 else 3)
    else if st = 0 ∧ rd then LoamReply.done ((List.range n).map (Config.guestWord s.fresh))
    else LoamReply.fail st)

def inIdent (a n : Nat) : Bool := decide (guestBase ≤ a ∧ a < guestBase + 0x100 ∧ n = 2 ∧ a % 4 = 0)

def State.guestRd (a n : Nat) (s : State) : State × LoamReply :=
  if inIdent a n then (s.spend, LoamReply.done (wordsLE 2 (s.guestReg (a - guestBase)))) else s.guestFree a n true

def State.guestWr (a : Nat) (data : List Word) (parityOk : Bool) (s : State) : State × LoamReply :=
  if !parityOk then (s, LoamReply.fail 2)
  else if inIdent a data.length then
    (if a - guestBase = 0x20 then
      { s with plinth := { s.plinth with guest := Sparse.set 0 s.plinth.guest 0x20 (BitVec.ofNat 32 (ofWordsLE data % 4)) } }
    else s, LoamReply.done [])
  else s.guestFree a data.length false

/-! ### The guest die as a requester (R394, R404) -/

/-- The access lies whole in a valid window, one that allows writes for a write. -/
def State.inAccessWindow (s : State) (a n : Nat) (write : Bool) : Bool :=
  (List.range 16).any (fun i =>
    let l := s.regN (vwin i 0)
    let base := l / 4096 * 4096 + 2 ^ 32 * (s.regN (vwin i 4) % 65536)
    l.testBit 0 && (!write || l.testBit 1) && decide (base ≤ a ∧ a + 2 * n ≤ base + 4096 * (s.regN (vwin i 8) % 2 ^ 24)))

/-- The rules of R394. -/
def State.guestMay (s : State) (op : LoamOp) (node : Byte) (a n : Nat) : Bool :=
  let agent := node.toNat - 0xC0
  if a < 0x2000000000 ∨ 0x4000000000 ≤ a ∧ a < 0x4030000000 then s.inAccessWindow a n (op != .rd)
  else if dicBase + 0x1040 ≤ a ∧ a < dicBase + 0x1080 then op == .rd || op == .wr
  else if clkBase + 0x40 ≤ a ∧ a < clkBase + 0x50 then op == .rd
  else if tapBase ≤ a ∧ a < tapBase + 0x40000 ∧ 12 ≤ a % 16 then
    op == .wr && (s.tapAgent ((a - tapBase) / 16)).val == agent
  else if inReturnPort a then op == .wr && decide (n = 16 ∧ a = plnBase + 0x200 + 0x20 * agent)
  else false

/-- Bytes of the loopback RAM. -/
def State.loopWords (s : State) (a n : Nat) : List Word :=
  (List.range n).map (fun i =>
    Sparse.get 0 s.plinth.ram ((a + 2 * i + 1) % 65536) ++ Sparse.get 0 s.plinth.ram ((a + 2 * i) % 65536))

def State.loopStore (a : Nat) (data : List Word) (s : State) : State :=
  let l := data.flatMap (fun w => bytesLE 2 w.toNat)
  { s with plinth := { s.plinth with ram := ((List.range l.length).foldl (fun m i =>
      Sparse.set 0 m ((a + i) % 65536) (byteAt l i)) s.plinth.ram) } }

/-- A request from PS in PLINTH_TEST (R404). -/
def State.loopback (op : LoamOp) (a n t : Nat) (data : List Word) (parityOk : Bool) (attempt : Nat) (s : State) :
    State × LoamReply :=
  let fault := a / 65536 % 16
  if fault = 1 then (s, LoamReply.fail 1)
  else if fault = 2 then (s, LoamReply.fail 3)
  else if fault = 6 then (s, { LoamReply.fail 0 with got := false })
  else if a % 2 = 1 then (s, LoamReply.fail 3)
  else match op with
    | .rd => (s, { LoamReply.done (s.loopWords a n) with wrong := decide (fault = 3 ∧ attempt = 1), poison := decide (fault = 5) })
    | .atom =>
      match atomShape t with
      | none => (s, LoamReply.fail 3)
      | some (_, al, w) =>
        if a % al ≠ 0 then (s, LoamReply.fail 3)
        else
          let old := s.loopWords a w
          match atomNew t (ofWordsLE old) data with
          | some v => (s.loopStore a (wordsLE w v), LoamReply.done old)
          | none => (s, LoamReply.done old)
    | _ =>
      if (fault = 4 ∧ attempt = 1) ∨ !parityOk then (s, LoamReply.fail 2) else (s.loopStore a data, LoamReply.done [])

/-! ### A request at its target -/

/-- A request is decoded and served (R18, R23, R24, R393, R394). `n`: its data words, or those a read asks for. -/
def State.serve (op : LoamOp) (node : Byte) (a n t : Nat) (data : List Word) (parityOk poison : Bool) (attempt : Nat)
    (s : State) : State × LoamReply :=
  if 0xC0 ≤ node.toNat ∧ s.power.mode = .plinthTest then s.loopback op a n t data parityOk attempt
  else if 0xC0 ≤ node.toNat ∧ !s.guestMay op node a (if op = .atom then ((atomShape t).map (·.2.2)).getD n else n) then
    (s, LoamReply.fail 4)
  else match addrDie s.part a with
    | none => (s, LoamReply.fail 1)
    | some d =>
      if d = 3 then
        if !s.routeUp (nodeDie node) 2 then (s, LoamReply.fail 5)
        else if !s.plinth.present then (s, LoamReply.fail 1)
        else if !s.linkUp 3 then (s, LoamReply.fail 5)
        else match op with
          | .rd => s.guestRd a n
          | .atom => s.guestFree a (((atomShape t).map (·.2.2)).getD n) true
          | _ => s.guestWr a data parityOk
      else if d < 2 ∧ !s.power.dieUp d ∧ (!s.winPowered a ∨ a < rdWindow) then (s, LoamReply.fail 1)
      else if !s.routeUp (nodeDie node) d then (s, LoamReply.fail 5)
      else if a < rdWindow then
        match op with
        | .rd => s.memRd a n
        | .atom => s.memAtom t a data
        | _ => s.memWr a data parityOk poison
      else match op with
        | .rd => s.winRd node a n
        | .wr => s.winWr node a data parityOk
        | _ => (s, LoamReply.fail ((s.winCheck a).getD (otherAccess a)))

/-! ### Requests and responses -/

/-- Flits in a node's replay buffer (R390). -/
def State.replayFlits (s : State) (node : Byte) : Nat :=
  ((s.loam.filter (fun r => r.node == node && (r.op == .wr || r.op == .pwr))).map (fun r => packetFlits r.len)).sum

/-- A node may issue a request with a tag now (R384, R390). -/
def State.mayIssueReq (s : State) (node tag : Byte) (write : Bool) (n : Nat) : Bool :=
  s.mayRequest node && decide ((s.loam.filter (fun r => r.node == node)).length < 256)
    && !s.loam.any (fun r => r.node == node && r.tag == tag)
    && (!write || decide (s.replayFlits node + packetFlits n ≤ 64))

/-- A request reaches its target, and its response is on the way. -/
def State.request (op : LoamOp) (node tag : Byte) (a : LoamAddr) (n t : Nat) (data : List Word)
    (parityOk poison : Bool) (s : State) : State :=
  let r := s.serve op node a.toNat n t data parityOk poison 1
  let q : LoamReq :=
    { node := node, tag := tag, op := op, addr := a, len := n, data := data, attempts := 1, got := r.2.got,
      status := BitVec.ofNat 4 r.2.status, resp := r.2.data, wrong := r.2.wrong, poison := poison || r.2.poison,
      atype := BitVec.ofNat 4 t, age := 0 }
  { r.1 with loam := r.1.loam ++ [q] }

/-- A packet that R382 does not allow: a guest's isolates it (R403). -/
def State.malformed (node : Byte) (s : State) : State :=
  if 0xC0 ≤ node.toNat ∧ s.plinth.resetN ∧ s.isP then s.isolate 4 else s

/-- RD. -/
def execRd (node tag : Byte) (a : LoamAddr) (len : BitVec 7) (s : State) : Outcome :=
  .next (if len.toNat = 0 ∨ 64 < len.toNat then s.malformed node
    else if s.mayIssueReq node tag false 0 then s.request .rd node tag a len.toNat 0 [] true false else s)

/-- WR. -/
def execWr (node tag : Byte) (a : LoamAddr) (data : List Word) (parityOk poison : Bool) (s : State) : Outcome :=
  .next (if data.length = 0 ∨ 64 < data.length then s.malformed node
    else if s.mayIssueReq node tag true data.length then
      s.request .wr node tag a data.length 0 data parityOk poison else s)

/-- PWR. -/
def execPwr (node tag : Byte) (a : LoamAddr) (data : List Word) (parityOk poison : Bool) (s : State) : Outcome :=
  .next (if data.length = 0 ∨ 64 < data.length then s.malformed node
    else if s.mayIssueReq node tag true data.length then
      s.request .pwr node tag a data.length 0 data parityOk poison else s)

/-- ATOM. -/
def execAtom (node tag : Byte) (atype : BitVec 4) (a : LoamAddr) (data : List Word) (s : State) : Outcome :=
  let n := data.length
  let fits := match atomShape atype.toNat with
    | some (k, _, _) => n == k
    | none => n == 2 || n == 4 || n == 8
  .next (if !fits then s.malformed node
    else if s.mayIssueReq node tag false 0 then
      s.request .atom node tag a n atype.toNat data true false else s)

def State.findReq (s : State) (node tag : Byte) (op : LoamOp) : Option LoamReq :=
  s.loam.find? (fun r => r.node == node && r.tag == tag && r.op == op && r.got)

def State.dropReq (node tag : Byte) (s : State) : State :=
  { s with loam := s.loam.filter (fun r => !(r.node == node && r.tag == tag)) }

/-- The requester takes the response, and its tag is free. -/
def State.deliver (r : LoamReq) (status : Nat) (data : List Word) (s : State) : State :=
  ((s.dropReq r.node r.tag).send (.response r.node r.tag (BitVec.ofNat 4 status) data)).reply (ofWordsLE (data.take 4))

/-- The request is issued again, with its data words' parity as given (R390). -/
def State.reissue (r : LoamReq) (parityOk : Bool) (s : State) : State :=
  let x := s.serve r.op r.node r.addr.toNat r.len 0 r.data parityOk r.poison (r.attempts + 1)
  { x.1 with loam := x.1.loam.map (fun q : LoamReq => if q.node = r.node ∧ q.tag = r.tag then
      { q with attempts := r.attempts + 1, got := x.2.got, status := BitVec.ofNat 4 x.2.status, resp := x.2.data,
               wrong := x.2.wrong, poison := r.poison || x.2.poison } else q) }

/-- A failure of memory that a replay has cured is counted by the Curator (R85 row 0). -/
def State.countCured (r : LoamReq) (s : State) : State :=
  if 1 < r.attempts ∧ r.addr.toNat < rdWindow ∧ (framePool s.part (r.addr.toNat / 4096)).isSome then
    s.countReg (curBase + 0x200) 1
  else s

/-- RDR (R390): the read's data, a replay, or a persistent failure. -/
def execRdr (node tag : Byte) (parityOk : Bool) (s : State) : Outcome :=
  .next (match s.findReq node tag .rd with
    | none => s
    | some r =>
      if r.status ≠ 0 then s.deliver r r.status.toNat []
      else if r.poison then (s.persistent .rd node r.addr.toNat).deliver r 2 []
      else if parityOk && !r.wrong then (s.countCured r).deliver r 0 r.resp
      else if r.attempts < 4 then (s.countLoam node 0x400 1).reissue r true
      else (s.persistent .rd node r.addr.toNat).deliver r 2 [])

/-- A write's response: it is released, or replayed after a refusal. Whether a replay passes is free (log entry 1). -/
def State.writeAnswer (op : LoamOp) (node tag : Byte) (s : State) : State :=
  match s.findReq node tag op with
  | none => s
  | some r =>
    if r.status ≠ 2 then (if r.status = 0 then s.countCured r else s).deliver r r.status.toNat []
    else if r.attempts < 4 then (s.countLoam node 0x404 1).spend.reissue r
      (decide (0xC0 ≤ node.toNat) || Config.freeBool s.fresh)
    else (s.persistent op node r.addr.toNat).deliver r 2 []

/-- WRR. -/
def execWrr (node tag : Byte) (s : State) : Outcome := .next (s.writeAnswer .wr node tag)

/-- PACK. -/
def execPack (node tag : Byte) (s : State) : Outcome := .next (s.writeAnswer .pwr node tag)

/-- ATR: an atomic whose response fails its parity check is not issued again. -/
def execAtr (node tag : Byte) (parityOk : Bool) (s : State) : Outcome :=
  .next (match s.findReq node tag .atom with
    | none => s
    | some r =>
      if r.status ≠ 0 then s.deliver r r.status.toNat []
      else if parityOk && !r.wrong then s.deliver r 0 r.resp
      else (s.persistent .atom node r.addr.toNat).deliver r 2 [])

/-- LOAM_CTRL.TIMEOUT of a requester's die: 0 acts as 1. A guest die's own timeout is its own (log entry 1). -/
def State.loamTimeout (s : State) (node : Byte) : Nat :=
  if nodeDie node < 2 then max 1 (field (s.regN (loamRdBase + 0x1000000 * nodeDie node)) 0 16)
  else if nodeDie node = 2 then max 1 (field (s.regN loamHdBase) 0 16)
  else 0

/-- LOAM_TIMEOUT (R392): no response has come within TIMEOUT. -/
def execLoamTimeout (node tag : Byte) (s : State) : Outcome :=
  .next (match s.loam.find? (fun r => r.node == node && r.tag == tag) with
    | none => s
    | some r => if s.loamTimeout node ≤ r.age then (s.countLoam node 0x40C 1).deliver r 5 [] else s)

/-- A whole read: None where its status is not OK or it fails persistently (R138, R391). -/
def State.fullRead (node : Byte) (a n : Nat) (s : State) : State × Option (List Word) :=
  let r := s.serve .rd node a n 0 [] true false 1
  if !r.2.got ∨ r.2.status ≠ 0 then (r.1, none)
  else if r.2.wrong then ((r.1.countLoam node 0x400 3).persistent .rd node a, none)
  else if r.2.poison then (r.1.persistent .rd node a, none)
  else (r.1, some r.2.data)

/-- A whole write: its status. -/
def State.fullWrite (node : Byte) (a : Nat) (data : List Word) (s : State) : State × Nat :=
  let r := s.serve .wr node a data.length 0 data true false 1
  (r.1, r.2.status)

/-- A whole atomic: its old value. -/
def State.fullAtom (node : Byte) (t a : Nat) (data : List Word) (s : State) : State × Option (List Word) :=
  let r := s.serve .atom node a data.length t data true false 1
  if !r.2.got ∨ r.2.status ≠ 0 then (r.1, none)
  else if r.2.wrong then (r.1.persistent .atom node a, none)
  else (r.1, some r.2.data)

/-! ### Modules (R379) -/

/-- A LOAM_ counter of each device end of a link. -/
def State.countLink (l : Fin 4) (o : Nat) (s : State) : State :=
  (linkEnds l).foldl (fun (s : State) e =>
    s.countReg (if e.1 = 2 then loamHdBase + o else loamRdBase + 0x1000000 * e.1 + o) 1) s

/-- MODULE_RETRAIN. -/
def execModuleRetrain (link : Fin 4) (s : State) : Outcome :=
  let x := s.links[link.val]
  .next (if x.retraining < x.up then
    { s with links := s.links.set link.val { x with retraining := x.retraining + 1 } }.countLink link 0x410 else s)

/-- MODULE_RETRAIN_END. -/
def execModuleRetrainEnd (link : Fin 4) (s : State) : Outcome :=
  let x := s.links[link.val]
  .next (if 0 < x.retraining then
    { s with links := s.links.set link.val { x with retraining := x.retraining - 1 } } else s)

/-- A module that was retraining fails; the last takes the link down (R379, R433, R437). -/
def State.moduleFail (link : Fin 4) (s : State) : State :=
  let x := s.links[link.val]
  if x.retraining = 0 ∨ x.up = 0 then s
  else if 1 < x.up then
    (({ s with links := s.links.set link.val { up := x.up - 1, retraining := x.retraining - 1 } }.countLink link
      0x414).linkRecord link).raiseP (44 + link.val)
  else
    let s1 := ((((s.setLink link 0).countLink link 0x414).linkRecord link).raiseP (44 + link.val)).raiseP (40 + link.val)
    if link = 3 then
      let s2 := s1.plinthReset
      { s2 with plinth := { s2.plinth with isoCause := 2 } }
    else s1.sealFault 1

/-- MODULE_FAIL. -/
def execModuleFail (link : Fin 4) (s : State) : Outcome := .next (s.moduleFail link)

end Sys2Proof.Machine
end

