-- ==== Sys2Proof/Machine/Service.lean ====
section
/-! DEFINITION. The DCP service as a receiver and answerer of messages: their bytes and checks (R364 to R366), the datagrams they
travel in, and the calls of DCP_SERVE and DCP_REPLY (R369). -/

namespace Sys2Proof.Machine

/-! ### Messages (R364 to R366) -/

/-- Bytes 0 to 19 + LEN of a message. -/
def dcpHead (m : DcpMsg) : List Byte :=
  [m.ver, m.kind] ++ bytesBE 2 m.cmd.toNat ++ [m.keyId, m.status] ++ bytesBE 2 m.len.toNat ++ bytesBE 4 m.boot.toNat
    ++ bytesBE 8 m.seq.toNat ++ m.body

/-- The UDP payload of a message. -/
def dcpBytes (m : DcpMsg) : List Byte := dcpHead m ++ m.mac

/-- The way back: source and destination change places (R365). -/
def dcpBack (x : DcpPath) : DcpPath := { x with src := x.dst, dst := x.src, sport := x.dport, dport := x.sport }

/-- Two messages of the same bytes, by whatever way they came. -/
def dcpSame (m n : DcpMsg) : Bool := { m with path := n.path } == n

/-- The 32 bytes of a key held in eight NV registers, most significant word first (R358). -/
def State.nvKey (s : State) (n : Nat) : List Byte := (List.range 8).flatMap (fun i => bytesBE 4 (s.nvN (n + i)))

/-- DCP key 0 is empty (R366). -/
def State.keyEmpty (s : State) : Bool := !(s.nv 0x30).getLsbD 0

/-- The key a KEYID names: none where it is not valid. -/
def State.dcpKey (s : State) (k : Nat) : Option (List Byte) :=
  if 4 ≤ k then none
  else if (s.nv 0x30).getLsbD k then some (s.nvKey (8 * k))
  else if k = 0 then some (List.replicate 32 0)
  else none

/-- A reply to a request under a key, to the request's source from its destination (R365). -/
def State.dcpMake (s : State) (key : List Byte) (m : DcpMsg) (status : Nat) (body : List Byte) : DcpMsg :=
  let r : DcpMsg :=
    { ver := 1, kind := 2, cmd := m.cmd, keyId := m.keyId, status := BitVec.ofNat 8 status, path := dcpBack m.path
      len := BitVec.ofNat 16 body.length, boot := s.nv nvrBootcnt, seq := m.seq, body := body, mac := [] }
  { r with mac := (Config.hmac key (dcpHead r)).toList }

/-- A reply is kept for a request sent again. -/
def State.dcpKeep (r : DcpMsg) (s : State) : State :=
  { s with boot := { s.boot with lastReply := Sparse.insert s.boot.lastReply r.keyId.toNat r } }

/-- What carrying out a request answers: its status and body. -/
structure DcpResult where
  status : Nat
  body : List Byte
  state : State

/-- What the service makes of a message: nothing, a reply, or a command for the Keeper program. -/
inductive DcpOut where
  | discard
  | reply (r : DcpMsg)
  | program
  deriving DecidableEq, Repr

/-- The checks of R365; `run` carries out a request that passes, or answers none for one of the Keeper program's. -/
def State.dcpTake (m : DcpMsg) (run : State → Option DcpResult) (s : State) : State × DcpOut :=
  if m.ver ≠ 1 ∨ m.kind ≠ 1 ∨ m.len.toNat ≠ m.body.length ∨ 1400 < m.body.length ∨ m.mac.length ≠ 16 then (s, .discard)
  else match s.dcpKey m.keyId.toNat with
    | none => (s, .discard)
    | some key =>
      let k := m.keyId.toNat
      let last := Sparse.get 0 s.boot.lastSeq k
      if m.mac ≠ (Config.hmac key (dcpHead m)).toList then
        ({ s with boot := { s.boot with macFail := BitVec.ofNat 32 (min 0xFFFFFFFF (s.boot.macFail.toNat + 1)) } }, .discard)
      else if m.boot ≠ s.nv nvrBootcnt then (s, .reply (s.dcpMake key m 3 []))
      else if last.toNat < m.seq.toNat then
        let s1 : State := { s with boot := { s.boot with
          lastSeq := Sparse.insert s.boot.lastSeq k m.seq, lastReq := Sparse.insert s.boot.lastReq k m
          lastReply := Sparse.erase s.boot.lastReply k } }
        match run s1 with
        | some r => let a := s1.dcpMake key m r.status r.body; (r.state.dcpKeep a, .reply a)
        | none => (s1, .program)
      else if last = m.seq ∧ s.boot.lastReq.any (fun e => e.1 == k && dcpSame e.2 m) then
        match s.boot.lastReply.find? (fun e => e.1 == k) with
        | some e => (s, .reply { e.2 with path := dcpBack m.path })
        | none => (s, .discard)
      else
        ({ s with boot := { s.boot with replays := BitVec.ofNat 32 (min 0xFFFFFFFF (s.boot.replays.toNat + 1)) } }, .discard)

/-! ### Datagrams -/

/-- The boot ROM serves the network alone (R361 step 3, R363, R416). -/
def State.romServes (s : State) : Bool :=
  match s.power.mode with
  | .bedrock => decide (3 ≤ s.boot.step)
  | .ascent => !s.power.warm
  | .recovery | .sealed => true
  | _ => false

/-- A datagram reaches the DCP port of a local address on a sub-port that is up (R319, R364). -/
def State.dcpArrives (s : State) (x : DcpPath) : Bool :=
  s.subUp x.port x.sub && x.dport.toNat == s.regN clsBase % 65536
    && (List.range 16).any (fun i =>
      (s.lip i 0).testBit 31 && (s.lip i 0).testBit 30 == x.v6 && (s.lip i 0).testBit (28 + x.port.val)
        && s.lipBytes i x.v6 == x.dst)

/-- A datagram in a frame: its way, where its payload begins in the frame, and the payload. -/
structure Datagram where
  v6 : Bool
  src : List Byte
  dst : List Byte
  sport : Nat
  dport : Nat
  off : Nat
  payload : List Byte
  deriving DecidableEq, Repr

/-- The datagram of an IP packet that begins at byte `off` of a frame. -/
def udpOf (off : Nat) (ip : RxIp) : Option Datagram :=
  if ip.proto ≠ 17 ∨ ip.options ∨ ip.fragment ∨ be16 ip.l4 4 < 8 ∨ ip.l4.length < be16 ip.l4 4 then none
  else some { v6 := ip.v6, src := ip.src, dst := ip.dst, sport := be16 ip.l4 0, dport := be16 ip.l4 2,
              off := off + (if ip.v6 then 48 else 28), payload := (ip.l4.take (be16 ip.l4 4)).drop 8 }

/-- The datagram of a frame of class 0x05 (R319). -/
def frameUdp (l : List Byte) : Option Datagram :=
  let f := parseFrame l
  if f.etype = 0x0800 then (parseIp4 (l.drop f.off)).bind (udpOf f.off)
  else if f.etype = 0x86DD then udpOf f.off (parseIp6 (l.drop f.off))
  else none

/-- The frame of a reply, built over the frame of its request: addresses and ports change places, and what the reply's headers hold
besides is free, checksums among it, which CSUM fills (R315, R365, R369). -/
def replyFrame (fresh : Nat) (l : List Byte) (d : Datagram) (payload : List Byte) : List Byte :=
  let any := fun (i n : Nat) => (List.range n).map (fun j => Config.freeByte (fresh + i + j))
  let n := 8 + payload.length
  let mac := (l.drop 6).take 6 ++ l.take 6 ++ (l.take (d.off - (if d.v6 then 48 else 28))).drop 12
  let ip := if d.v6 then
      [0x60#8 ||| (Config.freeByte fresh &&& 15)] ++ any 1 3 ++ bytesBE 2 n ++ [17] ++ any 4 1 ++ d.dst ++ d.src
    else [0x45] ++ any 0 1 ++ bytesBE 2 (20 + n) ++ any 1 2 ++ [0x40#8 &&& Config.freeByte (fresh + 3), 0] ++ any 4 1 ++ [17]
      ++ any 5 2 ++ d.dst ++ d.src
  mac ++ ip ++ bytesBE 2 d.dport ++ bytesBE 2 d.sport ++ bytesBE 2 n ++ any 7 2 ++ payload

/-! ### The calls of DCP_SERVE and DCP_REPLY (R369) -/

/-- A Keeper stands at a word of boot ROM bank 0x83, called: it may issue, and its return address is on its stack. -/
def State.atRom (s : State) (off : Nat) (k : Fin 4) : Bool :=
  let u := (s.keeper k).cpu
  s.mayIssue (.keeper k) && u.between && u.slot.isNone && u.pc.toNat % 16384 == off
    && s.codeBank (.keeper k) u.pc.toNat == 0x83 && decide (u.w[15].toNat < 0xF000)

/-- The Keeper that calls. -/
def State.romCaller (s : State) (off : Nat) : Option (Fin 4) := (List.finRange 4).find? (s.atRom off)

/-- The buffer a call names in w0 to w2. -/
def CpuState.callBuffer (u : CpuState) : Nat := u.w[0].toNat + 65536 * u.w[1].toNat + 2 ^ 32 * u.w[2].toNat

/-- A buffer is a whole pool-4 frame. -/
def State.romBuffer (s : State) (a : Nat) : Bool :=
  a % 4096 == 0 && framePool s.part (a / 4096) == some 4 && s.frameUp (a / 4096)

/-- A call returns: `out` in w0 and up, the registers it does not preserve free where nothing is given for them, s7, the flags and
32 words of stack free, within 2 ms of Keeper cycles. -/
def State.romReturn (k : Fin 4) (out : List (Option Word)) (s : State) : State :=
  let u := (s.keeper k).cpu
  let f := s.fresh
  let sp := u.w[15].toNat
  let w := (List.finRange 16).map (fun (r : Fin 16) =>
    if r = 15 then u.w[15] + 1
    else match out[r.val]? with
      | some (some v) => v
      | some none => Config.freeWord (f + 2 + r.val)
      | none => u.w[r])
  let ram := (List.range 32).foldl (fun (m : Sparse Word) i =>
    if i < sp then Sparse.set 0 m (sp - 1 - i) (Config.freeWord (f + 20 + i)) else m) (s.keeper k).dram
  let s1 := (s.keeperTime k (Config.freeCount f % 1536001)).count32 (.keeper k) 0xFE30 (Config.freeCount (f + 1) % 1536001)
  let s2 : State := { s1 with fresh := f + 52 }
  s2.modKeeper k (fun x => { x with
    dram := ram
    cpu := { x.cpu with
      w := Vector.ofFn (fun i => w.getD i.val 0), pc := Sparse.get 0 (s.keeper k).dram sp
      seg := x.cpu.seg.set 7 ((Config.freeWord (f + 18) ++ Config.freeWord (f + 19)).setWidth 38)
      st := (x.cpu.st &&& ~~~(15#16)) ||| (Config.freeWord (f + 17) &&& 15#16), loadOld := [], shadow := false, clear := false } })

/-- A frame is put into a buffer and the call returns its length. -/
def State.romFrame (k : Fin 4) (first : Word) (rest : List (Option Word)) (buf : Nat) (l : List Byte) (s : State) : State :=
  ({ s with fresh := s.fresh + 9 }.agentStore 2 buf l).romReturn k
    (some first :: some (BitVec.ofNat 16 l.length) :: rest)

/-- DCP_SERVE: a call of Keeper `k` with a frame that holds this message. -/
def State.dcpCall (k : Fin 4) (m : DcpMsg) (run : State → Option DcpResult) (s : State) : State :=
  let u := (s.keeper k).cpu
  let buf := u.callBuffer
  let l := s.agentBytes 2 buf u.w[3].toNat
  match frameUdp l with
  | none => s
  | some d =>
    if !s.romBuffer buf ∨ 4096 < l.length ∨ d.payload ≠ dcpBytes m ∨ d.v6 ≠ m.path.v6 ∨ d.src ≠ m.path.src ∨ d.dst ≠ m.path.dst
        ∨ d.sport ≠ m.path.sport.toNat ∨ d.dport ≠ m.path.dport.toNat then s
    else if (Sparse.get none s.claims 3).isSome then s.romReturn k [some 3, none, none, none]
    else
      match s.dcpTake m run with
      | (s1, .discard) => s1.romReturn k [some 2, none, none, none]
      | (s1, .program) =>
        s1.romReturn k [some 1, some (BitVec.ofNat 16 (d.off + 20)), some (BitVec.ofNat 16 m.body.length), some m.cmd]
      | (s1, .reply r) =>
        if s1.romServes then s1.send (.dcp r)
        else if (s1.keeper k).running then
          s1.romFrame k 0 [none, none] buf (replyFrame s1.fresh l d (dcpBytes r))
        else s1

/-- A message reaches the service: alone, the boot ROM takes it from the wire; else the Keeper program calls with its frame. -/
def State.dcpServe (m : DcpMsg) (run : State → Option DcpResult) (s : State) : State :=
  if s.romServes then
    if s.dcpArrives m.path then
      match s.dcpTake m run with
      | (s1, .reply r) => s1.send (.dcp r)
      | (s1, _) => s1
    else s
  else match s.romCaller 0 with
    | some k => s.dcpCall k m run
    | none => s

/-- The message a request's frame carries, as its header gives it. -/
def headerMsg (d : Datagram) (port : Fin 2) (sub : Fin 4) : DcpMsg :=
  let l := d.payload
  { ver := byteAt l 0, kind := byteAt l 1, cmd := BitVec.ofNat 16 (be16 l 2), keyId := byteAt l 4, status := byteAt l 5,
    len := BitVec.ofNat 16 (be16 l 6), boot := BitVec.ofNat 32 (be32 l 8), seq := BitVec.ofNat 64 (ofBytesBE ((l.drop 12).take 8)),
    body := [], mac := [],
    path := { port := port, sub := sub, v6 := d.v6, src := d.src, dst := d.dst, sport := BitVec.ofNat 16 d.sport,
              dport := BitVec.ofNat 16 d.dport } }

/-- DCP_REPLY: a call of Keeper `k` with a program command's frame, its reply body written in place. -/
def State.dcpReplyCall (k : Fin 4) (status : Byte) (body : List Byte) (s : State) : State :=
  let u := (s.keeper k).cpu
  let buf := u.callBuffer
  let l := s.agentBytes 2 buf 4096
  match frameUdp l with
  | none => s
  | some d =>
    if !s.romBuffer buf ∨ 1400 < body.length ∨ d.payload.length < 36 ∨ u.w[3].toNat % 256 ≠ status.toNat ∨ u.w[4].toNat ≠ body.length
        ∨ s.agentBytes 2 (buf + d.off + 20) body.length ≠ body ∨ (Sparse.get none s.claims 3).isSome then s
    else
      let m := headerMsg d 0 0
      let r := s.dcpMake (s.nvKey (8 * (m.keyId.toNat % 4))) m status.toNat body
      let s1 := if Sparse.get 0 s.boot.lastSeq m.keyId.toNat = m.seq then s.dcpKeep r else s
      let out := replyFrame s.fresh l d (dcpBytes r)
      (({ s1 with fresh := s1.fresh + 9 } : State).agentStore 2 buf out).romReturn k
        [none, some (BitVec.ofNat 16 out.length), none, none, none]

end Sys2Proof.Machine
end

