-- ==== Sys2Proof/Machine/Dcp.lean ====
section
/-! DEFINITION. The boot ROM's start-up (R358 to R363, R456) and the Dreug Control Protocol (R364 to R369). -/

namespace Sys2Proof.Machine

/-! ### Image checks (R360) -/

/-- The payload of an image ends inside its slot, and each length is in range. -/
def imgLengths (m : Sparse Byte) : Bool :=
  let c := imgCodeLen m
  let d := [imgDataLen m 0, imgDataLen m 1, imgDataLen m 2, imgDataLen m 3]
  decide (c % 2 = 0 ∧ 2 ≤ c ∧ c ≤ 524288) && d.all (fun n => decide (n % 2 = 0 ∧ n ≤ 122880))
    && decide (256 + c + d.sum ≤ 2097152)

/-- The signature verifies against a valid image key. -/
def State.imgSigned (s : State) (m : Sparse Byte) : Bool :=
  let n := imgDataAt m 4 - 256
  let msg := imgBytes m 0 64 ++ imgBytes m 256 n
  [0, 1].any (fun k => (s.nv 0x30).getLsbD (8 + k) && Config.ed25519 (s.nvKey (0x20 + 8 * k)) msg (imgBytes m 64 64))

/-- The reason under R360; 0 for a valid image. -/
def State.imgReason (s : State) (slotB : Bool) : Nat :=
  let m := s.rram.image slotB
  if imgNum m 0 4 ≠ 0x53524B49 then 1
  else if !imgLengths m then 2
  else if imgWdt m < 100 then 3
  else if !s.imgSigned m then 4
  else if imgVersion m < s.nvN 0x31 then 5
  else 0

/-! ### Start-up (R361) -/

/-- A line of text on UART0: its bytes are free (R456, log entry 1). -/
def State.bootText (s : State) : State :=
  { s with
    fresh := s.fresh + (Config.freeCount s.fresh + 1)
    wire := (List.range (Config.freeCount s.fresh)).map (fun i => Sent.uart 0 (Config.freeByte (s.fresh + i))) ++ s.wire }

/-- The boot ROM's transactions with the module on I2C0, at 400 kHz. CMIS, which gives their number, addresses and bytes, lies
outside the specification: they are free, and so is what the last one leaves in the block (R456, log entry 34). -/
def State.bootCmis (s : State) : State :=
  let n := Config.freeCount s.fresh
  let bytes := fun (i len : Nat) => (List.range len).map (fun j => Config.freeByte (s.fresh + 16 * i + j))
  let s1 : State := { s with
    fresh := s.fresh + (17 * n + 40)
    wire := (List.range n).map (fun i => Sent.i2c 0 ((Config.freeWord (s.fresh + i)).setWidth 7)
      (bytes i (Config.freeCount (s.fresh + 1 + i) % 17))) ++ s.wire
    periph := { s.periph with i2cResult := s.periph.i2cResult.set 0 (BitVec.ofNat 3 (Config.freeCount (s.fresh + n + 1) % 4)) } }
  let ctrl := (Config.freeWord (s.fresh + n)).toNat + 65536 * (Config.freeWord (s.fresh + n + 1)).toNat
  (s1.setReg (i2cAddr 0 0) (0x01000000 + (ctrl &&& 0x001F1F7F))).i2cFill 0 (bytes n 16)

/-- Step 3 of R456: with a module in place, GPIO2 low, GPIO3 high and GPIO4 low, and the traffic with it. -/
def State.bootModule (s : State) : State :=
  if (s.pin 6).filt then s else ((s.gpioWrite 0 false 0x001C0008).gpioWrite 0 true 0x001C001C).bootCmis

/-- Step 5 of R361: the slot NVR_BOOTSEL names, then the other; with neither valid, a record and RECOVERY. -/
def State.bootChoose (s : State) : State :=
  let first := (s.nv 0x32).getLsbD 0
  let go := fun (b : Bool) =>
    let s1 : State := { s with boot := { s.boot with slotB := b, step := 5 } }
    if s.periph.straps.getLsbD 1 then s1.bootText.coldAscent else s1
  if s.imgReason first = 0 then go first
  else if s.imgReason (!first) = 0 then go (!first)
  else (s.offer 0x0002 0 (bytesBE 1 (s.imgReason false) ++ bytesBE 1 (s.imgReason true))).recoveryEntry 6

/-- Steps 1 to 5 of R361. -/
def State.bootStart (s : State) : State :=
  let s1 := ((s.nvRom nvrBootcnt ((s.nvN nvrBootcnt + 1) % 2 ^ 32)).setGpioEn aonBlocks).setReg (ledAddr 0) 4
  let s2 := (s1.bootText.bootMac 0 0).bootText
  let s3 := (s2.bootNet.bootModule).bootText
  let s4 : State := { s3 with boot := { s3.boot with step := 4 } }
  if s.periph.straps.getLsbD 0 then s4.bootText.recoveryEntry 5 else s4.bootText.bootChoose.bootText

/-- BOOT_ROM_START: after ROOTLOCK and the sampling of the straps (R333, R361, R454). -/
def execBootRomStart (s : State) : Outcome :=
  .next (if s.power.mode = .bedrock ∧ s.clock.rootLock ∧ s.boot.step = 0 ∧ s.periph.strapped then s.bootStart else s)

/-! ### Commands (R366, R367) -/

/-- The modes in which the boot ROM takes images alone. -/
def Mode.romAlone (m : Mode) : Bool := m == .bedrock || m == .recovery

/-- A command with its code: KEY_REQUIRED, BAD_MODE, the KEYID 0 rule, and then what it does. -/
def State.dcpCommand (m : DcpMsg) (code : Nat) (open' keyed : Bool) (modes : Mode → Bool) (act : State → DcpResult)
    (s : State) : Outcome :=
  .next (if m.cmd.toNat ≠ code then s
  else s.dcpServe m (fun s1 =>
    let fail := fun (n : Nat) => some { status := n, body := [], state := s1 : DcpResult }
    if s1.keyEmpty && !open' then fail 9
    else if !modes s1.power.mode then fail 1
    else if keyed && m.keyId != 0 then fail 9
    else some (act s1)))

def dcpDone (s : State) (body : List Byte) : DcpResult := { status := 0, body := body, state := s }
def dcpFail (s : State) (n : Nat) : DcpResult := { status := n, body := [], state := s }

/-- PART of IDENT. -/
def partCode : Part → Nat
  | .sr16k128 => 0x0128 | .sr16k064 => 0x0064 | .sr16k128p => 0x10128 | .sr16k064p => 0x10064

/-- IDENT. -/
def State.dcpIdent (m : DcpMsg) (s : State) : DcpResult :=
  if m.body ≠ [] then dcpFail s 2
  else dcpDone s (bytesBE 4 (partCode s.part) ++ bytesBE 1 0xA1 ++ bytesBE 1 s.power.mode.code ++ bytesBE 2 0
    ++ bytesBE 4 s.boot.version.toNat ++ bytesBE 4 (s.nvN nvrBootcnt) ++ bytesBE 4 s.boot.macFail.toNat
    ++ bytesBE 4 s.boot.replays.toNat)

def execIdent (m : DcpMsg) (s : State) : Outcome := s.dcpCommand m 1 true false (fun _ => true) (·.dcpIdent m)

/-- LOGREAD, through read window 4 (R432). -/
def State.dcpLogread (m : DcpMsg) (s : State) : DcpResult :=
  let first := ofBytesBE (m.body.take 2) % 16384
  let n := (byteAt m.body 2).toNat
  if m.body.length ≠ 3 ∨ n = 0 ∨ 5 < n then dcpFail s 2
  else
    let s1 := s.setReg (alogBase + 0x50) ((first + n - 1) % 16384)
    dcpDone s1 ((List.range n).flatMap (fun i => Sparse.get alogBlank s.rram.ring ((first + i) % 16384)))

def execLogread (m : DcpMsg) (s : State) : Outcome := s.dcpCommand m 2 true false (fun _ => true) (·.dcpLogread m)

/-- MODE: a request as PWR_REQ makes it. -/
def State.dcpSetMode (m : DcpMsg) (s : State) : DcpResult :=
  if m.body.length ≠ 1 then dcpFail s 2
  else
    let v := (byteAt m.body 0).toNat
    match s.powerAct (Mode.ofCode v) 0 with
    | .result r => { status := r.toNat, body := bytesBE 1 s.power.mode.code, state := if v < 16 then s.powerRequest v else s }
    | _ =>
      let s1 := s.powerRequest v
      dcpDone s1 (bytesBE 1 s1.power.mode.code)

def execDcpMode (m : DcpMsg) (s : State) : Outcome :=
  s.dcpCommand m 3 false false (fun x => x != .sealed) (·.dcpSetMode m)

/-- The image slot a body's byte names: 0 A, 1 B. -/
def dcpSlot (l : List Byte) (i : Nat) : Option Bool :=
  if byteAt l i = 0 then some false else if byteAt l i = 1 then some true else none

/-- IMGCHECK. -/
def State.dcpImgcheck (m : DcpMsg) (s : State) : DcpResult :=
  match dcpSlot m.body 0 with
  | some b =>
    if m.body.length ≠ 1 then dcpFail s 2
    else dcpDone s (bytesBE 1 (s.imgReason b) ++ bytesBE 4 (imgVersion (s.rram.image b)))
  | none => dcpFail s 2

def execImgcheck (m : DcpMsg) (s : State) : Outcome :=
  s.dcpCommand m 0x10 false false (fun x => x.romAlone || x.program) (·.dcpImgcheck m)

/-- Bytes put into an image slot. -/
def Rram.putImage (b : Bool) (a : Nat) (l : List Byte) (r : Rram) : Rram :=
  let put := fun (m : Sparse Byte) => l.zipIdx.foldl (fun m e => Sparse.set 0 m (a + e.2) e.1) m
  if b then { r with imageB := put r.imageB } else { r with imageA := put r.imageA }

/-- IMGWRITE. -/
def State.dcpImgwrite (m : DcpMsg) (s : State) : DcpResult :=
  let off := ofBytesBE ((m.body.drop 2).take 4)
  let data := m.body.drop 6
  match dcpSlot m.body 0 with
  | some b =>
    if m.body.length < 10 ∨ off % 4 ≠ 0 ∨ 1024 < data.length ∨ 2097152 < off + data.length then dcpFail s 2
    else if !s.power.mode.romAlone && (s.nv 0x32).getLsbD 0 == b then dcpFail s 5
    else dcpDone { s with rram := s.rram.putImage b off data } []
  | none => dcpFail s 2

def execImgwrite (m : DcpMsg) (s : State) : Outcome :=
  s.dcpCommand m 0x11 false false (fun x => x.romAlone || x.program) (·.dcpImgwrite m)

/-- BOOTSEL. -/
def State.dcpBootsel (m : DcpMsg) (s : State) : DcpResult :=
  match dcpSlot m.body 0 with
  | some b => if m.body.length ≠ 1 then dcpFail s 2 else dcpDone (s.nvRom 0x32 (b2n b)) []
  | none => dcpFail s 2

def execBootsel (m : DcpMsg) (s : State) : Outcome :=
  s.dcpCommand m 0x12 false false (fun x => x.romAlone || x == .attended) (·.dcpBootsel m)

/-- IMGRUN: a valid image starts step 6 of R361. -/
def State.dcpImgrun (m : DcpMsg) (s : State) : DcpResult :=
  match dcpSlot m.body 0 with
  | some b =>
    if m.body.length ≠ 1 then dcpFail s 2
    else if s.imgReason b ≠ 0 then { status := 7, body := bytesBE 1 (s.imgReason b), state := s }
    else dcpDone ({ s with boot := { s.boot with slotB := b } }.coldAscent) [0]
  | none => dcpFail s 2

def execImgrun (m : DcpMsg) (s : State) : Outcome :=
  s.dcpCommand m 0x13 false false Mode.romAlone (·.dcpImgrun m)

/-- 32-bit reads as Keeper 0 (R377), in ascending order, until one fails. -/
def State.dcpReads (a : Nat) : Nat → State → List Byte → State × List Byte × Bool
  | 0, s, acc => (s, acc, true)
  | n + 1, s, acc =>
    match s.fullRead 0x80 a 2 with
    | (s1, some w) => State.dcpReads (a + 4) n s1 (acc ++ bytesBE 4 (ofWordsLE w))
    | (s1, none) => (s1, acc, false)

/-- LREAD. -/
def State.dcpLread (m : DcpMsg) (s : State) : DcpResult :=
  let a := ofBytesBE (m.body.take 6)
  let n := ofBytesBE ((m.body.drop 6).take 2)
  if m.body.length ≠ 8 ∨ n < 4 ∨ 1024 < n ∨ n % 4 ≠ 0 ∨ a % 4 ≠ 0 then dcpFail s 2
  else
    let r := State.dcpReads a (n / 4) s []
    { status := if r.2.2 then 0 else 6, body := bytesBE 2 r.2.1.length ++ r.2.1, state := r.1 }

/-- The modes of LREAD and LWRITE. -/
def Mode.loamAccess (m : Mode) : Bool := m == .attended || m == .diagnostic

def execLread (m : DcpMsg) (s : State) : Outcome := s.dcpCommand m 0x20 false false Mode.loamAccess (·.dcpLread m)

/-- 32-bit writes as Keeper 0 (R377); the boot ROM's NV registers are not written (R423). -/
def State.dcpWrites (a : Nat) : Nat → List Byte → State → Nat → State × Nat × Bool
  | 0, _, s, done => (s, done, true)
  | n + 1, l, s, done =>
    if nvrBase ≤ a ∧ a < nvrBase + 0x100 then (s, done, false)
    else match s.fullWrite 0x80 a (wordsLE 2 (ofBytesBE (l.take 4))) with
      | (s1, 0) => State.dcpWrites (a + 4) n (l.drop 4) s1 (done + 4)
      | (s1, _) => (s1, done, false)

/-- LWRITE. -/
def State.dcpLwrite (m : DcpMsg) (s : State) : DcpResult :=
  let a := ofBytesBE (m.body.take 6)
  let n := ofBytesBE ((m.body.drop 6).take 2)
  if m.body.length ≠ 8 + n ∨ n < 4 ∨ 1024 < n ∨ n % 4 ≠ 0 ∨ a % 4 ≠ 0 then dcpFail s 2
  else
    let r := State.dcpWrites a (n / 4) (m.body.drop 8) s 0
    { status := if r.2.2 then 0 else 6, body := bytesBE 2 r.2.1, state := r.1 }

def execLwrite (m : DcpMsg) (s : State) : Outcome := s.dcpCommand m 0x21 false false Mode.loamAccess (·.dcpLwrite m)

/-- The modes of KEYSET, MINVER and NETSET. -/
def Mode.settings (m : Mode) : Bool := m.romAlone || m == .attended

/-- KEYSET: 32 zero bytes empty the slot. -/
def State.dcpKeyset (m : DcpMsg) (s : State) : DcpResult :=
  let kind := (byteAt m.body 0).toNat
  let k := (byteAt m.body 1).toNat
  let key := m.body.drop 4
  if m.body.length ≠ 36 ∨ 1 < kind ∨ 4 ≤ k ∨ kind = 1 ∧ 2 ≤ k then dcpFail s 2
  else
    let base := if kind = 0 then 8 * k else 0x20 + 8 * k
    let bit := if kind = 0 then k else 8 + k
    let s1 := (List.range 8).foldl (fun (s : State) i => s.nvRom (base + i) (ofBytesBE ((key.drop (4 * i)).take 4))) s
    let valid := key.any (· != 0)
    dcpDone (s1.nvRom 0x30 (mergeBits (2 ^ bit) (s1.nvN 0x30) (b2n valid * 2 ^ bit))) []

def execKeyset (m : DcpMsg) (s : State) : Outcome := s.dcpCommand m 0x30 true true Mode.settings (·.dcpKeyset m)

/-- MINVER never lowers NVR_MINVER. -/
def State.dcpMinver (m : DcpMsg) (s : State) : DcpResult :=
  let v := ofBytesBE m.body
  if m.body.length ≠ 4 then dcpFail s 2 else if v < s.nvN 0x31 then dcpFail s 5 else dcpDone (s.nvRom 0x31 v) []

def execMinver (m : DcpMsg) (s : State) : Outcome := s.dcpCommand m 0x31 false true Mode.settings (·.dcpMinver m)

/-- NETSET. -/
def State.dcpNetset (m : DcpMsg) (s : State) : DcpResult :=
  let w := fun (i : Nat) => ofBytesBE ((m.body.drop (4 * i)).take 4)
  if m.body.length ≠ 24 then dcpFail s 2
  else dcpDone ((List.range 6).foldl (fun (s : State) i => s.nvRom (0x34 + i) (w i)) s) []

def execNetset (m : DcpMsg) (s : State) : Outcome := s.dcpCommand m 0x32 false true Mode.settings (·.dcpNetset m)

/-- The codes of the commands of R367 below the program range. -/
def dcpCodes : List Nat := [1, 2, 3, 0x10, 0x11, 0x12, 0x13, 0x20, 0x21, 0x30, 0x31, 0x32]

/-- PROGRAM_COMMAND: an authenticated command of the program range is handed to the Keeper program; a code of no command
ends with BAD_CMD. -/
def execProgramCommand (m : DcpMsg) (s : State) : Outcome :=
  .next (if dcpCodes.contains m.cmd.toNat then s
  else s.dcpServe m (fun s1 =>
    let fail := fun (n : Nat) => some { status := n, body := [], state := s1 : DcpResult }
    if m.cmd.toNat < 0x8000 then fail 0xB
    else if s1.keyEmpty then fail 9
    else if !s1.power.mode.program then fail 8
    else none))

/-- DCP_REPLY (R369): the reply to a program command. -/
def execDcpReply (status : Byte) (body : List Byte) (s : State) : Outcome :=
  .next (if s.romServes then s
  else match s.romCaller 16 with
    | some k => s.dcpReplyCall k status body
    | none => s)

end Sys2Proof.Machine
end

