-- ==== Sys2Proof/Machine/Far.lean ====
section
/-! DEFINITION. The Keeper-mode instructions: segment registers, far loads and stores, far atomics (R137 to R139, R162 to
R164). A far access completes within its instruction; when its response arrives is free (log entries 1 and 31). -/

namespace Sys2Proof.Machine

/-- `n` registers from one up, as scoreboard targets. -/
def regGroup (d : RegNo) (n : Nat) : List ScoreTarget := (List.range n).map (fun i => .reg (regAfter d i))

/-- The values of a group of registers. -/
def CpuState.group (u : CpuState) (d : RegNo) (n : Nat) : List Word := (List.range n).map (fun i => u.read (regAfter d i))

/-- A Keeper-mode instruction is ILLEGAL in a session, and where its group runs past w15 (R137, R144). -/
def farIllegal (p : Cpu) (d : RegNo) (n : Nat) : Bool := !isKeeper p || decide (16 < d.val + n)

/-! ### Segment registers -/

/-- MTSEG (R162, R164). -/
def execMtseg (p : Cpu) (n : Fin 8) (d : RegNo) (s : State) : Outcome :=
  let u := s.cpu p
  let v : BitVec 38 := (u.read (regAfter d 2)).setWidth 6 ++ (u.read (regAfter d 1) ++ u.read d)
  s.instr p { Op.nop with
    reads := regGroup d 3, fault := if farIllegal p d 3 then some faultIllegal else none
    effect := fun t => (t.modCpu p (fun x => { x with seg := x.seg.set n.val v }), true) }

/-- MFSEG (R162). -/
def execMfseg (p : Cpu) (d : RegNo) (n : Fin 8) (s : State) : Outcome :=
  let v := (s.cpu p).seg[n.val]
  s.instr p { Op.nop with
    writes := regGroup d 3, fault := if farIllegal p d 3 then some faultIllegal else none
    effect := fun t => (t.modCpu p (fun x =>
      ((x.write d (v.setWidth 16)).write (regAfter d 1) ((v >>> 16).setWidth 16)).write (regAfter d 2)
        ((v >>> 32).setWidth 16)), true) }

/-! ### The access -/

/-- The Loam address of a far word (R138). -/
def CpuState.farAddr (u : CpuState) (n : Fin 8) (a : Word) : Nat :=
  (u.seg[n.val].toNat / 4 * 4096 + 2 * a.toNat) % 2 ^ 48

/-- What stops a far access before any transaction: an illegal form, an odd pair, the segment (R138, R144, R162). -/
def State.farFault (s : State) (p : Cpu) (illegal : Bool) (write : Bool) (align : Nat) (n : Fin 8) (a : Word) :
    Option FaultInfo :=
  let g := (s.cpu p).seg[n.val]
  if illegal then some faultIllegal
  else if a.toNat % align ≠ 0 then some (faultOdd 0 a.toNat)
  else if !g.getLsbD 0 || write && !g.getLsbD 1 then some (faultFar a.toNat)
  else none

/-- The node of a Keeper (R377). -/
def cpuNode : Cpu → Byte | .keeper k => 0x80 + BitVec.ofNat 8 k.val | .session _ => 0

/-- A far access issues now: its processor may issue it, its words are there, and nothing stops it before its transaction. -/
def State.farIssues (s : State) (p : Cpu) (o : Op) : Bool :=
  s.mayIssue p && !(match (s.cpu p).slot with | some d => d.annulled | none => false) && (s.badFetch p 2).isNone
    && ((s.cpu p).faultOf o).isNone

/-- A far access as an instruction. Its transaction is made in its issue cycle, after what it waits for; `access` answers the words
it brings. Where the status is not OK it raises FAR_ERROR, and what the transaction did stands (R138, R141; log entry 31). -/
def State.farOp (p : Cpu) (a : Word) (o : List Word → Op) (access : State → State × Option (List Word)) (s : State) : Outcome :=
  let u := s.cpu p
  if s.farIssues p (o []) then
    let first := u.now + u.waitFor (o [])
    match access (s.cpuUntil p first).1 with
    | (s1, some ws) => (s1.holdAt p { first := first, total := 2, half := none }).instr p (o ws)
    | (s1, none) => (s1.holdAt p { first := first, total := 1, half := none }).instr p
        { o [] with fault := some (faultFar a.toNat) }
  else s.instr p (o [])

/-- The die that a Loam address belongs to; the Hub's for one in no range. -/
def State.farDie (s : State) (addr : Nat) : Nat := (addrDie s.part addr).getD 2

/-- The cycles after which a far access's response arrives: a free count (R121, R139; log entry 31). -/
def State.farBack (s : State) : Nat := Config.freeCount s.fresh

/-- A far access is outstanding until its response (R139). -/
def State.farSent (p : Cpu) (die : Nat) (store : Bool) (back : Nat) (s : State) : State :=
  s.modCpu p (fun u => { u with far := u.far ++ [{ die := die, store := store, back := back }] })

/-- The cycles a far store waits: while 8 are outstanding (R139). -/
def CpuState.storeWait (u : CpuState) : Nat :=
  let l := ((u.far.filter (·.store)).map (fun e => e.back - u.now)).filter (0 < ·)
  if l.length < 8 then 0 else l.foldl min (l.headD 0)

/-- A far load or atomic waits for the earlier stores to its die (R139). -/
def CpuState.dieWait (u : CpuState) (die : Nat) : Nat := u.farWait (fun e => e.store && e.die == die)

/-- The operation of a far load of one word or two; `ws`: what it brings. -/
def State.farLoadOp (p : Cpu) (d : RegNo) (k : Nat) (n : Fin 8) (a : Word) (s : State) (ws : List Word) : Op :=
  let die := s.farDie ((s.cpu p).farAddr n a)
  let out := regGroup d k
  let back := s.farBack
  { Op.nop with
    len := 2, cycles := 2, writes := out, isLoad := true, stall := (s.cpu p).dieWait die
    late := out.map (fun t => (t, back))
    fault := s.farFault p (farIllegal p d k) false k n a
    effect := fun t =>
      ((t.spend.modCpu p (·.loadRegs ((List.range k).map (fun i => (regAfter d i, ws.getD i 0))))).farSent p die false
        ((t.cpu p).now + back), true) }

/-- Far loads. -/
def State.farLoad (p : Cpu) (d : RegNo) (k : Nat) (n : Fin 8) (a : Word) (s : State) : Outcome :=
  s.farOp p a (s.farLoadOp p d k n a) (fun t => t.fullRead (cpuNode p) ((s.cpu p).farAddr n a) k)

/-- The operation of a far store of one word or two, whose transaction is made. -/
def State.farStoreOp (p : Cpu) (d : RegNo) (k : Nat) (n : Fin 8) (a : Word) (s : State) : Op :=
  let u := s.cpu p
  let die := s.farDie (u.farAddr n a)
  let back := s.farBack
  { Op.nop with
    len := 2, cycles := 2, reads := regGroup d k, stall := u.storeWait
    fault := s.farFault p (farIllegal p d k) true k n a
    effect := fun t => (t.spend.farSent p die true ((t.cpu p).now + back), true) }

/-- Far stores. -/
def State.farStore (p : Cpu) (d : RegNo) (k : Nat) (n : Fin 8) (a : Word) (s : State) : Outcome :=
  let u := s.cpu p
  s.farOp p a (fun _ => s.farStoreOp p d k n a)
    (fun t => let r := t.fullWrite (cpuNode p) (u.farAddr n a) (u.group d k); (r.1, if r.2 = 0 then some [] else none))

/-- The operation of a far atomic: `w` words of value, `k` registers of operand. A compare sets Z (R162). -/
def State.farAtomOp (p : Cpu) (d : RegNo) (w k : Nat) (n : Fin 8) (a : Word) (s : State) (old : List Word) : Op :=
  let u := s.cpu p
  let die := s.farDie (u.farAddr n a)
  let data := u.group d k
  let cas := decide (w < k)
  let out := regGroup d w ++ (if cas then [.status] else [])
  let back := s.farBack
  { Op.nop with
    len := 2, cycles := 2, reads := regGroup d k, writes := out, stall := u.dieWait die
    late := out.map (fun x => (x, back))
    fault := s.farFault p (farIllegal p d k) true w n a
    effect := fun z =>
      let stored := ofWordsLE old == ofWordsLE (data.take w)
      ((z.spend.modCpu p (fun x =>
        let y := (List.range w).foldl (fun (y : CpuState) i => y.write (regAfter d i) (old.getD i 0)) x
        if cas then y.withFlags { y.flags with z := stored } else y)).farSent p die false ((z.cpu p).now + back), true) }

/-- Far atomics; `t`: the kind of R385. -/
def State.farAtomic (p : Cpu) (d : RegNo) (w k t : Nat) (n : Fin 8) (a : Word) (s : State) : Outcome :=
  let u := s.cpu p
  s.farOp p a (s.farAtomOp p d w k n a) (fun z => z.fullAtom (cpuNode p) t (u.farAddr n a) (u.group d k))

/-- LDF. -/
def execLdf (p : Cpu) (d : RegNo) (n : Fin 8) (a : Word) (s : State) : Outcome := s.farLoad p d 1 n a
/-- STF. -/
def execStf (p : Cpu) (d : RegNo) (n : Fin 8) (a : Word) (s : State) : Outcome := s.farStore p d 1 n a
/-- LDFP. -/
def execLdfp (p : Cpu) (d : RegNo) (n : Fin 8) (a : Word) (s : State) : Outcome := s.farLoad p d 2 n a
/-- STFP. -/
def execStfp (p : Cpu) (d : RegNo) (n : Fin 8) (a : Word) (s : State) : Outcome := s.farStore p d 2 n a
/-- FADD32. -/
def execFadd32 (p : Cpu) (d : RegNo) (n : Fin 8) (a : Word) (s : State) : Outcome := s.farAtomic p d 2 2 0 n a
/-- FSWP32. -/
def execFswp32 (p : Cpu) (d : RegNo) (n : Fin 8) (a : Word) (s : State) : Outcome := s.farAtomic p d 2 2 1 n a
/-- FCAS32. -/
def execFcas32 (p : Cpu) (d : RegNo) (n : Fin 8) (a : Word) (s : State) : Outcome := s.farAtomic p d 2 4 2 n a
/-- FADD64. -/
def execFadd64 (p : Cpu) (d : RegNo) (n : Fin 8) (a : Word) (s : State) : Outcome := s.farAtomic p d 4 4 3 n a
/-- FSWP64. -/
def execFswp64 (p : Cpu) (d : RegNo) (n : Fin 8) (a : Word) (s : State) : Outcome := s.farAtomic p d 4 4 4 n a
/-- FCAS64. -/
def execFcas64 (p : Cpu) (d : RegNo) (n : Fin 8) (a : Word) (s : State) : Outcome := s.farAtomic p d 4 8 5 n a

end Sys2Proof.Machine
end

