-- ==== Sys2Proof/Machine/MulDiv.lean ====
section
/-! DEFINITION. Multiply, divide and multiply-accumulate (R121, R153). -/

namespace Sys2Proof.Machine

/-- The 32-bit value of a register pair: wd is the more significant half (R117). -/
def CpuState.pair (u : CpuState) (d : RegNo) : Nat := (u.read d).toNat * 65536 + (u.read (regAfter d 1)).toNat

/-- The two halves written to a pair. -/
def CpuState.writePair (d : RegNo) (v : Nat) (u : CpuState) : CpuState :=
  (u.write d (BitVec.ofNat 16 (v / 65536))).write (regAfter d 1) (BitVec.ofNat 16 v)

/-- An operation on a pair that the scoreboard holds for `latency` cycles. -/
def pairOp (len latency : Nat) (reads : List ScoreTarget) (d : RegNo) (hi lo : Word) (f : Flags) (p : Cpu) : Op :=
  let out : List ScoreTarget := [.reg d, .reg (regAfter d 1), .status]
  { Op.nop with
    len := len, cycles := len, reads := reads, writes := out, late := out.map (fun t => (t, latency))
    fault := if d = 15 then some faultIllegal else none
    effect := fun s => (s.modCpu p (fun u => ((u.write d hi).write (regAfter d 1) lo).withFlags f), true) }

/-- A multiply into a pair. -/
def State.mulPair (p : Cpu) (d r : RegNo) (v : Nat) (s : State) : Outcome :=
  s.instr p (pairOp 1 3 [.reg d, .reg r] d (BitVec.ofNat 16 (v / 65536)) (BitVec.ofNat 16 v) (pairFlags v false) p)

/-- MUL. -/
def execMul (p : Cpu) (d r : RegNo) (s : State) : Outcome :=
  let u := s.cpu p
  s.mulPair p d r (((u.read d).toInt * (u.read r).toInt) % (2 ^ 32 : Nat)).toNat

/-- MULU. -/
def execMulu (p : Cpu) (d r : RegNo) (s : State) : Outcome :=
  let u := s.cpu p
  s.mulPair p d r ((u.read d).toNat * (u.read r).toNat)

/-- MULL. -/
def execMull (p : Cpu) (d r : RegNo) (s : State) : Outcome :=
  let u := s.cpu p
  let v := (u.read d).toInt * (u.read r).toInt
  let w := ofIntW v
  let f : Flags := { z := w == 0, n := wbit w 15, c := false, v := decide (v < -32768 ∨ 32767 < v) }
  s.instr p { Op.nop with
    reads := [.reg d, .reg r], writes := [.reg d, .status], late := [(.reg d, 3), (.status, 3)]
    effect := fun t => (t.modCpu p (fun x => (x.write d w).withFlags f), true) }

/-- DIVZ of SES_CPU_MODE, as in force (after R142). -/
def State.divz (s : State) (p : Cpu) : Bool := (s.ownForce p 0xFE00).testBit 1

/-- A divide's operation from its quotient, remainder and V; by zero it faults or gives 0xFFFF and the dividend (R140). -/
def State.divide (p : Cpu) (d r : RegNo) (q m : Word) (v : Bool) (s : State) : Outcome :=
  let u := s.cpu p
  let zero := u.read r == 0
  let quot := if zero then 0xFFFF#16 else q
  let f : Flags := { z := quot == 0, n := wbit quot 15, c := false, v := zero || v }
  let o := pairOp 1 18 [.reg d, .reg r] d quot (if zero then u.read d else m) f p
  s.instr p { o with fault := if d = 15 then some faultIllegal else if zero && !s.divz p then some faultDiv else none }

/-- DIVS. -/
def execDivs (p : Cpu) (d r : RegNo) (s : State) : Outcome :=
  let a := ((s.cpu p).read d).toInt
  let b := ((s.cpu p).read r).toInt
  s.divide p d r (ofIntW (a.tdiv b)) (ofIntW (a.tmod b)) (decide (a = -32768 ∧ b = -1))

/-- DIVU. -/
def execDivu (p : Cpu) (d r : RegNo) (s : State) : Outcome :=
  let a := ((s.cpu p).read d).toNat
  let b := ((s.cpu p).read r).toNat
  s.divide p d r (BitVec.ofNat 16 (a / b)) (BitVec.ofNat 16 (a % b)) false

/-- A multiply-accumulate from its new accumulator and V. -/
def State.macc (p : Cpu) (d a b : RegNo) (v : Nat) (ov : Bool) (s : State) : Outcome :=
  s.instr p (pairOp 2 2 [.reg d, .reg (regAfter d 1), .reg a, .reg b] d (BitVec.ofNat 16 (v / 65536)) (BitVec.ofNat 16 v)
    (pairFlags v ov) p)

/-- The accumulator of a pair as a signed number. -/
def CpuState.acc (u : CpuState) (d : RegNo) : Int := sext 32 (u.pair d)

/-- MAC. -/
def execMac (p : Cpu) (d a b : RegNo) (s : State) : Outcome :=
  let u := s.cpu p
  let t := u.acc d + (u.read a).toInt * (u.read b).toInt
  s.macc p d a b (t % (2 ^ 32 : Nat)).toNat (decide (t < -(2 ^ 31 : Nat) ∨ (2 ^ 31 : Nat) ≤ t))

/-- MACU. -/
def execMacu (p : Cpu) (d a b : RegNo) (s : State) : Outcome :=
  let u := s.cpu p
  let t := u.pair d + (u.read a).toNat * (u.read b).toNat
  s.macc p d a b (t % 2 ^ 32) (decide (2 ^ 32 ≤ t))

/-- MACF. -/
def execMacf (p : Cpu) (d a b : RegNo) (s : State) : Outcome :=
  let u := s.cpu p
  let t := u.acc d + 2 * ((u.read a).toInt * (u.read b).toInt)
  let c := clampInt (-(2 ^ 31 : Nat)) ((2 ^ 31 : Nat) - 1) t
  s.macc p d a b (c % (2 ^ 32 : Nat)).toNat (decide (c ≠ t))

end Sys2Proof.Machine
end

