-- ==== Sys2Proof/Machine/Dispatch.lean ====
section
/-! DEFINITION. The effect of every command: one arm per constructor of `Instr`, each a direct call of its meaning. -/

namespace Sys2Proof.Machine

def exec (i : Instr) (s : State) : Host.Outcome State Fault Refusal :=
  match i with
  | .nop p => Sys2Proof.Machine.execNop p s
  | .wait p => Sys2Proof.Machine.execWait p s
  | .waitEnd p n => Sys2Proof.Machine.execWaitEnd p n s
  | .reti p => Sys2Proof.Machine.execReti p s
  | .fence p => Sys2Proof.Machine.execFence p s
  | .di p => Sys2Proof.Machine.execDi p s
  | .ei p => Sys2Proof.Machine.execEi p s
  | .mfst p d => Sys2Proof.Machine.execMfst p d s
  | .mtst p src => Sys2Proof.Machine.execMtst p src s
  | .push p src => Sys2Proof.Machine.execPush p src s
  | .pop p d => Sys2Proof.Machine.execPop p d s
  | .mtx p n src => Sys2Proof.Machine.execMtx p n src s
  | .mfx p d n => Sys2Proof.Machine.execMfx p d n s
  | .mov p d src => Sys2Proof.Machine.execMov p d src s
  | .add p d src => Sys2Proof.Machine.execAdd p d src s
  | .adc p d src => Sys2Proof.Machine.execAdc p d src s
  | .sub p d src => Sys2Proof.Machine.execSub p d src s
  | .sbc p d src => Sys2Proof.Machine.execSbc p d src s
  | .cmp p d src => Sys2Proof.Machine.execCmp p d src s
  | .and p d src => Sys2Proof.Machine.execAnd p d src s
  | .or p d src => Sys2Proof.Machine.execOr p d src s
  | .xor p d src => Sys2Proof.Machine.execXor p d src s
  | .tst p d src => Sys2Proof.Machine.execTst p d src s
  | .neg p d src => Sys2Proof.Machine.execNeg p d src s
  | .not p d src => Sys2Proof.Machine.execNot p d src s
  | .swpb p d src => Sys2Proof.Machine.execSwpb p d src s
  | .sxb p d src => Sys2Proof.Machine.execSxb p d src s
  | .zxb p d src => Sys2Proof.Machine.execZxb p d src s
  | .addi p d k => Sys2Proof.Machine.execAddi p d k s
  | .movi p d k => Sys2Proof.Machine.execMovi p d k s
  | .cmpi p d k => Sys2Proof.Machine.execCmpi p d k s
  | .shl p d a => Sys2Proof.Machine.execShl p d a s
  | .shr p d a => Sys2Proof.Machine.execShr p d a s
  | .sar p d a => Sys2Proof.Machine.execSar p d a s
  | .rol p d a => Sys2Proof.Machine.execRol p d a s
  | .ror p d a => Sys2Proof.Machine.execRor p d a s
  | .rlc p d a => Sys2Proof.Machine.execRlc p d a s
  | .rrc p d a => Sys2Proof.Machine.execRrc p d a s
  | .mul p d src => Sys2Proof.Machine.execMul p d src s
  | .mulu p d src => Sys2Proof.Machine.execMulu p d src s
  | .mull p d src => Sys2Proof.Machine.execMull p d src s
  | .divs p d src => Sys2Proof.Machine.execDivs p d src s
  | .divu p d src => Sys2Proof.Machine.execDivu p d src s
  | .mac p d src t => Sys2Proof.Machine.execMac p d src t s
  | .macu p d src t => Sys2Proof.Machine.execMacu p d src t s
  | .macf p d src t => Sys2Proof.Machine.execMacf p d src t s
  | .ld p d m => Sys2Proof.Machine.execLd p d m s
  | .ldp p d m => Sys2Proof.Machine.execLdp p d m s
  | .st p d m => Sys2Proof.Machine.execSt p d m s
  | .stp p d m => Sys2Proof.Machine.execStp p d m s
  | .ldv p d m => Sys2Proof.Machine.execLdv p d m s
  | .ldpv p d m => Sys2Proof.Machine.execLdpv p d m s
  | .stv p d m => Sys2Proof.Machine.execStv p d m s
  | .stpv p d m => Sys2Proof.Machine.execStpv p d m s
  | .lds p d m => Sys2Proof.Machine.execLds p d m s
  | .ldps p d m => Sys2Proof.Machine.execLdps p d m s
  | .sts p d m => Sys2Proof.Machine.execSts p d m s
  | .stps p d m => Sys2Proof.Machine.execStps p d m s
  | .ldc p d m => Sys2Proof.Machine.execLdc p d m s
  | .bcc p c annul e => Sys2Proof.Machine.execBcc p c annul e s
  | .bra p annul e => Sys2Proof.Machine.execBra p annul e s
  | .jmp p annul t => Sys2Proof.Machine.execJmp p annul t s
  | .call p annul t mask => Sys2Proof.Machine.execCall p annul t mask s
  | .ret p annul mask => Sys2Proof.Machine.execRet p annul mask s
  | .bbs p b annul e => Sys2Proof.Machine.execBbs p b annul e s
  | .bbc p b annul e => Sys2Proof.Machine.execBbc p b annul e s
  | .bld p d b => Sys2Proof.Machine.execBld p d b s
  | .bst p d b => Sys2Proof.Machine.execBst p d b s
  | .bset p b => Sys2Proof.Machine.execBset p b s
  | .bclr p b => Sys2Proof.Machine.execBclr p b s
  | .bnot p b => Sys2Proof.Machine.execBnot p b s
  | .btst p b => Sys2Proof.Machine.execBtst p b s
  | .bldc p b => Sys2Proof.Machine.execBldc p b s
  | .bstc p b => Sys2Proof.Machine.execBstc p b s
  | .bandc p b => Sys2Proof.Machine.execBandc p b s
  | .borc p b => Sys2Proof.Machine.execBorc p b s
  | .bxorc p b => Sys2Proof.Machine.execBxorc p b s
  | .mtseg p n d => Sys2Proof.Machine.execMtseg p n d s
  | .mfseg p d n => Sys2Proof.Machine.execMfseg p d n s
  | .ldf p d n a => Sys2Proof.Machine.execLdf p d n a s
  | .stf p d n a => Sys2Proof.Machine.execStf p d n a s
  | .ldfp p d n a => Sys2Proof.Machine.execLdfp p d n a s
  | .stfp p d n a => Sys2Proof.Machine.execStfp p d n a s
  | .fadd32 p d n a => Sys2Proof.Machine.execFadd32 p d n a s
  | .fswp32 p d n a => Sys2Proof.Machine.execFswp32 p d n a s
  | .fcas32 p d n a => Sys2Proof.Machine.execFcas32 p d n a s
  | .fadd64 p d n a => Sys2Proof.Machine.execFadd64 p d n a s
  | .fswp64 p d n a => Sys2Proof.Machine.execFswp64 p d n a s
  | .fcas64 p d n a => Sys2Proof.Machine.execFcas64 p d n a s
  | .entry p => Sys2Proof.Machine.execEntry p s
  | .intSet p bits => Sys2Proof.Machine.execIntSet p bits s
  | .timerArm p n ctrl => Sys2Proof.Machine.execTimerArm p n ctrl s
  | .timerStart p n => Sys2Proof.Machine.execTimerStart p n s
  | .timerExpiry p n => Sys2Proof.Machine.execTimerExpiry p n s
  | .contextEntryWrite node c k v => Sys2Proof.Machine.execContextEntryWrite node c k v s
  | .create port c => Sys2Proof.Machine.execCreate port c s
  | .admitCtx port c slot => Sys2Proof.Machine.execAdmitCtx port c slot s
  | .suspend port c => Sys2Proof.Machine.execSuspend port c s
  | .snapshot port c new => Sys2Proof.Machine.execSnapshot port c new s
  | .fork port c new slot => Sys2Proof.Machine.execFork port c new slot s
  | .exportCtx port c a => Sys2Proof.Machine.execExportCtx port c a s
  | .returnCtx port c => Sys2Proof.Machine.execReturnCtx port c s
  | .importCtx port c a => Sys2Proof.Machine.execImportCtx port c a s
  | .retire port c => Sys2Proof.Machine.execRetire port c s
  | .release port c => Sys2Proof.Machine.execRelease port c s
  | .commandDone port => Sys2Proof.Machine.execCommandDone port s
  | .placementQuery c => Sys2Proof.Machine.execPlacementQuery c s
  | .bscBookSnap => Sys2Proof.Machine.execBscBookSnap s
  | .periodCommit slot h => Sys2Proof.Machine.execPeriodCommit slot h s
  | .phaseWrite slot adj => Sys2Proof.Machine.execPhaseWrite slot adj s
  | .slipRecordRead die => Sys2Proof.Machine.execSlipRecordRead die s
  | .haltRecordRead die => Sys2Proof.Machine.execHaltRecordRead die s
  | .horizonEntry c => Sys2Proof.Machine.execHorizonEntry c s
  | .bandBoundary c => Sys2Proof.Machine.execBandBoundary c s
  | .deadlineTest c => Sys2Proof.Machine.execDeadlineTest c s
  | .lineRender c => Sys2Proof.Machine.execLineRender c s
  | .bandCode c => Sys2Proof.Machine.execBandCode c s
  | .monitorCopy c => Sys2Proof.Machine.execMonitorCopy c s
  | .bandRelease c => Sys2Proof.Machine.execBandRelease c s
  | .markerSend c => Sys2Proof.Machine.execMarkerSend c s
  | .lateBandSend c => Sys2Proof.Machine.execLateBandSend c s
  | .audioSample c => Sys2Proof.Machine.execAudioSample c s
  | .audioPacketRelease c => Sys2Proof.Machine.execAudioPacketRelease c s
  | .kon c v ctrl => Sys2Proof.Machine.execKon c v ctrl s
  | .koff c v ctrl => Sys2Proof.Machine.execKoff c v ctrl s
  | .gainWrite c node g => Sys2Proof.Machine.execGainWrite c node g s
  | .vidCommit c => Sys2Proof.Machine.execVidCommit c s
  | .vblankInstant c => Sys2Proof.Machine.execVblankInstant c s
  | .lineCompare c => Sys2Proof.Machine.execLineCompare c s
  | .beamlineRead c => Sys2Proof.Machine.execBeamlineRead c s
  | .lpgStart c => Sys2Proof.Machine.execLpgStart c s
  | .lpgEnd c => Sys2Proof.Machine.execLpgEnd c s
  | .lpgWait c => Sys2Proof.Machine.execLpgWait c s
  | .wreg c => Sys2Proof.Machine.execWreg c s
  | .wpal c => Sys2Proof.Machine.execWpal c s
  | .loop c => Sys2Proof.Machine.execLoop c s
  | .setp c => Sys2Proof.Machine.execSetp c s
  | .paletteWrite c w1 => Sys2Proof.Machine.execPaletteWrite c w1 s
  | .paletteRead c => Sys2Proof.Machine.execPaletteRead c s
  | .blitGo c withAbort => Sys2Proof.Machine.execBlitGo c withAbort s
  | .blitAbort c => Sys2Proof.Machine.execBlitAbort c s
  | .blitBurst c => Sys2Proof.Machine.execBlitBurst c s
  | .dmaEnable c ch ctrl => Sys2Proof.Machine.execDmaEnable c ch ctrl s
  | .kick c ch => Sys2Proof.Machine.execKick c ch s
  | .dmaAbort c ch => Sys2Proof.Machine.execDmaAbort c ch s
  | .descriptorRead c ch => Sys2Proof.Machine.execDescriptorRead c ch s
  | .dmaBurst c => Sys2Proof.Machine.execDmaBurst c s
  | .writeBackDescriptor c ch => Sys2Proof.Machine.execWriteBackDescriptor c ch s
  | .dmaTrigger c ch => Sys2Proof.Machine.execDmaTrigger c ch s
  | .dmaFence c => Sys2Proof.Machine.execDmaFence c s
  | .mailboxCommit slot h => Sys2Proof.Machine.execMailboxCommit slot h s
  | .mailboxSend c => Sys2Proof.Machine.execMailboxSend c s
  | .outboxRead slot => Sys2Proof.Machine.execOutboxRead slot s
  | .mailboxQueueRead die => Sys2Proof.Machine.execMailboxQueueRead die s
  | .pageMiss c pg => Sys2Proof.Machine.execPageMiss c pg s
  | .pageInDone c pg => Sys2Proof.Machine.execPageInDone c pg s
  | .firstTouch c pg => Sys2Proof.Machine.execFirstTouch c pg s
  | .copyOnWrite c pg => Sys2Proof.Machine.execCopyOnWrite c pg s
  | .stagingMiss c line => Sys2Proof.Machine.execStagingMiss c line s
  | .eviction die => Sys2Proof.Machine.execEviction die s
  | .writeBack c pg => Sys2Proof.Machine.execWriteBack c pg s
  | .persistentFailure node f => Sys2Proof.Machine.execPersistentFailure node f s
  | .sealDevice cause => Sys2Proof.Machine.execSealDevice cause s
  | .alloc pool => Sys2Proof.Machine.execAlloc pool s
  | .free a => Sys2Proof.Machine.execFree a s
  | .retireOperation k a => Sys2Proof.Machine.execRetireOperation k a s
  | .query a => Sys2Proof.Machine.execQuery a s
  | .curBookSnap => Sys2Proof.Machine.execCurBookSnap s
  | .quarantineRecordRead => Sys2Proof.Machine.execQuarantineRecordRead s
  | .titleEntryWrite node t k v => Sys2Proof.Machine.execTitleEntryWrite node t k v s
  | .input c payload => Sys2Proof.Machine.execInput c payload s
  | .feedback c payload => Sys2Proof.Machine.execFeedback c payload s
  | .refresh c payload => Sys2Proof.Machine.execRefresh c payload s
  | .frameReceive port sub fcsOk bytes => Sys2Proof.Machine.execFrameReceive port sub fcsOk bytes s
  | .xoff port sub => Sys2Proof.Machine.execXoff port sub s
  | .xon port sub => Sys2Proof.Machine.execXon port sub s
  | .packetDequeue port sub => Sys2Proof.Machine.execPacketDequeue port sub s
  | .transmitEnd port sub => Sys2Proof.Machine.execTransmitEnd port sub s
  | .portControlWrite port v => Sys2Proof.Machine.execPortControlWrite port v s
  | .linkChange port sub up => Sys2Proof.Machine.execLinkChange port sub up s
  | .flowRead => Sys2Proof.Machine.execFlowRead s
  | .flowWrite => Sys2Proof.Machine.execFlowWrite s
  | .controlPush => Sys2Proof.Machine.execControlPush s
  | .qmBookSnap => Sys2Proof.Machine.execQmBookSnap s
  | .wakeRead => Sys2Proof.Machine.execWakeRead s
  | .keeperTransmit => Sys2Proof.Machine.execKeeperTransmit s
  | .transmitRingPoll => Sys2Proof.Machine.execTransmitRingPoll s
  | .rootLock => Sys2Proof.Machine.execRootLock s
  | .ptpSet => Sys2Proof.Machine.execPtpSet s
  | .ptpStep neg => Sys2Proof.Machine.execPtpStep neg s
  | .pherrWrite e => Sys2Proof.Machine.execPherrWrite e s
  | .integratorWrite v => Sys2Proof.Machine.execIntegratorWrite v s
  | .synceWindow f => Sys2Proof.Machine.execSynceWindow f s
  | .holdPtp => Sys2Proof.Machine.execHoldPtp s
  | .ptpTimeRead => Sys2Proof.Machine.execPtpTimeRead s
  | .kprRunWrite node v => Sys2Proof.Machine.execKprRunWrite node v s
  | .claimRead node c => Sys2Proof.Machine.execClaimRead node c s
  | .claimFree node c => Sys2Proof.Machine.execClaimFree node c s
  | .watchdogKick k v => Sys2Proof.Machine.execWatchdogKick k v s
  | .watchdogWarn k => Sys2Proof.Machine.execWatchdogWarn k s
  | .watchdog k => Sys2Proof.Machine.execWatchdog k s
  | .dicClaim t => Sys2Proof.Machine.execDicClaim t s
  | .dicComplete t n => Sys2Proof.Machine.execDicComplete t n s
  | .dicSwset n => Sys2Proof.Machine.execDicSwset n s
  | .groupFire g => Sys2Proof.Machine.execGroupFire g s
  | .bootRomStart => Sys2Proof.Machine.execBootRomStart s
  | .ident m => Sys2Proof.Machine.execIdent m s
  | .logread m => Sys2Proof.Machine.execLogread m s
  | .dcpMode m => Sys2Proof.Machine.execDcpMode m s
  | .imgcheck m => Sys2Proof.Machine.execImgcheck m s
  | .imgwrite m => Sys2Proof.Machine.execImgwrite m s
  | .bootsel m => Sys2Proof.Machine.execBootsel m s
  | .imgrun m => Sys2Proof.Machine.execImgrun m s
  | .lread m => Sys2Proof.Machine.execLread m s
  | .lwrite m => Sys2Proof.Machine.execLwrite m s
  | .keyset m => Sys2Proof.Machine.execKeyset m s
  | .minver m => Sys2Proof.Machine.execMinver m s
  | .netset m => Sys2Proof.Machine.execNetset m s
  | .programCommand m => Sys2Proof.Machine.execProgramCommand m s
  | .dcpReply status body => Sys2Proof.Machine.execDcpReply status body s
  | .rd node tag a len => Sys2Proof.Machine.execRd node tag a len s
  | .wr node tag a data parityOk poison => Sys2Proof.Machine.execWr node tag a data parityOk poison s
  | .pwr node tag a data parityOk poison => Sys2Proof.Machine.execPwr node tag a data parityOk poison s
  | .atom node tag atype a data => Sys2Proof.Machine.execAtom node tag atype a data s
  | .event node msg => Sys2Proof.Machine.execEvent node msg s
  | .line agent level => Sys2Proof.Machine.execLine agent level s
  | .doorbell agent code slot idx => Sys2Proof.Machine.execDoorbell agent code slot idx s
  | .rdr node tag parityOk => Sys2Proof.Machine.execRdr node tag parityOk s
  | .wrr node tag => Sys2Proof.Machine.execWrr node tag s
  | .pack node tag => Sys2Proof.Machine.execPack node tag s
  | .atr node tag parityOk => Sys2Proof.Machine.execAtr node tag parityOk s
  | .loamTimeout node tag => Sys2Proof.Machine.execLoamTimeout node tag s
  | .moduleFail link => Sys2Proof.Machine.execModuleFail link s
  | .loamCredsnap die => Sys2Proof.Machine.execLoamCredsnap die s
  | .tapItem c => Sys2Proof.Machine.execTapItem c s
  | .tapReturn agent data => Sys2Proof.Machine.execTapReturn agent data s
  | .plinthRun cause => Sys2Proof.Machine.execPlinthRun cause s
  | .plinthReset => Sys2Proof.Machine.execPlinthReset s
  | .isolation cause => Sys2Proof.Machine.execIsolation cause s
  | .plnPwrloss thermal => Sys2Proof.Machine.execPlnPwrloss thermal s
  | .plnTDbell v => Sys2Proof.Machine.execPlnTDbell v s
  | .powerRequest node v => Sys2Proof.Machine.execPowerRequest node v s
  | .ascentStep => Sys2Proof.Machine.execAscentStep s
  | .stepFail what => Sys2Proof.Machine.execStepFail what s
  | .descent => Sys2Proof.Machine.execDescent s
  | .drainEnd => Sys2Proof.Machine.execDrainEnd s
  | .pwrDieWrite node v => Sys2Proof.Machine.execPwrDieWrite node v s
  | .wakeTimer => Sys2Proof.Machine.execWakeTimer s
  | .wakePin pin => Sys2Proof.Machine.execWakePin pin s
  | .pwrSwreset node key => Sys2Proof.Machine.execPwrSwreset node key s
  | .resetN => Sys2Proof.Machine.execResetN s
  | .supplyOn => Sys2Proof.Machine.execSupplyOn s
  | .supplyLoss => Sys2Proof.Machine.execSupplyLoss s
  | .supplyLow mv => Sys2Proof.Machine.execSupplyLow mv s
  | .temperatureRead rd0 rd1 hd ps => Sys2Proof.Machine.execTemperatureRead rd0 rd1 hd ps s
  | .nvrWrite node fromRom n v => Sys2Proof.Machine.execNvrWrite node fromRom n v s
  | .nvrCommit ok => Sys2Proof.Machine.execNvrCommit ok s
  | .alogWrite k ctrl => Sys2Proof.Machine.execAlogWrite k ctrl s
  | .recordSeal => Sys2Proof.Machine.execRecordSeal s
  | .logScan lostBefore => Sys2Proof.Machine.execLogScan lostBefore s
  | .gpioOutWrite bank oe v => Sys2Proof.Machine.execGpioOutWrite bank oe v s
  | .gpioEnWrite v => Sys2Proof.Machine.execGpioEnWrite v s
  | .debounceChange pin level => Sys2Proof.Machine.execDebounceChange pin level s
  | .strapSample gpio9 gpio10 => Sys2Proof.Machine.execStrapSample gpio9 gpio10 s
  | .i2cGo unit ctrl => Sys2Proof.Machine.execI2cGo unit ctrl s
  | .i2cDone unit result rx => Sys2Proof.Machine.execI2cDone unit result rx s
  | .uartWrite k b => Sys2Proof.Machine.execUartWrite k b s
  | .uartRead k => Sys2Proof.Machine.execUartRead k s
  | .uartReceive k b => Sys2Proof.Machine.execUartReceive k b s
  | .tachEdge k us => Sys2Proof.Machine.execTachEdge k us s
  | .tachStall k => Sys2Proof.Machine.execTachStall k s
  | .monitorEnable => Sys2Proof.Machine.execMonitorEnable s
  | .monCommit => Sys2Proof.Machine.execMonCommit s
  | .monVblank => Sys2Proof.Machine.execMonVblank s
  | .monHpd e => Sys2Proof.Machine.execMonHpd e s
  | .linkTraining trains => Sys2Proof.Machine.execLinkTraining trains s
  | .bypass => Sys2Proof.Machine.execBypass s
  | .idcode => Sys2Proof.Machine.execIdcode s
  | .samplePreload preload => Sys2Proof.Machine.execSamplePreload preload s
  | .extest => Sys2Proof.Machine.execExtest s
  | .clamp => Sys2Proof.Machine.execClamp s
  | .highz => Sys2Proof.Machine.execHighz s
  | .trstN => Sys2Proof.Machine.execTrstN s
  | .registerWrite t => Sys2Proof.Machine.execRegisterWrite t s
  | .pfcPauseEnd port sub prio => Sys2Proof.Machine.execPfcPauseEnd port sub prio s
  | .supplyLowEnd mv => Sys2Proof.Machine.execSupplyLowEnd mv s
  | .moduleRetrain link => Sys2Proof.Machine.execModuleRetrain link s
  | .moduleRetrainEnd link => Sys2Proof.Machine.execModuleRetrainEnd link s
  | .uartTransmit k => Sys2Proof.Machine.execUartTransmit k s
  | .ledBlink k => Sys2Proof.Machine.execLedBlink k s
  | .videoPacketReceive pk => Sys2Proof.Machine.execVideoPacketReceive pk s
  | .audioPacketPlay pk => Sys2Proof.Machine.execAudioPacketPlay pk s
  | .rootLockLoss => Sys2Proof.Machine.execRootLockLoss s

end Sys2Proof.Machine
end

