-- ==== Sys2Proof/Machine/Tick.lean ====
section
/-! DEFINITION. What passes with no command: one cycle of the 384 MHz clock, with the utility tick and the millisecond that
it may end (R332, R335, R355, R374, R450, R451; log entry 10). -/

namespace Sys2Proof.Machine

/-- The timebase's increments, in turn (R335). -/
def timeStep (rot : Fin 3) : Nat := if rot = 2 then 170666 else 170667

/-- The groups of the DIC whose timers run count a utility tick (R374). -/
def Dic.tick (d : Dic) : Dic :=
  { d with gElapsed := (List.range 64).foldl (fun m g =>
      if d.gRunning.getLsbD g then Sparse.modify 0 m g (· + 1) else m) d.gElapsed }

/-- A watchdog counts a utility tick (R355). -/
def State.wdTick (s : State) (k : Fin 4) : State :=
  if s.wdEn k && s.keeperClocked k && decide (0 < (s.keeper k).wdLeft) then
    s.modKeeper k (fun x => { x with wdLeft := x.wdLeft - 1 })
  else s

/-- A millisecond ends: the second of R403. -/
def State.milli (s : State) : State :=
  let second := decide (s.plinth.msgMs + 1 = 1000)
  { s with
    plinth := { s.plinth with msgMs := if second then 0 else s.plinth.msgMs + 1
                              msgBad := if second then 0 else s.plinth.msgBad } }

/-- What the boot ROM sends for the frame of receive descriptor `i`: where it is one of ARP or ICMP, which holds neighbour
discovery, an answer on the sub-port it came by, or nothing. Which requests it answers, and the bytes, are defined outside
the specification: they are free (R319, R361 step 3, R363; log entry 34). -/
def State.romAnswer (i : Nat) (s : State) : State :=
  let a := s.rxBase + 32 * i
  let w0 := s.word64 a
  let w1 := s.word64 (a + 8)
  let p := field w1 44 1
  let m := field w1 42 2
  if w0.testBit 63 ∨ (field w0 48 8 ≠ 1 ∧ field w0 48 8 ≠ 2) ∨ s.subUp p m = false ∨ Config.freeBool s.fresh = false then s.spend
  else
    let n := 60 + Config.freeCount s.fresh % 4037
    { s with
      fresh := s.fresh + (n + 1)
      wire := .frame (Fin.ofNat 2 p) (Fin.ofNat 4 m) s.stamp
        ((List.range n).map (fun j => Config.freeByte (s.fresh + j))) :: s.wire }

/-- The boot ROM, alone, answers what its receive ring holds and gives the ring back. -/
def State.romNetwork (s : State) : State :=
  ((List.range s.rxLen).foldl (fun (s : State) i => s.romAnswer i) s).bootRearm false

/-- The age of the last PHERR counts a utility tick (R344). -/
def State.phaseTick (s : State) : State :=
  { s with clock := { s.clock with phAge := if s.clock.phased then s.clock.phAge + 1 else 0 } }

/-- Outstanding Loam requests count a utility tick (R392). -/
def State.loamTick (s : State) : State := { s with loam := s.loam.map (fun r : LoamReq => { r with age := r.age + 1 }) }

/-- Accepted NV writes count a utility tick (R422). -/
def State.nvTick (s : State) : State := { s with rram := { s.rram with nvQueue := nvAge s.rram.nvQueue } }

/-- A utility tick ends: NV writes, watchdogs, the clock servo's and Loam's timeouts, debounce, coalescing timers, the boot ROM's receive ring. -/
def State.utility (s : State) : State :=
  let s1 := ((((s.wdTick 0).wdTick 1).wdTick 2).wdTick 3).phaseTick.loamTick.nvTick.pinsTick
  let s2 : State := if s1.power.hub then { s1 with dic := s1.dic.tick } else s1
  let s3 := if s2.romServes then s2.romNetwork else s2
  if s3.clock.subMs + 1 = 1000 then { s3 with clock := { s3.clock with subMs := 0 } }.milli
  else { s3 with clock := { s3.clock with subMs := s3.clock.subMs + 1 } }

/-- The line engines of a powered die count their clocks (R101): 64 engines at twice this clock. -/
def State.engineClocks (d : Nat) (s : State) : State := if s.power.dieUp d then s.addCnt (bookAddr d 0) 128 else s

/-- One cycle of the 384 MHz clock, once the root is locked. -/
def State.cycle (s : State) : State :=
  if s.power.mode = .off ∨ !s.clock.rootLock then s
  else
    let c := s.clock
    let tick := decide (c.sub + 1 = 384)
    let s1 : State := { s with clock := { c with
      time := (c.time + timeStep c.rot) % timeRange, rot := c.rot + 1, sub := if tick then 0 else c.sub + 1 } }
    let s2 := ((s1.engineClocks 0).engineClocks 1).pinsCycle
    if tick then s2.utility else s2

end Sys2Proof.Machine
end

