-- ==== Sys2Proof/Safety.lean ====
section
/-! DEFINITION. What counts as a sound state of the block, when an instruction of a processor runs to its end, and what a
completed instruction leaves, in the terms the statements use. -/

namespace Sys2Proof.Machine

/-- A sound state: memory and its parity marks are in canonical form, and no record FIFO holds more than the
specification gives it (R103, R323, R354, R371, R434). -/
structure State.Inv (s : State) : Prop where
  mem : memWf s.mem = true
  bad : Sparse.wf false s.bad = true
  wake : s.wakeFifo.length ≤ 1024
  slip : ∀ d : Fin 2, s.slipFifo[d.val].length ≤ 256
  halt : ∀ d : Fin 2, s.haltFifo[d.val].length ≤ 256
  mbq : ∀ d : Fin 2, s.mbqFifo[d.val].length ≤ 256
  quar : s.quarFifo.length ≤ 256

/-! ### When an instruction runs to its end -/

/-- A processor but for the count of its cycles. -/
def CpuState.core (u : CpuState) : CpuState := { u with now := 0 }

/-- A processor the state holds: every Keeper, and a session with state pages. -/
def State.has (s : State) : Cpu → Prop
  | .session c => (s.ses c).isSome
  | .keeper _ => True

/-- No context command waits for a step of the Beam Scheduler or the Curator. A SNAPSHOT or FORK that waits may be undone
by the quarantine of its source, and its new context with it. -/
def State.noneWaits (s : State) : Prop := ∀ p : Fin 4, s.ports[p.val].waiting = none

/-- The longest an instruction may wait on the scoreboard (R121), or for far accesses (R139). -/
def CpuState.longest (u : CpuState) : Nat := u.score.foldl (fun m e => max m (e.2 - u.now)) (u.farWait (fun _ => true))

/-- Virtual time does not stop for `n` cycles: after fewer, the next may pass. -/
def State.timeRuns (s : State) (p : Cpu) (n : Nat) : Prop :=
  ∀ m, m < n → (s.cpuUntil p ((s.cpu p).now + m)).2 = true ∧ ((s.cpuUntil p ((s.cpu p).now + m)).1.poised p).2 = true

/-- The state an instruction issues in: its words are read, and in Fast mode a free value is taken (R128). -/
def State.begins (s : State) (p : Cpu) (len : Nat) : State := (s.fetchLine p len).1.spendFast p

/-- An instruction of `len` words issues now, is not annulled, and finds its words, which are an instruction's. -/
structure State.Issues (s : State) (p : Cpu) (len : Nat) : Prop where
  issues : s.mayIssue p = true
  first : (s.cpu p).issued = none
  kept : ∀ d, (s.cpu p).slot = some d → d.annulled = false
  words : s.badFetch p len = none
  line : (s.fetchLine p len).2 = true
  coded : (s.fetchLine p len).1.unencoded p = false
  quiet : s.noneWaits

/-- An instruction of `len` words and `count` cycles issues now, and virtual time does not stop before its end, whatever it waits on
the scoreboard. `past`: the instruction before it issued in a cycle that has passed. -/
structure State.Ready (s : State) (p : Cpu) (len count : Nat) : Prop extends s.Issues p len where
  past : ∀ q, ((s.begins p len).cpu p).prev = some q → q.first ≤ ((s.begins p len).cpu p).now
  time : (s.begins p len).timeRuns p (((s.begins p len).cpu p).longest + count + (s.fetchLine p len).1.fastExtra p)

/-- For `n` cycles nothing of a session's hardware moves a page or a word: its blitter, its DMA and its line program stand, no sample
is waited for, and no band boundary comes. A Keeper has none of these. -/
def State.Calm (s : State) : Cpu → Nat → Prop
  | .keeper _, _ => True
  | .session c, n => ∃ x, s.ses c = some x ∧ x.blit = none ∧ x.dmaAct = none ∧ (∀ k, (x.ch k).phase = .off ∧ (x.ch k).trigs = []) ∧
      x.soundWaits = false ∧ x.lpg.running = false ∧ wbit (x.ioW 0xF500) 0 = false ∧ n < x.toBoundary (s.ctxBandH c)

/-- The same of an instruction that reaches memory: nothing else does before its end. -/
structure State.ReadyCalm (s : State) (p : Cpu) (len count : Nat) : Prop extends s.Ready p len count where
  calm : (s.begins p len).Calm p (((s.begins p len).cpu p).longest + count + (s.fetchLine p len).1.fastExtra p)

/-- Cycle `n` of the count of an instruction in progress, up to the point at which what is done in it takes effect; none where
virtual time stands before it, or the access waits for the session's own units. -/
def State.inCount (p : Cpu) (o : Op) (n : Nat) (early : State → State) (i : Issued) (s : State) : Option State :=
  match s.cpuUntil p (i.first + n - 1) with
  | (_, false) => none
  | (s1, true) =>
    match s1.poised p with
    | (_, false) => none
    | (s2, true) =>
      let s3 := (early s2).cpuPre p
      let s4 := if o.isLoad || o.sees then s3.cpuPost p else s3
      if s4.lagging p (o.isLoad || o.sees) o.acc then none else some s4

/-- The state the effect of an instruction in progress is made in; an instruction that shares an issue cycle that has passed takes no
cycle of its own (R128). -/
def State.lastState (p : Cpu) (o : Op) (i : Issued) (s : State) : Option State :=
  (if i.first + i.total ≤ (s.cpu p).now then
    if s.lagging p (o.isLoad || o.sees) o.acc then none else some (o.early s)
  else s.inCount p o i.total o.early i).map (fun t => t.modCpu p (fun u => { u with loadOld := [] }))

/-- The state the effect of an operation is made in, where the operation issues in this state and nothing holds it: the first half of
a split pair comes before it (R119). -/
def State.effectState (s : State) (p : Cpu) (o : Op) : Option State :=
  let i := (s.fetchLine p o.len).1.issueOf p o
  match o.mid with
  | none => (s.begins p o.len).lastState p o i
  | some (n, early, act) =>
    (((s.begins p o.len).holdAt p i).inCount p o n early i).bind (fun h =>
      match act h with
      | (h1, true) =>
        let h2 := if o.isLoad || o.sees then h1 else h1.cpuPost p
        h2.lastState p o (((h2.cpu p).issued).getD i)
      | (_, false) => none)

/-- The instruction of operation `o` comes to its effect in state `b`. -/
structure State.ReadyFor (s : State) (p : Cpu) (o : Op) (b : State) : Prop extends s.Issues p o.len where
  sound : (s.cpu p).faultOf o = none
  comes : s.effectState p o = some b

/-- The address after an instruction of `len` words (R111), or the target of the transfer whose delay slot it fills
(R123). -/
def CpuState.nextPc (u : CpuState) (len : Nat) : Word :=
  match u.slot with
  | some d => if d.taken then d.target else u.pc + BitVec.ofNat 16 len
  | none => u.pc + BitVec.ofNat 16 len

/-- `t` is `s` after one instruction of processor `p`, complete: its registers are those of `v`, and no other processor's register
changes. -/
structure State.Moves (s t : State) (p : Cpu) (len : Nat) (v : CpuState) : Prop where
  w : (t.cpu p).w = v.w
  x : (t.cpu p).x = v.x
  seg : (t.cpu p).seg = v.seg
  st : (t.cpu p).st = v.st
  pc : (t.cpu p).pc = (s.cpu p).nextPc len
  slot : (t.cpu p).slot = v.slot
  loadOld : (t.cpu p).loadOld = v.loadOld
  shadow : (t.cpu p).shadow = v.shadow
  waiting : (t.cpu p).waiting = v.waiting
  halted : (t.cpu p).halted = v.halted
  ended : (t.cpu p).between = true
  others : ∀ q, q ≠ p → (t.cpu q).core = (s.cpu q).core

/-- The same of an instruction that writes no register of R126 by a store: the writes of R126 come one instruction
nearer. -/
structure State.Retires (s t : State) (p : Cpu) (len : Nat) (v : CpuState) : Prop extends s.Moves t p len v where
  modePend : (t.cpu p).modePend = (v.modePend.map (fun m => { m with left := m.left - 1 })).filter (fun m => m.left != 0)
  modes : (∀ m ∈ v.modePend, 1 < m.left) →
    (t.cpu p).yz = v.yz ∧ (t.cpu p).il = v.il ∧ (t.cpu p).ie = v.ie

/-- The same of an instruction that a Keeper runs without changing a byte of memory. -/
structure State.RetiresHere (s t : State) (p : Cpu) (len : Nat) (v : CpuState) : Prop extends s.Retires t p len v where
  memory : ∀ k, p = .keeper k → t.mem = s.mem

/-- The registers an instruction starts from: whatever a load or a delay slot before it left is past (R120, R123). -/
def CpuState.begun (u : CpuState) : CpuState := { u with loadOld := [], slot := none, shadow := false }

end Sys2Proof.Machine
end

