-- ==== Sys2Proof/Certificates/Slice0/Obligations.lean ====
section
/-! DEFINITION. The statements for the provers, and the terms they are stated in. -/

open Sys2Proof Sys2Proof.Machine

namespace Sys2Proof.Claims
end Sys2Proof.Claims

open Sys2Proof.Claims

/-! ### The queue -/

/-- A step takes the command at the front of the queue and runs it on the rest. -/
def Obligations.StepRunsFrontCommand : Prop :=
  ∀ (c : Instr) (s : State), step { s with pending := c :: s.pending } = exec c s

/-! ### Instructions that change registers and flags only -/

/-- Instruction `i` of processor `p`, of `len` words and `count` cycles, runs to its end in every state it is ready in, and
leaves the registers that `v` makes of those it started from. -/
def Sys2Proof.Claims.runsTo (i : Instr) (p : Cpu) (len count : Nat) (v : CpuState → CpuState) : Prop :=
  ∀ s : State, s.Ready p len count → ∃ t, exec i s = .next t ∧ s.RetiresHere t p len (v (s.cpu p))

/-- Instruction `i` of processor `p`, of `len` words, raises fault `f` where `c` holds: its issue cycle and what it waited before it
have passed, it has no other effect, and the fault is taken (R140, R141). -/
def Sys2Proof.Claims.faultsIf (i : Instr) (p : Cpu) (len : Nat) (c : State → Prop) (f : FaultInfo) : Prop :=
  ∀ s : State, c s → s.Ready p len 1 → ∃ n, (s.cpu p).now < n ∧
    exec i s = .next (((((s.begins p len).cpuUntil p n).1).modCpu p (fun u => { u with issued := none })).takeFault p f)

/-- The registers after a result in `d`, with Z and N of it and the C and V given. -/
def Sys2Proof.Claims.withResult (d : RegNo) (r : Word) (c v : Bool) (u : CpuState) : CpuState :=
  (u.begun.write d r).withFlags { z := r == 0, n := wbit r 15, c := c, v := v }

/-- The registers after flags alone. -/
def Sys2Proof.Claims.withTest (r : Word) (c v : Bool) (u : CpuState) : CpuState :=
  u.begun.withFlags { z := r == 0, n := wbit r 15, c := c, v := v }

/-- R150, R151: MOV, MOVI, SWPB, SXB and ZXB set Z and N and leave C and V; AND, OR, XOR, TST and NOT clear V. -/
def Obligations.MoveAndLogicResults : Prop :=
  ∀ (p : Cpu) (d r : RegNo) (x : Src) (k : Byte),
    runsTo (.mov p d x) p (srcLen x) (srcLen x) (fun u => withResult d (u.src x) u.flags.c u.flags.v u) ∧
    runsTo (.movi p d k) p 1 1 (fun u => withResult d (k.signExtend 16) u.flags.c u.flags.v u) ∧
    runsTo (.swpb p d r) p 1 1 (fun u => withResult d ((u.read r).rotateLeft 8) u.flags.c u.flags.v u) ∧
    runsTo (.sxb p d r) p 1 1 (fun u => withResult d (((u.read r).extractLsb' 0 8).signExtend 16) u.flags.c u.flags.v u) ∧
    runsTo (.zxb p d r) p 1 1 (fun u => withResult d (((u.read r).extractLsb' 0 8).zeroExtend 16) u.flags.c u.flags.v u) ∧
    runsTo (.and p d x) p (srcLen x) (srcLen x) (fun u => withResult d (u.read d &&& u.src x) u.flags.c false u) ∧
    runsTo (.or p d x) p (srcLen x) (srcLen x) (fun u => withResult d (u.read d ||| u.src x) u.flags.c false u) ∧
    runsTo (.xor p d x) p (srcLen x) (srcLen x) (fun u => withResult d (u.read d ^^^ u.src x) u.flags.c false u) ∧
    runsTo (.tst p d x) p (srcLen x) (srcLen x) (fun u => withTest (u.read d &&& u.src x) u.flags.c false u) ∧
    runsTo (.not p d r) p 1 1 (fun u => withResult d (~~~(u.read r)) u.flags.c false u)

/-- The carry and the overflow of the add of R145, read as numbers: the unsigned sum does not fit 16 bits, the signed sum
does not. -/
def Sys2Proof.Claims.addC (a b : Word) (cin : Bool) : Bool := decide (2 ^ 16 ≤ a.toNat + b.toNat + b2n cin)
def Sys2Proof.Claims.addV (a b : Word) (cin : Bool) : Bool :=
  decide (a.toInt + b.toInt + (b2n cin : Nat) < -(2 ^ 15) ∨ 2 ^ 15 ≤ a.toInt + b.toInt + (b2n cin : Nat))

/-- The same of its sub: C is 1 where nothing is borrowed. -/
def Sys2Proof.Claims.subC (a b : Word) (bin : Bool) : Bool := decide (b.toNat + b2n bin ≤ a.toNat)
def Sys2Proof.Claims.subV (a b : Word) (bin : Bool) : Bool :=
  decide (a.toInt - b.toInt - (b2n bin : Nat) < -(2 ^ 15) ∨ 2 ^ 15 ≤ a.toInt - b.toInt - (b2n bin : Nat))

/-- A carry as a word. -/
def Sys2Proof.Claims.cw (c : Bool) : Word := if c then 1 else 0

/-- R145, R150, R151: sums and differences with their four flags. -/
def Obligations.AddAndSubtractResults : Prop :=
  ∀ (p : Cpu) (d r : RegNo) (x : Src) (k : Byte),
    runsTo (.add p d x) p (srcLen x) (srcLen x) (fun u =>
      withResult d (u.read d + u.src x) (addC (u.read d) (u.src x) false) (addV (u.read d) (u.src x) false) u) ∧
    runsTo (.adc p d x) p (srcLen x) (srcLen x) (fun u => withResult d (u.read d + u.src x + cw u.flags.c)
      (addC (u.read d) (u.src x) u.flags.c) (addV (u.read d) (u.src x) u.flags.c) u) ∧
    runsTo (.sub p d x) p (srcLen x) (srcLen x) (fun u =>
      withResult d (u.read d - u.src x) (subC (u.read d) (u.src x) false) (subV (u.read d) (u.src x) false) u) ∧
    runsTo (.sbc p d x) p (srcLen x) (srcLen x) (fun u => withResult d (u.read d - u.src x - cw (!u.flags.c))
      (subC (u.read d) (u.src x) (!u.flags.c)) (subV (u.read d) (u.src x) (!u.flags.c)) u) ∧
    runsTo (.cmp p d x) p (srcLen x) (srcLen x) (fun u =>
      withTest (u.read d - u.src x) (subC (u.read d) (u.src x) false) (subV (u.read d) (u.src x) false) u) ∧
    runsTo (.neg p d r) p 1 1 (fun u =>
      withResult d (-(u.read r)) (subC 0 (u.read r) false) (subV 0 (u.read r) false) u) ∧
    runsTo (.addi p d k) p 1 1 (fun u => withResult d (u.read d + k.signExtend 16)
      (addC (u.read d) (k.signExtend 16) false) (addV (u.read d) (k.signExtend 16) false) u) ∧
    runsTo (.cmpi p d k) p 1 1 (fun u => withTest (u.read d - k.signExtend 16)
      (subC (u.read d) (k.signExtend 16) false) (subV (u.read d) (k.signExtend 16) false) u)

/-- R146: after CMP, the conditions compare the operands, unsigned and signed. -/
def Obligations.ConditionsCompareOperands : Prop :=
  ∀ a b : Word, let f := (subFlags a b false).flags
    (condMet f 0x0 = true ↔ a = b) ∧ (condMet f 0x1 = true ↔ a ≠ b) ∧
    (condMet f 0x2 = true ↔ b.toNat ≤ a.toNat) ∧ (condMet f 0x3 = true ↔ a.toNat < b.toNat) ∧
    (condMet f 0x8 = true ↔ b.toNat < a.toNat) ∧ (condMet f 0x9 = true ↔ a.toNat ≤ b.toNat) ∧
    (condMet f 0xA = true ↔ b.toInt ≤ a.toInt) ∧ (condMet f 0xB = true ↔ a.toInt < b.toInt) ∧
    (condMet f 0xC = true ↔ b.toInt < a.toInt) ∧ (condMet f 0xD = true ↔ a.toInt ≤ b.toInt) ∧
    condMet f 0xE = true

/-- What a shift of `a` places leaves in a register, and its C (R152). -/
def Sys2Proof.Claims.shifted (kind : Fin 7) (w : Word) (c : Bool) (a : Nat) : Word × Bool :=
  let x : BitVec 17 := (BitVec.ofBool c) ++ w
  if a = 0 then (w, c)
  else match kind with
    | 0 => (w <<< a, w.getLsbD (16 - a))
    | 1 => (w >>> a, w.getLsbD (a - 1))
    | 2 => (w.sshiftRight a, w.getLsbD (a - 1))
    | 3 => (w.rotateLeft a, (w.rotateLeft a).getLsbD 0)
    | 4 => (w.rotateRight a, (w.rotateRight a).getLsbD 15)
    | 5 => ((x.rotateLeft a).setWidth 16, (x.rotateLeft a).getLsbD 16)
    | 6 => ((x.rotateRight a).setWidth 16, (x.rotateRight a).getLsbD 16)

/-- The registers after a shift. -/
def Sys2Proof.Claims.withShift (kind : Fin 7) (d : RegNo) (a : Amount) (u : CpuState) : CpuState :=
  let r := shifted kind (u.read d) u.flags.c (u.amount a)
  withResult d r.1 r.2 false u

/-- R152: the shifts and rotates. -/
def Obligations.ShiftResults : Prop :=
  ∀ (p : Cpu) (d : RegNo) (a : Amount),
    runsTo (.shl p d a) p 1 1 (withShift 0 d a) ∧ runsTo (.shr p d a) p 1 1 (withShift 1 d a) ∧
    runsTo (.sar p d a) p 1 1 (withShift 2 d a) ∧ runsTo (.rol p d a) p 1 1 (withShift 3 d a) ∧
    runsTo (.ror p d a) p 1 1 (withShift 4 d a) ∧ runsTo (.rlc p d a) p 1 1 (withShift 5 d a) ∧
    runsTo (.rrc p d a) p 1 1 (withShift 6 d a)

/-- The registers after a 32-bit result in wd and the next register: Z and N of all 32 bits, C clear (R117, R153). -/
def Sys2Proof.Claims.withPair (d : RegNo) (r : BitVec 32) (v : Bool) (u : CpuState) : CpuState :=
  ((u.begun.write d (r.extractLsb' 16 16)).write (regAfter d 1) (r.extractLsb' 0 16)).withFlags
    { z := r == 0, n := r.msb, c := false, v := v }

/-- The accumulator in wd and the next register (R117). -/
def Sys2Proof.Claims.pairOf (u : CpuState) (d : RegNo) : BitVec 32 := u.read d ++ u.read (regAfter d 1)

/-- A sum outside the signed 32-bit range (R153). -/
def Sys2Proof.Claims.over32 (i : Int) : Bool := decide (i < -(2 ^ 31) ∨ 2 ^ 31 ≤ i)

/-- A sum held within the signed 32-bit range. -/
def Sys2Proof.Claims.sat32 (i : Int) : BitVec 32 :=
  if i < -(2 ^ 31) then 0x80000000 else if 2 ^ 31 ≤ i then 0x7FFFFFFF else BitVec.ofInt 32 i

/-- R153: the products and the multiply-accumulates; a pair that would pass w15 is ILLEGAL (R144). -/
def Obligations.MultiplyResults : Prop :=
  ∀ (p : Cpu) (d a b : RegNo), 
    (d ≠ 15 → runsTo (.mul p d a) p 1 1 (fun u => withPair d (BitVec.ofInt 32 ((u.read d).toInt * (u.read a).toInt)) false u)) ∧
    (d ≠ 15 → runsTo (.mulu p d a) p 1 1 (fun u => withPair d (BitVec.ofNat 32 ((u.read d).toNat * (u.read a).toNat)) false u)) ∧
    runsTo (.mull p d a) p 1 1 (fun u => withResult d (u.read d * u.read a) false
      (decide ((u.read d).toInt * (u.read a).toInt < -32768 ∨ 32767 < (u.read d).toInt * (u.read a).toInt)) u) ∧
    (d ≠ 15 → runsTo (.mac p d a b) p 2 2 (fun u =>
      let t := (pairOf u d).toInt + (u.read a).toInt * (u.read b).toInt
      withPair d (BitVec.ofInt 32 t) (over32 t) u)) ∧
    (d ≠ 15 → runsTo (.macu p d a b) p 2 2 (fun u =>
      let t := (pairOf u d).toNat + (u.read a).toNat * (u.read b).toNat
      withPair d (BitVec.ofNat 32 t) (decide (2 ^ 32 ≤ t)) u)) ∧
    (d ≠ 15 → runsTo (.macf p d a b) p 2 2 (fun u =>
      let t := (pairOf u d).toInt + 2 * (u.read a).toInt * (u.read b).toInt
      withPair d (sat32 t) (over32 t) u)) ∧
    (d = 15 → faultsIf (.mul p d a) p 1 (fun _ => True) faultIllegal ∧ faultsIf (.mulu p d a) p 1 (fun _ => True) faultIllegal ∧
      faultsIf (.mac p d a b) p 2 (fun _ => True) faultIllegal ∧ faultsIf (.macu p d a b) p 2 (fun _ => True) faultIllegal ∧
      faultsIf (.macf p d a b) p 2 (fun _ => True) faultIllegal)

/-- The registers after a divide: Z and N of the 16-bit quotient, C clear. -/
def Sys2Proof.Claims.withQuotient (d : RegNo) (q m : Word) (v : Bool) (u : CpuState) : CpuState :=
  ((u.begun.write d q).write (regAfter d 1) m).withFlags { z := q == 0, n := wbit q 15, c := false, v := v }

/-- Instruction `i` runs to its end in every ready state where `c` holds. -/
def Sys2Proof.Claims.runsToIf (i : Instr) (p : Cpu) (len count : Nat) (c : State → Prop) (v : CpuState → CpuState) : Prop :=
  ∀ s : State, c s → s.Ready p len count → ∃ t, exec i s = .next t ∧ s.RetiresHere t p len (v (s.cpu p))

/-- R153, R140: quotient and remainder; by zero with DIVZ 1 the quotient is 0xFFFF, the remainder the dividend, and V is
set. -/
def Obligations.DivideResults : Prop :=
  ∀ (p : Cpu) (d a : RegNo), (d ≠ 15 →
    runsToIf (.divs p d a) p 1 1 (fun s => (s.cpu p).read a ≠ 0) (fun u =>
      withQuotient d ((u.read d).sdiv (u.read a)) ((u.read d).srem (u.read a))
        (decide (u.read d = 0x8000 ∧ u.read a = 0xFFFF)) u) ∧
    runsToIf (.divu p d a) p 1 1 (fun s => (s.cpu p).read a ≠ 0) (fun u =>
      withQuotient d ((u.read d).udiv (u.read a)) ((u.read d).umod (u.read a)) false u) ∧
    runsToIf (.divs p d a) p 1 1 (fun s => (s.cpu p).read a = 0 ∧ s.divz p = true) (fun u =>
      withQuotient d 0xFFFF (u.read d) true u) ∧
    runsToIf (.divu p d a) p 1 1 (fun s => (s.cpu p).read a = 0 ∧ s.divz p = true) (fun u =>
      withQuotient d 0xFFFF (u.read d) true u) ∧
    faultsIf (.divs p d a) p 1 (fun s => (s.cpu p).read a = 0 ∧ s.divz p = false) faultDiv ∧
    faultsIf (.divu p d a) p 1 (fun s => (s.cpu p).read a = 0 ∧ s.divz p = false) faultDiv) ∧
  (d = 15 → faultsIf (.divs p d a) p 1 (fun _ => True) faultIllegal ∧ faultsIf (.divu p d a) p 1 (fun _ => True) faultIllegal)

/-- R113, R126, R149: register moves, and the writes of ST. DI, EI and MTST change ST as MFST reads it at once; YZ, IL and IE in
force wait for the mode-change distance. FENCE waits until no far access of a Keeper is outstanding (R139); every other store has
landed by the end of its own count (log entry 31). -/
def Obligations.SystemMoveResults : Prop :=
  ∀ (p : Cpu) (d r : RegNo) (n : Fin 4),
    runsTo (.nop p) p 1 1 (fun u => u.begun) ∧
    runsTo (.fence p) p 1 1 (fun u => u.begun) ∧
    (∀ k s, p = .keeper k → s.Ready p 1 1 → ∃ t, exec (.fence p) s = .next t ∧ (t.cpu p).far = []) ∧
    runsTo (.mfst p d) p 1 1 (fun u => u.begun.write d u.st) ∧
    runsTo (.mtx p n r) p 1 1 (fun u => { u.begun with x := u.x.set n.val (u.read r) }) ∧
    runsTo (.mfx p d n) p 1 1 (fun u => u.begun.write d u.x[n.val]) ∧
    runsTo (.di p) p 1 1 (fun u => { u.begun with
      st := u.st &&& ~~~0x10#16, modePend := u.modePend ++ [{ left := 3, target := .ie false }] }) ∧
    runsTo (.ei p) p 1 1 (fun u => { u.begun with
      st := u.st ||| 0x10#16, modePend := u.modePend ++ [{ left := 3, target := .ie true }] }) ∧
    runsTo (.mtst p r) p 1 1 (fun u => let v := u.read r
      { u.begun with
        st := (u.st &&& 0x8000#16) ||| (v &&& 0x40FF#16)
        modePend := u.modePend ++ [{ left := 3, target := .yz (v.getLsbD 14) },
          { left := 3, target := .il (v.extractLsb' 5 3) }, { left := 3, target := .ie (v.getLsbD 4) }] })

/-- R126: a write of YZ, IL or IE, and on a Keeper one of a register of D space, takes effect after the instruction that ends its
distance, and until then the old values hold. -/
def Obligations.ModeWriteTakesEffect : Prop :=
  ∀ (p : Cpu) (s : State) (m : ModeTarget) (n : Nat), (s.cpu p).modePend = [{ left := n, target := m }] →
    s.Ready p 1 1 →
    ∃ t, exec (.nop p) s = .next t ∧
      (n ≤ 1 → (t.cpu p).modePend = [] ∧ (match m with
        | .ie b => (t.cpu p).ie = b
        | .il l => (t.cpu p).il = l
        | .yz b => (t.cpu p).yz = b
        | .io a v => ∀ k, p = .keeper k → t.ownForce p a = v.toNat)) ∧
      (1 < n → (t.cpu p).modePend = [{ left := n - 1, target := m }] ∧ (t.cpu p).ie = (s.cpu p).ie ∧
        (t.cpu p).il = (s.cpu p).il ∧ (t.cpu p).yz = (s.cpu p).yz)

/-- The registers after a transfer: only the delay slot is set (R123). -/
def Sys2Proof.Claims.withSlot (taken : Bool) (target : Word) (annul : Bool) (u : CpuState) : CpuState :=
  { u.begun with slot := some { taken := taken, target := target, annulled := annul && !taken } }

/-- Transfer `i` outside a delay slot runs to its end and leaves the registers that `v` makes. -/
def Sys2Proof.Claims.transfers (i : Instr) (p : Cpu) (len : Nat) (v : CpuState → CpuState) : Prop :=
  runsToIf i p len len (fun s => (s.cpu p).slot = none) v

/-- R123, R157, R158: a branch or jump puts its outcome in the delay slot; a relative target counts from the word after the
transfer. -/
def Obligations.BranchResults : Prop :=
  ∀ (p : Cpu) (annul : Bool),
    (∀ (c : BitVec 4) (e : BitVec 7), c ≠ 15 → transfers (.bcc p c annul (.short e)) p 1 (fun u =>
      withSlot (condMet u.flags c) (u.pc + 1 + e.signExtend 16) annul u)) ∧
    (∀ (c : BitVec 4) (i : Word), c ≠ 15 → transfers (.bcc p c annul (.long i)) p 2 (fun u =>
      withSlot (condMet u.flags c) (u.pc + 2 + i) annul u)) ∧
    (∀ e : BitVec 11, transfers (.bra p annul e) p 1 (fun u => withSlot true (u.pc + 1 + e.signExtend 16) annul u)) ∧
    (∀ r : RegNo, transfers (.jmp p annul (.reg r)) p 1 (fun u => withSlot true (u.read r) annul u)) ∧
    (∀ i : Word, transfers (.jmp p annul (.abs i)) p 2 (fun u => withSlot true i annul u))

/-- R123: the instruction in the slot of an annulled transfer has no effect but its cycle: no register changes, and the
program counter moves past it; a store, a transfer, a WAIT and a change of status among them. -/
def Obligations.AnnulledSlotHasNoEffect : Prop :=
  ∀ (p : Cpu) (d : RegNo) (x : Src) (m : MemForm) (annul : Bool) (e : BitVec 11) (tg : CallTarget) (mask : Word) (b : BitVec 14)
    (s : State) (dl : DelaySlot), (s.cpu p).slot = some dl → dl.annulled = true → dl.taken = false → s.mayIssue p = true →
    (s.cpu p).issued = none → s.noneWaits → ((s.spendFast p).cpuUntil p ((s.cpu p).now + 1 + s.fastExtra p)).2 = true →
    ∀ r ∈ [(Instr.add p d x, srcLen x), (.ld p d m, ((s.cpu p).address m).len), (.st p d m, ((s.cpu p).address m).len),
      (.push p d, 1), (.pop p d, 1), (.mtst p d, 1), (.wait p, 1), (.bra p annul e, 1), (.call p annul tg mask, 2), (.bset p b, 2)],
      ∃ t, exec r.1 s = .next t ∧ s.RetiresHere t p r.2 (s.cpu p).begun

/-! ### Loads and stores -/

/-- The index registers after an address form, `b` the state the access is made in: advanced by one word or two (R135,
R155). -/
def Sys2Proof.Claims.advancedX (b : State) (p : Cpu) (pair : Bool) (a : Address) (u : CpuState) : Vector Word 4 :=
  match a.advance with
  | some (n, k) =>
    let md := b.indexMode p n
    u.x.set n.val (advanceIndex md.1 md.2.1 md.2.2 u.x[n.val] (if pair then 2 * k else k))
  | none => u.x

/-- The registers after a load: the words loaded, the index register moved on; the next instruction still reads the old
values (R120). -/
def Sys2Proof.Claims.withLoads (l : List (RegNo × Word)) (x : Vector Word 4) (u : CpuState) : CpuState :=
  { u.begun.loadRegs l with x := x, shadow := true }

/-- A word load of an instruction: what the access reads goes to `d`. -/
def Sys2Proof.Claims.loadsWord (i : Instr) (p : Cpu) (m : MemSpace) (d : RegNo) (f : MemForm) : Prop :=
  ∀ (s b : State) (v : Word), s.ReadyFor p (s.loadOp p m false d f) b →
    let a := (s.cpu p).address f
    (b.memLoad p m a.addr).2 = some v →
    ∃ t, exec i s = .next t ∧ s.Retires t p a.len (withLoads [(d, v)] (advancedX (b.memLoad p m a.addr).1 p false a (s.cpu p)) (s.cpu p))

/-- A pair load: word a goes to `d`, word a + 1 to the next register (R117). The first is what the first half of a split pair has
loaded, or is read with the second (R119). -/
def Sys2Proof.Claims.loadsPair (i : Instr) (p : Cpu) (m : MemSpace) (d : RegNo) (f : MemForm) : Prop :=
  ∀ (s b : State) (v v' : Word), s.ReadyFor p (s.loadOp p m true d f) b →
    let a := (s.cpu p).address f
    let b1 := (b.firstWord p m a.addr).1
    (b.firstWord p m a.addr).2 = some v → (b1.memLoad p m (a.addr + 1)).2 = some v' →
    ∃ t, exec i s = .next t ∧ s.Retires t p a.len
      (withLoads [(d, v), (regAfter d 1, v')] (advancedX (b1.memLoad p m (a.addr + 1)).1 p true a (s.cpu p)) (s.cpu p))

/-- R117, R119, R120, R154, R155: the loads of every space. -/
def Obligations.LoadResults : Prop :=
  ∀ (p : Cpu) (d : RegNo) (f : MemForm),
    loadsWord (.ld p d f) p .d d f ∧ loadsWord (.ldv p d f) p .v d f ∧ loadsWord (.lds p d f) p .s d f ∧
    loadsWord (.ldc p d f) p .c d f ∧ loadsPair (.ldp p d f) p .d d f ∧ loadsPair (.ldpv p d f) p .v d f ∧
    loadsPair (.ldps p d f) p .s d f

/-- A store of an instruction: where every word still to be written is, no register changes but an index register. -/
def Sys2Proof.Claims.storesWords (i : Instr) (p : Cpu) (m : MemSpace) (pair : Bool) (d : RegNo) (f : MemForm) : Prop :=
  ∀ s b : State, s.ReadyFor p (s.storeOp p m pair d f) b →
    let a := (s.cpu p).address f
    let r := b.storeWords p m (b.wordsLeft p ((s.cpu p).storeList pair d a.addr))
    r.2 = true →
    ∃ t, exec i s = .next t ∧ s.Moves t p a.len { (s.cpu p).begun with x := advancedX r.1 p pair a (s.cpu p) }

/-- R119, R154, R155: the stores of every space change no register but an index register. -/
def Obligations.StoreFrames : Prop :=
  ∀ (p : Cpu) (d : RegNo) (f : MemForm),
    storesWords (.st p d f) p .d false d f ∧ storesWords (.stp p d f) p .d true d f ∧
    storesWords (.stv p d f) p .v false d f ∧ storesWords (.stpv p d f) p .v true d f ∧
    storesWords (.sts p d f) p .s false d f ∧ storesWords (.stps p d f) p .s true d f

/-- A word of a Keeper's data RAM. -/
def Sys2Proof.Claims.ramWord (s : State) (k : Fin 4) (a : Nat) : Word := Sparse.get 0 (s.keeper k).dram a

/-- The words `l` stand in Keeper `k`'s data RAM, and no other word of any Keeper's, nor any byte of memory, has changed. -/
def Sys2Proof.Claims.ramHolds (s t : State) (k : Fin 4) (l : List (Nat × Word)) : Prop :=
  (∀ e ∈ l, ramWord t k e.1 = e.2) ∧ (∀ k' a, (∀ e ∈ l, (k, e.1) ≠ (k', a)) → ramWord t k' a = ramWord s k' a) ∧ t.mem = s.mem

/-- R119, R347: a Keeper's stores and loads in its data RAM, of a word and of a pair at an even or an odd address. The store
leaves every other word of every Keeper's RAM and every byte of memory; the load reads what stands there. -/
def Sys2Proof.Claims.keeperRamRule : Prop :=
  ∀ (k : Fin 4) (d : RegNo) (f : MemForm) (pair : Bool) (s : State), let p : Cpu := .keeper k
    let a := (s.cpu p).address f
    a.addr < 0xF000 →
    (let o := s.storeOp p .d pair d f; s.Ready p a.len o.cycles → (s.cpu p).faultOf o = none →
      ∃ t, exec (if pair then .stp p d f else .st p d f) s = .next t ∧ ramHolds s t k ((s.cpu p).storeList pair d a.addr)) ∧
    (let o := s.loadOp p .d pair d f; s.Ready p a.len o.cycles → (s.cpu p).faultOf o = none →
      ∃ t, exec (if pair then .ldp p d f else .ld p d f) s = .next t ∧ (t.cpu p).w[d.val] = ramWord s k a.addr ∧
        (pair = true → (t.cpu p).w[(regAfter d 1).val] = ramWord s k (a.addr + 1)) ∧ ramHolds s t k [])

/-- R66, R178: a word of a page that has its Gallery copy, of good parity, is read from that copy; a write goes to the copy's two
bytes, marks the page dirty and changes no other byte. -/
def Sys2Proof.Claims.residentPageRule : Prop :=
  ∀ (s : State) (c : CtxNo) (i off d : Nat) (v : Word), off < 2048 →
    s.ctxDie c = some d → (s.page c i).alloc = true → (s.page c i).cow = false → (s.page c i).gcopy = true →
    let f := galleryFrame d (s.page c i).gframe.toNat
    let a := f * 4096 + 2 * off
    (s.badIn f off 1 = false → (s.pageRead c i off).2 = some (s.word a) ∧ (s.pageRead c i off).1.mem = s.mem) ∧
    (s.pageWrite c i off v).2 = true ∧ (s.pageWrite c i off v).1.word a = v ∧
    (∀ b, b ≠ a → b ≠ a + 1 → memByte (s.pageWrite c i off v).1.mem b = memByte s.mem b) ∧
    ((s.pageWrite c i off v).1.page c i).dirty = true

/-- R66, R119, R178, R347: the data RAM of a Keeper, and a page of a session that has its Gallery copy. -/
def Obligations.DataAccess : Prop := keeperRamRule ∧ residentPageRule

/-- R135: in LINEAR mode an index register moves by the step modulo 2^16; in MODULO mode it stays inside its ring and moves by
the step modulo the ring's length. -/
def Obligations.IndexAdvance : Prop :=
  (∀ (xb xl : Nat) (x : Word) (k : Int), advanceIndex xb xl 0 x k = x + BitVec.ofInt 16 k) ∧
  (∀ (xb xl : Nat) (x : Word) (k : Int), 0 < xl → xb + xl ≤ 0x10000 → xb ≤ x.toNat → x.toNat < xb + xl →
    let y := advanceIndex xb xl 1 x k
    xb ≤ y.toNat ∧ y.toNat < xb + xl ∧ ((y.toNat : Int) - xb) % xl = ((x.toNat : Int) - xb + k) % xl) ∧
  (∀ (xb xl : Nat) (x : Word) (k : Int), xl = 0 ∨ xl ≤ (x.toNat + 65536 - xb) % 65536 →
    advanceIndex xb xl 1 x k = x + BitVec.ofInt 16 k)

/-- R111, R149: PUSH decrements w15 and stores below it; POP loads the word at w15 and increments it. On a Keeper both always reach
data RAM below D:0xF000. w15 itself is ILLEGAL (R144). -/
def Obligations.PushPopResults : Prop :=
  ∀ (p : Cpu) (r : RegNo) (s : State),
    (∀ b, s.ReadyFor p (s.pushOp p r) b → (b.dStore p ((s.cpu p).read 15 - 1).toNat ((s.cpu p).read r)).2 = true →
      ∃ t, exec (.push p r) s = .next t ∧ s.Moves t p 1 ((s.cpu p).begun.write 15 ((s.cpu p).read 15 - 1))) ∧
    (∀ b v, s.ReadyFor p (s.popOp p r) b → (b.dLoad p ((s.cpu p).read 15).toNat).2 = some v →
      ∃ t, exec (.pop p r) s = .next t ∧ (t.cpu p).w[r.val] = v ∧ (t.cpu p).w[15] = (s.cpu p).read 15 + 1 ∧
        (∀ q : RegNo, q ≠ r → q ≠ 15 → (t.cpu p).w[q.val] = (s.cpu p).w[q.val]) ∧ (t.cpu p).st = (s.cpu p).st ∧
        (t.cpu p).pc = (s.cpu p).nextPc 1) ∧
    (∀ k, p = .keeper k → r ≠ 15 →
      (((s.cpu p).read 15 - 1).toNat < 0xF000 → s.Ready p 1 1 →
        ∃ t, exec (.push p r) s = .next t ∧ s.Moves t p 1 ((s.cpu p).begun.write 15 ((s.cpu p).read 15 - 1)) ∧
          ramHolds s t k [(((s.cpu p).read 15 - 1).toNat, (s.cpu p).read r)]) ∧
      (((s.cpu p).read 15).toNat < 0xF000 → s.Ready p 1 1 →
        ∃ t, exec (.pop p r) s = .next t ∧ (t.cpu p).w[r.val] = ramWord s k ((s.cpu p).read 15).toNat ∧
          (t.cpu p).w[15] = (s.cpu p).read 15 + 1 ∧ ramHolds s t k [])) ∧
    (r = 15 → faultsIf (.push p r) p 1 (fun _ => True) faultIllegal ∧ faultsIf (.pop p r) p 1 (fun _ => True) faultIllegal)

/-- What CALL leaves of the registers where it pushes `n` words: its target is set, and w15 falls by them (R159). -/
def Sys2Proof.Claims.calls (u : CpuState) (annul : Bool) (tg : CallTarget) (n : Nat) : CpuState :=
  withSlot true (u.callTarget tg) annul (u.write 15 (u.read 15 - BitVec.ofNat 16 n))

/-- What RET leaves of the registers where it pops the words `ws`. -/
def Sys2Proof.Claims.returns (u : CpuState) (annul : Bool) (mask : Word) (ws : List Word) : CpuState :=
  withSlot true (ws.getLast?.getD 0) annul
    ((((maskRegs mask).zip ws).foldl (fun (z : CpuState) e => z.write e.1 e.2) u).write 15
      (u.read 15 + BitVec.ofNat 16 (u.retAddrs mask).length))

/-- The stack of a CALL or RET with mask `mask` lies in work RAM, and the transfer is in no delay slot (R124, R144, R159). -/
def Sys2Proof.Claims.stackFits (u : CpuState) (p : Cpu) (mask : Word) (addrs : List Nat) : Prop :=
  mask.getLsbD 15 = false ∧ u.slot = none ∧ ∀ a ∈ addrs, a < ramEnd p

/-- R157 to R159: CALL pushes the address after its delay slot and the registers of its mask, in descending order, and sets its
target; RET pops them in ascending order, then its target. Where the stack lies in work RAM and nothing else reaches it meanwhile,
both complete once their words are there, as those of a Keeper always are. -/
def Obligations.CallReturnResults : Prop :=
  ∀ (p : Cpu) (annul : Bool) (tg : CallTarget) (mask : Word) (s : State), let u := s.cpu p
    let push : State → Nat → State × Bool := fun b n => (b.lenAt p (u.after 2)).1.storeWords p .d (u.callList mask n)
    (∀ b n, s.ReadyFor p (s.callOp p annul tg mask) b → (b.lenAt p (u.after 2)).2 = some n → (push b n).2 = true →
      ∃ t, exec (.call p annul tg mask) s = .next t ∧ s.Moves t p 2 (calls u annul tg (u.callList mask n).length)) ∧
    (∀ n, s.ReadyCalm p 2 (s.callOp p annul tg mask).cycles → (s.lenAt p (u.after 2)).2 = some n →
      stackFits u p mask ((u.callList mask n).map (·.1)) →
      ((s.begins p 2).lenAt p (u.after 2)).2 = some n → (push (s.begins p 2) n).2 = true →
      ∃ t, exec (.call p annul tg mask) s = .next t ∧ s.Moves t p 2 (calls u annul tg (u.callList mask n).length) ∧
        ∀ k, p = .keeper k → ramHolds s t k (u.callList mask n)) ∧
    (∀ k n, p = .keeper k → (s.lenAt p (u.after 2)).2 = some n →
      ((s.begins p 2).lenAt p (u.after 2)).2 = some n ∧
        (stackFits u p mask ((u.callList mask n).map (·.1)) → (push (s.begins p 2) n).2 = true)) ∧
    (∀ b t1 ws, s.ReadyFor p (s.retOp p annul mask) b → b.loadWords p (u.retAddrs mask) = (t1, some ws) →
      ∃ t, exec (.ret p annul mask) s = .next t ∧ s.Moves t p 2 (returns u annul mask ws)) ∧
    (∀ t1 ws, s.ReadyCalm p 2 (s.retOp p annul mask).cycles → stackFits u p mask (u.retAddrs mask) →
      (s.begins p 2).loadWords p (u.retAddrs mask) = (t1, some ws) →
      ∃ t, exec (.ret p annul mask) s = .next t ∧ s.Moves t p 2 (returns u annul mask ws)) ∧
    (∀ k, p = .keeper k → s.Ready p 2 (s.retOp p annul mask).cycles → stackFits u p mask (u.retAddrs mask) →
      ∃ t, exec (.ret p annul mask) s = .next t ∧
        s.Moves t p 2 (returns u annul mask ((u.retAddrs mask).map (ramWord s k))) ∧ ramHolds s t k []) ∧
    (mask.getLsbD 15 = true → faultsIf (.call p annul tg mask) p 2 (fun _ => True) faultIllegal ∧
      faultsIf (.ret p annul mask) p 2 (fun _ => True) faultIllegal)

/-! ### Bit operands -/

/-- A bit form that reads B[b] leaves the registers that `v` makes of the bit and those it started from: where it comes to its
effect, and, in a session in YZ mode, wherever it issues, its word can be read, and nothing else reaches it meanwhile. -/
def Sys2Proof.Claims.readsBit (i : Instr) (p : Cpu) (b : BitVec 14) (o : Op) (f : Bool → CpuState → CpuState) (v : Bool → CpuState → CpuState) : Prop :=
  ∀ (s : State) (x : Word),
    let made := ∃ t, exec i s = .next t ∧ s.Retires t p 2 (v (x.getLsbD (b.toNat % 16)) (s.cpu p))
    (∀ e, s.ReadyFor p (s.bitReadOp p b o f) e → (e.dLoad p (bitWord b)).2 = some x → made) ∧
    (∀ c, p = .session c → s.ReadyCalm p 2 2 → (s.cpu p).yz = true → ((s.begins p 2).dLoad p (b.toNat / 16)).2 = some x → made)

/-- An operation that reads and writes the status. -/
def Sys2Proof.Claims.statusOp : Op := { Op.nop with reads := [.status], writes := [.status] }

/-- A carry form. -/
def Sys2Proof.Claims.carryForm (f : Bool → Bool → Bool) (v : Bool) (u : CpuState) : CpuState := u.withFlags { u.flags with c := f u.flags.c v }

/-- The registers after a carry form. -/
def Sys2Proof.Claims.withCarry (f : Bool → Bool → Bool) (v : Bool) (u : CpuState) : CpuState :=
  u.begun.withFlags { u.flags with c := f u.flags.c v }

/-- R161: the forms that read a bit. -/
def Sys2Proof.Claims.bitReadResultsRule : Prop :=
  ∀ (p : Cpu) (d : RegNo) (b : BitVec 14),
    readsBit (.bld p d b) p b { Op.nop with reads := [.status], writes := [.reg d, .status], isLoad := true }
      (fun v u => (u.loadRegs [(d, BitVec.ofNat 16 (b2n v))]).withFlags { u.flags with z := !v, n := false })
      (fun v u => (withLoads [(d, if v then 1 else 0)] u.x u).withFlags { u.flags with z := !v, n := false }) ∧
    readsBit (.btst p b) p b statusOp (fun v u => u.withFlags { u.flags with z := !v })
      (fun v u => u.begun.withFlags { u.flags with z := !v }) ∧
    readsBit (.bldc p b) p b statusOp (carryForm (fun _ v => v)) (withCarry (fun _ v => v)) ∧
    readsBit (.bandc p b) p b statusOp (carryForm (fun c v => c && v)) (withCarry (fun c v => c && v)) ∧
    readsBit (.borc p b) p b statusOp (carryForm (fun c v => c || v)) (withCarry (fun c v => c || v)) ∧
    readsBit (.bxorc p b) p b statusOp (carryForm (fun c v => c != v)) (withCarry (fun c v => c != v))

/-- A bit form that writes B[b] changes no register; what it stores in the word, `x` before, is `x` with the bit set to `f`'s
answer: where it comes to its effect, and, in a session in YZ mode, wherever it issues, its word can be read and written, and nothing
else reaches it meanwhile. -/
def Sys2Proof.Claims.writesBit (i : Instr) (p : Cpu) (b : BitVec 14) (reads : List ScoreTarget) (f : State → Bool → Bool) : Prop :=
  ∀ (s : State) (x : Word),
    let m : Word := 1#16 <<< (b.toNat % 16)
    let y := if f s (x.getLsbD (b.toNat % 16)) then x ||| m else x &&& ~~~m
    let done : State → Prop := fun e => (e.dLoad p (b.toNat / 16)).2 = some x ∧
      ((e.dLoad p (b.toNat / 16)).1.dStore p (b.toNat / 16) y).2 = true
    (∀ e, s.ReadyFor p (s.bitWriteOp p b reads (f s)) e → done e →
      ∃ t, exec i s = .next t ∧ s.Moves t p 2 (s.cpu p).begun) ∧
    (∀ c, p = .session c → s.ReadyCalm p 2 3 → (s.cpu p).yz = true → done (s.begins p 2) →
      ∃ t, exec i s = .next t ∧ s.Moves t p 2 (s.cpu p).begun)

/-- R136, R161: the forms that write a bit. -/
def Sys2Proof.Claims.bitWriteFramesRule : Prop :=
  ∀ (p : Cpu) (d : RegNo) (b : BitVec 14),
    writesBit (.bst p d b) p b [.reg d] (fun s _ => ((s.cpu p).read d).getLsbD 0) ∧
    writesBit (.bset p b) p b [] (fun _ _ => true) ∧ writesBit (.bclr p b) p b [] (fun _ _ => false) ∧
    writesBit (.bnot p b) p b [] (fun _ v => !v) ∧
    writesBit (.bstc p b) p b [.status] (fun s _ => (s.cpu p).flags.c)

/-- R158: BBS branches when the bit is 1, BBC when it is 0; the target counts from the word after the branch. -/
def Sys2Proof.Claims.bitBranchResultsRule : Prop :=
  ∀ (p : Cpu) (b : BitVec 14) (annul want : Bool) (e : BitVec 6) (s : State) (x : Word),
    let i := if want then Instr.bbs p b annul e else .bbc p b annul e
    let made := ∃ t, exec i s = .next t ∧
      s.Retires t p 2 (withSlot (x.getLsbD (b.toNat % 16) == want) ((s.cpu p).pc + 2 + e.signExtend 16) annul (s.cpu p))
    (∀ z, s.ReadyFor p (s.bitBranchOp p b want annul e) z → (z.dLoad p (b.toNat / 16)).2 = some x → made) ∧
    (∀ c, p = .session c → s.ReadyCalm p 2 2 → (s.cpu p).yz = true → (s.cpu p).slot = none →
      ((s.begins p 2).dLoad p (b.toNat / 16)).2 = some x → made)

/-- R136, R161, R347: outside YZ mode, and on a Keeper, a form with a bit operand is ILLEGAL. -/
def Sys2Proof.Claims.bitIllegalRule : Prop :=
  ∀ (p : Cpu) (d : RegNo) (b : BitVec 14) (annul : Bool) (e : BitVec 6),
    ∀ i ∈ [Instr.bld p d b, .btst p b, .bldc p b, .bandc p b, .borc p b, .bxorc p b, .bst p d b, .bset p b, .bclr p b, .bnot p b,
      .bstc p b, .bbs p b annul e, .bbc p b annul e],
    faultsIf i p 2 (fun s => (s.cpu p).yz = false ∨ ∃ k, p = .keeper k) faultIllegal

/-- R136, R158, R161: the forms with a bit operand. -/
def Obligations.BitOperandResults : Prop :=
  bitReadResultsRule ∧ bitWriteFramesRule ∧ bitBranchResultsRule ∧ bitIllegalRule

/-! ### Keeper-mode instructions -/

/-- R162, R164: MTSEG and MFSEG move a segment register through a group of three registers; in a session, or past w15, they are
ILLEGAL (R137, R144). -/
def Obligations.SegmentMoves : Prop :=
  ∀ (k : Fin 4) (d : RegNo) (n : Fin 8), (d.val + 3 ≤ 16 →
    runsTo (.mtseg (.keeper k) n d) (.keeper k) 1 1 (fun u =>
      { u.begun with seg := u.seg.set n.val ((u.read (regAfter d 2)).setWidth 6 ++ (u.read (regAfter d 1) ++ u.read d)) }) ∧
    runsTo (.mfseg (.keeper k) d n) (.keeper k) 1 1 (fun u => ((u.begun.write d (u.seg[n.val].extractLsb' 0 16)).write
      (regAfter d 1) (u.seg[n.val].extractLsb' 16 16)).write (regAfter d 2) ((u.seg[n.val].extractLsb' 32 6).zeroExtend 16))) ∧
  ∀ p : Cpu, (16 < d.val + 3 ∨ ∃ c, p = .session c) →
    faultsIf (.mtseg p n d) p 1 (fun _ => True) faultIllegal ∧ faultsIf (.mfseg p d n) p 1 (fun _ => True) faultIllegal

/-- A memory access of `n` words at byte address `x` from HD meets no error: its memory is populated and powered, it is
word-aligned and within one 128-byte block, and its routes are up (R18, R24, R385). -/
def Sys2Proof.Claims.memoryServes (s : State) (x n : Nat) : Prop :=
  x < rdWindow ∧ s.memCheck (s.forwardUp x) x n = none ∧
  ∃ d, addrDie s.part x = some d ∧ (d < 2 → s.power.dieUp d = true) ∧ s.routeUp 2 d = true

/-- Where the words of an access are read: the frame that serves it (R387). -/
def Sys2Proof.Claims.servedAt (s : State) (x : Nat) : Nat := s.served (x / 4096) * 4096 + x % 4096

/-- `n` words read there, which are no state page's, nor a freed frame's that still holds one, and hold good parity. -/
def Sys2Proof.Claims.readsWell (s : State) (x n : Nat) : Prop :=
  s.statePage (x / 4096) = none ∧ s.image (x / 4096) = none ∧ s.loamBad x n = false
def Sys2Proof.Claims.servedWords (s : State) (x n : Nat) : List Word := (List.range n).map (fun j => s.word (servedAt s x + 2 * j))

/-- A far access of a Keeper issues, and nothing stops it before its transaction: its group of `grp` registers lies within w15, its
address is a multiple of `align` words, and its segment is valid, and writable for a write (R138, R144, R162). -/
def Sys2Proof.Claims.farGoes (s : State) (k : Fin 4) (d : RegNo) (grp align : Nat) (write : Bool) (n : Fin 8) (a : Word) : Prop :=
  s.Issues (.keeper k) 2 ∧ d.val + grp ≤ 16 ∧ a.toNat % align = 0 ∧ (s.cpu (.keeper k)).seg[n.val].getLsbD 0 = true ∧
  (write = true → (s.cpu (.keeper k)).seg[n.val].getLsbD 1 = true)

/-- A far access that is stopped before its transaction, by the fault named, or by FAR_ERROR where memory gives an address or a size
error (R138, R139, R144, R162). -/
def Sys2Proof.Claims.farStops (i : Cpu → Instr) (d : RegNo) (grp align words : Nat) (write : Bool) (n : Fin 8) (a : Word) : Prop :=
  (∀ p : Cpu, (16 < d.val + grp ∨ ∃ c, p = .session c) → faultsIf (i p) p 2 (fun _ => True) faultIllegal) ∧
  ∀ k : Fin 4, let p : Cpu := .keeper k
    d.val + grp ≤ 16 →
    (a.toNat % align ≠ 0 → faultsIf (i p) p 2 (fun _ => True) (faultOdd 0 a.toNat)) ∧
    (a.toNat % align = 0 → faultsIf (i p) p 2 (fun s => (s.cpu p).seg[n.val].getLsbD 0 = false ∨
      write = true ∧ (s.cpu p).seg[n.val].getLsbD 1 = false) (faultFar a.toNat)) ∧
    ∀ (s : State) (e e' : Nat), farGoes s k d grp align write n a → let x := (s.cpu p).farAddr n a
      x < rdWindow → addrDie s.part x = some e → (e < 2 → s.power.dieUp e = true) → s.routeUp 2 e = true →
      s.memCheck (s.forwardUp x) x words = some e' →
      ∃ u : State, exec (i p) s = .next (u.takeFault p (faultFar a.toNat)) ∧ u.mem = s.mem ∧ (u.cpu p).w = (s.cpu p).w ∧
        (u.cpu p).pc = (s.cpu p).pc

/-- A far load of `m` words. -/
def Sys2Proof.Claims.farLoads (i : Cpu → Instr) (k : Fin 4) (d : RegNo) (m : Nat) (n : Fin 8) (a : Word) : Prop :=
  farStops i d m m m false n a ∧
  ∀ s : State, let p : Cpu := .keeper k
    let x := (s.cpu p).farAddr n a
    farGoes s k d m m false n a → memoryServes s x m → readsWell s x m →
    ∃ t, exec (i p) s = .next t ∧ s.RetiresHere t p 2
      (withLoads (((List.range m).map (regAfter d)).zip (servedWords s x m)) (s.cpu p).x (s.cpu p))

/-- R138, R139, R163: LDF and LDFP read memory at the segment's base plus twice the operand word, wherever the frame's current
copy lies. -/
def Obligations.FarLoadResults : Prop :=
  ∀ (k : Fin 4) (d : RegNo) (n : Fin 8) (a : Word),
    farLoads (.ldf · d n a) k d 1 n a ∧ farLoads (.ldfp · d n a) k d 2 n a

/-- The bytes that a write of `m` words at `x` stores to, in every copy of its frame. -/
def Sys2Proof.Claims.stores (s : State) (x m b : Nat) : Prop :=
  ∃ g ∈ s.takers (x / 4096), g * 4096 + x % 4096 ≤ b ∧ b < g * 4096 + x % 4096 + 2 * m

/-- No thread has written in the staging line that holds a word: such a line is written back before a Loam write of it (R76). -/
def Sys2Proof.Claims.lineClean (s : State) (x : Nat) : Prop :=
  ∀ c y tag e, s.ses c = some y → tag ∈ s.linesOf c (s.homeOf (x / 4096)) (x % 4096 / 2) → y.staged tag = some e → e.words = []

/-- Memory after a write of the words `l` at `x`: every copy of the frame holds them, and no other byte changes. -/
def Sys2Proof.Claims.written (s t : State) (x : Nat) (l : List Word) : Prop :=
  (∀ g ∈ s.takers (x / 4096), ∀ j, j < l.length → t.word (g * 4096 + x % 4096 + 2 * j) = l.getD j 0) ∧
  (lineClean s x → ∀ b, ¬ stores s x l.length b → memByte t.mem b = memByte s.mem b)

/-- A far store of `m` registers. -/
def Sys2Proof.Claims.farStores (i : Cpu → Instr) (k : Fin 4) (d : RegNo) (m : Nat) (n : Fin 8) (a : Word) : Prop :=
  farStops i d m m m true n a ∧
  ∀ s : State, let p : Cpu := .keeper k
    let x := (s.cpu p).farAddr n a
    farGoes s k d m m true n a → memWf s.mem = true → memoryServes s x m →
    ∃ t, exec (i p) s = .next t ∧ s.Retires t p 2 (s.cpu p).begun ∧ written s t x ((s.cpu p).group d m)

/-- R138, R163: STF and STFP. -/
def Obligations.FarStoreResults : Prop :=
  ∀ (k : Fin 4) (d : RegNo) (n : Fin 8) (a : Word),
    farStores (.stf · d n a) k d 1 n a ∧ farStores (.stfp · d n a) k d 2 n a

/-- A far atomic on `w` words with a group of `m` registers: the old value goes to the group's first `w`, `f` makes the new
value of the old one, and none stores nothing. -/
def Sys2Proof.Claims.farAtom (i : Cpu → Instr) (k : Fin 4) (d : RegNo) (w m : Nat) (n : Fin 8) (a : Word) (f : CpuState → Nat → Option Nat) : Prop :=
  farStops i d m w w true n a ∧
  ∀ s : State, let p : Cpu := .keeper k
    let x := (s.cpu p).farAddr n a
    let old := servedWords s x w
    let v := ((List.range w).foldl (fun (y : CpuState) j => y.write (regAfter d j) (old.getD j 0)) (s.cpu p).begun)
    farGoes s k d m w true n a → memWf s.mem = true → memoryServes s x w → readsWell s x w →
    ∃ t, exec (i p) s = .next t ∧
      s.Retires t p 2 (if w < m then v.withFlags { v.flags with z := (f (s.cpu p) (ofWordsLE old)).isSome } else v) ∧
      match f (s.cpu p) (ofWordsLE old) with
      | some y => written s t x (wordsLE w y)
      | none => t.mem = s.mem

/-- The number a group of registers holds, the least significant word first (R163). -/
def Sys2Proof.Claims.groupValue (u : CpuState) (d : RegNo) (w : Nat) : Nat := ofWordsLE (u.group d w)

/-- R139, R163, R385: the far atomics; a compare sets Z where it stores. -/
def Obligations.FarAtomicResults : Prop :=
  ∀ (k : Fin 4) (d : RegNo) (n : Fin 8) (a : Word),
    farAtom (.fadd32 · d n a) k d 2 2 n a (fun u old => some (old + groupValue u d 2)) ∧
    farAtom (.fswp32 · d n a) k d 2 2 n a (fun u _ => some (groupValue u d 2)) ∧
    farAtom (.fcas32 · d n a) k d 2 4 n a (fun u old =>
      if old = groupValue u d 2 then some (groupValue u (regAfter d 2) 2) else none) ∧
    farAtom (.fadd64 · d n a) k d 4 4 n a (fun u old => some (old + groupValue u d 4)) ∧
    farAtom (.fswp64 · d n a) k d 4 4 n a (fun u _ => some (groupValue u d 4)) ∧
    farAtom (.fcas64 · d n a) k d 4 8 n a (fun u old =>
      if old = groupValue u d 4 then some (groupValue u (regAfter d 4) 4) else none)

/-! ### Interrupts -/

/-- The state after `n` cycles of the sequence in progress, each of them made. -/
def Sys2Proof.Claims.cyclesMade (p : Cpu) : Nat → State → Option State
  | 0, s => some s
  | n + 1, s => (cyclesMade p n s).bind (fun t => match (t.cpu p).seq with
    | some q => (match t.seqCycle p q with
      | (u, .made) => some u
      | _ => none)
    | none => none)

/-- The state a sequence makes its first cycle in: in Fast mode a free number of cycles has passed (R12). -/
def Sys2Proof.Claims.seqBegun (s : State) (p : Cpu) (q : Seq) : State :=
  (((s.modCpu p (fun u => { u with seq := some q, slot := none, loadOld := [], shadow := false, clear := false, prev := none })).spendFast
    p).cpuUntil p ((s.cpu p).now + s.fastExtra p)).1

/-- The sequence of an entry, before its first cycle. -/
def Sys2Proof.Claims.entrySeq (s : State) (p : Cpu) (src : Option Nat) (level : Nat) : Seq :=
  { kind := .entry, step := 1, src := src, level := level, ret := (s.cpu p).pc, st := (s.cpu p).stInForce, vec := 0 }

/-- The state after the events of the next cycle, where nothing is done before them. -/
def Sys2Proof.Claims.cyclePassed (s : State) (p : Cpu) : State := ((s.poised p).1.cpuPre p).cpuPost p

/-- What entry at level `l` leaves of the registers: w15 has fallen by two, IL is the level, and ST keeps its other fields. -/
def Sys2Proof.Claims.entered (s t : State) (p : Cpu) (l : Nat) : Prop :=
  (t.cpu p).il = BitVec.ofNat 3 l ∧ (t.cpu p).w = (s.cpu p).w.set 15 ((s.cpu p).w[15] - 2) ∧
  (t.cpu p).st = (if (s.cpu p).levelPending then (s.cpu p).st else stWithLevel (s.cpu p).st l) ∧ (t.cpu p).ie = (s.cpu p).ie ∧
  (t.cpu p).yz = (s.cpu p).yz ∧ (t.cpu p).x = (s.cpu p).x ∧ (t.cpu p).seg = (s.cpu p).seg ∧
  (t.cpu p).seq = none ∧ ∀ q, q ≠ p → (t.cpu q).core = (s.cpu q).core

/-- The two words below w15 lie in work RAM. -/
def Sys2Proof.Claims.pushesFit (u : CpuState) (p : Cpu) : Prop := (u.w[15] - 1).toNat < ramEnd p ∧ (u.w[15] - 2).toNat < ramEnd p

/-- R111, R167, R169, R170: ENTRY with both pushes on work RAM, whose six cycles are all made, takes the selected source, or one of
higher level that became eligible meanwhile; the PC is the word its vector held in the fifth. -/
def Sys2Proof.Claims.entryRule : Prop :=
  ∀ (p : Cpu) (s e t : State) (q : Seq) (n l : Nat) (v : Word),
    s.entryDue p = true → s.selected p = some (n, l) → s.noneWaits → pushesFit (s.cpu p) p →
    let a := seqBegun s p (entrySeq s p (some n) l)
    cyclesMade p 4 a = some e → (e.cpu p).seq = some q → cyclesMade p 6 a = some t →
    (((((e.poised p).1.setLevelOf p q.src q.level).cpuPre p).cpuPost p).cWord p (vectorAddr q.src)).2 = some v →
    exec (.entry p) s = .next t ∧ q.ret = (s.cpu p).pc ∧ q.st = (s.cpu p).stInForce ∧
      (q.src = some n ∧ q.level = l ∨ l < q.level ∧ ∃ m, q.src = some m) ∧ entered s t p q.level ∧ (t.cpu p).pc = v

/-- The same of a Keeper, whose cycles are always made: the words pushed stand in its data RAM, and INT_LAST names the source. -/
def Sys2Proof.Claims.keeperEntryRule : Prop :=
  ∀ (k : Fin 4) (s : State) (n l : Nat), let p : Cpu := .keeper k
    s.entryDue p = true → s.selected p = some (n, l) → s.noneWaits → pushesFit (s.cpu p) p → s.cOk p 2 = true →
    ∃ t m l' v, exec (.entry p) s = .next t ∧ (m = n ∧ l' = l ∨ l < l') ∧ m < 16 ∧ entered s t p l' ∧
      (s.cWord p (2 + m)).2 = some v ∧ (t.cpu p).pc = v ∧ (t.int p).last = BitVec.ofNat 16 (l' * 32 + m) ∧
      ramHolds s t k [(((s.cpu p).w[15] - 1).toNat, (s.cpu p).pc), (((s.cpu p).w[15] - 2).toNat, (s.cpu p).stInForce)]

/-- R140 to R142, R348: a fault is recorded, and enters at IL 7 through its vector, or halts a processor whose IL is 7; on a Keeper
with its stack on data RAM. -/
def Sys2Proof.Claims.faultTakenRule : Prop :=
  ∀ (k : Fin 4) (s : State) (f : FaultInfo), let p : Cpu := .keeper k
    s.noneWaits → f.code < 4096 → f.space < 8 → (s.cpu p).seq = none → (s.cpu p).halted = false →
    let t := s.takeFault p f
    let recorded := t.ownIo p 0xFE20 = b2n (s.cpu p).slot.isSome * 2 ^ 15 + f.space * 2 ^ 12 + f.code ∧
      t.ownIo p 0xFE21 = (s.cpu p).pc.toNat ∧ t.ownIo p 0xFE22 = f.data % 65536
    ((s.cpu p).level = 7 → recorded ∧ (t.cpu p).halted = true ∧ (t.cpu p).w = (s.cpu p).w ∧ (t.cpu p).pc = (s.cpu p).pc ∧
      (t.cpu p).st = (s.cpu p).st) ∧
    (∀ v, (s.cpu p).level ≠ 7 → pushesFit (s.cpu p) p → s.cOk p 1 = true → (s.cWord p 1).2 = some v →
      recorded ∧ entered s t p 7 ∧ (t.cpu p).pc = v ∧ (t.cpu p).halted = false ∧
      ramHolds s t k [(((s.cpu p).w[15] - 1).toNat, (s.cpu p).pc), (((s.cpu p).w[15] - 2).toNat, (s.cpu p).stInForce)])

/-- R111, R140 to R142, R167, R169, R170, R348: the entry of an interrupt and of a fault. -/
def Obligations.EntryResult : Prop := entryRule ∧ keeperEntryRule ∧ faultTakenRule

/-- A RETI issues outside a delay slot, its two stack words at `sp` can be accessed, and its registers are there (R121, R124,
R172). -/
def Sys2Proof.Claims.returnIssues (s : State) (p : Cpu) (sp : Word) : Prop :=
  s.Issues p 1 ∧ (s.cpu p).slot = none ∧ sp = (s.cpu p).read 15 ∧ s.firstFault p false [sp.toNat, (sp + 1).toNat] = none

/-- What a RETI leaves of the registers but IL and the pc, from the ST popped: every other field of ST takes effect at once. -/
def Sys2Proof.Claims.returned (s t : State) (p : Cpu) (st sp : Word) : Prop :=
  (t.cpu p).yz = st.getLsbD 14 ∧ (t.cpu p).ie = st.getLsbD 4 ∧ (t.cpu p).w = (s.cpu p).w.set 15 sp ∧ (t.cpu p).x = (s.cpu p).x ∧
  (t.cpu p).seg = (s.cpu p).seg ∧ (t.cpu p).seq = none ∧ ∀ q, q ≠ p → (t.cpu q).core = (s.cpu q).core

/-- ST as a RETI restores it: K stays, and the reserved bits read 0 (R112, R113). -/
def Sys2Proof.Claims.stBack (s : State) (p : Cpu) (st : Word) : Word := ((s.cpu p).st &&& 0x8000#16) ||| (st &&& 0x40FF#16)

/-- R172: a RETI whose cycles are made, and that chains no source, restores ST whole, takes the return address, and releases the two
stack words, ST read in its first cycle and the address in its second. R173: one that chains a source keeps the two words and goes
on at the source's vector, with its level. -/
def Sys2Proof.Claims.returnRule : Prop :=
  ∀ (p : Cpu) (s c1 c3 : State) (q : Seq) (st ret sp : Word), returnIssues s p sp →
    let i := (s.cpu p).now + (s.fetchLine p 1 |>.1.cpu p).waitFor retiOp
    let at' := (s.fetchLine p 1).1.cpuUntil p i
    let a := seqBegun (at'.1.modCpu p (fun v => { v with issued := none })) p
      { kind := .reti, step := 1, src := none, level := 0, ret := sp, st := 0, vec := 0 }
    at'.2 = true → cyclesMade p 1 a = some c1 → cyclesMade p 3 a = some c3 → (c3.cpu p).seq = some q →
    ((cyclePassed a p).dLoad p sp.toNat).2 = some st → ((cyclePassed c1 p).dLoad p (sp + 1).toNat).2 = some ret →
    (∀ t, q.kind = .reti → cyclesMade p 5 a = some t → exec (.reti p) s = .next t ∧ returned s t p st (sp + 2) ∧
      (t.cpu p).pc = ret ∧ (t.cpu p).st = stBack s p st ∧ (t.cpu p).il = st.extractLsb' 5 3) ∧
    (∀ t c4 v, q.kind = .chain → cyclesMade p 4 a = some c4 → cyclesMade p 6 a = some t →
      ((cyclePassed c4 p).cWord p (vectorAddr q.src)).2 = some v → exec (.reti p) s = .next t ∧ returned s t p st sp ∧
      (t.cpu p).pc = v ∧ (t.cpu p).st = stWithLevel (stBack s p st) q.level ∧ (t.cpu p).il = BitVec.ofNat 3 q.level)

/-- The same of a Keeper with its stack on data RAM: it completes where the ST popped has IE 0, or no source is enabled. -/
def Sys2Proof.Claims.keeperReturnRule : Prop :=
  ∀ (k : Fin 4) (s : State) (sp : Word), let p : Cpu := .keeper k
    let st := ramWord s k sp.toNat
    returnIssues s p sp → sp.toNat < 0xF000 → (sp + 1).toNat < 0xF000 → st.getLsbD 4 = false ∨ (s.int p).en = 0 →
    ∃ t, exec (.reti p) s = .next t ∧ returned s t p st (sp + 2) ∧ (t.cpu p).pc = ramWord s k (sp + 1).toNat ∧
      (t.cpu p).st = stBack s p st ∧ (t.cpu p).il = st.extractLsb' 5 3 ∧ ramHolds s t k []

/-- R172, R173: the return from an interrupt, and its tail-chain. -/
def Obligations.InterruptReturn : Prop := returnRule ∧ keeperReturnRule

/-- R160: WAIT takes its cycle; the processor then waits unless a source is pending and enabled. -/
def Sys2Proof.Claims.waitResultRule : Prop :=
  ∀ (p : Cpu) (s : State), s.Ready p 1 1 →
    ∃ t, exec (.wait p) s = .next t ∧ s.RetiresHere t p 1 { (s.cpu p).begun with waiting := (t.cpu p).waiting } ∧
      ((t.cpu p).waiting = true → t.waitOver p = false) ∧
      (∀ b, s.ReadyFor p Op.nop b → (t.cpu p).waiting = false → b.waitOver p = true ∨ t.waitOver p = true) ∧
      ∀ k, p = .keeper k → (s.int p).en = 0 → (t.cpu p).waiting = true

/-- R160: WAIT_END ends the wait once a source is pending and enabled, and the program counter stays; a Keeper with no source
enabled waits on. -/
def Sys2Proof.Claims.waitEndResultRule : Prop :=
  ∀ (p : Cpu) (s : State) (n : Nat), s.active p = true → (s.cpu p).waiting = true → s.has p →
    (s.waitOver p = true →
      ∃ t, exec (.waitEnd p n) s = .next t ∧ t.cpu p = { (s.cpu p) with waiting := false } ∧
        (∀ q, q ≠ p → t.cpu q = s.cpu q) ∧ t.mem = s.mem) ∧
    (∀ k, p = .keeper k → (s.int p).en = 0 →
      ∃ t, exec (.waitEnd p n) s = .next t ∧ t.cpu p = { (s.cpu p) with now := (s.cpu p).now + n } ∧
        (∀ q, q ≠ p → t.cpu q = s.cpu q) ∧ t.mem = s.mem)

/-- R160: WAIT and the end of its wait. -/
def Obligations.WaitAndWake : Prop :=
  waitResultRule ∧ waitEndResultRule

/-- R166, R175, R176, R349: INT_SET raises its sources, and one that is pending already overruns; a store of INT_TnCTRL with EN 1
runs the timer from phase 0, but in a session START 1 and 2 hold it for the next line or frame. A processor that does not execute
stores nothing (R142). -/
def Sys2Proof.Claims.interruptRowsRule : Prop :=
  ∀ (p : Cpu) (s : State), s.has p →
    (s.storeReady p = false → ∀ (n : Fin 2) (v : Word), exec (.intSet p v) s = .next s ∧ exec (.timerArm p n v) s = .next s) ∧
    (s.storeReady p = true →
    (∀ bits, ∃ t, exec (.intSet p bits) s = .next t ∧ (t.int p).pend = (s.int p).pend ||| bits ∧
      (t.int p).ovr = (s.int p).ovr ||| ((s.int p).pend &&& bits) ∧ (∀ q, t.cpu q = s.cpu q) ∧
      (∀ q, q ≠ p → t.int q = s.int q) ∧ t.mem = s.mem) ∧
    (∀ (n : Fin 2) (ctrl : Word), ctrl.getLsbD 0 = true →
      ∃ t, exec (.timerArm p n ctrl) s = .next t ∧ ((t.int p).timer n).phase = 0 ∧
        ((t.int p).timer n).count = ((s.int p).timer n).count ∧ ((t.int p).timer n).reload = ((s.int p).timer n).reload ∧
        ((t.int p).timer n).armed = (!isKeeper p && (ctrl.extractLsb' 3 2 == 1 || ctrl.extractLsb' 3 2 == 2)) ∧
        ((t.int p).timer (1 - n)) = ((s.int p).timer (1 - n)) ∧ (t.int p).pend = (s.int p).pend ∧
        (∀ q, t.cpu q = s.cpu q) ∧ t.mem = s.mem))

/-- R175: the line or frame that an armed timer of a session waits for begins, and the timer runs from its count. -/
def Sys2Proof.Claims.timerStartsRule : Prop :=
  ∀ (c : CtxNo) (s : State) (x : Session) (n : Fin 2), s.ses c = some x → s.live c = true →
    (x.int.timer n).en = true → (x.int.timer n).armed = true →
    ((x.int.timer n).start = 1 ∧ x.vcyc % x.cpl = 0 ∨ (x.int.timer n).start = 2 ∧ x.vcyc = 0) →
    ∃ t y, exec (.timerStart (.session c) n) s = .next t ∧ t.ses c = some y ∧
      y.int.timer n = { x.int.timer n with armed := false } ∧ y.cpu = x.cpu ∧ y.vcyc = x.vcyc ∧ y.int.pend = x.int.pend ∧
      (∀ c', c' ≠ c → t.ctx c' = s.ctx c') ∧ t.keepers = s.keepers ∧ t.mem = s.mem

/-- R160, R176: the expiry of a waiting Keeper's running timer raises its source, which ends the wait where it is the one enabled. -/
def Sys2Proof.Claims.timerExpiresRule : Prop :=
  ∀ (k : Fin 4) (s : State) (n : Fin 2), let p : Cpu := .keeper k
    s.active p = true → (s.cpu p).waiting = true → ((s.int p).timer n).running = true →
    (n = 1 → (s.int p).t1.chain = false) → s.waitOver p = false →
    (∀ i, i ≠ 11 + n.val → (s.int p).en.getLsbD i = false) →
    ∃ t, exec (.timerExpiry p n) s = .next t ∧ (t.int p).pend.getLsbD (11 + n.val) = true ∧
      (t.cpu p).core = { (s.cpu p).core with waiting := !(s.int p).en.getLsbD (11 + n.val) } ∧
      (∀ q, q ≠ p → t.cpu q = s.cpu q) ∧ t.mem = s.mem

/-- R160, R166, R175, R176, R349: INT_SET and the timers. -/
def Obligations.InterruptSourcesAndTimers : Prop :=
  interruptRowsRule ∧ timerStartsRule ∧ timerExpiresRule

/-! ### Contexts -/

/-- Every context but `c` is as it was. -/
def Sys2Proof.Claims.otherContexts (s t : State) (c : CtxNo) : Prop := ∀ c', c' ≠ c → t.ctx c' = s.ctx c'

/-- Port `p` after the OP write of a command that passed its checks: BUSY until COMMAND_DONE; the other ports are as they
were. -/
def Sys2Proof.Claims.taken (s t : State) (p : Fin 4) (c : CtxNo) (op : Byte) : Prop :=
  t.ports[p.val].busy = true ∧ t.ports[p.val].ctx = c ∧ t.ports[p.val].lastOp = op ∧ t.ports[p.val].waiting = some (c, op) ∧
  ∀ q : Fin 4, q ≠ p → t.ports[q.val] = s.ports[q.val]

/-- Command `i` moves context `c` to state `x` and changes nothing else but its port. -/
def Sys2Proof.Claims.moves (i : Instr) (p : Fin 4) (c : CtxNo) (op : Byte) (x : CtxState) (s : State) : Prop :=
  ∃ t, exec i s = .next t ∧ taken s t p c op ∧ t.ctx c = { s.ctx c with state := x } ∧ otherContexts s t c ∧
    t = { s with ctxs := t.ctxs, ports := t.ports }

/-- R41, R48, R436: the transitions of SUSPEND, EXPORT, RETURN, RETIRE and RELEASE. That EXPORT with a manifest address the Curator does
not reach, or not a multiple of 64, ends with BAD_ARG is the model's choice (log entry 68), as is what it keeps of the session in
`captured` (log entry 66). -/
def Obligations.ContextTransitions : Prop :=
  ∀ (p : Fin 4) (c : CtxNo) (s : State), s.portFree p = true →
    ((s.ctx c).state = .running → moves (.suspend p c) p c 3 .suspending s) ∧
    (∀ a : LoamAddr, (s.ctx c).state = .suspended → let ok := s.manifestOk a.toNat (48 + 16 * (s.ctx c).mapped)
      (ok = true → ∃ t, exec (.exportCtx p c a) s = .next t ∧ taken s t p c 6 ∧
        t.ctx c = { s.ctx c with state := .exported } ∧ otherContexts s t c ∧
        t = { s with ctxs := t.ctxs, ports := t.ports, captured := t.captured } ∧
        (∀ y, s.ses c = some y → y ∈ t.captured) ∧ ∀ y ∈ s.captured, y ∈ t.captured) ∧
      (ok = false → ∃ t, exec (.exportCtx p c a) s = .next t ∧ t = { s with ports := t.ports } ∧ t.ports[p.val].result = 7)) ∧
    ((s.ctx c).state = .exported → moves (.returnCtx p c) p c 7 .suspended s) ∧
    ((s.ctx c).state ∈ [.suspended, .running, .exported, .quarantined] → moves (.retire p c) p c 9 .retiring s) ∧
    ((s.ctx c).state = .quarantined → (s.titleOf (s.ctx c).title).state ≠ 2 →
      moves (.release p c) p c 0xA .suspended s)

/-- R41, R42, R45, R47, R48, R49: CREATE and IMPORT that find their frames make the context's session, IMPORT the one its pages hold; ADMIT that passes its checks
holds its slot at its pixel charge; SNAPSHOT and FORK give the new context the source's fields, with WAKE 0. -/
def Obligations.ContextCommandsTake : Prop :=
  ∀ (p : Fin 4) (c : CtxNo) (s : State), s.portFree p = true →
    (∀ tm s1, (s.ctx c).state = .free → s.titleReady (s.ctx c).title = true → startTiming (s.ctx c) = some tm →
      s.takePages c none (statePages (s.ctx c).profile) = some s1 →
      ∃ t, exec (.create p c) s = .next t ∧ taken s t p c 1 ∧ (t.ctx c).state = .suspended ∧ otherContexts s t c ∧
        t.ses c = some (Session.initial (s.ctx c).profile (s.ctx c).xmode
          (s.resetVector (s.ctx c).title) tm)) ∧
    (∀ (k : SlotNo) s1, (s.ctx c).state = .suspended → s.admitCheck (s.ctx c) k.toNat = 0 →
      s.reserve c k.toNat (s.ctx c).grand = some s1 →
      ∃ t, exec (.admitCtx p c k) s = .next t ∧ taken s t p c 2 ∧ (t.ctx c).state = .admitting ∧ (t.ctx c).slot = k ∧
        (t.ctx c).pixCharge.toNat = pixCharge (s.ctx c).envH.toNat (s.ctx c).envV.toNat (s.ctx c).periodFx.toNat % 2 ^ 32 ∧
        (t.slot k.toNat).ctx = some c ∧ ∀ c', c' ≠ c → (t.ctx c').state = (s.ctx c').state) ∧
    (∀ (n : CtxNo) s1, ((s.ctx c).state = .running ∨ (s.ctx c).state = .suspended) → (s.ctx n).state = .free → n ≠ c →
      ((s.modPort p (fun q => { q with prior := some (s.ctx n) })).modCtx n ((s.ctx c).inherit ((s.ctx c).mirrorCopied false))).takePages
        n none ((s.ctx c).copiedPages ((s.ctx c).mirrorCopied false)) = some s1 →
      ∃ t, exec (.snapshot p c n) s = .next t ∧ taken s t p c 4 ∧ (t.ctx n).state = .suspended ∧
        (t.ctx n).profile = (s.ctx c).profile ∧ (t.ctx n).title = (s.ctx c).title ∧ (t.ctx n).vclk = (s.ctx c).vclk ∧
        (t.ctx n).wake = false ∧ (t.ctx n).keepMirror = ((s.ctx c).state == .running || (s.ctx c).keepMirror) ∧
        (t.ctx c).state = (s.ctx c).state) ∧
    (∀ (n : CtxNo) (k : SlotNo) s1 s2, ((s.ctx c).state = .running ∨ (s.ctx c).state = .suspended) → (s.ctx n).state = .free →
      n ≠ c → s.admitCheck (s.ctx c) k.toNat = 0 →
      ((s.modPort p (fun q => { q with prior := some (s.ctx n) })).modCtx n ((s.ctx c).inherit false)).takePages
        n none ((s.ctx c).copiedPages false) = some s1 → (s1.setRoot n).reserve n k.toNat (s.ctx c).grand = some s2 →
      ∃ t, exec (.fork p c n k) s = .next t ∧ taken s t p c 5 ∧ (t.ctx n).state = .admitting ∧ (t.ctx n).slot = k ∧
        (t.ctx n).profile = (s.ctx c).profile ∧ (t.ctx n).wake = false ∧ (t.ctx n).keepMirror = false ∧
        (t.ctx c).state = (s.ctx c).state) ∧
    (∀ (a : LoamAddr) s1, let w := fun (i : Nat) => ofBytesBE (s.agentBytes s.curatorDie (a.toNat + 8 * i) 8)
      let x := ((((s.ctx c).takeWord 0 (w 0)).takeWord 2 (w 2)).takeWord 3 (w 3))
      let pages := s.manifestPages a.toNat
      let y := s.sessionAt c pages
      (s.ctx c).state = .free → s.manifestOk a.toNat (48 + 16 * pages.length) = true → s.titleReady x.title = true →
      (∀ e ∈ pages, s.reaches s.curatorDie e.2 = true) → s.importBad a.toNat = none →
      (s.setCtx c x).importPages c pages = some s1 →
      ∃ t, exec (.importCtx p c a) s = .next t ∧ taken s t p c 8 ∧ (t.ctx c).state = .importing ∧ otherContexts s t c ∧
        (t.ctx c).title = x.title ∧ (t.ctx c).vclk = x.vclk ∧ (t.ctx c).gen = (s.ctx c).gen ∧
        t.ses c = some (if s.knownSessions.contains y then y else { y with grand := x.profile, fast := x.xmode }))

/-- R38, R39: a port's context commands change only the port where they fail their checks, and nothing at all while BUSY is
1. An IMPORT that meets a persistent read is acted on by the Curator too (R391). -/
def Obligations.FailedCommandChangesNothing : Prop :=
  ∀ (p : Fin 4) (c n : CtxNo) (k : SlotNo) (a : LoamAddr) (s : State) (i : Instr),
    i ∈ [.create p c, .admitCtx p c k, .suspend p c, .snapshot p c n, .fork p c n k, .exportCtx p c a, .returnCtx p c,
      .importCtx p c a, .retire p c, .release p c] →
    (s.portFree p = false → exec i s = .next s) ∧
    (s.portFree p = true → ∃ t, exec i s = .next t ∧ t.ports[p.val].busy = true ∧ t.ports[p.val].ctx = c ∧
      (t.ports[p.val].result ≠ 0 → t.ports[p.val].waiting = none ∧
        ((i = .importCtx p c a → (s.ctx c).state = .free → s.importBad a.toNat = none) → t = { s with ports := t.ports })))

/-- A port whose command has ended, with what it raised (R39). -/
def Sys2Proof.Claims.ended (t : State) (p : Fin 4) (r : Byte) : Prop :=
  t.ports[p.val].busy = false ∧ t.ports[p.val].waiting = none ∧ t.ports[p.val].result = r ∧
  (t.power.hub = true → t.dic.pend.getLsbD (1 + p.val) = true)

/-- No Gallery holds a copy of a frame's page, and no session stages words of it. -/
def Sys2Proof.Claims.plainFrame (s : State) (f : Nat) : Prop := s.takers f = [f] ∧ ∀ c off, s.linesOf c (s.homeOf f) off = []

/-- R36, R39, R41, R44, R48: how a command ends: one that failed its checks with its RESULT; CREATE and IMPORT with GEN raised,
SUSPEND in SUSPENDED, EXPORT with its manifest in memory, RETIRE with the entry at its reset values but for GEN. -/
def Obligations.CommandsEnd : Prop :=
  ∀ (p : Fin 4) (s : State), s.ports[p.val].busy = true →
    (s.ports[p.val].waiting = none → ∃ t, exec (.commandDone p) s = .next t ∧ ended t p s.ports[p.val].result ∧
      t = { s with ports := t.ports, dic := t.dic, keepers := t.keepers }) ∧
    (∀ c, s.ports[p.val].waiting = some (c, 1) → ∃ t, exec (.commandDone p) s = .next t ∧ ended t p 0 ∧
      t.ctx c = { s.ctx c with gen := (s.ctx c).gen + 1 } ∧ otherContexts s t c) ∧
    (∀ c, s.ports[p.val].waiting = some (c, 3) → s.drained c = true →
      ∃ t, exec (.commandDone p) s = .next t ∧ ended t p 0 ∧ (t.ctx c).state = .suspended) ∧
    (∀ c, s.ports[p.val].waiting = some (c, 6) → s.beingFilled c = false →
      ∃ t, exec (.commandDone p) s = .next t ∧ ended t p 0 ∧
        let a := s.ports[p.val].args[0].toNat + 2 ^ 32 * (s.ports[p.val].args[1].toNat % 65536)
        let n := (s.manifest c).length
        s.reachesAll s.curatorDie a n = true → (∀ b, a ≤ b → b < a + n → plainFrame s (b / 4096)) →
          t.ctxs = s.ctxs ∧ ∀ b, memByte t.mem b = if a ≤ b ∧ b < a + n then (s.manifest c).getD (b - a) 0 else memByte s.mem b) ∧
    (∀ c, s.ports[p.val].waiting = some (c, 7) → ∃ t, exec (.commandDone p) s = .next t ∧ ended t p 0 ∧
      t = { s with ports := t.ports, dic := t.dic, keepers := t.keepers }) ∧
    (∀ c, s.ports[p.val].waiting = some (c, 8) → ∃ t, exec (.commandDone p) s = .next t ∧ ended t p 0 ∧
      t.ctx c = { s.ctx c with gen := (s.ctx c).gen + 1, state := .suspended } ∧ otherContexts s t c) ∧
    (∀ c, s.ports[p.val].waiting = some (c, 9) → s.retireReady c = true → s.beingFilled c = false →
      ∃ t, exec (.commandDone p) s = .next t ∧ ended t p 0 ∧ t.ctx c = { Context.reset with gen := (s.ctx c).gen })

/-- R35, R36, R44: an entry takes its RW fields only in FREE and SUSPENDED, and with KEEP_MIRROR 0 its mirror pages leave its map; a low
half is held for its node and committed with the high half of the same word, whatever other word is written between them. -/
def Obligations.EntryWrites : Prop :=
  ∀ (node : Byte) (c : CtxNo) (w : BitVec 64) (s : State), s.power.mode ≠ .off →
    (∀ k : Fin 4, (s.ctx c).state ≠ .free → (s.ctx c).state ≠ .suspended →
      exec (.contextEntryWrite node c k (.whole w)) s = .next s) ∧
    (((s.ctx c).state = .free ∨ (s.ctx c).state = .suspended) →
      (∃ t, exec (.contextEntryWrite node c 2 (.whole w)) s = .next t ∧ t = { s with ctxs := t.ctxs } ∧ otherContexts s t c ∧
        (t.ctx c).envH = w.extractLsb' 54 10 ∧ (t.ctx c).envV = w.extractLsb' 44 10 ∧
        t.ctx c = { s.ctx c with envH := (t.ctx c).envH, envV := (t.ctx c).envV, periodFx := w.extractLsb' 0 44 }) ∧
      (∃ t, exec (.contextEntryWrite node c 3 (.whole w)) s = .next t ∧ t = { s with ctxs := t.ctxs } ∧ otherContexts s t c ∧
        t.ctx c = { s.ctx c with vclk := w.extractLsb' 37 27, lead := w.extractLsb' 33 4 }) ∧
      (∃ t, exec (.contextEntryWrite node c 1 (.whole w)) s = .next t ∧ t = { s with ctxs := t.ctxs } ∧ ∀ c', t.ctx c' = s.ctx c') ∧
      (w.getLsbD 57 = false → ∃ t, exec (.contextEntryWrite node c 0 (.whole w)) s = .next t ∧
        (t.ctx c).profile = w.getLsbD 59 ∧ (t.ctx c).xmode = w.getLsbD 58 ∧ (t.ctx c).keepMirror = false ∧
        (t.ctx c).wake = w.getLsbD 56 ∧ (t.ctx c).title = w.extractLsb' 16 16 ∧ t.ses c = s.ses c ∧
        ∀ i ∈ mirrorPages, ((t.ctx c).page i).alloc = false) ∧
      (w.getLsbD 57 = true →
        ∃ t, exec (.contextEntryWrite node c 0 (.whole w)) s = .next t ∧ t = { s with ctxs := t.ctxs } ∧ otherContexts s t c ∧
          (t.ctx c).title = w.extractLsb' 16 16 ∧ (t.ctx c).wake = w.getLsbD 56 ∧ (t.ctx c).keepMirror = true ∧
          t.ctx c = { s.ctx c with profile := w.getLsbD 59, xmode := w.getLsbD 58, keepMirror := true,
                                   wake := (t.ctx c).wake, title := (t.ctx c).title })) ∧
    (∀ (k : Fin 4) (l h : Reg32), ∃ a b d, exec (.contextEntryWrite node c k (.low l)) s = .next a ∧ a.ctxs = s.ctxs ∧
      exec (.contextEntryWrite node c k (.high h)) a = .next b ∧
      exec (.contextEntryWrite node c k (.whole (h ++ l))) s = .next d ∧ b.ctxs = d.ctxs) ∧
    (∀ (k j : Fin 4) (l h h' : Reg32), j ≠ k → ∃ a b d e, exec (.contextEntryWrite node c k (.low l)) s = .next a ∧
      exec (.contextEntryWrite node c j (.high h')) a = .next b ∧ exec (.contextEntryWrite node c k (.high h)) b = .next d ∧
      exec (.contextEntryWrite node c k (.whole (h ++ l))) b = .next e ∧ d.ctxs = e.ctxs)

/-! ### The Beam Scheduler -/

/-- A latched book of a die: 0 CLOCKS, 1 RENDER, 2 WAIT, 3 IDLE, 4 DONE, 5 INPROG. -/
def Sys2Proof.Claims.book (t : State) (d i : Nat) : Nat := t.regN (bookAddr d i) + 2 ^ 32 * t.regN (bookAddr d i + 4)

/-- R107: a placement query answers the first slot of its order that passes ADMIT's checks, and RESULT 0; where none passes, the
RESULT of the last. -/
def Sys2Proof.Claims.placementRule : Prop :=
  ∀ (c : CtxNo) (s : State), s.portsUp = true →
    ∃ t, exec (.placementQuery c) s = .next t ∧ t = { s with regs := t.regs } ∧
      (∀ l k r, s.candidates (s.ctx c).grand = l ++ k :: r → s.admitCheck (s.ctx c) k = 0 →
        (∀ j ∈ l, s.admitCheck (s.ctx c) j ≠ 0) → k < 2 ^ 16 → t.regN (bscBase + 0x124) = k) ∧
      (∀ l k, s.candidates (s.ctx c).grand = l ++ [k] → (∀ j ∈ l ++ [k], s.admitCheck (s.ctx c) j ≠ 0) →
        t.regN (bscBase + 0x124) = s.admitCheck (s.ctx c) k * 65536)

/-- R101, R103, R108 to R110, R371: BSC_BOOK_SNAP latches the books of both dies, and CLOCKS is RENDER, WAIT and IDLE together;
a record read answers and removes the oldest, and its source falls with the last; the PERIOD_H write of a held slot commits the
pair, or sets the low half back where the pair is 0 or below the context's least, and that of a slot not held is its period; a PHASE
write waits for the next frame. -/
def Sys2Proof.Claims.scheduleRule : Prop :=
  ∀ s : State,
    (s.portsUp = true →
      (∃ t, exec .bscBookSnap s = .next t ∧ t = { s with regs := t.regs } ∧ ∀ d, d < 2 →
        (∀ i ∈ [1, 2, 4, 5], book t d i = s.cnt (bookAddr d i)) ∧
        (max (s.cnt (bookAddr d 0)) (s.cnt (bookAddr d 1) + s.cnt (bookAddr d 2)) < 2 ^ 64 →
          book t d 0 = book t d 1 + book t d 2 + book t d 3)) ∧
      ∀ d : Fin 2,
        (∀ v l, s.slipFifo[d.val] = v :: l → ∃ t, exec (.slipRecordRead d) s = .next t ∧
          t = { s with slipFifo := s.slipFifo.set d.val l, answer := v.setWidth 64, dic := t.dic, keepers := t.keepers } ∧
          t.dic.level.getLsbD (5 + d.val) = !l.isEmpty) ∧
        (s.slipFifo[d.val] = [] → exec (.slipRecordRead d) s = .next { s with answer := 0 }) ∧
        (∀ v l, s.haltFifo[d.val] = v :: l → ∃ t, exec (.haltRecordRead d) s = .next t ∧
          t = { s with haltFifo := s.haltFifo.set d.val l, answer := v.setWidth 64, dic := t.dic, keepers := t.keepers } ∧
          t.dic.level.getLsbD (7 + d.val) = !l.isEmpty) ∧
        (s.haltFifo[d.val] = [] → exec (.haltRecordRead d) s = .next { s with answer := 0 })) ∧
    (s.power.hub = true → ∀ (k : SlotNo) (h : BitVec 12), s.slotHeld k.toNat = true →
      let p := s.regN (schAddr k.toNat 0x10) + 2 ^ 32 * h.toNat
      let least := (s.ctx (s.slotCtx k.toNat)).periodFx.toNat
      ∃ t, exec (.periodCommit k h) s = .next t ∧ t = { s with regs := t.regs, slots := t.slots } ∧
        (∀ j, j ≠ k.toNat → t.slot j = s.slot j) ∧
        (p ≠ 0 → least ≤ p → t.slot k.toNat = { s.slot k.toNat with periodPend := some p } ∧ t.periodReg k.toNat = p) ∧
        (p = 0 ∨ p < least → t.slots = s.slots ∧ t.periodReg k.toNat = s.periodReg k.toNat ∧
          t.regN (schAddr k.toNat 0x10) = s.regN (schAddr k.toNat 0x11))) ∧
    (s.power.hub = true → ∀ (k : SlotNo) (h : BitVec 12), s.slotHeld k.toNat = false →
      ∃ t, exec (.periodCommit k h) s = .next t ∧ t = { s with regs := t.regs } ∧
        t.periodReg k.toNat = s.regN (schAddr k.toNat 0x10) + 2 ^ 32 * h.toNat) ∧
    (s.power.hub = true → ∀ (k : SlotNo) (adj : Reg32),
      (s.slotHeld k.toNat = true → ∃ t, exec (.phaseWrite k adj) s = .next t ∧ t = { s with regs := t.regs, slots := t.slots } ∧
        t.slot k.toNat = { s.slot k.toNat with phasePend := some adj } ∧ t.reg (schAddr k.toNat 0x1C) = adj ∧
        ∀ j, j ≠ k.toNat → t.slot j = s.slot j) ∧
      (s.slotHeld k.toNat = false → exec (.phaseWrite k adj) s = .next s))

/-- R101, R103, R107 to R110, R371: the commands of the Beam Scheduler. -/
def Obligations.ScheduleCommands : Prop := placementRule ∧ scheduleRule

/-- R94: the first band period outside the horizon enters it where its release instant lies within LEAD_NOW band times, and not
before. -/
def Sys2Proof.Claims.horizonAdvancesRule : Prop :=
  ∀ (c : CtxNo) (s : State) (k : Nat), s.admitted c = true → s.heldSlot c = some k →
    let y := s.slot k
    let r := s.releaseOf c y.horizonF y.horizonK
    let edge := s.clock.time + y.leadNow * r.1.tbOf c k y.horizonF
    (r.2 ≤ edge → ∃ t, exec (.horizonEntry c) s = .next t ∧ t = { s with regs := t.regs, slots := t.slots } ∧
      (∀ j, j ≠ k → t.slot j = s.slot j) ∧
      ((t.slot k).horizonF, (t.slot k).horizonK) =
        if y.horizonK + 1 < r.1.bandsOf c y.horizonF then (y.horizonF, y.horizonK + 1) else (y.horizonF + 1, 0)) ∧
    (edge < r.2 → exec (.horizonEntry c) s = .next s)

/-- R43, R44, R91, R100, R104: a boundary that virtual time stands at acts once. It stops a SUSPENDING or RETIRING session, whose
input queue is emptied, and RETIRING discards what is unreleased; a session whose virtual time may move goes on past it. -/
def Sys2Proof.Claims.bandBoundaryRule : Prop :=
  ∀ (c : CtxNo) (s : State) (k : Nat), s.boundaryDue c = true → s.heldSlot c = some k → s.noneWaits →
    ((s.ctx c).state = .suspending ∨ (s.ctx c).state = .retiring →
      ∃ t, exec (.bandBoundary c) s = .next t ∧ t = { s with ctxs := t.ctxs, slots := t.slots } ∧
        (∀ j, j ≠ k → t.slot j = s.slot j) ∧ otherContexts s t c ∧ (t.ctx c).state = (s.ctx c).state ∧
        let gone := (s.ctx c).state = .retiring
        t.slot k = { s.slot k with
          stopped := true, inputQ := [], refreshQ := []
          videoQ := if gone then [] else (s.slot k).videoQ, audioQ := if gone then [] else (s.slot k).audioQ
          audioWait := if gone then [] else (s.slot k).audioWait
          slips := if gone then [] else (s.slot k).slips }) ∧
    ((s.ctx c).state = .running → s.live c = true →
      ∃ t, exec (.bandBoundary c) s = .next t ∧
        ∀ x, t.ses c = some x → x.lastBoundary = some (s.bandStart c))

/-- The session's next band to be tested at its deadline. -/
def Sys2Proof.Claims.testBand (s : State) (c : CtxNo) (k : Nat) : Nat × Nat := s.nextActive c (s.slot k).testedF (s.slot k).testedK

/-- R93, R102, R103: at its deadline a band that is queued, or of a frame without video, is passed; one that is not adds to the
slip count and leaves a record; REPEAT and MARK then pass it, and STRETCH moves every later instant by a band time. -/
def Sys2Proof.Claims.deadlineTestsRule : Prop :=
  ∀ (c : CtxNo) (s : State) (k : Nat), s.heldSlot c = some k → (s.ctx c).state ≠ .admitting → k < 16384 →
    let f := (testBand s c k).1
    let b := (testBand s c k).2
    let r := s.releaseOf c f b
    s.pastStop c k f b = false → r.2 ≤ s.clock.time + s.guardOf k →
    let passed := if r.1.bandActive c f (b + 1) then (f, b + 1) else (f + 1, 0)
    (((r.1.slot k).kindAt f = 0 ∨ r.1.bandQueued k f b = true) →
      ∃ t, exec (.deadlineTest c) s = .next t ∧ ((t.slot k).testedF, (t.slot k).testedK) = passed ∧
        (t.slot k).slips = (r.1.slot k).slips ∧ t.slipFifo = s.slipFifo ∧ t.ctxs = s.ctxs) ∧
    ((r.1.slot k).kindAt f ≠ 0 → r.1.bandQueued k f b = false →
      ∃ t, exec (.deadlineTest c) s = .next t ∧ t.ctxs = s.ctxs ∧
        t.regN (schAddr k 0x2C) = min 0xFFFFFFFF (r.1.regN (schAddr k 0x2C) + 1) ∧
        (∀ d : Fin 2, d.val = slotDie k → s.slipFifo[d.val].length < 256 →
          t.slipFifo[d.val] = s.slipFifo[d.val] ++ [BitVec.ofNat 32 (2 ^ 31 + r.1.slipPolicy k * 2 ^ 22 + b % 256 * 2 ^ 14 + k)]) ∧
        (s.slipPolicy k ≠ 1 → ((t.slot k).testedF, (t.slot k).testedK) = passed ∧
          (t.slot k).slips = (r.1.slot k).slips ++
            [{ frame := f, band := b, policy := BitVec.ofNat 2 (r.1.slipPolicy k), markerSent := false }]) ∧
        (s.slipPolicy k = 1 → (t.slot k).sched = (r.1.slot k).sched.map (fun e =>
          if e.f = f then { e with shifts := e.shifts ++ [b] }
          else if f < e.f then { e with s := e.s + r.1.tbOf c k f } else e)))

/-- R43, R44, R91, R93, R94, R102, R103: the horizon, a boundary and a deadline of a session's band periods. -/
def Obligations.BandPeriods : Prop :=
  horizonAdvancesRule ∧ bandBoundaryRule ∧ deadlineTestsRule

/-! ### Bands and lines -/

/-- No page of a context need be moved for a word of V or S space to be read, and none of the words fails. -/
def Sys2Proof.Claims.readable (s : State) (c : CtxNo) (i : Nat) : Prop := s.bad = [] ∧ ((s.page c i).alloc = true → (s.page c i).gcopy = true)

/-- A page of a context has a copy of its own, so that a word of it may be written at once. -/
def Sys2Proof.Claims.owned (s : State) (c : CtxNo) (i : Nat) : Prop :=
  s.bad = [] ∧ (s.page c i).alloc = true ∧ (s.page c i).gcopy = true ∧ (s.page c i).cow = false

/-- The sequencer of a session has nothing to do up to a reach. -/
def Sys2Proof.Claims.lpgRests (x : Session) (m : Reach) : Prop := x.lpgDue m = false ∧ x.lpgStartDue m = false

/-- R99, R100: LINE_RENDER renders the session's next line, once the line program has run up to it, its pages are there and its turn
on the die has come: its pixels stand in a line buffer, and its clocks come off the token balance. With the pages there already
nothing is waited for. -/
def Sys2Proof.Claims.lineRenderedRule : Prop :=
  ∀ (c : CtxNo) (s : State) (k : Nat), s.heldSlot c = some k → s.renderReady c k = true → s.lineTurn c k = true →
    let f0 := (s.slot k).renderFrame
    let l0 := (s.slot k).rendered
    s.lineBehind c f0 l0 = false →
    (∀ s1 u x, s.lpgCatchUp c .beforeNext = (s1, true) → s1.ses c = some x →
      s1.linePages c k (s1.lineSrc c x f0 l0) = (u, true) →
      let f := (u.slot k).renderFrame
      let l := (u.slot k).rendered
      ∃ t, exec (.lineRender c) s = .next t ∧
        ((t.slot k).renderFrame, (t.slot k).rendered) = (if l + 1 < x.timingOf f 3 then (f, l + 1) else (f + 1, 0)) ∧
        (t.slot k).tokens + (t.slot k).clocks = (u.slot k).tokens + (u.slot k).clocks ∧
        (u.slot k).clocks < (t.slot k).clocks ∧ t.mem = u.mem ∧
        ∀ y, t.ses c = some y → ∃ e ∈ y.lines, e.frame = f ∧ e.line = l ∧ e.pixels.length = x.timingOf f 1) ∧
    (∀ x, s.ses c = some x → lpgRests x .beforeNext →
      (∀ i ∈ vPages (s.lineSrc c x f0 l0).fetchReads, readable s c i) → s.bad = [] →
      ∃ t y, exec (.lineRender c) s = .next t ∧ t.mem = s.mem ∧ t.ses c = some y ∧
        ((t.slot k).renderFrame, (t.slot k).rendered) = (if l0 + 1 < x.timingOf f0 3 then (f0, l0 + 1) else (f0 + 1, 0)) ∧
        ∃ e ∈ y.lines, e.frame = f0 ∧ e.line = l0 ∧ e.pixels.length = x.timingOf f0 1)

/-- The session's next band to be coded. -/
def Sys2Proof.Claims.codeBand (s : State) (c : CtxNo) (k : Nat) : Nat × Nat := s.nextActive c (s.slot k).codedF (s.slot k).codedK

/-- R102, R293, R303, R324: BAND_CODE codes a session's next band once its lines are rendered and its queue has room, and the place
moves on; a band that has not slipped stands at the end of the video queue, a tile band once the mirror's pages are there; a plane
band that slipped under REPEAT is discarded. -/
def Sys2Proof.Claims.bandCodedRule : Prop :=
  ∀ (c : CtxNo) (s : State) (k : Nat), s.heldSlot c = some k → (s.ctx c).state ≠ .admitting →
    let f := (codeBand s c k).1
    let b := (codeBand s c k).2
    s.bandRendered c k f b = true → (s.slot k).videoBands.length < 16 → (s.slot k).tapMode f = 0 →
    ((s.slot k).kindAt f = 0 → ∃ t, exec (.bandCode c) s = .next t ∧
      ((t.slot k).codedF, (t.slot k).codedK) = (if s.bandActive c f (b + 1) then (f, b + 1) else (f + 1, 0)) ∧
      (t.slot k).videoQ = (s.slot k).videoQ) ∧
    (∀ s1, (s.slot k).kindAt f ≠ 0 → s.codeKind c k f b = some s1 → ∃ t, exec (.bandCode c) s = .next t ∧
      ((t.slot k).codedF, (t.slot k).codedK) = (if s1.bandActive c f (b + 1) then (f, b + 1) else (f + 1, 0)) ∧
      (t.slot k).videoQ = (s1.slot k).videoQ) ∧
    ((s.slot k).kindAt f = 2 → (s.slot k).slipOf f b = none →
      ∃ t d, exec (.bandCode c) s = .next t ∧ (t.slot k).videoQ = (s.slot k).videoQ ++ [d] ∧ d.frame = f ∧ d.band = b ∧
        d.kind = 2 ∧ d.late = false ∧ d.sentFragments = 0 ∧ d.flow = (s.slot k).flowAt f b) ∧
    ((s.slot k).kindAt f = 1 → (s.slot k).slipOf f b = none → (∀ i ∈ mirrorPages, owned s c i) → (∀ e ∈ (s.slot k).recent, e < 4096) →
      ∃ t d, exec (.bandCode c) s = .next t ∧ (t.slot k).videoQ = (s.slot k).videoQ ++ [d] ∧ d.frame = f ∧ d.band = b ∧
        d.kind = 1 ∧ d.late = false ∧ d.sentFragments = 0 ∧ d.flow = (s.slot k).flowAt f b) ∧
    (∀ e, (s.slot k).kindAt f = 2 → (s.slot k).slipOf f b = some e → e.policy = 0 →
      ∃ t, exec (.bandCode c) s = .next t ∧ (t.slot k).videoQ = (s.slot k).videoQ)

/-- R233: MONITOR_COPY moves to the next band, and copies where the monitor is on. -/
def Sys2Proof.Claims.monitorCopiesRule : Prop :=
  ∀ (c : CtxNo) (s : State) (k : Nat), s.heldSlot c = some k → (s.ctx c).state ≠ .admitting →
    let n := s.nextActive c (s.slot k).monF (s.slot k).monK
    s.bandRendered c k n.1 n.2 = true →
    ∃ t, exec (.monitorCopy c) s = .next t ∧ t.ctxs = s.ctxs ∧ (∀ j, j ≠ k → t.slot j = s.slot j) ∧
      ((t.slot k).monF, (t.slot k).monK) = (if s.bandActive c n.1 (n.2 + 1) then (n.1, n.2 + 1) else (n.1 + 1, 0)) ∧
      (s.monitor.en = false → t = { s with slots := t.slots })

/-- R99, R100, R233, R293, R303, R324: a line is rendered, a band coded and queued, a band copied to the monitor. -/
def Obligations.BandPipeline : Prop :=
  lineRenderedRule ∧ bandCodedRule ∧ monitorCopiesRule

/-! ### Egress -/

/-- A session packet can leave with the headers `f`: they are valid, its sub-port is up, and its credits suffice (R327,
R328). -/
def Sys2Proof.Claims.deliverable (s : State) (f : FlowWords) (payload : List Byte) : Prop :=
  s.undeliverable f = false ∧ s.fits (flowPort f) (flowSub f) (s.sessionFrame f payload) = true

/-- The packet is on the wire, padded to the least length (R314), after what stood there. -/
def Sys2Proof.Claims.sent (s : State) (f : FlowWords) (payload : List Byte) (l : List Sent) : Prop :=
  l = .frame (Fin.ofNat 2 (flowPort f)) (Fin.ofNat 4 (flowSub f)) s.stamp (padFrame (s.sessionFrame f payload)) :: s.wire

/-- A discarded packet is counted by its cause (R327). -/
def Sys2Proof.Claims.discarded (s t : State) (f : FlowWords) : Prop :=
  let a := qmBase + if flowValid f && s.lipUsable f then 0x104 else 0x100
  t.wire = s.wire ∧ t.regN a = min 0xFFFFFFFF (s.regN a + 1)

/-- R269, R293, R295, R302, R314, R324 to R328: where the order gives its sub-port to a packet, it leaves with its headers: an audio
packet, whose place a packet that waited takes, a control packet, a marker, and the fragments of a band, on time or late; a packet that
cannot be delivered is discarded and counted, at its instant, whatever waits before it. A transmit timestamp is known to 2 ns only
(log entry 72). -/
def Obligations.PacketsLeave : Prop :=
  ∀ (c : CtxNo) (s : State) (k : Nat), s.heldSlot c = some k →
    (∀ d q, (s.slot k).audioQ = d :: q → d.returned = none → s.goes k (.audio k) = true →
      (deliverable s d.flow (s.audioPacket k d (s.aseqOf k)) ∨ s.undeliverable d.flow = true) →
      ∃ t r, exec (.audioPacketRelease c) s = .next t ∧ (t.slot k).audioQ = q ++ r ∧
        ((s.slot k).audioWait = [] → r = []) ∧
        (∀ w l, (s.slot k).audioWait = w :: l → r.length = 1 ∧ (t.slot k).audioWait = l) ∧
        (s.undeliverable d.flow = false → sent s d.flow (s.audioPacket k d (s.aseqOf k)) t.wire) ∧
        (s.undeliverable d.flow = true → discarded s t d.flow)) ∧
    (∀ d q, (s.slot k).audioQ = d :: q → d.rel ≤ s.clock.time → s.undeliverable d.flow = true → s.goes k (.audio k) = true) ∧
    (∀ e, (s.slot k).nextMarker = some e → s.goes k (.marker k) = true →
      let f := (s.slot k).flowAt e.frame e.band
      let pay := s.bandPacket k (s.markerDesc k e) 0 (s.vseqOf k)
      deliverable s f pay ∨ s.undeliverable f = true → ∃ t, exec (.markerSend c) s = .next t ∧
        (s.undeliverable f = false → sent s f pay t.wire) ∧ (s.undeliverable f = true → discarded s t f) ∧
        (t.slot k).slips = (s.slot k).slips.map (fun y => if y = e then { y with markerSent := true } else y)) ∧
    (∀ d q, (s.slot k).videoQ = d :: q → d.returned = none → s.goes k (.band k) = true →
      let pay := s.bandPacket k d d.sentFragments (s.vseqOf k)
      (deliverable s d.flow pay → ∃ t l w, exec (if d.late then .lateBandSend c else .bandRelease c) s = .next t ∧
        sent s d.flow pay w ∧ t.wire = l ++ w ∧
        (d.sentFragments + 1 = d.fragments.length → (∀ e ∈ q.head?, (e.frame, e.band) ≠ (d.frame, d.band)) →
          l = [] ∧ (t.slot k).videoQ = q)) ∧
      (s.undeliverable d.flow = true → d.sentFragments + 1 = d.fragments.length →
        (∀ e ∈ q.head?, (e.frame, e.band) ≠ (d.frame, d.band)) →
        ∃ t, exec (if d.late then .lateBandSend c else .bandRelease c) s = .next t ∧ discarded s t d.flow ∧
          (t.slot k).videoQ = q)) ∧
    (∀ (p : Fin 2) (m : Fin 4) e d q, s.chooseNext p.val m.val = some e → e.item = .control k → (s.slot k).controlQ = d :: q →
      let pay := s.agentBytes 2 d.buf.toNat d.len
      s.bad = [] → deliverable s d.flow pay → ∃ t, exec (.packetDequeue p m) s = .next t ∧ sent s d.flow pay t.wire ∧
        t.slot k = { s.slot k with controlQ := q } ∧ t.ctxs = s.ctxs)

/-! ### A session's units -/

/-- `t` is `s` with context `c`'s session become `y`, and nothing else changed. -/
def Sys2Proof.Claims.onSession (s t : State) (c : CtxNo) (y : Session) : Prop :=
  t = { s with ctxs := t.ctxs } ∧ otherContexts s t c ∧ t.ctx c = { s.ctx c with ses := some y }

/-- No entry of a line program stands at the beam's last position, so a store of the program there is not beneath one (R200). -/
def Sys2Proof.Claims.lpgApart (x : Session) : Prop := ∀ e ∈ x.undo, e.lpg = true → (e.frame, e.line, e.dot) ≠ x.lastPos

/-- R208 to R211, R222, R225: VID_COMMIT sets PENDING; the vertical-blank instant raises VBLANK and, with PENDING, makes the
composition shadows live, and checks the scaling pair; the LINE compare raises LINE once; BEAMLINE_READ answers the line and latches
dot and frame; the palette port writes an entry and moves to the next. A row that stands for the program's access acts while the
program executes (R142), and a palette load waits for the line program (R202). -/
def Obligations.VideoCommands : Prop :=
  ∀ (c : CtxNo) (s : State) (x : Session), s.live c = true → s.ses c = some x →
    (s.programs c = true →
      ∃ t y, exec (.vidCommit c) s = .next t ∧ onSession s t c y ∧ y = { x with io := y.io } ∧
        y.ioW 0xF009 = x.ioW 0xF009 ||| 0x100 ∧ ∀ a, a ≠ 0xF009 → y.ioW a = x.ioW a) ∧
    (x.vblankDue = true → (∀ e ∈ x.undo, e.kind = .live → e.lpg = false) →
      ∃ t y, exec (.vblankInstant c) s = .next t ∧ onSession s t c y ∧ y.int.pend.getLsbD 0 = true ∧ y.vblankDone = true ∧
        y.cpu = x.cpu ∧ y.vcyc = x.vcyc ∧ y.pal = x.pal ∧
        (let p := match y.nextTiming with | some l => l.map BitVec.toNat | none => y.timingLive
          let ok := scaleOk (y.liveN 0xF631) (p.getD 1 0) && scaleOk (y.liveN 0xF632) (p.getD 3 0)
          y.liveN scaleWord = (if ok then 0 else 1) ∧ (ok = false → (y.ioW 0xF638).getLsbD 0 = true)) ∧
        ((x.ioW 0xF009).getLsbD 8 = false → ∀ a, a ≠ scaleWord → y.liveN a = x.liveN a) ∧
        ((x.ioW 0xF009).getLsbD 8 = true → (y.ioW 0xF009).getLsbD 8 = false ∧ ∀ a ∈ shadowedComp, y.liveN a = x.ioN a)) ∧
    (x.lineDue = true → ∃ t, exec (.lineCompare c) s = .next t ∧
      onSession s t c { x with lineRaised := true, int := x.int.raise 1 }) ∧
    (s.programs c = true → ∃ t y, exec (.beamlineRead c) s = .next t ∧ onSession { s with answer := t.answer } t c y ∧ y = { x with io := y.io } ∧
      t.answer = BitVec.ofNat 64 (x.lastPos.2.1 % 65536) ∧ y.ioN 0xF011 = x.lastPos.2.2 % 65536 ∧
      y.ioN 0xF012 = x.lastPos.1 % 65536) ∧
    (∀ w1 : Word, s.programs c = true → lpgApart x →
      ∃ t y, exec (.paletteWrite c w1) s = .next t ∧ onSession s t c y ∧
        (∀ j, y.palEntry j = if j % x.palSize = x.ioN 0xF640 % x.palSize then
          BitVec.ofNat 24 (x.ioN 0xF642 % 256 * 65536 + w1.toNat) else x.palEntry j) ∧
        y.ioN 0xF640 = (x.ioN 0xF640 % x.palSize + 1) % x.palSize ∧ y.cpu = x.cpu) ∧
    (∀ s1 u, s.programs c = true → (s.lpgCatchUp c .last = (s1, true) ∨ lpgRests x .last ∧ s1 = s) → s1.ses c = some u → lpgApart u →
      ∃ t y, exec (.paletteRead c) s = .next t ∧ onSession { s1 with answer := t.answer } t c y ∧
        t.answer = (u.palEntry (u.ioN 0xF640)).setWidth 64 ∧ y.ioN 0xF640 = (u.ioN 0xF640 % u.palSize + 1) % u.palSize ∧
        y.pal = u.pal) ∧
    (s.programs c = false → ∀ w1 : Word, ∀ i ∈ [Instr.vidCommit c, .beamlineRead c, .paletteWrite c w1, .paletteRead c],
      exec i s = .next s)

/-- The sequencer's place after an entry: the word after the entry and the next dot. -/
def Sys2Proof.Claims.lpgMoved (z y : Session) : Prop :=
  y.lpg.pc = z.lpg.pc + 2 ∧ (y.lpg.line, y.lpg.dot) = z.lpgNext ∧ y.lpg.running = z.lpg.running ∧ y.lpg.lc = z.lpg.lc

/-- Where a WAIT of words `w0` and `w1` continues (R213). -/
def Sys2Proof.Claims.waits (z y : Session) (w0 w1 : Word) : Prop :=
  let h := z.timingOf z.lpgFrame 0
  let line := field w0.toNat 0 10
  let dot := field w1.toNat 0 11
  y.lpg.pc = z.lpg.pc + 2 ∧ y.lpg.running = z.lpg.running ∧ y.io = z.io ∧
  (w0.getLsbD 11 = true → dot < h → y.lpg.dot = dot ∧
    y.lpg.line = if z.lpg.dot ≤ dot then z.lpg.line else z.lpg.line + 1) ∧
  (w0.getLsbD 11 = false → dot < h →
    (line < z.timingOf z.lpgFrame 2 → z.lpg.line < line ∨ z.lpg.line = line ∧ z.lpg.dot < dot →
      (y.lpg.line, y.lpg.dot) = (line, dot)) ∧
    (line < z.lpg.line ∨ z.lpg.line = line ∧ dot ≤ z.lpg.dot → (y.lpg.line, y.lpg.dot) = (z.lpg.line, z.lpg.dot)))

/-- A V word as the sequencer reads it where its page is there: as it stood at the line's fetch instant (R203). -/
def Sys2Proof.Claims.seqWord (s : State) (c : CtxNo) (x : Session) (a : Nat) : Word :=
  x.vOld x.lpg.bank (a % 65536) (x.fetchCycle x.lpgFrame x.lpg.line) (s.peek c (vPage x.lpg.bank (a % 65536)) (a % 2048))

/-- The row that an entry's operation belongs to. -/
def Sys2Proof.Claims.lpgRowOf (c : CtxNo) (op : Nat) : Instr :=
  if op = 1 then .lpgWait c else if op = 2 then .wreg c else if op = 3 then .wpal c else if op = 4 then .loop c
  else if op = 5 then .setp c else .lpgEnd c

/-- A palette write of two words at entry `i` (R182, R213). -/
def Sys2Proof.Claims.palWritten (q y : Session) (i : Nat) (v0 v1 : Word) : Prop :=
  ∀ j, y.palEntry j = if j % q.palSize = i % q.palSize then BitVec.ofNat 24 (v0.toNat % 256 * 65536 + v1.toNat) else q.palEntry j

/-- What a due entry of words `w0` and `w1`, read with the state become `s1` and its session `z`, does. -/
def Sys2Proof.Claims.lpgEntryRule (c : CtxNo) (s s1 : State) (z : Session) (w0 w1 : Word) : Prop :=
  let op := field w0.toNat 12 4
  let off := field w0.toNat 0 11
  let ind := w0.getLsbD 11
  (op = 0 ∨ 6 ≤ op → ∃ t y, exec (.lpgEnd c) s = .next t ∧ onSession s1 t c y ∧ y.lpg.running = false ∧
    y.ioW 0xF504 = if op = 0 then z.ioW 0xF504 else z.ioW 0xF504 ||| 1) ∧
  (op = 1 → ∃ t y, exec (.lpgWait c) s = .next t ∧ onSession s1 t c y ∧ waits z y w0 w1) ∧
  (∀ s2 v q, op = 2 → (if ind then s1.lpgWord c (z.ioN 0xF502) else (s1, some w1)) = (s2, some v) → s2.ses c = some q →
    (0x500 ≤ off → off ≤ 0x5FF → ∃ t y, exec (.wreg c) s = .next t ∧ onSession s2 t c y ∧ lpgMoved q y ∧
      y.ioW 0xF504 = q.ioW 0xF504 ||| 2 ∧ y.ioN 0xF502 = (if ind then (q.ioN 0xF502 + 1) % 65536 else q.ioN 0xF502) ∧
      ∀ a, a ≠ 0xF504 → a ≠ 0xF502 → y.ioW a = q.ioW a) ∧
    ((off < 0x500 ∨ 0x600 ≤ off) → off ≠ 8 → off ≠ 0x643 →
      (ioDesc q.grand (0xF000 + off)).rw = 0xFFFF → (ioDesc q.grand (0xF000 + off)).w1c = 0 →
      ∃ t y, exec (.wreg c) s = .next t ∧ onSession s2 t c y ∧ lpgMoved q y ∧ y.ioW (0xF000 + off) = v ∧
        y.ioN 0xF502 = (if ind then (q.ioN 0xF502 + 1) % 65536 else q.ioN 0xF502) ∧
        ∀ a, a ≠ 0xF000 + off → a ≠ 0xF502 → y.ioW a = q.ioW a)) ∧
  (∀ s2 v0 v1 q, op = 3 → s1.lpgPair c (if ind then z.ioN 0xF502 else w1.toNat) = (s2, some (v0, v1)) → s2.ses c = some q →
    ∃ t y, exec (.wpal c) s = .next t ∧ onSession s2 t c y ∧ lpgMoved q y ∧ palWritten q y off v0 v1 ∧
      y.ioN 0xF502 = if ind then (q.ioN 0xF502 + 2) % 65536 else q.ioN 0xF502) ∧
  (op = 4 → let n := if z.lpg.lc = 0 then max (field w0.toNat 0 12) 1 else z.lpg.lc.toNat
    ∃ t y, exec (.loop c) s = .next t ∧ onSession s1 t c y ∧ y.io = z.io ∧ y.lpg.lc = BitVec.ofNat 12 (n - 1) ∧
      y.lpg.pc = (if n = 1 then z.lpg.pc + 2 else w1) ∧ (y.lpg.line, y.lpg.dot) = z.lpgNext) ∧
  (op = 5 → ∃ t y, exec (.setp c) s = .next t ∧ onSession s1 t c y ∧ lpgMoved z y ∧ y.ioW 0xF502 = w1 ∧
    ∀ a, a ≠ 0xF502 → y.ioW a = z.ioW a)

/-- R203, R212 to R214: a frame's start starts an enabled sequencer at its program; its due entry, of words `w0` and `w1` as the line's
fetch instant saw them, does what its operation says, at once where its pages are there, so that nothing but the order of their
use and the session changes. -/
def Obligations.LineProgramEntries : Prop :=
  ∀ (c : CtxNo) (s : State) (x : Session), s.live c = true → s.ses c = some x →
    (x.lpgDue .last = false → x.lpgStartDue .last = true →
      let f := x.lpg.frame
      let ctrl := x.valueAt .io 0xF500 f 0 0
      ∃ t y, exec (.lpgStart c) s = .next t ∧ onSession s t c y ∧ y = { x with io := y.io, lpg := y.lpg } ∧
        y.ioW 0xF504 = (if x.lpg.running then x.ioW 0xF504 ||| 4 else x.ioW 0xF504) ∧
        y.lpg = if ctrl.testBit 0 then
            { running := true, bank := x.bankOf (field ctrl 1 2), pc := BitVec.ofNat 16 (x.valueAt .io 0xF501 f 0 0),
              lc := 0, frame := f + 1, line := 0, dot := 0 }
          else { x.lpg with running := false, frame := f + 1 }) ∧
    (x.lpgDue .last = true → ∀ s1 w0 w1 z, s.lpgPair c x.lpg.pc.toNat = (s1, some (w0, w1)) → s1.ses c = some z →
      lpgEntryRule c s s1 z w0 w1) ∧
    (x.lpgDue .last = true →
      let w0 := seqWord s c x x.lpg.pc.toNat
      let w1 := seqWord s c x (x.lpg.pc.toNat + 1)
      let op := field w0.toNat 12 4
      let data := if w0.getLsbD 11 then x.ioN 0xF502 else w1.toNat
      (∀ a ∈ [x.lpg.pc.toNat, x.lpg.pc.toNat + 1, data, data + 1], readable s c (vPage x.lpg.bank (a % 65536))) →
      ∃ t g y, exec (lpgRowOf c op) s = .next t ∧ onSession { s with galleryOrder := g } t c y ∧
        (op = 2 ∨ op = 3 ∨ op = 5 → lpgMoved x y) ∧
        (op = 3 → palWritten x y (field w0.toNat 0 11) (seqWord s c x data) (seqWord s c x (data + 1))) ∧
        (op = 0 ∨ 6 ≤ op → y.lpg.running = false) ∧ (op = 1 → waits x y w0 w1))

/-- R250 to R252, R257, R261, R262, R268, R270: a key store of an executing program waits on its voice for the next sample; a gain's
store sets its target and starts a ramp from the gain in use; a due sample is mixed and counted in its session's turn, once the
blitter and the DMA have reached its cycle and its words are there. The samples that fall before a store are mixed first. -/
def Obligations.SoundCommands : Prop :=
  ∀ (c : CtxNo) (s : State) (x : Session), s.ses c = some x →
    (s.programs c = true → ∀ (s1 : State) (u : Session) (v : Fin 32) (ctrl : Word),
      let g := x.cpu.now - 1
      (s1 = s.mixDueBefore c g ∨ x.dueBefore g = false ∧ s1 = s) →
      s1.ses c = some u → u.dueBefore g = false →
      (v.val < u.voiceCount → ctrl.getLsbD 15 = true ∨ ctrl.getLsbD 14 = true →
        ∃ t y, exec (if ctrl.getLsbD 15 then .kon c v ctrl else .koff c v ctrl) s = .next t ∧ onSession s1 t c y ∧
          y.snd.voice v = { u.snd.voice v with keys := (u.snd.voice v).keys ++ [ctrl.getLsbD 15] } ∧
          (∀ n, n ≠ v.val → y.snd.voice n = u.snd.voice n) ∧ y.ioW (0xF900 + 8 * v.val) &&& 0x07F0#16 = ctrl &&& 0x07F0#16) ∧
      (u.voiceCount ≤ v.val → ctrl.getLsbD 15 = true ∨ ctrl.getLsbD 14 = true →
        ∃ t, exec (if ctrl.getLsbD 15 then .kon c v ctrl else .koff c v ctrl) s = .next t ∧ onSession s1 t c u) ∧
      (∀ (n : Fin 138) (g : Word), u.grand = true ∨ n.val < 64 ∨ 128 ≤ n.val →
        ∃ t y, exec (.gainWrite c n g) s = .next t ∧ onSession s1 t c y ∧ y.ioW (gainAddr n) = g ∧
          Sparse.get Ramp.idle y.snd.ramps n = { g0 := u.gain n, gt := g.toInt, j := 0 } ∧
          ∀ m, m ≠ n.val → Sparse.get Ramp.idle y.snd.ramps m = Sparse.get Ramp.idle u.snd.ramps m)) ∧
    (s.programs c = false → ∀ (v : Fin 32) (n : Fin 138) (w : Word), ∀ i ∈ [Instr.kon c v w, .koff c v w, .gainWrite c n w],
      exec i s = .next s) ∧
    (∀ d l k, s.heldSlot c = some k → x.snd.due = d :: l → x.ioN 0xFAC6 < 2 → s.audioTurn c k = true → d < x.unitAt →
      (∀ s2, s.bringSample c d x = (s2, true) → s2.ses c = some x →
        ∃ t, exec (.audioSample c) s = .next t ∧ t.mem = s2.mem ∧
          ∀ y, t.ses c = some y → y.snd.due = l ∧ y.snd.samples = x.snd.samples + 1 ∧ y.cpu = x.cpu ∧ y.vcyc = x.vcyc) ∧
      ((∀ e ∈ x.auxReads ++ x.voiceReads, readable s c (sPage e.1 (e.2 % 65536))) →
        ∃ t y, exec (.audioSample c) s = .next t ∧ t.mem = s.mem ∧ t.ses c = some y ∧ y.snd.due = l ∧
          y.snd.samples = x.snd.samples + 1 ∧ y.cpu = x.cpu ∧ y.vcyc = x.vcyc))

/-- The units' events up to cycle `g` have been performed, and so have the starts of `g`, the cycle that passed last. -/
def Sys2Proof.Claims.unitsReach (x : Session) (g : Nat) : Prop := x.cpu.now = g + 1 ∧ x.unitAt = g ∧ x.unitPre = true

/-- R142, R242 to R247: GO of an executing program copies the parameters and starts a blit that is not refused; an abort ends one between bursts, and waits for
the end of a burst; a burst that lands in the cycle that passed last moves the blit on. -/
def Sys2Proof.Claims.blitterRule : Prop :=
  ∀ (c : CtxNo) (s : State) (x : Session), s.live c = true → s.ses c = some x →
    let g := x.cpu.now - 1
    let b := x.blitParams g
    let program := s.programs c = true
    (program → x.blit = none → x.blitEnd ≤ g →
      ∃ t y, exec (.blitGo c false) s = .next t ∧ onSession s t c y ∧
        (b.refused = true → y.blit = none ∧ y.ioW 0xF810 = x.ioW 0xF810 ||| 16) ∧
        (b.refused = false → y.blit = some b ∧ y.ioN 0xF811 = 0)) ∧
    (program → x.blit.isSome = true ∨ g < x.blitEnd → ∃ t, exec (.blitGo c false) s = .next t ∧ onSession s t c x) ∧
    (∀ (w : Bool) d, program → x.blit = some d →
      (d.latched = none → ∃ t y, exec (if w then .blitGo c true else .blitAbort c) s = .next t ∧ onSession s t c y ∧
        y.blit = none ∧ (y.ioW 0xF810).getLsbD 2 = true ∧ y.blitEnd = g + 1) ∧
      (d.latched.isSome = true → ∃ t, exec (if w then .blitGo c true else .blitAbort c) s = .next t ∧
        onSession s t c { x with blit := some { d with abort := true } })) ∧
    (s.programs c = false → ∀ w : Bool, ∀ i ∈ [Instr.blitGo c w, .blitAbort c], exec i s = .next s) ∧
    (∀ d l, x.blit = some d → d.latched = some l → x.dmaAct = none → (∀ n, (x.ch n).phase = .off) → d.bursts ≠ 0 →
      s.idles c = false → unitsReach x d.land →
      let rowEnd := d.rowBursts ≤ d.burst + 1
      let rows := d.rowsDone + if rowEnd then 1 else 0
      (∀ v z, s.blitWords c d.dbank d.land l = (v, true) → v.ses c = some z →
        (z.dmaAct = none ∧ z.dma = x.dma ∧ z.blit = some d ∧ z.unitAt = d.land ∧ z.cpu = x.cpu) →
        ∃ t y, exec (.blitBurst c) s = .next t ∧ onSession v t c y ∧ y.ioN 0xF811 = rows % 65536 ∧
          (d.last = true ∨ d.abort = true → y.blit = none) ∧
          (d.last = false → d.abort = false → ∃ e, y.blit = some e ∧ e.latched = none ∧ e.start = d.land + 1 + d.dead ∧
            (e.row, e.burst) = if rowEnd then (d.row + 1, 0) else (d.row, d.burst + 1))) ∧
      ((∀ e ∈ l, owned s c (vPage d.dbank (e.1 % 65536))) → x.vjournal.length + l.length ≤ 4096 →
        ∃ t y, exec (.blitBurst c) s = .next t ∧ t.ses c = some y ∧ y.ioN 0xF811 = rows % 65536 ∧ y.cpu = x.cpu ∧
          (d.last = true ∨ d.abort = true → y.blit = none)))

/-- A channel of session `x`'s DMA: its EN. -/
def Sys2Proof.Claims.chEn (x : Session) (n : Fin 4) : Prop := x.ioN (dmaReg n 0) % 2 = 1

/-- R142, R278, R281, R283 to R287: a program that enables a channel has its settings checked and starts it, or has what it still does
followed by the run asked for (log entry 41); a KICK sets an idle ring channel reading; an
abort between bursts ends the descriptor or the stream; an action of the port that lands in the cycle that passed last takes its
effect; a trigger gives a waiting stream its chunk. -/
def Sys2Proof.Claims.dmaRule : Prop :=
  ∀ (c : CtxNo) (s : State) (x : Session), s.live c = true → s.ses c = some x →
    let g := x.cpu.now - 1
    let program := s.programs c = true
    (s.programs c = false → ∀ (n : Fin 4) (k : Fin 2) (v : Word), ∀ i ∈ [Instr.dmaEnable c n v, .kick c k, .dmaAbort c n, .dmaFence c],
      exec i s = .next s) ∧
    (∀ (n : Fin 4) (v : Word), program → v.getLsbD 0 = true → ¬ chEn x n → (x.ch n).phase ≠ .off →
      ∀ r, (if 2 ≤ n.val then (x.setIo (dmaReg n 0) (softWrite (ioDesc x.grand (dmaReg n 0)) (x.ioN (dmaReg n 0)) v.toNat)).streamRun n v
          else x.ringRun n) = some r →
      ∃ t y, exec (.dmaEnable c n v) s = .next t ∧ onSession s t c y ∧ (∀ m, m ≠ n → y.ch m = x.ch m) ∧
        y.ch n = { x.ch n with next := some r, kpend := false } ∧ chEn y n ∧ (n.val < 2 → y.ioN (dmaReg n 3) = 0)) ∧
    (∀ (n : Fin 4) (v : Word), program → v.getLsbD 0 = true → ¬ chEn x n → (x.ch n).phase = .off →
      ∃ t y, exec (.dmaEnable c n v) s = .next t ∧ onSession s t c y ∧ (∀ m, m ≠ n → y.ch m = x.ch m) ∧
        (n.val < 2 → let rlen := ringEntries (x.ioN (dmaReg n 2))
          if 0xC000 < x.ioN (dmaReg n 1) + 8 * rlen then
            (y.ch n).phase = .off ∧ ¬ chEn y n ∧ (y.ioW (dmaReg n 9)).getLsbD 4 = true
          else (y.ch n).phase = .fetch ∧ chEn y n ∧ (y.ch n).p0 = x.ioW (dmaReg n 1) ∧ (y.ch n).p1 = BitVec.ofNat 16 rlen ∧
            (y.ch n).ready = g + 1 ∧ y.ioN (dmaReg n 3) = 0) ∧
        (2 ≤ n.val → let ss := field v.toNat 5 2
          let slen := x.ioN (dmaReg n 2)
          let chunk := x.ioN (dmaReg n 7)
          if ss < 3 ∧ (field v.toNat 7 2 = 1 ∨ field v.toNat 7 2 = 2) ∧ slen % 2 = 0 ∧ 2 ≤ slen ∧ 1 ≤ x.ioN (dmaReg n 5) ∧
              1 ≤ chunk ∧ chunk ≤ slen / 2 ∧ (ss = 0 → x.ioN (dmaReg n 1) + slen ≤ 0xC000) then
            (y.ch n).phase = .run ∧ chEn y n ∧ (y.ch n).ctrl = v ∧ (y.ch n).left = if field v.toNat 3 2 = 0 then chunk else 0
          else (y.ch n).phase = .off ∧ ¬ chEn y n ∧ (y.ioW (dmaReg n 9)).getLsbD 3 = true)) ∧
    (∀ n : Fin 2, let k : Fin 4 := n.castLE (by decide)
      program → x.ioN (dmaReg n 0) = 1 →
      ((x.ch k).phase = .idle → ∃ t y, exec (.kick c n) s = .next t ∧ onSession s t c y ∧
        y.ch k = { x.ch k with phase := .fetch, kpend := true, ready := g + 1 } ∧ ∀ m, m ≠ k → y.ch m = x.ch m) ∧
      ((x.ch k).phase ≠ .idle → (x.ch k).phase ≠ .off → ∃ t y, exec (.kick c n) s = .next t ∧ onSession s t c y ∧
        y.ch k = { x.ch k with kpend := true } ∧ ∀ m, m ≠ k → y.ch m = x.ch m)) ∧
    (∀ n : Fin 4, program → chEn x n → x.ioN (dmaReg n 0) % 8 = 1 → (x.ch n).phase = .run → x.dmaAct = none →
      ∃ t y, exec (.dmaAbort c n) s = .next t ∧ onSession s t c y ∧ (∀ m, m ≠ n → y.ch m = x.ch m) ∧
        (n.val < 2 → (y.ch n).phase = .writeBack ∧ (y.ch n).result = 1 ∧ chEn y n) ∧
        (2 ≤ n.val → (y.ch n).phase = .off ∧ ¬ chEn y n ∧ (y.ioW (dmaReg n 9)).getLsbD 1 = true)) ∧
    (∀ e, x.dmaAct = some e → x.blit = none → s.idles c = false → unitsReach x e.land →
      (∀ v z, s.dmaWrites c e.land e.words = (v, true) → v.ses c = some z →
        (z.dmaAct = some e ∧ z.dma = x.dma ∧ z.blit = none ∧ z.unitAt = e.land ∧ z.cpu = x.cpu) →
        (∀ n : Fin 2, e.ch.val = n.val → (x.ch e.ch).phase = .fetch → ∃ t y, exec (.descriptorRead c n) s = .next t ∧
          onSession v t c y ∧ y.dmaAct = none ∧ y.ch e.ch = (x.ch e.ch).readDone e.land) ∧
        ((x.ch e.ch).phase = .run → ∃ t y, exec (.dmaBurst c) s = .next t ∧ onSession v t c y ∧ y.dmaAct = none ∧
          (e.ch.val < 2 → y.ch e.ch = (x.ch e.ch).burstLanded e.count e.land)) ∧
        (∀ n : Fin 2, e.ch.val = n.val → (x.ch e.ch).phase = .writeBack → e.count = 0 →
          ∃ t y, exec (.writeBackDescriptor c n) s = .next t ∧ onSession v t c y ∧ y.dmaAct = none ∧
            ((x.ch e.ch).result = 1 ∨ (x.ch e.ch).stopAfter = true ∧ (x.ch e.ch).next = none →
              (y.ch e.ch).phase = .off ∧ ¬ chEn y e.ch) ∧
            ((x.ch e.ch).result ≠ 1 → (x.ch e.ch).stopAfter = true → (x.ch e.ch).next.isSome = true → (y.ch e.ch).phase = .fetch) ∧
            ((x.ch e.ch).result ≠ 1 → (x.ch e.ch).stopAfter = false → (x.ch e.ch).next = none → (y.ch e.ch).phase = .fetch ∧
              y.ioN (dmaReg e.ch 3) = (z.ioN (dmaReg e.ch 3) + 1) % ringEntries (x.ch e.ch).p1.toNat))) ∧
      (∀ n : Fin 2, e.ch.val = n.val → e.words = [] → (x.ch e.ch).phase = .fetch →
        ∃ t y, exec (.descriptorRead c n) s = .next t ∧ t.ses c = some y ∧ y.dmaAct = none ∧
          y.ch e.ch = (x.ch e.ch).readDone e.land) ∧
      ((∀ w ∈ e.words, w.1 = 0 ∧ w.2.2.1 < 0xC000 ∧ owned s c (dPage w.2.2.1) ∧ x.staged (dLine w.2.2.1) = none) →
        ((x.ch e.ch).phase = .run → ∃ t y, exec (.dmaBurst c) s = .next t ∧ t.ses c = some y ∧ y.dmaAct = none ∧
          (e.ch.val < 2 → y.ch e.ch = (x.ch e.ch).burstLanded e.count e.land)) ∧
        (∀ n : Fin 2, e.ch.val = n.val → (x.ch e.ch).phase = .writeBack → e.count = 0 →
          ∃ t y, exec (.writeBackDescriptor c n) s = .next t ∧ t.ses c = some y ∧ y.dmaAct = none))) ∧
    (∀ n : Fin 4, 2 ≤ n.val → let d := x.ch n
      d.phase = .run → (d.trig = 1 ∨ d.trig = 2 ∨ d.trig = 3) → d.left = 0 → d.trigs = [g] → g < d.ready → 0 < x.cpu.now →
      (∀ m, m ≠ n → (x.ch m).phase = .off ∧ (x.ch m).trigs = []) → x.dmaAct = none → x.blit = none → s.idles c = false →
      x.unitAt = g → x.unitPre = false →
      ∃ t y, exec (.dmaTrigger c n) s = .next t ∧ onSession s t c y ∧
        y.ch n = { d with left := d.chunk.toNat, trigs := [] } ∧ ∀ m, m ≠ n → y.ch m = x.ch m) ∧
    (program → s.unitsBehind c = false → exec (.dmaFence c) s = .next { s with answer := 0 }) ∧
    (program → s.unitsBehind c = true → ∃ t, exec (.dmaFence c) s = .next t ∧ t = { s with cnt64 := t.cnt64 })

/-- R142, R242 to R247, R278 to R287: the blitter and session DMA. -/
def Obligations.BlitterAndDma : Prop := blitterRule ∧ dmaRule

/-! ### Mailboxes and clients -/

/-- R142, R354: a commit holds four words for the session's next boundary; GO of an executing program fills the outbox and leaves a record, or counts an
overrun; the reads answer what stands there. -/
def Sys2Proof.Claims.mailboxRule : Prop :=
  ∀ s : State,
    (∀ (k : SlotNo) (c : CtxNo) (x : Session), s.power.dieUp (slotDie k.toNat) = true → s.mailSlot k.toNat = some c →
      s.ses c = some x →
      (∀ h, ∃ t, exec (.mailboxCommit k h) s = .next t ∧
        onSession s t c { x with mb := { x.mb with inbound := some (h ++ x.mb.low), replaced := x.mb.inbound.isSome } }) ∧
      (∃ t, exec (.outboxRead k) s = .next t ∧ t.answer = BitVec.ofNat 64 (x.mb.outbox.toNat / 2 ^ 32) ∧
        onSession { s with answer := t.answer } t c { x with mb := { x.mb with emptied := true } })) ∧
    (∀ (k : SlotNo), s.power.dieUp (slotDie k.toNat) = true → s.mailSlot k.toNat = none →
      (∀ h, exec (.mailboxCommit k h) s = .next s) ∧ exec (.outboxRead k) s = .next { s with answer := 0 }) ∧
    (∀ c : CtxNo, s.programs c = false → exec (.mailboxSend c) s = .next s) ∧
    (∀ (c : CtxNo) (k : Nat) (x : Session), s.programs c = true → s.heldSlot c = some k → s.ses c = some x →
      (x.mb.full = true → ∃ t y, exec (.mailboxSend c) s = .next t ∧ onSession s t c y ∧ y = { x with io := y.io } ∧
        y.ioW 0xFF29 = x.ioW 0xFF29 ||| 2 ∧ ∀ a, a ≠ 0xFF29 → y.ioW a = x.ioW a) ∧
      (x.mb.full = false → ∀ d : Fin 2, d.val = slotDie k → s.mbqFifo[d.val].length < 256 →
        ∃ t y, exec (.mailboxSend c) s = .next t ∧ t.ses c = some y ∧ otherContexts s t c ∧
          y.mb.full = true ∧ y.mb.emptied = false ∧ y.mb.inbound = x.mb.inbound ∧
          (∀ i, i < 4 → field y.mb.outbox.toNat (16 * i) 16 = x.ioN (0xFF24 + i)) ∧
          t.mbqFifo[d.val] = s.mbqFifo[d.val] ++ [BitVec.ofNat 32 (2 ^ 31 + k % 8192)] ∧ t.mem = s.mem)) ∧
    (s.power.hub = true → ∀ d : Fin 2,
      (∀ v l, s.mbqFifo[d.val] = v :: l → ∃ t, exec (.mailboxQueueRead d) s = .next t ∧
        t = { s with mbqFifo := s.mbqFifo.set d.val l, answer := v.setWidth 64, dic := t.dic, keepers := t.keepers } ∧
        (l = [] → t.dic.level.getLsbD (18 + d.val) = false)) ∧
      (s.mbqFifo[d.val] = [] → exec (.mailboxQueueRead d) s = .next { s with answer := 0 }))

/-- R291, R302, R306, R310, R320, R323: a packet of an admitted context's client joins its queue or its report; one that fails the
checks is counted; an input packet for a context with WAKE that is not admitted asks for it once. An arrival is known to 2 ns only (log entry 72). -/
def Sys2Proof.Claims.clientPacketsRule : Prop :=
  ∀ (c : CtxNo) (s : State) (l : List Byte), pktType l = 8 ∨ pktType l = 9 ∨ pktType l = 10 →
    let i := if pktType l = 8 then Instr.input c l else if pktType l = 9 then .feedback c l else .refresh c l
    (∀ k, s.admitted c = true → s.heldSlot c = some k →
      (s.clientOk k l = false → ∀ x, s.ses c = some x → ∃ t y, exec i s = .next t ∧ onSession s t c y ∧
        y = { x with io := y.io } ∧ y.ioN 0xFC29 = min 0xFFFF (x.ioN 0xFC29 + 1)) ∧
      (s.clientOk k l = true →
        (pktType l = 8 → (s.slot k).inputQ.length < 64 → ∃ t, exec i s = .next t ∧ t = { s with slots := t.slots } ∧
          t.slot k = { s.slot k with inputQ := (s.slot k).inputQ ++ [{ payload := l, arrival := s.stamp }] } ∧
          ∀ j, j ≠ k → t.slot j = s.slot j) ∧
        (pktType l = 9 → ∃ t, exec i s = .next t ∧ t = { s with regs := t.regs } ∧ t.regN (strAddr k 0x30) = be32 l 24 ∧
          t.regN (strAddr k 0x34) = be32 l 28) ∧
        (pktType l = 10 → ∃ t, exec i s = .next t ∧ t = { s with slots := t.slots } ∧
          t.slot k = { s.slot k with refreshQ := (s.slot k).refreshQ ++ [(BitVec.ofNat 16 (be16 l 12), s.stamp)] } ∧
          ∀ j, j ≠ k → t.slot j = s.slot j))) ∧
    (s.admitted c = false → ∃ t, exec i s = .next t ∧ t.slots = s.slots ∧ t.mem = s.mem ∧
      t.regN (clsBase + 0x504) = min 0xFFFFFFFF (s.regN (clsBase + 0x504) + 1) ∧
      (pktType l = 8 → pktVer l = 1 → (s.ctx c).wake = true → (s.ctx c).wakePending = false → s.wakeFifo.length < 1024 →
        (t.ctx c).wakePending = true ∧ t.wakeFifo = s.wakeFifo ++ [BitVec.ofNat 32 (2 ^ 31 + c.toNat)]))

/-- R300, R301, R305, R345: a client that finds a gap in SEQ is out of step and wants a refresh, and a tile packet then shows nothing; a
late marker leaves what is presented; a packet of audio is played, and a SILENCE packet is 48 frames of 0; a late one whose interval
has passed is played or not, as the client chooses. -/
def Sys2Proof.Claims.clientRule : Prop :=
  ∀ s : State,
    (∀ pk : VideoPkt, ∃ t, exec (.videoPacketReceive pk) s = .next t ∧ t = { s with client := t.client } ∧
      t.client.expect = pk.seq + 1 ∧ t.client.started = true ∧
      (pk.kind = 1 → (s.client.started = false ∨ pk.seq ≠ s.client.expect) → pk.flags.getLsbD 5 = false →
        t.client.insync = false ∧ t.client.refreshWanted = true ∧ t.client.screen = s.client.screen ∧
        t.client.cache = s.client.cache)) ∧
    (∀ pk : VideoPkt, pk.kind = 3 → pk.flags.getLsbD 0 = true → ∃ t, exec (.videoPacketReceive pk) s = .next t ∧
      t.client.screen = s.client.screen ∧ t.client.planes = s.client.planes) ∧
    (∀ pk : AudioPkt, pk.flags.getLsbD 7 = false ∨ intervalPassed pk s.clock = false →
      (pk.kind = 4 → exec (.audioPacketPlay pk) s =
        .next { s with client := { s.client with played := pk :: s.client.played } }) ∧
      (pk.kind = 5 → exec (.audioPacketPlay pk) s = .next { s with client := { s.client with
        played := { pk with samples := List.replicate 192 0 } :: s.client.played } })) ∧
    (∀ pk : AudioPkt, pk.flags.getLsbD 7 = true → intervalPassed pk s.clock = true → pk.kind = 4 ∨ pk.kind = 5 →
      ∃ t, exec (.audioPacketPlay pk) s = .next t ∧ (t.client = s.client ∨ t.client = s.client.play pk))

/-- R142, R291, R300 to R302, R305, R306, R310, R320, R323, R345, R354: the mailboxes of the Keepers and the sessions, and the clients. -/
def Obligations.MailboxesAndClients : Prop := mailboxRule ∧ clientPacketsRule ∧ clientRule

/-! ### The Curator -/

/-- Frame `g` after holds what frame `f` held before. -/
def Sys2Proof.Claims.frameCopied (s t : State) (f g : Nat) : Prop := ∀ o, o < 4096 → memByte t.mem (4096 * g + o) = memByte s.mem (4096 * f + o)

/-- Every byte outside frame `g` is unchanged. -/
def Sys2Proof.Claims.onlyFrame (s t : State) (g : Nat) : Prop := ∀ a, a / 4096 ≠ g → memByte t.mem a = memByte s.mem a

/-- A request for home frame `h` is under way on a die. -/
def Sys2Proof.Claims.asked (s : State) (d h : Nat) : Prop := ∃ q ∈ s.pageReqs, q.die = d ∧ q.home = h

/-- R66 to R68, R70: a page miss takes the copy the die holds, or joins the page-in of the same frame, or takes a Gallery frame and
becomes a request of its class, the last to have arisen; without a frame, or while the home frame's die is down, it waits. -/
def Sys2Proof.Claims.pageMissRule : Prop :=
  ∀ (c : CtxNo) (pg : PageIx) (by' : Requester) (s : State),
    let e := s.page c pg.val
    (∀ d, s.ctxDie c = some d → e.alloc = true → e.gcopy = false →
      let h := e.home.toNat
      let awaited := fun (x : PageEntry) (f : Nat) => { x with inflight := true, gframe := BitVec.ofNat 16 (f - galleryFrame d 0) }
      (e.inflight = true → ∃ t, exec (.pageMiss c ⟨pg, by'⟩) s = .next t ∧ t = { s with pageReqs := t.pageReqs }) ∧
      (e.inflight = false →
        (∀ f, s.copyOn d h = some f → ∃ t, exec (.pageMiss c ⟨pg, by'⟩) s = .next t ∧ t = { s with ctxs := t.ctxs } ∧ t.page c pg.val =
          { e with gcopy := true, gframe := BitVec.ofNat 16 (f - galleryFrame d 0), dirty := decide (s.current h = f) }) ∧
        (∀ f, s.copyOn d h = none → s.flightOn d h = some f → ∃ t, exec (.pageMiss c ⟨pg, by'⟩) s = .next t ∧
          t = { s with ctxs := t.ctxs, pageReqs := t.pageReqs } ∧ t.page c pg.val = awaited e f) ∧
        (s.copyOn d h = none → s.flightOn d h = none →
          (∀ f s1, s.frameUp (s.current h) = true →
            s.takeGallery d (decide (219 ≤ pg.val)) { FrameRec.copyOf h with pool := 2 } = some (f, s1) →
            ∃ t, exec (.pageMiss c ⟨pg, by'⟩) s = .next t ∧ t = { s1 with ctxs := t.ctxs, pageReqs := t.pageReqs } ∧
              t.page c pg.val = awaited (s1.page c pg.val) f ∧
              (¬ asked s d h → ∃ r, t.pageReqs = s.pageReqs ++ [r] ∧ r.die = d ∧ r.home = h ∧ r.cls = pageClass by' ∧
                r.due = if by' = .band then s.bandDue c else 0)) ∧
          (s.frameUp (s.current h) = false → ∃ t, exec (.pageMiss c ⟨pg, by'⟩) s = .next t ∧ t = { s with cnt64 := t.cnt64 }) ∧
          (s.takeGallery d (decide (219 ≤ pg.val)) { FrameRec.copyOf h with pool := 2 } = none →
            s.takeGallery d false FrameRec.free = none →
            ∃ t, exec (.pageMiss c ⟨pg, by'⟩) s = .next t ∧ t = { s with cnt64 := t.cnt64 } ∧
              t.cnt (curBase + 0x210 + 4 * d) = (s.cnt (curBase + 0x210 + 4 * d) + 1) % 2 ^ 64)))) ∧
    (s.ctxDie c = none ∨ e.alloc = false ∨ e.gcopy = true → exec (.pageMiss c ⟨pg, by'⟩) s = .next s)

/-- R61, R64, R66, R68 to R70, R80, R81, R85: the page-in that its die serves next completes, and its copy holds the page; a first
touch gives a page that reads 0, or quarantines the session where no frame is left; a copy-on-write write gives the page a frame of
its own, or clears COW for the last sharer; a dirty copy is written back to its home once no page-in is under way; an eviction frees
the copy. -/
def Sys2Proof.Claims.pagesRule : Prop :=
  ∀ (c : CtxNo) (pg : PageIx) (s : State), memWf s.mem = true →
    let e := s.page c pg.val
    (∀ d r, s.ctxDie c = some d → e.inflight = true → s.nextReq d = some r →
      let f := galleryFrame d e.gframe.toNat
      let src := s.current e.home.toNat
      (r.home = e.home.toNat → s.frameUp src = true → s.frameBad src = false →
        ∃ t, exec (.pageInDone c pg) s = .next t ∧ t.page c pg.val = { e with inflight := false, gcopy := true, dirty := false } ∧
          t.frame f = FrameRec.copyOf e.home.toNat ∧ frameCopied s t src f ∧ onlyFrame s t f) ∧
      (r.home ≠ e.home.toNat ∨ s.frameUp src = false → exec (.pageInDone c pg) s = .next s)) ∧
    ((s.ctx c).writable = true → pageInUse (s.ctx c).grand pg.val = true → e.alloc = false → s.noneWaits →
      s.takeHome (s.ctxDie c) true = none → ∃ t, exec (.firstTouch c pg) s = .next t ∧ (t.ctx c).state = .quarantined) ∧
    ((s.ctx c).writable = true → pageInUse (s.ctx c).grand pg.val = true → e.alloc = false →
      (let j := b2n ((s.regN curBase).testBit 0)
       s.ctxDie c = none → s.poolListed j = true → s.poolUsable j = true →
       s.poolReserve j + s.frames.length < poolSize s.part j →
       ∃ t, exec (.firstTouch c pg) s = .next t ∧ (t.page c pg.val).alloc = true ∧ ∀ o, o < 2048 → t.peek c pg.val o = 0) ∧
      ∀ h s1, s.takeHome (s.ctxDie c) true = some (h, s1) →
      (∀ d, s.ctxDie c = some d →
        (s1.setPage c pg.val { PageEntry.none with alloc := true, home := BitVec.ofNat 25 h }).takeGallery d
          (decide (219 ≤ pg.val)) (FrameRec.copyOf h) = none →
        ∃ t, exec (.firstTouch c pg) s = .next t ∧ t = { s with cnt64 := t.cnt64 }) ∧
      (s.ctxDie c = none → ∃ t, exec (.firstTouch c pg) s = .next t ∧
        t.page c pg.val = { PageEntry.none with alloc := true, home := BitVec.ofNat 25 h } ∧
        t.frame h = FrameRec.page ∧ onlyFrame s t h ∧ ∀ o, o < 2048 → t.peek c pg.val o = 0) ∧
      (∀ d f s3, s.ctxDie c = some d →
        (s1.setPage c pg.val { PageEntry.none with alloc := true, home := BitVec.ofNat 25 h }).takeGallery d
          (decide (219 ≤ pg.val)) (FrameRec.copyOf h) = some (f, s3) →
        ∃ t, exec (.firstTouch c pg) s = .next t ∧ (t.page c pg.val).alloc = true ∧ (t.page c pg.val).gcopy = true ∧
          (t.page c pg.val).dirty = true ∧ onlyFrame s3 t f ∧ ∀ o, o < 2048 → t.word (4096 * f + 2 * o) = 0)) ∧
    (e.inflight = true → exec (.copyOnWrite c pg) s = .next s) ∧
    ((s.ctx c).writable = true → e.alloc = true → e.cow = true → e.inflight = false →
      let h := e.home.toNat
      (∀ d g s1 f s3, 1 < (s.frame h).shares.toNat → s.frameBad (s.current h) = false → s.ctxDie c = some d →
        s.takeHome (some d) true = some (g, s1) →
        (s1.modFrame h (fun r => { r with shares := r.shares - 1 })).takeGallery d (decide (219 ≤ pg.val)) (FrameRec.copyOf g) =
          some (f, s3) →
        ∃ t, exec (.copyOnWrite c pg) s = .next t ∧ (t.page c pg.val).cow = false ∧
          (t.page c pg.val).home = BitVec.ofNat 25 g ∧ (t.page c pg.val).gcopy = true ∧ (t.page c pg.val).dirty = true ∧
          frameCopied s3 t (s3.current h) f ∧ onlyFrame s3 t f) ∧
      ((s.frame h).shares.toNat ≤ 1 → ∃ t, exec (.copyOnWrite c pg) s = .next t ∧ t = { s with ctxs := t.ctxs } ∧
        t.page c pg.val = { e with cow := false }) ∧
      (∀ g s1, 1 < (s.frame h).shares.toNat → (s.frame h).pool = 1 → s.frameBad (s.current h) = false →
        s.takeHome (s.ctxDie c) true = some (g, s1) → s.ctxDie c = none → ∃ t, exec (.copyOnWrite c pg) s = .next t ∧
          t.page c pg.val = { e with cow := false, home := BitVec.ofNat 25 g } ∧
          t.frame h = { s.frame h with shares := (s.frame h).shares - 1 } ∧ frameCopied s t (s.current h) g ∧
          onlyFrame s t g)) ∧
    (∀ d, s.ctxDie c = some d → s.nextReq d ≠ none → exec (.writeBack c pg) s = .next s) ∧
    (∀ d h, s.ctxDie c = some d → e.gcopy = true → e.dirty = true → s.nextReq d = none →
      let f := galleryFrame d e.gframe.toNat
      (s.frame f).home = some h → s.current h = f → f ≠ h →
      ∃ t, exec (.writeBack c pg) s = .next t ∧ t.current h = h ∧ frameCopied s t f h ∧ onlyFrame s t h ∧
        (e.home.toNat = h → (t.page c pg.val).dirty = false)) ∧
    (∀ (d : Fin 2) f, s.power.dieUp d.val = true → s.victim d.val = some f →
      ∃ t, exec (.eviction d) s = .next t ∧ t.frame f = FrameRec.free ∧ f ∉ t.galleryOrder ∧
        ∀ c' i, t.ctxDie c' = some d.val → (t.page c' i).gcopy = true → galleryFrame d.val (t.page c' i).gframe.toNat ≠ f)

/-- R74 to R76, R85: a miss of an Exact-mode thread's share brings its line in as the most recent, and the line that leaves goes back
where it was written; a frame of the Vault that fails and holds no page is retired, and a retired frame stays so. -/
def Sys2Proof.Claims.failuresRule : Prop :=
  ∀ (c : CtxNo) (line : Nat) (node : Byte) (s : State),
    (∀ s1 x, s.admitted c = true → s.sesD c false (fun x => !x.fast && (x.staged line).isNone) = true →
      s.bringLine c line = (s1, true) → s1.ses c = some x → x.fast = false → x.staged line = none →
      let out := x.staging.drop (max 1 x.share - 1)
      ∃ t, exec (.stagingMiss c line) s = .next t ∧
        ((∀ e ∈ out, e.words = []) → t.mem = s1.mem ∧ ∀ y, t.ses c = some y →
          y.staging = ({ tag := line, words := [] } :: x.staging).take (max 1 x.share) ∧ y.cpu = x.cpu) ∧
        (∀ e, out = [e] → s1.bad = [] → (s1.page c (dPage (64 * e.tag))).alloc = true →
          (s1.page c (dPage (64 * e.tag))).gcopy = true → t.mem = (s1.writeLine c e).mem)) ∧
    (∀ x, s.admitted c = true → s.ses c = some x → x.fast = false → x.staged line = none → line < 768 →
      readable s c (dPage (64 * line)) → (∀ e ∈ x.staging, e.words = []) →
      ∃ t y, exec (.stagingMiss c line) s = .next t ∧ t.mem = s.mem ∧ t.ses c = some y ∧ y.cpu = x.cpu ∧
        y.staging = ({ tag := line, words := [] } :: x.staging).take (max 1 x.share)) ∧
    (∀ (a : LoamAddr), let f := a.toNat / 4096
      (∃ k, k < 2 ∧ framePool s.part f = some k) → (s.frame f).pool ≠ 3 → s.mappers f = [] → s.titleListing f = none →
      (s.copyOn 0 f = none → s.copyOn 1 f = none → s.flightOn 0 f = none → s.flightOn 1 f = none → ∃ t, exec (.persistentFailure node (.read a)) s = .next t ∧
        t.frame f = FrameRec.retired ∧ t.ctxs = s.ctxs ∧ t.mem = s.mem) ∧
      (∃ t, exec (.persistentFailure node (.write a)) s = .next t ∧ t.frame f = FrameRec.retired ∧ t.ctxs = s.ctxs ∧
        t.mem = s.mem)) ∧
    (∀ a : LoamAddr, (s.frame (a.toNat / 4096)).pool = 3 →
      exec (.persistentFailure node (.read a)) s = .next s ∧ exec (.persistentFailure node (.write a)) s = .next s)

/-- R61, R64, R66 to R70, R74 to R76, R80, R81, R85: pages, staging lines and failing frames. -/
def Obligations.PageMovement : Prop := pageMissRule ∧ pagesRule ∧ failuresRule

/-- What a Curator operation leaves in CUR_OP_STAT and CUR_OP_RES. -/
def Sys2Proof.Claims.operationEnds (t : State) (result res : Nat) : Prop :=
  t.regN (curBase + 0x4C) = result ∧ t.regN (curBase + 0x50) + 2 ^ 32 * t.regN (curBase + 0x54) = res

/-- R87: ALLOC gives a frame of a pool as a grant, FREE takes it back, RETIRE takes a free frame or a grant out of use, QUERY answers
the frame's record; what they refuse they refuse by their result. -/
def Sys2Proof.Claims.curatorOperationsRule : Prop :=
  ∀ (s : State) (a : LoamAddr) (k : Fin 4), s.portsUp = true →
    (∀ p : Fin 8, p.val < 5 →
      let s0 := s.curArg p.val
      (∀ f s1, s.poolUsable p.val = true → s.poolReserve p.val < s.freeCount p.val → f < 2 ^ 36 →
        s0.takeFrame p.val { FrameRec.free with pool := 1, grant := true } = some (f, s1) →
        ∃ t, exec (.alloc p) s = .next t ∧ operationEnds t 0 (4096 * f) ∧
          t.frame f = { FrameRec.free with pool := 1, grant := true } ∧ ∀ g, g ≠ f → t.frame g = s.frame g) ∧
      (s.poolUsable p.val = false ∨ s.freeCount p.val ≤ s.poolReserve p.val →
        ∃ t, exec (.alloc p) s = .next t ∧ operationEnds t 1 0 ∧ t = { s with regs := t.regs })) ∧
    (∀ p : Fin 8, 5 ≤ p.val → ∃ t, exec (.alloc p) s = .next t ∧ operationEnds t 7 0 ∧ t = { s with regs := t.regs }) ∧
    (s.frameAt a.toNat = none → ∀ i ∈ [Instr.free a, .retireOperation k a, .query a],
      ∃ t, exec i s = .next t ∧ operationEnds t 7 0 ∧ t = { s with regs := t.regs }) ∧
    (∀ f, s.frameAt a.toNat = some f →
      ((s.frame f).grant = true → s.listed f = false →
        ∃ t, exec (.free a) s = .next t ∧ operationEnds t 0 0 ∧ t.frame f = FrameRec.free) ∧
      ((s.frame f).grant = false ∨ s.listed f = true →
        ∃ t, exec (.free a) s = .next t ∧ operationEnds t 2 0 ∧ t = { s with regs := t.regs }) ∧
      ((s.frame f).grant = true ∨ (s.frame f).pool = 0 →
        ∃ t, exec (.retireOperation k a) s = .next t ∧ operationEnds t 0 0 ∧ t.frame f = FrameRec.retired ∧
          ∀ g, g ≠ f → t.frame g = s.frame g) ∧
      ((s.frame f).grant = false → (s.frame f).pool ≠ 0 →
        ∃ t, exec (.retireOperation k a) s = .next t ∧ operationEnds t 3 0 ∧ t = { s with regs := t.regs }) ∧
      ∃ t, exec (.query a) s = .next t ∧ operationEnds t 0 (s.frame f).bits ∧ t = { s with regs := t.regs })

/-- R82, R83, R438: CUR_BOOK_SNAP latches the books of five pools, each with FREE, RESIDENT and INFLIGHT adding up to TOTAL; a read
of CUR_QREC answers and removes the oldest record. -/
def Sys2Proof.Claims.curatorReadsRule : Prop :=
  ∀ s : State, s.portsUp = true →
    (∃ t, exec .curBookSnap s = .next t ∧ t = { s with regs := t.regs } ∧ ∀ k, k < 5 →
      s.residentCount k + s.inflightCount k ≤ s.totalCount k →
      let o := curBase + 0x110 + 0x10 * k
      t.regN (o + 4) = s.residentCount k ∧ t.regN (o + 8) = s.inflightCount k ∧ t.regN (o + 12) = s.totalCount k ∧
      t.regN o + t.regN (o + 4) + t.regN (o + 8) = t.regN (o + 12)) ∧
    (∀ v l, s.quarFifo = v :: l → ∃ t, exec .quarantineRecordRead s = .next t ∧
      t = { s with quarFifo := l, answer := v.setWidth 64, dic := t.dic, keepers := t.keepers }) ∧
    (s.quarFifo = [] → exec .quarantineRecordRead s = .next { s with answer := 0 })

/-- R77, R78: an entry with users takes no write; word 1 is the list's address; STATE READY of an empty entry makes its list's
frames the title's where the check passes, and raises the operation-error source where it fails. -/
def Sys2Proof.Claims.titleRule : Prop :=
  ∀ (node : Byte) (n : BitVec 16) (s : State), s.power.mode ≠ .off →
    (∀ (k : Fin 2) (w : BitVec 64), s.titleUsers n.toNat ≠ [] → exec (.titleEntryWrite node n k (.whole w)) s = .next s) ∧
    (s.titleUsers n.toNat = [] →
      (∀ w : BitVec 64, ∃ t, exec (.titleEntryWrite node n 1 (.whole w)) s = .next t ∧ t = { s with titles := t.titles } ∧
        t.titleOf n = { s.titleOf n with list := w.setWidth 48 } ∧ ∀ m, m ≠ n → t.titleOf m = s.titleOf m) ∧
      (∀ w : BitVec 64, w.extractLsb' 62 2 = 1 →
        let x : Title := { s.titleOf n with state := 0, frames := [], cPages := w.extractLsb' 16 16, dPages := w.extractLsb' 0 16 }
        let z := (s.releaseTitle n).setTitle n x
        (∀ l, z.titleCheck x = some l → ∃ t, exec (.titleEntryWrite node n 0 (.whole w)) s = .next t ∧
          t.titleOf n = { x with state := 1, frames := l.map (BitVec.ofNat 25) } ∧ (∀ f ∈ l, (t.frame f).title = true) ∧
          t.mem = s.mem ∧ t.ctxs = s.ctxs) ∧
        (z.titleCheck x = none → ∃ t, exec (.titleEntryWrite node n 0 (.whole w)) s = .next t ∧ t.titleOf n = x ∧
          (s.power.hub = true → t.dic.pend.getLsbD 11 = true) ∧ t.mem = s.mem ∧ t.ctxs = s.ctxs)))

/-- R77, R78, R82, R83, R87, R438: the Curator's operations, books and title table. -/
def Obligations.CuratorOperations : Prop := curatorOperationsRule ∧ curatorReadsRule ∧ titleRule

/-! ### Clocks -/

/-- The clock changes, and with it only what the clock-status source may change. -/
def Sys2Proof.Claims.clockStep (i : Instr) (s : State) (p : Clock → Prop) : Prop :=
  ∃ t, exec i s = .next t ∧ t = { s with clock := t.clock, dic := t.dic, keepers := t.keepers } ∧ p t.clock

/-- R333, R334, R337, R341 to R344, R346: the root's lock, SET and STEP of the timebase, the phase and integral terms a phase error
gives, the frequency a window gives, holdover, and the latched read of the time. -/
def Obligations.ClockCommands : Prop :=
  ∀ s : State, s.power.mode ≠ .off →
    (s.clock.rootLock = false → clockStep .rootLock s (fun c => c = { s.clock with rootLock := true })) ∧
    (s.clock.rootLock = true → clockStep .rootLockLoss s (fun c => c = { s.clock with rootLock := false })) ∧
    (s.regN (clkBase + 0x58) < 1000000000 →
      let v := (s.regN (clkBase + 0x50) + 2 ^ 32 * s.regN (clkBase + 0x54)) * unitsPerSec + s.regN (clkBase + 0x58) * 65536
        + s.regN (clkBase + 0x5C)
      exec .ptpSet s = .next { s with clock := { s.clock with time := v } } ∧
      exec (.ptpStep false) s = .next { s with clock := { s.clock with time := (s.clock.time + v) % (2 ^ 48 * unitsPerSec) } } ∧
      (v ≤ 2 ^ 48 * unitsPerSec → exec (.ptpStep true) s = .next { s with clock := { s.clock with
        time := (s.clock.time + (2 ^ 48 * unitsPerSec - v)) % (2 ^ 48 * unitsPerSec) } })) ∧
    (1000000000 ≤ s.regN (clkBase + 0x58) → ∀ i ∈ [Instr.ptpSet, .ptpStep false, .ptpStep true],
      exec i s = .next { s with clock := { s.clock with adjBad := true } }) ∧
    (∀ e : Reg32, clockStep (.pherrWrite e) s (fun c => c.src = s.srcField ∧ c.time = s.clock.time ∧ c.holdPtp = false ∧ c.phAge = 0 ∧
      (s.srcField = 1 ∨ s.srcField = 2 →
        c.prop = (e.toInt * s.gainP).fdiv 65536 ∧
        c.integ = clampInt (-51200000) 51200000 (s.clock.integ + (e.toInt * s.gainI).fdiv 16777216) ∧
        c.trim = clampInt (-51200000) 51200000 ((if s.srcField = 2 then s.clock.freq else 0) + c.prop + c.integ)))) ∧
    (∀ v : BitVec 28, clockStep (.integratorWrite v) s (fun c => c.integ = v.toInt ∧ c.prop = s.clock.prop ∧
      c.time = s.clock.time ∧ (s.clock.src = 1 → c.trim = clampInt (-51200000) 51200000 (s.clock.prop + v.toInt)))) ∧
    (∀ f : BitVec 28, s.srcField = 2 ∨ s.srcField = 3 → s.seLink = true → -51200000 ≤ f.toInt → f.toInt ≤ 51200000 →
      clockStep (.synceWindow f) s (fun c => c.freq = f.toInt ∧ c.holdSynce = false ∧ c.src = s.srcField ∧
        c.windows = (f.toInt :: s.clock.windows).take 16 ∧ (s.srcField = 3 → c.trim = clampInt (-51200000) 51200000 f.toInt))) ∧
    (s.clock.src = 1 ∨ s.clock.src = 2 → s.clock.holdPtp = false → s.holdTo ≤ s.clock.phAge →
      clockStep .holdPtp s (fun c => c.holdPtp = true ∧ c.prop = 0 ∧ c.integ = s.clock.integ ∧ c.time = s.clock.time)) ∧
    (∃ t, exec .ptpTimeRead s = .next t ∧ t = { s with regs := t.regs, answer := BitVec.ofNat 64 (s.clock.secs % 2 ^ 32) } ∧
      t.regN (clkBase + 0x44) = s.clock.secs / 2 ^ 32 % 2 ^ 32 ∧ t.regN (clkBase + 0x48) = s.clock.nanos ∧
      t.regN (clkBase + 0x4C) = s.clock.frac)

/-! ### Keepers, claims, watchdogs and device interrupts -/

/-- A Keeper as it was, but for its DEVICE line and source, which follow the device interrupt controller. -/
def Sys2Proof.Claims.keeperKept (s t : State) (k : Fin 4) : Prop :=
  t.keeper k = { s.keeper k with lineWas := (t.keeper k).lineWas, int := (t.keeper k).int }

/-- R463: a write of KPR_RUN acts on the bits whose value it changes, and on no other Keeper. -/
def Obligations.KprRunActsOnChanges : Prop :=
  ∀ (node : Byte) (v : Reg32) (s : State),
    ∃ t, exec (.kprRunWrite node v) s = .next t ∧
      (∀ k : Fin 4, v.getLsbD k.val = (s.keeper k).running → keeperKept s t k) ∧
      (∀ k : Fin 4, k ≠ 0 → s.power.hub = true → s.power.mode ≠ .off → node = 0x80 →
        (t.keeper k).running = v.getLsbD k.val)

/-- R356: what the second stage of a watchdog does. -/
def Obligations.WatchdogResets : Prop :=
  ∀ (k : Fin 4) (s : State), s.wdExpired k = true →
    ∃ t, exec (.watchdog k) s = .next t ∧ (t.keeper k).running = false ∧
      (k ≠ 0 → t.power = s.power ∧ t.boot = s.boot) ∧
      (k = 0 → t.power.mode = .recovery ∧ t.boot.step = 4 ∧ t.boot.version = 0)

/-- R352, R355, R372 to R374, R376: reads and writes of a claim, a kick and the first stage of a watchdog, and the commands of the
device interrupt controller. -/
def Obligations.KeeperCommands : Prop :=
  ∀ s : State, s.power.mode ≠ .off →
    (∀ (k j : Fin 4) (c : Fin 64), let node : Byte := 0x80 + BitVec.ofNat 8 k.val
      (Sparse.get none s.claims c.val = none →
        ∃ t, exec (.claimRead node c) s = .next t ∧ t = { s with claims := t.claims, answer := BitVec.ofNat 64 (2 ^ 31 + k.val) } ∧
          Sparse.get none t.claims c.val = some k ∧
          ∀ n, n ≠ c.val → Sparse.get none t.claims n = Sparse.get none s.claims n) ∧
      (Sparse.get none s.claims c.val = some j → exec (.claimRead node c) s =
        .next { s with answer := BitVec.ofNat 64 ((if k = j then 2 ^ 31 else 0) + j.val) }) ∧
      (Sparse.get none s.claims c.val = some k → ∃ t, exec (.claimFree node c) s = .next t ∧ t = { s with claims := t.claims } ∧
        Sparse.get none t.claims c.val = none ∧
        ∀ n, n ≠ c.val → Sparse.get none t.claims n = Sparse.get none s.claims n) ∧
      (Sparse.get none s.claims c.val ≠ some k → exec (.claimFree node c) s = .next s)) ∧
    (∀ (node : Byte) (c : Fin 64), nodeKeeper node = none → ∃ t, exec (.claimRead node c) s = .next t ∧
      t = { s with answer := t.answer } ∧ t.answer.getLsbD 31 = false ∧ exec (.claimFree node c) s = .next s) ∧
    (∀ (k : Fin 4) (v : Word),
      (s.wdEn k = true → v = 0xA5C3#16 → ∃ t, exec (.watchdogKick k v) s = .next t ∧ t = { s with keepers := t.keepers } ∧
        t.keeper k = { s.keeper k with wdStage2 := false, wdLeft := s.wdFull k } ∧ ∀ j, j ≠ k → t.keeper j = s.keeper j) ∧
      (s.wdEn k = false ∨ v ≠ 0xA5C3#16 → exec (.watchdogKick k v) s = .next s)) ∧
    (∀ k : Fin 4, s.wdEn k = true → (s.keeper k).wdStage2 = false → (s.keeper k).wdLeft = 0 →
      ∃ t, exec (.watchdogWarn k) s = .next t ∧ (t.keeper k).wdStage2 = true ∧ (t.keeper k).wdLeft = s.wdFull k ∧
        (t.reg (wdAddr k 8)).getLsbD 31 = true ∧ (s.power.hub = true → t.dic.pend.getLsbD (20 + k.val) = true) ∧
        (∀ p : Cpu, t.cpu p = s.cpu p)) ∧
    (s.power.hub = true →
      (∀ n : Fin 8, (s.dicBest n.val = 0 → exec (.dicClaim n) s = .next { s with answer := 0 }) ∧
        (s.dicBest n.val ≠ 0 → let m := s.dicBest n.val
          m < 512 ∧ ∃ t, exec (.dicClaim n) s = .next t ∧ t.answer = BitVec.ofNat 64 m ∧ t.dic.pend.getLsbD m = false ∧
            t.dic.insvc.getLsbD m = true ∧ Sparse.get 0 t.dic.holder m = BitVec.ofNat 3 n.val ∧
            (∀ p : Cpu, t.cpu p = s.cpu p) ∧ t.mem = s.mem)) ∧
      (∀ (n : Fin 8) (m : BitVec 9),
        (s.dicHolds n.val m.toNat = true → ∃ t, exec (.dicComplete n m) s = .next t ∧ t.dic.insvc.getLsbD m.toNat = false ∧
          (s.dic.level.getLsbD m.toNat = true → t.dic.pend.getLsbD m.toNat = true) ∧ (∀ p : Cpu, t.cpu p = s.cpu p) ∧
          t.mem = s.mem) ∧
        (s.dicHolds n.val m.toNat = false → exec (.dicComplete n m) s = .next s)) ∧
      (∀ m : BitVec 9, m ≠ 0 →
        (s.isLevel m.toNat = false → ∃ t, exec (.dicSwset m) s = .next t ∧ t.dic.pend.getLsbD m.toNat = true ∧
          t = { s with dic := t.dic, keepers := t.keepers }) ∧
        (s.isLevel m.toNat = true → exec (.dicSwset m) s = .next s)) ∧
      (∀ g : Fin 64, s.groupDue g.val = true → ∃ t, exec (.groupFire g) s = .next t ∧
        t = { s with dic := t.dic, keepers := t.keepers } ∧ t.dic.pend = s.dic.pend ∧
        t.dic.released = s.dic.released ||| (s.dic.pend &&& s.groupMembers g.val) ∧
        Sparse.get 0 t.dic.gEvents g.val = 0 ∧ t.dic.gRunning.getLsbD g.val = false))

/-! ### The queue manager and the ports -/

/-- A 64-bit counter has risen. -/
def Sys2Proof.Claims.risen (s t : State) (a n : Nat) : Prop := t.cnt a = (s.cnt a + n) % 2 ^ 64

/-- Only the sub-port `p`, `m` differs among the sub-ports. -/
def Sys2Proof.Claims.otherSubs (s t : State) (p : Fin 2) (m : Fin 4) : Prop :=
  ∀ (p' : Fin 2) (m' : Fin 4), (p', m') ≠ (p, m) → t.sub p'.val m'.val = s.sub p'.val m'.val

/-- R316, R319, R328, R329: the credit a packet held returns at the end of its transmission; an XOFF and the XON after it send one
PFC frame for the priorities of TXEN; a priority's pause ends; a LINK bit that changes raises its port's source; ETH_PCTRL takes
MODE only with every EN bit 0, which clears the books. -/
def Sys2Proof.Claims.portsRule : Prop :=
  ∀ (p : Fin 2) (m : Fin 4) (s : State),
    let x := s.sub p.val m.val
    (∀ n l, x.held = n :: l → ∃ t, exec (.transmitEnd p m) s = .next t ∧ t = { s with subports := t.subports, cnt64 := t.cnt64 } ∧
      t.sub p.val m.val = { x with held := l } ∧ otherSubs s t p m ∧ risen s t (ethSub p.val m.val 0x80) 1 ∧
      risen s t (ethSub p.val m.val 0x88) (max 60 n + 4)) ∧
    (x.held = [] → exec (.transmitEnd p m) s = .next s) ∧
    (s.subUp p.val m.val = true →
      let txen : Byte := BitVec.ofNat 8 (field (s.regN (ethSub p.val m.val 8)) 8 8)
      ∃ t, exec (.xoff p m) s = .next t ∧ t = { s with subports := t.subports, cnt64 := t.cnt64, wire := t.wire } ∧
        t.sub p.val m.val = { x with xoff := true } ∧ otherSubs s t p m ∧
        t.wire = (if txen = 0 then [] else [.pfc p m txen 0xFFFF]) ++ s.wire) ∧
    (s.subUp p.val m.val = true → x.xoff = true →
      let txen : Byte := BitVec.ofNat 8 (field (s.regN (ethSub p.val m.val 8)) 8 8)
      ∃ t, exec (.xon p m) s = .next t ∧ t = { s with subports := t.subports, cnt64 := t.cnt64, wire := t.wire } ∧
        t.sub p.val m.val = { x with xoff := false } ∧ otherSubs s t p m ∧
        t.wire = (if txen = 0 then [] else [.pfc p m txen 0]) ++ s.wire) ∧
    (∀ prio : Fin 8, ∃ t, exec (.pfcPauseEnd p m prio) s = .next t ∧ t = { s with subports := t.subports } ∧ otherSubs s t p m ∧
      ∀ i : Fin 8, (t.sub p.val m.val).paused.getLsbD i.val = (decide (i ≠ prio) && x.paused.getLsbD i.val)) ∧
    (∀ up, s.subExists p.val m.val = true → x.link ≠ up →
      ∃ t, exec (.linkChange p m up) s = .next t ∧ t = { s with subports := t.subports, dic := t.dic, keepers := t.keepers } ∧
        t.sub p.val m.val = { x with link := up, align := up } ∧ otherSubs s t p m ∧
        (s.power.hub = true → t.dic.pend.getLsbD (13 + p.val) = true)) ∧
    (∀ v : Reg32, s.power.mode ≠ .off → s.serdes = true →
      let old := s.regN (ethAddr p.val 0)
      let new := v.toNat &&& 0xFB
      (field old 4 4 = 0 → new % 4 ≠ old % 4 → ∃ t, exec (.portControlWrite p v) s = .next t ∧
        t = { s with regs := t.regs, subports := t.subports } ∧ t.regN (ethAddr p.val 0) = new ∧
        ∀ n, n < 4 → t.sub p.val n = { s.sub p.val n with held := [] }) ∧
      (field old 4 4 ≠ 0 ∨ new % 4 = old % 4 → ∃ t, exec (.portControlWrite p v) s = .next t ∧
        t = { s with regs := t.regs } ∧ t.regN (ethAddr p.val 0) = new - new % 4 + old % 4)) ∧
    (∀ v : Reg32, s.power.mode ≠ .off → s.serdes = false →
      (p = 0 → let new := v.toNat &&& 0xFB
        ∃ t, exec (.portControlWrite p v) s = .next t ∧ t = { s with regs := t.regs } ∧
          t.regN (ethAddr p.val 0) = new - new % 4 + 2) ∧
      (p ≠ 0 → exec (.portControlWrite p v) s = .next s))

/-- R322, R323, R325, R328: reads and writes of the flow table, the wake FIFO, a control push, and the credit books. -/
def Sys2Proof.Claims.registersOfQueuesRule : Prop :=
  ∀ s : State,
    (s.power.hub = true → ∃ t, exec .qmBookSnap s = .next t ∧ t = { s with regs := t.regs } ∧ ∀ p m, p < 2 → m < 4 →
      s.creditHeld p m ≤ s.creditTotal p m →
      let a := qmBase + 0x10 + 0x10 * (4 * p + m)
      t.regN (a + 4) = s.creditHeld p m ∧ t.regN (a + 8) = s.creditTotal p m ∧ t.regN a + t.regN (a + 4) = t.regN (a + 8)) ∧
    (s.power.hub = true →
      let k := s.regN (qmBase + 0x200)
      let len := s.regN (qmBase + 0x20C)
      let held := (s.slot k).ctx.isSome && !(s.slot k).upper
      ∃ t, exec .controlPush s = .next t ∧ t = { s with regs := t.regs, slots := t.slots } ∧
        (∀ j, j ≠ k → t.slot j = s.slot j) ∧
        (len = 0 ∨ 8960 < len → t.regN (qmBase + 0x214) = 7 ∧ t.slots = s.slots) ∧
        (1 ≤ len → len ≤ 8960 →
          (held = false → t.regN (qmBase + 0x214) = 2 ∧ t.slots = s.slots) ∧
          (held = true → 16 ≤ (s.slot k).controlQ.length → t.regN (qmBase + 0x214) = 1 ∧ t.slots = s.slots) ∧
          (held = true → (s.slot k).controlQ.length < 16 → t.regN (qmBase + 0x214) = 0 ∧
            t.slot k = { s.slot k with controlQ := (s.slot k).controlQ ++
              [{ buf := BitVec.ofNat 48 (s.regN (qmBase + 0x204) + 2 ^ 32 * s.regN (qmBase + 0x208)), len := len,
                 pushed := s.clock.time, flow := s.flowEntry (s.slotCtx k) }] }))) ∧
    (s.power.mode ≠ .off →
      let c : CtxNo := BitVec.ofNat 18 (s.regN (clsBase + 0x10))
      (∃ t, exec .flowRead s = .next t ∧ t = { s with regs := t.regs } ∧ t.regN (clsBase + 0x18) = 0 ∧
        ∀ i, i < 10 → t.regN (clsBase + 0x20 + 4 * i) = flowWord (s.flowEntry c) i) ∧
      (∃ t, exec .flowWrite s = .next t ∧ t = { s with regs := t.regs, flows := t.flows, slots := t.slots } ∧
        t.regN (clsBase + 0x18) = s.flowCheck c.toNat s.flowData ∧ (∀ c', c' ≠ c → t.flowEntry c' = s.flowEntry c') ∧
        (s.flowCheck c.toNat s.flowData ≠ 0 → t = { s with regs := t.regs }) ∧
        (s.flowCheck c.toNat s.flowData = 0 →
          (∀ i, i < 10 → flowWord (t.flowEntry c) i = s.regN (clsBase + 0x20 + 4 * i) &&& flowMasks.getD i 0) ∧
          ∀ k, s.admitted c = true → s.heldSlot c = some k → (t.slot k).flowNew = some (flowStored s.flowData))) ∧
      (∀ v l, s.wakeFifo = v :: l → ∃ t, exec .wakeRead s = .next t ∧
        t = { s with wakeFifo := l, answer := v.setWidth 64, dic := t.dic, keepers := t.keepers } ∧
        t.dic.level.getLsbD 12 = !l.isEmpty) ∧
      (s.wakeFifo = [] → exec .wakeRead s = .next { s with answer := 0 }))

/-- HD's agents reach `n` bytes from an address, and the frames there are no page of a context or a title and have no copy. -/
def Sys2Proof.Claims.plainBytes (s : State) (a n : Nat) : Prop :=
  ∀ i, i < n → s.reaches 2 (a + i) = true ∧ let f := (a + i) / 4096
    s.copyOn 0 f = none ∧ s.copyOn 1 f = none ∧ (s.frame f).copy = none ∧ (s.frame f).home = none ∧ s.statePage f = none ∧
    s.image f = none ∧ ∀ c o, s.linesOf c f o = []

/-- The transmit descriptor at the head has gone back to the program with `len` and, where it asked for one, the timestamp `at'`, and
the head has moved (R330). -/
def Sys2Proof.Claims.transmitReturned (s t : State) (len : Nat) (at' : Option Clock) : Prop :=
  let a := s.ringDesc 0x410
  t.word64 (a + 8) = s.word64 (a + 8) % 2 ^ 48 + 2 ^ 48 * len ∧ t.word64 a = s.word64 a % 2 ^ 63 ∧
  t.regN (clsBase + 0x41C) = (s.regN (clsBase + 0x41C) + 1) % ringLen (s.regN (clsBase + 0x418)) ∧ t.ktxReady = none ∧
  (∀ c, at' = some c → s.ktxFlags.testBit 0 = true →
    t.word64 (a + 16) = c.secs % 2 ^ 64 ∧ t.word64 (a + 24) = c.nanos * 2 ^ 32 + c.frac * 2 ^ 16) ∧
  (s.power.hub = true → t.dic.pend.getLsbD 16 = true) ∧ t.ctxs = s.ctxs ∧ t.slots = s.slots

/-- R330: an owned head of the transmit ring is found once; a frame of a bad length goes back with LEN 0, and one that is next on
its sub-port, which is up and has the credits, leaves. -/
def Sys2Proof.Claims.transmitRingRule : Prop :=
  ∀ s : State,
    (s.ringOwned 0x410 = true → s.ktxReady = none → exec .transmitRingPoll s = .next { s with ktxReady := some s.clock.time }) ∧
    (s.ringOwned 0x410 = false ∨ s.ktxReady ≠ none → exec .transmitRingPoll s = .next s) ∧
    (∀ at', s.ringOwned 0x410 = true → s.ktxReady = some at' → s.bad = [] → plainBytes s (s.ringDesc 0x410) 32 →
      (s.ktxLen < 60 ∨ 4096 < s.ktxLen → ∃ t, exec .keeperTransmit s = .next t ∧ t.wire = s.wire ∧ transmitReturned s t 0 none) ∧
      (∀ e, 60 ≤ s.ktxLen → s.ktxLen ≤ 4096 → s.chooseNext s.ktxPort s.ktxSub = some e → e.item = .keeper →
        s.subUp s.ktxPort s.ktxSub = true → s.fits s.ktxPort s.ktxSub s.ktxFrame = true →
        ∃ t, exec .keeperTransmit s = .next t ∧ transmitReturned s t s.ktxLen (some s.stampClock) ∧
          t.wire = .frame (Fin.ofNat 2 s.ktxPort) (Fin.ofNat 4 s.ktxSub) s.stamp (padFrame s.ktxFrame) :: s.wire ∧
          (t.sub s.ktxPort s.ktxSub).held = (s.sub s.ktxPort s.ktxSub).held ++ [(padFrame s.ktxFrame).length]))

/-- R316, R319, R322, R323, R325, R328 to R330: the ports, the flow table, control pushes, books, the wake FIFO and the Keeper
transmit ring. -/
def Obligations.QueueManagerCommands : Prop := portsRule ∧ registersOfQueuesRule ∧ transmitRingRule

/-- The class a frame that is no IP packet has for the Keeper program (R319). -/
def Sys2Proof.Claims.frameClass (f : RxFrame) : Option Nat :=
  if f.etype = 0x8808 ∨ f.etype = 0x0800 ∧ f.svlan = false ∧ f.tags ≤ 1 ∨ f.etype = 0x86DD ∧ f.svlan = false ∧ f.tags ≤ 1 then none
  else if f.svlan = true ∨ 1 < f.tags then some 7
  else if f.etype = 0x88F7 then some 6
  else if f.etype = 0x0806 then some 1
  else some 8

/-- The frame stands in the receive ring: its bytes in the buffer, but for those the descriptor itself overlays; its class, length
and arrival in the descriptor; and no other byte has changed (R330). -/
def Sys2Proof.Claims.delivered (s t : State) (cls : Nat) (p : Fin 2) (m : Fin 4) (l : List Byte) : Prop :=
  let a := s.ringDesc 0x400
  let buf := field (s.word64 a) 0 48
  (∀ i, i < l.length → buf + i < a ∨ a + 32 ≤ buf + i → memByte t.mem (buf + i) = l.getD i 0) ∧
  t.word64 a = cls * 2 ^ 48 + buf ∧ t.word64 (a + 8) = l.length * 2 ^ 48 + p.val * 2 ^ 44 + m.val * 2 ^ 42 ∧
  (∃ at', at' ≤ s.clock.time + 131072 ∧ s.clock.time ≤ at' + 131072 ∧ let c : Clock := { s.clock with time := at' }
    t.word64 (a + 16) = c.secs % 2 ^ 64 ∧ t.word64 (a + 24) = c.nanos * 2 ^ 32 + c.frac * 2 ^ 16) ∧
  (∀ x, x < buf ∨ buf + l.length ≤ x → x < a ∨ a + 32 ≤ x → memByte t.mem x = memByte s.mem x) ∧
  t.regN (clsBase + 0x40C) = (s.regN (clsBase + 0x40C) + 1) % ringLen (s.regN (clsBase + 0x408)) ∧
  (s.power.hub = true → t.dic.pend.getLsbD 15 = true)

/-- A received frame as the counters of a sub-port see it; its timestamp is a free count's (R318, R339). -/
def Sys2Proof.Claims.received (s : State) (p : Fin 2) (m : Fin 4) (l : List Byte) : State :=
  ((s.addCnt (ethSub p.val m.val 0x40) 1).addCnt (ethSub p.val m.val 0x48) (l.length + 4)).spend

/-- R314, R315, R318 to R320, R329, R330: where the receive buffer has room (after an XOFF it may not, and the frame is counted and
lost), a frame of a bad FCS or length is counted and dropped, as one for another address is; a PFC
frame pauses the enabled priorities; a frame for the program goes to its ring, or is counted where the ring gives no descriptor; a
datagram of a flow entry goes to its context as INPUT, FEEDBACK or REFRESH do, and counts as a hit. -/
def Obligations.FrameClasses : Prop :=
  ∀ (p : Fin 2) (m : Fin 4) (l : List Byte) (s : State), s.subUp p.val m.val = true →
    (∀ fcsOk, ∃ t, exec (.frameReceive p m fcsOk l) s = .next t ∧ (s.bufferFull p.val m.val = true →
      t = { s with cnt64 := t.cnt64, fresh := t.fresh } ∧ risen s t (ethSub p.val m.val 0x68) 1)) ∧
    (s.bufferFull p.val m.val = false →
    (60 ≤ l.length → l.length ≤ 9212 → ∃ t, exec (.frameReceive p m false l) s = .next t ∧ t = { s with cnt64 := t.cnt64 } ∧
      risen s t (ethSub p.val m.val 0x50) 1) ∧
    (l.length < 60 ∨ 9212 < l.length → ∃ t, exec (.frameReceive p m true l) s = .next t ∧ t = { s with cnt64 := t.cnt64 } ∧
      risen s t (ethSub p.val m.val 0x58) 1) ∧
    (60 ≤ l.length → l.length ≤ 9212 →
      let f := parseFrame l
      let pay := l.drop f.off
      (s.macAccept p.val m.val l = false → ∃ t, exec (.frameReceive p m true l) s = .next t ∧ t = { s with cnt64 := t.cnt64, fresh := t.fresh } ∧
        risen s t (ethSub p.val m.val 0x40) 1 ∧ risen s t (ethSub p.val m.val 0x48) (l.length + 4) ∧
        risen s t (ethSub p.val m.val 0x60) 1) ∧
      (s.macAccept p.val m.val l = true → f.etype = 0x8808 → be16 pay 0 = 0x0101 →
        ∃ t, exec (.frameReceive p m true l) s = .next t ∧ t = { s with cnt64 := t.cnt64, fresh := t.fresh, subports := t.subports } ∧
          otherSubs s t p m ∧ ∀ i : Fin 8, (t.sub p.val m.val).paused.getLsbD i.val =
            if (field (s.regN (ethSub p.val m.val 8)) 0 8).testBit i.val && (be16 pay 2).testBit i.val then
              decide (be16 pay (4 + 2 * i.val) ≠ 0)
            else (s.sub p.val m.val).paused.getLsbD i.val) ∧
      (∀ cls, s.macAccept p.val m.val l = true → frameClass f = some cls →
        (l.length ≤ 4096 → s.ringOwned 0x400 = true → plainBytes s (s.ringDesc 0x400) 32 →
          plainBytes s (field (s.word64 (s.ringDesc 0x400)) 0 48) l.length →
          ∃ t, exec (.frameReceive p m true l) s = .next t ∧ delivered s t cls p m l ∧ t.ctxs = s.ctxs ∧ t.slots = s.slots) ∧
        (l.length ≤ 4096 → s.ringOn 0x400 = false ∨ plainBytes s (s.ringDesc 0x400) 32 ∧ s.ringOwned 0x400 = false → ∃ t, exec (.frameReceive p m true l) s = .next t ∧
          t = { s with cnt64 := t.cnt64, fresh := t.fresh, regs := t.regs } ∧
          t.regN (clsBase + 0x50C) = min 0xFFFFFFFF (s.regN (clsBase + 0x50C) + 1)) ∧
        (4096 < l.length → ∃ t, exec (.frameReceive p m true l) s = .next t ∧ t = { s with cnt64 := t.cnt64, fresh := t.fresh } ∧
          risen s t (ethSub p.val m.val 0x58) 1)) ∧
      (∀ ip lip e, s.macAccept p.val m.val l = true → f.svlan = false → f.tags ≤ 1 →
        (f.etype = 0x0800 ∧ parseIp4 pay = some ip ∨ f.etype = 0x86DD ∧ parseIp6 pay = ip) →
        s.lipMatch p.val ip = some lip → ip.proto = 17 → ip.options = false → ip.fragment = false → ip.multi = false →
        udpOk ip = true → be16 ip.l4 2 ≠ 319 → be16 ip.l4 2 ≠ 320 → be16 ip.l4 2 ≠ s.regN clsBase →
        s.flows.find? (fun e => s.flowMatches lip f.vid ip e.2) = some e →
        let z : State := { received s p m l with
          flows := Sparse.set [] s.flows e.1 (e.2.set 9 (BitVec.ofNat 32 (flowWord e.2 9 + 1))) }
        let d := (ip.l4.take (be16 ip.l4 4)).drop 8
        let c : CtxNo := BitVec.ofNat 18 e.1
        (pktType d = 8 → exec (.frameReceive p m true l) s = exec (.input c d) z) ∧
        (pktType d = 9 → exec (.frameReceive p m true l) s = exec (.feedback c d) z) ∧
        (pktType d = 10 → exec (.frameReceive p m true l) s = exec (.refresh c d) z))))

/-! ### Modes and power -/

/-- The requests that go straight to their mode (R408). -/
def Sys2Proof.Claims.directRequests : List (Mode × Mode) :=
  [(.attended, .serving), (.attended, .diagnostic), (.attended, .plinthTest), (.draining, .serving), (.diagnostic, .attended),
    (.plinthTest, .attended)]

/-- What a direct request asks beside: a Raster die that is up for SERVING from ATTENDED, a PRESENT site for PLINTH_TEST. -/
def Sys2Proof.Claims.requestMet (s : State) (m : Mode) : Prop :=
  (s.power.mode = .attended → m = .serving → s.power.dieUp 0 = true ∨ s.power.dieUp 1 = true) ∧
  (m = .plinthTest → s.plinth.present = true)

/-- The modes a request may name from each mode (R408). -/
def Sys2Proof.Claims.requestsOf : Mode → List Mode
  | .bedrock => [.recovery]
  | .attended => [.serving, .quiescent, .dormant, .diagnostic, .plinthTest, .recovery]
  | .serving => [.draining, .attended, .quiescent, .dormant]
  | .draining => [.serving, .attended, .quiescent, .dormant]
  | .quiescent => [.attended, .serving, .recovery]
  | .diagnostic => [.attended, .recovery]
  | .plinthTest => [.attended]
  | _ => []

/-- The request leaves `result` in PWR_RESULT, and changes no unit but the sequencer, the interrupt controller and the site. -/
def Sys2Proof.Claims.requestEnds (v : Reg32) (s : State) (result : Byte) (p : State → Prop) : Prop :=
  ∃ t, exec (.powerRequest 0x80 v) s = .next t ∧ t.power.result = result ∧ t.power.target = BitVec.ofNat 4 v.toNat ∧
    t = { s with power := t.power, dic := t.dic, keepers := t.keepers, plinth := t.plinth } ∧ t.power.on = s.power.on ∧ p t

/-- R408: the table of requests. -/
def Sys2Proof.Claims.requestsRule : Prop :=
  ∀ (v : Reg32) (s : State), s.power.mode ≠ .off → s.power.mode ≠ .dormant →
    (∀ node : Byte, node ≠ 0x80 → exec (.powerRequest node v) s = .next s) ∧
    (s.power.transit = true → requestEnds v s 4 (fun t => t.power.mode = s.power.mode ∧ t.power.transit = true)) ∧
    (s.power.transit = false →
      ((∀ m, Mode.ofCode (v.toNat % 16) = some m → m ∉ requestsOf s.power.mode) →
        requestEnds v s 5 (fun t => t.power.mode = s.power.mode ∧ t.power.transit = false)) ∧
      ∀ m, Mode.ofCode (v.toNat % 16) = some m →
        ((s.power.mode, m) ∈ directRequests → requestMet s m →
          requestEnds v s 0 (fun t => t.power.mode = m ∧ t.power.cause = 0 ∧ t.power.transit = false ∧
            (s.power.hub = true → t.dic.pend.getLsbD 64 = true ∧ t.dic.pend.getLsbD 75 = true))) ∧
        ((s.power.mode, m) ∈ directRequests → ¬ requestMet s m →
          requestEnds v s 5 (fun t => t.power.mode = s.power.mode)) ∧
        (s.power.mode = .attended → m = .quiescent ∨ m = .dormant →
          (s.anySlot = true → requestEnds v s 0xA (fun t => t.power.mode = .attended ∧ t.power.transit = false)) ∧
          (s.anySlot = false → requestEnds v s 0 (fun t => t.power.mode = .attended ∧ t.power.transit = true ∧ t.power.goal = m))) ∧
        (s.power.mode = .serving → m ∈ requestsOf .serving →
          requestEnds v s 0 (fun t => t.power.mode = .draining ∧ t.power.cause = 0 ∧ t.power.after =
            if m = .draining then (if field v.toNat 8 4 = 6 then .quiescent else if field v.toNat 8 4 = 7 then .dormant else .attended)
            else m)) ∧
        (s.power.mode = .draining → m ∈ [.attended, .quiescent, .dormant] →
          requestEnds v s 0 (fun t => t.power.mode = .draining ∧ t.power.after = m)) ∧
        (s.power.mode = .quiescent → m = .attended ∨ m = .serving →
          requestEnds v s 0 (fun t => t.power.mode = .ascent ∧ t.power.warm = true ∧ t.power.transit = true ∧ t.power.goal = m)) ∧
        (m = .recovery → m ∈ requestsOf s.power.mode →
          ∃ t, exec (.powerRequest 0x80 v) s = .next t ∧ t.power.mode = .recovery ∧ t.power.cause = 0 ∧ t.power.result = 0 ∧
            t.ctxs = [] ∧ t.slots = [] ∧ t.power.on = 0))

/-- R408 to R410, R412, R415, R416: a step of ASCENT powers its domain, and after the last the device arrives; a step that fails sets its
PWR_FAIL bit, and stops ASCENT, or takes its die, as a domain does that fails while it is powered down; a descent arrives in its mode with the dies and hub main down; DRAINING goes on
once no slot is held; PWR_DIE is refused, or taken, or begins a change. -/
def Sys2Proof.Claims.transitionsRule : Prop :=
  ∀ s : State,
    (∀ k, s.ascending = true → s.nextStep = some k →
      (∃ t, exec .ascentStep s = .next t ∧ t.power.on = s.power.on ||| (1#64 <<< k) ∧ t.power.lastStep = BitVec.ofNat 8 k ∧
        t.power.fail = s.power.fail ∧ t.ctxs = s.ctxs ∧
        ((∃ j, j ≠ k ∧ 1 ≤ j ∧ j ≤ 52 ∧ s.stepWanted j = true) → t.power.mode = s.power.mode ∧ t.power.transit = true) ∧
        (s.power.mode = .ascent → (∀ j, j ≠ k → 1 ≤ j → j ≤ 52 → s.stepWanted j = false) → t.power.transit = false ∧
          t.power.mode = if s.power.goal = .serving ∧ (t.power.dieUp 0 = true ∨ t.power.dieUp 1 = true) then .serving
            else .attended)) ∧
      ∀ cause step, ∃ t, exec (.stepFail ⟨cause, step⟩) s = .next t ∧ t.power.fail = s.power.fail ||| (1#10 <<< failBit k) ∧
        (k = 1 → t.power.mode = .recovery ∧ t.power.cause = 7) ∧
        (∀ d, stepDie k = some d → t.power.dieFailed = s.power.dieFailed ||| (1#2 <<< d) ∧ t.power.on &&& dieMask d = 0)) ∧
    (∀ cause step : Byte, let k := step.toNat
      s.power.transit = true → s.power.mode ≠ .ascent → s.ascending = false → 1 ≤ k → k ≤ 52 → s.power.stepOn k = true →
      ∃ t, exec (.stepFail ⟨cause, step⟩) s = .next t ∧ t.power.mode = s.power.mode ∧ t.power.transit = true ∧
        t.power.fail = s.power.fail ||| (1#10 <<< failBit k) ∧ t.power.stepOn k = false ∧
        (∀ d, stepDie k = some d → t.power.dieFailed = s.power.dieFailed ||| (1#2 <<< d) ∧ t.power.on &&& dieMask d = 0)) ∧
    (s.power.transit = true → s.power.mode ≠ .ascent → s.power.dieGoal = none → s.power.heldWake = false →
      ∃ t, exec .descent s = .next t ∧ t.power.mode = s.power.goal ∧ t.power.transit = false ∧ t.power.cause = 0 ∧
        t.power.hub = false ∧ (∀ d, d < 2 → t.power.dieUp d = false)) ∧
    (s.power.transit = true → s.power.mode ≠ .ascent → s.power.dieGoal.isSome = true → s.power.dieUnavail ≠ 0 →
      ∃ t, exec .descent s = .next t ∧ t.power.mode = s.power.mode ∧
        ∀ d, d < 2 → s.power.dieUnavail.getLsbD d = true → t.power.dieUp d = false) ∧
    (s.power.mode = .draining → s.power.transit = false → s.anySlot = false →
      (s.power.after = .attended → ∃ t, exec .drainEnd s = .next t ∧ t.power.mode = .attended ∧
        t = { s with power := t.power, dic := t.dic, keepers := t.keepers, plinth := t.plinth }) ∧
      (s.power.after ≠ .attended → exec .drainEnd s =
        .next { s with power := { s.power with transit := true, goal := s.power.after } })) ∧
    (∀ v : Reg32, s.power.mode ≠ .off → s.power.mode ≠ .dormant →
      let new : BitVec 2 := v.setWidth 2
      let downs := s.power.dieEn &&& ~~~new
      let busy := downs.getLsbD 0 = true ∧ s.dieBusy 0 = true ∨ downs.getLsbD 1 = true ∧ s.dieBusy 1 = true
      (s.power.transit = true → exec (.pwrDieWrite 0x80 v) s = .next { s with power := { s.power with result := 4 } }) ∧
      (s.power.transit = false → s.power.mode.dies = false → exec (.pwrDieWrite 0x80 v) s =
        .next { s with power := { s.power with dieEn := new } }) ∧
      (s.power.transit = false → s.power.mode.dies = true → new ≠ s.power.dieEn → busy →
        exec (.pwrDieWrite 0x80 v) s = .next { s with power := { s.power with result := 0xA } }) ∧
      (s.power.transit = false → s.power.mode.dies = true → downs ≠ 0 → ¬ busy →
        exec (.pwrDieWrite 0x80 v) s = .next { s with power := { s.power with
          dieEn := new, transit := true, dieGoal := some new, dieUnavail := downs } }))

/-- A warm ASCENT has begun, with its cause and where it leads (R414). -/
def Sys2Proof.Claims.woken (s t : State) (cause : Byte) : Prop :=
  t.power.mode = .ascent ∧ t.power.cause = cause ∧ t.power.warm = true ∧ t.power.transit = true ∧ t.power.goal = .attended ∧
  t.power.on = s.power.on ∧ t.ctxs = s.ctxs ∧ t.mem = s.mem

/-- R414, R453: what wakes the device. -/
def Sys2Proof.Claims.wakesRule : Prop :=
  ∀ s : State,
    (s.power.mode = .dormant → (s.regN (pwrBase + 0x10)).testBit 0 = true → s.regN (pwrBase + 0x14) ≤ s.clock.secs % 2 ^ 32 →
      ∃ t, exec .wakeTimer s = .next t ∧ woken s t 0x0B) ∧
    (∀ pin : Fin 16, s.wakeLevel pin.val = true →
      (s.power.mode = .quiescent → s.power.transit = false → ∃ t, exec (.wakePin pin) s = .next t ∧ woken s t 0x0A) ∧
      (s.power.mode = .dormant → (s.regN (pwrBase + 0x10)).testBit 1 = true →
        ∃ t, exec (.wakePin pin) s = .next t ∧ woken s t 0x0A) ∧
      (s.power.mode = .attended → s.power.transit = true → s.power.goal = .quiescent ∨
        s.power.goal = .dormant ∧ (s.regN (pwrBase + 0x10)).testBit 1 = true →
        exec (.wakePin pin) s = .next { s with power := { s.power with heldWake := true } }))

/-- A device reset: BEDROCK with its cause, every context, title and flow entry and all memory lost, and RRAM's images kept; the
queue and what left the device before are the model's own (R417). -/
def Sys2Proof.Claims.deviceResetDone (s t : State) (cause : Byte) : Prop :=
  t.power.mode = .bedrock ∧ t.power.cause = cause ∧ t.power.on = 0 ∧ t.ctxs = [] ∧ t.titles = [] ∧ t.flows = [] ∧ t.mem = [] ∧
  t.regs = [] ∧ t.slots = [] ∧ t.frames = [] ∧ t.clock.rootLock = false ∧ t.boot.step = 0 ∧ t.rram.imageA = s.rram.imageA ∧
  t.rram.imageB = s.rram.imageB ∧ t.rram.nvQueue = [] ∧ t.pending = s.pending ∧ t.wire = s.wire

/-- R408, R417 to R419, R437, R445, R460: resets and the supply, sealing, and the thermal levels. -/
def Sys2Proof.Claims.resetsRule : Prop :=
  ∀ s : State,
    (s.power.mode ≠ .off → (∃ t, exec (.pwrSwreset 0x80 0xD5A7) s = .next t ∧ deviceResetDone s t 3) ∧
      (∀ (node : Byte) (key : Word), node ≠ 0x80 ∨ key ≠ 0xD5A7 → exec (.pwrSwreset node key) s = .next s)) ∧
    (s.power.mode ≠ .off → s.scanned = false → ∃ t, exec .resetN s = .next t ∧ deviceResetDone s t 2) ∧
    (s.power.mode = .off → ∃ t, exec .supplyOn s = .next t ∧ deviceResetDone s t 1) ∧
    (s.power.mode ≠ .off → exec .supplyOn s = .next s ∧ ∃ t, exec .supplyLoss s = .next t ∧ t.power.mode = .off ∧
      t.power.on = 0 ∧ t.ctxs = [] ∧ t.mem = [] ∧ t.rram.imageA = s.rram.imageA ∧ t.rram.imageB = s.rram.imageB) ∧
    (∀ mv : Word, s.power.mode ≠ .off →
      (10800 ≤ mv.toNat → mv.toNat < 11500 → ∃ t, exec (.supplyLow mv) s = .next t ∧ t.power.vin = mv ∧
        t.power.supplyLow = true ∧ t.power.mode = s.power.mode ∧ t.ctxs = s.ctxs ∧
        (s.power.supplyLow = false → t.dic.level.getLsbD 66 = true)) ∧
      (11500 ≤ mv.toNat → ∃ t, exec (.supplyLowEnd mv) s = .next t ∧ t.power = { s.power with vin := mv, supplyLow := false } ∧
        t.dic.level.getLsbD 66 = false ∧ t = { s with power := t.power, dic := t.dic, keepers := t.keepers })) ∧
    (∀ cause : Byte, 1 ≤ cause.toNat → cause.toNat ≤ 3 →
      (s.power.mode ≠ .off → s.power.mode ≠ .sealed → ∃ t, exec (.sealDevice cause) s = .next t ∧ t.power.mode = .sealed ∧
        t.power.cause = 9 ∧ t.power.on = 0 ∧ t.ctxs = [] ∧ t.slots = []) ∧
      (s.power.mode = .off ∨ s.power.mode = .sealed → exec (.sealDevice cause) s = .next s)) ∧
    (∀ (rd0 rd1 hd : BitVec 10) (ps : BitVec 2), s.power.mode ≠ .off →
      (rd0.toNat < 620 → rd1.toNat < 620 → hd.toNat < 620 → ps ≠ 3 →
        ∃ t, exec (.temperatureRead rd0 rd1 hd ps) s = .next t ∧ t.power.mode = s.power.mode ∧ t.ctxs = s.ctxs ∧ t.mem = s.mem ∧
          (∀ i : Fin 3, let v := if s.tempOn i = true then [rd0, rd1, hd].getD i.val 0 else 0
            t.power.temp[i.val] = v ∧ t.power.hot[i.val] = 0 ∧ (580 ≤ v.toNat → t.power.level[i.val] = 2) ∧
            (540 ≤ v.toNat → v.toNat ≤ 568 → t.power.level[i.val] = 1) ∧ (v.toNat ≤ 528 → t.power.level[i.val] = 0)) ∧
          t.dic.level.getLsbD 68 = decide (∃ i : Fin 3, 2 ≤ (t.power.level[i.val]).toNat) ∧
          t.plinth.therm = if s.isP && s.plinth.pwrGood then ps else 0) ∧
      (620 ≤ hd.toNat → 2 ≤ s.power.hot[2] → s.power.mode ≠ .sealed →
        ∃ t, exec (.temperatureRead rd0 rd1 hd ps) s = .next t ∧ t.power.mode = .sealed ∧ t.power.cause = 8))

/-- R408 to R410, R412, R414 to R419, R437, R453: the power sequencer. -/
def Obligations.PowerCommands : Prop := requestsRule ∧ transitionsRule ∧ wakesRule ∧ resetsRule

/-! ### The boot ROM and the Dreug Control Protocol -/

/-- R358, R361, R408, R454: the boot ROM counts the boot; a strap keeps it in RECOVERY, and so do two images that are not valid; else it
chooses the image NVR_BOOTSEL names, or the other, and goes on where the strap lets it. -/
def Sys2Proof.Claims.bootStartsRule : Prop :=
  ∀ s : State, s.power.mode = .bedrock → s.clock.rootLock = true → s.boot.step = 0 → s.periph.strapped = true →
    s.rram.nvQueue.length ≤ 16 →
    let first := (s.nv 0x32).getLsbD 0
    ∃ t, exec .bootRomStart s = .next t ∧ t.nvN nvrBootcnt = (s.nvN nvrBootcnt + 1) % 2 ^ 32 ∧
      (s.periph.straps.getLsbD 0 = true → t.power.mode = .recovery ∧ t.power.cause = 5) ∧
      (s.periph.straps.getLsbD 0 = false →
        (s.imgReason first ≠ 0 → s.imgReason (!first) ≠ 0 → t.power.mode = .recovery ∧ t.power.cause = 6) ∧
        (s.imgReason first = 0 ∨ s.imgReason (!first) = 0 → t.boot.slotB = (if s.imgReason first = 0 then first else !first) ∧
          (s.periph.straps.getLsbD 1 = false → t.power.mode = .bedrock ∧ t.boot.step = 5) ∧
          (s.periph.straps.getLsbD 1 = true → t.power.mode = .ascent ∧ t.power.transit = true ∧ t.power.warm = false)))

/-- The boot ROM serves alone, and the message's datagram reaches the DCP port (R319, R363, R364). -/
def Sys2Proof.Claims.serviceOpen (s : State) (m : DcpMsg) : Prop := s.romServes = true ∧ s.dcpArrives m.path = true

/-- Keeper `k` stands at DCP_SERVE with the message's frame, whose datagram is `d`, in the buffer it names (R369). -/
def Sys2Proof.Claims.serveCalled (s : State) (k : Fin 4) (m : DcpMsg) (d : Datagram) : Prop :=
  let u := (s.keeper k).cpu
  s.romServes = false ∧ s.romCaller 0 = some k ∧ u.w[3].toNat ≤ 4096 ∧ s.romBuffer u.callBuffer = true ∧
  frameUdp (s.agentBytes 2 u.callBuffer u.w[3].toNat) = some d ∧ d.payload = dcpBytes m ∧ d.v6 = m.path.v6 ∧ d.src = m.path.src ∧
  d.dst = m.path.dst ∧ d.sport = m.path.sport.toNat ∧ d.dport = m.path.dport.toNat

/-- The service, become `z`, answers the message with `r`: the boot ROM sends it, or the call returns 0 with the reply's frame in its
buffer, unless what the command did has taken the Keeper's call away. -/
def Sys2Proof.Claims.answers (i : DcpMsg → Instr) (m : DcpMsg) (s z : State) (r : DcpMsg) : Prop :=
  (serviceOpen s m → exec (i m) s = .next (z.send (.dcp r))) ∧
  ∀ k d, serveCalled s k m d → Sparse.get none s.claims 3 = none →
    let u := (s.keeper k).cpu
    exec (i m) s = .next (if z.romServes = true then z.send (.dcp r)
      else if (z.keeper k).running = true then z.romFrame k 0 [none, none] u.callBuffer
        (replyFrame z.fresh (s.agentBytes 2 u.callBuffer u.w[3].toNat) d (dcpBytes r))
      else z)

/-- The service, become `z`, discards the message: a call returns 2. -/
def Sys2Proof.Claims.discards (i : DcpMsg → Instr) (m : DcpMsg) (s z : State) : Prop :=
  (serviceOpen s m → exec (i m) s = .next z) ∧
  ∀ k d, serveCalled s k m d → Sparse.get none s.claims 3 = none → exec (i m) s = .next (z.romReturn k [some 2, none, none, none])

/-- The message is whole and its key is valid (R365, check 1). -/
def Sys2Proof.Claims.wellFormed (s : State) (m : DcpMsg) (key : List Byte) : Prop :=
  m.ver = 1 ∧ m.kind = 1 ∧ m.len.toNat = m.body.length ∧ m.body.length ≤ 1400 ∧ m.mac.length = 16 ∧
  s.dcpKey m.keyId.toNat = some key

/-- The checks of R365 before SEQ and BOOT: its MAC is right too. -/
def Sys2Proof.Claims.authentic (s : State) (m : DcpMsg) (key : List Byte) : Prop :=
  wellFormed s m key ∧ m.mac = (Config.hmac key (dcpHead m)).toList

/-- A request of this boot with a SEQ above its key's last. -/
def Sys2Proof.Claims.newRequest (s : State) (m : DcpMsg) (key : List Byte) : Prop :=
  authentic s m key ∧ m.boot = s.nv nvrBootcnt ∧ (Sparse.get 0 s.boot.lastSeq m.keyId.toNat).toNat < m.seq.toNat

/-- The service with the request noted as its key's last. -/
def Sys2Proof.Claims.noted (s : State) (m : DcpMsg) : State :=
  { s with boot := { s.boot with
    lastSeq := Sparse.insert s.boot.lastSeq m.keyId.toNat m.seq, lastReq := Sparse.insert s.boot.lastReq m.keyId.toNat m
    lastReply := Sparse.erase s.boot.lastReply m.keyId.toNat } }

/-- The command of the request leaves the service in a state with `p` and ends with this reply, which stands for the request sent
again. -/
def Sys2Proof.Claims.replies (i : DcpMsg → Instr) (m : DcpMsg) (key : List Byte) (s : State) (status : Nat) (body : List Byte) (p : State → Prop) :
    Prop :=
  ∃ z, answers i m s z (s.dcpMake key m status body) ∧
    (z.boot.lastReply.find? (fun e => e.1 == m.keyId.toNat)).map (·.2) = some (s.dcpMake key m status body) ∧ p z

/-- The reply, and no other effect than on what the service holds. -/
def Sys2Proof.Claims.onlyReplies (i : DcpMsg → Instr) (m : DcpMsg) (key : List Byte) (s : State) (status : Nat) (body : List Byte) : Prop :=
  replies i m key s status body (fun z => z = { s with boot := z.boot } ∧ Sparse.get 0 z.boot.lastSeq m.keyId.toNat = m.seq)

/-- The commands of R367 with their codes, and whether the empty key 0 lets them pass. -/
def Sys2Proof.Claims.dcpRows : List ((DcpMsg → Instr) × Nat × Bool) :=
  [(.ident, 1, true), (.logread, 2, true), (.dcpMode, 3, false), (.imgcheck, 0x10, false), (.imgwrite, 0x11, false),
    (.bootsel, 0x12, false), (.imgrun, 0x13, false), (.lread, 0x20, false), (.lwrite, 0x21, false), (.keyset, 0x30, true),
    (.minver, 0x31, false), (.netset, 0x32, false)]

/-- R365, R366, R369: where nobody serves nothing happens, and a call while claim 3 is held returns BUSY; a request that fails a
check has no effect but its count or its error reply; a request sent again brings its reply again. -/
def Sys2Proof.Claims.dcpChecksRule : Prop :=
  ∀ (r : (DcpMsg → Instr) × Nat × Bool) (m : DcpMsg) (key : List Byte) (s : State), r ∈ dcpRows → m.cmd.toNat = r.2.1 →
    (s.romServes = true → s.dcpArrives m.path = false → exec (r.1 m) s = .next s) ∧
    (s.romServes = false → s.romCaller 0 = none → exec (r.1 m) s = .next s) ∧
    (∀ k d, serveCalled s k m d → Sparse.get none s.claims 3 ≠ none →
      exec (r.1 m) s = .next (s.romReturn k [some 3, none, none, none])) ∧
    (m.ver ≠ 1 ∨ m.kind ≠ 1 ∨ m.len.toNat ≠ m.body.length ∨ 1400 < m.body.length ∨ m.mac.length ≠ 16 ∨
      s.dcpKey m.keyId.toNat = none → discards r.1 m s s) ∧
    (wellFormed s m key → m.mac ≠ (Config.hmac key (dcpHead m)).toList →
      discards r.1 m s { s with boot := { s.boot with macFail := BitVec.ofNat 32 (min 0xFFFFFFFF (s.boot.macFail.toNat + 1)) } }) ∧
    (authentic s m key → m.boot ≠ s.nv nvrBootcnt → answers r.1 m s s (s.dcpMake key m 3 [])) ∧
    (authentic s m key → m.boot = s.nv nvrBootcnt → m.seq.toNat < (Sparse.get 0 s.boot.lastSeq m.keyId.toNat).toNat →
      discards r.1 m s { s with boot := { s.boot with replays := BitVec.ofNat 32 (min 0xFFFFFFFF (s.boot.replays.toNat + 1)) } }) ∧
    (∀ m' e, authentic s m key → m.boot = s.nv nvrBootcnt → m.seq = Sparse.get 0 s.boot.lastSeq m.keyId.toNat →
      (m.keyId.toNat, m') ∈ s.boot.lastReq → dcpSame m' m = true →
      s.boot.lastReply.find? (fun e => e.1 == m.keyId.toNat) = some e →
      answers r.1 m s s { e.2 with path := dcpBack m.path }) ∧
    (newRequest s m key → s.keyEmpty = true → r.2.2 = false → onlyReplies r.1 m key s 9 [])

/-- R366 to R368, R422, R432: what the commands for reading do. -/
def Sys2Proof.Claims.dcpReadsRule : Prop :=
  ∀ (m : DcpMsg) (key : List Byte) (s : State), newRequest s m key →
    (m.cmd = 1 → m.body = [] → onlyReplies .ident m key s 0 (bytesBE 4 (partCode s.part) ++ bytesBE 1 0xA1
      ++ bytesBE 1 s.power.mode.code ++ bytesBE 2 0 ++ bytesBE 4 s.boot.version.toNat ++ bytesBE 4 (s.nvN nvrBootcnt)
      ++ bytesBE 4 s.boot.macFail.toNat ++ bytesBE 4 s.boot.replays.toNat)) ∧
    (∀ (a b n : Byte), m.cmd = 2 → m.body = [a, b, n] → 1 ≤ n.toNat → n.toNat ≤ 5 →
      replies .logread m key s 0 ((List.range n.toNat).flatMap (fun i =>
        Sparse.get alogBlank s.rram.ring ((a.toNat * 256 + b.toNat + i) % 16384)))
        (fun t => t = { s with boot := t.boot, regs := t.regs })) ∧
    (s.keyEmpty = false →
      (∀ b : Bool, m.cmd = 0x10 → m.body = [if b then 1 else 0] → s.power.mode.romAlone = true ∨ s.power.mode.program = true →
        onlyReplies .imgcheck m key s 0 (bytesBE 1 (s.imgReason b) ++ bytesBE 4 (imgVersion (s.rram.image b)))) ∧
      (∀ a n u l ok, m.cmd = 0x20 → m.body = bytesBE 6 a ++ bytesBE 2 n → a < 2 ^ 48 → a % 4 = 0 → n % 4 = 0 → 4 ≤ n → n ≤ 1024 →
        s.power.mode = .attended ∨ s.power.mode = .diagnostic → State.dcpReads a (n / 4) (noted s m) [] = (u, l, ok) →
        replies .lread m key s (if ok then 0 else 6) (bytesBE 2 l.length ++ l) (fun t => t.mem = u.mem ∧ t.ctxs = u.ctxs)))

/-- R366 to R368, R422 to R424: what the commands for writing do. -/
def Sys2Proof.Claims.dcpWritesRule : Prop :=
  ∀ (m : DcpMsg) (key : List Byte) (s : State), newRequest s m key → s.rram.nvQueue.length ≤ 16 →
    (∀ (kind k a b : Byte) (l : List Byte), m.cmd = 0x30 → m.keyId = 0 → m.body = [kind, k, a, b] ++ l → l.length = 32 →
      kind = 0 ∧ k.toNat < 4 ∨ kind = 1 ∧ k.toNat < 2 → s.power.mode.romAlone = true ∨ s.power.mode = .attended →
      let bit := if kind = 0 then k.toNat else 8 + k.toNat
      replies .keyset m key s 0 [] (fun t => t.nvKey ((if kind = 0 then 0 else 0x20) + 8 * k.toNat) = l ∧
        (t.nv 0x30).getLsbD bit = l.any (· != 0) ∧ (∀ j, j ≠ bit → (t.nv 0x30).getLsbD j = (s.nv 0x30).getLsbD j) ∧
        t.ctxs = s.ctxs ∧ t.mem = s.mem)) ∧
    (s.keyEmpty = false →
      (∀ v : Byte, m.cmd = 3 → m.body = [v] → v.toNat < 16 → s.power.mode ∉ [.sealed, .off, .dormant] →
        ∃ z, exec (.powerRequest 0x80 (v.setWidth 32)) s = .next z ∧
          replies .dcpMode m key s z.power.result.toNat (bytesBE 1 z.power.mode.code) (fun t => t.power = z.power)) ∧
      (∀ (b : Bool) (x : Byte) off l, m.cmd = 0x11 → m.body = [if b then 1 else 0, x] ++ bytesBE 4 off ++ l → off % 4 = 0 →
        4 ≤ l.length → l.length ≤ 1024 → off + l.length ≤ 2097152 →
        (s.power.mode.romAlone = true ∨ s.power.mode.program = true ∧ (s.nv 0x32).getLsbD 0 ≠ b →
          replies .imgwrite m key s 0 [] (fun t => t = { s with boot := t.boot, rram := t.rram } ∧
            t.rram.image (!b) = s.rram.image (!b) ∧ ∀ a, Sparse.get 0 (t.rram.image b) a =
              if off ≤ a ∧ a < off + l.length then l.getD (a - off) 0 else Sparse.get 0 (s.rram.image b) a)) ∧
        (s.power.mode.romAlone = false → s.power.mode.program = true → (s.nv 0x32).getLsbD 0 = b →
          onlyReplies .imgwrite m key s 5 [])) ∧
      (∀ b : Bool, m.cmd = 0x12 → m.body = [if b then 1 else 0] → s.power.mode.romAlone = true ∨ s.power.mode = .attended →
        replies .bootsel m key s 0 [] (fun t => t.nvN 0x32 = b2n b ∧ t.ctxs = s.ctxs ∧ t.mem = s.mem)) ∧
      (∀ b : Bool, m.cmd = 0x13 → m.body = [if b then 1 else 0] → s.power.mode.romAlone = true →
        (s.imgReason b = 0 → replies .imgrun m key s 0 [0] (fun t => t.power.mode = .ascent ∧ t.power.transit = true ∧
          t.boot.slotB = b ∧ t.boot.step = 6 ∧ t.ctxs = [])) ∧
        (s.imgReason b ≠ 0 → onlyReplies .imgrun m key s 7 (bytesBE 1 (s.imgReason b)))) ∧
      (∀ a n u done ok l, m.cmd = 0x21 → m.body = bytesBE 6 a ++ bytesBE 2 n ++ l → l.length = n → a < 2 ^ 48 → a % 4 = 0 →
        n % 4 = 0 → 4 ≤ n → n ≤ 1024 → s.power.mode = .attended ∨ s.power.mode = .diagnostic →
        State.dcpWrites a (n / 4) l (noted s m) 0 = (u, done, ok) →
        replies .lwrite m key s (if ok then 0 else 6) (bytesBE 2 done) (fun t => t.mem = u.mem ∧ t.ctxs = u.ctxs)) ∧
      (∀ v : Reg32, m.cmd = 0x31 → m.keyId = 0 → m.body = bytesBE 4 v.toNat →
        s.power.mode.romAlone = true ∨ s.power.mode = .attended →
        (s.nvN 0x31 ≤ v.toNat → replies .minver m key s 0 [] (fun t => t.nv 0x31 = v)) ∧
        (v.toNat < s.nvN 0x31 → onlyReplies .minver m key s 5 [])) ∧
      (m.cmd = 0x32 → m.keyId = 0 → m.body.length = 24 → s.power.mode.romAlone = true ∨ s.power.mode = .attended →
        replies .netset m key s 0 [] (fun t => ∀ i, i < 6 → t.nvN (0x34 + i) = ofBytesBE ((m.body.drop (4 * i)).take 4))))

/-- R367, R369: an authenticated command of the program range goes to the Keeper program, with the place, the length and the code of
its body; a code of no command ends with BAD_CMD, and one that no program can take with NO_PROGRAM; DCP_REPLY builds the program's
reply in the command's buffer. -/
def Sys2Proof.Claims.dcpProgramRule : Prop :=
  ∀ (m : DcpMsg) (key : List Byte) (s : State),
    (∀ k d, newRequest s m key → 0x8000 ≤ m.cmd.toNat → s.keyEmpty = false → s.power.mode.program = true → serveCalled s k m d →
      Sparse.get none s.claims 3 = none → exec (.programCommand m) s = .next ((noted s m).romReturn k
        [some 1, some (BitVec.ofNat 16 (d.off + 20)), some (BitVec.ofNat 16 m.body.length), some m.cmd])) ∧
    (newRequest s m key → 0x8000 ≤ m.cmd.toNat → s.keyEmpty = true → onlyReplies .programCommand m key s 9 []) ∧
    (newRequest s m key → 0x8000 ≤ m.cmd.toNat → s.keyEmpty = false → s.power.mode.program = false →
      onlyReplies .programCommand m key s 8 []) ∧
    (newRequest s m key → m.cmd.toNat < 0x8000 → m.cmd.toNat ∉ dcpCodes → onlyReplies .programCommand m key s 0xB []) ∧
    (∀ (status : Byte) (body : List Byte) (k : Fin 4) (d : Datagram), let u := (s.keeper k).cpu
      let l := s.agentBytes 2 u.callBuffer 4096
      let q := headerMsg d 0 0
      s.romServes = false → s.romCaller 16 = some k → s.romBuffer u.callBuffer = true → frameUdp l = some d → body.length ≤ 1400 →
      36 ≤ d.payload.length → u.w[3].toNat % 256 = status.toNat → u.w[4].toNat = body.length →
      s.agentBytes 2 (u.callBuffer + d.off + 20) body.length = body → Sparse.get none s.claims 3 = none →
      let r := s.dcpMake (s.nvKey (8 * (q.keyId.toNat % 4))) q status.toNat body
      let out := replyFrame s.fresh l d (dcpBytes r)
      ∃ z : State, exec (.dcpReply status body) s = .next ((z.agentStore 2 u.callBuffer out).romReturn k
          [none, some (BitVec.ofNat 16 out.length), none, none, none]) ∧ z = { s with boot := z.boot, fresh := z.fresh } ∧
        (Sparse.get 0 s.boot.lastSeq q.keyId.toNat = q.seq →
          (z.boot.lastReply.find? (fun e => e.1 == q.keyId.toNat)).map (·.2) = some r)) ∧
    (∀ (status : Byte) body, s.romServes = true ∨ s.romCaller 16 = none → exec (.dcpReply status body) s = .next s)

/-- R369: what a call returns and keeps: the results in their registers, the Keeper back behind its CALL, the registers it preserves
and all memory as they were; a reply's frame carries the reply from the request's destination to its source. -/
def Sys2Proof.Claims.romCallsRule : Prop :=
  (∀ (k : Fin 4) (out : List (Option Word)) (s : State),
    let u := (s.keeper k).cpu
    let t := s.romReturn k out
    let v := (t.keeper k).cpu
    v.w[15] = u.w[15] + 1 ∧ v.pc = Sparse.get 0 (s.keeper k).dram u.w[15].toNat ∧ v.x = u.x ∧
    (∀ j, j < 7 → v.seg[j]? = u.seg[j]?) ∧ (∀ r : Fin 16, r ≠ 15 → out.length ≤ r.val → v.w[r] = u.w[r]) ∧
    (∀ (r : Fin 16) x, r ≠ 15 → out[r.val]? = some (some x) → v.w[r] = x) ∧ t.mem = s.mem ∧ t.ctxs = s.ctxs ∧
    (∀ a, u.w[15].toNat ≤ a ∨ a + 32 < u.w[15].toNat → Sparse.get 0 (t.keeper k).dram a = Sparse.get 0 (s.keeper k).dram a)) ∧
  ∀ (n : Nat) (l payload : List Byte) (d : Datagram), frameUdp l = some d →
    let o := replyFrame n l d payload
    o.length = d.off + payload.length ∧ o.drop d.off = payload ∧ o.take 6 = (l.drop 6).take 6 ∧ (o.drop 6).take 6 = l.take 6 ∧
    be16 o (d.off - 8) = d.dport ∧ be16 o (d.off - 6) = d.sport ∧
    (let w := if d.v6 then 16 else 4
     (o.drop (d.off - 8 - 2 * w)).take w = d.dst ∧ (o.drop (d.off - 8 - w)).take w = d.src)

/-- R358, R361, R364 to R369, R408, R454: start-up and the Dreug Control Protocol. -/
def Obligations.BootAndDcpCommands : Prop :=
  bootStartsRule ∧ dcpChecksRule ∧ dcpReadsRule ∧ dcpWritesRule ∧ dcpProgramRule ∧ romCallsRule

/-! ### Loam -/

/-- A device node's access of `n` words at `a` of memory is decoded, its route is up, and it is in order (R18, R23, R24, R385,
R387). -/
def Sys2Proof.Claims.reaches (s : State) (node : Byte) (a n : Nat) : Prop :=
  node.toNat < 0xC0 ∧ a < rdWindow ∧ a % 2 = 0 ∧ a % 128 + 2 * n ≤ 128 ∧ s.frameUp (a / 4096) = true ∧ s.forwardUp a = true ∧
  ∃ d, addrDie s.part a = some d ∧ d ≠ 3 ∧ (d < 2 → s.power.dieUp d = true) ∧ s.routeUp (nodeDie node) d = true

/-- A request at its first issue that its target answers with OK and no data. -/
def Sys2Proof.Claims.issued (node tag : Byte) (op : LoamOp) (a : LoamAddr) (len : Nat) (data : List Word) : LoamReq :=
  { node := node, tag := tag, op := op, addr := a, len := len, data := data, attempts := 1, got := true, status := 0, resp := []
    wrong := false, poison := false, atype := 0, age := 0 }

/-- The request waits for its response's delivery, behind those before it. -/
def Sys2Proof.Claims.inFlight (s t : State) (q : LoamReq) : Prop := t.loam = s.loam ++ [q]

/-- The words stand at `a` in every frame that takes a write of it, and no other byte of memory has changed (R387). -/
def Sys2Proof.Claims.stored (s t : State) (a : Nat) (data : List Word) : Prop :=
  (∀ g ∈ s.takers (a / 4096), ∀ j, j < data.length → t.word (g * 4096 + a % 4096 + 2 * j) = data.getD j 0) ∧
  ∀ x, (∀ g ∈ s.takers (a / 4096), x < g * 4096 + a % 4096 ∨ g * 4096 + a % 4096 + 2 * data.length ≤ x) →
    memByte t.mem x = memByte s.mem x

/-- The words at `a` as a read of it is served (R387). -/
def Sys2Proof.Claims.readWords (s : State) (a n : Nat) : List Word := (List.range n).map (fun j => s.word (s.served (a / 4096) * 4096 + a % 4096 + 2 * j))

/-- A word of those a read is served from holds inverted parity. -/
def Sys2Proof.Claims.badWords (s : State) (a n : Nat) : Bool :=
  let w := s.served (a / 4096) * 2048 + a % 4096 / 2
  s.bad.any (fun e => e.2 && decide (w ≤ e.1 ∧ e.1 < w + n))

/-- The frame of an address holds no session's state (its words are left to log entries 1 and 66). -/
def Sys2Proof.Claims.noState (s : State) (a : Nat) : Prop := s.statePage (a / 4096) = none ∧ s.image (a / 4096) = none

/-- No thread has written a staged line that holds the word at `a`: nothing is to be written back before a write of it (R76). -/
def Sys2Proof.Claims.linesClean (s : State) (a : Nat) : Prop :=
  ∀ c, ∀ tag ∈ s.linesOf c (s.homeOf (a / 4096)) (a % 4096 / 2), ∀ e, s.sesD c none (·.staged tag) = some e → e.words = []

/-- R76, R382 to R387, R390, R391: a device node's reads, writes, posted writes and atomics of memory, and an address of no range. -/
def Sys2Proof.Claims.loamRequestsRule : Prop :=
  ∀ (node tag : Byte) (a : LoamAddr) (s : State), let x := a.toNat
    (∀ len : BitVec 7, 1 ≤ len.toNat → len.toNat ≤ 64 → s.mayIssueReq node tag false 0 = true →
      let q := { issued node tag .rd a len.toNat [] with resp := readWords s x len.toNat, wrong := badWords s x len.toNat }
      (reaches s node x len.toNat → noState s x →
        ∃ t, exec (.rd node tag a len) s = .next t ∧ t = { s with loam := t.loam, fresh := t.fresh } ∧ inFlight s t q) ∧
      (node.toNat < 0xC0 → addrDie s.part x = none → ∃ t, exec (.rd node tag a len) s = .next t ∧ t = { s with loam := t.loam } ∧
        inFlight s t { q with status := 1, resp := [], wrong := false })) ∧
    (∀ (data : List Word) (ok : Bool) (i : Instr) (op : LoamOp), 1 ≤ data.length → data.length ≤ 64 →
      s.mayIssueReq node tag true data.length = true → reaches s node x data.length →
      (i = .wr node tag a data ok false ∧ op = .wr ∨ i = .pwr node tag a data ok false ∧ op = .pwr) →
      let q := issued node tag op a data.length data
      (ok = true → ∃ t, exec i s = .next t ∧ inFlight s t q ∧ (linesClean s x → stored s t x data)) ∧
      (ok = false → ∃ t, exec i s = .next t ∧ t = { s with loam := t.loam } ∧ inFlight s t { q with status := 2 })) ∧
    (∀ (ty : BitVec 4) (data : List Word) k al w, atomShape ty.toNat = some (k, al, w) → data.length = k → x % al = 0 →
      s.mayIssueReq node tag false 0 = true → reaches s node x w → noState s x → badWords s x w = false →
      let old := readWords s x w
      let q := { issued node tag .atom a k data with resp := old, atype := ty }
      (∀ v, atomNew ty.toNat (ofWordsLE old) data = some v →
        ∃ t, exec (.atom node tag ty a data) s = .next t ∧ inFlight s t q ∧
          (linesClean s x → stored s t x (wordsLE w v))) ∧
      (atomNew ty.toNat (ofWordsLE old) data = none →
        ∃ t, exec (.atom node tag ty a data) s = .next t ∧ t = { s with loam := t.loam, fresh := t.fresh } ∧ inFlight s t q))

/-- The node has its response, and the tag is free again (R384). -/
def Sys2Proof.Claims.responded (s t : State) (node tag : Byte) (status : BitVec 4) (data : List Word) : Prop :=
  (∃ l, t.wire = .response node tag status data :: l) ∧ t.answer = BitVec.ofNat 64 (ofWordsLE (data.take 4)) ∧
  t.loam = s.loam.filter (fun r => !(r.node == node && r.tag == tag))

/-- CUR_REPLAY counts a failure of memory that a replay has cured (R85 row 0). -/
def Sys2Proof.Claims.curedCounted (s t : State) (r : LoamReq) : Prop :=
  (r.attempts = 1 → t.regs = s.regs) ∧ (1 < r.attempts → r.addr.toNat < rdWindow →
    (framePool s.part (r.addr.toNat / 4096)).isSome = true →
    t.regN (curBase + 0x200) = min 0xFFFFFFFF (s.regN (curBase + 0x200) + 1))

/-- R85, R384, R390 to R392: a response goes to its node; read data or a write that failed its parity check is asked for again, three
times, and then counts as a persistent failure; an atomic is not issued again; a request with no response in time fails. -/
def Sys2Proof.Claims.loamResponsesRule : Prop :=
  ∀ (node tag : Byte) (s : State), node.toNat < 0xC0 →
    (∀ r, s.findReq node tag .rd = some r →
      (r.status ≠ 0 → ∃ t, exec (.rdr node tag true) s = .next t ∧ responded s t node tag r.status [] ∧ t.mem = s.mem) ∧
      (r.status = 0 → r.poison = false → r.wrong = false → ∃ t, exec (.rdr node tag true) s = .next t ∧
        responded s t node tag 0 r.resp ∧ curedCounted s t r ∧
        t = { s with loam := t.loam, wire := t.wire, answer := t.answer, regs := t.regs }) ∧
      (r.status = 0 → r.poison = false → r.attempts < 4 → r.addr.toNat < rdWindow → ∃ t, exec (.rdr node tag false) s = .next t ∧
        t.mem = s.mem ∧ t.wire = s.wire ∧ ∃ q ∈ t.loam, q.node = node ∧ q.tag = tag ∧ q.addr = r.addr ∧ q.attempts = r.attempts + 1)) ∧
    (∀ r (i : Instr) (op : LoamOp), s.findReq node tag op = some r → (i = .wrr node tag ∧ op = .wr ∨ i = .pack node tag ∧ op = .pwr) →
      (r.status ≠ 2 → ∃ t, exec i s = .next t ∧ responded s t node tag r.status [] ∧
        (r.status = 0 → curedCounted s t r) ∧ (r.status ≠ 0 → t.regs = s.regs) ∧
        t = { s with loam := t.loam, wire := t.wire, answer := t.answer, regs := t.regs }) ∧
      (r.status = 2 → r.attempts < 4 → r.addr.toNat < rdWindow → ∃ t, exec i s = .next t ∧ t.wire = s.wire ∧
        ∃ q ∈ t.loam, q.node = node ∧ q.tag = tag ∧ q.addr = r.addr ∧ q.attempts = r.attempts + 1)) ∧
    (∀ r, s.findReq node tag .atom = some r →
      (r.status ≠ 0 → ∃ t, exec (.atr node tag true) s = .next t ∧ responded s t node tag r.status []) ∧
      (r.status = 0 → r.wrong = false → ∃ t, exec (.atr node tag true) s = .next t ∧ responded s t node tag 0 r.resp ∧
        t = { s with loam := t.loam, wire := t.wire, answer := t.answer })) ∧
    (∀ r, s.loam.find? (fun r => r.node == node && r.tag == tag) = some r →
      (r.age < s.loamTimeout node → exec (.loamTimeout node tag) s = .next s) ∧
      (s.loamTimeout node ≤ r.age → ∃ t, exec (.loamTimeout node tag) s = .next t ∧ responded s t node tag 5 [] ∧
        t = { s with loam := t.loam, wire := t.wire, answer := t.answer, regs := t.regs } ∧
        (nodeDie node = 2 → t.regN (loamHdBase + 0x40C) = min 0xFFFFFFFF (s.regN (loamHdBase + 0x40C) + 1))))

/-- DOORBELL to an agent of the guest die, with its code, its slot and its IDX (R397). -/
def Sys2Proof.Claims.doorbellTo (g : Fin 4) (code slot : Word) (idx : Reg32) : Sent :=
  .message 3 (0xC0 + BitVec.ofNat 8 g.val) code [slot, 0, idx.setWidth 16, (idx >>> 16).setWidth 16]

/-- R379, R388, R397, R433, R437: modules retrain, and fail one by one, the last taking its link down; credits are counted; messages
go to their nodes. -/
def Sys2Proof.Claims.linksAndMessagesRule : Prop :=
  ∀ s : State,
    (∀ l : Fin 4, let x := s.links[l.val]
      let others : State → Prop := fun t => ∀ j : Fin 4, j ≠ l → t.links[j.val] = s.links[j.val]
      (x.retraining < x.up → ∃ t, exec (.moduleRetrain l) s = .next t ∧ t = { s with links := t.links, regs := t.regs } ∧ others t ∧
        t.links[l.val] = { x with retraining := x.retraining + 1 }) ∧
      (0 < x.retraining → ∃ t, exec (.moduleRetrainEnd l) s = .next t ∧ t = { s with links := t.links } ∧ others t ∧
        t.links[l.val] = { x with retraining := x.retraining - 1 }) ∧
      (x.retraining = 0 → exec (.moduleRetrainEnd l) s = .next s ∧ exec (.moduleFail l) s = .next s) ∧
      (0 < x.retraining → 1 < x.up → ∃ t, exec (.moduleFail l) s = .next t ∧ others t ∧ t.ctxs = s.ctxs ∧ t.power = s.power ∧
        t.links[l.val] = { up := x.up - 1, retraining := x.retraining - 1 } ∧
        (s.power.hub = true → t.dic.pend.getLsbD (44 + l.val) = true)) ∧
      (0 < x.retraining → x.up = 1 →
        (l ≠ 3 → s.power.mode ≠ .off → s.power.mode ≠ .sealed → ∃ t, exec (.moduleFail l) s = .next t ∧ t.power.mode = .sealed ∧
          t.power.cause = 9) ∧
        (l = 3 → ∃ t, exec (.moduleFail l) s = .next t ∧ t.plinth.present = false ∧ t.plinth.isoCause = 2 ∧
          t.links[l.val].up = 0 ∧ t.power = s.power))) ∧
    (∀ die : Fin 3, (if die = 2 then s.power.hub = true else s.power.stepOn (if die = 0 then 6 else 28) = true) →
      ∃ t, exec (.loamCredsnap die) s = .next t ∧ t = { s with fresh := t.fresh, credits := t.credits, latch := t.latch } ∧
        ∀ l p n, l < 3 → dieLinkNo die.val l = some n → p < linkPools n → let x := t.pool (poolKey die.val l p)
          x.adv = (s.pool (poolKey die.val l p)).adv ∧ (x.adv ≠ 0 → x.avail.toNat + x.held.toNat = x.adv.toNat)) ∧
    (s.power.hub = true →
      (∀ (node mtype dst : Byte) (marg : Word) (ok : Bool), s.writesDone node = true → node.toNat < 0xC0 ∨ s.linkUp 3 = true →
        let sound := mtype = 1 ∧ dst = 0x8B ∧ 256 ≤ marg.toNat ∧ marg.toNat < 512
        let o := if dst.toNat < 0x80 then loamRdBase + 0x1000000 * (dst.toNat / 64) + 0x418 else loamHdBase + 0x418
        let dropped : State → Prop := fun t => dst.toNat < 0xC0 → t.regN o = min 0xFFFFFFFF (s.regN o + 1) ∧
          t.dic.pend.getLsbD 52 = true
        (ok = true → sound → node.toNat < 0xC0 ∨ s.power.mode ≠ .plinthTest →
          ∃ t, exec (.event node ⟨mtype, dst, marg, ok⟩) s = .next t ∧ t.dic.pend.getLsbD marg.toNat = true ∧
            t = { s with dic := t.dic, keepers := t.keepers }) ∧
        (ok = true → mtype = 1 → 0xC0 ≤ node.toNat → s.power.mode = .plinthTest → exec (.event node ⟨mtype, dst, marg, ok⟩) s =
          .next { s with wire := .message 1 node marg [] :: s.wire }) ∧
        (ok = false → ∃ t, exec (.event node ⟨mtype, dst, marg, ok⟩) s = .next t ∧ dropped t ∧
          t = { s with regs := t.regs, dic := t.dic, keepers := t.keepers }) ∧
        (ok = true → ¬ sound → node.toNat < 0xC0 ∨ mtype ≠ 1 ∨ s.power.mode ≠ .plinthTest →
          ∃ t, exec (.event node ⟨mtype, dst, marg, ok⟩) s = .next t ∧
            (node.toNat < 0xC0 → dropped t ∧ t = { s with regs := t.regs, dic := t.dic, keepers := t.keepers }) ∧
            (0xC0 ≤ node.toNat → s.plinth.msgBad ≠ 255 ∨ s.plinth.resetN = false → dropped t ∧
              t.plinth = { s.plinth with msgBad := s.plinth.msgBad + 1 }) ∧
            (0xC0 ≤ node.toNat → s.plinth.msgBad = 255 → s.plinth.resetN = true → t.plinth.isolated = true ∧ t.plinth.isoCause = 6))) ∧
      (s.linkUp 3 = true → s.power.mode ≠ .plinthTest →
        (∀ (g : Fin 4) (up : Bool), s.dicLine (4 + g.val) = up → exec (.line g up) s =
          .next { s with wire := .message 2 (0xC0 + BitVec.ofNat 8 g.val) (if up then 0x8000 else 0) [] :: s.wire }) ∧
        (∀ (g : Fin 4) (code slot : Word) (idx : Reg32), exec (.doorbell g code slot idx) s =
          .next { s with wire := doorbellTo g code slot idx :: s.wire })) ∧
      (∀ v : Reg32, s.isP = true → s.plinth.present = true → s.power.mode ≠ .plinthTest → 0x100 ≤ (v >>> 16).toNat →
        exec (.plnTDbell v) s = .next { s with wire := doorbellTo (Fin.ofNat 4 v.toNat) ((v >>> 16).setWidth 16) 0 0 :: s.wire }))

/-- R380 to R382, R390: a packet that R382 allows is read again from its flits, whatever credits they carry; each flit has 32 words,
its kind, channel, LAST and number of words in word 0, and its parity is right; other credits than those its parity covers are not. -/
def Sys2Proof.Claims.flitsRule : Prop :=
  ∀ (p : Packet) (credits : Nat → Word), p.wf = true →
    let n := packetFlits p.data.length
    readPacket (p.flits credits) = some p ∧ (p.flits credits).length = n ∧
    ∀ i f, (p.flits credits)[i]? = some f → f.length = 32 ∧ f[31]? = some (credits i) ∧ flitParityOk f = true ∧
      (let h := (f.getD 0 0).toNat
       field h 14 2 = (if i = 0 then 1 else 2) ∧ opChannel p.op.toNat = some (field h 12 2) ∧ h.testBit 11 = decide (i + 1 = n) ∧
       field h 6 5 = min 28 (8 + p.data.length - 28 * i) ∧ (f.drop 1).take (field h 6 5) = (p.words.drop (28 * i)).take 28) ∧
      ∀ j, j < 16 → flitParityOk (f.set 31 (credits i ^^^ (1#16 <<< j))) = false

/-- R18, R23, R24, R76, R85, R379 to R388, R390 to R392, R397, R403: the Loam fabric. -/
def Obligations.LoamCommands : Prop := loamRequestsRule ∧ loamResponsesRule ∧ linksAndMessagesRule ∧ flitsRule

/-! ### The Plinth site -/

/-- The site after a reset (R402): not PRESENT, its link down, its windows closed, and none of the guest's requests outstanding. -/
def Sys2Proof.Claims.siteReset (t : State) : Prop :=
  t.plinth.present = false ∧ t.plinth.resetN = false ∧ t.plinth.delivered = [] ∧ t.links[3].up = 0 ∧
  (∀ i, i < 16 → (t.regN (vwin i 0)).testBit 0 = false) ∧
  ∀ q ∈ t.loam, q.node.toNat < 0xC0 ∧ (q.toGuest = true → q.got = true)

/-- R401 to R403, R418: RUN, its reset, isolation, and the loss of the site's power. -/
def Sys2Proof.Claims.siteRule : Prop :=
  ∀ s : State, s.isP = true →
    (s.power.hub = true →
      (∀ cause : Byte, ∃ t, exec (.plinthRun cause) s = .next t ∧ t.regN hctrl = 1 ∧ t.ctxs = s.ctxs ∧ t.mem = s.mem ∧
        (s.plinth.present = true → t = { s with regs := t.regs }) ∧
        (s.plinth.present = false → s.plinth.pwrGood = true → cause = 0 → t.plinth.present = true ∧ t.plinth.resetN = true ∧
          t.plinth.isolated = false ∧ t.plinth.isoCause = 0 ∧ t.links[3].up = 2) ∧
        (s.plinth.present = false → s.plinth.pwrGood = false ∨ cause ≠ 0 → t.plinth.present = false ∧ t.links[3].up = 0 ∧
          t.plinth.pwrGood = false ∧ t.plinth.isoCause = (if s.plinth.pwrGood then cause else 1) ∧ t.power.stepOn 50 = false ∧
          t.dic.pend.getLsbD 71 = true)) ∧
      ∃ t, exec .plinthReset s = .next t ∧ siteReset t ∧ t.regN hctrl = 0 ∧ t.ctxs = s.ctxs ∧ t.mem = s.mem ∧
        t.dic.pend.getLsbD 73 = true) ∧
    (∀ (cause : Byte) (flits : List (List Word)), let found := cause = 4 ∧ readPacket flits = none ∨ 5 ≤ cause.toNat ∧ cause.toNat ≤ 7
      (s.plinth.resetN = false ∨ ¬ found → exec (.isolation ⟨cause, flits⟩) s = .next s) ∧
      (s.plinth.resetN = true → found → ∃ t, exec (.isolation ⟨cause, flits⟩) s = .next t ∧ siteReset t ∧ t.plinth.isolated = true ∧ t.plinth.isoCause = cause ∧
        t.regN hctrl = 0 ∧ t.ctxs = s.ctxs ∧ t.mem = s.mem ∧ (s.power.hub = true → t.dic.pend.getLsbD 71 = true))) ∧
    (∀ thermal : Bool, s.plinth.pwrGood = true →
      ∃ t, exec (.plnPwrloss thermal) s = .next t ∧ siteReset t ∧ t.plinth.pwrGood = false ∧ t.plinth.isoCause = 8 ∧
        t.power.stepOn 50 = false ∧ t.ctxs = s.ctxs ∧ t.mem = s.mem ∧ (thermal = true → t.plinth.therm = 3) ∧
        (thermal = false → s.plinth.present = true → s.power.hub = true → t.dic.pend.getLsbD 72 = true))

/-- R398, R399, R402: the next item of a slot's tap goes to its ring and its doorbell follows, or is dropped and counted; with no
site to take it, it is delivered nowhere. -/
def Sys2Proof.Claims.tapItemsRule : Prop :=
  ∀ (c : CtxNo) (s : State) (k : Nat) d q, s.heldSlot c = some k → (s.slot k).tapQ = d :: q →
    let idx : Reg32 := Sparse.get 0 s.plinth.idx k
    let n := tapRing (s.regN (tapAddr k 8))
    let full := n ≤ (idx.toNat + 65536 - field (s.regN (tapAddr k 12)) 16 16) % 65536
    ∃ t, exec (.tapItem c) s = .next t ∧ t.slot k = { s.slot k with tapQ := q } ∧ (∀ j, j ≠ k → t.slot j = s.slot j) ∧
      t.ctxs = s.ctxs ∧ t.mem = s.mem ∧ (s.tapsOn = false → t = { s with slots := t.slots }) ∧
      (s.tapsOn = true → full → t = { s with slots := t.slots, regs := t.regs } ∧
        t.regN (plnBase + 0x10) = min 0xFFFFFFFF (s.regN (plnBase + 0x10) + 1)) ∧
      (s.tapsOn = true → ¬ full → Sparse.get 0 t.plinth.idx k = idx + 1 ∧
        t.wire = doorbellTo (s.tapAgent k) 1 (BitVec.ofNat 16 k) idx
          :: .tap (s.tapAgent k) (s.tapRingBase k + 32768 * (idx.toNat % n)) (d.header idx.toNat ++ d.data) :: s.wire)

/-- Word `i` of the eight words of a return (R163). -/
def Sys2Proof.Claims.returnWord (data : List Word) (i : Nat) : Nat := (data.getD (2 * i) 0).toNat + 65536 * (data.getD (2 * i + 1) 0).toNat

/-- R400: a return that passes its checks joins the queue of its kind; one that does not is answered by its status and changes
nothing. -/
def Sys2Proof.Claims.tapReturnsRule : Prop :=
  ∀ (agent : Fin 4) (data : List Word) (s : State), s.tapsOn = true → data.length = 16 →
    let k := returnWord data 0 % 16384
    let idx : Reg32 := BitVec.ofNat 32 (returnWord data 1)
    let buf := returnWord data 2 + 2 ^ 32 * (returnWord data 3 % 65536)
    let len := returnWord data 4 % 16384
    let sound := 1 ≤ len ∧ len ≤ 8960 ∧ buf % 64 = 0 ∧ 0x400000000000 ≤ buf ∧ buf + len ≤ 0x404000000000 ∧
      2 ≤ (s.tmode k).toNat ∧ s.tapAgent k = agent
    let found := s.plinth.delivered.find? (fun e => e.slot.toNat == k && e.idx == idx)
    (s.slotHeld k = false → exec (.tapReturn agent data) s = .next { s with answer := 7 }) ∧
    (s.slotHeld k = true → ¬ sound ∨ found = none → exec (.tapReturn agent data) s = .next { s with answer := 8 }) ∧
    (∀ e, s.slotHeld k = true → sound → found = some e → e.done = true ∨ 255 ≤ e.count →
      exec (.tapReturn agent data) s = .next { s with answer := 8 }) ∧
    (∀ e, s.slotHeld k = true → sound → found = some e → e.done = false → e.count < 255 →
      let x := s.slot k
      let room := if e.kind = 3 then x.audioQ.length < 16 else x.videoBands.length < 16 ∨ (e.frame, e.band) ∈ x.videoBands
      let r : TapBuf := { idx := idx, buf := BitVec.ofNat 48 buf, len := len, last := (returnWord data 4).testBit 31 }
      (¬ room → exec (.tapReturn agent data) s = .next { s with answer := 6 }) ∧
      (room → ∃ t, exec (.tapReturn agent data) s = .next t ∧ t.answer = 0 ∧
        t = { s with answer := 0, slots := t.slots, plinth := t.plinth, regs := t.regs } ∧
        (e.kind = 3 → ∃ d, (t.slot k).audioQ = x.audioQ ++ [d] ∧ d.returned = some r ∧ d.rel = e.rel) ∧
        (e.kind ≠ 3 → ∃ d, (t.slot k).videoQ = x.videoQ ++ [d] ∧ d.returned = some r ∧ d.frame = e.frame ∧ d.band = e.band)))

/-- R398 to R403, R418: the Plinth site and the taps. -/
def Obligations.PlinthCommands : Prop := siteRule ∧ tapItemsRule ∧ tapReturnsRule

/-! ### What outlives a power loss -/

/-- A requester may write an NV register (R423). -/
def Sys2Proof.Claims.nvAllowed (node : Byte) (fromRom : Bool) (n : Nat) : Prop :=
  (n < 0x40 → fromRom = true ∧ node = 0x80) ∧ (0x40 ≤ n → (nodeKeeper node).isSome = true)

/-- R421 to R425: a write of an NV register that its writer may write is queued; where the queue has room it reads back at once and
counts as wear; the oldest write is committed, or fails and is counted. -/
def Sys2Proof.Claims.nvRule : Prop :=
  ∀ s : State, s.power.mode ≠ .off →
    (∀ (node : Byte) (rom : Bool) (n : BitVec 9) (v : Reg32),
      (nvAllowed node rom n.toNat → s.rram.nvQueue.length < 16 → ∃ t, exec (.nvrWrite node rom n v) s = .next t ∧
        t.rram.nvQueue = s.rram.nvQueue ++ [(n.toNat, v, 0)] ∧ t.nv n.toNat = v ∧ (∀ m, m ≠ n.toNat → t.nv m = s.nv m) ∧
        (Sparse.get 0 t.rram.nvWear n.toNat).toNat = min 0xFFFFFFFF ((Sparse.get 0 s.rram.nvWear n.toNat).toNat + 1) ∧
        ((Sparse.get 0 s.rram.nvWear n.toNat).toNat = 100000 → s.power.hub = true → t.dic.pend.getLsbD 35 = true) ∧
        ((Sparse.get 0 s.rram.nvWear n.toNat).toNat ≠ 100000 → t = { s with rram := t.rram })) ∧
      (nvAllowed node rom n.toNat → 16 ≤ s.rram.nvQueue.length → exec (.nvrWrite node rom n v) s =
        .next { s with rram := { s.rram with nvQueue := s.rram.nvQueue ++ [(n.toNat, v, 0)] } }) ∧
      (¬ nvAllowed node rom n.toNat → exec (.nvrWrite node rom n v) s = .next s)) ∧
    (∀ ok, s.rram.nvQueue = [] → exec (.nvrCommit ok) s = .next s) ∧
    (∀ n v age q, s.rram.nvQueue = (n, v, age) :: q →
      (q.length ≤ 15 →
        (∃ t, exec (.nvrCommit true) s = .next t ∧ t = { s with rram := t.rram } ∧ t.rram.nvQueue = q ∧
          Sparse.get 0 t.rram.nvCommitted n = v ∧ (∀ m, t.nv m = s.nv m) ∧
          ∀ m, m ≠ n → Sparse.get 0 t.rram.nvCommitted m = Sparse.get 0 s.rram.nvCommitted m) ∧
        (∃ t, exec (.nvrCommit false) s = .next t ∧ t.rram.nvQueue = q ∧ t.rram.nvCommitted = s.rram.nvCommitted ∧
          t.regN (nvrBase + 0x1004) = min 0xFFFFFFFF (s.regN (nvrBase + 0x1004) + 1) ∧
          (s.power.hub = true → t.dic.pend.getLsbD 36 = true))) ∧
      (∀ n' v' age' l, q.drop 15 = (n', v', age') :: l → ∃ t, exec (.nvrCommit true) s = .next t ∧ t.rram.nvQueue = q ∧ t.nv n' = v'))

/-- The record that a Keeper's write port offers (R426, R432). -/
def Sys2Proof.Claims.portRecord (s : State) (k : Fin 4) (ctrl : Nat) : AlogRec :=
  alogBytes { code := BitVec.ofNat 16 (field ctrl 0 16), origin := BitVec.ofNat 8 (8 + k.val)
              body := s.alogBody k (field ctrl 16 8), boot := s.nv nvrBootcnt, time := s.clock.time }
    s.alog.next.toNat s.alog.lostSince

/-- R427 to R429, R432: the write ports, the sealing of a record, and the scan that makes the log ready. -/
def Sys2Proof.Claims.logRule : Prop :=
  ∀ s : State,
    (s.power.mode ≠ .off →
      (∀ (k : Fin 4) (ctrl : Reg32), let c := ctrl.toNat
        (ctrl.getLsbD 31 = false → ∃ t, exec (.alogWrite k ctrl) s = .next t ∧ t = { s with regs := t.regs }) ∧
        (ctrl.getLsbD 31 = true → field c 0 16 < 0x8000 ∨ 224 < field c 16 8 → ∃ t, exec (.alogWrite k ctrl) s = .next t ∧
          t = { s with regs := t.regs } ∧ t.regN (alogPort k 4) = 7) ∧
        (ctrl.getLsbD 31 = true → 0x8000 ≤ field c 0 16 → field c 16 8 ≤ 224 → s.alog.ready = true →
          (s.alog.queue.length < 64 → ∃ t, exec (.alogWrite k ctrl) s = .next t ∧ t.regN (alogPort k 4) = 0 ∧
            t = { s with regs := t.regs, alog := t.alog, rram := t.rram } ∧ t.alog.next = s.alog.next + 1 ∧ t.alog.lostSince = 0 ∧
            (s.alog.writing.isSome = true → t.alog.queue = s.alog.queue ++ [portRecord s k c]) ∧
            (s.alog.writing = none → s.alog.queue = [] → t.alog.writing = some (portRecord s k c) ∧ t.alog.queue = [])) ∧
          (64 ≤ s.alog.queue.length → ∃ t, exec (.alogWrite k ctrl) s = .next t ∧ t.regN (alogPort k 4) = 1 ∧
            t.alog = { s.alog with lostSince := s.alog.lostSince + 1 } ∧
            t.regN (alogBase + 8) = min 0xFFFFFFFF (s.regN (alogBase + 8) + 1) ∧
            (s.power.hub = true → t.dic.pend.getLsbD 34 = true)))) ∧
      (∀ lost : Word, s.alog.ready = false → ∃ t, exec (.logScan lost) s = .next t ∧ t = { s with alog := t.alog, rram := t.rram } ∧
        t.alog.ready = true ∧ t.alog.backlog = [] ∧ t.alog.next = nextSeq s.rram.ring + BitVec.ofNat 32 s.alog.backlog.length ∧
        (s.alog.backlog = [] → t.alog.lostSince = s.alog.lostSince + lost.toNat))) ∧
    (s.alog.writing = none → exec .recordSeal s = .next s) ∧
    (∀ r, s.alog.writing = some r → ∃ t, exec .recordSeal s = .next t ∧ t = { s with alog := t.alog, rram := t.rram } ∧
      (s.alog.queue = [] → t.alog.writing = none ∧ Sparse.get alogBlank t.rram.ring (recSeq r % 16384) = r) ∧
      (∀ r' q, s.alog.queue = r' :: q → t.alog.writing = some r' ∧ t.alog.queue = q ∧
        ∃ l, Sparse.get alogBlank t.rram.ring (recSeq r' % 16384) = l ++ List.replicate 4 0) ∧
      (∀ r' q, s.alog.queue = r' :: q → recSeq r' % 16384 ≠ recSeq r % 16384 →
        Sparse.get alogBlank t.rram.ring (recSeq r % 16384) = r))

/-- R421 to R429, R432: the NV registers and the Accession Log. -/
def Obligations.PersistenceCommands : Prop := nvRule ∧ logRule

/-! ### Pins, peripheral blocks, the monitor and the test access port -/

/-- What the writes `l` of one output or enable latch, each with its mask, leave in bit `i`, in the order they came. -/
def Sys2Proof.Claims.latchBit (l : List Reg32) (i : Nat) (old : Bool) : Bool :=
  l.foldl (fun b v => if v.getLsbD (16 + i) then v.getLsbD i else b) old

/-- R449: GPIO_OUT and GPIO_OE take masked writes, each bit under its own mask bit and no other bit changed; two writes take effect
in the order they come, and where their masks are disjoint the order makes no difference to the latch. -/
def Obligations.MaskedGpioWrites : Prop :=
  ∀ (b : Fin 3) (oe : Bool) (v w : Reg32) (l : List Instr) (s : State), s.blockUp b.val = true →
    let a := if oe then gpioOe b.val else gpioOut b.val
    let first : Reg32 → Reg32 → State := fun v w => { s with pending := .gpioOutWrite b oe v :: .gpioOutWrite b oe w :: l }
    (∃ t, exec (.gpioOutWrite b oe v) s = .next t ∧ ∀ i, i < 16 → (t.regN a).testBit i = latchBit [v] i ((s.regN a).testBit i)) ∧
    ∃ t u x y, step (first v w) = .next t ∧ step t = .next u ∧ u.pending = l ∧ step (first w v) = .next x ∧ step x = .next y ∧
      (∀ i, i < 16 → (u.regN a).testBit i = latchBit [v, w] i ((s.regN a).testBit i)) ∧
      ((∀ i, i < 16 → v.getLsbD (16 + i) = true → w.getLsbD (16 + i) = false) →
        ∀ i, i < 16 → (u.regN a).testBit i = (y.regN a).testBit i)

/-- R446 to R454: what a masked write of a bank's output or enable leaves, and drives; GPIO_EN and the owners it gives; a filtered level; the straps. -/
def Sys2Proof.Claims.gpioRule : Prop :=
  ∀ s : State,
    (∀ (b : Fin 3) (oe : Bool) (v : Reg32), s.blockUp b.val = true →
      let a := if oe then gpioOe b.val else gpioOut b.val
      ∃ t, exec (.gpioOutWrite b oe v) s = .next t ∧ t = { s with regs := t.regs, pins := t.pins } ∧
        (∀ c, canonReg c ≠ a → t.reg c = s.reg c) ∧
        (s.scanned = false → ∀ n, n < 48 → (s.pin n).owner = 0 → (s.pin n).switch = 0 → s.pinLogic n = true →
          (t.regN (gpioOe (n / 16))).testBit (n % 16) = true →
          (t.pin n).raw = (t.regN (gpioOut (n / 16))).testBit (n % 16))) ∧
    (∀ v : Reg32, s.power.mode ≠ .off → ∃ t, exec (.gpioEnWrite v) s = .next t ∧
      t = { s with regs := t.regs, pins := t.pins, dic := t.dic, keepers := t.keepers } ∧
      (∀ i, i < 20 → (t.regN gpioEn).testBit i =
        if s.power.hub || (aonBlocks).testBit i then v.getLsbD i else (s.regN gpioEn).testBit i) ∧
      ∀ n, n < 48 → let o := ownerOf (t.regN gpioEn) n
        t.pin n = if (s.pin n).owner = o then s.pin n else { s.pin n with owner := o, switch := 3, held := s.padDrive n }) ∧
    (∀ (n : Fin 48) (level : Bool), s.filterUp n.val = true → s.scanned = false → (s.pin n.val).switch = 0 →
      s.padDrive n.val = none ∨ s.padDrive n.val = some level →
      ∃ t, exec (.debounceChange n level) s = .next t ∧ t = { s with pins := t.pins, dic := t.dic, keepers := t.keepers } ∧
        t.pin n.val = { s.pin n.val with filt := level, raw := level, cnt := 0 } ∧
        (∀ m, m ≠ n.val → t.pin m = s.pin m) ∧ ((s.pin n.val).filt = level → t.dic = s.dic) ∧
        ((s.pin n.val).filt ≠ level → (s.pin n.val).owner = 0 → s.power.hub = true →
          s.pinIrq n.val = 3 ∨ s.pinIrq n.val = 1 ∧ level = true ∨ s.pinIrq n.val = 2 ∧ level = false →
          t.dic.pend.getLsbD (128 + n.val) = true)) ∧
    (∀ g9 g10 : Bool, s.power.mode ≠ .off →
      (s.clock.rootLock = true → s.periph.strapped = false → exec (.strapSample g9 g10) s = .next { s with periph := { s.periph with
        strapped := true, straps := BitVec.ofNat 2 (b2n (!g9) + 2 * b2n (!g10)) } }) ∧
      (s.clock.rootLock = false ∨ s.periph.strapped = true → exec (.strapSample g9 g10) s = .next s))

/-- R455, R457: the I2C, UART, TACH and LED blocks. -/
def Sys2Proof.Claims.blocksRule : Prop :=
  ∀ s : State,
    (∀ (i : Fin 4) (ctrl : Reg32), s.blockUp i.val = true → s.periph.i2cBusy.getLsbD i.val = false →
      ∃ t, exec (.i2cGo i ctrl) s = .next t ∧ t = { s with regs := t.regs, periph := t.periph, wire := t.wire } ∧
        (ctrl.getLsbD 31 = false → t.periph = s.periph ∧ t.wire = s.wire) ∧
        (ctrl.getLsbD 31 = true → t.periph = { s.periph with i2cBusy := s.periph.i2cBusy ||| (1#4 <<< i.val) } ∧
          t.wire = (if (s.regN gpioEn).testBit i.val ∧ s.scanned = false then [.i2c i (ctrl.setWidth 7) ((s.i2cBuf i.val).take
            (min 16 (field ctrl.toNat 8 5)))] else []) ++ s.wire)) ∧
    (∀ (i : Fin 4) (r : BitVec 3) (rx : List Byte), s.blockUp i.val = true → s.periph.i2cBusy.getLsbD i.val = true → r.toNat ≤ 3 →
      let l := rx.take (min 16 (field (s.regN (i2cAddr i.val 0)) 16 5))
      ∃ t, exec (.i2cDone i r rx) s = .next t ∧ t.periph.i2cBusy.getLsbD i.val = false ∧ t.periph.i2cResult[i.val] = r ∧
        t.i2cBuf i.val = (if r = 0 ∨ r = 3 then l ++ (s.i2cBuf i.val).drop l.length else s.i2cBuf i.val) ∧
        (s.power.hub = true → t.dic.pend.getLsbD (99 + i.val) = true) ∧
        t = { s with regs := t.regs, periph := t.periph, dic := t.dic, keepers := t.keepers }) ∧
    (∀ k : Fin 2, let tx := s.periph.uartTx[k.val]
      let rx := s.periph.uartRx[k.val]
      (s.blockUp k.val = true →
        (∀ b, tx.length < 16 → exec (.uartWrite k b) s =
          .next { s with periph := { s.periph with uartTx := s.periph.uartTx.set k.val (tx ++ [b]) } }) ∧
        (∀ b, 16 ≤ tx.length → exec (.uartWrite k b) s = .next s) ∧
        (∀ b q, rx = b :: q → ∃ t, exec (.uartRead k) s = .next t ∧ t.answer = BitVec.ofNat 64 (2 ^ 31 + b.toNat) ∧
          t.periph = { s.periph with uartRx := s.periph.uartRx.set k.val q } ∧
          t.dic.level.getLsbD (103 + k.val) = (!q.isEmpty || s.periph.uartOvr.getLsbD k.val) ∧
          t = { s with answer := t.answer, periph := t.periph, dic := t.dic, keepers := t.keepers }) ∧
        (rx = [] → exec (.uartRead k) s = .next { s with answer := 0 })) ∧
      (s.uartOn k = true →
        (∀ b, ∃ t, exec (.uartReceive k b) s = .next t ∧ t.dic.level.getLsbD (103 + k.val) = true ∧
          t = { s with periph := t.periph, dic := t.dic, keepers := t.keepers } ∧
          (rx.length < 16 → t.periph = { s.periph with uartRx := s.periph.uartRx.set k.val (rx ++ [b]) }) ∧
          (16 ≤ rx.length → t.periph = { s.periph with uartOvr := s.periph.uartOvr ||| (1#2 <<< k.val) })) ∧
        (∀ b q, tx = b :: q → exec (.uartTransmit k) s = .next { s with
          periph := { s.periph with uartTx := s.periph.uartTx.set k.val q }, wire := .uart k b :: s.wire }) ∧
        (tx = [] → exec (.uartTransmit k) s = .next s))) ∧
    (∀ (k : Fin 4) (us : Nat),
      (s.tachOn k = true → ∃ t, exec (.tachEdge k us) s = .next t ∧
        t = { s with periph := t.periph, dic := t.dic, keepers := t.keepers } ∧
        t.periph = { s.periph with
          tachLast := s.periph.tachLast.set k.val (us :: s.periph.tachLast[k.val].take 1)
          tachStall := s.periph.tachStall &&& ~~~(1#4 <<< k.val) } ∧ t.dic.level.getLsbD (105 + k.val) = false) ∧
      (s.blockUp k.val = true → ∃ t, exec (.tachStall k) s = .next t ∧
        t = { s with periph := t.periph, dic := t.dic, keepers := t.keepers } ∧
        t.periph = { s.periph with tachStall := s.periph.tachStall ||| (1#4 <<< k.val) } ∧
        t.dic.level.getLsbD (105 + k.val) = true)) ∧
    (∀ k : Fin 6, s.blockUp k.val = true → let src := field (s.regN (ledAddr k.val)) 0 3
      ∃ t, exec (.ledBlink k) s = .next t ∧ t = { s with periph := t.periph, pins := t.pins } ∧
        (∀ j : Fin 6, j ≠ k → t.periph.ledLit.getLsbD j.val = s.periph.ledLit.getLsbD j.val) ∧
        (src = 4 ∨ src = 5 → t.periph.ledLit.getLsbD k.val = !s.periph.ledLit.getLsbD k.val) ∧
        (src = 6 → t.periph.ledLit.getLsbD k.val = false))

/-- R231, R232, R234, R457 to R459: the monitor is enabled where its canvas list is sound; a commit takes effect at the vertical
blank; the plug and the training of the link. -/
def Sys2Proof.Claims.monitorRule : Prop :=
  ∀ s : State, s.power.hub = true → let m := s.monitor
    (m.en = true → exec .monitorEnable s = .next s) ∧
    (m.en = false → s.canvasOk = true → exec .monitorEnable s = .next { s with monitor := { m with en := true } }) ∧
    (m.en = false → s.canvasOk = false → ∃ t, exec .monitorEnable s = .next t ∧ t = { s with regs := t.regs } ∧
      (t.reg (monBase + 0x18)).getLsbD 2 = true) ∧
    exec .monCommit s = .next { s with monitor := { m with pending := true } } ∧
    (m.en = true → ∃ t, exec .monVblank s = .next t ∧ t = { s with monitor := t.monitor, dic := t.dic, keepers := t.keepers } ∧
      t.dic.pend.getLsbD 96 = true ∧ (m.pending = false → t.monitor = m) ∧
      (m.pending = true → t.monitor.pending = false ∧ ∀ n, n < 64 →
        Sparse.get (0, 0, 0) t.monitor.live n = s.tileShadow n ∧
        ∀ y, (n, y) ∈ t.monitor.written ↔ (n, y) ∈ m.written ∧ Sparse.get (0, 0, 0) m.live n = s.tileShadow n)) ∧
    (s.scanned = true → ∀ v, exec (.monHpd v) s = .next s) ∧
    (m.hpd = false → s.scanned = false → ∃ t, exec (.monHpd .high) s = .next t ∧ t.monitor = { m with hpd := true } ∧ t.dic.pend.getLsbD 97 = true ∧
      t = { s with monitor := t.monitor, dic := t.dic, keepers := t.keepers }) ∧
    (m.hpd = true → s.scanned = false → ∃ t, exec (.monHpd .low) s = .next t ∧ t.dic.pend.getLsbD 97 = true ∧
      t.monitor = { m with hpd := false, link := false, lanes := 0, rate := 0 } ∧
      t = { s with monitor := t.monitor, dic := t.dic, keepers := t.keepers }) ∧
    (m.hpd = true → s.scanned = false → ∀ lost, ∃ t, exec (.monHpd (.pulse lost)) s = .next t ∧ t.dic.pend.getLsbD 97 = true ∧
      t.monitor = (if lost then { m with link := false, lanes := 0, rate := 0 } else m) ∧
      t = { s with monitor := t.monitor, dic := t.dic, keepers := t.keepers }) ∧
    (∀ trains : List (Nat × Nat), m.en = true → m.hpd = true →
      let fits : Nat × Nat → Bool := fun e => decide (monNeed s.monMode * 10 ≤ e.1 * linkRate e.2 * 8) && trains.contains e
      (∀ e, linkSettings.find? fits = some e → exec (.linkTraining trains) s = .next { s with monitor := { m with
        link := true, lanes := if e.1 = 4 then 3 else BitVec.ofNat 2 e.1, rate := BitVec.ofNat 2 e.2 } }) ∧
      (linkSettings.find? fits = none → ∃ t, exec (.linkTraining trains) s = .next t ∧
        t.monitor = { m with link := false, lanes := 0, rate := 0 } ∧ (t.reg (monBase + 0x24)).getLsbD 8 = true ∧
        t.dic.pend.getLsbD 98 = true ∧
        t = { s with monitor := t.monitor, regs := t.regs, dic := t.dic, keepers := t.keepers }))

/-- An instruction that gives the pads to the boundary register: the device's logic keeps the levels it saw, and its pins do not
move. -/
def Sys2Proof.Claims.takesPads (i : Instr) (j : JtagInstr) (s : State) : Prop :=
  ∃ t, exec i s = .next t ∧ t = { s with jtag := t.jtag, answer := t.answer } ∧ t.jtag.instr = j ∧ t.jtag.bsr = s.jtag.bsr ∧
    t.jtag.frozen = if s.scanned then s.jtag.frozen else s.padLevels

/-- An instruction that leaves the pads to the device: each driven pad's level reaches its pin again. -/
def Sys2Proof.Claims.leavesPads (i : Instr) (j : JtagInstr) (s : State) (p : State → Prop) : Prop :=
  ∃ t, exec i s = .next t ∧ t = { s with jtag := t.jtag, answer := t.answer, pins := t.pins } ∧ t.jtag.instr = j ∧
    t.jtag.frozen = [] ∧ (∀ n v, n < 48 → t.padDrive n = some v → (t.pin n).raw = v) ∧ p t

/-- R417, R460, R461: the instructions of the test access port. -/
def Sys2Proof.Claims.testPortRule : Prop :=
  ∀ s : State, s.power.mode ≠ .off →
    leavesPads .bypass .bypass s (fun t => t.jtag.dr = 0) ∧
    leavesPads .idcode .idcode s (fun t => t.jtag.dr = 0x1516AA43 ∧ t.answer = 0x1516AA43) ∧
    (∀ l : List Bool, leavesPads (.samplePreload l) .samplePreload s (fun t =>
      t.jtag.bsr = l.take 52 ∧ t.answer = BitVec.ofNat 64 (levelBits s.padLevels))) ∧
    takesPads .extest .extest s ∧ takesPads .clamp .clamp s ∧ takesPads .highz .highz s ∧
    leavesPads .trstN .reset s (fun t => t.jtag = { instr := .reset, dr := 0, bsr := [], frozen := [] })

/-- R231, R232, R234, R417, R446 to R455, R457, R459 to R461: pins, peripheral blocks, the monitor and the test access port. -/
def Obligations.PinAndMonitorCommands : Prop := gpioRule ∧ blocksRule ∧ monitorRule ∧ testPortRule

/-! ### Registers with no row of their own -/

/-- Registers that a write only sets, by address, with the bits their tables give as RW (R8, R86, R110, R235, R331, R346, R404). -/
def Sys2Proof.Claims.setRegisters : List (Nat × BitVec 32) :=
  [(curBase + 0x10, 0xFFFFFF), (curBase + 0x20, 0xFFFF), (bscBase + 0x100, 0xFFFF), (clkBase + 0x04, 0xFF1F),
    (clkBase + 0x50, 0xFFFFFFFF), (clkBase + 0x58, 0x3FFFFFFF), (loamHdBase, 0xFFFF), (plnBase + 0x104, 0xFFFF),
    (plnBase + 0x108, 0xFFFFFF), (monBase + 0x04, 0xFFFFFF), (ethBase + 0x100, 0xFFFFFFFF), (ethBase + 0x104, 0xFFFF),
    (clsBase, 0xFFFF), (clsBase + 0x10, 0x3FFFF), (clsBase + 0x20, 0xFFFFFFFF), (clsBase + 0x410, 0xFFFFFFFF),
    (qmBase + 0x200, 0x3FFF), (qmBase + 0x204, 0xFFFFFFFF)]

/-- The interrupt registers a processor's store sets whole (R168). -/
def Sys2Proof.Claims.setInterrupts : List (Word × (Word → IntSt → IntSt)) :=
  [(0xFB01, fun v i => { i with en := v }), (0xFB02, fun v i => { i with lvl0 := v }), (0xFB03, fun v i => { i with lvl1 := v })]

/-- R8, R9, R168: a write of a register with no row of its own sets the bits its table gives as RW, and no other; a word of the I/O
window of a processor takes its store. -/
def Obligations.RegisterWrites : Prop :=
  ∀ s : State,
    (∀ (e : Nat × BitVec 32) (node : Byte) (v : Reg32), e ∈ setRegisters → s.regUp e.1 = true →
      ∃ t, exec (.registerWrite (.loam node (BitVec.ofNat 48 e.1) v)) s = .next t ∧ t = { s with regs := t.regs } ∧
        (∀ i, i < 32 → (t.reg e.1).getLsbD i = if e.2.getLsbD i then v.getLsbD i else (s.reg e.1).getLsbD i) ∧
        ∀ a, canonReg a ≠ e.1 → t.reg a = s.reg a) ∧
    (∀ (e : Word × (Word → IntSt → IntSt)) (v : Word), e ∈ setInterrupts →
      (∀ k : Fin 4, s.storeReady (.keeper k) = true → ∃ t, exec (.registerWrite (.io (.keeper k) e.1 v)) s = .next t ∧
        t = { s with keepers := t.keepers } ∧ t.keeper k = { s.keeper k with int := e.2 v (s.keeper k).int } ∧
        ∀ j, j ≠ k → t.keeper j = s.keeper j) ∧
      (∀ (c : CtxNo) x, s.storeReady (.session c) = true → s.ses c = some x →
        ∃ t, exec (.registerWrite (.io (.session c) e.1 v)) s = .next t ∧ t = { s with ctxs := t.ctxs } ∧
          t.ses c = some { x with int := e.2 v x.int } ∧ ∀ c', c' ≠ c → t.ctx c' = s.ctx c'))

/-! ### The whole block -/

/-- No command stops the block, and none touches the queue. -/
def Obligations.EveryCommandCompletes : Prop :=
  ∀ (i : Instr) (s : State), ∃ t, exec i s = .next t ∧ t.pending = s.pending

/-- The canonical form of memory and of its parity marks and the lengths of the record FIFOs are kept by every step (R103, R323,
R354, R371, R434). -/
def Obligations.SoundStateKept : Prop :=
  ∀ s t : State, s.Inv → step s = .next t → t.Inv

/-- R406, R417: what a supply reset leaves is a sound state: BEDROCK with cause 0x01, only AON powered, the timebase at 0, every context, title and flow
entry at its reset value, no frame allocated, no slot held; and the reset values of the registers of tables, of which some stand
here by address. -/
def Obligations.SoundStateAtReset : Prop :=
  State.reset.Inv ∧ State.reset.power.mode = .bedrock ∧ State.reset.power.cause = 1 ∧ State.reset.power.on = 0 ∧ State.reset.clock.time = 0 ∧
  (∀ c : CtxNo, (State.reset.ctx c).state = .free) ∧ (∀ n : BitVec 16, (State.reset.titleOf n).state = 0) ∧
  (∀ c : CtxNo, State.reset.flowEntry c = []) ∧ (∀ f, State.reset.frame f = FrameRec.free) ∧
  (∀ k, (State.reset.slot k).ctx = none) ∧ State.reset.pending = [] ∧
  ∀ e ∈ [(curBase + 0x008, 0x37B1A), (bscBase + 0x100, 0xFFFF), (clkBase + 0x004, 0x1400), (loamHdBase, 0x07D0),
    (clsBase, 0x5352), (gpioBase + 0x100, 0xD00), (monBase + 0x020, 1), (schBase + 0x18, 0x3C810A09), (strBase, 0x00160101)],
    State.reset.regN e.1 = e.2

/-- R332, R334, R335, R392, R422: with no command waiting a step is one cycle of the 384 MHz clock, once the root is locked: the timebase takes
its next increment, and three cycles add 512,000 units; the cycle that ends a utility tick ages queued NV writes and outstanding requests
(R392, R422); a powered Raster die's line engines count their 128 clocks (the model's
choice of what a step on an empty queue is: log entry 10). -/
def Obligations.ClockCycle : Prop :=
  ∀ s : State, s.pending = [] →
    (s.power.mode = .off ∨ s.clock.rootLock = false → step s = .next s) ∧
    (s.power.mode ≠ .off → s.clock.rootLock = true →
      (∃ t, step s = .next t ∧ t.pending = [] ∧ t.clock.rot = s.clock.rot + 1 ∧
        t.clock.time = (s.clock.time + if s.clock.rot = 2 then 170666 else 170667) % (2 ^ 48 * unitsPerSec) ∧
        t.clock.trim = s.clock.trim ∧ t.power = s.power ∧ t.ctxs = s.ctxs ∧ t.slots = s.slots ∧
        t.rram = { s.rram with nvQueue := if s.clock.sub = 383 then nvAge s.rram.nvQueue else s.rram.nvQueue } ∧
        t.loam = (if s.clock.sub = 383 then s.loam.map (fun q => { q with age := q.age + 1 }) else s.loam) ∧
        ∀ d, d < 2 → t.cnt (bookAddr d 0) = (s.cnt (bookAddr d 0) + if s.power.dieUp d then 128 else 0) % 2 ^ 64) ∧
      ∃ t u v, step s = .next t ∧ step t = .next u ∧ step u = .next v ∧ v.clock.rot = s.clock.rot ∧
        v.clock.time = (s.clock.time + 512000) % (2 ^ 48 * unitsPerSec))
end

