-- ==== Sys2Proof/Laws/Memory.lean ====
section
/-! SUPPORT. The laws of sparse tables and of memory: a read after a write, and that every memory operation keeps the
canonical form. -/

namespace Sys2Proof.Machine

variable {α : Type}

/-! ### The canonical form as a statement about the list -/

/-- Keys rise and no value is the default. -/
def Sparse.Canon (d : α) (m : Sparse α) : Prop := m.Pairwise (fun a b => a.1 < b.1) ∧ ∀ e ∈ m, e.2 ≠ d

theorem Sparse.sortedAbove_iff (m : Sparse α) : ∀ o : Option Nat,
    Sparse.sortedAbove o m = true ↔ (∀ b ∈ o, ∀ e ∈ m, b < e.1) ∧ m.Pairwise (fun a b => a.1 < b.1) := by
  induction m with
  | nil => intro o; cases o <;> simp [Sparse.sortedAbove]
  | cons e m ih =>
    obtain ⟨k, v⟩ := e
    intro o
    cases o with
    | none => simp [Sparse.sortedAbove, ih]
    | some b =>
      simp only [Sparse.sortedAbove, Bool.and_eq_true, decide_eq_true_eq, ih, Option.mem_def, Option.some.injEq,
        forall_eq', List.mem_cons, forall_eq_or_imp, List.pairwise_cons]
      constructor
      · rintro ⟨h1, h2, h3⟩; exact ⟨⟨h1, fun e he => lt_trans h1 (h2 e he)⟩, h2, h3⟩
      · rintro ⟨⟨h1, -⟩, h2, h3⟩; exact ⟨h1, h2, h3⟩

theorem Sparse.wf_iff [DecidableEq α] (d : α) (m : Sparse α) : Sparse.wf d m = true ↔ Sparse.Canon d m := by
  simp [Sparse.wf, Sparse.Canon, Sparse.sortedAbove_iff]

theorem Sparse.Canon.tail {d : α} {e : Nat × α} {m : Sparse α} (h : Sparse.Canon d (e :: m)) : Sparse.Canon d m :=
  ⟨(List.pairwise_cons.mp h.1).2, fun x hx => h.2 x (List.mem_cons_of_mem _ hx)⟩

theorem Sparse.Canon.filter {d : α} {m : Sparse α} (p : Nat × α → Bool) (h : Sparse.Canon d m) :
    Sparse.Canon d (m.filter p) :=
  ⟨h.1.filter _, fun x hx => h.2 x (List.mem_filter.mp hx).1⟩

theorem Sparse.erase_sublist (m : Sparse α) (k : Nat) : (Sparse.erase m k).Sublist m := by
  induction m with
  | nil => simp [Sparse.erase]
  | cons e m ih =>
    obtain ⟨k', v⟩ := e
    unfold Sparse.erase
    split
    · exact ih.cons _
    · exact ih.cons_cons _

theorem Sparse.Canon.erase {d : α} {m : Sparse α} (k : Nat) (h : Sparse.Canon d m) : Sparse.Canon d (Sparse.erase m k) :=
  ⟨h.1.sublist (Sparse.erase_sublist m k), fun x hx => h.2 x ((Sparse.erase_sublist m k).subset hx)⟩

theorem Sparse.mem_insert {m : Sparse α} {k : Nat} {v : α} {x : Nat × α} (h : x ∈ Sparse.insert m k v) :
    x = (k, v) ∨ x ∈ m := by
  induction m with
  | nil => simpa [Sparse.insert] using h
  | cons e m ih =>
    obtain ⟨k', v'⟩ := e
    unfold Sparse.insert at h
    split at h
    · rcases List.mem_cons.mp h with h | h
      · exact .inl h
      · exact .inr (List.mem_cons_of_mem _ h)
    · split at h
      · simpa using h
      · rcases List.mem_cons.mp h with h | h
        · exact .inr (by simp [h])
        · rcases ih h with h | h
          · exact .inl h
          · exact .inr (List.mem_cons_of_mem _ h)

theorem Sparse.Canon.insert {d : α} {m : Sparse α} {k : Nat} {v : α} (hv : v ≠ d) (h : Sparse.Canon d m) :
    Sparse.Canon d (Sparse.insert m k v) := by
  refine ⟨?_, fun x hx => ?_⟩
  · have h1 := h.1
    clear h hv
    induction m with
    | nil => simp [Sparse.insert]
    | cons e m ih =>
      obtain ⟨k', v'⟩ := e
      rw [List.pairwise_cons] at h1
      unfold Sparse.insert
      split
      · rename_i hk; subst hk; exact List.pairwise_cons.mpr h1
      · split
        · rename_i hk
          refine List.pairwise_cons.mpr ⟨fun a ha => ?_, List.pairwise_cons.mpr h1⟩
          rcases List.mem_cons.mp ha with ha | ha
          · subst ha; exact hk
          · exact lt_trans hk (h1.1 a ha)
        · rename_i hk1 hk2
          refine List.pairwise_cons.mpr ⟨fun a ha => ?_, ih h1.2⟩
          rcases Sparse.mem_insert ha with ha | ha
          · subst ha; simp only; omega
          · exact h1.1 a ha
  · rcases Sparse.mem_insert hx with hx | hx
    · subst hx; exact hv
    · exact h.2 x hx

theorem Sparse.Canon.set [DecidableEq α] {d : α} {m : Sparse α} (k : Nat) (v : α) (h : Sparse.Canon d m) :
    Sparse.Canon d (Sparse.set d m k v) := by
  unfold Sparse.set
  split
  · exact h.erase k
  · exact h.insert (by assumption)

theorem Sparse.Canon.foldl [DecidableEq α] {β : Type} {d : α} (f : Sparse α → β → Sparse α)
    (hf : ∀ m b, Sparse.Canon d m → Sparse.Canon d (f m b)) (l : List β) :
    ∀ m : Sparse α, Sparse.Canon d m → Sparse.Canon d (l.foldl f m) := by
  induction l with
  | nil => intro m h; exact h
  | cons b l ih => intro m h; exact ih _ (hf m b h)

/-! ### Reading after writing -/

theorem Sparse.get_insert {d : α} (m : Sparse α) (k : Nat) (v : α) (j : Nat) :
    Sparse.get d (Sparse.insert m k v) j = if j = k then v else Sparse.get d m j := by
  induction m with
  | nil => simp only [Sparse.insert, Sparse.get, eq_comm]
  | cons e m ih =>
    obtain ⟨k', v'⟩ := e
    by_cases hj : j = k
    · subst hj
      simp only [if_true] at ih ⊢
      unfold Sparse.insert
      split
      · simp [Sparse.get]
      · split
        · simp [Sparse.get]
        · rename_i h _; simp [Sparse.get, h, ih]
    · simp only [hj, if_false] at ih ⊢
      unfold Sparse.insert
      split
      · rename_i h; subst h; simp [Sparse.get, Ne.symm hj]
      · split
        · simp [Sparse.get, Ne.symm hj]
        · simp [Sparse.get, ih]

theorem Sparse.get_erase {d : α} (m : Sparse α) (k j : Nat) :
    Sparse.get d (Sparse.erase m k) j = if j = k then d else Sparse.get d m j := by
  induction m with
  | nil => simp [Sparse.erase, Sparse.get]
  | cons e m ih =>
    obtain ⟨k', v'⟩ := e
    unfold Sparse.erase
    split
    · rename_i h
      subst h
      rw [ih]
      by_cases hj : j = k'
      · simp [hj]
      · simp [hj, Sparse.get, Ne.symm hj]
    · rename_i h
      by_cases hj : j = k
      · subst hj; simpa [Sparse.get, h] using ih
      · simp [Sparse.get, ih, hj]

/-- A read after a write: the value written at its key, what was there everywhere else. -/
theorem Sparse.get_set [DecidableEq α] {d : α} (m : Sparse α) (k : Nat) (v : α) (j : Nat) :
    Sparse.get d (Sparse.set d m k v) j = if j = k then v else Sparse.get d m j := by
  unfold Sparse.set
  split
  · subst_vars; exact Sparse.get_erase m k j
  · exact Sparse.get_insert m k v j

/-! ### Memory -/

theorem memWf_iff (m : List Host.Cell) : memWf m = true ↔ Sparse.Canon (0 : Byte) m := Sparse.wf_iff 0 m

theorem memWf_nil : memWf [] = true := rfl

theorem memWf_memSet {m : List Host.Cell} (a : Nat) (b : Byte) (h : memWf m = true) : memWf (memSet m a b) = true := by
  rw [memWf_iff] at *; exact h.set a b

theorem memWf_memWrite (l : List Byte) : ∀ {m : List Host.Cell} (a : Nat), memWf m = true →
    memWf (memWrite m a l) = true := by
  induction l with
  | nil => intro m a h; exact h
  | cons b l ih => intro m a h; exact ih _ (memWf_memSet a b h)

theorem memWf_memSetWord {m : List Host.Cell} (a : Nat) (v : Word) (h : memWf m = true) :
    memWf (memSetWord m a v) = true := memWf_memSet _ _ (memWf_memSet _ _ h)

theorem memWf_foldl {β : Type} {f : List Host.Cell → β → List Host.Cell}
    (hf : ∀ m b, memWf m = true → memWf (f m b) = true) (l : List β) :
    ∀ {m : List Host.Cell}, memWf m = true → memWf (l.foldl f m) = true := by
  induction l with
  | nil => intro m h; exact h
  | cons b l ih => intro m h; exact ih (hf m b h)

theorem memWf_memClearFrame {m : List Host.Cell} (f : Nat) (h : memWf m = true) : memWf (memClearFrame m f) = true := by
  refine memWf_foldl (fun m c hm => ?_) _ h
  split
  · exact memWf_memSet _ _ hm
  · exact hm

theorem memWf_memCopyFrame {m : List Host.Cell} (src dst : Nat) (h : memWf m = true) :
    memWf (memCopyFrame m src dst) = true := by
  refine memWf_foldl (fun m c hm => ?_) _ (memWf_memClearFrame dst h)
  split
  · exact memWf_memSet _ _ hm
  · exact hm

theorem memWf_filter {m : List Host.Cell} (p : Host.Cell → Bool) (h : memWf m = true) : memWf (m.filter p) = true := by
  rw [memWf_iff] at *; exact h.filter p

theorem memByte_memSet (m : List Host.Cell) (a : Nat) (b : Byte) (j : Nat) :
    memByte (memSet m a b) j = if j = a then b else memByte m j := Sparse.get_set m a b j

theorem memByte_memWrite (l : List Byte) : ∀ (m : List Host.Cell) (a j : Nat),
    memByte (memWrite m a l) j = if a ≤ j ∧ j < a + l.length then l.getD (j - a) 0 else memByte m j := by
  induction l with
  | nil => intro m a j; simp only [memWrite, List.length_nil]; rw [if_neg (by omega)]
  | cons b l ih =>
    intro m a j
    rw [memWrite, ih, memByte_memSet]
    by_cases h1 : j = a
    · subst h1; simp
    · by_cases h2 : a + 1 ≤ j ∧ j < a + 1 + l.length
      · have h3 : a ≤ j ∧ j < a + (b :: l).length := by simp; omega
        obtain ⟨i, hi⟩ : ∃ i, j - a = i + 1 := ⟨j - a - 1, by omega⟩
        have h4 : j - (a + 1) = i := by omega
        rw [if_pos h2, if_pos h3, hi, h4]; simp
      · have h3 : ¬ (a ≤ j ∧ j < a + (b :: l).length) := by simp; omega
        rw [if_neg h2, if_neg h3, if_neg h1]

/-- Every byte outside a stored word reads as before. -/
theorem memByte_memSetWord (m : List Host.Cell) (a : Nat) (v : Word) (j : Nat) (hj : j ≠ a) (hj1 : j ≠ a + 1) :
    memByte (memSetWord m a v) j = memByte m j := by
  unfold memSetWord
  rw [memByte_memSet, if_neg hj1, memByte_memSet, if_neg hj]

/-- A stored word reads back. -/
theorem memWord_memSetWord (m : List Host.Cell) (a : Nat) (v : Word) : memWord (memSetWord m a v) a = v := by
  unfold memWord memSetWord
  rw [memByte_memSet, if_pos rfl, memByte_memSet, if_neg (by omega), memByte_memSet, if_pos rfl]
  apply BitVec.eq_of_toNat_eq
  rw [BitVec.toNat_append, ← Nat.shiftLeft_add_eq_or_of_lt (BitVec.isLt _), Nat.shiftLeft_eq]
  simp only [BitVec.toNat_ofNat]
  omega

end Sys2Proof.Machine
end

