-- ==== Sys2Proof/Laws/State.lean ====
section
/-! SUPPORT. What each update of the state leaves: one lemma for each field and update, so that no proof unfolds an
update, and what the accessors read after one. -/

namespace Sys2Proof.Machine

open Sys2Proof

variable (s : State)

/-! ### State.setReg -/

@[simp] theorem State.setReg_pending (a v : Nat) : (s.setReg a v).pending = s.pending := rfl
@[simp] theorem State.setReg_fresh (a v : Nat) : (s.setReg a v).fresh = s.fresh := rfl
@[simp] theorem State.setReg_wire (a v : Nat) : (s.setReg a v).wire = s.wire := rfl
@[simp] theorem State.setReg_answer (a v : Nat) : (s.setReg a v).answer = s.answer := rfl
@[simp] theorem State.setReg_part (a v : Nat) : (s.setReg a v).part = s.part := rfl
@[simp] theorem State.setReg_mem (a v : Nat) : (s.setReg a v).mem = s.mem := rfl
@[simp] theorem State.setReg_bad (a v : Nat) : (s.setReg a v).bad = s.bad := rfl
@[simp] theorem State.setReg_cnt64 (a v : Nat) : (s.setReg a v).cnt64 = s.cnt64 := rfl
@[simp] theorem State.setReg_latch (a v : Nat) : (s.setReg a v).latch = s.latch := rfl
@[simp] theorem State.setReg_entryLatch (a v : Nat) : (s.setReg a v).entryLatch = s.entryLatch := rfl
@[simp] theorem State.setReg_entryHold (a v : Nat) : (s.setReg a v).entryHold = s.entryHold := rfl
@[simp] theorem State.setReg_ctxs (a v : Nat) : (s.setReg a v).ctxs = s.ctxs := rfl
@[simp] theorem State.setReg_titles (a v : Nat) : (s.setReg a v).titles = s.titles := rfl
@[simp] theorem State.setReg_flows (a v : Nat) : (s.setReg a v).flows = s.flows := rfl
@[simp] theorem State.setReg_frames (a v : Nat) : (s.setReg a v).frames = s.frames := rfl
@[simp] theorem State.setReg_galleryOrder (a v : Nat) : (s.setReg a v).galleryOrder = s.galleryOrder := rfl
@[simp] theorem State.setReg_pageReqs (a v : Nat) : (s.setReg a v).pageReqs = s.pageReqs := rfl
@[simp] theorem State.setReg_images (a v : Nat) : (s.setReg a v).images = s.images := rfl
@[simp] theorem State.setReg_captured (a v : Nat) : (s.setReg a v).captured = s.captured := rfl
@[simp] theorem State.setReg_slots (a v : Nat) : (s.setReg a v).slots = s.slots := rfl
@[simp] theorem State.setReg_ports (a v : Nat) : (s.setReg a v).ports = s.ports := rfl
@[simp] theorem State.setReg_keepers (a v : Nat) : (s.setReg a v).keepers = s.keepers := rfl
@[simp] theorem State.setReg_claims (a v : Nat) : (s.setReg a v).claims = s.claims := rfl
@[simp] theorem State.setReg_dic (a v : Nat) : (s.setReg a v).dic = s.dic := rfl
@[simp] theorem State.setReg_power (a v : Nat) : (s.setReg a v).power = s.power := rfl
@[simp] theorem State.setReg_clock (a v : Nat) : (s.setReg a v).clock = s.clock := rfl
@[simp] theorem State.setReg_rram (a v : Nat) : (s.setReg a v).rram = s.rram := rfl
@[simp] theorem State.setReg_alog (a v : Nat) : (s.setReg a v).alog = s.alog := rfl
@[simp] theorem State.setReg_loam (a v : Nat) : (s.setReg a v).loam = s.loam := rfl
@[simp] theorem State.setReg_links (a v : Nat) : (s.setReg a v).links = s.links := rfl
@[simp] theorem State.setReg_credits (a v : Nat) : (s.setReg a v).credits = s.credits := rfl
@[simp] theorem State.setReg_plinth (a v : Nat) : (s.setReg a v).plinth = s.plinth := rfl
@[simp] theorem State.setReg_subports (a v : Nat) : (s.setReg a v).subports = s.subports := rfl
@[simp] theorem State.setReg_ktxReady (a v : Nat) : (s.setReg a v).ktxReady = s.ktxReady := rfl
@[simp] theorem State.setReg_pins (a v : Nat) : (s.setReg a v).pins = s.pins := rfl
@[simp] theorem State.setReg_periph (a v : Nat) : (s.setReg a v).periph = s.periph := rfl
@[simp] theorem State.setReg_monitor (a v : Nat) : (s.setReg a v).monitor = s.monitor := rfl
@[simp] theorem State.setReg_jtag (a v : Nat) : (s.setReg a v).jtag = s.jtag := rfl
@[simp] theorem State.setReg_boot (a v : Nat) : (s.setReg a v).boot = s.boot := rfl
@[simp] theorem State.setReg_client (a v : Nat) : (s.setReg a v).client = s.client := rfl
@[simp] theorem State.setReg_wakeFifo (a v : Nat) : (s.setReg a v).wakeFifo = s.wakeFifo := rfl
@[simp] theorem State.setReg_slipFifo (a v : Nat) : (s.setReg a v).slipFifo = s.slipFifo := rfl
@[simp] theorem State.setReg_haltFifo (a v : Nat) : (s.setReg a v).haltFifo = s.haltFifo := rfl
@[simp] theorem State.setReg_mbqFifo (a v : Nat) : (s.setReg a v).mbqFifo = s.mbqFifo := rfl
@[simp] theorem State.setReg_quarFifo (a v : Nat) : (s.setReg a v).quarFifo = s.quarFifo := rfl

/-! ### State.setCnt -/

@[simp] theorem State.setCnt_pending (a v : Nat) : (s.setCnt a v).pending = s.pending := rfl
@[simp] theorem State.setCnt_fresh (a v : Nat) : (s.setCnt a v).fresh = s.fresh := rfl
@[simp] theorem State.setCnt_wire (a v : Nat) : (s.setCnt a v).wire = s.wire := rfl
@[simp] theorem State.setCnt_answer (a v : Nat) : (s.setCnt a v).answer = s.answer := rfl
@[simp] theorem State.setCnt_part (a v : Nat) : (s.setCnt a v).part = s.part := rfl
@[simp] theorem State.setCnt_mem (a v : Nat) : (s.setCnt a v).mem = s.mem := rfl
@[simp] theorem State.setCnt_bad (a v : Nat) : (s.setCnt a v).bad = s.bad := rfl
@[simp] theorem State.setCnt_regs (a v : Nat) : (s.setCnt a v).regs = s.regs := rfl
@[simp] theorem State.setCnt_latch (a v : Nat) : (s.setCnt a v).latch = s.latch := rfl
@[simp] theorem State.setCnt_entryLatch (a v : Nat) : (s.setCnt a v).entryLatch = s.entryLatch := rfl
@[simp] theorem State.setCnt_entryHold (a v : Nat) : (s.setCnt a v).entryHold = s.entryHold := rfl
@[simp] theorem State.setCnt_ctxs (a v : Nat) : (s.setCnt a v).ctxs = s.ctxs := rfl
@[simp] theorem State.setCnt_titles (a v : Nat) : (s.setCnt a v).titles = s.titles := rfl
@[simp] theorem State.setCnt_flows (a v : Nat) : (s.setCnt a v).flows = s.flows := rfl
@[simp] theorem State.setCnt_frames (a v : Nat) : (s.setCnt a v).frames = s.frames := rfl
@[simp] theorem State.setCnt_galleryOrder (a v : Nat) : (s.setCnt a v).galleryOrder = s.galleryOrder := rfl
@[simp] theorem State.setCnt_pageReqs (a v : Nat) : (s.setCnt a v).pageReqs = s.pageReqs := rfl
@[simp] theorem State.setCnt_images (a v : Nat) : (s.setCnt a v).images = s.images := rfl
@[simp] theorem State.setCnt_captured (a v : Nat) : (s.setCnt a v).captured = s.captured := rfl
@[simp] theorem State.setCnt_slots (a v : Nat) : (s.setCnt a v).slots = s.slots := rfl
@[simp] theorem State.setCnt_ports (a v : Nat) : (s.setCnt a v).ports = s.ports := rfl
@[simp] theorem State.setCnt_keepers (a v : Nat) : (s.setCnt a v).keepers = s.keepers := rfl
@[simp] theorem State.setCnt_claims (a v : Nat) : (s.setCnt a v).claims = s.claims := rfl
@[simp] theorem State.setCnt_dic (a v : Nat) : (s.setCnt a v).dic = s.dic := rfl
@[simp] theorem State.setCnt_power (a v : Nat) : (s.setCnt a v).power = s.power := rfl
@[simp] theorem State.setCnt_clock (a v : Nat) : (s.setCnt a v).clock = s.clock := rfl
@[simp] theorem State.setCnt_rram (a v : Nat) : (s.setCnt a v).rram = s.rram := rfl
@[simp] theorem State.setCnt_alog (a v : Nat) : (s.setCnt a v).alog = s.alog := rfl
@[simp] theorem State.setCnt_loam (a v : Nat) : (s.setCnt a v).loam = s.loam := rfl
@[simp] theorem State.setCnt_links (a v : Nat) : (s.setCnt a v).links = s.links := rfl
@[simp] theorem State.setCnt_credits (a v : Nat) : (s.setCnt a v).credits = s.credits := rfl
@[simp] theorem State.setCnt_plinth (a v : Nat) : (s.setCnt a v).plinth = s.plinth := rfl
@[simp] theorem State.setCnt_subports (a v : Nat) : (s.setCnt a v).subports = s.subports := rfl
@[simp] theorem State.setCnt_ktxReady (a v : Nat) : (s.setCnt a v).ktxReady = s.ktxReady := rfl
@[simp] theorem State.setCnt_pins (a v : Nat) : (s.setCnt a v).pins = s.pins := rfl
@[simp] theorem State.setCnt_periph (a v : Nat) : (s.setCnt a v).periph = s.periph := rfl
@[simp] theorem State.setCnt_monitor (a v : Nat) : (s.setCnt a v).monitor = s.monitor := rfl
@[simp] theorem State.setCnt_jtag (a v : Nat) : (s.setCnt a v).jtag = s.jtag := rfl
@[simp] theorem State.setCnt_boot (a v : Nat) : (s.setCnt a v).boot = s.boot := rfl
@[simp] theorem State.setCnt_client (a v : Nat) : (s.setCnt a v).client = s.client := rfl
@[simp] theorem State.setCnt_wakeFifo (a v : Nat) : (s.setCnt a v).wakeFifo = s.wakeFifo := rfl
@[simp] theorem State.setCnt_slipFifo (a v : Nat) : (s.setCnt a v).slipFifo = s.slipFifo := rfl
@[simp] theorem State.setCnt_haltFifo (a v : Nat) : (s.setCnt a v).haltFifo = s.haltFifo := rfl
@[simp] theorem State.setCnt_mbqFifo (a v : Nat) : (s.setCnt a v).mbqFifo = s.mbqFifo := rfl
@[simp] theorem State.setCnt_quarFifo (a v : Nat) : (s.setCnt a v).quarFifo = s.quarFifo := rfl

/-! ### State.setCtx -/

@[simp] theorem State.setCtx_pending (c : CtxNo) (x : Context) : (s.setCtx c x).pending = s.pending := rfl
@[simp] theorem State.setCtx_fresh (c : CtxNo) (x : Context) : (s.setCtx c x).fresh = s.fresh := rfl
@[simp] theorem State.setCtx_wire (c : CtxNo) (x : Context) : (s.setCtx c x).wire = s.wire := rfl
@[simp] theorem State.setCtx_answer (c : CtxNo) (x : Context) : (s.setCtx c x).answer = s.answer := rfl
@[simp] theorem State.setCtx_part (c : CtxNo) (x : Context) : (s.setCtx c x).part = s.part := rfl
@[simp] theorem State.setCtx_mem (c : CtxNo) (x : Context) : (s.setCtx c x).mem = s.mem := rfl
@[simp] theorem State.setCtx_bad (c : CtxNo) (x : Context) : (s.setCtx c x).bad = s.bad := rfl
@[simp] theorem State.setCtx_regs (c : CtxNo) (x : Context) : (s.setCtx c x).regs = s.regs := rfl
@[simp] theorem State.setCtx_cnt64 (c : CtxNo) (x : Context) : (s.setCtx c x).cnt64 = s.cnt64 := rfl
@[simp] theorem State.setCtx_latch (c : CtxNo) (x : Context) : (s.setCtx c x).latch = s.latch := rfl
@[simp] theorem State.setCtx_entryLatch (c : CtxNo) (x : Context) : (s.setCtx c x).entryLatch = s.entryLatch := rfl
@[simp] theorem State.setCtx_entryHold (c : CtxNo) (x : Context) : (s.setCtx c x).entryHold = s.entryHold := rfl
@[simp] theorem State.setCtx_titles (c : CtxNo) (x : Context) : (s.setCtx c x).titles = s.titles := rfl
@[simp] theorem State.setCtx_flows (c : CtxNo) (x : Context) : (s.setCtx c x).flows = s.flows := rfl
@[simp] theorem State.setCtx_frames (c : CtxNo) (x : Context) : (s.setCtx c x).frames = s.frames := rfl
@[simp] theorem State.setCtx_galleryOrder (c : CtxNo) (x : Context) : (s.setCtx c x).galleryOrder = s.galleryOrder := rfl
@[simp] theorem State.setCtx_pageReqs (c : CtxNo) (x : Context) : (s.setCtx c x).pageReqs = s.pageReqs := rfl
@[simp] theorem State.setCtx_images (c : CtxNo) (x : Context) : (s.setCtx c x).images = s.images := rfl
@[simp] theorem State.setCtx_captured (c : CtxNo) (x : Context) : (s.setCtx c x).captured = s.captured := rfl
@[simp] theorem State.setCtx_slots (c : CtxNo) (x : Context) : (s.setCtx c x).slots = s.slots := rfl
@[simp] theorem State.setCtx_ports (c : CtxNo) (x : Context) : (s.setCtx c x).ports = s.ports := rfl
@[simp] theorem State.setCtx_keepers (c : CtxNo) (x : Context) : (s.setCtx c x).keepers = s.keepers := rfl
@[simp] theorem State.setCtx_claims (c : CtxNo) (x : Context) : (s.setCtx c x).claims = s.claims := rfl
@[simp] theorem State.setCtx_dic (c : CtxNo) (x : Context) : (s.setCtx c x).dic = s.dic := rfl
@[simp] theorem State.setCtx_power (c : CtxNo) (x : Context) : (s.setCtx c x).power = s.power := rfl
@[simp] theorem State.setCtx_clock (c : CtxNo) (x : Context) : (s.setCtx c x).clock = s.clock := rfl
@[simp] theorem State.setCtx_rram (c : CtxNo) (x : Context) : (s.setCtx c x).rram = s.rram := rfl
@[simp] theorem State.setCtx_alog (c : CtxNo) (x : Context) : (s.setCtx c x).alog = s.alog := rfl
@[simp] theorem State.setCtx_loam (c : CtxNo) (x : Context) : (s.setCtx c x).loam = s.loam := rfl
@[simp] theorem State.setCtx_links (c : CtxNo) (x : Context) : (s.setCtx c x).links = s.links := rfl
@[simp] theorem State.setCtx_credits (c : CtxNo) (x : Context) : (s.setCtx c x).credits = s.credits := rfl
@[simp] theorem State.setCtx_plinth (c : CtxNo) (x : Context) : (s.setCtx c x).plinth = s.plinth := rfl
@[simp] theorem State.setCtx_subports (c : CtxNo) (x : Context) : (s.setCtx c x).subports = s.subports := rfl
@[simp] theorem State.setCtx_ktxReady (c : CtxNo) (x : Context) : (s.setCtx c x).ktxReady = s.ktxReady := rfl
@[simp] theorem State.setCtx_pins (c : CtxNo) (x : Context) : (s.setCtx c x).pins = s.pins := rfl
@[simp] theorem State.setCtx_periph (c : CtxNo) (x : Context) : (s.setCtx c x).periph = s.periph := rfl
@[simp] theorem State.setCtx_monitor (c : CtxNo) (x : Context) : (s.setCtx c x).monitor = s.monitor := rfl
@[simp] theorem State.setCtx_jtag (c : CtxNo) (x : Context) : (s.setCtx c x).jtag = s.jtag := rfl
@[simp] theorem State.setCtx_boot (c : CtxNo) (x : Context) : (s.setCtx c x).boot = s.boot := rfl
@[simp] theorem State.setCtx_client (c : CtxNo) (x : Context) : (s.setCtx c x).client = s.client := rfl
@[simp] theorem State.setCtx_wakeFifo (c : CtxNo) (x : Context) : (s.setCtx c x).wakeFifo = s.wakeFifo := rfl
@[simp] theorem State.setCtx_slipFifo (c : CtxNo) (x : Context) : (s.setCtx c x).slipFifo = s.slipFifo := rfl
@[simp] theorem State.setCtx_haltFifo (c : CtxNo) (x : Context) : (s.setCtx c x).haltFifo = s.haltFifo := rfl
@[simp] theorem State.setCtx_mbqFifo (c : CtxNo) (x : Context) : (s.setCtx c x).mbqFifo = s.mbqFifo := rfl
@[simp] theorem State.setCtx_quarFifo (c : CtxNo) (x : Context) : (s.setCtx c x).quarFifo = s.quarFifo := rfl

/-! ### State.modCtx -/

@[simp] theorem State.modCtx_pending (c : CtxNo) (f : Context → Context) : (s.modCtx c f).pending = s.pending := rfl
@[simp] theorem State.modCtx_fresh (c : CtxNo) (f : Context → Context) : (s.modCtx c f).fresh = s.fresh := rfl
@[simp] theorem State.modCtx_wire (c : CtxNo) (f : Context → Context) : (s.modCtx c f).wire = s.wire := rfl
@[simp] theorem State.modCtx_answer (c : CtxNo) (f : Context → Context) : (s.modCtx c f).answer = s.answer := rfl
@[simp] theorem State.modCtx_part (c : CtxNo) (f : Context → Context) : (s.modCtx c f).part = s.part := rfl
@[simp] theorem State.modCtx_mem (c : CtxNo) (f : Context → Context) : (s.modCtx c f).mem = s.mem := rfl
@[simp] theorem State.modCtx_bad (c : CtxNo) (f : Context → Context) : (s.modCtx c f).bad = s.bad := rfl
@[simp] theorem State.modCtx_regs (c : CtxNo) (f : Context → Context) : (s.modCtx c f).regs = s.regs := rfl
@[simp] theorem State.modCtx_cnt64 (c : CtxNo) (f : Context → Context) : (s.modCtx c f).cnt64 = s.cnt64 := rfl
@[simp] theorem State.modCtx_latch (c : CtxNo) (f : Context → Context) : (s.modCtx c f).latch = s.latch := rfl
@[simp] theorem State.modCtx_entryLatch (c : CtxNo) (f : Context → Context) : (s.modCtx c f).entryLatch = s.entryLatch := rfl
@[simp] theorem State.modCtx_entryHold (c : CtxNo) (f : Context → Context) : (s.modCtx c f).entryHold = s.entryHold := rfl
@[simp] theorem State.modCtx_titles (c : CtxNo) (f : Context → Context) : (s.modCtx c f).titles = s.titles := rfl
@[simp] theorem State.modCtx_flows (c : CtxNo) (f : Context → Context) : (s.modCtx c f).flows = s.flows := rfl
@[simp] theorem State.modCtx_frames (c : CtxNo) (f : Context → Context) : (s.modCtx c f).frames = s.frames := rfl
@[simp] theorem State.modCtx_galleryOrder (c : CtxNo) (f : Context → Context) : (s.modCtx c f).galleryOrder = s.galleryOrder := rfl
@[simp] theorem State.modCtx_pageReqs (c : CtxNo) (f : Context → Context) : (s.modCtx c f).pageReqs = s.pageReqs := rfl
@[simp] theorem State.modCtx_images (c : CtxNo) (f : Context → Context) : (s.modCtx c f).images = s.images := rfl
@[simp] theorem State.modCtx_captured (c : CtxNo) (f : Context → Context) : (s.modCtx c f).captured = s.captured := rfl
@[simp] theorem State.modCtx_slots (c : CtxNo) (f : Context → Context) : (s.modCtx c f).slots = s.slots := rfl
@[simp] theorem State.modCtx_ports (c : CtxNo) (f : Context → Context) : (s.modCtx c f).ports = s.ports := rfl
@[simp] theorem State.modCtx_keepers (c : CtxNo) (f : Context → Context) : (s.modCtx c f).keepers = s.keepers := rfl
@[simp] theorem State.modCtx_claims (c : CtxNo) (f : Context → Context) : (s.modCtx c f).claims = s.claims := rfl
@[simp] theorem State.modCtx_dic (c : CtxNo) (f : Context → Context) : (s.modCtx c f).dic = s.dic := rfl
@[simp] theorem State.modCtx_power (c : CtxNo) (f : Context → Context) : (s.modCtx c f).power = s.power := rfl
@[simp] theorem State.modCtx_clock (c : CtxNo) (f : Context → Context) : (s.modCtx c f).clock = s.clock := rfl
@[simp] theorem State.modCtx_rram (c : CtxNo) (f : Context → Context) : (s.modCtx c f).rram = s.rram := rfl
@[simp] theorem State.modCtx_alog (c : CtxNo) (f : Context → Context) : (s.modCtx c f).alog = s.alog := rfl
@[simp] theorem State.modCtx_loam (c : CtxNo) (f : Context → Context) : (s.modCtx c f).loam = s.loam := rfl
@[simp] theorem State.modCtx_links (c : CtxNo) (f : Context → Context) : (s.modCtx c f).links = s.links := rfl
@[simp] theorem State.modCtx_credits (c : CtxNo) (f : Context → Context) : (s.modCtx c f).credits = s.credits := rfl
@[simp] theorem State.modCtx_plinth (c : CtxNo) (f : Context → Context) : (s.modCtx c f).plinth = s.plinth := rfl
@[simp] theorem State.modCtx_subports (c : CtxNo) (f : Context → Context) : (s.modCtx c f).subports = s.subports := rfl
@[simp] theorem State.modCtx_ktxReady (c : CtxNo) (f : Context → Context) : (s.modCtx c f).ktxReady = s.ktxReady := rfl
@[simp] theorem State.modCtx_pins (c : CtxNo) (f : Context → Context) : (s.modCtx c f).pins = s.pins := rfl
@[simp] theorem State.modCtx_periph (c : CtxNo) (f : Context → Context) : (s.modCtx c f).periph = s.periph := rfl
@[simp] theorem State.modCtx_monitor (c : CtxNo) (f : Context → Context) : (s.modCtx c f).monitor = s.monitor := rfl
@[simp] theorem State.modCtx_jtag (c : CtxNo) (f : Context → Context) : (s.modCtx c f).jtag = s.jtag := rfl
@[simp] theorem State.modCtx_boot (c : CtxNo) (f : Context → Context) : (s.modCtx c f).boot = s.boot := rfl
@[simp] theorem State.modCtx_client (c : CtxNo) (f : Context → Context) : (s.modCtx c f).client = s.client := rfl
@[simp] theorem State.modCtx_wakeFifo (c : CtxNo) (f : Context → Context) : (s.modCtx c f).wakeFifo = s.wakeFifo := rfl
@[simp] theorem State.modCtx_slipFifo (c : CtxNo) (f : Context → Context) : (s.modCtx c f).slipFifo = s.slipFifo := rfl
@[simp] theorem State.modCtx_haltFifo (c : CtxNo) (f : Context → Context) : (s.modCtx c f).haltFifo = s.haltFifo := rfl
@[simp] theorem State.modCtx_mbqFifo (c : CtxNo) (f : Context → Context) : (s.modCtx c f).mbqFifo = s.mbqFifo := rfl
@[simp] theorem State.modCtx_quarFifo (c : CtxNo) (f : Context → Context) : (s.modCtx c f).quarFifo = s.quarFifo := rfl

/-! ### State.modSes -/

@[simp] theorem State.modSes_pending (c : CtxNo) (f : Session → Session) : (s.modSes c f).pending = s.pending := rfl
@[simp] theorem State.modSes_fresh (c : CtxNo) (f : Session → Session) : (s.modSes c f).fresh = s.fresh := rfl
@[simp] theorem State.modSes_wire (c : CtxNo) (f : Session → Session) : (s.modSes c f).wire = s.wire := rfl
@[simp] theorem State.modSes_answer (c : CtxNo) (f : Session → Session) : (s.modSes c f).answer = s.answer := rfl
@[simp] theorem State.modSes_part (c : CtxNo) (f : Session → Session) : (s.modSes c f).part = s.part := rfl
@[simp] theorem State.modSes_mem (c : CtxNo) (f : Session → Session) : (s.modSes c f).mem = s.mem := rfl
@[simp] theorem State.modSes_bad (c : CtxNo) (f : Session → Session) : (s.modSes c f).bad = s.bad := rfl
@[simp] theorem State.modSes_regs (c : CtxNo) (f : Session → Session) : (s.modSes c f).regs = s.regs := rfl
@[simp] theorem State.modSes_cnt64 (c : CtxNo) (f : Session → Session) : (s.modSes c f).cnt64 = s.cnt64 := rfl
@[simp] theorem State.modSes_latch (c : CtxNo) (f : Session → Session) : (s.modSes c f).latch = s.latch := rfl
@[simp] theorem State.modSes_entryLatch (c : CtxNo) (f : Session → Session) : (s.modSes c f).entryLatch = s.entryLatch := rfl
@[simp] theorem State.modSes_entryHold (c : CtxNo) (f : Session → Session) : (s.modSes c f).entryHold = s.entryHold := rfl
@[simp] theorem State.modSes_titles (c : CtxNo) (f : Session → Session) : (s.modSes c f).titles = s.titles := rfl
@[simp] theorem State.modSes_flows (c : CtxNo) (f : Session → Session) : (s.modSes c f).flows = s.flows := rfl
@[simp] theorem State.modSes_frames (c : CtxNo) (f : Session → Session) : (s.modSes c f).frames = s.frames := rfl
@[simp] theorem State.modSes_galleryOrder (c : CtxNo) (f : Session → Session) : (s.modSes c f).galleryOrder = s.galleryOrder := rfl
@[simp] theorem State.modSes_pageReqs (c : CtxNo) (f : Session → Session) : (s.modSes c f).pageReqs = s.pageReqs := rfl
@[simp] theorem State.modSes_images (c : CtxNo) (f : Session → Session) : (s.modSes c f).images = s.images := rfl
@[simp] theorem State.modSes_captured (c : CtxNo) (f : Session → Session) : (s.modSes c f).captured = s.captured := rfl
@[simp] theorem State.modSes_slots (c : CtxNo) (f : Session → Session) : (s.modSes c f).slots = s.slots := rfl
@[simp] theorem State.modSes_ports (c : CtxNo) (f : Session → Session) : (s.modSes c f).ports = s.ports := rfl
@[simp] theorem State.modSes_keepers (c : CtxNo) (f : Session → Session) : (s.modSes c f).keepers = s.keepers := rfl
@[simp] theorem State.modSes_claims (c : CtxNo) (f : Session → Session) : (s.modSes c f).claims = s.claims := rfl
@[simp] theorem State.modSes_dic (c : CtxNo) (f : Session → Session) : (s.modSes c f).dic = s.dic := rfl
@[simp] theorem State.modSes_power (c : CtxNo) (f : Session → Session) : (s.modSes c f).power = s.power := rfl
@[simp] theorem State.modSes_clock (c : CtxNo) (f : Session → Session) : (s.modSes c f).clock = s.clock := rfl
@[simp] theorem State.modSes_rram (c : CtxNo) (f : Session → Session) : (s.modSes c f).rram = s.rram := rfl
@[simp] theorem State.modSes_alog (c : CtxNo) (f : Session → Session) : (s.modSes c f).alog = s.alog := rfl
@[simp] theorem State.modSes_loam (c : CtxNo) (f : Session → Session) : (s.modSes c f).loam = s.loam := rfl
@[simp] theorem State.modSes_links (c : CtxNo) (f : Session → Session) : (s.modSes c f).links = s.links := rfl
@[simp] theorem State.modSes_credits (c : CtxNo) (f : Session → Session) : (s.modSes c f).credits = s.credits := rfl
@[simp] theorem State.modSes_plinth (c : CtxNo) (f : Session → Session) : (s.modSes c f).plinth = s.plinth := rfl
@[simp] theorem State.modSes_subports (c : CtxNo) (f : Session → Session) : (s.modSes c f).subports = s.subports := rfl
@[simp] theorem State.modSes_ktxReady (c : CtxNo) (f : Session → Session) : (s.modSes c f).ktxReady = s.ktxReady := rfl
@[simp] theorem State.modSes_pins (c : CtxNo) (f : Session → Session) : (s.modSes c f).pins = s.pins := rfl
@[simp] theorem State.modSes_periph (c : CtxNo) (f : Session → Session) : (s.modSes c f).periph = s.periph := rfl
@[simp] theorem State.modSes_monitor (c : CtxNo) (f : Session → Session) : (s.modSes c f).monitor = s.monitor := rfl
@[simp] theorem State.modSes_jtag (c : CtxNo) (f : Session → Session) : (s.modSes c f).jtag = s.jtag := rfl
@[simp] theorem State.modSes_boot (c : CtxNo) (f : Session → Session) : (s.modSes c f).boot = s.boot := rfl
@[simp] theorem State.modSes_client (c : CtxNo) (f : Session → Session) : (s.modSes c f).client = s.client := rfl
@[simp] theorem State.modSes_wakeFifo (c : CtxNo) (f : Session → Session) : (s.modSes c f).wakeFifo = s.wakeFifo := rfl
@[simp] theorem State.modSes_slipFifo (c : CtxNo) (f : Session → Session) : (s.modSes c f).slipFifo = s.slipFifo := rfl
@[simp] theorem State.modSes_haltFifo (c : CtxNo) (f : Session → Session) : (s.modSes c f).haltFifo = s.haltFifo := rfl
@[simp] theorem State.modSes_mbqFifo (c : CtxNo) (f : Session → Session) : (s.modSes c f).mbqFifo = s.mbqFifo := rfl
@[simp] theorem State.modSes_quarFifo (c : CtxNo) (f : Session → Session) : (s.modSes c f).quarFifo = s.quarFifo := rfl

/-! ### State.setSlot -/

@[simp] theorem State.setSlot_pending (k : Nat) (x : SlotSt) : (s.setSlot k x).pending = s.pending := rfl
@[simp] theorem State.setSlot_fresh (k : Nat) (x : SlotSt) : (s.setSlot k x).fresh = s.fresh := rfl
@[simp] theorem State.setSlot_wire (k : Nat) (x : SlotSt) : (s.setSlot k x).wire = s.wire := rfl
@[simp] theorem State.setSlot_answer (k : Nat) (x : SlotSt) : (s.setSlot k x).answer = s.answer := rfl
@[simp] theorem State.setSlot_part (k : Nat) (x : SlotSt) : (s.setSlot k x).part = s.part := rfl
@[simp] theorem State.setSlot_mem (k : Nat) (x : SlotSt) : (s.setSlot k x).mem = s.mem := rfl
@[simp] theorem State.setSlot_bad (k : Nat) (x : SlotSt) : (s.setSlot k x).bad = s.bad := rfl
@[simp] theorem State.setSlot_regs (k : Nat) (x : SlotSt) : (s.setSlot k x).regs = s.regs := rfl
@[simp] theorem State.setSlot_cnt64 (k : Nat) (x : SlotSt) : (s.setSlot k x).cnt64 = s.cnt64 := rfl
@[simp] theorem State.setSlot_latch (k : Nat) (x : SlotSt) : (s.setSlot k x).latch = s.latch := rfl
@[simp] theorem State.setSlot_entryLatch (k : Nat) (x : SlotSt) : (s.setSlot k x).entryLatch = s.entryLatch := rfl
@[simp] theorem State.setSlot_entryHold (k : Nat) (x : SlotSt) : (s.setSlot k x).entryHold = s.entryHold := rfl
@[simp] theorem State.setSlot_ctxs (k : Nat) (x : SlotSt) : (s.setSlot k x).ctxs = s.ctxs := rfl
@[simp] theorem State.setSlot_titles (k : Nat) (x : SlotSt) : (s.setSlot k x).titles = s.titles := rfl
@[simp] theorem State.setSlot_flows (k : Nat) (x : SlotSt) : (s.setSlot k x).flows = s.flows := rfl
@[simp] theorem State.setSlot_frames (k : Nat) (x : SlotSt) : (s.setSlot k x).frames = s.frames := rfl
@[simp] theorem State.setSlot_galleryOrder (k : Nat) (x : SlotSt) : (s.setSlot k x).galleryOrder = s.galleryOrder := rfl
@[simp] theorem State.setSlot_pageReqs (k : Nat) (x : SlotSt) : (s.setSlot k x).pageReqs = s.pageReqs := rfl
@[simp] theorem State.setSlot_images (k : Nat) (x : SlotSt) : (s.setSlot k x).images = s.images := rfl
@[simp] theorem State.setSlot_captured (k : Nat) (x : SlotSt) : (s.setSlot k x).captured = s.captured := rfl
@[simp] theorem State.setSlot_ports (k : Nat) (x : SlotSt) : (s.setSlot k x).ports = s.ports := rfl
@[simp] theorem State.setSlot_keepers (k : Nat) (x : SlotSt) : (s.setSlot k x).keepers = s.keepers := rfl
@[simp] theorem State.setSlot_claims (k : Nat) (x : SlotSt) : (s.setSlot k x).claims = s.claims := rfl
@[simp] theorem State.setSlot_dic (k : Nat) (x : SlotSt) : (s.setSlot k x).dic = s.dic := rfl
@[simp] theorem State.setSlot_power (k : Nat) (x : SlotSt) : (s.setSlot k x).power = s.power := rfl
@[simp] theorem State.setSlot_clock (k : Nat) (x : SlotSt) : (s.setSlot k x).clock = s.clock := rfl
@[simp] theorem State.setSlot_rram (k : Nat) (x : SlotSt) : (s.setSlot k x).rram = s.rram := rfl
@[simp] theorem State.setSlot_alog (k : Nat) (x : SlotSt) : (s.setSlot k x).alog = s.alog := rfl
@[simp] theorem State.setSlot_loam (k : Nat) (x : SlotSt) : (s.setSlot k x).loam = s.loam := rfl
@[simp] theorem State.setSlot_links (k : Nat) (x : SlotSt) : (s.setSlot k x).links = s.links := rfl
@[simp] theorem State.setSlot_credits (k : Nat) (x : SlotSt) : (s.setSlot k x).credits = s.credits := rfl
@[simp] theorem State.setSlot_plinth (k : Nat) (x : SlotSt) : (s.setSlot k x).plinth = s.plinth := rfl
@[simp] theorem State.setSlot_subports (k : Nat) (x : SlotSt) : (s.setSlot k x).subports = s.subports := rfl
@[simp] theorem State.setSlot_ktxReady (k : Nat) (x : SlotSt) : (s.setSlot k x).ktxReady = s.ktxReady := rfl
@[simp] theorem State.setSlot_pins (k : Nat) (x : SlotSt) : (s.setSlot k x).pins = s.pins := rfl
@[simp] theorem State.setSlot_periph (k : Nat) (x : SlotSt) : (s.setSlot k x).periph = s.periph := rfl
@[simp] theorem State.setSlot_monitor (k : Nat) (x : SlotSt) : (s.setSlot k x).monitor = s.monitor := rfl
@[simp] theorem State.setSlot_jtag (k : Nat) (x : SlotSt) : (s.setSlot k x).jtag = s.jtag := rfl
@[simp] theorem State.setSlot_boot (k : Nat) (x : SlotSt) : (s.setSlot k x).boot = s.boot := rfl
@[simp] theorem State.setSlot_client (k : Nat) (x : SlotSt) : (s.setSlot k x).client = s.client := rfl
@[simp] theorem State.setSlot_wakeFifo (k : Nat) (x : SlotSt) : (s.setSlot k x).wakeFifo = s.wakeFifo := rfl
@[simp] theorem State.setSlot_slipFifo (k : Nat) (x : SlotSt) : (s.setSlot k x).slipFifo = s.slipFifo := rfl
@[simp] theorem State.setSlot_haltFifo (k : Nat) (x : SlotSt) : (s.setSlot k x).haltFifo = s.haltFifo := rfl
@[simp] theorem State.setSlot_mbqFifo (k : Nat) (x : SlotSt) : (s.setSlot k x).mbqFifo = s.mbqFifo := rfl
@[simp] theorem State.setSlot_quarFifo (k : Nat) (x : SlotSt) : (s.setSlot k x).quarFifo = s.quarFifo := rfl

/-! ### State.modSlot -/

@[simp] theorem State.modSlot_pending (k : Nat) (f : SlotSt → SlotSt) : (s.modSlot k f).pending = s.pending := rfl
@[simp] theorem State.modSlot_fresh (k : Nat) (f : SlotSt → SlotSt) : (s.modSlot k f).fresh = s.fresh := rfl
@[simp] theorem State.modSlot_wire (k : Nat) (f : SlotSt → SlotSt) : (s.modSlot k f).wire = s.wire := rfl
@[simp] theorem State.modSlot_answer (k : Nat) (f : SlotSt → SlotSt) : (s.modSlot k f).answer = s.answer := rfl
@[simp] theorem State.modSlot_part (k : Nat) (f : SlotSt → SlotSt) : (s.modSlot k f).part = s.part := rfl
@[simp] theorem State.modSlot_mem (k : Nat) (f : SlotSt → SlotSt) : (s.modSlot k f).mem = s.mem := rfl
@[simp] theorem State.modSlot_bad (k : Nat) (f : SlotSt → SlotSt) : (s.modSlot k f).bad = s.bad := rfl
@[simp] theorem State.modSlot_regs (k : Nat) (f : SlotSt → SlotSt) : (s.modSlot k f).regs = s.regs := rfl
@[simp] theorem State.modSlot_cnt64 (k : Nat) (f : SlotSt → SlotSt) : (s.modSlot k f).cnt64 = s.cnt64 := rfl
@[simp] theorem State.modSlot_latch (k : Nat) (f : SlotSt → SlotSt) : (s.modSlot k f).latch = s.latch := rfl
@[simp] theorem State.modSlot_entryLatch (k : Nat) (f : SlotSt → SlotSt) : (s.modSlot k f).entryLatch = s.entryLatch := rfl
@[simp] theorem State.modSlot_entryHold (k : Nat) (f : SlotSt → SlotSt) : (s.modSlot k f).entryHold = s.entryHold := rfl
@[simp] theorem State.modSlot_ctxs (k : Nat) (f : SlotSt → SlotSt) : (s.modSlot k f).ctxs = s.ctxs := rfl
@[simp] theorem State.modSlot_titles (k : Nat) (f : SlotSt → SlotSt) : (s.modSlot k f).titles = s.titles := rfl
@[simp] theorem State.modSlot_flows (k : Nat) (f : SlotSt → SlotSt) : (s.modSlot k f).flows = s.flows := rfl
@[simp] theorem State.modSlot_frames (k : Nat) (f : SlotSt → SlotSt) : (s.modSlot k f).frames = s.frames := rfl
@[simp] theorem State.modSlot_galleryOrder (k : Nat) (f : SlotSt → SlotSt) : (s.modSlot k f).galleryOrder = s.galleryOrder := rfl
@[simp] theorem State.modSlot_pageReqs (k : Nat) (f : SlotSt → SlotSt) : (s.modSlot k f).pageReqs = s.pageReqs := rfl
@[simp] theorem State.modSlot_images (k : Nat) (f : SlotSt → SlotSt) : (s.modSlot k f).images = s.images := rfl
@[simp] theorem State.modSlot_captured (k : Nat) (f : SlotSt → SlotSt) : (s.modSlot k f).captured = s.captured := rfl
@[simp] theorem State.modSlot_ports (k : Nat) (f : SlotSt → SlotSt) : (s.modSlot k f).ports = s.ports := rfl
@[simp] theorem State.modSlot_keepers (k : Nat) (f : SlotSt → SlotSt) : (s.modSlot k f).keepers = s.keepers := rfl
@[simp] theorem State.modSlot_claims (k : Nat) (f : SlotSt → SlotSt) : (s.modSlot k f).claims = s.claims := rfl
@[simp] theorem State.modSlot_dic (k : Nat) (f : SlotSt → SlotSt) : (s.modSlot k f).dic = s.dic := rfl
@[simp] theorem State.modSlot_power (k : Nat) (f : SlotSt → SlotSt) : (s.modSlot k f).power = s.power := rfl
@[simp] theorem State.modSlot_clock (k : Nat) (f : SlotSt → SlotSt) : (s.modSlot k f).clock = s.clock := rfl
@[simp] theorem State.modSlot_rram (k : Nat) (f : SlotSt → SlotSt) : (s.modSlot k f).rram = s.rram := rfl
@[simp] theorem State.modSlot_alog (k : Nat) (f : SlotSt → SlotSt) : (s.modSlot k f).alog = s.alog := rfl
@[simp] theorem State.modSlot_loam (k : Nat) (f : SlotSt → SlotSt) : (s.modSlot k f).loam = s.loam := rfl
@[simp] theorem State.modSlot_links (k : Nat) (f : SlotSt → SlotSt) : (s.modSlot k f).links = s.links := rfl
@[simp] theorem State.modSlot_credits (k : Nat) (f : SlotSt → SlotSt) : (s.modSlot k f).credits = s.credits := rfl
@[simp] theorem State.modSlot_plinth (k : Nat) (f : SlotSt → SlotSt) : (s.modSlot k f).plinth = s.plinth := rfl
@[simp] theorem State.modSlot_subports (k : Nat) (f : SlotSt → SlotSt) : (s.modSlot k f).subports = s.subports := rfl
@[simp] theorem State.modSlot_ktxReady (k : Nat) (f : SlotSt → SlotSt) : (s.modSlot k f).ktxReady = s.ktxReady := rfl
@[simp] theorem State.modSlot_pins (k : Nat) (f : SlotSt → SlotSt) : (s.modSlot k f).pins = s.pins := rfl
@[simp] theorem State.modSlot_periph (k : Nat) (f : SlotSt → SlotSt) : (s.modSlot k f).periph = s.periph := rfl
@[simp] theorem State.modSlot_monitor (k : Nat) (f : SlotSt → SlotSt) : (s.modSlot k f).monitor = s.monitor := rfl
@[simp] theorem State.modSlot_jtag (k : Nat) (f : SlotSt → SlotSt) : (s.modSlot k f).jtag = s.jtag := rfl
@[simp] theorem State.modSlot_boot (k : Nat) (f : SlotSt → SlotSt) : (s.modSlot k f).boot = s.boot := rfl
@[simp] theorem State.modSlot_client (k : Nat) (f : SlotSt → SlotSt) : (s.modSlot k f).client = s.client := rfl
@[simp] theorem State.modSlot_wakeFifo (k : Nat) (f : SlotSt → SlotSt) : (s.modSlot k f).wakeFifo = s.wakeFifo := rfl
@[simp] theorem State.modSlot_slipFifo (k : Nat) (f : SlotSt → SlotSt) : (s.modSlot k f).slipFifo = s.slipFifo := rfl
@[simp] theorem State.modSlot_haltFifo (k : Nat) (f : SlotSt → SlotSt) : (s.modSlot k f).haltFifo = s.haltFifo := rfl
@[simp] theorem State.modSlot_mbqFifo (k : Nat) (f : SlotSt → SlotSt) : (s.modSlot k f).mbqFifo = s.mbqFifo := rfl
@[simp] theorem State.modSlot_quarFifo (k : Nat) (f : SlotSt → SlotSt) : (s.modSlot k f).quarFifo = s.quarFifo := rfl

/-! ### State.modKeeper -/

@[simp] theorem State.modKeeper_pending (k : Fin 4) (f : Keeper → Keeper) : (s.modKeeper k f).pending = s.pending := rfl
@[simp] theorem State.modKeeper_fresh (k : Fin 4) (f : Keeper → Keeper) : (s.modKeeper k f).fresh = s.fresh := rfl
@[simp] theorem State.modKeeper_wire (k : Fin 4) (f : Keeper → Keeper) : (s.modKeeper k f).wire = s.wire := rfl
@[simp] theorem State.modKeeper_answer (k : Fin 4) (f : Keeper → Keeper) : (s.modKeeper k f).answer = s.answer := rfl
@[simp] theorem State.modKeeper_part (k : Fin 4) (f : Keeper → Keeper) : (s.modKeeper k f).part = s.part := rfl
@[simp] theorem State.modKeeper_mem (k : Fin 4) (f : Keeper → Keeper) : (s.modKeeper k f).mem = s.mem := rfl
@[simp] theorem State.modKeeper_bad (k : Fin 4) (f : Keeper → Keeper) : (s.modKeeper k f).bad = s.bad := rfl
@[simp] theorem State.modKeeper_regs (k : Fin 4) (f : Keeper → Keeper) : (s.modKeeper k f).regs = s.regs := rfl
@[simp] theorem State.modKeeper_cnt64 (k : Fin 4) (f : Keeper → Keeper) : (s.modKeeper k f).cnt64 = s.cnt64 := rfl
@[simp] theorem State.modKeeper_latch (k : Fin 4) (f : Keeper → Keeper) : (s.modKeeper k f).latch = s.latch := rfl
@[simp] theorem State.modKeeper_entryLatch (k : Fin 4) (f : Keeper → Keeper) : (s.modKeeper k f).entryLatch = s.entryLatch := rfl
@[simp] theorem State.modKeeper_entryHold (k : Fin 4) (f : Keeper → Keeper) : (s.modKeeper k f).entryHold = s.entryHold := rfl
@[simp] theorem State.modKeeper_ctxs (k : Fin 4) (f : Keeper → Keeper) : (s.modKeeper k f).ctxs = s.ctxs := rfl
@[simp] theorem State.modKeeper_titles (k : Fin 4) (f : Keeper → Keeper) : (s.modKeeper k f).titles = s.titles := rfl
@[simp] theorem State.modKeeper_flows (k : Fin 4) (f : Keeper → Keeper) : (s.modKeeper k f).flows = s.flows := rfl
@[simp] theorem State.modKeeper_frames (k : Fin 4) (f : Keeper → Keeper) : (s.modKeeper k f).frames = s.frames := rfl
@[simp] theorem State.modKeeper_galleryOrder (k : Fin 4) (f : Keeper → Keeper) : (s.modKeeper k f).galleryOrder = s.galleryOrder := rfl
@[simp] theorem State.modKeeper_pageReqs (k : Fin 4) (f : Keeper → Keeper) : (s.modKeeper k f).pageReqs = s.pageReqs := rfl
@[simp] theorem State.modKeeper_images (k : Fin 4) (f : Keeper → Keeper) : (s.modKeeper k f).images = s.images := rfl
@[simp] theorem State.modKeeper_captured (k : Fin 4) (f : Keeper → Keeper) : (s.modKeeper k f).captured = s.captured := rfl
@[simp] theorem State.modKeeper_slots (k : Fin 4) (f : Keeper → Keeper) : (s.modKeeper k f).slots = s.slots := rfl
@[simp] theorem State.modKeeper_ports (k : Fin 4) (f : Keeper → Keeper) : (s.modKeeper k f).ports = s.ports := rfl
@[simp] theorem State.modKeeper_claims (k : Fin 4) (f : Keeper → Keeper) : (s.modKeeper k f).claims = s.claims := rfl
@[simp] theorem State.modKeeper_dic (k : Fin 4) (f : Keeper → Keeper) : (s.modKeeper k f).dic = s.dic := rfl
@[simp] theorem State.modKeeper_power (k : Fin 4) (f : Keeper → Keeper) : (s.modKeeper k f).power = s.power := rfl
@[simp] theorem State.modKeeper_clock (k : Fin 4) (f : Keeper → Keeper) : (s.modKeeper k f).clock = s.clock := rfl
@[simp] theorem State.modKeeper_rram (k : Fin 4) (f : Keeper → Keeper) : (s.modKeeper k f).rram = s.rram := rfl
@[simp] theorem State.modKeeper_alog (k : Fin 4) (f : Keeper → Keeper) : (s.modKeeper k f).alog = s.alog := rfl
@[simp] theorem State.modKeeper_loam (k : Fin 4) (f : Keeper → Keeper) : (s.modKeeper k f).loam = s.loam := rfl
@[simp] theorem State.modKeeper_links (k : Fin 4) (f : Keeper → Keeper) : (s.modKeeper k f).links = s.links := rfl
@[simp] theorem State.modKeeper_credits (k : Fin 4) (f : Keeper → Keeper) : (s.modKeeper k f).credits = s.credits := rfl
@[simp] theorem State.modKeeper_plinth (k : Fin 4) (f : Keeper → Keeper) : (s.modKeeper k f).plinth = s.plinth := rfl
@[simp] theorem State.modKeeper_subports (k : Fin 4) (f : Keeper → Keeper) : (s.modKeeper k f).subports = s.subports := rfl
@[simp] theorem State.modKeeper_ktxReady (k : Fin 4) (f : Keeper → Keeper) : (s.modKeeper k f).ktxReady = s.ktxReady := rfl
@[simp] theorem State.modKeeper_pins (k : Fin 4) (f : Keeper → Keeper) : (s.modKeeper k f).pins = s.pins := rfl
@[simp] theorem State.modKeeper_periph (k : Fin 4) (f : Keeper → Keeper) : (s.modKeeper k f).periph = s.periph := rfl
@[simp] theorem State.modKeeper_monitor (k : Fin 4) (f : Keeper → Keeper) : (s.modKeeper k f).monitor = s.monitor := rfl
@[simp] theorem State.modKeeper_jtag (k : Fin 4) (f : Keeper → Keeper) : (s.modKeeper k f).jtag = s.jtag := rfl
@[simp] theorem State.modKeeper_boot (k : Fin 4) (f : Keeper → Keeper) : (s.modKeeper k f).boot = s.boot := rfl
@[simp] theorem State.modKeeper_client (k : Fin 4) (f : Keeper → Keeper) : (s.modKeeper k f).client = s.client := rfl
@[simp] theorem State.modKeeper_wakeFifo (k : Fin 4) (f : Keeper → Keeper) : (s.modKeeper k f).wakeFifo = s.wakeFifo := rfl
@[simp] theorem State.modKeeper_slipFifo (k : Fin 4) (f : Keeper → Keeper) : (s.modKeeper k f).slipFifo = s.slipFifo := rfl
@[simp] theorem State.modKeeper_haltFifo (k : Fin 4) (f : Keeper → Keeper) : (s.modKeeper k f).haltFifo = s.haltFifo := rfl
@[simp] theorem State.modKeeper_mbqFifo (k : Fin 4) (f : Keeper → Keeper) : (s.modKeeper k f).mbqFifo = s.mbqFifo := rfl
@[simp] theorem State.modKeeper_quarFifo (k : Fin 4) (f : Keeper → Keeper) : (s.modKeeper k f).quarFifo = s.quarFifo := rfl

/-! ### State.putFrame -/

@[simp] theorem State.putFrame_pending (f : Nat) (r : FrameRec) : (s.putFrame f r).pending = s.pending := rfl
@[simp] theorem State.putFrame_fresh (f : Nat) (r : FrameRec) : (s.putFrame f r).fresh = s.fresh := rfl
@[simp] theorem State.putFrame_wire (f : Nat) (r : FrameRec) : (s.putFrame f r).wire = s.wire := rfl
@[simp] theorem State.putFrame_answer (f : Nat) (r : FrameRec) : (s.putFrame f r).answer = s.answer := rfl
@[simp] theorem State.putFrame_part (f : Nat) (r : FrameRec) : (s.putFrame f r).part = s.part := rfl
@[simp] theorem State.putFrame_mem (f : Nat) (r : FrameRec) : (s.putFrame f r).mem = s.mem := rfl
@[simp] theorem State.putFrame_bad (f : Nat) (r : FrameRec) : (s.putFrame f r).bad = s.bad := rfl
@[simp] theorem State.putFrame_regs (f : Nat) (r : FrameRec) : (s.putFrame f r).regs = s.regs := rfl
@[simp] theorem State.putFrame_cnt64 (f : Nat) (r : FrameRec) : (s.putFrame f r).cnt64 = s.cnt64 := rfl
@[simp] theorem State.putFrame_latch (f : Nat) (r : FrameRec) : (s.putFrame f r).latch = s.latch := rfl
@[simp] theorem State.putFrame_entryLatch (f : Nat) (r : FrameRec) : (s.putFrame f r).entryLatch = s.entryLatch := rfl
@[simp] theorem State.putFrame_entryHold (f : Nat) (r : FrameRec) : (s.putFrame f r).entryHold = s.entryHold := rfl
@[simp] theorem State.putFrame_ctxs (f : Nat) (r : FrameRec) : (s.putFrame f r).ctxs = s.ctxs := rfl
@[simp] theorem State.putFrame_titles (f : Nat) (r : FrameRec) : (s.putFrame f r).titles = s.titles := rfl
@[simp] theorem State.putFrame_flows (f : Nat) (r : FrameRec) : (s.putFrame f r).flows = s.flows := rfl
@[simp] theorem State.putFrame_galleryOrder (f : Nat) (r : FrameRec) : (s.putFrame f r).galleryOrder = s.galleryOrder := rfl
@[simp] theorem State.putFrame_pageReqs (f : Nat) (r : FrameRec) : (s.putFrame f r).pageReqs = s.pageReqs := rfl
@[simp] theorem State.putFrame_images (f : Nat) (r : FrameRec) : (s.putFrame f r).images = s.images := rfl
@[simp] theorem State.putFrame_captured (f : Nat) (r : FrameRec) : (s.putFrame f r).captured = s.captured := rfl
@[simp] theorem State.putFrame_slots (f : Nat) (r : FrameRec) : (s.putFrame f r).slots = s.slots := rfl
@[simp] theorem State.putFrame_ports (f : Nat) (r : FrameRec) : (s.putFrame f r).ports = s.ports := rfl
@[simp] theorem State.putFrame_keepers (f : Nat) (r : FrameRec) : (s.putFrame f r).keepers = s.keepers := rfl
@[simp] theorem State.putFrame_claims (f : Nat) (r : FrameRec) : (s.putFrame f r).claims = s.claims := rfl
@[simp] theorem State.putFrame_dic (f : Nat) (r : FrameRec) : (s.putFrame f r).dic = s.dic := rfl
@[simp] theorem State.putFrame_power (f : Nat) (r : FrameRec) : (s.putFrame f r).power = s.power := rfl
@[simp] theorem State.putFrame_clock (f : Nat) (r : FrameRec) : (s.putFrame f r).clock = s.clock := rfl
@[simp] theorem State.putFrame_rram (f : Nat) (r : FrameRec) : (s.putFrame f r).rram = s.rram := rfl
@[simp] theorem State.putFrame_alog (f : Nat) (r : FrameRec) : (s.putFrame f r).alog = s.alog := rfl
@[simp] theorem State.putFrame_loam (f : Nat) (r : FrameRec) : (s.putFrame f r).loam = s.loam := rfl
@[simp] theorem State.putFrame_links (f : Nat) (r : FrameRec) : (s.putFrame f r).links = s.links := rfl
@[simp] theorem State.putFrame_credits (f : Nat) (r : FrameRec) : (s.putFrame f r).credits = s.credits := rfl
@[simp] theorem State.putFrame_plinth (f : Nat) (r : FrameRec) : (s.putFrame f r).plinth = s.plinth := rfl
@[simp] theorem State.putFrame_subports (f : Nat) (r : FrameRec) : (s.putFrame f r).subports = s.subports := rfl
@[simp] theorem State.putFrame_ktxReady (f : Nat) (r : FrameRec) : (s.putFrame f r).ktxReady = s.ktxReady := rfl
@[simp] theorem State.putFrame_pins (f : Nat) (r : FrameRec) : (s.putFrame f r).pins = s.pins := rfl
@[simp] theorem State.putFrame_periph (f : Nat) (r : FrameRec) : (s.putFrame f r).periph = s.periph := rfl
@[simp] theorem State.putFrame_monitor (f : Nat) (r : FrameRec) : (s.putFrame f r).monitor = s.monitor := rfl
@[simp] theorem State.putFrame_jtag (f : Nat) (r : FrameRec) : (s.putFrame f r).jtag = s.jtag := rfl
@[simp] theorem State.putFrame_boot (f : Nat) (r : FrameRec) : (s.putFrame f r).boot = s.boot := rfl
@[simp] theorem State.putFrame_client (f : Nat) (r : FrameRec) : (s.putFrame f r).client = s.client := rfl
@[simp] theorem State.putFrame_wakeFifo (f : Nat) (r : FrameRec) : (s.putFrame f r).wakeFifo = s.wakeFifo := rfl
@[simp] theorem State.putFrame_slipFifo (f : Nat) (r : FrameRec) : (s.putFrame f r).slipFifo = s.slipFifo := rfl
@[simp] theorem State.putFrame_haltFifo (f : Nat) (r : FrameRec) : (s.putFrame f r).haltFifo = s.haltFifo := rfl
@[simp] theorem State.putFrame_mbqFifo (f : Nat) (r : FrameRec) : (s.putFrame f r).mbqFifo = s.mbqFifo := rfl
@[simp] theorem State.putFrame_quarFifo (f : Nat) (r : FrameRec) : (s.putFrame f r).quarFifo = s.quarFifo := rfl

/-! ### State.send -/

@[simp] theorem State.send_pending (x : Sent) : (s.send x).pending = s.pending := rfl
@[simp] theorem State.send_fresh (x : Sent) : (s.send x).fresh = s.fresh := rfl
@[simp] theorem State.send_answer (x : Sent) : (s.send x).answer = s.answer := rfl
@[simp] theorem State.send_part (x : Sent) : (s.send x).part = s.part := rfl
@[simp] theorem State.send_mem (x : Sent) : (s.send x).mem = s.mem := rfl
@[simp] theorem State.send_bad (x : Sent) : (s.send x).bad = s.bad := rfl
@[simp] theorem State.send_regs (x : Sent) : (s.send x).regs = s.regs := rfl
@[simp] theorem State.send_cnt64 (x : Sent) : (s.send x).cnt64 = s.cnt64 := rfl
@[simp] theorem State.send_latch (x : Sent) : (s.send x).latch = s.latch := rfl
@[simp] theorem State.send_entryLatch (x : Sent) : (s.send x).entryLatch = s.entryLatch := rfl
@[simp] theorem State.send_entryHold (x : Sent) : (s.send x).entryHold = s.entryHold := rfl
@[simp] theorem State.send_ctxs (x : Sent) : (s.send x).ctxs = s.ctxs := rfl
@[simp] theorem State.send_titles (x : Sent) : (s.send x).titles = s.titles := rfl
@[simp] theorem State.send_flows (x : Sent) : (s.send x).flows = s.flows := rfl
@[simp] theorem State.send_frames (x : Sent) : (s.send x).frames = s.frames := rfl
@[simp] theorem State.send_galleryOrder (x : Sent) : (s.send x).galleryOrder = s.galleryOrder := rfl
@[simp] theorem State.send_pageReqs (x : Sent) : (s.send x).pageReqs = s.pageReqs := rfl
@[simp] theorem State.send_images (x : Sent) : (s.send x).images = s.images := rfl
@[simp] theorem State.send_captured (x : Sent) : (s.send x).captured = s.captured := rfl
@[simp] theorem State.send_slots (x : Sent) : (s.send x).slots = s.slots := rfl
@[simp] theorem State.send_ports (x : Sent) : (s.send x).ports = s.ports := rfl
@[simp] theorem State.send_keepers (x : Sent) : (s.send x).keepers = s.keepers := rfl
@[simp] theorem State.send_claims (x : Sent) : (s.send x).claims = s.claims := rfl
@[simp] theorem State.send_dic (x : Sent) : (s.send x).dic = s.dic := rfl
@[simp] theorem State.send_power (x : Sent) : (s.send x).power = s.power := rfl
@[simp] theorem State.send_clock (x : Sent) : (s.send x).clock = s.clock := rfl
@[simp] theorem State.send_rram (x : Sent) : (s.send x).rram = s.rram := rfl
@[simp] theorem State.send_alog (x : Sent) : (s.send x).alog = s.alog := rfl
@[simp] theorem State.send_loam (x : Sent) : (s.send x).loam = s.loam := rfl
@[simp] theorem State.send_links (x : Sent) : (s.send x).links = s.links := rfl
@[simp] theorem State.send_credits (x : Sent) : (s.send x).credits = s.credits := rfl
@[simp] theorem State.send_plinth (x : Sent) : (s.send x).plinth = s.plinth := rfl
@[simp] theorem State.send_subports (x : Sent) : (s.send x).subports = s.subports := rfl
@[simp] theorem State.send_ktxReady (x : Sent) : (s.send x).ktxReady = s.ktxReady := rfl
@[simp] theorem State.send_pins (x : Sent) : (s.send x).pins = s.pins := rfl
@[simp] theorem State.send_periph (x : Sent) : (s.send x).periph = s.periph := rfl
@[simp] theorem State.send_monitor (x : Sent) : (s.send x).monitor = s.monitor := rfl
@[simp] theorem State.send_jtag (x : Sent) : (s.send x).jtag = s.jtag := rfl
@[simp] theorem State.send_boot (x : Sent) : (s.send x).boot = s.boot := rfl
@[simp] theorem State.send_client (x : Sent) : (s.send x).client = s.client := rfl
@[simp] theorem State.send_wakeFifo (x : Sent) : (s.send x).wakeFifo = s.wakeFifo := rfl
@[simp] theorem State.send_slipFifo (x : Sent) : (s.send x).slipFifo = s.slipFifo := rfl
@[simp] theorem State.send_haltFifo (x : Sent) : (s.send x).haltFifo = s.haltFifo := rfl
@[simp] theorem State.send_mbqFifo (x : Sent) : (s.send x).mbqFifo = s.mbqFifo := rfl
@[simp] theorem State.send_quarFifo (x : Sent) : (s.send x).quarFifo = s.quarFifo := rfl

/-! ### State.reply -/

@[simp] theorem State.reply_pending (v : Nat) : (s.reply v).pending = s.pending := rfl
@[simp] theorem State.reply_fresh (v : Nat) : (s.reply v).fresh = s.fresh := rfl
@[simp] theorem State.reply_wire (v : Nat) : (s.reply v).wire = s.wire := rfl
@[simp] theorem State.reply_part (v : Nat) : (s.reply v).part = s.part := rfl
@[simp] theorem State.reply_mem (v : Nat) : (s.reply v).mem = s.mem := rfl
@[simp] theorem State.reply_bad (v : Nat) : (s.reply v).bad = s.bad := rfl
@[simp] theorem State.reply_regs (v : Nat) : (s.reply v).regs = s.regs := rfl
@[simp] theorem State.reply_cnt64 (v : Nat) : (s.reply v).cnt64 = s.cnt64 := rfl
@[simp] theorem State.reply_latch (v : Nat) : (s.reply v).latch = s.latch := rfl
@[simp] theorem State.reply_entryLatch (v : Nat) : (s.reply v).entryLatch = s.entryLatch := rfl
@[simp] theorem State.reply_entryHold (v : Nat) : (s.reply v).entryHold = s.entryHold := rfl
@[simp] theorem State.reply_ctxs (v : Nat) : (s.reply v).ctxs = s.ctxs := rfl
@[simp] theorem State.reply_titles (v : Nat) : (s.reply v).titles = s.titles := rfl
@[simp] theorem State.reply_flows (v : Nat) : (s.reply v).flows = s.flows := rfl
@[simp] theorem State.reply_frames (v : Nat) : (s.reply v).frames = s.frames := rfl
@[simp] theorem State.reply_galleryOrder (v : Nat) : (s.reply v).galleryOrder = s.galleryOrder := rfl
@[simp] theorem State.reply_pageReqs (v : Nat) : (s.reply v).pageReqs = s.pageReqs := rfl
@[simp] theorem State.reply_images (v : Nat) : (s.reply v).images = s.images := rfl
@[simp] theorem State.reply_captured (v : Nat) : (s.reply v).captured = s.captured := rfl
@[simp] theorem State.reply_slots (v : Nat) : (s.reply v).slots = s.slots := rfl
@[simp] theorem State.reply_ports (v : Nat) : (s.reply v).ports = s.ports := rfl
@[simp] theorem State.reply_keepers (v : Nat) : (s.reply v).keepers = s.keepers := rfl
@[simp] theorem State.reply_claims (v : Nat) : (s.reply v).claims = s.claims := rfl
@[simp] theorem State.reply_dic (v : Nat) : (s.reply v).dic = s.dic := rfl
@[simp] theorem State.reply_power (v : Nat) : (s.reply v).power = s.power := rfl
@[simp] theorem State.reply_clock (v : Nat) : (s.reply v).clock = s.clock := rfl
@[simp] theorem State.reply_rram (v : Nat) : (s.reply v).rram = s.rram := rfl
@[simp] theorem State.reply_alog (v : Nat) : (s.reply v).alog = s.alog := rfl
@[simp] theorem State.reply_loam (v : Nat) : (s.reply v).loam = s.loam := rfl
@[simp] theorem State.reply_links (v : Nat) : (s.reply v).links = s.links := rfl
@[simp] theorem State.reply_credits (v : Nat) : (s.reply v).credits = s.credits := rfl
@[simp] theorem State.reply_plinth (v : Nat) : (s.reply v).plinth = s.plinth := rfl
@[simp] theorem State.reply_subports (v : Nat) : (s.reply v).subports = s.subports := rfl
@[simp] theorem State.reply_ktxReady (v : Nat) : (s.reply v).ktxReady = s.ktxReady := rfl
@[simp] theorem State.reply_pins (v : Nat) : (s.reply v).pins = s.pins := rfl
@[simp] theorem State.reply_periph (v : Nat) : (s.reply v).periph = s.periph := rfl
@[simp] theorem State.reply_monitor (v : Nat) : (s.reply v).monitor = s.monitor := rfl
@[simp] theorem State.reply_jtag (v : Nat) : (s.reply v).jtag = s.jtag := rfl
@[simp] theorem State.reply_boot (v : Nat) : (s.reply v).boot = s.boot := rfl
@[simp] theorem State.reply_client (v : Nat) : (s.reply v).client = s.client := rfl
@[simp] theorem State.reply_wakeFifo (v : Nat) : (s.reply v).wakeFifo = s.wakeFifo := rfl
@[simp] theorem State.reply_slipFifo (v : Nat) : (s.reply v).slipFifo = s.slipFifo := rfl
@[simp] theorem State.reply_haltFifo (v : Nat) : (s.reply v).haltFifo = s.haltFifo := rfl
@[simp] theorem State.reply_mbqFifo (v : Nat) : (s.reply v).mbqFifo = s.mbqFifo := rfl
@[simp] theorem State.reply_quarFifo (v : Nat) : (s.reply v).quarFifo = s.quarFifo := rfl

/-! ### State.spend -/

@[simp] theorem State.spend_pending : (s.spend).pending = s.pending := rfl
@[simp] theorem State.spend_wire : (s.spend).wire = s.wire := rfl
@[simp] theorem State.spend_answer : (s.spend).answer = s.answer := rfl
@[simp] theorem State.spend_part : (s.spend).part = s.part := rfl
@[simp] theorem State.spend_mem : (s.spend).mem = s.mem := rfl
@[simp] theorem State.spend_bad : (s.spend).bad = s.bad := rfl
@[simp] theorem State.spend_regs : (s.spend).regs = s.regs := rfl
@[simp] theorem State.spend_cnt64 : (s.spend).cnt64 = s.cnt64 := rfl
@[simp] theorem State.spend_latch : (s.spend).latch = s.latch := rfl
@[simp] theorem State.spend_entryLatch : (s.spend).entryLatch = s.entryLatch := rfl
@[simp] theorem State.spend_entryHold : (s.spend).entryHold = s.entryHold := rfl
@[simp] theorem State.spend_ctxs : (s.spend).ctxs = s.ctxs := rfl
@[simp] theorem State.spend_titles : (s.spend).titles = s.titles := rfl
@[simp] theorem State.spend_flows : (s.spend).flows = s.flows := rfl
@[simp] theorem State.spend_frames : (s.spend).frames = s.frames := rfl
@[simp] theorem State.spend_galleryOrder : (s.spend).galleryOrder = s.galleryOrder := rfl
@[simp] theorem State.spend_pageReqs : (s.spend).pageReqs = s.pageReqs := rfl
@[simp] theorem State.spend_images : (s.spend).images = s.images := rfl
@[simp] theorem State.spend_captured : (s.spend).captured = s.captured := rfl
@[simp] theorem State.spend_slots : (s.spend).slots = s.slots := rfl
@[simp] theorem State.spend_ports : (s.spend).ports = s.ports := rfl
@[simp] theorem State.spend_keepers : (s.spend).keepers = s.keepers := rfl
@[simp] theorem State.spend_claims : (s.spend).claims = s.claims := rfl
@[simp] theorem State.spend_dic : (s.spend).dic = s.dic := rfl
@[simp] theorem State.spend_power : (s.spend).power = s.power := rfl
@[simp] theorem State.spend_clock : (s.spend).clock = s.clock := rfl
@[simp] theorem State.spend_rram : (s.spend).rram = s.rram := rfl
@[simp] theorem State.spend_alog : (s.spend).alog = s.alog := rfl
@[simp] theorem State.spend_loam : (s.spend).loam = s.loam := rfl
@[simp] theorem State.spend_links : (s.spend).links = s.links := rfl
@[simp] theorem State.spend_credits : (s.spend).credits = s.credits := rfl
@[simp] theorem State.spend_plinth : (s.spend).plinth = s.plinth := rfl
@[simp] theorem State.spend_subports : (s.spend).subports = s.subports := rfl
@[simp] theorem State.spend_ktxReady : (s.spend).ktxReady = s.ktxReady := rfl
@[simp] theorem State.spend_pins : (s.spend).pins = s.pins := rfl
@[simp] theorem State.spend_periph : (s.spend).periph = s.periph := rfl
@[simp] theorem State.spend_monitor : (s.spend).monitor = s.monitor := rfl
@[simp] theorem State.spend_jtag : (s.spend).jtag = s.jtag := rfl
@[simp] theorem State.spend_boot : (s.spend).boot = s.boot := rfl
@[simp] theorem State.spend_client : (s.spend).client = s.client := rfl
@[simp] theorem State.spend_wakeFifo : (s.spend).wakeFifo = s.wakeFifo := rfl
@[simp] theorem State.spend_slipFifo : (s.spend).slipFifo = s.slipFifo := rfl
@[simp] theorem State.spend_haltFifo : (s.spend).haltFifo = s.haltFifo := rfl
@[simp] theorem State.spend_mbqFifo : (s.spend).mbqFifo = s.mbqFifo := rfl
@[simp] theorem State.spend_quarFifo : (s.spend).quarFifo = s.quarFifo := rfl

/-! ### State.setBytes -/

@[simp] theorem State.setBytes_pending (a : Nat) (l : List Byte) : (s.setBytes a l).pending = s.pending := rfl
@[simp] theorem State.setBytes_fresh (a : Nat) (l : List Byte) : (s.setBytes a l).fresh = s.fresh := rfl
@[simp] theorem State.setBytes_wire (a : Nat) (l : List Byte) : (s.setBytes a l).wire = s.wire := rfl
@[simp] theorem State.setBytes_answer (a : Nat) (l : List Byte) : (s.setBytes a l).answer = s.answer := rfl
@[simp] theorem State.setBytes_part (a : Nat) (l : List Byte) : (s.setBytes a l).part = s.part := rfl
@[simp] theorem State.setBytes_regs (a : Nat) (l : List Byte) : (s.setBytes a l).regs = s.regs := rfl
@[simp] theorem State.setBytes_cnt64 (a : Nat) (l : List Byte) : (s.setBytes a l).cnt64 = s.cnt64 := rfl
@[simp] theorem State.setBytes_latch (a : Nat) (l : List Byte) : (s.setBytes a l).latch = s.latch := rfl
@[simp] theorem State.setBytes_entryLatch (a : Nat) (l : List Byte) : (s.setBytes a l).entryLatch = s.entryLatch := rfl
@[simp] theorem State.setBytes_entryHold (a : Nat) (l : List Byte) : (s.setBytes a l).entryHold = s.entryHold := rfl
@[simp] theorem State.setBytes_ctxs (a : Nat) (l : List Byte) : (s.setBytes a l).ctxs = s.ctxs := rfl
@[simp] theorem State.setBytes_titles (a : Nat) (l : List Byte) : (s.setBytes a l).titles = s.titles := rfl
@[simp] theorem State.setBytes_flows (a : Nat) (l : List Byte) : (s.setBytes a l).flows = s.flows := rfl
@[simp] theorem State.setBytes_frames (a : Nat) (l : List Byte) : (s.setBytes a l).frames = s.frames := rfl
@[simp] theorem State.setBytes_galleryOrder (a : Nat) (l : List Byte) : (s.setBytes a l).galleryOrder = s.galleryOrder := rfl
@[simp] theorem State.setBytes_pageReqs (a : Nat) (l : List Byte) : (s.setBytes a l).pageReqs = s.pageReqs := rfl
@[simp] theorem State.setBytes_images (a : Nat) (l : List Byte) : (s.setBytes a l).images = s.images := rfl
@[simp] theorem State.setBytes_captured (a : Nat) (l : List Byte) : (s.setBytes a l).captured = s.captured := rfl
@[simp] theorem State.setBytes_slots (a : Nat) (l : List Byte) : (s.setBytes a l).slots = s.slots := rfl
@[simp] theorem State.setBytes_ports (a : Nat) (l : List Byte) : (s.setBytes a l).ports = s.ports := rfl
@[simp] theorem State.setBytes_keepers (a : Nat) (l : List Byte) : (s.setBytes a l).keepers = s.keepers := rfl
@[simp] theorem State.setBytes_claims (a : Nat) (l : List Byte) : (s.setBytes a l).claims = s.claims := rfl
@[simp] theorem State.setBytes_dic (a : Nat) (l : List Byte) : (s.setBytes a l).dic = s.dic := rfl
@[simp] theorem State.setBytes_power (a : Nat) (l : List Byte) : (s.setBytes a l).power = s.power := rfl
@[simp] theorem State.setBytes_clock (a : Nat) (l : List Byte) : (s.setBytes a l).clock = s.clock := rfl
@[simp] theorem State.setBytes_rram (a : Nat) (l : List Byte) : (s.setBytes a l).rram = s.rram := rfl
@[simp] theorem State.setBytes_alog (a : Nat) (l : List Byte) : (s.setBytes a l).alog = s.alog := rfl
@[simp] theorem State.setBytes_loam (a : Nat) (l : List Byte) : (s.setBytes a l).loam = s.loam := rfl
@[simp] theorem State.setBytes_links (a : Nat) (l : List Byte) : (s.setBytes a l).links = s.links := rfl
@[simp] theorem State.setBytes_credits (a : Nat) (l : List Byte) : (s.setBytes a l).credits = s.credits := rfl
@[simp] theorem State.setBytes_plinth (a : Nat) (l : List Byte) : (s.setBytes a l).plinth = s.plinth := rfl
@[simp] theorem State.setBytes_subports (a : Nat) (l : List Byte) : (s.setBytes a l).subports = s.subports := rfl
@[simp] theorem State.setBytes_ktxReady (a : Nat) (l : List Byte) : (s.setBytes a l).ktxReady = s.ktxReady := rfl
@[simp] theorem State.setBytes_pins (a : Nat) (l : List Byte) : (s.setBytes a l).pins = s.pins := rfl
@[simp] theorem State.setBytes_periph (a : Nat) (l : List Byte) : (s.setBytes a l).periph = s.periph := rfl
@[simp] theorem State.setBytes_monitor (a : Nat) (l : List Byte) : (s.setBytes a l).monitor = s.monitor := rfl
@[simp] theorem State.setBytes_jtag (a : Nat) (l : List Byte) : (s.setBytes a l).jtag = s.jtag := rfl
@[simp] theorem State.setBytes_boot (a : Nat) (l : List Byte) : (s.setBytes a l).boot = s.boot := rfl
@[simp] theorem State.setBytes_client (a : Nat) (l : List Byte) : (s.setBytes a l).client = s.client := rfl
@[simp] theorem State.setBytes_wakeFifo (a : Nat) (l : List Byte) : (s.setBytes a l).wakeFifo = s.wakeFifo := rfl
@[simp] theorem State.setBytes_slipFifo (a : Nat) (l : List Byte) : (s.setBytes a l).slipFifo = s.slipFifo := rfl
@[simp] theorem State.setBytes_haltFifo (a : Nat) (l : List Byte) : (s.setBytes a l).haltFifo = s.haltFifo := rfl
@[simp] theorem State.setBytes_mbqFifo (a : Nat) (l : List Byte) : (s.setBytes a l).mbqFifo = s.mbqFifo := rfl
@[simp] theorem State.setBytes_quarFifo (a : Nat) (l : List Byte) : (s.setBytes a l).quarFifo = s.quarFifo := rfl

/-! ### State.modPort -/

@[simp] theorem State.modPort_pending (p : Fin 4) (f : Port → Port) : (s.modPort p f).pending = s.pending := rfl
@[simp] theorem State.modPort_fresh (p : Fin 4) (f : Port → Port) : (s.modPort p f).fresh = s.fresh := rfl
@[simp] theorem State.modPort_wire (p : Fin 4) (f : Port → Port) : (s.modPort p f).wire = s.wire := rfl
@[simp] theorem State.modPort_answer (p : Fin 4) (f : Port → Port) : (s.modPort p f).answer = s.answer := rfl
@[simp] theorem State.modPort_part (p : Fin 4) (f : Port → Port) : (s.modPort p f).part = s.part := rfl
@[simp] theorem State.modPort_mem (p : Fin 4) (f : Port → Port) : (s.modPort p f).mem = s.mem := rfl
@[simp] theorem State.modPort_bad (p : Fin 4) (f : Port → Port) : (s.modPort p f).bad = s.bad := rfl
@[simp] theorem State.modPort_regs (p : Fin 4) (f : Port → Port) : (s.modPort p f).regs = s.regs := rfl
@[simp] theorem State.modPort_cnt64 (p : Fin 4) (f : Port → Port) : (s.modPort p f).cnt64 = s.cnt64 := rfl
@[simp] theorem State.modPort_latch (p : Fin 4) (f : Port → Port) : (s.modPort p f).latch = s.latch := rfl
@[simp] theorem State.modPort_entryLatch (p : Fin 4) (f : Port → Port) : (s.modPort p f).entryLatch = s.entryLatch := rfl
@[simp] theorem State.modPort_entryHold (p : Fin 4) (f : Port → Port) : (s.modPort p f).entryHold = s.entryHold := rfl
@[simp] theorem State.modPort_ctxs (p : Fin 4) (f : Port → Port) : (s.modPort p f).ctxs = s.ctxs := rfl
@[simp] theorem State.modPort_titles (p : Fin 4) (f : Port → Port) : (s.modPort p f).titles = s.titles := rfl
@[simp] theorem State.modPort_flows (p : Fin 4) (f : Port → Port) : (s.modPort p f).flows = s.flows := rfl
@[simp] theorem State.modPort_frames (p : Fin 4) (f : Port → Port) : (s.modPort p f).frames = s.frames := rfl
@[simp] theorem State.modPort_galleryOrder (p : Fin 4) (f : Port → Port) : (s.modPort p f).galleryOrder = s.galleryOrder := rfl
@[simp] theorem State.modPort_pageReqs (p : Fin 4) (f : Port → Port) : (s.modPort p f).pageReqs = s.pageReqs := rfl
@[simp] theorem State.modPort_images (p : Fin 4) (f : Port → Port) : (s.modPort p f).images = s.images := rfl
@[simp] theorem State.modPort_captured (p : Fin 4) (f : Port → Port) : (s.modPort p f).captured = s.captured := rfl
@[simp] theorem State.modPort_slots (p : Fin 4) (f : Port → Port) : (s.modPort p f).slots = s.slots := rfl
@[simp] theorem State.modPort_keepers (p : Fin 4) (f : Port → Port) : (s.modPort p f).keepers = s.keepers := rfl
@[simp] theorem State.modPort_claims (p : Fin 4) (f : Port → Port) : (s.modPort p f).claims = s.claims := rfl
@[simp] theorem State.modPort_dic (p : Fin 4) (f : Port → Port) : (s.modPort p f).dic = s.dic := rfl
@[simp] theorem State.modPort_power (p : Fin 4) (f : Port → Port) : (s.modPort p f).power = s.power := rfl
@[simp] theorem State.modPort_clock (p : Fin 4) (f : Port → Port) : (s.modPort p f).clock = s.clock := rfl
@[simp] theorem State.modPort_rram (p : Fin 4) (f : Port → Port) : (s.modPort p f).rram = s.rram := rfl
@[simp] theorem State.modPort_alog (p : Fin 4) (f : Port → Port) : (s.modPort p f).alog = s.alog := rfl
@[simp] theorem State.modPort_loam (p : Fin 4) (f : Port → Port) : (s.modPort p f).loam = s.loam := rfl
@[simp] theorem State.modPort_links (p : Fin 4) (f : Port → Port) : (s.modPort p f).links = s.links := rfl
@[simp] theorem State.modPort_credits (p : Fin 4) (f : Port → Port) : (s.modPort p f).credits = s.credits := rfl
@[simp] theorem State.modPort_plinth (p : Fin 4) (f : Port → Port) : (s.modPort p f).plinth = s.plinth := rfl
@[simp] theorem State.modPort_subports (p : Fin 4) (f : Port → Port) : (s.modPort p f).subports = s.subports := rfl
@[simp] theorem State.modPort_ktxReady (p : Fin 4) (f : Port → Port) : (s.modPort p f).ktxReady = s.ktxReady := rfl
@[simp] theorem State.modPort_pins (p : Fin 4) (f : Port → Port) : (s.modPort p f).pins = s.pins := rfl
@[simp] theorem State.modPort_periph (p : Fin 4) (f : Port → Port) : (s.modPort p f).periph = s.periph := rfl
@[simp] theorem State.modPort_monitor (p : Fin 4) (f : Port → Port) : (s.modPort p f).monitor = s.monitor := rfl
@[simp] theorem State.modPort_jtag (p : Fin 4) (f : Port → Port) : (s.modPort p f).jtag = s.jtag := rfl
@[simp] theorem State.modPort_boot (p : Fin 4) (f : Port → Port) : (s.modPort p f).boot = s.boot := rfl
@[simp] theorem State.modPort_client (p : Fin 4) (f : Port → Port) : (s.modPort p f).client = s.client := rfl
@[simp] theorem State.modPort_wakeFifo (p : Fin 4) (f : Port → Port) : (s.modPort p f).wakeFifo = s.wakeFifo := rfl
@[simp] theorem State.modPort_slipFifo (p : Fin 4) (f : Port → Port) : (s.modPort p f).slipFifo = s.slipFifo := rfl
@[simp] theorem State.modPort_haltFifo (p : Fin 4) (f : Port → Port) : (s.modPort p f).haltFifo = s.haltFifo := rfl
@[simp] theorem State.modPort_mbqFifo (p : Fin 4) (f : Port → Port) : (s.modPort p f).mbqFifo = s.mbqFifo := rfl
@[simp] theorem State.modPort_quarFifo (p : Fin 4) (f : Port → Port) : (s.modPort p f).quarFifo = s.quarFifo := rfl

/-! ### What the accessors read -/

theorem State.reg_setReg (a v b : Nat) :
    (s.setReg a v).reg b = if canonReg b = canonReg a then BitVec.ofNat 32 v else s.reg b := by
  unfold State.setReg State.reg
  dsimp only
  by_cases h : canonReg b = canonReg a
  · rw [h, Sparse.get_set]
  · rw [if_neg h]
    unfold Sparse.set
    split
    · rw [Sparse.get_erase, if_neg h]
    · rw [Sparse.get_insert, if_neg h]

theorem State.ctx_modCtx (c c' : CtxNo) (f : Context → Context) :
    (s.modCtx c f).ctx c' = if c' = c then f (s.ctx c) else s.ctx c' := by
  unfold State.modCtx State.setCtx State.ctx
  dsimp only
  rw [Sparse.get_set]
  by_cases h : c' = c
  · simp [h]
  · have : c'.toNat ≠ c.toNat := fun e => h (BitVec.eq_of_toNat_eq e)
    simp [h, this]

theorem State.slot_setSlot (k j : Nat) (x : SlotSt) : (s.setSlot k x).slot j = if j = k then x else s.slot j := by
  unfold State.setSlot State.slot
  exact Sparse.get_set _ _ _ _

theorem State.slot_modSlot (k j : Nat) (f : SlotSt → SlotSt) :
    (s.modSlot k f).slot j = if j = k then f (s.slot k) else s.slot j := by
  unfold State.modSlot
  rw [State.slot_setSlot]

theorem State.frame_putFrame (f g : Nat) (r : FrameRec) : (s.putFrame f r).frame g = if g = f then r else s.frame g := by
  unfold State.putFrame State.frame
  exact Sparse.get_set _ _ _ _

theorem State.dicSettleOne_rest (k : Fin 4) : ∃ l, s.dicSettleOne k = { s with keepers := l } := ⟨_, rfl⟩

theorem State.dicSettle_rest : ∃ k, s.dicSettle = { s with keepers := k } := by
  unfold State.dicSettle
  obtain ⟨l0, h0⟩ := State.dicSettleOne_rest s 0
  rw [h0]
  obtain ⟨l1, h1⟩ := State.dicSettleOne_rest { s with keepers := l0 } 1
  rw [h1]
  obtain ⟨l2, h2⟩ := State.dicSettleOne_rest { s with keepers := l1 } 2
  rw [h2]
  obtain ⟨l3, h3⟩ := State.dicSettleOne_rest { s with keepers := l2 } 3
  rw [h3]
  exact ⟨l3, rfl⟩

theorem State.dicPend_rest (n : Nat) : s.dicPend n = { s with dic := (s.dicPend n).dic } := by
  unfold State.dicPend
  split <;> rfl

/-- A DIC source that is raised changes the DIC and the Keepers' pending lines alone. -/
theorem State.raiseP_rest (n : Nat) : ∃ d k, s.raiseP n = { s with dic := d, keepers := k } := by
  unfold State.raiseP
  split
  · obtain ⟨k, h⟩ := State.dicSettle_rest (s.dicPend n)
    rw [h, State.dicPend_rest]
    exact ⟨_, _, rfl⟩
  split
  · exact ⟨_, _, rfl⟩
  · exact ⟨_, _, rfl⟩

end Sys2Proof.Machine
end

