-- ==== Sys2Proof/Laws/Frames.lean ====
section
/-! SUPPORT. Taking frames of a pool: what it changes, and that it succeeds while the pool has room, whatever order the
free list has. -/

namespace Sys2Proof.Machine

variable {s t : State}

/-- What the taking of a frame reads besides the frames themselves is as it was. -/
structure PoolsKept (s t : State) : Prop where
  power : t.power = s.power
  regs : t.regs = s.regs
  part : t.part = s.part
  slots : t.slots = s.slots

theorem PoolsKept.refl (s : State) : PoolsKept s s := ⟨rfl, rfl, rfl, rfl⟩
theorem PoolsKept.trans {u : State} (h : PoolsKept s t) (k : PoolsKept t u) : PoolsKept s u :=
  ⟨k.power.trans h.power, k.regs.trans h.regs, k.part.trans h.part, k.slots.trans h.slots⟩

theorem PoolsKept.poolUsable (h : PoolsKept s t) (k : Nat) : t.poolUsable k = s.poolUsable k := by
  simp only [State.poolUsable, h.power]
theorem PoolsKept.poolListed (h : PoolsKept s t) (k : Nat) : t.poolListed k = s.poolListed k := by
  simp only [State.poolListed, h.power]
theorem PoolsKept.regN (h : PoolsKept s t) (a : Nat) : t.regN a = s.regN a := by
  simp only [State.regN, State.reg, h.regs]

/-- The frames of a pool that stream buffers hold. -/
def State.heldFrames (s : State) (k : Nat) : Nat := if k = 2 ∨ k = 3 then s.bufferFrames (k - 2) else 0
theorem State.heldFrames_vault {k : Nat} (vault : k < 2) : s.heldFrames k = 0 := if_neg (by omega)

theorem PoolsKept.heldFrames (h : PoolsKept s t) (k : Nat) : t.heldFrames k = s.heldFrames k := by
  simp only [State.heldFrames, State.bufferFrames, h.slots]
theorem PoolsKept.poolReserve (h : PoolsKept s t) (k : Nat) : t.poolReserve k = s.poolReserve k := by
  simp only [State.poolReserve, h.regN]

/-- The same, and no context changes, nor the order of the Gallery copies. -/
structure FramesOnly (s t : State) : Prop extends PoolsKept s t where
  ctxs : t.ctxs = s.ctxs
  galleryOrder : t.galleryOrder = s.galleryOrder

theorem FramesOnly.refl (s : State) : FramesOnly s s := ⟨.refl s, rfl, rfl⟩
theorem FramesOnly.trans {u : State} (h : FramesOnly s t) (k : FramesOnly t u) : FramesOnly s u :=
  ⟨h.toPoolsKept.trans k.toPoolsKept, k.ctxs.trans h.ctxs, k.galleryOrder.trans h.galleryOrder⟩

/-- A raised source changes the interrupt controller and the Keepers alone. -/
theorem State.raiseP_frames (n : Nat) (s : State) : FramesOnly s (s.raiseP n) ∧ (s.raiseP n).frames = s.frames := by
  have settle : ∀ (k : Fin 4) (z : State), FramesOnly z (z.dicSettleOne k) ∧ (z.dicSettleOne k).frames = z.frames :=
    fun _ _ => ⟨⟨⟨rfl, rfl, rfl, rfl⟩, rfl, rfl⟩, rfl⟩
  unfold State.raiseP
  split
  · have pend : FramesOnly s (s.dicPend n) ∧ (s.dicPend n).frames = s.frames := by
      unfold State.dicPend
      split
      · exact ⟨.refl s, rfl⟩
      · exact ⟨⟨⟨rfl, rfl, rfl, rfl⟩, rfl, rfl⟩, rfl⟩
    have z0 := settle 0 (s.dicPend n)
    have z1 := settle 1 ((s.dicPend n).dicSettleOne 0)
    have z2 := settle 2 (((s.dicPend n).dicSettleOne 0).dicSettleOne 1)
    have z3 := settle 3 ((((s.dicPend n).dicSettleOne 0).dicSettleOne 1).dicSettleOne 2)
    exact ⟨((((pend.1.trans z0.1).trans z1.1).trans z2.1).trans z3.1),
      z3.2.trans (z2.2.trans (z1.2.trans (z0.2.trans pend.2)))⟩
  · split
    · exact ⟨⟨⟨rfl, rfl, rfl, rfl⟩, rfl, rfl⟩, rfl⟩
    · exact ⟨.refl s, rfl⟩

theorem Sparse.length_erase {α : Type} (m : Sparse α) (k : Nat) : (Sparse.erase m k).length ≤ m.length :=
  (Sparse.erase_sublist m k).length_le

theorem Sparse.length_insert {α : Type} (k : Nat) (v : α) : ∀ m : Sparse α, (Sparse.insert m k v).length ≤ m.length + 1
  | [] => by simp [Sparse.insert]
  | (k', v') :: m => by
    have h := Sparse.length_insert k v m
    unfold Sparse.insert
    split
    · simp
    · split
      · simp
      · simpa using h

theorem Sparse.length_set {α : Type} [DecidableEq α] (d : α) (m : Sparse α) (k : Nat) (v : α) :
    (Sparse.set d m k v).length ≤ m.length + 1 := by
  unfold Sparse.set
  split
  · exact (Sparse.length_erase m k).trans (Nat.le_succ _)
  · exact Sparse.length_insert k v m

/-- A frame's record changes, and with it at most one entry is listed more. -/
theorem State.setFrame_frames (f : Nat) (r : FrameRec) (s : State) :
    FramesOnly s (s.setFrame f r) ∧ (s.setFrame f r).frames = Sparse.set FrameRec.free s.frames f r := by
  have raise : ∀ n, FramesOnly s ((s.putFrame f r).raiseP n) ∧
      ((s.putFrame f r).raiseP n).frames = Sparse.set FrameRec.free s.frames f r := fun n => by
    have h := State.raiseP_frames n (s.putFrame f r)
    exact ⟨FramesOnly.trans (t := s.putFrame f r) ⟨⟨rfl, rfl, rfl, rfl⟩, rfl, rfl⟩ h.1, h.2⟩
  unfold State.setFrame
  cases framePool s.part f with
  | none => exact ⟨⟨⟨rfl, rfl, rfl, rfl⟩, rfl, rfl⟩, rfl⟩
  | some k =>
    dsimp only
    split
    · split
      · exact raise (9 + k)
      · exact ⟨⟨⟨rfl, rfl, rfl, rfl⟩, rfl, rfl⟩, rfl⟩
    · exact ⟨⟨⟨rfl, rfl, rfl, rfl⟩, rfl, rfl⟩, rfl⟩

/-- An entry of a table that is not listed reads as the default. -/
theorem Sparse.mem_of_get_ne {α : Type} {d : α} {k : Nat} : ∀ {m : Sparse α}, Sparse.get d m k ≠ d → k ∈ m.map (·.1)
  | [], h => absurd rfl h
  | (k', v) :: m, h => by
    unfold Sparse.get at h
    split at h
    · rename_i e
      simp [e]
    · simpa using .inr (by simpa using Sparse.mem_of_get_ne h)

/-- Where no free frame is found, every place looked at is listed. -/
theorem State.seekFree_none {base n : Nat} : ∀ {fuel i : Nat}, s.seekFree base n fuel i = none →
    ∀ j, i ≤ j → j < i + fuel → base + j % n ∈ s.frames.map (·.1)
  | 0, _, _, _, hj, hk => by omega
  | fuel + 1, i, h, j, hj, hk => by
    unfold State.seekFree at h
    split at h
    · cases h
    · rename_i e
      rcases Nat.eq_or_lt_of_le hj with rfl | hlt
      · refine Sparse.mem_of_get_ne (d := FrameRec.free) (fun w => e ?_)
        show (Sparse.get FrameRec.free s.frames (base + i % n)).pool = 0
        rw [w]
        rfl
      · exact State.seekFree_none h j hlt (by omega)

/-- A free frame is found where the pool has more frames than the table lists. -/
theorem State.seekFree_some (base n i : Nat) (h : s.frames.length < n) :
    ∃ f, s.seekFree base n (s.frames.length + 1) i = some f := by
  by_contra hn
  have none : s.seekFree base n (s.frames.length + 1) i = none := by
    cases e : s.seekFree base n (s.frames.length + 1) i with
    | none => rfl
    | some f => exact absurd ⟨f, e⟩ hn
  have places : ((List.range (s.frames.length + 1)).map (fun j => base + (i + j) % n)).Nodup := by
    refine List.Nodup.map_on ?_ List.nodup_range
    intro a ha b hb e
    rw [List.mem_range] at ha hb
    have m : (i + a) % n = (i + b) % n := Nat.add_left_cancel e
    have : a % n = b % n := Nat.ModEq.add_left_cancel' i m
    rwa [Nat.mod_eq_of_lt (by omega), Nat.mod_eq_of_lt (by omega)] at this
  have listed : (List.range (s.frames.length + 1)).map (fun j => base + (i + j) % n) ⊆ s.frames.map (·.1) := by
    intro f hf
    obtain ⟨j, hj, rfl⟩ := List.mem_map.mp hf
    rw [List.mem_range] at hj
    exact State.seekFree_none none (i + j) (by omega) (by omega)
  have := (places.subperm listed).length_le
  simp at this

/-- A pool that is listed has at least its size less the frames listed and those of stream buffers free. -/
theorem State.freeCount_ge (k : Nat) (h : s.poolListed k = true) :
    poolSize s.part k ≤ s.freeCount k + s.frames.length + s.heldFrames k := by
  have split : ∀ l : List (Nat × FrameRec),
      (l.filter (fun e => framePool s.part e.1 == some k && e.2.pool.toNat == 1)).length +
      (l.filter (fun e => framePool s.part e.1 == some k && e.2.pool.toNat == 2)).length +
      (l.filter (fun e => framePool s.part e.1 == some k && e.2.pool.toNat == 3)).length ≤ l.length := by
    intro l
    induction l with
    | nil => simp
    | cons e l ih =>
      rcases e with ⟨f, r⟩
      cases hp : (framePool s.part f == some k) <;> simp only [hp, List.filter_cons, Bool.false_and, Bool.true_and,
        List.length_cons]
      · simpa using Nat.le_succ_of_le ih
      · by_cases h1 : r.pool.toNat = 1
        · simp [h1]; omega
        · by_cases h2 : r.pool.toNat = 2
          · simp [h2]; omega
          · by_cases h3 : r.pool.toNat = 3
            · simp [h3]; omega
            · simp [h1, h2, h3]; omega
  have := split s.frames
  unfold State.freeCount State.totalCount State.residentCount State.inflightCount State.retiredCount State.poolCount
  rw [if_pos h]
  unfold State.heldFrames
  omega

/-- A frame of a pool with room is taken; the table lists at most one entry more. -/
theorem State.takeFrame_some {k : Nat} (r : FrameRec) (h : s.poolListed k = true)
    (room : s.frames.length + s.heldFrames k < poolSize s.part k) :
    ∃ f t, s.takeFrame k r = some (f, t) ∧ FramesOnly s t ∧ t.frames.length ≤ s.frames.length + 1 := by
  have free : s.freeCount k ≠ 0 := by
    have := State.freeCount_ge k h
    omega
  obtain ⟨f, hf⟩ := State.seekFree_some (s := s) (poolBase s.part k) (poolSize s.part k)
    (Config.freeFrame k s.fresh % poolSize s.part k) (by omega)
  have next : s.nextFree k = some f := by
    unfold State.nextFree
    rw [if_neg free]
    exact hf
  have set := State.setFrame_frames f r s
  refine ⟨f, { (s.setFrame f r).spend with images := Sparse.erase s.images f }, ?_, set.1.trans ⟨⟨rfl, rfl, rfl, rfl⟩, rfl, rfl⟩, ?_⟩
  · unfold State.takeFrame
    rw [next]
    rfl
  · show (s.setFrame f r).frames.length ≤ _
    rw [set.2]
    exact Sparse.length_set _ _ _ _

/-- The die a home frame is taken on first: the slot's, or the one CUR_CFG names (R63). -/
def State.firstDie (s : State) (die : Option Nat) : Nat := die.getD (b2n ((s.regN curBase).testBit 0))

/-- A home frame is taken of the first die's Vault while it has more than its reserve. -/
theorem State.takeHome_some {die : Option Nat} {touch : Bool} (h : s.poolListed (s.firstDie die) = true)
    (vault : s.firstDie die < 2)
    (usable : s.poolUsable (s.firstDie die) = true)
    (room : s.poolReserve (s.firstDie die) + s.frames.length < poolSize s.part (s.firstDie die)) :
    ∃ f t, s.takeHome die touch = some (f, t) ∧ FramesOnly s t ∧ t.frames.length ≤ s.frames.length + 1 := by
  have above : (s.poolUsable (s.firstDie die) && decide (s.poolReserve (s.firstDie die) < s.freeCount (s.firstDie die))) = true := by
    have := State.freeCount_ge (s.firstDie die) h
    have held := State.heldFrames_vault (s := s) vault
    rw [usable, Bool.true_and, decide_eq_true_iff]
    omega
  have pool : s.homePool die touch = some (s.firstDie die) := by
    unfold State.homePool
    cases die with
    | none => exact if_pos above
    | some d => exact if_pos above
  obtain ⟨f, t, e, r⟩ := State.takeFrame_some FrameRec.page h (by rw [State.heldFrames_vault vault]; omega)
  exact ⟨f, t, by unfold State.takeHome; rw [pool]; exact e, r⟩

/-- An entry of a page map leaves the others. -/
theorem State.page_setPage_ne {c : CtxNo} {i j : Nat} {e : PageEntry} (h : j ≠ i) : (s.setPage c i e).page c j = s.page c j := by
  unfold State.page State.setPage
  rw [State.ctx_modCtx, if_pos rfl]
  show Sparse.get PageEntry.none (Sparse.set PageEntry.none _ i e) j = _
  rw [Sparse.get_set, if_neg h]
  rfl

/-- Pages of a context that is not admitted are taken, all of them, while the first die's Vault has room for them. -/
theorem State.takePages_some {die : Option Nat} (c : CtxNo) : ∀ (l : List Nat) {s : State},
    s.poolListed (s.firstDie die) = true → s.firstDie die < 2 → s.poolUsable (s.firstDie die) = true →
    s.poolReserve (s.firstDie die) + s.frames.length + l.length ≤ poolSize s.part (s.firstDie die) →
    ∃ t, s.takePages c die l = some t ∧ PoolsKept s t ∧ t.frames.length ≤ s.frames.length + l.length ∧
      ∀ i, i ∉ l → t.page c i = s.page c i
  | [], s, _, _, _, _ => ⟨s, rfl, .refl s, Nat.le_refl _, fun _ _ => rfl⟩
  | i :: l, s, h, vault, usable, room => by
    rw [List.length_cons] at room
    obtain ⟨f, t, e, k, n⟩ := State.takeHome_some (touch := false) h vault usable (by omega)
    let u := (t.clearFrame f).setPage c i { PageEntry.none with alloc := true, home := BitVec.ofNat 25 f }
    have ku : PoolsKept s u := k.toPoolsKept.trans ⟨rfl, rfl, rfl, rfl⟩
    have die' : u.firstDie die = s.firstDie die := by simp only [State.firstDie, ku.regN]
    have nu : u.frames.length ≤ s.frames.length + 1 := n
    obtain ⟨v, ev, kv, len, rest⟩ := State.takePages_some c l (s := u) (by rw [die', ku.poolListed]; exact h)
      (by rw [die']; exact vault) (by rw [die', ku.poolUsable]; exact usable) (by rw [die', ku.poolReserve, ku.part]; omega)
    refine ⟨v, ?_, ku.trans kv, by rw [List.length_cons]; omega, ?_⟩
    · unfold State.takePages
      rw [e]
      exact ev
    · intro j hj
      rw [List.mem_cons, not_or] at hj
      rw [rest j hj.2]
      exact (State.page_setPage_ne hj.1).trans (by simp only [State.page, State.ctx, State.clearFrame, k.ctxs])

/-- Pages that a context does not map are not taken out of its map. -/
theorem State.unmapPages_none {c : CtxNo} : ∀ (l : List Nat), (∀ i ∈ l, (s.page c i).alloc = false) →
    l.foldl (fun s i => s.unmapPage c i) s = s
  | [], _ => rfl
  | i :: l, h => by
    have e : s.unmapPage c i = s := by
      unfold State.unmapPage
      simp only [h i (List.mem_cons_self ..), Bool.false_eq_true, if_false]
    rw [List.foldl_cons, e]
    exact State.unmapPages_none l fun j hj => h j (List.mem_cons_of_mem _ hj)

theorem State.ctx_of_ctxs {c : CtxNo} (h : s.ctxs = t.ctxs) : s.ctx c = t.ctx c := by simp only [State.ctx, h]

/-- No frame or context changes where a slot's registers are cleared. -/
theorem State.clearSlotRegs_power (k : Nat) : (s.clearSlotRegs k).power = s.power := by
  simp only [State.clearSlotRegs, State.clearStall, State.setCnt, State.setReg, List.map, List.foldl]
theorem State.clearSlotRegs_part (k : Nat) : (s.clearSlotRegs k).part = s.part := by
  simp only [State.clearSlotRegs, State.clearStall, State.setCnt, State.setReg, List.map, List.foldl]
theorem State.clearSlotRegs_frames (k : Nat) : (s.clearSlotRegs k).frames = s.frames := by
  simp only [State.clearSlotRegs, State.clearStall, State.setCnt, State.setReg, List.map, List.foldl]
theorem State.clearSlotRegs_ctxs (k : Nat) : (s.clearSlotRegs k).ctxs = s.ctxs := by
  simp only [State.clearSlotRegs, State.clearStall, State.setCnt, State.setReg, List.map, List.foldl]

/-- The registers after that come from those before. -/
theorem State.clearSlotRegs_regs (k : Nat) (h : s.regs = t.regs) : (s.clearSlotRegs k).regs = (t.clearSlotRegs k).regs := by
  simp only [State.clearSlotRegs, State.clearStall, State.setCnt, State.setReg, List.map, List.foldl]
  rw [h]

/-- A Classic context without mirror pages takes a slot, and its mirror of the slot's die, while that die's Vault has room. -/
theorem State.reserve_some {c : CtxNo} {k : Nat} (mirror : ∀ i ∈ mirrorPages, (s.page c i).alloc = false)
    (h : s.poolListed (slotDie k) = true) (vault : slotDie k < 2) (usable : s.poolUsable (slotDie k) = true)
    (room : (s.clearSlotRegs k).poolReserve (slotDie k) + s.frames.length + 8 ≤ poolSize s.part (slotDie k)) :
    ∃ t, s.reserve c k false = some t := by
  have kept : ((s.ctx c).keepMirror && mirrorPages.all (fun i => ((s.ctx c).page i).alloc)) = false := by
    rw [Bool.and_eq_false_iff]
    right
    rw [List.all_eq_false]
    exact ⟨219, by decide, by rw [show ((s.ctx c).page 219).alloc = (s.page c 219).alloc from rfl, mirror 219 (by decide)]; decide⟩
  unfold State.reserve
  simp only [kept, Bool.false_eq_true, if_false, Bool.not_false]
  generalize hs : State.modSlot k _ _ = z
  have ctx : z.ctx c = { s.ctx c with
      state := .admitting, slot := BitVec.ofNat 14 k
      pixCharge := BitVec.ofNat 32 (pixCharge (s.ctx c).envH.toNat (s.ctx c).envV.toNat (s.ctx c).periodFx.toNat) } := by
    rw [← hs, State.ctx_of_ctxs (State.modSlot_ctxs ..), State.ctx_modCtx, if_pos rfl,
      State.ctx_of_ctxs ((State.clearSlotRegs_ctxs k).trans (State.setSlot_ctxs ..))]
  have page : ∀ i, z.page c i = s.page c i := fun i => by rw [State.page, ctx]; rfl
  have regs : z.regs = (s.clearSlotRegs k).regs := by
    rw [← hs, State.modSlot_regs, State.modCtx_regs]
    exact State.clearSlotRegs_regs k rfl
  have pow : z.power = s.power := by rw [← hs, State.modSlot_power, State.modCtx_power, State.clearSlotRegs_power, State.setSlot_power]
  have frs : z.frames = s.frames := by rw [← hs, State.modSlot_frames, State.modCtx_frames, State.clearSlotRegs_frames, State.setSlot_frames]
  have prt : z.part = s.part := by rw [← hs, State.modSlot_part, State.modCtx_part, State.clearSlotRegs_part, State.setSlot_part]
  have drop : z.dropMirror c = z := State.unmapPages_none _ fun i hi => by rw [page]; exact mirror i hi
  have res : z.poolReserve (slotDie k) = (s.clearSlotRegs k).poolReserve (slotDie k) := by
    simp only [State.poolReserve, State.regN, State.reg, regs]
  obtain ⟨t, e, -⟩ := State.takePages_some (s := z) (die := some (slotDie k)) c mirrorPages
    (by show z.poolListed (slotDie k) = true; rw [← h]; simp only [State.poolListed, pow]) vault
    (by show z.poolUsable (slotDie k) = true; rw [← usable]; simp only [State.poolUsable, pow])
    (by show z.poolReserve (slotDie k) + _ + 8 ≤ poolSize z.part (slotDie k); rw [res, frs, prt]; exact room)
  exact ⟨t, by rw [drop]; exact e⟩

end Sys2Proof.Machine
end

