-- ==== Sys2Proof/Laws/Keeps.lean ====
section
/-! SUPPORT. What every operation of the block keeps, whatever it does besides: the queue, the part, that free values are
used once, that what has left the device is not called back, and a sound state. -/

namespace Sys2Proof.Machine

/-- What every operation keeps. -/
structure Keeps (s t : State) : Prop where
  pending : t.pending = s.pending
  part : t.part = s.part
  fresh : s.fresh ≤ t.fresh
  wire : s.wire <:+ t.wire
  inv : s.Inv → t.Inv

theorem Keeps.refl (s : State) : Keeps s s := ⟨rfl, rfl, le_refl _, List.suffix_refl _, id⟩

theorem Keeps.trans {a b c : State} (h : Keeps a b) (k : Keeps b c) : Keeps a c :=
  ⟨k.pending.trans h.pending, k.part.trans h.part, h.fresh.trans k.fresh, h.wire.trans k.wire, k.inv ∘ h.inv⟩

/-- What an operation that may give no state keeps. -/
def KeepsO (s : State) (o : Option State) : Prop := ∀ t, o = some t → Keeps s t

/-- The same where a result comes beside the state. -/
def KeepsOf {α : Type} (s : State) (o : Option (α × State)) : Prop := ∀ a t, o = some (a, t) → Keeps s t
def KeepsFo {α : Type} (s : State) (o : Option (State × α)) : Prop := ∀ t a, o = some (t, a) → Keeps s t

/-- The same of an outcome. -/
def KeepsR (s : State) (o : Outcome) : Prop := ∀ t, o = .next t → Keeps s t

section
variable {s0 s t : State} {α β : Type}

theorem KeepsO.none : KeepsO s0 none := fun _ h => nomatch h
theorem KeepsO.some (h : Keeps s0 t) : KeepsO s0 (some t) := fun _ e => by cases e; exact h
theorem KeepsO.map {o : Option State} {f : State → State} (h : KeepsO s0 o) (hf : ∀ z, Keeps s0 z → Keeps s0 (f z)) :
    KeepsO s0 (o.map f) := by
  intro t e
  obtain ⟨z, hz, rfl⟩ := Option.map_eq_some_iff.mp e
  exact hf z (h z hz)
theorem KeepsO.mapOf {o : Option (α × State)} {f : α × State → State} (h : KeepsOf s0 o)
    (hf : ∀ a z, Keeps s0 z → Keeps s0 (f (a, z))) : KeepsO s0 (o.map f) := by
  intro t e
  obtain ⟨⟨a, z⟩, hz, rfl⟩ := Option.map_eq_some_iff.mp e
  exact hf a z (h a z hz)
theorem KeepsOf.none : KeepsOf (α := α) s0 none := fun _ _ h => nomatch h
theorem KeepsOf.some {a : α} (h : Keeps s0 t) : KeepsOf s0 (some (a, t)) := fun _ _ e => by cases e; exact h
theorem KeepsFo.none : KeepsFo (α := α) s0 none := fun _ _ h => nomatch h
theorem KeepsFo.some {a : α} (h : Keeps s0 t) : KeepsFo s0 (some (t, a)) := fun _ _ e => by cases e; exact h
theorem KeepsFo.map {o : Option (State × α)} {f : State × α → State × β} (h : KeepsFo s0 o)
    (hf : ∀ z a, Keeps s0 z → Keeps s0 (f (z, a)).1) : KeepsFo s0 (o.map f) := by
  intro t b e
  obtain ⟨⟨z, a⟩, hz, he⟩ := Option.map_eq_some_iff.mp e
  have := hf z a (h z a hz)
  rw [he] at this
  exact this
theorem Keeps.of_some {o : Option State} (e : o = some t) (h : KeepsO s0 o) : Keeps s0 t := h t e
theorem Keeps.of_someP {o : Option (α × State)} {a : α} (e : o = some (a, t)) (h : KeepsOf s0 o) : Keeps s0 t := h a t e
theorem Keeps.of_someF {o : Option (State × α)} {a : α} (e : o = some (t, a)) (h : KeepsFo s0 o) : Keeps s0 t := h t a e
theorem Keeps.of_pair {p : State × α} {a : α} (e : p = (t, a)) (h : Keeps s0 p.1) : Keeps s0 t := by
  subst e; exact h
theorem Keeps.of_pairF {p : α × State} {a : α} (e : p = (a, t)) (h : Keeps s0 p.2) : Keeps s0 t := by
  subst e; exact h

theorem Keeps.of_ite {c : Prop} [Decidable c] {p q : State} (hp : c → Keeps s0 p) (hq : ¬c → Keeps s0 q) :
    Keeps s0 (if c then p else q) := by
  split
  · exact hp ‹_›
  · exact hq ‹_›

theorem Keeps.of_iteP {c : Prop} [Decidable c] {p q : State × α} (hp : c → Keeps s0 p.1) (hq : ¬c → Keeps s0 q.1) :
    Keeps s0 (if c then p else q).1 := by
  split
  · exact hp ‹_›
  · exact hq ‹_›

theorem Keeps.of_iteF {c : Prop} [Decidable c] {p q : α × State} (hp : c → Keeps s0 p.2) (hq : ¬c → Keeps s0 q.2) :
    Keeps s0 (if c then p else q).2 := by
  split
  · exact hp ‹_›
  · exact hq ‹_›

theorem Keeps.of_iteFF {c : Prop} [Decidable c] {a b : α} {p q : State} (hp : c → Keeps s0 p) (hq : ¬c → Keeps s0 q) :
    Keeps s0 (if c then (a, p) else (b, q)).2 := by
  split
  · exact hp ‹_›
  · exact hq ‹_›

theorem Keeps.foldl {f : State → β → State} (hf : ∀ z b, Keeps s0 z → Keeps s0 (f z b)) (l : List β) :
    ∀ {s : State}, Keeps s0 s → Keeps s0 (l.foldl f s) := by
  induction l with
  | nil => intro s h; exact h
  | cons b l ih => intro s h; exact ih (hf s b h)

theorem Keeps.foldlP {f : State × α → β → State × α} (hf : ∀ z b, Keeps s0 z.1 → Keeps s0 (f z b).1) (l : List β) :
    ∀ {s : State × α}, Keeps s0 s.1 → Keeps s0 (l.foldl f s).1 := by
  induction l with
  | nil => intro s h; exact h
  | cons b l ih => intro s h; exact ih (hf s b h)

theorem Keeps.foldlF {f : α × State → β → α × State} (hf : ∀ z b, Keeps s0 z.2 → Keeps s0 (f z b).2) (l : List β) :
    ∀ {s : α × State}, Keeps s0 s.2 → Keeps s0 (l.foldl f s).2 := by
  induction l with
  | nil => intro s h; exact h
  | cons b l ih => intro s h; exact ih (hf s b h)

theorem Keeps.getD {o : Option State} (ho : KeepsO s0 o) (h : Keeps s0 s) : Keeps s0 (o.getD s) := by
  cases o with
  | none => exact h
  | some t => exact ho t rfl

theorem KeepsO.mapFo {o : Option (State × α)} {f : State × α → State} (h : KeepsFo s0 o)
    (hf : ∀ z a, Keeps s0 z → Keeps s0 (f (z, a))) : KeepsO s0 (o.map f) := by
  intro t e
  obtain ⟨⟨z, a⟩, hz, rfl⟩ := Option.map_eq_some_iff.mp e
  exact hf z a (h z a hz)

theorem KeepsOf.mapVal {o : Option β} {f : β → α × State} (hf : ∀ b, Keeps s0 (f b).2) : KeepsOf s0 (o.map f) := by
  intro a t e
  obtain ⟨b, -, he⟩ := Option.map_eq_some_iff.mp e
  have := hf b
  rw [he] at this
  exact this

theorem KeepsOf.bindVal {o : Option β} {f : β → Option (α × State)} (hf : ∀ b, KeepsOf s0 (f b)) :
    KeepsOf s0 (o.bind f) := by
  intro a t e
  obtain ⟨b, -, he⟩ := Option.bind_eq_some_iff.mp e
  exact hf b a t he

/-- An update, told field by field. -/
theorem Keeps.upd (h : Keeps s0 s) (hp : t.pending = s.pending) (hq : t.part = s.part) (hf : s.fresh ≤ t.fresh)
    (hw : s.wire <:+ t.wire) (hi : s.Inv → t.Inv) : Keeps s0 t := h.trans ⟨hp, hq, hf, hw, hi⟩

/-- Free values taken. -/
theorem Keeps.later {n : Nat} (h : Keeps s0 s) (hn : s.fresh ≤ n) : Keeps s0 { s with fresh := n } :=
  h.upd rfl rfl hn (List.suffix_refl _) (fun i => ⟨i.mem, i.bad, i.wake, i.slip, i.halt, i.mbq, i.quar⟩)

/-- One of two FIFOs written. -/
theorem fifo_set {v : Vector (List α) 2} {n : Nat} (h : ∀ d : Fin 2, v[d.val].length ≤ n) {i : Nat} (hi : i < 2)
    {x : List α} (hx : x.length ≤ n) : ∀ d : Fin 2, (v.set i x hi)[d.val].length ≤ n := by
  intro d
  rw [Vector.getElem_set]
  split
  · exact hx
  · exact h d

/-- A record put at the end of a FIFO with room. -/
theorem fifo_put {v : Vector (List α) 2} {n : Nat} (h : ∀ d : Fin 2, v[d.val].length ≤ n) {i : Nat} (hi : i < 2)
    {x : α} (hx : v[i].length < n) : ∀ d : Fin 2, (v.set i (v[i] ++ [x]) hi)[d.val].length ≤ n :=
  fifo_set h hi (by simp; omega)

/-- What makes the effect of an operation keep. -/
structure OpKeeps (s0 : State) (o : Op) : Prop where
  early : ∀ z, Keeps s0 z → Keeps s0 (o.early z)
  effect : ∀ z, Keeps s0 z → Keeps s0 (o.effect z).1
  mid : ∀ n early act, o.mid = some (n, early, act) →
    (∀ z, Keeps s0 z → Keeps s0 (early z)) ∧ ∀ z, Keeps s0 z → Keeps s0 (act z).1

theorem OpKeeps.noMid {o : Op} (he : ∀ z, Keeps s0 z → Keeps s0 (o.early z)) (hf : ∀ z, Keeps s0 z → Keeps s0 (o.effect z).1)
    (hm : o.mid = none) : OpKeeps s0 o := ⟨he, hf, fun _ _ _ e => by rw [hm] at e; cases e⟩

theorem KeepsR.next (h : Keeps s0 t) : KeepsR s0 (.next t) := fun _ e => by cases e; exact h

/-- An update of the fields that `Keeps` says nothing of. -/
theorem Keeps.same {x1 x2 x3 x4 x5 x6 x7 x8 x9 x10 x11 x12 x13 x14 x15 x16 x17 x18 x19 x20 x21 x22 x23 x24 x25 x26
    x27 x28 x29 x30 x31 x32 x33 x34 x35} :
    Keeps s0 ⟨s.pending, s.fresh, s.wire, x1, s.part, s.mem, s.bad, x2, x3, x4, x5, x6, x7, x8, x9, x10, x11, x12,
      x13, x14, x15, x16, x17, x18, x19, x20, x21, x22, x23, x24, x25, x26, x27, x28, x29, x30, x31, x32, x33, x34,
      x35, s.wakeFifo, s.slipFifo, s.haltFifo, s.mbqFifo, s.quarFifo⟩ ↔ Keeps s0 s :=
  ⟨fun h => ⟨h.pending, h.part, h.fresh, h.wire, fun i => ⟨(h.inv i).mem, (h.inv i).bad, (h.inv i).wake, (h.inv i).slip,
    (h.inv i).halt, (h.inv i).mbq, (h.inv i).quar⟩⟩,
   fun h => ⟨h.pending, h.part, h.fresh, h.wire, fun i => ⟨(h.inv i).mem, (h.inv i).bad, (h.inv i).wake, (h.inv i).slip,
    (h.inv i).halt, (h.inv i).mbq, (h.inv i).quar⟩⟩⟩

end

end Sys2Proof.Machine
end

