-- ==== Sys2Proof/Laws/Kept1.lean ====
section
/-! SUPPORT. What the operations of the block keep, part 1 of 14: each leaves the queue, the part and what was sent,
uses free values up in order, and keeps a sound state sound (the relation of Laws/Keeps.lean). -/

set_option linter.all false

namespace Sys2Proof.Machine

open Sys2Proof

theorem State.setCnt_keeps {s0 s : State} {a0 a1 : Nat} (h : Keeps s0 s) :
    Keeps s0 (State.setCnt a0 a1 s) := by
  unfold State.setCnt
  repeat' first
    | (with_reducible assumption)
    | (simp only [Keeps.same])

theorem State.addCnt_keeps {s0 s : State} {a0 a1 : Nat} (h : Keeps s0 s) :
    Keeps s0 (State.addCnt a0 a1 s) := by
  unfold State.addCnt
  repeat' first
    | (with_reducible assumption)
    | (with_reducible apply State.setCnt_keeps)

theorem State.alogStart_keeps {s0 s : State} (h : Keeps s0 s) :
    Keeps s0 (State.alogStart s) := by
  unfold State.alogStart
  repeat' first
    | (with_reducible assumption)
    | (simp only [Keeps.same])
    | split

theorem State.alogAccept_keeps {s0 s : State} {a0 : AlogOffer} {a1 : Nat} (h : Keeps s0 s) :
    Keeps s0 (State.alogAccept a0 a1 s) := by
  unfold State.alogAccept
  repeat' first
    | (with_reducible assumption)
    | (with_reducible apply State.alogStart_keeps)
    | (simp only [Keeps.same])

theorem State.setReg_keeps {s0 s : State} {a0 a1 : Nat} (h : Keeps s0 s) :
    Keeps s0 (State.setReg a0 a1 s) := by
  unfold State.setReg
  repeat' first
    | (with_reducible assumption)
    | (simp only [Keeps.same])

theorem State.countReg_keeps {s0 s : State} {a0 a1 : Nat} (h : Keeps s0 s) :
    Keeps s0 (State.countReg a0 a1 s) := by
  unfold State.countReg
  repeat' first
    | (with_reducible assumption)
    | (with_reducible apply State.setReg_keeps)

theorem State.dicPend_keeps {s0 s : State} {a0 : Nat} (h : Keeps s0 s) :
    Keeps s0 (State.dicPend a0 s) := by
  unfold State.dicPend
  repeat' first
    | (with_reducible assumption)
    | (simp only [Keeps.same])
    | (with_reducible refine Keeps.of_ite (fun _ => ?_) (fun _ => ?_))

theorem State.setKeeper_keeps {s0 s : State} {a0 : Fin 4} {a1 : Keeper} (h : Keeps s0 s) :
    Keeps s0 (State.setKeeper a0 a1 s) := by
  unfold State.setKeeper
  repeat' first
    | (with_reducible assumption)
    | (simp only [Keeps.same])

theorem State.modKeeper_keeps {s0 s : State} {a0 : Fin 4} {a1 : Keeper → Keeper} (h : Keeps s0 s) :
    Keeps s0 (State.modKeeper a0 a1 s) := by
  unfold State.modKeeper
  repeat' first
    | (with_reducible assumption)
    | (with_reducible apply State.setKeeper_keeps)

theorem State.dicSettleOne_keeps {s0 s : State} {a0 : Fin 4} (h : Keeps s0 s) :
    Keeps s0 (State.dicSettleOne a0 s) := by
  unfold State.dicSettleOne
  repeat' first
    | (with_reducible assumption)
    | (with_reducible apply State.modKeeper_keeps)

theorem State.dicSettle_keeps {s0 s : State} (h : Keeps s0 s) :
    Keeps s0 (State.dicSettle s) := by
  unfold State.dicSettle
  repeat' first
    | (with_reducible assumption)
    | (with_reducible apply State.dicSettleOne_keeps)

theorem State.raiseP_keeps {s0 s : State} {a0 : Nat} (h : Keeps s0 s) :
    Keeps s0 (State.raiseP a0 s) := by
  unfold State.raiseP
  repeat' first
    | (with_reducible assumption)
    | (with_reducible apply State.dicPend_keeps)
    | (with_reducible apply State.dicSettle_keeps)
    | (simp only [Keeps.same])
    | (with_reducible refine Keeps.of_ite (fun _ => ?_) (fun _ => ?_))

theorem State.alogLose_keeps {s0 s : State} (h : Keeps s0 s) :
    Keeps s0 (State.alogLose s) := by
  unfold State.alogLose
  repeat' first
    | (with_reducible assumption)
    | (with_reducible apply State.countReg_keeps)
    | (with_reducible apply State.raiseP_keeps)
    | (simp only [Keeps.same])

theorem State.clearFrame_keeps {s0 s : State} {a0 : Nat} (h : Keeps s0 s) :
    Keeps s0 (State.clearFrame a0 s) := h.upd rfl rfl (le_refl _) (List.suffix_refl _) (fun i => ⟨memWf_memClearFrame _ i.mem,
    (Sparse.wf_iff _ _).mpr (((Sparse.wf_iff _ _).mp i.bad).filter _), i.wake, i.slip, i.halt, i.mbq, i.quar⟩)

theorem State.copyFrame_keeps {s0 s : State} {a0 a1 : Nat} (h : Keeps s0 s) :
    Keeps s0 (State.copyFrame a0 a1 s) := h.upd rfl rfl (le_refl _) (List.suffix_refl _) (fun i => ⟨memWf_memCopyFrame _ _ i.mem,
    (Sparse.wf_iff _ _).mpr (Sparse.Canon.foldl _ (fun _ _ hm => hm.set _ _) _ _ (((Sparse.wf_iff _ _).mp i.bad).filter _)),
    i.wake, i.slip, i.halt, i.mbq, i.quar⟩)

theorem State.setCtx_keeps {s0 s : State} {a0 : CtxNo} {a1 : Context} (h : Keeps s0 s) :
    Keeps s0 (State.setCtx a0 a1 s) := by
  unfold State.setCtx
  repeat' first
    | (with_reducible assumption)
    | (simp only [Keeps.same])

theorem State.modCtx_keeps {s0 s : State} {a0 : CtxNo} {a1 : Context → Context} (h : Keeps s0 s) :
    Keeps s0 (State.modCtx a0 a1 s) := by
  unfold State.modCtx
  repeat' first
    | (with_reducible assumption)
    | (with_reducible apply State.setCtx_keeps)

theorem State.modSes_keeps {s0 s : State} {a0 : CtxNo} {a1 : Session → Session} (h : Keeps s0 s) :
    Keeps s0 (State.modSes a0 a1 s) := by
  unfold State.modSes
  repeat' first
    | (with_reducible assumption)
    | (with_reducible apply State.modCtx_keeps)

theorem State.setSlot_keeps {s0 s : State} {a0 : Nat} {a1 : SlotSt} (h : Keeps s0 s) :
    Keeps s0 (State.setSlot a0 a1 s) := by
  unfold State.setSlot
  repeat' first
    | (with_reducible assumption)
    | (simp only [Keeps.same])

theorem State.modSlot_keeps {s0 s : State} {a0 : Nat} {a1 : SlotSt → SlotSt} (h : Keeps s0 s) :
    Keeps s0 (State.modSlot a0 a1 s) := by
  unfold State.modSlot
  repeat' first
    | (with_reducible assumption)
    | (with_reducible apply State.setSlot_keeps)

theorem State.offer_keeps {s0 s : State} {a0 : Word} {a1 : Byte} {a2 : List Byte} (h : Keeps s0 s) :
    Keeps s0 (State.offer a0 a1 a2 s) := by
  unfold State.offer
  repeat' first
    | (with_reducible assumption)
    | (with_reducible apply State.alogAccept_keeps)
    | (with_reducible apply State.alogLose_keeps)
    | (simp only [Keeps.same])
    | (with_reducible refine Keeps.of_ite (fun _ => ?_) (fun _ => ?_))

theorem State.poisonWords_keeps {s0 s : State} {a0 a1 : Nat} (h : Keeps s0 s) :
    Keeps s0 (State.poisonWords a0 a1 s) := h.upd rfl rfl (le_refl _) (List.suffix_refl _) (fun i => ⟨i.mem,
    (Sparse.wf_iff _ _).mpr (Sparse.Canon.foldl _ (fun _ _ hm => hm.set _ _) _ _ ((Sparse.wf_iff _ _).mp i.bad)),
    i.wake, i.slip, i.halt, i.mbq, i.quar⟩)

theorem State.raiseSes_keeps {s0 s : State} {a0 : CtxNo} {a1 : Nat} (h : Keeps s0 s) :
    Keeps s0 (State.raiseSes a0 a1 s) := by
  unfold State.raiseSes
  repeat' first
    | (with_reducible assumption)
    | (with_reducible apply State.modSes_keeps)

theorem State.reply_keeps {s0 s : State} {a0 : Nat} (h : Keeps s0 s) :
    Keeps s0 (State.reply a0 s) := by
  unfold State.reply
  repeat' first
    | (with_reducible assumption)
    | (simp only [Keeps.same])

theorem State.send_keeps {s0 s : State} {a0 : Sent} (h : Keeps s0 s) :
    Keeps s0 (State.send a0 s) := h.upd rfl rfl (le_refl _) (List.suffix_cons _ _) (fun i => ⟨i.mem, i.bad, i.wake, i.slip, i.halt, i.mbq, i.quar⟩)

theorem State.setBytes_keeps {s0 s : State} {a0 : Nat} {a1 : List Byte} (h : Keeps s0 s) :
    Keeps s0 (State.setBytes a0 a1 s) := h.upd rfl rfl (le_refl _) (List.suffix_refl _) (fun i => ⟨memWf_memWrite _ _ i.mem,
    (Sparse.wf_iff _ _).mpr (((Sparse.wf_iff _ _).mp i.bad).filter _), i.wake, i.slip, i.halt, i.mbq, i.quar⟩)

theorem State.setLevel_keeps {s0 s : State} {a0 : Nat} {a1 : Bool} (h : Keeps s0 s) :
    Keeps s0 (State.setLevel a0 a1 s) := by
  unfold State.setLevel
  repeat' first
    | (with_reducible assumption)
    | (with_reducible apply State.dicPend_keeps)
    | (with_reducible apply State.dicSettle_keeps)
    | (simp only [Keeps.same])
    | (with_reducible refine Keeps.of_ite (fun _ => ?_) (fun _ => ?_))

theorem State.setRegField_keeps {s0 s : State} {a0 a1 a2 a3 : Nat} (h : Keeps s0 s) :
    Keeps s0 (State.setRegField a0 a1 a2 a3 s) := by
  unfold State.setRegField
  repeat' first
    | (with_reducible assumption)
    | (with_reducible apply State.setReg_keeps)

theorem State.setWord_keeps {s0 s : State} {a0 : Nat} {a1 : Word} (h : Keeps s0 s) :
    Keeps s0 (State.setWord a0 a1 s) := h.upd rfl rfl (le_refl _) (List.suffix_refl _) (fun i => ⟨memWf_memSetWord _ _ i.mem,
    (Sparse.wf_iff _ _).mpr (((Sparse.wf_iff _ _).mp i.bad).erase _), i.wake, i.slip, i.halt, i.mbq, i.quar⟩)

theorem State.spend_keeps {s0 s : State} (h : Keeps s0 s) :
    Keeps s0 (State.spend s) := h.upd rfl rfl (Nat.le_succ _) (List.suffix_refl _) (fun i => ⟨i.mem, i.bad, i.wake, i.slip, i.halt, i.mbq, i.quar⟩)

theorem State.writeReg_keeps {s0 s : State} {a0 a1 : Nat} (h : Keeps s0 s) :
    Keeps s0 (State.writeReg a0 a1 s) := by
  unfold State.writeReg
  repeat' first
    | (with_reducible assumption)
    | (with_reducible apply State.setReg_keeps)

theorem State.putFrame_keeps {s0 s : State} {a0 : Nat} {a1 : FrameRec} (h : Keeps s0 s) :
    Keeps s0 (State.putFrame a0 a1 s) := by
  unfold State.putFrame
  repeat' first
    | (with_reducible assumption)
    | (simp only [Keeps.same])

theorem State.setFrame_keeps {s0 s : State} {a0 : Nat} {a1 : FrameRec} (h : Keeps s0 s) :
    Keeps s0 (State.setFrame a0 a1 s) := by
  unfold State.setFrame
  repeat' first
    | (with_reducible assumption)
    | (with_reducible apply State.putFrame_keeps)
    | (with_reducible apply State.raiseP_keeps)
    | (simp only [Keeps.same])
    | (with_reducible refine Keeps.of_ite (fun _ => ?_) (fun _ => ?_))
    | split

theorem State.freeFrame_keeps {s0 s : State} {a0 : Nat} (h : Keeps s0 s) :
    Keeps s0 (State.freeFrame a0 s) := by
  unfold State.freeFrame
  repeat' first
    | (with_reducible assumption)
    | (with_reducible apply State.setFrame_keeps)
    | (simp only [Keeps.same])

theorem State.modFrame_keeps {s0 s : State} {a0 : Nat} {a1 : FrameRec → FrameRec} (h : Keeps s0 s) :
    Keeps s0 (State.modFrame a0 a1 s) := by
  unfold State.modFrame
  repeat' first
    | (with_reducible assumption)
    | (with_reducible apply State.setFrame_keeps)

theorem State.setPage_keeps {s0 s : State} {a0 : CtxNo} {a1 : Nat} {a2 : PageEntry} (h : Keeps s0 s) :
    Keeps s0 (State.setPage a0 a1 a2 s) := by
  unfold State.setPage
  repeat' first
    | (with_reducible assumption)
    | (with_reducible apply State.modCtx_keeps)

theorem State.takeFrame_keeps {s0 s : State} {a0 : Nat} {a1 : FrameRec} (h : Keeps s0 s) :
    KeepsOf s0 (State.takeFrame a0 a1 s) := by
  unfold State.takeFrame
  repeat' first
    | (with_reducible assumption)
    | (with_reducible apply State.setFrame_keeps)
    | (with_reducible apply State.spend_keeps)
    | (simp only [Keeps.same])
    | (with_reducible refine KeepsOf.mapVal (fun _ => ?_))

theorem State.takeHome_keeps {s0 s : State} {a0 : Option Nat} {a1 : Bool} (h : Keeps s0 s) :
    KeepsOf s0 (State.takeHome a0 a1 s) := by
  unfold State.takeHome
  repeat' first
    | (with_reducible assumption)
    | (with_reducible apply State.takeFrame_keeps)
    | (with_reducible refine KeepsOf.bindVal (fun _ => ?_))

theorem State.touchGallery_keeps {s0 s : State} {a0 : Nat} (h : Keeps s0 s) :
    Keeps s0 (State.touchGallery a0 s) := by
  unfold State.touchGallery
  repeat' first
    | (with_reducible assumption)
    | (simp only [Keeps.same])

theorem State.clearPage_keeps {s0 s : State} {a0 : CtxNo} {a1 : Nat} (h : Keeps s0 s) :
    Keeps s0 (State.clearPage a0 a1 s) := by
  unfold State.clearPage
  repeat' first
    | (with_reducible assumption)
    | (with_reducible apply State.modCtx_keeps)

theorem State.endFlight_keeps {s0 s : State} {a0 a1 a2 : Nat} (h : Keeps s0 s) :
    Keeps s0 (State.endFlight a0 a1 a2 s) := by
  unfold State.endFlight
  repeat' first
    | (with_reducible assumption)
    | (with_reducible apply State.freeFrame_keeps)
    | (simp only [Keeps.same])

theorem State.writeBackFrame_keeps {s0 s : State} {a0 : Nat} (h : Keeps s0 s) :
    Keeps s0 (State.writeBackFrame a0 s) := by
  unfold State.writeBackFrame
  repeat' first
    | (with_reducible assumption)
    | (with_reducible apply State.copyFrame_keeps)
    | (with_reducible apply State.modCtx_keeps)
    | (with_reducible apply State.modFrame_keeps)
    | (simp only [Keeps.same])
    | (with_reducible refine Keeps.foldl (fun _ _ _ => ?_) _ ?_)
    | (with_reducible refine Keeps.of_ite (fun _ => ?_) (fun _ => ?_))
    | split

theorem State.dropPageCopy_keeps {s0 s : State} {a0 : CtxNo} {a1 : Nat} (h : Keeps s0 s) :
    Keeps s0 (State.dropPageCopy a0 a1 s) := by
  unfold State.dropPageCopy
  repeat' first
    | (with_reducible assumption)
    | (with_reducible apply State.endFlight_keeps)
    | (with_reducible apply State.freeFrame_keeps)
    | (with_reducible apply State.modCtx_keeps)
    | (with_reducible apply State.writeBackFrame_keeps)
    | (simp only [Keeps.same])
    | (with_reducible refine Keeps.of_ite (fun _ => ?_) (fun _ => ?_))
    | split

theorem State.unawait_keeps {s0 s : State} {a0 a1 : Nat} (h : Keeps s0 s) :
    Keeps s0 (State.unawait a0 a1 s) := by
  unfold State.unawait
  repeat' first
    | (with_reducible assumption)
    | (with_reducible apply State.modCtx_keeps)
    | (simp only [Keeps.same])
    | (with_reducible refine Keeps.foldl (fun _ _ _ => ?_) _ ?_)
    | (with_reducible refine Keeps.of_ite (fun _ => ?_) (fun _ => ?_))

theorem State.freeCopies_keeps {s0 s : State} {a0 : Nat} (h : Keeps s0 s) :
    Keeps s0 (State.freeCopies a0 s) := by
  unfold State.freeCopies
  repeat' first
    | (with_reducible assumption)
    | (with_reducible apply State.endFlight_keeps)
    | (with_reducible apply State.freeFrame_keeps)
    | (with_reducible apply State.modFrame_keeps)
    | (with_reducible apply State.unawait_keeps)
    | (simp only [Keeps.same])
    | (with_reducible refine Keeps.foldl (fun _ _ _ => ?_) _ ?_)
    | split

theorem State.dropShare_keeps {s0 s : State} {a0 : Nat} (h : Keeps s0 s) :
    Keeps s0 (State.dropShare a0 s) := by
  unfold State.dropShare
  repeat' first
    | (with_reducible assumption)
    | (with_reducible apply State.freeCopies_keeps)
    | (with_reducible apply State.freeFrame_keeps)
    | (with_reducible apply State.setFrame_keeps)
    | (simp only [Keeps.same])
    | (with_reducible refine Keeps.of_ite (fun _ => ?_) (fun _ => ?_))

theorem State.dropTitleCopies_keeps {s0 s : State} {a0 : CtxNo} {a1 : Nat} (h : Keeps s0 s) :
    Keeps s0 (State.dropTitleCopies a0 a1 s) := by
  unfold State.dropTitleCopies
  repeat' first
    | (with_reducible assumption)
    | (with_reducible apply State.freeFrame_keeps)
    | (simp only [Keeps.same])
    | (with_reducible refine Keeps.foldl (fun _ _ _ => ?_) _ ?_)
    | (with_reducible refine Keeps.of_ite (fun _ => ?_) (fun _ => ?_))
    | split

theorem State.modPort_keeps {s0 s : State} {a0 : Fin 4} {a1 : Port → Port} (h : Keeps s0 s) :
    Keeps s0 (State.modPort a0 a1 s) := by
  unfold State.modPort
  repeat' first
    | (with_reducible assumption)
    | (simp only [Keeps.same])

theorem State.endPort_keeps {s0 s : State} {a0 : Fin 4} {a1 : Nat} (h : Keeps s0 s) :
    Keeps s0 (State.endPort a0 a1 s) := by
  unfold State.endPort
  repeat' first
    | (with_reducible assumption)
    | (with_reducible apply State.modPort_keeps)
    | (with_reducible apply State.raiseP_keeps)

theorem State.idleSlot_keeps {s0 s : State} {a0 : Nat} (h : Keeps s0 s) :
    Keeps s0 (State.idleSlot a0 s) := by
  unfold State.idleSlot
  repeat' first
    | (with_reducible assumption)
    | (with_reducible apply State.setReg_keeps)
    | (with_reducible apply State.setSlot_keeps)

theorem State.freeSlot_keeps {s0 s : State} {a0 : CtxNo} (h : Keeps s0 s) :
    Keeps s0 (State.freeSlot a0 s) := by
  unfold State.freeSlot
  repeat' first
    | (with_reducible assumption)
    | (with_reducible apply State.dropTitleCopies_keeps)
    | (with_reducible apply State.idleSlot_keeps)
    | (with_reducible apply State.modCtx_keeps)
    | (simp only [Keeps.same])
    | (with_reducible refine Keeps.foldl (fun _ _ _ => ?_) _ ?_)
    | (with_reducible refine Keeps.of_ite (fun _ => ?_) (fun _ => ?_))
    | split

theorem State.unmapPage_keeps {s0 s : State} {a0 : CtxNo} {a1 : Nat} (h : Keeps s0 s) :
    Keeps s0 (State.unmapPage a0 a1 s) := by
  unfold State.unmapPage
  repeat' first
    | (with_reducible assumption)
    | (with_reducible apply State.dropPageCopy_keeps)
    | (with_reducible apply State.dropShare_keeps)
    | (with_reducible apply State.modCtx_keeps)
    | (simp only [Keeps.same])
    | (with_reducible refine Keeps.of_ite (fun _ => ?_) (fun _ => ?_))

theorem State.undoNew_keeps {s0 s : State} {a0 : Fin 4} (h : Keeps s0 s) :
    Keeps s0 (State.undoNew a0 s) := by
  unfold State.undoNew
  repeat' first
    | (with_reducible assumption)
    | (with_reducible apply State.freeSlot_keeps)
    | (with_reducible apply State.setCtx_keeps)
    | (with_reducible apply State.unmapPage_keeps)
    | (simp only [Keeps.same])
    | (with_reducible refine Keeps.foldl (fun _ _ _ => ?_) _ ?_)
    | split

theorem State.markDirty_keeps {s0 s : State} {a0 : CtxNo} {a1 : Nat} (h : Keeps s0 s) :
    Keeps s0 (State.markDirty a0 a1 s) := by
  unfold State.markDirty
  repeat' first
    | (with_reducible assumption)
    | (with_reducible apply State.modCtx_keeps)
    | (with_reducible apply State.modFrame_keeps)
    | (simp only [Keeps.same])
    | (with_reducible refine Keeps.of_ite (fun _ => ?_) (fun _ => ?_))
    | split

theorem State.writeLine_keeps {s0 s : State} {a0 : CtxNo} {a1 : StageLine} (h : Keeps s0 s) :
    Keeps s0 (State.writeLine a0 a1 s) := by
  unfold State.writeLine
  repeat' first
    | (with_reducible assumption)
    | (with_reducible apply State.markDirty_keeps)
    | (with_reducible apply State.setWord_keeps)
    | (simp only [Keeps.same])
    | (with_reducible refine Keeps.foldl (fun _ _ _ => ?_) _ ?_)
    | (with_reducible refine Keeps.of_ite (fun _ => ?_) (fun _ => ?_))
    | split

theorem State.flushLines_keeps {s0 s : State} {a0 : CtxNo} (h : Keeps s0 s) :
    Keeps s0 (State.flushLines a0 s) := by
  unfold State.flushLines
  repeat' first
    | (with_reducible assumption)
    | (with_reducible apply State.modSes_keeps)
    | (with_reducible apply State.writeLine_keeps)
    | (with_reducible refine Keeps.foldl (fun _ _ _ => ?_) _ ?_)

theorem State.writeBackAll_keeps {s0 s : State} {a0 : CtxNo} (h : Keeps s0 s) :
    Keeps s0 (State.writeBackAll a0 s) := by
  unfold State.writeBackAll
  repeat' first
    | (with_reducible assumption)
    | (with_reducible apply State.dropPageCopy_keeps)
    | (with_reducible apply State.flushLines_keeps)
    | (with_reducible apply State.modSes_keeps)
    | (with_reducible refine Keeps.foldl (fun _ _ _ => ?_) _ ?_)

theorem State.quarantinedSource_keeps {s0 s : State} {a0 : Fin 4} (h : Keeps s0 s) :
    Keeps s0 (State.quarantinedSource a0 s) := by
  unfold State.quarantinedSource
  repeat' first
    | (with_reducible assumption)
    | (with_reducible apply State.freeSlot_keeps)
    | (with_reducible apply State.modCtx_keeps)
    | (with_reducible apply State.undoNew_keeps)
    | (with_reducible apply State.writeBackAll_keeps)
    | (simp only [Keeps.same])
    | (with_reducible refine Keeps.of_ite (fun _ => ?_) (fun _ => ?_))

theorem State.endWaiting_keeps {s0 s : State} {a0 : CtxNo} (h : Keeps s0 s) :
    Keeps s0 (State.endWaiting a0 s) := by
  unfold State.endWaiting
  repeat' first
    | (with_reducible assumption)
    | (with_reducible apply State.endPort_keeps)
    | (with_reducible apply State.quarantinedSource_keeps)
    | (with_reducible refine Keeps.foldl (fun _ _ _ => ?_) _ ?_)
    | (with_reducible refine Keeps.of_ite (fun _ => ?_) (fun _ => ?_))
    | split

theorem State.quarRecord_keeps {s0 s : State} {a0 : CtxNo} {a1 : Nat} (h : Keeps s0 s) :
    Keeps s0 (State.quarRecord a0 a1 s) := by
  unfold State.quarRecord
  split
  · apply State.setLevel_keeps
    exact h.upd rfl rfl (le_refl _) (List.suffix_refl _) (fun i => ⟨i.mem, i.bad, i.wake, i.slip, i.halt, i.mbq,
      by simp; omega⟩)
  · exact State.countReg_keeps h

theorem State.quarantine_keeps {s0 s : State} {a0 : CtxNo} {a1 a2 a3 a4 : Nat} (h : Keeps s0 s) :
    Keeps s0 (State.quarantine a0 a1 a2 a3 a4 s) := by
  unfold State.quarantine
  repeat' first
    | (with_reducible assumption)
    | (with_reducible apply State.endWaiting_keeps)
    | (with_reducible apply State.freeSlot_keeps)
    | (with_reducible apply State.modCtx_keeps)
    | (with_reducible apply State.modSes_keeps)
    | (with_reducible apply State.offer_keeps)
    | (with_reducible apply State.quarRecord_keeps)
    | (with_reducible apply State.writeBackAll_keeps)
    | (simp only [Keeps.same])
    | (with_reducible refine Keeps.of_ite (fun _ => ?_) (fun _ => ?_))

theorem State.exhausted_keeps {s0 s : State} {a0 : CtxNo} {a1 : Nat} (h : Keeps s0 s) :
    Keeps s0 (State.exhausted a0 a1 s) := by
  unfold State.exhausted
  repeat' first
    | (with_reducible assumption)
    | (with_reducible apply State.quarantine_keeps)

theorem State.haltRecord_keeps {s0 s : State} {a0 : CtxNo} (h : Keeps s0 s) :
    Keeps s0 (State.haltRecord a0 s) := by
  unfold State.haltRecord
  split
  · rename_i k _
    dsimp only
    by_cases hd : slotDie k % 2 = 0
    all_goals
      simp only [hd, if_true, if_false]
      split
      · rename_i hl
        apply State.setLevel_keeps
        exact h.upd rfl rfl (le_refl _) (List.suffix_refl _) (fun i => ⟨i.mem, i.bad, i.wake, i.slip,
          fifo_put i.halt (by decide) hl, i.mbq, i.quar⟩)
      · exact State.countReg_keeps h
  · exact h

theorem State.askPage_keeps {s0 s : State} {a0 : PageReq} (h : Keeps s0 s) :
    Keeps s0 (State.askPage a0 s) := by
  unfold State.askPage
  repeat' first
    | (with_reducible assumption)
    | (simp only [Keeps.same])

theorem State.clearStall_keeps {s0 s : State} {a0 : Nat} (h : Keeps s0 s) :
    Keeps s0 (State.clearStall a0 s) := by
  unfold State.clearStall
  repeat' first
    | (with_reducible assumption)
    | (with_reducible apply State.setCnt_keeps)

theorem State.countSlot_keeps {s0 s : State} {a0 : CtxNo} {a1 a2 : Nat} (h : Keeps s0 s) :
    Keeps s0 (State.countSlot a0 a1 a2 s) := by
  unfold State.countSlot
  repeat' first
    | (with_reducible assumption)
    | (with_reducible apply State.countReg_keeps)
    | split

theorem State.modPage_keeps {s0 s : State} {a0 : CtxNo} {a1 : Nat} {a2 : PageEntry → PageEntry} (h : Keeps s0 s) :
    Keeps s0 (State.modPage a0 a1 a2 s) := by
  unfold State.modPage
  repeat' first
    | (with_reducible assumption)
    | (with_reducible apply State.modCtx_keeps)

theorem State.evictFrame_keeps {s0 s : State} {a0 a1 : Nat} (h : Keeps s0 s) :
    Keeps s0 (State.evictFrame a0 a1 s) := by
  unfold State.evictFrame
  repeat' first
    | (with_reducible assumption)
    | (with_reducible apply State.freeFrame_keeps)
    | (with_reducible apply State.modCtx_keeps)
    | (with_reducible apply State.writeBackFrame_keeps)
    | (simp only [Keeps.same])
    | (with_reducible refine Keeps.foldl (fun _ _ _ => ?_) _ ?_)
    | (with_reducible refine Keeps.of_ite (fun _ => ?_) (fun _ => ?_))

theorem State.takeGallery_keeps {s0 s : State} {a0 : Nat} {a1 : Bool} {a2 : FrameRec} (h : Keeps s0 s) :
    KeepsOf s0 (State.takeGallery a0 a1 a2 s) := by
  unfold State.takeGallery
  repeat' first
    | (with_reducible assumption)
    | (with_reducible apply State.evictFrame_keeps)
    | (with_reducible apply State.takeFrame_keeps)
    | (simp only [Keeps.same])
    | (with_reducible apply KeepsOf.none)
    | split

theorem State.stall_keeps {s0 s : State} {a0 : Nat} (h : Keeps s0 s) :
    Keeps s0 (State.stall a0 s) := by
  unfold State.stall
  repeat' first
    | (with_reducible assumption)
    | (with_reducible apply State.addCnt_keeps)

theorem State.countGalWait_keeps {s0 s : State} {a0 : Nat} (h : Keeps s0 s) :
    Keeps s0 (State.countGalWait a0 s) := by
  unfold State.countGalWait
  repeat' first
    | (with_reducible assumption)
    | (with_reducible apply State.stall_keeps)

theorem State.waitsHere_keeps {s0 s : State} {a0 : CtxNo} (h : Keeps s0 s) :
    Keeps s0 (State.waitsHere a0 s) := by
  unfold State.waitsHere
  repeat' first
    | (with_reducible assumption)
    | (with_reducible apply State.countGalWait_keeps)
    | (with_reducible refine Keeps.of_ite (fun _ => ?_) (fun _ => ?_))
    | split

theorem State.copyOnWrite_keeps {s0 s : State} {a0 : CtxNo} {a1 : Nat} (h : Keeps s0 s) :
    Keeps s0 (State.copyOnWrite a0 a1 s).1 := by
  unfold State.copyOnWrite
  repeat' first
    | (with_reducible assumption)
    | (with_reducible apply State.copyFrame_keeps)
    | (with_reducible apply State.countSlot_keeps)
    | (with_reducible apply State.exhausted_keeps)
    | (with_reducible apply State.markDirty_keeps)
    | (with_reducible apply State.modFrame_keeps)
    | (with_reducible apply State.modPage_keeps)
    | (with_reducible apply State.takeGallery_keeps)
    | (with_reducible apply State.takeHome_keeps)
    | (with_reducible apply State.touchGallery_keeps)
    | (with_reducible apply State.waitsHere_keeps)
    | (simp only [Keeps.same])
    | (with_reducible refine Keeps.of_someP ‹_ = some (_, _)› ?_)
    | (with_reducible refine Keeps.of_iteP (fun _ => ?_) (fun _ => ?_))
    | split

theorem State.countFreeze_keeps {s0 s : State} {a0 : CtxNo} (h : Keeps s0 s) :
    Keeps s0 (State.countFreeze a0 s) := by
  unfold State.countFreeze
  repeat' first
    | (with_reducible assumption)
    | (with_reducible apply State.stall_keeps)
    | (with_reducible refine Keeps.of_ite (fun _ => ?_) (fun _ => ?_))
    | split

theorem State.endPageIn_keeps {s0 s : State} {a0 : CtxNo} {a1 : Nat} (h : Keeps s0 s) :
    Keeps s0 (State.endPageIn a0 a1 s) := by
  unfold State.endPageIn
  repeat' first
    | (with_reducible assumption)
    | (with_reducible apply State.copyFrame_keeps)
    | (with_reducible apply State.countSlot_keeps)
    | (with_reducible apply State.modCtx_keeps)
    | (with_reducible apply State.setFrame_keeps)
    | (with_reducible apply State.touchGallery_keeps)
    | (simp only [Keeps.same])
    | (with_reducible refine Keeps.foldl (fun _ _ _ => ?_) _ ?_)
    | (with_reducible refine Keeps.of_ite (fun _ => ?_) (fun _ => ?_))
    | split

end Sys2Proof.Machine
end

