-- ==== Sys2Proof/Laws/Kept2.lean ====
section
/-! SUPPORT. What the operations of the block keep, part 2 of 14: each leaves the queue, the part and what was sent,
uses free values up in order, and keeps a sound state sound (the relation of Laws/Keeps.lean). -/

set_option linter.all false

namespace Sys2Proof.Machine

open Sys2Proof

theorem State.firstTouch_keeps {s0 s : State} {a0 : CtxNo} {a1 : Nat} (h : Keeps s0 s) :
    Keeps s0 (State.firstTouch a0 a1 s).1 := by
  unfold State.firstTouch
  repeat' first
    | (with_reducible assumption)
    | (with_reducible apply State.clearFrame_keeps)
    | (with_reducible apply State.countSlot_keeps)
    | (with_reducible apply State.exhausted_keeps)
    | (with_reducible apply State.markDirty_keeps)
    | (with_reducible apply State.modPage_keeps)
    | (with_reducible apply State.setPage_keeps)
    | (with_reducible apply State.takeGallery_keeps)
    | (with_reducible apply State.takeHome_keeps)
    | (with_reducible apply State.touchGallery_keeps)
    | (with_reducible apply State.waitsHere_keeps)
    | (simp only [Keeps.same])
    | (with_reducible refine Keeps.of_someP ‹_ = some (_, _)› ?_)
    | (with_reducible refine Keeps.of_iteP (fun _ => ?_) (fun _ => ?_))
    | split

theorem State.startPageIn_keeps {s0 s : State} {a0 : CtxNo} {a1 a2 a3 : Nat} (h : Keeps s0 s) :
    KeepsO s0 (State.startPageIn a0 a1 a2 a3 s) := by
  unfold State.startPageIn
  repeat' first
    | (with_reducible assumption)
    | (with_reducible apply State.askPage_keeps)
    | (with_reducible apply State.modPage_keeps)
    | (with_reducible apply State.takeGallery_keeps)
    | (simp only [Keeps.same])
    | (with_reducible apply KeepsO.none)
    | (with_reducible apply KeepsO.some)
    | (with_reducible refine KeepsO.mapOf ?_ (fun _ _ _ => ?_))
    | split

theorem State.waits_keeps {s0 s s1 : State} {a0 : CtxNo} (h : Keeps s0 s) (h2 : Keeps s0 s1) :
    Keeps s0 (State.waits a0 s s1) := by
  unfold State.waits
  repeat' first
    | (with_reducible assumption)
    | (simp only [Keeps.same])
    | (with_reducible refine Keeps.of_ite (fun _ => ?_) (fun _ => ?_))

theorem State.dropFrame_keeps {s0 s : State} {a0 : Nat} (h : Keeps s0 s) :
    Keeps s0 (State.dropFrame a0 s) := by
  unfold State.dropFrame
  repeat' first
    | (with_reducible assumption)
    | (with_reducible apply State.countReg_keeps)
    | (with_reducible apply State.setFrame_keeps)
    | (simp only [Keeps.same])

theorem State.poisonPage_keeps {s0 s : State} {a0 a1 a2 : Nat} {a3 : Bool} (h : Keeps s0 s) :
    Keeps s0 (State.poisonPage a0 a1 a2 a3 s) := by
  unfold State.poisonPage
  repeat' first
    | (with_reducible assumption)
    | (with_reducible apply State.clearPage_keeps)
    | (with_reducible apply State.countReg_keeps)
    | (with_reducible apply State.dropShare_keeps)
    | (with_reducible apply State.freeCopies_keeps)
    | (with_reducible apply State.quarantine_keeps)
    | (simp only [Keeps.same])
    | (with_reducible refine Keeps.foldl (fun _ _ _ => ?_) _ ?_)
    | (with_reducible refine Keeps.of_ite (fun _ => ?_) (fun _ => ?_))

theorem State.retireRecord_keeps {s0 s : State} {a0 a1 a2 : Nat} (h : Keeps s0 s) :
    Keeps s0 (State.retireRecord a0 a1 a2 s) := by
  unfold State.retireRecord
  repeat' first
    | (with_reducible assumption)
    | (with_reducible apply State.offer_keeps)

theorem State.retireFrame_keeps {s0 s : State} {a0 a1 : Nat} {a2 : Byte} (h : Keeps s0 s) :
    Keeps s0 (State.retireFrame a0 a1 a2 s) := by
  unfold State.retireFrame
  repeat' first
    | (with_reducible assumption)
    | (with_reducible apply State.dropFrame_keeps)
    | (with_reducible apply State.raiseP_keeps)
    | (with_reducible apply State.retireRecord_keeps)

theorem State.titleFault_keeps {s0 s : State} {a0 a1 a2 : Nat} (h : Keeps s0 s) :
    Keeps s0 (State.titleFault a0 a1 a2 s) := by
  unfold State.titleFault
  repeat' first
    | (with_reducible assumption)
    | (with_reducible apply State.offer_keeps)
    | (with_reducible apply State.quarantine_keeps)
    | (simp only [Keeps.same])
    | (with_reducible refine Keeps.foldl (fun _ _ _ => ?_) _ ?_)

theorem State.loseFrame_keeps {s0 s : State} {a0 a1 a2 : Nat} {a3 : Byte} (h : Keeps s0 s) :
    Keeps s0 (State.loseFrame a0 a1 a2 a3 s) := by
  unfold State.loseFrame
  repeat' first
    | (with_reducible assumption)
    | (with_reducible apply State.freeCopies_keeps)
    | (with_reducible apply State.poisonPage_keeps)
    | (with_reducible apply State.putFrame_keeps)
    | (with_reducible apply State.retireFrame_keeps)
    | (with_reducible apply State.titleFault_keeps)
    | (simp only [Keeps.same])
    | (with_reducible refine Keeps.of_ite (fun _ => ?_) (fun _ => ?_))
    | split

theorem State.setRoot_keeps {s0 s : State} {a0 : CtxNo} (h : Keeps s0 s) :
    Keeps s0 (State.setRoot a0 s) := by
  unfold State.setRoot
  repeat' first
    | (with_reducible assumption)
    | (with_reducible apply State.modCtx_keeps)

theorem State.renameHome_keeps {s0 s : State} {a0 a1 : Nat} (h : Keeps s0 s) :
    Keeps s0 (State.renameHome a0 a1 s) := by
  unfold State.renameHome
  repeat' first
    | (with_reducible assumption)
    | (with_reducible apply State.modCtx_keeps)
    | (with_reducible apply State.modFrame_keeps)
    | (with_reducible apply State.setRoot_keeps)
    | (simp only [Keeps.same])
    | (with_reducible refine Keeps.foldl (fun _ _ _ => ?_) _ ?_)
    | split

theorem State.relocate_keeps {s0 s : State} {a0 a1 : Nat} {a2 : Byte} (h : Keeps s0 s) :
    Keeps s0 (State.relocate a0 a1 a2 s) := by
  unfold State.relocate
  repeat' first
    | (with_reducible assumption)
    | (with_reducible apply State.copyFrame_keeps)
    | (with_reducible apply State.loseFrame_keeps)
    | (with_reducible apply State.renameHome_keeps)
    | (with_reducible apply State.retireFrame_keeps)
    | (with_reducible apply State.setFrame_keeps)
    | (with_reducible apply State.takeHome_keeps)
    | (simp only [Keeps.same])
    | (with_reducible refine Keeps.of_someP ‹_ = some (_, _)› ?_)
    | split

theorem State.failVault_keeps {s0 s : State} {a0 : Nat} {a1 : Byte} (h : Keeps s0 s) :
    Keeps s0 (State.failVault a0 a1 s) := by
  unfold State.failVault
  repeat' first
    | (with_reducible assumption)
    | (with_reducible apply State.loseFrame_keeps)
    | (with_reducible apply State.relocate_keeps)
    | (with_reducible refine Keeps.of_ite (fun _ => ?_) (fun _ => ?_))

theorem State.renameCopy_keeps {s0 s : State} {a0 a1 : Nat} {a2 : Option Nat} (h : Keeps s0 s) :
    Keeps s0 (State.renameCopy a0 a1 a2 s) := by
  unfold State.renameCopy
  repeat' first
    | (with_reducible assumption)
    | (with_reducible apply State.modCtx_keeps)
    | (simp only [Keeps.same])
    | (with_reducible refine Keeps.foldl (fun _ _ _ => ?_) _ ?_)
    | (with_reducible refine Keeps.of_ite (fun _ => ?_) (fun _ => ?_))

theorem State.moveCopy_keeps {s0 s : State} {a0 a1 a2 a3 a4 : Nat} {a5 : Byte} (h : Keeps s0 s) :
    Keeps s0 (State.moveCopy a0 a1 a2 a3 a4 a5 s) := by
  unfold State.moveCopy
  repeat' first
    | (with_reducible assumption)
    | (with_reducible apply State.copyFrame_keeps)
    | (with_reducible apply State.modFrame_keeps)
    | (with_reducible apply State.renameCopy_keeps)
    | (with_reducible apply State.retireFrame_keeps)
    | (with_reducible apply State.takeGallery_keeps)
    | (with_reducible apply State.touchGallery_keeps)
    | (simp only [Keeps.same])
    | (with_reducible refine Keeps.of_someP ‹_ = some (_, _)› ?_)
    | (with_reducible refine Keeps.of_ite (fun _ => ?_) (fun _ => ?_))
    | split

theorem State.failRead_keeps {s0 s : State} {a0 : Nat} {a1 : Byte} (h : Keeps s0 s) :
    Keeps s0 (State.failRead a0 a1 s) := by
  unfold State.failRead
  repeat' first
    | (with_reducible assumption)
    | (with_reducible apply State.failVault_keeps)
    | (with_reducible apply State.moveCopy_keeps)
    | (with_reducible apply State.poisonPage_keeps)
    | (with_reducible apply State.renameCopy_keeps)
    | (with_reducible apply State.retireFrame_keeps)
    | (with_reducible refine Keeps.of_ite (fun _ => ?_) (fun _ => ?_))
    | split

theorem State.unitFail_keeps {s0 s : State} {a0 : CtxNo} {a1 : Nat} (h : Keeps s0 s) :
    Keeps s0 (State.unitFail a0 a1 s) := by
  unfold State.unitFail
  repeat' first
    | (with_reducible assumption)
    | (with_reducible apply State.failRead_keeps)

theorem State.ensureCopyAs_keeps {s0 s : State} {a0 : CtxNo} {a1 a2 a3 : Nat} (h : Keeps s0 s) :
    Keeps s0 (State.ensureCopyAs a0 a1 a2 a3 s).1 := by
  unfold State.ensureCopyAs
  repeat' first
    | (with_reducible assumption)
    | (with_reducible apply State.endPageIn_keeps)
    | (with_reducible apply State.startPageIn_keeps)
    | (with_reducible apply State.touchGallery_keeps)
    | (with_reducible apply State.unitFail_keeps)
    | (simp only [Keeps.same])
    | (with_reducible refine Keeps.of_some ‹_ = some _› ?_)
    | (with_reducible refine Keeps.of_iteP (fun _ => ?_) (fun _ => ?_))
    | split

theorem State.ensureCopy_keeps {s0 s : State} {a0 : CtxNo} {a1 : Nat} (h : Keeps s0 s) :
    Keeps s0 (State.ensureCopy a0 a1 s).1 := by
  unfold State.ensureCopy
  repeat' first
    | (with_reducible assumption)
    | (with_reducible apply State.ensureCopyAs_keeps)

theorem State.failWrite_keeps {s0 s : State} {a0 : Nat} {a1 : Byte} (h : Keeps s0 s) :
    Keeps s0 (State.failWrite a0 a1 s) := by
  unfold State.failWrite
  repeat' first
    | (with_reducible assumption)
    | (with_reducible apply State.moveCopy_keeps)
    | (with_reducible apply State.relocate_keeps)
    | (with_reducible apply State.retireFrame_keeps)
    | (with_reducible refine Keeps.of_ite (fun _ => ?_) (fun _ => ?_))
    | split

theorem State.backOut_keeps {s0 s s1 : State} (h : Keeps s0 s) (h2 : Keeps s0 s1) :
    Keeps s0 (State.backOut s s1) := by
  unfold State.backOut
  repeat' first
    | (with_reducible assumption)
    | (simp only [Keeps.same])
    | (with_reducible refine Keeps.of_ite (fun _ => ?_) (fun _ => ?_))

theorem State.dropLine_keeps {s0 s : State} {a0 : CtxNo} {a1 : Nat} (h : Keeps s0 s) :
    Keeps s0 (State.dropLine a0 a1 s) := by
  unfold State.dropLine
  repeat' first
    | (with_reducible assumption)
    | (with_reducible apply State.modSes_keeps)
    | (with_reducible apply State.writeLine_keeps)
    | split

theorem State.stuck_keeps {s0 s s1 : State} {a0 : CtxNo} (h : Keeps s0 s) (h2 : Keeps s0 s1) :
    Keeps s0 (State.stuck a0 s s1) := by
  unfold State.stuck
  repeat' first
    | (with_reducible assumption)
    | (with_reducible apply State.waitsHere_keeps)
    | (with_reducible refine Keeps.of_ite (fun _ => ?_) (fun _ => ?_))

theorem State.pageReady_keeps {s0 s : State} {a0 : CtxNo} {a1 a2 a3 : Nat} (h : Keeps s0 s) :
    Keeps s0 (State.pageReady a0 a1 a2 a3 s).1 := by
  unfold State.pageReady
  repeat' first
    | (with_reducible assumption)
    | (with_reducible apply State.ensureCopy_keeps)
    | (with_reducible apply State.stuck_keeps)
    | (with_reducible apply State.unitFail_keeps)
    | (simp only [Keeps.same])
    | (with_reducible refine Keeps.of_pair ‹_ = (_, _)› ?_)
    | (with_reducible refine Keeps.of_iteP (fun _ => ?_) (fun _ => ?_))
    | split

theorem State.pageRead_keeps {s0 s : State} {a0 : CtxNo} {a1 a2 : Nat} (h : Keeps s0 s) :
    Keeps s0 (State.pageRead a0 a1 a2 s).1 := by
  unfold State.pageRead
  repeat' first
    | (with_reducible assumption)
    | (with_reducible apply State.pageReady_keeps)
    | (simp only [Keeps.same])
    | (with_reducible refine Keeps.of_pair ‹_ = (_, _)› ?_)
    | split

theorem State.pageTouch_keeps {s0 s : State} {a0 : CtxNo} {a1 : Nat} (h : Keeps s0 s) :
    Keeps s0 (State.pageTouch a0 a1 s).1 := by
  unfold State.pageTouch
  repeat' first
    | (with_reducible assumption)
    | (with_reducible apply State.copyOnWrite_keeps)
    | (with_reducible apply State.ensureCopy_keeps)
    | (with_reducible apply State.firstTouch_keeps)
    | (with_reducible apply State.stuck_keeps)
    | (with_reducible apply State.unitFail_keeps)
    | (simp only [Keeps.same])
    | (with_reducible refine Keeps.of_pair ‹_ = (_, _)› ?_)
    | (with_reducible refine Keeps.of_iteP (fun _ => ?_) (fun _ => ?_))
    | split

theorem State.pageWrite_keeps {s0 s : State} {a0 : CtxNo} {a1 a2 : Nat} {a3 : Word} (h : Keeps s0 s) :
    Keeps s0 (State.pageWrite a0 a1 a2 a3 s).1 := by
  unfold State.pageWrite
  repeat' first
    | (with_reducible assumption)
    | (with_reducible apply State.markDirty_keeps)
    | (with_reducible apply State.pageTouch_keeps)
    | (with_reducible apply State.setWord_keeps)
    | (simp only [Keeps.same])
    | (with_reducible refine Keeps.of_pair ‹_ = (_, _)› ?_)
    | split

theorem State.pageWriteD_keeps {s0 s : State} {a0 : CtxNo} {a1 a2 : Nat} {a3 : Word} (h : Keeps s0 s) :
    Keeps s0 (State.pageWriteD a0 a1 a2 a3 s) := by
  unfold State.pageWriteD
  repeat' first
    | (with_reducible assumption)
    | (with_reducible apply State.pageWrite_keeps)

theorem State.thawed_keeps {s0 s s1 : State} {a0 : CtxNo} {a1 : Nat} {a2 a3 : Bool} (h : Keeps s0 s) (h2 : Keeps s0 s1) :
    Keeps s0 (State.thawed a0 a1 a2 a3 s s1) := by
  unfold State.thawed
  repeat' first
    | (with_reducible assumption)
    | (with_reducible apply State.countFreeze_keeps)
    | (with_reducible refine Keeps.of_ite (fun _ => ?_) (fun _ => ?_))

theorem State.trimLines_keeps {s0 s : State} {a0 : CtxNo} (h : Keeps s0 s) :
    Keeps s0 (State.trimLines a0 s) := by
  unfold State.trimLines
  repeat' first
    | (with_reducible assumption)
    | (with_reducible apply State.ensureCopy_keeps)
    | (with_reducible apply State.modSes_keeps)
    | (with_reducible apply State.writeLine_keeps)
    | (with_reducible refine Keeps.foldl (fun _ _ _ => ?_) _ ?_)
    | (with_reducible refine Keeps.of_ite (fun _ => ?_) (fun _ => ?_))

theorem State.useLine_keeps {s0 s : State} {a0 : CtxNo} {a1 : Nat} {a2 : Option (Nat × Word)} (h : Keeps s0 s) :
    Keeps s0 (State.useLine a0 a1 a2 s) := by
  unfold State.useLine
  repeat' first
    | (with_reducible assumption)
    | (with_reducible apply State.countFreeze_keeps)
    | (with_reducible apply State.modSes_keeps)
    | (with_reducible apply State.trimLines_keeps)
    | (simp only [Keeps.same])
    | (with_reducible refine Keeps.of_ite (fun _ => ?_) (fun _ => ?_))

theorem State.keeperCycles_keeps {s0 s : State} {a0 : Fin 4} {a1 : Nat} (h : Keeps s0 s) :
    Keeps s0 (State.keeperCycles a0 a1 s) := by
  unfold State.keeperCycles
  repeat' first
    | (with_reducible assumption)
    | (with_reducible apply State.modKeeper_keeps)

theorem State.sesCycles_keeps {s0 s : State} {a0 : CtxNo} {a1 : Nat} (h : Keeps s0 s) :
    Keeps s0 (State.sesCycles a0 a1 s) := by
  unfold State.sesCycles
  repeat' first
    | (with_reducible assumption)
    | (with_reducible apply State.modSes_keeps)

theorem State.fixNext_keeps {s0 s : State} {a0 a1 a2 : Nat} (h : Keeps s0 s) :
    Keeps s0 (State.fixNext a0 a1 a2 s) := by
  unfold State.fixNext
  repeat' first
    | (with_reducible assumption)
    | (with_reducible apply State.setReg_keeps)
    | (with_reducible apply State.setRegField_keeps)
    | (with_reducible apply State.setSlot_keeps)
    | (simp only [Keeps.same])
    | (with_reducible refine Keeps.of_ite (fun _ => ?_) (fun _ => ?_))
    | split

theorem State.fixTo_keeps {s0 s : State} {a0 a1 a2 a3 a4 : Nat} (h : Keeps s0 s) :
    Keeps s0 (State.fixTo a0 a1 a2 a3 a4 s) := by
  induction a4 generalizing s with
  | zero =>
    unfold State.fixTo
    repeat' first
      | (with_reducible assumption)
      | (with_reducible apply ih)
      | (with_reducible apply State.fixNext_keeps)
      | (with_reducible refine Keeps.of_ite (fun _ => ?_) (fun _ => ?_))
      | split
  | succ n ih =>
    unfold State.fixTo
    repeat' first
      | (with_reducible assumption)
      | (with_reducible apply ih)
      | (with_reducible apply State.fixNext_keeps)
      | (with_reducible refine Keeps.of_ite (fun _ => ?_) (fun _ => ?_))
      | split

theorem State.releaseOf_keeps {s0 s : State} {a0 : CtxNo} {a1 a2 : Nat} (h : Keeps s0 s) :
    Keeps s0 (State.releaseOf a0 a1 a2 s).1 := by
  unfold State.releaseOf
  repeat' first
    | (with_reducible assumption)
    | (with_reducible apply State.fixTo_keeps)
    | (simp only [Keeps.same])
    | split

theorem State.stretch_keeps {s0 s : State} {a0 a1 a2 a3 : Nat} (h : Keeps s0 s) :
    Keeps s0 (State.stretch a0 a1 a2 a3 s) := by
  unfold State.stretch
  repeat' first
    | (with_reducible assumption)
    | (with_reducible apply State.modSlot_keeps)

theorem State.sRead_keeps {s0 s : State} {a0 : CtxNo} {a1 a2 : Nat} (h : Keeps s0 s) :
    Keeps s0 (State.sRead a0 a1 a2 s).1 := by
  unfold State.sRead
  repeat' first
    | (with_reducible assumption)
    | (with_reducible apply State.pageRead_keeps)

theorem State.sWrite_keeps {s0 s : State} {a0 : CtxNo} {a1 a2 : Nat} {a3 : Word} {a4 : Nat} (h : Keeps s0 s) :
    Keeps s0 (State.sWrite a0 a1 a2 a3 a4 s).1 := by
  unfold State.sWrite
  repeat' first
    | (with_reducible assumption)
    | (with_reducible apply State.modSes_keeps)
    | (with_reducible apply State.pageWrite_keeps)
    | (simp only [Keeps.same])
    | (with_reducible refine Keeps.of_pair ‹_ = (_, _)› ?_)
    | (with_reducible refine Keeps.of_ite (fun _ => ?_) (fun _ => ?_))
    | (with_reducible refine Keeps.of_iteP (fun _ => ?_) (fun _ => ?_))
    | split

theorem State.vRead_keeps {s0 s : State} {a0 : CtxNo} {a1 a2 : Nat} (h : Keeps s0 s) :
    Keeps s0 (State.vRead a0 a1 a2 s).1 := by
  unfold State.vRead
  repeat' first
    | (with_reducible assumption)
    | (with_reducible apply State.pageRead_keeps)

theorem State.vWrite_keeps {s0 s : State} {a0 : CtxNo} {a1 a2 : Nat} {a3 : Word} {a4 : Nat} (h : Keeps s0 s) :
    Keeps s0 (State.vWrite a0 a1 a2 a3 a4 s).1 := by
  unfold State.vWrite
  repeat' first
    | (with_reducible assumption)
    | (with_reducible apply State.modSes_keeps)
    | (with_reducible apply State.pageWrite_keeps)
    | (simp only [Keeps.same])
    | (with_reducible refine Keeps.of_pair ‹_ = (_, _)› ?_)
    | (with_reducible refine Keeps.of_ite (fun _ => ?_) (fun _ => ?_))
    | (with_reducible refine Keeps.of_iteP (fun _ => ?_) (fun _ => ?_))
    | split

theorem State.lpgWord_keeps {s0 s : State} {a0 : CtxNo} {a1 : Nat} (h : Keeps s0 s) :
    Keeps s0 (State.lpgWord a0 a1 s).1 := by
  unfold State.lpgWord
  repeat' first
    | (with_reducible assumption)
    | (with_reducible apply State.vRead_keeps)
    | (simp only [Keeps.same])
    | split

theorem State.lpgPair_keeps {s0 s : State} {a0 : CtxNo} {a1 : Nat} (h : Keeps s0 s) :
    Keeps s0 (State.lpgPair a0 a1 s).1 := by
  unfold State.lpgPair
  repeat' first
    | (with_reducible assumption)
    | (with_reducible apply State.lpgWord_keeps)
    | (simp only [Keeps.same])
    | (with_reducible refine Keeps.of_pair ‹_ = (_, _)› ?_)
    | split

theorem State.lpgAct_keeps {s0 s : State} {a0 : CtxNo} {a1 a2 : Word} (h : Keeps s0 s) :
    Keeps s0 (State.lpgAct a0 a1 a2 s).1 := by
  unfold State.lpgAct
  repeat' first
    | (with_reducible assumption)
    | (with_reducible apply State.lpgPair_keeps)
    | (with_reducible apply State.lpgWord_keeps)
    | (with_reducible apply State.modSes_keeps)
    | (simp only [Keeps.same])
    | (with_reducible refine Keeps.of_pair ‹_ = (_, _)› ?_)
    | (with_reducible refine Keeps.of_iteP (fun _ => ?_) (fun _ => ?_))
    | split

theorem State.lpgEntry_keeps {s0 s : State} {a0 : CtxNo} {a1 : Nat → Bool} (h : Keeps s0 s) :
    Keeps s0 (State.lpgEntry a0 a1 s).1 := by
  unfold State.lpgEntry
  repeat' first
    | (with_reducible assumption)
    | (with_reducible apply State.lpgAct_keeps)
    | (with_reducible apply State.lpgPair_keeps)
    | (with_reducible apply State.waits_keeps)
    | (simp only [Keeps.same])
    | (with_reducible refine Keeps.of_pair ‹_ = (_, _)› ?_)
    | (with_reducible refine Keeps.of_iteP (fun _ => ?_) (fun _ => ?_))
    | split

theorem State.lpgRun_keeps {s0 s : State} {a0 : CtxNo} {a1 : Reach} {a2 : Nat} (h : Keeps s0 s) :
    Keeps s0 (State.lpgRun a0 a1 a2 s).1 := by
  induction a2 generalizing s with
  | zero =>
    unfold State.lpgRun
    repeat' first
      | (with_reducible assumption)
      | (with_reducible apply ih)
      | (with_reducible apply State.lpgEntry_keeps)
      | (with_reducible apply State.modSes_keeps)
      | (with_reducible refine Keeps.of_pair ‹_ = (_, _)› ?_)
      | (with_reducible refine Keeps.of_iteP (fun _ => ?_) (fun _ => ?_))
      | split
  | succ n ih =>
    unfold State.lpgRun
    repeat' first
      | (with_reducible assumption)
      | (with_reducible apply ih)
      | (with_reducible apply State.lpgEntry_keeps)
      | (with_reducible apply State.modSes_keeps)
      | (with_reducible refine Keeps.of_pair ‹_ = (_, _)› ?_)
      | (with_reducible refine Keeps.of_iteP (fun _ => ?_) (fun _ => ?_))
      | split

theorem State.lpgCatchUp_keeps {s0 s : State} {a0 : CtxNo} {a1 : Reach} (h : Keeps s0 s) :
    Keeps s0 (State.lpgCatchUp a0 a1 s).1 := by
  unfold State.lpgCatchUp
  repeat' first
    | (with_reducible assumption)
    | (with_reducible apply State.lpgRun_keeps)

theorem State.lpgRow_keeps {s0 s : State} {a0 : CtxNo} {a1 : Nat → Bool} (h : Keeps s0 s) :
    Keeps s0 (State.lpgRow a0 a1 s) := by
  unfold State.lpgRow
  repeat' first
    | (with_reducible assumption)
    | (with_reducible apply State.lpgEntry_keeps)
    | (with_reducible refine Keeps.of_ite (fun _ => ?_) (fun _ => ?_))

theorem execLoop_keeps {s0 s : State} {a0 : CtxNo} (h : Keeps s0 s) :
    KeepsR s0 (execLoop a0 s) := by
  unfold execLoop
  repeat' first
    | (with_reducible assumption)
    | (with_reducible apply State.lpgRow_keeps)
    | (with_reducible apply KeepsR.next)

theorem execLpgEnd_keeps {s0 s : State} {a0 : CtxNo} (h : Keeps s0 s) :
    KeepsR s0 (execLpgEnd a0 s) := by
  unfold execLpgEnd
  repeat' first
    | (with_reducible assumption)
    | (with_reducible apply State.lpgRow_keeps)
    | (with_reducible apply KeepsR.next)

theorem execLpgStart_keeps {s0 s : State} {a0 : CtxNo} (h : Keeps s0 s) :
    KeepsR s0 (execLpgStart a0 s) := by
  unfold execLpgStart
  repeat' first
    | (with_reducible assumption)
    | (with_reducible apply State.modSes_keeps)
    | (with_reducible apply KeepsR.next)
    | (with_reducible refine Keeps.of_ite (fun _ => ?_) (fun _ => ?_))

theorem execLpgWait_keeps {s0 s : State} {a0 : CtxNo} (h : Keeps s0 s) :
    KeepsR s0 (execLpgWait a0 s) := by
  unfold execLpgWait
  repeat' first
    | (with_reducible assumption)
    | (with_reducible apply State.lpgRow_keeps)
    | (with_reducible apply KeepsR.next)

theorem execSetp_keeps {s0 s : State} {a0 : CtxNo} (h : Keeps s0 s) :
    KeepsR s0 (execSetp a0 s) := by
  unfold execSetp
  repeat' first
    | (with_reducible assumption)
    | (with_reducible apply State.lpgRow_keeps)
    | (with_reducible apply KeepsR.next)

theorem execWpal_keeps {s0 s : State} {a0 : CtxNo} (h : Keeps s0 s) :
    KeepsR s0 (execWpal a0 s) := by
  unfold execWpal
  repeat' first
    | (with_reducible assumption)
    | (with_reducible apply State.lpgRow_keeps)
    | (with_reducible apply KeepsR.next)

theorem execWreg_keeps {s0 s : State} {a0 : CtxNo} (h : Keeps s0 s) :
    KeepsR s0 (execWreg a0 s) := by
  unfold execWreg
  repeat' first
    | (with_reducible assumption)
    | (with_reducible apply State.lpgRow_keeps)
    | (with_reducible apply KeepsR.next)

theorem State.beamDue_keeps {s0 s : State} {a0 : CtxNo} (h : Keeps s0 s) :
    Keeps s0 (State.beamDue a0 s) := by
  unfold State.beamDue
  repeat' first
    | (with_reducible assumption)
    | (with_reducible apply State.lpgCatchUp_keeps)
    | (with_reducible apply State.modSes_keeps)
    | (with_reducible refine Keeps.of_ite (fun _ => ?_) (fun _ => ?_))

theorem execBeamlineRead_keeps {s0 s : State} {a0 : CtxNo} (h : Keeps s0 s) :
    KeepsR s0 (execBeamlineRead a0 s) := by
  unfold execBeamlineRead
  repeat' first
    | (with_reducible assumption)
    | (with_reducible apply State.modSes_keeps)
    | (with_reducible apply State.reply_keeps)
    | (simp only [Keeps.same])
    | (with_reducible apply KeepsR.next)
    | (with_reducible refine Keeps.of_ite (fun _ => ?_) (fun _ => ?_))

theorem execPaletteRead_keeps {s0 s : State} {a0 : CtxNo} (h : Keeps s0 s) :
    KeepsR s0 (execPaletteRead a0 s) := by
  unfold execPaletteRead
  repeat' first
    | (with_reducible assumption)
    | (with_reducible apply State.lpgCatchUp_keeps)
    | (with_reducible apply State.modSes_keeps)
    | (with_reducible apply State.reply_keeps)
    | (simp only [Keeps.same])
    | (with_reducible apply KeepsR.next)
    | (with_reducible refine Keeps.of_pair ‹_ = (_, _)› ?_)
    | (with_reducible refine Keeps.of_ite (fun _ => ?_) (fun _ => ?_))
    | split

theorem execPaletteWrite_keeps {s0 s : State} {a0 : CtxNo} {a1 : Word} (h : Keeps s0 s) :
    KeepsR s0 (execPaletteWrite a0 a1 s) := by
  unfold execPaletteWrite
  repeat' first
    | (with_reducible assumption)
    | (with_reducible apply State.modSes_keeps)
    | (with_reducible apply KeepsR.next)
    | (with_reducible refine Keeps.of_ite (fun _ => ?_) (fun _ => ?_))

theorem execVidCommit_keeps {s0 s : State} {a0 : CtxNo} (h : Keeps s0 s) :
    KeepsR s0 (execVidCommit a0 s) := by
  unfold execVidCommit
  repeat' first
    | (with_reducible assumption)
    | (with_reducible apply State.modSes_keeps)
    | (with_reducible apply KeepsR.next)
    | (with_reducible refine Keeps.of_ite (fun _ => ?_) (fun _ => ?_))

theorem State.countLoam_keeps {s0 s : State} {a0 : Byte} {a1 a2 : Nat} (h : Keeps s0 s) :
    Keeps s0 (State.countLoam a0 a1 a2 s) := by
  unfold State.countLoam
  repeat' first
    | (with_reducible assumption)
    | (with_reducible apply State.countReg_keeps)
    | (with_reducible refine Keeps.of_ite (fun _ => ?_) (fun _ => ?_))

theorem State.persistent_keeps {s0 s : State} {a0 : LoamOp} {a1 : Byte} {a2 : Nat} (h : Keeps s0 s) :
    Keeps s0 (State.persistent a0 a1 a2 s) := by
  unfold State.persistent
  repeat' first
    | (with_reducible assumption)
    | (with_reducible apply State.countLoam_keeps)
    | (with_reducible apply State.failRead_keeps)
    | (with_reducible apply State.failWrite_keeps)
    | (with_reducible apply State.offer_keeps)
    | (with_reducible apply State.raiseP_keeps)
    | (simp only [Keeps.same])
    | (with_reducible refine Keeps.of_ite (fun _ => ?_) (fun _ => ?_))

theorem State.agentRead_keeps {s0 s : State} {a0 : Byte} {a1 a2 : Nat} (h : Keeps s0 s) :
    Keeps s0 (State.agentRead a0 a1 a2 s) := by
  unfold State.agentRead
  repeat' first
    | (with_reducible assumption)
    | (with_reducible apply State.countLoam_keeps)
    | (with_reducible apply State.persistent_keeps)
    | split

theorem State.dirtied_keeps {s0 s : State} {a0 : Nat} (h : Keeps s0 s) :
    Keeps s0 (State.dirtied a0 s) := by
  unfold State.dirtied
  repeat' first
    | (with_reducible assumption)
    | (with_reducible apply State.modCtx_keeps)
    | (with_reducible apply State.modFrame_keeps)
    | (simp only [Keeps.same])
    | (with_reducible refine Keeps.foldl (fun _ _ _ => ?_) _ ?_)
    | (with_reducible refine Keeps.of_ite (fun _ => ?_) (fun _ => ?_))

theorem State.storeTakers_keeps {s0 s : State} {a0 : Nat} {a1 : List Byte} {a2 : Bool} (h : Keeps s0 s) :
    Keeps s0 (State.storeTakers a0 a1 a2 s) := by
  unfold State.storeTakers
  repeat' first
    | (with_reducible assumption)
    | (with_reducible apply State.poisonWords_keeps)
    | (with_reducible apply State.setBytes_keeps)
    | (simp only [Keeps.same])
    | (with_reducible refine Keeps.foldl (fun _ _ _ => ?_) _ ?_)
    | (with_reducible refine Keeps.of_ite (fun _ => ?_) (fun _ => ?_))

theorem State.unstaged_keeps {s0 s : State} {a0 : Nat} (h : Keeps s0 s) :
    Keeps s0 (State.unstaged a0 s) := by
  unfold State.unstaged
  repeat' first
    | (with_reducible assumption)
    | (with_reducible apply State.dropLine_keeps)
    | (simp only [Keeps.same])
    | (with_reducible refine Keeps.foldl (fun _ _ _ => ?_) _ ?_)
    | (with_reducible refine Keeps.of_ite (fun _ => ?_) (fun _ => ?_))

theorem State.unstagedFrom_keeps {s0 s : State} {a0 a1 : Nat} (h : Keeps s0 s) :
    Keeps s0 (State.unstagedFrom a0 a1 s) := by
  unfold State.unstagedFrom
  repeat' first
    | (with_reducible assumption)
    | (with_reducible apply State.unstaged_keeps)
    | (simp only [Keeps.same])
    | (with_reducible refine Keeps.foldl (fun _ _ _ => ?_) _ ?_)
    | (with_reducible refine Keeps.of_ite (fun _ => ?_) (fun _ => ?_))

theorem State.agentStore_keeps {s0 s : State} {a0 a1 : Nat} {a2 : List Byte} (h : Keeps s0 s) :
    Keeps s0 (State.agentStore a0 a1 a2 s) := by
  unfold State.agentStore
  repeat' first
    | (with_reducible assumption)
    | (with_reducible apply State.dirtied_keeps)
    | (with_reducible apply State.storeTakers_keeps)
    | (with_reducible apply State.unstagedFrom_keeps)
    | (simp only [Keeps.same])
    | (with_reducible refine Keeps.foldl (fun _ _ _ => ?_) _ ?_)
    | (with_reducible refine Keeps.of_ite (fun _ => ?_) (fun _ => ?_))

theorem State.loamRead_keeps {s0 s : State} {a0 a1 : Nat} (h : Keeps s0 s) :
    Keeps s0 (State.loamRead a0 a1 s).1 := h.upd rfl rfl (Nat.le_add_right _ _) (List.suffix_refl _) (fun i => ⟨i.mem, i.bad, i.wake, i.slip, i.halt, i.mbq, i.quar⟩)

theorem State.loamStore_keeps {s0 s : State} {a0 : Nat} {a1 : List Word} {a2 : Bool} (h : Keeps s0 s) :
    Keeps s0 (State.loamStore a0 a1 a2 s) := by
  unfold State.loamStore
  repeat' first
    | (with_reducible assumption)
    | (with_reducible apply State.dirtied_keeps)
    | (with_reducible apply State.storeTakers_keeps)
    | (with_reducible apply State.unstaged_keeps)

theorem State.publish_keeps {s0 s : State} {a0 : Nat} {a1 : Option Nat} (h : Keeps s0 s) :
    Keeps s0 (State.publish a0 a1 s) := by
  unfold State.publish
  repeat' first
    | (with_reducible assumption)
    | (with_reducible apply State.setReg_keeps)
    | split

theorem State.bandDone_keeps {s0 s : State} {a0 a1 a2 : Nat} {a3 : Bool} {a4 : Option Int} (h : Keeps s0 s) :
    Keeps s0 (State.bandDone a0 a1 a2 a3 a4 s) := by
  unfold State.bandDone
  repeat' first
    | (with_reducible assumption)
    | (with_reducible apply State.publish_keeps)
    | (with_reducible apply State.setReg_keeps)
    | (with_reducible apply State.setSlot_keeps)
    | (simp only [Keeps.same])
    | (with_reducible refine Keeps.of_ite (fun _ => ?_) (fun _ => ?_))

theorem State.passDropped_keeps {s0 s : State} {a0 a1 : Nat} (h : Keeps s0 s) :
    Keeps s0 (State.passDropped a0 a1 s) := by
  induction a1 generalizing s with
  | zero =>
    unfold State.passDropped
    repeat' first
      | (with_reducible assumption)
      | (with_reducible apply ih)
      | (with_reducible apply State.bandDone_keeps)
      | (with_reducible apply State.setSlot_keeps)
      | (simp only [Keeps.same])
      | (with_reducible refine Keeps.of_ite (fun _ => ?_) (fun _ => ?_))
  | succ n ih =>
    unfold State.passDropped
    repeat' first
      | (with_reducible assumption)
      | (with_reducible apply ih)
      | (with_reducible apply State.bandDone_keeps)
      | (with_reducible apply State.setSlot_keeps)
      | (simp only [Keeps.same])
      | (with_reducible refine Keeps.of_ite (fun _ => ?_) (fun _ => ?_))

theorem State.bandEnd_keeps {s0 s : State} {a0 : Nat} {a1 : BandDesc} (h : Keeps s0 s) :
    Keeps s0 (State.bandEnd a0 a1 s) := by
  unfold State.bandEnd
  repeat' first
    | (with_reducible assumption)
    | (with_reducible apply State.bandDone_keeps)
    | (with_reducible apply State.passDropped_keeps)

theorem State.countDiscard_keeps {s0 s : State} {a0 : FlowWords} (h : Keeps s0 s) :
    Keeps s0 (State.countDiscard a0 s) := by
  unfold State.countDiscard
  repeat' first
    | (with_reducible assumption)
    | (with_reducible apply State.countReg_keeps)

theorem State.countPkt_keeps {s0 s : State} {a0 a1 : Nat} (h : Keeps s0 s) :
    Keeps s0 (State.countPkt a0 a1 s) := by
  unfold State.countPkt
  repeat' first
    | (with_reducible assumption)
    | (with_reducible apply State.setReg_keeps)

end Sys2Proof.Machine
end

