-- ==== Sys2Proof/Laws/Kept3.lean ====
section
/-! SUPPORT. What the operations of the block keep, part 3 of 14: each leaves the queue, the part and what was sent,
uses free values up in order, and keeps a sound state sound (the relation of Laws/Keeps.lean). -/

set_option linter.all false

namespace Sys2Proof.Machine

open Sys2Proof

theorem State.doorbell_keeps {s0 s : State} {a0 : Fin 4} {a1 a2 : Word} {a3 : Reg32} (h : Keeps s0 s) :
    Keeps s0 (State.doorbell a0 a1 a2 a3 s) := by
  unfold State.doorbell
  repeat' first
    | (with_reducible assumption)
    | (with_reducible apply State.send_keeps)

theorem State.flashLeds_keeps {s0 s : State} (h : Keeps s0 s) :
    Keeps s0 (State.flashLeds s) := by
  unfold State.flashLeds
  repeat' first
    | (with_reducible assumption)
    | (simp only [Keeps.same])

theorem State.setSub_keeps {s0 s : State} {a0 a1 : Nat} {a2 : SubPort} (h : Keeps s0 s) :
    Keeps s0 (State.setSub a0 a1 a2 s) := by
  unfold State.setSub
  repeat' first
    | (with_reducible assumption)
    | (simp only [Keeps.same])

theorem State.putOnWire_keeps {s0 s : State} {a0 a1 : Nat} {a2 : List Byte} (h : Keeps s0 s) :
    Keeps s0 (State.putOnWire a0 a1 a2 s) := by
  unfold State.putOnWire
  repeat' first
    | (with_reducible assumption)
    | (with_reducible apply State.flashLeds_keeps)
    | (with_reducible apply State.send_keeps)
    | (with_reducible apply State.setSub_keeps)
    | (with_reducible apply State.spend_keeps)

theorem State.emit_keeps {s0 s : State} {a0 : FlowWords} {a1 : List Byte} (h : Keeps s0 s) :
    KeepsO s0 (State.emit a0 a1 s) := by
  unfold State.emit
  repeat' first
    | (with_reducible assumption)
    | (with_reducible apply State.countDiscard_keeps)
    | (with_reducible apply State.putOnWire_keeps)
    | (simp only [Keeps.same])
    | (with_reducible apply KeepsO.none)
    | (with_reducible apply KeepsO.some)
    | split

theorem State.enterAudio_keeps {s0 s : State} {a0 : Nat} {a1 : AudioDesc} (h : Keeps s0 s) :
    Keeps s0 (State.enterAudio a0 a1 s) := by
  unfold State.enterAudio
  repeat' first
    | (with_reducible assumption)
    | (with_reducible apply State.modSes_keeps)
    | (with_reducible apply State.modSlot_keeps)
    | (simp only [Keeps.same])
    | (with_reducible refine Keeps.of_ite (fun _ => ?_) (fun _ => ?_))

theorem State.setWord64_keeps {s0 s : State} {a0 a1 : Nat} (h : Keeps s0 s) :
    Keeps s0 (State.setWord64 a0 a1 s) := by
  unfold State.setWord64
  repeat' first
    | (with_reducible assumption)
    | (with_reducible apply State.agentStore_keeps)

theorem State.ktxReturn_keeps {s0 s : State} {a0 : Nat} {a1 : Option Clock} (h : Keeps s0 s) :
    Keeps s0 (State.ktxReturn a0 a1 s) := by
  unfold State.ktxReturn
  repeat' first
    | (with_reducible assumption)
    | (with_reducible apply State.raiseP_keeps)
    | (with_reducible apply State.setReg_keeps)
    | (with_reducible apply State.setWord64_keeps)
    | (simp only [Keeps.same])
    | (with_reducible refine Keeps.of_ite (fun _ => ?_) (fun _ => ?_))
    | split

theorem State.popAudio_keeps {s0 s : State} {a0 : Nat} {a1 : List AudioDesc} (h : Keeps s0 s) :
    Keeps s0 (State.popAudio a0 a1 s) := by
  unfold State.popAudio
  repeat' first
    | (with_reducible assumption)
    | (with_reducible apply State.enterAudio_keeps)
    | (with_reducible apply State.modSlot_keeps)
    | split

theorem State.returnLeft_keeps {s0 s : State} {a0 : Nat} {a1 : Reg32} (h : Keeps s0 s) :
    Keeps s0 (State.returnLeft a0 a1 s) := by
  unfold State.returnLeft
  repeat' first
    | (with_reducible assumption)
    | (with_reducible apply State.doorbell_keeps)
    | (simp only [Keeps.same])
    | (with_reducible refine Keeps.of_ite (fun _ => ?_) (fun _ => ?_))
    | split

theorem State.sendReturn_keeps {s0 s : State} {a0 : Nat} {a1 : FlowWords} {a2 : TapBuf} {a3 : Nat} (h : Keeps s0 s) :
    KeepsO s0 (State.sendReturn a0 a1 a2 a3 s) := by
  unfold State.sendReturn
  repeat' first
    | (with_reducible assumption)
    | (with_reducible apply State.countPkt_keeps)
    | (with_reducible apply State.countReg_keeps)
    | (with_reducible apply State.emit_keeps)
    | (with_reducible apply State.returnLeft_keeps)
    | (with_reducible apply State.spend_keeps)
    | (with_reducible apply KeepsO.some)
    | (with_reducible refine KeepsO.map ?_ (fun _ _ => ?_))
    | split

theorem State.sendAudio_keeps {s0 s : State} {a0 : Nat} (h : Keeps s0 s) :
    Keeps s0 (State.sendAudio a0 s) := by
  unfold State.sendAudio
  repeat' first
    | (with_reducible assumption)
    | (with_reducible apply State.countPkt_keeps)
    | (with_reducible apply State.emit_keeps)
    | (with_reducible apply State.modSes_keeps)
    | (with_reducible apply State.popAudio_keeps)
    | (with_reducible apply State.sendReturn_keeps)
    | (with_reducible refine Keeps.of_some ‹_ = some _› ?_)
    | split

theorem State.sendControl_keeps {s0 s : State} {a0 : Nat} (h : Keeps s0 s) :
    Keeps s0 (State.sendControl a0 s) := by
  unfold State.sendControl
  repeat' first
    | (with_reducible assumption)
    | (with_reducible apply State.agentRead_keeps)
    | (with_reducible apply State.emit_keeps)
    | (with_reducible apply State.modSlot_keeps)
    | (with_reducible refine Keeps.of_some ‹_ = some _› ?_)
    | split

theorem State.useVseq_keeps {s0 s : State} {a0 : Nat} (h : Keeps s0 s) :
    Keeps s0 (State.useVseq a0 s) := by
  unfold State.useVseq
  repeat' first
    | (with_reducible assumption)
    | (with_reducible apply State.countPkt_keeps)
    | (with_reducible apply State.modSes_keeps)

theorem State.sendFragment_keeps {s0 s : State} {a0 : Nat} (h : Keeps s0 s) :
    Keeps s0 (State.sendFragment a0 s) := by
  unfold State.sendFragment
  repeat' first
    | (with_reducible assumption)
    | (with_reducible apply State.bandEnd_keeps)
    | (with_reducible apply State.emit_keeps)
    | (with_reducible apply State.modSlot_keeps)
    | (with_reducible apply State.sendReturn_keeps)
    | (with_reducible apply State.setReg_keeps)
    | (with_reducible apply State.useVseq_keeps)
    | (simp only [Keeps.same])
    | (with_reducible refine Keeps.of_some ‹_ = some _› ?_)
    | (with_reducible refine Keeps.of_ite (fun _ => ?_) (fun _ => ?_))
    | split

theorem State.sendMarker_keeps {s0 s : State} {a0 : Nat} (h : Keeps s0 s) :
    Keeps s0 (State.sendMarker a0 s) := by
  unfold State.sendMarker
  repeat' first
    | (with_reducible assumption)
    | (with_reducible apply State.emit_keeps)
    | (with_reducible apply State.modSlot_keeps)
    | (with_reducible apply State.useVseq_keeps)
    | (with_reducible refine Keeps.of_some ‹_ = some _› ?_)
    | split

theorem State.tapAudio_keeps {s0 s : State} {a0 : CtxNo} {a1 : Nat} {a2 : AudioDesc} {a3 : Nat} (h : Keeps s0 s) :
    Keeps s0 (State.tapAudio a0 a1 a2 a3 s) := by
  unfold State.tapAudio
  repeat' first
    | (with_reducible assumption)
    | (with_reducible apply State.modSes_keeps)
    | (with_reducible apply State.modSlot_keeps)

theorem State.tapPackets_keeps {s0 s : State} {a0 : CtxNo} {a1 : Nat} {a2 : BandDesc} (h : Keeps s0 s) :
    Keeps s0 (State.tapPackets a0 a1 a2 s) := by
  unfold State.tapPackets
  repeat' first
    | (with_reducible assumption)
    | (with_reducible apply State.modSes_keeps)
    | (with_reducible apply State.modSlot_keeps)
    | (simp only [Keeps.same])
    | (with_reducible refine Keeps.foldl (fun _ _ _ => ?_) _ ?_)

theorem State.bringSound_keeps {s0 s : State} {a0 : CtxNo} {a1 : List (Nat × Nat)} (h : Keeps s0 s) :
    Keeps s0 (State.bringSound a0 a1 s).1 := by
  induction a1 generalizing s with
  | nil =>
    unfold State.bringSound
    repeat' first
      | (with_reducible assumption)
      | (with_reducible apply ih)
      | (with_reducible apply State.sRead_keeps)
      | (simp only [Keeps.same])
      | (with_reducible refine Keeps.of_pair ‹_ = (_, _)› ?_)
      | split
  | cons e l ih =>
    unfold State.bringSound
    repeat' first
      | (with_reducible assumption)
      | (with_reducible apply ih)
      | (with_reducible apply State.sRead_keeps)
      | (simp only [Keeps.same])
      | (with_reducible refine Keeps.of_pair ‹_ = (_, _)› ?_)
      | split

theorem State.bringSample_keeps {s0 s : State} {a0 : CtxNo} {a1 : Nat} {a2 : Session} (h : Keeps s0 s) :
    Keeps s0 (State.bringSample a0 a1 a2 s).1 := by
  unfold State.bringSample
  repeat' first
    | (with_reducible assumption)
    | (with_reducible apply State.bringSound_keeps)
    | (simp only [Keeps.same])
    | (with_reducible refine Keeps.of_pair ‹_ = (_, _)› ?_)
    | (with_reducible refine Keeps.of_iteP (fun _ => ?_) (fun _ => ?_))
    | split

theorem State.countMixWait_keeps {s0 s : State} {a0 : CtxNo} {a1 : Nat} (h : Keeps s0 s) :
    Keeps s0 (State.countMixWait a0 a1 s) := by
  unfold State.countMixWait
  repeat' first
    | (with_reducible assumption)
    | (with_reducible apply State.countFreeze_keeps)
    | (with_reducible refine Keeps.of_ite (fun _ => ?_) (fun _ => ?_))

theorem State.queuePacket_keeps {s0 s : State} {a0 : CtxNo} {a1 : Nat} (h : Keeps s0 s) :
    Keeps s0 (State.queuePacket a0 a1 s) := by
  unfold State.queuePacket
  repeat' first
    | (with_reducible assumption)
    | (with_reducible apply State.enterAudio_keeps)
    | (with_reducible apply State.modSes_keeps)
    | (with_reducible apply State.modSlot_keeps)
    | (with_reducible apply State.tapAudio_keeps)
    | (simp only [Keeps.same])
    | (with_reducible refine Keeps.of_ite (fun _ => ?_) (fun _ => ?_))
    | split

theorem State.sendWords_keeps {s0 s : State} {a0 : CtxNo} {a1 : Nat} {a2 a3 : Int} (h : Keeps s0 s) :
    Keeps s0 (State.sendWords a0 a1 a2 a3 s).1 := by
  unfold State.sendWords
  repeat' first
    | (with_reducible assumption)
    | (with_reducible apply State.modSes_keeps)
    | (with_reducible apply State.sWrite_keeps)
    | (simp only [Keeps.same])
    | (with_reducible refine Keeps.of_iteP (fun _ => ?_) (fun _ => ?_))
    | split

theorem State.mixNow_keeps {s0 s : State} {a0 : CtxNo} {a1 : Nat} (h : Keeps s0 s) :
    Keeps s0 (State.mixNow a0 a1 s) := by
  unfold State.mixNow
  repeat' first
    | (with_reducible assumption)
    | (with_reducible apply State.backOut_keeps)
    | (with_reducible apply State.modSes_keeps)
    | (with_reducible apply State.queuePacket_keeps)
    | (with_reducible apply State.sendWords_keeps)
    | (simp only [Keeps.same])
    | (with_reducible refine Keeps.of_ite (fun _ => ?_) (fun _ => ?_))
    | (with_reducible refine Keeps.of_iteP (fun _ => ?_) (fun _ => ?_))
    | split

theorem State.mixSample_keeps {s0 s : State} {a0 : CtxNo} (h : Keeps s0 s) :
    Keeps s0 (State.mixSample a0 s) := by
  unfold State.mixSample
  repeat' first
    | (with_reducible assumption)
    | (with_reducible apply State.bringSample_keeps)
    | (with_reducible apply State.mixNow_keeps)
    | (with_reducible refine Keeps.of_pair ‹_ = (_, _)› ?_)
    | (with_reducible refine Keeps.of_ite (fun _ => ?_) (fun _ => ?_))
    | split

theorem State.mixBefore_keeps {s0 s : State} {a0 : CtxNo} {a1 a2 : Nat} (h : Keeps s0 s) :
    Keeps s0 (State.mixBefore a0 a1 a2 s) := by
  induction a2 generalizing s with
  | zero =>
    unfold State.mixBefore
    repeat' first
      | (with_reducible assumption)
      | (with_reducible apply ih)
      | (with_reducible apply State.mixSample_keeps)
      | (with_reducible refine Keeps.of_ite (fun _ => ?_) (fun _ => ?_))
  | succ n ih =>
    unfold State.mixBefore
    repeat' first
      | (with_reducible assumption)
      | (with_reducible apply ih)
      | (with_reducible apply State.mixSample_keeps)
      | (with_reducible refine Keeps.of_ite (fun _ => ?_) (fun _ => ?_))

theorem State.mixDueBefore_keeps {s0 s : State} {a0 : CtxNo} {a1 : Nat} (h : Keeps s0 s) :
    Keeps s0 (State.mixDueBefore a0 a1 s) := by
  unfold State.mixDueBefore
  repeat' first
    | (with_reducible assumption)
    | (with_reducible apply State.mixBefore_keeps)

theorem State.mixFirst_keeps {s0 s : State} {a0 : CtxNo} {a1 : Nat} (h : Keeps s0 s) :
    Keeps s0 (State.mixFirst a0 a1 s).1 := by
  unfold State.mixFirst
  repeat' first
    | (with_reducible assumption)
    | (with_reducible apply State.countMixWait_keeps)
    | (with_reducible apply State.mixDueBefore_keeps)

theorem State.soundDue_keeps {s0 s : State} {a0 : CtxNo} (h : Keeps s0 s) :
    Keeps s0 (State.soundDue a0 s) := by
  unfold State.soundDue
  repeat' first
    | (with_reducible assumption)
    | (with_reducible apply State.countMixWait_keeps)
    | (with_reducible apply State.mixDueBefore_keeps)
    | (with_reducible refine Keeps.of_ite (fun _ => ?_) (fun _ => ?_))

theorem State.soundStore_keeps {s0 s : State} {a0 : CtxNo} {a1 : Nat} {a2 : Word} (h : Keeps s0 s) :
    Keeps s0 (State.soundStore a0 a1 a2 s).1 := by
  unfold State.soundStore
  repeat' first
    | (with_reducible assumption)
    | (with_reducible apply State.mixDueBefore_keeps)
    | (with_reducible apply State.modSes_keeps)
    | (simp only [Keeps.same])
    | (with_reducible refine Keeps.of_iteP (fun _ => ?_) (fun _ => ?_))

theorem execGainWrite_keeps {s0 s : State} {a0 : CtxNo} {a1 : Fin 138} {a2 : Word} (h : Keeps s0 s) :
    KeepsR s0 (execGainWrite a0 a1 a2 s) := by
  unfold execGainWrite
  repeat' first
    | (with_reducible assumption)
    | (with_reducible apply State.soundStore_keeps)
    | (with_reducible apply KeepsR.next)
    | (with_reducible refine Keeps.of_ite (fun _ => ?_) (fun _ => ?_))

theorem execKoff_keeps {s0 s : State} {a0 : CtxNo} {a1 : Fin 32} {a2 : Word} (h : Keeps s0 s) :
    KeepsR s0 (execKoff a0 a1 a2 s) := by
  unfold execKoff
  repeat' first
    | (with_reducible assumption)
    | (with_reducible apply State.soundStore_keeps)
    | (with_reducible apply KeepsR.next)
    | (with_reducible refine Keeps.of_ite (fun _ => ?_) (fun _ => ?_))

theorem execKon_keeps {s0 s : State} {a0 : CtxNo} {a1 : Fin 32} {a2 : Word} (h : Keeps s0 s) :
    KeepsR s0 (execKon a0 a1 a2 s) := by
  unfold execKon
  repeat' first
    | (with_reducible assumption)
    | (with_reducible apply State.soundStore_keeps)
    | (with_reducible apply KeepsR.next)
    | (with_reducible refine Keeps.of_ite (fun _ => ?_) (fun _ => ?_))

theorem State.renderLine_keeps {s0 s : State} {a0 : CtxNo} {a1 : Nat} {a2 : Session} (h : Keeps s0 s) :
    Keeps s0 (State.renderLine a0 a1 a2 s) := by
  unfold State.renderLine
  repeat' first
    | (with_reducible assumption)
    | (with_reducible apply State.addCnt_keeps)
    | (with_reducible apply State.modSes_keeps)
    | (with_reducible apply State.modSlot_keeps)
    | (with_reducible apply State.setReg_keeps)

theorem State.renderUpTo_keeps {s0 s : State} {a0 : CtxNo} {a1 a2 : Nat} (h : Keeps s0 s) :
    Keeps s0 (State.renderUpTo a0 a1 a2 s) := by
  induction a2 generalizing s with
  | zero =>
    unfold State.renderUpTo
    repeat' first
      | (with_reducible assumption)
      | (with_reducible apply ih)
      | (with_reducible apply State.renderLine_keeps)
      | (simp only [Keeps.same])
      | (with_reducible refine Keeps.of_ite (fun _ => ?_) (fun _ => ?_))
      | split
  | succ n ih =>
    unfold State.renderUpTo
    repeat' first
      | (with_reducible assumption)
      | (with_reducible apply ih)
      | (with_reducible apply State.renderLine_keeps)
      | (simp only [Keeps.same])
      | (with_reducible refine Keeps.of_ite (fun _ => ?_) (fun _ => ?_))
      | split

theorem State.spriteDue_keeps {s0 s : State} {a0 : CtxNo} (h : Keeps s0 s) :
    Keeps s0 (State.spriteDue a0 s).1 := by
  unfold State.spriteDue
  repeat' first
    | (with_reducible assumption)
    | (with_reducible apply State.countFreeze_keeps)
    | (with_reducible apply State.lpgCatchUp_keeps)
    | (with_reducible apply State.modSes_keeps)
    | (with_reducible apply State.renderUpTo_keeps)
    | (simp only [Keeps.same])
    | (with_reducible refine Keeps.of_pair ‹_ = (_, _)› ?_)
    | (with_reducible refine Keeps.of_ite (fun _ => ?_) (fun _ => ?_))
    | split

theorem State.bringPages_keeps {s0 s : State} {a0 : CtxNo} {a1 a2 : Nat} {a3 : List Nat} (h : Keeps s0 s) :
    Keeps s0 (State.bringPages a0 a1 a2 a3 s).1 := by
  induction a3 generalizing s with
  | nil =>
    unfold State.bringPages
    repeat' first
      | (with_reducible assumption)
      | (with_reducible apply ih)
      | (with_reducible apply State.ensureCopyAs_keeps)
      | (with_reducible refine Keeps.of_pair ‹_ = (_, _)› ?_)
      | split
  | cons e l ih =>
    unfold State.bringPages
    repeat' first
      | (with_reducible assumption)
      | (with_reducible apply ih)
      | (with_reducible apply State.ensureCopyAs_keeps)
      | (with_reducible refine Keeps.of_pair ‹_ = (_, _)› ?_)
      | split

theorem State.countLineWait_keeps {s0 s : State} {a0 : Nat} (h : Keeps s0 s) :
    Keeps s0 (State.countLineWait a0 s) := by
  unfold State.countLineWait
  repeat' first
    | (with_reducible assumption)
    | (with_reducible apply State.addCnt_keeps)
    | (with_reducible apply State.spend_keeps)
    | (with_reducible apply State.stall_keeps)

theorem State.linePages_keeps {s0 s : State} {a0 : CtxNo} {a1 : Nat} {a2 : LineSrc} (h : Keeps s0 s) :
    Keeps s0 (State.linePages a0 a1 a2 s).1 := by
  unfold State.linePages
  repeat' first
    | (with_reducible assumption)
    | (with_reducible apply State.bringPages_keeps)
    | (with_reducible apply State.countLineWait_keeps)
    | (with_reducible apply State.stuck_keeps)
    | (with_reducible apply State.unitFail_keeps)
    | (simp only [Keeps.same])
    | (with_reducible refine Keeps.of_pair ‹_ = (_, _)› ?_)
    | (with_reducible refine Keeps.of_ite (fun _ => ?_) (fun _ => ?_))
    | split

theorem State.lineRender_keeps {s0 s : State} {a0 : CtxNo} {a1 : Nat} (h : Keeps s0 s) :
    Keeps s0 (State.lineRender a0 a1 s) := by
  unfold State.lineRender
  repeat' first
    | (with_reducible assumption)
    | (with_reducible apply State.countLineWait_keeps)
    | (with_reducible apply State.linePages_keeps)
    | (with_reducible apply State.lpgCatchUp_keeps)
    | (with_reducible apply State.renderLine_keeps)
    | (simp only [Keeps.same])
    | (with_reducible refine Keeps.of_pair ‹_ = (_, _)› ?_)
    | (with_reducible refine Keeps.of_ite (fun _ => ?_) (fun _ => ?_))
    | split

theorem State.prefetch_keeps {s0 s : State} {a0 : CtxNo} {a1 : Nat} (h : Keeps s0 s) :
    Keeps s0 (State.prefetch a0 a1 s) := by
  unfold State.prefetch
  repeat' first
    | (with_reducible assumption)
    | (with_reducible apply State.ensureCopyAs_keeps)
    | (with_reducible apply State.modSlot_keeps)
    | (simp only [Keeps.same])
    | (with_reducible refine Keeps.foldl (fun _ _ _ => ?_) _ ?_)

theorem execLineRender_keeps {s0 s : State} {a0 : CtxNo} (h : Keeps s0 s) :
    KeepsR s0 (execLineRender a0 s) := by
  unfold execLineRender
  repeat' first
    | (with_reducible assumption)
    | (with_reducible apply State.lineRender_keeps)
    | (with_reducible apply KeepsR.next)
    | (with_reducible refine Keeps.of_ite (fun _ => ?_) (fun _ => ?_))
    | split

theorem State.ensureTitle_keeps {s0 s : State} {a0 : CtxNo} {a1 : Nat} (h : Keeps s0 s) :
    Keeps s0 (State.ensureTitle a0 a1 s).1 := by
  unfold State.ensureTitle
  repeat' first
    | (with_reducible assumption)
    | (with_reducible apply State.copyFrame_keeps)
    | (with_reducible apply State.countSlot_keeps)
    | (with_reducible apply State.takeGallery_keeps)
    | (with_reducible apply State.touchGallery_keeps)
    | (with_reducible apply State.unitFail_keeps)
    | (simp only [Keeps.same])
    | (with_reducible refine Keeps.of_someP ‹_ = some (_, _)› ?_)
    | (with_reducible refine Keeps.of_iteP (fun _ => ?_) (fun _ => ?_))
    | split

theorem State.titleReadyAt_keeps {s0 s : State} {a0 : CtxNo} {a1 a2 a3 : Nat} (h : Keeps s0 s) :
    Keeps s0 (State.titleReadyAt a0 a1 a2 a3 s).1 := by
  unfold State.titleReadyAt
  repeat' first
    | (with_reducible assumption)
    | (with_reducible apply State.ensureTitle_keeps)
    | (with_reducible apply State.stuck_keeps)
    | (with_reducible apply State.unitFail_keeps)
    | (simp only [Keeps.same])
    | (with_reducible refine Keeps.of_pair ‹_ = (_, _)› ?_)
    | (with_reducible refine Keeps.of_iteP (fun _ => ?_) (fun _ => ?_))
    | split

theorem State.titleStaged_keeps {s0 s : State} {a0 : CtxNo} {a1 a2 : Nat} (h : Keeps s0 s) :
    Keeps s0 (State.titleStaged a0 a1 a2 s).1 := by
  unfold State.titleStaged
  repeat' first
    | (with_reducible assumption)
    | (with_reducible apply State.titleReadyAt_keeps)
    | (with_reducible apply State.useLine_keeps)
    | (simp only [Keeps.same])
    | (with_reducible refine Keeps.of_pair ‹_ = (_, _)› ?_)
    | (with_reducible refine Keeps.of_iteP (fun _ => ?_) (fun _ => ?_))
    | split

theorem State.cRead_keeps {s0 s : State} {a0 : CtxNo} {a1 : Nat} (h : Keeps s0 s) :
    Keeps s0 (State.cRead a0 a1 s).1 := by
  unfold State.cRead
  repeat' first
    | (with_reducible assumption)
    | (with_reducible apply State.titleStaged_keeps)

theorem State.ramRead_keeps {s0 s : State} {a0 : CtxNo} {a1 : Nat} (h : Keeps s0 s) :
    Keeps s0 (State.ramRead a0 a1 s).1 := by
  unfold State.ramRead
  repeat' first
    | (with_reducible assumption)
    | (with_reducible apply State.pageReady_keeps)
    | (with_reducible apply State.useLine_keeps)
    | (simp only [Keeps.same])
    | (with_reducible refine Keeps.of_pair ‹_ = (_, _)› ?_)
    | split

theorem State.dRead_keeps {s0 s : State} {a0 : CtxNo} {a1 : Nat} (h : Keeps s0 s) :
    Keeps s0 (State.dRead a0 a1 s).1 := by
  unfold State.dRead
  repeat' first
    | (with_reducible assumption)
    | (with_reducible apply State.ramRead_keeps)
    | (with_reducible apply State.titleStaged_keeps)
    | (with_reducible refine Keeps.of_iteP (fun _ => ?_) (fun _ => ?_))

theorem State.titleRead_keeps {s0 s : State} {a0 : CtxNo} {a1 a2 : Nat} (h : Keeps s0 s) :
    Keeps s0 (State.titleRead a0 a1 a2 s).1 := by
  unfold State.titleRead
  repeat' first
    | (with_reducible assumption)
    | (with_reducible apply State.titleReadyAt_keeps)
    | (simp only [Keeps.same])
    | (with_reducible refine Keeps.of_pair ‹_ = (_, _)› ?_)
    | split

theorem State.dUnitRead_keeps {s0 s : State} {a0 : CtxNo} {a1 : Nat} (h : Keeps s0 s) :
    Keeps s0 (State.dUnitRead a0 a1 s).1 := by
  unfold State.dUnitRead
  repeat' first
    | (with_reducible assumption)
    | (with_reducible apply State.pageRead_keeps)
    | (with_reducible apply State.titleRead_keeps)
    | (with_reducible refine Keeps.of_iteP (fun _ => ?_) (fun _ => ?_))

theorem State.dUnitWrite_keeps {s0 s : State} {a0 : CtxNo} {a1 : Nat} {a2 : Word} (h : Keeps s0 s) :
    Keeps s0 (State.dUnitWrite a0 a1 a2 s).1 := by
  unfold State.dUnitWrite
  repeat' first
    | (with_reducible assumption)
    | (with_reducible apply State.backOut_keeps)
    | (with_reducible apply State.dropLine_keeps)
    | (with_reducible apply State.pageWrite_keeps)
    | (simp only [Keeps.same])
    | (with_reducible refine Keeps.of_iteP (fun _ => ?_) (fun _ => ?_))

theorem State.dWrite_keeps {s0 s : State} {a0 : CtxNo} {a1 : Nat} {a2 : Word} (h : Keeps s0 s) :
    Keeps s0 (State.dWrite a0 a1 a2 s).1 := by
  unfold State.dWrite
  repeat' first
    | (with_reducible assumption)
    | (with_reducible apply State.pageReady_keeps)
    | (with_reducible apply State.pageTouch_keeps)
    | (with_reducible apply State.pageWrite_keeps)
    | (with_reducible apply State.thawed_keeps)
    | (with_reducible apply State.useLine_keeps)
    | (simp only [Keeps.same])
    | (with_reducible refine Keeps.of_pair ‹_ = (_, _)› ?_)
    | (with_reducible refine Keeps.of_ite (fun _ => ?_) (fun _ => ?_))
    | (with_reducible refine Keeps.of_iteP (fun _ => ?_) (fun _ => ?_))
    | split

theorem State.fillData_keeps {s0 s : State} {a0 : CtxNo} {a1 : Nat} (h : Keeps s0 s) :
    Keeps s0 (State.fillData a0 a1 s) := by
  unfold State.fillData
  repeat' first
    | (with_reducible assumption)
    | (with_reducible apply State.modSes_keeps)
    | (with_reducible apply State.pageReady_keeps)
    | (with_reducible apply State.trimLines_keeps)
    | (with_reducible refine Keeps.of_pair ‹_ = (_, _)› ?_)
    | (with_reducible refine Keeps.of_ite (fun _ => ?_) (fun _ => ?_))
    | split

theorem State.fillTitle_keeps {s0 s : State} {a0 : CtxNo} {a1 a2 : Nat} (h : Keeps s0 s) :
    Keeps s0 (State.fillTitle a0 a1 a2 s) := by
  unfold State.fillTitle
  repeat' first
    | (with_reducible assumption)
    | (with_reducible apply State.modSes_keeps)
    | (with_reducible apply State.titleReadyAt_keeps)
    | (with_reducible apply State.trimLines_keeps)
    | (with_reducible refine Keeps.of_pair ‹_ = (_, _)› ?_)
    | (with_reducible refine Keeps.of_ite (fun _ => ?_) (fun _ => ?_))
    | split

theorem State.fillAhead_keeps {s0 s : State} {a0 : CtxNo} (h : Keeps s0 s) :
    Keeps s0 (State.fillAhead a0 s) := by
  unfold State.fillAhead
  repeat' first
    | (with_reducible assumption)
    | (with_reducible apply State.fillData_keeps)
    | (with_reducible apply State.fillTitle_keeps)
    | (simp only [Keeps.same])
    | (with_reducible refine Keeps.foldl (fun _ _ _ => ?_) _ ?_)
    | (with_reducible refine Keeps.of_ite (fun _ => ?_) (fun _ => ?_))
    | split

theorem State.clearSlotRegs_keeps {s0 s : State} {a0 : Nat} (h : Keeps s0 s) :
    Keeps s0 (State.clearSlotRegs a0 s) := by
  unfold State.clearSlotRegs
  repeat' first
    | (with_reducible assumption)
    | (with_reducible apply State.clearStall_keeps)
    | (with_reducible apply State.setReg_keeps)
    | (simp only [Keeps.same])
    | (with_reducible refine Keeps.foldl (fun _ _ _ => ?_) _ ?_)

theorem State.dropMirror_keeps {s0 s : State} {a0 : CtxNo} (h : Keeps s0 s) :
    Keeps s0 (State.dropMirror a0 s) := by
  unfold State.dropMirror
  repeat' first
    | (with_reducible assumption)
    | (with_reducible apply State.unmapPage_keeps)
    | (with_reducible refine Keeps.foldl (fun _ _ _ => ?_) _ ?_)

theorem State.takePages_keeps {s0 s : State} {a0 : CtxNo} {a1 : Option Nat} {a2 : List Nat} (h : Keeps s0 s) :
    KeepsO s0 (State.takePages a0 a1 a2 s) := by
  induction a2 generalizing s with
  | nil =>
    unfold State.takePages
    repeat' first
      | (with_reducible assumption)
      | (with_reducible apply ih)
      | (with_reducible apply State.clearFrame_keeps)
      | (with_reducible apply State.setPage_keeps)
      | (with_reducible apply State.takeHome_keeps)
      | (simp only [Keeps.same])
      | (with_reducible apply KeepsO.none)
      | (with_reducible apply KeepsO.some)
      | (with_reducible refine Keeps.of_someP ‹_ = some (_, _)› ?_)
      | split
  | cons e l ih =>
    unfold State.takePages
    repeat' first
      | (with_reducible assumption)
      | (with_reducible apply ih)
      | (with_reducible apply State.clearFrame_keeps)
      | (with_reducible apply State.setPage_keeps)
      | (with_reducible apply State.takeHome_keeps)
      | (simp only [Keeps.same])
      | (with_reducible apply KeepsO.none)
      | (with_reducible apply KeepsO.some)
      | (with_reducible refine Keeps.of_someP ‹_ = some (_, _)› ?_)
      | split

theorem State.reserve_keeps {s0 s : State} {a0 : CtxNo} {a1 : Nat} {a2 : Bool} (h : Keeps s0 s) :
    KeepsO s0 (State.reserve a0 a1 a2 s) := by
  unfold State.reserve
  repeat' first
    | (with_reducible assumption)
    | (with_reducible apply State.clearSlotRegs_keeps)
    | (with_reducible apply State.dropMirror_keeps)
    | (with_reducible apply State.modCtx_keeps)
    | (with_reducible apply State.modSlot_keeps)
    | (with_reducible apply State.setSlot_keeps)
    | (with_reducible apply State.takePages_keeps)
    | (simp only [Keeps.same])
    | (with_reducible apply KeepsO.some)
    | (with_reducible refine Keeps.foldl (fun _ _ _ => ?_) _ ?_)
    | (with_reducible refine Keeps.of_ite (fun _ => ?_) (fun _ => ?_))
    | split

theorem State.admitAt_keeps {s0 s : State} {a0 : CtxNo} {a1 : Nat} (h : Keeps s0 s) :
    Keeps s0 (State.admitAt a0 a1 s).2 := by
  unfold State.admitAt
  repeat' first
    | (with_reducible assumption)
    | (with_reducible apply State.reserve_keeps)
    | (simp only [Keeps.same])
    | (with_reducible refine Keeps.of_some ‹_ = some _› ?_)
    | (with_reducible refine Keeps.of_iteF (fun _ => ?_) (fun _ => ?_))
    | split

theorem State.beginCommand_keeps {s0 s : State} {a0 : Fin 4} {a1 : CtxNo} {a2 : List Reg32} {a3 a4 : Nat} (h : Keeps s0 s) :
    Keeps s0 (State.beginCommand a0 a1 a2 a3 a4 s) := by
  unfold State.beginCommand
  repeat' first
    | (with_reducible assumption)
    | (with_reducible apply State.modPort_keeps)

theorem State.bringIn_keeps {s0 s : State} {a0 : CtxNo} {a1 : Nat} (h : Keeps s0 s) :
    Keeps s0 (State.bringIn a0 a1 s) := by
  unfold State.bringIn
  repeat' first
    | (with_reducible assumption)
    | (with_reducible apply State.ensureCopy_keeps)

theorem State.command_keeps {s0 s : State} {a0 : Fin 4} {a1 : CtxNo} {a2 : List Reg32} {a3 : Nat} {a4 : Nat × State} (ha4 : Keeps s0 a4.2) (h : Keeps s0 s) :
    Keeps s0 (State.command a0 a1 a2 a3 a4 s) := by
  unfold State.command
  repeat' first
    | (with_reducible assumption)
    | (with_reducible apply State.beginCommand_keeps)
    | (with_reducible refine Keeps.of_ite (fun _ => ?_) (fun _ => ?_))

theorem State.commitEntry_keeps {s0 s : State} {a0 : CtxNo} {a1 a2 : Nat} (h : Keeps s0 s) :
    Keeps s0 (State.commitEntry a0 a1 a2 s) := by
  unfold State.commitEntry
  repeat' first
    | (with_reducible assumption)
    | (with_reducible apply State.dropMirror_keeps)
    | (with_reducible apply State.modCtx_keeps)
    | (simp only [Keeps.same])
    | (with_reducible refine Keeps.of_ite (fun _ => ?_) (fun _ => ?_))
    | split

theorem State.holdWrite_keeps {s0 s : State} {a0 : Byte} {a1 a2 a3 : Nat} {a4 : EntryPart} (h : Keeps s0 s) :
    Keeps s0 (State.holdWrite a0 a1 a2 a3 a4 s).1 := by
  unfold State.holdWrite
  repeat' first
    | (with_reducible assumption)
    | (simp only [Keeps.same])
    | (with_reducible refine Keeps.of_iteP (fun _ => ?_) (fun _ => ?_))
    | split

theorem State.contextEntryWrite_keeps {s0 s : State} {a0 : Byte} {a1 : CtxNo} {a2 : Fin 4} {a3 : EntryPart} (h : Keeps s0 s) :
    Keeps s0 (State.contextEntryWrite a0 a1 a2 a3 s) := by
  unfold State.contextEntryWrite
  repeat' first
    | (with_reducible assumption)
    | (with_reducible apply State.commitEntry_keeps)
    | (with_reducible apply State.holdWrite_keeps)
    | (simp only [Keeps.same])
    | split

theorem State.copyPages_keeps {s0 s : State} {a0 a1 : CtxNo} (h : Keeps s0 s) :
    Keeps s0 (State.copyPages a0 a1 s) := by
  unfold State.copyPages
  repeat' first
    | (with_reducible assumption)
    | (with_reducible apply State.copyFrame_keeps)
    | (with_reducible refine Keeps.foldl (fun _ _ _ => ?_) _ ?_)
    | (with_reducible refine Keeps.of_ite (fun _ => ?_) (fun _ => ?_))
    | split

theorem State.createAt_keeps {s0 s : State} {a0 : CtxNo} (h : Keeps s0 s) :
    Keeps s0 (State.createAt a0 s).2 := by
  unfold State.createAt
  repeat' first
    | (with_reducible assumption)
    | (with_reducible apply State.modCtx_keeps)
    | (with_reducible apply State.setRoot_keeps)
    | (with_reducible apply State.takePages_keeps)
    | (simp only [Keeps.same])
    | (with_reducible refine Keeps.of_some ‹_ = some _› ?_)
    | (with_reducible refine Keeps.of_iteF (fun _ => ?_) (fun _ => ?_))
    | split

theorem State.placeSlot_keeps {s0 s : State} {a0 : CtxNo} {a1 : Nat} {a2 : Session} (h : Keeps s0 s) :
    Keeps s0 (State.placeSlot a0 a1 a2 s) := by
  unfold State.placeSlot
  repeat' first
    | (with_reducible assumption)
    | (with_reducible apply State.modSlot_keeps)

theorem State.touchMirror_keeps {s0 s : State} {a0 : CtxNo} {a1 : Nat} (h : Keeps s0 s) :
    Keeps s0 (State.touchMirror a0 a1 s) := by
  unfold State.touchMirror
  repeat' first
    | (with_reducible assumption)
    | (with_reducible apply State.clearFrame_keeps)
    | (with_reducible apply State.countSlot_keeps)
    | (with_reducible apply State.markDirty_keeps)
    | (with_reducible apply State.modPage_keeps)
    | (with_reducible apply State.takeGallery_keeps)
    | (with_reducible apply State.touchGallery_keeps)
    | (simp only [Keeps.same])
    | (with_reducible refine Keeps.of_someP ‹_ = some (_, _)› ?_)
    | split

theorem State.enterRunning_keeps {s0 s : State} {a0 : CtxNo} (h : Keeps s0 s) :
    Keeps s0 (State.enterRunning a0 s) := by
  unfold State.enterRunning
  repeat' first
    | (with_reducible assumption)
    | (with_reducible apply State.bringIn_keeps)
    | (with_reducible apply State.modCtx_keeps)
    | (with_reducible apply State.modSes_keeps)
    | (with_reducible apply State.placeSlot_keeps)
    | (with_reducible apply State.prefetch_keeps)
    | (with_reducible apply State.touchMirror_keeps)
    | (simp only [Keeps.same])
    | (with_reducible refine Keeps.foldl (fun _ _ _ => ?_) _ ?_)
    | (with_reducible refine Keeps.of_ite (fun _ => ?_) (fun _ => ?_))
    | split

theorem State.exportAt_keeps {s0 s : State} {a0 : CtxNo} {a1 : LoamAddr} (h : Keeps s0 s) :
    Keeps s0 (State.exportAt a0 a1 s).2 := by
  unfold State.exportAt
  repeat' first
    | (with_reducible assumption)
    | (with_reducible apply State.modCtx_keeps)
    | (simp only [Keeps.same])
    | (with_reducible refine Keeps.of_iteF (fun _ => ?_) (fun _ => ?_))

theorem State.keepImages_keeps {s0 s : State} {a0 : CtxNo} (h : Keeps s0 s) :
    Keeps s0 (State.keepImages a0 s) := by
  unfold State.keepImages
  repeat' first
    | (with_reducible assumption)
    | (simp only [Keeps.same])
    | split

theorem State.finishRetire_keeps {s0 s : State} {a0 : CtxNo} (h : Keeps s0 s) :
    Keeps s0 (State.finishRetire a0 s) := by
  unfold State.finishRetire
  repeat' first
    | (with_reducible assumption)
    | (with_reducible apply State.freeSlot_keeps)
    | (with_reducible apply State.keepImages_keeps)
    | (with_reducible apply State.setCtx_keeps)
    | (with_reducible apply State.unmapPage_keeps)
    | (with_reducible refine Keeps.foldl (fun _ _ _ => ?_) _ ?_)

theorem State.finishSuspend_keeps {s0 s : State} {a0 : CtxNo} (h : Keeps s0 s) :
    Keeps s0 (State.finishSuspend a0 s) := by
  unfold State.finishSuspend
  repeat' first
    | (with_reducible assumption)
    | (with_reducible apply State.dropMirror_keeps)
    | (with_reducible apply State.freeSlot_keeps)
    | (with_reducible apply State.modCtx_keeps)
    | (with_reducible apply State.writeBackAll_keeps)
    | (with_reducible refine Keeps.of_ite (fun _ => ?_) (fun _ => ?_))

end Sys2Proof.Machine
end

