-- ==== Sys2Proof/Laws/Kept4.lean ====
section
/-! SUPPORT. What the operations of the block keep, part 4 of 14: each leaves the queue, the part and what was sent,
uses free values up in order, and keeps a sound state sound (the relation of Laws/Keeps.lean). -/

set_option linter.all false

namespace Sys2Proof.Machine

open Sys2Proof

theorem State.nextGen_keeps {s0 s : State} {a0 : CtxNo} (h : Keeps s0 s) :
    Keeps s0 (State.nextGen a0 s) := by
  unfold State.nextGen
  repeat' first
    | (with_reducible assumption)
    | (with_reducible apply State.modCtx_keeps)

theorem State.sharePage_keeps {s0 s : State} {a0 a1 : CtxNo} {a2 : Nat} (h : Keeps s0 s) :
    Keeps s0 (State.sharePage a0 a1 a2 s) := by
  unfold State.sharePage
  repeat' first
    | (with_reducible assumption)
    | (with_reducible apply State.modFrame_keeps)
    | (with_reducible apply State.modPage_keeps)
    | (with_reducible apply State.setPage_keeps)
    | (simp only [Keeps.same])
    | (with_reducible refine Keeps.of_ite (fun _ => ?_) (fun _ => ?_))

theorem State.snapFill_keeps {s0 s : State} {a0 a1 : CtxNo} (h : Keeps s0 s) :
    Keeps s0 (State.snapFill a0 a1 s) := by
  unfold State.snapFill
  repeat' first
    | (with_reducible assumption)
    | (with_reducible apply State.copyPages_keeps)
    | (with_reducible apply State.flushLines_keeps)
    | (with_reducible apply State.modCtx_keeps)
    | (with_reducible apply State.sharePage_keeps)
    | (with_reducible refine Keeps.foldl (fun _ _ _ => ?_) _ ?_)

theorem State.finish_keeps {s0 s : State} {a0 : Fin 4} {a1 : CtxNo} {a2 : Nat} (h : Keeps s0 s) :
    Keeps s0 (State.finish a0 a1 a2 s) := by
  unfold State.finish
  repeat' first
    | (with_reducible assumption)
    | (with_reducible apply State.agentStore_keeps)
    | (with_reducible apply State.endPort_keeps)
    | (with_reducible apply State.enterRunning_keeps)
    | (with_reducible apply State.finishRetire_keeps)
    | (with_reducible apply State.finishSuspend_keeps)
    | (with_reducible apply State.modCtx_keeps)
    | (with_reducible apply State.nextGen_keeps)
    | (with_reducible apply State.snapFill_keeps)
    | (simp only [Keeps.same])
    | (with_reducible refine Keeps.of_ite (fun _ => ?_) (fun _ => ?_))

theorem State.haltRead_keeps {s0 s : State} {a0 : Fin 2} (h : Keeps s0 s) :
    Keeps s0 (State.haltRead a0 s) := by
  unfold State.haltRead
  split
  · rename_i v l he
    apply State.reply_keeps
    apply State.setLevel_keeps
    exact h.upd rfl rfl (le_refl _) (List.suffix_refl _) (fun i => ⟨i.mem, i.bad, i.wake,
      i.slip, fifo_set i.halt a0.isLt (by have := i.halt a0; rw [he] at this; exact Nat.le_of_succ_le this), i.mbq, i.quar⟩)
  · exact State.reply_keeps h

theorem State.importPages_keeps {s0 s : State} {a0 : CtxNo} {a1 : List (Nat × Nat)} (h : Keeps s0 s) :
    KeepsO s0 (State.importPages a0 a1 s) := by
  induction a1 generalizing s with
  | nil =>
    unfold State.importPages
    repeat' first
      | (with_reducible assumption)
      | (with_reducible apply ih)
      | (with_reducible apply State.copyFrame_keeps)
      | (with_reducible apply State.setPage_keeps)
      | (with_reducible apply State.takeHome_keeps)
      | (simp only [Keeps.same])
      | (with_reducible apply KeepsO.none)
      | (with_reducible apply KeepsO.some)
      | (with_reducible refine Keeps.of_someP ‹_ = some (_, _)› ?_)
      | split
  | cons e l ih =>
    unfold State.importPages
    repeat' first
      | (with_reducible assumption)
      | (with_reducible apply ih)
      | (with_reducible apply State.copyFrame_keeps)
      | (with_reducible apply State.setPage_keeps)
      | (with_reducible apply State.takeHome_keeps)
      | (simp only [Keeps.same])
      | (with_reducible apply KeepsO.none)
      | (with_reducible apply KeepsO.some)
      | (with_reducible refine Keeps.of_someP ‹_ = some (_, _)› ?_)
      | split

theorem State.importAt_keeps {s0 s : State} {a0 : CtxNo} {a1 : LoamAddr} (h : Keeps s0 s) :
    Keeps s0 (State.importAt a0 a1 s).2 := by
  unfold State.importAt
  repeat' first
    | (with_reducible assumption)
    | (with_reducible apply State.importPages_keeps)
    | (with_reducible apply State.modCtx_keeps)
    | (with_reducible apply State.setCtx_keeps)
    | (with_reducible apply State.setRoot_keeps)
    | (simp only [Keeps.same])
    | (with_reducible refine Keeps.of_some ‹_ = some _› ?_)
    | (with_reducible refine Keeps.of_iteF (fun _ => ?_) (fun _ => ?_))
    | split

theorem State.importFail_keeps {s0 s : State} {a0 : CtxNo} {a1 : Nat} (h : Keeps s0 s) :
    Keeps s0 (State.importFail a0 a1 s) := by
  unfold State.importFail
  repeat' first
    | (with_reducible assumption)
    | (with_reducible apply State.persistent_keeps)
    | split

theorem State.latchRead_keeps {s0 s : State} {a0 : Byte} {a1 a2 a3 : Nat} {a4 : Bool} (h : Keeps s0 s) :
    Keeps s0 (State.latchRead a0 a1 a2 a3 a4 s).1 := by
  unfold State.latchRead
  repeat' first
    | (with_reducible assumption)
    | (simp only [Keeps.same])
    | (with_reducible refine Keeps.of_iteP (fun _ => ?_) (fun _ => ?_))

theorem State.periodCommit_keeps {s0 s : State} {a0 a1 : Nat} (h : Keeps s0 s) :
    Keeps s0 (State.periodCommit a0 a1 s) := by
  unfold State.periodCommit
  repeat' first
    | (with_reducible assumption)
    | (with_reducible apply State.modSlot_keeps)
    | (with_reducible apply State.setReg_keeps)
    | (simp only [Keeps.same])
    | (with_reducible refine Keeps.of_ite (fun _ => ?_) (fun _ => ?_))

theorem State.phaseWrite_keeps {s0 s : State} {a0 : Nat} {a1 : Reg32} (h : Keeps s0 s) :
    Keeps s0 (State.phaseWrite a0 a1 s) := by
  unfold State.phaseWrite
  repeat' first
    | (with_reducible assumption)
    | (with_reducible apply State.modSlot_keeps)
    | (with_reducible apply State.setReg_keeps)
    | (with_reducible refine Keeps.of_ite (fun _ => ?_) (fun _ => ?_))

theorem State.placeQuery_keeps {s0 s : State} {a0 : CtxNo} (h : Keeps s0 s) :
    Keeps s0 (State.placeQuery a0 s) := by
  unfold State.placeQuery
  repeat' first
    | (with_reducible assumption)
    | (with_reducible apply State.setReg_keeps)

theorem State.releaseCtx_keeps {s0 s : State} {a0 : CtxNo} (h : Keeps s0 s) :
    Keeps s0 (State.releaseCtx a0 s).2 := by
  unfold State.releaseCtx
  repeat' first
    | (with_reducible assumption)
    | (with_reducible apply State.modCtx_keeps)
    | (with_reducible refine Keeps.of_iteF (fun _ => ?_) (fun _ => ?_))

theorem State.retireAt_keeps {s0 s : State} {a0 : CtxNo} (h : Keeps s0 s) :
    Keeps s0 (State.retireAt a0 s).2 := by
  unfold State.retireAt
  repeat' first
    | (with_reducible assumption)
    | (with_reducible apply State.modCtx_keeps)
    | split

theorem State.returnAt_keeps {s0 s : State} {a0 : CtxNo} (h : Keeps s0 s) :
    Keeps s0 (State.returnAt a0 s).2 := by
  unfold State.returnAt
  repeat' first
    | (with_reducible assumption)
    | (with_reducible apply State.modCtx_keeps)
    | (with_reducible refine Keeps.of_iteF (fun _ => ?_) (fun _ => ?_))

theorem State.slipRead_keeps {s0 s : State} {a0 : Fin 2} (h : Keeps s0 s) :
    Keeps s0 (State.slipRead a0 s) := by
  unfold State.slipRead
  split
  · rename_i v l he
    apply State.reply_keeps
    apply State.setLevel_keeps
    exact h.upd rfl rfl (le_refl _) (List.suffix_refl _) (fun i => ⟨i.mem, i.bad, i.wake,
      fifo_set i.slip a0.isLt (by have := i.slip a0; rw [he] at this; exact Nat.le_of_succ_le this), i.halt, i.mbq, i.quar⟩)
  · exact State.reply_keeps h

theorem State.snapAt_keeps {s0 s : State} {a0 : Fin 4} {a1 a2 : CtxNo} {a3 : Option Nat} (h : Keeps s0 s) :
    Keeps s0 (State.snapAt a0 a1 a2 a3 s).2 := by
  unfold State.snapAt
  repeat' first
    | (with_reducible assumption)
    | (with_reducible apply State.modCtx_keeps)
    | (with_reducible apply State.modPort_keeps)
    | (with_reducible apply State.reserve_keeps)
    | (with_reducible apply State.setRoot_keeps)
    | (with_reducible apply State.snapFill_keeps)
    | (with_reducible apply State.takePages_keeps)
    | (simp only [Keeps.same])
    | (with_reducible refine Keeps.of_some ‹_ = some _› ?_)
    | (with_reducible refine Keeps.of_ite (fun _ => ?_) (fun _ => ?_))
    | (with_reducible refine Keeps.of_iteF (fun _ => ?_) (fun _ => ?_))
    | split

theorem State.snapBooks_keeps {s0 s : State} {a0 : Nat} (h : Keeps s0 s) :
    Keeps s0 (State.snapBooks a0 s) := by
  unfold State.snapBooks
  repeat' first
    | (with_reducible assumption)
    | (with_reducible apply State.setReg_keeps)

theorem State.snapBoundary_keeps {s0 s : State} {a0 : CtxNo} (h : Keeps s0 s) :
    Keeps s0 (State.snapBoundary a0 s) := by
  unfold State.snapBoundary
  repeat' first
    | (with_reducible assumption)
    | (with_reducible apply State.snapFill_keeps)
    | (simp only [Keeps.same])
    | (with_reducible refine Keeps.foldl (fun _ _ _ => ?_) _ ?_)
    | (with_reducible refine Keeps.of_ite (fun _ => ?_) (fun _ => ?_))
    | split

theorem State.suspendAt_keeps {s0 s : State} {a0 : CtxNo} (h : Keeps s0 s) :
    Keeps s0 (State.suspendAt a0 s).2 := by
  unfold State.suspendAt
  repeat' first
    | (with_reducible assumption)
    | (with_reducible apply State.modCtx_keeps)
    | (with_reducible refine Keeps.of_iteF (fun _ => ?_) (fun _ => ?_))

theorem execAdmitCtx_keeps {s0 s : State} {a0 : Fin 4} {a1 : CtxNo} {a2 : SlotNo} (h : Keeps s0 s) :
    KeepsR s0 (execAdmitCtx a0 a1 a2 s) := by
  unfold execAdmitCtx
  repeat' first
    | (with_reducible assumption)
    | (with_reducible apply State.admitAt_keeps)
    | (with_reducible apply State.command_keeps)
    | (with_reducible apply KeepsR.next)

theorem execBscBookSnap_keeps {s0 s : State} (h : Keeps s0 s) :
    KeepsR s0 (execBscBookSnap s) := by
  unfold execBscBookSnap
  repeat' first
    | (with_reducible assumption)
    | (with_reducible apply State.snapBooks_keeps)
    | (with_reducible apply KeepsR.next)
    | (with_reducible refine Keeps.of_ite (fun _ => ?_) (fun _ => ?_))

theorem execCommandDone_keeps {s0 s : State} {a0 : Fin 4} (h : Keeps s0 s) :
    KeepsR s0 (execCommandDone a0 s) := by
  unfold execCommandDone
  repeat' first
    | (with_reducible assumption)
    | (with_reducible apply State.endPort_keeps)
    | (with_reducible apply State.finish_keeps)
    | (simp only [Keeps.same])
    | (with_reducible apply KeepsR.next)
    | (with_reducible refine Keeps.of_ite (fun _ => ?_) (fun _ => ?_))
    | split

theorem execContextEntryWrite_keeps {s0 s : State} {a0 : Byte} {a1 : CtxNo} {a2 : Fin 4} {a3 : EntryPart} (h : Keeps s0 s) :
    KeepsR s0 (execContextEntryWrite a0 a1 a2 a3 s) := by
  unfold execContextEntryWrite
  repeat' first
    | (with_reducible assumption)
    | (with_reducible apply State.contextEntryWrite_keeps)
    | (with_reducible apply KeepsR.next)
    | (with_reducible refine Keeps.of_ite (fun _ => ?_) (fun _ => ?_))

theorem execCreate_keeps {s0 s : State} {a0 : Fin 4} {a1 : CtxNo} (h : Keeps s0 s) :
    KeepsR s0 (execCreate a0 a1 s) := by
  unfold execCreate
  repeat' first
    | (with_reducible assumption)
    | (with_reducible apply State.command_keeps)
    | (with_reducible apply State.createAt_keeps)
    | (with_reducible apply KeepsR.next)

theorem execExportCtx_keeps {s0 s : State} {a0 : Fin 4} {a1 : CtxNo} {a2 : LoamAddr} (h : Keeps s0 s) :
    KeepsR s0 (execExportCtx a0 a1 a2 s) := by
  unfold execExportCtx
  repeat' first
    | (with_reducible assumption)
    | (with_reducible apply State.command_keeps)
    | (with_reducible apply State.exportAt_keeps)
    | (with_reducible apply KeepsR.next)

theorem execFork_keeps {s0 s : State} {a0 : Fin 4} {a1 a2 : CtxNo} {a3 : SlotNo} (h : Keeps s0 s) :
    KeepsR s0 (execFork a0 a1 a2 a3 s) := by
  unfold execFork
  repeat' first
    | (with_reducible assumption)
    | (with_reducible apply State.command_keeps)
    | (with_reducible apply State.snapAt_keeps)
    | (with_reducible apply KeepsR.next)

theorem execHaltRecordRead_keeps {s0 s : State} {a0 : Fin 2} (h : Keeps s0 s) :
    KeepsR s0 (execHaltRecordRead a0 s) := by
  unfold execHaltRecordRead
  repeat' first
    | (with_reducible assumption)
    | (with_reducible apply State.haltRead_keeps)
    | (with_reducible apply KeepsR.next)
    | (with_reducible refine Keeps.of_ite (fun _ => ?_) (fun _ => ?_))

theorem execImportCtx_keeps {s0 s : State} {a0 : Fin 4} {a1 : CtxNo} {a2 : LoamAddr} (h : Keeps s0 s) :
    KeepsR s0 (execImportCtx a0 a1 a2 s) := by
  unfold execImportCtx
  repeat' first
    | (with_reducible assumption)
    | (with_reducible apply State.command_keeps)
    | (with_reducible apply State.importAt_keeps)
    | (with_reducible apply State.importFail_keeps)
    | (simp only [Keeps.same])
    | (with_reducible apply KeepsR.next)
    | (with_reducible refine Keeps.of_ite (fun _ => ?_) (fun _ => ?_))

theorem execPeriodCommit_keeps {s0 s : State} {a0 : SlotNo} {a1 : BitVec 12} (h : Keeps s0 s) :
    KeepsR s0 (execPeriodCommit a0 a1 s) := by
  unfold execPeriodCommit
  repeat' first
    | (with_reducible assumption)
    | (with_reducible apply State.periodCommit_keeps)
    | (with_reducible apply KeepsR.next)
    | (with_reducible refine Keeps.of_ite (fun _ => ?_) (fun _ => ?_))

theorem execPhaseWrite_keeps {s0 s : State} {a0 : SlotNo} {a1 : Reg32} (h : Keeps s0 s) :
    KeepsR s0 (execPhaseWrite a0 a1 s) := by
  unfold execPhaseWrite
  repeat' first
    | (with_reducible assumption)
    | (with_reducible apply State.phaseWrite_keeps)
    | (with_reducible apply KeepsR.next)
    | (with_reducible refine Keeps.of_ite (fun _ => ?_) (fun _ => ?_))

theorem execPlacementQuery_keeps {s0 s : State} {a0 : CtxNo} (h : Keeps s0 s) :
    KeepsR s0 (execPlacementQuery a0 s) := by
  unfold execPlacementQuery
  repeat' first
    | (with_reducible assumption)
    | (with_reducible apply State.placeQuery_keeps)
    | (with_reducible apply KeepsR.next)
    | (with_reducible refine Keeps.of_ite (fun _ => ?_) (fun _ => ?_))

theorem execRelease_keeps {s0 s : State} {a0 : Fin 4} {a1 : CtxNo} (h : Keeps s0 s) :
    KeepsR s0 (execRelease a0 a1 s) := by
  unfold execRelease
  repeat' first
    | (with_reducible assumption)
    | (with_reducible apply State.command_keeps)
    | (with_reducible apply State.releaseCtx_keeps)
    | (with_reducible apply KeepsR.next)

theorem execRetire_keeps {s0 s : State} {a0 : Fin 4} {a1 : CtxNo} (h : Keeps s0 s) :
    KeepsR s0 (execRetire a0 a1 s) := by
  unfold execRetire
  repeat' first
    | (with_reducible assumption)
    | (with_reducible apply State.command_keeps)
    | (with_reducible apply State.retireAt_keeps)
    | (with_reducible apply KeepsR.next)

theorem execReturnCtx_keeps {s0 s : State} {a0 : Fin 4} {a1 : CtxNo} (h : Keeps s0 s) :
    KeepsR s0 (execReturnCtx a0 a1 s) := by
  unfold execReturnCtx
  repeat' first
    | (with_reducible assumption)
    | (with_reducible apply State.command_keeps)
    | (with_reducible apply State.returnAt_keeps)
    | (with_reducible apply KeepsR.next)

theorem execSlipRecordRead_keeps {s0 s : State} {a0 : Fin 2} (h : Keeps s0 s) :
    KeepsR s0 (execSlipRecordRead a0 s) := by
  unfold execSlipRecordRead
  repeat' first
    | (with_reducible assumption)
    | (with_reducible apply State.slipRead_keeps)
    | (with_reducible apply KeepsR.next)
    | (with_reducible refine Keeps.of_ite (fun _ => ?_) (fun _ => ?_))

theorem execSnapshot_keeps {s0 s : State} {a0 : Fin 4} {a1 a2 : CtxNo} (h : Keeps s0 s) :
    KeepsR s0 (execSnapshot a0 a1 a2 s) := by
  unfold execSnapshot
  repeat' first
    | (with_reducible assumption)
    | (with_reducible apply State.command_keeps)
    | (with_reducible apply State.snapAt_keeps)
    | (with_reducible apply KeepsR.next)

theorem execSuspend_keeps {s0 s : State} {a0 : Fin 4} {a1 : CtxNo} (h : Keeps s0 s) :
    KeepsR s0 (execSuspend a0 a1 s) := by
  unfold execSuspend
  repeat' first
    | (with_reducible assumption)
    | (with_reducible apply State.command_keeps)
    | (with_reducible apply State.suspendAt_keeps)
    | (with_reducible apply KeepsR.next)

theorem State.blitWord_keeps {s0 s : State} {a0 : CtxNo} {a1 a2 : Nat} {a3 : Nat × Word × Word} (h : Keeps s0 s) :
    Keeps s0 (State.blitWord a0 a1 a2 a3 s).1 := by
  unfold State.blitWord
  repeat' first
    | (with_reducible assumption)
    | (with_reducible apply State.vWrite_keeps)
    | (simp only [Keeps.same])
    | (with_reducible refine Keeps.of_iteP (fun _ => ?_) (fun _ => ?_))

theorem State.blitWords_keeps {s0 s : State} {a0 : CtxNo} {a1 a2 : Nat} {a3 : List (Nat × Word × Word)} (h : Keeps s0 s) :
    Keeps s0 (State.blitWords a0 a1 a2 a3 s).1 := by
  induction a3 generalizing s with
  | nil =>
    unfold State.blitWords
    repeat' first
      | (with_reducible assumption)
      | (with_reducible apply ih)
      | (with_reducible apply State.blitWord_keeps)
      | (with_reducible refine Keeps.of_pair ‹_ = (_, _)› ?_)
      | split
  | cons e l ih =>
    unfold State.blitWords
    repeat' first
      | (with_reducible assumption)
      | (with_reducible apply ih)
      | (with_reducible apply State.blitWord_keeps)
      | (with_reducible refine Keeps.of_pair ‹_ = (_, _)› ?_)
      | split

theorem State.blitLand_keeps {s0 s : State} {a0 : CtxNo} {a1 : Blit} (h : Keeps s0 s) :
    Keeps s0 (State.blitLand a0 a1 s).1 := by
  unfold State.blitLand
  repeat' first
    | (with_reducible assumption)
    | (with_reducible apply State.blitWords_keeps)
    | (with_reducible apply State.modSes_keeps)
    | (with_reducible refine Keeps.of_pair ‹_ = (_, _)› ?_)
    | split

theorem State.bringWords_keeps {s0 s : State} {a0 : CtxNo} {a1 : List (Nat × Nat)} (h : Keeps s0 s) :
    Keeps s0 (State.bringWords a0 a1 s).1 := by
  induction a1 generalizing s with
  | nil =>
    unfold State.bringWords
    repeat' first
      | (with_reducible assumption)
      | (with_reducible apply ih)
      | (with_reducible apply State.vRead_keeps)
      | (simp only [Keeps.same])
      | (with_reducible refine Keeps.of_pair ‹_ = (_, _)› ?_)
      | split
  | cons e l ih =>
    unfold State.bringWords
    repeat' first
      | (with_reducible assumption)
      | (with_reducible apply ih)
      | (with_reducible apply State.vRead_keeps)
      | (simp only [Keeps.same])
      | (with_reducible refine Keeps.of_pair ‹_ = (_, _)› ?_)
      | split

theorem State.blitStart_keeps {s0 s : State} {a0 : CtxNo} {a1 : Blit} (h : Keeps s0 s) :
    Keeps s0 (State.blitStart a0 a1 s).1 := by
  unfold State.blitStart
  repeat' first
    | (with_reducible assumption)
    | (with_reducible apply State.bringWords_keeps)
    | (with_reducible apply State.modSes_keeps)
    | (simp only [Keeps.same])
    | (with_reducible refine Keeps.of_pair ‹_ = (_, _)› ?_)
    | split

theorem State.dmaRead_keeps {s0 s : State} {a0 : CtxNo} {a1 a2 a3 : Nat} (h : Keeps s0 s) :
    Keeps s0 (State.dmaRead a0 a1 a2 a3 s).1 := by
  unfold State.dmaRead
  repeat' first
    | (with_reducible assumption)
    | (with_reducible apply State.dUnitRead_keeps)
    | (with_reducible apply State.sRead_keeps)
    | (with_reducible apply State.vRead_keeps)
    | (with_reducible refine Keeps.of_iteP (fun _ => ?_) (fun _ => ?_))
    | split

theorem State.dmaWrite_keeps {s0 s : State} {a0 : CtxNo} {a1 : Nat} {a2 : Nat × Nat × Nat × Word} (h : Keeps s0 s) :
    Keeps s0 (State.dmaWrite a0 a1 a2 s).1 := by
  unfold State.dmaWrite
  repeat' first
    | (with_reducible assumption)
    | (with_reducible apply State.dUnitWrite_keeps)
    | (with_reducible apply State.sWrite_keeps)
    | (with_reducible apply State.vWrite_keeps)
    | (with_reducible refine Keeps.of_iteP (fun _ => ?_) (fun _ => ?_))
    | split

theorem State.dmaWrites_keeps {s0 s : State} {a0 : CtxNo} {a1 : Nat} {a2 : List (Nat × Nat × Nat × Word)} (h : Keeps s0 s) :
    Keeps s0 (State.dmaWrites a0 a1 a2 s).1 := by
  induction a2 generalizing s with
  | nil =>
    unfold State.dmaWrites
    repeat' first
      | (with_reducible assumption)
      | (with_reducible apply ih)
      | (with_reducible apply State.dmaWrite_keeps)
      | (with_reducible refine Keeps.of_pair ‹_ = (_, _)› ?_)
      | split
  | cons e l ih =>
    unfold State.dmaWrites
    repeat' first
      | (with_reducible assumption)
      | (with_reducible apply ih)
      | (with_reducible apply State.dmaWrite_keeps)
      | (with_reducible refine Keeps.of_pair ‹_ = (_, _)› ?_)
      | split

theorem State.dmaLand_keeps {s0 s : State} {a0 : CtxNo} {a1 : Nat} (h : Keeps s0 s) :
    Keeps s0 (State.dmaLand a0 a1 s).1 := by
  unfold State.dmaLand
  repeat' first
    | (with_reducible assumption)
    | (with_reducible apply State.dmaWrites_keeps)
    | (with_reducible apply State.modSes_keeps)
    | (simp only [Keeps.same])
    | (with_reducible refine Keeps.of_pair ‹_ = (_, _)› ?_)
    | (with_reducible refine Keeps.of_iteP (fun _ => ?_) (fun _ => ?_))
    | split

theorem State.dmaReads_keeps {s0 s : State} {a0 : CtxNo} {a1 a2 a3 a4 : Nat} (h : Keeps s0 s) :
    Keeps s0 (State.dmaReads a0 a1 a2 a3 a4 s).1 := by
  induction a4 generalizing s a3 with
  | zero =>
    unfold State.dmaReads
    repeat' first
      | (with_reducible assumption)
      | (with_reducible apply ih)
      | (with_reducible apply State.dmaRead_keeps)
      | (simp only [Keeps.same])
      | (with_reducible refine Keeps.of_pair ‹_ = (_, _)› ?_)
      | split
  | succ n ih =>
    unfold State.dmaReads
    repeat' first
      | (with_reducible assumption)
      | (with_reducible apply ih)
      | (with_reducible apply State.dmaRead_keeps)
      | (simp only [Keeps.same])
      | (with_reducible refine Keeps.of_pair ‹_ = (_, _)› ?_)
      | split

theorem State.startBurst_keeps {s0 s : State} {a0 : CtxNo} {a1 : Fin 4} {a2 : Nat} {a3 : Session} (h : Keeps s0 s) :
    Keeps s0 (State.startBurst a0 a1 a2 a3 s).1 := by
  unfold State.startBurst
  repeat' first
    | (with_reducible assumption)
    | (with_reducible apply State.dmaReads_keeps)
    | (with_reducible apply State.modSes_keeps)
    | (simp only [Keeps.same])
    | (with_reducible refine Keeps.of_pair ‹_ = (_, _)› ?_)
    | (with_reducible refine Keeps.of_iteP (fun _ => ?_) (fun _ => ?_))
    | split

theorem State.startRead_keeps {s0 s : State} {a0 : CtxNo} {a1 : Fin 4} {a2 : Nat} {a3 : Session} (h : Keeps s0 s) :
    Keeps s0 (State.startRead a0 a1 a2 a3 s).1 := by
  unfold State.startRead
  repeat' first
    | (with_reducible assumption)
    | (with_reducible apply State.dmaReads_keeps)
    | (with_reducible apply State.modSes_keeps)
    | (simp only [Keeps.same])
    | (with_reducible refine Keeps.of_pair ‹_ = (_, _)› ?_)
    | split

theorem State.dmaStart_keeps {s0 s : State} {a0 : CtxNo} {a1 : Nat} (h : Keeps s0 s) :
    Keeps s0 (State.dmaStart a0 a1 s).1 := by
  unfold State.dmaStart
  repeat' first
    | (with_reducible assumption)
    | (with_reducible apply State.modSes_keeps)
    | (with_reducible apply State.startBurst_keeps)
    | (with_reducible apply State.startRead_keeps)
    | (with_reducible refine Keeps.of_iteP (fun _ => ?_) (fun _ => ?_))
    | split

theorem State.dropInput_keeps {s0 s : State} {a0 : CtxNo} {a1 : Nat} (h : Keeps s0 s) :
    Keeps s0 (State.dropInput a0 a1 s) := by
  unfold State.dropInput
  repeat' first
    | (with_reducible assumption)
    | (with_reducible apply State.modSes_keeps)

theorem State.feedbackIn_keeps {s0 s : State} {a0 : Nat} {a1 : List Byte} (h : Keeps s0 s) :
    Keeps s0 (State.feedbackIn a0 a1 s) := by
  unfold State.feedbackIn
  repeat' first
    | (with_reducible assumption)
    | (with_reducible apply State.setReg_keeps)
    | (simp only [Keeps.same])
    | (with_reducible refine Keeps.of_ite (fun _ => ?_) (fun _ => ?_))

theorem State.depacket_keeps {s0 s : State} {a0 : CtxNo} {a1 : Nat} {a2 : List Byte} (h : Keeps s0 s) :
    Keeps s0 (State.depacket a0 a1 a2 s) := by
  unfold State.depacket
  repeat' first
    | (with_reducible assumption)
    | (with_reducible apply State.countReg_keeps)
    | (with_reducible apply State.dropInput_keeps)
    | (with_reducible apply State.feedbackIn_keeps)
    | (with_reducible apply State.modSlot_keeps)
    | (with_reducible refine Keeps.of_ite (fun _ => ?_) (fun _ => ?_))

theorem State.wakeRequest_keeps {s0 s : State} {a0 : CtxNo} (h : Keeps s0 s) :
    Keeps s0 (State.wakeRequest a0 s) := by
  unfold State.wakeRequest
  split
  · exact h
  · split
    · rename_i hl
      apply State.setLevel_keeps
      exact (State.modCtx_keeps (a0 := a0) (a1 := fun x => { x with wakePending := true }) h).upd rfl rfl (le_refl _) (List.suffix_refl _) (fun i => ⟨i.mem, i.bad,
        by simp; omega, i.slip, i.halt, i.mbq, i.quar⟩)
    · exact State.countReg_keeps h

theorem State.matched_keeps {s0 s : State} {a0 : CtxNo} {a1 : List Byte} (h : Keeps s0 s) :
    Keeps s0 (State.matched a0 a1 s) := by
  unfold State.matched
  repeat' first
    | (with_reducible assumption)
    | (with_reducible apply State.countReg_keeps)
    | (with_reducible apply State.depacket_keeps)
    | (with_reducible apply State.wakeRequest_keeps)
    | (simp only [Keeps.same])
    | (with_reducible refine Keeps.of_ite (fun _ => ?_) (fun _ => ?_))
    | split

theorem State.toKeeper_keeps {s0 s : State} {a0 a1 a2 : Nat} {a3 : List Byte} (h : Keeps s0 s) :
    Keeps s0 (State.toKeeper a0 a1 a2 a3 s) := by
  unfold State.toKeeper
  repeat' first
    | (with_reducible assumption)
    | (with_reducible apply State.addCnt_keeps)
    | (with_reducible apply State.agentStore_keeps)
    | (with_reducible apply State.countReg_keeps)
    | (with_reducible apply State.raiseP_keeps)
    | (with_reducible apply State.setReg_keeps)
    | (with_reducible apply State.setWord64_keeps)
    | (simp only [Keeps.same])
    | (with_reducible refine Keeps.of_ite (fun _ => ?_) (fun _ => ?_))

theorem State.classifyUdp_keeps {s0 s : State} {a0 a1 a2 a3 : Nat} {a4 : RxIp} {a5 : List Byte} (h : Keeps s0 s) :
    Keeps s0 (State.classifyUdp a0 a1 a2 a3 a4 a5 s) := by
  unfold State.classifyUdp
  repeat' first
    | (with_reducible assumption)
    | (with_reducible apply State.countReg_keeps)
    | (with_reducible apply State.matched_keeps)
    | (with_reducible apply State.toKeeper_keeps)
    | (simp only [Keeps.same])
    | (with_reducible refine Keeps.of_ite (fun _ => ?_) (fun _ => ?_))
    | split

theorem State.classifyIp_keeps {s0 s : State} {a0 a1 a2 : Nat} {a3 : RxIp} {a4 : List Byte} (h : Keeps s0 s) :
    Keeps s0 (State.classifyIp a0 a1 a2 a3 a4 s) := by
  unfold State.classifyIp
  repeat' first
    | (with_reducible assumption)
    | (with_reducible apply State.addCnt_keeps)
    | (with_reducible apply State.classifyUdp_keeps)
    | (with_reducible apply State.toKeeper_keeps)
    | (with_reducible refine Keeps.of_ite (fun _ => ?_) (fun _ => ?_))
    | split

theorem State.pfcIn_keeps {s0 s : State} {a0 a1 : Nat} {a2 : List Byte} (h : Keeps s0 s) :
    Keeps s0 (State.pfcIn a0 a1 a2 s) := by
  unfold State.pfcIn
  repeat' first
    | (with_reducible assumption)
    | (with_reducible apply State.addCnt_keeps)
    | (with_reducible apply State.setSub_keeps)

theorem State.macControl_keeps {s0 s : State} {a0 a1 : Nat} {a2 : List Byte} (h : Keeps s0 s) :
    Keeps s0 (State.macControl a0 a1 a2 s) := by
  unfold State.macControl
  repeat' first
    | (with_reducible assumption)
    | (with_reducible apply State.addCnt_keeps)
    | (with_reducible apply State.pfcIn_keeps)
    | (with_reducible refine Keeps.of_ite (fun _ => ?_) (fun _ => ?_))

theorem State.classify_keeps {s0 s : State} {a0 a1 : Nat} {a2 : List Byte} (h : Keeps s0 s) :
    Keeps s0 (State.classify a0 a1 a2 s) := by
  unfold State.classify
  repeat' first
    | (with_reducible assumption)
    | (with_reducible apply State.addCnt_keeps)
    | (with_reducible apply State.classifyIp_keeps)
    | (with_reducible apply State.countReg_keeps)
    | (with_reducible apply State.macControl_keeps)
    | (with_reducible apply State.toKeeper_keeps)
    | (simp only [Keeps.same])
    | (with_reducible refine Keeps.of_ite (fun _ => ?_) (fun _ => ?_))
    | split

theorem State.receive_keeps {s0 s : State} {a0 a1 : Nat} {a2 : Bool} {a3 : List Byte} (h : Keeps s0 s) :
    Keeps s0 (State.receive a0 a1 a2 a3 s) := by
  unfold State.receive
  repeat' first
    | (with_reducible assumption)
    | (with_reducible apply State.addCnt_keeps)
    | (with_reducible apply State.classify_keeps)
    | (with_reducible apply State.spend_keeps)
    | (simp only [Keeps.same])
    | (with_reducible refine Keeps.of_ite (fun _ => ?_) (fun _ => ?_))

theorem State.sendPfc_keeps {s0 s : State} {a0 a1 a2 : Nat} (h : Keeps s0 s) :
    Keeps s0 (State.sendPfc a0 a1 a2 s) := by
  unfold State.sendPfc
  repeat' first
    | (with_reducible assumption)
    | (with_reducible apply State.addCnt_keeps)
    | (with_reducible apply State.send_keeps)
    | (simp only [Keeps.same])
    | (with_reducible refine Keeps.of_ite (fun _ => ?_) (fun _ => ?_))

theorem State.wakeRead_keeps {s0 s : State} (h : Keeps s0 s) :
    Keeps s0 (State.wakeRead s) := by
  unfold State.wakeRead
  split
  · rename_i v l he
    apply State.reply_keeps
    apply State.setLevel_keeps
    exact h.upd rfl rfl (le_refl _) (List.suffix_refl _) (fun i => ⟨i.mem, i.bad,
      by have := i.wake; rw [he] at this; exact Nat.le_of_succ_le this, i.slip, i.halt, i.mbq, i.quar⟩)
  · exact State.reply_keeps h

theorem execFeedback_keeps {s0 s : State} {a0 : CtxNo} {a1 : List Byte} (h : Keeps s0 s) :
    KeepsR s0 (execFeedback a0 a1 s) := by
  unfold execFeedback
  repeat' first
    | (with_reducible assumption)
    | (with_reducible apply State.matched_keeps)
    | (with_reducible apply State.spend_keeps)
    | (with_reducible apply KeepsR.next)
    | (with_reducible refine Keeps.of_ite (fun _ => ?_) (fun _ => ?_))

theorem execFrameReceive_keeps {s0 s : State} {a0 : Fin 2} {a1 : Fin 4} {a2 : Bool} {a3 : List Byte} (h : Keeps s0 s) :
    KeepsR s0 (execFrameReceive a0 a1 a2 a3 s) := by
  unfold execFrameReceive
  repeat' first
    | (with_reducible assumption)
    | (with_reducible apply State.receive_keeps)
    | (with_reducible apply KeepsR.next)
    | (with_reducible refine Keeps.of_ite (fun _ => ?_) (fun _ => ?_))

theorem execInput_keeps {s0 s : State} {a0 : CtxNo} {a1 : List Byte} (h : Keeps s0 s) :
    KeepsR s0 (execInput a0 a1 s) := by
  unfold execInput
  repeat' first
    | (with_reducible assumption)
    | (with_reducible apply State.matched_keeps)
    | (with_reducible apply State.spend_keeps)
    | (with_reducible apply KeepsR.next)
    | (with_reducible refine Keeps.of_ite (fun _ => ?_) (fun _ => ?_))

theorem execPfcPauseEnd_keeps {s0 s : State} {a0 : Fin 2} {a1 : Fin 4} {a2 : Fin 8} (h : Keeps s0 s) :
    KeepsR s0 (execPfcPauseEnd a0 a1 a2 s) := by
  unfold execPfcPauseEnd
  repeat' first
    | (with_reducible assumption)
    | (with_reducible apply State.setSub_keeps)
    | (simp only [Keeps.same])
    | (with_reducible apply KeepsR.next)

theorem execRefresh_keeps {s0 s : State} {a0 : CtxNo} {a1 : List Byte} (h : Keeps s0 s) :
    KeepsR s0 (execRefresh a0 a1 s) := by
  unfold execRefresh
  repeat' first
    | (with_reducible assumption)
    | (with_reducible apply State.matched_keeps)
    | (with_reducible apply State.spend_keeps)
    | (with_reducible apply KeepsR.next)
    | (with_reducible refine Keeps.of_ite (fun _ => ?_) (fun _ => ?_))

theorem execWakeRead_keeps {s0 s : State} (h : Keeps s0 s) :
    KeepsR s0 (execWakeRead s) := by
  unfold execWakeRead
  repeat' first
    | (with_reducible assumption)
    | (with_reducible apply State.wakeRead_keeps)
    | (with_reducible apply KeepsR.next)
    | (with_reducible refine Keeps.of_ite (fun _ => ?_) (fun _ => ?_))

theorem execXoff_keeps {s0 s : State} {a0 : Fin 2} {a1 : Fin 4} (h : Keeps s0 s) :
    KeepsR s0 (execXoff a0 a1 s) := by
  unfold execXoff
  repeat' first
    | (with_reducible assumption)
    | (with_reducible apply State.sendPfc_keeps)
    | (with_reducible apply State.setSub_keeps)
    | (simp only [Keeps.same])
    | (with_reducible apply KeepsR.next)
    | (with_reducible refine Keeps.of_ite (fun _ => ?_) (fun _ => ?_))

theorem execXon_keeps {s0 s : State} {a0 : Fin 2} {a1 : Fin 4} (h : Keeps s0 s) :
    KeepsR s0 (execXon a0 a1 s) := by
  unfold execXon
  repeat' first
    | (with_reducible assumption)
    | (with_reducible apply State.sendPfc_keeps)
    | (with_reducible apply State.setSub_keeps)
    | (simp only [Keeps.same])
    | (with_reducible apply KeepsR.next)
    | (with_reducible refine Keeps.of_ite (fun _ => ?_) (fun _ => ?_))

theorem State.creditTokens_keeps {s0 s : State} {a0 : CtxNo} {a1 a2 : Nat} (h : Keeps s0 s) :
    Keeps s0 (State.creditTokens a0 a1 a2 s) := by
  unfold State.creditTokens
  repeat' first
    | (with_reducible assumption)
    | (with_reducible apply State.modSlot_keeps)

theorem State.cut_keeps {s0 s : State} {a0 : Nat} (h : Keeps s0 s) :
    Keeps s0 (State.cut a0 s).2 := by
  unfold State.cut
  repeat' first
    | (with_reducible assumption)
    | (with_reducible apply State.spend_keeps)
    | (with_reducible refine Keeps.of_iteF (fun _ => ?_) (fun _ => ?_))

end Sys2Proof.Machine
end

