-- ==== Sys2Proof/Laws/Kept5.lean ====
section
/-! SUPPORT. What the operations of the block keep, part 5 of 14: each leaves the queue, the part and what was sent,
uses free values up in order, and keeps a sound state sound (the relation of Laws/Keeps.lean). -/

set_option linter.all false

namespace Sys2Proof.Machine

open Sys2Proof

theorem State.takeInputs_keeps {s0 s : State} {a0 a1 : Nat} (h : Keeps s0 s) :
    Keeps s0 (State.takeInputs a0 a1 s).2 := by
  induction a1 generalizing s with
  | zero => exact h
  | succ n ih =>
    cases hq : (s.slot a0).inputQ with
    | nil => simp only [State.takeInputs, hq]; exact h
    | cons p q =>
      have key : ∀ r : Bool × State, Keeps s0 r.2 → Keeps s0 (if r.1 = true then
          (p :: (State.takeInputs a0 n (r.2.modSlot a0 (fun y => { y with inputQ := q }))).1,
            (State.takeInputs a0 n (r.2.modSlot a0 (fun y => { y with inputQ := q }))).2) else ([], r.2)).2 :=
        fun r hr => Keeps.of_iteFF (fun _ => ih (State.modSlot_keeps hr)) (fun _ => hr)
      simp only [State.takeInputs, hq]
      exact key (s.cut p.arrival) (State.cut_keeps h)

theorem State.latchBoundary_keeps {s0 s : State} {a0 : CtxNo} {a1 a2 a3 : Nat} (h : Keeps s0 s) :
    Keeps s0 (State.latchBoundary a0 a1 a2 a3 s) := by
  unfold State.latchBoundary
  repeat' first
    | (with_reducible assumption)
    | (with_reducible apply State.modSes_keeps)
    | (with_reducible apply State.releaseOf_keeps)
    | (with_reducible apply State.setReg_keeps)
    | (with_reducible apply State.takeInputs_keeps)
    | (simp only [Keeps.same])
    | split

theorem State.emptyMirror_keeps {s0 s : State} {a0 : CtxNo} {a1 a2 a3 : Nat} (h : Keeps s0 s) :
    Keeps s0 (State.emptyMirror a0 a1 a2 a3 s) := by
  unfold State.emptyMirror
  repeat' first
    | (with_reducible assumption)
    | (with_reducible apply State.modSes_keeps)
    | (with_reducible apply State.modSlot_keeps)
    | (with_reducible refine Keeps.of_ite (fun _ => ?_) (fun _ => ?_))

theorem State.mirrorEvents_keeps {s0 s : State} {a0 : CtxNo} {a1 a2 a3 : Nat} (h : Keeps s0 s) :
    Keeps s0 (State.mirrorEvents a0 a1 a2 a3 s) := by
  unfold State.mirrorEvents
  repeat' first
    | (with_reducible assumption)
    | (with_reducible apply State.emptyMirror_keeps)
    | (with_reducible apply State.modSes_keeps)
    | (with_reducible refine Keeps.of_ite (fun _ => ?_) (fun _ => ?_))

theorem State.takeRefresh_keeps {s0 s : State} {a0 : CtxNo} {a1 a2 a3 a4 : Nat} (h : Keeps s0 s) :
    Keeps s0 (State.takeRefresh a0 a1 a2 a3 a4 s) := by
  induction a4 generalizing s with
  | zero =>
    unfold State.takeRefresh
    repeat' first
      | (with_reducible assumption)
      | (with_reducible apply ih)
      | (with_reducible apply State.countReg_keeps)
      | (with_reducible apply State.cut_keeps)
      | (with_reducible apply State.emptyMirror_keeps)
      | (with_reducible apply State.modSlot_keeps)
      | (simp only [Keeps.same])
      | (with_reducible refine Keeps.of_ite (fun _ => ?_) (fun _ => ?_))
      | split
  | succ n ih =>
    unfold State.takeRefresh
    repeat' first
      | (with_reducible assumption)
      | (with_reducible apply ih)
      | (with_reducible apply State.countReg_keeps)
      | (with_reducible apply State.cut_keeps)
      | (with_reducible apply State.emptyMirror_keeps)
      | (with_reducible apply State.modSlot_keeps)
      | (simp only [Keeps.same])
      | (with_reducible refine Keeps.of_ite (fun _ => ?_) (fun _ => ?_))
      | split

theorem State.mirrorBoundary_keeps {s0 s : State} {a0 : CtxNo} {a1 a2 a3 : Nat} (h : Keeps s0 s) :
    Keeps s0 (State.mirrorBoundary a0 a1 a2 a3 s) := by
  unfold State.mirrorBoundary
  repeat' first
    | (with_reducible assumption)
    | (with_reducible apply State.emptyMirror_keeps)
    | (with_reducible apply State.mirrorEvents_keeps)
    | (with_reducible apply State.takeRefresh_keeps)
    | (simp only [Keeps.same])
    | (with_reducible refine Keeps.of_ite (fun _ => ?_) (fun _ => ?_))

theorem State.takeControls_keeps {s0 s : State} {a0 a1 a2 : Nat} (h : Keeps s0 s) :
    Keeps s0 (State.takeControls a0 a1 a2 s) := by
  unfold State.takeControls
  repeat' first
    | (with_reducible assumption)
    | (with_reducible apply State.modSlot_keeps)

theorem State.horizonStep_keeps {s0 s : State} {a0 : CtxNo} {a1 : Nat} (h : Keeps s0 s) :
    KeepsO s0 (State.horizonStep a0 a1 s) := by
  unfold State.horizonStep
  repeat' first
    | (with_reducible assumption)
    | (with_reducible apply State.modSlot_keeps)
    | (with_reducible apply State.releaseOf_keeps)
    | (simp only [Keeps.same])
    | (with_reducible apply KeepsO.none)
    | (with_reducible apply KeepsO.some)
    | split

theorem State.horizonAll_keeps {s0 s : State} {a0 : CtxNo} {a1 a2 : Nat} (h : Keeps s0 s) :
    Keeps s0 (State.horizonAll a0 a1 a2 s) := by
  induction a2 generalizing s with
  | zero =>
    unfold State.horizonAll
    repeat' first
      | (with_reducible assumption)
      | (with_reducible apply ih)
      | (with_reducible apply State.horizonStep_keeps)
      | (with_reducible refine Keeps.of_some ‹_ = some _› ?_)
      | split
  | succ n ih =>
    unfold State.horizonAll
    repeat' first
      | (with_reducible assumption)
      | (with_reducible apply ih)
      | (with_reducible apply State.horizonStep_keeps)
      | (with_reducible refine Keeps.of_some ‹_ = some _› ?_)
      | split

theorem State.takeLead_keeps {s0 s : State} {a0 : CtxNo} {a1 a2 a3 : Nat} (h : Keeps s0 s) :
    Keeps s0 (State.takeLead a0 a1 a2 a3 s) := by
  unfold State.takeLead
  repeat' first
    | (with_reducible assumption)
    | (with_reducible apply State.horizonAll_keeps)
    | (with_reducible apply State.modSlot_keeps)
    | split

theorem State.crossBoundary_keeps {s0 s : State} {a0 : CtxNo} {a1 : Nat} (h : Keeps s0 s) :
    Keeps s0 (State.crossBoundary a0 a1 s) := by
  unfold State.crossBoundary
  repeat' first
    | (with_reducible assumption)
    | (with_reducible apply State.creditTokens_keeps)
    | (with_reducible apply State.latchBoundary_keeps)
    | (with_reducible apply State.mirrorBoundary_keeps)
    | (with_reducible apply State.modSes_keeps)
    | (with_reducible apply State.prefetch_keeps)
    | (with_reducible apply State.takeControls_keeps)
    | (with_reducible apply State.takeLead_keeps)

theorem State.stopAt_keeps {s0 s : State} {a0 : CtxNo} {a1 : Nat} (h : Keeps s0 s) :
    Keeps s0 (State.stopAt a0 a1 s) := by
  unfold State.stopAt
  repeat' first
    | (with_reducible assumption)
    | (with_reducible apply State.dropInput_keeps)
    | (with_reducible apply State.modSlot_keeps)

theorem State.boundary_keeps {s0 s : State} {a0 : CtxNo} (h : Keeps s0 s) :
    Keeps s0 (State.boundary a0 s) := by
  unfold State.boundary
  repeat' first
    | (with_reducible assumption)
    | (with_reducible apply State.crossBoundary_keeps)
    | (with_reducible apply State.snapBoundary_keeps)
    | (with_reducible apply State.stopAt_keeps)
    | (simp only [Keeps.same])
    | (with_reducible refine Keeps.of_ite (fun _ => ?_) (fun _ => ?_))
    | split

theorem State.slipRecord_keeps {s0 s : State} {a0 a1 a2 : Nat} (h : Keeps s0 s) :
    Keeps s0 (State.slipRecord a0 a1 a2 s) := by
  unfold State.slipRecord
  dsimp only
  by_cases hd : slotDie a0 % 2 = 0
  all_goals
    simp only [hd, if_true, if_false]
    split
    · rename_i hl
      apply State.setLevel_keeps
      exact h.upd rfl rfl (le_refl _) (List.suffix_refl _) (fun i => ⟨i.mem, i.bad, i.wake, fifo_put i.slip (by decide) hl,
        i.halt, i.mbq, i.quar⟩)
    · exact State.countReg_keeps h

theorem State.slip_keeps {s0 s : State} {a0 : CtxNo} {a1 a2 a3 : Nat} (h : Keeps s0 s) :
    Keeps s0 (State.slip a0 a1 a2 a3 s) := by
  unfold State.slip
  repeat' first
    | (with_reducible assumption)
    | (with_reducible apply State.countReg_keeps)
    | (with_reducible apply State.modSlot_keeps)
    | (with_reducible apply State.slipRecord_keeps)
    | (with_reducible apply State.stretch_keeps)
    | (simp only [Keeps.same])
    | (with_reducible refine Keeps.of_ite (fun _ => ?_) (fun _ => ?_))

theorem State.frameTested_keeps {s0 s : State} {a0 : CtxNo} {a1 a2 a3 : Nat} (h : Keeps s0 s) :
    Keeps s0 (State.frameTested a0 a1 a2 a3 s) := by
  unfold State.frameTested
  repeat' first
    | (with_reducible assumption)
    | (with_reducible apply State.modSlot_keeps)
    | (with_reducible apply State.offer_keeps)
    | (with_reducible refine Keeps.of_ite (fun _ => ?_) (fun _ => ?_))

theorem State.testNext_keeps {s0 s : State} {a0 : CtxNo} {a1 a2 a3 : Nat} (h : Keeps s0 s) :
    Keeps s0 (State.testNext a0 a1 a2 a3 s) := by
  unfold State.testNext
  repeat' first
    | (with_reducible assumption)
    | (with_reducible apply State.frameTested_keeps)
    | (with_reducible apply State.modSlot_keeps)
    | (with_reducible refine Keeps.of_ite (fun _ => ?_) (fun _ => ?_))

theorem State.deadlineTest_keeps {s0 s : State} {a0 : CtxNo} {a1 : Nat} (h : Keeps s0 s) :
    Keeps s0 (State.deadlineTest a0 a1 s) := by
  unfold State.deadlineTest
  repeat' first
    | (with_reducible assumption)
    | (with_reducible apply State.releaseOf_keeps)
    | (with_reducible apply State.slip_keeps)
    | (with_reducible apply State.testNext_keeps)
    | (simp only [Keeps.same])
    | (with_reducible refine Keeps.of_ite (fun _ => ?_) (fun _ => ?_))

theorem execDeadlineTest_keeps {s0 s : State} {a0 : CtxNo} (h : Keeps s0 s) :
    KeepsR s0 (execDeadlineTest a0 s) := by
  unfold execDeadlineTest
  repeat' first
    | (with_reducible assumption)
    | (with_reducible apply State.deadlineTest_keeps)
    | (with_reducible apply KeepsR.next)
    | (with_reducible refine Keeps.of_ite (fun _ => ?_) (fun _ => ?_))
    | split

theorem execHorizonEntry_keeps {s0 s : State} {a0 : CtxNo} (h : Keeps s0 s) :
    KeepsR s0 (execHorizonEntry a0 s) := by
  unfold execHorizonEntry
  repeat' first
    | (with_reducible assumption)
    | (with_reducible apply State.horizonStep_keeps)
    | (with_reducible apply KeepsR.next)
    | (with_reducible refine Keeps.getD ?_ ?_)
    | (with_reducible refine Keeps.of_ite (fun _ => ?_) (fun _ => ?_))
    | split

theorem State.countSeats_keeps {s0 s : State} {a0 : CtxNo} {a1 : Nat} (h : Keeps s0 s) :
    Keeps s0 (State.countSeats a0 a1 s) := by
  unfold State.countSeats
  repeat' first
    | (with_reducible assumption)
    | (with_reducible apply State.addCnt_keeps)
    | (simp only [Keeps.same])
    | (with_reducible refine Keeps.of_ite (fun _ => ?_) (fun _ => ?_))
    | split

theorem State.unitLands_keeps {s0 s : State} {a0 : CtxNo} {a1 : Nat} (h : Keeps s0 s) :
    Keeps s0 (State.unitLands a0 a1 s).1 := by
  unfold State.unitLands
  repeat' first
    | (with_reducible assumption)
    | (with_reducible apply State.blitLand_keeps)
    | (with_reducible apply State.dmaLand_keeps)
    | (with_reducible apply State.modSes_keeps)
    | (simp only [Keeps.same])
    | (with_reducible refine Keeps.of_pair ‹_ = (_, _)› ?_)
    | (with_reducible refine Keeps.of_iteP (fun _ => ?_) (fun _ => ?_))
    | split

theorem State.unitStarts_keeps {s0 s : State} {a0 : CtxNo} {a1 : Nat} (h : Keeps s0 s) :
    Keeps s0 (State.unitStarts a0 a1 s).1 := by
  unfold State.unitStarts
  repeat' first
    | (with_reducible assumption)
    | (with_reducible apply State.blitStart_keeps)
    | (with_reducible apply State.dmaStart_keeps)
    | (with_reducible apply State.modSes_keeps)
    | (simp only [Keeps.same])
    | (with_reducible refine Keeps.of_pair ‹_ = (_, _)› ?_)
    | (with_reducible refine Keeps.of_iteP (fun _ => ?_) (fun _ => ?_))
    | split

theorem State.unitPreAt_keeps {s0 s : State} {a0 : CtxNo} {a1 : Nat} (h : Keeps s0 s) :
    Keeps s0 (State.unitPreAt a0 a1 s).1 := by
  unfold State.unitPreAt
  repeat' first
    | (with_reducible assumption)
    | (with_reducible apply State.modSes_keeps)
    | (with_reducible apply State.unitStarts_keeps)
    | (with_reducible refine Keeps.of_pair ‹_ = (_, _)› ?_)
    | (with_reducible refine Keeps.of_iteP (fun _ => ?_) (fun _ => ?_))
    | split

theorem State.unitsLoop_keeps {s0 s : State} {a0 : CtxNo} {a1 a2 : Nat} (h : Keeps s0 s) :
    Keeps s0 (State.unitsLoop a0 a1 a2 s) := by
  induction a2 generalizing s with
  | zero =>
    unfold State.unitsLoop
    repeat' first
      | (with_reducible assumption)
      | (with_reducible apply ih)
      | (with_reducible apply State.backOut_keeps)
      | (with_reducible apply State.modSes_keeps)
      | (with_reducible apply State.unitLands_keeps)
      | (with_reducible apply State.unitPreAt_keeps)
      | (with_reducible refine Keeps.of_pair ‹_ = (_, _)› ?_)
      | (with_reducible refine Keeps.of_ite (fun _ => ?_) (fun _ => ?_))
      | split
  | succ n ih =>
    unfold State.unitsLoop
    repeat' first
      | (with_reducible assumption)
      | (with_reducible apply ih)
      | (with_reducible apply State.backOut_keeps)
      | (with_reducible apply State.modSes_keeps)
      | (with_reducible apply State.unitLands_keeps)
      | (with_reducible apply State.unitPreAt_keeps)
      | (with_reducible refine Keeps.of_pair ‹_ = (_, _)› ?_)
      | (with_reducible refine Keeps.of_ite (fun _ => ?_) (fun _ => ?_))
      | split

theorem State.unitsTo_keeps {s0 s : State} {a0 : CtxNo} {a1 : Nat} (h : Keeps s0 s) :
    Keeps s0 (State.unitsTo a0 a1 s) := by
  unfold State.unitsTo
  repeat' first
    | (with_reducible assumption)
    | (with_reducible apply State.unitsLoop_keeps)
    | (with_reducible refine Keeps.of_ite (fun _ => ?_) (fun _ => ?_))

theorem State.passPost_keeps {s0 s : State} {a0 : CtxNo} (h : Keeps s0 s) :
    Keeps s0 (State.passPost a0 s) := by
  unfold State.passPost
  repeat' first
    | (with_reducible assumption)
    | (with_reducible apply State.modSes_keeps)
    | (with_reducible apply State.soundDue_keeps)
    | (with_reducible apply State.unitsTo_keeps)

theorem State.unitsBefore_keeps {s0 s : State} {a0 : CtxNo} {a1 : Nat} (h : Keeps s0 s) :
    Keeps s0 (State.unitsBefore a0 a1 s) := by
  unfold State.unitsBefore
  repeat' first
    | (with_reducible assumption)
    | (with_reducible apply State.unitPreAt_keeps)
    | (with_reducible apply State.unitsTo_keeps)
    | (simp only [Keeps.same])
    | (with_reducible refine Keeps.of_ite (fun _ => ?_) (fun _ => ?_))

theorem State.passPre_keeps {s0 s : State} {a0 : CtxNo} {a1 : Nat} (h : Keeps s0 s) :
    Keeps s0 (State.passPre a0 a1 s) := by
  unfold State.passPre
  repeat' first
    | (with_reducible assumption)
    | (with_reducible apply State.beamDue_keeps)
    | (with_reducible apply State.countSeats_keeps)
    | (with_reducible apply State.sesCycles_keeps)
    | (with_reducible apply State.unitsBefore_keeps)

theorem State.stand_keeps {s0 s : State} {a0 : CtxNo} (h : Keeps s0 s) :
    Keeps s0 (State.stand a0 s) := by
  unfold State.stand
  repeat' first
    | (with_reducible assumption)
    | (with_reducible apply State.boundary_keeps)
    | (with_reducible apply State.countFreeze_keeps)
    | (with_reducible apply State.soundDue_keeps)
    | (with_reducible apply State.unitsTo_keeps)
    | (with_reducible refine Keeps.of_ite (fun _ => ?_) (fun _ => ?_))

theorem State.passWhile_keeps {s0 s : State} {a0 : CtxNo} {a1 : State → Bool} {a2 a3 : Nat} (h : Keeps s0 s) :
    Keeps s0 (State.passWhile a0 a1 a2 a3 s) := by
  induction a2 generalizing s a3 with
  | zero =>
    unfold State.passWhile
    repeat' first
      | (with_reducible assumption)
      | (with_reducible apply ih)
      | (with_reducible apply State.passPost_keeps)
      | (with_reducible apply State.passPre_keeps)
      | (with_reducible apply State.stand_keeps)
      | (simp only [Keeps.same])
      | (with_reducible refine Keeps.of_ite (fun _ => ?_) (fun _ => ?_))
  | succ n ih =>
    unfold State.passWhile
    repeat' first
      | (with_reducible assumption)
      | (with_reducible apply ih)
      | (with_reducible apply State.passPost_keeps)
      | (with_reducible apply State.passPre_keeps)
      | (with_reducible apply State.stand_keeps)
      | (simp only [Keeps.same])
      | (with_reducible refine Keeps.of_ite (fun _ => ?_) (fun _ => ?_))

theorem State.passIdle_keeps {s0 s : State} {a0 : CtxNo} {a1 : Nat} (h : Keeps s0 s) :
    Keeps s0 (State.passIdle a0 a1 s) := by
  unfold State.passIdle
  repeat' first
    | (with_reducible assumption)
    | (with_reducible apply State.passWhile_keeps)

theorem State.passTime_keeps {s0 s : State} {a0 : CtxNo} {a1 : Nat} (h : Keeps s0 s) :
    Keeps s0 (State.passTime a0 a1 s) := by
  unfold State.passTime
  repeat' first
    | (with_reducible assumption)
    | (with_reducible apply State.passWhile_keeps)

theorem State.passTo_keeps {s0 s : State} {a0 : CtxNo} {a1 : Nat} (h : Keeps s0 s) :
    Keeps s0 (State.passTo a0 a1 s) := by
  unfold State.passTo
  repeat' first
    | (with_reducible assumption)
    | (with_reducible apply State.passIdle_keeps)
    | (with_reducible apply State.unitsTo_keeps)
    | (with_reducible refine Keeps.of_ite (fun _ => ?_) (fun _ => ?_))

theorem State.portAction_keeps {s0 s : State} {a0 : CtxNo} {a1 : DmaPhase} {a2 : Option Nat} (h : Keeps s0 s) :
    Keeps s0 (State.portAction a0 a1 a2 s) := by
  unfold State.portAction
  repeat' first
    | (with_reducible assumption)
    | (with_reducible apply State.passTo_keeps)
    | (with_reducible refine Keeps.of_ite (fun _ => ?_) (fun _ => ?_))
    | split

theorem State.unitStore_keeps {s0 s : State} {a0 : CtxNo} {a1 : Nat} {a2 : Word} (h : Keeps s0 s) :
    Keeps s0 (State.unitStore a0 a1 a2 s) := by
  unfold State.unitStore
  repeat' first
    | (with_reducible assumption)
    | (with_reducible apply State.modSes_keeps)

theorem State.storeRow_keeps {s0 s : State} {a0 : CtxNo} {a1 : Nat} {a2 : Word} (h : Keeps s0 s) :
    Keeps s0 (State.storeRow a0 a1 a2 s) := by
  unfold State.storeRow
  repeat' first
    | (with_reducible assumption)
    | (with_reducible apply State.unitStore_keeps)
    | (with_reducible refine Keeps.of_ite (fun _ => ?_) (fun _ => ?_))

theorem execAudioSample_keeps {s0 s : State} {a0 : CtxNo} (h : Keeps s0 s) :
    KeepsR s0 (execAudioSample a0 s) := by
  unfold execAudioSample
  repeat' first
    | (with_reducible assumption)
    | (with_reducible apply State.mixSample_keeps)
    | (with_reducible apply State.passIdle_keeps)
    | (simp only [Keeps.same])
    | (with_reducible apply KeepsR.next)
    | (with_reducible refine Keeps.of_ite (fun _ => ?_) (fun _ => ?_))
    | split

theorem execBandBoundary_keeps {s0 s : State} {a0 : CtxNo} (h : Keeps s0 s) :
    KeepsR s0 (execBandBoundary a0 s) := by
  unfold execBandBoundary
  repeat' first
    | (with_reducible assumption)
    | (with_reducible apply State.boundary_keeps)
    | (with_reducible apply State.passIdle_keeps)
    | (with_reducible apply KeepsR.next)
    | (with_reducible refine Keeps.of_ite (fun _ => ?_) (fun _ => ?_))

theorem execBlitAbort_keeps {s0 s : State} {a0 : CtxNo} (h : Keeps s0 s) :
    KeepsR s0 (execBlitAbort a0 s) := by
  unfold execBlitAbort
  repeat' first
    | (with_reducible assumption)
    | (with_reducible apply State.storeRow_keeps)
    | (with_reducible apply KeepsR.next)

theorem execBlitBurst_keeps {s0 s : State} {a0 : CtxNo} (h : Keeps s0 s) :
    KeepsR s0 (execBlitBurst a0 s) := by
  unfold execBlitBurst
  repeat' first
    | (with_reducible assumption)
    | (with_reducible apply State.passTo_keeps)
    | (with_reducible apply KeepsR.next)
    | (with_reducible refine Keeps.of_ite (fun _ => ?_) (fun _ => ?_))
    | split

theorem execBlitGo_keeps {s0 s : State} {a0 : CtxNo} {a1 : Bool} (h : Keeps s0 s) :
    KeepsR s0 (execBlitGo a0 a1 s) := by
  unfold execBlitGo
  repeat' first
    | (with_reducible assumption)
    | (with_reducible apply State.storeRow_keeps)
    | (with_reducible apply KeepsR.next)

theorem execDescriptorRead_keeps {s0 s : State} {a0 : CtxNo} {a1 : Fin 2} (h : Keeps s0 s) :
    KeepsR s0 (execDescriptorRead a0 a1 s) := by
  unfold execDescriptorRead
  repeat' first
    | (with_reducible assumption)
    | (with_reducible apply State.portAction_keeps)
    | (with_reducible apply KeepsR.next)

theorem execDmaAbort_keeps {s0 s : State} {a0 : CtxNo} {a1 : Fin 4} (h : Keeps s0 s) :
    KeepsR s0 (execDmaAbort a0 a1 s) := by
  unfold execDmaAbort
  repeat' first
    | (with_reducible assumption)
    | (with_reducible apply State.storeRow_keeps)
    | (with_reducible apply KeepsR.next)

theorem execDmaBurst_keeps {s0 s : State} {a0 : CtxNo} (h : Keeps s0 s) :
    KeepsR s0 (execDmaBurst a0 s) := by
  unfold execDmaBurst
  repeat' first
    | (with_reducible assumption)
    | (with_reducible apply State.portAction_keeps)
    | (with_reducible apply KeepsR.next)

theorem execDmaEnable_keeps {s0 s : State} {a0 : CtxNo} {a1 : Fin 4} {a2 : Word} (h : Keeps s0 s) :
    KeepsR s0 (execDmaEnable a0 a1 a2 s) := by
  unfold execDmaEnable
  repeat' first
    | (with_reducible assumption)
    | (with_reducible apply State.storeRow_keeps)
    | (with_reducible apply KeepsR.next)
    | (with_reducible refine Keeps.of_ite (fun _ => ?_) (fun _ => ?_))

theorem execDmaFence_keeps {s0 s : State} {a0 : CtxNo} (h : Keeps s0 s) :
    KeepsR s0 (execDmaFence a0 s) := by
  unfold execDmaFence
  repeat' first
    | (with_reducible assumption)
    | (with_reducible apply State.countFreeze_keeps)
    | (with_reducible apply State.reply_keeps)
    | (with_reducible apply KeepsR.next)
    | (with_reducible refine Keeps.of_ite (fun _ => ?_) (fun _ => ?_))

theorem execDmaTrigger_keeps {s0 s : State} {a0 : CtxNo} {a1 : Fin 4} (h : Keeps s0 s) :
    KeepsR s0 (execDmaTrigger a0 a1 s) := by
  unfold execDmaTrigger
  repeat' first
    | (with_reducible assumption)
    | (with_reducible apply State.passTo_keeps)
    | (with_reducible apply KeepsR.next)
    | (with_reducible refine Keeps.of_ite (fun _ => ?_) (fun _ => ?_))
    | split

theorem execKick_keeps {s0 s : State} {a0 : CtxNo} {a1 : Fin 2} (h : Keeps s0 s) :
    KeepsR s0 (execKick a0 a1 s) := by
  unfold execKick
  repeat' first
    | (with_reducible assumption)
    | (with_reducible apply State.storeRow_keeps)
    | (with_reducible apply KeepsR.next)

theorem execLineCompare_keeps {s0 s : State} {a0 : CtxNo} (h : Keeps s0 s) :
    KeepsR s0 (execLineCompare a0 s) := by
  unfold execLineCompare
  repeat' first
    | (with_reducible assumption)
    | (with_reducible apply State.modSes_keeps)
    | (with_reducible apply State.passIdle_keeps)
    | (with_reducible apply KeepsR.next)
    | (with_reducible refine Keeps.of_ite (fun _ => ?_) (fun _ => ?_))
    | split

theorem execVblankInstant_keeps {s0 s : State} {a0 : CtxNo} (h : Keeps s0 s) :
    KeepsR s0 (execVblankInstant a0 s) := by
  unfold execVblankInstant
  repeat' first
    | (with_reducible assumption)
    | (with_reducible apply State.modSes_keeps)
    | (with_reducible apply State.passIdle_keeps)
    | (with_reducible apply KeepsR.next)
    | (with_reducible refine Keeps.of_ite (fun _ => ?_) (fun _ => ?_))

theorem execWriteBackDescriptor_keeps {s0 s : State} {a0 : CtxNo} {a1 : Fin 2} (h : Keeps s0 s) :
    KeepsR s0 (execWriteBackDescriptor a0 a1 s) := by
  unfold execWriteBackDescriptor
  repeat' first
    | (with_reducible assumption)
    | (with_reducible apply State.portAction_keeps)
    | (with_reducible apply KeepsR.next)

theorem State.videoRead_keeps {s0 s : State} {a0 : CtxNo} {a1 : Nat} (h : Keeps s0 s) :
    Keeps s0 (State.videoRead a0 a1 s).1 := by
  unfold State.videoRead
  repeat' first
    | (with_reducible assumption)
    | (with_reducible apply State.modSes_keeps)
    | (simp only [Keeps.same])
    | (with_reducible refine Keeps.of_iteP (fun _ => ?_) (fun _ => ?_))

theorem State.videoLoad_keeps {s0 s : State} {a0 : CtxNo} {a1 : Nat} (h : Keeps s0 s) :
    Keeps s0 (State.videoLoad a0 a1 s).1 := by
  unfold State.videoLoad
  repeat' first
    | (with_reducible assumption)
    | (with_reducible apply State.countFreeze_keeps)
    | (with_reducible apply State.lpgCatchUp_keeps)
    | (with_reducible apply State.spriteDue_keeps)
    | (with_reducible apply State.videoRead_keeps)
    | (simp only [Keeps.same])
    | (with_reducible refine Keeps.of_pair ‹_ = (_, _)› ?_)
    | (with_reducible refine Keeps.of_iteP (fun _ => ?_) (fun _ => ?_))
    | split

theorem State.ioLoad_keeps {s0 s : State} {a0 : CtxNo} {a1 : Nat} (h : Keeps s0 s) :
    Keeps s0 (State.ioLoad a0 a1 s).1 := by
  unfold State.ioLoad
  repeat' first
    | (with_reducible assumption)
    | (with_reducible apply State.mixFirst_keeps)
    | (with_reducible apply State.modSes_keeps)
    | (with_reducible apply State.videoLoad_keeps)
    | (simp only [Keeps.same])
    | (with_reducible refine Keeps.of_pair ‹_ = (_, _)› ?_)
    | (with_reducible refine Keeps.of_iteP (fun _ => ?_) (fun _ => ?_))
    | split

theorem State.mailRecord_keeps {s0 s : State} {a0 : Nat} (h : Keeps s0 s) :
    Keeps s0 (State.mailRecord a0 s) := by
  unfold State.mailRecord
  dsimp only
  by_cases hd : slotDie a0 % 2 = 0
  all_goals
    simp only [hd, if_true, if_false]
    split
    · rename_i hl
      apply State.setLevel_keeps
      exact h.upd rfl rfl (le_refl _) (List.suffix_refl _) (fun i => ⟨i.mem, i.bad, i.wake, i.slip,
        i.halt, fifo_put i.mbq (by decide) hl, i.quar⟩)
    · exact State.countReg_keeps h

theorem State.mailSend_keeps {s0 s : State} {a0 : CtxNo} (h : Keeps s0 s) :
    Keeps s0 (State.mailSend a0 s) := by
  unfold State.mailSend
  repeat' first
    | (with_reducible assumption)
    | (with_reducible apply State.mailRecord_keeps)
    | (with_reducible apply State.modSes_keeps)
    | (simp only [Keeps.same])
    | (with_reducible refine Keeps.of_ite (fun _ => ?_) (fun _ => ?_))
    | split

theorem State.miscStore_keeps {s0 s : State} {a0 : CtxNo} {a1 : Nat} {a2 : Word} (h : Keeps s0 s) :
    Keeps s0 (State.miscStore a0 a1 a2 s) := by
  unfold State.miscStore
  repeat' first
    | (with_reducible assumption)
    | (with_reducible apply State.mailSend_keeps)
    | (with_reducible apply State.modSes_keeps)
    | (simp only [Keeps.same])
    | (with_reducible refine Keeps.of_ite (fun _ => ?_) (fun _ => ?_))

theorem State.ioStore_keeps {s0 s : State} {a0 : CtxNo} {a1 : Nat} {a2 : Word} (h : Keeps s0 s) :
    Keeps s0 (State.ioStore a0 a1 a2 s).1 := by
  unfold State.ioStore
  repeat' first
    | (with_reducible assumption)
    | (with_reducible apply State.miscStore_keeps)
    | (with_reducible apply State.modSes_keeps)
    | (with_reducible apply State.soundStore_keeps)
    | (with_reducible apply State.unitStore_keeps)
    | (with_reducible refine Keeps.of_iteP (fun _ => ?_) (fun _ => ?_))

theorem State.mailCommit_keeps {s0 s : State} {a0 : Nat} {a1 : Reg32} (h : Keeps s0 s) :
    Keeps s0 (State.mailCommit a0 a1 s) := by
  unfold State.mailCommit
  repeat' first
    | (with_reducible assumption)
    | (with_reducible apply State.modSes_keeps)
    | (simp only [Keeps.same])
    | split

theorem State.mailLow_keeps {s0 s : State} {a0 : Nat} {a1 : Reg32} (h : Keeps s0 s) :
    Keeps s0 (State.mailLow a0 a1 s) := by
  unfold State.mailLow
  repeat' first
    | (with_reducible assumption)
    | (with_reducible apply State.modSes_keeps)
    | (simp only [Keeps.same])
    | split

theorem State.mailRead_keeps {s0 s : State} {a0 : Nat} (h : Keeps s0 s) :
    Keeps s0 (State.mailRead a0 s).1 := by
  unfold State.mailRead
  repeat' first
    | (with_reducible assumption)
    | (with_reducible apply State.modSes_keeps)
    | (simp only [Keeps.same])
    | split

theorem State.mbqRead_keeps {s0 s : State} {a0 : Fin 2} (h : Keeps s0 s) :
    Keeps s0 (State.mbqRead a0 s).1 := by
  unfold State.mbqRead
  split
  · rename_i v l he
    have h1 : Keeps s0 { s with mbqFifo := s.mbqFifo.set a0.val l } := h.upd rfl rfl (le_refl _) (List.suffix_refl _)
      (fun i => ⟨i.mem, i.bad, i.wake, i.slip, i.halt, fifo_set i.mbq a0.isLt (by have := i.mbq a0; rw [he] at this; exact Nat.le_of_succ_le this), i.quar⟩)
    dsimp only
    split
    · exact State.setLevel_keeps h1
    · exact h1
  · exact h

theorem execMailboxCommit_keeps {s0 s : State} {a0 : SlotNo} {a1 : Reg32} (h : Keeps s0 s) :
    KeepsR s0 (execMailboxCommit a0 a1 s) := by
  unfold execMailboxCommit
  repeat' first
    | (with_reducible assumption)
    | (with_reducible apply State.mailCommit_keeps)
    | (with_reducible apply KeepsR.next)
    | (with_reducible refine Keeps.of_ite (fun _ => ?_) (fun _ => ?_))

theorem execMailboxQueueRead_keeps {s0 s : State} {a0 : Fin 2} (h : Keeps s0 s) :
    KeepsR s0 (execMailboxQueueRead a0 s) := by
  unfold execMailboxQueueRead
  repeat' first
    | (with_reducible assumption)
    | (with_reducible apply State.mbqRead_keeps)
    | (with_reducible apply State.reply_keeps)
    | (simp only [Keeps.same])
    | (with_reducible apply KeepsR.next)
    | (with_reducible refine Keeps.of_ite (fun _ => ?_) (fun _ => ?_))

theorem execMailboxSend_keeps {s0 s : State} {a0 : CtxNo} (h : Keeps s0 s) :
    KeepsR s0 (execMailboxSend a0 s) := by
  unfold execMailboxSend
  repeat' first
    | (with_reducible assumption)
    | (with_reducible apply State.mailSend_keeps)
    | (with_reducible apply KeepsR.next)
    | (with_reducible refine Keeps.of_ite (fun _ => ?_) (fun _ => ?_))

theorem execOutboxRead_keeps {s0 s : State} {a0 : SlotNo} (h : Keeps s0 s) :
    KeepsR s0 (execOutboxRead a0 s) := by
  unfold execOutboxRead
  repeat' first
    | (with_reducible assumption)
    | (with_reducible apply State.mailRead_keeps)
    | (with_reducible apply State.reply_keeps)
    | (simp only [Keeps.same])
    | (with_reducible apply KeepsR.next)
    | (with_reducible refine Keeps.of_ite (fun _ => ?_) (fun _ => ?_))

theorem State.setOwnIo_keeps {s0 s : State} {a0 : Cpu} {a1 a2 : Nat} (h : Keeps s0 s) :
    Keeps s0 (State.setOwnIo a0 a1 a2 s) := by
  unfold State.setOwnIo
  repeat' first
    | (with_reducible assumption)
    | (with_reducible apply State.modKeeper_keeps)
    | (with_reducible apply State.modSes_keeps)
    | split

theorem State.count32_keeps {s0 s : State} {a0 : Cpu} {a1 a2 : Nat} (h : Keeps s0 s) :
    Keeps s0 (State.count32 a0 a1 a2 s) := by
  unfold State.count32
  repeat' first
    | (with_reducible assumption)
    | (with_reducible apply State.setOwnIo_keeps)

theorem State.modCpu_keeps {s0 s : State} {a0 : Cpu} {a1 : CpuState → CpuState} (h : Keeps s0 s) :
    Keeps s0 (State.modCpu a0 a1 s) := by
  unfold State.modCpu
  repeat' first
    | (with_reducible assumption)
    | (with_reducible apply State.modKeeper_keeps)
    | (with_reducible apply State.modSes_keeps)
    | split

theorem State.setForce_keeps {s0 s : State} {a0 : Cpu} {a1 : Nat} {a2 : Word} (h : Keeps s0 s) :
    Keeps s0 (State.setForce a0 a1 a2 s) := by
  unfold State.setForce
  repeat' first
    | (with_reducible assumption)
    | (with_reducible apply State.modKeeper_keeps)
    | (with_reducible apply State.modSes_keeps)
    | split

theorem State.applyMode_keeps {s0 s : State} {a0 : Cpu} {a1 : ModeTarget} (h : Keeps s0 s) :
    Keeps s0 (State.applyMode a0 a1 s) := by
  unfold State.applyMode
  repeat' first
    | (with_reducible assumption)
    | (with_reducible apply State.modCpu_keeps)
    | (with_reducible apply State.setForce_keeps)
    | split

theorem State.stepModes_keeps {s0 s : State} {a0 : Cpu} (h : Keeps s0 s) :
    Keeps s0 (State.stepModes a0 s) := by
  unfold State.stepModes
  repeat' first
    | (with_reducible assumption)
    | (with_reducible apply State.applyMode_keeps)
    | (with_reducible apply State.modCpu_keeps)
    | (simp only [Keeps.same])
    | (with_reducible refine Keeps.foldl (fun _ _ _ => ?_) _ ?_)

theorem State.commit_keeps {s0 s : State} {a0 : Cpu} {a1 : Op} {a2 : Nat} (h : Keeps s0 s) :
    Keeps s0 (State.commit a0 a1 a2 s) := by
  unfold State.commit
  repeat' first
    | (with_reducible assumption)
    | (with_reducible apply State.count32_keeps)
    | (with_reducible apply State.modCpu_keeps)
    | (with_reducible apply State.stepModes_keeps)
    | (with_reducible refine Keeps.of_ite (fun _ => ?_) (fun _ => ?_))

theorem State.keeperTime_keeps {s0 s : State} {a0 : Fin 4} {a1 : Nat} (h : Keeps s0 s) :
    Keeps s0 (State.keeperTime a0 a1 s) := by
  unfold State.keeperTime
  repeat' first
    | (with_reducible assumption)
    | (with_reducible apply State.count32_keeps)
    | (with_reducible apply State.keeperCycles_keeps)

end Sys2Proof.Machine
end

