-- ==== Sys2Proof/Laws/Kept6.lean ====
section
/-! SUPPORT. What the operations of the block keep, part 6 of 14: each leaves the queue, the part and what was sent,
uses free values up in order, and keeps a sound state sound (the relation of Laws/Keeps.lean). -/

set_option linter.all false

namespace Sys2Proof.Machine

open Sys2Proof

theorem State.cpuUntil_keeps {s0 s : State} {a0 : Cpu} {a1 : Nat} (h : Keeps s0 s) :
    Keeps s0 (State.cpuUntil a0 a1 s).1 := by
  unfold State.cpuUntil
  repeat' first
    | (with_reducible assumption)
    | (with_reducible apply State.keeperTime_keeps)
    | (with_reducible apply State.passTime_keeps)
    | (simp only [Keeps.same])
    | split

theorem State.holdAt_keeps {s0 s : State} {a0 : Cpu} {a1 : Issued} (h : Keeps s0 s) :
    Keeps s0 (State.holdAt a0 a1 s) := by
  unfold State.holdAt
  repeat' first
    | (with_reducible assumption)
    | (with_reducible apply State.modCpu_keeps)

theorem State.annulOn_keeps {s0 s : State} {a0 : Cpu} {a1 : Nat} {a2 : Issued} (h : Keeps s0 s) :
    Keeps s0 (State.annulOn a0 a1 a2 s) := by
  unfold State.annulOn
  repeat' first
    | (with_reducible assumption)
    | (with_reducible apply State.commit_keeps)
    | (with_reducible apply State.cpuUntil_keeps)
    | (with_reducible apply State.holdAt_keeps)
    | (with_reducible apply State.modCpu_keeps)
    | (simp only [Keeps.same])
    | (with_reducible refine Keeps.of_pair ‹_ = (_, _)› ?_)
    | (dsimp only [Op.nop, aluOp, flagOp, pairOp, transferOp, id, dcpDone, dcpFail, State.loadOp, State.storeOp, State.pushOp, State.popOp, State.callOp, State.retOp, State.bitBranchOp, State.bitReadOp, State.bitWriteOp, State.farLoadOp, State.farStoreOp, State.farAtomOp])
    | split

theorem State.spendFast_keeps {s0 s : State} {a0 : Cpu} (h : Keeps s0 s) :
    Keeps s0 (State.spendFast a0 s) := by
  unfold State.spendFast
  repeat' first
    | (with_reducible assumption)
    | (with_reducible apply State.spend_keeps)
    | (with_reducible refine Keeps.of_ite (fun _ => ?_) (fun _ => ?_))

theorem State.elapse_keeps {s0 s : State} {a0 : Cpu} (h : Keeps s0 s) :
    Keeps s0 (State.elapse a0 s) := by
  unfold State.elapse
  repeat' first
    | (with_reducible assumption)
    | (with_reducible apply State.cpuUntil_keeps)
    | (with_reducible apply State.spendFast_keeps)
    | (with_reducible refine Keeps.of_ite (fun _ => ?_) (fun _ => ?_))

theorem State.holdOn_keeps {s0 s : State} {a0 : Cpu} {a1 : Issued} (h : Keeps s0 s) :
    Keeps s0 (State.holdOn a0 a1 s) := by
  unfold State.holdOn
  repeat' first
    | (with_reducible assumption)
    | (with_reducible apply State.elapse_keeps)
    | (with_reducible apply State.holdAt_keeps)
    | (with_reducible apply State.modCpu_keeps)
    | (simp only [Keeps.same])
    | (with_reducible refine Keeps.of_ite (fun _ => ?_) (fun _ => ?_))
    | split

theorem State.cpuPost_keeps {s0 s : State} {a0 : Cpu} (h : Keeps s0 s) :
    Keeps s0 (State.cpuPost a0 s) := by
  unfold State.cpuPost
  repeat' first
    | (with_reducible assumption)
    | (with_reducible apply State.passPost_keeps)
    | split

theorem State.cpuPre_keeps {s0 s : State} {a0 : Cpu} (h : Keeps s0 s) :
    Keeps s0 (State.cpuPre a0 s) := by
  unfold State.cpuPre
  repeat' first
    | (with_reducible assumption)
    | (with_reducible apply State.keeperTime_keeps)
    | (with_reducible apply State.passPre_keeps)
    | split

theorem State.poised_keeps {s0 s : State} {a0 : Cpu} (h : Keeps s0 s) :
    Keeps s0 (State.poised a0 s).1 := by
  unfold State.poised
  repeat' first
    | (with_reducible assumption)
    | (with_reducible apply State.stand_keeps)
    | (simp only [Keeps.same])
    | split

theorem State.retried_keeps {s0 s s1 : State} {a0 : Cpu} {a1 : State → State × Bool} (ha1 : ∀ z, Keeps s0 z → Keeps s0 (a1 z).1) (h : Keeps s0 s) (h2 : Keeps s0 s1) :
    Keeps s0 (State.retried a0 a1 s s1) := by
  unfold State.retried
  repeat' first
    | (with_reducible assumption)
    | (with_reducible apply ha1)
    | (with_reducible apply State.backOut_keeps)
    | (simp only [Keeps.same])
    | (with_reducible refine Keeps.of_pair ‹_ = (_, _)› ?_)
    | (with_reducible refine Keeps.of_ite (fun _ => ?_) (fun _ => ?_))
    | split

theorem State.unitWait_keeps {s0 s s1 : State} {a0 : Cpu} (h : Keeps s0 s) (h2 : Keeps s0 s1) :
    Keeps s0 (State.unitWait a0 s s1) := by
  unfold State.unitWait
  repeat' first
    | (with_reducible assumption)
    | (with_reducible apply State.countFreeze_keeps)
    | (simp only [Keeps.same])
    | split

theorem State.inCycle_keeps {s0 s : State} {a0 : Cpu} {a1 : Bool} {a2 : List Reached} {a3 : State → State} {a4 : State → State × Bool} (ha3 : ∀ z, Keeps s0 z → Keeps s0 (a3 z)) (ha4 : ∀ z, Keeps s0 z → Keeps s0 (a4 z).1) (h : Keeps s0 s) :
    Keeps s0 (State.inCycle a0 a1 a2 a3 a4 s).1 := by
  unfold State.inCycle
  repeat' first
    | (with_reducible assumption)
    | (with_reducible apply ha3)
    | (with_reducible apply ha4)
    | (with_reducible apply State.cpuPost_keeps)
    | (with_reducible apply State.cpuPre_keeps)
    | (with_reducible apply State.poised_keeps)
    | (with_reducible apply State.retried_keeps)
    | (with_reducible apply State.unitWait_keeps)
    | (simp only [Keeps.same])
    | (with_reducible refine Keeps.of_pair ‹_ = (_, _)› ?_)
    | (with_reducible refine Keeps.of_ite (fun _ => ?_) (fun _ => ?_))
    | (with_reducible refine Keeps.of_iteP (fun _ => ?_) (fun _ => ?_))
    | split

theorem State.atCycle_keeps {s0 s : State} {a0 : Cpu} {a1 : Op} {a2 : Nat} {a3 : State → State} {a4 : State → State × Bool} {a5 : Issued} (ha3 : ∀ z, Keeps s0 z → Keeps s0 (a3 z)) (ha4 : ∀ z, Keeps s0 z → Keeps s0 (a4 z).1) (h : Keeps s0 s) :
    Keeps s0 (State.atCycle a0 a1 a2 a3 a4 a5 s).1 := by
  unfold State.atCycle
  repeat' first
    | (with_reducible assumption)
    | (with_reducible apply State.cpuUntil_keeps)
    | (with_reducible apply State.holdAt_keeps)
    | (with_reducible apply State.holdOn_keeps)
    | (with_reducible apply State.inCycle_keeps)
    | (simp only [Keeps.same])
    | (with_reducible refine Keeps.of_pair ‹_ = (_, _)› ?_)
    | split

theorem State.cWord_keeps {s0 s : State} {a0 : Cpu} {a1 : Nat} (h : Keeps s0 s) :
    Keeps s0 (State.cWord a0 a1 s).1 := by
  unfold State.cWord
  repeat' first
    | (with_reducible assumption)
    | (with_reducible apply State.cRead_keeps)
    | (simp only [Keeps.same])
    | split

theorem State.faultRegs_keeps {s0 s : State} {a0 : Cpu} {a1 : Bool} {a2 : Word} {a3 : FaultInfo} (h : Keeps s0 s) :
    Keeps s0 (State.faultRegs a0 a1 a2 a3 s) := by
  unfold State.faultRegs
  repeat' first
    | (with_reducible assumption)
    | (with_reducible apply State.setOwnIo_keeps)

theorem State.haltCpu_keeps {s0 s : State} {a0 : Cpu} (h : Keeps s0 s) :
    Keeps s0 (State.haltCpu a0 s) := by
  unfold State.haltCpu
  repeat' first
    | (with_reducible assumption)
    | (with_reducible apply State.haltRecord_keeps)
    | (with_reducible apply State.modCpu_keeps)
    | (with_reducible apply State.offer_keeps)
    | (with_reducible apply State.raiseP_keeps)
    | (simp only [Keeps.same])
    | split

theorem State.setSeq_keeps {s0 s : State} {a0 : Cpu} {a1 : Option Seq} (h : Keeps s0 s) :
    Keeps s0 (State.setSeq a0 a1 s) := by
  unfold State.setSeq
  repeat' first
    | (with_reducible assumption)
    | (with_reducible apply State.modCpu_keeps)

theorem State.readVector_keeps {s0 s : State} {a0 : Cpu} {a1 : Seq} (h : Keeps s0 s) :
    Keeps s0 (State.readVector a0 a1 s).1 := by
  unfold State.readVector
  repeat' first
    | (with_reducible assumption)
    | (with_reducible apply State.cWord_keeps)
    | (with_reducible apply State.faultRegs_keeps)
    | (with_reducible apply State.haltCpu_keeps)
    | (with_reducible apply State.setSeq_keeps)
    | (simp only [Keeps.same])
    | (with_reducible refine Keeps.of_pair ‹_ = (_, _)› ?_)
    | (with_reducible refine Keeps.of_iteP (fun _ => ?_) (fun _ => ?_))
    | split

theorem State.seqIdle_keeps {s0 s : State} {a0 : Cpu} {a1 : State → State} (ha1 : ∀ z, Keeps s0 z → Keeps s0 (a1 z)) (h : Keeps s0 s) :
    Keeps s0 (State.seqIdle a0 a1 s).1 := by
  unfold State.seqIdle
  repeat' first
    | (with_reducible assumption)
    | (with_reducible apply State.inCycle_keeps)
    | (with_reducible intro _ _)
    | (dsimp only [Op.nop, aluOp, flagOp, pairOp, transferOp, id, dcpDone, dcpFail, State.loadOp, State.storeOp, State.pushOp, State.popOp, State.callOp, State.retOp, State.bitBranchOp, State.bitReadOp, State.bitWriteOp, State.farLoadOp, State.farStoreOp, State.farAtomOp])

theorem State.modInt_keeps {s0 s : State} {a0 : Cpu} {a1 : IntSt → IntSt} (h : Keeps s0 s) :
    Keeps s0 (State.modInt a0 a1 s) := by
  unfold State.modInt
  repeat' first
    | (with_reducible assumption)
    | (with_reducible apply State.modKeeper_keeps)
    | (with_reducible apply State.modSes_keeps)
    | split

theorem State.setLevelOf_keeps {s0 s : State} {a0 : Cpu} {a1 : Option Nat} {a2 : Nat} (h : Keeps s0 s) :
    Keeps s0 (State.setLevelOf a0 a1 a2 s) := by
  unfold State.setLevelOf
  repeat' first
    | (with_reducible assumption)
    | (with_reducible apply State.modCpu_keeps)
    | (with_reducible apply State.modInt_keeps)

theorem State.takeVector_keeps {s0 s : State} {a0 : Cpu} {a1 : Seq} (h : Keeps s0 s) :
    Keeps s0 (State.takeVector a0 a1 s) := by
  unfold State.takeVector
  repeat' first
    | (with_reducible assumption)
    | (with_reducible apply State.modCpu_keeps)

theorem State.chainCycle_keeps {s0 s : State} {a0 : Cpu} {a1 : Seq} (h : Keeps s0 s) :
    Keeps s0 (State.chainCycle a0 a1 s).1 := by
  unfold State.chainCycle
  repeat' first
    | (with_reducible assumption)
    | (with_reducible apply State.inCycle_keeps)
    | (with_reducible apply State.modCpu_keeps)
    | (with_reducible apply State.readVector_keeps)
    | (with_reducible apply State.seqIdle_keeps)
    | (with_reducible apply State.setLevelOf_keeps)
    | (with_reducible apply State.setSeq_keeps)
    | (with_reducible apply State.takeVector_keeps)
    | (simp only [Keeps.same])
    | (with_reducible intro _ _)
    | (with_reducible refine Keeps.of_iteP (fun _ => ?_) (fun _ => ?_))
    | (dsimp only [Op.nop, aluOp, flagOp, pairOp, transferOp, id, dcpDone, dcpFail, State.loadOp, State.storeOp, State.pushOp, State.popOp, State.callOp, State.retOp, State.bitBranchOp, State.bitReadOp, State.bitWriteOp, State.farLoadOp, State.farStoreOp, State.farAtomOp])

theorem State.keeperIoLoad_keeps {s0 s : State} {a0 : Fin 4} {a1 : Nat} (h : Keeps s0 s) :
    Keeps s0 (State.keeperIoLoad a0 a1 s).1 := by
  unfold State.keeperIoLoad
  repeat' first
    | (with_reducible assumption)
    | (with_reducible apply State.setOwnIo_keeps)
    | (simp only [Keeps.same])
    | (with_reducible refine Keeps.of_iteP (fun _ => ?_) (fun _ => ?_))

theorem State.dLoad_keeps {s0 s : State} {a0 : Cpu} {a1 : Nat} (h : Keeps s0 s) :
    Keeps s0 (State.dLoad a0 a1 s).1 := by
  unfold State.dLoad
  repeat' first
    | (with_reducible assumption)
    | (with_reducible apply State.dRead_keeps)
    | (with_reducible apply State.ioLoad_keeps)
    | (with_reducible apply State.keeperIoLoad_keeps)
    | (simp only [Keeps.same])
    | (with_reducible refine Keeps.of_iteP (fun _ => ?_) (fun _ => ?_))
    | split

theorem State.keeperIoStore_keeps {s0 s : State} {a0 : Fin 4} {a1 : Nat} {a2 : Word} (h : Keeps s0 s) :
    Keeps s0 (State.keeperIoStore a0 a1 a2 s) := by
  unfold State.keeperIoStore
  repeat' first
    | (with_reducible assumption)
    | (with_reducible apply State.modCpu_keeps)
    | (with_reducible apply State.modKeeper_keeps)
    | (with_reducible apply State.setOwnIo_keeps)
    | (simp only [Keeps.same])
    | (with_reducible refine Keeps.of_ite (fun _ => ?_) (fun _ => ?_))

theorem State.dStore_keeps {s0 s : State} {a0 : Cpu} {a1 : Nat} {a2 : Word} (h : Keeps s0 s) :
    Keeps s0 (State.dStore a0 a1 a2 s).1 := by
  unfold State.dStore
  repeat' first
    | (with_reducible assumption)
    | (with_reducible apply State.dWrite_keeps)
    | (with_reducible apply State.ioStore_keeps)
    | (with_reducible apply State.keeperIoStore_keeps)
    | (with_reducible apply State.modKeeper_keeps)
    | (with_reducible refine Keeps.of_iteP (fun _ => ?_) (fun _ => ?_))
    | split

theorem State.push_keeps {s0 s : State} {a0 : Cpu} {a1 : Word} (h : Keeps s0 s) :
    Keeps s0 (State.push a0 a1 s).1 := by
  unfold State.push
  repeat' first
    | (with_reducible assumption)
    | (with_reducible apply State.dStore_keeps)
    | (with_reducible apply State.modCpu_keeps)
    | (simp only [Keeps.same])
    | (with_reducible refine Keeps.of_ite (fun _ => ?_) (fun _ => ?_))

theorem State.entryCycle_keeps {s0 s : State} {a0 : Cpu} {a1 : Seq} (h : Keeps s0 s) :
    Keeps s0 (State.entryCycle a0 a1 s).1 := by
  unfold State.entryCycle
  repeat' first
    | (with_reducible assumption)
    | (with_reducible apply State.faultRegs_keeps)
    | (with_reducible apply State.haltCpu_keeps)
    | (with_reducible apply State.inCycle_keeps)
    | (with_reducible apply State.push_keeps)
    | (with_reducible apply State.readVector_keeps)
    | (with_reducible apply State.seqIdle_keeps)
    | (with_reducible apply State.setLevelOf_keeps)
    | (with_reducible apply State.setSeq_keeps)
    | (with_reducible apply State.takeVector_keeps)
    | (simp only [Keeps.same])
    | (with_reducible intro _ _)
    | (with_reducible refine Keeps.of_iteP (fun _ => ?_) (fun _ => ?_))
    | (dsimp only [Op.nop, aluOp, flagOp, pairOp, transferOp, id, dcpDone, dcpFail, State.loadOp, State.storeOp, State.pushOp, State.popOp, State.callOp, State.retOp, State.bitBranchOp, State.bitReadOp, State.bitWriteOp, State.farLoadOp, State.farStoreOp, State.farAtomOp])
    | split

theorem State.reselect_keeps {s0 s : State} {a0 : Cpu} (h : Keeps s0 s) :
    Keeps s0 (State.reselect a0 s) := by
  unfold State.reselect
  repeat' first
    | (with_reducible assumption)
    | (with_reducible apply State.setSeq_keeps)
    | (with_reducible refine Keeps.of_ite (fun _ => ?_) (fun _ => ?_))
    | split

theorem State.pop_keeps {s0 s : State} {a0 : Cpu} {a1 : Word} {a2 : Word → Seq} (h : Keeps s0 s) :
    Keeps s0 (State.pop a0 a1 a2 s).1 := by
  unfold State.pop
  repeat' first
    | (with_reducible assumption)
    | (with_reducible apply State.dLoad_keeps)
    | (with_reducible apply State.modCpu_keeps)
    | (with_reducible apply State.setSeq_keeps)
    | (simp only [Keeps.same])
    | (with_reducible refine Keeps.of_pair ‹_ = (_, _)› ?_)
    | split

theorem State.retiCommit_keeps {s0 s : State} {a0 : Cpu} (h : Keeps s0 s) :
    Keeps s0 (State.retiCommit a0 s) := by
  unfold State.retiCommit
  repeat' first
    | (with_reducible assumption)
    | (with_reducible apply State.count32_keeps)
    | (with_reducible apply State.modCpu_keeps)
    | (with_reducible apply State.stepModes_keeps)

theorem State.retiFix_keeps {s0 s : State} {a0 : Cpu} {a1 : Seq} (h : Keeps s0 s) :
    Keeps s0 (State.retiFix a0 a1 s) := by
  unfold State.retiFix
  repeat' first
    | (with_reducible assumption)
    | (with_reducible apply State.retiCommit_keeps)
    | (with_reducible apply State.setSeq_keeps)

theorem State.retiCycle_keeps {s0 s : State} {a0 : Cpu} {a1 : Seq} (h : Keeps s0 s) :
    Keeps s0 (State.retiCycle a0 a1 s).1 := by
  unfold State.retiCycle
  repeat' first
    | (with_reducible assumption)
    | (with_reducible apply State.inCycle_keeps)
    | (with_reducible apply State.modCpu_keeps)
    | (with_reducible apply State.pop_keeps)
    | (with_reducible apply State.retiFix_keeps)
    | (with_reducible apply State.seqIdle_keeps)
    | (with_reducible apply State.setSeq_keeps)
    | (with_reducible intro _ _)
    | (with_reducible refine Keeps.of_iteP (fun _ => ?_) (fun _ => ?_))
    | (dsimp only [Op.nop, aluOp, flagOp, pairOp, transferOp, id, dcpDone, dcpFail, State.loadOp, State.storeOp, State.pushOp, State.popOp, State.callOp, State.retOp, State.bitBranchOp, State.bitReadOp, State.bitWriteOp, State.farLoadOp, State.farStoreOp, State.farAtomOp])

theorem State.seqCycle_keeps {s0 s : State} {a0 : Cpu} {a1 : Seq} (h : Keeps s0 s) :
    Keeps s0 (State.seqCycle a0 a1 s).1 := by
  unfold State.seqCycle
  repeat' first
    | (with_reducible assumption)
    | (with_reducible apply State.chainCycle_keeps)
    | (with_reducible apply State.entryCycle_keeps)
    | (with_reducible apply State.reselect_keeps)
    | (with_reducible apply State.retiCycle_keeps)
    | (simp only [Keeps.same])
    | (with_reducible refine Keeps.of_ite (fun _ => ?_) (fun _ => ?_))
    | split

theorem State.seqRun_keeps {s0 s : State} {a0 : Cpu} {a1 : Nat} (h : Keeps s0 s) :
    Keeps s0 (State.seqRun a0 a1 s) := by
  induction a1 generalizing s with
  | zero =>
    unfold State.seqRun
    repeat' first
      | (with_reducible assumption)
      | (with_reducible apply ih)
      | (with_reducible apply State.elapse_keeps)
      | (with_reducible apply State.seqCycle_keeps)
      | (with_reducible refine Keeps.of_pair ‹_ = (_, _)› ?_)
      | split
  | succ n ih =>
    unfold State.seqRun
    repeat' first
      | (with_reducible assumption)
      | (with_reducible apply ih)
      | (with_reducible apply State.elapse_keeps)
      | (with_reducible apply State.seqCycle_keeps)
      | (with_reducible refine Keeps.of_pair ‹_ = (_, _)› ?_)
      | split

theorem State.seqStart_keeps {s0 s : State} {a0 : Cpu} {a1 : Seq} (h : Keeps s0 s) :
    Keeps s0 (State.seqStart a0 a1 s) := by
  unfold State.seqStart
  repeat' first
    | (with_reducible assumption)
    | (with_reducible apply State.cpuUntil_keeps)
    | (with_reducible apply State.modCpu_keeps)
    | (with_reducible apply State.seqRun_keeps)
    | (with_reducible apply State.spendFast_keeps)

theorem State.enter_keeps {s0 s : State} {a0 : Cpu} {a1 : Option Nat} {a2 : Nat} {a3 : Word} (h : Keeps s0 s) :
    Keeps s0 (State.enter a0 a1 a2 a3 s) := by
  unfold State.enter
  repeat' first
    | (with_reducible assumption)
    | (with_reducible apply State.seqStart_keeps)

theorem State.takeFault_keeps {s0 s : State} {a0 : Cpu} {a1 : FaultInfo} (h : Keeps s0 s) :
    Keeps s0 (State.takeFault a0 a1 s) := by
  unfold State.takeFault
  repeat' first
    | (with_reducible assumption)
    | (with_reducible apply State.enter_keeps)
    | (with_reducible apply State.faultRegs_keeps)
    | (with_reducible apply State.haltCpu_keeps)
    | (simp only [Keeps.same])
    | (with_reducible refine Keeps.of_ite (fun _ => ?_) (fun _ => ?_))

theorem State.faultOn_keeps {s0 s : State} {a0 : Cpu} {a1 : FaultInfo} {a2 : Issued} (h : Keeps s0 s) :
    Keeps s0 (State.faultOn a0 a1 a2 s) := by
  unfold State.faultOn
  repeat' first
    | (with_reducible assumption)
    | (with_reducible apply State.cpuUntil_keeps)
    | (with_reducible apply State.holdAt_keeps)
    | (with_reducible apply State.modCpu_keeps)
    | (with_reducible apply State.takeFault_keeps)
    | (with_reducible refine Keeps.of_pair ‹_ = (_, _)› ?_)
    | split

theorem State.fetchLine_keeps {s0 s : State} {a0 : Cpu} {a1 : Nat} (h : Keeps s0 s) :
    Keeps s0 (State.fetchLine a0 a1 s).1 := by
  unfold State.fetchLine
  split
  · refine Keeps.foldlP (fun z b hz => ?_) _ (Keeps.of_ite (fun _ => h) (fun _ => State.fillAhead_keeps h))
    split
    · exact State.cRead_keeps hz
    · exact hz
  · exact h

theorem State.finishOp_keeps {s0 s : State} {a0 : Cpu} {a1 : Op} {a2 : Nat} (ha1 : OpKeeps s0 a1) (h : Keeps s0 s) :
    Keeps s0 (State.finishOp a0 a1 a2 s).1 := by
  unfold State.finishOp
  repeat' first
    | (with_reducible assumption)
    | (with_reducible apply ha1.effect)
    | (with_reducible apply State.commit_keeps)
    | (with_reducible apply State.modCpu_keeps)
    | (simp only [Keeps.same])
    | (with_reducible refine Keeps.of_pair ‹_ = (_, _)› ?_)
    | split

theorem State.lastCycleOf_keeps {s0 s : State} {a0 : Cpu} {a1 : Op} {a2 : Issued} (ha1 : OpKeeps s0 a1) (h : Keeps s0 s) :
    Keeps s0 (State.lastCycleOf a0 a1 a2 s) := by
  unfold State.lastCycleOf
  repeat' first
    | (with_reducible assumption)
    | (with_reducible apply ha1.early)
    | (with_reducible apply State.atCycle_keeps)
    | (with_reducible apply State.finishOp_keeps)
    | (with_reducible apply State.holdOn_keeps)
    | (with_reducible apply State.retried_keeps)
    | (with_reducible apply State.unitWait_keeps)
    | (with_reducible refine Keeps.of_pair ‹_ = (_, _)› ?_)
    | (with_reducible intro _ _)
    | (with_reducible refine Keeps.of_ite (fun _ => ?_) (fun _ => ?_))
    | split

theorem State.goOn_keeps {s0 s : State} {a0 : Cpu} {a1 : Op} {a2 : Issued} (ha1 : OpKeeps s0 a1) (h : Keeps s0 s) :
    Keeps s0 (State.goOn a0 a1 a2 s) := by
  unfold State.goOn
  split
  · rename_i n early act hm _
    have k := ha1.mid n early act hm
    split
    · rename_i s1 he
      exact State.lastCycleOf_keeps ha1 (Keeps.of_pair he (State.atCycle_keeps k.1 k.2 (State.holdAt_keeps h)))
    · rename_i s1 he
      exact Keeps.of_pair he (State.atCycle_keeps k.1 k.2 (State.holdAt_keeps h))
  · exact State.lastCycleOf_keeps ha1 h

theorem State.issue_keeps {s0 s : State} {a0 : Cpu} {a1 : Op} (ha1 : OpKeeps s0 a1) (h : Keeps s0 s) :
    Keeps s0 (State.issue a0 a1 s) := by
  unfold State.issue
  repeat' first
    | (with_reducible assumption)
    | (with_reducible apply State.faultOn_keeps)
    | (with_reducible apply State.goOn_keeps)
    | (with_reducible apply State.spendFast_keeps)
    | (simp only [Keeps.same])
    | (with_reducible refine Keeps.of_ite (fun _ => ?_) (fun _ => ?_))
    | split

theorem State.asEncoded_keeps {s0 s : State} {p : Cpu} {o : Op} (h : OpKeeps s0 o) : OpKeeps s0 (s.asEncoded p o) := by
  unfold State.asEncoded
  split
  · exact OpKeeps.noMid (fun _ k => k) (fun _ k => k) rfl
  · exact h

theorem State.run_keeps {s0 s : State} {a0 : Cpu} {a1 : Op} (ha1 : OpKeeps s0 a1) (h : Keeps s0 s) :
    Keeps s0 (State.run a0 a1 s) := by
  unfold State.run
  repeat' first
    | (with_reducible assumption)
    | (with_reducible apply State.annulOn_keeps)
    | (with_reducible apply State.elapse_keeps)
    | (with_reducible apply State.faultOn_keeps)
    | (with_reducible apply State.fetchLine_keeps)
    | (with_reducible apply State.issue_keeps)
    | (with_reducible apply State.poised_keeps)
    | (with_reducible apply State.retried_keeps)
    | (with_reducible apply State.seqRun_keeps)
    | (with_reducible apply State.spendFast_keeps)
    | (with_reducible apply State.asEncoded_keeps)
    | (simp only [Keeps.same])
    | (with_reducible refine Keeps.of_pair ‹_ = (_, _)› ?_)
    | (with_reducible intro _ _)
    | (with_reducible refine Keeps.of_ite (fun _ => ?_) (fun _ => ?_))
    | split

theorem State.instr_keeps {s0 s : State} {a0 : Cpu} {a1 : Op} (ha1 : OpKeeps s0 a1) (h : Keeps s0 s) :
    KeepsR s0 (State.instr a0 a1 s) := by
  unfold State.instr
  repeat' first
    | (with_reducible assumption)
    | (with_reducible apply State.run_keeps)
    | (with_reducible apply KeepsR.next)

theorem execEntry_keeps {s0 s : State} {a0 : Cpu} (h : Keeps s0 s) :
    KeepsR s0 (execEntry a0 s) := by
  unfold execEntry
  repeat' first
    | (with_reducible assumption)
    | (with_reducible apply State.enter_keeps)
    | (with_reducible apply State.poised_keeps)
    | (with_reducible apply State.seqRun_keeps)
    | (simp only [Keeps.same])
    | (with_reducible apply KeepsR.next)
    | (with_reducible refine Keeps.of_ite (fun _ => ?_) (fun _ => ?_))
    | split

theorem State.advance_keeps {s0 s : State} {a0 : Cpu} {a1 : Fin 4} {a2 : Int} (h : Keeps s0 s) :
    Keeps s0 (State.advance a0 a1 a2 s) := by
  unfold State.advance
  repeat' first
    | (with_reducible assumption)
    | (with_reducible apply State.modCpu_keeps)

theorem State.advanceBy_keeps {s0 s : State} {a0 : Cpu} {a1 : Address} {a2 : Bool} (h : Keeps s0 s) :
    Keeps s0 (State.advanceBy a0 a1 a2 s) := by
  unfold State.advanceBy
  repeat' first
    | (with_reducible assumption)
    | (with_reducible apply State.advance_keeps)
    | split

theorem State.sLoad_keeps {s0 s : State} {a0 : CtxNo} {a1 : Nat} (h : Keeps s0 s) :
    Keeps s0 (State.sLoad a0 a1 s).1 := by
  unfold State.sLoad
  repeat' first
    | (with_reducible assumption)
    | (with_reducible apply State.mixFirst_keeps)
    | (with_reducible apply State.sRead_keeps)
    | (with_reducible apply State.thawed_keeps)
    | (simp only [Keeps.same])
    | (with_reducible refine Keeps.of_pair ‹_ = (_, _)› ?_)
    | (with_reducible refine Keeps.of_iteP (fun _ => ?_) (fun _ => ?_))
    | split

theorem State.vLoad_keeps {s0 s : State} {a0 : CtxNo} {a1 : Nat} (h : Keeps s0 s) :
    Keeps s0 (State.vLoad a0 a1 s).1 := by
  unfold State.vLoad
  repeat' first
    | (with_reducible assumption)
    | (with_reducible apply State.thawed_keeps)
    | (with_reducible apply State.vRead_keeps)

theorem State.memLoad_keeps {s0 s : State} {a0 : Cpu} {a1 : MemSpace} {a2 : Nat} (h : Keeps s0 s) :
    Keeps s0 (State.memLoad a0 a1 a2 s).1 := by
  unfold State.memLoad
  repeat' first
    | (with_reducible assumption)
    | (with_reducible apply State.cWord_keeps)
    | (with_reducible apply State.dLoad_keeps)
    | (with_reducible apply State.sLoad_keeps)
    | (with_reducible apply State.vLoad_keeps)
    | split

theorem State.storeWait_keeps {s0 s : State} {a0 : CtxNo} {a1 : Nat} {a3 : State × Bool} (h : Keeps s0 s) (ha3 : Keeps s0 a3.1) :
    Keeps s0 (State.storeWait a0 a1 s a3).1 := by
  unfold State.storeWait
  repeat' first
    | (with_reducible assumption)
    | (with_reducible apply State.countFreeze_keeps)
    | (with_reducible apply State.thawed_keeps)
    | (simp only [Keeps.same])
    | (with_reducible refine Keeps.of_ite (fun _ => ?_) (fun _ => ?_))

theorem State.sStore_keeps {s0 s : State} {a0 : CtxNo} {a1 : Nat} {a2 : Word} (h : Keeps s0 s) :
    Keeps s0 (State.sStore a0 a1 a2 s).1 := by
  unfold State.sStore
  repeat' first
    | (with_reducible assumption)
    | (with_reducible apply State.sWrite_keeps)
    | (with_reducible apply State.storeWait_keeps)

theorem State.vStore_keeps {s0 s : State} {a0 : CtxNo} {a1 : Nat} {a2 : Word} (h : Keeps s0 s) :
    Keeps s0 (State.vStore a0 a1 a2 s).1 := by
  unfold State.vStore
  repeat' first
    | (with_reducible assumption)
    | (with_reducible apply State.storeWait_keeps)
    | (with_reducible apply State.vWrite_keeps)

theorem State.memStore_keeps {s0 s : State} {a0 : Cpu} {a1 : MemSpace} {a2 : Nat} {a3 : Word} (h : Keeps s0 s) :
    Keeps s0 (State.memStore a0 a1 a2 a3 s).1 := by
  unfold State.memStore
  repeat' first
    | (with_reducible assumption)
    | (with_reducible apply State.dStore_keeps)
    | (with_reducible apply State.sStore_keeps)
    | (with_reducible apply State.vStore_keeps)
    | split

theorem State.binary_keeps {s0 s : State} {a0 : Cpu} {a1 : RegNo} {a2 : Src} {a3 : Flags → Word → Word → Result} (h : Keeps s0 s) :
    KeepsR s0 (State.binary a0 a1 a2 a3 s) := by
  unfold State.binary
  repeat' first
    | (with_reducible assumption)
    | (with_reducible apply State.instr_keeps)
    | (with_reducible apply State.modCpu_keeps)
    | (refine OpKeeps.noMid (fun _ _ => ?_) (fun _ _ => ?_) rfl)
    | (dsimp only [Op.nop, aluOp, flagOp, pairOp, transferOp, id, dcpDone, dcpFail, State.loadOp, State.storeOp, State.pushOp, State.popOp, State.callOp, State.retOp, State.bitBranchOp, State.bitReadOp, State.bitWriteOp, State.farLoadOp, State.farStoreOp, State.farAtomOp])

theorem State.compare_keeps {s0 s : State} {a0 : Cpu} {a1 : RegNo} {a2 : Src} {a3 : Flags → Word → Word → Result} (h : Keeps s0 s) :
    KeepsR s0 (State.compare a0 a1 a2 a3 s) := by
  unfold State.compare
  repeat' first
    | (with_reducible assumption)
    | (with_reducible apply State.instr_keeps)
    | (with_reducible apply State.modCpu_keeps)
    | (refine OpKeeps.noMid (fun _ _ => ?_) (fun _ _ => ?_) rfl)
    | (dsimp only [Op.nop, aluOp, flagOp, pairOp, transferOp, id, dcpDone, dcpFail, State.loadOp, State.storeOp, State.pushOp, State.popOp, State.callOp, State.retOp, State.bitBranchOp, State.bitReadOp, State.bitWriteOp, State.farLoadOp, State.farStoreOp, State.farAtomOp])

theorem State.shift_keeps {s0 s : State} {a0 : Cpu} {a1 : Nat} {a2 : RegNo} {a3 : Amount} (h : Keeps s0 s) :
    KeepsR s0 (State.shift a0 a1 a2 a3 s) := by
  unfold State.shift
  repeat' first
    | (with_reducible assumption)
    | (with_reducible apply State.instr_keeps)
    | (with_reducible apply State.modCpu_keeps)
    | (refine OpKeeps.noMid (fun _ _ => ?_) (fun _ _ => ?_) rfl)
    | (dsimp only [Op.nop, aluOp, flagOp, pairOp, transferOp, id, dcpDone, dcpFail, State.loadOp, State.storeOp, State.pushOp, State.popOp, State.callOp, State.retOp, State.bitBranchOp, State.bitReadOp, State.bitWriteOp, State.farLoadOp, State.farStoreOp, State.farAtomOp])

theorem State.unary_keeps {s0 s : State} {a0 : Cpu} {a1 a2 : RegNo} {a3 : Flags → Word → Result} (h : Keeps s0 s) :
    KeepsR s0 (State.unary a0 a1 a2 a3 s) := by
  unfold State.unary
  repeat' first
    | (with_reducible assumption)
    | (with_reducible apply State.instr_keeps)
    | (with_reducible apply State.modCpu_keeps)
    | (refine OpKeeps.noMid (fun _ _ => ?_) (fun _ _ => ?_) rfl)
    | (dsimp only [Op.nop, aluOp, flagOp, pairOp, transferOp, id, dcpDone, dcpFail, State.loadOp, State.storeOp, State.pushOp, State.popOp, State.callOp, State.retOp, State.bitBranchOp, State.bitReadOp, State.bitWriteOp, State.farLoadOp, State.farStoreOp, State.farAtomOp])

theorem execAdc_keeps {s0 s : State} {a0 : Cpu} {a1 : RegNo} {a2 : Src} (h : Keeps s0 s) :
    KeepsR s0 (execAdc a0 a1 a2 s) := by
  unfold execAdc
  repeat' first
    | (with_reducible assumption)
    | (with_reducible apply State.binary_keeps)

theorem execAdd_keeps {s0 s : State} {a0 : Cpu} {a1 : RegNo} {a2 : Src} (h : Keeps s0 s) :
    KeepsR s0 (execAdd a0 a1 a2 s) := by
  unfold execAdd
  repeat' first
    | (with_reducible assumption)
    | (with_reducible apply State.binary_keeps)

theorem execAddi_keeps {s0 s : State} {a0 : Cpu} {a1 : RegNo} {a2 : Byte} (h : Keeps s0 s) :
    KeepsR s0 (execAddi a0 a1 a2 s) := by
  unfold execAddi
  repeat' first
    | (with_reducible assumption)
    | (with_reducible apply State.instr_keeps)
    | (with_reducible apply State.modCpu_keeps)
    | (refine OpKeeps.noMid (fun _ _ => ?_) (fun _ _ => ?_) rfl)
    | (dsimp only [Op.nop, aluOp, flagOp, pairOp, transferOp, id, dcpDone, dcpFail, State.loadOp, State.storeOp, State.pushOp, State.popOp, State.callOp, State.retOp, State.bitBranchOp, State.bitReadOp, State.bitWriteOp, State.farLoadOp, State.farStoreOp, State.farAtomOp])

theorem execAnd_keeps {s0 s : State} {a0 : Cpu} {a1 : RegNo} {a2 : Src} (h : Keeps s0 s) :
    KeepsR s0 (execAnd a0 a1 a2 s) := by
  unfold execAnd
  repeat' first
    | (with_reducible assumption)
    | (with_reducible apply State.binary_keeps)

theorem execCmp_keeps {s0 s : State} {a0 : Cpu} {a1 : RegNo} {a2 : Src} (h : Keeps s0 s) :
    KeepsR s0 (execCmp a0 a1 a2 s) := by
  unfold execCmp
  repeat' first
    | (with_reducible assumption)
    | (with_reducible apply State.compare_keeps)

theorem execCmpi_keeps {s0 s : State} {a0 : Cpu} {a1 : RegNo} {a2 : Byte} (h : Keeps s0 s) :
    KeepsR s0 (execCmpi a0 a1 a2 s) := by
  unfold execCmpi
  repeat' first
    | (with_reducible assumption)
    | (with_reducible apply State.instr_keeps)
    | (with_reducible apply State.modCpu_keeps)
    | (refine OpKeeps.noMid (fun _ _ => ?_) (fun _ _ => ?_) rfl)
    | (dsimp only [Op.nop, aluOp, flagOp, pairOp, transferOp, id, dcpDone, dcpFail, State.loadOp, State.storeOp, State.pushOp, State.popOp, State.callOp, State.retOp, State.bitBranchOp, State.bitReadOp, State.bitWriteOp, State.farLoadOp, State.farStoreOp, State.farAtomOp])

theorem execMov_keeps {s0 s : State} {a0 : Cpu} {a1 : RegNo} {a2 : Src} (h : Keeps s0 s) :
    KeepsR s0 (execMov a0 a1 a2 s) := by
  unfold execMov
  repeat' first
    | (with_reducible assumption)
    | (with_reducible apply State.instr_keeps)
    | (with_reducible apply State.modCpu_keeps)
    | (refine OpKeeps.noMid (fun _ _ => ?_) (fun _ _ => ?_) rfl)
    | (dsimp only [Op.nop, aluOp, flagOp, pairOp, transferOp, id, dcpDone, dcpFail, State.loadOp, State.storeOp, State.pushOp, State.popOp, State.callOp, State.retOp, State.bitBranchOp, State.bitReadOp, State.bitWriteOp, State.farLoadOp, State.farStoreOp, State.farAtomOp])

theorem execMovi_keeps {s0 s : State} {a0 : Cpu} {a1 : RegNo} {a2 : Byte} (h : Keeps s0 s) :
    KeepsR s0 (execMovi a0 a1 a2 s) := by
  unfold execMovi
  repeat' first
    | (with_reducible assumption)
    | (with_reducible apply State.instr_keeps)
    | (with_reducible apply State.modCpu_keeps)
    | (refine OpKeeps.noMid (fun _ _ => ?_) (fun _ _ => ?_) rfl)
    | (dsimp only [Op.nop, aluOp, flagOp, pairOp, transferOp, id, dcpDone, dcpFail, State.loadOp, State.storeOp, State.pushOp, State.popOp, State.callOp, State.retOp, State.bitBranchOp, State.bitReadOp, State.bitWriteOp, State.farLoadOp, State.farStoreOp, State.farAtomOp])

theorem execNeg_keeps {s0 s : State} {a0 : Cpu} {a1 a2 : RegNo} (h : Keeps s0 s) :
    KeepsR s0 (execNeg a0 a1 a2 s) := by
  unfold execNeg
  repeat' first
    | (with_reducible assumption)
    | (with_reducible apply State.unary_keeps)

theorem execNot_keeps {s0 s : State} {a0 : Cpu} {a1 a2 : RegNo} (h : Keeps s0 s) :
    KeepsR s0 (execNot a0 a1 a2 s) := by
  unfold execNot
  repeat' first
    | (with_reducible assumption)
    | (with_reducible apply State.unary_keeps)

theorem execOr_keeps {s0 s : State} {a0 : Cpu} {a1 : RegNo} {a2 : Src} (h : Keeps s0 s) :
    KeepsR s0 (execOr a0 a1 a2 s) := by
  unfold execOr
  repeat' first
    | (with_reducible assumption)
    | (with_reducible apply State.binary_keeps)

theorem execRlc_keeps {s0 s : State} {a0 : Cpu} {a1 : RegNo} {a2 : Amount} (h : Keeps s0 s) :
    KeepsR s0 (execRlc a0 a1 a2 s) := by
  unfold execRlc
  repeat' first
    | (with_reducible assumption)
    | (with_reducible apply State.shift_keeps)

theorem execRol_keeps {s0 s : State} {a0 : Cpu} {a1 : RegNo} {a2 : Amount} (h : Keeps s0 s) :
    KeepsR s0 (execRol a0 a1 a2 s) := by
  unfold execRol
  repeat' first
    | (with_reducible assumption)
    | (with_reducible apply State.shift_keeps)

theorem execRor_keeps {s0 s : State} {a0 : Cpu} {a1 : RegNo} {a2 : Amount} (h : Keeps s0 s) :
    KeepsR s0 (execRor a0 a1 a2 s) := by
  unfold execRor
  repeat' first
    | (with_reducible assumption)
    | (with_reducible apply State.shift_keeps)

end Sys2Proof.Machine
end

