-- ==== Sys2Proof/Laws/Kept7.lean ====
section
/-! SUPPORT. What the operations of the block keep, part 7 of 14: each leaves the queue, the part and what was sent,
uses free values up in order, and keeps a sound state sound (the relation of Laws/Keeps.lean). -/

set_option linter.all false

namespace Sys2Proof.Machine

open Sys2Proof

theorem execRrc_keeps {s0 s : State} {a0 : Cpu} {a1 : RegNo} {a2 : Amount} (h : Keeps s0 s) :
    KeepsR s0 (execRrc a0 a1 a2 s) := by
  unfold execRrc
  repeat' first
    | (with_reducible assumption)
    | (with_reducible apply State.shift_keeps)

theorem execSar_keeps {s0 s : State} {a0 : Cpu} {a1 : RegNo} {a2 : Amount} (h : Keeps s0 s) :
    KeepsR s0 (execSar a0 a1 a2 s) := by
  unfold execSar
  repeat' first
    | (with_reducible assumption)
    | (with_reducible apply State.shift_keeps)

theorem execSbc_keeps {s0 s : State} {a0 : Cpu} {a1 : RegNo} {a2 : Src} (h : Keeps s0 s) :
    KeepsR s0 (execSbc a0 a1 a2 s) := by
  unfold execSbc
  repeat' first
    | (with_reducible assumption)
    | (with_reducible apply State.binary_keeps)

theorem execShl_keeps {s0 s : State} {a0 : Cpu} {a1 : RegNo} {a2 : Amount} (h : Keeps s0 s) :
    KeepsR s0 (execShl a0 a1 a2 s) := by
  unfold execShl
  repeat' first
    | (with_reducible assumption)
    | (with_reducible apply State.shift_keeps)

theorem execShr_keeps {s0 s : State} {a0 : Cpu} {a1 : RegNo} {a2 : Amount} (h : Keeps s0 s) :
    KeepsR s0 (execShr a0 a1 a2 s) := by
  unfold execShr
  repeat' first
    | (with_reducible assumption)
    | (with_reducible apply State.shift_keeps)

theorem execSub_keeps {s0 s : State} {a0 : Cpu} {a1 : RegNo} {a2 : Src} (h : Keeps s0 s) :
    KeepsR s0 (execSub a0 a1 a2 s) := by
  unfold execSub
  repeat' first
    | (with_reducible assumption)
    | (with_reducible apply State.binary_keeps)

theorem execSwpb_keeps {s0 s : State} {a0 : Cpu} {a1 a2 : RegNo} (h : Keeps s0 s) :
    KeepsR s0 (execSwpb a0 a1 a2 s) := by
  unfold execSwpb
  repeat' first
    | (with_reducible assumption)
    | (with_reducible apply State.unary_keeps)

theorem execSxb_keeps {s0 s : State} {a0 : Cpu} {a1 a2 : RegNo} (h : Keeps s0 s) :
    KeepsR s0 (execSxb a0 a1 a2 s) := by
  unfold execSxb
  repeat' first
    | (with_reducible assumption)
    | (with_reducible apply State.unary_keeps)

theorem execTst_keeps {s0 s : State} {a0 : Cpu} {a1 : RegNo} {a2 : Src} (h : Keeps s0 s) :
    KeepsR s0 (execTst a0 a1 a2 s) := by
  unfold execTst
  repeat' first
    | (with_reducible assumption)
    | (with_reducible apply State.compare_keeps)

theorem execXor_keeps {s0 s : State} {a0 : Cpu} {a1 : RegNo} {a2 : Src} (h : Keeps s0 s) :
    KeepsR s0 (execXor a0 a1 a2 s) := by
  unfold execXor
  repeat' first
    | (with_reducible assumption)
    | (with_reducible apply State.binary_keeps)

theorem execZxb_keeps {s0 s : State} {a0 : Cpu} {a1 a2 : RegNo} (h : Keeps s0 s) :
    KeepsR s0 (execZxb a0 a1 a2 s) := by
  unfold execZxb
  repeat' first
    | (with_reducible assumption)
    | (with_reducible apply State.unary_keeps)

theorem State.bitRead_keeps {s0 s : State} {a0 : Cpu} {a1 : BitVec 14} {a2 : Op} {a3 : Bool → CpuState → CpuState} (ha2 : OpKeeps s0 a2) (h : Keeps s0 s) :
    KeepsR s0 (State.bitRead a0 a1 a2 a3 s) := by
  unfold State.bitRead State.bitReadOp
  refine State.instr_keeps ⟨ha2.early, fun z hz => ?_, ha2.mid⟩ h
  dsimp only
  split
  · rename_i t1 v he
    exact State.modCpu_keeps (Keeps.of_pair he (State.dLoad_keeps hz))
  · rename_i t1 he
    exact Keeps.of_pair he (State.dLoad_keeps hz)

theorem State.bitCarry_keeps {s0 s : State} {a0 : Cpu} {a1 : BitVec 14} {a2 : Bool → Bool → Bool} (h : Keeps s0 s) :
    KeepsR s0 (State.bitCarry a0 a1 a2 s) := by
  unfold State.bitCarry
  repeat' first
    | (with_reducible assumption)
    | (with_reducible apply State.bitRead_keeps)
    | (simp only [Keeps.same])
    | (refine OpKeeps.noMid (fun _ _ => ?_) (fun _ _ => ?_) rfl)
    | (dsimp only [Op.nop, aluOp, flagOp, pairOp, transferOp, id, dcpDone, dcpFail, State.loadOp, State.storeOp, State.pushOp, State.popOp, State.callOp, State.retOp, State.bitBranchOp, State.bitReadOp, State.bitWriteOp, State.farLoadOp, State.farStoreOp, State.farAtomOp])

theorem State.bitWrite_keeps {s0 s : State} {a0 : Cpu} {a1 : BitVec 14} {a2 : List ScoreTarget} {a3 : Bool → Bool} (h : Keeps s0 s) :
    KeepsR s0 (State.bitWrite a0 a1 a2 a3 s) := by
  unfold State.bitWrite
  repeat' first
    | (with_reducible assumption)
    | (with_reducible apply State.dLoad_keeps)
    | (with_reducible apply State.dStore_keeps)
    | (with_reducible apply State.instr_keeps)
    | (simp only [Keeps.same])
    | (with_reducible refine Keeps.of_pair ‹_ = (_, _)› ?_)
    | (refine OpKeeps.noMid (fun _ _ => ?_) (fun _ _ => ?_) rfl)
    | (dsimp only [Op.nop, aluOp, flagOp, pairOp, transferOp, id, dcpDone, dcpFail, State.loadOp, State.storeOp, State.pushOp, State.popOp, State.callOp, State.retOp, State.bitBranchOp, State.bitReadOp, State.bitWriteOp, State.farLoadOp, State.farStoreOp, State.farAtomOp])
    | split

theorem execBandc_keeps {s0 s : State} {a0 : Cpu} {a1 : BitVec 14} (h : Keeps s0 s) :
    KeepsR s0 (execBandc a0 a1 s) := by
  unfold execBandc
  repeat' first
    | (with_reducible assumption)
    | (with_reducible apply State.bitCarry_keeps)

theorem execBclr_keeps {s0 s : State} {a0 : Cpu} {a1 : BitVec 14} (h : Keeps s0 s) :
    KeepsR s0 (execBclr a0 a1 s) := by
  unfold execBclr
  repeat' first
    | (with_reducible assumption)
    | (with_reducible apply State.bitWrite_keeps)

theorem execBld_keeps {s0 s : State} {a0 : Cpu} {a1 : RegNo} {a2 : BitVec 14} (h : Keeps s0 s) :
    KeepsR s0 (execBld a0 a1 a2 s) := by
  unfold execBld
  repeat' first
    | (with_reducible assumption)
    | (with_reducible apply State.bitRead_keeps)
    | (simp only [Keeps.same])
    | (refine OpKeeps.noMid (fun _ _ => ?_) (fun _ _ => ?_) rfl)
    | (dsimp only [Op.nop, aluOp, flagOp, pairOp, transferOp, id, dcpDone, dcpFail, State.loadOp, State.storeOp, State.pushOp, State.popOp, State.callOp, State.retOp, State.bitBranchOp, State.bitReadOp, State.bitWriteOp, State.farLoadOp, State.farStoreOp, State.farAtomOp])

theorem execBldc_keeps {s0 s : State} {a0 : Cpu} {a1 : BitVec 14} (h : Keeps s0 s) :
    KeepsR s0 (execBldc a0 a1 s) := by
  unfold execBldc
  repeat' first
    | (with_reducible assumption)
    | (with_reducible apply State.bitCarry_keeps)

theorem execBnot_keeps {s0 s : State} {a0 : Cpu} {a1 : BitVec 14} (h : Keeps s0 s) :
    KeepsR s0 (execBnot a0 a1 s) := by
  unfold execBnot
  repeat' first
    | (with_reducible assumption)
    | (with_reducible apply State.bitWrite_keeps)

theorem execBorc_keeps {s0 s : State} {a0 : Cpu} {a1 : BitVec 14} (h : Keeps s0 s) :
    KeepsR s0 (execBorc a0 a1 s) := by
  unfold execBorc
  repeat' first
    | (with_reducible assumption)
    | (with_reducible apply State.bitCarry_keeps)

theorem execBset_keeps {s0 s : State} {a0 : Cpu} {a1 : BitVec 14} (h : Keeps s0 s) :
    KeepsR s0 (execBset a0 a1 s) := by
  unfold execBset
  repeat' first
    | (with_reducible assumption)
    | (with_reducible apply State.bitWrite_keeps)

theorem execBst_keeps {s0 s : State} {a0 : Cpu} {a1 : RegNo} {a2 : BitVec 14} (h : Keeps s0 s) :
    KeepsR s0 (execBst a0 a1 a2 s) := by
  unfold execBst
  repeat' first
    | (with_reducible assumption)
    | (with_reducible apply State.bitWrite_keeps)

theorem execBstc_keeps {s0 s : State} {a0 : Cpu} {a1 : BitVec 14} (h : Keeps s0 s) :
    KeepsR s0 (execBstc a0 a1 s) := by
  unfold execBstc
  repeat' first
    | (with_reducible assumption)
    | (with_reducible apply State.bitWrite_keeps)

theorem execBtst_keeps {s0 s : State} {a0 : Cpu} {a1 : BitVec 14} (h : Keeps s0 s) :
    KeepsR s0 (execBtst a0 a1 s) := by
  unfold execBtst
  repeat' first
    | (with_reducible assumption)
    | (with_reducible apply State.bitRead_keeps)
    | (simp only [Keeps.same])
    | (refine OpKeeps.noMid (fun _ _ => ?_) (fun _ _ => ?_) rfl)
    | (dsimp only [Op.nop, aluOp, flagOp, pairOp, transferOp, id, dcpDone, dcpFail, State.loadOp, State.storeOp, State.pushOp, State.popOp, State.callOp, State.retOp, State.bitBranchOp, State.bitReadOp, State.bitWriteOp, State.farLoadOp, State.farStoreOp, State.farAtomOp])

theorem execBxorc_keeps {s0 s : State} {a0 : Cpu} {a1 : BitVec 14} (h : Keeps s0 s) :
    KeepsR s0 (execBxorc a0 a1 s) := by
  unfold execBxorc
  repeat' first
    | (with_reducible assumption)
    | (with_reducible apply State.bitCarry_keeps)

theorem State.measureLead_keeps {s0 s : State} {a0 : CtxNo} {a1 a2 a3 : Nat} (h : Keeps s0 s) :
    Keeps s0 (State.measureLead a0 a1 a2 a3 s).1 := by
  unfold State.measureLead
  repeat' first
    | (with_reducible assumption)
    | (with_reducible apply State.modSlot_keeps)
    | (with_reducible apply State.releaseOf_keeps)
    | (with_reducible apply State.setReg_keeps)

theorem State.queueBand_keeps {s0 s : State} {a0 : CtxNo} {a1 : Nat} {a2 : BandDesc} (h : Keeps s0 s) :
    Keeps s0 (State.queueBand a0 a1 a2 s) := by
  unfold State.queueBand
  repeat' first
    | (with_reducible assumption)
    | (with_reducible apply State.measureLead_keeps)
    | (with_reducible apply State.modSlot_keeps)
    | (with_reducible apply State.tapPackets_keeps)
    | (simp only [Keeps.same])
    | (with_reducible refine Keeps.of_ite (fun _ => ?_) (fun _ => ?_))

theorem State.codePlane_keeps {s0 s : State} {a0 : CtxNo} {a1 a2 a3 : Nat} {a4 : BandGeom} (h : Keeps s0 s) :
    Keeps s0 (State.codePlane a0 a1 a2 a3 a4 s) := by
  unfold State.codePlane
  repeat' first
    | (with_reducible assumption)
    | (with_reducible apply State.modSlot_keeps)
    | (with_reducible apply State.passDropped_keeps)
    | (with_reducible apply State.queueBand_keeps)
    | (simp only [Keeps.same])
    | (with_reducible refine Keeps.of_ite (fun _ => ?_) (fun _ => ?_))
    | split

theorem State.mirrorClear_keeps {s0 s : State} {a0 : CtxNo} (h : Keeps s0 s) :
    Keeps s0 (State.mirrorClear a0 s) := by
  unfold State.mirrorClear
  repeat' first
    | (with_reducible assumption)
    | (with_reducible apply State.clearFrame_keeps)
    | (with_reducible apply State.markDirty_keeps)
    | (with_reducible refine Keeps.foldl (fun _ _ _ => ?_) _ ?_)
    | split

theorem State.mirrorPut_keeps {s0 s : State} {a0 : CtxNo} {a1 : List (Nat × BitVec 64)} (h : Keeps s0 s) :
    KeepsO s0 (State.mirrorPut a0 a1 s) := by
  induction a1 generalizing s with
  | nil => unfold State.mirrorPut; exact KeepsO.some h
  | cons e l ih =>
    unfold State.mirrorPut
    dsimp only
    split
    · refine ih (Keeps.foldlP (fun z i hz => ?_) _ h)
      exact State.pageWrite_keeps hz
    · exact KeepsO.none

theorem State.codeTile_keeps {s0 s : State} {a0 : CtxNo} {a1 a2 a3 : Nat} {a4 : BandGeom} (h : Keeps s0 s) :
    KeepsO s0 (State.codeTile a0 a1 a2 a3 a4 s) := by
  unfold State.codeTile
  repeat' first
    | (with_reducible assumption)
    | (with_reducible apply State.mirrorClear_keeps)
    | (with_reducible apply State.mirrorPut_keeps)
    | (with_reducible apply State.modSlot_keeps)
    | (with_reducible apply State.queueBand_keeps)
    | (with_reducible apply State.setReg_keeps)
    | (simp only [Keeps.same])
    | (with_reducible refine KeepsO.map ?_ (fun _ _ => ?_))
    | (with_reducible refine Keeps.of_ite (fun _ => ?_) (fun _ => ?_))

theorem State.codeKind_keeps {s0 s : State} {a0 : CtxNo} {a1 a2 a3 : Nat} (h : Keeps s0 s) :
    KeepsO s0 (State.codeKind a0 a1 a2 a3 s) := by
  unfold State.codeKind
  repeat' first
    | (with_reducible assumption)
    | (with_reducible apply State.codePlane_keeps)
    | (with_reducible apply State.codeTile_keeps)
    | (simp only [Keeps.same])
    | (with_reducible apply KeepsO.some)
    | split

theorem State.codedNext_keeps {s0 s : State} {a0 : CtxNo} {a1 a2 a3 : Nat} (h : Keeps s0 s) :
    Keeps s0 (State.codedNext a0 a1 a2 a3 s) := by
  unfold State.codedNext
  repeat' first
    | (with_reducible assumption)
    | (with_reducible apply State.modSes_keeps)
    | (with_reducible apply State.modSlot_keeps)

theorem State.monDrop_keeps {s0 s : State} {a0 a1 : Nat} (h : Keeps s0 s) :
    Keeps s0 (State.monDrop a0 a1 s) := by
  unfold State.monDrop
  repeat' first
    | (with_reducible assumption)
    | (with_reducible apply State.countReg_keeps)
    | (with_reducible apply State.modSlot_keeps)
    | (simp only [Keeps.same])
    | (with_reducible refine Keeps.of_ite (fun _ => ?_) (fun _ => ?_))

theorem State.tapBand_keeps {s0 s : State} {a0 : CtxNo} {a1 a2 a3 : Nat} (h : Keeps s0 s) :
    Keeps s0 (State.tapBand a0 a1 a2 a3 s) := by
  unfold State.tapBand
  repeat' first
    | (with_reducible assumption)
    | (with_reducible apply State.modSlot_keeps)

theorem State.codeBand_keeps {s0 s : State} {a0 : CtxNo} {a1 : Nat} (h : Keeps s0 s) :
    Keeps s0 (State.codeBand a0 a1 s) := by
  unfold State.codeBand
  repeat' first
    | (with_reducible assumption)
    | (with_reducible apply State.codeKind_keeps)
    | (with_reducible apply State.codedNext_keeps)
    | (with_reducible apply State.monDrop_keeps)
    | (with_reducible apply State.tapBand_keeps)
    | (simp only [Keeps.same])
    | (with_reducible refine Keeps.of_some ‹_ = some _› ?_)
    | (with_reducible refine Keeps.of_ite (fun _ => ?_) (fun _ => ?_))
    | split

theorem execBandCode_keeps {s0 s : State} {a0 : CtxNo} (h : Keeps s0 s) :
    KeepsR s0 (execBandCode a0 s) := by
  unfold execBandCode
  repeat' first
    | (with_reducible assumption)
    | (with_reducible apply State.codeBand_keeps)
    | (with_reducible apply KeepsR.next)
    | (with_reducible refine Keeps.of_ite (fun _ => ?_) (fun _ => ?_))
    | split

theorem execAudioPacketPlay_keeps {s0 s : State} {a0 : AudioPkt} (h : Keeps s0 s) :
    KeepsR s0 (execAudioPacketPlay a0 s) := by
  unfold execAudioPacketPlay
  repeat' first
    | (with_reducible assumption)
    | (with_reducible apply State.spend_keeps)
    | (simp only [Keeps.same])
    | (with_reducible apply KeepsR.next)
    | (with_reducible refine Keeps.of_ite (fun _ => ?_) (fun _ => ?_))

theorem execVideoPacketReceive_keeps {s0 s : State} {a0 : VideoPkt} (h : Keeps s0 s) :
    KeepsR s0 (execVideoPacketReceive a0 s) := by
  unfold execVideoPacketReceive
  repeat' first
    | (with_reducible assumption)
    | (simp only [Keeps.same])
    | (with_reducible apply KeepsR.next)

theorem State.adjust_keeps {s0 s : State} {a0 : Nat → Nat → Nat} (h : Keeps s0 s) :
    Keeps s0 (State.adjust a0 s) := by
  unfold State.adjust
  repeat' first
    | (with_reducible assumption)
    | (simp only [Keeps.same])
    | (with_reducible refine Keeps.of_ite (fun _ => ?_) (fun _ => ?_))

theorem State.clkStatus_keeps {s0 s : State} (h : Keeps s0 s) :
    Keeps s0 (State.clkStatus s) := by
  unfold State.clkStatus
  repeat' first
    | (with_reducible assumption)
    | (with_reducible apply State.raiseP_keeps)

theorem State.retrim_keeps {s0 s : State} (h : Keeps s0 s) :
    Keeps s0 (State.retrim s) := by
  unfold State.retrim
  repeat' first
    | (with_reducible assumption)
    | (with_reducible apply State.clkStatus_keeps)
    | (simp only [Keeps.same])
    | (with_reducible refine Keeps.of_ite (fun _ => ?_) (fun _ => ?_))

theorem State.enterHold_keeps {s0 s : State} (h : Keeps s0 s) :
    Keeps s0 (State.enterHold s) := by
  unfold State.enterHold
  repeat' first
    | (with_reducible assumption)
    | (with_reducible apply State.clkStatus_keeps)
    | (with_reducible apply State.retrim_keeps)
    | (simp only [Keeps.same])
    | (with_reducible refine Keeps.of_ite (fun _ => ?_) (fun _ => ?_))

theorem State.lockRoot_keeps {s0 s : State} (h : Keeps s0 s) :
    Keeps s0 (State.lockRoot s) := by
  unfold State.lockRoot
  repeat' first
    | (with_reducible assumption)
    | (with_reducible apply State.clkStatus_keeps)
    | (simp only [Keeps.same])
    | (with_reducible refine Keeps.of_ite (fun _ => ?_) (fun _ => ?_))

theorem State.loseRoot_keeps {s0 s : State} (h : Keeps s0 s) :
    Keeps s0 (State.loseRoot s) := by
  unfold State.loseRoot
  repeat' first
    | (with_reducible assumption)
    | (with_reducible apply State.clkStatus_keeps)
    | (simp only [Keeps.same])
    | (with_reducible refine Keeps.of_ite (fun _ => ?_) (fun _ => ?_))

theorem State.pherr_keeps {s0 s : State} {a0 : Int} (h : Keeps s0 s) :
    Keeps s0 (State.pherr a0 s) := by
  unfold State.pherr
  repeat' first
    | (with_reducible assumption)
    | (with_reducible apply State.clkStatus_keeps)
    | (with_reducible apply State.retrim_keeps)
    | (simp only [Keeps.same])
    | (with_reducible refine Keeps.of_ite (fun _ => ?_) (fun _ => ?_))

theorem State.synce_keeps {s0 s : State} {a0 : Int} (h : Keeps s0 s) :
    Keeps s0 (State.synce a0 s) := by
  unfold State.synce
  repeat' first
    | (with_reducible assumption)
    | (with_reducible apply State.clkStatus_keeps)
    | (with_reducible apply State.retrim_keeps)
    | (with_reducible apply State.spend_keeps)
    | (simp only [Keeps.same])
    | (with_reducible refine Keeps.of_ite (fun _ => ?_) (fun _ => ?_))

theorem State.timeRead_keeps {s0 s : State} (h : Keeps s0 s) :
    Keeps s0 (State.timeRead s).1 := by
  unfold State.timeRead
  repeat' first
    | (with_reducible assumption)
    | (with_reducible apply State.setReg_keeps)

theorem State.writeInteg_keeps {s0 s : State} {a0 : Int} (h : Keeps s0 s) :
    Keeps s0 (State.writeInteg a0 s) := by
  unfold State.writeInteg
  repeat' first
    | (with_reducible assumption)
    | (with_reducible apply State.retrim_keeps)
    | (simp only [Keeps.same])

theorem execHoldPtp_keeps {s0 s : State} (h : Keeps s0 s) :
    KeepsR s0 (execHoldPtp s) := by
  unfold execHoldPtp
  repeat' first
    | (with_reducible assumption)
    | (with_reducible apply State.enterHold_keeps)
    | (with_reducible apply KeepsR.next)

theorem execIntegratorWrite_keeps {s0 s : State} {a0 : BitVec 28} (h : Keeps s0 s) :
    KeepsR s0 (execIntegratorWrite a0 s) := by
  unfold execIntegratorWrite
  repeat' first
    | (with_reducible assumption)
    | (with_reducible apply State.writeInteg_keeps)
    | (with_reducible apply KeepsR.next)
    | (with_reducible refine Keeps.of_ite (fun _ => ?_) (fun _ => ?_))

theorem execPherrWrite_keeps {s0 s : State} {a0 : Reg32} (h : Keeps s0 s) :
    KeepsR s0 (execPherrWrite a0 s) := by
  unfold execPherrWrite
  repeat' first
    | (with_reducible assumption)
    | (with_reducible apply State.pherr_keeps)
    | (with_reducible apply KeepsR.next)
    | (with_reducible refine Keeps.of_ite (fun _ => ?_) (fun _ => ?_))

theorem execPtpSet_keeps {s0 s : State} (h : Keeps s0 s) :
    KeepsR s0 (execPtpSet s) := by
  unfold execPtpSet
  repeat' first
    | (with_reducible assumption)
    | (with_reducible apply State.adjust_keeps)
    | (with_reducible apply KeepsR.next)

theorem execPtpStep_keeps {s0 s : State} {a0 : Bool} (h : Keeps s0 s) :
    KeepsR s0 (execPtpStep a0 s) := by
  unfold execPtpStep
  repeat' first
    | (with_reducible assumption)
    | (with_reducible apply State.adjust_keeps)
    | (with_reducible apply KeepsR.next)

theorem execPtpTimeRead_keeps {s0 s : State} (h : Keeps s0 s) :
    KeepsR s0 (execPtpTimeRead s) := by
  unfold execPtpTimeRead
  repeat' first
    | (with_reducible assumption)
    | (with_reducible apply State.reply_keeps)
    | (with_reducible apply State.timeRead_keeps)
    | (simp only [Keeps.same])
    | (with_reducible apply KeepsR.next)
    | (with_reducible refine Keeps.of_ite (fun _ => ?_) (fun _ => ?_))

theorem execRootLock_keeps {s0 s : State} (h : Keeps s0 s) :
    KeepsR s0 (execRootLock s) := by
  unfold execRootLock
  repeat' first
    | (with_reducible assumption)
    | (with_reducible apply State.lockRoot_keeps)
    | (with_reducible apply KeepsR.next)

theorem execRootLockLoss_keeps {s0 s : State} (h : Keeps s0 s) :
    KeepsR s0 (execRootLockLoss s) := by
  unfold execRootLockLoss
  repeat' first
    | (with_reducible assumption)
    | (with_reducible apply State.loseRoot_keeps)
    | (with_reducible apply KeepsR.next)

theorem execSynceWindow_keeps {s0 s : State} {a0 : BitVec 28} (h : Keeps s0 s) :
    KeepsR s0 (execSynceWindow a0 s) := by
  unfold execSynceWindow
  repeat' first
    | (with_reducible assumption)
    | (with_reducible apply State.synce_keeps)
    | (with_reducible apply KeepsR.next)
    | (with_reducible refine Keeps.of_ite (fun _ => ?_) (fun _ => ?_))

theorem State.clearEarly_keeps {s0 s : State} {a0 : Cpu} {a1 : MemSpace} {a2 : List (Nat × Word)} (h : Keeps s0 s) :
    Keeps s0 (State.clearEarly a0 a1 a2 s) := by
  unfold State.clearEarly
  repeat' first
    | (with_reducible assumption)
    | (with_reducible apply State.modInt_keeps)
    | (with_reducible refine Keeps.foldl (fun _ _ _ => ?_) _ ?_)
    | (with_reducible refine Keeps.of_ite (fun _ => ?_) (fun _ => ?_))

theorem State.firstWord_keeps {s0 s : State} {a0 : Cpu} {a1 : MemSpace} {a2 : Nat} (h : Keeps s0 s) :
    Keeps s0 (State.firstWord a0 a1 a2 s).1 := by
  unfold State.firstWord
  repeat' first
    | (with_reducible assumption)
    | (with_reducible apply State.memLoad_keeps)
    | split

theorem State.setHalf_keeps {s0 s : State} {a0 : Cpu} {a1 : List Word} (h : Keeps s0 s) :
    Keeps s0 (State.setHalf a0 a1 s) := by
  unfold State.setHalf
  repeat' first
    | (with_reducible assumption)
    | (with_reducible apply State.modCpu_keeps)

theorem State.loadHalf_keeps {s0 s : State} {a0 : Cpu} {a1 : MemSpace} {a2 : Nat} (h : Keeps s0 s) :
    Keeps s0 (State.loadHalf a0 a1 a2 s).1 := by
  unfold State.loadHalf
  repeat' first
    | (with_reducible assumption)
    | (with_reducible apply State.memLoad_keeps)
    | (with_reducible apply State.setHalf_keeps)
    | (simp only [Keeps.same])
    | (with_reducible refine Keeps.of_pair ‹_ = (_, _)› ?_)
    | split

theorem State.loadPair_keeps {s0 s : State} {a0 : Cpu} {a1 : MemSpace} {a2 : RegNo} {a3 : Address} (h : Keeps s0 s) :
    Keeps s0 (State.loadPair a0 a1 a2 a3 s).1 := by
  unfold State.loadPair
  repeat' first
    | (with_reducible assumption)
    | (with_reducible apply State.advanceBy_keeps)
    | (with_reducible apply State.firstWord_keeps)
    | (with_reducible apply State.memLoad_keeps)
    | (with_reducible apply State.modCpu_keeps)
    | (simp only [Keeps.same])
    | (with_reducible refine Keeps.of_pair ‹_ = (_, _)› ?_)
    | split

theorem State.loadWord_keeps {s0 s : State} {a0 : Cpu} {a1 : MemSpace} {a2 : RegNo} {a3 : Address} (h : Keeps s0 s) :
    Keeps s0 (State.loadWord a0 a1 a2 a3 s).1 := by
  unfold State.loadWord
  repeat' first
    | (with_reducible assumption)
    | (with_reducible apply State.advanceBy_keeps)
    | (with_reducible apply State.memLoad_keeps)
    | (with_reducible apply State.modCpu_keeps)
    | (simp only [Keeps.same])
    | (with_reducible refine Keeps.of_pair ‹_ = (_, _)› ?_)
    | split

theorem State.load_keeps {s0 s : State} {a0 : Cpu} {a1 : MemSpace} {a2 : Bool} {a3 : RegNo} {a4 : MemForm} (h : Keeps s0 s) :
    KeepsR s0 (State.load a0 a1 a2 a3 a4 s) := by
  unfold State.load State.loadOp
  refine State.instr_keeps ⟨fun _ k => k, fun z hz => ?_, fun n early act e => ?_⟩ h
  · dsimp only
    exact Keeps.of_iteP (fun _ => State.loadPair_keeps hz) (fun _ => State.loadWord_keeps hz)
  · dsimp only at e
    split at e
    · cases e
      exact ⟨fun _ k => k, fun z hz => State.loadHalf_keeps hz⟩
    · cases e

theorem State.storeWords_keeps {s0 s : State} {a0 : Cpu} {a1 : MemSpace} {a2 : List (Nat × Word)} (h : Keeps s0 s) :
    Keeps s0 (State.storeWords a0 a1 a2 s).1 := by
  induction a2 generalizing s with
  | nil =>
    unfold State.storeWords
    repeat' first
      | (with_reducible assumption)
      | (with_reducible apply ih)
      | (with_reducible apply State.memStore_keeps)
      | (with_reducible refine Keeps.of_pair ‹_ = (_, _)› ?_)
      | split
  | cons e l ih =>
    unfold State.storeWords
    repeat' first
      | (with_reducible assumption)
      | (with_reducible apply ih)
      | (with_reducible apply State.memStore_keeps)
      | (with_reducible refine Keeps.of_pair ‹_ = (_, _)› ?_)
      | split

theorem State.storeHalf_keeps {s0 s : State} {a0 : Cpu} {a1 : MemSpace} {a2 : List (Nat × Word)} (h : Keeps s0 s) :
    Keeps s0 (State.storeHalf a0 a1 a2 s).1 := by
  unfold State.storeHalf
  repeat' first
    | (with_reducible assumption)
    | (with_reducible apply State.setHalf_keeps)
    | (with_reducible apply State.storeWords_keeps)
    | (simp only [Keeps.same])
    | (with_reducible refine Keeps.of_ite (fun _ => ?_) (fun _ => ?_))

theorem State.store_keeps {s0 s : State} {a0 : Cpu} {a1 : MemSpace} {a2 : Bool} {a3 : RegNo} {a4 : MemForm} (h : Keeps s0 s) :
    KeepsR s0 (State.store a0 a1 a2 a3 a4 s) := by
  unfold State.store State.storeOp
  refine State.instr_keeps ⟨fun z hz => State.clearEarly_keeps hz, fun z hz => State.advanceBy_keeps (State.storeWords_keeps hz),
    fun n early act e => ?_⟩ h
  dsimp only at e
  split at e
  · cases e
    exact ⟨fun z hz => State.clearEarly_keeps hz, fun z hz => State.storeHalf_keeps hz⟩
  · cases e

theorem execLd_keeps {s0 s : State} {a0 : Cpu} {a1 : RegNo} {a2 : MemForm} (h : Keeps s0 s) :
    KeepsR s0 (execLd a0 a1 a2 s) := by
  unfold execLd
  repeat' first
    | (with_reducible assumption)
    | (with_reducible apply State.load_keeps)

theorem execLdc_keeps {s0 s : State} {a0 : Cpu} {a1 : RegNo} {a2 : MemForm} (h : Keeps s0 s) :
    KeepsR s0 (execLdc a0 a1 a2 s) := by
  unfold execLdc
  repeat' first
    | (with_reducible assumption)
    | (with_reducible apply State.load_keeps)

theorem execLdp_keeps {s0 s : State} {a0 : Cpu} {a1 : RegNo} {a2 : MemForm} (h : Keeps s0 s) :
    KeepsR s0 (execLdp a0 a1 a2 s) := by
  unfold execLdp
  repeat' first
    | (with_reducible assumption)
    | (with_reducible apply State.load_keeps)

theorem execLdps_keeps {s0 s : State} {a0 : Cpu} {a1 : RegNo} {a2 : MemForm} (h : Keeps s0 s) :
    KeepsR s0 (execLdps a0 a1 a2 s) := by
  unfold execLdps
  repeat' first
    | (with_reducible assumption)
    | (with_reducible apply State.load_keeps)

theorem execLdpv_keeps {s0 s : State} {a0 : Cpu} {a1 : RegNo} {a2 : MemForm} (h : Keeps s0 s) :
    KeepsR s0 (execLdpv a0 a1 a2 s) := by
  unfold execLdpv
  repeat' first
    | (with_reducible assumption)
    | (with_reducible apply State.load_keeps)

theorem execLds_keeps {s0 s : State} {a0 : Cpu} {a1 : RegNo} {a2 : MemForm} (h : Keeps s0 s) :
    KeepsR s0 (execLds a0 a1 a2 s) := by
  unfold execLds
  repeat' first
    | (with_reducible assumption)
    | (with_reducible apply State.load_keeps)

theorem execLdv_keeps {s0 s : State} {a0 : Cpu} {a1 : RegNo} {a2 : MemForm} (h : Keeps s0 s) :
    KeepsR s0 (execLdv a0 a1 a2 s) := by
  unfold execLdv
  repeat' first
    | (with_reducible assumption)
    | (with_reducible apply State.load_keeps)

end Sys2Proof.Machine
end

