-- ==== Sys2Proof/Laws/Kept8.lean ====
section
/-! SUPPORT. What the operations of the block keep, part 8 of 14: each leaves the queue, the part and what was sent,
uses free values up in order, and keeps a sound state sound (the relation of Laws/Keeps.lean). -/

set_option linter.all false

namespace Sys2Proof.Machine

open Sys2Proof

theorem execSt_keeps {s0 s : State} {a0 : Cpu} {a1 : RegNo} {a2 : MemForm} (h : Keeps s0 s) :
    KeepsR s0 (execSt a0 a1 a2 s) := by
  unfold execSt
  repeat' first
    | (with_reducible assumption)
    | (with_reducible apply State.store_keeps)

theorem execStp_keeps {s0 s : State} {a0 : Cpu} {a1 : RegNo} {a2 : MemForm} (h : Keeps s0 s) :
    KeepsR s0 (execStp a0 a1 a2 s) := by
  unfold execStp
  repeat' first
    | (with_reducible assumption)
    | (with_reducible apply State.store_keeps)

theorem execStps_keeps {s0 s : State} {a0 : Cpu} {a1 : RegNo} {a2 : MemForm} (h : Keeps s0 s) :
    KeepsR s0 (execStps a0 a1 a2 s) := by
  unfold execStps
  repeat' first
    | (with_reducible assumption)
    | (with_reducible apply State.store_keeps)

theorem execStpv_keeps {s0 s : State} {a0 : Cpu} {a1 : RegNo} {a2 : MemForm} (h : Keeps s0 s) :
    KeepsR s0 (execStpv a0 a1 a2 s) := by
  unfold execStpv
  repeat' first
    | (with_reducible assumption)
    | (with_reducible apply State.store_keeps)

theorem execSts_keeps {s0 s : State} {a0 : Cpu} {a1 : RegNo} {a2 : MemForm} (h : Keeps s0 s) :
    KeepsR s0 (execSts a0 a1 a2 s) := by
  unfold execSts
  repeat' first
    | (with_reducible assumption)
    | (with_reducible apply State.store_keeps)

theorem execStv_keeps {s0 s : State} {a0 : Cpu} {a1 : RegNo} {a2 : MemForm} (h : Keeps s0 s) :
    KeepsR s0 (execStv a0 a1 a2 s) := by
  unfold execStv
  repeat' first
    | (with_reducible assumption)
    | (with_reducible apply State.store_keeps)

theorem State.bitBranch_keeps {s0 s : State} {a0 : Cpu} {a1 : BitVec 14} {a2 a3 : Bool} {a4 : BitVec 6} (h : Keeps s0 s) :
    KeepsR s0 (State.bitBranch a0 a1 a2 a3 a4 s) := by
  unfold State.bitBranch
  repeat' first
    | (with_reducible assumption)
    | (with_reducible apply State.dLoad_keeps)
    | (with_reducible apply State.instr_keeps)
    | (refine OpKeeps.noMid (fun _ _ => ?_) (fun _ _ => ?_) rfl)
    | (dsimp only [Op.nop, aluOp, flagOp, pairOp, transferOp, id, dcpDone, dcpFail, State.loadOp, State.storeOp, State.pushOp, State.popOp, State.callOp, State.retOp, State.bitBranchOp, State.bitReadOp, State.bitWriteOp, State.farLoadOp, State.farStoreOp, State.farAtomOp])

theorem State.lenAt_keeps {s0 s : State} {a0 : Cpu} {a1 : Word} (h : Keeps s0 s) :
    Keeps s0 (State.lenAt a0 a1 s).1 := by
  unfold State.lenAt
  repeat' first
    | (with_reducible assumption)
    | (with_reducible apply State.cWord_keeps)
    | (simp only [Keeps.same])
    | (with_reducible refine Keeps.of_iteP (fun _ => ?_) (fun _ => ?_))

theorem State.callPush_keeps {s0 s : State} {a0 : Cpu} {a1 : Word} {a2 : CpuState} (h : Keeps s0 s) :
    Keeps s0 (State.callPush a0 a1 a2 s).1 := by
  unfold State.callPush
  repeat' first
    | (with_reducible assumption)
    | (with_reducible apply State.lenAt_keeps)
    | (with_reducible apply State.modCpu_keeps)
    | (with_reducible apply State.storeWords_keeps)
    | (simp only [Keeps.same])
    | (with_reducible refine Keeps.of_pair ‹_ = (_, _)› ?_)
    | split

theorem State.loadWords_keeps {s0 s : State} {a0 : Cpu} {a1 : List Nat} (h : Keeps s0 s) :
    Keeps s0 (State.loadWords a0 a1 s).1 := by
  induction a1 generalizing s with
  | nil =>
    unfold State.loadWords
    repeat' first
      | (with_reducible assumption)
      | (with_reducible apply ih)
      | (with_reducible apply State.dLoad_keeps)
      | (simp only [Keeps.same])
      | (with_reducible refine Keeps.of_pair ‹_ = (_, _)› ?_)
      | split
  | cons e l ih =>
    unfold State.loadWords
    repeat' first
      | (with_reducible assumption)
      | (with_reducible apply ih)
      | (with_reducible apply State.dLoad_keeps)
      | (simp only [Keeps.same])
      | (with_reducible refine Keeps.of_pair ‹_ = (_, _)› ?_)
      | split

theorem State.reti_keeps {s0 s : State} {a0 : Cpu} (h : Keeps s0 s) :
    Keeps s0 (State.reti a0 s) := by
  unfold State.reti
  repeat' first
    | (with_reducible assumption)
    | (with_reducible apply State.cpuUntil_keeps)
    | (with_reducible apply State.faultOn_keeps)
    | (with_reducible apply State.holdAt_keeps)
    | (with_reducible apply State.modCpu_keeps)
    | (with_reducible apply State.seqStart_keeps)
    | (simp only [Keeps.same])
    | (with_reducible refine Keeps.of_pair ‹_ = (_, _)› ?_)
    | split

theorem State.waitCycles_keeps {s0 s : State} {a0 : Fin 4} {a1 : Nat} (h : Keeps s0 s) :
    Keeps s0 (State.waitCycles a0 a1 s) := by
  induction a1 generalizing s with
  | zero =>
    unfold State.waitCycles
    repeat' first
      | (with_reducible assumption)
      | (with_reducible apply ih)
      | (with_reducible apply State.keeperTime_keeps)
      | (with_reducible apply State.modCpu_keeps)
      | (with_reducible refine Keeps.of_ite (fun _ => ?_) (fun _ => ?_))
  | succ n ih =>
    unfold State.waitCycles
    repeat' first
      | (with_reducible assumption)
      | (with_reducible apply ih)
      | (with_reducible apply State.keeperTime_keeps)
      | (with_reducible apply State.modCpu_keeps)
      | (with_reducible refine Keeps.of_ite (fun _ => ?_) (fun _ => ?_))

theorem execBbc_keeps {s0 s : State} {a0 : Cpu} {a1 : BitVec 14} {a2 : Bool} {a3 : BitVec 6} (h : Keeps s0 s) :
    KeepsR s0 (execBbc a0 a1 a2 a3 s) := by
  unfold execBbc
  repeat' first
    | (with_reducible assumption)
    | (with_reducible apply State.bitBranch_keeps)

theorem execBbs_keeps {s0 s : State} {a0 : Cpu} {a1 : BitVec 14} {a2 : Bool} {a3 : BitVec 6} (h : Keeps s0 s) :
    KeepsR s0 (execBbs a0 a1 a2 a3 s) := by
  unfold execBbs
  repeat' first
    | (with_reducible assumption)
    | (with_reducible apply State.bitBranch_keeps)

theorem execBcc_keeps {s0 s : State} {a0 : Cpu} {a1 : BitVec 4} {a2 : Bool} {a3 : BranchDisp} (h : Keeps s0 s) :
    KeepsR s0 (execBcc a0 a1 a2 a3 s) := by
  unfold execBcc
  repeat' first
    | (with_reducible assumption)
    | (with_reducible apply State.instr_keeps)
    | (simp only [Keeps.same])
    | (refine OpKeeps.noMid (fun _ _ => ?_) (fun _ _ => ?_) rfl)
    | (dsimp only [Op.nop, aluOp, flagOp, pairOp, transferOp, id, dcpDone, dcpFail, State.loadOp, State.storeOp, State.pushOp, State.popOp, State.callOp, State.retOp, State.bitBranchOp, State.bitReadOp, State.bitWriteOp, State.farLoadOp, State.farStoreOp, State.farAtomOp])

theorem execBra_keeps {s0 s : State} {a0 : Cpu} {a1 : Bool} {a2 : BitVec 11} (h : Keeps s0 s) :
    KeepsR s0 (execBra a0 a1 a2 s) := by
  unfold execBra
  repeat' first
    | (with_reducible assumption)
    | (with_reducible apply State.instr_keeps)
    | (refine OpKeeps.noMid (fun _ _ => ?_) (fun _ _ => ?_) rfl)
    | (dsimp only [Op.nop, aluOp, flagOp, pairOp, transferOp, id, dcpDone, dcpFail, State.loadOp, State.storeOp, State.pushOp, State.popOp, State.callOp, State.retOp, State.bitBranchOp, State.bitReadOp, State.bitWriteOp, State.farLoadOp, State.farStoreOp, State.farAtomOp])

theorem execCall_keeps {s0 s : State} {a0 : Cpu} {a1 : Bool} {a2 : CallTarget} {a3 : Word} (h : Keeps s0 s) :
    KeepsR s0 (execCall a0 a1 a2 a3 s) := by
  unfold execCall
  repeat' first
    | (with_reducible assumption)
    | (with_reducible apply State.callPush_keeps)
    | (with_reducible apply State.clearEarly_keeps)
    | (with_reducible apply State.instr_keeps)
    | (refine OpKeeps.noMid (fun _ _ => ?_) (fun _ _ => ?_) rfl)
    | (dsimp only [Op.nop, aluOp, flagOp, pairOp, transferOp, id, dcpDone, dcpFail, State.loadOp, State.storeOp, State.pushOp, State.popOp, State.callOp, State.retOp, State.bitBranchOp, State.bitReadOp, State.bitWriteOp, State.farLoadOp, State.farStoreOp, State.farAtomOp])

theorem execJmp_keeps {s0 s : State} {a0 : Cpu} {a1 : Bool} {a2 : JmpTarget} (h : Keeps s0 s) :
    KeepsR s0 (execJmp a0 a1 a2 s) := by
  unfold execJmp
  repeat' first
    | (with_reducible assumption)
    | (with_reducible apply State.instr_keeps)
    | (simp only [Keeps.same])
    | (refine OpKeeps.noMid (fun _ _ => ?_) (fun _ _ => ?_) rfl)
    | (dsimp only [Op.nop, aluOp, flagOp, pairOp, transferOp, id, dcpDone, dcpFail, State.loadOp, State.storeOp, State.pushOp, State.popOp, State.callOp, State.retOp, State.bitBranchOp, State.bitReadOp, State.bitWriteOp, State.farLoadOp, State.farStoreOp, State.farAtomOp])
    | split

theorem execRet_keeps {s0 s : State} {a0 : Cpu} {a1 : Bool} {a2 : Word} (h : Keeps s0 s) :
    KeepsR s0 (execRet a0 a1 a2 s) := by
  unfold execRet
  repeat' first
    | (with_reducible assumption)
    | (with_reducible apply State.instr_keeps)
    | (with_reducible apply State.loadWords_keeps)
    | (with_reducible apply State.modCpu_keeps)
    | (simp only [Keeps.same])
    | (with_reducible refine Keeps.of_pair ‹_ = (_, _)› ?_)
    | (refine OpKeeps.noMid (fun _ _ => ?_) (fun _ _ => ?_) rfl)
    | (dsimp only [Op.nop, aluOp, flagOp, pairOp, transferOp, id, dcpDone, dcpFail, State.loadOp, State.storeOp, State.pushOp, State.popOp, State.callOp, State.retOp, State.bitBranchOp, State.bitReadOp, State.bitWriteOp, State.farLoadOp, State.farStoreOp, State.farAtomOp])
    | split

theorem execReti_keeps {s0 s : State} {a0 : Cpu} (h : Keeps s0 s) :
    KeepsR s0 (execReti a0 s) := by
  unfold execReti
  repeat' first
    | (with_reducible assumption)
    | (with_reducible apply State.elapse_keeps)
    | (with_reducible apply State.faultOn_keeps)
    | (with_reducible apply State.fetchLine_keeps)
    | (with_reducible apply State.poised_keeps)
    | (with_reducible apply State.reti_keeps)
    | (with_reducible apply State.issue_keeps)
    | (with_reducible apply State.asEncoded_keeps)
    | (with_reducible apply State.retried_keeps)
    | (with_reducible apply State.run_keeps)
    | (simp only [Keeps.same])
    | (with_reducible apply KeepsR.next)
    | (with_reducible refine Keeps.of_pair ‹_ = (_, _)› ?_)
    | (refine OpKeeps.noMid (fun _ _ => ?_) (fun _ _ => ?_) rfl)
    | (with_reducible intro _ _)
    | (with_reducible refine Keeps.of_ite (fun _ => ?_) (fun _ => ?_))
    | (dsimp only [Op.nop, aluOp, flagOp, pairOp, transferOp, id, dcpDone, dcpFail, State.loadOp, State.storeOp, State.pushOp, State.popOp, State.callOp, State.retOp, State.bitBranchOp, State.bitReadOp, State.bitWriteOp, State.farLoadOp, State.farStoreOp, State.farAtomOp])
    | split

theorem execWait_keeps {s0 s : State} {a0 : Cpu} (h : Keeps s0 s) :
    KeepsR s0 (execWait a0 s) := by
  unfold execWait
  repeat' first
    | (with_reducible assumption)
    | (with_reducible apply State.instr_keeps)
    | (with_reducible apply State.modCpu_keeps)
    | (simp only [Keeps.same])
    | (refine OpKeeps.noMid (fun _ _ => ?_) (fun _ _ => ?_) rfl)
    | (with_reducible refine Keeps.of_ite (fun _ => ?_) (fun _ => ?_))
    | (dsimp only [Op.nop, aluOp, flagOp, pairOp, transferOp, id, dcpDone, dcpFail, State.loadOp, State.storeOp, State.pushOp, State.popOp, State.callOp, State.retOp, State.bitBranchOp, State.bitReadOp, State.bitWriteOp, State.farLoadOp, State.farStoreOp, State.farAtomOp])

theorem execWaitEnd_keeps {s0 s : State} {a0 : Cpu} {a1 : Nat} (h : Keeps s0 s) :
    KeepsR s0 (execWaitEnd a0 a1 s) := by
  unfold execWaitEnd
  repeat' first
    | (with_reducible assumption)
    | (with_reducible apply State.modCpu_keeps)
    | (with_reducible apply State.passIdle_keeps)
    | (with_reducible apply State.waitCycles_keeps)
    | (simp only [Keeps.same])
    | (with_reducible apply KeepsR.next)
    | (with_reducible refine Keeps.of_ite (fun _ => ?_) (fun _ => ?_))
    | split

theorem State.bringLine_keeps {s0 s : State} {a0 : CtxNo} {a1 : Nat} (h : Keeps s0 s) :
    Keeps s0 (State.bringLine a0 a1 s).1 := by
  unfold State.bringLine
  repeat' first
    | (with_reducible assumption)
    | (with_reducible apply State.pageReady_keeps)
    | (with_reducible apply State.titleReadyAt_keeps)
    | (simp only [Keeps.same])
    | (with_reducible refine Keeps.of_iteP (fun _ => ?_) (fun _ => ?_))

theorem State.setTitle_keeps {s0 s : State} {a0 : BitVec 16} {a1 : Title} (h : Keeps s0 s) :
    Keeps s0 (State.setTitle a0 a1 s) := by
  unfold State.setTitle
  repeat' first
    | (with_reducible assumption)
    | (simp only [Keeps.same])

theorem State.readyTitle_keeps {s0 s : State} {a0 : BitVec 16} (h : Keeps s0 s) :
    Keeps s0 (State.readyTitle a0 s) := by
  unfold State.readyTitle
  repeat' first
    | (with_reducible assumption)
    | (with_reducible apply State.modFrame_keeps)
    | (with_reducible apply State.raiseP_keeps)
    | (with_reducible apply State.setTitle_keeps)
    | (simp only [Keeps.same])
    | (with_reducible refine Keeps.foldl (fun _ _ _ => ?_) _ ?_)
    | split

theorem State.releaseTitle_keeps {s0 s : State} {a0 : BitVec 16} (h : Keeps s0 s) :
    Keeps s0 (State.releaseTitle a0 s) := by
  unfold State.releaseTitle
  repeat' first
    | (with_reducible assumption)
    | (with_reducible apply State.modFrame_keeps)
    | (with_reducible apply State.setTitle_keeps)
    | (with_reducible refine Keeps.foldl (fun _ _ _ => ?_) _ ?_)

theorem State.commitTitle_keeps {s0 s : State} {a0 : BitVec 16} {a1 a2 : Nat} (h : Keeps s0 s) :
    Keeps s0 (State.commitTitle a0 a1 a2 s) := by
  unfold State.commitTitle
  repeat' first
    | (with_reducible assumption)
    | (with_reducible apply State.readyTitle_keeps)
    | (with_reducible apply State.releaseTitle_keeps)
    | (with_reducible apply State.setTitle_keeps)
    | (simp only [Keeps.same])
    | (with_reducible refine Keeps.of_ite (fun _ => ?_) (fun _ => ?_))

theorem State.countFreezes_keeps {s0 s : State} {a0 : List CtxNo} (h : Keeps s0 s) :
    Keeps s0 (State.countFreezes a0 s) := by
  unfold State.countFreezes
  repeat' first
    | (with_reducible assumption)
    | (with_reducible apply State.countFreeze_keeps)
    | (with_reducible refine Keeps.foldl (fun _ _ _ => ?_) _ ?_)

theorem State.cowPage_keeps {s0 s : State} {a0 : CtxNo} {a1 : Nat} (h : Keeps s0 s) :
    Keeps s0 (State.cowPage a0 a1 s) := by
  unfold State.cowPage
  repeat' first
    | (with_reducible assumption)
    | (with_reducible apply State.copyOnWrite_keeps)
    | (with_reducible apply State.countFreeze_keeps)
    | (with_reducible apply State.unitFail_keeps)
    | (simp only [Keeps.same])
    | (with_reducible refine Keeps.of_ite (fun _ => ?_) (fun _ => ?_))

theorem State.curEnd_keeps {s0 s : State} {a0 a1 : Nat} (h : Keeps s0 s) :
    Keeps s0 (State.curEnd a0 a1 s) := by
  unfold State.curEnd
  repeat' first
    | (with_reducible assumption)
    | (with_reducible apply State.setReg_keeps)

theorem State.curAlloc_keeps {s0 s : State} {a0 : Nat} (h : Keeps s0 s) :
    Keeps s0 (State.curAlloc a0 s) := by
  unfold State.curAlloc
  repeat' first
    | (with_reducible assumption)
    | (with_reducible apply State.curEnd_keeps)
    | (with_reducible apply State.takeFrame_keeps)
    | (simp only [Keeps.same])
    | (with_reducible refine Keeps.of_someP ‹_ = some (_, _)› ?_)
    | (with_reducible refine Keeps.of_ite (fun _ => ?_) (fun _ => ?_))
    | split

theorem State.curArg_keeps {s0 s : State} {a0 : Nat} (h : Keeps s0 s) :
    Keeps s0 (State.curArg a0 s) := by
  unfold State.curArg
  repeat' first
    | (with_reducible assumption)
    | (with_reducible apply State.setReg_keeps)

theorem State.curFree_keeps {s0 s : State} {a0 : Nat} (h : Keeps s0 s) :
    Keeps s0 (State.curFree a0 s) := by
  unfold State.curFree
  repeat' first
    | (with_reducible assumption)
    | (with_reducible apply State.curEnd_keeps)
    | (with_reducible apply State.freeCopies_keeps)
    | (with_reducible apply State.freeFrame_keeps)
    | (with_reducible refine Keeps.of_ite (fun _ => ?_) (fun _ => ?_))
    | split

theorem State.curQuery_keeps {s0 s : State} {a0 : Nat} (h : Keeps s0 s) :
    Keeps s0 (State.curQuery a0 s) := by
  unfold State.curQuery
  repeat' first
    | (with_reducible assumption)
    | (with_reducible apply State.curEnd_keeps)
    | split

theorem State.curRetire_keeps {s0 s : State} {a0 : Fin 4} {a1 : Nat} (h : Keeps s0 s) :
    Keeps s0 (State.curRetire a0 a1 s) := by
  unfold State.curRetire
  repeat' first
    | (with_reducible assumption)
    | (with_reducible apply State.curEnd_keeps)
    | (with_reducible apply State.dropFrame_keeps)
    | (with_reducible apply State.retireRecord_keeps)
    | (simp only [Keeps.same])
    | (with_reducible refine Keeps.of_ite (fun _ => ?_) (fun _ => ?_))
    | split

theorem State.curOp_keeps {s0 s : State} {a0 : Fin 4} {a1 : Nat} (h : Keeps s0 s) :
    Keeps s0 (State.curOp a0 a1 s) := by
  unfold State.curOp
  repeat' first
    | (with_reducible assumption)
    | (with_reducible apply State.curAlloc_keeps)
    | (with_reducible apply State.curEnd_keeps)
    | (with_reducible apply State.curFree_keeps)
    | (with_reducible apply State.curQuery_keeps)
    | (with_reducible apply State.curRetire_keeps)
    | (simp only [Keeps.same])
    | (with_reducible refine Keeps.of_ite (fun _ => ?_) (fun _ => ?_))

theorem State.snapPool_keeps {s0 s : State} {a0 : Nat} (h : Keeps s0 s) :
    Keeps s0 (State.snapPool a0 s) := by
  unfold State.snapPool
  repeat' first
    | (with_reducible assumption)
    | (with_reducible apply State.setReg_keeps)

theorem State.curSnap_keeps {s0 s : State} (h : Keeps s0 s) :
    Keeps s0 (State.curSnap s) := by
  unfold State.curSnap
  repeat' first
    | (with_reducible assumption)
    | (with_reducible apply State.snapPool_keeps)
    | (with_reducible refine Keeps.foldl (fun _ _ _ => ?_) _ ?_)

theorem State.evict_keeps {s0 s : State} {a0 : Nat} (h : Keeps s0 s) :
    Keeps s0 (State.evict a0 s) := by
  unfold State.evict
  repeat' first
    | (with_reducible assumption)
    | (with_reducible apply State.evictFrame_keeps)
    | (with_reducible refine Keeps.of_ite (fun _ => ?_) (fun _ => ?_))
    | split

theorem State.failStaging_keeps {s0 s : State} {a0 : CtxNo} {a1 : Nat} {a2 : Bool} {a3 : Byte} (h : Keeps s0 s) :
    Keeps s0 (State.failStaging a0 a1 a2 a3 s) := by
  unfold State.failStaging
  repeat' first
    | (with_reducible assumption)
    | (with_reducible apply State.clearPage_keeps)
    | (with_reducible apply State.countFreeze_keeps)
    | (with_reducible apply State.countReg_keeps)
    | (with_reducible apply State.dropPageCopy_keeps)
    | (with_reducible apply State.dropShare_keeps)
    | (with_reducible apply State.quarantine_keeps)
    | (with_reducible apply State.retireRecord_keeps)
    | (simp only [Keeps.same])
    | (with_reducible refine Keeps.of_ite (fun _ => ?_) (fun _ => ?_))
    | split

theorem State.pageInDone_keeps {s0 s : State} {a0 : CtxNo} {a1 : Nat} (h : Keeps s0 s) :
    Keeps s0 (State.pageInDone a0 a1 s) := by
  unfold State.pageInDone
  repeat' first
    | (with_reducible assumption)
    | (with_reducible apply State.countFreezes_keeps)
    | (with_reducible apply State.endPageIn_keeps)
    | (with_reducible apply State.unitFail_keeps)
    | (simp only [Keeps.same])
    | (with_reducible refine Keeps.of_ite (fun _ => ?_) (fun _ => ?_))
    | split

theorem State.pageMiss_keeps {s0 s : State} {a0 : CtxNo} {a1 : Nat} {a2 : Requester} (h : Keeps s0 s) :
    Keeps s0 (State.pageMiss a0 a1 a2 s) := by
  unfold State.pageMiss
  repeat' first
    | (with_reducible assumption)
    | (with_reducible apply State.startPageIn_keeps)
    | (with_reducible apply State.waitsHere_keeps)
    | (simp only [Keeps.same])
    | (with_reducible refine Keeps.getD ?_ ?_)
    | (with_reducible refine Keeps.of_ite (fun _ => ?_) (fun _ => ?_))

theorem State.quarRead_keeps {s0 s : State} (h : Keeps s0 s) :
    Keeps s0 (State.quarRead s).1 := by
  unfold State.quarRead
  split
  · rename_i v l he
    have h1 : Keeps s0 { s with quarFifo := l } := h.upd rfl rfl (le_refl _) (List.suffix_refl _) (fun i =>
      ⟨i.mem, i.bad, i.wake, i.slip, i.halt, i.mbq, by have := i.quar; rw [he] at this; exact Nat.le_of_succ_le this⟩)
    dsimp only
    split
    · exact State.setLevel_keeps h1
    · exact h1
  · exact h

theorem State.stagingMiss_keeps {s0 s : State} {a0 : CtxNo} {a1 : Nat} (h : Keeps s0 s) :
    Keeps s0 (State.stagingMiss a0 a1 s) := by
  unfold State.stagingMiss
  repeat' first
    | (with_reducible assumption)
    | (with_reducible apply State.bringLine_keeps)
    | (with_reducible apply State.useLine_keeps)
    | (with_reducible refine Keeps.of_pair ‹_ = (_, _)› ?_)
    | (with_reducible refine Keeps.of_ite (fun _ => ?_) (fun _ => ?_))
    | split

theorem State.titleEntryWrite_keeps {s0 s : State} {a0 : Byte} {a1 : BitVec 16} {a2 : Nat} {a3 : EntryPart} (h : Keeps s0 s) :
    Keeps s0 (State.titleEntryWrite a0 a1 a2 a3 s) := by
  unfold State.titleEntryWrite
  repeat' first
    | (with_reducible assumption)
    | (with_reducible apply State.commitTitle_keeps)
    | (with_reducible apply State.holdWrite_keeps)
    | (simp only [Keeps.same])
    | split

theorem State.touchPage_keeps {s0 s : State} {a0 : CtxNo} {a1 : Nat} (h : Keeps s0 s) :
    Keeps s0 (State.touchPage a0 a1 s) := by
  unfold State.touchPage
  repeat' first
    | (with_reducible assumption)
    | (with_reducible apply State.firstTouch_keeps)
    | (with_reducible refine Keeps.of_ite (fun _ => ?_) (fun _ => ?_))

theorem State.writeBackPage_keeps {s0 s : State} {a0 : CtxNo} {a1 : Nat} (h : Keeps s0 s) :
    Keeps s0 (State.writeBackPage a0 a1 s) := by
  unfold State.writeBackPage
  repeat' first
    | (with_reducible assumption)
    | (with_reducible apply State.writeBackFrame_keeps)
    | (simp only [Keeps.same])
    | (with_reducible refine Keeps.of_ite (fun _ => ?_) (fun _ => ?_))
    | split

theorem execAlloc_keeps {s0 s : State} {a0 : Fin 8} (h : Keeps s0 s) :
    KeepsR s0 (execAlloc a0 s) := by
  unfold execAlloc
  repeat' first
    | (with_reducible assumption)
    | (with_reducible apply State.curAlloc_keeps)
    | (with_reducible apply State.curArg_keeps)
    | (with_reducible apply KeepsR.next)
    | (with_reducible refine Keeps.of_ite (fun _ => ?_) (fun _ => ?_))

theorem execCopyOnWrite_keeps {s0 s : State} {a0 : CtxNo} {a1 : PageIx} (h : Keeps s0 s) :
    KeepsR s0 (execCopyOnWrite a0 a1 s) := by
  unfold execCopyOnWrite
  repeat' first
    | (with_reducible assumption)
    | (with_reducible apply State.cowPage_keeps)
    | (with_reducible apply KeepsR.next)

theorem execCurBookSnap_keeps {s0 s : State} (h : Keeps s0 s) :
    KeepsR s0 (execCurBookSnap s) := by
  unfold execCurBookSnap
  repeat' first
    | (with_reducible assumption)
    | (with_reducible apply State.curSnap_keeps)
    | (with_reducible apply KeepsR.next)
    | (with_reducible refine Keeps.of_ite (fun _ => ?_) (fun _ => ?_))

theorem execEviction_keeps {s0 s : State} {a0 : Fin 2} (h : Keeps s0 s) :
    KeepsR s0 (execEviction a0 s) := by
  unfold execEviction
  repeat' first
    | (with_reducible assumption)
    | (with_reducible apply State.evict_keeps)
    | (with_reducible apply KeepsR.next)

theorem execFirstTouch_keeps {s0 s : State} {a0 : CtxNo} {a1 : PageIx} (h : Keeps s0 s) :
    KeepsR s0 (execFirstTouch a0 a1 s) := by
  unfold execFirstTouch
  repeat' first
    | (with_reducible assumption)
    | (with_reducible apply State.touchPage_keeps)
    | (with_reducible apply KeepsR.next)

theorem execFree_keeps {s0 s : State} {a0 : LoamAddr} (h : Keeps s0 s) :
    KeepsR s0 (execFree a0 s) := by
  unfold execFree
  repeat' first
    | (with_reducible assumption)
    | (with_reducible apply State.curArg_keeps)
    | (with_reducible apply State.curFree_keeps)
    | (with_reducible apply KeepsR.next)
    | (with_reducible refine Keeps.of_ite (fun _ => ?_) (fun _ => ?_))

theorem execPageInDone_keeps {s0 s : State} {a0 : CtxNo} {a1 : PageIx} (h : Keeps s0 s) :
    KeepsR s0 (execPageInDone a0 a1 s) := by
  unfold execPageInDone
  repeat' first
    | (with_reducible assumption)
    | (with_reducible apply State.pageInDone_keeps)
    | (with_reducible apply KeepsR.next)

theorem execPageMiss_keeps {s0 s : State} {a0 : CtxNo} {a1 : PageAsk} (h : Keeps s0 s) :
    KeepsR s0 (execPageMiss a0 a1 s) := by
  unfold execPageMiss
  repeat' first
    | (with_reducible assumption)
    | (with_reducible apply State.pageMiss_keeps)
    | (with_reducible apply KeepsR.next)

theorem execPersistentFailure_keeps {s0 s : State} {a0 : Byte} {a1 : Failure} (h : Keeps s0 s) :
    KeepsR s0 (execPersistentFailure a0 a1 s) := by
  unfold execPersistentFailure
  repeat' first
    | (with_reducible assumption)
    | (with_reducible apply State.failRead_keeps)
    | (with_reducible apply State.failStaging_keeps)
    | (with_reducible apply State.failWrite_keeps)
    | (with_reducible apply KeepsR.next)
    | split

theorem execQuarantineRecordRead_keeps {s0 s : State} (h : Keeps s0 s) :
    KeepsR s0 (execQuarantineRecordRead s) := by
  unfold execQuarantineRecordRead
  repeat' first
    | (with_reducible assumption)
    | (with_reducible apply State.quarRead_keeps)
    | (with_reducible apply State.reply_keeps)
    | (simp only [Keeps.same])
    | (with_reducible apply KeepsR.next)
    | (with_reducible refine Keeps.of_ite (fun _ => ?_) (fun _ => ?_))

theorem execQuery_keeps {s0 s : State} {a0 : LoamAddr} (h : Keeps s0 s) :
    KeepsR s0 (execQuery a0 s) := by
  unfold execQuery
  repeat' first
    | (with_reducible assumption)
    | (with_reducible apply State.curArg_keeps)
    | (with_reducible apply State.curQuery_keeps)
    | (with_reducible apply KeepsR.next)
    | (with_reducible refine Keeps.of_ite (fun _ => ?_) (fun _ => ?_))

theorem execRetireOperation_keeps {s0 s : State} {a0 : Fin 4} {a1 : LoamAddr} (h : Keeps s0 s) :
    KeepsR s0 (execRetireOperation a0 a1 s) := by
  unfold execRetireOperation
  repeat' first
    | (with_reducible assumption)
    | (with_reducible apply State.curArg_keeps)
    | (with_reducible apply State.curRetire_keeps)
    | (with_reducible apply KeepsR.next)
    | (with_reducible refine Keeps.of_ite (fun _ => ?_) (fun _ => ?_))

theorem execStagingMiss_keeps {s0 s : State} {a0 : CtxNo} {a1 : Nat} (h : Keeps s0 s) :
    KeepsR s0 (execStagingMiss a0 a1 s) := by
  unfold execStagingMiss
  repeat' first
    | (with_reducible assumption)
    | (with_reducible apply State.stagingMiss_keeps)
    | (with_reducible apply KeepsR.next)

theorem execTitleEntryWrite_keeps {s0 s : State} {a0 : Byte} {a1 : BitVec 16} {a2 : Fin 2} {a3 : EntryPart} (h : Keeps s0 s) :
    KeepsR s0 (execTitleEntryWrite a0 a1 a2 a3 s) := by
  unfold execTitleEntryWrite
  repeat' first
    | (with_reducible assumption)
    | (with_reducible apply State.titleEntryWrite_keeps)
    | (with_reducible apply KeepsR.next)
    | (with_reducible refine Keeps.of_ite (fun _ => ?_) (fun _ => ?_))

theorem execWriteBack_keeps {s0 s : State} {a0 : CtxNo} {a1 : PageIx} (h : Keeps s0 s) :
    KeepsR s0 (execWriteBack a0 a1 s) := by
  unfold execWriteBack
  repeat' first
    | (with_reducible assumption)
    | (with_reducible apply State.writeBackPage_keeps)
    | (with_reducible apply KeepsR.next)

theorem State.copyLine_keeps {s0 s : State} {a0 : Picture} {a1 : Tile} {a2 : Nat} (h : Keeps s0 s) :
    Keeps s0 (State.copyLine a0 a1 a2 s) := by
  unfold State.copyLine
  repeat' first
    | (with_reducible assumption)
    | (with_reducible apply State.setBytes_keeps)
    | (simp only [Keeps.same])
    | (with_reducible refine Keeps.foldl (fun _ _ _ => ?_) _ ?_)
    | (with_reducible refine Keeps.of_ite (fun _ => ?_) (fun _ => ?_))

theorem State.copyTile_keeps {s0 s : State} {a0 : CtxNo} {a1 a2 a3 : Nat} {a4 : Tile} (h : Keeps s0 s) :
    Keeps s0 (State.copyTile a0 a1 a2 a3 a4 s) := by
  unfold State.copyTile
  repeat' first
    | (with_reducible assumption)
    | (with_reducible apply State.copyLine_keeps)
    | (with_reducible apply State.setReg_keeps)
    | (simp only [Keeps.same])
    | (with_reducible refine Keeps.foldl (fun _ _ _ => ?_) _ ?_)
    | (with_reducible refine Keeps.of_ite (fun _ => ?_) (fun _ => ?_))

theorem State.linkTrain_keeps {s0 s : State} {a0 : List (Nat × Nat)} (h : Keeps s0 s) :
    Keeps s0 (State.linkTrain a0 s) := by
  unfold State.linkTrain
  repeat' first
    | (with_reducible assumption)
    | (with_reducible apply State.raiseP_keeps)
    | (with_reducible apply State.setReg_keeps)
    | (simp only [Keeps.same])
    | split

theorem State.monCommit_keeps {s0 s : State} (h : Keeps s0 s) :
    Keeps s0 (State.monCommit s) := by
  unfold State.monCommit
  repeat' first
    | (with_reducible assumption)
    | (simp only [Keeps.same])

theorem State.monEnable_keeps {s0 s : State} (h : Keeps s0 s) :
    Keeps s0 (State.monEnable s) := by
  unfold State.monEnable
  repeat' first
    | (with_reducible assumption)
    | (with_reducible apply State.setReg_keeps)
    | (simp only [Keeps.same])
    | (with_reducible refine Keeps.of_ite (fun _ => ?_) (fun _ => ?_))

theorem State.monTake_keeps {s0 s : State} (h : Keeps s0 s) :
    Keeps s0 (State.monTake s) := by
  unfold State.monTake
  repeat' first
    | (with_reducible assumption)
    | (simp only [Keeps.same])

theorem State.monitorCopy_keeps {s0 s : State} {a0 : CtxNo} {a1 : Nat} (h : Keeps s0 s) :
    Keeps s0 (State.monitorCopy a0 a1 s) := by
  unfold State.monitorCopy
  repeat' first
    | (with_reducible assumption)
    | (with_reducible apply State.copyTile_keeps)
    | (with_reducible apply State.modSlot_keeps)
    | (simp only [Keeps.same])
    | (with_reducible refine Keeps.foldl (fun _ _ _ => ?_) _ ?_)
    | (with_reducible refine Keeps.of_ite (fun _ => ?_) (fun _ => ?_))

theorem execLinkTraining_keeps {s0 s : State} {a0 : List (Nat × Nat)} (h : Keeps s0 s) :
    KeepsR s0 (execLinkTraining a0 s) := by
  unfold execLinkTraining
  repeat' first
    | (with_reducible assumption)
    | (with_reducible apply State.linkTrain_keeps)
    | (with_reducible apply KeepsR.next)
    | (with_reducible refine Keeps.of_ite (fun _ => ?_) (fun _ => ?_))

theorem execMonCommit_keeps {s0 s : State} (h : Keeps s0 s) :
    KeepsR s0 (execMonCommit s) := by
  unfold execMonCommit
  repeat' first
    | (with_reducible assumption)
    | (with_reducible apply State.monCommit_keeps)
    | (with_reducible apply KeepsR.next)
    | (with_reducible refine Keeps.of_ite (fun _ => ?_) (fun _ => ?_))

theorem execMonHpd_keeps {s0 s : State} {a0 : HpdEvent} (h : Keeps s0 s) :
    KeepsR s0 (execMonHpd a0 s) := by
  unfold execMonHpd
  repeat' first
    | (with_reducible assumption)
    | (with_reducible apply State.raiseP_keeps)
    | (simp only [Keeps.same])
    | (with_reducible apply KeepsR.next)
    | (with_reducible refine Keeps.of_ite (fun _ => ?_) (fun _ => ?_))
    | split

theorem execMonVblank_keeps {s0 s : State} (h : Keeps s0 s) :
    KeepsR s0 (execMonVblank s) := by
  unfold execMonVblank
  repeat' first
    | (with_reducible assumption)
    | (with_reducible apply State.monTake_keeps)
    | (with_reducible apply State.raiseP_keeps)
    | (with_reducible apply KeepsR.next)
    | (with_reducible refine Keeps.of_ite (fun _ => ?_) (fun _ => ?_))

theorem execMonitorCopy_keeps {s0 s : State} {a0 : CtxNo} (h : Keeps s0 s) :
    KeepsR s0 (execMonitorCopy a0 s) := by
  unfold execMonitorCopy
  repeat' first
    | (with_reducible assumption)
    | (with_reducible apply State.monitorCopy_keeps)
    | (with_reducible apply KeepsR.next)
    | (with_reducible refine Keeps.of_ite (fun _ => ?_) (fun _ => ?_))
    | split

theorem execMonitorEnable_keeps {s0 s : State} (h : Keeps s0 s) :
    KeepsR s0 (execMonitorEnable s) := by
  unfold execMonitorEnable
  repeat' first
    | (with_reducible assumption)
    | (with_reducible apply State.monEnable_keeps)
    | (with_reducible apply KeepsR.next)
    | (with_reducible refine Keeps.of_ite (fun _ => ?_) (fun _ => ?_))

end Sys2Proof.Machine
end

