-- ==== Sys2Proof/Laws/Kept9.lean ====
section
/-! SUPPORT. What the operations of the block keep, part 9 of 14: each leaves the queue, the part and what was sent,
uses free values up in order, and keeps a sound state sound (the relation of Laws/Keeps.lean). -/

set_option linter.all false

namespace Sys2Proof.Machine

open Sys2Proof

theorem State.alogWrite_keeps {s0 s : State} {a0 : Fin 4} {a1 : Nat} (h : Keeps s0 s) :
    Keeps s0 (State.alogWrite a0 a1 s) := by
  unfold State.alogWrite
  repeat' first
    | (with_reducible assumption)
    | (with_reducible apply State.offer_keeps)
    | (with_reducible apply State.setReg_keeps)
    | (with_reducible apply State.writeReg_keeps)
    | (simp only [Keeps.same])
    | (with_reducible refine Keeps.of_ite (fun _ => ?_) (fun _ => ?_))

theorem State.logScan_keeps {s0 s : State} {a0 : Nat} (h : Keeps s0 s) :
    Keeps s0 (State.logScan a0 s) := by
  unfold State.logScan
  repeat' first
    | (with_reducible assumption)
    | (with_reducible apply State.alogAccept_keeps)
    | (simp only [Keeps.same])
    | (with_reducible refine Keeps.foldl (fun _ _ _ => ?_) _ ?_)
    | split

theorem State.nvTake_keeps {s0 s : State} {a0 : Nat} {a1 : Reg32} (h : Keeps s0 s) :
    Keeps s0 (State.nvTake a0 a1 s) := by
  unfold State.nvTake
  repeat' first
    | (with_reducible assumption)
    | (with_reducible apply State.offer_keeps)
    | (with_reducible apply State.raiseP_keeps)
    | (simp only [Keeps.same])
    | (with_reducible refine Keeps.of_ite (fun _ => ?_) (fun _ => ?_))

theorem State.nvCommit_keeps {s0 s : State} {a0 : Bool} (h : Keeps s0 s) :
    Keeps s0 (State.nvCommit a0 s) := by
  unfold State.nvCommit
  repeat' first
    | (with_reducible assumption)
    | (with_reducible apply State.countReg_keeps)
    | (with_reducible apply State.nvTake_keeps)
    | (with_reducible apply State.offer_keeps)
    | (with_reducible apply State.raiseP_keeps)
    | (simp only [Keeps.same])
    | (with_reducible refine Keeps.of_ite (fun _ => ?_) (fun _ => ?_))
    | split

theorem State.nvOffer_keeps {s0 s : State} {a0 : Nat} {a1 : Reg32} (h : Keeps s0 s) :
    Keeps s0 (State.nvOffer a0 a1 s) := by
  unfold State.nvOffer
  repeat' first
    | (with_reducible assumption)
    | (with_reducible apply State.nvTake_keeps)
    | (simp only [Keeps.same])
    | (with_reducible refine Keeps.of_ite (fun _ => ?_) (fun _ => ?_))

theorem State.nvRom_keeps {s0 s : State} {a0 a1 : Nat} (h : Keeps s0 s) :
    Keeps s0 (State.nvRom a0 a1 s) := by
  unfold State.nvRom
  repeat' first
    | (with_reducible assumption)
    | (with_reducible apply State.nvCommit_keeps)
    | (with_reducible apply State.nvOffer_keeps)
    | (with_reducible refine Keeps.of_ite (fun _ => ?_) (fun _ => ?_))

theorem State.sealRecord_keeps {s0 s : State} (h : Keeps s0 s) :
    Keeps s0 (State.sealRecord s) := by
  unfold State.sealRecord
  repeat' first
    | (with_reducible assumption)
    | (with_reducible apply State.alogStart_keeps)
    | (simp only [Keeps.same])
    | split

theorem execAlogWrite_keeps {s0 s : State} {a0 : Fin 4} {a1 : Reg32} (h : Keeps s0 s) :
    KeepsR s0 (execAlogWrite a0 a1 s) := by
  unfold execAlogWrite
  repeat' first
    | (with_reducible assumption)
    | (with_reducible apply State.alogWrite_keeps)
    | (with_reducible apply KeepsR.next)
    | (with_reducible refine Keeps.of_ite (fun _ => ?_) (fun _ => ?_))

theorem execLogScan_keeps {s0 s : State} {a0 : Word} (h : Keeps s0 s) :
    KeepsR s0 (execLogScan a0 s) := by
  unfold execLogScan
  repeat' first
    | (with_reducible assumption)
    | (with_reducible apply State.logScan_keeps)
    | (with_reducible apply KeepsR.next)
    | (with_reducible refine Keeps.of_ite (fun _ => ?_) (fun _ => ?_))

theorem execNvrCommit_keeps {s0 s : State} {a0 : Bool} (h : Keeps s0 s) :
    KeepsR s0 (execNvrCommit a0 s) := by
  unfold execNvrCommit
  repeat' first
    | (with_reducible assumption)
    | (with_reducible apply State.nvCommit_keeps)
    | (with_reducible apply KeepsR.next)
    | (with_reducible refine Keeps.of_ite (fun _ => ?_) (fun _ => ?_))

theorem execNvrWrite_keeps {s0 s : State} {a0 : Byte} {a1 : Bool} {a2 : BitVec 9} {a3 : Reg32} (h : Keeps s0 s) :
    KeepsR s0 (execNvrWrite a0 a1 a2 a3 s) := by
  unfold execNvrWrite
  repeat' first
    | (with_reducible assumption)
    | (with_reducible apply State.nvOffer_keeps)
    | (with_reducible apply KeepsR.next)
    | (with_reducible refine Keeps.of_ite (fun _ => ?_) (fun _ => ?_))

theorem execRecordSeal_keeps {s0 s : State} (h : Keeps s0 s) :
    KeepsR s0 (execRecordSeal s) := by
  unfold execRecordSeal
  repeat' first
    | (with_reducible assumption)
    | (with_reducible apply State.sealRecord_keeps)
    | (with_reducible apply KeepsR.next)

theorem State.claimFree_keeps {s0 s : State} {a0 : Byte} {a1 : Nat} (h : Keeps s0 s) :
    Keeps s0 (State.claimFree a0 a1 s) := by
  unfold State.claimFree
  repeat' first
    | (with_reducible assumption)
    | (simp only [Keeps.same])
    | (with_reducible refine Keeps.of_ite (fun _ => ?_) (fun _ => ?_))
    | split

theorem State.claimRead_keeps {s0 s : State} {a0 : Byte} {a1 : Nat} (h : Keeps s0 s) :
    Keeps s0 (State.claimRead a0 a1 s).1 := by
  unfold State.claimRead
  repeat' first
    | (with_reducible assumption)
    | (simp only [Keeps.same])
    | split

theorem State.dicAgain_keeps {s0 s : State} {a0 : Nat} {a1 : Bool} (h : Keeps s0 s) :
    Keeps s0 (State.dicAgain a0 a1 s) := by
  unfold State.dicAgain
  repeat' first
    | (with_reducible assumption)
    | (with_reducible apply State.modKeeper_keeps)
    | (with_reducible refine Keeps.of_ite (fun _ => ?_) (fun _ => ?_))
    | split

theorem State.dicClaim_keeps {s0 s : State} {a0 : Nat} (h : Keeps s0 s) :
    Keeps s0 (State.dicClaim a0 s).1 := by
  unfold State.dicClaim
  repeat' first
    | (with_reducible assumption)
    | (with_reducible apply State.dicAgain_keeps)
    | (with_reducible apply State.dicSettle_keeps)
    | (simp only [Keeps.same])
    | (with_reducible refine Keeps.of_iteP (fun _ => ?_) (fun _ => ?_))

theorem State.dicLeave_keeps {s0 s : State} {a0 : Nat} (h : Keeps s0 s) :
    Keeps s0 (State.dicLeave a0 s) := by
  unfold State.dicLeave
  repeat' first
    | (with_reducible assumption)
    | (with_reducible apply State.dicPend_keeps)
    | (simp only [Keeps.same])
    | (with_reducible refine Keeps.of_ite (fun _ => ?_) (fun _ => ?_))

theorem State.dicComplete_keeps {s0 s : State} {a0 a1 : Nat} (h : Keeps s0 s) :
    Keeps s0 (State.dicComplete a0 a1 s) := by
  unfold State.dicComplete
  repeat' first
    | (with_reducible assumption)
    | (with_reducible apply State.dicAgain_keeps)
    | (with_reducible apply State.dicLeave_keeps)
    | (with_reducible apply State.dicSettle_keeps)
    | (with_reducible refine Keeps.of_ite (fun _ => ?_) (fun _ => ?_))

theorem State.dicCompleteAll_keeps {s0 s : State} {a0 : Nat} (h : Keeps s0 s) :
    Keeps s0 (State.dicCompleteAll a0 s) := by
  unfold State.dicCompleteAll
  repeat' first
    | (with_reducible assumption)
    | (with_reducible apply State.dicLeave_keeps)
    | (with_reducible apply State.dicSettle_keeps)
    | (with_reducible refine Keeps.foldl (fun _ _ _ => ?_) _ ?_)
    | (with_reducible refine Keeps.of_ite (fun _ => ?_) (fun _ => ?_))

theorem State.dicConfig_keeps {s0 s : State} {a0 a1 : Nat} (h : Keeps s0 s) :
    Keeps s0 (State.dicConfig a0 a1 s) := by
  unfold State.dicConfig
  repeat' first
    | (with_reducible assumption)
    | (with_reducible apply State.dicSettle_keeps)
    | (with_reducible apply State.writeReg_keeps)

theorem State.dicRestore_keeps {s0 s : State} (h : Keeps s0 s) :
    Keeps s0 (State.dicRestore s) := by
  unfold State.dicRestore
  repeat' first
    | (with_reducible assumption)
    | (with_reducible apply State.dicPend_keeps)
    | (with_reducible apply State.dicSettle_keeps)
    | (simp only [Keeps.same])
    | (with_reducible refine Keeps.foldl (fun _ _ _ => ?_) _ ?_)
    | (with_reducible refine Keeps.of_ite (fun _ => ?_) (fun _ => ?_))

theorem State.dicSwset_keeps {s0 s : State} {a0 : Nat} (h : Keeps s0 s) :
    Keeps s0 (State.dicSwset a0 s) := by
  unfold State.dicSwset
  repeat' first
    | (with_reducible assumption)
    | (with_reducible apply State.raiseP_keeps)
    | (with_reducible refine Keeps.of_ite (fun _ => ?_) (fun _ => ?_))

theorem State.groupConfig_keeps {s0 s : State} {a0 a1 : Nat} (h : Keeps s0 s) :
    Keeps s0 (State.groupConfig a0 a1 s) := by
  unfold State.groupConfig
  repeat' first
    | (with_reducible assumption)
    | (with_reducible apply State.writeReg_keeps)
    | (simp only [Keeps.same])

theorem State.groupFire_keeps {s0 s : State} {a0 : Nat} (h : Keeps s0 s) :
    Keeps s0 (State.groupFire a0 s) := by
  unfold State.groupFire
  repeat' first
    | (with_reducible assumption)
    | (simp only [Keeps.same])

theorem State.resetKeeper_keeps {s0 s : State} {a0 : Fin 4} (h : Keeps s0 s) :
    Keeps s0 (State.resetKeeper a0 s) := by
  unfold State.resetKeeper
  repeat' first
    | (with_reducible assumption)
    | (with_reducible apply State.dicCompleteAll_keeps)
    | (with_reducible apply State.modKeeper_keeps)
    | (with_reducible apply State.setRegField_keeps)
    | (simp only [Keeps.same])

theorem State.startKeeper_keeps {s0 s : State} {a0 : Fin 4} (h : Keeps s0 s) :
    Keeps s0 (State.startKeeper a0 s) := by
  unfold State.startKeeper
  repeat' first
    | (with_reducible assumption)
    | (with_reducible apply State.modKeeper_keeps)

theorem State.kprRunBit_keeps {s0 s : State} {a0 : Nat} {a2 : Fin 4} (h : Keeps s0 s) :
    Keeps s0 (State.kprRunBit a0 s a2) := by
  unfold State.kprRunBit
  repeat' first
    | (with_reducible assumption)
    | (with_reducible apply State.resetKeeper_keeps)
    | (with_reducible apply State.startKeeper_keeps)
    | (with_reducible refine Keeps.of_ite (fun _ => ?_) (fun _ => ?_))

theorem State.kprRun_keeps {s0 s : State} {a0 : Nat} (h : Keeps s0 s) :
    Keeps s0 (State.kprRun a0 s) := by
  unfold State.kprRun
  repeat' first
    | (with_reducible assumption)
    | (with_reducible apply State.kprRunBit_keeps)
    | (with_reducible refine Keeps.foldl (fun _ _ _ => ?_) _ ?_)

theorem State.wdRestart_keeps {s0 s : State} {a0 : Fin 4} {a1 : Bool} (h : Keeps s0 s) :
    Keeps s0 (State.wdRestart a0 a1 s) := by
  unfold State.wdRestart
  repeat' first
    | (with_reducible assumption)
    | (with_reducible apply State.modKeeper_keeps)

theorem State.wdKick_keeps {s0 s : State} {a0 : Fin 4} {a1 : Word} (h : Keeps s0 s) :
    Keeps s0 (State.wdKick a0 a1 s) := by
  unfold State.wdKick
  repeat' first
    | (with_reducible assumption)
    | (with_reducible apply State.wdRestart_keeps)
    | (with_reducible refine Keeps.of_ite (fun _ => ?_) (fun _ => ?_))

theorem State.wdRecord_keeps {s0 s : State} {a0 : Fin 4} (h : Keeps s0 s) :
    Keeps s0 (State.wdRecord a0 s) := by
  unfold State.wdRecord
  repeat' first
    | (with_reducible assumption)
    | (with_reducible apply State.offer_keeps)

theorem State.wdWarn_keeps {s0 s : State} {a0 : Fin 4} (h : Keeps s0 s) :
    Keeps s0 (State.wdWarn a0 s) := by
  unfold State.wdWarn
  repeat' first
    | (with_reducible assumption)
    | (with_reducible apply State.raiseP_keeps)
    | (with_reducible apply State.setRegField_keeps)
    | (with_reducible apply State.wdRestart_keeps)
    | (with_reducible refine Keeps.of_ite (fun _ => ?_) (fun _ => ?_))

theorem State.wdWrite_keeps {s0 s : State} {a0 : Fin 4} {a1 : Nat} (h : Keeps s0 s) :
    Keeps s0 (State.wdWrite a0 a1 s) := by
  unfold State.wdWrite
  repeat' first
    | (with_reducible assumption)
    | (with_reducible apply State.wdRestart_keeps)
    | (with_reducible apply State.writeReg_keeps)
    | (simp only [Keeps.same])
    | (with_reducible refine Keeps.of_ite (fun _ => ?_) (fun _ => ?_))

theorem execClaimFree_keeps {s0 s : State} {a0 : Byte} {a1 : Fin 64} (h : Keeps s0 s) :
    KeepsR s0 (execClaimFree a0 a1 s) := by
  unfold execClaimFree
  repeat' first
    | (with_reducible assumption)
    | (with_reducible apply State.claimFree_keeps)
    | (with_reducible apply KeepsR.next)
    | (with_reducible refine Keeps.of_ite (fun _ => ?_) (fun _ => ?_))

theorem execClaimRead_keeps {s0 s : State} {a0 : Byte} {a1 : Fin 64} (h : Keeps s0 s) :
    KeepsR s0 (execClaimRead a0 a1 s) := by
  unfold execClaimRead
  repeat' first
    | (with_reducible assumption)
    | (with_reducible apply State.claimRead_keeps)
    | (with_reducible apply State.reply_keeps)
    | (simp only [Keeps.same])
    | (with_reducible apply KeepsR.next)
    | (with_reducible refine Keeps.of_ite (fun _ => ?_) (fun _ => ?_))

theorem execDicClaim_keeps {s0 s : State} {a0 : Fin 8} (h : Keeps s0 s) :
    KeepsR s0 (execDicClaim a0 s) := by
  unfold execDicClaim
  repeat' first
    | (with_reducible assumption)
    | (with_reducible apply State.dicClaim_keeps)
    | (with_reducible apply State.reply_keeps)
    | (simp only [Keeps.same])
    | (with_reducible apply KeepsR.next)
    | (with_reducible refine Keeps.of_ite (fun _ => ?_) (fun _ => ?_))

theorem execDicComplete_keeps {s0 s : State} {a0 : Fin 8} {a1 : BitVec 9} (h : Keeps s0 s) :
    KeepsR s0 (execDicComplete a0 a1 s) := by
  unfold execDicComplete
  repeat' first
    | (with_reducible assumption)
    | (with_reducible apply State.dicComplete_keeps)
    | (with_reducible apply KeepsR.next)
    | (with_reducible refine Keeps.of_ite (fun _ => ?_) (fun _ => ?_))

theorem execDicSwset_keeps {s0 s : State} {a0 : BitVec 9} (h : Keeps s0 s) :
    KeepsR s0 (execDicSwset a0 s) := by
  unfold execDicSwset
  repeat' first
    | (with_reducible assumption)
    | (with_reducible apply State.dicSwset_keeps)
    | (with_reducible apply KeepsR.next)
    | (with_reducible refine Keeps.of_ite (fun _ => ?_) (fun _ => ?_))

theorem execGroupFire_keeps {s0 s : State} {a0 : Fin 64} (h : Keeps s0 s) :
    KeepsR s0 (execGroupFire a0 s) := by
  unfold execGroupFire
  repeat' first
    | (with_reducible assumption)
    | (with_reducible apply State.dicSettle_keeps)
    | (with_reducible apply State.groupFire_keeps)
    | (with_reducible apply KeepsR.next)
    | (with_reducible refine Keeps.of_ite (fun _ => ?_) (fun _ => ?_))

theorem execKprRunWrite_keeps {s0 s : State} {a0 : Byte} {a1 : Reg32} (h : Keeps s0 s) :
    KeepsR s0 (execKprRunWrite a0 a1 s) := by
  unfold execKprRunWrite
  repeat' first
    | (with_reducible assumption)
    | (with_reducible apply State.kprRun_keeps)
    | (with_reducible apply KeepsR.next)
    | (with_reducible refine Keeps.of_ite (fun _ => ?_) (fun _ => ?_))

theorem execWatchdogKick_keeps {s0 s : State} {a0 : Fin 4} {a1 : Word} (h : Keeps s0 s) :
    KeepsR s0 (execWatchdogKick a0 a1 s) := by
  unfold execWatchdogKick
  repeat' first
    | (with_reducible assumption)
    | (with_reducible apply State.wdKick_keeps)
    | (with_reducible apply KeepsR.next)
    | (with_reducible refine Keeps.of_ite (fun _ => ?_) (fun _ => ?_))

theorem execWatchdogWarn_keeps {s0 s : State} {a0 : Fin 4} (h : Keeps s0 s) :
    KeepsR s0 (execWatchdogWarn a0 s) := by
  unfold execWatchdogWarn
  repeat' first
    | (with_reducible assumption)
    | (with_reducible apply State.wdWarn_keeps)
    | (with_reducible apply KeepsR.next)

theorem State.modPin_keeps {s0 s : State} {a0 : Nat} {a1 : Pin → Pin} (h : Keeps s0 s) :
    Keeps s0 (State.modPin a0 a1 s) := by
  unfold State.modPin
  repeat' first
    | (with_reducible assumption)
    | (simp only [Keeps.same])

theorem State.sleepPin_keeps {s0 s : State} {a1 : Nat} (h : Keeps s0 s) :
    Keeps s0 (State.sleepPin s a1) := by
  unfold State.sleepPin
  repeat' first
    | (with_reducible assumption)
    | (with_reducible apply State.modPin_keeps)

theorem State.bankSleep_keeps {s0 s : State} (h : Keeps s0 s) :
    Keeps s0 (State.bankSleep s) := by
  unfold State.bankSleep
  repeat' first
    | (with_reducible assumption)
    | (with_reducible apply State.modPin_keeps)
    | (with_reducible apply State.setReg_keeps)
    | (with_reducible apply State.sleepPin_keeps)
    | (with_reducible refine Keeps.foldl (fun _ _ _ => ?_) _ ?_)
    | (with_reducible refine Keeps.of_ite (fun _ => ?_) (fun _ => ?_))

theorem State.padsSettle_keeps {s0 s : State} (h : Keeps s0 s) :
    Keeps s0 (State.padsSettle s) := by
  unfold State.padsSettle
  repeat' first
    | (with_reducible assumption)
    | (with_reducible apply State.modPin_keeps)
    | (with_reducible refine Keeps.foldl (fun _ _ _ => ?_) _ ?_)
    | (with_reducible refine Keeps.of_ite (fun _ => ?_) (fun _ => ?_))
    | split

theorem State.padsSleep_keeps {s0 s : State} {a0 : List Nat} (h : Keeps s0 s) :
    Keeps s0 (State.padsSleep a0 s) := by
  unfold State.padsSleep
  repeat' first
    | (with_reducible assumption)
    | (with_reducible apply State.sleepPin_keeps)
    | (with_reducible refine Keeps.foldl (fun _ _ _ => ?_) _ ?_)

theorem State.wakePad_keeps {s0 s : State} {a1 : Nat} (h : Keeps s0 s) :
    Keeps s0 (State.wakePad s a1) := by
  unfold State.wakePad
  repeat' first
    | (with_reducible assumption)
    | (with_reducible apply State.modPin_keeps)

theorem State.padsWake_keeps {s0 s : State} {a0 : List Nat} (h : Keeps s0 s) :
    Keeps s0 (State.padsWake a0 s) := by
  unfold State.padsWake
  repeat' first
    | (with_reducible assumption)
    | (with_reducible apply State.wakePad_keeps)
    | (with_reducible refine Keeps.foldl (fun _ _ _ => ?_) _ ?_)

theorem State.pinLevel_keeps {s0 s : State} {a0 : Nat} (h : Keeps s0 s) :
    Keeps s0 (State.pinLevel a0 s) := by
  unfold State.pinLevel
  repeat' first
    | (with_reducible assumption)
    | (with_reducible apply State.setLevel_keeps)
    | (simp only [Keeps.same])
    | (with_reducible refine Keeps.of_ite (fun _ => ?_) (fun _ => ?_))

theorem State.pinChange_keeps {s0 s : State} {a0 : Nat} {a1 : Bool} (h : Keeps s0 s) :
    Keeps s0 (State.pinChange a0 a1 s) := by
  unfold State.pinChange
  repeat' first
    | (with_reducible assumption)
    | (with_reducible apply State.modPin_keeps)
    | (with_reducible apply State.pinLevel_keeps)
    | (with_reducible apply State.raiseP_keeps)
    | (simp only [Keeps.same])
    | (with_reducible refine Keeps.of_ite (fun _ => ?_) (fun _ => ?_))

theorem State.pinTick_keeps {s0 s : State} {a1 : Nat} (h : Keeps s0 s) :
    Keeps s0 (State.pinTick s a1) := by
  unfold State.pinTick
  repeat' first
    | (with_reducible assumption)
    | (with_reducible apply State.modPin_keeps)
    | (with_reducible apply State.pinChange_keeps)
    | (simp only [Keeps.same])
    | (with_reducible refine Keeps.of_ite (fun _ => ?_) (fun _ => ?_))

theorem State.pinsCycle_keeps {s0 s : State} (h : Keeps s0 s) :
    Keeps s0 (State.pinsCycle s) := by
  unfold State.pinsCycle
  repeat' first
    | (with_reducible assumption)
    | (with_reducible apply State.padsSettle_keeps)
    | (simp only [Keeps.same])
    | (with_reducible refine Keeps.of_ite (fun _ => ?_) (fun _ => ?_))

theorem State.pinsTick_keeps {s0 s : State} (h : Keeps s0 s) :
    Keeps s0 (State.pinsTick s) := by
  unfold State.pinsTick
  repeat' first
    | (with_reducible assumption)
    | (with_reducible apply State.pinTick_keeps)
    | (with_reducible refine Keeps.foldl (fun _ _ _ => ?_) _ ?_)
    | (with_reducible refine Keeps.of_ite (fun _ => ?_) (fun _ => ?_))

theorem State.switchPin_keeps {s0 s : State} {a0 : BitVec 2} {a1 : Nat} (h : Keeps s0 s) :
    Keeps s0 (State.switchPin a0 a1 s) := by
  unfold State.switchPin
  repeat' first
    | (with_reducible assumption)
    | (with_reducible apply State.modPin_keeps)
    | (with_reducible apply State.pinLevel_keeps)
    | (simp only [Keeps.same])
    | (with_reducible refine Keeps.of_ite (fun _ => ?_) (fun _ => ?_))

theorem State.setGpioEn_keeps {s0 s : State} {a0 : Nat} (h : Keeps s0 s) :
    Keeps s0 (State.setGpioEn a0 s) := by
  unfold State.setGpioEn
  repeat' first
    | (with_reducible assumption)
    | (with_reducible apply State.setReg_keeps)
    | (with_reducible apply State.switchPin_keeps)
    | (with_reducible refine Keeps.foldl (fun _ _ _ => ?_) _ ?_)

theorem State.dropMessage_keeps {s0 s : State} {a0 : Byte} (h : Keeps s0 s) :
    Keeps s0 (State.dropMessage a0 s) := by
  unfold State.dropMessage
  repeat' first
    | (with_reducible assumption)
    | (with_reducible apply State.countReg_keeps)
    | (with_reducible apply State.raiseP_keeps)
    | (with_reducible refine Keeps.of_ite (fun _ => ?_) (fun _ => ?_))

theorem State.plinthRecord_keeps {s0 s : State} {a0 : Nat} (h : Keeps s0 s) :
    Keeps s0 (State.plinthRecord a0 s) := by
  unfold State.plinthRecord
  repeat' first
    | (with_reducible assumption)
    | (with_reducible apply State.offer_keeps)
    | (with_reducible apply State.spend_keeps)

theorem State.setLink_keeps {s0 s : State} {a0 : Fin 4} {a1 : Nat} (h : Keeps s0 s) :
    Keeps s0 (State.setLink a0 a1 s) := by
  have h1 : Keeps s0 { s with links := s.links.set a0.val { up := a1, retraining := 0 } } := by simpa only [Keeps.same] using h
  unfold State.setLink
  dsimp only
  split
  · exact h1
  · exact h1.upd rfl rfl (Nat.le_add_right _ _) (List.suffix_refl _) (fun i => ⟨i.mem, i.bad, i.wake, i.slip, i.halt, i.mbq, i.quar⟩)

theorem State.plinthReset_keeps {s0 s : State} (h : Keeps s0 s) :
    Keeps s0 (State.plinthReset s) := by
  unfold State.plinthReset
  repeat' first
    | (with_reducible assumption)
    | (with_reducible apply State.dicCompleteAll_keeps)
    | (with_reducible apply State.raiseP_keeps)
    | (with_reducible apply State.setLink_keeps)
    | (with_reducible apply State.setRegField_keeps)
    | (simp only [Keeps.same])
    | (with_reducible refine Keeps.foldl (fun _ _ _ => ?_) _ ?_)

theorem State.isolate_keeps {s0 s : State} {a0 : Byte} (h : Keeps s0 s) :
    Keeps s0 (State.isolate a0 s) := by
  unfold State.isolate
  repeat' first
    | (with_reducible assumption)
    | (with_reducible apply State.plinthRecord_keeps)
    | (with_reducible apply State.plinthReset_keeps)
    | (with_reducible apply State.raiseP_keeps)
    | (with_reducible apply State.setReg_keeps)
    | (simp only [Keeps.same])

theorem State.badMessage_keeps {s0 s : State} {a0 a1 : Byte} (h : Keeps s0 s) :
    Keeps s0 (State.badMessage a0 a1 s) := by
  unfold State.badMessage
  repeat' first
    | (with_reducible assumption)
    | (with_reducible apply State.dropMessage_keeps)
    | (with_reducible apply State.isolate_keeps)
    | (simp only [Keeps.same])
    | (with_reducible refine Keeps.of_ite (fun _ => ?_) (fun _ => ?_))

theorem State.eventMsg_keeps {s0 s : State} {a0 a1 a2 : Byte} {a3 : Word} {a4 : Bool} (h : Keeps s0 s) :
    Keeps s0 (State.eventMsg a0 a1 a2 a3 a4 s) := by
  unfold State.eventMsg
  repeat' first
    | (with_reducible assumption)
    | (with_reducible apply State.badMessage_keeps)
    | (with_reducible apply State.dropMessage_keeps)
    | (with_reducible apply State.raiseP_keeps)
    | (with_reducible apply State.send_keeps)
    | (with_reducible refine Keeps.of_ite (fun _ => ?_) (fun _ => ?_))

theorem State.linkRecord_keeps {s0 s : State} {a0 : Fin 4} (h : Keeps s0 s) :
    Keeps s0 (State.linkRecord a0 s) := by
  unfold State.linkRecord
  repeat' first
    | (with_reducible assumption)
    | (with_reducible apply State.offer_keeps)

theorem State.plinthRailOff_keeps {s0 s : State} (h : Keeps s0 s) :
    Keeps s0 (State.plinthRailOff s) := by
  unfold State.plinthRailOff
  repeat' first
    | (with_reducible assumption)
    | (simp only [Keeps.same])

theorem State.plinthFail_keeps {s0 s : State} {a0 : Byte} (h : Keeps s0 s) :
    Keeps s0 (State.plinthFail a0 s) := by
  unfold State.plinthFail
  repeat' first
    | (with_reducible assumption)
    | (with_reducible apply State.plinthRailOff_keeps)
    | (with_reducible apply State.plinthRecord_keeps)
    | (with_reducible apply State.raiseP_keeps)
    | (with_reducible apply State.setLink_keeps)
    | (simp only [Keeps.same])

theorem State.plinthLoss_keeps {s0 s : State} {a0 : Bool} (h : Keeps s0 s) :
    Keeps s0 (State.plinthLoss a0 s) := by
  unfold State.plinthLoss
  repeat' first
    | (with_reducible assumption)
    | (with_reducible apply State.plinthRailOff_keeps)
    | (with_reducible apply State.plinthReset_keeps)
    | (with_reducible apply State.raiseP_keeps)
    | (with_reducible apply State.setLevel_keeps)
    | (simp only [Keeps.same])
    | (with_reducible refine Keeps.of_ite (fun _ => ?_) (fun _ => ?_))

theorem State.plinthPresent_keeps {s0 s : State} (h : Keeps s0 s) :
    Keeps s0 (State.plinthPresent s) := by
  unfold State.plinthPresent
  repeat' first
    | (with_reducible assumption)
    | (with_reducible apply State.setLink_keeps)
    | (simp only [Keeps.same])

theorem State.plinthRun_keeps {s0 s : State} {a0 : Byte} (h : Keeps s0 s) :
    Keeps s0 (State.plinthRun a0 s) := by
  unfold State.plinthRun
  repeat' first
    | (with_reducible assumption)
    | (with_reducible apply State.plinthFail_keeps)
    | (with_reducible apply State.plinthPresent_keeps)
    | (with_reducible apply State.setReg_keeps)
    | (simp only [Keeps.same])
    | (with_reducible refine Keeps.of_ite (fun _ => ?_) (fun _ => ?_))

theorem State.plnDbell_keeps {s0 s : State} {a0 : Nat} (h : Keeps s0 s) :
    Keeps s0 (State.plnDbell a0 s) := by
  unfold State.plnDbell
  repeat' first
    | (with_reducible assumption)
    | (with_reducible apply State.doorbell_keeps)
    | (with_reducible refine Keeps.of_ite (fun _ => ?_) (fun _ => ?_))

theorem execDoorbell_keeps {s0 s : State} {a0 : Fin 4} {a1 a2 : Word} {a3 : Reg32} (h : Keeps s0 s) :
    KeepsR s0 (execDoorbell a0 a1 a2 a3 s) := by
  unfold execDoorbell
  repeat' first
    | (with_reducible assumption)
    | (with_reducible apply State.doorbell_keeps)
    | (with_reducible apply KeepsR.next)
    | (with_reducible refine Keeps.of_ite (fun _ => ?_) (fun _ => ?_))

theorem execEvent_keeps {s0 s : State} {a0 : Byte} {a1 : EventMsg} (h : Keeps s0 s) :
    KeepsR s0 (execEvent a0 a1 s) := by
  unfold execEvent
  repeat' first
    | (with_reducible assumption)
    | (with_reducible apply State.eventMsg_keeps)
    | (with_reducible apply KeepsR.next)
    | (with_reducible refine Keeps.of_ite (fun _ => ?_) (fun _ => ?_))

theorem execIsolation_keeps {s0 s : State} {a0 : IsolationCause} (h : Keeps s0 s) :
    KeepsR s0 (execIsolation a0 s) := by
  unfold execIsolation
  repeat' first
    | (with_reducible assumption)
    | (with_reducible apply State.isolate_keeps)
    | (with_reducible apply KeepsR.next)
    | (with_reducible refine Keeps.of_ite (fun _ => ?_) (fun _ => ?_))

theorem execLine_keeps {s0 s : State} {a0 : Fin 4} {a1 : Bool} (h : Keeps s0 s) :
    KeepsR s0 (execLine a0 a1 s) := by
  unfold execLine
  repeat' first
    | (with_reducible assumption)
    | (with_reducible apply State.send_keeps)
    | (with_reducible apply KeepsR.next)
    | (with_reducible refine Keeps.of_ite (fun _ => ?_) (fun _ => ?_))

theorem execPlinthReset_keeps {s0 s : State} (h : Keeps s0 s) :
    KeepsR s0 (execPlinthReset s) := by
  unfold execPlinthReset
  repeat' first
    | (with_reducible assumption)
    | (with_reducible apply State.plinthReset_keeps)
    | (with_reducible apply State.setReg_keeps)
    | (with_reducible apply KeepsR.next)
    | (with_reducible refine Keeps.of_ite (fun _ => ?_) (fun _ => ?_))

end Sys2Proof.Machine
end

