-- ==== Sys2Proof/Laws/Kept10.lean ====
section
/-! SUPPORT. What the operations of the block keep, part 10 of 14: each leaves the queue, the part and what was sent,
uses free values up in order, and keeps a sound state sound (the relation of Laws/Keeps.lean). -/

set_option linter.all false

namespace Sys2Proof.Machine

open Sys2Proof

theorem execPlinthRun_keeps {s0 s : State} {a0 : Byte} (h : Keeps s0 s) :
    KeepsR s0 (execPlinthRun a0 s) := by
  unfold execPlinthRun
  repeat' first
    | (with_reducible assumption)
    | (with_reducible apply State.plinthRun_keeps)
    | (with_reducible apply KeepsR.next)
    | (with_reducible refine Keeps.of_ite (fun _ => ?_) (fun _ => ?_))

theorem execPlnPwrloss_keeps {s0 s : State} {a0 : Bool} (h : Keeps s0 s) :
    KeepsR s0 (execPlnPwrloss a0 s) := by
  unfold execPlnPwrloss
  repeat' first
    | (with_reducible assumption)
    | (with_reducible apply State.plinthLoss_keeps)
    | (with_reducible apply KeepsR.next)
    | (with_reducible refine Keeps.of_ite (fun _ => ?_) (fun _ => ?_))

theorem execPlnTDbell_keeps {s0 s : State} {a0 : Reg32} (h : Keeps s0 s) :
    KeepsR s0 (execPlnTDbell a0 s) := by
  unfold execPlnTDbell
  repeat' first
    | (with_reducible assumption)
    | (with_reducible apply State.plnDbell_keeps)
    | (with_reducible apply KeepsR.next)
    | (with_reducible refine Keeps.of_ite (fun _ => ?_) (fun _ => ?_))

theorem State.afterReset_keeps {s0 s : State} (h : Keeps s0 s) :
    Keeps s0 (State.afterReset s) := h.upd rfl rfl (Nat.le_add_right _ _) (List.suffix_refl _) (fun _ =>
    ⟨rfl, rfl, Nat.zero_le _, fun d => by unfold State.afterReset State.reset; simp,
      fun d => by unfold State.afterReset State.reset; simp, fun d => by unfold State.afterReset State.reset; simp,
      Nat.zero_le _⟩)

theorem State.allGroupsFire_keeps {s0 s : State} (h : Keeps s0 s) :
    Keeps s0 (State.allGroupsFire s) := by
  unfold State.allGroupsFire
  repeat' first
    | (with_reducible assumption)
    | (with_reducible apply State.groupFire_keeps)
    | (with_reducible refine Keeps.foldl (fun _ _ _ => ?_) _ ?_)

theorem State.aonGrants_keeps {s0 s : State} (h : Keeps s0 s) :
    Keeps s0 (State.aonGrants s) := by
  unfold State.aonGrants
  repeat' first
    | (with_reducible assumption)
    | (with_reducible apply State.putFrame_keeps)
    | (simp only [Keeps.same])
    | (with_reducible refine Keeps.foldl (fun _ _ _ => ?_) _ ?_)
    | (with_reducible refine Keeps.of_ite (fun _ => ?_) (fun _ => ?_))

theorem State.aonUnits_keeps {s0 s : State} (h : Keeps s0 s) :
    Keeps s0 (State.aonUnits s) := by
  have hs : ∀ d : Fin 2, State.reset.slipFifo[d.val].length ≤ 256 := fun d => by unfold State.reset; simp
  have hh : ∀ d : Fin 2, State.reset.haltFifo[d.val].length ≤ 256 := fun d => by unfold State.reset; simp
  have hm : ∀ d : Fin 2, State.reset.mbqFifo[d.val].length ≤ 256 := fun d => by unfold State.reset; simp
  exact h.upd rfl rfl (le_refl _) (List.suffix_refl _) (fun i => ⟨i.mem, i.bad, Nat.zero_le _, hs, hh, hm, Nat.zero_le _⟩)

theorem State.dropMem_keeps {s0 s : State} {a0 : Nat → Bool} (h : Keeps s0 s) :
    Keeps s0 (State.dropMem a0 s) := h.upd rfl rfl (le_refl _) (List.suffix_refl _) (fun i => ⟨memWf_filter _ i.mem,
    (Sparse.wf_iff _ _).mpr (((Sparse.wf_iff _ _).mp i.bad).filter _), i.wake, i.slip, i.halt, i.mbq, i.quar⟩)

theorem State.dropRegs_keeps {s0 s : State} {a0 : Nat → Bool} (h : Keeps s0 s) :
    Keeps s0 (State.dropRegs a0 s) := by
  unfold State.dropRegs
  repeat' first
    | (with_reducible assumption)
    | (simp only [Keeps.same])

theorem State.dropFrames_keeps {s0 s : State} {a0 : Nat → Bool} (h : Keeps s0 s) :
    Keeps s0 (State.dropFrames a0 s) := by
  unfold State.dropFrames
  repeat' first
    | (with_reducible assumption)
    | (simp only [Keeps.same])

theorem State.hubOff_keeps {s0 s : State} (h : Keeps s0 s) :
    Keeps s0 (State.hubOff s) := by
  unfold State.hubOff
  repeat' first
    | (with_reducible assumption)
    | (with_reducible apply State.dropFrames_keeps)
    | (with_reducible apply State.dropMem_keeps)
    | (with_reducible apply State.dropRegs_keeps)
    | (with_reducible apply State.padsSleep_keeps)
    | (with_reducible apply State.resetKeeper_keeps)
    | (with_reducible apply State.setReg_keeps)
    | (simp only [Keeps.same])
    | (with_reducible refine Keeps.foldl (fun _ _ _ => ?_) _ ?_)

theorem State.aonOnly_keeps {s0 s : State} (h : Keeps s0 s) :
    Keeps s0 (State.aonOnly s) := by
  unfold State.aonOnly
  repeat' first
    | (with_reducible assumption)
    | (with_reducible apply State.allGroupsFire_keeps)
    | (with_reducible apply State.aonUnits_keeps)
    | (with_reducible apply State.dropMem_keeps)
    | (with_reducible apply State.dropRegs_keeps)
    | (with_reducible apply State.hubOff_keeps)
    | (with_reducible apply State.resetKeeper_keeps)

theorem State.modeRecord_keeps {s0 s : State} {a0 a1 : Mode} (h : Keeps s0 s) :
    Keeps s0 (State.modeRecord a0 a1 s) := by
  unfold State.modeRecord
  repeat' first
    | (with_reducible assumption)
    | (with_reducible apply State.offer_keeps)
    | (with_reducible refine Keeps.of_ite (fun _ => ?_) (fun _ => ?_))

theorem State.setMode_keeps {s0 s : State} {a0 : Mode} (h : Keeps s0 s) :
    Keeps s0 (State.setMode a0 s) := by
  unfold State.setMode
  repeat' first
    | (with_reducible assumption)
    | (with_reducible apply State.modeRecord_keeps)
    | (simp only [Keeps.same])

theorem State.arrive_keeps {s0 s : State} {a0 : Mode} (h : Keeps s0 s) :
    Keeps s0 (State.arrive a0 s) := by
  unfold State.arrive
  repeat' first
    | (with_reducible assumption)
    | (with_reducible apply State.raiseP_keeps)
    | (with_reducible apply State.setMode_keeps)
    | (simp only [Keeps.same])

theorem State.bootMac_keeps {s0 s : State} {a0 a1 : Nat} (h : Keeps s0 s) :
    Keeps s0 (State.bootMac a0 a1 s) := by
  unfold State.bootMac
  repeat' first
    | (with_reducible assumption)
    | (with_reducible apply State.setReg_keeps)

theorem State.loadCode_keeps {s0 s : State} (h : Keeps s0 s) :
    Keeps s0 (State.loadCode s) := by
  unfold State.loadCode
  repeat' first
    | (with_reducible assumption)
    | (with_reducible apply State.setBytes_keeps)

theorem State.handoff_keeps {s0 s : State} (h : Keeps s0 s) :
    Keeps s0 (State.handoff s) := by
  unfold State.handoff
  repeat' first
    | (with_reducible assumption)
    | (with_reducible apply State.bootMac_keeps)
    | (with_reducible apply State.loadCode_keeps)
    | (with_reducible apply State.offer_keeps)
    | (with_reducible apply State.setReg_keeps)
    | (with_reducible apply State.startKeeper_keeps)
    | (with_reducible apply State.wdRestart_keeps)
    | (simp only [Keeps.same])
    | (with_reducible refine Keeps.foldl (fun _ _ _ => ?_) _ ?_)

theorem State.ascentEnd_keeps {s0 s : State} (h : Keeps s0 s) :
    Keeps s0 (State.ascentEnd s) := by
  unfold State.ascentEnd
  repeat' first
    | (with_reducible assumption)
    | (with_reducible apply State.arrive_keeps)
    | (with_reducible apply State.handoff_keeps)
    | (simp only [Keeps.same])
    | (with_reducible refine Keeps.of_ite (fun _ => ?_) (fun _ => ?_))

theorem State.joinDies_keeps {s0 s : State} (h : Keeps s0 s) :
    Keeps s0 (State.joinDies s) := by
  unfold State.joinDies
  repeat' first
    | (with_reducible assumption)
    | (with_reducible apply State.setLink_keeps)
    | (with_reducible refine Keeps.of_ite (fun _ => ?_) (fun _ => ?_))

theorem State.stepEffect_keeps {s0 s : State} {a0 : Nat} (h : Keeps s0 s) :
    Keeps s0 (State.stepEffect a0 s) := by
  unfold State.stepEffect
  repeat' first
    | (with_reducible assumption)
    | (with_reducible apply State.aonGrants_keeps)
    | (with_reducible apply State.dicRestore_keeps)
    | (with_reducible apply State.joinDies_keeps)
    | (with_reducible apply State.padsWake_keeps)
    | (with_reducible apply State.plinthPresent_keeps)
    | (with_reducible apply State.setLink_keeps)
    | (with_reducible apply State.setReg_keeps)
    | (simp only [Keeps.same])
    | (with_reducible refine Keeps.of_ite (fun _ => ?_) (fun _ => ?_))

theorem State.pwrResult_keeps {s0 s : State} {a0 : Byte} (h : Keeps s0 s) :
    Keeps s0 (State.pwrResult a0 s) := by
  unfold State.pwrResult
  repeat' first
    | (with_reducible assumption)
    | (simp only [Keeps.same])

theorem State.dieChangeEnd_keeps {s0 s : State} (h : Keeps s0 s) :
    Keeps s0 (State.dieChangeEnd s) := by
  unfold State.dieChangeEnd
  repeat' first
    | (with_reducible assumption)
    | (with_reducible apply State.pwrResult_keeps)
    | (with_reducible apply State.raiseP_keeps)
    | (simp only [Keeps.same])

theorem State.stepsDone_keeps {s0 s : State} (h : Keeps s0 s) :
    Keeps s0 (State.stepsDone s) := by
  unfold State.stepsDone
  repeat' first
    | (with_reducible assumption)
    | (with_reducible apply State.ascentEnd_keeps)
    | (with_reducible apply State.dieChangeEnd_keeps)
    | (with_reducible refine Keeps.of_ite (fun _ => ?_) (fun _ => ?_))

theorem State.ascentStep_keeps {s0 s : State} (h : Keeps s0 s) :
    Keeps s0 (State.ascentStep s) := by
  unfold State.ascentStep
  repeat' first
    | (with_reducible assumption)
    | (with_reducible apply State.stepEffect_keeps)
    | (with_reducible apply State.stepsDone_keeps)
    | (simp only [Keeps.same])
    | (with_reducible refine Keeps.of_ite (fun _ => ?_) (fun _ => ?_))
    | split

theorem State.romReg_keeps {s0 s : State} {a0 a1 : Nat} (h : Keeps s0 s) :
    Keeps s0 (State.romReg a0 a1 s) := by
  unfold State.romReg
  repeat' first
    | (with_reducible assumption)
    | (simp only [Keeps.same])

theorem State.bootLip_keeps {s0 s : State} {a0 : Nat} {a1 a2 : Bool} {a3 : List Nat} (h : Keeps s0 s) :
    Keeps s0 (State.bootLip a0 a1 a2 a3 s) := by
  unfold State.bootLip
  repeat' first
    | (with_reducible assumption)
    | (with_reducible apply State.romReg_keeps)
    | (with_reducible apply State.setReg_keeps)

theorem State.bootRearm_keeps {s0 s : State} {a0 : Bool} (h : Keeps s0 s) :
    Keeps s0 (State.bootRearm a0 s) := h.upd rfl rfl (le_refl _) (List.suffix_refl _) (fun i => ⟨memWf_foldl (fun _ _ hm => memWf_memWrite _ _ hm) _ i.mem,
    i.bad, i.wake, i.slip, i.halt, i.mbq, i.quar⟩)

theorem State.bootRingAt_keeps {s0 s : State} {a0 a1 : Nat} (h : Keeps s0 s) :
    Keeps s0 (State.bootRingAt a0 a1 s) := by
  unfold State.bootRingAt
  repeat' first
    | (with_reducible assumption)
    | (with_reducible apply State.romReg_keeps)
    | (with_reducible apply State.setReg_keeps)

theorem State.bootNet_keeps {s0 s : State} (h : Keeps s0 s) :
    Keeps s0 (State.bootNet s) := by
  unfold State.bootNet
  repeat' first
    | (with_reducible assumption)
    | (with_reducible apply State.bootLip_keeps)
    | (with_reducible apply State.bootRearm_keeps)
    | (with_reducible apply State.bootRingAt_keeps)
    | (with_reducible apply State.setReg_keeps)

theorem State.bootRomAgain_keeps {s0 s : State} (h : Keeps s0 s) :
    Keeps s0 (State.bootRomAgain s) := by
  unfold State.bootRomAgain
  repeat' first
    | (with_reducible assumption)
    | (with_reducible apply State.bootNet_keeps)
    | (simp only [Keeps.same])

theorem State.setCause_keeps {s0 s : State} {a0 : Byte} (h : Keeps s0 s) :
    Keeps s0 (State.setCause a0 s) := by
  unfold State.setCause
  repeat' first
    | (with_reducible assumption)
    | (simp only [Keeps.same])

theorem State.coldAscent_keeps {s0 s : State} (h : Keeps s0 s) :
    Keeps s0 (State.coldAscent s) := by
  unfold State.coldAscent
  repeat' first
    | (with_reducible assumption)
    | (with_reducible apply State.setCause_keeps)
    | (with_reducible apply State.setMode_keeps)
    | (simp only [Keeps.same])

theorem State.dropHalf_keeps {s0 s : State} {a0 : Nat} (h : Keeps s0 s) :
    Keeps s0 (State.dropHalf a0 s) := by
  have h1 := State.dropRegs_keeps (a0 := goesWith a0 (s.power.stepOn (if a0 = 0 then 28 else 6))) h
  unfold State.dropHalf
  dsimp only
  have h2 : ∀ (q : List Reg32) (_ : q.length ≤ 256 ∨ q = (s.dropRegs (goesWith a0 (s.power.stepOn (if a0 = 0 then 28 else 6)))).quarFifo),
      Keeps s0 { s.dropRegs (goesWith a0 (s.power.stepOn (if a0 = 0 then 28 else 6))) with
        slipFifo := if a0 = 0 then (s.dropRegs (goesWith a0 (s.power.stepOn (if a0 = 0 then 28 else 6)))).slipFifo.set 0 []
          else (s.dropRegs (goesWith a0 (s.power.stepOn (if a0 = 0 then 28 else 6)))).slipFifo.set 1 []
        haltFifo := if a0 = 0 then (s.dropRegs (goesWith a0 (s.power.stepOn (if a0 = 0 then 28 else 6)))).haltFifo.set 0 []
          else (s.dropRegs (goesWith a0 (s.power.stepOn (if a0 = 0 then 28 else 6)))).haltFifo.set 1 []
        quarFifo := q } := by
    intro q hq
    generalize s.dropRegs _ = z at *
    refine h1.upd rfl rfl (le_refl _) (List.suffix_refl _) (fun i => ⟨i.mem, i.bad, i.wake, ?_, ?_, i.mbq, ?_⟩)
    · dsimp only
      split
      · exact fifo_set i.slip (by decide) (by simp)
      · exact fifo_set i.slip (by decide) (by simp)
    · dsimp only
      split
      · exact fifo_set i.halt (by decide) (by simp)
      · exact fifo_set i.halt (by decide) (by simp)
    · rcases hq with hq | hq
      · exact hq
      · rw [hq]; exact i.quar
  refine Keeps.of_ite (fun ho => ?_) (fun ho => ?_)
  · refine State.setLevel_keeps (State.setLevel_keeps (h2 _ ?_))
    rw [if_pos ho]
    exact Or.inr rfl
  · refine State.setLevel_keeps (State.setLevel_keeps (State.setLevel_keeps (h2 _ ?_)))
    rw [if_neg ho]
    exact Or.inl (Nat.zero_le _)

theorem State.dieOff_keeps {s0 s : State} {a0 : Nat} (h : Keeps s0 s) :
    Keeps s0 (State.dieOff a0 s) := by
  unfold State.dieOff
  repeat' first
    | (with_reducible assumption)
    | (with_reducible apply State.dropFrames_keeps)
    | (with_reducible apply State.dropHalf_keeps)
    | (with_reducible apply State.dropMem_keeps)
    | (with_reducible apply State.setLink_keeps)
    | (simp only [Keeps.same])

theorem State.dieDescend_keeps {s0 s : State} {a0 : Mode} {a1 : Nat} (h : Keeps s0 s) :
    Keeps s0 (State.dieDescend a0 a1 s) := by
  unfold State.dieDescend
  repeat' first
    | (with_reducible assumption)
    | (with_reducible apply State.dieOff_keeps)
    | (with_reducible apply State.dropRegs_keeps)
    | (with_reducible apply State.setLink_keeps)
    | (simp only [Keeps.same])
    | (with_reducible refine Keeps.of_ite (fun _ => ?_) (fun _ => ?_))

theorem State.plinthDown_keeps {s0 s : State} (h : Keeps s0 s) :
    Keeps s0 (State.plinthDown s) := by
  unfold State.plinthDown
  repeat' first
    | (with_reducible assumption)
    | (with_reducible apply State.plinthRailOff_keeps)
    | (with_reducible apply State.plinthReset_keeps)
    | (with_reducible apply State.setReg_keeps)
    | (with_reducible refine Keeps.of_ite (fun _ => ?_) (fun _ => ?_))

theorem State.portsDown_keeps {s0 s : State} (h : Keeps s0 s) :
    Keeps s0 (State.portsDown s) := by
  unfold State.portsDown
  repeat' first
    | (with_reducible assumption)
    | (with_reducible apply State.dropRegs_keeps)
    | (simp only [Keeps.same])

theorem State.warmAscent_keeps {s0 s : State} {a0 : Byte} {a1 : Mode} (h : Keeps s0 s) :
    Keeps s0 (State.warmAscent a0 a1 s) := by
  unfold State.warmAscent
  repeat' first
    | (with_reducible assumption)
    | (with_reducible apply State.modKeeper_keeps)
    | (with_reducible apply State.padsWake_keeps)
    | (with_reducible apply State.raiseP_keeps)
    | (with_reducible apply State.setCause_keeps)
    | (with_reducible apply State.setMode_keeps)
    | (simp only [Keeps.same])
    | (with_reducible refine Keeps.of_ite (fun _ => ?_) (fun _ => ?_))

theorem State.writeBackDie_keeps {s0 s : State} {a0 : Nat} (h : Keeps s0 s) :
    Keeps s0 (State.writeBackDie a0 s) := by
  unfold State.writeBackDie
  repeat' first
    | (with_reducible assumption)
    | (with_reducible apply State.writeBackFrame_keeps)
    | (with_reducible refine Keeps.foldl (fun _ _ _ => ?_) _ ?_)

theorem State.descend_keeps {s0 s : State} {a0 : Mode} (h : Keeps s0 s) :
    Keeps s0 (State.descend a0 s) := by
  unfold State.descend
  repeat' first
    | (with_reducible assumption)
    | (with_reducible apply State.allGroupsFire_keeps)
    | (with_reducible apply State.arrive_keeps)
    | (with_reducible apply State.bankSleep_keeps)
    | (with_reducible apply State.dieDescend_keeps)
    | (with_reducible apply State.hubOff_keeps)
    | (with_reducible apply State.plinthDown_keeps)
    | (with_reducible apply State.portsDown_keeps)
    | (with_reducible apply State.setCause_keeps)
    | (with_reducible apply State.warmAscent_keeps)
    | (with_reducible apply State.writeBackDie_keeps)
    | (simp only [Keeps.same])
    | (with_reducible refine Keeps.of_ite (fun _ => ?_) (fun _ => ?_))

theorem State.dieFail_keeps {s0 s : State} {a0 : Nat} (h : Keeps s0 s) :
    Keeps s0 (State.dieFail a0 s) := by
  unfold State.dieFail
  repeat' first
    | (with_reducible assumption)
    | (with_reducible apply State.dieOff_keeps)
    | (with_reducible apply State.dropMem_keeps)
    | (simp only [Keeps.same])

theorem State.descentFail_keeps {s0 s : State} {a0 : Nat} (h : Keeps s0 s) :
    Keeps s0 (State.descentFail a0 s) := by
  unfold State.descentFail
  repeat' first
    | (with_reducible assumption)
    | (with_reducible apply State.dieFail_keeps)
    | (with_reducible apply State.offer_keeps)
    | (with_reducible apply State.raiseP_keeps)
    | (simp only [Keeps.same])
    | (with_reducible refine Keeps.of_ite (fun _ => ?_) (fun _ => ?_))
    | split

theorem State.dieDown_keeps {s0 s : State} {a1 : Nat} (h : Keeps s0 s) :
    Keeps s0 (State.dieDown s a1) := by
  unfold State.dieDown
  repeat' first
    | (with_reducible assumption)
    | (with_reducible apply State.dieOff_keeps)
    | (with_reducible apply State.writeBackDie_keeps)
    | (with_reducible refine Keeps.of_ite (fun _ => ?_) (fun _ => ?_))

theorem State.descentRow_keeps {s0 s : State} (h : Keeps s0 s) :
    Keeps s0 (State.descentRow s) := by
  unfold State.descentRow
  repeat' first
    | (with_reducible assumption)
    | (with_reducible apply State.descend_keeps)
    | (with_reducible apply State.dieDown_keeps)
    | (with_reducible apply State.stepsDone_keeps)
    | (simp only [Keeps.same])
    | (with_reducible refine Keeps.of_ite (fun _ => ?_) (fun _ => ?_))

theorem State.deviceReset_keeps {s0 s : State} {a0 : Byte} (h : Keeps s0 s) :
    Keeps s0 (State.deviceReset a0 s) := by
  unfold State.deviceReset
  repeat' first
    | (with_reducible assumption)
    | (with_reducible apply State.afterReset_keeps)
    | (with_reducible apply State.modeRecord_keeps)
    | (with_reducible apply State.setCause_keeps)

theorem State.inputLow_keeps {s0 s : State} {a0 : Word} (h : Keeps s0 s) :
    Keeps s0 (State.inputLow a0 s) := by
  unfold State.inputLow
  repeat' first
    | (with_reducible assumption)
    | (with_reducible apply State.offer_keeps)
    | (with_reducible apply State.setLevel_keeps)
    | (simp only [Keeps.same])
    | (with_reducible refine Keeps.of_ite (fun _ => ?_) (fun _ => ?_))

theorem State.recoveryEntry_keeps {s0 s : State} {a0 : Byte} (h : Keeps s0 s) :
    Keeps s0 (State.recoveryEntry a0 s) := by
  unfold State.recoveryEntry
  repeat' first
    | (with_reducible assumption)
    | (with_reducible apply State.aonOnly_keeps)
    | (with_reducible apply State.arrive_keeps)
    | (with_reducible apply State.bootRomAgain_keeps)
    | (with_reducible apply State.offer_keeps)
    | (with_reducible apply State.setCause_keeps)
    | (with_reducible refine Keeps.of_ite (fun _ => ?_) (fun _ => ?_))

theorem State.startDescent_keeps {s0 s : State} {a0 : Mode} (h : Keeps s0 s) :
    Keeps s0 (State.startDescent a0 s) := by
  unfold State.startDescent
  repeat' first
    | (with_reducible assumption)
    | (simp only [Keeps.same])

theorem State.powerDo_keeps {s0 s : State} {a0 : PowerAct} (h : Keeps s0 s) :
    Keeps s0 (State.powerDo a0 s) := by
  unfold State.powerDo
  repeat' first
    | (with_reducible assumption)
    | (with_reducible apply State.arrive_keeps)
    | (with_reducible apply State.pwrResult_keeps)
    | (with_reducible apply State.recoveryEntry_keeps)
    | (with_reducible apply State.setCause_keeps)
    | (with_reducible apply State.startDescent_keeps)
    | (with_reducible apply State.warmAscent_keeps)
    | (simp only [Keeps.same])
    | split

theorem State.powerRequest_keeps {s0 s : State} {a0 : Nat} (h : Keeps s0 s) :
    Keeps s0 (State.powerRequest a0 s) := by
  unfold State.powerRequest
  repeat' first
    | (with_reducible assumption)
    | (with_reducible apply State.powerDo_keeps)
    | (with_reducible apply State.raiseP_keeps)
    | (simp only [Keeps.same])

theorem State.pwrDie_keeps {s0 s : State} {a0 : Nat} (h : Keeps s0 s) :
    Keeps s0 (State.pwrDie a0 s) := by
  unfold State.pwrDie
  repeat' first
    | (with_reducible assumption)
    | (with_reducible apply State.pwrResult_keeps)
    | (with_reducible apply State.stepsDone_keeps)
    | (simp only [Keeps.same])
    | (with_reducible refine Keeps.of_ite (fun _ => ?_) (fun _ => ?_))

theorem State.readTemp_keeps {s0 s : State} {a0 : Fin 3} {a1 : BitVec 10} (h : Keeps s0 s) :
    Keeps s0 (State.readTemp a0 a1 s) := by
  unfold State.readTemp
  repeat' first
    | (with_reducible assumption)
    | (simp only [Keeps.same])

theorem State.sealNow_keeps {s0 s : State} {a0 a1 : Byte} (h : Keeps s0 s) :
    Keeps s0 (State.sealNow a0 a1 s) := by
  unfold State.sealNow
  repeat' first
    | (with_reducible assumption)
    | (with_reducible apply State.aonOnly_keeps)
    | (with_reducible apply State.arrive_keeps)
    | (with_reducible apply State.bootRomAgain_keeps)
    | (with_reducible apply State.offer_keeps)
    | (with_reducible apply State.setCause_keeps)

theorem State.sealFault_keeps {s0 s : State} {a0 : Byte} (h : Keeps s0 s) :
    Keeps s0 (State.sealFault a0 s) := by
  unfold State.sealFault
  repeat' first
    | (with_reducible assumption)
    | (with_reducible apply State.sealNow_keeps)
    | (with_reducible refine Keeps.of_ite (fun _ => ?_) (fun _ => ?_))

theorem State.stepFail_keeps {s0 s : State} {a0 : Byte} (h : Keeps s0 s) :
    Keeps s0 (State.stepFail a0 s) := by
  unfold State.stepFail
  repeat' first
    | (with_reducible assumption)
    | (with_reducible apply State.dieFail_keeps)
    | (with_reducible apply State.offer_keeps)
    | (with_reducible apply State.plinthFail_keeps)
    | (with_reducible apply State.raiseP_keeps)
    | (with_reducible apply State.recoveryEntry_keeps)
    | (with_reducible apply State.stepsDone_keeps)
    | (simp only [Keeps.same])
    | (with_reducible refine Keeps.of_ite (fun _ => ?_) (fun _ => ?_))
    | split

theorem State.swReset_keeps {s0 s : State} {a0 : Byte} {a1 : Nat} (h : Keeps s0 s) :
    Keeps s0 (State.swReset a0 a1 s) := by
  unfold State.swReset
  repeat' first
    | (with_reducible assumption)
    | (with_reducible apply State.deviceReset_keeps)
    | (with_reducible refine Keeps.of_ite (fun _ => ?_) (fun _ => ?_))

theorem State.temperatures_keeps {s0 s : State} {a0 a1 a2 : BitVec 10} {a3 : BitVec 2} (h : Keeps s0 s) :
    Keeps s0 (State.temperatures a0 a1 a2 a3 s) := by
  unfold State.temperatures
  repeat' first
    | (with_reducible assumption)
    | (with_reducible apply State.plinthLoss_keeps)
    | (with_reducible apply State.readTemp_keeps)
    | (with_reducible apply State.sealNow_keeps)
    | (with_reducible apply State.setLevel_keeps)
    | (simp only [Keeps.same])
    | (with_reducible refine Keeps.of_ite (fun _ => ?_) (fun _ => ?_))

theorem State.wakeEvent_keeps {s0 s : State} {a0 : Byte} (h : Keeps s0 s) :
    Keeps s0 (State.wakeEvent a0 s) := by
  unfold State.wakeEvent
  repeat' first
    | (with_reducible assumption)
    | (with_reducible apply State.warmAscent_keeps)
    | (simp only [Keeps.same])
    | (with_reducible refine Keeps.of_ite (fun _ => ?_) (fun _ => ?_))

theorem execAscentStep_keeps {s0 s : State} (h : Keeps s0 s) :
    KeepsR s0 (execAscentStep s) := by
  unfold execAscentStep
  repeat' first
    | (with_reducible assumption)
    | (with_reducible apply State.ascentStep_keeps)
    | (with_reducible apply KeepsR.next)

theorem execDescent_keeps {s0 s : State} (h : Keeps s0 s) :
    KeepsR s0 (execDescent s) := by
  unfold execDescent
  repeat' first
    | (with_reducible assumption)
    | (with_reducible apply State.descentRow_keeps)
    | (with_reducible apply KeepsR.next)

theorem execDrainEnd_keeps {s0 s : State} (h : Keeps s0 s) :
    KeepsR s0 (execDrainEnd s) := by
  unfold execDrainEnd
  repeat' first
    | (with_reducible assumption)
    | (with_reducible apply State.arrive_keeps)
    | (with_reducible apply State.setCause_keeps)
    | (with_reducible apply State.startDescent_keeps)
    | (with_reducible apply KeepsR.next)
    | (with_reducible refine Keeps.of_ite (fun _ => ?_) (fun _ => ?_))

theorem execPowerRequest_keeps {s0 s : State} {a0 : Byte} {a1 : Reg32} (h : Keeps s0 s) :
    KeepsR s0 (execPowerRequest a0 a1 s) := by
  unfold execPowerRequest
  repeat' first
    | (with_reducible assumption)
    | (with_reducible apply State.powerRequest_keeps)
    | (with_reducible apply KeepsR.next)
    | (with_reducible refine Keeps.of_ite (fun _ => ?_) (fun _ => ?_))

theorem execPwrDieWrite_keeps {s0 s : State} {a0 : Byte} {a1 : Reg32} (h : Keeps s0 s) :
    KeepsR s0 (execPwrDieWrite a0 a1 s) := by
  unfold execPwrDieWrite
  repeat' first
    | (with_reducible assumption)
    | (with_reducible apply State.pwrDie_keeps)
    | (with_reducible apply KeepsR.next)
    | (with_reducible refine Keeps.of_ite (fun _ => ?_) (fun _ => ?_))

theorem execPwrSwreset_keeps {s0 s : State} {a0 : Byte} {a1 : Word} (h : Keeps s0 s) :
    KeepsR s0 (execPwrSwreset a0 a1 s) := by
  unfold execPwrSwreset
  repeat' first
    | (with_reducible assumption)
    | (with_reducible apply State.swReset_keeps)
    | (with_reducible apply KeepsR.next)
    | (with_reducible refine Keeps.of_ite (fun _ => ?_) (fun _ => ?_))

theorem execResetN_keeps {s0 s : State} (h : Keeps s0 s) :
    KeepsR s0 (execResetN s) := by
  unfold execResetN
  repeat' first
    | (with_reducible assumption)
    | (with_reducible apply State.deviceReset_keeps)
    | (with_reducible apply KeepsR.next)
    | (with_reducible refine Keeps.of_ite (fun _ => ?_) (fun _ => ?_))

theorem execSealDevice_keeps {s0 s : State} {a0 : Byte} (h : Keeps s0 s) :
    KeepsR s0 (execSealDevice a0 s) := by
  unfold execSealDevice
  repeat' first
    | (with_reducible assumption)
    | (with_reducible apply State.sealFault_keeps)
    | (with_reducible apply KeepsR.next)
    | (with_reducible refine Keeps.of_ite (fun _ => ?_) (fun _ => ?_))

theorem execStepFail_keeps {s0 s : State} {a0 : StepFailure} (h : Keeps s0 s) :
    KeepsR s0 (execStepFail a0 s) := by
  unfold execStepFail
  repeat' first
    | (with_reducible assumption)
    | (with_reducible apply State.descentFail_keeps)
    | (with_reducible apply State.stepFail_keeps)
    | (with_reducible apply KeepsR.next)
    | (with_reducible refine Keeps.of_ite (fun _ => ?_) (fun _ => ?_))

theorem execSupplyLoss_keeps {s0 s : State} (h : Keeps s0 s) :
    KeepsR s0 (execSupplyLoss s) := by
  unfold execSupplyLoss
  repeat' first
    | (with_reducible assumption)
    | (with_reducible apply State.afterReset_keeps)
    | (simp only [Keeps.same])
    | (with_reducible apply KeepsR.next)
    | (with_reducible refine Keeps.of_ite (fun _ => ?_) (fun _ => ?_))

theorem execSupplyLow_keeps {s0 s : State} {a0 : Word} (h : Keeps s0 s) :
    KeepsR s0 (execSupplyLow a0 s) := by
  unfold execSupplyLow
  repeat' first
    | (with_reducible assumption)
    | (with_reducible apply State.inputLow_keeps)
    | (with_reducible apply KeepsR.next)
    | (with_reducible refine Keeps.of_ite (fun _ => ?_) (fun _ => ?_))

theorem execSupplyLowEnd_keeps {s0 s : State} {a0 : Word} (h : Keeps s0 s) :
    KeepsR s0 (execSupplyLowEnd a0 s) := by
  unfold execSupplyLowEnd
  repeat' first
    | (with_reducible assumption)
    | (with_reducible apply State.setLevel_keeps)
    | (simp only [Keeps.same])
    | (with_reducible apply KeepsR.next)
    | (with_reducible refine Keeps.of_ite (fun _ => ?_) (fun _ => ?_))

theorem execSupplyOn_keeps {s0 s : State} (h : Keeps s0 s) :
    KeepsR s0 (execSupplyOn s) := by
  unfold execSupplyOn
  repeat' first
    | (with_reducible assumption)
    | (with_reducible apply State.afterReset_keeps)
    | (simp only [Keeps.same])
    | (with_reducible apply KeepsR.next)
    | (with_reducible refine Keeps.of_ite (fun _ => ?_) (fun _ => ?_))

theorem execTemperatureRead_keeps {s0 s : State} {a0 a1 a2 : BitVec 10} {a3 : BitVec 2} (h : Keeps s0 s) :
    KeepsR s0 (execTemperatureRead a0 a1 a2 a3 s) := by
  unfold execTemperatureRead
  repeat' first
    | (with_reducible assumption)
    | (with_reducible apply State.temperatures_keeps)
    | (with_reducible apply KeepsR.next)
    | (with_reducible refine Keeps.of_ite (fun _ => ?_) (fun _ => ?_))

theorem execWakePin_keeps {s0 s : State} {a0 : Fin 16} (h : Keeps s0 s) :
    KeepsR s0 (execWakePin a0 s) := by
  unfold execWakePin
  repeat' first
    | (with_reducible assumption)
    | (with_reducible apply State.wakeEvent_keeps)
    | (simp only [Keeps.same])
    | (with_reducible apply KeepsR.next)
    | (with_reducible refine Keeps.of_ite (fun _ => ?_) (fun _ => ?_))

theorem execWakeTimer_keeps {s0 s : State} (h : Keeps s0 s) :
    KeepsR s0 (execWakeTimer s) := by
  unfold execWakeTimer
  repeat' first
    | (with_reducible assumption)
    | (with_reducible apply State.warmAscent_keeps)
    | (with_reducible apply KeepsR.next)
    | (with_reducible refine Keeps.of_ite (fun _ => ?_) (fun _ => ?_))

end Sys2Proof.Machine
end

