-- ==== Sys2Proof/Laws/Kept11.lean ====
section
/-! SUPPORT. What the operations of the block keep, part 11 of 14: each leaves the queue, the part and what was sent,
uses free values up in order, and keeps a sound state sound (the relation of Laws/Keeps.lean). -/

set_option linter.all false

namespace Sys2Proof.Machine

open Sys2Proof

theorem execWatchdog_keeps {s0 s : State} {a0 : Fin 4} (h : Keeps s0 s) :
    KeepsR s0 (execWatchdog a0 s) := by
  unfold execWatchdog
  repeat' first
    | (with_reducible assumption)
    | (with_reducible apply State.recoveryEntry_keeps)
    | (with_reducible apply State.resetKeeper_keeps)
    | (with_reducible apply State.wdRecord_keeps)
    | (with_reducible apply KeepsR.next)
    | (with_reducible refine Keeps.of_ite (fun _ => ?_) (fun _ => ?_))

theorem State.cfgWrite_keeps {s0 s : State} {a0 a1 : Nat} (h : Keeps s0 s) :
    Keeps s0 (State.cfgWrite a0 a1 s) := by
  unfold State.cfgWrite
  repeat' first
    | (with_reducible assumption)
    | (with_reducible apply State.modPin_keeps)
    | (with_reducible apply State.pinLevel_keeps)
    | (with_reducible apply State.writeReg_keeps)

theorem State.gpioEnWrite_keeps {s0 s : State} {a0 : Nat} (h : Keeps s0 s) :
    Keeps s0 (State.gpioEnWrite a0 s) := by
  unfold State.gpioEnWrite
  repeat' first
    | (with_reducible assumption)
    | (with_reducible apply State.setGpioEn_keeps)

theorem State.gpioWrite_keeps {s0 s : State} {a0 : Nat} {a1 : Bool} {a2 : Nat} (h : Keeps s0 s) :
    Keeps s0 (State.gpioWrite a0 a1 a2 s) := by
  unfold State.gpioWrite
  repeat' first
    | (with_reducible assumption)
    | (with_reducible apply State.padsSettle_keeps)
    | (with_reducible apply State.setReg_keeps)

theorem State.i2cFill_keeps {s0 s : State} {a0 : Nat} {a1 : List Byte} (h : Keeps s0 s) :
    Keeps s0 (State.i2cFill a0 a1 s) := by
  unfold State.i2cFill
  repeat' first
    | (with_reducible assumption)
    | (with_reducible apply State.setReg_keeps)
    | (simp only [Keeps.same])
    | (with_reducible refine Keeps.foldl (fun _ _ _ => ?_) _ ?_)

theorem State.i2cDone_keeps {s0 s : State} {a0 : Fin 4} {a1 : BitVec 3} {a2 : List Byte} (h : Keeps s0 s) :
    Keeps s0 (State.i2cDone a0 a1 a2 s) := by
  unfold State.i2cDone
  repeat' first
    | (with_reducible assumption)
    | (with_reducible apply State.i2cFill_keeps)
    | (with_reducible apply State.raiseP_keeps)
    | (simp only [Keeps.same])
    | (with_reducible refine Keeps.of_ite (fun _ => ?_) (fun _ => ?_))

theorem State.i2cGo_keeps {s0 s : State} {a0 : Fin 4} {a1 : Nat} (h : Keeps s0 s) :
    Keeps s0 (State.i2cGo a0 a1 s) := by
  unfold State.i2cGo
  repeat' first
    | (with_reducible assumption)
    | (with_reducible apply State.send_keeps)
    | (with_reducible apply State.writeReg_keeps)
    | (simp only [Keeps.same])
    | (with_reducible refine Keeps.of_ite (fun _ => ?_) (fun _ => ?_))

theorem State.jtagTake_keeps {s0 s : State} {a0 : JtagInstr} {a1 : Nat} (h : Keeps s0 s) :
    Keeps s0 (State.jtagTake a0 a1 s) := by
  unfold State.jtagTake
  repeat' first
    | (with_reducible assumption)
    | (with_reducible apply State.padsSettle_keeps)
    | (simp only [Keeps.same])

theorem State.ledBlink_keeps {s0 s : State} {a0 : Nat} (h : Keeps s0 s) :
    Keeps s0 (State.ledBlink a0 s) := by
  unfold State.ledBlink
  repeat' first
    | (with_reducible assumption)
    | (with_reducible apply State.padsSettle_keeps)
    | (simp only [Keeps.same])

theorem State.tachEdge_keeps {s0 s : State} {a0 : Fin 4} {a1 : Nat} (h : Keeps s0 s) :
    Keeps s0 (State.tachEdge a0 a1 s) := by
  unfold State.tachEdge
  repeat' first
    | (with_reducible assumption)
    | (with_reducible apply State.setLevel_keeps)
    | (simp only [Keeps.same])

theorem State.uartLevel_keeps {s0 s : State} {a0 : Fin 2} (h : Keeps s0 s) :
    Keeps s0 (State.uartLevel a0 s) := by
  unfold State.uartLevel
  repeat' first
    | (with_reducible assumption)
    | (with_reducible apply State.setLevel_keeps)

theorem State.uartGet_keeps {s0 s : State} {a0 : Fin 2} {a1 : Byte} (h : Keeps s0 s) :
    Keeps s0 (State.uartGet a0 a1 s) := by
  unfold State.uartGet
  repeat' first
    | (with_reducible assumption)
    | (with_reducible apply State.uartLevel_keeps)
    | (simp only [Keeps.same])
    | (with_reducible refine Keeps.of_ite (fun _ => ?_) (fun _ => ?_))

theorem State.uartPut_keeps {s0 s : State} {a0 : Fin 2} {a1 : Byte} (h : Keeps s0 s) :
    Keeps s0 (State.uartPut a0 a1 s) := by
  unfold State.uartPut
  repeat' first
    | (with_reducible assumption)
    | (simp only [Keeps.same])
    | (with_reducible refine Keeps.of_ite (fun _ => ?_) (fun _ => ?_))

theorem State.uartTake_keeps {s0 s : State} {a0 : Fin 2} (h : Keeps s0 s) :
    Keeps s0 (State.uartTake a0 s).1 := by
  unfold State.uartTake
  repeat' first
    | (with_reducible assumption)
    | (with_reducible apply State.uartLevel_keeps)
    | (simp only [Keeps.same])
    | split

theorem execBypass_keeps {s0 s : State} (h : Keeps s0 s) :
    KeepsR s0 (execBypass s) := by
  unfold execBypass
  repeat' first
    | (with_reducible assumption)
    | (with_reducible apply State.jtagTake_keeps)
    | (with_reducible apply KeepsR.next)
    | (with_reducible refine Keeps.of_ite (fun _ => ?_) (fun _ => ?_))

theorem execClamp_keeps {s0 s : State} (h : Keeps s0 s) :
    KeepsR s0 (execClamp s) := by
  unfold execClamp
  repeat' first
    | (with_reducible assumption)
    | (with_reducible apply State.jtagTake_keeps)
    | (with_reducible apply KeepsR.next)
    | (with_reducible refine Keeps.of_ite (fun _ => ?_) (fun _ => ?_))

theorem execDebounceChange_keeps {s0 s : State} {a0 : Fin 48} {a1 : Bool} (h : Keeps s0 s) :
    KeepsR s0 (execDebounceChange a0 a1 s) := by
  unfold execDebounceChange
  repeat' first
    | (with_reducible assumption)
    | (with_reducible apply State.pinChange_keeps)
    | (with_reducible apply KeepsR.next)
    | (with_reducible refine Keeps.of_ite (fun _ => ?_) (fun _ => ?_))

theorem execExtest_keeps {s0 s : State} (h : Keeps s0 s) :
    KeepsR s0 (execExtest s) := by
  unfold execExtest
  repeat' first
    | (with_reducible assumption)
    | (with_reducible apply State.jtagTake_keeps)
    | (with_reducible apply State.reply_keeps)
    | (with_reducible apply KeepsR.next)
    | (with_reducible refine Keeps.of_ite (fun _ => ?_) (fun _ => ?_))

theorem execGpioEnWrite_keeps {s0 s : State} {a0 : Reg32} (h : Keeps s0 s) :
    KeepsR s0 (execGpioEnWrite a0 s) := by
  unfold execGpioEnWrite
  repeat' first
    | (with_reducible assumption)
    | (with_reducible apply State.gpioEnWrite_keeps)
    | (with_reducible apply KeepsR.next)
    | (with_reducible refine Keeps.of_ite (fun _ => ?_) (fun _ => ?_))

theorem execGpioOutWrite_keeps {s0 s : State} {a0 : Fin 3} {a1 : Bool} {a2 : Reg32} (h : Keeps s0 s) :
    KeepsR s0 (execGpioOutWrite a0 a1 a2 s) := by
  unfold execGpioOutWrite
  repeat' first
    | (with_reducible assumption)
    | (with_reducible apply State.gpioWrite_keeps)
    | (with_reducible apply KeepsR.next)
    | (with_reducible refine Keeps.of_ite (fun _ => ?_) (fun _ => ?_))

theorem execHighz_keeps {s0 s : State} (h : Keeps s0 s) :
    KeepsR s0 (execHighz s) := by
  unfold execHighz
  repeat' first
    | (with_reducible assumption)
    | (with_reducible apply State.jtagTake_keeps)
    | (with_reducible apply KeepsR.next)
    | (with_reducible refine Keeps.of_ite (fun _ => ?_) (fun _ => ?_))

theorem execI2cDone_keeps {s0 s : State} {a0 : Fin 4} {a1 : BitVec 3} {a2 : List Byte} (h : Keeps s0 s) :
    KeepsR s0 (execI2cDone a0 a1 a2 s) := by
  unfold execI2cDone
  repeat' first
    | (with_reducible assumption)
    | (with_reducible apply State.i2cDone_keeps)
    | (with_reducible apply KeepsR.next)
    | (with_reducible refine Keeps.of_ite (fun _ => ?_) (fun _ => ?_))

theorem execI2cGo_keeps {s0 s : State} {a0 : Fin 4} {a1 : Reg32} (h : Keeps s0 s) :
    KeepsR s0 (execI2cGo a0 a1 s) := by
  unfold execI2cGo
  repeat' first
    | (with_reducible assumption)
    | (with_reducible apply State.i2cGo_keeps)
    | (with_reducible apply KeepsR.next)
    | (with_reducible refine Keeps.of_ite (fun _ => ?_) (fun _ => ?_))

theorem execIdcode_keeps {s0 s : State} (h : Keeps s0 s) :
    KeepsR s0 (execIdcode s) := by
  unfold execIdcode
  repeat' first
    | (with_reducible assumption)
    | (with_reducible apply State.jtagTake_keeps)
    | (with_reducible apply State.reply_keeps)
    | (with_reducible apply KeepsR.next)
    | (with_reducible refine Keeps.of_ite (fun _ => ?_) (fun _ => ?_))

theorem execLedBlink_keeps {s0 s : State} {a0 : Fin 6} (h : Keeps s0 s) :
    KeepsR s0 (execLedBlink a0 s) := by
  unfold execLedBlink
  repeat' first
    | (with_reducible assumption)
    | (with_reducible apply State.ledBlink_keeps)
    | (with_reducible apply KeepsR.next)
    | (with_reducible refine Keeps.of_ite (fun _ => ?_) (fun _ => ?_))

theorem execSamplePreload_keeps {s0 s : State} {a0 : List Bool} (h : Keeps s0 s) :
    KeepsR s0 (execSamplePreload a0 s) := by
  unfold execSamplePreload
  repeat' first
    | (with_reducible assumption)
    | (with_reducible apply State.jtagTake_keeps)
    | (with_reducible apply State.reply_keeps)
    | (simp only [Keeps.same])
    | (with_reducible apply KeepsR.next)
    | (with_reducible refine Keeps.of_ite (fun _ => ?_) (fun _ => ?_))

theorem execStrapSample_keeps {s0 s : State} {a0 a1 : Bool} (h : Keeps s0 s) :
    KeepsR s0 (execStrapSample a0 a1 s) := by
  unfold execStrapSample
  repeat' first
    | (with_reducible assumption)
    | (simp only [Keeps.same])
    | (with_reducible apply KeepsR.next)
    | (with_reducible refine Keeps.of_ite (fun _ => ?_) (fun _ => ?_))

theorem execTachEdge_keeps {s0 s : State} {a0 : Fin 4} {a1 : Nat} (h : Keeps s0 s) :
    KeepsR s0 (execTachEdge a0 a1 s) := by
  unfold execTachEdge
  repeat' first
    | (with_reducible assumption)
    | (with_reducible apply State.tachEdge_keeps)
    | (with_reducible apply KeepsR.next)
    | (with_reducible refine Keeps.of_ite (fun _ => ?_) (fun _ => ?_))

theorem execTachStall_keeps {s0 s : State} {a0 : Fin 4} (h : Keeps s0 s) :
    KeepsR s0 (execTachStall a0 s) := by
  unfold execTachStall
  repeat' first
    | (with_reducible assumption)
    | (with_reducible apply State.setLevel_keeps)
    | (simp only [Keeps.same])
    | (with_reducible apply KeepsR.next)
    | (with_reducible refine Keeps.of_ite (fun _ => ?_) (fun _ => ?_))

theorem execTrstN_keeps {s0 s : State} (h : Keeps s0 s) :
    KeepsR s0 (execTrstN s) := by
  unfold execTrstN
  repeat' first
    | (with_reducible assumption)
    | (with_reducible apply State.padsSettle_keeps)
    | (simp only [Keeps.same])
    | (with_reducible apply KeepsR.next)
    | (with_reducible refine Keeps.of_ite (fun _ => ?_) (fun _ => ?_))

theorem execUartRead_keeps {s0 s : State} {a0 : Fin 2} (h : Keeps s0 s) :
    KeepsR s0 (execUartRead a0 s) := by
  unfold execUartRead
  repeat' first
    | (with_reducible assumption)
    | (with_reducible apply State.reply_keeps)
    | (with_reducible apply State.uartTake_keeps)
    | (simp only [Keeps.same])
    | (with_reducible apply KeepsR.next)
    | (with_reducible refine Keeps.of_ite (fun _ => ?_) (fun _ => ?_))

theorem execUartReceive_keeps {s0 s : State} {a0 : Fin 2} {a1 : Byte} (h : Keeps s0 s) :
    KeepsR s0 (execUartReceive a0 a1 s) := by
  unfold execUartReceive
  repeat' first
    | (with_reducible assumption)
    | (with_reducible apply State.uartGet_keeps)
    | (with_reducible apply KeepsR.next)
    | (with_reducible refine Keeps.of_ite (fun _ => ?_) (fun _ => ?_))

theorem execUartTransmit_keeps {s0 s : State} {a0 : Fin 2} (h : Keeps s0 s) :
    KeepsR s0 (execUartTransmit a0 s) := by
  unfold execUartTransmit
  repeat' first
    | (with_reducible assumption)
    | (with_reducible apply State.send_keeps)
    | (simp only [Keeps.same])
    | (with_reducible apply KeepsR.next)
    | (with_reducible refine Keeps.of_ite (fun _ => ?_) (fun _ => ?_))
    | split

theorem execUartWrite_keeps {s0 s : State} {a0 : Fin 2} {a1 : Byte} (h : Keeps s0 s) :
    KeepsR s0 (execUartWrite a0 a1 s) := by
  unfold execUartWrite
  repeat' first
    | (with_reducible assumption)
    | (with_reducible apply State.uartPut_keeps)
    | (with_reducible apply KeepsR.next)
    | (with_reducible refine Keeps.of_ite (fun _ => ?_) (fun _ => ?_))

theorem State.clearPort_keeps {s0 s : State} {a0 : Nat} (h : Keeps s0 s) :
    Keeps s0 (State.clearPort a0 s) := by
  unfold State.clearPort
  repeat' first
    | (with_reducible assumption)
    | (with_reducible apply State.setSub_keeps)
    | (simp only [Keeps.same])
    | (with_reducible refine Keeps.foldl (fun _ _ _ => ?_) _ ?_)

theorem State.controlPush_keeps {s0 s : State} (h : Keeps s0 s) :
    Keeps s0 (State.controlPush s) := by
  unfold State.controlPush
  repeat' first
    | (with_reducible assumption)
    | (with_reducible apply State.modSlot_keeps)
    | (with_reducible apply State.setReg_keeps)
    | (with_reducible refine Keeps.of_ite (fun _ => ?_) (fun _ => ?_))

theorem State.flowRead_keeps {s0 s : State} (h : Keeps s0 s) :
    Keeps s0 (State.flowRead s) := by
  unfold State.flowRead
  repeat' first
    | (with_reducible assumption)
    | (with_reducible apply State.setReg_keeps)
    | (with_reducible refine Keeps.foldl (fun _ _ _ => ?_) _ ?_)

theorem State.flowWrite_keeps {s0 s : State} {a0 : CtxNo} {a1 : FlowWords} (h : Keeps s0 s) :
    Keeps s0 (State.flowWrite a0 a1 s) := by
  unfold State.flowWrite
  repeat' first
    | (with_reducible assumption)
    | (with_reducible apply State.modSlot_keeps)
    | (with_reducible apply State.setReg_keeps)
    | (simp only [Keeps.same])
    | (with_reducible refine Keeps.of_ite (fun _ => ?_) (fun _ => ?_))
    | split

theorem State.ktxPoll_keeps {s0 s : State} (h : Keeps s0 s) :
    Keeps s0 (State.ktxPoll s) := by
  unfold State.ktxPoll
  repeat' first
    | (with_reducible assumption)
    | (simp only [Keeps.same])
    | (with_reducible refine Keeps.of_ite (fun _ => ?_) (fun _ => ?_))

theorem State.portControl_keeps {s0 s : State} {a0 a1 : Nat} (h : Keeps s0 s) :
    Keeps s0 (State.portControl a0 a1 s) := by
  unfold State.portControl
  repeat' first
    | (with_reducible assumption)
    | (with_reducible apply State.clearPort_keeps)
    | (with_reducible apply State.setReg_keeps)
    | (simp only [Keeps.same])
    | (with_reducible refine Keeps.of_ite (fun _ => ?_) (fun _ => ?_))

theorem State.snapSub_keeps {s0 s : State} {a0 a1 : Nat} (h : Keeps s0 s) :
    Keeps s0 (State.snapSub a0 a1 s) := by
  unfold State.snapSub
  repeat' first
    | (with_reducible assumption)
    | (with_reducible apply State.setReg_keeps)

theorem State.qmSnap_keeps {s0 s : State} (h : Keeps s0 s) :
    Keeps s0 (State.qmSnap s) := by
  unfold State.qmSnap
  repeat' first
    | (with_reducible assumption)
    | (with_reducible apply State.snapSub_keeps)
    | (with_reducible refine Keeps.foldl (fun _ _ _ => ?_) _ ?_)

theorem State.sendBand_keeps {s0 s : State} {a0 a1 : Nat} (h : Keeps s0 s) :
    Keeps s0 (State.sendBand a0 a1 s) := by
  induction a1 generalizing s with
  | zero =>
    unfold State.sendBand
    repeat' first
      | (with_reducible assumption)
      | (with_reducible apply ih)
      | (with_reducible apply State.sendFragment_keeps)
      | (simp only [Keeps.same])
      | (with_reducible refine Keeps.of_ite (fun _ => ?_) (fun _ => ?_))
      | split
  | succ n ih =>
    unfold State.sendBand
    repeat' first
      | (with_reducible assumption)
      | (with_reducible apply ih)
      | (with_reducible apply State.sendFragment_keeps)
      | (simp only [Keeps.same])
      | (with_reducible refine Keeps.of_ite (fun _ => ?_) (fun _ => ?_))
      | split

theorem State.sendKeeper_keeps {s0 s : State} (h : Keeps s0 s) :
    Keeps s0 (State.sendKeeper s) := by
  unfold State.sendKeeper
  repeat' first
    | (with_reducible assumption)
    | (with_reducible apply State.agentRead_keeps)
    | (with_reducible apply State.ktxReturn_keeps)
    | (with_reducible apply State.putOnWire_keeps)
    | (simp only [Keeps.same])
    | (with_reducible refine Keeps.of_ite (fun _ => ?_) (fun _ => ?_))

theorem State.sendItem_keeps {s0 s : State} {a0 : TxItem} (h : Keeps s0 s) :
    Keeps s0 (State.sendItem a0 s) := by
  unfold State.sendItem
  repeat' first
    | (with_reducible assumption)
    | (with_reducible apply State.sendAudio_keeps)
    | (with_reducible apply State.sendControl_keeps)
    | (with_reducible apply State.sendFragment_keeps)
    | (with_reducible apply State.sendKeeper_keeps)
    | (with_reducible apply State.sendMarker_keeps)
    | split

theorem execAudioPacketRelease_keeps {s0 s : State} {a0 : CtxNo} (h : Keeps s0 s) :
    KeepsR s0 (execAudioPacketRelease a0 s) := by
  unfold execAudioPacketRelease
  repeat' first
    | (with_reducible assumption)
    | (with_reducible apply State.sendAudio_keeps)
    | (with_reducible apply KeepsR.next)
    | (with_reducible refine Keeps.of_ite (fun _ => ?_) (fun _ => ?_))
    | split

theorem execBandRelease_keeps {s0 s : State} {a0 : CtxNo} (h : Keeps s0 s) :
    KeepsR s0 (execBandRelease a0 s) := by
  unfold execBandRelease
  repeat' first
    | (with_reducible assumption)
    | (with_reducible apply State.sendBand_keeps)
    | (with_reducible apply KeepsR.next)
    | (with_reducible refine Keeps.of_ite (fun _ => ?_) (fun _ => ?_))
    | split

theorem execControlPush_keeps {s0 s : State} (h : Keeps s0 s) :
    KeepsR s0 (execControlPush s) := by
  unfold execControlPush
  repeat' first
    | (with_reducible assumption)
    | (with_reducible apply State.controlPush_keeps)
    | (with_reducible apply KeepsR.next)
    | (with_reducible refine Keeps.of_ite (fun _ => ?_) (fun _ => ?_))

theorem execFlowRead_keeps {s0 s : State} (h : Keeps s0 s) :
    KeepsR s0 (execFlowRead s) := by
  unfold execFlowRead
  repeat' first
    | (with_reducible assumption)
    | (with_reducible apply State.flowRead_keeps)
    | (with_reducible apply KeepsR.next)
    | (with_reducible refine Keeps.of_ite (fun _ => ?_) (fun _ => ?_))

theorem execFlowWrite_keeps {s0 s : State} (h : Keeps s0 s) :
    KeepsR s0 (execFlowWrite s) := by
  unfold execFlowWrite
  repeat' first
    | (with_reducible assumption)
    | (with_reducible apply State.flowWrite_keeps)
    | (with_reducible apply KeepsR.next)
    | (with_reducible refine Keeps.of_ite (fun _ => ?_) (fun _ => ?_))

theorem execKeeperTransmit_keeps {s0 s : State} (h : Keeps s0 s) :
    KeepsR s0 (execKeeperTransmit s) := by
  unfold execKeeperTransmit
  repeat' first
    | (with_reducible assumption)
    | (with_reducible apply State.ktxPoll_keeps)
    | (with_reducible apply State.ktxReturn_keeps)
    | (with_reducible apply State.sendKeeper_keeps)
    | (simp only [Keeps.same])
    | (with_reducible apply KeepsR.next)
    | (with_reducible refine Keeps.of_ite (fun _ => ?_) (fun _ => ?_))

theorem execLateBandSend_keeps {s0 s : State} {a0 : CtxNo} (h : Keeps s0 s) :
    KeepsR s0 (execLateBandSend a0 s) := by
  unfold execLateBandSend
  repeat' first
    | (with_reducible assumption)
    | (with_reducible apply State.sendBand_keeps)
    | (with_reducible apply KeepsR.next)
    | (with_reducible refine Keeps.of_ite (fun _ => ?_) (fun _ => ?_))
    | split

theorem execLinkChange_keeps {s0 s : State} {a0 : Fin 2} {a1 : Fin 4} {a2 : Bool} (h : Keeps s0 s) :
    KeepsR s0 (execLinkChange a0 a1 a2 s) := by
  unfold execLinkChange
  repeat' first
    | (with_reducible assumption)
    | (with_reducible apply State.raiseP_keeps)
    | (with_reducible apply State.setSub_keeps)
    | (simp only [Keeps.same])
    | (with_reducible apply KeepsR.next)
    | (with_reducible refine Keeps.of_ite (fun _ => ?_) (fun _ => ?_))

theorem execMarkerSend_keeps {s0 s : State} {a0 : CtxNo} (h : Keeps s0 s) :
    KeepsR s0 (execMarkerSend a0 s) := by
  unfold execMarkerSend
  repeat' first
    | (with_reducible assumption)
    | (with_reducible apply State.sendMarker_keeps)
    | (with_reducible apply KeepsR.next)
    | (with_reducible refine Keeps.of_ite (fun _ => ?_) (fun _ => ?_))
    | split

theorem execPacketDequeue_keeps {s0 s : State} {a0 : Fin 2} {a1 : Fin 4} (h : Keeps s0 s) :
    KeepsR s0 (execPacketDequeue a0 a1 s) := by
  unfold execPacketDequeue
  repeat' first
    | (with_reducible assumption)
    | (with_reducible apply State.sendItem_keeps)
    | (with_reducible apply KeepsR.next)
    | split

theorem execPortControlWrite_keeps {s0 s : State} {a0 : Fin 2} {a1 : Reg32} (h : Keeps s0 s) :
    KeepsR s0 (execPortControlWrite a0 a1 s) := by
  unfold execPortControlWrite
  repeat' first
    | (with_reducible assumption)
    | (with_reducible apply State.portControl_keeps)
    | (with_reducible apply KeepsR.next)
    | (with_reducible refine Keeps.of_ite (fun _ => ?_) (fun _ => ?_))

theorem execQmBookSnap_keeps {s0 s : State} (h : Keeps s0 s) :
    KeepsR s0 (execQmBookSnap s) := by
  unfold execQmBookSnap
  repeat' first
    | (with_reducible assumption)
    | (with_reducible apply State.qmSnap_keeps)
    | (with_reducible apply KeepsR.next)
    | (with_reducible refine Keeps.of_ite (fun _ => ?_) (fun _ => ?_))

theorem execTransmitEnd_keeps {s0 s : State} {a0 : Fin 2} {a1 : Fin 4} (h : Keeps s0 s) :
    KeepsR s0 (execTransmitEnd a0 a1 s) := by
  unfold execTransmitEnd
  repeat' first
    | (with_reducible assumption)
    | (with_reducible apply State.addCnt_keeps)
    | (with_reducible apply State.setSub_keeps)
    | (simp only [Keeps.same])
    | (with_reducible apply KeepsR.next)
    | split

theorem execTransmitRingPoll_keeps {s0 s : State} (h : Keeps s0 s) :
    KeepsR s0 (execTransmitRingPoll s) := by
  unfold execTransmitRingPoll
  repeat' first
    | (with_reducible assumption)
    | (with_reducible apply State.ktxPoll_keeps)
    | (with_reducible apply KeepsR.next)

theorem State.writeIe_keeps {s0 s : State} {a0 : Cpu} {a1 : Bool} (h : Keeps s0 s) :
    KeepsR s0 (State.writeIe a0 a1 s) := by
  unfold State.writeIe
  repeat' first
    | (with_reducible assumption)
    | (with_reducible apply State.instr_keeps)
    | (with_reducible apply State.modCpu_keeps)
    | (simp only [Keeps.same])
    | (refine OpKeeps.noMid (fun _ _ => ?_) (fun _ _ => ?_) rfl)
    | (dsimp only [Op.nop, aluOp, flagOp, pairOp, transferOp, id, dcpDone, dcpFail, State.loadOp, State.storeOp, State.pushOp, State.popOp, State.callOp, State.retOp, State.bitBranchOp, State.bitReadOp, State.bitWriteOp, State.farLoadOp, State.farStoreOp, State.farAtomOp])

theorem execDi_keeps {s0 s : State} {a0 : Cpu} (h : Keeps s0 s) :
    KeepsR s0 (execDi a0 s) := by
  unfold execDi
  repeat' first
    | (with_reducible assumption)
    | (with_reducible apply State.writeIe_keeps)

theorem execEi_keeps {s0 s : State} {a0 : Cpu} (h : Keeps s0 s) :
    KeepsR s0 (execEi a0 s) := by
  unfold execEi
  repeat' first
    | (with_reducible assumption)
    | (with_reducible apply State.writeIe_keeps)

theorem execFence_keeps {s0 s : State} {a0 : Cpu} (h : Keeps s0 s) :
    KeepsR s0 (execFence a0 s) := by
  unfold execFence
  repeat' first
    | (with_reducible assumption)
    | (with_reducible apply State.instr_keeps)
    | (simp only [Keeps.same])
    | (refine OpKeeps.noMid (fun _ _ => ?_) (fun _ _ => ?_) rfl)
    | (dsimp only [Op.nop, aluOp, flagOp, pairOp, transferOp, id, dcpDone, dcpFail, State.loadOp, State.storeOp, State.pushOp, State.popOp, State.callOp, State.retOp, State.bitBranchOp, State.bitReadOp, State.bitWriteOp, State.farLoadOp, State.farStoreOp, State.farAtomOp])

theorem execIntSet_keeps {s0 s : State} {a0 : Cpu} {a1 : Word} (h : Keeps s0 s) :
    KeepsR s0 (execIntSet a0 a1 s) := by
  unfold execIntSet
  repeat' first
    | (with_reducible assumption)
    | (with_reducible apply State.modInt_keeps)
    | (with_reducible apply KeepsR.next)
    | (with_reducible refine Keeps.of_ite (fun _ => ?_) (fun _ => ?_))

theorem execMfst_keeps {s0 s : State} {a0 : Cpu} {a1 : RegNo} (h : Keeps s0 s) :
    KeepsR s0 (execMfst a0 a1 s) := by
  unfold execMfst
  repeat' first
    | (with_reducible assumption)
    | (with_reducible apply State.instr_keeps)
    | (with_reducible apply State.modCpu_keeps)
    | (simp only [Keeps.same])
    | (refine OpKeeps.noMid (fun _ _ => ?_) (fun _ _ => ?_) rfl)
    | (dsimp only [Op.nop, aluOp, flagOp, pairOp, transferOp, id, dcpDone, dcpFail, State.loadOp, State.storeOp, State.pushOp, State.popOp, State.callOp, State.retOp, State.bitBranchOp, State.bitReadOp, State.bitWriteOp, State.farLoadOp, State.farStoreOp, State.farAtomOp])

theorem execMfx_keeps {s0 s : State} {a0 : Cpu} {a1 : RegNo} {a2 : Fin 4} (h : Keeps s0 s) :
    KeepsR s0 (execMfx a0 a1 a2 s) := by
  unfold execMfx
  repeat' first
    | (with_reducible assumption)
    | (with_reducible apply State.instr_keeps)
    | (with_reducible apply State.modCpu_keeps)
    | (simp only [Keeps.same])
    | (refine OpKeeps.noMid (fun _ _ => ?_) (fun _ _ => ?_) rfl)
    | (dsimp only [Op.nop, aluOp, flagOp, pairOp, transferOp, id, dcpDone, dcpFail, State.loadOp, State.storeOp, State.pushOp, State.popOp, State.callOp, State.retOp, State.bitBranchOp, State.bitReadOp, State.bitWriteOp, State.farLoadOp, State.farStoreOp, State.farAtomOp])

theorem execMtst_keeps {s0 s : State} {a0 : Cpu} {a1 : RegNo} (h : Keeps s0 s) :
    KeepsR s0 (execMtst a0 a1 s) := by
  unfold execMtst
  repeat' first
    | (with_reducible assumption)
    | (with_reducible apply State.instr_keeps)
    | (with_reducible apply State.modCpu_keeps)
    | (simp only [Keeps.same])
    | (refine OpKeeps.noMid (fun _ _ => ?_) (fun _ _ => ?_) rfl)
    | (dsimp only [Op.nop, aluOp, flagOp, pairOp, transferOp, id, dcpDone, dcpFail, State.loadOp, State.storeOp, State.pushOp, State.popOp, State.callOp, State.retOp, State.bitBranchOp, State.bitReadOp, State.bitWriteOp, State.farLoadOp, State.farStoreOp, State.farAtomOp])

theorem execMtx_keeps {s0 s : State} {a0 : Cpu} {a1 : Fin 4} {a2 : RegNo} (h : Keeps s0 s) :
    KeepsR s0 (execMtx a0 a1 a2 s) := by
  unfold execMtx
  repeat' first
    | (with_reducible assumption)
    | (with_reducible apply State.instr_keeps)
    | (with_reducible apply State.modCpu_keeps)
    | (simp only [Keeps.same])
    | (refine OpKeeps.noMid (fun _ _ => ?_) (fun _ _ => ?_) rfl)
    | (dsimp only [Op.nop, aluOp, flagOp, pairOp, transferOp, id, dcpDone, dcpFail, State.loadOp, State.storeOp, State.pushOp, State.popOp, State.callOp, State.retOp, State.bitBranchOp, State.bitReadOp, State.bitWriteOp, State.farLoadOp, State.farStoreOp, State.farAtomOp])

theorem execNop_keeps {s0 s : State} {a0 : Cpu} (h : Keeps s0 s) :
    KeepsR s0 (execNop a0 s) := by
  unfold execNop
  repeat' first
    | (with_reducible assumption)
    | (with_reducible apply State.instr_keeps)
    | (refine OpKeeps.noMid (fun _ _ => ?_) (fun _ _ => ?_) rfl)
    | (dsimp only [Op.nop, aluOp, flagOp, pairOp, transferOp, id, dcpDone, dcpFail, State.loadOp, State.storeOp, State.pushOp, State.popOp, State.callOp, State.retOp, State.bitBranchOp, State.bitReadOp, State.bitWriteOp, State.farLoadOp, State.farStoreOp, State.farAtomOp])

theorem execPop_keeps {s0 s : State} {a0 : Cpu} {a1 : RegNo} (h : Keeps s0 s) :
    KeepsR s0 (execPop a0 a1 s) := by
  unfold execPop
  repeat' first
    | (with_reducible assumption)
    | (with_reducible apply State.dLoad_keeps)
    | (with_reducible apply State.instr_keeps)
    | (with_reducible apply State.modCpu_keeps)
    | (simp only [Keeps.same])
    | (with_reducible refine Keeps.of_pair ‹_ = (_, _)› ?_)
    | (refine OpKeeps.noMid (fun _ _ => ?_) (fun _ _ => ?_) rfl)
    | (dsimp only [Op.nop, aluOp, flagOp, pairOp, transferOp, id, dcpDone, dcpFail, State.loadOp, State.storeOp, State.pushOp, State.popOp, State.callOp, State.retOp, State.bitBranchOp, State.bitReadOp, State.bitWriteOp, State.farLoadOp, State.farStoreOp, State.farAtomOp])
    | split

theorem execPush_keeps {s0 s : State} {a0 : Cpu} {a1 : RegNo} (h : Keeps s0 s) :
    KeepsR s0 (execPush a0 a1 s) := by
  unfold execPush
  repeat' first
    | (with_reducible assumption)
    | (with_reducible apply State.clearEarly_keeps)
    | (with_reducible apply State.dStore_keeps)
    | (with_reducible apply State.instr_keeps)
    | (with_reducible apply State.modCpu_keeps)
    | (refine OpKeeps.noMid (fun _ _ => ?_) (fun _ _ => ?_) rfl)
    | (with_reducible refine Keeps.of_ite (fun _ => ?_) (fun _ => ?_))
    | (dsimp only [Op.nop, aluOp, flagOp, pairOp, transferOp, id, dcpDone, dcpFail, State.loadOp, State.storeOp, State.pushOp, State.popOp, State.callOp, State.retOp, State.bitBranchOp, State.bitReadOp, State.bitWriteOp, State.farLoadOp, State.farStoreOp, State.farAtomOp])

theorem execTimerArm_keeps {s0 s : State} {a0 : Cpu} {a1 : Fin 2} {a2 : Word} (h : Keeps s0 s) :
    KeepsR s0 (execTimerArm a0 a1 a2 s) := by
  unfold execTimerArm
  repeat' first
    | (with_reducible assumption)
    | (with_reducible apply State.modInt_keeps)
    | (with_reducible apply KeepsR.next)
    | (with_reducible refine Keeps.of_ite (fun _ => ?_) (fun _ => ?_))

theorem execTimerExpiry_keeps {s0 s : State} {a0 : Cpu} {a1 : Fin 2} (h : Keeps s0 s) :
    KeepsR s0 (execTimerExpiry a0 a1 s) := by
  unfold execTimerExpiry
  repeat' first
    | (with_reducible assumption)
    | (with_reducible apply State.passIdle_keeps)
    | (with_reducible apply State.waitCycles_keeps)
    | (simp only [Keeps.same])
    | (with_reducible apply KeepsR.next)
    | (with_reducible refine Keeps.of_ite (fun _ => ?_) (fun _ => ?_))
    | split

theorem execTimerStart_keeps {s0 s : State} {a0 : Cpu} {a1 : Fin 2} (h : Keeps s0 s) :
    KeepsR s0 (execTimerStart a0 a1 s) := by
  unfold execTimerStart
  repeat' first
    | (with_reducible assumption)
    | (with_reducible apply State.modSes_keeps)
    | (with_reducible apply State.passIdle_keeps)
    | (simp only [Keeps.same])
    | (with_reducible apply KeepsR.next)
    | (with_reducible refine Keeps.of_ite (fun _ => ?_) (fun _ => ?_))
    | split

theorem State.readStored_keeps {s0 s : State} {a0 : Nat} (h : Keeps s0 s) :
    Keeps s0 (State.readStored a0 s).1 := by
  unfold State.readStored
  repeat' first
    | (with_reducible assumption)
    | (with_reducible apply State.setReg_keeps)
    | (simp only [Keeps.same])
    | (with_reducible refine Keeps.of_ite (fun _ => ?_) (fun _ => ?_))

end Sys2Proof.Machine
end

