-- ==== Sys2Proof/Laws/Kept12.lean ====
section
/-! SUPPORT. What the operations of the block keep, part 12 of 14: each leaves the queue, the part and what was sent,
uses free values up in order, and keeps a sound state sound (the relation of Laws/Keeps.lean). -/

set_option linter.all false

namespace Sys2Proof.Machine

open Sys2Proof

theorem State.shows_keeps {s0 s : State} {a0 : Nat} (h : Keeps s0 s) :
    Keeps s0 (State.shows a0 s).1 := by
  unfold State.shows
  repeat' first
    | (with_reducible assumption)

theorem State.alogReadReg_keeps {s0 s : State} {a0 : Nat} (h : Keeps s0 s) :
    Keeps s0 (State.alogReadReg a0 s).1 := by
  unfold State.alogReadReg
  repeat' first
    | (with_reducible assumption)
    | (with_reducible apply State.readStored_keeps)
    | (with_reducible apply State.shows_keeps)
    | (with_reducible refine Keeps.of_iteP (fun _ => ?_) (fun _ => ?_))

theorem State.alogWriteReg_keeps {s0 s : State} {a0 : Byte} {a1 a2 : Nat} (h : Keeps s0 s) :
    Keeps s0 (State.alogWriteReg a0 a1 a2 s) := by
  unfold State.alogWriteReg
  repeat' first
    | (with_reducible assumption)
    | (with_reducible apply State.alogWrite_keeps)
    | (with_reducible apply State.writeReg_keeps)
    | (simp only [Keeps.same])
    | (with_reducible refine Keeps.of_ite (fun _ => ?_) (fun _ => ?_))

theorem State.read64_keeps {s0 s : State} {a0 a1 : Nat} (h : Keeps s0 s) :
    Keeps s0 (State.read64 a0 a1 s).1 := by
  unfold State.read64
  repeat' first
    | (with_reducible assumption)
    | (simp only [Keeps.same])
    | (with_reducible refine Keeps.of_iteP (fun _ => ?_) (fun _ => ?_))

theorem State.replied_keeps {s0 s : State} (h : Keeps s0 s) :
    Keeps s0 (State.replied s).1 := by
  unfold State.replied
  repeat' first
    | (with_reducible assumption)

theorem State.bscReadReg_keeps {s0 s : State} {a0 : Nat} (h : Keeps s0 s) :
    Keeps s0 (State.bscReadReg a0 s).1 := by
  unfold State.bscReadReg
  repeat' first
    | (with_reducible assumption)
    | (with_reducible apply State.haltRead_keeps)
    | (with_reducible apply State.read64_keeps)
    | (with_reducible apply State.readStored_keeps)
    | (with_reducible apply State.replied_keeps)
    | (with_reducible apply State.shows_keeps)
    | (with_reducible apply State.slipRead_keeps)
    | (simp only [Keeps.same])
    | (with_reducible refine Keeps.of_iteP (fun _ => ?_) (fun _ => ?_))

theorem State.portOp_keeps {s0 s : State} {a0 : Fin 4} {a1 : Nat} (h : Keeps s0 s) :
    Keeps s0 (State.portOp a0 a1 s) := by
  unfold State.portOp
  repeat' first
    | (with_reducible assumption)
    | (with_reducible apply State.admitAt_keeps)
    | (with_reducible apply State.command_keeps)
    | (with_reducible apply State.createAt_keeps)
    | (with_reducible apply State.exportAt_keeps)
    | (with_reducible apply State.importAt_keeps)
    | (with_reducible apply State.releaseCtx_keeps)
    | (with_reducible apply State.retireAt_keeps)
    | (with_reducible apply State.returnAt_keeps)
    | (with_reducible apply State.snapAt_keeps)
    | (with_reducible apply State.suspendAt_keeps)
    | (simp only [Keeps.same])
    | (with_reducible refine Keeps.of_ite (fun _ => ?_) (fun _ => ?_))

theorem State.bscWriteReg_keeps {s0 s : State} {a0 a1 : Nat} (h : Keeps s0 s) :
    Keeps s0 (State.bscWriteReg a0 a1 s) := by
  unfold State.bscWriteReg
  repeat' first
    | (with_reducible assumption)
    | (with_reducible apply State.modPort_keeps)
    | (with_reducible apply State.placeQuery_keeps)
    | (with_reducible apply State.portOp_keeps)
    | (with_reducible apply State.snapBooks_keeps)
    | (with_reducible apply State.writeReg_keeps)
    | (simp only [Keeps.same])
    | (with_reducible refine Keeps.of_ite (fun _ => ?_) (fun _ => ?_))

theorem State.clkReadReg_keeps {s0 s : State} {a0 : Nat} (h : Keeps s0 s) :
    Keeps s0 (State.clkReadReg a0 s).1 := by
  unfold State.clkReadReg
  repeat' first
    | (with_reducible assumption)
    | (with_reducible apply State.readStored_keeps)
    | (with_reducible apply State.shows_keeps)
    | (with_reducible apply State.timeRead_keeps)
    | (with_reducible refine Keeps.of_iteP (fun _ => ?_) (fun _ => ?_))

theorem State.clkWriteReg_keeps {s0 s : State} {a0 a1 : Nat} (h : Keeps s0 s) :
    Keeps s0 (State.clkWriteReg a0 a1 s) := by
  unfold State.clkWriteReg
  repeat' first
    | (with_reducible assumption)
    | (with_reducible apply State.adjust_keeps)
    | (with_reducible apply State.pherr_keeps)
    | (with_reducible apply State.retrim_keeps)
    | (with_reducible apply State.writeInteg_keeps)
    | (with_reducible apply State.writeReg_keeps)
    | (simp only [Keeps.same])
    | (with_reducible refine Keeps.of_ite (fun _ => ?_) (fun _ => ?_))

theorem State.clsReadReg_keeps {s0 s : State} {a0 : Nat} (h : Keeps s0 s) :
    Keeps s0 (State.clsReadReg a0 s).1 := by
  unfold State.clsReadReg
  repeat' first
    | (with_reducible assumption)
    | (with_reducible apply State.readStored_keeps)
    | (with_reducible apply State.replied_keeps)
    | (with_reducible apply State.shows_keeps)
    | (with_reducible apply State.wakeRead_keeps)
    | (with_reducible refine Keeps.of_iteP (fun _ => ?_) (fun _ => ?_))

theorem State.clsWriteReg_keeps {s0 s : State} {a0 a1 : Nat} (h : Keeps s0 s) :
    Keeps s0 (State.clsWriteReg a0 a1 s) := by
  unfold State.clsWriteReg
  repeat' first
    | (with_reducible assumption)
    | (with_reducible apply State.flowRead_keeps)
    | (with_reducible apply State.flowWrite_keeps)
    | (with_reducible apply State.setReg_keeps)
    | (with_reducible apply State.writeReg_keeps)
    | (simp only [Keeps.same])
    | (with_reducible refine Keeps.of_ite (fun _ => ?_) (fun _ => ?_))

theorem State.credSnap_keeps {s0 s : State} {a0 : Nat} (h : Keeps s0 s) :
    Keeps s0 (State.credSnap a0 s) := by
  unfold State.credSnap
  refine Keeps.foldl (fun z e hz => ?_) _ h
  exact hz.upd rfl rfl (Nat.le_succ _) (List.suffix_refl _) (fun i => ⟨i.mem, i.bad, i.wake, i.slip, i.halt, i.mbq, i.quar⟩)

theorem State.ctxReadReg_keeps {s0 s : State} {a0 : Byte} {a1 : Nat} (h : Keeps s0 s) :
    Keeps s0 (State.ctxReadReg a0 a1 s).1 := by
  unfold State.ctxReadReg
  repeat' first
    | (with_reducible assumption)
    | (with_reducible apply State.latchRead_keeps)

theorem State.ctxWriteReg_keeps {s0 s : State} {a0 : Byte} {a1 a2 : Nat} (h : Keeps s0 s) :
    Keeps s0 (State.ctxWriteReg a0 a1 a2 s) := by
  unfold State.ctxWriteReg
  repeat' first
    | (with_reducible assumption)
    | (with_reducible apply State.contextEntryWrite_keeps)

theorem State.curReadReg_keeps {s0 s : State} {a0 : Nat} (h : Keeps s0 s) :
    Keeps s0 (State.curReadReg a0 s).1 := by
  unfold State.curReadReg
  repeat' first
    | (with_reducible assumption)
    | (with_reducible apply State.clearStall_keeps)
    | (with_reducible apply State.quarRead_keeps)
    | (with_reducible apply State.readStored_keeps)
    | (with_reducible apply State.shows_keeps)
    | (with_reducible refine Keeps.of_iteP (fun _ => ?_) (fun _ => ?_))

theorem State.curWriteReg_keeps {s0 s : State} {a0 : Byte} {a1 a2 : Nat} (h : Keeps s0 s) :
    Keeps s0 (State.curWriteReg a0 a1 a2 s) := by
  unfold State.curWriteReg
  repeat' first
    | (with_reducible assumption)
    | (with_reducible apply State.curOp_keeps)
    | (with_reducible apply State.curSnap_keeps)
    | (with_reducible apply State.writeReg_keeps)
    | (with_reducible refine Keeps.of_ite (fun _ => ?_) (fun _ => ?_))
    | split

theorem State.dicReadReg_keeps {s0 s : State} {a0 : Nat} (h : Keeps s0 s) :
    Keeps s0 (State.dicReadReg a0 s).1 := by
  unfold State.dicReadReg
  repeat' first
    | (with_reducible assumption)
    | (with_reducible apply State.dicClaim_keeps)
    | (with_reducible apply State.readStored_keeps)
    | (with_reducible apply State.shows_keeps)
    | (simp only [Keeps.same])
    | (with_reducible refine Keeps.of_iteP (fun _ => ?_) (fun _ => ?_))

theorem State.dicWriteReg_keeps {s0 s : State} {a0 a1 : Nat} (h : Keeps s0 s) :
    Keeps s0 (State.dicWriteReg a0 a1 s) := by
  unfold State.dicWriteReg
  repeat' first
    | (with_reducible assumption)
    | (with_reducible apply State.dicComplete_keeps)
    | (with_reducible apply State.dicConfig_keeps)
    | (with_reducible apply State.dicSettle_keeps)
    | (with_reducible apply State.dicSwset_keeps)
    | (with_reducible apply State.groupConfig_keeps)
    | (with_reducible apply State.writeReg_keeps)
    | (simp only [Keeps.same])
    | (with_reducible refine Keeps.of_ite (fun _ => ?_) (fun _ => ?_))

theorem State.fecRises_keeps {s0 s : State} {a0 : Nat} (h : Keeps s0 s) :
    Keeps s0 (State.fecRises a0 s) := by
  unfold State.fecRises
  repeat' first
    | (with_reducible assumption)
    | (with_reducible apply State.addCnt_keeps)
    | (with_reducible apply State.spend_keeps)
    | (with_reducible refine Keeps.of_ite (fun _ => ?_) (fun _ => ?_))

theorem State.ethReadReg_keeps {s0 s : State} {a0 : Nat} (h : Keeps s0 s) :
    Keeps s0 (State.ethReadReg a0 s).1 := by
  unfold State.ethReadReg
  repeat' first
    | (with_reducible assumption)
    | (with_reducible apply State.fecRises_keeps)
    | (with_reducible apply State.read64_keeps)
    | (with_reducible apply State.readStored_keeps)
    | (with_reducible apply State.shows_keeps)
    | (simp only [Keeps.same])
    | (with_reducible refine Keeps.of_iteP (fun _ => ?_) (fun _ => ?_))

theorem State.ethWriteReg_keeps {s0 s : State} {a0 a1 : Nat} (h : Keeps s0 s) :
    Keeps s0 (State.ethWriteReg a0 a1 s) := by
  unfold State.ethWriteReg
  repeat' first
    | (with_reducible assumption)
    | (with_reducible apply State.portControl_keeps)
    | (with_reducible apply State.writeReg_keeps)
    | (with_reducible refine Keeps.of_ite (fun _ => ?_) (fun _ => ?_))

theorem State.gpioReadReg_keeps {s0 s : State} {a0 : Nat} (h : Keeps s0 s) :
    Keeps s0 (State.gpioReadReg a0 s).1 := by
  unfold State.gpioReadReg
  repeat' first
    | (with_reducible assumption)
    | (with_reducible apply State.readStored_keeps)
    | (with_reducible apply State.shows_keeps)
    | (with_reducible apply State.uartTake_keeps)
    | (simp only [Keeps.same])
    | (with_reducible refine Keeps.of_iteP (fun _ => ?_) (fun _ => ?_))

theorem State.gpioWriteReg_keeps {s0 s : State} {a0 a1 : Nat} (h : Keeps s0 s) :
    Keeps s0 (State.gpioWriteReg a0 a1 s) := by
  unfold State.gpioWriteReg
  repeat' first
    | (with_reducible assumption)
    | (with_reducible apply State.cfgWrite_keeps)
    | (with_reducible apply State.gpioEnWrite_keeps)
    | (with_reducible apply State.gpioWrite_keeps)
    | (with_reducible apply State.i2cGo_keeps)
    | (with_reducible apply State.padsSettle_keeps)
    | (with_reducible apply State.uartLevel_keeps)
    | (with_reducible apply State.uartPut_keeps)
    | (with_reducible apply State.writeReg_keeps)
    | (simp only [Keeps.same])
    | (with_reducible refine Keeps.of_ite (fun _ => ?_) (fun _ => ?_))

theorem State.hctrlWrite_keeps {s0 s : State} {a0 : Nat} (h : Keeps s0 s) :
    Keeps s0 (State.hctrlWrite a0 s) := by
  unfold State.hctrlWrite
  repeat' first
    | (with_reducible assumption)
    | (with_reducible apply State.plinthReset_keeps)
    | (with_reducible apply State.plinthRun_keeps)
    | (with_reducible apply State.setReg_keeps)
    | (with_reducible apply State.spend_keeps)
    | (simp only [Keeps.same])
    | (with_reducible refine Keeps.of_ite (fun _ => ?_) (fun _ => ?_))

theorem State.kprReadReg_keeps {s0 s : State} {a0 : Byte} {a1 : Nat} (h : Keeps s0 s) :
    Keeps s0 (State.kprReadReg a0 a1 s).1 := by
  unfold State.kprReadReg
  repeat' first
    | (with_reducible assumption)
    | (with_reducible apply State.claimRead_keeps)
    | (with_reducible apply State.mbqRead_keeps)
    | (with_reducible apply State.readStored_keeps)
    | (with_reducible apply State.shows_keeps)
    | (simp only [Keeps.same])
    | (with_reducible refine Keeps.of_iteP (fun _ => ?_) (fun _ => ?_))

theorem State.kprWriteReg_keeps {s0 s : State} {a0 : Byte} {a1 a2 : Nat} (h : Keeps s0 s) :
    Keeps s0 (State.kprWriteReg a0 a1 a2 s) := by
  unfold State.kprWriteReg
  repeat' first
    | (with_reducible assumption)
    | (with_reducible apply State.claimFree_keeps)
    | (with_reducible apply State.kprRun_keeps)
    | (with_reducible apply State.wdKick_keeps)
    | (with_reducible apply State.wdWrite_keeps)
    | (with_reducible apply State.writeReg_keeps)
    | (simp only [Keeps.same])
    | (with_reducible refine Keeps.of_ite (fun _ => ?_) (fun _ => ?_))

theorem State.loamReadReg_keeps {s0 s : State} {a0 a1 : Nat} (h : Keeps s0 s) :
    Keeps s0 (State.loamReadReg a0 a1 s).1 := by
  unfold State.loamReadReg
  repeat' first
    | (with_reducible assumption)
    | (with_reducible apply State.readStored_keeps)
    | (with_reducible apply State.shows_keeps)
    | (simp only [Keeps.same])
    | (with_reducible refine Keeps.of_iteP (fun _ => ?_) (fun _ => ?_))
    | split

theorem State.loamWriteReg_keeps {s0 s : State} {a0 a1 a2 : Nat} (h : Keeps s0 s) :
    Keeps s0 (State.loamWriteReg a0 a1 a2 s) := by
  unfold State.loamWriteReg
  repeat' first
    | (with_reducible assumption)
    | (with_reducible apply State.credSnap_keeps)
    | (with_reducible apply State.writeReg_keeps)
    | (simp only [Keeps.same])
    | (with_reducible refine Keeps.of_ite (fun _ => ?_) (fun _ => ?_))

theorem State.mbReadReg_keeps {s0 s : State} {a0 a1 : Nat} (h : Keeps s0 s) :
    Keeps s0 (State.mbReadReg a0 a1 s).1 := by
  unfold State.mbReadReg
  repeat' first
    | (with_reducible assumption)
    | (with_reducible apply State.mailRead_keeps)
    | (with_reducible apply State.shows_keeps)
    | (with_reducible refine Keeps.of_iteP (fun _ => ?_) (fun _ => ?_))
    | split

theorem State.mbWriteReg_keeps {s0 s : State} {a0 a1 a2 : Nat} (h : Keeps s0 s) :
    Keeps s0 (State.mbWriteReg a0 a1 a2 s) := by
  unfold State.mbWriteReg
  repeat' first
    | (with_reducible assumption)
    | (with_reducible apply State.mailCommit_keeps)
    | (with_reducible apply State.mailLow_keeps)
    | (with_reducible refine Keeps.of_ite (fun _ => ?_) (fun _ => ?_))

theorem State.monReadReg_keeps {s0 s : State} {a0 : Nat} (h : Keeps s0 s) :
    Keeps s0 (State.monReadReg a0 s).1 := by
  unfold State.monReadReg
  repeat' first
    | (with_reducible assumption)
    | (with_reducible apply State.readStored_keeps)
    | (with_reducible apply State.shows_keeps)
    | (simp only [Keeps.same])
    | (with_reducible refine Keeps.of_iteP (fun _ => ?_) (fun _ => ?_))

theorem State.monWriteReg_keeps {s0 s : State} {a0 a1 : Nat} (h : Keeps s0 s) :
    Keeps s0 (State.monWriteReg a0 a1 s) := by
  unfold State.monWriteReg
  repeat' first
    | (with_reducible assumption)
    | (with_reducible apply State.monCommit_keeps)
    | (with_reducible apply State.monEnable_keeps)
    | (with_reducible apply State.writeReg_keeps)
    | (simp only [Keeps.same])
    | (with_reducible refine Keeps.of_ite (fun _ => ?_) (fun _ => ?_))

theorem State.nvReadReg_keeps {s0 s : State} {a0 : Byte} {a1 : Nat} (h : Keeps s0 s) :
    Keeps s0 (State.nvReadReg a0 a1 s).1 := by
  unfold State.nvReadReg
  repeat' first
    | (with_reducible assumption)
    | (with_reducible apply State.readStored_keeps)
    | (with_reducible apply State.shows_keeps)
    | (with_reducible refine Keeps.of_iteP (fun _ => ?_) (fun _ => ?_))

theorem State.nvWriteReg_keeps {s0 s : State} {a0 : Byte} {a1 a2 : Nat} (h : Keeps s0 s) :
    Keeps s0 (State.nvWriteReg a0 a1 a2 s) := by
  unfold State.nvWriteReg
  repeat' first
    | (with_reducible assumption)
    | (with_reducible apply State.nvOffer_keeps)
    | (with_reducible apply State.writeReg_keeps)
    | (with_reducible refine Keeps.of_ite (fun _ => ?_) (fun _ => ?_))

theorem State.plnReadReg_keeps {s0 s : State} {a0 : Nat} (h : Keeps s0 s) :
    Keeps s0 (State.plnReadReg a0 s).1 := by
  unfold State.plnReadReg
  repeat' first
    | (with_reducible assumption)
    | (with_reducible apply State.readStored_keeps)
    | (with_reducible apply State.shows_keeps)
    | (with_reducible refine Keeps.of_iteP (fun _ => ?_) (fun _ => ?_))

theorem State.plnWriteReg_keeps {s0 s : State} {a0 a1 : Nat} (h : Keeps s0 s) :
    Keeps s0 (State.plnWriteReg a0 a1 s) := by
  unfold State.plnWriteReg
  repeat' first
    | (with_reducible assumption)
    | (with_reducible apply State.hctrlWrite_keeps)
    | (with_reducible apply State.plnDbell_keeps)
    | (with_reducible apply State.writeReg_keeps)
    | (with_reducible refine Keeps.of_ite (fun _ => ?_) (fun _ => ?_))

theorem State.pwrReadReg_keeps {s0 s : State} {a0 : Nat} (h : Keeps s0 s) :
    Keeps s0 (State.pwrReadReg a0 s).1 := by
  unfold State.pwrReadReg
  repeat' first
    | (with_reducible assumption)
    | (with_reducible apply State.readStored_keeps)
    | (with_reducible apply State.shows_keeps)
    | (with_reducible apply State.spend_keeps)
    | (simp only [Keeps.same])
    | (with_reducible refine Keeps.of_iteP (fun _ => ?_) (fun _ => ?_))

theorem State.pwrWriteReg_keeps {s0 s : State} {a0 : Byte} {a1 a2 : Nat} (h : Keeps s0 s) :
    Keeps s0 (State.pwrWriteReg a0 a1 a2 s) := by
  unfold State.pwrWriteReg
  repeat' first
    | (with_reducible assumption)
    | (with_reducible apply State.powerRequest_keeps)
    | (with_reducible apply State.pwrDie_keeps)
    | (with_reducible apply State.swReset_keeps)
    | (with_reducible apply State.writeReg_keeps)
    | (with_reducible refine Keeps.of_ite (fun _ => ?_) (fun _ => ?_))

theorem State.qmReadReg_keeps {s0 s : State} {a0 : Nat} (h : Keeps s0 s) :
    Keeps s0 (State.qmReadReg a0 s).1 := by
  unfold State.qmReadReg
  repeat' first
    | (with_reducible assumption)
    | (with_reducible apply State.readStored_keeps)
    | (with_reducible apply State.shows_keeps)
    | (with_reducible refine Keeps.of_iteP (fun _ => ?_) (fun _ => ?_))

theorem State.qmWriteReg_keeps {s0 s : State} {a0 a1 : Nat} (h : Keeps s0 s) :
    Keeps s0 (State.qmWriteReg a0 a1 s) := by
  unfold State.qmWriteReg
  repeat' first
    | (with_reducible assumption)
    | (with_reducible apply State.controlPush_keeps)
    | (with_reducible apply State.qmSnap_keeps)
    | (with_reducible apply State.writeReg_keeps)
    | (with_reducible refine Keeps.of_ite (fun _ => ?_) (fun _ => ?_))

theorem State.schReadReg_keeps {s0 s : State} {a0 a1 : Nat} (h : Keeps s0 s) :
    Keeps s0 (State.schReadReg a0 a1 s).1 := by
  unfold State.schReadReg
  repeat' first
    | (with_reducible assumption)
    | (with_reducible apply State.readStored_keeps)
    | (with_reducible apply State.shows_keeps)
    | (simp only [Keeps.same])
    | (with_reducible refine Keeps.of_iteP (fun _ => ?_) (fun _ => ?_))

theorem State.tapReadReg_keeps {s0 s : State} {a0 : Nat} (h : Keeps s0 s) :
    Keeps s0 (State.tapReadReg a0 s).1 := by
  unfold State.tapReadReg
  repeat' first
    | (with_reducible assumption)
    | (with_reducible apply State.readStored_keeps)
    | (with_reducible apply State.shows_keeps)
    | (with_reducible refine Keeps.of_iteP (fun _ => ?_) (fun _ => ?_))

theorem State.titleReadReg_keeps {s0 s : State} {a0 : Byte} {a1 : Nat} (h : Keeps s0 s) :
    Keeps s0 (State.titleReadReg a0 a1 s).1 := by
  unfold State.titleReadReg
  repeat' first
    | (with_reducible assumption)
    | (with_reducible apply State.latchRead_keeps)

theorem State.regRead_keeps {s0 s : State} {a0 : Byte} {a1 : Nat} (h : Keeps s0 s) :
    Keeps s0 (State.regRead a0 a1 s).1 := by
  unfold State.regRead
  repeat' first
    | (with_reducible assumption)
    | (with_reducible apply State.alogReadReg_keeps)
    | (with_reducible apply State.bscReadReg_keeps)
    | (with_reducible apply State.clkReadReg_keeps)
    | (with_reducible apply State.clsReadReg_keeps)
    | (with_reducible apply State.ctxReadReg_keeps)
    | (with_reducible apply State.curReadReg_keeps)
    | (with_reducible apply State.dicReadReg_keeps)
    | (with_reducible apply State.ethReadReg_keeps)
    | (with_reducible apply State.gpioReadReg_keeps)
    | (with_reducible apply State.kprReadReg_keeps)
    | (with_reducible apply State.loamReadReg_keeps)
    | (with_reducible apply State.mbReadReg_keeps)
    | (with_reducible apply State.monReadReg_keeps)
    | (with_reducible apply State.nvReadReg_keeps)
    | (with_reducible apply State.plnReadReg_keeps)
    | (with_reducible apply State.pwrReadReg_keeps)
    | (with_reducible apply State.qmReadReg_keeps)
    | (with_reducible apply State.readStored_keeps)
    | (with_reducible apply State.schReadReg_keeps)
    | (with_reducible apply State.shows_keeps)
    | (with_reducible apply State.tapReadReg_keeps)
    | (with_reducible apply State.titleReadReg_keeps)
    | (simp only [Keeps.same])
    | (with_reducible refine Keeps.of_iteP (fun _ => ?_) (fun _ => ?_))

theorem State.schWriteReg_keeps {s0 s : State} {a0 a1 a2 : Nat} (h : Keeps s0 s) :
    Keeps s0 (State.schWriteReg a0 a1 a2 s) := by
  unfold State.schWriteReg
  repeat' first
    | (with_reducible assumption)
    | (with_reducible apply State.periodCommit_keeps)
    | (with_reducible apply State.phaseWrite_keeps)
    | (with_reducible apply State.writeReg_keeps)
    | (with_reducible refine Keeps.of_ite (fun _ => ?_) (fun _ => ?_))

theorem State.strWriteReg_keeps {s0 s : State} {a0 a1 a2 : Nat} (h : Keeps s0 s) :
    Keeps s0 (State.strWriteReg a0 a1 a2 s) := by
  unfold State.strWriteReg
  repeat' first
    | (with_reducible assumption)
    | (with_reducible apply State.writeReg_keeps)
    | (with_reducible refine Keeps.of_ite (fun _ => ?_) (fun _ => ?_))

theorem State.tapWriteReg_keeps {s0 s : State} {a0 a1 : Nat} (h : Keeps s0 s) :
    Keeps s0 (State.tapWriteReg a0 a1 s) := by
  unfold State.tapWriteReg
  repeat' first
    | (with_reducible assumption)
    | (with_reducible apply State.setRegField_keeps)
    | (with_reducible apply State.writeReg_keeps)
    | (with_reducible refine Keeps.of_ite (fun _ => ?_) (fun _ => ?_))

theorem State.titleWriteReg_keeps {s0 s : State} {a0 : Byte} {a1 a2 : Nat} (h : Keeps s0 s) :
    Keeps s0 (State.titleWriteReg a0 a1 a2 s) := by
  unfold State.titleWriteReg
  repeat' first
    | (with_reducible assumption)
    | (with_reducible apply State.titleEntryWrite_keeps)

theorem State.regWrite_keeps {s0 s : State} {a0 : Byte} {a1 a2 : Nat} (h : Keeps s0 s) :
    Keeps s0 (State.regWrite a0 a1 a2 s) := by
  unfold State.regWrite
  repeat' first
    | (with_reducible assumption)
    | (with_reducible apply State.alogWriteReg_keeps)
    | (with_reducible apply State.bscWriteReg_keeps)
    | (with_reducible apply State.clkWriteReg_keeps)
    | (with_reducible apply State.clsWriteReg_keeps)
    | (with_reducible apply State.ctxWriteReg_keeps)
    | (with_reducible apply State.curWriteReg_keeps)
    | (with_reducible apply State.dicWriteReg_keeps)
    | (with_reducible apply State.ethWriteReg_keeps)
    | (with_reducible apply State.gpioWriteReg_keeps)
    | (with_reducible apply State.kprWriteReg_keeps)
    | (with_reducible apply State.loamWriteReg_keeps)
    | (with_reducible apply State.mbWriteReg_keeps)
    | (with_reducible apply State.monWriteReg_keeps)
    | (with_reducible apply State.nvWriteReg_keeps)
    | (with_reducible apply State.plnWriteReg_keeps)
    | (with_reducible apply State.pwrWriteReg_keeps)
    | (with_reducible apply State.qmWriteReg_keeps)
    | (with_reducible apply State.schWriteReg_keeps)
    | (with_reducible apply State.setBytes_keeps)
    | (with_reducible apply State.strWriteReg_keeps)
    | (with_reducible apply State.tapWriteReg_keeps)
    | (with_reducible apply State.titleWriteReg_keeps)
    | (simp only [Keeps.same])
    | (with_reducible refine Keeps.of_ite (fun _ => ?_) (fun _ => ?_))

theorem execLoamCredsnap_keeps {s0 s : State} {a0 : Fin 3} (h : Keeps s0 s) :
    KeepsR s0 (execLoamCredsnap a0 s) := by
  unfold execLoamCredsnap
  repeat' first
    | (with_reducible assumption)
    | (with_reducible apply State.credSnap_keeps)
    | (with_reducible apply KeepsR.next)
    | (with_reducible refine Keeps.of_ite (fun _ => ?_) (fun _ => ?_))

theorem execRegisterWrite_keeps {s0 s : State} {a0 : RegTarget} (h : Keeps s0 s) :
    KeepsR s0 (execRegisterWrite a0 s) := by
  unfold execRegisterWrite
  repeat' first
    | (with_reducible assumption)
    | (with_reducible apply State.dStore_keeps)
    | (with_reducible apply State.regWrite_keeps)
    | (with_reducible apply KeepsR.next)
    | (with_reducible refine Keeps.of_ite (fun _ => ?_) (fun _ => ?_))
    | split

theorem State.acceptReturn_keeps {s0 s : State} {a0 : Nat} {a1 : TapSent} {a2 : TapBuf} (h : Keeps s0 s) :
    Keeps s0 (State.acceptReturn a0 a1 a2 s) := by
  unfold State.acceptReturn
  repeat' first
    | (with_reducible assumption)
    | (with_reducible apply State.measureLead_keeps)
    | (with_reducible apply State.modSlot_keeps)
    | (simp only [Keeps.same])
    | (with_reducible refine Keeps.of_ite (fun _ => ?_) (fun _ => ?_))

theorem State.putTap_keeps {s0 s : State} {a0 : Nat} {a1 : TapItem} (h : Keeps s0 s) :
    Keeps s0 (State.putTap a0 a1 s) := by
  unfold State.putTap
  repeat' first
    | (with_reducible assumption)
    | (with_reducible apply State.countReg_keeps)
    | (with_reducible apply State.doorbell_keeps)
    | (with_reducible apply State.send_keeps)
    | (simp only [Keeps.same])
    | (with_reducible refine Keeps.of_ite (fun _ => ?_) (fun _ => ?_))

theorem State.tapItem_keeps {s0 s : State} {a0 : Nat} (h : Keeps s0 s) :
    Keeps s0 (State.tapItem a0 s) := by
  unfold State.tapItem
  repeat' first
    | (with_reducible assumption)
    | (with_reducible apply State.modSlot_keeps)
    | (with_reducible apply State.putTap_keeps)
    | (simp only [Keeps.same])
    | (with_reducible refine Keeps.of_ite (fun _ => ?_) (fun _ => ?_))
    | split

theorem State.tapReturn_keeps {s0 s : State} {a0 : Fin 4} {a1 : List Word} (h : Keeps s0 s) :
    Keeps s0 (State.tapReturn a0 a1 s).2 := by
  unfold State.tapReturn
  repeat' first
    | (with_reducible assumption)
    | (with_reducible apply State.acceptReturn_keeps)
    | (simp only [Keeps.same])
    | (with_reducible refine Keeps.of_iteF (fun _ => ?_) (fun _ => ?_))
    | split

theorem execTapItem_keeps {s0 s : State} {a0 : CtxNo} (h : Keeps s0 s) :
    KeepsR s0 (execTapItem a0 s) := by
  unfold execTapItem
  repeat' first
    | (with_reducible assumption)
    | (with_reducible apply State.tapItem_keeps)
    | (with_reducible apply KeepsR.next)
    | split

theorem execTapReturn_keeps {s0 s : State} {a0 : Fin 4} {a1 : List Word} (h : Keeps s0 s) :
    KeepsR s0 (execTapReturn a0 a1 s) := by
  unfold execTapReturn
  repeat' first
    | (with_reducible assumption)
    | (with_reducible apply State.reply_keeps)
    | (with_reducible apply State.tapReturn_keeps)
    | (simp only [Keeps.same])
    | (with_reducible apply KeepsR.next)
    | (with_reducible refine Keeps.of_ite (fun _ => ?_) (fun _ => ?_))

theorem State.countCured_keeps {s0 s : State} {a0 : LoamReq} (h : Keeps s0 s) :
    Keeps s0 (State.countCured a0 s) := by
  unfold State.countCured
  repeat' first
    | (with_reducible assumption)
    | (with_reducible apply State.countReg_keeps)
    | (with_reducible refine Keeps.of_ite (fun _ => ?_) (fun _ => ?_))

theorem State.countLink_keeps {s0 s : State} {a0 : Fin 4} {a1 : Nat} (h : Keeps s0 s) :
    Keeps s0 (State.countLink a0 a1 s) := by
  unfold State.countLink
  repeat' first
    | (with_reducible assumption)
    | (with_reducible apply State.countReg_keeps)
    | (with_reducible refine Keeps.foldl (fun _ _ _ => ?_) _ ?_)

theorem State.dropReq_keeps {s0 s : State} {a0 a1 : Byte} (h : Keeps s0 s) :
    Keeps s0 (State.dropReq a0 a1 s) := by
  unfold State.dropReq
  repeat' first
    | (with_reducible assumption)
    | (simp only [Keeps.same])

theorem State.deliver_keeps {s0 s : State} {a0 : LoamReq} {a1 : Nat} {a2 : List Word} (h : Keeps s0 s) :
    Keeps s0 (State.deliver a0 a1 a2 s) := by
  unfold State.deliver
  repeat' first
    | (with_reducible assumption)
    | (with_reducible apply State.dropReq_keeps)
    | (with_reducible apply State.reply_keeps)
    | (with_reducible apply State.send_keeps)

theorem State.guestFree_keeps {s0 s : State} {a1 a2 : Nat} {a3 : Bool} (h : Keeps s0 s) :
    Keeps s0 (State.guestFree s a1 a2 a3).1 := by
  unfold State.guestFree
  repeat' first
    | (with_reducible assumption)
    | (with_reducible apply State.spend_keeps)

theorem State.guestRd_keeps {s0 s : State} {a0 a1 : Nat} (h : Keeps s0 s) :
    Keeps s0 (State.guestRd a0 a1 s).1 := by
  unfold State.guestRd
  repeat' first
    | (with_reducible assumption)
    | (with_reducible apply State.guestFree_keeps)
    | (with_reducible apply State.spend_keeps)
    | (with_reducible refine Keeps.of_iteP (fun _ => ?_) (fun _ => ?_))

theorem State.guestWr_keeps {s0 s : State} {a0 : Nat} {a1 : List Word} {a2 : Bool} (h : Keeps s0 s) :
    Keeps s0 (State.guestWr a0 a1 a2 s).1 := by
  unfold State.guestWr
  repeat' first
    | (with_reducible assumption)
    | (with_reducible apply State.guestFree_keeps)
    | (simp only [Keeps.same])
    | (with_reducible refine Keeps.of_ite (fun _ => ?_) (fun _ => ?_))
    | (with_reducible refine Keeps.of_iteP (fun _ => ?_) (fun _ => ?_))

theorem State.loopStore_keeps {s0 s : State} {a0 : Nat} {a1 : List Word} (h : Keeps s0 s) :
    Keeps s0 (State.loopStore a0 a1 s) := by
  unfold State.loopStore
  repeat' first
    | (with_reducible assumption)
    | (simp only [Keeps.same])

theorem State.loopback_keeps {s0 s : State} {a0 : LoamOp} {a1 a2 a3 : Nat} {a4 : List Word} {a5 : Bool} {a6 : Nat} (h : Keeps s0 s) :
    Keeps s0 (State.loopback a0 a1 a2 a3 a4 a5 a6 s).1 := by
  unfold State.loopback
  repeat' first
    | (with_reducible assumption)
    | (with_reducible apply State.loopStore_keeps)
    | (simp only [Keeps.same])
    | (with_reducible refine Keeps.of_iteP (fun _ => ?_) (fun _ => ?_))
    | split

theorem State.memAtom_keeps {s0 s : State} {a0 a1 : Nat} {a2 : List Word} (h : Keeps s0 s) :
    Keeps s0 (State.memAtom a0 a1 a2 s).1 := by
  unfold State.memAtom
  repeat' first
    | (with_reducible assumption)
    | (with_reducible apply State.loamRead_keeps)
    | (with_reducible apply State.loamStore_keeps)
    | (simp only [Keeps.same])
    | (with_reducible refine Keeps.of_iteP (fun _ => ?_) (fun _ => ?_))
    | split

theorem State.memRd_keeps {s0 s : State} {a0 a1 : Nat} (h : Keeps s0 s) :
    Keeps s0 (State.memRd a0 a1 s).1 := by
  unfold State.memRd
  repeat' first
    | (with_reducible assumption)
    | (with_reducible apply State.loamRead_keeps)
    | (simp only [Keeps.same])
    | split

theorem State.memWr_keeps {s0 s : State} {a0 : Nat} {a1 : List Word} {a2 a3 : Bool} (h : Keeps s0 s) :
    Keeps s0 (State.memWr a0 a1 a2 a3 s).1 := by
  unfold State.memWr
  repeat' first
    | (with_reducible assumption)
    | (with_reducible apply State.loamStore_keeps)
    | (with_reducible refine Keeps.of_iteP (fun _ => ?_) (fun _ => ?_))
    | split

theorem State.winRd_keeps {s0 s : State} {a0 : Byte} {a1 a2 : Nat} (h : Keeps s0 s) :
    Keeps s0 (State.winRd a0 a1 a2 s).1 := by
  unfold State.winRd
  repeat' first
    | (with_reducible assumption)
    | (with_reducible apply State.regRead_keeps)
    | (simp only [Keeps.same])
    | (with_reducible refine Keeps.of_iteP (fun _ => ?_) (fun _ => ?_))
    | split

theorem State.winWr_keeps {s0 s : State} {a0 : Byte} {a1 : Nat} {a2 : List Word} {a3 : Bool} (h : Keeps s0 s) :
    Keeps s0 (State.winWr a0 a1 a2 a3 s).1 := by
  unfold State.winWr
  repeat' first
    | (with_reducible assumption)
    | (with_reducible apply State.contextEntryWrite_keeps)
    | (with_reducible apply State.regWrite_keeps)
    | (with_reducible apply State.tapReturn_keeps)
    | (with_reducible apply State.titleEntryWrite_keeps)
    | (simp only [Keeps.same])
    | (with_reducible refine Keeps.of_ite (fun _ => ?_) (fun _ => ?_))
    | (with_reducible refine Keeps.of_iteP (fun _ => ?_) (fun _ => ?_))
    | split

theorem State.serve_keeps {s0 s : State} {a0 : LoamOp} {a1 : Byte} {a2 a3 a4 : Nat} {a5 : List Word} {a6 a7 : Bool} {a8 : Nat} (h : Keeps s0 s) :
    Keeps s0 (State.serve a0 a1 a2 a3 a4 a5 a6 a7 a8 s).1 := by
  unfold State.serve
  repeat' first
    | (with_reducible assumption)
    | (with_reducible apply State.guestFree_keeps)
    | (with_reducible apply State.guestRd_keeps)
    | (with_reducible apply State.guestWr_keeps)
    | (with_reducible apply State.loopback_keeps)
    | (with_reducible apply State.memAtom_keeps)
    | (with_reducible apply State.memRd_keeps)
    | (with_reducible apply State.memWr_keeps)
    | (with_reducible apply State.winRd_keeps)
    | (with_reducible apply State.winWr_keeps)
    | (with_reducible refine Keeps.of_iteP (fun _ => ?_) (fun _ => ?_))
    | split

theorem State.fullAtom_keeps {s0 s : State} {a0 : Byte} {a1 a2 : Nat} {a3 : List Word} (h : Keeps s0 s) :
    Keeps s0 (State.fullAtom a0 a1 a2 a3 s).1 := by
  unfold State.fullAtom
  repeat' first
    | (with_reducible assumption)
    | (with_reducible apply State.persistent_keeps)
    | (with_reducible apply State.serve_keeps)
    | (simp only [Keeps.same])
    | (with_reducible refine Keeps.of_iteP (fun _ => ?_) (fun _ => ?_))

theorem State.fullRead_keeps {s0 s : State} {a0 : Byte} {a1 a2 : Nat} (h : Keeps s0 s) :
    Keeps s0 (State.fullRead a0 a1 a2 s).1 := by
  unfold State.fullRead
  repeat' first
    | (with_reducible assumption)
    | (with_reducible apply State.countLoam_keeps)
    | (with_reducible apply State.persistent_keeps)
    | (with_reducible apply State.serve_keeps)
    | (simp only [Keeps.same])
    | (with_reducible refine Keeps.of_iteP (fun _ => ?_) (fun _ => ?_))

end Sys2Proof.Machine
end

