-- ==== Sys2Proof/Laws/Kept13.lean ====
section
/-! SUPPORT. What the operations of the block keep, part 13 of 14: each leaves the queue, the part and what was sent,
uses free values up in order, and keeps a sound state sound (the relation of Laws/Keeps.lean). -/

set_option linter.all false

namespace Sys2Proof.Machine

open Sys2Proof

theorem State.fullWrite_keeps {s0 s : State} {a0 : Byte} {a1 : Nat} {a2 : List Word} (h : Keeps s0 s) :
    Keeps s0 (State.fullWrite a0 a1 a2 s).1 := by
  unfold State.fullWrite
  repeat' first
    | (with_reducible assumption)
    | (with_reducible apply State.serve_keeps)

theorem State.malformed_keeps {s0 s : State} {a0 : Byte} (h : Keeps s0 s) :
    Keeps s0 (State.malformed a0 s) := by
  unfold State.malformed
  repeat' first
    | (with_reducible assumption)
    | (with_reducible apply State.isolate_keeps)
    | (with_reducible refine Keeps.of_ite (fun _ => ?_) (fun _ => ?_))

theorem State.moduleFail_keeps {s0 s : State} {a0 : Fin 4} (h : Keeps s0 s) :
    Keeps s0 (State.moduleFail a0 s) := by
  unfold State.moduleFail
  repeat' first
    | (with_reducible assumption)
    | (with_reducible apply State.countLink_keeps)
    | (with_reducible apply State.linkRecord_keeps)
    | (with_reducible apply State.plinthReset_keeps)
    | (with_reducible apply State.raiseP_keeps)
    | (with_reducible apply State.sealFault_keeps)
    | (with_reducible apply State.setLink_keeps)
    | (simp only [Keeps.same])
    | (with_reducible refine Keeps.of_ite (fun _ => ?_) (fun _ => ?_))

theorem State.reissue_keeps {s0 s : State} {a0 : LoamReq} {a1 : Bool} (h : Keeps s0 s) :
    Keeps s0 (State.reissue a0 a1 s) := by
  unfold State.reissue
  repeat' first
    | (with_reducible assumption)
    | (with_reducible apply State.serve_keeps)
    | (simp only [Keeps.same])

theorem State.request_keeps {s0 s : State} {a0 : LoamOp} {a1 a2 : Byte} {a3 : LoamAddr} {a4 a5 : Nat} {a6 : List Word} {a7 a8 : Bool} (h : Keeps s0 s) :
    Keeps s0 (State.request a0 a1 a2 a3 a4 a5 a6 a7 a8 s) := by
  unfold State.request
  repeat' first
    | (with_reducible assumption)
    | (with_reducible apply State.serve_keeps)
    | (simp only [Keeps.same])

theorem State.writeAnswer_keeps {s0 s : State} {a0 : LoamOp} {a1 a2 : Byte} (h : Keeps s0 s) :
    Keeps s0 (State.writeAnswer a0 a1 a2 s) := by
  unfold State.writeAnswer
  repeat' first
    | (with_reducible assumption)
    | (with_reducible apply State.countCured_keeps)
    | (with_reducible apply State.countLoam_keeps)
    | (with_reducible apply State.deliver_keeps)
    | (with_reducible apply State.persistent_keeps)
    | (with_reducible apply State.reissue_keeps)
    | (with_reducible apply State.spend_keeps)
    | (with_reducible refine Keeps.of_ite (fun _ => ?_) (fun _ => ?_))
    | split

theorem execAtom_keeps {s0 s : State} {a0 a1 : Byte} {a2 : BitVec 4} {a3 : LoamAddr} {a4 : List Word} (h : Keeps s0 s) :
    KeepsR s0 (execAtom a0 a1 a2 a3 a4 s) := by
  unfold execAtom
  repeat' first
    | (with_reducible assumption)
    | (with_reducible apply State.malformed_keeps)
    | (with_reducible apply State.request_keeps)
    | (simp only [Keeps.same])
    | (with_reducible apply KeepsR.next)
    | (with_reducible refine Keeps.of_ite (fun _ => ?_) (fun _ => ?_))

theorem execAtr_keeps {s0 s : State} {a0 a1 : Byte} {a2 : Bool} (h : Keeps s0 s) :
    KeepsR s0 (execAtr a0 a1 a2 s) := by
  unfold execAtr
  repeat' first
    | (with_reducible assumption)
    | (with_reducible apply State.deliver_keeps)
    | (with_reducible apply State.persistent_keeps)
    | (with_reducible apply KeepsR.next)
    | (with_reducible refine Keeps.of_ite (fun _ => ?_) (fun _ => ?_))
    | split

theorem execLoamTimeout_keeps {s0 s : State} {a0 a1 : Byte} (h : Keeps s0 s) :
    KeepsR s0 (execLoamTimeout a0 a1 s) := by
  unfold execLoamTimeout
  repeat' first
    | (with_reducible assumption)
    | (with_reducible apply State.countLoam_keeps)
    | (with_reducible apply State.deliver_keeps)
    | (with_reducible apply KeepsR.next)
    | (with_reducible refine Keeps.of_ite (fun _ => ?_) (fun _ => ?_))
    | split

theorem execModuleFail_keeps {s0 s : State} {a0 : Fin 4} (h : Keeps s0 s) :
    KeepsR s0 (execModuleFail a0 s) := by
  unfold execModuleFail
  repeat' first
    | (with_reducible assumption)
    | (with_reducible apply State.moduleFail_keeps)
    | (with_reducible apply KeepsR.next)

theorem execModuleRetrain_keeps {s0 s : State} {a0 : Fin 4} (h : Keeps s0 s) :
    KeepsR s0 (execModuleRetrain a0 s) := by
  unfold execModuleRetrain
  repeat' first
    | (with_reducible assumption)
    | (with_reducible apply State.countLink_keeps)
    | (simp only [Keeps.same])
    | (with_reducible apply KeepsR.next)
    | (with_reducible refine Keeps.of_ite (fun _ => ?_) (fun _ => ?_))

theorem execModuleRetrainEnd_keeps {s0 s : State} {a0 : Fin 4} (h : Keeps s0 s) :
    KeepsR s0 (execModuleRetrainEnd a0 s) := by
  unfold execModuleRetrainEnd
  repeat' first
    | (with_reducible assumption)
    | (simp only [Keeps.same])
    | (with_reducible apply KeepsR.next)
    | (with_reducible refine Keeps.of_ite (fun _ => ?_) (fun _ => ?_))

theorem execPack_keeps {s0 s : State} {a0 a1 : Byte} (h : Keeps s0 s) :
    KeepsR s0 (execPack a0 a1 s) := by
  unfold execPack
  repeat' first
    | (with_reducible assumption)
    | (with_reducible apply State.writeAnswer_keeps)
    | (with_reducible apply KeepsR.next)

theorem execPwr_keeps {s0 s : State} {a0 a1 : Byte} {a2 : LoamAddr} {a3 : List Word} {a4 a5 : Bool} (h : Keeps s0 s) :
    KeepsR s0 (execPwr a0 a1 a2 a3 a4 a5 s) := by
  unfold execPwr
  repeat' first
    | (with_reducible assumption)
    | (with_reducible apply State.malformed_keeps)
    | (with_reducible apply State.request_keeps)
    | (with_reducible apply KeepsR.next)
    | (with_reducible refine Keeps.of_ite (fun _ => ?_) (fun _ => ?_))

theorem execRd_keeps {s0 s : State} {a0 a1 : Byte} {a2 : LoamAddr} {a3 : BitVec 7} (h : Keeps s0 s) :
    KeepsR s0 (execRd a0 a1 a2 a3 s) := by
  unfold execRd
  repeat' first
    | (with_reducible assumption)
    | (with_reducible apply State.malformed_keeps)
    | (with_reducible apply State.request_keeps)
    | (with_reducible apply KeepsR.next)
    | (with_reducible refine Keeps.of_ite (fun _ => ?_) (fun _ => ?_))

theorem execRdr_keeps {s0 s : State} {a0 a1 : Byte} {a2 : Bool} (h : Keeps s0 s) :
    KeepsR s0 (execRdr a0 a1 a2 s) := by
  unfold execRdr
  repeat' first
    | (with_reducible assumption)
    | (with_reducible apply State.countCured_keeps)
    | (with_reducible apply State.countLoam_keeps)
    | (with_reducible apply State.deliver_keeps)
    | (with_reducible apply State.persistent_keeps)
    | (with_reducible apply State.reissue_keeps)
    | (with_reducible apply KeepsR.next)
    | (with_reducible refine Keeps.of_ite (fun _ => ?_) (fun _ => ?_))
    | split

theorem execWr_keeps {s0 s : State} {a0 a1 : Byte} {a2 : LoamAddr} {a3 : List Word} {a4 a5 : Bool} (h : Keeps s0 s) :
    KeepsR s0 (execWr a0 a1 a2 a3 a4 a5 s) := by
  unfold execWr
  repeat' first
    | (with_reducible assumption)
    | (with_reducible apply State.malformed_keeps)
    | (with_reducible apply State.request_keeps)
    | (with_reducible apply KeepsR.next)
    | (with_reducible refine Keeps.of_ite (fun _ => ?_) (fun _ => ?_))

theorem execWrr_keeps {s0 s : State} {a0 a1 : Byte} (h : Keeps s0 s) :
    KeepsR s0 (execWrr a0 a1 s) := by
  unfold execWrr
  repeat' first
    | (with_reducible assumption)
    | (with_reducible apply State.writeAnswer_keeps)
    | (with_reducible apply KeepsR.next)

theorem State.dcpKeep_keeps {s0 s : State} {a0 : DcpMsg} (h : Keeps s0 s) :
    Keeps s0 (State.dcpKeep a0 s) := by
  unfold State.dcpKeep
  repeat' first
    | (with_reducible assumption)
    | (simp only [Keeps.same])

theorem State.dcpTake_keeps {s0 s : State} {a0 : DcpMsg} {a1 : State → Option DcpResult} (ha1 : ∀ z, Keeps s0 z → ∀ r, a1 z = some r → Keeps s0 r.state) (h : Keeps s0 s) :
    Keeps s0 (State.dcpTake a0 a1 s).1 := by
  unfold State.dcpTake
  split
  · exact h
  split
  · exact h
  · dsimp only
    split
    · simpa only [Keeps.same] using h
    split
    · exact h
    split
    · have h1 : Keeps s0 { s with boot := { s.boot with
          lastSeq := Sparse.insert s.boot.lastSeq a0.keyId.toNat a0.seq, lastReq := Sparse.insert s.boot.lastReq a0.keyId.toNat a0
          lastReply := Sparse.erase s.boot.lastReply a0.keyId.toNat } } := by simpa only [Keeps.same] using h
      split
      · rename_i r he
        exact State.dcpKeep_keeps (ha1 _ h1 r he)
      · exact h1
    split
    · split <;> exact h
    · simpa only [Keeps.same] using h

/-- Counting takes no free value. -/
theorem State.setOwnIo_fresh (p : Cpu) (a v : Nat) (s : State) : (s.setOwnIo p a v).fresh = s.fresh := by cases p <;> rfl
theorem State.count32_fresh (p : Cpu) (a n : Nat) (s : State) : (s.count32 p a n).fresh = s.fresh :=
  (State.setOwnIo_fresh _ _ _ _).trans (State.setOwnIo_fresh _ _ _ _)
theorem State.keeperTime_fresh (k : Fin 4) (n : Nat) (s : State) : (s.keeperTime k n).fresh = s.fresh :=
  State.count32_fresh _ _ _ _

theorem State.romReturn_keeps {s0 s : State} {a0 : Fin 4} {a1 : List (Option Word)} (h : Keeps s0 s) :
    Keeps s0 (State.romReturn a0 a1 s) := by
  have h1 := State.count32_keeps (a0 := Cpu.keeper a0) (a1 := 0xFE30) (a2 := Config.freeCount (s.fresh + 1) % 1536001)
    (State.keeperTime_keeps (a0 := a0) (a1 := Config.freeCount s.fresh % 1536001) h)
  have e := (State.count32_fresh (Cpu.keeper a0) 0xFE30 (Config.freeCount (s.fresh + 1) % 1536001) _).trans
    (State.keeperTime_fresh a0 (Config.freeCount s.fresh % 1536001) s)
  unfold State.romReturn
  dsimp only
  generalize State.count32 _ _ _ _ = z at *
  exact State.modKeeper_keeps (Keeps.later h1 (e.le.trans (Nat.le_add_right _ _)))

theorem State.romFrame_keeps {s0 s : State} {a0 : Fin 4} {a1 : Word} {a2 : List (Option Word)} {a3 : Nat} {a4 : List Byte} (h : Keeps s0 s) :
    Keeps s0 (State.romFrame a0 a1 a2 a3 a4 s) := by
  unfold State.romFrame
  exact State.romReturn_keeps (State.agentStore_keeps (Keeps.later h (Nat.le_add_right _ _)))

theorem State.dcpCall_keeps {s0 s : State} {a0 : Fin 4} {a1 : DcpMsg} {a2 : State → Option DcpResult} (ha2 : ∀ z, Keeps s0 z → ∀ r, a2 z = some r → Keeps s0 r.state) (h : Keeps s0 s) :
    Keeps s0 (State.dcpCall a0 a1 a2 s) := by
  unfold State.dcpCall
  repeat' first
    | (with_reducible assumption)
    | (with_reducible apply State.dcpTake_keeps)
    | (with_reducible apply State.romFrame_keeps)
    | (with_reducible apply State.romReturn_keeps)
    | (with_reducible apply State.send_keeps)
    | (simp only [Keeps.same])
    | (with_reducible refine Keeps.of_pair ‹_ = (_, _)› ?_)
    | (with_reducible refine Keeps.of_ite (fun _ => ?_) (fun _ => ?_))
    | split

theorem State.dcpReplyCall_keeps {s0 s : State} {a0 : Fin 4} {a1 : Byte} {a2 : List Byte} (h : Keeps s0 s) :
    Keeps s0 (State.dcpReplyCall a0 a1 a2 s) := by
  unfold State.dcpReplyCall
  dsimp only
  split
  · exact h
  · refine Keeps.of_ite (fun _ => h) (fun _ => ?_)
    refine State.romReturn_keeps (State.agentStore_keeps (Keeps.later ?_ (Nat.le_add_right _ _)))
    exact Keeps.of_ite (fun _ => State.dcpKeep_keeps h) (fun _ => h)

theorem State.dcpServe_keeps {s0 s : State} {a0 : DcpMsg} {a1 : State → Option DcpResult} (ha1 : ∀ z, Keeps s0 z → ∀ r, a1 z = some r → Keeps s0 r.state) (h : Keeps s0 s) :
    Keeps s0 (State.dcpServe a0 a1 s) := by
  unfold State.dcpServe
  repeat' first
    | (with_reducible assumption)
    | (with_reducible apply State.dcpCall_keeps)
    | (with_reducible apply State.dcpTake_keeps)
    | (with_reducible apply State.send_keeps)
    | (with_reducible refine Keeps.of_pair ‹_ = (_, _)› ?_)
    | (with_reducible refine Keeps.of_ite (fun _ => ?_) (fun _ => ?_))
    | split

theorem State.bootText_keeps {s0 s : State} (h : Keeps s0 s) :
    Keeps s0 (State.bootText s) := h.upd rfl rfl (Nat.le_add_right _ _) (List.suffix_append _ _) (fun i => ⟨i.mem, i.bad, i.wake, i.slip, i.halt, i.mbq, i.quar⟩)

theorem State.bootChoose_keeps {s0 s : State} (h : Keeps s0 s) :
    Keeps s0 (State.bootChoose s) := by
  unfold State.bootChoose
  repeat' first
    | (with_reducible assumption)
    | (with_reducible apply State.bootText_keeps)
    | (with_reducible apply State.coldAscent_keeps)
    | (with_reducible apply State.offer_keeps)
    | (with_reducible apply State.recoveryEntry_keeps)
    | (simp only [Keeps.same])
    | (with_reducible refine Keeps.of_ite (fun _ => ?_) (fun _ => ?_))

theorem State.bootCmis_keeps {s0 s : State} (h : Keeps s0 s) :
    Keeps s0 (State.bootCmis s) := by
  unfold State.bootCmis
  dsimp only
  refine State.i2cFill_keeps (State.setReg_keeps ?_)
  exact h.upd rfl rfl (Nat.le_add_right _ _) (List.suffix_append _ _) (fun i => ⟨i.mem, i.bad, i.wake, i.slip, i.halt, i.mbq, i.quar⟩)

theorem State.bootModule_keeps {s0 s : State} (h : Keeps s0 s) :
    Keeps s0 (State.bootModule s) := by
  unfold State.bootModule
  repeat' first
    | (with_reducible assumption)
    | (with_reducible apply State.bootCmis_keeps)
    | (with_reducible apply State.gpioWrite_keeps)
    | (with_reducible refine Keeps.of_ite (fun _ => ?_) (fun _ => ?_))

theorem State.bootStart_keeps {s0 s : State} (h : Keeps s0 s) :
    Keeps s0 (State.bootStart s) := by
  unfold State.bootStart
  repeat' first
    | (with_reducible assumption)
    | (with_reducible apply State.bootChoose_keeps)
    | (with_reducible apply State.bootMac_keeps)
    | (with_reducible apply State.bootModule_keeps)
    | (with_reducible apply State.bootNet_keeps)
    | (with_reducible apply State.bootText_keeps)
    | (with_reducible apply State.nvRom_keeps)
    | (with_reducible apply State.recoveryEntry_keeps)
    | (with_reducible apply State.setGpioEn_keeps)
    | (with_reducible apply State.setReg_keeps)
    | (simp only [Keeps.same])
    | (with_reducible refine Keeps.of_ite (fun _ => ?_) (fun _ => ?_))

theorem dcpDone_keeps {s0 s : State} {a1 : List Byte} (h : Keeps s0 s) :
    Keeps s0 (dcpDone s a1).state := by
  unfold dcpDone
  repeat' first
    | (with_reducible assumption)

theorem dcpFail_keeps {s0 s : State} {a1 : Nat} (h : Keeps s0 s) :
    Keeps s0 (dcpFail s a1).state := by
  unfold dcpFail
  repeat' first
    | (with_reducible assumption)

theorem State.dcpBootsel_keeps {s0 s : State} {a0 : DcpMsg} (h : Keeps s0 s) :
    Keeps s0 (State.dcpBootsel a0 s).state := by
  unfold State.dcpBootsel
  repeat' first
    | (with_reducible assumption)
    | (with_reducible apply State.nvRom_keeps)
    | (dsimp only [Op.nop, aluOp, flagOp, pairOp, transferOp, id, dcpDone, dcpFail, State.loadOp, State.storeOp, State.pushOp, State.popOp, State.callOp, State.retOp, State.bitBranchOp, State.bitReadOp, State.bitWriteOp, State.farLoadOp, State.farStoreOp, State.farAtomOp])
    | split

theorem State.dcpCommand_keeps {s0 s : State} {a0 : DcpMsg} {a1 : Nat} {a2 a3 : Bool} {a4 : Mode → Bool} {a5 : State → DcpResult} (ha5 : ∀ z, Keeps s0 z → Keeps s0 (a5 z).state) (h : Keeps s0 s) :
    KeepsR s0 (State.dcpCommand a0 a1 a2 a3 a4 a5 s) := by
  unfold State.dcpCommand
  apply KeepsR.next
  split
  · exact h
  · refine State.dcpServe_keeps (fun z hz r he => ?_) h
    dsimp only at he
    split at he
    · cases he; exact hz
    split at he
    · cases he; exact hz
    split at he
    · cases he; exact hz
    · cases he; exact ha5 z hz

theorem State.dcpIdent_keeps {s0 s : State} {a0 : DcpMsg} (h : Keeps s0 s) :
    Keeps s0 (State.dcpIdent a0 s).state := by
  unfold State.dcpIdent
  repeat' first
    | (with_reducible assumption)
    | (dsimp only [Op.nop, aluOp, flagOp, pairOp, transferOp, id, dcpDone, dcpFail, State.loadOp, State.storeOp, State.pushOp, State.popOp, State.callOp, State.retOp, State.bitBranchOp, State.bitReadOp, State.bitWriteOp, State.farLoadOp, State.farStoreOp, State.farAtomOp])
    | split

theorem State.dcpImgcheck_keeps {s0 s : State} {a0 : DcpMsg} (h : Keeps s0 s) :
    Keeps s0 (State.dcpImgcheck a0 s).state := by
  unfold State.dcpImgcheck
  repeat' first
    | (with_reducible assumption)
    | (dsimp only [Op.nop, aluOp, flagOp, pairOp, transferOp, id, dcpDone, dcpFail, State.loadOp, State.storeOp, State.pushOp, State.popOp, State.callOp, State.retOp, State.bitBranchOp, State.bitReadOp, State.bitWriteOp, State.farLoadOp, State.farStoreOp, State.farAtomOp])
    | split

theorem State.dcpImgrun_keeps {s0 s : State} {a0 : DcpMsg} (h : Keeps s0 s) :
    Keeps s0 (State.dcpImgrun a0 s).state := by
  unfold State.dcpImgrun
  repeat' first
    | (with_reducible assumption)
    | (with_reducible apply State.coldAscent_keeps)
    | (simp only [Keeps.same])
    | (dsimp only [Op.nop, aluOp, flagOp, pairOp, transferOp, id, dcpDone, dcpFail, State.loadOp, State.storeOp, State.pushOp, State.popOp, State.callOp, State.retOp, State.bitBranchOp, State.bitReadOp, State.bitWriteOp, State.farLoadOp, State.farStoreOp, State.farAtomOp])
    | split

theorem State.dcpImgwrite_keeps {s0 s : State} {a0 : DcpMsg} (h : Keeps s0 s) :
    Keeps s0 (State.dcpImgwrite a0 s).state := by
  unfold State.dcpImgwrite
  repeat' first
    | (with_reducible assumption)
    | (simp only [Keeps.same])
    | (dsimp only [Op.nop, aluOp, flagOp, pairOp, transferOp, id, dcpDone, dcpFail, State.loadOp, State.storeOp, State.pushOp, State.popOp, State.callOp, State.retOp, State.bitBranchOp, State.bitReadOp, State.bitWriteOp, State.farLoadOp, State.farStoreOp, State.farAtomOp])
    | split

theorem State.dcpKeyset_keeps {s0 s : State} {a0 : DcpMsg} (h : Keeps s0 s) :
    Keeps s0 (State.dcpKeyset a0 s).state := by
  unfold State.dcpKeyset
  repeat' first
    | (with_reducible assumption)
    | (with_reducible apply State.nvRom_keeps)
    | (simp only [Keeps.same])
    | (with_reducible refine Keeps.foldl (fun _ _ _ => ?_) _ ?_)
    | (dsimp only [Op.nop, aluOp, flagOp, pairOp, transferOp, id, dcpDone, dcpFail, State.loadOp, State.storeOp, State.pushOp, State.popOp, State.callOp, State.retOp, State.bitBranchOp, State.bitReadOp, State.bitWriteOp, State.farLoadOp, State.farStoreOp, State.farAtomOp])
    | split

theorem State.dcpLogread_keeps {s0 s : State} {a0 : DcpMsg} (h : Keeps s0 s) :
    Keeps s0 (State.dcpLogread a0 s).state := by
  unfold State.dcpLogread
  repeat' first
    | (with_reducible assumption)
    | (with_reducible apply State.setReg_keeps)
    | (simp only [Keeps.same])
    | (dsimp only [Op.nop, aluOp, flagOp, pairOp, transferOp, id, dcpDone, dcpFail, State.loadOp, State.storeOp, State.pushOp, State.popOp, State.callOp, State.retOp, State.bitBranchOp, State.bitReadOp, State.bitWriteOp, State.farLoadOp, State.farStoreOp, State.farAtomOp])
    | split

theorem State.dcpReads_keeps {s0 s : State} {a0 a1 : Nat} {a3 : List Byte} (h : Keeps s0 s) :
    Keeps s0 (State.dcpReads a0 a1 s a3).1 := by
  induction a1 generalizing s a0 a3 with
  | zero =>
    unfold State.dcpReads
    repeat' first
      | (with_reducible assumption)
      | (with_reducible apply ih)
      | (with_reducible apply State.fullRead_keeps)
      | (simp only [Keeps.same])
      | (with_reducible refine Keeps.of_pair ‹_ = (_, _)› ?_)
      | split
  | succ n ih =>
    unfold State.dcpReads
    repeat' first
      | (with_reducible assumption)
      | (with_reducible apply ih)
      | (with_reducible apply State.fullRead_keeps)
      | (simp only [Keeps.same])
      | (with_reducible refine Keeps.of_pair ‹_ = (_, _)› ?_)
      | split

theorem State.dcpLread_keeps {s0 s : State} {a0 : DcpMsg} (h : Keeps s0 s) :
    Keeps s0 (State.dcpLread a0 s).state := by
  unfold State.dcpLread
  repeat' first
    | (with_reducible assumption)
    | (with_reducible apply State.dcpReads_keeps)
    | (simp only [Keeps.same])
    | (dsimp only [Op.nop, aluOp, flagOp, pairOp, transferOp, id, dcpDone, dcpFail, State.loadOp, State.storeOp, State.pushOp, State.popOp, State.callOp, State.retOp, State.bitBranchOp, State.bitReadOp, State.bitWriteOp, State.farLoadOp, State.farStoreOp, State.farAtomOp])
    | split

theorem State.dcpWrites_keeps {s0 s : State} {a0 a1 : Nat} {a2 : List Byte} {a4 : Nat} (h : Keeps s0 s) :
    Keeps s0 (State.dcpWrites a0 a1 a2 s a4).1 := by
  induction a1 generalizing s a0 a2 a4 with
  | zero =>
    unfold State.dcpWrites
    repeat' first
      | (with_reducible assumption)
      | (with_reducible apply ih)
      | (with_reducible apply State.fullWrite_keeps)
      | (simp only [Keeps.same])
      | (with_reducible refine Keeps.of_pair ‹_ = (_, _)› ?_)
      | (with_reducible refine Keeps.of_iteP (fun _ => ?_) (fun _ => ?_))
      | split
  | succ n ih =>
    unfold State.dcpWrites
    repeat' first
      | (with_reducible assumption)
      | (with_reducible apply ih)
      | (with_reducible apply State.fullWrite_keeps)
      | (simp only [Keeps.same])
      | (with_reducible refine Keeps.of_pair ‹_ = (_, _)› ?_)
      | (with_reducible refine Keeps.of_iteP (fun _ => ?_) (fun _ => ?_))
      | split

theorem State.dcpLwrite_keeps {s0 s : State} {a0 : DcpMsg} (h : Keeps s0 s) :
    Keeps s0 (State.dcpLwrite a0 s).state := by
  unfold State.dcpLwrite
  repeat' first
    | (with_reducible assumption)
    | (with_reducible apply State.dcpWrites_keeps)
    | (simp only [Keeps.same])
    | (dsimp only [Op.nop, aluOp, flagOp, pairOp, transferOp, id, dcpDone, dcpFail, State.loadOp, State.storeOp, State.pushOp, State.popOp, State.callOp, State.retOp, State.bitBranchOp, State.bitReadOp, State.bitWriteOp, State.farLoadOp, State.farStoreOp, State.farAtomOp])
    | split

theorem State.dcpMinver_keeps {s0 s : State} {a0 : DcpMsg} (h : Keeps s0 s) :
    Keeps s0 (State.dcpMinver a0 s).state := by
  unfold State.dcpMinver
  repeat' first
    | (with_reducible assumption)
    | (with_reducible apply State.nvRom_keeps)
    | (simp only [Keeps.same])
    | (dsimp only [Op.nop, aluOp, flagOp, pairOp, transferOp, id, dcpDone, dcpFail, State.loadOp, State.storeOp, State.pushOp, State.popOp, State.callOp, State.retOp, State.bitBranchOp, State.bitReadOp, State.bitWriteOp, State.farLoadOp, State.farStoreOp, State.farAtomOp])
    | split

theorem State.dcpNetset_keeps {s0 s : State} {a0 : DcpMsg} (h : Keeps s0 s) :
    Keeps s0 (State.dcpNetset a0 s).state := by
  unfold State.dcpNetset
  repeat' first
    | (with_reducible assumption)
    | (with_reducible apply State.nvRom_keeps)
    | (simp only [Keeps.same])
    | (with_reducible refine Keeps.foldl (fun _ _ _ => ?_) _ ?_)
    | (dsimp only [Op.nop, aluOp, flagOp, pairOp, transferOp, id, dcpDone, dcpFail, State.loadOp, State.storeOp, State.pushOp, State.popOp, State.callOp, State.retOp, State.bitBranchOp, State.bitReadOp, State.bitWriteOp, State.farLoadOp, State.farStoreOp, State.farAtomOp])
    | split

theorem State.dcpSetMode_keeps {s0 s : State} {a0 : DcpMsg} (h : Keeps s0 s) :
    Keeps s0 (State.dcpSetMode a0 s).state := by
  unfold State.dcpSetMode
  repeat' first
    | (with_reducible assumption)
    | (with_reducible apply State.powerRequest_keeps)
    | (simp only [Keeps.same])
    | (with_reducible refine Keeps.of_ite (fun _ => ?_) (fun _ => ?_))
    | (dsimp only [Op.nop, aluOp, flagOp, pairOp, transferOp, id, dcpDone, dcpFail, State.loadOp, State.storeOp, State.pushOp, State.popOp, State.callOp, State.retOp, State.bitBranchOp, State.bitReadOp, State.bitWriteOp, State.farLoadOp, State.farStoreOp, State.farAtomOp])
    | split

theorem execBootRomStart_keeps {s0 s : State} (h : Keeps s0 s) :
    KeepsR s0 (execBootRomStart s) := by
  unfold execBootRomStart
  repeat' first
    | (with_reducible assumption)
    | (with_reducible apply State.bootStart_keeps)
    | (with_reducible apply KeepsR.next)
    | (with_reducible refine Keeps.of_ite (fun _ => ?_) (fun _ => ?_))

theorem execBootsel_keeps {s0 s : State} {a0 : DcpMsg} (h : Keeps s0 s) :
    KeepsR s0 (execBootsel a0 s) := by
  unfold execBootsel
  repeat' first
    | (with_reducible assumption)
    | (with_reducible apply State.dcpBootsel_keeps)
    | (with_reducible apply State.dcpCommand_keeps)
    | (with_reducible intro _ _)

theorem execDcpMode_keeps {s0 s : State} {a0 : DcpMsg} (h : Keeps s0 s) :
    KeepsR s0 (execDcpMode a0 s) := by
  unfold execDcpMode
  repeat' first
    | (with_reducible assumption)
    | (with_reducible apply State.dcpCommand_keeps)
    | (with_reducible apply State.dcpSetMode_keeps)
    | (with_reducible intro _ _)

theorem execDcpReply_keeps {s0 s : State} {a0 : Byte} {a1 : List Byte} (h : Keeps s0 s) :
    KeepsR s0 (execDcpReply a0 a1 s) := by
  unfold execDcpReply
  repeat' first
    | (with_reducible assumption)
    | (with_reducible apply State.dcpReplyCall_keeps)
    | (with_reducible apply KeepsR.next)
    | (with_reducible refine Keeps.of_ite (fun _ => ?_) (fun _ => ?_))
    | split

theorem execIdent_keeps {s0 s : State} {a0 : DcpMsg} (h : Keeps s0 s) :
    KeepsR s0 (execIdent a0 s) := by
  unfold execIdent
  repeat' first
    | (with_reducible assumption)
    | (with_reducible apply State.dcpCommand_keeps)
    | (with_reducible apply State.dcpIdent_keeps)
    | (with_reducible intro _ _)

theorem execImgcheck_keeps {s0 s : State} {a0 : DcpMsg} (h : Keeps s0 s) :
    KeepsR s0 (execImgcheck a0 s) := by
  unfold execImgcheck
  repeat' first
    | (with_reducible assumption)
    | (with_reducible apply State.dcpCommand_keeps)
    | (with_reducible apply State.dcpImgcheck_keeps)
    | (with_reducible intro _ _)

theorem execImgrun_keeps {s0 s : State} {a0 : DcpMsg} (h : Keeps s0 s) :
    KeepsR s0 (execImgrun a0 s) := by
  unfold execImgrun
  repeat' first
    | (with_reducible assumption)
    | (with_reducible apply State.dcpCommand_keeps)
    | (with_reducible apply State.dcpImgrun_keeps)
    | (with_reducible intro _ _)

theorem execImgwrite_keeps {s0 s : State} {a0 : DcpMsg} (h : Keeps s0 s) :
    KeepsR s0 (execImgwrite a0 s) := by
  unfold execImgwrite
  repeat' first
    | (with_reducible assumption)
    | (with_reducible apply State.dcpCommand_keeps)
    | (with_reducible apply State.dcpImgwrite_keeps)
    | (with_reducible intro _ _)

theorem execKeyset_keeps {s0 s : State} {a0 : DcpMsg} (h : Keeps s0 s) :
    KeepsR s0 (execKeyset a0 s) := by
  unfold execKeyset
  repeat' first
    | (with_reducible assumption)
    | (with_reducible apply State.dcpCommand_keeps)
    | (with_reducible apply State.dcpKeyset_keeps)
    | (with_reducible intro _ _)

theorem execLogread_keeps {s0 s : State} {a0 : DcpMsg} (h : Keeps s0 s) :
    KeepsR s0 (execLogread a0 s) := by
  unfold execLogread
  repeat' first
    | (with_reducible assumption)
    | (with_reducible apply State.dcpCommand_keeps)
    | (with_reducible apply State.dcpLogread_keeps)
    | (with_reducible intro _ _)

theorem execLread_keeps {s0 s : State} {a0 : DcpMsg} (h : Keeps s0 s) :
    KeepsR s0 (execLread a0 s) := by
  unfold execLread
  repeat' first
    | (with_reducible assumption)
    | (with_reducible apply State.dcpCommand_keeps)
    | (with_reducible apply State.dcpLread_keeps)
    | (with_reducible intro _ _)

theorem execLwrite_keeps {s0 s : State} {a0 : DcpMsg} (h : Keeps s0 s) :
    KeepsR s0 (execLwrite a0 s) := by
  unfold execLwrite
  repeat' first
    | (with_reducible assumption)
    | (with_reducible apply State.dcpCommand_keeps)
    | (with_reducible apply State.dcpLwrite_keeps)
    | (with_reducible intro _ _)

theorem execMinver_keeps {s0 s : State} {a0 : DcpMsg} (h : Keeps s0 s) :
    KeepsR s0 (execMinver a0 s) := by
  unfold execMinver
  repeat' first
    | (with_reducible assumption)
    | (with_reducible apply State.dcpCommand_keeps)
    | (with_reducible apply State.dcpMinver_keeps)
    | (with_reducible intro _ _)

theorem execNetset_keeps {s0 s : State} {a0 : DcpMsg} (h : Keeps s0 s) :
    KeepsR s0 (execNetset a0 s) := by
  unfold execNetset
  repeat' first
    | (with_reducible assumption)
    | (with_reducible apply State.dcpCommand_keeps)
    | (with_reducible apply State.dcpNetset_keeps)
    | (with_reducible intro _ _)

theorem execProgramCommand_keeps {s0 s : State} {a0 : DcpMsg} (h : Keeps s0 s) :
    KeepsR s0 (execProgramCommand a0 s) := by
  unfold execProgramCommand
  apply KeepsR.next
  refine Keeps.of_ite (fun _ => h) (fun _ => ?_)
  refine State.dcpServe_keeps (fun z hz r he => ?_) h
  dsimp only at he
  split at he
  · cases he; exact hz
  split at he
  · cases he; exact hz
  split at he
  · cases he; exact hz
  · cases he

/-- The same operation with a fault of its own. -/
theorem OpKeeps.withFault {s0 : State} {o : Op} {f : Option FaultInfo} (h : OpKeeps s0 o) : OpKeeps s0 { o with fault := f } :=
  ⟨h.early, h.effect, h.mid⟩

theorem State.farOp_keeps {s0 s : State} {a0 : Cpu} {a1 : Word} {a2 : List Word → Op} {a3 : State → State × Option (List Word)} (ha2 : ∀ l, OpKeeps s0 (a2 l)) (ha3 : ∀ z, Keeps s0 z → Keeps s0 (a3 z).1) (h : Keeps s0 s) :
    KeepsR s0 (State.farOp a0 a1 a2 a3 s) := by
  unfold State.farOp
  repeat' first
    | (with_reducible assumption)
    | (with_reducible apply ha2)
    | (with_reducible apply ha3)
    | (with_reducible apply State.cpuUntil_keeps)
    | (with_reducible apply State.holdAt_keeps)
    | (with_reducible apply State.instr_keeps)
    | (refine OpKeeps.withFault (ha2 _))
    | (simp only [Keeps.same])
    | (with_reducible refine Keeps.of_pair ‹_ = (_, _)› ?_)
    | split

theorem State.farSent_keeps {s0 s : State} {a0 : Cpu} {a1 : Nat} {a2 : Bool} {a3 : Nat} (h : Keeps s0 s) :
    Keeps s0 (State.farSent a0 a1 a2 a3 s) := by
  unfold State.farSent
  repeat' first
    | (with_reducible assumption)
    | (with_reducible apply State.modCpu_keeps)

theorem State.farAtomic_keeps {s0 s : State} {a0 : Cpu} {a1 : RegNo} {a2 a3 a4 : Nat} {a5 : Fin 8} {a6 : Word} (h : Keeps s0 s) :
    KeepsR s0 (State.farAtomic a0 a1 a2 a3 a4 a5 a6 s) := by
  unfold State.farAtomic
  repeat' first
    | (with_reducible assumption)
    | (with_reducible apply State.farOp_keeps)
    | (with_reducible apply State.farSent_keeps)
    | (with_reducible apply State.fullAtom_keeps)
    | (with_reducible apply State.modCpu_keeps)
    | (with_reducible apply State.spend_keeps)
    | (refine OpKeeps.noMid (fun _ _ => ?_) (fun _ _ => ?_) rfl)
    | (with_reducible intro _ _)
    | (with_reducible intro _)
    | (dsimp only [Op.nop, aluOp, flagOp, pairOp, transferOp, id, dcpDone, dcpFail, State.loadOp, State.storeOp, State.pushOp, State.popOp, State.callOp, State.retOp, State.bitBranchOp, State.bitReadOp, State.bitWriteOp, State.farLoadOp, State.farStoreOp, State.farAtomOp])

theorem State.farLoad_keeps {s0 s : State} {a0 : Cpu} {a1 : RegNo} {a2 : Nat} {a3 : Fin 8} {a4 : Word} (h : Keeps s0 s) :
    KeepsR s0 (State.farLoad a0 a1 a2 a3 a4 s) := by
  unfold State.farLoad
  repeat' first
    | (with_reducible assumption)
    | (with_reducible apply State.farOp_keeps)
    | (with_reducible apply State.farSent_keeps)
    | (with_reducible apply State.fullRead_keeps)
    | (with_reducible apply State.modCpu_keeps)
    | (with_reducible apply State.spend_keeps)
    | (refine OpKeeps.noMid (fun _ _ => ?_) (fun _ _ => ?_) rfl)
    | (with_reducible intro _ _)
    | (with_reducible intro _)
    | (dsimp only [Op.nop, aluOp, flagOp, pairOp, transferOp, id, dcpDone, dcpFail, State.loadOp, State.storeOp, State.pushOp, State.popOp, State.callOp, State.retOp, State.bitBranchOp, State.bitReadOp, State.bitWriteOp, State.farLoadOp, State.farStoreOp, State.farAtomOp])

theorem State.farStore_keeps {s0 s : State} {a0 : Cpu} {a1 : RegNo} {a2 : Nat} {a3 : Fin 8} {a4 : Word} (h : Keeps s0 s) :
    KeepsR s0 (State.farStore a0 a1 a2 a3 a4 s) := by
  unfold State.farStore
  repeat' first
    | (with_reducible assumption)
    | (with_reducible apply State.farOp_keeps)
    | (with_reducible apply State.farSent_keeps)
    | (with_reducible apply State.fullWrite_keeps)
    | (with_reducible apply State.spend_keeps)
    | (simp only [Keeps.same])
    | (refine OpKeeps.noMid (fun _ _ => ?_) (fun _ _ => ?_) rfl)
    | (with_reducible intro _ _)
    | (with_reducible intro _)
    | (dsimp only [Op.nop, aluOp, flagOp, pairOp, transferOp, id, dcpDone, dcpFail, State.loadOp, State.storeOp, State.pushOp, State.popOp, State.callOp, State.retOp, State.bitBranchOp, State.bitReadOp, State.bitWriteOp, State.farLoadOp, State.farStoreOp, State.farAtomOp])

theorem execFadd32_keeps {s0 s : State} {a0 : Cpu} {a1 : RegNo} {a2 : Fin 8} {a3 : Word} (h : Keeps s0 s) :
    KeepsR s0 (execFadd32 a0 a1 a2 a3 s) := by
  unfold execFadd32
  repeat' first
    | (with_reducible assumption)
    | (with_reducible apply State.farAtomic_keeps)

theorem execFadd64_keeps {s0 s : State} {a0 : Cpu} {a1 : RegNo} {a2 : Fin 8} {a3 : Word} (h : Keeps s0 s) :
    KeepsR s0 (execFadd64 a0 a1 a2 a3 s) := by
  unfold execFadd64
  repeat' first
    | (with_reducible assumption)
    | (with_reducible apply State.farAtomic_keeps)

theorem execFcas32_keeps {s0 s : State} {a0 : Cpu} {a1 : RegNo} {a2 : Fin 8} {a3 : Word} (h : Keeps s0 s) :
    KeepsR s0 (execFcas32 a0 a1 a2 a3 s) := by
  unfold execFcas32
  repeat' first
    | (with_reducible assumption)
    | (with_reducible apply State.farAtomic_keeps)

theorem execFcas64_keeps {s0 s : State} {a0 : Cpu} {a1 : RegNo} {a2 : Fin 8} {a3 : Word} (h : Keeps s0 s) :
    KeepsR s0 (execFcas64 a0 a1 a2 a3 s) := by
  unfold execFcas64
  repeat' first
    | (with_reducible assumption)
    | (with_reducible apply State.farAtomic_keeps)

theorem execFswp32_keeps {s0 s : State} {a0 : Cpu} {a1 : RegNo} {a2 : Fin 8} {a3 : Word} (h : Keeps s0 s) :
    KeepsR s0 (execFswp32 a0 a1 a2 a3 s) := by
  unfold execFswp32
  repeat' first
    | (with_reducible assumption)
    | (with_reducible apply State.farAtomic_keeps)

theorem execFswp64_keeps {s0 s : State} {a0 : Cpu} {a1 : RegNo} {a2 : Fin 8} {a3 : Word} (h : Keeps s0 s) :
    KeepsR s0 (execFswp64 a0 a1 a2 a3 s) := by
  unfold execFswp64
  repeat' first
    | (with_reducible assumption)
    | (with_reducible apply State.farAtomic_keeps)

theorem execLdf_keeps {s0 s : State} {a0 : Cpu} {a1 : RegNo} {a2 : Fin 8} {a3 : Word} (h : Keeps s0 s) :
    KeepsR s0 (execLdf a0 a1 a2 a3 s) := by
  unfold execLdf
  repeat' first
    | (with_reducible assumption)
    | (with_reducible apply State.farLoad_keeps)

theorem execLdfp_keeps {s0 s : State} {a0 : Cpu} {a1 : RegNo} {a2 : Fin 8} {a3 : Word} (h : Keeps s0 s) :
    KeepsR s0 (execLdfp a0 a1 a2 a3 s) := by
  unfold execLdfp
  repeat' first
    | (with_reducible assumption)
    | (with_reducible apply State.farLoad_keeps)

end Sys2Proof.Machine
end

