-- ==== Sys2Proof/Laws/Kept14.lean ====
section
/-! SUPPORT. What the operations of the block keep, part 14 of 14: each leaves the queue, the part and what was sent,
uses free values up in order, and keeps a sound state sound (the relation of Laws/Keeps.lean). -/

set_option linter.all false

namespace Sys2Proof.Machine

open Sys2Proof

theorem execMfseg_keeps {s0 s : State} {a0 : Cpu} {a1 : RegNo} {a2 : Fin 8} (h : Keeps s0 s) :
    KeepsR s0 (execMfseg a0 a1 a2 s) := by
  unfold execMfseg
  repeat' first
    | (with_reducible assumption)
    | (with_reducible apply State.instr_keeps)
    | (with_reducible apply State.modCpu_keeps)
    | (simp only [Keeps.same])
    | (refine OpKeeps.noMid (fun _ _ => ?_) (fun _ _ => ?_) rfl)
    | (dsimp only [Op.nop, aluOp, flagOp, pairOp, transferOp, id, dcpDone, dcpFail, State.loadOp, State.storeOp, State.pushOp, State.popOp, State.callOp, State.retOp, State.bitBranchOp, State.bitReadOp, State.bitWriteOp, State.farLoadOp, State.farStoreOp, State.farAtomOp])

theorem execMtseg_keeps {s0 s : State} {a0 : Cpu} {a1 : Fin 8} {a2 : RegNo} (h : Keeps s0 s) :
    KeepsR s0 (execMtseg a0 a1 a2 s) := by
  unfold execMtseg
  repeat' first
    | (with_reducible assumption)
    | (with_reducible apply State.instr_keeps)
    | (with_reducible apply State.modCpu_keeps)
    | (simp only [Keeps.same])
    | (refine OpKeeps.noMid (fun _ _ => ?_) (fun _ _ => ?_) rfl)
    | (dsimp only [Op.nop, aluOp, flagOp, pairOp, transferOp, id, dcpDone, dcpFail, State.loadOp, State.storeOp, State.pushOp, State.popOp, State.callOp, State.retOp, State.bitBranchOp, State.bitReadOp, State.bitWriteOp, State.farLoadOp, State.farStoreOp, State.farAtomOp])

theorem execStf_keeps {s0 s : State} {a0 : Cpu} {a1 : RegNo} {a2 : Fin 8} {a3 : Word} (h : Keeps s0 s) :
    KeepsR s0 (execStf a0 a1 a2 a3 s) := by
  unfold execStf
  repeat' first
    | (with_reducible assumption)
    | (with_reducible apply State.farStore_keeps)

theorem execStfp_keeps {s0 s : State} {a0 : Cpu} {a1 : RegNo} {a2 : Fin 8} {a3 : Word} (h : Keeps s0 s) :
    KeepsR s0 (execStfp a0 a1 a2 a3 s) := by
  unfold execStfp
  repeat' first
    | (with_reducible assumption)
    | (with_reducible apply State.farStore_keeps)

theorem State.divide_keeps {s0 s : State} {a0 : Cpu} {a1 a2 : RegNo} {a3 a4 : Word} {a5 : Bool} (h : Keeps s0 s) :
    KeepsR s0 (State.divide a0 a1 a2 a3 a4 a5 s) := by
  unfold State.divide
  repeat' first
    | (with_reducible assumption)
    | (with_reducible apply State.instr_keeps)
    | (with_reducible apply State.modCpu_keeps)
    | (simp only [Keeps.same])
    | (refine OpKeeps.noMid (fun _ _ => ?_) (fun _ _ => ?_) rfl)
    | (dsimp only [Op.nop, aluOp, flagOp, pairOp, transferOp, id, dcpDone, dcpFail, State.loadOp, State.storeOp, State.pushOp, State.popOp, State.callOp, State.retOp, State.bitBranchOp, State.bitReadOp, State.bitWriteOp, State.farLoadOp, State.farStoreOp, State.farAtomOp])

theorem State.macc_keeps {s0 s : State} {a0 : Cpu} {a1 a2 a3 : RegNo} {a4 : Nat} {a5 : Bool} (h : Keeps s0 s) :
    KeepsR s0 (State.macc a0 a1 a2 a3 a4 a5 s) := by
  unfold State.macc
  repeat' first
    | (with_reducible assumption)
    | (with_reducible apply State.instr_keeps)
    | (with_reducible apply State.modCpu_keeps)
    | (refine OpKeeps.noMid (fun _ _ => ?_) (fun _ _ => ?_) rfl)
    | (dsimp only [Op.nop, aluOp, flagOp, pairOp, transferOp, id, dcpDone, dcpFail, State.loadOp, State.storeOp, State.pushOp, State.popOp, State.callOp, State.retOp, State.bitBranchOp, State.bitReadOp, State.bitWriteOp, State.farLoadOp, State.farStoreOp, State.farAtomOp])

theorem State.mulPair_keeps {s0 s : State} {a0 : Cpu} {a1 a2 : RegNo} {a3 : Nat} (h : Keeps s0 s) :
    KeepsR s0 (State.mulPair a0 a1 a2 a3 s) := by
  unfold State.mulPair
  repeat' first
    | (with_reducible assumption)
    | (with_reducible apply State.instr_keeps)
    | (with_reducible apply State.modCpu_keeps)
    | (refine OpKeeps.noMid (fun _ _ => ?_) (fun _ _ => ?_) rfl)
    | (dsimp only [Op.nop, aluOp, flagOp, pairOp, transferOp, id, dcpDone, dcpFail, State.loadOp, State.storeOp, State.pushOp, State.popOp, State.callOp, State.retOp, State.bitBranchOp, State.bitReadOp, State.bitWriteOp, State.farLoadOp, State.farStoreOp, State.farAtomOp])

theorem execDivs_keeps {s0 s : State} {a0 : Cpu} {a1 a2 : RegNo} (h : Keeps s0 s) :
    KeepsR s0 (execDivs a0 a1 a2 s) := by
  unfold execDivs
  repeat' first
    | (with_reducible assumption)
    | (with_reducible apply State.divide_keeps)

theorem execDivu_keeps {s0 s : State} {a0 : Cpu} {a1 a2 : RegNo} (h : Keeps s0 s) :
    KeepsR s0 (execDivu a0 a1 a2 s) := by
  unfold execDivu
  repeat' first
    | (with_reducible assumption)
    | (with_reducible apply State.divide_keeps)

theorem execMac_keeps {s0 s : State} {a0 : Cpu} {a1 a2 a3 : RegNo} (h : Keeps s0 s) :
    KeepsR s0 (execMac a0 a1 a2 a3 s) := by
  unfold execMac
  repeat' first
    | (with_reducible assumption)
    | (with_reducible apply State.macc_keeps)

theorem execMacf_keeps {s0 s : State} {a0 : Cpu} {a1 a2 a3 : RegNo} (h : Keeps s0 s) :
    KeepsR s0 (execMacf a0 a1 a2 a3 s) := by
  unfold execMacf
  repeat' first
    | (with_reducible assumption)
    | (with_reducible apply State.macc_keeps)

theorem execMacu_keeps {s0 s : State} {a0 : Cpu} {a1 a2 a3 : RegNo} (h : Keeps s0 s) :
    KeepsR s0 (execMacu a0 a1 a2 a3 s) := by
  unfold execMacu
  repeat' first
    | (with_reducible assumption)
    | (with_reducible apply State.macc_keeps)

theorem execMul_keeps {s0 s : State} {a0 : Cpu} {a1 a2 : RegNo} (h : Keeps s0 s) :
    KeepsR s0 (execMul a0 a1 a2 s) := by
  unfold execMul
  repeat' first
    | (with_reducible assumption)
    | (with_reducible apply State.mulPair_keeps)

theorem execMull_keeps {s0 s : State} {a0 : Cpu} {a1 a2 : RegNo} (h : Keeps s0 s) :
    KeepsR s0 (execMull a0 a1 a2 s) := by
  unfold execMull
  repeat' first
    | (with_reducible assumption)
    | (with_reducible apply State.instr_keeps)
    | (with_reducible apply State.modCpu_keeps)
    | (simp only [Keeps.same])
    | (refine OpKeeps.noMid (fun _ _ => ?_) (fun _ _ => ?_) rfl)
    | (dsimp only [Op.nop, aluOp, flagOp, pairOp, transferOp, id, dcpDone, dcpFail, State.loadOp, State.storeOp, State.pushOp, State.popOp, State.callOp, State.retOp, State.bitBranchOp, State.bitReadOp, State.bitWriteOp, State.farLoadOp, State.farStoreOp, State.farAtomOp])

theorem execMulu_keeps {s0 s : State} {a0 : Cpu} {a1 a2 : RegNo} (h : Keeps s0 s) :
    KeepsR s0 (execMulu a0 a1 a2 s) := by
  unfold execMulu
  repeat' first
    | (with_reducible assumption)
    | (with_reducible apply State.mulPair_keeps)

theorem State.engineClocks_keeps {s0 s : State} {a0 : Nat} (h : Keeps s0 s) :
    Keeps s0 (State.engineClocks a0 s) := by
  unfold State.engineClocks
  repeat' first
    | (with_reducible assumption)
    | (with_reducible apply State.addCnt_keeps)
    | (with_reducible refine Keeps.of_ite (fun _ => ?_) (fun _ => ?_))

theorem State.loamTick_keeps {s0 s : State} (h : Keeps s0 s) :
    Keeps s0 (State.loamTick s) := by
  unfold State.loamTick
  repeat' first
    | (with_reducible assumption)
    | (simp only [Keeps.same])

theorem State.milli_keeps {s0 s : State} (h : Keeps s0 s) :
    Keeps s0 (State.milli s) := by
  unfold State.milli
  repeat' first
    | (with_reducible assumption)
    | (simp only [Keeps.same])

theorem State.nvTick_keeps {s0 s : State} (h : Keeps s0 s) :
    Keeps s0 (State.nvTick s) := by
  unfold State.nvTick
  repeat' first
    | (with_reducible assumption)
    | (simp only [Keeps.same])

theorem State.phaseTick_keeps {s0 s : State} (h : Keeps s0 s) :
    Keeps s0 (State.phaseTick s) := by
  unfold State.phaseTick
  repeat' first
    | (with_reducible assumption)
    | (simp only [Keeps.same])

theorem State.romAnswer_keeps {s0 s : State} {a0 : Nat} (h : Keeps s0 s) :
    Keeps s0 (State.romAnswer a0 s) := by
  unfold State.romAnswer
  dsimp only
  refine Keeps.of_ite (fun _ => State.spend_keeps h) (fun _ => ?_)
  exact h.upd rfl rfl (Nat.le_add_right _ _) (List.suffix_cons _ _) (fun i => ⟨i.mem, i.bad, i.wake, i.slip, i.halt, i.mbq, i.quar⟩)

theorem State.romNetwork_keeps {s0 s : State} (h : Keeps s0 s) :
    Keeps s0 (State.romNetwork s) := by
  unfold State.romNetwork
  repeat' first
    | (with_reducible assumption)
    | (with_reducible apply State.bootRearm_keeps)
    | (with_reducible apply State.romAnswer_keeps)
    | (with_reducible refine Keeps.foldl (fun _ _ _ => ?_) _ ?_)

theorem State.wdTick_keeps {s0 s : State} {a1 : Fin 4} (h : Keeps s0 s) :
    Keeps s0 (State.wdTick s a1) := by
  unfold State.wdTick
  repeat' first
    | (with_reducible assumption)
    | (with_reducible apply State.modKeeper_keeps)
    | (with_reducible refine Keeps.of_ite (fun _ => ?_) (fun _ => ?_))

theorem State.utility_keeps {s0 s : State} (h : Keeps s0 s) :
    Keeps s0 (State.utility s) := by
  unfold State.utility
  repeat' first
    | (with_reducible assumption)
    | (with_reducible apply State.loamTick_keeps)
    | (with_reducible apply State.milli_keeps)
    | (with_reducible apply State.nvTick_keeps)
    | (with_reducible apply State.phaseTick_keeps)
    | (with_reducible apply State.pinsTick_keeps)
    | (with_reducible apply State.romNetwork_keeps)
    | (with_reducible apply State.wdTick_keeps)
    | (simp only [Keeps.same])
    | (with_reducible refine Keeps.of_ite (fun _ => ?_) (fun _ => ?_))

theorem State.cycle_keeps {s0 s : State} (h : Keeps s0 s) :
    Keeps s0 (State.cycle s) := by
  unfold State.cycle
  repeat' first
    | (with_reducible assumption)
    | (with_reducible apply State.engineClocks_keeps)
    | (with_reducible apply State.pinsCycle_keeps)
    | (with_reducible apply State.utility_keeps)
    | (simp only [Keeps.same])
    | (with_reducible refine Keeps.of_ite (fun _ => ?_) (fun _ => ?_))

end Sys2Proof.Machine
end

