-- ==== Sys2Proof/Laws/SameCpu.lean ====
section
/-! SUPPORT. What the passing of time leaves alone: the registers of every processor. Only the count of its cycles moves. -/

namespace Sys2Proof.Machine

/-- The processor of a session stands as it did. -/
def SameX (x y : Session) : Prop := y.cpu.core = x.cpu.core

/-- Every processor stands as it did, where no context command waits. -/
structure SameCpu (s t : State) : Prop where
  waits : s.noneWaits → t.noneWaits
  ses : s.noneWaits → ∀ c, (t.ses c).map (fun x => x.cpu.core) = (s.ses c).map (fun x => x.cpu.core)
  keeper : s.noneWaits → ∀ k, (t.keeper k).cpu.core = (s.keeper k).cpu.core

theorem SameCpu.refl (s : State) : SameCpu s s := ⟨id, fun _ _ => rfl, fun _ _ => rfl⟩
theorem SameCpu.trans {a b c : State} (h : SameCpu a b) (k : SameCpu b c) : SameCpu a c :=
  ⟨k.waits ∘ h.waits, fun w i => (k.ses (h.waits w) i).trans (h.ses w i),
    fun w i => (k.keeper (h.waits w) i).trans (h.keeper w i)⟩

/-- Every register of a processor stands as it did. -/
theorem SameCpu.cpu {s t : State} (h : SameCpu s t) (w : s.noneWaits) (p : Cpu) : (t.cpu p).core = (s.cpu p).core := by
  cases p with
  | session c =>
    have := h.ses w c
    simp only [State.cpu, State.sesD]
    cases hs : s.ses c <;> cases ht : t.ses c <;> simp_all
  | keeper k => exact h.keeper w k

theorem SameX.refl (x : Session) : SameX x x := rfl

def SameCpuO (s : State) (o : Option State) : Prop := ∀ t, o = some t → SameCpu s t
def SameCpuOf {α : Type} (s : State) (o : Option (α × State)) : Prop := ∀ a t, o = some (a, t) → SameCpu s t
def SameCpuFo {α : Type} (s : State) (o : Option (State × α)) : Prop := ∀ t a, o = some (t, a) → SameCpu s t

section
variable {s0 s t : State} {x0 x y : Session} {α β : Type}

theorem SameCpuO.none : SameCpuO s0 none := fun _ h => nomatch h
theorem SameCpuO.some (h : SameCpu s0 t) : SameCpuO s0 (some t) := fun _ e => by cases e; exact h
theorem SameCpuO.map {o : Option State} {f : State → State} (h : SameCpuO s0 o) (hf : ∀ z, SameCpu s0 z → SameCpu s0 (f z)) :
    SameCpuO s0 (o.map f) := by
  intro t e
  obtain ⟨z, hz, rfl⟩ := Option.map_eq_some_iff.mp e
  exact hf z (h z hz)
theorem SameCpuO.mapOf {o : Option (α × State)} {f : α × State → State} (h : SameCpuOf s0 o)
    (hf : ∀ a z, SameCpu s0 z → SameCpu s0 (f (a, z))) : SameCpuO s0 (o.map f) := by
  intro t e
  obtain ⟨⟨a, z⟩, hz, rfl⟩ := Option.map_eq_some_iff.mp e
  exact hf a z (h a z hz)
theorem SameCpuO.mapFo {o : Option (State × α)} {f : State × α → State} (h : SameCpuFo s0 o)
    (hf : ∀ z a, SameCpu s0 z → SameCpu s0 (f (z, a))) : SameCpuO s0 (o.map f) := by
  intro t e
  obtain ⟨⟨z, a⟩, hz, rfl⟩ := Option.map_eq_some_iff.mp e
  exact hf z a (h z a hz)
theorem SameCpuOf.none : SameCpuOf (α := α) s0 none := fun _ _ h => nomatch h
theorem SameCpuOf.some {a : α} (h : SameCpu s0 t) : SameCpuOf s0 (some (a, t)) := fun _ _ e => by cases e; exact h
theorem SameCpuOf.mapVal {o : Option β} {f : β → α × State} (hf : ∀ b, SameCpu s0 (f b).2) : SameCpuOf s0 (o.map f) := by
  intro a t e
  obtain ⟨b, -, he⟩ := Option.map_eq_some_iff.mp e
  have := hf b
  rw [he] at this
  exact this
theorem SameCpuOf.bindVal {o : Option β} {f : β → Option (α × State)} (hf : ∀ b, SameCpuOf s0 (f b)) :
    SameCpuOf s0 (o.bind f) := by
  intro a t e
  obtain ⟨b, -, he⟩ := Option.bind_eq_some_iff.mp e
  exact hf b a t he
theorem SameCpuFo.none : SameCpuFo (α := α) s0 none := fun _ _ h => nomatch h
theorem SameCpuFo.some {a : α} (h : SameCpu s0 t) : SameCpuFo s0 (some (t, a)) := fun _ _ e => by cases e; exact h
theorem SameCpuFo.map {o : Option (State × α)} {f : State × α → State × β} (h : SameCpuFo s0 o)
    (hf : ∀ z a, SameCpu s0 z → SameCpu s0 (f (z, a)).1) : SameCpuFo s0 (o.map f) := by
  intro t b e
  obtain ⟨⟨z, a⟩, hz, he⟩ := Option.map_eq_some_iff.mp e
  have := hf z a (h z a hz)
  rw [he] at this
  exact this
theorem SameCpu.of_some {o : Option State} (e : o = some t) (h : SameCpuO s0 o) : SameCpu s0 t := h t e
theorem SameCpu.of_someP {o : Option (α × State)} {a : α} (e : o = some (a, t)) (h : SameCpuOf s0 o) : SameCpu s0 t := h a t e
theorem SameCpu.of_someF {o : Option (State × α)} {a : α} (e : o = some (t, a)) (h : SameCpuFo s0 o) : SameCpu s0 t := h t a e
theorem SameCpu.of_pair {p : State × α} {a : α} (e : p = (t, a)) (h : SameCpu s0 p.1) : SameCpu s0 t := by
  subst e; exact h
theorem SameCpu.of_pairF {p : α × State} {a : α} (e : p = (a, t)) (h : SameCpu s0 p.2) : SameCpu s0 t := by
  subst e; exact h
theorem SameCpu.of_ite {c : Prop} [Decidable c] {p q : State} (hp : c → SameCpu s0 p) (hq : ¬c → SameCpu s0 q) :
    SameCpu s0 (if c then p else q) := by
  split
  · exact hp ‹_›
  · exact hq ‹_›
theorem SameCpu.of_iteP {c : Prop} [Decidable c] {p q : State × α} (hp : c → SameCpu s0 p.1) (hq : ¬c → SameCpu s0 q.1) :
    SameCpu s0 (if c then p else q).1 := by
  split
  · exact hp ‹_›
  · exact hq ‹_›
theorem SameCpu.foldl {f : State → β → State} (hf : ∀ z b, SameCpu s0 z → SameCpu s0 (f z b)) (l : List β) :
    ∀ {s : State}, SameCpu s0 s → SameCpu s0 (l.foldl f s) := by
  induction l with
  | nil => intro s h; exact h
  | cons b l ih => intro s h; exact ih (hf s b h)
theorem SameCpu.foldlP {f : State × α → β → State × α} (hf : ∀ z b, SameCpu s0 z.1 → SameCpu s0 (f z b).1) (l : List β) :
    ∀ {s : State × α}, SameCpu s0 s.1 → SameCpu s0 (l.foldl f s).1 := by
  induction l with
  | nil => intro s h; exact h
  | cons b l ih => intro s h; exact ih (hf s b h)
theorem SameCpu.getD {o : Option State} (ho : SameCpuO s0 o) (h : SameCpu s0 s) : SameCpu s0 (o.getD s) := by
  cases o with
  | none => exact h
  | some t => exact ho t rfl

theorem SameX.of_ite {c : Prop} [Decidable c] {p q : Session} (hp : c → SameX x0 p) (hq : ¬c → SameX x0 q) :
    SameX x0 (if c then p else q) := by
  split
  · exact hp ‹_›
  · exact hq ‹_›
theorem SameX.foldl {f : Session → β → Session} (hf : ∀ z b, SameX x0 z → SameX x0 (f z b)) (l : List β) :
    ∀ {x : Session}, SameX x0 x → SameX x0 (l.foldl f x) := by
  induction l with
  | nil => intro s h; exact h
  | cons b l ih => intro s h; exact ih (hf s b h)

/-- An update of a session beside its processor. -/
theorem SameX.same {x1 x2 x3 x4 x5 x6 x7 x8 x9 x10 x11 x12 x13 x14 x15 x16 x17 x18 x19 x20 x21 x22 x23 x24 x25 x26
    x27 x28 x29 x30 x31 x32 x33 x34 x35 x36 x37 x38 x39 x40 x41 x42} :
    SameX x0 ⟨x.cpu, x1, x2, x3, x4, x5, x6, x7, x8, x9, x10, x11, x12, x13, x14, x15, x16, x17, x18, x19, x20, x21,
      x22, x23, x24, x25, x26, x27, x28, x29, x30, x31, x32, x33, x34, x35, x36, x37, x38, x39, x40, x41, x42⟩ ↔ SameX x0 x := Iff.rfl

/-- An update beside contexts and Keepers. -/
theorem SameCpu.same {x1 x2 x3 x4 x5 x6 x7 x8 x9 x10 x11 x12 x14 x15 x16 x17 x18 x19 x20 x21 x24 x25 x26 x27 x28 x29
    x30 x31 x32 x33 x34 x35 x36 x37 x38 x39 x40 x41 x42 x43 x44 x45 x46} :
    SameCpu s0 ⟨x1, x2, x3, x4, x5, x6, x7, x8, x9, x10, x11, x12, s.ctxs, x14, x15, x16, x17, x18, x19, x20, x21,
      s.ports, s.keepers, x24, x25, x26, x27, x28, x29, x30, x31, x32, x33, x34, x35, x36, x37, x38, x39, x40, x41,
      x42, x43, x44, x45, x46⟩ ↔ SameCpu s0 s :=
  ⟨fun h => ⟨h.waits, h.ses, h.keeper⟩, fun h => ⟨h.waits, h.ses, h.keeper⟩⟩

/-! ### Contexts, sessions and Keepers -/

theorem State.ctx_setCtx (c c' : CtxNo) (x : Context) (s : State) :
    (s.setCtx c x).ctx c' = if c' = c then x else s.ctx c' := by
  unfold State.ctx State.setCtx
  rw [Sparse.get_set]
  by_cases h : c' = c
  · simp [h]
  · have : c'.toNat ≠ c.toNat := fun e => h (BitVec.eq_of_toNat_eq e)
    simp [h, this]

theorem State.setCtx_cpu {c : CtxNo} {x : Context} (hx : x.ses.map (fun x => x.cpu.core) = (s.ses c).map (fun x => x.cpu.core))
    (h : SameCpu s0 s) : SameCpu s0 (s.setCtx c x) := by
  refine ⟨h.waits, fun w i => ?_, h.keeper⟩
  rw [← h.ses w i]
  unfold State.ses
  rw [State.ctx_setCtx]
  split
  · subst_vars; exact hx
  · rfl

theorem State.modCtx_cpu {c : CtxNo} {f : Context → Context} (hf : ∀ x, (f x).ses = x.ses) (h : SameCpu s0 s) :
    SameCpu s0 (s.modCtx c f) := State.setCtx_cpu (by rw [hf]; rfl) h

theorem State.modSes_cpu {c : CtxNo} {f : Session → Session} (hf : ∀ x, SameX x (f x)) (h : SameCpu s0 s) :
    SameCpu s0 (s.modSes c f) := by
  refine State.setCtx_cpu ?_ h
  rw [Option.map_map]
  unfold State.ses
  congr 1
  funext x
  exact hf x

/-- A session is put back changed. -/
theorem State.putSes_cpu {c : CtxNo} (e : s.ses c = some x) (hy : SameX x y) (h : SameCpu s0 s) :
    SameCpu s0 (s.modSes c (fun _ => y)) := by
  refine State.setCtx_cpu ?_ h
  have e1 : (s.ctx c).ses = some x := e
  rw [e, Option.map_map, e1]
  exact congrArg some hy

theorem SameX.foldlP {f : Session × α → β → Session × α} (hf : ∀ z b, SameX x0 z.1 → SameX x0 (f z b).1) (l : List β) :
    ∀ {x : Session × α}, SameX x0 x.1 → SameX x0 (l.foldl f x).1 := by
  induction l with
  | nil => intro s h; exact h
  | cons b l ih => intro s h; exact ih (hf s b h)

/-- Where nothing waits on a port, a quarantine ends no command. -/
theorem State.endWaiting_cpu {c : CtxNo} (h : SameCpu s0 s) : SameCpu s0 (s.endWaiting c) := by
  have e : s.noneWaits → s.endWaiting c = s := by
    intro w
    unfold State.endWaiting
    have w0 := w 0
    have w1 := w 1
    have w2 := w 2
    have w3 := w 3
    simp only [List.foldl_cons, List.foldl_nil, w0, w1, w2, w3]
  exact ⟨fun w => by rw [e (h.waits w)]; exact h.waits w, fun w => by rw [e (h.waits w)]; exact h.ses w,
    fun w => by rw [e (h.waits w)]; exact h.keeper w⟩

/-- Where nothing waits on a port, a boundary completes no SNAPSHOT or FORK. -/
theorem State.snapBoundary_cpu {c : CtxNo} (h : SameCpu s0 s) : SameCpu s0 (s.snapBoundary c) := by
  have e : s.noneWaits → s.snapBoundary c = s := by
    intro w
    unfold State.snapBoundary
    have w0 := w 0
    have w1 := w 1
    have w2 := w 2
    have w3 := w 3
    simp only [List.foldl_cons, List.foldl_nil, w0, w1, w2, w3]
  exact ⟨fun w => by rw [e (h.waits w)]; exact h.waits w, fun w => by rw [e (h.waits w)]; exact h.ses w,
    fun w => by rw [e (h.waits w)]; exact h.keeper w⟩

theorem State.modKeeper_cpu {k : Fin 4} {f : Keeper → Keeper} (hf : ∀ x, (f x).cpu.core = x.cpu.core) (h : SameCpu s0 s) :
    SameCpu s0 (s.modKeeper k f) := by
  refine ⟨h.waits, h.ses, fun w i => ?_⟩
  rw [← h.keeper w i]
  unfold State.modKeeper State.setKeeper State.keeper
  simp only [Vector.getElem_set]
  split
  · rename_i e
    have : k = i := Fin.ext e
    subst this
    exact hf _
  · rfl

end

end Sys2Proof.Machine
end

