-- ==== Sys2Proof/Laws/Registers.lean ====
section
/-! SUPPORT. The passing of time keeps every processor's registers: one lemma for each operation that passes time, by the
relation of Laws/SameCpu.lean. -/

set_option linter.all false

namespace Sys2Proof.Machine

open Sys2Proof

theorem Session.setIo_cpu {x0 x : Session} {a0 a1 : Nat} (h : SameX x0 x) :
    SameX x0 (Session.setIo a0 a1 x) := by
  unfold Session.setIo
  repeat' first
    | (with_reducible assumption)
    | (simp only [SameX.same])

theorem Session.countIo_cpu {x0 x : Session} {a0 a1 : Nat} (h : SameX x0 x) :
    SameX x0 (Session.countIo a0 a1 x) := by
  unfold Session.countIo
  repeat' first
    | (with_reducible assumption)
    | (with_reducible apply Session.setIo_cpu)

theorem Session.orIo_cpu {x0 x : Session} {a0 a1 : Nat} (h : SameX x0 x) :
    SameX x0 (Session.orIo a0 a1 x) := by
  unfold Session.orIo
  repeat' first
    | (with_reducible assumption)
    | (with_reducible apply Session.setIo_cpu)

theorem Session.setForce_cpu {x0 x : Session} {a0 a1 : Nat} (h : SameX x0 x) :
    SameX x0 (Session.setForce a0 a1 x) := by
  unfold Session.setForce
  repeat' first
    | (with_reducible assumption)
    | (simp only [SameX.same])

theorem Session.setLive_cpu {x0 x : Session} {a0 a1 : Nat} (h : SameX x0 x) :
    SameX x0 (Session.setLive a0 a1 x) := by
  unfold Session.setLive
  repeat' first
    | (with_reducible assumption)
    | (simp only [SameX.same])

theorem State.setCnt_cpu {s0 s : State} {a0 a1 : Nat} (h : SameCpu s0 s) :
    SameCpu s0 (State.setCnt a0 a1 s) := by
  unfold State.setCnt
  repeat' first
    | (with_reducible assumption)
    | (simp only [SameCpu.same])

theorem State.addCnt_cpu {s0 s : State} {a0 a1 : Nat} (h : SameCpu s0 s) :
    SameCpu s0 (State.addCnt a0 a1 s) := by
  unfold State.addCnt
  repeat' first
    | (with_reducible assumption)
    | (with_reducible apply State.setCnt_cpu)

theorem State.alogStart_cpu {s0 s : State} (h : SameCpu s0 s) :
    SameCpu s0 (State.alogStart s) := by
  unfold State.alogStart
  repeat' first
    | (with_reducible assumption)
    | (simp only [SameX.same])
    | (simp only [SameCpu.same])
    | split

theorem State.alogAccept_cpu {s0 s : State} {a0 : AlogOffer} {a1 : Nat} (h : SameCpu s0 s) :
    SameCpu s0 (State.alogAccept a0 a1 s) := by
  unfold State.alogAccept
  repeat' first
    | (with_reducible assumption)
    | (with_reducible apply State.alogStart_cpu)
    | (simp only [SameX.same])
    | (simp only [SameCpu.same])

theorem State.setReg_cpu {s0 s : State} {a0 a1 : Nat} (h : SameCpu s0 s) :
    SameCpu s0 (State.setReg a0 a1 s) := by
  unfold State.setReg
  repeat' first
    | (with_reducible assumption)
    | (simp only [SameCpu.same])

theorem State.countReg_cpu {s0 s : State} {a0 a1 : Nat} (h : SameCpu s0 s) :
    SameCpu s0 (State.countReg a0 a1 s) := by
  unfold State.countReg
  repeat' first
    | (with_reducible assumption)
    | (with_reducible apply State.setReg_cpu)

theorem State.dicPend_cpu {s0 s : State} {a0 : Nat} (h : SameCpu s0 s) :
    SameCpu s0 (State.dicPend a0 s) := by
  unfold State.dicPend
  repeat' first
    | (with_reducible assumption)
    | (simp only [SameX.same])
    | (simp only [SameCpu.same])
    | (with_reducible refine SameCpu.of_ite (fun _ => ?_) (fun _ => ?_))

theorem State.dicSettleOne_cpu {s0 s : State} {a0 : Fin 4} (h : SameCpu s0 s) :
    SameCpu s0 (State.dicSettleOne a0 s) := by
  unfold State.dicSettleOne
  repeat' first
    | (with_reducible assumption)
    | (with_reducible apply State.modKeeper_cpu)
    | (simp only [SameX.same])
    | (with_reducible intro _)

theorem State.dicSettle_cpu {s0 s : State} (h : SameCpu s0 s) :
    SameCpu s0 (State.dicSettle s) := by
  unfold State.dicSettle
  repeat' first
    | (with_reducible assumption)
    | (with_reducible apply State.dicSettleOne_cpu)

theorem State.raiseP_cpu {s0 s : State} {a0 : Nat} (h : SameCpu s0 s) :
    SameCpu s0 (State.raiseP a0 s) := by
  unfold State.raiseP
  repeat' first
    | (with_reducible assumption)
    | (with_reducible apply State.dicPend_cpu)
    | (with_reducible apply State.dicSettle_cpu)
    | (simp only [SameX.same])
    | (simp only [SameCpu.same])
    | (with_reducible refine SameCpu.of_ite (fun _ => ?_) (fun _ => ?_))

theorem State.alogLose_cpu {s0 s : State} (h : SameCpu s0 s) :
    SameCpu s0 (State.alogLose s) := by
  unfold State.alogLose
  repeat' first
    | (with_reducible assumption)
    | (with_reducible apply State.countReg_cpu)
    | (with_reducible apply State.raiseP_cpu)
    | (simp only [SameX.same])
    | (simp only [SameCpu.same])

theorem State.clearFrame_cpu {s0 s : State} {a0 : Nat} (h : SameCpu s0 s) :
    SameCpu s0 (State.clearFrame a0 s) := by
  unfold State.clearFrame
  repeat' first
    | (with_reducible assumption)
    | (simp only [SameCpu.same])

theorem State.copyFrame_cpu {s0 s : State} {a0 a1 : Nat} (h : SameCpu s0 s) :
    SameCpu s0 (State.copyFrame a0 a1 s) := by
  unfold State.copyFrame
  repeat' first
    | (with_reducible assumption)
    | (simp only [SameCpu.same])

theorem State.setSlot_cpu {s0 s : State} {a0 : Nat} {a1 : SlotSt} (h : SameCpu s0 s) :
    SameCpu s0 (State.setSlot a0 a1 s) := by
  unfold State.setSlot
  repeat' first
    | (with_reducible assumption)
    | (simp only [SameCpu.same])

theorem State.modSlot_cpu {s0 s : State} {a0 : Nat} {a1 : SlotSt → SlotSt} (h : SameCpu s0 s) :
    SameCpu s0 (State.modSlot a0 a1 s) := by
  unfold State.modSlot
  repeat' first
    | (with_reducible assumption)
    | (with_reducible apply State.setSlot_cpu)

theorem State.offer_cpu {s0 s : State} {a0 : Word} {a1 : Byte} {a2 : List Byte} (h : SameCpu s0 s) :
    SameCpu s0 (State.offer a0 a1 a2 s) := by
  unfold State.offer
  repeat' first
    | (with_reducible assumption)
    | (with_reducible apply State.alogAccept_cpu)
    | (with_reducible apply State.alogLose_cpu)
    | (simp only [SameX.same])
    | (simp only [SameCpu.same])
    | (with_reducible refine SameCpu.of_ite (fun _ => ?_) (fun _ => ?_))

theorem State.setLevel_cpu {s0 s : State} {a0 : Nat} {a1 : Bool} (h : SameCpu s0 s) :
    SameCpu s0 (State.setLevel a0 a1 s) := by
  unfold State.setLevel
  repeat' first
    | (with_reducible assumption)
    | (with_reducible apply State.dicPend_cpu)
    | (with_reducible apply State.dicSettle_cpu)
    | (simp only [SameX.same])
    | (simp only [SameCpu.same])
    | (with_reducible refine SameCpu.of_ite (fun _ => ?_) (fun _ => ?_))

theorem State.setRegField_cpu {s0 s : State} {a0 a1 a2 a3 : Nat} (h : SameCpu s0 s) :
    SameCpu s0 (State.setRegField a0 a1 a2 a3 s) := by
  unfold State.setRegField
  repeat' first
    | (with_reducible assumption)
    | (with_reducible apply State.setReg_cpu)

theorem State.setWord_cpu {s0 s : State} {a0 : Nat} {a1 : Word} (h : SameCpu s0 s) :
    SameCpu s0 (State.setWord a0 a1 s) := by
  unfold State.setWord
  repeat' first
    | (with_reducible assumption)
    | (simp only [SameCpu.same])

theorem State.spend_cpu {s0 s : State} (h : SameCpu s0 s) :
    SameCpu s0 (State.spend s) := by
  unfold State.spend
  repeat' first
    | (with_reducible assumption)
    | (simp only [SameCpu.same])

theorem State.putFrame_cpu {s0 s : State} {a0 : Nat} {a1 : FrameRec} (h : SameCpu s0 s) :
    SameCpu s0 (State.putFrame a0 a1 s) := by
  unfold State.putFrame
  repeat' first
    | (with_reducible assumption)
    | (simp only [SameCpu.same])

theorem State.setFrame_cpu {s0 s : State} {a0 : Nat} {a1 : FrameRec} (h : SameCpu s0 s) :
    SameCpu s0 (State.setFrame a0 a1 s) := by
  unfold State.setFrame
  repeat' first
    | (with_reducible assumption)
    | (with_reducible apply State.putFrame_cpu)
    | (with_reducible apply State.raiseP_cpu)
    | (simp only [SameX.same])
    | (with_reducible refine SameCpu.of_ite (fun _ => ?_) (fun _ => ?_))
    | split

theorem State.freeFrame_cpu {s0 s : State} {a0 : Nat} (h : SameCpu s0 s) :
    SameCpu s0 (State.freeFrame a0 s) := by
  unfold State.freeFrame
  repeat' first
    | (with_reducible assumption)
    | (with_reducible apply State.setFrame_cpu)
    | (simp only [SameX.same])
    | (simp only [SameCpu.same])

theorem State.modFrame_cpu {s0 s : State} {a0 : Nat} {a1 : FrameRec → FrameRec} (h : SameCpu s0 s) :
    SameCpu s0 (State.modFrame a0 a1 s) := by
  unfold State.modFrame
  repeat' first
    | (with_reducible assumption)
    | (with_reducible apply State.setFrame_cpu)

theorem State.setPage_cpu {s0 s : State} {a0 : CtxNo} {a1 : Nat} {a2 : PageEntry} (h : SameCpu s0 s) :
    SameCpu s0 (State.setPage a0 a1 a2 s) := by
  unfold State.setPage
  repeat' first
    | (with_reducible assumption)
    | (with_reducible apply State.modCtx_cpu)
    | (with_reducible intro _)
    | (exact rfl)

theorem State.takeFrame_cpu {s0 s : State} {a0 : Nat} {a1 : FrameRec} (h : SameCpu s0 s) :
    SameCpuOf s0 (State.takeFrame a0 a1 s) := by
  unfold State.takeFrame
  repeat' first
    | (with_reducible assumption)
    | (with_reducible apply State.setFrame_cpu)
    | (with_reducible apply State.spend_cpu)
    | (simp only [SameX.same])
    | (simp only [SameCpu.same])
    | (with_reducible refine SameCpuOf.mapVal (fun _ => ?_))

theorem State.takeHome_cpu {s0 s : State} {a0 : Option Nat} {a1 : Bool} (h : SameCpu s0 s) :
    SameCpuOf s0 (State.takeHome a0 a1 s) := by
  unfold State.takeHome
  repeat' first
    | (with_reducible assumption)
    | (with_reducible apply State.takeFrame_cpu)
    | (with_reducible refine SameCpuOf.bindVal (fun _ => ?_))

theorem State.touchGallery_cpu {s0 s : State} {a0 : Nat} (h : SameCpu s0 s) :
    SameCpu s0 (State.touchGallery a0 s) := by
  unfold State.touchGallery
  repeat' first
    | (with_reducible assumption)
    | (simp only [SameCpu.same])

theorem State.clearPage_cpu {s0 s : State} {a0 : CtxNo} {a1 : Nat} (h : SameCpu s0 s) :
    SameCpu s0 (State.clearPage a0 a1 s) := by
  unfold State.clearPage
  repeat' first
    | (with_reducible assumption)
    | (with_reducible apply State.modCtx_cpu)
    | (with_reducible intro _)
    | (exact rfl)

theorem State.endFlight_cpu {s0 s : State} {a0 a1 a2 : Nat} (h : SameCpu s0 s) :
    SameCpu s0 (State.endFlight a0 a1 a2 s) := by
  unfold State.endFlight
  repeat' first
    | (with_reducible assumption)
    | (with_reducible apply State.freeFrame_cpu)
    | (simp only [SameX.same])
    | (simp only [SameCpu.same])

theorem State.writeBackFrame_cpu {s0 s : State} {a0 : Nat} (h : SameCpu s0 s) :
    SameCpu s0 (State.writeBackFrame a0 s) := by
  unfold State.writeBackFrame
  repeat' first
    | (with_reducible assumption)
    | (with_reducible apply State.copyFrame_cpu)
    | (with_reducible apply State.modCtx_cpu)
    | (with_reducible apply State.modFrame_cpu)
    | (simp only [SameX.same])
    | (with_reducible refine SameCpu.foldl (fun _ _ _ => ?_) _ ?_)
    | (with_reducible refine SameCpu.of_ite (fun _ => ?_) (fun _ => ?_))
    | (with_reducible intro _)
    | split

theorem State.dropPageCopy_cpu {s0 s : State} {a0 : CtxNo} {a1 : Nat} (h : SameCpu s0 s) :
    SameCpu s0 (State.dropPageCopy a0 a1 s) := by
  unfold State.dropPageCopy
  repeat' first
    | (with_reducible assumption)
    | (with_reducible apply State.endFlight_cpu)
    | (with_reducible apply State.freeFrame_cpu)
    | (with_reducible apply State.modCtx_cpu)
    | (with_reducible apply State.writeBackFrame_cpu)
    | (simp only [SameX.same])
    | (simp only [SameCpu.same])
    | (with_reducible refine SameCpu.of_ite (fun _ => ?_) (fun _ => ?_))
    | (with_reducible intro _)
    | (exact rfl)
    | split

theorem State.unawait_cpu {s0 s : State} {a0 a1 : Nat} (h : SameCpu s0 s) :
    SameCpu s0 (State.unawait a0 a1 s) := by
  unfold State.unawait
  repeat' first
    | (with_reducible assumption)
    | (with_reducible apply State.modCtx_cpu)
    | (simp only [SameX.same])
    | (with_reducible refine SameCpu.foldl (fun _ _ _ => ?_) _ ?_)
    | (with_reducible refine SameCpu.of_ite (fun _ => ?_) (fun _ => ?_))
    | (with_reducible intro _)

theorem State.freeCopies_cpu {s0 s : State} {a0 : Nat} (h : SameCpu s0 s) :
    SameCpu s0 (State.freeCopies a0 s) := by
  unfold State.freeCopies
  repeat' first
    | (with_reducible assumption)
    | (with_reducible apply State.endFlight_cpu)
    | (with_reducible apply State.freeFrame_cpu)
    | (with_reducible apply State.modFrame_cpu)
    | (with_reducible apply State.unawait_cpu)
    | (simp only [SameX.same])
    | (with_reducible refine SameCpu.foldl (fun _ _ _ => ?_) _ ?_)
    | split

theorem State.dropShare_cpu {s0 s : State} {a0 : Nat} (h : SameCpu s0 s) :
    SameCpu s0 (State.dropShare a0 s) := by
  unfold State.dropShare
  repeat' first
    | (with_reducible assumption)
    | (with_reducible apply State.freeCopies_cpu)
    | (with_reducible apply State.freeFrame_cpu)
    | (with_reducible apply State.setFrame_cpu)
    | (simp only [SameX.same])
    | (with_reducible refine SameCpu.of_ite (fun _ => ?_) (fun _ => ?_))

theorem State.dropTitleCopies_cpu {s0 s : State} {a0 : CtxNo} {a1 : Nat} (h : SameCpu s0 s) :
    SameCpu s0 (State.dropTitleCopies a0 a1 s) := by
  unfold State.dropTitleCopies
  repeat' first
    | (with_reducible assumption)
    | (with_reducible apply State.freeFrame_cpu)
    | (simp only [SameX.same])
    | (with_reducible refine SameCpu.foldl (fun _ _ _ => ?_) _ ?_)
    | (with_reducible refine SameCpu.of_ite (fun _ => ?_) (fun _ => ?_))
    | split

theorem State.idleSlot_cpu {s0 s : State} {a0 : Nat} (h : SameCpu s0 s) :
    SameCpu s0 (State.idleSlot a0 s) := by
  unfold State.idleSlot
  repeat' first
    | (with_reducible assumption)
    | (with_reducible apply State.setReg_cpu)
    | (with_reducible apply State.setSlot_cpu)

theorem State.freeSlot_cpu {s0 s : State} {a0 : CtxNo} (h : SameCpu s0 s) :
    SameCpu s0 (State.freeSlot a0 s) := by
  unfold State.freeSlot
  repeat' first
    | (with_reducible assumption)
    | (with_reducible apply State.dropTitleCopies_cpu)
    | (with_reducible apply State.idleSlot_cpu)
    | (with_reducible apply State.modCtx_cpu)
    | (simp only [SameX.same])
    | (with_reducible refine SameCpu.foldl (fun _ _ _ => ?_) _ ?_)
    | (with_reducible refine SameCpu.of_ite (fun _ => ?_) (fun _ => ?_))
    | (with_reducible intro _)
    | split

theorem State.quarRecord_cpu {s0 s : State} {a0 : CtxNo} {a1 : Nat} (h : SameCpu s0 s) :
    SameCpu s0 (State.quarRecord a0 a1 s) := by
  unfold State.quarRecord
  repeat' first
    | (with_reducible assumption)
    | (with_reducible apply State.countReg_cpu)
    | (with_reducible apply State.setLevel_cpu)
    | (simp only [SameCpu.same])
    | (with_reducible refine SameCpu.of_ite (fun _ => ?_) (fun _ => ?_))

theorem State.markDirty_cpu {s0 s : State} {a0 : CtxNo} {a1 : Nat} (h : SameCpu s0 s) :
    SameCpu s0 (State.markDirty a0 a1 s) := by
  unfold State.markDirty
  repeat' first
    | (with_reducible assumption)
    | (with_reducible apply State.modCtx_cpu)
    | (with_reducible apply State.modFrame_cpu)
    | (simp only [SameX.same])
    | (with_reducible refine SameCpu.of_ite (fun _ => ?_) (fun _ => ?_))
    | (with_reducible intro _)
    | (exact rfl)
    | split

theorem State.writeLine_cpu {s0 s : State} {a0 : CtxNo} {a1 : StageLine} (h : SameCpu s0 s) :
    SameCpu s0 (State.writeLine a0 a1 s) := by
  unfold State.writeLine
  repeat' first
    | (with_reducible assumption)
    | (with_reducible apply State.markDirty_cpu)
    | (with_reducible apply State.setWord_cpu)
    | (simp only [SameX.same])
    | (with_reducible refine SameCpu.foldl (fun _ _ _ => ?_) _ ?_)
    | (with_reducible refine SameCpu.of_ite (fun _ => ?_) (fun _ => ?_))
    | split

theorem State.flushLines_cpu {s0 s : State} {a0 : CtxNo} (h : SameCpu s0 s) :
    SameCpu s0 (State.flushLines a0 s) := by
  unfold State.flushLines
  repeat' first
    | (with_reducible assumption)
    | (with_reducible apply State.modSes_cpu)
    | (with_reducible apply State.writeLine_cpu)
    | (with_reducible exact SameX.refl _)
    | (simp only [SameX.same])
    | (with_reducible refine SameCpu.foldl (fun _ _ _ => ?_) _ ?_)
    | (with_reducible intro _)

theorem State.writeBackAll_cpu {s0 s : State} {a0 : CtxNo} (h : SameCpu s0 s) :
    SameCpu s0 (State.writeBackAll a0 s) := by
  unfold State.writeBackAll
  repeat' first
    | (with_reducible assumption)
    | (with_reducible apply State.dropPageCopy_cpu)
    | (with_reducible apply State.flushLines_cpu)
    | (with_reducible apply State.modSes_cpu)
    | (with_reducible exact SameX.refl _)
    | (simp only [SameX.same])
    | (with_reducible refine SameCpu.foldl (fun _ _ _ => ?_) _ ?_)
    | (with_reducible intro _)

theorem State.quarantine_cpu {s0 s : State} {a0 : CtxNo} {a1 a2 a3 a4 : Nat} (h : SameCpu s0 s) :
    SameCpu s0 (State.quarantine a0 a1 a2 a3 a4 s) := by
  unfold State.quarantine
  repeat' first
    | (with_reducible assumption)
    | (with_reducible apply State.endWaiting_cpu)
    | (with_reducible apply State.freeSlot_cpu)
    | (with_reducible apply State.modCtx_cpu)
    | (with_reducible apply State.modSes_cpu)
    | (with_reducible apply State.offer_cpu)
    | (with_reducible apply State.quarRecord_cpu)
    | (with_reducible apply State.writeBackAll_cpu)
    | (with_reducible exact SameX.refl _)
    | (simp only [SameX.same])
    | (with_reducible refine SameCpu.of_ite (fun _ => ?_) (fun _ => ?_))
    | (with_reducible intro _)

theorem State.exhausted_cpu {s0 s : State} {a0 : CtxNo} {a1 : Nat} (h : SameCpu s0 s) :
    SameCpu s0 (State.exhausted a0 a1 s) := by
  unfold State.exhausted
  repeat' first
    | (with_reducible assumption)
    | (with_reducible apply State.quarantine_cpu)

theorem State.askPage_cpu {s0 s : State} {a0 : PageReq} (h : SameCpu s0 s) :
    SameCpu s0 (State.askPage a0 s) := by
  unfold State.askPage
  repeat' first
    | (with_reducible assumption)
    | (simp only [SameX.same])
    | (simp only [SameCpu.same])

theorem State.countSlot_cpu {s0 s : State} {a0 : CtxNo} {a1 a2 : Nat} (h : SameCpu s0 s) :
    SameCpu s0 (State.countSlot a0 a1 a2 s) := by
  unfold State.countSlot
  repeat' first
    | (with_reducible assumption)
    | (with_reducible apply State.countReg_cpu)
    | split

theorem State.modPage_cpu {s0 s : State} {a0 : CtxNo} {a1 : Nat} {a2 : PageEntry → PageEntry} (h : SameCpu s0 s) :
    SameCpu s0 (State.modPage a0 a1 a2 s) := by
  unfold State.modPage
  repeat' first
    | (with_reducible assumption)
    | (with_reducible apply State.modCtx_cpu)
    | (with_reducible intro _)
    | (exact rfl)

theorem State.evictFrame_cpu {s0 s : State} {a0 a1 : Nat} (h : SameCpu s0 s) :
    SameCpu s0 (State.evictFrame a0 a1 s) := by
  unfold State.evictFrame
  repeat' first
    | (with_reducible assumption)
    | (with_reducible apply State.freeFrame_cpu)
    | (with_reducible apply State.modCtx_cpu)
    | (with_reducible apply State.writeBackFrame_cpu)
    | (simp only [SameX.same])
    | (with_reducible refine SameCpu.foldl (fun _ _ _ => ?_) _ ?_)
    | (with_reducible refine SameCpu.of_ite (fun _ => ?_) (fun _ => ?_))
    | (with_reducible intro _)

theorem State.takeGallery_cpu {s0 s : State} {a0 : Nat} {a1 : Bool} {a2 : FrameRec} (h : SameCpu s0 s) :
    SameCpuOf s0 (State.takeGallery a0 a1 a2 s) := by
  unfold State.takeGallery
  repeat' first
    | (with_reducible assumption)
    | (with_reducible apply State.evictFrame_cpu)
    | (with_reducible apply State.takeFrame_cpu)
    | (simp only [SameX.same])
    | (with_reducible apply SameCpuOf.none)
    | split

theorem State.stall_cpu {s0 s : State} {a0 : Nat} (h : SameCpu s0 s) :
    SameCpu s0 (State.stall a0 s) := by
  unfold State.stall
  repeat' first
    | (with_reducible assumption)
    | (with_reducible apply State.addCnt_cpu)

theorem State.countGalWait_cpu {s0 s : State} {a0 : Nat} (h : SameCpu s0 s) :
    SameCpu s0 (State.countGalWait a0 s) := by
  unfold State.countGalWait
  repeat' first
    | (with_reducible assumption)
    | (with_reducible apply State.stall_cpu)

theorem State.waitsHere_cpu {s0 s : State} {a0 : CtxNo} (h : SameCpu s0 s) :
    SameCpu s0 (State.waitsHere a0 s) := by
  unfold State.waitsHere
  repeat' first
    | (with_reducible assumption)
    | (with_reducible apply State.countGalWait_cpu)
    | (with_reducible refine SameCpu.of_ite (fun _ => ?_) (fun _ => ?_))
    | split

theorem State.copyOnWrite_cpu {s0 s : State} {a0 : CtxNo} {a1 : Nat} (h : SameCpu s0 s) :
    SameCpu s0 (State.copyOnWrite a0 a1 s).1 := by
  unfold State.copyOnWrite
  repeat' first
    | (with_reducible assumption)
    | (with_reducible apply State.copyFrame_cpu)
    | (with_reducible apply State.countSlot_cpu)
    | (with_reducible apply State.exhausted_cpu)
    | (with_reducible apply State.markDirty_cpu)
    | (with_reducible apply State.modFrame_cpu)
    | (with_reducible apply State.modPage_cpu)
    | (with_reducible apply State.takeGallery_cpu)
    | (with_reducible apply State.takeHome_cpu)
    | (with_reducible apply State.touchGallery_cpu)
    | (with_reducible apply State.waitsHere_cpu)
    | (simp only [SameX.same])
    | (with_reducible refine SameCpu.of_someP ‹_ = some (_, _)› ?_)
    | (with_reducible refine SameCpu.of_iteP (fun _ => ?_) (fun _ => ?_))
    | split

theorem State.countFreeze_cpu {s0 s : State} {a0 : CtxNo} (h : SameCpu s0 s) :
    SameCpu s0 (State.countFreeze a0 s) := by
  unfold State.countFreeze
  repeat' first
    | (with_reducible assumption)
    | (with_reducible apply State.stall_cpu)
    | (with_reducible refine SameCpu.of_ite (fun _ => ?_) (fun _ => ?_))
    | split

theorem State.endPageIn_cpu {s0 s : State} {a0 : CtxNo} {a1 : Nat} (h : SameCpu s0 s) :
    SameCpu s0 (State.endPageIn a0 a1 s) := by
  unfold State.endPageIn
  repeat' first
    | (with_reducible assumption)
    | (with_reducible apply State.copyFrame_cpu)
    | (with_reducible apply State.countSlot_cpu)
    | (with_reducible apply State.modCtx_cpu)
    | (with_reducible apply State.setFrame_cpu)
    | (with_reducible apply State.touchGallery_cpu)
    | (simp only [SameX.same])
    | (simp only [SameCpu.same])
    | (with_reducible refine SameCpu.foldl (fun _ _ _ => ?_) _ ?_)
    | (with_reducible refine SameCpu.of_ite (fun _ => ?_) (fun _ => ?_))
    | (with_reducible intro _)
    | split

theorem State.firstTouch_cpu {s0 s : State} {a0 : CtxNo} {a1 : Nat} (h : SameCpu s0 s) :
    SameCpu s0 (State.firstTouch a0 a1 s).1 := by
  unfold State.firstTouch
  repeat' first
    | (with_reducible assumption)
    | (with_reducible apply State.clearFrame_cpu)
    | (with_reducible apply State.countSlot_cpu)
    | (with_reducible apply State.exhausted_cpu)
    | (with_reducible apply State.markDirty_cpu)
    | (with_reducible apply State.modPage_cpu)
    | (with_reducible apply State.setPage_cpu)
    | (with_reducible apply State.takeGallery_cpu)
    | (with_reducible apply State.takeHome_cpu)
    | (with_reducible apply State.touchGallery_cpu)
    | (with_reducible apply State.waitsHere_cpu)
    | (simp only [SameX.same])
    | (with_reducible refine SameCpu.of_someP ‹_ = some (_, _)› ?_)
    | (with_reducible refine SameCpu.of_iteP (fun _ => ?_) (fun _ => ?_))
    | split

theorem State.startPageIn_cpu {s0 s : State} {a0 : CtxNo} {a1 a2 a3 : Nat} (h : SameCpu s0 s) :
    SameCpuO s0 (State.startPageIn a0 a1 a2 a3 s) := by
  unfold State.startPageIn
  repeat' first
    | (with_reducible assumption)
    | (with_reducible apply State.askPage_cpu)
    | (with_reducible apply State.modPage_cpu)
    | (with_reducible apply State.takeGallery_cpu)
    | (simp only [SameX.same])
    | (with_reducible apply SameCpuO.none)
    | (with_reducible apply SameCpuO.some)
    | (with_reducible refine SameCpuO.mapOf ?_ (fun _ _ _ => ?_))
    | split

theorem State.waits_cpu {s0 s : State} {a0 : CtxNo} {a2 : State} (h : SameCpu s0 s) (h2 : SameCpu s0 a2) :
    SameCpu s0 (State.waits a0 s a2) := by
  unfold State.waits
  repeat' first
    | (with_reducible assumption)
    | (simp only [SameCpu.same])
    | (with_reducible refine SameCpu.of_ite (fun _ => ?_) (fun _ => ?_))

theorem State.dropFrame_cpu {s0 s : State} {a0 : Nat} (h : SameCpu s0 s) :
    SameCpu s0 (State.dropFrame a0 s) := by
  unfold State.dropFrame
  repeat' first
    | (with_reducible assumption)
    | (with_reducible apply State.countReg_cpu)
    | (with_reducible apply State.setFrame_cpu)
    | (simp only [SameX.same])
    | (simp only [SameCpu.same])

theorem State.poisonPage_cpu {s0 s : State} {a0 a1 a2 : Nat} {a3 : Bool} (h : SameCpu s0 s) :
    SameCpu s0 (State.poisonPage a0 a1 a2 a3 s) := by
  unfold State.poisonPage
  repeat' first
    | (with_reducible assumption)
    | (with_reducible apply State.clearPage_cpu)
    | (with_reducible apply State.countReg_cpu)
    | (with_reducible apply State.dropShare_cpu)
    | (with_reducible apply State.freeCopies_cpu)
    | (with_reducible apply State.quarantine_cpu)
    | (simp only [SameX.same])
    | (with_reducible refine SameCpu.foldl (fun _ _ _ => ?_) _ ?_)
    | (with_reducible refine SameCpu.of_ite (fun _ => ?_) (fun _ => ?_))

theorem State.retireRecord_cpu {s0 s : State} {a0 a1 a2 : Nat} (h : SameCpu s0 s) :
    SameCpu s0 (State.retireRecord a0 a1 a2 s) := by
  unfold State.retireRecord
  repeat' first
    | (with_reducible assumption)
    | (with_reducible apply State.offer_cpu)

theorem State.retireFrame_cpu {s0 s : State} {a0 a1 : Nat} {a2 : Byte} (h : SameCpu s0 s) :
    SameCpu s0 (State.retireFrame a0 a1 a2 s) := by
  unfold State.retireFrame
  repeat' first
    | (with_reducible assumption)
    | (with_reducible apply State.dropFrame_cpu)
    | (with_reducible apply State.raiseP_cpu)
    | (with_reducible apply State.retireRecord_cpu)

theorem State.titleFault_cpu {s0 s : State} {a0 a1 a2 : Nat} (h : SameCpu s0 s) :
    SameCpu s0 (State.titleFault a0 a1 a2 s) := by
  unfold State.titleFault
  repeat' first
    | (with_reducible assumption)
    | (with_reducible apply State.offer_cpu)
    | (with_reducible apply State.quarantine_cpu)
    | (simp only [SameX.same])
    | (simp only [SameCpu.same])
    | (with_reducible refine SameCpu.foldl (fun _ _ _ => ?_) _ ?_)

theorem State.loseFrame_cpu {s0 s : State} {a0 a1 a2 : Nat} {a3 : Byte} (h : SameCpu s0 s) :
    SameCpu s0 (State.loseFrame a0 a1 a2 a3 s) := by
  unfold State.loseFrame
  repeat' first
    | (with_reducible assumption)
    | (with_reducible apply State.freeCopies_cpu)
    | (with_reducible apply State.poisonPage_cpu)
    | (with_reducible apply State.putFrame_cpu)
    | (with_reducible apply State.retireFrame_cpu)
    | (with_reducible apply State.titleFault_cpu)
    | (simp only [SameX.same])
    | (with_reducible refine SameCpu.of_ite (fun _ => ?_) (fun _ => ?_))
    | split

theorem State.setRoot_cpu {s0 s : State} {a0 : CtxNo} (h : SameCpu s0 s) :
    SameCpu s0 (State.setRoot a0 s) := by
  unfold State.setRoot
  repeat' first
    | (with_reducible assumption)
    | (with_reducible apply State.modCtx_cpu)
    | (simp only [SameX.same])
    | (with_reducible intro _)

theorem State.renameHome_cpu {s0 s : State} {a0 a1 : Nat} (h : SameCpu s0 s) :
    SameCpu s0 (State.renameHome a0 a1 s) := by
  unfold State.renameHome
  repeat' first
    | (with_reducible assumption)
    | (with_reducible apply State.modCtx_cpu)
    | (with_reducible apply State.modFrame_cpu)
    | (with_reducible apply State.setRoot_cpu)
    | (simp only [SameX.same])
    | (simp only [SameCpu.same])
    | (with_reducible refine SameCpu.foldl (fun _ _ _ => ?_) _ ?_)
    | (with_reducible intro _)
    | (exact rfl)
    | split

theorem State.relocate_cpu {s0 s : State} {a0 a1 : Nat} {a2 : Byte} (h : SameCpu s0 s) :
    SameCpu s0 (State.relocate a0 a1 a2 s) := by
  unfold State.relocate
  repeat' first
    | (with_reducible assumption)
    | (with_reducible apply State.copyFrame_cpu)
    | (with_reducible apply State.loseFrame_cpu)
    | (with_reducible apply State.renameHome_cpu)
    | (with_reducible apply State.retireFrame_cpu)
    | (with_reducible apply State.setFrame_cpu)
    | (with_reducible apply State.takeHome_cpu)
    | (simp only [SameX.same])
    | (with_reducible refine SameCpu.of_someP ‹_ = some (_, _)› ?_)
    | split

theorem State.failVault_cpu {s0 s : State} {a0 : Nat} {a1 : Byte} (h : SameCpu s0 s) :
    SameCpu s0 (State.failVault a0 a1 s) := by
  unfold State.failVault
  repeat' first
    | (with_reducible assumption)
    | (with_reducible apply State.loseFrame_cpu)
    | (with_reducible apply State.relocate_cpu)
    | (with_reducible refine SameCpu.of_ite (fun _ => ?_) (fun _ => ?_))

theorem State.renameCopy_cpu {s0 s : State} {a0 a1 : Nat} {a2 : Option Nat} (h : SameCpu s0 s) :
    SameCpu s0 (State.renameCopy a0 a1 a2 s) := by
  unfold State.renameCopy
  repeat' first
    | (with_reducible assumption)
    | (with_reducible apply State.modCtx_cpu)
    | (simp only [SameX.same])
    | (with_reducible refine SameCpu.foldl (fun _ _ _ => ?_) _ ?_)
    | (with_reducible refine SameCpu.of_ite (fun _ => ?_) (fun _ => ?_))
    | (with_reducible intro _)

theorem State.moveCopy_cpu {s0 s : State} {a0 a1 a2 a3 a4 : Nat} {a5 : Byte} (h : SameCpu s0 s) :
    SameCpu s0 (State.moveCopy a0 a1 a2 a3 a4 a5 s) := by
  unfold State.moveCopy
  repeat' first
    | (with_reducible assumption)
    | (with_reducible apply State.copyFrame_cpu)
    | (with_reducible apply State.modFrame_cpu)
    | (with_reducible apply State.renameCopy_cpu)
    | (with_reducible apply State.retireFrame_cpu)
    | (with_reducible apply State.takeGallery_cpu)
    | (with_reducible apply State.touchGallery_cpu)
    | (simp only [SameX.same])
    | (with_reducible refine SameCpu.of_someP ‹_ = some (_, _)› ?_)
    | (with_reducible refine SameCpu.of_ite (fun _ => ?_) (fun _ => ?_))
    | split

theorem State.failRead_cpu {s0 s : State} {a0 : Nat} {a1 : Byte} (h : SameCpu s0 s) :
    SameCpu s0 (State.failRead a0 a1 s) := by
  unfold State.failRead
  repeat' first
    | (with_reducible assumption)
    | (with_reducible apply State.failVault_cpu)
    | (with_reducible apply State.moveCopy_cpu)
    | (with_reducible apply State.poisonPage_cpu)
    | (with_reducible apply State.renameCopy_cpu)
    | (with_reducible apply State.retireFrame_cpu)
    | (with_reducible refine SameCpu.of_ite (fun _ => ?_) (fun _ => ?_))
    | split

theorem State.unitFail_cpu {s0 s : State} {a0 : CtxNo} {a1 : Nat} (h : SameCpu s0 s) :
    SameCpu s0 (State.unitFail a0 a1 s) := by
  unfold State.unitFail
  repeat' first
    | (with_reducible assumption)
    | (with_reducible apply State.failRead_cpu)

theorem State.ensureCopyAs_cpu {s0 s : State} {a0 : CtxNo} {a1 a2 a3 : Nat} (h : SameCpu s0 s) :
    SameCpu s0 (State.ensureCopyAs a0 a1 a2 a3 s).1 := by
  unfold State.ensureCopyAs
  repeat' first
    | (with_reducible assumption)
    | (with_reducible apply State.endPageIn_cpu)
    | (with_reducible apply State.startPageIn_cpu)
    | (with_reducible apply State.touchGallery_cpu)
    | (with_reducible apply State.unitFail_cpu)
    | (simp only [SameX.same])
    | (with_reducible refine SameCpu.of_some ‹_ = some _› ?_)
    | (with_reducible refine SameCpu.of_iteP (fun _ => ?_) (fun _ => ?_))
    | split

theorem State.ensureCopy_cpu {s0 s : State} {a0 : CtxNo} {a1 : Nat} (h : SameCpu s0 s) :
    SameCpu s0 (State.ensureCopy a0 a1 s).1 := by
  unfold State.ensureCopy
  repeat' first
    | (with_reducible assumption)
    | (with_reducible apply State.ensureCopyAs_cpu)

theorem Session.stage_cpu {x0 x : Session} {a0 : Nat} {a1 : Option (Nat × Word)} (h : SameX x0 x) :
    SameX x0 (Session.stage a0 a1 x) := by
  unfold Session.stage
  repeat' first
    | (with_reducible assumption)
    | (simp only [SameX.same])

theorem State.backOut_cpu {s0 s : State} {a1 : State} (h : SameCpu s0 s) (h1 : SameCpu s0 a1) :
    SameCpu s0 (State.backOut s a1) := by
  unfold State.backOut
  repeat' first
    | (with_reducible assumption)
    | (simp only [SameCpu.same])
    | (with_reducible refine SameCpu.of_ite (fun _ => ?_) (fun _ => ?_))

theorem State.dropLine_cpu {s0 s : State} {a0 : CtxNo} {a1 : Nat} (h : SameCpu s0 s) :
    SameCpu s0 (State.dropLine a0 a1 s) := by
  unfold State.dropLine
  repeat' first
    | (with_reducible assumption)
    | (with_reducible apply State.modSes_cpu)
    | (with_reducible apply State.writeLine_cpu)
    | (with_reducible exact SameX.refl _)
    | (simp only [SameX.same])
    | (with_reducible intro _)
    | split

theorem State.stuck_cpu {s0 s : State} {a0 : CtxNo} {a2 : State} (h : SameCpu s0 s) (h2 : SameCpu s0 a2) :
    SameCpu s0 (State.stuck a0 s a2) := by
  unfold State.stuck
  repeat' first
    | (with_reducible assumption)
    | (with_reducible apply State.waitsHere_cpu)
    | (with_reducible refine SameCpu.of_ite (fun _ => ?_) (fun _ => ?_))

theorem State.pageReady_cpu {s0 s : State} {a0 : CtxNo} {a1 a2 a3 : Nat} (h : SameCpu s0 s) :
    SameCpu s0 (State.pageReady a0 a1 a2 a3 s).1 := by
  unfold State.pageReady
  repeat' first
    | (with_reducible assumption)
    | (with_reducible apply State.ensureCopy_cpu)
    | (with_reducible apply State.stuck_cpu)
    | (with_reducible apply State.unitFail_cpu)
    | (simp only [SameX.same])
    | (with_reducible refine SameCpu.of_pair ‹_ = (_, _)› ?_)
    | (with_reducible refine SameCpu.of_iteP (fun _ => ?_) (fun _ => ?_))
    | split

theorem State.pageRead_cpu {s0 s : State} {a0 : CtxNo} {a1 a2 : Nat} (h : SameCpu s0 s) :
    SameCpu s0 (State.pageRead a0 a1 a2 s).1 := by
  unfold State.pageRead
  repeat' first
    | (with_reducible assumption)
    | (with_reducible apply State.pageReady_cpu)
    | (simp only [SameX.same])
    | (with_reducible refine SameCpu.of_pair ‹_ = (_, _)› ?_)
    | split

theorem State.pageTouch_cpu {s0 s : State} {a0 : CtxNo} {a1 : Nat} (h : SameCpu s0 s) :
    SameCpu s0 (State.pageTouch a0 a1 s).1 := by
  unfold State.pageTouch
  repeat' first
    | (with_reducible assumption)
    | (with_reducible apply State.copyOnWrite_cpu)
    | (with_reducible apply State.ensureCopy_cpu)
    | (with_reducible apply State.firstTouch_cpu)
    | (with_reducible apply State.stuck_cpu)
    | (with_reducible apply State.unitFail_cpu)
    | (simp only [SameX.same])
    | (with_reducible refine SameCpu.of_pair ‹_ = (_, _)› ?_)
    | (with_reducible refine SameCpu.of_iteP (fun _ => ?_) (fun _ => ?_))
    | split

theorem State.pageWrite_cpu {s0 s : State} {a0 : CtxNo} {a1 a2 : Nat} {a3 : Word} (h : SameCpu s0 s) :
    SameCpu s0 (State.pageWrite a0 a1 a2 a3 s).1 := by
  unfold State.pageWrite
  repeat' first
    | (with_reducible assumption)
    | (with_reducible apply State.markDirty_cpu)
    | (with_reducible apply State.pageTouch_cpu)
    | (with_reducible apply State.setWord_cpu)
    | (simp only [SameX.same])
    | (with_reducible refine SameCpu.of_pair ‹_ = (_, _)› ?_)
    | split

theorem State.thawed_cpu {s0 s : State} {a0 : CtxNo} {a1 : Nat} {a2 a3 : Bool} {a5 : State} (h : SameCpu s0 s) (h5 : SameCpu s0 a5) :
    SameCpu s0 (State.thawed a0 a1 a2 a3 s a5) := by
  unfold State.thawed
  repeat' first
    | (with_reducible assumption)
    | (with_reducible apply State.countFreeze_cpu)
    | (with_reducible refine SameCpu.of_ite (fun _ => ?_) (fun _ => ?_))

theorem State.trimLines_cpu {s0 s : State} {a0 : CtxNo} (h : SameCpu s0 s) :
    SameCpu s0 (State.trimLines a0 s) := by
  unfold State.trimLines
  repeat' first
    | (with_reducible assumption)
    | (with_reducible apply State.ensureCopy_cpu)
    | (with_reducible apply State.modSes_cpu)
    | (with_reducible apply State.writeLine_cpu)
    | (with_reducible exact SameX.refl _)
    | (simp only [SameX.same])
    | (with_reducible refine SameCpu.foldl (fun _ _ _ => ?_) _ ?_)
    | (with_reducible refine SameCpu.of_ite (fun _ => ?_) (fun _ => ?_))
    | (with_reducible intro _)

theorem State.useLine_cpu {s0 s : State} {a0 : CtxNo} {a1 : Nat} {a2 : Option (Nat × Word)} (h : SameCpu s0 s) :
    SameCpu s0 (State.useLine a0 a1 a2 s) := by
  unfold State.useLine
  repeat' first
    | (with_reducible assumption)
    | (with_reducible apply Session.stage_cpu)
    | (with_reducible apply State.countFreeze_cpu)
    | (with_reducible apply State.modSes_cpu)
    | (with_reducible apply State.trimLines_cpu)
    | (with_reducible exact SameX.refl _)
    | (simp only [SameX.same])
    | (with_reducible refine SameCpu.of_ite (fun _ => ?_) (fun _ => ?_))
    | (with_reducible intro _)

theorem Session.count32_cpu {x0 x : Session} {a0 a1 : Nat} (h : SameX x0 x) :
    SameX x0 (Session.count32 a0 a1 x) := by
  unfold Session.count32
  repeat' first
    | (with_reducible assumption)
    | (with_reducible apply Session.setIo_cpu)

theorem Session.raiseBoundary_cpu {x0 x : Session} (h : SameX x0 x) :
    SameX x0 (Session.raiseBoundary x) := by
  unfold Session.raiseBoundary
  repeat' first
    | (with_reducible assumption)
    | (simp only [SameX.same])

theorem Session.startTimers_cpu {x0 x : Session} (h : SameX x0 x) :
    SameX x0 (Session.startTimers x) := by
  unfold Session.startTimers
  repeat' first
    | (with_reducible assumption)
    | (simp only [SameX.same])

theorem Session.cyclesIn_cpu {x0 x : Session} {a0 a1 : Nat} (h : SameX x0 x) :
    SameX x0 (Session.cyclesIn a0 a1 x) := by
  unfold Session.cyclesIn
  exact Session.count32_cpu (Session.startTimers_cpu (Session.raiseBoundary_cpu h))

theorem Session.newFrame_cpu {x0 x : Session} (h : SameX x0 x) :
    SameX x0 (Session.newFrame x) := by
  unfold Session.newFrame
  repeat' first
    | (with_reducible assumption)
    | (with_reducible apply Session.setLive_cpu)
    | (simp only [SameX.same])
    | (with_reducible refine SameX.foldl (fun _ _ _ => ?_) _ ?_)
    | split

theorem Session.turnFrame_cpu {x0 x : Session} (h : SameX x0 x) :
    SameX x0 (Session.turnFrame x) := by
  unfold Session.turnFrame
  repeat' first
    | (with_reducible assumption)
    | (with_reducible apply Session.newFrame_cpu)
    | (with_reducible refine SameX.of_ite (fun _ => ?_) (fun _ => ?_))

theorem State.keeperCycles_cpu {s0 s : State} {a0 : Fin 4} {a1 : Nat} (h : SameCpu s0 s) :
    SameCpu s0 (State.keeperCycles a0 a1 s) := State.modKeeper_cpu (fun _ => rfl) h

theorem State.sesCycles_cpu {s0 s : State} {a0 : CtxNo} {a1 : Nat} (h : SameCpu s0 s) :
    SameCpu s0 (State.sesCycles a0 a1 s) := by
  unfold State.sesCycles
  repeat' first
    | (with_reducible assumption)
    | (with_reducible apply Session.cyclesIn_cpu)
    | (with_reducible apply State.modSes_cpu)
    | (with_reducible exact SameX.refl _)
    | (with_reducible intro _)

theorem State.fixNext_cpu {s0 s : State} {a0 a1 a2 : Nat} (h : SameCpu s0 s) :
    SameCpu s0 (State.fixNext a0 a1 a2 s) := by
  unfold State.fixNext
  repeat' first
    | (with_reducible assumption)
    | (with_reducible apply State.setReg_cpu)
    | (with_reducible apply State.setRegField_cpu)
    | (with_reducible apply State.setSlot_cpu)
    | (simp only [SameX.same])
    | (with_reducible refine SameCpu.of_ite (fun _ => ?_) (fun _ => ?_))
    | split

theorem State.fixTo_cpu {s0 s : State} {a0 a1 a2 a3 a4 : Nat} (h : SameCpu s0 s) :
    SameCpu s0 (State.fixTo a0 a1 a2 a3 a4 s) := by
  induction a4 generalizing s with
  | zero =>
    unfold State.fixTo
    repeat' first
      | (with_reducible assumption)
      | (with_reducible apply ih)
      | (with_reducible apply State.fixNext_cpu)
      | (with_reducible refine SameCpu.of_ite (fun _ => ?_) (fun _ => ?_))
      | split
  | succ n ih =>
    unfold State.fixTo
    repeat' first
      | (with_reducible assumption)
      | (with_reducible apply ih)
      | (with_reducible apply State.fixNext_cpu)
      | (with_reducible refine SameCpu.of_ite (fun _ => ?_) (fun _ => ?_))
      | split

theorem State.releaseOf_cpu {s0 s : State} {a0 : CtxNo} {a1 a2 : Nat} (h : SameCpu s0 s) :
    SameCpu s0 (State.releaseOf a0 a1 a2 s).1 := by
  unfold State.releaseOf
  repeat' first
    | (with_reducible assumption)
    | (with_reducible apply State.fixTo_cpu)
    | (simp only [SameX.same])
    | split

theorem Session.putNow_cpu {x0 x : Session} {a0 : UndoKind} {a1 : Nat} {a2 : BitVec 24} (h : SameX x0 x) :
    SameX x0 (Session.putNow a0 a1 a2 x) := by
  unfold Session.putNow
  repeat' first
    | (with_reducible assumption)
    | (with_reducible apply Session.setIo_cpu)
    | (with_reducible apply Session.setLive_cpu)
    | (simp only [SameX.same])
    | split

theorem Session.land_cpu {x0 x : Session} {a0 : Bool} {a1 : Nat × Nat × Nat} {a2 : UndoKind} {a3 : Nat} {a4 : BitVec 24} (h : SameX x0 x) :
    SameX x0 (Session.land a0 a1 a2 a3 a4 x) := by
  unfold Session.land
  repeat' first
    | (with_reducible assumption)
    | (with_reducible apply Session.putNow_cpu)
    | (simp only [SameX.same])
    | split

theorem Session.pruneJournal_cpu {x0 x : Session} {a0 a1 : Nat} (h : SameX x0 x) :
    SameX x0 (Session.pruneJournal a0 a1 x) := by
  unfold Session.pruneJournal
  repeat' first
    | (with_reducible assumption)
    | (simp only [SameX.same])

theorem Session.writePalette_cpu {x0 x : Session} {a0 : Bool} {a1 : Nat × Nat × Nat} {a2 : Nat} {a3 a4 : Word} (h : SameX x0 x) :
    SameX x0 (Session.writePalette a0 a1 a2 a3 a4 x) := by
  unfold Session.writePalette
  repeat' first
    | (with_reducible assumption)
    | (with_reducible apply Session.land_cpu)

theorem State.sRead_cpu {s0 s : State} {a0 : CtxNo} {a1 a2 : Nat} (h : SameCpu s0 s) :
    SameCpu s0 (State.sRead a0 a1 a2 s).1 := by
  unfold State.sRead
  repeat' first
    | (with_reducible assumption)
    | (with_reducible apply State.pageRead_cpu)

theorem State.sWrite_cpu {s0 s : State} {a0 : CtxNo} {a1 a2 : Nat} {a3 : Word} {a4 : Nat} (h : SameCpu s0 s) :
    SameCpu s0 (State.sWrite a0 a1 a2 a3 a4 s).1 := by
  unfold State.sWrite
  repeat' first
    | (with_reducible assumption)
    | (with_reducible apply State.modSes_cpu)
    | (with_reducible apply State.pageWrite_cpu)
    | (with_reducible exact SameX.refl _)
    | (simp only [SameX.same])
    | (with_reducible refine SameCpu.of_pair ‹_ = (_, _)› ?_)
    | (with_reducible refine SameCpu.of_ite (fun _ => ?_) (fun _ => ?_))
    | (with_reducible refine SameCpu.of_iteP (fun _ => ?_) (fun _ => ?_))
    | (with_reducible intro _)
    | split

theorem State.vRead_cpu {s0 s : State} {a0 : CtxNo} {a1 a2 : Nat} (h : SameCpu s0 s) :
    SameCpu s0 (State.vRead a0 a1 a2 s).1 := by
  unfold State.vRead
  repeat' first
    | (with_reducible assumption)
    | (with_reducible apply State.pageRead_cpu)

theorem State.vWrite_cpu {s0 s : State} {a0 : CtxNo} {a1 a2 : Nat} {a3 : Word} {a4 : Nat} (h : SameCpu s0 s) :
    SameCpu s0 (State.vWrite a0 a1 a2 a3 a4 s).1 := by
  unfold State.vWrite
  repeat' first
    | (with_reducible assumption)
    | (with_reducible apply Session.pruneJournal_cpu)
    | (with_reducible apply State.modSes_cpu)
    | (with_reducible apply State.pageWrite_cpu)
    | (with_reducible exact SameX.refl _)
    | (simp only [SameX.same])
    | (with_reducible refine SameCpu.of_pair ‹_ = (_, _)› ?_)
    | (with_reducible refine SameCpu.of_ite (fun _ => ?_) (fun _ => ?_))
    | (with_reducible refine SameCpu.of_iteP (fun _ => ?_) (fun _ => ?_))
    | (with_reducible intro _)
    | split

theorem Session.lpgGo_cpu {x0 x : Session} {a0 : Word} {a1 : Nat × Nat} (h : SameX x0 x) :
    SameX x0 (Session.lpgGo a0 a1 x) := by
  unfold Session.lpgGo
  repeat' first
    | (with_reducible assumption)
    | (simp only [SameX.same])

theorem Session.lpgStop_cpu {x0 x : Session} (h : SameX x0 x) :
    SameX x0 (Session.lpgStop x) := by
  unfold Session.lpgStop
  repeat' first
    | (with_reducible assumption)
    | (simp only [SameX.same])

theorem Session.lpgEndEntry_cpu {x0 x : Session} {a0 : Word} (h : SameX x0 x) :
    SameX x0 (Session.lpgEndEntry a0 x) := by
  unfold Session.lpgEndEntry
  repeat' first
    | (with_reducible assumption)
    | (with_reducible apply Session.lpgGo_cpu)
    | (with_reducible apply Session.lpgStop_cpu)
    | (with_reducible apply Session.orIo_cpu)
    | (with_reducible refine SameX.of_ite (fun _ => ?_) (fun _ => ?_))

theorem Session.lpgFrameStart_cpu {x0 x : Session} (h : SameX x0 x) :
    SameX x0 (Session.lpgFrameStart x) := by
  unfold Session.lpgFrameStart
  repeat' first
    | (with_reducible assumption)
    | (with_reducible apply Session.orIo_cpu)
    | (simp only [SameX.same])
    | (with_reducible refine SameX.of_ite (fun _ => ?_) (fun _ => ?_))

theorem Session.lpgLoopEntry_cpu {x0 x : Session} {a0 a1 : Word} (h : SameX x0 x) :
    SameX x0 (Session.lpgLoopEntry a0 a1 x) := by
  unfold Session.lpgLoopEntry
  repeat' first
    | (with_reducible assumption)
    | (with_reducible apply Session.lpgGo_cpu)
    | (simp only [SameX.same])

theorem Session.lpgSetpEntry_cpu {x0 x : Session} {a0 : Word} (h : SameX x0 x) :
    SameX x0 (Session.lpgSetpEntry a0 x) := by
  unfold Session.lpgSetpEntry
  repeat' first
    | (with_reducible assumption)
    | (with_reducible apply Session.land_cpu)
    | (with_reducible apply Session.lpgGo_cpu)

theorem Session.lpgWaitEntry_cpu {x0 x : Session} {a0 a1 : Word} (h : SameX x0 x) :
    SameX x0 (Session.lpgWaitEntry a0 a1 x) := by
  unfold Session.lpgWaitEntry
  repeat' first
    | (with_reducible assumption)
    | (with_reducible apply Session.lpgGo_cpu)

theorem Session.lpgWpalEntry_cpu {x0 x : Session} {a0 : Bool} {a1 : Nat} {a2 a3 : Word} (h : SameX x0 x) :
    SameX x0 (Session.lpgWpalEntry a0 a1 a2 a3 x) := by
  unfold Session.lpgWpalEntry
  repeat' first
    | (with_reducible assumption)
    | (with_reducible apply Session.land_cpu)
    | (with_reducible apply Session.lpgGo_cpu)
    | (with_reducible apply Session.writePalette_cpu)
    | (with_reducible refine SameX.of_ite (fun _ => ?_) (fun _ => ?_))

theorem Session.videoStore_cpu {x0 x : Session} {a0 : Bool} {a1 : Nat × Nat × Nat} {a2 : Nat} {a3 : Word} (h : SameX x0 x) :
    SameX x0 (Session.videoStore a0 a1 a2 a3 x) := by
  unfold Session.videoStore
  repeat' first
    | (with_reducible assumption)
    | (with_reducible apply Session.land_cpu)
    | (with_reducible apply Session.setIo_cpu)
    | (with_reducible apply Session.writePalette_cpu)
    | (simp only [SameX.same])
    | (with_reducible refine SameX.of_ite (fun _ => ?_) (fun _ => ?_))

theorem Session.lpgWregEntry_cpu {x0 x : Session} {a0 : Bool} {a1 : Nat} {a2 : Word} (h : SameX x0 x) :
    SameX x0 (Session.lpgWregEntry a0 a1 a2 x) := by
  unfold Session.lpgWregEntry
  repeat' first
    | (with_reducible assumption)
    | (with_reducible apply Session.land_cpu)
    | (with_reducible apply Session.lpgGo_cpu)
    | (with_reducible apply Session.orIo_cpu)
    | (with_reducible apply Session.videoStore_cpu)
    | (with_reducible refine SameX.of_ite (fun _ => ?_) (fun _ => ?_))

theorem State.lpgWord_cpu {s0 s : State} {a0 : CtxNo} {a1 : Nat} (h : SameCpu s0 s) :
    SameCpu s0 (State.lpgWord a0 a1 s).1 := by
  unfold State.lpgWord
  repeat' first
    | (with_reducible assumption)
    | (with_reducible apply State.vRead_cpu)
    | (simp only [SameX.same])
    | split

theorem State.lpgPair_cpu {s0 s : State} {a0 : CtxNo} {a1 : Nat} (h : SameCpu s0 s) :
    SameCpu s0 (State.lpgPair a0 a1 s).1 := by
  unfold State.lpgPair
  repeat' first
    | (with_reducible assumption)
    | (with_reducible apply State.lpgWord_cpu)
    | (simp only [SameX.same])
    | (with_reducible refine SameCpu.of_pair ‹_ = (_, _)› ?_)
    | split

theorem State.lpgAct_cpu {s0 s : State} {a0 : CtxNo} {a1 a2 : Word} (h : SameCpu s0 s) :
    SameCpu s0 (State.lpgAct a0 a1 a2 s).1 := by
  unfold State.lpgAct
  repeat' first
    | (with_reducible assumption)
    | (with_reducible apply Session.lpgEndEntry_cpu)
    | (with_reducible apply Session.lpgLoopEntry_cpu)
    | (with_reducible apply Session.lpgSetpEntry_cpu)
    | (with_reducible apply Session.lpgWaitEntry_cpu)
    | (with_reducible apply Session.lpgWpalEntry_cpu)
    | (with_reducible apply Session.lpgWregEntry_cpu)
    | (with_reducible apply State.lpgPair_cpu)
    | (with_reducible apply State.lpgWord_cpu)
    | (with_reducible apply State.modSes_cpu)
    | (with_reducible exact SameX.refl _)
    | (simp only [SameX.same])
    | (with_reducible refine SameCpu.of_pair ‹_ = (_, _)› ?_)
    | (with_reducible refine SameCpu.of_iteP (fun _ => ?_) (fun _ => ?_))
    | (with_reducible intro _)
    | split

theorem State.lpgEntry_cpu {s0 s : State} {a0 : CtxNo} {a1 : Nat → Bool} (h : SameCpu s0 s) :
    SameCpu s0 (State.lpgEntry a0 a1 s).1 := by
  unfold State.lpgEntry
  repeat' first
    | (with_reducible assumption)
    | (with_reducible apply State.lpgAct_cpu)
    | (with_reducible apply State.lpgPair_cpu)
    | (with_reducible apply State.waits_cpu)
    | (simp only [SameX.same])
    | (with_reducible refine SameCpu.of_pair ‹_ = (_, _)› ?_)
    | (with_reducible refine SameCpu.of_iteP (fun _ => ?_) (fun _ => ?_))
    | split

theorem State.lpgRun_cpu {s0 s : State} {a0 : CtxNo} {a1 : Reach} {a2 : Nat} (h : SameCpu s0 s) :
    SameCpu s0 (State.lpgRun a0 a1 a2 s).1 := by
  induction a2 generalizing s with
  | zero =>
    unfold State.lpgRun
    repeat' first
      | (with_reducible assumption)
      | (with_reducible apply ih)
      | (with_reducible apply Session.lpgFrameStart_cpu)
      | (with_reducible apply State.lpgEntry_cpu)
      | (with_reducible apply State.modSes_cpu)
      | (with_reducible exact SameX.refl _)
      | (with_reducible refine SameCpu.of_pair ‹_ = (_, _)› ?_)
      | (with_reducible refine SameCpu.of_iteP (fun _ => ?_) (fun _ => ?_))
      | (with_reducible intro _)
      | split
  | succ n ih =>
    unfold State.lpgRun
    repeat' first
      | (with_reducible assumption)
      | (with_reducible apply ih)
      | (with_reducible apply Session.lpgFrameStart_cpu)
      | (with_reducible apply State.lpgEntry_cpu)
      | (with_reducible apply State.modSes_cpu)
      | (with_reducible exact SameX.refl _)
      | (with_reducible refine SameCpu.of_pair ‹_ = (_, _)› ?_)
      | (with_reducible refine SameCpu.of_iteP (fun _ => ?_) (fun _ => ?_))
      | (with_reducible intro _)
      | split

theorem State.lpgCatchUp_cpu {s0 s : State} {a0 : CtxNo} {a1 : Reach} (h : SameCpu s0 s) :
    SameCpu s0 (State.lpgCatchUp a0 a1 s).1 := by
  unfold State.lpgCatchUp
  repeat' first
    | (with_reducible assumption)
    | (with_reducible apply State.lpgRun_cpu)

theorem Session.beamRead_cpu {x0 x : Session} (h : SameX x0 x) :
    SameX x0 (Session.beamRead x) := by
  unfold Session.beamRead
  repeat' first
    | (with_reducible assumption)
    | (with_reducible apply Session.setIo_cpu)

theorem Session.landScale_cpu {x0 x : Session} {a0 : Nat} (h : SameX x0 x) :
    SameX x0 (Session.landScale a0 x) := by
  unfold Session.landScale
  repeat' first
    | (with_reducible assumption)
    | (with_reducible apply Session.land_cpu)
    | (with_reducible refine SameX.of_ite (fun _ => ?_) (fun _ => ?_))

theorem Session.checkScale_cpu {x0 x : Session} (h : SameX x0 x) :
    SameX x0 (Session.checkScale x) := by
  unfold Session.checkScale
  repeat' first
    | (with_reducible assumption)
    | (with_reducible apply Session.landScale_cpu)
    | (with_reducible apply Session.orIo_cpu)
    | (simp only [SameX.same])
    | (with_reducible refine SameX.of_ite (fun _ => ?_) (fun _ => ?_))

theorem Session.commitComp_cpu {x0 x : Session} (h : SameX x0 x) :
    SameX x0 (Session.commitComp x) := by
  unfold Session.commitComp
  repeat' first
    | (with_reducible assumption)
    | (with_reducible apply Session.land_cpu)
    | (with_reducible refine SameX.foldl (fun _ _ _ => ?_) _ ?_)
    | (with_reducible refine SameX.of_ite (fun _ => ?_) (fun _ => ?_))

theorem Session.commitTiming_cpu {x0 x : Session} {a0 : Context} (h : SameX x0 x) :
    SameX x0 (Session.commitTiming a0 x) := by
  unfold Session.commitTiming
  repeat' first
    | (with_reducible assumption)
    | (with_reducible apply Session.orIo_cpu)
    | (with_reducible apply Session.setIo_cpu)
    | (simp only [SameX.same])
    | (with_reducible refine SameX.foldl (fun _ _ _ => ?_) _ ?_)
    | (with_reducible refine SameX.of_ite (fun _ => ?_) (fun _ => ?_))

theorem Session.lineCompare_cpu {x0 x : Session} (h : SameX x0 x) :
    SameX x0 (Session.lineCompare x) := by
  unfold Session.lineCompare
  repeat' first
    | (with_reducible assumption)
    | (simp only [SameX.same])

theorem Session.palAdvance_cpu {x0 x : Session} (h : SameX x0 x) :
    SameX x0 (Session.palAdvance x) := by
  unfold Session.palAdvance
  repeat' first
    | (with_reducible assumption)
    | (with_reducible apply Session.land_cpu)

theorem Session.vblank_cpu {x0 x : Session} {a0 : Context} (h : SameX x0 x) :
    SameX x0 (Session.vblank a0 x) := by
  unfold Session.vblank
  repeat' first
    | (with_reducible assumption)
    | (with_reducible apply Session.checkScale_cpu)
    | (with_reducible apply Session.commitComp_cpu)
    | (with_reducible apply Session.commitTiming_cpu)
    | (with_reducible apply Session.setIo_cpu)
    | (simp only [SameX.same])
    | (with_reducible refine SameX.of_ite (fun _ => ?_) (fun _ => ?_))

theorem State.beamDue_cpu {s0 s : State} {a0 : CtxNo} (h : SameCpu s0 s) :
    SameCpu s0 (State.beamDue a0 s) := by
  unfold State.beamDue
  repeat' first
    | (with_reducible assumption)
    | (with_reducible apply Session.lineCompare_cpu)
    | (with_reducible apply Session.turnFrame_cpu)
    | (with_reducible apply Session.vblank_cpu)
    | (with_reducible apply State.lpgCatchUp_cpu)
    | (with_reducible apply State.modSes_cpu)
    | (with_reducible exact SameX.refl _)
    | (with_reducible refine SameCpu.of_ite (fun _ => ?_) (fun _ => ?_))
    | (with_reducible intro _)

theorem State.enterAudio_cpu {s0 s : State} {a0 : Nat} {a1 : AudioDesc} (h : SameCpu s0 s) :
    SameCpu s0 (State.enterAudio a0 a1 s) := by
  unfold State.enterAudio
  repeat' first
    | (with_reducible assumption)
    | (with_reducible apply Session.countIo_cpu)
    | (with_reducible apply State.modSes_cpu)
    | (with_reducible apply State.modSlot_cpu)
    | (with_reducible exact SameX.refl _)
    | (simp only [SameX.same])
    | (with_reducible refine SameCpu.of_ite (fun _ => ?_) (fun _ => ?_))
    | (with_reducible intro _)

theorem State.tapAudio_cpu {s0 s : State} {a0 : CtxNo} {a1 : Nat} {a2 : AudioDesc} {a3 : Nat} (h : SameCpu s0 s) :
    SameCpu s0 (State.tapAudio a0 a1 a2 a3 s) := by
  unfold State.tapAudio
  repeat' first
    | (with_reducible assumption)
    | (with_reducible apply State.modSes_cpu)
    | (with_reducible apply State.modSlot_cpu)
    | (with_reducible exact SameX.refl _)
    | (simp only [SameX.same])
    | (with_reducible intro _)

theorem Session.applyKey_cpu {x0 x : Session} {a0 : Nat} {a1 : Bool} (h : SameX x0 x) :
    SameX x0 (Session.applyKey a0 a1 x) := by
  unfold Session.applyKey
  repeat' first
    | (with_reducible assumption)
    | (simp only [SameX.same])

theorem Session.applyKeys_cpu {x0 x : Session} (h : SameX x0 x) :
    SameX x0 (Session.applyKeys x) := by
  unfold Session.applyKeys
  repeat' first
    | (with_reducible assumption)
    | (with_reducible apply Session.applyKey_cpu)
    | (simp only [SameX.same])
    | (with_reducible refine SameX.foldl (fun _ _ _ => ?_) _ ?_)

theorem Session.auxStep_cpu {x0 x : Session} {a0 : Nat} (h : SameX x0 x) :
    SameX x0 (Session.auxStep a0 x) := by
  unfold Session.auxStep
  repeat' first
    | (with_reducible assumption)
    | (with_reducible apply Session.setIo_cpu)
    | (with_reducible refine SameX.of_ite (fun _ => ?_) (fun _ => ?_))

theorem Session.countSample_cpu {x0 x : Session} {a0 : Bool} {a1 a2 : Int} (h : SameX x0 x) :
    SameX x0 (Session.countSample a0 a1 a2 x) := by
  unfold Session.countSample
  repeat' first
    | (with_reducible assumption)
    | (simp only [SameX.same])

theorem Session.endRamps_cpu {x0 x : Session} (h : SameX x0 x) :
    SameX x0 (Session.endRamps x) := by
  unfold Session.endRamps
  repeat' first
    | (with_reducible assumption)
    | (simp only [SameX.same])

theorem Session.mixEvent_cpu {x0 x : Session} {a0 : Nat} (h : SameX x0 x) :
    SameX x0 (Session.mixEvent a0 x) := by
  unfold Session.mixEvent
  repeat' first
    | (with_reducible assumption)
    | (with_reducible apply Session.orIo_cpu)
    | (simp only [SameX.same])
    | (with_reducible refine SameX.of_ite (fun _ => ?_) (fun _ => ?_))

theorem Session.enterSilent_cpu {x0 x : Session} (h : SameX x0 x) :
    SameX x0 (Session.enterSilent x) := by
  unfold Session.enterSilent
  repeat' first
    | (with_reducible assumption)
    | (with_reducible apply Session.mixEvent_cpu)
    | (simp only [SameX.same])

theorem Session.envSteps_cpu {x0 x : Session} (h : SameX x0 x) :
    SameX x0 (Session.envSteps x) := by
  unfold Session.envSteps
  repeat' first
    | (with_reducible assumption)
    | (simp only [SameX.same])

theorem Session.voiceEvent_cpu {x0 x : Session} {a0 : Nat} (h : SameX x0 x) :
    SameX x0 (Session.voiceEvent a0 x) := by
  unfold Session.voiceEvent
  repeat' first
    | (with_reducible assumption)
    | (with_reducible apply Session.orIo_cpu)
    | (simp only [SameX.same])
    | (with_reducible refine SameX.of_ite (fun _ => ?_) (fun _ => ?_))

theorem Session.playVoices_cpu {x0 x : Session} {a0 : Bool → Nat → Word} (h : SameX x0 x) :
    SameX x0 (Session.playVoices a0 x).1 := by
  unfold Session.playVoices
  refine SameX.foldlP (fun z v hz => ?_) _ h
  have h1 : ∀ b : Bool, ∀ {y : Session}, SameX x0 y → SameX x0 (if b = true then y.voiceEvent v else y) := by
    intro b y hy
    cases b
    · exact hy
    · exact Session.voiceEvent_cpu hy
  exact h1 _ (h1 _ hz)

theorem Session.setRamp_cpu {x0 x : Session} {a0 : Nat} {a1 : Ramp} (h : SameX x0 x) :
    SameX x0 (Session.setRamp a0 a1 x) := by
  unfold Session.setRamp
  repeat' first
    | (with_reducible assumption)
    | (simp only [SameX.same])

theorem Session.scaleBus_cpu {x0 x : Session} {a0 : Nat} (h : SameX x0 x) :
    SameX x0 (Session.scaleBus a0 x) := by
  unfold Session.scaleBus
  repeat' first
    | (with_reducible assumption)
    | (with_reducible apply Session.setRamp_cpu)
    | (simp only [SameX.same])
    | (with_reducible refine SameX.of_ite (fun _ => ?_) (fun _ => ?_))

theorem Session.silenceTest_cpu {x0 x : Session} {a0 a1 a2 a3 : Int} (h : SameX x0 x) :
    SameX x0 (Session.silenceTest a0 a1 a2 a3 x) := by
  unfold Session.silenceTest
  repeat' first
    | (with_reducible assumption)
    | (with_reducible apply Session.enterSilent_cpu)
    | (simp only [SameX.same])
    | (with_reducible refine SameX.of_ite (fun _ => ?_) (fun _ => ?_))

theorem Session.soundLoaded_cpu {x0 x : Session} {a0 : Nat} (h : SameX x0 x) :
    SameX x0 (Session.soundLoaded a0 x) := by
  unfold Session.soundLoaded
  repeat' first
    | (with_reducible assumption)
    | (with_reducible apply Session.setIo_cpu)
    | (with_reducible refine SameX.of_ite (fun _ => ?_) (fun _ => ?_))

theorem Session.writeGain_cpu {x0 x : Session} {a0 : Nat} {a1 : Word} (h : SameX x0 x) :
    SameX x0 (Session.writeGain a0 a1 x) := by
  unfold Session.writeGain
  repeat' first
    | (with_reducible assumption)
    | (with_reducible apply Session.setIo_cpu)
    | (with_reducible apply Session.setRamp_cpu)

theorem Session.soundWrite_cpu {x0 x : Session} {a0 : Nat} {a1 : Word} (h : SameX x0 x) :
    SameX x0 (Session.soundWrite a0 a1 x) := by
  unfold Session.soundWrite
  repeat' first
    | (with_reducible assumption)
    | (with_reducible apply Session.setIo_cpu)
    | (with_reducible apply Session.writeGain_cpu)
    | (simp only [SameX.same])
    | (with_reducible refine SameX.of_ite (fun _ => ?_) (fun _ => ?_))

theorem Session.stepRamps_cpu {x0 x : Session} (h : SameX x0 x) :
    SameX x0 (Session.stepRamps x) := by
  unfold Session.stepRamps
  repeat' first
    | (with_reducible assumption)
    | (simp only [SameX.same])

theorem Session.stepScales_cpu {x0 x : Session} (h : SameX x0 x) :
    SameX x0 (Session.stepScales x) := by
  unfold Session.stepScales
  repeat' first
    | (with_reducible assumption)
    | (with_reducible apply Session.scaleBus_cpu)
    | (with_reducible apply Session.stepRamps_cpu)

theorem State.bringSound_cpu {s0 s : State} {a0 : CtxNo} {a1 : List (Nat × Nat)} (h : SameCpu s0 s) :
    SameCpu s0 (State.bringSound a0 a1 s).1 := by
  induction a1 generalizing s with
  | nil =>
    unfold State.bringSound
    repeat' first
      | (with_reducible assumption)
      | (with_reducible apply ih)
      | (with_reducible apply State.sRead_cpu)
      | (simp only [SameX.same])
      | (with_reducible refine SameCpu.of_pair ‹_ = (_, _)› ?_)
      | split
  | cons e l ih =>
    unfold State.bringSound
    repeat' first
      | (with_reducible assumption)
      | (with_reducible apply ih)
      | (with_reducible apply State.sRead_cpu)
      | (simp only [SameX.same])
      | (with_reducible refine SameCpu.of_pair ‹_ = (_, _)› ?_)
      | split

theorem State.bringSample_cpu {s0 s : State} {a0 : CtxNo} {a1 : Nat} {a2 : Session} (h : SameCpu s0 s) :
    SameCpu s0 (State.bringSample a0 a1 a2 s).1 := by
  unfold State.bringSample
  repeat' first
    | (with_reducible assumption)
    | (with_reducible apply State.bringSound_cpu)
    | (simp only [SameX.same])
    | (with_reducible refine SameCpu.of_pair ‹_ = (_, _)› ?_)
    | (with_reducible refine SameCpu.of_iteP (fun _ => ?_) (fun _ => ?_))
    | split

theorem State.countMixWait_cpu {s0 s : State} {a0 : CtxNo} {a1 : Nat} (h : SameCpu s0 s) :
    SameCpu s0 (State.countMixWait a0 a1 s) := by
  unfold State.countMixWait
  repeat' first
    | (with_reducible assumption)
    | (with_reducible apply State.countFreeze_cpu)
    | (with_reducible refine SameCpu.of_ite (fun _ => ?_) (fun _ => ?_))

theorem State.queuePacket_cpu {s0 s : State} {a0 : CtxNo} {a1 : Nat} (h : SameCpu s0 s) :
    SameCpu s0 (State.queuePacket a0 a1 s) := by
  unfold State.queuePacket
  repeat' first
    | (with_reducible assumption)
    | (with_reducible refine State.putSes_cpu ‹_› ?_ ?_)
    | (with_reducible apply Session.countIo_cpu)
    | (with_reducible apply State.enterAudio_cpu)
    | (with_reducible apply State.modSes_cpu)
    | (with_reducible apply State.modSlot_cpu)
    | (with_reducible apply State.tapAudio_cpu)
    | (with_reducible exact SameX.refl _)
    | (simp only [SameX.same])
    | (with_reducible refine SameCpu.of_ite (fun _ => ?_) (fun _ => ?_))
    | (with_reducible intro _)
    | split

theorem State.sendWords_cpu {s0 s : State} {a0 : CtxNo} {a1 : Nat} {a2 a3 : Int} (h : SameCpu s0 s) :
    SameCpu s0 (State.sendWords a0 a1 a2 a3 s).1 := by
  unfold State.sendWords
  repeat' first
    | (with_reducible assumption)
    | (with_reducible apply Session.setIo_cpu)
    | (with_reducible apply State.modSes_cpu)
    | (with_reducible apply State.sWrite_cpu)
    | (with_reducible exact SameX.refl _)
    | (simp only [SameX.same])
    | (with_reducible refine SameCpu.of_iteP (fun _ => ?_) (fun _ => ?_))
    | (with_reducible intro _)
    | split

theorem Session.mixFull_cpu {x0 x : Session} {rd : Bool → Nat → Word} (h : SameX x0 x) : SameX x0 (x.mixFull rd).ses := by
  have h1 := Session.playVoices_cpu (a0 := rd) (Session.stepScales_cpu h)
  have h2 := Session.endRamps_cpu (Session.auxStep_cpu (a0 := 1) (Session.auxStep_cpu (a0 := 0) h1))
  unfold Session.mixFull
  dsimp only
  split
  · exact Session.mixEvent_cpu h2
  · exact h2

theorem Session.mix_cpu {x0 x : Session} {rd : Bool → Nat → Word} (h : SameX x0 x) : SameX x0 (x.mix rd).ses := by
  unfold Session.mix
  split
  · exact Session.silenceTest_cpu (Session.endRamps_cpu (Session.auxStep_cpu (Session.auxStep_cpu (Session.stepScales_cpu
      (Session.envSteps_cpu (Session.applyKeys_cpu h))))))
  · dsimp only
    refine Session.silenceTest_cpu (Session.mixFull_cpu (Session.envSteps_cpu (Session.applyKeys_cpu ?_)))
    split
    · exact Session.mixEvent_cpu (SameX.same.mpr h)
    · exact h

theorem State.mixNow_cpu {s0 s : State} {a0 : CtxNo} {a1 : Nat} (h : SameCpu s0 s) :
    SameCpu s0 (State.mixNow a0 a1 s) := by
  unfold State.mixNow
  repeat' first
    | (with_reducible assumption)
    | (with_reducible refine State.putSes_cpu ‹_› ?_ ?_)
    | (with_reducible apply Session.mix_cpu)
    | (with_reducible apply Session.countSample_cpu)
    | (with_reducible apply State.backOut_cpu)
    | (with_reducible apply State.modSes_cpu)
    | (with_reducible apply State.queuePacket_cpu)
    | (with_reducible apply State.sendWords_cpu)
    | (with_reducible exact SameX.refl _)
    | (simp only [SameX.same])
    | (with_reducible refine SameCpu.of_ite (fun _ => ?_) (fun _ => ?_))
    | (with_reducible refine SameCpu.of_iteP (fun _ => ?_) (fun _ => ?_))
    | (with_reducible intro _)
    | split

theorem State.mixSample_cpu {s0 s : State} {a0 : CtxNo} (h : SameCpu s0 s) :
    SameCpu s0 (State.mixSample a0 s) := by
  unfold State.mixSample
  repeat' first
    | (with_reducible assumption)
    | (with_reducible apply State.bringSample_cpu)
    | (with_reducible apply State.mixNow_cpu)
    | (with_reducible refine SameCpu.of_pair ‹_ = (_, _)› ?_)
    | (with_reducible refine SameCpu.of_ite (fun _ => ?_) (fun _ => ?_))
    | split

theorem State.mixBefore_cpu {s0 s : State} {a0 : CtxNo} {a1 a2 : Nat} (h : SameCpu s0 s) :
    SameCpu s0 (State.mixBefore a0 a1 a2 s) := by
  induction a2 generalizing s with
  | zero =>
    unfold State.mixBefore
    repeat' first
      | (with_reducible assumption)
      | (with_reducible apply ih)
      | (with_reducible apply State.mixSample_cpu)
      | (with_reducible refine SameCpu.of_ite (fun _ => ?_) (fun _ => ?_))
  | succ n ih =>
    unfold State.mixBefore
    repeat' first
      | (with_reducible assumption)
      | (with_reducible apply ih)
      | (with_reducible apply State.mixSample_cpu)
      | (with_reducible refine SameCpu.of_ite (fun _ => ?_) (fun _ => ?_))

theorem State.mixDueBefore_cpu {s0 s : State} {a0 : CtxNo} {a1 : Nat} (h : SameCpu s0 s) :
    SameCpu s0 (State.mixDueBefore a0 a1 s) := by
  unfold State.mixDueBefore
  repeat' first
    | (with_reducible assumption)
    | (with_reducible apply State.mixBefore_cpu)

theorem State.mixFirst_cpu {s0 s : State} {a0 : CtxNo} {a1 : Nat} (h : SameCpu s0 s) :
    SameCpu s0 (State.mixFirst a0 a1 s).1 := by
  unfold State.mixFirst
  repeat' first
    | (with_reducible assumption)
    | (with_reducible apply State.countMixWait_cpu)
    | (with_reducible apply State.mixDueBefore_cpu)

theorem State.soundDue_cpu {s0 s : State} {a0 : CtxNo} (h : SameCpu s0 s) :
    SameCpu s0 (State.soundDue a0 s) := by
  unfold State.soundDue
  repeat' first
    | (with_reducible assumption)
    | (with_reducible apply State.countMixWait_cpu)
    | (with_reducible apply State.mixDueBefore_cpu)
    | (with_reducible refine SameCpu.of_ite (fun _ => ?_) (fun _ => ?_))

theorem State.soundStore_cpu {s0 s : State} {a0 : CtxNo} {a1 : Nat} {a2 : Word} (h : SameCpu s0 s) :
    SameCpu s0 (State.soundStore a0 a1 a2 s).1 := by
  unfold State.soundStore
  repeat' first
    | (with_reducible assumption)
    | (with_reducible apply Session.soundWrite_cpu)
    | (with_reducible apply State.mixDueBefore_cpu)
    | (with_reducible apply State.modSes_cpu)
    | (with_reducible exact SameX.refl _)
    | (simp only [SameX.same])
    | (with_reducible refine SameCpu.of_iteP (fun _ => ?_) (fun _ => ?_))
    | (with_reducible intro _)

theorem Session.overflow_cpu {x0 x : Session} {a0 : Nat} {a1 a2 : Bool} (h : SameX x0 x) :
    SameX x0 (Session.overflow a0 a1 a2 x) := by
  unfold Session.overflow
  repeat' first
    | (with_reducible assumption)
    | (with_reducible apply Session.orIo_cpu)
    | (with_reducible apply Session.setIo_cpu)
    | (simp only [SameX.same])
    | (with_reducible refine SameX.of_ite (fun _ => ?_) (fun _ => ?_))

theorem Session.prune_cpu {x0 x : Session} {a0 a1 a2 : Nat} (h : SameX x0 x) :
    SameX x0 (Session.prune a0 a1 a2 x) := by
  unfold Session.prune
  repeat' first
    | (with_reducible assumption)
    | (with_reducible apply Session.pruneJournal_cpu)
    | (simp only [SameX.same])

theorem Session.spriteClears_cpu {x0 x : Session} {a0 a1 : Nat} (h : SameX x0 x) :
    SameX x0 (Session.spriteClears a0 a1 x) := by
  unfold Session.spriteClears
  repeat' first
    | (with_reducible assumption)
    | (with_reducible apply Session.setIo_cpu)
    | (simp only [SameX.same])
    | (with_reducible refine SameX.foldl (fun _ _ _ => ?_) _ ?_)
    | (with_reducible refine SameX.of_ite (fun _ => ?_) (fun _ => ?_))

theorem State.renderLine_cpu {s0 s : State} {a0 : CtxNo} {a1 : Nat} {a2 : Session} (h : SameCpu s0 s) :
    SameCpu s0 (State.renderLine a0 a1 a2 s) := by
  unfold State.renderLine
  repeat' first
    | (with_reducible assumption)
    | (with_reducible apply Session.overflow_cpu)
    | (with_reducible apply Session.prune_cpu)
    | (with_reducible apply Session.spriteClears_cpu)
    | (with_reducible apply State.addCnt_cpu)
    | (with_reducible apply State.modSes_cpu)
    | (with_reducible apply State.modSlot_cpu)
    | (with_reducible apply State.setReg_cpu)
    | (with_reducible exact SameX.refl _)
    | (simp only [SameX.same])
    | (with_reducible intro _)

theorem State.renderUpTo_cpu {s0 s : State} {a0 : CtxNo} {a1 a2 : Nat} (h : SameCpu s0 s) :
    SameCpu s0 (State.renderUpTo a0 a1 a2 s) := by
  induction a2 generalizing s with
  | zero =>
    unfold State.renderUpTo
    repeat' first
      | (with_reducible assumption)
      | (with_reducible apply ih)
      | (with_reducible apply State.renderLine_cpu)
      | (simp only [SameX.same])
      | (with_reducible refine SameCpu.of_ite (fun _ => ?_) (fun _ => ?_))
      | split
  | succ n ih =>
    unfold State.renderUpTo
    repeat' first
      | (with_reducible assumption)
      | (with_reducible apply ih)
      | (with_reducible apply State.renderLine_cpu)
      | (simp only [SameX.same])
      | (with_reducible refine SameCpu.of_ite (fun _ => ?_) (fun _ => ?_))
      | split

theorem State.spriteDue_cpu {s0 s : State} {a0 : CtxNo} (h : SameCpu s0 s) :
    SameCpu s0 (State.spriteDue a0 s).1 := by
  unfold State.spriteDue
  repeat' first
    | (with_reducible assumption)
    | (with_reducible apply Session.spriteClears_cpu)
    | (with_reducible apply State.countFreeze_cpu)
    | (with_reducible apply State.lpgCatchUp_cpu)
    | (with_reducible apply State.modSes_cpu)
    | (with_reducible apply State.renderUpTo_cpu)
    | (with_reducible exact SameX.refl _)
    | (simp only [SameX.same])
    | (with_reducible refine SameCpu.of_pair ‹_ = (_, _)› ?_)
    | (with_reducible refine SameCpu.of_ite (fun _ => ?_) (fun _ => ?_))
    | (with_reducible intro _)
    | split

theorem State.prefetch_cpu {s0 s : State} {a0 : CtxNo} {a1 : Nat} (h : SameCpu s0 s) :
    SameCpu s0 (State.prefetch a0 a1 s) := by
  unfold State.prefetch
  repeat' first
    | (with_reducible assumption)
    | (with_reducible apply State.ensureCopyAs_cpu)
    | (with_reducible apply State.modSlot_cpu)
    | (simp only [SameX.same])
    | (with_reducible refine SameCpu.foldl (fun _ _ _ => ?_) _ ?_)

theorem State.ensureTitle_cpu {s0 s : State} {a0 : CtxNo} {a1 : Nat} (h : SameCpu s0 s) :
    SameCpu s0 (State.ensureTitle a0 a1 s).1 := by
  unfold State.ensureTitle
  repeat' first
    | (with_reducible assumption)
    | (with_reducible apply State.copyFrame_cpu)
    | (with_reducible apply State.countSlot_cpu)
    | (with_reducible apply State.takeGallery_cpu)
    | (with_reducible apply State.touchGallery_cpu)
    | (with_reducible apply State.unitFail_cpu)
    | (simp only [SameX.same])
    | (with_reducible refine SameCpu.of_someP ‹_ = some (_, _)› ?_)
    | (with_reducible refine SameCpu.of_iteP (fun _ => ?_) (fun _ => ?_))
    | split

theorem State.titleReadyAt_cpu {s0 s : State} {a0 : CtxNo} {a1 a2 a3 : Nat} (h : SameCpu s0 s) :
    SameCpu s0 (State.titleReadyAt a0 a1 a2 a3 s).1 := by
  unfold State.titleReadyAt
  repeat' first
    | (with_reducible assumption)
    | (with_reducible apply State.ensureTitle_cpu)
    | (with_reducible apply State.stuck_cpu)
    | (with_reducible apply State.unitFail_cpu)
    | (simp only [SameX.same])
    | (with_reducible refine SameCpu.of_pair ‹_ = (_, _)› ?_)
    | (with_reducible refine SameCpu.of_iteP (fun _ => ?_) (fun _ => ?_))
    | split

theorem State.titleStaged_cpu {s0 s : State} {a0 : CtxNo} {a1 a2 : Nat} (h : SameCpu s0 s) :
    SameCpu s0 (State.titleStaged a0 a1 a2 s).1 := by
  unfold State.titleStaged
  repeat' first
    | (with_reducible assumption)
    | (with_reducible apply State.titleReadyAt_cpu)
    | (with_reducible apply State.useLine_cpu)
    | (simp only [SameX.same])
    | (with_reducible refine SameCpu.of_pair ‹_ = (_, _)› ?_)
    | (with_reducible refine SameCpu.of_iteP (fun _ => ?_) (fun _ => ?_))
    | split

theorem State.cRead_cpu {s0 s : State} {a0 : CtxNo} {a1 : Nat} (h : SameCpu s0 s) :
    SameCpu s0 (State.cRead a0 a1 s).1 := by
  unfold State.cRead
  repeat' first
    | (with_reducible assumption)
    | (with_reducible apply State.titleStaged_cpu)

theorem State.ramRead_cpu {s0 s : State} {a0 : CtxNo} {a1 : Nat} (h : SameCpu s0 s) :
    SameCpu s0 (State.ramRead a0 a1 s).1 := by
  unfold State.ramRead
  repeat' first
    | (with_reducible assumption)
    | (with_reducible apply State.pageReady_cpu)
    | (with_reducible apply State.useLine_cpu)
    | (simp only [SameX.same])
    | (with_reducible refine SameCpu.of_pair ‹_ = (_, _)› ?_)
    | split

theorem State.dRead_cpu {s0 s : State} {a0 : CtxNo} {a1 : Nat} (h : SameCpu s0 s) :
    SameCpu s0 (State.dRead a0 a1 s).1 := by
  unfold State.dRead
  repeat' first
    | (with_reducible assumption)
    | (with_reducible apply State.ramRead_cpu)
    | (with_reducible apply State.titleStaged_cpu)
    | (with_reducible refine SameCpu.of_iteP (fun _ => ?_) (fun _ => ?_))

theorem State.titleRead_cpu {s0 s : State} {a0 : CtxNo} {a1 a2 : Nat} (h : SameCpu s0 s) :
    SameCpu s0 (State.titleRead a0 a1 a2 s).1 := by
  unfold State.titleRead
  repeat' first
    | (with_reducible assumption)
    | (with_reducible apply State.titleReadyAt_cpu)
    | (simp only [SameX.same])
    | (with_reducible refine SameCpu.of_pair ‹_ = (_, _)› ?_)
    | split

theorem State.dUnitRead_cpu {s0 s : State} {a0 : CtxNo} {a1 : Nat} (h : SameCpu s0 s) :
    SameCpu s0 (State.dUnitRead a0 a1 s).1 := by
  unfold State.dUnitRead
  repeat' first
    | (with_reducible assumption)
    | (with_reducible apply State.pageRead_cpu)
    | (with_reducible apply State.titleRead_cpu)
    | (with_reducible refine SameCpu.of_iteP (fun _ => ?_) (fun _ => ?_))

theorem State.dUnitWrite_cpu {s0 s : State} {a0 : CtxNo} {a1 : Nat} {a2 : Word} (h : SameCpu s0 s) :
    SameCpu s0 (State.dUnitWrite a0 a1 a2 s).1 := by
  unfold State.dUnitWrite
  repeat' first
    | (with_reducible assumption)
    | (with_reducible apply State.backOut_cpu)
    | (with_reducible apply State.dropLine_cpu)
    | (with_reducible apply State.pageWrite_cpu)
    | (simp only [SameX.same])
    | (with_reducible refine SameCpu.of_iteP (fun _ => ?_) (fun _ => ?_))

theorem State.dWrite_cpu {s0 s : State} {a0 : CtxNo} {a1 : Nat} {a2 : Word} (h : SameCpu s0 s) :
    SameCpu s0 (State.dWrite a0 a1 a2 s).1 := by
  unfold State.dWrite
  repeat' first
    | (with_reducible assumption)
    | (with_reducible apply State.pageReady_cpu)
    | (with_reducible apply State.pageTouch_cpu)
    | (with_reducible apply State.pageWrite_cpu)
    | (with_reducible apply State.thawed_cpu)
    | (with_reducible apply State.useLine_cpu)
    | (simp only [SameX.same])
    | (with_reducible refine SameCpu.of_pair ‹_ = (_, _)› ?_)
    | (with_reducible refine SameCpu.of_ite (fun _ => ?_) (fun _ => ?_))
    | (with_reducible refine SameCpu.of_iteP (fun _ => ?_) (fun _ => ?_))
    | split

theorem State.fillData_cpu {s0 s : State} {a0 : CtxNo} {a1 : Nat} (h : SameCpu s0 s) :
    SameCpu s0 (State.fillData a0 a1 s) := by
  unfold State.fillData
  repeat' first
    | (with_reducible assumption)
    | (with_reducible apply Session.stage_cpu)
    | (with_reducible apply State.modSes_cpu)
    | (with_reducible apply State.pageReady_cpu)
    | (with_reducible apply State.trimLines_cpu)
    | (with_reducible exact SameX.refl _)
    | (with_reducible refine SameCpu.of_pair ‹_ = (_, _)› ?_)
    | (with_reducible refine SameCpu.of_ite (fun _ => ?_) (fun _ => ?_))
    | (with_reducible intro _)
    | split

theorem State.fillTitle_cpu {s0 s : State} {a0 : CtxNo} {a1 a2 : Nat} (h : SameCpu s0 s) :
    SameCpu s0 (State.fillTitle a0 a1 a2 s) := by
  unfold State.fillTitle
  repeat' first
    | (with_reducible assumption)
    | (with_reducible apply Session.stage_cpu)
    | (with_reducible apply State.modSes_cpu)
    | (with_reducible apply State.titleReadyAt_cpu)
    | (with_reducible apply State.trimLines_cpu)
    | (with_reducible exact SameX.refl _)
    | (with_reducible refine SameCpu.of_pair ‹_ = (_, _)› ?_)
    | (with_reducible refine SameCpu.of_ite (fun _ => ?_) (fun _ => ?_))
    | (with_reducible intro _)
    | split

theorem State.fillAhead_cpu {s0 s : State} {a0 : CtxNo} (h : SameCpu s0 s) :
    SameCpu s0 (State.fillAhead a0 s) := by
  unfold State.fillAhead
  repeat' first
    | (with_reducible assumption)
    | (with_reducible apply State.fillData_cpu)
    | (with_reducible apply State.fillTitle_cpu)
    | (simp only [SameX.same])
    | (with_reducible refine SameCpu.foldl (fun _ _ _ => ?_) _ ?_)
    | (with_reducible refine SameCpu.of_ite (fun _ => ?_) (fun _ => ?_))
    | split

theorem statBit_cpu {x0 x : Session} {a0 : Nat} (h : SameX x0 x) :
    SameX x0 (statBit a0 x) := by
  unfold statBit
  repeat' first
    | (with_reducible assumption)
    | (with_reducible apply Session.orIo_cpu)

theorem Session.raiseWm_cpu {x0 x : Session} (h : SameX x0 x) :
    SameX x0 (Session.raiseWm x) := by
  unfold Session.raiseWm
  repeat' first
    | (with_reducible assumption)
    | (with_reducible apply statBit_cpu)
    | (simp only [SameX.same])
    | (with_reducible refine SameX.of_ite (fun _ => ?_) (fun _ => ?_))
    | split

theorem Session.endBlit_cpu {x0 x : Session} {a0 : Bool} {a1 : Nat} (h : SameX x0 x) :
    SameX x0 (Session.endBlit a0 a1 x) := by
  unfold Session.endBlit
  repeat' first
    | (with_reducible assumption)
    | (with_reducible apply Session.raiseWm_cpu)
    | (with_reducible apply statBit_cpu)
    | (simp only [SameX.same])
    | (with_reducible refine SameX.of_ite (fun _ => ?_) (fun _ => ?_))

theorem Session.blitAbort_cpu {x0 x : Session} {a0 : Nat} (h : SameX x0 x) :
    SameX x0 (Session.blitAbort a0 x) := by
  unfold Session.blitAbort
  repeat' first
    | (with_reducible assumption)
    | (with_reducible apply Session.endBlit_cpu)
    | (simp only [SameX.same])
    | (with_reducible refine SameX.of_ite (fun _ => ?_) (fun _ => ?_))
    | split

theorem Session.blitGo_cpu {x0 x : Session} {a0 : Nat} (h : SameX x0 x) :
    SameX x0 (Session.blitGo a0 x) := by
  unfold Session.blitGo
  repeat' first
    | (with_reducible assumption)
    | (with_reducible apply Session.setIo_cpu)
    | (with_reducible apply statBit_cpu)
    | (simp only [SameX.same])
    | (with_reducible refine SameX.of_ite (fun _ => ?_) (fun _ => ?_))

theorem Session.blitStore_cpu {x0 x : Session} {a0 a1 : Nat} {a2 : Word} (h : SameX x0 x) :
    SameX x0 (Session.blitStore a0 a1 a2 x) := by
  unfold Session.blitStore
  repeat' first
    | (with_reducible assumption)
    | (with_reducible apply Session.blitAbort_cpu)
    | (with_reducible apply Session.blitGo_cpu)
    | (with_reducible apply Session.setIo_cpu)
    | (simp only [SameX.same])
    | (with_reducible refine SameX.of_ite (fun _ => ?_) (fun _ => ?_))

theorem Session.burstLanded_cpu {x0 x : Session} {a0 : Blit} {a1 : Nat} (h : SameX x0 x) :
    SameX x0 (Session.burstLanded a0 a1 x) := by
  unfold Session.burstLanded
  repeat' first
    | (with_reducible assumption)
    | (with_reducible apply Session.endBlit_cpu)
    | (with_reducible apply Session.raiseWm_cpu)
    | (with_reducible apply Session.setIo_cpu)
    | (with_reducible apply statBit_cpu)
    | (simp only [SameX.same])
    | (with_reducible refine SameX.of_ite (fun _ => ?_) (fun _ => ?_))

theorem State.blitWord_cpu {s0 s : State} {a0 : CtxNo} {a1 a2 : Nat} {a3 : Nat × Word × Word} (h : SameCpu s0 s) :
    SameCpu s0 (State.blitWord a0 a1 a2 a3 s).1 := by
  unfold State.blitWord
  repeat' first
    | (with_reducible assumption)
    | (with_reducible apply State.vWrite_cpu)
    | (simp only [SameX.same])
    | (with_reducible refine SameCpu.of_iteP (fun _ => ?_) (fun _ => ?_))

theorem State.blitWords_cpu {s0 s : State} {a0 : CtxNo} {a1 a2 : Nat} {a3 : List (Nat × Word × Word)} (h : SameCpu s0 s) :
    SameCpu s0 (State.blitWords a0 a1 a2 a3 s).1 := by
  induction a3 generalizing s with
  | nil =>
    unfold State.blitWords
    repeat' first
      | (with_reducible assumption)
      | (with_reducible apply ih)
      | (with_reducible apply State.blitWord_cpu)
      | (with_reducible refine SameCpu.of_pair ‹_ = (_, _)› ?_)
      | split
  | cons e l ih =>
    unfold State.blitWords
    repeat' first
      | (with_reducible assumption)
      | (with_reducible apply ih)
      | (with_reducible apply State.blitWord_cpu)
      | (with_reducible refine SameCpu.of_pair ‹_ = (_, _)› ?_)
      | split

theorem State.blitLand_cpu {s0 s : State} {a0 : CtxNo} {a1 : Blit} (h : SameCpu s0 s) :
    SameCpu s0 (State.blitLand a0 a1 s).1 := by
  unfold State.blitLand
  repeat' first
    | (with_reducible assumption)
    | (with_reducible apply Session.burstLanded_cpu)
    | (with_reducible apply State.blitWords_cpu)
    | (with_reducible apply State.modSes_cpu)
    | (with_reducible exact SameX.refl _)
    | (with_reducible refine SameCpu.of_pair ‹_ = (_, _)› ?_)
    | (with_reducible intro _)
    | split

theorem State.bringWords_cpu {s0 s : State} {a0 : CtxNo} {a1 : List (Nat × Nat)} (h : SameCpu s0 s) :
    SameCpu s0 (State.bringWords a0 a1 s).1 := by
  induction a1 generalizing s with
  | nil =>
    unfold State.bringWords
    repeat' first
      | (with_reducible assumption)
      | (with_reducible apply ih)
      | (with_reducible apply State.vRead_cpu)
      | (simp only [SameX.same])
      | (with_reducible refine SameCpu.of_pair ‹_ = (_, _)› ?_)
      | split
  | cons e l ih =>
    unfold State.bringWords
    repeat' first
      | (with_reducible assumption)
      | (with_reducible apply ih)
      | (with_reducible apply State.vRead_cpu)
      | (simp only [SameX.same])
      | (with_reducible refine SameCpu.of_pair ‹_ = (_, _)› ?_)
      | split

theorem State.blitStart_cpu {s0 s : State} {a0 : CtxNo} {a1 : Blit} (h : SameCpu s0 s) :
    SameCpu s0 (State.blitStart a0 a1 s).1 := by
  unfold State.blitStart
  repeat' first
    | (with_reducible assumption)
    | (with_reducible apply State.bringWords_cpu)
    | (with_reducible apply State.modSes_cpu)
    | (with_reducible exact SameX.refl _)
    | (simp only [SameX.same])
    | (with_reducible refine SameCpu.of_pair ‹_ = (_, _)› ?_)
    | (with_reducible intro _)
    | split

theorem Session.clearEn_cpu {x0 x : Session} {a0 : Nat} (h : SameX x0 x) :
    SameX x0 (Session.clearEn a0 x) := by
  unfold Session.clearEn
  repeat' first
    | (with_reducible assumption)
    | (with_reducible apply Session.setIo_cpu)

theorem Session.setCh_cpu {x0 x : Session} {a0 : Fin 4} {a1 : DmaCh} (h : SameX x0 x) :
    SameX x0 (Session.setCh a0 a1 x) := by
  unfold Session.setCh
  repeat' first
    | (with_reducible assumption)
    | (simp only [SameX.same])

theorem Session.backDone_cpu {x0 x : Session} {a0 : Fin 4} {a1 : Nat} (h : SameX x0 x) :
    SameX x0 (Session.backDone a0 a1 x) := by
  unfold Session.backDone
  repeat' first
    | (with_reducible assumption)
    | (with_reducible apply Session.clearEn_cpu)
    | (with_reducible apply Session.setCh_cpu)
    | (with_reducible apply Session.setIo_cpu)
    | (simp only [SameX.same])
    | (with_reducible refine SameX.of_ite (fun _ => ?_) (fun _ => ?_))
    | split

theorem Session.ringEvents_cpu {x0 x : Session} {a0 : Fin 4} {a1 a2 : Nat} (h : SameX x0 x) :
    SameX x0 (Session.ringEvents a0 a1 a2 x) := by
  unfold Session.ringEvents
  repeat' first
    | (with_reducible assumption)
    | (simp only [SameX.same])
    | (with_reducible refine SameX.of_ite (fun _ => ?_) (fun _ => ?_))

theorem Session.streamAbort_cpu {x0 x : Session} {a0 : Fin 4} (h : SameX x0 x) :
    SameX x0 (Session.streamAbort a0 x) := by
  unfold Session.streamAbort
  repeat' first
    | (with_reducible assumption)
    | (with_reducible apply Session.clearEn_cpu)
    | (with_reducible apply Session.orIo_cpu)
    | (with_reducible apply Session.setCh_cpu)

theorem Session.streamLanded_cpu {x0 x : Session} {a0 : Fin 4} {a1 a2 a3 : Nat} (h : SameX x0 x) :
    SameX x0 (Session.streamLanded a0 a1 a2 a3 x) := by
  unfold Session.streamLanded
  repeat' first
    | (with_reducible assumption)
    | (with_reducible apply Session.ringEvents_cpu)
    | (with_reducible apply Session.setCh_cpu)
    | (with_reducible apply Session.setIo_cpu)
    | (with_reducible apply Session.streamAbort_cpu)
    | (simp only [SameX.same])
    | (with_reducible refine SameX.of_ite (fun _ => ?_) (fun _ => ?_))

theorem Session.actDone_cpu {x0 x : Session} {a0 : DmaAct} {a1 : Word} {a2 : Nat} (h : SameX x0 x) :
    SameX x0 (Session.actDone a0 a1 a2 x) := by
  unfold Session.actDone
  repeat' first
    | (with_reducible assumption)
    | (with_reducible apply Session.backDone_cpu)
    | (with_reducible apply Session.setCh_cpu)
    | (with_reducible apply Session.streamLanded_cpu)
    | (simp only [SameX.same])
    | (with_reducible refine SameX.of_ite (fun _ => ?_) (fun _ => ?_))
    | split

theorem Session.bandTrigger_cpu {x0 x : Session} (h : SameX x0 x) :
    SameX x0 (Session.bandTrigger x) := by
  unfold Session.bandTrigger
  repeat' first
    | (with_reducible assumption)
    | (simp only [SameX.same])

theorem Session.carry_cpu {x0 x : Session} {a0 : Fin 4} {a1 a2 : Nat} {a3 : List Word} (h : SameX x0 x) :
    SameX x0 (Session.carry a0 a1 a2 a3 x) := by
  unfold Session.carry
  repeat' first
    | (with_reducible assumption)
    | (with_reducible apply Session.setCh_cpu)
    | (simp only [SameX.same])

theorem Session.dmaAbort_cpu {x0 x : Session} {a0 : Fin 4} {a1 : Nat} (h : SameX x0 x) :
    SameX x0 (Session.dmaAbort a0 a1 x) := by
  unfold Session.dmaAbort
  repeat' first
    | (with_reducible assumption)
    | (with_reducible apply Session.clearEn_cpu)
    | (with_reducible apply Session.setCh_cpu)
    | (with_reducible apply Session.streamAbort_cpu)
    | (simp only [SameX.same])
    | (with_reducible refine SameX.of_ite (fun _ => ?_) (fun _ => ?_))
    | split

theorem Session.enable_cpu {x0 x : Session} {a0 : Fin 4} {a1 : Word} {a2 : Nat} (h : SameX x0 x) :
    SameX x0 (Session.enable a0 a1 a2 x) := by
  unfold Session.enable
  repeat' first
    | (with_reducible assumption)
    | (with_reducible apply Session.clearEn_cpu)
    | (with_reducible apply Session.orIo_cpu)
    | (with_reducible apply Session.setCh_cpu)
    | (with_reducible apply Session.setIo_cpu)
    | (simp only [SameX.same])
    | (with_reducible refine SameX.of_ite (fun _ => ?_) (fun _ => ?_))
    | split

theorem Session.dmaControl_cpu {x0 x : Session} {a0 : Fin 4} {a1 : Nat} {a2 : Word} (h : SameX x0 x) :
    SameX x0 (Session.dmaControl a0 a1 a2 x) := by
  unfold Session.dmaControl
  repeat' first
    | (with_reducible assumption)
    | (with_reducible apply Session.dmaAbort_cpu)
    | (with_reducible apply Session.enable_cpu)
    | (with_reducible apply Session.setCh_cpu)
    | (with_reducible apply Session.setIo_cpu)
    | (simp only [SameX.same])
    | (with_reducible refine SameX.of_ite (fun _ => ?_) (fun _ => ?_))

theorem Session.dmaStore_cpu {x0 x : Session} {a0 a1 : Nat} {a2 : Word} (h : SameX x0 x) :
    SameX x0 (Session.dmaStore a0 a1 a2 x) := by
  unfold Session.dmaStore
  repeat' first
    | (with_reducible assumption)
    | (with_reducible apply Session.dmaControl_cpu)
    | (with_reducible apply Session.setIo_cpu)
    | (simp only [SameX.same])
    | (with_reducible refine SameX.of_ite (fun _ => ?_) (fun _ => ?_))
    | split

theorem Session.startBack_cpu {x0 x : Session} {a0 : Fin 4} {a1 : Nat} (h : SameX x0 x) :
    SameX x0 (Session.startBack a0 a1 x) := by
  unfold Session.startBack
  repeat' first
    | (with_reducible assumption)
    | (simp only [SameX.same])

theorem Session.trigger_cpu {x0 x : Session} {a0 : Fin 4} (h : SameX x0 x) :
    SameX x0 (Session.trigger a0 x) := by
  unfold Session.trigger
  repeat' first
    | (with_reducible assumption)
    | (with_reducible apply Session.orIo_cpu)
    | (with_reducible apply Session.setCh_cpu)
    | (simp only [SameX.same])
    | (with_reducible refine SameX.of_ite (fun _ => ?_) (fun _ => ?_))

theorem Session.triggersAt_cpu {x0 x : Session} {a0 : Nat} (h : SameX x0 x) :
    SameX x0 (Session.triggersAt a0 x) := by
  unfold Session.triggersAt
  repeat' first
    | (with_reducible assumption)
    | (with_reducible apply Session.setCh_cpu)
    | (with_reducible apply Session.trigger_cpu)
    | (simp only [SameX.same])
    | (with_reducible refine SameX.foldl (fun _ _ _ => ?_) _ ?_)

theorem State.dmaRead_cpu {s0 s : State} {a0 : CtxNo} {a1 a2 a3 : Nat} (h : SameCpu s0 s) :
    SameCpu s0 (State.dmaRead a0 a1 a2 a3 s).1 := by
  unfold State.dmaRead
  repeat' first
    | (with_reducible assumption)
    | (with_reducible apply State.dUnitRead_cpu)
    | (with_reducible apply State.sRead_cpu)
    | (with_reducible apply State.vRead_cpu)
    | (with_reducible refine SameCpu.of_iteP (fun _ => ?_) (fun _ => ?_))
    | split

theorem State.dmaWrite_cpu {s0 s : State} {a0 : CtxNo} {a1 : Nat} {a2 : Nat × Nat × Nat × Word} (h : SameCpu s0 s) :
    SameCpu s0 (State.dmaWrite a0 a1 a2 s).1 := by
  unfold State.dmaWrite
  repeat' first
    | (with_reducible assumption)
    | (with_reducible apply State.dUnitWrite_cpu)
    | (with_reducible apply State.sWrite_cpu)
    | (with_reducible apply State.vWrite_cpu)
    | (with_reducible refine SameCpu.of_iteP (fun _ => ?_) (fun _ => ?_))
    | split

theorem State.dmaWrites_cpu {s0 s : State} {a0 : CtxNo} {a1 : Nat} {a2 : List (Nat × Nat × Nat × Word)} (h : SameCpu s0 s) :
    SameCpu s0 (State.dmaWrites a0 a1 a2 s).1 := by
  induction a2 generalizing s with
  | nil =>
    unfold State.dmaWrites
    repeat' first
      | (with_reducible assumption)
      | (with_reducible apply ih)
      | (with_reducible apply State.dmaWrite_cpu)
      | (with_reducible refine SameCpu.of_pair ‹_ = (_, _)› ?_)
      | split
  | cons e l ih =>
    unfold State.dmaWrites
    repeat' first
      | (with_reducible assumption)
      | (with_reducible apply ih)
      | (with_reducible apply State.dmaWrite_cpu)
      | (with_reducible refine SameCpu.of_pair ‹_ = (_, _)› ?_)
      | split

theorem State.dmaLand_cpu {s0 s : State} {a0 : CtxNo} {a1 : Nat} (h : SameCpu s0 s) :
    SameCpu s0 (State.dmaLand a0 a1 s).1 := by
  unfold State.dmaLand
  repeat' first
    | (with_reducible assumption)
    | (with_reducible apply Session.actDone_cpu)
    | (with_reducible apply State.dmaWrites_cpu)
    | (with_reducible apply State.modSes_cpu)
    | (with_reducible exact SameX.refl _)
    | (simp only [SameX.same])
    | (with_reducible refine SameCpu.of_pair ‹_ = (_, _)› ?_)
    | (with_reducible refine SameCpu.of_iteP (fun _ => ?_) (fun _ => ?_))
    | (with_reducible intro _)
    | split

theorem State.dmaReads_cpu {s0 s : State} {a0 : CtxNo} {a1 a2 a3 a4 : Nat} (h : SameCpu s0 s) :
    SameCpu s0 (State.dmaReads a0 a1 a2 a3 a4 s).1 := by
  induction a4 generalizing s a3 with
  | zero =>
    unfold State.dmaReads
    repeat' first
      | (with_reducible assumption)
      | (with_reducible apply ih)
      | (with_reducible apply State.dmaRead_cpu)
      | (simp only [SameX.same])
      | (with_reducible refine SameCpu.of_pair ‹_ = (_, _)› ?_)
      | split
  | succ n ih =>
    unfold State.dmaReads
    repeat' first
      | (with_reducible assumption)
      | (with_reducible apply ih)
      | (with_reducible apply State.dmaRead_cpu)
      | (simp only [SameX.same])
      | (with_reducible refine SameCpu.of_pair ‹_ = (_, _)› ?_)
      | split

theorem State.startBurst_cpu {s0 s : State} {a0 : CtxNo} {a1 : Fin 4} {a2 : Nat} {a3 : Session} (h : SameCpu s0 s) :
    SameCpu s0 (State.startBurst a0 a1 a2 a3 s).1 := by
  unfold State.startBurst
  repeat' first
    | (with_reducible assumption)
    | (with_reducible apply Session.carry_cpu)
    | (with_reducible apply Session.setCh_cpu)
    | (with_reducible apply State.dmaReads_cpu)
    | (with_reducible apply State.modSes_cpu)
    | (with_reducible exact SameX.refl _)
    | (simp only [SameX.same])
    | (with_reducible refine SameCpu.of_pair ‹_ = (_, _)› ?_)
    | (with_reducible refine SameCpu.of_iteP (fun _ => ?_) (fun _ => ?_))
    | (with_reducible intro _)
    | split

theorem State.startRead_cpu {s0 s : State} {a0 : CtxNo} {a1 : Fin 4} {a2 : Nat} {a3 : Session} (h : SameCpu s0 s) :
    SameCpu s0 (State.startRead a0 a1 a2 a3 s).1 := by
  unfold State.startRead
  repeat' first
    | (with_reducible assumption)
    | (with_reducible apply Session.setCh_cpu)
    | (with_reducible apply State.dmaReads_cpu)
    | (with_reducible apply State.modSes_cpu)
    | (with_reducible exact SameX.refl _)
    | (simp only [SameX.same])
    | (with_reducible refine SameCpu.of_pair ‹_ = (_, _)› ?_)
    | (with_reducible intro _)
    | split

theorem State.dmaStart_cpu {s0 s : State} {a0 : CtxNo} {a1 : Nat} (h : SameCpu s0 s) :
    SameCpu s0 (State.dmaStart a0 a1 s).1 := by
  unfold State.dmaStart
  repeat' first
    | (with_reducible assumption)
    | (with_reducible apply Session.startBack_cpu)
    | (with_reducible apply State.modSes_cpu)
    | (with_reducible apply State.startBurst_cpu)
    | (with_reducible apply State.startRead_cpu)
    | (with_reducible exact SameX.refl _)
    | (with_reducible refine SameCpu.of_iteP (fun _ => ?_) (fun _ => ?_))
    | (with_reducible intro _)
    | split

theorem State.dropInput_cpu {s0 s : State} {a0 : CtxNo} {a1 : Nat} (h : SameCpu s0 s) :
    SameCpu s0 (State.dropInput a0 a1 s) := by
  unfold State.dropInput
  repeat' first
    | (with_reducible assumption)
    | (with_reducible apply Session.countIo_cpu)
    | (with_reducible apply State.modSes_cpu)
    | (with_reducible exact SameX.refl _)
    | (with_reducible intro _)

theorem Session.applyInput_cpu {x0 x : Session} {a0 : InPkt} (h : SameX x0 x) :
    SameX x0 (Session.applyInput a0 x) := by
  unfold Session.applyInput
  repeat' first
    | (with_reducible assumption)
    | (with_reducible apply Session.countIo_cpu)
    | (with_reducible apply Session.orIo_cpu)
    | (with_reducible apply Session.setIo_cpu)
    | (simp only [SameX.same])
    | (with_reducible refine SameX.foldl (fun _ _ _ => ?_) _ ?_)
    | (with_reducible refine SameX.of_ite (fun _ => ?_) (fun _ => ?_))

theorem Session.latchInputs_cpu {x0 x : Session} {a0 : List InPkt} {a1 a2 : Nat} (h : SameX x0 x) :
    SameX x0 (Session.latchInputs a0 a1 a2 x) := by
  unfold Session.latchInputs
  repeat' first
    | (with_reducible assumption)
    | (with_reducible apply Session.applyInput_cpu)
    | (with_reducible apply Session.setIo_cpu)
    | (simp only [SameX.same])
    | (with_reducible refine SameX.foldl (fun _ _ _ => ?_) _ ?_)

theorem Session.mailBoundary_cpu {x0 x : Session} (h : SameX x0 x) :
    SameX x0 (Session.mailBoundary x) := by
  unfold Session.mailBoundary
  repeat' first
    | (with_reducible assumption)
    | (with_reducible apply Session.orIo_cpu)
    | (with_reducible apply Session.setIo_cpu)
    | (simp only [SameX.same])
    | (with_reducible refine SameX.foldl (fun _ _ _ => ?_) _ ?_)
    | (with_reducible refine SameX.of_ite (fun _ => ?_) (fun _ => ?_))
    | split

theorem State.creditTokens_cpu {s0 s : State} {a0 : CtxNo} {a1 a2 : Nat} (h : SameCpu s0 s) :
    SameCpu s0 (State.creditTokens a0 a1 a2 s) := by
  unfold State.creditTokens
  repeat' first
    | (with_reducible assumption)
    | (with_reducible apply State.modSlot_cpu)

theorem State.cut_cpu {s0 s : State} {a0 : Nat} (h : SameCpu s0 s) :
    SameCpu s0 (State.cut a0 s).2 := by
  unfold State.cut
  repeat' first
    | (with_reducible assumption)
    | (with_reducible apply State.spend_cpu)
    | split

theorem State.takeInputs_cpu {s0 s : State} {a0 a1 : Nat} (h : SameCpu s0 s) :
    SameCpu s0 (State.takeInputs a0 a1 s).2 := by
  induction a1 generalizing s with
  | zero => exact h
  | succ n ih =>
    cases hq : (s.slot a0).inputQ with
    | nil => simp only [State.takeInputs, hq]; exact h
    | cons p q =>
      have key : ∀ r : Bool × State, SameCpu s0 r.2 → SameCpu s0 (if r.1 = true then
          (p :: (State.takeInputs a0 n (r.2.modSlot a0 (fun y => { y with inputQ := q }))).1,
            (State.takeInputs a0 n (r.2.modSlot a0 (fun y => { y with inputQ := q }))).2) else ([], r.2)).2 := by
        intro r hr
        split
        · exact ih (State.modSlot_cpu hr)
        · exact hr
      simp only [State.takeInputs, hq]
      exact key (s.cut p.arrival) (State.cut_cpu h)

theorem State.latchBoundary_cpu {s0 s : State} {a0 : CtxNo} {a1 a2 a3 : Nat} (h : SameCpu s0 s) :
    SameCpu s0 (State.latchBoundary a0 a1 a2 a3 s) := by
  unfold State.latchBoundary
  repeat' first
    | (with_reducible assumption)
    | (with_reducible apply Session.latchInputs_cpu)
    | (with_reducible apply State.modSes_cpu)
    | (with_reducible apply State.releaseOf_cpu)
    | (with_reducible apply State.setReg_cpu)
    | (with_reducible apply State.takeInputs_cpu)
    | (with_reducible exact SameX.refl _)
    | (simp only [SameX.same])
    | (with_reducible intro _)
    | split

theorem State.emptyMirror_cpu {s0 s : State} {a0 : CtxNo} {a1 a2 a3 : Nat} (h : SameCpu s0 s) :
    SameCpu s0 (State.emptyMirror a0 a1 a2 a3 s) := by
  unfold State.emptyMirror
  repeat' first
    | (with_reducible assumption)
    | (with_reducible apply State.modSes_cpu)
    | (with_reducible apply State.modSlot_cpu)
    | (with_reducible exact SameX.refl _)
    | (simp only [SameX.same])
    | (with_reducible refine SameCpu.of_ite (fun _ => ?_) (fun _ => ?_))
    | (with_reducible intro _)

theorem State.mirrorEvents_cpu {s0 s : State} {a0 : CtxNo} {a1 a2 a3 : Nat} (h : SameCpu s0 s) :
    SameCpu s0 (State.mirrorEvents a0 a1 a2 a3 s) := by
  unfold State.mirrorEvents
  repeat' first
    | (with_reducible assumption)
    | (with_reducible apply State.emptyMirror_cpu)
    | (with_reducible apply State.modSes_cpu)
    | (with_reducible exact SameX.refl _)
    | (simp only [SameX.same])
    | (with_reducible refine SameCpu.of_ite (fun _ => ?_) (fun _ => ?_))
    | (with_reducible intro _)

theorem State.takeRefresh_cpu {s0 s : State} {a0 : CtxNo} {a1 a2 a3 a4 : Nat} (h : SameCpu s0 s) :
    SameCpu s0 (State.takeRefresh a0 a1 a2 a3 a4 s) := by
  induction a4 generalizing s with
  | zero =>
    unfold State.takeRefresh
    repeat' first
      | (with_reducible assumption)
      | (with_reducible apply ih)
      | (with_reducible apply State.countReg_cpu)
      | (with_reducible apply State.cut_cpu)
      | (with_reducible apply State.emptyMirror_cpu)
      | (with_reducible apply State.modSlot_cpu)
      | (simp only [SameX.same])
      | (with_reducible refine SameCpu.of_ite (fun _ => ?_) (fun _ => ?_))
      | split
  | succ n ih =>
    unfold State.takeRefresh
    repeat' first
      | (with_reducible assumption)
      | (with_reducible apply ih)
      | (with_reducible apply State.countReg_cpu)
      | (with_reducible apply State.cut_cpu)
      | (with_reducible apply State.emptyMirror_cpu)
      | (with_reducible apply State.modSlot_cpu)
      | (simp only [SameX.same])
      | (with_reducible refine SameCpu.of_ite (fun _ => ?_) (fun _ => ?_))
      | split

theorem State.mirrorBoundary_cpu {s0 s : State} {a0 : CtxNo} {a1 a2 a3 : Nat} (h : SameCpu s0 s) :
    SameCpu s0 (State.mirrorBoundary a0 a1 a2 a3 s) := by
  unfold State.mirrorBoundary
  repeat' first
    | (with_reducible assumption)
    | (with_reducible apply State.emptyMirror_cpu)
    | (with_reducible apply State.mirrorEvents_cpu)
    | (with_reducible apply State.takeRefresh_cpu)
    | (simp only [SameX.same])
    | (with_reducible refine SameCpu.of_ite (fun _ => ?_) (fun _ => ?_))

theorem State.takeControls_cpu {s0 s : State} {a0 a1 a2 : Nat} (h : SameCpu s0 s) :
    SameCpu s0 (State.takeControls a0 a1 a2 s) := by
  unfold State.takeControls
  repeat' first
    | (with_reducible assumption)
    | (with_reducible apply State.modSlot_cpu)

theorem State.horizonStep_cpu {s0 s : State} {a0 : CtxNo} {a1 : Nat} (h : SameCpu s0 s) :
    SameCpuO s0 (State.horizonStep a0 a1 s) := by
  unfold State.horizonStep
  repeat' first
    | (with_reducible assumption)
    | (with_reducible apply State.modSlot_cpu)
    | (with_reducible apply State.releaseOf_cpu)
    | (simp only [SameX.same])
    | (with_reducible apply SameCpuO.none)
    | (with_reducible apply SameCpuO.some)
    | split

theorem State.horizonAll_cpu {s0 s : State} {a0 : CtxNo} {a1 a2 : Nat} (h : SameCpu s0 s) :
    SameCpu s0 (State.horizonAll a0 a1 a2 s) := by
  induction a2 generalizing s with
  | zero =>
    unfold State.horizonAll
    repeat' first
      | (with_reducible assumption)
      | (with_reducible apply ih)
      | (with_reducible apply State.horizonStep_cpu)
      | (with_reducible refine SameCpu.of_some ‹_ = some _› ?_)
      | split
  | succ n ih =>
    unfold State.horizonAll
    repeat' first
      | (with_reducible assumption)
      | (with_reducible apply ih)
      | (with_reducible apply State.horizonStep_cpu)
      | (with_reducible refine SameCpu.of_some ‹_ = some _› ?_)
      | split

theorem State.takeLead_cpu {s0 s : State} {a0 : CtxNo} {a1 a2 a3 : Nat} (h : SameCpu s0 s) :
    SameCpu s0 (State.takeLead a0 a1 a2 a3 s) := by
  unfold State.takeLead
  repeat' first
    | (with_reducible assumption)
    | (with_reducible apply State.horizonAll_cpu)
    | (with_reducible apply State.modSlot_cpu)
    | split

theorem State.crossBoundary_cpu {s0 s : State} {a0 : CtxNo} {a1 : Nat} (h : SameCpu s0 s) :
    SameCpu s0 (State.crossBoundary a0 a1 s) := by
  unfold State.crossBoundary
  repeat' first
    | (with_reducible assumption)
    | (with_reducible apply Session.bandTrigger_cpu)
    | (with_reducible apply Session.mailBoundary_cpu)
    | (with_reducible apply State.creditTokens_cpu)
    | (with_reducible apply State.latchBoundary_cpu)
    | (with_reducible apply State.mirrorBoundary_cpu)
    | (with_reducible apply State.modSes_cpu)
    | (with_reducible apply State.prefetch_cpu)
    | (with_reducible apply State.takeControls_cpu)
    | (with_reducible apply State.takeLead_cpu)
    | (with_reducible exact SameX.refl _)
    | (simp only [SameX.same])
    | (with_reducible refine SameX.of_ite (fun _ => ?_) (fun _ => ?_))
    | (with_reducible intro _)

theorem State.stopAt_cpu {s0 s : State} {a0 : CtxNo} {a1 : Nat} (h : SameCpu s0 s) :
    SameCpu s0 (State.stopAt a0 a1 s) := by
  unfold State.stopAt
  repeat' first
    | (with_reducible assumption)
    | (with_reducible apply State.dropInput_cpu)
    | (with_reducible apply State.modSlot_cpu)

theorem State.boundary_cpu {s0 s : State} {a0 : CtxNo} (h : SameCpu s0 s) :
    SameCpu s0 (State.boundary a0 s) := by
  unfold State.boundary
  repeat' first
    | (with_reducible assumption)
    | (with_reducible apply State.crossBoundary_cpu)
    | (with_reducible apply State.snapBoundary_cpu)
    | (with_reducible apply State.stopAt_cpu)
    | (simp only [SameX.same])
    | (with_reducible refine SameCpu.of_ite (fun _ => ?_) (fun _ => ?_))
    | split

theorem State.countSeats_cpu {s0 s : State} {a0 : CtxNo} {a1 : Nat} (h : SameCpu s0 s) :
    SameCpu s0 (State.countSeats a0 a1 s) := by
  unfold State.countSeats
  repeat' first
    | (with_reducible assumption)
    | (with_reducible apply State.addCnt_cpu)
    | (simp only [SameX.same])
    | (with_reducible refine SameCpu.of_ite (fun _ => ?_) (fun _ => ?_))
    | split

theorem State.unitStarts_cpu {s0 s : State} {a0 : CtxNo} {a1 : Nat} (h : SameCpu s0 s) :
    SameCpu s0 (State.unitStarts a0 a1 s).1 := by
  unfold State.unitStarts
  repeat' first
    | (with_reducible assumption)
    | (with_reducible apply Session.triggersAt_cpu)
    | (with_reducible apply State.blitStart_cpu)
    | (with_reducible apply State.dmaStart_cpu)
    | (with_reducible apply State.modSes_cpu)
    | (with_reducible exact SameX.refl _)
    | (simp only [SameX.same])
    | (with_reducible refine SameCpu.of_pair ‹_ = (_, _)› ?_)
    | (with_reducible refine SameCpu.of_iteP (fun _ => ?_) (fun _ => ?_))
    | (with_reducible intro _)
    | split

theorem State.unitPreAt_cpu {s0 s : State} {a0 : CtxNo} {a1 : Nat} (h : SameCpu s0 s) :
    SameCpu s0 (State.unitPreAt a0 a1 s).1 := by
  unfold State.unitPreAt
  repeat' first
    | (with_reducible assumption)
    | (with_reducible apply State.modSes_cpu)
    | (with_reducible apply State.unitStarts_cpu)
    | (with_reducible exact SameX.refl _)
    | (simp only [SameX.same])
    | (with_reducible refine SameCpu.of_pair ‹_ = (_, _)› ?_)
    | (with_reducible refine SameCpu.of_iteP (fun _ => ?_) (fun _ => ?_))
    | (with_reducible intro _)
    | split

theorem State.unitLands_cpu {s0 s : State} {a0 : CtxNo} {a1 : Nat} (h : SameCpu s0 s) :
    SameCpu s0 (State.unitLands a0 a1 s).1 := by
  unfold State.unitLands
  repeat' first
    | (with_reducible assumption)
    | (with_reducible apply Session.endBlit_cpu)
    | (with_reducible apply State.blitLand_cpu)
    | (with_reducible apply State.dmaLand_cpu)
    | (with_reducible apply State.modSes_cpu)
    | (with_reducible exact SameX.refl _)
    | (simp only [SameX.same])
    | (with_reducible refine SameCpu.of_pair ‹_ = (_, _)› ?_)
    | (with_reducible refine SameCpu.of_iteP (fun _ => ?_) (fun _ => ?_))
    | (with_reducible intro _)
    | split

theorem State.unitsLoop_cpu {s0 s : State} {a0 : CtxNo} {a1 a2 : Nat} (h : SameCpu s0 s) :
    SameCpu s0 (State.unitsLoop a0 a1 a2 s) := by
  induction a2 generalizing s with
  | zero =>
    unfold State.unitsLoop
    repeat' first
      | (with_reducible assumption)
      | (with_reducible apply ih)
      | (with_reducible apply State.backOut_cpu)
      | (with_reducible apply State.modSes_cpu)
      | (with_reducible apply State.unitLands_cpu)
      | (with_reducible apply State.unitPreAt_cpu)
      | (with_reducible exact SameX.refl _)
      | (simp only [SameX.same])
      | (with_reducible refine SameCpu.of_pair ‹_ = (_, _)› ?_)
      | (with_reducible refine SameCpu.of_ite (fun _ => ?_) (fun _ => ?_))
      | (with_reducible intro _)
      | split
  | succ n ih =>
    unfold State.unitsLoop
    repeat' first
      | (with_reducible assumption)
      | (with_reducible apply ih)
      | (with_reducible apply State.backOut_cpu)
      | (with_reducible apply State.modSes_cpu)
      | (with_reducible apply State.unitLands_cpu)
      | (with_reducible apply State.unitPreAt_cpu)
      | (with_reducible exact SameX.refl _)
      | (simp only [SameX.same])
      | (with_reducible refine SameCpu.of_pair ‹_ = (_, _)› ?_)
      | (with_reducible refine SameCpu.of_ite (fun _ => ?_) (fun _ => ?_))
      | (with_reducible intro _)
      | split

theorem State.unitsTo_cpu {s0 s : State} {a0 : CtxNo} {a1 : Nat} (h : SameCpu s0 s) :
    SameCpu s0 (State.unitsTo a0 a1 s) := by
  unfold State.unitsTo
  repeat' first
    | (with_reducible assumption)
    | (with_reducible apply State.unitsLoop_cpu)
    | (with_reducible refine SameCpu.of_ite (fun _ => ?_) (fun _ => ?_))

theorem State.unitsBefore_cpu {s0 s : State} {a0 : CtxNo} {a1 : Nat} (h : SameCpu s0 s) :
    SameCpu s0 (State.unitsBefore a0 a1 s) := by
  unfold State.unitsBefore
  repeat' first
    | (with_reducible assumption)
    | (with_reducible apply State.unitPreAt_cpu)
    | (with_reducible apply State.unitsTo_cpu)
    | (simp only [SameX.same])
    | (with_reducible refine SameCpu.of_ite (fun _ => ?_) (fun _ => ?_))

theorem State.passPre_cpu {s0 s : State} {a0 : CtxNo} {a1 : Nat} (h : SameCpu s0 s) :
    SameCpu s0 (State.passPre a0 a1 s) := by
  unfold State.passPre
  repeat' first
    | (with_reducible assumption)
    | (with_reducible apply State.beamDue_cpu)
    | (with_reducible apply State.countSeats_cpu)
    | (with_reducible apply State.sesCycles_cpu)
    | (with_reducible apply State.unitsBefore_cpu)

theorem State.stand_cpu {s0 s : State} {a0 : CtxNo} (h : SameCpu s0 s) :
    SameCpu s0 (State.stand a0 s) := by
  unfold State.stand
  repeat' first
    | (with_reducible assumption)
    | (with_reducible apply State.boundary_cpu)
    | (with_reducible apply State.countFreeze_cpu)
    | (with_reducible apply State.soundDue_cpu)
    | (with_reducible apply State.unitsTo_cpu)
    | (with_reducible refine SameCpu.of_ite (fun _ => ?_) (fun _ => ?_))

theorem State.unitStore_cpu {s0 s : State} {a0 : CtxNo} {a1 : Nat} {a2 : Word} (h : SameCpu s0 s) :
    SameCpu s0 (State.unitStore a0 a1 a2 s) := by
  unfold State.unitStore
  repeat' first
    | (with_reducible assumption)
    | (with_reducible apply Session.blitStore_cpu)
    | (with_reducible apply Session.dmaStore_cpu)
    | (with_reducible apply State.modSes_cpu)
    | (with_reducible exact SameX.refl _)
    | (with_reducible refine SameX.of_ite (fun _ => ?_) (fun _ => ?_))
    | (with_reducible intro _)

theorem Session.loaded_cpu {x0 x : Session} {a0 : Nat} (h : SameX x0 x) :
    SameX x0 (Session.loaded a0 x) := by
  unfold Session.loaded
  repeat' first
    | (with_reducible assumption)
    | (with_reducible apply Session.setIo_cpu)
    | (with_reducible refine SameX.of_ite (fun _ => ?_) (fun _ => ?_))

theorem State.videoRead_cpu {s0 s : State} {a0 : CtxNo} {a1 : Nat} (h : SameCpu s0 s) :
    SameCpu s0 (State.videoRead a0 a1 s).1 := by
  unfold State.videoRead
  repeat' first
    | (with_reducible assumption)
    | (with_reducible apply Session.beamRead_cpu)
    | (with_reducible apply Session.palAdvance_cpu)
    | (with_reducible apply State.modSes_cpu)
    | (with_reducible exact SameX.refl _)
    | (simp only [SameX.same])
    | (with_reducible refine SameCpu.of_iteP (fun _ => ?_) (fun _ => ?_))
    | (with_reducible intro _)

theorem State.videoLoad_cpu {s0 s : State} {a0 : CtxNo} {a1 : Nat} (h : SameCpu s0 s) :
    SameCpu s0 (State.videoLoad a0 a1 s).1 := by
  unfold State.videoLoad
  repeat' first
    | (with_reducible assumption)
    | (with_reducible apply State.countFreeze_cpu)
    | (with_reducible apply State.lpgCatchUp_cpu)
    | (with_reducible apply State.spriteDue_cpu)
    | (with_reducible apply State.videoRead_cpu)
    | (simp only [SameX.same])
    | (with_reducible refine SameCpu.of_pair ‹_ = (_, _)› ?_)
    | (with_reducible refine SameCpu.of_iteP (fun _ => ?_) (fun _ => ?_))
    | split

theorem State.ioLoad_cpu {s0 s : State} {a0 : CtxNo} {a1 : Nat} (h : SameCpu s0 s) :
    SameCpu s0 (State.ioLoad a0 a1 s).1 := by
  unfold State.ioLoad
  repeat' first
    | (with_reducible assumption)
    | (with_reducible apply Session.loaded_cpu)
    | (with_reducible apply Session.soundLoaded_cpu)
    | (with_reducible apply State.mixFirst_cpu)
    | (with_reducible apply State.modSes_cpu)
    | (with_reducible apply State.videoLoad_cpu)
    | (with_reducible exact SameX.refl _)
    | (simp only [SameX.same])
    | (with_reducible refine SameCpu.of_pair ‹_ = (_, _)› ?_)
    | (with_reducible refine SameCpu.of_iteP (fun _ => ?_) (fun _ => ?_))
    | (with_reducible intro _)
    | split

theorem State.mailRecord_cpu {s0 s : State} {a0 : Nat} (h : SameCpu s0 s) :
    SameCpu s0 (State.mailRecord a0 s) := by
  unfold State.mailRecord
  repeat' first
    | (with_reducible assumption)
    | (with_reducible apply State.countReg_cpu)
    | (with_reducible apply State.setLevel_cpu)
    | (simp only [SameX.same])
    | (simp only [SameCpu.same])
    | (with_reducible refine SameCpu.of_ite (fun _ => ?_) (fun _ => ?_))

theorem State.mailSend_cpu {s0 s : State} {a0 : CtxNo} (h : SameCpu s0 s) :
    SameCpu s0 (State.mailSend a0 s) := by
  unfold State.mailSend
  repeat' first
    | (with_reducible assumption)
    | (with_reducible apply Session.orIo_cpu)
    | (with_reducible apply State.mailRecord_cpu)
    | (with_reducible apply State.modSes_cpu)
    | (with_reducible exact SameX.refl _)
    | (simp only [SameX.same])
    | (with_reducible refine SameCpu.of_ite (fun _ => ?_) (fun _ => ?_))
    | (with_reducible intro _)
    | split

theorem State.cWord_cpu {s0 s : State} {a0 : Cpu} {a1 : Nat} (h : SameCpu s0 s) :
    SameCpu s0 (State.cWord a0 a1 s).1 := by
  unfold State.cWord
  repeat' first
    | (with_reducible assumption)
    | (with_reducible apply State.cRead_cpu)
    | (simp only [SameX.same])
    | split

theorem State.setOwnIo_cpu {s0 s : State} {a0 : Cpu} {a1 a2 : Nat} (h : SameCpu s0 s) :
    SameCpu s0 (State.setOwnIo a0 a1 a2 s) := by
  unfold State.setOwnIo
  repeat' first
    | (with_reducible assumption)
    | (with_reducible apply Session.setIo_cpu)
    | (with_reducible apply State.modKeeper_cpu)
    | (with_reducible apply State.modSes_cpu)
    | (with_reducible exact SameX.refl _)
    | (simp only [SameX.same])
    | (with_reducible intro _)
    | split

theorem State.count32_cpu {s0 s : State} {a0 : Cpu} {a1 a2 : Nat} (h : SameCpu s0 s) :
    SameCpu s0 (State.count32 a0 a1 a2 s) := by
  unfold State.count32
  repeat' first
    | (with_reducible assumption)
    | (with_reducible apply State.setOwnIo_cpu)

theorem State.keeperTime_cpu {s0 s : State} {a0 : Fin 4} {a1 : Nat} (h : SameCpu s0 s) :
    SameCpu s0 (State.keeperTime a0 a1 s) := by
  unfold State.keeperTime
  repeat' first
    | (with_reducible assumption)
    | (with_reducible apply State.count32_cpu)
    | (with_reducible apply State.keeperCycles_cpu)

theorem State.cpuPre_cpu {s0 s : State} {a0 : Cpu} (h : SameCpu s0 s) :
    SameCpu s0 (State.cpuPre a0 s) := by
  unfold State.cpuPre
  repeat' first
    | (with_reducible assumption)
    | (with_reducible apply State.keeperTime_cpu)
    | (with_reducible apply State.passPre_cpu)
    | split

theorem State.keeperIoLoad_cpu {s0 s : State} {a0 : Fin 4} {a1 : Nat} (h : SameCpu s0 s) :
    SameCpu s0 (State.keeperIoLoad a0 a1 s).1 := by
  unfold State.keeperIoLoad
  repeat' first
    | (with_reducible assumption)
    | (with_reducible apply State.setOwnIo_cpu)
    | (simp only [SameX.same])
    | (with_reducible refine SameCpu.of_iteP (fun _ => ?_) (fun _ => ?_))

theorem State.dLoad_cpu {s0 s : State} {a0 : Cpu} {a1 : Nat} (h : SameCpu s0 s) :
    SameCpu s0 (State.dLoad a0 a1 s).1 := by
  unfold State.dLoad
  repeat' first
    | (with_reducible assumption)
    | (with_reducible apply State.dRead_cpu)
    | (with_reducible apply State.ioLoad_cpu)
    | (with_reducible apply State.keeperIoLoad_cpu)
    | (simp only [SameX.same])
    | (with_reducible refine SameCpu.of_iteP (fun _ => ?_) (fun _ => ?_))
    | split

theorem State.fetchLine_cpu {s0 s : State} {a0 : Cpu} {a1 : Nat} (h : SameCpu s0 s) :
    SameCpu s0 (State.fetchLine a0 a1 s).1 := by
  unfold State.fetchLine
  split
  · refine SameCpu.foldlP (fun z b hz => ?_) _ (SameCpu.of_ite (fun _ => h) (fun _ => State.fillAhead_cpu h))
    split
    · exact State.cRead_cpu hz
    · exact hz
  · exact h

theorem State.modInt_cpu {s0 s : State} {a0 : Cpu} {a1 : IntSt → IntSt} (h : SameCpu s0 s) :
    SameCpu s0 (State.modInt a0 a1 s) := by
  unfold State.modInt
  repeat' first
    | (with_reducible assumption)
    | (with_reducible apply State.modKeeper_cpu)
    | (with_reducible apply State.modSes_cpu)
    | (with_reducible exact SameX.refl _)
    | (simp only [SameX.same])
    | (with_reducible intro _)
    | split

theorem State.setForce_cpu {s0 s : State} {a0 : Cpu} {a1 : Nat} {a2 : Word} (h : SameCpu s0 s) :
    SameCpu s0 (State.setForce a0 a1 a2 s) := by
  unfold State.setForce
  repeat' first
    | (with_reducible assumption)
    | (with_reducible apply Session.setForce_cpu)
    | (with_reducible apply State.modKeeper_cpu)
    | (with_reducible apply State.modSes_cpu)
    | (with_reducible exact SameX.refl _)
    | (simp only [SameX.same])
    | (with_reducible intro _)
    | split

theorem State.spendFast_cpu {s0 s : State} {a0 : Cpu} (h : SameCpu s0 s) :
    SameCpu s0 (State.spendFast a0 s) := by
  unfold State.spendFast
  repeat' first
    | (with_reducible assumption)
    | (with_reducible apply State.spend_cpu)
    | (with_reducible refine SameCpu.of_ite (fun _ => ?_) (fun _ => ?_))

theorem State.sLoad_cpu {s0 s : State} {a0 : CtxNo} {a1 : Nat} (h : SameCpu s0 s) :
    SameCpu s0 (State.sLoad a0 a1 s).1 := by
  unfold State.sLoad
  repeat' first
    | (with_reducible assumption)
    | (with_reducible apply State.mixFirst_cpu)
    | (with_reducible apply State.sRead_cpu)
    | (with_reducible apply State.thawed_cpu)
    | (simp only [SameX.same])
    | (with_reducible refine SameCpu.of_pair ‹_ = (_, _)› ?_)
    | (with_reducible refine SameCpu.of_iteP (fun _ => ?_) (fun _ => ?_))
    | split

theorem State.vLoad_cpu {s0 s : State} {a0 : CtxNo} {a1 : Nat} (h : SameCpu s0 s) :
    SameCpu s0 (State.vLoad a0 a1 s).1 := by
  unfold State.vLoad
  repeat' first
    | (with_reducible assumption)
    | (with_reducible apply State.thawed_cpu)
    | (with_reducible apply State.vRead_cpu)

theorem State.memLoad_cpu {s0 s : State} {a0 : Cpu} {a1 : MemSpace} {a2 : Nat} (h : SameCpu s0 s) :
    SameCpu s0 (State.memLoad a0 a1 a2 s).1 := by
  unfold State.memLoad
  repeat' first
    | (with_reducible assumption)
    | (with_reducible apply State.cWord_cpu)
    | (with_reducible apply State.dLoad_cpu)
    | (with_reducible apply State.sLoad_cpu)
    | (with_reducible apply State.vLoad_cpu)
    | split

theorem State.storeWait_cpu {s0 s : State} {a0 : CtxNo} {a1 : Nat} {a3 : State × Bool} (h : SameCpu s0 s) (h3 : SameCpu s0 a3.1) :
    SameCpu s0 (State.storeWait a0 a1 s a3).1 := by
  unfold State.storeWait
  repeat' first
    | (with_reducible assumption)
    | (with_reducible apply State.countFreeze_cpu)
    | (with_reducible apply State.thawed_cpu)
    | (simp only [SameX.same])
    | (with_reducible refine SameCpu.of_ite (fun _ => ?_) (fun _ => ?_))

theorem State.sStore_cpu {s0 s : State} {a0 : CtxNo} {a1 : Nat} {a2 : Word} (h : SameCpu s0 s) :
    SameCpu s0 (State.sStore a0 a1 a2 s).1 := by
  unfold State.sStore
  repeat' first
    | (with_reducible assumption)
    | (with_reducible apply State.sWrite_cpu)
    | (with_reducible apply State.storeWait_cpu)

theorem State.vStore_cpu {s0 s : State} {a0 : CtxNo} {a1 : Nat} {a2 : Word} (h : SameCpu s0 s) :
    SameCpu s0 (State.vStore a0 a1 a2 s).1 := by
  unfold State.vStore
  repeat' first
    | (with_reducible assumption)
    | (with_reducible apply State.storeWait_cpu)
    | (with_reducible apply State.vWrite_cpu)

theorem State.clearEarly_cpu {s0 s : State} {a0 : Cpu} {a1 : MemSpace} {a2 : List (Nat × Word)} (h : SameCpu s0 s) :
    SameCpu s0 (State.clearEarly a0 a1 a2 s) := by
  unfold State.clearEarly
  repeat' first
    | (with_reducible assumption)
    | (with_reducible apply State.modInt_cpu)
    | (with_reducible refine SameCpu.foldl (fun _ _ _ => ?_) _ ?_)
    | (with_reducible refine SameCpu.of_ite (fun _ => ?_) (fun _ => ?_))

theorem State.lenAt_cpu {s0 s : State} {a0 : Cpu} {a1 : Word} (h : SameCpu s0 s) :
    SameCpu s0 (State.lenAt a0 a1 s).1 := by
  unfold State.lenAt
  repeat' first
    | (with_reducible assumption)
    | (with_reducible apply State.cWord_cpu)
    | (simp only [SameX.same])
    | (with_reducible refine SameCpu.of_iteP (fun _ => ?_) (fun _ => ?_))

theorem State.loadWords_cpu {s0 s : State} {a0 : Cpu} {a1 : List Nat} (h : SameCpu s0 s) :
    SameCpu s0 (State.loadWords a0 a1 s).1 := by
  induction a1 generalizing s with
  | nil =>
    unfold State.loadWords
    repeat' first
      | (with_reducible assumption)
      | (with_reducible apply ih)
      | (with_reducible apply State.dLoad_cpu)
      | (simp only [SameX.same])
      | (with_reducible refine SameCpu.of_pair ‹_ = (_, _)› ?_)
      | split
  | cons e l ih =>
    unfold State.loadWords
    repeat' first
      | (with_reducible assumption)
      | (with_reducible apply ih)
      | (with_reducible apply State.dLoad_cpu)
      | (simp only [SameX.same])
      | (with_reducible refine SameCpu.of_pair ‹_ = (_, _)› ?_)
      | split

end Sys2Proof.Machine
end

