-- ==== Sys2Proof/Laws/Run.lean ====
section
/-! SUPPORT. What one instruction of a processor does when it runs to its end: the passing of its cycles keeps every
register, and completing it moves the program counter. -/

namespace Sys2Proof.Machine

open Sys2Proof

variable {s t : State} {p q : Cpu}

theorem State.ses_modSes (c c' : CtxNo) (f : Session → Session) (s : State) :
    (s.modSes c f).ses c' = if c' = c then (s.ses c).map f else s.ses c' := by
  unfold State.modSes State.modCtx State.ses
  rw [State.ctx_setCtx]
  split <;> rfl

theorem State.keeper_modKeeper (k k' : Fin 4) (f : Keeper → Keeper) (s : State) :
    (s.modKeeper k f).keeper k' = if k' = k then f (s.keeper k) else s.keeper k' := by
  unfold State.modKeeper State.setKeeper State.keeper
  simp only [Vector.getElem_set]
  by_cases h : k' = k
  · simp [h]
  · have : k.val ≠ k'.val := fun e => h (Fin.ext e.symm)
    simp [h, this]

theorem State.keeper_modSes (c : CtxNo) (k : Fin 4) (f : Session → Session) (s : State) :
    (s.modSes c f).keeper k = s.keeper k := rfl

theorem State.ses_modKeeper (c : CtxNo) (k : Fin 4) (f : Keeper → Keeper) (s : State) :
    (s.modKeeper k f).ses c = s.ses c := rfl

/-- A processor after an update of one that the state holds. -/
theorem State.cpu_modCpu (f : CpuState → CpuState) (h : s.has p) :
    (s.modCpu p f).cpu q = if q = p then f (s.cpu p) else s.cpu q := by
  cases p with
  | session c =>
    obtain ⟨x, hx⟩ := Option.isSome_iff_exists.mp h
    cases q with
    | session c' =>
      simp only [State.modCpu, State.cpu, State.sesD, State.ses_modSes]
      by_cases e : c' = c
      · subst e; simp [hx]
      · have : (Cpu.session c') ≠ .session c := by simpa using e
        simp [e]
    | keeper k => simp [State.modCpu, State.cpu, State.keeper_modSes]
  | keeper k =>
    cases q with
    | session c => simp [State.modCpu, State.cpu, State.sesD, State.ses_modKeeper]
    | keeper k' =>
      simp only [State.modCpu, State.cpu, State.keeper_modKeeper]
      by_cases e : k' = k
      · subst e; simp
      · have : (Cpu.keeper k') ≠ .keeper k := by simpa using e
        simp [e]

theorem State.has_modCpu (f : CpuState → CpuState) : (s.modCpu p f).has q ↔ s.has q := by
  cases q with
  | keeper k => exact Iff.rfl
  | session c =>
    cases p with
    | keeper k => exact Iff.rfl
    | session c' =>
      simp only [State.has, State.modCpu, State.ses_modSes]
      by_cases e : c = c' <;> simp [e]

/-- The memory of the state after an update of a processor. -/
@[simp] theorem State.mem_modCpu (f : CpuState → CpuState) : (s.modCpu p f).mem = s.mem := by
  cases p <;> rfl

theorem SameCpu.has (h : SameCpu s t) (w : s.noneWaits) : t.has p ↔ s.has p := by
  cases p with
  | keeper k => exact Iff.rfl
  | session c =>
    have e := congrArg Option.isSome (h.ses w c)
    simpa [State.has] using e

/-- A processor that may issue exists, and neither waits nor has halted. -/
theorem State.mayIssue_has (h : s.mayIssue p = true) : s.has p := by
  cases p with
  | keeper k => trivial
  | session c =>
    unfold State.has
    cases e : s.ses c with
    | none => simp [State.mayIssue, State.active, State.runs, State.live, State.inHorizon, State.sesD, e] at h
    | some x => simp [e]

theorem State.mayIssue_active (h : s.mayIssue p = true) : s.active p = true := by
  simp only [State.mayIssue, Bool.and_eq_true] at h
  exact h.1.1.1

theorem State.mayIssue_waiting (h : s.mayIssue p = true) : (s.cpu p).waiting = false := by
  simp only [State.mayIssue, Bool.and_eq_true, Bool.not_eq_true'] at h
  exact h.1.2

theorem State.mayIssue_seq (h : s.mayIssue p = true) : (s.cpu p).seq = none := by
  simp only [State.mayIssue, Bool.and_eq_true] at h
  exact Option.isNone_iff_eq_none.mp h.1.1.2

theorem State.Issues.has {n : Nat} (h : s.Issues p n) : s.has p := State.mayIssue_has h.issues

/-- A session whose virtual time runs stands at nothing. -/
theorem State.stand_runs {c : CtxNo} (h : s.runs c = true) : s.stand c = s := by
  have h1 : s.boundaryDue c = false ∧ s.sesD c false (·.soundHolds) = false ∧ s.sesD c false (·.unitHolds) = false := by
    simp only [State.runs, Bool.and_eq_true, Bool.not_eq_true'] at h
    refine ⟨h.1.2, ?_⟩
    have h2 := h.2
    unfold State.sesD at *
    cases e : s.ses c with
    | none => exact ⟨rfl, rfl⟩
    | some x =>
      rw [e] at h2
      simpa [Bool.or_eq_false_iff] using h2
  unfold State.stand
  rw [h1.2.1]
  simp only [Bool.false_eq_true, if_false, h1.2.2]
  unfold State.boundary
  simp only [h1.1, Bool.false_eq_true, if_false]
  cases s.heldSlot c <;> rfl

/-- An active processor is poised as it is. -/
theorem State.poised_active (h : s.active p = true) : s.poised p = (s, true) := by
  cases p with
  | keeper k => rfl
  | session c =>
    have hr : s.runs c = true := by
      simp only [State.active, Bool.and_eq_true] at h
      exact h.2
    unfold State.poised
    dsimp only
    rw [State.stand_runs hr, hr]

/-! ### Time passes -/

/-- What holds where nothing waits. -/
theorem SameCpu.under {s0 : State} (h : s0.noneWaits → SameCpu s0 t) : SameCpu s0 t :=
  ⟨fun w => (h w).waits w, fun w => (h w).ses w, fun w => (h w).keeper w⟩

/-- The session of a context is changed beside its processor. -/
theorem State.modSesAt_cpu {s0 : State} {c : CtxNo} {f : Session → Session} (hf : ∀ x, s.ses c = some x → SameX x (f x))
    (h : SameCpu s0 s) : SameCpu s0 (s.modSes c f) := by
  refine State.setCtx_cpu ?_ h
  show ((s.ses c).map f).map (fun x => x.cpu.core) = (s.ses c).map (fun x => x.cpu.core)
  cases e : s.ses c with
  | none => rfl
  | some x => exact congrArg some (hf x e)

theorem CpuState.wakes_core {u : CpuState} {i : IntSt} (h : u.waiting = false) : (u.wakes i).core = u.core := by
  unfold CpuState.wakes
  split
  · cases u
    simp only at h
    simp [CpuState.core, h]
  · rfl

/-- A session that does not wait is not woken. -/
theorem State.wakes_cpu {s0 : State} {c : CtxNo} (hw : (s0.cpu (.session c)).waiting = false) (h : SameCpu s0 s) :
    SameCpu s0 (s.modSes c (fun x => { x with cpu := x.cpu.wakes x.int })) := by
  refine SameCpu.under fun w => State.modSesAt_cpu (fun x e => CpuState.wakes_core ?_) h
  have hc := congrArg CpuState.waiting (h.cpu w (.session c))
  simp only [State.cpu, State.sesD, e] at hc
  exact hc.trans hw

theorem State.passPost_cpu {s0 : State} {c : CtxNo} (hw : (s0.cpu (.session c)).waiting = false) (h : SameCpu s0 s) :
    SameCpu s0 (s.passPost c) := State.wakes_cpu hw (State.soundDue_cpu (State.unitsTo_cpu h))

theorem State.passWhile_cpu {s0 : State} {c : CtxNo} {go : State → Bool} (hw : (s0.cpu (.session c)).waiting = false) (fuel : Nat) :
    ∀ {n : Nat} {s : State}, SameCpu s0 s → SameCpu s0 (s.passWhile c go fuel n) := by
  induction fuel with
  | zero => intro n s h; exact h
  | succ fuel ih =>
    intro n s h
    unfold State.passWhile
    have h1 := State.stand_cpu (a0 := c) h
    refine SameCpu.of_ite (fun _ => h) (fun _ => ?_)
    dsimp only
    refine SameCpu.of_ite (fun _ => ?_) (fun _ => h1)
    exact ih (State.passPost_cpu hw (State.passPre_cpu h1))

theorem State.cpuUntil_cpu {s0 : State} {n : Nat} (hw : (s0.cpu p).waiting = false) (h : SameCpu s0 s) :
    SameCpu s0 (s.cpuUntil p n).1 := by
  cases p with
  | session c => exact State.passWhile_cpu hw _ h
  | keeper k => exact State.keeperTime_cpu h

theorem State.poised_cpu {s0 : State} (h : SameCpu s0 s) : SameCpu s0 (s.poised p).1 := by
  cases p with
  | session c => exact State.stand_cpu h
  | keeper k => exact h

theorem State.cpuPost_cpu {s0 : State} (hw : (s0.cpu p).waiting = false) (h : SameCpu s0 s) : SameCpu s0 (s.cpuPost p) := by
  cases p with
  | session c => exact State.passPost_cpu hw h
  | keeper k => exact h

/-! ### A processor's own updates keep every other processor -/

theorem SameCpu.hasIff {s0 : State} (h : SameCpu s0 s) (w : s0.noneWaits) (e : s0.has p) : s.has p := (h.has w).mpr e

theorem State.noneWaits_modCpu {f : CpuState → CpuState} : (s.modCpu p f).noneWaits ↔ s.noneWaits := by
  cases p <;> exact Iff.rfl

/-! ### The mode-change distance (R126) -/

/-- What a mode-change write leaves of the registers that are not its own. -/
structure CpuState.SameRegs (u v : CpuState) : Prop where
  w : v.w = u.w
  x : v.x = u.x
  seg : v.seg = u.seg
  st : v.st = u.st
  pc : v.pc = u.pc
  slot : v.slot = u.slot
  loadOld : v.loadOld = u.loadOld
  shadow : v.shadow = u.shadow
  waiting : v.waiting = u.waiting
  halted : v.halted = u.halted
  issued : v.issued = u.issued
  seq : v.seq = u.seq
  modePend : v.modePend = u.modePend

theorem CpuState.SameRegs.refl (u : CpuState) : u.SameRegs u :=
  ⟨rfl, rfl, rfl, rfl, rfl, rfl, rfl, rfl, rfl, rfl, rfl, rfl, rfl⟩

theorem CpuState.SameRegs.trans {u v z : CpuState} (h : u.SameRegs v) (k : v.SameRegs z) : u.SameRegs z :=
  ⟨k.w.trans h.w, k.x.trans h.x, k.seg.trans h.seg, k.st.trans h.st, k.pc.trans h.pc, k.slot.trans h.slot,
    k.loadOld.trans h.loadOld, k.shadow.trans h.shadow, k.waiting.trans h.waiting, k.halted.trans h.halted,
    k.issued.trans h.issued, k.seq.trans h.seq, k.modePend.trans h.modePend⟩

theorem CpuState.SameRegs.of_core {u v : CpuState} (h : v.core = u.core) : u.SameRegs v :=
  have k {α : Type} (f : CpuState → α) : f v.core = f u.core := congrArg f h
  ⟨k (·.w), k (·.x), k (·.seg), k (·.st), k (·.pc), k (·.slot), k (·.loadOld), k (·.shadow), k (·.waiting), k (·.halted),
    k (·.issued), k (·.seq), k (·.modePend)⟩

theorem CpuState.modes_of_core {u v : CpuState} (h : v.core = u.core) : v.yz = u.yz ∧ v.il = u.il ∧ v.ie = u.ie :=
  have k {α : Type} (f : CpuState → α) : f v.core = f u.core := congrArg f h
  ⟨k (·.yz), k (·.il), k (·.ie)⟩

/-- What an operation on one processor leaves: its registers, the others, memory, and whether the processor exists. -/
structure Steps (p : Cpu) (s t : State) : Prop where
  own : (s.cpu p).SameRegs (t.cpu p)
  others : ∀ q, q ≠ p → (t.cpu q).core = (s.cpu q).core
  mem : t.mem = s.mem
  has : s.has p → t.has p

theorem Steps.refl (p : Cpu) (s : State) : Steps p s s := ⟨.refl _, fun _ _ => rfl, rfl, id⟩
theorem Steps.trans {a b c : State} (h : Steps p a b) (k : Steps p b c) : Steps p a c :=
  ⟨h.own.trans k.own, fun q e => (k.others q e).trans (h.others q e), k.mem.trans h.mem, k.has ∘ h.has⟩

theorem State.setForce_steps {a : Nat} {v : Word} (e : s.has p) : Steps p s (s.setForce p a v) := by
  cases p with
  | session c =>
    refine ⟨CpuState.SameRegs.of_core ?_, fun q h => ?_, rfl, fun h => ?_⟩
    · simp only [State.cpu, State.setForce, State.sesD, State.ses_modSes, if_true]
      cases s.ses c <;> rfl
    · cases q with
      | session c' =>
        have : c' ≠ c := fun e => h (by rw [e])
        simp [State.cpu, State.setForce, State.sesD, State.ses_modSes, this]
      | keeper k => rfl
    · simpa [State.has, State.setForce, State.ses_modSes] using h
  | keeper k =>
    refine ⟨CpuState.SameRegs.of_core ?_, fun q h => ?_, rfl, id⟩
    · simp [State.cpu, State.setForce, State.keeper_modKeeper, CpuState.core]
    · cases q with
      | session c => rfl
      | keeper k' =>
        have : k' ≠ k := fun e => h (by rw [e])
        simp [State.cpu, State.setForce, State.keeper_modKeeper, this]

theorem State.applyMode_steps {m : ModeTarget} (e : s.has p) : Steps p s (s.applyMode p m) := by
  have h : ∀ f : CpuState → CpuState, (∀ u : CpuState, u.SameRegs (f u)) → Steps p s (s.modCpu p f) := fun f hf => by
    refine ⟨?_, fun q hq => ?_, State.mem_modCpu _, fun z => (State.has_modCpu f).mpr z⟩
    · rw [State.cpu_modCpu f e, if_pos rfl]; exact hf _
    · rw [State.cpu_modCpu f e, if_neg hq]
  cases m with
  | yz b => exact h (fun u => { u with yz := b }) fun u => ⟨rfl, rfl, rfl, rfl, rfl, rfl, rfl, rfl, rfl, rfl, rfl, rfl, rfl⟩
  | il l => exact h (fun u => { u with il := l }) fun u => ⟨rfl, rfl, rfl, rfl, rfl, rfl, rfl, rfl, rfl, rfl, rfl, rfl, rfl⟩
  | ie b => exact h (fun u => { u with ie := b }) fun u => ⟨rfl, rfl, rfl, rfl, rfl, rfl, rfl, rfl, rfl, rfl, rfl, rfl, rfl⟩
  | io a v => exact State.setForce_steps e

theorem State.applyModes_steps (l : List ModeWrite) : ∀ {s : State}, s.has p →
    Steps p s (l.foldl (fun (s : State) m => s.applyMode p m.target) s) := by
  induction l with
  | nil => intro s _; exact Steps.refl p s
  | cons m l ih =>
    intro s e
    have h := State.applyMode_steps (m := m.target) e
    exact h.trans (ih (h.has e))

theorem SameCpu.steps (h : SameCpu s t) (w : s.noneWaits) (m : t.mem = s.mem) : Steps p s t :=
  ⟨CpuState.SameRegs.of_core (h.cpu w p), fun q _ => h.cpu w q, m, (h.has w).mpr⟩

theorem State.count32_steps {a n : Nat} (w : s.noneWaits) : Steps p s (s.count32 p a n) := by
  refine SameCpu.steps (State.count32_cpu (SameCpu.refl s)) w ?_
  cases p <;> rfl

theorem State.stepModes_eq (s : State) : s.stepModes p =
    ((((s.cpu p).modePend.map (fun m => { m with left := m.left - 1 })).filter (fun m => m.left == 0)).foldl
      (fun (s : State) m => s.applyMode p m.target)
      (s.modCpu p (fun u => { u with modePend :=
        ((s.cpu p).modePend.map (fun m => { m with left := m.left - 1 })).filter (fun m => m.left != 0) }))) := rfl

/-- The processor after an instruction completes, and what else stays. -/
theorem State.commit_retires (o : Op) (issue : Nat) (e : s.has p) (w : s.noneWaits) (hq : (s.cpu p).seq = none) :
    s.Retires (s.commit p o issue) p o.len { (s.cpu p) with slot := o.transfer, shadow := o.isLoad } ∧
      (s.commit p o issue).mem = s.mem := by
  unfold State.commit
  have key : ∀ a : State, a.has p → a.noneWaits → a.mem = s.mem → (∀ q, q ≠ p → a.cpu q = s.cpu q) →
      (∃ q, a.cpu p = { (s.cpu p) with prev := q }) →
      s.Retires (((a.modCpu p (·.retire o issue)).count32 p 0xFE30 1).stepModes p) p o.len
        { (s.cpu p) with slot := o.transfer, shadow := o.isLoad } ∧
      (((a.modCpu p (·.retire o issue)).count32 p 0xFE30 1).stepModes p).mem = s.mem := by
    intro a ea wa ma oa ca
    obtain ⟨q0, ca⟩ := ca
    have h1 : (a.modCpu p (·.retire o issue)).cpu p = CpuState.retire o issue { (s.cpu p) with prev := q0 } := by
      rw [State.cpu_modCpu _ ea, if_pos rfl, ca]
    have h1o : ∀ q, q ≠ p → ((a.modCpu p (·.retire o issue)).cpu q) = s.cpu q := fun q hq => by
      rw [State.cpu_modCpu _ ea, if_neg hq, oa q hq]
    have e1 : (a.modCpu p (·.retire o issue)).has p := (State.has_modCpu _).mpr ea
    have w1 : (a.modCpu p (·.retire o issue)).noneWaits := State.noneWaits_modCpu.mpr wa
    have m1 : (a.modCpu p (·.retire o issue)).mem = s.mem := (State.mem_modCpu _).trans ma
    generalize a.modCpu p (·.retire o issue) = a at *
    have h2 := State.count32_cpu (a0 := p) (a1 := 0xFE30) (a2 := 1) (SameCpu.refl a)
    have m2 : (a.count32 p 0xFE30 1).mem = a.mem := by cases p <;> rfl
    have c2 := h2.cpu w1
    have e2 := (h2.has (p := p) w1).mpr e1
    generalize a.count32 p 0xFE30 1 = b at *
    rw [State.stepModes_eq]
    set l := (b.cpu p).modePend.map (fun m => { m with left := m.left - 1 }) with hl
    have h3 : (b.modCpu p (fun u => { u with modePend := l.filter (fun m => m.left != 0) })).cpu p =
        { (b.cpu p) with modePend := l.filter (fun m => m.left != 0) } := by rw [State.cpu_modCpu _ e2, if_pos rfl]
    have h3o : ∀ q, q ≠ p → ((b.modCpu p (fun u => { u with modePend := l.filter (fun m => m.left != 0) })).cpu q) = b.cpu q :=
      fun q hq => by rw [State.cpu_modCpu _ e2, if_neg hq]
    have e3 : (b.modCpu p (fun u => { u with modePend := l.filter (fun m => m.left != 0) })).has p :=
      (State.has_modCpu _).mpr e2
    have m3 : (b.modCpu p (fun u => { u with modePend := l.filter (fun m => m.left != 0) })).mem = b.mem := State.mem_modCpu _
    generalize b.modCpu p (fun u => { u with modePend := l.filter (fun m => m.left != 0) }) = d at *
    have h4 := State.applyModes_steps (p := p) (l.filter (fun m => m.left == 0)) e3
    have hb := CpuState.SameRegs.of_core (c2 p)
    have hbm := CpuState.modes_of_core (c2 p)
    rw [h1] at hb hbm
    have k := h4.own
    rw [h3] at k
    refine ⟨⟨⟨k.w.trans hb.w, k.x.trans hb.x, k.seg.trans hb.seg, k.st.trans hb.st, k.pc.trans hb.pc, k.slot.trans hb.slot,
      k.loadOld.trans hb.loadOld, k.shadow.trans hb.shadow, k.waiting.trans hb.waiting, k.halted.trans hb.halted, ?_, ?_⟩, ?_, ?_⟩,
      by rw [h4.mem, m3, m2, m1]⟩
    · unfold CpuState.between
      rw [k.issued.trans hb.issued, k.seq.trans hb.seq]
      show ((none : Option Issued).isNone && (s.cpu p).seq.isNone) = true
      rw [hq]
      rfl
    · intro q hq'
      refine (h4.others q hq').trans ?_
      rw [h3o q hq', c2 q, h1o q hq']
    · refine k.modePend.trans ?_
      rw [hl, hb.modePend]; rfl
    · intro hm
      have hnil : l.filter (fun m => m.left == 0) = [] := by
        rw [List.filter_eq_nil_iff]
        intro m hm'
        rw [hl, hb.modePend, List.mem_map] at hm'
        obtain ⟨m0, h0, rfl⟩ := hm'
        have := hm m0 h0
        simp; omega
      rw [hnil, List.foldl_nil, h3]
      exact hbm
  dsimp only
  split
  · refine key _ ((State.has_modCpu _).mpr e) (State.noneWaits_modCpu.mpr w) (State.mem_modCpu _)
      (fun q hq' => by rw [State.cpu_modCpu _ e, if_neg hq']) ⟨(s.cpu p).firstOf o issue, ?_⟩
    rw [State.cpu_modCpu _ e, if_pos rfl]
  · exact key s e w rfl (fun _ _ => rfl) ⟨_, rfl⟩

/-! ### Issue -/

theorem CpuState.foldMax_le (f : ScoreTarget × Nat → Nat) (g : ScoreTarget × Nat → Bool) (l : List (ScoreTarget × Nat)) :
    ∀ a b, a ≤ b → (l.filter g).foldl (fun m e => max m (f e)) a ≤ l.foldl (fun m e => max m (f e)) b := by
  induction l with
  | nil => intro a b h; exact h
  | cons e l ih =>
    intro a b h
    rw [List.foldl_cons, List.filter_cons]
    split
    · rw [List.foldl_cons]; exact ih _ _ (by omega)
    · exact ih _ _ (by omega)

theorem CpuState.waitFor_le {u : CpuState} {o : Op} (h : o.stall ≤ u.farWait (fun _ => true)) : u.waitFor o ≤ u.longest :=
  CpuState.foldMax_le _ _ _ _ _ h

/-- A cycle of an instruction in which `act` is done, from the state it is done in. -/
theorem State.atCycle_eq {o : Op} {n : Nat} {early : State → State} {act : State → State × Bool} {i : Issued} {c z : State}
    (h : s.inCount p o n early i = some c) (ha : act c = (z, true)) :
    s.atCycle p o n early act i = (if o.isLoad || o.sees then z else z.cpuPost p, true) := by
  unfold State.inCount at h
  unfold State.atCycle State.inCycle
  split at h
  · cases h
  · rename_i s1 he
    try rw [he]
    dsimp only
    split at h
    · cases h
    · rename_i s2 hp
      try rw [hp]
      dsimp only at h ⊢
      generalize (if o.isLoad || o.sees then ((early s2).cpuPre p).cpuPost p else (early s2).cpuPre p) = s4 at *
      split at h
      · cases h
      · rename_i hl
        rw [Option.some.inj h] at hl ⊢
        rw [if_neg hl, ha]

/-- The last cycle of an instruction whose effect is made. -/
theorem State.lastCycle_eq {o : Op} {i : Issued} {b z : State} (h : s.lastState p o i = some b) (ho : o.effect b = (z, true)) :
    ∃ post : Bool, s.lastCycleOf p o i = (if post then (z.commit p { o with transfer := o.transfer.map (o.resolve b) } i.first).cpuPost p
      else z.commit p { o with transfer := o.transfer.map (o.resolve b) } i.first) := by
  have hf : ∀ c : State, c.modCpu p (fun u => { u with loadOld := [] }) = b →
      c.finishOp p o i.first = (z.commit p { o with transfer := o.transfer.map (o.resolve b) } i.first, true) := by
    intro c hc
    unfold State.finishOp
    dsimp only
    rw [hc, ho]
  unfold State.lastState at h
  obtain ⟨c, h, hc⟩ := Option.map_eq_some_iff.mp h
  unfold State.lastCycleOf
  split at h
  · rename_i hp
    split at h
    · cases h
    · rename_i hl
      cases h
      refine ⟨false, ?_⟩
      rw [if_pos hp, if_neg hl, hf _ hc]
      rfl
  · rename_i hp
    refine ⟨!(o.isLoad || o.sees), ?_⟩
    rw [if_neg hp, State.atCycle_eq h (hf c hc)]
    dsimp only
    cases o.isLoad || o.sees <;> rfl

/-- An instruction that comes to its effect: the effect is made on `b`, then the instruction completes. -/
theorem State.run_ready {o : Op} {b z : State} (h : s.ReadyFor p o b) (ho : o.effect b = (z, true)) :
    ∃ (post : Bool) (issue : Nat), s.run p o =
      (if post then (z.commit p { o with transfer := o.transfer.map (o.resolve b) } issue).cpuPost p
      else z.commit p { o with transfer := o.transfer.map (o.resolve b) } issue) := by
  have hfl := State.fetchLine_cpu (a0 := p) (a1 := o.len) (SameCpu.refl s)
  have hu := CpuState.SameRegs.of_core (hfl.cpu h.quiet p)
  have hrun : s.run p o = (s.fetchLine p o.len).1.issue p o := by
    unfold State.run
    rw [State.poised_active (State.mayIssue_active h.issues)]
    dsimp only
    rw [State.mayIssue_seq h.issues, h.issues, h.words, h.first]
    have hl : s.fetchLine p o.len = ((s.fetchLine p o.len).1, true) := Prod.ext rfl h.line
    rw [hl]
    dsimp only
    have hc : (s.fetchLine p o.len).1.asEncoded p o = o := by unfold State.asEncoded; rw [h.coded]; rfl
    rw [hc]
    cases hs : (s.cpu p).slot with
    | none => simp only [Option.isSome_none, Bool.and_false, Bool.false_eq_true, if_false, Bool.not_true]
    | some d => simp only [h.kept d hs, Option.isSome_none, Bool.and_false, Bool.false_eq_true, if_false, Bool.not_true]
  have hc := h.comes
  unfold State.effectState at hc
  rw [hrun]
  unfold State.issue State.begins at *
  generalize (s.fetchLine p o.len).1 = f at *
  have hfault : (f.cpu p).faultOf o = none := by
    rw [← h.sound]
    unfold CpuState.faultOf
    rw [hu.slot]
  have hi : (f.cpu p).issued = none := hu.issued.trans h.first
  have hhalf : (f.issueOf p o).half = none := by
    unfold State.issueOf
    dsimp only
    rw [hfault]
    dsimp only
    split <;> rfl
  rw [hi]
  dsimp only [Option.getD, Option.isNone]
  rw [hfault]
  dsimp only [if_true] at hc ⊢
  unfold State.goOn
  rw [hhalf]
  generalize f.issueOf p o = i at *
  cases hm : o.mid with
  | none =>
    rw [hm] at hc
    dsimp only at hc ⊢
    obtain ⟨post, hq⟩ := State.lastCycle_eq hc ho
    exact ⟨post, i.first, hq⟩
  | some m =>
    obtain ⟨n, early, act⟩ := m
    rw [hm] at hc
    dsimp only at hc ⊢
    obtain ⟨c, hc1, hc2⟩ := Option.bind_eq_some_iff.mp hc
    split at hc2
    · rename_i h1 ha
      obtain ⟨post, hq⟩ := State.lastCycle_eq hc2 ho
      rw [if_pos rfl, State.atCycle_eq hc1 ha]
      exact ⟨post, _, hq⟩
    · cases hc2

/-! ### What the cycles of an instruction leave -/

theorem State.inCount_cpu {s0 b : State} {o : Op} {n : Nat} {early : State → State} {i : Issued}
    (hw : (s0.cpu p).waiting = false) (he : ∀ z, SameCpu s0 z → SameCpu s0 (early z)) (h : SameCpu s0 s)
    (e : s.inCount p o n early i = some b) : SameCpu s0 b := by
  unfold State.inCount at e
  split at e
  · cases e
  · rename_i s1 hs
    have h1 : SameCpu s0 s1 := SameCpu.of_pair hs (State.cpuUntil_cpu hw h)
    split at e
    · cases e
    · rename_i s2 hp
      have h2 : SameCpu s0 s2 := SameCpu.of_pair hp (State.poised_cpu h1)
      have h3 := State.cpuPre_cpu (a0 := p) (he _ h2)
      have h4 : SameCpu s0 (if o.isLoad || o.sees then ((early s2).cpuPre p).cpuPost p else (early s2).cpuPre p) :=
        SameCpu.of_ite (fun _ => State.cpuPost_cpu hw h3) (fun _ => h3)
      dsimp only at e
      generalize (if o.isLoad || o.sees then ((early s2).cpuPre p).cpuPost p else (early s2).cpuPre p) = s4 at *
      split at e
      · cases e
      · rw [← Option.some.inj e]; exact h4

theorem State.lastState_cpu {s0 b : State} {o : Op} {i : Issued} (hw : (s0.cpu p).waiting = false)
    (he : ∀ z, SameCpu s0 z → SameCpu s0 (o.early z)) (h : SameCpu s0 s) (e : s.lastState p o i = some b) :
    ∃ c, SameCpu s0 c ∧ b = c.modCpu p (fun u => { u with loadOld := [] }) := by
  unfold State.lastState at e
  obtain ⟨c, e, hc⟩ := Option.map_eq_some_iff.mp e
  refine ⟨c, ?_, hc.symm⟩
  split at e
  · split at e
    · cases e
    · rw [← Option.some.inj e]; exact he _ h
  · exact State.inCount_cpu hw he h e

/-- What the passing of an instruction's cycles leaves of the processors. -/
structure State.Comes (s : State) (p : Cpu) (b : State) : Prop where
  own : (b.cpu p).core = { (s.cpu p).core with loadOld := [] }
  others : ∀ q, q ≠ p → (b.cpu q).core = (s.cpu q).core
  has : b.has p
  waits : b.noneWaits
  seq : (b.cpu p).seq = none

theorem State.ReadyFor.comesTo {o : Op} {b : State} (h : s.ReadyFor p o b) (hm : o.mid = none)
    (he : ∀ z, SameCpu s z → SameCpu s (o.early z)) : s.Comes p b := by
  have hc := h.comes
  unfold State.effectState at hc
  rw [hm] at hc
  obtain ⟨c, hs, rfl⟩ := State.lastState_cpu (State.mayIssue_waiting h.issues) he
    (State.spendFast_cpu (a0 := p) (State.fetchLine_cpu (a0 := p) (SameCpu.refl s))) hc
  have ec := (hs.has (p := p) h.quiet).mpr h.has
  have hk := hs.cpu h.quiet p
  refine ⟨?_, fun q hq => ?_, (State.has_modCpu _).mpr ec, State.noneWaits_modCpu.mpr (hs.waits h.quiet), ?_⟩
  · rw [State.cpu_modCpu _ ec, if_pos rfl]
    exact congrArg (fun u : CpuState => { u with loadOld := [] }) hk
  · rw [State.cpu_modCpu _ ec, if_neg hq]
    exact hs.cpu h.quiet q
  · rw [State.cpu_modCpu _ ec, if_pos rfl]
    exact (CpuState.SameRegs.of_core hk).seq.trans (State.mayIssue_seq h.issues)

/-- The cycles of a Keeper's instruction change no byte of memory. -/
theorem State.inCount_mem {b : State} {o : Op} {n : Nat} {early : State → State} {i : Issued} {c : Fin 4}
    (he : ∀ z : State, (early z).mem = z.mem) (e : s.inCount (.keeper c) o n early i = some b) : b.mem = s.mem := by
  unfold State.inCount State.cpuUntil State.poised at e
  dsimp only [State.cpuPost] at e
  simp only [ite_self] at e
  split at e
  · cases e
  · rw [← Option.some.inj e]
    show (early (s.keeperTime c _)).mem = s.mem
    rw [he]
    rfl

theorem State.ReadyFor.memory {o : Op} {b : State} {k : Fin 4} (h : s.ReadyFor (.keeper k) o b) (hm : o.mid = none)
    (he : ∀ z : State, (o.early z).mem = z.mem) : b.mem = s.mem := by
  have hc := h.comes
  unfold State.effectState at hc
  rw [hm] at hc
  dsimp only at hc
  unfold State.lastState at hc
  obtain ⟨c, hd, rfl⟩ := Option.map_eq_some_iff.mp hc
  rw [State.mem_modCpu]
  have h0 : (s.begins (.keeper k) o.len).mem = s.mem := rfl
  split at hd
  · split at hd
    · cases hd
    · rw [← Option.some.inj hd, he, h0]
  · exact (State.inCount_mem he hd).trans h0

theorem State.commit_waits {o : Op} {issue : Nat} (w : s.noneWaits) : (s.commit p o issue).noneWaits := by
  unfold State.commit
  have h1 : (if s.isFast p then s.modCpu p (fun u => { u with prev := u.firstOf o issue }) else s).noneWaits := by
    split
    · exact State.noneWaits_modCpu.mpr w
    · exact w
  generalize (if s.isFast p then s.modCpu p (fun u => { u with prev := u.firstOf o issue }) else s) = a at *
  have h2 : ((a.modCpu p (·.retire o issue)).count32 p 0xFE30 1).noneWaits :=
    (State.count32_cpu (SameCpu.refl _)).waits (State.noneWaits_modCpu.mpr h1)
  dsimp only
  generalize (a.modCpu p (·.retire o issue)).count32 p 0xFE30 1 = b at *
  rw [State.stepModes_eq]
  have h3 : ∀ (l : List ModeWrite) {d : State}, d.noneWaits → (l.foldl (fun (s : State) m => s.applyMode p m.target) d).noneWaits := by
    intro l
    induction l with
    | nil => intro d h; exact h
    | cons m l ih =>
      intro d h
      refine ih ?_
      show (d.applyMode p m.target).noneWaits
      unfold State.applyMode
      cases m.target with
      | io a v => cases p <;> exact h
      | yz b => exact State.noneWaits_modCpu.mpr h
      | il b => exact State.noneWaits_modCpu.mpr h
      | ie b => exact State.noneWaits_modCpu.mpr h
  exact h3 _ (State.noneWaits_modCpu.mpr h2)

/-- What an instruction leaves whose effect ends with the registers of `v` on a state that `z` stands for. -/
theorem State.finishes {o : Op} {d : Option DelaySlot} {issue : Nat} {post : Bool} {z : State} {v : CpuState} (e : z.has p)
    (w : z.noneWaits) (hn : (z.cpu p).seq = none) (hwt : post = true → (z.cpu p).waiting = false)
    (hpc : (s.cpu p).nextPc o.len = v.nextPc o.len) (hv : (z.cpu p).core = v.core)
    (ho : ∀ q, q ≠ p → (z.cpu q).core = (s.cpu q).core) :
    let t := if post then (z.commit p { o with transfer := d } issue).cpuPost p else z.commit p { o with transfer := d } issue
    s.Retires t p o.len { v with slot := d, shadow := o.isLoad } ∧ (∀ k, p = .keeper k → t.mem = z.mem) := by
  have k := State.commit_retires { o with transfer := d } issue e w hn
  have hc := CpuState.SameRegs.of_core hv
  have hm := CpuState.modes_of_core hv
  obtain ⟨r, m⟩ := k
  have ww : (z.commit p { o with transfer := d } issue).noneWaits := State.commit_waits w
  generalize z.commit p { o with transfer := d } issue = c at *
  have h1 : SameCpu c (if post then c.cpuPost p else c) := by
    cases post with
    | false => exact SameCpu.refl c
    | true => exact State.cpuPost_cpu (r.waiting.trans (hwt rfl)) (SameCpu.refl c)
  have m1 : ∀ k, p = .keeper k → (if post then c.cpuPost p else c).mem = c.mem := by
    rintro _ rfl
    split <;> rfl
  dsimp only
  generalize (if post then c.cpuPost p else c) = y at *
  have hy := CpuState.SameRegs.of_core (h1.cpu ww p)
  have hym := CpuState.modes_of_core (h1.cpu ww p)
  refine ⟨⟨⟨(hy.w.trans r.w).trans hc.w, (hy.x.trans r.x).trans hc.x, (hy.seg.trans r.seg).trans hc.seg,
    (hy.st.trans r.st).trans hc.st, ?_, hy.slot.trans r.slot, (hy.loadOld.trans r.loadOld).trans hc.loadOld,
    hy.shadow.trans r.shadow, (hy.waiting.trans r.waiting).trans hc.waiting, (hy.halted.trans r.halted).trans hc.halted, ?_, ?_⟩,
    ?_, ?_⟩, ?_⟩
  · rw [hy.pc, r.pc, hpc]
    unfold CpuState.nextPc
    rw [hc.slot, hc.pc]
  · have := r.ended
    unfold CpuState.between at this ⊢
    rw [hy.issued, hy.seq]
    exact this
  · intro q hq
    exact ((h1.cpu ww q).trans (r.others q hq)).trans (ho q hq)
  · exact (hy.modePend.trans r.modePend).trans (by rw [hc.modePend])
  · intro hp
    have := r.modes (by rw [hc.modePend]; exact hp)
    exact ⟨(hym.1.trans this.1).trans hm.1, (hym.2.1.trans this.2.1).trans hm.2.1, (hym.2.2.trans this.2.2).trans hm.2.2⟩
  · intro k hk
    exact (m1 k hk).trans m

/-- An instruction that comes to its effect, from what its effect leaves of the processors. -/
theorem State.run_effect {o : Op} {b z : State} {v : CpuState} (h : s.ReadyFor p o b) (hb : s.Comes p b)
    (ho : o.effect b = (z, true)) (hz : z.has p) (hw : z.noneWaits) (hv : (z.cpu p).core = v.core) (hn : v.seq = none)
    (hwt : v.waiting = false) (hq : ∀ q, q ≠ p → (z.cpu q).core = (b.cpu q).core)
    (hpc : v.pc = (s.cpu p).pc ∧ v.slot = (s.cpu p).slot) :
    s.Retires (s.run p o) p o.len { v with slot := o.transfer.map (o.resolve b), shadow := o.isLoad } ∧
      (∀ k, p = .keeper k → (s.run p o).mem = z.mem) := by
  obtain ⟨post, issue, hrun⟩ := State.run_ready h ho
  have hr := CpuState.SameRegs.of_core hv
  rw [hrun]
  refine State.finishes (s := s) (o := o) (d := o.transfer.map (o.resolve b)) (issue := issue) hz hw (hr.seq.trans hn)
    (fun _ => hr.waiting.trans hwt) (v := v) ?_ hv (fun q hq' => (hq q hq').trans (hb.others q hq'))
  unfold CpuState.nextPc
  rw [hpc.1, hpc.2]

/-- An instruction whose effect is on its processor alone. -/
theorem State.run_own {o : Op} {b : State} {g : CpuState → CpuState} (h : s.ReadyFor p o b) (hmid : o.mid = none)
    (he : ∀ z, SameCpu s z → SameCpu s (o.early z)) (hm : ∀ z : State, (o.early z).mem = z.mem)
    (hr : ∀ b d, o.transfer = some d → o.resolve b d = d) (ho : ∀ z, o.effect z = (z.modCpu p g, true))
    (hg : ∀ u v : CpuState, u.core = v.core → (g u).core = (g v).core)
    (hpc : ∀ u : CpuState, (g u).pc = u.pc ∧ (g u).slot = u.slot ∧ (g u).seq = u.seq ∧ (g u).waiting = u.waiting) :
    s.RetiresHere (s.run p o) p o.len
      { g { (s.cpu p) with loadOld := [] } with slot := o.transfer, shadow := o.isLoad } := by
  have ha := h.comesTo hmid he
  have hk := State.run_effect (z := b.modCpu p g) (v := g { (s.cpu p) with loadOld := [] }) h ha (ho _)
    ((State.has_modCpu g).mpr ha.has) (State.noneWaits_modCpu.mpr ha.waits)
    (by rw [State.cpu_modCpu _ ha.has, if_pos rfl]; exact hg _ _ ha.own)
    ((hpc _).2.2.1.trans (State.mayIssue_seq h.issues)) ((hpc _).2.2.2.trans (State.mayIssue_waiting h.issues))
    (fun q hq => by rw [State.cpu_modCpu _ ha.has, if_neg hq])
    ⟨(hpc _).1, (hpc _).2.1⟩
  have htr : o.transfer.map (o.resolve b) = o.transfer := by
    cases e : o.transfer with
    | none => rfl
    | some d => simp [hr _ d e]
  rw [htr] at hk
  refine ⟨hk.1, fun k e => ?_⟩
  rw [hk.2 k e, State.mem_modCpu]
  subst e
  exact h.memory hmid hm

/-- An instruction that reaches nothing comes to its effect where virtual time does not stop. -/
theorem State.Ready.readyFor {o : Op} {count : Nat} (h : s.Ready p o.len count) (hc : o.cycles = count)
    (hs : o.stall ≤ ((s.begins p o.len).cpu p).farWait (fun _ => true)) (ha : o.acc = []) (hm : o.mid = none)
    (hf : (s.cpu p).faultOf o = none) : ∃ b, s.ReadyFor p o b := by
  suffices ∃ b, s.effectState p o = some b by
    obtain ⟨b, hb⟩ := this
    exact ⟨b, ⟨h.toIssues, hf, hb⟩⟩
  have hfl := State.fetchLine_cpu (a0 := p) (a1 := o.len) (SameCpu.refl s)
  have hu := CpuState.SameRegs.of_core (hfl.cpu h.quiet p)
  have hfault : ((s.fetchLine p o.len).1.cpu p).faultOf o = none := by
    rw [← hf]
    unfold CpuState.faultOf
    rw [hu.slot]
  have hsp : ((s.fetchLine p o.len).1.spendFast p).cpu p = (s.fetchLine p o.len).1.cpu p := by
    unfold State.spendFast
    split
    · cases p <;> rfl
    · rfl
  have ht := h.time
  have hp := h.past
  unfold State.effectState State.begins at *
  rw [hm]
  dsimp only
  rw [hsp] at hs hp ht
  generalize (s.fetchLine p o.len).1 = f at *
  have hlag : ∀ z : State, ∀ l, z.lagging p l o.acc = false := by
    intro z l
    unfold State.lagging
    rw [ha]
    cases p with
    | keeper k => rfl
    | session c =>
      dsimp only
      have : z.sesD c false (fun x => ([] : List Reached).any (fun r => x.unitsTouch r)) = false := by
        unfold State.sesD
        split <;> rfl
      rw [this, Bool.and_false]
  have hle : (f.issueOf p o).first + (f.issueOf p o).total ≤ (f.cpu p).now + ((f.cpu p).longest + count + f.fastExtra p) := by
    have hwf := CpuState.waitFor_le hs
    unfold State.issueOf
    dsimp only
    rw [hfault]
    dsimp only
    split
    · rename_i hp'
      simp only [Bool.and_eq_true] at hp'
      have hx : f.fastExtra p = Config.freeCount f.fresh := by unfold State.fastExtra; rw [if_pos hp'.1.1]
      rw [hc, hx]
      dsimp only
      cases hq : (f.cpu p).prev with
      | none => simp only [Option.map_none, Option.getD_none]; omega
      | some q =>
        have := hp q hq
        simp only [Option.map_some, Option.getD_some]; omega
    · dsimp only; rw [hc]; omega
  generalize f.issueOf p o = i at *
  unfold State.lastState
  rw [hsp]
  split
  · rw [hlag]
    exact ⟨_, rfl⟩
  · rename_i hlt
    have hcp : (f.spendFast p).cpu p = f.cpu p := hsp
    have := ht (i.first + i.total - 1 - (f.cpu p).now) (by omega)
    rw [hcp] at this
    have e : (f.cpu p).now + (i.first + i.total - 1 - (f.cpu p).now) = i.first + i.total - 1 := by omega
    rw [e] at this
    unfold State.inCount
    obtain ⟨t1, t2⟩ := this
    have e1 : (f.spendFast p).cpuUntil p (i.first + i.total - 1) =
        (((f.spendFast p).cpuUntil p (i.first + i.total - 1)).1, true) := Prod.ext rfl t1
    rw [e1]
    dsimp only
    generalize ((f.spendFast p).cpuUntil p (i.first + i.total - 1)).1 = y at *
    have e2 : y.poised p = ((y.poised p).1, true) := Prod.ext rfl t2
    rw [e2]
    dsimp only
    rw [hlag, if_neg (by decide)]
    exact ⟨_, rfl⟩

end Sys2Proof.Machine
end

