-- ==== Sys2Proof/Laws/Store.lean ====
section
/-! SUPPORT. What a store of a processor leaves of the processors: every register, but for the writes of R126 it makes. -/

namespace Sys2Proof.Machine

open Sys2Proof

/-- Every field but modes. -/
def CpuState.bare (u : CpuState) : CpuState := { u with now := 0, modePend := [] }

theorem CpuState.bare_of_core {u v : CpuState} (h : v.core = u.core) : v.bare = u.bare := by
  show { v.core with modePend := [] } = { u.core with modePend := [] }
  rw [h]

theorem SameX.bare {x y : Session} (h : SameX x y) : y.cpu.bare = x.cpu.bare := CpuState.bare_of_core h

/-- What a store of processor `p` leaves. -/
structure Stores (p : Cpu) (s t : State) : Prop where
  waits : s.noneWaits → t.noneWaits
  has : s.noneWaits → (t.has p ↔ s.has p)
  own : s.noneWaits → (t.cpu p).bare = (s.cpu p).bare
  others : s.noneWaits → ∀ q, q ≠ p → (t.cpu q).core = (s.cpu q).core

theorem Stores.refl (p : Cpu) (s : State) : Stores p s s := ⟨id, fun _ => Iff.rfl, fun _ => rfl, fun _ _ _ => rfl⟩
theorem Stores.trans {p : Cpu} {a b c : State} (h : Stores p a b) (k : Stores p b c) : Stores p a c :=
  ⟨k.waits ∘ h.waits, fun w => (k.has (h.waits w)).trans (h.has w), fun w => (k.own (h.waits w)).trans (h.own w),
    fun w q e => (k.others (h.waits w) q e).trans (h.others w q e)⟩
theorem SameCpu.stores {p : Cpu} {s t : State} (h : SameCpu s t) : Stores p s t :=
  ⟨h.waits, fun w => h.has w, fun w => CpuState.bare_of_core (h.cpu w p), fun w q _ => h.cpu w q⟩

theorem State.modSes_stores {c : CtxNo} {f : Session → Session} {s : State} (hf : ∀ x : Session, (f x).cpu.bare = x.cpu.bare) :
    Stores (.session c) s (s.modSes c f) := by
  refine ⟨id, fun _ => ?_, fun _ => ?_, fun _ q hq => ?_⟩
  · simp [State.has, State.ses_modSes]
  · simp only [State.cpu, State.sesD, State.ses_modSes, if_true]
    cases s.ses c with
    | none => rfl
    | some x => exact hf x
  · cases q with
    | session c' =>
      have : c' ≠ c := fun e => hq (by rw [e])
      simp [State.cpu, State.sesD, State.ses_modSes, this]
    | keeper k => rfl

theorem State.modKeeper_stores {k : Fin 4} {f : Keeper → Keeper} {s : State} (hf : ∀ x : Keeper, (f x).cpu.bare = x.cpu.bare) :
    Stores (.keeper k) s (s.modKeeper k f) := by
  refine ⟨id, fun _ => Iff.rfl, fun _ => ?_, fun _ q hq => ?_⟩
  · simp only [State.cpu, State.keeper_modKeeper, if_true]; exact hf _
  · cases q with
    | session c => rfl
    | keeper k' =>
      have : k' ≠ k := fun e => hq (by rw [e])
      simp [State.cpu, State.keeper_modKeeper, this]

theorem State.miscStore_stores {c : CtxNo} {a : Nat} {v : Word} {s : State} : Stores (.session c) s (s.miscStore c a v) := by
  unfold State.miscStore
  split
  · exact State.modSes_stores fun x => rfl
  split
  · refine State.modSes_stores fun x => ?_
    exact SameX.bare (Session.land_cpu (SameX.refl x))
  split
  · split
    · exact (State.mailSend_cpu (SameCpu.refl s)).stores
    · exact Stores.refl _ _
  · refine State.modSes_stores fun x => ?_
    dsimp only
    split
    · rfl
    split
    · rfl
    · rfl

theorem State.ioStore_stores {c : CtxNo} {a : Nat} {v : Word} {s : State} : Stores (.session c) s (s.ioStore c a v).1 := by
  unfold State.ioStore
  split
  · exact State.modSes_stores fun x => SameX.bare (Session.videoStore_cpu (SameX.refl x))
  split
  · exact (State.unitStore_cpu (SameCpu.refl s)).stores
  split
  · exact (State.soundStore_cpu (SameCpu.refl s)).stores
  · exact State.miscStore_stores

theorem State.keeperIoStore_stores {k : Fin 4} {a : Nat} {v : Word} {s : State} : Stores (.keeper k) s (s.keeperIoStore k a v) := by
  unfold State.keeperIoStore
  dsimp only
  split
  · refine State.modKeeper_stores ?_; exact fun _ => rfl
  split
  · refine Stores.trans (b := s.setOwnIo (.keeper k) a (softWrite (ioDesc false a) (s.ownIo (.keeper k) a) v.toNat)) ?_ ?_
    · unfold State.setOwnIo; dsimp only
      refine State.modKeeper_stores ?_; exact fun _ => rfl
    · unfold State.modCpu; dsimp only
      refine State.modKeeper_stores ?_; exact fun _ => rfl
  · exact Stores.refl _ _

theorem State.dStore_stores {p : Cpu} {a : Nat} {v : Word} {s : State} : Stores p s (s.dStore p a v).1 := by
  unfold State.dStore
  split
  · cases p with
    | session c => exact State.ioStore_stores
    | keeper k => exact State.keeperIoStore_stores
  · cases p with
    | session c => exact (State.dWrite_cpu (SameCpu.refl s)).stores
    | keeper k => dsimp only; refine State.modKeeper_stores ?_; exact fun _ => rfl

theorem State.memStore_stores {p : Cpu} {m : MemSpace} {a : Nat} {v : Word} {s : State} : Stores p s (s.memStore p m a v).1 := by
  unfold State.memStore
  split
  · exact State.dStore_stores
  · exact (State.vStore_cpu (SameCpu.refl s)).stores
  · exact (State.sStore_cpu (SameCpu.refl s)).stores
  · exact Stores.refl _ _

theorem State.storeWords_stores {p : Cpu} {m : MemSpace} (l : List (Nat × Word)) : ∀ {s : State}, Stores p s (s.storeWords p m l).1 := by
  induction l with
  | nil => intro s; exact Stores.refl _ _
  | cons e l ih =>
    intro s
    obtain ⟨a, v⟩ := e
    unfold State.storeWords
    have h := State.memStore_stores (p := p) (m := m) (a := a) (v := v) (s := s)
    cases hm : s.memStore p m a v with
    | mk s1 b =>
      rw [hm] at h
      cases b with
      | true => exact h.trans ih
      | false => exact h

/-- An instruction whose effect stores words, or leaves its registers otherwise alone but for what `v` says. -/
theorem State.run_moves {s : State} {p : Cpu} {o : Op} {b z : State} {v : CpuState} (h : s.ReadyFor p o b) (hb : s.Comes p b)
    (ho : o.effect b = (z, true)) (hz : z.has p) (hw : z.noneWaits) (hv : (z.cpu p).bare = v.bare) (hn : v.seq = none)
    (hwt : v.waiting = false) (hq : ∀ q, q ≠ p → (z.cpu q).core = (b.cpu q).core)
    (hpc : v.pc = (s.cpu p).pc ∧ v.slot = (s.cpu p).slot) :
    s.Moves (s.run p o) p o.len { v with slot := o.transfer.map (o.resolve b), shadow := o.isLoad } ∧
      (∀ k, p = .keeper k → (s.run p o).mem = z.mem) := by
  have e {α : Type} (f : CpuState → α) : f (z.cpu p).bare = f v.bare := congrArg f hv
  have k := State.run_effect (v := z.cpu p) h hb ho hz hw rfl ((e (·.seq)).trans hn) ((e (·.waiting)).trans hwt) hq
    ⟨(e (·.pc)).trans hpc.1, (e (·.slot)).trans hpc.2⟩
  obtain ⟨⟨r, -, -⟩, m⟩ := k
  exact ⟨⟨r.w.trans (e (·.w)), r.x.trans (e (·.x)), r.seg.trans (e (·.seg)), r.st.trans (e (·.st)), r.pc, r.slot,
    r.loadOld.trans (e (·.loadOld)), r.shadow, r.waiting.trans (e (·.waiting)), r.halted.trans (e (·.halted)), r.ended,
    r.others⟩, m⟩

end Sys2Proof.Machine
end

