-- ==== Sys2Proof/Laws/Local.lean ====
section
/-! SUPPORT. What a Keeper's instruction leaves beyond its effect: the passing of its cycles and its completion change that
Keeper alone, and no word of its data RAM. -/

namespace Sys2Proof.Machine

open Sys2Proof

/-- `t` is `s` but for Keeper `k`, whose data RAM and release are as they were. -/
def Local (k : Fin 4) (s t : State) : Prop :=
  ∃ f : Keeper → Keeper, t = s.modKeeper k f ∧ ∀ x, (f x).dram = x.dram ∧ (f x).running = x.running

variable {s t : State} {k : Fin 4}

theorem State.modKeeper_id : s.modKeeper k (fun x => x) = s := by
  unfold State.modKeeper State.setKeeper State.keeper
  simp

theorem State.modKeeper_modKeeper (f g : Keeper → Keeper) :
    (s.modKeeper k f).modKeeper k g = s.modKeeper k (fun x => g (f x)) := by
  unfold State.modKeeper State.setKeeper State.keeper
  simp

theorem Local.refl (k : Fin 4) (s : State) : Local k s s := ⟨fun x => x, State.modKeeper_id.symm, fun _ => ⟨rfl, rfl⟩⟩

theorem Local.trans {a b c : State} (h : Local k a b) (i : Local k b c) : Local k a c := by
  obtain ⟨f, rfl, hf⟩ := h
  obtain ⟨g, rfl, hg⟩ := i
  exact ⟨fun x => g (f x), State.modKeeper_modKeeper f g,
    fun x => ⟨(hg _).1.trans (hf x).1, (hg _).2.trans (hf x).2⟩⟩

theorem Local.mod (f : Keeper → Keeper) (hf : ∀ x, (f x).dram = x.dram ∧ (f x).running = x.running) :
    Local k s (s.modKeeper k f) := ⟨f, rfl, hf⟩

theorem Local.rest (h : Local k s t) : t = { s with keepers := t.keepers } := by obtain ⟨f, rfl, -⟩ := h; rfl
theorem Local.mem (h : Local k s t) : t.mem = s.mem := by obtain ⟨f, rfl, -⟩ := h; rfl
theorem Local.others (h : Local k s t) {k' : Fin 4} (e : k' ≠ k) : t.keeper k' = s.keeper k' := by
  obtain ⟨f, rfl, -⟩ := h
  rw [State.keeper_modKeeper, if_neg e]
theorem Local.dram (h : Local k s t) (k' : Fin 4) : (t.keeper k').dram = (s.keeper k').dram := by
  obtain ⟨f, rfl, hf⟩ := h
  rw [State.keeper_modKeeper]
  split
  · next e => rw [(hf _).1, e]
  · rfl

theorem State.modCpu_local (f : CpuState → CpuState) : Local k s (s.modCpu (.keeper k) f) :=
  Local.mod (fun x => { x with cpu := f x.cpu }) fun _ => ⟨rfl, rfl⟩

theorem State.setForce_local {a : Nat} {v : Word} : Local k s (s.setForce (.keeper k) a v) :=
  Local.mod (fun x => { x with eff := Sparse.set (ioReset false a) x.eff a v }) fun _ => ⟨rfl, rfl⟩

theorem State.setOwnIo_local {a v : Nat} : Local k s (s.setOwnIo (.keeper k) a v) :=
  Local.mod (fun x => { x with io := Sparse.set (ioReset false a) x.io a (BitVec.ofNat 16 v) }) fun _ => ⟨rfl, rfl⟩

theorem State.count32_local {a n : Nat} : Local k s (s.count32 (.keeper k) a n) := by
  unfold State.count32
  exact State.setOwnIo_local.trans State.setOwnIo_local

theorem State.keeperCycles_local {n : Nat} : Local k s (s.keeperCycles k n) :=
  Local.mod (fun x => { x with int := x.int.timerCycles n, cpu := { x.cpu with now := x.cpu.now + n } }) fun _ => ⟨rfl, rfl⟩

theorem State.keeperTime_local {n : Nat} : Local k s (s.keeperTime k n) := by
  unfold State.keeperTime
  exact State.keeperCycles_local.trans State.count32_local

theorem State.cpuPre_local : Local k s (s.cpuPre (.keeper k)) := State.keeperTime_local

theorem State.cpuUntil_local {n : Nat} : Local k s (s.cpuUntil (.keeper k) n).1 := State.keeperTime_local

theorem State.applyMode_local {m : ModeTarget} : Local k s (s.applyMode (.keeper k) m) := by
  cases m with
  | io a v => exact State.setForce_local
  | yz b => exact State.modCpu_local (fun u => { u with yz := b })
  | il l => exact State.modCpu_local (fun u => { u with il := l })
  | ie b => exact State.modCpu_local (fun u => { u with ie := b })

theorem State.stepModes_local : Local k s (s.stepModes (.keeper k)) := by
  rw [State.stepModes_eq]
  have h : ∀ (l : List ModeWrite) {a : State}, Local k a (l.foldl (fun (s : State) m => s.applyMode (.keeper k) m.target) a) := by
    intro l
    induction l with
    | nil => intro a; exact Local.refl k a
    | cons m l ih => intro a; exact State.applyMode_local.trans ih
  exact (State.modCpu_local _).trans (h _)

theorem State.commit_local {o : Op} {issue : Nat} : Local k s (s.commit (.keeper k) o issue) := by
  unfold State.commit
  exact ((State.modCpu_local _).trans State.count32_local).trans State.stepModes_local

theorem State.inCount_local {o : Op} {n : Nat} {early : State → State} {i : Issued} {b : State} (he : ∀ z, Local k z (early z))
    (e : s.inCount (.keeper k) o n early i = some b) : Local k s b := by
  unfold State.inCount State.cpuUntil State.poised at e
  dsimp only [State.cpuPost] at e
  simp only [ite_self] at e
  split at e
  · cases e
  · rw [← Option.some.inj e]
    exact (State.keeperTime_local.trans (he _)).trans State.cpuPre_local

/-- A Keeper comes to an instruction's effect with its own cycles only. -/
theorem State.ReadyFor.own {o : Op} {b : State} (h : s.ReadyFor (.keeper k) o b) (hm : o.mid = none)
    (he : ∀ z, Local k z (o.early z)) : Local k s b := by
  have hc := h.comes
  unfold State.effectState at hc
  rw [hm] at hc
  dsimp only at hc
  unfold State.lastState at hc
  obtain ⟨c, hd, rfl⟩ := Option.map_eq_some_iff.mp hc
  refine Local.trans (b := c) ?_ (State.modCpu_local _)
  have h0 : s.begins (.keeper k) o.len = s := rfl
  split at hd
  · split at hd
    · cases hd
    · rw [← Option.some.inj hd, h0]
      exact he s
  · rw [h0] at hd
    exact State.inCount_local he hd

/-- A Keeper's instruction that runs to its end adds nothing to its effect but that Keeper's own registers. -/
theorem State.run_local {o : Op} {b z : State} (h : s.ReadyFor (.keeper k) o b) (ho : o.effect b = (z, true)) :
    Local k z (s.run (.keeper k) o) := by
  obtain ⟨post, issue, hrun⟩ := State.run_ready h ho
  rw [hrun]
  dsimp only [State.cpuPost]
  split <;> exact State.commit_local

/-- A store's clearing of pending bits touches its Keeper alone. -/
theorem State.clearEarly_local {m : MemSpace} {l : List (Nat × Word)} : Local k s (s.clearEarly (.keeper k) m l) := by
  unfold State.clearEarly
  split
  · have h : ∀ (l : List (Nat × Word)) {a : State},
        Local k a (l.foldl (fun (s : State) e => s.modInt (.keeper k) (·.clear e.1 e.2)) a) := by
      intro l
      induction l with
      | nil => intro a; exact Local.refl k a
      | cons e l ih =>
        intro a
        exact (Local.mod (fun x => { x with int := x.int.clear e.1 e.2 }) fun _ => ⟨rfl, rfl⟩).trans ih
    exact h l
  · exact Local.refl k s

end Sys2Proof.Machine
end

