-- ==== Sys2Proof/WellFormed.lean ====
section
/-! DEFINITION. Which commands are spelt as the specification allows: lengths of requests, responses, messages and
packets. Whether a command takes effect in a state is its meaning's business, not this file's. -/

namespace Sys2Proof

/-- A read or write request names 1 to 64 words (R382). -/
def reqLen (n : Nat) : Bool := decide (1 ≤ n ∧ n ≤ 64)

/-- The data words of an atomic request: one operand or two, of 32 or 64 bits (R382). -/
def atomLen (n : Nat) : Bool := decide (n = 2 ∨ n = 4 ∨ n = 8)

/-- A DCP message: LEN counts the body, which fits one datagram, and the MAC is 16 bytes (R364). -/
def dcpForm (m : DcpMsg) : Bool :=
  decide (m.len.toNat = m.body.length ∧ m.body.length ≤ 1400 ∧ m.mac.length = 16)

/-- A UDP payload that one datagram can carry. -/
def udpForm (l : List Byte) : Bool := decide (l.length ≤ 65507)

/-- The address forms of the rows other than LD and ST: the stack form belongs to those two alone (R155). -/
def notStack : MemForm → Bool
  | .stack _ => false
  | _ => true

/-- A video packet is of type TILE, PLANE or MARKER, and a MARKER carries nothing (R290, R295). -/
def videoForm (p : VideoPkt) : Bool :=
  decide (p.kind = 1 ∨ p.kind = 2 ∨ p.kind = 3) && (!decide (p.kind = 3) || p.payload.isEmpty)

/-- An AUDIO packet carries 192 bytes of samples and a SILENCE packet none (R290, R304). -/
def audioForm (p : AudioPkt) : Bool :=
  decide ((p.kind = 4 ∧ p.samples.length = 192) ∨ (p.kind = 5 ∧ p.samples.length = 0))

/-- A command spelt as the specification allows. -/
def Instr.wf : Instr → Bool
  | .rd _ _ _ len => reqLen len.toNat
  | .wr _ _ _ data _ _ => reqLen data.length
  | .pwr _ _ _ data _ _ => reqLen data.length
  | .atom _ _ _ _ data => atomLen data.length
  | .ldp _ _ m => notStack m
  | .stp _ _ m => notStack m
  | .ldv _ _ m => notStack m
  | .ldpv _ _ m => notStack m
  | .stv _ _ m => notStack m
  | .stpv _ _ m => notStack m
  | .lds _ _ m => notStack m
  | .ldps _ _ m => notStack m
  | .sts _ _ m => notStack m
  | .stps _ _ m => notStack m
  | .ldc _ _ m => notStack m
  | .input _ l => udpForm l
  | .feedback _ l => udpForm l
  | .refresh _ l => udpForm l
  | .ident m => dcpForm m
  | .logread m => dcpForm m
  | .dcpMode m => dcpForm m
  | .imgcheck m => dcpForm m
  | .imgwrite m => dcpForm m
  | .bootsel m => dcpForm m
  | .imgrun m => dcpForm m
  | .lread m => dcpForm m
  | .lwrite m => dcpForm m
  | .keyset m => dcpForm m
  | .minver m => dcpForm m
  | .netset m => dcpForm m
  | .programCommand m => dcpForm m
  | .tapReturn _ data => decide (data.length = 16)
  | .i2cDone _ _ rx => decide (rx.length ≤ 16)
  | .videoPacketReceive p => videoForm p
  | .audioPacketPlay p => audioForm p
  | _ => true

end Sys2Proof
end

