-- ==== Sys2Proof/Tests/Slice0.lean ====
section
/-! SUPPORT. Tests: what the checks refuse, a few steps on fixed values, and for the statements with hypotheses concrete states
that meet them, clause by clause. -/

set_option Elab.async false

open Sys2Proof Sys2Proof.Machine Sys2Proof.Claims

namespace Sys2Proof.Tests

/-! ### States the tests start from -/

/-- The device after power-up: ATTENDED, every domain powered, the fabric trained, and every Keeper released. -/
def up : State :=
  { State.reset with
    power := { State.reset.power with mode := .attended, on := 0x1FFFFFFFFFFFFE, cause := 0 }
    links := Vector.replicate 4 { up := 4, retraining := 0 }
    clock := { State.reset.clock with rootLock := true }
    keepers := State.reset.keepers.map (fun k => { k with running := true }) }

/-- The Keeper of the tests, and its state: the stack pointer and index register 0 in its data RAM, the PC in the code store, and
segment 0 for reads and writes. -/
def kk : Cpu := .keeper 1
def kp : State := up.modCpu kk (fun u =>
  { u with pc := 0x10, w := (u.w.set 15 0x9000).set 2 7, x := u.x.set 0 0x100, seg := u.seg.set 0 3 })

/-- The frame of a title page. -/
def titleFrame : FrameRec := { FrameRec.free with pool := 1, title := true, shares := 1 }

/-- A page with its home frame and its Gallery copy. -/
def resident (i : Nat) : PageEntry :=
  { PageEntry.none with alloc := true, gcopy := true, home := BitVec.ofNat 25 (2000 + i), gframe := BitVec.ofNat 16 (16 + i) }

/-- A frame of 400 by 262 dots of which 320 by 240 are active, 1000 cycles a line, seen at line 200. -/
def sess : Session :=
  { Session.initial false false 0x100 [400, 320, 262, 240, 1000] with
    share := 64, lastBoundary := some (0, 200), vcyc := 200000
    lpg := { running := false, bank := 0, pc := 0, lc := 0, frame := 1, line := 0, dot := 0 }
    cpu := { CpuState.zero with pc := 0x100, w := CpuState.zero.w.set 15 0xB080, x := CpuState.zero.x.set 0 0x100 } }

/-- The context of the tests, RUNNING, with the pages of its work RAM, of V and of S that the tests touch. -/
def cc : CtxNo := 5
def ctx5 : Context :=
  { Context.reset with
    state := .running, title := 3, vclk := 15720000, ses := some sess
    pages := [3, 25, 27, 155].map (fun i => (i, resident i)) }

/-- The slot it holds. -/
def slot0 : SlotSt :=
  { SlotSt.idle with
    ctx := some cc, horizonF := 5, sched := [{ f := 0, s := 0, period := 1000000000, shifts := [] }]
    period := 1000000000, rendered := 200 }

/-- The device SERVING, with that session and its title, every page of which has its copy in the Gallery. -/
def sp : State :=
  { up with
    power := { up.power with mode := .serving }
    clock := { up.clock with time := 1000000000 }
    ctxs := [(5, ctx5)]
    titles := [(3, { state := 1, cPages := 4, dPages := 0, list := 0, frames := [1000, 1001, 1002, 1003] })]
    slots := [(0, slot0)]
    frames := (List.range 4).map (fun i => (1000 + i, titleFrame)) ++
      (List.range 4).map (fun i => (galleryFrame 0 i, FrameRec.copyOf (1000 + i))) }
def ss : Cpu := .session cc

/-! ### When an instruction runs, decided -/

def issuesB (s : State) (p : Cpu) (len : Nat) : Bool :=
  s.mayIssue p && (s.cpu p).issued.isNone && (s.cpu p).slot.all (fun d => !d.annulled) && (s.badFetch p len).isNone &&
  (s.fetchLine p len).2 && !(s.fetchLine p len).1.unencoded p && (List.finRange 4).all (fun q => s.ports[q.val].waiting.isNone)
theorem issues_of {s : State} {p : Cpu} {len : Nat} (h : issuesB s p len = true) : s.Issues p len := by
  simp only [issuesB, Bool.and_eq_true, Option.isNone_iff_eq_none, Option.all_eq_true, Bool.not_eq_true', List.all_eq_true,
    List.mem_finRange, forall_const] at h
  obtain ⟨⟨⟨⟨⟨⟨a, b⟩, c⟩, d⟩, e⟩, f⟩, g⟩ := h
  exact ⟨a, b, c, d, e, f, g⟩

/-- The cycles an instruction may take. -/
def span (s : State) (p : Cpu) (len count : Nat) : Nat :=
  ((s.begins p len).cpu p).longest + count + (s.fetchLine p len).1.fastExtra p
def readyB (s : State) (p : Cpu) (len count : Nat) : Bool :=
  issuesB s p len && ((s.begins p len).cpu p).prev.all (fun q => decide (q.first ≤ ((s.begins p len).cpu p).now)) &&
  (List.range (span s p len count)).all (fun m =>
    let r := (s.begins p len).cpuUntil p (((s.begins p len).cpu p).now + m)
    r.2 && (r.1.poised p).2)
theorem ready_of {s : State} {p : Cpu} {len count : Nat} (h : readyB s p len count = true) : s.Ready p len count := by
  simp only [readyB, Bool.and_eq_true, Option.all_eq_true, List.all_eq_true, List.mem_range, decide_eq_true_eq] at h
  exact ⟨issues_of h.1.1, h.1.2, h.2⟩
def calmB (s : State) (p : Cpu) (n : Nat) : Bool := match p with
  | .keeper _ => true
  | .session c => (s.ses c).any (fun x => x.blit.isNone && x.dmaAct.isNone &&
      (List.finRange 4).all (fun k => decide ((x.ch k).phase = .off) && (x.ch k).trigs.isEmpty) && !x.soundWaits && !x.lpg.running &&
      !wbit (x.ioW 0xF500) 0 && decide (n < x.toBoundary (s.ctxBandH c)))
theorem calm_of {s : State} {p : Cpu} {n : Nat} (h : calmB s p n = true) : s.Calm p n := by
  match p with
  | .keeper _ => trivial
  | .session c =>
    simp only [calmB, Option.any_eq_true, Bool.and_eq_true, Option.isNone_iff_eq_none, List.all_eq_true, List.mem_finRange, forall_const,
      decide_eq_true_eq, List.isEmpty_iff, Bool.not_eq_true'] at h
    obtain ⟨x, e, ⟨⟨⟨⟨⟨a, b⟩, c⟩, d⟩, f⟩, g⟩, k⟩ := h
    exact ⟨x, e, a, b, c, d, f, g, k⟩
theorem readyCalm_of {s : State} {p : Cpu} {len count : Nat}
    (h : (readyB s p len count && calmB (s.begins p len) p (span s p len count)) = true) : s.ReadyCalm p len count := by
  rw [Bool.and_eq_true] at h
  exact ⟨ready_of h.1, calm_of h.2⟩

/-- The state an operation has its effect in. -/
def atEffect (s : State) (p : Cpu) (o : Op) : State := (s.effectState p o).getD s
theorem readyFor_of {s : State} {p : Cpu} {o : Op}
    (h : (issuesB s p o.len && ((s.cpu p).faultOf o).isNone && (s.effectState p o).isSome) = true) : s.ReadyFor p o (atEffect s p o) := by
  simp only [Bool.and_eq_true, Option.isNone_iff_eq_none, Option.isSome_iff_exists] at h
  obtain ⟨⟨a, b⟩, c, d⟩ := h
  exact ⟨issues_of a, b, by simp [atEffect, d]⟩

/-- The next state of a command. -/
def after (i : Instr) (s : State) : State := match exec i s with | .next t => t | _ => s

/-! ### What the checks refuse -/

/-- Where the requests of the tests come from, and a message whose LEN is not the length of its body. -/
def path0 : DcpPath := { port := 0, sub := 0, v6 := false, src := [10, 0, 0, 1], dst := [10, 0, 0, 2], sport := 4000, dport := 5000 }
def badMsg : DcpMsg :=
  { ver := 1, kind := 1, cmd := 1, keyId := 0, status := 0, boot := 0, seq := 1, len := 3, body := [], mac := List.replicate 16 0
    path := path0 }

theorem test_request_length_refused :
    (Instr.rd 0 0 0 0).wf = false ∧ (Instr.rd 0 0 0 65).wf = false ∧ (Instr.wr 0 0 0 [] true false).wf = false ∧
    (Instr.pwr 0 0 0 [] true false).wf = false ∧ (Instr.atom 0 0 0 0 [1]).wf = false := by decide

theorem test_stack_form_refused : ∀ i ∈ [Instr.ldp kk 0 (.stack 0), .stp kk 0 (.stack 0), .ldv kk 0 (.stack 0), .ldpv kk 0 (.stack 0),
    .stv kk 0 (.stack 0), .stpv kk 0 (.stack 0), .lds kk 0 (.stack 0), .ldps kk 0 (.stack 0), .sts kk 0 (.stack 0),
    .stps kk 0 (.stack 0), .ldc kk 0 (.stack 0)], i.wf = false := by decide

theorem test_dcp_length_refused : ∀ i ∈ [Instr.ident badMsg, .logread badMsg, .dcpMode badMsg, .imgcheck badMsg, .imgwrite badMsg,
    .bootsel badMsg, .imgrun badMsg, .lread badMsg, .lwrite badMsg, .keyset badMsg, .minver badMsg, .netset badMsg,
    .programCommand badMsg], i.wf = false := by decide

theorem test_udp_length_refused (l : List Byte) (h : l = List.replicate 65508 0) :
    (Instr.input 0 l).wf = false ∧ (Instr.feedback 0 l).wf = false ∧ (Instr.refresh 0 l).wf = false := by
  have : udpForm l = false := by
    subst h
    exact decide_eq_false (by rw [List.length_replicate]; omega)
  exact ⟨this, this, this⟩

theorem test_return_and_i2c_length_refused :
    (Instr.tapReturn 0 [1, 2]).wf = false ∧ (Instr.i2cDone 0 0 (List.replicate 17 0)).wf = false := by decide

/-- Packets of a type that is not theirs, and a MARKER that carries bytes. -/
def badVideo (kind : BitVec 4) (l : List Byte) : VideoPkt :=
  { kind := kind, flags := 0, seq := 0, frame := 0, band := 0, fidx := 0, w := 0, line0 := 0, nlines := 0, mgen := 0, chk := 0,
    pos := 0, payload := l }
def badAudio (kind : BitVec 4) (l : List Byte) : AudioPkt :=
  { kind := kind, flags := 0, seq := 0, pkt := 0, relS := 0, relNs := 0, nextS := 0, nextNs := 0, samples := l }

theorem test_packet_type_refused :
    (Instr.videoPacketReceive (badVideo 4 [])).wf = false ∧ (Instr.videoPacketReceive (badVideo 3 [0])).wf = false ∧
    (Instr.audioPacketPlay (badAudio 1 [])).wf = false ∧ (Instr.audioPacketPlay (badAudio 4 [0])).wf = false ∧
    (Instr.audioPacketPlay (badAudio 5 [0])).wf = false := by decide

theorem test_sound_commands_accepted :
    (Instr.rd 0 0 0 64).wf = true ∧ (Instr.atom 0 0 0 0 [1, 0]).wf = true ∧ (Instr.ld kk 0 (.stack 1)).wf = true ∧
    (Instr.audioPacketPlay (badAudio 5 [])).wf = true := by decide

/-- A value of a table is its default or listed. -/
theorem get_listed {α : Type} (d : α) (k : Nat) : ∀ m : Sparse α, Sparse.get d m k ∈ d :: m.map (·.2)
  | [] => List.mem_cons_self
  | (k', v) :: m => by
    have h := get_listed d k m
    unfold Sparse.get
    split
    · simp
    · rcases List.mem_cons.mp h with h | h
      · rw [h]; exact List.mem_cons_self
      · exact List.mem_cons_of_mem _ (List.mem_cons_of_mem _ h)
theorem ctx_listed (s : State) (c : CtxNo) : s.ctx c ∈ Context.reset :: s.ctxs.map (·.2) := get_listed _ _ _

/-- What a frame must be for no Gallery to copy it and no session to stage it, over the contexts that are listed. -/
def plainB (s : State) (f : Nat) : Bool :=
  s.takers f == [f] && (Context.reset :: s.ctxs.map (·.2)).all (fun x =>
    (x.pages.filter (fun e : Nat × PageEntry => e.2.alloc && decide (e.2.home.toNat = s.homeOf f ∧ 3 ≤ e.1 ∧ e.1 < 27))).isEmpty &&
    ((s.titleOf x.title).frames.zipIdx.filter (fun e => decide (e.1.toNat = s.homeOf f))).isEmpty)
theorem plain_of {s : State} {f : Nat} (h : plainB s f = true) : plainFrame s f := by
  simp only [plainB, Bool.and_eq_true, beq_iff_eq, List.all_eq_true, List.isEmpty_iff] at h
  refine ⟨h.1, fun c off => ?_⟩
  have := h.2 _ (ctx_listed s c)
  unfold State.linesOf State.ctxTitle
  rw [this.1, this.2]
  rfl

/-- The same of bytes that HD's agents reach. -/
def plainBytesB (s : State) (a n : Nat) : Bool :=
  (List.range n).all (fun i =>
    let f := (a + i) / 4096
    s.reaches 2 (a + i) && (s.copyOn 0 f).isNone && (s.copyOn 1 f).isNone && (s.frame f).copy.isNone && (s.frame f).home.isNone &&
    (s.statePage f).isNone && (s.image f).isNone && (Context.reset :: s.ctxs.map (·.2)).all (fun x =>
      (x.pages.filter (fun e : Nat × PageEntry => e.2.alloc && decide (e.2.home.toNat = f ∧ 3 ≤ e.1 ∧ e.1 < 27))).isEmpty &&
      ((s.titleOf x.title).frames.zipIdx.filter (fun e => decide (e.1.toNat = f))).isEmpty))
theorem plainBytes_of {s : State} {a n : Nat} (h : plainBytesB s a n = true) : plainBytes s a n := by
  intro i hi
  simp only [plainBytesB, List.all_eq_true, List.mem_range, Bool.and_eq_true, Option.isNone_iff_eq_none, List.isEmpty_iff] at h
  obtain ⟨⟨⟨⟨⟨⟨⟨a1, a2⟩, a3⟩, a4⟩, a5⟩, a6⟩, a7⟩, a8⟩ := h i hi
  refine ⟨a1, a2, a3, a4, a5, a6, a7, fun c o => ?_⟩
  have := a8 _ (ctx_listed s c)
  unfold State.linesOf State.ctxTitle
  rw [this.1, this.2]
  rfl

/-! ### The processors: what is ready, and a few results -/

/-- A Keeper and a session are ready for every instruction of one or two words, whatever it faults on or waits for. -/
theorem test_keeper_ready : kp.Ready kk 1 1 ∧ kp.Ready kk 2 1 ∧ kp.Ready kk 2 2 :=
  ⟨ready_of (by decide +kernel), ready_of (by decide +kernel), ready_of (by decide +kernel)⟩
theorem test_session_ready : sp.Ready ss 1 1 ∧ sp.Ready ss 2 1 ∧ sp.Ready ss 2 2 :=
  ⟨ready_of (by decide +kernel), ready_of (by decide +kernel), ready_of (by decide +kernel)⟩

/-- The operands of a division: by a number that is not 0, and by 0 with DIVZ 1 and so with DIVZ 0. -/
theorem test_divide_operands : (kp.cpu kk).read 2 ≠ 0 ∧ (kp.cpu kk).read 3 = 0 ∧ kp.divz kk = false := by decide +kernel
def kpZ : State := kp.setForce kk 0xFE00 2
theorem test_divide_by_zero_operands : (kpZ.cpu kk).read 3 = 0 ∧ kpZ.divz kk = true := by decide +kernel
theorem test_divide_by_zero_ready : kpZ.Ready kk 1 1 := ready_of (by decide +kernel)

/-- R146: the carry of 3 - 5 and of 0x8000 - 1. -/
theorem test_sub_flags : (subFlags 3 5 false).flags = { z := false, n := true, c := false, v := false } ∧
    (subFlags 0x8000 1 false).flags = { z := false, n := false, c := true, v := true } := by decide

/-- R150: an add that wraps. -/
theorem test_add_wraps : ((after (.addi kk 2 0xF9) kp).cpu kk).w[2] = 0 ∧ ((after (.addi kk 2 0xF9) kp).cpu kk).flags.z = true ∧
    ((after (.addi kk 2 0xF9) kp).cpu kk).flags.c = true := by decide +kernel

/-- R113, R126: a pending write of IE, of IL, of YZ and of a Keeper's register, at the end of its distance and before. -/
def kpMode (n : Nat) (m : ModeTarget) : State := kp.modCpu kk (fun u => { u with modePend := [{ left := n, target := m }] })
theorem test_mode_write_pending (n : Nat) (m : ModeTarget) : ((kpMode n m).cpu kk).modePend = [{ left := n, target := m }] := by
  have h : kp.has kk := trivial
  rw [kpMode, State.cpu_modCpu _ h, if_pos rfl]
theorem test_mode_write_ready : (∀ m ∈ [ModeTarget.ie true, .il 3, .yz true, .io 0xFE00 2], (kpMode 1 m).Ready kk 1 1) ∧
    (kpMode 2 (.ie true)).Ready kk 1 1 := by
  refine ⟨?_, ready_of (by decide +kernel)⟩
  have h : ∀ m ∈ [ModeTarget.ie true, .il 3, .yz true, .io 0xFE00 2], readyB (kpMode 1 m) kk 1 1 = true := by decide +kernel
  exact fun m e => ready_of (h m e)
theorem test_mode_write_takes_effect : ((after (.nop kk) (kpMode 1 (.ie true))).cpu kk).ie = true ∧
    ((after (.nop kk) (kpMode 2 (.ie true))).cpu kk).ie = false := by decide +kernel

/-- R123: an annulled delay slot, and the word after it. -/
def kpSlot : State :=
  kp.modCpu kk (fun u => { u with slot := some { taken := false, target := 0x40, annulled := true } })
theorem test_annulled_slot : (kpSlot.cpu kk).slot = some { taken := false, target := 0x40, annulled := true } ∧
    kpSlot.mayIssue kk = true ∧ (kpSlot.cpu kk).issued = none ∧ (∀ q : Fin 4, kpSlot.ports[q.val].waiting = none) ∧
    ((kpSlot.spendFast kk).cpuUntil kk ((kpSlot.cpu kk).now + 1 + kpSlot.fastExtra kk)).2 = true := by decide +kernel
theorem test_annulled_slot_only_passes : ((after (.add kk 2 (.reg 2)) kpSlot).cpu kk).w[2] = 7 ∧
    ((after (.add kk 2 (.reg 2)) kpSlot).cpu kk).pc = 0x11 := by decide +kernel

/-- R157, R158: a transfer outside a delay slot, and a branch taken after its slot. -/
theorem test_no_delay_slot : (kp.cpu kk).slot = none ∧ (sp.cpu ss).slot = none := by decide +kernel
theorem test_branch_takes_its_slot : ((after (.nop kk) (after (.bra kk false 4) kp)).cpu kk).pc = 0x15 := by decide +kernel

/-- An access comes to its effect and every word of it answers. -/
def loadsB (s : State) (p : Cpu) (m : MemSpace) (d : RegNo) (f : MemForm) : Bool :=
  issuesB s p (s.loadOp p m false d f).len && ((s.cpu p).faultOf (s.loadOp p m false d f)).isNone &&
  (s.effectState p (s.loadOp p m false d f)).isSome &&
  ((atEffect s p (s.loadOp p m false d f)).memLoad p m ((s.cpu p).address f).addr).2 == some 0
def loadsPairB (s : State) (p : Cpu) (m : MemSpace) (d : RegNo) (f : MemForm) : Bool :=
  let o := s.loadOp p m true d f
  let z := (atEffect s p o).firstWord p m ((s.cpu p).address f).addr
  issuesB s p o.len && ((s.cpu p).faultOf o).isNone && (s.effectState p o).isSome &&
  z.2 == some 0 && (z.1.memLoad p m (((s.cpu p).address f).addr + 1)).2 == some 0
def storesB (s : State) (p : Cpu) (m : MemSpace) (pair : Bool) (d : RegNo) (f : MemForm) : Bool :=
  let o := s.storeOp p m pair d f
  let b := atEffect s p o
  issuesB s p o.len && ((s.cpu p).faultOf o).isNone && (s.effectState p o).isSome &&
  (b.storeWords p m (b.wordsLeft p ((s.cpu p).storeList pair d ((s.cpu p).address f).addr))).2

/-- R117, R119, R154, R155: words and pairs in every space, the pairs at an even and at an odd address; the two halves of a split pair
are loaded in two cycles. -/
theorem test_keeper_accesses : loadsB kp kk .d 4 (.indexInc 0) = true ∧ loadsB kp kk .c 4 (.indexInc 0) = true ∧
    loadsPairB kp kk .d 4 (.indexInc 0) = true ∧ loadsPairB kp kk .d 4 (.abs 0x101) = true ∧
    storesB kp kk .d false 2 (.indexInc 0) = true ∧ storesB kp kk .d true 2 (.indexInc 0) = true ∧
    storesB kp kk .d true 2 (.abs 0x101) = true := by decide +kernel
theorem test_session_loads : ∀ m ∈ [MemSpace.d, .v, .s], loadsB sp ss m 4 (.index 0) = true ∧
    loadsPairB sp ss m 4 (.index 0) = true ∧ loadsPairB sp ss m 4 (.abs 0x101) = true := by decide +kernel
theorem test_session_stores : ∀ m ∈ [MemSpace.d, .v, .s], storesB sp ss m false 4 (.index 0) = true ∧
    storesB sp ss m true 4 (.index 0) = true ∧ storesB sp ss m true 4 (.abs 0x101) = true := by decide +kernel

/-- R347: the last word below the I/O window, alone and as the second of a pair. -/
theorem test_keeper_ram : ((kp.cpu kk).address (.abs 0xEFFF)).addr < 0xF000 ∧ ((kp.cpu kk).address (.abs 0xEFFE)).addr < 0xF000 ∧
    (∀ f ∈ [MemForm.abs 0xEFFE, .abs 0x101], ∀ pair, readyB kp kk 2 (kp.storeOp kk .d pair 2 f).cycles = true ∧
      ((kp.cpu kk).faultOf (kp.storeOp kk .d pair 2 f)).isNone = true ∧ readyB kp kk 2 (kp.loadOp kk .d pair 2 f).cycles = true ∧
      ((kp.cpu kk).faultOf (kp.loadOp kk .d pair 2 f)).isNone = true) := by decide +kernel
theorem test_keeper_stores_its_word : ramWord (after (.st kk 2 (.indexInc 0)) kp) 1 0x100 = 7 ∧
    ((after (.st kk 2 (.indexInc 0)) kp).cpu kk).x[0] = 0x101 := by decide +kernel

/-- R66, R178: a page with its Gallery copy, of good parity, and its last word. -/
theorem test_resident_page : sp.ctxDie cc = some 0 ∧ (sp.page cc 3).alloc = true ∧ (sp.page cc 3).cow = false ∧
    (sp.page cc 3).gcopy = true ∧ 2047 < 2048 ∧ sp.badIn (galleryFrame 0 (sp.page cc 3).gframe.toNat) 2047 1 = false := by decide +kernel
theorem test_session_stores_its_word :
    (after (.st ss 15 (.index 0)) sp).sesD cc none (fun x => x.stagedWord 4 0) = some 0xB080 := by decide +kernel

/-- R135: a ring of four words at 0x10. -/
theorem test_index_ring : advanceIndex 0x10 4 1 0x13 1 = 0x10 ∧ advanceIndex 0x10 4 1 0x10 (-1) = 0x13 ∧
    advanceIndex 0x10 4 1 0x14 1 = 0x15 := by decide

/-- R149, R157: PUSH, POP, CALL and RET of a Keeper and of a session: each comes to its effect, and its stack answers. -/
def opB (s : State) (p : Cpu) (o : Op) : Bool :=
  issuesB s p o.len && ((s.cpu p).faultOf o).isNone && (s.effectState p o).isSome
def pushB (s : State) (p : Cpu) (r : RegNo) : Bool :=
  opB s p (s.pushOp p r) && ((atEffect s p (s.pushOp p r)).dStore p ((s.cpu p).read 15 - 1).toNat ((s.cpu p).read r)).2
def popB (s : State) (p : Cpu) (r : RegNo) : Bool :=
  opB s p (s.popOp p r) && ((atEffect s p (s.popOp p r)).dLoad p ((s.cpu p).read 15).toNat).2 == some 0
theorem test_push_and_pop : (pushB kp kk 2 && popB kp kk 2 && pushB sp ss 2 && popB sp ss 2) = true ∧
    ((kp.cpu kk).read 15 - 1).toNat < 0xF000 ∧ ((kp.cpu kk).read 15).toNat < 0xF000 ∧ (2 : RegNo) ≠ 15 := by decide +kernel
def callB (s : State) (p : Cpu) (tg : CallTarget) (m : Word) (n : Nat) : Bool :=
  let o := s.callOp p false tg m
  let l := (atEffect s p o).lenAt p ((s.cpu p).after 2)
  opB s p o && l.2 == some n && (l.1.storeWords p .d ((s.cpu p).callList m n)).2
def retB (s : State) (p : Cpu) (m : Word) : Bool :=
  let o := s.retOp p false m
  opB s p o && ((atEffect s p o).loadWords p ((s.cpu p).retAddrs m)).2.isSome
theorem test_call_and_return : (callB kp kk (.rel 9) 0x7C 1 && retB kp kk 0x7C && callB sp ss (.reg 3) 0x7C 1 && retB sp ss 0x7C) = true := by
  decide +kernel
theorem test_stack_in_work_ram : ∀ e ∈ [(kp, kk), (sp, ss)], stackFits (e.1.cpu e.2) e.2 0x7C (((e.1.cpu e.2).callList 0x7C 1).map (·.1)) ∧
    stackFits (e.1.cpu e.2) e.2 0x7C ((e.1.cpu e.2).retAddrs 0x7C) ∧
    (e.1.lenAt e.2 ((e.1.cpu e.2).after 2)).2 = some 1 ∧ ((e.1.begins e.2 2).lenAt e.2 ((e.1.cpu e.2).after 2)).2 = some 1 ∧
    (((e.1.begins e.2 2).lenAt e.2 ((e.1.cpu e.2).after 2)).1.storeWords e.2 .d ((e.1.cpu e.2).callList 0x7C 1)).2 = true ∧
    ((e.1.begins e.2 2).loadWords e.2 ((e.1.cpu e.2).retAddrs 0x7C)).2.isSome = true := by
  unfold stackFits
  decide +kernel
theorem test_calls_in_calm : kp.ReadyCalm kk 2 (kp.callOp kk false (.rel 9) 0x7C).cycles ∧ kp.ReadyCalm kk 2 (kp.retOp kk false 0x7C).cycles ∧
    sp.ReadyCalm ss 2 (sp.callOp ss false (.rel 9) 0x7C).cycles ∧ sp.ReadyCalm ss 2 (sp.retOp ss false 0x7C).cycles :=
  ⟨readyCalm_of (by decide +kernel), readyCalm_of (by decide +kernel), readyCalm_of (by decide +kernel), readyCalm_of (by decide +kernel)⟩
theorem test_mask_of_w15 : (0x8000 : Word).getLsbD 15 = true := by decide
theorem test_push_then_pop : ((after (.pop kk 3) (after (.push kk 2) kp)).cpu kk).w[3] = 7 ∧
    ((after (.push kk 2) kp).cpu kk).w[15] = 0x8FFF := by decide +kernel

/-- R136, R158, R161: a session in YZ mode, with a bit form that reads, one that writes and a branch; outside YZ mode, and a Keeper. -/
def spY : State := sp.modCpu ss (fun u => { u with yz := true })
theorem test_bit_forms : (opB spY ss (spY.bitReadOp ss 0x33 statusOp (carryForm (fun _ v => v))) &&
      opB spY ss (spY.bitWriteOp ss 0x33 [] (fun _ => true)) && opB spY ss (spY.bitBranchOp ss 0x33 true false 5)) = true ∧
    ((atEffect spY ss (spY.bitReadOp ss 0x33 statusOp (carryForm (fun _ v => v)))).dLoad ss (bitWord 0x33)).2 = some 0 ∧
    ((atEffect spY ss (spY.bitBranchOp ss 0x33 true false 5)).dLoad ss 3).2 = some 0 ∧
    (let e := atEffect spY ss (spY.bitWriteOp ss 0x33 [] (fun _ => true));
      (e.dLoad ss 3).2 = some 0 ∧ ((e.dLoad ss 3).1.dStore ss 3 8).2 = true) := by decide +kernel
theorem test_bits_in_calm : spY.ReadyCalm ss 2 2 ∧ spY.ReadyCalm ss 2 3 ∧ (spY.cpu ss).yz = true ∧ (spY.cpu ss).slot = none ∧
    ((spY.begins ss 2).dLoad ss 3).2 = some 0 ∧ (((spY.begins ss 2).dLoad ss 3).1.dStore ss 3 8).2 = true :=
  ⟨readyCalm_of (by decide +kernel), readyCalm_of (by decide +kernel), by decide +kernel, by decide +kernel, by decide +kernel,
    by decide +kernel⟩
theorem test_bits_illegal : (sp.cpu ss).yz = false ∧ (kp.cpu kk).yz = false := by decide +kernel
theorem test_bit_is_set : ((after (.btst ss 0x33) (after (.bset ss 0x33) spY)).cpu ss).flags.z = false ∧
    ((after (.btst ss 0x33) spY).cpu ss).flags.z = true := by decide +kernel

/-- R138, R162, R163: a far access that goes, memory that serves it, no line staged of its frame; and accesses that stop: an odd
address, a segment that is not valid, one that is not writable, and an address of no memory. -/
theorem test_far_goes : ∀ write, farGoes kp 1 2 8 4 write 0 0x1000 ∧ farGoes kp 1 2 1 1 write 0 0x1000 := fun _ =>
  ⟨⟨issues_of (by decide +kernel), by decide, by decide, by decide +kernel, fun _ => by decide +kernel⟩,
   ⟨issues_of (by decide +kernel), by decide, by decide, by decide +kernel, fun _ => by decide +kernel⟩⟩
theorem test_far_memory : (kp.cpu kk).farAddr 0 0x1000 = 0x2000 ∧ memoryServes kp 0x2000 4 ∧ readsWell kp 0x2000 4 ∧ memWf kp.mem = true :=
  ⟨by decide +kernel, ⟨by decide, by decide +kernel, 0, by decide +kernel, fun _ => by decide +kernel, by decide +kernel⟩,
    ⟨by decide +kernel, by decide +kernel, by decide +kernel⟩, by decide +kernel⟩
theorem test_far_line : lineClean kp 0x2000 := by
  intro c y tag e hy
  have : kp.ses c = none := by
    show ((Sparse.get Context.reset [] c.toNat).ses) = none
    rfl
  rw [this] at hy
  cases hy
theorem test_far_stops : (0x1001 : Word).toNat % 2 ≠ 0 ∧ (kp.cpu kk).seg[1].getLsbD 0 = false ∧
    ((kp.modCpu kk (fun u => { u with seg := u.seg.set 0 1 })).cpu kk).seg[0].getLsbD 1 = false ∧ 16 < (13 : RegNo).val + 4 ∧
    (5 : RegNo).val + 3 ≤ 16 ∧ (13 : RegNo).val + 3 ≤ 16 ∧ 16 < (14 : RegNo).val + 3 := by decide +kernel
/-- The frame's current copy is on the other die, and the link to it is down. -/
def kpCut : State :=
  { kp with frames := [(2, { FrameRec.free with pool := 1, copy := some (true, 5) }), (galleryFrame 1 5, FrameRec.copyOf 2)]
            links := kp.links.set 2 { up := 0, retraining := 0 } }
theorem test_far_error : farGoes kpCut 1 2 8 4 true 0 0x1000 ∧ (kpCut.cpu kk).farAddr 0 0x1000 = 0x2000 ∧ 0x2000 < rdWindow ∧
    addrDie kpCut.part 0x2000 = some 0 ∧ kpCut.power.dieUp 0 = true ∧ kpCut.routeUp 2 0 = true ∧
    kpCut.memCheck (kpCut.forwardUp 0x2000) 0x2000 4 = some 5 :=
  ⟨⟨issues_of (by decide +kernel), by decide, by decide, by decide +kernel, fun _ => by decide +kernel⟩,
    by decide +kernel, by decide, by decide +kernel, by decide +kernel, by decide +kernel, by decide +kernel⟩

/-! ### Interrupts and timers -/

/-- A Keeper with sources 3 and 4 pending and enabled at level 1, and a state whose sequence has made `n` cycles. -/
def kpInt : State :=
  (kp.modCpu kk (fun u => { u with ie := true })).modInt kk (fun i => { i with pend := 0x18, en := 0xFFFF })
def made (p : Cpu) (n : Nat) (s : State) : State := (cyclesMade p n s).getD s
def entryAt (n : Nat) : State := made kk n (seqBegun kpInt kk (entrySeq kpInt kk (some 3) 1))

theorem test_entry_due : kpInt.entryDue kk = true ∧ kpInt.selected kk = some (3, 1) ∧ (∀ q : Fin 4, kpInt.ports[q.val].waiting = none) ∧
    pushesFit (kpInt.cpu kk) kk ∧ kpInt.cOk kk 2 = true := by
  unfold pushesFit
  decide +kernel
theorem test_entry_made : (cyclesMade kk 4 (seqBegun kpInt kk (entrySeq kpInt kk (some 3) 1))).isSome = true ∧
    (cyclesMade kk 6 (seqBegun kpInt kk (entrySeq kpInt kk (some 3) 1))).isSome = true ∧
    ((entryAt 4).cpu kk).seq.map (fun q => (q.src, q.level)) = some (some 3, 1) ∧
    ((((((entryAt 4).poised kk).1.setLevelOf kk (some 3) 1).cpuPre kk).cpuPost kk).cWord kk (vectorAddr (some 3))).2 = some 0 := by
  decide +kernel
theorem test_entry_enters : ((after (.entry kk) kpInt).cpu kk).w[15] = 0x8FFE ∧ ((after (.entry kk) kpInt).cpu kk).il = 1 ∧
    ramWord (after (.entry kk) kpInt) 1 0x8FFF = 0x10 := by decide +kernel

/-- R140 to R142: a fault below level 7 and at it. -/
def kpTop : State := kp.modCpu kk (fun u => { u with il := 7 })
theorem test_fault : faultIllegal.code < 4096 ∧ faultIllegal.space < 8 ∧ (kp.cpu kk).seq = none ∧ (kp.cpu kk).halted = false ∧
    (kp.cpu kk).level ≠ 7 ∧ (kpTop.cpu kk).level = 7 ∧ (kpTop.cpu kk).seq = none ∧ (kpTop.cpu kk).halted = false ∧
    pushesFit (kp.cpu kk) kk ∧ kp.cOk kk 1 = true ∧ (kp.cWord kk 1).2 = some 0 := by
  unfold pushesFit
  decide +kernel
theorem test_fault_enters : ((after (.mtseg ss 0 3) sp).cpu ss).il = 7 ∧ ((after (.mtseg kk 0 14) kpTop).cpu kk).halted = true := by
  decide +kernel

/-- R172, R173: a RETI whose stack holds ST and the return address; one that chains source 3. -/
def kpRet : State := ((kp.dStore kk 0x9000 0x0020).1.dStore kk 0x9001 0x0123).1
def kpChain : State :=
  (((kp.dStore kk 0x9000 0x0010).1.dStore kk 0x9001 0x0123).1).modInt kk (fun i => { i with pend := 8, en := 8 })
def retSeq : Seq := { kind := .reti, step := 1, src := none, level := 0, ret := 0x9000, st := 0, vec := 0 }
def retBegun (s : State) : State := seqBegun (((s.fetchLine kk 1).1.cpuUntil kk (s.cpu kk).now).1.modCpu kk (fun v => { v with issued := none })) kk retSeq
theorem test_return_issues : ∀ s ∈ [kpRet, kpChain], issuesB s kk 1 = true ∧ (s.cpu kk).slot = none ∧ (s.cpu kk).read 15 = 0x9000 ∧
    (s.firstFault kk false [0x9000, 0x9001]).isNone = true ∧ ((s.fetchLine kk 1).1.cpu kk).waitFor retiOp = 0 ∧
    ((s.fetchLine kk 1).1.cpuUntil kk (s.cpu kk).now).2 = true := by decide +kernel
theorem test_return_made : ∀ s ∈ [kpRet, kpChain], (cyclesMade kk 1 (retBegun s)).isSome = true ∧ (cyclesMade kk 3 (retBegun s)).isSome = true ∧
    (cyclesMade kk 4 (retBegun s)).isSome = true ∧ ((cyclePassed (retBegun s) kk).dLoad kk 0x9000).2.isSome = true ∧
    ((cyclePassed (made kk 1 (retBegun s)) kk).dLoad kk 0x9001).2 = some 0x123 := by decide +kernel
theorem test_return_kinds : ((made kk 3 (retBegun kpRet)).cpu kk).seq.map (·.kind) = some .reti ∧
    (cyclesMade kk 5 (retBegun kpRet)).isSome = true ∧ ((made kk 3 (retBegun kpChain)).cpu kk).seq.map (·.kind) = some .chain ∧
    (cyclesMade kk 6 (retBegun kpChain)).isSome = true ∧
    ((cyclePassed (made kk 4 (retBegun kpChain)) kk).cWord kk (vectorAddr (some 3))).2 = some 0 := by decide +kernel
theorem test_keeper_return : (ramWord kpRet 1 0x9000).getLsbD 4 = false ∧ (0x9000 : Word).toNat < 0xF000 ∧ (0x9001 : Word).toNat < 0xF000 := by
  decide +kernel
theorem test_reti_returns : ((after (.reti kk) kpRet).cpu kk).pc = 0x0123 ∧ ((after (.reti kk) kpRet).cpu kk).il = 1 ∧
    ((after (.reti kk) kpRet).cpu kk).w[15] = 0x9002 ∧ ((after (.reti kk) kpChain).cpu kk).w[15] = 0x9000 := by decide +kernel

/-- R160: a WAIT of a Keeper with no source enabled, and one that a source ends. -/
theorem test_wait_ready : kp.ReadyFor kk Op.nop (atEffect kp kk Op.nop) := readyFor_of (by decide +kernel)
def kpWait (bits : Word) : State := (kp.modCpu kk (fun u => { u with waiting := true })).modInt kk (fun i => { i with pend := bits, en := bits })
theorem test_wait_states : (kp.int kk).en = 0 ∧ ((kpWait 0).int kk).en = 0 ∧ (kpWait 0).active kk = true ∧ ((kpWait 0).cpu kk).waiting = true ∧
    (kpWait 8).active kk = true ∧ ((kpWait 8).cpu kk).waiting = true ∧ (kpWait 8).waitOver kk = true := by decide +kernel
theorem test_wait_ends : ((after (.waitEnd kk 0) (kpWait 8)).cpu kk).waiting = false ∧
    ((after (.waitEnd kk 5) (kpWait 0)).cpu kk).now = (kp.cpu kk).now + 5 := by decide +kernel

/-- R142, R166, R175, R176: stores of the interrupt registers by a processor that executes and by one that does not; a session's timer
armed at a line and at a frame; a Keeper's timer that expires. -/
theorem test_interrupt_stores : kp.storeReady kk = true ∧ sp.storeReady ss = true ∧ (sp.ses cc).isSome = true ∧ (1 : Word).getLsbD 0 = true ∧
    (kp.modCpu kk (fun u => { u with halted := true })).storeReady kk = false := by decide +kernel
def armedX (start : Nat) (v : Nat) : Session :=
  { sess with int := { sess.int with t0 := { TimerSt.zero with ctrl := BitVec.ofNat 16 (1 + 8 * start), armed := true } }, vcyc := v }
def spTimer (start v : Nat) : State := sp.modSes cc (fun _ => armedX start v)
theorem test_timer_armed : ∀ e ∈ [(1, 200000), (2, 0)], (spTimer e.1 e.2).ses cc = some (armedX e.1 e.2) ∧ (spTimer e.1 e.2).live cc = true ∧
    ((armedX e.1 e.2).int.timer 0).en = true ∧ ((armedX e.1 e.2).int.timer 0).armed = true ∧
    ((armedX e.1 e.2).int.timer 0).start = BitVec.ofNat 2 e.1 ∧ (armedX e.1 e.2).vcyc % (armedX e.1 e.2).cpl = 0 := by decide +kernel
def kpTimer (en : Word) : State := (kp.modCpu kk (fun u => { u with waiting := true })).modInt kk (fun i =>
  { i with en := en, t0 := { TimerSt.zero with ctrl := 1, reload := 5, count := 1 } })
theorem test_timer_running : ((kpTimer 0).active kk = true ∧ ((kpTimer 0).cpu kk).waiting = true ∧
      (((kpTimer 0).int kk).timer 0).running = true ∧ (kpTimer 0).waitOver kk = false ∧ ((kpTimer 0).int kk).t1.chain = false ∧
      ((kpTimer 0).int kk).en = 0) ∧
    (kpTimer 0x800).active kk = true ∧ ((kpTimer 0x800).cpu kk).waiting = true ∧ (((kpTimer 0x800).int kk).timer 0).running = true ∧
    (kpTimer 0x800).waitOver kk = false ∧ ∀ i : Fin 16, i.val ≠ 11 → ((kpTimer 0x800).int kk).en.getLsbD i.val = false := by decide +kernel
theorem test_timer_expires : ((after (.timerExpiry kk 0) (kpTimer 0)).int kk).pend.getLsbD 11 = true ∧
    ((after (.timerExpiry kk 0) (kpTimer 0x800)).cpu kk).waiting = false := by decide +kernel

/-! ### Contexts -/

/-- A context at its reset values but for the fields a program sets before CREATE. -/
def ctxNew : Context :=
  { Context.reset with title := 3, vclk := 15720000, envH := 320, envV := 240, periodFx := 1092266666667, lead := 3 }

/-- Besides the running context: 6 FREE, 7 SUSPENDED with its mirror, 8 EXPORTED, 9 QUARANTINED; slot 4 has a schedule. -/
def cs : State :=
  { sp with
    ctxs := [(5, ctx5), (6, ctxNew),
      (7, { ctxNew with state := .suspended, keepMirror := true, pages := mirrorPages.map (fun i => (i, resident i)) }),
      (8, { ctxNew with state := .exported }), (9, { ctxNew with state := .quarantined })]
    titles := (0, { state := 1, cPages := 1, dPages := 0, list := 0, frames := [900] }) :: sp.titles } |>.setReg (schAddr 4 0x10)
      1344973483 |>.setReg (schAddr 4 0x11) 1344973483 |>.setReg (schAddr 4 0x14) 254

theorem test_port_free : ∀ p : Fin 4, cs.portFree p = true := by decide +kernel
theorem test_transition_states : (cs.ctx 5).state = .running ∧ (cs.ctx 7).state = .suspended ∧ (cs.ctx 8).state = .exported ∧
    (cs.ctx 9).state = .quarantined ∧ (cs.titleOf (cs.ctx 9).title).state ≠ 2 ∧
    cs.manifestOk 0x1000 (48 + 16 * (cs.ctx 7).mapped) = true ∧ cs.manifestOk 0x1001 (48 + 16 * (cs.ctx 7).mapped) = false := by
  decide +kernel
theorem test_retire_moves : ((after (.retire 2 7) cs).ctx 7).state = .retiring ∧ (after (.retire 2 7) cs).ports[2].busy = true := by
  decide +kernel
theorem test_create_takes : (cs.ctx 6).state = .free ∧ cs.titleReady (cs.ctx 6).title = true ∧
    startTiming (cs.ctx 6) = some [400, 320, 262, 240, 1000] ∧
    ∃ s1, cs.takePages 6 none (statePages (cs.ctx 6).profile) = some s1 := by
  refine ⟨by decide +kernel, by decide +kernel, by decide +kernel, ?_⟩
  obtain ⟨t, h, -⟩ := State.takePages_some (s := cs) (die := none) 6 (statePages (cs.ctx 6).profile)
    (by decide +kernel) (by decide +kernel) (by decide +kernel) (by decide +kernel)
  exact ⟨t, h⟩
theorem test_admit_takes : cs.admitCheck (cs.ctx 7) 4 = 0 ∧ (cs.reserve 7 4 (cs.ctx 7).grand).isSome = true := by decide +kernel

/-- The states a SNAPSHOT and a FORK of context 7 take their pages in. -/
def shotFrom : State := (cs.modPort 1 (fun q => { q with prior := some (cs.ctx 6) })).modCtx 6
  ((cs.ctx 7).inherit ((cs.ctx 7).mirrorCopied false))
def forkFrom : State := (cs.modPort 1 (fun q => { q with prior := some (cs.ctx 6) })).modCtx 6 ((cs.ctx 7).inherit false)
theorem test_snapshot_takes : ∃ s1, shotFrom.takePages 6 none ((cs.ctx 7).copiedPages ((cs.ctx 7).mirrorCopied false)) = some s1 := by
  obtain ⟨t, h, -⟩ := State.takePages_some (s := shotFrom) (die := none) 6
    ((cs.ctx 7).copiedPages ((cs.ctx 7).mirrorCopied false)) (by decide +kernel) (by decide +kernel) (by decide +kernel) (by decide +kernel)
  exact ⟨t, h⟩
theorem test_fork_takes : ∃ s1 s2, forkFrom.takePages 6 none ((cs.ctx 7).copiedPages false) = some s1 ∧
    (s1.setRoot 6).reserve 6 4 (cs.ctx 7).grand = some s2 := by
  have pages : (cs.ctx 7).copiedPages false = [0] := by decide +kernel
  obtain ⟨t, h, kept, len, rest⟩ := State.takePages_some (s := forkFrom) (die := none) 6 [0] (by decide +kernel) (by decide +kernel)
    (by decide +kernel) (by decide +kernel)
  have frames : t.frames.length ≤ 9 := len
  have bare : ∀ i ∈ mirrorPages, (forkFrom.page 6 i).alloc = false := by decide +kernel
  have part : poolSize (t.setRoot 6).part (slotDie 4) = poolSize forkFrom.part 0 := congrArg (poolSize · 0) kept.part
  have regs : ((t.setRoot 6).clearSlotRegs 4).poolReserve (slotDie 4) = (forkFrom.clearSlotRegs 4).poolReserve 0 := by
    show State.poolReserve _ 0 = _
    simp only [State.poolReserve, State.regN, State.reg, State.clearSlotRegs_regs 4 (s := t.setRoot 6) (t := forkFrom) kept.regs]
  obtain ⟨u, hu⟩ := State.reserve_some (s := t.setRoot 6) (c := 6) (k := 4)
    (fun i hi => by
      have root : (t.setRoot 6).page 6 i = t.page 6 i := by
        rw [State.page, State.setRoot, State.ctx_modCtx, if_pos rfl]
        rfl
      have ne : i ∉ [0] := by
        intro e
        rw [List.mem_singleton.mp e] at hi
        exact absurd hi (by decide)
      rw [root, rest i ne]
      exact bare i hi)
    (by rw [show (t.setRoot 6).poolListed (slotDie 4) = forkFrom.poolListed 0 from kept.poolListed 0]; decide +kernel) (by decide)
    (by rw [show (t.setRoot 6).poolUsable (slotDie 4) = forkFrom.poolUsable 0 from kept.poolUsable 0]; decide +kernel)
    (by
      rw [regs, part]
      have a : (forkFrom.clearSlotRegs 4).poolReserve 0 + 9 + 8 ≤ poolSize forkFrom.part 0 := by decide +kernel
      have b : (t.setRoot 6).frames.length ≤ 9 := frames
      omega)
  have grand : (cs.ctx 7).grand = false := by decide +kernel
  exact ⟨t, u, by rw [pages]; exact h, by rw [grand]; exact hu⟩

/-- A manifest of no pages at 0x1000. -/
theorem test_import_takes : (((cs.ctx 6).takeWord 0 (ofBytesBE (cs.agentBytes cs.curatorDie 0x1000 8))).title) = 0 ∧
    cs.titleReady 0 = true ∧ cs.manifestPages 0x1000 = [] ∧ cs.manifestOk 0x1000 48 = true ∧ (cs.importBad 0x1000).isNone = true := by
  decide +kernel
theorem test_import_pages (x : Context) : (cs.setCtx 6 x).importPages 6 [] = some (cs.setCtx 6 x) := rfl

/-- R38, R39: a command to a port that is busy, and one that fails its checks. -/
theorem test_command_fails : cs.portFree 0 = true ∧ (after (.suspend 0 8) cs).ports[0].result = 1 ∧
    (after (.suspend 0 8) cs).portFree 0 = false := by decide +kernel

/-- Ports that wait for the end of a command. -/
def ending (c : CtxNo) (op : Byte) (s : State) : State :=
  s.modPort 0 (fun q => { q with busy := true, waiting := some (c, op) })
theorem test_ends : (cs.modPort 0 (fun q => { q with busy := true })).ports[0].waiting = none ∧
    ∀ op ∈ [(1 : Byte), 3, 6, 7, 8, 9], (ending 7 op cs).ports[0].busy = true ∧ (ending 7 op cs).ports[0].waiting = some (7, op) := by
  decide +kernel
def drainedState : State :=
  ending 5 3 ((cs.modCtx 5 (fun x => { x with state := .suspending })).modSlot 0 (fun y =>
    { y with stopped := true, codedF := 1 }))
theorem test_suspend_ends : drainedState.drained 5 = true ∧
    ((after (.commandDone 0) drainedState).ctx 5).state = .suspended := by decide +kernel
theorem test_export_and_retire_end : (ending 7 6 cs).beingFilled 7 = false ∧ (ending 7 9 cs).retireReady 7 = true ∧
    (ending 7 9 cs).beingFilled 7 = false := by decide +kernel

/-- The manifest of context 7 goes to memory that no Gallery copies and no session stages. -/
theorem test_export_target : (ending 7 6 cs).ports[0].args[0] = 0 ∧ (ending 7 6 cs).ports[0].args[1] = 0 ∧
    ((ending 7 6 cs).manifest 7).length ≤ 4096 ∧
    (ending 7 6 cs).reachesAll (ending 7 6 cs).curatorDie 0 ((ending 7 6 cs).manifest 7).length = true ∧ plainFrame (ending 7 6 cs) 0 :=
  ⟨by decide +kernel, by decide +kernel, by decide +kernel, by decide +kernel, plain_of (by decide +kernel)⟩

/-- R35, R36: entry writes in FREE and in RUNNING; bit 57 of word 0. -/
theorem test_entry_write_states : cs.power.mode ≠ .off ∧ (cs.ctx 6).state = .free ∧ (cs.ctx 5).state ≠ .free ∧
    (cs.ctx 5).state ≠ .suspended ∧ (0x0200000000000000 : BitVec 64).getLsbD 57 = true := by decide +kernel

/-- R107: a candidate passes, and so does the first that does; a context that is not SUSPENDED passes nowhere. -/
theorem split_at_first {α : Type} (f : α → Nat) (l : List α) (h : ∃ k ∈ l, f k = 0) :
    ∃ a k b, l = a ++ k :: b ∧ f k = 0 ∧ ∀ j ∈ a, f j ≠ 0 := by
  induction l with
  | nil => simp at h
  | cons x xs ih =>
    by_cases hx : f x = 0
    · exact ⟨[], x, xs, rfl, hx, by simp⟩
    · obtain ⟨a, k, b, rfl, hk, ha⟩ := ih (by obtain ⟨k, hk, e⟩ := h; rcases List.mem_cons.mp hk with rfl | hk <;> [exact absurd e hx; exact ⟨k, hk, e⟩])
      exact ⟨x :: a, k, b, rfl, hk, by intro j hj; rcases List.mem_cons.mp hj with rfl | hj <;> [exact hx; exact ha j hj]⟩
theorem slot_is_candidate : 4 ∈ cs.candidates false := by
  simp only [State.candidates, State.coreOrder, List.mem_flatMap, List.mem_map, List.mem_mergeSort, List.mem_filter]
  exact ⟨0, by decide +kernel, 0, ⟨0, by decide, rfl⟩, 4, by decide, rfl⟩
theorem test_placement : cs.portsUp = true ∧ ∃ l k r, cs.candidates (cs.ctx 7).profile = l ++ k :: r ∧
    cs.admitCheck (cs.ctx 7) k = 0 ∧ ∀ j ∈ l, cs.admitCheck (cs.ctx 7) j ≠ 0 :=
  ⟨by decide +kernel, split_at_first _ _ ⟨4, slot_is_candidate, by decide +kernel⟩⟩
def csAttended : State := { cs with power := { cs.power with mode := .attended } }
theorem test_no_placement : ∃ l k, csAttended.candidates (csAttended.ctx 7).profile = l ++ [k] ∧
    ∀ j ∈ l ++ [k], csAttended.admitCheck (csAttended.ctx 7) j ≠ 0 := by
  have fails : ∀ x j, csAttended.admitCheck x j ≠ 0 := by
    intro x j
    have hm : (csAttended.power.mode == .serving) = false := rfl
    unfold State.admitCheck
    simp only [hm, Bool.false_and, Bool.not_false, if_true]
    split <;> decide
  have some : csAttended.candidates (csAttended.ctx 7).profile ≠ [] :=
    List.ne_nil_of_mem (a := 4) (by
      simp only [State.candidates, State.coreOrder, List.mem_flatMap, List.mem_map, List.mem_mergeSort, List.mem_filter]
      exact ⟨0, by decide +kernel, 0, ⟨0, by decide, rfl⟩, 4, by decide +kernel, rfl⟩)
  exact ⟨_, _, (List.dropLast_append_getLast some).symm, fun j _ => fails _ j⟩

/-! ### The Beam Scheduler -/

/-- R101, R103, R110: a slip record and a halt record wait. -/
def spRecords : State := { sp with slipFifo := sp.slipFifo.set 0 [0x80000005, 0x80000006], haltFifo := sp.haltFifo.set 1 [0x80000007] }
theorem test_records : sp.portsUp = true ∧ spRecords.portsUp = true ∧ spRecords.slipFifo[0] = [0x80000005, 0x80000006] ∧
    spRecords.slipFifo[1] = [] ∧ spRecords.haltFifo[0] = [] ∧ spRecords.haltFifo[1] = [0x80000007] := by decide +kernel
theorem test_books_fit : ∀ d < 2, max (sp.cnt (bookAddr d 0)) (sp.cnt (bookAddr d 1) + sp.cnt (bookAddr d 2)) < 2 ^ 64 := by
  decide +kernel

/-- R107, R108: a slot whose session has a least period, written above it, below it and with 0; and a slot that is not held. -/
def spLeast : State := sp.modCtx 5 (fun x => { x with periodFx := 1092266666667 })
theorem test_periods : spLeast.power.hub = true ∧ spLeast.slotHeld 0 = true ∧ spLeast.slotHeld 1 = false ∧
    (spLeast.ctx (spLeast.slotCtx 0)).periodFx.toNat = 1092266666667 ∧
    spLeast.regN (schAddr 0 0x10) + 2 ^ 32 * (255 : BitVec 12).toNat ≥ 1092266666667 ∧
    spLeast.regN (schAddr 0 0x10) + 2 ^ 32 * (1 : BitVec 12).toNat < 1092266666667 ∧
    spLeast.regN (schAddr 0 0x10) + 2 ^ 32 * (0 : BitVec 12).toNat = 0 := by decide +kernel
theorem test_period_commits : ((after (.periodCommit 0 255) spLeast).slot 0).periodPend = some (255 * 2 ^ 32) ∧
    ((after (.periodCommit 0 1) spLeast).slot 0).periodPend = none := by decide +kernel

/-- R94: frame 5 enters the horizon once its release instant lies within LEAD_NOW band times. -/
def spLater : State := { sp with clock := { sp.clock with time := 10000000000 } }
theorem test_horizon : sp.admitted cc = true ∧ sp.heldSlot cc = some 0 ∧
    ¬ ((sp.releaseOf cc 5 0).2 ≤ sp.clock.time + 0) ∧ (spLater.releaseOf cc 5 0).2 ≤ spLater.clock.time ∧
    (sp.slot 0).leadNow = 0 ∧ (sp.slot 0).horizonF = 5 := by decide +kernel
theorem test_horizon_moves : ((after (.horizonEntry cc) spLater).slot 0).horizonK = 1 := by decide +kernel

/-- R91, R104: a session that stands at the boundary of line 200, RUNNING, SUSPENDING and RETIRING. -/
def atBoundary (st : CtxState) : State :=
  sp.modCtx 5 (fun x => { x with state := st, ses := some { sess with lastBoundary := some (0, 196) } })
theorem test_boundary_due : ∀ st ∈ [CtxState.running, .suspending, .retiring], (atBoundary st).boundaryDue cc = true ∧
    (atBoundary st).heldSlot cc = some 0 ∧ ∀ p : Fin 4, (atBoundary st).ports[p.val].waiting = none := by decide +kernel
theorem test_boundary_acts : (atBoundary .running).live cc = true ∧
    ((after (.bandBoundary cc) (atBoundary .suspending)).slot 0).stopped = true ∧
    (after (.bandBoundary cc) (atBoundary .running)).sesD cc none (·.lastBoundary) = some (0, 200) := by decide +kernel

/-- R93, R102: band 0 of frame 0 at its deadline: of a frame without video; coded; and slipped under REPEAT and STRETCH. -/
def tested (str ctrl : Reg32) (coded : Nat) : State :=
  spLater.modSlot 0 (fun y => { y with strLog := [(0, 0, str)], ctrlEff := ctrl, codedF := coded })
theorem test_deadline : ∀ s ∈ [tested 0 0 0, tested 1 0 1, tested 1 0 0, tested 1 4 0], s.heldSlot cc = some 0 ∧
    (s.ctx cc).state = .running ∧ s.pastStop cc 0 0 0 = false ∧ testBand s cc 0 = (0, 0) ∧
    (s.releaseOf cc 0 0).2 ≤ s.clock.time + s.guardOf 0 := by decide +kernel
theorem test_deadline_outcomes :
    ((tested 0 0 0).slot 0).kindAt 0 = 0 ∧ ((tested 1 0 1).slot 0).kindAt 0 = 1 ∧ (tested 1 0 1).bandQueued 0 0 0 = true ∧
    (tested 1 0 0).bandQueued 0 0 0 = false ∧ (tested 1 0 0).slipPolicy 0 = 0 ∧ (tested 1 4 0).slipPolicy 0 = 1 ∧
    (tested 1 4 0).bandQueued 0 0 0 = false ∧ (tested 1 0 0).slipFifo[0].length < 256 := by decide +kernel
theorem test_slips : (after (.deadlineTest cc) (tested 1 0 0)).slipFifo[0] = [0x80000000] ∧
    ((after (.deadlineTest cc) (tested 1 4 0)).slot 0).sched.map (·.shifts) = [[0]] := by decide +kernel

/-! ### Bands and lines -/

/-- R99: line 0 of frame 0 may be rendered, and its pages are there. -/
def toRender : State := sp.modSlot 0 (fun y => { y with rendered := 0 })
def atLine0 : State × Bool := toRender.lpgCatchUp cc .beforeNext
theorem test_line_ready : toRender.heldSlot cc = some 0 ∧ toRender.renderReady cc 0 = true ∧ toRender.lineTurn cc 0 = true ∧
    (toRender.slot 0).renderFrame = 0 ∧ (toRender.slot 0).rendered = 0 ∧ toRender.lineBehind cc 0 0 = false ∧
    toRender.ses cc = some sess ∧ lpgRests sess .beforeNext ∧ toRender.bad = [] ∧
    ∀ i ∈ vPages (toRender.lineSrc cc sess 0 0).fetchReads, (toRender.page cc i).alloc = true → (toRender.page cc i).gcopy = true := by
  unfold lpgRests
  decide +kernel
theorem test_line_pages : atLine0.2 = true ∧ atLine0.1.ses cc = some sess ∧
    (atLine0.1.linePages cc 0 (atLine0.1.lineSrc cc sess 0 0)).2 = true := by decide +kernel
theorem test_line_renders : ((after (.lineRender cc) toRender).slot 0).rendered = 1 := by decide +kernel

/-- R293, R303: the bands of a frame without video, of a tile stream and of a plane stream, with every line of frame 0 rendered and
the mirror's pages of its own; one that slipped under REPEAT. -/
def toCode (str : Reg32) : State :=
  (sp.modSlot 0 (fun y => { y with strLog := [(0, 0, str)], renderFrame := 1 })).modCtx cc (fun x =>
    { x with pages := x.pages ++ mirrorPages.map (fun i => (i, resident i)) })
def codable (s : State) (kind : Nat) : Bool :=
  decide (s.heldSlot cc = some 0 ∧ (s.ctx cc).state = .running ∧ codeBand s cc 0 = (0, 0) ∧ (s.slot 0).videoBands.length < 16 ∧
    (s.slot 0).tapMode 0 = 0 ∧ (s.slot 0).kindAt 0 = kind) && s.bandRendered cc 0 0 0
theorem test_band_rendered : (codable (toCode 0) 0 && codable (toCode 1) 1 && codable (toCode 2) 2) = true ∧
    ((toCode 1).slot 0).slipOf 0 0 = none ∧ ((toCode 2).slot 0).slipOf 0 0 = none := by decide +kernel
theorem test_mirror_owned : (toCode 1).bad = [] ∧ (∀ e ∈ ((toCode 1).slot 0).recent, e < 4096) ∧
    ∀ i ∈ mirrorPages, ((toCode 1).page cc i).alloc = true ∧ ((toCode 1).page cc i).gcopy = true ∧ ((toCode 1).page cc i).cow = false := by
  decide +kernel
def slipped0 : State := (toCode 2).modSlot 0 (fun y => { y with slips := [{ frame := 0, band := 0, policy := 0, markerSent := false }] })
theorem test_band_slipped : codable slipped0 2 = true ∧ ((slipped0.slot 0).slipOf 0 0).map (·.policy) = some 0 := by decide +kernel
theorem test_band_codes : ((toCode 2).codeKind cc 0 0 0).isSome = true ∧
    ((after (.bandCode cc) (toCode 0)).slot 0).codedK = 1 := by decide +kernel
theorem test_monitor_copy : (toCode 0).bandRendered cc 0 0 0 = true ∧ (toCode 0).nextActive cc 0 0 = (0, 0) ∧
    (toCode 0).monitor.en = false := by decide +kernel

/-! ### Egress -/

/-- Headers of a player: valid, IPv4, port 0, sub-port 0, local address 0. -/
def flow0 : FlowWords := [0x80000000, 0, 0, 0, 0, 0, 0, 0]
/-- Port 0 in its first mode with sub-port 0 up, local address 0 valid, at an instant past every release. -/
def linked : State :=
  { (((spLater.setReg (ethAddr 0 0) 0x10).setReg (clsBase + 0x100) 0x90000000) |>.setSub 0 0 { SubPort.none with link := true }) with
    clock := { sp.clock with time := 10000000000 } }
/-- An audio packet, a band of one fragment, a slip and a control packet. -/
def audio0 : AudioDesc := { pkt := 0, frame := 0, band := 0, silence := true, samples := [], rel := 5, flow := flow0, late := false, returned := none }
def band0 (late : Bool) : BandDesc :=
  { frame := 0, band := 0, flags := 0, fragments := [[1, 2]], lead := 0, tag := 0, chk := [0], pos := [0], mgen := 0, width := 320
    line0 := 0, nlines := 4, kind := 1, flow := flow0, late := late, sentFragments := 0, returned := none }
def slip0 : Slip := { frame := 0, band := 0, policy := 0, markerSent := false }
def control0 : CtlDesc := { buf := 0x1000, len := 40, pushed := 7, flow := flow0 }
def sending (f : SlotSt → SlotSt) : State := linked.modSlot 0 (fun y => f { y with flowLog := [(0, 0, flow0)] })
def audioReady : State := sending (fun y => { y with audioQ := [audio0] })
def bandReady (late : Bool) : State := sending (fun y => { y with videoQ := [band0 late] })
def markerReady : State := sending (fun y => { y with slips := [slip0] })
def controlReady : State := sending (fun y => { y with controlQ := [control0] })

theorem test_audio_leaves : audioReady.heldSlot cc = some 0 ∧ audioReady.goes 0 (.audio 0) = true ∧
    deliverable audioReady flow0 (audioReady.audioPacket 0 audio0 (audioReady.aseqOf 0)) := by
  unfold deliverable
  decide +kernel
/-- One that is discarded at its instant, and one whose place a packet that waits takes. -/
def lost : AudioDesc := { audio0 with flow := [0, 0] }
theorem test_audio_discarded : (sending (fun y => { y with audioQ := [lost] })).goes 0 (.audio 0) = true ∧
    lost.rel ≤ linked.clock.time ∧ linked.undeliverable lost.flow = true ∧
    (sending (fun y => { y with audioQ := [audio0], audioWait := [lost] })).goes 0 (.audio 0) = true := by decide +kernel
theorem test_band_leaves : ∀ late, (bandReady late).goes 0 (.band 0) = true ∧ (bandReady late).heldSlot cc = some 0 ∧
    (bandReady late).undeliverable flow0 = false ∧
    (bandReady late).fits 0 0 ((bandReady late).sessionFrame flow0
      ((bandReady late).bandPacket 0 (band0 late) 0 ((bandReady late).vseqOf 0))) = true := by decide +kernel
theorem test_band_discarded : (sending (fun y => { y with videoQ := [{ band0 false with flow := [0, 0] }] })).goes 0 (.band 0) = true := by
  decide +kernel
theorem test_marker_leaves : (markerReady.slot 0).nextMarker = some slip0 ∧ markerReady.goes 0 (.marker 0) = true ∧
    (markerReady.slot 0).flowAt 0 0 = flow0 ∧
    markerReady.fits 0 0 (markerReady.sessionFrame flow0
      (markerReady.bandPacket 0 (markerReady.markerDesc 0 slip0) 0 (markerReady.vseqOf 0))) = true := by decide +kernel
theorem test_control_leaves : (controlReady.chooseNext 0 0).map (·.item) = some (.control 0) ∧ controlReady.bad = [] ∧
    controlReady.undeliverable flow0 = false ∧
    controlReady.fits 0 0 (controlReady.sessionFrame flow0 (controlReady.agentBytes 2 0x1000 40)) = true := by decide +kernel

/-! ### A session's units -/

/-- The session of the tests changed, on the device. -/
def spx (f : Session → Session) : State := sp.modSes cc f
theorem spx_ses (f : Session → Session) : (spx f).ses cc = some (f sess) := rfl

/-- R208 to R211: neither instant is due; the vertical-blank instant is, with PENDING 0 and 1; the LINE compare is. -/
def atBlank (pending : Nat) (x : Session) : Session := { x.setIo 0xF009 pending with vcyc := 241000, lastBoundary := some (0, 240) }
def atLine (x : Session) : Session :=
  { (x.setIo 0xF018 100).setIo 0xF019 5 with lineRaised := false, cpu := { x.cpu with now := 10 } }
theorem test_no_event_due : (spx id).live cc = true ∧ (spx id).programs cc = true ∧ sess.vblankDue = false ∧ sess.lineDue = false ∧
    sess.undo = [] ∧ (spx (fun x => { x with cpu := { x.cpu with halted := true } })).programs cc = false := by decide +kernel
theorem test_vblank_due : ∀ n ∈ [0, 256], (spx (atBlank n)).live cc = true ∧ (atBlank n sess).vblankDue = true ∧
    (atBlank n sess).undo = [] ∧ ((atBlank n sess).ioW 0xF009).getLsbD 8 = decide (n = 256) := by decide +kernel
theorem test_line_due : (spx atLine).live cc = true ∧ (atLine sess).lineDue = true := by decide +kernel
theorem test_line_raised : (after (.lineCompare cc) (spx atLine)).sesD cc 0 (·.int.pend) = 2 := by decide +kernel
theorem test_palette_read : ((spx id).lpgCatchUp cc .last).2 = true ∧ (((spx id).lpgCatchUp cc .last).1.sesD cc [] (·.undo)) = [] ∧
    (((spx id).lpgCatchUp cc .last).1.ses cc).isSome = true ∧ lpgRests sess .last := by
  unfold lpgRests
  decide +kernel
theorem test_palette_write : (after (.paletteWrite cc 0x1234) (spx (fun x => (x.setIo 0xF640 511).setIo 0xF642 0x56))).sesD cc (0, 0)
    (fun x => (x.palEntry 511, x.ioN 0xF640)) = (0x561234, 0) := by decide +kernel

/-- R212: a frame's start, with the sequencer enabled and not. -/
def lpgEnable (n : Nat) (x : Session) : Session := { x.setIo 0xF500 n with lpg := { x.lpg with frame := 0 }, vcyc := 1, lastBoundary := some (0, 0) }
theorem test_lpg_start : ∀ n ∈ [0, 1], (spx (lpgEnable n)).live cc = true ∧ (lpgEnable n sess).lpgDue .last = false ∧
    (lpgEnable n sess).lpgStartDue .last = true ∧ ((lpgEnable n sess).valueAt .io 0xF500 0 0 0).testBit 0 = decide (n = 1) := by
  decide +kernel

/-- R213, R214: the sequencer stands at line 10, dot 20 of frame 0 before an entry. -/
def atEntry (w0 w1 : Word) : State :=
  let s := spx (fun x => { x with lpg := { running := true, bank := 0, pc := 0, lc := 0, frame := 1, line := 10, dot := 20 } })
  (s.setWord (galleryFrame 0 43 * 4096) w0).setWord (galleryFrame 0 43 * 4096 + 2) w1
def entryDue (w : Word) : Bool :=
  let s := atEntry w 0x22
  let r := s.lpgPair cc 0
  s.live cc && s.sesD cc false (·.lpgDue .last) && r.2 == some (w, 0x22) && (r.1.ses cc).isSome &&
  [0, 1, 0x22, 0x23].all (fun a => (s.page cc (vPage 0 a)).gcopy) && s.bad.isEmpty
theorem test_lpg_entries : [(0 : Word), 0x6000, 0x1014, 0x1805, 0x2500].all entryDue = true := by decide +kernel
theorem test_lpg_more_entries : [(0x2101 : Word), 0x3001, 0x3801, 0x4003, 0x5000].all entryDue = true := by decide +kernel
theorem test_wreg_target : (ioDesc false 0xF101).rw = 0xFFFF ∧ (ioDesc false 0xF101).w1c = 0 := by decide +kernel
theorem test_lpg_wait_moves : (after (.lpgWait cc) (atEntry 0x1014 0x22)).sesD cc (0, 0) (fun x => (x.lpg.line, x.lpg.dot)) = (20, 34) := by
  decide +kernel
theorem test_lpg_loop_counts : (after (.loop cc) (atEntry 0x4003 0x22)).sesD cc (0, 0) (fun x => (x.lpg.pc.toNat, x.lpg.lc.toNat)) = (34, 2) := by
  decide +kernel
theorem test_lpg_reads : let s := atEntry 0x3001 0x22
    ((s.lpgPair cc 0).1.lpgPair cc 0x22).2 = some (0, 0) ∧ ((s.lpgPair cc 0).1.lpgWord cc 0x22).2 = some 0 ∧
    (((s.lpgPair cc 0).1.lpgPair cc 0x22).1.ses cc).isSome = true := by decide +kernel

/-- R250 to R262: voices of a Classic session, and a due sample. -/
def sampleDue (x : Session) : Session := { x with snd := { x.snd with due := [5] }, unitAt := 6, cpu := { x.cpu with now := 6 } }
theorem test_sound : (spx id).programs cc = true ∧ sess.dueBefore (sess.cpu.now - 1) = false ∧ ((spx id).mixDueBefore cc (sess.cpu.now - 1)).ses cc = some sess ∧
    sess.voiceCount = 16 ∧ (0x8000 : Word).getLsbD 15 = true ∧ (0x4000 : Word).getLsbD 14 = true ∧ sess.grand = false := by
  decide +kernel
theorem test_sample_due : ((spx sampleDue).heldSlot cc).isSome = true ∧ (sampleDue sess).snd.due = [5] ∧
    (sampleDue sess).ioN 0xFAC6 < 2 ∧ (spx sampleDue).audioTurn cc 0 = true ∧ 5 < (sampleDue sess).unitAt ∧
    ((spx sampleDue).bringSample cc 5 (sampleDue sess)).2 = true ∧
    ((spx sampleDue).bringSample cc 5 (sampleDue sess)).1.ses cc = some (sampleDue sess) ∧
    ∀ e ∈ (sampleDue sess).auxReads ++ (sampleDue sess).voiceReads, ((spx sampleDue).page cc (sPage e.1 (e.2 % 65536))).alloc = true →
      ((spx sampleDue).page cc (sPage e.1 (e.2 % 65536))).gcopy = true := by decide +kernel
theorem test_sample_mixed : (after (.audioSample cc) (spx sampleDue)).sesD cc 0 (·.snd.samples) = 1 := by decide +kernel

/-- R242 to R247: a fill of 4 by 2 pixels at 0; GO refused; an abort before and within a burst; a burst that lands. -/
def fillParams (x : Session) : Session := [(0xF801, 1), (0xF807, 4), (0xF80A, 4), (0xF80B, 2)].foldl (fun y e => y.setIo e.1 e.2) x
def fillBlit : Blit := (fillParams sess).blitParams 0
def blitting (l : Option (List (Nat × Word × Word))) (x : Session) : Session :=
  { fillParams x with blit := some { fillBlit with latched := l }, cpu := { x.cpu with now := fillBlit.land + 1 }, unitAt := fillBlit.land
                      unitPre := true }
theorem test_blit_go : (spx fillParams).live cc = true ∧ (spx fillParams).programs cc = true ∧ (fillParams sess).blit = none ∧ (fillParams sess).blitEnd = 0 ∧
    ((fillParams sess).blitParams 0).refused = false ∧ ((fillParams sess).setIo 0xF801 0xD |>.blitParams 0).refused = true ∧ fillBlit.bursts ≠ 0 := by decide +kernel
theorem test_blit_burst : let s := spx (blitting (some [(0, 7, 0xFFFF)]))
    s.live cc = true ∧ s.idles cc = false ∧ (s.blitWords cc 0 fillBlit.land [(0, 7, 0xFFFF)]).2 = true ∧
    (s.blitWords cc 0 fillBlit.land [(0, 7, 0xFFFF)]).1.sesD cc false (fun z => decide (z.dmaAct = none ∧ z.dma = sess.dma ∧
      z.unitAt = fillBlit.land) && z.blit == some { fillBlit with latched := some [(0, 7, 0xFFFF)] }) = true := by decide +kernel
theorem test_blit_states : unitsReach (blitting none sess) fillBlit.land ∧ (∀ n, (sess.ch n).phase = .off) ∧ sess.dmaAct = none := by
  refine ⟨⟨rfl, rfl, rfl⟩, by decide +kernel, rfl⟩
theorem test_blit_abort : (spx (blitting none)).programs cc = true ∧ (spx (blitting (some []))).programs cc = true := by decide +kernel
theorem test_blit_pages : sp.bad = [] ∧ sess.vjournal.length + 1 ≤ 4096 ∧ (sp.page cc (vPage fillBlit.dbank 0)).alloc = true ∧
    (sp.page cc (vPage fillBlit.dbank 0)).gcopy = true ∧ (sp.page cc (vPage fillBlit.dbank 0)).cow = false ∧ fillBlit.last = false := by
  decide +kernel

/-- R278, R281, R283: settings that pass and that do not, a ring and a stream. -/
def ringSet (base : Nat) (x : Session) : Session := (x.setIo (dmaReg 0 1) base).setIo (dmaReg 0 2) 4
def streamSet (x : Session) : Session := [(dmaReg 2 1, 0x100), (dmaReg 2 2, 8), (dmaReg 2 5, 16), (dmaReg 2 7, 4)].foldl
  (fun y e => y.setIo e.1 e.2) x
theorem test_dma_enable : (spx (ringSet 0x100)).live cc = true ∧ (spx (ringSet 0x100)).programs cc = true ∧ ¬ chEn (ringSet 0x100 sess) 0 ∧
    ((ringSet 0x100 sess).ch 0).phase = .off ∧ (1 : Word).getLsbD 0 = true ∧ (1 : Word).getLsbD 2 = false ∧
    (ringSet 0x100 sess).ioN (dmaReg 0 1) + 8 * ringEntries ((ringSet 0x100 sess).ioN (dmaReg 0 2)) ≤ 0xC000 ∧
    0xC000 < (ringSet 0xBFF0 sess).ioN (dmaReg 0 1) + 8 * ringEntries ((ringSet 0xBFF0 sess).ioN (dmaReg 0 2)) :=
  ⟨by decide +kernel, by decide +kernel, by unfold chEn; decide +kernel, by decide +kernel, by decide, by decide, by decide +kernel, by decide +kernel⟩
theorem test_stream_enables : (after (.dmaEnable cc 2 0x81) (spx streamSet)).sesD cc .off (fun x => (x.ch 2).phase) = .run ∧
    (after (.dmaEnable cc 2 1) (spx streamSet)).sesD cc .run (fun x => (x.ch 2).phase) = .off := by decide +kernel

/-- Channel `n` enabled, in a phase, at the cycle after `land`. -/
def channel (n : Fin 4) (d : DmaCh) (a : Option DmaAct) (x : Session) : Session :=
  { (x.setIo (dmaReg n 0) 1).setCh n d with dmaAct := a, cpu := { x.cpu with now := 21 }, unitAt := 20, unitPre := true }
def inPhase (p : DmaPhase) : DmaCh := { DmaCh.zero with phase := p }
theorem test_kick : ∀ p ∈ [DmaPhase.idle, .run, .fetch, .writeBack], (spx (channel 0 (inPhase p) none)).live cc = true ∧
    (channel 0 (inPhase p) none sess).ioN (dmaReg 0 0) = 1 ∧ ((channel 0 (inPhase p) none sess).ch 0).phase = p := by
  decide +kernel
theorem test_dma_abort : ∀ n : Fin 4, (spx (channel n (inPhase .run) none)).live cc = true ∧
    (channel n (inPhase .run) none sess).ioN (dmaReg n 0) % 8 = 1 ∧ ((channel n (inPhase .run) none sess).ch n).phase = .run := by
  decide +kernel

/-- An action of channel 0 that writes a word of work RAM and lands in the cycle that passed last. -/
def action : DmaAct := { ch := 0, first := 18, land := 20, count := 0, source := 0, words := [(0, 0, 0x120, 7)] }
theorem test_dma_lands : ∀ p ∈ [DmaPhase.fetch, .run, .writeBack], let s := spx (channel 0 (inPhase p) (some action))
    s.live cc = true ∧ s.idles cc = false ∧ (s.dmaWrites cc 20 action.words).2 = true ∧
    (s.dmaWrites cc 20 action.words).1.sesD cc false (fun z => decide (z.dmaAct = some action ∧ z.dma = (channel 0 (inPhase p) (some action) sess).dma ∧
      z.unitAt = 20) && z.blit.isNone) = true := by decide +kernel
theorem test_dma_reach : ∀ p, unitsReach (channel 0 (inPhase p) (some action) sess) action.land := fun _ => ⟨rfl, rfl, rfl⟩

/-- A stream of trigger 1 that waits for its chunk. -/
def streamCh : DmaCh := { inPhase .run with ctrl := 0x88, left := 0, trigs := [20], ready := 22, chunk := 4 }
def triggered (x : Session) : Session :=
  { x.setCh 2 streamCh with cpu := { x.cpu with now := 21 }, unitAt := 20, unitPre := false }
theorem test_dma_trigger : (spx triggered).live cc = true ∧ (spx triggered).idles cc = false ∧ streamCh.trig = 1 ∧
    (∀ m, m ≠ 2 → ((triggered sess).ch m).phase = .off ∧ ((triggered sess).ch m).trigs = []) ∧ (triggered sess).dmaAct = none ∧
    (triggered sess).blit = none := by decide +kernel

/-- A ring and a stream enabled anew while they still end what they had begun; a fence with the units on time, and behind. -/
def ending' (n : Fin 4) (f : Session → Session) (x : Session) : Session := (f x).setCh n (inPhase .run)
theorem test_dma_runs_on : ¬ chEn (ending' 0 (ringSet 0x100) sess) 0 ∧ ((ending' 0 (ringSet 0x100) sess).ch 0).phase ≠ .off ∧
    ((ending' 0 (ringSet 0x100) sess).ringRun 0).isSome = true ∧ ¬ chEn (ending' 2 streamSet sess) 2 ∧
    ((ending' 2 streamSet sess).ch 2).phase ≠ .off ∧ ((ending' 2 streamSet sess).streamRun 2 0x81).isSome = true ∧
    (spx (ending' 0 (ringSet 0x100))).programs cc = true ∧ (spx (ending' 2 streamSet)).programs cc = true := by
  unfold chEn
  decide +kernel
theorem test_dma_program : (∀ p ∈ [DmaPhase.idle, .run], (spx (channel 0 (inPhase p) none)).programs cc = true) ∧
    ∀ n : Fin 4, (spx (channel n (inPhase .run) none)).programs cc = true := by decide +kernel
theorem test_dma_page : (0x120 < 0xC000) ∧ (sp.page cc (dPage 0x120)).alloc = true ∧ (sp.page cc (dPage 0x120)).gcopy = true ∧
    (sp.page cc (dPage 0x120)).cow = false ∧ (channel 0 (inPhase .run) (some action) sess).staged (dLine 0x120) = none ∧
    (spx (channel 0 (inPhase .fetch) (some { action with words := [] }))).live cc = true := by decide +kernel
theorem test_dma_fence : (spx id).unitsBehind cc = false ∧ (spx (fun x => { x with cpu := { x.cpu with now := 9 } })).unitsBehind cc = true ∧
    (spx (fun x => { x with cpu := { x.cpu with now := 9 } })).programs cc = true := by decide +kernel

/-! ### Mailboxes and clients -/

/-- R354: a slot with a session and one without; an outbox empty and full; records that wait. -/
def outboxFull (x : Session) : Session := { x with mb := { x.mb with full := true } }
def spMail : State := { sp with mbqFifo := sp.mbqFifo.set 0 [0x80000000] }
theorem test_mailbox : sp.power.dieUp (slotDie 0) = true ∧ sp.mailSlot 0 = some cc ∧ (sp.ses cc).isSome = true ∧
    sp.mailSlot 1 = none ∧ sess.mb.full = false ∧ (outboxFull sess).mb.full = true ∧ (spx outboxFull).programs cc = true ∧ sp.programs cc = true ∧
    (spx outboxFull).heldSlot cc = some 0 ∧ sp.mbqFifo[0].length < 256 := by decide +kernel
theorem test_mailbox_queue : spMail.power.hub = true ∧ spMail.mbqFifo[0] = [0x80000000] ∧ spMail.mbqFifo[1] = [] := by decide +kernel
theorem test_mailbox_sends : (after (.mailboxSend cc) sp).mbqFifo[0] = [0x80000000] := by decide +kernel

/-- R290, R291: an INPUT, a FEEDBACK and a REFRESH packet whose checks pass, and one of another version. -/
def packet (kind len : Nat) : List Byte := BitVec.ofNat 8 (16 + kind) :: 0 :: List.replicate (len - 2) 0
theorem test_packets : pktType (packet 8 16) = 8 ∧ pktType (packet 9 32) = 9 ∧ pktType (packet 10 16) = 10 ∧
    sp.admitted cc = true ∧ sp.heldSlot cc = some 0 ∧ sp.clientOk 0 (packet 8 16) = true ∧ sp.clientOk 0 (packet 9 32) = true ∧
    sp.clientOk 0 (packet 10 16) = true ∧ sp.clientOk 0 (packet 8 17) = false ∧ (sp.slot 0).inputQ.length < 64 := by decide +kernel
theorem test_input_joins : ((after (.input cc (packet 8 16)) sp).slot 0).inputQ.length = 1 := by decide +kernel

/-- R320, R323: a context that is not admitted, with WAKE. -/
def csWake : State := cs.modCtx 7 (fun x => { x with wake := true })
theorem test_wake : csWake.admitted 7 = false ∧ pktVer (packet 8 16) = 1 ∧ (csWake.ctx 7).wake = true ∧
    (csWake.ctx 7).wakePending = false ∧ csWake.wakeFifo.length < 1024 := by decide +kernel
theorem test_wake_record : (after (.input 7 (packet 8 16)) csWake).wakeFifo = [0x80000007] := by decide +kernel

/-- R300, R305: a tile packet out of order, and packets of audio. -/
def tilePacket : VideoPkt :=
  { kind := 1, flags := 0, seq := 9, frame := 1, band := 0, fidx := 0, w := 320, line0 := 0, nlines := 4, mgen := 1, chk := 0, pos := 0
    payload := [] }
theorem test_out_of_step : tilePacket.kind = 1 ∧ up.client.started = false ∧ tilePacket.flags.getLsbD 5 = false ∧
    (after (.videoPacketReceive tilePacket) up).client.refreshWanted = true := by decide +kernel
def audioPkt (late : Bool) (sec : BitVec 32) : AudioPkt :=
  { kind := 5, flags := if late then 0x80 else 0, seq := 0, pkt := 0, relS := sec, relNs := 0, nextS := sec, nextNs := 1000, samples := [] }
theorem test_audio_played : (audioPkt false 0).flags.getLsbD 7 = false ∧
    (after (.audioPacketPlay (audioPkt false 0)) up).client.played.map (·.samples) = [List.replicate 192 0] := by decide +kernel
theorem test_audio_late : (audioPkt true 100).flags.getLsbD 7 = true ∧ intervalPassed (audioPkt true 100) up.clock = false ∧
    intervalPassed (audioPkt true 0) spLater.clock = true := by decide +kernel
theorem test_late_marker : ({ tilePacket with kind := 3, flags := 1 } : VideoPkt).flags.getLsbD 0 = true := by decide

/-! ### The Curator -/

/-- A context not admitted (7) and one that is (5) with pages in every state. -/
def pageOf (cow gcopy dirty inflight : Bool) : PageEntry :=
  { alloc := true, cow := cow, gcopy := gcopy, dirty := dirty, home := 3000, gframe := 40, inflight := inflight }
def cur (c : CtxNo) (e : PageEntry) (l : Sparse FrameRec) : State :=
  { cs.setPage c 30 e with frames := l, titles := [] }
def homeRec (n : Nat) : FrameRec := { FrameRec.free with pool := 1, shares := BitVec.ofNat 16 n }
def copyRec : FrameRec := FrameRec.copyOf 3000

/-- A Gallery frame of die 0 is taken while few frames are listed. -/
theorem gallery_some {z : State} (special : Bool) (r : FrameRec) (listed : z.poolListed 2 = true) (part : poolSize z.part 2 = 40960)
    (len : z.frames.length ≤ 20) (held : z.heldFrames 2 = 0) : ∃ f t, z.takeGallery 0 special r = some (f, t) := by
  obtain ⟨f, t, h, -⟩ := State.takeFrame_some (s := z) (k := 2) r listed (by omega)
  refine ⟨f, t, ?_⟩
  have room : (if special then 0 else z.galleryReserve) < z.freeCount 2 := by
    have := State.freeCount_ge (s := z) 2 listed
    have : z.galleryReserve ≤ 8192 := Nat.min_le_left _ _
    split <;> omega
  unfold State.takeGallery
  simp only [room, if_true]
  exact h

/-- None is taken of a Gallery without power that holds no copy. -/
theorem gallery_none {z : State} {special : Bool} {r : FrameRec} (h : z.poolListed 2 = false) (order : z.galleryOrder = []) :
    z.takeGallery 0 special r = none := by
  have free : z.freeCount (2 + 0) = 0 := by
    unfold State.freeCount State.totalCount
    simp only [Nat.add_zero, h, Bool.false_eq_true, if_false, Nat.zero_sub]
  have victim : z.victim 0 = none := by
    unfold State.victim
    rw [order]
    rfl
  unfold State.takeGallery
  simp only [free, Nat.not_lt_zero, if_false, victim]

/-- R66 to R68: a page miss where the die holds a copy already, where it fills one, and where it does neither; of a page under way. -/
def missHeld : State := cur 5 (pageOf false false false false) [(3000, homeRec 1), (galleryFrame 0 50, copyRec)]
def missJoins : State := cur 5 (pageOf false false false false) [(3000, homeRec 1), (galleryFrame 0 50, { copyRec with pool := 2 })]
def missNew : State := cur 5 (pageOf false false false false) [(3000, homeRec 1)]
def off0 (s : State) : State := { s with power := { s.power with on := s.power.on &&& ~~~0xC0 } }
theorem test_page_miss : missHeld.ctxDie 5 = some 0 ∧ (missHeld.page 5 30).alloc = true ∧ (missHeld.page 5 30).gcopy = false ∧
    (missHeld.page 5 30).inflight = false ∧ missHeld.copyOn 0 3000 = some (galleryFrame 0 50) ∧ missJoins.copyOn 0 3000 = none ∧
    missJoins.flightOn 0 3000 = some (galleryFrame 0 50) ∧ missNew.copyOn 0 3000 = none ∧ missNew.flightOn 0 3000 = none ∧
    missNew.frameUp (missNew.current 3000) = true ∧ (off0 missNew).frameUp ((off0 missNew).current 3000) = false ∧
    ((off0 missNew).takeGallery 0 false { copyRec with pool := 2 }).isNone = true ∧
    ((off0 missNew).takeGallery 0 false FrameRec.free).isNone = true ∧ missNew.pageReqs = [] ∧ memWf missHeld.mem = true ∧
    (cs.page 7 30).alloc = false := by decide +kernel
theorem test_page_miss_takes : ∃ f s1, missNew.takeGallery 0 false { copyRec with pool := 2 } = some (f, s1) :=
  gallery_some _ _ (by decide +kernel) (by decide +kernel) (by decide +kernel) (by decide +kernel)

/-- R66, R68: the page-in that is served, one of another page before it, and one whose frame is not powered. -/
def arriving (home : Nat) : State :=
  { cur 5 (pageOf false false false true) [(3000, homeRec 1), (galleryFrame 0 40, { copyRec with pool := 2 })] with
    pageReqs := [{ die := 0, home := home, cls := 1, due := 0, freezes := [] }] }
theorem test_page_in : (arriving 3000).ctxDie 5 = some 0 ∧ ((arriving 3000).page 5 30).inflight = true ∧
    ((arriving 3000).nextReq 0).map (·.home) = some 3000 ∧ ((arriving 7).nextReq 0).map (·.home) = some 7 ∧
    (arriving 3000).frameUp ((arriving 3000).current 3000) = true ∧ (arriving 3000).frameBad ((arriving 3000).current 3000) = false ∧
    (off0 (arriving 3000)).frameUp ((off0 (arriving 3000)).current 3000) = false := by decide +kernel

/-- R61, R64, R66: a first touch of a context that is not admitted, and of one that is; with no frame left, and with none in the Gallery. -/
def dark : State := { cs with power := { cs.power with on := 0 } }
theorem test_first_touch : (cs.ctx 7).writable = true ∧ (cs.ctx 5).writable = true ∧ pageInUse false 30 = true ∧
    (cs.page 7 30).alloc = false ∧ cs.ctxDie 7 = none ∧ cs.ctxDie 5 = some 0 ∧ b2n ((cs.regN curBase).testBit 0) = 0 ∧
    cs.poolListed 0 = true ∧ cs.poolUsable 0 = true ∧ cs.poolReserve 0 + cs.frames.length < poolSize cs.part 0 ∧
    (dark.takeHome (dark.ctxDie 7) true).isNone = true ∧ (dark.ctx 7).writable = true ∧ (∀ p : Fin 4, dark.ports[p.val].waiting = none) := by
  decide +kernel
theorem test_first_touch_takes : (∃ h s1, cs.takeHome none true = some (h, s1)) ∧ ∃ h s1 f s3, cs.takeHome (some 0) true = some (h, s1) ∧
    (s1.setPage 5 30 { PageEntry.none with alloc := true, home := BitVec.ofNat 25 h }).takeGallery 0 false (FrameRec.copyOf h) =
      some (f, s3) := by
  obtain ⟨h, t, e, -⟩ := State.takeHome_some (s := cs) (die := none) (touch := true) (by decide +kernel) (by decide +kernel)
    (by decide +kernel) (by decide +kernel)
  refine ⟨⟨h, t, e⟩, ?_⟩
  obtain ⟨h, t, e, kept, len⟩ := State.takeHome_some (s := cs) (die := some 0) (touch := true) (by decide +kernel) (by decide +kernel)
    (by decide +kernel) (by decide +kernel)
  have short : t.frames.length ≤ 9 := len
  let z := t.setPage 5 30 { PageEntry.none with alloc := true, home := BitVec.ofNat 25 h }
  have zk : PoolsKept cs z := ⟨kept.power, kept.regs, kept.part, kept.slots⟩
  obtain ⟨f, u, g⟩ := gallery_some (z := z) false (FrameRec.copyOf h) (by rw [zk.poolListed]; decide +kernel)
    (by rw [zk.part]; decide +kernel) (Nat.le_trans short (by decide)) (by rw [zk.heldFrames]; decide +kernel)
  exact ⟨h, t, f, u, e, g⟩
theorem test_first_touch_waits : ∃ h s1, (off0 cs).takeHome (some 0) true = some (h, s1) ∧
    (s1.setPage 5 30 { PageEntry.none with alloc := true, home := BitVec.ofNat 25 h }).takeGallery 0 false (FrameRec.copyOf h) = none := by
  have pool : (off0 cs).homePool (some 0) true = some 1 := by decide +kernel
  obtain ⟨h, t, e, kept, -⟩ := State.takeFrame_some (s := off0 cs) (k := 1) FrameRec.page (by decide +kernel) (by decide +kernel)
  refine ⟨h, t, by unfold State.takeHome; rw [pool]; exact e, ?_⟩
  let z := t.setPage 5 30 { PageEntry.none with alloc := true, home := BitVec.ofNat 25 h }
  have zk : PoolsKept (off0 cs) z := ⟨kept.power, kept.regs, kept.part, kept.slots⟩
  exact gallery_none (z := z) (by rw [zk.poolListed]; decide +kernel) kept.galleryOrder

/-- R81: a copy-on-write write by the last sharer, and by one of two. -/
def cowOf (n : Nat) : State := cur 7 (pageOf true false false false) [(3000, homeRec n)]
theorem test_cow : ((cowOf 1).ctx 7).writable = true ∧ ((cowOf 1).page 7 30).cow = true ∧ ((cowOf 1).page 7 30).inflight = false ∧ ((cowOf 2).page 7 30).inflight = false ∧
    (cowOf 2).frameBad ((cowOf 2).current 3000) = false ∧ ((cowOf 1).frame 3000).shares.toNat = 1 ∧
    1 < ((cowOf 2).frame 3000).shares.toNat ∧ ((cowOf 2).frame 3000).pool = 1 ∧ (cowOf 2).ctxDie 7 = none := by decide +kernel
theorem test_cow_takes : ∃ g s1, (cowOf 2).takeHome none true = some (g, s1) := by
  obtain ⟨h, t, e, -⟩ := State.takeHome_some (s := cowOf 2) (die := none) (touch := true) (by decide +kernel) (by decide +kernel)
    (by decide +kernel) (by decide +kernel)
  exact ⟨h, t, e⟩

/-- The same of an admitted context. -/
def cowIn : State := cur 5 (pageOf true false false false) [(3000, homeRec 2)]
theorem test_cow_admitted : (cowIn.ctx 5).writable = true ∧ (cowIn.page 5 30).cow = true ∧ (cowIn.page 5 30).inflight = false ∧
    1 < (cowIn.frame 3000).shares.toNat ∧ cowIn.frameBad (cowIn.current 3000) = false ∧ cowIn.ctxDie 5 = some 0 := by decide +kernel
theorem test_cow_admitted_takes : ∃ g s1 f s3, cowIn.takeHome (some 0) true = some (g, s1) ∧
    (s1.modFrame 3000 (fun r => { r with shares := r.shares - 1 })).takeGallery 0 false (FrameRec.copyOf g) = some (f, s3) := by
  obtain ⟨h, t, e, kept, len⟩ := State.takeHome_some (s := cowIn) (die := some 0) (touch := true) (by decide +kernel) (by decide +kernel)
    (by decide +kernel) (by decide +kernel)
  have short : t.frames.length ≤ 2 := len
  let z := t.modFrame 3000 (fun r => { r with shares := r.shares - 1 })
  have set := State.setFrame_frames 3000 { t.frame 3000 with shares := (t.frame 3000).shares - 1 } t
  have zk : PoolsKept cowIn z := kept.toPoolsKept.trans set.1.toPoolsKept
  have zl : z.frames.length ≤ 20 := by
    have : z.frames.length ≤ t.frames.length + 1 := by
      show (t.setFrame 3000 _).frames.length ≤ _
      rw [set.2]
      exact Sparse.length_set _ _ _ _
    omega
  obtain ⟨f, u, g⟩ := gallery_some (z := z) false (FrameRec.copyOf h) (by rw [zk.poolListed]; decide +kernel)
    (by rw [zk.part]; decide +kernel) zl (by rw [zk.heldFrames]; decide +kernel)
  exact ⟨h, t, f, u, e, g⟩
theorem test_cow_clears : ((after (.copyOnWrite 7 30) (cowOf 1)).page 7 30).cow = false := by decide +kernel

/-- R67, R69: a dirty copy, and a copy that may be evicted. -/
def dirtyCopy : State :=
  { cur 5 (pageOf false true true false) [(3000, { homeRec 1 with copy := some (false, 40) }), (galleryFrame 0 40, copyRec)] with
    galleryOrder := [galleryFrame 0 40] }
def idleCopy : State := { cs with frames := [(3000, homeRec 1), (galleryFrame 0 50, copyRec)], galleryOrder := [galleryFrame 0 50] }
theorem test_write_back : dirtyCopy.ctxDie 5 = some 0 ∧ (dirtyCopy.page 5 30).gcopy = true ∧ (dirtyCopy.page 5 30).dirty = true ∧
    (dirtyCopy.frame (galleryFrame 0 40)).home = some 3000 ∧ dirtyCopy.current 3000 = galleryFrame 0 40 ∧
    galleryFrame 0 40 ≠ 3000 ∧ dirtyCopy.nextReq 0 = none ∧ (arriving 3000).nextReq 0 ≠ none := by decide +kernel
theorem test_eviction : idleCopy.power.dieUp 0 = true ∧ idleCopy.victim 0 = some (galleryFrame 0 50) ∧
    (after (.eviction 0) idleCopy).frame (galleryFrame 0 50) = FrameRec.free := by decide +kernel

/-- R74 to R76, R85: a line that is missed, and the line it replaces, written and not; a frame that fails, and one that is retired. -/
def staging (l : List StageLine) (x : Session) : Session := { x with share := 1, staging := l }
theorem test_staging_miss : ∀ l ∈ [([] : List StageLine), [{ tag := 4, words := [] }], [{ tag := 4, words := [(0, 7)] }]],
    (spx (staging l)).admitted cc = true ∧ (spx (staging l)).sesD cc false (fun x => !x.fast && (x.staged 2).isNone) = true ∧
    ((spx (staging l)).bringLine cc 2).2 = true ∧ ((spx (staging l)).bringLine cc 2).1.ses cc = some (staging l sess) ∧
    (staging l sess).fast = false ∧ (staging l sess).staged 2 = none ∧ (staging l sess).staging.drop (max 1 (staging l sess).share - 1) = l ∧
    ((spx (staging l)).bringLine cc 2).1.bad = [] ∧ (((spx (staging l)).bringLine cc 2).1.page cc (dPage (64 * 4))).alloc = true ∧
    (((spx (staging l)).bringLine cc 2).1.page cc (dPage (64 * 4))).gcopy = true ∧ (sp.page cc (dPage (64 * 2))).gcopy = true := by
  decide +kernel
theorem test_failing_frame : framePool up.part 0x5000 = some 0 ∧ (up.frame 0x5000).pool ≠ 3 ∧ up.mappers 0x5000 = [] ∧
    up.titleListing 0x5000 = none ∧ up.copyOn 0 0x5000 = none ∧ up.copyOn 1 0x5000 = none ∧ up.flightOn 0 0x5000 = none ∧ up.flightOn 1 0x5000 = none ∧
    ({ up with frames := [(0x5000, FrameRec.retired)] }.frame 0x5000).pool = 3 := by decide +kernel

/-- R87: an ALLOC that a pool meets, and one it does not; frames granted, free and in use. -/
def curFrames : State := { up with frames := [(0x4000, { FrameRec.free with pool := 1, grant := true }), (0x4001, homeRec 1)] }
theorem test_alloc : curFrames.portsUp = true ∧ (∀ p < 5, curFrames.poolUsable p = true ∧ curFrames.poolReserve p < curFrames.freeCount p) ∧
    cs.poolUsable 0 = true ∧ ({ up with power := { up.power with dieUnavail := 1 } }.poolUsable 0) = false := by decide +kernel
theorem test_alloc_takes : ∀ p : Fin 5, ∃ f s1, (curFrames.curArg p.val).takeFrame p.val { FrameRec.free with pool := 1, grant := true } =
    some (f, s1) := by
  intro p
  obtain ⟨f, t, e, -⟩ := State.takeFrame_some (s := curFrames.curArg p.val) (k := p.val)
    { FrameRec.free with pool := 1, grant := true } (by revert p; decide +kernel) (by revert p; decide +kernel)
  exact ⟨f, t, e⟩
theorem test_no_pool : 5 ≤ (6 : Fin 8).val := by decide
theorem test_frames : curFrames.frameAt 0x4000000 = some 0x4000 ∧ curFrames.frameAt 1 = none ∧ (curFrames.frame 0x4000).grant = true ∧
    curFrames.listed 0x4000 = false ∧ curFrames.frameAt 0x4001000 = some 0x4001 ∧ (curFrames.frame 0x4001).grant = false ∧
    (curFrames.frame 0x4001).pool ≠ 0 ∧ curFrames.frameAt 0x4002000 = some 0x4002 ∧ (curFrames.frame 0x4002).pool = 0 := by
  decide +kernel
theorem test_books_add_up : ∀ k < 5, curFrames.residentCount k + curFrames.inflightCount k ≤ curFrames.totalCount k := by decide +kernel
theorem test_quarantine_records : ({ up with quarFifo := [5, 6] }).quarFifo = [5, 6] ∧ up.quarFifo = [] := by decide +kernel

/-- R77, R78: a title with users, and one whose list passes and one whose list does not. -/
def titleState (grant : Bool) : State :=
  { up with frames := [(0x4000, { FrameRec.free with pool := 1, grant := grant })], mem := memWrite [] 0x100 [0, 0x40, 0, 0]
            titles := [(2, { state := 0, cPages := 0, dPages := 0, list := 0x100, frames := [] })] }
theorem test_title_users : sp.titleUsers 3 = [5] ∧ (titleState true).titleUsers 2 = [] ∧
    (0x4000000000010000 : BitVec 64).extractLsb' 62 2 = 1 ∧ sp.power.mode ≠ .off := by decide +kernel
def titleAfter (g : Bool) : Option (List Nat) :=
  let x : Title := { (titleState g).titleOf 2 with state := 0, frames := [], cPages := 1, dPages := 0 }
  (((titleState g).releaseTitle 2).setTitle 2 x).titleCheck x
theorem test_title_check : titleAfter true = some [0x4000] ∧ titleAfter false = none := by decide +kernel
theorem test_title_ready : ((after (.titleEntryWrite 0x80 2 0 (.whole 0x4000000000010000)) (titleState true)).titleOf 2).frames = [0x4000] := by
  decide +kernel

/-! ### Clocks -/

/-- R334, R337, R343, R344: a time to set, one that is refused, a reference with its link, and a servo whose PHERR is late. -/
def clk (src : Nat) : State :=
  { ((up.setReg (clkBase + 4) src).setSub 0 0 { SubPort.none with link := true }) with clock := { up.clock with src := BitVec.ofNat 2 src, phAge := 1000000000000000 } }
theorem test_clock_states : up.power.mode ≠ .off ∧ up.clock.rootLock = true ∧
    ({ up with clock := { up.clock with rootLock := false } }).clock.rootLock = false ∧ up.regN (clkBase + 0x58) < 1000000000 ∧
    1000000000 ≤ (up.setReg (clkBase + 0x58) 1000000000).regN (clkBase + 0x58) := by decide +kernel
theorem test_clock_sources : (clk 1).srcField = 1 ∧ (clk 2).srcField = 2 ∧ (clk 2).seLink = true ∧ (clk 3).srcField = 3 ∧
    (-51200000 : Int) ≤ (5 : BitVec 28).toInt ∧ (5 : BitVec 28).toInt ≤ 51200000 ∧ (clk 1).clock.holdPtp = false ∧
    (clk 1).holdTo ≤ (clk 1).clock.phAge := by decide +kernel
theorem test_ptp_set : (after .ptpSet (up.setReg (clkBase + 0x50) 7)).clock.time = 7 * unitsPerSec := by decide +kernel
theorem test_sync_e : (after (.synceWindow 0xFFFFFFB) (clk 3)).clock.freq = -5 ∧ (after (.synceWindow 0xFFFFFFB) (clk 3)).clock.trim = -5 := by
  decide +kernel

/-! ### Keepers, claims, watchdogs and device interrupts -/

/-- R355, R356: a watchdog armed, at the end of its first stage, and at the end of its second. -/
def armed (k : Fin 4) (stage2 : Bool) (left : Nat) : State :=
  (up.setReg (wdAddr k 0) 0x80000005).modKeeper k (fun x => { x with wdStage2 := stage2, wdLeft := left })
theorem test_watchdog : ∀ k : Fin 4, (armed k true 0).wdExpired k = true ∧ (armed k false 0).wdEn k = true ∧ up.wdEn k = false ∧
    ((armed k false 0).keeper k).wdStage2 = false ∧ ((armed k false 0).keeper k).wdLeft = 0 := by decide +kernel
theorem test_kpr_run : ∀ k : Fin 4, up.power.hub = true ∧ (up.keeper k).running = true ∧ (0xD : Reg32).getLsbD 1 = false := by
  decide +kernel

/-- R352: a claim that nobody holds, and one that Keeper 2 holds. -/
def claimed : State := { up with claims := [(7, some 2)] }
theorem test_claims : Sparse.get none claimed.claims 7 = some 2 ∧ Sparse.get none claimed.claims 8 = none ∧ nodeKeeper 0xC0 = none := by
  decide +kernel
theorem test_claim_read : (after (.claimRead 0x82 7) claimed).answer = 0x80000002 ∧ (after (.claimRead 0x81 7) claimed).answer = 2 := by
  decide +kernel

/-- R372 to R374: a source pending and deliverable to target 0, one in service to it, and a group that is due. -/
def pendingSource : State :=
  { (up.setReg (dicBase + 4 * 64) 0x10001) with dic := { up.dic with pend := 1 <<< 64, insvc := 1 <<< 65, holder := [] } }
def dueGroup : State := { up with dic := { up.dic with gEvents := [(3, 1)] } }
theorem test_dic : pendingSource.deliverable 0 64 = true ∧ pendingSource.dicHolds 0 65 = true ∧ pendingSource.dicHolds 1 65 = false ∧
    dueGroup.groupDue 3 = true ∧ up.isLevel 64 = false ∧ up.isLevel 66 = true := by decide +kernel
theorem test_dic_best : pendingSource.dicBest 0 = 64 ∧ pendingSource.dicBest 1 = 0 := by decide +kernel

/-! ### The queue manager and the ports -/

/-- R316, R328, R329: a sub-port that holds credits, and one in the state after an XOFF. -/
def heldCredits : State := linked.setSub 0 0 { SubPort.none with link := true, held := [100, 60], xoff := true }
theorem test_ports : (heldCredits.sub 0 0).held = [100, 60] ∧ linked.subUp 0 0 = true ∧ heldCredits.subUp 0 0 = true ∧
    (heldCredits.sub 0 0).xoff = true ∧ (linked.sub 0 0).held = [] ∧ linked.subExists 0 0 = true ∧ (linked.sub 0 0).link = true := by
  decide +kernel
theorem test_port_control : linked.serdes = true ∧ field ((up.setReg (ethAddr 0 0) 2).regN (ethAddr 0 0)) 4 4 = 0 ∧
    ((1 : Reg32).toNat &&& 0xFB) % 4 ≠ (up.setReg (ethAddr 0 0) 2).regN (ethAddr 0 0) % 4 ∧ field (linked.regN (ethAddr 0 0)) 4 4 ≠ 0 := by decide +kernel
theorem test_serdes_down : ({ up with power := { up.power with on := 2 } }).serdes = false ∧ up.power.mode ≠ .off := by decide +kernel
theorem test_mode_changes : (after (.portControlWrite 0 1) (up.setReg (ethAddr 0 0) 2)).regN (ethAddr 0 0) = 1 ∧
    (after (.portControlWrite 0 0x11) linked).regN (ethAddr 0 0) = 0x10 := by decide +kernel
theorem test_credit_books : ∀ p < 2, ∀ m < 4, up.creditHeld p m ≤ up.creditTotal p m := by decide +kernel

/-- R325: a control push to a slot that holds a session, to one that holds none, and one of a bad length; a full queue. -/
def push (k len : Nat) (s : State) : State := (s.setReg (qmBase + 0x200) k).setReg (qmBase + 0x20C) len
theorem test_control_push : (push 0 40 sp).regN (qmBase + 0x20C) = 40 ∧ ((push 0 40 sp).slot 0).ctx.isSome = true ∧
    ((push 0 40 sp).slot 0).upper = false ∧ ((push 1 40 sp).slot 1).ctx = none ∧ (push 0 0 sp).regN (qmBase + 0x20C) = 0 ∧
    ((push 0 40 sp).slot 0).controlQ.length < 16 ∧
    16 ≤ ((push 0 40 (sp.modSlot 0 (fun y => { y with controlQ := List.replicate 16 control0 }))).slot 0).controlQ.length := by
  decide +kernel
theorem test_control_pushed : ((after .controlPush (push 0 40 sp)).slot 0).controlQ.length = 1 := by decide +kernel

/-- R322, R323: flow data that pass the check, and data that name no local address. -/
def flowGiven (s : State) : State := (s.setReg (clsBase + 0x10) 5).setReg (clsBase + 0x20) 0x80000000
theorem test_flow_write : (flowGiven linked).flowCheck 5 (flowGiven linked).flowData = 0 ∧
    (flowGiven up).flowCheck 5 (flowGiven up).flowData = 7 ∧ linked.admitted 5 = true ∧ linked.heldSlot 5 = some 0 := by decide +kernel
theorem test_wake_fifo : csWake.wakeFifo = [] ∧ ({ up with wakeFifo := [0x80000007] }).wakeFifo = [0x80000007] := by decide +kernel

/-- R330: a transmit descriptor of `len` bytes at 0x1000, its buffer at 0x2000. -/
def transmit (len : Nat) (ready : Option Nat) : State :=
  { (((linked.setReg (clsBase + 0x410) 0x1000).setReg (clsBase + 0x418) 0x80000000).setWord64 0x1000 (2 ^ 63 + 0x2000)
      |>.setWord64 0x1008 (len * 2 ^ 48)) with ktxReady := ready }
theorem test_transmit_ring : (transmit 60 none).ringOwned 0x410 = true ∧ linked.ringOwned 0x410 = false ∧ (transmit 60 none).ktxReady = none ∧
    (transmit 59 (some 0)).ktxLen = 59 ∧ (transmit 60 (some 0)).ktxLen = 60 := by decide +kernel
theorem test_transmit_plain : (transmit 59 (some 0)).bad = [] ∧ (transmit 60 (some 0)).bad = [] ∧ plainBytes (transmit 59 (some 0)) 0x1000 32 ∧
    plainBytes (transmit 60 (some 0)) 0x1000 32 ∧ (transmit 59 (some 0)).ringDesc 0x410 = 0x1000 ∧ (transmit 60 (some 0)).ringDesc 0x410 = 0x1000 ∧
    (transmit 60 (some 0)).ringOwned 0x410 = true :=
  ⟨by decide +kernel, by decide +kernel, plainBytes_of (by decide +kernel), plainBytes_of (by decide +kernel), by decide +kernel, by decide +kernel, by decide +kernel⟩
theorem test_transmit_next : ((transmit 60 (some 0)).chooseNext 0 0).map (·.item) = some .keeper ∧ (transmit 60 (some 0)).ktxPort = 0 ∧
    (transmit 60 (some 0)).ktxSub = 0 ∧ (transmit 60 (some 0)).subUp 0 0 = true ∧
    (transmit 60 (some 0)).fits 0 0 (transmit 60 (some 0)).ktxFrame = true := by decide +kernel

/-! ### Received frames -/

/-- A broadcast frame of an EtherType, of `n` bytes in all. -/
def broadcast (etype n : Nat) : List Byte := List.replicate 6 0xFF ++ List.replicate 6 0 ++ bytesBE 2 etype ++ List.replicate (n - 14) 0
/-- A frame to another address, and a PFC frame. -/
def foreign : List Byte := List.replicate 12 2 ++ List.replicate 48 0
def pfcFrame : List Byte := [1, 0x80, 0xC2, 0, 0, 1] ++ List.replicate 6 0 ++ [0x88, 8, 1, 1, 0, 8] ++ List.replicate 44 0
/-- The receive ring at 0x1000, its first descriptor the device's. -/
def receiving : State :=
  ((linked.setReg (clsBase + 0x400) 0x1000).setReg (clsBase + 0x408) 0x80000000).setWord64 0x1000 (2 ^ 63 + 0x2000)
theorem test_frames_for_program : linked.macAccept 0 0 foreign = false ∧ linked.macAccept 0 0 (broadcast 0x0806 60) = true ∧
    Claims.frameClass (parseFrame (broadcast 0x0806 60)) = some 1 ∧ Claims.frameClass (parseFrame (broadcast 0x88F7 60)) = some 6 ∧
    Claims.frameClass (parseFrame (broadcast 0x88A8 60)) = some 7 ∧ Claims.frameClass (parseFrame (broadcast 0x1234 60)) = some 8 ∧
    receiving.ringOwned 0x400 = true ∧ linked.ringOwned 0x400 = false ∧ foreign.length = 60 := by decide +kernel
def notOwned : State := (linked.setReg (clsBase + 0x400) 0x1000).setReg (clsBase + 0x408) 0x80000000
theorem test_rings_plain : plainBytes receiving (receiving.ringDesc 0x400) 32 ∧
    plainBytes receiving (field (receiving.word64 (receiving.ringDesc 0x400)) 0 48) 60 ∧ plainBytes notOwned (notOwned.ringDesc 0x400) 32 :=
  ⟨plainBytes_of (by decide +kernel), plainBytes_of (by decide +kernel), plainBytes_of (by decide +kernel)⟩
theorem test_rings : notOwned.ringOwned 0x400 = false ∧ notOwned.ringOn 0x400 = true ∧ linked.ringOn 0x400 = false ∧
    receiving.bufferFull 0 0 = false ∧ linked.bufferFull 0 0 = false ∧ receiving.macAccept 0 0 (broadcast 0x0806 60) = true ∧
    receiving.subUp 0 0 = true ∧ (List.replicate 59 (0 : Byte)).length < 60 := by decide +kernel
theorem test_long_frame : (broadcast 0x0806 4097).length = 4097 ∧ linked.macAccept 0 0 (broadcast 0x0806 4097) = true := by
  constructor
  · simp only [broadcast, List.length_append, List.length_replicate]
    decide +kernel
  · decide +kernel
theorem test_pfc_frame : linked.macAccept 0 0 pfcFrame = true ∧ (parseFrame pfcFrame).etype = 0x8808 ∧
    be16 (pfcFrame.drop (parseFrame pfcFrame).off) 0 = 0x0101 ∧ pfcFrame.length = 62 := by decide +kernel

/-- An IPv4 datagram from 198.51.100.23 port 51000 to 203.0.113.5 port 40000, of 16 payload bytes whose first is given. -/
def datagram (first : Byte) : List Byte :=
  [255, 255, 255, 255, 255, 255, 0, 0, 0, 0, 0, 0, 8, 0, 69, 0, 0, 44, 0, 0, 0, 0,
   64, 17, 20, 113, 198, 51, 100, 23, 203, 0, 113, 5, 199, 56, 156, 64, 0, 24, 0, 0, first] ++ List.replicate 17 0
/-- Local address 0 is 203.0.113.5, and context 5 has the flow entry of that datagram. -/
def listening : State :=
  { (linked.setReg (clsBase + 0x110) 0xCB007105) with
    flows := [(5, [0x80000000, 0x9C40C738, 0, 0, 0, 0, 0, 0, 0xC6336417, 0])] }
def datagramIp : RxIp := (parseIp4 ((datagram 0x18).drop 14)).getD { v6 := true, proto := 0, options := true, fragment := true, multi := true, src := [], dst := [], l4 := [] }
theorem test_datagram : listening.subUp 0 0 = true ∧ listening.bufferFull 0 0 = false ∧ (datagram 0x18).length = 60 ∧ listening.macAccept 0 0 (datagram 0x18) = true ∧
    (parseFrame (datagram 0x18)).etype = 0x0800 ∧ (parseFrame (datagram 0x18)).tags = 0 ∧ (parseFrame (datagram 0x18)).svlan = false := by
  decide +kernel
theorem test_datagram_parts : parseIp4 ((datagram 0x18).drop (parseFrame (datagram 0x18)).off) = some datagramIp ∧ datagramIp.proto = 17 ∧
    datagramIp.options = false ∧ datagramIp.fragment = false ∧ datagramIp.multi = false ∧ udpOk datagramIp = true ∧
    be16 datagramIp.l4 2 = 40000 := by decide +kernel
theorem test_datagram_flow : listening.lipMatch 0 datagramIp = some 0 ∧ listening.regN clsBase ≠ 40000 ∧
    (listening.flows.find? (fun e => listening.flowMatches 0 (parseFrame (datagram 0x18)).vid datagramIp e.2)).map (·.1) = some 5 := by
  decide +kernel
theorem test_datagram_kind : pktType ((datagramIp.l4.take (be16 datagramIp.l4 4)).drop 8) = 8 := by decide +kernel

/-! ### Modes and power -/

/-- The device in a mode, in transit or not. -/
def inMode (m : Mode) (transit : Bool) (goal : Mode) : State :=
  { up with power := { up.power with mode := m, transit := transit, goal := goal } }
/-- R408: a request that changes nothing, one that is met, one that is not, and one while a transition runs. -/
theorem test_requests : (inMode .attended false .attended).power.mode = .attended ∧ (inMode .attended true .quiescent).power.transit = true ∧
    (Mode.attended, Mode.serving) ∈ directRequests ∧ Mode.ofCode 4 = some .serving ∧ Mode.ofCode 6 = some .quiescent ∧
    Mode.bedrock ∉ requestsOf .attended ∧ Mode.ofCode 1 = some .bedrock ∧ Mode.draining ∈ requestsOf .serving ∧
    Mode.recovery ∈ requestsOf .attended := by decide +kernel
theorem test_request_met : requestMet up .serving ∧ ¬ requestMet up .plinthTest := by
  refine ⟨⟨fun _ _ => Or.inl (by decide +kernel), fun h => by cases h⟩, fun h => ?_⟩
  have := h.2 rfl
  revert this
  decide +kernel
theorem test_slots : sp.anySlot = true ∧ up.anySlot = false := by decide +kernel
theorem test_request_serves : (after (.powerRequest 0x80 4) up).power.mode = .serving ∧
    (after (.powerRequest 0x80 6) up).power.goal = .quiescent := by decide +kernel

/-- R409, R410: step 20 of ASCENT with others after it, the last of all, and a failing step 1. -/
def climbing (on : BitVec 64) : State := { inMode .ascent true .serving with power := { (inMode .ascent true .serving).power with on := on } }
theorem test_steps : (climbing 0xFFFFE).ascending = true ∧ (climbing 0xFFFFE).nextStep = some 20 ∧ (climbing 0xFFFFE).stepWanted 21 = true ∧
    (climbing 0xFFFFFFFFFFFFE).nextStep = some 52 ∧ (∀ j < 53, j ≠ 52 → 1 ≤ j → (climbing 0xFFFFFFFFFFFFE).stepWanted j = false) ∧
    (climbing 0).nextStep = some 1 ∧ stepDie 20 = some 0 := by decide +kernel
theorem test_ascent_ends : (after .ascentStep (climbing 0xFFFFFFFFFFFFE)).power.mode = .serving := by decide +kernel

/-- R412, R415: a descent, a die's change, and DRAINING without a slot. -/
def dieChange (en new : BitVec 2) : State :=
  { up with power := { up.power with dieEn := en, dieGoal := some new, dieUnavail := en &&& ~~~new, transit := true } }
def draining (m : Mode) : State := { up with power := { up.power with mode := .draining, after := m } }
theorem test_descents : (inMode .attended true .quiescent).power.dieGoal = none ∧ (inMode .attended true .quiescent).power.heldWake = false ∧
    (dieChange 3 1).power.dieUnavail = 2 ∧ (draining .attended).anySlot = false ∧ (draining .attended).power.after = .attended ∧
    (draining .quiescent).power.after ≠ .attended ∧ (draining .quiescent).power.transit = false := by decide +kernel
theorem test_descent_fails : (inMode .attended true .quiescent).ascending = false ∧ (inMode .attended true .quiescent).power.stepOn 20 = true ∧
    (inMode .attended true .quiescent).power.mode ≠ .ascent := by decide +kernel
theorem test_die_writes : up.power.mode.dies = true ∧ (inMode .quiescent false .attended).power.mode.dies = false ∧ up.power.dieEn = 3 ∧
    sp.dieBusy 0 = true ∧ up.dieBusy 0 = false ∧ up.dieBusy 1 = false := by decide +kernel

/-- R414, R453: the wake timer and a wake pin. -/
def asleep : State := (inMode .dormant false .dormant).setReg (pwrBase + 0x10) 3
def pinned (s : State) : State :=
  (s.setReg (gpioCfg 5) (0x10000 + 3 * 8192)).modPin 5 (fun x => { x with filt := true })
theorem test_wakes : asleep.power.mode = .dormant ∧ (asleep.regN (pwrBase + 0x10)).testBit 0 = true ∧
    asleep.regN (pwrBase + 0x14) ≤ asleep.clock.secs % 2 ^ 32 ∧ (asleep.regN (pwrBase + 0x10)).testBit 1 = true := by decide +kernel
theorem test_wake_pins : (pinned (inMode .quiescent false .attended)).wakeLevel 5 = true ∧ (pinned asleep).wakeLevel 5 = true ∧
    (pinned (inMode .attended true .quiescent)).wakeLevel 5 = true := by decide +kernel

/-- R417, R418, R437: the states that resets, the supply and the temperatures act in. -/
theorem test_resets : up.power.mode ≠ .off ∧ up.scanned = false ∧ (inMode .off false .attended).power.mode = .off ∧ up.power.mode ≠ .sealed ∧
    (inMode .sealed false .attended).power.mode = .sealed ∧ (10800 : Word).toNat < 11500 := by decide +kernel
def tooHot : State := { up with power := { up.power with hot := up.power.hot.set 2 2 } }
theorem test_too_hot : 2 ≤ tooHot.power.hot[2] ∧ 620 ≤ (620 : BitVec 10).toNat ∧ (619 : BitVec 10).toNat < 620 := by decide +kernel

/-! ### The boot ROM and the Dreug Control Protocol -/

/-- R361: the straps taken, with each of them. -/
def strapped (v : BitVec 2) : State :=
  { State.reset with
    clock := { State.reset.clock with rootLock := true }, periph := { State.reset.periph with strapped := true, straps := v } }
theorem test_boot : ∀ v, (strapped v).power.mode = .bedrock ∧ (strapped v).clock.rootLock = true ∧ (strapped v).boot.step = 0 ∧
    (strapped v).periph.strapped = true ∧ (strapped v).rram.nvQueue.length ≤ 16 ∧ (strapped v).imgReason false = 1 ∧
    (strapped v).imgReason true = 1 := by decide +kernel

/-- An image header of 2 code bytes and a watchdog of 100 ms, with image key 0 valid: whether it is valid is the signature's answer. -/
def imageBytes : Sparse Byte :=
  [(0, 0x53), (1, 0x52), (2, 0x4B), (3, 0x49), (4, 0), (11, 2), (37, 100)]
def imaged : State := { strapped 0 with rram := { (strapped 0).rram with imageA := imageBytes, nvShadow := [(0x20, 9), (0x30, 256)] } }

theorem test_image : imaged.imgReason false = if imaged.imgSigned imageBytes then 0 else 4 := by
  have a : imgNum imageBytes 0 4 = 0x53524B49 ∧ imgLengths imageBytes = true ∧ imgWdt imageBytes = 100 ∧
      imgVersion imageBytes = 0 ∧ imaged.nvN 0x31 = 0 := by decide +kernel
  obtain ⟨a, b, c, d, e⟩ := a
  have image : imaged.rram.image false = imageBytes := rfl
  unfold State.imgReason
  rw [image]
  simp only [a, b, c, d, e]
  cases imaged.imgSigned imageBytes <;> rfl

/-- R365: a request of a command and body under the all-zero key of a device without keys, and under key 0. -/
def dcpBody (cmd : BitVec 16) (body : List Byte) : DcpMsg :=
  { ver := 1, kind := 1, cmd := cmd, keyId := 0, status := 0, len := BitVec.ofNat 16 body.length, boot := 0, seq := 1, body := body
    mac := [], path := path0 }
def dcpSigned (key : List Byte) (m : DcpMsg) : DcpMsg := { m with mac := (Config.hmac key (dcpHead m)).toList }
/-- RECOVERY without keys, and with DCP key 0. -/
def recovering : State := inMode .recovery false .attended
def keyed (s : State) : State := { s with rram := { s.rram with nvShadow := [(0, 5), (0x30, 1)] } }
def noKey : List Byte := List.replicate 32 0
def key0 : List Byte := [0, 0, 0, 5] ++ List.replicate 28 0
theorem test_keys : recovering.dcpKey 0 = some noKey ∧ (keyed recovering).dcpKey 0 = some key0 ∧ recovering.keyEmpty = true ∧
    (keyed recovering).keyEmpty = false ∧ recovering.dcpKey 4 = none ∧ recovering.dcpKey 1 = none := by decide +kernel
theorem wellFormed_body {s : State} {key : List Byte} (cmd : BitVec 16) (body mac : List Byte) (k : s.dcpKey 0 = some key)
    (h : body.length ≤ 1400) (l : mac.length = 16) : wellFormed s { dcpBody cmd body with mac := mac } key := by
  refine ⟨rfl, rfl, ?_, h, l, k⟩
  show (BitVec.ofNat 16 body.length).toNat = body.length
  rw [BitVec.toNat_ofNat]
  exact Nat.mod_eq_of_lt (by omega)
theorem authentic_signed {s : State} {key : List Byte} (cmd : BitVec 16) (body : List Byte)
    (k : s.dcpKey 0 = some key) (h : body.length ≤ 1400) : authentic s (dcpSigned key (dcpBody cmd body)) key :=
  ⟨wellFormed_body cmd body _ k h Vector.length_toList, rfl⟩
theorem newRequest_signed {s : State} {key : List Byte} (cmd : BitVec 16) (body : List Byte)
    (k : s.dcpKey 0 = some key) (h : body.length ≤ 1400) (b : s.nv nvrBootcnt = 0) (l : s.boot.lastSeq = []) :
    newRequest s (dcpSigned key (dcpBody cmd body)) key :=
  ⟨authentic_signed cmd body k h, b.symm, by
    show (Sparse.get 0 s.boot.lastSeq 0).toNat < 1
    rw [l]
    decide⟩
theorem test_dcp_ident : newRequest recovering (dcpSigned noKey (dcpBody 1 [])) noKey :=
  newRequest_signed 1 [] (by decide +kernel) (by decide) (by decide +kernel) (by decide +kernel)
theorem test_dcp_commands : ∀ c ∈ [((0x10 : BitVec 16), ([0] : List Byte)), (0x12, [1]), (0x13, [0]), (0x31, [0, 0, 0, 1]), (3, [3]),
    (0x11, [0, 0] ++ bytesBE 4 8 ++ [1, 2, 3, 4]), (0x30, [0, 1, 0, 0] ++ noKey), (0x32, List.replicate 24 1), (0x8001, []), (0x7777, [])],
    newRequest (keyed recovering) (dcpSigned key0 (dcpBody c.1 c.2)) key0 := fun c hc =>
  newRequest_signed c.1 c.2 (by decide +kernel) (by revert c; decide) (by decide +kernel) (by decide +kernel)
theorem test_dcp_in_attended : newRequest (keyed up) (dcpSigned key0 (dcpBody 0x20 (bytesBE 6 0x1000 ++ bytesBE 2 4))) key0 ∧
    newRequest (keyed up) (dcpSigned key0 (dcpBody 0x21 (bytesBE 6 0x1000 ++ bytesBE 2 4 ++ [1, 2, 3, 4]))) key0 ∧
    newRequest (keyed up) (dcpSigned key0 (dcpBody 0x11 ([0, 0] ++ bytesBE 4 8 ++ [1, 2, 3, 4]))) key0 ∧
    newRequest (keyed up) (dcpSigned key0 (dcpBody 0x8001 [])) key0 ∧ (keyed up).power.mode = .attended ∧
    ((keyed up).nv 0x32).getLsbD 0 = false :=
  ⟨newRequest_signed _ _ (by decide +kernel) (by decide) (by decide +kernel) (by decide +kernel),
   newRequest_signed _ _ (by decide +kernel) (by decide) (by decide +kernel) (by decide +kernel),
   newRequest_signed _ _ (by decide +kernel) (by decide) (by decide +kernel) (by decide +kernel),
   newRequest_signed _ _ (by decide +kernel) (by decide) (by decide +kernel) (by decide +kernel), by decide +kernel, by decide +kernel⟩
theorem test_dcp_modes : recovering.power.mode.romAlone = true ∧ up.power.mode.program = true ∧ up.power.mode.romAlone = false ∧
    recovering.power.mode.program = false ∧ recovering.power.mode ≠ .sealed ∧ (keyed recovering).rram.nvQueue.length ≤ 16 ∧
    (keyed recovering).nvN 0x31 = 0 ∧ (keyed recovering).imgReason false ≠ 0 := by decide +kernel

/-- R365: a request with a wrong MAC, of another boot, of a SEQ below the last, and one sent again. -/
def heard (seq : BitVec 64) (m : DcpMsg) : State :=
  { recovering with boot := { recovering.boot with lastSeq := [(0, seq)], lastReq := [(0, m)], lastReply := [(0, m)] } }
def laterBoot : State := { recovering with rram := { recovering.rram with nvShadow := [(nvrBootcnt, 5)] } }
theorem test_wrong_mac (b : Vector Byte 16) : ∃ mac : List Byte, mac.length = 16 ∧ mac ≠ b.toList := by
  by_cases h : b.toList = List.replicate 16 0
  · exact ⟨List.replicate 16 1, rfl, by rw [h]; decide⟩
  · exact ⟨List.replicate 16 0, rfl, fun e => h e.symm⟩
theorem test_dcp_refused : (dcpSigned noKey (dcpBody 1 [])).boot ≠ laterBoot.nv nvrBootcnt ∧
    (dcpSigned noKey (dcpBody 1 [])).seq.toNat < (Sparse.get 0 (heard 2 (dcpBody 1 [])).boot.lastSeq 0).toNat := by
  constructor
  · show (0 : BitVec 32) ≠ _
    decide +kernel
  · show (1 : BitVec 64).toNat < _
    decide +kernel
theorem dcpSame_self (m : DcpMsg) : dcpSame m m = true := beq_self_eq_true m
theorem test_dcp_again : let m := dcpSigned noKey (dcpBody 1 [])
    (0, m) ∈ (heard 1 m).boot.lastReq ∧ m.seq = Sparse.get 0 (heard 1 m).boot.lastSeq 0 ∧ dcpSame m m = true ∧
    (heard 1 m).boot.lastReply.find? (fun e => e.1 == 0) = some (0, m) ∧ authentic (heard 1 m) m noKey :=
  ⟨List.mem_singleton_self _, rfl, dcpSame_self _, rfl, authentic_signed 1 [] (by decide +kernel) (by decide)⟩

/-- R319, R364: the boot ROM alone, with the datagram's way open, and with its DCP port another. -/
def reached (s : State) : State :=
  ((((s.setReg clsBase 5000).setReg (clsBase + 0x100) 0x90000000).setReg (clsBase + 0x110) 0x0A000002).setReg (ethAddr 0 0) 0x10)
    |>.setSub 0 0 { SubPort.none with link := true }
theorem test_service : serviceOpen (reached recovering) (dcpBody 1 []) ∧ recovering.romServes = true ∧
    recovering.dcpArrives path0 = false ∧ up.romServes = false ∧ up.romCaller 0 = none ∧ up.romCaller 16 = none := by
  refine ⟨⟨by decide +kernel, by decide +kernel⟩, ?_⟩
  decide +kernel

/-! #### The calls of a Keeper program (R369) -/

/-- Memory with the bytes at an address and nothing else. -/
def cellsAt : Nat → List Byte → List Host.Cell
  | _, [] => []
  | a, b :: l => (a, b) :: cellsAt (a + 1) l
theorem memByte_cellsAt : ∀ (l : List Byte) (a i : Nat), i < l.length → memByte (cellsAt a l) (a + i) = l.getD i 0
  | [], _, _, h => absurd h (Nat.not_lt_zero _)
  | b :: l, a, 0, _ => by simp [cellsAt, memByte, Sparse.get]
  | b :: l, a, i + 1, h => by
    have ih := memByte_cellsAt l (a + 1) i (by simpa using h)
    simp only [memByte, cellsAt, Sparse.get] at ih ⊢
    rw [if_neg (by omega), show a + (i + 1) = a + 1 + i by omega, ih]
    rfl
/-- What HD's agents read in a frame of their pool. -/
theorem agentByte_pool {s : State} {a : Nat} (r : s.reaches 2 a = true) (p : s.statePage (a / 4096) = none)
    (i : s.image (a / 4096) = none) (f : ¬ a / 4096 < 0x4000000) : s.agentByte 2 a = memByte s.mem a := by
  have e : a / 2 * 2 / 4096 = a / 4096 := by omega
  have m : ∀ b : Nat, b % 2 = 0 → a / 4096 * 4096 + (a / 2 * 2) % 4096 + 2 * 0 = a / 2 * 2 := by intro b _; omega
  unfold State.agentByte State.loamWords State.served
  rw [if_pos r, e]
  simp only [p, i, if_neg f, List.range_one, List.map_cons, List.map_nil]
  rw [m 0 rfl]
  unfold State.word memWord
  by_cases h : a % 2 = 0
  · rw [if_pos h, BitVec.setWidth_append_eq_right, show a / 2 * 2 = a by omega]
  · rw [if_neg h, show a / 2 * 2 + 1 = a by omega]
    apply BitVec.eq_of_getLsbD_eq
    intro j hj
    have : (memByte s.mem a ++ memByte s.mem (a / 2 * 2)).getLsbD (8 + j) = (memByte s.mem a).getLsbD j := by
      rw [BitVec.getLsbD_append, if_neg (by omega), show 8 + j - 8 = j by omega]
    simpa [hj] using this

/-- The buffer, and a device whose Keeper 1 calls an entry of the boot ROM with a frame in it. -/
def bufAt : Nat := 0x4020000000
def caller (off len : Nat) : Keeper :=
  let k := up.keeper 1
  { k with
    eff := [(0xFE04, 0x83)]
    cpu := { k.cpu with pc := BitVec.ofNat 16 off, w := ((((k.cpu.w.set 15 0x9000).set 0 (BitVec.ofNat 16 bufAt)).set 1
      (BitVec.ofNat 16 (bufAt / 65536))).set 2 (BitVec.ofNat 16 (bufAt / 2 ^ 32))).set 3 (BitVec.ofNat 16 len) } }
def called (off len : Nat) (l : List Byte) : State :=
  { keyed up with keepers := up.keepers.set 1 (caller off len), mem := cellsAt bufAt l }
theorem called_pool (off len : Nat) (l : List Byte) : (framePool (called off len l).part 0x4020000).map poolDie = some 2 :=
  (by decide +kernel : (framePool up.part 0x4020000).map poolDie = some 2)
theorem addrDie_of {p : Part} {a : Nat} {x : Option Nat} (h : inPlinth a = false) (h' : ¬ (rdWindow ≤ a ∧ a < guestBase))
    (e : (framePool p (a / 4096)).map poolDie = x) : addrDie p a = x := by
  unfold addrDie
  rw [h, if_neg Bool.false_ne_true, if_neg h', e]
theorem agentBytes_called (off len n : Nat) (l : List Byte) (h : l.length ≤ 4096) (h' : n ≤ l.length) :
    (called off len l).agentBytes 2 bufAt n = l.take n := by
  refine List.ext_getElem (by simp [State.agentBytes]; omega) (fun i h1 h2 => ?_)
  have hi : i < l.length := by rw [List.length_take] at h2; omega
  have f : (bufAt + i) / 4096 = 0x4020000 := by unfold bufAt; omega
  simp only [State.agentBytes, List.getElem_map, List.getElem_range]
  rw [agentByte_pool (s := called off len l)]
  · rw [List.getElem_take]
    show memByte (cellsAt bufAt l) (bufAt + i) = l[i]
    rw [memByte_cellsAt _ _ _ hi, List.getD_eq_getElem?_getD, List.getElem?_eq_getElem hi]
    rfl
  · have d : addrDie (called off len l).part (bufAt + i) = some 2 := by
      have a : inPlinth (bufAt + i) = false := by
        rw [inPlinth, decide_eq_false_iff_not]
        unfold bufAt guestBase
        omega
      have b : ¬ (rdWindow ≤ bufAt + i ∧ bufAt + i < guestBase) := by unfold bufAt rdWindow; omega
      exact addrDie_of a b (by rw [f]; exact called_pool off len l)
    have u : (called off len l).frameUp 0x4020000 = true := by
      have a : (called off len l).part = up.part := rfl
      have b : (called off len l).power = up.power := rfl
      unfold State.frameUp
      rw [a, b]
      exact (by decide +kernel : up.frameUp 0x4020000 = true)
    have g : (called off len l).routeUp 2 2 = true := rfl
    unfold State.reaches State.forwardUp
    rw [f, d, u]
    cases (called off len l).forwardDie 0x4020000 <;> exact g
  · rw [f]; exact (by decide +kernel : (called 0 0 []).statePage 0x4020000 = none)
  · rw [f]; exact (by decide +kernel : (called 0 0 []).image 0x4020000 = none)
  · rw [f]; decide

/-- A frame from 10.0.0.1 to 10.0.0.2, from port 4000 to port 5000, with 36 bytes of payload. -/
def frameOf (payload : List Byte) : List Byte :=
  List.replicate 12 0 ++ [8, 0, 0x45, 0, 0, 64, 0, 0, 0x40, 0, 0x40, 0x11, 0x26, 0xAB, 10, 0, 0, 1, 10, 0, 0, 2, 0x0F, 0xA0, 0x13, 0x88,
    0, 44, 0, 0] ++ payload
def dgramOf (payload : List Byte) : Datagram :=
  { v6 := false, src := [10, 0, 0, 1], dst := [10, 0, 0, 2], sport := 4000, dport := 5000, off := 42, payload := payload }
def ipOf (payload : List Byte) : RxIp :=
  { v6 := false, proto := 17, options := false, fragment := false, multi := false, src := [10, 0, 0, 1], dst := [10, 0, 0, 2]
    l4 := [0x0F, 0xA0, 0x13, 0x88, 0, 44, 0, 0] ++ payload }
theorem frameUdp_frameOf (p z : List Byte) (h : p.length = 36) : frameUdp (frameOf p ++ z) = some (dgramOf p) := by
  have f : parseFrame (frameOf p ++ z) = { tags := 0, svlan := false, vid := 0, etype := 0x0800, off := 14 } := by
    have : be16 (frameOf p ++ z) 12 = 0x0800 := rfl
    unfold parseFrame
    rw [this]
    rfl
  have n : ¬ ((frameOf p ++ z).drop 14).length < 64 := by simp [frameOf, h]
  have t : ((frameOf p ++ z).drop 14).take 64 = (frameOf p).drop 14 := by
    rw [List.drop_append_of_le_length (by simp [frameOf]), List.take_append_of_le_length (by simp [frameOf, h])]
    exact List.take_of_length_le (by simp [frameOf, h])
  have ip : parseIp4 ((frameOf p ++ z).drop 14) = some (ipOf p) := by
    have a : (byteAt ((frameOf p ++ z).drop 14) 0).toNat = 0x45 := rfl
    have b : be16 ((frameOf p ++ z).drop 14) 2 = 64 := rfl
    have c : inetSum (((frameOf p ++ z).drop 14).take 20) = 0 :=
      (by decide +kernel : inetSum [0x45, 0, 0, 64, 0, 0, 0x40, 0, 0x40, 0x11, 0x26, 0xAB, 10, 0, 0, 1, 10, 0, 0, 2] = 0)
    unfold parseIp4
    rw [a, b]
    rw [if_neg (by rw [c]; simp only [n]; decide), t]
    have d : ((byteAt ((frameOf p ++ z).drop 14) 9).toNat = 17) ∧ be16 ((frameOf p ++ z).drop 14) 6 = 0x4000 ∧
        be32 ((frameOf p ++ z).drop 14) 16 = 0x0A000002 := ⟨rfl, rfl, rfl⟩
    rw [d.1, d.2.1, d.2.2]
    rfl
  unfold frameUdp
  simp only [f, ip, Option.bind_some]
  unfold udpOf ipOf
  have b : be16 ([0x0F, 0xA0, 0x13, 0x88, 0, 44, 0, 0] ++ p) 4 = 44 := rfl
  have m : ([0x0F, 0xA0, 0x13, 0x88, 0, 44, 0, 0] ++ p : List Byte).length = 44 := by simp [h]
  have u : ([0x0F, 0xA0, 0x13, 0x88, 0, 44, 0, 0] ++ p : List Byte).take 44 = [0x0F, 0xA0, 0x13, 0x88, 0, 44, 0, 0] ++ p :=
    List.take_of_length_le (by omega)
  simp only [b, m, u]
  rfl

/-- DCP_SERVE called with a request's frame: of a wrong MAC, of a command of the program range; and DCP_REPLY with the same frame. -/
def callMsg (cmd : BitVec 16) (mac : List Byte) : DcpMsg := { dcpBody cmd [] with mac := mac }
def pad : List Byte := List.replicate 4018 0
theorem page_length {p : List Byte} (h : p.length = 36) : (frameOf p ++ pad).length = 4096 := by
  rw [List.length_append, pad, List.length_replicate]
  simp [frameOf, h]
def serving (off : Nat) (m : DcpMsg) : State := called off 78 (frameOf (dcpBytes m) ++ pad)
theorem called_keeper (off len : Nat) (l : List Byte) : (called off len l).keeper 1 = caller off len := by
  simp [called, State.keeper]
theorem test_called : (caller 0 78).cpu.callBuffer = bufAt ∧ (caller 16 78).cpu.callBuffer = bufAt ∧ (caller 0 78).cpu.w[3].toNat = 78 ∧
    (caller 16 78).cpu.w[3].toNat = 78 ∧ (called 0 78 []).romCaller 0 = some 1 ∧ (called 16 78 []).romCaller 16 = some 1 ∧
    (called 0 78 []).romServes = false ∧ Sparse.get none (called 0 78 []).claims 3 = none ∧ (caller 16 78).cpu.w[4].toNat = 0 := by
  decide +kernel
theorem buffer_of {s : State} (a : s.part = up.part) (b : s.power = up.power) : s.romBuffer bufAt = true := by
  unfold State.romBuffer State.frameUp
  rw [a, b]
  exact (by decide +kernel : up.romBuffer bufAt = true)
theorem serving_buffer (off : Nat) (m : DcpMsg) : (serving off m).romBuffer bufAt = true := buffer_of rfl rfl
theorem dcpBytes_length (cmd : BitVec 16) {mac : List Byte} (h : mac.length = 16) : (dcpBytes (callMsg cmd mac)).length = 36 := by
  simp [dcpBytes, dcpHead, callMsg, dcpBody, bytesBE, h]
theorem serving_frame (off : Nat) (cmd : BitVec 16) {mac : List Byte} (h : mac.length = 16) :
    (serving off (callMsg cmd mac)).agentBytes 2 bufAt 78 = frameOf (dcpBytes (callMsg cmd mac)) := by
  have n := dcpBytes_length cmd h
  rw [serving, agentBytes_called _ _ _ _ (by rw [page_length n]) (by rw [page_length n]; omega), List.take_append_of_le_length (by simp [frameOf, n])]
  exact List.take_of_length_le (by simp [frameOf, n])
theorem serving_page (off : Nat) (cmd : BitVec 16) {mac : List Byte} (h : mac.length = 16) :
    (serving off (callMsg cmd mac)).agentBytes 2 bufAt 4096 = frameOf (dcpBytes (callMsg cmd mac)) ++ pad := by
  have n := dcpBytes_length cmd h
  rw [serving, agentBytes_called _ _ _ _ (by rw [page_length n]) (by rw [page_length n])]
  exact List.take_of_length_le (by rw [page_length n])
theorem serve_called (cmd : BitVec 16) {mac : List Byte} (h : mac.length = 16) :
    serveCalled (serving 0 (callMsg cmd mac)) 1 (callMsg cmd mac) (dgramOf (dcpBytes (callMsg cmd mac))) := by
  have k : (serving 0 (callMsg cmd mac)).keeper 1 = caller 0 78 := called_keeper _ _ _
  have c : (serving 0 (callMsg cmd mac)).romCaller 0 = some 1 := test_called.2.2.2.2.1
  unfold serveCalled
  simp only [k, test_called.1, test_called.2.2.1]
  exact ⟨rfl, c, by decide, serving_buffer _ _, by
    rw [serving_frame _ _ h]
    simpa using frameUdp_frameOf _ [] (dcpBytes_length cmd h),
    rfl, rfl, rfl, rfl, rfl, rfl⟩

/-- A call with a wrong MAC, with an authentic command of the program range, and while claim 3 is held. -/
theorem test_program_call : let m := dcpSigned key0 (dcpBody 0x8001 [])
    serveCalled (serving 0 m) 1 m (dgramOf (dcpBytes m)) ∧ newRequest (serving 0 m) m key0 ∧ (serving 0 m).keyEmpty = false ∧
    (serving 0 m).power.mode.program = true ∧ Sparse.get none (serving 0 m).claims 3 = none :=
  ⟨serve_called 0x8001 Vector.length_toList, newRequest_signed _ _ test_keys.2.1 (by decide) rfl rfl, rfl, rfl, rfl⟩
theorem test_wrong_call (mac : List Byte) (h : mac.length = 16) : serveCalled (serving 0 (callMsg 1 mac)) 1 (callMsg 1 mac)
    (dgramOf (dcpBytes (callMsg 1 mac))) ∧ wellFormed (serving 0 (callMsg 1 mac)) (callMsg 1 mac) key0 :=
  ⟨serve_called 1 h, wellFormed_body 1 [] mac test_keys.2.1 (by decide) h⟩
theorem test_busy_call : let s : State := { serving 0 (callMsg 1 (List.replicate 16 0)) with claims := [(3, some 0x81)] }
    serveCalled s 1 (callMsg 1 (List.replicate 16 0)) (dgramOf (dcpBytes (callMsg 1 (List.replicate 16 0)))) ∧
    Sparse.get none s.claims 3 ≠ none := ⟨serve_called 1 (mac := List.replicate 16 0) (by decide), by decide⟩
/-- DCP_REPLY with the same frame, as its key's last request and not. -/
def replying (seq : BitVec 64) (m : DcpMsg) : State :=
  { serving 16 m with boot := { (serving 16 m).boot with lastSeq := [(0, seq)] } }
theorem test_reply_call (seq : BitVec 64) : let m := dcpSigned key0 (dcpBody 0x8001 [])
    let s := replying seq m
    let u := (s.keeper 1).cpu
    let d := dgramOf (dcpBytes m)
    s.romServes = false ∧ s.romCaller 16 = some 1 ∧ s.romBuffer u.callBuffer = true ∧
    frameUdp (s.agentBytes 2 u.callBuffer 4096) = some d ∧ 36 ≤ d.payload.length ∧ u.w[3].toNat % 256 = (78 : Byte).toNat ∧
    u.w[4].toNat = ([] : List Byte).length ∧ Sparse.get none s.claims 3 = none ∧ Sparse.get 0 s.boot.lastSeq (headerMsg d 0 0).keyId.toNat = seq ∧
    (headerMsg d 0 0).seq = 1 := by
  intro m s u d
  have l : (Config.hmac key0 (dcpHead (dcpBody 0x8001 []))).toList.length = 16 := Vector.length_toList
  have k : s.keeper 1 = caller 16 78 := called_keeper 16 78 (frameOf (dcpBytes m) ++ pad)
  have b : u.callBuffer = bufAt := by
    show (s.keeper 1).cpu.callBuffer = bufAt
    rw [k, test_called.2.1]
  refine ⟨rfl, test_called.2.2.2.2.2.1, ?_, ?_, ?_, ?_, ?_, rfl, rfl, ?_⟩
  · rw [b]; exact buffer_of rfl rfl
  · rw [b]
    show frameUdp ((serving 16 (callMsg 0x8001 _)).agentBytes 2 bufAt 4096) = _
    rw [serving_page 16 0x8001 l]
    exact frameUdp_frameOf _ _ (dcpBytes_length 0x8001 l)
  · exact (dcpBytes_length 0x8001 l).ge
  · show (s.keeper 1).cpu.w[3].toNat % 256 = 78
    rw [k, test_called.2.2.2.1]
  · show (s.keeper 1).cpu.w[4].toNat = 0
    rw [k, test_called.2.2.2.2.2.2.2.2]
  · show BitVec.ofNat 64 (ofBytesBE (bytesBE 8 1)) = 1
    decide
theorem test_datagram_of_call (p : List Byte) (h : p.length = 36) : frameUdp (frameOf p) = some (dgramOf p) := by
  simpa using frameUdp_frameOf p [] h

/-! ### Loam -/

/-- R382 to R385: a node reaches memory, and an address of no range. -/
theorem test_reaches : reaches up 0x82 0x2000 64 ∧ up.mayIssueReq 0x82 1 false 0 = true ∧ up.mayIssueReq 0x82 1 true 64 = true ∧
    noState up 0x2000 ∧ badWords up 0x2000 64 = false ∧ addrDie up.part 0x200000000000 = none := by
  refine ⟨⟨by decide, by decide, by decide, by decide, by decide +kernel, by decide +kernel, 0, by decide +kernel, by decide,
    fun _ => by decide +kernel, by decide +kernel⟩, by decide +kernel, by decide +kernel, ⟨by decide +kernel, by decide +kernel⟩, by decide +kernel, by decide +kernel⟩
/-- R76: no context's page and no title's lies in the frame. -/
theorem test_no_lines : linesClean up 0x2000 := by
  intro c tag h
  have e : up.linesOf c (up.homeOf 2) 0 = [] := rfl
  rw [show (0x2000 : Nat) / 4096 = 2 from rfl, show (0x2000 : Nat) % 4096 / 2 = 0 from rfl, e] at h
  cases h
theorem test_atomic : atomShape 2 = some (4, 4, 2) ∧ 0x2000 % 4 = 0 ∧ badWords up 0x2000 2 = false ∧
    (atomNew 2 (ofWordsLE (readWords up 0x2000 2)) [0, 0, 9, 9]).isSome = true ∧
    atomNew 2 (ofWordsLE (readWords up 0x2000 2)) [1, 0, 9, 9] = none := by decide +kernel
theorem test_loam_write : (after (.wr 0x82 1 0x2000 [7] true false) up).word 0x2000 = 7 ∧
    (after (.wr 0x82 1 0x2000 [7] true false) up).loam.length = 1 := by decide +kernel

/-- R384, R390 to R392: requests that wait for their response, of each operation, with each status. -/
def asked (op : LoamOp) (status : BitVec 4) (data : List Word) : LoamReq := { issued 0x82 1 op 0x2000 1 [] with status := status, resp := data }
def asking (r : LoamReq) : State := { up with loam := [r] }
theorem test_responses : ∀ e ∈ [LoamOp.rd, .wr, .pwr, .atom], (asking (asked e 0 [7])).findReq 0x82 1 e = some (asked e 0 [7]) ∧
    (asking (asked e 2 [])).findReq 0x82 1 e = some (asked e 2 []) ∧ (asking (asked e 1 [])).findReq 0x82 1 e = some (asked e 1 []) ∧
    (asked e 0 [7]).attempts < 4 ∧ (asked e 0 [7]).addr.toNat < rdWindow ∧ (asked e 0 [7]).poison = false ∧
    (asked e 0 [7]).wrong = false := by decide +kernel
theorem test_cured : (asking { asked .rd 0 [7] with attempts := 2 }).findReq 0x82 1 .rd = some { asked .rd 0 [7] with attempts := 2 } ∧
    (framePool up.part (0x2000 / 4096)).isSome = true := by decide +kernel
/-- R392: a request younger than TIMEOUT, and one as old. -/
theorem test_timeouts : (asked .rd 0 []).age < (asking (asked .rd 0 [])).loamTimeout 0x82 ∧
    (asking { asked .rd 0 [] with age := 2000 }).loamTimeout 0x82 ≤ 2000 ∧ nodeDie 0x82 = 2 ∧
    (asking (asked .rd 0 [])).loam.find? (fun r => r.node == 0x82 && r.tag == 1) = some (asked .rd 0 []) ∧
    (asking { asked .rd 0 [] with age := 2000 }).loam.find? (fun r => r.node == 0x82 && r.tag == 1) =
      some { asked .rd 0 [] with age := 2000 } := by decide +kernel
theorem test_response_taken : (after (.rdr 0x82 1 true) (asking (asked .rd 0 [7]))).answer = 7 ∧
    (after (.rdr 0x82 1 true) (asking (asked .rd 0 [7]))).loam = [] := by decide +kernel

/-- R379, R437: links with modules that retrain, one left and more. -/
def retraining (l : Fin 4) (n r : Nat) : State := { up with links := up.links.set l.val { up := n, retraining := r } }
theorem test_links : ∀ l : Fin 4, (retraining l 4 1).links[l.val] = { up := 4, retraining := 1 } ∧
    (retraining l 1 1).links[l.val] = { up := 1, retraining := 1 } ∧ up.links[l.val].retraining = 0 ∧ up.links[l.val].retraining < up.links[l.val].up := by
  decide +kernel
theorem test_module_fails : (after (.moduleFail 2) (retraining 2 4 1)).links[2].up = 3 := by decide +kernel
theorem test_credit_pools : up.power.hub = true ∧ up.power.stepOn 6 = true ∧ up.power.stepOn 28 = true := by decide +kernel
theorem test_pools_named : dieLinkNo 2 1 = some 1 ∧ 0 < linkPools 1 := by decide +kernel

/-- R388, R397, R403: messages of Keepers and of the guest, sound and not, in PLINTH_TEST too; a line at its level; a doorbell. -/
theorem test_messages : up.writesDone 0x82 = true ∧ up.writesDone 0xC0 = true ∧ up.linkUp 3 = true ∧ up.power.mode ≠ .plinthTest ∧
    (inMode .plinthTest false .attended).power.mode = .plinthTest ∧ (inMode .plinthTest false .attended).writesDone 0xC0 = true ∧
    (256 : Word).toNat < 512 ∧ up.dicLine 4 = false ∧ up.plinth.msgBad ≠ 255 ∧ up.plinth.resetN = false := by decide +kernel
def badGuest : State := { up with plinth := { up.plinth with msgBad := 255, resetN := true, present := true } }
theorem test_bad_guest : badGuest.plinth.msgBad = 255 ∧ badGuest.plinth.resetN = true ∧ badGuest.writesDone 0xC0 = true := by decide +kernel
def partP : State := { badGuest with part := .sr16k128p }
theorem test_guest_doorbell : partP.isP = true ∧ partP.plinth.present = true ∧ partP.power.mode ≠ .plinthTest ∧
    0x100 ≤ ((0x01000000 : Reg32) >>> 16).toNat := by decide +kernel

/-- R381, R382: a read of 64 words in one flit, and a write of them, 8 + 64 words, in three; the first header word of the read is OP
00001, four zeros and LEN 1000000. -/
def readPkt : Packet :=
  { op := 1, len := 64, src := 0x82, dst := 0x80, tag := 5, poison := false, fwd := false, addr := 0x2000, status := 0, atype := 0
    mtype := 0, marg := 0, data := [] }
def writePkt : Packet := { readPkt with op := 2, data := List.replicate 64 7 }
theorem test_loam_packets : readPkt.wf = true ∧ writePkt.wf = true ∧ (readPkt.flits (fun _ => 0)).length = 1 ∧
    (writePkt.flits (fun _ => 0)).length = 3 ∧ ((readPkt.flits (fun _ => 0)).getD 0 []).getD 1 0 = 0x0840 := by decide +kernel

/-! ### The Plinth site -/

/-- A part with a guest die: not PRESENT, and PRESENT with its link up. -/
def part128p : State := { up with part := .sr16k128p, plinth := { up.plinth with pwrGood := true } }
def present : State := { part128p with plinth := { part128p.plinth with present := true, resetN := true } }
theorem test_site : part128p.isP = true ∧ part128p.power.hub = true ∧ part128p.plinth.present = false ∧ part128p.plinth.pwrGood = true ∧
    present.plinth.present = true ∧ present.plinth.resetN = true ∧ up.plinth.pwrGood = false := by decide +kernel
/-- R403: the guest's flits of a sound read, and flits of none. -/
theorem test_isolation : readPacket (readPkt.flits (fun _ => 0)) = some readPkt ∧ readPacket [] = none ∧
    (5 : Byte).toNat ≤ 7 ∧ present.plinth.resetN = true ∧ part128p.plinth.resetN = false := by decide +kernel
theorem test_site_runs : (after (.plinthRun 0) part128p).plinth.present = true ∧ (after (.plinthRun 0) part128p).links[3].up = 2 := by
  decide +kernel

/-- R397: a line of the guest that is up. -/
theorem test_line_up : ({ present.setReg (dicBase + 4 * 64) 0x100001 with dic := { present.dic with pend := 1 <<< 64 } }).dicLine 4 = true := by
  decide +kernel

/-- R398 to R400: a slot whose tap has an item, with a ring that takes it and one that is full. -/
def spP : State := { sp with part := .sr16k128p, plinth := { sp.plinth with pwrGood := true, present := true, resetN := true } }
def tapItem0 : TapItem :=
  { kind := 1, frame := 0, band := 0, depth := 0, width := 320, line0 := 0, nlines := 4, rel := 5, late := false, seq := 0, flags := 0
    final := true, data := [] }
def tapping (idx : Reg32) (s : State) : State :=
  { s.modSlot 0 (fun y => { y with tapQ := [tapItem0] }) with plinth := { s.plinth with idx := [(0, idx)] } }
theorem test_taps : (tapping 0 spP).heldSlot cc = some 0 ∧ ((tapping 0 spP).slot 0).tapQ = [tapItem0] ∧ (tapping 0 spP).tapsOn = true ∧
    (tapping 0 sp).tapsOn = false ∧ tapRing (spP.regN (tapAddr 0 8)) = 2 ∧ field (spP.regN (tapAddr 0 12)) 16 16 = 0 := by decide +kernel
theorem test_tap_is_written : (after (.tapItem cc) (tapping 0 spP)).wire.length = 2 ∧
    (after (.tapItem cc) (tapping 2 spP)).regN (plnBase + 0x10) = 1 := by decide +kernel

/-- A return of 100 bytes for item 0 of slot 0, which is still open; is done; and was never sent. -/
def returned : List Word := [0, 0, 0, 0, 0, 0, 0x4000, 0, 100, 0x8000, 0, 0, 0, 0, 0, 0]
def tapSent0 (done : Bool) (kind : Nat) : TapSent :=
  { slot := 0, idx := 0, kind := kind, frame := 0, band := 0, rel := 5, flags := 0, final := true, count := 0, open_ := 0, done := done }
def awaiting (l : List TapSent) : State :=
  { spP.setReg (tapAddr 0 0) 2 with plinth := { spP.plinth with delivered := l } }
theorem test_tap_return : (awaiting []).tapsOn = true ∧ returned.length = 16 ∧ (awaiting []).slotHeld 0 = true ∧ (awaiting []).slotHeld 1 = false ∧
    returnWord returned 0 = 0 ∧ returnWord returned 3 = 0x4000 ∧ returnWord returned 4 = 0x80000064 ∧ 2 ≤ ((awaiting []).tmode 0).toNat ∧
    (awaiting []).tapAgent 0 = 0 ∧ ((awaiting []).slot 0).audioQ.length < 16 ∧ ((awaiting []).slot 0).videoBands.length < 16 := by
  decide +kernel
theorem test_tap_found : ∀ d k, (awaiting [tapSent0 d k]).plinth.delivered.find? (fun e => e.slot.toNat == 0 && e.idx == 0) =
    some (tapSent0 d k) := fun _ _ => rfl
theorem test_tap_answers : (after (.tapReturn 0 returned) (awaiting [])).answer = 8 ∧
    (after (.tapReturn 0 returned) (awaiting [tapSent0 true 1])).answer = 8 ∧
    (after (.tapReturn 0 returned) (awaiting [tapSent0 false 1])).answer = 0 := by decide +kernel

/-! ### What outlives a power loss -/

/-- R421 to R424: the NV queue empty, full, with a write to commit, and with more waiting than it has room for. -/
def nvState (n : Nat) : State := { up with rram := { up.rram with nvQueue := (List.range n).map (fun i => (0x40 + i, 9, 0)) } }
theorem test_nv : (nvState 0).rram.nvQueue.length < 16 ∧ 16 ≤ (nvState 16).rram.nvQueue.length ∧
    (nvState 17).rram.nvQueue.drop 16 = [(0x50, 9, 0)] ∧ (nvState 1).rram.nvQueue = [(0x40, 9, 0)] := by decide +kernel
theorem test_nv_allowed : nvAllowed 0x80 true 0x32 ∧ nvAllowed 0x82 false 0x40 ∧ ¬ nvAllowed 0x82 false 0x32 ∧ ¬ nvAllowed 0xC0 false 0x40 := by
  unfold nvAllowed
  decide +kernel
theorem test_nv_write : (after (.nvrWrite 0x82 false 0x40 7) up).nv 0x40 = 7 ∧
    Sparse.get 0 (after (.nvrCommit true) (after (.nvrWrite 0x82 false 0x40 7) up)).rram.nvCommitted 0x40 = 7 := by decide +kernel

/-- R427 to R429: the log ready, with a record being written, with its queue full, and not ready. -/
def logged (ready : Bool) (writing : Bool) (n : Nat) : State :=
  { up with alog := { up.alog with
    ready := ready, writing := if writing then some (List.replicate 256 0) else none, queue := List.replicate n (List.replicate 256 0) } }
theorem test_log : (logged true false 0).alog.ready = true ∧ (logged true true 0).alog.writing.isSome = true ∧
    (logged true true 64).alog.queue.length = 64 ∧ (logged false false 0).alog.ready = false ∧ (logged true true 1).alog.queue.length = 1 ∧
    (0x80018000 : Reg32).getLsbD 31 = true ∧ 0x8000 ≤ field (0x80018000 : Reg32).toNat 0 16 ∧ field (0x80018000 : Reg32).toNat 16 8 ≤ 224 ∧
    field (0x80017FFF : Reg32).toNat 0 16 < 0x8000 ∧ 224 < field (0x80E18000 : Reg32).toNat 16 8 ∧ (5 : Reg32).getLsbD 31 = false := by
  decide +kernel
theorem test_log_write : (after (.alogWrite 0 0x80018000) (logged true false 0)).alog.next = (logged true false 0).alog.next + 1 ∧
    (after (.alogWrite 0 0x80018000) (logged true true 64)).regN (alogPort 0 4) = 1 := by decide +kernel

/-! ### Pins, peripheral blocks, the monitor and the test access port -/

/-- R446 to R454: a pin whose bank is powered, driven and not, with each trigger; the straps before and after they are taken. -/
def trigger (n : Nat) : State := up.setReg (gpioCfg 5) (n * 8192)
theorem test_pins : (∀ b < 3, up.blockUp b = true) ∧ up.scanned = false ∧ up.filterUp 5 = true ∧ (up.pin 5).switch = 0 ∧ (up.pin 5).owner = 0 ∧
    up.padDrive 5 = none ∧ (trigger 3).pinIrq 5 = 3 ∧ (trigger 1).pinIrq 5 = 1 ∧ (trigger 2).pinIrq 5 = 2 ∧ up.pinLogic 5 = true ∧
    up.periph.strapped = false := by decide +kernel
theorem test_pin_changes : ((after (.debounceChange 5 (!(up.pin 5).filt)) (trigger 3)).dic.pend.getLsbD 133) = true := by decide +kernel
/-- R449: two masked writes of one latch with disjoint masks, and two whose masks share a bit. -/
theorem test_masked_writes : (∀ i < 16, (0x00200020 : Reg32).getLsbD (16 + i) = true → (0x00100010 : Reg32).getLsbD (16 + i) = false) ∧
    (after (.gpioOutWrite 0 false 0x00300010) (after (.gpioOutWrite 0 false 0x00200020) up)).regN (gpioOut 0) = 0x10 ∧
    (after (.gpioOutWrite 0 false 0x00100010) (after (.gpioOutWrite 0 false 0x00200020) up)).regN (gpioOut 0) = 0x30 := by
  decide +kernel
theorem test_pin_output : ((after (.gpioOutWrite 0 true 0x00200020) (after (.gpioOutWrite 0 false 0x00200020) up)).pin 5).raw = true := by
  decide +kernel

/-- R455, R457: an I2C block at rest and busy, UART FIFOs empty, in use and full, a tachometer that is on. -/
def busy (i : Fin 4) : State := { up with periph := { up.periph with i2cBusy := 1 <<< i.val } }
def uartHolds (n : Nat) : State :=
  { up.setReg gpioEn 0xFFFFF with periph := { up.periph with uartTx := Vector.replicate 2 (List.replicate n 7), uartRx := Vector.replicate 2 (List.replicate n 7) } }
theorem test_blocks : (∀ i : Fin 4, up.periph.i2cBusy.getLsbD i.val = false ∧ (busy i).periph.i2cBusy.getLsbD i.val = true) ∧
    (∀ k : Fin 2, (uartHolds 0).periph.uartTx[k.val] = [] ∧ (uartHolds 1).periph.uartRx[k.val] = [7] ∧ (uartHolds 16).periph.uartTx[k.val].length = 16 ∧
      (uartHolds 1).uartOn k = true ∧ up.blockUp k.val = true) := by decide +kernel
/-- Every block enabled, and the pins of the tachometers handed over. -/
def tachs : State := [13, 28, 30, 35].foldl (fun s n => s.modPin n (fun x => { x with owner := ownerOf 0xFFFFF n, switch := 0 })) up
theorem test_tachometer : ∀ k : Fin 4, tachs.tachOn k = true := by decide +kernel
theorem test_uart : (after (.uartRead 0) (uartHolds 1)).answer = 0x80000007 := by decide +kernel
def led (src : Nat) : State := up.setReg (ledAddr 1) src
theorem test_leds : field ((led 4).regN (ledAddr 1)) 0 3 = 4 ∧ field ((led 6).regN (ledAddr 1)) 0 3 = 6 := by decide +kernel

/-- R231, R234, R457 to R459: the monitor off and on, with a canvas that is short and one that is sound, plugged and not. -/
def monitorIs (en hpd pending : Bool) : State := { up with monitor := { up.monitor with en := en, hpd := hpd, pending := pending } }
theorem test_monitor : (monitorIs true true true).monitor.en = true ∧ up.monitor.en = false ∧ up.canvasOk = false ∧ up.monitor.hpd = false ∧
    linkSettings.find? (fun e => decide (monNeed up.monMode * 10 ≤ e.1 * linkRate e.2 * 8) && [(4, 3)].contains e) = some (4, 3) ∧
    linkSettings.find? (fun e => decide (monNeed up.monMode * 10 ≤ e.1 * linkRate e.2 * 8) && ([] : List (Nat × Nat)).contains e) = none := by
  decide +kernel
theorem test_canvas : (up.setReg (monBase + 0x10) 2048).canvasOk = true := by decide +kernel
def withJtag (j : JtagInstr) : State := { up with jtag := { up.jtag with instr := j } }
theorem test_scanned : (withJtag .extest).scanned = true ∧ up.scanned = false ∧ (withJtag .bypass).scanned = false := by decide +kernel
theorem test_idcode : (after .idcode up).jtag.dr = 0x1516AA43 := by decide +kernel

/-! ### Registers with no row of their own, and the clock -/

theorem test_registers_up : ∀ e ∈ setRegisters, up.regUp e.1 = true := by decide +kernel
theorem test_stores_ready : up.storeReady (.keeper 1) = true ∧ sp.storeReady (.session cc) = true ∧ (sp.ses cc).isSome = true := by decide +kernel
theorem test_register_write : ((after (.registerWrite (.io (.keeper 1) 0xFB01 9)) up).keeper 1).int.en = 9 := by decide +kernel
theorem test_clock_runs : up.pending = [] ∧ up.power.mode ≠ .off ∧ up.clock.rootLock = true ∧ State.reset.clock.rootLock = false ∧
    State.reset.pending = [] := by decide +kernel

/-- A step runs the command in front. -/
theorem test_step_runs_front : step { up with pending := [.ptpSet, .supplyOn] } = exec .ptpSet { up with pending := [.supplyOn] } := rfl

end Sys2Proof.Tests
end

/-! ## Resets of Keepers and entries to RECOVERY (R356, R357, R417)

What the interrupt controller, the Accession Log and the resets leave of the power sequencer, of the boot ROM and of the
Keepers' RUN bits, and with it what the second stage of a watchdog does. -/

namespace Sys2Proof.Machine

open Sys2Proof

/-- A Keeper is read of the Keepers alone. -/
theorem State.keeper_congr {s t : State} (h : t.keepers = s.keepers) (k : Fin 4) : t.keeper k = s.keeper k := by
  simp only [State.keeper, h]

/-- The power sequencer, the boot ROM and every Keeper's RUN bit stand as they did. -/
structure SameControl (s t : State) : Prop where
  power : t.power = s.power
  boot : t.boot = s.boot
  running : ∀ k, (t.keeper k).running = (s.keeper k).running

section
variable {s t u : State}

theorem SameControl.refl (s : State) : SameControl s s := ⟨rfl, rfl, fun _ => rfl⟩

theorem SameControl.trans (h : SameControl s t) (i : SameControl t u) : SameControl s u :=
  ⟨i.power.trans h.power, i.boot.trans h.boot, fun k => (i.running k).trans (h.running k)⟩

theorem SameControl.of_eq (hp : t.power = s.power) (hb : t.boot = s.boot) (hk : t.keepers = s.keepers) : SameControl s t :=
  ⟨hp, hb, fun k => congrArg Keeper.running (State.keeper_congr hk k)⟩

/-- The state before the first of two changes may be another with the same control. -/
theorem SameControl.since (h : SameControl t u) (hp : t.power = s.power) (hb : t.boot = s.boot) (hk : t.keepers = s.keepers) :
    SameControl s u :=
  (SameControl.of_eq hp hb hk).trans h

theorem SameControl.foldl {α : Type} {f : State → α → State} (hf : ∀ z a, SameControl z (f z a)) :
    ∀ (l : List α) (s : State), SameControl s (l.foldl f s)
  | [], s => .refl s
  | a :: l, s => (hf s a).trans (SameControl.foldl hf l (f s a))

end

/-- What folds of an update leave of the Keepers. -/
theorem State.foldl_keepers {α : Type} {f : State → α → State} (hf : ∀ z a, (f z a).keepers = z.keepers) :
    ∀ (l : List α) (s : State), (l.foldl f s).keepers = s.keepers
  | [], _ => rfl
  | a :: l, s => (State.foldl_keepers hf l (f s a)).trans (hf s a)

section
variable (s : State)

/-! ### The interrupt controller and the Accession Log -/

theorem State.modKeeper_control (k : Fin 4) {f : Keeper → Keeper} (hf : ∀ x, (f x).running = x.running) :
    SameControl s (s.modKeeper k f) where
  power := s.modKeeper_power k f
  boot := s.modKeeper_boot k f
  running j := by
    rw [State.keeper_modKeeper]
    split
    · next h => rw [hf, h]
    · rfl

theorem State.dicSettleOne_control (k : Fin 4) : SameControl s (s.dicSettleOne k) := by
  unfold State.dicSettleOne
  exact s.modKeeper_control k fun _ => rfl

theorem State.dicSettle_control : SameControl s s.dicSettle := by
  unfold State.dicSettle
  exact (((s.dicSettleOne_control 0).trans (State.dicSettleOne_control _ 1)).trans
    (State.dicSettleOne_control _ 2)).trans (State.dicSettleOne_control _ 3)

theorem State.dicPend_control (n : Nat) : SameControl s (s.dicPend n) := by
  rw [State.dicPend_rest]
  exact .of_eq rfl rfl rfl

theorem State.raiseP_control (n : Nat) : SameControl s (s.raiseP n) := by
  unfold State.raiseP
  split
  · exact (s.dicPend_control n).trans (s.dicPend n).dicSettle_control
  · split
    · exact .of_eq rfl rfl rfl
    · exact .refl s

theorem State.dicLeave_control (n : Nat) : SameControl s (s.dicLeave n) := by
  unfold State.dicLeave
  dsimp only
  split
  · exact (State.dicPend_control _ n).since rfl rfl rfl
  · exact .of_eq rfl rfl rfl

theorem State.dicCompleteAll_control (t : Nat) : SameControl s (s.dicCompleteAll t) := by
  unfold State.dicCompleteAll
  refine (SameControl.foldl (fun z n => ?_) _ s).trans (State.dicSettle_control _)
  split
  · exact z.dicLeave_control n
  · exact .refl z

theorem State.alogStart_control : SameControl s s.alogStart := by
  unfold State.alogStart
  split
  · exact .of_eq rfl rfl rfl
  · exact .refl s

theorem State.alogAccept_control (o : AlogOffer) (lost : Nat) : SameControl s (s.alogAccept o lost) := by
  unfold State.alogAccept
  exact (State.alogStart_control _).since rfl rfl rfl

theorem State.alogLose_control : SameControl s s.alogLose := by
  unfold State.alogLose
  exact (State.raiseP_control _ 34).since rfl rfl rfl

/-- A record, accepted, waiting or lost, leaves the device's control as it is. -/
theorem State.offer_control (code : Word) (origin : Byte) (body : List Byte) : SameControl s (s.offer code origin body) := by
  unfold State.offer
  dsimp only
  split
  · split
    · exact s.alogLose_control
    · exact (s.alogAccept_control _ _).trans (.of_eq rfl rfl rfl)
  · split
    · exact s.alogLose_control
    · exact .of_eq rfl rfl rfl

/-! ### A Keeper is reset -/

/-- A reset of a Keeper stops it; sequencer, boot ROM and the other RUN bits are those of the state before. -/
theorem State.resetKeeper_control (k : Fin 4) :
    SameControl (s.modKeeper k fun x => { Keeper.zero with lineWas := x.lineWas }) (s.resetKeeper k) := by
  unfold State.resetKeeper
  exact (State.dicCompleteAll_control _ k.val).since rfl rfl rfl

theorem State.resetKeeper_running (k j : Fin 4) :
    ((s.resetKeeper k).keeper j).running = if j = k then false else (s.keeper j).running := by
  rw [(s.resetKeeper_control k).running, State.keeper_modKeeper]
  split <;> rfl

/-! ### Domains but AON lose their power -/

theorem State.padsSleep_keepers (l : List Nat) : (s.padsSleep l).keepers = s.keepers :=
  State.foldl_keepers (f := State.sleepPin) (fun _ _ => rfl) l s

theorem State.allGroupsFire_keepers : s.allGroupsFire.keepers = s.keepers :=
  State.foldl_keepers (f := fun z g => z.groupFire g) (fun _ _ => rfl) (List.range 64) s

theorem State.dropRegs_keepers (p : Nat → Bool) : (s.dropRegs p).keepers = s.keepers := rfl
theorem State.dropMem_keepers (p : Nat → Bool) : (s.dropMem p).keepers = s.keepers := rfl
theorem State.dropFrames_keepers (p : Nat → Bool) : (s.dropFrames p).keepers = s.keepers := rfl
theorem State.aonUnits_keepers : s.aonUnits.keepers = s.keepers := rfl

/-- Of the Keepers, hub main's power-down resets 1 to 3 and nothing else. -/
theorem State.hubOff_keepers :
    s.hubOff.keepers = (([1, 2, 3] : List (Fin 4)).foldl (fun (s : State) k => s.resetKeeper k) s).keepers := by
  unfold State.hubOff
  generalize List.foldl _ s _ = z
  dsimp only
  rw [State.dropFrames_keepers, State.dropMem_keepers, State.dropRegs_keepers, State.setReg_keepers, State.padsSleep_keepers]

/-- Hub main's power-down stops Keepers 1 to 3. -/
theorem State.hubOff_running (k : Fin 4) : (s.hubOff.keeper k).running = if k = 0 then (s.keeper k).running else false := by
  rw [State.keeper_congr s.hubOff_keepers, List.foldl_cons, List.foldl_cons, List.foldl_cons, List.foldl_nil]
  simp only [State.resetKeeper_running]
  fin_cases k <;> rfl

/-- With AON alone powered, no Keeper runs. -/
theorem State.aonOnly_running (k : Fin 4) : (s.aonOnly.keeper k).running = false := by
  have hub : s.aonOnly.keepers = (s.resetKeeper 0).allGroupsFire.hubOff.keepers := by
    rw [State.aonOnly, State.aonUnits_keepers, State.dropMem_keepers, State.dropRegs_keepers]
  rw [State.keeper_congr hub, State.hubOff_running]
  split
  · next h => rw [State.keeper_congr (State.allGroupsFire_keepers _), State.resetKeeper_running, if_pos h]
  · rfl

/-! ### The device arrives in a mode -/

theorem State.modeRecord_control (old new : Mode) : SameControl s (s.modeRecord old new) := by
  unfold State.modeRecord
  split
  · exact .refl s
  · exact s.offer_control ..

theorem State.arrive_mode (m : Mode) : (s.arrive m).power.mode = m :=
  congrArg Power.mode (State.raiseP_control _ 64).power

theorem State.arrive_boot (m : Mode) : (s.arrive m).boot = s.boot :=
  (State.raiseP_control _ 64).boot.trans (s.modeRecord_control s.power.mode m).boot

theorem State.arrive_running (m : Mode) (k : Fin 4) : ((s.arrive m).keeper k).running = (s.keeper k).running :=
  ((State.raiseP_control _ 64).running k).trans ((s.modeRecord_control s.power.mode m).running k)

@[simp] theorem State.romReg_keepers (a v : Nat) : (s.romReg a v).keepers = s.keepers := rfl
@[simp] theorem State.bootRearm_keepers (first : Bool) : (s.bootRearm first).keepers = s.keepers := rfl
@[simp] theorem State.bootRingAt_keepers (o i : Nat) : (s.bootRingAt o i).keepers = s.keepers := by
  simp only [State.bootRingAt, State.setReg_keepers, State.romReg_keepers]
@[simp] theorem State.bootLip_keepers (i : Nat) (valid v6 : Bool) (l : List Nat) :
    (s.bootLip i valid v6 l).keepers = s.keepers := by
  simp only [State.bootLip, State.setReg_keepers, State.romReg_keepers]

/-- What the boot ROM sets up when it takes port 0 back are registers and memory. -/
theorem State.bootRomAgain_keepers : s.bootRomAgain.keepers = s.keepers := by
  simp only [State.bootRomAgain, State.bootNet, State.bootLip_keepers, State.setReg_keepers, State.bootRearm_keepers,
    State.bootRingAt_keepers]

/-! ### RECOVERY is entered -/

theorem State.setCause_keepers (c : Byte) : (s.setCause c).keepers = s.keepers := rfl

theorem State.recoveryEntry_mode (cause : Byte) : (s.recoveryEntry cause).power.mode = .recovery :=
  State.arrive_mode _ .recovery

/-- RECOVERY leaves the boot ROM at the step in which it serves DCP, with no program's version. -/
theorem State.recoveryEntry_boot (cause : Byte) :
    (s.recoveryEntry cause).boot.step = 4 ∧ (s.recoveryEntry cause).boot.version = 0 := by
  unfold State.recoveryEntry
  dsimp only
  rw [State.arrive_boot]
  exact ⟨rfl, rfl⟩

theorem State.recoveryEntry_running (cause : Byte) (k : Fin 4) : ((s.recoveryEntry cause).keeper k).running = false := by
  unfold State.recoveryEntry
  dsimp only
  rw [State.arrive_running, State.keeper_congr (State.bootRomAgain_keepers _), State.keeper_congr (State.setCause_keepers _ _)]
  exact State.aonOnly_running _ k

/-! ### The second stage of a watchdog -/

/-- What a watchdog's second stage is, by its Keeper (R356). -/
theorem exec_watchdog_expired {k : Fin 4} (h : s.wdExpired k = true) :
    exec (.watchdog k) s = .next (if k = 0 then (s.wdRecord 0).recoveryEntry 4 else (s.resetKeeper k).wdRecord k) := by
  show execWatchdog k s = _
  rw [execWatchdog, if_pos h]

end

/-- Settles O45: for Keeper 0 by what every entry to RECOVERY leaves, for the others by what the reset of a Keeper leaves. -/
theorem watchdogResets : Obligations.WatchdogResets := by
  intro k s expired
  refine ⟨_, exec_watchdog_expired s expired, ?_⟩
  by_cases hk : k = 0
  · rw [if_pos hk]
    exact ⟨State.recoveryEntry_running _ 4 k, fun h => absurd hk h,
      fun _ => ⟨State.recoveryEntry_mode _ 4, State.recoveryEntry_boot _ 4⟩⟩
  · rw [if_neg hk]
    have record : SameControl (s.resetKeeper k) ((s.resetKeeper k).wdRecord k) := State.offer_control _ ..
    have control := (s.resetKeeper_control k).trans record
    refine ⟨?_, fun _ => ⟨control.power, control.boot⟩, fun h => absurd h hk⟩
    rw [record.running, State.resetKeeper_running, if_pos rfl]

end Sys2Proof.Machine

/-! ## Masked writes of the GPIO latches (R449)

What a masked write leaves in each bit of a latch, and that two of them, each run by its own step, act in the order they come. -/

namespace Sys2Proof.Machine

open Sys2Proof Sys2Proof.Claims

/-! ### Bits of merged values -/

/-- What a mask picks of a number and what it leaves make up the number. -/
theorem land_add_ldiff (x m : Nat) : (x &&& m) + x.ldiff m = x := by
  induction x using Nat.binaryRec generalizing m with
  | zero => simp [Nat.ldiff]
  | bit b x ih =>
    cases m using Nat.bitCasesOn with
    | bit c m =>
      rw [Nat.land_bit, Nat.ldiff_bit, Nat.bit_val, Nat.bit_val, Nat.bit_val]
      have := ih m
      cases b <;> cases c <;> simp <;> omega

theorem mergeBits_testBit (mask old new i : Nat) :
    (mergeBits mask old new).testBit i = if mask.testBit i then new.testBit i else old.testBit i := by
  have left : old - (old &&& mask) = old.ldiff mask := Nat.sub_eq_of_eq_add' (land_add_ldiff old mask).symm
  rw [mergeBits, left, Nat.testBit_or, Nat.testBit_ldiff, Nat.testBit_and]
  cases mask.testBit i <;> simp

theorem field_testBit (v lo w i : Nat) : (field v lo w).testBit i = (decide (i < w) && v.testBit (lo + i)) := by
  rw [field, Nat.testBit_mod_two_pow, Nat.testBit_div_two_pow, Nat.add_comm]

/-- Bit 16 + `i` of a masked write decides whether bit `i` of the latch is taken from it. -/
theorem maskedWrite_testBit (old : Nat) (v : Reg32) {i : Nat} (hi : i < 16) :
    (maskedWrite old v.toNat).testBit i = latchBit [v] i (old.testBit i) := by
  have low : (v.toNat % 65536).testBit i = v.toNat.testBit i := by
    rw [show 65536 = 2 ^ 16 from rfl, Nat.testBit_mod_two_pow, decide_eq_true hi, Bool.true_and]
  rw [maskedWrite, mergeBits_testBit, field_testBit, decide_eq_true hi, Bool.true_and, low]
  rfl

/-- Where at most one of two writes masks a bit, their order makes no difference to it. -/
theorem latchBit_swap {v w : Reg32} {i : Nat} (h : v.getLsbD (16 + i) = true → w.getLsbD (16 + i) = false) (old : Bool) :
    latchBit [v, w] i old = latchBit [w, v] i old := by
  simp only [latchBit, List.foldl_cons, List.foldl_nil]
  by_cases hv : v.getLsbD (16 + i) = true
  · simp only [hv, h hv, if_true, Bool.false_eq_true, if_false]
  · simp only [hv, Bool.false_eq_true, if_false]

section
variable (s : State)

/-! ### A write of a latch -/

/-- The address of a bank's output or enable latch. -/
def gpioLatch (b : Nat) (oe : Bool) : Nat := if oe then gpioOe b else gpioOut b

/-- The levels of driven pads reach the pins and nothing else. -/
theorem State.padsSettle_pins : ∃ l, s.padsSettle = { s with pins := l } := by
  unfold State.padsSettle
  split
  · exact ⟨s.pins, rfl⟩
  · refine List.foldlRecOn (motive := fun z : State => ∃ l, z = { s with pins := l }) _ _ ⟨s.pins, rfl⟩ ?_
    rintro _ ⟨l, rfl⟩ n -
    split
    · split
      · exact ⟨l, rfl⟩
      · exact ⟨_, rfl⟩
    · exact ⟨l, rfl⟩

/-- A write of a latch sets its register, and moves pins besides. -/
theorem State.gpioWrite_pins (b : Nat) (oe : Bool) (v : Nat) :
    ∃ l, s.gpioWrite b oe v =
      { s.setReg (gpioLatch b oe) (maskedWrite (s.regN (gpioLatch b oe)) v) with pins := l } :=
  State.padsSettle_pins _

theorem State.gpioWrite_pending (b : Nat) (oe : Bool) (v : Nat) : (s.gpioWrite b oe v).pending = s.pending := by
  obtain ⟨l, h⟩ := s.gpioWrite_pins b oe v
  rw [h, State.setReg_pending]

theorem State.gpioWrite_blockUp (b : Nat) (oe : Bool) (v i : Nat) : (s.gpioWrite b oe v).blockUp i = s.blockUp i := by
  obtain ⟨l, h⟩ := s.gpioWrite_pins b oe v
  rw [h]
  rfl

theorem State.regN_setReg_same (a v : Nat) : (s.setReg a v).regN a = v % 2 ^ 32 := by
  rw [State.regN, State.reg_setReg, if_pos rfl, BitVec.toNat_ofNat]

/-- A write of a latch acts on each of its bits as the rule gives (R449). -/
theorem State.gpioWrite_testBit (b : Nat) (oe : Bool) (v : Reg32) {i : Nat} (hi : i < 16) :
    ((s.gpioWrite b oe v.toNat).regN (gpioLatch b oe)).testBit i =
      latchBit [v] i ((s.regN (gpioLatch b oe)).testBit i) := by
  obtain ⟨l, h⟩ := s.gpioWrite_pins b oe v.toNat
  have same : (s.gpioWrite b oe v.toNat).regN (gpioLatch b oe) =
      maskedWrite (s.regN (gpioLatch b oe)) v.toNat % 2 ^ 32 := by
    rw [h]
    exact State.regN_setReg_same s _ _
  rw [same, Nat.testBit_mod_two_pow, decide_eq_true (show i < 32 by omega), Bool.true_and, maskedWrite_testBit _ v hi]

end

section
variable {s : State} {b : Fin 3} {oe : Bool} {v w : Reg32} {l : List Instr}

/-! ### The command, and two of them in a row -/

theorem exec_gpioOutWrite_up (up : s.blockUp b.val = true) :
    exec (.gpioOutWrite b oe v) s = .next (s.gpioWrite b.val oe v.toNat) := by
  show execGpioOutWrite b oe v s = _
  rw [execGpioOutWrite, if_pos up]

/-- A write at the front of the queue takes a step; the bank's logic still answers after it. -/
theorem step_gpioOutWrite_up (up : s.blockUp b.val = true) (front : s.pending = .gpioOutWrite b oe v :: l) :
    ∃ t, step s = .next t ∧ t.pending = l ∧ t.blockUp b.val = true ∧ ∀ i, i < 16 →
      (t.regN (gpioLatch b.val oe)).testBit i = latchBit [v] i ((s.regN (gpioLatch b.val oe)).testBit i) := by
  refine ⟨State.gpioWrite b.val oe v.toNat { s with pending := l }, ?_, State.gpioWrite_pending .., ?_, fun i hi => ?_⟩
  · rw [step, front]
    exact exec_gpioOutWrite_up up
  · rw [State.gpioWrite_blockUp]
    exact up
  · exact State.gpioWrite_testBit _ _ _ v hi

/-- Two writes at the front of the queue take two steps, and act on each bit of the latch in the order they stand. -/
theorem step_step_gpioOutWrite_up (up : s.blockUp b.val = true)
    (front : s.pending = .gpioOutWrite b oe v :: .gpioOutWrite b oe w :: l) :
    ∃ t u, step s = .next t ∧ step t = .next u ∧ u.pending = l ∧ ∀ i, i < 16 →
      (u.regN (gpioLatch b.val oe)).testBit i = latchBit [v, w] i ((s.regN (gpioLatch b.val oe)).testBit i) := by
  obtain ⟨t, first, frontT, upT, bitsT⟩ := step_gpioOutWrite_up up front
  obtain ⟨u, second, rest, -, bitsU⟩ := step_gpioOutWrite_up upT frontT
  refine ⟨t, u, first, second, rest, fun i hi => ?_⟩
  rw [bitsU i hi, bitsT i hi]
  rfl

end

/-- Settles O54: by what one write leaves in each bit of its latch, used for the two writes in either order. -/
theorem maskedGpioWrites : Obligations.MaskedGpioWrites := by
  intro b oe v w l s up a queued
  obtain ⟨t, u, first, second, rest, vw⟩ := step_step_gpioOutWrite_up (s := queued v w) up rfl
  obtain ⟨x, y, first', second', -, wv⟩ := step_step_gpioOutWrite_up (s := queued w v) up rfl
  refine ⟨⟨_, exec_gpioOutWrite_up up, fun i hi => s.gpioWrite_testBit _ _ v hi⟩,
    t, u, x, y, first, second, rest, first', second', vw, fun disjoint i hi => ?_⟩
  calc (u.regN a).testBit i = latchBit [v, w] i ((s.regN a).testBit i) := vw i hi
    _ = latchBit [w, v] i ((s.regN a).testBit i) := latchBit_swap (disjoint i hi) _
    _ = (y.regN a).testBit i := (wv i hi).symm

end Sys2Proof.Machine

/-! ## The whole block: every command completes and keeps a sound state; the clock (R332 to R335, R392, R422)

What one command answers and keeps, by the laws of its meaning, and what one cycle of the clock leaves of every field. -/

namespace Sys2Proof.Machine

open Sys2Proof Sys2Proof.Claims

/-! ### Every command -/

/-- Every command keeps what every operation keeps, each by the law of its meaning. -/
theorem exec_keeps (i : Instr) (s : State) : KeepsR s (exec i s) := by
  cases i with
  | nop => exact execNop_keeps (.refl s)
  | wait => exact execWait_keeps (.refl s)
  | waitEnd => exact execWaitEnd_keeps (.refl s)
  | reti => exact execReti_keeps (.refl s)
  | fence => exact execFence_keeps (.refl s)
  | di => exact execDi_keeps (.refl s)
  | ei => exact execEi_keeps (.refl s)
  | mfst => exact execMfst_keeps (.refl s)
  | mtst => exact execMtst_keeps (.refl s)
  | push => exact execPush_keeps (.refl s)
  | pop => exact execPop_keeps (.refl s)
  | mtx => exact execMtx_keeps (.refl s)
  | mfx => exact execMfx_keeps (.refl s)
  | mov => exact execMov_keeps (.refl s)
  | add => exact execAdd_keeps (.refl s)
  | adc => exact execAdc_keeps (.refl s)
  | sub => exact execSub_keeps (.refl s)
  | sbc => exact execSbc_keeps (.refl s)
  | cmp => exact execCmp_keeps (.refl s)
  | and => exact execAnd_keeps (.refl s)
  | or => exact execOr_keeps (.refl s)
  | xor => exact execXor_keeps (.refl s)
  | tst => exact execTst_keeps (.refl s)
  | neg => exact execNeg_keeps (.refl s)
  | not => exact execNot_keeps (.refl s)
  | swpb => exact execSwpb_keeps (.refl s)
  | sxb => exact execSxb_keeps (.refl s)
  | zxb => exact execZxb_keeps (.refl s)
  | addi => exact execAddi_keeps (.refl s)
  | movi => exact execMovi_keeps (.refl s)
  | cmpi => exact execCmpi_keeps (.refl s)
  | shl => exact execShl_keeps (.refl s)
  | shr => exact execShr_keeps (.refl s)
  | sar => exact execSar_keeps (.refl s)
  | rol => exact execRol_keeps (.refl s)
  | ror => exact execRor_keeps (.refl s)
  | rlc => exact execRlc_keeps (.refl s)
  | rrc => exact execRrc_keeps (.refl s)
  | mul => exact execMul_keeps (.refl s)
  | mulu => exact execMulu_keeps (.refl s)
  | mull => exact execMull_keeps (.refl s)
  | divs => exact execDivs_keeps (.refl s)
  | divu => exact execDivu_keeps (.refl s)
  | mac => exact execMac_keeps (.refl s)
  | macu => exact execMacu_keeps (.refl s)
  | macf => exact execMacf_keeps (.refl s)
  | ld => exact execLd_keeps (.refl s)
  | ldp => exact execLdp_keeps (.refl s)
  | st => exact execSt_keeps (.refl s)
  | stp => exact execStp_keeps (.refl s)
  | ldv => exact execLdv_keeps (.refl s)
  | ldpv => exact execLdpv_keeps (.refl s)
  | stv => exact execStv_keeps (.refl s)
  | stpv => exact execStpv_keeps (.refl s)
  | lds => exact execLds_keeps (.refl s)
  | ldps => exact execLdps_keeps (.refl s)
  | sts => exact execSts_keeps (.refl s)
  | stps => exact execStps_keeps (.refl s)
  | ldc => exact execLdc_keeps (.refl s)
  | bcc => exact execBcc_keeps (.refl s)
  | bra => exact execBra_keeps (.refl s)
  | jmp => exact execJmp_keeps (.refl s)
  | call => exact execCall_keeps (.refl s)
  | ret => exact execRet_keeps (.refl s)
  | bbs => exact execBbs_keeps (.refl s)
  | bbc => exact execBbc_keeps (.refl s)
  | bld => exact execBld_keeps (.refl s)
  | bst => exact execBst_keeps (.refl s)
  | bset => exact execBset_keeps (.refl s)
  | bclr => exact execBclr_keeps (.refl s)
  | bnot => exact execBnot_keeps (.refl s)
  | btst => exact execBtst_keeps (.refl s)
  | bldc => exact execBldc_keeps (.refl s)
  | bstc => exact execBstc_keeps (.refl s)
  | bandc => exact execBandc_keeps (.refl s)
  | borc => exact execBorc_keeps (.refl s)
  | bxorc => exact execBxorc_keeps (.refl s)
  | mtseg => exact execMtseg_keeps (.refl s)
  | mfseg => exact execMfseg_keeps (.refl s)
  | ldf => exact execLdf_keeps (.refl s)
  | stf => exact execStf_keeps (.refl s)
  | ldfp => exact execLdfp_keeps (.refl s)
  | stfp => exact execStfp_keeps (.refl s)
  | fadd32 => exact execFadd32_keeps (.refl s)
  | fswp32 => exact execFswp32_keeps (.refl s)
  | fcas32 => exact execFcas32_keeps (.refl s)
  | fadd64 => exact execFadd64_keeps (.refl s)
  | fswp64 => exact execFswp64_keeps (.refl s)
  | fcas64 => exact execFcas64_keeps (.refl s)
  | entry => exact execEntry_keeps (.refl s)
  | intSet => exact execIntSet_keeps (.refl s)
  | timerArm => exact execTimerArm_keeps (.refl s)
  | timerStart => exact execTimerStart_keeps (.refl s)
  | timerExpiry => exact execTimerExpiry_keeps (.refl s)
  | contextEntryWrite => exact execContextEntryWrite_keeps (.refl s)
  | create => exact execCreate_keeps (.refl s)
  | admitCtx => exact execAdmitCtx_keeps (.refl s)
  | suspend => exact execSuspend_keeps (.refl s)
  | snapshot => exact execSnapshot_keeps (.refl s)
  | fork => exact execFork_keeps (.refl s)
  | exportCtx => exact execExportCtx_keeps (.refl s)
  | returnCtx => exact execReturnCtx_keeps (.refl s)
  | importCtx => exact execImportCtx_keeps (.refl s)
  | retire => exact execRetire_keeps (.refl s)
  | release => exact execRelease_keeps (.refl s)
  | commandDone => exact execCommandDone_keeps (.refl s)
  | placementQuery => exact execPlacementQuery_keeps (.refl s)
  | bscBookSnap => exact execBscBookSnap_keeps (.refl s)
  | periodCommit => exact execPeriodCommit_keeps (.refl s)
  | phaseWrite => exact execPhaseWrite_keeps (.refl s)
  | slipRecordRead => exact execSlipRecordRead_keeps (.refl s)
  | haltRecordRead => exact execHaltRecordRead_keeps (.refl s)
  | horizonEntry => exact execHorizonEntry_keeps (.refl s)
  | bandBoundary => exact execBandBoundary_keeps (.refl s)
  | deadlineTest => exact execDeadlineTest_keeps (.refl s)
  | lineRender => exact execLineRender_keeps (.refl s)
  | bandCode => exact execBandCode_keeps (.refl s)
  | monitorCopy => exact execMonitorCopy_keeps (.refl s)
  | bandRelease => exact execBandRelease_keeps (.refl s)
  | markerSend => exact execMarkerSend_keeps (.refl s)
  | lateBandSend => exact execLateBandSend_keeps (.refl s)
  | audioSample => exact execAudioSample_keeps (.refl s)
  | audioPacketRelease => exact execAudioPacketRelease_keeps (.refl s)
  | kon => exact execKon_keeps (.refl s)
  | koff => exact execKoff_keeps (.refl s)
  | gainWrite => exact execGainWrite_keeps (.refl s)
  | vidCommit => exact execVidCommit_keeps (.refl s)
  | vblankInstant => exact execVblankInstant_keeps (.refl s)
  | lineCompare => exact execLineCompare_keeps (.refl s)
  | beamlineRead => exact execBeamlineRead_keeps (.refl s)
  | lpgStart => exact execLpgStart_keeps (.refl s)
  | lpgEnd => exact execLpgEnd_keeps (.refl s)
  | lpgWait => exact execLpgWait_keeps (.refl s)
  | wreg => exact execWreg_keeps (.refl s)
  | wpal => exact execWpal_keeps (.refl s)
  | loop => exact execLoop_keeps (.refl s)
  | setp => exact execSetp_keeps (.refl s)
  | paletteWrite => exact execPaletteWrite_keeps (.refl s)
  | paletteRead => exact execPaletteRead_keeps (.refl s)
  | blitGo => exact execBlitGo_keeps (.refl s)
  | blitAbort => exact execBlitAbort_keeps (.refl s)
  | blitBurst => exact execBlitBurst_keeps (.refl s)
  | dmaEnable => exact execDmaEnable_keeps (.refl s)
  | kick => exact execKick_keeps (.refl s)
  | dmaAbort => exact execDmaAbort_keeps (.refl s)
  | descriptorRead => exact execDescriptorRead_keeps (.refl s)
  | dmaBurst => exact execDmaBurst_keeps (.refl s)
  | writeBackDescriptor => exact execWriteBackDescriptor_keeps (.refl s)
  | dmaTrigger => exact execDmaTrigger_keeps (.refl s)
  | dmaFence => exact execDmaFence_keeps (.refl s)
  | mailboxCommit => exact execMailboxCommit_keeps (.refl s)
  | mailboxSend => exact execMailboxSend_keeps (.refl s)
  | outboxRead => exact execOutboxRead_keeps (.refl s)
  | mailboxQueueRead => exact execMailboxQueueRead_keeps (.refl s)
  | pageMiss => exact execPageMiss_keeps (.refl s)
  | pageInDone => exact execPageInDone_keeps (.refl s)
  | firstTouch => exact execFirstTouch_keeps (.refl s)
  | copyOnWrite => exact execCopyOnWrite_keeps (.refl s)
  | stagingMiss => exact execStagingMiss_keeps (.refl s)
  | eviction => exact execEviction_keeps (.refl s)
  | writeBack => exact execWriteBack_keeps (.refl s)
  | persistentFailure => exact execPersistentFailure_keeps (.refl s)
  | sealDevice => exact execSealDevice_keeps (.refl s)
  | alloc => exact execAlloc_keeps (.refl s)
  | free => exact execFree_keeps (.refl s)
  | retireOperation => exact execRetireOperation_keeps (.refl s)
  | query => exact execQuery_keeps (.refl s)
  | curBookSnap => exact execCurBookSnap_keeps (.refl s)
  | quarantineRecordRead => exact execQuarantineRecordRead_keeps (.refl s)
  | titleEntryWrite => exact execTitleEntryWrite_keeps (.refl s)
  | input => exact execInput_keeps (.refl s)
  | feedback => exact execFeedback_keeps (.refl s)
  | refresh => exact execRefresh_keeps (.refl s)
  | frameReceive => exact execFrameReceive_keeps (.refl s)
  | xoff => exact execXoff_keeps (.refl s)
  | xon => exact execXon_keeps (.refl s)
  | packetDequeue => exact execPacketDequeue_keeps (.refl s)
  | transmitEnd => exact execTransmitEnd_keeps (.refl s)
  | portControlWrite => exact execPortControlWrite_keeps (.refl s)
  | linkChange => exact execLinkChange_keeps (.refl s)
  | flowRead => exact execFlowRead_keeps (.refl s)
  | flowWrite => exact execFlowWrite_keeps (.refl s)
  | controlPush => exact execControlPush_keeps (.refl s)
  | qmBookSnap => exact execQmBookSnap_keeps (.refl s)
  | wakeRead => exact execWakeRead_keeps (.refl s)
  | keeperTransmit => exact execKeeperTransmit_keeps (.refl s)
  | transmitRingPoll => exact execTransmitRingPoll_keeps (.refl s)
  | rootLock => exact execRootLock_keeps (.refl s)
  | ptpSet => exact execPtpSet_keeps (.refl s)
  | ptpStep => exact execPtpStep_keeps (.refl s)
  | pherrWrite => exact execPherrWrite_keeps (.refl s)
  | integratorWrite => exact execIntegratorWrite_keeps (.refl s)
  | synceWindow => exact execSynceWindow_keeps (.refl s)
  | holdPtp => exact execHoldPtp_keeps (.refl s)
  | ptpTimeRead => exact execPtpTimeRead_keeps (.refl s)
  | kprRunWrite => exact execKprRunWrite_keeps (.refl s)
  | claimRead => exact execClaimRead_keeps (.refl s)
  | claimFree => exact execClaimFree_keeps (.refl s)
  | watchdogKick => exact execWatchdogKick_keeps (.refl s)
  | watchdogWarn => exact execWatchdogWarn_keeps (.refl s)
  | watchdog => exact execWatchdog_keeps (.refl s)
  | dicClaim => exact execDicClaim_keeps (.refl s)
  | dicComplete => exact execDicComplete_keeps (.refl s)
  | dicSwset => exact execDicSwset_keeps (.refl s)
  | groupFire => exact execGroupFire_keeps (.refl s)
  | bootRomStart => exact execBootRomStart_keeps (.refl s)
  | ident => exact execIdent_keeps (.refl s)
  | logread => exact execLogread_keeps (.refl s)
  | dcpMode => exact execDcpMode_keeps (.refl s)
  | imgcheck => exact execImgcheck_keeps (.refl s)
  | imgwrite => exact execImgwrite_keeps (.refl s)
  | bootsel => exact execBootsel_keeps (.refl s)
  | imgrun => exact execImgrun_keeps (.refl s)
  | lread => exact execLread_keeps (.refl s)
  | lwrite => exact execLwrite_keeps (.refl s)
  | keyset => exact execKeyset_keeps (.refl s)
  | minver => exact execMinver_keeps (.refl s)
  | netset => exact execNetset_keeps (.refl s)
  | programCommand => exact execProgramCommand_keeps (.refl s)
  | dcpReply => exact execDcpReply_keeps (.refl s)
  | rd => exact execRd_keeps (.refl s)
  | wr => exact execWr_keeps (.refl s)
  | pwr => exact execPwr_keeps (.refl s)
  | atom => exact execAtom_keeps (.refl s)
  | event => exact execEvent_keeps (.refl s)
  | line => exact execLine_keeps (.refl s)
  | doorbell => exact execDoorbell_keeps (.refl s)
  | rdr => exact execRdr_keeps (.refl s)
  | wrr => exact execWrr_keeps (.refl s)
  | pack => exact execPack_keeps (.refl s)
  | atr => exact execAtr_keeps (.refl s)
  | loamTimeout => exact execLoamTimeout_keeps (.refl s)
  | moduleFail => exact execModuleFail_keeps (.refl s)
  | loamCredsnap => exact execLoamCredsnap_keeps (.refl s)
  | tapItem => exact execTapItem_keeps (.refl s)
  | tapReturn => exact execTapReturn_keeps (.refl s)
  | plinthRun => exact execPlinthRun_keeps (.refl s)
  | plinthReset => exact execPlinthReset_keeps (.refl s)
  | isolation => exact execIsolation_keeps (.refl s)
  | plnPwrloss => exact execPlnPwrloss_keeps (.refl s)
  | plnTDbell => exact execPlnTDbell_keeps (.refl s)
  | powerRequest => exact execPowerRequest_keeps (.refl s)
  | ascentStep => exact execAscentStep_keeps (.refl s)
  | stepFail => exact execStepFail_keeps (.refl s)
  | descent => exact execDescent_keeps (.refl s)
  | drainEnd => exact execDrainEnd_keeps (.refl s)
  | pwrDieWrite => exact execPwrDieWrite_keeps (.refl s)
  | wakeTimer => exact execWakeTimer_keeps (.refl s)
  | wakePin => exact execWakePin_keeps (.refl s)
  | pwrSwreset => exact execPwrSwreset_keeps (.refl s)
  | resetN => exact execResetN_keeps (.refl s)
  | supplyOn => exact execSupplyOn_keeps (.refl s)
  | supplyLoss => exact execSupplyLoss_keeps (.refl s)
  | supplyLow => exact execSupplyLow_keeps (.refl s)
  | temperatureRead => exact execTemperatureRead_keeps (.refl s)
  | nvrWrite => exact execNvrWrite_keeps (.refl s)
  | nvrCommit => exact execNvrCommit_keeps (.refl s)
  | alogWrite => exact execAlogWrite_keeps (.refl s)
  | recordSeal => exact execRecordSeal_keeps (.refl s)
  | logScan => exact execLogScan_keeps (.refl s)
  | gpioOutWrite => exact execGpioOutWrite_keeps (.refl s)
  | gpioEnWrite => exact execGpioEnWrite_keeps (.refl s)
  | debounceChange => exact execDebounceChange_keeps (.refl s)
  | strapSample => exact execStrapSample_keeps (.refl s)
  | i2cGo => exact execI2cGo_keeps (.refl s)
  | i2cDone => exact execI2cDone_keeps (.refl s)
  | uartWrite => exact execUartWrite_keeps (.refl s)
  | uartRead => exact execUartRead_keeps (.refl s)
  | uartReceive => exact execUartReceive_keeps (.refl s)
  | tachEdge => exact execTachEdge_keeps (.refl s)
  | tachStall => exact execTachStall_keeps (.refl s)
  | monitorEnable => exact execMonitorEnable_keeps (.refl s)
  | monCommit => exact execMonCommit_keeps (.refl s)
  | monVblank => exact execMonVblank_keeps (.refl s)
  | monHpd => exact execMonHpd_keeps (.refl s)
  | linkTraining => exact execLinkTraining_keeps (.refl s)
  | bypass => exact execBypass_keeps (.refl s)
  | idcode => exact execIdcode_keeps (.refl s)
  | samplePreload => exact execSamplePreload_keeps (.refl s)
  | extest => exact execExtest_keeps (.refl s)
  | clamp => exact execClamp_keeps (.refl s)
  | highz => exact execHighz_keeps (.refl s)
  | trstN => exact execTrstN_keeps (.refl s)
  | registerWrite => exact execRegisterWrite_keeps (.refl s)
  | pfcPauseEnd => exact execPfcPauseEnd_keeps (.refl s)
  | supplyLowEnd => exact execSupplyLowEnd_keeps (.refl s)
  | moduleRetrain => exact execModuleRetrain_keeps (.refl s)
  | moduleRetrainEnd => exact execModuleRetrainEnd_keeps (.refl s)
  | uartTransmit => exact execUartTransmit_keeps (.refl s)
  | ledBlink => exact execLedBlink_keeps (.refl s)
  | videoPacketReceive => exact execVideoPacketReceive_keeps (.refl s)
  | audioPacketPlay => exact execAudioPacketPlay_keeps (.refl s)
  | rootLockLoss => exact execRootLockLoss_keeps (.refl s)

/-- A far access answers a next state, whatever its transaction answers. -/
theorem State.farOp_next (p : Cpu) (a : Word) (o : List Word → Op) (access : State → State × Option (List Word)) (s : State) :
    ∃ t, s.farOp p a o access = .next t := by
  unfold State.farOp
  dsimp only
  split
  · split
    · exact ⟨_, rfl⟩
    · exact ⟨_, rfl⟩
  · exact ⟨_, rfl⟩

theorem State.farStore_next (p : Cpu) (d : RegNo) (k : Nat) (n : Fin 8) (a : Word) (s : State) :
    ∃ t, s.farStore p d k n a = .next t := by
  unfold State.farStore
  exact State.farOp_next ..

/-- Every command answers a next state: most by their form, the far accesses by the form of every far access. -/
theorem exec_next (i : Instr) (s : State) : ∃ t, exec i s = .next t := by
  cases i with
  | jmp p annul t => cases t <;> exact ⟨_, rfl⟩
  | stf | stfp => exact State.farStore_next ..
  | ldf | ldfp | fadd32 | fswp32 | fcas32 | fadd64 | fswp64 | fcas64 => exact State.farOp_next ..
  | _ => exact ⟨_, rfl⟩
/-- Settles O1: the front of the queue is what a step takes. -/
theorem stepRunsFrontCommand : Obligations.StepRunsFrontCommand := fun _ _ => rfl

/-- Settles O57: by what every command answers and by the queue that it keeps. -/
theorem everyCommandCompletes : Obligations.EveryCommandCompletes := by
  intro i s
  obtain ⟨t, answers⟩ := exec_next i s
  exact ⟨t, answers, (exec_keeps i s t answers).pending⟩

/-- Settles O58: a step is a cycle of the clock or the command in front, and each keeps a sound state. -/
theorem soundStateKept : Obligations.SoundStateKept := by
  intro s t sound run
  cases waiting : s.pending with
  | nil =>
    simp only [step, waiting] at run
    cases run
    exact (State.cycle_keeps (.refl s)).inv sound
  | cons i rest =>
    simp only [step, waiting] at run
    exact (exec_keeps i _ t run).inv ⟨sound.mem, sound.bad, sound.wake, sound.slip, sound.halt, sound.mbq, sound.quar⟩

theorem State.reset_inv : State.reset.Inv := by
  constructor <;> decide

/-- Settles O59: the tables are empty at reset, so each entry reads its reset value. -/
theorem soundStateAtReset : Obligations.SoundStateAtReset :=
  ⟨State.reset_inv, rfl, rfl, rfl, rfl, fun _ => rfl, fun _ => rfl, fun _ => rfl, fun _ => rfl, fun _ => rfl, rfl, by decide⟩

/-! ### What a cycle of the clock leaves -/

/-- `t` is `s` but for the pins, the interrupt controller and the Keepers. -/
def PinsOnly (s t : State) : Prop := ∃ p d k, t = { s with pins := p, dic := d, keepers := k }

section
variable {s t u : State}

theorem PinsOnly.refl (s : State) : PinsOnly s s := ⟨s.pins, s.dic, s.keepers, rfl⟩

theorem PinsOnly.trans (h : PinsOnly s t) (i : PinsOnly t u) : PinsOnly s u := by
  obtain ⟨p, d, k, rfl⟩ := h
  obtain ⟨p', d', k', rfl⟩ := i
  exact ⟨p', d', k', rfl⟩

theorem PinsOnly.foldl {α : Type} {f : State → α → State} (hf : ∀ z a, PinsOnly z (f z a)) :
    ∀ (l : List α) (s : State), PinsOnly s (l.foldl f s)
  | [], s => .refl s
  | a :: l, s => (hf s a).trans (PinsOnly.foldl hf l (f s a))

end

section
variable (s : State)

theorem State.modPin_pinsOnly (n : Nat) (f : Pin → Pin) : PinsOnly s (s.modPin n f) := ⟨_, s.dic, s.keepers, rfl⟩

theorem State.dicSettle_pinsOnly : PinsOnly s s.dicSettle := by
  obtain ⟨k, h⟩ := s.dicSettle_rest
  exact ⟨s.pins, s.dic, k, h⟩

theorem State.dicPend_pinsOnly (n : Nat) : PinsOnly s (s.dicPend n) := ⟨s.pins, _, s.keepers, s.dicPend_rest n⟩

theorem State.raiseP_pinsOnly (n : Nat) : PinsOnly s (s.raiseP n) := by
  obtain ⟨d, k, h⟩ := s.raiseP_rest n
  exact ⟨s.pins, d, k, h⟩

theorem State.setLevel_pinsOnly (n : Nat) (b : Bool) : PinsOnly s (s.setLevel n b) := by
  have level (d : Dic) : PinsOnly s { s with dic := d } := ⟨s.pins, d, s.keepers, rfl⟩
  simp only [State.setLevel]
  split
  · exact level _
  · split
    · exact ((level _).trans (State.dicPend_pinsOnly _ n)).trans (State.dicSettle_pinsOnly _)
    · exact (level _).trans (State.dicSettle_pinsOnly _)

theorem State.pinLevel_pinsOnly (n : Nat) : PinsOnly s (s.pinLevel n) := by
  simp only [State.pinLevel]
  split_ifs
  · exact s.setLevel_pinsOnly ..
  · exact s.setLevel_pinsOnly ..
  · exact s.setLevel_pinsOnly ..
  · exact .refl s

theorem State.pinChange_pinsOnly (n : Nat) (v : Bool) : PinsOnly s (s.pinChange n v) := by
  simp only [State.pinChange]
  have moved (f : Pin → Pin) : PinsOnly s (s.modPin n f) := s.modPin_pinsOnly n f
  split_ifs
  · exact moved _
  · exact moved _
  · exact (moved _).trans (State.raiseP_pinsOnly _ _)
  · exact (moved _).trans (State.pinLevel_pinsOnly _ _)

theorem State.pinTick_pinsOnly (n : Nat) : PinsOnly s (s.pinTick n) := by
  simp only [State.pinTick]
  split_ifs
  · exact .refl s
  · exact s.modPin_pinsOnly ..
  · exact .refl s
  · exact s.pinChange_pinsOnly ..
  · exact s.modPin_pinsOnly ..

theorem State.pinsTick_pinsOnly : PinsOnly s s.pinsTick := by
  unfold State.pinsTick
  split
  · exact .refl s
  · exact PinsOnly.foldl State.pinTick_pinsOnly _ s

theorem State.pinsCycle_pins : ∃ l, s.pinsCycle = { s with pins := l } := by
  unfold State.pinsCycle
  split
  · exact ⟨s.pins, rfl⟩
  · obtain ⟨l, h⟩ := State.padsSettle_pins { s with pins := s.pins.map (fun e : Nat × Pin => (e.1, e.2.cycle)) }
    exact ⟨l, h⟩

theorem State.wdTick_keepers (k : Fin 4) : ∃ l, s.wdTick k = { s with keepers := l } := by
  unfold State.wdTick
  split
  · exact ⟨_, rfl⟩
  · exact ⟨s.keepers, rfl⟩

/-- The boot ROM's answers leave by the wire and take free values. -/
theorem State.romAnswer_sent (i : Nat) : ∃ n l, s.romAnswer i = { s with fresh := n, wire := l } := by
  simp only [State.romAnswer]
  split
  · exact ⟨_, s.wire, rfl⟩
  · exact ⟨_, _, rfl⟩

theorem State.romAnswers_sent : ∀ (l : List Nat) (s : State),
    ∃ n w, l.foldl (fun (s : State) i => s.romAnswer i) s = { s with fresh := n, wire := w }
  | [], s => ⟨s.fresh, s.wire, rfl⟩
  | i :: l, s => by
    obtain ⟨n, w, h⟩ := s.romAnswer_sent i
    obtain ⟨n', w', h'⟩ := State.romAnswers_sent l (s.romAnswer i)
    exact ⟨n', w', by rw [List.foldl_cons, h', h]⟩

theorem State.romNetwork_sent : ∃ n w m, s.romNetwork = { s with fresh := n, wire := w, mem := m } := by
  obtain ⟨n, w, h⟩ := State.romAnswers_sent (List.range s.rxLen) s
  exact ⟨n, w, _, by rw [State.romNetwork, h]; rfl⟩

end

/-- The queue, the power sequencer, contexts, slots, the 64-bit counters, the timebase, the NV queue and the Loam requests stand as
they did. -/
structure SameTime (s t : State) : Prop where
  pending : t.pending = s.pending
  power : t.power = s.power
  ctxs : t.ctxs = s.ctxs
  slots : t.slots = s.slots
  cnt64 : t.cnt64 = s.cnt64
  time : t.clock.time = s.clock.time
  rot : t.clock.rot = s.clock.rot
  trim : t.clock.trim = s.clock.trim
  locked : t.clock.rootLock = s.clock.rootLock
  rram : t.rram = s.rram
  loam : t.loam = s.loam

/-- Queued NV writes and outstanding requests, a utility tick older (R392, R422). -/
def State.aged (s : State) : State :=
  { s with loam := s.loam.map (fun q => { q with age := q.age + 1 }), rram := { s.rram with nvQueue := nvAge s.rram.nvQueue } }

section
variable {s t u : State}

theorem SameTime.refl (s : State) : SameTime s s := ⟨rfl, rfl, rfl, rfl, rfl, rfl, rfl, rfl, rfl, rfl, rfl⟩

theorem SameTime.trans (h : SameTime s t) (i : SameTime t u) : SameTime s u where
  pending := i.pending.trans h.pending
  power := i.power.trans h.power
  ctxs := i.ctxs.trans h.ctxs
  slots := i.slots.trans h.slots
  cnt64 := i.cnt64.trans h.cnt64
  time := i.time.trans h.time
  rot := i.rot.trans h.rot
  trim := i.trim.trans h.trim
  locked := i.locked.trans h.locked
  rram := i.rram.trans h.rram
  loam := i.loam.trans h.loam

theorem SameTime.aged (h : SameTime s t) : SameTime s.aged t.aged where
  pending := h.pending
  power := h.power
  ctxs := h.ctxs
  slots := h.slots
  cnt64 := h.cnt64
  time := h.time
  rot := h.rot
  trim := h.trim
  locked := h.locked
  rram := by rw [State.aged, State.aged, h.rram]
  loam := by rw [State.aged, State.aged, h.loam]

theorem PinsOnly.sameTime (h : PinsOnly s t) : SameTime s t := by
  obtain ⟨p, d, k, rfl⟩ := h
  exact ⟨rfl, rfl, rfl, rfl, rfl, rfl, rfl, rfl, rfl, rfl, rfl⟩

end

section
variable (s : State)

theorem State.wdTick_sameTime (k : Fin 4) : SameTime s (s.wdTick k) := by
  obtain ⟨l, h⟩ := s.wdTick_keepers k
  exact PinsOnly.sameTime ⟨s.pins, s.dic, l, h⟩

theorem State.romNetwork_sameTime : SameTime s s.romNetwork := by
  obtain ⟨n, w, m, h⟩ := s.romNetwork_sent
  rw [h]
  exact ⟨rfl, rfl, rfl, rfl, rfl, rfl, rfl, rfl, rfl, rfl, rfl⟩

theorem State.phaseTick_sameTime : SameTime s s.phaseTick := ⟨rfl, rfl, rfl, rfl, rfl, rfl, rfl, rfl, rfl, rfl, rfl⟩

theorem State.subMs_sameTime (n : Nat) : SameTime s { s with clock := { s.clock with subMs := n } } :=
  ⟨rfl, rfl, rfl, rfl, rfl, rfl, rfl, rfl, rfl, rfl, rfl⟩

theorem State.milli_sameTime : SameTime s s.milli := ⟨rfl, rfl, rfl, rfl, rfl, rfl, rfl, rfl, rfl, rfl, rfl⟩

/-- A utility tick ages the queued NV writes and the outstanding requests, and leaves the rest of what a cycle tells. -/
theorem State.utility_sameTime : SameTime s.aged s.utility := by
  have counted : SameTime s ((((s.wdTick 0).wdTick 1).wdTick 2).wdTick 3).phaseTick :=
    ((((s.wdTick_sameTime 0).trans (State.wdTick_sameTime _ 1)).trans (State.wdTick_sameTime _ 2)).trans
      (State.wdTick_sameTime _ 3)).trans (State.phaseTick_sameTime _)
  have pins (z : State) : SameTime z z.pinsTick := z.pinsTick_pinsOnly.sameTime
  have timers (z : State) : SameTime z (if z.power.hub then { z with dic := z.dic.tick } else z) := by
    split
    · exact PinsOnly.sameTime ⟨z.pins, _, z.keepers, rfl⟩
    · exact .refl z
  have served (z : State) : SameTime z (if z.romServes then z.romNetwork else z) := by
    split
    · exact z.romNetwork_sameTime
    · exact .refl z
  have ended (z : State) : SameTime z (if z.clock.subMs + 1 = 1000 then { z with clock := { z.clock with subMs := 0 } }.milli
      else { z with clock := { z.clock with subMs := z.clock.subMs + 1 } }) := by
    split
    · exact (z.subMs_sameTime 0).trans (State.milli_sameTime _)
    · exact z.subMs_sameTime _
  exact (((counted.aged.trans (pins _)).trans (timers _)).trans (served _)).trans (ended _)

/-- The increment of a cycle, as the timebase takes it. -/
def State.counted : State :=
  { s with clock := { s.clock with
      time := (s.clock.time + timeStep s.clock.rot) % timeRange, rot := s.clock.rot + 1
      sub := if decide (s.clock.sub + 1 = 384) then 0 else s.clock.sub + 1 } }

/-- The two dies' line engines count. -/
def State.engines : State := (s.engineClocks 0).engineClocks 1

theorem State.engineClocks_cnt64 (d : Nat) : ∃ l, s.engineClocks d = { s with cnt64 := l } := by
  unfold State.engineClocks
  split
  · exact ⟨_, rfl⟩
  · exact ⟨s.cnt64, rfl⟩

theorem State.engines_cnt64 : ∃ l, s.engines = { s with cnt64 := l } := by
  obtain ⟨l, h⟩ := s.engineClocks_cnt64 0
  obtain ⟨l', h'⟩ := (s.engineClocks 0).engineClocks_cnt64 1
  exact ⟨l', by rw [State.engines, h', h]⟩

theorem State.cnt_setCnt (a b v : Nat) :
    (s.setCnt a v).cnt b = if canonReg b = canonReg a then v % 2 ^ 64 else s.cnt b := by
  simp only [State.setCnt, State.cnt, Sparse.get_set]
  split
  · exact BitVec.toNat_ofNat ..
  · rfl

theorem State.cnt_lt (a : Nat) : s.cnt a < 2 ^ 64 := BitVec.isLt _

theorem State.cnt_engineClocks (d a : Nat) : (s.engineClocks d).cnt a =
    (s.cnt a + if canonReg a = canonReg (bookAddr d 0) ∧ s.power.dieUp d = true then 128 else 0) % 2 ^ 64 := by
  unfold State.engineClocks State.addCnt
  have small := Nat.mod_eq_of_lt (s.cnt_lt a)
  by_cases up : s.power.dieUp d = true
  · rw [if_pos up, State.cnt_setCnt]
    by_cases same : canonReg a = canonReg (bookAddr d 0)
    · have read : s.cnt a = s.cnt (bookAddr d 0) := by rw [State.cnt, State.cnt, same]
      rw [if_pos same, if_pos ⟨same, up⟩, read]
    · rw [if_neg same, if_neg (fun h => same h.1), Nat.add_zero, small]
  · rw [if_neg up, if_neg (fun h => up h.2), Nat.add_zero, small]

theorem State.cnt_engines {d : Nat} (h : d < 2) :
    s.engines.cnt (bookAddr d 0) = (s.cnt (bookAddr d 0) + if s.power.dieUp d then 128 else 0) % 2 ^ 64 := by
  obtain ⟨l, rest⟩ := s.engineClocks_cnt64 0
  have power : (s.engineClocks 0).power = s.power := by rw [rest]
  have apart : canonReg (bookAddr 0 0) ≠ canonReg (bookAddr 1 0) := by decide
  have small := Nat.mod_eq_of_lt (s.cnt_lt (bookAddr d 0))
  rw [State.engines, State.cnt_engineClocks, State.cnt_engineClocks, power]
  obtain rfl | rfl : d = 0 ∨ d = 1 := by omega
  · simp [apart]
  · simp [apart.symm]

/-- One cycle with the root locked: the timebase's increment, the line engines, the pins, and a utility tick where one ends. -/
theorem State.cycle_locked (on : s.power.mode ≠ .off) (locked : s.clock.rootLock = true) :
    SameTime (if s.clock.sub = 383 then s.counted.engines.aged else s.counted.engines) s.cycle := by
  have pins : SameTime s.counted.engines s.counted.engines.pinsCycle := by
    obtain ⟨l, h⟩ := s.counted.engines.pinsCycle_pins
    exact PinsOnly.sameTime ⟨l, _, _, h⟩
  have go : ¬ (s.power.mode = .off ∨ (!s.clock.rootLock) = true) := by simp [on, locked]
  unfold State.cycle
  rw [if_neg go]
  by_cases last : s.clock.sub = 383
  · have tick : s.clock.sub + 1 = 384 := by omega
    simp only [tick, decide_true, if_true, if_pos last]
    simpa [State.counted, State.engines, tick] using pins.aged.trans (State.utility_sameTime _)
  · have tick : ¬ s.clock.sub + 1 = 384 := by omega
    simp only [tick, decide_false, Bool.false_eq_true, if_false, if_neg last]
    simpa [State.counted, State.engines, tick] using pins

/-- What one cycle with the root locked leaves of the clock, and that the next cycle passes too. -/
structure State.Cycled (s t : State) : Prop where
  pending : t.pending = s.pending
  power : t.power = s.power
  locked : t.clock.rootLock = s.clock.rootLock
  trim : t.clock.trim = s.clock.trim
  rot : t.clock.rot = s.clock.rot + 1
  time : t.clock.time = (s.clock.time + timeStep s.clock.rot) % timeRange

variable {s}

theorem State.cycle_cycled (on : s.power.mode ≠ .off) (locked : s.clock.rootLock = true) : s.Cycled s.cycle := by
  obtain ⟨l, h⟩ := s.counted.engines_cnt64
  have kept := s.cycle_locked on locked
  rw [h] at kept
  split at kept <;> exact ⟨kept.pending, kept.power, kept.locked, kept.trim, kept.rot, kept.time⟩

theorem State.step_cycle (empty : s.pending = []) : step s = .next s.cycle := by
  rw [step, empty]

/-- Three increments in a row are 512,000 units, wherever they start (R335). -/
theorem timeStep_three (r : Fin 3) : timeStep r + timeStep (r + 1) + timeStep (r + 1 + 1) = 512000 := by
  revert r; decide

theorem State.three_cycles (empty : s.pending = []) (on : s.power.mode ≠ .off) (locked : s.clock.rootLock = true) :
    ∃ t u v, step s = .next t ∧ step t = .next u ∧ step u = .next v ∧ v.clock.rot = s.clock.rot ∧
      v.clock.time = (s.clock.time + 512000) % timeRange := by
  have first := s.cycle_cycled on locked
  have second := s.cycle.cycle_cycled (by rwa [first.power]) (first.locked.trans locked)
  have third := s.cycle.cycle.cycle_cycled (by rwa [second.power, first.power]) (second.locked.trans (first.locked.trans locked))
  have emptyT : s.cycle.pending = [] := first.pending.trans empty
  have turn (r : Fin 3) : r + 1 + 1 + 1 = r := by revert r; decide
  refine ⟨_, _, _, State.step_cycle empty, State.step_cycle emptyT, State.step_cycle (second.pending.trans emptyT), ?_, ?_⟩
  · rw [third.rot, second.rot, first.rot, turn]
  · rw [third.time, second.time, first.time, second.rot, first.rot, ← timeStep_three s.clock.rot]
    simp only [Nat.mod_add_mod, Nat.add_assoc]

/-- Settles O60: by what one cycle leaves, and by the sum of three increments. -/
theorem clockCycle : Obligations.ClockCycle := by
  intro s empty
  refine ⟨fun stopped => ?_, fun on locked => ⟨⟨s.cycle, State.step_cycle empty, ?_⟩, State.three_cycles empty on locked⟩⟩
  · have stays : s.power.mode = .off ∨ (!s.clock.rootLock) = true := by simpa using stopped
    rw [State.step_cycle empty, State.cycle, if_pos stays]
  · have cycled := s.cycle_cycled on locked
    have kept := s.cycle_locked on locked
    obtain ⟨l, h⟩ := s.counted.engines_cnt64
    have books (d : Nat) (small : d < 2) := s.counted.cnt_engines small
    have counters : s.cycle.cnt64 = s.counted.engines.cnt64 := by
      rw [kept.cnt64]
      split <;> rfl
    refine ⟨cycled.pending.trans empty, cycled.rot, cycled.time, cycled.trim, cycled.power, ?_, ?_, ?_, ?_, fun d small => ?_⟩
    · rw [kept.ctxs, h]
      split <;> rfl
    · rw [kept.slots, h]
      split <;> rfl
    · rw [kept.rram, h]
      split <;> rfl
    · rw [kept.loam, h]
      split <;> rfl
    · rw [State.cnt, counters]
      exact books d small

end

end Sys2Proof.Machine

/-! ## Instructions that change their processor's registers alone (R145 to R153)

What an operation whose effect lies on its own processor leaves, said once for the arithmetic and logic forms, for those of a
pair of registers, and for the moves. -/

namespace Sys2Proof.Machine

open Sys2Proof Sys2Proof.Claims

/-- The effect of an operation is `g` on the registers of its processor, and it reaches nothing. -/
structure Op.Own (p : Cpu) (o : Op) (g : CpuState → CpuState) : Prop where
  mid : o.mid = none
  early : o.early = id
  acc : o.acc = []
  effect : ∀ z, o.effect z = (z.modCpu p g, true)
  resolve : ∀ b d, o.resolve b d = d
  core : ∀ u, (g u).core = (g u.core).core
  pc : ∀ u, (g u).pc = u.pc
  slot : ∀ u, (g u).slot = u.slot
  seq : ∀ u, (g u).seq = u.seq
  waiting : ∀ u, (g u).waiting = u.waiting

section
variable {s : State} {p : Cpu} {o : Op} {g : CpuState → CpuState}

/-- An operation on its own processor runs to its end where it is ready and raises no fault. -/
theorem Op.Own.instr {count : Nat} (own : o.Own p g) (ready : s.Ready p o.len count) (cycles : o.cycles = count)
    (stall : o.stall ≤ ((s.begins p o.len).cpu p).farWait (fun _ => true)) (sound : (s.cpu p).faultOf o = none) :
    ∃ t, s.instr p o = .next t ∧ s.RetiresHere t p o.len
      { g { (s.cpu p) with loadOld := [] } with slot := o.transfer, shadow := o.isLoad } := by
  obtain ⟨b, comes⟩ := ready.readyFor cycles stall own.acc own.mid sound
  refine ⟨_, rfl, State.run_own comes own.mid ?_ ?_ (fun b d _ => own.resolve b d) own.effect ?_
    (fun u => ⟨own.pc u, own.slot u, own.seq u, own.waiting u⟩)⟩
  · rw [own.early]; exact fun _ h => h
  · rw [own.early]; exact fun _ => rfl
  · intro u v same
    rw [own.core u, own.core v, same]

/-- The fault of an operation that has none of its own and is no transfer. -/
theorem CpuState.faultOf_none {u : CpuState} (fault : o.fault = none) (straight : o.transfer = none) : u.faultOf o = none := by
  simp [CpuState.faultOf, fault, straight]

end

/-- Operation `o` of the registers it starts from, straight-line, without waits and faults. -/
theorem runsTo_of_own {i : Instr} {p : Cpu} {len count : Nat} {o : CpuState → Op} {g : CpuState → CpuState → CpuState}
    {v : CpuState → CpuState} (own : ∀ u, (o u).Own p (g u)) (is : ∀ s, exec i s = s.instr p (o (s.cpu p)))
    (words : ∀ u, (o u).len = len) (cycles : ∀ u, (o u).cycles = count) (stall : ∀ u, (o u).stall = 0)
    (fault : ∀ u, (o u).fault = none) (straight : ∀ u, (o u).transfer = none)
    (leaves : ∀ u, { g u { u with loadOld := [] } with slot := none, shadow := (o u).isLoad } = v u) :
    runsTo i p len count v := by
  intro s ready
  have at_ := words (s.cpu p)
  rw [← at_] at ready
  obtain ⟨t, ran, left⟩ := (own (s.cpu p)).instr ready (cycles _) (by rw [stall]; exact Nat.zero_le _)
    (CpuState.faultOf_none (fault _) (straight _))
  rw [straight, at_, leaves] at left
  exact ⟨t, (is s).trans ran, left⟩

/-! ### Results in one register -/

/-- Z and N of a result are those of its value. -/
def Result.Tested (r : Result) : Prop := r.flags.z = (r.value == 0) ∧ r.flags.n = wbit r.value 15

theorem addFlags_tested (a b : Word) (c : Bool) : (addFlags a b c).Tested := ⟨rfl, rfl⟩
theorem subFlags_tested (a b : Word) (c : Bool) : (subFlags a b c).Tested := ⟨rfl, rfl⟩
theorem logicFlags_tested (f : Flags) (r : Word) : (logicFlags f r).Tested := ⟨rfl, rfl⟩
theorem moveFlags_tested (f : Flags) (r : Word) : (moveFlags f r).Tested := ⟨rfl, rfl⟩

theorem aluOp_own (len : Nat) (reads : List ScoreTarget) (d : RegNo) (r : Result) (p : Cpu) :
    (aluOp len reads d r p).Own p (fun u => (u.write d r.value).withFlags r.flags) :=
  ⟨rfl, rfl, rfl, fun _ => rfl, fun _ _ => rfl, fun _ => rfl, fun _ => rfl, fun _ => rfl, fun _ => rfl, fun _ => rfl⟩

theorem flagOp_own (len : Nat) (reads : List ScoreTarget) (r : Result) (p : Cpu) :
    (flagOp len reads r p).Own p (·.withFlags r.flags) :=
  ⟨rfl, rfl, rfl, fun _ => rfl, fun _ _ => rfl, fun _ => rfl, fun _ => rfl, fun _ => rfl, fun _ => rfl, fun _ => rfl⟩

section
variable {i : Instr} {p : Cpu} {len : Nat} {reads : List ScoreTarget} {d : RegNo} {r : CpuState → Result}
  {v : CpuState → CpuState}

/-- An instruction that writes a register and the flags. -/
theorem runsTo_aluOp (tested : ∀ u, (r u).Tested)
    (leaves : ∀ u, withResult d (r u).value (r u).flags.c (r u).flags.v u = v u)
    (is : ∀ s, exec i s = s.instr p (aluOp len reads d (r (s.cpu p)) p)) :
    runsTo i p len len v := by
  refine runsTo_of_own (o := fun u => aluOp len reads d (r u) p) (fun u => aluOp_own len reads d (r u) p) is (fun _ => rfl)
    (fun _ => rfl) (fun _ => rfl) (fun _ => rfl) (fun _ => rfl) (fun u => ?_)
  rw [← leaves, withResult, ← (tested u).1, ← (tested u).2]
  rfl

/-- An instruction that writes the flags alone. -/
theorem runsTo_flagOp (tested : ∀ u, (r u).Tested)
    (leaves : ∀ u, withTest (r u).value (r u).flags.c (r u).flags.v u = v u)
    (is : ∀ s, exec i s = s.instr p (flagOp len reads (r (s.cpu p)) p)) :
    runsTo i p len len v := by
  refine runsTo_of_own (o := fun u => flagOp len reads (r u) p) (fun u => flagOp_own len reads (r u) p) is (fun _ => rfl)
    (fun _ => rfl) (fun _ => rfl) (fun _ => rfl) (fun _ => rfl) (fun u => ?_)
  rw [← leaves, withTest, ← (tested u).1, ← (tested u).2]
  rfl

end

/-- The low byte of a word, extended with zeros. -/
theorem and_byte (w : Word) : w &&& 0x00FF#16 = (w.extractLsb' 0 8).zeroExtend 16 := by
  apply BitVec.eq_of_toNat_eq
  have low : w.toNat % 256 % 65536 = w.toNat % 256 := Nat.mod_eq_of_lt (by omega)
  simpa [low] using Nat.and_two_pow_sub_one_eq_mod w.toNat 8

/-- Settles O2: each form is a result in one register, or a test, whose C and V are those of the registers it starts from or
clear. -/
theorem moveAndLogicResults : Obligations.MoveAndLogicResults := by
  intro p d r x k
  refine ⟨?_, ?_, ?_, ?_, ?_, ?_, ?_, ?_, ?_, ?_⟩
  · exact runsTo_aluOp (r := fun u => moveFlags u.flags (u.src x)) (fun _ => moveFlags_tested ..)
      (fun _ => rfl) (fun _ => rfl)
  · exact runsTo_aluOp (r := fun u => moveFlags u.flags (imm8 k)) (fun _ => moveFlags_tested ..)
      (fun _ => rfl) (fun _ => rfl)
  · exact runsTo_aluOp (r := fun u => moveFlags u.flags ((u.read r).rotateLeft 8)) (fun _ => moveFlags_tested ..)
      (fun _ => rfl) (fun _ => rfl)
  · exact runsTo_aluOp (r := fun u => moveFlags u.flags (((u.read r).setWidth 8).signExtend 16)) (fun _ => moveFlags_tested ..)
      (fun _ => rfl) (fun _ => rfl)
  · simp only [← and_byte]
    exact runsTo_aluOp (r := fun u => moveFlags u.flags (u.read r &&& 0x00FF#16)) (fun _ => moveFlags_tested ..)
      (fun _ => rfl) (fun _ => rfl)
  · exact runsTo_aluOp (r := fun u => logicFlags u.flags (u.read d &&& u.src x)) (fun _ => logicFlags_tested ..)
      (fun _ => rfl) (fun _ => rfl)
  · exact runsTo_aluOp (r := fun u => logicFlags u.flags (u.read d ||| u.src x)) (fun _ => logicFlags_tested ..)
      (fun _ => rfl) (fun _ => rfl)
  · exact runsTo_aluOp (r := fun u => logicFlags u.flags (u.read d ^^^ u.src x)) (fun _ => logicFlags_tested ..)
      (fun _ => rfl) (fun _ => rfl)
  · exact runsTo_flagOp (r := fun u => logicFlags u.flags (u.read d &&& u.src x)) (fun _ => logicFlags_tested ..)
      (fun _ => rfl) (fun _ => rfl)
  · exact runsTo_aluOp (r := fun u => logicFlags u.flags (~~~(u.read r))) (fun _ => logicFlags_tested ..)
      (fun _ => rfl) (fun _ => rfl)

/-! ### Sums and differences -/

theorem wbit_eq_decide (w : Word) : wbit w 15 = decide (2 ^ 15 ≤ w.toNat) := by
  rw [wbit, ← BitVec.msb_eq_getLsbD_last (w := 16), BitVec.msb_eq_decide]

theorem toInt_eq_ite (w : Word) : w.toInt = if 2 ^ 15 ≤ w.toNat then (w.toNat : Int) - (2 ^ 16 : Nat) else (w.toNat : Int) := by
  rw [BitVec.toInt_eq_toNat_cond]
  have lt := w.isLt
  split_ifs <;> omega

theorem b2n_le_one (c : Bool) : b2n c ≤ 1 := by cases c <;> decide

theorem addFlags_value (a b : Word) (c : Bool) : (addFlags a b c).value = a + b + cw c := by
  apply BitVec.eq_of_toNat_eq
  cases c <;> simp [addFlags, cw, b2n]

theorem addFlags_c (a b : Word) (c : Bool) : (addFlags a b c).flags.c = addC a b c := rfl

theorem wbit_and_xor (a b r x : Word) : wbit ((a ^^^ b) &&& (r ^^^ x)) 15 =
    ((wbit a 15 != wbit b 15) && (wbit r 15 != wbit x 15)) := by
  rw [wbit, BitVec.getLsbD_and, BitVec.getLsbD_xor, BitVec.getLsbD_xor]
  rfl

theorem addFlags_v (a b : Word) (c : Bool) : (addFlags a b c).flags.v = addV a b c := by
  have lt := a.isLt
  have lt' := b.isLt
  have le := b2n_le_one c
  simp only [addFlags, wbit_and_xor]
  simp only [addV, wbit_eq_decide, toInt_eq_ite, BitVec.toNat_ofNat]
  rw [Bool.eq_iff_iff]
  simp only [Bool.and_eq_true, bne_iff_ne, ne_eq, decide_eq_decide, decide_eq_true_eq]
  generalize b2n c = k at *
  split_ifs <;> omega

theorem subFlags_value (a b : Word) (c : Bool) : (subFlags a b c).value = a - b - cw c := by
  apply BitVec.eq_of_toNat_eq
  have lt := b.isLt
  have lt' := a.isLt
  cases c <;> simp [subFlags, cw, b2n, BitVec.toNat_sub, BitVec.toNat_not] <;> omega

theorem subFlags_c (a b : Word) (c : Bool) : (subFlags a b c).flags.c = subC a b c := by
  have lt := b.isLt
  have le := b2n_le_one c
  simp only [subFlags, subC, BitVec.toNat_not, decide_eq_decide]
  omega

theorem subFlags_v (a b : Word) (c : Bool) : (subFlags a b c).flags.v = subV a b c := by
  have lt := a.isLt
  have lt' := b.isLt
  have le := b2n_le_one c
  simp only [subFlags, wbit_and_xor]
  simp only [subV, wbit_eq_decide, toInt_eq_ite, BitVec.toNat_ofNat, BitVec.toNat_not]
  rw [Bool.eq_iff_iff]
  simp only [Bool.and_eq_true, bne_iff_ne, ne_eq, decide_eq_decide, decide_eq_true_eq]
  generalize b2n c = k at *
  split_ifs <;> omega

theorem cw_false : cw false = 0#16 := rfl

theorem addFlags_plain (a b : Word) : (addFlags a b false).value = a + b := by
  rw [addFlags_value, cw_false, BitVec.add_zero]

theorem subFlags_plain (a b : Word) : (subFlags a b false).value = a - b := by
  rw [subFlags_value, cw_false, BitVec.sub_zero]

/-- Settles O3: each form is a sum or a difference of R145, whose value and flags are those of the numbers. -/
theorem addAndSubtractResults : Obligations.AddAndSubtractResults := by
  intro p d r x k
  refine ⟨?_, ?_, ?_, ?_, ?_, ?_, ?_, ?_⟩
  · exact runsTo_aluOp (r := fun u => addFlags (u.read d) (u.src x) false) (fun _ => addFlags_tested ..)
      (fun u => by rw [addFlags_plain, addFlags_c, addFlags_v]) (fun _ => rfl)
  · exact runsTo_aluOp (r := fun u => addFlags (u.read d) (u.src x) u.flags.c) (fun _ => addFlags_tested ..)
      (fun u => by rw [addFlags_value, addFlags_c, addFlags_v]) (fun _ => rfl)
  · exact runsTo_aluOp (r := fun u => subFlags (u.read d) (u.src x) false) (fun _ => subFlags_tested ..)
      (fun u => by rw [subFlags_plain, subFlags_c, subFlags_v]) (fun _ => rfl)
  · exact runsTo_aluOp (r := fun u => subFlags (u.read d) (u.src x) (!u.flags.c)) (fun _ => subFlags_tested ..)
      (fun u => by rw [subFlags_value, subFlags_c, subFlags_v]) (fun _ => rfl)
  · exact runsTo_flagOp (r := fun u => subFlags (u.read d) (u.src x) false) (fun _ => subFlags_tested ..)
      (fun u => by rw [subFlags_plain, subFlags_c, subFlags_v]) (fun _ => rfl)
  · exact runsTo_aluOp (r := fun u => subFlags 0 (u.read r) false) (fun _ => subFlags_tested ..)
      (fun u => by rw [subFlags_plain, subFlags_c, subFlags_v, ← BitVec.zero_sub]; rfl) (fun _ => rfl)
  · exact runsTo_aluOp (r := fun u => addFlags (u.read d) (imm8 k) false) (fun _ => addFlags_tested ..)
      (fun u => by rw [addFlags_plain, addFlags_c, addFlags_v]; rfl) (fun _ => rfl)
  · exact runsTo_flagOp (r := fun u => subFlags (u.read d) (imm8 k) false) (fun _ => subFlags_tested ..)
      (fun u => by rw [subFlags_plain, subFlags_c, subFlags_v]; rfl) (fun _ => rfl)

/-! ### The conditions after a compare -/

section
variable (a b : Word)

theorem subFlags_z_iff : (subFlags a b false).flags.z = true ↔ a = b := by
  rw [(subFlags_tested a b false).1, subFlags_plain, beq_iff_eq]
  exact sub_eq_zero

theorem subFlags_c_iff : (subFlags a b false).flags.c = true ↔ b.toNat ≤ a.toNat := by
  rw [subFlags_c, subC, decide_eq_true_eq]
  exact Iff.rfl

/-- N differs from V exactly where the first operand is the smaller as a signed number. -/
theorem subFlags_n_v_iff : (subFlags a b false).flags.n = (subFlags a b false).flags.v ↔ b.toInt ≤ a.toInt := by
  have lt := a.isLt
  have lt' := b.isLt
  rw [(subFlags_tested a b false).2, subFlags_plain, subFlags_v, subV, wbit_eq_decide, decide_eq_decide]
  simp only [toInt_eq_ite, BitVec.toNat_sub, b2n, Bool.false_eq_true, if_false]
  split_ifs <;> omega

/-- Settles O4: by what Z, C, and N against V say of the operands. -/
theorem conditionsCompareOperands : Obligations.ConditionsCompareOperands := by
  intro a b
  have z := subFlags_z_iff a b
  have c := subFlags_c_iff a b
  have nv := subFlags_n_v_iff a b
  have eq_nat : a = b ↔ a.toNat = b.toNat := BitVec.toNat_inj.symm
  have eq_int : a = b ↔ a.toInt = b.toInt := BitVec.toInt_inj.symm
  generalize (subFlags a b false).flags = f at *
  have notz : f.z = false ↔ ¬ a = b := by rw [← z, Bool.not_eq_true]
  have notc : f.c = false ↔ a.toNat < b.toNat := by rw [← Bool.not_eq_true, c.not, Nat.not_le]
  have notnv : ¬ f.n = f.v ↔ a.toInt < b.toInt := by rw [nv.not, Int.not_le]
  refine ⟨z, ?_, c, ?_, ?_, ?_, ?_, ?_, ?_, ?_, rfl⟩ <;> simp [condMet, z, c, nv, notz, notc, notnv]
  · rw [eq_nat]; omega
  · rw [eq_nat]; omega
  · rw [eq_int]; omega
  · rw [eq_int]; omega

end

/-! ### Shifts and rotates -/

section
variable {w : Nat} (x : BitVec w) {a : Nat}

/-- The bits a shift to the left keeps and those that a rotate brings in below them do not meet. -/
theorem shiftLeft_or_shiftRight {n : Nat} (small : n < 2 ^ w) (lt : a ≤ w) :
    n <<< a % 2 ^ w ||| n >>> (w - a) = (n * 2 ^ a + n / 2 ^ (w - a)) % 2 ^ w := by
  have split : 2 ^ w = 2 ^ (w - a) * 2 ^ a := by rw [← pow_add, Nat.sub_add_cancel lt]
  have low : n / 2 ^ (w - a) < 2 ^ a := Nat.div_lt_of_lt_mul (by rwa [← split])
  have high : n <<< a % 2 ^ w = (n % 2 ^ (w - a)) <<< a := by
    rw [Nat.shiftLeft_eq, Nat.shiftLeft_eq, split, Nat.mul_mod_mul_right]
  have fits : (n % 2 ^ (w - a)) * 2 ^ a + n / 2 ^ (w - a) < 2 ^ w := by
    have : n % 2 ^ (w - a) + 1 ≤ 2 ^ (w - a) := Nat.mod_lt _ (Nat.two_pow_pos _)
    have := Nat.mul_le_mul_right (2 ^ a) this
    rw [split]
    rw [Nat.add_mul] at this
    omega
  have shifted : n * 2 ^ a % 2 ^ w = (n % 2 ^ (w - a)) * 2 ^ a := by rw [split, Nat.mul_mod_mul_right]
  rw [high, Nat.shiftRight_eq_div_pow, ← Nat.shiftLeft_add_eq_or_of_lt low, Nat.shiftLeft_eq, ← Nat.mod_eq_of_lt fits, ← shifted,
    Nat.mod_add_mod]

theorem rotateLeft_toNat (lt : a < w) :
    (x.rotateLeft a).toNat = (x.toNat * 2 ^ a + x.toNat / 2 ^ (w - a)) % 2 ^ w := by
  rw [BitVec.toNat_rotateLeft, Nat.mod_eq_of_lt lt, shiftLeft_or_shiftRight x.isLt lt.le]

theorem rotateRight_toNat (lt : a < w) :
    (x.rotateRight a).toNat = (x.toNat / 2 ^ a + x.toNat * 2 ^ (w - a)) % 2 ^ w := by
  have back : w - (w - a) = a := by omega
  have turned := shiftLeft_or_shiftRight x.isLt (Nat.sub_le w a)
  rw [back] at turned
  rw [BitVec.toNat_rotateRight, Nat.mod_eq_of_lt lt, Nat.lor_comm, turned, Nat.add_comm]

end

theorem shiftFlags_tested (kind a : Nat) (f : Flags) (w : Word) : (shiftFlags kind a f w).Tested := by
  unfold shiftFlags
  dsimp only
  split <;> exact ⟨rfl, rfl⟩

theorem shiftFlags_v (kind a : Nat) (f : Flags) (w : Word) : (shiftFlags kind a f w).flags.v = false := by
  unfold shiftFlags
  dsimp only
  split <;> rfl

/-- A word under the carry, as the rotates through C turn them (R152). -/
theorem carry_append_toNat (c : Bool) (w : Word) : (BitVec.ofBool c ++ w).toNat = b2n c * 65536 + w.toNat := by
  rw [BitVec.toNat_append, ← Nat.shiftLeft_add_eq_or_of_lt w.isLt, Nat.shiftLeft_eq]
  cases c <;> rfl

/-- The shifts of the model are those of words. -/
theorem shiftFlags_shifted (kind : Fin 7) {a : Nat} (small : a < 16) (f : Flags) (w : Word) :
    ((shiftFlags kind.val a f w).value, (shiftFlags kind.val a f w).flags.c) = shifted kind w f.c a := by
  by_cases zero : a = 0
  · simp [shiftFlags, shifted, zero, Flags.zn]
  have left := rotateLeft_toNat w small
  have right := rotateRight_toNat w small
  have leftC := rotateLeft_toNat (BitVec.ofBool f.c ++ w) (show a < 17 by omega)
  have rightC := rotateRight_toNat (BitVec.ofBool f.c ++ w) (show a < 17 by omega)
  rw [carry_append_toNat] at leftC rightC
  unfold shiftFlags shifted
  dsimp only
  rw [if_neg zero, if_neg zero]
  match kind with
  | 0 => exact Prod.ext (BitVec.eq_of_toNat_eq (by simp [Nat.shiftLeft_eq])) (BitVec.testBit_toNat w)
  | 1 =>
    have fits : w.toNat / 2 ^ a < 65536 := lt_of_le_of_lt (Nat.div_le_self _ _) w.isLt
    exact Prod.ext (BitVec.eq_of_toNat_eq (by simp [Nat.shiftRight_eq_div_pow, fits])) (BitVec.testBit_toNat w)
  | 2 => exact Prod.ext (BitVec.eq_of_toNat_eq (by simp)) (BitVec.testBit_toNat w)
  | 3 =>
    exact Prod.ext (BitVec.eq_of_toNat_eq (by simp [left]))
      ((congrArg (Nat.testBit · 0) left).symm.trans (BitVec.testBit_toNat _))
  | 4 =>
    exact Prod.ext (BitVec.eq_of_toNat_eq (by simp [right]))
      ((congrArg (Nat.testBit · 15) right).symm.trans (BitVec.testBit_toNat _))
  | 5 =>
    exact Prod.ext (BitVec.eq_of_toNat_eq (by simp [leftC]))
      ((congrArg (Nat.testBit · 16) leftC).symm.trans (BitVec.testBit_toNat _))
  | 6 =>
    exact Prod.ext (BitVec.eq_of_toNat_eq (by simp [rightC]))
      ((congrArg (Nat.testBit · 16) rightC).symm.trans (BitVec.testBit_toNat _))

theorem CpuState.amount_lt (u : CpuState) (a : Amount) : u.amount a < 16 := by
  cases a with
  | imm a => exact a.isLt
  | reg r => exact Nat.mod_lt _ (by decide)

/-- A shift of a kind runs to its end with what it leaves of a word. -/
theorem runsTo_shift {i : Instr} {p : Cpu} {d : RegNo} {a : Amount} (kind : Fin 7) (is : ∀ s, exec i s = s.shift p kind.val d a) :
    runsTo i p 1 1 (withShift kind d a) := by
  refine runsTo_aluOp (r := fun u => shiftFlags kind.val (u.amount a) u.flags (u.read d)) (fun _ => shiftFlags_tested ..)
    (fun u => ?_) is
  have same := shiftFlags_shifted kind (u.amount_lt a) u.flags (u.read d)
  rw [shiftFlags_v, withShift, ← same]

/-- Settles O5: each form is a shift of its kind. -/
theorem shiftResults : Obligations.ShiftResults := fun _ _ _ =>
  ⟨runsTo_shift 0 fun _ => rfl, runsTo_shift 1 fun _ => rfl, runsTo_shift 2 fun _ => rfl, runsTo_shift 3 fun _ => rfl,
    runsTo_shift 4 fun _ => rfl, runsTo_shift 5 fun _ => rfl, runsTo_shift 6 fun _ => rfl⟩

end Sys2Proof.Machine

/-! ## The count of cycles stands but where cycles pass

The processors stand as they did, their counts of cycles too, through every operation of the block that a cycle performs besides
the cycle itself: one lemma for each, in the order of the laws of Laws/Registers.lean, which leave the count aside. -/

namespace Sys2Proof.Machine

open Sys2Proof

set_option linter.all false

/-- The processor of a session stands as it did, its count of cycles too. -/
def StillX (x y : Session) : Prop := y.cpu = x.cpu ∧ y.eff = x.eff ∧ y.grand = x.grand

/-- A title has as many pages as it had. -/
def Pages (a b : Title) : Prop := b.cPages = a.cPages ∧ b.dPages = a.dPages

theorem Pages.trans {a b c : Title} (h : Pages a b) (k : Pages b c) : Pages a c := ⟨k.1.trans h.1, k.2.trans h.2⟩

/-- A port for which no command waits stands, and with the ports the supplies and the words held of the context table. -/
structure Apart (s t : State) : Prop where
  port : ∀ p : Fin 4, s.ports[p.val].waiting = none → t.ports[p.val] = s.ports[p.val]
  power : t.power = s.power
  hold : t.entryHold = s.entryHold

theorem Apart.refl (s : State) : Apart s s := ⟨fun _ _ => rfl, rfl, rfl⟩
theorem Apart.trans {a b c : State} (h : Apart a b) (k : Apart b c) : Apart a c :=
  ⟨fun p w => (k.port p (by rw [h.port p w]; exact w)).trans (h.port p w), k.power.trans h.power, k.hold.trans h.hold⟩
theorem Apart.of_eq {s t : State} (ports : t.ports = s.ports) (power : t.power = s.power) (hold : t.entryHold = s.entryHold) :
    Apart s t := ⟨fun _ _ => by rw [ports], power, hold⟩
theorem Apart.foldl {β : Type} {f : State → β → State} (hf : ∀ z b, Apart z (f z b)) (l : List β) : ∀ s : State, Apart s (l.foldl f s) := by
  induction l with
  | nil => exact Apart.refl
  | cons b l ih => exact fun s => (hf s b).trans (ih _)

/-- Every processor stands as it did, its count of cycles too, where no context command waits. -/
structure Still (s t : State) : Prop where
  waits : s.noneWaits → t.noneWaits
  ses : s.noneWaits → ∀ c, (t.ses c).map (fun x => (x.cpu, x.eff, x.grand)) = (s.ses c).map (fun x => (x.cpu, x.eff, x.grand))
  title : s.noneWaits → (∀ n, Pages (s.titleOf n) (t.titleOf n)) ∧ ∀ c, (t.ctx c).title = (s.ctx c).title
  keeper : s.noneWaits → ∀ k, (t.keeper k).cpu = (s.keeper k).cpu
  apart : Apart s t

theorem Still.refl (s : State) : Still s s := ⟨id, fun _ _ => rfl, fun _ => ⟨fun _ => ⟨rfl, rfl⟩, fun _ => rfl⟩, fun _ _ => rfl, .refl s⟩
theorem Still.trans {a b c : State} (h : Still a b) (k : Still b c) : Still a c :=
  ⟨k.waits ∘ h.waits, fun w i => (k.ses (h.waits w) i).trans (h.ses w i),
    fun w => ⟨fun n => ((h.title w).1 n).trans ((k.title (h.waits w)).1 n), fun i => ((k.title (h.waits w)).2 i).trans ((h.title w).2 i)⟩,
    fun w i => (k.keeper (h.waits w) i).trans (h.keeper w i), h.apart.trans k.apart⟩

/-- Every register of a processor stands as it did. -/
theorem Still.cpu {s t : State} (h : Still s t) (w : s.noneWaits) (p : Cpu) : t.cpu p = s.cpu p := by
  cases p with
  | session c =>
    have := h.ses w c
    simp only [State.cpu, State.sesD]
    cases hs : s.ses c <;> cases ht : t.ses c <;> simp_all
  | keeper k => exact h.keeper w k

theorem StillX.refl (x : Session) : StillX x x := ⟨rfl, rfl, rfl⟩

def StillO (s : State) (o : Option State) : Prop := ∀ t, o = some t → Still s t
def StillOf {α : Type} (s : State) (o : Option (α × State)) : Prop := ∀ a t, o = some (a, t) → Still s t
def StillFo {α : Type} (s : State) (o : Option (State × α)) : Prop := ∀ t a, o = some (t, a) → Still s t

section
variable {s0 s t : State} {x0 x y : Session} {α β : Type}

theorem StillO.none : StillO s0 none := fun _ h => nomatch h
theorem StillO.some (h : Still s0 t) : StillO s0 (some t) := fun _ e => by cases e; exact h
theorem StillO.map {o : Option State} {f : State → State} (h : StillO s0 o) (hf : ∀ z, Still s0 z → Still s0 (f z)) :
    StillO s0 (o.map f) := by
  intro t e
  obtain ⟨z, hz, rfl⟩ := Option.map_eq_some_iff.mp e
  exact hf z (h z hz)
theorem StillO.mapOf {o : Option (α × State)} {f : α × State → State} (h : StillOf s0 o)
    (hf : ∀ a z, Still s0 z → Still s0 (f (a, z))) : StillO s0 (o.map f) := by
  intro t e
  obtain ⟨⟨a, z⟩, hz, rfl⟩ := Option.map_eq_some_iff.mp e
  exact hf a z (h a z hz)
theorem StillO.mapFo {o : Option (State × α)} {f : State × α → State} (h : StillFo s0 o)
    (hf : ∀ z a, Still s0 z → Still s0 (f (z, a))) : StillO s0 (o.map f) := by
  intro t e
  obtain ⟨⟨z, a⟩, hz, rfl⟩ := Option.map_eq_some_iff.mp e
  exact hf z a (h z a hz)
theorem StillOf.none : StillOf (α := α) s0 none := fun _ _ h => nomatch h
theorem StillOf.some {a : α} (h : Still s0 t) : StillOf s0 (some (a, t)) := fun _ _ e => by cases e; exact h
theorem StillOf.mapVal {o : Option β} {f : β → α × State} (hf : ∀ b, Still s0 (f b).2) : StillOf s0 (o.map f) := by
  intro a t e
  obtain ⟨b, -, he⟩ := Option.map_eq_some_iff.mp e
  have := hf b
  rw [he] at this
  exact this
theorem StillOf.bindVal {o : Option β} {f : β → Option (α × State)} (hf : ∀ b, StillOf s0 (f b)) :
    StillOf s0 (o.bind f) := by
  intro a t e
  obtain ⟨b, -, he⟩ := Option.bind_eq_some_iff.mp e
  exact hf b a t he
theorem StillFo.none : StillFo (α := α) s0 none := fun _ _ h => nomatch h
theorem StillFo.some {a : α} (h : Still s0 t) : StillFo s0 (some (t, a)) := fun _ _ e => by cases e; exact h
theorem StillFo.map {o : Option (State × α)} {f : State × α → State × β} (h : StillFo s0 o)
    (hf : ∀ z a, Still s0 z → Still s0 (f (z, a)).1) : StillFo s0 (o.map f) := by
  intro t b e
  obtain ⟨⟨z, a⟩, hz, he⟩ := Option.map_eq_some_iff.mp e
  have := hf z a (h z a hz)
  rw [he] at this
  exact this
theorem Still.of_some {o : Option State} (e : o = some t) (h : StillO s0 o) : Still s0 t := h t e
theorem Still.of_someP {o : Option (α × State)} {a : α} (e : o = some (a, t)) (h : StillOf s0 o) : Still s0 t := h a t e
theorem Still.of_someF {o : Option (State × α)} {a : α} (e : o = some (t, a)) (h : StillFo s0 o) : Still s0 t := h t a e
theorem Still.of_pair {p : State × α} {a : α} (e : p = (t, a)) (h : Still s0 p.1) : Still s0 t := by
  subst e; exact h
theorem Still.of_pairF {p : α × State} {a : α} (e : p = (a, t)) (h : Still s0 p.2) : Still s0 t := by
  subst e; exact h
theorem Still.of_ite {c : Prop} [Decidable c] {p q : State} (hp : c → Still s0 p) (hq : ¬c → Still s0 q) :
    Still s0 (if c then p else q) := by
  split
  · exact hp ‹_›
  · exact hq ‹_›
theorem Still.of_iteP {c : Prop} [Decidable c] {p q : State × α} (hp : c → Still s0 p.1) (hq : ¬c → Still s0 q.1) :
    Still s0 (if c then p else q).1 := by
  split
  · exact hp ‹_›
  · exact hq ‹_›
theorem Still.foldl {f : State → β → State} (hf : ∀ z b, Still s0 z → Still s0 (f z b)) (l : List β) :
    ∀ {s : State}, Still s0 s → Still s0 (l.foldl f s) := by
  induction l with
  | nil => intro s h; exact h
  | cons b l ih => intro s h; exact ih (hf s b h)
theorem Still.foldlP {f : State × α → β → State × α} (hf : ∀ z b, Still s0 z.1 → Still s0 (f z b).1) (l : List β) :
    ∀ {s : State × α}, Still s0 s.1 → Still s0 (l.foldl f s).1 := by
  induction l with
  | nil => intro s h; exact h
  | cons b l ih => intro s h; exact ih (hf s b h)
theorem Still.getD {o : Option State} (ho : StillO s0 o) (h : Still s0 s) : Still s0 (o.getD s) := by
  cases o with
  | none => exact h
  | some t => exact ho t rfl

theorem StillX.of_ite {c : Prop} [Decidable c] {p q : Session} (hp : c → StillX x0 p) (hq : ¬c → StillX x0 q) :
    StillX x0 (if c then p else q) := by
  split
  · exact hp ‹_›
  · exact hq ‹_›
theorem StillX.foldl {f : Session → β → Session} (hf : ∀ z b, StillX x0 z → StillX x0 (f z b)) (l : List β) :
    ∀ {x : Session}, StillX x0 x → StillX x0 (l.foldl f x) := by
  induction l with
  | nil => intro s h; exact h
  | cons b l ih => intro s h; exact ih (hf s b h)

/-- An update of a session beside its processor. -/
theorem StillX.same {x1 x3 x4 x6 x7 x8 x9 x10 x11 x12 x13 x14 x15 x16 x17 x18 x19 x20 x21 x22 x23 x24 x25 x26
    x27 x28 x29 x30 x31 x32 x33 x34 x35 x36 x37 x38 x39 x40 x41 x42} :
    StillX x0 ⟨x.cpu, x1, x.grand, x3, x4, x.eff, x6, x7, x8, x9, x10, x11, x12, x13, x14, x15, x16, x17, x18, x19, x20, x21,
      x22, x23, x24, x25, x26, x27, x28, x29, x30, x31, x32, x33, x34, x35, x36, x37, x38, x39, x40, x41, x42⟩ ↔ StillX x0 x := Iff.rfl

/-- An update beside contexts and Keepers. -/
theorem Still.same {x1 x2 x3 x4 x5 x6 x7 x8 x9 x10 x11 x15 x16 x17 x18 x19 x20 x21 x24 x25 x27 x28 x29
    x30 x31 x32 x33 x34 x35 x36 x37 x38 x39 x40 x41 x42 x43 x44 x45 x46} :
    Still s0 ⟨x1, x2, x3, x4, x5, x6, x7, x8, x9, x10, x11, s.entryHold, s.ctxs, s.titles, x15, x16, x17, x18, x19, x20, x21,
      s.ports, s.keepers, x24, x25, s.power, x27, x28, x29, x30, x31, x32, x33, x34, x35, x36, x37, x38, x39, x40, x41,
      x42, x43, x44, x45, x46⟩ ↔ Still s0 s :=
  ⟨fun h => ⟨h.waits, h.ses, h.title, h.keeper, h.apart.trans (.of_eq rfl rfl rfl)⟩,
    fun h => ⟨h.waits, h.ses, h.title, h.keeper, h.apart.trans (.of_eq rfl rfl rfl)⟩⟩

/-! ### Contexts, sessions and Keepers -/

theorem State.setCtx_still {c : CtxNo} {x : Context}
    (hx : x.ses.map (fun x => (x.cpu, x.eff, x.grand)) = (s.ses c).map (fun x => (x.cpu, x.eff, x.grand)))
    (title : x.title = (s.ctx c).title) (h : Still s0 s) : Still s0 (s.setCtx c x) := by
  refine ⟨h.waits, fun w i => ?_, fun w => ⟨(h.title w).1, fun i => ?_⟩, h.keeper, h.apart.trans (.of_eq rfl rfl rfl)⟩
  · rw [← h.ses w i]
    unfold State.ses
    rw [State.ctx_setCtx]
    split
    · subst_vars; exact hx
    · rfl
  · rw [← (h.title w).2 i, State.ctx_setCtx]
    split
    · subst_vars; exact title
    · rfl

theorem State.modCtx_still {c : CtxNo} {f : Context → Context} (hf : ∀ x, (f x).ses = x.ses ∧ (f x).title = x.title) (h : Still s0 s) :
    Still s0 (s.modCtx c f) := State.setCtx_still (by rw [(hf _).1]; rfl) (hf _).2 h

theorem State.modSes_still {c : CtxNo} {f : Session → Session} (hf : ∀ x, StillX x (f x)) (h : Still s0 s) :
    Still s0 (s.modSes c f) := by
  refine State.setCtx_still ?_ rfl h
  rw [Option.map_map]
  unfold State.ses
  congr 1
  funext x
  obtain ⟨cpu, eff, grand⟩ := hf x
  simp only [Function.comp_apply, cpu, eff, grand]

/-- A session is put back changed. -/
theorem State.putSes_still {c : CtxNo} (e : s.ses c = some x) (hy : StillX x y) (h : Still s0 s) :
    Still s0 (s.modSes c (fun _ => y)) := by
  refine State.setCtx_still ?_ rfl h
  have e1 : (s.ctx c).ses = some x := e
  obtain ⟨cpu, eff, grand⟩ := hy
  rw [e, Option.map_map, e1]
  simp only [Option.map_some, Function.comp_apply, cpu, eff, grand]

theorem StillX.foldlP {f : Session × α → β → Session × α} (hf : ∀ z b, StillX x0 z.1 → StillX x0 (f z b).1) (l : List β) :
    ∀ {x : Session × α}, StillX x0 x.1 → StillX x0 (l.foldl f x).1 := by
  induction l with
  | nil => intro s h; exact h
  | cons b l ih => intro s h; exact ih (hf s b h)

theorem State.modKeeper_still {k : Fin 4} {f : Keeper → Keeper} (hf : ∀ x, (f x).cpu = x.cpu) (h : Still s0 s) :
    Still s0 (s.modKeeper k f) := by
  refine ⟨h.waits, h.ses, h.title, fun w i => ?_, h.apart.trans (.of_eq rfl rfl rfl)⟩
  rw [← h.keeper w i]
  unfold State.modKeeper State.setKeeper State.keeper
  simp only [Vector.getElem_set]
  split
  · rename_i e
    have : k = i := Fin.ext e
    subst this
    exact hf _
  · rfl


/-- An update of the titles that keeps their page counts. -/
theorem Still.titles {l : Sparse Title} {f : List PageReq} (same : ∀ n, Pages (s.titleOf n) (State.titleOf { s with titles := l, pageReqs := f } n))
    (h : Still s0 s) : Still s0 { s with titles := l, pageReqs := f } :=
  ⟨h.waits, h.ses, fun w => ⟨fun n => ((h.title w).1 n).trans (same n), (h.title w).2⟩, h.keeper, h.apart.trans (.of_eq rfl rfl rfl)⟩

/-! ### The operations that a cycle performs -/

theorem Session.setIo_still {x0 x : Session} {a0 a1 : Nat} (h : StillX x0 x) :
    StillX x0 (Session.setIo a0 a1 x) := by
  unfold Session.setIo
  repeat' first
    | (with_reducible assumption)
    | (simp only [StillX.same])

theorem Session.countIo_still {x0 x : Session} {a0 a1 : Nat} (h : StillX x0 x) :
    StillX x0 (Session.countIo a0 a1 x) := by
  unfold Session.countIo
  repeat' first
    | (with_reducible assumption)
    | (with_reducible apply Session.setIo_still)

theorem Session.orIo_still {x0 x : Session} {a0 a1 : Nat} (h : StillX x0 x) :
    StillX x0 (Session.orIo a0 a1 x) := by
  unfold Session.orIo
  repeat' first
    | (with_reducible assumption)
    | (with_reducible apply Session.setIo_still)

theorem Session.setLive_still {x0 x : Session} {a0 a1 : Nat} (h : StillX x0 x) :
    StillX x0 (Session.setLive a0 a1 x) := by
  unfold Session.setLive
  repeat' first
    | (with_reducible assumption)
    | (simp only [StillX.same])

theorem State.setCnt_still {s0 s : State} {a0 a1 : Nat} (h : Still s0 s) :
    Still s0 (State.setCnt a0 a1 s) := by
  unfold State.setCnt
  repeat' first
    | (with_reducible assumption)
    | (simp only [Still.same])

theorem State.addCnt_still {s0 s : State} {a0 a1 : Nat} (h : Still s0 s) :
    Still s0 (State.addCnt a0 a1 s) := by
  unfold State.addCnt
  repeat' first
    | (with_reducible assumption)
    | (with_reducible apply State.setCnt_still)

theorem State.alogStart_still {s0 s : State} (h : Still s0 s) :
    Still s0 (State.alogStart s) := by
  unfold State.alogStart
  repeat' first
    | (with_reducible assumption)
    | (simp only [StillX.same])
    | (simp only [Still.same])
    | split

theorem State.alogAccept_still {s0 s : State} {a0 : AlogOffer} {a1 : Nat} (h : Still s0 s) :
    Still s0 (State.alogAccept a0 a1 s) := by
  unfold State.alogAccept
  repeat' first
    | (with_reducible assumption)
    | (with_reducible apply State.alogStart_still)
    | (simp only [StillX.same])
    | (simp only [Still.same])

theorem State.setReg_still {s0 s : State} {a0 a1 : Nat} (h : Still s0 s) :
    Still s0 (State.setReg a0 a1 s) := by
  unfold State.setReg
  repeat' first
    | (with_reducible assumption)
    | (simp only [Still.same])

theorem State.countReg_still {s0 s : State} {a0 a1 : Nat} (h : Still s0 s) :
    Still s0 (State.countReg a0 a1 s) := by
  unfold State.countReg
  repeat' first
    | (with_reducible assumption)
    | (with_reducible apply State.setReg_still)

theorem State.dicPend_still {s0 s : State} {a0 : Nat} (h : Still s0 s) :
    Still s0 (State.dicPend a0 s) := by
  unfold State.dicPend
  repeat' first
    | (with_reducible assumption)
    | (simp only [StillX.same])
    | (simp only [Still.same])
    | (with_reducible refine Still.of_ite (fun _ => ?_) (fun _ => ?_))

theorem State.dicSettleOne_still {s0 s : State} {a0 : Fin 4} (h : Still s0 s) :
    Still s0 (State.dicSettleOne a0 s) := by
  unfold State.dicSettleOne
  repeat' first
    | (with_reducible assumption)
    | (with_reducible apply State.modKeeper_still)
    | (simp only [StillX.same])
    | (with_reducible intro _)

theorem State.dicSettle_still {s0 s : State} (h : Still s0 s) :
    Still s0 (State.dicSettle s) := by
  unfold State.dicSettle
  repeat' first
    | (with_reducible assumption)
    | (with_reducible apply State.dicSettleOne_still)

theorem State.raiseP_still {s0 s : State} {a0 : Nat} (h : Still s0 s) :
    Still s0 (State.raiseP a0 s) := by
  unfold State.raiseP
  repeat' first
    | (with_reducible assumption)
    | (with_reducible apply State.dicPend_still)
    | (with_reducible apply State.dicSettle_still)
    | (simp only [StillX.same])
    | (simp only [Still.same])
    | (with_reducible refine Still.of_ite (fun _ => ?_) (fun _ => ?_))

theorem State.alogLose_still {s0 s : State} (h : Still s0 s) :
    Still s0 (State.alogLose s) := by
  unfold State.alogLose
  repeat' first
    | (with_reducible assumption)
    | (with_reducible apply State.countReg_still)
    | (with_reducible apply State.raiseP_still)
    | (simp only [StillX.same])
    | (simp only [Still.same])

theorem State.clearFrame_still {s0 s : State} {a0 : Nat} (h : Still s0 s) :
    Still s0 (State.clearFrame a0 s) := by
  unfold State.clearFrame
  repeat' first
    | (with_reducible assumption)
    | (simp only [Still.same])

theorem State.copyFrame_still {s0 s : State} {a0 a1 : Nat} (h : Still s0 s) :
    Still s0 (State.copyFrame a0 a1 s) := by
  unfold State.copyFrame
  repeat' first
    | (with_reducible assumption)
    | (simp only [Still.same])

theorem State.setSlot_still {s0 s : State} {a0 : Nat} {a1 : SlotSt} (h : Still s0 s) :
    Still s0 (State.setSlot a0 a1 s) := by
  unfold State.setSlot
  repeat' first
    | (with_reducible assumption)
    | (simp only [Still.same])

theorem State.modSlot_still {s0 s : State} {a0 : Nat} {a1 : SlotSt → SlotSt} (h : Still s0 s) :
    Still s0 (State.modSlot a0 a1 s) := by
  unfold State.modSlot
  repeat' first
    | (with_reducible assumption)
    | (with_reducible apply State.setSlot_still)

theorem State.offer_still {s0 s : State} {a0 : Word} {a1 : Byte} {a2 : List Byte} (h : Still s0 s) :
    Still s0 (State.offer a0 a1 a2 s) := by
  unfold State.offer
  repeat' first
    | (with_reducible assumption)
    | (with_reducible apply State.alogAccept_still)
    | (with_reducible apply State.alogLose_still)
    | (simp only [StillX.same])
    | (simp only [Still.same])
    | (with_reducible refine Still.of_ite (fun _ => ?_) (fun _ => ?_))

theorem State.setLevel_still {s0 s : State} {a0 : Nat} {a1 : Bool} (h : Still s0 s) :
    Still s0 (State.setLevel a0 a1 s) := by
  unfold State.setLevel
  repeat' first
    | (with_reducible assumption)
    | (with_reducible apply State.dicPend_still)
    | (with_reducible apply State.dicSettle_still)
    | (simp only [StillX.same])
    | (simp only [Still.same])
    | (with_reducible refine Still.of_ite (fun _ => ?_) (fun _ => ?_))

theorem State.setRegField_still {s0 s : State} {a0 a1 a2 a3 : Nat} (h : Still s0 s) :
    Still s0 (State.setRegField a0 a1 a2 a3 s) := by
  unfold State.setRegField
  repeat' first
    | (with_reducible assumption)
    | (with_reducible apply State.setReg_still)

theorem State.setWord_still {s0 s : State} {a0 : Nat} {a1 : Word} (h : Still s0 s) :
    Still s0 (State.setWord a0 a1 s) := by
  unfold State.setWord
  repeat' first
    | (with_reducible assumption)
    | (simp only [Still.same])

theorem State.spend_still {s0 s : State} (h : Still s0 s) :
    Still s0 (State.spend s) := by
  unfold State.spend
  repeat' first
    | (with_reducible assumption)
    | (simp only [Still.same])

theorem State.putFrame_still {s0 s : State} {a0 : Nat} {a1 : FrameRec} (h : Still s0 s) :
    Still s0 (State.putFrame a0 a1 s) := by
  unfold State.putFrame
  repeat' first
    | (with_reducible assumption)
    | (simp only [Still.same])

theorem State.setFrame_still {s0 s : State} {a0 : Nat} {a1 : FrameRec} (h : Still s0 s) :
    Still s0 (State.setFrame a0 a1 s) := by
  unfold State.setFrame
  repeat' first
    | (with_reducible assumption)
    | (with_reducible apply State.putFrame_still)
    | (with_reducible apply State.raiseP_still)
    | (simp only [StillX.same])
    | (with_reducible refine Still.of_ite (fun _ => ?_) (fun _ => ?_))
    | split

theorem State.freeFrame_still {s0 s : State} {a0 : Nat} (h : Still s0 s) :
    Still s0 (State.freeFrame a0 s) := by
  unfold State.freeFrame
  repeat' first
    | (with_reducible assumption)
    | (with_reducible apply State.setFrame_still)
    | (simp only [StillX.same])
    | (simp only [Still.same])

theorem State.modFrame_still {s0 s : State} {a0 : Nat} {a1 : FrameRec → FrameRec} (h : Still s0 s) :
    Still s0 (State.modFrame a0 a1 s) := by
  unfold State.modFrame
  repeat' first
    | (with_reducible assumption)
    | (with_reducible apply State.setFrame_still)

theorem State.setPage_still {s0 s : State} {a0 : CtxNo} {a1 : Nat} {a2 : PageEntry} (h : Still s0 s) :
    Still s0 (State.setPage a0 a1 a2 s) := by
  unfold State.setPage
  repeat' first
    | (with_reducible assumption)
    | (exact fun _ => ⟨rfl, rfl⟩)
    | (with_reducible apply State.modCtx_still)
    | (with_reducible intro _)

theorem State.takeFrame_still {s0 s : State} {a0 : Nat} {a1 : FrameRec} (h : Still s0 s) :
    StillOf s0 (State.takeFrame a0 a1 s) := by
  unfold State.takeFrame
  repeat' first
    | (with_reducible assumption)
    | (with_reducible apply State.setFrame_still)
    | (with_reducible apply State.spend_still)
    | (simp only [StillX.same])
    | (simp only [Still.same])
    | (with_reducible refine StillOf.mapVal (fun _ => ?_))

theorem State.takeHome_still {s0 s : State} {a0 : Option Nat} {a1 : Bool} (h : Still s0 s) :
    StillOf s0 (State.takeHome a0 a1 s) := by
  unfold State.takeHome
  repeat' first
    | (with_reducible assumption)
    | (with_reducible apply State.takeFrame_still)
    | (with_reducible refine StillOf.bindVal (fun _ => ?_))

theorem State.touchGallery_still {s0 s : State} {a0 : Nat} (h : Still s0 s) :
    Still s0 (State.touchGallery a0 s) := by
  unfold State.touchGallery
  repeat' first
    | (with_reducible assumption)
    | (simp only [Still.same])

theorem State.clearPage_still {s0 s : State} {a0 : CtxNo} {a1 : Nat} (h : Still s0 s) :
    Still s0 (State.clearPage a0 a1 s) := by
  unfold State.clearPage
  repeat' first
    | (with_reducible assumption)
    | (exact fun _ => ⟨rfl, rfl⟩)
    | (with_reducible apply State.modCtx_still)
    | (with_reducible intro _)

theorem State.endFlight_still {s0 s : State} {a0 a1 a2 : Nat} (h : Still s0 s) :
    Still s0 (State.endFlight a0 a1 a2 s) := by
  unfold State.endFlight
  repeat' first
    | (with_reducible assumption)
    | (with_reducible apply State.freeFrame_still)
    | (simp only [StillX.same])
    | (simp only [Still.same])

theorem State.writeBackFrame_still {s0 s : State} {a0 : Nat} (h : Still s0 s) :
    Still s0 (State.writeBackFrame a0 s) := by
  unfold State.writeBackFrame
  repeat' first
    | (with_reducible assumption)
    | (exact fun _ => ⟨rfl, rfl⟩)
    | (with_reducible apply State.copyFrame_still)
    | (with_reducible apply State.modCtx_still)
    | (with_reducible apply State.modFrame_still)
    | (simp only [StillX.same])
    | (with_reducible refine Still.foldl (fun _ _ _ => ?_) _ ?_)
    | (with_reducible refine Still.of_ite (fun _ => ?_) (fun _ => ?_))
    | (with_reducible intro _)
    | split

theorem State.dropPageCopy_still {s0 s : State} {a0 : CtxNo} {a1 : Nat} (h : Still s0 s) :
    Still s0 (State.dropPageCopy a0 a1 s) := by
  unfold State.dropPageCopy
  repeat' first
    | (with_reducible assumption)
    | (exact fun _ => ⟨rfl, rfl⟩)
    | (with_reducible apply State.endFlight_still)
    | (with_reducible apply State.freeFrame_still)
    | (with_reducible apply State.modCtx_still)
    | (with_reducible apply State.writeBackFrame_still)
    | (simp only [StillX.same])
    | (simp only [Still.same])
    | (with_reducible refine Still.of_ite (fun _ => ?_) (fun _ => ?_))
    | (with_reducible intro _)
    | split

theorem State.unawait_still {s0 s : State} {a0 a1 : Nat} (h : Still s0 s) :
    Still s0 (State.unawait a0 a1 s) := by
  unfold State.unawait
  repeat' first
    | (with_reducible assumption)
    | (exact fun _ => ⟨rfl, rfl⟩)
    | (with_reducible apply State.modCtx_still)
    | (simp only [StillX.same])
    | (with_reducible refine Still.foldl (fun _ _ _ => ?_) _ ?_)
    | (with_reducible refine Still.of_ite (fun _ => ?_) (fun _ => ?_))
    | (with_reducible intro _)

theorem State.freeCopies_still {s0 s : State} {a0 : Nat} (h : Still s0 s) :
    Still s0 (State.freeCopies a0 s) := by
  unfold State.freeCopies
  repeat' first
    | (with_reducible assumption)
    | (with_reducible apply State.endFlight_still)
    | (with_reducible apply State.freeFrame_still)
    | (with_reducible apply State.modFrame_still)
    | (with_reducible apply State.unawait_still)
    | (simp only [StillX.same])
    | (with_reducible refine Still.foldl (fun _ _ _ => ?_) _ ?_)
    | split

theorem State.dropShare_still {s0 s : State} {a0 : Nat} (h : Still s0 s) :
    Still s0 (State.dropShare a0 s) := by
  unfold State.dropShare
  repeat' first
    | (with_reducible assumption)
    | (with_reducible apply State.freeCopies_still)
    | (with_reducible apply State.freeFrame_still)
    | (with_reducible apply State.setFrame_still)
    | (simp only [StillX.same])
    | (with_reducible refine Still.of_ite (fun _ => ?_) (fun _ => ?_))

theorem State.dropTitleCopies_still {s0 s : State} {a0 : CtxNo} {a1 : Nat} (h : Still s0 s) :
    Still s0 (State.dropTitleCopies a0 a1 s) := by
  unfold State.dropTitleCopies
  repeat' first
    | (with_reducible assumption)
    | (with_reducible apply State.freeFrame_still)
    | (simp only [StillX.same])
    | (with_reducible refine Still.foldl (fun _ _ _ => ?_) _ ?_)
    | (with_reducible refine Still.of_ite (fun _ => ?_) (fun _ => ?_))
    | split

theorem State.idleSlot_still {s0 s : State} {a0 : Nat} (h : Still s0 s) :
    Still s0 (State.idleSlot a0 s) := by
  unfold State.idleSlot
  repeat' first
    | (with_reducible assumption)
    | (with_reducible apply State.setReg_still)
    | (with_reducible apply State.setSlot_still)

theorem State.freeSlot_still {s0 s : State} {a0 : CtxNo} (h : Still s0 s) :
    Still s0 (State.freeSlot a0 s) := by
  unfold State.freeSlot
  repeat' first
    | (with_reducible assumption)
    | (exact fun _ => ⟨rfl, rfl⟩)
    | (with_reducible apply State.dropTitleCopies_still)
    | (with_reducible apply State.idleSlot_still)
    | (with_reducible apply State.modCtx_still)
    | (simp only [StillX.same])
    | (with_reducible refine Still.foldl (fun _ _ _ => ?_) _ ?_)
    | (with_reducible refine Still.of_ite (fun _ => ?_) (fun _ => ?_))
    | (with_reducible intro _)
    | split

theorem State.quarRecord_still {s0 s : State} {a0 : CtxNo} {a1 : Nat} (h : Still s0 s) :
    Still s0 (State.quarRecord a0 a1 s) := by
  unfold State.quarRecord
  repeat' first
    | (with_reducible assumption)
    | (with_reducible apply State.countReg_still)
    | (with_reducible apply State.setLevel_still)
    | (simp only [Still.same])
    | (with_reducible refine Still.of_ite (fun _ => ?_) (fun _ => ?_))

theorem State.markDirty_still {s0 s : State} {a0 : CtxNo} {a1 : Nat} (h : Still s0 s) :
    Still s0 (State.markDirty a0 a1 s) := by
  unfold State.markDirty
  repeat' first
    | (with_reducible assumption)
    | (exact fun _ => ⟨rfl, rfl⟩)
    | (with_reducible apply State.modCtx_still)
    | (with_reducible apply State.modFrame_still)
    | (simp only [StillX.same])
    | (with_reducible refine Still.of_ite (fun _ => ?_) (fun _ => ?_))
    | (with_reducible intro _)
    | split

theorem State.writeLine_still {s0 s : State} {a0 : CtxNo} {a1 : StageLine} (h : Still s0 s) :
    Still s0 (State.writeLine a0 a1 s) := by
  unfold State.writeLine
  repeat' first
    | (with_reducible assumption)
    | (with_reducible apply State.markDirty_still)
    | (with_reducible apply State.setWord_still)
    | (simp only [StillX.same])
    | (with_reducible refine Still.foldl (fun _ _ _ => ?_) _ ?_)
    | (with_reducible refine Still.of_ite (fun _ => ?_) (fun _ => ?_))
    | split

theorem State.flushLines_still {s0 s : State} {a0 : CtxNo} (h : Still s0 s) :
    Still s0 (State.flushLines a0 s) := by
  unfold State.flushLines
  repeat' first
    | (with_reducible assumption)
    | (with_reducible apply State.modSes_still)
    | (with_reducible apply State.writeLine_still)
    | (with_reducible exact StillX.refl _)
    | (simp only [StillX.same])
    | (with_reducible refine Still.foldl (fun _ _ _ => ?_) _ ?_)
    | (with_reducible intro _)

theorem State.writeBackAll_still {s0 s : State} {a0 : CtxNo} (h : Still s0 s) :
    Still s0 (State.writeBackAll a0 s) := by
  unfold State.writeBackAll
  repeat' first
    | (with_reducible assumption)
    | (with_reducible apply State.dropPageCopy_still)
    | (with_reducible apply State.flushLines_still)
    | (with_reducible apply State.modSes_still)
    | (with_reducible exact StillX.refl _)
    | (simp only [StillX.same])
    | (with_reducible refine Still.foldl (fun _ _ _ => ?_) _ ?_)
    | (with_reducible intro _)

/-- A page leaves a context's map. -/
theorem State.unmapPage_still {s0 s : State} {a0 : CtxNo} {a1 : Nat} (h : Still s0 s) :
    Still s0 (State.unmapPage a0 a1 s) := by
  unfold State.unmapPage
  repeat' first
    | (with_reducible assumption)
    | (exact fun _ => ⟨rfl, rfl⟩)
    | (with_reducible apply State.dropShare_still)
    | (with_reducible apply State.modCtx_still)
    | (with_reducible apply State.dropPageCopy_still)
    | (with_reducible refine Still.of_ite (fun _ => ?_) (fun _ => ?_))

theorem State.undoNew_apart {s : State} (p : Fin 4) : Apart s (s.undoNew p) := by
  unfold State.undoNew
  dsimp only
  split
  · have pages := Still.foldl (s0 := s) (fun z i h => State.unmapPage_still (a0 := s.ports[p.val].args[0].setWidth 18) (a1 := i) h)
      (s.ctx (s.ports[p.val].args[0].setWidth 18)).pageList (Still.refl s)
    exact (State.freeSlot_still pages).apart.trans (.of_eq rfl rfl rfl)
  · exact .refl s

theorem State.quarantinedSource_apart {s : State} (p : Fin 4) : Apart s (s.quarantinedSource p) := by
  unfold State.quarantinedSource
  dsimp only
  split
  · exact State.undoNew_apart p
  · split
    · exact (State.freeSlot_still (State.writeBackAll_still (Still.refl s))).apart.trans (.of_eq rfl rfl rfl)
    · exact .refl s

/-- The end of a command that waits changes its port alone. -/
theorem State.endPort_apart {s t : State} {p : Fin 4} {n : Nat} (h : Apart s t) (waits : s.ports[p.val].waiting ≠ none) :
    Apart s (t.endPort p n) := by
  have raised : Apart (t.modPort p fun x => { x with busy := false, waiting := none, result := BitVec.ofNat 8 n }) (t.endPort p n) :=
    (State.raiseP_still (Still.refl _)).apart
  refine ⟨fun q free => ?_, raised.power.trans h.power, raised.hold.trans h.hold⟩
  have other : q ≠ p := fun same => waits (same ▸ free)
  have here : (t.modPort p fun x => { x with busy := false, waiting := none, result := BitVec.ofNat 8 n }).ports[q.val] = s.ports[q.val] := by
    have apart : p.val ≠ q.val := fun e => other (Fin.ext e.symm)
    rw [← h.port q free]
    simp [State.modPort, Vector.getElem_set, apart]
  exact (raised.port q (by rw [here]; exact free)).trans here

theorem State.endWaiting_apart {s : State} (c : CtxNo) : Apart s (s.endWaiting c) := by
  refine Apart.foldl (fun z p => ?_) _ s
  split
  · next e =>
    have waits : z.ports[p.val].waiting ≠ none := by rw [e]; exact Option.some_ne_none _
    split
    · exact .refl z
    · split
      · split
        · exact State.endPort_apart (State.quarantinedSource_apart p) waits
        · exact State.endPort_apart (.refl z) waits
      · split
        · exact State.endPort_apart (.refl z) waits
        · exact .refl z
  · exact .refl z

/-- Where nothing waits on a port, a quarantine ends no command. -/
theorem State.endWaiting_still {s0 s : State} {c : CtxNo} (h : Still s0 s) : Still s0 (s.endWaiting c) := by
  have e : s.noneWaits → s.endWaiting c = s := by
    intro w
    unfold State.endWaiting
    have w0 := w 0
    have w1 := w 1
    have w2 := w 2
    have w3 := w 3
    simp only [List.foldl_cons, List.foldl_nil, w0, w1, w2, w3]
  have apart := State.endWaiting_apart (s := s) c
  exact ⟨fun w => by rw [e (h.waits w)]; exact h.waits w, fun w => by rw [e (h.waits w)]; exact h.ses w,
    fun w => by rw [e (h.waits w)]; exact h.title w,
    fun w => by rw [e (h.waits w)]; exact h.keeper w, h.apart.trans apart⟩

theorem State.quarantine_still {s0 s : State} {a0 : CtxNo} {a1 a2 a3 a4 : Nat} (h : Still s0 s) :
    Still s0 (State.quarantine a0 a1 a2 a3 a4 s) := by
  unfold State.quarantine
  repeat' first
    | (with_reducible assumption)
    | (exact fun _ => ⟨rfl, rfl⟩)
    | (with_reducible apply State.endWaiting_still)
    | (with_reducible apply State.freeSlot_still)
    | (with_reducible apply State.modCtx_still)
    | (with_reducible apply State.modSes_still)
    | (with_reducible apply State.offer_still)
    | (with_reducible apply State.quarRecord_still)
    | (with_reducible apply State.writeBackAll_still)
    | (with_reducible exact StillX.refl _)
    | (simp only [StillX.same])
    | (with_reducible refine Still.of_ite (fun _ => ?_) (fun _ => ?_))
    | (with_reducible intro _)

theorem State.exhausted_still {s0 s : State} {a0 : CtxNo} {a1 : Nat} (h : Still s0 s) :
    Still s0 (State.exhausted a0 a1 s) := by
  unfold State.exhausted
  repeat' first
    | (with_reducible assumption)
    | (with_reducible apply State.quarantine_still)

theorem State.askPage_still {s0 s : State} {a0 : PageReq} (h : Still s0 s) :
    Still s0 (State.askPage a0 s) := by
  unfold State.askPage
  repeat' first
    | (with_reducible assumption)
    | (simp only [StillX.same])
    | (simp only [Still.same])

theorem State.countSlot_still {s0 s : State} {a0 : CtxNo} {a1 a2 : Nat} (h : Still s0 s) :
    Still s0 (State.countSlot a0 a1 a2 s) := by
  unfold State.countSlot
  repeat' first
    | (with_reducible assumption)
    | (with_reducible apply State.countReg_still)
    | split

theorem State.modPage_still {s0 s : State} {a0 : CtxNo} {a1 : Nat} {a2 : PageEntry → PageEntry} (h : Still s0 s) :
    Still s0 (State.modPage a0 a1 a2 s) := by
  unfold State.modPage
  repeat' first
    | (with_reducible assumption)
    | (exact fun _ => ⟨rfl, rfl⟩)
    | (with_reducible apply State.modCtx_still)
    | (with_reducible intro _)

theorem State.sharePage_still {s0 s : State} {a0 a1 : CtxNo} {a2 : Nat} (h : Still s0 s) :
    Still s0 (State.sharePage a0 a1 a2 s) := by
  unfold State.sharePage
  repeat' first
    | (with_reducible assumption)
    | (with_reducible apply State.setPage_still)
    | (with_reducible apply State.modFrame_still)
    | (with_reducible apply State.modPage_still)
    | (with_reducible refine Still.of_ite (fun _ => ?_) (fun _ => ?_))

theorem State.copyPages_still {s0 s : State} {a0 a1 : CtxNo} (h : Still s0 s) :
    Still s0 (State.copyPages a0 a1 s) := by
  unfold State.copyPages
  repeat' first
    | (with_reducible assumption)
    | (with_reducible apply State.copyFrame_still)
    | (with_reducible refine Still.foldl (fun _ _ _ => ?_) _ ?_)
    | (with_reducible refine Still.of_ite (fun _ => ?_) (fun _ => ?_))
    | split

theorem State.snapFill_apart {s : State} (c n : CtxNo) : Apart s (s.snapFill c n) := by
  unfold State.snapFill
  have lines := State.flushLines_still (a0 := c) (Still.refl s)
  generalize s.flushLines c = s1 at *
  have shared : Still s ((s1.ctx c).pageList.foldl (fun (z : State) i => z.sharePage c n i) s1) :=
    Still.foldl (fun _ _ h => State.sharePage_still h) _ lines
  have copied := State.copyPages_still (a0 := c) (a1 := n) shared
  exact copied.apart.trans (.of_eq rfl rfl rfl)

theorem State.snapBoundary_apart {s : State} (c : CtxNo) : Apart s (s.snapBoundary c) := by
  refine Apart.foldl (fun z p => ?_) _ s
  dsimp only
  split
  · split
    · exact State.snapFill_apart ..
    · exact .refl z
  · exact .refl z

/-- Where nothing waits on a port, a boundary completes no SNAPSHOT or FORK. -/
theorem State.snapBoundary_still {s0 s : State} {c : CtxNo} (h : Still s0 s) : Still s0 (s.snapBoundary c) := by
  have e : s.noneWaits → s.snapBoundary c = s := by
    intro w
    unfold State.snapBoundary
    have w0 := w 0
    have w1 := w 1
    have w2 := w 2
    have w3 := w 3
    simp only [List.foldl_cons, List.foldl_nil, w0, w1, w2, w3]
  have apart := State.snapBoundary_apart (s := s) c
  exact ⟨fun w => by rw [e (h.waits w)]; exact h.waits w, fun w => by rw [e (h.waits w)]; exact h.ses w,
    fun w => by rw [e (h.waits w)]; exact h.title w,
    fun w => by rw [e (h.waits w)]; exact h.keeper w, h.apart.trans apart⟩

theorem State.evictFrame_still {s0 s : State} {a0 a1 : Nat} (h : Still s0 s) :
    Still s0 (State.evictFrame a0 a1 s) := by
  unfold State.evictFrame
  repeat' first
    | (with_reducible assumption)
    | (exact fun _ => ⟨rfl, rfl⟩)
    | (with_reducible apply State.freeFrame_still)
    | (with_reducible apply State.modCtx_still)
    | (with_reducible apply State.writeBackFrame_still)
    | (simp only [StillX.same])
    | (with_reducible refine Still.foldl (fun _ _ _ => ?_) _ ?_)
    | (with_reducible refine Still.of_ite (fun _ => ?_) (fun _ => ?_))
    | (with_reducible intro _)

theorem State.takeGallery_still {s0 s : State} {a0 : Nat} {a1 : Bool} {a2 : FrameRec} (h : Still s0 s) :
    StillOf s0 (State.takeGallery a0 a1 a2 s) := by
  unfold State.takeGallery
  repeat' first
    | (with_reducible assumption)
    | (with_reducible apply State.evictFrame_still)
    | (with_reducible apply State.takeFrame_still)
    | (simp only [StillX.same])
    | (with_reducible apply StillOf.none)
    | split

theorem State.stall_still {s0 s : State} {a0 : Nat} (h : Still s0 s) :
    Still s0 (State.stall a0 s) := by
  unfold State.stall
  repeat' first
    | (with_reducible assumption)
    | (with_reducible apply State.addCnt_still)

theorem State.countGalWait_still {s0 s : State} {a0 : Nat} (h : Still s0 s) :
    Still s0 (State.countGalWait a0 s) := by
  unfold State.countGalWait
  repeat' first
    | (with_reducible assumption)
    | (with_reducible apply State.stall_still)

theorem State.waitsHere_still {s0 s : State} {a0 : CtxNo} (h : Still s0 s) :
    Still s0 (State.waitsHere a0 s) := by
  unfold State.waitsHere
  repeat' first
    | (with_reducible assumption)
    | (with_reducible apply State.countGalWait_still)
    | (with_reducible refine Still.of_ite (fun _ => ?_) (fun _ => ?_))
    | split

theorem State.copyOnWrite_still {s0 s : State} {a0 : CtxNo} {a1 : Nat} (h : Still s0 s) :
    Still s0 (State.copyOnWrite a0 a1 s).1 := by
  unfold State.copyOnWrite
  repeat' first
    | (with_reducible assumption)
    | (with_reducible apply State.copyFrame_still)
    | (with_reducible apply State.countSlot_still)
    | (with_reducible apply State.exhausted_still)
    | (with_reducible apply State.markDirty_still)
    | (with_reducible apply State.modFrame_still)
    | (with_reducible apply State.modPage_still)
    | (with_reducible apply State.takeGallery_still)
    | (with_reducible apply State.takeHome_still)
    | (with_reducible apply State.touchGallery_still)
    | (with_reducible apply State.waitsHere_still)
    | (simp only [StillX.same])
    | (with_reducible refine Still.of_someP ‹_ = some (_, _)› ?_)
    | (with_reducible refine Still.of_iteP (fun _ => ?_) (fun _ => ?_))
    | split

theorem State.countFreeze_still {s0 s : State} {a0 : CtxNo} (h : Still s0 s) :
    Still s0 (State.countFreeze a0 s) := by
  unfold State.countFreeze
  repeat' first
    | (with_reducible assumption)
    | (with_reducible apply State.stall_still)
    | (with_reducible refine Still.of_ite (fun _ => ?_) (fun _ => ?_))
    | split

theorem State.endPageIn_still {s0 s : State} {a0 : CtxNo} {a1 : Nat} (h : Still s0 s) :
    Still s0 (State.endPageIn a0 a1 s) := by
  unfold State.endPageIn
  repeat' first
    | (with_reducible assumption)
    | (exact fun _ => ⟨rfl, rfl⟩)
    | (with_reducible apply State.copyFrame_still)
    | (with_reducible apply State.countSlot_still)
    | (with_reducible apply State.modCtx_still)
    | (with_reducible apply State.setFrame_still)
    | (with_reducible apply State.touchGallery_still)
    | (simp only [StillX.same])
    | (simp only [Still.same])
    | (with_reducible refine Still.foldl (fun _ _ _ => ?_) _ ?_)
    | (with_reducible refine Still.of_ite (fun _ => ?_) (fun _ => ?_))
    | (with_reducible intro _)
    | split

theorem State.firstTouch_still {s0 s : State} {a0 : CtxNo} {a1 : Nat} (h : Still s0 s) :
    Still s0 (State.firstTouch a0 a1 s).1 := by
  unfold State.firstTouch
  repeat' first
    | (with_reducible assumption)
    | (with_reducible apply State.clearFrame_still)
    | (with_reducible apply State.countSlot_still)
    | (with_reducible apply State.exhausted_still)
    | (with_reducible apply State.markDirty_still)
    | (with_reducible apply State.modPage_still)
    | (with_reducible apply State.setPage_still)
    | (with_reducible apply State.takeGallery_still)
    | (with_reducible apply State.takeHome_still)
    | (with_reducible apply State.touchGallery_still)
    | (with_reducible apply State.waitsHere_still)
    | (simp only [StillX.same])
    | (with_reducible refine Still.of_someP ‹_ = some (_, _)› ?_)
    | (with_reducible refine Still.of_iteP (fun _ => ?_) (fun _ => ?_))
    | split

theorem State.startPageIn_still {s0 s : State} {a0 : CtxNo} {a1 a2 a3 : Nat} (h : Still s0 s) :
    StillO s0 (State.startPageIn a0 a1 a2 a3 s) := by
  unfold State.startPageIn
  repeat' first
    | (with_reducible assumption)
    | (with_reducible apply State.askPage_still)
    | (with_reducible apply State.modPage_still)
    | (with_reducible apply State.takeGallery_still)
    | (simp only [StillX.same])
    | (with_reducible apply StillO.none)
    | (with_reducible apply StillO.some)
    | (with_reducible refine StillO.mapOf ?_ (fun _ _ _ => ?_))
    | split

theorem State.waits_still {s0 s : State} {a0 : CtxNo} {a2 : State} (h : Still s0 s) (h2 : Still s0 a2) :
    Still s0 (State.waits a0 s a2) := by
  unfold State.waits
  repeat' first
    | (with_reducible assumption)
    | (simp only [Still.same])
    | (with_reducible refine Still.of_ite (fun _ => ?_) (fun _ => ?_))

theorem State.dropFrame_still {s0 s : State} {a0 : Nat} (h : Still s0 s) :
    Still s0 (State.dropFrame a0 s) := by
  unfold State.dropFrame
  repeat' first
    | (with_reducible assumption)
    | (with_reducible apply State.countReg_still)
    | (with_reducible apply State.setFrame_still)
    | (simp only [StillX.same])
    | (simp only [Still.same])

theorem State.poisonPage_still {s0 s : State} {a0 a1 a2 : Nat} {a3 : Bool} (h : Still s0 s) :
    Still s0 (State.poisonPage a0 a1 a2 a3 s) := by
  unfold State.poisonPage
  repeat' first
    | (with_reducible assumption)
    | (with_reducible apply State.clearPage_still)
    | (with_reducible apply State.countReg_still)
    | (with_reducible apply State.dropShare_still)
    | (with_reducible apply State.freeCopies_still)
    | (with_reducible apply State.quarantine_still)
    | (simp only [StillX.same])
    | (with_reducible refine Still.foldl (fun _ _ _ => ?_) _ ?_)
    | (with_reducible refine Still.of_ite (fun _ => ?_) (fun _ => ?_))

theorem State.retireRecord_still {s0 s : State} {a0 a1 a2 : Nat} (h : Still s0 s) :
    Still s0 (State.retireRecord a0 a1 a2 s) := by
  unfold State.retireRecord
  repeat' first
    | (with_reducible assumption)
    | (with_reducible apply State.offer_still)

theorem State.retireFrame_still {s0 s : State} {a0 a1 : Nat} {a2 : Byte} (h : Still s0 s) :
    Still s0 (State.retireFrame a0 a1 a2 s) := by
  unfold State.retireFrame
  repeat' first
    | (with_reducible assumption)
    | (with_reducible apply State.dropFrame_still)
    | (with_reducible apply State.raiseP_still)
    | (with_reducible apply State.retireRecord_still)

/-- A title that fails keeps its list. -/
theorem State.failTitle_still {s0 s : State} {t : Nat} (h : Still s0 s) :
    Still s0 { s with titles := Sparse.insert s.titles t { s.titleOf (BitVec.ofNat 16 t) with state := 2 } } := by
  refine Still.titles (f := s.pageReqs) (fun n => ?_) h
  unfold State.titleOf
  rw [Sparse.get_insert]
  split
  · next same =>
    rw [← same, BitVec.ofNat_toNat, BitVec.setWidth_eq]
    exact ⟨rfl, rfl⟩
  · exact ⟨rfl, rfl⟩

theorem State.titleFault_still {s0 s : State} {a0 a1 a2 : Nat} (h : Still s0 s) :
    Still s0 (State.titleFault a0 a1 a2 s) := by
  unfold State.titleFault
  repeat' first
    | (with_reducible assumption)
    | (with_reducible apply State.offer_still)
    | (with_reducible apply State.failTitle_still)
    | (with_reducible apply State.quarantine_still)
    | (simp only [StillX.same])
    | (with_reducible refine Still.foldl (fun _ _ _ => ?_) _ ?_)

theorem State.loseFrame_still {s0 s : State} {a0 a1 a2 : Nat} {a3 : Byte} (h : Still s0 s) :
    Still s0 (State.loseFrame a0 a1 a2 a3 s) := by
  unfold State.loseFrame
  repeat' first
    | (with_reducible assumption)
    | (with_reducible apply State.freeCopies_still)
    | (with_reducible apply State.poisonPage_still)
    | (with_reducible apply State.putFrame_still)
    | (with_reducible apply State.retireFrame_still)
    | (with_reducible apply State.titleFault_still)
    | (simp only [StillX.same])
    | (with_reducible refine Still.of_ite (fun _ => ?_) (fun _ => ?_))
    | split

theorem State.setRoot_still {s0 s : State} {a0 : CtxNo} (h : Still s0 s) :
    Still s0 (State.setRoot a0 s) := by
  unfold State.setRoot
  repeat' first
    | (with_reducible assumption)
    | (exact fun _ => ⟨rfl, rfl⟩)
    | (with_reducible apply State.modCtx_still)
    | (simp only [StillX.same])
    | (with_reducible intro _)

/-- A frame that takes another's place in the title lists leaves their lengths. -/
theorem State.renameTitles_still {s0 s : State} {f : Title → List (BitVec 25)} {r : List PageReq} (h : Still s0 s) :
    Still s0 { s with titles := s.titles.map (fun e => (e.1, { e.2 with frames := f e.2 })), pageReqs := r } := by
  refine Still.titles (fun n => ?_) h
  unfold State.titleOf
  dsimp only
  generalize s.titles = l
  induction l with
  | nil => exact ⟨rfl, rfl⟩
  | cons e l ih =>
    rw [List.map_cons, Sparse.get, Sparse.get]
    split
    · exact ⟨rfl, rfl⟩
    · exact ih

theorem State.renameHome_still {s0 s : State} {a0 a1 : Nat} (h : Still s0 s) :
    Still s0 (State.renameHome a0 a1 s) := by
  unfold State.renameHome
  repeat' first
    | (with_reducible assumption)
    | (exact fun _ => ⟨rfl, rfl⟩)
    | (with_reducible apply State.modCtx_still)
    | (with_reducible apply State.modFrame_still)
    | (with_reducible apply State.setRoot_still)
    | (simp only [StillX.same])
    | (refine State.renameTitles_still (f := fun x => x.frames.map (fun f => if f.toNat = a0 then BitVec.ofNat 25 a1 else f)) ?_)
    | (with_reducible refine Still.foldl (fun _ _ _ => ?_) _ ?_)
    | (with_reducible intro _)
    | split

theorem State.relocate_still {s0 s : State} {a0 a1 : Nat} {a2 : Byte} (h : Still s0 s) :
    Still s0 (State.relocate a0 a1 a2 s) := by
  unfold State.relocate
  repeat' first
    | (with_reducible assumption)
    | (with_reducible apply State.copyFrame_still)
    | (with_reducible apply State.loseFrame_still)
    | (with_reducible apply State.renameHome_still)
    | (with_reducible apply State.retireFrame_still)
    | (with_reducible apply State.setFrame_still)
    | (with_reducible apply State.takeHome_still)
    | (simp only [StillX.same])
    | (with_reducible refine Still.of_someP ‹_ = some (_, _)› ?_)
    | split

theorem State.failVault_still {s0 s : State} {a0 : Nat} {a1 : Byte} (h : Still s0 s) :
    Still s0 (State.failVault a0 a1 s) := by
  unfold State.failVault
  repeat' first
    | (with_reducible assumption)
    | (with_reducible apply State.loseFrame_still)
    | (with_reducible apply State.relocate_still)
    | (with_reducible refine Still.of_ite (fun _ => ?_) (fun _ => ?_))

theorem State.renameCopy_still {s0 s : State} {a0 a1 : Nat} {a2 : Option Nat} (h : Still s0 s) :
    Still s0 (State.renameCopy a0 a1 a2 s) := by
  unfold State.renameCopy
  repeat' first
    | (with_reducible assumption)
    | (exact fun _ => ⟨rfl, rfl⟩)
    | (with_reducible apply State.modCtx_still)
    | (simp only [StillX.same])
    | (with_reducible refine Still.foldl (fun _ _ _ => ?_) _ ?_)
    | (with_reducible refine Still.of_ite (fun _ => ?_) (fun _ => ?_))
    | (with_reducible intro _)

theorem State.moveCopy_still {s0 s : State} {a0 a1 a2 a3 a4 : Nat} {a5 : Byte} (h : Still s0 s) :
    Still s0 (State.moveCopy a0 a1 a2 a3 a4 a5 s) := by
  unfold State.moveCopy
  repeat' first
    | (with_reducible assumption)
    | (with_reducible apply State.copyFrame_still)
    | (with_reducible apply State.modFrame_still)
    | (with_reducible apply State.renameCopy_still)
    | (with_reducible apply State.retireFrame_still)
    | (with_reducible apply State.takeGallery_still)
    | (with_reducible apply State.touchGallery_still)
    | (simp only [StillX.same])
    | (with_reducible refine Still.of_someP ‹_ = some (_, _)› ?_)
    | (with_reducible refine Still.of_ite (fun _ => ?_) (fun _ => ?_))
    | split

theorem State.failRead_still {s0 s : State} {a0 : Nat} {a1 : Byte} (h : Still s0 s) :
    Still s0 (State.failRead a0 a1 s) := by
  unfold State.failRead
  repeat' first
    | (with_reducible assumption)
    | (with_reducible apply State.failVault_still)
    | (with_reducible apply State.moveCopy_still)
    | (with_reducible apply State.poisonPage_still)
    | (with_reducible apply State.renameCopy_still)
    | (with_reducible apply State.retireFrame_still)
    | (with_reducible refine Still.of_ite (fun _ => ?_) (fun _ => ?_))
    | split

theorem State.unitFail_still {s0 s : State} {a0 : CtxNo} {a1 : Nat} (h : Still s0 s) :
    Still s0 (State.unitFail a0 a1 s) := by
  unfold State.unitFail
  repeat' first
    | (with_reducible assumption)
    | (with_reducible apply State.failRead_still)

theorem State.ensureCopyAs_still {s0 s : State} {a0 : CtxNo} {a1 a2 a3 : Nat} (h : Still s0 s) :
    Still s0 (State.ensureCopyAs a0 a1 a2 a3 s).1 := by
  unfold State.ensureCopyAs
  repeat' first
    | (with_reducible assumption)
    | (with_reducible apply State.endPageIn_still)
    | (with_reducible apply State.startPageIn_still)
    | (with_reducible apply State.touchGallery_still)
    | (with_reducible apply State.unitFail_still)
    | (simp only [StillX.same])
    | (with_reducible refine Still.of_some ‹_ = some _› ?_)
    | (with_reducible refine Still.of_iteP (fun _ => ?_) (fun _ => ?_))
    | split

theorem State.ensureCopy_still {s0 s : State} {a0 : CtxNo} {a1 : Nat} (h : Still s0 s) :
    Still s0 (State.ensureCopy a0 a1 s).1 := by
  unfold State.ensureCopy
  repeat' first
    | (with_reducible assumption)
    | (with_reducible apply State.ensureCopyAs_still)

theorem Session.stage_still {x0 x : Session} {a0 : Nat} {a1 : Option (Nat × Word)} (h : StillX x0 x) :
    StillX x0 (Session.stage a0 a1 x) := by
  unfold Session.stage
  repeat' first
    | (with_reducible assumption)
    | (simp only [StillX.same])

theorem State.backOut_still {s0 s : State} {a1 : State} (h : Still s0 s) (h1 : Still s0 a1) :
    Still s0 (State.backOut s a1) := by
  unfold State.backOut
  repeat' first
    | (with_reducible assumption)
    | (simp only [Still.same])
    | (with_reducible refine Still.of_ite (fun _ => ?_) (fun _ => ?_))

theorem State.dropLine_still {s0 s : State} {a0 : CtxNo} {a1 : Nat} (h : Still s0 s) :
    Still s0 (State.dropLine a0 a1 s) := by
  unfold State.dropLine
  repeat' first
    | (with_reducible assumption)
    | (with_reducible apply State.modSes_still)
    | (with_reducible apply State.writeLine_still)
    | (with_reducible exact StillX.refl _)
    | (simp only [StillX.same])
    | (with_reducible intro _)
    | split

theorem State.stuck_still {s0 s : State} {a0 : CtxNo} {a2 : State} (h : Still s0 s) (h2 : Still s0 a2) :
    Still s0 (State.stuck a0 s a2) := by
  unfold State.stuck
  repeat' first
    | (with_reducible assumption)
    | (with_reducible apply State.waitsHere_still)
    | (with_reducible refine Still.of_ite (fun _ => ?_) (fun _ => ?_))

theorem State.pageReady_still {s0 s : State} {a0 : CtxNo} {a1 a2 a3 : Nat} (h : Still s0 s) :
    Still s0 (State.pageReady a0 a1 a2 a3 s).1 := by
  unfold State.pageReady
  repeat' first
    | (with_reducible assumption)
    | (with_reducible apply State.ensureCopy_still)
    | (with_reducible apply State.stuck_still)
    | (with_reducible apply State.unitFail_still)
    | (simp only [StillX.same])
    | (with_reducible refine Still.of_pair ‹_ = (_, _)› ?_)
    | (with_reducible refine Still.of_iteP (fun _ => ?_) (fun _ => ?_))
    | split

theorem State.pageRead_still {s0 s : State} {a0 : CtxNo} {a1 a2 : Nat} (h : Still s0 s) :
    Still s0 (State.pageRead a0 a1 a2 s).1 := by
  unfold State.pageRead
  repeat' first
    | (with_reducible assumption)
    | (with_reducible apply State.pageReady_still)
    | (simp only [StillX.same])
    | (with_reducible refine Still.of_pair ‹_ = (_, _)› ?_)
    | split

theorem State.pageTouch_still {s0 s : State} {a0 : CtxNo} {a1 : Nat} (h : Still s0 s) :
    Still s0 (State.pageTouch a0 a1 s).1 := by
  unfold State.pageTouch
  repeat' first
    | (with_reducible assumption)
    | (with_reducible apply State.copyOnWrite_still)
    | (with_reducible apply State.ensureCopy_still)
    | (with_reducible apply State.firstTouch_still)
    | (with_reducible apply State.stuck_still)
    | (with_reducible apply State.unitFail_still)
    | (simp only [StillX.same])
    | (with_reducible refine Still.of_pair ‹_ = (_, _)› ?_)
    | (with_reducible refine Still.of_iteP (fun _ => ?_) (fun _ => ?_))
    | split

theorem State.pageWrite_still {s0 s : State} {a0 : CtxNo} {a1 a2 : Nat} {a3 : Word} (h : Still s0 s) :
    Still s0 (State.pageWrite a0 a1 a2 a3 s).1 := by
  unfold State.pageWrite
  repeat' first
    | (with_reducible assumption)
    | (with_reducible apply State.markDirty_still)
    | (with_reducible apply State.pageTouch_still)
    | (with_reducible apply State.setWord_still)
    | (simp only [StillX.same])
    | (with_reducible refine Still.of_pair ‹_ = (_, _)› ?_)
    | split

theorem State.trimLines_still {s0 s : State} {a0 : CtxNo} (h : Still s0 s) :
    Still s0 (State.trimLines a0 s) := by
  unfold State.trimLines
  repeat' first
    | (with_reducible assumption)
    | (with_reducible apply State.ensureCopy_still)
    | (with_reducible apply State.modSes_still)
    | (with_reducible apply State.writeLine_still)
    | (with_reducible exact StillX.refl _)
    | (simp only [StillX.same])
    | (with_reducible refine Still.foldl (fun _ _ _ => ?_) _ ?_)
    | (with_reducible refine Still.of_ite (fun _ => ?_) (fun _ => ?_))
    | (with_reducible intro _)

theorem State.useLine_still {s0 s : State} {a0 : CtxNo} {a1 : Nat} {a2 : Option (Nat × Word)} (h : Still s0 s) :
    Still s0 (State.useLine a0 a1 a2 s) := by
  unfold State.useLine
  repeat' first
    | (with_reducible assumption)
    | (with_reducible apply Session.stage_still)
    | (with_reducible apply State.countFreeze_still)
    | (with_reducible apply State.modSes_still)
    | (with_reducible apply State.trimLines_still)
    | (with_reducible exact StillX.refl _)
    | (simp only [StillX.same])
    | (with_reducible refine Still.of_ite (fun _ => ?_) (fun _ => ?_))
    | (with_reducible intro _)

theorem Session.count32_still {x0 x : Session} {a0 a1 : Nat} (h : StillX x0 x) :
    StillX x0 (Session.count32 a0 a1 x) := by
  unfold Session.count32
  repeat' first
    | (with_reducible assumption)
    | (with_reducible apply Session.setIo_still)

theorem Session.raiseBoundary_still {x0 x : Session} (h : StillX x0 x) :
    StillX x0 (Session.raiseBoundary x) := by
  unfold Session.raiseBoundary
  repeat' first
    | (with_reducible assumption)
    | (simp only [StillX.same])

theorem Session.startTimers_still {x0 x : Session} (h : StillX x0 x) :
    StillX x0 (Session.startTimers x) := by
  unfold Session.startTimers
  repeat' first
    | (with_reducible assumption)
    | (simp only [StillX.same])

theorem Session.newFrame_still {x0 x : Session} (h : StillX x0 x) :
    StillX x0 (Session.newFrame x) := by
  unfold Session.newFrame
  repeat' first
    | (with_reducible assumption)
    | (with_reducible apply Session.setLive_still)
    | (simp only [StillX.same])
    | (with_reducible refine StillX.foldl (fun _ _ _ => ?_) _ ?_)
    | split

theorem Session.turnFrame_still {x0 x : Session} (h : StillX x0 x) :
    StillX x0 (Session.turnFrame x) := by
  unfold Session.turnFrame
  repeat' first
    | (with_reducible assumption)
    | (with_reducible apply Session.newFrame_still)
    | (with_reducible refine StillX.of_ite (fun _ => ?_) (fun _ => ?_))

theorem State.fixNext_still {s0 s : State} {a0 a1 a2 : Nat} (h : Still s0 s) :
    Still s0 (State.fixNext a0 a1 a2 s) := by
  unfold State.fixNext
  repeat' first
    | (with_reducible assumption)
    | (with_reducible apply State.setReg_still)
    | (with_reducible apply State.setRegField_still)
    | (with_reducible apply State.setSlot_still)
    | (simp only [StillX.same])
    | (with_reducible refine Still.of_ite (fun _ => ?_) (fun _ => ?_))
    | split

theorem State.fixTo_still {s0 s : State} {a0 a1 a2 a3 a4 : Nat} (h : Still s0 s) :
    Still s0 (State.fixTo a0 a1 a2 a3 a4 s) := by
  induction a4 generalizing s with
  | zero =>
    unfold State.fixTo
    repeat' first
      | (with_reducible assumption)
      | (with_reducible apply ih)
      | (with_reducible apply State.fixNext_still)
      | (with_reducible refine Still.of_ite (fun _ => ?_) (fun _ => ?_))
      | split
  | succ n ih =>
    unfold State.fixTo
    repeat' first
      | (with_reducible assumption)
      | (with_reducible apply ih)
      | (with_reducible apply State.fixNext_still)
      | (with_reducible refine Still.of_ite (fun _ => ?_) (fun _ => ?_))
      | split

theorem State.releaseOf_still {s0 s : State} {a0 : CtxNo} {a1 a2 : Nat} (h : Still s0 s) :
    Still s0 (State.releaseOf a0 a1 a2 s).1 := by
  unfold State.releaseOf
  repeat' first
    | (with_reducible assumption)
    | (with_reducible apply State.fixTo_still)
    | (simp only [StillX.same])
    | split

theorem Session.putNow_still {x0 x : Session} {a0 : UndoKind} {a1 : Nat} {a2 : BitVec 24} (h : StillX x0 x) :
    StillX x0 (Session.putNow a0 a1 a2 x) := by
  unfold Session.putNow
  repeat' first
    | (with_reducible assumption)
    | (with_reducible apply Session.setIo_still)
    | (with_reducible apply Session.setLive_still)
    | (simp only [StillX.same])
    | split

theorem Session.land_still {x0 x : Session} {a0 : Bool} {a1 : Nat × Nat × Nat} {a2 : UndoKind} {a3 : Nat} {a4 : BitVec 24} (h : StillX x0 x) :
    StillX x0 (Session.land a0 a1 a2 a3 a4 x) := by
  unfold Session.land
  repeat' first
    | (with_reducible assumption)
    | (with_reducible apply Session.putNow_still)
    | (simp only [StillX.same])
    | split

theorem Session.pruneJournal_still {x0 x : Session} {a0 a1 : Nat} (h : StillX x0 x) :
    StillX x0 (Session.pruneJournal a0 a1 x) := by
  unfold Session.pruneJournal
  repeat' first
    | (with_reducible assumption)
    | (simp only [StillX.same])

theorem Session.writePalette_still {x0 x : Session} {a0 : Bool} {a1 : Nat × Nat × Nat} {a2 : Nat} {a3 a4 : Word} (h : StillX x0 x) :
    StillX x0 (Session.writePalette a0 a1 a2 a3 a4 x) := by
  unfold Session.writePalette
  repeat' first
    | (with_reducible assumption)
    | (with_reducible apply Session.land_still)

theorem State.sRead_still {s0 s : State} {a0 : CtxNo} {a1 a2 : Nat} (h : Still s0 s) :
    Still s0 (State.sRead a0 a1 a2 s).1 := by
  unfold State.sRead
  repeat' first
    | (with_reducible assumption)
    | (with_reducible apply State.pageRead_still)

theorem State.sWrite_still {s0 s : State} {a0 : CtxNo} {a1 a2 : Nat} {a3 : Word} {a4 : Nat} (h : Still s0 s) :
    Still s0 (State.sWrite a0 a1 a2 a3 a4 s).1 := by
  unfold State.sWrite
  repeat' first
    | (with_reducible assumption)
    | (with_reducible apply State.modSes_still)
    | (with_reducible apply State.pageWrite_still)
    | (with_reducible exact StillX.refl _)
    | (simp only [StillX.same])
    | (with_reducible refine Still.of_pair ‹_ = (_, _)› ?_)
    | (with_reducible refine Still.of_ite (fun _ => ?_) (fun _ => ?_))
    | (with_reducible refine Still.of_iteP (fun _ => ?_) (fun _ => ?_))
    | (with_reducible intro _)
    | split

theorem State.vRead_still {s0 s : State} {a0 : CtxNo} {a1 a2 : Nat} (h : Still s0 s) :
    Still s0 (State.vRead a0 a1 a2 s).1 := by
  unfold State.vRead
  repeat' first
    | (with_reducible assumption)
    | (with_reducible apply State.pageRead_still)

theorem State.vWrite_still {s0 s : State} {a0 : CtxNo} {a1 a2 : Nat} {a3 : Word} {a4 : Nat} (h : Still s0 s) :
    Still s0 (State.vWrite a0 a1 a2 a3 a4 s).1 := by
  unfold State.vWrite
  repeat' first
    | (with_reducible assumption)
    | (with_reducible apply Session.pruneJournal_still)
    | (with_reducible apply State.modSes_still)
    | (with_reducible apply State.pageWrite_still)
    | (with_reducible exact StillX.refl _)
    | (simp only [StillX.same])
    | (with_reducible refine Still.of_pair ‹_ = (_, _)› ?_)
    | (with_reducible refine Still.of_ite (fun _ => ?_) (fun _ => ?_))
    | (with_reducible refine Still.of_iteP (fun _ => ?_) (fun _ => ?_))
    | (with_reducible intro _)
    | split

theorem Session.lpgGo_still {x0 x : Session} {a0 : Word} {a1 : Nat × Nat} (h : StillX x0 x) :
    StillX x0 (Session.lpgGo a0 a1 x) := by
  unfold Session.lpgGo
  repeat' first
    | (with_reducible assumption)
    | (simp only [StillX.same])

theorem Session.lpgStop_still {x0 x : Session} (h : StillX x0 x) :
    StillX x0 (Session.lpgStop x) := by
  unfold Session.lpgStop
  repeat' first
    | (with_reducible assumption)
    | (simp only [StillX.same])

theorem Session.lpgEndEntry_still {x0 x : Session} {a0 : Word} (h : StillX x0 x) :
    StillX x0 (Session.lpgEndEntry a0 x) := by
  unfold Session.lpgEndEntry
  repeat' first
    | (with_reducible assumption)
    | (with_reducible apply Session.lpgGo_still)
    | (with_reducible apply Session.lpgStop_still)
    | (with_reducible apply Session.orIo_still)
    | (with_reducible refine StillX.of_ite (fun _ => ?_) (fun _ => ?_))

theorem Session.lpgFrameStart_still {x0 x : Session} (h : StillX x0 x) :
    StillX x0 (Session.lpgFrameStart x) := by
  unfold Session.lpgFrameStart
  repeat' first
    | (with_reducible assumption)
    | (with_reducible apply Session.orIo_still)
    | (simp only [StillX.same])
    | (with_reducible refine StillX.of_ite (fun _ => ?_) (fun _ => ?_))

theorem Session.lpgLoopEntry_still {x0 x : Session} {a0 a1 : Word} (h : StillX x0 x) :
    StillX x0 (Session.lpgLoopEntry a0 a1 x) := by
  unfold Session.lpgLoopEntry
  repeat' first
    | (with_reducible assumption)
    | (with_reducible apply Session.lpgGo_still)
    | (simp only [StillX.same])

theorem Session.lpgSetpEntry_still {x0 x : Session} {a0 : Word} (h : StillX x0 x) :
    StillX x0 (Session.lpgSetpEntry a0 x) := by
  unfold Session.lpgSetpEntry
  repeat' first
    | (with_reducible assumption)
    | (with_reducible apply Session.land_still)
    | (with_reducible apply Session.lpgGo_still)

theorem Session.lpgWaitEntry_still {x0 x : Session} {a0 a1 : Word} (h : StillX x0 x) :
    StillX x0 (Session.lpgWaitEntry a0 a1 x) := by
  unfold Session.lpgWaitEntry
  repeat' first
    | (with_reducible assumption)
    | (with_reducible apply Session.lpgGo_still)

theorem Session.lpgWpalEntry_still {x0 x : Session} {a0 : Bool} {a1 : Nat} {a2 a3 : Word} (h : StillX x0 x) :
    StillX x0 (Session.lpgWpalEntry a0 a1 a2 a3 x) := by
  unfold Session.lpgWpalEntry
  repeat' first
    | (with_reducible assumption)
    | (with_reducible apply Session.land_still)
    | (with_reducible apply Session.lpgGo_still)
    | (with_reducible apply Session.writePalette_still)
    | (with_reducible refine StillX.of_ite (fun _ => ?_) (fun _ => ?_))

theorem Session.videoStore_still {x0 x : Session} {a0 : Bool} {a1 : Nat × Nat × Nat} {a2 : Nat} {a3 : Word} (h : StillX x0 x) :
    StillX x0 (Session.videoStore a0 a1 a2 a3 x) := by
  unfold Session.videoStore
  repeat' first
    | (with_reducible assumption)
    | (with_reducible apply Session.land_still)
    | (with_reducible apply Session.setIo_still)
    | (with_reducible apply Session.writePalette_still)
    | (simp only [StillX.same])
    | (with_reducible refine StillX.of_ite (fun _ => ?_) (fun _ => ?_))

theorem Session.lpgWregEntry_still {x0 x : Session} {a0 : Bool} {a1 : Nat} {a2 : Word} (h : StillX x0 x) :
    StillX x0 (Session.lpgWregEntry a0 a1 a2 x) := by
  unfold Session.lpgWregEntry
  repeat' first
    | (with_reducible assumption)
    | (with_reducible apply Session.land_still)
    | (with_reducible apply Session.lpgGo_still)
    | (with_reducible apply Session.orIo_still)
    | (with_reducible apply Session.videoStore_still)
    | (with_reducible refine StillX.of_ite (fun _ => ?_) (fun _ => ?_))

theorem State.lpgWord_still {s0 s : State} {a0 : CtxNo} {a1 : Nat} (h : Still s0 s) :
    Still s0 (State.lpgWord a0 a1 s).1 := by
  unfold State.lpgWord
  repeat' first
    | (with_reducible assumption)
    | (with_reducible apply State.vRead_still)
    | (simp only [StillX.same])
    | split

theorem State.lpgPair_still {s0 s : State} {a0 : CtxNo} {a1 : Nat} (h : Still s0 s) :
    Still s0 (State.lpgPair a0 a1 s).1 := by
  unfold State.lpgPair
  repeat' first
    | (with_reducible assumption)
    | (with_reducible apply State.lpgWord_still)
    | (simp only [StillX.same])
    | (with_reducible refine Still.of_pair ‹_ = (_, _)› ?_)
    | split

theorem State.lpgAct_still {s0 s : State} {a0 : CtxNo} {a1 a2 : Word} (h : Still s0 s) :
    Still s0 (State.lpgAct a0 a1 a2 s).1 := by
  unfold State.lpgAct
  repeat' first
    | (with_reducible assumption)
    | (with_reducible apply Session.lpgEndEntry_still)
    | (with_reducible apply Session.lpgLoopEntry_still)
    | (with_reducible apply Session.lpgSetpEntry_still)
    | (with_reducible apply Session.lpgWaitEntry_still)
    | (with_reducible apply Session.lpgWpalEntry_still)
    | (with_reducible apply Session.lpgWregEntry_still)
    | (with_reducible apply State.lpgPair_still)
    | (with_reducible apply State.lpgWord_still)
    | (with_reducible apply State.modSes_still)
    | (with_reducible exact StillX.refl _)
    | (simp only [StillX.same])
    | (with_reducible refine Still.of_pair ‹_ = (_, _)› ?_)
    | (with_reducible refine Still.of_iteP (fun _ => ?_) (fun _ => ?_))
    | (with_reducible intro _)
    | split

theorem State.lpgEntry_still {s0 s : State} {a0 : CtxNo} {a1 : Nat → Bool} (h : Still s0 s) :
    Still s0 (State.lpgEntry a0 a1 s).1 := by
  unfold State.lpgEntry
  repeat' first
    | (with_reducible assumption)
    | (with_reducible apply State.lpgAct_still)
    | (with_reducible apply State.lpgPair_still)
    | (with_reducible apply State.waits_still)
    | (simp only [StillX.same])
    | (with_reducible refine Still.of_pair ‹_ = (_, _)› ?_)
    | (with_reducible refine Still.of_iteP (fun _ => ?_) (fun _ => ?_))
    | split

theorem State.lpgRun_still {s0 s : State} {a0 : CtxNo} {a1 : Reach} {a2 : Nat} (h : Still s0 s) :
    Still s0 (State.lpgRun a0 a1 a2 s).1 := by
  induction a2 generalizing s with
  | zero =>
    unfold State.lpgRun
    repeat' first
      | (with_reducible assumption)
      | (with_reducible apply ih)
      | (with_reducible apply Session.lpgFrameStart_still)
      | (with_reducible apply State.lpgEntry_still)
      | (with_reducible apply State.modSes_still)
      | (with_reducible exact StillX.refl _)
      | (with_reducible refine Still.of_pair ‹_ = (_, _)› ?_)
      | (with_reducible refine Still.of_iteP (fun _ => ?_) (fun _ => ?_))
      | (with_reducible intro _)
      | split
  | succ n ih =>
    unfold State.lpgRun
    repeat' first
      | (with_reducible assumption)
      | (with_reducible apply ih)
      | (with_reducible apply Session.lpgFrameStart_still)
      | (with_reducible apply State.lpgEntry_still)
      | (with_reducible apply State.modSes_still)
      | (with_reducible exact StillX.refl _)
      | (with_reducible refine Still.of_pair ‹_ = (_, _)› ?_)
      | (with_reducible refine Still.of_iteP (fun _ => ?_) (fun _ => ?_))
      | (with_reducible intro _)
      | split

theorem State.lpgCatchUp_still {s0 s : State} {a0 : CtxNo} {a1 : Reach} (h : Still s0 s) :
    Still s0 (State.lpgCatchUp a0 a1 s).1 := by
  unfold State.lpgCatchUp
  repeat' first
    | (with_reducible assumption)
    | (with_reducible apply State.lpgRun_still)

theorem Session.landScale_still {x0 x : Session} {a0 : Nat} (h : StillX x0 x) :
    StillX x0 (Session.landScale a0 x) := by
  unfold Session.landScale
  repeat' first
    | (with_reducible assumption)
    | (with_reducible apply Session.land_still)
    | (with_reducible refine StillX.of_ite (fun _ => ?_) (fun _ => ?_))

theorem Session.checkScale_still {x0 x : Session} (h : StillX x0 x) :
    StillX x0 (Session.checkScale x) := by
  unfold Session.checkScale
  repeat' first
    | (with_reducible assumption)
    | (with_reducible apply Session.landScale_still)
    | (with_reducible apply Session.orIo_still)
    | (simp only [StillX.same])
    | (with_reducible refine StillX.of_ite (fun _ => ?_) (fun _ => ?_))

theorem Session.commitComp_still {x0 x : Session} (h : StillX x0 x) :
    StillX x0 (Session.commitComp x) := by
  unfold Session.commitComp
  repeat' first
    | (with_reducible assumption)
    | (with_reducible apply Session.land_still)
    | (with_reducible refine StillX.foldl (fun _ _ _ => ?_) _ ?_)
    | (with_reducible refine StillX.of_ite (fun _ => ?_) (fun _ => ?_))

theorem Session.commitTiming_still {x0 x : Session} {a0 : Context} (h : StillX x0 x) :
    StillX x0 (Session.commitTiming a0 x) := by
  unfold Session.commitTiming
  repeat' first
    | (with_reducible assumption)
    | (with_reducible apply Session.orIo_still)
    | (with_reducible apply Session.setIo_still)
    | (simp only [StillX.same])
    | (with_reducible refine StillX.foldl (fun _ _ _ => ?_) _ ?_)
    | (with_reducible refine StillX.of_ite (fun _ => ?_) (fun _ => ?_))

theorem Session.lineCompare_still {x0 x : Session} (h : StillX x0 x) :
    StillX x0 (Session.lineCompare x) := by
  unfold Session.lineCompare
  repeat' first
    | (with_reducible assumption)
    | (simp only [StillX.same])

theorem Session.vblank_still {x0 x : Session} {a0 : Context} (h : StillX x0 x) :
    StillX x0 (Session.vblank a0 x) := by
  unfold Session.vblank
  repeat' first
    | (with_reducible assumption)
    | (with_reducible apply Session.checkScale_still)
    | (with_reducible apply Session.commitComp_still)
    | (with_reducible apply Session.commitTiming_still)
    | (with_reducible apply Session.setIo_still)
    | (simp only [StillX.same])
    | (with_reducible refine StillX.of_ite (fun _ => ?_) (fun _ => ?_))

theorem State.beamDue_still {s0 s : State} {a0 : CtxNo} (h : Still s0 s) :
    Still s0 (State.beamDue a0 s) := by
  unfold State.beamDue
  repeat' first
    | (with_reducible assumption)
    | (with_reducible apply Session.lineCompare_still)
    | (with_reducible apply Session.turnFrame_still)
    | (with_reducible apply Session.vblank_still)
    | (with_reducible apply State.lpgCatchUp_still)
    | (with_reducible apply State.modSes_still)
    | (with_reducible exact StillX.refl _)
    | (with_reducible refine Still.of_ite (fun _ => ?_) (fun _ => ?_))
    | (with_reducible intro _)

theorem State.enterAudio_still {s0 s : State} {a0 : Nat} {a1 : AudioDesc} (h : Still s0 s) :
    Still s0 (State.enterAudio a0 a1 s) := by
  unfold State.enterAudio
  repeat' first
    | (with_reducible assumption)
    | (with_reducible apply Session.countIo_still)
    | (with_reducible apply State.modSes_still)
    | (with_reducible apply State.modSlot_still)
    | (with_reducible exact StillX.refl _)
    | (simp only [StillX.same])
    | (with_reducible refine Still.of_ite (fun _ => ?_) (fun _ => ?_))
    | (with_reducible intro _)

theorem State.tapAudio_still {s0 s : State} {a0 : CtxNo} {a1 : Nat} {a2 : AudioDesc} {a3 : Nat} (h : Still s0 s) :
    Still s0 (State.tapAudio a0 a1 a2 a3 s) := by
  unfold State.tapAudio
  repeat' first
    | (with_reducible assumption)
    | (with_reducible apply State.modSes_still)
    | (with_reducible apply State.modSlot_still)
    | (with_reducible exact StillX.refl _)
    | (simp only [StillX.same])
    | (with_reducible intro _)

theorem Session.applyKey_still {x0 x : Session} {a0 : Nat} {a1 : Bool} (h : StillX x0 x) :
    StillX x0 (Session.applyKey a0 a1 x) := by
  unfold Session.applyKey
  repeat' first
    | (with_reducible assumption)
    | (simp only [StillX.same])

theorem Session.applyKeys_still {x0 x : Session} (h : StillX x0 x) :
    StillX x0 (Session.applyKeys x) := by
  unfold Session.applyKeys
  repeat' first
    | (with_reducible assumption)
    | (with_reducible apply Session.applyKey_still)
    | (simp only [StillX.same])
    | (with_reducible refine StillX.foldl (fun _ _ _ => ?_) _ ?_)

theorem Session.auxStep_still {x0 x : Session} {a0 : Nat} (h : StillX x0 x) :
    StillX x0 (Session.auxStep a0 x) := by
  unfold Session.auxStep
  repeat' first
    | (with_reducible assumption)
    | (with_reducible apply Session.setIo_still)
    | (with_reducible refine StillX.of_ite (fun _ => ?_) (fun _ => ?_))

theorem Session.countSample_still {x0 x : Session} {a0 : Bool} {a1 a2 : Int} (h : StillX x0 x) :
    StillX x0 (Session.countSample a0 a1 a2 x) := by
  unfold Session.countSample
  repeat' first
    | (with_reducible assumption)
    | (simp only [StillX.same])

theorem Session.endRamps_still {x0 x : Session} (h : StillX x0 x) :
    StillX x0 (Session.endRamps x) := by
  unfold Session.endRamps
  repeat' first
    | (with_reducible assumption)
    | (simp only [StillX.same])

theorem Session.mixEvent_still {x0 x : Session} {a0 : Nat} (h : StillX x0 x) :
    StillX x0 (Session.mixEvent a0 x) := by
  unfold Session.mixEvent
  repeat' first
    | (with_reducible assumption)
    | (with_reducible apply Session.orIo_still)
    | (simp only [StillX.same])
    | (with_reducible refine StillX.of_ite (fun _ => ?_) (fun _ => ?_))

theorem Session.enterSilent_still {x0 x : Session} (h : StillX x0 x) :
    StillX x0 (Session.enterSilent x) := by
  unfold Session.enterSilent
  repeat' first
    | (with_reducible assumption)
    | (with_reducible apply Session.mixEvent_still)
    | (simp only [StillX.same])

theorem Session.envSteps_still {x0 x : Session} (h : StillX x0 x) :
    StillX x0 (Session.envSteps x) := by
  unfold Session.envSteps
  repeat' first
    | (with_reducible assumption)
    | (simp only [StillX.same])

theorem Session.voiceEvent_still {x0 x : Session} {a0 : Nat} (h : StillX x0 x) :
    StillX x0 (Session.voiceEvent a0 x) := by
  unfold Session.voiceEvent
  repeat' first
    | (with_reducible assumption)
    | (with_reducible apply Session.orIo_still)
    | (simp only [StillX.same])
    | (with_reducible refine StillX.of_ite (fun _ => ?_) (fun _ => ?_))

theorem Session.playVoices_still {x0 x : Session} {a0 : Bool → Nat → Word} (h : StillX x0 x) :
    StillX x0 (Session.playVoices a0 x).1 := by
  unfold Session.playVoices
  refine StillX.foldlP (fun z v hz => ?_) _ h
  have h1 : ∀ b : Bool, ∀ {y : Session}, StillX x0 y → StillX x0 (if b = true then y.voiceEvent v else y) := by
    intro b y hy
    cases b
    · exact hy
    · exact Session.voiceEvent_still hy
  exact h1 _ (h1 _ hz)

theorem Session.setRamp_still {x0 x : Session} {a0 : Nat} {a1 : Ramp} (h : StillX x0 x) :
    StillX x0 (Session.setRamp a0 a1 x) := by
  unfold Session.setRamp
  repeat' first
    | (with_reducible assumption)
    | (simp only [StillX.same])

theorem Session.scaleBus_still {x0 x : Session} {a0 : Nat} (h : StillX x0 x) :
    StillX x0 (Session.scaleBus a0 x) := by
  unfold Session.scaleBus
  repeat' first
    | (with_reducible assumption)
    | (with_reducible apply Session.setRamp_still)
    | (simp only [StillX.same])
    | (with_reducible refine StillX.of_ite (fun _ => ?_) (fun _ => ?_))

theorem Session.silenceTest_still {x0 x : Session} {a0 a1 a2 a3 : Int} (h : StillX x0 x) :
    StillX x0 (Session.silenceTest a0 a1 a2 a3 x) := by
  unfold Session.silenceTest
  repeat' first
    | (with_reducible assumption)
    | (with_reducible apply Session.enterSilent_still)
    | (simp only [StillX.same])
    | (with_reducible refine StillX.of_ite (fun _ => ?_) (fun _ => ?_))

theorem Session.stepRamps_still {x0 x : Session} (h : StillX x0 x) :
    StillX x0 (Session.stepRamps x) := by
  unfold Session.stepRamps
  repeat' first
    | (with_reducible assumption)
    | (simp only [StillX.same])

theorem Session.stepScales_still {x0 x : Session} (h : StillX x0 x) :
    StillX x0 (Session.stepScales x) := by
  unfold Session.stepScales
  repeat' first
    | (with_reducible assumption)
    | (with_reducible apply Session.scaleBus_still)
    | (with_reducible apply Session.stepRamps_still)

theorem State.bringSound_still {s0 s : State} {a0 : CtxNo} {a1 : List (Nat × Nat)} (h : Still s0 s) :
    Still s0 (State.bringSound a0 a1 s).1 := by
  induction a1 generalizing s with
  | nil =>
    unfold State.bringSound
    repeat' first
      | (with_reducible assumption)
      | (with_reducible apply ih)
      | (with_reducible apply State.sRead_still)
      | (simp only [StillX.same])
      | (with_reducible refine Still.of_pair ‹_ = (_, _)› ?_)
      | split
  | cons e l ih =>
    unfold State.bringSound
    repeat' first
      | (with_reducible assumption)
      | (with_reducible apply ih)
      | (with_reducible apply State.sRead_still)
      | (simp only [StillX.same])
      | (with_reducible refine Still.of_pair ‹_ = (_, _)› ?_)
      | split

theorem State.bringSample_still {s0 s : State} {a0 : CtxNo} {a1 : Nat} {a2 : Session} (h : Still s0 s) :
    Still s0 (State.bringSample a0 a1 a2 s).1 := by
  unfold State.bringSample
  repeat' first
    | (with_reducible assumption)
    | (with_reducible apply State.bringSound_still)
    | (simp only [StillX.same])
    | (with_reducible refine Still.of_pair ‹_ = (_, _)› ?_)
    | (with_reducible refine Still.of_iteP (fun _ => ?_) (fun _ => ?_))
    | split

theorem State.countMixWait_still {s0 s : State} {a0 : CtxNo} {a1 : Nat} (h : Still s0 s) :
    Still s0 (State.countMixWait a0 a1 s) := by
  unfold State.countMixWait
  repeat' first
    | (with_reducible assumption)
    | (with_reducible apply State.countFreeze_still)
    | (with_reducible refine Still.of_ite (fun _ => ?_) (fun _ => ?_))

theorem State.queuePacket_still {s0 s : State} {a0 : CtxNo} {a1 : Nat} (h : Still s0 s) :
    Still s0 (State.queuePacket a0 a1 s) := by
  unfold State.queuePacket
  repeat' first
    | (with_reducible assumption)
    | (with_reducible refine State.putSes_still ‹_› ?_ ?_)
    | (with_reducible apply Session.countIo_still)
    | (with_reducible apply State.enterAudio_still)
    | (with_reducible apply State.modSes_still)
    | (with_reducible apply State.modSlot_still)
    | (with_reducible apply State.tapAudio_still)
    | (with_reducible exact StillX.refl _)
    | (simp only [StillX.same])
    | (with_reducible refine Still.of_ite (fun _ => ?_) (fun _ => ?_))
    | (with_reducible intro _)
    | split

theorem State.sendWords_still {s0 s : State} {a0 : CtxNo} {a1 : Nat} {a2 a3 : Int} (h : Still s0 s) :
    Still s0 (State.sendWords a0 a1 a2 a3 s).1 := by
  unfold State.sendWords
  repeat' first
    | (with_reducible assumption)
    | (with_reducible apply Session.setIo_still)
    | (with_reducible apply State.modSes_still)
    | (with_reducible apply State.sWrite_still)
    | (with_reducible exact StillX.refl _)
    | (simp only [StillX.same])
    | (with_reducible refine Still.of_iteP (fun _ => ?_) (fun _ => ?_))
    | (with_reducible intro _)
    | split

theorem Session.mixFull_still {x0 x : Session} {rd : Bool → Nat → Word} (h : StillX x0 x) : StillX x0 (x.mixFull rd).ses := by
  have h1 := Session.playVoices_still (a0 := rd) (Session.stepScales_still h)
  have h2 := Session.endRamps_still (Session.auxStep_still (a0 := 1) (Session.auxStep_still (a0 := 0) h1))
  unfold Session.mixFull
  dsimp only
  split
  · exact Session.mixEvent_still h2
  · exact h2

theorem Session.mix_still {x0 x : Session} {rd : Bool → Nat → Word} (h : StillX x0 x) : StillX x0 (x.mix rd).ses := by
  unfold Session.mix
  split
  · exact Session.silenceTest_still (Session.endRamps_still (Session.auxStep_still (Session.auxStep_still (Session.stepScales_still
      (Session.envSteps_still (Session.applyKeys_still h))))))
  · dsimp only
    refine Session.silenceTest_still (Session.mixFull_still (Session.envSteps_still (Session.applyKeys_still ?_)))
    split
    · exact Session.mixEvent_still (StillX.same.mpr h)
    · exact h

/-- A session put back as it was, but for its processor and its staging lines. -/
theorem State.putBack_still {s0 s r : State} {c : CtxNo} {x : Session} (e : s.ses c = some x) (h : Still s0 s) (hr : Still s0 r) :
    Still s0 (r.modSes c (fun z => { x with cpu := z.cpu, staging := z.staging })) := by
  refine ⟨hr.waits, fun w i => ?_, fun w => ⟨(hr.title w).1, fun i => ?_⟩, hr.keeper, hr.apart.trans (.of_eq rfl rfl rfl)⟩
  · rw [State.ses_modSes]
    split
    · next same =>
      subst same
      have before := h.ses w i
      have after := hr.ses w i
      rw [e, Option.map_some] at before
      rw [← before] at after
      cases found : r.ses i with
      | none => rw [found] at after; cases after
      | some z =>
        rw [found, Option.map_some, Option.some_inj, Prod.mk.injEq] at after
        rw [← before, Option.map_some, Option.map_some, after.1]
    · exact hr.ses w i
  · rw [← (hr.title w).2 i]
    unfold State.modSes
    rw [State.ctx_modCtx]
    split
    · subst_vars; rfl
    · rfl

theorem State.mixNow_still {s0 s : State} {a0 : CtxNo} {a1 : Nat} (h : Still s0 s) :
    Still s0 (State.mixNow a0 a1 s) := by
  unfold State.mixNow
  repeat' first
    | (with_reducible assumption)
    | (with_reducible refine State.putSes_still ‹_› ?_ ?_)
    | (with_reducible apply Session.mix_still)
    | (with_reducible apply Session.countSample_still)
    | (with_reducible refine State.putBack_still ‹_› ‹_› ?_)
    | (with_reducible apply State.backOut_still)
    | (with_reducible apply State.modSes_still)
    | (with_reducible apply State.queuePacket_still)
    | (with_reducible apply State.sendWords_still)
    | (with_reducible exact StillX.refl _)
    | (simp only [StillX.same])
    | (with_reducible refine Still.of_ite (fun _ => ?_) (fun _ => ?_))
    | (with_reducible refine Still.of_iteP (fun _ => ?_) (fun _ => ?_))
    | (with_reducible intro _)
    | split

theorem State.mixSample_still {s0 s : State} {a0 : CtxNo} (h : Still s0 s) :
    Still s0 (State.mixSample a0 s) := by
  unfold State.mixSample
  repeat' first
    | (with_reducible assumption)
    | (with_reducible apply State.bringSample_still)
    | (with_reducible apply State.mixNow_still)
    | (with_reducible refine Still.of_pair ‹_ = (_, _)› ?_)
    | (with_reducible refine Still.of_ite (fun _ => ?_) (fun _ => ?_))
    | split

theorem State.mixBefore_still {s0 s : State} {a0 : CtxNo} {a1 a2 : Nat} (h : Still s0 s) :
    Still s0 (State.mixBefore a0 a1 a2 s) := by
  induction a2 generalizing s with
  | zero =>
    unfold State.mixBefore
    repeat' first
      | (with_reducible assumption)
      | (with_reducible apply ih)
      | (with_reducible apply State.mixSample_still)
      | (with_reducible refine Still.of_ite (fun _ => ?_) (fun _ => ?_))
  | succ n ih =>
    unfold State.mixBefore
    repeat' first
      | (with_reducible assumption)
      | (with_reducible apply ih)
      | (with_reducible apply State.mixSample_still)
      | (with_reducible refine Still.of_ite (fun _ => ?_) (fun _ => ?_))

theorem State.mixDueBefore_still {s0 s : State} {a0 : CtxNo} {a1 : Nat} (h : Still s0 s) :
    Still s0 (State.mixDueBefore a0 a1 s) := by
  unfold State.mixDueBefore
  repeat' first
    | (with_reducible assumption)
    | (with_reducible apply State.mixBefore_still)

theorem State.soundDue_still {s0 s : State} {a0 : CtxNo} (h : Still s0 s) :
    Still s0 (State.soundDue a0 s) := by
  unfold State.soundDue
  repeat' first
    | (with_reducible assumption)
    | (with_reducible apply State.countMixWait_still)
    | (with_reducible apply State.mixDueBefore_still)
    | (with_reducible refine Still.of_ite (fun _ => ?_) (fun _ => ?_))

theorem State.prefetch_still {s0 s : State} {a0 : CtxNo} {a1 : Nat} (h : Still s0 s) :
    Still s0 (State.prefetch a0 a1 s) := by
  unfold State.prefetch
  repeat' first
    | (with_reducible assumption)
    | (with_reducible apply State.ensureCopyAs_still)
    | (with_reducible apply State.modSlot_still)
    | (simp only [StillX.same])
    | (with_reducible refine Still.foldl (fun _ _ _ => ?_) _ ?_)

theorem State.ensureTitle_still {s0 s : State} {a0 : CtxNo} {a1 : Nat} (h : Still s0 s) :
    Still s0 (State.ensureTitle a0 a1 s).1 := by
  unfold State.ensureTitle
  repeat' first
    | (with_reducible assumption)
    | (with_reducible apply State.copyFrame_still)
    | (with_reducible apply State.countSlot_still)
    | (with_reducible apply State.takeGallery_still)
    | (with_reducible apply State.touchGallery_still)
    | (with_reducible apply State.unitFail_still)
    | (simp only [StillX.same])
    | (with_reducible refine Still.of_someP ‹_ = some (_, _)› ?_)
    | (with_reducible refine Still.of_iteP (fun _ => ?_) (fun _ => ?_))
    | split

theorem State.titleReadyAt_still {s0 s : State} {a0 : CtxNo} {a1 a2 a3 : Nat} (h : Still s0 s) :
    Still s0 (State.titleReadyAt a0 a1 a2 a3 s).1 := by
  unfold State.titleReadyAt
  repeat' first
    | (with_reducible assumption)
    | (with_reducible apply State.ensureTitle_still)
    | (with_reducible apply State.stuck_still)
    | (with_reducible apply State.unitFail_still)
    | (simp only [StillX.same])
    | (with_reducible refine Still.of_pair ‹_ = (_, _)› ?_)
    | (with_reducible refine Still.of_iteP (fun _ => ?_) (fun _ => ?_))
    | split

theorem State.titleStaged_still {s0 s : State} {a0 : CtxNo} {a1 a2 : Nat} (h : Still s0 s) :
    Still s0 (State.titleStaged a0 a1 a2 s).1 := by
  unfold State.titleStaged
  repeat' first
    | (with_reducible assumption)
    | (with_reducible apply State.titleReadyAt_still)
    | (with_reducible apply State.useLine_still)
    | (simp only [StillX.same])
    | (with_reducible refine Still.of_pair ‹_ = (_, _)› ?_)
    | (with_reducible refine Still.of_iteP (fun _ => ?_) (fun _ => ?_))
    | split

theorem State.cRead_still {s0 s : State} {a0 : CtxNo} {a1 : Nat} (h : Still s0 s) :
    Still s0 (State.cRead a0 a1 s).1 := by
  unfold State.cRead
  repeat' first
    | (with_reducible assumption)
    | (with_reducible apply State.titleStaged_still)

theorem State.titleRead_still {s0 s : State} {a0 : CtxNo} {a1 a2 : Nat} (h : Still s0 s) :
    Still s0 (State.titleRead a0 a1 a2 s).1 := by
  unfold State.titleRead
  repeat' first
    | (with_reducible assumption)
    | (with_reducible apply State.titleReadyAt_still)
    | (simp only [StillX.same])
    | (with_reducible refine Still.of_pair ‹_ = (_, _)› ?_)
    | split

theorem State.dUnitRead_still {s0 s : State} {a0 : CtxNo} {a1 : Nat} (h : Still s0 s) :
    Still s0 (State.dUnitRead a0 a1 s).1 := by
  unfold State.dUnitRead
  repeat' first
    | (with_reducible assumption)
    | (with_reducible apply State.pageRead_still)
    | (with_reducible apply State.titleRead_still)
    | (with_reducible refine Still.of_iteP (fun _ => ?_) (fun _ => ?_))

theorem State.dUnitWrite_still {s0 s : State} {a0 : CtxNo} {a1 : Nat} {a2 : Word} (h : Still s0 s) :
    Still s0 (State.dUnitWrite a0 a1 a2 s).1 := by
  unfold State.dUnitWrite
  repeat' first
    | (with_reducible assumption)
    | (with_reducible apply State.backOut_still)
    | (with_reducible apply State.dropLine_still)
    | (with_reducible apply State.pageWrite_still)
    | (simp only [StillX.same])
    | (with_reducible refine Still.of_iteP (fun _ => ?_) (fun _ => ?_))

theorem State.fillData_still {s0 s : State} {a0 : CtxNo} {a1 : Nat} (h : Still s0 s) :
    Still s0 (State.fillData a0 a1 s) := by
  unfold State.fillData
  repeat' first
    | (with_reducible assumption)
    | (with_reducible apply Session.stage_still)
    | (with_reducible apply State.modSes_still)
    | (with_reducible apply State.pageReady_still)
    | (with_reducible apply State.trimLines_still)
    | (with_reducible exact StillX.refl _)
    | (with_reducible refine Still.of_pair ‹_ = (_, _)› ?_)
    | (with_reducible refine Still.of_ite (fun _ => ?_) (fun _ => ?_))
    | (with_reducible intro _)
    | split

theorem State.fillTitle_still {s0 s : State} {a0 : CtxNo} {a1 a2 : Nat} (h : Still s0 s) :
    Still s0 (State.fillTitle a0 a1 a2 s) := by
  unfold State.fillTitle
  repeat' first
    | (with_reducible assumption)
    | (with_reducible apply Session.stage_still)
    | (with_reducible apply State.modSes_still)
    | (with_reducible apply State.titleReadyAt_still)
    | (with_reducible apply State.trimLines_still)
    | (with_reducible exact StillX.refl _)
    | (with_reducible refine Still.of_pair ‹_ = (_, _)› ?_)
    | (with_reducible refine Still.of_ite (fun _ => ?_) (fun _ => ?_))
    | (with_reducible intro _)
    | split

theorem State.fillAhead_still {s0 s : State} {a0 : CtxNo} (h : Still s0 s) :
    Still s0 (State.fillAhead a0 s) := by
  unfold State.fillAhead
  repeat' first
    | (with_reducible assumption)
    | (with_reducible apply State.fillData_still)
    | (with_reducible apply State.fillTitle_still)
    | (simp only [StillX.same])
    | (with_reducible refine Still.foldl (fun _ _ _ => ?_) _ ?_)
    | (with_reducible refine Still.of_ite (fun _ => ?_) (fun _ => ?_))
    | split

theorem statBit_still {x0 x : Session} {a0 : Nat} (h : StillX x0 x) :
    StillX x0 (statBit a0 x) := by
  unfold statBit
  repeat' first
    | (with_reducible assumption)
    | (with_reducible apply Session.orIo_still)

theorem Session.raiseWm_still {x0 x : Session} (h : StillX x0 x) :
    StillX x0 (Session.raiseWm x) := by
  unfold Session.raiseWm
  repeat' first
    | (with_reducible assumption)
    | (with_reducible apply statBit_still)
    | (simp only [StillX.same])
    | (with_reducible refine StillX.of_ite (fun _ => ?_) (fun _ => ?_))
    | split

theorem Session.endBlit_still {x0 x : Session} {a0 : Bool} {a1 : Nat} (h : StillX x0 x) :
    StillX x0 (Session.endBlit a0 a1 x) := by
  unfold Session.endBlit
  repeat' first
    | (with_reducible assumption)
    | (with_reducible apply Session.raiseWm_still)
    | (with_reducible apply statBit_still)
    | (simp only [StillX.same])
    | (with_reducible refine StillX.of_ite (fun _ => ?_) (fun _ => ?_))

theorem Session.burstLanded_still {x0 x : Session} {a0 : Blit} {a1 : Nat} (h : StillX x0 x) :
    StillX x0 (Session.burstLanded a0 a1 x) := by
  unfold Session.burstLanded
  repeat' first
    | (with_reducible assumption)
    | (with_reducible apply Session.endBlit_still)
    | (with_reducible apply Session.raiseWm_still)
    | (with_reducible apply Session.setIo_still)
    | (with_reducible apply statBit_still)
    | (simp only [StillX.same])
    | (with_reducible refine StillX.of_ite (fun _ => ?_) (fun _ => ?_))

theorem State.blitWord_still {s0 s : State} {a0 : CtxNo} {a1 a2 : Nat} {a3 : Nat × Word × Word} (h : Still s0 s) :
    Still s0 (State.blitWord a0 a1 a2 a3 s).1 := by
  unfold State.blitWord
  repeat' first
    | (with_reducible assumption)
    | (with_reducible apply State.vWrite_still)
    | (simp only [StillX.same])
    | (with_reducible refine Still.of_iteP (fun _ => ?_) (fun _ => ?_))

theorem State.blitWords_still {s0 s : State} {a0 : CtxNo} {a1 a2 : Nat} {a3 : List (Nat × Word × Word)} (h : Still s0 s) :
    Still s0 (State.blitWords a0 a1 a2 a3 s).1 := by
  induction a3 generalizing s with
  | nil =>
    unfold State.blitWords
    repeat' first
      | (with_reducible assumption)
      | (with_reducible apply ih)
      | (with_reducible apply State.blitWord_still)
      | (with_reducible refine Still.of_pair ‹_ = (_, _)› ?_)
      | split
  | cons e l ih =>
    unfold State.blitWords
    repeat' first
      | (with_reducible assumption)
      | (with_reducible apply ih)
      | (with_reducible apply State.blitWord_still)
      | (with_reducible refine Still.of_pair ‹_ = (_, _)› ?_)
      | split

theorem State.blitLand_still {s0 s : State} {a0 : CtxNo} {a1 : Blit} (h : Still s0 s) :
    Still s0 (State.blitLand a0 a1 s).1 := by
  unfold State.blitLand
  repeat' first
    | (with_reducible assumption)
    | (with_reducible apply Session.burstLanded_still)
    | (with_reducible apply State.blitWords_still)
    | (with_reducible apply State.modSes_still)
    | (with_reducible exact StillX.refl _)
    | (with_reducible refine Still.of_pair ‹_ = (_, _)› ?_)
    | (with_reducible intro _)
    | split

theorem State.bringWords_still {s0 s : State} {a0 : CtxNo} {a1 : List (Nat × Nat)} (h : Still s0 s) :
    Still s0 (State.bringWords a0 a1 s).1 := by
  induction a1 generalizing s with
  | nil =>
    unfold State.bringWords
    repeat' first
      | (with_reducible assumption)
      | (with_reducible apply ih)
      | (with_reducible apply State.vRead_still)
      | (simp only [StillX.same])
      | (with_reducible refine Still.of_pair ‹_ = (_, _)› ?_)
      | split
  | cons e l ih =>
    unfold State.bringWords
    repeat' first
      | (with_reducible assumption)
      | (with_reducible apply ih)
      | (with_reducible apply State.vRead_still)
      | (simp only [StillX.same])
      | (with_reducible refine Still.of_pair ‹_ = (_, _)› ?_)
      | split

theorem State.blitStart_still {s0 s : State} {a0 : CtxNo} {a1 : Blit} (h : Still s0 s) :
    Still s0 (State.blitStart a0 a1 s).1 := by
  unfold State.blitStart
  repeat' first
    | (with_reducible assumption)
    | (with_reducible apply State.bringWords_still)
    | (with_reducible apply State.modSes_still)
    | (with_reducible exact StillX.refl _)
    | (simp only [StillX.same])
    | (with_reducible refine Still.of_pair ‹_ = (_, _)› ?_)
    | (with_reducible intro _)
    | split

theorem Session.clearEn_still {x0 x : Session} {a0 : Nat} (h : StillX x0 x) :
    StillX x0 (Session.clearEn a0 x) := by
  unfold Session.clearEn
  repeat' first
    | (with_reducible assumption)
    | (with_reducible apply Session.setIo_still)

theorem Session.setCh_still {x0 x : Session} {a0 : Fin 4} {a1 : DmaCh} (h : StillX x0 x) :
    StillX x0 (Session.setCh a0 a1 x) := by
  unfold Session.setCh
  repeat' first
    | (with_reducible assumption)
    | (simp only [StillX.same])

theorem Session.backDone_still {x0 x : Session} {a0 : Fin 4} {a1 : Nat} (h : StillX x0 x) :
    StillX x0 (Session.backDone a0 a1 x) := by
  unfold Session.backDone
  repeat' first
    | (with_reducible assumption)
    | (with_reducible apply Session.clearEn_still)
    | (with_reducible apply Session.setCh_still)
    | (with_reducible apply Session.setIo_still)
    | (simp only [StillX.same])
    | (with_reducible refine StillX.of_ite (fun _ => ?_) (fun _ => ?_))
    | split

theorem Session.ringEvents_still {x0 x : Session} {a0 : Fin 4} {a1 a2 : Nat} (h : StillX x0 x) :
    StillX x0 (Session.ringEvents a0 a1 a2 x) := by
  unfold Session.ringEvents
  repeat' first
    | (with_reducible assumption)
    | (simp only [StillX.same])
    | (with_reducible refine StillX.of_ite (fun _ => ?_) (fun _ => ?_))

theorem Session.streamAbort_still {x0 x : Session} {a0 : Fin 4} (h : StillX x0 x) :
    StillX x0 (Session.streamAbort a0 x) := by
  unfold Session.streamAbort
  repeat' first
    | (with_reducible assumption)
    | (with_reducible apply Session.clearEn_still)
    | (with_reducible apply Session.orIo_still)
    | (with_reducible apply Session.setCh_still)

theorem Session.streamLanded_still {x0 x : Session} {a0 : Fin 4} {a1 a2 a3 : Nat} (h : StillX x0 x) :
    StillX x0 (Session.streamLanded a0 a1 a2 a3 x) := by
  unfold Session.streamLanded
  repeat' first
    | (with_reducible assumption)
    | (with_reducible apply Session.ringEvents_still)
    | (with_reducible apply Session.setCh_still)
    | (with_reducible apply Session.setIo_still)
    | (with_reducible apply Session.streamAbort_still)
    | (simp only [StillX.same])
    | (with_reducible refine StillX.of_ite (fun _ => ?_) (fun _ => ?_))

theorem Session.actDone_still {x0 x : Session} {a0 : DmaAct} {a1 : Word} {a2 : Nat} (h : StillX x0 x) :
    StillX x0 (Session.actDone a0 a1 a2 x) := by
  unfold Session.actDone
  repeat' first
    | (with_reducible assumption)
    | (with_reducible apply Session.backDone_still)
    | (with_reducible apply Session.setCh_still)
    | (with_reducible apply Session.streamLanded_still)
    | (simp only [StillX.same])
    | (with_reducible refine StillX.of_ite (fun _ => ?_) (fun _ => ?_))
    | split

theorem Session.bandTrigger_still {x0 x : Session} (h : StillX x0 x) :
    StillX x0 (Session.bandTrigger x) := by
  unfold Session.bandTrigger
  repeat' first
    | (with_reducible assumption)
    | (simp only [StillX.same])

theorem Session.carry_still {x0 x : Session} {a0 : Fin 4} {a1 a2 : Nat} {a3 : List Word} (h : StillX x0 x) :
    StillX x0 (Session.carry a0 a1 a2 a3 x) := by
  unfold Session.carry
  repeat' first
    | (with_reducible assumption)
    | (with_reducible apply Session.setCh_still)
    | (simp only [StillX.same])

theorem Session.startBack_still {x0 x : Session} {a0 : Fin 4} {a1 : Nat} (h : StillX x0 x) :
    StillX x0 (Session.startBack a0 a1 x) := by
  unfold Session.startBack
  repeat' first
    | (with_reducible assumption)
    | (simp only [StillX.same])

theorem Session.trigger_still {x0 x : Session} {a0 : Fin 4} (h : StillX x0 x) :
    StillX x0 (Session.trigger a0 x) := by
  unfold Session.trigger
  repeat' first
    | (with_reducible assumption)
    | (with_reducible apply Session.orIo_still)
    | (with_reducible apply Session.setCh_still)
    | (simp only [StillX.same])
    | (with_reducible refine StillX.of_ite (fun _ => ?_) (fun _ => ?_))

theorem Session.triggersAt_still {x0 x : Session} {a0 : Nat} (h : StillX x0 x) :
    StillX x0 (Session.triggersAt a0 x) := by
  unfold Session.triggersAt
  repeat' first
    | (with_reducible assumption)
    | (with_reducible apply Session.setCh_still)
    | (with_reducible apply Session.trigger_still)
    | (simp only [StillX.same])
    | (with_reducible refine StillX.foldl (fun _ _ _ => ?_) _ ?_)

theorem State.dmaRead_still {s0 s : State} {a0 : CtxNo} {a1 a2 a3 : Nat} (h : Still s0 s) :
    Still s0 (State.dmaRead a0 a1 a2 a3 s).1 := by
  unfold State.dmaRead
  repeat' first
    | (with_reducible assumption)
    | (with_reducible apply State.dUnitRead_still)
    | (with_reducible apply State.sRead_still)
    | (with_reducible apply State.vRead_still)
    | (with_reducible refine Still.of_iteP (fun _ => ?_) (fun _ => ?_))
    | split

theorem State.dmaWrite_still {s0 s : State} {a0 : CtxNo} {a1 : Nat} {a2 : Nat × Nat × Nat × Word} (h : Still s0 s) :
    Still s0 (State.dmaWrite a0 a1 a2 s).1 := by
  unfold State.dmaWrite
  repeat' first
    | (with_reducible assumption)
    | (with_reducible apply State.dUnitWrite_still)
    | (with_reducible apply State.sWrite_still)
    | (with_reducible apply State.vWrite_still)
    | (with_reducible refine Still.of_iteP (fun _ => ?_) (fun _ => ?_))
    | split

theorem State.dmaWrites_still {s0 s : State} {a0 : CtxNo} {a1 : Nat} {a2 : List (Nat × Nat × Nat × Word)} (h : Still s0 s) :
    Still s0 (State.dmaWrites a0 a1 a2 s).1 := by
  induction a2 generalizing s with
  | nil =>
    unfold State.dmaWrites
    repeat' first
      | (with_reducible assumption)
      | (with_reducible apply ih)
      | (with_reducible apply State.dmaWrite_still)
      | (with_reducible refine Still.of_pair ‹_ = (_, _)› ?_)
      | split
  | cons e l ih =>
    unfold State.dmaWrites
    repeat' first
      | (with_reducible assumption)
      | (with_reducible apply ih)
      | (with_reducible apply State.dmaWrite_still)
      | (with_reducible refine Still.of_pair ‹_ = (_, _)› ?_)
      | split

theorem State.dmaLand_still {s0 s : State} {a0 : CtxNo} {a1 : Nat} (h : Still s0 s) :
    Still s0 (State.dmaLand a0 a1 s).1 := by
  unfold State.dmaLand
  repeat' first
    | (with_reducible assumption)
    | (with_reducible apply Session.actDone_still)
    | (with_reducible apply State.dmaWrites_still)
    | (with_reducible apply State.modSes_still)
    | (with_reducible exact StillX.refl _)
    | (simp only [StillX.same])
    | (with_reducible refine Still.of_pair ‹_ = (_, _)› ?_)
    | (with_reducible refine Still.of_iteP (fun _ => ?_) (fun _ => ?_))
    | (with_reducible intro _)
    | split

theorem State.dmaReads_still {s0 s : State} {a0 : CtxNo} {a1 a2 a3 a4 : Nat} (h : Still s0 s) :
    Still s0 (State.dmaReads a0 a1 a2 a3 a4 s).1 := by
  induction a4 generalizing s a3 with
  | zero =>
    unfold State.dmaReads
    repeat' first
      | (with_reducible assumption)
      | (with_reducible apply ih)
      | (with_reducible apply State.dmaRead_still)
      | (simp only [StillX.same])
      | (with_reducible refine Still.of_pair ‹_ = (_, _)› ?_)
      | split
  | succ n ih =>
    unfold State.dmaReads
    repeat' first
      | (with_reducible assumption)
      | (with_reducible apply ih)
      | (with_reducible apply State.dmaRead_still)
      | (simp only [StillX.same])
      | (with_reducible refine Still.of_pair ‹_ = (_, _)› ?_)
      | split

theorem State.startBurst_still {s0 s : State} {a0 : CtxNo} {a1 : Fin 4} {a2 : Nat} {a3 : Session} (h : Still s0 s) :
    Still s0 (State.startBurst a0 a1 a2 a3 s).1 := by
  unfold State.startBurst
  repeat' first
    | (with_reducible assumption)
    | (with_reducible apply Session.carry_still)
    | (with_reducible apply Session.setCh_still)
    | (with_reducible apply State.dmaReads_still)
    | (with_reducible apply State.modSes_still)
    | (with_reducible exact StillX.refl _)
    | (simp only [StillX.same])
    | (with_reducible refine Still.of_pair ‹_ = (_, _)› ?_)
    | (with_reducible refine Still.of_iteP (fun _ => ?_) (fun _ => ?_))
    | (with_reducible intro _)
    | split

theorem State.startRead_still {s0 s : State} {a0 : CtxNo} {a1 : Fin 4} {a2 : Nat} {a3 : Session} (h : Still s0 s) :
    Still s0 (State.startRead a0 a1 a2 a3 s).1 := by
  unfold State.startRead
  repeat' first
    | (with_reducible assumption)
    | (with_reducible apply Session.setCh_still)
    | (with_reducible apply State.dmaReads_still)
    | (with_reducible apply State.modSes_still)
    | (with_reducible exact StillX.refl _)
    | (simp only [StillX.same])
    | (with_reducible refine Still.of_pair ‹_ = (_, _)› ?_)
    | (with_reducible intro _)
    | split

theorem State.dmaStart_still {s0 s : State} {a0 : CtxNo} {a1 : Nat} (h : Still s0 s) :
    Still s0 (State.dmaStart a0 a1 s).1 := by
  unfold State.dmaStart
  repeat' first
    | (with_reducible assumption)
    | (with_reducible apply Session.startBack_still)
    | (with_reducible apply State.modSes_still)
    | (with_reducible apply State.startBurst_still)
    | (with_reducible apply State.startRead_still)
    | (with_reducible exact StillX.refl _)
    | (with_reducible refine Still.of_iteP (fun _ => ?_) (fun _ => ?_))
    | (with_reducible intro _)
    | split

theorem State.dropInput_still {s0 s : State} {a0 : CtxNo} {a1 : Nat} (h : Still s0 s) :
    Still s0 (State.dropInput a0 a1 s) := by
  unfold State.dropInput
  repeat' first
    | (with_reducible assumption)
    | (with_reducible apply Session.countIo_still)
    | (with_reducible apply State.modSes_still)
    | (with_reducible exact StillX.refl _)
    | (with_reducible intro _)

theorem Session.applyInput_still {x0 x : Session} {a0 : InPkt} (h : StillX x0 x) :
    StillX x0 (Session.applyInput a0 x) := by
  unfold Session.applyInput
  repeat' first
    | (with_reducible assumption)
    | (with_reducible apply Session.countIo_still)
    | (with_reducible apply Session.orIo_still)
    | (with_reducible apply Session.setIo_still)
    | (simp only [StillX.same])
    | (with_reducible refine StillX.foldl (fun _ _ _ => ?_) _ ?_)
    | (with_reducible refine StillX.of_ite (fun _ => ?_) (fun _ => ?_))

theorem Session.latchInputs_still {x0 x : Session} {a0 : List InPkt} {a1 a2 : Nat} (h : StillX x0 x) :
    StillX x0 (Session.latchInputs a0 a1 a2 x) := by
  unfold Session.latchInputs
  repeat' first
    | (with_reducible assumption)
    | (with_reducible apply Session.applyInput_still)
    | (with_reducible apply Session.setIo_still)
    | (simp only [StillX.same])
    | (with_reducible refine StillX.foldl (fun _ _ _ => ?_) _ ?_)

theorem Session.mailBoundary_still {x0 x : Session} (h : StillX x0 x) :
    StillX x0 (Session.mailBoundary x) := by
  unfold Session.mailBoundary
  repeat' first
    | (with_reducible assumption)
    | (with_reducible apply Session.orIo_still)
    | (with_reducible apply Session.setIo_still)
    | (simp only [StillX.same])
    | (with_reducible refine StillX.foldl (fun _ _ _ => ?_) _ ?_)
    | (with_reducible refine StillX.of_ite (fun _ => ?_) (fun _ => ?_))
    | split

theorem State.creditTokens_still {s0 s : State} {a0 : CtxNo} {a1 a2 : Nat} (h : Still s0 s) :
    Still s0 (State.creditTokens a0 a1 a2 s) := by
  unfold State.creditTokens
  repeat' first
    | (with_reducible assumption)
    | (with_reducible apply State.modSlot_still)

theorem State.cut_still {s0 s : State} {a0 : Nat} (h : Still s0 s) :
    Still s0 (State.cut a0 s).2 := by
  unfold State.cut
  repeat' first
    | (with_reducible assumption)
    | (with_reducible apply State.spend_still)
    | split

theorem State.takeInputs_still {s0 s : State} {a0 a1 : Nat} (h : Still s0 s) :
    Still s0 (State.takeInputs a0 a1 s).2 := by
  induction a1 generalizing s with
  | zero => exact h
  | succ n ih =>
    cases hq : (s.slot a0).inputQ with
    | nil => simp only [State.takeInputs, hq]; exact h
    | cons p q =>
      have key : ∀ r : Bool × State, Still s0 r.2 → Still s0 (if r.1 = true then
          (p :: (State.takeInputs a0 n (r.2.modSlot a0 (fun y => { y with inputQ := q }))).1,
            (State.takeInputs a0 n (r.2.modSlot a0 (fun y => { y with inputQ := q }))).2) else ([], r.2)).2 := by
        intro r hr
        split
        · exact ih (State.modSlot_still hr)
        · exact hr
      simp only [State.takeInputs, hq]
      exact key (s.cut p.arrival) (State.cut_still h)

theorem State.latchBoundary_still {s0 s : State} {a0 : CtxNo} {a1 a2 a3 : Nat} (h : Still s0 s) :
    Still s0 (State.latchBoundary a0 a1 a2 a3 s) := by
  unfold State.latchBoundary
  repeat' first
    | (with_reducible assumption)
    | (with_reducible apply Session.latchInputs_still)
    | (with_reducible apply State.modSes_still)
    | (with_reducible apply State.releaseOf_still)
    | (with_reducible apply State.setReg_still)
    | (with_reducible apply State.takeInputs_still)
    | (with_reducible exact StillX.refl _)
    | (simp only [StillX.same])
    | (with_reducible intro _)
    | split

theorem State.emptyMirror_still {s0 s : State} {a0 : CtxNo} {a1 a2 a3 : Nat} (h : Still s0 s) :
    Still s0 (State.emptyMirror a0 a1 a2 a3 s) := by
  unfold State.emptyMirror
  repeat' first
    | (with_reducible assumption)
    | (with_reducible apply State.modSes_still)
    | (with_reducible apply State.modSlot_still)
    | (with_reducible exact StillX.refl _)
    | (simp only [StillX.same])
    | (with_reducible refine Still.of_ite (fun _ => ?_) (fun _ => ?_))
    | (with_reducible intro _)

theorem State.mirrorEvents_still {s0 s : State} {a0 : CtxNo} {a1 a2 a3 : Nat} (h : Still s0 s) :
    Still s0 (State.mirrorEvents a0 a1 a2 a3 s) := by
  unfold State.mirrorEvents
  repeat' first
    | (with_reducible assumption)
    | (with_reducible apply State.emptyMirror_still)
    | (with_reducible apply State.modSes_still)
    | (with_reducible exact StillX.refl _)
    | (simp only [StillX.same])
    | (with_reducible refine Still.of_ite (fun _ => ?_) (fun _ => ?_))
    | (with_reducible intro _)

theorem State.takeRefresh_still {s0 s : State} {a0 : CtxNo} {a1 a2 a3 a4 : Nat} (h : Still s0 s) :
    Still s0 (State.takeRefresh a0 a1 a2 a3 a4 s) := by
  induction a4 generalizing s with
  | zero =>
    unfold State.takeRefresh
    repeat' first
      | (with_reducible assumption)
      | (with_reducible apply ih)
      | (with_reducible apply State.countReg_still)
      | (with_reducible apply State.cut_still)
      | (with_reducible apply State.emptyMirror_still)
      | (with_reducible apply State.modSlot_still)
      | (simp only [StillX.same])
      | (with_reducible refine Still.of_ite (fun _ => ?_) (fun _ => ?_))
      | split
  | succ n ih =>
    unfold State.takeRefresh
    repeat' first
      | (with_reducible assumption)
      | (with_reducible apply ih)
      | (with_reducible apply State.countReg_still)
      | (with_reducible apply State.cut_still)
      | (with_reducible apply State.emptyMirror_still)
      | (with_reducible apply State.modSlot_still)
      | (simp only [StillX.same])
      | (with_reducible refine Still.of_ite (fun _ => ?_) (fun _ => ?_))
      | split

theorem State.mirrorBoundary_still {s0 s : State} {a0 : CtxNo} {a1 a2 a3 : Nat} (h : Still s0 s) :
    Still s0 (State.mirrorBoundary a0 a1 a2 a3 s) := by
  unfold State.mirrorBoundary
  repeat' first
    | (with_reducible assumption)
    | (with_reducible apply State.emptyMirror_still)
    | (with_reducible apply State.mirrorEvents_still)
    | (with_reducible apply State.takeRefresh_still)
    | (simp only [StillX.same])
    | (with_reducible refine Still.of_ite (fun _ => ?_) (fun _ => ?_))

theorem State.takeControls_still {s0 s : State} {a0 a1 a2 : Nat} (h : Still s0 s) :
    Still s0 (State.takeControls a0 a1 a2 s) := by
  unfold State.takeControls
  repeat' first
    | (with_reducible assumption)
    | (with_reducible apply State.modSlot_still)

theorem State.horizonStep_still {s0 s : State} {a0 : CtxNo} {a1 : Nat} (h : Still s0 s) :
    StillO s0 (State.horizonStep a0 a1 s) := by
  unfold State.horizonStep
  repeat' first
    | (with_reducible assumption)
    | (with_reducible apply State.modSlot_still)
    | (with_reducible apply State.releaseOf_still)
    | (simp only [StillX.same])
    | (with_reducible apply StillO.none)
    | (with_reducible apply StillO.some)
    | split

theorem State.horizonAll_still {s0 s : State} {a0 : CtxNo} {a1 a2 : Nat} (h : Still s0 s) :
    Still s0 (State.horizonAll a0 a1 a2 s) := by
  induction a2 generalizing s with
  | zero =>
    unfold State.horizonAll
    repeat' first
      | (with_reducible assumption)
      | (with_reducible apply ih)
      | (with_reducible apply State.horizonStep_still)
      | (with_reducible refine Still.of_some ‹_ = some _› ?_)
      | split
  | succ n ih =>
    unfold State.horizonAll
    repeat' first
      | (with_reducible assumption)
      | (with_reducible apply ih)
      | (with_reducible apply State.horizonStep_still)
      | (with_reducible refine Still.of_some ‹_ = some _› ?_)
      | split

theorem State.takeLead_still {s0 s : State} {a0 : CtxNo} {a1 a2 a3 : Nat} (h : Still s0 s) :
    Still s0 (State.takeLead a0 a1 a2 a3 s) := by
  unfold State.takeLead
  repeat' first
    | (with_reducible assumption)
    | (with_reducible apply State.horizonAll_still)
    | (with_reducible apply State.modSlot_still)
    | split

theorem State.crossBoundary_still {s0 s : State} {a0 : CtxNo} {a1 : Nat} (h : Still s0 s) :
    Still s0 (State.crossBoundary a0 a1 s) := by
  unfold State.crossBoundary
  repeat' first
    | (with_reducible assumption)
    | (with_reducible apply Session.bandTrigger_still)
    | (with_reducible apply Session.mailBoundary_still)
    | (with_reducible apply State.creditTokens_still)
    | (with_reducible apply State.latchBoundary_still)
    | (with_reducible apply State.mirrorBoundary_still)
    | (with_reducible apply State.modSes_still)
    | (with_reducible apply State.prefetch_still)
    | (with_reducible apply State.takeControls_still)
    | (with_reducible apply State.takeLead_still)
    | (with_reducible exact StillX.refl _)
    | (simp only [StillX.same])
    | (with_reducible refine StillX.of_ite (fun _ => ?_) (fun _ => ?_))
    | (with_reducible intro _)

theorem State.stopAt_still {s0 s : State} {a0 : CtxNo} {a1 : Nat} (h : Still s0 s) :
    Still s0 (State.stopAt a0 a1 s) := by
  unfold State.stopAt
  repeat' first
    | (with_reducible assumption)
    | (with_reducible apply State.dropInput_still)
    | (with_reducible apply State.modSlot_still)

theorem State.boundary_still {s0 s : State} {a0 : CtxNo} (h : Still s0 s) :
    Still s0 (State.boundary a0 s) := by
  unfold State.boundary
  repeat' first
    | (with_reducible assumption)
    | (with_reducible apply State.crossBoundary_still)
    | (with_reducible apply State.snapBoundary_still)
    | (with_reducible apply State.stopAt_still)
    | (simp only [StillX.same])
    | (with_reducible refine Still.of_ite (fun _ => ?_) (fun _ => ?_))
    | split

theorem State.countSeats_still {s0 s : State} {a0 : CtxNo} {a1 : Nat} (h : Still s0 s) :
    Still s0 (State.countSeats a0 a1 s) := by
  unfold State.countSeats
  repeat' first
    | (with_reducible assumption)
    | (with_reducible apply State.addCnt_still)
    | (simp only [StillX.same])
    | (with_reducible refine Still.of_ite (fun _ => ?_) (fun _ => ?_))
    | split

theorem State.unitStarts_still {s0 s : State} {a0 : CtxNo} {a1 : Nat} (h : Still s0 s) :
    Still s0 (State.unitStarts a0 a1 s).1 := by
  unfold State.unitStarts
  repeat' first
    | (with_reducible assumption)
    | (with_reducible apply Session.triggersAt_still)
    | (with_reducible apply State.blitStart_still)
    | (with_reducible apply State.dmaStart_still)
    | (with_reducible apply State.modSes_still)
    | (with_reducible exact StillX.refl _)
    | (simp only [StillX.same])
    | (with_reducible refine Still.of_pair ‹_ = (_, _)› ?_)
    | (with_reducible refine Still.of_iteP (fun _ => ?_) (fun _ => ?_))
    | (with_reducible intro _)
    | split

theorem State.unitPreAt_still {s0 s : State} {a0 : CtxNo} {a1 : Nat} (h : Still s0 s) :
    Still s0 (State.unitPreAt a0 a1 s).1 := by
  unfold State.unitPreAt
  repeat' first
    | (with_reducible assumption)
    | (with_reducible apply State.modSes_still)
    | (with_reducible apply State.unitStarts_still)
    | (with_reducible exact StillX.refl _)
    | (simp only [StillX.same])
    | (with_reducible refine Still.of_pair ‹_ = (_, _)› ?_)
    | (with_reducible refine Still.of_iteP (fun _ => ?_) (fun _ => ?_))
    | (with_reducible intro _)
    | split

theorem State.unitLands_still {s0 s : State} {a0 : CtxNo} {a1 : Nat} (h : Still s0 s) :
    Still s0 (State.unitLands a0 a1 s).1 := by
  unfold State.unitLands
  repeat' first
    | (with_reducible assumption)
    | (with_reducible apply Session.endBlit_still)
    | (with_reducible apply State.blitLand_still)
    | (with_reducible apply State.dmaLand_still)
    | (with_reducible apply State.modSes_still)
    | (with_reducible exact StillX.refl _)
    | (simp only [StillX.same])
    | (with_reducible refine Still.of_pair ‹_ = (_, _)› ?_)
    | (with_reducible refine Still.of_iteP (fun _ => ?_) (fun _ => ?_))
    | (with_reducible intro _)
    | split

theorem State.unitsLoop_still {s0 s : State} {a0 : CtxNo} {a1 a2 : Nat} (h : Still s0 s) :
    Still s0 (State.unitsLoop a0 a1 a2 s) := by
  induction a2 generalizing s with
  | zero =>
    unfold State.unitsLoop
    repeat' first
      | (with_reducible assumption)
      | (with_reducible apply ih)
      | (with_reducible apply State.backOut_still)
      | (with_reducible apply State.modSes_still)
      | (with_reducible apply State.unitLands_still)
      | (with_reducible apply State.unitPreAt_still)
      | (with_reducible exact StillX.refl _)
      | (simp only [StillX.same])
      | (with_reducible refine Still.of_pair ‹_ = (_, _)› ?_)
      | (with_reducible refine Still.of_ite (fun _ => ?_) (fun _ => ?_))
      | (with_reducible intro _)
      | split
  | succ n ih =>
    unfold State.unitsLoop
    repeat' first
      | (with_reducible assumption)
      | (with_reducible apply ih)
      | (with_reducible apply State.backOut_still)
      | (with_reducible apply State.modSes_still)
      | (with_reducible apply State.unitLands_still)
      | (with_reducible apply State.unitPreAt_still)
      | (with_reducible exact StillX.refl _)
      | (simp only [StillX.same])
      | (with_reducible refine Still.of_pair ‹_ = (_, _)› ?_)
      | (with_reducible refine Still.of_ite (fun _ => ?_) (fun _ => ?_))
      | (with_reducible intro _)
      | split

theorem State.unitsTo_still {s0 s : State} {a0 : CtxNo} {a1 : Nat} (h : Still s0 s) :
    Still s0 (State.unitsTo a0 a1 s) := by
  unfold State.unitsTo
  repeat' first
    | (with_reducible assumption)
    | (with_reducible apply State.unitsLoop_still)
    | (with_reducible refine Still.of_ite (fun _ => ?_) (fun _ => ?_))

theorem State.unitsBefore_still {s0 s : State} {a0 : CtxNo} {a1 : Nat} (h : Still s0 s) :
    Still s0 (State.unitsBefore a0 a1 s) := by
  unfold State.unitsBefore
  repeat' first
    | (with_reducible assumption)
    | (with_reducible apply State.unitPreAt_still)
    | (with_reducible apply State.unitsTo_still)
    | (simp only [StillX.same])
    | (with_reducible refine Still.of_ite (fun _ => ?_) (fun _ => ?_))

theorem State.stand_still {s0 s : State} {a0 : CtxNo} (h : Still s0 s) :
    Still s0 (State.stand a0 s) := by
  unfold State.stand
  repeat' first
    | (with_reducible assumption)
    | (with_reducible apply State.boundary_still)
    | (with_reducible apply State.countFreeze_still)
    | (with_reducible apply State.soundDue_still)
    | (with_reducible apply State.unitsTo_still)
    | (with_reducible refine Still.of_ite (fun _ => ?_) (fun _ => ?_))

theorem State.fetchLine_still {s0 s : State} {a0 : Cpu} {a1 : Nat} (h : Still s0 s) :
    Still s0 (State.fetchLine a0 a1 s).1 := by
  unfold State.fetchLine
  split
  · refine Still.foldlP (fun z b hz => ?_) _ (Still.of_ite (fun _ => h) (fun _ => State.fillAhead_still h))
    split
    · exact State.cRead_still hz
    · exact hz
  · exact h

end

end Sys2Proof.Machine

/-! ## Cycles that pass, and faults (R121, R141, R144)

That cycles which may pass move the count of cycles on, and with it what an instruction leaves that raises a fault. -/

namespace Sys2Proof.Machine

open Sys2Proof Sys2Proof.Claims

section
variable {s t : State} {p : Cpu} {c : CtxNo}

theorem Still.sameCpu (h : Still s t) : SameCpu s t :=
  ⟨h.waits, fun w c => by simpa [Function.comp_def] using congrArg (Option.map fun e => e.1.core) (h.ses w c),
    fun w k => congrArg CpuState.core (h.keeper w k)⟩

theorem Still.has (h : Still s t) (w : s.noneWaits) : t.has p ↔ s.has p := h.sameCpu.has w

/-! ### One pass of `k` cycles -/

theorem Session.cyclesIn_now (vclk k : Nat) (x : Session) : (x.cyclesIn vclk k).cpu.now = x.cpu.now + k := rfl

theorem State.sesCycles_has {k : Nat} : (s.sesCycles c k).has p ↔ s.has p := by
  cases p with
  | keeper _ => exact Iff.rfl
  | session c' =>
    show ((s.sesCycles c k).ses c').isSome = true ↔ (s.ses c').isSome = true
    rw [State.sesCycles, State.ses_modSes]
    split
    · next h => subst h; rw [Option.isSome_map]
    · rfl

theorem State.sesCycles_now {k : Nat} (has : s.has (.session c)) :
    ((s.sesCycles c k).cpu (.session c)).now = (s.cpu (.session c)).now + k := by
  obtain ⟨x, hx⟩ := Option.isSome_iff_exists.mp has
  simp only [State.cpu, State.sesD, State.sesCycles, State.ses_modSes, if_true, hx, Option.map_some, Session.cyclesIn_now]

/-- The processor's session stands, no command waits, and its count is `n`. -/
structure State.At (s : State) (c : CtxNo) (n : Nat) : Prop where
  quiet : s.noneWaits
  has : s.has (.session c)
  now : (s.cpu (.session c)).now = n

theorem Still.at {n : Nat} (h : Still s t) (a : s.At c n) : t.At c n :=
  ⟨h.waits a.quiet, (h.has a.quiet).mpr a.has, by rw [h.cpu a.quiet]; exact a.now⟩

theorem State.At.passPre {n : Nat} (a : s.At c n) (k : Nat) : (s.passPre c k).At c (n + k) := by
  have seats := (State.countSeats_still (a0 := c) (a1 := k) (.refl s)).at a
  have cycled : ((s.countSeats c k).sesCycles c k).At c (n + k) :=
    ⟨seats.quiet, State.sesCycles_has.mpr seats.has, by rw [State.sesCycles_now seats.has, seats.now]⟩
  unfold State.passPre
  exact (State.unitsBefore_still (State.beamDue_still (.refl _))).at cycled

theorem State.At.passPost {n : Nat} (a : s.At c n) : (s.passPost c).At c n := by
  have still := (State.soundDue_still (a0 := c) (State.unitsTo_still (a0 := c) (a1 := s.lastCycle c) (.refl s))).at a
  obtain ⟨x, hx⟩ := Option.isSome_iff_exists.mp still.has
  have woken : (s.passPost c).ses c = some { x with cpu := x.cpu.wakes x.int } := by
    rw [State.passPost, State.ses_modSes, if_pos rfl, hx]
    rfl
  have same (i : IntSt) (u : CpuState) : (u.wakes i).now = u.now := by
    unfold CpuState.wakes
    split <;> rfl
  refine ⟨still.quiet, Option.isSome_iff_exists.mpr ⟨_, woken⟩, ?_⟩
  rw [← still.now]
  simp only [State.cpu, State.sesD, woken, hx, same]

theorem State.At.stand {n : Nat} (a : s.At c n) : (s.stand c).At c n := (State.stand_still (.refl s)).at a

/-! ### Time goes on where it does not stand -/

/-- Cycles to the next event of a context's session. -/
def State.nextEvent (s : State) (c : CtxNo) : Nat := s.sesD c 1 (·.toEvent (s.ctxBandH c) (s.ctx c).vclk.toNat)

theorem State.nextEvent_pos (s : State) (c : CtxNo) : 1 ≤ s.nextEvent c := by
  unfold State.nextEvent State.sesD
  split
  · exact Nat.le_max_left ..
  · exact le_refl 1

theorem State.passWhile_zero (go : State → Bool) (fuel : Nat) (s : State) : s.passWhile c go fuel 0 = s := by
  cases fuel <;> simp [State.passWhile]

theorem State.passWhile_stops {fuel n : Nat} (stops : (s.stand c).runs c ≠ true) :
    s.passWhile c (fun _ => true) (fuel + 1) (n + 1) = s.stand c := by
  simp only [State.passWhile, Nat.succ_ne_zero, if_false, Bool.and_true, if_neg stops]

theorem State.passWhile_goes {fuel n : Nat} (goes : (s.stand c).runs c = true) :
    s.passWhile c (fun _ => true) (fuel + 1) (n + 1) =
      (((s.stand c).passPre c (min (n + 1) ((s.stand c).nextEvent c))).passPost c).passWhile c (fun _ => true) fuel
        (n + 1 - min (n + 1) ((s.stand c).nextEvent c)) := by
  simp only [State.passWhile, Nat.succ_ne_zero, if_false, Bool.and_true, if_pos goes, State.nextEvent]

/-- Where `n` cycles pass, and the next may pass too, one more than `n` pass. -/
theorem State.At.passWhile_succ (fuel : Nat) : ∀ (n : Nat) {m : Nat} {s : State}, s.At c m → n ≤ fuel →
    m + n ≤ ((s.passWhile c (fun _ => true) fuel n).cpu (.session c)).now →
    ((s.passWhile c (fun _ => true) fuel n).stand c).runs c = true →
    m + (n + 1) ≤ ((s.passWhile c (fun _ => true) (fuel + 1) (n + 1)).cpu (.session c)).now := by
  have advance (k : Nat) {m : Nat} {s : State} (a : s.At c m) : ((s.passPre c k).passPost c).At c (m + k) := (a.passPre k).passPost
  have first (f : Nat) {m : Nat} {s : State} (a : s.At c m) (runs : (s.stand c).runs c = true) :
      m + (0 + 1) ≤ ((s.passWhile c (fun _ => true) (f + 1) (0 + 1)).cpu (.session c)).now := by
    have one := (s.stand c).nextEvent_pos c
    have all : min (0 + 1) ((s.stand c).nextEvent c) = 1 := by omega
    rw [State.passWhile_goes runs, all, Nat.zero_add, Nat.sub_self, State.passWhile_zero, (advance _ a.stand).now]
  induction fuel with
  | zero =>
    intro n m s a le _ runs
    obtain rfl : n = 0 := by omega
    rw [State.passWhile_zero] at runs
    exact first 0 a runs
  | succ fuel ih =>
    intro n m s a le reached runs
    cases n with
    | zero =>
      rw [State.passWhile_zero] at runs
      exact first (fuel + 1) a runs
    | succ n =>
      by_cases go : (s.stand c).runs c = true
      · have one := (s.stand c).nextEvent_pos c
        rw [State.passWhile_goes go] at reached runs ⊢
        generalize (s.stand c).nextEvent c = ev at *
        by_cases far : n + 2 ≤ ev
        · have all : min (n + 1 + 1) ev = n + 1 + 1 := by omega
          rw [all, Nat.sub_self, State.passWhile_zero, (advance _ a.stand).now]
        · have same : min (n + 1 + 1) ev = min (n + 1) ev := by omega
          have left : n + 1 + 1 - min (n + 1) ev = n + 1 - min (n + 1) ev + 1 := by omega
          rw [same, left]
          have more := ih (n + 1 - min (n + 1) ev) (advance (min (n + 1) ev) a.stand) (by omega) (by omega) runs
          omega
      · rw [State.passWhile_stops go, a.stand.now] at reached
        omega

/-- Where virtual time reaches a cycle and the next may pass, it reaches the next. -/
theorem State.cpuUntil_succ {m : Nat} (w : s.noneWaits) (has : s.has p) (reached : (s.cpuUntil p ((s.cpu p).now + m)).2 = true)
    (poised : ((s.cpuUntil p ((s.cpu p).now + m)).1.poised p).2 = true) : (s.cpuUntil p ((s.cpu p).now + m + 1)).2 = true := by
  cases p with
  | keeper _ => rfl
  | session c =>
    have n0 : (s.cpu (.session c)).now + m - (s.cpu (.session c)).now = m := by omega
    have n1 : (s.cpu (.session c)).now + m + 1 - (s.cpu (.session c)).now = m + 1 := by omega
    simp only [State.cpuUntil, State.poised, decide_eq_true_eq, n0] at reached poised
    simp only [State.cpuUntil, decide_eq_true_eq, n1]
    exact State.At.passWhile_succ m m ⟨w, has, rfl⟩ (le_refl m) reached poised

/-! ### An instruction that issues -/

theorem State.begins_still (p : Cpu) (len : Nat) : Still s (s.begins p len) := by
  have fetched := State.fetchLine_still (a0 := p) (a1 := len) (.refl s)
  unfold State.begins State.spendFast
  split
  · exact State.spend_still fetched
  · exact fetched

/-- An instruction that issues finds its words, and goes on from there. -/
theorem State.Issues.run_eq {o : Op} (h : s.Issues p o.len) : s.run p o = (s.fetchLine p o.len).1.issue p o := by
  have line : s.fetchLine p o.len = ((s.fetchLine p o.len).1, true) := Prod.ext rfl h.line
  have coded : (s.fetchLine p o.len).1.asEncoded p o = o := by rw [State.asEncoded, h.coded]; rfl
  unfold State.run
  rw [State.poised_active (State.mayIssue_active h.issues)]
  dsimp only
  rw [State.mayIssue_seq h.issues, h.issues, h.words, h.first, line]
  dsimp only
  rw [coded]
  cases slot : (s.cpu p).slot with
  | none => simp only [Option.isSome_none, Bool.and_false, Bool.false_eq_true, if_false, Bool.not_true]
  | some d => simp only [h.kept d slot, Option.isSome_none, Bool.and_false, Bool.false_eq_true, if_false, Bool.not_true]

/-- The cycles an instruction waits before it raises a fault: none before ILLEGAL and ILLEGAL_SLOT. -/
def CpuState.faultWait (u : CpuState) (o : Op) (f : FaultInfo) : Nat := if f.code ≤ 2 then 0 else u.waitFor o

/-- An instruction that raises a fault takes it after its issue cycle and what it waits before. -/
theorem State.Ready.faults {o : Op} {f : FaultInfo} (h : s.Ready p o.len 1) (fault : (s.cpu p).faultOf o = some f)
    (wait : ((s.begins p o.len).cpu p).faultWait o f ≤ ((s.begins p o.len).cpu p).longest) :
    ∃ n, (s.cpu p).now < n ∧ s.instr p o = .next (((((s.begins p o.len).cpuUntil p n).1).modCpu p
      (fun u => { u with issued := none })).takeFault p f) := by
  have still := s.begins_still p o.len
  have cpu := still.cpu h.quiet p
  have fetched : (s.fetchLine p o.len).1.cpu p = s.cpu p := (State.fetchLine_still (.refl s)).cpu h.quiet p
  generalize wait_eq : ((s.begins p o.len).cpu p).faultWait o f = k at wait
  have issue : (s.fetchLine p o.len).1.issueOf p o = { first := (s.cpu p).now + k, total := 1, half := none } := by
    simp only [← wait_eq, cpu, CpuState.faultWait, State.issueOf, fetched, fault]
  obtain ⟨reached, poised⟩ := h.time k (by omega)
  have passes := State.cpuUntil_succ (still.waits h.quiet) ((still.has h.quiet).mpr h.has) reached poised
  rw [cpu] at passes
  refine ⟨(s.cpu p).now + k + 1, by omega, ?_⟩
  have ended : (s.begins p o.len).cpuUntil p ((s.cpu p).now + k + 1) =
      (((s.begins p o.len).cpuUntil p ((s.cpu p).now + k + 1)).1, true) := Prod.ext rfl passes
  rw [State.instr, h.toIssues.run_eq, State.issue, issue, fetched, h.first]
  simp only [Option.getD_none, Option.isNone_none, if_true, fault]
  show _ = Host.Outcome.next _
  unfold State.faultOn
  dsimp only
  rw [show (s.fetchLine p o.len).1.spendFast p = s.begins p o.len from rfl, ended]

end

/-- An instruction that raises a fault wherever a condition holds. -/
theorem faultsIf_of {i : Instr} {p : Cpu} {len : Nat} {o : State → Op} {cond : State → Prop} {f : FaultInfo}
    (is : ∀ s, exec i s = s.instr p (o s)) (words : ∀ s, (o s).len = len)
    (fault : ∀ s : State, cond s → s.Ready p len 1 → (s.cpu p).faultOf (o s) = some f)
    (wait : ∀ s : State, s.Ready p len 1 → ((s.begins p len).cpu p).faultWait (o s) f ≤ ((s.begins p len).cpu p).longest) :
    faultsIf i p len cond f := by
  intro s held ready
  have ready' := ready
  rw [← words s] at ready'
  obtain ⟨n, later, ran⟩ := ready'.faults (fault s held ready) (by rw [words]; exact wait s ready)
  rw [words] at ran
  exact ⟨n, later, (is s).trans ran⟩

/-- ILLEGAL is seen before any wait. -/
theorem faultsIf_illegal {i : Instr} {p : Cpu} {len : Nat} {o : State → Op} {cond : State → Prop}
    (is : ∀ s, exec i s = s.instr p (o s)) (words : ∀ s, (o s).len = len) (fault : ∀ s, cond s → (o s).fault = some faultIllegal) :
    faultsIf i p len cond faultIllegal := by
  refine faultsIf_of is words (fun s held _ => ?_) (fun s _ => Nat.zero_le _)
  simp [CpuState.faultOf, fault s held]

end Sys2Proof.Machine

/-! ## Multiplies, divides and system moves (R113, R126, R149, R153, R162)

Operations on a pair of registers, the divide fault, the moves of status, index and segment registers, and the writes of ST. -/

namespace Sys2Proof.Machine

open Sys2Proof Sys2Proof.Claims

/-- Operation `o`, straight-line, without waits and faults where `cond` holds. -/
theorem runsToIf_of_own {i : Instr} {p : Cpu} {len count : Nat} {o : State → Op} {cond : State → Prop}
    {g : State → CpuState → CpuState} {v : CpuState → CpuState} (own : ∀ s, (o s).Own p (g s)) (is : ∀ s, exec i s = s.instr p (o s))
    (words : ∀ s, (o s).len = len) (cycles : ∀ s, (o s).cycles = count) (stall : ∀ s, (o s).stall = 0)
    (fault : ∀ s, cond s → (o s).fault = none) (straight : ∀ s, (o s).transfer = none)
    (leaves : ∀ s, cond s →
      { g s { s.cpu p with loadOld := [] } with slot := none, shadow := (o s).isLoad } = v (s.cpu p)) :
    runsToIf i p len count cond v := by
  intro s held ready
  rw [← words s] at ready
  obtain ⟨t, ran, left⟩ := (own s).instr ready (cycles s) (by rw [stall]; exact Nat.zero_le _)
    (CpuState.faultOf_none (fault s held) (straight s))
  rw [straight, words, leaves s held] at left
  exact ⟨t, (is s).trans ran, left⟩

/-! ### Pairs of registers -/

theorem pairOp_own (len latency : Nat) (reads : List ScoreTarget) (d : RegNo) (hi lo : Word) (f : Flags) (p : Cpu) :
    (pairOp len latency reads d hi lo f p).Own p (fun u => ((u.write d hi).write (regAfter d 1) lo).withFlags f) :=
  ⟨rfl, rfl, rfl, fun _ => rfl, fun _ _ => rfl, fun _ => rfl, fun _ => rfl, fun _ => rfl, fun _ => rfl, fun _ => rfl⟩

section
variable {i : Instr} {p : Cpu} {len latency : Nat} {reads : List ScoreTarget} {d : RegNo} {r : CpuState → Nat} {ov : CpuState → Bool}

/-- A 32-bit result in a pair, with the flags of all 32 bits. -/
theorem runsTo_pairOp {x : CpuState → BitVec 32} {v : CpuState → CpuState} (below : d ≠ 15) (value : ∀ u, (x u).toNat = r u)
    (leaves : ∀ u, withPair d (x u) (ov u) u = v u)
    (is : ∀ s, exec i s = s.instr p (pairOp len latency reads d (BitVec.ofNat 16 (r (s.cpu p) / 65536))
      (BitVec.ofNat 16 (r (s.cpu p))) (pairFlags (r (s.cpu p)) (ov (s.cpu p))) p)) : runsTo i p len len v := by
  refine runsTo_of_own (o := fun u => pairOp len latency reads d (BitVec.ofNat 16 (r u / 65536)) (BitVec.ofNat 16 (r u))
    (pairFlags (r u) (ov u)) p) (fun u => pairOp_own ..) is (fun _ => rfl) (fun _ => rfl) (fun _ => rfl) (fun _ => if_neg below)
    (fun _ => rfl) (fun u => ?_)
  have z : (r u == 0) = (x u == 0) := by
    rw [← value, Bool.eq_iff_iff, beq_iff_eq, beq_iff_eq, ← BitVec.toNat_inj]
    rfl
  have n : (r u).testBit 31 = (x u).msb := by
    rw [← value, BitVec.msb_eq_getLsbD_last]
    rfl
  have hi : BitVec.ofNat 16 (r u / 65536) = (x u).extractLsb' 16 16 := by
    rw [← value, show 65536 = 2 ^ 16 from rfl, ← Nat.shiftRight_eq_div_pow]
    rfl
  have lo : BitVec.ofNat 16 (r u) = (x u).extractLsb' 0 16 := by
    rw [← value]
    rfl
  rw [← leaves, withPair, pairFlags, z, n, hi, lo]
  rfl

theorem faultsIf_pairOp {reads : List ScoreTarget} {hi lo : State → Word} {f : State → Flags} {len : Nat}
    (is : ∀ s, exec i s = s.instr p (pairOp len latency reads d (hi s) (lo s) (f s) p)) (last : d = 15) :
    faultsIf i p len (fun _ => True) faultIllegal :=
  faultsIf_illegal is (fun _ => rfl) (fun _ _ => if_pos last)

end

theorem pairOf_toNat (u : CpuState) (d : RegNo) : (pairOf u d).toNat = u.pair d := by
  rw [pairOf, BitVec.toNat_append, ← Nat.shiftLeft_add_eq_or_of_lt (BitVec.isLt _), Nat.shiftLeft_eq]
  rfl

theorem pairOf_toInt (u : CpuState) (d : RegNo) : (pairOf u d).toInt = u.acc d := by
  have lt := (pairOf u d).isLt
  rw [BitVec.toInt_eq_toNat_cond, CpuState.acc, sext, ← pairOf_toNat]
  generalize (pairOf u d).toNat = n at *
  split_ifs <;> omega

theorem ofInt32_toNat (i : Int) : (BitVec.ofInt 32 i).toNat = (i % (2 ^ 32 : Nat)).toNat := BitVec.toNat_ofInt i

/-- A multiply-accumulate, from its new accumulator and its V. -/
theorem runsTo_macc {i : Instr} {p : Cpu} {d a b : RegNo} {r : CpuState → Nat} {ov : CpuState → Bool} {x : CpuState → BitVec 32}
    {v : CpuState → CpuState} (below : d ≠ 15) (value : ∀ u, (x u).toNat = r u) (leaves : ∀ u, withPair d (x u) (ov u) u = v u)
    (is : ∀ s, exec i s = s.macc p d a b (r (s.cpu p)) (ov (s.cpu p))) : runsTo i p 2 2 v :=
  runsTo_pairOp (latency := 2) (reads := [.reg d, .reg (regAfter d 1), .reg a, .reg b]) below value leaves is

/-- The operation of MULL, from the registers it starts from. -/
def mullOp (p : Cpu) (d r : RegNo) (u : CpuState) : Op :=
  let v := (u.read d).toInt * (u.read r).toInt
  let w := ofIntW v
  let f : Flags := { z := w == 0, n := wbit w 15, c := false, v := decide (v < -32768 ∨ 32767 < v) }
  { Op.nop with
    reads := [.reg d, .reg r], writes := [.reg d, .status], late := [(.reg d, 3), (.status, 3)]
    effect := fun t => (t.modCpu p (fun x => (x.write d w).withFlags f), true) }

theorem mullOp_own (p : Cpu) (d r : RegNo) (u : CpuState) : (mullOp p d r u).Own p (fun x =>
    (x.write d (ofIntW ((u.read d).toInt * (u.read r).toInt))).withFlags
      { z := ofIntW ((u.read d).toInt * (u.read r).toInt) == 0, n := wbit (ofIntW ((u.read d).toInt * (u.read r).toInt)) 15
        c := false
        v := decide ((u.read d).toInt * (u.read r).toInt < -32768 ∨ 32767 < (u.read d).toInt * (u.read r).toInt) }) :=
  ⟨rfl, rfl, rfl, fun _ => rfl, fun _ _ => rfl, fun _ => rfl, fun _ => rfl, fun _ => rfl, fun _ => rfl, fun _ => rfl⟩

theorem ofIntW_mul (a b : Word) : ofIntW (a.toInt * b.toInt) = a * b := by
  rw [ofIntW, BitVec.ofInt_mul, BitVec.ofInt_toInt, BitVec.ofInt_toInt]

/-- The clamped accumulator of MACF, as a word of 32 bits, and whether it was clamped (R153). -/
theorem sat32_toNat (t : Int) :
    (sat32 t).toNat = (clampInt (-(2 ^ 31 : Nat)) ((2 ^ 31 : Nat) - 1) t % (2 ^ 32 : Nat)).toNat := by
  unfold sat32 clampInt
  by_cases low : t < -(2 ^ 31)
  · rw [if_pos low, if_pos (by omega)]
    rfl
  · by_cases high : 2 ^ 31 ≤ t
    · rw [if_neg low, if_pos high, if_neg (by omega), if_pos (by omega)]
      rfl
    · rw [if_neg low, if_neg high, if_neg (by omega), if_neg (by omega)]
      exact ofInt32_toNat _

theorem clamp_ne_iff (t : Int) : clampInt (-(2 ^ 31 : Nat)) ((2 ^ 31 : Nat) - 1) t ≠ t ↔ t < -(2 ^ 31) ∨ 2 ^ 31 ≤ t := by
  unfold clampInt
  split_ifs <;> omega

/-- Settles O6: each form is a result in a pair, or in one register for MULL; the pair past w15 is ILLEGAL. -/
theorem multiplyResults : Obligations.MultiplyResults := by
  intro p d a b
  refine ⟨fun below => ?_, fun below => ?_, ?_, fun below => ?_, fun below => ?_, fun below => ?_, fun last => ?_⟩
  · exact runsTo_pairOp (ov := fun _ => false) (x := fun u => BitVec.ofInt 32 ((u.read d).toInt * (u.read a).toInt)) below
      (fun _ => ofInt32_toNat _) (fun _ => rfl) (fun _ => rfl)
  · refine runsTo_pairOp (r := fun u => (u.read d).toNat * (u.read a).toNat) (ov := fun _ => false)
      (x := fun u => BitVec.ofNat 32 ((u.read d).toNat * (u.read a).toNat)) below (fun u => ?_) (fun _ => rfl) (fun _ => rfl)
    have := Nat.mul_lt_mul'' (u.read d).isLt (u.read a).isLt
    exact Nat.mod_eq_of_lt this
  · refine runsTo_of_own (o := mullOp p d a) (mullOp_own p d a) (fun _ => rfl) (fun _ => rfl) (fun _ => rfl) (fun _ => rfl)
      (fun _ => rfl) (fun _ => rfl) (fun u => ?_)
    rw [ofIntW_mul]
    rfl
  · refine runsTo_macc (a := a) (b := b) (x := fun u => BitVec.ofInt 32 ((pairOf u d).toInt + (u.read a).toInt * (u.read b).toInt)) below
      (fun u => ofInt32_toNat _) (fun _ => rfl) (fun s => ?_)
    rw [pairOf_toInt]
    rfl
  · refine runsTo_macc (a := a) (b := b) (x := fun u => BitVec.ofNat 32 ((pairOf u d).toNat + (u.read a).toNat * (u.read b).toNat)) below
      (fun u => BitVec.toNat_ofNat ..) (fun _ => rfl) (fun s => ?_)
    rw [pairOf_toNat]
    rfl
  · refine runsTo_macc (a := a) (b := b) (x := fun u => sat32 ((pairOf u d).toInt + 2 * (u.read a).toInt * (u.read b).toInt)) below
      (ov := fun u => over32 ((pairOf u d).toInt + 2 * (u.read a).toInt * (u.read b).toInt))
      (fun u => sat32_toNat _) (fun _ => rfl) (fun s => ?_)
    simp only [over32, ← clamp_ne_iff, pairOf_toInt, mul_assoc]
    rfl
  · exact ⟨faultsIf_pairOp (fun _ => rfl) last, faultsIf_pairOp (fun _ => rfl) last, faultsIf_pairOp (fun _ => rfl) last,
      faultsIf_pairOp (fun _ => rfl) last, faultsIf_pairOp (fun _ => rfl) last⟩

/-! ### Divides -/

/-- What a divide of `x` by the divisor `y` gives: the quotient and the remainder, or those of a zero divisor. -/
theorem divideOp_own (p : Cpu) (d r : RegNo) (hi lo : Word) (f : Flags) (fault : Option FaultInfo) :
    ({ pairOp 1 18 [.reg d, .reg r] d hi lo f p with fault := fault }).Own p
      (fun u => ((u.write d hi).write (regAfter d 1) lo).withFlags f) :=
  ⟨rfl, rfl, rfl, fun _ => rfl, fun _ _ => rfl, fun _ => rfl, fun _ => rfl, fun _ => rfl, fun _ => rfl, fun _ => rfl⟩

section
variable {i : Instr} {p : Cpu} {d a : RegNo} {q m : State → Word} {vs : State → Bool}

/-- The operation of a divide. -/
def State.divideOp (p : Cpu) (d r : RegNo) (q m : Word) (v : Bool) (s : State) : Op :=
  let u := s.cpu p
  let zero := u.read r == 0
  let quot := if zero then 0xFFFF#16 else q
  let f : Flags := { z := quot == 0, n := wbit quot 15, c := false, v := zero || v }
  { pairOp 1 18 [.reg d, .reg r] d quot (if zero then u.read d else m) f p with
    fault := if d = 15 then some faultIllegal else if zero && !s.divz p then some faultDiv else none }

/-- A divide by a divisor that is not zero. -/
theorem runsToIf_divide {q' m' : CpuState → Word} {o' : CpuState → Bool} (below : d ≠ 15)
    (quot : ∀ s, q s = q' (s.cpu p)) (rem : ∀ s, m s = m' (s.cpu p)) (v : ∀ s, vs s = o' (s.cpu p))
    (is : ∀ s, exec i s = s.instr p (s.divideOp p d a (q s) (m s) (vs s))) :
    runsToIf i p 1 1 (fun s => (s.cpu p).read a ≠ 0) (fun u => withQuotient d (q' u) (m' u) (o' u) u) := by
  have divisor {s : State} (nonzero : (s.cpu p).read a ≠ 0) : ((s.cpu p).read a == 0) = false := by simpa using nonzero
  refine runsToIf_of_own (fun s => divideOp_own ..) is (fun _ => rfl) (fun _ => rfl) (fun _ => rfl) (fun s nonzero => ?_)
    (fun _ => rfl) (fun s nonzero => ?_)
  · simpa [below] using fun zero => absurd zero nonzero
  · simp only [divisor nonzero, Bool.false_eq_true, if_false, Bool.false_or, ← quot, ← rem, ← v]
    rfl

/-- A divide by zero where DIVZ lets it give a result (R140). -/
theorem runsToIf_divide_zero (below : d ≠ 15) (is : ∀ s, exec i s = s.instr p (s.divideOp p d a (q s) (m s) (vs s))) :
    runsToIf i p 1 1 (fun s => (s.cpu p).read a = 0 ∧ s.divz p = true) (fun u => withQuotient d 0xFFFF (u.read d) true u) := by
  refine runsToIf_of_own (fun s => divideOp_own ..) is (fun _ => rfl) (fun _ => rfl) (fun _ => rfl) (fun s held => ?_)
    (fun _ => rfl) (fun s held => ?_)
  · simp [below, held.2]
  · simp only [held.1, beq_self_eq_true, if_true, Bool.true_or]
    rfl

/-- A divide by zero that faults. -/
theorem faultsIf_divide_zero (below : d ≠ 15) (is : ∀ s, exec i s = s.instr p (s.divideOp p d a (q s) (m s) (vs s))) :
    faultsIf i p 1 (fun s => (s.cpu p).read a = 0 ∧ s.divz p = false) faultDiv := by
  refine faultsIf_of is (fun _ => rfl) (fun s held _ => ?_) (fun s _ => CpuState.waitFor_le (Nat.zero_le _))
  simp [CpuState.faultOf, State.divideOp, pairOp, Op.nop, below, held.1, held.2]

theorem faultsIf_divide_illegal (last : d = 15) (is : ∀ s, exec i s = s.instr p (s.divideOp p d a (q s) (m s) (vs s))) :
    faultsIf i p 1 (fun _ => True) faultIllegal :=
  faultsIf_illegal is (fun _ => rfl) (fun _ _ => if_pos last)

end

section
variable (a b : Word)

theorem ofIntW_tdiv : ofIntW (a.toInt.tdiv b.toInt) = a.sdiv b := by
  apply BitVec.eq_of_toInt_eq
  rw [ofIntW, BitVec.toInt_ofInt, BitVec.toInt_sdiv]

theorem ofIntW_tmod : ofIntW (a.toInt.tmod b.toInt) = a.srem b := by
  rw [ofIntW, ← BitVec.toInt_srem, BitVec.ofInt_toInt]

theorem ofNat_div : BitVec.ofNat 16 (a.toNat / b.toNat) = a.udiv b := by
  apply BitVec.eq_of_toNat_eq
  rw [BitVec.udiv_eq, BitVec.toNat_udiv, BitVec.toNat_ofNat]
  exact Nat.mod_eq_of_lt (lt_of_le_of_lt (Nat.div_le_self _ _) a.isLt)

theorem ofNat_mod : BitVec.ofNat 16 (a.toNat % b.toNat) = a.umod b := by
  apply BitVec.eq_of_toNat_eq
  rw [BitVec.umod_eq, BitVec.toNat_umod, BitVec.toNat_ofNat]
  exact Nat.mod_eq_of_lt (lt_of_le_of_lt (Nat.mod_le _ _) a.isLt)

theorem toInt_eq_neg : (a.toInt = -32768 ∧ b.toInt = -1) ↔ a = 0x8000 ∧ b = 0xFFFF := by
  rw [← BitVec.toInt_inj (x := a), ← BitVec.toInt_inj (x := b)]
  rfl

end

/-- Settles O7: the divides by a divisor that is not zero, those by zero in either mode of DIVZ, and the pair past w15. -/
theorem divideResults : Obligations.DivideResults := by
  intro p d a
  refine ⟨fun below => ⟨?_, ?_, ?_, ?_, ?_, ?_⟩, fun last => ⟨?_, ?_⟩⟩
  · exact runsToIf_divide below (fun s => ofIntW_tdiv _ _) (fun s => ofIntW_tmod _ _)
      (fun s => decide_eq_decide.mpr (toInt_eq_neg _ _)) (fun _ => rfl)
  · exact runsToIf_divide below (fun s => ofNat_div _ _) (fun s => ofNat_mod _ _) (fun _ => rfl) (fun _ => rfl)
  · exact runsToIf_divide_zero below (fun _ => rfl)
  · exact runsToIf_divide_zero below (fun _ => rfl)
  · exact faultsIf_divide_zero below (fun _ => rfl)
  · exact faultsIf_divide_zero below (fun _ => rfl)
  · exact faultsIf_divide_illegal last (fun _ => rfl)
  · exact faultsIf_divide_illegal last (fun _ => rfl)

end Sys2Proof.Machine

/-! ## Moves of the system, pending mode writes, transfers, annulled slots, segment and index registers

R113, R123, R126, R135, R139, R149, R157, R158, R162, R164. -/

namespace Sys2Proof.Machine

open Sys2Proof Sys2Proof.Claims

/-! ### The mode-change distance, as one processor sees it (R126) -/

/-- A processor after a mode write has taken effect. -/
def CpuState.withMode (u : CpuState) : ModeTarget → CpuState
  | .yz b => { u with yz := b }
  | .il l => { u with il := l }
  | .ie b => { u with ie := b }
  | .io _ _ => u

/-- Its pending mode writes with one instruction less to go. -/
def CpuState.nearer (u : CpuState) : List ModeWrite := u.modePend.map (fun m => { m with left := m.left - 1 })

/-- A processor after one instruction more: the writes that are due have taken effect. -/
def CpuState.stepped (u : CpuState) : CpuState :=
  (u.nearer.filter (fun m => m.left == 0)).foldl (fun v m => v.withMode m.target)
    { u with modePend := u.nearer.filter (fun m => m.left != 0) }

section
variable {s : State} {p : Cpu}

theorem State.cpu_applyMode (m : ModeTarget) (has : s.has p) : (s.applyMode p m).cpu p = (s.cpu p).withMode m := by
  cases m with
  | yz b => exact (State.cpu_modCpu _ has).trans (if_pos rfl)
  | il l => exact (State.cpu_modCpu _ has).trans (if_pos rfl)
  | ie b => exact (State.cpu_modCpu _ has).trans (if_pos rfl)
  | io a v =>
    cases p with
    | session c =>
      simp only [State.cpu, State.applyMode, State.setForce, State.sesD, State.ses_modSes, if_true, CpuState.withMode]
      cases s.ses c <;> rfl
    | keeper k => simp [State.cpu, State.applyMode, State.setForce, State.keeper_modKeeper, CpuState.withMode]

theorem State.cpu_applyModes (l : List ModeWrite) : ∀ {s : State}, s.has p →
    (l.foldl (fun (s : State) m => s.applyMode p m.target) s).cpu p = l.foldl (fun v m => v.withMode m.target) (s.cpu p) := by
  induction l with
  | nil => exact fun _ => rfl
  | cons m l ih =>
    intro s has
    rw [List.foldl_cons, List.foldl_cons, ih ((State.applyMode_steps has).has has), State.cpu_applyMode _ has]

theorem State.cpu_stepModes (has : s.has p) : (s.stepModes p).cpu p = (s.cpu p).stepped := by
  rw [State.stepModes_eq, State.cpu_applyModes _ ((State.has_modCpu _).mpr has), State.cpu_modCpu _ has, if_pos rfl]
  rfl

@[simp] theorem CpuState.withMode_far (u : CpuState) (m : ModeTarget) : (u.withMode m).far = u.far := by cases m <;> rfl
@[simp] theorem CpuState.withMode_core (u : CpuState) (m : ModeTarget) : (u.withMode m).core = u.core.withMode m := by
  cases m <;> rfl

/-- Mode writes keep the far accesses outstanding. -/
theorem CpuState.stepped_far (u : CpuState) : u.stepped.far = u.far := by
  have keeps : ∀ (l : List ModeWrite) (v : CpuState), (l.foldl (fun v m => v.withMode m.target) v).far = v.far := by
    intro l
    induction l with
    | nil => exact fun _ => rfl
    | cons m l ih => exact fun v => (ih _).trans (v.withMode_far _)
  exact keeps _ _

/-- Mode writes do not look at the count of cycles. -/
theorem CpuState.stepped_core (u : CpuState) : u.stepped.core = u.core.stepped := by
  have keeps : ∀ (l : List ModeWrite) (v : CpuState),
      (l.foldl (fun v m => v.withMode m.target) v).core = l.foldl (fun v m => v.withMode m.target) v.core := by
    intro l
    induction l with
    | nil => exact fun _ => rfl
    | cons m l ih => exact fun v => by rw [List.foldl_cons, List.foldl_cons, ih, v.withMode_core]
  exact keeps _ _

/-- The processor whose instruction completes. -/
theorem State.cpu_commit {o : Op} {issue : Nat} (has : s.has p) (waits : s.noneWaits) :
    ∃ q, ((s.commit p o issue).cpu p).core = (CpuState.retire o issue { s.cpu p with prev := q }).stepped.core := by
  have first : ∃ q, (if s.isFast p then s.modCpu p (fun u => { u with prev := u.firstOf o issue }) else s).cpu p =
      { s.cpu p with prev := q } := by
    split
    · exact ⟨_, (State.cpu_modCpu _ has).trans (if_pos rfl)⟩
    · exact ⟨(s.cpu p).prev, rfl⟩
  have has1 : (if s.isFast p then s.modCpu p (fun u => { u with prev := u.firstOf o issue }) else s).has p := by
    split
    · exact (State.has_modCpu _).mpr has
    · exact has
  have waits1 : (if s.isFast p then s.modCpu p (fun u => { u with prev := u.firstOf o issue }) else s).noneWaits := by
    split
    · exact State.noneWaits_modCpu.mpr waits
    · exact waits
  obtain ⟨q, first⟩ := first
  refine ⟨q, ?_⟩
  unfold State.commit
  dsimp only
  generalize (if s.isFast p then s.modCpu p (fun u => { u with prev := u.firstOf o issue }) else s) = a at *
  have has2 : (a.modCpu p (·.retire o issue)).has p := (State.has_modCpu _).mpr has1
  have waits2 : (a.modCpu p (·.retire o issue)).noneWaits := State.noneWaits_modCpu.mpr waits1
  have counted := State.count32_cpu (a0 := p) (a1 := 0xFE30) (a2 := 1) (SameCpu.refl (a.modCpu p (·.retire o issue)))
  rw [State.cpu_stepModes ((counted.has waits2).mpr has2), CpuState.stepped_core, counted.cpu waits2 p,
    State.cpu_modCpu _ has1, if_pos rfl, first, CpuState.stepped_core]

/-- With one write pending whose distance this instruction ends, that write takes effect and nothing is pending. -/
theorem State.stepModes_due {m : ModeTarget} {n : Nat} (pend : (s.cpu p).modePend = [{ left := n, target := m }])
    (due : n ≤ 1) : s.stepModes p = (s.modCpu p (fun u => { u with modePend := [] })).applyMode p m := by
  have zero : n - 1 = 0 := by omega
  rw [State.stepModes_eq, pend]
  simp [zero]

end

/-! ### Operations without an effect of their own -/

/-- An operation that reaches nothing, and whose completion is all it does. -/
structure Op.Idle (o : Op) : Prop where
  mid : o.mid = none
  early : o.early = id
  acc : o.acc = []
  effect : ∀ z, o.effect z = (z, true)
  resolve : ∀ b d, o.resolve b d = d

theorem Op.nop_idle : Op.nop.Idle := ⟨rfl, rfl, rfl, fun _ => rfl, fun _ _ => rfl⟩

section
variable {s b : State} {p : Cpu} {o : Op}

/-- The registers an effect finds: those the instruction started from. -/
theorem State.Comes.regs (comes : s.Comes p b) : CpuState.SameRegs { s.cpu p with loadOld := [] } (b.cpu p) :=
  .of_core comes.own

theorem Op.Idle.comes (idle : o.Idle) (ready : s.ReadyFor p o b) : s.Comes p b :=
  ready.comesTo idle.mid (by rw [idle.early]; exact fun _ same => same)

/-- What it leaves: the processor one instruction on, its transfer in the delay slot. -/
theorem Op.Idle.retires (idle : o.Idle) (ready : s.ReadyFor p o b) :
    s.RetiresHere (s.run p o) p o.len { s.cpu p with loadOld := [], slot := o.transfer, shadow := o.isLoad } := by
  have comes := idle.comes ready
  have left := State.run_effect (v := { s.cpu p with loadOld := [] }) ready comes (idle.effect b) comes.has comes.waits comes.own
    (State.mayIssue_seq ready.issues) (State.mayIssue_waiting ready.issues) (fun _ _ => rfl) ⟨rfl, rfl⟩
  have slot : o.transfer.map (o.resolve b) = o.transfer := by
    cases o.transfer with
    | none => rfl
    | some d => exact congrArg some (idle.resolve b d)
  rw [slot] at left
  refine ⟨left.1, fun k own => (left.2 k own).trans ?_⟩
  subst own
  exact ready.memory idle.mid (by rw [idle.early]; exact fun _ => rfl)

/-- It runs to its end where it is ready and raises no fault. -/
theorem Op.Idle.instr {count : Nat} (idle : o.Idle) (ready : s.Ready p o.len count) (cycles : o.cycles = count)
    (stall : o.stall ≤ ((s.begins p o.len).cpu p).farWait (fun _ => true)) (sound : (s.cpu p).faultOf o = none) :
    ∃ t, s.instr p o = .next t ∧ s.RetiresHere t p o.len
      { s.cpu p with loadOld := [], slot := o.transfer, shadow := o.isLoad } := by
  obtain ⟨b, readyFor⟩ := ready.readyFor cycles stall idle.acc idle.mid sound
  exact ⟨_, rfl, idle.retires readyFor⟩

/-- A transfer outside a delay slot. -/
theorem transfers_of_idle {i : Instr} {len : Nat} {o : State → Op} {v : CpuState → CpuState} (idle : ∀ s, (o s).Idle)
    (is : ∀ s, exec i s = s.instr p (o s)) (words : ∀ s, (o s).len = len) (cycles : ∀ s, (o s).cycles = len)
    (stall : ∀ s, (o s).stall = 0) (fault : ∀ s, (o s).fault = none)
    (leaves : ∀ s : State, { s.cpu p with loadOld := [], slot := (o s).transfer, shadow := (o s).isLoad } = v (s.cpu p)) :
    transfers i p len v := by
  intro s outside ready
  rw [← words s] at ready
  obtain ⟨t, ran, left⟩ := (idle s).instr ready ((cycles s).trans (words s).symm) (by rw [stall]; exact Nat.zero_le _)
    (by simp [CpuState.faultOf, outside, fault])
  rw [words, leaves] at left
  exact ⟨t, (is s).trans ran, left⟩

end

/-! ### Branches and jumps (R123, R157, R158) -/

theorem transferOp_idle (len : Nat) (taken : Bool) (target : Word) (annul : Bool) : (transferOp len taken target annul).Idle :=
  ⟨rfl, rfl, rfl, fun _ => rfl, fun _ _ => rfl⟩

/-- Settles O10: each transfer is an idle operation with its target in the delay slot. -/
theorem branchResults : Obligations.BranchResults := by
  intro p annul
  refine ⟨fun c e other => ?_, fun c i other => ?_, fun e => ?_, fun r => ?_, fun i => ?_⟩
  · exact transfers_of_idle (fun _ => ⟨rfl, rfl, rfl, fun _ => rfl, fun _ _ => rfl⟩) (fun _ => rfl) (fun _ => rfl) (fun _ => rfl)
      (fun _ => rfl) (fun _ => if_neg other) (fun _ => rfl)
  · exact transfers_of_idle (fun _ => ⟨rfl, rfl, rfl, fun _ => rfl, fun _ _ => rfl⟩) (fun _ => rfl) (fun _ => rfl) (fun _ => rfl)
      (fun _ => rfl) (fun _ => if_neg other) (fun _ => rfl)
  · exact transfers_of_idle (fun s => transferOp_idle ..) (fun _ => rfl) (fun _ => rfl) (fun _ => rfl)
      (fun _ => rfl) (fun _ => rfl) (fun _ => rfl)
  · exact transfers_of_idle (fun _ => ⟨rfl, rfl, rfl, fun _ => rfl, fun _ _ => rfl⟩) (fun _ => rfl) (fun _ => rfl) (fun _ => rfl)
      (fun _ => rfl) (fun _ => rfl) (fun _ => rfl)
  · exact transfers_of_idle (fun _ => transferOp_idle ..) (fun _ => rfl) (fun _ => rfl) (fun _ => rfl)
      (fun _ => rfl) (fun _ => rfl) (fun _ => rfl)

/-! ### A pending write (R126) -/

theorem CpuState.stepped_due {u : CpuState} {m : ModeTarget} {n : Nat} (pend : u.modePend = [{ left := n, target := m }])
    (due : n ≤ 1) : u.stepped = ({ u with modePend := [] } : CpuState).withMode m := by
  have zero : n - 1 = 0 := by omega
  simp [CpuState.stepped, CpuState.nearer, pend, zero]

theorem CpuState.stepped_held {u : CpuState} {m : ModeTarget} {n : Nat} (pend : u.modePend = [{ left := n, target := m }])
    (held : 1 < n) : u.stepped = { u with modePend := [{ left := n - 1, target := m }] } := by
  have more : n - 1 ≠ 0 := by omega
  simp [CpuState.stepped, CpuState.nearer, pend, more]

section
variable {s b : State} {p : Cpu} {o : Op}

/-- The processor as an idle operation leaves it, from the state its effect is made in. -/
theorem Op.Idle.run_cpu (idle : o.Idle) (ready : s.ReadyFor p o b) : ∃ d issue q,
    ((s.run p o).cpu p).core = (CpuState.retire { o with transfer := d } issue { b.cpu p with prev := q }).stepped.core := by
  have comes := idle.comes ready
  obtain ⟨post, issue, ran⟩ := State.run_ready ready (idle.effect b)
  generalize o.transfer.map (o.resolve b) = d at ran
  obtain ⟨q, done⟩ := State.cpu_commit (o := { o with transfer := d }) (issue := issue) comes.has comes.waits
  have waits : (b.commit p { o with transfer := d } issue).noneWaits := State.commit_waits comes.waits
  have runs : ((b.commit p { o with transfer := d } issue).cpu p).waiting = false := by
    rw [(State.commit_retires { o with transfer := d } issue comes.has comes.waits comes.seq).1.waiting]
    exact comes.regs.waiting.trans (State.mayIssue_waiting ready.issues)
  refine ⟨d, issue, q, ?_⟩
  rw [ran, ← done]
  cases post with
  | false => rfl
  | true => exact (State.cpuPost_cpu runs (SameCpu.refl _)).cpu waits p

variable {m : ModeTarget} {n a : Nat} {v : Word} {k : Fin 4}

theorem State.ownForce_setForce : (s.setForce (.keeper k) a v).ownForce (.keeper k) a = v.toNat := by
  simp [State.ownForce, State.setForce, State.keeper_modKeeper, Sparse.get_set]

/-- The write of a Keeper's D space is in force once its distance has ended. -/
theorem State.commit_due {issue : Nat} (pend : (b.cpu (.keeper k)).modePend = [{ left := n, target := .io a v }]) (due : n ≤ 1) :
    (b.commit (.keeper k) o issue).ownForce (.keeper k) a = v.toNat := by
  have same : (((b.modCpu (.keeper k) (·.retire o issue)).count32 (.keeper k) 0xFE30 1).cpu (.keeper k)).modePend =
      (b.cpu (.keeper k)).modePend := by
    simp [State.cpu, State.count32, State.setOwnIo, State.modCpu, State.keeper_modKeeper, CpuState.retire]
  show (((b.modCpu (.keeper k) (·.retire o issue)).count32 (.keeper k) 0xFE30 1).stepModes (.keeper k)).ownForce _ a = _
  rw [State.stepModes_due (same.trans pend) due]
  exact State.ownForce_setForce

end

/-- Settles O9: the one write pending, one instruction nearer its end. -/
theorem modeWriteTakesEffect : Obligations.ModeWriteTakesEffect := by
  intro p s m n pend ready
  obtain ⟨b, readyFor⟩ := ready.readyFor (o := Op.nop) rfl (Nat.zero_le _) rfl rfl (CpuState.faultOf_none rfl rfl)
  have comes := Op.nop_idle.comes readyFor
  obtain ⟨d, issue, q, after⟩ := Op.nop_idle.run_cpu readyFor
  have before : (b.cpu p).modePend = [{ left := n, target := m }] := comes.regs.modePend.trans pend
  refine ⟨_, rfl, fun due => ?_, fun held => ?_⟩
  · rw [CpuState.stepped_due (n := n) (m := m) (by exact before) due] at after
    have pending := (CpuState.SameRegs.of_core after).modePend
    obtain ⟨yz, il, ie⟩ := CpuState.modes_of_core after
    cases m with
    | yz c => exact ⟨pending, yz⟩
    | il l => exact ⟨pending, il⟩
    | ie c => exact ⟨pending, ie⟩
    | io a v =>
      refine ⟨pending, fun k own => ?_⟩
      subst own
      obtain ⟨post, first, ran⟩ := State.run_ready readyFor (Op.nop_idle.effect b)
      rw [ran]
      cases post <;> exact State.commit_due before due
  · rw [CpuState.stepped_held (n := n) (m := m) (by exact before) held] at after
    obtain ⟨yz, il, ie⟩ := CpuState.modes_of_core after
    obtain ⟨yz0, il0, ie0⟩ := CpuState.modes_of_core (u := { s.cpu p with loadOld := [] }) comes.own
    exact ⟨(CpuState.SameRegs.of_core after).modePend, ie.trans ie0, il.trans il0, yz.trans yz0⟩

/-! ### System moves (R113, R149) -/

/-- A bit of ST set or cleared by a merge under its mask. -/
theorem mergeBits_ie (st : Word) (b : Bool) :
    BitVec.ofNat 16 (mergeBits 0x10 st.toNat (b2n b * 16)) = if b then st ||| 0x10#16 else st &&& ~~~0x10#16 := by
  have mask (i : Nat) : Nat.testBit 16 i = decide (4 = i) := Nat.testBit_two_pow (n := 4)
  refine BitVec.eq_of_getLsbD_eq fun i lt => ?_
  have ten : (0x10#16).getLsbD i = decide (4 = i) := mask i
  rw [BitVec.getLsbD_ofNat, decide_eq_true lt, Bool.true_and, mergeBits_testBit, mask]
  cases b
  · rw [if_neg Bool.false_ne_true, BitVec.getLsbD_and, BitVec.getLsbD_not, ten, BitVec.testBit_toNat, decide_eq_true lt]
    cases decide (4 = i) <;> simp [b2n]
  · simp [ten, b2n, mask, BitVec.testBit_toNat, Bool.or_comm]

/-- An operation of one cycle whose effect is `g` on the registers of its processor. -/
def ownOp (p : Cpu) (reads writes : List ScoreTarget) (solo : Bool) (fault : Option FaultInfo) (g : CpuState → CpuState) : Op :=
  { Op.nop with
    reads := reads, writes := writes, solo := solo, fault := fault, effect := fun t => (t.modCpu p g, true) }

/-- A change of registers that is no transfer and does not look at the count of cycles. -/
structure CpuState.Plain (g : CpuState → CpuState) : Prop where
  core : ∀ u, (g u).core = (g u.core).core
  pc : ∀ u, (g u).pc = u.pc
  slot : ∀ u, (g u).slot = u.slot
  seq : ∀ u, (g u).seq = u.seq
  waiting : ∀ u, (g u).waiting = u.waiting

section
variable {p : Cpu} {reads writes : List ScoreTarget} {solo : Bool} {fault : Option FaultInfo} {g : CpuState → CpuState}

theorem ownOp_own (plain : CpuState.Plain g) : (ownOp p reads writes solo fault g).Own p g :=
  ⟨rfl, rfl, rfl, fun _ => rfl, fun _ _ => rfl, plain.core, plain.pc, plain.slot, plain.seq, plain.waiting⟩

theorem runsTo_ownOp {i : Instr} {g : CpuState → CpuState → CpuState} {v : CpuState → CpuState}
    (plain : ∀ u, CpuState.Plain (g u)) (is : ∀ s, exec i s = s.instr p (ownOp p reads writes solo none (g (s.cpu p))))
    (leaves : ∀ u, { g u { u with loadOld := [] } with slot := none, shadow := false } = v u) : runsTo i p 1 1 v :=
  runsTo_of_own (o := fun u => ownOp p reads writes solo none (g u)) (fun u => ownOp_own (plain u)) is (fun _ => rfl)
    (fun _ => rfl) (fun _ => rfl) (fun _ => rfl) (fun _ => rfl) leaves

end

theorem CpuState.write_plain (d : RegNo) (v : Word) : CpuState.Plain (·.write d v) :=
  ⟨fun _ => rfl, fun _ => rfl, fun _ => rfl, fun _ => rfl, fun _ => rfl⟩

/-- IE written: ST as read at once, the field in force at its distance. -/
def CpuState.putIe (b : Bool) (u : CpuState) : CpuState :=
  { u.pendMode (.ie b) with st := BitVec.ofNat 16 (mergeBits 0x10 u.st.toNat (b2n b * 16)) }

theorem CpuState.putIe_plain (b : Bool) : CpuState.Plain (·.putIe b) :=
  ⟨fun _ => rfl, fun _ => rfl, fun _ => rfl, fun _ => rfl, fun _ => rfl⟩

/-- The fields of a status word as written, from the word written. -/
theorem stWritten_fields (old v : Word) : wbit (stWritten old v) 14 = v.getLsbD 14 ∧ wbit (stWritten old v) 4 = v.getLsbD 4 ∧
    stLevel (stWritten old v) = v.extractLsb' 5 3 := by
  refine ⟨by simp [stWritten, wbit], by simp [stWritten, wbit], ?_⟩
  have level (w : Word) : stLevel w = w.extractLsb' 5 3 := by
    rw [stLevel, field, ← Nat.shiftRight_eq_div_pow]
    exact BitVec.eq_of_toNat_eq (by simp)
  rw [level]
  refine BitVec.eq_of_getLsbD_eq fun i lt => ?_
  have : i = 0 ∨ i = 1 ∨ i = 2 := by omega
  rcases this with rfl | rfl | rfl <;> simp [stWritten]

theorem CpuState.writeSt_eq (v : Word) (u : CpuState) : u.writeSt v = { u with
    st := (u.st &&& 0x8000#16) ||| (v &&& 0x40FF#16)
    modePend := u.modePend ++ [{ left := 3, target := .yz (v.getLsbD 14) },
      { left := 3, target := .il (v.extractLsb' 5 3) }, { left := 3, target := .ie (v.getLsbD 4) }] } := by
  obtain ⟨yz, ie, il⟩ := stWritten_fields u.st v
  simp only [CpuState.writeSt, CpuState.pendMode, yz, ie, il, List.append_assoc, List.cons_append, List.nil_append]
  rfl

/-- The operation of FENCE, from the registers it starts from. -/
def fenceOp (u : CpuState) : Op := { Op.nop with stall := u.farWait (fun _ => true) }

theorem fenceOp_idle (u : CpuState) : (fenceOp u).Idle := ⟨rfl, rfl, rfl, fun _ => rfl, fun _ _ => rfl⟩

section
variable {s b : State} {p : Cpu} {k : Fin 4}

/-- FENCE waits no longer than a ready instruction may. -/
theorem State.Ready.fence (ready : s.Ready p 1 1) : ∃ b, s.ReadyFor p (fenceOp (s.cpu p)) b := by
  have same : (s.begins p 1).cpu p = s.cpu p := (s.begins_still p 1).cpu ready.quiet p
  exact ready.readyFor (o := fenceOp (s.cpu p)) rfl (Nat.le_of_eq (congrArg (CpuState.farWait · fun _ => true) same.symm)) rfl rfl
    (CpuState.faultOf_none rfl rfl)

/-- A running maximum is at least its start, and at least each value it goes over. -/
theorem le_foldl_max {α : Type} (f : α → Nat) : ∀ (l : List α) (a : Nat),
    a ≤ l.foldl (fun m e => max m (f e)) a ∧ ∀ e ∈ l, f e ≤ l.foldl (fun m e => max m (f e)) a
  | [], a => ⟨le_refl a, fun _ h => absurd h List.not_mem_nil⟩
  | x :: l, a => by
    obtain ⟨start, each⟩ := le_foldl_max f l (max a (f x))
    refine ⟨le_trans (le_max_left ..) start, fun e mem => ?_⟩
    rcases List.mem_cons.mp mem with rfl | mem
    · exact le_trans (le_max_right ..) start
    · exact each e mem

theorem CpuState.stall_le_waitFor (u : CpuState) (o : Op) : o.stall ≤ u.waitFor o := (le_foldl_max _ _ _).1

theorem CpuState.back_le (u : CpuState) {e : FarOut} (sent : e ∈ u.far) : e.back ≤ u.now + u.farWait (fun _ => true) := by
  have := (le_foldl_max (fun e : FarOut => e.back - u.now) (u.far.filter (fun _ => true)) 0).2 e (by simpa using sent)
  unfold CpuState.farWait
  omega

/-- The cycle a Keeper's operation of one cycle is made in has passed when its effect is made. -/
theorem State.ReadyFor.keeper_now {o : Op} (ready : s.ReadyFor (.keeper k) o b) (mid : o.mid = none) (early : o.early = id)
    (once : o.cycles = 1) : (b.cpu (.keeper k)).now = (s.cpu (.keeper k)).now + (s.cpu (.keeper k)).waitFor o + 1 := by
  have comes := ready.comes
  have issue : (s.fetchLine (.keeper k) o.len).1.issueOf (.keeper k) o =
      { first := (s.cpu (.keeper k)).now + (s.cpu (.keeper k)).waitFor o, total := 1, half := none } := by
    show s.issueOf (.keeper k) o = _
    simp [State.issueOf, ready.sound, State.isFast, State.fastExtra, once]
  rw [State.effectState, mid] at comes
  dsimp only at comes
  rw [issue] at comes
  obtain ⟨c, counted, rfl⟩ := Option.map_eq_some_iff.mp comes
  have now (n : Nat) (z : State) : ((z.keeperTime k n).cpu (.keeper k)).now = (z.cpu (.keeper k)).now + n := by
    simp [State.keeperTime, State.keeperCycles, State.count32, State.setOwnIo, State.cpu, State.keeper_modKeeper]
  have kept (z : State) : ((z.modCpu (.keeper k) (fun u => { u with loadOld := [] })).cpu (.keeper k)).now =
      (z.cpu (.keeper k)).now := by simp [State.cpu, State.modCpu, State.keeper_modKeeper]
  rw [kept]
  have start : ((s.begins (.keeper k) o.len).cpu (.keeper k)).now = (s.cpu (.keeper k)).now := rfl
  rw [if_neg (by rw [start]; dsimp only; omega)] at counted
  simp only [State.inCount, State.cpuUntil, State.poised, early, State.cpuPre, State.cpuPost, State.lagging, ite_self, id,
    Bool.false_eq_true, if_false] at counted
  rw [← Option.some.inj counted, now, now, start]
  omega

/-- FENCE leaves no far access of its Keeper outstanding (R139). -/
theorem State.ReadyFor.fence_far (ready : s.ReadyFor (.keeper k) (fenceOp (s.cpu (.keeper k))) b) :
    ((s.run (.keeper k) (fenceOp (s.cpu (.keeper k)))).cpu (.keeper k)).far = [] := by
  set u := s.cpu (.keeper k)
  have idle := fenceOp_idle u
  have comes := idle.comes ready
  have far : (b.cpu (.keeper k)).core.far = ({ u with loadOld := [] } : CpuState).core.far := congrArg CpuState.far comes.own
  replace far : (b.cpu (.keeper k)).far = u.far := far
  have now : (b.cpu (.keeper k)).now = u.now + u.waitFor (fenceOp u) + 1 := ready.keeper_now rfl rfl rfl
  have wait : u.farWait (fun _ => true) ≤ u.waitFor (fenceOp u) := u.stall_le_waitFor (fenceOp u)
  obtain ⟨d, issue, q, after⟩ := idle.run_cpu ready
  refine (congrArg CpuState.far after).trans ((CpuState.stepped_far _).trans ?_)
  show (b.cpu (.keeper k)).far.filter (fun e => decide ((b.cpu (.keeper k)).now < e.back)) = []
  rw [far, List.filter_eq_nil_iff]
  intro e sent
  have back := u.back_le sent
  simp only [decide_eq_true_eq]
  omega

end

/-- Settles O8: each move is an operation on its own processor; FENCE does nothing but wait. -/
theorem systemMoveResults : Obligations.SystemMoveResults := by
  intro p d r n
  refine ⟨?_, ?_, ?_, ?_, ?_, ?_, ?_, ?_, ?_⟩
  · intro s ready
    exact Op.nop_idle.instr ready rfl (Nat.zero_le _) (CpuState.faultOf_none rfl rfl)
  · intro s ready
    obtain ⟨b, readyFor⟩ := ready.fence
    exact ⟨_, rfl, (fenceOp_idle _).retires readyFor⟩
  · intro k s own ready
    subst own
    obtain ⟨b, readyFor⟩ := ready.fence
    exact ⟨_, rfl, readyFor.fence_far⟩
  · exact runsTo_ownOp (fun u => CpuState.write_plain d u.st) (fun _ => rfl) (fun _ => rfl)
  · exact runsTo_ownOp (g := fun u x => { x with x := x.x.set n.val (u.read r) })
      (fun _ => ⟨fun _ => rfl, fun _ => rfl, fun _ => rfl, fun _ => rfl, fun _ => rfl⟩) (fun _ => rfl) (fun _ => rfl)
  · exact runsTo_ownOp (fun u => CpuState.write_plain d u.x[n.val]) (fun _ => rfl) (fun _ => rfl)
  · refine runsTo_ownOp (g := fun _ => (·.putIe false)) (fun _ => CpuState.putIe_plain _) (fun _ => rfl) (fun u => ?_)
    rw [CpuState.putIe, mergeBits_ie]
    rfl
  · refine runsTo_ownOp (g := fun _ => (·.putIe true)) (fun _ => CpuState.putIe_plain _) (fun _ => rfl) (fun u => ?_)
    rw [CpuState.putIe, mergeBits_ie]
    rfl
  · refine runsTo_ownOp (g := fun u => (·.writeSt (u.read r)))
      (fun _ => ⟨fun _ => rfl, fun _ => rfl, fun _ => rfl, fun _ => rfl, fun _ => rfl⟩) (fun _ => rfl) (fun u => ?_)
    rw [CpuState.writeSt_eq]
    rfl

/-! ### Segment moves (R162, R164) -/

/-- The three words of a segment, by shifts and as its parts. -/
theorem segWords (g : BitVec 38) : g.setWidth 16 = g.extractLsb' 0 16 ∧ (g >>> 16).setWidth 16 = g.extractLsb' 16 16 ∧
    (g >>> 32).setWidth 16 = (g.extractLsb' 32 6).zeroExtend 16 := by
  have lt := g.isLt
  refine ⟨BitVec.eq_of_toNat_eq (by simp), BitVec.eq_of_toNat_eq (by simp), BitVec.eq_of_toNat_eq ?_⟩
  simp only [BitVec.toNat_setWidth, BitVec.toNat_ushiftRight, BitVec.extractLsb'_toNat, Nat.shiftRight_eq_div_pow]
  omega

/-- Settles O19: the moves of a segment are operations on their own processor; past w15 and in a session they are ILLEGAL. -/
theorem segmentMoves : Obligations.SegmentMoves := by
  intro k d n
  refine ⟨fun fits => ?_, fun p illegal => ?_⟩
  · have legal : (if farIllegal (.keeper k) d 3 then some faultIllegal else none) = none := by
      rw [if_neg (by simpa [farIllegal, isKeeper] using fits)]
    refine ⟨runsTo_ownOp (reads := regGroup d 3) (writes := []) (solo := false) (g := fun u x => { x with
        seg := x.seg.set n.val ((u.read (regAfter d 2)).setWidth 6 ++ (u.read (regAfter d 1) ++ u.read d)) })
        (fun _ => ⟨fun _ => rfl, fun _ => rfl, fun _ => rfl, fun _ => rfl, fun _ => rfl⟩) (fun s => ?_) (fun _ => rfl),
      runsTo_ownOp (reads := []) (writes := regGroup d 3) (solo := false) (g := fun u x =>
        ((x.write d (u.seg[n.val].setWidth 16)).write (regAfter d 1) ((u.seg[n.val] >>> 16).setWidth 16)).write (regAfter d 2)
          ((u.seg[n.val] >>> 32).setWidth 16))
        (fun _ => ⟨fun _ => rfl, fun _ => rfl, fun _ => rfl, fun _ => rfl, fun _ => rfl⟩) (fun s => ?_) (fun u => ?_)⟩
    · rw [← legal]
      rfl
    · rw [← legal]
      rfl
    · obtain ⟨lo, mid, hi⟩ := segWords u.seg[n.val]
      rw [lo, mid, hi]
      rfl
  · have fault : (if farIllegal p d 3 then some faultIllegal else none) = some faultIllegal := by
      rw [if_pos]
      rcases illegal with past | ⟨c, rfl⟩
      · simp [farIllegal, past]
      · rfl
    exact ⟨faultsIf_illegal (fun _ => rfl) (fun _ => rfl) (fun _ _ => fault),
      faultsIf_illegal (fun _ => rfl) (fun _ => rfl) (fun _ _ => fault)⟩

/-! ### Annulled delay slots (R123) -/

/-- The instruction in an annulled slot, of as many words as its operation says, has no effect but its cycle. -/
theorem State.run_annulled {s : State} {p : Cpu} {o : Op} {d : DelaySlot} (slot : (s.cpu p).slot = some d)
    (annulled : d.annulled = true) (may : s.mayIssue p = true) (first : (s.cpu p).issued = none) (quiet : s.noneWaits)
    (passes : ((s.spendFast p).cpuUntil p ((s.cpu p).now + 1 + s.fastExtra p)).2 = true) :
    s.RetiresHere (s.run p o) p o.len (s.cpu p).begun := by
  have active := State.mayIssue_active may
  have has := State.mayIssue_has may
  have ran : s.run p o = ((((s.spendFast p).cpuUntil p ((s.cpu p).now + 1 + s.fastExtra p)).1).modCpu p
      (fun u => { u with loadOld := [] })).commit p { Op.nop with len := o.len, solo := true } (s.cpu p).now := by
    have ended : (s.spendFast p).cpuUntil p ((s.cpu p).now + 1 + s.fastExtra p) =
        (((s.spendFast p).cpuUntil p ((s.cpu p).now + 1 + s.fastExtra p)).1, true) := Prod.ext rfl passes
    unfold State.run
    rw [State.poised_active active]
    dsimp only
    rw [State.mayIssue_seq may, may, slot]
    simp only [Option.isSome_none, Bool.and_false, Bool.false_eq_true, if_false, Bool.not_true, annulled, if_true, first,
      Option.getD_none, State.annulOn]
    rw [← Nat.add_assoc, ended]
  have same : SameCpu s ((s.spendFast p).cpuUntil p ((s.cpu p).now + 1 + s.fastExtra p)).1 :=
    State.cpuUntil_cpu (State.mayIssue_waiting may) (State.spendFast_cpu (a0 := p) (SameCpu.refl s))
  have memory (k : Fin 4) (own : p = .keeper k) :
      ((s.spendFast p).cpuUntil p ((s.cpu p).now + 1 + s.fastExtra p)).1.mem = s.mem := by
    subst own
    rfl
  rw [ran]
  generalize ((s.spendFast p).cpuUntil p ((s.cpu p).now + 1 + s.fastExtra p)).1 = a at *
  have has1 := (same.has (p := p) quiet).mpr has
  have core := same.cpu quiet p
  have cpu : (a.modCpu p (fun u => { u with loadOld := [] })).cpu p = { a.cpu p with loadOld := [] } :=
    (State.cpu_modCpu _ has1).trans (if_pos rfl)
  have left := State.finishes (s := s) (o := { Op.nop with len := o.len, solo := true }) (d := none) (issue := (s.cpu p).now)
    (post := false) (z := a.modCpu p (fun u => { u with loadOld := [] })) (v := { s.cpu p with loadOld := [] })
    ((State.has_modCpu _).mpr has1) (State.noneWaits_modCpu.mpr (same.waits quiet))
    (by rw [cpu]; exact (CpuState.SameRegs.of_core core).seq.trans (State.mayIssue_seq may)) (fun no => absurd no Bool.false_ne_true)
    rfl (by rw [cpu]; exact congrArg (fun u : CpuState => { u with loadOld := [] }) core)
    (fun q other => by rw [State.cpu_modCpu _ has1, if_neg other]; exact same.cpu quiet q)
  exact ⟨left.1, fun k own => (left.2 k own).trans ((State.mem_modCpu _).trans (memory k own))⟩

/-- Settles O11: each form is an operation of its words, and its slot is annulled. -/
theorem annulledSlotHasNoEffect : Obligations.AnnulledSlotHasNoEffect := by
  intro p d x m annul e tg mask b s dl slot annulled _ may first quiet passes r mem
  have none_ (o : Op) : s.RetiresHere (s.run p o) p o.len (s.cpu p).begun := State.run_annulled slot annulled may first quiet passes
  simp only [List.mem_cons, List.not_mem_nil, or_false] at mem
  rcases mem with rfl | rfl | rfl | rfl | rfl | rfl | rfl | rfl | rfl | rfl <;> exact ⟨_, rfl, none_ _⟩

/-! ### Index registers (R135) -/

/-- A word plus a step, as the linear mode computes it. -/
theorem ofIntW_add (x : Word) (k : Int) : ofIntW ((x.toNat : Int) + k) = x + BitVec.ofInt 16 k := by
  rw [ofIntW, BitVec.ofInt_add]
  congr 1
  exact BitVec.eq_of_toNat_eq (by simp)

/-- The place of an address in its ring. -/
theorem ring_place {xb x : Nat} (low : xb ≤ x) (lt : x < 65536) : (x + 65536 - xb) % 65536 = x - xb := by omega

/-- Settles O15: linear steps by the sum of words; inside a ring the place in it moves modulo its length. -/
theorem indexAdvance : Obligations.IndexAdvance := by
  refine ⟨fun xb xl x k => ofIntW_add x k, fun xb xl x k long fits low high => ?_, fun xb xl x k out => ?_⟩
  · have lt := x.isLt
    have inside : ¬(xl = 0 ∨ xl ≤ x.toNat - xb) := by omega
    have moved : advanceIndex xb xl 1 x k = ofIntW ((xb : Int) + (((x.toNat - xb : Nat) : Int) + k) % (xl : Int)) := by
      simp only [advanceIndex, ring_place low lt, if_pos, if_neg inside]
    have nonneg := Int.emod_nonneg (((x.toNat - xb : Nat) : Int) + k) (b := xl) (by omega)
    have below := Int.emod_lt_of_pos (((x.toNat - xb : Nat) : Int) + k) (b := xl) (by omega)
    have cast : ((x.toNat - xb : Nat) : Int) = (x.toNat : Int) - xb := by omega
    have twice := Int.emod_emod_of_dvd (((x.toNat - xb : Nat) : Int) + k) (dvd_refl (xl : Int))
    rw [moved, ← cast]
    generalize (((x.toNat - xb : Nat) : Int) + k) % (xl : Int) = r at *
    have value : (ofIntW ((xb : Int) + r)).toNat = xb + r.toNat := by
      rw [ofIntW, BitVec.toNat_ofInt]
      omega
    dsimp only
    rw [value]
    refine ⟨by omega, by omega, ?_⟩
    rw [← twice]
    congr 1
    omega
  · rw [← ofIntW_add]
    simp only [advanceIndex, if_pos, if_pos out]

end Sys2Proof.Machine

/-! ## Loads, stores, PUSH and POP (R111, R115 to R120, R149, R154, R155)

How an instruction that reaches memory comes to its effect, a split pair among them, and what its completion leaves. -/

namespace Sys2Proof.Machine

open Sys2Proof Sys2Proof.Claims

/-! ### Coming to an effect by way of memory -/

/-- A processor but for the count of its cycles, its instruction in progress and the load before it; with `modes`, its pending mode
writes are part of it. -/
def CpuState.base (modes : Bool) (u : CpuState) : CpuState :=
  { u with now := 0, issued := none, loadOld := [], modePend := if modes then u.modePend else [] }

/-- Processor `p` comes from state `s` to state `t` with its registers, and every other processor as it was. -/
structure State.Reaches (modes : Bool) (p : Cpu) (s t : State) : Prop where
  has : t.has p
  waits : t.noneWaits
  own : (t.cpu p).base modes = (s.cpu p).base modes
  others : ∀ q, q ≠ p → (t.cpu q).core = (s.cpu q).core

section
variable {modes : Bool} {p : Cpu} {r s t : State}

theorem CpuState.base_of_core {u v : CpuState} (same : v.core = u.core) : v.base modes = u.base modes := by
  show v.core.base modes = u.core.base modes
  rw [same]

theorem CpuState.base_of_bare {u v : CpuState} (same : v.bare = u.bare) : v.base false = u.base false := by
  show v.bare.base false = u.bare.base false
  rw [same]

theorem State.Reaches.refl (has : s.has p) (waits : s.noneWaits) : State.Reaches modes p s s := ⟨has, waits, rfl, fun _ _ => rfl⟩

theorem State.Reaches.trans (a : State.Reaches modes p r s) (b : State.Reaches modes p s t) : State.Reaches modes p r t :=
  ⟨b.has, b.waits, b.own.trans a.own, fun q other => (b.others q other).trans (a.others q other)⟩

theorem State.Reaches.same (a : State.Reaches modes p r s) (same : SameCpu s t) : State.Reaches modes p r t :=
  a.trans ⟨(same.has a.waits).mpr a.has, same.waits a.waits, CpuState.base_of_core (same.cpu a.waits p),
    fun q _ => same.cpu a.waits q⟩

theorem State.Reaches.stores (a : State.Reaches false p r s) (stores : Stores p s t) : State.Reaches false p r t :=
  a.trans ⟨(stores.has a.waits).mpr a.has, stores.waits a.waits, CpuState.base_of_bare (stores.own a.waits), stores.others a.waits⟩

theorem State.Reaches.modCpu {f : CpuState → CpuState} (a : State.Reaches modes p r s) (keeps : ∀ u, (f u).base modes = u.base modes) :
    State.Reaches modes p r (s.modCpu p f) :=
  a.trans ⟨(State.has_modCpu f).mpr a.has, State.noneWaits_modCpu.mpr a.waits,
    by rw [State.cpu_modCpu f a.has, if_pos rfl]; exact keeps _,
    fun q other => by rw [State.cpu_modCpu f a.has, if_neg other]⟩

theorem State.Reaches.waiting (a : State.Reaches modes p r s) : (s.cpu p).waiting = (r.cpu p).waiting :=
  (congrArg CpuState.waiting a.own : ((s.cpu p).base modes).waiting = ((r.cpu p).base modes).waiting)

theorem State.Reaches.seq (a : State.Reaches modes p r s) : (s.cpu p).seq = (r.cpu p).seq :=
  (congrArg CpuState.seq a.own : ((s.cpu p).base modes).seq = ((r.cpu p).base modes).seq)

variable {o : Op} {n : Nat} {i : Issued} {early : State → State} {b : State}

/-- The cycles of an instruction before something is done in one of them. -/
theorem State.Reaches.inCount (a : State.Reaches modes p r s) (runs : (r.cpu p).waiting = false)
    (clears : ∀ z, SameCpu z (early z)) (counted : s.inCount p o n early i = some b) : State.Reaches modes p r b := by
  have runs' := a.waiting.trans runs
  unfold State.inCount at counted
  split at counted
  · cases counted
  · rename_i s1 until_
    have h1 := a.same (SameCpu.of_pair until_ (State.cpuUntil_cpu runs' (SameCpu.refl s)))
    split at counted
    · cases counted
    · rename_i s2 poised
      have h2 := h1.same (SameCpu.of_pair poised (State.poised_cpu (SameCpu.refl s1)))
      have h3 := (h2.same (clears s2)).same (State.cpuPre_cpu (a0 := p) (SameCpu.refl _))
      have h4 : State.Reaches modes p r
          (if o.isLoad || o.sees then ((early s2).cpuPre p).cpuPost p else (early s2).cpuPre p) := by
        split
        · exact h3.same (State.cpuPost_cpu (h3.waiting.trans runs) (SameCpu.refl _))
        · exact h3
      dsimp only at counted
      generalize (if o.isLoad || o.sees then ((early s2).cpuPre p).cpuPost p else (early s2).cpuPre p) = s4 at *
      split at counted
      · cases counted
      · rw [← Option.some.inj counted]
        exact h4

theorem State.Reaches.lastState (a : State.Reaches modes p r s) (runs : (r.cpu p).waiting = false)
    (clears : ∀ z, SameCpu z (o.early z)) (last : s.lastState p o i = some b) :
    State.Reaches modes p r b ∧ (b.cpu p).loadOld = [] := by
  unfold State.lastState at last
  obtain ⟨c, found, rfl⟩ := Option.map_eq_some_iff.mp last
  have reached : State.Reaches modes p r c := by
    split at found
    · split at found
      · cases found
      · rw [← Option.some.inj found]
        exact a.same (clears s)
    · exact a.inCount runs clears found
  refine ⟨reached.modCpu fun _ => rfl, ?_⟩
  rw [State.cpu_modCpu _ reached.has, if_pos rfl]

/-- An instruction that comes to its effect keeps its registers, where what it does early and its first half do. -/
theorem State.ReadyFor.reaches (ready : s.ReadyFor p o b) (clears : ∀ z, SameCpu z (o.early z))
    (half : ∀ n early act, o.mid = some (n, early, act) → (∀ z, SameCpu z (early z)) ∧
      ∀ z, State.Reaches modes p s z → (act z).2 = true → State.Reaches modes p s (act z).1) :
    State.Reaches modes p s b ∧ (b.cpu p).loadOld = [] := by
  have runs := State.mayIssue_waiting ready.issues
  have begun : State.Reaches modes p s (s.begins p o.len) := (State.Reaches.refl ready.has ready.quiet).same
    (State.spendFast_cpu (a0 := p) (State.fetchLine_cpu (a0 := p) (SameCpu.refl s)))
  have comes := ready.comes
  unfold State.effectState at comes
  cases mid : o.mid with
  | none =>
    rw [mid] at comes
    exact begun.lastState runs clears comes
  | some m =>
    obtain ⟨n, early, act⟩ := m
    obtain ⟨earlySame, actKeeps⟩ := half _ _ _ mid
    rw [mid] at comes
    dsimp only at comes
    obtain ⟨c, first, second⟩ := Option.bind_eq_some_iff.mp comes
    have reached := (begun.modCpu (f := fun u => { u with issued := some _ }) fun _ => rfl).inCount runs earlySame first
    split at second
    · rename_i h1 acted
      have made : State.Reaches modes p s h1 := by
        have := actKeeps c reached (by rw [acted])
        rwa [acted] at this
      refine State.Reaches.lastState ?_ runs clears second
      split
      · exact made
      · exact made.same (State.cpuPost_cpu (made.waiting.trans runs) (SameCpu.refl _))
    · cases second

end

/-! ### Completing -/

section
variable {p : Cpu} {s t b z : State} {o : Op} {v v' : CpuState} {len : Nat}

/-- The fields of a processor that a completed instruction is said to leave. -/
def CpuState.left (modes : Bool) (u : CpuState) : CpuState :=
  { u with now := 0, issued := none, pc := 0, clear := false, score := [], seq := none, prev := none, far := []
           yz := modes && u.yz, il := if modes then u.il else 0, ie := modes && u.ie, modePend := if modes then u.modePend else [] }

theorem State.Moves.of_left (moves : s.Moves t p len v) (same : v.left false = v'.left false) : s.Moves t p len v' :=
  ⟨moves.w.trans (congrArg (·.w) same), moves.x.trans (congrArg (·.x) same), moves.seg.trans (congrArg (·.seg) same),
    moves.st.trans (congrArg (·.st) same), moves.pc, moves.slot.trans (congrArg (·.slot) same),
    moves.loadOld.trans (congrArg (·.loadOld) same), moves.shadow.trans (congrArg (·.shadow) same),
    moves.waiting.trans (congrArg (·.waiting) same), moves.halted.trans (congrArg (·.halted) same), moves.ended, moves.others⟩

theorem CpuState.left_false (same : v.left true = v'.left true) : v.left false = v'.left false :=
  (congrArg (CpuState.left false) same : (v.left true).left false = (v'.left true).left false)

theorem State.Retires.of_left (retires : s.Retires t p len v) (same : v.left true = v'.left true) : s.Retires t p len v' := by
  have pend : v.modePend = v'.modePend := congrArg (·.modePend) same
  refine ⟨retires.toMoves.of_left (CpuState.left_false same), by rw [← pend]; exact retires.modePend, fun late => ?_⟩
  obtain ⟨yz, il, ie⟩ := retires.modes (by rw [pend]; exact late)
  exact ⟨yz.trans (congrArg (·.yz) same), il.trans (congrArg (·.il) same), ie.trans (congrArg (·.ie) same)⟩

/-- An instruction that comes to its effect, from the state its effect leaves. -/
theorem State.ReadyFor.finishes (ready : s.ReadyFor p o b) (effect : o.effect b = (z, true)) (has : z.has p) (waits : z.noneWaits)
    (pc : (z.cpu p).pc = (s.cpu p).pc) (slot : (z.cpu p).slot = (s.cpu p).slot) (seq : (z.cpu p).seq = (s.cpu p).seq)
    (waiting : (z.cpu p).waiting = (s.cpu p).waiting) (others : ∀ q, q ≠ p → (z.cpu q).core = (s.cpu q).core) :
    s.Retires (s.run p o) p o.len { z.cpu p with slot := o.transfer.map (o.resolve b), shadow := o.isLoad } ∧
      (∀ k, p = .keeper k → (s.run p o).mem = z.mem) := by
  obtain ⟨post, issue, ran⟩ := State.run_ready ready effect
  rw [ran]
  refine State.finishes (s := s) (o := o) (issue := issue) (v := z.cpu p) has waits
    (seq.trans (State.mayIssue_seq ready.issues)) (fun _ => waiting.trans (State.mayIssue_waiting ready.issues)) ?_ rfl others
  unfold CpuState.nextPc
  rw [slot, pc]

end

/-! ### Loads -/

section
variable {s b : State} {p : Cpu} {m : MemSpace} {pair : Bool} {d : RegNo} {f : MemForm}

theorem State.advance_cpu {n : Fin 4} {k : Int} (has : s.has p) : (s.advance p n k).cpu p = { s.cpu p with
    x := (s.cpu p).x.set n.val (advanceIndex (s.indexMode p n).1 (s.indexMode p n).2.1 (s.indexMode p n).2.2 (s.cpu p).x[n.val] k) } :=
  (State.cpu_modCpu _ has).trans (if_pos rfl)

/-- The index register of a form moves on, and nothing else of the processor. -/
theorem State.advanceBy_cpu {a : Address} (has : s.has p) :
    (s.advanceBy p a pair).cpu p = { s.cpu p with x := advancedX s p pair a (s.cpu p) } := by
  unfold State.advanceBy advancedX
  cases a.advance with
  | none => rfl
  | some e => exact State.advance_cpu has

theorem State.advanceBy_others {a : Address} {q : Cpu} (has : s.has p) (other : q ≠ p) : (s.advanceBy p a pair).cpu q = s.cpu q := by
  unfold State.advanceBy
  cases a.advance with
  | none => rfl
  | some e => exact (State.cpu_modCpu _ has).trans (if_neg other)

theorem State.advanceBy_has {a : Address} {q : Cpu} : (s.advanceBy p a pair).has q ↔ s.has q := by
  unfold State.advanceBy
  cases a.advance with
  | none => exact Iff.rfl
  | some e => exact State.has_modCpu _

theorem State.advanceBy_waits {a : Address} : (s.advanceBy p a pair).noneWaits ↔ s.noneWaits := by
  unfold State.advanceBy
  cases a.advance with
  | none => exact Iff.rfl
  | some e => exact State.noneWaits_modCpu

/-- The first half of a split pair load changes no register. -/
theorem State.Reaches.loadHalf {r : State} {a : Nat} {modes : Bool} (reached : State.Reaches modes p r s)
    (loaded : (s.loadHalf p m a).2 = true) : State.Reaches modes p r (s.loadHalf p m a).1 := by
  unfold State.loadHalf at loaded ⊢
  cases read : s.memLoad p m a with
  | mk s1 o =>
    have reached1 := reached.same (SameCpu.of_pair read (State.memLoad_cpu (SameCpu.refl s)))
    rw [read] at loaded
    cases o with
    | none => cases loaded
    | some v => exact reached1.modCpu (f := fun u => { u with issued := u.issued.map (fun i => { i with half := some [v] }) }) fun _ => rfl

/-- A load comes to its effect with its registers. -/
theorem State.ReadyFor.load (ready : s.ReadyFor p (s.loadOp p m pair d f) b) :
    State.Reaches true p s b ∧ (b.cpu p).loadOld = [] := by
  refine ready.reaches (fun z => SameCpu.refl z) fun n early act mid => ?_
  unfold State.loadOp at mid
  dsimp only at mid
  split at mid
  · obtain ⟨-, rfl, rfl⟩ := Option.some.inj mid
    exact ⟨fun z => SameCpu.refl z, fun z reached loaded => reached.loadHalf loaded⟩
  · cases mid

/-- Registers written in order. -/
def setWords (w : Vector Word 16) (l : List (RegNo × Word)) : Vector Word 16 := l.foldl (fun w e => w.set e.1.val e.2) w

theorem CpuState.writes_eq (l : List (RegNo × Word)) : ∀ u : CpuState,
    l.foldl (fun (v : CpuState) e => v.write e.1 e.2) u = { u with w := setWords u.w l } := by
  induction l with
  | nil => exact fun _ => rfl
  | cons e l ih => exact fun u => ih _

theorem CpuState.loadRegs_eq (l : List (RegNo × Word)) (u : CpuState) : u.loadRegs l =
    { u with w := setWords u.w l, loadOld := l.map (fun e => (e.1, u.w[e.1.val])) } := CpuState.writes_eq l _

/-- A load whose words are read, `c` the state they are read in: it puts them in its registers and moves its index register on. -/
theorem State.ReadyFor.loads {l : List (RegNo × Word)} {c : State} (ready : s.ReadyFor p (s.loadOp p m pair d f) b)
    (same : SameCpu b c) (effect : (s.loadOp p m pair d f).effect b =
      ((c.advanceBy p ((s.cpu p).address f) pair).modCpu p (·.loadRegs l), true)) :
    s.Retires (s.run p (s.loadOp p m pair d f)) p ((s.cpu p).address f).len
        (withLoads l (advancedX c p pair ((s.cpu p).address f) (s.cpu p)) (s.cpu p)) ∧
      ∀ k, p = .keeper k → (s.run p (s.loadOp p m pair d f)).mem =
        ((c.advanceBy p ((s.cpu p).address f) pair).modCpu p (·.loadRegs l)).mem := by
  have reached := ready.load.1.same same
  have has := State.advanceBy_has (a := (s.cpu p).address f) (pair := pair) (p := p).mpr reached.has
  have x : (c.cpu p).x = (s.cpu p).x :=
    (congrArg CpuState.x reached.own : ((c.cpu p).base true).x = ((s.cpu p).base true).x)
  have cpu : ((c.advanceBy p ((s.cpu p).address f) pair).modCpu p (·.loadRegs l)).cpu p =
      ({ c.cpu p with x := advancedX c p pair ((s.cpu p).address f) (s.cpu p) } : CpuState).loadRegs l := by
    rw [State.cpu_modCpu _ has, if_pos rfl, State.advanceBy_cpu reached.has]
    unfold advancedX
    rw [x]
  have after := ready.finishes effect ((State.has_modCpu _).mpr has)
    (State.noneWaits_modCpu.mpr (State.advanceBy_waits.mpr reached.waits))
    (by rw [cpu, CpuState.loadRegs_eq]
        exact (congrArg CpuState.pc reached.own : ((c.cpu p).base true).pc = ((s.cpu p).base true).pc))
    (by rw [cpu, CpuState.loadRegs_eq]
        exact (congrArg CpuState.slot reached.own : ((c.cpu p).base true).slot = ((s.cpu p).base true).slot))
    (by rw [cpu, CpuState.loadRegs_eq]; exact reached.seq)
    (by rw [cpu, CpuState.loadRegs_eq]; exact reached.waiting)
    (fun q other => by
      rw [State.cpu_modCpu _ has, if_neg other, State.advanceBy_others reached.has other]; exact reached.others q other)
  refine ⟨after.1.of_left ?_, after.2⟩
  rw [cpu, withLoads, CpuState.loadRegs_eq, CpuState.loadRegs_eq]
  generalize advancedX c p pair ((s.cpu p).address f) (s.cpu p) = y
  exact (congrArg (fun u : CpuState => ({ u with
    w := setWords u.w l, loadOld := l.map (fun e => (e.1, u.w[e.1.val])), x := y, slot := none, shadow := true } : CpuState).left true)
    reached.own :)

end

/-- A load of a word: the case of one register. -/
theorem loadsWord_of {i : Instr} {p : Cpu} {m : MemSpace} {d : RegNo} {f : MemForm}
    (is : ∀ s, exec i s = s.instr p (s.loadOp p m false d f)) : loadsWord i p m d f := by
  intro s b v ready a read
  refine ⟨_, is s, (ready.loads (l := [(d, v)]) (State.memLoad_cpu (a0 := p) (a1 := m) (a2 := a.addr) (SameCpu.refl b)) ?_).1⟩
  have found : b.memLoad p m a.addr = ((b.memLoad p m a.addr).1, some v) := Prod.ext rfl read
  show b.loadWord p m d a = _
  rw [State.loadWord, found]

/-- A load of a pair: the first word is its first half's, or is read with the second. -/
theorem loadsPair_of {i : Instr} {p : Cpu} {m : MemSpace} {d : RegNo} {f : MemForm}
    (is : ∀ s, exec i s = s.instr p (s.loadOp p m true d f)) : loadsPair i p m d f := by
  intro s b v v' ready a b1 first second
  have same : SameCpu b b1 := by
    show SameCpu b (b.firstWord p m a.addr).1
    unfold State.firstWord
    cases b.halfOf p with
    | none => exact State.memLoad_cpu (SameCpu.refl b)
    | some l => exact SameCpu.refl b
  refine ⟨_, is s, (ready.loads (l := [(d, v), (regAfter d 1, v')]) (same.trans
    (State.memLoad_cpu (a0 := p) (a1 := m) (a2 := a.addr + 1) (SameCpu.refl b1))) ?_).1⟩
  have found : b.firstWord p m a.addr = (b1, some v) := Prod.ext rfl first
  have found' : b1.memLoad p m (a.addr + 1) = ((b1.memLoad p m (a.addr + 1)).1, some v') := Prod.ext rfl second
  show b.loadPair p m d a = _
  rw [State.loadPair, found]
  dsimp only
  rw [found']

/-- Settles O12: each form is a load of its space. -/
theorem loadResults : Obligations.LoadResults := fun _ _ _ =>
  ⟨loadsWord_of fun _ => rfl, loadsWord_of fun _ => rfl, loadsWord_of fun _ => rfl, loadsWord_of fun _ => rfl,
    loadsPair_of fun _ => rfl, loadsPair_of fun _ => rfl, loadsPair_of fun _ => rfl⟩

/-! ### Stores -/

section
variable {s b : State} {p : Cpu} {m : MemSpace} {pair : Bool} {d : RegNo} {f : MemForm}

/-- The first half of a split pair store changes no register. -/
theorem State.Reaches.storeHalf {r : State} {l : List (Nat × Word)} (reached : State.Reaches false p r s)
    (stored : (s.storeHalf p m l).2 = true) : State.Reaches false p r (s.storeHalf p m l).1 := by
  have done : (s.storeWords p m l).2 = true := stored
  unfold State.storeHalf
  dsimp only
  rw [if_pos done]
  exact (reached.stores (State.storeWords_stores l)).modCpu
    (f := fun u => { u with issued := u.issued.map (fun i => { i with half := some [] }) }) fun _ => rfl

/-- A store comes to its effect with its registers. -/
theorem State.ReadyFor.store (ready : s.ReadyFor p (s.storeOp p m pair d f) b) :
    State.Reaches false p s b ∧ (b.cpu p).loadOld = [] := by
  refine ready.reaches (fun z => State.clearEarly_cpu (SameCpu.refl z)) fun n early act mid => ?_
  unfold State.storeOp at mid
  dsimp only at mid
  split at mid
  · obtain ⟨-, rfl, rfl⟩ := Option.some.inj mid
    exact ⟨fun z => State.clearEarly_cpu (SameCpu.refl z), fun z reached stored => reached.storeHalf stored⟩
  · cases mid

/-- A store whose words are written: its index register moves on, and nothing else of the processors. -/
theorem State.ReadyFor.stored (ready : s.ReadyFor p (s.storeOp p m pair d f) b) {words : List (Nat × Word)}
    (left : b.wordsLeft p ((s.cpu p).storeList pair d ((s.cpu p).address f).addr) = words)
    (stored : (b.storeWords p m words).2 = true) :
    s.Moves (s.run p (s.storeOp p m pair d f)) p ((s.cpu p).address f).len
        { (s.cpu p).begun with x := advancedX (b.storeWords p m words).1 p pair ((s.cpu p).address f) (s.cpu p) } ∧
      ∀ k, p = .keeper k → (s.run p (s.storeOp p m pair d f)).mem =
        ((b.storeWords p m words).1.advanceBy p ((s.cpu p).address f) pair).mem := by
  obtain ⟨before, old⟩ := ready.store
  have stores := State.storeWords_stores (p := p) (m := m) words (s := b)
  have effect : (s.storeOp p m pair d f).effect b =
      ((b.storeWords p m words).1.advanceBy p ((s.cpu p).address f) pair, true) := by
    rw [← stored, ← left]
    rfl
  have reached := before.stores stores
  have old' : ((b.storeWords p m words).1.cpu p).loadOld = [] :=
    (congrArg CpuState.loadOld (stores.own before.waits) :
      ((b.storeWords p m words).1.cpu p).bare.loadOld = (b.cpu p).bare.loadOld).trans old
  generalize (b.storeWords p m words).1 = c at *
  have x : (c.cpu p).x = (s.cpu p).x :=
    (congrArg CpuState.x reached.own : ((c.cpu p).base false).x = ((s.cpu p).base false).x)
  have cpu : (c.advanceBy p ((s.cpu p).address f) pair).cpu p =
      { c.cpu p with x := advancedX c p pair ((s.cpu p).address f) (s.cpu p) } := by
    rw [State.advanceBy_cpu reached.has]
    unfold advancedX
    rw [x]
  have after := ready.finishes effect (State.advanceBy_has.mpr reached.has) (State.advanceBy_waits.mpr reached.waits)
    (by rw [cpu]; exact (congrArg CpuState.pc reached.own : ((c.cpu p).base false).pc = ((s.cpu p).base false).pc))
    (by rw [cpu]; exact (congrArg CpuState.slot reached.own : ((c.cpu p).base false).slot = ((s.cpu p).base false).slot))
    (by rw [cpu]; exact reached.seq) (by rw [cpu]; exact reached.waiting)
    (fun q other => by rw [State.advanceBy_others reached.has other]; exact reached.others q other)
  refine ⟨after.1.toMoves.of_left ?_, after.2⟩
  rw [cpu]
  generalize advancedX c p pair ((s.cpu p).address f) (s.cpu p) = y
  have same := congrArg (fun u : CpuState => ({ u with x := y, slot := none, shadow := false } : CpuState).left false) reached.own
  show ({ c.cpu p with x := y, slot := none, shadow := false } : CpuState).left false = _
  rw [show (c.cpu p) = { c.cpu p with loadOld := [] } by rw [← old']]
  exact same

end

theorem storesWords_of {i : Instr} {p : Cpu} {m : MemSpace} {pair : Bool} {d : RegNo} {f : MemForm}
    (is : ∀ s, exec i s = s.instr p (s.storeOp p m pair d f)) : storesWords i p m pair d f := by
  intro s b ready a r stored
  exact ⟨_, is s, (ready.stored rfl stored).1⟩

/-- Settles O13: each form is a store to its space. -/
theorem storeFrames : Obligations.StoreFrames := fun _ _ _ =>
  ⟨storesWords_of fun _ => rfl, storesWords_of fun _ => rfl, storesWords_of fun _ => rfl, storesWords_of fun _ => rfl,
    storesWords_of fun _ => rfl, storesWords_of fun _ => rfl⟩

end Sys2Proof.Machine

/-! ## A Keeper's data RAM, PUSH and POP, CALL and RET (R111, R119, R149, R157 to R159, R347) -/

namespace Sys2Proof.Machine

open Sys2Proof Sys2Proof.Claims

/-! ### A Keeper's instructions come to their effects -/

section
variable {k : Fin 4} {s t u b c : State} {o : Op} {i : Issued} {n : Nat} {early : State → State}

/-- Cycles of a Keeper pass, or pending bits of it are cleared: its data RAM and its registers stay. -/
structure Passes (k : Fin 4) (s t : State) : Prop where
  only : Local k s t
  core : (t.cpu (.keeper k)).core = (s.cpu (.keeper k)).core

theorem Passes.refl (k : Fin 4) (s : State) : Passes k s s := ⟨Local.refl k s, rfl⟩
theorem Passes.trans (a : Passes k s t) (b : Passes k t u) : Passes k s u := ⟨a.only.trans b.only, b.core.trans a.core⟩

theorem State.keeperTime_passes (n : Nat) : Passes k s (s.keeperTime k n) := by
  refine ⟨State.keeperTime_local, ?_⟩
  simp [State.keeperTime, State.keeperCycles, State.count32, State.setOwnIo, State.cpu, State.keeper_modKeeper, CpuState.core]

theorem State.modInt_passes (f : IntSt → IntSt) : Passes k s (s.modInt (.keeper k) f) :=
  ⟨Local.mod (fun x => { x with int := f x.int }) fun _ => ⟨rfl, rfl⟩, by simp [State.modInt, State.cpu, State.keeper_modKeeper]⟩

theorem State.clearEarly_passes {m : MemSpace} {l : List (Nat × Word)} : Passes k s (s.clearEarly (.keeper k) m l) := by
  have clears : ∀ (l : List (Nat × Word)) {a : State},
      Passes k a (l.foldl (fun (s : State) e => s.modInt (.keeper k) (·.clear e.1 e.2)) a) := by
    intro l
    induction l with
    | nil => exact fun {a} => .refl k a
    | cons e l ih => exact fun {a} => (State.modInt_passes _).trans ih
  unfold State.clearEarly
  split
  · exact clears l
  · exact .refl k s

/-- A Keeper's cycles always pass. -/
theorem State.inCount_keeper (clears : ∀ z, Passes k z (early z)) :
    ∃ c, s.inCount (.keeper k) o n early i = some c ∧ Passes k s c := by
  refine ⟨(early (s.keeperTime k (i.first + n - 1 - (s.cpu (.keeper k)).now))).keeperTime k 1, ?_,
    ((State.keeperTime_passes _).trans (clears _)).trans (State.keeperTime_passes _)⟩
  simp [State.inCount, State.cpuUntil, State.poised, State.cpuPre, State.cpuPost, State.lagging]

theorem State.cpu_modKeeperCpu (f : CpuState → CpuState) : (s.modCpu (.keeper k) f).cpu (.keeper k) = f (s.cpu (.keeper k)) := by
  simp [State.modCpu, State.cpu, State.keeper_modKeeper]

theorem State.lastState_keeper (clears : ∀ z, Passes k z (o.early z)) :
    ∃ b, s.lastState (.keeper k) o i = some b ∧ Local k s b ∧ (b.cpu (.keeper k)).issued = (s.cpu (.keeper k)).issued := by
  have found : ∃ c, Passes k s c ∧
      s.lastState (.keeper k) o i = some (c.modCpu (.keeper k) (fun u => { u with loadOld := [] })) := by
    unfold State.lastState
    split
    · exact ⟨o.early s, clears s, by simp [State.lagging]⟩
    · obtain ⟨c, counted, passes⟩ := State.inCount_keeper (s := s) (o := o) (i := i) (n := i.total) clears
      exact ⟨c, passes, by rw [counted]; rfl⟩
  obtain ⟨c, passes, last⟩ := found
  exact ⟨_, last, passes.only.trans (State.modCpu_local _),
    by rw [State.cpu_modKeeperCpu]; exact (CpuState.SameRegs.of_core passes.core).issued⟩

/-- A Keeper's instruction of one access comes to its effect with its data RAM as it was. -/
theorem State.Issues.keeper_whole (issues : s.Issues (.keeper k) o.len) (sound : (s.cpu (.keeper k)).faultOf o = none)
    (mid : o.mid = none) (clears : ∀ z, Passes k z (o.early z)) :
    ∃ b, s.ReadyFor (.keeper k) o b ∧ Local k s b ∧ b.halfOf (.keeper k) = none := by
  obtain ⟨b, last, passes, issued⟩ := State.lastState_keeper (s := s) (i := s.issueOf (.keeper k) o) clears
  refine ⟨b, ⟨issues, sound, ?_⟩, passes, ?_⟩
  · rw [State.effectState, mid]
    exact last
  · rw [State.halfOf, issued, issues.first]
    rfl

/-- A Keeper's instruction of two accesses comes to its effect by its first half, made in state `c`. -/
theorem State.Issues.keeper_split {act : State → State × Bool} (issues : s.Issues (.keeper k) o.len)
    (sound : (s.cpu (.keeper k)).faultOf o = none) (mid : o.mid = some (n, early, act)) (clears : ∀ z, Passes k z (o.early z))
    (clears' : ∀ z, Passes k z (early z)) (acts : ∀ z, (act z).2 = true) :
    ∃ b c i, s.ReadyFor (.keeper k) o b ∧ Local k s c ∧ (c.cpu (.keeper k)).issued = some i ∧ Local k (act c).1 b ∧
      (b.cpu (.keeper k)).issued = ((act c).1.cpu (.keeper k)).issued := by
  obtain ⟨c, first, passes⟩ := State.inCount_keeper (s := (s.holdAt (.keeper k) (s.issueOf (.keeper k) o))) (o := o)
    (n := n) (i := s.issueOf (.keeper k) o) clears'
  obtain ⟨b, last, passes', issued⟩ := State.lastState_keeper (s := (act c).1)
    (i := (((act c).1.cpu (.keeper k)).issued).getD (s.issueOf (.keeper k) o)) clears
  have held : (c.cpu (.keeper k)).issued = some (s.issueOf (.keeper k) o) :=
    (CpuState.SameRegs.of_core passes.core).issued.trans (by rw [State.holdAt, State.cpu_modKeeperCpu])
  refine ⟨b, c, _, ⟨issues, sound, ?_⟩, (State.modCpu_local _).trans passes.only, held, passes', issued⟩
  have acted : act c = ((act c).1, true) := Prod.ext rfl (acts c)
  rw [State.effectState, mid]
  dsimp only
  rw [show (s.fetchLine (.keeper k) o.len).1 = s from rfl, show s.begins (.keeper k) o.len = s from rfl, first, Option.bind_some, acted]
  simp only [State.cpuPost, ite_self]
  exact last

end

/-! ### Words of a Keeper's data RAM -/

section
variable {k : Fin 4} {s t u : State} {l l' : List (Nat × Word)}

theorem Local.ramHolds (h : Local k s t) : ramHolds s t k [] :=
  ⟨fun _ mem => absurd mem List.not_mem_nil, fun k' a _ => by rw [ramWord, ramWord, h.dram k'], h.mem⟩

/-- One store after another, to other addresses. -/
theorem ramHolds_append (a : ramHolds s t k l) (b : ramHolds t u k l') (apart : ∀ e ∈ l, ∀ e' ∈ l', e.1 ≠ e'.1) :
    ramHolds s u k (l ++ l') := by
  obtain ⟨stands, rest, mem⟩ := a
  obtain ⟨stands', rest', mem'⟩ := b
  refine ⟨fun e at_ => ?_, fun k' a other => ?_, mem'.trans mem⟩
  · rcases List.mem_append.mp at_ with first | second
    · rw [rest' k e.1 fun e' second same => apart e first e' second (congrArg Prod.snd same).symm, stands e first]
    · exact stands' e second
  · rw [rest' k' a fun e at_ => other e (List.mem_append_right _ at_), rest k' a fun e at_ => other e (List.mem_append_left _ at_)]

theorem ramHolds_local (a : ramHolds s t k l) (b : Local k t u) : ramHolds s u k l := by
  simpa using ramHolds_append a b.ramHolds (by simp)

theorem ramHolds_of_local (a : Local k s t) (b : ramHolds t u k l) : ramHolds s u k l := by
  simpa using ramHolds_append a.ramHolds b (by simp)

theorem State.dStore_keeper {a : Nat} {v : Word} (ram : a < 0xF000) :
    (s.dStore (.keeper k) a v).2 = true ∧ ramHolds s (s.dStore (.keeper k) a v).1 k [(a, v)] := by
  have stored : s.dStore (.keeper k) a v = (s.modKeeper k (fun x => { x with dram := Sparse.set 0 x.dram a v }), true) := by
    rw [State.dStore, if_neg (by omega)]
  rw [stored]
  refine ⟨rfl, fun e at_ => ?_, fun k' a' other => ?_, rfl⟩
  · rw [List.mem_singleton.mp at_]
    simp [ramWord, State.keeper_modKeeper, Sparse.get_set]
  · have apart := other (a, v) (List.mem_singleton.mpr rfl)
    unfold ramWord
    rw [State.keeper_modKeeper]
    split
    · next same =>
      have : a' ≠ a := fun eq => apart (by rw [same, eq])
      simp [Sparse.get_set, this, same]
    · rfl

theorem State.dLoad_keeper {a : Nat} (ram : a < 0xF000) : s.dLoad (.keeper k) a = (s, some (ramWord s k a)) := by
  rw [State.dLoad, if_neg (by omega)]
  rfl

theorem State.memLoad_keeper {a : Nat} (ram : a < 0xF000) : s.memLoad (.keeper k) .d a = (s, some (ramWord s k a)) := by
  show s.dLoad (.keeper k) (a % 65536) = _
  rw [Nat.mod_eq_of_lt (by omega), State.dLoad_keeper ram]

theorem Local.ramWord (h : Local k s t) (a : Nat) : ramWord t k a = ramWord s k a := by
  unfold Sys2Proof.Claims.ramWord
  rw [h.dram k]

/-- Words stored in data RAM, to distinct addresses. -/
theorem State.storeWords_keeper : ∀ (l : List (Nat × Word)) {s : State}, (∀ e ∈ l, e.1 < 0xF000) → (l.map (·.1)).Nodup →
    (s.storeWords (.keeper k) .d l).2 = true ∧ ramHolds s (s.storeWords (.keeper k) .d l).1 k l
  | [], s, _, _ => ⟨rfl, (Local.refl k s).ramHolds⟩
  | (a, v) :: l, s, ram, nodup => by
    have here : a < 0xF000 := ram (a, v) List.mem_cons_self
    obtain ⟨stored, holds⟩ := State.dStore_keeper (s := s) (k := k) (v := v) here
    have at_ : s.memStore (.keeper k) .d a v = ((s.dStore (.keeper k) a v).1, true) := by
      show s.dStore (.keeper k) (a % 65536) v = _
      rw [Nat.mod_eq_of_lt (by omega)]
      exact Prod.ext rfl stored
    rw [State.storeWords, at_]
    rw [List.map_cons, List.nodup_cons] at nodup
    obtain ⟨rest, holds'⟩ := State.storeWords_keeper l (s := (s.dStore (.keeper k) a v).1)
      (fun e m => ram e (List.mem_cons_of_mem _ m)) nodup.2
    refine ⟨rest, ramHolds_append holds holds' fun e m e' m' same => nodup.1 ?_⟩
    rw [List.mem_singleton.mp m] at same
    exact same ▸ List.mem_map_of_mem m'

end

/-! ### A Keeper's loads and stores in data RAM (R119, R347) -/

section
variable {k : Fin 4} {s b t : State} {pair : Bool} {d : RegNo} {f : MemForm}

/-- A pair that raises no fault below D:0xF000 lies below it whole. -/
theorem State.pair_below {store : Bool} {a : Nat} (ram : a < 0xF000)
    (sound : s.memFault (.keeper k) .d store true d f { addr := a, len := 0, reads := [], advance := none } = none) : a + 1 < 0xF000 := by
  by_contra beyond
  have : a = 0xEFFF := by omega
  subst this
  unfold State.memFault State.accessFault at sound
  split at sound
  · cases sound
  · simp [spaceRow, ramEnd] at sound

/-- The words that stand at the address of a load, by register. -/
def ramLoads (s : State) (k : Fin 4) (pair : Bool) (d : RegNo) (a : Nat) : List (RegNo × Word) :=
  if pair then [(d, ramWord s k a), (regAfter d 1, ramWord s k (a + 1))] else [(d, ramWord s k a)]

theorem State.loadPair_keeper {a : Address} {v : Word} (ram : a.addr + 1 < 0xF000)
    (first : (b.firstWord (.keeper k) .d a.addr) = (b, some v)) : b.loadPair (.keeper k) .d d a =
      ((b.advanceBy (.keeper k) a true).modCpu (.keeper k) (·.loadRegs [(d, v), (regAfter d 1, ramWord b k (a.addr + 1))]), true) := by
  rw [State.loadPair, first]
  dsimp only
  rw [State.memLoad_keeper ram]

/-- A Keeper's load below D:0xF000 comes to its effect, in which it finds the words that stood there. -/
theorem State.Issues.keeper_load (issues : s.Issues (.keeper k) ((s.cpu (.keeper k)).address f).len)
    (sound : (s.cpu (.keeper k)).faultOf (s.loadOp (.keeper k) .d pair d f) = none)
    (ram : ((s.cpu (.keeper k)).address f).addr < 0xF000)
    (ram' : pair = true → ((s.cpu (.keeper k)).address f).addr + 1 < 0xF000) :
    ∃ b, s.ReadyFor (.keeper k) (s.loadOp (.keeper k) .d pair d f) b ∧ Local k s b ∧
      (s.loadOp (.keeper k) .d pair d f).effect b = ((b.advanceBy (.keeper k) ((s.cpu (.keeper k)).address f) pair).modCpu (.keeper k)
        (·.loadRegs (ramLoads s k pair d ((s.cpu (.keeper k)).address f).addr)), true) := by
  set a := (s.cpu (.keeper k)).address f
  by_cases split_ : splitPair pair a.addr = true
  · have two : pair = true := (Bool.and_eq_true_iff.mp split_).1
    subst two
    have loaded (z : State) : z.loadHalf (.keeper k) .d a.addr = (z.setHalf (.keeper k) [ramWord z k a.addr], true) := by
      rw [State.loadHalf, State.memLoad_keeper ram]
    obtain ⟨b, c, i, ready, before, held, after, same⟩ := issues.keeper_split (o := s.loadOp (.keeper k) .d true d f)
      (act := (·.loadHalf (.keeper k) .d a.addr)) (n := accessCount .d false false a.addr + (a.len - 1)) (early := id)
      sound (if_pos split_) (fun z => .refl k z) (fun z => .refl k z) (fun z => by rw [loaded])
    rw [loaded] at after same
    have kept : Local k c b := (State.modCpu_local _).trans after
    refine ⟨b, ready, before.trans kept, ?_⟩
    have first : b.firstWord (.keeper k) .d a.addr = (b, some (ramWord c k a.addr)) := by
      have half : b.halfOf (.keeper k) = some [ramWord c k a.addr] := by
        rw [State.halfOf, same]
        simp only [State.setHalf]
        rw [State.cpu_modKeeperCpu]
        dsimp only
        rw [held]
        rfl
      rw [State.firstWord, half]
      rfl
    show b.loadPair (.keeper k) .d d a = _
    rw [State.loadPair_keeper (ram' rfl) first, before.ramWord, (before.trans kept).ramWord]
    rfl
  · obtain ⟨b, ready, kept, whole⟩ := issues.keeper_whole (o := s.loadOp (.keeper k) .d pair d f) sound (if_neg split_)
      (fun z => .refl k z)
    refine ⟨b, ready, kept, ?_⟩
    cases pair with
    | false =>
      show b.loadWord (.keeper k) .d d a = _
      rw [State.loadWord, State.memLoad_keeper ram]
      dsimp only
      rw [kept.ramWord]
      rfl
    | true =>
      have first : b.firstWord (.keeper k) .d a.addr = (b, some (ramWord b k a.addr)) := by
        rw [State.firstWord, whole]
        exact State.memLoad_keeper ram
      show b.loadPair (.keeper k) .d d a = _
      rw [State.loadPair_keeper (ram' rfl) first, kept.ramWord, kept.ramWord]
      rfl

theorem State.storeOp_clears (z : State) : Passes k z ((s.storeOp (.keeper k) .d pair d f).early z) :=
  (State.clearEarly_passes : Passes k z (z.clearEarly (.keeper k) .d
    (z.wordsLeft (.keeper k) ((s.cpu (.keeper k)).storeList pair d ((s.cpu (.keeper k)).address f).addr))))

/-- The words left to store, and what the first half of a split pair has stored before. -/
theorem State.Issues.keeper_store (issues : s.Issues (.keeper k) ((s.cpu (.keeper k)).address f).len)
    (sound : (s.cpu (.keeper k)).faultOf (s.storeOp (.keeper k) .d pair d f) = none)
    (ram : ((s.cpu (.keeper k)).address f).addr < 0xF000)
    (ram' : pair = true → ((s.cpu (.keeper k)).address f).addr + 1 < 0xF000) :
    ∃ b words, s.ReadyFor (.keeper k) (s.storeOp (.keeper k) .d pair d f) b ∧
      b.wordsLeft (.keeper k) ((s.cpu (.keeper k)).storeList pair d ((s.cpu (.keeper k)).address f).addr) = words ∧
      (b.storeWords (.keeper k) .d words).2 = true ∧ ramHolds s (b.storeWords (.keeper k) .d words).1 k
        ((s.cpu (.keeper k)).storeList pair d ((s.cpu (.keeper k)).address f).addr) := by
  set u := s.cpu (.keeper k)
  set a := u.address f
  by_cases split_ : splitPair pair a.addr = true
  · have two : pair = true := (Bool.and_eq_true_iff.mp split_).1
    subst two
    have stored (z : State) := State.storeWords_keeper (k := k) [(a.addr, u.read d)] (s := z) (by simpa using ram) (by simp)
    have half (z : State) : z.storeHalf (.keeper k) .d [(a.addr, u.read d)] =
        ((z.storeWords (.keeper k) .d [(a.addr, u.read d)]).1.setHalf (.keeper k) [], true) := by
      simp only [State.storeHalf, (stored z).1, if_true]
    obtain ⟨b, c, i, ready, before, held, after, same⟩ := issues.keeper_split (o := s.storeOp (.keeper k) .d true d f)
      (act := (·.storeHalf (.keeper k) .d [(a.addr, u.read d)])) (n := accessCount .d true false a.addr + (a.len - 1))
      (early := (·.clearEarly (.keeper k) .d [(a.addr, u.read d)]))
      sound (if_pos split_) State.storeOp_clears (fun z => State.clearEarly_passes) (fun z => by rw [half])
    rw [half] at after same
    have held' : ((c.storeWords (.keeper k) .d [(a.addr, u.read d)]).1.cpu (.keeper k)).issued = some i := by
      have waits : c.noneWaits := by rw [before.rest]; exact issues.quiet
      have same := (State.storeWords_stores (p := .keeper k) (m := .d) [(a.addr, u.read d)] (s := c)).own waits
      exact (congrArg CpuState.issued same : (CpuState.bare _).issued = (CpuState.bare _).issued).trans held
    have left : b.wordsLeft (.keeper k) (u.storeList true d a.addr) = [(a.addr + 1, u.read (regAfter d 1))] := by
      have some_ : (b.halfOf (.keeper k)).isSome = true := by
        rw [State.halfOf, same]
        simp only [State.setHalf]
        rw [State.cpu_modKeeperCpu]
        dsimp only
        rw [held']
        rfl
      rw [State.wordsLeft, if_pos some_]
      rfl
    obtain ⟨ok, second⟩ := State.storeWords_keeper (k := k) [(a.addr + 1, u.read (regAfter d 1))] (s := b)
      (by simpa using ram' rfl) (by simp)
    refine ⟨b, _, ready, left, ok, ?_⟩
    have first : ramHolds s b k [(a.addr, u.read d)] :=
      ramHolds_local (ramHolds_local (ramHolds_of_local before (stored c).2) (State.modCpu_local _)) after
    exact ramHolds_append first second (by simp)
  · obtain ⟨b, ready, kept, whole⟩ := issues.keeper_whole (o := s.storeOp (.keeper k) .d pair d f) sound (if_neg split_)
      State.storeOp_clears
    have left : b.wordsLeft (.keeper k) (u.storeList pair d a.addr) = u.storeList pair d a.addr := by
      rw [State.wordsLeft, whole]
      rfl
    obtain ⟨ok, holds⟩ := State.storeWords_keeper (k := k) (u.storeList pair d a.addr) (s := b)
      (by cases pair <;> simp [CpuState.storeList, ram, ram']) (by cases pair <;> simp [CpuState.storeList])
    exact ⟨b, _, ready, left, ok, ramHolds_of_local kept holds⟩

theorem State.memFault_pair {store : Bool} {a : Address} (ram : a.addr < 0xF000) (two : pair = true)
    (sound : s.memFault (.keeper k) .d store pair d f a = none) : a.addr + 1 < 0xF000 := by
  subst two
  exact State.pair_below ram sound

theorem advanceBy_local {a : Address} : Local k s (s.advanceBy (.keeper k) a pair) := by
  unfold State.advanceBy
  cases a.advance with
  | none => exact Local.refl k s
  | some e => exact State.modCpu_local (fun u => { u with x := _ })

end

theorem regAfter_ne (d : RegNo) : (regAfter d 1).val ≠ d.val := by
  have := d.isLt
  simp only [regAfter]
  omega

/-- The data RAM of a Keeper, as its loads and stores find and leave it. -/
theorem keeperRam : keeperRamRule := by
  intro k d f pair s p a ram
  refine ⟨fun ready sound => ?_, fun ready sound => ?_⟩
  · have pair' (two : pair = true) : a.addr + 1 < 0xF000 := State.memFault_pair (d := d) (f := f) (store := true) (s := s) ram two sound
    obtain ⟨b, words, readyFor, left, ok, holds⟩ := ready.toIssues.keeper_store sound ram pair'
    have effect : (s.storeOp p .d pair d f).effect b = ((b.storeWords p .d words).1.advanceBy p a pair, true) := by
      rw [← ok, ← left]
      rfl
    refine ⟨s.run p (s.storeOp p .d pair d f), by cases pair <;> rfl, ?_⟩
    exact ramHolds_local (ramHolds_local holds advanceBy_local) (State.run_local readyFor effect)
  · have pair' (two : pair = true) : a.addr + 1 < 0xF000 := State.memFault_pair (d := d) (f := f) (store := false) (s := s) ram two sound
    obtain ⟨b, readyFor, kept, effect⟩ := ready.toIssues.keeper_load sound ram pair'
    obtain ⟨left, -⟩ := readyFor.loads (SameCpu.refl b) effect
    refine ⟨s.run p (s.loadOp p .d pair d f), by cases pair <;> rfl, ?_, fun two => ?_, ?_⟩
    · rw [left.w, withLoads, CpuState.loadRegs_eq]
      have apart := regAfter_ne d
      cases pair <;> simp [ramLoads, setWords, apart, a, p]
    · subst two
      rw [left.w, withLoads, CpuState.loadRegs_eq]
      simp [ramLoads, setWords, a, p]
    · exact ((((kept.trans advanceBy_local).trans (State.modCpu_local _)).trans (State.run_local readyFor effect))).ramHolds

/-! ### A page with its Gallery copy (R66, R178) -/

section
variable {s : State} {c : CtxNo} {i d f : Nat}

/-- A frame's record is changed, and at most a source of the interrupt controller raised. -/
theorem State.setFrame_rest (r : FrameRec) : ∃ d k,
    s.setFrame f r = { s with frames := Sparse.set FrameRec.free s.frames f r, dic := d, keepers := k } := by
  unfold State.setFrame
  have same : s.putFrame f r = { s.putFrame f r with dic := s.dic, keepers := s.keepers } := rfl
  dsimp only
  split
  · split
    · split
      · obtain ⟨d, k, raised⟩ := State.raiseP_rest (s := s.putFrame f r) (9 + ‹Nat›)
        exact ⟨d, k, raised⟩
      · exact ⟨_, _, same⟩
    · exact ⟨_, _, same⟩
  · exact ⟨_, _, same⟩

theorem State.page_modCtx (g : Context → Context) : (s.modCtx c g).page c i = (g (s.ctx c)).page i := by
  rw [State.page, State.ctx_modCtx, if_pos rfl]

theorem Context.page_setPage (x : Context) (e : PageEntry) : (x.setPage i e).page i = e := by
  unfold Context.page Context.setPage
  rw [Sparse.get_set, if_pos rfl]

/-- A page with its Gallery copy becomes dirty; memory stays. -/
theorem State.markDirty_resident (die : s.ctxDie c = some d) (copy : (s.page c i).gcopy = true) :
    (s.markDirty c i).mem = s.mem ∧ ((s.markDirty c i).page c i).dirty = true := by
  unfold State.markDirty
  rw [die]
  dsimp only
  rw [if_pos copy]
  unfold State.modFrame
  obtain ⟨x, y, marked⟩ := State.setFrame_rest (s := s.modCtx c (fun x => x.setPage i { x.page i with dirty := true }))
    (f := (s.page c i).home.toNat)
    { (s.modCtx c (fun x => x.setPage i { x.page i with dirty := true })).frame (s.page c i).home.toNat with
      copy := some (d == 1, (s.page c i).gframe) }
  rw [marked]
  refine ⟨rfl, ?_⟩
  show ((s.modCtx c (fun x => x.setPage i { x.page i with dirty := true })).page c i).dirty = true
  rw [State.page_modCtx, Context.page_setPage]

theorem State.ensureCopy_resident (die : s.ctxDie c = some d) (alloc : (s.page c i).alloc = true) (copy : (s.page c i).gcopy = true) :
    s.ensureCopy c i = (s.touchGallery (galleryFrame d (s.page c i).gframe.toNat), true) := by
  unfold State.ensureCopy State.ensureCopyAs
  rw [die]
  simp [alloc, copy]

theorem State.pageFrame_resident (die : s.ctxDie c = some d) (alloc : (s.page c i).alloc = true) (copy : (s.page c i).gcopy = true) :
    s.pageFrame c i = some (galleryFrame d (s.page c i).gframe.toNat) := by
  unfold State.pageFrame
  rw [die]
  simp [alloc, copy]

/-- A page that its session may write, and that has its copy, is ready for the write as it is. -/
theorem State.pageTouch_resident (die : s.ctxDie c = some d) (alloc : (s.page c i).alloc = true) (cow : (s.page c i).cow = false)
    (copy : (s.page c i).gcopy = true) :
    s.pageTouch c i = (s.touchGallery (galleryFrame d (s.page c i).gframe.toNat), true) := by
  have touched : s.firstTouch c i = (s, true) := by rw [State.firstTouch, if_pos alloc]
  have own : s.copyOnWrite c i = (s, true) := by
    unfold State.copyOnWrite
    simp [cow]
  unfold State.pageTouch
  rw [touched]
  simp only [cow, Bool.false_and, Bool.false_eq_true, if_false, own, State.ensureCopy_resident die alloc copy]

end

/-- A word of a page that has its Gallery copy is read and written there. -/
theorem residentPage : residentPageRule := by
  intro s c i off d v _ die alloc cow copy f a
  have ready := State.ensureCopy_resident die alloc copy
  have frame : (s.touchGallery f).pageFrame c i = some f := State.pageFrame_resident (s := s.touchGallery f) die alloc copy
  refine ⟨fun good => ?_, ?_⟩
  · have whole : s.pageReady c i off 1 = (s.touchGallery f, true) := by
      rw [State.pageReady, if_pos alloc, ready]
      dsimp only
      rw [frame]
      have good' : (s.touchGallery f).badIn f off 1 = false := good
      dsimp only
      rw [good']
      rfl
    rw [State.pageRead, whole]
    refine ⟨?_, rfl⟩
    show some ((s.touchGallery f).peek c i off) = _
    rw [State.peek, frame]
    rfl
  · have written : s.pageWrite c i off v = (((s.touchGallery f).setWord a v).markDirty c i, true) := by
      rw [State.pageWrite, State.pageTouch_resident die alloc cow copy]
      dsimp only
      rw [frame]
    obtain ⟨mem, dirty⟩ := State.markDirty_resident (s := (s.touchGallery f).setWord a v) (c := c) (i := i) die copy
    rw [written]
    refine ⟨rfl, ?_, fun b low high => ?_, dirty⟩
    · rw [State.word, mem]
      exact memWord_memSetWord s.mem a v
    · rw [mem]
      exact memByte_memSetWord s.mem a v b low high

/-- Settles O14: a Keeper's data RAM, and a page of a session with its Gallery copy. -/
theorem dataAccess : Obligations.DataAccess := ⟨keeperRam, residentPage⟩

end Sys2Proof.Machine

/-! ## PUSH and POP, and an effect that ends on its own processor (R111, R149) -/

namespace Sys2Proof.Machine

open Sys2Proof Sys2Proof.Claims

section
variable {p : Cpu} {s b c : State} {o : Op} {modes : Bool} {g : CpuState → CpuState}

/-- An instruction that comes to its effect, where memory is reached first (`c`) and then `g` changes its own registers. -/
theorem State.ReadyFor.leaves (ready : s.ReadyFor p o b) (reached : State.Reaches modes p s c)
    (effect : o.effect b = (c.modCpu p g, true)) (pc : ∀ u, (g u).pc = u.pc) (slot : ∀ u, (g u).slot = u.slot)
    (seq : ∀ u, (g u).seq = u.seq) (waiting : ∀ u, (g u).waiting = u.waiting) :
    s.Retires (s.run p o) p o.len { g (c.cpu p) with slot := o.transfer.map (o.resolve b), shadow := o.isLoad } ∧
      (∀ k, p = .keeper k → (s.run p o).mem = c.mem) := by
  have cpu : (c.modCpu p g).cpu p = g (c.cpu p) := (State.cpu_modCpu _ reached.has).trans (if_pos rfl)
  have left := ready.finishes effect ((State.has_modCpu _).mpr reached.has) (State.noneWaits_modCpu.mpr reached.waits)
    (by rw [cpu, pc]; exact (congrArg CpuState.pc reached.own : ((c.cpu p).base modes).pc = ((s.cpu p).base modes).pc))
    (by rw [cpu, slot]; exact (congrArg CpuState.slot reached.own : ((c.cpu p).base modes).slot = ((s.cpu p).base modes).slot))
    (by rw [cpu, seq]; exact reached.seq) (by rw [cpu, waiting]; exact reached.waiting)
    (fun q other => by rw [State.cpu_modCpu _ reached.has, if_neg other]; exact reached.others q other)
  rw [cpu] at left
  exact ⟨left.1, fun k own => (left.2 k own).trans (State.mem_modCpu _)⟩

/-- The registers that a store comes to: those it started from, with no load before them. -/
theorem State.Reaches.cpu_eq (reached : State.Reaches modes p s c) (old : (c.cpu p).loadOld = []) :
    ∃ now issued pend, c.cpu p = { s.cpu p with loadOld := [], now := now, issued := issued, modePend := pend } := by
  have own := reached.own
  refine ⟨(c.cpu p).now, (c.cpu p).issued, (c.cpu p).modePend, ?_⟩
  have back : c.cpu p = { (c.cpu p).base modes with
      now := (c.cpu p).now, issued := (c.cpu p).issued, modePend := (c.cpu p).modePend } := by
    show _ = { c.cpu p with loadOld := [] }
    rw [← old]
  rw [back, own]
  rfl

theorem Stores.loadOld (stores : Stores p b c) (waits : b.noneWaits) : (c.cpu p).loadOld = (b.cpu p).loadOld :=
  (congrArg CpuState.loadOld (stores.own waits) : (CpuState.bare _).loadOld = (CpuState.bare _).loadOld)

end

section
variable {p : Cpu} {r : RegNo} {s b : State} {k : Fin 4}

theorem State.pushOp_early (z : State) : (s.pushOp p r).early z =
    z.clearEarly p .d [(((s.cpu p).read 15 - 1).toNat, (s.cpu p).read r)] := rfl

theorem State.ReadyFor.push (ready : s.ReadyFor p (s.pushOp p r) b)
    (stored : (b.dStore p ((s.cpu p).read 15 - 1).toNat ((s.cpu p).read r)).2 = true) :
    s.Moves (s.run p (s.pushOp p r)) p 1 ((s.cpu p).begun.write 15 ((s.cpu p).read 15 - 1)) ∧
      (s.pushOp p r).effect b = ((b.dStore p ((s.cpu p).read 15 - 1).toNat ((s.cpu p).read r)).1.modCpu p
        (·.write 15 ((s.cpu p).read 15 - 1)), true) := by
  obtain ⟨before, old⟩ : State.Reaches false p s b ∧ (b.cpu p).loadOld = [] :=
    ready.reaches (fun z => by rw [State.pushOp_early]; exact State.clearEarly_cpu (SameCpu.refl z)) fun _ _ _ mid => absurd mid nofun
  have stores := State.dStore_stores (p := p) (a := ((s.cpu p).read 15 - 1).toNat) (v := (s.cpu p).read r) (s := b)
  have effect : (s.pushOp p r).effect b = ((b.dStore p ((s.cpu p).read 15 - 1).toNat ((s.cpu p).read r)).1.modCpu p
      (·.write 15 ((s.cpu p).read 15 - 1)), true) := by
    show (let q := b.dStore p ((s.cpu p).read 15 - 1).toNat ((s.cpu p).read r)
      ((if q.2 then q.1.modCpu p (·.write 15 ((s.cpu p).read 15 - 1)) else q.1, q.2) : State × Bool)) = _
    simp only [stored, if_true]
  have left := ready.leaves (before.stores stores) effect (fun _ => rfl) (fun _ => rfl) (fun _ => rfl) (fun _ => rfl)
  obtain ⟨now, issued, pend, cpu⟩ := (before.stores stores).cpu_eq ((stores.loadOld before.waits).trans old)
  rw [cpu] at left
  exact ⟨left.1.toMoves.of_left rfl, effect⟩

theorem State.ReadyFor.pop {v : Word} (ready : s.ReadyFor p (s.popOp p r) b)
    (loaded : (b.dLoad p ((s.cpu p).read 15).toNat).2 = some v) :
    s.Moves (s.run p (s.popOp p r)) p 1
        { ((s.cpu p).begun.loadRegs [(r, v)]).write 15 ((s.cpu p).read 15 + 1) with shadow := true } ∧
      (s.popOp p r).effect b = ((b.dLoad p ((s.cpu p).read 15).toNat).1.modCpu p
        (fun u => (u.loadRegs [(r, v)]).write 15 ((s.cpu p).read 15 + 1)), true) := by
  obtain ⟨before, old⟩ : State.Reaches true p s b ∧ (b.cpu p).loadOld = [] :=
    ready.reaches (fun z => SameCpu.refl z) fun _ _ _ mid => absurd mid nofun
  have same := State.dLoad_cpu (a0 := p) (a1 := ((s.cpu p).read 15).toNat) (SameCpu.refl b)
  have effect : (s.popOp p r).effect b = ((b.dLoad p ((s.cpu p).read 15).toNat).1.modCpu p
      (fun u => (u.loadRegs [(r, v)]).write 15 ((s.cpu p).read 15 + 1)), true) := by
    have found : b.dLoad p ((s.cpu p).read 15).toNat = ((b.dLoad p ((s.cpu p).read 15).toNat).1, some v) := Prod.ext rfl loaded
    unfold State.popOp
    dsimp only
    rw [found]
  have left := ready.leaves (before.same same) effect (fun _ => rfl) (fun _ => rfl) (fun _ => rfl) (fun _ => rfl)
  obtain ⟨now, issued, pend, cpu⟩ := (before.same same).cpu_eq
    ((CpuState.SameRegs.of_core (same.cpu before.waits p)).loadOld.trans old)
  rw [cpu] at left
  exact ⟨left.1.toMoves.of_left rfl, effect⟩

/-- The registers after a POP. -/
theorem pop_words {t : State} {v x : Word} (moves : s.Moves t p 1
      { ((s.cpu p).begun.loadRegs [(r, v)]).write 15 x with shadow := true }) (other : r ≠ 15) :
    (t.cpu p).w[r.val] = v ∧ (t.cpu p).w[15] = x ∧ ∀ q : RegNo, q ≠ r → q ≠ 15 → (t.cpu p).w[q.val] = (s.cpu p).w[q.val] := by
  have apart : (15 : Nat) ≠ r.val := fun same => other (Fin.ext same.symm)
  have w : (t.cpu p).w = ((s.cpu p).w.set r.val v).set 15 x := moves.w
  simp only [w]
  refine ⟨by simp [apart], by simp, fun q q1 q2 => ?_⟩
  have n1 : r.val ≠ q.val := fun same => q1 (Fin.ext same.symm)
  have n2 : (15 : Nat) ≠ q.val := fun same => q2 (Fin.ext same.symm)
  simp [n1, n2]

end

/-- Settles O16: PUSH stores and then lowers w15, POP loads and then raises it. -/
theorem pushPopResults : Obligations.PushPopResults := by
  intro p r s
  refine ⟨fun b ready stored => ⟨_, rfl, (ready.push stored).1⟩, fun b v ready loaded => ?_, fun k own other => ?_, fun last => ?_⟩
  · have moves := (ready.pop loaded).1
    have other : r ≠ 15 := by
      rintro rfl
      exact absurd ready.sound nofun
    obtain ⟨here, top, rest⟩ := pop_words moves other
    exact ⟨_, rfl, here, top, rest, moves.st, moves.pc⟩
  · subst own
    refine ⟨fun ram ready => ?_, fun ram ready => ?_⟩
    · have sound : (s.cpu (.keeper k)).faultOf (s.pushOp (.keeper k) r) = none := CpuState.faultOf_none (if_neg other) rfl
      obtain ⟨b, readyFor, kept, -⟩ := ready.toIssues.keeper_whole (o := s.pushOp (.keeper k) r) sound rfl
        (fun z => by rw [State.pushOp_early]; exact State.clearEarly_passes)
      obtain ⟨stored, holds⟩ := State.dStore_keeper (s := b) (k := k) (v := (s.cpu (.keeper k)).read r) ram
      obtain ⟨moves, effect⟩ := readyFor.push stored
      exact ⟨_, rfl, moves, ramHolds_local (ramHolds_local (ramHolds_of_local kept holds) (State.modCpu_local _))
        (State.run_local readyFor effect)⟩
    · have sound : (s.cpu (.keeper k)).faultOf (s.popOp (.keeper k) r) = none := CpuState.faultOf_none (if_neg other) rfl
      obtain ⟨b, readyFor, kept, -⟩ := ready.toIssues.keeper_whole (o := s.popOp (.keeper k) r) sound rfl (fun z => .refl k z)
      have loaded := State.dLoad_keeper (s := b) (k := k) ram
      obtain ⟨moves, effect⟩ := readyFor.pop (v := ramWord b k ((s.cpu (.keeper k)).read 15).toNat) (by rw [loaded])
      obtain ⟨here, top, -⟩ := pop_words moves other
      rw [loaded] at effect
      refine ⟨_, rfl, here.trans (kept.ramWord _), top, ?_⟩
      exact ((kept.trans (State.modCpu_local _)).trans (State.run_local readyFor effect)).ramHolds
  · exact ⟨faultsIf_illegal (fun _ => rfl) (fun _ => rfl) (fun _ _ => if_pos last),
      faultsIf_illegal (fun _ => rfl) (fun _ => rfl) (fun _ _ => if_pos last)⟩

end Sys2Proof.Machine

/-! ## WAIT, its end, and the timers (R160, R166, R175, R176) -/

namespace Sys2Proof.Machine

open Sys2Proof Sys2Proof.Claims

/-! ### The interrupt sources of a processor -/

@[simp] theorem IntSt.raise_en (n : Nat) (i : IntSt) : (i.raise n).en = i.en := by
  unfold IntSt.raise
  split <;> rfl

@[simp] theorem IntSt.raiseMany_en (n m : Nat) (i : IntSt) : (i.raiseMany n m).en = i.en := by
  unfold IntSt.raiseMany
  split
  · rfl
  · split <;> simp

@[simp] theorem IntSt.timerCycles_en (n : Nat) (i : IntSt) : (i.timerCycles n).en = i.en := by
  simp [IntSt.timerCycles]

section
variable {p : Cpu} {s b : State} {f : CpuState → CpuState} {k : Fin 4} {o : Op}

theorem State.int_modCpu : (s.modCpu p f).int p = s.int p := by
  cases p with
  | session c =>
    simp only [State.int, State.modCpu, State.sesD, State.ses_modSes, if_true]
    cases s.ses c <;> rfl
  | keeper k => simp [State.int, State.modCpu, State.keeper_modKeeper]

theorem State.int_setForce {a : Nat} {v : Word} : (s.setForce p a v).int p = s.int p := by
  cases p with
  | session c =>
    simp only [State.int, State.setForce, State.sesD, State.ses_modSes, if_true]
    cases s.ses c <;> rfl
  | keeper k => simp [State.int, State.setForce, State.keeper_modKeeper]

theorem State.int_setOwnIo {a v : Nat} : (s.setOwnIo p a v).int p = s.int p := by
  cases p with
  | session c =>
    simp only [State.int, State.setOwnIo, State.sesD, State.ses_modSes, if_true]
    cases s.ses c <;> rfl
  | keeper k => simp [State.int, State.setOwnIo, State.keeper_modKeeper]

theorem State.int_applyMode (m : ModeTarget) : (s.applyMode p m).int p = s.int p := by
  cases m with
  | io a v => exact State.int_setForce
  | yz b => exact State.int_modCpu
  | il l => exact State.int_modCpu
  | ie b => exact State.int_modCpu

theorem State.int_stepModes : (s.stepModes p).int p = s.int p := by
  have each : ∀ (l : List ModeWrite) {a : State}, (l.foldl (fun (s : State) m => s.applyMode p m.target) a).int p = a.int p := by
    intro l
    induction l with
    | nil => exact fun {_} => rfl
    | cons m l ih => exact fun {_} => ih.trans (State.int_applyMode _)
  rw [State.stepModes_eq]
  exact (each _).trans State.int_modCpu

/-- The completion of an instruction raises no source. -/
theorem State.int_commit {issue : Nat} : (s.commit p o issue).int p = s.int p := by
  unfold State.commit
  dsimp only
  rw [State.int_stepModes]
  unfold State.count32
  dsimp only
  rw [State.int_setOwnIo, State.int_setOwnIo, State.int_modCpu]
  split
  · exact State.int_modCpu
  · rfl

theorem State.keeperTime_int (n : Nat) : ((s.keeperTime k n).int (.keeper k)) = (s.int (.keeper k)).timerCycles n := by
  simp [State.keeperTime, State.keeperCycles, State.count32, State.setOwnIo, State.int, State.keeper_modKeeper]

theorem State.cpu_keeperTime (n : Nat) : (s.keeperTime k n).cpu (.keeper k) =
    { s.cpu (.keeper k) with now := (s.cpu (.keeper k)).now + n } := by
  simp [State.keeperTime, State.keeperCycles, State.count32, State.setOwnIo, State.cpu, State.keeper_modKeeper]

/-- A Keeper's cycles enable no source. -/
theorem State.ReadyFor.keeper_en (ready : s.ReadyFor (.keeper k) o b) (mid : o.mid = none) (early : o.early = id) :
    (b.int (.keeper k)).en = (s.int (.keeper k)).en := by
  have comes := ready.comes
  rw [State.effectState, mid] at comes
  obtain ⟨c, counted, rfl⟩ := Option.map_eq_some_iff.mp comes
  rw [State.int_modCpu]
  split at counted
  · simp only [State.lagging, Bool.false_eq_true, if_false, early, id] at counted
    rw [← Option.some.inj counted]
    rfl
  · simp only [State.inCount, State.cpuUntil, State.poised, early, State.cpuPre, State.cpuPost, State.lagging, ite_self, id,
      Bool.false_eq_true, if_false] at counted
    rw [← Option.some.inj counted, State.keeperTime_int, State.keeperTime_int, IntSt.timerCycles_en, IntSt.timerCycles_en]
    rfl

end

theorem State.commit_has {p : Cpu} {s : State} {o : Op} {issue : Nat} (has : s.has p) (waits : s.noneWaits) :
    (s.commit p o issue).has p := by
  unfold State.commit
  dsimp only
  have has1 : (if s.isFast p then s.modCpu p (fun u => { u with prev := u.firstOf o issue }) else s).has p := by
    split; exacts [(State.has_modCpu _).mpr has, has]
  have waits1 : (if s.isFast p then s.modCpu p (fun u => { u with prev := u.firstOf o issue }) else s).noneWaits := by
    split; exacts [State.noneWaits_modCpu.mpr waits, waits]
  generalize (if s.isFast p then s.modCpu p (fun u => { u with prev := u.firstOf o issue }) else s) = a at *
  have counted := (State.count32_steps (p := p) (a := 0xFE30) (n := 1) (State.noneWaits_modCpu.mpr waits1)).has
    ((State.has_modCpu (s := a) (p := p) (·.retire o issue)).mpr has1)
  rw [State.stepModes_eq]
  exact (State.applyModes_steps _ ((State.has_modCpu _).mpr counted)).has ((State.has_modCpu _).mpr counted)

/-! ### WAIT -/

/-- The operation of WAIT. -/
def waitOp (p : Cpu) : Op :=
  { Op.nop with
    effect := fun t => (if t.waitOver p then t else t.modCpu p (fun u => { u with waiting := true }), true) }

section
variable {p : Cpu} {s b t y : State} {v : CpuState}

/-- The wait of a completed instruction's processor ends. -/
theorem State.Retires.wakes {len : Nat} {w : Bool} (retires : s.Retires y p len v)
    (own : (t.cpu p).core = { (y.cpu p).core with waiting := w }) (others : ∀ q, q ≠ p → (t.cpu q).core = (y.cpu q).core) :
    s.Retires t p len { v with waiting := w } := by
  have regs : CpuState.SameRegs { y.cpu p with waiting := w } (t.cpu p) := .of_core own
  obtain ⟨yz, il, ie⟩ := CpuState.modes_of_core (u := { y.cpu p with waiting := w }) own
  refine ⟨⟨regs.w.trans retires.w, regs.x.trans retires.x, regs.seg.trans retires.seg, regs.st.trans retires.st,
    regs.pc.trans retires.pc, regs.slot.trans retires.slot, regs.loadOld.trans retires.loadOld, regs.shadow.trans retires.shadow,
    regs.waiting, regs.halted.trans retires.halted, ?_, fun q other => (others q other).trans (retires.others q other)⟩,
    regs.modePend.trans retires.modePend, fun late => ?_⟩
  · have ended := retires.ended
    unfold CpuState.between at ended ⊢
    rw [regs.issued, regs.seq]
    exact ended
  · obtain ⟨yz', il', ie'⟩ := retires.modes late
    exact ⟨yz.trans yz', il.trans il', ie.trans ie'⟩

/-- The rest of a session's cycle ends its wait where a source is pending and enabled by then. -/
theorem State.passPost_wakes {c : CtxNo} (waits : s.noneWaits) (has : s.has (.session c)) :
    ((s.passPost c).cpu (.session c)).core =
        { (s.cpu (.session c)).core with
          waiting := if (s.passPost c).waitOver (.session c) then false else (s.cpu (.session c)).waiting } ∧
      ∀ q, q ≠ .session c → ((s.passPost c).cpu q).core = (s.cpu q).core := by
  have same : SameCpu s ((s.unitsTo c (s.lastCycle c)).soundDue c) :=
    State.soundDue_cpu (State.unitsTo_cpu (SameCpu.refl s))
  unfold State.passPost
  generalize (s.unitsTo c (s.lastCycle c)).soundDue c = u at *
  have has' : (u.ses c).isSome := (same.has (p := .session c) waits).mpr has
  obtain ⟨x, at_⟩ := Option.isSome_iff_exists.mp has'
  have core := same.cpu waits (.session c)
  have before : u.cpu (.session c) = x.cpu := by simp [State.cpu, State.sesD, at_]
  have after : ((u.modSes c (fun x => { x with cpu := x.cpu.wakes x.int })).cpu (.session c)) = x.cpu.wakes x.int := by
    simp [State.cpu, State.sesD, State.ses_modSes, at_]
  have over_ : (u.modSes c (fun x => { x with cpu := x.cpu.wakes x.int })).waitOver (.session c) = ((x.int.pend &&& x.int.en) != 0) := by
    simp [State.waitOver, State.int, State.sesD, State.ses_modSes, at_]
  refine ⟨?_, fun q other => ?_⟩
  · rw [after, over_, ← core, before]
    have wait : (s.cpu (.session c)).waiting = x.cpu.waiting := by
      rw [← before]; exact (CpuState.SameRegs.of_core core).waiting.symm
    rw [wait]
    unfold CpuState.wakes
    split <;> rfl
  · rw [← same.cpu waits q]
    cases q with
    | keeper k => rfl
    | session c' =>
      have apart : c' ≠ c := fun e => other (by rw [e])
      simp [State.cpu, State.sesD, State.ses_modSes, apart]

theorem State.ReadyFor.wait (ready : s.ReadyFor p (waitOp p) b) :
    s.RetiresHere (s.run p (waitOp p)) p 1 { (s.cpu p).begun with waiting := ((s.run p (waitOp p)).cpu p).waiting } ∧
      (((s.run p (waitOp p)).cpu p).waiting = true → (s.run p (waitOp p)).waitOver p = false) ∧
      (((s.run p (waitOp p)).cpu p).waiting = false → b.waitOver p = true ∨ (s.run p (waitOp p)).waitOver p = true) ∧
      (∀ k, p = .keeper k → b.waitOver p = false → ((s.run p (waitOp p)).cpu p).waiting = true) := by
  have comes := ready.comesTo rfl (fun _ same => same)
  have memory (k : Fin 4) (own : p = .keeper k) : b.mem = s.mem := by
    subst own
    exact ready.memory rfl fun _ => rfl
  set z := if b.waitOver p then b else b.modCpu p (fun u => { u with waiting := true }) with zdef
  have effect : (waitOp p).effect b = (z, true) := rfl
  obtain ⟨post, issue, ran⟩ := State.run_ready ready effect
  have cpu : z.cpu p = { b.cpu p with waiting := !b.waitOver p } := by
    have running : (b.cpu p).waiting = false := comes.regs.waiting.trans (State.mayIssue_waiting ready.issues)
    rw [zdef]
    cases over_ : b.waitOver p
    · rw [if_neg Bool.false_ne_true, State.cpu_modCpu _ comes.has, if_pos rfl]; rfl
    · rw [if_pos rfl, Bool.not_true, ← running]
  have has : z.has p := by rw [zdef]; split; exacts [comes.has, (State.has_modCpu _).mpr comes.has]
  have waits : z.noneWaits := by rw [zdef]; split; exacts [comes.waits, State.noneWaits_modCpu.mpr comes.waits]
  have others (q : Cpu) (other : q ≠ p) : z.cpu q = b.cpu q := by
    rw [zdef]; split; exacts [rfl, (State.cpu_modCpu _ comes.has).trans (if_neg other)]
  have int : z.int p = b.int p := by rw [zdef]; split; exacts [rfl, State.int_modCpu]
  have mem : z.mem = b.mem := by rw [zdef]; split; exacts [rfl, State.mem_modCpu _]
  have left := State.finishes (s := s) (o := waitOp p) (d := none) (issue := issue) (post := false) (z := z)
    (v := { s.cpu p with loadOld := [], waiting := !b.waitOver p }) has waits (by rw [cpu]; exact comes.seq)
    (fun no => absurd no Bool.false_ne_true) rfl
    (by rw [cpu]; exact congrArg (fun u : CpuState => { u with waiting := !b.waitOver p }) comes.own)
    (fun q other => by rw [others q other]; exact comes.others q other)
  have over_ : (z.commit p { waitOp p with transfer := none } issue).waitOver p = b.waitOver p := by
    rw [State.waitOver, State.int_commit, int]
    rfl
  have waits' : (z.commit p { waitOp p with transfer := none } issue).noneWaits := State.commit_waits waits
  have has' : (z.commit p { waitOp p with transfer := none } issue).has p :=
    State.commit_has has waits
  replace ran : s.run p (waitOp p) = if post then (z.commit p { waitOp p with transfer := none } issue).cpuPost p
    else z.commit p { waitOp p with transfer := none } issue := ran
  obtain ⟨retires, memory'⟩ := left
  simp only [Bool.false_eq_true, if_false] at retires memory'
  change s.Retires (z.commit p { waitOp p with transfer := none } issue) p 1
    { (s.cpu p).begun with waiting := !b.waitOver p } at retires
  generalize z.commit p { waitOp p with transfer := none } issue = y at *
  have waiting : (y.cpu p).waiting = !b.waitOver p := retires.waiting
  have here : s.RetiresHere y p 1 { (s.cpu p).begun with waiting := (y.cpu p).waiting } ∧
      ((y.cpu p).waiting = true → y.waitOver p = false) ∧
      ((y.cpu p).waiting = false → b.waitOver p = true ∨ y.waitOver p = true) ∧
      (∀ k, p = .keeper k → b.waitOver p = false → (y.cpu p).waiting = true) := by
    rw [waiting, over_]
    refine ⟨⟨retires, fun k own => ((memory' k own).trans mem).trans (memory k own)⟩, ?_, ?_, fun _ _ no => by rw [no]; rfl⟩
    · exact fun h => by simpa using h
    · exact fun h => .inl (by simpa using h)
  rw [ran]
  cases post with
  | false => exact here
  | true =>
    cases p with
    | keeper k => exact here
    | session c =>
      obtain ⟨own, rest⟩ := State.passPost_wakes waits' has'
      have after : ((y.passPost c).cpu (.session c)).waiting =
          if (y.passPost c).waitOver (.session c) then false else (y.cpu (.session c)).waiting :=
        (congrArg CpuState.waiting own : (CpuState.core _).waiting = _)
      have woken := retires.wakes (t := y.passPost c) (w := ((y.passPost c).cpu (.session c)).waiting)
        (by rw [after]; exact own) rest
      refine ⟨⟨woken, fun _ no => nomatch no⟩, fun wait => ?_, fun up => ?_, fun _ no => nomatch no⟩
      · by_contra over'
        simp only [Bool.not_eq_false] at over'
        change (y.passPost c).waitOver (.session c) = true at over'
        change ((y.passPost c).cpu (.session c)).waiting = true at wait
        rw [after, if_pos over'] at wait
        exact absurd wait Bool.false_ne_true
      · change ((y.passPost c).cpu (.session c)).waiting = false at up
        show _ ∨ (y.passPost c).waitOver (.session c) = true
        rw [after] at up
        cases over' : (y.passPost c).waitOver (.session c) with
        | true => exact .inr rfl
        | false =>
          rw [over', if_neg Bool.false_ne_true, waiting] at up
          exact .inl (by simpa using up)

end

theorem waitResult : waitResultRule := by
  intro p s ready
  obtain ⟨b, readyFor⟩ := ready.readyFor (o := waitOp p) rfl (Nat.zero_le _) rfl rfl (CpuState.faultOf_none rfl rfl)
  obtain ⟨retires, stays, -, keeper⟩ := readyFor.wait
  refine ⟨_, rfl, retires, stays, fun b' nop => ?_, fun k own disabled => ?_⟩
  · exact (State.ReadyFor.wait (b := b') ⟨nop.toIssues, nop.sound, nop.comes⟩).2.2.1
  · subst own
    refine keeper k rfl ?_
    have en := readyFor.keeper_en rfl rfl
    rw [State.waitOver, en, disabled]
    simp

/-! ### WAIT_END -/

section
variable {s : State} {k : Fin 4} {p : Cpu}

/-- What a Keeper that waits with no source enabled leaves in a number of cycles: their count. -/
structure WaitsOn (k : Fin 4) (n : Nat) (s t : State) : Prop where
  cpu : t.cpu (.keeper k) = { s.cpu (.keeper k) with now := (s.cpu (.keeper k)).now + n }
  others : ∀ q, q ≠ .keeper k → t.cpu q = s.cpu q
  mem : t.mem = s.mem

theorem State.keeperTime_waitsOn (n : Nat) : WaitsOn k n s (s.keeperTime k n) := by
  refine ⟨State.cpu_keeperTime n, fun q other => ?_, rfl⟩
  cases q with
  | session c => rfl
  | keeper k' =>
    have apart : k' ≠ k := fun e => other (by rw [e])
    simp [State.keeperTime, State.keeperCycles, State.count32, State.setOwnIo, State.cpu, State.keeper_modKeeper, apart]

theorem State.keeperTime_active (n : Nat) : (s.keeperTime k n).active (.keeper k) = s.active (.keeper k) := by
  have cpu := State.cpu_keeperTime (s := s) (k := k) n
  have running : ((s.keeperTime k n).keeper k).running = (s.keeper k).running := by
    simp [State.keeperTime, State.keeperCycles, State.count32, State.setOwnIo, State.keeper_modKeeper]
  unfold State.active
  dsimp only
  rw [cpu, running]
  rfl

/-- A Keeper with no source enabled waits on. -/
theorem State.waitCycles_disabled : ∀ (n : Nat) {s : State}, s.active (.keeper k) = true → (s.int (.keeper k)).en = 0 →
    WaitsOn k n s (s.waitCycles k n)
  | 0, s, _, disabled => by
    have over_ : s.waitOver (.keeper k) = false := by simp [State.waitOver, disabled]
    rw [State.waitCycles, over_, if_neg Bool.false_ne_true]
    exact ⟨rfl, fun _ _ => rfl, rfl⟩
  | n + 1, s, active, disabled => by
    have over_ : s.waitOver (.keeper k) = false := by simp [State.waitOver, disabled]
    rw [State.waitCycles, over_, if_neg Bool.false_ne_true, if_pos active]
    have one := State.keeperTime_waitsOn (s := s) (k := k) 1
    have more := State.waitCycles_disabled n (s := s.keeperTime k 1) ((State.keeperTime_active 1).trans active)
      (by rw [State.keeperTime_int, IntSt.timerCycles_en, disabled])
    refine ⟨?_, fun q other => (more.others q other).trans (one.others q other), more.mem.trans one.mem⟩
    rw [more.cpu, one.cpu]
    dsimp only
    rw [Nat.add_assoc, Nat.add_comm 1 n]

/-- A source that is pending and enabled ends a Keeper's wait before any cycle passes. -/
theorem State.waitCycles_over (n : Nat) (over_ : s.waitOver (.keeper k) = true) :
    s.waitCycles k n = s.modCpu (.keeper k) (fun u => { u with waiting := false }) := by
  cases n <;> rw [State.waitCycles, if_pos over_]

theorem State.cpu_stopsWaiting (has : s.has p) :
    (s.modCpu p (fun u => { u with waiting := false })).cpu p = { s.cpu p with waiting := false } ∧
      (∀ q, q ≠ p → (s.modCpu p (fun u => { u with waiting := false })).cpu q = s.cpu q) ∧
      (s.modCpu p (fun u => { u with waiting := false })).mem = s.mem :=
  ⟨(State.cpu_modCpu _ has).trans (if_pos rfl), fun _ other => (State.cpu_modCpu _ has).trans (if_neg other), State.mem_modCpu _⟩

end

theorem waitEndResult : waitEndResultRule := by
  intro p s n active waiting has
  refine ⟨fun over_ => ?_, fun k own disabled => ?_⟩
  · refine ⟨_, ?_, State.cpu_stopsWaiting has⟩
    cases p with
    | session c =>
      have ended : (s.modCpu (.session c) (fun u => { u with waiting := false })).sesD c false (·.cpu.waiting) = false := by
        obtain ⟨x, at_⟩ := Option.isSome_iff_exists.mp has
        simp [State.modCpu, State.sesD, State.ses_modSes, at_]
      simp only [exec, execWaitEnd, waiting, over_, Bool.and_self, if_true, ended, Bool.false_eq_true, if_false]
    | keeper k => simp only [exec, execWaitEnd, active, waiting, Bool.and_self, if_true, State.waitCycles_over n over_]
  · subst own
    have on := State.waitCycles_disabled n active disabled
    refine ⟨_, ?_, on.cpu, on.others, on.mem⟩
    simp only [exec, execWaitEnd, active, waiting, Bool.and_self, if_true]

/-- Settles O25: WAIT takes its cycle and waits unless a source is up; WAIT_END ends the wait once one is. -/
theorem waitAndWake : Obligations.WaitAndWake := ⟨waitResult, waitEndResult⟩

/-! ### The expiry of a timer -/

/-- Keeper 0 runs and waits, and its timer 0 counts with its prescaler past the last step already. -/
def phasePast : State := State.reset.modKeeper 0 (fun x => { x with
  running := true, cpu := { x.cpu with waiting := true }
  int := { IntSt.zero with t0 := { TimerSt.zero with ctrl := 1, count := 1, phase := 1 } } })

/-- Refutes O26: a timer's prescaler phase may be any number in a state, and where it has passed the step at which the count ends,
no cycle is left to the expiry, so none passes and no source is raised. -/
theorem not_interruptSourcesAndTimers : ¬ Obligations.InterruptSourcesAndTimers := by
  rintro ⟨-, -, expires⟩
  obtain ⟨t, ran, pend, -⟩ := expires 0 phasePast 0 (by decide) (by decide) (by decide) (by decide) (by decide)
    (fun i _ => by rw [show (phasePast.int (.keeper 0)).en = 0 by decide]; exact BitVec.getLsbD_zero)
  have none_ : exec (.timerExpiry (.keeper 0) 0) phasePast = .next phasePast := rfl
  rw [none_] at ran
  cases ran
  exact absurd pend (by decide)

end Sys2Proof.Machine

/-! ## Interrupt entry (R111, R167, R169, R170) -/

namespace Sys2Proof.Machine

open Sys2Proof Sys2Proof.Claims

/-! ### Cycles of a sequence -/

/-- A session's processor does not wait. (A Keeper's cycles pass either way.) -/
def CpuState.Goes (p : Cpu) (u : CpuState) : Prop := ∀ c, p = .session c → u.waiting = false

/-- State `t`, come to from `s`, has processor `p` as `u` says, but for the count of its cycles, and every other as it was. -/
structure State.Holds (s : State) (p : Cpu) (t : State) (u : CpuState) : Prop where
  has : t.has p
  waits : t.noneWaits
  own : (t.cpu p).core = u.core
  others : ∀ q, q ≠ p → (t.cpu q).core = (s.cpu q).core

section
variable {s t r z : State} {p : Cpu} {u v : CpuState} {load : Bool} {acc : List Reached} {early : State → State}
  {act : State → State × Bool} {q : Seq} {f : CpuState → CpuState}

theorem State.Holds.same (h : s.Holds p t u) (same : SameCpu t r) : s.Holds p r u :=
  ⟨(same.has h.waits).mpr h.has, same.waits h.waits, (same.cpu h.waits p).trans h.own, fun q other =>
    (same.cpu h.waits q).trans (h.others q other)⟩

theorem State.Holds.regs (h : s.Holds p t u) : u.SameRegs (t.cpu p) := .of_core h.own

theorem State.Holds.modCpu (h : s.Holds p t u) (plain : ∀ u, (f u).core = (f u.core).core) : s.Holds p (t.modCpu p f) (f u) := by
  refine ⟨(State.has_modCpu _).mpr h.has, State.noneWaits_modCpu.mpr h.waits, ?_, fun q other => ?_⟩
  · rw [State.cpu_modCpu _ h.has, if_pos rfl, plain, h.own, ← plain]
  · rw [State.cpu_modCpu _ h.has, if_neg other]
    exact h.others q other

theorem State.Holds.modInt (h : s.Holds p t u) (g : IntSt → IntSt) : s.Holds p (t.modInt p g) u :=
  h.same (State.modInt_cpu (SameCpu.refl t))

theorem State.Holds.post (h : s.Holds p t u) (runs : u.Goes p) : s.Holds p (t.cpuPost p) u := by
  cases p with
  | session c => exact h.same (State.cpuPost_cpu (h.regs.waiting.trans (runs c rfl)) (SameCpu.refl t))
  | keeper k => exact h

/-- The state that something is done in, in the next cycle. -/
def State.cycleAt (p : Cpu) (load : Bool) (early : State → State) (t : State) : State :=
  let pre := (early (t.poised p).1).cpuPre p
  if load then pre.cpuPost p else pre

/-- A cycle that is made: what is done in it. -/
theorem State.inCycle_made (made : t.inCycle p load acc early act = (r, .made)) :
    ∃ z, act (t.cycleAt p load early) = (z, true) ∧ r = if load then z else z.cpuPost p := by
  unfold State.inCycle at made
  unfold State.cycleAt
  cases poised : t.poised p with
  | mk s1 ok =>
    rw [poised] at made
    cases ok with
    | false => cases made
    | true =>
      dsimp only at made ⊢
      generalize (if load then ((early s1).cpuPre p).cpuPost p else (early s1).cpuPre p) = c at *
      by_cases lags : c.lagging p load acc = true
      · rw [if_pos lags] at made
        cases made
      · rw [if_neg lags] at made
        cases acted : act c with
        | mk z ok =>
          rw [acted] at made
          cases ok with
          | false => cases made
          | true => exact ⟨z, rfl, (congrArg Prod.fst made).symm⟩

/-- The registers in that state. -/
theorem State.Holds.cycle (h : s.Holds p t u) (runs : v.Goes p)
    (before : ∀ z, s.Holds p z u → s.Holds p (early z) v) : s.Holds p (t.cycleAt p load early) v := by
  have poised : s.Holds p (t.poised p).1 u := h.same (State.poised_cpu (SameCpu.refl t))
  have pre : s.Holds p ((early (t.poised p).1).cpuPre p) v := (before _ poised).same (State.cpuPre_cpu (SameCpu.refl _))
  unfold State.cycleAt
  cases load with
  | false => exact pre
  | true => exact pre.post runs

/-- A cycle that is made, from the registers before it to those that what is done in it leaves. -/
theorem State.Holds.made {w : CpuState} (h : s.Holds p t u) (made : t.inCycle p load acc early act = (r, .made))
    (runs : v.Goes p) (before : ∀ z, s.Holds p z u → s.Holds p (early z) v) (runs' : w.Goes p)
    (does : ∀ z, s.Holds p (t.cycleAt p load early) v → act (t.cycleAt p load early) = (z, true) → s.Holds p z w) :
    s.Holds p r w := by
  obtain ⟨z, acted, rfl⟩ := State.inCycle_made made
  have after := does z (h.cycle runs before) acted
  cases load with
  | false => exact after.post runs'
  | true => exact after

end

/-! ### The cycles of an entry -/

section
variable {s t r : State} {p : Cpu} {u : CpuState} {q q' : Seq} {v : Word}

/-- The sequence of an entry after cycles in which a source of higher level may replace the one selected. -/
structure Seq.Chosen (q q' : Seq) : Prop where
  kind : q'.kind = .entry
  ret : q'.ret = q.ret
  st : q'.st = q.st
  choice : q'.src = q.src ∧ q'.level = q.level ∨ q.src.isSome = true ∧ q.level < q'.level ∧ ∃ m, m < 16 ∧ q'.src = some m

theorem Seq.Chosen.trans {q q' q'' : Seq} (a : q.Chosen q') (b : q'.Chosen q'') : q.Chosen q'' := by
  refine ⟨b.kind, b.ret.trans a.ret, b.st.trans a.st, ?_⟩
  rcases b.choice with ⟨src, level⟩ | ⟨chosen, above, m, lt, src⟩
  · rw [src, level]
    exact a.choice
  · rcases a.choice with ⟨src', level'⟩ | ⟨chosen', above', _⟩
    · exact .inr ⟨src' ▸ chosen, level' ▸ above, m, lt, src⟩
    · exact .inr ⟨chosen', Nat.lt_trans above' above, m, lt, src⟩

/-- The sequence after one of those cycles. -/
structure Seq.Follows (q q' : Seq) : Prop extends q.Chosen q' where
  step : q'.step = q.step + 1

/-- A selected source is one of the 16. -/
theorem IntSt.select_lt {above : Nat} {i : IntSt} {m l : Nat} (picked : i.select above = some (m, l)) : m < 16 := by
  have each : ∀ (ns : List Nat) (best : Option (Nat × Nat)), (∀ n ∈ ns, n < 16) → (∀ b, best = some b → b.1 < 16) →
      ∀ b, ns.foldl (fun best n =>
        let l := i.levelOf n
        if wbit i.pend n && wbit i.en n && decide (above < l) && (match best with | some b => decide (b.2 < l) | none => true)
        then some (n, l) else best) best = some b → b.1 < 16 := by
    intro ns
    induction ns with
    | nil => exact fun _ _ ok => ok
    | cons n ns ih =>
      intro best small ok
      refine ih _ (fun n mem => small n (List.mem_cons_of_mem _ mem)) ?_
      intro b at_
      have here : b = (n, i.levelOf n) ∨ best = some b := by
        cases best with
        | none =>
          dsimp only at at_
          split at at_
          · exact .inl (Option.some.inj at_).symm
          · cases at_
        | some b0 =>
          dsimp only at at_
          split at at_
          · exact .inl (Option.some.inj at_).symm
          · exact .inr at_
      rcases here with rfl | old
      · exact small n List.mem_cons_self
      · exact ok b old
  exact each (List.range 16) none (fun n mem => List.mem_range.mp mem) (fun _ no => nomatch no) (m, l) picked

theorem State.selected_lt {m l : Nat} (picked : s.selected p = some (m, l)) : m < 16 := by
  unfold State.selected at picked
  split at picked
  · exact IntSt.select_lt picked
  · cases picked

theorem State.setSeq_plain (q : Option Seq) : ∀ u : CpuState,
    ({ u with seq := q } : CpuState).core = ({ u.core with seq := q } : CpuState).core := fun _ => rfl

/-- The selection after a cycle, which has gone on to `next`. -/
theorem State.Holds.reselect (h : s.Holds p t { u with seq := some q' }) (follows : q.Follows q') :
    ∃ q'', s.Holds p (t.reselect p) { u with seq := some q'' } ∧ q.Follows q'' := by
  have seq : (t.cpu p).seq = some q' := h.regs.seq
  unfold State.reselect
  rw [seq]
  dsimp only
  split
  · rename_i src m l source picked
    split
    · rename_i higher
      have next : q'.Chosen { q' with src := some m, level := l } :=
        ⟨follows.kind, rfl, rfl, .inr ⟨by rw [source]; rfl, higher, m, State.selected_lt picked, rfl⟩⟩
      exact ⟨_, h.modCpu (State.setSeq_plain _), follows.toChosen.trans next, follows.step⟩
    · exact ⟨q', h, follows⟩
  · exact ⟨q', h, follows⟩

theorem State.Holds.dStore {a : Nat} (h : s.Holds p t u) (ram : a < ramEnd p) : s.Holds p (t.dStore p a v).1 u := by
  unfold State.dStore
  cases p with
  | session c =>
    have low : ¬ 0xF000 ≤ a := by simp only [ramEnd] at ram; omega
    rw [if_neg low]
    exact h.same (State.dWrite_cpu (SameCpu.refl t))
  | keeper k =>
    have low : ¬ 0xF000 ≤ a := by simp only [ramEnd] at ram; omega
    rw [if_neg low]
    refine ⟨h.has, h.waits, ?_, fun q other => ?_⟩
    · rw [← h.own]
      simp [State.cpu, State.keeper_modKeeper]
    · rw [← h.others q other]
      cases q with
      | session c => rfl
      | keeper k' =>
        have apart : k' ≠ k := fun e => other (by rw [e])
        simp [State.cpu, State.keeper_modKeeper, apart]

/-- A push onto work RAM. -/
theorem State.Holds.push (h : s.Holds p t u) (ram : (u.w[15] - 1).toNat < ramEnd p) (pushed : t.push p v = (r, true)) :
    s.Holds p r (u.write 15 (u.w[15] - 1)) := by
  unfold State.push at pushed
  rw [h.regs.w] at pushed
  have stored := (Prod.mk.inj pushed).2
  have left := (Prod.mk.inj pushed).1
  rw [if_pos stored] at left
  rw [← left]
  exact (h.dStore ram).modCpu (fun _ => rfl)

theorem State.Holds.setSeq (h : s.Holds p t u) (q : Option Seq) : s.Holds p (t.setSeq p q) { u with seq := q } :=
  h.modCpu (State.setSeq_plain q)

/-- Neither push lies outside work RAM. -/
theorem CpuState.badPush_none (fits : pushesFit u p) : u.badPush p = none := by
  obtain ⟨first, second⟩ := fits
  unfold CpuState.badPush
  rw [List.find?_eq_none]
  intro a mem
  simp only [List.mem_cons, List.not_mem_nil, or_false] at mem
  rcases mem with rfl | rfl <;> simpa using by assumption

/-- An entry's cycle, apart from the selection after it. -/
theorem State.seqCycle_entry (kind : q.kind = .entry) (made : t.seqCycle p q = (r, .made)) :
    ∃ c, t.entryCycle p q = (c, .made) ∧ r = if q.step ≤ 4 then c.reselect p else c := by
  unfold State.seqCycle at made
  rw [kind] at made
  dsimp only at made
  cases cycle : t.entryCycle p q with
  | mk c ended =>
    rw [cycle] at made
    obtain ⟨left, rfl⟩ := Prod.mk.inj made
    simp only [true_and] at left
    exact ⟨c, rfl, left.symm⟩

/-- A cycle of an entry in which a word is pushed. -/
theorem State.Holds.entryPush (h : s.Holds p t { u with seq := some q }) (runs : u.Goes p) (kind : q.kind = .entry)
    (step : q.step = 1 ∧ u.badPush p = none ∨ q.step = 2) (ram : (u.w[15] - 1).toNat < ramEnd p)
    (made : t.seqCycle p q = (r, .made)) :
    ∃ q', s.Holds p r { u.write 15 (u.w[15] - 1) with seq := some q' } ∧ q.Follows q' := by
  obtain ⟨c, cycle, rfl⟩ := State.seqCycle_entry kind made
  have low : q.step ≤ 4 := by omega
  rw [if_pos low]
  have word : ∃ w, t.inCycle p false [.ram] id
      (fun t => let r := t.push p w; (r.1.setSeq p (some { q with step := q.step + 1 }), r.2)) = (c, .made) := by
    rcases step with ⟨one, good⟩ | two
    · have good' : (t.cpu p).badPush p = none := by
        unfold CpuState.badPush at good ⊢
        rw [h.regs.w]
        exact good
      refine ⟨q.ret, ?_⟩
      rw [← cycle, State.entryCycle, if_pos one, good']
    · refine ⟨q.st, ?_⟩
      rw [← cycle, State.entryCycle, if_neg (by omega), if_pos two]
  obtain ⟨w, cycle'⟩ := word
  have after : s.Holds p c { u.write 15 (u.w[15] - 1) with seq := some { q with step := q.step + 1 } } := by
    refine h.made cycle' (v := { u with seq := some q }) runs (fun _ h => h) runs fun z here acted => ?_
    dsimp only at acted
    obtain ⟨left, pushed⟩ := Prod.mk.inj acted
    rw [← left]
    exact (here.push ram (Prod.ext rfl pushed)).setSeq _
  exact after.reselect ⟨⟨kind, rfl, rfl, .inl ⟨rfl, rfl⟩⟩, rfl⟩

/-- A cycle of an entry in which nothing else is done. -/
theorem State.Holds.entryIdle (h : s.Holds p t { u with seq := some q }) (runs : u.Goes p) (kind : q.kind = .entry)
    (step : q.step = 3 ∨ q.step = 4) (made : t.seqCycle p q = (r, .made)) :
    ∃ q', s.Holds p r { u with seq := some q' } ∧ q.Follows q' := by
  obtain ⟨c, cycle, rfl⟩ := State.seqCycle_entry kind made
  have low : q.step ≤ 4 := by omega
  rw [if_pos low]
  rw [State.entryCycle, if_neg (by omega), if_neg (by omega), if_pos low] at cycle
  have after : s.Holds p c { u with seq := some { q with step := q.step + 1 } } := by
    refine h.made cycle (v := { u with seq := some q }) runs (fun _ h => h) runs fun z here acted => ?_
    obtain ⟨left, -⟩ := Prod.mk.inj acted
    rw [← left]
    exact here.setSeq _
  exact after.reselect ⟨⟨kind, rfl, rfl, .inl ⟨rfl, rfl⟩⟩, rfl⟩

/-- The registers once a level is taken. -/
def CpuState.atLevel (level : Nat) (u : CpuState) : CpuState :=
  { u with il := BitVec.ofNat 3 level, st := if u.levelPending then u.st else stWithLevel u.st level }

theorem State.Holds.setLevelOf {src : Option Nat} {level : Nat} (h : s.Holds p t u) :
    s.Holds p (t.setLevelOf p src level) (u.atLevel level) :=
  (h.modInt _).modCpu (f := CpuState.atLevel level) fun _ => rfl

theorem State.haltRecord_same {c : CtxNo} : SameCpu s (s.haltRecord c) := by
  unfold State.haltRecord
  split
  · exact SameCpu.of_ite (fun _ => State.setLevel_cpu ⟨id, fun _ _ => rfl, fun _ _ => rfl⟩)
      (fun _ => State.countReg_cpu (SameCpu.refl s))
  · exact SameCpu.refl s

/-- A processor that halts keeps its other registers. -/
theorem State.Holds.haltCpu (h : s.Holds p t u) :
    s.Holds p (t.haltCpu p) { u with halted := true, slot := none, loadOld := [], shadow := false } := by
  have stopped := h.modCpu (f := fun u => { u with halted := true, slot := none, loadOld := [], shadow := false }) fun _ => rfl
  unfold State.haltCpu
  cases p with
  | session c => exact stopped.same State.haltRecord_same
  | keeper k => exact stopped.same (State.raiseP_cpu (State.offer_cpu (SameCpu.refl _)))

theorem State.Holds.faultRegs {slot : Bool} {pc : Word} {f : FaultInfo} (h : s.Holds p t u) :
    s.Holds p (t.faultRegs p slot pc f) u :=
  h.same (State.setOwnIo_cpu (State.setOwnIo_cpu (State.setOwnIo_cpu (SameCpu.refl t))))

/-- The cycle in which a vector is read, where its word is there and the sequence goes on. -/
theorem State.Holds.readVector {z : State} (h : s.Holds p t u) (word : (t.cWord p (vectorAddr q.src)).2 = some v)
    (more : (z.cpu p).seq.isSome = true) (read : t.readVector p q = (z, true)) :
    s.Holds p z { u with seq := some { q with step := q.step + 1, vec := v } } ∧ t.cOk p (vectorAddr q.src) = true := by
  unfold State.readVector at read
  dsimp only at read
  cases ok : t.cOk p (vectorAddr q.src) with
  | true =>
    rw [ok, Bool.not_true, if_neg Bool.false_ne_true] at read
    have found : t.cWord p (vectorAddr q.src) = ((t.cWord p (vectorAddr q.src)).1, some v) := Prod.ext rfl word
    rw [found] at read
    rw [← (Prod.mk.inj read).1]
    exact ⟨(h.same (State.cWord_cpu (SameCpu.refl t))).setSeq _, rfl⟩
  | false =>
    rw [ok, Bool.not_false, if_pos rfl] at read
    rw [← (Prod.mk.inj read).1, ((h.faultRegs.setSeq none).haltCpu).regs.seq] at more
    cases more

/-- The fifth cycle of an entry: the level is taken and the vector read. -/
theorem State.Holds.entryLevel (h : s.Holds p t { u with seq := some q }) (runs : u.Goes p) (kind : q.kind = .entry)
    (step : q.step = 5) (word : ((((((t.poised p).1.setLevelOf p q.src q.level).cpuPre p).cpuPost p).cWord p (vectorAddr q.src)).2) = some v)
    (made : t.seqCycle p q = (r, .made)) (more : (r.cpu p).seq.isSome = true) :
    s.Holds p r { u.atLevel q.level with seq := some { q with step := 6, vec := v } } := by
  obtain ⟨c, cycle, rfl⟩ := State.seqCycle_entry kind made
  rw [if_neg (by omega)] at more ⊢
  rw [State.entryCycle, if_neg (by omega), if_neg (by omega), if_neg (by omega), if_pos step] at cycle
  refine h.made cycle (v := { u.atLevel q.level with seq := some q }) runs (fun z h => h.setLevelOf) runs fun z here read => ?_
  obtain ⟨w, acted, left⟩ := State.inCycle_made cycle
  have same : z = c := by
    rw [left, if_pos rfl]
    exact (Prod.mk.inj (read.symm.trans acted)).1
  have after := (here.readVector word (by rw [same]; exact more) read).1
  rw [step] at after
  exact after

/-- The last cycle of an entry or a chain: the vector is the PC. -/
theorem State.Holds.takeVector (h : s.Holds p t { u with seq := some q }) (runs : u.Goes p)
    (cycle : t.seqIdle p (·.takeVector p q) = (r, .made)) : s.Holds p r { u with pc := q.vec, shadow := true, seq := none } := by
  refine h.made cycle (v := { u with seq := some q }) runs (fun _ h => h) runs fun z here acted => ?_
  rw [← (Prod.mk.inj acted).1]
  exact here.modCpu (f := fun u => { u with pc := q.vec, shadow := true, seq := none }) fun _ => rfl

theorem State.Holds.entryVector (h : s.Holds p t { u with seq := some q }) (runs : u.Goes p) (kind : q.kind = .entry)
    (step : q.step = 6) (made : t.seqCycle p q = (r, .made)) :
    s.Holds p r { u with pc := q.vec, shadow := true, seq := none } := by
  obtain ⟨c, cycle, rfl⟩ := State.seqCycle_entry kind made
  rw [if_neg (by omega)]
  rw [State.entryCycle, if_neg (by omega), if_neg (by omega), if_neg (by omega), if_neg (by omega)] at cycle
  exact h.takeVector runs cycle

/-! ### The whole sequence -/

theorem cyclesMade_succ {n : Nat} : cyclesMade p (n + 1) s = some r ↔
    ∃ c q, cyclesMade p n s = some c ∧ (c.cpu p).seq = some q ∧ c.seqCycle p q = (r, .made) := by
  rw [cyclesMade, Option.bind_eq_some_iff]
  refine exists_congr fun c => ?_
  constructor
  · rintro ⟨first, last⟩
    split at last
    · rename_i q seq
      split at last
      · rename_i u cycle
        exact ⟨q, first, seq, by rw [cycle, Option.some.inj last]⟩
      · cases last
    · cases last
  · rintro ⟨q, first, seq, cycle⟩
    refine ⟨first, ?_⟩
    rw [seq]
    dsimp only
    rw [cycle]

/-- A sequence whose cycles are made goes on from where they leave it. -/
theorem State.seqRun_made : ∀ (n fuel : Nat) {r : State}, cyclesMade p n s = some r → s.seqRun p (n + fuel) = r.seqRun p fuel
  | 0, fuel, r, made => by rw [Option.some.inj made, Nat.zero_add]
  | n + 1, fuel, r, made => by
    obtain ⟨c, q, first, seq, cycle⟩ := cyclesMade_succ.mp made
    rw [show n + 1 + fuel = n + (fuel + 1) by omega, State.seqRun_made n (fuel + 1) first, State.seqRun, seq]
    dsimp only
    rw [cycle]

theorem State.seqRun_ended {n fuel : Nat} (made : cyclesMade p n s = some r) (ended : (r.cpu p).seq = none) :
    s.seqRun p (n + fuel) = r := by
  rw [State.seqRun_made n fuel made]
  cases fuel with
  | zero => rfl
  | succ fuel => rw [State.seqRun, ended]

/-- A processor as a sequence begins on it. -/
def CpuState.begins (q : Seq) (u : CpuState) : CpuState :=
  { u with seq := some q, slot := none, loadOld := [], shadow := false, clear := false, prev := none }

theorem State.seqBegun_holds (h : s.Holds p t u) (runs : u.Goes p) : s.Holds p (seqBegun t p q) (u.begins q) := by
  have begun : s.Holds p ((t.modCpu p (CpuState.begins q)).spendFast p) (u.begins q) :=
    (h.modCpu (f := CpuState.begins q) fun _ => rfl).same (State.spendFast_cpu (a0 := p) (SameCpu.refl _))
  cases p with
  | session c => exact begun.same (State.cpuUntil_cpu (begun.regs.waiting.trans (runs c rfl)) (SameCpu.refl _))
  | keeper k => exact begun.same (State.keeperTime_cpu (SameCpu.refl _))

theorem Word.sub_one_sub_one (a : Word) : a - 1 - 1 = a - 2 := by bv_omega

/-- The registers after the four cycles of an entry in which the words are pushed and a source of higher level may be chosen. -/
theorem State.Holds.entryFour {e : State} (h : s.Holds p t { u with seq := some q }) (runs : u.Goes p)
    (kind : q.kind = .entry) (step : q.step = 1) (fits : pushesFit u p) (made : cyclesMade p 4 t = some e) :
    ∃ q', s.Holds p e { u with w := u.w.set 15 (u.w[15] - 2), seq := some q' } ∧ q.Chosen q' ∧ q'.step = 5 := by
  obtain ⟨c3, a4, made3, seq4, cycle4⟩ := cyclesMade_succ.mp made
  obtain ⟨c2, a3, made2, seq3, cycle3⟩ := cyclesMade_succ.mp made3
  obtain ⟨c1, a2, made1, seq2, cycle2⟩ := cyclesMade_succ.mp made2
  obtain ⟨c0, a1, made0, seq1, cycle1⟩ := cyclesMade_succ.mp made1
  cases Option.some.inj made0
  cases Option.some.inj (h.regs.seq.symm.trans seq1)
  obtain ⟨q1, h1, f1⟩ := h.entryPush runs kind (.inl ⟨step, CpuState.badPush_none fits⟩) fits.1 cycle1
  have second : (u.write 15 (u.w[15] - 1)).w[15] - (1 : Word) = u.w[15] - 2 := by
    rw [← Word.sub_one_sub_one]
    simp [CpuState.write]
  have both : (u.write 15 (u.w[15] - 1)).write 15 (u.w[15] - 2) = { u with w := u.w.set 15 (u.w[15] - 2) } := by
    simp [CpuState.write]
  cases Option.some.inj (h1.regs.seq.symm.trans seq2)
  obtain ⟨q2, h2, f2⟩ := h1.entryPush runs f1.kind (.inr (by rw [f1.step, step]))
    (by rw [second]; exact fits.2) cycle2
  rw [second, both] at h2
  cases Option.some.inj (h2.regs.seq.symm.trans seq3)
  obtain ⟨q3, h3, f3⟩ := h2.entryIdle runs f2.kind (.inl (by rw [f2.step, f1.step, step])) cycle3
  cases Option.some.inj (h3.regs.seq.symm.trans seq4)
  obtain ⟨q4, h4, f4⟩ := h3.entryIdle runs f3.kind (.inr (by rw [f3.step, f2.step, f1.step, step])) cycle4
  exact ⟨q4, h4, ((f1.toChosen.trans f2.toChosen).trans f3.toChosen).trans f4.toChosen,
    by rw [f4.step, f3.step, f2.step, f1.step, step]⟩

/-- The registers after an entry whose six cycles are made. -/
theorem State.Holds.entrySix {e : State} {q' : Seq} (h : s.Holds p e { u with seq := some q' }) (runs : u.Goes p)
    (kind : q'.kind = .entry) (step : q'.step = 5) (made4 : cyclesMade p 4 t = some e) (made : cyclesMade p 6 t = some r)
    (word : (((((e.poised p).1.setLevelOf p q'.src q'.level).cpuPre p).cpuPost p).cWord p (vectorAddr q'.src)).2 = some v) :
    s.Holds p r { u.atLevel q'.level with pc := v, shadow := true, seq := none } := by
  obtain ⟨c5, a6, made5, seq6, cycle6⟩ := cyclesMade_succ.mp made
  obtain ⟨c4, a5, made4', seq5, cycle5⟩ := cyclesMade_succ.mp made5
  cases Option.some.inj (made4.symm.trans made4')
  cases Option.some.inj (h.regs.seq.symm.trans seq5)
  have h5 := h.entryLevel runs kind step word cycle5 (by rw [seq6]; rfl)
  cases Option.some.inj (h5.regs.seq.symm.trans seq6)
  exact h5.entryVector runs kind rfl cycle6

/-- What an entry leaves, from the processor it began on. -/
theorem State.Holds.entered {level : Nat} (h : s.Holds p r { ({ (s.cpu p).begins q with
      w := (s.cpu p).w.set 15 ((s.cpu p).w[15] - 2) } : CpuState).atLevel level with pc := v, shadow := true, seq := none }) :
    entered s r p level ∧ (r.cpu p).pc = v ∧ (r.cpu p).halted = (s.cpu p).halted := by
  have regs := h.regs
  obtain ⟨yz, il, ie⟩ := CpuState.modes_of_core h.own
  exact ⟨⟨il, regs.w, regs.st, ie, yz, regs.x, regs.seg, regs.seq, h.others⟩, regs.pc, regs.halted⟩

end

section
variable {p : Cpu} {s : State}

theorem State.entryDue_iff : s.entryDue p = true ↔ s.active p = true ∧ (s.cpu p).between = true ∧ (s.cpu p).waiting = false ∧
    (s.cpu p).shadowed = false ∧ (s.selected p).isSome = true := by
  simp [State.entryDue, and_assoc]

theorem State.entryDue_has (due : s.entryDue p = true) : s.has p := by
  obtain ⟨-, -, -, -, some_⟩ := State.entryDue_iff.mp due
  cases p with
  | keeper k => trivial
  | session c =>
    by_contra absent
    have none_ : s.ses c = none := by
      show s.ses c = none
      simpa [State.has] using absent
    simp [State.selected, State.cpu, State.sesD, none_, CpuState.zero] at some_

/-- ENTRY where a source is to be taken. -/
theorem State.exec_entry {n l : Nat} (due : s.entryDue p = true) (picked : s.selected p = some (n, l)) :
    exec (.entry p) s = .next ((seqBegun s p (entrySeq s p (some n) l)).seqRun p 8) := by
  obtain ⟨active, between, -, -, -⟩ := State.entryDue_iff.mp due
  have seq : (s.cpu p).seq = none := by
    simp only [CpuState.between, Bool.and_eq_true, Option.isNone_iff_eq_none] at between
    exact between.2
  simp only [exec, execEntry, State.poised_active active, active, seq, Option.isSome_none, Bool.and_false, Bool.false_eq_true,
    if_false, due, if_true, picked]
  rfl

/-- The registers as an entry begins. -/
theorem State.entry_begins {n l : Nat} (due : s.entryDue p = true) (quiet : s.noneWaits) :
    s.Holds p (seqBegun s p (entrySeq s p (some n) l)) ((s.cpu p).begins (entrySeq s p (some n) l)) :=
  State.seqBegun_holds ⟨State.entryDue_has due, quiet, rfl, fun _ _ => rfl⟩ fun _ _ => (State.entryDue_iff.mp due).2.2.1

end

theorem entryLeaves : entryRule := by
  intro p s e t q n l v due picked quiet fits a made4 seq made6 word
  have running : (s.cpu p).Goes p := fun _ _ => (State.entryDue_iff.mp due).2.2.1
  have begun := State.entry_begins (n := n) (l := l) due quiet
  obtain ⟨q', h4, chosen, step⟩ := State.Holds.entryFour (u := (s.cpu p).begins (entrySeq s p (some n) l)) begun running rfl rfl fits made4
  cases Option.some.inj (h4.regs.seq.symm.trans seq)
  have h6 := h4.entrySix (t := a) (u := { (s.cpu p).begins (entrySeq s p (some n) l) with
    w := (s.cpu p).w.set 15 ((s.cpu p).w[15] - 2) }) running chosen.kind step made4 made6 word
  obtain ⟨left, pc, -⟩ := State.Holds.entered (q := entrySeq s p (some n) l) h6
  refine ⟨?_, chosen.ret, chosen.st, ?_, left, pc⟩
  · rw [State.exec_entry due picked, State.seqRun_ended (n := 6) (fuel := 2) made6 h6.regs.seq]
  · rcases chosen.choice with same | ⟨-, above, m, -, src⟩
    · exact .inl same
    · exact .inr ⟨above, m, src⟩

end Sys2Proof.Machine

/-! ## A Keeper's entries and faults (R140 to R142, R169, R170, R348) -/

namespace Sys2Proof.Machine

open Sys2Proof Sys2Proof.Claims

/-- A read of another key, whatever the two defaults. -/
theorem Sparse.get_set_of_ne {α : Type} [DecidableEq α] {d d' : α} {m : Sparse α} {j n : Nat} {v : α} (ne : j ≠ n) :
    Sparse.get d (Sparse.set d' m n v) j = Sparse.get d m j := by
  unfold Sparse.set
  split
  · rw [Sparse.get_erase, if_neg ne]
  · rw [Sparse.get_insert, if_neg ne]

/-- What stays of a Keeper and of memory while the words `l` are pushed: the other data RAM, the banks of its code, its fault registers
and the source last taken. -/
structure Pushes (k : Fin 4) (s t : State) (l : List (Nat × Word)) : Prop where
  holds : ramHolds s t k l
  eff : (t.keeper k).eff = (s.keeper k).eff
  io : ∀ a, a < 0xFE30 → t.ownIo (.keeper k) a = s.ownIo (.keeper k) a

section
variable {k : Fin 4} {s t r : State} {u : CpuState} {q q' : Seq} {l l' : List (Nat × Word)} {acc : List Reached} {load : Bool}
  {early : State → State} {act : State → State × Bool}

theorem Pushes.refl : Pushes k s s [] := ⟨(Local.refl k s).ramHolds, rfl, fun _ _ => rfl⟩

theorem Pushes.append (a : Pushes k s t l) (b : Pushes k t r l') (apart : ∀ e ∈ l, ∀ e' ∈ l', e.1 ≠ e'.1) : Pushes k s r (l ++ l') :=
  ⟨ramHolds_append a.holds b.holds apart, b.eff.trans a.eff, fun n low => (b.io n low).trans (a.io n low)⟩

theorem Pushes.trans (a : Pushes k s t l) (b : Pushes k t r []) : Pushes k s r l := by
  simpa using a.append b (by simp)

theorem Pushes.after (a : Pushes k s t []) (b : Pushes k t r l) : Pushes k s r l := by
  simpa using a.append b (by simp)

theorem Pushes.mod (f : Keeper → Keeper) (same : ∀ x, (f x).dram = x.dram ∧ (f x).running = x.running)
    (eff : ∀ x, (f x).eff = x.eff) (io : ∀ x, (f x).io = x.io) : Pushes k s (s.modKeeper k f) [] := by
  refine ⟨(Local.mod f same).ramHolds, ?_, fun a _ => ?_⟩
  · rw [State.keeper_modKeeper, if_pos rfl, eff]
  · show (Sparse.get _ (State.keeper _ k).io a).toNat = _
    rw [State.keeper_modKeeper, if_pos rfl, io]
    rfl

theorem Pushes.modCpu (f : CpuState → CpuState) : Pushes k s (s.modCpu (.keeper k) f) [] :=
  .mod (fun x => { x with cpu := f x.cpu }) (fun _ => ⟨rfl, rfl⟩) (fun _ => rfl) fun _ => rfl

theorem Pushes.setSeq (q : Option Seq) : Pushes k s (s.setSeq (.keeper k) q) [] := .modCpu _

theorem Pushes.modInt (f : IntSt → IntSt) : Pushes k s (s.modInt (.keeper k) f) [] :=
  .mod (fun x => { x with int := f x.int }) (fun _ => ⟨rfl, rfl⟩) (fun _ => rfl) fun _ => rfl

theorem State.ownIo_setOwnIo {a b v : Nat} : (s.setOwnIo (.keeper k) a v).ownIo (.keeper k) b =
    if b = a then v % 65536 else s.ownIo (.keeper k) b := by
  show (Sparse.get _ (State.keeper (s.modKeeper k _) k).io b).toNat = _
  rw [State.keeper_modKeeper, if_pos rfl]
  dsimp only
  split
  · next same => subst same; rw [Sparse.get_set, if_pos rfl, BitVec.toNat_ofNat]
  · next other => rw [Sparse.get_set_of_ne other]; rfl

theorem Pushes.setOwnIo {a v : Nat} (high : 0xFE30 ≤ a) : Pushes k s (s.setOwnIo (.keeper k) a v) [] := by
  refine ⟨State.setOwnIo_local.ramHolds, ?_, fun b low => ?_⟩
  · simp [State.setOwnIo, State.keeper_modKeeper]
  · rw [State.ownIo_setOwnIo, if_neg (by omega)]

theorem State.keeperTime_pushes (n : Nat) : Pushes k s (s.keeperTime k n) [] := by
  have cycles : Pushes k s (s.keeperCycles k n) [] :=
    .mod (fun x => { x with int := x.int.timerCycles n, cpu := { x.cpu with now := x.cpu.now + n } }) (fun _ => ⟨rfl, rfl⟩)
      (fun _ => rfl) fun _ => rfl
  exact (cycles.trans (.setOwnIo (by omega))).trans (.setOwnIo (by omega))

theorem State.reselect_pushes : Pushes k s (s.reselect (.keeper k)) [] := by
  unfold State.reselect
  split
  · split
    · split
      · exact .modCpu _
      · exact .refl
    · exact .refl
  · exact .refl

theorem State.push_pushes {v : Word} (ram : ((s.cpu (.keeper k)).w[15] - 1).toNat < 0xF000) :
    (s.push (.keeper k) v).2 = true ∧
      Pushes k s (s.push (.keeper k) v).1 [(((s.cpu (.keeper k)).w[15] - 1).toNat, v)] := by
  obtain ⟨stored, holds⟩ := State.dStore_keeper (s := s) (k := k) (v := v) ram
  have keeps : Pushes k s (s.dStore (.keeper k) ((s.cpu (.keeper k)).w[15] - 1).toNat v).1
      [(((s.cpu (.keeper k)).w[15] - 1).toNat, v)] := by
    refine ⟨holds, ?_, fun a _ => ?_⟩ <;>
    · rw [State.dStore, if_neg (by omega)]
      simp [State.ownIo, State.keeper_modKeeper]
  refine ⟨stored, ?_⟩
  unfold State.push
  dsimp only
  rw [if_pos stored]
  exact keeps.trans (.modCpu _)

theorem CpuState.goes_keeper : u.Goes (.keeper k) := fun _ no => nomatch no

/-- A cycle of a Keeper is made. -/
theorem State.inCycle_keeper {z : State} (acts : act ((early s).keeperTime k 1) = (z, true)) :
    s.inCycle (.keeper k) load acc early act = (z, .made) := by
  unfold State.inCycle
  simp only [State.poised, State.cpuPre, State.cpuPost, State.lagging, ite_self, Bool.false_eq_true, if_false]
  rw [acts]

/-- A cycle of an entry that is made, with the selection after it. -/
theorem State.seqCycle_entry_made {c : State} (kind : q.kind = .entry) (low : q.step ≤ 4) (cycle : s.entryCycle (.keeper k) q = (c, .made)) :
    s.seqCycle (.keeper k) q = (c.reselect (.keeper k), .made) := by
  unfold State.seqCycle
  rw [kind]
  dsimp only
  rw [cycle, if_pos ⟨rfl, low⟩]

/-- A word pushed in a cycle of a sequence. -/
def State.pushNext (p : Cpu) (v : Word) (next : Option Seq) (t : State) : State × Bool :=
  let r := t.push p v
  (r.1.setSeq p next, r.2)

theorem State.pushCycle_pushes {v : Word} {next : Option Seq} (h : s.Holds (.keeper k) t u) (ram : (u.w[15] - 1).toNat < 0xF000) :
    ∃ c, t.inCycle (.keeper k) false [.ram] id (State.pushNext (.keeper k) v next) = (c, .made) ∧
      Pushes k t c [((u.w[15] - 1).toNat, v)] := by
  have timed : s.Holds (.keeper k) (t.keeperTime k 1) u := h.same (State.keeperTime_cpu (SameCpu.refl t))
  obtain ⟨pushed, keeps⟩ := State.push_pushes (s := t.keeperTime k 1) (k := k) (v := v) (by rw [timed.regs.w]; exact ram)
  rw [timed.regs.w] at keeps
  refine ⟨((t.keeperTime k 1).push (.keeper k) v).1.setSeq (.keeper k) next, State.inCycle_keeper ?_,
    ((State.keeperTime_pushes 1).after keeps).trans (.setSeq next)⟩
  exact Prod.ext rfl pushed

theorem State.Holds.entryPush_pushes (h : s.Holds (.keeper k) t u) (kind : q.kind = .entry)
    (step : q.step = 1 ∧ u.badPush (.keeper k) = none ∨ q.step = 2) (ram : (u.w[15] - 1).toNat < 0xF000) :
    ∃ r, t.seqCycle (.keeper k) q = (r, .made) ∧
      Pushes k t r [((u.w[15] - 1).toNat, if q.step = 1 then q.ret else q.st)] := by
  have cycle : ∃ c, t.entryCycle (.keeper k) q = (c, .made) ∧
      Pushes k t c [((u.w[15] - 1).toNat, if q.step = 1 then q.ret else q.st)] := by
    unfold State.entryCycle
    rcases step with ⟨one, good⟩ | two
    · have good' : (t.cpu (.keeper k)).badPush (.keeper k) = none := by
        unfold CpuState.badPush at good ⊢
        rw [h.regs.w]
        exact good
      simp only [if_pos one, good']
      exact State.pushCycle_pushes h ram
    · simp only [if_neg (show ¬ q.step = 1 by omega), if_pos two]
      exact State.pushCycle_pushes h ram
  obtain ⟨c, made, keeps⟩ := cycle
  exact ⟨_, State.seqCycle_entry_made kind (by omega) made, keeps.trans State.reselect_pushes⟩

theorem State.entryIdle_pushes (kind : q.kind = .entry) (step : q.step = 3 ∨ q.step = 4) :
    ∃ r, t.seqCycle (.keeper k) q = (r, .made) ∧ Pushes k t r [] := by
  have cycle : ∃ c, t.entryCycle (.keeper k) q = (c, .made) ∧ Pushes k t c [] := by
    unfold State.entryCycle
    simp only [if_neg (show ¬ q.step = 1 by omega), if_neg (show ¬ q.step = 2 by omega), if_pos (show q.step ≤ 4 by omega)]
    have made := State.inCycle_keeper (s := t) (k := k) (load := true) (acc := []) (early := id)
      (act := fun t => (t.setSeq (.keeper k) (some { q with step := q.step + 1 }), true)) rfl
    exact ⟨_, made, (State.keeperTime_pushes 1).trans (.setSeq _)⟩
  obtain ⟨c, made, keeps⟩ := cycle
  exact ⟨_, State.seqCycle_entry_made kind (by omega) made, keeps.trans State.reselect_pushes⟩

/-- The first four cycles of a Keeper's entry. -/
theorem State.Holds.keeperFour (h : s.Holds (.keeper k) t { u with seq := some q })
    (kind : q.kind = .entry) (step : q.step = 1) (fits : pushesFit u (.keeper k)) :
    ∃ e, cyclesMade (.keeper k) 4 t = some e ∧ Pushes k t e [((u.w[15] - 1).toNat, q.ret), ((u.w[15] - 2).toNat, q.st)] := by
  obtain ⟨c1, cycle1, k1⟩ := h.entryPush_pushes kind (.inl ⟨step, CpuState.badPush_none fits⟩) fits.1
  obtain ⟨q1, h1, f1⟩ := h.entryPush CpuState.goes_keeper kind (.inl ⟨step, CpuState.badPush_none fits⟩) fits.1 cycle1
  have below : (u.write 15 (u.w[15] - 1)).w[15] - (1 : Word) = u.w[15] - 2 := by
    rw [← Word.sub_one_sub_one]
    simp [CpuState.write]
  have two : q1.step = 2 := by rw [f1.step, step]
  have ram : ((u.write 15 (u.w[15] - 1)).w[15] - 1).toNat < 0xF000 := by rw [below]; exact fits.2
  obtain ⟨c2, cycle2, k2⟩ := h1.entryPush_pushes f1.kind (.inr two) ram
  obtain ⟨q2, h2, f2⟩ := h1.entryPush CpuState.goes_keeper f1.kind (.inr two) ram cycle2
  have three : q2.step = 3 := by rw [f2.step, two]
  obtain ⟨c3, cycle3, k3⟩ := State.entryIdle_pushes (k := k) (t := c2) f2.kind (.inl three)
  obtain ⟨q3, h3, f3⟩ := h2.entryIdle CpuState.goes_keeper f2.kind (.inl three) cycle3
  obtain ⟨c4, cycle4, k4⟩ := State.entryIdle_pushes (k := k) (t := c3) f3.kind (.inr (by rw [f3.step, three]))
  refine ⟨c4, cyclesMade_succ.mpr ⟨c3, q3, cyclesMade_succ.mpr ⟨c2, q2, cyclesMade_succ.mpr ⟨c1, q1, cyclesMade_succ.mpr
    ⟨t, q, rfl, h.regs.seq, cycle1⟩, h1.regs.seq, cycle2⟩, h2.regs.seq, cycle3⟩, h3.regs.seq, cycle4⟩, ?_⟩
  have pushed := k1.append k2 fun e mem e' mem' => by
    rw [List.mem_singleton.mp mem, List.mem_singleton.mp mem', below]
    exact fun same => absurd (BitVec.eq_of_toNat_eq same) (by bv_omega)
  rw [below, if_pos step, two, if_neg (by decide), f1.st] at pushed
  exact (pushed.trans k3).trans k4

theorem State.codeBank_congr {a : Nat} (eff : (t.keeper k).eff = (s.keeper k).eff) :
    t.codeBank (.keeper k) a = s.codeBank (.keeper k) a := by
  unfold State.codeBank State.ownForce
  dsimp only
  rw [eff]

/-- A Keeper's word of C space: the bank and memory say it. -/
theorem State.cWord_congr {a : Nat} (eff : (t.keeper k).eff = (s.keeper k).eff) (mem : t.mem = s.mem) :
    (t.cWord (.keeper k) a).2 = (s.cWord (.keeper k) a).2 := by
  unfold State.cWord
  dsimp only
  rw [State.codeBank_congr eff]
  unfold State.word
  rw [mem]

theorem State.cOk_congr {a : Nat} (eff : (t.keeper k).eff = (s.keeper k).eff) : t.cOk (.keeper k) a = s.cOk (.keeper k) a := by
  unfold State.cOk
  dsimp only
  rw [State.codeBank_congr eff]

theorem Pushes.cWord {a : Nat} (keeps : Pushes k s t l) : (t.cWord (.keeper k) a).2 = (s.cWord (.keeper k) a).2 :=
  State.cWord_congr keeps.eff keeps.holds.2.2

theorem Pushes.cOk {a : Nat} (keeps : Pushes k s t l) : t.cOk (.keeper k) a = s.cOk (.keeper k) a := State.cOk_congr keeps.eff

/-- The vectors lie in one bank. -/
theorem State.cOk_vector {m : Nat} (low : m < 16) : s.cOk (.keeper k) (vectorAddr (some m)) = s.cOk (.keeper k) 2 := by
  show keeperBank (s.codeBank (.keeper k) (2 + m)) = keeperBank (s.codeBank (.keeper k) 2)
  unfold State.codeBank
  rw [show (2 + m) % 65536 / 16384 = 2 % 65536 / 16384 by omega]

/-- A Keeper's code answers at once. -/
theorem State.cWord_keeper {a : Nat} : ∃ v, s.cWord (.keeper k) a = (s, some v) := ⟨_, rfl⟩

theorem State.seqCycle_entry_late {p : Cpu} (kind : q.kind = .entry) (late : 4 < q.step) :
    s.seqCycle p q = s.entryCycle p q := by
  unfold State.seqCycle
  rw [kind]
  dsimp only
  rw [if_neg (by omega)]

theorem State.Holds.keeperTime {n : Nat} (h : s.Holds (.keeper k) t u) : s.Holds (.keeper k) (t.keeperTime k n) u :=
  h.same (State.keeperTime_cpu (SameCpu.refl t))

/-! ### The last two cycles -/

@[simp] theorem IntSt.raise_last (n : Nat) (i : IntSt) : (i.raise n).last = i.last := by
  unfold IntSt.raise
  split <;> rfl

@[simp] theorem IntSt.raiseMany_last (n m : Nat) (i : IntSt) : (i.raiseMany n m).last = i.last := by
  unfold IntSt.raiseMany
  split
  · rfl
  · split <;> simp

@[simp] theorem IntSt.timerCycles_last (n : Nat) (i : IntSt) : (i.timerCycles n).last = i.last := by
  simp [IntSt.timerCycles]

theorem State.setLevelOf_pushes {src : Option Nat} {level : Nat} : Pushes k s (s.setLevelOf (.keeper k) src level) [] := by
  unfold State.setLevelOf
  exact (Pushes.modInt _).trans (.modCpu _)

theorem State.setLevelOf_last {src : Option Nat} {level : Nat} :
    ((s.setLevelOf (.keeper k) src level).int (.keeper k)).last = BitVec.ofNat 16 (level * 32 + src.getD 16) := by
  unfold State.setLevelOf
  rw [State.int_modCpu]
  simp [State.modInt, State.int, State.keeper_modKeeper]

/-- The fifth and sixth cycles of a Keeper's entry. -/
theorem State.keeperSix {e : State} {v : Word} (made4 : cyclesMade (.keeper k) 4 t = some e) (seq : (e.cpu (.keeper k)).seq = some q)
    (kind : q.kind = .entry) (step : q.step = 5) (ok : e.cOk (.keeper k) (vectorAddr q.src) = true)
    (word : (e.cWord (.keeper k) (vectorAddr q.src)).2 = some v) :
    (((((e.poised (.keeper k)).1.setLevelOf (.keeper k) q.src q.level).cpuPre (.keeper k)).cpuPost (.keeper k)).cWord (.keeper k)
        (vectorAddr q.src)).2 = some v ∧
      ∃ r, cyclesMade (.keeper k) 6 t = some r ∧ Pushes k e r [] ∧
        (r.int (.keeper k)).last = BitVec.ofNat 16 (q.level * 32 + q.src.getD 16) := by
  have before : Pushes k e ((e.setLevelOf (.keeper k) q.src q.level).keeperTime k 1) [] :=
    State.setLevelOf_pushes.trans (State.keeperTime_pushes 1)
  have last : (((e.setLevelOf (.keeper k) q.src q.level).keeperTime k 1).int (.keeper k)).last =
      BitVec.ofNat 16 (q.level * 32 + q.src.getD 16) := by
    rw [State.keeperTime_int, IntSt.timerCycles_last, State.setLevelOf_last]
  generalize at_ : (e.setLevelOf (.keeper k) q.src q.level).keeperTime k 1 = z at before last
  have word' : (z.cWord (.keeper k) (vectorAddr q.src)).2 = some v := before.cWord.trans word
  have read : z.readVector (.keeper k) q = (z.setSeq (.keeper k) (some { q with step := q.step + 1, vec := v }), true) := by
    unfold State.readVector
    dsimp only
    rw [before.cOk, ok, Bool.not_true, if_neg Bool.false_ne_true,
      show z.cWord (.keeper k) (vectorAddr q.src) = (z, some v) from Prod.ext rfl word']
  have cycle5 : e.seqCycle (.keeper k) q = (z.setSeq (.keeper k) (some { q with step := q.step + 1, vec := v }), .made) := by
    rw [State.seqCycle_entry_late kind (by omega), State.entryCycle]
    simp only [step, show ¬ (5 : Nat) = 1 by decide, show ¬ (5 : Nat) = 2 by decide, show ¬ (5 : Nat) ≤ 4 by decide, if_false, if_true]
    rw [step] at read
    exact State.inCycle_keeper (early := fun t => t.setLevelOf (.keeper k) q.src q.level) (by rw [at_]; exact read)
  refine ⟨(congrArg (fun z : State => (z.cWord (.keeper k) (vectorAddr q.src)).2) at_).trans word', ?_⟩
  generalize next : ({ q with step := q.step + 1, vec := v } : Seq) = q' at *
  have late : q'.kind = .entry ∧ q'.step = 6 := by
    subst next
    exact ⟨kind, by simp only [step]⟩
  have seq' : ((z.setSeq (.keeper k) (some q')).cpu (.keeper k)).seq = some q' := by
    rw [State.setSeq, State.cpu_modKeeperCpu]
  have cycle6 : (z.setSeq (.keeper k) (some q')).seqCycle (.keeper k) q' =
      (((z.setSeq (.keeper k) (some q')).keeperTime k 1).takeVector (.keeper k) q', .made) := by
    rw [State.seqCycle_entry_late late.1 (by omega), State.entryCycle]
    simp only [late.2, show ¬ (6 : Nat) = 1 by decide, show ¬ (6 : Nat) = 2 by decide, show ¬ (6 : Nat) ≤ 4 by decide,
      show ¬ (6 : Nat) = 5 by decide, if_false]
    exact State.inCycle_keeper (early := id) rfl
  refine ⟨_, cyclesMade_succ.mpr ⟨_, q', cyclesMade_succ.mpr ⟨e, q, made4, seq, cycle5⟩, seq', cycle6⟩, ?_, ?_⟩
  · exact ((before.trans (.setSeq _)).trans (State.keeperTime_pushes 1)).trans (.modCpu _)
  · rw [State.takeVector, State.int_modCpu, State.keeperTime_int, IntSt.timerCycles_last, State.setSeq, State.int_modCpu, last]

end

/-! ### A Keeper's entry of a source -/

section
variable {k : Fin 4} {s t : State} {q : Seq}

theorem State.spendFast_keeper : s.spendFast (.keeper k) = s := if_neg Bool.false_ne_true

theorem State.seqBegun_pushes : Pushes k s (seqBegun s (.keeper k) q) [] := by
  unfold seqBegun
  rw [State.spendFast_keeper]
  exact (Pushes.modCpu _).trans (State.keeperTime_pushes _)

/-- A Keeper's entry, of a source or a fault, completes where the vector it reads can be read. -/
theorem State.keeperEntry {u : CpuState} {src : Option Nat} {level : Nat} {ret st : Word}
    (begun : s.Holds (.keeper k) t (u.begins { kind := .entry, step := 1, src := src, level := level, ret := ret, st := st, vec := 0 }))
    (fits : pushesFit u (.keeper k))
    (ok : ∀ m l, src = m ∧ level = l ∨ src.isSome = true ∧ level < l ∧ (∃ n, n < 16 ∧ m = some n) →
      t.cOk (.keeper k) (vectorAddr m) = true) :
    ∃ r m l v, t.seqRun (.keeper k) 8 = r ∧
      (src = m ∧ level = l ∨ src.isSome = true ∧ level < l ∧ (∃ n, n < 16 ∧ m = some n)) ∧
      s.Holds (.keeper k) r { (({ u.begins { kind := .entry, step := 1, src := src, level := level, ret := ret, st := st, vec := 0 } with
        w := u.w.set 15 (u.w[15] - 2) } : CpuState).atLevel l) with pc := v, shadow := true, seq := none } ∧
      (t.cWord (.keeper k) (vectorAddr m)).2 = some v ∧ (r.int (.keeper k)).last = BitVec.ofNat 16 (l * 32 + m.getD 16) ∧
      Pushes k t r [((u.w[15] - 1).toNat, ret), ((u.w[15] - 2).toNat, st)] := by
  generalize first : ({ kind := .entry, step := 1, src := src, level := level, ret := ret, st := st, vec := 0 } : Seq) = q at *
  have fields : q.kind = .entry ∧ q.step = 1 ∧ q.src = src ∧ q.level = level ∧ q.ret = ret ∧ q.st = st := by simp [← first]
  obtain ⟨kind, one, rfl, rfl, rfl, rfl⟩ := fields
  obtain ⟨e, made4, pushed⟩ := State.Holds.keeperFour (u := u.begins q) begun kind one fits
  obtain ⟨q', h4, chosen, step⟩ := State.Holds.entryFour (u := u.begins q) begun CpuState.goes_keeper kind one fits made4
  have choice : q.src = q'.src ∧ q.level = q'.level ∨ q.src.isSome = true ∧ q.level < q'.level ∧ (∃ n, n < 16 ∧ q'.src = some n) :=
    chosen.choice.imp (fun same => ⟨same.1.symm, same.2.symm⟩) id
  obtain ⟨v, word⟩ := State.cWord_keeper (s := e) (k := k) (a := vectorAddr q'.src)
  obtain ⟨word', r, made6, kept, last⟩ := State.keeperSix made4 h4.regs.seq chosen.kind step
    (pushed.cOk.trans (ok _ _ choice)) (congrArg Prod.snd word)
  have h6 := h4.entrySix (u := { u.begins q with w := u.w.set 15 (u.w[15] - 2) }) CpuState.goes_keeper chosen.kind step made4 made6 word'
  exact ⟨r, q'.src, q'.level, v, State.seqRun_ended (n := 6) (fuel := 2) made6 h6.regs.seq, choice, h6,
    pushed.cWord.symm.trans (congrArg Prod.snd word), last, pushed.trans kept⟩

end

theorem keeperEntryLeaves : keeperEntryRule := by
  intro k s n l p due picked quiet fits ok
  have low : n < 16 := State.selected_lt picked
  have begun := State.entry_begins (n := n) (l := l) due quiet
  have kept : Pushes k s (seqBegun s p (entrySeq s p (some n) l)) [] := State.seqBegun_pushes
  obtain ⟨r, m, l', v, run, choice, left, word, last, pushed⟩ := State.keeperEntry begun fits (fun m l' choice => by
    rw [kept.cOk]
    rcases choice with ⟨rfl, -⟩ | ⟨-, -, m', lt, rfl⟩
    · rw [State.cOk_vector low, ok]
    · rw [State.cOk_vector lt, ok])
  obtain ⟨entered, pc, -⟩ := State.Holds.entered (q := entrySeq s p (some n) l) left
  have source : ∃ m', m = some m' ∧ m' < 16 ∧ (m' = n ∧ l' = l ∨ l < l') := by
    rcases choice with ⟨rfl, rfl⟩ | ⟨-, above, m', lt, rfl⟩
    · exact ⟨n, rfl, low, .inl ⟨rfl, rfl⟩⟩
    · exact ⟨m', rfl, lt, .inr above⟩
  obtain ⟨m', rfl, lt, chosen⟩ := source
  rw [kept.cWord] at word
  refine ⟨r, m', l', v, ?_, chosen, lt, entered, word, pc, last, (kept.after pushed).holds⟩
  rw [State.exec_entry due picked, run]

/-! ### What a source that is raised, or a record, leaves of the Keepers -/

/-- Of each Keeper, only its sources and its line as last seen differ. -/
def Signals (s t : State) : Prop := ∀ k, ∃ i l, t.keeper k = { s.keeper k with int := i, lineWas := l }

section
variable {s t r : State}

theorem Signals.refl (s : State) : Signals s s := fun k => ⟨(s.keeper k).int, (s.keeper k).lineWas, rfl⟩

theorem Signals.trans (a : Signals s t) (b : Signals t r) : Signals s r := fun k => by
  obtain ⟨i, l, first⟩ := a k
  obtain ⟨i', l', second⟩ := b k
  exact ⟨i', l', by rw [second, first]⟩

theorem Signals.of_keepers (same : t.keepers = s.keepers) : Signals s t := fun k =>
  ⟨(s.keeper k).int, (s.keeper k).lineWas, by rw [State.keeper, same]; rfl⟩

theorem State.dicSettleOne_signals (k : Fin 4) : Signals s (s.dicSettleOne k) := fun j => by
  unfold State.dicSettleOne
  rw [State.keeper_modKeeper]
  split
  · next same => subst same; exact ⟨_, _, rfl⟩
  · exact ⟨_, _, rfl⟩

theorem State.dicSettle_signals : Signals s s.dicSettle :=
  (((State.dicSettleOne_signals 0).trans (State.dicSettleOne_signals 1)).trans (State.dicSettleOne_signals 2)).trans
    (State.dicSettleOne_signals 3)

theorem State.raiseP_signals (n : Nat) : Signals s (s.raiseP n) := by
  have pended : Signals s (s.dicPend n) := by
    rw [State.dicPend_rest]
    exact .of_keepers rfl
  unfold State.raiseP
  split
  · exact pended.trans State.dicSettle_signals
  · split
    · exact .of_keepers rfl
    · exact .refl s

theorem State.alogStart_keepers : s.alogStart.keepers = s.keepers := by
  unfold State.alogStart
  split <;> rfl

theorem State.offer_signals (code : Word) (origin : Byte) (body : List Byte) : Signals s (s.offer code origin body) := by
  have lost : ∀ z : State, Signals z z.alogLose := fun z => by
    unfold State.alogLose
    exact (Signals.of_keepers rfl).trans (State.raiseP_signals 34)
  have taken : ∀ (z : State) o n, Signals z (z.alogAccept o n) := fun z o n => by
    unfold State.alogAccept
    exact .of_keepers State.alogStart_keepers
  unfold State.offer
  dsimp only
  split
  · split
    · exact lost s
    · exact (taken s _ _).trans (.of_keepers rfl)
  · split
    · exact lost s
    · exact .of_keepers rfl

theorem Signals.ownIo {k : Fin 4} {a : Nat} (h : Signals s t) : t.ownIo (.keeper k) a = s.ownIo (.keeper k) a := by
  obtain ⟨i, l, same⟩ := h k
  unfold State.ownIo
  dsimp only
  rw [same]

end

/-! ### Faults (R140 to R142, R348) -/

section
variable {k : Fin 4} {s t : State} {f : FaultInfo} {slot : Bool} {pc : Word}

/-- The fault registers of a fault. -/
def Recorded (k : Fin 4) (t : State) (slot : Bool) (pc : Word) (f : FaultInfo) : Prop :=
  t.ownIo (.keeper k) 0xFE20 = b2n slot * 2 ^ 15 + f.space * 2 ^ 12 + f.code ∧
    t.ownIo (.keeper k) 0xFE21 = pc.toNat ∧ t.ownIo (.keeper k) 0xFE22 = f.data % 65536

theorem State.faultRegs_recorded (code : f.code < 4096) (space : f.space < 8) :
    Recorded k (s.faultRegs (.keeper k) slot pc f) slot pc f := by
  have fits : b2n slot * 2 ^ 15 + f.space * 2 ^ 12 + f.code < 65536 := by
    have bit : b2n slot ≤ 1 := by cases slot <;> decide
    omega
  unfold Recorded State.faultRegs
  simp only [State.ownIo_setOwnIo, Nat.mod_eq_of_lt fits, Nat.mod_eq_of_lt pc.isLt]
  exact ⟨rfl, rfl, rfl⟩

theorem Recorded.of_ownIo (h : Recorded k s slot pc f) (same : ∀ a, a < 0xFE30 → t.ownIo (.keeper k) a = s.ownIo (.keeper k) a) :
    Recorded k t slot pc f := by
  obtain ⟨code, at_, data⟩ := h
  exact ⟨(same _ (by omega)).trans code, (same _ (by omega)).trans at_, (same _ (by omega)).trans data⟩

theorem State.faultRegs_local : Local k s (s.faultRegs (.keeper k) slot pc f) :=
  (State.setOwnIo_local.trans State.setOwnIo_local).trans State.setOwnIo_local

theorem State.faultRegs_eff : ((s.faultRegs (.keeper k) slot pc f).keeper k).eff = (s.keeper k).eff := by
  simp [State.faultRegs, State.setOwnIo, State.keeper_modKeeper]

theorem State.faultRegs_cpu : (s.faultRegs (.keeper k) slot pc f).cpu (.keeper k) = s.cpu (.keeper k) := by
  simp [State.faultRegs, State.setOwnIo, State.cpu, State.keeper_modKeeper]

theorem State.haltCpu_ownIo {a : Nat} : (s.haltCpu (.keeper k)).ownIo (.keeper k) a = s.ownIo (.keeper k) a := by
  unfold State.haltCpu
  dsimp only
  rw [(State.raiseP_signals _).ownIo, (State.offer_signals _ _ _).ownIo]
  simp [State.ownIo, State.modCpu, State.keeper_modKeeper]

/-- A fault at IL 7. -/
theorem State.takeFault_halts (level : (s.cpu (.keeper k)).level = 7) :
    s.takeFault (.keeper k) f =
      (s.faultRegs (.keeper k) (s.cpu (.keeper k)).slot.isSome (s.cpu (.keeper k)).pc f).haltCpu (.keeper k) :=
  if_pos level

/-- The sequence of a fault's entry, before its first cycle. -/
def CpuState.faultSeq (u : CpuState) : Seq :=
  { kind := .entry, step := 1, src := none, level := 7, ret := u.pc, st := u.stInForce, vec := 0 }

/-- A fault below IL 7. -/
theorem State.takeFault_enters (level : (s.cpu (.keeper k)).level ≠ 7) :
    s.takeFault (.keeper k) f =
      (seqBegun (s.faultRegs (.keeper k) (s.cpu (.keeper k)).slot.isSome (s.cpu (.keeper k)).pc f) (.keeper k)
        (s.cpu (.keeper k)).faultSeq).seqRun (.keeper k) 8 := by
  refine (if_neg level).trans ?_
  unfold State.enter
  rw [State.faultRegs_cpu]
  rfl

end

theorem faultTakenLeaves : faultTakenRule := by
  intro k s f p quiet code space seq running
  have start : s.Holds p s (s.cpu p) := ⟨trivial, quiet, rfl, fun _ _ => rfl⟩
  have noted : s.Holds p (s.faultRegs p (s.cpu p).slot.isSome (s.cpu p).pc f) (s.cpu p) := start.faultRegs
  have recorded := State.faultRegs_recorded (k := k) (s := s) (slot := (s.cpu p).slot.isSome) (pc := (s.cpu p).pc) code space
  refine ⟨fun level => ?_, fun v level fits ok word => ?_⟩
  · rw [State.takeFault_halts level]
    have halted := noted.haltCpu
    exact ⟨recorded.of_ownIo fun _ _ => State.haltCpu_ownIo, halted.regs.halted, halted.regs.w, halted.regs.pc, halted.regs.st⟩
  · rw [State.takeFault_enters level]
    generalize before : s.faultRegs p (s.cpu p).slot.isSome (s.cpu p).pc f = s1 at *
    have own : Local k s s1 := before ▸ State.faultRegs_local
    have eff : (s1.keeper k).eff = (s.keeper k).eff := before ▸ State.faultRegs_eff
    have begun := State.seqBegun_holds (q := (s.cpu p).faultSeq) noted CpuState.goes_keeper
    have kept : Pushes k s1 (seqBegun s1 p (s.cpu p).faultSeq) [] := State.seqBegun_pushes
    obtain ⟨r, m, l, v', run, choice, left, word', -, pushed⟩ := State.keeperEntry begun fits (fun m l choice => by
      rcases choice with ⟨rfl, -⟩ | ⟨no, -⟩
      · rw [kept.cOk, State.cOk_congr eff]
        exact ok
      · cases no)
    rcases choice with ⟨rfl, rfl⟩ | ⟨no, -⟩
    · rw [kept.cWord, State.cWord_congr eff own.mem, show vectorAddr none = 1 from rfl, word] at word'
      obtain ⟨entered, pc, halted⟩ := State.Holds.entered left
      have after := kept.after pushed
      rw [run]
      exact ⟨recorded.of_ownIo after.io, entered, pc.trans (Option.some.inj word').symm, halted.trans running,
        ramHolds_of_local own after.holds⟩
    · cases no

/-- Settles O23: the cycles of an entry one by one, each a lemma over the registers it leaves; a Keeper's are all made. -/
theorem entryResult : Obligations.EntryResult := ⟨entryLeaves, keeperEntryLeaves, faultTakenLeaves⟩

end Sys2Proof.Machine

/-! ## The return from an interrupt, and its tail-chain (R172, R173) -/

namespace Sys2Proof.Machine

open Sys2Proof Sys2Proof.Claims

/-! ### What a fetch leaves of an access's faults -/

section
variable {s t : State} {p : Cpu}

/-- The fault of an access to D space: the session's banks and its title's pages say it. -/
theorem Still.wordFault {store : Bool} {a : Nat} (h : Still s t) (quiet : s.noneWaits) :
    t.wordFault p .d store a = s.wordFault p .d store a := by
  cases p with
  | keeper k => rfl
  | session c =>
    have data : t.dataOk c a = s.dataOk c a := by
      have title : (t.ctxTitle c).dPages = (s.ctxTitle c).dPages := by
        unfold State.ctxTitle
        rw [(h.title quiet).2 c]
        exact ((h.title quiet).1 _).2
      have banks := h.ses quiet c
      unfold State.dataOk State.sesD
      rw [title]
      cases before : s.ses c <;> cases after : t.ses c <;> rw [before, after] at banks
      · cases banks
      · cases banks
      · simp only [Option.map_some, Option.some_inj, Prod.mk.injEq] at banks
        obtain ⟨-, eff, grand⟩ := banks
        simp only [Session.dataPage, Session.inForce, eff, grand]
        rfl
    unfold State.wordFault
    dsimp only
    rw [data]

theorem Still.firstFault {store : Bool} {l : List Nat} (h : Still s t) (quiet : s.noneWaits) :
    t.firstFault p store l = s.firstFault p store l := by
  unfold State.firstFault
  congr 2
  funext a
  exact h.wordFault quiet

end

/-! ### A RETI begins -/

section
variable {s : State} {p : Cpu} {sp : Word}

/-- The sequence of a RETI, before its first cycle. -/
def retiSeq (sp : Word) : Seq := { kind := .reti, step := 1, src := none, level := 0, ret := sp, st := 0, vec := 0 }

/-- A RETI that issues, and whose registers come to be there. -/
theorem exec_reti {z : State} (issues : returnIssues s p sp)
    (comes : (s.fetchLine p 1).1.cpuUntil p ((s.cpu p).now + ((s.fetchLine p 1).1.cpu p).waitFor retiOp) = (z, true)) :
    exec (.reti p) s = .next ((seqBegun (z.modCpu p (fun v => { v with issued := none })) p (retiSeq sp)).seqRun p 8) := by
  obtain ⟨issue, slot, rfl, sound⟩ := issues
  have still := State.fetchLine_still (a0 := p) (a1 := 1) (Still.refl s)
  have regs := still.cpu issue.quiet p
  have line : s.fetchLine p 1 = ((s.fetchLine p 1).1, true) := Prod.ext rfl issue.line
  simp only [exec, execReti, State.poised_active (State.mayIssue_active issue.issues), issue.issues, slot, issue.words]
  rw [line]
  simp only [Bool.not_true, Option.isSome_none, Bool.or_self, Bool.false_eq_true, if_false, issue.coded]
  rw [State.reti]
  simp only [regs, still.firstFault issue.quiet, sound, issue.first, Option.getD_none]
  rw [regs] at comes
  rw [comes]
  rfl

/-- The registers as it begins. -/
theorem reti_begins {z : State} {q : Seq} (issues : returnIssues s p sp)
    (comes : (s.fetchLine p 1).1.cpuUntil p ((s.cpu p).now + ((s.fetchLine p 1).1.cpu p).waitFor retiOp) = (z, true)) :
    s.Holds p (seqBegun (z.modCpu p (fun v => { v with issued := none })) p q) (({ s.cpu p with issued := none } : CpuState).begins q) := by
  obtain ⟨issue, -, -, -⟩ := issues
  have runs := State.mayIssue_waiting issue.issues
  have start : s.Holds p s (s.cpu p) := ⟨issue.has, issue.quiet, rfl, fun _ _ => rfl⟩
  have fetched : s.Holds p (s.fetchLine p 1).1 (s.cpu p) := start.same (State.fetchLine_still (Still.refl s)).sameCpu
  have here : s.Holds p z (s.cpu p) := by
    rw [show z = ((s.fetchLine p 1).1.cpuUntil p ((s.cpu p).now + ((s.fetchLine p 1).1.cpu p).waitFor retiOp)).1 by rw [comes]]
    exact fetched.same (State.cpuUntil_cpu (fetched.regs.waiting.trans runs) (SameCpu.refl _))
  exact State.seqBegun_holds (here.modCpu (f := fun v => { v with issued := none }) fun _ => rfl) fun _ _ => runs

end

/-! ### Its cycles -/

/-- An instruction's end leaves of a processor all but its modes and what is pending of them. -/
theorem CpuState.stepped_eq (u : CpuState) : ∃ yz il ie l, u.stepped = { u with yz := yz, il := il, ie := ie, modePend := l } := by
  have each : ∀ (l : List ModeWrite) (v : CpuState), ∃ yz il ie, l.foldl (fun v m => v.withMode m.target) v =
      { v with yz := yz, il := il, ie := ie } := by
    intro l
    induction l with
    | nil => exact fun v => ⟨v.yz, v.il, v.ie, rfl⟩
    | cons m l ih =>
      intro v
      obtain ⟨yz, il, ie, rest⟩ := ih (v.withMode m.target)
      rw [List.foldl_cons, rest]
      cases m.target <;> exact ⟨_, _, _, rfl⟩
  obtain ⟨yz, il, ie, all⟩ := each (u.nearer.filter (fun m => m.left == 0)) { u with modePend := u.nearer.filter (fun m => m.left != 0) }
  exact ⟨yz, il, ie, _, all⟩

section
variable {s t r : State} {p : Cpu} {u : CpuState} {q : Seq} {v : Word} {f : Word → Seq}

theorem State.Holds.applyMode (h : s.Holds p t u) (m : ModeTarget) : s.Holds p (t.applyMode p m) (u.withMode m) := by
  cases m with
  | yz b => exact h.modCpu (f := fun u => { u with yz := b }) fun _ => rfl
  | il l => exact h.modCpu (f := fun u => { u with il := l }) fun _ => rfl
  | ie b => exact h.modCpu (f := fun u => { u with ie := b }) fun _ => rfl
  | io a v => exact h.same (State.setForce_cpu (SameCpu.refl t))

theorem State.Holds.applyModes (l : List ModeWrite) : ∀ {t : State} {u : CpuState}, s.Holds p t u →
    s.Holds p (l.foldl (fun (s : State) m => s.applyMode p m.target) t) (l.foldl (fun v m => v.withMode m.target) u) := by
  induction l with
  | nil => exact fun h => h
  | cons m l ih => exact fun h => ih (h.applyMode m.target)

theorem State.Holds.stepModes (h : s.Holds p t u) : s.Holds p (t.stepModes p) u.stepped := by
  rw [State.stepModes_eq]
  have pend : (t.cpu p).modePend = u.modePend := (congrArg CpuState.modePend h.own : (t.cpu p).core.modePend = u.core.modePend)
  rw [pend]
  exact State.Holds.applyModes _ (h.modCpu (f := fun v => { v with modePend := u.nearer.filter (fun m => m.left != 0) }) fun _ => rfl)

/-- A pop whose word is there. -/
theorem State.Holds.pop {a : Word} (h : s.Holds p t u) (word : (t.dLoad p a.toNat).2 = some v) (popped : t.pop p a f = (r, true)) :
    s.Holds p r { u.write 15 (a + 1) with seq := some (f v) } := by
  unfold State.pop at popped
  rw [show t.dLoad p a.toNat = ((t.dLoad p a.toNat).1, some v) from Prod.ext rfl word] at popped
  rw [← (Prod.mk.inj popped).1]
  exact ((h.same (State.dLoad_cpu (SameCpu.refl t))).modCpu (f := fun u => u.write 15 (a + 1)) fun _ => rfl).setSeq _

/-- A cycle in which a word is popped. -/
theorem State.Holds.popCycle (h : s.Holds p t u) (runs : u.Goes p) (word : ((cyclePassed t p).dLoad p q.ret.toNat).2 = some v)
    (made : t.inCycle p true (dReach q.ret.toNat) id (·.pop p q.ret f) = (r, .made)) :
    s.Holds p r { u.write 15 (q.ret + 1) with seq := some (f v) } :=
  h.made made runs (fun _ h => h) runs fun _ here popped => here.pop word popped

theorem State.seqCycle_reti (kind : q.kind = .reti) : t.seqCycle p q = t.retiCycle p q := by
  unfold State.seqCycle
  rw [kind]

theorem State.seqCycle_chain (kind : q.kind = .chain) : t.seqCycle p q = t.chainCycle p q := by
  unfold State.seqCycle
  rw [kind]

/-- The first cycle of a RETI: ST is popped. -/
theorem State.Holds.retiFirst (h : s.Holds p t u) (runs : u.Goes p) (kind : q.kind = .reti) (step : q.step = 1)
    (word : ((cyclePassed t p).dLoad p q.ret.toNat).2 = some v) (made : t.seqCycle p q = (r, .made)) :
    s.Holds p r { u.write 15 (q.ret + 1) with seq := some { q with step := 2, st := v, ret := q.ret + 1 } } := by
  rw [State.seqCycle_reti kind, State.retiCycle, if_pos step] at made
  exact h.popCycle (f := fun v => { q with step := 2, st := v, ret := q.ret + 1 }) runs word made

/-- The second: the return address. -/
theorem State.Holds.retiSecond (h : s.Holds p t u) (runs : u.Goes p) (kind : q.kind = .reti) (step : q.step = 2)
    (word : ((cyclePassed t p).dLoad p q.ret.toNat).2 = some v) (made : t.seqCycle p q = (r, .made)) :
    s.Holds p r { u.write 15 (q.ret + 1) with seq := some { q with step := 3, ret := v } } := by
  rw [State.seqCycle_reti kind, State.retiCycle, if_neg (by omega), if_pos step] at made
  exact h.popCycle (f := fun v => { q with step := 3, ret := v }) runs word made

/-- What follows the third cycle: the RETI goes on, or it chains a source. -/
inductive Seq.Fixed (q : Seq) : Seq → Prop
  | plain : q.Fixed { q with step := 4 }
  | chain (n l : Nat) : q.Fixed { q with kind := .chain, step := 1, src := some n, level := l }

/-- One processor has the registers of another, whatever its modes. -/
structure CpuState.ButModes (u v : CpuState) : Prop where
  w : v.w = u.w
  x : v.x = u.x
  seg : v.seg = u.seg
  st : v.st = u.st
  goes : v.waiting = u.waiting

/-- The third: the instruction counts, and what follows is fixed. -/
theorem State.Holds.retiThird (h : s.Holds p t u) (runs : u.Goes p) (kind : q.kind = .reti) (step : q.step = 3)
    (made : t.seqCycle p q = (r, .made)) :
    ∃ q' v, q.Fixed q' ∧ u.ButModes v ∧ s.Holds p r { v with seq := some q' } := by
  rw [State.seqCycle_reti kind, State.retiCycle, if_neg (by omega), if_neg (by omega), if_pos step] at made
  obtain ⟨z, acted, left⟩ := State.inCycle_made made
  rw [if_pos rfl, ← (Prod.mk.inj acted).1] at left
  subst left
  have here : s.Holds p (t.cycleAt p true id) u := h.cycle runs fun _ h => h
  have counted := (here.modCpu (f := fun u => { u with loadOld := [], shadow := false }) fun _ => rfl).same
    (State.count32_cpu (a0 := p) (a1 := 0xFE30) (a2 := 1) (SameCpu.refl _))
  have after := counted.stepModes
  obtain ⟨yz, il, ie, l, modes⟩ := CpuState.stepped_eq { u with loadOld := [], shadow := false }
  rw [modes] at after
  have fixed : ∀ q', s.Holds p (((t.cycleAt p true id).retiCommit p).setSeq p (some q'))
      { u with loadOld := [], shadow := false, yz := yz, il := il, ie := ie, modePend := l, seq := some q' } := fun q' =>
    after.setSeq (some q')
  unfold State.retiFix
  dsimp only
  cases chained : ((t.cycleAt p true id).retiCommit p).chained p q.st with
  | none => exact ⟨_, { u with loadOld := [], shadow := false, yz := yz, il := il, ie := ie, modePend := l }, .plain, ⟨rfl, rfl, rfl, rfl, rfl⟩, fixed _⟩
  | some e =>
    exact ⟨_, { u with loadOld := [], shadow := false, yz := yz, il := il, ie := ie, modePend := l }, .chain e.1 e.2, ⟨rfl, rfl, rfl, rfl, rfl⟩, fixed _⟩

/-- The fourth: every field of ST takes effect. -/
theorem State.Holds.retiFourth (h : s.Holds p t u) (runs : u.Goes p) (kind : q.kind = .reti) (step : q.step = 4)
    (made : t.seqCycle p q = (r, .made)) : s.Holds p r { u.restoreSt q.st with seq := some { q with step := 5 } } := by
  rw [State.seqCycle_reti kind, State.retiCycle, if_neg (by omega), if_neg (by omega), if_neg (by omega), if_pos step] at made
  refine h.made made runs (fun _ h => h) runs fun z here acted => ?_
  rw [← (Prod.mk.inj acted).1]
  exact (here.modCpu (f := CpuState.restoreSt q.st) fun _ => rfl).setSeq _

/-- The fifth: the return address is the PC. -/
theorem State.Holds.retiFifth (h : s.Holds p t u) (runs : u.Goes p) (kind : q.kind = .reti) (step : q.step = 5)
    (made : t.seqCycle p q = (r, .made)) : s.Holds p r { u with pc := q.ret, clear := true, seq := none } := by
  rw [State.seqCycle_reti kind, State.retiCycle, if_neg (by omega), if_neg (by omega), if_neg (by omega), if_neg (by omega)] at made
  refine h.made made runs (fun _ h => h) runs fun z here acted => ?_
  rw [← (Prod.mk.inj acted).1]
  exact here.modCpu (f := fun u => { u with pc := q.ret, clear := true, seq := none }) fun _ => rfl

/-- The first cycle of a tail-chain: ST takes effect, the two words stay, and the level is taken. -/
theorem State.Holds.chainFirst (h : s.Holds p t u) (runs : u.Goes p) (kind : q.kind = .chain) (step : q.step = 1)
    (made : t.seqCycle p q = (r, .made)) :
    s.Holds p r { ((u.restoreSt q.st).write 15 (u.w[15] - 2)).atLevel q.level with seq := some { q with step := 2 } } := by
  rw [State.seqCycle_chain kind, State.chainCycle, if_pos step] at made
  refine h.made made (v := ((u.restoreSt q.st).write 15 (u.w[15] - 2)).atLevel q.level) runs (fun z here => ?_) runs fun z here acted => ?_
  · exact (here.modCpu (f := fun u => (u.restoreSt q.st).write 15 (u.w[15] - 2)) fun _ => rfl).setLevelOf
  · rw [← (Prod.mk.inj acted).1]
    exact here.setSeq _

/-- The second: the vector is read. -/
theorem State.Holds.chainSecond (h : s.Holds p t u) (runs : u.Goes p) (kind : q.kind = .chain) (step : q.step = 2)
    (word : ((cyclePassed t p).cWord p (vectorAddr q.src)).2 = some v) (made : t.seqCycle p q = (r, .made))
    (more : (r.cpu p).seq.isSome = true) : s.Holds p r { u with seq := some { q with step := 3, vec := v } } := by
  rw [State.seqCycle_chain kind, State.chainCycle, if_neg (by omega), if_pos step] at made
  obtain ⟨z, acted, left⟩ := State.inCycle_made made
  rw [if_pos rfl] at left
  subst left
  have here : s.Holds p (t.cycleAt p true id) u := h.cycle runs fun _ h => h
  have after := (here.readVector word more acted).1
  rw [step] at after
  exact after

/-- The third: it is the PC. -/
theorem State.Holds.chainThird (h : s.Holds p t { u with seq := some q }) (runs : u.Goes p) (kind : q.kind = .chain)
    (step : q.step = 3) (made : t.seqCycle p q = (r, .made)) : s.Holds p r { u with pc := q.vec, shadow := true, seq := none } := by
  rw [State.seqCycle_chain kind, State.chainCycle, if_neg (by omega), if_neg (by omega)] at made
  exact h.takeVector runs made

end

/-! ### A whole RETI -/

section
variable {s t a c1 c3 : State} {p : Cpu} {u : CpuState} {q : Seq} {sp st ret : Word}

/-- The first three cycles of a RETI. -/
theorem State.Holds.retiThree (h : s.Holds p a (u.begins (retiSeq sp))) (runs : u.Goes p) (made1 : cyclesMade p 1 a = some c1)
    (made3 : cyclesMade p 3 a = some c3) (word1 : ((cyclePassed a p).dLoad p sp.toNat).2 = some st)
    (word2 : ((cyclePassed c1 p).dLoad p (sp + 1).toNat).2 = some ret) :
    ∃ v q', ({ u with w := u.w.set 15 (sp + 2) } : CpuState).ButModes v ∧ Seq.Fixed { retiSeq sp with step := 3, st := st, ret := ret } q' ∧
      s.Holds p c3 { v with seq := some q' } := by
  obtain ⟨c2, q2, made2, seq2, cycle3⟩ := cyclesMade_succ.mp made3
  obtain ⟨c1', q1, made1', seq1, cycle2⟩ := cyclesMade_succ.mp made2
  cases Option.some.inj (made1.symm.trans made1')
  obtain ⟨a', q0, made0, seq0, cycle1⟩ := cyclesMade_succ.mp made1
  cases Option.some.inj made0
  cases Option.some.inj (h.regs.seq.symm.trans seq0)
  have h1 := h.retiFirst (q := retiSeq sp) runs rfl rfl word1 cycle1
  cases Option.some.inj (h1.regs.seq.symm.trans seq1)
  have h2 := h1.retiSecond (q := { retiSeq sp with step := 2, st := st, ret := sp + 1 }) runs rfl rfl word2 cycle2
  cases Option.some.inj (h2.regs.seq.symm.trans seq2)
  obtain ⟨q3, v, fixed, ⟨w, x, seg, stv, goes⟩, h3⟩ :=
    h2.retiThird (q := { retiSeq sp with step := 3, st := st, ret := ret }) runs rfl rfl cycle3
  have two : sp + 1#16 + 1#16 = sp + 2#16 := by bv_omega
  refine ⟨v, q3, ⟨w.trans ?_, x, seg, stv, goes⟩, fixed, h3⟩
  simp [CpuState.write, CpuState.begins, retiSeq, two]

/-- The three cycles of a tail-chain, where the vector is read. -/
theorem State.Holds.chainThree {c4 : State} {v : Word} (h : s.Holds p c3 { u with seq := some q }) (runs : u.Goes p) (kind : q.kind = .chain)
    (step : q.step = 1) (made3 : cyclesMade p 3 a = some c3) (made4 : cyclesMade p 4 a = some c4) (made6 : cyclesMade p 6 a = some t)
    (word : ((cyclePassed c4 p).cWord p (vectorAddr q.src)).2 = some v) :
    s.Holds p t { ((u.restoreSt q.st).write 15 (u.w[15] - 2)).atLevel q.level with pc := v, shadow := true, seq := none } := by
  obtain ⟨c5, q5, made5, seq5, cycle6⟩ := cyclesMade_succ.mp made6
  obtain ⟨c4', q4, made4', seq4, cycle5⟩ := cyclesMade_succ.mp made5
  cases Option.some.inj (made4.symm.trans made4')
  obtain ⟨c3', q3, made3', seq3, cycle4⟩ := cyclesMade_succ.mp made4
  cases Option.some.inj (made3.symm.trans made3')
  cases Option.some.inj (h.regs.seq.symm.trans seq3)
  have h4 := h.chainFirst runs kind step cycle4
  cases Option.some.inj (h4.regs.seq.symm.trans seq4)
  have h5 := h4.chainSecond (q := { q with step := 2 }) runs kind rfl word cycle5 (by rw [seq5]; rfl)
  cases Option.some.inj (h5.regs.seq.symm.trans seq5)
  exact h5.chainThird runs kind rfl cycle6

/-- The modes and ST a RETI restores. -/
theorem CpuState.restoreSt_fields (v : Word) (u : CpuState) : (u.restoreSt v).yz = v.getLsbD 14 ∧ (u.restoreSt v).ie = v.getLsbD 4 ∧
    (u.restoreSt v).il = v.extractLsb' 5 3 ∧ (u.restoreSt v).st = (u.st &&& 0x8000#16) ||| (v &&& 0x40FF#16) := by
  obtain ⟨yz, ie, il⟩ := stWritten_fields u.st v
  exact ⟨yz, ie, il, rfl⟩

/-- No write of IL is pending once ST is restored. -/
theorem CpuState.restoreSt_levelPending (v : Word) (u : CpuState) : (u.restoreSt v).levelPending = false := by
  unfold CpuState.levelPending CpuState.restoreSt CpuState.dropSt
  dsimp only
  rw [List.any_eq_false]
  intro m mem
  have kept := (List.mem_filter.mp mem).2
  cases target : m.target with
  | io _ _ => exact Bool.false_ne_true
  | yz _ => exact Bool.false_ne_true
  | il _ =>
    rw [target] at kept
    cases kept
  | ie _ => exact Bool.false_ne_true

end

theorem returnLeaves : returnRule := by
  intro p s c1 c3 q st ret sp issues i at' a comes made1 made3 seq3 word1 word2
  have reached : at' = (at'.1, true) := Prod.ext rfl comes
  have begun : s.Holds p a (({ s.cpu p with issued := none } : CpuState).begins (retiSeq sp)) := reti_begins issues reached
  have runs : (s.cpu p).Goes p := fun _ _ => State.mayIssue_waiting issues.1.issues
  have ran : exec (.reti p) s = .next (a.seqRun p 8) := exec_reti issues reached
  obtain ⟨v, q', ⟨w, x, seg, stv, goes⟩, fixed, h3⟩ := begun.retiThree (u := { s.cpu p with issued := none }) runs made1 made3 word1 word2
  cases Option.some.inj (h3.regs.seq.symm.trans seq3)
  have runs3 : v.Goes p := fun c is => goes.trans (runs c is)
  obtain ⟨yz, ie, il, stw⟩ := CpuState.restoreSt_fields st v
  rw [stv] at stw
  cases fixed with
  | plain =>
    refine ⟨fun t _ made5 => ?_, fun _ _ _ no => (nomatch no)⟩
    obtain ⟨c4, q4, made4, seq4, cycle5⟩ := cyclesMade_succ.mp made5
    obtain ⟨c3', q3, made3', seq3', cycle4⟩ := cyclesMade_succ.mp made4
    cases Option.some.inj (made3.symm.trans made3')
    cases Option.some.inj (seq3.symm.trans seq3')
    have h4 := h3.retiFourth runs3 rfl rfl cycle4
    cases Option.some.inj (h4.regs.seq.symm.trans seq4)
    have h5 := h4.retiFifth runs3 rfl rfl cycle5
    obtain ⟨yz', il', ie'⟩ := CpuState.modes_of_core h5.own
    refine ⟨?_, ⟨yz'.trans yz, ie'.trans ie, h5.regs.w.trans w, h5.regs.x.trans x, h5.regs.seg.trans seg, h5.regs.seq, h5.others⟩,
      h5.regs.pc, h5.regs.st.trans stw, il'.trans il⟩
    rw [ran, State.seqRun_ended (n := 5) (fuel := 3) made5 h5.regs.seq]
  | chain n l =>
    refine ⟨fun _ no => (nomatch no), fun t c4 vec _ made4 made6 word => ?_⟩
    have h6 := h3.chainThree runs3 rfl rfl made3 made4 made6 word
    obtain ⟨yz', il', ie'⟩ := CpuState.modes_of_core h6.own
    have wv : (v.w.set 15 (v.w[15] - 2)) = (s.cpu p).w.set 15 sp := by
      rw [w]
      simp
    refine ⟨?_, ⟨yz'.trans yz, ie'.trans ie, h6.regs.w.trans wv, h6.regs.x.trans x, h6.regs.seg.trans seg, h6.regs.seq, h6.others⟩,
      h6.regs.pc, ?_, il'⟩
    · rw [ran, State.seqRun_ended (n := 6) (fuel := 2) made6 h6.regs.seq]
    · refine h6.regs.st.trans ?_
      show (if (v.restoreSt st).levelPending then _ else stWithLevel (v.restoreSt st).st l) = _
      rw [CpuState.restoreSt_levelPending, stw]
      rfl

/-! ### A Keeper's RETI completes -/

section
variable {k : Fin 4} {s t r u : State} {q : Seq} {f : Word → Seq} {st sp : Word}

/-- What a Keeper's RETI leaves between its cycles: data RAM, memory, and the sources enabled. -/
structure Enabled (k : Fin 4) (s t : State) : Prop where
  only : Local k s t
  en : (t.int (.keeper k)).en = (s.int (.keeper k)).en

theorem Enabled.trans (a : Enabled k s t) (b : Enabled k t u) : Enabled k s u := ⟨a.only.trans b.only, b.en.trans a.en⟩

theorem State.keeperTime_enabled (n : Nat) : Enabled k s (s.keeperTime k n) :=
  ⟨State.keeperTime_local, by rw [State.keeperTime_int, IntSt.timerCycles_en]⟩

theorem State.modCpu_enabled (f : CpuState → CpuState) : Enabled k s (s.modCpu (.keeper k) f) :=
  ⟨State.modCpu_local f, by rw [State.int_modCpu]⟩

theorem State.setSeq_enabled (q : Option Seq) : Enabled k s (s.setSeq (.keeper k) q) := State.modCpu_enabled _

theorem State.retiCommit_enabled : Enabled k s (s.retiCommit (.keeper k)) := by
  unfold State.retiCommit
  have counted : ∀ z : State, Enabled k z (z.count32 (.keeper k) 0xFE30 1) := fun z => by
    refine ⟨State.count32_local, ?_⟩
    unfold State.count32
    dsimp only
    rw [State.int_setOwnIo, State.int_setOwnIo]
  have stepped : ∀ z : State, Enabled k z (z.stepModes (.keeper k)) := fun z =>
    ⟨State.stepModes_local, by rw [State.int_stepModes]⟩
  exact ((State.modCpu_enabled _).trans (counted _)).trans (stepped _)

/-- No source is selected where none is enabled. -/
theorem IntSt.select_none {i : IntSt} {above : Nat} (none_ : i.en = 0) : i.select above = none := by
  unfold IntSt.select
  generalize List.range 16 = l
  induction l with
  | nil => rfl
  | cons n l ih =>
    rw [List.foldl_cons, none_]
    simp [wbit, none_]

/-- A RETI that pops an ST with IE 0, or where no source is enabled, chains none. -/
theorem State.chained_none (quiet : st.getLsbD 4 = false ∨ (s.int (.keeper k)).en = 0) : s.chained (.keeper k) st = none := by
  unfold State.chained
  rcases quiet with clear | none_
  · rw [show wbit st 4 = false from clear, if_neg Bool.false_ne_true]
  · dsimp only
    rw [IntSt.select_none none_, ite_self]

/-- A Keeper's cycle in which it pops a word of data RAM. -/
theorem State.popCycle_keeper {a : Word} {acc : List Reached} (ram : a.toNat < 0xF000) :
    ∃ r, t.inCycle (.keeper k) true acc id (·.pop (.keeper k) a f) = (r, .made) ∧ Enabled k t r ∧
      (r.cpu (.keeper k)).seq = some (f (ramWord t k a.toNat)) := by
  refine ⟨((t.keeperTime k 1).modCpu (.keeper k) (·.write 15 (a + 1))).setSeq (.keeper k) (some (f (ramWord t k a.toNat))),
    State.inCycle_keeper ?_, ((State.keeperTime_enabled 1).trans (State.modCpu_enabled _)).trans (State.setSeq_enabled _), ?_⟩
  · rw [State.pop, State.dLoad_keeper ram]
    dsimp only [id]
    rw [State.keeperTime_local.ramWord]
  · rw [State.setSeq, State.cpu_modKeeperCpu]

/-- The first three cycles of a Keeper's RETI that chains no source. -/
theorem State.retiThree_keeper {a : State} (seq : (a.cpu (.keeper k)).seq = some (retiSeq sp)) (low : sp.toNat < 0xF000)
    (high : (sp + 1).toNat < 0xF000)
    (quiet : (ramWord a k sp.toNat).getLsbD 4 = false ∨ (a.int (.keeper k)).en = 0) :
    ∃ c1 c3 q, cyclesMade (.keeper k) 1 a = some c1 ∧ cyclesMade (.keeper k) 3 a = some c3 ∧ Enabled k a c1 ∧ Enabled k a c3 ∧
      (c3.cpu (.keeper k)).seq = some q ∧ q.kind = .reti ∧ q.step = 4 := by
  obtain ⟨c1, cycle1, e1, seq1⟩ := State.popCycle_keeper (t := a) (k := k) (acc := dReach sp.toNat)
    (f := fun v => { retiSeq sp with step := 2, st := v, ret := sp + 1 }) low
  obtain ⟨c2, cycle2, e2, seq2⟩ := State.popCycle_keeper (t := c1) (k := k) (acc := dReach (sp + 1).toNat)
    (f := fun v => { retiSeq sp with step := 3, st := ramWord a k sp.toNat, ret := v }) high
  have both := e1.trans e2
  have none_ : ((c2.keeperTime k 1).retiCommit (.keeper k)).chained (.keeper k) (ramWord a k sp.toNat) = none := by
    refine State.chained_none (quiet.imp id fun zero => ?_)
    rw [State.retiCommit_enabled.en, (State.keeperTime_enabled 1).en, both.en, zero]
  have made1 : cyclesMade (.keeper k) 1 a = some c1 := cyclesMade_succ.mpr ⟨a, _, rfl, seq, cycle1⟩
  have made2 : cyclesMade (.keeper k) 2 a = some c2 := cyclesMade_succ.mpr ⟨c1, _, made1, seq1, cycle2⟩
  generalize third : ({ retiSeq sp with step := 3, st := ramWord a k sp.toNat, ret := ramWord c1 k (sp + 1).toNat } : Seq) = q at seq2
  have fields : q.kind = .reti ∧ q.step = 3 ∧ q.st = ramWord a k sp.toNat := by subst third; exact ⟨rfl, rfl, rfl⟩
  obtain ⟨kind, step, stq⟩ := fields
  have cycle3 : c2.seqCycle (.keeper k) q =
      (((c2.keeperTime k 1).retiCommit (.keeper k)).setSeq (.keeper k) (some { q with step := 4 }), .made) := by
    rw [State.seqCycle_reti kind, State.retiCycle, if_neg (by omega), if_neg (by omega), if_pos step]
    refine State.inCycle_keeper ?_
    show (State.retiFix (.keeper k) q (c2.keeperTime k 1), true) = _
    unfold State.retiFix
    dsimp only
    rw [stq, none_]
  refine ⟨c1, _, { q with step := 4 }, made1, cyclesMade_succ.mpr ⟨c2, q, made2, seq2, cycle3⟩, e1, ?_, ?_, kind, rfl⟩
  · exact ((both.trans (State.keeperTime_enabled 1)).trans State.retiCommit_enabled).trans (State.setSeq_enabled _)
  · rw [State.setSeq, State.cpu_modKeeperCpu]

/-- The last two. -/
theorem State.retiFive_keeper {a c3 : State} (made3 : cyclesMade (.keeper k) 3 a = some c3) (seq : (c3.cpu (.keeper k)).seq = some q)
    (kind : q.kind = .reti) (step : q.step = 4) : ∃ t, cyclesMade (.keeper k) 5 a = some t ∧ Enabled k c3 t := by
  have cycle4 : c3.seqCycle (.keeper k) q = (((c3.keeperTime k 1).modCpu (.keeper k) (·.restoreSt q.st)).setSeq (.keeper k)
      (some { q with step := 5 }), .made) := by
    rw [State.seqCycle_reti kind, State.retiCycle, if_neg (by omega), if_neg (by omega), if_neg (by omega), if_pos step]
    exact State.inCycle_keeper (early := id) rfl
  generalize after : ((c3.keeperTime k 1).modCpu (.keeper k) (·.restoreSt q.st)).setSeq (.keeper k) (some { q with step := 5 }) = c4 at cycle4
  have e4 : Enabled k c3 c4 := by
    rw [← after]
    exact ((State.keeperTime_enabled 1).trans (State.modCpu_enabled _)).trans (State.setSeq_enabled _)
  have seq4 : (c4.cpu (.keeper k)).seq = some { q with step := 5 } := by
    rw [← after, State.setSeq, State.cpu_modKeeperCpu]
  have cycle5 : c4.seqCycle (.keeper k) { q with step := 5 } =
      ((c4.keeperTime k 1).modCpu (.keeper k) (fun u => { u with pc := q.ret, clear := true, seq := none }), .made) := by
    rw [State.seqCycle_reti (q := { q with step := 5 }) kind, State.retiCycle, if_neg (show ¬ (5 : Nat) = 1 by decide),
      if_neg (show ¬ (5 : Nat) = 2 by decide), if_neg (show ¬ (5 : Nat) = 3 by decide), if_neg (show ¬ (5 : Nat) = 4 by decide)]
    exact State.inCycle_keeper (early := id) rfl
  exact ⟨_, cyclesMade_succ.mpr ⟨c4, _, cyclesMade_succ.mpr ⟨c3, q, made3, seq, cycle4⟩, seq4, cycle5⟩,
    e4.trans ((State.keeperTime_enabled 1).trans (State.modCpu_enabled _))⟩

theorem State.seqBegun_enabled : Enabled k s (seqBegun s (.keeper k) q) := by
  unfold seqBegun
  rw [State.spendFast_keeper]
  exact (State.modCpu_enabled _).trans (State.keeperTime_enabled _)

end

/-- The state a RETI makes its first cycle in. -/
def State.retiBegins (p : Cpu) (sp : Word) (s : State) : State :=
  seqBegun ((((s.fetchLine p 1).1.cpuUntil p ((s.cpu p).now + ((s.fetchLine p 1).1.cpu p).waitFor retiOp)).1).modCpu p
    (fun v => { v with issued := none })) p (retiSeq sp)

theorem keeperReturnLeaves : keeperReturnRule := by
  intro k s sp p st issues low high quiet
  have begun : s.Holds p (s.retiBegins p sp) (({ s.cpu p with issued := none } : CpuState).begins (retiSeq sp)) :=
    reti_begins issues rfl
  have before : Enabled k s (s.retiBegins p sp) :=
    ((State.keeperTime_enabled _).trans (State.modCpu_enabled _)).trans State.seqBegun_enabled
  have same := before.only.ramWord sp.toNat
  obtain ⟨c1, c3, q, made1, made3, e1, e3, seq3, kind, step⟩ :=
    State.retiThree_keeper begun.regs.seq low high (by rw [same, before.en]; exact quiet)
  obtain ⟨t, made5, e5⟩ := State.retiFive_keeper made3 seq3 kind step
  have word1 : ((cyclePassed (s.retiBegins p sp) p).dLoad p sp.toNat).2 = some st := by
    rw [State.dLoad_keeper low]
    exact congrArg some ((State.keeperTime_local.ramWord _).trans same)
  have word2 : ((cyclePassed c1 p).dLoad p (sp + 1).toNat).2 = some (ramWord s k (sp + 1).toNat) := by
    rw [State.dLoad_keeper high]
    exact congrArg some ((State.keeperTime_local.ramWord _).trans ((before.trans e1).only.ramWord _))
  obtain ⟨plain, -⟩ := returnLeaves p s c1 c3 q st _ sp issues rfl made1 made3 seq3 word1 word2
  obtain ⟨ran, left, pc, stw, il⟩ := plain t kind made5
  exact ⟨t, ran, left, pc, stw, il, ((before.trans e3).trans e5).only.ramHolds⟩

/-- Settles O24: the cycles of a RETI and of its tail-chain one by one, each a lemma over the registers it leaves. -/
theorem interruptReturn : Obligations.InterruptReturn := ⟨returnLeaves, keeperReturnLeaves⟩

end Sys2Proof.Machine

/-! ## Context commands (R38 to R49) -/

namespace Sys2Proof.Machine

open Sys2Proof Sys2Proof.Claims

/-! ### A command is taken -/

section
variable {s t r : State} {p : Fin 4} {c : CtxNo} {args : List Reg32} {op n : Nat}

theorem State.modPort_same {f : Port → Port} : (s.modPort p f).ports[p.val] = f s.ports[p.val] := by
  simp [State.modPort]

theorem State.modPort_other {f : Port → Port} {q : Fin 4} (other : q ≠ p) : (s.modPort p f).ports[q.val] = s.ports[q.val] := by
  have apart : p.val ≠ q.val := fun e => other (Fin.ext e.symm)
  simp [State.modPort, apart]

theorem State.command_taken (free : s.portFree p = true) : s.command p c args op (0, r) = r.beginCommand p c args op 0 := by
  rw [State.command, if_pos free, if_pos rfl]

theorem State.command_failed (free : s.portFree p = true) (failed : n ≠ 0) :
    s.command p c args op (n, r) = s.beginCommand p c args op n := by
  rw [State.command, if_pos free, if_neg failed]

/-- A command that passed its checks, where the rest of the ports stand. -/
theorem State.beginCommand_taken (ports : ∀ q, q ≠ p → r.ports[q.val] = s.ports[q.val]) :
    taken s (r.beginCommand p c args op 0) p c (BitVec.ofNat 8 op) := by
  unfold State.beginCommand
  refine ⟨?_, ?_, ?_, ?_, fun q other => (State.modPort_other other).trans (ports q other)⟩ <;> rw [State.modPort_same] <;> rfl

theorem State.beginCommand_result : (r.beginCommand p c args op n).ports[p.val].result = BitVec.ofNat 8 n := by
  unfold State.beginCommand
  rw [State.modPort_same]

@[simp] theorem State.beginCommand_ctx (c' : CtxNo) : (r.beginCommand p c args op n).ctx c' = r.ctx c' := rfl

/-- A command that moves its context to a state. -/
theorem moves_of {i : Instr} {x : CtxState} (free : s.portFree p = true)
    (is : exec i s = .next (s.command p c args op (0, s.modCtx c (fun y => { y with state := x })))) :
    moves i p c (BitVec.ofNat 8 op) x s := by
  rw [State.command_taken free] at is
  refine ⟨_, is, State.beginCommand_taken fun _ _ => rfl, ?_, fun c' other => ?_, rfl⟩
  · rw [State.beginCommand_ctx, State.ctx_modCtx, if_pos rfl]
  · rw [State.beginCommand_ctx, State.ctx_modCtx, if_neg other]

end

/-- Settles O27: each of the five commands passes its check in the state it is for, and then changes the context's state alone. -/
theorem contextTransitions : Obligations.ContextTransitions := by
  intro p c s free
  refine ⟨fun running => ?_, fun a suspended => ⟨fun reached => ?_, fun unreached => ?_⟩, fun exported => ?_, fun from_ => ?_,
    fun quarantined title => ?_⟩
  · refine moves_of (args := []) (op := 3) free ?_
    simp only [exec, execSuspend, State.suspendAt, if_pos running]
  · have at_ : s.exportAt c a = (0, { s.modCtx c (fun x => { x with state := .exported }) with
        captured := (s.ctx c).ses.toList.filter (fun y => !s.captured.contains y) ++ s.captured }) := by
      simp only [State.exportAt, suspended, show s.manifestOk a.toNat (48 + 16 * (s.ctx c).mapped) = true from reached]
      simp
    have is : exec (.exportCtx p c a) s = .next (State.beginCommand p c (manifestArgs a) 6 0 { s.modCtx c (fun x => { x with state := .exported }) with
        captured := (s.ctx c).ses.toList.filter (fun y => !s.captured.contains y) ++ s.captured }) := by
      simp only [exec, execExportCtx, at_, State.command_taken free]
    refine ⟨_, is, State.beginCommand_taken fun _ _ => rfl, ?_, fun c' other => ?_, rfl, fun y held => ?_, fun y mem => ?_⟩
    · refine (State.ctx_of_ctxs (t := s.modCtx c (fun x => { x with state := .exported })) rfl).trans ?_
      rw [State.ctx_modCtx, if_pos rfl]
    · refine (State.ctx_of_ctxs (t := s.modCtx c (fun x => { x with state := .exported })) rfl).trans ?_
      rw [State.ctx_modCtx, if_neg other]
    · show y ∈ (s.ctx c).ses.toList.filter (fun y => !s.captured.contains y) ++ s.captured
      rw [show (s.ctx c).ses = some y from held]
      by_cases known : y ∈ s.captured
      · exact List.mem_append_right _ known
      · exact List.mem_append_left _ (List.mem_filter.mpr ⟨by simp, by simpa using known⟩)
    · exact List.mem_append_right _ mem
  · have at_ : s.exportAt c a = (7, s) := by
      simp only [State.exportAt, suspended, show s.manifestOk a.toNat (48 + 16 * (s.ctx c).mapped) = false from unreached]
      simp
    refine ⟨s.beginCommand p c (manifestArgs a) 6 7, ?_, rfl, State.beginCommand_result⟩
    simp only [exec, execExportCtx, at_]
    rw [State.command_failed free (by decide)]
  · refine moves_of (args := []) (op := 7) free ?_
    simp only [exec, execReturnCtx, State.returnAt, if_pos exported]
  · refine moves_of (args := []) (op := 9) free ?_
    have at_ : s.retireAt c = (0, s.modCtx c (fun x => { x with state := .retiring })) := by
      simp only [List.mem_cons, List.not_mem_nil, or_false] at from_
      unfold State.retireAt
      rcases from_ with state | state | state | state <;> rw [state]
    simp only [exec, execRetire, at_]
  · refine moves_of (args := []) (op := 0xA) free ?_
    have at_ : s.releaseCtx c = (0, s.modCtx c (fun x => { x with state := .suspended })) := by
      unfold State.releaseCtx
      rw [if_neg (by simpa using quarantined), if_neg title]
    simp only [exec, execRelease, at_]

/-! ### A command that fails its checks -/

section
variable {s t r : State} {p : Fin 4} {c : CtxNo} {args : List Reg32} {op : Nat}

/-- What O29 says of the port, and of the rest where the command fails. -/
structure Answered (s t : State) (p : Fin 4) (c : CtxNo) (rest : Prop) : Prop where
  busy : t.ports[p.val].busy = true
  ctx : t.ports[p.val].ctx = c
  failed : t.ports[p.val].result ≠ 0 → t.ports[p.val].waiting = none ∧ (rest → t = { s with ports := t.ports })

/-- A context command, whatever its checks answer. -/
theorem State.command_answered {e : Nat × State} (free : s.portFree p = true) (rest : Prop) :
    Answered s (s.command p c args op e) p c rest := by
  obtain ⟨n, r⟩ := e
  by_cases ok : n = 0
  · subst ok
    rw [State.command_taken free]
    unfold State.beginCommand
    refine ⟨?_, ?_, fun failed => absurd ?_ failed⟩ <;> rw [State.modPort_same]
    rfl
  · rw [State.command_failed free ok]
    unfold State.beginCommand
    refine ⟨?_, ?_, fun _ => ⟨?_, fun _ => rfl⟩⟩ <;> rw [State.modPort_same]
    exact if_neg ok

/-- What a persistent read does leaves a port for which nothing waits. -/
theorem State.persistent_apart (node : Byte) (a : Nat) : Apart s (s.persistent .rd node a) := by
  have counted : Still s (s.countLoam node 0x408 1) := by
    unfold State.countLoam
    split
    · exact State.countReg_still (.refl s)
    · split
      · exact State.countReg_still (.refl s)
      · exact .refl s
  unfold State.persistent
  split
  · exact .refl s
  · have write : ¬ (LoamOp.rd = .wr ∨ LoamOp.rd = .pwr) := by decide
    dsimp only
    rw [if_neg write]
    have read : Still s (if (framePool s.part (a / 4096)).isNone = true ∨ a ≥ rdWindow then s.countLoam node 0x408 1
        else (s.countLoam node 0x408 1).failRead (a / 4096) node) :=
      Still.of_ite (fun _ => counted) fun _ => State.failRead_still counted
    split
    · exact read.apart
    · exact (State.raiseP_still (State.offer_still read)).apart

/-- An IMPORT that does not fail leaves nothing for the Curator to act on. -/
theorem State.importAt_state {a : LoamAddr} (ok : (s.importAt c a).1 = 0) : ((s.importAt c a).2.ctx c).state = .importing := by
  unfold State.importAt at ok ⊢
  split at ok
  · cases ok
  · split at ok
    · cases ok
    · dsimp only at ok ⊢
      split at ok
      · cases ok
      · split at ok
        · cases ok
        · split at ok
          · cases ok
          · next free manifest title pages _ s1 found =>
            rw [if_neg free, if_neg manifest, if_neg title, if_neg pages]
            dsimp only
            rw [State.setRoot, State.ctx_modCtx, if_pos rfl, State.ctx_modCtx, if_pos rfl]

/-- An IMPORT on a port that is free. -/
theorem importAnswered {a : LoamAddr} (free : s.portFree p = true) :
    ∃ t, exec (.importCtx p c a) s = .next t ∧ Answered s t p c ((s.ctx c).state = .free → s.importBad a.toNat = none) := by
  refine ⟨_, rfl, ?_⟩
  have answered := State.command_answered (c := c) (args := manifestArgs a) (op := 8) (e := s.importAt c a) free
    ((s.ctx c).state = .free → s.importBad a.toNat = none)
  dsimp only
  split
  · by_cases ok : (s.importAt c a).1 = 0
    · have state : ((s.command p c (manifestArgs a) 8 (s.importAt c a)).ctx c).state = .importing := by
        rw [show s.importAt c a = (0, (s.importAt c a).2) from Prod.ext ok rfl, State.command_taken free, State.beginCommand_ctx,
          State.importAt_state ok]
      have same : (s.command p c (manifestArgs a) 8 (s.importAt c a)).importFail c a.toNat =
          s.command p c (manifestArgs a) 8 (s.importAt c a) := by
        rw [State.importFail, state]
        rfl
      rw [same]
      exact answered
    · have failed : s.command p c (manifestArgs a) 8 (s.importAt c a) = s.beginCommand p c (manifestArgs a) 8 (s.importAt c a).1 :=
        State.command_failed free ok
      rw [failed] at answered ⊢
      generalize begun : s.beginCommand p c (manifestArgs a) 8 (s.importAt c a).1 = z at answered ⊢
      have waits : z.ports[p.val].waiting = none := by
        rw [← begun, State.beginCommand, State.modPort_same]
        exact if_neg ok
      have look : (if (z.ctx c).state = .free then z.importBad a.toNat else none) =
          if (s.ctx c).state = .free then s.importBad a.toNat else none := by
        rw [← begun]
        rfl
      unfold State.importFail
      rw [look]
      cases bad : (if (s.ctx c).state = .free then s.importBad a.toNat else none) with
      | none => exact answered
      | some b =>
        have port := (State.persistent_apart (s := z) (BitVec.ofNat 8 (0x40 * z.curatorDie + 0x30)) b).port p waits
        refine ⟨by rw [port]; exact answered.busy, by rw [port]; exact answered.ctx, fun failed' => ⟨by rw [port]; exact waits, fun fine => ?_⟩⟩
        split at bad
        · next state => rw [fine state] at bad; cases bad
        · cases bad
  · exact answered

end

/-- Settles O29: a command's checks come before its effect, and one that fails writes its port alone. -/
theorem failedCommandChangesNothing : Obligations.FailedCommandChangesNothing := by
  intro p c n k a s i among
  have command : ∀ (args : List Reg32) (op : Nat) (e : Nat × State), exec i s = .next (s.command p c args op e) →
      (s.portFree p = false → exec i s = .next s) ∧
      (s.portFree p = true → ∃ t, exec i s = .next t ∧ t.ports[p.val].busy = true ∧ t.ports[p.val].ctx = c ∧
        (t.ports[p.val].result ≠ 0 → t.ports[p.val].waiting = none ∧
          ((i = .importCtx p c a → (s.ctx c).state = .free → s.importBad a.toNat = none) → t = { s with ports := t.ports }))) := by
    intro args op e is
    refine ⟨fun busy => ?_, fun free => ?_⟩
    · rw [is, State.command, if_neg (by rw [busy]; decide)]
    · obtain ⟨busy, ctx, failed⟩ := State.command_answered (c := c) (args := args) (op := op) (e := e) free True
      exact ⟨_, is, busy, ctx, fun no => ⟨(failed no).1, fun _ => (failed no).2 trivial⟩⟩
  simp only [List.mem_cons, List.not_mem_nil, or_false] at among
  rcases among with rfl | rfl | rfl | rfl | rfl | rfl | rfl | rfl | rfl | rfl
  · exact command _ _ _ rfl
  · exact command _ _ _ rfl
  · exact command _ _ _ rfl
  · exact command _ _ _ rfl
  · exact command _ _ _ rfl
  · exact command _ _ _ rfl
  · exact command _ _ _ rfl
  · refine ⟨fun busy => ?_, fun free => ?_⟩
    · simp only [exec, execImportCtx, State.command, busy, Bool.false_eq_true, if_false, Bool.false_and]
    · obtain ⟨t, is, busy, ctx, failed⟩ := importAnswered (a := a) (c := c) free
      exact ⟨t, is, busy, ctx, fun no => ⟨(failed no).1, fun fine => (failed no).2 (fine rfl)⟩⟩
  · exact command _ _ _ rfl
  · exact command _ _ _ rfl

/-! ### An EXPORT to a frame that is itself a Gallery copy -/

/-- A frame of die 0's Gallery. -/
def copyFrameNo : Nat := 0x4000028

/-- Context 5, admitted on die 0, names a clean Gallery copy of a page that is not work RAM; an EXPORT of context 7 waits with the address
of that copy. -/
def exportToCopy : State :=
  { State.reset with
    power := { State.reset.power with mode := .attended, on := 0x1FFFFFFFFFFFFE, cause := 0 }
    links := Vector.replicate 4 { up := 4, retraining := 0 }
    frames := [(copyFrameNo, { FrameRec.free with pool := 1, home := some 3000 })]
    ctxs := [(5, { Context.reset with
      state := .running, slot := 4
      pages := [(30, { PageEntry.none with alloc := true, gcopy := true, home := 3000, gframe := 40 })] })]
    slots := [(4, { SlotSt.idle with ctx := some 5 })]
    ports := State.reset.ports.set 0 { State.reset.ports[0] with busy := true, waiting := some (7, 6), args := #v[0x28000, 0x40, 0] } }

/-- The frame is a taker of its own writes alone, and no line of its home is staged. -/
theorem exportToCopy_plain : plainFrame exportToCopy copyFrameNo := by
  refine ⟨by decide, fun c off => ?_⟩
  have pages : (exportToCopy.ctx c).pages = [] ∨
      (exportToCopy.ctx c).pages = [(30, { PageEntry.none with alloc := true, gcopy := true, home := 3000, gframe := 40 })] := by
    unfold State.ctx
    rw [show exportToCopy.ctxs = [(5, _)] from rfl, Sparse.get]
    split
    · exact .inr rfl
    · exact .inl rfl
  unfold State.linesOf
  rw [show (exportToCopy.ctxTitle c).frames = [] from rfl]
  rcases pages with none_ | one <;> [rw [none_]; rw [one]] <;> rfl

/-- Refutes O30: a manifest stored in a clean Gallery copy makes the copy dirty in the map of the context that names it, so the contexts do
not stay as they were. -/
theorem not_commandsEnd : ¬ Obligations.CommandsEnd := by
  intro ends
  obtain ⟨-, -, -, export_, -⟩ := ends 0 exportToCopy (by decide)
  obtain ⟨t, ran, -, stored⟩ := export_ 7 (by decide) (by decide)
  have at_ : exportToCopy.ports[(0 : Fin 4).val].args[0].toNat + 2 ^ 32 * (exportToCopy.ports[(0 : Fin 4).val].args[1].toNat % 65536) =
      0x4000028000 := by decide
  have length : (exportToCopy.manifest 7).length = 48 := by decide
  dsimp only at stored
  rw [at_, length] at stored
  obtain ⟨ctxs, -⟩ := stored (by decide) fun b low high => by
    rw [show b / 4096 = copyFrameNo by unfold copyFrameNo; omega]
    exact exportToCopy_plain
  have is : exec (.commandDone 0) exportToCopy = .next (exportToCopy.finish 0 7 6) := rfl
  have same : exportToCopy.finish 0 7 6 = t := Host.Outcome.next.inj (is.symm.trans ran)
  rw [← same] at ctxs
  have dirty : (((exportToCopy.finish 0 7 6).ctx 5).page 30).dirty = true := by decide +kernel
  rw [State.ctx_of_ctxs ctxs] at dirty
  exact absurd dirty (by decide)

end Sys2Proof.Machine

/-! ## Page maps: what the Curator's operations leave of the contexts (R44, R47, R59, R80) -/

namespace Sys2Proof.Machine

open Sys2Proof Sys2Proof.Claims

/-- Of the contexts only the page maps differ; slots and ports are as they were. -/
structure MapsOnly (s t : State) : Prop where
  maps : ∀ c, ∃ pages, t.ctx c = { s.ctx c with pages := pages }
  slots : t.slots = s.slots
  ports : t.ports = s.ports

/-- The same, and no map has a page more. -/
structure Unmaps (s t : State) : Prop extends MapsOnly s t where
  alloc : ∀ c i, (s.page c i).alloc = false → (t.page c i).alloc = false

section
variable {s t u : State} {c : CtxNo} {n i f h die : Nat}

theorem MapsOnly.refl (s : State) : MapsOnly s s := ⟨fun c => ⟨(s.ctx c).pages, rfl⟩, rfl, rfl⟩

theorem MapsOnly.trans (a : MapsOnly s t) (b : MapsOnly t u) : MapsOnly s u := by
  refine ⟨fun c => ?_, b.slots.trans a.slots, b.ports.trans a.ports⟩
  obtain ⟨p, first⟩ := a.maps c
  obtain ⟨q, second⟩ := b.maps c
  exact ⟨q, by rw [second, first]⟩

theorem MapsOnly.of_eq (ctxs : t.ctxs = s.ctxs) (slots : t.slots = s.slots) (ports : t.ports = s.ports) : MapsOnly s t :=
  ⟨fun c => ⟨(s.ctx c).pages, by rw [State.ctx_of_ctxs ctxs]⟩, slots, ports⟩

theorem MapsOnly.modCtx {g : Context → Context} (pages : ∀ x, ∃ p, g x = { x with pages := p }) : MapsOnly s (s.modCtx c g) := by
  refine ⟨fun c' => ?_, rfl, rfl⟩
  rw [State.ctx_modCtx]
  split
  · next same => subst same; exact pages _
  · exact ⟨_, rfl⟩

theorem MapsOnly.foldl {α : Type} {g : State → α → State} (each : ∀ z a, MapsOnly z (g z a)) (l : List α) :
    ∀ s, MapsOnly s (l.foldl g s) := by
  induction l with
  | nil => exact MapsOnly.refl
  | cons a l ih => exact fun s => (each s a).trans (ih _)

theorem Unmaps.refl (s : State) : Unmaps s s := ⟨.refl s, fun _ _ h => h⟩

theorem Unmaps.trans (a : Unmaps s t) (b : Unmaps t u) : Unmaps s u :=
  ⟨a.toMapsOnly.trans b.toMapsOnly, fun c i free => b.alloc c i (a.alloc c i free)⟩

theorem Unmaps.of_eq (ctxs : t.ctxs = s.ctxs) (slots : t.slots = s.slots) (ports : t.ports = s.ports) : Unmaps s t :=
  ⟨.of_eq ctxs slots ports, fun c i free => by rw [State.page, State.ctx_of_ctxs ctxs]; exact free⟩

theorem Unmaps.modCtx {g : Context → Context} (pages : ∀ x, ∃ p, g x = { x with pages := p })
    (alloc : ∀ x i, (x.page i).alloc = false → ((g x).page i).alloc = false) : Unmaps s (s.modCtx c g) := by
  refine ⟨.modCtx pages, fun c' i free => ?_⟩
  rw [State.page, State.ctx_modCtx]
  split
  · next same => subst same; exact alloc _ i free
  · exact free

theorem Unmaps.foldl {α : Type} {g : State → α → State} (each : ∀ z a, Unmaps z (g z a)) (l : List α) : ∀ s, Unmaps s (l.foldl g s) := by
  induction l with
  | nil => exact Unmaps.refl
  | cons a l ih => exact fun s => (each s a).trans (ih _)

theorem Unmaps.of_ite {b : Prop} [Decidable b] {x y : State} (yes : Unmaps s x) (no : Unmaps s y) : Unmaps s (if b then x else y) := by
  split
  · exact yes
  · exact no

/-! ### Entries of a map -/

/-- An update of every entry reads as an update of the entry. -/
theorem Sparse.get_map {α : Type} (d : α) (g : α → α) (j : Nat) : ∀ m : Sparse α,
    Sparse.get d (m.map (fun e => (e.1, g e.2))) j = Sparse.get d m j ∨
      Sparse.get d (m.map (fun e => (e.1, g e.2))) j = g (Sparse.get d m j)
  | [] => .inl rfl
  | (k, v) :: m => by
    rw [List.map_cons, Sparse.get, Sparse.get]
    split
    · exact .inr rfl
    · exact Sparse.get_map d g j m

/-- Every entry of a map updated, its ALLOC apart. -/
theorem Unmaps.mapPages {g : PageEntry → PageEntry} (alloc : ∀ e, (g e).alloc = e.alloc) :
    Unmaps s (s.modCtx c (fun x => { x with pages := x.pages.map (fun e => (e.1, g e.2)) })) := by
  refine .modCtx (fun x => ⟨_, rfl⟩) fun x i free => ?_
  have both := Sparse.get_map PageEntry.none g i x.pages
  unfold Context.page at free ⊢
  rcases both with same | changed
  · rw [same]; exact free
  · rw [changed, alloc]; exact free

/-- One entry of a map updated. -/
theorem Unmaps.setPage {g : Context → PageEntry} (alloc : ∀ x, (x.page i).alloc = false → (g x).alloc = false) :
    Unmaps s (s.modCtx c (fun x => x.setPage i (g x))) := by
  refine .modCtx (fun x => ⟨_, rfl⟩) fun x j free => ?_
  unfold Context.setPage Context.page
  dsimp only
  rw [Sparse.get_set]
  split
  · next same => subst same; exact alloc x free
  · exact free

/-! ### Frames and the pages that name them -/

theorem State.raiseP_unmaps : Unmaps s (s.raiseP n) := by
  obtain ⟨d, k, raised⟩ := s.raiseP_rest n
  rw [raised]
  exact .of_eq rfl rfl rfl

theorem State.setFrame_unmaps {r : FrameRec} : Unmaps s (s.setFrame f r) := by
  have put : Unmaps s (s.putFrame f r) := .of_eq rfl rfl rfl
  unfold State.setFrame
  dsimp only
  split
  · split
    · exact .of_ite (put.trans State.raiseP_unmaps) put
    · exact put
  · exact put

theorem State.modFrame_unmaps {g : FrameRec → FrameRec} : Unmaps s (s.modFrame f g) := State.setFrame_unmaps

theorem State.freeFrame_unmaps : Unmaps s (s.freeFrame f) := State.setFrame_unmaps.trans (.of_eq rfl rfl rfl)

theorem State.endFlight_unmaps : Unmaps s (s.endFlight die f h) := State.freeFrame_unmaps.trans (.of_eq rfl rfl rfl)

theorem State.unawait_unmaps : Unmaps s (s.unawait die f) := by
  unfold State.unawait
  refine .foldl (fun z c => .of_ite ?_ (.refl z)) _ s
  exact Unmaps.mapPages (g := fun e => if e.inflight && galleryFrame die e.gframe.toNat == f then { e with inflight := false, gframe := 0 } else e)
    fun e => by split <;> rfl

theorem State.freeCopies_unmaps : Unmaps s (s.freeCopies h) := by
  unfold State.freeCopies
  refine State.modFrame_unmaps.trans (.foldl (fun z d => ?_) _ _)
  have flight (z1 : State) {f : Nat} : Unmaps z1 ((z1.unawait d f).endFlight d f h) :=
    State.unawait_unmaps.trans State.endFlight_unmaps
  cases z.copyOn d h with
  | none =>
    dsimp only
    split
    · exact flight z
    · exact .refl z
  | some f =>
    dsimp only
    split
    · exact State.freeFrame_unmaps.trans (flight _)
    · exact State.freeFrame_unmaps

theorem State.writeBackFrame_unmaps : Unmaps s (s.writeBackFrame f) := by
  unfold State.writeBackFrame
  split
  · next h _ =>
    refine .of_ite ?_ (.refl s)
    have copied : Unmaps s (s.copyFrame f h) := .of_eq rfl rfl rfl
    refine (copied.trans State.modFrame_unmaps).trans (.foldl (fun z c => .of_ite ?_ (.refl z)) _ _)
    exact Unmaps.mapPages (g := fun e => if e.home.toNat == h then { e with dirty := false } else e) fun e => by split <;> rfl
  · exact .refl s

theorem State.dropPageCopy_unmaps : Unmaps s (s.dropPageCopy c i) := by
  unfold State.dropPageCopy
  dsimp only
  split
  · split
    · have first : Unmaps s (s.modCtx c (fun x => x.setPage i { x.page i with inflight := false, gframe := 0 })) :=
        .setPage fun _ free => free
      exact .of_ite (first.trans (.of_eq rfl rfl rfl)) (first.trans State.endFlight_unmaps)
    · refine .of_ite ?_ (.refl s)
      have first := State.writeBackFrame_unmaps (s := s) (f := galleryFrame ‹Nat› (s.page c i).gframe.toNat)
      have second := first.trans (Unmaps.setPage (c := c) (i := i)
        (g := fun x => { x.page i with gcopy := false, dirty := false, gframe := 0, inflight := false }) fun _ free => free)
      exact .of_ite second (second.trans State.freeFrame_unmaps)
  · exact .refl s

theorem State.dropShare_unmaps : Unmaps s (s.dropShare h) := by
  unfold State.dropShare
  exact .of_ite (State.freeCopies_unmaps.trans State.freeFrame_unmaps) State.setFrame_unmaps

/-- A page that leaves a map. -/
theorem State.unmapPage_unmaps : Unmaps s (s.unmapPage c i) ∧ ((s.unmapPage c i).page c i).alloc = false := by
  unfold State.unmapPage
  dsimp only
  split
  · have first := (State.dropPageCopy_unmaps (s := s) (c := c) (i := i)).trans
      (Unmaps.setPage (c := c) (i := i) (g := fun _ => PageEntry.none) fun _ _ => rfl)
    refine ⟨first.trans State.dropShare_unmaps, State.dropShare_unmaps.alloc c i ?_⟩
    rw [State.page, State.ctx_modCtx, if_pos rfl, Context.setPage, Context.page, Sparse.get_set, if_pos rfl]
    rfl
  · next free => exact ⟨.refl s, by simpa using free⟩

/-- Pages that leave a map. -/
theorem State.unmapPages_unmaps (l : List Nat) : ∀ s : State, Unmaps s (l.foldl (fun s i => s.unmapPage c i) s) ∧
    ∀ i ∈ l, ((l.foldl (fun s i => s.unmapPage c i) s).page c i).alloc = false := by
  induction l with
  | nil => exact fun s => ⟨.refl s, fun _ none_ => absurd none_ List.not_mem_nil⟩
  | cons j l ih =>
    intro s
    obtain ⟨first, gone⟩ := State.unmapPage_unmaps (s := s) (c := c) (i := j)
    obtain ⟨rest, others⟩ := ih (s.unmapPage c j)
    refine ⟨first.trans rest, fun i mem => ?_⟩
    rcases List.mem_cons.mp mem with rfl | later
    · exact rest.alloc c i gone
    · exact others i later

theorem State.dropMirror_unmaps : Unmaps s (s.dropMirror c) ∧ ∀ i ∈ mirrorPages, ((s.dropMirror c).page c i).alloc = false :=
  State.unmapPages_unmaps mirrorPages s

/-! ### Pages that are taken, shared and copied -/

theorem State.setPage_maps {e : PageEntry} : MapsOnly s (s.setPage c i e) := .modCtx fun _ => ⟨_, rfl⟩

theorem State.takeHome_maps {o : Option Nat} {b : Bool} (taken : s.takeHome o b = some (f, t)) : MapsOnly s t := by
  obtain ⟨k, -, frame⟩ := Option.bind_eq_some_iff.mp taken
  obtain ⟨g, -, same⟩ := Option.map_eq_some_iff.mp frame
  rw [← (Prod.mk.inj same).2]
  exact (State.setFrame_unmaps (s := s)).toMapsOnly.trans (.of_eq rfl rfl rfl)

theorem State.takePages_maps {o : Option Nat} (l : List Nat) : ∀ {s t : State}, s.takePages c o l = some t → MapsOnly s t := by
  induction l with
  | nil => exact fun taken => Option.some.inj taken ▸ .refl _
  | cons i l ih =>
    intro s t taken
    unfold State.takePages at taken
    split at taken
    · cases taken
    · next h s1 home =>
      exact ((State.takeHome_maps home).trans (.of_eq (t := s1.clearFrame h) rfl rfl rfl)).trans (State.setPage_maps.trans (ih taken))

end

end Sys2Proof.Machine

/-! ## Entry words (R35, R36, R44) -/
namespace Sys2Proof.Machine
open Sys2Proof Sys2Proof.Claims

/-! ### Halves of entry words that are held -/

/-- Another set of held halves. -/
def State.withHold (s : State) (x : Sparse (Option (Nat × Reg32))) : State := { s with entryHold := x }

section Hold
variable {s t : State} {x : Sparse (Option (Nat × Reg32))} {c : CtxNo} {i f h n d : Nat}

/-- A loop whose steps ignore the held halves does so itself. -/
theorem State.foldl_withHold {α : Type} {act : State → α → State}
    (each : ∀ z a, act (z.withHold x) a = (act z a).withHold x) (l : List α) :
    ∀ s : State, l.foldl act (s.withHold x) = (l.foldl act s).withHold x := by
  induction l with
  | nil => exact fun _ => rfl
  | cons a l ih => exact fun s => (congrArg (l.foldl act) (each s a)).trans (ih (act s a))

/-- Of two states that ignore the held halves the one chosen does too. -/
theorem State.ite_withHold {p : Prop} [Decidable p] {a b a' b' : State} (yes : a' = a.withHold x) (no : b' = b.withHold x) :
    (if p then a' else b') = (if p then a else b).withHold x := by
  split
  · exact yes
  · exact no

/-! What a state shows that has other held halves. -/

@[simp] theorem State.frame_withHold : (s.withHold x).frame f = s.frame f := rfl
@[simp] theorem State.page_withHold : (s.withHold x).page c i = s.page c i := rfl
@[simp] theorem State.ctx_withHold : (s.withHold x).ctx c = s.ctx c := rfl
@[simp] theorem State.ctxDie_withHold : (s.withHold x).ctxDie c = s.ctxDie c := rfl
@[simp] theorem State.ctxNos_withHold : (s.withHold x).ctxNos = s.ctxNos := rfl
@[simp] theorem State.copyOn_withHold : (s.withHold x).copyOn d h = s.copyOn d h := rfl
@[simp] theorem State.flightOn_withHold : (s.withHold x).flightOn d h = s.flightOn d h := rfl
@[simp] theorem State.awaitsCopy_withHold : (s.withHold x).awaitsCopy d f c = s.awaitsCopy d f c := rfl
@[simp] theorem State.namesCopy_withHold : (s.withHold x).namesCopy d f c = s.namesCopy d f c := rfl
@[simp] theorem State.current_withHold : (s.withHold x).current h = s.current h := rfl
@[simp] theorem State.part_withHold : (s.withHold x).part = s.part := rfl
@[simp] theorem State.regN_withHold : (s.withHold x).regN n = s.regN n := rfl
@[simp] theorem State.freeCount_withHold : (s.withHold x).freeCount n = s.freeCount n := rfl
@[simp] theorem State.putFrame_withHold {r : FrameRec} : (s.withHold x).putFrame f r = (s.putFrame f r).withHold x := rfl
@[simp] theorem State.copyFrame_withHold : (s.withHold x).copyFrame f h = (s.copyFrame f h).withHold x := rfl
@[simp] theorem State.modCtx_withHold {g : Context → Context} : (s.withHold x).modCtx c g = (s.modCtx c g).withHold x := rfl

theorem State.dicPend_withHold : (s.withHold x).dicPend n = (s.dicPend n).withHold x := by
  unfold State.dicPend
  exact State.ite_withHold rfl rfl

theorem State.raiseP_withHold : (s.withHold x).raiseP n = (s.raiseP n).withHold x := by
  unfold State.raiseP
  rw [State.dicPend_withHold]
  exact State.ite_withHold rfl (State.ite_withHold rfl rfl)

@[simp] theorem State.setFrame_withHold {r : FrameRec} : (s.withHold x).setFrame f r = (s.setFrame f r).withHold x := by
  unfold State.setFrame
  simp only [State.putFrame_withHold, State.part_withHold, State.regN_withHold, State.freeCount_withHold]
  cases framePool s.part f with
  | some k => exact State.ite_withHold (State.ite_withHold State.raiseP_withHold rfl) rfl
  | none => rfl

@[simp] theorem State.modFrame_withHold {g : FrameRec → FrameRec} : (s.withHold x).modFrame f g = (s.modFrame f g).withHold x :=
  State.setFrame_withHold

@[simp] theorem State.freeFrame_withHold : (s.withHold x).freeFrame f = (s.freeFrame f).withHold x := by
  unfold State.freeFrame
  rw [State.setFrame_withHold]
  rfl

@[simp] theorem State.endFlight_withHold : (s.withHold x).endFlight d f h = (s.endFlight d f h).withHold x := by
  unfold State.endFlight
  rw [State.freeFrame_withHold]
  rfl

@[simp] theorem State.unawait_withHold : (s.withHold x).unawait d f = (s.unawait d f).withHold x := by
  unfold State.unawait
  refine State.foldl_withHold (fun z e => ?_) _ s
  simp only [State.awaitsCopy_withHold, State.modCtx_withHold]
  exact State.ite_withHold rfl rfl

@[simp] theorem State.freeCopies_withHold : (s.withHold x).freeCopies h = (s.freeCopies h).withHold x := by
  unfold State.freeCopies
  rw [State.modFrame_withHold]
  refine State.foldl_withHold (fun z d => ?_) _ _
  rw [State.copyOn_withHold]
  cases z.copyOn d h with
  | none =>
    simp only [State.flightOn_withHold, State.unawait_withHold, State.endFlight_withHold]
    cases z.flightOn d h <;> rfl
  | some g =>
    simp only [State.freeFrame_withHold, State.flightOn_withHold, State.unawait_withHold, State.endFlight_withHold]
    cases (z.freeFrame g).flightOn d h <;> rfl

@[simp] theorem State.writeBackFrame_withHold : (s.withHold x).writeBackFrame f = (s.writeBackFrame f).withHold x := by
  unfold State.writeBackFrame
  rw [State.frame_withHold]
  cases (s.frame f).home with
  | none => rfl
  | some h =>
    simp only [State.current_withHold, State.copyFrame_withHold, State.modFrame_withHold, State.ctxNos_withHold]
    refine State.ite_withHold (State.foldl_withHold (fun z e => ?_) _ _) rfl
    simp only [State.namesCopy_withHold, State.modCtx_withHold]
    exact State.ite_withHold rfl rfl

@[simp] theorem State.dropPageCopy_withHold : (s.withHold x).dropPageCopy c i = (s.dropPageCopy c i).withHold x := by
  unfold State.dropPageCopy
  simp only [State.page_withHold, State.ctxDie_withHold, State.modCtx_withHold, State.ctxNos_withHold,
    State.writeBackFrame_withHold, State.freeFrame_withHold, State.endFlight_withHold]
  cases s.ctxDie c with
  | none => rfl
  | some d => exact State.ite_withHold (State.ite_withHold rfl rfl) (State.ite_withHold (State.ite_withHold rfl rfl) rfl)

@[simp] theorem State.dropShare_withHold : (s.withHold x).dropShare h = (s.dropShare h).withHold x := by
  unfold State.dropShare
  simp only [State.frame_withHold, State.freeCopies_withHold, State.freeFrame_withHold, State.setFrame_withHold]
  exact State.ite_withHold rfl rfl

theorem State.unmapPage_withHold : (s.withHold x).unmapPage c i = (s.unmapPage c i).withHold x := by
  unfold State.unmapPage
  simp only [State.page_withHold, State.dropPageCopy_withHold, State.modCtx_withHold, State.dropShare_withHold]
  exact State.ite_withHold rfl rfl

theorem State.dropMirror_withHold : (s.withHold x).dropMirror c = (s.dropMirror c).withHold x :=
  State.foldl_withHold (fun _ _ => State.unmapPage_withHold) _ s

theorem State.commitEntry_withHold {k v : Nat} : (s.withHold x).commitEntry c k v = (s.commitEntry c k v).withHold x := by
  unfold State.commitEntry
  simp only [State.ctx_withHold, State.modCtx_withHold, State.dropMirror_withHold]
  cases (s.ctx c).state with
  | free | suspended => exact State.ite_withHold rfl rfl
  | _ => rfl

end Hold
/-! ### Writes of an entry word -/

section Entry
variable {s : State} {c : CtxNo} {k : Nat} {v : Nat}

/-- An entry that takes its fields: FREE or SUSPENDED (R36). -/
theorem State.commitEntry_open (taking : (s.ctx c).state = .free ∨ (s.ctx c).state = .suspended) :
    s.commitEntry c k v = if k = 0 ∧ !v.testBit 57 then (s.modCtx c (·.takeWord k v)).dropMirror c else s.modCtx c (·.takeWord k v) := by
  unfold State.commitEntry
  rcases taking with free | suspended
  · rw [free]
  · rw [suspended]

theorem State.commitEntry_closed (free : (s.ctx c).state ≠ .free) (suspended : (s.ctx c).state ≠ .suspended) :
    s.commitEntry c k v = s := by
  unfold State.commitEntry
  split
  · next is => exact absurd is free
  · next is => exact absurd is suspended
  · rfl

/-- An entry's write reaches the power state and the halves held of none. -/
theorem State.commitEntry_apart : Apart s (s.commitEntry c k v) := by
  have mirror (z : State) : Apart z (z.dropMirror c) := .foldl (fun z _ => (State.unmapPage_still (.refl z)).apart) _ z
  have first : Apart s (s.modCtx c (·.takeWord k v)) := .of_eq rfl rfl rfl
  unfold State.commitEntry
  split
  · dsimp only
    split
    · exact first.trans (mirror _)
    · exact first
  · dsimp only
    split
    · exact first.trans (mirror _)
    · exact first
  · exact .refl s

/-- An entry's fields that change within the entry alone: every write but one of KEEP_MIRROR 0. -/
theorem State.commitEntry_local (taking : (s.ctx c).state = .free ∨ (s.ctx c).state = .suspended) (keeps : ¬ (k = 0 ∧ !v.testBit 57)) :
    s.commitEntry c k v = { s with ctxs := (s.commitEntry c k v).ctxs } ∧ otherContexts s (s.commitEntry c k v) c ∧
      (s.commitEntry c k v).ctx c = (s.ctx c).takeWord k v := by
  rw [State.commitEntry_open taking, if_neg keeps]
  refine ⟨rfl, fun c' other => ?_, ?_⟩
  · rw [State.ctx_modCtx, if_neg other]
  · rw [State.ctx_modCtx, if_pos rfl]

/-- KEEP_MIRROR 0 takes the mirror pages out of the map, and changes no other field than word 0's. -/
theorem State.commitEntry_mirror (taking : (s.ctx c).state = .free ∨ (s.ctx c).state = .suspended) (clear : v.testBit 57 = false) :
    (∃ pages, (s.commitEntry c 0 v).ctx c = { (s.ctx c).takeWord 0 v with pages := pages }) ∧
      ∀ i ∈ mirrorPages, (((s.commitEntry c 0 v).ctx c).page i).alloc = false := by
  rw [State.commitEntry_open taking, if_pos ⟨rfl, by rw [clear]; rfl⟩]
  obtain ⟨unmaps, gone⟩ := State.dropMirror_unmaps (s := s.modCtx c (·.takeWord 0 v)) (c := c)
  obtain ⟨pages, is⟩ := unmaps.maps c
  rw [State.ctx_modCtx, if_pos rfl] at is
  exact ⟨⟨pages, is⟩, gone⟩

theorem exec_contextEntryWrite (node : Byte) (k : Fin 4) (p : EntryPart) (on : s.power.mode ≠ .off) :
    exec (.contextEntryWrite node c k p) s = .next (s.contextEntryWrite node c k p) :=
  congrArg Host.Outcome.next (if_neg on)

/-- The low half held for a word. -/
def State.holding (node : Byte) (n : Nat) (l : Reg32) (s : State) : State :=
  s.withHold (Sparse.set none s.entryHold (holdKey node 0) (some (n, l)))

/-- A node's high half commits with the low half it holds of the same word. -/
theorem State.contextEntryWrite_high {node : Byte} {k : Fin 4} {l h : Reg32}
    (held : Sparse.get none s.entryHold (holdKey node 0) = some (4 * c.toNat + k.val, l)) :
    (s.contextEntryWrite node c k (.high h)).ctxs = (s.contextEntryWrite node c k (.whole (h ++ l))).ctxs := by
  have pair : h.toNat * 2 ^ 32 + l.toNat = (h ++ l).toNat := by
    rw [BitVec.toNat_append, ← Nat.shiftLeft_add_eq_or_of_lt l.isLt, Nat.shiftLeft_eq]
  have whole : s.contextEntryWrite node c k (.whole (h ++ l)) = s.commitEntry c k.val (h ++ l).toNat := rfl
  have high : s.contextEntryWrite node c k (.high h) =
      (s.withHold (Sparse.set none s.entryHold (holdKey node 0) none)).commitEntry c k.val (h ++ l).toNat := by
    unfold State.contextEntryWrite State.holdWrite
    simp only [held, if_pos, pair]
    rfl
  rw [high, whole, State.commitEntry_withHold]
  rfl

/-- A node's high half of another word leaves the low half it holds, and the power state. -/
theorem State.contextEntryWrite_other {node : Byte} {j : Fin 4} {n : Nat} {l h : Reg32}
    (held : Sparse.get none s.entryHold (holdKey node 0) = some (n, l)) (other : n ≠ 4 * c.toNat + j.val) :
    Apart s (s.contextEntryWrite node c j (.high h)) := by
  unfold State.contextEntryWrite State.holdWrite
  simp only [held, if_neg other]
  exact State.commitEntry_apart

end Entry

/-- Settles O31: an entry's write is `takeWord` in FREE and SUSPENDED, and a half written later than its low half is a whole word. -/
theorem entryWrites : Obligations.EntryWrites := by
  unfold Obligations.EntryWrites
  intro node c w s on
  have run (k : Fin 4) (p : EntryPart) {z : State} (power : z.power = s.power) :
      exec (.contextEntryWrite node c k p) z = .next (z.contextEntryWrite node c k p) :=
    exec_contextEntryWrite node k p (power ▸ on)
  have bit (i : Nat) : w.toNat.testBit i = w.getLsbD i := BitVec.testBit_toNat w
  have part (a b : Nat) : BitVec.ofNat b (w.toNat / 2 ^ a) = w.extractLsb' a b := by
    rw [← Nat.shiftRight_eq_div_pow]
    rfl
  refine ⟨fun k free suspended => ?_, fun taking => ⟨?_, ?_, ?_, ?_, ?_⟩, fun k l h => ?_, fun k j l h h' other => ?_⟩
  · rw [run k _ rfl]
    exact congrArg _ (State.commitEntry_closed free suspended)
  · obtain ⟨same, others, is⟩ := State.commitEntry_local (k := 2) (v := w.toNat) taking (nomatch ·.1)
    refine ⟨s.commitEntry c 2 w.toNat, run 2 _ rfl, same, others, ?_⟩
    rw [is, Context.takeWord, if_neg (by decide), if_pos rfl]
    refine ⟨part 54 10, part 44 10, ?_⟩
    dsimp only
    rw [← part 0 44, Nat.pow_zero, Nat.div_one]
  · obtain ⟨same, others, is⟩ := State.commitEntry_local (k := 3) (v := w.toNat) taking (nomatch ·.1)
    refine ⟨s.commitEntry c 3 w.toNat, run 3 _ rfl, same, others, is.trans ?_⟩
    rw [Context.takeWord, if_neg (by decide), if_neg (by decide), if_pos rfl, part 37 27, part 33 4]
  · obtain ⟨same, others, is⟩ := State.commitEntry_local (k := 1) (v := w.toNat) taking (nomatch ·.1)
    refine ⟨s.commitEntry c 1 w.toNat, run 1 _ rfl, same, fun c' => ?_⟩
    by_cases at_ : c' = c
    · subst at_
      exact is
    · exact others c' at_
  · intro clear
    obtain ⟨⟨pages, is⟩, gone⟩ := State.commitEntry_mirror (v := w.toNat) taking ((bit 57).trans clear)
    refine ⟨s.commitEntry c 0 w.toNat, run 0 _ rfl, ?_⟩
    rw [State.ses, is]
    refine ⟨?_, ?_, ?_, ?_, ?_, rfl, is ▸ gone⟩
    · exact bit 59
    · exact bit 58
    · exact (bit 57).trans clear
    · exact bit 56
    · exact part 16 16
  · intro keep
    obtain ⟨same, others, is⟩ := State.commitEntry_local (k := 0) (v := w.toNat) taking (by rw [bit, keep]; decide)
    refine ⟨s.commitEntry c 0 w.toNat, run 0 _ rfl, same, others, ?_⟩
    rw [is, Context.takeWord, if_pos rfl]
    simp only [bit, keep, part, true_and]
  · refine ⟨_, _, _, run k _ rfl, rfl, run k _ rfl, run k _ rfl, ?_⟩
    have held := State.contextEntryWrite_high (s := s.holding node (4 * c.toNat + k.val) l) (c := c) (k := k) (l := l) (h := h)
      (node := node) (by rw [State.holding, State.withHold, Sparse.get_set, if_pos rfl])
    refine held.trans ?_
    have apart := State.commitEntry_withHold (s := s) (c := c) (k := k.val) (v := (h ++ l).toNat)
      (x := (s.holding node (4 * c.toNat + k.val) l).entryHold)
    exact (congrArg State.ctxs apart).trans rfl
  · have held : Sparse.get none (s.holding node (4 * c.toNat + k.val) l).entryHold (holdKey node 0) = some (4 * c.toNat + k.val, l) := by
      rw [State.holding, State.withHold, Sparse.get_set, if_pos rfl]
    have apart := State.contextEntryWrite_other (c := c) (j := j) (h := h') held (by
      have : j.val ≠ k.val := fun same => other (Fin.ext same)
      omega)
    exact ⟨s.holding node (4 * c.toNat + k.val) l, _, _, _, run k _ rfl, run j _ rfl, run k _ apart.power, run k _ apart.power,
      State.contextEntryWrite_high (by rw [apart.hold]; exact held)⟩

end Sys2Proof.Machine

/-! ## Context commands that take frames: CREATE, ADMIT, SNAPSHOT, FORK and IMPORT (R41, R42, R47, R48) -/
namespace Sys2Proof.Machine
open Sys2Proof Sys2Proof.Claims

/-! ### The map of one context -/

/-- Of the contexts only the page map of one differs. -/
structure MapOf (c : CtxNo) (s t : State) : Prop extends MapsOnly s t where
  others : otherContexts s t c

section
variable {s t u : State} {c n : CtxNo} {k : Nat}

theorem MapOf.refl (s : State) : MapOf c s s := ⟨.refl s, fun _ _ => rfl⟩

theorem MapOf.trans (a : MapOf c s t) (b : MapOf c t u) : MapOf c s u :=
  ⟨a.toMapsOnly.trans b.toMapsOnly, fun c' other => (b.others c' other).trans (a.others c' other)⟩

theorem MapOf.setPage {i : Nat} {e : PageEntry} (same : t.ctxs = s.ctxs) (slots : t.slots = s.slots) (ports : t.ports = s.ports) :
    MapOf c s (t.setPage c i e) :=
  ⟨(MapsOnly.of_eq same slots ports).trans State.setPage_maps, fun c' other =>
    (State.ctx_modCtx t c c' _).trans ((if_neg other).trans (State.ctx_of_ctxs same))⟩

/-- A frame taken for a page leaves every context. -/
theorem State.takeHome_contexts {o : Option Nat} {b : Bool} {f : Nat} (taken : s.takeHome o b = some (f, t)) :
    t.ctxs = s.ctxs ∧ t.slots = s.slots ∧ t.ports = s.ports := by
  obtain ⟨j, -, frame⟩ := Option.bind_eq_some_iff.mp taken
  obtain ⟨g, -, same⟩ := Option.map_eq_some_iff.mp frame
  rw [← (Prod.mk.inj same).2]
  obtain ⟨d, ks, is⟩ := State.setFrame_rest (s := s) (f := g) FrameRec.page
  dsimp only [State.spend]
  rw [is]
  exact ⟨rfl, rfl, rfl⟩

theorem State.takePages_map {o : Option Nat} (l : List Nat) : ∀ {s t : State}, s.takePages c o l = some t → MapOf c s t := by
  induction l with
  | nil => exact fun taken => Option.some.inj taken ▸ .refl _
  | cons i l ih =>
    intro s t taken
    unfold State.takePages at taken
    split at taken
    · cases taken
    · next h s1 home =>
      obtain ⟨ctxs, slots, ports⟩ := State.takeHome_contexts home
      exact (MapOf.setPage (t := s1.clearFrame h) ctxs slots ports).trans (ih taken)

theorem State.importPages_map (l : List (Nat × Nat)) : ∀ {s t : State}, s.importPages c l = some t → MapOf c s t := by
  induction l with
  | nil => exact fun taken => Option.some.inj taken ▸ .refl _
  | cons e l ih =>
    intro s t taken
    unfold State.importPages at taken
    split at taken
    · cases taken
    · next h s1 home =>
      obtain ⟨ctxs, slots, ports⟩ := State.takeHome_contexts home
      exact (MapOf.setPage (t := s1.copyFrame (s1.served (e.2 / 4096)) h) ctxs slots ports).trans (ih taken)

/-! ### A slot is taken (R42) -/

theorem State.clearSlotRegs_slots : (s.clearSlotRegs k).slots = s.slots := by
  simp only [State.clearSlotRegs, State.clearStall, State.setCnt, State.setReg, List.map, List.foldl]

theorem State.clearSlotRegs_ports : (s.clearSlotRegs k).ports = s.ports := by
  simp only [State.clearSlotRegs, State.clearStall, State.setCnt, State.setReg, List.map, List.foldl]

/-- A context that has taken a slot: ADMITTING, at its pixel charge, with the slot's thread its own; of the other contexts at most the
page maps differ. -/
structure Reserved (s t : State) (c : CtxNo) (k : Nat) : Prop where
  entry : ∃ pages, t.ctx c = { s.ctx c with
    state := .admitting, slot := BitVec.ofNat 14 k, pages := pages,
    pixCharge := BitVec.ofNat 32 (pixCharge (s.ctx c).envH.toNat (s.ctx c).envV.toNat (s.ctx c).periodFx.toNat) }
  others : ∀ c', c' ≠ c → ∃ pages, t.ctx c' = { s.ctx c' with pages := pages }
  slot : (t.slot k).ctx = some c
  ports : t.ports = s.ports

/-- What changes only page maps keeps a slot taken. -/
theorem Reserved.maps (reserved : Reserved s t c k) (maps : MapsOnly t u) : Reserved s u c k := by
  obtain ⟨p, is⟩ := reserved.entry
  obtain ⟨q, becomes⟩ := maps.maps c
  refine ⟨⟨q, by rw [becomes, is]⟩, fun c' other => ?_, ?_, maps.ports.trans reserved.ports⟩
  · obtain ⟨p', is'⟩ := reserved.others c' other
    obtain ⟨q', becomes'⟩ := maps.maps c'
    exact ⟨q', by rw [becomes', is']⟩
  · rw [State.slot, maps.slots]
    exact reserved.slot

/-- The slot and its registers as they are when its thread is taken. -/
theorem State.newSlot_taken : ((s.setSlot k (s.newSlot c k)).clearSlotRegs k).slot k = s.newSlot c k := by
  rw [State.slot, State.clearSlotRegs_slots]
  exact (State.slot_setSlot ..).trans (if_pos rfl)

/-- The further threads of a Grand session leave the first. -/
theorem State.upperThreads_slot {grand : Bool} {z : State} (w : State)
    (is : w = if grand then ([k + 1, k + 2, k + 3] : List Nat).foldl (fun (s : State) j =>
      s.setSlot j { SlotSt.idle with ctx := some c, upper := true }) z else z) :
    w.slot k = z.slot k ∧ w.ctxs = z.ctxs ∧ w.ports = z.ports := by
  subst is
  split
  · refine ⟨?_, rfl, rfl⟩
    simp only [List.foldl]
    rw [State.slot_setSlot, if_neg (by omega), State.slot_setSlot, if_neg (by omega), State.slot_setSlot, if_neg (by omega)]
  · exact ⟨rfl, rfl, rfl⟩

theorem State.reserve_reserved {grand : Bool} (taken : s.reserve c k grand = some t) : Reserved s t c k := by
  unfold State.reserve at taken
  extract_lets x s1 idle s2 s3 kept s4 at taken
  obtain ⟨slot2, ctxs2, ports2⟩ := State.upperThreads_slot (k := k) (c := c) (w := s2) rfl
  have ctx2 (c' : CtxNo) : s2.ctx c' = s.ctx c' := State.ctx_of_ctxs (ctxs2.trans (State.clearSlotRegs_ctxs k))
  have reserved : Reserved s s4 c k := by
    refine ⟨⟨(s.ctx c).pages, ?_⟩, fun c' other => ⟨(s.ctx c').pages, ?_⟩, ?_, ports2.trans State.clearSlotRegs_ports⟩
    · change s3.ctx c = _
      rw [State.ctx_modCtx, if_pos rfl, ctx2]
    · change s3.ctx c' = _
      rw [State.ctx_modCtx, if_neg other, ctx2]
    · rw [State.slot_modSlot, if_pos rfl]
      change (s2.slot k).ctx = _
      rw [slot2, State.newSlot_taken]
      rfl
  split at taken
  · exact Option.some.inj taken ▸ reserved
  · exact (reserved.maps State.dropMirror_unmaps.1.toMapsOnly).maps (State.takePages_map _ taken).toMapsOnly

/-! ### A session copied (R47, R80) -/

/-- Of the contexts only the page maps, their roots and the sessions differ. -/
structure MapsAndSessions (s t : State) : Prop where
  fields : ∀ c, ∃ pages root ses, t.ctx c = { s.ctx c with pages := pages, mapRoot := root, ses := ses }
  ports : t.ports = s.ports

theorem MapsAndSessions.refl (s : State) : MapsAndSessions s s :=
  ⟨fun c => ⟨(s.ctx c).pages, (s.ctx c).mapRoot, (s.ctx c).ses, rfl⟩, rfl⟩

theorem MapsAndSessions.trans (a : MapsAndSessions s t) (b : MapsAndSessions t u) : MapsAndSessions s u := by
  refine ⟨fun c => ?_, b.ports.trans a.ports⟩
  obtain ⟨p, r, x, first⟩ := a.fields c
  obtain ⟨q, r', y, second⟩ := b.fields c
  exact ⟨q, r', y, by rw [second, first]⟩

theorem MapsOnly.sessions (m : MapsOnly s t) : MapsAndSessions s t := by
  refine ⟨fun c => ?_, m.ports⟩
  obtain ⟨p, is⟩ := m.maps c
  exact ⟨p, (s.ctx c).mapRoot, (s.ctx c).ses, is⟩

theorem MapsAndSessions.modCtx {g : Context → Context} (fields : ∀ x, ∃ p r y, g x = { x with pages := p, mapRoot := r, ses := y }) :
    MapsAndSessions s (s.modCtx c g) := by
  refine ⟨fun c' => ?_, rfl⟩
  rw [State.ctx_modCtx]
  split
  · next same => subst same; exact fields _
  · exact ⟨_, _, _, rfl⟩

theorem State.setRoot_sessions : MapsAndSessions s (s.setRoot c) := .modCtx fun _ => ⟨_, _, _, rfl⟩

theorem State.markDirty_maps {i : Nat} : MapsOnly s (s.markDirty c i) := by
  unfold State.markDirty
  dsimp only
  split
  · split
    · exact (MapsOnly.modCtx fun _ => ⟨_, rfl⟩).trans State.modFrame_unmaps.toMapsOnly
    · exact .refl s
  · exact .refl s

theorem State.writeLine_maps {e : StageLine} : MapsOnly s (s.writeLine c e) := by
  unfold State.writeLine
  dsimp only
  split
  · split
    · exact .refl s
    · refine MapsOnly.trans ?_ State.markDirty_maps
      exact MapsOnly.foldl (fun z (w : Nat × Word) => MapsOnly.of_eq (s := z) (t := z.setWord _ w.2) rfl rfl rfl) _ s
  · exact .refl s

theorem State.flushLines_sessions : MapsAndSessions s (s.flushLines c) := by
  unfold State.flushLines
  exact (MapsOnly.foldl (fun _ _ => State.writeLine_maps) _ s).sessions.trans (.modCtx fun _ => ⟨_, _, _, rfl⟩)

theorem State.sharePage_maps {i : Nat} : MapsOnly s (s.sharePage c n i) := by
  unfold State.sharePage
  dsimp only
  split
  · exact (MapsOnly.modCtx fun _ => ⟨_, rfl⟩).trans (State.modFrame_unmaps.toMapsOnly.trans State.setPage_maps)
  · exact .refl s

theorem State.copyPages_maps : MapsOnly s (s.copyPages c n) := by
  unfold State.copyPages
  refine MapsOnly.foldl (fun z i => ?_) _ s
  split
  · split
    · exact .of_eq rfl rfl rfl
    · exact .refl z
  · exact .refl z

theorem State.snapFill_sessions : MapsAndSessions s (s.snapFill c n) := by
  unfold State.snapFill
  have shared (z : State) : MapsOnly z (((z.ctx c).pageList.foldl (fun s i => s.sharePage c n i) z).copyPages c n) :=
    (MapsOnly.foldl (fun _ _ => State.sharePage_maps) _ z).trans State.copyPages_maps
  exact (State.flushLines_sessions.trans (shared _).sessions).trans (.modCtx fun _ => ⟨_, _, _, rfl⟩)

/-! ### The commands' checks -/

/-- A range the Curator reaches holds every shorter one. -/
theorem State.reachesAll_mono {die a m m' : Nat} (le : m ≤ m') (all : s.reachesAll die a m' = true) : s.reachesAll die a m = true := by
  rw [State.reachesAll, List.all_eq_true] at all ⊢
  intro i mem
  have within := all i (List.mem_range.mpr (Nat.lt_of_lt_of_le (List.mem_range.mp mem)
    (Nat.add_le_add_right (Nat.div_le_div_right le) 2)))
  simp only [Bool.or_eq_true, decide_eq_true_eq] at within ⊢
  exact within.imp_left (Nat.le_trans (Nat.add_le_add_left le a))

theorem State.manifestOk_mono {a m m' : Nat} (le : m ≤ m') (ok : s.manifestOk a m' = true) : s.manifestOk a m = true := by
  rw [State.manifestOk, Bool.and_eq_true] at ok ⊢
  exact ⟨ok.1, State.reachesAll_mono le ok.2⟩

theorem State.createAt_of {tm : List Nat} (free : (s.ctx c).state = .free) (title : s.titleReady (s.ctx c).title = true)
    (timing : startTiming (s.ctx c) = some tm) (pages : s.takePages c none (statePages (s.ctx c).profile) = some t) :
    s.createAt c = (0, (t.modCtx c (fun y => { y with
      state := .suspended, wakePending := false
      ses := some (Session.initial (s.ctx c).profile (s.ctx c).xmode (s.resetVector (s.ctx c).title) tm) })).setRoot c) := by
  unfold State.createAt
  simp only [free, ne_eq, not_true_eq_false, if_false, title, Bool.not_true, Bool.false_eq_true, timing, pages]

theorem State.admitAt_of (suspended : (s.ctx c).state = .suspended) (ok : s.admitCheck (s.ctx c) k = 0)
    (reserve : s.reserve c k (s.ctx c).grand = some t) : s.admitAt c k = (0, t) := by
  unfold State.admitAt
  simp only [suspended, ne_eq, not_true_eq_false, if_false, ok, reserve]

/-- A session that stands in memory is copied at the command's turn, another at its boundary (R47). -/
def State.snapNow (now : Prop) [Decidable now] (c n : CtxNo) (z : State) : State := if now then z.snapFill c n else z

theorem State.snapNow_sessions {now : Prop} [Decidable now] : MapsAndSessions s (s.snapNow now c n) := by
  unfold State.snapNow
  split
  · exact State.snapFill_sessions
  · exact .refl s

theorem State.snapAt_snapshot {p : Fin 4} (from_ : (s.ctx c).state = .running ∨ (s.ctx c).state = .suspended)
    (free : (s.ctx n).state = .free) (apart : n ≠ c)
    (pages : ((s.modPort p (fun q => { q with prior := some (s.ctx n) })).modCtx n ((s.ctx c).inherit ((s.ctx c).mirrorCopied false))).takePages
      n none ((s.ctx c).copiedPages ((s.ctx c).mirrorCopied false)) = some t) :
    s.snapAt p c n none = (0, (t.setRoot n).snapNow ((s.ctx c).state = .suspended ∧ (s.ses c).isSome) c n) := by
  have passes : ¬ (((s.ctx c).state ≠ .running ∧ (s.ctx c).state ≠ .suspended) ∨ (s.ctx n).state ≠ .free ∨ n = c) := by
    rintro (no | no | no)
    · exact from_.elim no.1 no.2
    · exact no free
    · exact apart no
  unfold State.snapAt
  simp only [if_neg passes, ne_eq, not_true_eq_false, if_false, Option.isSome_none, pages]
  rfl

theorem State.snapAt_fork {p : Fin 4} {t' : State} (from_ : (s.ctx c).state = .running ∨ (s.ctx c).state = .suspended)
    (free : (s.ctx n).state = .free) (apart : n ≠ c) (ok : s.admitCheck (s.ctx c) k = 0)
    (pages : ((s.modPort p (fun q => { q with prior := some (s.ctx n) })).modCtx n ((s.ctx c).inherit false)).takePages
      n none ((s.ctx c).copiedPages false) = some t) (reserve : (t.setRoot n).reserve n k (s.ctx c).grand = some t') :
    s.snapAt p c n (some k) = (0, t'.snapNow ((s.ctx c).state = .suspended ∧ (s.ses c).isSome) c n) := by
  have passes : ¬ (((s.ctx c).state ≠ .running ∧ (s.ctx c).state ≠ .suspended) ∨ (s.ctx n).state ≠ .free ∨ n = c) := by
    rintro (no | no | no)
    · exact from_.elim no.1 no.2
    · exact no free
    · exact apart no
  have mirror : (s.ctx c).mirrorCopied true = false := rfl
  unfold State.snapAt
  simp only [if_neg passes, ok, ne_eq, not_true_eq_false, if_false, Option.isSome_some, mirror, pages, reserve]
  rfl

/-- The context that a manifest at an address describes, and the session its pages hold (R48). -/
def State.manifestEntryAt (s : State) (c : CtxNo) (a : Nat) : Context :=
  (((s.ctx c).takeWord 0 (ofBytesBE (s.agentBytes s.curatorDie (a + 8 * 0) 8))).takeWord 2
    (ofBytesBE (s.agentBytes s.curatorDie (a + 8 * 2) 8))).takeWord 3 (ofBytesBE (s.agentBytes s.curatorDie (a + 8 * 3) 8))

theorem State.importAt_of {a : LoamAddr} (free : (s.ctx c).state = .free)
    (ok : s.manifestOk a.toNat (48 + 16 * (s.manifestPages a.toNat).length) = true)
    (title : s.titleReady (s.manifestEntryAt c a.toNat).title = true)
    (reached : ∀ e ∈ s.manifestPages a.toNat, s.reaches s.curatorDie e.2 = true) (good : s.importBad a.toNat = none)
    (pages : (s.setCtx c (s.manifestEntryAt c a.toNat)).importPages c (s.manifestPages a.toNat) = some t) :
    s.importAt c a = (0, (t.modCtx c (fun q => { q with
      state := .importing
      ses := some (if s.knownSessions.contains (s.sessionAt c (s.manifestPages a.toNat)) then s.sessionAt c (s.manifestPages a.toNat)
        else { s.sessionAt c (s.manifestPages a.toNat) with
          grand := (s.manifestEntryAt c a.toNat).profile, fast := (s.manifestEntryAt c a.toNat).xmode }) })).setRoot c) := by
  have short : s.manifestOk a.toNat 48 = true := State.manifestOk_mono (Nat.le_add_right ..) ok
  have all : (s.manifestPages a.toNat).all (fun e => s.reaches s.curatorDie e.2) = true := List.all_eq_true.mpr reached
  unfold State.manifestEntryAt at title pages
  unfold State.importAt
  simp only [free, ne_eq, not_true_eq_false, if_false, short, Bool.not_true, Bool.false_eq_true, title, ok, all, Bool.and_self, good,
    Option.isSome_none, Bool.or_self, pages]
  rfl

/-- An IMPORT that passes its checks meets no persistent read. -/
theorem State.importFail_of {a : Nat} (taken : (s.ctx c).state ≠ .free) : s.importFail c a = s := by
  rw [State.importFail, if_neg taken]

/-- The new context of a SNAPSHOT or FORK as its frames are taken: its fields come from the source, which stays. -/
theorem State.inherits_of {p : Fin 4} {f : Port → Port} {m : Bool} (apart : n ≠ c)
    (maps : MapsAndSessions ((s.modPort p f).modCtx n ((s.ctx c).inherit m)) t) :
    (∀ q, q ≠ p → t.ports[q.val] = s.ports[q.val]) ∧
      (∃ pages root ses, t.ctx n = { (s.ctx c).inherit m (s.ctx n) with pages := pages, mapRoot := root, ses := ses }) ∧
      ∃ pages root ses, t.ctx c = { s.ctx c with pages := pages, mapRoot := root, ses := ses } := by
  have new : ((s.modPort p f).modCtx n ((s.ctx c).inherit m)).ctx n = (s.ctx c).inherit m (s.ctx n) :=
    (State.ctx_modCtx ..).trans (if_pos rfl)
  have old : ((s.modPort p f).modCtx n ((s.ctx c).inherit m)).ctx c = s.ctx c :=
    (State.ctx_modCtx ..).trans (if_neg apart.symm)
  refine ⟨fun q other => ?_, ?_, ?_⟩
  · rw [maps.ports]
    exact State.modPort_other other
  · rw [← new]
    exact maps.fields n
  · have source := maps.fields c
    rwa [old] at source

end

/-- Settles O28: what each command's frames and slot leave is a page map, and its port's OP write is the last step. -/
theorem contextCommandsTake : Obligations.ContextCommandsTake := by
  unfold Obligations.ContextCommandsTake
  intro p c s port
  refine ⟨fun tm s1 free title timing pages => ?_, fun k s1 suspended ok reserve => ?_, fun n s1 source free apart pages => ?_,
    fun n k s1 s2 source free apart ok pages reserve => ?_, ?_⟩
  · have maps := State.takePages_map _ pages
    have is : exec (.create p c) s = .next (s.command p c [] 1 (s.createAt c)) := rfl
    rw [State.createAt_of free title timing pages, State.command_taken port] at is
    refine ⟨_, is, State.beginCommand_taken fun q _ => congrArg (·[q.val]) maps.ports, ?_, fun c' other => ?_, ?_⟩
    · rw [State.beginCommand_ctx, State.setRoot, State.ctx_modCtx, if_pos rfl, State.ctx_modCtx, if_pos rfl]
    · rw [State.beginCommand_ctx, State.setRoot, State.ctx_modCtx, if_neg other, State.ctx_modCtx, if_neg other]
      exact maps.others c' other
    · rw [State.ses, State.beginCommand_ctx, State.setRoot, State.ctx_modCtx, if_pos rfl, State.ctx_modCtx, if_pos rfl]
  · have reserved := State.reserve_reserved reserve
    obtain ⟨q, entry⟩ := reserved.entry
    have is : exec (.admitCtx p c k) s = .next (s.command p c [k.setWidth 32] 2 (s.admitAt c k.toNat)) := rfl
    rw [State.admitAt_of suspended ok reserve, State.command_taken port] at is
    refine ⟨_, is, State.beginCommand_taken fun q _ => congrArg (·[q.val]) reserved.ports, ?_, ?_, ?_, reserved.slot, fun c' other => ?_⟩
    · rw [State.beginCommand_ctx, entry]
    · rw [State.beginCommand_ctx, entry]
      exact BitVec.ofNat_toNat ..
    · rw [State.beginCommand_ctx, entry]
      exact BitVec.toNat_ofNat ..
    · obtain ⟨q', same⟩ := reserved.others c' other
      rw [State.beginCommand_ctx, same]
  · have maps := (State.takePages_map _ pages).toMapsOnly.sessions.trans (State.setRoot_sessions (c := n))
    have is : exec (.snapshot p c n) s = .next (s.command p c [n.setWidth 32] 4 (s.snapAt p c n none)) := rfl
    rw [State.snapAt_snapshot source free apart pages, State.command_taken port] at is
    obtain ⟨ports, ⟨pg, root, y, new⟩, ⟨pg', root', y', old⟩⟩ := State.inherits_of apart (maps.trans
      (State.snapNow_sessions (c := c) (n := n) (now := (s.ctx c).state = .suspended ∧ (s.ses c).isSome)))
    refine ⟨_, is, State.beginCommand_taken ports, ?_⟩
    rw [State.beginCommand_ctx, State.beginCommand_ctx, new, old]
    exact ⟨rfl, rfl, rfl, rfl, rfl, by simp [Context.inherit, Context.mirrorCopied], rfl⟩
  · have maps := (State.takePages_map _ pages).toMapsOnly.sessions.trans (State.setRoot_sessions (c := n))
    have reserved := State.reserve_reserved reserve
    have is : exec (.fork p c n k) s = .next (s.command p c [n.setWidth 32, k.setWidth 32] 5 (s.snapAt p c n (some k.toNat))) := rfl
    rw [State.snapAt_fork source free apart ok pages reserve, State.command_taken port] at is
    obtain ⟨ports, ⟨pg, root, y, new⟩, ⟨pg', root', y', old⟩⟩ := State.inherits_of apart maps
    have done := State.snapNow_sessions (s := s2) (c := c) (n := n) (now := (s.ctx c).state = .suspended ∧ (s.ses c).isSome)
    obtain ⟨qn, rn, zn, entry⟩ := done.fields n
    obtain ⟨qc, rc, zc, kept⟩ := done.fields c
    obtain ⟨pn, taken⟩ := reserved.entry
    obtain ⟨pc, left⟩ := reserved.others c apart.symm
    refine ⟨_, is, State.beginCommand_taken fun q other => ?_, ?_⟩
    · rw [done.ports, reserved.ports]
      exact ports q other
    · rw [State.beginCommand_ctx, State.beginCommand_ctx, entry, kept, taken, left, new, old]
      exact ⟨rfl, BitVec.ofNat_toNat .., rfl, rfl, rfl, rfl⟩
  · intro a s1 w x pages y free ok title reached good imported
    have is : exec (.importCtx p c a) s = .next (let t := s.command p c (manifestArgs a) 8 (s.importAt c a)
      if s.portFree p && s.manifestOk a.toNat 48 then t.importFail c a.toNat else t) := rfl
    have maps := State.importPages_map _ imported
    rw [State.importAt_of free ok title reached good imported, State.command_taken port] at is
    dsimp only at is
    rw [State.importFail_of (by rw [State.beginCommand_ctx, State.setRoot, State.ctx_modCtx, if_pos rfl, State.ctx_modCtx, if_pos rfl]; exact nofun),
      ite_self] at is
    obtain ⟨pg, entry⟩ := maps.maps c
    rw [State.ctx_setCtx, if_pos rfl] at entry
    refine ⟨_, is, State.beginCommand_taken fun q _ => congrArg (·[q.val]) maps.ports, ?_, fun c' other => ?_, ?_⟩
    · rw [State.beginCommand_ctx, State.setRoot, State.ctx_modCtx, if_pos rfl, State.ctx_modCtx, if_pos rfl]
    · rw [State.beginCommand_ctx, State.setRoot, State.ctx_modCtx, if_neg other, State.ctx_modCtx, if_neg other, maps.others c' other,
        State.ctx_setCtx, if_neg other]
    · rw [State.ses, State.beginCommand_ctx, State.setRoot, State.ctx_modCtx, if_pos rfl, State.ctx_modCtx, if_pos rfl, entry]
      exact ⟨rfl, rfl, rfl, rfl⟩

end Sys2Proof.Machine

/-! ## The Beam Scheduler's commands (R101, R103, R107 to R110, R371) -/
namespace Sys2Proof.Machine
open Sys2Proof Sys2Proof.Claims

/-! ### Registers by address -/

section
variable {s : State} {a b v n : Nat}

theorem State.regN_setReg : (s.setReg a v).regN b = if canonReg b = canonReg a then v % 2 ^ 32 else s.regN b := by
  rw [State.regN, State.reg_setReg]
  split
  · exact BitVec.toNat_ofNat ..
  · rfl

theorem State.regN_setReg_of_ne (apart : canonReg b ≠ canonReg a) : (s.setReg a v).regN b = s.regN b :=
  State.regN_setReg.trans (if_neg apart)

theorem State.regN_lt : s.regN a < 2 ^ 32 := (s.reg a).isLt

/-- Of a state at most registers held by address differ. -/
def RegsOnly (s t : State) : Prop := t = { s with regs := t.regs }

theorem RegsOnly.setReg (s : State) (a v : Nat) : RegsOnly s (s.setReg a v) := rfl

theorem RegsOnly.trans {s t u : State} (a : RegsOnly s t) (b : RegsOnly t u) : RegsOnly s u := by
  unfold RegsOnly at a b ⊢
  rw [b, a]

/-- Above the windows that both Raster dies show an address is its own canonical one. -/
theorem canonReg_of_ge (above : 0x008001400800 ≤ a) : canonReg a = a := by
  rw [canonReg, if_neg (by omega), if_neg (by omega)]

/-- A register of a schedule block. -/
@[simp] theorem canonReg_schAddr (k o : Nat) : canonReg (schAddr k o) = schAddr k o :=
  canonReg_of_ge (Nat.le_trans (by decide) (Nat.le_trans (Nat.le_add_right schBase (64 * k)) (Nat.le_add_right ..)))

@[simp] theorem schAddr_inj {k o o' : Nat} : schAddr k o = schAddr k o' ↔ o = o' := Nat.add_left_cancel_iff

@[simp] theorem State.slot_setReg {k : Nat} : (s.setReg a v).slot k = s.slot k := rfl

/-! ### Level sources -/

theorem State.dicPend_level : (s.dicPend n).dic.level = s.dic.level := by
  unfold State.dicPend
  split
  · rfl
  · dsimp only
    split <;> rfl

theorem State.dicSettle_dic : s.dicSettle.dic = s.dic := by
  obtain ⟨k, is⟩ := s.dicSettle_rest
  rw [is]

/-- A level source's level is as set, and only the interrupt controller and the Keepers' lines from it change (R372). -/
theorem State.setLevel_level (m : Nat) (on : Bool) (in_ : m < 512) : (s.setLevel m on).dic.level.getLsbD m = on ∧
    s.setLevel m on = { s with dic := (s.setLevel m on).dic, keepers := (s.setLevel m on).keepers } := by
  have bit : (if on then s.dic.level ||| (1#512 <<< m) else s.dic.level &&& ~~~(1#512 <<< m)).getLsbD m = on := by
    cases on <;> simp [in_]
  have settle (z : State) : z.dicSettle.dic = z.dic ∧
      z.dicSettle = { z with keepers := z.dicSettle.keepers } := by
    obtain ⟨k, is⟩ := z.dicSettle_rest
    rw [is]
    exact ⟨rfl, rfl⟩
  unfold State.setLevel
  dsimp only
  split
  · exact ⟨bit, rfl⟩
  · split
    · next up =>
      refine ⟨?_, ?_⟩
      · rw [State.dicSettle_dic, State.dicPend_level]
        simpa [in_] using up.symm
      · rw [(settle _).2, State.dicPend_rest]
    · next down =>
      refine ⟨?_, ?_⟩
      · rw [State.dicSettle_dic]
        simpa [in_] using down
      · rw [(settle _).2]

end

/-! ### Placement (R107) -/

/-- The placement of the slots still to be tried, after an answer. -/
def State.placeFrom (s : State) (x : Context) (r : Nat × Nat) (l : List Nat) : Nat × Nat :=
  l.foldl (fun (r : Nat × Nat) k => if r.1 = 0 then r else let q := s.admitCheck x k; (q, if q = 0 then k else 0)) r

section
variable {s : State} {x : Context} {l : List Nat} {k m : Nat}

theorem State.placeFrom_found : s.placeFrom x (0, m) l = (0, m) := by
  induction l with
  | nil => rfl
  | cons j l ih => exact ih

/-- While slots fail their checks a query has found none. -/
theorem State.placeFrom_failing (fail : ∀ j ∈ l, s.admitCheck x j ≠ 0) : ∀ {r}, r ≠ 0 → ∃ r', r' ≠ 0 ∧ s.placeFrom x (r, 0) l = (r', 0) := by
  induction l with
  | nil => exact fun {r} no => ⟨r, no, rfl⟩
  | cons j l ih =>
    intro r no
    have first := fail j List.mem_cons_self
    have step : s.placeFrom x (r, 0) (j :: l) = s.placeFrom x (s.admitCheck x j, 0) l := by
      rw [State.placeFrom, List.foldl_cons, if_neg no]
      dsimp only
      rw [if_neg first]
      rfl
    rw [step]
    exact ih (fun i mem => fail i (List.mem_cons_of_mem _ mem)) first

theorem State.placeFrom_append {r : Nat × Nat} {l' : List Nat} : s.placeFrom x r (l ++ l') = s.placeFrom x (s.placeFrom x r l) l' :=
  List.foldl_append

theorem State.placeFrom_one {r : Nat} (no : r ≠ 0) :
    s.placeFrom x (r, 0) [k] = (s.admitCheck x k, if s.admitCheck x k = 0 then k else 0) := by
  rw [State.placeFrom, List.foldl_cons, if_neg no]
  rfl

/-- The first slot that passes answers a query. -/
theorem State.place_found {r : List Nat} (slots : s.candidates x.grand = l ++ k :: r) (ok : s.admitCheck x k = 0)
    (fail : ∀ j ∈ l, s.admitCheck x j ≠ 0) : s.place x = (0, k) := by
  have all : s.place x = s.placeFrom x (6, 0) (l ++ ([k] ++ r)) := congrArg (s.placeFrom x (6, 0)) slots
  obtain ⟨r', no, is⟩ := State.placeFrom_failing fail (r := 6) (by decide)
  rw [all, State.placeFrom_append, is, State.placeFrom_append, State.placeFrom_one no, ok, if_pos rfl]
  exact State.placeFrom_found

/-- Where none passes the last slot's RESULT answers it. -/
theorem State.place_none (slots : s.candidates x.grand = l ++ [k]) (fail : ∀ j ∈ l ++ [k], s.admitCheck x j ≠ 0) :
    s.place x = (s.admitCheck x k, 0) := by
  have all : s.place x = s.placeFrom x (6, 0) (l ++ [k]) := congrArg (s.placeFrom x (6, 0)) slots
  obtain ⟨r', no, is⟩ := State.placeFrom_failing (fun j mem => fail j (List.mem_append_left _ mem)) (r := 6) (by decide)
  rw [all, State.placeFrom_append, is, State.placeFrom_one no,
    if_neg (fail k (List.mem_append_right _ (List.mem_singleton.mpr rfl)))]

/-- A RESULT is one of R39's. -/
theorem State.admitCheck_lt : s.admitCheck x k < 8 := by
  unfold State.admitCheck
  dsimp only
  split
  · decide
  split
  · decide
  split
  · decide
  split
  · decide
  split <;> decide

end

theorem placementRule_kept : placementRule := by
  unfold placementRule
  intro c s up
  have is : exec (.placementQuery c) s = .next (s.placeQuery c) := congrArg Host.Outcome.next (if_pos up)
  have answer : (s.placeQuery c).regN (bscBase + 0x124) = ((s.place (s.ctx c)).1 * 2 ^ 16 + (s.place (s.ctx c)).2) % 2 ^ 32 :=
    State.regN_setReg.trans (if_pos rfl)
  refine ⟨_, is, rfl, fun l k r slots ok fail small => ?_, fun l k slots fail => ?_⟩
  · rw [answer, State.place_found slots ok fail]
    dsimp only
    omega
  · have := State.admitCheck_lt (s := s) (x := s.ctx c) (k := k)
    rw [answer, State.place_none slots fail]
    dsimp only
    omega

/-! ### Books, records, PERIOD and PHASE (R101, R103, R108, R110, R371) -/

section
variable {s : State}

/-- A 64-bit number latched as two words of a book. -/
def State.putBook (d i n : Nat) (s : State) : State :=
  (s.setReg (bookAddr d i) (n % 2 ^ 32)).setReg (bookAddr d i + 4) (n / 2 ^ 32)

theorem canonReg_bookAddr {d i o : Nat} (die : d < 2) (at_ : i < 6) (in_ : o < 8) : canonReg (bookAddr d i + o) = bookAddr d i + o := by
  rw [bookAddr, bscBase, canonReg, if_neg (by omega), if_neg (by omega)]

/-- A book's number reads as it was latched. -/
theorem book_putBook {d e i j n : Nat} (hd : d < 2) (he : e < 2) (hi : i < 6) (hj : j < 6) :
    book (s.putBook d i n) e j = if d = e ∧ i = j then n % 2 ^ 64 else book s e j := by
  have low := canonReg_bookAddr (o := 0) hd hi (by omega)
  have low' := canonReg_bookAddr (o := 0) he hj (by omega)
  simp only [book, State.putBook, State.regN_setReg, canonReg_bookAddr (o := 4) hd hi (by omega),
    canonReg_bookAddr (o := 4) he hj (by omega), low, low', Nat.add_zero] at low low' ⊢
  by_cases same : d = e ∧ i = j
  · obtain ⟨rfl, rfl⟩ := same
    have apart : bookAddr d i ≠ bookAddr d i + 4 := by omega
    simp only [if_neg apart, and_self, if_true]
    omega
  · have apart : bookAddr e j ≠ bookAddr d i ∧ bookAddr e j ≠ bookAddr d i + 4 ∧ bookAddr e j + 4 ≠ bookAddr d i ∧
        bookAddr e j + 4 ≠ bookAddr d i + 4 := by
      unfold bookAddr
      omega
    obtain ⟨a, b, c, f⟩ := apart
    rw [if_neg same, if_neg b, if_neg a, if_neg f, if_neg c]

theorem State.snapBooks_eq (d : Nat) : s.snapBooks d =
    let v := fun i => s.cnt (bookAddr d i)
    ((((((s.putBook d 0 (max (v 0) (v 1 + v 2))).putBook d 1 (v 1)).putBook d 2 (v 2)).putBook d 3
      (max (v 0) (v 1 + v 2) - v 1 - v 2)).putBook d 4 (v 4)).putBook d 5 (v 5)) := rfl

/-- The books of a die as BSC_BOOK_SNAP latches them (R101). -/
theorem book_snapBooks {d : Nat} (hd : d < 2) : 
    (∀ i ∈ [1, 2, 4, 5], book (s.snapBooks d) d i = s.cnt (bookAddr d i)) ∧
      book (s.snapBooks d) d 0 = max (s.cnt (bookAddr d 0)) (s.cnt (bookAddr d 1) + s.cnt (bookAddr d 2)) % 2 ^ 64 ∧
      book (s.snapBooks d) d 3 = (max (s.cnt (bookAddr d 0)) (s.cnt (bookAddr d 1) + s.cnt (bookAddr d 2)) -
        s.cnt (bookAddr d 1) - s.cnt (bookAddr d 2)) % 2 ^ 64 := by
  have small (i : Nat) : s.cnt (bookAddr d i) < 18446744073709551616 := s.cnt_lt (bookAddr d i)
  rw [State.snapBooks_eq]
  refine ⟨fun i mem => ?_, ?_, ?_⟩
  · simp only [List.mem_cons, List.not_mem_nil, or_false] at mem
    rcases mem with rfl | rfl | rfl | rfl <;> simp [book_putBook, hd, small]
  · simp [book_putBook, hd]
  · simp [book_putBook, hd]

/-- Latching the books of one die leaves those of the other, and the counts. -/
theorem book_snapBooks_other {d e i : Nat} (hd : d < 2) (he : e < 2) (hi : i < 6) (apart : d ≠ e) :
    book (s.snapBooks d) e i = book s e i := by
  rw [State.snapBooks_eq]
  simp [book_putBook, hd, he, hi, apart]

theorem State.putBook_regsOnly (d i n : Nat) : RegsOnly s (s.putBook d i n) := (RegsOnly.setReg ..).trans (RegsOnly.setReg ..)

theorem State.snapBooks_regsOnly (d : Nat) : RegsOnly s (s.snapBooks d) := by
  rw [State.snapBooks_eq]
  exact (((((State.putBook_regsOnly ..).trans (State.putBook_regsOnly ..)).trans (State.putBook_regsOnly ..)).trans
    (State.putBook_regsOnly ..)).trans (State.putBook_regsOnly ..)).trans (State.putBook_regsOnly ..)

theorem State.cnt_snapBooks (d a : Nat) : (s.snapBooks d).cnt a = s.cnt a := by
  rw [State.cnt, State.snapBooks_regsOnly d]
  rfl

theorem book_bookSnap {d : Nat} (hd : d < 2) :
    (∀ i ∈ [1, 2, 4, 5], book ((s.snapBooks 0).snapBooks 1) d i = s.cnt (bookAddr d i)) ∧
      book ((s.snapBooks 0).snapBooks 1) d 0 = max (s.cnt (bookAddr d 0)) (s.cnt (bookAddr d 1) + s.cnt (bookAddr d 2)) % 2 ^ 64 ∧
      book ((s.snapBooks 0).snapBooks 1) d 3 = (max (s.cnt (bookAddr d 0)) (s.cnt (bookAddr d 1) + s.cnt (bookAddr d 2)) -
        s.cnt (bookAddr d 1) - s.cnt (bookAddr d 2)) % 2 ^ 64 := by
  obtain rfl | rfl : d = 0 ∨ d = 1 := by omega
  · have other {i : Nat} (hi : i < 6) := book_snapBooks_other (s := s.snapBooks 0) (d := 1) (e := 0) (by omega) hd hi (by omega)
    obtain ⟨counts, clocks, idle⟩ := book_snapBooks (s := s) hd
    refine ⟨fun i mem => (other ?_).trans (counts i mem), (other (by omega)).trans clocks, (other (by omega)).trans idle⟩
    simp only [List.mem_cons, List.not_mem_nil, or_false] at mem
    omega
  · have latched := book_snapBooks (s := s.snapBooks 0) hd
    simp only [State.cnt_snapBooks] at latched
    exact latched

theorem State.bookSnap_kept (up : s.portsUp = true) :
    ∃ t, exec .bscBookSnap s = .next t ∧ t = { s with regs := t.regs } ∧ ∀ d, d < 2 →
      (∀ i ∈ [1, 2, 4, 5], book t d i = s.cnt (bookAddr d i)) ∧
      (max (s.cnt (bookAddr d 0)) (s.cnt (bookAddr d 1) + s.cnt (bookAddr d 2)) < 2 ^ 64 →
        book t d 0 = book t d 1 + book t d 2 + book t d 3) := by
  refine ⟨(s.snapBooks 0).snapBooks 1, congrArg Host.Outcome.next (if_pos up),
    (State.snapBooks_regsOnly 0).trans (State.snapBooks_regsOnly 1), fun d hd => ?_⟩
  obtain ⟨counts, clocks, idle⟩ := book_bookSnap (s := s) hd
  refine ⟨counts, fun fits => ?_⟩
  rw [clocks, idle, counts 1 (by decide), counts 2 (by decide)]
  generalize s.cnt (bookAddr d 0) = x at fits ⊢
  generalize s.cnt (bookAddr d 1) = y at fits ⊢
  generalize s.cnt (bookAddr d 2) = z at fits ⊢
  omega

/-- A record that leaves its FIFO sets its source's level to what is left (R103, R371). -/
theorem State.slipRead_some {d : Fin 2} {v : Reg32} {l : List Reg32} (is : s.slipFifo[d.val] = v :: l) :
    ∃ t, s.slipRead d = t ∧
      t = { s with slipFifo := s.slipFifo.set d.val l, answer := v.setWidth 64, dic := t.dic, keepers := t.keepers } ∧
      t.dic.level.getLsbD (5 + d.val) = !l.isEmpty := by
  obtain ⟨bit, rest⟩ := State.setLevel_level (s := { s with slipFifo := s.slipFifo.set d.val l }) (5 + d.val) (!l.isEmpty) (by omega)
  refine ⟨_, rfl, ?_⟩
  unfold State.slipRead
  rw [is]
  dsimp only [State.reply]
  rw [BitVec.ofNat_toNat]
  refine ⟨?_, bit⟩
  conv_lhs => rw [rest]

theorem State.haltRead_some {d : Fin 2} {v : Reg32} {l : List Reg32} (is : s.haltFifo[d.val] = v :: l) :
    ∃ t, s.haltRead d = t ∧
      t = { s with haltFifo := s.haltFifo.set d.val l, answer := v.setWidth 64, dic := t.dic, keepers := t.keepers } ∧
      t.dic.level.getLsbD (7 + d.val) = !l.isEmpty := by
  obtain ⟨bit, rest⟩ := State.setLevel_level (s := { s with haltFifo := s.haltFifo.set d.val l }) (7 + d.val) (!l.isEmpty) (by omega)
  refine ⟨_, rfl, ?_⟩
  unfold State.haltRead
  rw [is]
  dsimp only [State.reply]
  rw [BitVec.ofNat_toNat]
  refine ⟨?_, bit⟩
  conv_lhs => rw [rest]

/-- A PERIOD pair put in force (R108). -/
def State.putPeriod (k l h : Nat) (s : State) : State := (s.setReg (schAddr k 0x11) l).setReg (schAddr k 0x14) h

theorem State.periodReg_putPeriod {k l h : Nat} (low : l < 2 ^ 32) (high : h < 2 ^ 12) :
    (s.putPeriod k l h).periodReg k = l + 2 ^ 32 * h := by
  have small : h < 2 ^ 32 := Nat.lt_trans high (by decide)
  simp only [State.periodReg, State.putPeriod, State.regN_setReg, canonReg_schAddr, schAddr_inj, Nat.reduceEqDiff, if_false, if_true,
    Nat.mod_eq_of_lt low, Nat.mod_eq_of_lt small]

theorem State.periodReg_modSlot {j k : Nat} {g : SlotSt → SlotSt} : (s.modSlot j g).periodReg k = s.periodReg k := rfl

/-- The PERIOD_H write of a held slot (R108, R109) commits the pair, -/
theorem State.periodCommit_good {k h p : Nat} (held : s.slotHeld k = true) (pair : s.regN (schAddr k 0x10) + 2 ^ 32 * h = p)
    (pos : p ≠ 0) (least : (s.ctx (s.slotCtx k)).periodFx.toNat ≤ p) :
    s.periodCommit k h = (s.putPeriod k (s.regN (schAddr k 0x10)) h).modSlot k (fun x => { x with periodPend := some p }) := by
  unfold State.periodCommit
  dsimp only
  rw [pair, if_pos held, if_neg (not_or.mpr ⟨pos, Nat.not_lt.mpr least⟩)]
  rfl

/-- or sets the low half back. -/
theorem State.periodCommit_bad {k h p : Nat} (held : s.slotHeld k = true) (pair : s.regN (schAddr k 0x10) + 2 ^ 32 * h = p)
    (bad : p = 0 ∨ p < (s.ctx (s.slotCtx k)).periodFx.toNat) :
    s.periodCommit k h = s.setReg (schAddr k 0x10) (s.regN (schAddr k 0x11)) := by
  unfold State.periodCommit
  dsimp only
  rw [pair, if_pos held, if_pos bad]

theorem State.periodCommit_free {k h : Nat} (free : s.slotHeld k = false) :
    s.periodCommit k h = s.putPeriod k (s.regN (schAddr k 0x10)) h := by
  unfold State.periodCommit
  dsimp only
  rw [if_neg (by rw [free]; exact Bool.false_ne_true)]
  rfl

theorem State.periodCommit_kept {k h p least : Nat} (held : s.slotHeld k = true) (high : h < 2 ^ 12)
    (pair : s.regN (schAddr k 0x10) + 2 ^ 32 * h = p) (of : (s.ctx (s.slotCtx k)).periodFx.toNat = least) :
    s.periodCommit k h = { s with regs := (s.periodCommit k h).regs, slots := (s.periodCommit k h).slots } ∧
      (∀ j, j ≠ k → (s.periodCommit k h).slot j = s.slot j) ∧
      (p ≠ 0 → least ≤ p → (s.periodCommit k h).slot k = { s.slot k with periodPend := some p } ∧
        (s.periodCommit k h).periodReg k = p) ∧
      (p = 0 ∨ p < least → (s.periodCommit k h).slots = s.slots ∧ (s.periodCommit k h).periodReg k = s.periodReg k ∧
        (s.periodCommit k h).regN (schAddr k 0x10) = s.regN (schAddr k 0x11)) := by
  by_cases bad : p = 0 ∨ p < least
  · rw [State.periodCommit_bad held pair (of ▸ bad)]
    refine ⟨rfl, fun _ _ => rfl, fun pos most => absurd bad (by omega), fun _ => ⟨rfl, ?_, ?_⟩⟩
    · simp [State.periodReg, State.regN_setReg]
    · rw [State.regN_setReg, if_pos rfl, Nat.mod_eq_of_lt State.regN_lt]
  · obtain ⟨pos, most⟩ := not_or.mp bad
    rw [State.periodCommit_good held pair pos (of ▸ Nat.not_lt.mp most)]
    refine ⟨rfl, fun j other => ?_, fun _ _ => ⟨?_, ?_⟩, fun is => absurd is bad⟩
    · rw [State.slot_modSlot, if_neg other]
      rfl
    · rw [State.slot_modSlot, if_pos rfl]
      rfl
    · rw [State.periodReg_modSlot, State.periodReg_putPeriod State.regN_lt high, pair]

theorem State.phaseWrite_held {k : Nat} {adj : Reg32} (held : s.slotHeld k = true) :
    s.phaseWrite k adj = (s.setReg (schAddr k 0x1C) adj.toNat).modSlot k (fun x => { x with phasePend := some adj }) := by
  rw [State.phaseWrite, if_pos held]

theorem State.phaseWrite_free {k : Nat} {adj : Reg32} (free : s.slotHeld k = false) : s.phaseWrite k adj = s := by
  rw [State.phaseWrite, if_neg (by rw [free]; exact Bool.false_ne_true)]

end

theorem scheduleRule_kept : scheduleRule := by
  unfold scheduleRule
  intro s
  refine ⟨fun up => ⟨State.bookSnap_kept up, fun d => ⟨fun v l is => ?_, fun is => ?_, fun v l is => ?_, fun is => ?_⟩⟩,
    fun hub k h held => ?_, fun hub k h free => ?_, fun hub k adj => ⟨fun held => ?_, fun free => ?_⟩⟩
  · obtain ⟨t, run, same⟩ := State.slipRead_some is
    exact ⟨t, (congrArg Host.Outcome.next (if_pos up)).trans (congrArg _ run), same⟩
  · refine (congrArg Host.Outcome.next (if_pos up)).trans (congrArg _ ?_)
    rw [State.slipRead, is]
    rfl
  · obtain ⟨t, run, same⟩ := State.haltRead_some is
    exact ⟨t, (congrArg Host.Outcome.next (if_pos up)).trans (congrArg _ run), same⟩
  · refine (congrArg Host.Outcome.next (if_pos up)).trans (congrArg _ ?_)
    rw [State.haltRead, is]
    rfl
  · exact ⟨s.periodCommit k.toNat h.toNat, congrArg Host.Outcome.next (if_pos hub),
      State.periodCommit_kept held h.isLt rfl rfl⟩
  · refine ⟨s.periodCommit k.toNat h.toNat, congrArg Host.Outcome.next (if_pos hub), ?_⟩
    rw [State.periodCommit_free free]
    exact ⟨rfl, State.periodReg_putPeriod State.regN_lt h.isLt⟩
  · refine ⟨s.phaseWrite k.toNat adj, congrArg Host.Outcome.next (if_pos hub), ?_⟩
    rw [State.phaseWrite_held held]
    refine ⟨rfl, ?_, ?_, fun j other => ?_⟩
    · rw [State.slot_modSlot, if_pos rfl]
      rfl
    · change (s.setReg (schAddr k.toNat 0x1C) adj.toNat).reg (schAddr k.toNat 0x1C) = adj
      rw [State.reg_setReg, if_pos rfl, BitVec.ofNat_toNat, BitVec.setWidth_eq]
    · rw [State.slot_modSlot, if_neg other]
      rfl
  · refine (congrArg Host.Outcome.next (if_pos hub)).trans ?_
    rw [State.phaseWrite_free free]

/-- Settles O32: the first slot that passes answers a query, and the schedule's commands set the registers they name. -/
theorem scheduleCommands : Obligations.ScheduleCommands := ⟨placementRule_kept, scheduleRule_kept⟩

end Sys2Proof.Machine

/-! ## The horizon, a band boundary and a deadline (R43, R44, R91 to R94, R102 to R105) -/
namespace Sys2Proof.Machine
open Sys2Proof Sys2Proof.Claims

section
variable {s t u : State} {c : CtxNo} {k h f b vtotal : Nat}

/-! ### Frames fixed as they are needed (R92, R104) -/

/-- A slot's frames are fixed: of the state only registers and the slot's schedule differ. -/
structure Fixes (k : Nat) (s t : State) : Prop where
  rest : t = { s with regs := t.regs, slots := t.slots }
  others : ∀ j, j ≠ k → t.slot j = s.slot j
  own : ∃ l p q a, t.slot k = { s.slot k with sched := l, period := p, periodPend := q, phasePend := a }

theorem Fixes.refl (s : State) : Fixes k s s := ⟨rfl, fun _ _ => rfl, _, _, _, _, rfl⟩

theorem Fixes.trans (a : Fixes k s t) (b : Fixes k t u) : Fixes k s u := by
  refine ⟨?_, fun j other => (b.others j other).trans (a.others j other), ?_⟩
  · rw [b.rest, a.rest]
  · obtain ⟨l, p, q, x, first⟩ := a.own
    obtain ⟨l', p', q', x', second⟩ := b.own
    exact ⟨l', p', q', x', by rw [second, first]⟩

theorem Fixes.setReg {a v : Nat} (fixes : Fixes k s t) : Fixes k s (t.setReg a v) :=
  fixes.trans ⟨rfl, fun _ _ => rfl, _, _, _, _, rfl⟩

theorem Fixes.of_ite {p : Prop} [Decidable p] (yes : Fixes k s t) (no : Fixes k s u) : Fixes k s (if p then t else u) := by
  split
  · exact yes
  · exact no

/-- The slot itself may then be changed. -/
theorem Fixes.modSlot {g : SlotSt → SlotSt} (fixes : Fixes k s t) :
    t.modSlot k g = { s with regs := (t.modSlot k g).regs, slots := (t.modSlot k g).slots } := by
  have same : t.modSlot k g = { t with slots := (t.modSlot k g).slots } := rfl
  rw [same]
  dsimp only
  conv_lhs => rw [fixes.rest]
  rfl

theorem State.fixNext_fixes : Fixes k s (s.fixNext k h vtotal) := by
  unfold State.fixNext
  dsimp only
  cases (s.slot k).lastSched with
  | none => exact .refl s
  | some e =>
    dsimp only
    have first (x : SlotSt) (own : ∃ l p q a, x = { s.slot k with sched := l, period := p, periodPend := q, phasePend := a }) :
        Fixes k s (s.setSlot k x) := by
      refine ⟨rfl, fun j other => ?_, ?_⟩
      · rw [State.slot_setSlot, if_neg other]
      · rw [State.slot_setSlot, if_pos rfl]
        exact own
    have phase {x : SlotSt} {p : Prop} [Decidable p] {a v : Nat} (put : Fixes k s (s.setSlot k x)) :
        Fixes k s (if p then (s.setSlot k x).setReg a v else s.setSlot k x) := .of_ite put.setReg put
    refine .of_ite (Fixes.setReg (phase ?_)) (phase ?_)
    · exact first _ ⟨_, _, _, _, rfl⟩
    · exact first _ ⟨_, _, _, _, rfl⟩

theorem State.fixTo_fixes (n : Nat) : ∀ s : State, Fixes k s (s.fixTo k h vtotal f n) := by
  induction n with
  | zero => exact .refl
  | succ n ih =>
    intro s
    unfold State.fixTo
    split
    · exact .of_ite (State.fixNext_fixes.trans (ih _)) (.refl s)
    · exact .refl s

theorem State.releaseOf_fixes (slot : s.heldSlot c = some k) : Fixes k s (s.releaseOf c f b).1 := by
  unfold State.releaseOf
  rw [slot]
  exact State.fixTo_fixes ..

end

/-! ### The horizon (R94) -/

theorem horizonAdvancesRule_kept : horizonAdvancesRule := by
  unfold horizonAdvancesRule
  intro c s k admitted slot y r edge
  have fixes : Fixes k s r.1 := State.releaseOf_fixes slot
  have is : exec (.horizonEntry c) s = .next ((s.horizonStep c k).getD s) := by
    refine congrArg Host.Outcome.next ?_
    rw [if_pos admitted, slot]
  refine ⟨fun due => ?_, fun late => ?_⟩
  · have step : s.horizonStep c k = some (r.1.modSlot k (fun z => { z with
        horizonF := (nextBand (r.1.bandsOf c y.horizonF) y.horizonF y.horizonK).1
        horizonK := (nextBand (r.1.bandsOf c y.horizonF) y.horizonF y.horizonK).2 })) := if_pos due
    rw [step, Option.getD_some] at is
    refine ⟨_, is, fixes.modSlot, fun j other => ?_, ?_⟩
    · exact (State.slot_modSlot ..).trans ((if_neg other).trans (fixes.others j other))
    · rw [State.slot_modSlot, if_pos rfl]
      rfl
  · have step : s.horizonStep c k = none := if_neg (Nat.not_le.mpr late)
    rw [step] at is
    exact is

/-! ### A boundary (R43, R44, R91) -/

section
variable {s : State} {c : CtxNo} {k : Nat}

/-- With no context command waiting no Curator operation is due at a boundary. -/
theorem State.snapBoundary_none (none_ : s.noneWaits) : s.snapBoundary c = s := by
  unfold State.snapBoundary
  have w0 := none_ 0
  have w1 := none_ 1
  have w2 := none_ 2
  have w3 := none_ 3
  simp only [List.foldl_cons, List.foldl_nil, w0, w1, w2, w3]

/-- A boundary that is due stops a session whose command waits for it. -/
theorem State.boundary_stops (slot : s.heldSlot c = some k) (due : s.boundaryDue c = true) (none_ : s.noneWaits)
    (stops : (s.ctx c).state = .suspending ∨ (s.ctx c).state = .retiring) : s.boundary c = s.stopAt c k := by
  unfold State.boundary
  rw [slot]
  dsimp only
  rw [if_pos due, State.snapBoundary_none none_, if_pos stops]

theorem State.boundary_crosses (slot : s.heldSlot c = some k) (due : s.boundaryDue c = true) (none_ : s.noneWaits)
    (runs : (s.ctx c).state = .running) (live : s.live c = true) : s.boundary c = s.crossBoundary c k := by
  have goes : ¬ ((s.ctx c).state = .suspending ∨ (s.ctx c).state = .retiring) := by
    rw [runs]
    decide
  unfold State.boundary
  rw [slot]
  dsimp only
  rw [if_pos due, State.snapBoundary_none none_, if_neg goes, if_pos live]

/-- The last thing a boundary does is that it has acted. -/
theorem State.crossBoundary_last {x : Session} (after : (s.crossBoundary c k).ses c = some x) : x.lastBoundary = some (s.bandStart c) := by
  unfold State.crossBoundary at after
  dsimp only at after
  generalize State.prefetch c k _ = z at after
  rw [State.ses, State.modSes, State.ctx_modCtx, if_pos rfl] at after
  obtain ⟨y, -, rfl⟩ := Option.map_eq_some_iff.mp after
  split <;> rfl

end

theorem bandBoundaryRule_kept : bandBoundaryRule := by
  unfold bandBoundaryRule
  intro c s k due slot none_
  have is : exec (.bandBoundary c) s = .next (s.boundary c) := congrArg Host.Outcome.next (if_pos due)
  refine ⟨fun stops => ?_, fun runs live => ?_⟩
  · rw [State.boundary_stops slot due none_ stops] at is
    have own : (s.dropInput c (s.slot k).inputQ.length).slot k = s.slot k := rfl
    refine ⟨_, is, rfl, fun j other => ?_, fun c' other => ?_, ?_, ?_⟩
    · exact (State.slot_modSlot ..).trans (if_neg other)
    · change (s.dropInput c (s.slot k).inputQ.length).ctx c' = _
      exact (State.ctx_modCtx ..).trans (if_neg other)
    · change ((s.dropInput c (s.slot k).inputQ.length).ctx c).state = _
      rw [State.dropInput, State.modSes, State.ctx_modCtx, if_pos rfl]
    · refine (State.slot_modSlot ..).trans ((if_pos rfl).trans ?_)
      rw [own]
      simp only [beq_iff_eq]
  · rw [State.boundary_crosses slot due none_ runs live] at is
    exact ⟨_, is, fun x after => State.crossBoundary_last after⟩

/-! ### A deadline (R93, R102, R103) -/

/-- A record offered to the Accession Log leaves all but the log, its counter and the signals. -/
structure Offers (s t : State) : Prop where
  rest : t = { s with alog := t.alog, rram := t.rram, regs := t.regs, dic := t.dic, keepers := t.keepers }
  regs : ∀ a, canonReg a ≠ alogBase + 8 → t.reg a = s.reg a

section
variable {s t : State} {c : CtxNo} {k f b : Nat}

theorem State.raiseP_dic (n : Nat) : s.raiseP n = { s with dic := (s.raiseP n).dic, keepers := (s.raiseP n).keepers } := by
  obtain ⟨d, ks, is⟩ := State.raiseP_rest (s := s) n
  rw [is]

theorem State.alogStart_rest : s.alogStart = { s with alog := s.alogStart.alog, rram := s.alogStart.rram } := by
  unfold State.alogStart
  split <;> rfl

theorem State.alogLose_offers : Offers s s.alogLose := by
  unfold State.alogLose
  rw [State.raiseP_dic]
  refine ⟨rfl, fun a other => ?_⟩
  exact (State.reg_setReg ..).trans (if_neg other)

theorem State.offer_offers {code : Word} {origin : Byte} {body : List Byte} : Offers s (s.offer code origin body) := by
  unfold State.offer
  dsimp only
  split
  · split
    · exact State.alogLose_offers
    · unfold State.alogAccept
      rw [State.alogStart_rest]
      exact ⟨rfl, fun _ _ => rfl⟩
  · split
    · exact State.alogLose_offers
    · exact ⟨rfl, fun _ _ => rfl⟩

theorem Offers.refl (s : State) : Offers s s := ⟨rfl, fun _ _ => rfl⟩

theorem Offers.of_ite {p : Prop} [Decidable p] {u : State} (yes : Offers s t) (no : Offers s u) : Offers s (if p then t else u) := by
  split
  · exact yes
  · exact no

/-- A schedule block is none of the Accession Log's registers. -/
theorem schAddr_ne_alog {o : Nat} (in_ : k < 16384) (at_ : o < 64) : canonReg (schAddr k o) ≠ alogBase + 8 := by
  rw [canonReg_schAddr]
  unfold schAddr schBase alogBase
  omega

/-- What the end of a deadline's test leaves: the slot's slips, the records, the contexts and the slot's registers. -/
structure Untold (k : Nat) (s t : State) : Prop where
  slips : (t.slot k).slips = (s.slot k).slips
  fifo : t.slipFifo = s.slipFifo
  ctxs : t.ctxs = s.ctxs
  regs : ∀ o, o < 64 → t.reg (schAddr k o) = s.reg (schAddr k o)

theorem Untold.refl (s : State) : Untold k s s := ⟨rfl, rfl, rfl, fun _ _ => rfl⟩

theorem Offers.untold (offers : Offers s t) (in_ : k < 16384) : Untold k s t := by
  obtain ⟨rest, regs⟩ := offers
  refine ⟨?_, ?_, ?_, fun o at_ => regs _ (schAddr_ne_alog in_ at_)⟩
  · rw [rest]; rfl
  · rw [rest]
  · rw [rest]

theorem Untold.modSlot {g : SlotSt → SlotSt} (untold : Untold k s t) (slips : ∀ x, (g x).slips = x.slips) : Untold k s (t.modSlot k g) := by
  refine ⟨?_, untold.fifo, untold.ctxs, untold.regs⟩
  rw [State.slot_modSlot, if_pos rfl, slips]
  exact untold.slips

theorem State.frameTested_untold (in_ : k < 16384) : Untold k s (s.frameTested c k f b) := by
  unfold State.frameTested
  refine Untold.modSlot ?_ fun _ => rfl
  exact (Offers.of_ite State.offer_offers (.refl s)).untold in_

/-- The pointer of the tests moves past a band. -/
theorem State.testNext_past (in_ : k < 16384) : Untold k s (s.testNext c k f b) ∧
    (((s.testNext c k f b).slot k).testedF, ((s.testNext c k f b).slot k).testedK) =
      if s.bandActive c f (b + 1) then (f, b + 1) else (f + 1, 0) := by
  unfold State.testNext
  refine ⟨Untold.modSlot ?_ fun _ => rfl, ?_⟩
  · split
    · exact .refl s
    · exact State.frameTested_untold in_
  · rw [State.slot_modSlot, if_pos rfl]
    dsimp only
    split <;> rfl

/-! ### A slip (R102, R103) -/

/-- A session's bands are active by its state and its slots' controls. -/
theorem State.bandActive_congr {n : Nat} (ctxs : t.ctxs = s.ctxs)
    (slots : ∀ j, (t.slot j).ctx = (s.slot j).ctx ∧ (t.slot j).ctrlEff = (s.slot j).ctrlEff) :
    t.bandActive c f n = s.bandActive c f n := by
  have ctx : t.ctx c = s.ctx c := State.ctx_of_ctxs ctxs
  have held : t.heldSlot c = s.heldSlot c := by simp only [State.heldSlot, ctx, (slots _).1]
  simp only [State.bandActive, State.sesD, State.ses, ctx, State.ctxBandH, State.bandH, held, (slots _).2]
  rfl

/-- A slip's record leaves slots, contexts and the slot's registers. -/
structure Records (k : Nat) (s t : State) : Prop where
  slots : t.slots = s.slots
  ctxs : t.ctxs = s.ctxs
  regs : ∀ o, o < 64 → t.reg (schAddr k o) = s.reg (schAddr k o)

theorem State.setLevel_records {n : Nat} {on : Bool} (small : n < 512) : Records k s (s.setLevel n on) ∧ (s.setLevel n on).slipFifo = s.slipFifo := by
  rw [(State.setLevel_level n on small).2]
  exact ⟨⟨rfl, rfl, fun _ _ => rfl⟩, rfl⟩

/-- The word of a slip's record (R103). -/
def slipWord (k b p : Nat) : Reg32 := BitVec.ofNat 32 (2 ^ 31 + p * 2 ^ 22 + b % 256 * 2 ^ 14 + k)

theorem State.slipRecord_records {p : Nat} (in_ : k < 16384) : Records k s (s.slipRecord k b p) := by
  have apart (o : Nat) : canonReg (schAddr k o) ≠ canonReg (bscBase + 0x308) := by
    rw [canonReg_schAddr, canonReg, if_neg (by decide), if_neg (by decide)]
    unfold schAddr schBase bscBase
    omega
  have either (room : Prop) [Decidable room] (l : Vector (List Reg32) 2) : Records k s
      (if room then State.setLevel (5 + slotDie k % 2) true { s with slipFifo := l } else s.countReg (bscBase + 0x308) 1) := by
    split
    · obtain ⟨⟨slots, ctxs, regs⟩, -⟩ := State.setLevel_records (k := k) (s := { s with slipFifo := l }) (n := 5 + slotDie k % 2)
        (on := true) (by omega)
      exact ⟨slots, ctxs, regs⟩
    · exact ⟨rfl, rfl, fun o _ => (State.reg_setReg ..).trans (if_neg (apart o))⟩
  exact either _ _

/-- The record goes to the FIFO of the slot's die, while that has room. -/
theorem State.slipRecord_fifos {p : Nat} {d : Fin 2} (room : s.slipFifo[d.val].length < 256) (die : d.val = slotDie k) :
    (s.slipRecord k b p).slipFifo = s.slipFifo.set d.val (s.slipFifo[d.val] ++ [slipWord k b p]) := by
  have mod : slotDie k % 2 = d.val := by omega
  unfold State.slipRecord
  simp only [mod]
  obtain rfl | rfl : d = 0 ∨ d = 1 := by omega
  · simp only [Fin.val_zero, if_true] at room ⊢
    simp only [if_pos room]
    exact (State.setLevel_records (k := k) (by omega)).2.trans rfl
  · simp only [Fin.val_one, if_neg Nat.one_ne_zero] at room ⊢
    simp only [if_pos room]
    exact (State.setLevel_records (k := k) (by omega)).2.trans rfl

theorem State.slipRecord_fifo {p : Nat} {d : Fin 2} (room : s.slipFifo[d.val].length < 256) (die : d.val = slotDie k) :
    (s.slipRecord k b p).slipFifo[d.val] = s.slipFifo[d.val] ++ [slipWord k b p] := by
  simp only [State.slipRecord_fifos room die, Vector.getElem_set_self]

/-- What a slip leaves and changes (R102, R103, R105). -/
structure Slips (c : CtxNo) (k f b : Nat) (s t : State) : Prop where
  ctxs : t.ctxs = s.ctxs
  count : t.regN (schAddr k 0x2C) = min 0xFFFFFFFF (s.regN (schAddr k 0x2C) + 1)
  fifo : ∀ d : Fin 2, d.val = slotDie k → s.slipFifo[d.val].length < 256 →
    t.slipFifo[d.val] = s.slipFifo[d.val] ++ [slipWord k b (s.slipPolicy k)]
  controls : ∀ j, (t.slot j).ctx = (s.slot j).ctx ∧ (t.slot j).ctrlEff = (s.slot j).ctrlEff
  list : s.slipPolicy k ≠ 1 → (t.slot k).slips = (s.slot k).slips ++
    [{ frame := f, band := b, policy := BitVec.ofNat 2 (s.slipPolicy k), markerSent := false }]
  stretch : s.slipPolicy k = 1 → (t.slot k).sched = (s.slot k).sched.map (fun e =>
    if e.f = f then { e with shifts := e.shifts ++ [b] } else if f < e.f then { e with s := e.s + s.tbOf c k f } else e)

theorem SlotSt.raiseLead_rest (y : SlotSt) : ∃ a, y.raiseLead = { y with leadPend := a } := by
  unfold SlotSt.raiseLead
  dsimp only
  split
  · exact ⟨_, rfl⟩
  · exact ⟨y.leadPend, rfl⟩

/-- The count and the record of a slip. -/
def State.slipCounted (k b : Nat) (s : State) : State := (s.countReg (schAddr k 0x2C) 1).slipRecord k b (s.slipPolicy k)

theorem State.slipCounted_kept (in_ : k < 16384) : (s.slipCounted k b).ctxs = s.ctxs ∧ (s.slipCounted k b).slots = s.slots ∧
    (s.slipCounted k b).regN (schAddr k 0x2C) = min 0xFFFFFFFF (s.regN (schAddr k 0x2C) + 1) ∧
    ∀ d : Fin 2, d.val = slotDie k → s.slipFifo[d.val].length < 256 →
      (s.slipCounted k b).slipFifo[d.val] = s.slipFifo[d.val] ++ [slipWord k b (s.slipPolicy k)] := by
  have records := State.slipRecord_records (s := s.countReg (schAddr k 0x2C) 1) (b := b) (p := s.slipPolicy k) in_
  refine ⟨records.ctxs, records.slots, ?_, fun d die room => ?_⟩
  · refine (congrArg BitVec.toNat (records.regs 0x2C (by omega))).trans ?_
    rw [State.countReg, State.reg_setReg, if_pos rfl, BitVec.toNat_ofNat]
    omega
  · exact State.slipRecord_fifo (s := s.countReg (schAddr k 0x2C) 1) room die

/-- The band is marked as slipped, and AUTO raises LEAD_NOW. -/
def SlotSt.slipMark (f b : Nat) (y : SlotSt) : SlotSt :=
  { y.raiseLead with slipped := if y.slipped.contains (f, b) then y.slipped else y.slipped ++ [(f, b)] }

theorem SlotSt.slipMark_rest {y : SlotSt} : ∃ a l, y.slipMark f b = { y with leadPend := a, slipped := l } := by
  obtain ⟨a, is⟩ := y.raiseLead_rest
  exact ⟨a, _, by rw [SlotSt.slipMark, is]⟩

theorem State.slip_eq : s.slip c k f b =
    if s.slipPolicy k = 1 then
      (((s.slipCounted k b).modSlot k (SlotSt.slipMark f b)).stretch k f b (s.tbOf c k f)).countReg (schAddr k 0x30) 1
    else ((s.slipCounted k b).modSlot k (SlotSt.slipMark f b)).modSlot k (fun y => { y with
      slips := y.slips ++ [{ frame := f, band := b, policy := BitVec.ofNat 2 (s.slipPolicy k), markerSent := false }] }) := rfl

/-- A STRETCH's shift and its count leave all but the slot and the count. -/
theorem State.stretch_counted {tb : Nat} : ((s.stretch k f b tb).countReg (schAddr k 0x30) 1).ctxs = s.ctxs ∧
    ((s.stretch k f b tb).countReg (schAddr k 0x30) 1).slipFifo = s.slipFifo ∧
    ((s.stretch k f b tb).countReg (schAddr k 0x30) 1).regN (schAddr k 0x2C) = s.regN (schAddr k 0x2C) ∧
    ∀ j, ((s.stretch k f b tb).countReg (schAddr k 0x30) 1).slot j = (s.stretch k f b tb).slot j := by
  refine ⟨rfl, rfl, ?_, fun _ => rfl⟩
  refine (State.regN_setReg_of_ne ?_).trans rfl
  simp

theorem State.slip_slips (in_ : k < 16384) : Slips c k f b s (s.slip c k f b) := by
  obtain ⟨ctxs, slots, count, fifo⟩ := State.slipCounted_kept (s := s) (b := b) in_
  have slot (j : Nat) : (s.slipCounted k b).slot j = s.slot j := by rw [State.slot, slots, State.slot]
  obtain ⟨a, l, mark⟩ := (s.slot k).slipMark_rest (f := f) (b := b)
  have first (j : Nat) : ((s.slipCounted k b).modSlot k (SlotSt.slipMark f b)).slot j =
      if j = k then { s.slot k with leadPend := a, slipped := l } else s.slot j := by
    rw [State.slot_modSlot, slot, slot, mark]
  rw [State.slip_eq]
  split
  · next stretch =>
    obtain ⟨ctxs', fifo', count', slot'⟩ := State.stretch_counted (s := (s.slipCounted k b).modSlot k (SlotSt.slipMark f b)) (k := k) (f := f)
      (b := b) (tb := s.tbOf c k f)
    refine ⟨ctxs'.trans ctxs, count'.trans count, fun d die room => ?_, fun j => ?_, fun other => absurd stretch other, fun _ => ?_⟩
    · rw [fifo']
      exact fifo d die room
    · rw [slot', State.stretch, State.slot_modSlot, first]
      split
      · next same => subst same; rw [if_pos rfl]; exact ⟨rfl, rfl⟩
      · next other => rw [first, if_neg other]; exact ⟨rfl, rfl⟩
    · rw [slot', State.stretch, State.slot_modSlot, if_pos rfl, first, if_pos rfl]
  · next pol =>
    refine ⟨ctxs, count, fifo, fun j => ?_, fun _ => ?_, fun stretch => absurd stretch pol⟩
    · rw [State.slot_modSlot, first]
      split
      · next same => subst same; rw [if_pos rfl]; exact ⟨rfl, rfl⟩
      · next other => rw [first, if_neg other]; exact ⟨rfl, rfl⟩
    · rw [State.slot_modSlot, if_pos rfl, first, if_pos rfl]

end

theorem deadlineTestsRule_kept : deadlineTestsRule := by
  unfold deadlineTestsRule
  intro c s k slot admitted in_ f b r stop due passed
  have is : exec (.deadlineTest c) s = .next (s.deadlineTest c k) := by
    refine congrArg Host.Outcome.next ?_
    rw [slot]
    exact if_neg admitted
  have fixes : Fixes k s r.1 := State.releaseOf_fixes slot
  have ctxs : r.1.ctxs = s.ctxs := by rw [fixes.rest]
  have fifo : r.1.slipFifo = s.slipFifo := by rw [fixes.rest]
  have policy : r.1.slipPolicy k = s.slipPolicy k := by
    obtain ⟨l, p, q, a, own⟩ := fixes.own
    rw [State.slipPolicy, own, State.slipPolicy]
  have goes : ¬ (s.pastStop c k f b = true ∨ s.clock.time + s.guardOf k < r.2) := by
    simp only [stop, Bool.false_eq_true, false_or]
    exact Nat.not_lt.mpr due
  have run : s.deadlineTest c k = if (r.1.slot k).kindAt f = 0 ∨ r.1.bandQueued k f b = true then r.1.testNext c k f b
      else if s.slipPolicy k = 1 then r.1.slip c k f b else (r.1.slip c k f b).testNext c k f b := if_neg goes
  refine ⟨fun queued => ?_, fun shown late => ?_⟩
  · obtain ⟨untold, place⟩ := State.testNext_past (s := r.1) (c := c) (f := f) (b := b) in_
    rw [run, if_pos queued] at is
    exact ⟨_, is, place, untold.slips, untold.fifo.trans fifo, untold.ctxs.trans ctxs⟩
  · have slips := State.slip_slips (s := r.1) (c := c) (f := f) (b := b) in_
    rw [run, if_neg (by rw [late]; exact not_or.mpr ⟨shown, Bool.false_ne_true⟩)] at is
    by_cases stretch : s.slipPolicy k = 1
    · rw [if_pos stretch] at is
      refine ⟨_, is, slips.ctxs.trans ctxs, slips.count, fun d die room => ?_, fun other => absurd stretch other,
        fun _ => slips.stretch (policy.trans stretch)⟩
      rw [← fifo] at room ⊢
      exact slips.fifo d die room
    · obtain ⟨untold, place⟩ := State.testNext_past (s := r.1.slip c k f b) (c := c) (f := f) (b := b) in_
      rw [if_neg stretch] at is
      refine ⟨_, is, (untold.ctxs.trans slips.ctxs).trans ctxs, ?_, fun d die room => ?_, fun _ => ⟨?_, ?_⟩, fun is => absurd is stretch⟩
      · exact (congrArg BitVec.toNat (untold.regs 0x2C (by omega))).trans slips.count
      · rw [← fifo] at room ⊢
        rw [untold.fifo]
        exact slips.fifo d die room
      · rw [place, State.bandActive_congr slips.ctxs slips.controls]
      · rw [untold.slips]
        exact slips.list (by rw [policy]; exact stretch)

/-- Settles O33: each rule by what fixing a frame, stopping or crossing, and testing past a band leave. -/
theorem bandPeriods : Obligations.BandPeriods := ⟨horizonAdvancesRule_kept, bandBoundaryRule_kept, deadlineTestsRule_kept⟩

end Sys2Proof.Machine

/-! ## Registers with no row of their own (R8, R9, R168) -/
namespace Sys2Proof.Machine
open Sys2Proof Sys2Proof.Claims

section
variable {s : State} {a v : Nat} {node : Byte}

/-- A sub-port's block of the first port's registers is there in every mode. -/
theorem State.ethDark_first {o : Nat} (block : 0x100 ≤ o) (below : o < 0x200) : s.ethDark o = false := by
  have subs (m : Nat) : 0 < modeSubs m := by
    unfold modeSubs
    split
    · decide
    split <;> decide
  unfold State.ethDark
  have one : o % 0x10000 / 256 - 1 = 0 := by omega
  rw [if_pos (by omega), one]
  split
  · simp [subs]
  · simp [below]

/-- A write of a register of the list is no other than one under its descriptor. -/
theorem State.regWrite_set (e : Nat × BitVec 32) (mem : e ∈ setRegisters) :
    s.regWrite node e.1 v = s.writeReg e.1 v ∧ canonReg e.1 = e.1 ∧ (regDesc e.1).rw = e.2.toNat ∧ (regDesc e.1).w1c = 0 := by
  simp only [setRegisters, List.mem_cons, List.not_mem_nil, or_false] at mem
  rcases mem with rfl | rfl | rfl | rfl | rfl | rfl | rfl | rfl | rfl | rfl | rfl | rfl | rfl | rfl | rfl | rfl | rfl | rfl
  case inr.inr.inr.inr.inr.inr.inr.inr.inr.inr.inl =>
    exact ⟨if_neg (by rw [State.ethDark_first (by decide) (by decide)]; exact Bool.false_ne_true), rfl, rfl, rfl⟩
  case inr.inr.inr.inr.inr.inr.inr.inr.inr.inr.inr.inl =>
    exact ⟨if_neg (by rw [State.ethDark_first (by decide) (by decide)]; exact Bool.false_ne_true), rfl, rfl, rfl⟩
  all_goals exact ⟨rfl, rfl, rfl, rfl⟩

/-- The list's addresses are words of the device's own windows. -/
theorem setRegisters_within : ∀ e ∈ setRegisters,
    (BitVec.ofNat 48 e.1).toNat = e.1 ∧ e.1 % 4 = 0 ∧ rdWindow ≤ e.1 ∧ e.1 < 0x008003000000 := by decide

/-- A register whose descriptor has only RW bits takes those (R9). -/
theorem State.writeReg_rw (canon : canonReg a = a) (only : (regDesc a).w1c = 0) {i : Nat} (in_ : i < 32) (v : Reg32) :
    ((s.writeReg a v.toNat).reg a).getLsbD i = if (regDesc a).rw.testBit i then v.getLsbD i else (s.reg a).getLsbD i := by
  rw [State.writeReg, State.reg_setReg, if_pos rfl, canon, softWrite, only, BitVec.getLsbD_ofNat, decide_eq_true in_, Bool.true_and,
    Nat.and_zero, Nat.and_zero, Nat.sub_zero, mergeBits_testBit]
  rfl

/-- The stores of the interrupt registers of the list are theirs alone. -/
theorem IntSt.write_set (e : Word × (Word → IntSt → IntSt)) (mem : e ∈ setInterrupts) (keeper : Bool) (v : Word) (i : IntSt) :
    i.write keeper e.1.toNat v = e.2 v i ∧ 0xFB00 ≤ e.1.toNat ∧ e.1.toNat < 0xFC00 := by
  simp only [setInterrupts, List.mem_cons, List.not_mem_nil, or_false] at mem
  rcases mem with rfl | rfl | rfl <;> exact ⟨rfl, by decide, by decide⟩

end

/-- Settles O56: each register's write is the descriptor's, and each interrupt register's store one of `IntSt.write`. -/
theorem registerWrites : Obligations.RegisterWrites := by
  unfold Obligations.RegisterWrites
  refine fun s => ⟨fun e node v mem up => ?_, fun e v mem => ⟨fun k ready => ?_, fun c x ready ses => ?_⟩⟩
  · obtain ⟨write, canon, mask, only⟩ := State.regWrite_set (s := s) (node := node) (v := v.toNat) e mem
    obtain ⟨at_, aligned, low, high⟩ := setRegisters_within e mem
    have is : exec (.registerWrite (.loam node (BitVec.ofNat 48 e.1) v)) s = .next (s.writeReg e.1 v.toNat) := by
      rw [← write]
      refine congrArg Host.Outcome.next (if_pos ?_) |>.trans (by rw [at_])
      rw [at_, aligned, up]
      simp [low, high]
    refine ⟨_, is, rfl, fun i in_ => ?_, fun a other => (State.reg_setReg ..).trans (if_neg (by rwa [canon]))⟩
    rw [State.writeReg_rw canon only in_, mask, BitVec.testBit_toNat]
  · obtain ⟨write, low, high⟩ := IntSt.write_set e mem true v (s.keeper k).int
    have is : exec (.registerWrite (.io (.keeper k) e.1 v)) s =
        .next (s.modKeeper k (fun x => { x with int := x.int.write true e.1.toNat v })) := by
      refine congrArg Host.Outcome.next ((if_pos ?_).trans ?_)
      · rw [ready, decide_eq_true (show 0xF000 ≤ e.1.toNat by omega)]
        rfl
      · unfold State.dStore State.keeperIoStore
        rw [if_pos (show 0xF000 ≤ e.1.toNat by omega)]
        exact if_pos ⟨low, high⟩
    refine ⟨_, is, rfl, ?_, fun j other => ?_⟩
    · rw [State.keeper_modKeeper, if_pos rfl, write]
    · rw [State.keeper_modKeeper, if_neg other]
  · obtain ⟨write, low, high⟩ := IntSt.write_set e mem false v x.int
    have is : exec (.registerWrite (.io (.session c) e.1 v)) s =
        .next (s.modSes c (fun x => { x with int := x.int.write false e.1.toNat v })) := by
      refine congrArg Host.Outcome.next ((if_pos ?_).trans ?_)
      · rw [ready, decide_eq_true (show 0xF000 ≤ e.1.toNat by omega)]
        rfl
      · unfold State.dStore State.ioStore State.miscStore
        rw [if_pos (show 0xF000 ≤ e.1.toNat by omega)]
        dsimp only
        rw [if_neg (by omega), if_neg (by omega), if_neg (by omega)]
        exact if_pos ⟨low, high⟩
    have own : (s.ctx c).ses = some x := ses
    refine ⟨_, is, rfl, ?_, fun c' other => ?_⟩
    · rw [State.ses, State.modSes, State.ctx_modCtx, if_pos rfl, own, Option.map_some, write]
    · rw [State.modSes, State.ctx_modCtx, if_neg other]

end Sys2Proof.Machine

/-! ## Clocks (R333 to R346) -/
namespace Sys2Proof.Machine
open Sys2Proof Sys2Proof.Claims

/-! ### What a clock command changes -/

/-- Of a state at most the clock and what the clock-status source reaches differ. -/
def ClockOnly (s t : State) : Prop := t = { s with clock := t.clock, dic := t.dic, keepers := t.keepers }

section
variable {s t u : State}

theorem ClockOnly.trans (a : ClockOnly s t) (b : ClockOnly t u) : ClockOnly s u := by
  unfold ClockOnly at a b ⊢
  rw [b, a]

theorem ClockOnly.clock (s : State) (x : Clock) : ClockOnly s { s with clock := x } := rfl

theorem ClockOnly.reg (only : ClockOnly s t) (a : Nat) : t.reg a = s.reg a := by
  rw [only]
  rfl

theorem State.clkStatus_only : ClockOnly s s.clkStatus ∧ s.clkStatus.clock = s.clock := by
  have raised := State.raiseP_dic (s := s) 17
  unfold ClockOnly State.clkStatus
  rw [raised]
  exact ⟨rfl, rfl⟩

theorem State.ite_clkStatus_only {p : Prop} [Decidable p] : ClockOnly s (if p then s.clkStatus else s) ∧
    (if p then s.clkStatus else s).clock = s.clock := by
  split
  · exact State.clkStatus_only
  · exact ⟨rfl, rfl⟩

theorem State.retrim_only : ClockOnly s s.retrim ∧ ∃ l, s.retrim.clock = { s.clock with trim := s.clock.trimOf s.trimMan, trimLim := l } := by
  have status (x : Clock) := State.clkStatus_only (s := { s with clock := x })
  unfold State.retrim
  dsimp only
  split
  · exact ⟨rfl, _, rfl⟩
  · exact ⟨(ClockOnly.clock s _).trans (status _).1, _, (status _).2⟩

theorem ClockOnly.trimMan (only : ClockOnly s t) : t.trimMan = s.trimMan := by
  unfold State.trimMan State.regN
  rw [only.reg]

/-- A clock set, the status source raised or not, and the trim computed anew. -/
theorem State.set_retrim_only (x : Clock) (p : Prop) [Decidable p] :
    let t := (if p then ({ s with clock := x } : State).clkStatus else { s with clock := x }).retrim
    ClockOnly s t ∧ ∃ l, t.clock = { x with trim := x.trimOf s.trimMan, trimLim := l } := by
  have set_ : ClockOnly s { s with clock := x } := rfl
  obtain ⟨only, clock⟩ := State.ite_clkStatus_only (s := { s with clock := x }) (p := p)
  obtain ⟨retrim, l, trimmed⟩ := State.retrim_only (s := if p then ({ s with clock := x } : State).clkStatus else { s with clock := x })
  refine ⟨(set_.trans only).trans retrim, l, ?_⟩
  rw [trimmed, clock, (set_.trans only).trimMan]

/-- The same without a change of status. -/
theorem State.set_retrim_quiet (x : Clock) : ClockOnly s ({ s with clock := x } : State).retrim ∧
    ∃ l, ({ s with clock := x } : State).retrim.clock = { x with trim := x.trimOf s.trimMan, trimLim := l } :=
  State.set_retrim_only x False

theorem State.set_retrim_raised (x : Clock) : ClockOnly s ({ s with clock := x } : State).clkStatus.retrim ∧
    ∃ l, ({ s with clock := x } : State).clkStatus.retrim.clock = { x with trim := x.trimOf s.trimMan, trimLim := l } :=
  State.set_retrim_only x True

/-- A command that only sets the clock and raises the status source. -/
theorem State.set_status_only (x : Clock) : ClockOnly s ({ s with clock := x } : State).clkStatus ∧
    ({ s with clock := x } : State).clkStatus.clock = x :=
  ⟨(ClockOnly.clock s x).trans State.clkStatus_only.1, State.clkStatus_only.2⟩

end

/-! ### The commands -/

/-- The servo's terms after a phase error (R342). -/
def State.phaseTerms (s : State) (e : Int) : Clock :=
  { s.clock with
    src := s.srcField, phAge := 0, holdPtp := false
    prop := if s.srcField = 1 ∨ s.srcField = 2 then (e * s.gainP).fdiv 65536 else s.clock.prop
    integ := if s.srcField = 1 ∨ s.srcField = 2 then clampInt (-trimLimit) trimLimit (s.clock.integ + (e * s.gainI).fdiv 16777216)
      else s.clock.integ }

section
variable {s : State}

theorem State.pherr_eq (e : Int) : s.pherr e = (if s.clock.holdPtp then ({ s with clock := s.phaseTerms e } : State).clkStatus
    else { s with clock := s.phaseTerms e }).retrim := by
  unfold State.pherr State.phaseTerms
  by_cases used : s.srcField = 1 ∨ s.srcField = 2
  · simp only [used, decide_true, if_true]
  · simp only [used, decide_false, if_false, Bool.false_eq_true]

theorem State.pherr_kept (e : Reg32) (on : s.power.mode ≠ .off) :
    clockStep (.pherrWrite e) s (fun c => c.src = s.srcField ∧ c.time = s.clock.time ∧ c.holdPtp = false ∧ c.phAge = 0 ∧
      (s.srcField = 1 ∨ s.srcField = 2 →
        c.prop = (e.toInt * s.gainP).fdiv 65536 ∧
        c.integ = clampInt (-51200000) 51200000 (s.clock.integ + (e.toInt * s.gainI).fdiv 16777216) ∧
        c.trim = clampInt (-51200000) 51200000 ((if s.srcField = 2 then s.clock.freq else 0) + c.prop + c.integ))) := by
  have aon : s.aon = true := by simpa [State.aon] using on
  have is : exec (.pherrWrite e) s = .next (s.pherr e.toInt) := congrArg Host.Outcome.next (if_pos aon)
  rw [State.pherr_eq] at is
  obtain ⟨only, l, clock⟩ := State.set_retrim_only (s := s) (s.phaseTerms e.toInt) (s.clock.holdPtp = true)
  refine ⟨_, is, only, ?_⟩
  rw [clock]
  refine ⟨rfl, rfl, rfl, rfl, fun used => ⟨if_pos used, if_pos used, ?_⟩⟩
  rcases used with one | two
  · simp [Clock.trimOf, State.phaseTerms, one, trimLimit]
  · simp [Clock.trimOf, State.phaseTerms, two, trimLimit]

theorem State.integrator_kept (v : BitVec 28) (on : s.power.mode ≠ .off) :
    clockStep (.integratorWrite v) s (fun c => c.integ = v.toInt ∧ c.prop = s.clock.prop ∧
      c.time = s.clock.time ∧ (s.clock.src = 1 → c.trim = clampInt (-51200000) 51200000 (s.clock.prop + v.toInt))) := by
  have aon : s.aon = true := by simpa [State.aon] using on
  have is : exec (.integratorWrite v) s = .next (s.writeInteg v.toInt) := congrArg Host.Outcome.next (if_pos aon)
  obtain ⟨only, l, clock⟩ := State.set_retrim_quiet (s := s) { s.clock with integ := v.toInt }
  refine ⟨_, is, only, ?_⟩
  rw [State.writeInteg, clock]
  refine ⟨rfl, rfl, rfl, fun one => ?_⟩
  simp [Clock.trimOf, one, trimLimit]

theorem State.syncWindow_kept (f : BitVec 28) (on : s.power.mode ≠ .off) (src : s.srcField = 2 ∨ s.srcField = 3) (link : s.seLink = true)
    (low : -51200000 ≤ f.toInt) (high : f.toInt ≤ 51200000) :
    clockStep (.synceWindow f) s (fun c => c.freq = f.toInt ∧ c.holdSynce = false ∧ c.src = s.srcField ∧
        c.windows = (f.toInt :: s.clock.windows).take 16 ∧ (s.srcField = 3 → c.trim = clampInt (-51200000) 51200000 f.toInt)) := by
  have aon : s.aon = true := by simpa [State.aon] using on
  have is : exec (.synceWindow f) s = .next (s.synce f.toInt) := congrArg Host.Outcome.next (if_pos aon)
  have step : s.synce f.toInt = _ := (if_pos src).trans (if_pos ⟨link, low, high⟩)
  rw [step] at is
  obtain ⟨only, l, clock⟩ := State.set_retrim_only (s := s)
    { s.clock with
      src := s.srcField, phAge := if s.clock.phased then s.clock.phAge else 0
      freq := f.toInt, windows := (f.toInt :: s.clock.windows).take 16, holdSynce := false } (s.clock.holdSynce = true)
  refine ⟨_, is, only, ?_⟩
  rw [clock]
  refine ⟨rfl, rfl, rfl, rfl, fun three => ?_⟩
  simp [Clock.trimOf, three, trimLimit]

theorem State.holdover_kept (on : s.power.mode ≠ .off) (src : s.clock.src = 1 ∨ s.clock.src = 2) (hold : s.clock.holdPtp = false)
    (age : s.holdTo ≤ s.clock.phAge) :
    clockStep .holdPtp s (fun c => c.holdPtp = true ∧ c.prop = 0 ∧ c.integ = s.clock.integ ∧ c.time = s.clock.time) := by
  have aon : s.aon = true := by simpa [State.aon] using on
  have phased : s.clock.phased = true := by
    rcases src with one | two
    · simp [Clock.phased, one]
    · simp [Clock.phased, two]
  have is : exec .holdPtp s = .next ({ s with clock := { s.clock with holdPtp := true, prop := 0 } } : State).clkStatus.retrim :=
    congrArg Host.Outcome.next (if_pos (by rw [aon, phased, hold, decide_eq_true age]; rfl))
  obtain ⟨only, l, clock⟩ := State.set_retrim_raised (s := s) { s.clock with holdPtp := true, prop := 0 }
  refine ⟨_, is, only, ?_⟩
  rw [clock]
  exact ⟨rfl, rfl, rfl, rfl⟩

/-- The latched halves of the time read (R346). -/
theorem State.timeRead_kept (on : s.power.mode ≠ .off) :
    ∃ t, exec .ptpTimeRead s = .next t ∧ t = { s with regs := t.regs, answer := BitVec.ofNat 64 (s.clock.secs % 2 ^ 32) } ∧
      t.regN (clkBase + 0x44) = s.clock.secs / 2 ^ 32 % 2 ^ 32 ∧ t.regN (clkBase + 0x48) = s.clock.nanos ∧
      t.regN (clkBase + 0x4C) = s.clock.frac := by
  have aon : s.aon = true := by simpa [State.aon] using on
  have is : exec .ptpTimeRead s = .next (s.timeRead.1.reply s.timeRead.2) := congrArg Host.Outcome.next (if_pos aon)
  have nanos : s.clock.nanos < 1000000000 := Nat.mod_lt _ (by decide)
  have frac : s.clock.frac < 65536 := Nat.mod_lt _ (by decide)
  have canon (o : Nat) : canonReg (clkBase + o) = clkBase + o := canonReg_of_ge (Nat.le_trans (by decide) (Nat.le_add_right clkBase o))
  have read (a : Nat) : (s.timeRead.1.reply s.timeRead.2).regN a = s.timeRead.1.regN a := rfl
  refine ⟨_, is, rfl, ?_, ?_, ?_⟩ <;> rw [read, State.timeRead] <;> simp only [State.regN_setReg, canon, Nat.add_left_cancel_iff]
  · simp
  · simp
    omega
  · simp
    omega

end

/-- Settles O43: each command sets its terms, and the trim is computed from those in force. -/
theorem clockCommands : Obligations.ClockCommands := by
  unfold Obligations.ClockCommands
  intro s on
  have aon : s.aon = true := by simpa [State.aon] using on
  have adjust (f : Nat → Nat → Nat) (ok : s.regN (clkBase + 0x58) < 1000000000) :
      s.adjust f = { s with clock := { s.clock with time := f s.clock.time s.adjOperand } } := by
    unfold State.adjust
    rw [aon, State.adjOk, decide_eq_true ok]
    rfl
  refine ⟨fun unlocked => ?_, fun locked => ?_, fun ok => ⟨?_, ?_, fun _ => ?_⟩, fun bad i mem => ?_,
    fun e => State.pherr_kept e on, fun v => State.integrator_kept v on, fun f src link low high => State.syncWindow_kept f on src link low high,
    fun src hold age => State.holdover_kept on src hold age, State.timeRead_kept on⟩
  · have is : exec .rootLock s = .next ({ s with clock := { s.clock with rootLock := true } } : State).clkStatus :=
      congrArg Host.Outcome.next (if_pos (by rw [aon, unlocked]; rfl))
    exact ⟨_, is, State.set_status_only _⟩
  · have is : exec .rootLockLoss s = .next ({ s with clock := { s.clock with rootLock := false } } : State).clkStatus :=
      congrArg Host.Outcome.next (if_pos locked)
    exact ⟨_, is, State.set_status_only _⟩
  · exact congrArg Host.Outcome.next (adjust _ ok)
  · exact congrArg Host.Outcome.next (adjust _ ok)
  · exact congrArg Host.Outcome.next (adjust _ ok)
  · have fails (f : Nat → Nat → Nat) : s.adjust f = { s with clock := { s.clock with adjBad := true } } := by
      unfold State.adjust
      rw [aon, State.adjOk, decide_eq_false (Nat.not_lt.mpr bad)]
      rfl
    simp only [List.mem_cons, List.not_mem_nil, or_false] at mem
    rcases mem with rfl | rfl | rfl <;> exact congrArg Host.Outcome.next (fails _)

end Sys2Proof.Machine

/-! ## Claims, watchdogs and the device interrupt controller (R352, R355, R372 to R376) -/
namespace Sys2Proof.Machine
open Sys2Proof Sys2Proof.Claims

/-! ### What the interrupt controller reaches -/

/-- Of a state at most the interrupt controller and the Keepers' sources and lines differ. -/
structure DicOnly (s t : State) : Prop where
  rest : t = { s with dic := t.dic, keepers := t.keepers }
  keepers : Signals s t

section
variable {s t u : State} {n m : Nat}

theorem DicOnly.refl (s : State) : DicOnly s s := ⟨rfl, .refl s⟩

theorem DicOnly.trans (a : DicOnly s t) (b : DicOnly t u) : DicOnly s u := ⟨by rw [b.rest, a.rest], a.keepers.trans b.keepers⟩

theorem DicOnly.dic (s : State) (d : Dic) : DicOnly s { s with dic := d } := ⟨rfl, .of_keepers rfl⟩

/-- Every register of a processor stands as it did. -/
theorem DicOnly.cpu (only : DicOnly s t) (p : Cpu) : t.cpu p = s.cpu p := by
  cases p with
  | session c =>
    have ctxs : t.ctxs = s.ctxs := by rw [only.rest]
    have ses : t.ses c = s.ses c := congrArg Context.ses (State.ctx_of_ctxs ctxs)
    simp only [State.cpu, State.sesD, ses]
  | keeper k =>
    obtain ⟨i, l, is⟩ := only.keepers k
    rw [State.cpu, is]
    rfl

theorem DicOnly.mem (only : DicOnly s t) : t.mem = s.mem := by rw [only.rest]

theorem DicOnly.reg (only : DicOnly s t) (a : Nat) : t.reg a = s.reg a := by
  rw [only.rest]
  rfl

theorem State.dicSettle_only : DicOnly s s.dicSettle := by
  refine ⟨?_, State.dicSettle_signals⟩
  obtain ⟨k, is⟩ := s.dicSettle_rest
  rw [is]

theorem State.dicPend_only : DicOnly s (s.dicPend n) := by
  rw [State.dicPend_rest]
  exact .dic s _

theorem State.raiseP_only : DicOnly s (s.raiseP n) := ⟨State.raiseP_dic n, State.raiseP_signals n⟩

theorem State.dicAgain_only {b : Bool} : DicOnly s (s.dicAgain n b) ∧ (s.dicAgain n b).dic = s.dic := by
  unfold State.dicAgain
  split
  · split
    · next k h =>
      refine ⟨⟨rfl, fun j => ?_⟩, rfl⟩
      rw [State.keeper_modKeeper]
      split
      · next same => subst same; exact ⟨_, (s.keeper _).lineWas, rfl⟩
      · exact ⟨_, _, rfl⟩
    · exact ⟨.refl s, rfl⟩
  · exact ⟨.refl s, rfl⟩

/-- A source that is raised is pending, and no bit of the controller but pending ones and group counts differ. -/
theorem State.dicPend_bits (small : n < 512) : (s.dicPend n).dic.pend.getLsbD n = true ∧ (s.dicPend n).dic.insvc = s.dic.insvc := by
  unfold State.dicPend
  split
  · next pending => exact ⟨pending, rfl⟩
  · dsimp only
    split <;> simp [Dic.groupEvent, small]

theorem State.raiseP_pend (hub : s.power.hub = true) (small : n < 512) : (s.raiseP n).dic.pend.getLsbD n = true := by
  rw [State.raiseP, if_pos hub, State.dicSettle_dic]
  exact (State.dicPend_bits small).1

/-- The best source is one of the controller's. -/
theorem State.dicBest_lt : s.dicBest n < 512 := by
  unfold State.dicBest
  suffices all : ∀ (l : List Nat) best, best < 512 → (∀ i ∈ l, i < 512) →
      l.foldl (fun best m => if s.deliverable n m && (best == 0 || decide (dicPrio (s.dicCfg best) < dicPrio (s.dicCfg m)))
        then m else best) best < 512 from
    all _ 0 (by decide) fun i mem => List.mem_range.mp mem
  intro l
  induction l with
  | nil => exact fun _ small _ => small
  | cons j l ih =>
    intro best small within
    refine ih _ ?_ fun i mem => within i (List.mem_cons_of_mem _ mem)
    dsimp only
    split
    · exact within j List.mem_cons_self
    · exact small

/-! ### Claims (R352) -/

variable {k j : Fin 4} {c : Fin 64} {node : Byte}

/-- The node of a Keeper. -/
theorem nodeKeeper_keeper (k : Fin 4) : nodeKeeper (0x80 + BitVec.ofNat 8 k.val) = some k := by
  revert k
  decide

theorem exec_claimRead (on : s.power.mode ≠ .off) :
    exec (.claimRead node c) s = .next ((s.claimRead node c.val).1.reply (s.claimRead node c.val).2) :=
  congrArg Host.Outcome.next (if_neg on)

theorem exec_claimFree (on : s.power.mode ≠ .off) : exec (.claimFree node c) s = .next (s.claimFree node c.val) :=
  congrArg Host.Outcome.next (if_neg on)

theorem State.claimRead_free (is : nodeKeeper node = some k) (free : Sparse.get none s.claims c.val = none) :
    s.claimRead node c.val = ({ s with claims := Sparse.set none s.claims c.val (some k) }, 2 ^ 31 + k.val) := by
  unfold State.claimRead
  rw [is, free]

theorem State.claimRead_held (is : nodeKeeper node = some k) (held : Sparse.get none s.claims c.val = some j) :
    s.claimRead node c.val = (s, (if k = j then 2 ^ 31 else 0) + j.val) := by
  unfold State.claimRead
  rw [is, held]
  by_cases same : k = j
  · simp [same, b2n]
  · simp [same, b2n]

/-- A node that is no Keeper reads a holder, and takes and frees nothing. -/
theorem State.claimRead_other (is : nodeKeeper node = none) : ∃ v, v < 4 ∧ s.claimRead node c.val = (s, v) := by
  unfold State.claimRead
  rw [is]
  cases Sparse.get none s.claims c.val with
  | none => exact ⟨0, by decide, rfl⟩
  | some j => exact ⟨j.val, j.isLt, rfl⟩

theorem State.claimFree_other (is : nodeKeeper node = none) : s.claimFree node c.val = s := by
  unfold State.claimFree
  rw [is]

theorem State.claimFree_held (is : nodeKeeper node = some k) (held : Sparse.get none s.claims c.val = some k) :
    s.claimFree node c.val = { s with claims := Sparse.set none s.claims c.val none } := by
  unfold State.claimFree
  rw [is, held]
  exact if_pos rfl

theorem State.claimFree_apart (is : nodeKeeper node = some k) (apart : Sparse.get none s.claims c.val ≠ some k) : s.claimFree node c.val = s := by
  unfold State.claimFree
  rw [is]
  cases held : Sparse.get none s.claims c.val with
  | none => rfl
  | some j => exact if_neg fun same => apart (held.trans (congrArg some same.symm))

/-! ### Watchdogs (R355) -/

theorem State.wdRestart_keeper {b : Bool} : (s.wdRestart k b).keeper k = { s.keeper k with wdStage2 := b, wdLeft := s.wdFull k } ∧
    ∀ i, i ≠ k → (s.wdRestart k b).keeper i = s.keeper i := by
  unfold State.wdRestart
  refine ⟨?_, fun i other => ?_⟩
  · rw [State.keeper_modKeeper, if_pos rfl]
  · rw [State.keeper_modKeeper, if_neg other]

/-- The warning's state before the count begins anew: WARN set and its source raised. -/
def State.wdWarned (k : Fin 4) (s : State) : State := (s.setRegField (wdAddr k 8) 31 1 1).raiseP (20 + k.val)

theorem canonReg_wdAddr (o : Nat) : canonReg (wdAddr k o) = wdAddr k o :=
  canonReg_of_ge (by unfold wdAddr kprBase; omega)

theorem State.wdWarned_kept : (s.wdWarned k).wdFull k = s.wdFull k ∧ ((s.wdWarned k).reg (wdAddr k 8)).getLsbD 31 = true ∧
    (s.power.hub = true → (s.wdWarned k).dic.pend.getLsbD (20 + k.val) = true) ∧ ∀ p, (s.wdWarned k).cpu p = s.cpu p := by
  have only := State.raiseP_only (s := s.setRegField (wdAddr k 8) 31 1 1) (n := 20 + k.val)
  refine ⟨?_, ?_, fun hub => State.raiseP_pend hub (by omega), fun p => (only.cpu p).trans ?_⟩
  · have same : (s.wdWarned k).regN (wdAddr k 0) = s.regN (wdAddr k 0) := by
      rw [State.regN, State.wdWarned, only.reg]
      refine State.regN_setReg_of_ne ?_
      rw [canonReg_wdAddr, canonReg_wdAddr]
      unfold wdAddr
      omega
    rw [State.wdFull, same, State.wdFull]
  · rw [State.wdWarned, only.reg, State.setRegField, State.reg_setReg, if_pos rfl, BitVec.getLsbD_ofNat, mergeBits_testBit]
    rfl
  · cases p <;> rfl

theorem State.wdWarn_kept (en : s.wdEn k = true) (first : (s.keeper k).wdStage2 = false) (done : (s.keeper k).wdLeft = 0) :
    ∃ t, exec (.watchdogWarn k) s = .next t ∧ (t.keeper k).wdStage2 = true ∧ (t.keeper k).wdLeft = s.wdFull k ∧
      (t.reg (wdAddr k 8)).getLsbD 31 = true ∧ (s.power.hub = true → t.dic.pend.getLsbD (20 + k.val) = true) ∧
      ∀ p : Cpu, t.cpu p = s.cpu p := by
  have is : exec (.watchdogWarn k) s = .next ((s.wdWarned k).wdRestart k true) :=
    congrArg Host.Outcome.next (if_pos (by rw [en, first, done]; rfl))
  obtain ⟨full, bit, pend, cpu⟩ := State.wdWarned_kept (s := s) (k := k)
  obtain ⟨own, others⟩ := State.wdRestart_keeper (s := s.wdWarned k) (k := k) (b := true)
  refine ⟨_, is, ?_, ?_, bit, pend, fun p => Eq.trans ?_ (cpu p)⟩
  · rw [own]
  · rw [own, full]
  · cases p with
    | session c => rfl
    | keeper i =>
      by_cases same : i = k
      · subst same
        rw [State.cpu, own]
        rfl
      · rw [State.cpu, others i same]
        rfl

/-! ### Claims and completions of the interrupt controller (R372, R373, R376) -/

variable {d : Fin 8}

/-- A source taken into service by a target. -/
def Dic.serve (t b : Nat) (d : Dic) : Dic :=
  { d with pend := d.pend &&& ~~~(1#512 <<< b), insvc := d.insvc ||| (1#512 <<< b), released := d.released &&& ~~~(1#512 <<< b)
           holder := Sparse.set 0 d.holder b (BitVec.ofNat 3 t) }

theorem State.dicClaim_kept (hub : s.power.hub = true) (some_ : s.dicBest d.val ≠ 0) (small : s.dicBest d.val < 512) :
    ∃ t, exec (.dicClaim d) s = .next t ∧ t.answer = BitVec.ofNat 64 (s.dicBest d.val) ∧
      t.dic.pend.getLsbD (s.dicBest d.val) = false ∧ t.dic.insvc.getLsbD (s.dicBest d.val) = true ∧
      Sparse.get 0 t.dic.holder (s.dicBest d.val) = BitVec.ofNat 3 d.val ∧ (∀ p : Cpu, t.cpu p = s.cpu p) ∧ t.mem = s.mem := by
  generalize best : s.dicBest d.val = b at some_ small ⊢
  have claim : s.dicClaim d.val = (({ s with dic := s.dic.serve d.val b } : State).dicSettle.dicAgain d.val true, b) := by
    unfold State.dicClaim
    dsimp only
    rw [best, if_neg some_]
    rfl
  have is : exec (.dicClaim d) s = .next ((s.dicClaim d.val).1.reply (s.dicClaim d.val).2) := congrArg Host.Outcome.next (if_pos hub)
  rw [claim] at is
  obtain ⟨again, dic⟩ := State.dicAgain_only (s := ({ s with dic := s.dic.serve d.val b } : State).dicSettle) (n := d.val) (b := true)
  have only := ((DicOnly.dic s _).trans State.dicSettle_only).trans again
  refine ⟨_, is, rfl, ?_, ?_, ?_, fun p => (Eq.trans ?_ (only.cpu p)), only.mem⟩
  · change (State.dicAgain d.val true _).dic.pend.getLsbD b = false
    rw [dic, State.dicSettle_dic]
    simp [Dic.serve, small]
  · change (State.dicAgain d.val true _).dic.insvc.getLsbD b = true
    rw [dic, State.dicSettle_dic]
    simp [Dic.serve, small]
  · change Sparse.get 0 (State.dicAgain d.val true _).dic.holder b = _
    rw [dic, State.dicSettle_dic]
    exact (Sparse.get_set ..).trans (if_pos rfl)
  · cases p <;> rfl

theorem State.dicLeave_kept (small : n < 512) : DicOnly s (s.dicLeave n) ∧ (s.dicLeave n).dic.insvc.getLsbD n = false ∧
    (s.dic.level.getLsbD n = true → (s.dicLeave n).dic.pend.getLsbD n = true) := by
  have clear : (s.dic.insvc &&& ~~~(1#512 <<< n)).getLsbD n = false := by simp [small]
  unfold State.dicLeave
  dsimp only
  split
  · obtain ⟨pend, insvc⟩ := State.dicPend_bits (s := { s with dic := { s.dic with
      insvc := s.dic.insvc &&& ~~~(1#512 <<< n), holder := Sparse.set 0 s.dic.holder n 0 } }) small
    refine ⟨(DicOnly.dic s _).trans State.dicPend_only, ?_, fun _ => pend⟩
    rw [insvc]
    exact clear
  · next low => exact ⟨.dic s _, clear, fun high => absurd high low⟩

theorem State.dicComplete_kept {m : BitVec 9} (hub : s.power.hub = true) (holds : s.dicHolds d.val m.toNat = true) :
    ∃ t, exec (.dicComplete d m) s = .next t ∧ t.dic.insvc.getLsbD m.toNat = false ∧
      (s.dic.level.getLsbD m.toNat = true → t.dic.pend.getLsbD m.toNat = true) ∧ (∀ p : Cpu, t.cpu p = s.cpu p) ∧ t.mem = s.mem := by
  have is : exec (.dicComplete d m) s = .next (((s.dicLeave m.toNat).dicSettle).dicAgain d.val (s.dicLine d.val)) :=
    congrArg Host.Outcome.next ((if_pos hub).trans (if_pos holds))
  obtain ⟨leave, insvc, pend⟩ := State.dicLeave_kept (s := s) m.isLt
  obtain ⟨again, dic⟩ := State.dicAgain_only (s := (s.dicLeave m.toNat).dicSettle) (n := d.val) (b := s.dicLine d.val)
  have only := (leave.trans State.dicSettle_only).trans again
  refine ⟨_, is, ?_, fun high => ?_, only.cpu, only.mem⟩
  · rw [dic, State.dicSettle_dic]
    exact insvc
  · rw [dic, State.dicSettle_dic]
    exact pend high

/-- The fire of a group (R374). -/
theorem State.groupFire_kept {g : Fin 64} (hub : s.power.hub = true) (due : s.groupDue g.val = true) :
    ∃ t, exec (.groupFire g) s = .next t ∧ t = { s with dic := t.dic, keepers := t.keepers } ∧ t.dic.pend = s.dic.pend ∧
      t.dic.released = s.dic.released ||| (s.dic.pend &&& s.groupMembers g.val) ∧
      Sparse.get 0 t.dic.gEvents g.val = 0 ∧ t.dic.gRunning.getLsbD g.val = false := by
  have is : exec (.groupFire g) s = .next (s.groupFire g.val).dicSettle := congrArg Host.Outcome.next (if_pos (by rw [hub, due]; rfl))
  have only : DicOnly s (s.groupFire g.val) := .dic s _
  refine ⟨_, is, (only.trans State.dicSettle_only).rest, ?_⟩
  rw [State.dicSettle_dic]
  refine ⟨rfl, rfl, (Sparse.get_set s.dic.gEvents g.val 0 g.val).trans (if_pos rfl), ?_⟩
  change (s.dic.gRunning &&& ~~~(1#64 <<< g.val)).getLsbD g.val = false
  simp

end

/-- Settles O46: each command by what it does to the claims, the count, or the controller's bits. -/
theorem keeperCommands : Obligations.KeeperCommands := by
  unfold Obligations.KeeperCommands
  intro s on
  refine ⟨fun k j c => ?_, fun node c other => ?_, fun k v => ⟨fun en key => ?_, fun no => ?_⟩, fun k en first done => State.wdWarn_kept en first done,
    fun hub => ⟨fun n => ⟨fun none_ => ?_, fun some_ => ⟨State.dicBest_lt, State.dicClaim_kept hub some_ State.dicBest_lt⟩⟩,
      fun n m => ⟨fun holds => State.dicComplete_kept hub holds, fun not_ => ?_⟩, fun m pos => ⟨fun edge => ?_, fun level => ?_⟩,
      fun g due => State.groupFire_kept hub due⟩⟩
  · have node := nodeKeeper_keeper k
    have own (x : Option (Fin 4)) : Sparse.get none (Sparse.set none s.claims c.val x) c.val = x := (Sparse.get_set ..).trans (if_pos rfl)
    have kept (x : Option (Fin 4)) (n : Nat) (other : n ≠ c.val) :
        Sparse.get none (Sparse.set none s.claims c.val x) n = Sparse.get none s.claims n := (Sparse.get_set ..).trans (if_neg other)
    refine ⟨fun free => ?_, fun held => ?_, fun held => ?_, fun apart => ?_⟩
    · have is := exec_claimRead (c := c) (node := 0x80 + BitVec.ofNat 8 k.val) on
      rw [State.claimRead_free node free] at is
      exact ⟨_, is, rfl, own (some k), kept (some k)⟩
    · rw [exec_claimRead on, State.claimRead_held node held]
      rfl
    · have is := exec_claimFree (c := c) (node := 0x80 + BitVec.ofNat 8 k.val) on
      rw [State.claimFree_held node held] at is
      exact ⟨_, is, rfl, own none, kept none⟩
    · rw [exec_claimFree on, State.claimFree_apart node apart]
  · obtain ⟨v, small, read⟩ := State.claimRead_other (s := s) (c := c) other
    have is := exec_claimRead (c := c) (node := node) on
    rw [read] at is
    refine ⟨_, is, rfl, ?_, ?_⟩
    · change (BitVec.ofNat 64 v).getLsbD 31 = false
      rw [BitVec.getLsbD_ofNat, Nat.testBit_lt_two_pow (Nat.lt_trans small (by decide)), Bool.and_false]
    · rw [exec_claimFree on, State.claimFree_other other]
  · have is : exec (.watchdogKick k v) s = .next (s.wdRestart k false) :=
      congrArg Host.Outcome.next ((if_neg on).trans (if_pos (by rw [en, key]; rfl)))
    exact ⟨_, is, rfl, State.wdRestart_keeper⟩
  · refine congrArg Host.Outcome.next ((if_neg on).trans (if_neg ?_))
    rcases no with off | wrong
    · rw [off]
      exact Bool.false_ne_true
    · simp [wrong]
  · have claim : s.dicClaim n.val = (s, 0) := by
      unfold State.dicClaim
      dsimp only
      rw [none_, if_pos rfl]
    refine (congrArg Host.Outcome.next (if_pos hub)).trans ?_
    rw [claim]
    rfl
  · refine congrArg Host.Outcome.next ((if_pos hub).trans (if_neg ?_))
    rw [not_]
    exact Bool.false_ne_true
  · have some_ : m.toNat ≠ 0 := fun zero => pos (BitVec.eq_of_toNat_eq zero)
    have is : exec (.dicSwset m) s = .next (s.raiseP m.toNat) := congrArg Host.Outcome.next ((if_pos hub).trans (if_neg (by
      rw [edge]
      have := m.isLt
      simp
      omega)))
    exact ⟨_, is, State.raiseP_pend hub m.isLt, State.raiseP_dic _⟩
  · exact congrArg Host.Outcome.next ((if_pos hub).trans (if_pos (.inr (.inr level))))

end Sys2Proof.Machine

/-! ## The Curator's operations, books and title table (R77, R78, R82, R83, R87, R438) -/
namespace Sys2Proof.Machine
open Sys2Proof Sys2Proof.Claims

/-! ### Frame records -/

section
variable {s t : State} {f g k n : Nat} {r : FrameRec}

theorem State.frame_setFrame : (s.setFrame f r).frame g = if g = f then r else s.frame g := by
  rw [State.frame, (State.setFrame_frames f r s).2, Sparse.get_set]
  rfl

theorem State.frame_modFrame {h : FrameRec → FrameRec} : (s.modFrame f h).frame g = if g = f then h (s.frame f) else s.frame g :=
  State.frame_setFrame

theorem State.frame_freeFrame : (s.freeFrame f).frame g = if g = f then FrameRec.free else s.frame g := State.frame_setFrame

/-- A frame's record changed leaves all but the records and the signals. -/
theorem State.setFrame_only : s.setFrame f r = { s with
    frames := (s.setFrame f r).frames, dic := (s.setFrame f r).dic, keepers := (s.setFrame f r).keepers } := by
  obtain ⟨d, ks, is⟩ := State.setFrame_rest (s := s) (f := f) r
  rw [is]

/-- A frame taken has the record given, and the others theirs. -/
theorem State.takeFrame_frame (taken : s.takeFrame k r = some (f, t)) : ∀ g, t.frame g = if g = f then r else s.frame g := by
  obtain ⟨f', -, same⟩ := Option.map_eq_some_iff.mp taken
  obtain ⟨rfl, rfl⟩ := Prod.mk.inj same
  exact fun g => State.frame_setFrame (s := s)

/-! ### The ends of Curator operations (R87) -/

/-- A register of the Curator. -/
theorem canonReg_curBase {o : Nat} (small : o < 0x1000) : canonReg (curBase + o) = curBase + o := by
  rw [curBase, canonReg, if_neg (by omega), if_neg (by omega)]

theorem State.curEnd_ends (small : n < 2 ^ 64) (code : k < 2 ^ 32) : operationEnds (s.curEnd k n) k n := by
  have canon (o : Nat) (h : o < 0x1000) := canonReg_curBase h
  unfold operationEnds State.curEnd
  simp only [State.regN_setReg, canonReg_curBase (o := 0x4C) (by decide), canonReg_curBase (o := 0x50) (by decide),
    canonReg_curBase (o := 0x54) (by decide), canonReg_curBase (o := 0x58) (by decide), canonReg_curBase (o := 0x5C) (by decide),
    Nat.add_left_cancel_iff]
  simp only [Nat.reduceEqDiff, if_false, if_true]
  omega

theorem State.curEnd_regsOnly : RegsOnly s (s.curEnd k n) :=
  ((((RegsOnly.setReg ..).trans (RegsOnly.setReg ..)).trans (RegsOnly.setReg ..)).trans (RegsOnly.setReg ..)).trans (RegsOnly.setReg ..)

theorem State.curArg_regsOnly : RegsOnly s (s.curArg n) := (RegsOnly.setReg ..).trans (RegsOnly.setReg ..)

theorem RegsOnly.frame (only : RegsOnly s t) (g : Nat) : t.frame g = s.frame g := by
  rw [only]
  rfl

/-- An operation's address leaves what its checks read. -/
theorem State.curArg_checks (a : Nat) : (s.curArg a).poolUsable k = s.poolUsable k ∧ (s.curArg a).freeCount k = s.freeCount k ∧
    (s.curArg a).poolReserve k = s.poolReserve k ∧ (s.curArg a).listed f = s.listed f ∧ (s.curArg a).frame g = s.frame g ∧
    (s.curArg a).frameAt n = s.frameAt n := by
  refine ⟨rfl, rfl, ?_, rfl, rfl, rfl⟩
  unfold State.poolReserve
  split
  · next vault =>
    have apart (o : Nat) (at_ : 0x40 ≤ o) (small : o < 0x1000) : canonReg (curBase + 0x10 + 4 * k) ≠ canonReg (curBase + o) := by
      rw [canonReg_curBase small, Nat.add_assoc, canonReg_curBase (by omega)]
      omega
    rw [State.curArg, State.regN_setReg_of_ne (apart _ (by decide) (by decide)), State.regN_setReg_of_ne (apart _ (by decide) (by decide))]
  · rfl

theorem FrameRec.bits_lt (r : FrameRec) : r.bits < 2 ^ 64 := by
  have pool := r.pool.isLt
  have shares := r.shares.isLt
  have bit (b : Bool) : b2n b ≤ 1 := by cases b <;> decide
  have title := bit r.title
  have grant := bit r.grant
  unfold FrameRec.bits
  cases r.copy with
  | none => dsimp only; omega
  | some e =>
    obtain ⟨d, x⟩ := e
    have die := bit d
    have frame := x.isLt
    dsimp only
    omega

/-- An operation that ends with a result and nothing done. -/
theorem curator_ends {i : Instr} {a c res : Nat} (is : exec i s = .next ((s.curArg a).curEnd c res)) (code : c < 2 ^ 32) (small : res < 2 ^ 64) :
    ∃ t, exec i s = .next t ∧ operationEnds t c res ∧ t = { s with regs := t.regs } :=
  ⟨_, is, State.curEnd_ends small code, State.curArg_regsOnly.trans State.curEnd_regsOnly⟩

/-! The four operations, by what their checks find. -/

theorem State.curAlloc_done (usable : s.poolUsable k = true) (room : s.poolReserve k < s.freeCount k) (pool : k < 5)
    (taken : s.takeFrame k { FrameRec.free with pool := 1, grant := true } = some (f, t)) : s.curAlloc k = t.curEnd 0 (4096 * f) := by
  rw [State.curAlloc, if_neg (by omega), if_pos (by rw [usable, decide_eq_true room]; rfl), taken]

theorem State.curAlloc_full (pool : k < 5) (full : s.poolUsable k = false ∨ s.freeCount k ≤ s.poolReserve k) :
    s.curAlloc k = s.curEnd 1 0 := by
  rw [State.curAlloc, if_neg (by omega), if_neg]
  rcases full with off | none_
  · rw [off]
    exact Bool.false_ne_true
  · rw [decide_eq_false (Nat.not_lt.mpr none_), Bool.and_false]
    exact Bool.false_ne_true

theorem State.curFree_done {a : Nat} (at_ : s.frameAt a = some f) (grant : (s.frame f).grant = true) (free : s.listed f = false) :
    s.curFree a = ((s.freeCopies f).freeFrame f).curEnd 0 0 := by
  unfold State.curFree
  rw [at_]
  exact if_pos (by rw [grant, free]; rfl)

theorem State.curFree_refused {a : Nat} (at_ : s.frameAt a = some f) (no : (s.frame f).grant = false ∨ s.listed f = true) :
    s.curFree a = s.curEnd 2 0 := by
  unfold State.curFree
  rw [at_]
  refine if_neg ?_
  rcases no with no | no <;> simp [no]

theorem State.curRetire_done {a : Nat} {p : Fin 4} (at_ : s.frameAt a = some f) (yes : (s.frame f).grant = true ∨ (s.frame f).pool = 0) :
    s.curRetire p a = ((s.dropFrame f).retireRecord f 0xFF (0x80 + p.val)).curEnd 0 0 := by
  unfold State.curRetire
  rw [at_]
  refine if_pos ?_
  rcases yes with yes | yes <;> simp [yes]

theorem State.curRetire_refused {a : Nat} {p : Fin 4} (at_ : s.frameAt a = some f) (grant : (s.frame f).grant = false)
    (pool : (s.frame f).pool ≠ 0) : s.curRetire p a = s.curEnd 3 0 := by
  unfold State.curRetire
  rw [at_]
  refine if_neg ?_
  rw [grant, Bool.false_or, decide_eq_true_eq]
  exact pool

/-- A retired frame's record, the others as they were (R85). -/
theorem State.dropFrame_frame {row node : Nat} (g : Nat) :
    ((s.dropFrame f).retireRecord f row node).frame g = if g = f then FrameRec.retired else s.frame g := by
  have record : ((s.dropFrame f).retireRecord f row node).frame g = (s.dropFrame f).frame g := by
    rw [State.retireRecord, State.offer_offers.rest]
    rfl
  exact record.trans State.frame_setFrame

end

theorem curatorOperationsRule_kept : curatorOperationsRule := by
  unfold curatorOperationsRule
  intro s a k up
  have alloc (p : Fin 8) : exec (.alloc p) s = .next ((s.curArg p.val).curAlloc p.val) := congrArg Host.Outcome.next (if_pos up)
  have free : exec (.free a) s = .next ((s.curArg a.toNat).curFree a.toNat) := congrArg Host.Outcome.next (if_pos up)
  have retire : exec (.retireOperation k a) s = .next ((s.curArg a.toNat).curRetire k a.toNat) := congrArg Host.Outcome.next (if_pos up)
  have query : exec (.query a) s = .next ((s.curArg a.toNat).curQuery a.toNat) := congrArg Host.Outcome.next (if_pos up)
  refine ⟨fun p low => ⟨fun f s1 usable room small taken => ?_, fun full => ?_⟩, fun p high => ?_, fun none_ i mem => ?_, fun f at_ => ?_⟩
  · obtain ⟨usable', count, reserve, -⟩ := State.curArg_checks (s := s) (k := p.val) (f := 0) (g := 0) (n := 0) p.val
    have is := alloc p
    rw [State.curAlloc_done (usable'.trans usable) (by rw [count, reserve]; exact room) low taken] at is
    refine ⟨_, is, State.curEnd_ends (by omega) (by decide), ?_, fun g other => ?_⟩
    · rw [State.curEnd_regsOnly.frame, State.takeFrame_frame taken, if_pos rfl]
    · rw [State.curEnd_regsOnly.frame, State.takeFrame_frame taken, if_neg other]
      rfl
  · obtain ⟨usable', count, reserve, -⟩ := State.curArg_checks (s := s) (k := p.val) (f := 0) (g := 0) (n := 0) p.val
    have is := alloc p
    rw [State.curAlloc_full low (by rw [usable', count, reserve]; exact full)] at is
    exact curator_ends is (by decide) (by decide)
  · have is := alloc p
    rw [State.curAlloc, if_pos high] at is
    exact curator_ends is (by decide) (by decide)
  · have at_ : (s.curArg a.toNat).frameAt a.toNat = none := none_
    simp only [List.mem_cons, List.not_mem_nil, or_false] at mem
    rcases mem with rfl | rfl | rfl
    · rw [State.curFree, at_] at free
      exact curator_ends free (by decide) (by decide)
    · rw [State.curRetire, at_] at retire
      exact curator_ends retire (by decide) (by decide)
    · rw [State.curQuery, at_] at query
      exact curator_ends query (by decide) (by decide)
  · have at_' : (s.curArg a.toNat).frameAt a.toNat = some f := at_
    refine ⟨fun grant free_ => ?_, fun no => ?_, fun yes => ?_, fun grant pool => ?_, ?_⟩
    · rw [State.curFree_done at_' grant free_] at free
      refine ⟨_, free, State.curEnd_ends (by decide) (by decide), ?_⟩
      rw [State.curEnd_regsOnly.frame, State.frame_freeFrame, if_pos rfl]
    · rw [State.curFree_refused at_' no] at free
      exact curator_ends free (by decide) (by decide)
    · rw [State.curRetire_done at_' yes] at retire
      refine ⟨_, retire, State.curEnd_ends (by decide) (by decide), ?_, fun g other => ?_⟩
      · rw [State.curEnd_regsOnly.frame, State.dropFrame_frame, if_pos rfl]
      · rw [State.curEnd_regsOnly.frame, State.dropFrame_frame, if_neg other]
        rfl
    · rw [State.curRetire_refused at_' grant pool] at retire
      exact curator_ends retire (by decide) (by decide)
    · rw [State.curQuery, at_'] at query
      exact curator_ends query (by decide) (FrameRec.bits_lt _)

/-! ### Books and the quarantine FIFO (R82, R83, R438) -/

section
variable {s : State} {j k n : Nat}

/-- One pool's latched counts (R83). -/
def poolBook (s : State) (k i : Nat) : Nat := s.regN (curBase + 0x110 + 0x10 * k + 4 * i)

theorem State.snapPool_regsOnly : RegsOnly s (s.snapPool k) :=
  (((RegsOnly.setReg ..).trans (RegsOnly.setReg ..)).trans (RegsOnly.setReg ..)).trans (RegsOnly.setReg ..)

/-- The four counts of a pool, in the order of its book. -/
def State.poolCounts (s : State) (k : Nat) : List Nat := [s.freeCount k, s.residentCount k, s.inflightCount k, s.totalCount k]

theorem poolBook_snapPool {i : Nat} (four : i < 4) (pool : k < 5) (of : j < 5) :
    poolBook (s.snapPool j) k i = if j = k then (s.poolCounts j).getD i 0 % 2 ^ 32 else poolBook s k i := by
  have canon {j i : Nat} (hj : j < 5) (hi : i < 4) : canonReg (curBase + 0x110 + 0x10 * j + 4 * i) = curBase + 0x110 + 0x10 * j + 4 * i := by
    rw [Nat.add_assoc, Nat.add_assoc, canonReg_curBase (by omega)]
  have c0 := canon (i := 0) of (by decide)
  have c1 := canon (i := 1) of (by decide)
  have c2 := canon (i := 2) of (by decide)
  have c3 := canon (i := 3) of (by decide)
  simp only [poolBook, State.snapPool, State.regN_setReg, canon pool four]
  simp only [Nat.mul_zero, Nat.add_zero, Nat.mul_one, Nat.reduceMul] at c0 c1 c2 c3
  rw [c0, c1, c2, c3]
  unfold State.poolCounts
  by_cases same : j = k
  · subst same
    rw [if_pos rfl]
    obtain rfl | rfl | rfl | rfl : i = 0 ∨ i = 1 ∨ i = 2 ∨ i = 3 := by omega
    · rw [if_neg (by omega), if_neg (by omega), if_neg (by omega), if_pos (by omega)]
      rfl
    · rw [if_neg (by omega), if_neg (by omega), if_pos (by omega)]
      rfl
    · rw [if_neg (by omega), if_pos (by omega)]
      rfl
    · rw [if_pos (by omega)]
      rfl
  · rw [if_neg (by omega), if_neg (by omega), if_neg (by omega), if_neg (by omega), if_neg same]

theorem RegsOnly.poolCounts {t : State} (only : RegsOnly s t) : t.poolCounts k = s.poolCounts k := by
  obtain ⟨x, rfl⟩ : ∃ x, t = { s with regs := x } := ⟨_, only⟩
  rfl

/-- Pools latched one after another keep the counts of the state before. -/
theorem State.snapPools_kept (l : List Nat) (within : ∀ j ∈ l, j < 5) : ∀ s : State,
    RegsOnly s (l.foldl (fun (s : State) k => s.snapPool k) s) ∧ ∀ k i, i < 4 → k < 5 →
      poolBook (l.foldl (fun (s : State) k => s.snapPool k) s) k i = if k ∈ l then (s.poolCounts k).getD i 0 % 2 ^ 32 else poolBook s k i := by
  induction l with
  | nil => exact fun s => ⟨rfl, fun _ _ _ _ => (if_neg List.not_mem_nil).symm⟩
  | cons j l ih =>
    intro s
    obtain ⟨rest, books⟩ := ih (fun i mem => within i (List.mem_cons_of_mem _ mem)) (s.snapPool j)
    have first : RegsOnly s (s.snapPool j) := State.snapPool_regsOnly
    refine ⟨first.trans rest, fun k i four pool => (books k i four pool).trans ?_⟩
    rw [first.poolCounts, poolBook_snapPool four pool (within j List.mem_cons_self)]
    by_cases later : k ∈ l
    · rw [if_pos later, if_pos (List.mem_cons_of_mem _ later)]
    · rw [if_neg later]
      by_cases same : j = k
      · subst same
        rw [if_pos rfl, if_pos List.mem_cons_self]
      · rw [if_neg same, if_neg (by simp [later, Ne.symm same])]

/-- A pool's TOTAL fits its register. -/
theorem State.totalCount_lt : s.totalCount k < 2 ^ 32 := by
  have size : poolSize s.part k < 2 ^ 32 := by
    have vault : vaultFrames s.part < 2 ^ 32 := by cases s.part <;> decide
    unfold poolSize
    split
    · exact vault
    split
    · decide
    split <;> decide
  unfold State.totalCount
  split
  · omega
  · decide

theorem curatorReadsRule_kept : curatorReadsRule := by
  unfold curatorReadsRule
  intro s up
  refine ⟨⟨s.curSnap, congrArg Host.Outcome.next (if_pos up), (State.snapPools_kept _ (by decide) s).1, fun k pool fits => ?_⟩,
    fun v l is => ?_, fun is => ?_⟩
  · have book (i : Nat) (four : i < 4) : poolBook s.curSnap k i = (s.poolCounts k).getD i 0 % 2 ^ 32 := by
      refine ((State.snapPools_kept [0, 1, 2, 3, 4] (by decide) s).2 k i four pool).trans (if_pos ?_)
      simp
      omega
    have total := State.totalCount_lt (s := s) (k := k)
    have free : s.freeCount k = s.totalCount k - s.residentCount k - s.inflightCount k := rfl
    have b0 := book 0 (by decide)
    have b1 := book 1 (by decide)
    have b2 := book 2 (by decide)
    have b3 := book 3 (by decide)
    simp only [poolBook, State.poolCounts, List.getD_cons_zero, List.getD_cons_succ, Nat.mul_zero, Nat.add_zero, Nat.mul_one,
      Nat.reduceMul] at b0 b1 b2 b3
    dsimp only
    rw [b0, b1, b2, b3]
    omega
  · have read : s.quarRead = (if l.isEmpty then State.setLevel 32 false { s with quarFifo := l } else { s with quarFifo := l }, v.toNat) := by
      unfold State.quarRead
      rw [is]
    have run : exec .quarantineRecordRead s = .next (s.quarRead.1.reply s.quarRead.2) := congrArg Host.Outcome.next (if_pos up)
    rw [read] at run
    refine ⟨_, run, ?_⟩
    dsimp only [State.reply]
    rw [BitVec.ofNat_toNat]
    split
    · conv_lhs => rw [(State.setLevel_level 32 false (by decide)).2]
    · rfl
  · have run : exec .quarantineRecordRead s = .next (s.quarRead.1.reply s.quarRead.2) := congrArg Host.Outcome.next (if_pos up)
    rw [State.quarRead, is] at run
    exact run

end

/-! ### Titles (R77, R78) -/

section
variable {s t u : State} {n : BitVec 16}

/-- Of a state at most titles, frame records and signals differ. -/
def TitlesOnly (s t : State) : Prop :=
  t = { s with titles := t.titles, frames := t.frames, dic := t.dic, keepers := t.keepers }

theorem TitlesOnly.trans (a : TitlesOnly s t) (b : TitlesOnly t u) : TitlesOnly s u := by
  unfold TitlesOnly at a b ⊢
  rw [b, a]

theorem TitlesOnly.setFrame {f : Nat} {r : FrameRec} : TitlesOnly s (s.setFrame f r) := by
  obtain ⟨d, ks, is⟩ := State.setFrame_rest (s := s) (f := f) r
  rw [is]
  rfl

theorem TitlesOnly.foldFrames {α : Type} {f : α → Nat} {g : FrameRec → FrameRec} (l : List α) :
    ∀ s : State, TitlesOnly s (l.foldl (fun (s : State) x => s.modFrame (f x) g) s) := by
  induction l with
  | nil => exact fun _ => rfl
  | cons x l ih => exact fun s => TitlesOnly.setFrame.trans (ih _)

theorem State.setTitle_only {x : Title} : TitlesOnly s (s.setTitle n x) := rfl

theorem State.titleOf_setTitle {x : Title} {m : BitVec 16} : (s.setTitle n x).titleOf m = if m = n then x else s.titleOf m := by
  unfold State.titleOf State.setTitle
  dsimp only
  rw [Sparse.get_set]
  by_cases same : m = n
  · rw [if_pos same, if_pos (congrArg BitVec.toNat same)]
  · rw [if_neg same, if_neg fun eq => same (BitVec.eq_of_toNat_eq eq)]

/-- An entry with users takes no write (R78). -/
theorem State.commitTitle_used {k v : Nat} (used : s.titleUsers n.toNat ≠ []) : s.commitTitle n k v = s := by
  unfold State.commitTitle
  refine if_pos ?_
  rw [Bool.not_eq_true', List.isEmpty_eq_false_iff]
  exact used

theorem State.commitTitle_list {v : Nat} (free : s.titleUsers n.toNat = []) :
    s.commitTitle n 1 v = s.setTitle n { s.titleOf n with list := BitVec.ofNat 48 v } := by
  unfold State.commitTitle
  rw [free]
  rfl

/-- The entry that a write of word 0 with STATE READY is judged by. -/
def Title.emptied (x : Title) (v : Nat) : Title :=
  { x with state := 0, frames := [], cPages := BitVec.ofNat 16 (v / 2 ^ 16), dPages := BitVec.ofNat 16 v }

theorem State.releaseTitle_titleOf : (s.releaseTitle n).titleOf n = { s.titleOf n with state := 0, frames := [] } := by
  unfold State.releaseTitle
  rw [State.titleOf_setTitle, if_pos rfl]

theorem State.releaseTitle_only : TitlesOnly s (s.releaseTitle n) := (TitlesOnly.foldFrames _ s).trans State.setTitle_only

theorem State.commitTitle_ready {v : Nat} (free : s.titleUsers n.toNat = []) (ready : v / 2 ^ 62 % 4 = 1) :
    s.commitTitle n 0 v = ((s.releaseTitle n).setTitle n ((s.titleOf n).emptied v)).readyTitle n := by
  unfold State.commitTitle
  rw [free]
  dsimp only
  rw [ready, State.releaseTitle_titleOf]
  rfl

theorem State.readyTitle_passes {x : Title} {l : List Nat} (is : s.titleOf n = x) (check : s.titleCheck x = some l) :
    s.readyTitle n = (l.foldl (fun (s : State) f => s.modFrame f (fun r => { r with title := true })) s).setTitle n
      { x with state := 1, frames := l.map (BitVec.ofNat 25) } := by
  unfold State.readyTitle
  dsimp only
  rw [is, check]

theorem State.readyTitle_fails {x : Title} (is : s.titleOf n = x) (check : s.titleCheck x = none) : s.readyTitle n = s.raiseP 11 := by
  unfold State.readyTitle
  dsimp only
  rw [is, check]

/-- Frames marked as a title's, whatever others are marked later. -/
theorem State.titleFrames_marked (l : List Nat) : ∀ s : State, ∀ f, f ∈ l ∨ (s.frame f).title = true →
    ((l.foldl (fun (s : State) f => s.modFrame f (fun r => { r with title := true })) s).frame f).title = true := by
  induction l with
  | nil => exact fun s f marked => marked.elim (fun mem => absurd mem List.not_mem_nil) id
  | cons g l ih =>
    intro s f marked
    refine ih _ f ?_
    by_cases same : f = g
    · right
      rw [State.frame_modFrame, if_pos same]
    · refine marked.imp (fun mem => (List.mem_cons.mp mem).resolve_left same) fun old => ?_
      rw [State.frame_modFrame, if_neg same]
      exact old

theorem exec_titleEntryWrite {node : Byte} {k : Fin 2} {w : BitVec 64} (on : s.power.mode ≠ .off) :
    exec (.titleEntryWrite node n k (.whole w)) s = .next (s.commitTitle n k.val w.toNat) :=
  congrArg Host.Outcome.next (if_neg on)

end

theorem titleRule_kept : titleRule := by
  unfold titleRule
  intro node n s on
  refine ⟨fun k w used => ?_, fun free => ⟨fun w => ?_, fun w ready => ?_⟩⟩
  · rw [exec_titleEntryWrite on, State.commitTitle_used used]
  · have is := exec_titleEntryWrite (node := node) (n := n) (k := 1) (w := w) on
    have list : s.commitTitle n (1 : Fin 2).val w.toNat = _ := State.commitTitle_list free
    rw [list] at is
    refine ⟨_, is, rfl, ?_, fun m other => ?_⟩
    · rw [State.titleOf_setTitle, if_pos rfl, BitVec.ofNat_toNat]
    · rw [State.titleOf_setTitle, if_neg other]
  · have is := exec_titleEntryWrite (node := node) (n := n) (k := 0) (w := w) on
    have two : w.toNat / 2 ^ 62 % 4 = 1 := by
      have bits := congrArg BitVec.toNat ready
      rwa [BitVec.extractLsb'_toNat, Nat.shiftRight_eq_div_pow] at bits
    have run : s.commitTitle n (0 : Fin 2).val w.toNat = _ := State.commitTitle_ready free two
    have part (a b : Nat) : BitVec.ofNat b (w.toNat / 2 ^ a) = w.extractLsb' a b := by
      rw [← Nat.shiftRight_eq_div_pow]
      rfl
    have entry : (s.titleOf n).emptied w.toNat =
        { s.titleOf n with state := 0, frames := [], cPages := w.extractLsb' 16 16, dPages := w.extractLsb' 0 16 } := by
      rw [Title.emptied, part 16 16, ← part 0 16, Nat.pow_zero, Nat.div_one]
    rw [run, entry] at is
    intro x z
    have own : z.titleOf n = x := State.titleOf_setTitle.trans (if_pos rfl)
    have put : TitlesOnly s z := State.releaseTitle_only.trans State.setTitle_only
    refine ⟨fun l check => ?_, fun check => ?_⟩
    · have made := State.readyTitle_passes own check
      have only : TitlesOnly s (z.readyTitle n) := by
        rw [made]
        exact put.trans ((TitlesOnly.foldFrames l z).trans State.setTitle_only)
      refine ⟨z.readyTitle n, is, ?_, fun f mem => ?_, ?_, ?_⟩
      · rw [made, State.titleOf_setTitle, if_pos rfl]
      · rw [made]
        exact State.titleFrames_marked l z f (.inl mem)
      · rw [only]
      · rw [only]
    · have failed := State.readyTitle_fails own check
      refine ⟨z.readyTitle n, is, ?_, fun hub => ?_, ?_, ?_⟩
      · rw [failed, State.raiseP_dic]
        exact own
      · rw [failed]
        refine State.raiseP_pend ?_ (by decide)
        rw [put]
        exact hub
      · rw [failed, State.raiseP_dic, put]
      · rw [failed, State.raiseP_dic, put]

/-- Settles O42: what the checks of an operation find decides its end; a latched book is the four counts; a title made ready marks its
list's frames. -/
theorem curatorOperations : Obligations.CuratorOperations := ⟨curatorOperationsRule_kept, curatorReadsRule_kept, titleRule_kept⟩

end Sys2Proof.Machine

/-! ## What outlives a power loss (R421 to R432)

An offered record reaches of the RRAM no more than the log's ring, so a queued write's effects on the NV registers stand apart from the
records it may raise. -/
namespace Sys2Proof.Machine
open Sys2Proof Sys2Proof.Claims

section
variable {s t : State} {n : Nat} {v : Reg32}

/-! ### What an offered record leaves of the RRAM (R428) -/

/-- Of the RRAM at most the ring differs. -/
def RingOnly (s t : State) : Prop := t.rram = { s.rram with ring := t.rram.ring }

theorem State.raiseP_rram (n : Nat) : (s.raiseP n).rram = s.rram := by rw [State.raiseP_dic]

theorem State.alogStart_ring : RingOnly s s.alogStart := by
  unfold RingOnly State.alogStart
  split <;> rfl

theorem State.alogLose_rram : s.alogLose.rram = s.rram := State.raiseP_rram 34

theorem State.offer_ring {code : Word} {origin : Byte} {body : List Byte} : RingOnly s (s.offer code origin body) := by
  unfold State.offer
  dsimp only
  split
  · split
    · rw [RingOnly, State.alogLose_rram]
    · exact State.alogStart_ring
  · split
    · rw [RingOnly, State.alogLose_rram]
    · exact rfl

theorem RingOnly.nv (only : RingOnly s t) (m : Nat) : t.nv m = s.nv m := by
  rw [State.nv, only, State.nv]

/-! ### NV registers (R421 to R425) -/

/-- The NV register and its wear after an accepted write. -/
def Rram.nvPut (n : Nat) (v : Reg32) (r : Rram) : Rram :=
  { r with nvShadow := Sparse.set 0 r.nvShadow n v
           nvWear := Sparse.set 0 r.nvWear n (BitVec.ofNat 32 (min 0xFFFFFFFF ((Sparse.get 0 r.nvWear n).toNat + 1))) }

theorem State.nvTake_eq : s.nvTake n v =
    if (Sparse.get 0 s.rram.nvWear n).toNat = nvEndurance then
      (({ s with rram := s.rram.nvPut n v } : State).offer 0x0060 5 (bytesBE 2 n)).raiseP 35
    else { s with rram := s.rram.nvPut n v } := rfl

theorem State.nvTake_ring : RingOnly { s with rram := s.rram.nvPut n v } (s.nvTake n v) := by
  rw [State.nvTake_eq]
  split
  · rw [RingOnly, State.raiseP_rram]
    exact State.offer_ring
  · exact rfl

theorem State.nvTake_nv (m : Nat) : (s.nvTake n v).nv m = if m = n then v else s.nv m := by
  rw [State.nvTake_ring.nv]
  exact Sparse.get_set ..

theorem Rram.nvPut_wear (r : Rram) : (Sparse.get 0 (r.nvPut n v).nvWear n).toNat = min 0xFFFFFFFF ((Sparse.get 0 r.nvWear n).toNat + 1) := by
  rw [Rram.nvPut, Sparse.get_set, if_pos rfl, BitVec.toNat_ofNat]
  omega

theorem State.offer_hub {code : Word} {origin : Byte} {body : List Byte} : (s.offer code origin body).power = s.power := by
  rw [State.offer_offers.rest]

theorem nvMayWrite_iff {node : Byte} {rom : Bool} : nvMayWrite node rom n = true ↔ nvAllowed node rom n := by
  unfold nvMayWrite nvAllowed isKeeperNode
  split
  case isTrue low => simp only [Bool.and_eq_true, beq_iff_eq, low, forall_const, Nat.not_le.2 low, false_imp_iff, and_true]
  case isFalse high => simp only [high, false_imp_iff, true_and, Nat.not_lt.1 high, forall_const]

theorem State.nvOffer_taken (room : s.rram.nvQueue.length < 16) : s.nvOffer n v =
    ({ s with rram := { s.rram with nvQueue := s.rram.nvQueue ++ [(n, v, 0)] } } : State).nvTake n v := if_pos room

theorem State.nvOffer_held (full : 16 ≤ s.rram.nvQueue.length) : s.nvOffer n v =
    { s with rram := { s.rram with nvQueue := s.rram.nvQueue ++ [(n, v, 0)] } } := if_neg (Nat.not_lt.2 full)

theorem exec_nvrWrite {node : Byte} {rom : Bool} {m : BitVec 9} (on : s.power.mode ≠ .off) (may : nvAllowed node rom m.toNat) :
    exec (.nvrWrite node rom m v) s = .next (s.nvOffer m.toNat v) :=
  congrArg Host.Outcome.next (if_pos (by rw [bne_iff_ne.2 on, nvMayWrite_iff.2 may]; rfl))

theorem exec_nvrWrite_refused {node : Byte} {rom : Bool} {m : BitVec 9} (no : ¬ nvAllowed node rom m.toNat) :
    exec (.nvrWrite node rom m v) s = .next s :=
  congrArg Host.Outcome.next (if_neg fun yes => no (nvMayWrite_iff.1 (Bool.and_eq_true_iff.1 yes).2))

theorem exec_nvrCommit {ok : Bool} (on : s.power.mode ≠ .off) : exec (.nvrCommit ok) s = .next (s.nvCommit ok) :=
  congrArg Host.Outcome.next (if_neg on)

/-- A write that the queue takes (R422, R424). -/
theorem State.nvTake_kept (n : Nat) (v : Reg32) : (s.nvTake n v).rram.nvQueue = s.rram.nvQueue ∧
    (s.nvTake n v).nv n = v ∧ (∀ m, m ≠ n → (s.nvTake n v).nv m = s.nv m) ∧
    (Sparse.get 0 (s.nvTake n v).rram.nvWear n).toNat = min 0xFFFFFFFF ((Sparse.get 0 s.rram.nvWear n).toNat + 1) ∧
    ((Sparse.get 0 s.rram.nvWear n).toNat = 100000 → s.power.hub = true → (s.nvTake n v).dic.pend.getLsbD 35 = true) ∧
    ((Sparse.get 0 s.rram.nvWear n).toNat ≠ 100000 → s.nvTake n v = { s with rram := (s.nvTake n v).rram }) := by
  refine ⟨?_, ?_, fun m other => ?_, ?_, fun worn hub => ?_, fun fresh => ?_⟩
  · rw [State.nvTake_ring]
    rfl
  · rw [State.nvTake_nv, if_pos rfl]
  · rw [State.nvTake_nv, if_neg other]
  · rw [State.nvTake_ring]
    exact Rram.nvPut_wear (v := v) _
  · rw [State.nvTake_eq, nvEndurance, if_pos worn]
    exact State.raiseP_pend (by rw [State.offer_hub]; exact hub) (by decide)
  · rw [State.nvTake_eq, nvEndurance, if_neg fresh]

/-! ### The commit of the oldest write (R422, R425) -/

variable {age : Nat} {q : List (Nat × Reg32 × Nat)}

/-- The oldest write verified. -/
def State.nvStored (n : Nat) (v : Reg32) (q : List (Nat × Reg32 × Nat)) (s : State) : State :=
  { s with rram := { s.rram with nvQueue := q, nvCommitted := Sparse.set 0 s.rram.nvCommitted n v } }

/-- The oldest write given up. -/
def State.nvFailed (n : Nat) (q : List (Nat × Reg32 × Nat)) (s : State) : State :=
  ((({ s with rram := { s.rram with nvQueue := q } } : State).countReg (nvrBase + 0x1004) 1).offer 0x0061 5 (bytesBE 2 n)).raiseP 36

theorem State.nvCommit_good (is : s.rram.nvQueue = (n, v, age) :: q) (short : q.length ≤ 15) :
    s.nvCommit true = s.nvStored n v q := by
  unfold State.nvCommit
  rw [is]
  dsimp only
  rw [List.drop_eq_nil_of_le short]
  rfl

theorem State.nvCommit_bad (is : s.rram.nvQueue = (n, v, age) :: q) (short : q.length ≤ 15) :
    s.nvCommit false = s.nvFailed n q := by
  unfold State.nvCommit
  rw [is]
  dsimp only
  rw [List.drop_eq_nil_of_le short]
  rfl

theorem State.nvCommit_next {n' age' : Nat} {v' : Reg32} {l : List (Nat × Reg32 × Nat)} (is : s.rram.nvQueue = (n, v, age) :: q)
    (next : q.drop 15 = (n', v', age') :: l) : s.nvCommit true = (s.nvStored n v q).nvTake n' v' := by
  unfold State.nvCommit
  rw [is]
  dsimp only
  rw [next]
  rfl

theorem State.nvFailed_rram : (s.nvFailed n q).rram.nvQueue = q ∧ (s.nvFailed n q).rram.nvCommitted = s.rram.nvCommitted := by
  unfold State.nvFailed
  rw [State.raiseP_rram, State.offer_ring]
  exact ⟨rfl, rfl⟩

theorem State.nvFailed_count : (s.nvFailed n q).regN (nvrBase + 0x1004) = min 0xFFFFFFFF (s.regN (nvrBase + 0x1004) + 1) := by
  have apart : canonReg (nvrBase + 0x1004) ≠ alogBase + 8 := by decide
  rw [State.nvFailed, State.regN, State.raiseP_only.reg, State.offer_offers.regs _ apart]
  refine (State.regN_setReg.trans (if_pos rfl)).trans ?_
  show min _ (s.regN _ + 1) % _ = _
  generalize s.regN (nvrBase + 0x1004) = x
  omega

theorem nvRule_kept : nvRule := by
  refine fun s on => ⟨fun node rom m v => ⟨fun may room => ?_, fun may full => ?_, fun no => exec_nvrWrite_refused no⟩,
    fun ok empty => ?_, fun n v age q is => ⟨fun short => ⟨?_, ?_⟩, fun n' v' age' l next => ?_⟩⟩
  · refine ⟨_, exec_nvrWrite on may, ?_⟩
    rw [State.nvOffer_taken room]
    exact State.nvTake_kept (s := { s with rram := { s.rram with nvQueue := s.rram.nvQueue ++ [(m.toNat, v, 0)] } }) m.toNat v
  · rw [exec_nvrWrite on may, State.nvOffer_held full]
  · rw [exec_nvrCommit on, State.nvCommit, empty]
  · refine ⟨_, exec_nvrCommit on, ?_⟩
    rw [State.nvCommit_good is short]
    refine ⟨rfl, rfl, ?_, fun _ => rfl, fun m other => ?_⟩
    · exact (Sparse.get_set ..).trans (if_pos rfl)
    · exact (Sparse.get_set ..).trans (if_neg other)
  · refine ⟨_, exec_nvrCommit on, ?_⟩
    rw [State.nvCommit_bad is short]
    exact ⟨State.nvFailed_rram.1, State.nvFailed_rram.2, State.nvFailed_count,
      fun hub => State.raiseP_pend (by rw [State.offer_hub]; exact hub) (by decide)⟩
  · refine ⟨_, exec_nvrCommit on, ?_⟩
    rw [State.nvCommit_next is next]
    obtain ⟨queue, reads, -⟩ := State.nvTake_kept (s := s.nvStored n v q) n' v'
    exact ⟨queue, reads⟩

/-! ### The write ports (R426, R432) -/

variable {k : Fin 4} {ctrl : Nat}

theorem canonReg_alogPort (o : Nat) : canonReg (alogPort k o) = alogPort k o :=
  canonReg_of_ge (by unfold alogPort alogBase; omega)

theorem State.writeReg_regsOnly (a v : Nat) : RegsOnly s (s.writeReg a v) := RegsOnly.setReg ..

theorem State.alogWrite_idle (go : ctrl.testBit 31 = false) : s.alogWrite k ctrl = s.writeReg (alogPort k 0) ctrl := by
  unfold State.alogWrite
  simp only [go, Bool.not_false, if_true]

theorem State.alogWrite_badArg (go : ctrl.testBit 31 = true) (bad : field ctrl 0 16 < 0x8000 ∨ 224 < field ctrl 16 8) :
    s.alogWrite k ctrl = (s.writeReg (alogPort k 0) ctrl).setReg (alogPort k 4) 7 := by
  unfold State.alogWrite
  simp only [go, Bool.not_true, Bool.false_eq_true, if_false, bad, if_true]

/-- The state as GO offers the port's record. -/
def State.alogGo (k : Fin 4) (ctrl : Nat) (s : State) : State :=
  (s.writeReg (alogPort k 0) ctrl).offer (BitVec.ofNat 16 (field ctrl 0 16)) (BitVec.ofNat 8 (8 + k.val)) (s.alogBody k (field ctrl 16 8))

theorem State.alogWrite_go (go : ctrl.testBit 31 = true) (code : 0x8000 ≤ field ctrl 0 16) (len : field ctrl 16 8 ≤ 224) :
    s.alogWrite k ctrl = (s.alogGo k ctrl).setReg (alogPort k 4) (b2n s.alogFull) := by
  unfold State.alogWrite
  simp only [go, Bool.not_true, Bool.false_eq_true, if_false, Nat.not_lt.2 code, Nat.not_lt.2 len, or_self]
  rfl

theorem State.offer_accepted {code : Word} {origin : Byte} {body : List Byte} (ready : s.alog.ready = true)
    (room : s.alog.queue.length < 64) : s.offer code origin body =
    let o : AlogOffer := { code := code, origin := origin, body := body, boot := s.nv nvrBootcnt, time := s.clock.time }
    { s.alogAccept o s.alog.lostSince with alog := { (s.alogAccept o s.alog.lostSince).alog with lostSince := 0 } } := by
  unfold State.offer
  dsimp only
  rw [if_pos ready, if_neg (Nat.not_le.2 room)]
  rfl

theorem State.offer_lost {code : Word} {origin : Byte} {body : List Byte} (ready : s.alog.ready = true)
    (full : 64 ≤ s.alog.queue.length) : s.offer code origin body = s.alogLose := by
  unfold State.offer
  dsimp only
  rw [if_pos ready, if_pos full]

theorem State.alogStart_next : s.alogStart.alog.next = s.alog.next := by
  unfold State.alogStart
  split <;> rfl

/-- The engine leaves its queue while it writes a record. -/
theorem State.alogStart_busy (writing : s.alog.writing.isSome = true) : s.alogStart = s := by
  unfold State.alogStart
  split
  next none_ _ => rw [none_] at writing; exact nomatch writing
  next => rfl

theorem State.alogStart_empty (empty : s.alog.queue = []) : s.alogStart = s := by
  unfold State.alogStart
  split
  next _ some_ => rw [empty] at some_; exact nomatch some_
  next => rfl

/-- The record the engine takes up, its slot emptied (R428). -/
def State.alogTakes (r : AlogRec) (q : List AlogRec) (s : State) : State :=
  let i := recSeq r % 16384
  let emptied := (Sparse.get alogBlank s.rram.ring i).take 252 ++ List.replicate 4 0
  { s with
    alog := { s.alog with writing := some r, queue := q }
    rram := { s.rram with ring := Sparse.set alogBlank s.rram.ring i emptied } }

theorem State.alogStart_takes {r : AlogRec} {q : List AlogRec} (idle : s.alog.writing = none) (some_ : s.alog.queue = r :: q) :
    s.alogStart = s.alogTakes r q := by
  unfold State.alogStart
  rw [idle, some_]
  rfl

theorem State.alogAccept_busy {o : AlogOffer} {lost : Nat} (busy : s.alog.writing.isSome = true) : s.alogAccept o lost =
    { s with alog := { s.alog with queue := s.alog.queue ++ [alogBytes o s.alog.next.toNat lost], next := s.alog.next + 1 } } :=
  State.alogStart_busy busy

theorem State.alogAccept_idle {o : AlogOffer} {lost : Nat} (idle : s.alog.writing = none) (empty : s.alog.queue = []) :
    s.alogAccept o lost = State.alogTakes (alogBytes o s.alog.next.toNat lost) [] { s with alog := { s.alog with
      queue := s.alog.queue ++ [alogBytes o s.alog.next.toNat lost], next := s.alog.next + 1 } } := by
  refine State.alogStart_takes idle ?_
  rw [empty]
  rfl

theorem State.alogAccept_rest {o : AlogOffer} {lost : Nat} :
    s.alogAccept o lost = { s with alog := (s.alogAccept o lost).alog, rram := (s.alogAccept o lost).rram } := by
  unfold State.alogAccept
  rw [State.alogStart_rest]

theorem State.offer_accepted_rest {code : Word} {origin : Byte} {body : List Byte} (ready : s.alog.ready = true)
    (room : s.alog.queue.length < 64) : s.offer code origin body =
    { s with alog := (s.offer code origin body).alog, rram := (s.offer code origin body).rram } := by
  rw [State.offer_accepted ready room]
  dsimp only
  rw [State.alogAccept_rest]

/-- A record the port offers in time. -/
theorem State.alogGo_accepted (ready : s.alog.ready = true) (room : s.alog.queue.length < 64) :
    s.alogGo k ctrl = { s with regs := (s.alogGo k ctrl).regs, alog := (s.alogGo k ctrl).alog, rram := (s.alogGo k ctrl).rram } ∧
    (s.alogGo k ctrl).alog.next = s.alog.next + 1 ∧ (s.alogGo k ctrl).alog.lostSince = 0 ∧
    (s.alog.writing.isSome = true → (s.alogGo k ctrl).alog.queue = s.alog.queue ++ [portRecord s k ctrl]) ∧
    (s.alog.writing = none → s.alog.queue = [] →
      (s.alogGo k ctrl).alog.writing = some (portRecord s k ctrl) ∧ (s.alogGo k ctrl).alog.queue = []) := by
  have rest : s.alogGo k ctrl = { s.writeReg (alogPort k 0) ctrl with alog := (s.alogGo k ctrl).alog, rram := (s.alogGo k ctrl).rram } :=
    State.offer_accepted_rest (s := s.writeReg (alogPort k 0) ctrl) ready room
  refine ⟨rest.trans ?_, ?_⟩
  · have regs : (s.alogGo k ctrl).regs = (s.writeReg (alogPort k 0) ctrl).regs := by
      rw [rest]
    rw [regs]
    rfl
  rw [State.alogGo, State.offer_accepted (s := s.writeReg (alogPort k 0) ctrl) ready room]
  dsimp only
  refine ⟨?_, rfl, fun busy => ?_, fun idle empty => ?_⟩
  · exact State.alogStart_next
  · rw [State.alogAccept_busy (s := s.writeReg (alogPort k 0) ctrl) busy]
    rfl
  · rw [State.alogAccept_idle (s := s.writeReg (alogPort k 0) ctrl) idle empty]
    exact ⟨rfl, rfl⟩

theorem State.alogLose_kept : s.alogLose.alog = { s.alog with lostSince := s.alog.lostSince + 1 } ∧
    s.alogLose.regN (alogBase + 8) = min 0xFFFFFFFF (s.regN (alogBase + 8) + 1) ∧
    (s.power.hub = true → s.alogLose.dic.pend.getLsbD 34 = true) := by
  unfold State.alogLose
  refine ⟨?_, ?_, fun hub => State.raiseP_pend hub (by decide)⟩
  · rw [State.raiseP_dic]
    rfl
  · rw [State.regN, State.raiseP_only.reg]
    refine (State.regN_setReg.trans (if_pos rfl)).trans ?_
    show min _ (s.regN _ + 1) % _ = _
    generalize s.regN (alogBase + 8) = x
    omega

/-- A port's write loses its record where the queue is full. -/
theorem State.alogGo_lost (ready : s.alog.ready = true) (full : 64 ≤ s.alog.queue.length) :
    (s.alogGo k ctrl).alog = { s.alog with lostSince := s.alog.lostSince + 1 } ∧
    (s.alogGo k ctrl).regN (alogBase + 8) = min 0xFFFFFFFF (s.regN (alogBase + 8) + 1) ∧
    (s.power.hub = true → (s.alogGo k ctrl).dic.pend.getLsbD 34 = true) := by
  have apart : canonReg (alogBase + 8) ≠ canonReg (alogPort k 0) := by
    rw [canonReg_alogPort, show canonReg (alogBase + 8) = alogBase + 8 by decide]
    unfold alogPort
    omega
  obtain ⟨log, count, pend⟩ := State.alogLose_kept (s := s.writeReg (alogPort k 0) ctrl)
  rw [State.alogGo, State.offer_lost (s := s.writeReg (alogPort k 0) ctrl) ready full]
  refine ⟨log, count.trans ?_, pend⟩
  rw [State.writeReg, State.regN_setReg_of_ne apart]

theorem State.alogFull_iff (ready : s.alog.ready = true) : s.alogFull = decide (64 ≤ s.alog.queue.length) := if_pos ready

theorem exec_alogWrite {w : Reg32} (on : s.power.mode ≠ .off) : exec (.alogWrite k w) s = .next (s.alogWrite k w.toNat) :=
  congrArg Host.Outcome.next (if_neg on)

theorem alogPort_result (x : Nat) (small : x < 2 ^ 32) : (s.setReg (alogPort k 4) x).regN (alogPort k 4) = x := by
  rw [State.regN_setReg, if_pos rfl, Nat.mod_eq_of_lt small]

/-! ### The scan and the seal (R428, R429) -/

/-- Of the state at most the log and the RRAM differ. -/
def LogOnly (s t : State) : Prop := t = { s with alog := t.alog, rram := t.rram }

theorem LogOnly.trans {u : State} (a : LogOnly s t) (b : LogOnly t u) : LogOnly s u := by
  rw [LogOnly, b, a]

/-- Waiting records accepted in their order. -/
theorem State.acceptAll_kept (l : List (AlogOffer × Nat)) : ∀ s : State,
    let t := l.foldl (fun (u : State) r => u.alogAccept r.1 r.2) s
    LogOnly s t ∧ t.alog.ready = s.alog.ready ∧ t.alog.backlog = s.alog.backlog ∧
      t.alog.next = s.alog.next + BitVec.ofNat 32 l.length := by
  induction l with
  | nil => exact fun s => ⟨rfl, rfl, rfl, (BitVec.add_zero _).symm⟩
  | cons r l ih =>
    intro s
    obtain ⟨rest, ready, backlog, next⟩ := ih (s.alogAccept r.1 r.2)
    have first : (s.alogAccept r.1 r.2).alog.ready = s.alog.ready ∧ (s.alogAccept r.1 r.2).alog.backlog = s.alog.backlog := by
      unfold State.alogAccept State.alogStart
      split <;> exact ⟨rfl, rfl⟩
    refine ⟨LogOnly.trans State.alogAccept_rest rest, ready.trans first.1, backlog.trans first.2, next.trans ?_⟩
    rw [State.alogAccept, State.alogStart_next, List.length_cons, BitVec.ofNat_add, BitVec.add_comm (BitVec.ofNat 32 l.length),
      ← BitVec.add_assoc]
    rfl

theorem State.logScan_kept (lost : Nat) : let t := s.logScan lost
    t = { s with alog := t.alog, rram := t.rram } ∧ t.alog.ready = true ∧ t.alog.backlog = [] ∧
      t.alog.next = nextSeq s.rram.ring + BitVec.ofNat 32 s.alog.backlog.length ∧
      (s.alog.backlog = [] → t.alog.lostSince = s.alog.lostSince + lost) := by
  unfold State.logScan
  dsimp only
  cases waits : s.alog.backlog with
  | nil => exact ⟨rfl, rfl, rfl, (BitVec.add_zero _).symm, fun _ => rfl⟩
  | cons e l =>
    obtain ⟨rest, ready, backlog, next⟩ := State.acceptAll_kept ((e.1, e.2 + lost) :: l)
      { s with alog := { s.alog with ready := true, next := nextSeq s.rram.ring, backlog := [] } }
    exact ⟨rest, ready, backlog, next, nofun⟩

/-- The record written is sealed in its slot. -/
def State.sealed (r : AlogRec) (s : State) : State :=
  { s with alog := { s.alog with writing := none }
           rram := { s.rram with ring := Sparse.set alogBlank s.rram.ring (recSeq r % 16384) r } }

theorem State.sealRecord_some {r : AlogRec} (is : s.alog.writing = some r) : s.sealRecord = (s.sealed r).alogStart := by
  unfold State.sealRecord
  rw [is]
  rfl

theorem State.sealed_slot {r : AlogRec} : Sparse.get alogBlank (s.sealed r).rram.ring (recSeq r % 16384) = r :=
  (Sparse.get_set ..).trans (if_pos rfl)

theorem State.alogTakes_slot {r : AlogRec} {q : List AlogRec} (i : Nat) : Sparse.get alogBlank (s.alogTakes r q).rram.ring i =
    if i = recSeq r % 16384 then (Sparse.get alogBlank s.rram.ring (recSeq r % 16384)).take 252 ++ List.replicate 4 0
    else Sparse.get alogBlank s.rram.ring i := Sparse.get_set ..

theorem State.sealRecord_kept {r : AlogRec} (is : s.alog.writing = some r) : let t := s.sealRecord
    t = { s with alog := t.alog, rram := t.rram } ∧
    (s.alog.queue = [] → t.alog.writing = none ∧ Sparse.get alogBlank t.rram.ring (recSeq r % 16384) = r) ∧
    (∀ r' q, s.alog.queue = r' :: q → t.alog.writing = some r' ∧ t.alog.queue = q ∧
      ∃ l, Sparse.get alogBlank t.rram.ring (recSeq r' % 16384) = l ++ List.replicate 4 0) ∧
    (∀ r' q, s.alog.queue = r' :: q → recSeq r' % 16384 ≠ recSeq r % 16384 →
      Sparse.get alogBlank t.rram.ring (recSeq r % 16384) = r) := by
  dsimp only
  rw [State.sealRecord_some is]
  refine ⟨?_, fun empty => ?_, fun r' q some_ => ?_, fun r' q some_ apart => ?_⟩
  · conv_lhs => rw [State.alogStart_rest]
    rfl
  · rw [State.alogStart_empty (s := s.sealed r) empty]
    exact ⟨rfl, State.sealed_slot⟩
  · rw [State.alogStart_takes (s := s.sealed r) rfl some_]
    exact ⟨rfl, rfl, _, (State.alogTakes_slot _).trans (if_pos rfl)⟩
  · rw [State.alogStart_takes (s := s.sealed r) rfl some_, State.alogTakes_slot, if_neg (Ne.symm apart)]
    exact State.sealed_slot

end

theorem logRule_kept : logRule := by
  refine fun s => ⟨fun on => ⟨fun k ctrl => ⟨fun idle => ?_, fun go bad => ?_, fun go code len ready => ⟨fun room => ?_, fun full => ?_⟩⟩,
    fun lost unready => ?_⟩, fun idle => ?_, fun r is => ?_⟩
  · refine ⟨_, exec_alogWrite on, ?_⟩
    rw [State.alogWrite_idle idle]
    exact State.writeReg_regsOnly ..
  · refine ⟨_, exec_alogWrite on, ?_⟩
    rw [State.alogWrite_badArg go bad]
    exact ⟨(State.writeReg_regsOnly ..).trans (RegsOnly.setReg ..), alogPort_result 7 (by decide)⟩
  · obtain ⟨rest, kept⟩ := State.alogGo_accepted (k := k) (ctrl := ctrl.toNat) ready room
    refine ⟨_, exec_alogWrite on, ?_⟩
    rw [State.alogWrite_go go code len, State.alogFull_iff ready, decide_eq_false (Nat.not_le.2 room)]
    refine ⟨alogPort_result 0 (by decide), ?_, kept⟩
    conv_lhs => rw [rest]
    rfl
  · refine ⟨_, exec_alogWrite on, ?_⟩
    obtain ⟨log, count, pend⟩ := State.alogGo_lost (k := k) (ctrl := ctrl.toNat) ready full
    rw [State.alogWrite_go go code len, State.alogFull_iff ready, decide_eq_true full]
    refine ⟨alogPort_result 1 (by decide), log, ?_, pend⟩
    rw [State.regN_setReg_of_ne, count]
    rw [canonReg_alogPort, show canonReg (alogBase + 8) = alogBase + 8 by decide]
    unfold alogPort
    omega
  · have is : exec (.logScan lost) s = .next (s.logScan lost.toNat) :=
      congrArg Host.Outcome.next (if_neg fun either => either.elim on (fun ready => by rw [unready] at ready; exact nomatch ready))
    exact ⟨_, is, State.logScan_kept lost.toNat⟩
  · show Host.Outcome.next s.sealRecord = _
    rw [State.sealRecord, idle]
  · exact ⟨_, rfl, State.sealRecord_kept is⟩

/-- Settles O53: NV registers and the Accession Log rest on what an offered record leaves of the RRAM, and the log on what its engine
takes up. -/
theorem persistenceCommands : Obligations.PersistenceCommands := ⟨nvRule_kept, logRule_kept⟩

end Sys2Proof.Machine

/-! ## The Plinth site and the taps (R398 to R403, R418) -/
namespace Sys2Proof.Machine
open Sys2Proof Sys2Proof.Claims

section
variable {s t u : State} {i j : Nat} {cause : Byte}

/-! ### What the site's operations leave -/

theorem canonReg_hctrl : canonReg hctrl = hctrl := by decide

theorem canonReg_vwin (i o : Nat) : canonReg (vwin i o) = vwin i o :=
  canonReg_of_ge (by unfold vwin plnBase; omega)

theorem State.setLink_only (l : Fin 4) (up : Nat) : s.setLink l up = { s with
    links := s.links.set l.val { up := up, retraining := 0 }
    fresh := (s.setLink l up).fresh, credits := (s.setLink l up).credits } := by
  unfold State.setLink
  dsimp only
  split <;> rfl

theorem State.setLink_up (l : Fin 4) (up : Nat) : (s.setLink l up).links[l.val].up = up := by
  have links : (s.setLink l up).links = s.links.set l.val { up := up, retraining := 0 } := by rw [State.setLink_only]
  simp only [links, Vector.getElem_set_self]

theorem RegsOnly.ctxs (only : RegsOnly s t) : t.ctxs = s.ctxs := by rw [only]

theorem RegsOnly.mem (only : RegsOnly s t) : t.mem = s.mem := by rw [only]

theorem RegsOnly.power (only : RegsOnly s t) : t.power = s.power := by rw [only]

theorem DicOnly.foldl {α : Type} {g : State → α → State} (l : List α) (each : ∀ x ∈ l, ∀ s, DicOnly s (g s x)) :
    ∀ s, DicOnly s (l.foldl g s) := by
  induction l with
  | nil => exact .refl
  | cons x l ih => exact fun s => (each x (.head l) s).trans (ih (fun y mem => each y (.tail x mem)) (g s x))

theorem State.dicCompleteAll_only (n : Nat) : DicOnly s (s.dicCompleteAll n) := by
  refine DicOnly.trans (DicOnly.foldl (List.range 512) (fun m mem s => ?_) s) State.dicSettle_only
  split
  · exact (State.dicLeave_kept (List.mem_range.1 mem)).1
  · exact .refl s

/-! ### A reset of the site (R402) -/

/-- A window's bit 0 cleared. -/
theorem State.closeWindow_testBit : ((s.setRegField (vwin j 0) 0 1 0).regN (vwin i 0)).testBit 0 =
    if i = j then false else (s.regN (vwin i 0)).testBit 0 := by
  rw [State.setRegField, State.regN_setReg, canonReg_vwin, canonReg_vwin]
  by_cases same : i = j
  · subst same
    rw [if_pos rfl, if_pos rfl, Nat.testBit_mod_two_pow, mergeBits_testBit]
    rfl
  · rw [if_neg same, if_neg]
    unfold vwin
    omega

/-- The windows of the list closed. -/
def State.closeWindows (l : List Nat) (s : State) : State :=
  l.foldl (fun (s : State) i => s.setRegField (vwin i 0) 0 1 0) s

theorem State.closeWindows_regsOnly (l : List Nat) : ∀ s : State, RegsOnly s (s.closeWindows l) := by
  induction l with
  | nil => exact fun s => rfl
  | cons j l ih => exact fun s => (RegsOnly.setReg ..).trans (ih _)

theorem State.closeWindows_stay (l : List Nat) : ∀ s : State, (s.regN (vwin i 0)).testBit 0 = false →
    ((s.closeWindows l).regN (vwin i 0)).testBit 0 = false := by
  induction l with
  | nil => exact fun s closed => closed
  | cons j l ih =>
    refine fun s closed => ih _ ?_
    rw [State.closeWindow_testBit, closed, ite_self]

theorem State.closeWindows_closed (l : List Nat) : ∀ s : State, i ∈ l → ((s.closeWindows l).regN (vwin i 0)).testBit 0 = false := by
  induction l with
  | nil => exact fun s mem => nomatch mem
  | cons j l ih =>
    intro s mem
    rcases List.mem_cons.1 mem with rfl | mem
    · refine State.closeWindows_stay l _ ?_
      rw [State.closeWindow_testBit, if_pos rfl]
    · exact ih _ mem

theorem State.closeWindows_hctrl (l : List Nat) : ∀ s : State, (s.closeWindows l).regN hctrl = s.regN hctrl := by
  induction l with
  | nil => exact fun s => rfl
  | cons j l ih =>
    intro s
    refine (ih _).trans (State.regN_setReg_of_ne ?_)
    rw [canonReg_hctrl, canonReg_vwin]
    unfold vwin hctrl
    omega

/-- The requests that stay after a reset of the site. -/
def loamAfterReset (l : List LoamReq) : List LoamReq :=
  (l.filter (fun r : LoamReq => r.node.toNat < 0xC0)).map (fun r : LoamReq => if r.toGuest && !r.got then r.linkDown else r)

theorem loamAfterReset_answered (l : List LoamReq) : ∀ q ∈ loamAfterReset l, q.node.toNat < 0xC0 ∧ (q.toGuest = true → q.got = true) := by
  intro q mem
  obtain ⟨r, kept, rfl⟩ := List.mem_map.1 mem
  have node : r.node.toNat < 0xC0 := of_decide_eq_true (List.mem_filter.1 kept).2
  split
  · exact ⟨node, fun _ => rfl⟩
  · next not_ => exact ⟨node, fun guest => by simpa [guest] using not_⟩

/-- The site left without what it held: nothing delivered, requests answered, taps dropped. -/
def State.siteDropped (s : State) : State :=
  { s with
    plinth := { s.plinth with present := false, resetN := false, delivered := [] }
    loam := loamAfterReset s.loam
    slots := s.slots.map (fun e : Nat × SlotSt => (e.1, e.2.dropTaps)) }

theorem State.plinthReset_eq : s.plinthReset =
    ((List.range 4).foldl (fun (s : State) i => s.dicCompleteAll (4 + i)) ((s.closeWindows (List.range 16)).siteDropped.setLink 3 0)).raiseP 73 :=
  rfl

/-- Of a site reset stands what the rules name: the rest of the site's own state, its registers, contexts, memory and power. -/
structure SiteClears (s t : State) : Prop where
  plinth : t.plinth = { s.plinth with present := false, resetN := false, delivered := [] }
  site : siteReset t
  run : t.regN hctrl = s.regN hctrl
  ctxs : t.ctxs = s.ctxs
  mem : t.mem = s.mem
  power : t.power = s.power

theorem siteReset_of_same (site : siteReset t) (present : u.plinth.present = false) (resetN : u.plinth.resetN = false)
    (delivered : u.plinth.delivered = t.plinth.delivered) (links : u.links = t.links) (regs : u.regs = t.regs) (loam : u.loam = t.loam) :
    siteReset u := by
  obtain ⟨-, -, none_, down, closed, answered⟩ := site
  refine ⟨present, resetN, delivered.trans none_, by rw [links]; exact down, fun i in_ => ?_, by rw [loam]; exact answered⟩
  have same : u.regN (vwin i 0) = t.regN (vwin i 0) := by rw [State.regN, State.reg, regs, State.regN, State.reg]
  rw [same]
  exact closed i in_

theorem State.siteDropped_clears (only : RegsOnly s t) (closed : ∀ i, i < 16 → (t.regN (vwin i 0)).testBit 0 = false)
    (run : t.regN hctrl = s.regN hctrl) : SiteClears s (t.siteDropped.setLink 3 0) := by
  have up := State.setLink_up (s := t.siteDropped) 3 0
  have plinth : t.plinth = s.plinth := by rw [only]
  have loam : t.siteDropped.loam = loamAfterReset s.loam := by rw [only]; rfl
  have link := State.setLink_only (s := t.siteDropped) 3 0
  have reads (a : Nat) : (t.siteDropped.setLink 3 0).regN a = t.regN a := by
    rw [link]
    rfl
  refine ⟨?_, ⟨?_, ?_, ?_, up, fun i in_ => ?_, ?_⟩, (reads _).trans run, ?_, ?_, ?_⟩
  · rw [link, ← plinth]
    rfl
  · rw [link]
    rfl
  · rw [link]
    rfl
  · rw [link]
    rfl
  · rw [reads]
    exact closed i in_
  · rw [link, loam]
    exact loamAfterReset_answered s.loam
  · rw [link]
    exact only.ctxs
  · rw [link]
    exact only.mem
  · rw [link]
    exact only.power

theorem SiteClears.dicOnly (clears : SiteClears s t) (only : DicOnly t u) : SiteClears s u := by
  obtain ⟨plinth, site, run, ctxs, mem, power⟩ := clears
  obtain ⟨present, resetN, -⟩ := id site
  have same : u.plinth = t.plinth := by rw [only.rest]
  refine ⟨same.trans plinth, siteReset_of_same site ?_ ?_ ?_ ?_ ?_ ?_, ?_, ?_, only.mem.trans mem, ?_⟩
  · rw [same, present]
  · rw [same, resetN]
  · rw [same]
  · rw [only.rest]
  · rw [only.rest]
  · rw [only.rest]
  · rw [State.regN, only.reg]
    exact run
  · rw [only.rest]
    exact ctxs
  · rw [only.rest]
    exact power

theorem State.plinthReset_clears : SiteClears s s.plinthReset ∧ (s.power.hub = true → s.plinthReset.dic.pend.getLsbD 73 = true) := by
  have completes := DicOnly.foldl (g := fun (s : State) i => s.dicCompleteAll (4 + i)) (List.range 4)
    (fun i _ s => State.dicCompleteAll_only (4 + i)) ((s.closeWindows (List.range 16)).siteDropped.setLink 3 0)
  have down := State.siteDropped_clears (State.closeWindows_regsOnly (List.range 16) s)
    (fun i in_ => State.closeWindows_closed _ s (List.mem_range.2 in_)) (State.closeWindows_hctrl _ s)
  have clears := down.dicOnly completes
  rw [State.plinthReset_eq]
  exact ⟨clears.dicOnly State.raiseP_only, fun hub => State.raiseP_pend (by rw [clears.power]; exact hub) (by decide)⟩

/-! ### The PLINTH record (R431) -/

/-- A record offered, and the free value it carries drawn. -/
structure PlinthRecorded (s t : State) : Prop where
  rest : t = { s with fresh := t.fresh, alog := t.alog, rram := t.rram, regs := t.regs, dic := t.dic, keepers := t.keepers }
  regs : ∀ a, canonReg a ≠ alogBase + 8 → t.reg a = s.reg a

theorem State.plinthRecord_recorded {n : Nat} : PlinthRecorded s (s.plinthRecord n) := by
  unfold State.plinthRecord
  rw [State.offer_offers.rest]
  exact ⟨rfl, State.offer_offers.regs⟩

/-- The cause of an isolation set. -/
def State.setIsoCause (cause : Byte) (s : State) : State := { s with plinth := { s.plinth with isoCause := cause } }

theorem State.plinthFail_eq (cause : Byte) :
    s.plinthFail cause = (((s.plinthRailOff.setLink 3 0).setIsoCause cause).plinthRecord cause.toNat).raiseP 71 := by
  unfold State.plinthFail State.setIsoCause
  rfl

theorem State.railOff_stepOn : s.plinthRailOff.power.stepOn 50 = false ∧ s.plinthRailOff.power.hub = s.power.hub := by
  simp [State.plinthRailOff, Power.hub, Power.stepOn]

/-- A step of R401 that fails. -/
theorem State.plinthFail_kept (cause : Byte) : let t := s.plinthFail cause
    t.regN hctrl = s.regN hctrl ∧ t.ctxs = s.ctxs ∧ t.mem = s.mem ∧ t.plinth.present = false ∧ t.links[3].up = 0 ∧
      t.plinth.pwrGood = false ∧ t.plinth.isoCause = cause ∧ t.power.stepOn 50 = false ∧
      (s.power.hub = true → t.dic.pend.getLsbD 71 = true) := by
  obtain ⟨off, hub⟩ := State.railOff_stepOn (s := s)
  have up := State.setLink_up (s := s.plinthRailOff) 3 0
  have link := State.setLink_only (s := s.plinthRailOff) 3 0
  obtain ⟨rest, regs⟩ := State.plinthRecord_recorded (s := (s.plinthRailOff.setLink 3 0).setIsoCause cause) (n := cause.toNat)
  have only := State.raiseP_only (s := ((s.plinthRailOff.setLink 3 0).setIsoCause cause).plinthRecord cause.toNat) (n := 71)
  dsimp only
  rw [State.plinthFail_eq]
  refine ⟨?_, ?_, ?_, ?_, ?_, ?_, ?_, ?_, fun on => State.raiseP_pend ?_ (by decide)⟩
  · rw [State.regN, only.reg, regs _ (by decide), State.regN]
    show ((s.plinthRailOff.setLink 3 0).reg hctrl).toNat = _
    rw [link]
    rfl
  · rw [only.rest, rest]
    show (s.plinthRailOff.setLink 3 0).ctxs = _
    rw [link]
    rfl
  · rw [only.mem, rest]
    show (s.plinthRailOff.setLink 3 0).mem = _
    rw [link]
    rfl
  · rw [only.rest, rest]
    show (s.plinthRailOff.setLink 3 0).plinth.present = _
    rw [link]
    rfl
  · rw [only.rest, rest]
    exact up
  · rw [only.rest, rest]
    show (s.plinthRailOff.setLink 3 0).plinth.pwrGood = _
    rw [link]
    rfl
  · rw [only.rest, rest]
    rfl
  · rw [only.rest, rest]
    show (s.plinthRailOff.setLink 3 0).power.stepOn 50 = _
    rw [link]
    exact off
  · rw [rest]
    show (s.plinthRailOff.setLink 3 0).power.hub = _
    rw [link]
    exact hub.trans on

/-! ### RUN (R401, R402) -/

theorem State.regN_hctrl {v : Nat} (small : v < 2 ^ 32) : (s.setReg hctrl v).regN hctrl = v := by
  rw [State.regN_setReg, if_pos rfl, Nat.mod_eq_of_lt small]

theorem State.plinthPresent_kept : let t := s.plinthPresent
    t.regN hctrl = s.regN hctrl ∧ t.ctxs = s.ctxs ∧ t.mem = s.mem ∧ t.plinth.present = true ∧ t.plinth.resetN = true ∧
      t.plinth.isolated = false ∧ t.plinth.isoCause = 0 ∧ t.links[3].up = 2 := by
  have link := State.setLink_only (s := s) 3 2
  refine ⟨?_, ?_, ?_, rfl, rfl, rfl, rfl, State.setLink_up 3 2⟩
  · show (s.setLink 3 2).regN hctrl = _
    rw [link]
    rfl
  · show (s.setLink 3 2).ctxs = _
    rw [link]
  · show (s.setLink 3 2).mem = _
    rw [link]

theorem exec_plinthRun (hub : s.power.hub = true) : exec (.plinthRun cause) s = .next (s.plinthRun cause) :=
  congrArg Host.Outcome.next (if_pos hub)

theorem State.plinthRun_running (part : s.isP = true) (runs : s.plinth.present = true) : s.plinthRun cause = s.setReg hctrl 1 := by
  unfold State.plinthRun
  simp only [part, runs, Bool.not_true, Bool.false_eq_true, if_false, if_true]

theorem State.plinthRun_passes (part : s.isP = true) (stops : s.plinth.present = false) (good : s.plinth.pwrGood = true) :
    s.plinthRun 0 = (s.setReg hctrl 1).plinthPresent := by
  unfold State.plinthRun
  simp only [part, stops, good, Bool.not_true, Bool.false_eq_true, if_false, if_true]

theorem State.plinthRun_fails (part : s.isP = true) (stops : s.plinth.present = false)
    (fails : s.plinth.pwrGood = false ∨ cause ≠ 0) :
    s.plinthRun cause = (s.setReg hctrl 1).plinthFail (if s.plinth.pwrGood then cause else 1) := by
  unfold State.plinthRun
  cases good : s.plinth.pwrGood with
  | false => simp only [part, stops, Bool.not_true, Bool.not_false, Bool.false_eq_true, if_false, if_true]
  | true =>
    have some_ : cause ≠ 0 := fails.resolve_left fun bad => by rw [good] at bad; exact nomatch bad
    simp only [part, stops, some_, Bool.not_true, Bool.false_eq_true, if_false, if_true]

theorem plinthRun_kept (part : s.isP = true) (hub : s.power.hub = true) (cause : Byte) :
    ∃ t, exec (.plinthRun cause) s = .next t ∧ t.regN hctrl = 1 ∧ t.ctxs = s.ctxs ∧ t.mem = s.mem ∧
      (s.plinth.present = true → t = { s with regs := t.regs }) ∧
      (s.plinth.present = false → s.plinth.pwrGood = true → cause = 0 → t.plinth.present = true ∧ t.plinth.resetN = true ∧
        t.plinth.isolated = false ∧ t.plinth.isoCause = 0 ∧ t.links[3].up = 2) ∧
      (s.plinth.present = false → s.plinth.pwrGood = false ∨ cause ≠ 0 → t.plinth.present = false ∧ t.links[3].up = 0 ∧
        t.plinth.pwrGood = false ∧ t.plinth.isoCause = (if s.plinth.pwrGood then cause else 1) ∧ t.power.stepOn 50 = false ∧
        t.dic.pend.getLsbD 71 = true) := by
  refine ⟨_, exec_plinthRun hub, ?_⟩
  cases runs : s.plinth.present with
  | true =>
    rw [State.plinthRun_running part runs]
    exact ⟨State.regN_hctrl (by decide), rfl, rfl, fun _ => RegsOnly.setReg .., nofun, nofun⟩
  | false =>
    by_cases passes : s.plinth.pwrGood = true ∧ cause = 0
    · obtain ⟨good, rfl⟩ := passes
      obtain ⟨run, ctxs, mem, site⟩ := State.plinthPresent_kept (s := s.setReg hctrl 1)
      rw [State.plinthRun_passes part runs good]
      refine ⟨run.trans (State.regN_hctrl (by decide)), ctxs, mem, nofun, fun _ _ _ => site, fun _ fails => ?_⟩
      exact absurd fails (by simp [good])
    · have fails : s.plinth.pwrGood = false ∨ cause ≠ 0 := by
        rw [not_and_or, Bool.not_eq_true] at passes
        exact passes
      obtain ⟨run, ctxs, mem, present, up, good, iso, off, pend⟩ :=
        State.plinthFail_kept (s := s.setReg hctrl 1) (if s.plinth.pwrGood then cause else 1)
      rw [State.plinthRun_fails part runs fails]
      exact ⟨run.trans (State.regN_hctrl (by decide)), ctxs, mem, nofun, fun _ good none_ => absurd ⟨good, none_⟩ passes,
        fun _ _ => ⟨present, up, good, iso, off, pend hub⟩⟩

/-! ### Isolation and the loss of power (R403, R418) -/

/-- The site isolated. -/
def State.setIsolated (cause : Byte) (s : State) : State := { s with plinth := { s.plinth with isolated := true, isoCause := cause } }

theorem State.isolate_eq (cause : Byte) :
    s.isolate cause = ((((s.plinthRecord cause.toNat).setReg hctrl 0).plinthReset).setIsolated cause).raiseP 71 := by
  unfold State.isolate State.setIsolated
  rfl

/-- After the site's reset its isolation is marked and told. -/
theorem SiteClears.isolated (clears : SiteClears s t) (cause : Byte) : let u := (t.setIsolated cause).raiseP 71
    siteReset u ∧ u.plinth.isolated = true ∧ u.plinth.isoCause = cause ∧ u.regN hctrl = s.regN hctrl ∧ u.ctxs = s.ctxs ∧ u.mem = s.mem ∧
      (s.power.hub = true → u.dic.pend.getLsbD 71 = true) := by
  obtain ⟨-, site, run, ctxs, mem, power⟩ := clears
  have only := State.raiseP_only (s := t.setIsolated cause) (n := 71)
  obtain ⟨present, resetN, -⟩ := id site
  refine ⟨?_, ?_, ?_, ?_, ?_, only.mem.trans mem, fun hub => State.raiseP_pend ?_ (by decide)⟩
  · rw [only.rest]
    exact siteReset_of_same site present resetN rfl rfl rfl rfl
  · rw [only.rest]
    rfl
  · rw [only.rest]
    rfl
  · rw [State.regN, only.reg]
    exact run
  · rw [only.rest]
    exact ctxs
  · exact (congrArg Power.hub power).trans hub

theorem State.isolate_kept (cause : Byte) : let t := s.isolate cause
    siteReset t ∧ t.plinth.isolated = true ∧ t.plinth.isoCause = cause ∧ t.regN hctrl = 0 ∧ t.ctxs = s.ctxs ∧ t.mem = s.mem ∧
      (s.power.hub = true → t.dic.pend.getLsbD 71 = true) := by
  obtain ⟨rest, -⟩ := State.plinthRecord_recorded (s := s) (n := cause.toNat)
  have power : ((s.plinthRecord cause.toNat).setReg hctrl 0).power = s.power := by rw [rest]; rfl
  obtain ⟨site, isolated, is, run, ctxs, mem, pend⟩ := State.plinthReset_clears.1.isolated (s := (s.plinthRecord cause.toNat).setReg hctrl 0) cause
  dsimp only
  rw [State.isolate_eq]
  refine ⟨site, isolated, is, run.trans (State.regN_hctrl (v := 0) (by decide)), ctxs.trans ?_, mem.trans ?_, fun hub => pend ?_⟩
  · rw [rest]
    rfl
  · rw [rest]
    rfl
  · rw [power]
    exact hub

/-- The site without power, and why. -/
def State.setLost (thermal : Bool) (s : State) : State :=
  let s1 := s.plinthRailOff
  { s1 with plinth := { s1.plinth with isoCause := 8, therm := if thermal then 3 else s1.plinth.therm } }

theorem State.setLost_hub (thermal : Bool) : (s.setLost thermal).power.hub = s.power.hub := State.railOff_stepOn.2

theorem State.plinthLoss_cold : s.plinthLoss false =
    if s.plinth.present then (s.plinthReset.setLost false).raiseP 72 else s.plinthReset.setLost false := by
  unfold State.plinthLoss
  simp only [Bool.not_false, Bool.and_true, Bool.false_eq_true, if_false]
  generalize s.plinthReset = v
  simp only [State.setLost, Bool.false_eq_true, if_false]

theorem State.plinthLoss_hot : s.plinthLoss true = (s.plinthReset.setLost true).setLevel 70 false := by
  unfold State.plinthLoss
  simp only [Bool.not_true, Bool.and_false, Bool.false_eq_true, if_false, if_true]
  generalize s.plinthReset = v
  simp only [State.setLost, if_true]

/-- What a loss of power leaves, whatever is told of it. -/
theorem SiteClears.lost (clears : SiteClears s t) {thermal : Bool}
    (told : u = { t.setLost thermal with dic := u.dic, keepers := u.keepers }) :
    siteReset u ∧ u.plinth.pwrGood = false ∧ u.plinth.isoCause = 8 ∧ u.power.stepOn 50 = false ∧ u.ctxs = s.ctxs ∧ u.mem = s.mem ∧
      (thermal = true → u.plinth.therm = 3) := by
  obtain ⟨-, site, -, ctxs, mem, -⟩ := clears
  rw [told]
  exact ⟨siteReset_of_same site rfl rfl rfl rfl rfl rfl, rfl, rfl, State.railOff_stepOn.1, ctxs, mem, fun hot => by rw [hot]; rfl⟩

theorem State.plinthLoss_kept (thermal : Bool) : let t := s.plinthLoss thermal
    siteReset t ∧ t.plinth.pwrGood = false ∧ t.plinth.isoCause = 8 ∧ t.power.stepOn 50 = false ∧ t.ctxs = s.ctxs ∧ t.mem = s.mem ∧
      (thermal = true → t.plinth.therm = 3) ∧
      (thermal = false → s.plinth.present = true → s.power.hub = true → t.dic.pend.getLsbD 72 = true) := by
  have clears := (State.plinthReset_clears (s := s)).1
  cases thermal with
  | true =>
    dsimp only
    rw [State.plinthLoss_hot]
    generalize s.plinthReset = v at clears ⊢
    obtain ⟨site, good, iso, off, ctxs, mem, therm⟩ := clears.lost (State.setLevel_level (s := v.setLost true) 70 false (by decide)).2
    exact ⟨site, good, iso, off, ctxs, mem, therm, nofun⟩
  | false =>
    dsimp only
    rw [State.plinthLoss_cold]
    generalize s.plinthReset = v at clears ⊢
    split
    · obtain ⟨site, good, iso, off, ctxs, mem, therm⟩ := clears.lost (State.raiseP_dic (s := v.setLost false) 72)
      refine ⟨site, good, iso, off, ctxs, mem, therm, fun _ _ hub => State.raiseP_pend ?_ (by decide)⟩
      rw [State.setLost_hub, clears.power]
      exact hub
    · next stops =>
      obtain ⟨site, good, iso, off, ctxs, mem, therm⟩ := clears.lost (DicOnly.refl (v.setLost false)).rest
      exact ⟨site, good, iso, off, ctxs, mem, therm, fun _ runs => absurd runs stops⟩

theorem exec_plinthReset (part : s.isP = true) (hub : s.power.hub = true) : exec .plinthReset s = .next (s.setReg hctrl 0).plinthReset :=
  congrArg Host.Outcome.next (if_pos (by rw [hub, part]; rfl))

theorem isolation_found {flits : List (List Word)} :
    (cause == 4 && (readPacket flits).isNone || decide (5 ≤ cause.toNat ∧ cause.toNat ≤ 7)) = true ↔
      cause = 4 ∧ readPacket flits = none ∨ 5 ≤ cause.toNat ∧ cause.toNat ≤ 7 := by
  simp only [Bool.or_eq_true, Bool.and_eq_true, beq_iff_eq, Option.isNone_iff_eq_none, decide_eq_true_eq]

end

theorem siteRule_kept : siteRule := by
  refine fun s part => ⟨fun hub => ⟨fun cause => plinthRun_kept part hub cause, ?_⟩,
    fun cause flits => ⟨fun no => ?_, fun up found => ?_⟩, fun thermal good => ?_⟩
  · obtain ⟨⟨-, site, run, ctxs, mem, -⟩, pend⟩ := State.plinthReset_clears (s := s.setReg hctrl 0)
    exact ⟨_, exec_plinthReset part hub, site, run.trans (State.regN_hctrl (v := 0) (by decide)), ctxs, mem, pend hub⟩
  · refine congrArg Host.Outcome.next (if_neg fun yes => ?_)
    rw [Bool.and_eq_true, isolation_found, part, Bool.true_and] at yes
    exact no.elim (fun down => by rw [yes.1] at down; exact nomatch down) fun unfound => unfound yes.2
  · refine ⟨_, congrArg Host.Outcome.next (if_pos ?_), State.isolate_kept cause⟩
    rw [Bool.and_eq_true, isolation_found, part, Bool.true_and]
    exact ⟨up, found⟩
  · exact ⟨_, congrArg Host.Outcome.next (if_pos (by rw [part, good]; rfl)), State.plinthLoss_kept thermal⟩

/-! ### Tap items (R398, R399, R402) -/

section
variable {s t : State} {k : Nat} {d : TapItem} {q : List TapItem} {c : CtxNo}

/-- The slot's tap items replaced. -/
def State.setTapQ (k : Nat) (q : List TapItem) (s : State) : State := s.modSlot k (fun x => { x with tapQ := q })

theorem State.slot_setTapQ : (s.setTapQ k q).slot k = { s.slot k with tapQ := q } ∧ ∀ j, j ≠ k → (s.setTapQ k q).slot j = s.slot j :=
  ⟨(State.slot_modSlot ..).trans (if_pos rfl), fun _ other => (State.slot_modSlot ..).trans (if_neg other)⟩

theorem exec_tapItem (slot : s.heldSlot c = some k) (is : (s.slot k).tapQ = d :: q) :
    exec (.tapItem c) s = .next (if s.tapsOn then (s.setTapQ k q).putTap k d else s.setTapQ k q) := by
  refine congrArg Host.Outcome.next ?_
  rw [slot]
  dsimp only
  rw [State.tapItem, is]
  rfl

/-- The index of the next item, the ring's size, and whether it is full (R399). -/
def State.tapFull (s : State) (k : Nat) : Prop :=
  tapRing (s.regN (tapAddr k 8)) ≤
    ((Sparse.get 0 s.plinth.idx k : Reg32).toNat + 65536 - field (s.regN (tapAddr k 12)) 16 16) % 65536

theorem State.doorbell_eq {g : Fin 4} {code slot : Word} {idx : Reg32} :
    s.doorbell g code slot idx = s.send (doorbellTo g code slot idx) := by
  have low : BitVec.ofNat 16 idx.toNat = idx.setWidth 16 := BitVec.ofNat_toNat ..
  have high : BitVec.ofNat 16 (idx.toNat / 65536) = (idx >>> 16).setWidth 16 := by
    refine BitVec.eq_of_toNat_eq ?_
    rw [BitVec.toNat_ofNat, BitVec.toNat_setWidth, BitVec.toNat_ushiftRight, Nat.shiftRight_eq_div_pow]
  rw [State.doorbell, doorbellTo, low, high]

theorem State.putTap_full (full : s.tapFull k) : s.putTap k d = s.countReg (plnBase + 0x10) 1 := if_pos full

theorem State.putTap_sent (room : ¬ s.tapFull k) : let idx : Reg32 := Sparse.get 0 s.plinth.idx k
    s.putTap k d = { s with wire := (s.putTap k d).wire, plinth := (s.putTap k d).plinth } ∧
      Sparse.get 0 (s.putTap k d).plinth.idx k = idx + 1 ∧
      (s.putTap k d).wire = doorbellTo (s.tapAgent k) 1 (BitVec.ofNat 16 k) idx
        :: .tap (s.tapAgent k) (s.tapRingBase k + 32768 * (idx.toNat % tapRing (s.regN (tapAddr k 8)))) (d.header idx.toNat ++ d.data)
        :: s.wire := by
  dsimp only
  unfold State.putTap
  dsimp only
  rw [State.doorbell_eq]
  split
  next full => exact absurd full room
  next => exact ⟨rfl, (Sparse.get_set ..).trans (if_pos rfl), rfl⟩

theorem State.regN_countReg {a n : Nat} : (s.countReg a n).regN a = min 0xFFFFFFFF (s.regN a + n) := by
  refine (State.regN_setReg.trans (if_pos rfl)).trans ?_
  generalize s.regN a + n = x
  omega

end

theorem tapItemsRule_kept : tapItemsRule := by
  intro c s k d q slot is
  obtain ⟨own, others⟩ := State.slot_setTapQ (s := s) (k := k) (q := q)
  dsimp only
  refine ⟨_, exec_tapItem slot is, ?_⟩
  cases on : s.tapsOn with
  | false => exact ⟨own, others, rfl, rfl, fun _ => rfl, nofun, nofun⟩
  | true =>
    rw [if_pos rfl]
    by_cases full : (s.setTapQ k q).tapFull k
    · rw [State.putTap_full full]
      exact ⟨own, others, rfl, rfl, nofun, fun _ _ => ⟨rfl, State.regN_countReg⟩, fun _ room => absurd full room⟩
    · obtain ⟨rest, idx, wire⟩ := State.putTap_sent (d := d) full
      generalize (s.setTapQ k q).putTap k d = t at rest idx wire ⊢
      refine ⟨?_, fun j other => ?_, ?_, ?_, nofun, fun _ yes => absurd yes full, fun _ _ => ⟨idx, wire⟩⟩
      · rw [rest]
        exact own
      · rw [rest]
        exact others j other
      · rw [rest]
        rfl
      · rw [rest]
        rfl

/-! ### Tap returns (R400) -/

section
variable {s t : State} {k n : Nat} {c : CtxNo} {e : TapSent} {r : TapBuf}

/-- Only registers and slots differ, the queues standing as they did. -/
structure QueuesStay (s t : State) : Prop where
  rest : t = { s with regs := t.regs, slots := t.slots }
  video : ∀ j, (t.slot j).videoQ = (s.slot j).videoQ

theorem Fixes.queuesStay (fixes : Fixes n s t) : QueuesStay s t := by
  refine ⟨fixes.rest, fun j => ?_⟩
  by_cases same : j = n
  · subst same
    obtain ⟨l, p, q, a, own⟩ := fixes.own
    rw [own]
  · rw [fixes.others j same]

theorem State.releaseOf_queuesStay {f b : Nat} : QueuesStay s (s.releaseOf c f b).1 := by
  cases slot : s.heldSlot c with
  | none =>
    unfold State.releaseOf
    rw [slot]
    exact ⟨rfl, fun _ => rfl⟩
  | some n => exact (State.releaseOf_fixes slot).queuesStay

theorem QueuesStay.modSlot {g : SlotSt → SlotSt} (stay : QueuesStay s t) (same : ∀ x, (g x).videoQ = x.videoQ) :
    QueuesStay s (t.modSlot k g) := by
  refine ⟨?_, fun j => ?_⟩
  · show { t with slots := _ } = _
    conv_lhs => rw [stay.rest]
    rfl
  · rw [State.slot_modSlot]
    split
    · next is => rw [same, stay.video, is]
    · exact stay.video j

theorem QueuesStay.setReg {a v : Nat} (stay : QueuesStay s t) : QueuesStay s (t.setReg a v) := by
  refine ⟨?_, stay.video⟩
  show { t with regs := _ } = _
  conv_lhs => rw [stay.rest]
  rfl

/-- After a change of the site's counts: the slots then replaced. -/
theorem QueuesStay.slots {p : Plinth} {l : Sparse SlotSt} (stay : QueuesStay { s with plinth := p } t) :
    { t with slots := l } = { s with slots := l, plinth := t.plinth, regs := t.regs } := by
  rw [stay.rest]

theorem State.measureLead_queuesStay {f b : Nat} : QueuesStay s (s.measureLead c k f b).1 := by
  unfold State.measureLead
  dsimp only
  refine QueuesStay.setReg (QueuesStay.modSlot State.releaseOf_queuesStay fun x => ?_)
  rfl

/-- A packet accepted: its queue has it last, and beside the slots only the site's counts and registers differ. -/
theorem State.acceptReturn_kept : let t := s.acceptReturn k e r
    t = { s with slots := t.slots, plinth := t.plinth, regs := t.regs } ∧
    (e.kind = 3 → ∃ d, (t.slot k).audioQ = (s.slot k).audioQ ++ [d] ∧ d.returned = some r ∧ d.rel = e.rel) ∧
    (e.kind ≠ 3 → ∃ d, (t.slot k).videoQ = (s.slot k).videoQ ++ [d] ∧ d.returned = some r ∧ d.frame = e.frame ∧ d.band = e.band) := by
  unfold State.acceptReturn
  dsimp only
  by_cases audio : e.kind = 3
  · rw [if_pos audio]
    refine ⟨rfl, fun _ => ?_, fun no => absurd audio no⟩
    rw [State.slot_modSlot, if_pos rfl]
    exact ⟨_, rfl, rfl, if_pos audio⟩
  · rw [if_neg audio]
    have stays (z : State) : QueuesStay z (if e.kind = 1 && r.last then (z.measureLead (s.slotCtx k) k e.frame e.band).1 else z) := by
      split
      · exact State.measureLead_queuesStay
      · exact ⟨rfl, fun _ => rfl⟩
    generalize same : (if e.kind = 1 && r.last then _ else _ : State) = z
    have stay := same ▸ stays _
    refine ⟨stay.slots, fun yes => absurd yes audio, fun _ => ?_⟩
    rw [State.slot_modSlot, if_pos rfl]
    exact ⟨_, congrArg (· ++ _) (stay.video k), rfl, rfl, rfl⟩

variable {agent : Fin 4} {data : List Word}

/-- The checks of a return's length, buffer, mode and agent (R400). -/
def returnSound (s : State) (agent : Fin 4) (data : List Word) : Prop :=
  let k := returnWord data 0 % 16384
  let buf := returnWord data 2 + 2 ^ 32 * (returnWord data 3 % 65536)
  let len := returnWord data 4 % 16384
  1 ≤ len ∧ len ≤ 8960 ∧ buf % 64 = 0 ∧ 0x400000000000 ≤ buf ∧ buf + len ≤ 0x404000000000 ∧
    2 ≤ (s.tmode k).toNat ∧ s.tapAgent k = agent

/-- The item that a return names. -/
def returnItem (s : State) (data : List Word) : Option TapSent :=
  s.plinth.delivered.find? (fun e => e.slot.toNat == returnWord data 0 % 16384 && e.idx == BitVec.ofNat 32 (returnWord data 1))

/-- The buffer that a return names. -/
def returnBuf (data : List Word) : TapBuf :=
  { idx := BitVec.ofNat 32 (returnWord data 1), buf := BitVec.ofNat 48 (returnWord data 2 + 2 ^ 32 * (returnWord data 3 % 65536))
    len := returnWord data 4 % 16384, last := (returnWord data 4).testBit 31 }

/-- The queue of the return's kind has no room. -/
abbrev queueFull (x : SlotSt) (e : TapSent) : Prop :=
  e.kind = 3 ∧ 16 ≤ x.audioQ.length ∨ e.kind ≠ 3 ∧ 16 ≤ x.videoBands.length ∧ !x.videoBands.contains (e.frame, e.band)

theorem queueFull_iff {x : SlotSt} : queueFull x e ↔
    ¬ (if e.kind = 3 then x.audioQ.length < 16 else x.videoBands.length < 16 ∨ (e.frame, e.band) ∈ x.videoBands) := by
  by_cases audio : e.kind = 3
  · simp [queueFull, audio]
  · simp [queueFull, audio, not_or]

theorem State.tapReturn_free (free : s.slotHeld (returnWord data 0 % 16384) = false) : s.tapReturn agent data = (7, s) := by
  unfold State.tapReturn
  exact if_pos (by rw [Bool.not_eq_true']; exact free)

theorem State.tapReturn_unsound (held : s.slotHeld (returnWord data 0 % 16384) = true) (no : ¬ returnSound s agent data) :
    s.tapReturn agent data = (8, s) := by
  unfold State.tapReturn
  refine (if_neg (by rw [Bool.not_eq_true', Bool.not_eq_false]; exact held)).trans ?_
  split
  · rfl
  next fits =>
    split
    · rfl
    next mode =>
      refine absurd ?_ no
      simp only [not_or, Nat.not_lt] at fits mode
      obtain ⟨some_, short, aligned, low, high⟩ := fits
      exact ⟨Nat.one_le_iff_ne_zero.2 some_, short, Decidable.not_not.1 aligned, low, high, mode.1, Decidable.not_not.1 mode.2⟩

/-- A sound return to its item, or to none. -/
def State.returnTo (k : Nat) (r : TapBuf) (s : State) : Option TapSent → Nat × State
  | none => (8, s)
  | some e =>
    if e.done ∨ 255 ≤ e.count then (8, s) else if queueFull (s.slot k) e then (6, s) else (0, s.acceptReturn k e r)

theorem State.tapReturn_sound (held : s.slotHeld (returnWord data 0 % 16384) = true) (sound : returnSound s agent data) :
    s.tapReturn agent data = s.returnTo (returnWord data 0 % 16384) (returnBuf data) (returnItem s data) := by
  obtain ⟨some_, short, aligned, low, high, mode, same⟩ := sound
  have fits : ¬ (returnWord data 4 % 16384 = 0 ∨ 8960 < returnWord data 4 % 16384 ∨
      (returnWord data 2 + 2 ^ 32 * (returnWord data 3 % 65536)) % 64 ≠ 0 ∨
      returnWord data 2 + 2 ^ 32 * (returnWord data 3 % 65536) < 0x400000000000 ∨
      0x404000000000 < returnWord data 2 + 2 ^ 32 * (returnWord data 3 % 65536) + returnWord data 4 % 16384) := by
    simp only [not_or, Nat.not_lt]
    exact ⟨Nat.one_le_iff_ne_zero.1 some_, short, fun no => no aligned, low, high⟩
  have place : ¬ ((s.tmode (returnWord data 0 % 16384)).toNat < 2 ∨ s.tapAgent (returnWord data 0 % 16384) ≠ agent) :=
    fun no => no.elim (Nat.not_lt.2 mode) fun other => other same
  unfold State.tapReturn
  refine (if_neg (by rw [Bool.not_eq_true', Bool.not_eq_false]; exact held)).trans ((if_neg fits).trans ((if_neg place).trans ?_))
  rw [returnItem]
  unfold returnWord
  split
  next none_ => rw [none_]; rfl
  next e some_ => rw [some_]; rfl

theorem exec_tapReturn {n : Nat} (on : s.tapsOn = true) (words : data.length = 16) (is : s.tapReturn agent data = (n, t)) :
    exec (.tapReturn agent data) s = .next { t with answer := BitVec.ofNat 64 n } := by
  refine congrArg Host.Outcome.next ((if_pos ?_).trans ?_)
  · rw [on, words]
    rfl
  · rw [is]
    rfl

end

theorem tapReturnsRule_kept : tapReturnsRule := by
  intro agent data s on words
  dsimp only
  refine ⟨fun free => exec_tapReturn on words (State.tapReturn_free free), fun held no => ?_, fun e held sound found closed => ?_,
    fun e held sound found opened count => ⟨fun none_ => ?_, fun room => ?_⟩⟩
  · by_cases sound : returnSound s agent data
    · have none_ : returnItem s data = none := no.resolve_left fun unsound => unsound sound
      refine exec_tapReturn on words ?_
      rw [State.tapReturn_sound held sound, none_, State.returnTo]
    · exact exec_tapReturn on words (State.tapReturn_unsound held sound)
  · refine exec_tapReturn on words ?_
    rw [State.tapReturn_sound held sound, show returnItem s data = some e from found]
    exact if_pos closed
  · have open_ : ¬ (e.done ∨ 255 ≤ e.count) := by rw [opened]; simpa using count
    refine exec_tapReturn on words ?_
    rw [State.tapReturn_sound held sound, show returnItem s data = some e from found]
    exact (if_neg open_).trans (if_pos (queueFull_iff.2 none_))
  · have open_ : ¬ (e.done ∨ 255 ≤ e.count) := by rw [opened]; simpa using count
    have is : s.tapReturn agent data = (0, s.acceptReturn (returnWord data 0 % 16384) e (returnBuf data)) := by
      rw [State.tapReturn_sound held sound, show returnItem s data = some e from found]
      exact (if_neg open_).trans (if_neg fun full => queueFull_iff.1 full room)
    obtain ⟨rest, audio, video⟩ := State.acceptReturn_kept (s := s) (k := returnWord data 0 % 16384) (e := e) (r := returnBuf data)
    generalize s.acceptReturn (returnWord data 0 % 16384) e (returnBuf data) = t at is rest audio video
    refine ⟨_, exec_tapReturn on words is, rfl, ?_, audio, video⟩
    conv_lhs => rw [rest]
    rfl

/-- Settles O52: a reset of the site leaves what R402 names, and its causes add theirs; a tap item or return is followed to its queue. -/
theorem plinthCommands : Obligations.PlinthCommands := ⟨siteRule_kept, tapItemsRule_kept, tapReturnsRule_kept⟩

end Sys2Proof.Machine

/-! ## Pins, peripheral blocks, the monitor and the test access port (R231 to R234, R445 to R461)

What drives a pad depends on no other pin, so a pass over the pins changes each as if it were alone. -/
namespace Sys2Proof.Machine
open Sys2Proof Sys2Proof.Claims

section
variable {s t u : State} {n m : Nat}

/-! ### What drives a pad -/

theorem State.pin_modPin {f : Pin → Pin} : (s.modPin n f).pin m = if m = n then f (s.pin n) else s.pin m := Sparse.get_set ..

/-- The drive of a pad reads the power, the sub-ports, the peripheral blocks, registers other than GPIO_EN and the pin itself. -/
theorem State.padDrive_congr (in_ : n < 48) (power : t.power = s.power) (subports : t.subports = s.subports) (periph : t.periph = s.periph)
    (reg : ∀ a, canonReg a ≠ gpioEn → t.reg a = s.reg a) (owner : (t.pin n).owner = (s.pin n).owner)
    (switch : (t.pin n).switch = (s.pin n).switch) (held : (t.pin n).held = (s.pin n).held) : t.padDrive n = s.padDrive n := by
  have high {a : Nat} (above : 0x008001400800 ≤ a) (other : a ≠ gpioEn) : t.regN a = s.regN a :=
    congrArg BitVec.toNat (reg a (by rw [canonReg_of_ge above]; exact other))
  have eth (p : Nat) : t.regN (ethAddr p 0) = s.regN (ethAddr p 0) :=
    high (by unfold ethAddr ethBase; omega) (by unfold ethAddr ethBase gpioEn gpioBase; omega)
  have led (k : Nat) : t.regN (ledAddr k) = s.regN (ledAddr k) :=
    high (by unfold ledAddr gpioBase; omega) (by unfold ledAddr gpioEn; omega)
  have pwm {k : Nat} : t.regN (gpioBase + 0x380 + 4 * k) = s.regN (gpioBase + 0x380 + 4 * k) :=
    high (by unfold gpioBase; omega) (by unfold gpioEn; omega)
  have exists_ (p k : Nat) : t.subExists p k = s.subExists p k := by
    unfold State.subExists State.portMode State.serdes
    rw [power, eth]
  have link (p : Nat) : t.portLink p = s.portLink p := by
    unfold State.portLink State.sub
    simp only [exists_, subports]
  have lit (k : Nat) : t.ledLit k = s.ledLit k := by
    unfold State.ledLit
    simp only [led, link, periph]
  have block : (t.pin n).block n = (s.pin n).block n := by
    unfold Pin.block
    rw [owner]
  have drive (b : Nat) : t.blockDrive b n = s.blockDrive b n := by
    unfold State.blockDrive
    simp only [lit, led, pwm]
  have latch : t.ownerDrive n = s.ownerDrive n := by
    have oe : t.regN (gpioOe (n / 16)) = s.regN (gpioOe (n / 16)) :=
      high (by unfold gpioOe gpioBase; omega) (by unfold gpioOe gpioEn; omega)
    have out : t.regN (gpioOut (n / 16)) = s.regN (gpioOut (n / 16)) :=
      high (by unfold gpioOut gpioBase; omega) (by unfold gpioOut gpioEn; omega)
    unfold State.ownerDrive
    rw [block, oe, out]
    cases (s.pin n).block n with
    | some b => exact drive b
    | none => rfl
  unfold State.padDrive State.pinLogic
  rw [power, switch, held, latch]

theorem PinsOnly.reg (only : PinsOnly s t) (a : Nat) : t.reg a = s.reg a := by
  obtain ⟨p, d, k, rfl⟩ := only
  rfl

theorem PinsOnly.padDrive (only : PinsOnly s t) (in_ : n < 48) (owner : (t.pin n).owner = (s.pin n).owner)
    (switch : (t.pin n).switch = (s.pin n).switch) (held : (t.pin n).held = (s.pin n).held) : t.padDrive n = s.padDrive n := by
  have reg := only.reg
  obtain ⟨p, d, k, rfl⟩ := only
  exact State.padDrive_congr in_ rfl rfl rfl (fun a _ => reg a) owner switch held

/-! ### A pass over the pins -/

/-- A step changes one pin, by its drive and itself, and signals at most. -/
structure ChangesPin (f : State → Nat → State) (change : Option Bool → Nat → Pin → Pin) : Prop where
  only : ∀ s n, PinsOnly s (f s n)
  pin : ∀ s n, n < 48 → ∀ m, (f s n).pin m = if m = n then change (s.padDrive n) n (s.pin n) else s.pin m

/-- A pass over distinct pins changes each by its drive before the pass. -/
theorem ChangesPin.foldl {f : State → Nat → State} {change : Option Bool → Nat → Pin → Pin} (changes : ChangesPin f change)
    (l : List Nat) (distinct : l.Nodup) (within : ∀ n ∈ l, n < 48) : ∀ s : State, ∀ m,
    (l.foldl f s).pin m = if m ∈ l then change (s.padDrive m) m (s.pin m) else s.pin m := by
  induction l with
  | nil => exact fun s m => rfl
  | cons n l ih =>
    intro s m
    obtain ⟨apart, rest⟩ := List.nodup_cons.1 distinct
    rw [List.foldl_cons, ih rest (fun j mem => within j (.tail n mem))]
    by_cases same : m = n
    · subst same
      rw [if_neg apart, changes.pin s m (within m (.head l)), if_pos rfl, if_pos (List.mem_cons_self ..)]
    · have pin : (f s n).pin m = s.pin m := by rw [changes.pin s n (within n (.head l)), if_neg same]
      by_cases mem : m ∈ l
      · rw [if_pos mem, if_pos (.tail n mem), pin, (changes.only s n).padDrive (within m (.tail n mem)) (by rw [pin]) (by rw [pin])
          (by rw [pin])]
      · rw [if_neg mem, if_neg (fun mem' => (List.mem_cons.1 mem').elim same mem), pin]

/-- A driven pad's level reaches its pin. -/
def Pin.settle (d : Option Bool) (x : Pin) : Pin := { x with raw := d.getD x.raw }

/-- The pass of `padsSettle` at one pin. -/
def State.settlePin (s : State) (n : Nat) : State :=
  match s.padDrive n with
  | some v => if (s.pin n).raw == v then s else s.modPin n (fun x => { x with raw := v })
  | none => s

theorem State.settlePin_changes : ChangesPin State.settlePin (fun d _ => Pin.settle d) := by
  have same {s : State} {n m : Nat} {d : Option Bool} (is : (s.pin n).settle d = s.pin n) :
      s.pin m = if m = n then (s.pin n).settle d else s.pin m := by
    split
    · next at_ => rw [is, at_]
    · rfl
  refine ⟨fun s n => ?_, fun s n in_ m => ?_⟩
  · unfold State.settlePin
    split
    · split
      · exact .refl s
      · exact s.modPin_pinsOnly n _
    · exact .refl s
  · unfold State.settlePin
    split
    · next v drive =>
      rw [drive]
      split
      · next at_ =>
        refine same ?_
        unfold Pin.settle
        rw [Option.getD_some, ← beq_iff_eq.1 at_]
      · exact State.pin_modPin
    · next drive =>
      rw [drive]
      exact same rfl

theorem State.padsSettle_scanned (scanned : s.scanned = true) : s.padsSettle = s := if_pos scanned

theorem State.padsSettle_pin (free : s.scanned = false) (m : Nat) :
    s.padsSettle.pin m = if m < 48 then (s.pin m).settle (s.padDrive m) else s.pin m := by
  have is : s.padsSettle = (List.range 48).foldl State.settlePin s := if_neg (by rw [free]; exact Bool.false_ne_true)
  rw [is, State.settlePin_changes.foldl _ List.nodup_range fun n mem => List.mem_range.1 mem]
  simp only [List.mem_range]

theorem State.padsSettle_pinsOnly : PinsOnly s s.padsSettle := by
  obtain ⟨l, is⟩ := s.padsSettle_pins
  exact ⟨l, s.dic, s.keepers, is⟩

/-- A pass leaves what drives each pad. -/
theorem State.padsSettle_drive (in_ : n < 48) : s.padsSettle.padDrive n = s.padDrive n := by
  have kept : (s.padsSettle.pin n).owner = (s.pin n).owner ∧ (s.padsSettle.pin n).switch = (s.pin n).switch ∧
      (s.padsSettle.pin n).held = (s.pin n).held := by
    cases scanned : s.scanned with
    | true => rw [State.padsSettle_scanned scanned]; exact ⟨rfl, rfl, rfl⟩
    | false => rw [State.padsSettle_pin scanned, if_pos in_]; exact ⟨rfl, rfl, rfl⟩
  exact State.padsSettle_pinsOnly.padDrive in_ kept.1 kept.2.1 kept.2.2

/-- After a pass a driven pad's level stands at its pin. -/
theorem State.padsSettle_raw (free : s.scanned = false) (in_ : n < 48) {v : Bool} (drive : s.padDrive n = some v) :
    (s.padsSettle.pin n).raw = v := by
  rw [State.padsSettle_pin free, if_pos in_, drive]
  rfl

/-! ### GPIO (R446 to R454) -/

variable {b : Fin 3} {oe : Bool} {v : Reg32}

/-- The address of a bank's output or enable latch. -/
def gpioLatchAddr (b : Fin 3) (oe : Bool) : Nat := if oe then gpioOe b.val else gpioOut b.val

theorem canonReg_gpio (o : Nat) : canonReg (gpioBase + o) = gpioBase + o := canonReg_of_ge (by unfold gpioBase; omega)

theorem canonReg_gpioLatch : canonReg (gpioLatchAddr b oe) = gpioLatchAddr b oe := by
  refine canonReg_of_ge ?_
  unfold gpioLatchAddr gpioOe gpioOut gpioBase
  split <;> omega

theorem State.padDrive_latch (owner : (s.pin n).owner = 0) (switch : (s.pin n).switch = 0) (logic : s.pinLogic n = true)
    (out : (s.regN (gpioOe (n / 16))).testBit (n % 16) = true) :
    s.padDrive n = some ((s.regN (gpioOut (n / 16))).testBit (n % 16)) := by
  unfold State.padDrive State.ownerDrive Pin.block
  simp only [logic, switch, owner, out, Bool.not_true, Bool.false_or]
  rfl

theorem gpioOutWrite_kept (up : s.blockUp b.val = true) : let a := if oe then gpioOe b.val else gpioOut b.val
    ∃ t, exec (.gpioOutWrite b oe v) s = .next t ∧ t = { s with regs := t.regs, pins := t.pins } ∧
      (∀ c, canonReg c ≠ a → t.reg c = s.reg c) ∧
      (s.scanned = false → ∀ n, n < 48 → (s.pin n).owner = 0 → (s.pin n).switch = 0 → s.pinLogic n = true →
        (t.regN (gpioOe (n / 16))).testBit (n % 16) = true →
        (t.pin n).raw = (t.regN (gpioOut (n / 16))).testBit (n % 16)) := by
  have canon := canonReg_gpioLatch (b := b) (oe := oe)
  obtain ⟨w, put⟩ : ∃ w, s.gpioWrite b.val oe v.toNat = (s.setReg (gpioLatchAddr b oe) w).padsSettle := ⟨_, rfl⟩
  have is : exec (.gpioOutWrite b oe v) s = .next ((s.setReg (gpioLatchAddr b oe) w).padsSettle) :=
    congrArg Host.Outcome.next ((if_pos up).trans put)
  have reg (c : Nat) := State.padsSettle_pinsOnly.reg (s := s.setReg (gpioLatchAddr b oe) w) c
  refine ⟨_, is, ?_, fun c other => ?_, fun free n in_ owner switch logic out => ?_⟩
  · obtain ⟨l, rest⟩ := State.padsSettle_pins (s.setReg (gpioLatchAddr b oe) w)
    rw [rest]
    rfl
  · rw [reg, State.reg_setReg, canon]
    exact if_neg other
  · have stands (c : Nat) : (s.setReg (gpioLatchAddr b oe) w).padsSettle.regN c = (s.setReg (gpioLatchAddr b oe) w).regN c :=
      congrArg BitVec.toNat (reg c)
    rw [stands] at out ⊢
    exact State.padsSettle_raw (s := s.setReg (gpioLatchAddr b oe) w) free in_
      (State.padDrive_latch (s := s.setReg (gpioLatchAddr b oe) w) owner switch logic out)

/-! GPIO_EN and the owners it gives. -/

theorem State.setLevel_pins {on : Bool} (small : n < 512) : (s.setLevel n on).pins = s.pins := by
  rw [(State.setLevel_level n on small).2]

theorem State.pinLevel_pins (small : n < 48) : (s.pinLevel n).pins = s.pins := by
  unfold State.pinLevel
  have level (on : Bool) : (s.setLevel (128 + n) on).pins = s.pins := State.setLevel_pins (by omega)
  dsimp only
  split
  · exact level _
  · split
    · exact level _
    · split
      · exact level _
      · rfl

/-- A pin passes to an owner. -/
def Pin.passTo (o : BitVec 2) (d : Option Bool) (x : Pin) : Pin :=
  if x.owner = o then x else { x with owner := o, switch := 3, held := d }

theorem State.switchPin_changes (w : Nat) : ChangesPin (fun s n => s.switchPin (ownerOf w n) n) (fun d n => Pin.passTo (ownerOf w n) d) := by
  refine ⟨fun s n => ?_, fun s n in_ m => ?_⟩
  · unfold State.switchPin
    split
    · exact .refl s
    · exact (s.modPin_pinsOnly n _).trans (State.pinLevel_pinsOnly _ n)
  · have level (z : State) : (z.pinLevel n).pin m = z.pin m := by rw [State.pin, State.pinLevel_pins in_, State.pin]
    unfold State.switchPin Pin.passTo
    split
    · next is =>
      split
      · next at_ => rw [at_]
      · rfl
    · next no => rw [level, State.pin_modPin]

theorem ownerPass_pin (w : Nat) (in_ : n < 48) :
    ((List.range 48).foldl (fun (s : State) n => s.switchPin (ownerOf w n) n) s).pin n = (s.pin n).passTo (ownerOf w n) (s.padDrive n) := by
  rw [(State.switchPin_changes w).foldl _ List.nodup_range fun n mem => List.mem_range.1 mem, if_pos (List.mem_range.2 in_)]

theorem State.setReg_gpioEn_drive {w : Nat} (in_ : n < 48) : (s.setReg gpioEn w).padDrive n = s.padDrive n := by
  refine State.padDrive_congr in_ rfl rfl rfl (fun a other => ?_) rfl rfl rfl
  rw [State.reg_setReg, show canonReg gpioEn = gpioEn from canonReg_gpio 0x40]
  exact if_neg other

/-- The bits of GPIO_EN that a write reaches (R446). -/
theorem State.gpioEnMask_testBit {i : Nat} (in_ : i < 20) : s.gpioEnMask.testBit i = (s.power.hub || aonBlocks.testBit i) := by
  unfold State.gpioEnMask
  cases s.power.hub with
  | true => rw [if_pos rfl, Bool.true_or]; exact Nat.testBit_two_pow_sub_one 20 i ▸ decide_eq_true in_
  | false => rfl

theorem gpioEnWrite_kept (on : s.power.mode ≠ .off) : ∃ t, exec (.gpioEnWrite v) s = .next t ∧
    t = { s with regs := t.regs, pins := t.pins, dic := t.dic, keepers := t.keepers } ∧
    (∀ i, i < 20 → (t.regN gpioEn).testBit i =
      if s.power.hub || (aonBlocks).testBit i then v.getLsbD i else (s.regN gpioEn).testBit i) ∧
    ∀ n, n < 48 → let o := ownerOf (t.regN gpioEn) n
      t.pin n = if (s.pin n).owner = o then s.pin n else { s.pin n with owner := o, switch := 3, held := s.padDrive n } := by
  obtain ⟨w, put⟩ : ∃ w, w = mergeBits s.gpioEnMask (s.regN gpioEn) v.toNat := ⟨_, rfl⟩
  have is : exec (.gpioEnWrite v) s = .next ((List.range 48).foldl (fun (s : State) n => s.switchPin (ownerOf w n) n) (s.setReg gpioEn w)) := by
    rw [put]
    exact congrArg Host.Outcome.next (if_neg on)
  have only := PinsOnly.foldl (State.switchPin_changes w).only (List.range 48) (s.setReg gpioEn w)
  have pin {n : Nat} (in_ : n < 48) := ownerPass_pin (s := s.setReg gpioEn w) w in_
  generalize (List.range 48).foldl (fun (s : State) n => s.switchPin (ownerOf w n) n) (s.setReg gpioEn w) = t at is only pin
  have small : w < 2 ^ 32 := by
    rw [put, mergeBits]
    refine Nat.or_lt_two_pow ?_ (Nat.and_lt_two_pow _ ?_)
    · exact (Nat.sub_le ..).trans_lt s.regN_lt
    · unfold State.gpioEnMask aonBlocks
      split <;> decide
  have reads : t.regN gpioEn = w := by
    rw [State.regN, only.reg]
    exact (State.regN_setReg.trans (if_pos rfl)).trans (Nat.mod_eq_of_lt small)
  refine ⟨t, is, ?_, fun i in_ => ?_, fun n in_ => ?_⟩
  · obtain ⟨p, d, k, rfl⟩ := only
    rfl
  · rw [reads, put, mergeBits_testBit, State.gpioEnMask_testBit in_]
    rfl
  · dsimp only
    rw [reads, pin in_, State.setReg_gpioEn_drive in_]
    rfl

/-! A filtered level, and the straps. -/

theorem State.pinChange_pin {level : Bool} (in_ : n < 48) : (s.pinChange n level).pin m =
    if m = n then { s.pin n with filt := level, raw := level, cnt := 0 } else s.pin m := by
  have told (z : State) : (z.raiseP (128 + n)).pin m = z.pin m := by rw [State.raiseP_dic]; rfl
  have followed (z : State) : (z.pinLevel n).pin m = z.pin m := by rw [State.pin, State.pinLevel_pins in_, State.pin]
  unfold State.pinChange
  dsimp only
  split
  · next same =>
    rw [State.pin_modPin, beq_iff_eq.1 same]
  · split
    · exact State.pin_modPin
    · split
      · exact (told _).trans State.pin_modPin
      · exact (followed _).trans State.pin_modPin

theorem State.pinChange_same {level : Bool} (same : (s.pin n).filt = level) : (s.pinChange n level).dic = s.dic := by
  unfold State.pinChange
  rw [if_pos (beq_iff_eq.2 same)]
  rfl

theorem State.pinChange_event {level : Bool} (change : (s.pin n).filt ≠ level) (own : (s.pin n).owner = 0)
    (irq : s.pinIrq n = 3 ∨ s.pinIrq n = 1 ∧ level = true ∨ s.pinIrq n = 2 ∧ level = false) :
    s.pinChange n level = (s.modPin n (fun x => { x with filt := level, raw := level, cnt := 0 })).raiseP (128 + n) := by
  unfold State.pinChange
  rw [if_neg (by rw [beq_iff_eq]; exact change)]
  dsimp only
  rw [if_neg (by rw [own]; decide), if_pos (by simpa using irq)]

theorem debounceChange_kept {pin : Fin 48} {level : Bool} (up : s.filterUp pin.val = true) (free : s.scanned = false)
    (switch : (s.pin pin.val).switch = 0) (drive : s.padDrive pin.val = none ∨ s.padDrive pin.val = some level) :
    ∃ t, exec (.debounceChange pin level) s = .next t ∧ t = { s with pins := t.pins, dic := t.dic, keepers := t.keepers } ∧
      t.pin pin.val = { s.pin pin.val with filt := level, raw := level, cnt := 0 } ∧
      (∀ m, m ≠ pin.val → t.pin m = s.pin m) ∧ ((s.pin pin.val).filt = level → t.dic = s.dic) ∧
      ((s.pin pin.val).filt ≠ level → (s.pin pin.val).owner = 0 → s.power.hub = true →
        s.pinIrq pin.val = 3 ∨ s.pinIrq pin.val = 1 ∧ level = true ∨ s.pinIrq pin.val = 2 ∧ level = false →
        t.dic.pend.getLsbD (128 + pin.val) = true) := by
  have agrees : ((s.padDrive pin.val).getD level == level) = true := by
    rcases drive with is | is <;> rw [is] <;> exact beq_self_eq_true level
  have is : exec (.debounceChange pin level) s = .next (s.pinChange pin.val level) :=
    congrArg Host.Outcome.next (if_pos (by rw [up, free, switch, agrees]; rfl))
  refine ⟨_, is, ?_, ?_, fun m other => ?_, State.pinChange_same, fun change own hub irq => ?_⟩
  · obtain ⟨p, d, k, rest⟩ := State.pinChange_pinsOnly s pin.val level
    rw [rest]
  · rw [State.pinChange_pin pin.isLt, if_pos rfl]
  · rw [State.pinChange_pin pin.isLt, if_neg other]
  · rw [State.pinChange_event change own irq]
    exact State.raiseP_pend (s := s.modPin pin.val _) hub (by omega)

theorem exec_strapSample {a c : Bool} (on : s.power.mode ≠ .off) : exec (.strapSample a c) s = .next
    (if s.clock.rootLock && !s.periph.strapped then
      { s with periph := { s.periph with strapped := true, straps := BitVec.ofNat 2 (b2n (!a) + 2 * b2n (!c)) } }
    else s) := by
  refine congrArg Host.Outcome.next ?_
  rw [bne_iff_ne.2 on, Bool.true_and]

end

theorem gpioRule_kept : gpioRule := by
  refine fun s => ⟨fun b oe v up => gpioOutWrite_kept up, fun v on => gpioEnWrite_kept on,
    fun n level up free switch drive => debounceChange_kept up free switch drive, fun a c on => ⟨fun lock first => ?_, fun no => ?_⟩⟩
  · rw [exec_strapSample on, if_pos (by rw [lock, first]; rfl)]
  · rw [exec_strapSample on, if_neg]
    rcases no with no | no <;> simp [no]

end Sys2Proof.Machine

/-! ## Peripheral blocks, the monitor and the test access port (R231 to R234, R417, R455 to R461) -/
namespace Sys2Proof.Machine
open Sys2Proof Sys2Proof.Claims

/-! ### Bytes of a word, least significant first -/

theorem length_bytesLE (n : Nat) : ∀ v, (bytesLE n v).length = n := by
  induction n with
  | zero => exact fun v => rfl
  | succ n ih => exact fun v => congrArg (· + 1) (ih _)

theorem ofBytesLE_lt (l : List Byte) : ofBytesLE l < 256 ^ l.length := by
  induction l with
  | nil => exact Nat.one_pos
  | cons b l ih =>
    have small : b.toNat < 256 := b.isLt
    rw [ofBytesLE, List.length_cons, Nat.pow_succ]
    omega

theorem bytesLE_ofBytesLE (l : List Byte) : bytesLE l.length (ofBytesLE l) = l := by
  induction l with
  | nil => rfl
  | cons b l ih =>
    have small : b.toNat < 256 := b.isLt
    have head : BitVec.ofNat 8 (b.toNat + 256 * ofBytesLE l) = b :=
      BitVec.eq_of_toNat_eq (by rw [BitVec.toNat_ofNat]; omega)
    have tail : (b.toNat + 256 * ofBytesLE l) / 256 = ofBytesLE l := by omega
    rw [ofBytesLE, List.length_cons, bytesLE, head, tail, ih]

/-- A list's word of four bytes from a place reads back as those bytes. -/
theorem bytesLE_word (l : List Byte) (i : Nat) (within : i + 4 ≤ l.length) :
    bytesLE 4 (ofBytesLE ((l.drop i).take 4) % 2 ^ 32) = (l.drop i).take 4 := by
  have four : ((l.drop i).take 4).length = 4 := by rw [List.length_take, List.length_drop]; omega
  have back := bytesLE_ofBytesLE ((l.drop i).take 4)
  have small := ofBytesLE_lt ((l.drop i).take 4)
  rw [four] at back small
  rw [show (2 : Nat) ^ 32 = 256 ^ 4 by decide, Nat.mod_eq_of_lt small, back]

section
variable {s t : State} {i : Fin 4}

theorem getLsbD_one_shiftLeft {w n : Nat} (small : n < w) : (1#w <<< n).getLsbD n = true := by
  rw [BitVec.getLsbD_shiftLeft, Nat.sub_self, decide_eq_true small, BitVec.getLsbD_one, decide_eq_true (Nat.zero_lt_of_lt small)]
  simp

/-! ### I2C (R455) -/

theorem canonReg_i2c (k o : Nat) : canonReg (i2cAddr k o) = i2cAddr k o := canonReg_of_ge (by unfold i2cAddr gpioBase; omega)

theorem State.length_i2cBuf (k : Nat) : (s.i2cBuf k).length = 16 := by
  unfold State.i2cBuf
  rw [show List.range 4 = [0, 1, 2, 3] from rfl]
  simp only [List.flatMap_cons, List.flatMap_nil, List.length_append, length_bytesLE, List.length_nil]

theorem State.i2cFill_regsOnly (k : Nat) (l : List Byte) : RegsOnly s (s.i2cFill k l) :=
  (((RegsOnly.setReg ..).trans (RegsOnly.setReg ..)).trans (RegsOnly.setReg ..)).trans (RegsOnly.setReg ..)

theorem State.i2cBuf_i2cFill (k : Nat) (l : List Byte) (short : l.length ≤ 16) :
    (s.i2cFill k l).i2cBuf k = l ++ (s.i2cBuf k).drop l.length := by
  have len : (l ++ (s.i2cBuf k).drop l.length).length = 16 := by
    rw [List.length_append, List.length_drop, State.length_i2cBuf]
    omega
  unfold State.i2cFill
  dsimp only
  generalize l ++ (s.i2cBuf k).drop l.length = x at len
  have word (i : Nat) (within : i ≤ 12) := bytesLE_word x i (by omega)
  have place {o o' : Nat} : (i2cAddr k o = i2cAddr k o') ↔ o = o' := Nat.add_left_cancel_iff
  unfold State.i2cBuf
  rw [show List.range 4 = [0, 1, 2, 3] from rfl]
  simp only [List.foldl_cons, List.foldl_nil, List.flatMap_cons, List.flatMap_nil, List.append_nil, State.regN_setReg, canonReg_i2c, place,
    Nat.reduceMul, Nat.reduceAdd, Nat.reduceEqDiff, if_true, if_false]
  rw [word 0 (by decide), word 4 (by decide), word 8 (by decide), word 12 (by decide)]
  have last : (x.drop 12).take 4 = x.drop 12 := List.take_of_length_le (by rw [List.length_drop]; omega)
  have join (i : Nat) : (x.drop i).take 4 ++ x.drop (i + 4) = x.drop i := by
    rw [← List.drop_drop]
    exact List.take_append_drop ..
  rw [last, join 8, join 4, join 0, List.drop_zero]

theorem i2cGo_kept {ctrl : Reg32} (up : s.blockUp i.val = true) (idle : s.periph.i2cBusy.getLsbD i.val = false) :
    ∃ t, exec (.i2cGo i ctrl) s = .next t ∧ t = { s with regs := t.regs, periph := t.periph, wire := t.wire } ∧
      (ctrl.getLsbD 31 = false → t.periph = s.periph ∧ t.wire = s.wire) ∧
      (ctrl.getLsbD 31 = true → t.periph = { s.periph with i2cBusy := s.periph.i2cBusy ||| (1#4 <<< i.val) } ∧
        t.wire = (if (s.regN gpioEn).testBit i.val ∧ s.scanned = false then [.i2c i (ctrl.setWidth 7) ((s.i2cBuf i.val).take
          (min 16 (field ctrl.toNat 8 5)))] else []) ++ s.wire) := by
  have bit : ctrl.toNat.testBit 31 = ctrl.getLsbD 31 := rfl
  have is : exec (.i2cGo i ctrl) s = .next (s.i2cGo i ctrl.toNat) := congrArg Host.Outcome.next (if_pos up)
  have buf : (s.writeReg (i2cAddr i.val 0) ctrl.toNat).i2cBuf i.val = s.i2cBuf i.val := by
    unfold State.i2cBuf
    refine congrArg (fun g => List.flatMap g (List.range 4)) (funext fun j => congrArg (bytesLE 4) (State.regN_setReg_of_ne ?_))
    rw [canonReg_i2c, canonReg_i2c]
    unfold i2cAddr
    omega
  refine ⟨_, is, ?_⟩
  unfold State.i2cGo
  dsimp only
  rw [bit, buf, idle, Bool.or_false]
  cases go : ctrl.getLsbD 31 with
  | false => exact ⟨rfl, fun _ => ⟨rfl, rfl⟩, nofun⟩
  | true =>
    rw [Bool.not_true, if_neg Bool.false_ne_true]
    by_cases sends : (s.regN gpioEn).testBit i.val = true ∧ s.scanned = false
    · rw [if_pos (by rw [sends.1, sends.2]; rfl), if_pos sends]
      exact ⟨rfl, nofun, fun _ => ⟨rfl, rfl⟩⟩
    · rw [if_neg (by simpa using sends), if_neg sends]
      exact ⟨rfl, nofun, fun _ => ⟨rfl, rfl⟩⟩

/-- The transaction's end in the block's state. -/
def State.i2cEnded (i : Fin 4) (r : BitVec 3) (s : State) : State :=
  { s with periph := { s.periph with
    i2cBusy := s.periph.i2cBusy &&& ~~~(1#4 <<< i.val), i2cResult := s.periph.i2cResult.set i.val r } }

theorem i2cDone_kept {r : BitVec 3} {rx : List Byte} (up : s.blockUp i.val = true) (busy : s.periph.i2cBusy.getLsbD i.val = true)
    (small : r.toNat ≤ 3) : let l := rx.take (min 16 (field (s.regN (i2cAddr i.val 0)) 16 5))
    ∃ t, exec (.i2cDone i r rx) s = .next t ∧ t.periph.i2cBusy.getLsbD i.val = false ∧ t.periph.i2cResult[i.val] = r ∧
      t.i2cBuf i.val = (if r = 0 ∨ r = 3 then l ++ (s.i2cBuf i.val).drop l.length else s.i2cBuf i.val) ∧
      (s.power.hub = true → t.dic.pend.getLsbD (99 + i.val) = true) ∧
      t = { s with regs := t.regs, periph := t.periph, dic := t.dic, keepers := t.keepers } := by
  intro l
  have short : l.length ≤ 16 := (List.length_take_le ..).trans (Nat.min_le_left ..)
  have is : exec (.i2cDone i r rx) s = .next ((if r = 0 ∨ r = 3 then (s.i2cEnded i r).i2cFill i.val l else s.i2cEnded i r).raiseP (99 + i.val)) :=
    congrArg Host.Outcome.next (if_pos (by rw [up, busy, decide_eq_true small]; rfl))
  obtain ⟨u, ends, only, buf⟩ : ∃ u, (if r = 0 ∨ r = 3 then (s.i2cEnded i r).i2cFill i.val l else s.i2cEnded i r) = u ∧
      RegsOnly (s.i2cEnded i r) u ∧
      u.i2cBuf i.val = if r = 0 ∨ r = 3 then l ++ (s.i2cBuf i.val).drop l.length else s.i2cBuf i.val := by
    by_cases fills : r = 0 ∨ r = 3
    · refine ⟨_, if_pos fills, State.i2cFill_regsOnly .., ?_⟩
      rw [if_pos fills]
      exact State.i2cBuf_i2cFill (s := s.i2cEnded i r) i.val l short
    · refine ⟨_, if_neg fills, rfl, ?_⟩
      rw [if_neg fills]
      rfl
  rw [ends] at is
  have told := State.raiseP_only (s := u) (n := 99 + i.val)
  have periph : (u.raiseP (99 + i.val)).periph = (s.i2cEnded i r).periph := by rw [told.rest, only]
  refine ⟨_, is, ?_, ?_, ?_, fun hub => State.raiseP_pend ?_ (by omega), ?_⟩
  · rw [periph]
    simp [State.i2cEnded]
  · simp only [periph, State.i2cEnded, Vector.getElem_set_self]
  · rw [← buf]
    unfold State.i2cBuf
    simp only [State.regN, told.reg]
  · rw [only]
    exact hub
  · rw [periph, told.rest, only]
    rfl

/-! ### UART (R455, R457) -/

variable {k : Fin 2} {b : Byte} {q : List Byte}

theorem State.uartLevel_kept (k : Fin 2) :
    (s.uartLevel k).dic.level.getLsbD (103 + k.val) = (!s.periph.uartRx[k.val].isEmpty || s.periph.uartOvr.getLsbD k.val) ∧
    s.uartLevel k = { s with dic := (s.uartLevel k).dic, keepers := (s.uartLevel k).keepers } :=
  State.setLevel_level (103 + k.val) _ (by omega)

theorem exec_uartWrite (up : s.blockUp k.val = true) : exec (.uartWrite k b) s = .next (s.uartPut k b) := congrArg Host.Outcome.next (if_pos up)

theorem uartRead_kept (up : s.blockUp k.val = true) (is : s.periph.uartRx[k.val] = b :: q) :
    ∃ t, exec (.uartRead k) s = .next t ∧ t.answer = BitVec.ofNat 64 (2 ^ 31 + b.toNat) ∧
      t.periph = { s.periph with uartRx := s.periph.uartRx.set k.val q } ∧
      t.dic.level.getLsbD (103 + k.val) = (!q.isEmpty || s.periph.uartOvr.getLsbD k.val) ∧
      t = { s with answer := t.answer, periph := t.periph, dic := t.dic, keepers := t.keepers } := by
  obtain ⟨level, rest⟩ := State.uartLevel_kept (s := { s with periph := { s.periph with uartRx := s.periph.uartRx.set k.val q } }) k
  have taken : s.uartTake k = (({ s with periph := { s.periph with uartRx := s.periph.uartRx.set k.val q } } : State).uartLevel k, 2 ^ 31 + b.toNat) := by
    unfold State.uartTake
    rw [is]
  have is : exec (.uartRead k) s = .next ((s.uartTake k).1.reply (s.uartTake k).2) := congrArg Host.Outcome.next (if_pos up)
  rw [taken] at is
  generalize ({ s with periph := { s.periph with uartRx := s.periph.uartRx.set k.val q } } : State).uartLevel k = t at is level rest
  have periph : t.periph = { s.periph with uartRx := s.periph.uartRx.set k.val q } := by rw [rest]
  refine ⟨_, is, rfl, periph, ?_, ?_⟩
  · refine level.trans ?_
    simp only [Vector.getElem_set_self]
  · rw [show (t.reply (2 ^ 31 + b.toNat)).periph = _ from periph]
    unfold State.reply
    conv_lhs => rw [rest]

/-- A received byte's place: the FIFO, or the overrun flag. -/
def State.uartTaken (k : Fin 2) (b : Byte) (s : State) : State :=
  if s.periph.uartRx[k.val].length < 16 then
    { s with periph := { s.periph with uartRx := s.periph.uartRx.set k.val (s.periph.uartRx[k.val] ++ [b]) } }
  else { s with periph := { s.periph with uartOvr := s.periph.uartOvr ||| (1#2 <<< k.val) } }

theorem uartReceive_kept (on : s.uartOn k = true) : let rx := s.periph.uartRx[k.val]
    ∃ t, exec (.uartReceive k b) s = .next t ∧ t.dic.level.getLsbD (103 + k.val) = true ∧
      t = { s with periph := t.periph, dic := t.dic, keepers := t.keepers } ∧
      (rx.length < 16 → t.periph = { s.periph with uartRx := s.periph.uartRx.set k.val (rx ++ [b]) }) ∧
      (16 ≤ rx.length → t.periph = { s.periph with uartOvr := s.periph.uartOvr ||| (1#2 <<< k.val) }) := by
  intro rx
  have is : exec (.uartReceive k b) s = .next ((s.uartTaken k b).uartLevel k) := congrArg Host.Outcome.next (if_pos on)
  obtain ⟨level, rest⟩ := State.uartLevel_kept (s := s.uartTaken k b) k
  by_cases room : rx.length < 16
  · have taken : s.uartTaken k b = { s with periph := { s.periph with uartRx := s.periph.uartRx.set k.val (rx ++ [b]) } } := if_pos room
    rw [taken] at is level rest
    refine ⟨_, is, level.trans ?_, ?_, fun _ => ?_, fun full => absurd room (Nat.not_lt.2 full)⟩
    · have some_ : (rx ++ [b]).isEmpty = false := by simp
      simp only [Vector.getElem_set_self, some_, Bool.not_false, Bool.true_or]
    · rw [rest]
    · rw [rest]
  · have taken : s.uartTaken k b = { s with periph := { s.periph with uartOvr := s.periph.uartOvr ||| (1#2 <<< k.val) } } := if_neg room
    rw [taken] at is level rest
    refine ⟨_, is, level.trans ?_, ?_, fun yes => absurd yes room, fun _ => ?_⟩
    · have own : (1#2 <<< k.val).getLsbD k.val = true := getLsbD_one_shiftLeft k.isLt
      show (_ || (s.periph.uartOvr ||| (1#2 <<< k.val)).getLsbD k.val) = true
      rw [BitVec.getLsbD_or, own, Bool.or_true, Bool.or_true]
    · rw [rest]
    · rw [rest]

theorem uartRule_kept (k : Fin 2) : let tx := s.periph.uartTx[k.val]
    let rx := s.periph.uartRx[k.val]
    (s.blockUp k.val = true →
      (∀ b, tx.length < 16 → exec (.uartWrite k b) s =
        .next { s with periph := { s.periph with uartTx := s.periph.uartTx.set k.val (tx ++ [b]) } }) ∧
      (∀ b, 16 ≤ tx.length → exec (.uartWrite k b) s = .next s) ∧
      (∀ b q, rx = b :: q → ∃ t, exec (.uartRead k) s = .next t ∧ t.answer = BitVec.ofNat 64 (2 ^ 31 + b.toNat) ∧
        t.periph = { s.periph with uartRx := s.periph.uartRx.set k.val q } ∧
        t.dic.level.getLsbD (103 + k.val) = (!q.isEmpty || s.periph.uartOvr.getLsbD k.val) ∧
        t = { s with answer := t.answer, periph := t.periph, dic := t.dic, keepers := t.keepers }) ∧
      (rx = [] → exec (.uartRead k) s = .next { s with answer := 0 })) ∧
    (s.uartOn k = true →
      (∀ b, ∃ t, exec (.uartReceive k b) s = .next t ∧ t.dic.level.getLsbD (103 + k.val) = true ∧
        t = { s with periph := t.periph, dic := t.dic, keepers := t.keepers } ∧
        (rx.length < 16 → t.periph = { s.periph with uartRx := s.periph.uartRx.set k.val (rx ++ [b]) }) ∧
        (16 ≤ rx.length → t.periph = { s.periph with uartOvr := s.periph.uartOvr ||| (1#2 <<< k.val) })) ∧
      (∀ b q, tx = b :: q → exec (.uartTransmit k) s = .next { s with
        periph := { s.periph with uartTx := s.periph.uartTx.set k.val q }, wire := .uart k b :: s.wire }) ∧
      (tx = [] → exec (.uartTransmit k) s = .next s)) := by
  intro tx rx
  refine ⟨fun up => ⟨fun b room => ?_, fun b full => ?_, fun b q is => uartRead_kept up is, fun empty => ?_⟩,
    fun on => ⟨fun b => uartReceive_kept on, fun b q is => ?_, fun empty => ?_⟩⟩
  · rw [exec_uartWrite up]
    exact congrArg Host.Outcome.next (if_neg (Nat.not_le.2 room))
  · rw [exec_uartWrite up]
    exact congrArg Host.Outcome.next (if_pos full)
  · refine congrArg Host.Outcome.next ((if_pos up).trans ?_)
    dsimp only
    rw [State.uartTake, show s.periph.uartRx[k.val] = [] from empty]
    rfl
  · refine congrArg Host.Outcome.next ((if_pos on).trans ?_)
    rw [show s.periph.uartTx[k.val] = b :: q from is]
    rfl
  · refine congrArg Host.Outcome.next ((if_pos on).trans ?_)
    rw [show s.periph.uartTx[k.val] = [] from empty]

/-! ### TACH and LED (R455, R457) -/

theorem tachEdge_kept {k : Fin 4} {us : Nat} (on : s.tachOn k = true) : ∃ t, exec (.tachEdge k us) s = .next t ∧
    t = { s with periph := t.periph, dic := t.dic, keepers := t.keepers } ∧
    t.periph = { s.periph with
      tachLast := s.periph.tachLast.set k.val (us :: s.periph.tachLast[k.val].take 1)
      tachStall := s.periph.tachStall &&& ~~~(1#4 <<< k.val) } ∧ t.dic.level.getLsbD (105 + k.val) = false := by
  have is : exec (.tachEdge k us) s = .next (s.tachEdge k us) := congrArg Host.Outcome.next (if_pos on)
  obtain ⟨level, rest⟩ := State.setLevel_level (s := { s with periph := { s.periph with
    tachLast := s.periph.tachLast.set k.val (us :: s.periph.tachLast[k.val].take 1)
    tachStall := s.periph.tachStall &&& ~~~(1#4 <<< k.val) } }) (105 + k.val) false (by omega)
  refine ⟨_, is, ?_, ?_, level⟩
  · unfold State.tachEdge
    rw [rest]
  · unfold State.tachEdge
    rw [rest]

theorem tachStall_kept {k : Fin 4} (up : s.blockUp k.val = true) : ∃ t, exec (.tachStall k) s = .next t ∧
    t = { s with periph := t.periph, dic := t.dic, keepers := t.keepers } ∧
    t.periph = { s.periph with tachStall := s.periph.tachStall ||| (1#4 <<< k.val) } ∧
    t.dic.level.getLsbD (105 + k.val) = true := by
  obtain ⟨level, rest⟩ := State.setLevel_level (s := { s with periph := { s.periph with
    tachStall := s.periph.tachStall ||| (1#4 <<< k.val) } }) (105 + k.val) true (by omega)
  refine ⟨_, congrArg Host.Outcome.next (if_pos up), ?_, ?_, level⟩
  · rw [rest]
  · rw [rest]

theorem ledBlink_kept {k : Fin 6} (up : s.blockUp k.val = true) : let src := field (s.regN (ledAddr k.val)) 0 3
    ∃ t, exec (.ledBlink k) s = .next t ∧ t = { s with periph := t.periph, pins := t.pins } ∧
      (∀ j : Fin 6, j ≠ k → t.periph.ledLit.getLsbD j.val = s.periph.ledLit.getLsbD j.val) ∧
      (src = 4 ∨ src = 5 → t.periph.ledLit.getLsbD k.val = !s.periph.ledLit.getLsbD k.val) ∧
      (src = 6 → t.periph.ledLit.getLsbD k.val = false) := by
  intro src
  have own : (1#6 <<< k.val).getLsbD k.val = true := getLsbD_one_shiftLeft k.isLt
  have others (j : Fin 6) (other : j ≠ k) : (1#6 <<< k.val).getLsbD j.val = false := by
    have apart : j.val ≠ k.val := fun same => other (Fin.ext same)
    simp
    omega
  obtain ⟨l, rest⟩ := State.padsSettle_pins { s with periph := { s.periph with ledLit :=
    if src = 4 ∨ src = 5 then s.periph.ledLit ^^^ (1#6 <<< k.val) else if src = 6 then s.periph.ledLit &&& ~~~(1#6 <<< k.val)
    else s.periph.ledLit } }
  have is : exec (.ledBlink k) s = .next (s.ledBlink k.val) := congrArg Host.Outcome.next (if_pos up)
  refine ⟨_, is.trans (congrArg Host.Outcome.next rest), rfl, fun j other => ?_, fun toggles => ?_, fun ends => ?_⟩
  · dsimp only
    split
    · rw [BitVec.getLsbD_xor, others j other, Bool.xor_false]
    · split
      · rw [BitVec.getLsbD_and, BitVec.getLsbD_not, others j other]
        simp
      · rfl
  · dsimp only
    rw [if_pos toggles, BitVec.getLsbD_xor, own, Bool.xor_true]
  · dsimp only
    rw [if_neg (by omega), if_pos ends, BitVec.getLsbD_and, BitVec.getLsbD_not, own]
    simp

end

theorem blocksRule_kept : blocksRule :=
  fun _ => ⟨fun _ _ up idle => i2cGo_kept up idle, fun _ _ _ up busy small => i2cDone_kept up busy small, fun k => uartRule_kept k,
    fun _ _ => ⟨fun on => tachEdge_kept on, fun up => tachStall_kept up⟩, fun _ up => ledBlink_kept up⟩

/-! ### The monitor (R231, R232, R234, R457 to R459) -/

theorem Sparse.get_foldl_set {α : Type} [DecidableEq α] (d : α) (f : Nat → α) (n : Nat) (l : List Nat) : ∀ m : Sparse α,
    Sparse.get d (l.foldl (fun m t => Sparse.set d m t (f t)) m) n = if n ∈ l then f n else Sparse.get d m n := by
  induction l with
  | nil => exact fun m => rfl
  | cons k l ih =>
    intro m
    rw [List.foldl_cons, ih, Sparse.get_set]
    by_cases mem : n ∈ l
    · rw [if_pos mem, if_pos (.tail k mem)]
    · by_cases same : n = k
      · subst same
        rw [if_neg mem, if_pos rfl, if_pos (List.mem_cons_self ..)]
      · rw [if_neg mem, if_neg same, if_neg fun mem' => (List.mem_cons.1 mem').elim same mem]

section
variable {s t : State}

theorem canonReg_mon (o : Nat) : canonReg (monBase + o) = monBase + o := canonReg_of_ge (by unfold monBase; omega)

/-- A flag set in a register of the monitor. -/
theorem State.setFlag_bit {a v i : Nat} (in_ : i < 32) (bit : v.testBit i = true) :
    ((s.setReg a (s.regN a ||| v)).reg a).getLsbD i = true := by
  rw [State.reg_setReg, if_pos rfl, BitVec.getLsbD_ofNat, decide_eq_true in_, Bool.true_and, Nat.testBit_or, bit, Bool.or_true]

theorem monTake_kept : let t := s.monTake
    t.monitor.pending = false ∧ ∀ n, n < 64 → Sparse.get (0, 0, 0) t.monitor.live n = s.tileShadow n ∧
      ∀ y, (n, y) ∈ t.monitor.written ↔ (n, y) ∈ s.monitor.written ∧ Sparse.get (0, 0, 0) s.monitor.live n = s.tileShadow n := by
  refine ⟨rfl, fun n in_ => ⟨?_, fun y => ?_⟩⟩
  · exact (Sparse.get_foldl_set (0, 0, 0) s.tileShadow n (List.range 64) s.monitor.live).trans (if_pos (List.mem_range.2 in_))
  · exact List.mem_filter.trans (and_congr_right fun _ => beq_iff_eq)

theorem monVblank_kept (hub : s.power.hub = true) (en : s.monitor.en = true) :
    ∃ t, exec .monVblank s = .next t ∧ t = { s with monitor := t.monitor, dic := t.dic, keepers := t.keepers } ∧
      t.dic.pend.getLsbD 96 = true ∧ (s.monitor.pending = false → t.monitor = s.monitor) ∧
      (s.monitor.pending = true → t.monitor.pending = false ∧ ∀ n, n < 64 →
        Sparse.get (0, 0, 0) t.monitor.live n = s.tileShadow n ∧
        ∀ y, (n, y) ∈ t.monitor.written ↔ (n, y) ∈ s.monitor.written ∧ Sparse.get (0, 0, 0) s.monitor.live n = s.tileShadow n) := by
  have is : exec .monVblank s = .next ((if s.monitor.pending then s.monTake else s).raiseP 96) :=
    congrArg Host.Outcome.next (if_pos (by rw [hub, en]; rfl))
  refine ⟨_, is, ?_⟩
  cases waits : s.monitor.pending with
  | false =>
    rw [if_neg Bool.false_ne_true, State.raiseP_dic]
    refine ⟨rfl, State.raiseP_pend hub (by decide), fun _ => rfl, nofun⟩
  | true =>
    have told := State.raiseP_dic (s := s.monTake) 96
    have pend := State.raiseP_pend (s := s.monTake) hub (n := 96) (by decide)
    rw [if_pos rfl]
    generalize s.monTake.raiseP 96 = t at told pend ⊢
    have monitor : t.monitor = s.monTake.monitor := by rw [told]
    refine ⟨?_, pend, nofun, fun _ => ?_⟩
    · rw [monitor]
      exact told
    · rw [monitor]
      exact monTake_kept

/-- A change of the monitor told by a source. -/
theorem monitorTold (hub : s.power.hub = true) (m : Monitor) (n : Nat) (small : n < 512) :
    let t := ({ s with monitor := m } : State).raiseP n
    t.dic.pend.getLsbD n = true ∧ t.monitor = m ∧ t = { s with monitor := t.monitor, dic := t.dic, keepers := t.keepers } := by
  have told := State.raiseP_dic (s := { s with monitor := m }) n
  have pend := State.raiseP_pend (s := { s with monitor := m }) hub small
  generalize ({ s with monitor := m } : State).raiseP n = t at told pend
  have monitor : t.monitor = m := by rw [told]
  refine ⟨pend, monitor, ?_⟩
  rw [monitor]
  exact told

theorem exec_monHpd {e : HpdEvent} (hub : s.power.hub = true) (free : s.scanned = false) : exec (.monHpd e) s = .next (match e with
    | .high => if s.monitor.hpd then s else { s with monitor := { s.monitor with hpd := true } }.raiseP 97
    | .low => if s.monitor.hpd then
        { s with monitor := { s.monitor with hpd := false, link := false, lanes := 0, rate := 0 } }.raiseP 97 else s
    | .pulse lost => if s.monitor.hpd then
        { s with monitor := if lost then { s.monitor with link := false, lanes := 0, rate := 0 } else s.monitor }.raiseP 97 else s) := by
  refine congrArg Host.Outcome.next ((if_neg (by rw [hub, free]; decide)).trans ?_)
  cases e <;> rfl

theorem linkTraining_fails {trains : List (Nat × Nat)} (hub : s.power.hub = true) (en : s.monitor.en = true) (hpd : s.monitor.hpd = true)
    (none_ : linkSettings.find? (fun e => decide (monNeed s.monMode * 10 ≤ e.1 * linkRate e.2 * 8) && trains.contains e) = none) :
    ∃ t, exec (.linkTraining trains) s = .next t ∧
      t.monitor = { s.monitor with link := false, lanes := 0, rate := 0 } ∧ (t.reg (monBase + 0x24)).getLsbD 8 = true ∧
      t.dic.pend.getLsbD 98 = true ∧
      t = { s with monitor := t.monitor, regs := t.regs, dic := t.dic, keepers := t.keepers } := by
  have is : exec (.linkTraining trains) s = .next
      (({ s with monitor := { s.monitor with link := false, lanes := 0, rate := 0 } }.setReg (monBase + 0x24)
        (s.regN (monBase + 0x24) ||| 0x100)).raiseP 98) := by
    refine congrArg Host.Outcome.next ((if_pos (by rw [hub, en, hpd]; rfl)).trans ?_)
    rw [State.linkTrain]
    dsimp only
    rw [none_]
  have told := State.raiseP_dic (s := { s with monitor := { s.monitor with link := false, lanes := 0, rate := 0 } }.setReg (monBase + 0x24)
    (s.regN (monBase + 0x24) ||| 0x100)) 98
  have pend := State.raiseP_pend (s := { s with monitor := { s.monitor with link := false, lanes := 0, rate := 0 } }.setReg (monBase + 0x24)
    (s.regN (monBase + 0x24) ||| 0x100)) hub (n := 98) (by decide)
  refine ⟨_, is, ?_, ?_, pend, ?_⟩
  · rw [told]
    rfl
  · rw [told]
    exact State.setFlag_bit (s := { s with monitor := { s.monitor with link := false, lanes := 0, rate := 0 } }) (by decide) (by decide)
  · rw [told]
    rfl

end

theorem monitorRule_kept : monitorRule := by
  refine fun s hub => ⟨fun en => ?_, fun off sound => ?_, fun off unsound => ⟨s.setReg (monBase + 0x18) (s.regN (monBase + 0x18) ||| 4), ?_, ?_⟩,
    congrArg Host.Outcome.next (if_pos hub), fun en => monVblank_kept hub en, fun scanned v => ?_, fun low free => ?_, fun high free => ?_,
    fun high free lost => ?_, fun trains en hpd => ⟨fun e fits => ?_, fun none_ => linkTraining_fails hub en hpd none_⟩⟩
  · refine congrArg Host.Outcome.next ((if_pos hub).trans ?_)
    rw [State.monEnable, if_pos en]
  · refine congrArg Host.Outcome.next ((if_pos hub).trans ?_)
    rw [State.monEnable, if_neg (by rw [off]; exact Bool.false_ne_true), if_pos sound]
  · refine congrArg Host.Outcome.next ((if_pos hub).trans ?_)
    rw [State.monEnable, if_neg (by rw [off]; exact Bool.false_ne_true), if_neg (by rw [unsound]; exact Bool.false_ne_true)]
  · exact ⟨RegsOnly.setReg .., State.setFlag_bit (by decide) (by decide)⟩
  · exact congrArg Host.Outcome.next (if_pos (by rw [scanned, Bool.or_true]))
  · obtain ⟨pend, monitor, rest⟩ := monitorTold (s := s) hub { s.monitor with hpd := true } 97 (by decide)
    refine ⟨_, (exec_monHpd hub free).trans (congrArg Host.Outcome.next (if_neg ?_)), monitor, pend, rest⟩
    rw [low]
    exact Bool.false_ne_true
  · obtain ⟨pend, monitor, rest⟩ := monitorTold (s := s) hub { s.monitor with hpd := false, link := false, lanes := 0, rate := 0 } 97 (by decide)
    exact ⟨_, (exec_monHpd hub free).trans (congrArg Host.Outcome.next (if_pos high)), pend, monitor, rest⟩
  · obtain ⟨pend, monitor, rest⟩ := monitorTold (s := s) hub
      (if lost then { s.monitor with link := false, lanes := 0, rate := 0 } else s.monitor) 97 (by decide)
    exact ⟨_, (exec_monHpd hub free).trans (congrArg Host.Outcome.next (if_pos high)), pend, monitor, rest⟩
  · refine congrArg Host.Outcome.next ((if_pos (by rw [hub, en, hpd]; rfl)).trans ?_)
    rw [State.linkTrain]
    dsimp only
    rw [fits]

/-! ### The test access port (R417, R460, R461) -/

section
variable {s t : State}

/-- The boundary register has the pads under an instruction (R460). -/
def JtagInstr.takes (j : JtagInstr) : Bool := j == .extest || j == .clamp || j == .highz

/-- Under an instruction that leaves the pads to the device each driven pad's level reaches its pin. -/
theorem padsLeft (g : Jtag) (leaves : g.instr.takes = false) : ∃ l, ({ s with jtag := g } : State).padsSettle = { s with jtag := g, pins := l } ∧
    ∀ n v, n < 48 → ({ s with jtag := g, pins := l } : State).padDrive n = some v → (({ s with jtag := g, pins := l } : State).pin n).raw = v := by
  obtain ⟨l, rest⟩ := State.padsSettle_pins { s with jtag := g }
  refine ⟨l, rest, fun n v in_ drive => ?_⟩
  rw [← rest] at drive ⊢
  rw [State.padsSettle_drive in_] at drive
  exact State.padsSettle_raw (s := { s with jtag := g }) leaves in_ drive

/-- Under an instruction that takes them its pins stand. -/
theorem padsTaken (g : Jtag) (takes : g.instr.takes = true) : ({ s with jtag := g } : State).padsSettle = { s with jtag := g } :=
  State.padsSettle_scanned takes

/-- The port after an instruction. -/
def State.jtagNext (j : JtagInstr) (dr : Nat) (s : State) : Jtag :=
  { s.jtag with instr := j, dr := BitVec.ofNat 32 dr, frozen := if j.takes then (if s.scanned then s.jtag.frozen else s.padLevels) else [] }

theorem State.jtagTake_eq (j : JtagInstr) (dr : Nat) : s.jtagTake j dr = ({ s with jtag := s.jtagNext j dr } : State).padsSettle := rfl

theorem leavesPads_of {i : Instr} {j : JtagInstr} {p : State → Prop} (g g' : Jtag) (a : BitVec 64) (leaves : g.instr.takes = false)
    (is : ∀ l, ({ s with jtag := g } : State).padsSettle = { s with jtag := g, pins := l } →
      exec i s = .next { s with jtag := g', answer := a, pins := l })
    (instr : g'.instr = j) (thawed : g'.frozen = []) (holds : ∀ l, p { s with jtag := g', answer := a, pins := l }) : leavesPads i j s p := by
  obtain ⟨l, rest, raws⟩ := padsLeft (s := s) g leaves
  exact ⟨_, is l rest, rfl, instr, thawed, raws, holds l⟩

theorem takesPads_of {i : Instr} {j : JtagInstr} (a : BitVec 64) (takes : j.takes = true)
    (is : ({ s with jtag := s.jtagNext j 0 } : State).padsSettle = { s with jtag := s.jtagNext j 0 } →
      exec i s = .next { s with jtag := s.jtagNext j 0, answer := a }) : takesPads i j s :=
  ⟨_, is (padsTaken _ takes), rfl, rfl, rfl, if_pos takes⟩

end

theorem testPortRule_kept : testPortRule := by
  intro s on
  have up {f : State} : (if s.jtagUp then f else s) = f := if_pos (bne_iff_ne.2 on)
  refine ⟨?_, ?_, fun l => ?_, ?_, ?_, ?_, ?_⟩
  · refine leavesPads_of (s.jtagNext .bypass 0) (s.jtagNext .bypass 0) s.answer rfl (fun q rest => ?_) rfl rfl fun _ => rfl
    exact congrArg Host.Outcome.next (up.trans rest)
  · refine leavesPads_of (s.jtagNext .idcode 0x1516AA43) (s.jtagNext .idcode 0x1516AA43) 0x1516AA43 rfl (fun q rest => ?_) rfl rfl fun _ => ⟨rfl, rfl⟩
    refine congrArg Host.Outcome.next (up.trans ?_)
    rw [State.jtagTake_eq, rest]
    rfl
  · refine leavesPads_of (s.jtagNext .samplePreload 0) { s.jtagNext .samplePreload 0 with bsr := l.take 52 }
      (BitVec.ofNat 64 (levelBits s.padLevels)) rfl (fun q rest => ?_) rfl rfl fun _ => ⟨rfl, rfl⟩
    refine congrArg Host.Outcome.next (up.trans ?_)
    rw [State.jtagTake_eq, rest]
    dsimp only [State.reply]
  · refine takesPads_of (BitVec.ofNat 64 (levelBits s.padLevels)) rfl fun rest => ?_
    have is : exec .extest s = .next ((s.jtagTake .extest 0).reply (levelBits s.padLevels)) := congrArg Host.Outcome.next up
    rw [is, State.jtagTake_eq, rest]
    rfl
  · exact takesPads_of s.answer rfl fun rest => congrArg Host.Outcome.next (up.trans rest)
  · exact takesPads_of s.answer rfl fun rest => congrArg Host.Outcome.next (up.trans rest)
  · refine leavesPads_of State.reset.jtag State.reset.jtag s.answer rfl (fun q rest => ?_) rfl rfl fun _ => rfl
    exact congrArg Host.Outcome.next (up.trans rest)

/-- Settles O55: a pass over the pads changes each pin by its own drive, and every block changes its own state and signals. -/
theorem pinAndMonitorCommands : Obligations.PinAndMonitorCommands := ⟨gpioRule_kept, blocksRule_kept, monitorRule_kept, testPortRule_kept⟩

end Sys2Proof.Machine

/-! ## Display words by beam position (R199 to R202, R208 to R211, R222, R225)

A store that no entry of the line program stands at lands on top: the word takes its value, and what it was is kept for positions
before it. -/
namespace Sys2Proof.Machine
open Sys2Proof Sys2Proof.Claims

section
variable {x y : Session} {a b v : Nat}

/-! ### Words of a session -/

theorem Session.ioW_setIo : (x.setIo a v).ioW b = if b = a then BitVec.ofNat 16 v else x.ioW b := by
  by_cases same : b = a
  · subst same
    rw [if_pos rfl]
    exact (Sparse.get_set ..).trans (if_pos rfl)
  · rw [if_neg same]
    exact Sparse.get_set_of_ne same

theorem Session.undo_setIo : (x.setIo a v).undo = x.undo := rfl

theorem Session.ioN_setIo : (x.setIo a v).ioN b = if b = a then v % 65536 else x.ioN b := by
  rw [Session.ioN, Session.ioW_setIo]
  split
  · exact BitVec.toNat_ofNat ..
  · rfl

theorem Session.liveN_setLive : (x.setLive a v).liveN b = if b = a then v % 65536 else x.liveN b := by
  unfold Session.liveN
  by_cases same : b = a
  · subst same
    rw [if_pos rfl, ← BitVec.toNat_ofNat v 16]
    exact congrArg BitVec.toNat ((Sparse.get_set ..).trans (if_pos rfl))
  · rw [if_neg same]
    exact congrArg BitVec.toNat (Sparse.get_set_of_ne same)

theorem Session.liveN_lt : x.liveN a < 65536 := (Sparse.get (ioReset x.grand a) x.live a).isLt

theorem Session.ioN_lt : x.ioN a < 65536 := (x.ioW a).isLt

theorem Session.ioW_orIo : (x.orIo a v).ioW b = if b = a then x.ioW a ||| BitVec.ofNat 16 v else x.ioW b := by
  rw [Session.orIo, Session.ioW_setIo, BitVec.ofNat_or]
  exact if_congr Iff.rfl (congrArg (· ||| _) (BitVec.ofNat_toNat ..)) rfl

/-! ### Landing on top (R199, R200) -/

variable {lpg : Bool} {pos : Nat × Nat × Nat} {k : UndoKind} {w : BitVec 24}

/-- No entry of the line program for words of a kind stands at a position. -/
def Session.apart (pos : Nat × Nat × Nat) (k : UndoKind) (x : Session) : Prop :=
  ∀ e ∈ x.undo, e.lpg = true → e.kind = k → (e.frame, e.line, e.dot) ≠ pos

/-- What a landing notes of the word it replaces. -/
def Session.undoOf (lpg : Bool) (pos : Nat × Nat × Nat) (k : UndoKind) (a : Nat) (x : Session) : BeamUndo :=
  { frame := pos.1, line := pos.2.1, dot := pos.2.2, kind := k, addr := a, old := x.nowAt k a, lpg := lpg }

theorem undoBeneath_none {n : BeamUndo} : ∀ {l : List BeamUndo}, (∀ e ∈ l, e.sameAs n = false) → undoBeneath n w l = none
  | [], _ => rfl
  | e :: l, none_ => by
    rw [undoBeneath, undoBeneath_none fun e mem => none_ e (.tail _ mem)]
    dsimp only
    rw [none_ e (.head l)]
    rfl

theorem BeamUndo.sameAs_iff {e n : BeamUndo} : e.sameAs n = true ↔
    (e.frame, e.line, e.dot) = (n.frame, n.line, n.dot) ∧ e.kind = n.kind ∧ e.addr = n.addr ∧ e.lpg = true := by
  simp only [BeamUndo.sameAs, Bool.and_eq_true, beq_iff_eq, Prod.mk.injEq]
  tauto

theorem Session.land_top (top : lpg = true ∨ x.apart pos k) :
    x.land lpg pos k a w = { x.putNow k a w with undo := x.undoOf lpg pos k a :: x.undo } := by
  have none_ : (if lpg then none else undoBeneath (x.undoOf lpg pos k a) w x.undo) = none := by
    cases lpg with
    | true => rfl
    | false =>
      refine undoBeneath_none fun e mem => Bool.eq_false_iff.2 fun same => ?_
      obtain ⟨at_, kind, -, program⟩ := BeamUndo.sameAs_iff.1 same
      exact (top.resolve_left Bool.false_ne_true) e mem program kind at_
  unfold Session.land
  dsimp only
  unfold Session.undoOf at none_ ⊢
  rw [none_]

theorem Session.apart.of_undo (top : x.apart pos k) (same : y.undo = x.undo) : y.apart pos k := by
  unfold Session.apart
  rw [same]
  exact top

/-- A landing of the session's own program leaves no entry of the line program. -/
theorem Session.apart.land (top : x.apart pos k) {pos' : Nat × Nat × Nat} {k' : UndoKind} (stays : x.apart pos' k') :
    (x.land false pos k a w).apart pos' k' := by
  rw [Session.land_top (.inr top)]
  intro e mem program kind
  rcases List.mem_cons.1 mem with rfl | mem
  · exact absurd program Bool.false_ne_true
  · exact stays e mem program kind

theorem lpgApart_apart (all : lpgApart x) (k : UndoKind) : x.apart x.lastPos k := fun e mem program _ => all e mem program

/-! What a landed word reads as, by its kind. -/

theorem Session.land_io (top : lpg = true ∨ x.apart pos .io) : x.land lpg pos .io a w =
    { x.setIo a w.toNat with undo := x.undoOf lpg pos .io a :: x.undo } := Session.land_top top

theorem Session.land_live (top : lpg = true ∨ x.apart pos .live) : x.land lpg pos .live a w =
    { x.setLive a w.toNat with undo := x.undoOf lpg pos .live a :: x.undo } := Session.land_top top

theorem Session.land_palette (top : lpg = true ∨ x.apart pos .palette) : x.land lpg pos .palette a w =
    { x with pal := Sparse.set 0 x.pal a w, undo := x.undoOf lpg pos .palette a :: x.undo } := Session.land_top top

theorem Session.ioW_land_io (top : lpg = true ∨ x.apart pos .io) :
    (x.land lpg pos .io a w).ioW b = if b = a then BitVec.ofNat 16 w.toNat else x.ioW b := by
  rw [Session.land_io top]
  exact Session.ioW_setIo (x := x)

theorem Session.ioW_land_palette (top : lpg = true ∨ x.apart pos .palette) : (x.land lpg pos .palette a w).ioW b = x.ioW b := by
  rw [Session.land_palette top]
  rfl

theorem Session.ioW_land_live (top : lpg = true ∨ x.apart pos .live) : (x.land lpg pos .live a w).ioW b = x.ioW b := by
  rw [Session.land_live top]
  rfl

theorem Session.liveN_land_live (top : lpg = true ∨ x.apart pos .live) :
    (x.land lpg pos .live a w).liveN b = if b = a then w.toNat % 65536 else x.liveN b := by
  rw [Session.land_live top]
  exact Session.liveN_setLive (x := x)

theorem Session.palEntry_land_palette (top : lpg = true ∨ x.apart pos .palette) (j : Nat) :
    (x.land lpg pos .palette (a % x.palSize) w).palEntry j = if j % x.palSize = a % x.palSize then w else x.palEntry j := by
  rw [Session.land_palette top]
  exact Sparse.get_set ..

end

/-! ### A session's state -/

section
variable {c : CtxNo} {s : State} {x : Session}

theorem onSession_modSes (is : s.ses c = some x) (f : Session → Session) : onSession s (s.modSes c f) c (f x) := by
  have ses : (s.ctx c).ses = some x := is
  refine ⟨rfl, fun c' other => ?_, ?_⟩
  · rw [State.modSes, State.ctx_modCtx, if_neg other]
  · rw [State.modSes, State.ctx_modCtx, if_pos rfl, ses]
    rfl

theorem State.sesD_of {α : Type} {d : α} {f : Session → α} (is : s.ses c = some x) : s.sesD c d f = f x := by
  rw [State.sesD, is]

end
/-! ### The vertical-blank instant (R209, R210, R225) -/

theorem IntSt.raise_pend {n : Nat} (small : n < 16) (i : IntSt) : (i.raise n).pend.getLsbD n = true := by
  unfold IntSt.raise
  split
  · next set => exact set
  · show (i.pend ||| (1#16 <<< n)).getLsbD n = true
    rw [BitVec.getLsbD_or, getLsbD_one_shiftLeft small, Bool.or_true]

section
variable {x y z : Session} {a b v : Nat} {pos : Nat × Nat × Nat}

/-- The timing shadows set back to the live values. -/
def Session.resetTiming (x : Session) : Session :=
  x.timingLive.zipIdx.foldl (fun (z : Session) (e : Nat × Nat) => z.setIo (0xF000 + e.2) e.1) x

/-- Words of the list stored change no other. -/
theorem Session.setIos_only (l : List (Nat × Nat)) : ∀ x : Session,
    let y := l.foldl (fun (z : Session) (e : Nat × Nat) => z.setIo (0xF000 + e.2) e.1) x
    y = { x with io := y.io } ∧ ∀ b, (∀ e ∈ l, b ≠ 0xF000 + e.2) → y.ioW b = x.ioW b := by
  induction l with
  | nil => exact fun x => ⟨rfl, fun b _ => rfl⟩
  | cons e l ih =>
    intro x
    obtain ⟨rest, words⟩ := ih (x.setIo (0xF000 + e.2) e.1)
    refine ⟨rest, fun b others => (words b fun e' mem => others e' (.tail e mem)).trans ?_⟩
    rw [Session.ioW_setIo, if_neg (others e (.head l))]

theorem Session.resetTiming_only : x.resetTiming = { x with io := x.resetTiming.io } := (Session.setIos_only _ x).1

theorem Session.resetTiming_ioW (above : 0xF005 ≤ b) : x.resetTiming.ioW b = x.ioW b := by
  refine (Session.setIos_only _ x).2 b fun e mem => ?_
  have small := List.snd_lt_of_mem_zipIdx mem
  have five : x.timingLive.length = 5 := by rw [Session.timingLive, List.length_map, List.length_range]
  omega

/-- Step 1 of R210 changes the timing shadows, its status bits and the next frame's timing at most. -/
structure CommitsTiming (x y : Session) : Prop where
  rest : y = { x with io := y.io, nextTiming := y.nextTiming }
  words : ∀ b, 0xF00A ≤ b → y.ioW b = x.ioW b
  pending : (y.ioW 0xF009).getLsbD 8 = (x.ioW 0xF009).getLsbD 8

theorem Session.refuseTiming (bits : Nat) (low : bits = 1 ∨ bits = 2) : CommitsTiming x (x.resetTiming.orIo 0xF009 bits) := by
  refine ⟨?_, fun b above => ?_, ?_⟩
  · unfold Session.orIo Session.setIo
    rw [Session.resetTiming_only]
  · rw [Session.ioW_orIo, if_neg (by omega), Session.resetTiming_ioW (by omega)]
  · rw [Session.ioW_orIo, if_pos rfl, Session.resetTiming_ioW (by decide), BitVec.getLsbD_or]
    rcases low with rfl | rfl <;> exact Bool.or_false _

theorem Session.commitTiming_commits (cx : Context) : CommitsTiming x (x.commitTiming cx) := by
  unfold Session.commitTiming
  dsimp only
  split
  · exact ⟨rfl, fun _ _ => rfl, rfl⟩
  · split
    · exact Session.refuseTiming 1 (.inl rfl)
    · split
      · exact Session.refuseTiming 2 (.inr rfl)
      · exact ⟨rfl, fun _ _ => rfl, rfl⟩

/-- The shadows of the list made live at a position. -/
def Session.commitWords (pos : Nat × Nat × Nat) (l : List Nat) (x : Session) : Session :=
  l.foldl (fun (z : Session) a => if z.liveN a = z.ioN a then z else z.land false pos .live a (BitVec.ofNat 24 (z.ioN a))) x

/-- Live words change, and what stood there is noted. -/
structure CommitsLive (x y : Session) : Prop where
  rest : y = { x with live := y.live, undo := y.undo }
  apart : ∀ pos, x.apart pos .live → y.apart pos .live

theorem CommitsLive.refl (x : Session) : CommitsLive x x := ⟨rfl, fun _ apart => apart⟩

theorem CommitsLive.trans (f : CommitsLive x y) (g : CommitsLive y z) : CommitsLive x z :=
  ⟨by rw [g.rest, f.rest], fun pos apart => g.apart pos (f.apart pos apart)⟩

theorem CommitsLive.ioW (f : CommitsLive x y) : y.ioW b = x.ioW b := by
  rw [f.rest]
  rfl

theorem Session.landLive_commits {w : BitVec 24} (top : x.apart pos .live) : CommitsLive x (x.land false pos .live a w) := by
  refine ⟨?_, fun pos' stays => top.land stays⟩
  rw [Session.land_live (.inr top)]
  rfl

theorem Session.commitWords_commits (l : List Nat) : ∀ x : Session, x.apart pos .live → CommitsLive x (x.commitWords pos l) ∧
    ∀ a, (x.commitWords pos l).liveN a = if a ∈ l then x.ioN a else x.liveN a := by
  induction l with
  | nil => exact fun x _ => ⟨.refl x, fun a => rfl⟩
  | cons b l ih =>
    intro x top
    obtain ⟨first, live⟩ : CommitsLive x (if x.liveN b = x.ioN b then x else x.land false pos .live b (BitVec.ofNat 24 (x.ioN b))) ∧
        ∀ a, (if x.liveN b = x.ioN b then x else x.land false pos .live b (BitVec.ofNat 24 (x.ioN b))).liveN a =
          if a = b then x.ioN a else x.liveN a := by
      split
      · next same =>
        refine ⟨.refl x, fun a => ?_⟩
        split
        · next at_ => rw [at_, same]
        · rfl
      · refine ⟨Session.landLive_commits top, fun a => ?_⟩
        have small := x.ioN_lt (a := b)
        have whole : x.ioN b % 2 ^ 24 % 65536 = x.ioN b := by omega
        rw [Session.liveN_land_live (.inr top), BitVec.toNat_ofNat, whole]
        split
        · next at_ => rw [at_]
        · rfl
    obtain ⟨rest, words⟩ := ih _ (first.apart pos top)
    refine ⟨first.trans rest, fun a => (words a).trans ?_⟩
    rw [live, Session.ioN, first.ioW, ← Session.ioN]
    by_cases mem : a ∈ l
    · rw [if_pos mem, if_pos (.tail b mem)]
    · by_cases same : a = b
      · rw [if_neg mem, if_pos same, if_pos (same ▸ List.mem_cons_self ..)]
      · rw [if_neg mem, if_neg same, if_neg fun mem' => (List.mem_cons.1 mem').elim same mem]

theorem Session.commitComp_commits (top : ∀ pos, x.apart pos .live) : CommitsLive x x.commitComp ∧
    ∀ a, x.commitComp.liveN a = if a ∈ shadowedComp then x.ioN a else x.liveN a :=
  Session.commitWords_commits shadowedComp x (top _)

theorem Session.landScale_commits (top : ∀ pos, x.apart pos .live) (small : v < 65536) : CommitsLive x (x.landScale v) ∧
    ∀ a, (x.landScale v).liveN a = if a = scaleWord then v else x.liveN a := by
  unfold Session.landScale
  split
  · next same =>
    refine ⟨.refl x, fun a => ?_⟩
    split
    · next at_ => rw [at_, same]
    · rfl
  · refine ⟨Session.landLive_commits (top _), fun a => ?_⟩
    have whole : v % 2 ^ 24 % 65536 = v := by omega
    rw [Session.liveN_land_live (.inr (top _)), BitVec.toNat_ofNat, whole]

/-- The scaling pair fits the timing of the next frame (R225). -/
def Session.scaleFits (x : Session) : Bool :=
  let p := match x.nextTiming with | some l => l.map BitVec.toNat | none => x.timingLive
  scaleOk (x.liveN 0xF631) (p.getD 1 0) && scaleOk (x.liveN 0xF632) (p.getD 3 0)

/-- Words of the next timing and of the registers stand, so the check of the scaling pair stands. -/
theorem Session.scaleFits_congr (next : y.nextTiming = x.nextTiming) (live : ∀ a, a ≠ scaleWord → y.liveN a = x.liveN a) :
    y.scaleFits = x.scaleFits := by
  have timing : y.timingLive = x.timingLive := by
    refine List.map_congr_left fun i mem => live _ ?_
    have := List.mem_range.1 mem
    unfold scaleWord
    omega
  unfold Session.scaleFits
  rw [next, timing, live _ (by decide), live _ (by decide)]

/-- The check of the scaling pair (R225). -/
structure ChecksScale (x y : Session) : Prop where
  rest : y = { x with io := y.io, live := y.live, undo := y.undo }
  words : ∀ b, b ≠ 0xF638 → y.ioW b = x.ioW b
  live : ∀ a, a ≠ scaleWord → y.liveN a = x.liveN a
  scale : y.liveN scaleWord = if y.scaleFits then 0 else 1
  refused : y.scaleFits = false → (y.ioW 0xF638).getLsbD 0 = true

theorem Session.checkScale_checks (top : ∀ pos, x.apart pos .live) : ChecksScale x x.checkScale := by
  have is : x.checkScale = if x.scaleFits then x.landScale 0 else (x.orIo 0xF638 1).landScale 1 := rfl
  rw [is]
  cases fits : x.scaleFits with
  | true =>
    obtain ⟨commits, live⟩ := Session.landScale_commits top (v := 0) (by decide)
    generalize x.landScale 0 = y at commits live
    have others (a : Nat) (other : a ≠ scaleWord) : y.liveN a = x.liveN a := by rw [live, if_neg other]
    have next : y.nextTiming = x.nextTiming := by rw [commits.rest]
    have same : y.scaleFits = true := by rw [Session.scaleFits_congr next others, fits]
    rw [if_pos rfl]
    refine ⟨?_, fun b _ => commits.ioW, others, ?_, fun no => absurd same (by rw [no]; exact Bool.false_ne_true)⟩
    · have io : y.io = x.io := by rw [commits.rest]
      rw [io]
      exact commits.rest
    · rw [same, live, if_pos rfl]
      rfl
  | false =>
    obtain ⟨commits, live⟩ := Session.landScale_commits (x := x.orIo 0xF638 1) top (v := 1) (by decide)
    generalize (x.orIo 0xF638 1).landScale 1 = y at commits live
    have others (a : Nat) (other : a ≠ scaleWord) : y.liveN a = x.liveN a := by rw [live, if_neg other]; rfl
    have next : y.nextTiming = x.nextTiming := by rw [commits.rest]; rfl
    have same : y.scaleFits = false := by rw [Session.scaleFits_congr next others, fits]
    rw [if_neg Bool.false_ne_true]
    refine ⟨?_, fun b other => ?_, others, ?_, fun _ => ?_⟩
    · have io : y.io = (x.orIo 0xF638 1).io := by rw [commits.rest]
      rw [io]
      exact commits.rest
    · rw [commits.ioW, Session.ioW_orIo, if_neg other]
    · rw [same, live, if_pos rfl]
      rfl
    · rw [commits.ioW, Session.ioW_orIo, if_pos rfl, BitVec.getLsbD_or]
      exact Bool.or_true _

theorem clear_pending {n : Nat} (set : n.testBit 8 = true) : (BitVec.ofNat 16 (n - 0x100)).getLsbD 8 = false := by
  rw [BitVec.getLsbD_ofNat, Nat.testBit_eq_decide_div_mod_eq]
  rw [Nat.testBit_eq_decide_div_mod_eq, decide_eq_true_eq] at set
  have apart : ¬ (n - 0x100) / 2 ^ 8 % 2 = 1 := by omega
  rw [decide_eq_false apart, Bool.and_false]

/-- The vertical blank's commit, where PENDING asks for it. -/
def Session.vblankCommit (cx : Context) (x : Session) : Session :=
  if wbit (x.ioW 0xF009) 8 then ((x.commitTiming cx).setIo 0xF009 ((x.commitTiming cx).ioN 0xF009 - 0x100)).commitComp else x

structure CommitsBlank (x y : Session) : Prop where
  rest : y = { x with io := y.io, nextTiming := y.nextTiming, live := y.live, undo := y.undo }
  apart : (∀ pos, x.apart pos .live) → ∀ pos, y.apart pos .live
  idle : (x.ioW 0xF009).getLsbD 8 = false → y = x
  done : (∀ pos, x.apart pos .live) → (x.ioW 0xF009).getLsbD 8 = true →
    (y.ioW 0xF009).getLsbD 8 = false ∧ ∀ a ∈ shadowedComp, y.liveN a = x.ioN a

theorem shadowedComp_above : ∀ a ∈ shadowedComp, 0xF00A ≤ a ∧ a ≠ scaleWord ∧ a ≠ 0xF638 := by decide

theorem Session.vblankCommit_commits (cx : Context) (top : ∀ pos, x.apart pos .live) : CommitsBlank x (x.vblankCommit cx) := by
  unfold Session.vblankCommit
  cases pending : wbit (x.ioW 0xF009) 8 with
  | false => exact ⟨rfl, fun apart => apart, fun _ => rfl, fun _ set => absurd (pending.symm.trans set) Bool.false_ne_true⟩
  | true =>
    rw [if_pos rfl]
    obtain ⟨rest, words, bit⟩ := Session.commitTiming_commits (x := x) cx
    generalize x.commitTiming cx = y at rest words bit
    have undo : y.undo = x.undo := by rw [rest]
    have cleared : (y.ioW 0xF009).getLsbD 8 = true → (BitVec.ofNat 16 (y.ioN 0xF009 - 0x100)).getLsbD 8 = false := clear_pending
    generalize y.ioN 0xF009 - 0x100 = w at cleared ⊢
    have stays (pos : Nat × Nat × Nat) : (y.setIo 0xF009 w).apart pos .live :=
      (top pos).of_undo (Session.undo_setIo.trans undo)
    obtain ⟨commits, live⟩ := Session.commitComp_commits stays
    generalize (y.setIo 0xF009 w).commitComp = z at commits live ⊢
    refine ⟨?_, fun _ pos => commits.apart pos (stays pos), fun clear => ?_, fun _ _ => And.intro ?_ ?_⟩
    · have io : z.io = (y.setIo 0xF009 w).io := by rw [commits.rest]
      have next : z.nextTiming = y.nextTiming := by rw [commits.rest]; rfl
      rw [io, next]
      conv_lhs => rw [commits.rest]
      unfold Session.setIo
      rw [rest]
    · exact absurd (clear.symm.trans pending) Bool.false_ne_true
    · rw [commits.ioW, Session.ioW_setIo, if_pos rfl]
      exact cleared (bit.trans pending)
    · intro a mem
      rw [live, if_pos mem, Session.ioN_setIo, if_neg (by have := (shadowedComp_above a mem).1; omega), Session.ioN,
        words a (shadowedComp_above a mem).1, Session.ioN]

theorem Session.vblank_kept (cx : Context) (top : ∀ pos, x.apart pos .live) : let y := x.vblank cx
    y.int.pend.getLsbD 0 = true ∧ y.vblankDone = true ∧ y.cpu = x.cpu ∧ y.vcyc = x.vcyc ∧ y.pal = x.pal ∧
    (y.liveN scaleWord = (if y.scaleFits then 0 else 1) ∧ (y.scaleFits = false → (y.ioW 0xF638).getLsbD 0 = true)) ∧
    ((x.ioW 0xF009).getLsbD 8 = false → ∀ a, a ≠ scaleWord → y.liveN a = x.liveN a) ∧
    ((x.ioW 0xF009).getLsbD 8 = true → (y.ioW 0xF009).getLsbD 8 = false ∧ ∀ a ∈ shadowedComp, y.liveN a = x.ioN a) := by
  obtain ⟨rest, apart, idle, done⟩ := Session.vblankCommit_commits cx top
  have checks := Session.checkScale_checks (apart top)
  have is : x.vblank cx = { (x.vblankCommit cx).checkScale with
    vblankDone := true, int := (x.vblankCommit cx).checkScale.int.raise 0 } := rfl
  rw [is]
  generalize x.vblankCommit cx = y at rest apart idle done checks ⊢
  obtain ⟨more, words, live, scale, refused⟩ := checks
  generalize y.checkScale = z at more words live scale refused ⊢
  refine ⟨?_, rfl, ?_, ?_, ?_, ⟨scale, refused⟩, fun clear a other => ?_, fun set => ⟨?_, fun a mem => ?_⟩⟩
  · exact IntSt.raise_pend (by decide) _
  · show z.cpu = _
    rw [more, rest]
  · show z.vcyc = _
    rw [more, rest]
  · show z.pal = _
    rw [more, rest]
  · rw [← idle clear]
    exact live a other
  · exact (congrArg (·.getLsbD 8) (words _ (by decide))).trans (done top set).1
  · exact (live a (shadowedComp_above a mem).2.1).trans ((done top set).2 a mem)

end

/-! ### The rows of the display (R208 to R211, R222) -/

section
variable {c : CtxNo} {s : State} {x : Session}

/-- A store of GO. -/
theorem Session.videoStore_go (pos : Nat × Nat × Nat) : x.videoStore false pos 0xF008 1 = x.setIo 0xF009 (x.ioN 0xF009 ||| 0x100) := rfl

/-- The index after the last entry is the first again. -/
theorem Session.palNext_lt (x : Session) (n : Nat) : (n % x.palSize + 1) % x.palSize < 65536 := by
  have within : x.palSize ≤ 2048 ∧ 0 < x.palSize := by
    unfold Session.palSize
    split <;> decide
  have := Nat.mod_lt (n % x.palSize + 1) within.2
  omega

/-- A store of CMP_PALW1 (R222). -/
theorem Session.videoStore_palette (w1 : Word) (apart : lpgApart x) : let y := x.videoStore false x.lastPos 0xF643 w1
    (∀ j, y.palEntry j = if j % x.palSize = x.ioN 0xF640 % x.palSize then
      BitVec.ofNat 24 (x.ioN 0xF642 % 256 * 65536 + w1.toNat) else x.palEntry j) ∧
    y.ioN 0xF640 = (x.ioN 0xF640 % x.palSize + 1) % x.palSize ∧ y.cpu = x.cpu := by
  have top (k : UndoKind) := lpgApart_apart apart k
  have is : x.videoStore false x.lastPos 0xF643 w1 =
      ((x.writePalette false x.lastPos (x.ioN 0xF640) (x.ioW 0xF642) w1).land false x.lastPos .io 0xF643 (w1.setWidth 24)).land false x.lastPos
        .io 0xF640 (BitVec.ofNat 24 ((x.ioN 0xF640 % x.palSize + 1) % x.palSize)) := rfl
  have first : x.writePalette false x.lastPos (x.ioN 0xF640) (x.ioW 0xF642) w1 = x.land false x.lastPos .palette (x.ioN 0xF640 % x.palSize)
      (BitVec.ofNat 24 (x.ioN 0xF642 % 256 * 65536 + w1.toNat)) := rfl
  have kept1 : ∀ k, (x.land false x.lastPos .palette (x.ioN 0xF640 % x.palSize)
      (BitVec.ofNat 24 (x.ioN 0xF642 % 256 * 65536 + w1.toNat))).apart x.lastPos k := fun k => (top .palette).land (top k)
  have pal (j : Nat) := Session.palEntry_land_palette (lpg := false) (a := x.ioN 0xF640)
    (w := BitVec.ofNat 24 (x.ioN 0xF642 % 256 * 65536 + w1.toNat)) (.inr (top .palette)) j
  have cpu : (x.land false x.lastPos .palette (x.ioN 0xF640 % x.palSize)
      (BitVec.ofNat 24 (x.ioN 0xF642 % 256 * 65536 + w1.toNat))).cpu = x.cpu := by rw [Session.land_palette (.inr (top .palette))]
  have small := x.palNext_lt (x.ioN 0xF640)
  rw [is, first]
  generalize x.land false x.lastPos .palette (x.ioN 0xF640 % x.palSize) (BitVec.ofNat 24 (x.ioN 0xF642 % 256 * 65536 + w1.toNat)) = y1
    at kept1 pal cpu ⊢
  have kept2 : (y1.land false x.lastPos .io 0xF643 (w1.setWidth 24)).apart x.lastPos .io := (kept1 .io).land (kept1 .io)
  have io2 := Session.land_io (lpg := false) (a := 0xF643) (w := w1.setWidth 24) (.inr (kept1 .io))
  dsimp only
  rw [Session.land_io (.inr kept2), io2]
  refine ⟨pal, ?_, cpu⟩
  refine (Session.ioN_setIo (x := y1.setIo 0xF643 _)).trans ?_
  rw [if_pos rfl, BitVec.toNat_ofNat]
  generalize (x.ioN 0xF640 % x.palSize + 1) % x.palSize = n at small
  omega

/-- A load of CMP_PALW1 moves the index on. -/
theorem Session.palAdvance_kept (apart : lpgApart x) : let y := x.palAdvance
    y.ioN 0xF640 = (x.ioN 0xF640 % x.palSize + 1) % x.palSize ∧ y.pal = x.pal := by
  have is : x.palAdvance = x.land false x.lastPos .io 0xF640 (BitVec.ofNat 24 ((x.ioN 0xF640 % x.palSize + 1) % x.palSize)) := rfl
  have small := x.palNext_lt (x.ioN 0xF640)
  dsimp only
  rw [is, Session.land_io (.inr (lpgApart_apart apart .io))]
  refine ⟨(Session.ioN_setIo (x := x)).trans ?_, rfl⟩
  rw [if_pos rfl, BitVec.toNat_ofNat]
  generalize (x.ioN 0xF640 % x.palSize + 1) % x.palSize = n at small
  omega

theorem Session.beamRead_kept : let y := x.beamRead
    y = { x with io := y.io } ∧ y.ioN 0xF010 = x.lastPos.2.1 % 65536 ∧ y.ioN 0xF011 = x.lastPos.2.2 % 65536 ∧
      y.ioN 0xF012 = x.lastPos.1 % 65536 := by
  refine ⟨rfl, ?_, ?_, ?_⟩
  · rw [Session.beamRead, Session.ioN_setIo, if_neg (by decide), Session.ioN_setIo, if_neg (by decide), Session.ioN_setIo, if_pos rfl]
  · rw [Session.beamRead, Session.ioN_setIo, if_neg (by decide), Session.ioN_setIo, if_pos rfl]
  · rw [Session.beamRead, Session.ioN_setIo, if_pos rfl, Nat.mod_mod]

theorem State.lpgCatchUp_rests {m : Reach} (is : s.ses c = some x) (rests : lpgRests x m) : s.lpgCatchUp c m = (s, true) := by
  have none_ (n : Nat) : s.lpgRun c m n = (s, true) := by
    cases n with
    | zero => rfl
    | succ n =>
      rw [State.lpgRun, State.sesD_of is, rests.1, State.sesD_of is, rests.2]
      rfl
  exact none_ _

/-- An answer beside a session's change. -/
theorem onSession_reply {t : State} {y : Session} (on : onSession s t c y) (n : Nat) :
    onSession { s with answer := (t.reply n).answer } (t.reply n) c y := by
  obtain ⟨rest, others, own⟩ := on
  refine ⟨?_, others, own⟩
  rw [rest]
  rfl

end

/-- Settles O36: a store lands on top where no entry of the line program stands at its position; the vertical blank commits, checks and
raises in that order. -/
theorem videoCommands : Obligations.VideoCommands := by
  intro c s x live is
  refine ⟨fun on => ?_, fun due clear => ?_, fun due => ?_, fun on => ?_, fun w1 on apart => ?_, fun s1 u on reached is1 apart => ?_,
    fun off w1 i mem => ?_⟩
  · refine ⟨_, _, congrArg Host.Outcome.next (if_pos on), onSession_modSes is _, rfl, ?_, fun a other => ?_⟩
    · rw [Session.videoStore_go, Session.ioW_setIo, if_pos rfl, BitVec.ofNat_or]
      exact congrArg (· ||| _) (BitVec.ofNat_toNat ..)
    · rw [Session.videoStore_go, Session.ioW_setIo, if_neg other]
  · have top (pos : Nat × Nat × Nat) : x.apart pos .live := fun e mem program kind =>
      absurd (program.symm.trans (clear e mem kind)) Bool.noConfusion
    refine ⟨_, _, congrArg Host.Outcome.next (if_pos ?_), onSession_modSes is _, Session.vblank_kept (s.ctx c) top⟩
    rw [live, State.sesD_of is, due]
    rfl
  · refine ⟨_, congrArg Host.Outcome.next (if_pos ?_), onSession_modSes is _⟩
    rw [live, State.sesD_of is, due]
    rfl
  · obtain ⟨rest, line, dot, frame⟩ := Session.beamRead_kept (x := x)
    have answers : (s.modSes c (·.beamRead)).sesD c 0 (·.ioN 0xF010) = x.lastPos.2.1 % 65536 := by
      rw [State.sesD, State.ses_modSes, if_pos rfl, is]
      exact line
    refine ⟨_, _, congrArg Host.Outcome.next (if_pos on), onSession_reply (onSession_modSes is _) _, rest, ?_, dot, frame⟩
    exact congrArg (BitVec.ofNat 64) answers
  · exact ⟨_, _, congrArg Host.Outcome.next (if_pos on), onSession_modSes is _, Session.videoStore_palette w1 apart⟩
  · have caught : s.lpgCatchUp c .last = (s1, true) :=
      reached.elim id fun rests => (State.lpgCatchUp_rests is rests.1).trans (by rw [rests.2])
    obtain ⟨index, pal⟩ := Session.palAdvance_kept apart
    have runs : exec (.paletteRead c) s = .next ((s1.modSes c (·.palAdvance)).reply (u.palEntry (u.ioN 0xF640)).toNat) := by
      refine congrArg Host.Outcome.next ((if_pos on).trans ?_)
      rw [caught]
      dsimp only
      rw [State.sesD_of is1]
    refine ⟨_, _, runs, onSession_reply (onSession_modSes is1 _) _, ?_, index, pal⟩
    refine BitVec.eq_of_toNat_eq ?_
    rw [BitVec.toNat_setWidth]
    exact BitVec.toNat_ofNat ..
  · have no {f : State} : (if s.programs c then f else s) = s := if_neg (by rw [off]; exact Bool.false_ne_true)
    simp only [List.mem_cons, List.not_mem_nil, or_false] at mem
    rcases mem with rfl | rfl | rfl | rfl <;> exact congrArg Host.Outcome.next no

end Sys2Proof.Machine

/-! ## The line-program sequencer (R203, R212 to R214)

An entry acts on the session alone; its reads leave but the order of the Gallery frames. -/
namespace Sys2Proof.Machine
open Sys2Proof Sys2Proof.Claims

/-! ### Words of a page that is there -/

section
variable {c : CtxNo} {s : State} {x : Session} {i off : Nat}

/-- The words of a readable page are there at once. -/
theorem State.pageReady_readable (there : readable s c i) (off n : Nat) :
    ∃ g, s.pageReady c i off n = ({ s with galleryOrder := g }, true) := by
  obtain ⟨good, copy⟩ := there
  have sound (f : Nat) : s.badIn f off n = false := by rw [State.badIn, good]; rfl
  unfold State.pageReady
  cases alloc : (s.page c i).alloc with
  | false => exact ⟨s.galleryOrder, rfl⟩
  | true =>
    rw [if_pos rfl]
    cases die : s.ctxDie c with
    | none =>
      have ready : s.ensureCopy c i = (s, true) := by
        unfold State.ensureCopy State.ensureCopyAs
        rw [die]
      rw [ready]
      dsimp only
      cases frame : s.pageFrame c i with
      | none => exact ⟨s.galleryOrder, rfl⟩
      | some f =>
        dsimp only
        rw [sound f]
        exact ⟨s.galleryOrder, rfl⟩
    | some d =>
      rw [State.ensureCopy_resident die alloc (copy alloc)]
      have frame := State.pageFrame_resident die alloc (copy alloc)
      refine ⟨(s.touchGallery (galleryFrame d (s.page c i).gframe.toNat)).galleryOrder, ?_⟩
      dsimp only
      rw [show (s.touchGallery (galleryFrame d (s.page c i).gframe.toNat)).pageFrame c i = _ from frame]
      dsimp only
      rw [show (s.touchGallery (galleryFrame d (s.page c i).gframe.toNat)).badIn (galleryFrame d (s.page c i).gframe.toNat) off n = _ from sound _]
      rfl

/-- A readable page answers its word at once. -/
theorem State.pageRead_readable (there : readable s c i) (off : Nat) :
    ∃ g, s.pageRead c i off = ({ s with galleryOrder := g }, some (s.peek c i off)) := by
  obtain ⟨g, ready⟩ := State.pageReady_readable there off 1
  refine ⟨g, ?_⟩
  unfold State.pageRead
  rw [ready]
  rfl

variable {a : Nat}

theorem State.lpgWord_readable (is : s.ses c = some x) (there : readable s c (vPage x.lpg.bank (a % 65536))) :
    ∃ g, s.lpgWord c a = ({ s with galleryOrder := g }, some (seqWord s c x a)) := by
  obtain ⟨g, read⟩ := State.pageRead_readable there (a % 2048)
  refine ⟨g, ?_⟩
  unfold State.lpgWord State.vRead
  rw [is]
  dsimp only
  rw [read]
  rfl

theorem State.lpgPair_readable (is : s.ses c = some x) (there : ∀ b ∈ [a, a + 1], readable s c (vPage x.lpg.bank (b % 65536))) :
    ∃ g, s.lpgPair c a = ({ s with galleryOrder := g }, some (seqWord s c x a, seqWord s c x (a + 1))) := by
  obtain ⟨g, first⟩ := State.lpgWord_readable is (there a (List.mem_cons_self ..))
  obtain ⟨g', second⟩ := State.lpgWord_readable (s := { s with galleryOrder := g }) is (there (a + 1) (.tail _ (List.mem_cons_self ..)))
  refine ⟨g', ?_⟩
  rw [State.lpgPair, first]
  dsimp only
  rw [second]
  rfl

end

/-! ### What an entry does to its session -/

section
variable {x y z : Session} {w0 w1 v : Word} {pos : Nat × Nat × Nat} {a off i : Nat} {ind : Bool}

theorem Session.lpgFrameStart_kept : let y := x.lpgFrameStart
    y = { x with io := y.io, lpg := y.lpg } ∧
    y.ioW 0xF504 = (if x.lpg.running then x.ioW 0xF504 ||| 4 else x.ioW 0xF504) ∧
    y.lpg = if (x.valueAt .io 0xF500 x.lpg.frame 0 0).testBit 0 then
        { running := true, bank := x.bankOf (field (x.valueAt .io 0xF500 x.lpg.frame 0 0) 1 2),
          pc := BitVec.ofNat 16 (x.valueAt .io 0xF501 x.lpg.frame 0 0), lc := 0, frame := x.lpg.frame + 1, line := 0, dot := 0 }
      else { x.lpg with running := false, frame := x.lpg.frame + 1 } := by
  unfold Session.lpgFrameStart
  cases running : x.lpg.running with
  | true => exact ⟨rfl, (Session.ioW_orIo (x := x)).trans (if_pos rfl), rfl⟩
  | false => exact ⟨rfl, rfl, rfl⟩

theorem Session.lpgEndEntry_kept : (x.lpgEndEntry w0).lpg.running = false ∧
    (x.lpgEndEntry w0).ioW 0xF504 = if field w0.toNat 12 4 = 0 then x.ioW 0xF504 else x.ioW 0xF504 ||| 1 := by
  unfold Session.lpgEndEntry
  split
  · exact ⟨rfl, rfl⟩
  · exact ⟨rfl, (Session.ioW_orIo (x := x)).trans (if_pos rfl)⟩

theorem Session.lpgWaitEntry_waits : waits x (x.lpgWaitEntry w0 w1) w0 w1 := by
  have target (p : Nat × Nat) (is : x.waitTarget w0 w1 = p) :
      (x.lpgWaitEntry w0 w1).lpg.line = p.1 ∧ (x.lpgWaitEntry w0 w1).lpg.dot = p.2 := by
    subst is
    exact ⟨rfl, rfl⟩
  refine ⟨rfl, rfl, rfl, fun ind within => ?_, fun ind within => ⟨fun before later => ?_, fun passed => ?_⟩⟩
  · have is : x.waitTarget w0 w1 = (if x.lpg.dot ≤ field w1.toNat 0 11 then (x.lpg.line, field w1.toNat 0 11)
        else (x.lpg.line + 1, field w1.toNat 0 11)) := by
      rw [Session.waitTarget, if_pos (show wbit w0 11 = true from ind), if_neg (Nat.not_le.2 within)]
    split at is <;> next past =>
      obtain ⟨line, dot⟩ := target _ is
      refine ⟨dot, line.trans ?_⟩
      simp [past]
  · have is : x.waitTarget w0 w1 = (field w0.toNat 0 10, field w1.toNat 0 11) := by
      rw [Session.waitTarget, if_neg (show ¬ wbit w0 11 = true by rw [wbit, ind]; exact Bool.false_ne_true)]
      dsimp only
      rw [if_neg (Nat.not_le.2 within)]
      dsimp only
      rw [if_neg (by omega), if_neg (by omega)]
    obtain ⟨line, dot⟩ := target _ is
    rw [line, dot]
  · have is : x.waitTarget w0 w1 = (x.lpg.line, x.lpg.dot) := by
      rw [Session.waitTarget, if_neg (show ¬ wbit w0 11 = true by rw [wbit, ind]; exact Bool.false_ne_true)]
      dsimp only
      rw [if_neg (Nat.not_le.2 within)]
      exact if_pos (passed.imp_right fun at_ => ⟨at_.1.symm, at_.2⟩)
    obtain ⟨line, dot⟩ := target _ is
    rw [line, dot]

/-- A landing of the line program changes no place of the sequencer. -/
theorem Session.land_lpg (k : UndoKind) (w : BitVec 24) : (x.land true pos k a w).lpg = x.lpg := by
  rw [Session.land_top (.inl rfl)]
  cases k <;> rfl

/-- A display word stored at a position, but for LPG_CTRL, changes no place of the sequencer. -/
theorem Session.videoStore_lpg (other : a ≠ 0xF500) : (x.videoStore true pos a v).lpg = x.lpg := by
  unfold Session.videoStore
  dsimp only
  split
  · split <;> rfl
  split
  · rw [Session.land_lpg, Session.land_lpg, Session.writePalette, Session.land_lpg]
  split
  · rfl
  split
  · rfl
  split
  · rfl
  split
  · exact Session.land_lpg (pos := pos) ..
  split
  · next stops => exact absurd stops.1 other
  · exact Session.land_lpg ..

/-- An entry's step from a session whose place stands as it stood. -/
theorem Session.lpgGo_moved (same : y.lpg = x.lpg) : lpgMoved x (y.lpgGo (x.lpg.pc + 2) x.lpgNext) := by
  refine ⟨rfl, rfl, ?_, ?_⟩
  · exact congrArg (·.running) same
  · exact congrArg (·.lc) same

theorem Session.lpgSetpEntry_moved : lpgMoved x (x.lpgSetpEntry w1) ∧ (x.lpgSetpEntry w1).ioW 0xF502 = w1 ∧
    ∀ a, a ≠ 0xF502 → (x.lpgSetpEntry w1).ioW a = x.ioW a := by
  have words (a : Nat) : (x.lpgSetpEntry w1).ioW a = if a = 0xF502 then BitVec.ofNat 16 (w1.setWidth 24).toNat else x.ioW a :=
    Session.ioW_land_io (x := x) (.inl rfl)
  refine ⟨Session.lpgGo_moved (Session.land_lpg ..), ?_, fun a other => ?_⟩
  · rw [words, if_pos rfl]
    refine BitVec.eq_of_toNat_eq ?_
    rw [BitVec.toNat_ofNat, BitVec.toNat_setWidth]
    have := w1.isLt
    omega
  · rw [words, if_neg other]

theorem Session.lpgLoopEntry_kept : let y := x.lpgLoopEntry w0 w1
    let n := if x.lpg.lc = 0 then max (field w0.toNat 0 12) 1 else x.lpg.lc.toNat
    y.io = x.io ∧ y.lpg.lc = BitVec.ofNat 12 (n - 1) ∧
      y.lpg.pc = (if n = 1 then x.lpg.pc + 2 else w1) ∧ (y.lpg.line, y.lpg.dot) = x.lpgNext := by
  refine ⟨rfl, rfl, ?_, rfl⟩
  have some_ : 1 ≤ if x.lpg.lc = 0 then max (field w0.toNat 0 12) 1 else x.lpg.lc.toNat := by
    split
    · exact Nat.le_max_right ..
    · next counts =>
      exact Nat.pos_of_ne_zero fun zero => counts (BitVec.eq_of_toNat_eq zero)
  unfold Session.lpgLoopEntry
  dsimp only [Session.lpgGo]
  generalize (if x.lpg.lc = 0 then max (field w0.toNat 0 12) 1 else x.lpg.lc.toNat) = n at some_ ⊢
  exact if_congr (by omega) rfl rfl

/-! LPG_PTR moved on where an entry's data came from it. -/

/-- The session with LPG_PTR moved on by `n` words where the entry's data is indirect. -/
def Session.lpgPtr (ind : Bool) (n : Nat) (x : Session) : Session :=
  if ind then x.land true x.lpgPos .io 0xF502 (BitVec.ofNat 24 ((x.ioN 0xF502 + n) % 65536)) else x

theorem Session.lpgPtr_kept (n : Nat) : let y := x.lpgPtr ind n
    y.lpg = x.lpg ∧ y.pal = x.pal ∧ y.grand = x.grand ∧
    y.ioN 0xF502 = (if ind then (x.ioN 0xF502 + n) % 65536 else x.ioN 0xF502) ∧ ∀ a, a ≠ 0xF502 → y.ioW a = x.ioW a := by
  unfold Session.lpgPtr
  cases ind with
  | false => exact ⟨rfl, rfl, rfl, rfl, fun _ _ => rfl⟩
  | true =>
    rw [if_pos rfl, if_pos rfl, Session.land_io (.inl rfl)]
    refine ⟨rfl, rfl, rfl, (Session.ioN_setIo (x := x)).trans ?_, fun a other => (Session.ioW_setIo (x := x)).trans (if_neg other)⟩
    rw [if_pos rfl, BitVec.toNat_ofNat]
    omega

theorem Session.lpgWregEntry_eq : x.lpgWregEntry ind off v =
    (if 0x500 ≤ off ∧ off ≤ 0x5FF then (x.lpgPtr ind 1).orIo 0xF504 2
      else (x.lpgPtr ind 1).videoStore true x.lpgPos (0xF000 + off) v).lpgGo (x.lpg.pc + 2) x.lpgNext := rfl

theorem Session.lpgWregEntry_moved : lpgMoved x (x.lpgWregEntry ind off v) := by
  obtain ⟨lpg, -⟩ := Session.lpgPtr_kept (x := x) (ind := ind) 1
  rw [Session.lpgWregEntry_eq]
  refine Session.lpgGo_moved ?_
  split
  · exact lpg
  · next outside => exact (Session.videoStore_lpg (by omega)).trans lpg

/-- A WREG of the sequencer's own registers has no effect but its mark (R214). -/
theorem Session.lpgWregEntry_own (low : 0x500 ≤ off) (high : off ≤ 0x5FF) : let y := x.lpgWregEntry ind off v
    y.ioW 0xF504 = x.ioW 0xF504 ||| 2 ∧ y.ioN 0xF502 = (if ind then (x.ioN 0xF502 + 1) % 65536 else x.ioN 0xF502) ∧
      ∀ a, a ≠ 0xF504 → a ≠ 0xF502 → y.ioW a = x.ioW a := by
  obtain ⟨-, -, -, pointer, words⟩ := Session.lpgPtr_kept (x := x) (ind := ind) 1
  have marked (a : Nat) : (x.lpgWregEntry ind off v).ioW a = ((x.lpgPtr ind 1).orIo 0xF504 2).ioW a := by
    rw [Session.lpgWregEntry_eq, if_pos ⟨low, high⟩]
    rfl
  dsimp only
  refine ⟨?_, ?_, fun a status ptr => ?_⟩
  · rw [marked, Session.ioW_orIo, if_pos rfl, words _ (by decide)]
    rfl
  · rw [Session.ioN, marked, Session.ioW_orIo, if_neg (by decide), ← Session.ioN, pointer]
  · rw [marked, Session.ioW_orIo, if_neg status, words a ptr]

/-- A register with no bit but RW ones takes the whole word. -/
theorem softWrite_whole {d : RegDesc} (rw_ : d.rw = 0xFFFF) (w1c : d.w1c = 0) (old new : Word) :
    softWrite d old.toNat new.toNat = new.toNat := by
  rw [softWrite, w1c, Nat.and_zero, Nat.and_zero, Nat.sub_zero, rw_]
  refine Nat.eq_of_testBit_eq fun i => ?_
  rw [mergeBits_testBit, show (0xFFFF : Nat) = 2 ^ 16 - 1 from rfl, Nat.testBit_two_pow_sub_one]
  split
  · rfl
  · next past =>
    have past : 16 ≤ i := by simpa using past
    rw [BitVec.testBit_toNat, BitVec.testBit_toNat, BitVec.getLsbD_of_ge _ _ past, BitVec.getLsbD_of_ge _ _ past]

/-- A plain register's store lands at its position. -/
theorem Session.videoStore_plain (go : a ≠ 0xF008) (pal : a ≠ 0xF643) (rw_ : (ioDesc x.grand a).rw = 0xFFFF)
    (w1c : (ioDesc x.grand a).w1c = 0) (ctrl : a ≠ 0xF500) :
    (x.videoStore true pos a v).ioW i = (x.land true pos .io a (BitVec.ofNat 24 v.toNat)).ioW i := by
  have scroll : a ≠ 0xF404 := fun at_ => by
    rw [at_] at rw_
    exact absurd rw_ (by cases x.grand <;> decide)
  unfold Session.videoStore
  dsimp only
  rw [if_neg go, if_neg pal, if_neg scroll, if_neg (fun no => no w1c), if_neg (by rw [rw_]; decide), Session.ioN,
    softWrite_whole rw_ w1c]
  split
  · rfl
  · rw [if_neg (fun stops => ctrl stops.1)]

/-- A WREG of a plain register (R213). -/
theorem Session.lpgWregEntry_plain (outside : off < 0x500 ∨ 0x600 ≤ off) (go : off ≠ 8) (pal : off ≠ 0x643)
    (rw_ : (ioDesc x.grand (0xF000 + off)).rw = 0xFFFF) (w1c : (ioDesc x.grand (0xF000 + off)).w1c = 0) :
    let y := x.lpgWregEntry ind off v
    y.ioW (0xF000 + off) = v ∧ y.ioN 0xF502 = (if ind then (x.ioN 0xF502 + 1) % 65536 else x.ioN 0xF502) ∧
      ∀ a, a ≠ 0xF000 + off → a ≠ 0xF502 → y.ioW a = x.ioW a := by
  obtain ⟨-, -, grand, pointer, words⟩ := Session.lpgPtr_kept (x := x) (ind := ind) 1
  have stored (a : Nat) : (x.lpgWregEntry ind off v).ioW a = if a = 0xF000 + off then v else (x.lpgPtr ind 1).ioW a := by
    rw [Session.lpgWregEntry_eq, if_neg (by omega)]
    refine (Session.videoStore_plain (x := x.lpgPtr ind 1) (by omega) (by omega) (by rw [grand, rw_]) (by rw [grand, w1c]) (by omega)).trans ?_
    rw [Session.ioW_land_io (.inl rfl)]
    refine if_congr Iff.rfl (BitVec.eq_of_toNat_eq ?_) rfl
    rw [BitVec.toNat_ofNat, BitVec.toNat_ofNat]
    have := v.isLt
    omega
  dsimp only
  refine ⟨by rw [stored, if_pos rfl], ?_, fun a other ptr => by rw [stored, if_neg other, words a ptr]⟩
  rw [Session.ioN, stored, if_neg (by omega), ← Session.ioN, pointer]

theorem Session.lpgWpalEntry_kept {v0 v1 : Word} : let y := x.lpgWpalEntry ind off v0 v1
    lpgMoved x y ∧ palWritten x y off v0 v1 ∧ y.ioN 0xF502 = if ind then (x.ioN 0xF502 + 2) % 65536 else x.ioN 0xF502 := by
  obtain ⟨lpg, pal, grand, pointer, -⟩ := Session.lpgPtr_kept (x := x) (ind := ind) 2
  have is : x.lpgWpalEntry ind off v0 v1 =
      ((x.lpgPtr ind 2).writePalette true x.lpgPos off v0 v1).lpgGo (x.lpg.pc + 2) x.lpgNext := rfl
  have size : (x.lpgPtr ind 2).palSize = x.palSize := by rw [Session.palSize, grand]; rfl
  dsimp only
  rw [is]
  refine ⟨Session.lpgGo_moved ((Session.land_lpg ..).trans lpg), fun j => ?_, ?_⟩
  · refine (Session.palEntry_land_palette (x := x.lpgPtr ind 2) (pos := x.lpgPos) (.inl rfl) j).trans ?_
    rw [size, Session.palEntry, pal, size]
    rfl
  · refine Eq.trans ?_ pointer
    exact congrArg BitVec.toNat (Session.ioW_land_palette (x := x.lpgPtr ind 2) (.inl rfl))

end

/-! ### The rows of the sequencer -/

section
variable {c : CtxNo} {s s1 s2 : State} {x z : Session} {w0 w1 : Word}

/-- A due entry, read and of the row's operations, is the row's whole step. -/
theorem State.lpgRow_runs (live : s.live c = true) (is : s.ses c = some x) (due : x.lpgDue .last = true)
    (read : s.lpgPair c x.lpg.pc.toNat = (s1, some (w0, w1))) {ops : Nat → Bool} (asked : ops (field w0.toNat 12 4) = true)
    (acts : s1.lpgAct c w0 w1 = (s2, true)) : s.lpgRow c ops = s2 := by
  have on : (s.admitted c && s.sesD c false (·.lpgDue .last)) = true := by
    rw [State.sesD_of is, due, Bool.and_true]
    unfold State.live at live
    simp only [Bool.and_eq_true] at live
    exact live.1.1
  unfold State.lpgRow State.lpgEntry
  rw [if_pos on, State.sesD_of is, read]
  dsimp only
  rw [if_pos asked, acts]

theorem State.lpgAct_end (op : field w0.toNat 12 4 = 0 ∨ 6 ≤ field w0.toNat 12 4) :
    s.lpgAct c w0 w1 = (s.modSes c (·.lpgEndEntry w0), true) := by
  unfold State.lpgAct
  dsimp only
  rw [if_neg (by omega), if_neg (by omega), if_neg (by omega), if_neg (by omega), if_neg (by omega)]

theorem State.lpgAct_wait (op : field w0.toNat 12 4 = 1) : s.lpgAct c w0 w1 = (s.modSes c (·.lpgWaitEntry w0 w1), true) := if_pos op

theorem State.lpgAct_wreg (is : s.ses c = some z) (op : field w0.toNat 12 4 = 2) {v : Word}
    (read : (if w0.getLsbD 11 then s.lpgWord c (z.ioN 0xF502) else (s, some w1)) = (s2, some v)) :
    s.lpgAct c w0 w1 = (s2.modSes c (·.lpgWregEntry (w0.getLsbD 11) (field w0.toNat 0 11) v), true) := by
  unfold State.lpgAct
  dsimp only
  rw [if_neg (by omega), if_pos op, State.sesD_of is, show wbit w0 11 = w0.getLsbD 11 from rfl, read]

theorem State.lpgAct_wpal (is : s.ses c = some z) (op : field w0.toNat 12 4 = 3) {v0 v1 : Word}
    (read : s.lpgPair c (if w0.getLsbD 11 then z.ioN 0xF502 else w1.toNat) = (s2, some (v0, v1))) :
    s.lpgAct c w0 w1 = (s2.modSes c (·.lpgWpalEntry (w0.getLsbD 11) (field w0.toNat 0 11) v0 v1), true) := by
  unfold State.lpgAct
  dsimp only
  rw [if_neg (by omega), if_neg (by omega), if_pos op, State.sesD_of is, show wbit w0 11 = w0.getLsbD 11 from rfl, read]

theorem State.lpgAct_loop (op : field w0.toNat 12 4 = 4) : s.lpgAct c w0 w1 = (s.modSes c (·.lpgLoopEntry w0 w1), true) := by
  unfold State.lpgAct
  dsimp only
  rw [if_neg (by omega), if_neg (by omega), if_neg (by omega), if_pos op]

theorem State.lpgAct_setp (op : field w0.toNat 12 4 = 5) : s.lpgAct c w0 w1 = (s.modSes c (·.lpgSetpEntry w1), true) := by
  unfold State.lpgAct
  dsimp only
  rw [if_neg (by omega), if_neg (by omega), if_neg (by omega), if_neg (by omega), if_pos op]

/-- An entry that was read does what its operation says. -/
theorem State.lpgEntry_rule (live : s.live c = true) (is : s.ses c = some x) (due : x.lpgDue .last = true)
    (read : s.lpgPair c x.lpg.pc.toNat = (s1, some (w0, w1))) (is1 : s1.ses c = some z) : lpgEntryRule c s s1 z w0 w1 := by
  have row {ops : Nat → Bool} {s2 : State} (asked : ops (field w0.toNat 12 4) = true) (acts : s1.lpgAct c w0 w1 = (s2, true)) :
      s.lpgRow c ops = s2 := State.lpgRow_runs live is due read asked acts
  refine ⟨fun op => ?_, fun op => ?_, fun s2 v q op data is2 => ⟨fun low high => ?_, fun outside go pal rw_ w1c => ?_⟩,
    fun s2 v0 v1 q op data is2 => ?_, fun op => ?_, fun op => ?_⟩
  · refine ⟨_, _, congrArg Host.Outcome.next (row ?_ (State.lpgAct_end op)), onSession_modSes is1 _, Session.lpgEndEntry_kept⟩
    simpa using op
  · exact ⟨_, _, congrArg Host.Outcome.next (row (beq_iff_eq.2 op) (State.lpgAct_wait op)), onSession_modSes is1 _,
      Session.lpgWaitEntry_waits⟩
  · exact ⟨_, _, congrArg Host.Outcome.next (row (beq_iff_eq.2 op) (State.lpgAct_wreg is1 op data)), onSession_modSes is2 _,
      Session.lpgWregEntry_moved, Session.lpgWregEntry_own low high⟩
  · exact ⟨_, _, congrArg Host.Outcome.next (row (beq_iff_eq.2 op) (State.lpgAct_wreg is1 op data)), onSession_modSes is2 _,
      Session.lpgWregEntry_moved, Session.lpgWregEntry_plain outside go pal rw_ w1c⟩
  · exact ⟨_, _, congrArg Host.Outcome.next (row (beq_iff_eq.2 op) (State.lpgAct_wpal is1 op data)), onSession_modSes is2 _,
      Session.lpgWpalEntry_kept⟩
  · exact ⟨_, _, congrArg Host.Outcome.next (row (beq_iff_eq.2 op) (State.lpgAct_loop op)), onSession_modSes is1 _,
      Session.lpgLoopEntry_kept⟩
  · exact ⟨_, _, congrArg Host.Outcome.next (row (beq_iff_eq.2 op) (State.lpgAct_setp op)), onSession_modSes is1 _,
      Session.lpgSetpEntry_moved⟩

end

/-- Settles O37: an entry acts on its session, by one lemma for each operation; its reads of pages that are there change nothing
else. -/
theorem lineProgramEntries : Obligations.LineProgramEntries := by
  intro c s x live is
  refine ⟨fun idle due => ?_, fun due s1 w0 w1 z read is1 => State.lpgEntry_rule live is due read is1, fun due => ?_⟩
  · have on : (s.admitted c && s.sesD c false (fun x => !x.lpgDue .last && x.lpgStartDue .last)) = true := by
      unfold State.live at live
      simp only [Bool.and_eq_true] at live
      rw [State.sesD_of is, idle, due, live.1.1]
      rfl
    exact ⟨_, _, congrArg Host.Outcome.next (if_pos on), onSession_modSes is _, Session.lpgFrameStart_kept⟩
  · intro w0 w1 op data there
    obtain ⟨g1, read⟩ := State.lpgPair_readable is fun b mem => there b (by
      rcases List.mem_cons.1 mem with rfl | mem
      · exact .head _
      · exact .tail _ (List.mem_cons.1 mem |>.elim (fun same => same ▸ .head _) (nomatch ·)))
    have is1 : State.ses { s with galleryOrder := g1 } c = some x := is
    have data_ (b : Nat) (mem : b ∈ [data, data + 1]) : readable { s with galleryOrder := g1 } c (vPage x.lpg.bank (b % 65536)) :=
      there b (.tail _ (.tail _ mem))
    obtain ⟨ends, waits_, -, wpal, loop, setp⟩ := State.lpgEntry_rule live is due read is1
    have small : op < 16 := Nat.mod_lt _ (by decide)
    by_cases last : op = 0 ∨ 6 ≤ op
    · obtain ⟨t, y, runs, on, stopped, -⟩ := ends last
      have row : lpgRowOf c op = .lpgEnd c := by
        unfold lpgRowOf
        rw [if_neg (by omega), if_neg (by omega), if_neg (by omega), if_neg (by omega), if_neg (by omega)]
      rw [row]
      exact ⟨t, g1, y, runs, on, fun _ => by omega, fun _ => by omega, fun _ => stopped, fun _ => by omega⟩
    · have ops : op = 1 ∨ op = 2 ∨ op = 3 ∨ op = 4 ∨ op = 5 := by omega
      rcases ops with is_ | is_ | is_ | is_ | is_
      · obtain ⟨t, y, runs, on, rule⟩ := waits_ is_
        rw [is_]
        exact ⟨t, g1, y, runs, on, by omega, by omega, by omega, fun _ => rule⟩
      · obtain ⟨g2, v, value⟩ : ∃ g v, (if w0.getLsbD 11 then State.lpgWord c (x.ioN 0xF502) { s with galleryOrder := g1 }
            else ({ s with galleryOrder := g1 }, some w1)) = ({ s with galleryOrder := g }, some v) := by
          cases ind : w0.getLsbD 11 with
          | false => exact ⟨g1, w1, rfl⟩
          | true =>
            have at_ : data = x.ioN 0xF502 := if_pos ind
            obtain ⟨g, word⟩ := State.lpgWord_readable is1 (data_ data (.head _))
            exact ⟨g, _, (if_pos rfl).trans (at_ ▸ word)⟩
        have row := State.lpgRow_runs live is due read (ops := (· == 2)) (beq_iff_eq.2 is_) (State.lpgAct_wreg is1 is_ value)
        rw [is_]
        exact ⟨_, g2, _, congrArg Host.Outcome.next row, onSession_modSes (s := { s with galleryOrder := g2 }) is _, fun _ => Session.lpgWregEntry_moved,
          by omega, by omega, by omega⟩
      · obtain ⟨g2, words⟩ := State.lpgPair_readable is1 data_
        obtain ⟨t, y, runs, on, moved, written, -⟩ := wpal { s with galleryOrder := g2 } _ _ x is_ words is
        rw [is_]
        exact ⟨t, g2, y, runs, on, fun _ => moved, fun _ => written, by omega, by omega⟩
      · obtain ⟨t, y, runs, on, -⟩ := loop is_
        rw [is_]
        exact ⟨t, g1, y, runs, on, by omega, by omega, by omega, by omega⟩
      · obtain ⟨t, y, runs, on, moved, -⟩ := setp is_
        rw [is_]
        exact ⟨t, g1, y, runs, on, fun _ => moved, by omega, by omega, by omega⟩

end Sys2Proof.Machine

/-! ## Memory as an agent of HD reads and writes it (R16, R24, R163, R387)

In frames that hold no page of a context or a title and have no copy, an agent's store is a store to memory, and its loads read it
back. -/
namespace Sys2Proof.Machine
open Sys2Proof Sys2Proof.Claims

/-! ### Bytes -/

theorem ofBytesLE_bytesLE (n : Nat) : ∀ v, ofBytesLE (bytesLE n v) = v % 256 ^ n := by
  induction n with
  | zero => exact fun v => (Nat.mod_one v).symm
  | succ n ih =>
    intro v
    show (BitVec.ofNat 8 v).toNat + 256 * ofBytesLE (bytesLE n (v / 256)) = _
    rw [ih, BitVec.toNat_ofNat, Nat.pow_succ' (n := n), Nat.mod_mul]

theorem memWrite_append (l l' : List Byte) : ∀ (m : List Host.Cell) (a : Nat),
    memWrite m a (l ++ l') = memWrite (memWrite m a l) (a + l.length) l' := by
  induction l with
  | nil => exact fun _ _ => rfl
  | cons b l ih =>
    intro m a
    show memWrite (memSet m a b) (a + 1) (l ++ l') = _
    rw [ih, List.length_cons, Nat.add_assoc, Nat.add_comm 1]
    rfl

/-! ### What an agent's access depends on -/

section
variable {s t u : State} {a n : Nat}

/-- The state an agent's reach and view of frames rest on. -/
structure SameView (s t : State) : Prop where
  part : t.part = s.part
  power : t.power = s.power
  links : t.links = s.links
  frames : t.frames = s.frames
  ctxs : t.ctxs = s.ctxs
  titles : t.titles = s.titles
  image : ∀ f, t.image f = s.image f

theorem SameView.refl (s : State) : SameView s s := ⟨rfl, rfl, rfl, rfl, rfl, rfl, fun _ => rfl⟩

theorem SameView.trans (f : SameView s t) (g : SameView t u) : SameView s u :=
  ⟨g.part.trans f.part, g.power.trans f.power, g.links.trans f.links, g.frames.trans f.frames, g.ctxs.trans f.ctxs,
    g.titles.trans f.titles, fun h => (g.image h).trans (f.image h)⟩

theorem SameView.reaches (same : SameView s t) (die a : Nat) : t.reaches die a = s.reaches die a := by
  obtain ⟨part, power, links, frames, -, -, -⟩ := same
  unfold State.reaches State.frameUp State.forwardUp State.forwardDie State.routeUp State.linkUp State.frame
  rw [part, power, links, frames]

theorem SameView.statePage (same : SameView s t) (f : Nat) : t.statePage f = s.statePage f := by
  obtain ⟨-, -, -, frames, ctxs, -, -⟩ := same
  unfold State.statePage State.homeOf State.frame
  rw [frames, ctxs]

theorem SameView.linesOf (same : SameView s t) (c : CtxNo) (f o : Nat) : t.linesOf c f o = s.linesOf c f o := by
  obtain ⟨-, -, -, -, ctxs, titles, -⟩ := same
  unfold State.linesOf State.ctxTitle State.titleOf
  rw [State.ctx_of_ctxs ctxs, titles]

theorem SameView.plain (same : SameView s t) (plain : plainBytes s a n) : plainBytes t a n := by
  intro i within
  obtain ⟨reach, none0, none1, copy, home, page, image, lines⟩ := plain i within
  have copies (d h : Nat) : t.copyOn d h = s.copyOn d h := by unfold State.copyOn; rw [same.frames]
  have record (f : Nat) : t.frame f = s.frame f := by unfold State.frame; rw [same.frames]
  refine ⟨(same.reaches ..).trans reach, (copies ..).trans none0, (copies ..).trans none1, ?_, ?_, (same.statePage _).trans page,
    (same.image _).trans image, fun c o => (same.linesOf ..).trans (lines c o)⟩
  · rw [record, copy]
  · rw [record, home]

/-! ### Reads -/

/-- A plain byte reads as memory holds it. -/
theorem State.agentByte_plain (plain : plainBytes s a 1) : s.agentByte 2 a = memByte s.mem a := by
  obtain ⟨reach, -, -, copy, -, page, image, -⟩ := plain 0 Nat.one_pos
  rw [Nat.add_zero] at reach copy page image
  have frame : a / 2 * 2 / 4096 = a / 4096 := by omega
  have served : s.served (a / 4096) = a / 4096 := by
    unfold State.served State.current
    rw [copy]
    exact ite_self _
  have words : s.loamWords (a / 2 * 2) 1 = [s.word (a / 2 * 2)] := by
    unfold State.loamWords
    dsimp only
    rw [frame, page, image]
    dsimp only
    rw [served]
    exact congrArg (fun b => [s.word b]) (by show a / 4096 * 4096 + a / 2 * 2 % 4096 + 2 * 0 = _; omega)
  unfold State.agentByte
  rw [if_pos reach, words]
  dsimp only
  unfold State.word memWord
  split
  · next even =>
    rw [show a / 2 * 2 = a by omega]
    exact BitVec.setWidth_append_eq_right
  · next odd =>
    rw [show a / 2 * 2 + 1 = a by omega]
    refine BitVec.eq_of_getLsbD_eq fun i within => ?_
    rw [BitVec.getLsbD_setWidth, BitVec.getLsbD_ushiftRight, BitVec.getLsbD_append, decide_eq_true within, if_neg (by omega),
      Nat.add_sub_cancel_left]
    rfl

theorem plainBytes_at (plain : plainBytes s a n) {i : Nat} (within : i < n) : plainBytes s (a + i) 1 := by
  intro j one
  rw [show j = 0 by omega]
  exact plain i within

theorem plainBytes_part (plain : plainBytes s a n) {i m : Nat} (within : i + m ≤ n) : plainBytes s (a + i) m := by
  intro j less
  rw [Nat.add_assoc]
  exact plain (i + j) (by omega)

/-- Eight bytes stand at an address as a Loam word, least significant first. -/
def holds64 (m : List Host.Cell) (a v : Nat) : Prop := ∀ i, i < 8 → memByte m (a + i) = (bytesLE 8 v).getD i 0

theorem State.word64_plain (plain : plainBytes s a 8) {v : Nat} (there : holds64 s.mem a v) : s.word64 a = v % 2 ^ 64 := by
  have bytes : s.agentBytes 2 a 8 = bytesLE 8 v := by
    refine List.ext_getElem (by rw [length_bytesLE]; exact List.length_map ..|>.trans (List.length_range ..)) fun i low high => ?_
    rw [length_bytesLE] at high
    simp only [State.agentBytes]
    rw [List.getElem_map, List.getElem_range, State.agentByte_plain (plainBytes_at plain high), there i high]
    exact List.getD_eq_getElem _ _ (by rw [length_bytesLE]; exact high)
  rw [State.word64, bytes, ofBytesLE_bytesLE]
  rfl

/-- Memory that agrees on plain bytes gives the same word. -/
theorem State.word64_congr (plain : plainBytes s a 8) (same : SameView s t) (mem : ∀ i, i < 8 → memByte t.mem (a + i) = memByte s.mem (a + i)) :
    t.word64 a = s.word64 a := by
  refine congrArg ofBytesLE (List.map_congr_left fun i mem_ => ?_)
  have within : i < 8 := List.mem_range.1 mem_
  rw [State.agentByte_plain (plainBytes_at plain within), State.agentByte_plain (plainBytes_at (same.plain plain) within), mem i within]

/-! ### Stores -/

/-- Bytes stand in memory, and nothing else that is seen has changed. -/
structure Stored (a : Nat) (l : List Byte) (s t : State) : Prop where
  rest : t = { s with mem := memWrite s.mem a l, bad := t.bad, images := t.images }
  image : ∀ f, t.image f = s.image f
  good : s.bad = [] → t.bad = []

theorem Stored.view {l : List Byte} (stored : Stored a l s t) : SameView s t := by
  have image := stored.image
  obtain ⟨rest, -, -⟩ := stored
  rw [rest] at image ⊢
  exact ⟨rfl, rfl, rfl, rfl, rfl, rfl, image⟩

theorem Stored.mem {l : List Byte} (stored : Stored a l s t) : t.mem = memWrite s.mem a l := by rw [stored.rest]

theorem Stored.nil (s : State) : Stored a [] s s := ⟨rfl, fun _ => rfl, id⟩

theorem Stored.append {l l' : List Byte} (first : Stored a l s t) (second : Stored (a + l.length) l' t u) : Stored a (l ++ l') s u := by
  refine ⟨?_, fun f => (second.image f).trans (first.image f), fun good => second.good (first.good good)⟩
  have base (m : List Host.Cell) (b : Sparse Bool) (i : Sparse (Option (Session × Nat))) :
      ({ t with mem := m, bad := b, images := i } : State) = { s with mem := m, bad := b, images := i } := by rw [first.rest]
  rw [memWrite_append, ← first.mem, ← base]
  exact second.rest

theorem State.homeOf_plain {f : Nat} (home : (s.frame f).home = none) : s.homeOf f = f := by
  rw [State.homeOf, home]
  exact ite_self _

theorem foldl_fixed {α β : Type} {f : α → β → α} {x : α} : ∀ {l : List β}, (∀ e ∈ l, f x e = x) → l.foldl f x = x
  | [], _ => rfl
  | e :: l, fixed => by
    rw [List.foldl_cons, fixed e (.head _), foldl_fixed fun e mem => fixed e (.tail _ mem)]

theorem State.unstaged_plain (home : (s.frame (a / 4096)).home = none) (lines : ∀ c o, s.linesOf c (a / 4096) o = []) :
    s.unstaged a = s := by
  unfold State.unstaged
  dsimp only
  rw [State.homeOf_plain home]
  refine foldl_fixed fun c _ => ?_
  rw [lines]
  exact ite_self _

theorem State.unstagedFrom_plain (home : (s.frame (a / 4096)).home = none) (lines : ∀ c o, s.linesOf c (a / 4096) o = [])
    (fits : a % 4096 + n ≤ 4096) : s.unstagedFrom a n = s := by
  refine foldl_fixed fun j _ => ?_
  dsimp only
  generalize at_ : (if j = 0 then a else (a / 128 + j) * 128) = b
  have above : a ≤ b := by rw [← at_]; split <;> omega
  split
  · next within =>
    have frame : b / 4096 = a / 4096 := by omega
    exact State.unstaged_plain (by rw [frame, home]) (by rw [frame]; exact lines)
  · rfl

theorem State.takers_plain {f : Nat} (home : (s.frame f).home = none) (copy : (s.frame f).copy = none) (none0 : s.copyOn 0 f = none)
    (none1 : s.copyOn 1 f = none) : s.takers f = [f] := by
  have current : s.current f = f := by rw [State.current, copy]
  unfold State.takers
  dsimp only
  rw [State.homeOf_plain home]
  split
  · next vault =>
    have low : f < 0x4000000 := vault.resolve_right fun no => no rfl
    rw [none0, none1, State.served, if_pos low, current]
    simp [low, List.eraseDups_cons]
  · rfl

/-- Bytes within one plain frame are stored there. -/
theorem State.storeFrame_plain (plain : plainBytes s a 1) {l : List Byte} (fits : a % 4096 + l.length ≤ 4096) :
    Stored a l s (((s.unstagedFrom a l.length).storeTakers a l false).dirtied (a / 4096)) := by
  obtain ⟨-, none0, none1, copy, home, -, image, lines⟩ := plain 0 Nat.one_pos
  rw [Nat.add_zero] at none0 none1 copy home image lines
  have stores : s.storeTakers a l false = { s with images := Sparse.erase s.images (a / 4096) }.setBytes a l := by
    unfold State.storeTakers
    rw [State.takers_plain home copy none0 none1]
    show State.setBytes (a / 4096 * 4096 + a % 4096) l _ = _
    rw [Nat.div_add_mod']
  rw [State.unstagedFrom_plain home lines fits, stores]
  have same : (State.setBytes a l { s with images := Sparse.erase s.images (a / 4096) }).dirtied (a / 4096) =
      State.setBytes a l { s with images := Sparse.erase s.images (a / 4096) } := by
    unfold State.dirtied
    exact if_pos (.inl (State.homeOf_plain (s := State.setBytes a l { s with images := Sparse.erase s.images (a / 4096) }) home))
  rw [same]
  refine ⟨rfl, fun f => ?_, fun good => ?_⟩
  · refine (Sparse.get_erase ..).trans ?_
    split
    · next at_ => exact at_ ▸ image.symm
    · rfl
  · show s.bad.filter _ = []
    rw [good]
    rfl

/-- Where the store of bytes enters the frame `i` after its first, and the bytes that frame takes. -/
def partAt (a i : Nat) : Nat := if i = 0 then a else (a / 4096 + i) * 4096
def partOf (a : Nat) (l : List Byte) (i : Nat) : List Byte := (l.drop (partAt a i - a)).take (4096 - partAt a i % 4096)

/-- One frame's part of an agent's store. -/
def State.storePart (die a : Nat) (l : List Byte) (s : State) (i : Nat) : State :=
  let b := partAt a i
  let part := partOf a l i
  if !part.isEmpty && s.reaches die b then ((s.unstagedFrom b part.length).storeTakers b part false).dirtied (b / 4096) else s

theorem State.agentStore_parts (die : Nat) (l : List Byte) :
    s.agentStore die a l = (List.range (l.length / 4096 + 2)).foldl (State.storePart die a l) s := rfl

theorem State.storePart_plain {l : List Byte} (plain : plainBytes s a l.length) (i : Nat) :
    Stored (partAt a i) (partOf a l i) s (State.storePart 2 a l s i) := by
  have above : a ≤ partAt a i := by unfold partAt; split <;> omega
  unfold State.storePart
  dsimp only
  cases none_ : (partOf a l i).isEmpty with
  | true =>
    rw [List.isEmpty_iff.1 none_]
    exact .nil s
  | false =>
    have length : (partOf a l i).length = min (4096 - partAt a i % 4096) (l.length - (partAt a i - a)) := by
      rw [partOf, List.length_take, List.length_drop]
    have some_ : 0 < (partOf a l i).length := List.length_pos_iff.2 fun no => by rw [no] at none_; exact Bool.noConfusion none_
    have there := plainBytes_at plain (i := partAt a i - a) (by omega)
    rw [Nat.add_sub_cancel' above] at there
    have reach := (there 0 Nat.one_pos).1
    rw [Nat.add_zero] at reach
    rw [if_pos (by rw [reach]; rfl)]
    exact State.storeFrame_plain there (by omega)

theorem storeParts_plain {l : List Byte} (plain : plainBytes s a l.length) (n : Nat) :
    Stored a (l.take ((a / 4096 + (n + 1)) * 4096 - a)) s ((List.range (n + 1)).foldl (State.storePart 2 a l) s) := by
  induction n with
  | zero =>
    have first := State.storePart_plain plain 0
    have is : partOf a l 0 = l.take ((a / 4096 + (0 + 1)) * 4096 - a) := by
      show (l.drop (a - a)).take (4096 - a % 4096) = _
      rw [Nat.sub_self, List.drop_zero]
      exact congrArg (l.take ·) (by omega)
    rw [is] at first
    exact first
  | succ n ih =>
    rw [List.range_succ, List.foldl_append]
    have next := State.storePart_plain (ih.view.plain plain) (n + 1)
    have at_ : partAt a (n + 1) = (a / 4096 + (n + 1)) * 4096 := if_neg (Nat.succ_ne_zero n)
    have is : partOf a l (n + 1) = (l.drop ((a / 4096 + (n + 1)) * 4096 - a)).take 4096 := by
      rw [partOf, at_]
      exact congrArg (List.take · _) (by omega)
    rw [show (a / 4096 + (n + 1 + 1)) * 4096 - a = (a / 4096 + (n + 1)) * 4096 - a + 4096 by omega, List.take_add, ← is]
    by_cases ends : l.length ≤ (a / 4096 + (n + 1)) * 4096 - a
    · have none_ : partOf a l (n + 1) = [] := by rw [is, List.drop_of_length_le ends]; rfl
      rw [none_] at next ⊢
      exact ih.append ⟨next.rest, next.image, next.good⟩
    · refine ih.append ?_
      rw [List.length_take_of_le (by omega), Nat.add_sub_cancel' (by omega), ← at_]
      exact next

/-- Plain bytes are stored as they are. -/
theorem State.agentStore_plain {l : List Byte} (plain : plainBytes s a l.length) : Stored a l s (s.agentStore 2 a l) := by
  have all := storeParts_plain plain (l.length / 4096 + 1)
  rwa [List.take_of_length_le (by omega)] at all

/-! ### Loam words of 64 bits (R163) -/

theorem State.setWord64_plain (plain : plainBytes s a 8) (v : Nat) : Stored a (bytesLE 8 v) s (s.setWord64 a v) :=
  State.agentStore_plain (l := bytesLE 8 v) (by rw [length_bytesLE]; exact plain)

theorem Stored.byte {l : List Byte} (stored : Stored a l s t) (b : Nat) :
    memByte t.mem b = if a ≤ b ∧ b < a + l.length then l.getD (b - a) 0 else memByte s.mem b := by
  rw [stored.mem]
  exact memByte_memWrite l s.mem a b

theorem Stored.word64 {v : Nat} (plain : plainBytes s a 8) (stored : Stored a (bytesLE 8 v) s t) : t.word64 a = v % 2 ^ 64 := by
  refine State.word64_plain (stored.view.plain plain) fun i within => ?_
  rw [stored.byte, length_bytesLE, if_pos (by omega), Nat.add_sub_cancel_left]

theorem Stored.word64_apart {l : List Byte} {b : Nat} (plain : plainBytes s b 8) (stored : Stored a l s t)
    (apart : b + 8 ≤ a ∨ a + l.length ≤ b) : t.word64 b = s.word64 b :=
  State.word64_congr plain stored.view fun i within => by rw [stored.byte, if_neg (by omega)]

end
end Sys2Proof.Machine

/-! ## The queue manager's rows (R316, R319, R322, R323, R325, R328 to R330) -/
namespace Sys2Proof.Machine
open Sys2Proof Sys2Proof.Claims

/-! ### Counters and sub-ports -/

section
variable {s t : State} {a b n : Nat}

theorem State.cnt_addCnt : (s.addCnt a n).cnt b = if canonReg b = canonReg a then (s.cnt a + n) % 2 ^ 64 else s.cnt b :=
  State.cnt_setCnt ..

theorem canonReg_eth {a : Nat} (above : ethBase ≤ a) : canonReg a = a := canonReg_of_ge (Nat.le_trans (by decide) above)

@[simp] theorem canonReg_ethSub (p m o : Nat) : canonReg (ethSub p m o) = ethSub p m o := canonReg_eth (by unfold ethSub; omega)

@[simp] theorem canonReg_ethAddr (p o : Nat) : canonReg (ethAddr p o) = ethAddr p o := canonReg_eth (by unfold ethAddr; omega)

/-- A counter of a sub-port rises, and none of another offset. -/
theorem State.cnt_addEth (p m o o' : Nat) :
    (s.addCnt (ethSub p m o) n).cnt (ethSub p m o') = if o' = o then (s.cnt (ethSub p m o) + n) % 2 ^ 64 else s.cnt (ethSub p m o') := by
  rw [State.cnt_addCnt, canonReg_ethSub, canonReg_ethSub]
  exact if_congr (by unfold ethSub; omega) rfl rfl

theorem risen_addEth (p m o n : Nat) : risen s (s.addCnt (ethSub p m o) n) (ethSub p m o) n := (State.cnt_addEth ..).trans (if_pos rfl)

theorem State.sub_setSub (p m p' m' : Nat) (x : SubPort) :
    (s.setSub p m x).sub p' m' = if 4 * p' + m' = 4 * p + m then x else s.sub p' m' := Sparse.get_set ..

/-- The sub-ports of a state that stand as one write left them. -/
theorem State.sub_of_setSub {p : Fin 2} {m : Fin 4} {x : SubPort} (is : t.subports = (s.setSub p.val m.val x).subports) :
    t.sub p.val m.val = x ∧ otherSubs s t p m := by
  have sub (p' m' : Nat) : t.sub p' m' = (s.setSub p.val m.val x).sub p' m' := by rw [State.sub, is]; rfl
  refine ⟨(sub ..).trans ((State.sub_setSub ..).trans (if_pos rfl)), fun p' m' other => ?_⟩
  refine (sub ..).trans ((State.sub_setSub ..).trans (if_neg fun same => other ?_))
  have inP : p' = p := by omega
  have inM : m' = m := by omega
  rw [inP, inM]

/-- The first `n` sub-ports of a port cleared. -/
theorem State.clearPort_first (p n : Nat) (small : n ≤ 4) :
    let t := (List.range n).foldl (fun (s : State) m => s.setSub p m { s.sub p m with held := [] }) s
    t = { s with subports := t.subports } ∧
      ∀ m, m < 4 → t.sub p m = if m < n then { s.sub p m with held := [] } else s.sub p m := by
  induction n with
  | zero => exact ⟨rfl, fun _ _ => rfl⟩
  | succ n ih =>
    obtain ⟨rest, subs⟩ := ih (by omega)
    dsimp only
    rw [List.range_succ, List.foldl_append]
    generalize (List.range n).foldl (fun (s : State) m => s.setSub p m { s.sub p m with held := [] }) s = u at rest subs ⊢
    refine ⟨?_, fun m in_ => ?_⟩
    · show State.setSub p n _ u = _
      unfold State.setSub
      conv_lhs => rw [rest]
      rfl
    · refine (State.sub_setSub ..).trans ?_
      by_cases same : m = n
      · subst same
        rw [if_pos rfl, if_pos (Nat.lt_succ_self m), subs m in_, if_neg (Nat.lt_irrefl m)]
      · rw [if_neg (by omega), subs m in_]
        exact if_congr (by omega) rfl rfl

end

/-! ### Ports (R316, R319, R328, R329) -/

section
variable {s : State} {p : Fin 2} {m : Fin 4}

theorem txen_eq_zero (w : Nat) : (BitVec.ofNat 8 (field w 8 8) : Byte) = 0 ↔ field w 8 8 = 0 := by
  have small : field w 8 8 < 256 := Nat.mod_lt _ (by decide)
  rw [← BitVec.toNat_inj, BitVec.toNat_ofNat]
  show _ = 0 ↔ _
  omega

/-- What the PFC frame of an XOFF or an XON leaves. -/
theorem State.sendPfc_kept (quanta : Nat) (x : SubPort) :
    let txen : Byte := BitVec.ofNat 8 (field (s.regN (ethSub p.val m.val 8)) 8 8)
    let t := (s.sendPfc p.val m.val quanta).setSub p.val m.val x
    t = { s with subports := t.subports, cnt64 := t.cnt64, wire := t.wire } ∧ t.sub p.val m.val = x ∧ otherSubs s t p m ∧
      t.wire = (if txen = 0 then [] else [.pfc p m txen (BitVec.ofNat 16 quanta)]) ++ s.wire := by
  dsimp only
  have is : (s.sendPfc p.val m.val quanta).subports = s.subports := by unfold State.sendPfc; dsimp only; split <;> rfl
  obtain ⟨own, others⟩ := State.sub_of_setSub (s := s) (t := (s.sendPfc p.val m.val quanta).setSub p.val m.val x) (p := p) (m := m)
    (by unfold State.setSub; rw [is])
  refine ⟨?_, own, others, ?_⟩
  · unfold State.sendPfc
    dsimp only
    split <;> rfl
  · unfold State.sendPfc
    dsimp only
    split
    · next zero =>
      rw [if_pos ((txen_eq_zero _).2 zero)]
      rfl
    · next some_ =>
      rw [if_neg fun zero => some_ ((txen_eq_zero _).1 zero)]
      simp only [State.send, List.cons_append, List.nil_append, Fin.ofNat_val_eq_self]
      rfl

/-- ETH_PCTRL (R316). -/
theorem State.portControl_open (v : Nat) (up : s.serdes = true) (idle : field (s.regN (ethAddr p.val 0)) 4 4 = 0)
    (other : (v &&& 0xFB) % 4 ≠ s.regN (ethAddr p.val 0) % 4) :
    let t := s.portControl p.val v
    t = { s with regs := t.regs, subports := t.subports } ∧ t.regN (ethAddr p.val 0) = v &&& 0xFB ∧
      ∀ n, n < 4 → t.sub p.val n = { s.sub p.val n with held := [] } := by
  have is : s.portControl p.val v = (s.setReg (ethAddr p.val 0) (v &&& 0xFB)).clearPort p.val := by
    unfold State.portControl
    dsimp only
    rw [if_neg (by rw [up]; exact Bool.false_ne_true), if_pos ⟨idle, other⟩]
  have small : v &&& 0xFB < 2 ^ 32 := Nat.lt_of_le_of_lt Nat.and_le_right (by decide)
  obtain ⟨rest, subs⟩ := State.clearPort_first (s := s.setReg (ethAddr p.val 0) (v &&& 0xFB)) p.val 4 (Nat.le_refl 4)
  dsimp only
  rw [is]
  have cleared : (s.setReg (ethAddr p.val 0) (v &&& 0xFB)).clearPort p.val = _ := rest
  refine ⟨?_, ?_, fun n in_ => (subs n in_).trans (if_pos in_)⟩
  · rw [cleared]
    rfl
  · rw [cleared]
    exact State.regN_setReg.trans ((if_pos rfl).trans (Nat.mod_eq_of_lt small))

theorem State.portControl_closed (v : Nat) (up : s.serdes = true)
    (closed : field (s.regN (ethAddr p.val 0)) 4 4 ≠ 0 ∨ (v &&& 0xFB) % 4 = s.regN (ethAddr p.val 0) % 4) :
    let t := s.portControl p.val v
    t = { s with regs := t.regs } ∧
      t.regN (ethAddr p.val 0) = (v &&& 0xFB) - (v &&& 0xFB) % 4 + s.regN (ethAddr p.val 0) % 4 := by
  have small : v &&& 0xFB ≤ 0xFB := Nat.and_le_right
  have is : s.portControl p.val v =
      s.setReg (ethAddr p.val 0) ((v &&& 0xFB) - (v &&& 0xFB) % 4 + s.regN (ethAddr p.val 0) % 4) := by
    unfold State.portControl
    dsimp only
    rw [if_neg (by rw [up]; exact Bool.false_ne_true), if_neg (by tauto)]
  dsimp only
  rw [is]
  refine ⟨rfl, State.regN_setReg.trans ((if_pos rfl).trans (Nat.mod_eq_of_lt ?_))⟩
  generalize v &&& 0xFB = w at small
  omega

end

theorem oneBit_getLsbD : ∀ prio i : Fin 8, (1#8 <<< prio.val).getLsbD i.val = decide (i = prio) := by decide

theorem portsHold : portsRule := by
  intro p m s
  refine ⟨fun n l held => ?_, fun held => ?_, fun up => ?_, fun up off => ?_, fun prio => ?_, fun up exists_ changes => ?_,
    fun v on serdes => ⟨fun idle other => ?_, fun closed => ?_⟩, fun v on serdes => ⟨fun first => ?_, fun second => ?_⟩⟩
  · have is : exec (.transmitEnd p m) s = .next (((s.setSub p.val m.val { s.sub p.val m.val with held := l }).addCnt
        (ethSub p.val m.val 0x80) 1).addCnt (ethSub p.val m.val 0x88) (max 60 n + 4)) := by
      refine congrArg Host.Outcome.next ?_
      rw [held]
    obtain ⟨own, others⟩ := State.sub_of_setSub (s := s) (p := p) (m := m) (x := { s.sub p.val m.val with held := l }) (t :=
      ((s.setSub p.val m.val { s.sub p.val m.val with held := l }).addCnt (ethSub p.val m.val 0x80) 1).addCnt
        (ethSub p.val m.val 0x88) (max 60 n + 4)) rfl
    refine ⟨_, is, rfl, own, others, ?_, ?_⟩
    · exact (State.cnt_addEth ..).trans ((if_neg (by decide)).trans ((State.cnt_addEth ..).trans (if_pos rfl)))
    · refine (State.cnt_addEth ..).trans ((if_pos rfl).trans ?_)
      rw [State.cnt_addEth, if_neg (by decide)]
      rfl
  · refine congrArg Host.Outcome.next ?_
    rw [held]
  · exact ⟨_, congrArg Host.Outcome.next (if_pos up), State.sendPfc_kept 0xFFFF _⟩
  · exact ⟨_, congrArg Host.Outcome.next (if_pos (by rw [up, off]; rfl)), State.sendPfc_kept 0 _⟩
  · obtain ⟨own, others⟩ := State.sub_of_setSub (s := s) (p := p) (m := m) (x := { s.sub p.val m.val with
        paused := (s.sub p.val m.val).paused &&& ~~~(1#8 <<< prio.val) }) rfl
    refine ⟨_, rfl, rfl, others, fun i => ?_⟩
    rw [own]
    show ((s.sub p.val m.val).paused &&& ~~~(1#8 <<< prio.val)).getLsbD i.val = _
    have bit := oneBit_getLsbD prio i
    rw [BitVec.getLsbD_and, BitVec.getLsbD_not, bit, decide_eq_true i.isLt, Bool.true_and, Bool.and_comm, decide_not]
  · have is : exec (.linkChange p m up) s = .next ((s.setSub p.val m.val { s.sub p.val m.val with
        link := up, align := up }).raiseP (13 + p.val)) := by
      refine congrArg Host.Outcome.next (if_pos ?_)
      rw [exists_, Bool.true_and, bne_iff_ne]
      exact changes
    have raised : DicOnly (s.setSub p.val m.val { s.sub p.val m.val with link := up, align := up }) _ := State.raiseP_only (n := 13 + p.val)
    have pend := State.raiseP_pend (s := s.setSub p.val m.val { s.sub p.val m.val with link := up, align := up }) (n := 13 + p.val)
    rw [is]
    generalize State.raiseP (13 + p.val) _ = t at raised pend ⊢
    have subs : t.subports = (s.setSub p.val m.val { s.sub p.val m.val with link := up, align := up }).subports := by rw [raised.rest]
    obtain ⟨own, others⟩ := State.sub_of_setSub subs
    refine ⟨t, rfl, ?_, own, others, fun hub => pend hub (by omega)⟩
    rw [subs]
    exact raised.rest
  · exact ⟨_, congrArg Host.Outcome.next (if_neg on), State.portControl_open v.toNat serdes idle other⟩
  · exact ⟨_, congrArg Host.Outcome.next (if_neg on), State.portControl_closed v.toNat serdes closed⟩
  · subst first
    have small : v.toNat &&& 0xFB ≤ 0xFB := Nat.and_le_right
    have is : s.portControl 0 v.toNat = s.setReg (ethAddr 0 0) ((v.toNat &&& 0xFB) - (v.toNat &&& 0xFB) % 4 + 2) := by
      unfold State.portControl
      dsimp only
      rw [serdes]
      rfl
    refine ⟨_, congrArg Host.Outcome.next ((if_neg on).trans is), rfl, ?_⟩
    refine State.regN_setReg.trans ((if_pos rfl).trans (Nat.mod_eq_of_lt ?_))
    generalize v.toNat &&& 0xFB = w at small
    omega
  · have is : s.portControl p.val v.toNat = s := by
      unfold State.portControl
      dsimp only
      rw [serdes]
      exact if_neg fun zero => second (Fin.ext zero)
    exact congrArg Host.Outcome.next ((if_neg on).trans is)

/-! ### Books, pushes, the flow table and the wake FIFO (R322, R323, R325, R328) -/

section
variable {s t : State} {a b v k : Nat}

theorem RegsOnly.sub (only : RegsOnly s t) (p m : Nat) : t.sub p m = s.sub p m := by
  unfold State.sub
  rw [only]

/-- A word set where it is, and no other word of the queue manager's and the classifier's registers. -/
theorem State.regN_setReg_hub (hubA : ethBase ≤ a) (hubB : ethBase ≤ b) :
    (s.setReg a v).regN b = if b = a then v % 2 ^ 32 else s.regN b := by
  rw [State.regN_setReg, canonReg_eth hubA, canonReg_eth hubB]

/-- Words set one after another from an address on. -/
theorem State.setRegs_from (base : Nat) (hub : ethBase ≤ base) (f : Nat → Nat) (n : Nat) :
    let t := (List.range n).foldl (fun (s : State) i => s.setReg (base + 4 * i) (f i)) s
    RegsOnly s t ∧ ∀ i, i < n → t.regN (base + 4 * i) = f i % 2 ^ 32 := by
  induction n with
  | zero => exact ⟨rfl, fun _ no => absurd no (Nat.not_lt_zero _)⟩
  | succ n ih =>
    obtain ⟨only, words⟩ := ih
    dsimp only at only words ⊢
    rw [List.range_succ, List.foldl_append]
    refine ⟨only.trans (.setReg ..), fun i less => (State.regN_setReg_hub (by omega) (by omega)).trans ?_⟩
    by_cases same : i = n
    · rw [if_pos (by rw [same]), same]
    · rw [if_neg (by omega), words i (by omega)]

/-- Where the books of a sub-port are latched. -/
def bookAt (i : Nat) : Nat := qmBase + 0x10 + 0x10 * i

/-- The credits of a sub-port rest on no register but its port's control. -/
theorem State.credits_congr (only : RegsOnly s t) (p m : Nat) (ctrl : t.regN (ethAddr p 0) = s.regN (ethAddr p 0)) :
    t.creditFree p m = s.creditFree p m ∧ t.creditHeld p m = s.creditHeld p m ∧ t.creditTotal p m = s.creditTotal p m := by
  have serdes : t.serdes = s.serdes := by unfold State.serdes; rw [only.power]
  have mode : t.portMode p = s.portMode p := by unfold State.portMode; rw [serdes, ctrl]
  have exists_ : t.subExists p m = s.subExists p m := by unfold State.subExists; rw [serdes, mode, only.power]
  have total : t.creditTotal p m = s.creditTotal p m := by unfold State.creditTotal; rw [exists_, mode]
  have held : t.creditHeld p m = s.creditHeld p m := by unfold State.creditHeld; rw [only.sub]
  exact ⟨by unfold State.creditFree; rw [total, held], held, total⟩

theorem State.snapSub_books (i : Nat) (b : Nat) (hub : ethBase ≤ b) : let t := s.snapSub (i / 4) (i % 4)
    RegsOnly s t ∧ t.regN b =
      if b = bookAt i + 8 then s.creditTotal (i / 4) (i % 4) % 2 ^ 32
      else if b = bookAt i + 4 then s.creditHeld (i / 4) (i % 4) % 2 ^ 32
      else if b = bookAt i then s.creditFree (i / 4) (i % 4) % 2 ^ 32 else s.regN b := by
  have at_ : qmBase + 0x10 + 0x10 * (4 * (i / 4) + i % 4) = bookAt i := by rw [Nat.div_add_mod]; rfl
  have above : ethBase ≤ bookAt i := Nat.le_trans (show ethBase ≤ qmBase + 0x10 by decide) (Nat.le_add_right ..)
  unfold State.snapSub
  dsimp only
  rw [at_]
  refine ⟨rfl, ?_⟩
  rw [State.regN_setReg_hub (by omega) hub, State.regN_setReg_hub (by omega) hub, State.regN_setReg_hub above hub]

/-- The books of the first `n` sub-ports latched. -/
theorem State.snapSubs_books (n : Nat) (small : n ≤ 8) :
    let t := (List.range n).foldl (fun (s : State) i => s.snapSub (i / 4) (i % 4)) s
    RegsOnly s t ∧ (∀ b, ethBase ≤ b → b < qmBase → t.regN b = s.regN b) ∧ ∀ i, i < n →
      t.regN (bookAt i + 8) = s.creditTotal (i / 4) (i % 4) % 2 ^ 32 ∧ t.regN (bookAt i + 4) = s.creditHeld (i / 4) (i % 4) % 2 ^ 32 ∧
        t.regN (bookAt i) = s.creditFree (i / 4) (i % 4) % 2 ^ 32 := by
  induction n with
  | zero => exact ⟨rfl, fun _ _ _ => rfl, fun _ no => absurd no (Nat.not_lt_zero _)⟩
  | succ n ih =>
    obtain ⟨only, others, books⟩ := ih (by omega)
    dsimp only at only others books ⊢
    rw [List.range_succ, List.foldl_append]
    generalize (List.range n).foldl (fun (s : State) i => s.snapSub (i / 4) (i % 4)) s = u at only others books ⊢
    have ctrl : u.regN (ethAddr (n / 4) 0) = s.regN (ethAddr (n / 4) 0) := others _ (by unfold ethAddr; omega) (by
      unfold ethAddr ethBase qmBase
      omega)
    obtain ⟨free, held, total⟩ := State.credits_congr only (n / 4) (n % 4) ctrl
    have snap (b : Nat) (hub : ethBase ≤ b) := (State.snapSub_books (s := u) n b hub).2
    rw [free, held, total] at snap
    have base : ethBase ≤ qmBase := by decide
    refine ⟨only.trans (State.snapSub_books n ethBase (Nat.le_refl _)).1, fun b hub low => ?_, fun i less => ?_⟩
    · refine (snap b hub).trans ?_
      unfold bookAt
      rw [if_neg (by omega), if_neg (by omega), if_neg (by omega), others b hub low]
    · have hub : ethBase ≤ bookAt i := by unfold bookAt; omega
      have past := snap (bookAt i) hub
      have past4 := snap (bookAt i + 4) (by omega)
      have past8 := snap (bookAt i + 8) (by omega)
      simp only [List.foldl_cons, List.foldl_nil]
      by_cases same : i = n
      · subst same
        rw [past, past4, past8]
        rw [if_pos rfl, if_neg (by omega), if_pos rfl, if_neg (by omega), if_neg (by omega), if_pos rfl]
        exact ⟨rfl, rfl, rfl⟩
      · obtain ⟨total', held', free'⟩ := books i (by omega)
        unfold bookAt at past past4 past8 total' held' free' ⊢
        rw [past, past4, past8]
        rw [if_neg (by omega), if_neg (by omega), if_neg (by omega), if_neg (by omega), if_neg (by omega), if_neg (by omega),
          if_neg (by omega), if_neg (by omega), if_neg (by omega)]
        exact ⟨total', held', free'⟩

theorem State.creditTotal_le (p m : Nat) : s.creditTotal p m ≤ 2048 := by
  unfold State.creditTotal modeCredits
  split
  · split
    · decide
    · split <;> decide
  · decide

theorem State.qmSnap_books (p m : Nat) (inP : p < 2) (inM : m < 4) (holds : s.creditHeld p m ≤ s.creditTotal p m) :
    let t := s.qmSnap
    let a := qmBase + 0x10 + 0x10 * (4 * p + m)
    t.regN (a + 4) = s.creditHeld p m ∧ t.regN (a + 8) = s.creditTotal p m ∧ t.regN a + t.regN (a + 4) = t.regN (a + 8) := by
  obtain ⟨total, held, free⟩ := (State.snapSubs_books (s := s) 8 (Nat.le_refl 8)).2.2 (4 * p + m) (by omega)
  rw [show (4 * p + m) / 4 = p by omega, show (4 * p + m) % 4 = m by omega] at total held free
  have most := s.creditTotal_le p m
  have is : s.creditFree p m = s.creditTotal p m - s.creditHeld p m := rfl
  dsimp only
  change s.qmSnap.regN (qmBase + 0x10 + 0x10 * (4 * p + m) + 8) = _ at total
  change s.qmSnap.regN (qmBase + 0x10 + 0x10 * (4 * p + m) + 4) = _ at held
  change s.qmSnap.regN (qmBase + 0x10 + 0x10 * (4 * p + m)) = _ at free
  rw [total, held, free]
  omega

/-! A control push (R325). -/

theorem State.pushCheck_bad {k len : Nat} (bad : len = 0 ∨ 8960 < len) : s.pushCheck k len = 7 := if_pos bad

theorem State.controlPush_only :
    let t := s.controlPush
    t = { s with regs := t.regs, slots := t.slots } ∧
    t.regN (qmBase + 0x214) = s.pushCheck (s.regN (qmBase + 0x200)) (s.regN (qmBase + 0x20C)) ∧
    (∀ j, j ≠ s.regN (qmBase + 0x200) → t.slot j = s.slot j) := by
  have small : s.pushCheck (s.regN (qmBase + 0x200)) (s.regN (qmBase + 0x20C)) < 2 ^ 32 := by
    unfold State.pushCheck
    split
    · decide
    · split
      · decide
      · split <;> decide
  unfold State.controlPush
  dsimp only
  refine ⟨?_, State.regN_setReg.trans ((if_pos rfl).trans (Nat.mod_eq_of_lt small)), fun j other => ?_⟩
  · split <;> rfl
  · split
    · exact (Sparse.get_set ..).trans (if_neg other)
    · rfl

/-! The flow table (R322). -/

theorem flowWord_lt (f : FlowWords) (i : Nat) : flowWord f i < 2 ^ 32 := (f.getD i 0).isLt

theorem flowWord_stored (f : FlowWords) (ten : f.length = 10) (i : Nat) (in_ : i < 10) :
    flowWord (flowStored f) i = flowWord f i &&& flowMasks.getD i 0 := by
  have masks : flowMasks.length = 10 := rfl
  have small : ∀ i, i < 10 → flowMasks.getD i 0 < 2 ^ 32 := by decide
  have is : (flowStored f).getD i 0 = f.getD i 0 &&& BitVec.ofNat 32 (flowMasks.getD i 0) := by
    unfold flowStored
    rw [List.getD_eq_getElem _ _ (by rw [List.length_map, List.length_zip]; omega), List.getElem_map, List.getElem_zip,
      List.getD_eq_getElem _ _ (by omega), List.getD_eq_getElem _ _ (by omega)]
  rw [flowWord, is, BitVec.toNat_and, BitVec.toNat_ofNat, Nat.mod_eq_of_lt (small i in_)]
  rfl

/-- An entry of zeros reads as one that was never written. -/
theorem flowWord_zeros {f : FlowWords} (zeros : f.all (· == 0) = true) (i : Nat) : flowWord f i = 0 := by
  unfold flowWord
  rw [List.getD_eq_getElem?_getD]
  cases at_ : f[i]? with
  | none => rfl
  | some w =>
    have zero := List.all_eq_true.1 zeros w (List.mem_of_getElem? at_)
    exact congrArg BitVec.toNat (beq_iff_eq.1 zero)

theorem State.flowData_word (i : Nat) (in_ : i < 10) : flowWord s.flowData i = s.regN (clsBase + 0x20 + 4 * i) := by
  unfold flowWord State.flowData
  rw [List.getD_eq_getElem _ _ (by rw [List.length_map, List.length_range]; exact in_), List.getElem_map, List.getElem_range]
  rfl

theorem State.flowData_length : s.flowData.length = 10 := rfl

theorem State.flowCheck_lt (n : Nat) (f : FlowWords) : s.flowCheck n f < 2 ^ 32 := by
  unfold State.flowCheck
  split
  · decide
  · split
    · decide
    · split <;> decide

/-- An entry put in the flow table, pending too on the slot of an admitted context. -/
def State.putFlow (c : CtxNo) (g : FlowWords) (s : State) : State :=
  let s1 := { s with flows := Sparse.set [] s.flows c.toNat (if g.all (· == 0) then [] else g) }
  if s.admitted c then
    match s.heldSlot c with
    | some k => s1.modSlot k (fun x => { x with flowNew := some g })
    | none => s1
  else s1

theorem State.putFlow_flows {c : CtxNo} {g : FlowWords} :
    (s.putFlow c g).flows = Sparse.set [] s.flows c.toNat (if g.all (· == 0) then [] else g) := by
  unfold State.putFlow
  dsimp only
  split
  · split <;> rfl
  · rfl

theorem State.flowWrite_kept (c : CtxNo) (f : FlowWords) (ten : f.length = 10) :
    let t := s.flowWrite c f
    t = { s with regs := t.regs, flows := t.flows, slots := t.slots } ∧ t.regN (clsBase + 0x18) = s.flowCheck c.toNat f ∧
      (∀ c', c' ≠ c → t.flowEntry c' = s.flowEntry c') ∧ (s.flowCheck c.toNat f ≠ 0 → t = { s with regs := t.regs }) ∧
      (s.flowCheck c.toNat f = 0 →
        (∀ i, i < 10 → flowWord (t.flowEntry c) i = flowWord f i &&& flowMasks.getD i 0) ∧
        ∀ k, s.admitted c = true → s.heldSlot c = some k → (t.slot k).flowNew = some (flowStored f)) := by
  have result (z : State) (r : Nat) (small : r < 2 ^ 32) : (z.setReg (clsBase + 0x18) r).regN (clsBase + 0x18) = r :=
    State.regN_setReg.trans ((if_pos rfl).trans (Nat.mod_eq_of_lt small))
  by_cases ok : s.flowCheck c.toNat f = 0
  · have is : s.flowWrite c f = (s.putFlow c (flowStored f)).setReg (clsBase + 0x18) 0 := if_neg (not_not.2 ok)
    have flows : (s.flowWrite c f).flows =
        Sparse.set [] s.flows c.toNat (if (flowStored f).all (· == 0) then [] else flowStored f) := by
      rw [is]
      exact State.putFlow_flows
    dsimp only
    refine ⟨?_, ?_, fun c' other => ?_, fun bad => absurd ok bad, fun _ => ⟨fun i in_ => ?_, fun k on held => ?_⟩⟩
    · rw [is]
      unfold State.putFlow
      dsimp only
      split
      · split <;> rfl
      · rfl
    · rw [is, ok]
      exact result _ 0 (by decide)
    · unfold State.flowEntry
      rw [flows, Sparse.get_set, if_neg fun same => other (BitVec.eq_of_toNat_eq same)]
    · unfold State.flowEntry
      rw [flows, Sparse.get_set, if_pos rfl, ← flowWord_stored f ten i in_]
      split
      · next zeros =>
        rw [flowWord_zeros zeros]
        rfl
      · rfl
    · have slot : ((s.putFlow c (flowStored f)).slot k).flowNew = some (flowStored f) := by
        unfold State.putFlow
        dsimp only
        rw [if_pos on, held]
        exact congrArg SlotSt.flowNew ((Sparse.get_set ..).trans (if_pos rfl))
      rw [is]
      exact slot
  · have is : s.flowWrite c f = s.setReg (clsBase + 0x18) (s.flowCheck c.toNat f) := if_pos ok
    dsimp only
    rw [is]
    exact ⟨rfl, result s _ (s.flowCheck_lt ..), fun _ _ => rfl, fun _ => rfl, fun no => absurd no ok⟩

end

theorem registersOfQueuesHold : registersOfQueuesRule := by
  intro s
  refine ⟨fun hub => ?_, fun hub => ?_, fun on => ⟨?_, ?_, fun v l is => ?_, fun is => ?_⟩⟩
  · exact ⟨_, congrArg Host.Outcome.next (if_pos hub), (State.snapSubs_books 8 (Nat.le_refl 8)).1, fun p m inP inM => State.qmSnap_books p m inP inM⟩
  · obtain ⟨rest, result, others⟩ := State.controlPush_only (s := s)
    refine ⟨_, congrArg Host.Outcome.next (if_pos hub), rest, others, fun bad => ?_, fun some_ fits => ?_⟩
    · rw [State.pushCheck_bad bad] at result
      refine ⟨result, ?_⟩
      unfold State.controlPush
      dsimp only
      rw [if_neg (by rw [State.pushCheck_bad bad]; decide)]
      rfl
    · have pushes (r : Nat) (is : s.pushCheck (s.regN (qmBase + 0x200)) (s.regN (qmBase + 0x20C)) = r) (refused : r ≠ 0) :
          s.controlPush.regN (qmBase + 0x214) = r ∧ s.controlPush.slots = s.slots := by
        refine ⟨result.trans is, ?_⟩
        unfold State.controlPush
        dsimp only
        rw [if_neg (by rw [is]; exact refused)]
        rfl
      have good : ¬(s.regN (qmBase + 0x20C) = 0 ∨ 8960 < s.regN (qmBase + 0x20C)) := by omega
      have free {held : Bool} (is : ((s.slot (s.regN (qmBase + 0x200))).ctx.isSome && !(s.slot (s.regN (qmBase + 0x200))).upper) = held) :
          ((s.slot (s.regN (qmBase + 0x200))).ctx.isNone || (s.slot (s.regN (qmBase + 0x200))).upper) = !held := by
        rw [← is, ← Option.not_isSome, Bool.not_and, Bool.not_not]
      refine ⟨fun no => pushes 2 ?_ (by decide), fun held full => pushes 1 ?_ (by decide), fun held room => ?_⟩
      · unfold State.pushCheck
        rw [if_neg good, if_pos (by rw [free no]; rfl)]
      · unfold State.pushCheck
        rw [if_neg good, if_neg (by rw [free held]; exact Bool.noConfusion), if_pos full]
      · have ok : s.pushCheck (s.regN (qmBase + 0x200)) (s.regN (qmBase + 0x20C)) = 0 := by
          unfold State.pushCheck
          rw [if_neg good, if_neg (by rw [free held]; exact Bool.noConfusion), if_neg (Nat.not_le.2 room)]
        refine ⟨result.trans ok, ?_⟩
        unfold State.controlPush
        dsimp only
        rw [if_pos ok]
        exact (Sparse.get_set ..).trans (if_pos rfl)
  · obtain ⟨only, words⟩ := State.setRegs_from (s := s) (clsBase + 0x20) (by decide)
      (flowWord (s.flowEntry (BitVec.ofNat 18 (s.regN (clsBase + 0x10))))) 10
    refine ⟨_, congrArg Host.Outcome.next (if_neg on), only.trans (.setReg ..), ?_, fun i in_ => ?_⟩
    · exact State.regN_setReg.trans (if_pos rfl)
    · refine (State.regN_setReg_hub (by decide) (Nat.le_trans (by decide) (Nat.le_add_right (clsBase + 0x20) _))).trans ?_
      rw [if_neg (by omega), words i in_, Nat.mod_eq_of_lt (flowWord_lt ..)]
  · obtain ⟨rest, result, others, refused, written⟩ :=
      State.flowWrite_kept (s := s) (BitVec.ofNat 18 (s.regN (clsBase + 0x10))) s.flowData State.flowData_length
    refine ⟨_, congrArg Host.Outcome.next (if_neg on), rest, result, others, refused, fun ok => ⟨fun i in_ => ?_, (written ok).2⟩⟩
    rw [(written ok).1 i in_, State.flowData_word i in_]
  · have runs : s.wakeRead = ({ s with wakeFifo := l }.setLevel 12 (!l.isEmpty)).reply v.toNat := by rw [State.wakeRead, is]
    obtain ⟨level, rest⟩ := State.setLevel_level (s := { s with wakeFifo := l }) 12 (!l.isEmpty) (by decide)
    refine ⟨_, congrArg Host.Outcome.next ((if_neg on).trans runs), ?_, level⟩
    generalize State.setLevel 12 (!l.isEmpty) { s with wakeFifo := l } = u at rest
    have answer : (u.reply v.toNat).answer = v.setWidth 64 := BitVec.eq_of_toNat_eq (by
      rw [BitVec.toNat_setWidth]
      exact BitVec.toNat_ofNat ..)
    rw [← answer]
    show { u with answer := _ } = _
    conv_lhs => rw [rest]
    rfl
  · refine congrArg Host.Outcome.next ((if_neg on).trans ?_)
    rw [State.wakeRead]
    split
    · next some_ => rw [is] at some_; exact nomatch some_
    · rfl

end Sys2Proof.Machine

/-! ## The Keeper transmit ring (R330, R340) -/
namespace Sys2Proof.Machine
open Sys2Proof Sys2Proof.Claims

/-! ### Stores to memory alone -/

section
variable {s t u z : State} {a n : Nat}

/-- Stores of plain bytes at most: memory and what goes with it. -/
structure MemOnly (s t : State) : Prop where
  rest : t = { s with mem := t.mem, bad := t.bad, images := t.images }
  view : SameView s t

theorem MemOnly.refl (s : State) : MemOnly s s := ⟨rfl, .refl s⟩

theorem MemOnly.trans (f : MemOnly s t) (g : MemOnly t u) : MemOnly s u := by
  refine ⟨?_, f.view.trans g.view⟩
  have base (m : List Host.Cell) (b : Sparse Bool) (i : Sparse (Option (Session × Nat))) :
      ({ t with mem := m, bad := b, images := i } : State) = { s with mem := m, bad := b, images := i } := by rw [f.rest]
  rw [← base]
  exact g.rest

theorem Stored.only {l : List Byte} (stored : Stored a l s t) : MemOnly s t := by
  refine ⟨?_, stored.view⟩
  rw [stored.mem]
  exact stored.rest

theorem MemOnly.reg (only : MemOnly s t) (b : Nat) : t.regN b = s.regN b := by
  unfold State.regN State.reg
  rw [only.rest]

theorem Stored.word64_other {b v : Nat} (plain : plainBytes s b 8) (stored : Stored a (bytesLE 8 v) s t)
    (apart : b + 8 ≤ a ∨ a + 8 ≤ b) : t.word64 b = s.word64 b :=
  stored.word64_apart plain (by rw [length_bytesLE]; exact apart)

theorem DicOnly.view (only : DicOnly s t) : SameView s t := by
  rw [only.rest]
  exact ⟨rfl, rfl, rfl, rfl, rfl, rfl, fun _ => rfl⟩

/-! ### The descriptor given back (R330) -/

/-- The timestamp of a frame sent, where its descriptor asks for one. -/
def State.ktxStamp (sent : Option Clock) (s : State) : State :=
  match sent with
  | some c => if s.ktxFlags.testBit 0 then
      (s.setWord64 (s.ringDesc 0x410 + 16) c.secs).setWord64 (s.ringDesc 0x410 + 24) (c.nanos * 2 ^ 32 + c.frac * 2 ^ 16)
    else s
  | none => s

theorem Clock.fine_lt (c : Clock) : c.nanos * 2 ^ 32 + c.frac * 2 ^ 16 < 2 ^ 64 := by
  have nanos : c.nanos < 1000000000 := Nat.mod_lt _ (by decide)
  have frac : c.frac < 65536 := Nat.mod_lt _ (by decide)
  omega

theorem State.ktxStamp_kept (plain : plainBytes s (s.ringDesc 0x410) 32) (sent : Option Clock) :
    let a := s.ringDesc 0x410
    let t := s.ktxStamp sent
    MemOnly s t ∧ t.word64 a = s.word64 a ∧ t.word64 (a + 8) = s.word64 (a + 8) ∧
      (∀ c, sent = some c → s.ktxFlags.testBit 0 = true →
        t.word64 (a + 16) = c.secs % 2 ^ 64 ∧ t.word64 (a + 24) = c.nanos * 2 ^ 32 + c.frac * 2 ^ 16) := by
  have whole (i : Nat) (within : i + 8 ≤ 32) := plainBytes_part plain within
  unfold State.ktxStamp
  cases sent with
  | none => exact ⟨.refl s, rfl, rfl, fun _ no => nomatch no⟩
  | some c =>
    cases asks : s.ktxFlags.testBit 0 with
    | false => exact ⟨.refl s, rfl, rfl, fun _ _ no => nomatch no⟩
    | true =>
      dsimp only
      rw [if_pos rfl]
      have first := State.setWord64_plain (whole 16 (by decide)) c.secs
      generalize s.setWord64 (s.ringDesc 0x410 + 16) c.secs = t at first ⊢
      have there (i : Nat) (within : i + 8 ≤ 32) := first.view.plain (whole i within)
      have second := State.setWord64_plain (there 24 (by decide)) (c.nanos * 2 ^ 32 + c.frac * 2 ^ 16)
      generalize t.setWord64 (s.ringDesc 0x410 + 24) (c.nanos * 2 ^ 32 + c.frac * 2 ^ 16) = u at second ⊢
      refine ⟨first.only.trans second.only, ?_, ?_, fun c' same _ => ?_⟩
      · show u.word64 (s.ringDesc 0x410 + 0) = s.word64 (s.ringDesc 0x410 + 0)
        rw [second.word64_other (there 0 (by decide)) (.inl (by omega)), first.word64_other (whole 0 (by decide)) (.inl (by omega))]
      · rw [second.word64_other (there 8 (by decide)) (.inl (by omega)), first.word64_other (whole 8 (by decide)) (.inl (by omega))]
      · rw [← Option.some.inj same, second.word64_other (there 16 (by decide)) (.inl (by omega)), first.word64 (whole 16 (by decide)),
          second.word64 (there 24 (by decide)), Nat.mod_eq_of_lt c.fine_lt]
        exact ⟨rfl, rfl⟩

/-- The descriptor's length and owner, given back. -/
def State.ktxBack (a len : Nat) (s : State) : State :=
  let s2 := s.setWord64 (a + 8) (s.word64 (a + 8) % 2 ^ 48 + len * 2 ^ 48)
  s2.setWord64 a (s2.word64 a % 2 ^ 63)

theorem State.ktxBack_kept (plain : plainBytes s a 32) {len : Nat} (small : len < 65536) :
    let t := s.ktxBack a len
    MemOnly s t ∧ t.word64 a = s.word64 a % 2 ^ 63 ∧ t.word64 (a + 8) = s.word64 (a + 8) % 2 ^ 48 + 2 ^ 48 * len ∧
      t.word64 (a + 16) = s.word64 (a + 16) ∧ t.word64 (a + 24) = s.word64 (a + 24) := by
  have whole (i : Nat) (within : i + 8 ≤ 32) := plainBytes_part plain within
  unfold State.ktxBack
  dsimp only
  have first := State.setWord64_plain (whole 8 (by decide)) (s.word64 (a + 8) % 2 ^ 48 + len * 2 ^ 48)
  generalize s.setWord64 (a + 8) _ = t at first ⊢
  have there (i : Nat) (within : i + 8 ≤ 32) := first.view.plain (whole i within)
  have second := State.setWord64_plain (there 0 (by decide)) (t.word64 a % 2 ^ 63)
  rw [Nat.add_zero] at second
  have owner : t.word64 a = s.word64 a := first.word64_other (whole 0 (by decide)) (.inl (by omega))
  generalize t.setWord64 a _ = u at second ⊢
  have low : s.word64 (a + 8) % 2 ^ 48 < 2 ^ 48 := Nat.mod_lt _ (by decide)
  refine ⟨first.only.trans second.only, ?_, ?_, ?_, ?_⟩
  · show u.word64 (a + 0) = _
    rw [second.word64 (there 0 (by decide)), owner]
    omega
  · rw [second.word64_other (there 8 (by decide)) (.inr (by omega)), first.word64 (whole 8 (by decide))]
    omega
  · rw [second.word64_other (there 16 (by decide)) (.inr (by omega)), first.word64_other (whole 16 (by decide)) (.inr (by omega))]
  · rw [second.word64_other (there 24 (by decide)) (.inr (by omega)), first.word64_other (whole 24 (by decide)) (.inr (by omega))]

/-- The head of the transmit ring moves on, and its source is raised. -/
def State.ktxMoved (s : State) : State :=
  { s.setReg (clsBase + 0x41C) ((s.regN (clsBase + 0x41C) + 1) % ringLen (s.regN (clsBase + 0x418))) with ktxReady := none }

def State.ktxNext (s : State) : State := s.ktxMoved.raiseP 16

theorem State.ktxReturn_eq (len : Nat) (sent : Option Clock) :
    s.ktxReturn len sent = ((s.ktxStamp sent).ktxBack (s.ringDesc 0x410) len).ktxNext := rfl

theorem ringLen_le (ctrl : Nat) : 0 < ringLen ctrl ∧ ringLen ctrl ≤ 128 := by
  unfold ringLen
  split
  · decide
  · next within =>
    generalize field ctrl 0 8 = n at within
    omega

theorem State.ktxNext_kept : let t := s.ktxNext
    SameView s t ∧ t.mem = s.mem ∧ t.wire = s.wire ∧ t.subports = s.subports ∧ t.slots = s.slots ∧ t.ktxReady = none ∧
      t.regN (clsBase + 0x41C) = (s.regN (clsBase + 0x41C) + 1) % ringLen (s.regN (clsBase + 0x418)) ∧
      (s.power.hub = true → t.dic.pend.getLsbD 16 = true) := by
  have within := ringLen_le (s.regN (clsBase + 0x418))
  have less := Nat.mod_lt (s.regN (clsBase + 0x41C) + 1) within.1
  have word : (s.setReg (clsBase + 0x41C) ((s.regN (clsBase + 0x41C) + 1) % ringLen (s.regN (clsBase + 0x418)))).regN (clsBase + 0x41C) = _ :=
    State.regN_setReg.trans ((if_pos rfl).trans (Nat.mod_eq_of_lt (Nat.lt_of_lt_of_le less (Nat.le_trans within.2 (by decide)))))
  have only := State.raiseP_only (s := s.ktxMoved) (n := 16)
  have pend := State.raiseP_pend (s := s.ktxMoved) (n := 16)
  unfold State.ktxNext
  generalize s.ktxMoved.raiseP 16 = t at only pend ⊢
  refine ⟨SameView.trans (t := s.ktxMoved) ⟨rfl, rfl, rfl, rfl, rfl, rfl, fun _ => rfl⟩ only.view, by rw [only.rest]; rfl, by rw [only.rest]; rfl,
    by rw [only.rest]; rfl, by rw [only.rest]; rfl, by rw [only.rest]; rfl, ?_, fun hub => pend hub (by decide)⟩
  refine Eq.trans ?_ word
  rw [only.rest]
  rfl

theorem State.ktxReturn_returned (plain : plainBytes s (s.ringDesc 0x410) 32) {len : Nat} (small : len < 65536) (sent : Option Clock) :
    let t := s.ktxReturn len sent
    transmitReturned s t len sent ∧ t.wire = s.wire ∧ t.subports = s.subports := by
  obtain ⟨only1, word0, word8, stamped⟩ := State.ktxStamp_kept plain sent
  dsimp only at only1 word0 word8 stamped ⊢
  rw [State.ktxReturn_eq]
  generalize s.ktxStamp sent = t1 at only1 word0 word8 stamped ⊢
  obtain ⟨only2, owner, length, stamp16, stamp24⟩ := State.ktxBack_kept (only1.view.plain plain) small
  generalize t1.ktxBack (s.ringDesc 0x410) len = t2 at only2 owner length stamp16 stamp24 ⊢
  have both := only1.trans only2
  obtain ⟨view, mem, wire, subs, slots, ready, head, pend⟩ := State.ktxNext_kept (s := t2)
  generalize t2.ktxNext = t at view mem wire subs slots ready head pend ⊢
  have word (i : Nat) (within : i + 8 ≤ 32) : t.word64 (s.ringDesc 0x410 + i) = t2.word64 (s.ringDesc 0x410 + i) :=
    State.word64_congr (plainBytes_part (both.view.plain plain) within) view fun _ _ => by rw [mem]
  rw [both.reg, both.reg] at head
  have power := both.view.power
  refine ⟨⟨?_, ?_, head, ready, fun c same asks => ?_, fun hub => pend (by rw [power]; exact hub), ?_, ?_⟩, ?_, ?_⟩
  · rw [word 8 (by decide), length, word8]
  · refine (word 0 (by decide)).trans ?_
    rw [Nat.add_zero, owner, word0]
  · obtain ⟨at16, at24⟩ := stamped c same asks
    rw [word 16 (by decide), word 24 (by decide), stamp16, stamp24]
    exact ⟨at16, at24⟩
  · rw [view.ctxs, both.view.ctxs]
  · rw [slots, both.rest]
  · rw [wire, both.rest]
  · rw [subs, both.rest]

/-! ### Sending (R330) -/

theorem State.agentRead_good (good : s.bad = []) (node : Byte) (a n : Nat) : s.agentRead node a n = s := by
  have none_ (b m : Nat) : s.loamBad b m = false := by
    unfold State.loamBad State.badIn
    rw [good]
    rfl
  unfold State.agentRead
  rw [List.find?_eq_none.2 fun i _ => by rw [none_, Bool.and_false]; exact Bool.false_ne_true]

theorem State.putOnWire_kept (p m : Nat) (bytes : List Byte) : let t := s.putOnWire p m bytes
    SameView s t ∧ t.mem = s.mem ∧ t.bad = s.bad ∧ (∀ b, t.regN b = s.regN b) ∧ t.slots = s.slots ∧
      t.wire = .frame (Fin.ofNat 2 p) (Fin.ofNat 4 m) s.stamp (padFrame bytes) :: s.wire ∧
      t.sub p m = { s.sub p m with held := (s.sub p m).held ++ [(padFrame bytes).length] } :=
  ⟨⟨rfl, rfl, rfl, rfl, rfl, rfl, fun _ => rfl⟩, rfl, rfl, fun _ => rfl, rfl, rfl, (Sparse.get_set ..).trans (if_pos rfl)⟩

/-- What is given back to the ring rests on the ring's own descriptor. -/
theorem transmitReturned.of {len : Nat} {sent : Option Clock} (returned : transmitReturned z t len sent)
    (plain : plainBytes s (s.ringDesc 0x410) 32) (view : SameView s z) (mem : z.mem = s.mem) (regs : ∀ b, z.regN b = s.regN b)
    (slots : z.slots = s.slots) : transmitReturned s t len sent := by
  have desc : z.ringDesc 0x410 = s.ringDesc 0x410 := by unfold State.ringDesc; rw [regs, regs, regs]
  have word (i : Nat) (within : i + 8 ≤ 32) : z.word64 (s.ringDesc 0x410 + i) = s.word64 (s.ringDesc 0x410 + i) :=
    State.word64_congr (plainBytes_part plain within) view fun _ _ => by rw [mem]
  have word0 : z.word64 (s.ringDesc 0x410) = s.word64 (s.ringDesc 0x410) := word 0 (by decide)
  have flags : z.ktxFlags = s.ktxFlags := by unfold State.ktxFlags; rw [desc, word0]
  unfold transmitReturned at returned ⊢
  dsimp only at returned ⊢
  rw [desc, regs, regs, flags, view.power, view.ctxs, slots, word0, word 8 (by decide)] at returned
  exact returned

end

theorem transmitRingHolds : transmitRingRule := by
  intro s
  refine ⟨fun owned none_ => ?_, fun not_ => ?_, fun at' owned ready good plain => ?_⟩
  · exact congrArg Host.Outcome.next (if_pos (by rw [owned, none_]; rfl))
  · refine congrArg Host.Outcome.next (if_neg ?_)
    rcases not_ with no | some_
    · rw [no]
      exact Bool.false_ne_true
    · rw [Option.isNone_eq_false_iff.2 (Option.isSome_iff_ne_none.2 some_), Bool.and_false]
      exact Bool.false_ne_true
  · have polled : s.ktxPoll = s := if_neg (by rw [ready, Bool.and_comm]; exact Bool.false_ne_true)
    have found : (s.ktxReady.isNone || !s.ringOwned 0x410) = false := by rw [ready, owned]; rfl
    have runs : exec .keeperTransmit s = .next (if s.ktxLen < 60 ∨ 4096 < s.ktxLen then s.ktxReturn 0 none
        else if (s.chooseNext s.ktxPort s.ktxSub).map (·.item) = some .keeper then s.sendKeeper else s) := by
      refine congrArg Host.Outcome.next ?_
      rw [polled, found]
      rfl
    refine ⟨fun bad => ?_, fun e low high chosen item up fits => ?_⟩
    · obtain ⟨returned, wire, -⟩ := State.ktxReturn_returned plain (len := 0) (by decide) none
      exact ⟨_, runs.trans (congrArg Host.Outcome.next (if_pos bad)), wire, returned⟩
    · have sends : s.sendKeeper = (s.putOnWire s.ktxPort s.ktxSub s.ktxFrame).ktxReturn s.ktxLen (some s.stampClock) := by
        unfold State.sendKeeper
        dsimp only
        rw [up, fits, State.agentRead_good (by exact good)]
        rfl
      obtain ⟨view, mem, -, regs, slots, wire, sub⟩ := State.putOnWire_kept (s := s) s.ktxPort s.ktxSub s.ktxFrame
      have turn : (s.chooseNext s.ktxPort s.ktxSub).map (·.item) = some .keeper := by rw [chosen]; exact congrArg some item
      refine ⟨_, runs.trans (congrArg Host.Outcome.next ((if_neg (by omega)).trans ((if_pos turn).trans sends))), ?_⟩
      generalize s.putOnWire s.ktxPort s.ktxSub s.ktxFrame = z at view mem regs slots wire sub
      have desc : z.ringDesc 0x410 = s.ringDesc 0x410 := by unfold State.ringDesc; rw [regs, regs, regs]
      obtain ⟨returned, sent, subs⟩ := State.ktxReturn_returned (s := z) (by rw [desc]; exact view.plain plain) (len := s.ktxLen) (by omega)
        (some s.stampClock)
      refine ⟨transmitReturned.of returned plain view mem regs slots, sent.trans wire, ?_⟩
      have held : (z.ktxReturn s.ktxLen (some s.stampClock)).sub s.ktxPort s.ktxSub = z.sub s.ktxPort s.ktxSub := by
        unfold State.sub
        rw [subs]
      rw [held, sub]

/-- Settles O47: the rows of the queue manager act on the books, the tables and the rings they name. -/
theorem queueManagerCommands : Obligations.QueueManagerCommands := ⟨portsHold, registersOfQueuesHold, transmitRingHolds⟩

end Sys2Proof.Machine

/-! ## Received frames (R314, R315, R318 to R320, R329, R330) -/
namespace Sys2Proof.Machine
open Sys2Proof Sys2Proof.Claims

section
variable {s t u z : State} {p : Fin 2} {m : Fin 4} {l : List Byte} {a : Nat}

/-! ### The rows of a frame -/

theorem State.receive_full (full : s.bufferFull p.val m.val = true) (fcsOk : Bool) :
    s.receive p.val m.val fcsOk l = (s.addCnt (ethSub p.val m.val 0x68) 1).spend := if_pos full

theorem State.receive_length (room : s.bufferFull p.val m.val = false) (bad : l.length < 60 ∨ 9212 < l.length) :
    s.receive p.val m.val true l = s.addCnt (ethSub p.val m.val 0x58) 1 := by
  unfold State.receive
  rw [if_neg (by rw [room]; exact Bool.false_ne_true), if_pos (by omega)]
  rfl

theorem State.receive_fcs (room : s.bufferFull p.val m.val = false) (low : 60 ≤ l.length) (high : l.length ≤ 9212) :
    s.receive p.val m.val false l = s.addCnt (ethSub p.val m.val 0x50) 1 := by
  unfold State.receive
  rw [if_neg (by rw [room]; exact Bool.false_ne_true), if_neg (by omega)]
  rfl

theorem State.receive_good (room : s.bufferFull p.val m.val = false) (low : 60 ≤ l.length) (high : l.length ≤ 9212) :
    s.receive p.val m.val true l = ((received s p m l).classify p.val m.val l).spend := by
  unfold State.receive
  rw [if_neg (by rw [room]; exact Bool.false_ne_true), if_neg (by omega)]
  rfl

/-- A frame's class is the classifier's ring class. -/
theorem State.classify_class {cls : Nat} (accepted : s.macAccept p.val m.val l = true) (is : frameClass (parseFrame l) = some cls) :
    s.classify p.val m.val l = s.toKeeper cls p.val m.val l := by
  unfold frameClass at is
  unfold State.classify
  dsimp only
  generalize parseFrame l = f at is ⊢
  rw [if_neg (by rw [accepted]; exact Bool.false_ne_true)]
  split at is
  · exact nomatch is
  · next plain =>
    rw [if_neg fun no => plain (.inl no)]
    split at is
    · next tags =>
      rw [if_pos tags]
      rw [Option.some.inj is]
    · next single =>
      rw [if_neg single]
      have one : f.svlan = false ∧ f.tags ≤ 1 := by
        refine ⟨Bool.eq_false_iff.2 fun no => single (.inl no), Nat.not_lt.1 fun no => single (.inr no)⟩
      split at is
      · next ptp =>
        rw [if_pos ptp, Option.some.inj is]
      · next other =>
        rw [if_neg other]
        split at is
        · next arp =>
          rw [if_pos arp, Option.some.inj is]
        · next other =>
          rw [if_neg other, if_neg fun no => plain (.inr (.inl ⟨no, one⟩)), if_neg fun no => plain (.inr (.inr ⟨no, one⟩)),
            Option.some.inj is]

/-! ### The receive ring (R330) -/

/-- The four words of a descriptor. -/
def State.ringFill (a w0 w1 w2 w3 : Nat) (s : State) : State :=
  (((s.setWord64 (a + 8) w1).setWord64 (a + 16) w2).setWord64 (a + 24) w3).setWord64 a w0

theorem State.ringFill_kept (plain : plainBytes s a 32) (w0 w1 w2 w3 : Nat) :
    let t := s.ringFill a w0 w1 w2 w3
    MemOnly s t ∧ t.word64 a = w0 % 2 ^ 64 ∧ t.word64 (a + 8) = w1 % 2 ^ 64 ∧ t.word64 (a + 16) = w2 % 2 ^ 64 ∧
      t.word64 (a + 24) = w3 % 2 ^ 64 ∧ ∀ b, b < a ∨ a + 32 ≤ b → memByte t.mem b = memByte s.mem b := by
  have whole (i : Nat) (within : i + 8 ≤ 32) := plainBytes_part plain within
  unfold State.ringFill
  dsimp only
  have first := State.setWord64_plain (whole 8 (by decide)) w1
  generalize s.setWord64 (a + 8) w1 = t1 at first ⊢
  have there1 (i : Nat) (within : i + 8 ≤ 32) := first.view.plain (whole i within)
  have second := State.setWord64_plain (there1 16 (by decide)) w2
  generalize t1.setWord64 (a + 16) w2 = t2 at second ⊢
  have there2 (i : Nat) (within : i + 8 ≤ 32) := second.view.plain (there1 i within)
  have third := State.setWord64_plain (there2 24 (by decide)) w3
  generalize t2.setWord64 (a + 24) w3 = t3 at third ⊢
  have there3 (i : Nat) (within : i + 8 ≤ 32) := third.view.plain (there2 i within)
  have last := State.setWord64_plain (there3 0 (by decide)) w0
  rw [Nat.add_zero] at last
  generalize t3.setWord64 a w0 = t4 at last ⊢
  refine ⟨first.only.trans (second.only.trans (third.only.trans last.only)), last.word64 (there3 0 (by decide)), ?_, ?_, ?_,
    fun b out => ?_⟩
  · rw [last.word64_other (there3 8 (by decide)) (by omega), third.word64_other (there2 8 (by decide)) (by omega),
      second.word64_other (there1 8 (by decide)) (by omega), first.word64 (whole 8 (by decide))]
  · rw [last.word64_other (there3 16 (by decide)) (by omega), third.word64_other (there2 16 (by decide)) (by omega),
      second.word64 (there1 16 (by decide))]
  · rw [last.word64_other (there3 24 (by decide)) (by omega), third.word64 (there2 24 (by decide))]
  · rw [last.byte, third.byte, second.byte, first.byte]
    simp only [length_bytesLE]
    rw [if_neg (by omega), if_neg (by omega), if_neg (by omega), if_neg (by omega)]

/-- The head of the receive ring moves on. -/
def State.krxMoved (s : State) : State := s.setReg (clsBase + 0x40C) ((s.regN (clsBase + 0x40C) + 1) % ringLen (s.regN (clsBase + 0x408)))

theorem State.krxMoved_head : s.krxMoved.regN (clsBase + 0x40C) = (s.regN (clsBase + 0x40C) + 1) % ringLen (s.regN (clsBase + 0x408)) := by
  have within := ringLen_le (s.regN (clsBase + 0x408))
  have less := Nat.mod_lt (s.regN (clsBase + 0x40C) + 1) within.1
  exact State.regN_setReg.trans ((if_pos rfl).trans (Nat.mod_eq_of_lt (Nat.lt_of_lt_of_le less (Nat.le_trans within.2 (by decide)))))

/-- What a frame stored in the ring leaves: the buffer, the descriptor, the head and the source. -/
theorem State.toKeeper_eq (cls : Nat) (fits : l.length ≤ 4096) (owned : s.ringOwned 0x400 = true) :
    s.toKeeper cls p.val m.val l = (((s.agentStore 2 (field (s.word64 (s.ringDesc 0x400)) 0 48) l).ringFill (s.ringDesc 0x400)
      (cls * 2 ^ 48 + field (s.word64 (s.ringDesc 0x400)) 0 48) (l.length * 2 ^ 48 + p.val * 2 ^ 44 + m.val * 2 ^ 42)
      s.stampClock.secs (s.stampClock.nanos * 2 ^ 32 + s.stampClock.frac * 2 ^ 16)).krxMoved).raiseP 15 := by
  unfold State.toKeeper
  rw [if_neg (by omega), if_neg (by rw [owned]; exact Bool.false_ne_true)]
  rfl

theorem State.toKeeper_delivers {cls : Nat} (small : cls ≤ 8) (fits : l.length ≤ 4096) (owned : s.ringOwned 0x400 = true)
    (ring : plainBytes s (s.ringDesc 0x400) 32) (buffer : plainBytes s (field (s.word64 (s.ringDesc 0x400)) 0 48) l.length) :
    let t := s.toKeeper cls p.val m.val l
    delivered s t cls p m l ∧ t.ctxs = s.ctxs ∧ t.slots = s.slots ∧ SameView s t := by
  dsimp only
  rw [State.toKeeper_eq cls fits owned]
  unfold delivered
  dsimp only
  have address : field (s.word64 (s.ringDesc 0x400)) 0 48 < 2 ^ 48 := Nat.mod_lt _ (by decide)
  generalize field (s.word64 (s.ringDesc 0x400)) 0 48 = buf at buffer address ⊢
  generalize s.ringDesc 0x400 = a at ring ⊢
  have stored := State.agentStore_plain buffer
  generalize s.agentStore 2 buf l = t1 at stored ⊢
  obtain ⟨only2, word0, word8, word16, word24, outside⟩ := State.ringFill_kept (stored.view.plain ring) (cls * 2 ^ 48 + buf)
    (l.length * 2 ^ 48 + p.val * 2 ^ 44 + m.val * 2 ^ 42) s.stampClock.secs (s.stampClock.nanos * 2 ^ 32 + s.stampClock.frac * 2 ^ 16)
  generalize t1.ringFill a _ _ _ _ = t2 at only2 word0 word8 word16 word24 outside ⊢
  have both := stored.only.trans only2
  have head := State.krxMoved_head (s := t2)
  rw [both.reg, both.reg] at head
  have moved : t2.krxMoved = { t2 with regs := t2.krxMoved.regs } := rfl
  generalize t2.krxMoved = t3 at head moved ⊢
  have only4 := State.raiseP_only (s := t3) (n := 15)
  have pend := State.raiseP_pend (s := t3) (n := 15)
  generalize t3.raiseP 15 = t at only4 pend ⊢
  have mem : t.mem = t2.mem := by
    have third : t3.mem = t2.mem := by rw [moved]
    rw [only4.rest, ← third]
  have view : SameView t2 t := by
    refine SameView.trans (t := t3) ?_ only4.view
    rw [moved]
    exact ⟨rfl, rfl, rfl, rfl, rfl, rfl, fun _ => rfl⟩
  have word (i : Nat) (within : i + 8 ≤ 32) : t.word64 (a + i) = t2.word64 (a + i) :=
    State.word64_congr (plainBytes_part (both.view.plain ring) within) view fun _ _ => by rw [mem]
  have power : t3.power = s.power := (congrArg State.power moved).trans both.view.power
  refine ⟨⟨fun i within out => ?_, ?_, ?_, ⟨s.stamp, ?_, ?_, ?_, ?_⟩, fun b out past => ?_, ?_, fun hub => pend (by rw [power, hub]) (by decide)⟩,
    ?_, ?_, both.view.trans view⟩
  · rw [mem, outside _ (by omega), stored.byte, if_pos (by omega), Nat.add_sub_cancel_left]
  · refine (word 0 (by decide)).trans (word0.trans (Nat.mod_eq_of_lt ?_))
    omega
  · refine (word 8 (by decide)).trans (word8.trans (Nat.mod_eq_of_lt ?_))
    have := p.isLt
    have := m.isLt
    omega
  · unfold State.stamp
    omega
  · unfold State.stamp
    omega
  · exact (word 16 (by decide)).trans word16
  · exact (word 24 (by decide)).trans (word24.trans (Nat.mod_eq_of_lt (Clock.fine_lt _)))
  · rw [mem, outside _ (by omega), stored.byte, if_neg (by omega)]
  · rw [← head]
    unfold State.regN State.reg
    rw [only4.rest]
  · rw [view.ctxs, both.view.ctxs]
  · have slots : t2.slots = s.slots := by rw [both.rest]
    have third : t3.slots = t2.slots := by rw [moved]
    rw [only4.rest, ← slots, ← third]

/-! ### PFC (R329) -/

/-- The first `n` priorities that a PFC frame names. -/
theorem pfc_bits (rxen vec : Nat) (quanta : Nat → Nat) (v : BitVec 8) (n : Nat) (small : n ≤ 8) (i : Fin 8) :
    ((List.range n).foldl (fun (v : BitVec 8) i => if rxen.testBit i ∧ vec.testBit i then
        if quanta i = 0 then v &&& ~~~(1#8 <<< i) else v ||| (1#8 <<< i) else v) v).getLsbD i.val =
      if (decide (i.val < n) && rxen.testBit i.val && vec.testBit i.val) then decide (quanta i.val ≠ 0) else v.getLsbD i.val := by
  induction n with
  | zero => simp
  | succ n ih =>
    have bit := oneBit_getLsbD ⟨n, by omega⟩ i
    dsimp only at bit
    rw [List.range_succ, List.foldl_append, List.foldl_cons, List.foldl_nil]
    specialize ih (by omega)
    generalize (List.range n).foldl _ v = w at ih ⊢
    by_cases same : i.val = n
    · have at_ : i = ⟨n, by omega⟩ := Fin.ext same
      rw [decide_eq_true at_] at bit
      rw [decide_eq_false (by omega), Bool.false_and, Bool.false_and, if_neg Bool.false_ne_true] at ih
      rw [decide_eq_true (by omega), Bool.true_and, same]
      rw [same] at bit ih
      by_cases named : rxen.testBit n ∧ vec.testBit n
      · rw [if_pos named, named.1, named.2]
        by_cases zero : quanta n = 0
        · rw [if_pos zero, BitVec.getLsbD_and, BitVec.getLsbD_not, bit]
          simp [zero]
        · rw [if_neg zero, BitVec.getLsbD_or, bit]
          simp [zero]
      · rw [if_neg named, ih, if_neg fun both => named (by simpa using both)]
    · rw [decide_eq_false fun at_ => same (congrArg Fin.val at_)] at bit
      have within : decide (i.val < n + 1) = decide (i.val < n) := decide_eq_decide.2 (by omega)
      rw [within, ← ih]
      split
      · split
        · rw [BitVec.getLsbD_and, BitVec.getLsbD_not, bit, decide_eq_true i.isLt]
          simp
        · rw [BitVec.getLsbD_or, bit, Bool.or_false]
      · rfl

theorem State.pfcIn_kept : let t := s.pfcIn p.val m.val l
    t = { s with cnt64 := t.cnt64, subports := t.subports } ∧ otherSubs s t p m ∧ ∀ i : Fin 8, (t.sub p.val m.val).paused.getLsbD i.val =
      if (field (s.regN (ethSub p.val m.val 8)) 0 8).testBit i.val && (be16 l 2).testBit i.val then decide (be16 l (4 + 2 * i.val) ≠ 0)
      else (s.sub p.val m.val).paused.getLsbD i.val := by
  have subs : (s.pfcIn p.val m.val l).subports = (s.setSub p.val m.val { s.sub p.val m.val with
      paused := (List.range 8).foldl (fun (v : BitVec 8) i =>
        if (field (s.regN (ethSub p.val m.val 8)) 0 8).testBit i ∧ (be16 l 2).testBit i then
          if be16 l (4 + 2 * i) = 0 then v &&& ~~~(1#8 <<< i) else v ||| (1#8 <<< i) else v) (s.sub p.val m.val).paused }).subports := rfl
  obtain ⟨own, others⟩ := State.sub_of_setSub subs
  refine ⟨rfl, others, fun i => ?_⟩
  rw [own]
  refine (pfc_bits _ _ (fun i => be16 l (4 + 2 * i)) _ 8 (Nat.le_refl 8) i).trans ?_
  rw [decide_eq_true i.isLt, Bool.true_and]

theorem State.classify_refused (refused : s.macAccept p.val m.val l = false) :
    s.classify p.val m.val l = s.addCnt (ethSub p.val m.val 0x60) 1 := by
  unfold State.classify
  dsimp only
  rw [if_pos (by rw [refused]; rfl)]

theorem State.classify_pfc (accepted : s.macAccept p.val m.val l = true) (type : (parseFrame l).etype = 0x8808)
    (opcode : be16 (l.drop (parseFrame l).off) 0 = 0x0101) :
    s.classify p.val m.val l = s.pfcIn p.val m.val (l.drop (parseFrame l).off) := by
  unfold State.classify
  dsimp only
  rw [if_neg (by rw [accepted]; exact Bool.false_ne_true), if_pos type]
  exact if_pos opcode

/-! ### Datagrams of a flow (R320, R321) -/

theorem State.classify_flow {ip : RxIp} {lip : Nat} {e : Nat × FlowWords} (accepted : s.macAccept p.val m.val l = true)
    (tag : (parseFrame l).svlan = false) (tags : (parseFrame l).tags ≤ 1)
    (is : (parseFrame l).etype = 0x0800 ∧ parseIp4 (l.drop (parseFrame l).off) = some ip ∨
      (parseFrame l).etype = 0x86DD ∧ parseIp6 (l.drop (parseFrame l).off) = ip)
    (local_ : s.lipMatch p.val ip = some lip) (udp : ip.proto = 17) (options : ip.options = false) (fragment : ip.fragment = false)
    (multi : ip.multi = false) (sum : udpOk ip = true) (event : be16 ip.l4 2 ≠ 319) (general : be16 ip.l4 2 ≠ 320)
    (dcp : be16 ip.l4 2 ≠ s.regN clsBase) (found : s.flows.find? (fun e => s.flowMatches lip (parseFrame l).vid ip e.2) = some e) :
    s.classify p.val m.val l = State.matched (BitVec.ofNat 18 e.1) ((ip.l4.take (be16 ip.l4 4)).drop 8)
      { s with flows := Sparse.set [] s.flows e.1 (e.2.set 9 (BitVec.ofNat 32 (flowWord e.2 9 + 1))) } := by
  have udp_ : s.classifyUdp p.val m.val lip (parseFrame l).vid ip l =
      State.matched (BitVec.ofNat 18 e.1) ((ip.l4.take (be16 ip.l4 4)).drop 8)
        { s with flows := Sparse.set [] s.flows e.1 (e.2.set 9 (BitVec.ofNat 32 (flowWord e.2 9 + 1))) } := by
    unfold State.classifyUdp
    dsimp only
    rw [sum, if_neg (by decide), if_neg (by rintro (no | no) <;> contradiction), if_neg dcp, found]
  have ip_ : s.classifyIp p.val m.val (parseFrame l).vid ip l = s.classifyUdp p.val m.val lip (parseFrame l).vid ip l := by
    unfold State.classifyIp
    rw [local_]
    dsimp only
    rw [udp, options, fragment, multi, if_neg (by split <;> decide), if_neg (by decide)]
  rw [← udp_, ← ip_]
  unfold State.classify
  dsimp only
  rw [if_neg (by rw [accepted]; exact Bool.false_ne_true)]
  rcases is with ⟨type, four⟩ | ⟨type, six⟩
  · rw [type, if_neg (by decide), if_neg (by rw [tag]; simp only [Bool.false_eq_true, false_or]; omega), if_neg (by decide),
      if_neg (by decide), if_pos rfl, four]
  · rw [type, if_neg (by decide), if_neg (by rw [tag]; simp only [Bool.false_eq_true, false_or]; omega), if_neg (by decide),
      if_neg (by decide), if_neg (by decide), if_pos rfl, six]

end

/-! ### The states of a received frame -/

section
variable {s t : State} {p : Fin 2} {m : Fin 4} {l : List Byte}

theorem State.addCnt_only {a n : Nat} : s.addCnt a n = { s with cnt64 := (s.addCnt a n).cnt64 } := rfl

/-- Of a state at most the counters of 64 bits and the number of free values used differ. -/
def CountsOnly (s t : State) : Prop := t = { s with cnt64 := t.cnt64, fresh := t.fresh }

theorem CountsOnly.addCnt (s : State) (a n : Nat) : CountsOnly s (s.addCnt a n) := rfl

theorem CountsOnly.spend (s : State) : CountsOnly s s.spend := rfl

theorem CountsOnly.trans {u : State} (f : CountsOnly s t) (g : CountsOnly t u) : CountsOnly s u := by
  unfold CountsOnly at f g ⊢
  rw [g, f]

theorem received_only (s : State) (p : Fin 2) (m : Fin 4) (l : List Byte) : CountsOnly s (received s p m l) :=
  ((CountsOnly.addCnt ..).trans (.addCnt ..)).trans (.spend _)

theorem CountsOnly.accept (only : CountsOnly s t) (p m : Nat) (l' : List Byte) : t.macAccept p m l' = s.macAccept p m l' := by
  rw [only]
  rfl

theorem CountsOnly.view (only : CountsOnly s t) : SameView s t := by
  rw [only]
  exact ⟨rfl, rfl, rfl, rfl, rfl, rfl, fun _ => rfl⟩

theorem CountsOnly.regs (only : CountsOnly s t) (a : Nat) : t.regN a = s.regN a := by
  unfold State.regN State.reg
  rw [only]

theorem CountsOnly.sub (only : CountsOnly s t) (p m : Nat) : t.sub p m = s.sub p m := by
  unfold State.sub
  rw [only]

theorem CountsOnly.desc (only : CountsOnly s t) (o : Nat) : t.ringDesc o = s.ringDesc o := by
  unfold State.ringDesc
  rw [only.regs, only.regs, only.regs]

theorem CountsOnly.spendSubs {z : State} (only : CountsOnly s z) (rest : t = { z with cnt64 := t.cnt64, subports := t.subports }) :
    t.spend = { s with cnt64 := t.spend.cnt64, fresh := t.spend.fresh, subports := t.spend.subports } := by
  show { t with fresh := t.fresh + 1 } = { s with cnt64 := t.cnt64, fresh := t.fresh + 1, subports := t.subports }
  have base (n : Sparse (BitVec 64)) (f : Nat) (b : Sparse SubPort) :
      ({ z with cnt64 := n, fresh := f, subports := b } : State) = { s with cnt64 := n, fresh := f, subports := b } := by rw [only]
  rw [← base]
  exact congrArg (fun u : State => { u with fresh := t.fresh + 1 }) rest

theorem CountsOnly.spendReg {z : State} (only : CountsOnly s z) (a n : Nat) :
    (z.countReg a n).spend = { s with cnt64 := z.cnt64, fresh := z.fresh + 1, regs := (z.countReg a n).regs } := by
  generalize is : z.countReg a n = t
  have rest : t = { z with regs := t.regs } := by rw [← is]; rfl
  have base (n : Sparse (BitVec 64)) (f : Nat) (b : Sparse Reg32) :
      ({ z with cnt64 := n, fresh := f, regs := b } : State) = { s with cnt64 := n, fresh := f, regs := b } := by rw [only]
  rw [← base]
  have fresh : t.fresh = z.fresh := by rw [rest]
  rw [← fresh]
  exact congrArg (fun u : State => { u with fresh := t.fresh + 1 }) rest

theorem CountsOnly.word64 {a : Nat} (only : CountsOnly s t) (plain : plainBytes s a 8) : t.word64 a = s.word64 a :=
  State.word64_congr plain only.view fun _ _ => by rw [only]

theorem delivered_of {z : State} {cls : Nat} (delivers : delivered z t cls p m l) (only : CountsOnly s z)
    (word : z.word64 (s.ringDesc 0x400) = s.word64 (s.ringDesc 0x400)) (plain : plainBytes t (s.ringDesc 0x400) 32) :
    delivered s t.spend cls p m l := by
  have desc := only.desc 0x400
  have mem : z.mem = s.mem := by rw [only]
  have clock : z.clock = s.clock := by rw [only]
  have same (i : Nat) (within : i + 8 ≤ 32) : t.spend.word64 (s.ringDesc 0x400 + i) = t.word64 (s.ringDesc 0x400 + i) :=
    (CountsOnly.spend t).word64 (plainBytes_part plain within)
  have same0 : t.spend.word64 (s.ringDesc 0x400) = t.word64 (s.ringDesc 0x400) := same 0 (by decide)
  unfold delivered at delivers ⊢
  dsimp only at delivers ⊢
  rw [desc, word, mem, clock, only.regs, only.regs, only.view.power] at delivers
  rw [same0, same 8 (by decide), same 16 (by decide), same 24 (by decide)]
  exact delivers

theorem frameClass_le {f : RxFrame} {cls : Nat} (is : frameClass f = some cls) : cls ≤ 8 := by
  unfold frameClass at is
  split at is
  · exact nomatch is
  · split at is
    · rw [← Option.some.inj is]; decide
    · split at is
      · rw [← Option.some.inj is]; decide
      · split at is <;> rw [← Option.some.inj is] <;> decide

theorem received_risen : risen s (received s p m l) (ethSub p.val m.val 0x40) 1 ∧
    risen s (received s p m l) (ethSub p.val m.val 0x48) (l.length + 4) := by
  refine ⟨(State.cnt_addEth (s := s.addCnt _ 1) ..).trans ((if_neg (by decide)).trans ((State.cnt_addEth ..).trans (if_pos rfl))),
    (State.cnt_addEth (s := s.addCnt _ 1) ..).trans ((if_pos rfl).trans ?_)⟩
  rw [State.cnt_addEth, if_neg (by decide)]

theorem received_risenToo (o : Nat) (other : o ≠ 0x40) (other' : o ≠ 0x48) (n : Nat) :
    risen s ((received s p m l).addCnt (ethSub p.val m.val o) n).spend (ethSub p.val m.val o) n := by
  refine (State.cnt_addEth (s := received s p m l) ..).trans ((if_pos rfl).trans ?_)
  have before : (received s p m l).cnt (ethSub p.val m.val o) = s.cnt (ethSub p.val m.val o) :=
    (State.cnt_addEth (s := s.addCnt _ 1) ..).trans ((if_neg other').trans ((State.cnt_addEth ..).trans (if_neg other)))
  rw [before]

end

/-- Settles O48: each class of frame takes its one way through the classifier. -/
theorem frameClasses : Obligations.FrameClasses := by
  intro p m l s up
  have runs (fcsOk : Bool) : exec (.frameReceive p m fcsOk l) s = .next (s.receive p.val m.val fcsOk l) :=
    congrArg Host.Outcome.next (if_pos up)
  refine ⟨fun fcsOk => ⟨_, runs fcsOk, fun full => ?_⟩, fun room => ⟨fun low high => ?_, fun bad => ?_, fun low high => ?_⟩⟩
  · rw [State.receive_full full]
    exact ⟨rfl, risen_addEth ..⟩
  · refine ⟨_, (runs false).trans (congrArg Host.Outcome.next (State.receive_fcs room low high)), ?_, risen_addEth ..⟩
    exact State.addCnt_only
  · refine ⟨_, (runs true).trans (congrArg Host.Outcome.next (State.receive_length room bad)), ?_, risen_addEth ..⟩
    exact State.addCnt_only
  · have good := (runs true).trans (congrArg Host.Outcome.next (State.receive_good room low high))
    rw [good]
    refine ⟨fun refused => ?_, fun accepted type opcode => ?_, fun cls accepted is => ⟨fun fits owned ring buffer => ?_, fun fits none_ => ?_,
      fun long => ?_⟩, fun ip lip e accepted tag tags type local_ udp options fragment multi sum event general dcp found => ?_⟩
    · rw [State.classify_refused (((received_only s p m l).accept ..).trans refused)]
      refine ⟨_, rfl, ((received_only s p m l).trans (.addCnt ..)).trans (.spend _), ?_, ?_, received_risenToo 0x60 (by decide) (by decide) 1⟩
      · exact (State.cnt_addEth (s := received s p m l) ..).trans ((if_neg (by decide)).trans received_risen.1)
      · exact (State.cnt_addEth (s := received s p m l) ..).trans ((if_neg (by decide)).trans received_risen.2)
    · have only := received_only s p m l
      rw [State.classify_pfc ((only.accept ..).trans accepted) type opcode]
      generalize received s p m l = z at only ⊢
      obtain ⟨rest, others, paused⟩ := State.pfcIn_kept (s := z) (p := p) (m := m) (l := l.drop (parseFrame l).off)
      rw [only.regs] at paused
      generalize z.pfcIn p.val m.val (l.drop (parseFrame l).off) = t at rest others paused ⊢
      have sub := only.sub
      refine ⟨t.spend, rfl, only.spendSubs rest, fun p' m' other => (others p' m' other).trans (sub ..), fun i => ?_⟩
      rw [← sub]
      exact paused i
    · have only := received_only s p m l
      rw [State.classify_class ((only.accept ..).trans accepted) is]
      have small : cls ≤ 8 := frameClass_le is
      have word := only.word64 (plainBytes_part (i := 0) ring (by decide))
      rw [Nat.add_zero] at word
      generalize received s p m l = z at only word ⊢
      have desc := only.desc 0x400
      have owned' : z.ringOwned 0x400 = true := by
        unfold State.ringOwned State.ringOn at owned ⊢
        rw [desc, word, only.regs]
        exact owned
      obtain ⟨delivers, ctxs, slots, view⟩ := State.toKeeper_delivers (s := z) (p := p) (m := m) (l := l) small fits owned'
        (by rw [desc]; exact only.view.plain ring) (by rw [desc, word]; exact only.view.plain buffer)
      have same : z.slots = s.slots := by rw [only]
      generalize z.toKeeper cls p.val m.val l = t at delivers ctxs slots view ⊢
      exact ⟨t.spend, rfl, delivered_of delivers only word ((only.view.trans view).plain ring), ctxs.trans only.view.ctxs, slots.trans same⟩
    · have only := received_only s p m l
      rw [State.classify_class ((only.accept ..).trans accepted) is]
      have off : (received s p m l).ringOwned 0x400 = false := by
        rcases none_ with ring | ⟨ring, owned⟩
        · unfold State.ringOn at ring
          unfold State.ringOwned State.ringOn
          rw [only.regs, ring]
          rfl
        · have word := only.word64 (plainBytes_part (i := 0) ring (by decide))
          rw [Nat.add_zero] at word
          unfold State.ringOwned State.ringOn at owned ⊢
          rw [only.desc, word, only.regs]
          exact owned
      have counts : (received s p m l).toKeeper cls p.val m.val l = (received s p m l).countReg (clsBase + 0x50C) 1 := by
        unfold State.toKeeper
        rw [if_neg (by omega), if_pos (by rw [off]; rfl)]
      rw [counts]
      refine ⟨_, rfl, only.spendReg _ _, (State.regN_countReg (s := received s p m l)).trans ?_⟩
      rw [only.regs]
    · have only := received_only s p m l
      rw [State.classify_class ((only.accept ..).trans accepted) is]
      have counts : (received s p m l).toKeeper cls p.val m.val l = (received s p m l).addCnt (ethSub p.val m.val 0x58) 1 := if_pos long
      rw [counts]
      exact ⟨_, rfl, (only.trans (.addCnt ..)).trans (.spend _), received_risenToo 0x58 (by decide) (by decide) 1⟩
    · have only := received_only s p m l
      have found' : (received s p m l).flows.find? (fun e => (received s p m l).flowMatches lip (parseFrame l).vid ip e.2) = some e := by
        rw [only]
        exact found
      rw [State.classify_flow ((only.accept ..).trans accepted) tag tags type (by rw [only]; exact local_) udp options fragment multi sum
        event general (by rw [only.regs]; exact dcp) found']
      refine ⟨fun kind => ?_, fun kind => ?_, fun kind => ?_⟩ <;> exact (congrArg Host.Outcome.next (if_pos kind)).symm

end Sys2Proof.Machine

/-! ## Client packets (R291, R306, R318) -/
namespace Sys2Proof.Machine
open Sys2Proof Sys2Proof.Claims

/-- Context 5 runs in slot 4. -/
def running5 : State :=
  { State.reset with
    ctxs := [(5, { Context.reset with state := .running, slot := 4 })]
    slots := [(4, { SlotSt.idle with ctx := some 5 })] }

/-- A REFRESH packet whose fields are all 0. -/
def refreshOfZeros : List Byte := 0x1A :: List.replicate 15 0

/-- Refutes O40: a packet's arrival takes the number of a free value, that of its timestamp, so the state differs in more than its queue. -/
theorem not_mailboxesAndClients : ¬ Obligations.MailboxesAndClients := by
  rintro ⟨-, packets, -⟩
  obtain ⟨admitted, -⟩ := packets 5 running5 refreshOfZeros (by decide)
  obtain ⟨-, passes⟩ := admitted 4 (by decide) (by decide)
  obtain ⟨-, -, refresh⟩ := passes (by decide)
  obtain ⟨t, ran, rest, -⟩ := refresh (by decide)
  have is : exec (.refresh 5 refreshOfZeros) running5 = .next (running5.matched 5 refreshOfZeros).spend := rfl
  have same : (running5.matched 5 refreshOfZeros).spend = t := Host.Outcome.next.inj (is.symm.trans ran)
  have fresh : t.fresh = running5.fresh := by rw [rest]
  rw [← same] at fresh
  exact absurd fresh (by decide +kernel)

end Sys2Proof.Machine

/-! ## Packets leave (R269, R293, R295, R302, R314, R324 to R328)

A packet is put on the wire or counted; what follows it on its slot and its session changes neither. -/
namespace Sys2Proof.Machine
open Sys2Proof Sys2Proof.Claims

section
variable {s t u : State} {f : FlowWords} {pay : List Byte} {k n a : Nat} {c : CtxNo}

/-! ### What a packet's own slot and session keep -/

/-- The wire and the queue manager's registers stand. -/
structure Trails (s t : State) : Prop where
  wire : t.wire = s.wire
  reg : ∀ a, qmBase ≤ a → a < strBase → t.regN a = s.regN a

theorem Trails.refl (s : State) : Trails s s := ⟨rfl, fun _ _ _ => rfl⟩

theorem Trails.trans (f : Trails s t) (g : Trails t u) : Trails s u :=
  ⟨g.wire.trans f.wire, fun a low high => (g.reg a low high).trans (f.reg a low high)⟩

theorem Trails.modSlot (s : State) (k : Nat) (g : SlotSt → SlotSt) : Trails s (s.modSlot k g) := ⟨rfl, fun _ _ _ => rfl⟩

theorem Trails.setSlot (s : State) (k : Nat) (x : SlotSt) : Trails s (s.setSlot k x) := ⟨rfl, fun _ _ _ => rfl⟩

theorem Trails.modSes (s : State) (c : CtxNo) (g : Session → Session) : Trails s (s.modSes c g) := ⟨rfl, fun _ _ _ => rfl⟩

theorem Trails.setReg (s : State) (v : Nat) (above : strBase ≤ a) : Trails s (s.setReg a v) := by
  refine ⟨rfl, fun b low high => State.regN_setReg_of_ne ?_⟩
  have base : 0x008001400800 ≤ qmBase := by decide
  have order : qmBase ≤ strBase := by decide
  rw [canonReg_of_ge (by omega), canonReg_of_ge (by omega)]
  omega

theorem strBase_le_strAddr (k o : Nat) : strBase ≤ strAddr k o := Nat.le_trans (Nat.le_add_right ..) (Nat.le_add_right ..)

theorem strBase_le_schAddr (k o : Nat) : strBase ≤ schAddr k o :=
  Nat.le_trans (by decide : strBase ≤ schBase) (Nat.le_trans (Nat.le_add_right ..) (Nat.le_add_right ..))

theorem Trails.countPkt (s : State) (k o : Nat) : Trails s (s.countPkt k o) := .setReg s _ (strBase_le_strAddr ..)

theorem Trails.useVseq (s : State) (k : Nat) : Trails s (s.useVseq k) := (Trails.modSes ..).trans (.countPkt ..)

theorem Trails.publish (s : State) (k o : Nat) (v : Option Nat) : Trails s (s.publish (strAddr k o) v) := by
  cases v with
  | none => exact .refl s
  | some n => exact .setReg s n (strBase_le_strAddr ..)

theorem State.slot_modSlot_same (g : SlotSt → SlotSt) : (s.modSlot k g).slot k = g (s.slot k) := (Sparse.get_set ..).trans (if_pos rfl)

/-- What a slot's video queue and slips, and the wire, keep. -/
structure VideoKept (k : Nat) (s t : State) : Prop where
  trails : Trails s t
  queue : (t.slot k).videoQ = (s.slot k).videoQ

theorem VideoKept.refl (s : State) : VideoKept k s s := ⟨.refl s, rfl⟩

theorem VideoKept.trans (f : VideoKept k s t) (g : VideoKept k t u) : VideoKept k s u :=
  ⟨f.trails.trans g.trails, g.queue.trans f.queue⟩

theorem VideoKept.setSlot {x : SlotSt} (same : x.videoQ = (s.slot k).videoQ) : VideoKept k s (s.setSlot k x) :=
  ⟨.setSlot .., (congrArg SlotSt.videoQ ((Sparse.get_set ..).trans (if_pos rfl))).trans same⟩

theorem VideoKept.of_slots (trails : Trails s t) (slots : t.slots = s.slots) : VideoKept k s t := by
  refine ⟨trails, ?_⟩
  unfold State.slot
  rw [slots]

theorem State.publish_slots (a : Nat) (v : Option Nat) : (s.publish a v).slots = s.slots := by
  cases v <;> rfl

theorem State.bandDone_kept (f b : Nat) (last : Bool) (lead : Option Int) : VideoKept k s (s.bandDone k f b last lead) := by
  unfold State.bandDone
  dsimp only
  split
  · refine VideoKept.trans (VideoKept.setSlot (by exact rfl)) (VideoKept.of_slots
      (Trails.trans (Trails.trans (Trails.publish ..) (.publish ..)) (Trails.setReg _ _ (strBase_le_schAddr ..))) ?_)
    show (State.publish _ _ (State.publish _ _ _)).slots = _
    rw [State.publish_slots, State.publish_slots]
  · exact VideoKept.setSlot rfl

theorem State.passDropped_kept (n : Nat) : ∀ s : State, VideoKept k s (s.passDropped k n) := by
  induction n with
  | zero => exact fun s => .refl s
  | succ n ih =>
    intro s
    unfold State.passDropped
    dsimp only
    split
    · exact VideoKept.trans (VideoKept.setSlot (by exact rfl)) (VideoKept.trans (State.bandDone_kept ..) (ih _))
    · exact .refl s

theorem State.bandEnd_kept (d : BandDesc) : VideoKept k s (s.bandEnd k d) :=
  (State.bandDone_kept ..).trans (State.passDropped_kept _ _)

/-! ### A packet put on the wire, or counted (R314, R327) -/

theorem discarded.trails (counted : discarded s t f) (trails : Trails t u) : discarded s u f := by
  obtain ⟨wire, count⟩ := counted
  refine ⟨trails.wire.trans wire, Eq.trans (trails.reg _ (Nat.le_add_right ..) ?_) count⟩
  split <;> decide

/-- A packet that may leave, or may not be delivered, is done with at once. -/
structure Emitted (s : State) (f : FlowWords) (pay : List Byte) (t : State) : Prop where
  is : s.emit f pay = some t
  slots : t.slots = s.slots
  ctxs : t.ctxs = s.ctxs
  sent : s.undeliverable f = false → sent s f pay t.wire
  counted : s.undeliverable f = true → discarded s t f

theorem State.emit_emitted (may : Claims.deliverable s f pay ∨ s.undeliverable f = true) : ∃ t, Emitted s f pay t := by
  cases not_ : s.undeliverable f with
  | true =>
    refine ⟨s.countDiscard f, ?_, rfl, rfl, fun no => ?_, fun _ => ⟨rfl, State.regN_countReg⟩⟩
    · unfold State.emit
      rw [if_pos not_]
    · rw [not_] at no
      exact nomatch no
  | false =>
    obtain ⟨-, fits⟩ := may.resolve_right (by rw [not_]; exact Bool.false_ne_true)
    refine ⟨s.putOnWire (flowPort f) (flowSub f) (s.sessionFrame f pay), ?_, rfl, rfl, fun _ => rfl, fun no => ?_⟩
    · unfold State.emit
      rw [if_neg (by rw [not_]; exact Bool.false_ne_true)]
      exact if_pos fits
    · rw [not_] at no
      exact nomatch no

theorem State.emit_bad (is : s.emit f pay = some t) : t.bad = s.bad := by
  unfold State.emit at is
  split at is
  · rw [← Option.some.inj is]
    rfl
  · dsimp only at is
    split at is
    · rw [← Option.some.inj is]
      rfl
    · exact nomatch is

theorem Emitted.slot (emitted : Emitted s f pay t) (k : Nat) : t.slot k = s.slot k := by
  unfold State.slot
  rw [emitted.slots]

/-- What has left or been counted stays so while only the packet's slot and session go on. -/
theorem Emitted.trails (emitted : Emitted s f pay t) (trails : Trails t u) :
    (s.undeliverable f = false → Claims.sent s f pay u.wire) ∧ (s.undeliverable f = true → discarded s u f) := by
  refine ⟨fun may => ?_, fun not_ => discarded.trails (emitted.counted not_) trails⟩
  rw [trails.wire]
  exact emitted.sent may

/-! ### Audio (R269, R324) -/

theorem State.enterAudio_kept (w : AudioDesc) : ∃ late, Trails s (s.enterAudio k w) ∧
    (s.enterAudio k w).slot k = { s.slot k with audioQ := (s.slot k).audioQ ++ [{ w with late := late }] } := by
  refine ⟨decide (w.rel < s.clock.time + s.guardOf k), ?_, ?_⟩
  · unfold State.enterAudio
    dsimp only
    split
    · exact (Trails.modSlot ..).trans (.modSes ..)
    · exact .modSlot ..
  · unfold State.enterAudio
    dsimp only
    split <;> exact (Sparse.get_set ..).trans (if_pos rfl)

theorem State.popAudio_kept (q : List AudioDesc) : ∃ r, Trails s (s.popAudio k q) ∧ ((s.popAudio k q).slot k).audioQ = q ++ r ∧
    ((s.slot k).audioWait = [] → r = []) ∧
    ∀ w l, (s.slot k).audioWait = w :: l → r.length = 1 ∧ ((s.popAudio k q).slot k).audioWait = l := by
  unfold State.popAudio
  cases waits : (s.slot k).audioWait with
  | nil =>
    refine ⟨[], .modSlot .., ?_, fun _ => rfl, fun _ _ no => nomatch no⟩
    rw [List.append_nil]
    exact congrArg SlotSt.audioQ ((Sparse.get_set ..).trans (if_pos rfl))
  | cons w l =>
    dsimp only
    obtain ⟨late, trails, slots⟩ := State.enterAudio_kept (s := s.modSlot k (fun x => { x with audioQ := q, audioWait := l })) (k := k) w
    have slot : (s.modSlot k (fun x => { x with audioQ := q, audioWait := l })).slot k = { s.slot k with audioQ := q, audioWait := l } :=
      (Sparse.get_set ..).trans (if_pos rfl)
    rw [slot] at slots
    refine ⟨[{ w with late := late }], (Trails.modSlot ..).trans trails, ?_, fun no => (List.cons_ne_nil w l no).elim, fun w' l' is => ?_⟩
    · rw [slots]
    · rw [slots, (List.cons.inj is).2]
      exact ⟨rfl, rfl⟩

theorem State.sendAudio_kept {d : AudioDesc} {q : List AudioDesc} (head : (s.slot k).audioQ = d :: q) (own : d.returned = none)
    (emitted : Emitted s d.flow (s.audioPacket k d (s.aseqOf k)) t) :
    ∃ r, Trails t (s.sendAudio k) ∧ ((s.sendAudio k).slot k).audioQ = q ++ r ∧ ((s.slot k).audioWait = [] → r = []) ∧
      ∀ w l, (s.slot k).audioWait = w :: l → r.length = 1 ∧ ((s.sendAudio k).slot k).audioWait = l := by
  have is : s.sendAudio k = ((t.popAudio k q).modSes (s.slotCtx k) (fun x => { x with aseq := x.aseq + 1 })).countPkt k 0x3C := by
    unfold State.sendAudio
    rw [head]
    dsimp only
    rw [own, emitted.is]
  obtain ⟨r, trails, queue, none_, waits⟩ := State.popAudio_kept (s := t) (k := k) q
  rw [emitted.slot] at none_ waits
  rw [is]
  exact ⟨r, (trails.trans (.modSes ..)).trans (.countPkt ..), queue, none_, waits⟩

/-! ### Markers and bands (R293, R295) -/

theorem State.sendMarker_kept {e : Slip} (next : (s.slot k).nextMarker = some e)
    (emitted : Emitted s ((s.slot k).flowAt e.frame e.band) (s.bandPacket k (s.markerDesc k e) 0 (s.vseqOf k)) t) :
    Trails t (s.sendMarker k) ∧
      ((s.sendMarker k).slot k).slips = (s.slot k).slips.map (fun y => if y = e then { y with markerSent := true } else y) := by
  have is : s.sendMarker k = (t.useVseq k).modSlot k (fun x => { x with slips := x.slips.map (fun y =>
      if y = e then { y with markerSent := true } else y) }) := by
    unfold State.sendMarker
    rw [next]
    dsimp only
    rw [emitted.is]
  rw [is]
  refine ⟨(Trails.useVseq ..).trans (.modSlot ..), ?_⟩
  have slot := State.slot_modSlot_same (s := t.useVseq k) (k := k) (fun x => { x with slips := x.slips.map (fun y =>
    if y = e then { y with markerSent := true } else y) })
  rw [slot]
  show ((t.slot k).slips.map _) = _
  rw [emitted.slot]

/-- The jitter of a band's first fragment is noted. -/
def State.noteJitter (k : Nat) (d : BandDesc) (jit : Nat) (not_ : Bool) (s : State) : State :=
  if d.sentFragments = 0 ∧ !not_ then
    (s.modSlot k (fun x => { x with jitNow := some jit })).setReg (strAddr k 0x18) (jit / 65536)
  else s

theorem State.noteJitter_kept (d : BandDesc) (jit : Nat) (not_ : Bool) : VideoKept k s (s.noteJitter k d jit not_) := by
  unfold State.noteJitter
  split
  · exact VideoKept.trans (VideoKept.setSlot (by exact rfl)) (VideoKept.of_slots (Trails.setReg _ _ (strBase_le_strAddr ..)) (by exact rfl))
  · exact .refl s

/-- A fragment leaves and its band with its last. -/
theorem State.sendFragment_kept {d : BandDesc} {q : List BandDesc} (head : (s.slot k).videoQ = d :: q) (own : d.returned = none)
    (emitted : Emitted s d.flow (s.bandPacket k d d.sentFragments (s.vseqOf k)) t) :
    Trails t (s.sendFragment k) ∧
      (d.sentFragments + 1 = d.fragments.length → ((s.sendFragment k).slot k).videoQ = q) := by
  have is : s.sendFragment k =
      let s3 := (t.noteJitter k d (s.stamp - s.releaseAt k d.frame d.band) (s.undeliverable d.flow)).useVseq k
      if d.sentFragments + 1 < d.fragments.length then
        s3.modSlot k (fun x => { x with videoQ := { d with sentFragments := d.sentFragments + 1 } :: q })
      else (s3.modSlot k (fun x => { x with videoQ := q, slips := x.slips.filter (fun e =>
        !(e.frame == d.frame && e.band == d.band && e.markerSent)) })).bandEnd k d := by
    unfold State.sendFragment
    rw [head]
    dsimp only
    rw [own]
    dsimp only
    rw [emitted.is]
    rfl
  have noted := State.noteJitter_kept (s := t) (k := k) d (s.stamp - s.releaseAt k d.frame d.band) (s.undeliverable d.flow)
  rw [is]
  dsimp only
  generalize t.noteJitter k d (s.stamp - s.releaseAt k d.frame d.band) (s.undeliverable d.flow) = u at noted ⊢
  have before := noted.trails.trans (.useVseq u k)
  split
  · next more => exact ⟨before.trans (.modSlot ..), fun last => absurd last (by omega)⟩
  · have ends := State.bandEnd_kept (s := (u.useVseq k).modSlot k (fun x => { x with videoQ := q, slips := x.slips.filter (fun e =>
        !(e.frame == d.frame && e.band == d.band && e.markerSent)) })) (k := k) d
    refine ⟨(before.trans (.modSlot ..)).trans ends.trails, fun _ => ends.queue.trans ?_⟩
    exact congrArg SlotSt.videoQ ((Sparse.get_set ..).trans (if_pos rfl))

/-- A band goes on with what follows on the wire, and is the one fragment where it ends with it and the next is another. -/
theorem State.sendBand_first {d : BandDesc} {q : List BandDesc} (head : (s.slot k).videoQ = d :: q) (goes : s.goes k (.band k) = true)
    (n : Nat) :
    (∃ l, (s.sendBand k (n + 1)).wire = l ++ (s.sendFragment k).wire) ∧
      (((s.sendFragment k).slot k).videoQ = q → (∀ e ∈ q.head?, (e.frame, e.band) ≠ (d.frame, d.band)) →
        s.sendBand k (n + 1) = s.sendFragment k) := by
  rw [State.sendBand, if_pos goes, head]
  dsimp only [List.head?_cons]
  refine ⟨?_, fun rest other => ?_⟩
  · have more : Keeps (s.sendFragment k) ((s.sendFragment k).sendBand k n) := State.sendBand_keeps (.refl _)
    obtain ⟨l, is⟩ := more.wire
    split
    · split
      · exact ⟨l, is.symm⟩
      · exact ⟨[], rfl⟩
    · exact ⟨[], rfl⟩
  · rw [rest]
    cases q with
    | nil => rfl
    | cons e q =>
      dsimp only [List.head?_cons]
      rw [if_neg]
      rintro ⟨frame, band, -⟩
      exact other e rfl (Prod.ext frame band)

end

/-- Settles O35: what leaves goes through `State.emit`; the rest of each send keeps the wire and the counts. -/
theorem packetsLeave : Obligations.PacketsLeave := by
  intro c s k held
  refine ⟨fun d q head own goes may => ?_, fun d q head due not_ => ?_, fun e next goes => ?_, fun d q head own goes => ?_,
    fun p m e d q chosen item head good may => ?_⟩
  · obtain ⟨t, emitted⟩ := State.emit_emitted may
    obtain ⟨r, trails, queue, none_, waits⟩ := State.sendAudio_kept head own emitted
    have is : exec (.audioPacketRelease c) s = .next (s.sendAudio k) := by
      refine congrArg Host.Outcome.next ?_
      rw [held]
      exact if_pos goes
    obtain ⟨sent_, counted⟩ := emitted.trails trails
    exact ⟨_, r, is, queue, none_, waits, sent_, counted⟩
  · unfold State.goes
    rw [Bool.or_eq_true]
    refine .inr (List.any_eq_true.2 ⟨{ item := .audio k, at' := d.rel, rank := 0, slot := k, prio := flowPrio d.flow, begun := false },
      ?_, ?_⟩)
    · unfold State.slotCands
      dsimp only
      rw [head]
      simp [due]
    · have flow : s.itemFlow (.audio k) = d.flow := by
        show ((s.slot k).audioQ.head?.map (·.flow)).getD [] = _
        rw [head]
        rfl
      rw [flow, not_]
      simp
  · intro flow pay may
    obtain ⟨t, emitted⟩ := State.emit_emitted may
    obtain ⟨trails, slips⟩ := State.sendMarker_kept next emitted
    have is : exec (.markerSend c) s = .next (s.sendMarker k) := by
      refine congrArg Host.Outcome.next ?_
      rw [held]
      exact if_pos goes
    obtain ⟨sent_, counted⟩ := emitted.trails trails
    exact ⟨_, is, sent_, counted, slips⟩
  · have is : exec (if d.late then .lateBandSend c else .bandRelease c) s = .next (s.sendBand k 256) := by
      have late : s.headLate k = some d.late := by unfold State.headLate; rw [head]; rfl
      cases which : d.late with
      | true =>
        refine congrArg Host.Outcome.next ?_
        rw [held]
        exact if_pos (late.trans (congrArg some which))
      | false =>
        refine congrArg Host.Outcome.next ?_
        rw [held]
        exact if_pos (late.trans (congrArg some which))
    intro pay
    obtain ⟨⟨l, wire⟩, alone⟩ := State.sendBand_first head goes 255
    rw [is]
    refine ⟨fun may => ?_, fun not_ last other => ?_⟩
    · obtain ⟨t, emitted⟩ := State.emit_emitted (.inl may)
      obtain ⟨trails, ends⟩ := State.sendFragment_kept head own emitted
      refine ⟨_, l, _, rfl, (emitted.trails trails).1 may.1, wire, fun last other => ?_⟩
      have one := alone (ends last) other
      rw [one] at wire ⊢
      exact ⟨List.self_eq_append_left.1 wire, ends last⟩
    · obtain ⟨t, emitted⟩ := State.emit_emitted (f := d.flow) (pay := pay) (.inr not_)
      obtain ⟨trails, ends⟩ := State.sendFragment_kept head own emitted
      rw [alone (ends last) other]
      exact ⟨_, rfl, (emitted.trails trails).2 not_, ends last⟩
  · obtain ⟨t, emitted⟩ := State.emit_emitted (.inl may)
    have sound : t.bad = [] := (State.emit_bad emitted.is).trans good
    have is : exec (.packetDequeue p m) s = .next (t.modSlot k (fun x => { x with controlQ := q })) := by
      refine congrArg Host.Outcome.next ?_
      rw [chosen]
      dsimp only
      rw [item]
      show s.sendControl k = _
      unfold State.sendControl
      rw [head]
      dsimp only
      rw [emitted.is]
      dsimp only
      rw [State.agentRead_good sound]
    refine ⟨_, is, emitted.sent may.1, ?_, emitted.ctxs⟩
    rw [State.slot_modSlot_same, emitted.slot]

end Sys2Proof.Machine

/-! ## The sound unit (R250 to R252, R257, R261, R262, R268, R270) -/
namespace Sys2Proof.Machine
open Sys2Proof Sys2Proof.Claims

/-! ### What the mixing of a sample keeps -/

/-- The samples due and counted, the processor, the place in the frame and the send ring's length stand. -/
structure Mixes (x y : Session) : Prop where
  due : y.snd.due = x.snd.due
  samples : y.snd.samples = x.snd.samples
  cpu : y.cpu = x.cpu
  vcyc : y.vcyc = x.vcyc
  ring : y.ioN 0xFAC6 = x.ioN 0xFAC6

section
variable {x y z : Session} {a b n v : Nat} {rd : Bool → Nat → Word}

theorem Mixes.refl (x : Session) : Mixes x x := ⟨rfl, rfl, rfl, rfl, rfl⟩

theorem Mixes.trans (f : Mixes x y) (g : Mixes y z) : Mixes x z :=
  ⟨g.due.trans f.due, g.samples.trans f.samples, g.cpu.trans f.cpu, g.vcyc.trans f.vcyc, g.ring.trans f.ring⟩

theorem Mixes.setIo (x : Session) (v : Nat) (other : a ≠ 0xFAC6) : Mixes x (x.setIo a v) :=
  ⟨rfl, rfl, rfl, rfl, Session.ioN_setIo.trans (if_neg other.symm)⟩

theorem Mixes.foldl {α : Type} {f : Session → α → Session} (each : ∀ x e, Mixes x (f x e)) : ∀ (l : List α) (x : Session),
    Mixes x (l.foldl f x)
  | [], x => .refl x
  | e :: l, x => (each x e).trans (Mixes.foldl each l (f x e))

theorem Mixes.setSnd (x : Session) {d : Sound} (due : d.due = x.snd.due) (samples : d.samples = x.snd.samples) :
    Mixes x { x with snd := d } := ⟨due, samples, rfl, rfl, rfl⟩

theorem Session.applyKey_mixes (x : Session) (v : Nat) (on : Bool) : Mixes x (x.applyKey v on) := by
  unfold Session.applyKey
  exact .setSnd x rfl rfl

/-- The key stores that wait on one voice. -/
def Session.applyVoiceKeys (x : Session) (v : Nat) : Session :=
  let y := (x.snd.voice v).keys.foldl (fun (x : Session) on => x.applyKey v on) x
  { y with snd := y.snd.setVoice v { y.snd.voice v with keys := [] } }

theorem Session.applyVoiceKeys_mixes (x : Session) (v : Nat) : Mixes x (x.applyVoiceKeys v) := by
  have keys := Mixes.foldl (fun y on => Session.applyKey_mixes y v on) (x.snd.voice v).keys x
  unfold Session.applyVoiceKeys
  exact keys.trans (.setSnd _ rfl rfl)

theorem Session.applyKeys_mixes (x : Session) : Mixes x x.applyKeys :=
  Mixes.foldl Session.applyVoiceKeys_mixes (List.range x.voiceCount) x

theorem Session.envSteps_mixes (x : Session) : Mixes x x.envSteps := ⟨rfl, rfl, rfl, rfl, rfl⟩

theorem Session.mixEvent_mixes (x : Session) (b : Nat) : Mixes x (x.mixEvent b) := by
  unfold Session.mixEvent
  have marked : Mixes x (x.orIo 0xFAD2 (2 ^ b)) := .setIo x _ (by decide)
  dsimp only
  split
  · exact marked.trans ⟨rfl, rfl, rfl, rfl, rfl⟩
  · exact marked

theorem Session.voiceEvent_mixes (x : Session) (v : Nat) : Mixes x (x.voiceEvent v) := by
  unfold Session.voiceEvent
  have marked : Mixes x (x.orIo (0xFAD0 + v / 16) (2 ^ (v % 16))) := .setIo x _ (by omega)
  dsimp only
  split
  · exact marked.trans ⟨rfl, rfl, rfl, rfl, rfl⟩
  · exact marked

theorem Session.scaleBus_mixes (x : Session) (b : Nat) : Mixes x (x.scaleBus b) := by
  unfold Session.scaleBus
  dsimp only
  split
  · exact .refl x
  · exact ⟨rfl, rfl, rfl, rfl, rfl⟩

theorem Session.stepRamps_mixes (x : Session) : Mixes x x.stepRamps := .setSnd x rfl rfl

theorem Session.stepScales_mixes (x : Session) : Mixes x x.stepScales := by
  unfold Session.stepScales
  exact ((((x.scaleBus_mixes 0).trans (Session.scaleBus_mixes _ 1)).trans (Session.scaleBus_mixes _ 2)).trans
    (Session.scaleBus_mixes _ 3)).trans (Session.stepRamps_mixes _)

theorem Session.auxStep_mixes (x : Session) (k : Nat) : Mixes x (x.auxStep k) := by
  unfold Session.auxStep
  split
  · exact .setIo x _ (by omega)
  · exact .refl x

theorem Session.endRamps_mixes (x : Session) : Mixes x x.endRamps := ⟨rfl, rfl, rfl, rfl, rfl⟩

/-- One voice plays. -/
def Session.playVoice (rd : Bool → Nat → Word) (acc : Session × List (Nat × Int)) (v : Nat) : Session × List (Nat × Int) :=
  let y := acc.1
  let vo := y.snd.voice v
  let ctrl := y.voiceReg v 0
  let r := vo.play (rd vo.bank) (y.voiceReg v 4) (ctrl.testBit 8)
  let y1 := { y with snd := y.snd.setVoice v r.1 }
  let y2 := if r.2.2.1 && ctrl.testBit 5 then y1.voiceEvent v else y1
  let y3 := if r.2.2.2 && ctrl.testBit 4 then y2.voiceEvent v else y2
  (y3, acc.2 ++ [(v, r.2.1)])

theorem Session.playVoice_mixes (rd : Bool → Nat → Word) (acc : Session × List (Nat × Int)) (v : Nat) :
    Mixes acc.1 (Session.playVoice rd acc v).1 := by
  have event (y : Session) (b : Bool) : Mixes y (if b then y.voiceEvent v else y) := by
    split
    · exact y.voiceEvent_mixes v
    · exact .refl y
  unfold Session.playVoice
  dsimp only
  generalize Voice.play _ _ _ _ = r
  exact ((Mixes.setSnd acc.1 (d := acc.1.snd.setVoice v r.1) rfl rfl).trans (event _ _)).trans (event _ _)

theorem Session.playVoices_mixes (rd : Bool → Nat → Word) (x : Session) : Mixes x (x.playVoices rd).1 := by
  have all : ∀ (l : List Nat) (acc : Session × List (Nat × Int)), Mixes acc.1 (l.foldl (Session.playVoice rd) acc).1 := by
    intro l
    induction l with
    | nil => exact fun acc => .refl _
    | cons v l ih => exact fun acc => (Session.playVoice_mixes rd acc v).trans (ih _)
  exact all (List.range x.voiceCount) (x, [])

theorem Session.mixFull_mixes (rd : Bool → Nat → Word) (x : Session) : Mixes x (x.mixFull rd).ses := by
  unfold Session.mixFull
  dsimp only
  have played := (x.stepScales_mixes.trans (Session.playVoices_mixes rd _)).trans
    (((Session.auxStep_mixes _ 0).trans (Session.auxStep_mixes _ 1)).trans (Session.endRamps_mixes _))
  split
  · exact played.trans (Session.mixEvent_mixes _ 2)
  · exact played

theorem Session.enterSilent_mixes (x : Session) : Mixes x x.enterSilent := by
  unfold Session.enterSilent
  refine Mixes.trans ?_ (Session.mixEvent_mixes _ 1)
  exact ⟨rfl, rfl, rfl, rfl, rfl⟩

theorem Session.silenceTest_mixes (l r a b : Int) (x : Session) : Mixes x (x.silenceTest l r a b) := by
  unfold Session.silenceTest
  dsimp only
  split
  · split
    · refine Mixes.trans ?_ (Session.enterSilent_mixes _)
      exact ⟨rfl, rfl, rfl, rfl, rfl⟩
    · exact ⟨rfl, rfl, rfl, rfl, rfl⟩
  · split
    · refine Mixes.trans ?_ (Session.enterSilent_mixes _)
      exact ⟨rfl, rfl, rfl, rfl, rfl⟩
    · exact ⟨rfl, rfl, rfl, rfl, rfl⟩

theorem Session.mix_mixes (rd : Bool → Nat → Word) (x : Session) : Mixes x (x.mix rd).ses := by
  unfold Session.mix
  split
  · exact (((((x.applyKeys_mixes.trans (Session.envSteps_mixes _)).trans (Session.stepScales_mixes _)).trans
      (Session.auxStep_mixes _ 0)).trans (Session.auxStep_mixes _ 1)).trans (Session.endRamps_mixes _)).trans
      (Session.silenceTest_mixes 0 0 0 0 _)
  · dsimp only
    have woken : Mixes x (if x.snd.silent then { x with snd := { x.snd with silent := false } }.mixEvent 0 else x) := by
      split
      · refine Mixes.trans ?_ (Session.mixEvent_mixes _ 0)
        exact ⟨rfl, rfl, rfl, rfl, rfl⟩
      · exact .refl x
    exact (((woken.trans (Session.applyKeys_mixes _)).trans (Session.envSteps_mixes _)).trans (Session.mixFull_mixes rd _)).trans
      (Session.silenceTest_mixes ..)

end

/-! ### A sample on the machine -/

section
variable {s t u : State} {c : CtxNo} {x y : Session} {d : Nat} {k : Nat}

/-- After a sample: memory stands, and the session is the one sample further. -/
structure Mixed1 (c : CtxNo) (x : Session) (m : List Host.Cell) (t : State) : Prop where
  mem : t.mem = m
  ses : ∃ y, t.ses c = some y ∧ y.snd.due = x.snd.due.tail ∧ y.snd.samples = x.snd.samples + 1 ∧ y.cpu = x.cpu ∧ y.vcyc = x.vcyc

/-- A change of sessions that keeps what a sample is. -/
theorem Mixed1.modSes {m : List Host.Cell} (mixed : Mixed1 c x m s) (c' : CtxNo) {f : Session → Session} (keeps : ∀ y, Mixes y (f y)) :
    Mixed1 c x m (s.modSes c' f) := by
  obtain ⟨mem, y, is, due, samples, cpu, vcyc⟩ := mixed
  refine ⟨mem, ?_⟩
  rw [State.ses_modSes]
  split
  · next same =>
    refine ⟨f y, ?_, (keeps y).due.trans due, (keeps y).samples.trans samples, (keeps y).cpu.trans cpu, (keeps y).vcyc.trans vcyc⟩
    rw [← same, is]
    rfl
  · exact ⟨y, is, due, samples, cpu, vcyc⟩

theorem Mixed1.setSlot {m : List Host.Cell} (mixed : Mixed1 c x m s) (k : Nat) (z : SlotSt) : Mixed1 c x m (s.setSlot k z) :=
  ⟨mixed.mem, mixed.ses⟩

theorem Session.countIo_mixes (x : Session) : Mixes x (x.countIo 0xFAD5 1) := .setIo x _ (by decide)

theorem State.enterAudio_mixed {m : List Host.Cell} (mixed : Mixed1 c x m s) (k : Nat) (w : AudioDesc) :
    Mixed1 c x m (s.enterAudio k w) := by
  unfold State.enterAudio
  dsimp only
  split
  · exact (mixed.setSlot k _).modSes _ Session.countIo_mixes
  · exact mixed.setSlot k _

theorem State.queuePacket_mixed {m : List Host.Cell} (mixed : Mixed1 c x m s) (cycle : Nat) : Mixed1 c x m (s.queuePacket c cycle) := by
  unfold State.queuePacket
  split
  · next k z held is =>
    dsimp only
    have emptied : Mixed1 c x m (s.modSes c (fun _ => { z with snd := { z.snd with packet := [], packetSilent := false } })) := by
      obtain ⟨mem, y, is', due, samples, cpu, vcyc⟩ := mixed
      have same : y = z := Option.some.inj (is'.symm.trans is)
      subst same
      refine ⟨mem, { y with snd := { y.snd with packet := [], packetSilent := false } }, ?_, due, samples, cpu, vcyc⟩
      rw [State.ses_modSes, if_pos rfl, is]
      rfl
    generalize s.modSes c (fun _ => { z with snd := { z.snd with packet := [], packetSilent := false } }) = t at emptied ⊢
    split
    · exact emptied
    · split
      · unfold State.tapAudio
        dsimp only
        refine Mixed1.modSes (Mixed1.setSlot ?_ _ _) _ fun y => ⟨rfl, rfl, rfl, rfl, rfl⟩
        split
        · exact emptied.modSes _ Session.countIo_mixes
        · exact emptied
      · split
        · exact emptied.setSlot _ _
        · exact State.enterAudio_mixed emptied _ _
  · exact mixed

theorem State.mixNow_mixed (is : s.ses c = some x) (none_ : x.ioN 0xFAC6 < 2) (d : Nat) : Mixed1 c x s.mem (s.mixNow c d) := by
  unfold State.mixNow
  rw [is]
  dsimp only
  have mixes := Session.mix_mixes (s.sampleWord c d) { x with snd := { x.snd with due := x.snd.due.tail } }
  generalize Session.mix (s.sampleWord c d) { x with snd := { x.snd with due := x.snd.due.tail } } = m at mixes ⊢
  obtain ⟨due, samples, cpu, vcyc, ring⟩ := mixes
  generalize silent : (x.snd.silent && !x.wakes (s.sampleWord c d)) = b
  have word : (m.ses.countSample b m.l m.r).ioN 0xFAC6 = x.ioN 0xFAC6 := ring
  have counted : Mixed1 c x s.mem (s.modSes c (fun _ => m.ses.countSample b m.l m.r)) := by
    refine ⟨rfl, m.ses.countSample b m.l m.r, ?_, due, ?_, cpu, vcyc⟩
    · rw [State.ses_modSes, if_pos rfl, is]
      rfl
    · exact congrArg (· + 1) samples
  have ses : (s.modSes c (fun _ => m.ses.countSample b m.l m.r)).ses c = some (m.ses.countSample b m.l m.r) := by
    rw [State.ses_modSes, if_pos rfl, is]
    rfl
  generalize s.modSes c (fun _ => m.ses.countSample b m.l m.r) = t at counted ses ⊢
  have sent : (if b then (t, true) else t.sendWords c d m.a m.b) = (t, true) := by
    split
    · rfl
    · unfold State.sendWords
      rw [ses]
      dsimp only
      rw [word, if_pos (by omega)]
  rw [sent, if_pos rfl]
  split
  · exact State.queuePacket_mixed counted d
  · exact counted

theorem State.bringSound_readable : ∀ (l : List (Nat × Nat)) (s : State), (∀ e ∈ l, readable s c (sPage e.1 (e.2 % 65536))) →
    ∃ g, s.bringSound c l = ({ s with galleryOrder := g }, true)
  | [], s, _ => ⟨s.galleryOrder, rfl⟩
  | (h, a) :: l, s, there => by
    obtain ⟨g, read⟩ := State.pageRead_readable (there (h, a) (.head l)) (a % 2048)
    obtain ⟨g', rest⟩ := State.bringSound_readable l { s with galleryOrder := g } fun e mem => there e (.tail _ mem)
    refine ⟨g', ?_⟩
    have first : s.sRead c h a = _ := read
    rw [State.bringSound, first]
    exact rest

theorem State.bringSample_readable (there : ∀ e ∈ x.auxReads ++ x.voiceReads, readable s c (sPage e.1 (e.2 % 65536))) :
    ∃ g, s.bringSample c d x = ({ s with galleryOrder := g }, true) := by
  obtain ⟨g, aux⟩ := State.bringSound_readable x.auxReads s fun e mem => there e (List.mem_append_left _ mem)
  obtain ⟨g', voices⟩ := State.bringSound_readable x.voiceReads { s with galleryOrder := g } fun e mem =>
    there e (List.mem_append_right _ mem)
  unfold State.bringSample
  rw [aux]
  dsimp only
  split
  · exact ⟨g, rfl⟩
  · exact ⟨g', voices⟩

/-! ### Stores (R251, R257, R262) -/

theorem State.mixDueBefore_done (is : s.ses c = some x) (done : x.dueBefore d = false) : s.mixDueBefore c d = s := by
  have none_ (n : Nat) : s.mixBefore c d n = s := by
    cases n with
    | zero => rfl
    | succ n =>
      refine if_neg fun on => ?_
      rw [State.sesD_of is] at on
      unfold Session.dueBefore at done
      cases due : x.snd.due with
      | nil =>
        rw [due] at on
        exact nomatch on
      | cons e l =>
        rw [due] at on done
        dsimp only at on done
        rw [done] at on
        exact nomatch on
  exact none_ _

theorem State.soundStore_lands (is : s.ses c = some x) {s1 : State} {u : Session} {a : Nat} {v : Word}
    (mixed : s1 = s.mixDueBefore c (x.cpu.now - 1) ∨ x.dueBefore (x.cpu.now - 1) = false ∧ s1 = s) (is1 : s1.ses c = some u)
    (done : u.dueBefore (x.cpu.now - 1) = false) : (s.soundStore c a v).1 = s1.modSes c (·.soundWrite a v) := by
  have before : s.mixDueBefore c (x.cpu.now - 1) = s1 :=
    mixed.elim Eq.symm fun idle => (State.mixDueBefore_done is idle.1).trans idle.2.symm
  unfold State.soundStore
  dsimp only
  rw [State.sesD_of is, before, State.sesD_of is1, done]
  rfl

end

section
variable {x : Session} {v : Nat} {w : Word}

theorem soundDesc_voice : ∀ (grand : Bool) (v : Fin 32),
    ioDesc grand (0xF900 + 8 * v.val) = if grand = false ∧ 16 ≤ v.val then roDesc 0 else rwDesc 0x07F0 0 := by decide

theorem soundDesc_gain : ∀ (grand : Bool) (n : Fin 138), grand = true ∨ n.val < 64 ∨ 128 ≤ n.val →
    (ioDesc grand (gainAddr n.val)).rw = 0xFFFF ∧ (ioDesc grand (gainAddr n.val)).w1c = 0 := by decide

end

section
variable {x : Session} {w : Word}

/-- A key store of a voice of the profile. -/
theorem Session.soundWrite_key {v : Fin 32} (own : v.val < x.voiceCount) (key : w.getLsbD 15 = true ∨ w.getLsbD 14 = true) :
    let y := x.soundWrite (0xF900 + 8 * v.val) w
    y.snd.voice v.val = { x.snd.voice v.val with keys := (x.snd.voice v.val).keys ++ [w.getLsbD 15] } ∧
      (∀ n, n ≠ v.val → y.snd.voice n = x.snd.voice n) ∧ y.ioW (0xF900 + 8 * v.val) &&& 0x07F0#16 = w &&& 0x07F0#16 := by
  have desc : ioDesc x.grand (0xF900 + 8 * v.val) = rwDesc 0x07F0 0 := by
    rw [soundDesc_voice]
    refine if_neg fun outside => ?_
    unfold Session.voiceCount at own
    rw [outside.1] at own
    exact absurd own (Nat.not_lt.2 outside.2)
  have is : x.soundWrite (0xF900 + 8 * v.val) w =
      let y := x.setIo (0xF900 + 8 * v.val) (softWrite (rwDesc 0x07F0 0) (x.ioN (0xF900 + 8 * v.val)) w.toNat)
      { y with snd := y.snd.setVoice v.val { y.snd.voice v.val with keys := (y.snd.voice v.val).keys ++ [w.getLsbD 15] } } := by
    unfold Session.soundWrite
    rw [desc]
    dsimp only
    rw [if_neg (by decide), if_pos (by omega), if_pos ⟨by omega, by rw [Bool.or_eq_true]; exact key⟩,
      show (0xF900 + 8 * v.val - 0xF900) / 8 = v.val by omega]
    rfl
  dsimp only
  rw [is]
  refine ⟨(Sparse.get_set ..).trans (if_pos rfl), fun n other => (Sparse.get_set ..).trans (if_neg other), ?_⟩
  have word : ((x.setIo (0xF900 + 8 * v.val) (softWrite (rwDesc 0x07F0 0) (x.ioN (0xF900 + 8 * v.val)) w.toNat)).ioW
      (0xF900 + 8 * v.val)) = _ := Session.ioW_setIo.trans (if_pos rfl)
  refine (congrArg (· &&& 0x07F0#16) word).trans ?_
  refine BitVec.eq_of_getLsbD_eq fun i in_ => ?_
  rw [BitVec.getLsbD_and, BitVec.getLsbD_and, BitVec.getLsbD_ofNat, softWrite, show (rwDesc 0x07F0 0).w1c = 0 from rfl,
    show (rwDesc 0x07F0 0).rw = 0x07F0 from rfl, Nat.and_zero, Nat.and_zero, Nat.sub_zero, mergeBits_testBit,
    BitVec.getLsbD_ofNat, decide_eq_true in_, BitVec.testBit_toNat]
  cases Nat.testBit 0x07F0 i <;> simp

/-- A voice that the profile lacks takes no store. -/
theorem Session.soundWrite_absent {v : Fin 32} (absent : x.voiceCount ≤ v.val) : x.soundWrite (0xF900 + 8 * v.val) w = x := by
  have classic : x.grand = false := by
    unfold Session.voiceCount at absent
    split at absent
    · exact absurd v.isLt (Nat.not_lt.2 absent)
    · next grand => exact Bool.eq_false_iff.2 grand
  have sixteen : 16 ≤ v.val := by
    unfold Session.voiceCount at absent
    rwa [classic] at absent
  have desc : ioDesc x.grand (0xF900 + 8 * v.val) = roDesc 0 := (soundDesc_voice ..).trans (if_pos ⟨classic, sixteen⟩)
  unfold Session.soundWrite
  rw [desc]
  exact if_pos ⟨rfl, rfl⟩

/-- A store of a gain starts its ramp from the gain in use. -/
theorem Session.soundWrite_gain {n : Fin 138} (own : x.grand = true ∨ n.val < 64 ∨ 128 ≤ n.val) :
    let y := x.soundWrite (gainAddr n.val) w
    y.ioW (gainAddr n.val) = w ∧ Sparse.get Ramp.idle y.snd.ramps n.val = { g0 := x.gain n.val, gt := w.toInt, j := 0 } ∧
      ∀ m, m ≠ n.val → Sparse.get Ramp.idle y.snd.ramps m = Sparse.get Ramp.idle x.snd.ramps m := by
  obtain ⟨rw_, -⟩ := soundDesc_gain x.grand n own
  have is : x.soundWrite (gainAddr n.val) w = x.writeGain n.val w := by
    have small := n.isLt
    unfold Session.soundWrite
    dsimp only
    rw [if_neg fun no => absurd (rw_.symm.trans no.1) (by decide)]
    unfold gainAddr
    split
    · rw [if_neg (by omega), if_pos (by omega), Nat.add_sub_cancel_left]
    · rw [if_neg (by omega), if_neg (by omega), if_pos (by omega)]
      exact congrArg (fun m => x.writeGain m w) (by omega)
  dsimp only
  rw [is]
  refine ⟨?_, (Sparse.get_set ..).trans (if_pos rfl), fun m other => (Sparse.get_set ..).trans (if_neg other)⟩
  refine ((Session.ioW_setIo (x := x)).trans (if_pos rfl)).trans ?_
  exact BitVec.ofNat_toNat ..

end

/-- A key store of an executing program. -/
theorem keyStore_runs {c : CtxNo} {s s1 : State} {x u : Session} {v : Fin 32} {ctrl : Word} (is : s.ses c = some x)
    (on : s.programs c = true) (key : ctrl.getLsbD 15 = true ∨ ctrl.getLsbD 14 = true)
    (mixed : s1 = s.mixDueBefore c (x.cpu.now - 1) ∨ x.dueBefore (x.cpu.now - 1) = false ∧ s1 = s) (is1 : s1.ses c = some u)
    (done : u.dueBefore (x.cpu.now - 1) = false) :
    exec (if ctrl.getLsbD 15 then .kon c v ctrl else .koff c v ctrl) s =
      .next (s1.modSes c (·.soundWrite (0xF900 + 8 * v.val) ctrl)) := by
  have lands := State.soundStore_lands (a := 0xF900 + 8 * v.val) (v := ctrl) is mixed is1 done
  cases bit : ctrl.getLsbD 15 with
  | true => exact congrArg Host.Outcome.next ((if_pos (by rw [on]; exact bit)).trans lands)
  | false =>
    have off := key.resolve_left (by rw [bit]; exact Bool.false_ne_true)
    exact congrArg Host.Outcome.next ((if_pos (by rw [on]; exact off)).trans lands)

/-- Settles O38: the stores land on the unit once the samples before them are mixed; a sample keeps memory, the processor and the place in
the frame. -/
theorem soundCommands : Obligations.SoundCommands := by
  intro c s x is
  refine ⟨fun on s1 u v ctrl mixed is1 done => ⟨fun own key => ?_, fun absent key => ?_, fun n g own => ?_⟩, fun off v n w i mem => ?_,
    fun d l k held due ring turn reached => ?_⟩
  · have runs : exec (if ctrl.getLsbD 15 then .kon c v ctrl else .koff c v ctrl) s =
        .next (s1.modSes c (·.soundWrite (0xF900 + 8 * v.val) ctrl)) := keyStore_runs is on key mixed is1 done
    exact ⟨_, _, runs, onSession_modSes is1 _, Session.soundWrite_key own key⟩
  · have runs : exec (if ctrl.getLsbD 15 then .kon c v ctrl else .koff c v ctrl) s =
        .next (s1.modSes c (·.soundWrite (0xF900 + 8 * v.val) ctrl)) := keyStore_runs is on key mixed is1 done
    have same := onSession_modSes is1 (·.soundWrite (0xF900 + 8 * v.val) ctrl)
    rw [Session.soundWrite_absent absent] at same
    exact ⟨_, runs, same⟩
  · have runs : exec (.gainWrite c n g) s = .next (s1.modSes c (·.soundWrite (gainAddr n.val) g)) :=
      congrArg Host.Outcome.next ((if_pos on).trans (State.soundStore_lands is mixed is1 done))
    exact ⟨_, _, runs, onSession_modSes is1 _, Session.soundWrite_gain own⟩
  · simp only [List.mem_cons, List.not_mem_nil, or_false] at mem
    rcases mem with rfl | rfl | rfl
    · exact congrArg Host.Outcome.next (if_neg (by rw [off]; exact Bool.false_ne_true))
    · exact congrArg Host.Outcome.next (if_neg (by rw [off]; exact Bool.false_ne_true))
    · exact congrArg Host.Outcome.next (if_neg (by rw [off]; exact Bool.false_ne_true))
  · have may : x.mayMix = true := by
      unfold Session.mayMix
      rw [due]
      exact decide_eq_true reached
    have mixes {s2 : State} (brought : s.bringSample c d x = (s2, true)) : exec (.audioSample c) s = .next (s2.mixNow c d) := by
      have idle : (s.sesD c false (·.snd.due.isEmpty) && s.idles c) = false := by
        rw [State.sesD_of is, due]
        rfl
      refine congrArg Host.Outcome.next ?_
      rw [held]
      dsimp only
      rw [idle, if_neg Bool.false_ne_true, if_pos turn]
      unfold State.mixSample
      rw [is]
      dsimp only
      rw [may, due]
      dsimp only
      rw [brought]
      rfl
    refine ⟨fun s2 brought is2 => ?_, fun there => ?_⟩
    · obtain ⟨mem, y, at_, rest, samples, cpu, vcyc⟩ := State.mixNow_mixed is2 ring d
      refine ⟨_, mixes brought, mem, fun y' at' => ?_⟩
      rw [← Option.some.inj (at_.symm.trans at')]
      exact ⟨rest.trans (by rw [due]; rfl), samples, cpu, vcyc⟩
    · obtain ⟨g, brought⟩ := State.bringSample_readable (d := d) there
      obtain ⟨mem, y, at_, rest, samples, cpu, vcyc⟩ := State.mixNow_mixed (s := { s with galleryOrder := g }) is ring d
      exact ⟨_, y, mixes brought, mem, at_, rest.trans (by rw [due]; rfl), samples, cpu, vcyc⟩

end Sys2Proof.Machine

/-! ## Lines rendered, bands coded, bands copied (R99, R100, R102, R233, R293, R296 to R303, R324) -/
namespace Sys2Proof.Machine
open Sys2Proof Sys2Proof.Claims

/-! ### A line rendered (R99, R100) -/

section
variable {s t u : State} {x y : Session} {c : CtxNo} {k f l i : Nat}

theorem Session.setIo_lines (a v : Nat) : (x.setIo a v).lines = x.lines := rfl

theorem Session.spriteClears_lines : (x.spriteClears f l).lines = x.lines := by
  have clears : ∀ (due : List (Nat × Nat × Word)) (y : Session), (due.foldl (fun (y : Session) e =>
      let z := y.setIo 0xF404 (softWrite (ioDesc y.grand 0xF404) (y.ioN 0xF404) e.2.2.toNat)
      if z.ioN 0xF404 = 0 then z.setIo 0xF405 (z.ioN 0xF405 % 0x8000) else z) y).lines = y.lines := by
    intro due
    induction due with
    | nil => exact fun y => rfl
    | cons e due ih =>
      intro y
      refine (ih _).trans ?_
      dsimp only
      split <;> rfl
  exact clears _ _

theorem Session.overflow_lines (a b : Bool) : (x.overflow l a b).lines = x.lines := by
  unfold Session.overflow
  split
  · rfl
  · dsimp only
    split <;> rfl

/-- What the session's slot and lines show of a line rendered. -/
structure Renders (c : CtxNo) (k : Nat) (x : Session) (f l : Nat) (u t : State) : Prop where
  next : ((t.slot k).renderFrame, (t.slot k).rendered) = (if l + 1 < x.timingOf f 3 then (f, l + 1) else (f + 1, 0))
  balance : (t.slot k).tokens + (t.slot k).clocks = (u.slot k).tokens + (u.slot k).clocks
  charged : (u.slot k).clocks < (t.slot k).clocks
  mem : t.mem = u.mem
  none_ : u.ses c = none → t.ses c = none
  line : ∀ z, u.ses c = some z → ∃ y, t.ses c = some y ∧ ∃ e ∈ y.lines, e.frame = f ∧ e.line = l ∧ e.pixels.length = x.timingOf f 1

theorem LineSrc.clocks_pos (q : LineSrc) (spr : List Sprite) : 0 < q.clocks spr := by
  unfold LineSrc.clocks
  omega

theorem State.books_kept {a v b d n : Nat} : let t := ((s.setReg a v).addCnt b n).addCnt d n
    t.slots = s.slots ∧ t.ctxs = s.ctxs ∧ t.mem = s.mem := ⟨rfl, rfl, rfl⟩

theorem State.renderLine_renders : Renders c k x (u.slot k).renderFrame (u.slot k).rendered u (u.renderLine c k x) := by
  unfold State.renderLine
  dsimp only
  set f := (u.slot k).renderFrame
  set l := (u.slot k).rendered
  set q := u.lineSrc c x f l
  have clocks : 0 < q.clocks q.drawn := q.clocks_pos _
  generalize q.clocks q.drawn = clk at clocks ⊢
  generalize lines : u.modSes c _ = s1
  have own : s1.slot k = u.slot k := by rw [← lines]; rfl
  set g : SlotSt → SlotSt := fun y => { y with
    renderFrame := (x.nextLine f l).1, rendered := (x.nextLine f l).2, clocks := (u.slot k).clocks + clk, tokens := y.tokens - clk }
  generalize min 0xFFFFFFFF _ = v
  obtain ⟨slots, ctxs, mem⟩ := State.books_kept (s := s1.modSlot k g) (a := schAddr k 0x38) (v := v) (b := bookAddr (slotDie k) 1)
    (d := bookAddr (slotDie k) 4) (n := clk)
  generalize State.addCnt _ clk _ = t at slots ctxs mem ⊢
  have slot : t.slot k = g (u.slot k) := by
    rw [← own, ← State.slot_modSlot_same (s := s1) g]
    unfold State.slot
    rw [slots]
  have ses : t.ses c = s1.ses c := by
    unfold State.ses
    rw [State.ctx_of_ctxs ctxs]
    rfl
  refine ⟨?_, ?_, ?_, ?_, fun gone => ?_, fun z is => ?_⟩
  · rw [slot]
    rfl
  · rw [slot]
    show ((u.slot k).tokens - (clk : Int)) + (((u.slot k).clocks + clk : Nat) : Int) = _
    omega
  · rw [slot]
    show (u.slot k).clocks < (u.slot k).clocks + clk
    omega
  · rw [mem, ← lines]
    rfl
  · rw [ses, ← lines, State.ses_modSes, if_pos rfl, gone]
    rfl
  · rw [ses, ← lines, State.ses_modSes, if_pos rfl, is]
    refine ⟨_, rfl, { frame := f, line := l, pixels := (List.range q.width).map (fun sx => BitVec.ofNat 24 (q.compose q.drawn sx)) },
      ?_, rfl, rfl, (List.length_map ..).trans List.length_range⟩
    show _ ∈ (Session.overflow ..).lines
    rw [Session.overflow_lines, Session.spriteClears_lines]
    exact List.mem_append_right _ (List.mem_singleton.mpr rfl)

/-- Pages that are there are brought in at once. -/
theorem State.bringPages_readable {cls due : Nat} : ∀ (l : List Nat) (s : State), (∀ i ∈ l, readable s c i) →
    ∃ g, s.bringPages c cls due l = ({ s with galleryOrder := g }, true)
  | [], s, _ => ⟨s.galleryOrder, rfl⟩
  | i :: l, s, there => by
    have copied : ∃ g, s.ensureCopyAs c i cls due = ({ s with galleryOrder := g }, true) := by
      unfold State.ensureCopyAs
      cases s.ctxDie c with
      | none => exact ⟨s.galleryOrder, rfl⟩
      | some d =>
        dsimp only
        cases alloc : (s.page c i).alloc with
        | false => exact ⟨s.galleryOrder, rfl⟩
        | true => exact ⟨_, (if_neg Bool.false_ne_true).trans (if_pos ((there i (.head l)).2 alloc))⟩
    obtain ⟨g, copied⟩ := copied
    obtain ⟨g', rest⟩ := State.bringPages_readable l { s with galleryOrder := g } fun i mem => there i (.tail _ mem)
    exact ⟨g', by rw [State.bringPages, copied]; exact rest⟩

theorem State.linePages_readable {q : LineSrc} (there : ∀ i ∈ vPages q.fetchReads, readable s c i) (good : s.bad = []) :
    ∃ g, s.linePages c k q = ({ s with galleryOrder := g }, true) := by
  obtain ⟨g, brought⟩ := State.bringPages_readable (cls := 1) (due := s.lineDeadline c k q.frame q.line) _ s there
  have none_ : (vPages q.fetchReads).filter (fun i => (s.page c i).alloc && !(s.page c i).gcopy) = [] := by
    refine List.filter_eq_nil_iff.mpr fun i mem out => ?_
    rw [Bool.and_eq_true, Bool.not_eq_true'] at out
    exact absurd ((there i mem).2 out.1) (by rw [out.2]; exact Bool.false_ne_true)
  refine ⟨g, ?_⟩
  have sound : State.badRead { s with galleryOrder := g } c q.fetchReads = none := if_pos (by rw [good]; rfl)
  unfold State.linePages
  dsimp only
  rw [brought, none_]
  dsimp only
  rw [sound]
  rfl

theorem State.lineRender_renders (ahead : s.lineBehind c (s.slot k).renderFrame (s.slot k).rendered = false)
    (caught : s.lpgCatchUp c .beforeNext = (t, true)) (is : t.ses c = some x)
    (pages : t.linePages c k (t.lineSrc c x (s.slot k).renderFrame (s.slot k).rendered) = (u, true)) :
    s.lineRender c k = u.renderLine c k x := by
  unfold State.lineRender
  dsimp only
  rw [ahead, caught]
  dsimp only
  rw [is]
  dsimp only
  rw [pages]
  rfl

theorem exec_lineRender (slot : s.heldSlot c = some k) (ready : s.renderReady c k = true) (turn : s.lineTurn c k = true) :
    exec (.lineRender c) s = .next (s.lineRender c k) := by
  show Host.Outcome.next (match s.heldSlot c with | some k => if s.renderReady c k && s.lineTurn c k then s.lineRender c k else s | none => s) = _
  rw [slot]
  dsimp only
  rw [ready, turn]
  rfl

theorem lineRenderedRule_kept : lineRenderedRule := by
  intro c s k slot ready turn f0 l0 ahead
  rw [exec_lineRender slot ready turn]
  refine ⟨fun s1 u x caught is pages => ?_, fun x is rests there good => ?_⟩
  · rw [State.lineRender_renders ahead caught is pages]
    have renders := State.renderLine_renders (u := u) (c := c) (k := k) (x := x)
    refine ⟨_, rfl, renders.next, renders.balance, renders.charged, renders.mem, fun y after => ?_⟩
    cases before : u.ses c with
    | none =>
      exact nomatch (renders.none_ before).symm.trans after
    | some z =>
      obtain ⟨y', at_, line⟩ := renders.line z before
      exact Option.some.inj (at_.symm.trans after) ▸ line
  · obtain ⟨g, pages⟩ := State.linePages_readable (k := k) there good
    rw [State.lineRender_renders ahead (State.lpgCatchUp_rests is rests) is pages]
    have renders := State.renderLine_renders (u := { s with galleryOrder := g }) (c := c) (k := k) (x := x)
    obtain ⟨y, at_, line⟩ := renders.line x is
    exact ⟨_, y, rfl, renders.mem, at_, renders.next, line⟩

end

/-! ### A band coded (R102, R293, R303, R324) -/

section
variable {s t u : State} {c : CtxNo} {k f b i : Nat}

theorem State.monDrop_kept : let t := s.monDrop k f
    (t.slot k).codedF = (s.slot k).codedF ∧ (t.slot k).codedK = (s.slot k).codedK ∧ (t.slot k).videoQ = (s.slot k).videoQ := by
  intro t
  have dropped (z : State) (slots : z.slots = s.slots) :
      (z.modSlot k (fun y => { y with monF := f, monK := 0 })).slot k = { s.slot k with monF := f, monK := 0 } := by
    refine (State.slot_modSlot_same ..).trans ?_
    unfold State.slot
    rw [slots]
  unfold t State.monDrop
  dsimp only
  split
  · split
    · rw [dropped (s.countReg _ _) rfl]
      exact ⟨rfl, rfl, rfl⟩
    · rw [dropped s rfl]
      exact ⟨rfl, rfl, rfl⟩
  · exact ⟨rfl, rfl, rfl⟩

/-- The place moves past a coded band, whose queue stays. -/
theorem State.coded_past : let t := (s.codedNext c k f b).monDrop k f
    ((t.slot k).codedF, (t.slot k).codedK) = (if s.bandActive c f (b + 1) then (f, b + 1) else (f + 1, 0)) ∧
      (t.slot k).videoQ = (s.slot k).videoQ := by
  have own : (s.codedNext c k f b).slot k = { s.slot k with
      codedF := if s.bandActive c f (b + 1) then f else f + 1, codedK := if s.bandActive c f (b + 1) then b + 1 else 0 } :=
    State.slot_modSlot_same (s := s) (k := k) fun y => { y with
      codedF := if s.bandActive c f (b + 1) then f else f + 1, codedK := if s.bandActive c f (b + 1) then b + 1 else 0 }
  obtain ⟨frame, band, queue⟩ := State.monDrop_kept (s := s.codedNext c k f b) (k := k) (f := f)
  intro t
  rw [frame, band, queue, own]
  refine ⟨?_, rfl⟩
  split <;> rfl

theorem State.queueBand_queued {d : BandDesc} (plain : (s.slot k).tapMode d.frame = 0) :
    ∃ lead, ((s.queueBand c k d).slot k).videoQ = (s.slot k).videoQ ++ [{ d with lead := lead }] := by
  refine ⟨(s.measureLead c k d.frame d.band).2, ?_⟩
  unfold State.queueBand
  dsimp only
  rw [if_neg (by rw [plain]; decide), State.slot_modSlot_same, State.measureLead_queuesStay.video]

/-! ### The mirror pages (R296, R298) -/

/-- Pages of a session's own that are there have been written. -/
structure OwnPages (c : CtxNo) (s t : State) : Prop where
  slots : t.slots = s.slots
  held : t.heldSlot c = s.heldSlot c
  ses : t.ses c = s.ses c
  owned : ∀ i, Claims.owned s c i → Claims.owned t c i

theorem OwnPages.refl (c : CtxNo) (s : State) : OwnPages c s s := ⟨rfl, rfl, rfl, fun _ own => own⟩

theorem OwnPages.trans (g : OwnPages c s t) (h : OwnPages c t u) : OwnPages c s u :=
  ⟨h.slots.trans g.slots, h.held.trans g.held, h.ses.trans g.ses, fun i own => h.owned i (g.owned i own)⟩

/-- A change of memory whose words keep good parity. -/
theorem OwnPages.stored {m : Sparse (BitVec 8)} {l : Sparse Bool} {o : List Nat} (good : s.bad = [] → l = []) :
    OwnPages c s { s with mem := m, bad := l, galleryOrder := o } := ⟨rfl, rfl, rfl, fun _ own => ⟨good own.1, own.2⟩⟩

theorem State.markDirty_own : OwnPages c s (s.markDirty c i) := by
  unfold State.markDirty
  dsimp only
  split
  · split
    · set m := s.modCtx c (fun x => x.setPage i { x.page i with dirty := true })
      unfold State.modFrame
      obtain ⟨x, y, marked⟩ := State.setFrame_rest (s := m) (f := (s.page c i).home.toNat)
        { m.frame (s.page c i).home.toNat with copy := some (‹Nat› == 1, (s.page c i).gframe) }
      rw [marked]
      have ctx : m.ctx c = (s.ctx c).setPage i { (s.ctx c).page i with dirty := true } := by rw [State.ctx_modCtx, if_pos rfl]
      have page (j : Nat) : m.page c j = if j = i then { s.page c i with dirty := true } else s.page c j := by
        unfold State.page
        rw [ctx]
        exact Sparse.get_set ..
      refine ⟨rfl, ?_, ?_, fun j own => ?_⟩
      · show m.heldSlot c = _
        unfold State.heldSlot
        rw [ctx]
        rfl
      · show m.ses c = _
        unfold State.ses
        rw [ctx]
        rfl
      · obtain ⟨good, alloc, copy, cow⟩ := own
        refine ⟨good, ?_⟩
        show (m.page c j).alloc = true ∧ (m.page c j).gcopy = true ∧ (m.page c j).cow = false
        rw [page]
        split
        · next same => subst same; exact ⟨alloc, copy, cow⟩
        · exact ⟨alloc, copy, cow⟩
    · exact .refl c s
  · exact .refl c s

theorem State.pageWrite_owned {off : Nat} {v : Word} (slot : s.heldSlot c = some k) (own : Claims.owned s c i) :
    ∃ t, s.pageWrite c i off v = (t, true) ∧ OwnPages c s t := by
  obtain ⟨good, alloc, copy, cow⟩ := own
  have die : s.ctxDie c = some (slotDie k) := by rw [State.ctxDie, slot]; rfl
  set g := galleryFrame (slotDie k) (s.page c i).gframe.toNat
  have frame : (s.touchGallery g).pageFrame c i = some g := State.pageFrame_resident (s := s.touchGallery g) die alloc copy
  refine ⟨((s.touchGallery g).setWord (g * 4096 + 2 * off) v).markDirty c i, ?_, ?_⟩
  · rw [State.pageWrite, State.pageTouch_resident die alloc cow copy]
    dsimp only
    rw [frame]
  · refine OwnPages.trans (OwnPages.stored (o := (s.touchGallery g).galleryOrder) ?_) State.markDirty_own
    intro good
    rw [show (s.touchGallery g).bad = [] from good]
    rfl

theorem State.mirrorClear_own : OwnPages c s (s.mirrorClear c) := by
  have clears : ∀ (l : List Nat) (s : State), OwnPages c s (l.foldl (fun (s : State) i =>
      match s.pageFrame c i with
      | some f => (s.clearFrame f).markDirty c i
      | none => s) s) := by
    intro l
    induction l with
    | nil => exact .refl c
    | cons i l ih =>
      intro s
      refine OwnPages.trans ?_ (ih _)
      dsimp only
      split
      · refine OwnPages.trans (OwnPages.stored (o := s.galleryOrder) fun good => ?_) State.markDirty_own
        rw [good]
        rfl
      · exact .refl c s
  exact clears mirrorPages s

/-- A hash's four words are written to a mirror page. -/
theorem State.mirrorWords_own {v : Nat → Word} {off : Nat → Nat} (slot : s.heldSlot c = some k) (own : Claims.owned s c i) :
    ∀ l : List Nat, ∃ t, l.foldl (fun (a : State × Bool) j =>
      let w := a.1.pageWrite c i (off j) (v j)
      (w.1, a.2 && w.2)) (s, true) = (t, true) ∧ OwnPages c s t := by
  intro l
  induction l generalizing s with
  | nil => exact ⟨s, rfl, .refl c s⟩
  | cons j l ih =>
    obtain ⟨t, written, only⟩ := State.pageWrite_owned (off := off j) (v := v j) slot own
    obtain ⟨u, rest, only'⟩ := ih (only.held.trans slot) (only.owned i own)
    refine ⟨u, ?_, only.trans only'⟩
    rw [List.foldl_cons]
    dsimp only
    rw [written]
    exact rest

theorem mirrorPage_mem {e : Nat} (entry : e < 4096) : 219 + e / 512 ∈ mirrorPages :=
  List.mem_map.mpr ⟨e / 512, List.mem_range.mpr (by omega), rfl⟩

theorem State.mirrorPut_own : ∀ (l : List (Nat × BitVec 64)) (s : State), s.heldSlot c = some k → (∀ i ∈ mirrorPages, Claims.owned s c i) →
    (∀ e ∈ l, e.1 < 4096) → ∃ t, State.mirrorPut c l s = some t ∧ OwnPages c s t
  | [], s, _, _, _ => ⟨s, rfl, .refl c s⟩
  | (e, h) :: l, s, slot, own, small => by
    have mem := mirrorPage_mem (small (e, h) (.head l))
    obtain ⟨t, written, only⟩ := State.mirrorWords_own (v := fun i => BitVec.ofNat 16 (h.toNat / 2 ^ (16 * i)))
      (off := fun i => e % 512 * 4 + i) slot (own _ mem) (List.range 4)
    obtain ⟨u, rest, only'⟩ := State.mirrorPut_own l t (only.held.trans slot) (fun i mem => only.owned i (own i mem))
      fun e mem => small e (.tail _ mem)
    refine ⟨u, ?_, only.trans only'⟩
    rw [State.mirrorPut, written]
    exact rest

/-! ### The entries of a coded band (R296) -/

/-- The coder names entries of the mirror alone. -/
def CoderSt.inMirror (m : CoderSt) : Prop := (∀ e ∈ m.set, e.1 < 4096) ∧ ∀ e ∈ m.recent, e < 4096

theorem leastRecent_lt {l : List Nat} (small : ∀ e ∈ l, e < 4096) : leastRecent l < 4096 := by
  unfold leastRecent
  cases found : (List.range 4096).find? (fun e => !l.contains e) with
  | some e => exact List.mem_range.mp (List.mem_of_find?_eq_some found)
  | none =>
    cases l with
    | nil => exact Nat.lt_of_lt_of_le Nat.zero_lt_one (Nat.one_le_pow 12 2 Nat.zero_lt_two)
    | cons e l => exact small e (.head l)

theorem useEntry_lt {e : Nat} {l : List Nat} (in_ : e < 4096) (small : ∀ e ∈ l, e < 4096) : ∀ d ∈ useEntry e l, d < 4096 := by
  intro d mem
  rcases List.mem_append.mp mem with old | new
  · exact small d (List.mem_of_mem_filter old)
  · exact List.mem_singleton.mp new ▸ in_

theorem CoderSt.code_inMirror {base : Nat → BitVec 64} {depth : Nat} {cs : List (BitVec 30)} {m : CoderSt} (in_ : m.inMirror) :
    (m.code base depth cs).2.inMirror := by
  obtain ⟨set_, recent⟩ := in_
  unfold CoderSt.code
  dsimp only
  generalize (if Config.blockHash depth cs = 0 then 1 else Config.blockHash depth cs) = h
  split
  · next e found => exact ⟨set_, useEntry_lt (List.mem_range.mp (List.mem_of_find?_eq_some found)) recent⟩
  · refine ⟨fun e mem => ?_, useEntry_lt (leastRecent_lt recent) recent⟩
    rcases List.mem_cons.mp mem with new | old
    · rw [new]
      dsimp only
      exact leastRecent_lt recent
    · exact set_ e (List.mem_of_mem_filter old)

theorem tileFrags_inMirror {base : Nat → BitVec 64} {depth maxb : Nat} : ∀ (l : List (Nat × List (BitVec 30))) (m : CoderSt)
    (acc : List Frag), m.inMirror → (tileFrags base depth maxb l m acc).2.inMirror
  | [], _, _, in_ => in_
  | (i, cs) :: l, m, acc, in_ => by
    have next := CoderSt.code_inMirror (base := base) (depth := depth) (cs := cs) in_
    unfold tileFrags
    dsimp only
    split
    · split <;> exact tileFrags_inMirror l _ _ next
    · exact tileFrags_inMirror l _ _ next

theorem Picture.tileBand_inMirror {p : Picture} {base : Nat → BitVec 64} {depth line0 nlines maxb : Nat} {dither : Bool} {m : CoderSt}
    (in_ : m.inMirror) : (p.tileBand base depth dither line0 nlines maxb m).2.inMirror := by
  unfold Picture.tileBand
  split
  · exact in_
  · exact tileFrags_inMirror _ _ _ in_

/-! ### The bands queued -/

/-- A band stands at the end of the video queue. -/
def BandDesc.isBand (d : BandDesc) (y : SlotSt) (f b kind : Nat) : Prop :=
  d.frame = f ∧ d.band = b ∧ d.kind = BitVec.ofNat 2 kind ∧ d.late = false ∧ d.sentFragments = 0 ∧ d.flow = y.flowAt f b

theorem State.bandBase_isBand {g : BandGeom} {kind : Nat} (early : (s.slot k).slipOf f b = none) (frags : List Frag) (flags : Byte)
    (mgen : Word) (lead : Int) :
    BandDesc.isBand { (s.bandBase c k f b g kind).withFrags frags flags mgen with lead := lead } (s.slot k) f b kind :=
  ⟨rfl, rfl, rfl, by show ((s.slot k).slipOf f b).isSome = false; rw [early]; rfl, rfl, rfl⟩

theorem State.codePlane_queued {g : BandGeom} (plain : (s.slot k).tapMode f = 0) (early : (s.slot k).slipOf f b = none) :
    ∃ d, ((s.codePlane c k f b g).slot k).videoQ = (s.slot k).videoQ ++ [d] ∧ d.isBand (s.slot k) f b 2 := by
  unfold State.codePlane
  dsimp only
  rw [early]
  dsimp only
  obtain ⟨lead, queued⟩ := State.queueBand_queued (c := c) (d := (s.bandBase c k f b g 2).withFrags _ _ _) plain
  exact ⟨_, queued, State.bandBase_isBand early _ _ _ lead⟩

theorem State.codePlane_discarded {g : BandGeom} {e : Slip} (slipped : (s.slot k).slipOf f b = some e) (repeats : e.policy = 0) :
    ((s.codePlane c k f b g).slot k).videoQ = (s.slot k).videoQ := by
  unfold State.codePlane
  dsimp only
  rw [slipped]
  dsimp only
  rw [if_pos repeats, (State.passDropped_kept _ _).queue, State.slot_modSlot_same]

theorem State.codeTile_queued {g : BandGeom} (slot : s.heldSlot c = some k) (plain : (s.slot k).tapMode f = 0)
    (early : (s.slot k).slipOf f b = none) (own : ∀ i ∈ mirrorPages, Claims.owned s c i) (small : ∀ e ∈ (s.slot k).recent, e < 4096) :
    ∃ t d, s.codeTile c k f b g = some t ∧ (t.slot k).videoQ = (s.slot k).videoQ ++ [d] ∧ d.isBand (s.slot k) f b 1 := by
  unfold State.codeTile
  dsimp only
  have cleared (p : Bool) : OwnPages c s (if p then s.mirrorClear c else s) := by
    cases p
    · exact .refl c s
    · exact State.mirrorClear_own
  have start (p : Prop) [Decidable p] : CoderSt.inMirror { set := [], recent := if p then [] else (s.slot k).recent } := by
    refine ⟨fun e mem => absurd mem List.not_mem_nil, ?_⟩
    dsimp only
    split
    · exact fun e mem => nomatch mem
    · exact small
  generalize only : @ite State _ (_) (s.mirrorClear c) s = s1
  replace only : OwnPages c s s1 := only ▸ cleared _
  generalize coded : Picture.tileBand _ _ _ _ _ _ _ _ = r
  have in_ : r.2.inMirror := coded ▸ Picture.tileBand_inMirror (start _)
  obtain ⟨s2, put, only'⟩ := State.mirrorPut_own r.2.set s1 (only.held.trans slot) (fun i mem => only.owned i (own i mem)) in_.1
  rw [put, Option.map_some]
  have same : s2.slot k = s.slot k := by
    unfold State.slot
    rw [(only.trans only').slots]
  generalize z : (s2.modSlot k _).setReg _ _ = s3
  have own (h : SlotSt → SlotSt) (a v : Nat) : ((s2.modSlot k h).setReg a v).slot k = h (s.slot k) := (State.slot_modSlot_same h).trans (congrArg h same)
  have queue : (s3.slot k).videoQ = (s.slot k).videoQ ∧ (s3.slot k).tapMode f = 0 := by
    rw [← z]
    exact ⟨(congrArg SlotSt.videoQ (own _ _ _)).trans rfl, (congrArg (fun y => y.tapMode f) (own _ _ _)).trans plain⟩
  obtain ⟨lead, queued⟩ := State.queueBand_queued (s := s3) (c := c) (k := k) (d := (s.bandBase c k f b g 1).withFrags _ _ _) queue.2
  exact ⟨_, _, rfl, by rw [queued, queue.1], State.bandBase_isBand early _ _ _ lead⟩

/-! ### BAND_CODE -/

theorem unready {ready : Bool} {n : Nat} {p : Prop} (is : ready = true) (room : n < 16) : ¬ ((!ready) = true ∨ 16 ≤ n ∧ p) := by
  rintro (no | ⟨full, -⟩)
  · exact absurd (Bool.not_eq_true' _ ▸ no) (by rw [is]; exact Bool.noConfusion)
  · omega

theorem State.codeBand_kind {t : State} (rendered : s.bandRendered c k (Claims.codeBand s c k).1 (Claims.codeBand s c k).2 = true)
    (room : (s.slot k).videoBands.length < 16) (plain : (s.slot k).tapMode (Claims.codeBand s c k).1 = 0)
    (kind : (s.slot k).kindAt (Claims.codeBand s c k).1 ≠ 0) (coded : s.codeKind c k (Claims.codeBand s c k).1 (Claims.codeBand s c k).2 = some t) :
    s.codeBand c k = (t.codedNext c k (Claims.codeBand s c k).1 (Claims.codeBand s c k).2).monDrop k (Claims.codeBand s c k).1 := by
  unfold Sys2Proof.Claims.codeBand at *
  unfold State.codeBand
  dsimp only
  rw [if_neg (unready rendered room), if_neg kind,
    if_neg (by rw [plain]; decide), if_neg (by rw [plain]; decide), coded]

theorem State.codeBand_blank (rendered : s.bandRendered c k (Claims.codeBand s c k).1 (Claims.codeBand s c k).2 = true)
    (room : (s.slot k).videoBands.length < 16) (kind : (s.slot k).kindAt (Claims.codeBand s c k).1 = 0) :
    s.codeBand c k = (s.codedNext c k (Claims.codeBand s c k).1 (Claims.codeBand s c k).2).monDrop k (Claims.codeBand s c k).1 := by
  unfold Sys2Proof.Claims.codeBand at *
  unfold State.codeBand
  dsimp only
  rw [if_neg (unready rendered room), if_pos kind]

theorem exec_bandCode (slot : s.heldSlot c = some k) (admitted : (s.ctx c).state ≠ .admitting) :
    exec (.bandCode c) s = .next (s.codeBand c k) := by
  show Host.Outcome.next (match s.heldSlot c with | some k => if (s.ctx c).state = CtxState.admitting then s else s.codeBand c k | none => s) = _
  rw [slot]
  exact congrArg Host.Outcome.next (if_neg admitted)

theorem State.codeKind_plane (kind : (s.slot k).kindAt f = 2) : s.codeKind c k f b = some (s.codePlane c k f b (s.bandGeom k f b)) :=
  if_pos kind

theorem bandCodedRule_kept : bandCodedRule := by
  intro c s k slot admitted f b rendered room plain
  rw [exec_bandCode slot admitted]
  have coded {t : State} (kind : (s.slot k).kindAt f ≠ 0) (is : s.codeKind c k f b = some t) :=
    State.codeBand_kind rendered room plain kind is
  refine ⟨fun kind => ⟨_, rfl, ?_⟩, fun s1 kind is => ⟨_, rfl, ?_⟩, fun kind early => ?_, fun kind early own small => ?_,
    fun e kind slipped repeats => ⟨_, rfl, ?_⟩⟩
  · rw [State.codeBand_blank rendered room kind]
    exact State.coded_past
  · rw [coded kind is]
    exact State.coded_past
  · have is := State.codeKind_plane (c := c) (b := b) kind
    obtain ⟨d, queued, band⟩ := State.codePlane_queued (c := c) (g := s.bandGeom k f b) plain early
    refine ⟨_, d, rfl, ?_, band⟩
    rw [coded (by rw [kind]; decide) is, State.coded_past.2, queued]
  · obtain ⟨t, d, is, queued, band⟩ := State.codeTile_queued (g := s.bandGeom k f b) slot plain early own small
    have is' : s.codeKind c k f b = some t := (if_neg (by rw [kind]; decide)).trans is
    refine ⟨_, d, rfl, ?_, band⟩
    rw [coded (by rw [kind]; decide) is', State.coded_past.2, queued]
  · rw [coded (by rw [kind]; decide) (State.codeKind_plane kind), State.coded_past.2, State.codePlane_discarded slipped repeats]

end

/-! ### A band copied to the monitor (R233) -/

section
variable {s t u : State} {c : CtxNo} {k : Nat}

/-- Beside memory, registers and the monitor a state is as it was. -/
def CanvasOnly (s t : State) : Prop := t = { s with mem := t.mem, bad := t.bad, regs := t.regs, monitor := t.monitor }

theorem canvasOnly_trans (g : CanvasOnly s t) (h : CanvasOnly t u) : CanvasOnly s u := by
  refine h.trans ?_
  conv_lhs => rw [show t = _ from g]

theorem canvasOnly_slots (g : CanvasOnly s t) : t.slots = s.slots ∧ t.ctxs = s.ctxs := by
  rw [show t = _ from g]
  exact ⟨rfl, rfl⟩

theorem canvasOnly_foldl {α : Type} {g : State → α → State} (each : ∀ s a, CanvasOnly s (g s a)) :
    ∀ (l : List α) (s : State), CanvasOnly s (l.foldl g s)
  | [], _ => rfl
  | a :: l, s => canvasOnly_trans (each s a) (canvasOnly_foldl each l _)

theorem State.copyLine_canvas (p : Picture) (e : Tile) (oy : Nat) (s : State) : CanvasOnly s (s.copyLine p e oy) := by
  unfold State.copyLine
  dsimp only
  split
  · exact rfl
  · refine canvasOnly_trans (canvasOnly_foldl (fun s ox => ?_) _ s) (by exact rfl)
    split
    · exact rfl
    · refine canvasOnly_foldl (fun s comp => ?_) _ s
      split <;> exact rfl

theorem State.copyTile_canvas (f b : Nat) (e : Tile) (s : State) : CanvasOnly s (s.copyTile c k f b e) := by
  unfold State.copyTile
  dsimp only
  split
  · exact rfl
  · exact canvasOnly_foldl (fun s oy => s.copyLine_canvas _ e oy) _ s

/-- The copies of a band to the tiles that name its slot, where the monitor is on. -/
def State.copyTiles (c : CtxNo) (k f b : Nat) (s : State) : State :=
  if s.monitor.en then (s.tiles.filter (fun e => e.slot == k)).foldl (fun (s : State) e => s.copyTile c k f b e) s else s

theorem State.copyTiles_canvas (f b : Nat) : CanvasOnly s (s.copyTiles c k f b) := by
  unfold State.copyTiles
  split
  · exact canvasOnly_foldl (fun s e => s.copyTile_canvas f b e) _ s
  · exact rfl

/-- The place of the copies moves past a band. -/
def SlotSt.copied (more : Bool) (f b : Nat) (y : SlotSt) : SlotSt :=
  { y with monF := if more then f else f + 1, monK := if more then b + 1 else 0 }

theorem State.monitorCopy_eq {n : Nat × Nat} (next : s.nextActive c (s.slot k).monF (s.slot k).monK = n)
    (rendered : s.bandRendered c k n.1 n.2 = true) :
    s.monitorCopy c k = (s.copyTiles c k n.1 n.2).modSlot k (·.copied (s.bandActive c n.1 (n.2 + 1)) n.1 n.2) := by
  unfold State.monitorCopy
  dsimp only
  rw [next, rendered]
  rfl

theorem exec_monitorCopy (slot : s.heldSlot c = some k) (admitted : (s.ctx c).state ≠ .admitting) :
    exec (.monitorCopy c) s = .next (s.monitorCopy c k) := by
  show Host.Outcome.next (match s.heldSlot c with
    | some k => if (s.ctx c).state = CtxState.admitting then s else s.monitorCopy c k | none => s) = _
  rw [slot]
  exact congrArg Host.Outcome.next (if_neg admitted)

theorem monitorCopiesRule_kept : monitorCopiesRule := by
  intro c s k slot admitted n rendered
  rw [exec_monitorCopy slot admitted, State.monitorCopy_eq (n := n) rfl rendered]
  obtain ⟨slots, ctxs⟩ := canvasOnly_slots (State.copyTiles_canvas (s := s) (c := c) (k := k) n.1 n.2)
  have own (j : Nat) : (s.copyTiles c k n.1 n.2).slot j = s.slot j := by rw [State.slot, slots]; rfl
  refine ⟨_, rfl, ctxs, fun j other => ?_, ?_, fun off => ?_⟩
  · rw [State.slot_modSlot, if_neg other, own]
  · rw [State.slot_modSlot_same]
    unfold SlotSt.copied
    dsimp only
    split <;> rfl
  · have same : s.copyTiles c k n.1 n.2 = s := by
      unfold State.copyTiles
      rw [off]
      rfl
    rw [same]
    rfl

end

/-- Settles O34: a line's pixels and its charge by what LINE_RENDER makes of the state in which its pages are there, a band by what its
coder queues, with the mirror written in pages of the session's own. -/
theorem bandPipeline : Obligations.BandPipeline := ⟨lineRenderedRule_kept, bandCodedRule_kept, monitorCopiesRule_kept⟩

end Sys2Proof.Machine

/-! ## The blitter (R142, R242 to R247) -/
namespace Sys2Proof.Machine
open Sys2Proof Sys2Proof.Claims

section
variable {c : CtxNo} {s t u v : State} {x y z : Session} {a g k : Nat} {b d : Blit}

/-! ### Stores of the program, and the events of a cycle -/

theorem onSession_ses (on : onSession s t c y) : t.ses c = some y := by
  obtain ⟨-, -, own⟩ := on
  rw [State.ses, own]

theorem onSession_trans (first : onSession s t c y) (second : onSession t u c z) : onSession s u c z := by
  obtain ⟨rest, others, own⟩ := first
  obtain ⟨rest', others', own'⟩ := second
  refine ⟨?_, fun n other => (others' n other).trans (others n other), own'.trans (by rw [own])⟩
  rw [rest', rest]

theorem onSession_then (on : onSession s t c y) (f : Session → Session) : onSession s (t.modSes c f) c (f y) :=
  onSession_trans on (onSession_modSes (onSession_ses on) f)

/-- A program's store to a unit acts on its session in the cycle that passed last. -/
theorem storeRow_runs (program : s.programs c = true) (is : s.ses c = some x) (a : Nat) (w : Word) :
    onSession s (s.storeRow c a w) c (if a < 0xF880 then x.blitStore (x.cpu.now - 1) a w else x.dmaStore (x.cpu.now - 1) a w) := by
  have now : s.lastCycle c = x.cpu.now - 1 := congrArg (· - 1) (State.sesD_of is)
  unfold State.storeRow State.unitStore
  rw [if_pos program, now]
  exact onSession_modSes is _

theorem storeRow_idle (off : s.programs c = false) (a : Nat) (w : Word) : s.storeRow c a w = s :=
  if_neg (by rw [off]; exact Bool.false_ne_true)

theorem Session.unitAt_le_next {n : Nat} (next : x.unitNext = some n) : x.unitAt ≤ n := by
  unfold Session.unitNext at next
  cases of : minOpt x.blitNext x.dmaNext with
  | none => rw [of] at next; exact nomatch next
  | some m =>
    rw [of] at next
    exact Option.some.inj next ▸ Nat.le_max_left ..

/-- The units have done the events of a cycle. -/
def Session.unitsPast (g : Nat) (x : Session) : Session := { x with unitAt := g + 1, unitPre := false }

/-- Units that stand at the cycle that passed last do its events, and there are no more. -/
theorem State.unitsTo_lands (is : s.ses c = some x) (at_ : x.unitAt = g) (next : x.unitNext = some g)
    (started : s.unitPreAt c g = (u, true)) (landed : u.unitLands c g = (v, true)) (after : v.ses c = some z) :
    onSession v (s.unitsTo c g) c (z.unitsPast g) := by
  have past : onSession v (v.modSes c (·.unitsPast g)) c (z.unitsPast g) := onSession_modSes after _
  have rest : (v.modSes c (·.unitsPast g)).unitsLoop c g 1 = (v.modSes c (·.unitsPast g)).modSes c (·.unitsPast g) := by
    rw [State.unitsLoop, State.sesD_of (onSession_ses past)]
    cases more : (z.unitsPast g).unitNext with
    | none => rfl
    | some n =>
      have later : g + 1 ≤ n := Session.unitAt_le_next more
      exact if_neg (by omega)
  have loop : s.unitsTo c g = (v.modSes c (·.unitsPast g)).unitsLoop c g 1 := by
    unfold State.unitsTo
    rw [State.sesD_of is, State.sesD_of is, at_, if_neg (by simp), show g + 2 - g = 1 + 1 by omega, State.unitsLoop, State.sesD_of is,
      next]
    dsimp only
    rw [if_pos (Nat.le_refl g), started]
    dsimp only
    rw [landed]
    rfl
  rw [loop, rest]
  exact onSession_then past _

/-- The starts of a cycle that the units have performed are not performed again. -/
theorem State.unitPreAt_done (is : s.ses c = some x) (reach : unitsReach x g) : s.unitPreAt c g = (s, true) := by
  obtain ⟨-, at_, pre⟩ := reach
  unfold State.unitPreAt
  rw [State.sesD_of is, at_, pre]
  exact if_pos (by simp)

theorem State.lastCycle_reach (is : s.ses c = some x) (reach : unitsReach x g) : s.lastCycle c = g := by
  unfold State.lastCycle
  rw [State.sesD_of is, reach.1]
  rfl

/-! ### Signals of the blitter (R245, R246) -/

/-- Only the blit, its status register and its sources differ. -/
structure BlitTells (x y : Session) : Prop where
  rest : y = { x with io := y.io, int := y.int, blit := y.blit, blitEnd := y.blitEnd }
  io : ∀ a, a ≠ 0xF810 → y.ioW a = x.ioW a

theorem BlitTells.refl (x : Session) : BlitTells x x := ⟨rfl, fun _ _ => rfl⟩

theorem BlitTells.trans (f : BlitTells x y) (h : BlitTells y z) : BlitTells x z :=
  ⟨h.rest.trans (by rw [f.rest]), fun a other => (h.io a other).trans (f.io a other)⟩

theorem BlitTells.cpu (f : BlitTells x y) : y.cpu = x.cpu := by rw [f.rest]

theorem BlitTells.rows (f : BlitTells x y) : y.ioN 0xF811 = x.ioN 0xF811 := congrArg BitVec.toNat (f.io _ (by decide))

theorem statBit_tells (n : Nat) : BlitTells x (statBit n x) :=
  ⟨rfl, fun _ other => Session.ioW_orIo.trans (if_neg other)⟩

theorem statBit_set {n : Nat} (small : n < 16) : ((statBit n x).ioW 0xF810).getLsbD n = true := by
  show ((x.orIo 0xF810 (2 ^ n)).ioW 0xF810).getLsbD n = true
  rw [Session.ioW_orIo, if_pos rfl, BitVec.getLsbD_or, BitVec.getLsbD_ofNat, Nat.testBit_two_pow_self, decide_eq_true small]
  exact Bool.or_true _

theorem Session.raiseWm_tells : BlitTells x x.raiseWm := by
  unfold Session.raiseWm
  split
  · split
    · exact .refl x
    · exact BlitTells.trans (y := { x with blit := _ }) ⟨rfl, fun _ _ => rfl⟩
        (BlitTells.trans (statBit_tells 7) ⟨rfl, fun _ _ => rfl⟩)
  · exact .refl x

/-- A watermark is noted of the blit that reaches it. -/
theorem Session.raiseWm_blit (is : x.blit = some b) : ∃ m, x.raiseWm.blit = some { b with wmRaised := m } := by
  unfold Session.raiseWm
  rw [is]
  dsimp only
  split
  · exact ⟨b.wmRaised, is⟩
  · exact ⟨true, rfl⟩

theorem Session.endBlit_tells (aborted : Bool) (n : Nat) : BlitTells x (x.endBlit aborted n) := by
  have first : BlitTells x (statBit (if aborted then 2 else 1) x.raiseWm) := Session.raiseWm_tells.trans (statBit_tells _)
  unfold Session.endBlit
  dsimp only
  generalize statBit (if aborted then 2 else 1) x.raiseWm = w at first ⊢
  split
  · exact first.trans ⟨rfl, fun _ _ => rfl⟩
  · exact first.trans ⟨rfl, fun _ _ => rfl⟩

theorem Session.endBlit_ended (aborted : Bool) (n : Nat) : let y := x.endBlit aborted n
    y.blit = none ∧ y.blitEnd = n + 1 ∧ (y.ioW 0xF810).getLsbD (if aborted then 2 else 1) = true := by
  refine ⟨rfl, rfl, ?_⟩
  have bit : ((statBit (if aborted then 2 else 1) x.raiseWm).ioW 0xF810).getLsbD (if aborted then 2 else 1) = true :=
    statBit_set (by cases aborted <;> decide)
  unfold Session.endBlit
  dsimp only
  generalize (if aborted = true then 2 else 1) = m at bit ⊢
  generalize statBit m x.raiseWm = w at bit ⊢
  cases w.grand
  · exact bit
  · exact bit

/-! ### A burst that lands (R243, R245 to R247) -/

/-- The blit after its burst has landed. -/
structure BurstMoves (d : Blit) (g : Nat) (x y : Session) : Prop where
  rows : y.ioN 0xF811 = (d.rowsDone + if d.rowBursts ≤ d.burst + 1 then 1 else 0) % 65536
  cpu : y.cpu = x.cpu
  done : d.last = true ∨ d.abort = true → y.blit = none
  goes : d.last = false → d.abort = false → ∃ e, y.blit = some e ∧ e.latched = none ∧ e.start = g + 1 + d.dead ∧
    (e.row, e.burst) = if d.rowBursts ≤ d.burst + 1 then (d.row + 1, 0) else (d.row, d.burst + 1)

theorem Session.burstLanded_moves : BurstMoves d g x (x.burstLanded d g) := by
  unfold Session.burstLanded
  dsimp only
  set rowEnd := decide (d.rowBursts ≤ d.burst + 1)
  set nb : Blit := { d with
    latched := none, rowsDone := d.rowsDone + b2n rowEnd, row := if rowEnd then d.row + 1 else d.row,
    burst := if rowEnd then 0 else d.burst + 1, start := g + 1 + d.dead }
  set z : Session := { x.setIo 0xF811 (d.rowsDone + b2n rowEnd) with blit := some nb }
  have rows : z.ioN 0xF811 = (d.rowsDone + if d.rowBursts ≤ d.burst + 1 then 1 else 0) % 65536 := by
    show (x.setIo _ _).ioN 0xF811 = _
    rw [Session.ioN_setIo, if_pos rfl, b2n]
    by_cases ends : d.rowBursts ≤ d.burst + 1 <;> simp [rowEnd, ends]
  have marked : BlitTells z (if d.wmMet (d.rowsDone + b2n rowEnd) then z.raiseWm else z) ∧
      ∃ m, (if d.wmMet (d.rowsDone + b2n rowEnd) then z.raiseWm else z).blit = some { nb with wmRaised := m } := by
    split
    · exact ⟨Session.raiseWm_tells, Session.raiseWm_blit rfl⟩
    · exact ⟨.refl z, d.wmRaised, rfl⟩
  generalize (if d.wmMet (d.rowsDone + b2n rowEnd) then z.raiseWm else z) = w at marked ⊢
  obtain ⟨tells, m, blit⟩ := marked
  have ended {w' : Session} {aborted : Bool} (tells' : BlitTells z w') (no : ¬ (d.last = false ∧ d.abort = false)) :
      BurstMoves d g x (w'.endBlit aborted g) :=
    have all := tells'.trans (Session.endBlit_tells aborted g)
    ⟨all.rows.trans rows, all.cpu, fun _ => (Session.endBlit_ended aborted g).1, fun a b => absurd ⟨a, b⟩ no⟩
  by_cases last : d.last = true
  · rw [if_pos last]
    refine ended ?_ (by rw [last]; exact fun no => Bool.noConfusion no.1)
    split
    · exact tells.trans (statBit_tells 3)
    · exact tells
  · rw [if_neg last]
    by_cases abort : d.abort = true
    · rw [if_pos abort]
      exact ended tells (by rw [abort]; exact fun no => Bool.noConfusion no.2)
    · rw [if_neg abort]
      refine ⟨tells.rows.trans rows, tells.cpu, fun or_ => absurd or_ (not_or.mpr ⟨last, abort⟩), fun _ _ => ⟨_, blit, rfl, rfl, ?_⟩⟩
      by_cases ends : d.rowBursts ≤ d.burst + 1 <;> simp [nb, rowEnd, ends]

/-! ### Words that land in pages of the session's own (R237) -/

theorem journalInsert_length (e : JournalEntry) : ∀ l : List JournalEntry, (journalInsert e l).length = l.length + 1
  | [] => rfl
  | d :: l => by
    rw [journalInsert]
    split
    · rfl
    · rw [List.length_cons, journalInsert_length e l, List.length_cons]

/-- A word of V space lands in a page of the session's own, its journal with room. -/
theorem State.vWrite_owned {bank n : Nat} {w : Word} (slot : s.heldSlot c = some k) (is : s.ses c = some x)
    (own : Claims.owned s c (vPage bank (a % 65536))) (room : x.vjournal.length < 4096) :
    ∃ t y, s.vWrite c bank a w n = (t, true) ∧ t.ses c = some y ∧ y.cpu = x.cpu ∧ y.vjournal.length ≤ x.vjournal.length + 1 ∧
      t.heldSlot c = some k ∧ ∀ i, Claims.owned s c i → Claims.owned t c i := by
  obtain ⟨t, written, only⟩ := State.pageWrite_owned (off := a % 2048) (v := w) slot own
  have full : s.sesD c false (fun x => decide (4096 ≤ x.vjournal.length)) = false := by
    rw [State.sesD_of is]
    exact decide_eq_false (by omega)
  have is' : t.ses c = some x := only.ses.trans is
  unfold State.vWrite
  dsimp only
  simp only [full, Bool.false_eq_true, if_false, Bool.and_false, written]
  split
  · obtain ⟨rest, others, at_⟩ := onSession_modSes is' fun x => { x with
      vjournal := journalInsert { bank := bank, addr := a % 65536, old := s.peek c (vPage bank (a % 65536)) (a % 2048), cycle := n } x.vjournal }
    have ctx : (t.modSes c _).ctx c = _ := at_
    refine ⟨_, _, rfl, onSession_ses ⟨rest, others, at_⟩, rfl, Nat.le_of_eq (journalInsert_length _ _), ?_, fun i own => ?_⟩
    · unfold State.heldSlot
      rw [ctx]
      exact only.held.trans slot
    · obtain ⟨good, page⟩ := only.owned i own
      refine ⟨good, ?_⟩
      unfold State.page
      rw [ctx]
      exact page
  · exact ⟨t, x, rfl, is', rfl, Nat.le_succ _, only.held.trans slot, only.owned⟩

theorem State.blitWords_owned {bank n : Nat} : ∀ (l : List (Nat × Word × Word)) (s : State) (x : Session), s.heldSlot c = some k →
    s.ses c = some x → (∀ e ∈ l, Claims.owned s c (vPage bank (e.1 % 65536))) → x.vjournal.length + l.length ≤ 4096 →
    ∃ t y, s.blitWords c bank n l = (t, true) ∧ t.ses c = some y ∧ y.cpu = x.cpu
  | [], s, x, _, is, _, _ => ⟨s, x, rfl, is, rfl⟩
  | e :: l, s, x, slot, is, own, room => by
    rw [List.length_cons] at room
    have landed : ∃ t y, s.blitWord c bank n e = (t, true) ∧ t.ses c = some y ∧ y.cpu = x.cpu ∧
        y.vjournal.length ≤ x.vjournal.length + 1 ∧ t.heldSlot c = some k ∧ ∀ i, Claims.owned s c i → Claims.owned t c i := by
      unfold State.blitWord
      dsimp only
      split
      · exact ⟨s, x, rfl, is, rfl, Nat.le_succ _, slot, fun _ own => own⟩
      · exact State.vWrite_owned slot is (own e (.head l)) (by omega)
    obtain ⟨t, y, landed, at_, cpu, journal, held, kept⟩ := landed
    obtain ⟨u, z, rest, at', cpu'⟩ := State.blitWords_owned l t y held at_ (fun e mem => kept _ (own e (.tail _ mem))) (by omega)
    refine ⟨u, z, ?_, at', cpu'.trans cpu⟩
    rw [State.blitWords, landed]
    exact rest

/-! ### GO, an abort and a burst -/

theorem Session.blitStore_go : x.blitStore g 0xF800 1 = x.blitGo g := rfl

theorem Session.blitStore_abort : x.blitStore g 0xF800 2 = x.blitAbort g ∧ x.blitStore g 0xF800 3 = x.blitAbort g := ⟨rfl, rfl⟩

theorem exec_blitGo (with_ : Bool) : exec (.blitGo c with_) s = .next (s.storeRow c 0xF800 (if with_ then 3 else 1)) := rfl

theorem exec_blitAbort : exec (.blitAbort c) s = .next (s.storeRow c 0xF800 2) := rfl

theorem Session.blitGo_refused (free : x.blit = none) (past : x.blitEnd ≤ g) (no : (x.blitParams g).refused = true) :
    x.blitGo g = statBit 4 x := by
  unfold Session.blitGo
  dsimp only
  rw [free, no, if_neg (by simp; omega), if_pos rfl]

theorem Session.blitGo_starts (free : x.blit = none) (past : x.blitEnd ≤ g) (ok : (x.blitParams g).refused = false) :
    (x.blitGo g).blit = some (x.blitParams g) ∧ (x.blitGo g).ioN 0xF811 = 0 := by
  unfold Session.blitGo
  dsimp only
  rw [free, ok, if_neg (by simp; omega), if_neg Bool.false_ne_true]
  generalize x.setIo 0xF810 _ = w
  exact ⟨rfl, (Session.ioN_setIo (x := w) (a := 0xF811) (v := 0)).trans (if_pos rfl)⟩

theorem Session.blitGo_busy (busy : x.blit.isSome = true ∨ g < x.blitEnd) : x.blitGo g = x :=
  if_pos ((Bool.or_eq_true _ _).mpr (busy.imp id decide_eq_true))

theorem Session.blitAbort_between (is : x.blit = some d) (between : d.latched = none) : x.blitAbort g = x.endBlit true g := by
  unfold Session.blitAbort
  rw [is]
  dsimp only
  rw [between]
  rfl

theorem Session.blitAbort_waits (is : x.blit = some d) (moving : d.latched.isSome = true) :
    x.blitAbort g = { x with blit := some { d with abort := true } } := by
  unfold Session.blitAbort
  rw [is]
  exact if_pos moving

/-- The blit's next event is the landing in hand, where the port has none before it. -/
theorem Session.unitNext_land (is : x.blit = some d) (moving : d.latched.isSome = true) (at_ : x.unitAt = d.land) :
    x.unitNext = some d.land := by
  unfold Session.unitNext Session.blitNext
  rw [is, Option.map_some, if_pos moving]
  cases x.dmaNext with
  | none => simp [minOpt, at_]
  | some n => simp [minOpt, at_]

theorem State.unitLands_blit (is : s.ses c = some x) (port : x.dmaAct = none) (blit : x.blit = some d) {l : List (Nat × Word × Word)}
    (moving : d.latched = some l) (landed : s.blitWords c d.dbank d.land l = (v, true)) :
    s.unitLands c d.land = (v.modSes c (·.burstLanded d d.land), true) := by
  have none_ : s.dmaLand c d.land = (s, true) := by
    unfold State.dmaLand
    rw [is]
    dsimp only
    rw [port]
  unfold State.unitLands
  rw [none_]
  dsimp only
  rw [State.sesD_of is, blit]
  dsimp only
  rw [moving, if_pos (by simp)]
  unfold State.blitLand
  rw [moving, Option.getD_some, landed]

theorem exec_blitBurst (live : s.live c = true) (runs : s.idles c = false) (is : s.ses c = some x) (blit : x.blit = some d)
    (reach : unitsReach x d.land) : exec (.blitBurst c) s = .next (s.unitsTo c d.land) := by
  have found : s.sesD c none (·.blit) = some d := (State.sesD_of is).trans blit
  show Host.Outcome.next (match s.sesD c none (·.blit) with | some b => if s.live c then s.passTo c b.land else s | none => s) = _
  rw [found]
  dsimp only
  rw [if_pos live]
  unfold State.passTo
  rw [runs, State.lastCycle_reach is reach]
  rfl

/-- A burst that lands in the cycle that passed last. -/
theorem State.unitsTo_burst (is : s.ses c = some x) (port : x.dmaAct = none) (blit : x.blit = some d) {l : List (Nat × Word × Word)}
    (moving : d.latched = some l) (reach : unitsReach x d.land) (landed : s.blitWords c d.dbank d.land l = (v, true))
    (after : v.ses c = some z) : ∃ y, onSession v (s.unitsTo c d.land) c y ∧ BurstMoves d d.land z y := by
  have some_ : d.latched.isSome = true := by rw [moving]; rfl
  have burst := onSession_modSes after (·.burstLanded d d.land)
  have on := State.unitsTo_lands is reach.2.1 (Session.unitNext_land blit some_ reach.2.1) (State.unitPreAt_done is reach)
    (State.unitLands_blit is port blit moving landed) (onSession_ses burst)
  obtain ⟨rows, cpu, done, goes⟩ := Session.burstLanded_moves (d := d) (g := d.land) (x := z)
  exact ⟨(z.burstLanded d d.land).unitsPast d.land, onSession_trans burst on, rows, cpu, done, goes⟩

theorem live_held (live : s.live c = true) : ∃ k, s.heldSlot c = some k := by
  unfold State.live State.admitted at live
  rw [Bool.and_eq_true, Bool.and_eq_true] at live
  cases held : s.heldSlot c with
  | some k => exact ⟨k, rfl⟩
  | none =>
    obtain ⟨⟨admitted, -⟩, -⟩ := live
    rw [held] at admitted
    split at admitted <;> exact nomatch admitted

theorem blitterRule_kept : blitterRule := by
  intro c s x live is g b program
  refine ⟨fun runs free past => ?_, fun runs busy => ?_, fun w d runs blit => ?_, fun off w i mem => ?_,
    fun d l blit moving port _ _ runs reach => ⟨fun v z landed after _ => ?_, fun own room => ?_⟩⟩
  · rw [exec_blitGo]
    refine ⟨_, _, rfl, storeRow_runs runs is _ _, fun no => ?_, fun ok => ?_⟩
    · show (x.blitGo g).blit = none ∧ (x.blitGo g).ioW 0xF810 = _
      rw [Session.blitGo_refused free past no]
      exact ⟨free, Session.ioW_orIo.trans (if_pos rfl)⟩
    · exact Session.blitGo_starts free past ok
  · rw [exec_blitGo]
    have on := storeRow_runs runs is 0xF800 1
    rw [if_pos (by decide), Session.blitStore_go, Session.blitGo_busy busy] at on
    exact ⟨_, rfl, on⟩
  · have aborts : ∃ t, exec (if w then .blitGo c true else .blitAbort c) s = .next t ∧ onSession s t c (x.blitAbort g) := by
      cases w with
      | true =>
        have on := storeRow_runs runs is 0xF800 3
        rw [if_pos (by decide), Session.blitStore_abort.2] at on
        exact ⟨_, rfl, on⟩
      | false =>
        have on := storeRow_runs runs is 0xF800 2
        rw [if_pos (by decide), Session.blitStore_abort.1] at on
        exact ⟨_, rfl, on⟩
    obtain ⟨t, ends, on⟩ := aborts
    refine ⟨fun between => ⟨t, _, ends, on, ?_⟩, fun moving => ⟨t, ends, ?_⟩⟩
    · rw [Session.blitAbort_between blit between]
      obtain ⟨none_, end_, bit⟩ := Session.endBlit_ended (x := x) true g
      exact ⟨none_, bit, end_⟩
    · rw [Session.blitAbort_waits blit moving] at on
      exact on
  · rcases List.mem_cons.mp mem with go | abort
    · rw [go, exec_blitGo, storeRow_idle off]
    · rw [List.mem_singleton.mp abort, exec_blitAbort, storeRow_idle off]
  · obtain ⟨y, on, rows, cpu, done, goes⟩ := State.unitsTo_burst is port blit moving reach landed after
    exact ⟨_, y, exec_blitBurst live runs is blit reach, on, rows, done, goes⟩
  · obtain ⟨k, slot⟩ := live_held live
    obtain ⟨v, z, landed, after, same⟩ := State.blitWords_owned (n := d.land) l s x slot is own room
    obtain ⟨y, on, rows, cpu, done, goes⟩ := State.unitsTo_burst is port blit moving reach landed after
    exact ⟨_, y, exec_blitBurst live runs is blit reach, onSession_ses on, rows, cpu.trans same, done⟩

end

end Sys2Proof.Machine

/-! ## Session DMA (R142, R273 to R287) -/
namespace Sys2Proof.Machine
open Sys2Proof Sys2Proof.Claims

section
variable {x y z : Session} {n m : Fin 4} {r q g t w : Nat} {v : Word} {d e : DmaCh}

/-! ### Channels and their registers -/

theorem Session.ch_setCh : (x.setCh n d).ch m = if m = n then d else x.ch m := by
  unfold Session.ch Session.setCh
  rw [Vector.getElem_set]
  exact if_congr ⟨fun eq => Fin.ext eq.symm, fun eq => congrArg Fin.val eq.symm⟩ rfl rfl

theorem Session.ch_setCh_same : (x.setCh n d).ch n = d := Session.ch_setCh.trans (if_pos rfl)

theorem dmaReg_ne (other : r ≠ q) (lt : r < 32) (lt' : q < 32) : dmaReg n r ≠ dmaReg m q := by
  unfold dmaReg
  omega

theorem Session.ioW_clearEn_of_ne (other : r ≠ 0) (lt : r < 32) : (x.clearEn n).ioW (dmaReg m r) = x.ioW (dmaReg m r) := by
  unfold Session.clearEn
  rw [Session.ioW_setIo, if_neg (dmaReg_ne other lt (by decide))]

theorem clearEn_off : ¬ chEn (x.clearEn n) n := by
  unfold chEn Session.clearEn
  rw [Session.ioN_setIo, if_pos rfl]
  omega

theorem ioDesc_control (grand : Bool) (n : Fin 4) : (ioDesc grand (dmaReg n 0)).rw % 2 = 1 ∧ (ioDesc grand (dmaReg n 0)).w1c = 0 := by
  revert grand n
  decide

/-- What a store of a channel's control word leaves in it. -/
def Session.controlled (n : Fin 4) (v : Word) (x : Session) : Nat :=
  softWrite (ioDesc x.grand (dmaReg n 0)) (x.ioN (dmaReg n 0)) v.toNat

theorem Session.controlled_odd (on : v.getLsbD 0 = true) : x.controlled n v % 2 = 1 := by
  obtain ⟨rw_, w1c⟩ := ioDesc_control x.grand n
  unfold Session.controlled softWrite
  dsimp only
  have bit : (mergeBits (ioDesc x.grand (dmaReg n 0)).rw (x.ioN (dmaReg n 0)) v.toNat).testBit 0 = true := by
    rw [mergeBits_testBit]
    have low : (ioDesc x.grand (dmaReg n 0)).rw.testBit 0 = true := by rw [Nat.testBit_zero, rw_]; rfl
    rw [low]
    exact on
  rw [w1c, Nat.and_zero, Nat.and_zero, Nat.sub_zero]
  rw [Nat.testBit_zero] at bit
  exact of_decide_eq_true bit

theorem Session.dmaStore_control : x.dmaStore g (dmaReg n 0) v = x.dmaControl n g v := by
  have block : (dmaReg n 0 - 0xF880) / 32 = n := by unfold dmaReg; omega
  unfold Session.dmaStore
  dsimp only
  rw [if_neg (by unfold dmaReg; omega), if_pos (by unfold dmaReg; omega), block]
  obtain ⟨n, lt⟩ := n
  interval_cases n <;> rfl

/-! ### A channel enabled (R278, R284) -/

theorem Session.ringRun_control : (x.setIo (dmaReg n 0) w).ringRun n = x.ringRun n := by
  unfold Session.ringRun
  simp only [Session.ioW_setIo, Session.ioN_setIo, dmaReg_ne (n := n) (m := n) (r := 1) (q := 0) (by decide) (by decide) (by decide),
    dmaReg_ne (n := n) (m := n) (r := 2) (q := 0) (by decide) (by decide) (by decide),
    dmaReg_ne (n := n) (m := n) (r := 8) (q := 0) (by decide) (by decide) (by decide), if_false]

theorem Session.streamRun_control : (x.setIo (dmaReg n 0) w).streamRun n v = x.streamRun n v := by
  unfold Session.streamRun
  have ne {r : Nat} (low : 0 < r) (lt : r < 32) : dmaReg n r ≠ dmaReg n 0 := dmaReg_ne (by omega) lt (by decide)
  simp only [Session.ioW_setIo, Session.ioN_setIo, ne (r := 1) (by decide) (by decide), ne (r := 2) (by decide) (by decide),
    ne (r := 4) (by decide) (by decide), ne (r := 5) (by decide) (by decide), ne (r := 7) (by decide) (by decide),
    ne (r := 8) (by decide) (by decide), if_false]

theorem Session.dmaControl_enables (on : v.getLsbD 0 = true) (off : ¬ chEn x n) :
    x.dmaControl n g v = (x.setIo (dmaReg n 0) (x.controlled n v)).enable n v g := by
  unfold Session.dmaControl
  dsimp only
  have zero : x.ioN (dmaReg n 0) % 2 = 0 := (Nat.mod_two_eq_zero_or_one _).resolve_right off
  rw [show wbit v 0 = true from on, zero]
  rfl

/-- A ring or stream that its checks let run. -/
def Session.runOf (n : Fin 4) (v : Word) (x : Session) : Option DmaRun := if DmaCh.stream n then x.streamRun n v else x.ringRun n

theorem Session.runOf_control : (x.setIo (dmaReg n 0) w).runOf n v = x.runOf n v := by
  unfold Session.runOf
  rw [Session.streamRun_control, Session.ringRun_control]

/-- The session after EN has been written, and the ring's index with it. -/
def Session.enabled (n : Fin 4) (v : Word) (x : Session) : Session :=
  if DmaCh.stream n then x.setIo (dmaReg n 0) (x.controlled n v) else (x.setIo (dmaReg n 0) (x.controlled n v)).setIo (dmaReg n 3) 0

theorem Session.enabled_kept : let y := x.enabled n v
    y.dma = x.dma ∧ (v.getLsbD 0 = true → chEn y n) ∧ (n.val < 2 → y.ioN (dmaReg n 3) = 0) := by
  have en (on : v.getLsbD 0 = true) : x.controlled n v % 65536 % 2 = 1 := by
    have := x.controlled_odd (n := n) on
    omega
  unfold Session.enabled
  split
  · next stream =>
    refine ⟨rfl, fun on => ?_, fun low => absurd (of_decide_eq_true stream) (by omega)⟩
    unfold chEn
    rw [Session.ioN_setIo, if_pos rfl]
    exact en on
  · refine ⟨rfl, fun on => ?_, fun _ => ?_⟩
    · unfold chEn
      rw [Session.ioN_setIo, if_neg (dmaReg_ne (by decide) (by decide) (by decide)), Session.ioN_setIo, if_pos rfl]
      exact en on
    · rw [Session.ioN_setIo, if_pos rfl]

theorem Session.enable_some {run : DmaRun} (is : x.runOf n v = some run) :
    (x.setIo (dmaReg n 0) (x.controlled n v)).enable n v g =
      (x.enabled n v).setCh n (if (x.ch n).phase = .off then (x.ch n).begin (DmaCh.stream n) run (g + 1)
        else { x.ch n with next := some run, kpend := false }) := by
  have is' := (Session.runOf_control (w := x.controlled n v)).trans is
  unfold Session.runOf at is'
  unfold Session.enable
  dsimp only
  rw [is']
  dsimp only
  rw [show (x.setIo (dmaReg n 0) (x.controlled n v)).ch n = x.ch n from rfl]
  unfold Session.enabled
  split <;> rfl

theorem Session.enable_none (no : x.runOf n v = none) :
    let y := (x.setIo (dmaReg n 0) (x.controlled n v)).enable n v g
    y.dma = x.dma ∧ ¬ chEn y n ∧ (y.ioW (dmaReg n 9)).getLsbD (if DmaCh.stream n then 3 else 4) = true := by
  have no' := (Session.runOf_control (w := x.controlled n v)).trans no
  unfold Session.runOf at no'
  unfold Session.enable
  dsimp only
  rw [no']
  dsimp only
  refine ⟨rfl, clearEn_off, ?_⟩
  rw [Session.ioW_clearEn_of_ne (by decide) (by decide), Session.ioW_orIo, if_pos rfl, BitVec.getLsbD_or]
  cases DmaCh.stream n <;> exact Bool.or_true _

theorem Session.ringRun_cases : x.ringRun n = if 0xC000 < x.ioN (dmaReg n 1) + 8 * ringEntries (x.ioN (dmaReg n 2)) then none
    else some { ctrl := 0, p0 := x.ioW (dmaReg n 1), p1 := BitVec.ofNat 16 (ringEntries (x.ioN (dmaReg n 2))), dlen := 0, chunk := 0
                dbase := 0, rate := field (x.ioN (dmaReg n 8)) 0 6 } := rfl

/-! ### KICK and an abort of an enabled channel (R278, R287) -/

theorem Session.dmaControl_on (en : chEn x n) (on : v.getLsbD 0 = true) : x.dmaControl n g v =
    let y := x.setIo (dmaReg n 0) (x.controlled n v)
    let z := if v.getLsbD 2 then y.dmaAbort n g else y
    if v.getLsbD 1 && !DmaCh.stream n then z.setCh n ((z.ch n).kick g) else z := by
  unfold Session.dmaControl
  dsimp only
  have one : x.ioN (dmaReg n 0) % 2 = 1 := en
  rw [show wbit v 0 = true from on, one]
  dsimp only [wbit]
  simp only [Bool.and_false, Nat.reduceBEq, Bool.false_eq_true, if_false, BEq.rfl, Bool.and_true, Bool.not_true]
  rfl

theorem Session.dmaControl_kicks (en : chEn x n) (on : v.getLsbD 0 = true) (kick : v.getLsbD 1 = true) (stays : v.getLsbD 2 = false)
    (ring : DmaCh.stream n = false) : x.dmaControl n g v =
      (x.setIo (dmaReg n 0) (x.controlled n v)).setCh n ((x.ch n).kick g) := by
  rw [Session.dmaControl_on en on]
  dsimp only
  rw [kick, stays, ring]
  rfl

theorem Session.dmaControl_aborts (en : chEn x n) (on : v.getLsbD 0 = true) (plain : v.getLsbD 1 = false) (abort : v.getLsbD 2 = true) :
    x.dmaControl n g v = (x.setIo (dmaReg n 0) (x.controlled n v)).dmaAbort n g := by
  rw [Session.dmaControl_on en on]
  dsimp only
  rw [plain, abort]
  rfl

theorem chEn_controlled (on : v.getLsbD 0 = true) : chEn (x.setIo (dmaReg n 0) (x.controlled n v)) n := by
  unfold chEn
  rw [Session.ioN_setIo, if_pos rfl]
  have := x.controlled_odd (n := n) on
  omega

/-- The port carries nothing: an abort ends a descriptor, or a stream. -/
theorem Session.dmaAbort_run (run : (x.ch n).phase = .run) (free : x.dmaAct = none) :
    x.dmaAbort n g = if DmaCh.stream n then x.streamAbort n
      else x.setCh n (({ x.ch n with next := none, abortLate := false } : DmaCh).finish 1 g) := by
  unfold Session.dmaAbort
  dsimp only
  rw [run, free]
  rfl

theorem Session.streamAbort_stopped : let y := x.streamAbort n
    (y.ch n).phase = .off ∧ ¬ chEn y n ∧ (y.ioW (dmaReg n 9)).getLsbD 1 = true ∧ ∀ m, m ≠ n → y.ch m = x.ch m := by
  refine ⟨?_, ?_, ?_, fun m other => ?_⟩
  · show ((x.setCh n (x.ch n).stop).ch n).phase = .off
    rw [Session.ch_setCh_same]
    rfl
  · unfold chEn Session.streamAbort Session.orIo
    rw [Session.ioN_setIo, if_neg (dmaReg_ne (by decide) (by decide) (by decide))]
    exact clearEn_off
  · unfold Session.streamAbort
    rw [Session.ioW_orIo, if_pos rfl, BitVec.getLsbD_or]
    exact Bool.or_true _
  · show (x.setCh n (x.ch n).stop).ch m = x.ch m
    rw [Session.ch_setCh, if_neg other]

/-! ### An action of the port that lands (R273, R278, R280, R281, R285) -/

variable {e : DmaAct}

/-- The port's next event is the landing in hand, whatever triggers have come. -/
theorem Session.unitNext_port (act : x.dmaAct = some e) (free : x.blit = none) (at_ : x.unitAt = e.land) :
    x.unitNext = some e.land := by
  unfold Session.unitNext Session.blitNext Session.dmaNext
  rw [free, act]
  dsimp only
  rw [at_]
  cases minOpt (x.dma[2].trigs.head?) (x.dma[3].trigs.head?) with
  | none => simp [minOpt]
  | some n => simp [minOpt]

/-- Registers, sources, channels and the port alone differ. -/
def PortOnly (x y : Session) : Prop := y = { x with io := y.io, int := y.int, dma := y.dma, dmaAct := y.dmaAct }

theorem portOnly_trans (f : PortOnly x y) (h : PortOnly y z) : PortOnly x z := by
  refine h.trans ?_
  conv_lhs => rw [show y = _ from f]

theorem Session.streamLanded_port {src k : Nat} : PortOnly x (x.streamLanded n src k t) ∧ (x.streamLanded n src k t).dmaAct = x.dmaAct := by
  have events (y : Session) : PortOnly y (y.ringEvents n src k) ∧ (y.ringEvents n src k).dmaAct = y.dmaAct := by
    unfold Session.ringEvents
    dsimp only
    split <;> split <;> exact ⟨rfl, rfl⟩
  unfold Session.streamLanded
  dsimp only
  set w := (x.setIo (dmaReg n 3) _).setIo (dmaReg n 6) _
  have before : PortOnly x (w.ringEvents n src k) ∧ (w.ringEvents n src k).dmaAct = x.dmaAct :=
    ⟨portOnly_trans (y := w) (by exact rfl) (events w).1, (events w).2⟩
  generalize w.ringEvents n src k = y at before ⊢
  obtain ⟨only, act⟩ := before
  have set_ (d : DmaCh) : PortOnly x (y.setCh n d) ∧ (y.setCh n d).dmaAct = x.dmaAct := ⟨portOnly_trans only (by exact rfl), act⟩
  split
  · exact ⟨portOnly_trans only (by exact rfl), act⟩
  · split
    · exact set_ _
    · split
      · exact set_ _
      · split
        · exact set_ _
        · split
          · exact set_ _
          · exact set_ _

/-- What a write-back that is complete leaves. -/
structure BackDone (n : Fin 4) (x y : Session) : Prop where
  port : PortOnly x y ∧ y.dmaAct = x.dmaAct
  stops : (x.ch n).result = 1 ∨ (x.ch n).stopAfter = true ∧ (x.ch n).next = none → (y.ch n).phase = .off ∧ ¬ chEn y n
  starts : (x.ch n).result ≠ 1 → (x.ch n).stopAfter = true → (x.ch n).next.isSome = true → (y.ch n).phase = .fetch
  goes : (x.ch n).result ≠ 1 → (x.ch n).stopAfter = false → (x.ch n).next = none → (y.ch n).phase = .fetch ∧
    y.ioN (dmaReg n 3) = (x.ioN (dmaReg n 3) + 1) % ringEntries (x.ch n).p1.toNat

theorem Session.ioN_raised {i : IntSt} {a : Nat} : ({ x with int := i } : Session).ioN a = x.ioN a := rfl

theorem ringEntries_bounds (v : Nat) : 0 < ringEntries v ∧ ringEntries v ≤ 256 := by
  unfold ringEntries
  split <;> omega

theorem Session.backDone_done : BackDone n x (x.backDone n t) := by
  unfold Session.backDone
  dsimp only
  set y := if ((x.ch n).word 0).testBit 14 then ({ x with int := x.int.raise (5 + n.val) } : Session) else x
  have raised : (PortOnly x y ∧ y.dmaAct = x.dmaAct) ∧ y.dma = x.dma ∧ ∀ a, y.ioN a = x.ioN a := by
    unfold y
    split
    · exact ⟨⟨rfl, rfl⟩, rfl, fun _ => rfl⟩
    · exact ⟨⟨rfl, rfl⟩, rfl, fun _ => rfl⟩
  generalize y = y at raised ⊢
  obtain ⟨⟨only, act⟩, chans, io⟩ := raised
  have stop (u : Session) (port : PortOnly x u ∧ u.dmaAct = x.dmaAct) :
      (PortOnly x ((u.setCh n (x.ch n).stop).clearEn n) ∧ ((u.setCh n (x.ch n).stop).clearEn n).dmaAct = x.dmaAct) ∧
        (((u.setCh n (x.ch n).stop).clearEn n).ch n).phase = .off ∧ ¬ chEn ((u.setCh n (x.ch n).stop).clearEn n) n :=
    ⟨⟨portOnly_trans port.1 (by exact rfl), port.2⟩, congrArg DmaCh.phase (Session.ch_setCh_same (x := u)), clearEn_off⟩
  by_cases aborted : (x.ch n).result = 1
  · rw [if_pos aborted]
    obtain ⟨port, off⟩ := stop y ⟨only, act⟩
    exact ⟨port, fun _ => off, fun no => absurd aborted no, fun no => absurd aborted no⟩
  · rw [if_neg aborted]
    set u := if (x.ch n).next.isSome then y else y.setIo (dmaReg n 3) ((y.ioN (dmaReg n 3) + 1) % ringEntries (x.ch n).p1.toNat)
    have port : PortOnly x u ∧ u.dmaAct = x.dmaAct := by
      unfold u
      split
      · exact ⟨only, act⟩
      · exact ⟨portOnly_trans only (by exact rfl), act⟩
    have index : (x.ch n).next = none → u.ioN (dmaReg n 3) = (x.ioN (dmaReg n 3) + 1) % ringEntries (x.ch n).p1.toNat := by
      intro none_
      have bounds := ringEntries_bounds (x.ch n).p1.toNat
      have small := Nat.mod_lt (x.ioN (dmaReg n 3) + 1) bounds.1
      unfold u
      rw [none_, if_neg (by decide), Session.ioN_setIo, if_pos rfl, io, Nat.mod_eq_of_lt (by omega)]
    generalize u = u at port index ⊢
    by_cases ends : (x.ch n).stopAfter = true
    · rw [if_pos ends]
      cases next : (x.ch n).next with
      | none =>
        dsimp only
        obtain ⟨port', off⟩ := stop u port
        refine ⟨port', fun _ => off, fun _ _ some_ => ?_, fun _ no => ?_⟩
        · rw [next] at some_
          exact nomatch some_
        · rw [ends] at no
          exact nomatch no
      | some run =>
        dsimp only
        refine ⟨⟨portOnly_trans port.1 (by exact rfl), port.2⟩, ?_, fun _ _ _ => ?_, fun _ no => ?_⟩
        · rintro (one | ⟨-, none_⟩)
          · exact absurd one aborted
          · rw [next] at none_
            exact nomatch none_
        · rw [Session.ch_setCh_same]
          unfold DmaCh.ended
          rw [next]
          rfl
        · rw [ends] at no
          exact nomatch no
    · rw [if_neg ends]
      refine ⟨⟨portOnly_trans port.1 (by exact rfl), port.2⟩, ?_, fun _ yes => absurd yes ends, fun _ _ none_ => ⟨?_, index none_⟩⟩
      · rintro (one | ⟨yes, -⟩)
        · exact absurd one aborted
        · exact absurd yes ends
      · rw [Session.ch_setCh_same]

variable {w0 : Word}

theorem Session.actDone_fetch (phase : (x.ch e.ch).phase = .fetch) :
    x.actDone e w0 t = ({ x with dmaAct := none } : Session).setCh e.ch ((x.ch e.ch).readDone t) := by
  unfold Session.actDone
  dsimp only
  rw [phase]

theorem Session.actDone_run (phase : (x.ch e.ch).phase = .run) : x.actDone e w0 t =
    if DmaCh.stream e.ch then ({ x with dmaAct := none } : Session).streamLanded e.ch e.source e.count t
    else ({ x with dmaAct := none } : Session).setCh e.ch ((x.ch e.ch).burstLanded e.count t) := by
  unfold Session.actDone
  dsimp only
  rw [phase]

theorem Session.actDone_back (phase : (x.ch e.ch).phase = .writeBack) (count : e.count = 0) :
    x.actDone e w0 t = ({ x with dmaAct := none } : Session).backDone e.ch t := by
  unfold Session.actDone
  dsimp only
  rw [phase]
  exact if_neg (by rw [count]; decide)

/-- What an action that lands leaves of the port. -/
theorem Session.actDone_port (phase : (x.ch e.ch).phase = .fetch ∨ (x.ch e.ch).phase = .run ∨ (x.ch e.ch).phase = .writeBack ∧ e.count = 0) :
    (x.actDone e w0 t).dmaAct = none ∧ (x.actDone e w0 t).blit = x.blit := by
  rcases phase with fetch | run | ⟨back, count⟩
  · rw [Session.actDone_fetch fetch]
    exact ⟨rfl, rfl⟩
  · rw [Session.actDone_run run]
    split
    · obtain ⟨only, act⟩ := Session.streamLanded_port (x := { x with dmaAct := none }) (n := e.ch) (src := e.source) (k := e.count) (t := t)
      refine ⟨act, ?_⟩
      rw [show _ = _ from only]
    · exact ⟨rfl, rfl⟩
  · rw [Session.actDone_back back count]
    obtain ⟨only, act⟩ := (Session.backDone_done (x := { x with dmaAct := none }) (n := e.ch) (t := t)).port
    refine ⟨act, ?_⟩
    rw [show _ = _ from only]

/-! ### The port on the machine -/

variable {c : CtxNo} {s u v' : State} {k : Nat}

theorem State.unitLands_port (is : s.ses c = some x) (act : x.dmaAct = some e) (words : s.dmaWrites c e.land e.words = (v', true))
    (after : v'.ses c = some z) (free : ∀ w, (z.actDone e w e.land).blit = none) :
    ∃ w0, s.unitLands c e.land = (v'.modSes c (·.actDone e w0 e.land), true) := by
  set w0 := (v'.dmaRead c 0 0 (x.ch e.ch).descAt).2.getD 0
  have landed : s.dmaLand c e.land = (v'.modSes c (·.actDone e w0 e.land), true) := by
    unfold State.dmaLand
    rw [is]
    dsimp only
    rw [act]
    dsimp only
    rw [if_pos rfl, words]
  refine ⟨w0, ?_⟩
  unfold State.unitLands
  rw [landed]
  dsimp only
  rw [State.sesD_of (onSession_ses (onSession_modSes after _)), free]

/-- An action whose words land in the cycle that passed last. -/
theorem State.unitsTo_port (is : s.ses c = some x) (act : x.dmaAct = some e) (free : x.blit = none) (reach : unitsReach x e.land)
    (words : s.dmaWrites c e.land e.words = (v', true)) (after : v'.ses c = some z)
    (ends : ∀ w, (z.actDone e w e.land).blit = none) :
    ∃ w0, onSession v' (s.unitsTo c e.land) c ((z.actDone e w0 e.land).unitsPast e.land) := by
  obtain ⟨w0, lands⟩ := State.unitLands_port is act words after ends
  have done := onSession_modSes after (·.actDone e w0 e.land)
  exact ⟨w0, onSession_trans done (State.unitsTo_lands is reach.2.1 (Session.unitNext_port act free reach.2.1)
    (State.unitPreAt_done is reach) lands (onSession_ses done))⟩

theorem State.portAction_lands (live : s.live c = true) (runs : s.idles c = false) (is : s.ses c = some x) (act : x.dmaAct = some e)
    (reach : unitsReach x e.land) {kind : DmaPhase} {chan : Option Nat} (phase : (x.ch e.ch).phase = kind)
    (named : chan = none ∨ chan = some e.ch.val) : s.portAction c kind chan = s.unitsTo c e.land := by
  have found : ∃ t, s.sesD c none (·.actEnd kind chan) = some t := by
    refine ⟨e.land + (if e.count = 7 && kind == .writeBack then 1 else 0), ?_⟩
    rw [State.sesD_of is]
    unfold Session.actEnd
    rw [act]
    dsimp only
    refine if_pos ?_
    rw [phase, Bool.and_eq_true, Bool.or_eq_true]
    exact ⟨beq_self_eq_true kind, named.imp (fun none_ => by rw [none_]; rfl) (fun some_ => by rw [some_]; exact beq_self_eq_true _)⟩
  obtain ⟨t, found⟩ := found
  unfold State.portAction
  rw [if_pos live, found]
  dsimp only
  unfold State.passTo
  rw [runs, State.lastCycle_reach is reach]
  rfl

/-- Words of work RAM land in pages of the session's own, where no staging line holds them. -/
theorem State.dmaWrites_owned {n : Nat} : ∀ (l : List (Nat × Nat × Nat × Word)) (s : State), s.heldSlot c = some k → s.ses c = some x →
    (∀ w ∈ l, w.1 = 0 ∧ w.2.2.1 < 0xC000 ∧ Claims.owned s c (dPage w.2.2.1) ∧ x.staged (dLine w.2.2.1) = none) →
    ∃ t, s.dmaWrites c n l = (t, true) ∧ t.ses c = some x
  | [], s, _, is, _ => ⟨s, rfl, is⟩
  | e :: l, s, slot, is, own => by
    obtain ⟨ram, -, page, plain⟩ := own e (.head l)
    have unstaged : s.dropLine c (dLine e.2.2.1) = s := by
      unfold State.dropLine
      rw [State.sesD_of is, plain]
    obtain ⟨t, written, only⟩ := State.pageWrite_owned (off := e.2.2.1 % 2048) (v := e.2.2.2) slot page
    have landed : s.dmaWrite c n e = (t, true) := by
      unfold State.dmaWrite
      rw [is]
      dsimp only
      rw [if_pos ram]
      unfold State.dUnitWrite
      rw [unstaged, written]
      rfl
    obtain ⟨u, rest, at_⟩ := State.dmaWrites_owned l t (only.held.trans slot) (only.ses.trans is) fun w mem =>
      let ⟨ram, low, page, plain⟩ := own w (.tail _ mem)
      ⟨ram, low, only.owned _ page, plain⟩
    refine ⟨u, ?_, at_⟩
    rw [State.dmaWrites, landed]
    exact rest

/-! ### A trigger (R285) -/

/-- The session with its triggers of a cycle passed to its streaming channels: the channel that waits has its chunk. -/
structure Triggered (n : Fin 4) (x y : Session) : Prop where
  rest : y = { x with dma := y.dma }
  own : y.ch n = { x.ch n with left := (x.ch n).chunk.toNat, trigs := [] }
  others : ∀ m, m ≠ n → y.ch m = x.ch m

/-- A channel takes the triggers of a cycle. -/
def Session.takeTriggers (t : Nat) (n : Fin 4) (x : Session) : Session :=
  ((x.ch n).trigs.filter (· ≤ t)).foldl (fun (x : Session) _ => x.trigger n)
    (x.setCh n { x.ch n with trigs := (x.ch n).trigs.filter (t < ·) })

theorem Session.triggersAt_eq : x.triggersAt t = (x.takeTriggers t 2).takeTriggers t 3 := rfl

theorem Session.takeTriggers_none (none_ : (x.ch n).trigs = []) : (x.takeTriggers t n) = { x with dma := (x.takeTriggers t n).dma } ∧
    ∀ m, (x.takeTriggers t n).ch m = x.ch m := by
  unfold Session.takeTriggers
  rw [none_]
  refine ⟨rfl, fun m => ?_⟩
  show (x.setCh n { x.ch n with trigs := [] }).ch m = x.ch m
  rw [Session.ch_setCh]
  split
  · next is => rw [is, ← none_]
  · rfl

theorem Session.takeTriggers_one (run : (x.ch n).phase = .run) (empty : (x.ch n).left = 0) (now : (x.ch n).trigs = [t]) :
    Triggered n x (x.takeTriggers t n) := by
  have some_ : [t].filter (· ≤ t) = [t] := by simp
  have none_ : [t].filter (t < ·) = [] := by simp
  have taken : x.takeTriggers t n = (x.setCh n { x.ch n with trigs := [] }).setCh n
      { x.ch n with left := (x.ch n).chunk.toNat, trigs := [] } := by
    unfold Session.takeTriggers
    rw [now, some_, none_, List.foldl_cons, List.foldl_nil]
    unfold Session.trigger
    dsimp only
    rw [Session.ch_setCh_same, if_neg (by rw [run]; exact fun no => no rfl), if_pos empty]
  rw [taken]
  refine ⟨rfl, Session.ch_setCh_same, fun m other => ?_⟩
  rw [Session.ch_setCh, if_neg other, Session.ch_setCh, if_neg other]

/-- The one trigger of a streaming channel that waits, in the cycle that comes. -/
theorem Session.triggersAt_one (stream : 2 ≤ n.val) (run : (x.ch n).phase = .run) (empty : (x.ch n).left = 0)
    (now : (x.ch n).trigs = [t]) (others : ∀ m, m ≠ n → (x.ch m).trigs = []) : Triggered n x (x.triggersAt t) := by
  rw [Session.triggersAt_eq]
  obtain two | three : n = 2 ∨ n = 3 := by omega
  · subst two
    obtain ⟨rest, own, others'⟩ := Session.takeTriggers_one run empty now
    obtain ⟨rest', same⟩ := Session.takeTriggers_none (x := x.takeTriggers t 2) (n := 3) (t := t)
      ((congrArg DmaCh.trigs (others' 3 (by decide))).trans (others 3 (by decide)))
    exact ⟨rest'.trans (by rw [rest]), (same 2).trans own, fun m other => (same m).trans (others' m other)⟩
  · subst three
    obtain ⟨rest, same⟩ := Session.takeTriggers_none (t := t) (others 2 (by decide))
    have at_ (f : DmaCh → Prop) (is : f (x.ch 3)) : f ((x.takeTriggers t 2).ch 3) := (same 3).symm ▸ is
    obtain ⟨rest', own, others'⟩ := Session.takeTriggers_one (x := x.takeTriggers t 2) (n := 3) (t := t)
      (at_ (·.phase = .run) run) (at_ (·.left = 0) empty) (at_ (·.trigs = [t]) now)
    exact ⟨rest'.trans (by rw [rest]), own.trans (by rw [same 3]), fun m other => (others' m other).trans (same m)⟩

theorem DmaCh.startAt_off (off : d.phase = .off) : d.startAt n = none := by
  unfold DmaCh.startAt
  rw [off]

/-- With the triggered channel not ready the port starts nothing. -/
theorem Session.nextCh_none (run : (x.ch n).phase = .run) (late : g < (x.ch n).ready) (others : ∀ m, m ≠ n → (x.ch m).phase = .off) :
    x.nextCh g = none := by
  refine List.find?_eq_none.mpr fun m _ => ?_
  by_cases same : m = n
  · subst same
    unfold DmaCh.startAt
    rw [run]
    dsimp only
    by_cases waits : (DmaCh.stream m && (x.ch m).left == 0) = true
    · rw [if_pos waits]
      exact Bool.false_ne_true
    · rw [if_neg waits]
      have := Nat.le_max_left (x.ch m).ready (x.ch m).gapUntil
      exact fun no => absurd (of_decide_eq_true no) (by omega)
  · rw [DmaCh.startAt_off (others m same)]
    exact Bool.false_ne_true

/-- The next event is the trigger that has come. -/
theorem Session.unitNext_trigger (stream : 2 ≤ n.val) (run : (x.ch n).phase = .run) (empty : (x.ch n).left = 0)
    (now : (x.ch n).trigs = [g]) (others : ∀ m, m ≠ n → (x.ch m).phase = .off ∧ (x.ch m).trigs = []) (port : x.dmaAct = none)
    (free : x.blit = none) (at_ : x.unitAt = g) : x.unitNext = some g := by
  have none_ (m : Fin 4) : (x.ch m).startAt m = none := by
    by_cases same : m = n
    · subst same
      unfold DmaCh.startAt
      rw [run]
      dsimp only
      refine if_pos ?_
      rw [empty, show DmaCh.stream m = true from decide_eq_true stream]
      rfl
    · exact DmaCh.startAt_off (others m same).1
  have trigs : minOpt ((x.ch 2).trigs.head?) ((x.ch 3).trigs.head?) = some g := by
    obtain two | three : n = 2 ∨ n = 3 := by omega
    · subst two
      rw [now, (others 3 (by decide)).2]
      rfl
    · subst three
      rw [now, (others 2 (by decide)).2]
      rfl
  unfold Session.unitNext Session.blitNext Session.dmaNext
  rw [free, port]
  dsimp only
  rw [show minOpt (x.dma[2].trigs.head?) (x.dma[3].trigs.head?) = some g from trigs]
  simp only [List.foldl_cons, List.foldl_nil, none_]
  simp [minOpt, at_]

/-- The starts of a cycle performed. -/
def Session.preDone (g : Nat) (x : Session) : Session := { x with unitAt := g, unitPre := true }

theorem State.unitStarts_idle (on : onSession s (s.modSes c (·.triggersAt g)) c y) (port : y.dmaAct = none) (waits : y.nextCh g = none)
    (free : y.blit = none) : s.unitStarts c g = (s.modSes c (·.triggersAt g), true) := by
  have none_ : (s.modSes c (·.triggersAt g)).dmaStart c g = (s.modSes c (·.triggersAt g), true) := by
    unfold State.dmaStart
    rw [onSession_ses on]
    dsimp only
    rw [port, waits]
    rfl
  unfold State.unitStarts
  rw [none_]
  dsimp only
  rw [State.sesD_of (onSession_ses on), free]

theorem State.unitLands_idle (is : s.ses c = some x) (port : x.dmaAct = none) (free : x.blit = none) : s.unitLands c g = (s, true) := by
  have none_ : s.dmaLand c g = (s, true) := by
    unfold State.dmaLand
    rw [is]
    dsimp only
    rw [port]
  unfold State.unitLands
  rw [none_]
  dsimp only
  rw [State.sesD_of is, free]

theorem State.unitsTo_trigger (is : s.ses c = some x) (stream : 2 ≤ n.val) (run : (x.ch n).phase = .run) (empty : (x.ch n).left = 0)
    (now : (x.ch n).trigs = [g]) (late : g < (x.ch n).ready) (others : ∀ m, m ≠ n → (x.ch m).phase = .off ∧ (x.ch m).trigs = [])
    (port : x.dmaAct = none) (free : x.blit = none) (at_ : x.unitAt = g) (pre : x.unitPre = false) :
    ∃ y, onSession s (s.unitsTo c g) c y ∧ y.ch n = { x.ch n with left := (x.ch n).chunk.toNat, trigs := [] } ∧
      ∀ m, m ≠ n → y.ch m = x.ch m := by
  obtain ⟨rest, own, others'⟩ := Session.triggersAt_one stream run empty now fun m other => (others m other).2
  have port' : (x.triggersAt g).dmaAct = none := by rw [rest]; exact port
  have free' : (x.triggersAt g).blit = none := by rw [rest]; exact free
  have waits : (x.triggersAt g).nextCh g = none := by
    refine Session.nextCh_none (n := n) ?_ ?_ fun m other => ?_
    · rw [own]; exact run
    · rw [own]; exact late
    · rw [others' m other]; exact (others m other).1
  have next := Session.unitNext_trigger stream run empty now others port free at_
  have on : onSession s (s.modSes c (·.triggersAt g)) c (x.triggersAt g) := onSession_modSes is _
  have starts : s.unitStarts c g = (s.modSes c (·.triggersAt g), true) := State.unitStarts_idle on port' waits free'
  generalize x.triggersAt g = y at *
  generalize s.modSes c (·.triggersAt g) = s1 at on starts
  have started : s.unitPreAt c g = (s1.modSes c (·.preDone g), true) := by
    unfold State.unitPreAt
    rw [State.sesD_of is, pre, starts]
    rfl
  have on' := onSession_then on (·.preDone g)
  have lands := State.unitLands_idle (g := g) (onSession_ses on') port' free'
  exact ⟨_, onSession_trans on' (State.unitsTo_lands is at_ next started lands (onSession_ses on')), own, others'⟩

theorem exec_dmaTrigger (live : s.live c = true) (runs : s.idles c = false) (is : s.ses c = some x) (stream : 2 ≤ n.val)
    (run : (x.ch n).phase = .run) (kind : (x.ch n).trig = 1 ∨ (x.ch n).trig = 2 ∨ (x.ch n).trig = 3) (now : s.lastCycle c = g) :
    exec (.dmaTrigger c n) s = .next (s.unitsTo c g) := by
  have found : ∃ t, s.sesD c none (·.nextTrigger (s.ctx c).vclk.toNat (s.ctxBandH c) n) = some t := by
    rw [State.sesD_of is]
    unfold Session.nextTrigger
    dsimp only
    rw [if_neg (by rw [run, show DmaCh.stream n = true from decide_eq_true stream]; simp)]
    rcases kind with one | two | three
    · exact ⟨_, if_pos one⟩
    · exact ⟨_, (if_neg (by rw [two]; decide)).trans (if_pos two)⟩
    · exact ⟨_, (if_neg (by rw [three]; decide)).trans ((if_neg (by rw [three]; decide)).trans (if_pos three))⟩
  obtain ⟨t, found⟩ := found
  show Host.Outcome.next (if s.live c then
    match s.sesD c none (·.nextTrigger (s.ctx c).vclk.toNat (s.ctxBandH c) n) with
    | some t => s.passTo c t
    | none => s
  else s) = _
  rw [if_pos live, found]
  dsimp only
  unfold State.passTo
  rw [runs, now]
  rfl

/-! ### The rows -/

theorem State.storeRow_control (program : s.programs c = true) (is : s.ses c = some x) (n : Fin 4) (v : Word) :
    onSession s (s.storeRow c (dmaReg n 0) v) c (x.dmaControl n (x.cpu.now - 1) v) := by
  have on := storeRow_runs program is (dmaReg n 0) v
  rw [if_neg (by unfold dmaReg; omega), Session.dmaStore_control] at on
  exact on

theorem exec_dmaEnable (on : v.getLsbD 0 = true) : exec (.dmaEnable c n v) s = .next (s.storeRow c (dmaReg n 0) v) :=
  congrArg Host.Outcome.next (if_pos on)

/-- The bits that a KICK or an abort stores. -/
theorem State.dmaBits_bit (is : s.ses c = some x) {bits i : Nat} (small : i < 16) :
    (s.dmaBits c n bits).getLsbD i = ((x.ioN (dmaReg n 0)).testBit i || bits.testBit i) := by
  unfold State.dmaBits
  rw [State.sesD_of is, BitVec.getLsbD_ofNat, decide_eq_true small, Bool.true_and, Nat.testBit_or]

theorem DmaCh.begin_stream {run : DmaRun} (stream : Bool) : let y := d.begin stream run t
    y.phase = (if stream then .run else .fetch) ∧ y.p0 = run.p0 ∧ y.p1 = run.p1 ∧ y.ctrl = run.ctrl ∧ y.ready = t ∧
      y.left = if stream ∧ field run.ctrl.toNat 3 2 = 0 then run.chunk.toNat else 0 := ⟨rfl, rfl, rfl, rfl, rfl, rfl⟩

/-- A channel at rest that is enabled: it starts where its checks let it. -/
theorem Session.enable_rest (on : v.getLsbD 0 = true) (off : (x.ch n).phase = .off) :
    let y := (x.setIo (dmaReg n 0) (x.controlled n v)).enable n v g
    (∀ m, m ≠ n → y.ch m = x.ch m) ∧
    (∀ run, x.runOf n v = some run → y.ch n = (x.ch n).begin (DmaCh.stream n) run (g + 1) ∧ chEn y n ∧
      (n.val < 2 → y.ioN (dmaReg n 3) = 0)) ∧
    (x.runOf n v = none → (y.ch n).phase = .off ∧ ¬ chEn y n ∧
      (y.ioW (dmaReg n 9)).getLsbD (if DmaCh.stream n then 3 else 4) = true) := by
  intro y
  obtain ⟨dma, en, index⟩ := Session.enabled_kept (x := x) (n := n) (v := v)
  cases is : x.runOf n v with
  | none =>
    obtain ⟨dma', no, bit⟩ := Session.enable_none (g := g) is
    have same (m : Fin 4) : y.ch m = x.ch m := by unfold Session.ch; rw [show y.dma = x.dma from dma']
    exact ⟨fun m _ => same m, fun run no => (Option.some_ne_none run no.symm).elim, fun _ => ⟨by rw [same]; exact off, no, bit⟩⟩
  | some run =>
    have made : y = _ := Session.enable_some (g := g) is
    rw [if_pos off] at made
    refine ⟨fun m other => ?_, fun run' eq => ⟨?_, ?_, ?_⟩, fun no => (Option.some_ne_none run no).elim⟩
    · rw [made, Session.ch_setCh, if_neg other]
      unfold Session.ch
      rw [dma]
    · rw [made, Session.ch_setCh_same, ← Option.some.inj eq]
    · rw [made]
      exact en on
    · rw [made]
      exact index

theorem dmaEnables_kept (program : s.programs c = true) (is : s.ses c = some x) (on : v.getLsbD 0 = true) (off : ¬ chEn x n) :
    exec (.dmaEnable c n v) s = .next (s.storeRow c (dmaReg n 0) v) ∧
      onSession s (s.storeRow c (dmaReg n 0) v) c
        ((x.setIo (dmaReg n 0) (x.controlled n v)).enable n v (x.cpu.now - 1)) := by
  have at_ := State.storeRow_control program is n v
  rw [Session.dmaControl_enables on off] at at_
  exact ⟨exec_dmaEnable on, at_⟩

/-- The rows of a program that does not execute change nothing. -/
theorem dmaRows_idle (off : s.programs c = false) (n : Fin 4) (k : Fin 2) (v : Word) :
    ∀ i ∈ [Instr.dmaEnable c n v, .kick c k, .dmaAbort c n, .dmaFence c], exec i s = .next s := by
  intro i mem
  simp only [List.mem_cons, List.not_mem_nil, or_false] at mem
  rcases mem with rfl | rfl | rfl | rfl
  · refine congrArg Host.Outcome.next ?_
    rw [storeRow_idle off]
    exact ite_self _
  · exact congrArg Host.Outcome.next (storeRow_idle off _ _)
  · exact congrArg Host.Outcome.next (storeRow_idle off _ _)
  · exact congrArg Host.Outcome.next (if_pos (by rw [off]; rfl))

/-- A ring channel that is enabled takes a KICK. -/
theorem kick_kicks (program : s.programs c = true) (is : s.ses c = some x) (n : Fin 2) (one : x.ioN (dmaReg n 0) = 1) :
    ∃ t y, exec (.kick c n) s = .next t ∧ onSession s t c y ∧
      y.ch (n.castLE (by decide)) = (x.ch (n.castLE (by decide))).kick (x.cpu.now - 1) ∧
      ∀ m, m ≠ n.castLE (by decide) → y.ch m = x.ch m := by
  set j : Fin 4 := n.castLE (by decide)
  have en : chEn x j := by show x.ioN (dmaReg n 0) % 2 = 1; rw [one]
  have bit (i : Nat) (small : i < 16) : (s.dmaBits c j 2).getLsbD i = (Nat.testBit 1 i || Nat.testBit 2 i) := by
    rw [State.dmaBits_bit is small, show x.ioN (dmaReg j 0) = 1 from one]
  have ring : DmaCh.stream j = false := decide_eq_false (by have := n.isLt; show ¬ 2 ≤ n.val; omega)
  have on := State.storeRow_control program is j (s.dmaBits c j 2)
  rw [Session.dmaControl_kicks en (bit 0 (by decide)) (bit 1 (by decide)) (bit 2 (by decide)) ring] at on
  refine ⟨_, _, rfl, on, Session.ch_setCh_same, fun m other => ?_⟩
  rw [Session.ch_setCh, if_neg other]
  rfl

/-- An abort of a channel that is between two bursts. -/
theorem dmaAbort_ends (program : s.programs c = true) (is : s.ses c = some x) (en : chEn x n) (low : x.ioN (dmaReg n 0) % 8 = 1)
    (run : (x.ch n).phase = .run) (free : x.dmaAct = none) :
    ∃ t y, exec (.dmaAbort c n) s = .next t ∧ onSession s t c y ∧ (∀ m, m ≠ n → y.ch m = x.ch m) ∧
      (n.val < 2 → (y.ch n).phase = .writeBack ∧ (y.ch n).result = 1 ∧ chEn y n) ∧
      (2 ≤ n.val → (y.ch n).phase = .off ∧ ¬ chEn y n ∧ (y.ioW (dmaReg n 9)).getLsbD 1 = true) := by
  have low_ (i : Nat) (small : i < 3) : (x.ioN (dmaReg n 0)).testBit i = Nat.testBit 1 i := by
    rw [← low, show 8 = 2 ^ 3 from rfl, Nat.testBit_mod_two_pow, decide_eq_true small, Bool.true_and]
  have bit (i : Nat) (small : i < 3) : (s.dmaBits c n 4).getLsbD i = (Nat.testBit 1 i || Nat.testBit 4 i) := by
    rw [State.dmaBits_bit is (by omega), low_ i small]
  have on := State.storeRow_control program is n (s.dmaBits c n 4)
  rw [Session.dmaControl_aborts en (bit 0 (by decide)) (bit 1 (by decide)) (bit 2 (by decide)), Session.dmaAbort_run (x := x.setIo (dmaReg n 0) _) run free] at on
  refine ⟨_, _, rfl, on, ?_⟩
  have en' := chEn_controlled (x := x) (n := n) (bit 0 (by decide))
  by_cases stream : 2 ≤ n.val
  · rw [if_pos (show DmaCh.stream n = true from decide_eq_true stream)]
    obtain ⟨off, no, bit, others⟩ := Session.streamAbort_stopped (n := n) (x := x.setIo (dmaReg n 0) (x.controlled n (s.dmaBits c n 4)))
    exact ⟨others, fun low => absurd stream (by omega), fun _ => ⟨off, no, bit⟩⟩
  · rw [if_neg (show ¬ DmaCh.stream n = true from fun yes => stream (of_decide_eq_true yes))]
    refine ⟨fun m other => ?_, fun _ => ⟨?_, ?_, en'⟩, fun high => absurd high stream⟩
    · rw [Session.ch_setCh, if_neg other]
      rfl
    · rw [Session.ch_setCh_same]
      rfl
    · rw [Session.ch_setCh_same]
      rfl

/-! ### The rows of the port -/

/-- A row of the port whose action, of a kind a row names, lands in the cycle that passed last. -/
theorem portRow_lands (live : s.live c = true) (runs : s.idles c = false) (is : s.ses c = some x) (act : x.dmaAct = some e)
    (free : x.blit = none) (reach : unitsReach x e.land) (words : s.dmaWrites c e.land e.words = (v', true)) (after : v'.ses c = some z)
    (dma : z.dma = x.dma) (free' : z.blit = none) {kind : DmaPhase} (phase : (x.ch e.ch).phase = kind)
    (known : kind = .fetch ∨ kind = .run ∨ kind = .writeBack ∧ e.count = 0) {chan : Option Nat}
    (named : chan = none ∨ chan = some e.ch.val) :
    ∃ w0, onSession v' (s.portAction c kind chan) c ((z.actDone e w0 e.land).unitsPast e.land) ∧ (z.actDone e w0 e.land).dmaAct = none := by
  have same : z.ch e.ch = x.ch e.ch := by unfold Session.ch; rw [dma]
  have known' : (z.ch e.ch).phase = .fetch ∨ (z.ch e.ch).phase = .run ∨ (z.ch e.ch).phase = .writeBack ∧ e.count = 0 := by
    rw [same, phase]
    exact known
  rw [State.portAction_lands live runs is act reach phase named]
  obtain ⟨w0, on⟩ := State.unitsTo_port is act free reach words after fun w => (Session.actDone_port known').2.trans free'
  exact ⟨w0, on, (Session.actDone_port known').1⟩

/-- What a row of the port shows of an action that lands, its words in memory. -/
structure PortLands (c : CtxNo) (s v : State) (x z : Session) (e : DmaAct) : Prop where
  fetch : ∀ n : Fin 2, e.ch.val = n.val → (x.ch e.ch).phase = .fetch → ∃ t y, exec (.descriptorRead c n) s = .next t ∧
    onSession v t c y ∧ y.dmaAct = none ∧ y.ch e.ch = (x.ch e.ch).readDone e.land
  run : (x.ch e.ch).phase = .run → ∃ t y, exec (.dmaBurst c) s = .next t ∧ onSession v t c y ∧ y.dmaAct = none ∧
    (e.ch.val < 2 → y.ch e.ch = (x.ch e.ch).burstLanded e.count e.land)
  back : ∀ n : Fin 2, e.ch.val = n.val → (x.ch e.ch).phase = .writeBack → e.count = 0 →
    ∃ t y, exec (.writeBackDescriptor c n) s = .next t ∧ onSession v t c y ∧ y.dmaAct = none ∧
      ((x.ch e.ch).result = 1 ∨ (x.ch e.ch).stopAfter = true ∧ (x.ch e.ch).next = none → (y.ch e.ch).phase = .off ∧ ¬ chEn y e.ch) ∧
      ((x.ch e.ch).result ≠ 1 → (x.ch e.ch).stopAfter = true → (x.ch e.ch).next.isSome = true → (y.ch e.ch).phase = .fetch) ∧
      ((x.ch e.ch).result ≠ 1 → (x.ch e.ch).stopAfter = false → (x.ch e.ch).next = none → (y.ch e.ch).phase = .fetch ∧
        y.ioN (dmaReg e.ch 3) = (z.ioN (dmaReg e.ch 3) + 1) % ringEntries (x.ch e.ch).p1.toNat)

theorem portRows_land (live : s.live c = true) (runs : s.idles c = false) (is : s.ses c = some x) (act : x.dmaAct = some e)
    (free : x.blit = none) (reach : unitsReach x e.land) (words : s.dmaWrites c e.land e.words = (v', true)) (after : v'.ses c = some z)
    (dma : z.dma = x.dma) (free' : z.blit = none) : PortLands c s v' x z e := by
  have same : z.ch e.ch = x.ch e.ch := by unfold Session.ch; rw [dma]
  refine ⟨fun n named phase => ?_, fun phase => ?_, fun n named phase count => ?_⟩
  · obtain ⟨w0, on, none_⟩ := portRow_lands live runs is act free reach words after dma free' phase (.inl rfl)
      (chan := some n.val) (.inr (by rw [named]))
    refine ⟨_, _, rfl, on, none_, ?_⟩
    show (z.actDone e w0 e.land).ch e.ch = _
    rw [Session.actDone_fetch (by rw [same]; exact phase), Session.ch_setCh_same, same]
  · obtain ⟨w0, on, none_⟩ := portRow_lands live runs is act free reach words after dma free' phase (.inr (.inl rfl)) (chan := none) (.inl rfl)
    refine ⟨_, _, rfl, on, none_, fun low => ?_⟩
    show (z.actDone e w0 e.land).ch e.ch = _
    rw [Session.actDone_run (by rw [same]; exact phase), if_neg (show ¬ DmaCh.stream e.ch = true from
      fun yes => absurd (show 2 ≤ e.ch.val from of_decide_eq_true yes) (by omega)), Session.ch_setCh_same, same]
  · obtain ⟨w0, on, none_⟩ := portRow_lands live runs is act free reach words after dma free' phase (.inr (.inr ⟨rfl, count⟩))
      (chan := some n.val) (.inr (by rw [named]))
    have ends := Session.actDone_back (w0 := w0) (t := e.land) (by rw [same]; exact phase) count
    rw [ends] at on none_
    obtain ⟨-, stops, starts, goes⟩ := Session.backDone_done (x := { z with dmaAct := none }) (n := e.ch) (t := e.land)
    rw [show ({ z with dmaAct := none } : Session).ch e.ch = x.ch e.ch from same] at stops starts goes
    exact ⟨_, _, rfl, on, none_, stops, starts, goes⟩

theorem dmaRule_kept : dmaRule := by
  intro c s x live is g program
  refine ⟨dmaRows_idle, fun n v runs on off going r runOf => ?_, fun n v runs on off rest => ?_, fun n => ?_,
    fun n runs en low run free => dmaAbort_ends runs is en low run free, fun e act free runs reach => ⟨?_, ?_, ?_⟩,
    fun n high => ?_, fun runs done => ?_, fun runs behind => ?_⟩
  · obtain ⟨ends, at_⟩ := dmaEnables_kept (v := v) runs is on off
    have is' : x.runOf n v = some r := by
      rw [← runOf, Session.streamRun_control]
      exact if_congr decide_eq_true_iff rfl rfl
    have made := Session.enable_some (g := g) is'
    rw [if_neg going] at made
    obtain ⟨dma, en, index⟩ := Session.enabled_kept (x := x) (n := n) (v := v)
    rw [made] at at_
    refine ⟨_, _, ends, at_, fun m other => ?_, Session.ch_setCh_same, en on, index⟩
    rw [Session.ch_setCh, if_neg other]
    unfold Session.ch
    rw [dma]
  · obtain ⟨ends, at_⟩ := dmaEnables_kept (v := v) runs is on off
    obtain ⟨others, starts, fails⟩ := Session.enable_rest (g := g) on rest
    refine ⟨_, _, ends, at_, others, fun low => ?_, fun high => ?_⟩
    · have ring : DmaCh.stream n = false := decide_eq_false (by omega)
      have runOf : x.runOf n v = x.ringRun n := if_neg (by rw [ring]; exact Bool.false_ne_true)
      rw [runOf, Session.ringRun_cases, ring] at starts fails
      dsimp only
      split
      · next over_ => exact fails (if_pos over_)
      · next fits =>
        obtain ⟨own, en, index⟩ := starts _ (if_neg fits)
        rw [own]
        exact ⟨rfl, en, rfl, rfl, rfl, index low⟩
    · have stream : DmaCh.stream n = true := decide_eq_true high
      have runOf : x.runOf n v = x.streamRun n v := if_pos stream
      rw [runOf, stream] at starts fails
      dsimp only
      split
      · next ok =>
        have made : x.streamRun n v = some _ := if_neg (by rw [decide_eq_true ok]; decide)
        obtain ⟨own, en, -⟩ := starts _ made
        rw [own]
        refine ⟨rfl, en, rfl, ?_⟩
        show (if _ ∧ _ then (BitVec.ofNat 16 (x.ioN (dmaReg n 7))).toNat else 0) = _
        rw [BitVec.toNat_ofNat, Nat.mod_eq_of_lt Session.ioN_lt]
        exact if_congr (and_iff_right rfl) rfl rfl
      · next bad => exact fails (if_pos (by rw [decide_eq_false bad]; rfl))
  · intro k runs one
    obtain ⟨t, y, ends, on, own, others⟩ := kick_kicks runs is n one
    refine ⟨fun idle => ⟨t, y, ends, on, own.trans ?_, others⟩, fun busy on_ => ⟨t, y, ends, on, own.trans ?_, others⟩⟩
    · unfold DmaCh.kick
      rw [show (x.ch (n.castLE (by decide))).phase = .idle from idle]
    · unfold DmaCh.kick
      split
      · next off => exact absurd off on_
      · next idle => exact absurd idle busy
      · rfl
  · intro v z words after same
    obtain ⟨-, dma, free', -, -⟩ := same
    obtain ⟨fetch, run, back⟩ := portRows_land live runs is act free reach words after dma free'
    exact ⟨fetch, run, back⟩
  · intro n named empty phase
    have words : s.dmaWrites c e.land e.words = (s, true) := by rw [empty]; rfl
    obtain ⟨t, y, ends, on, none_, own⟩ := (portRows_land live runs is act free reach words is rfl free).fetch n named phase
    exact ⟨t, y, ends, onSession_ses on, none_, own⟩
  · intro own
    obtain ⟨k, slot⟩ := live_held live
    obtain ⟨v, words, after⟩ := State.dmaWrites_owned (n := e.land) e.words s slot is own
    obtain ⟨-, run, back⟩ := portRows_land live runs is act free reach words after rfl free
    refine ⟨fun phase => ?_, fun n named phase count => ?_⟩
    · obtain ⟨t, y, ends, on, none_, own⟩ := run phase
      exact ⟨t, y, ends, onSession_ses on, none_, own⟩
    · obtain ⟨t, y, ends, on, none_, -⟩ := back n named phase count
      exact ⟨t, y, ends, onSession_ses on, none_⟩
  · intro d run kind empty now late begun others port free idle at_ pre
    have last : s.lastCycle c = g := congrArg (· - 1) (State.sesD_of is)
    obtain ⟨y, on, own, others'⟩ := State.unitsTo_trigger is high run empty now late others port free at_ pre
    exact ⟨_, y, exec_dmaTrigger live idle is high run kind last, on, own, others'⟩
  · show Host.Outcome.next (if !s.programs c then s else if s.unitsBehind c then s.countFreeze c else s.reply 0) = _
    rw [runs, done]
    rfl
  · refine ⟨s.countFreeze c, ?_, ?_⟩
    · show Host.Outcome.next (if !s.programs c then s else if s.unitsBehind c then s.countFreeze c else s.reply 0) = _
      rw [runs, behind]
      rfl
    · unfold State.countFreeze
      split
      · rfl
      · split <;> rfl

end

/-- Settles O39: each row by what its store, its landing or its trigger does to the session, the words of a landing taken as they land. -/
theorem blitterAndDma : Obligations.BlitterAndDma := ⟨blitterRule_kept, dmaRule_kept⟩

end Sys2Proof.Machine

/-! ## Pages, staging lines and failing frames (R61, R64, R66 to R70, R74 to R76, R80, R81, R85) -/
namespace Sys2Proof.Machine
open Sys2Proof Sys2Proof.Claims

/-! ### Frames of memory -/

/-- An entry that does not read as the default is listed. -/
theorem Sparse.get_mem {α : Type} {d : α} {k : Nat} : ∀ {m : Sparse α}, Sparse.get d m k ≠ d → (k, Sparse.get d m k) ∈ m
  | [], h => absurd rfl h
  | (k', v) :: m, h => by
    unfold Sparse.get at h ⊢
    split at h
    · next same =>
      rw [if_pos same, same]
      exact .head _
    · next apart =>
      rw [if_neg apart]
      exact .tail _ (Sparse.get_mem h)

/-- A frame cleared reads 0; every other byte is as it was. -/
theorem memByte_memClearFrame (m : List Host.Cell) (f a : Nat) : memByte (memClearFrame m f) a = if a / 4096 = f then 0 else memByte m a := by
  have swept (l : List Host.Cell) : ∀ acc : List Host.Cell,
      memByte (l.foldl (fun acc c => if c.1 / 4096 = f then memSet acc c.1 0 else acc) acc) a =
        if a / 4096 = f ∧ a ∈ l.map (·.1) then 0 else memByte acc a := by
    induction l with
    | nil => intro acc; simp
    | cons c l ih =>
      intro acc
      rw [List.foldl_cons, ih]
      simp only [List.map_cons, List.mem_cons]
      by_cases same : a = c.1
      · subst same
        by_cases in_ : c.1 / 4096 = f <;> simp [in_, memByte_memSet]
      · by_cases in_ : c.1 / 4096 = f <;> simp [in_, memByte_memSet, same]
  rw [memClearFrame, swept]
  by_cases in_ : a / 4096 = f
  · rw [if_pos in_]
    split
    · rfl
    · next unlisted =>
      by_contra nonzero
      exact unlisted ⟨in_, Sparse.mem_of_get_ne nonzero⟩
  · rw [if_neg in_, if_neg fun both => in_ both.1]

/-- The cells of a frame written over another. -/
theorem memByte_overlay {src dst o : Nat} (within : o < 4096) : ∀ (l : List Host.Cell) (acc : List Host.Cell), Sparse.Canon (0 : Byte) l →
    memByte (l.foldl (fun acc c => if c.1 / 4096 = src then memSet acc (dst * 4096 + c.1 % 4096) c.2 else acc) acc) (4096 * dst + o) =
      if 4096 * src + o ∈ l.map (·.1) then memByte l (4096 * src + o) else memByte acc (4096 * dst + o)
  | [], acc, _ => by simp
  | (k, v) :: l, acc, canon => by
    rw [List.foldl_cons, memByte_overlay within l _ canon.tail]
    simp only [List.map_cons, List.mem_cons]
    have sorted := (List.pairwise_cons.mp canon.1).1
    by_cases same : k = 4096 * src + o
    · have once : 4096 * src + o ∉ l.map (·.1) := fun twice => by
        obtain ⟨e, mem, key⟩ := List.mem_map.mp twice
        have := sorted e mem
        dsimp only at this
        omega
      have in_ : k / 4096 = src := by omega
      rw [if_neg once, if_pos in_, memByte_memSet, if_pos (by omega), if_pos (Or.inl same.symm), memByte, Sparse.get, if_pos same]
    · have tail_ : memByte ((k, v) :: l) (4096 * src + o) = memByte l (4096 * src + o) := by rw [memByte, Sparse.get, if_neg same]; rfl
      have head_ : memByte (if k / 4096 = src then memSet acc (dst * 4096 + k % 4096) v else acc) (4096 * dst + o) =
          memByte acc (4096 * dst + o) := by
        split
        · rw [memByte_memSet, if_neg (by omega)]
        · rfl
      rw [tail_, head_]
      by_cases later : 4096 * src + o ∈ l.map (·.1)
      · rw [if_pos later, if_pos (.inr later)]
      · rw [if_neg later, if_neg fun either => either.elim (fun first => same first.symm) later]

/-- Another frame's bytes stand where the copy is not. -/
theorem memByte_memCopyFrame_other {m : List Host.Cell} {src dst a : Nat} (other : a / 4096 ≠ dst) :
    memByte (memCopyFrame m src dst) a = memByte m a := by
  have kept (l : List Host.Cell) : ∀ acc : List Host.Cell,
      memByte (l.foldl (fun acc c => if c.1 / 4096 = src then memSet acc (dst * 4096 + c.1 % 4096) c.2 else acc) acc) a = memByte acc a := by
    induction l with
    | nil => exact fun _ => rfl
    | cons c l ih =>
      intro acc
      rw [List.foldl_cons, ih]
      split
      · rw [memByte_memSet, if_neg (by omega)]
      · rfl
  rw [memCopyFrame, kept, memByte_memClearFrame, if_neg other]

/-- A copy of a frame reads as the frame did. -/
theorem memByte_memCopyFrame {m : List Host.Cell} {src dst o : Nat} (wf : memWf m = true) (within : o < 4096) :
    memByte (memCopyFrame m src dst) (4096 * dst + o) = memByte m (4096 * src + o) := by
  rw [memCopyFrame, memByte_overlay within m _ ((memWf_iff m).mp wf)]
  split
  · rfl
  · next unlisted =>
    rw [memByte_memClearFrame, if_pos (by omega)]
    by_contra nonzero
    exact unlisted (Sparse.mem_of_get_ne fun zero => nonzero zero.symm)

section
variable {s t u z : State} {c n : CtxNo} {d f g h i k : Nat} {r : FrameRec}

theorem State.copyFrame_copied (wf : memWf s.mem = true) (mem : t.mem = (s.copyFrame f g).mem) : frameCopied s t f g ∧ onlyFrame s t g := by
  refine ⟨fun o within => ?_, fun a other => ?_⟩
  · rw [mem]
    exact memByte_memCopyFrame wf within
  · rw [mem]
    exact memByte_memCopyFrame_other other

theorem State.clearFrame_cleared (mem : t.mem = (s.clearFrame f).mem) : onlyFrame s t f ∧ ∀ o, o < 2048 → t.word (4096 * f + 2 * o) = 0 := by
  have byte (a : Nat) : memByte t.mem a = if a / 4096 = f then 0 else memByte s.mem a := by
    rw [mem]
    exact memByte_memClearFrame s.mem f a
  refine ⟨fun a other => by rw [byte, if_neg other], fun o within => ?_⟩
  rw [State.word, memWord, byte, byte, if_pos (by omega), if_pos (by omega)]
  rfl

/-! ### What the movement of frames leaves -/

/-- Frames move: of the contexts the maps alone differ, and no page is allocated or freed. -/
structure PagesMove (s t : State) : Prop extends MapsOnly s t where
  reqs : t.pageReqs = s.pageReqs
  wf : memWf s.mem = true → memWf t.mem = true
  alloc : ∀ c i, (t.page c i).alloc = (s.page c i).alloc

theorem PagesMove.refl (s : State) : PagesMove s s := ⟨.refl s, rfl, id, fun _ _ => rfl⟩

theorem PagesMove.trans (a : PagesMove s t) (b : PagesMove t u) : PagesMove s u :=
  ⟨a.toMapsOnly.trans b.toMapsOnly, b.reqs.trans a.reqs, b.wf ∘ a.wf, fun c i => (b.alloc c i).trans (a.alloc c i)⟩

theorem MapsOnly.ctxDie (only : MapsOnly s t) (c : CtxNo) : t.ctxDie c = s.ctxDie c := by
  obtain ⟨p, is⟩ := only.maps c
  unfold State.ctxDie State.heldSlot State.slot
  rw [is, only.slots]

theorem MapsOnly.grand (only : MapsOnly s t) (c : CtxNo) : (t.ctx c).grand = (s.ctx c).grand := by
  obtain ⟨p, is⟩ := only.maps c
  rw [is]
  rfl

/-- What a change of frame records leaves. -/
theorem State.setFrame_moves : PagesMove s (s.setFrame f r) := by
  obtain ⟨d, ks, is⟩ := State.setFrame_rest (s := s) (f := f) r
  rw [is]
  exact ⟨.of_eq rfl rfl rfl, rfl, id, fun _ _ => rfl⟩

theorem State.modFrame_moves {e : FrameRec → FrameRec} : PagesMove s (s.modFrame f e) := State.setFrame_moves

theorem State.freeFrame_moves : PagesMove s (s.freeFrame f) :=
  State.setFrame_moves.trans ⟨.of_eq rfl rfl rfl, rfl, id, fun _ _ => rfl⟩

theorem State.takeFrame_moves (taken : s.takeFrame k r = some (f, t)) : PagesMove s t := by
  obtain ⟨f', -, same⟩ := Option.map_eq_some_iff.mp taken
  obtain ⟨rfl, rfl⟩ := Prod.mk.inj same
  exact State.setFrame_moves.trans ⟨.of_eq rfl rfl rfl, rfl, id, fun _ _ => rfl⟩

/-- The entries of a map are changed alike. -/
def Context.mapPages (e : PageEntry → PageEntry) (x : Context) : Context := { x with pages := x.pages.map (fun p => (p.1, e p.2)) }

/-- The maps of the contexts that pass a test are changed, one context after another. -/
def State.remap (test : State → CtxNo → Bool) (e : PageEntry → PageEntry) (s : State) (c : CtxNo) : State :=
  if test s c then s.modCtx c (Context.mapPages e) else s

theorem Context.page_mapPages {e : PageEntry → PageEntry} (none_ : e PageEntry.none = PageEntry.none) (x : Context) :
    (x.mapPages e).page i = e (x.page i) := by
  have mapped : ∀ m : Sparse PageEntry, Sparse.get PageEntry.none (m.map (fun p => (p.1, e p.2))) i = e (Sparse.get PageEntry.none m i) := by
    intro m
    induction m with
    | nil => exact none_.symm
    | cons p m ih =>
      rw [List.map_cons, Sparse.get, Sparse.get]
      split
      · rfl
      · exact ih
  exact mapped x.pages

/-- A change of entries that is one of the page map: nothing listed, nothing changed, and twice is once. -/
structure Settles (e : PageEntry → PageEntry) : Prop where
  none_ : e PageEntry.none = PageEntry.none
  twice : ∀ p, e (e p) = e p
  alloc : ∀ p, (e p).alloc = p.alloc

/-- A test that reads the context and the slots alone. -/
def OfContext (test : State → CtxNo → Bool) : Prop := ∀ z w : State, ∀ n, z.ctx n = w.ctx n → z.slots = w.slots → test z n = test w n

theorem namesCopy_ofContext : OfContext fun s c => s.namesCopy d f c := by
  intro z w n same slots
  dsimp only
  unfold State.namesCopy State.ctxDie State.heldSlot State.slot
  rw [same, slots]

theorem State.remap_moves {test : State → CtxNo → Bool} {e : PageEntry → PageEntry} (settles : Settles e) :
    PagesMove s (s.remap test e c) ∧ s.remap test e c = { s with ctxs := (s.remap test e c).ctxs } ∧
      (∀ n i, (s.remap test e c).page n i = s.page n i ∨ (s.remap test e c).page n i = e (s.page n i)) := by
  unfold State.remap
  split
  · have page (n : CtxNo) (i : Nat) : (s.modCtx c (Context.mapPages e)).page n i = if n = c then e (s.page n i) else s.page n i := by
      rw [State.page, State.ctx_modCtx]
      split
      · next same => subst same; exact Context.page_mapPages settles.none_ _
      · rfl
    refine ⟨⟨.modCtx fun x => ⟨_, rfl⟩, rfl, id, fun n i => ?_⟩, rfl, fun n i => ?_⟩
    · rw [page]
      split
      · exact settles.alloc _
      · rfl
    · rw [page]
      split
      · exact .inr rfl
      · exact .inl rfl
  · exact ⟨.refl s, rfl, fun _ _ => .inl rfl⟩

theorem State.ctx_remap_of_ne {test : State → CtxNo → Bool} {e : PageEntry → PageEntry} (apart : n ≠ c) : (s.remap test e c).ctx n = s.ctx n := by
  unfold State.remap
  split
  · rw [State.ctx_modCtx, if_neg apart]
  · rfl

/-- The contexts of a list, those that pass the test, have their maps changed; the others none. -/
theorem State.remaps_all {test : State → CtxNo → Bool} {e : PageEntry → PageEntry} (settles : Settles e) (of : OfContext test) :
    ∀ (l : List CtxNo) (s : State), PagesMove s (l.foldl (State.remap test e) s) ∧
      l.foldl (State.remap test e) s = { s with ctxs := (l.foldl (State.remap test e) s).ctxs } ∧
      ∀ c i, ((l.foldl (State.remap test e) s).page c i = s.page c i ∨ (l.foldl (State.remap test e) s).page c i = e (s.page c i)) ∧
        (c ∈ l → test s c = true → (l.foldl (State.remap test e) s).page c i = e (s.page c i))
  | [], s => ⟨.refl s, rfl, fun _ _ => ⟨.inl rfl, fun none_ => absurd none_ List.not_mem_nil⟩⟩
  | n :: l, s => by
    obtain ⟨first, only, pages⟩ := State.remap_moves (s := s) (c := n) (test := test) settles
    obtain ⟨rest, only', pages'⟩ := State.remaps_all settles of l (s.remap test e n)
    rw [List.foldl_cons]
    refine ⟨first.trans rest, ?_, fun c i => ⟨?_, fun mem passes => ?_⟩⟩
    · rw [only', only]
    · rcases pages c i with a | a <;> rcases (pages' c i).1 with b | b <;> rw [b, a]
      · exact .inl rfl
      · exact .inr rfl
      · exact .inr rfl
      · exact .inr (settles.twice _)
    · by_cases same : c = n
      · subst same
        have here : (s.remap test e c).page c i = e (s.page c i) := by
          rw [State.remap, if_pos passes, State.page_modCtx]
          exact Context.page_mapPages settles.none_ _
        rcases (pages' c i).1 with b | b <;> rw [b, here]
        exact settles.twice _
      · have later : c ∈ l := (List.mem_cons.mp mem).resolve_left same
        rw [(pages' c i).2 later (by
          rw [of (s.remap test e n) s c (State.ctx_remap_of_ne same) first.slots]
          exact passes)]
        rw [State.page, State.ctx_remap_of_ne same]
        rfl

/-- A context whose map names a copy is listed, and passes the test of the names. -/
theorem State.ctxNos_of_page (listed : s.page c i ≠ PageEntry.none) : c ∈ s.ctxNos ∧ (i, s.page c i) ∈ (s.ctx c).pages := by
  refine ⟨?_, Sparse.get_mem listed⟩
  have away : s.ctx c ≠ Context.reset := fun reset => listed (by rw [State.page, reset]; rfl)
  obtain ⟨e, mem, key⟩ := List.mem_map.mp (Sparse.mem_of_get_ne away)
  refine List.mem_map.mpr ⟨e, mem, ?_⟩
  rw [key]
  exact BitVec.eq_of_toNat_eq (by rw [BitVec.toNat_ofNat]; exact Nat.mod_eq_of_lt c.isLt)

theorem State.namesCopy_of_page (die : s.ctxDie c = some d) (copy : (s.page c i).gcopy = true) :
    c ∈ s.ctxNos ∧ s.namesCopy d (galleryFrame d (s.page c i).gframe.toNat) c = true := by
  obtain ⟨listed, entry⟩ := State.ctxNos_of_page (s := s) (c := c) (i := i) fun none_ => by rw [none_] at copy; cases copy
  refine ⟨listed, ?_⟩
  unfold State.namesCopy
  rw [die, beq_self_eq_true, Bool.true_and, List.any_eq_true]
  exact ⟨_, entry, by rw [copy, Bool.true_and]; exact beq_self_eq_true _⟩

theorem State.awaitsCopy_of_page (die : s.ctxDie c = some d) (flight : (s.page c i).inflight = true) :
    c ∈ s.ctxNos ∧ s.awaitsCopy d (galleryFrame d (s.page c i).gframe.toNat) c = true := by
  obtain ⟨listed, entry⟩ := State.ctxNos_of_page (s := s) (c := c) (i := i) fun none_ => by rw [none_] at flight; cases flight
  refine ⟨listed, ?_⟩
  unfold State.awaitsCopy
  rw [die, beq_self_eq_true, Bool.true_and, List.any_eq_true]
  exact ⟨_, entry, by rw [flight, Bool.true_and]; exact beq_self_eq_true _⟩

/-- The copies of a home frame are clean. -/
def PageEntry.cleanOf (h : Nat) (e : PageEntry) : PageEntry := if e.home.toNat == h then { e with dirty := false } else e

theorem cleanOf_settles : Settles (PageEntry.cleanOf h) where
  none_ := by unfold PageEntry.cleanOf; split <;> rfl
  twice e := by
    by_cases of : e.home.toNat = h <;> simp [PageEntry.cleanOf, of]
  alloc e := by unfold PageEntry.cleanOf; split <;> rfl

/-- A page without its copy in a frame. -/
def PageEntry.without (d f : Nat) (e : PageEntry) : PageEntry :=
  if e.gcopy && galleryFrame d e.gframe.toNat == f then { e with gcopy := false, dirty := false, gframe := 0 } else e

theorem without_settles : Settles (PageEntry.without d f) where
  none_ := rfl
  twice e := by
    by_cases of : (e.gcopy && galleryFrame d e.gframe.toNat == f) = true
    · rw [show PageEntry.without d f e = _ from if_pos of]
      rfl
    · rw [show PageEntry.without d f e = e from if_neg of]
      exact if_neg of
  alloc e := by unfold PageEntry.without; split <;> rfl

/-- A page whose page-in into a frame has ended. -/
def PageEntry.arrived (d f : Nat) (e : PageEntry) : PageEntry :=
  if e.inflight && galleryFrame d e.gframe.toNat == f then { e with inflight := false, gcopy := true, dirty := false } else e

theorem arrived_settles : Settles (PageEntry.arrived d f) where
  none_ := rfl
  twice e := by
    by_cases of : (e.inflight && galleryFrame d e.gframe.toNat == f) = true
    · rw [show PageEntry.arrived d f e = _ from if_pos of]
      rfl
    · rw [show PageEntry.arrived d f e = e from if_neg of]
      exact if_neg of
  alloc e := by unfold PageEntry.arrived; split <;> rfl

/-- The die of a Gallery frame's number. -/
def frameDie (f : Nat) : Nat := if f < 0x4010000 then 0 else 1

/-- The write-back of a copy to the home frame whose contents it holds. -/
theorem State.writeBackFrame_home (home : (s.frame f).home = some h) (holds : s.current h = f) (apart : f ≠ h) :
    s.writeBackFrame f = List.foldl (State.remap (fun z c => z.namesCopy (frameDie f) f c) (PageEntry.cleanOf h))
      ((s.copyFrame f h).modFrame h (fun r => { r with copy := none }))
      ((s.copyFrame f h).modFrame h (fun r => { r with copy := none })).ctxNos := by
  unfold State.writeBackFrame
  rw [home]
  exact if_pos ⟨holds, apart⟩

theorem State.copyFrame_moves : PagesMove s (s.copyFrame f g) :=
  ⟨.of_eq rfl rfl rfl, rfl, memWf_memCopyFrame f g, fun _ _ => rfl⟩

theorem State.writeBackFrame_moves : PagesMove s (s.writeBackFrame f) := by
  cases home : (s.frame f).home with
  | none =>
    unfold State.writeBackFrame
    rw [home]
    exact .refl s
  | some h =>
    by_cases back : s.current h = f ∧ f ≠ h
    · rw [State.writeBackFrame_home home back.1 back.2]
      exact (State.copyFrame_moves.trans State.modFrame_moves).trans (State.remaps_all cleanOf_settles namesCopy_ofContext _ _).1
    · unfold State.writeBackFrame
      rw [home]
      dsimp only
      rw [if_neg back]
      exact .refl s

/-- An eviction: the copy's pages go back, its entries out of the maps, and its frame is free. -/
theorem State.evictFrame_eq : s.evictFrame d f = ((s.writeBackFrame f).ctxNos.foldl
    (State.remap (fun z c => z.namesCopy d f c) (PageEntry.without d f)) (s.writeBackFrame f)).freeFrame f := rfl

theorem State.evictFrame_moves : PagesMove s (s.evictFrame d f) := by
  rw [State.evictFrame_eq]
  exact (State.writeBackFrame_moves.trans (State.remaps_all without_settles namesCopy_ofContext _ _).1).trans State.freeFrame_moves

/-- A Gallery frame is a free one, or one whose copy is evicted (R69, R70). -/
theorem State.takeGallery_either {b : Bool} (taken : s.takeGallery d b r = some (f, t)) :
    s.takeFrame (2 + d) r = some (f, t) ∨ ∃ v, (s.evictFrame d v).takeFrame (2 + d) r = some (f, t) := by
  unfold State.takeGallery at taken
  extract_lets floor at taken
  by_cases room : floor < s.freeCount (2 + d)
  · rw [if_pos room] at taken
    exact .inl taken
  · rw [if_neg room] at taken
    cases victim : s.victim d with
    | none =>
      rw [victim] at taken
      cases taken
    | some v =>
      rw [victim] at taken
      exact .inr ⟨v, taken⟩

theorem State.takeGallery_moves {b : Bool} (taken : s.takeGallery d b r = some (f, t)) : PagesMove s t := by
  rcases State.takeGallery_either taken with free | ⟨v, evicted⟩
  · exact State.takeFrame_moves free
  · exact State.evictFrame_moves.trans (State.takeFrame_moves evicted)

end
end Sys2Proof.Machine

/-! ## Page misses, first touches, copies and eviction (R61, R64, R66 to R70, R80, R81) -/
namespace Sys2Proof.Machine
open Sys2Proof Sys2Proof.Claims

section
variable {s t u z : State} {c n : CtxNo} {d f g h i k : Nat} {r : FrameRec}

/-! ### A page-in that begins (R66 to R68) -/

/-- A request that waits is counted, where it waits for a frame, and changes nothing else (R70). -/
theorem State.waitsHere_counts : ∃ m, s.waitsHere c = { s with cnt64 := m } := by
  unfold State.waitsHere
  split
  · split
    · exact ⟨_, rfl⟩
    · exact ⟨_, rfl⟩
  · exact ⟨_, rfl⟩

/-- The request a page miss makes. -/
def State.missReq (s : State) (c : CtxNo) (d h cls due : Nat) : PageReq :=
  { die := d, home := h, cls := cls, due := due, freezes := if cls = 2 ∧ s.sesD c false (fun x => !x.fast) = true then [c] else [] }

/-- A page that waits for the page-in into a frame. -/
def PageEntry.awaiting (d f : Nat) (e : PageEntry) : PageEntry :=
  { e with inflight := true, gframe := BitVec.ofNat 16 (f - galleryFrame d 0) }

/-- A page whose copy is in a frame. -/
def PageEntry.heldIn (d f : Nat) (dirty : Bool) (e : PageEntry) : PageEntry :=
  { e with gcopy := true, gframe := BitVec.ofNat 16 (f - galleryFrame d 0), dirty := dirty }

/-- A page waits for the page-in into a frame, which is asked for. -/
def State.await (c : CtxNo) (i d f : Nat) (r : PageReq) (s : State) : State := (s.modPage c i (PageEntry.awaiting d f)).askPage r

theorem State.page_modPage {e : PageEntry → PageEntry} : (s.modPage c i e).page c i = e (s.page c i) := by
  rw [State.modPage, State.page_modCtx, Context.page_setPage]
  rfl

theorem State.page_await {r : PageReq} : (s.await c i d f r).page c i = (s.page c i).awaiting d f := State.page_modPage (s := s)

/-- A request for a page that no request is for is the last. -/
theorem State.askPage_new {r : PageReq} (new : ¬ asked s r.die r.home) : (s.askPage r).pageReqs = s.pageReqs ++ [r] := by
  refine if_neg fun any => new ?_
  obtain ⟨q, mem, same⟩ := List.any_eq_true.mp any
  rw [Bool.and_eq_true, beq_iff_eq, beq_iff_eq] at same
  exact ⟨q, mem, same.1, same.2⟩

section
variable {cls due : Nat} (die : s.ctxDie c = some d) (alloc : (s.page c i).alloc = true) (copy : (s.page c i).gcopy = false)
include die alloc copy

theorem State.startPageIn_under (flight : (s.page c i).inflight = true) :
    s.startPageIn c i cls due = some (s.askPage (s.missReq c d (s.page c i).home.toNat cls due)) := by
  simp only [State.startPageIn, die, alloc, copy, flight, Bool.not_true, Bool.or_false, Bool.false_eq_true, if_false, if_true]
  rfl

theorem State.startPageIn_held (flight : (s.page c i).inflight = false) (held : s.copyOn d (s.page c i).home.toNat = some f) :
    s.startPageIn c i cls due = some (s.modPage c i (PageEntry.heldIn d f (decide (s.current (s.page c i).home.toNat = f)))) := by
  simp only [State.startPageIn, die, alloc, copy, flight, held, Bool.not_true, Bool.or_false, Bool.false_eq_true, if_false]
  rfl

theorem State.startPageIn_joins (flight : (s.page c i).inflight = false) (held : s.copyOn d (s.page c i).home.toNat = none)
    (under : s.flightOn d (s.page c i).home.toNat = some f) :
    s.startPageIn c i cls due = some (s.await c i d f (s.missReq c d (s.page c i).home.toNat cls due)) := by
  simp only [State.startPageIn, die, alloc, copy, flight, held, under, Bool.not_true, Bool.or_false, Bool.false_eq_true, if_false]
  rfl

theorem State.startPageIn_new (flight : (s.page c i).inflight = false) (held : s.copyOn d (s.page c i).home.toNat = none)
    (under : s.flightOn d (s.page c i).home.toNat = none) :
    s.startPageIn c i cls due = if s.frameUp (s.current (s.page c i).home.toNat) then
      (s.takeGallery d (decide (219 ≤ i)) { FrameRec.copyOf (s.page c i).home.toNat with pool := 2 }).map (fun p =>
        p.2.await c i d p.1 (s.missReq c d (s.page c i).home.toNat cls due)) else none := by
  simp only [State.startPageIn, die, alloc, copy, flight, held, under, Bool.not_true, Bool.or_false, Bool.false_eq_true, if_false]
  rfl

/-- A page miss of a page that is not there. -/
theorem exec_pageMiss {pg : PageIx} {by' : Requester} (is : pg.val = i) : exec (.pageMiss c ⟨pg, by'⟩) s =
    .next ((s.startPageIn c i (pageClass by') (if by' = .band then s.bandDue c else 0)).getD (s.waitsHere c)) := by
  subst is
  refine congrArg Host.Outcome.next (if_pos ?_)
  simp [die, alloc, copy]

end

theorem exec_pageMiss_idle {pg : PageIx} {by' : Requester}
    (idle : s.ctxDie c = none ∨ (s.page c pg.val).alloc = false ∨ (s.page c pg.val).gcopy = true) :
    exec (.pageMiss c ⟨pg, by'⟩) s = .next s := by
  refine congrArg Host.Outcome.next (if_neg ?_)
  rcases idle with none_ | free | there
  · simp [none_]
  · simp [free]
  · simp [there]

theorem pageMissRule_kept : pageMissRule := by
  unfold pageMissRule
  intro c pg by' s
  generalize page : pg.val = i
  let due := if by' = .band then s.bandDue c else 0
  refine ⟨fun d die alloc copy => ⟨fun flight => ⟨s.askPage (s.missReq c d (s.page c i).home.toNat (pageClass by') due), ?_, rfl⟩,
    fun flight => ⟨fun f held => ⟨s.modPage c i (PageEntry.heldIn d f (decide (s.current (s.page c i).home.toNat = f))), ?_, rfl,
      State.page_modPage⟩, fun f held under => ⟨s.await c i d f (s.missReq c d (s.page c i).home.toNat (pageClass by') due), ?_, rfl,
      State.page_await⟩, fun held under => ⟨fun f s1 up taken => ⟨s1.await c i d f (s.missReq c d (s.page c i).home.toNat (pageClass by') due),
      ?_, rfl, State.page_await, fun new => ?_⟩, fun down => ?_, fun full empty => ?_⟩⟩⟩,
    fun idle => exec_pageMiss_idle (by rw [page]; exact idle)⟩
  all_goals have runs := exec_pageMiss (by' := by') die alloc copy page
  · rw [runs, State.startPageIn_under die alloc copy flight]
    rfl
  · rw [runs, State.startPageIn_held die alloc copy flight held]
    rfl
  · rw [runs, State.startPageIn_joins die alloc copy flight held under]
    rfl
  · rw [runs, State.startPageIn_new die alloc copy flight held under, if_pos up, taken]
    rfl
  · have reqs := (State.takeGallery_moves taken).reqs
    refine ⟨s.missReq c d (s.page c i).home.toNat (pageClass by') due, ?_, rfl, rfl, rfl, rfl⟩
    rw [← reqs]
    refine State.askPage_new (s := s1.modPage c i (PageEntry.awaiting d f)) ?_
    rintro ⟨q, mem, same⟩
    exact new ⟨q, reqs ▸ mem, same⟩
  · obtain ⟨m, waits⟩ := State.waitsHere_counts (s := s) (c := c)
    refine ⟨{ s with cnt64 := m }, ?_, rfl⟩
    rw [runs, State.startPageIn_new die alloc copy flight held under, down]
    exact congrArg Host.Outcome.next waits
  · refine ⟨s.countGalWait d, ?_, rfl, ?_⟩
    · have waits : s.waitsHere c = s.countGalWait d := by
        unfold State.waitsHere
        rw [die]
        dsimp only
        rw [empty]
        rfl
      rw [runs, State.startPageIn_new die alloc copy flight held under, full, Option.map_none, ite_self]
      exact congrArg Host.Outcome.next waits
    · exact State.cnt_addCnt.trans (if_pos rfl)

/-! ### Counts -/

theorem State.countFreeze_counts : ∃ m, s.countFreeze c = { s with cnt64 := m } := by
  unfold State.countFreeze
  split
  · exact ⟨_, rfl⟩
  · split
    · exact ⟨_, rfl⟩
    · exact ⟨_, rfl⟩

theorem State.countFreezes_counts : ∀ (l : List CtxNo) (s : State), ∃ m, s.countFreezes l = { s with cnt64 := m }
  | [], s => ⟨s.cnt64, rfl⟩
  | c :: l, s => by
    obtain ⟨m, first⟩ := State.countFreeze_counts (s := s) (c := c)
    obtain ⟨m', rest⟩ := State.countFreezes_counts l { s with cnt64 := m }
    refine ⟨m', ?_⟩
    rw [State.countFreezes, List.foldl_cons, first]
    exact rest

theorem State.countSlot_counts {o m : Nat} : ∃ q, s.countSlot c o m = { s with regs := q } := by
  unfold State.countSlot
  split
  · exact ⟨_, rfl⟩
  · exact ⟨_, rfl⟩

/-! ### A page-in that ends (R66, R68) -/

/-- The frame of a page-in filled. -/
def State.filled (s : State) (f h : Nat) : State := (s.copyFrame (s.current h) f).setFrame f (FrameRec.copyOf h)

/-- The maps that waited for a frame have it. -/
def State.copyLands (s : State) (z : State) (d f : Nat) : State :=
  s.ctxNos.foldl (State.remap (fun _ c => z.awaitsCopy d f c) (PageEntry.arrived d f)) s

theorem State.endPageIn_eq (die : s.ctxDie c = some d) (flight : (s.page c i).inflight = true) : ∃ q,
    s.endPageIn c i = { (((s.filled (galleryFrame d (s.page c i).gframe.toNat) (s.page c i).home.toNat).copyLands s d
      (galleryFrame d (s.page c i).gframe.toNat)).countSlot c 0 1).touchGallery (galleryFrame d (s.page c i).gframe.toNat) with pageReqs := q } := by
  unfold State.endPageIn
  rw [die]
  dsimp only
  rw [if_pos flight]
  exact ⟨_, rfl⟩

theorem State.filled_moves : PagesMove s (s.filled f h) := State.copyFrame_moves.trans State.setFrame_moves

theorem State.filled_ctxs : (s.filled f h).ctxs = s.ctxs ∧ (s.filled f h).mem = (s.copyFrame (s.current h) f).mem := by
  obtain ⟨x, y, is⟩ := State.setFrame_rest (s := s.copyFrame (s.current h) f) (f := f) (FrameRec.copyOf h)
  rw [State.filled, is]
  exact ⟨rfl, rfl⟩

theorem State.endPageIn_arrives (die : s.ctxDie c = some d) (flight : (s.page c i).inflight = true) (wf : memWf s.mem = true)
    (frame : galleryFrame d (s.page c i).gframe.toNat = f) :
    (s.endPageIn c i).page c i = { s.page c i with inflight := false, gcopy := true, dirty := false } ∧
      (s.endPageIn c i).frame f = FrameRec.copyOf (s.page c i).home.toNat ∧
      frameCopied s (s.endPageIn c i) (s.current (s.page c i).home.toNat) f ∧ onlyFrame s (s.endPageIn c i) f := by
  generalize home : (s.page c i).home.toNat = h
  obtain ⟨ctxs, mem⟩ := State.filled_ctxs (s := s) (f := f) (h := h)
  obtain ⟨moves, only, pages⟩ := State.remaps_all (test := fun _ c => s.awaitsCopy d f c) arrived_settles (fun _ _ _ _ _ => rfl)
    (s.filled f h).ctxNos (s.filled f h)
  obtain ⟨q, is⟩ := State.endPageIn_eq die flight
  obtain ⟨m, counts⟩ := State.countSlot_counts (s := (s.filled f h).copyLands s d f) (c := c) (o := 0) (m := 1)
  rw [frame, home, counts] at is
  have entry : (s.filled f h).page c i = s.page c i := by rw [State.page, State.ctx_of_ctxs ctxs]; rfl
  have waits := State.awaitsCopy_of_page die flight
  have listed : (s.filled f h).ctxNos = s.ctxNos := by rw [State.ctxNos, ctxs]; rfl
  rw [frame] at waits
  have mem' : (s.endPageIn c i).mem = (s.copyFrame (s.current h) f).mem := by
    rw [is]
    exact (congrArg State.mem only).trans mem
  refine ⟨?_, ?_, State.copyFrame_copied wf mem'⟩
  · rw [is]
    refine ((pages c i).2 (listed ▸ waits.1) waits.2).trans ?_
    rw [entry]
    exact if_pos (by rw [flight, frame]; exact beq_self_eq_true _)
  · rw [is]
    exact (congrArg (fun z : State => z.frame f) only).trans (State.frame_setFrame.trans (if_pos rfl))

theorem exec_pageInDone {pg : PageIx} (die : s.ctxDie c = some d) (flight : (s.page c pg.val).inflight = true) {r : PageReq}
    (next : s.nextReq d = some r) (home : r.home = (s.page c pg.val).home.toNat)
    (up : s.frameUp (s.current (s.page c pg.val).home.toNat) = true) (good : s.frameBad (s.current (s.page c pg.val).home.toNat) = false) :
    exec (.pageInDone c pg) s = .next ((s.endPageIn c pg.val).countFreezes r.freezes) := by
  show Host.Outcome.next (s.pageInDone c pg.val) = _
  simp only [State.pageInDone, die, Option.bind_some, next, flight, home, up, good, beq_self_eq_true, Bool.and_self, Bool.not_true,
    Bool.false_eq_true, if_true, if_false]

theorem exec_pageInDone_idle {pg : PageIx} (die : s.ctxDie c = some d) {r : PageReq} (next : s.nextReq d = some r)
    (idle : r.home ≠ (s.page c pg.val).home.toNat ∨ s.frameUp (s.current (s.page c pg.val).home.toNat) = false) :
    exec (.pageInDone c pg) s = .next s := by
  show Host.Outcome.next (s.pageInDone c pg.val) = _
  simp only [State.pageInDone, die, Option.bind_some, next]
  rcases idle with other | down
  · rw [if_neg (by simp [other])]
  · rw [down]
    simp

/-! ### A first touch (R61, R64) -/

theorem State.setLevel_ctxs {m : Nat} {b : Bool} (small : m < 512) : (s.setLevel m b).ctxs = s.ctxs :=
  (State.setLevel_records (k := 0) small).1.ctxs

theorem State.quarRecord_ctxs {m : Nat} : (s.quarRecord c m).ctxs = s.ctxs := by
  unfold State.quarRecord
  split
  · exact State.setLevel_ctxs (s := { s with quarFifo := s.quarFifo ++ [BitVec.ofNat 32 (2 ^ 31 + m % 256 * 2 ^ 18 + c.toNat)] }) (by decide)
  · rfl

theorem State.endWaiting_none (none_ : s.noneWaits) : s.endWaiting c = s := by
  unfold State.endWaiting
  have w0 := none_ 0
  have w1 := none_ 1
  have w2 := none_ 2
  have w3 := none_ 3
  simp only [List.foldl_cons, List.foldl_nil, w0, w1, w2, w3]

/-- A session that is quarantined stands so (R434). -/
theorem State.quarantine_state {cause a p q : Nat} (live : ¬ ((s.ctx c).state = .free ∨ (s.ctx c).state = .quarantined)) (none_ : s.noneWaits) :
    ((s.quarantine c cause a p q).ctx c).state = .quarantined := by
  let s1 := if s.midBand c then (s.writeBackAll c).modSes c (fun y => { y with midBand := true }) else s.writeBackAll c
  have back : Still s s1 := by
    refine .of_ite (fun _ => State.modSes_still (fun _ => ⟨rfl, rfl, rfl⟩) ?_) fun _ => ?_
    · exact State.writeBackAll_still (.refl s)
    · exact State.writeBackAll_still (.refl s)
  have marked : Still s ((s1.freeSlot c).modCtx c (fun y => { y with state := .quarantined })) :=
    State.modCtx_still (fun _ => ⟨rfl, rfl⟩) (State.freeSlot_still back)
  have is : (((s1.freeSlot c).modCtx c (fun y => { y with state := .quarantined })).ctx c).state = .quarantined := by
    rw [State.ctx_modCtx, if_pos rfl]
  unfold State.quarantine
  dsimp only
  rw [if_neg live]
  generalize bytesBE 3 c.toNat ++ _ ++ _ ++ _ ++ _ ++ _ ++ _ ++ _ = body
  rw [State.endWaiting_none ((State.quarRecord_still (State.offer_still marked)).waits none_),
    State.ctx_of_ctxs (State.quarRecord_ctxs.trans (congrArg State.ctxs State.offer_offers.rest))]
  exact is

end
end Sys2Proof.Machine

/-! ## First touches, copies on write, write-back and eviction (R61, R63, R64, R69, R80, R81) -/
namespace Sys2Proof.Machine
open Sys2Proof Sys2Proof.Claims

section
variable {s t u z : State} {c n : CtxNo} {d f g h i k : Nat} {r : FrameRec}

/-! ### Home frames (R56, R63) -/

/-- A free frame found lies in its pool. -/
theorem State.seekFree_in {base n : Nat} (some_ : 0 < n) : ∀ {fuel i : Nat}, s.seekFree base n fuel i = some f →
    f < base + n ∧ (s.frame f).pool = 0
  | 0, _, found => nomatch found
  | fuel + 1, i, found => by
    unfold State.seekFree at found
    split at found
    · next free =>
      obtain rfl := Option.some.inj found
      exact ⟨Nat.add_lt_add_left (Nat.mod_lt _ some_) _, free⟩
    · exact State.seekFree_in some_ found

theorem vaultFrames_pos (p : Part) : 0 < vaultFrames p ∧ vaultFrames p ≤ 15728640 := by
  cases p <;> decide

/-- A Vault pool lies below frame 2^25. -/
theorem vault_within (p : Part) (vault : k < 2) : 0 < poolSize p k ∧ poolBase p k + poolSize p k ≤ 2 ^ 25 := by
  have size := vaultFrames_pos p
  unfold poolSize poolBase
  rw [if_pos vault]
  refine ⟨size.1, ?_⟩
  obtain rfl | rfl : k = 0 ∨ k = 1 := by omega
  · rw [if_pos rfl]
    omega
  · rw [if_neg Nat.one_ne_zero, if_pos rfl]
    omega

/-- A frame taken from a Vault has a number of 25 bits, and was free. -/
theorem State.takeFrame_vault (vault : k < 2) (taken : s.takeFrame k r = some (f, t)) : f < 2 ^ 25 ∧ (s.frame f).pool = 0 := by
  obtain ⟨size, within⟩ := vault_within s.part vault
  obtain ⟨f', next, same⟩ := Option.map_eq_some_iff.mp taken
  obtain ⟨rfl, -⟩ := Prod.mk.inj same
  unfold State.nextFree at next
  split at next
  · cases next
  · obtain ⟨below, free⟩ := State.seekFree_in size next
    exact ⟨by omega, free⟩

theorem State.homePool_none {b : Bool} (pool : s.homePool none b = some k) : k < 2 := by
  unfold State.homePool at pool
  dsimp only at pool
  have bit : b2n ((s.regN curBase).testBit 0) < 2 := by cases (s.regN curBase).testBit 0 <;> decide
  split at pool
  · obtain rfl := Option.some.inj pool
    exact bit
  · split at pool
    · obtain rfl := Option.some.inj pool
      omega
    · cases pool

/-- A home frame taken for a context that no slot holds (R63). -/
theorem State.takeHome_vault {b : Bool} (taken : s.takeHome none b = some (h, t)) : h < 2 ^ 25 ∧ (s.frame h).pool = 0 := by
  obtain ⟨k, pool, frame⟩ := Option.bind_eq_some_iff.mp taken
  exact State.takeFrame_vault (State.homePool_none pool) frame

theorem State.takeHome_frame {o : Option Nat} {b : Bool} (taken : s.takeHome o b = some (h, t)) (g : Nat) :
    t.frame g = if g = h then FrameRec.page else s.frame g := by
  obtain ⟨k, -, frame⟩ := Option.bind_eq_some_iff.mp taken
  exact State.takeFrame_frame frame g

theorem State.takeHome_moves {o : Option Nat} {b : Bool} (taken : s.takeHome o b = some (h, t)) : PagesMove s t := by
  obtain ⟨k, -, frame⟩ := Option.bind_eq_some_iff.mp taken
  exact State.takeFrame_moves frame

theorem State.takeHome_mem {o : Option Nat} {b : Bool} (taken : s.takeHome o b = some (h, t)) : t.mem = s.mem ∧ t.ctxs = s.ctxs := by
  obtain ⟨k, -, frame⟩ := Option.bind_eq_some_iff.mp taken
  obtain ⟨f', -, same⟩ := Option.map_eq_some_iff.mp frame
  obtain ⟨rfl, rfl⟩ := Prod.mk.inj same
  obtain ⟨x, y, is⟩ := State.setFrame_rest (s := s) (f := f') FrameRec.page
  rw [is]
  exact ⟨rfl, rfl⟩

/-! ### A page with a copy of its own -/

/-- A page whose copy is marked dirty. -/
theorem State.markDirty_page (die : s.ctxDie c = some d) (copy : (s.page c i).gcopy = true) :
    (s.markDirty c i).page c i = { s.page c i with dirty := true } := by
  unfold State.markDirty
  rw [die]
  dsimp only
  rw [if_pos copy]
  rw [State.modFrame, State.page, State.ctx_of_ctxs (State.setFrame_frames ..).1.ctxs]
  exact (State.page_modCtx (s := s) _).trans (Context.page_setPage ..)

theorem State.modPage_maps {e : PageEntry → PageEntry} : MapsOnly s (s.modPage c i e) := .modCtx fun _ => ⟨_, rfl⟩

/-- A page's entry is changed to name its new copy, which is dirty, counted and the most recent. -/
def State.placeCopy (c : CtxNo) (i f : Nat) (e : PageEntry → PageEntry) (s : State) : State :=
  (((s.modPage c i e).markDirty c i).countSlot c 4 1).touchGallery f

theorem State.placeCopy_placed {e : PageEntry → PageEntry} (die : s.ctxDie c = some d) (copy : (e (s.page c i)).gcopy = true) :
    (s.placeCopy c i f e).mem = s.mem ∧ (s.placeCopy c i f e).page c i = { e (s.page c i) with dirty := true } := by
  have entry : (s.modPage c i e).page c i = e (s.page c i) := State.page_modPage
  have die' : (s.modPage c i e).ctxDie c = some d := (State.modPage_maps.ctxDie c).trans die
  obtain ⟨mem, -⟩ := State.markDirty_resident die' (by rw [entry]; exact copy)
  have page := State.markDirty_page die' (by rw [entry]; exact copy)
  obtain ⟨q, counts⟩ := State.countSlot_counts (s := (s.modPage c i e).markDirty c i) (c := c) (o := 4) (m := 1)
  unfold State.placeCopy
  rw [counts]
  exact ⟨mem, page.trans (by rw [entry])⟩

/-! ### A first touch (R61, R64) -/

theorem exec_firstTouch {pg : PageIx} (writable : (s.ctx c).writable = true) (used : pageInUse (s.ctx c).grand pg.val = true)
    (alloc : (s.page c pg.val).alloc = false) : exec (.firstTouch c pg) s = .next (s.firstTouch c pg.val).1 := by
  refine congrArg Host.Outcome.next (if_pos ?_)
  rw [writable, used, alloc]
  rfl

theorem Context.writable_live {x : Context} (writable : x.writable = true) : ¬ (x.state = .free ∨ x.state = .quarantined) := by
  unfold Context.writable at writable
  rintro (is | is) <;> rw [is] at writable <;> exact absurd writable (by decide)

/-- The entry of a page just allocated. -/
def PageEntry.fresh (h : Nat) : PageEntry := { PageEntry.none with alloc := true, home := BitVec.ofNat 25 h }

theorem State.page_setPage {e : PageEntry} : (s.setPage c i e).page c i = e := by
  rw [State.setPage, State.page_modCtx, Context.page_setPage]

section
variable {s1 s3 : State} (alloc : (s.page c i).alloc = false)
include alloc

theorem State.firstTouch_exhausts (none_ : s.takeHome (s.ctxDie c) true = none) : s.firstTouch c i = (s.exhausted c i, false) := by
  unfold State.firstTouch
  rw [if_neg (by rw [alloc]; exact Bool.false_ne_true), none_]

theorem State.firstTouch_apart (taken : s.takeHome (s.ctxDie c) true = some (h, s1)) (die : s.ctxDie c = none) :
    s.firstTouch c i = ((s1.setPage c i (PageEntry.fresh h)).clearFrame h, true) := by
  unfold State.firstTouch
  rw [if_neg (by rw [alloc]; exact Bool.false_ne_true), taken]
  simp only [die]
  rfl

theorem State.firstTouch_waits (taken : s.takeHome (s.ctxDie c) true = some (h, s1)) (die : s.ctxDie c = some d)
    (full : (s1.setPage c i (PageEntry.fresh h)).takeGallery d (decide (219 ≤ i)) (FrameRec.copyOf h) = none) :
    s.firstTouch c i = (s.waitsHere c, false) := by
  unfold State.firstTouch
  rw [if_neg (by rw [alloc]; exact Bool.false_ne_true), taken]
  unfold PageEntry.fresh at full
  simp only [die, full]

theorem State.firstTouch_copy (taken : s.takeHome (s.ctxDie c) true = some (h, s1)) (die : s.ctxDie c = some d)
    (frame : (s1.setPage c i (PageEntry.fresh h)).takeGallery d (decide (219 ≤ i)) (FrameRec.copyOf h) = some (f, s3)) :
    s.firstTouch c i = ((s3.clearFrame f).placeCopy c i f (fun x => { x with gcopy := true, gframe := BitVec.ofNat 16 (f - galleryFrame d 0) }),
      true) := by
  unfold State.firstTouch
  rw [if_neg (by rw [alloc]; exact Bool.false_ne_true), taken]
  unfold PageEntry.fresh at frame
  simp only [die, frame]
  rfl

end

/-- The first touch of a page of a context that no slot holds. -/
theorem State.firstTouch_zero {s1 : State} (taken : s.takeHome none true = some (h, s1)) (die : s.ctxDie c = none)
    (is : t = (s1.setPage c i (PageEntry.fresh h)).clearFrame h) :
    t.page c i = PageEntry.fresh h ∧ t.frame h = FrameRec.page ∧ onlyFrame s t h ∧ ∀ o, o < 2048 → t.peek c i o = 0 := by
  obtain ⟨small, -⟩ := State.takeHome_vault taken
  obtain ⟨mem, ctxs⟩ := State.takeHome_mem taken
  have page : t.page c i = PageEntry.fresh h := by
    rw [is]
    exact State.page_setPage (s := s1)
  have frame : t.frame h = FrameRec.page := by
    rw [is]
    exact (State.takeHome_frame taken h).trans (if_pos rfl)
  have die' : t.ctxDie c = none := by
    rw [is]
    exact ((State.setPage_maps (s := s1)).ctxDie c).trans (((State.takeHome_moves taken).toMapsOnly.ctxDie c).trans die)
  have cleared := State.clearFrame_cleared (s := s) (t := t) (f := h) (by
    rw [is]
    exact congrArg (fun m => memClearFrame m h) mem)
  refine ⟨page, frame, cleared.1, fun o within => ?_⟩
  have home : (BitVec.ofNat 25 h).toNat = h := by
    rw [BitVec.toNat_ofNat]
    exact Nat.mod_eq_of_lt small
  have at_ : t.pageFrame c i = some h := by
    unfold State.pageFrame
    rw [page, die']
    show some (t.current (BitVec.ofNat 25 h).toNat) = some h
    rw [home, State.current, frame]
    rfl
  rw [State.peek, at_]
  show t.word (h * 4096 + 2 * o) = 0
  rw [Nat.mul_comm h]
  exact cleared.2 o within

theorem firstTouches (writable : (s.ctx c).writable = true) {pg : PageIx} (page : pg.val = i) (used : pageInUse (s.ctx c).grand pg.val = true)
    (alloc : (s.page c i).alloc = false) :
    (∀ j, j = b2n ((s.regN curBase).testBit 0) → s.ctxDie c = none → s.poolListed j = true → s.poolUsable j = true →
       s.poolReserve j + s.frames.length < poolSize s.part j →
       ∃ t, exec (.firstTouch c pg) s = .next t ∧ (t.page c i).alloc = true ∧ ∀ o, o < 2048 → t.peek c i o = 0) ∧
      ∀ h s1, s.takeHome (s.ctxDie c) true = some (h, s1) →
      (∀ d, s.ctxDie c = some d →
        (s1.setPage c i (PageEntry.fresh h)).takeGallery d (decide (219 ≤ i)) (FrameRec.copyOf h) = none →
        ∃ t, exec (.firstTouch c pg) s = .next t ∧ t = { s with cnt64 := t.cnt64 }) ∧
      (s.ctxDie c = none → ∃ t, exec (.firstTouch c pg) s = .next t ∧ t.page c i = PageEntry.fresh h ∧
        t.frame h = FrameRec.page ∧ onlyFrame s t h ∧ ∀ o, o < 2048 → t.peek c i o = 0) ∧
      (∀ d f s3, s.ctxDie c = some d →
        (s1.setPage c i (PageEntry.fresh h)).takeGallery d (decide (219 ≤ i)) (FrameRec.copyOf h) = some (f, s3) →
        ∃ t, exec (.firstTouch c pg) s = .next t ∧ (t.page c i).alloc = true ∧ (t.page c i).gcopy = true ∧
          (t.page c i).dirty = true ∧ onlyFrame s3 t f ∧ ∀ o, o < 2048 → t.word (4096 * f + 2 * o) = 0) := by
  subst page
  have runs := exec_firstTouch writable used alloc
  refine ⟨fun j is die listed usable room => ?_, fun h s1 taken => ⟨fun d die full => ?_, fun die => ?_, fun d f s3 die frame => ?_⟩⟩
  · subst is
    obtain ⟨h, s1, taken, -⟩ := State.takeHome_some (s := s) (die := none) (touch := true) listed (by
      show b2n _ < 2
      cases (s.regN curBase).testBit 0 <;> decide) usable room
    rw [State.firstTouch_apart alloc (die ▸ taken) die] at runs
    obtain ⟨page, -, -, zero⟩ := State.firstTouch_zero (i := pg.val) taken die rfl
    exact ⟨_, runs, by rw [page]; rfl, zero⟩
  · rw [State.firstTouch_waits alloc taken die full] at runs
    obtain ⟨m, waits⟩ := State.waitsHere_counts (s := s) (c := c)
    rw [waits] at runs
    exact ⟨_, runs, rfl⟩
  · rw [State.firstTouch_apart alloc taken die] at runs
    rw [die] at taken
    exact ⟨_, runs, State.firstTouch_zero taken die rfl⟩
  · rw [State.firstTouch_copy alloc taken die frame] at runs
    have moves := State.takeGallery_moves frame
    have there : (s3.page c pg.val).alloc = true := by
      rw [moves.alloc, State.page_setPage]
      rfl
    have die3 : (s3.clearFrame f).ctxDie c = some d :=
      (moves.toMapsOnly.ctxDie c).trans ((State.setPage_maps.ctxDie c).trans (((State.takeHome_moves taken).toMapsOnly.ctxDie c).trans die))
    obtain ⟨mem, entry⟩ := State.placeCopy_placed (s := s3.clearFrame f) (c := c) (i := pg.val) (f := f)
      (e := fun x => { x with gcopy := true, gframe := BitVec.ofNat 16 (f - galleryFrame d 0) }) die3 rfl
    refine ⟨_, runs, ?_, ?_, ?_, State.clearFrame_cleared mem⟩
    · rw [entry]
      exact there
    · rw [entry]
    · rw [entry]

/-! ### A write to a shared page (R81) -/

theorem exec_copyOnWrite_idle {pg : PageIx} (flight : (s.page c pg.val).inflight = true) : exec (.copyOnWrite c pg) s = .next s := by
  refine congrArg Host.Outcome.next (if_neg ?_)
  rw [flight]
  simp

section
variable {pg : PageIx} {s1 s3 : State} (writable : (s.ctx c).writable = true) (page : pg.val = i)
  (alloc : (s.page c i).alloc = true) (cow : (s.page c i).cow = true) (flight : (s.page c i).inflight = false)
include writable page alloc cow flight

theorem exec_copyOnWrite_last (last : (s.frame (s.page c i).home.toNat).shares.toNat ≤ 1) :
    exec (.copyOnWrite c pg) s = .next (s.copyOnWrite c i).1 := by
  subst page
  show Host.Outcome.next (s.cowPage c pg.val) = _
  unfold State.cowPage
  dsimp only
  rw [writable, alloc, cow, flight, decide_eq_false (Nat.not_lt.mpr last)]
  rfl

theorem exec_copyOnWrite_shared (shared : 1 < (s.frame (s.page c i).home.toNat).shares.toNat)
    (good : s.frameBad (s.current (s.page c i).home.toNat) = false) :
    ∃ m, exec (.copyOnWrite c pg) s = .next { (s.copyOnWrite c i).1 with cnt64 := m } := by
  subst page
  have is : s.cowPage c pg.val = if (decide (1 < (s.frame (s.page c pg.val).home.toNat).shares.toNat) && (s.copyOnWrite c pg.val).2 &&
      (s.ctxDie c).isSome) = true then (s.copyOnWrite c pg.val).1.countFreeze c else (s.copyOnWrite c pg.val).1 := by
    unfold State.cowPage
    dsimp only
    rw [writable, alloc, cow, flight, good, Bool.and_false]
    rfl
  obtain ⟨m, counts⟩ := State.countFreeze_counts (s := (s.copyOnWrite c pg.val).1) (c := c)
  rw [counts] at is
  show ∃ m, Host.Outcome.next (s.cowPage c pg.val) = _
  rw [is]
  split
  · exact ⟨m, rfl⟩
  · exact ⟨_, rfl⟩

omit writable page in
theorem State.copyOnWrite_last (last : (s.frame (s.page c i).home.toNat).shares.toNat ≤ 1) :
    s.copyOnWrite c i = (s.modPage c i (fun x => { x with cow := false }), true) := by
  unfold State.copyOnWrite
  simp only [alloc, cow, flight, last, Bool.and_self, Bool.not_true, Bool.false_eq_true, if_false, if_true]

/-- The home frame of a page with one map less. -/
def State.lessShare (s : State) (h : Nat) : State := s.modFrame h (fun r => { r with shares := r.shares - 1 })

/-- The entry of a page with a home frame of its own. -/
def PageEntry.ownHome (g : Nat) (e : PageEntry) : PageEntry := { e with cow := false, home := BitVec.ofNat 25 g }

omit writable page in
theorem State.copyOnWrite_apart (shared : 1 < (s.frame (s.page c i).home.toNat).shares.toNat)
    (taken : s.takeHome (s.ctxDie c) true = some (g, s1)) (die : s.ctxDie c = none) :
    s.copyOnWrite c i = (((s1.lessShare (s.page c i).home.toNat).copyFrame ((s1.lessShare (s.page c i).home.toNat).current
      (s.page c i).home.toNat) g).modPage c i (PageEntry.ownHome g), true) := by
  rw [die] at taken
  unfold State.copyOnWrite
  simp only [alloc, cow, flight, Nat.not_le.mpr shared, die, taken, Bool.and_self, Bool.not_true, Bool.false_eq_true, if_false]
  rfl

omit writable page in
theorem State.copyOnWrite_copy (shared : 1 < (s.frame (s.page c i).home.toNat).shares.toNat) (die : s.ctxDie c = some d)
    (taken : s.takeHome (some d) true = some (g, s1))
    (frame : (s1.lessShare (s.page c i).home.toNat).takeGallery d (decide (219 ≤ i)) (FrameRec.copyOf g) = some (f, s3)) :
    s.copyOnWrite c i = ((s3.copyFrame (s3.current (s.page c i).home.toNat) f).placeCopy c i f (fun x =>
      { x with cow := false, home := BitVec.ofNat 25 g, gcopy := true, gframe := BitVec.ofNat 16 (f - galleryFrame d 0) }), true) := by
  unfold State.lessShare at frame
  unfold State.copyOnWrite
  simp only [alloc, cow, flight, Nat.not_le.mpr shared, die, taken, frame, Bool.and_self, Bool.not_true, Bool.false_eq_true, if_false]
  rfl

end

theorem State.current_of_frame (same : (t.frame h).copy = (s.frame h).copy) : t.current h = s.current h := by
  rw [State.current, State.current, same]

theorem copiesOnWrite {pg : PageIx} (page : pg.val = i) (wf : memWf s.mem = true) (writable : (s.ctx c).writable = true)
    (alloc : (s.page c i).alloc = true) (cow : (s.page c i).cow = true) (flight : (s.page c i).inflight = false)
    (home : (s.page c i).home.toNat = h) :
    (∀ d g s1 f s3, 1 < (s.frame h).shares.toNat → s.frameBad (s.current h) = false → s.ctxDie c = some d →
      s.takeHome (some d) true = some (g, s1) →
      (s1.lessShare h).takeGallery d (decide (219 ≤ i)) (FrameRec.copyOf g) = some (f, s3) →
      ∃ t, exec (.copyOnWrite c pg) s = .next t ∧ (t.page c i).cow = false ∧
        (t.page c i).home = BitVec.ofNat 25 g ∧ (t.page c i).gcopy = true ∧ (t.page c i).dirty = true ∧
        frameCopied s3 t (s3.current h) f ∧ onlyFrame s3 t f) ∧
    ((s.frame h).shares.toNat ≤ 1 → ∃ t, exec (.copyOnWrite c pg) s = .next t ∧ t = { s with ctxs := t.ctxs } ∧
      t.page c i = { s.page c i with cow := false }) ∧
    (∀ g s1, 1 < (s.frame h).shares.toNat → (s.frame h).pool = 1 → s.frameBad (s.current h) = false →
      s.takeHome (s.ctxDie c) true = some (g, s1) → s.ctxDie c = none → ∃ t, exec (.copyOnWrite c pg) s = .next t ∧
        t.page c i = { s.page c i with cow := false, home := BitVec.ofNat 25 g } ∧
        t.frame h = { s.frame h with shares := (s.frame h).shares - 1 } ∧ frameCopied s t (s.current h) g ∧ onlyFrame s t g) := by
  subst home
  generalize home : (s.page c i).home.toNat = h
  refine ⟨fun d g s1 f s3 shared good die taken frame => ?_, fun last => ?_, fun g s1 shared held good taken die => ?_⟩
  · obtain ⟨m, runs⟩ := exec_copyOnWrite_shared writable page alloc cow flight (home ▸ shared) (home ▸ good)
    rw [State.copyOnWrite_copy alloc cow flight (home ▸ shared) die taken (home ▸ frame), home] at runs
    have moves := ((State.takeHome_moves taken).trans State.modFrame_moves).trans (State.takeGallery_moves frame)
    have die3 : (s3.copyFrame (s3.current h) f).ctxDie c = some d := (moves.toMapsOnly.ctxDie c).trans die
    obtain ⟨mem, entry⟩ := State.placeCopy_placed (s := s3.copyFrame (s3.current h) f) (c := c) (i := i) (f := f) (e := fun x =>
      { x with cow := false, home := BitVec.ofNat 25 g, gcopy := true, gframe := BitVec.ofNat 16 (f - galleryFrame d 0) }) die3 rfl
    refine ⟨_, runs, ?_⟩
    generalize State.placeCopy c i f _ _ = w at mem entry
    have entry' : State.page { w with cnt64 := m } c i = w.page c i := rfl
    rw [entry', entry]
    exact ⟨rfl, rfl, rfl, rfl, State.copyFrame_copied (moves.wf wf) mem⟩
  · have runs := exec_copyOnWrite_last writable page alloc cow flight (home ▸ last)
    rw [State.copyOnWrite_last alloc cow flight (home ▸ last)] at runs
    exact ⟨s.modPage c i (fun x => { x with cow := false }), runs, rfl, State.page_modPage (e := fun x => { x with cow := false })⟩
  · obtain ⟨m, runs⟩ := exec_copyOnWrite_shared writable page alloc cow flight (home ▸ shared) (home ▸ good)
    rw [State.copyOnWrite_apart alloc cow flight (home ▸ shared) taken die, home] at runs
    have taken' := taken
    rw [die] at taken'
    obtain ⟨-, free⟩ := State.takeHome_vault taken'
    obtain ⟨mem, ctxs⟩ := State.takeHome_mem taken
    have apart : h ≠ g := fun same => by
      rw [← same, held] at free
      cases free
    have less : (s1.lessShare h).frame h = { s.frame h with shares := (s.frame h).shares - 1 } := by
      rw [State.lessShare, State.frame_modFrame, if_pos rfl, State.takeHome_frame taken, if_neg apart]
    have from_ : (s1.lessShare h).current h = s.current h := State.current_of_frame (by rw [less])
    obtain ⟨x, y, is⟩ := State.setFrame_rest (s := s1) (f := h) { s1.frame h with shares := (s1.frame h).shares - 1 }
    have kept : (s1.lessShare h).mem = s.mem ∧ (s1.lessShare h).ctxs = s.ctxs := by
      rw [State.lessShare, State.modFrame, is]
      exact ⟨mem, ctxs⟩
    rw [from_] at runs
    refine ⟨_, runs, ?_, less, State.copyFrame_copied wf (congrArg (fun l => memCopyFrame l (s.current h) g) kept.1)⟩
    refine (State.page_modPage (s := (s1.lessShare h).copyFrame (s.current h) g)).trans ?_
    have entry : ((s1.lessShare h).copyFrame (s.current h) g).page c i = s.page c i := by
      show (s1.lessShare h).page c i = _
      rw [State.page, State.ctx_of_ctxs (t := s) kept.2]
      rfl
    rw [entry]
    rfl

/-! ### Write-back and eviction (R68, R69, R82) -/

theorem exec_writeBack_waits {pg : PageIx} (die : s.ctxDie c = some d) (busy : s.nextReq d ≠ none) : exec (.writeBack c pg) s = .next s := by
  show Host.Outcome.next (s.writeBackPage c pg.val) = _
  unfold State.writeBackPage
  rw [die]
  dsimp only
  rw [if_neg]
  rw [Bool.and_eq_true, Option.isNone_iff_eq_none]
  exact fun both => busy both.2

theorem exec_writeBack {pg : PageIx} (die : s.ctxDie c = some d) (copy : (s.page c pg.val).gcopy = true)
    (dirty : (s.page c pg.val).dirty = true) (idle : s.nextReq d = none) :
    exec (.writeBack c pg) s = .next (s.writeBackFrame (galleryFrame d (s.page c pg.val).gframe.toNat)) := by
  show Host.Outcome.next (s.writeBackPage c pg.val) = _
  unfold State.writeBackPage
  rw [die]
  dsimp only
  rw [copy, dirty, idle]
  rfl

theorem ctxDie_lt (die : s.ctxDie c = some d) : d < 2 := by
  obtain ⟨k, held, rfl⟩ := Option.map_eq_some_iff.mp die
  have small : k < 16384 := by
    have slot := (s.ctx c).slot.isLt
    unfold State.heldSlot at held
    split at held
    · exact Option.some.inj held ▸ slot
    · exact Option.some.inj held ▸ slot
    · exact Option.some.inj held ▸ slot
    · split at held
      · exact Option.some.inj held ▸ slot
      · cases held
    · cases held
  unfold slotDie
  omega

theorem frameDie_gallery (die : d < 2) {g : BitVec 16} : frameDie (galleryFrame d g.toNat) = d := by
  have small := g.isLt
  unfold frameDie galleryFrame
  obtain rfl | rfl : d = 0 ∨ d = 1 := by omega
  · rw [if_pos rfl, if_pos (by omega)]
  · rw [if_neg Nat.one_ne_zero, if_neg (by omega)]

theorem writesBack {pg : PageIx} (page : pg.val = i) (wf : memWf s.mem = true) (die : s.ctxDie c = some d) (copy : (s.page c i).gcopy = true)
    (dirty : (s.page c i).dirty = true) (idle : s.nextReq d = none) (frame : galleryFrame d (s.page c i).gframe.toNat = f)
    (home : (s.frame f).home = some h) (holds : s.current h = f) (apart : f ≠ h) :
    ∃ t, exec (.writeBack c pg) s = .next t ∧ t.current h = h ∧ frameCopied s t f h ∧ onlyFrame s t h ∧
      ((s.page c i).home.toNat = h → (t.page c i).dirty = false) := by
  subst page
  have runs := exec_writeBack die copy dirty idle
  rw [frame, State.writeBackFrame_home home holds apart] at runs
  generalize copied : (s.copyFrame f h).modFrame h (fun r => { r with copy := none }) = z at runs
  obtain ⟨x, y, is⟩ := State.setFrame_rest (s := s.copyFrame f h) (f := h) { (s.copyFrame f h).frame h with copy := none }
  have kept : z.mem = (s.copyFrame f h).mem ∧ z.ctxs = s.ctxs := by
    rw [← copied, State.modFrame, is]
    exact ⟨rfl, rfl⟩
  have die' : z.ctxDie c = some d := by
    rw [← copied, (State.modFrame_moves (s := s.copyFrame f h)).toMapsOnly.ctxDie]
    exact die
  have entry : z.page c pg.val = s.page c pg.val := by rw [State.page, State.ctx_of_ctxs kept.2]; rfl
  obtain ⟨-, only, pages⟩ := State.remaps_all (test := fun z c => z.namesCopy (frameDie f) f c) (cleanOf_settles (h := h)) namesCopy_ofContext
    z.ctxNos z
  have names := State.namesCopy_of_page (s := z) (c := c) (i := pg.val) die' (entry ▸ copy)
  rw [entry, frame] at names
  refine ⟨_, runs, ?_, ?_⟩
  · rw [only]
    have record : z.frame h = { (s.copyFrame f h).frame h with copy := none } := by
      rw [← copied]
      exact State.frame_modFrame.trans (if_pos rfl)
    show z.current h = h
    rw [State.current, record]
  · obtain ⟨same, others⟩ := State.copyFrame_copied (s := s) (f := f) (g := h) wf ((congrArg State.mem only).trans kept.1)
    refine ⟨same, others, fun of => ?_⟩
    rw [(pages c pg.val).2 names.1 (by
      have : frameDie f = d := frame ▸ frameDie_gallery (ctxDie_lt die)
      rw [this]
      exact names.2), entry]
    rw [PageEntry.cleanOf, if_pos (by rw [of]; exact beq_self_eq_true _)]

theorem without_gone (e : PageEntry) : (e.without d f).gcopy = true → galleryFrame d (e.without d f).gframe.toNat ≠ f := by
  unfold PageEntry.without
  split
  · exact fun copy => nomatch copy
  · next other =>
    intro copy same
    exact other (by rw [copy, same]; exact beq_self_eq_true _)

theorem evicts {die : Fin 2} (up : s.power.dieUp die.val = true) (victim : s.victim die.val = some f) :
    ∃ t, exec (.eviction die) s = .next t ∧ t.frame f = FrameRec.free ∧ f ∉ t.galleryOrder ∧
      ∀ c i, t.ctxDie c = some die.val → (t.page c i).gcopy = true → galleryFrame die.val (t.page c i).gframe.toNat ≠ f := by
  refine ⟨s.evictFrame die.val f, ?_, ?_⟩
  · show Host.Outcome.next (s.evict die.val) = _
    unfold State.evict
    rw [if_pos up, victim]
  · generalize die.val = d
    rw [State.evictFrame_eq]
    generalize s.writeBackFrame f = z
    obtain ⟨moves, only, pages⟩ := State.remaps_all (test := fun z c => z.namesCopy d f c) (without_settles (d := d) (f := f)) namesCopy_ofContext
      z.ctxNos z
    generalize z.ctxNos.foldl (State.remap (fun z c => z.namesCopy d f c) (PageEntry.without d f)) z = w at moves only pages
    have free : (w.freeFrame f).ctxs = w.ctxs := (State.setFrame_frames f FrameRec.free w).1.ctxs
    refine ⟨State.frame_freeFrame.trans (if_pos rfl), fun mem => ?_, fun c i die copy => ?_⟩
    · have kept := (List.mem_filter.mp (show f ∈ w.galleryOrder.filter (· != f) from mem)).2
      simp at kept
    · rw [(State.freeFrame_moves (s := w)).toMapsOnly.ctxDie, moves.toMapsOnly.ctxDie] at die
      have entry : (w.freeFrame f).page c i = w.page c i := by rw [State.page, State.ctx_of_ctxs free]; rfl
      rw [entry] at copy ⊢
      by_cases names : c ∈ z.ctxNos ∧ z.namesCopy d f c = true
      · rw [(pages c i).2 names.1 names.2] at copy ⊢
        exact without_gone _ copy
      · rcases (pages c i).1 with same | changed
        · rw [same] at copy ⊢
          intro at_
          have there := State.namesCopy_of_page die copy
          rw [at_] at there
          exact names there
        · rw [changed] at copy ⊢
          exact without_gone _ copy

theorem pagesRule_kept : pagesRule := by
  unfold pagesRule
  intro c pg s wf
  refine ⟨fun d r die flight next => ⟨fun home up good => ?_, exec_pageInDone_idle die next⟩, fun writable used alloc none_ full => ?_,
    fun writable used alloc => ?_, exec_copyOnWrite_idle, fun writable alloc cow flight => ?_, fun d die busy => exec_writeBack_waits die busy,
    fun d h die copy dirty idle home holds apart => ?_, fun d f up victim => evicts up victim⟩
  · have runs := exec_pageInDone die flight next home up good
    obtain ⟨m, counts⟩ := State.countFreezes_counts r.freezes (s.endPageIn c pg.val)
    rw [counts] at runs
    exact ⟨_, runs, State.endPageIn_arrives die flight wf rfl⟩
  · have runs := exec_firstTouch writable used alloc
    rw [State.firstTouch_exhausts alloc full] at runs
    exact ⟨_, runs, State.quarantine_state (Context.writable_live writable) none_⟩
  · obtain ⟨listed, taken⟩ := firstTouches writable rfl used alloc
    exact ⟨listed _ rfl, taken⟩
  · exact copiesOnWrite rfl wf writable alloc cow flight rfl
  · exact writesBack rfl wf die copy dirty idle rfl home holds apart

end
end Sys2Proof.Machine

/-! ## Staging lines and failing frames (R74 to R76, R85) -/
namespace Sys2Proof.Machine
open Sys2Proof Sys2Proof.Claims

section
variable {s t u z : State} {c : CtxNo} {d f h i k line : Nat} {r : FrameRec} {x y : Session} {e : StageLine}

/-! ### Staging lines (R74 to R76) -/

/-- A line brought in to a session that does not hold it. -/
def Session.lineIn (line : Nat) (x : Session) : Session := { x with staging := { tag := line, words := [] } :: x.staging }

theorem Session.stage_new (new : x.staged line = none) : x.stage line none = x.lineIn line := by
  unfold Session.stage
  rw [new]
  have kept : x.staging.filter (fun z => z.tag != line) = x.staging := by
    rw [List.filter_eq_self]
    intro e mem
    have other := List.find?_eq_none.mp new e mem
    simpa using other
  rw [kept]
  rfl

theorem State.ses_modSes_some {e : Session → Session} (is : s.ses c = some x) : (s.modSes c e).ses c = some (e x) := by
  rw [State.ses_modSes, if_pos rfl, is]
  rfl

/-- A line that leaves goes back where it was written (R75). -/
def State.lineOut (c : CtxNo) (s : State) (e : StageLine) : State :=
  if e.words.isEmpty then s else (s.ensureCopy c (dPage (64 * e.tag))).1.writeLine c e

theorem State.trimLines_of (is : s.ses c = some x) : s.trimLines c =
    (((x.staging.drop (max 1 x.share)).foldl (State.lineOut c) s).modSes c (fun x' => { x' with staging := x'.staging.take (max 1 x.share) })) := by
  unfold State.trimLines
  simp only [State.sesD, is]
  rfl

/-- The miss of a line brings it in as the most recent, and the lines beyond the share leave (R75). -/
theorem State.useLine_miss (is : s.ses c = some x) (exact_ : x.fast = false) (new : x.staged line = none) : ∃ m,
    s.useLine c line none = ((x.staging.drop (max 1 x.share - 1)).foldl (State.lineOut c)
      (({ s with cnt64 := m }).modSes c (·.stage line none))).modSes c
      (fun x' => { x' with staging := x'.staging.take (max 1 x.share) }) := by
  obtain ⟨m, counts⟩ := State.countFreeze_counts (s := s) (c := c)
  refine ⟨m, ?_⟩
  have held : (({ s with cnt64 := m }).modSes c (·.stage line none)).ses c = some (x.lineIn line) := by
    rw [← Session.stage_new new]
    exact State.ses_modSes_some (s := { s with cnt64 := m }) is
  unfold State.useLine
  simp only [State.sesD, is, exact_, new, Option.isSome_none, Bool.false_eq_true, if_false, counts]
  rw [State.trimLines_of held]
  have drop : (x.lineIn line).staging.drop (max 1 x.share) = x.staging.drop (max 1 x.share - 1) := by
    obtain ⟨n, is⟩ : ∃ n, max 1 x.share = n + 1 := ⟨max 1 x.share - 1, by omega⟩
    rw [is]
    rfl
  exact congrArg (fun l : List StageLine => ((l.foldl (State.lineOut c) (({ s with cnt64 := m }).modSes c (·.stage line none))).modSes c
    (fun x' => { x' with staging := x'.staging.take (max 1 x.share) }))) drop

theorem State.linesOut_clean : ∀ (l : List StageLine) (s : State), (∀ e ∈ l, e.words = []) → l.foldl (State.lineOut c) s = s
  | [], _, _ => rfl
  | e :: l, s, clean => by
    rw [List.foldl_cons, State.lineOut, clean e (.head l)]
    exact State.linesOut_clean l s fun e mem => clean e (.tail _ mem)

/-- A line written back writes the page's frame. -/
theorem State.writeLine_mem (mem : t.mem = s.mem) (frame : t.pageFrame c (dPage (64 * e.tag)) = s.pageFrame c (dPage (64 * e.tag))) :
    (t.writeLine c e).mem = (s.writeLine c e).mem := by
  have words (f : Nat) (l : List (Nat × Word)) : ∀ {t s : State}, t.mem = s.mem →
      (l.foldl (fun (s : State) w => s.setWord (f * 4096 + 2 * (64 * e.tag % 2048 + w.1)) w.2) t).mem =
        (l.foldl (fun (s : State) w => s.setWord (f * 4096 + 2 * (64 * e.tag % 2048 + w.1)) w.2) s).mem := by
    induction l with
    | nil => exact id
    | cons w l ih => exact fun {t s} same => ih (by
        show memSetWord t.mem _ _ = memSetWord s.mem _ _
        rw [same])
  have marked (z : State) (i : Nat) : (z.markDirty c i).mem = z.mem := by
    unfold State.markDirty
    dsimp only
    split
    · split
      · obtain ⟨x, y, is⟩ := State.setFrame_rest (s := z.modCtx c (fun x => x.setPage i { x.page i with dirty := true }))
          (f := (z.page c i).home.toNat) _
        rw [State.modFrame, is]
        rfl
      · rfl
    · rfl
  unfold State.writeLine
  dsimp only
  rw [frame]
  split
  · split
    · exact mem
    · rw [marked, marked]
      exact words _ _ mem
  · exact mem

theorem State.stagingMiss_brings (admitted : s.admitted c = true)
    (miss : s.sesD c false (fun x => !x.fast && (x.staged line).isNone) = true) (brought : s.bringLine c line = (z, true)) :
    exec (.stagingMiss c line) s = .next (z.useLine c line none) := by
  show Host.Outcome.next (s.stagingMiss c line) = _
  unfold State.stagingMiss
  rw [admitted, miss, brought]
  rfl

theorem State.linesKept (is : s.ses c = some x) (exact_ : x.fast = false) (new : x.staged line = none)
    (clean : ∀ e ∈ x.staging.drop (max 1 x.share - 1), e.words = []) :
    (s.useLine c line none).mem = s.mem ∧ ∃ y, (s.useLine c line none).ses c = some y ∧
      y.staging = ({ tag := line, words := [] } :: x.staging).take (max 1 x.share) ∧ y.cpu = x.cpu := by
  obtain ⟨m, used⟩ := State.useLine_miss is exact_ new
  rw [State.linesOut_clean _ _ clean] at used
  rw [used]
  refine ⟨rfl, { x.lineIn line with staging := (x.lineIn line).staging.take (max 1 x.share) }, ?_, rfl, rfl⟩
  rw [← Session.stage_new new]
  exact State.ses_modSes_some (State.ses_modSes_some (s := { s with cnt64 := m }) is)

theorem State.lineOut_back (alloc : (s.page c (dPage (64 * e.tag))).alloc = true)
    (copy : (s.page c (dPage (64 * e.tag))).gcopy = true) : (s.lineOut c e).mem = (s.writeLine c e).mem := by
  unfold State.lineOut
  split
  · next empty =>
    unfold State.writeLine
    dsimp only
    split
    · rw [if_pos empty]
    · rfl
  · cases die : s.ctxDie c with
    | none =>
      unfold State.ensureCopy State.ensureCopyAs
      rw [die]
    | some d =>
      rw [State.ensureCopy_resident die alloc copy]
      exact State.writeLine_mem rfl rfl

/-- Only the lines of the session and a count differ when a line has come in. -/
theorem State.staged_page {m : Sparse (BitVec 64)} {i : Nat} {e : Session → Session} :
    (({ s with cnt64 := m }).modSes c e).page c i = s.page c i ∧ (({ s with cnt64 := m }).modSes c e).pageFrame c i = s.pageFrame c i := by
  have ctx : (({ s with cnt64 := m }).modSes c e).ctx c = { s.ctx c with ses := (s.ctx c).ses.map e } := by
    rw [State.modSes, State.ctx_modCtx, if_pos rfl]
    rfl
  have page : (({ s with cnt64 := m }).modSes c e).page c i = s.page c i := by rw [State.page, ctx]; rfl
  refine ⟨page, ?_⟩
  unfold State.pageFrame State.ctxDie State.heldSlot
  rw [page, ctx]
  rfl

theorem stagingMisses : ∀ (c : CtxNo) (line : Nat) (s : State),
    (∀ s1 x, s.admitted c = true → s.sesD c false (fun x => !x.fast && (x.staged line).isNone) = true →
      s.bringLine c line = (s1, true) → s1.ses c = some x → x.fast = false → x.staged line = none →
      ∃ t, exec (.stagingMiss c line) s = .next t ∧
        ((∀ e ∈ x.staging.drop (max 1 x.share - 1), e.words = []) → t.mem = s1.mem ∧ ∀ y, t.ses c = some y →
          y.staging = ({ tag := line, words := [] } :: x.staging).take (max 1 x.share) ∧ y.cpu = x.cpu) ∧
        (∀ e, x.staging.drop (max 1 x.share - 1) = [e] → s1.bad = [] → (s1.page c (dPage (64 * e.tag))).alloc = true →
          (s1.page c (dPage (64 * e.tag))).gcopy = true → t.mem = (s1.writeLine c e).mem)) ∧
    (∀ x, s.admitted c = true → s.ses c = some x → x.fast = false → x.staged line = none → line < 768 →
      readable s c (dPage (64 * line)) → (∀ e ∈ x.staging, e.words = []) →
      ∃ t y, exec (.stagingMiss c line) s = .next t ∧ t.mem = s.mem ∧ t.ses c = some y ∧ y.cpu = x.cpu ∧
        y.staging = ({ tag := line, words := [] } :: x.staging).take (max 1 x.share)) := by
  intro c line s
  refine ⟨fun s1 x admitted miss brought is exact_ new => ⟨_, State.stagingMiss_brings admitted miss brought, fun clean => ?_,
    fun e out good alloc copy => ?_⟩, fun x admitted is exact_ new ram there clean => ?_⟩
  · obtain ⟨mem, y, held, staging, cpu⟩ := State.linesKept is exact_ new clean
    refine ⟨mem, fun y' held' => ?_⟩
    obtain rfl := Option.some.inj (held.symm.trans held')
    exact ⟨staging, cpu⟩
  · obtain ⟨m, used⟩ := State.useLine_miss is exact_ new
    obtain ⟨page, frame⟩ := State.staged_page (s := s1) (c := c) (m := m) (i := dPage (64 * e.tag)) (e := (·.stage line none))
    rw [used, out]
    generalize staged : ({ s1 with cnt64 := m }).modSes c (·.stage line none) = z at page frame
    have mem : z.mem = s1.mem ∧ z.bad = s1.bad := by rw [← staged]; exact ⟨rfl, rfl⟩
    exact (State.lineOut_back (page ▸ alloc) (page ▸ copy)).trans (State.writeLine_mem mem.1 frame)
  · obtain ⟨g, ready⟩ := State.pageReady_readable there (64 * line % 2048) 64
    have brought : s.bringLine c line = ({ s with galleryOrder := g }, true) := (if_pos ram).trans ready
    have miss : s.sesD c false (fun x => !x.fast && (x.staged line).isNone) = true := by
      simp [State.sesD, is, exact_, new]
    obtain ⟨mem, y, held, staging, cpu⟩ := State.linesKept (s := { s with galleryOrder := g }) is exact_ new fun e mem =>
      clean e (List.mem_of_mem_drop mem)
    exact ⟨_, y, State.stagingMiss_brings admitted miss brought, mem, held, cpu, staging⟩

/-! ### Frames that fail (R85) -/

/-- An entry of the table records a frame that a die's Gallery holds for a home frame. -/
def holdsFor (d h state : Nat) (e : Nat × FrameRec) : Bool :=
  e.2.home == some h && e.2.pool == BitVec.ofNat 2 state && decide (galleryFrame d 0 ≤ e.1 ∧ e.1 < galleryFrame d 0 + 0x10000)

theorem State.copyOn_none : s.copyOn d h = none ↔ ∀ e ∈ s.frames, holdsFor d h 1 e = false := by
  show (s.frames.find? (holdsFor d h 1)).map (·.1) = none ↔ _
  rw [Option.map_eq_none_iff, List.find?_eq_none]
  simp

theorem State.flightOn_none : s.flightOn d h = none ↔ ∀ e ∈ s.frames, holdsFor d h 2 e = false := by
  show (s.frames.find? (holdsFor d h 2)).map (·.1) = none ↔ _
  rw [Option.map_eq_none_iff, List.find?_eq_none]
  simp

/-- A table with one entry more has the entries it had, and that one. -/
theorem Sparse.mem_set {α : Type} [DecidableEq α] {b v : α} {m : Sparse α} {a : Nat} {e : Nat × α} (mem : e ∈ Sparse.set b m a v) :
    e = (a, v) ∨ e ∈ m := by
  unfold Sparse.set at mem
  split at mem
  · exact .inr ((Sparse.erase_sublist m a).subset mem)
  · exact Sparse.mem_insert mem

/-- A record of no home frame adds none that is held for one. -/
theorem holdsFor_set {m : Sparse FrameRec} {state : Nat} (none_ : ∀ e ∈ m, holdsFor d h state e = false) (home : r.home = none) :
    ∀ e ∈ Sparse.set FrameRec.free m f r, holdsFor d h state e = false := by
  intro e mem
  rcases Sparse.mem_set mem with rfl | old
  · simp [holdsFor, home]
  · exact none_ e old

/-- A home frame without copies has none to give up. -/
theorem State.freeCopies_none (free : ∀ d ∈ [0, 1], s.copyOn d h = none ∧ s.flightOn d h = none) (home : (s.frame h).home = none) :
    s.freeCopies h = s.modFrame h (fun r => { r with copy := none }) := by
  have after (d : Nat) (mem : d ∈ [0, 1]) : (s.modFrame h (fun r => { r with copy := none })).copyOn d h = none ∧
      (s.modFrame h (fun r => { r with copy := none })).flightOn d h = none := by
    rw [State.copyOn_none, State.flightOn_none, State.modFrame, (State.setFrame_frames ..).2]
    exact ⟨holdsFor_set (State.copyOn_none.mp (free d mem).1) home, holdsFor_set (State.flightOn_none.mp (free d mem).2) home⟩
  have zero := after 0 (.head _)
  have one := after 1 (.tail _ (.head _))
  unfold State.freeCopies
  simp only [List.foldl_cons, List.foldl_nil, zero.1, zero.2, one.1, one.2]

/-- A retired frame's record; contexts and memory stay, and of the other frames nothing changes. -/
theorem State.retireFrame_retires {row : Nat} {node : Byte} : (s.retireFrame f row node).ctxs = s.ctxs ∧
    (s.retireFrame f row node).mem = s.mem ∧ (s.retireFrame f row node).frames = Sparse.set FrameRec.free s.frames f FrameRec.retired := by
  obtain ⟨x, y, set⟩ := State.setFrame_rest (s := s) (f := f) FrameRec.retired
  unfold State.retireFrame State.retireRecord
  rw [State.raiseP_dic, State.offer_offers.rest]
  unfold State.dropFrame
  rw [set]
  exact ⟨rfl, rfl, rfl⟩

theorem State.loseFrame_alone {row cause : Nat} {node : Byte} (unlisted : s.titleListing f = none) (unmapped : s.mappers f = [])
    (free : ∀ d ∈ [0, 1], s.copyOn d f = none ∧ s.flightOn d f = none) :
    (s.loseFrame f row cause node).frame f = FrameRec.retired ∧ (s.loseFrame f row cause node).ctxs = s.ctxs ∧
      (s.loseFrame f row cause node).mem = s.mem := by
  have is : s.loseFrame f row cause node = ((s.retireFrame f row node).freeCopies f).putFrame f FrameRec.retired := by
    unfold State.loseFrame
    rw [unlisted]
    dsimp only
    rw [unmapped]
    rfl
  obtain ⟨ctxs, mem, frames⟩ := State.retireFrame_retires (s := s) (f := f) (row := row) (node := node)
  rw [is, State.freeCopies_none]
  · refine ⟨(State.frame_putFrame ..).trans (if_pos rfl), ?_, ?_⟩
    · exact (State.setFrame_frames ..).1.ctxs.trans ctxs
    · obtain ⟨x, y, set⟩ := State.setFrame_rest (s := s.retireFrame f row node) (f := f) { (s.retireFrame f row node).frame f with copy := none }
      rw [State.modFrame, set]
      exact mem
  · intro d two
    rw [State.copyOn_none, State.flightOn_none, frames]
    exact ⟨holdsFor_set (State.copyOn_none.mp (free d two).1) rfl, holdsFor_set (State.flightOn_none.mp (free d two).2) rfl⟩
  · rw [State.frame, frames, Sparse.get_set, if_pos rfl]
    rfl

theorem State.failRead_alone {node : Byte} (pool : framePool s.part f = some k) (vault : k < 2) (in_ : (s.frame f).pool ≠ 3)
    (zero : s.copyOn 0 f = none) (one : s.copyOn 1 f = none) : s.failRead f node = s.loseFrame f 4 causePoisonRead node := by
  unfold State.failRead
  rw [pool]
  dsimp only
  rw [if_neg in_, if_pos vault, State.failVault, zero, one]
  rfl

theorem State.failWrite_alone {node : Byte} (pool : framePool s.part f = some k) (vault : k < 2) (in_ : (s.frame f).pool ≠ 3)
    (unlisted : s.titleListing f = none) (unmapped : s.mappers f = []) : s.failWrite f node = s.retireFrame f 5 node := by
  unfold State.failWrite
  rw [pool]
  dsimp only
  rw [if_neg in_, if_pos vault, unlisted, unmapped]
  rfl

/-- A retired frame stays so (R85). -/
theorem State.fail_retired {node : Byte} (retired : (s.frame f).pool = 3) : s.failRead f node = s ∧ s.failWrite f node = s := by
  unfold State.failRead State.failWrite
  cases framePool s.part f with
  | none => exact ⟨rfl, rfl⟩
  | some k => exact ⟨if_pos retired, if_pos retired⟩

theorem failuresRule_kept : failuresRule := by
  unfold failuresRule
  intro c line node s
  obtain ⟨misses, fills⟩ := stagingMisses c line s
  refine ⟨misses, fills, fun a => ?_, fun a retired => ?_⟩
  · intro f
    have frame : a.toNat / 4096 = f := rfl
    clear_value f
    rintro ⟨k, vault, pool⟩ in_ unmapped unlisted
    refine ⟨fun copy0 copy1 flight0 flight1 => ⟨s.failRead f node, by rw [← frame]; rfl, ?_⟩,
      s.failWrite f node, by rw [← frame]; rfl, ?_⟩
    · rw [State.failRead_alone pool vault in_ copy0 copy1]
      refine State.loseFrame_alone unlisted unmapped fun d two => ?_
      rcases List.mem_pair.mp two with rfl | rfl
      · exact ⟨copy0, flight0⟩
      · exact ⟨copy1, flight1⟩
    · rw [State.failWrite_alone pool vault in_ unlisted unmapped]
      obtain ⟨ctxs, mem, frames⟩ := State.retireFrame_retires (s := s) (f := f) (row := 5) (node := node)
      refine ⟨?_, ctxs, mem⟩
      rw [State.frame, frames, Sparse.get_set, if_pos rfl]
  · obtain ⟨read, write⟩ := State.fail_retired (node := node) retired
    exact ⟨congrArg Host.Outcome.next read, congrArg Host.Outcome.next write⟩

end

/-- Settles O41. -/
theorem pageMovement : Obligations.PageMovement := ⟨pageMissRule_kept, pagesRule_kept, failuresRule_kept⟩

end Sys2Proof.Machine

/-! ## The Dreug Control Protocol: its checks (R364 to R366, R369) -/
namespace Sys2Proof.Machine
open Sys2Proof Sys2Proof.Claims

/-! ### What the service makes of a message -/

/-- The instruction has the service take the message, with this command. -/
def Serves (i : DcpMsg → Instr) (m : DcpMsg) (s : State) (run : State → Option DcpResult) : Prop := exec (i m) s = .next (s.dcpServe m run)

section
variable {i : DcpMsg → Instr} {m : DcpMsg} {s z t : State} {key : List Byte} {run : State → Option DcpResult} {r : DcpMsg} {k : Fin 4}
  {d : Datagram}

theorem State.agentBytes_length {die a n : Nat} : (s.agentBytes die a n).length = n := by
  rw [State.agentBytes, List.length_map, List.length_range]

/-- A call that stands at DCP_SERVE with the message's frame. -/
theorem State.dcpServe_called (called : serveCalled s k m d) : s.dcpServe m run =
    (if (Sparse.get none s.claims 3).isSome then s.romReturn k [some 3, none, none, none]
    else match s.dcpTake m run with
      | (s1, .discard) => s1.romReturn k [some 2, none, none, none]
      | (s1, .program) =>
        s1.romReturn k [some 1, some (BitVec.ofNat 16 (d.off + 20)), some (BitVec.ofNat 16 m.body.length), some m.cmd]
      | (s1, .reply r) =>
        if s1.romServes then s1.send (.dcp r)
        else if (s1.keeper k).running then
          s1.romFrame k 0 [none, none] (s.keeper k).cpu.callBuffer
            (replyFrame s1.fresh (s.agentBytes 2 (s.keeper k).cpu.callBuffer (s.keeper k).cpu.w[3].toNat) d (dcpBytes r))
        else s1) := by
  obtain ⟨closed, caller, length, buffer, udp, payload, v6, src, dst, sport, dport⟩ := called
  unfold State.dcpServe
  rw [closed, if_neg Bool.false_ne_true, caller]
  dsimp only
  unfold State.dcpCall
  dsimp only
  rw [udp]
  dsimp only
  rw [if_neg (by
    rw [State.agentBytes_length, buffer, payload, v6, src, dst, sport, dport]
    simp [length])] <;> rfl

theorem serves_discards (serves : Serves i m s run) (take : s.dcpTake m run = (z, .discard)) : discards i m s z := by
  refine ⟨fun ⟨alone, arrives⟩ => ?_, fun k d called free => ?_⟩
  · rw [serves, State.dcpServe, if_pos alone, if_pos arrives, take]
  · rw [serves, State.dcpServe_called called, free, take]
    rfl

theorem serves_answers (serves : Serves i m s run) (take : s.dcpTake m run = (z, .reply r)) : answers i m s z r := by
  refine ⟨fun ⟨alone, arrives⟩ => ?_, fun k d called free => ?_⟩
  · rw [serves, State.dcpServe, if_pos alone, if_pos arrives, take]
  · rw [serves, State.dcpServe_called called, free, take]
    rfl

theorem serves_busy (serves : Serves i m s run) (called : serveCalled s k m d) (held : Sparse.get none s.claims 3 ≠ none) :
    exec (i m) s = .next (s.romReturn k [some 3, none, none, none]) := by
  rw [serves, State.dcpServe_called called, if_pos (Option.isSome_iff_ne_none.mpr held)]

theorem serves_nobody (serves : Serves i m s run) (nobody : s.romServes = true ∧ s.dcpArrives m.path = false ∨
    s.romServes = false ∧ s.romCaller 0 = none) : exec (i m) s = .next s := by
  rw [serves, State.dcpServe]
  rcases nobody with ⟨alone, gone⟩ | ⟨closed, none_⟩
  · rw [if_pos alone, gone]
    rfl
  · rw [closed, none_]
    rfl

/-! ### The checks (R365) -/

theorem State.dcpTake_malformed (bad : m.ver ≠ 1 ∨ m.kind ≠ 1 ∨ m.len.toNat ≠ m.body.length ∨ 1400 < m.body.length ∨ m.mac.length ≠ 16 ∨
    s.dcpKey m.keyId.toNat = none) : s.dcpTake m run = (s, .discard) := by
  unfold State.dcpTake
  by_cases form : m.ver ≠ 1 ∨ m.kind ≠ 1 ∨ m.len.toNat ≠ m.body.length ∨ 1400 < m.body.length ∨ m.mac.length ≠ 16
  · rw [if_pos form]
  · have none_ : s.dcpKey m.keyId.toNat = none := by
      rcases bad with h | h | h | h | h | h
      · exact absurd (.inl h) form
      · exact absurd (.inr (.inl h)) form
      · exact absurd (.inr (.inr (.inl h))) form
      · exact absurd (.inr (.inr (.inr (.inl h)))) form
      · exact absurd (.inr (.inr (.inr (.inr h)))) form
      · exact h
    rw [if_neg form, none_]

/-- The checks of a message that is whole under a valid key. -/
theorem State.dcpTake_formed (formed : wellFormed s m key) : s.dcpTake m run =
    (if m.mac ≠ (Config.hmac key (dcpHead m)).toList then
        ({ s with boot := { s.boot with macFail := BitVec.ofNat 32 (min 0xFFFFFFFF (s.boot.macFail.toNat + 1)) } }, .discard)
      else if m.boot ≠ s.nv nvrBootcnt then (s, .reply (s.dcpMake key m 3 []))
      else if (Sparse.get 0 s.boot.lastSeq m.keyId.toNat).toNat < m.seq.toNat then
        match run (noted s m) with
        | some r => let a := (noted s m).dcpMake key m r.status r.body; (r.state.dcpKeep a, .reply a)
        | none => (noted s m, .program)
      else if Sparse.get 0 s.boot.lastSeq m.keyId.toNat = m.seq ∧
          s.boot.lastReq.any (fun e => e.1 == m.keyId.toNat && dcpSame e.2 m) then
        match s.boot.lastReply.find? (fun e => e.1 == m.keyId.toNat) with
        | some e => (s, .reply { e.2 with path := dcpBack m.path })
        | none => (s, .discard)
      else
        ({ s with boot := { s.boot with replays := BitVec.ofNat 32 (min 0xFFFFFFFF (s.boot.replays.toNat + 1)) } }, .discard)) := by
  obtain ⟨ver, kind, len, short, mac, valid⟩ := formed
  unfold State.dcpTake
  rw [if_neg (by simp [ver, kind, len, short, mac]), valid]
  rfl

theorem State.dcpTake_mac (formed : wellFormed s m key) (wrong : m.mac ≠ (Config.hmac key (dcpHead m)).toList) : s.dcpTake m run =
    ({ s with boot := { s.boot with macFail := BitVec.ofNat 32 (min 0xFFFFFFFF (s.boot.macFail.toNat + 1)) } }, .discard) := by
  rw [State.dcpTake_formed formed, if_pos wrong]

section
variable (right : authentic s m key)
include right

theorem State.dcpTake_boot (old : m.boot ≠ s.nv nvrBootcnt) : s.dcpTake m run = (s, .reply (s.dcpMake key m 3 [])) := by
  rw [State.dcpTake_formed right.1, if_neg (not_not.mpr right.2), if_pos old]

theorem State.dcpTake_replay (boot : m.boot = s.nv nvrBootcnt) (old : m.seq.toNat < (Sparse.get 0 s.boot.lastSeq m.keyId.toNat).toNat) :
    s.dcpTake m run =
      ({ s with boot := { s.boot with replays := BitVec.ofNat 32 (min 0xFFFFFFFF (s.boot.replays.toNat + 1)) } }, .discard) := by
  rw [State.dcpTake_formed right.1, if_neg (not_not.mpr right.2), if_neg (not_not.mpr boot), if_neg (by omega), if_neg]
  rintro ⟨same, -⟩
  rw [same] at old
  exact Nat.lt_irrefl _ old

theorem State.dcpTake_again {m' : DcpMsg} {e : Nat × DcpMsg} (boot : m.boot = s.nv nvrBootcnt)
    (same : m.seq = Sparse.get 0 s.boot.lastSeq m.keyId.toNat) (asked : (m.keyId.toNat, m') ∈ s.boot.lastReq) (equal : dcpSame m' m = true)
    (kept : s.boot.lastReply.find? (fun e => e.1 == m.keyId.toNat) = some e) :
    s.dcpTake m run = (s, .reply { e.2 with path := dcpBack m.path }) := by
  have known : (s.boot.lastReq.any fun e => e.1 == m.keyId.toNat && dcpSame e.2 m) = true :=
    List.any_eq_true.mpr ⟨_, asked, by rw [beq_self_eq_true, equal]; rfl⟩
  rw [State.dcpTake_formed right.1, if_neg (not_not.mpr right.2), if_neg (not_not.mpr boot), if_neg (by rw [same]; omega),
    if_pos ⟨same.symm, known⟩, kept]

end

/-- A new request is noted and carried out. -/
theorem State.dcpTake_new (new : newRequest s m key) : s.dcpTake m run =
    (match run (noted s m) with
      | some r => let a := (noted s m).dcpMake key m r.status r.body; (r.state.dcpKeep a, .reply a)
      | none => (noted s m, .program)) := by
  obtain ⟨right, boot, above⟩ := new
  rw [State.dcpTake_formed right.1, if_neg (not_not.mpr right.2), if_neg (not_not.mpr boot), if_pos above]

/-! ### The replies (R365, R366) -/

/-- The entry inserted is the first of its key. -/
theorem Sparse.find_insert {α : Type} (k : Nat) (v : α) : ∀ l : Sparse α, (Sparse.insert l k v).find? (fun e => e.1 == k) = some (k, v)
  | [] => by rw [Sparse.insert, List.find?_cons_of_pos (by simp)]
  | (k', v') :: l => by
    unfold Sparse.insert
    split
    · exact List.find?_cons_of_pos (by simp)
    · split
      · exact List.find?_cons_of_pos (by simp)
      · next apart _ =>
        rw [List.find?_cons_of_neg (by simpa using fun same => apart same)]
        exact Sparse.find_insert k v l

/-- A request carried out brings its reply, which is kept. -/
theorem serves_replies {status : Nat} {body : List Byte} {p : State → Prop} (serves : Serves i m s run) (new : newRequest s m key)
    (does : run (noted s m) = some { status := status, body := body, state := z })
    (holds : p (z.dcpKeep (s.dcpMake key m status body))) : replies i m key s status body p := by
  refine ⟨z.dcpKeep (s.dcpMake key m status body), serves_answers serves ?_, ?_, holds⟩
  · rw [State.dcpTake_new new, does]
    rfl
  · exact congrArg (Option.map (·.2)) (Sparse.find_insert m.keyId.toNat (s.dcpMake key m status body) z.boot.lastReply)

/-- A request that has no effect but its reply. -/
theorem serves_onlyReplies {status : Nat} {body : List Byte} (serves : Serves i m s run) (new : newRequest s m key)
    (does : run (noted s m) = some { status := status, body := body, state := noted s m }) : onlyReplies i m key s status body :=
  serves_replies serves new does ⟨rfl, (Sparse.get_insert ..).trans (if_pos rfl)⟩

/-! ### The commands of R367 -/

/-- What a command does with a request that has passed the checks of R365: KEY_REQUIRED, BAD_MODE, the KEYID 0 rule, and its effect. -/
def dcpRun (m : DcpMsg) (open' keyed : Bool) (modes : Mode → Bool) (act : State → DcpResult) (s : State) : Option DcpResult :=
  if s.keyEmpty && !open' then some (dcpFail s 9)
  else if !modes s.power.mode then some (dcpFail s 1)
  else if keyed && m.keyId != 0 then some (dcpFail s 9)
  else some (act s)

theorem State.dcpCommand_serves {code : Nat} {open' keyed : Bool} {modes : Mode → Bool} {act : State → DcpResult} (cmd : m.cmd.toNat = code)
    (is : exec (i m) s = s.dcpCommand m code open' keyed modes act) : Serves i m s (dcpRun m open' keyed modes act) := by
  rw [Serves, is]
  exact congrArg Host.Outcome.next (if_neg (not_not.mpr cmd))

theorem dcpRun_locked {keyed : Bool} {modes : Mode → Bool} {act : State → DcpResult} (empty : s.keyEmpty = true) :
    dcpRun m false keyed modes act s = some (dcpFail s 9) := by
  rw [dcpRun, empty]
  rfl

theorem dcpRun_acts {open' keyed : Bool} {modes : Mode → Bool} {act : State → DcpResult} (full : s.keyEmpty = false ∨ open' = true)
    (mode : modes s.power.mode = true) (zero : keyed = false ∨ m.keyId = 0) : dcpRun m open' keyed modes act s = some (act s) := by
  have first : (s.keyEmpty && !open') = false := by rcases full with h | h <;> simp [h]
  have last : (keyed && m.keyId != 0) = false := by rcases zero with h | h <;> simp [h]
  rw [dcpRun, first, mode, last]
  rfl

theorem ident_serves (cmd : m.cmd.toNat = 1) : Serves .ident m s (dcpRun m true false (fun _ => true) (·.dcpIdent m)) :=
  State.dcpCommand_serves (i := .ident) cmd rfl

theorem logread_serves (cmd : m.cmd.toNat = 2) : Serves .logread m s (dcpRun m true false (fun _ => true) (·.dcpLogread m)) :=
  State.dcpCommand_serves (i := .logread) cmd rfl

theorem dcpMode_serves (cmd : m.cmd.toNat = 3) : Serves .dcpMode m s (dcpRun m false false (fun x => x != .sealed) (·.dcpSetMode m)) :=
  State.dcpCommand_serves (i := .dcpMode) cmd rfl

theorem imgcheck_serves (cmd : m.cmd.toNat = 0x10) : Serves .imgcheck m s (dcpRun m false false (fun x => x.romAlone || x.program) (·.dcpImgcheck m)) :=
  State.dcpCommand_serves (i := .imgcheck) cmd rfl

theorem imgwrite_serves (cmd : m.cmd.toNat = 0x11) : Serves .imgwrite m s (dcpRun m false false (fun x => x.romAlone || x.program) (·.dcpImgwrite m)) :=
  State.dcpCommand_serves (i := .imgwrite) cmd rfl

theorem bootsel_serves (cmd : m.cmd.toNat = 0x12) : Serves .bootsel m s (dcpRun m false false (fun x => x.romAlone || x == .attended) (·.dcpBootsel m)) :=
  State.dcpCommand_serves (i := .bootsel) cmd rfl

theorem imgrun_serves (cmd : m.cmd.toNat = 0x13) : Serves .imgrun m s (dcpRun m false false Mode.romAlone (·.dcpImgrun m)) :=
  State.dcpCommand_serves (i := .imgrun) cmd rfl

theorem lread_serves (cmd : m.cmd.toNat = 0x20) : Serves .lread m s (dcpRun m false false Mode.loamAccess (·.dcpLread m)) :=
  State.dcpCommand_serves (i := .lread) cmd rfl

theorem lwrite_serves (cmd : m.cmd.toNat = 0x21) : Serves .lwrite m s (dcpRun m false false Mode.loamAccess (·.dcpLwrite m)) :=
  State.dcpCommand_serves (i := .lwrite) cmd rfl

theorem keyset_serves (cmd : m.cmd.toNat = 0x30) : Serves .keyset m s (dcpRun m true true Mode.settings (·.dcpKeyset m)) :=
  State.dcpCommand_serves (i := .keyset) cmd rfl

theorem minver_serves (cmd : m.cmd.toNat = 0x31) : Serves .minver m s (dcpRun m false true Mode.settings (·.dcpMinver m)) :=
  State.dcpCommand_serves (i := .minver) cmd rfl

theorem netset_serves (cmd : m.cmd.toNat = 0x32) : Serves .netset m s (dcpRun m false true Mode.settings (·.dcpNetset m)) :=
  State.dcpCommand_serves (i := .netset) cmd rfl

/-- Every command of the table has the service take its message. -/
theorem dcpRows_serve (row : (DcpMsg → Instr) × Nat × Bool) (mem : row ∈ dcpRows) (cmd : m.cmd.toNat = row.2.1) : ∃ run,
    Serves row.1 m s run ∧ ∀ t : State, t.keyEmpty = true → row.2.2 = false → run t = some (dcpFail t 9) := by
  simp only [dcpRows, List.mem_cons, List.not_mem_nil, or_false] at mem
  rcases mem with rfl | rfl | rfl | rfl | rfl | rfl | rfl | rfl | rfl | rfl | rfl | rfl
  · exact ⟨_, ident_serves cmd, fun t empty closed => nomatch closed⟩
  · exact ⟨_, logread_serves cmd, fun t empty closed => nomatch closed⟩
  · exact ⟨_, dcpMode_serves cmd, fun t empty closed => dcpRun_locked empty⟩
  · exact ⟨_, imgcheck_serves cmd, fun t empty closed => dcpRun_locked empty⟩
  · exact ⟨_, imgwrite_serves cmd, fun t empty closed => dcpRun_locked empty⟩
  · exact ⟨_, bootsel_serves cmd, fun t empty closed => dcpRun_locked empty⟩
  · exact ⟨_, imgrun_serves cmd, fun t empty closed => dcpRun_locked empty⟩
  · exact ⟨_, lread_serves cmd, fun t empty closed => dcpRun_locked empty⟩
  · exact ⟨_, lwrite_serves cmd, fun t empty closed => dcpRun_locked empty⟩
  · exact ⟨_, keyset_serves cmd, fun t empty closed => nomatch closed⟩
  · exact ⟨_, minver_serves cmd, fun t empty closed => dcpRun_locked empty⟩
  · exact ⟨_, netset_serves cmd, fun t empty closed => dcpRun_locked empty⟩

theorem dcpChecksRule_kept : dcpChecksRule := by
  unfold dcpChecksRule
  intro row m key s mem cmd
  obtain ⟨run, serves, locked⟩ := dcpRows_serve (s := s) row mem cmd
  refine ⟨fun alone gone => serves_nobody serves (.inl ⟨alone, gone⟩), fun closed none_ => serves_nobody serves (.inr ⟨closed, none_⟩),
    fun k d => serves_busy serves, fun bad => serves_discards serves (State.dcpTake_malformed bad),
    fun formed wrong => serves_discards serves (State.dcpTake_mac formed wrong),
    fun right old => serves_answers serves (State.dcpTake_boot right old),
    fun right boot old => serves_discards serves (State.dcpTake_replay right boot old),
    fun m' e right boot same asked equal kept => serves_answers serves (State.dcpTake_again right boot same asked equal kept),
    fun new empty closed => serves_onlyReplies serves new (locked (noted s m) empty closed)⟩

end
end Sys2Proof.Machine

/-! ## The Dreug Control Protocol: reading commands and the Keeper program's (R366 to R369, R422, R432) -/
namespace Sys2Proof.Machine
open Sys2Proof Sys2Proof.Claims

/-! ### Numbers of bytes, most significant first -/

@[simp] theorem length_bytesBE : ∀ n v : Nat, (bytesBE n v).length = n
  | 0, _ => rfl
  | n + 1, v => by rw [bytesBE, List.length_append, length_bytesBE n]; rfl

theorem ofBytesBE_append_byte (l : List Byte) (b : Byte) : ofBytesBE (l ++ [b]) = ofBytesBE l * 256 + b.toNat := by
  rw [ofBytesBE, List.foldl_append]
  rfl

theorem ofBytesBE_bytesBE : ∀ n v : Nat, ofBytesBE (bytesBE n v) = v % 256 ^ n
  | 0, v => by rw [pow_zero, Nat.mod_one]; rfl
  | n + 1, v => by
    rw [bytesBE, ofBytesBE_append_byte, ofBytesBE_bytesBE n, BitVec.toNat_ofNat, pow_succ' 256 n, Nat.mod_mul]
    omega

theorem ofBytesBE_bytesBE_of_lt {n v : Nat} (small : v < 256 ^ n) : ofBytesBE (bytesBE n v) = v := by
  rw [ofBytesBE_bytesBE, Nat.mod_eq_of_lt small]

theorem bytesBE_ofBytesBE (l : List Byte) : bytesBE l.length (ofBytesBE l) = l := by
  induction l using List.reverseRecOn with
  | nil => rfl
  | append_singleton l b ih =>
    have high : (ofBytesBE l * 256 + b.toNat) / 256 = ofBytesBE l := by have := b.isLt; omega
    rw [List.length_append, List.length_singleton, bytesBE, ofBytesBE_append_byte, high, ih]
    congr 2
    apply BitVec.eq_of_toNat_eq
    rw [BitVec.toNat_ofNat]
    have := b.isLt
    omega

theorem ofBytesBE_lt (l : List Byte) : ofBytesBE l < 256 ^ l.length := by
  induction l using List.reverseRecOn with
  | nil => exact Nat.one_pos
  | append_singleton l b ih =>
    rw [ofBytesBE_append_byte, List.length_append, List.length_singleton, Nat.pow_succ]
    have := b.isLt
    omega

section
variable {m : DcpMsg} {s : State} {key : List Byte}

/-! ### Reading (R367, R422, R432) -/

/-- The service with the request noted reads the registers and the images as before. -/
theorem noted_keyEmpty : (noted s m).keyEmpty = s.keyEmpty := rfl
theorem noted_imgReason (b : Bool) : (noted s m).imgReason b = s.imgReason b := rfl

theorem ident_replies (new : newRequest s m key) (cmd : m.cmd = 1) (body : m.body = []) : onlyReplies .ident m key s 0
    (bytesBE 4 (partCode s.part) ++ bytesBE 1 0xA1 ++ bytesBE 1 s.power.mode.code ++ bytesBE 2 0 ++ bytesBE 4 s.boot.version.toNat
      ++ bytesBE 4 (s.nvN nvrBootcnt) ++ bytesBE 4 s.boot.macFail.toNat ++ bytesBE 4 s.boot.replays.toNat) := by
  refine serves_onlyReplies (ident_serves (by rw [cmd]; rfl)) new ?_
  rw [dcpRun_acts (.inr rfl) rfl (.inl rfl)]
  exact congrArg some (if_neg (not_not.mpr body))

theorem logread_replies (new : newRequest s m key) {a b n : Byte} (cmd : m.cmd = 2) (body : m.body = [a, b, n]) (some_ : 1 ≤ n.toNat)
    (few : n.toNat ≤ 5) : replies .logread m key s 0 ((List.range n.toNat).flatMap (fun i =>
      Sparse.get alogBlank s.rram.ring ((a.toNat * 256 + b.toNat + i) % 16384))) (fun t => t = { s with boot := t.boot, regs := t.regs }) := by
  refine serves_replies (z := (noted s m).setReg (alogBase + 0x50) (((a.toNat * 256 + b.toNat) % 16384 + n.toNat - 1) % 16384))
    (logread_serves (by rw [cmd]; rfl)) new ?_ rfl
  rw [dcpRun_acts (.inr rfl) rfl (.inl rfl)]
  have first : ofBytesBE (m.body.take 2) = a.toNat * 256 + b.toNat := by
    rw [body]
    show (0 * 256 + a.toNat) * 256 + b.toNat = _
    rw [Nat.zero_mul, Nat.zero_add]
  have count : byteAt m.body 2 = n := by rw [body]; rfl
  have length : m.body.length = 3 := by rw [body]; rfl
  have within : ¬ (m.body.length ≠ 3 ∨ n.toNat = 0 ∨ 5 < n.toNat) := by omega
  have act : (noted s m).dcpLogread m = .mk 0
      ((List.range n.toNat).flatMap (fun i => Sparse.get alogBlank s.rram.ring (((a.toNat * 256 + b.toNat) % 16384 + i) % 16384)))
      ((noted s m).setReg (alogBase + 0x50) (((a.toNat * 256 + b.toNat) % 16384 + n.toNat - 1) % 16384)) := by
    unfold State.dcpLogread
    rw [first, count]
    exact if_neg within
  rw [act]
  simp only [Nat.mod_add_mod]

theorem dcpSlot_bit (b : Bool) (l : List Byte) : dcpSlot ((if b then 1 else 0) :: l) 0 = some b := by
  cases b <;> rfl

theorem imgcheck_replies (new : newRequest s m key) (full : s.keyEmpty = false) {b : Bool} (cmd : m.cmd = 0x10)
    (body : m.body = [if b then 1 else 0]) (mode : s.power.mode.romAlone = true ∨ s.power.mode.program = true) :
    onlyReplies .imgcheck m key s 0 (bytesBE 1 (s.imgReason b) ++ bytesBE 4 (imgVersion (s.rram.image b))) := by
  refine serves_onlyReplies (imgcheck_serves (by rw [cmd]; rfl)) new ?_
  rw [dcpRun_acts (s := noted s m) (.inl full) (Bool.or_eq_true_iff.mpr mode) (.inl rfl)]
  unfold State.dcpImgcheck
  rw [body, dcpSlot_bit]
  rfl

/-- The head of a body that names an address and a length. -/
theorem loamBody {a n : Nat} (l : List Byte) (address : a < 2 ^ 48) (length : n ≤ 1024) :
    ofBytesBE ((bytesBE 6 a ++ bytesBE 2 n ++ l).take 6) = a ∧ ofBytesBE (((bytesBE 6 a ++ bytesBE 2 n ++ l).drop 6).take 2) = n ∧
      (bytesBE 6 a ++ bytesBE 2 n ++ l).drop 8 = l ∧ (bytesBE 6 a ++ bytesBE 2 n ++ l).length = 8 + l.length := by
  have six := length_bytesBE 6 a
  have two := length_bytesBE 2 n
  have eight : (bytesBE 6 a ++ bytesBE 2 n).length = 8 := by rw [List.length_append, six, two]
  refine ⟨?_, ?_, ?_, ?_⟩
  · rw [List.append_assoc, List.take_left' six, ofBytesBE_bytesBE_of_lt (by norm_num; omega)]
  · rw [List.append_assoc, List.drop_left' six, List.take_left' two, ofBytesBE_bytesBE_of_lt (by norm_num; omega)]
  · exact List.drop_left' eight
  · rw [List.length_append, eight]

theorem loamAccess_of (mode : s.power.mode = .attended ∨ s.power.mode = .diagnostic) : s.power.mode.loamAccess = true := by
  rcases mode with h | h <;> rw [h] <;> rfl

theorem lread_replies (new : newRequest s m key) (full : s.keyEmpty = false) {a n : Nat} {u : State} {l : List Byte} {ok : Bool}
    (cmd : m.cmd = 0x20) (body : m.body = bytesBE 6 a ++ bytesBE 2 n) (address : a < 2 ^ 48) (whole : a % 4 = 0) (words : n % 4 = 0)
    (some_ : 4 ≤ n) (short : n ≤ 1024) (mode : s.power.mode = .attended ∨ s.power.mode = .diagnostic)
    (reads : State.dcpReads a (n / 4) (noted s m) [] = (u, l, ok)) :
    replies .lread m key s (if ok then 0 else 6) (bytesBE 2 l.length ++ l) (fun t => t.mem = u.mem ∧ t.ctxs = u.ctxs) := by
  refine serves_replies (z := u) (lread_serves (by rw [cmd]; rfl)) new ?_ ⟨rfl, rfl⟩
  rw [dcpRun_acts (s := noted s m) (.inl full) (loamAccess_of mode) (.inl rfl)]
  obtain ⟨at_, count, -, length⟩ := loamBody (n := n) [] address short
  rw [List.append_nil, ← body] at at_ count length
  unfold State.dcpLread
  rw [at_, count]
  dsimp only
  rw [reads]
  exact congrArg some (if_neg (by rw [length]; simp only [List.length_nil]; omega))

theorem dcpReadsRule_kept : dcpReadsRule := by
  unfold dcpReadsRule
  intro m key s new
  exact ⟨ident_replies new, fun a b n cmd body some_ few => logread_replies new cmd body some_ few, fun full =>
    ⟨fun b cmd body mode => imgcheck_replies new full cmd body mode, fun a n u l ok cmd body address whole words some_ short mode reads =>
      lread_replies new full cmd body address whole words some_ short mode reads⟩⟩

/-! ### The Keeper program's commands (R367, R369) -/

/-- What the service does with a command of no code of its own. -/
def programRun (m : DcpMsg) (s : State) : Option DcpResult :=
  if m.cmd.toNat < 0x8000 then some (dcpFail s 0xB)
  else if s.keyEmpty then some (dcpFail s 9)
  else if !s.power.mode.program then some (dcpFail s 8)
  else none

theorem programCommand_serves (other : m.cmd.toNat ∉ dcpCodes) : Serves .programCommand m s (programRun m) :=
  congrArg Host.Outcome.next (if_neg (by rw [List.contains_iff_mem]; exact other))

theorem programCode (range_ : 0x8000 ≤ m.cmd.toNat) : m.cmd.toNat ∉ dcpCodes := by
  intro mem
  have below : ∀ c ∈ dcpCodes, c < 0x8000 := by decide
  have := below _ mem
  omega

theorem programRun_high (range_ : 0x8000 ≤ m.cmd.toNat) : programRun m s =
    if s.keyEmpty then some (dcpFail s 9) else if !s.power.mode.program then some (dcpFail s 8) else none :=
  if_neg (by omega)

/-- A command handed to the Keeper program (R369). -/
theorem programCommand_hands {k : Fin 4} {d : Datagram} (new : newRequest s m key) (range_ : 0x8000 ≤ m.cmd.toNat) (full : s.keyEmpty = false)
    (mode : s.power.mode.program = true) (called : serveCalled s k m d) (free : Sparse.get none s.claims 3 = none) :
    exec (.programCommand m) s = .next ((noted s m).romReturn k
      [some 1, some (BitVec.ofNat 16 (d.off + 20)), some (BitVec.ofNat 16 m.body.length), some m.cmd]) := by
  have hands : programRun m (noted s m) = none := by
    rw [programRun_high range_, noted_keyEmpty, full, if_neg Bool.false_ne_true, show (noted s m).power = s.power from rfl, mode]
    rfl
  rw [programCommand_serves (programCode range_), State.dcpServe_called called, free, State.dcpTake_new new, hands]
  rfl

theorem exec_dcpReply {status : Byte} {body : List Byte} {k : Fin 4} {d : Datagram} (closed : s.romServes = false)
    (caller : s.romCaller 16 = some k) (buffer : s.romBuffer (s.keeper k).cpu.callBuffer = true)
    (udp : frameUdp (s.agentBytes 2 (s.keeper k).cpu.callBuffer 4096) = some d) (short : body.length ≤ 1400) (whole : 36 ≤ d.payload.length)
    (code : (s.keeper k).cpu.w[3].toNat % 256 = status.toNat) (length : (s.keeper k).cpu.w[4].toNat = body.length)
    (placed : s.agentBytes 2 ((s.keeper k).cpu.callBuffer + d.off + 20) body.length = body) (free : Sparse.get none s.claims 3 = none) :
    exec (.dcpReply status body) s = .next
      (let m := headerMsg d 0 0
      let r := s.dcpMake (s.nvKey (8 * (m.keyId.toNat % 4))) m status.toNat body
      let s1 := if Sparse.get 0 s.boot.lastSeq m.keyId.toNat = m.seq then s.dcpKeep r else s
      let out := replyFrame s.fresh (s.agentBytes 2 (s.keeper k).cpu.callBuffer 4096) d (dcpBytes r)
      (({ s1 with fresh := s1.fresh + 9 } : State).agentStore 2 (s.keeper k).cpu.callBuffer out).romReturn k
        [none, some (BitVec.ofNat 16 out.length), none, none, none]) := by
  show Host.Outcome.next (if s.romServes then s else match s.romCaller 16 with | some k => s.dcpReplyCall k status body | none => s) = _
  rw [closed, if_neg Bool.false_ne_true, caller]
  dsimp only
  unfold State.dcpReplyCall
  dsimp only
  rw [udp]
  dsimp only
  rw [if_neg (by
    rw [buffer, code, length, placed, free]
    simp only [Bool.not_true, Bool.false_eq_true, ne_eq, not_true_eq_false, Option.isSome_none, or_false, false_or]
    omega)]

theorem dcpProgramRule_kept : dcpProgramRule := by
  unfold dcpProgramRule
  intro m key s
  refine ⟨fun k d new range_ full mode called free => programCommand_hands new range_ full mode called free, fun new range_ empty => ?_,
    fun new range_ full mode => ?_, fun new low none_ => ?_, fun status body k d => ?_, fun status body idle => ?_⟩
  · refine serves_onlyReplies (programCommand_serves (programCode range_)) new ?_
    rw [programRun_high range_, noted_keyEmpty, if_pos empty]
    rfl
  · refine serves_onlyReplies (programCommand_serves (programCode range_)) new ?_
    rw [programRun_high range_, noted_keyEmpty, full, if_neg Bool.false_ne_true, show (noted s m).power = s.power from rfl, mode]
    rfl
  · exact serves_onlyReplies (programCommand_serves none_) new (if_pos low)
  · intro u l q closed caller buffer udp short whole code length placed free r out
    generalize kept : (if Sparse.get 0 s.boot.lastSeq q.keyId.toNat = q.seq then s.dcpKeep r else s) = s1
    refine ⟨{ s1 with fresh := s1.fresh + 9 }, kept ▸ exec_dcpReply closed caller buffer udp short whole code length placed free, ?_, fun same => ?_⟩
    · rw [← kept]
      split <;> rfl
    · have is : s1 = s.dcpKeep r := kept.symm.trans (if_pos same)
      show (s1.boot.lastReply.find? _).map _ = _
      rw [is]
      exact congrArg (Option.map (·.2)) (Sparse.find_insert r.keyId.toNat r s.boot.lastReply)
  · show Host.Outcome.next (if s.romServes then s else match s.romCaller 16 with | some k => s.dcpReplyCall k status body | none => s) = _
    rcases idle with alone | none_
    · rw [if_pos alone]
    · rw [none_]
      split <;> rfl

end
end Sys2Proof.Machine

/-! ## The Dreug Control Protocol: writing commands (R366 to R368, R422 to R424) -/
namespace Sys2Proof.Machine
open Sys2Proof Sys2Proof.Claims

/-! ### The boot ROM's writes of NV registers (R422) -/

section
variable {s t u : State} {n v : Nat}

/-- Of the NV registers, their queue and the log the state differs, and in signals; the images are as they were, and the queue is
within its length. -/
structure NvOnly (s t : State) : Prop where
  rest : t = { s with rram := t.rram, alog := t.alog, regs := t.regs, dic := t.dic, keepers := t.keepers }
  images : ∀ b, t.rram.image b = s.rram.image b
  room : s.rram.nvQueue.length ≤ 16 → t.rram.nvQueue.length ≤ 16

theorem NvOnly.refl (s : State) : NvOnly s s := ⟨rfl, fun _ => rfl, id⟩

theorem NvOnly.trans (a : NvOnly s t) (b : NvOnly t u) : NvOnly s u :=
  ⟨by rw [b.rest, a.rest], fun i => (b.images i).trans (a.images i), b.room ∘ a.room⟩

theorem NvOnly.kept (only : NvOnly s t) : t.ctxs = s.ctxs ∧ t.mem = s.mem ∧ t.power = s.power ∧ t.boot = s.boot := by
  rw [only.rest]
  exact ⟨rfl, rfl, rfl, rfl⟩

theorem RingOnly.image (only : RingOnly s t) (b : Bool) : t.rram.image b = s.rram.image b := by
  rw [only]
  rfl

theorem State.nvTake_only {v : Reg32} : NvOnly s (s.nvTake n v) := by
  refine ⟨?_, fun b => (State.nvTake_ring.image b).trans rfl, fun room => ?_⟩
  · rw [State.nvTake_eq]
    split
    · rw [State.raiseP_dic, State.offer_offers.rest]
    · rfl
  · rw [(State.nvTake_kept n v).1]
    exact room

/-- A write of the boot ROM's is taken at once, and the others of its registers stay. -/
theorem State.nvRom_kept (room : s.rram.nvQueue.length ≤ 16) : NvOnly s (s.nvRom n v) ∧
    ∀ m, (s.nvRom n v).nv m = if m = n then BitVec.ofNat 32 v else s.nv m := by
  have offered (z : State) (only : NvOnly s z) (nv : ∀ m, z.nv m = s.nv m) (free : z.rram.nvQueue.length < 16) :
      NvOnly s (z.nvOffer n (BitVec.ofNat 32 v)) ∧
        ∀ m, (z.nvOffer n (BitVec.ofNat 32 v)).nv m = if m = n then BitVec.ofNat 32 v else s.nv m := by
    rw [State.nvOffer_taken free]
    refine ⟨only.trans (NvOnly.trans (t := { z with rram := { z.rram with nvQueue := z.rram.nvQueue ++ [(n, BitVec.ofNat 32 v, 0)] } })
      ⟨rfl, fun _ => rfl, fun _ => ?_⟩ State.nvTake_only), fun m => ?_⟩
    · rw [List.length_append, List.length_singleton]
      exact free
    · rw [State.nvTake_nv, ← nv m]
      rfl
  unfold State.nvRom
  by_cases full : 16 ≤ s.rram.nvQueue.length
  · rw [if_pos full]
    cases queue : s.rram.nvQueue with
    | nil => rw [queue] at full; exact absurd full (by decide)
    | cons e q =>
      obtain ⟨m, w, age⟩ := e
      have length : q.length = 15 := by
        rw [queue] at full room
        simp only [List.length_cons] at full room
        omega
      have is : s.nvCommit true = { s with rram := { s.rram with nvQueue := q, nvCommitted := Sparse.set 0 s.rram.nvCommitted m w } } := by
        unfold State.nvCommit
        rw [queue]
        dsimp only
        rw [List.drop_of_length_le (by omega)]
        rfl
      rw [is]
      exact offered _ ⟨rfl, fun _ => rfl, fun _ => by show q.length ≤ 16; omega⟩ (fun _ => rfl) (by show q.length < 16; omega)
  · rw [if_neg full]
    exact offered s (.refl s) (fun _ => rfl) (by omega)

/-- Registers written one after another. -/
def State.nvRoms (n : Nat) (w : Nat → Nat) (l : List Nat) (s : State) : State := l.foldl (fun (s : State) i => s.nvRom (n + i) (w i)) s

theorem State.nvRoms_kept {w : Nat → Nat} : ∀ (l : List Nat) (s : State), s.rram.nvQueue.length ≤ 16 →
    NvOnly s (s.nvRoms n w l) ∧ ∀ m, (s.nvRoms n w l).nv m =
      if n ≤ m ∧ m - n ∈ l then BitVec.ofNat 32 (w (m - n)) else s.nv m
  | [], s, _ => ⟨.refl s, fun m => (if_neg fun both => absurd both.2 List.not_mem_nil).symm⟩
  | i :: l, s, room => by
    obtain ⟨first, nv⟩ := State.nvRom_kept (n := n + i) (v := w i) room
    obtain ⟨rest, later⟩ := State.nvRoms_kept l (s.nvRom (n + i) (w i)) (first.room room)
    refine ⟨first.trans rest, fun m => ?_⟩
    rw [show s.nvRoms n w (i :: l) = (s.nvRom (n + i) (w i)).nvRoms n w l from rfl, later, nv]
    by_cases mem : n ≤ m ∧ m - n ∈ l
    · rw [if_pos mem, if_pos ⟨mem.1, .tail _ mem.2⟩]
    · rw [if_neg mem]
      by_cases same : m = n + i
      · subst same
        rw [if_pos rfl, if_pos ⟨Nat.le_add_right .., by rw [Nat.add_sub_cancel_left]; exact .head l⟩, Nat.add_sub_cancel_left]
      · rw [if_neg same, if_neg]
        rintro ⟨le, in_⟩
        rcases List.mem_cons.mp in_ with eq | tail_
        · omega
        · exact mem ⟨le, tail_⟩

end

section
variable {m : DcpMsg} {s : State} {key : List Byte}

theorem settings_of (mode : s.power.mode.romAlone = true ∨ s.power.mode = .attended) : s.power.mode.settings = true := by
  rcases mode with h | h
  · rw [Mode.settings, h]
    rfl
  · rw [h]
    rfl

/-! ### Keys and settings (R358, R367, R424) -/

/-- The eight words of a key are its bytes. -/
theorem chunks_flatMap (n : Nat) : ∀ (k : Nat) (l : List Byte), l.length = n * k → (List.range k).flatMap (fun i => (l.drop (n * i)).take n) = l
  | 0, l, length => by
    rw [Nat.mul_zero, List.length_eq_zero_iff] at length
    rw [length]
    rfl
  | k + 1, l, length => by
    rw [List.range_succ_eq_map, List.flatMap_cons, List.flatMap_map]
    have rest := chunks_flatMap n k (l.drop n) (by rw [List.length_drop, length, Nat.mul_succ]; omega)
    have same : (List.range k).flatMap (fun i => (l.drop (n * (i + 1))).take n) = (List.range k).flatMap (fun i => ((l.drop n).drop (n * i)).take n) := by
      simp only [List.drop_drop, Nat.mul_succ, Nat.add_comm n]
    rw [Nat.mul_zero, List.drop_zero]
    show l.take n ++ (List.range k).flatMap (fun i => (l.drop (n * (i + 1))).take n) = l
    rw [same, rest, List.take_append_drop]

/-- Eight NV registers hold the key whose words they were given. -/
theorem State.nvKey_of {t : State} {n : Nat} {l : List Byte} (length : l.length = 32)
    (words : ∀ i, i < 8 → t.nv (n + i) = BitVec.ofNat 32 (ofBytesBE ((l.drop (4 * i)).take 4))) : t.nvKey n = l := by
  have each : ∀ i ∈ List.range 8, bytesBE 4 (t.nvN (n + i)) = (l.drop (4 * i)).take 4 := by
    intro i mem
    have in_ := List.mem_range.mp mem
    have four : ((l.drop (4 * i)).take 4).length = 4 := by rw [List.length_take, List.length_drop, length]; omega
    have small := ofBytesBE_lt ((l.drop (4 * i)).take 4)
    rw [four] at small
    have back := bytesBE_ofBytesBE ((l.drop (4 * i)).take 4)
    rw [four] at back
    rw [State.nvN, words i in_, BitVec.toNat_ofNat, Nat.mod_eq_of_lt (by norm_num at small ⊢; exact small), back]
  rw [State.nvKey, List.flatMap_congr each]
  exact chunks_flatMap 4 8 l length

theorem mergeBits_lt32 (old : Nat) {bit : Nat} (b : Bool) (small : old < 2 ^ 32) (in_ : bit < 32) :
    mergeBits (2 ^ bit) old (b2n b * 2 ^ bit) < 2 ^ 32 := by
  refine Nat.lt_pow_two_of_testBit _ fun i above => ?_
  rw [mergeBits_testBit, Nat.testBit_two_pow_of_ne (by omega), if_neg Bool.false_ne_true]
  exact Nat.testBit_lt_two_pow (small.trans_le (Nat.pow_le_pow_right (by decide) above))

theorem mergeBit_getLsbD (old : Reg32) {bit : Nat} (b : Bool) (in_ : bit < 32) (j : Nat) :
    (BitVec.ofNat 32 (mergeBits (2 ^ bit) old.toNat (b2n b * 2 ^ bit))).getLsbD j = if j = bit then b else old.getLsbD j := by
  rw [BitVec.getLsbD_ofNat, mergeBits_testBit]
  by_cases same : j = bit
  · subst same
    rw [Nat.testBit_two_pow_self, if_pos rfl, if_pos rfl, decide_eq_true in_, Bool.true_and]
    cases b
    · simp [b2n]
    · simp [b2n, Nat.testBit_two_pow_self]
  · rw [Nat.testBit_two_pow_of_ne (Ne.symm same), if_neg Bool.false_ne_true, if_neg same]
    by_cases within : j < 32
    · rw [decide_eq_true within, Bool.true_and]
      rfl
    · rw [decide_eq_false within, Bool.false_and, BitVec.getLsbD_of_ge _ _ (by omega)]

theorem keyset_replies (new : newRequest s m key) (room : s.rram.nvQueue.length ≤ 16) {kind k a b : Byte} {l : List Byte} (cmd : m.cmd = 0x30)
    (zero : m.keyId = 0) (body : m.body = [kind, k, a, b] ++ l) (length : l.length = 32)
    (slot : kind = 0 ∧ k.toNat < 4 ∨ kind = 1 ∧ k.toNat < 2) (mode : s.power.mode.romAlone = true ∨ s.power.mode = .attended) :
    replies .keyset m key s 0 [] (fun t => t.nvKey ((if kind = 0 then 0 else 0x20) + 8 * k.toNat) = l ∧
      (t.nv 0x30).getLsbD (if kind = 0 then k.toNat else 8 + k.toNat) = l.any (· != 0) ∧
      (∀ j, j ≠ (if kind = 0 then k.toNat else 8 + k.toNat) → (t.nv 0x30).getLsbD j = (s.nv 0x30).getLsbD j) ∧
      t.ctxs = s.ctxs ∧ t.mem = s.mem) := by
  generalize bit_ : (if kind = 0 then k.toNat else 8 + k.toNat) = bit
  generalize base_ : (if kind = 0 then 0 else 0x20) + 8 * k.toNat = base
  have places : bit < 32 ∧ base + 8 ≤ 0x30 := by
    rcases slot with ⟨rfl, small⟩ | ⟨rfl, small⟩
    · rw [if_pos rfl] at bit_ base_
      omega
    · rw [if_neg (by decide)] at bit_ base_
      omega
  obtain ⟨only, words⟩ := State.nvRoms_kept (n := base) (w := fun i => ofBytesBE ((l.drop (4 * i)).take 4)) (List.range 8) (noted s m) room
  generalize written : (noted s m).nvRoms base (fun i => ofBytesBE ((l.drop (4 * i)).take 4)) (List.range 8) = s1 at only words
  obtain ⟨last, flag⟩ := State.nvRom_kept (s := s1) (n := 0x30) (v := mergeBits (2 ^ bit) (s1.nvN 0x30) (b2n (l.any (· != 0)) * 2 ^ bit))
    (only.room room)
  generalize marked : s1.nvRom 0x30 (mergeBits (2 ^ bit) (s1.nvN 0x30) (b2n (l.any (· != 0)) * 2 ^ bit)) = t at last flag
  have same : s1.nv 0x30 = s.nv 0x30 := (words 0x30).trans (if_neg (by rw [List.mem_range]; omega))
  have bits (j : Nat) : (t.nv 0x30).getLsbD j = if j = bit then l.any (· != 0) else (s.nv 0x30).getLsbD j := by
    rw [flag, if_pos rfl, ← same]
    exact mergeBit_getLsbD _ _ places.1 j
  obtain ⟨ctxs, mem, -, -⟩ := (only.trans last).kept
  refine serves_replies (z := t) (keyset_serves (by rw [cmd]; rfl)) new ?_ ⟨?_, ?_, fun j other => ?_, ctxs, mem⟩
  · rw [dcpRun_acts (.inr rfl) (settings_of (s := noted s m) mode) (.inr zero)]
    have kind_ : byteAt m.body 0 = kind := by rw [body]; rfl
    have slot_ : byteAt m.body 1 = k := by rw [body]; rfl
    have rest_ : m.body.drop 4 = l := by rw [body]; rfl
    have length_ : m.body.length = 36 := by rw [body, List.length_append, length]; rfl
    unfold State.dcpKeyset
    rw [kind_, slot_, rest_, length_]
    refine congrArg some ?_
    dsimp only
    rcases slot with ⟨rfl, small⟩ | ⟨rfl, small⟩
    · rw [if_pos rfl, Nat.zero_add] at base_
      rw [if_pos rfl] at bit_
      rw [if_neg (by simp; omega), if_pos (by rfl), if_pos (by rfl), base_, bit_, ← marked, ← written]
      rfl
    · rw [if_neg (by decide)] at base_ bit_
      rw [if_neg (by simp; omega), if_neg (by decide), if_neg (by decide), base_, bit_, ← marked, ← written]
      rfl
  · refine State.nvKey_of length fun i in_ => ?_
    refine (flag (base + i)).trans ((if_neg (by omega)).trans ((words (base + i)).trans ?_))
    rw [if_pos ⟨Nat.le_add_right .., by rw [Nat.add_sub_cancel_left]; exact List.mem_range.mpr in_⟩, Nat.add_sub_cancel_left]
  · exact (bits bit).trans (if_pos rfl)
  · exact (bits j).trans (if_neg other)

theorem bootsel_replies (new : newRequest s m key) (room : s.rram.nvQueue.length ≤ 16) (full : s.keyEmpty = false) {b : Bool} (cmd : m.cmd = 0x12)
    (body : m.body = [if b then 1 else 0]) (mode : s.power.mode.romAlone = true ∨ s.power.mode = .attended) :
    replies .bootsel m key s 0 [] (fun t => t.nvN 0x32 = b2n b ∧ t.ctxs = s.ctxs ∧ t.mem = s.mem) := by
  obtain ⟨only, nv⟩ := State.nvRom_kept (s := noted s m) (n := 0x32) (v := b2n b) room
  obtain ⟨ctxs, mem, -, -⟩ := only.kept
  refine serves_replies (z := (noted s m).nvRom 0x32 (b2n b)) (bootsel_serves (by rw [cmd]; rfl)) new ?_ ⟨?_, ctxs, mem⟩
  · rw [dcpRun_acts (s := noted s m) (.inl full) (Bool.or_eq_true_iff.mpr (mode.imp id fun h => by rw [show (noted s m).power = s.power from rfl, h]; rfl)) (.inl rfl)]
    unfold State.dcpBootsel
    rw [body, dcpSlot_bit]
    rfl
  · show (((noted s m).nvRom 0x32 (b2n b)).nv 0x32).toNat = b2n b
    rw [nv, if_pos rfl]
    cases b <;> rfl

theorem minver_replies (new : newRequest s m key) (room : s.rram.nvQueue.length ≤ 16) (full : s.keyEmpty = false) {v : Reg32} (cmd : m.cmd = 0x31)
    (zero : m.keyId = 0) (body : m.body = bytesBE 4 v.toNat) (mode : s.power.mode.romAlone = true ∨ s.power.mode = .attended) :
    (s.nvN 0x31 ≤ v.toNat → replies .minver m key s 0 [] (fun t => t.nv 0x31 = v)) ∧
      (v.toNat < s.nvN 0x31 → onlyReplies .minver m key s 5 []) := by
  have value : ofBytesBE m.body = v.toNat := by
    rw [body]
    exact ofBytesBE_bytesBE_of_lt v.isLt
  have length : m.body.length = 4 := by rw [body]; exact length_bytesBE ..
  have runs : dcpRun m false true Mode.settings (·.dcpMinver m) (noted s m) = some
      (if v.toNat < s.nvN 0x31 then dcpFail (noted s m) 5 else dcpDone ((noted s m).nvRom 0x31 v.toNat) []) := by
    rw [dcpRun_acts (s := noted s m) (.inl full) (settings_of (s := noted s m) mode) (.inr zero)]
    unfold State.dcpMinver
    rw [value, length]
    rfl
  obtain ⟨-, nv⟩ := State.nvRom_kept (s := noted s m) (n := 0x31) (v := v.toNat) room
  refine ⟨fun above => serves_replies (z := (noted s m).nvRom 0x31 v.toNat) (minver_serves (by rw [cmd]; rfl)) new ?_ ?_,
    fun below => serves_onlyReplies (minver_serves (by rw [cmd]; rfl)) new ?_⟩
  · rw [runs, if_neg (by omega)]
    rfl
  · refine (nv 0x31).trans ((if_pos rfl).trans ?_)
    exact BitVec.eq_of_toNat_eq (by rw [BitVec.toNat_ofNat]; exact Nat.mod_eq_of_lt v.isLt)
  · rw [runs, if_pos below]
    rfl

theorem netset_replies (new : newRequest s m key) (room : s.rram.nvQueue.length ≤ 16) (full : s.keyEmpty = false) (cmd : m.cmd = 0x32)
    (zero : m.keyId = 0) (length : m.body.length = 24) (mode : s.power.mode.romAlone = true ∨ s.power.mode = .attended) :
    replies .netset m key s 0 [] (fun t => ∀ i, i < 6 → t.nvN (0x34 + i) = ofBytesBE ((m.body.drop (4 * i)).take 4)) := by
  obtain ⟨-, words⟩ := State.nvRoms_kept (n := 0x34) (w := fun i => ofBytesBE ((m.body.drop (4 * i)).take 4)) (List.range 6) (noted s m) room
  generalize written : (noted s m).nvRoms 0x34 (fun i => ofBytesBE ((m.body.drop (4 * i)).take 4)) (List.range 6) = t at words
  refine serves_replies (z := t) (netset_serves (by rw [cmd]; rfl)) new ?_ fun i in_ => ?_
  · rw [dcpRun_acts (s := noted s m) (.inl full) (settings_of (s := noted s m) mode) (.inr zero)]
    unfold State.dcpNetset
    rw [length, ← written]
    rfl
  · have small := ofBytesBE_lt ((m.body.drop (4 * i)).take 4)
    have four : ((m.body.drop (4 * i)).take 4).length = 4 := by rw [List.length_take, List.length_drop, length]; omega
    rw [four] at small
    refine (congrArg BitVec.toNat (words (0x34 + i))).trans ?_
    rw [if_pos ⟨Nat.le_add_right .., by rw [Nat.add_sub_cancel_left]; exact List.mem_range.mpr in_⟩, Nat.add_sub_cancel_left, BitVec.toNat_ofNat]
    exact Nat.mod_eq_of_lt (by norm_num at small ⊢; exact small)

end
end Sys2Proof.Machine

/-! ## The Dreug Control Protocol: images, Loam and modes (R366 to R368, R408) -/
namespace Sys2Proof.Machine
open Sys2Proof Sys2Proof.Claims

section
variable {m : DcpMsg} {s t : State} {key : List Byte}

/-! ### Images (R360, R361, R367) -/

theorem get_zipIdx_fold (off a : Nat) : ∀ (l : List Byte) (k : Nat) (img : Sparse Byte),
    Sparse.get 0 ((l.zipIdx k).foldl (fun img e => Sparse.set 0 img (off + e.2) e.1) img) a =
      if off + k ≤ a ∧ a < off + k + l.length then l.getD (a - (off + k)) 0 else Sparse.get 0 img a
  | [], k, img => by
    rw [List.length_nil, if_neg (by omega)]
    rfl
  | b :: l, k, img => by
    rw [List.zipIdx_cons, List.foldl_cons, get_zipIdx_fold off a l (k + 1), Sparse.get_set, List.length_cons]
    by_cases first : a = off + k
    · subst first
      rw [if_neg (by omega), if_pos rfl, if_pos (by omega), Nat.sub_self]
      rfl
    · rw [if_neg first]
      by_cases in_ : off + (k + 1) ≤ a ∧ a < off + (k + 1) + l.length
      · rw [if_pos in_, if_pos (by omega)]
        obtain ⟨j, is⟩ : ∃ j, a - (off + k) = j + 1 := ⟨a - (off + k) - 1, by omega⟩
        rw [is, show a - (off + (k + 1)) = j from by omega]
        rfl
      · rw [if_neg in_, if_neg (by omega)]

/-- Bytes put into an image slot stand there, and the other slot is as it was. -/
theorem Rram.putImage_image (r : Rram) (b : Bool) (off : Nat) (l : List Byte) : (r.putImage b off l).image (!b) = r.image (!b) ∧
    ∀ a, Sparse.get 0 ((r.putImage b off l).image b) a =
      if off ≤ a ∧ a < off + l.length then l.getD (a - off) 0 else Sparse.get 0 (r.image b) a := by
  have put (img : Sparse Byte) (a : Nat) := get_zipIdx_fold off a l 0 img
  cases b
  · exact ⟨rfl, fun a => put r.imageA a⟩
  · exact ⟨rfl, fun a => put r.imageB a⟩

/-- The head of a body that names a slot and an offset. -/
theorem imageBody {x y : Byte} {off : Nat} (l : List Byte) (within : off < 2 ^ 32) :
    ofBytesBE ((([x, y] ++ bytesBE 4 off ++ l).drop 2).take 4) = off ∧ ([x, y] ++ bytesBE 4 off ++ l).drop 6 = l ∧
      ([x, y] ++ bytesBE 4 off ++ l).length = 6 + l.length := by
  have four := length_bytesBE 4 off
  have six : ([x, y] ++ bytesBE 4 off).length = 6 := by rw [List.length_append, four]; rfl
  refine ⟨?_, List.drop_left' six, by rw [List.length_append, six]⟩
  rw [List.append_assoc, List.drop_left' (by rfl : [x, y].length = 2), List.take_left' four]
  exact ofBytesBE_bytesBE_of_lt within

theorem imgwrite_runs (full : s.keyEmpty = false) {b : Bool} {x : Byte} {off : Nat} {l : List Byte}
    (body : m.body = [if b then 1 else 0, x] ++ bytesBE 4 off ++ l) (whole : off % 4 = 0) (some_ : 4 ≤ l.length) (short : l.length ≤ 1024)
    (within : off + l.length ≤ 2097152) (mode : s.power.mode.romAlone = true ∨ s.power.mode.program = true) :
    dcpRun m false false (fun x => x.romAlone || x.program) (·.dcpImgwrite m) (noted s m) =
      some (if !s.power.mode.romAlone && (s.nv 0x32).getLsbD 0 == b then dcpFail (noted s m) 5
        else dcpDone { noted s m with rram := s.rram.putImage b off l } []) := by
  obtain ⟨at_, data, length⟩ := imageBody (x := if b then 1 else 0) (y := x) (off := off) l (by omega)
  rw [← body] at at_ data length
  have slot : dcpSlot m.body 0 = some b := by rw [body]; exact dcpSlot_bit ..
  rw [dcpRun_acts (s := noted s m) (.inl full) (Bool.or_eq_true_iff.mpr mode) (.inl rfl)]
  unfold State.dcpImgwrite
  rw [at_, data, slot]
  exact congrArg some (if_neg (by rw [length]; omega))

theorem imgwrite_replies (new : newRequest s m key) (full : s.keyEmpty = false) {b : Bool} {x : Byte} {off : Nat} {l : List Byte}
    (cmd : m.cmd = 0x11) (body : m.body = [if b then 1 else 0, x] ++ bytesBE 4 off ++ l) (whole : off % 4 = 0) (some_ : 4 ≤ l.length)
    (short : l.length ≤ 1024) (within : off + l.length ≤ 2097152) :
    (s.power.mode.romAlone = true ∨ s.power.mode.program = true ∧ (s.nv 0x32).getLsbD 0 ≠ b →
      replies .imgwrite m key s 0 [] (fun t => t = { s with boot := t.boot, rram := t.rram } ∧
        t.rram.image (!b) = s.rram.image (!b) ∧ ∀ a, Sparse.get 0 (t.rram.image b) a =
          if off ≤ a ∧ a < off + l.length then l.getD (a - off) 0 else Sparse.get 0 (s.rram.image b) a)) ∧
    (s.power.mode.romAlone = false → s.power.mode.program = true → (s.nv 0x32).getLsbD 0 = b → onlyReplies .imgwrite m key s 5 []) := by
  refine ⟨fun allowed => ?_, fun alone program same => ?_⟩
  · refine serves_replies (z := { noted s m with rram := s.rram.putImage b off l }) (imgwrite_serves (by rw [cmd]; rfl)) new ?_
      ⟨rfl, s.rram.putImage_image b off l⟩
    rw [imgwrite_runs full body whole some_ short within (allowed.imp id And.left), if_neg]
    · rfl
    · rcases allowed with alone | ⟨-, other⟩
      · rw [alone]
        exact Bool.false_ne_true
      · rw [beq_eq_false_iff_ne.mpr other, Bool.and_false]
        exact Bool.false_ne_true
  · refine serves_onlyReplies (imgwrite_serves (by rw [cmd]; rfl)) new ?_
    rw [imgwrite_runs full body whole some_ short within (.inr program), if_pos]
    · rfl
    · rw [alone, same, beq_self_eq_true]
      rfl

/-- A cold ASCENT begins (R361, R411). -/
theorem State.coldAscent_starts : s.coldAscent.power.mode = .ascent ∧ s.coldAscent.power.transit = true ∧ s.coldAscent.power.warm = false ∧
    s.coldAscent.boot = { s.boot with step := 6 } ∧ s.coldAscent.ctxs = [] ∧ s.coldAscent.rram = s.rram := by
  unfold State.coldAscent State.setMode State.modeRecord
  exact ⟨rfl, rfl, rfl, rfl, rfl, rfl⟩

theorem imgrun_replies (new : newRequest s m key) (full : s.keyEmpty = false) {b : Bool} (cmd : m.cmd = 0x13)
    (body : m.body = [if b then 1 else 0]) (mode : s.power.mode.romAlone = true) :
    (s.imgReason b = 0 → replies .imgrun m key s 0 [0] (fun t => t.power.mode = .ascent ∧ t.power.transit = true ∧
      t.boot.slotB = b ∧ t.boot.step = 6 ∧ t.ctxs = [])) ∧
    (s.imgReason b ≠ 0 → onlyReplies .imgrun m key s 7 (bytesBE 1 (s.imgReason b))) := by
  have runs : dcpRun m false false Mode.romAlone (·.dcpImgrun m) (noted s m) = some (if s.imgReason b ≠ 0 then
      { status := 7, body := bytesBE 1 (s.imgReason b), state := noted s m }
      else dcpDone (State.coldAscent { noted s m with boot := { (noted s m).boot with slotB := b } }) [0]) := by
    rw [dcpRun_acts (s := noted s m) (.inl full) mode (.inl rfl)]
    unfold State.dcpImgrun
    rw [body, dcpSlot_bit]
    rfl
  refine ⟨fun valid => ?_, fun wrong => serves_onlyReplies (imgrun_serves (by rw [cmd]; rfl)) new (by rw [runs, if_pos wrong])⟩
  obtain ⟨mode_, transit, -, boot, ctxs, -⟩ := State.coldAscent_starts (s := { noted s m with boot := { (noted s m).boot with slotB := b } })
  generalize ascent : State.coldAscent { noted s m with boot := { (noted s m).boot with slotB := b } } = z at mode_ transit boot ctxs runs
  refine serves_replies (z := z) (imgrun_serves (by rw [cmd]; rfl)) new ?_ ⟨mode_, transit, ?_, ?_, ctxs⟩
  · rw [runs, if_neg (not_not.mpr valid)]
    rfl
  · exact (congrArg Boot.slotB boot).trans rfl
  · exact (congrArg Boot.step boot).trans rfl

/-! ### Loam (R367, R377) -/

theorem lwrite_replies (new : newRequest s m key) (full : s.keyEmpty = false) {a n done : Nat} {u : State} {ok : Bool} {l : List Byte}
    (cmd : m.cmd = 0x21) (body : m.body = bytesBE 6 a ++ bytesBE 2 n ++ l) (data : l.length = n) (address : a < 2 ^ 48) (whole : a % 4 = 0)
    (words : n % 4 = 0) (some_ : 4 ≤ n) (short : n ≤ 1024) (mode : s.power.mode = .attended ∨ s.power.mode = .diagnostic)
    (writes : State.dcpWrites a (n / 4) l (noted s m) 0 = (u, done, ok)) :
    replies .lwrite m key s (if ok then 0 else 6) (bytesBE 2 done) (fun t => t.mem = u.mem ∧ t.ctxs = u.ctxs) := by
  refine serves_replies (z := u) (lwrite_serves (by rw [cmd]; rfl)) new ?_ ⟨rfl, rfl⟩
  rw [dcpRun_acts (s := noted s m) (.inl full) (loamAccess_of mode) (.inl rfl)]
  obtain ⟨at_, count, rest, length⟩ := loamBody (n := n) l address short
  rw [← body] at at_ count rest length
  unfold State.dcpLwrite
  rw [at_, count]
  dsimp only
  rw [rest, writes]
  exact congrArg some (if_neg (by rw [length]; omega))

/-! ### Modes (R408) -/

/-- RECOVERY is entered with every domain but AON down. -/
def Power.recovered (cause : Byte) (p : Power) : Power :=
  { p with on := 0, retained := false, selfRefresh := 0, dieUnavail := 0, transit := false, dieGoal := none, heldWake := false, cause := cause, mode := .recovery }

/-- What every step keeps, all of them keep. -/
theorem foldl_projection {α β γ : Type} {f : α → β → α} {p : α → γ} (each : ∀ z b, p (f z b) = p z) (l : List β) :
    ∀ z, p (l.foldl f z) = p z := by
  induction l with
  | nil => exact fun _ => rfl
  | cons b l ih => exact fun z => (ih _).trans (each z b)

/-- Where both the supplies and the RRAM are the same. -/
def Outlives (s : State) : Power × Rram := (s.power, s.rram)

theorem State.resetKeeper_outlives (k : Fin 4) : Outlives (s.resetKeeper k) = Outlives s := by
  unfold State.resetKeeper Outlives
  rw [(State.dicCompleteAll_only k.val).rest]
  rfl

theorem State.setReg_outlives (a v : Nat) : Outlives (s.setReg a v) = Outlives s := rfl

theorem State.dropRegs_outlives (p : Nat → Bool) : Outlives (s.dropRegs p) = Outlives s := rfl

theorem State.dropMem_outlives (p : Nat → Bool) : Outlives (s.dropMem p) = Outlives s := rfl

theorem State.dropFrames_outlives (p : Nat → Bool) : Outlives (s.dropFrames p) = Outlives s := rfl

theorem State.sleepPin_outlives (n : Nat) : Outlives (s.sleepPin n) = Outlives s := rfl

theorem State.groupFire_outlives (g : Nat) : Outlives (s.groupFire g) = Outlives s := rfl

theorem State.padsSleep_outlives (l : List Nat) : Outlives (s.padsSleep l) = Outlives s :=
  foldl_projection (p := Outlives) (fun _ n => State.sleepPin_outlives n) l s

theorem State.allGroupsFire_outlives : Outlives s.allGroupsFire = Outlives s :=
  foldl_projection (f := fun (s : State) g => s.groupFire g) (p := Outlives) (fun _ g => State.groupFire_outlives g) (List.range 64) s

/-- The supplies with hub main off. -/
def Power.hubless (p : Power) : Power := { p with on := p.on &&& ~~~2 }

/-- The units that go with hub main. -/
def State.hubUnits (s : State) : State :=
  { s with
    power := s.power.hubless, monitor := Monitor.rest s.monitor.hpd, periph := s.periph.hubRest
    dic := { s.dic with level := (s.dic.level ||| (7#512 <<< 106)) &&& ~~~(1#512 <<< 104) } }

theorem State.hubOff_outlives : Outlives s.hubOff = (s.power.hubless, s.rram) := by
  have resets : Outlives (([1, 2, 3] : List (Fin 4)).foldl (fun (s : State) k => s.resetKeeper k) s) = Outlives s :=
    foldl_projection (fun z k => State.resetKeeper_outlives k) _ s
  have units (y : State) : Outlives y.hubUnits = (y.power.hubless, y.rram) := rfl
  have last (y : State) (same : Outlives y = Outlives s) : Outlives y.hubUnits = (s.power.hubless, s.rram) := by
    obtain ⟨power, rram⟩ := Prod.mk.inj same
    rw [units, power, rram]
  refine last _ ?_
  rw [State.dropFrames_outlives, State.dropMem_outlives, State.dropRegs_outlives, State.setReg_outlives, State.padsSleep_outlives]
  exact resets

/-- The supplies with AON alone powered. -/
def Power.aonAlone (p : Power) : Power :=
  { p with on := 0, retained := false, selfRefresh := 0, dieUnavail := 0, transit := false, dieGoal := none, heldWake := false }

theorem State.aonUnits_outlives : Outlives s.aonUnits = (s.power.aonAlone, s.rram) := rfl

theorem State.aonOnly_outlives : Outlives s.aonOnly = (s.power.aonAlone, s.rram) := by
  obtain ⟨power, rram⟩ := Prod.mk.inj (State.allGroupsFire_outlives.trans (State.resetKeeper_outlives (s := s) 0))
  have hub := State.hubOff_outlives (s := (s.resetKeeper 0).allGroupsFire)
  rw [power, rram] at hub
  generalize start : (s.resetKeeper 0).allGroupsFire.hubOff = z at hub
  have drops (y : State) (same : Outlives y = (s.power.hubless, s.rram)) : Outlives y.aonUnits = (s.power.aonAlone, s.rram) := by
    obtain ⟨on, rest⟩ := Prod.mk.inj same
    rw [State.aonUnits_outlives, on, rest]
    rfl
  unfold State.aonOnly
  rw [start]
  refine drops _ ?_
  rw [State.dropMem_outlives, State.dropRegs_outlives, hub]

/-- What the boot ROM's set-up leaves: supplies, RRAM, straps and the boot's own record. -/
structure BootOnly (s t : State) : Prop where
  power : t.power = s.power
  rram : t.rram = s.rram
  straps : t.periph.straps = s.periph.straps
  boot : t.boot = s.boot

theorem BootOnly.trans {u : State} (a : BootOnly s t) (b : BootOnly t u) : BootOnly s u :=
  ⟨b.power.trans a.power, b.rram.trans a.rram, b.straps.trans a.straps, b.boot.trans a.boot⟩

theorem State.setReg_bootOnly (a v : Nat) : BootOnly s (s.setReg a v) := ⟨rfl, rfl, rfl, rfl⟩

theorem State.romReg_bootOnly (a v : Nat) : BootOnly s (s.romReg a v) := ⟨rfl, rfl, rfl, rfl⟩

theorem State.bootRingAt_bootOnly (o i : Nat) : BootOnly s (s.bootRingAt o i) :=
  (((State.romReg_bootOnly ..).trans (State.setReg_bootOnly ..)).trans (State.romReg_bootOnly ..)).trans (State.setReg_bootOnly ..)

theorem State.bootLip_bootOnly (i : Nat) (valid v6 : Bool) (l : List Nat) : BootOnly s (s.bootLip i valid v6 l) :=
  ((((State.romReg_bootOnly ..).trans (State.setReg_bootOnly ..)).trans (State.setReg_bootOnly ..)).trans
    (State.setReg_bootOnly ..)).trans (State.setReg_bootOnly ..)

theorem State.bootRearm_bootOnly (first : Bool) : BootOnly s (s.bootRearm first) := ⟨rfl, rfl, rfl, rfl⟩

theorem State.bootNet_bootOnly : BootOnly s s.bootNet := by
  unfold State.bootNet
  exact (((State.bootRingAt_bootOnly ..).trans (State.bootRingAt_bootOnly ..)).trans (State.bootRearm_bootOnly _)).trans
    ((((State.setReg_bootOnly ..).trans (State.bootLip_bootOnly ..)).trans (State.bootLip_bootOnly ..)).trans (State.bootLip_bootOnly ..))

theorem State.bootRomAgain_power : s.bootRomAgain.power = s.power := by
  have net := (State.bootNet_bootOnly (s := s)).power
  unfold State.bootRomAgain
  generalize s.bootNet = z at net
  exact net

theorem State.setMode_power (m : Mode) : (s.setMode m).power = { s.power with mode := m } :=
  congrArg (fun p : Power => { p with mode := m }) (s.modeRecord_control s.power.mode m).power

theorem State.arrive_power (m : Mode) : (s.arrive m).power = { s.power with mode := m, transit := false, dieGoal := none } := by
  refine (State.raiseP_control _ 64).power.trans ?_
  show { (s.setMode m).power with transit := false, dieGoal := none } = _
  rw [State.setMode_power]

theorem State.recoveryEntry_power (cause : Byte) : (s.recoveryEntry cause).power = s.power.recovered cause := by
  have record (b : Prop) [Decidable b] (l : List Byte) : (if b then s.offer 0x0005 1 l else s).power = s.power := by
    split
    · exact (State.offer_control s ..).power
    · rfl
  have aon (z : State) : (z.aonOnly.setCause cause).power = { z.power.aonAlone with cause := cause } :=
    congrArg (fun p : Power => { p with cause := cause }) (congrArg Prod.fst (State.aonOnly_outlives (s := z)))
  unfold State.recoveryEntry
  dsimp only
  rw [State.arrive_power, State.bootRomAgain_power, aon, record]
  rfl

theorem State.warmAscent_power (cause : Byte) (goal : Mode) : (s.warmAscent cause goal).power =
    { s.power with cause := cause, mode := .ascent, transit := true, warm := true, goal := goal, heldWake := false, ascents := s.power.ascents + 1 } := by
  have mode := State.setMode_power (s := s.setCause cause) .ascent
  generalize marked : (s.setCause cause).setMode .ascent = z at mode
  have wakes (b : Bool) (y : State) (l : List Nat) (k : Keeper → Keeper) : (if b then (y.padsWake l).modKeeper 0 k else y).power = y.power := by
    split
    · exact foldl_projection (f := State.wakePad) (p := State.power) (fun _ _ => rfl) l y
    · rfl
  unfold State.warmAscent
  dsimp only
  rw [marked]
  refine (State.raiseP_control _ 74).power.trans ?_
  refine (wakes ..).trans ?_
  dsimp only
  rw [mode]
  rfl

/-- What a request does to the supplies (R408). -/
def Power.does (a : PowerAct) (p : Power) : Power :=
  match a with
  | .result r => { p with result := r }
  | .go m => { p with result := 0, cause := 0, mode := m, transit := false, dieGoal := none }
  | .drain m => { p with after := m, result := 0, cause := 0, mode := .draining, transit := false, dieGoal := none }
  | .after m => { p with after := m, result := 0 }
  | .descend m => { p with result := 0, transit := true, goal := m }
  | .wake m => { p with
      result := 0, cause := 0, mode := .ascent, transit := true, warm := true, goal := m, heldWake := false, ascents := p.ascents + 1 }
  | .recover => { p with result := 0 }.recovered 0

theorem State.powerDo_power (a : PowerAct) : (s.powerDo a).power = s.power.does a := by
  cases a with
  | result r => rfl
  | go m => exact State.arrive_power (s := (s.pwrResult 0).setCause 0) m
  | drain m => exact State.arrive_power (s := (({ s with power := { s.power with after := m } } : State).pwrResult 0).setCause 0) .draining
  | after m => rfl
  | descend m => rfl
  | wake m => exact State.warmAscent_power (s := s.pwrResult 0) 0 m
  | recover => exact State.recoveryEntry_power (s := s.pwrResult 0) 0

theorem State.powerRequest_power (v : Nat) : (s.powerRequest v).power =
    Power.does (s.powerAct (Mode.ofCode (v % 16)) (field v 8 4)) { s.power with target := BitVec.ofNat 4 v } :=
  (State.raiseP_control _ 75).power.trans (State.powerDo_power (s := { s with power := { s.power with target := BitVec.ofNat 4 v } }) _)

theorem Power.does_result {a : PowerAct} {p : Power} (goes : ∀ r, a ≠ .result r) : (p.does a).result = 0 := by
  cases a with
  | result r => exact absurd rfl (goes r)
  | _ => rfl

theorem exec_powerRequest (on : s.power.mode ∉ [Mode.sealed, .off, .dormant]) (v : Byte) :
    exec (.powerRequest 0x80 (v.setWidth 32)) s = .next (s.powerRequest v.toNat) := by
  have value : (v.setWidth 32).toNat = v.toNat := by
    rw [BitVec.toNat_setWidth]
    exact Nat.mod_eq_of_lt (by have := v.isLt; omega)
  rw [← value]
  refine congrArg Host.Outcome.next (if_pos ⟨rfl, fun off => on ?_, fun dormant => on ?_⟩)
  · rw [off]
    decide
  · rw [dormant]
    decide

theorem dcpMode_replies (new : newRequest s m key) (full : s.keyEmpty = false) {v : Byte} (cmd : m.cmd = 3) (body : m.body = [v])
    (small : v.toNat < 16) (on : s.power.mode ∉ [Mode.sealed, .off, .dormant]) :
    ∃ z, exec (.powerRequest 0x80 (v.setWidth 32)) s = .next z ∧
      replies .dcpMode m key s z.power.result.toNat (bytesBE 1 z.power.mode.code) (fun t => t.power = z.power) := by
  refine ⟨s.powerRequest v.toNat, exec_powerRequest on v, ?_⟩
  have same : ((noted s m).powerRequest v.toNat).power = (s.powerRequest v.toNat).power := by
    rw [State.powerRequest_power, State.powerRequest_power]
    rfl
  have act : s.powerAct (Mode.ofCode (v.toNat % 16)) (field v.toNat 8 4) = s.powerAct (Mode.ofCode v.toNat) 0 := by
    rw [Nat.mod_eq_of_lt small, field, Nat.div_eq_of_lt (by omega), Nat.zero_mod]
  have power := State.powerRequest_power (s := s) v.toNat
  rw [act] at power
  have runs : dcpRun m false false (fun x => x != .sealed) (·.dcpSetMode m) (noted s m) = some { status := (s.powerRequest v.toNat).power.result.toNat, body := bytesBE 1 (s.powerRequest v.toNat).power.mode.code, state := (noted s m).powerRequest v.toNat } := by
    have mode : ((noted s m).power.mode != .sealed) = true := by
      rw [bne_iff_ne]
      exact fun is => on (by rw [show s.power.mode = .sealed from is]; decide)
    rw [dcpRun_acts (s := noted s m) (.inl full) mode (.inl rfl)]
    have byte : byteAt m.body 0 = v := by rw [body]; rfl
    unfold State.dcpSetMode
    rw [byte, body, if_neg (by simp)]
    dsimp only
    rw [show (noted s m).powerAct (Mode.ofCode v.toNat) 0 = s.powerAct (Mode.ofCode v.toNat) 0 from rfl, if_pos small]
    cases does : s.powerAct (Mode.ofCode v.toNat) 0 with
    | result r =>
      rw [does] at power
      rw [power]
      rfl
    | _ =>
      have zero : (s.powerRequest v.toNat).power.result = 0 := by
        rw [power, does]
        exact Power.does_result fun r h => nomatch h
      rw [zero, ← same]
      rfl
  exact serves_replies (dcpMode_serves (by rw [cmd]; rfl)) new runs same

theorem dcpWritesRule_kept : dcpWritesRule := by
  unfold dcpWritesRule
  intro m key s new room
  exact ⟨fun kind k a b l cmd zero body length slot mode => keyset_replies new room cmd zero body length slot mode, fun full =>
    ⟨fun v cmd body small on => dcpMode_replies new full cmd body small on,
      fun b x off l cmd body whole some_ short within => imgwrite_replies new full cmd body whole some_ short within,
      fun b cmd body mode => bootsel_replies new room full cmd body mode, fun b cmd body mode => imgrun_replies new full cmd body mode,
      fun a n u done ok l cmd body data address whole words some_ short mode writes =>
        lwrite_replies new full cmd body data address whole words some_ short mode writes,
      fun v cmd zero body mode => minver_replies new room full cmd zero body mode,
      fun cmd zero length mode => netset_replies new room full cmd zero length mode⟩⟩

end
end Sys2Proof.Machine

/-! ## Start-up (R358, R361, R408, R454) -/
namespace Sys2Proof.Machine
open Sys2Proof Sys2Proof.Claims

section
variable {s t : State} {v : Nat}

/-! ### What the boot ROM's steps leave -/

theorem BootOnly.of_pins {l : Sparse Pin} : BootOnly s { s with pins := l } := ⟨rfl, rfl, rfl, rfl⟩

theorem BootOnly.refl (s : State) : BootOnly s s := ⟨rfl, rfl, rfl, rfl⟩

theorem BootOnly.foldl {α : Type} {f : State → α → State} (each : ∀ z a, BootOnly z (f z a)) (l : List α) :
    ∀ s, BootOnly s (l.foldl f s) := by
  induction l with
  | nil => exact BootOnly.refl
  | cons a l ih => exact fun s => (each s a).trans (ih _)

theorem State.pinLevel_bootOnly (n : Nat) : BootOnly s (s.pinLevel n) := by
  obtain ⟨p, d, k, is⟩ := State.pinLevel_pinsOnly s n
  rw [is]
  exact ⟨rfl, rfl, rfl, rfl⟩

theorem State.switchPin_bootOnly (o : BitVec 2) (n : Nat) : BootOnly s (s.switchPin o n) := by
  unfold State.switchPin
  split
  · exact .refl s
  · exact BootOnly.trans (t := s.modPin n _) ⟨rfl, rfl, rfl, rfl⟩ (State.pinLevel_bootOnly n)

theorem State.setGpioEn_bootOnly (v : Nat) : BootOnly s (s.setGpioEn v) :=
  (State.setReg_bootOnly gpioEn v).trans
    (.foldl (f := fun (z : State) n => z.switchPin (ownerOf v n) n) (fun _ _ => State.switchPin_bootOnly ..) (List.range 48) _)

theorem State.bootText_bootOnly : BootOnly s s.bootText := ⟨rfl, rfl, rfl, rfl⟩

theorem State.bootMac_bootOnly (p m : Nat) : BootOnly s (s.bootMac p m) :=
  (State.setReg_bootOnly ..).trans (State.setReg_bootOnly ..)

theorem State.gpioWrite_bootOnly (b : Nat) (oe : Bool) (v : Nat) : BootOnly s (s.gpioWrite b oe v) := by
  obtain ⟨l, is⟩ := s.gpioWrite_pins b oe v
  rw [is]
  exact (State.setReg_bootOnly ..).trans .of_pins

theorem State.i2cFill_bootOnly (k : Nat) (l : List Byte) : BootOnly s (s.i2cFill k l) := by
  have only := State.i2cFill_regsOnly (s := s) k l
  rw [only]
  exact ⟨rfl, rfl, rfl, rfl⟩

theorem State.bootCmis_bootOnly : BootOnly s s.bootCmis := by
  have moved (f : Nat) (w : List Sent) (r : Vector (BitVec 3) 4) (v : Nat) (l : List Byte) : BootOnly s
      ((({ s with fresh := f, wire := w, periph := { s.periph with i2cResult := r } } : State).setReg (i2cAddr 0 0) v).i2cFill 0 l) :=
    BootOnly.trans (s := s) (t := { s with fresh := f, wire := w, periph := { s.periph with i2cResult := r } }) ⟨rfl, rfl, rfl, rfl⟩
      ((State.setReg_bootOnly ..).trans (State.i2cFill_bootOnly ..))
  exact moved ..

theorem State.bootModule_bootOnly : BootOnly s s.bootModule := by
  unfold State.bootModule
  split
  · exact .refl s
  · exact ((State.gpioWrite_bootOnly ..).trans (State.gpioWrite_bootOnly ..)).trans State.bootCmis_bootOnly

/-! ### The RRAM in RECOVERY and in ASCENT -/

theorem RingOnly.trans {u : State} (a : RingOnly s t) (b : RingOnly t u) : RingOnly s u := by
  unfold RingOnly at a b ⊢
  rw [b, a]

theorem RingOnly.of_rram (same : t.rram = s.rram) : RingOnly s t := by
  unfold RingOnly
  rw [same]

theorem State.arrive_ring (m : Mode) : RingOnly s (s.arrive m) := by
  have record : RingOnly s (s.modeRecord s.power.mode m) := by
    unfold State.modeRecord
    split
    · exact .of_rram rfl
    · exact State.offer_ring
  exact record.trans (.of_rram (State.raiseP_rram 64))

theorem State.bootRomAgain_rram : s.bootRomAgain.rram = s.rram := by
  have net := (State.bootNet_bootOnly (s := s)).rram
  unfold State.bootRomAgain
  generalize s.bootNet = z at net
  exact net

theorem State.recoveryEntry_ring (cause : Byte) : RingOnly s (s.recoveryEntry cause) := by
  have record (b : Prop) [Decidable b] (l : List Byte) : RingOnly s (if b then s.offer 0x0005 1 l else s) := by
    split
    · exact State.offer_ring
    · exact .of_rram rfl
  have aon (z : State) : (z.aonOnly.setCause cause).rram = z.rram := by
    have outlives := State.aonOnly_outlives (s := z)
    generalize z.aonOnly = y at outlives
    exact congrArg Prod.snd outlives
  unfold State.recoveryEntry
  dsimp only
  have first := record (s.power.mode = .serving ∨ s.power.mode = .draining)
    (bytesBE 2 (s.slots.filter (fun e => e.2.ctx.isSome)).length)
  generalize (if s.power.mode = .serving ∨ s.power.mode = .draining then
    s.offer 0x0005 1 (bytesBE 2 (s.slots.filter (fun e => e.2.ctx.isSome)).length) else s) = z at first
  have second : RingOnly z (z.aonOnly.setCause cause).bootRomAgain := by
    refine .of_rram ?_
    rw [State.bootRomAgain_rram]
    exact aon z
  generalize (z.aonOnly.setCause cause).bootRomAgain = y at second
  exact first.trans (second.trans (State.arrive_ring _))

/-! ### The choice of an image (R360, R361 step 5) -/

/-- The reason under R360 rests on the images and the registers of the keys and the least version. -/
theorem State.imgReason_congr (images : ∀ b, t.rram.image b = s.rram.image b) (nv : ∀ n, n ≠ nvrBootcnt → t.nv n = s.nv n) (b : Bool) :
    t.imgReason b = s.imgReason b := by
  have key (k : Nat) (small : k < 2) : t.nvKey (0x20 + 8 * k) = s.nvKey (0x20 + 8 * k) := by
    unfold State.nvKey State.nvN
    refine List.flatMap_congr fun i mem => ?_
    have := List.mem_range.mp mem
    rw [nv _ (by unfold nvrBootcnt; omega)]
  have signed (m : Sparse Byte) : t.imgSigned m = s.imgSigned m := by
    unfold State.imgSigned
    simp only [List.any_cons, List.any_nil, key 0 (by decide), key 1 (by decide), nv 0x30 (by decide)]
  unfold State.imgReason State.nvN
  dsimp only
  rw [images, signed, nv 0x31 (by decide)]

/-- The image of slot B, or of slot A, is chosen. -/
def State.inSlot (b : Bool) (s : State) : State := { s with boot := { s.boot with slotB := b, step := 5 } }

/-- What step 5 of R361 comes to: RECOVERY, or the image's slot, with or without ASCENT. -/
theorem State.bootChoose_chooses :
    RingOnly s s.bootChoose ∧ (s.imgReason ((s.nv 0x32).getLsbD 0) ≠ 0 → s.imgReason (!(s.nv 0x32).getLsbD 0) ≠ 0 →
      s.bootChoose.power.mode = .recovery ∧ s.bootChoose.power.cause = 6) ∧
    (s.imgReason ((s.nv 0x32).getLsbD 0) = 0 ∨ s.imgReason (!(s.nv 0x32).getLsbD 0) = 0 →
      s.bootChoose.boot.slotB = (if s.imgReason ((s.nv 0x32).getLsbD 0) = 0 then (s.nv 0x32).getLsbD 0 else !(s.nv 0x32).getLsbD 0) ∧
      (s.periph.straps.getLsbD 1 = false → s.bootChoose.power = s.power ∧ s.bootChoose.boot.step = 5) ∧
      (s.periph.straps.getLsbD 1 = true → s.bootChoose.power.mode = .ascent ∧ s.bootChoose.power.transit = true ∧
        s.bootChoose.power.warm = false)) := by
  have goes (b : Bool) (z : State) (is : s.bootChoose = z) (go : (if s.periph.straps.getLsbD 1 then
      (s.inSlot b).bootText.coldAscent else s.inSlot b) = z) : RingOnly s z ∧ z.boot.slotB = b ∧
      (s.periph.straps.getLsbD 1 = false → z.power = s.power ∧ z.boot.step = 5) ∧
      (s.periph.straps.getLsbD 1 = true → z.power.mode = .ascent ∧ z.power.transit = true ∧ z.power.warm = false) := by
    by_cases on : s.periph.straps.getLsbD 1 = true
    · rw [if_pos on] at go
      subst go
      obtain ⟨mode, transit, warm, boot, -, rram⟩ := State.coldAscent_starts (s := (s.inSlot b).bootText)
      exact ⟨.of_rram rram, (congrArg Boot.slotB boot).trans rfl, fun off => absurd (off.symm.trans on) Bool.false_ne_true,
        fun _ => ⟨mode, transit, warm⟩⟩
    · rw [if_neg on] at go
      subst go
      exact ⟨.of_rram rfl, rfl, fun _ => ⟨rfl, rfl⟩, fun up => absurd up on⟩
  by_cases one : s.imgReason ((s.nv 0x32).getLsbD 0) = 0
  · obtain ⟨ring, slot, off, up⟩ := goes ((s.nv 0x32).getLsbD 0) _ rfl (if_pos one).symm
    exact ⟨ring, fun bad => absurd one bad, fun _ => ⟨slot.trans (if_pos one).symm, off, up⟩⟩
  · by_cases two : s.imgReason (!(s.nv 0x32).getLsbD 0) = 0
    · obtain ⟨ring, slot, off, up⟩ := goes (!(s.nv 0x32).getLsbD 0) _ rfl ((if_neg one).trans (if_pos two)).symm
      exact ⟨ring, fun _ bad => absurd two bad, fun _ => ⟨slot.trans (if_neg one).symm, off, up⟩⟩
    · have is : s.bootChoose = (s.offer 0x0002 0 (bytesBE 1 (s.imgReason false) ++ bytesBE 1 (s.imgReason true))).recoveryEntry 6 :=
        (if_neg one).trans (if_neg two)
      refine ⟨?_, fun _ _ => ?_, fun valid => absurd valid (not_or.mpr ⟨one, two⟩)⟩
      · rw [is]
        exact State.offer_ring.trans (State.recoveryEntry_ring 6)
      · rw [is, State.recoveryEntry_power]
        exact ⟨rfl, rfl⟩

/-! ### BOOT_ROM_START -/

/-- The boot ROM's set-up after it has counted the boot. -/
def State.bootSetUp (s : State) : State :=
  (((((s.setGpioEn aonBlocks).setReg (ledAddr 0) 4).bootText.bootMac 0 0).bootText).bootNet.bootModule).bootText

theorem State.bootSetUp_bootOnly : BootOnly s s.bootSetUp := by
  have first : BootOnly s ((((s.setGpioEn aonBlocks).setReg (ledAddr 0) 4).bootText.bootMac 0 0).bootText) :=
    ((((State.setGpioEn_bootOnly aonBlocks).trans (State.setReg_bootOnly ..)).trans State.bootText_bootOnly).trans
      (State.bootMac_bootOnly 0 0)).trans State.bootText_bootOnly
  unfold State.bootSetUp
  generalize (((s.setGpioEn aonBlocks).setReg (ledAddr 0) 4).bootText.bootMac 0 0).bootText = z at first
  exact ((first.trans State.bootNet_bootOnly).trans State.bootModule_bootOnly).trans State.bootText_bootOnly

/-- The boot ROM stands behind step 4 of R361. -/
def State.atStepFour (s : State) : State := ({ s with boot := { s.boot with step := 4 } } : State).bootText

theorem State.bootStart_eq : s.bootStart = if s.periph.straps.getLsbD 0 then
    ((s.nvRom nvrBootcnt ((s.nvN nvrBootcnt + 1) % 2 ^ 32)).bootSetUp.atStepFour).recoveryEntry 5
    else (((s.nvRom nvrBootcnt ((s.nvN nvrBootcnt + 1) % 2 ^ 32)).bootSetUp.atStepFour).bootChoose).bootText := rfl

theorem bootStartsRule_kept : bootStartsRule := by
  unfold bootStartsRule
  intro s mode lock step strapped room first
  have firsts : (s.nv 0x32).getLsbD 0 = first := rfl
  clear_value first
  refine ⟨s.bootStart, congrArg Host.Outcome.next (if_pos ⟨mode, lock, step, strapped⟩), ?_⟩
  obtain ⟨counted, nv⟩ := State.nvRom_kept (n := nvrBootcnt) (v := (s.nvN nvrBootcnt + 1) % 2 ^ 32) room
  rw [State.bootStart_eq]
  generalize s.nvRom nvrBootcnt ((s.nvN nvrBootcnt + 1) % 2 ^ 32) = s1 at counted nv
  have setUp := State.bootSetUp_bootOnly (s := s1)
  generalize s1.bootSetUp = s2 at setUp
  obtain ⟨-, -, power1, boot1⟩ := counted.kept
  have straps1 : s1.periph = s.periph := by rw [counted.rest]
  have power4 : s2.atStepFour.power = s.power := setUp.power.trans power1
  have rram4 : s2.atStepFour.rram = s1.rram := setUp.rram
  have straps4 : s2.atStepFour.periph.straps = s.periph.straps := setUp.straps.trans (congrArg Periph.straps straps1)
  generalize s2.atStepFour = s4 at power4 rram4 straps4
  have nv4 (m : Nat) : s4.nv m = s1.nv m := (RingOnly.of_rram rram4).nv m
  have count4 : s4.nvN nvrBootcnt = (s.nvN nvrBootcnt + 1) % 2 ^ 32 := by
    rw [State.nvN, nv4, nv, if_pos rfl, BitVec.toNat_ofNat, Nat.mod_mod]
  have counts {t : State} (ring : RingOnly s4 t) : t.nvN nvrBootcnt = (s.nvN nvrBootcnt + 1) % 2 ^ 32 := by
    rw [State.nvN, ring.nv]
    exact count4
  by_cases keeps : s.periph.straps.getLsbD 0 = true
  · rw [if_pos keeps]
    refine ⟨counts (State.recoveryEntry_ring 5), fun _ => ?_, fun off => absurd (off.symm.trans keeps) Bool.false_ne_true⟩
    rw [State.recoveryEntry_power]
    exact ⟨rfl, rfl⟩
  · have sel : (s4.nv 0x32).getLsbD 0 = first := by rw [nv4, nv, if_neg (by decide), firsts]
    have reason (b : Bool) : s4.imgReason b = s.imgReason b :=
      State.imgReason_congr (fun c => by rw [rram4, counted.images]) (fun n other => by rw [nv4, nv, if_neg other]) b
    obtain ⟨ring, recovers, goes⟩ := State.bootChoose_chooses (s := s4)
    simp only [sel, reason, straps4, power4] at recovers goes
    rw [if_neg keeps]
    generalize s4.bootChoose = z at ring recovers goes
    refine ⟨counts (ring.trans (.of_rram rfl)), fun up => absurd up keeps, fun _ => ⟨recovers, fun valid => ?_⟩⟩
    obtain ⟨slot, off, up⟩ := goes valid
    exact ⟨slot, fun low => ⟨(congrArg Power.mode (off low).1).trans mode, (off low).2⟩, up⟩

end
end Sys2Proof.Machine

/-! ## The Dreug Control Protocol: what a call returns, and a reply's frame (R315, R365, R369) -/
namespace Sys2Proof.Machine
open Sys2Proof Sys2Proof.Claims

section
variable {k : Fin 4} {s t : State}

/-! ### A call returns -/

theorem State.count32_passes (a n : Nat) : Passes k s (s.count32 (.keeper k) a n) := by
  refine ⟨State.count32_local, ?_⟩
  simp [State.count32, State.setOwnIo, State.cpu, State.keeper_modKeeper, CpuState.core]

/-- Words set below a place leave those at it and above, and those out of their reach. -/
theorem get_stackWords (w : Nat → Word) (sp a : Nat) (l : List Nat) (far : ∀ i ∈ l, i < sp → sp - 1 - i ≠ a) : ∀ m : Sparse Word,
    Sparse.get 0 (l.foldl (fun m i => if i < sp then Sparse.set 0 m (sp - 1 - i) (w i) else m) m) a = Sparse.get 0 m a := by
  induction l with
  | nil => exact fun _ => rfl
  | cons i l ih =>
    intro m
    rw [List.foldl_cons, ih fun j mem => far j (.tail _ mem)]
    split
    · next below => rw [Sparse.get_set, if_neg (far i (.head l) below).symm]
    · rfl

/-- What a call leaves of a Keeper that passed its time as `y`. -/
def Keeper.called (out : List (Option Word)) (f : Nat) (u : CpuState) (dram : Sparse Word) (y : Keeper) : Keeper :=
  { y with
    dram := (List.range 32).foldl (fun (m : Sparse Word) i =>
      if i < u.w[15].toNat then Sparse.set 0 m (u.w[15].toNat - 1 - i) (Config.freeWord (f + 20 + i)) else m) dram
    cpu := { y.cpu with
      w := Vector.ofFn (fun i => ((List.finRange 16).map (fun (r : Fin 16) =>
        if r = 15 then u.w[15] + 1
        else match out[r.val]? with
          | some (some v) => v
          | some none => Config.freeWord (f + 2 + r.val)
          | none => u.w[r])).getD i.val 0)
      pc := Sparse.get 0 dram u.w[15].toNat
      seg := y.cpu.seg.set 7 ((Config.freeWord (f + 18) ++ Config.freeWord (f + 19)).setWidth 38)
      st := (y.cpu.st &&& ~~~(15#16)) ||| (Config.freeWord (f + 17) &&& 15#16), loadOld := [], shadow := false, clear := false } }

theorem State.romReturn_called (out : List (Option Word)) : ∃ y : Keeper, y.cpu.core = (s.keeper k).cpu.core ∧
    (s.romReturn k out).keeper k = y.called out s.fresh (s.keeper k).cpu (s.keeper k).dram ∧
    (s.romReturn k out).mem = s.mem ∧ (s.romReturn k out).ctxs = s.ctxs := by
  have timed := (State.keeperTime_passes (k := k) (s := s) (Config.freeCount s.fresh % 1536001)).trans
    (State.count32_passes 0xFE30 (Config.freeCount (s.fresh + 1) % 1536001))
  unfold State.romReturn
  dsimp only
  generalize (s.keeperTime k (Config.freeCount s.fresh % 1536001)).count32 (.keeper k) 0xFE30 (Config.freeCount (s.fresh + 1) % 1536001) = z at timed
  obtain ⟨f, is, -⟩ := timed.only
  refine ⟨z.keeper k, timed.core, ?_, ?_, ?_⟩
  · rw [State.keeper_modKeeper, if_pos rfl]
    rfl
  · rw [is]
    rfl
  · rw [is]
    rfl

theorem Keeper.called_word (out : List (Option Word)) (f : Nat) (u : CpuState) (dram : Sparse Word) (y : Keeper) (r : Fin 16) :
    (y.called out f u dram).cpu.w[r] = if r = 15 then u.w[15] + 1
      else match out[r.val]? with
        | some (some v) => v
        | some none => Config.freeWord (f + 2 + r.val)
        | none => u.w[r] := by
  unfold Keeper.called
  rw [Fin.getElem_fin, Vector.getElem_ofFn, List.getD_eq_getElem?_getD, List.getElem?_map, List.getElem?_eq_getElem (by rw [List.length_finRange]; exact r.isLt),
    List.getElem_finRange]
  rfl

theorem romReturn_keeps (out : List (Option Word)) :
    let u := (s.keeper k).cpu
    let t := s.romReturn k out
    let v := (t.keeper k).cpu
    v.w[15] = u.w[15] + 1 ∧ v.pc = Sparse.get 0 (s.keeper k).dram u.w[15].toNat ∧ v.x = u.x ∧
    (∀ j, j < 7 → v.seg[j]? = u.seg[j]?) ∧ (∀ r : Fin 16, r ≠ 15 → out.length ≤ r.val → v.w[r] = u.w[r]) ∧
    (∀ (r : Fin 16) x, r ≠ 15 → out[r.val]? = some (some x) → v.w[r] = x) ∧ t.mem = s.mem ∧ t.ctxs = s.ctxs ∧
    (∀ a, u.w[15].toNat ≤ a ∨ a + 32 < u.w[15].toNat → Sparse.get 0 (t.keeper k).dram a = Sparse.get 0 (s.keeper k).dram a) := by
  intro u t v
  obtain ⟨y, core, is, mem, ctxs⟩ := State.romReturn_called (s := s) (k := k) out
  have word (r : Fin 16) := Keeper.called_word out s.fresh u (s.keeper k).dram y r
  have kept : v = (y.called out s.fresh u (s.keeper k).dram).cpu := congrArg Keeper.cpu is
  refine ⟨?_, ?_, ?_, fun j small => ?_, fun r other past => ?_, fun r x other at_ => ?_, mem, ctxs, fun a far => ?_⟩
  · rw [kept]
    exact (word 15).trans (if_pos rfl)
  · rw [kept]
    rfl
  · rw [kept]
    have same : y.cpu.core.x = u.core.x := congrArg CpuState.x core
    exact same
  · rw [kept]
    have same : y.cpu.core.seg = u.core.seg := congrArg CpuState.seg core
    rw [show u.seg = y.cpu.seg from same.symm]
    exact (Vector.getElem?_set (hi := by decide)).trans (if_neg (by omega))
  · rw [kept, word, if_neg other, List.getElem?_eq_none past]
  · rw [kept, word, if_neg other, at_]
  · rw [is]
    refine get_stackWords (fun i => Config.freeWord (s.fresh + 20 + i)) u.w[15].toNat a _ (fun i mem below => ?_) _
    have := List.mem_range.mp mem
    omega

/-! ### A reply's frame -/

theorem be16_lt (l : List Byte) (i : Nat) : be16 l i < 65536 := by
  exact (ofBytesBE_lt _).trans_le (Nat.pow_le_pow_right (n := 256) (by decide) (List.length_take_le 2 (l.drop i)))

/-- The parts of a datagram have their lengths, and its frame the headers before it. -/
structure Datagram.Fits (l : List Byte) (d : Datagram) : Prop where
  off : d.off = 14 + (if d.v6 then 48 else 28) ∨ d.off = 18 + (if d.v6 then 48 else 28)
  long : d.off ≤ l.length
  src : d.src.length = if d.v6 then 16 else 4
  dst : d.dst.length = if d.v6 then 16 else 4
  sport : d.sport < 65536
  dport : d.dport < 65536

theorem udpOf_fits {off : Nat} {ip : RxIp} {d : Datagram} {l : List Byte} (at_ : off = 14 ∨ off = 18) (is : udpOf off ip = some d)
    (parts : ip.options = false → 8 ≤ ip.l4.length → off + (if ip.v6 then 40 else 20) + 8 ≤ l.length ∧
      ip.src.length = (if ip.v6 then 16 else 4) ∧ ip.dst.length = if ip.v6 then 16 else 4) : d.Fits l := by
  unfold udpOf at is
  split at is
  · cases is
  · next whole =>
    simp only [not_or, not_lt, Bool.not_eq_true] at whole
    obtain ⟨-, plain, -, least, room⟩ := whole
    obtain ⟨long, src, dst⟩ := parts plain (least.trans room)
    obtain rfl := Option.some.inj is
    refine ⟨at_.imp (congrArg (· + _)) (congrArg (· + _)), ?_, src, dst, be16_lt .., be16_lt ..⟩
    revert long
    cases ip.v6
    · exact id
    · exact id

/-- Bytes within a list are as many as are asked for. -/
theorem length_part {l : List Byte} {i n : Nat} (long : i + n ≤ l.length) : ((l.drop i).take n).length = n := by
  rw [List.length_take, List.length_drop]
  omega

theorem frameUdp_fits {l : List Byte} {d : Datagram} (is : frameUdp l = some d) : d.Fits l := by
  have at_ : (parseFrame l).off = 14 ∨ (parseFrame l).off = 18 := by
    unfold parseFrame
    dsimp only
    split
    · exact .inl rfl
    · split
      · split
        · exact .inr rfl
        · exact .inr rfl
      · exact .inl rfl
  unfold frameUdp at is
  dsimp only at is
  generalize (parseFrame l).off = off at at_ is
  have rest : (l.drop off).length = l.length - off := List.length_drop
  split at is
  · obtain ⟨ip, four, udp⟩ := Option.bind_eq_some_iff.mp is
    refine udpOf_fits at_ udp fun plain some_ => ?_
    unfold parseIp4 at four
    dsimp only at four
    split at four
    · cases four
    · next whole =>
      simp only [not_or, not_lt] at whole
      obtain ⟨-, least, -, room, -⟩ := whole
      obtain rfl := Option.some.inj four
      have short : (byteAt (l.drop off) 0).toNat % 16 = 5 := le_antisymm (not_lt.mp (of_decide_eq_false plain)) least
      dsimp only at some_
      rw [short, List.length_drop, List.length_take] at some_
      have long : off + 28 ≤ l.length := by omega
      exact ⟨long, length_part (by omega), length_part (by omega)⟩
  · split at is
    · refine udpOf_fits at_ is fun _ some_ => ?_
      unfold parseIp6 at some_ ⊢
      dsimp only at some_ ⊢
      rw [List.length_take, List.length_drop] at some_
      have long : off + 48 ≤ l.length := by omega
      exact ⟨long, length_part (by omega), length_part (by omega)⟩
    · cases is

/-- What stands at a place behind a head of its length. -/
theorem part_behind {h x r : List Byte} {i n : Nat} (head : h.length = i) (part : x.length = n) : ((h ++ x ++ r).drop i).take n = x := by
  rw [List.append_assoc, List.drop_left' head, List.take_left' part]

/-- The header of a reply's packet before its addresses. -/
def replyIp (fresh : Nat) (d : Datagram) (payload : List Byte) : List Byte :=
  if d.v6 then [0x60#8 ||| (Config.freeByte fresh &&& 15)] ++ (List.range 3).map (fun j => Config.freeByte (fresh + 1 + j))
      ++ bytesBE 2 (8 + payload.length) ++ [17] ++ (List.range 1).map (fun j => Config.freeByte (fresh + 4 + j))
    else [0x45] ++ (List.range 1).map (fun j => Config.freeByte (fresh + 0 + j)) ++ bytesBE 2 (20 + (8 + payload.length))
      ++ (List.range 2).map (fun j => Config.freeByte (fresh + 1 + j)) ++ [0x40#8 &&& Config.freeByte (fresh + 3), 0]
      ++ (List.range 1).map (fun j => Config.freeByte (fresh + 4 + j)) ++ [17] ++ (List.range 2).map (fun j => Config.freeByte (fresh + 5 + j))

/-- The Ethernet header of a reply. -/
def replyMac (l : List Byte) (d : Datagram) : List Byte :=
  (l.drop 6).take 6 ++ l.take 6 ++ (l.take (d.off - (if d.v6 then 48 else 28))).drop 12

theorem replyFrame_eq (fresh : Nat) (l : List Byte) (d : Datagram) (payload : List Byte) : replyFrame fresh l d payload =
    replyMac l d ++ replyIp fresh d payload ++ d.dst ++ d.src ++ bytesBE 2 d.dport ++ bytesBE 2 d.sport ++ bytesBE 2 (8 + payload.length)
      ++ (List.range 2).map (fun j => Config.freeByte (fresh + 7 + j)) ++ payload := by
  unfold replyFrame replyIp replyMac
  cases d.v6
  · simp only [Bool.false_eq_true, if_false, List.append_assoc]
  · simp only [if_true, List.append_assoc]

theorem length_replyIp (fresh : Nat) (d : Datagram) (payload : List Byte) : (replyIp fresh d payload).length = if d.v6 then 8 else 12 := by
  unfold replyIp
  cases d.v6
  · rfl
  · rfl

theorem length_replyMac {l : List Byte} {d : Datagram} (fits : d.Fits l) :
    (replyMac l d).length = d.off - (if d.v6 then 48 else 28) := by
  have long := fits.long
  have off := fits.off
  unfold replyMac
  rw [List.length_append, List.length_append, length_part (by omega), List.length_take, List.length_drop, List.length_take]
  omega

theorem replyFrame_carries (n : Nat) (l payload : List Byte) (d : Datagram) (is : frameUdp l = some d) :
    let o := replyFrame n l d payload
    o.length = d.off + payload.length ∧ o.drop d.off = payload ∧ o.take 6 = (l.drop 6).take 6 ∧ (o.drop 6).take 6 = l.take 6 ∧
    be16 o (d.off - 8) = d.dport ∧ be16 o (d.off - 6) = d.sport ∧
    (let w := if d.v6 then 16 else 4
     (o.drop (d.off - 8 - 2 * w)).take w = d.dst ∧ (o.drop (d.off - 8 - w)).take w = d.src) := by
  have fits := frameUdp_fits is
  intro o
  have whole : o = _ := replyFrame_eq n l d payload
  clear_value o
  have mac := length_replyMac fits
  have ip := length_replyIp n d payload
  have sum : ((List.range 2).map (fun j => Config.freeByte (n + 7 + j))).length = 2 := rfl
  generalize (List.range 2).map (fun j => Config.freeByte (n + 7 + j)) = check at whole sum
  generalize replyIp n d payload = header at whole ip
  obtain ⟨off, long, src, dst, sport, dport⟩ := fits
  have sizes : (if d.v6 then 48 else 28) = (if d.v6 then 8 else 12) + 2 * (if d.v6 then 16 else 4) + 8 := by
    cases d.v6
    · rfl
    · rfl
  have port (v : Nat) : (bytesBE 2 v).length = 2 := length_bytesBE 2 v
  have six : ((l.drop 6).take 6).length = 6 := length_part (by omega)
  have front : o = (l.drop 6).take 6 ++ l.take 6 ++ ((l.take (d.off - (if d.v6 then 48 else 28))).drop 12 ++ (header ++ d.dst ++ d.src
      ++ bytesBE 2 d.dport ++ bytesBE 2 d.sport ++ bytesBE 2 (8 + payload.length) ++ check ++ payload)) := by
    rw [whole, replyMac]
    simp only [List.append_assoc]
  have back : (replyMac l d ++ header ++ d.dst ++ d.src ++ bytesBE 2 d.dport ++ bytesBE 2 d.sport ++ bytesBE 2 (8 + payload.length)
      ++ check).length = d.off := by
    simp only [List.length_append, mac, ip, src, dst, port, sum]
    omega
  refine ⟨?_, ?_, ?_, ?_, ?_, ?_, ?_⟩
  · rw [whole, List.length_append, back]
  · rw [whole]
    exact List.drop_left' back
  · rw [front, List.append_assoc, List.take_left' six]
  · rw [front]
    exact part_behind six (by rw [List.length_take]; omega)
  · refine Eq.trans (congrArg ofBytesBE (?_ : _ = bytesBE 2 d.dport)) (ofBytesBE_bytesBE_of_lt dport)
    have at_ : o = (replyMac l d ++ header ++ d.dst ++ d.src) ++ bytesBE 2 d.dport
        ++ (bytesBE 2 d.sport ++ bytesBE 2 (8 + payload.length) ++ check ++ payload) := by
      rw [whole]
      simp only [List.append_assoc]
    rw [at_]
    refine part_behind ?_ (port _)
    simp only [List.length_append, mac, ip, src, dst]
    omega
  · refine Eq.trans (congrArg ofBytesBE (?_ : _ = bytesBE 2 d.sport)) (ofBytesBE_bytesBE_of_lt sport)
    have at_ : o = (replyMac l d ++ header ++ d.dst ++ d.src ++ bytesBE 2 d.dport) ++ bytesBE 2 d.sport
        ++ (bytesBE 2 (8 + payload.length) ++ check ++ payload) := by
      rw [whole]
      simp only [List.append_assoc]
    rw [at_]
    refine part_behind ?_ (port _)
    simp only [List.length_append, mac, ip, src, dst, port]
    omega
  · intro w
    have wide : w = if d.v6 then 16 else 4 := rfl
    clear_value w
    refine ⟨?_, ?_⟩
    · have at_ : o = (replyMac l d ++ header) ++ d.dst ++ (d.src ++ bytesBE 2 d.dport ++ bytesBE 2 d.sport
          ++ bytesBE 2 (8 + payload.length) ++ check ++ payload) := by
        rw [whole]
        simp only [List.append_assoc]
      rw [at_]
      refine part_behind ?_ (dst.trans wide.symm)
      simp only [List.length_append, mac, ip]
      omega
    · have at_ : o = (replyMac l d ++ header ++ d.dst) ++ d.src ++ (bytesBE 2 d.dport ++ bytesBE 2 d.sport
          ++ bytesBE 2 (8 + payload.length) ++ check ++ payload) := by
        rw [whole]
        simp only [List.append_assoc]
      rw [at_]
      refine part_behind ?_ (src.trans wide.symm)
      simp only [List.length_append, mac, ip, dst]
      omega

theorem romCallsRule_kept : romCallsRule := ⟨fun _ out _ => romReturn_keeps out, replyFrame_carries⟩

/-- Settles O50. -/
theorem bootAndDcpCommands : Obligations.BootAndDcpCommands :=
  ⟨bootStartsRule_kept, dcpChecksRule_kept, dcpReadsRule_kept, dcpWritesRule_kept, dcpProgramRule_kept, romCallsRule_kept⟩

end
end Sys2Proof.Machine

/-! ## Loam flits (R380 to R382, R390) -/
namespace Sys2Proof.Machine
open Sys2Proof Sys2Proof.Claims

section

/-! ### Parity (R390) -/

/-- A bit of a number of bits changed changes whether an odd number of them is set. -/
theorem foldl_parity_flip (f : Nat → Bool) (j : Nat) : ∀ (l : List Nat) (b : Bool), l.Nodup →
    l.foldl (fun b i => b != (f i ^^ decide (i = j))) b = (l.foldl (fun b i => b != f i) b ^^ decide (j ∈ l))
  | [], b, _ => by simp
  | i :: l, b, distinct => by
    obtain ⟨fresh, rest⟩ := List.nodup_cons.mp distinct
    rw [List.foldl_cons, List.foldl_cons, foldl_parity_flip f j l _ rest]
    by_cases same : i = j
    · subst same
      have out : decide (i ∈ l) = false := decide_eq_false fresh
      have in_ : decide (i ∈ i :: l) = true := decide_eq_true (.head l)
      have flips (c : Bool) : l.foldl (fun b i => b != f i) (!c) = !l.foldl (fun b i => b != f i) c := by
        clear rest fresh distinct out in_
        induction l generalizing c with
        | nil => rfl
        | cons a l ih =>
          rw [List.foldl_cons, List.foldl_cons, ← ih]
          congr 1
          cases c <;> cases f a <;> rfl
      rw [out, in_, decide_eq_true rfl, Bool.xor_true, Bool.xor_false, Bool.xor_true, ← flips]
      congr 1
      cases b <;> cases f i <;> rfl
    · have other : decide (i = j) = false := decide_eq_false same
      have mem : decide (j ∈ i :: l) = decide (j ∈ l) := by
        rw [decide_eq_decide, List.mem_cons]
        exact or_iff_right fun h => same h.symm
      rw [other, mem, Bool.xor_false]

theorem oddParity_flip (w : Word) {j : Nat} (small : j < 16) : oddParity (w ^^^ (1#16 <<< j)) = !oddParity w := by
  have bits (i : Nat) (in_ : i < 16) : (w ^^^ (1#16 <<< j)).getLsbD i = (w.getLsbD i ^^ decide (i = j)) := by
    rw [BitVec.getLsbD_xor]
    congr 1
    rw [BitVec.getLsbD_shiftLeft, decide_eq_true in_, Bool.true_and, BitVec.getLsbD_one]
    rw [Bool.eq_iff_iff]
    simp only [Bool.and_eq_true, Bool.not_eq_true', decide_eq_false_iff_not, decide_eq_true_eq]
    omega
  have changed : oddParity (w ^^^ (1#16 <<< j)) = (List.range 16).foldl (fun b i => b != (w.getLsbD i ^^ decide (i = j))) true :=
    List.foldl_ext _ _ true fun b i mem => by rw [bits i (List.mem_range.mp mem)]
  rw [changed, foldl_parity_flip _ j _ _ List.nodup_range, decide_eq_true (List.mem_range.mpr small), Bool.xor_true]
  rfl

theorem parityBits_append (l m : List Word) : parityBits (l ++ m) = parityBits l + 2 ^ l.length * parityBits m := by
  induction l with
  | nil => rw [List.nil_append, List.length_nil, pow_zero, one_mul]; exact (Nat.zero_add _).symm
  | cons w l ih =>
    have cons (k : List Word) : parityBits (w :: k) = b2n (oddParity w) + 2 * parityBits k := rfl
    rw [List.cons_append, cons, cons, ih, List.length_cons, pow_succ]
    ring

theorem b2n_lt_two (b : Bool) : b2n b < 2 := by
  cases b
  · exact Nat.zero_lt_two
  · exact Nat.one_lt_two

theorem parityBits_lt (l : List Word) : parityBits l < 2 ^ l.length := by
  induction l with
  | nil => exact Nat.one_pos
  | cons w l ih =>
    have cons : parityBits (w :: l) = b2n (oddParity w) + 2 * parityBits l := rfl
    have := b2n_lt_two (oddParity w)
    rw [cons, List.length_cons, pow_succ]
    omega

/-! ### One flit (R380) -/

/-- The first word of a flit, as a number. -/
def flitHead (kind vc : Nat) (last : Bool) (n : Nat) : Nat := kind * 2 ^ 14 + vc * 2 ^ 12 + b2n last * 2 ^ 11 + n * 2 ^ 6

variable {kind vc : Nat} {last : Bool} {payload : List Word} {credits : Word}

theorem flitHead_fields {n : Nat} (kind_ : kind < 3) (vc_ : vc < 4) (short : n ≤ 28) : flitHead kind vc last n < 65536 ∧
    field (flitHead kind vc last n) 14 2 = kind ∧ field (flitHead kind vc last n) 12 2 = vc ∧
    (flitHead kind vc last n).testBit 11 = last ∧ field (flitHead kind vc last n) 6 5 = n ∧ field (flitHead kind vc last n) 0 6 = 0 := by
  have bit := b2n_lt_two last
  have testBit (v : Nat) : v.testBit 11 = decide (v / 2 ^ 11 % 2 = 1) := Nat.testBit_eq_decide_div_mod_eq
  have is : last = decide (b2n last = 1) := by cases last <;> rfl
  rw [testBit]
  unfold field flitHead
  refine ⟨by omega, by omega, by omega, ?_, by omega, by omega⟩
  refine Eq.trans ?_ is.symm
  rw [decide_eq_decide]
  omega

/-- The 29 words of a flit before its parity. -/
def flitBody (kind vc : Nat) (last : Bool) (payload : List Word) : List Word :=
  BitVec.ofNat 16 (flitHead kind vc last payload.length) :: payload ++ List.replicate (28 - payload.length) 0

theorem length_flitBody (short : payload.length ≤ 28) : (flitBody kind vc last payload).length = 29 := by
  rw [flitBody, List.length_append, List.length_cons, List.length_replicate]
  omega

theorem flitOf_eq : flitOf kind vc last payload credits = flitBody kind vc last payload ++
    [BitVec.ofNat 16 (parityBits (flitBody kind vc last payload ++ [credits])),
      BitVec.ofNat 16 (parityBits (flitBody kind vc last payload ++ [credits]) / 65536), credits] := rfl

theorem flitOf_words (short : payload.length ≤ 28) : (flitOf kind vc last payload credits).length = 32 ∧
    (flitOf kind vc last payload credits).take 29 = flitBody kind vc last payload ∧
    (flitOf kind vc last payload credits)[29]? = some (BitVec.ofNat 16 (parityBits (flitBody kind vc last payload ++ [credits]))) ∧
    (flitOf kind vc last payload credits)[30]? = some (BitVec.ofNat 16 (parityBits (flitBody kind vc last payload ++ [credits]) / 65536)) ∧
    (flitOf kind vc last payload credits)[31]? = some credits := by
  have long := length_flitBody (kind := kind) (vc := vc) (last := last) short
  rw [flitOf_eq]
  generalize flitBody kind vc last payload = body at long
  refine ⟨by rw [List.length_append, long]; rfl, List.take_left' long, ?_, ?_, ?_⟩
  · rw [List.getElem?_append_right (by omega), long]
    rfl
  · rw [List.getElem?_append_right (by omega), long]
    rfl
  · rw [List.getElem?_append_right (by omega), long]
    rfl

theorem flitOf_parity (short : payload.length ≤ 28) :
    parityBits (flitBody kind vc last payload ++ [credits]) < 2 ^ 30 ∧
    (BitVec.ofNat 16 (parityBits (flitBody kind vc last payload ++ [credits]))).toNat
      + 65536 * (BitVec.ofNat 16 (parityBits (flitBody kind vc last payload ++ [credits]) / 65536)).toNat =
      parityBits (flitBody kind vc last payload ++ [credits]) := by
  have small := parityBits_lt (flitBody kind vc last payload ++ [credits])
  rw [List.length_append, length_flitBody short, List.length_singleton] at small
  refine ⟨small, ?_⟩
  rw [BitVec.toNat_ofNat, BitVec.toNat_ofNat]
  omega

theorem flitOf_parityOk (short : payload.length ≤ 28) : flitParityOk (flitOf kind vc last payload credits) = true := by
  obtain ⟨-, body, low, high, cr⟩ := flitOf_words (kind := kind) (vc := vc) (last := last) (credits := credits) short
  unfold flitParityOk
  rw [List.getD_eq_getElem?_getD, low, List.getD_eq_getElem?_getD, high, List.getD_eq_getElem?_getD, cr, body, beq_iff_eq]
  exact (flitOf_parity short).2

/-- Other credits than those the parity covers are seen. -/
theorem flitOf_creditsSeen (short : payload.length ≤ 28) {j : Nat} (small : j < 16) :
    flitParityOk ((flitOf kind vc last payload credits).set 31 (credits ^^^ (1#16 <<< j))) = false := by
  obtain ⟨long, body, low, high, cr⟩ := flitOf_words (kind := kind) (vc := vc) (last := last) (credits := credits) short
  have whole := (flitOf_parity (kind := kind) (vc := vc) (last := last) (credits := credits) short).2
  unfold flitParityOk
  rw [List.getD_eq_getElem?_getD, List.getElem?_set_ne (by decide), low, List.getD_eq_getElem?_getD, List.getElem?_set_ne (by decide), high,
    List.getD_eq_getElem?_getD, List.getElem?_set_self (by omega), List.take_set_of_le (by decide), body, beq_eq_false_iff_ne]
  refine fun same => ?_
  have eq := whole.symm.trans same
  rw [Option.getD_some, parityBits_append, parityBits_append] at eq
  have single (w : Word) : parityBits [w] = b2n (oddParity w) := rfl
  have flips := oddParity_flip credits small
  have bits := Nat.eq_of_mul_eq_mul_left (Nat.two_pow_pos _) (Nat.add_left_cancel eq)
  rw [single, single, flips] at bits
  cases h : oddParity credits
  · rw [h] at bits
    exact absurd bits (by decide)
  · rw [h] at bits
    exact absurd bits (by decide)

theorem flitOf_head (kind_ : kind < 3) (vc_ : vc < 4) (short : payload.length ≤ 28) :
    ((flitOf kind vc last payload credits).getD 0 0).toNat = flitHead kind vc last payload.length := by
  have fits := (flitHead_fields (last := last) kind_ vc_ short).1
  refine (BitVec.toNat_ofNat ..).trans (Nat.mod_eq_of_lt ?_)
  exact fits

theorem flitOf_payload : (flitOf kind vc last payload credits).drop 1 = payload ++ (List.replicate (28 - payload.length) 0 ++
    [BitVec.ofNat 16 (parityBits (flitBody kind vc last payload ++ [credits])),
      BitVec.ofNat 16 (parityBits (flitBody kind vc last payload ++ [credits]) / 65536), credits]) := by
  rw [flitOf_eq, flitBody, List.append_assoc, List.cons_append]
  rfl

/-- A flit of a packet is read as what it was made of. -/
theorem readFlit_flitOf (kind_ : kind < 3) (carries : kind ≠ 0) (vc_ : vc < 4) (some_ : 1 ≤ payload.length) (short : payload.length ≤ 28) :
    readFlit (flitOf kind vc last payload credits) = some { kind := kind, vc := vc, last := last, payload := payload } := by
  obtain ⟨long, -, -, high, -⟩ := flitOf_words (kind := kind) (vc := vc) (last := last) (credits := credits) short
  obtain ⟨-, kind1, vc1, last1, count, zero⟩ := flitHead_fields (last := last) kind_ vc_ short
  obtain ⟨small, -⟩ := flitOf_parity (kind := kind) (vc := vc) (last := last) (credits := credits) short
  unfold readFlit
  dsimp only
  rw [flitOf_head kind_ vc_ short, kind1, vc1, last1, count, zero, flitOf_payload, List.take_left' rfl, List.drop_left' rfl,
    List.take_left' List.length_replicate, List.getD_eq_getElem?_getD, high, long]
  refine if_neg ?_
  rintro (bad | bad | bad | bad | bad | bad | bad)
  · exact bad rfl
  · omega
  · exact bad rfl
  · omega
  · exact bad (propext ⟨fun no => by omega, fun no => absurd no carries⟩)
  · obtain ⟨w, mem, nonzero⟩ := List.any_eq_true.mp bad
    rw [List.eq_of_mem_replicate mem] at nonzero
    exact absurd nonzero (by decide)
  · refine bad ?_
    rw [Option.getD_some, BitVec.toNat_ofNat]
    omega

/-! ### The flits of a packet (R381, R382) -/

/-- The pieces of a list, one after the other. -/
theorem flatMap_pieces {α : Type} (l : List α) (k : Nat) : ∀ n, (List.range n).flatMap (fun i => (l.drop (k * i)).take k) = l.take (k * n)
  | 0 => rfl
  | n + 1 => by
    rw [List.range_succ, List.flatMap_append, flatMap_pieces l k n, List.flatMap_singleton, Nat.mul_succ, List.take_add]

theorem mapM_map_some {α β γ : Type} {f : β → Option γ} {g : α → β} {h : α → γ} : ∀ {l : List α}, (∀ x ∈ l, f (g x) = some (h x)) →
    (l.map g).mapM f = some (l.map h)
  | [], _ => rfl
  | x :: l, each => by
    rw [List.map_cons, List.mapM_cons, each x (.head l), mapM_map_some fun y mem => each y (.tail x mem)]
    rfl

/-- Flit `i` of `n`, taken apart. -/
def flitPart (vc n : Nat) (l : List Word) (i : Nat) : FlitParts :=
  { kind := if i = 0 then 1 else 2, vc := vc, last := i + 1 == n, payload := (l.drop (28 * i)).take 28 }

theorem flitsInOrder_parts {n : Nat} {l : List Word} (full : 28 * n < l.length + 28) : ∀ m i, i + (m + 1) = n →
    flitsInOrder vc (decide (i = 0)) ((List.range' i (m + 1)).map (flitPart vc n l)) = true
  | 0, i, last_ => by
    have ends : (i + 1 == n) = true := by rw [beq_iff_eq]; omega
    rw [List.range'_succ, List.map_cons, flitsInOrder, flitPart, ends]
    by_cases first : i = 0
    · simp [first]
    · simp [first]
  | m + 1, i, last_ => by
    have ends : (i + 1 == n) = false := by rw [beq_eq_false_iff_ne]; omega
    have rest := flitsInOrder_parts full m (i + 1) (by omega)
    have later : decide (i + 1 = 0) = false := rfl
    rw [later] at rest
    have whole : ((l.drop (28 * i)).take 28).length = 28 := by
      rw [List.length_take, List.length_drop]
      omega
    rw [List.range'_succ, List.map_cons, flitsInOrder, rest, flitPart, ends, whole]
    by_cases first : i = 0
    · simp [first, List.range'_succ]
    · simp [first, List.range'_succ]

variable {p : Packet}

theorem extract_append_high {a b lo : Nat} (x : BitVec a) (y : BitVec b) (at_ : lo = b) : (x ++ y).extractLsb' lo a = x := by
  subst at_
  ext i small
  rw [BitVec.getElem_extractLsb', BitVec.getLsbD_append, if_neg (by omega), Nat.add_sub_cancel_left, BitVec.getLsbD_eq_getElem small]

theorem extract_append_low {a b : Nat} (x : BitVec a) (y : BitVec b) : (x ++ y).extractLsb' 0 b = y := by
  ext i small
  rw [BitVec.getElem_extractLsb', BitVec.getLsbD_append, if_pos (by omega), Nat.zero_add, BitVec.getLsbD_eq_getElem small]

theorem extract_append_mid {a b c : Nat} (x : BitVec a) (y : BitVec b) (z : BitVec c) : (x ++ y ++ z).extractLsb' c b = y := by
  ext i small
  rw [BitVec.getElem_extractLsb', BitVec.getLsbD_append, if_neg (by omega), Nat.add_sub_cancel_left, BitVec.getLsbD_append, if_pos small,
    BitVec.getLsbD_eq_getElem small]

theorem extract_append_top {a b c lo : Nat} (x : BitVec a) (y : BitVec b) (z : BitVec c) (at_ : lo = b + c) :
    (x ++ y ++ z).extractLsb' lo a = x := by
  subst at_
  ext i small
  rw [BitVec.getElem_extractLsb', BitVec.getLsbD_append, if_neg (by omega), BitVec.getLsbD_append, if_neg (by omega),
    BitVec.getLsbD_eq_getElem (by omega)]
  congr 1
  omega

theorem flagBits (tag : Byte) (x y : Bool) : (tag ++ BitVec.ofBool x ++ BitVec.ofBool y ++ (0 : BitVec 6)).extractLsb' 8 8 = tag ∧
    (tag ++ BitVec.ofBool x ++ BitVec.ofBool y ++ (0 : BitVec 6)).getLsbD 7 = x ∧
    (tag ++ BitVec.ofBool x ++ BitVec.ofBool y ++ (0 : BitVec 6)).getLsbD 6 = y := by
  refine ⟨?_, ?_, ?_⟩
  · ext i small
    rw [BitVec.getElem_extractLsb', BitVec.getLsbD_append, if_neg (by omega), BitVec.getLsbD_append, if_neg (by omega),
      BitVec.getLsbD_append, if_neg (by omega), BitVec.getLsbD_eq_getElem (by omega)]
    congr 1
    omega
  · rw [BitVec.getLsbD_append, if_neg (by decide), BitVec.getLsbD_append, if_neg (by decide), BitVec.getLsbD_append, if_pos (by decide)]
    cases x
    · rfl
    · rfl
  · rw [BitVec.getLsbD_append, if_neg (by decide), BitVec.getLsbD_append, if_pos (by decide)]
    cases y
    · rfl
    · rfl

theorem address_words (a : LoamAddr) : a.extractLsb' 32 16 ++ a.extractLsb' 16 16 ++ a.extractLsb' 0 16 = a := by
  ext i small
  rw [BitVec.getElem_append]
  split
  · simp [BitVec.getElem_extractLsb', BitVec.getLsbD_eq_getElem small]
  · rw [BitVec.getElem_append]
    split
    · rw [BitVec.getElem_extractLsb', BitVec.getLsbD_eq_getElem (by omega)]
      congr 1
      omega
    · rw [BitVec.getElem_extractLsb', BitVec.getLsbD_eq_getElem (by omega)]
      congr 1
      omega

/-- A packet is read from its words. -/
theorem ofWords_words : Packet.ofWords p.words = some p := by
  obtain ⟨op, len, src, dst, tag, poison, fwd, addr, status, atype, mtype, marg, data⟩ := p
  obtain ⟨tag_, poison_, fwd_⟩ := flagBits tag poison fwd
  refine congrArg some ?_
  dsimp only
  rw [tag_, poison_, fwd_, address_words, extract_append_high src dst rfl, extract_append_low src dst, extract_append_low,
    extract_append_low, extract_append_mid, extract_append_top op _ len rfl, extract_append_top status atype mtype rfl]
  rfl

theorem wf_facts (wf : p.wf = true) : p.data.length ≤ 64 ∧ ∃ vc, opChannel p.op.toNat = some vc ∧ vc < 4 := by
  unfold Packet.wf at wf
  rw [Bool.and_eq_true, Bool.and_eq_true, beq_iff_eq] at wf
  obtain ⟨⟨channel, len⟩, carries⟩ := wf
  refine ⟨?_, ?_⟩
  · rw [carries, Packet.carries]
    split
    · exact Nat.zero_le _
    · unfold opLen at len
      split at len
      · exact (of_decide_eq_true len).2
      · split at len
        · simp only [Bool.or_eq_true, beq_iff_eq] at len
          omega
        · split at len
          · simp only [Bool.or_eq_true, beq_iff_eq] at len
            omega
          · split at len
            · split at len
              · exact (of_decide_eq_true len).2
              · rw [beq_iff_eq] at len
                omega
            · split at len
              · split at len
                · simp only [Bool.or_eq_true, beq_iff_eq] at len
                  omega
                · rw [beq_iff_eq] at len
                  omega
              · rw [beq_iff_eq] at len
                omega
  · obtain ⟨vc, is⟩ := Option.isSome_iff_exists.mp channel
    refine ⟨vc, is, ?_⟩
    unfold opChannel at is
    split at is
    · obtain rfl := Option.some.inj is
      decide
    · split at is
      · obtain rfl := Option.some.inj is
        decide
      · split at is
        · obtain rfl := Option.some.inj is
          decide
        · split at is
          · obtain rfl := Option.some.inj is
            decide
          · cases is

theorem length_words : p.words.length = 8 + p.data.length := by
  rw [Packet.words, List.length_append]
  rfl

/-- The flits of a packet, one for each of its parts. -/
theorem flits_eq {vc : Nat} (channel : opChannel p.op.toNat = some vc) (cr : Nat → Word) : p.flits cr =
    (List.range (packetFlits p.data.length)).map (fun i => flitOf (if i = 0 then 1 else 2) vc (i + 1 == packetFlits p.data.length)
      ((p.words.drop (28 * i)).take 28) (cr i)) := by
  unfold Packet.flits
  rw [channel]
  rfl

theorem flitsRule_kept : flitsRule := by
  unfold flitsRule
  intro p cr wf n
  obtain ⟨short, vc, channel, small⟩ := wf_facts wf
  have long := length_words (p := p)
  have count : n = (8 + p.data.length + 27) / 28 := rfl
  have flits := flits_eq channel cr
  rw [show packetFlits p.data.length = n from rfl] at flits
  clear_value n
  have piece (i : Nat) (in_ : i < n) : 1 ≤ ((p.words.drop (28 * i)).take 28).length ∧ ((p.words.drop (28 * i)).take 28).length =
      min 28 (8 + p.data.length - 28 * i) := by
    rw [List.length_take, List.length_drop, long]
    omega
  have kinds (i : Nat) : (if i = 0 then 1 else 2) < 3 ∧ (if i = 0 then 1 else 2) ≠ 0 := by
    split
    · decide
    · decide
  have reads : (p.flits cr).mapM readFlit = some ((List.range n).map (flitPart vc n p.words)) := by
    rw [flits]
    refine mapM_map_some fun i mem => ?_
    obtain ⟨some_, size⟩ := piece i (List.mem_range.mp mem)
    exact readFlit_flitOf (kinds i).1 (kinds i).2 small some_ (by omega)
  refine ⟨?_, by rw [flits, List.length_map, List.length_range], fun i f at_ => ?_⟩
  · unfold readPacket
    rw [reads]
    have payloads : ((List.range n).map (flitPart vc n p.words)).flatMap (·.payload) = p.words := by
      rw [List.flatMap_map]
      exact (flatMap_pieces p.words 28 n).trans (List.take_of_length_le (by omega))
    obtain ⟨m, is⟩ : ∃ m, n = m + 1 := ⟨n - 1, by omega⟩
    have order := flitsInOrder_parts (vc := vc) (n := n) (l := p.words) (by omega) m 0 (by omega)
    rw [← is, ← List.range_eq_range'] at order
    dsimp only
    rw [payloads, ofWords_words]
    dsimp only
    rw [wf, channel]
    exact if_pos order
  · rw [flits, List.getElem?_map] at at_
    obtain ⟨j, is, rfl⟩ := Option.map_eq_some_iff.mp at_
    have in_ : i < n := by
      have := (List.getElem?_eq_some_iff.mp is).1
      rwa [List.length_range] at this
    obtain rfl : i = j := by
      rw [List.getElem?_range in_] at is
      exact Option.some.inj is
    obtain ⟨some_, size⟩ := piece i in_
    have fits : ((p.words.drop (28 * i)).take 28).length ≤ 28 := by omega
    obtain ⟨length, -, -, -, last⟩ := flitOf_words (kind := if i = 0 then 1 else 2) (vc := vc) (last := i + 1 == n) (credits := cr i) fits
    obtain ⟨-, kind, chan, last_, words, -⟩ := flitHead_fields (last := i + 1 == n) (kinds i).1 small fits
    refine ⟨length, last, flitOf_parityOk fits, ?_, fun j small => flitOf_creditsSeen fits small⟩
    intro h
    have head : h = flitHead (if i = 0 then 1 else 2) vc (i + 1 == n) ((p.words.drop (28 * i)).take 28).length :=
      flitOf_head (kinds i).1 small fits
    clear_value h
    subst head
    refine ⟨kind, by rw [chan]; exact channel, last_.trans rfl, words.trans size, ?_⟩
    rw [words, flitOf_payload]
    exact List.take_left' rfl

end
end Sys2Proof.Machine

/-! ## Links, credits and messages (R379, R388, R397, R433, R437) -/
namespace Sys2Proof.Machine
open Sys2Proof Sys2Proof.Claims

section
variable {s t : State} {l : Fin 4}

/-! ### Modules (R379, R433, R437) -/

theorem links_set_of_ne (v : Vector Link 4) (x : Link) {j : Fin 4} (other : j ≠ l) : (v.set l.val x)[j.val] = v[j.val] :=
  Vector.getElem_set_ne _ _ fun same => other (Fin.ext same.symm)

theorem State.countLink_regsOnly (o : Nat) : RegsOnly s (s.countLink l o) := by
  unfold State.countLink
  refine List.foldlRecOn (motive := RegsOnly s) _ _ rfl fun z only e _ => only.trans ?_
  exact RegsOnly.setReg ..

/-- A link's modules set, and its failure counted. -/
def State.setModules (l : Fin 4) (x : Link) (o : Nat) (s : State) : State := { s with links := s.links.set l.val x }.countLink l o

theorem State.setModules_links (x : Link) (o : Nat) : s.setModules l x o = { s with links := s.links.set l.val x, regs := (s.setModules l x o).regs } ∧
    (s.setModules l x o).links[l.val] = x ∧ ∀ j : Fin 4, j ≠ l → (s.setModules l x o).links[j.val] = s.links[j.val] := by
  have only := State.countLink_regsOnly (s := { s with links := s.links.set l.val x }) (l := l) o
  have links : (s.setModules l x o).links = s.links.set l.val x := congrArg State.links only
  refine ⟨only, ?_, fun j other => ?_⟩
  · rw [show (s.setModules l x o).links[l.val] = (s.links.set l.val x)[l.val] from congrArg (·[l.val]) links]
    exact Vector.getElem_set_self ..
  · rw [show (s.setModules l x o).links[j.val] = (s.links.set l.val x)[j.val] from congrArg (·[j.val]) links]
    exact links_set_of_ne s.links x other

/-- What a told failure of a link leaves: links, power, contexts and the site. -/
structure Told (s t : State) : Prop where
  links : t.links = s.links
  power : t.power = s.power
  ctxs : t.ctxs = s.ctxs
  plinth : t.plinth = s.plinth

theorem State.linkTold (n : Nat) : Told s ((s.linkRecord l).raiseP n) := by
  have only := State.raiseP_only (s := s.linkRecord l) (n := n)
  have offers : Offers s (s.linkRecord l) := State.offer_offers
  refine ⟨?_, ?_, ?_, ?_⟩
  · rw [only.rest, offers.rest]
  · rw [only.rest, offers.rest]
  · rw [only.rest, offers.rest]
  · rw [only.rest, offers.rest]

theorem moduleFail_steps (retrains : 0 < s.links[l.val].retraining) (more : 1 < s.links[l.val].up) :
    ∃ t, exec (.moduleFail l) s = .next t ∧ (∀ j : Fin 4, j ≠ l → t.links[j.val] = s.links[j.val]) ∧ t.ctxs = s.ctxs ∧ t.power = s.power ∧
      t.links[l.val] = { up := s.links[l.val].up - 1, retraining := s.links[l.val].retraining - 1 } ∧
      (s.power.hub = true → t.dic.pend.getLsbD (44 + l.val) = true) := by
  have is : s.moduleFail l = (((s.setModules l { up := s.links[l.val].up - 1, retraining := s.links[l.val].retraining - 1 } 0x414).linkRecord
      l).raiseP (44 + l.val)) := (if_neg (by omega)).trans (if_pos more)
  obtain ⟨only, own, others⟩ := State.setModules_links (s := s) (l := l)
    { up := s.links[l.val].up - 1, retraining := s.links[l.val].retraining - 1 } 0x414
  generalize s.setModules l { up := s.links[l.val].up - 1, retraining := s.links[l.val].retraining - 1 } 0x414 = z at is only own others
  obtain ⟨links, power, ctxs, -⟩ := State.linkTold (s := z) (l := l) (44 + l.val)
  have power_ : z.power = s.power := by rw [only]
  refine ⟨_, congrArg Host.Outcome.next is, fun j other => ?_, ctxs.trans ?_, power.trans power_, ?_, fun hub => ?_⟩
  · exact (congrArg (·[j.val]) links).trans (others j other)
  · rw [only]
  · exact (congrArg (·[l.val]) links).trans own
  · refine State.raiseP_pend ?_ (by omega)
    rw [show (z.linkRecord l).power = z.power from (State.offer_control z _ _ _).power, power_]
    exact hub

/-- The link taken down, and told. -/
def State.linkDead (l : Fin 4) (s : State) : State :=
  ((((s.setLink l 0).countLink l 0x414).linkRecord l).raiseP (44 + l.val)).raiseP (40 + l.val)

theorem State.linkDead_told : (s.linkDead l).power = s.power ∧ (s.linkDead l).links[l.val].up = 0 := by
  have link := State.setLink_only (s := s) l 0
  have up := State.setLink_up (s := s) l 0
  have counted := State.countLink_regsOnly (s := s.setLink l 0) (l := l) 0x414
  unfold State.linkDead
  generalize (s.setLink l 0).countLink l 0x414 = z at counted
  obtain ⟨links, power, -, -⟩ := State.linkTold (s := z) (l := l) (44 + l.val)
  generalize (z.linkRecord l).raiseP (44 + l.val) = y at links power
  have only := State.raiseP_only (s := y) (n := 40 + l.val)
  have same : (y.raiseP (40 + l.val)).links = (s.setLink l 0).links := by
    rw [show (y.raiseP (40 + l.val)).links = y.links by rw [only.rest], links, counted]
  refine ⟨?_, (congrArg (fun v : Vector Link 4 => v[l.val].up) same).trans up⟩
  rw [show (y.raiseP (40 + l.val)).power = y.power by rw [only.rest], power, counted, link]

theorem State.sealNow_mode (cause record : Byte) : (s.sealNow cause record).power.mode = .sealed ∧ (s.sealNow cause record).power.cause = cause := by
  refine ⟨State.arrive_mode _ .sealed, ?_⟩
  unfold State.sealNow
  generalize (s.offer 0x0070 1 [record]).aonOnly = z
  have power := State.bootRomAgain_power (s := z.setCause cause)
  generalize (z.setCause cause).bootRomAgain = y at power
  exact (congrArg Power.cause (State.arrive_power (s := y) .sealed)).trans (congrArg Power.cause power)

/-- The site's reset by its link's loss. -/
def State.unlinked (s : State) : State := { s with plinth := { s.plinth with isoCause := 2 } }

theorem SiteClears.unlinked (clears : SiteClears s t) : t.unlinked.plinth.present = false ∧ t.unlinked.plinth.isoCause = 2 ∧
    t.unlinked.links[(3 : Fin 4).val].up = 0 ∧ t.unlinked.power = s.power := by
  obtain ⟨-, ⟨present, -, -, down, -⟩, -, -, -, power⟩ := clears
  exact ⟨present, rfl, down, power⟩

theorem State.moduleFail_last (retrains : 0 < s.links[l.val].retraining) (last : s.links[l.val].up = 1) :
    s.moduleFail l = if l = 3 then (s.linkDead l).plinthReset.unlinked else (s.linkDead l).sealFault 1 := by
  unfold State.moduleFail
  dsimp only
  rw [if_neg (by omega), if_neg (by omega)]
  rfl

theorem moduleFail_last (retrains : 0 < s.links[l.val].retraining) (last : s.links[l.val].up = 1) :
    (l ≠ 3 → s.power.mode ≠ .off → s.power.mode ≠ .sealed → ∃ t, exec (.moduleFail l) s = .next t ∧ t.power.mode = .sealed ∧
      t.power.cause = 9) ∧
    (l = 3 → ∃ t, exec (.moduleFail l) s = .next t ∧ t.plinth.present = false ∧ t.plinth.isoCause = 2 ∧
      t.links[l.val].up = 0 ∧ t.power = s.power) := by
  obtain ⟨power, up⟩ := State.linkDead_told (s := s) (l := l)
  have dead := State.moduleFail_last retrains last
  generalize s.linkDead l = z at power up dead
  refine ⟨fun other on open_ => ⟨z.sealNow 9 1, ?_, State.sealNow_mode 9 1⟩, fun is => ?_⟩
  · refine congrArg Host.Outcome.next ((dead.trans (if_neg other)).trans (if_neg ?_))
    rw [power]
    exact not_or.mpr ⟨on, open_⟩
  · subst is
    obtain ⟨present, cause, down, power_⟩ := (State.plinthReset_clears (s := z)).1.unlinked
    exact ⟨z.plinthReset.unlinked, congrArg Host.Outcome.next (dead.trans (if_pos rfl)), present, cause, down, power_.trans power⟩

theorem modules_kept (l : Fin 4) : let x := s.links[l.val]
    let others : State → Prop := fun t => ∀ j : Fin 4, j ≠ l → t.links[j.val] = s.links[j.val]
    (x.retraining < x.up → ∃ t, exec (.moduleRetrain l) s = .next t ∧ t = { s with links := t.links, regs := t.regs } ∧ others t ∧
      t.links[l.val] = { x with retraining := x.retraining + 1 }) ∧
    (0 < x.retraining → ∃ t, exec (.moduleRetrainEnd l) s = .next t ∧ t = { s with links := t.links } ∧ others t ∧
      t.links[l.val] = { x with retraining := x.retraining - 1 }) ∧
    (x.retraining = 0 → exec (.moduleRetrainEnd l) s = .next s ∧ exec (.moduleFail l) s = .next s) := by
  intro x others
  refine ⟨fun more => ?_, fun retrains => ?_, fun none_ => ⟨?_, ?_⟩⟩
  · obtain ⟨only, own, rest⟩ := State.setModules_links (s := s) (l := l) { x with retraining := x.retraining + 1 } 0x410
    refine ⟨s.setModules l { x with retraining := x.retraining + 1 } 0x410, congrArg Host.Outcome.next (if_pos more), ?_, rest, own⟩
    have links : (s.setModules l { x with retraining := x.retraining + 1 } 0x410).links = s.links.set l.val { x with retraining := x.retraining + 1 } := by
      rw [only]
    rw [links]
    exact only
  · exact ⟨_, congrArg Host.Outcome.next (if_pos retrains), rfl, fun j other => links_set_of_ne s.links _ other,
      Vector.getElem_set_self ..⟩
  · exact congrArg Host.Outcome.next (if_neg fun more => absurd none_ more.ne')
  · exact congrArg Host.Outcome.next (if_pos (.inl none_))

/-! ### Credits (R388) -/

/-- One pool of a die latched. -/
def State.snapPool_ (die base : Nat) (s : State) (e : Nat × Nat) : State :=
  let k := poolKey die e.1 e.2
  let x := s.pool k
  let held := if x.adv = 0 then 0 else Config.freeCount s.fresh % (x.adv.toNat + 1)
  let y : Pool := { x with held := BitVec.ofNat 8 held, avail := BitVec.ofNat 8 (x.adv.toNat - held) }
  let a := base + 0x100 + 0x40 * e.1 + 4 * e.2
  { s with
    fresh := s.fresh + 1, credits := if x.adv = 0 then s.credits else Sparse.insert s.credits k y
    latch := if x.adv = 0 then Sparse.erase s.latch a else
      Sparse.insert s.latch a (BitVec.ofNat 32 (y.avail.toNat + y.held.toNat * 256 + y.adv.toNat * 65536)) }

/-- A pool whose counts add up. -/
def Pool.sound (x : Pool) : Prop := x.adv ≠ 0 → x.avail.toNat + x.held.toNat = x.adv.toNat

/-- Pools keep what is advertised, and their counts add up where they did. -/
structure Latches (s t : State) : Prop where
  only : t = { s with fresh := t.fresh, credits := t.credits, latch := t.latch }
  adv : ∀ k, (t.pool k).adv = (s.pool k).adv
  sound : ∀ k, (s.pool k).sound → (t.pool k).sound

theorem State.snapPool_latches (die base : Nat) (e : Nat × Nat) : Latches s (s.snapPool_ die base e) ∧
    ((s.snapPool_ die base e).pool (poolKey die e.1 e.2)).sound := by
  unfold State.snapPool_
  dsimp only
  by_cases none_ : (s.pool (poolKey die e.1 e.2)).adv = 0
  · simp only [if_pos none_]
    exact ⟨⟨rfl, fun _ => rfl, fun _ sound => sound⟩, fun some_ => absurd none_ some_⟩
  · generalize at_ : poolKey die e.1 e.2 = key at none_
    generalize pool : s.pool key = x at none_
    have small : Config.freeCount s.fresh % (x.adv.toNat + 1) ≤ x.adv.toNat := Nat.lt_succ_iff.mp (Nat.mod_lt _ (Nat.succ_pos _))
    generalize Config.freeCount s.fresh % (x.adv.toNat + 1) = held at small
    have adds : Pool.sound { x with held := BitVec.ofNat 8 held, avail := BitVec.ofNat 8 (x.adv.toNat - held) } := by
      intro _
      have := x.adv.isLt
      dsimp only
      rw [BitVec.toNat_ofNat, BitVec.toNat_ofNat]
      omega
    have reads (k : Nat) : Sparse.get Pool.zero (Sparse.insert s.credits key
        { x with held := BitVec.ofNat 8 held, avail := BitVec.ofNat 8 (x.adv.toNat - held) }) k = if k = key then
        { x with held := BitVec.ofNat 8 held, avail := BitVec.ofNat 8 (x.adv.toNat - held) } else s.pool k := Sparse.get_insert ..
    simp only [if_neg none_]
    refine ⟨⟨rfl, fun k => ?_, fun k sound => ?_⟩, ?_⟩
    · refine (congrArg Pool.adv (reads k)).trans ?_
      split
      · next same => rw [same, pool]
      · rfl
    · refine (congrArg Pool.sound (reads k)).mpr ?_
      split
      · exact adds
      · exact sound
    · exact (congrArg Pool.sound ((reads key).trans (if_pos rfl))).mpr adds

theorem Latches.trans {u : State} (a : Latches s t) (b : Latches t u) : Latches s u :=
  ⟨by rw [b.only, a.only], fun k => (b.adv k).trans (a.adv k), fun k sound => b.sound k (a.sound k sound)⟩

theorem State.snapPools_latches (die base : Nat) : ∀ (l : List (Nat × Nat)) (s : State), Latches s (l.foldl (State.snapPool_ die base) s) ∧
    ∀ e ∈ l, ((l.foldl (State.snapPool_ die base) s).pool (poolKey die e.1 e.2)).sound
  | [], s => ⟨⟨rfl, fun _ => rfl, fun _ sound => sound⟩, fun _ mem => nomatch mem⟩
  | e :: l, s => by
    obtain ⟨first, own⟩ := State.snapPool_latches (s := s) die base e
    obtain ⟨rest, others⟩ := State.snapPools_latches die base l (s.snapPool_ die base e)
    refine ⟨first.trans rest, fun d mem => ?_⟩
    rcases List.mem_cons.mp mem with rfl | later
    · exact rest.sound _ own
    · exact others d later

theorem credsnap_kept (die : Fin 3) (up : if die = 2 then s.power.hub = true else s.power.stepOn (if die = 0 then 6 else 28) = true) :
    ∃ t, exec (.loamCredsnap die) s = .next t ∧ t = { s with fresh := t.fresh, credits := t.credits, latch := t.latch } ∧
      ∀ l p n, l < 3 → dieLinkNo die.val l = some n → p < linkPools n → let x := t.pool (poolKey die.val l p)
        x.adv = (s.pool (poolKey die.val l p)).adv ∧ (x.adv ≠ 0 → x.avail.toNat + x.held.toNat = x.adv.toNat) := by
  obtain ⟨latches, sound⟩ := State.snapPools_latches die.val (if die.val = 2 then loamHdBase else loamRdBase + 0x1000000 * die.val)
    ((List.range 3).flatMap (fun l => match dieLinkNo die.val l with
      | some n => (List.range (linkPools n)).map (fun p => (l, p))
      | none => [])) s
  refine ⟨s.credSnap die.val, congrArg Host.Outcome.next (if_pos ?_), latches.only, fun l p n in_ link pool => ⟨latches.adv _, sound (l, p) ?_⟩⟩
  · by_cases hd : die = 2
    · rw [if_pos hd] at up ⊢
      exact up
    · rw [if_neg hd] at up ⊢
      exact up
  · refine List.mem_flatMap.mpr ⟨l, List.mem_range.mpr in_, ?_⟩
    rw [link]
    exact List.mem_map.mpr ⟨p, List.mem_range.mpr pool, rfl⟩

/-! ### Messages (R397) -/

/-- The register that counts messages discarded at the die of a node. -/
def discards0 (dst : Byte) : Nat :=
  if dst.toNat < 0x80 then loamRdBase + 0x1000000 * (dst.toNat / 64) + 0x418 else loamHdBase + 0x418

theorem State.dropMessage_dropped (dst : Byte) (hub : s.power.hub = true) :
    (dst.toNat < 0xC0 → (s.dropMessage dst).regN (discards0 dst) = min 0xFFFFFFFF (s.regN (discards0 dst) + 1) ∧
      (s.dropMessage dst).dic.pend.getLsbD 52 = true) ∧
    s.dropMessage dst = { s with regs := (s.dropMessage dst).regs, dic := (s.dropMessage dst).dic, keepers := (s.dropMessage dst).keepers } := by
  by_cases out : 0xC0 ≤ dst.toNat
  · rw [show s.dropMessage dst = s from if_pos out]
    exact ⟨fun in_ => absurd out (not_le.mpr in_), rfl⟩
  · have is : s.dropMessage dst = (s.countReg (discards0 dst) 1).raiseP 52 := if_neg out
    have only := State.raiseP_only (s := s.countReg (discards0 dst) 1) (n := 52)
    rw [is]
    refine ⟨fun _ => ⟨?_, State.raiseP_pend hub (by decide)⟩, ?_⟩
    · rw [State.regN, only.reg]
      exact State.regN_countReg
    · have rest := only.rest
      generalize (s.countReg (discards0 dst) 1).raiseP 52 = t at rest
      rw [rest]
      rfl

theorem exec_event {node mtype dst : Byte} {marg : Word} {ok : Bool} (hub : s.power.hub = true) (done : s.writesDone node = true)
    (link : node.toNat < 0xC0 ∨ s.linkUp 3 = true) :
    exec (.event node ⟨mtype, dst, marg, ok⟩) s = .next (s.eventMsg node mtype dst marg ok) := by
  refine congrArg Host.Outcome.next (if_pos ?_)
  rw [hub, done, Bool.and_self, Bool.true_and, Bool.or_eq_true, decide_eq_true_iff]
  exact link

theorem State.badMessage_kept (node dst : Byte) (hub : s.power.hub = true) :
    (node.toNat < 0xC0 → s.badMessage node dst = s.dropMessage dst) ∧
    (0xC0 ≤ node.toNat → s.plinth.msgBad ≠ 255 ∨ s.plinth.resetN = false →
      (s.badMessage node dst).regN (discards0 dst) = (s.dropMessage dst).regN (discards0 dst) ∧
      (s.badMessage node dst).dic = (s.dropMessage dst).dic ∧
      (s.badMessage node dst).plinth = { s.plinth with msgBad := s.plinth.msgBad + 1 }) ∧
    (0xC0 ≤ node.toNat → s.plinth.msgBad = 255 → s.plinth.resetN = true →
      (s.badMessage node dst).plinth.isolated = true ∧ (s.badMessage node dst).plinth.isoCause = 6) := by
  obtain ⟨-, rest⟩ := State.dropMessage_dropped dst hub
  unfold State.badMessage
  generalize s.dropMessage dst = z at rest
  have plinth : z.plinth = s.plinth := by rw [rest]
  dsimp only
  rw [plinth]
  refine ⟨fun device => if_pos device, fun guest few => ?_, fun guest many up => ?_⟩
  · rw [if_neg (not_lt.mpr guest), if_neg]
    · exact ⟨rfl, rfl, rfl⟩
    · rintro ⟨full, on⟩
      rcases few with few | off
      · exact few (by omega)
      · exact Bool.false_ne_true (off.symm.trans on)
  · rw [if_neg (not_lt.mpr guest), if_pos ⟨by omega, up⟩]
    obtain ⟨-, isolated, cause, -⟩ := State.isolate_kept (s := { z with plinth := { s.plinth with msgBad := s.plinth.msgBad + 1 } }) 6
    exact ⟨isolated, cause⟩

theorem event_kept (hub : s.power.hub = true) (node mtype dst : Byte) (marg : Word) (ok : Bool) (done : s.writesDone node = true)
    (link : node.toNat < 0xC0 ∨ s.linkUp 3 = true) :
    let sound := mtype = 1 ∧ dst = 0x8B ∧ 256 ≤ marg.toNat ∧ marg.toNat < 512
    let o := if dst.toNat < 0x80 then loamRdBase + 0x1000000 * (dst.toNat / 64) + 0x418 else loamHdBase + 0x418
    let dropped : State → Prop := fun t => dst.toNat < 0xC0 → t.regN o = min 0xFFFFFFFF (s.regN o + 1) ∧
      t.dic.pend.getLsbD 52 = true
    (ok = true → sound → node.toNat < 0xC0 ∨ s.power.mode ≠ .plinthTest →
      ∃ t, exec (.event node ⟨mtype, dst, marg, ok⟩) s = .next t ∧ t.dic.pend.getLsbD marg.toNat = true ∧
        t = { s with dic := t.dic, keepers := t.keepers }) ∧
    (ok = true → mtype = 1 → 0xC0 ≤ node.toNat → s.power.mode = .plinthTest → exec (.event node ⟨mtype, dst, marg, ok⟩) s =
      .next { s with wire := .message 1 node marg [] :: s.wire }) ∧
    (ok = false → ∃ t, exec (.event node ⟨mtype, dst, marg, ok⟩) s = .next t ∧ dropped t ∧
      t = { s with regs := t.regs, dic := t.dic, keepers := t.keepers }) ∧
    (ok = true → ¬ sound → node.toNat < 0xC0 ∨ mtype ≠ 1 ∨ s.power.mode ≠ .plinthTest →
      ∃ t, exec (.event node ⟨mtype, dst, marg, ok⟩) s = .next t ∧
        (node.toNat < 0xC0 → dropped t ∧ t = { s with regs := t.regs, dic := t.dic, keepers := t.keepers }) ∧
        (0xC0 ≤ node.toNat → s.plinth.msgBad ≠ 255 ∨ s.plinth.resetN = false → dropped t ∧
          t.plinth = { s.plinth with msgBad := s.plinth.msgBad + 1 }) ∧
        (0xC0 ≤ node.toNat → s.plinth.msgBad = 255 → s.plinth.resetN = true → t.plinth.isolated = true ∧ t.plinth.isoCause = 6)) := by
  intro sound o dropped
  have run := exec_event (s := s) (mtype := mtype) (dst := dst) (marg := marg) (ok := ok) hub done link
  obtain ⟨drops, only⟩ := State.dropMessage_dropped (s := s) dst hub
  refine ⟨fun good is own => ?_, fun good event guest test => ?_, fun bad => ?_, fun good unsound own => ?_⟩
  · subst good
    refine ⟨s.raiseP marg.toNat, run.trans (congrArg Host.Outcome.next ?_), State.raiseP_pend hub is.2.2.2, State.raiseP_only.rest⟩
    refine (if_neg (by decide)).trans ((if_neg ?_).trans (if_pos is))
    rintro ⟨guest, test, -⟩
    exact own.elim (fun device => absurd guest (not_le.mpr device)) fun other => other test
  · subst good
    exact run.trans (congrArg Host.Outcome.next ((if_neg (by decide)).trans (if_pos ⟨guest, test, event⟩)))
  · subst bad
    exact ⟨s.dropMessage dst, run, drops, only⟩
  · subst good
    obtain ⟨device, few, many⟩ := State.badMessage_kept (s := s) node dst hub
    refine ⟨s.badMessage node dst, run.trans (congrArg Host.Outcome.next ?_), fun in_ => ?_, fun guest less => ?_, many⟩
    · refine (if_neg (by decide)).trans ((if_neg ?_).trans (if_neg unsound))
      rintro ⟨guest, test, event⟩
      rcases own with device | other | other
      · exact absurd guest (not_le.mpr device)
      · exact other event
      · exact other test
    · rw [device in_]
      exact ⟨drops, only⟩
    · obtain ⟨count, dic, plinth⟩ := few guest less
      refine ⟨fun in_ => ⟨count.trans (drops in_).1, ?_⟩, plinth⟩
      rw [dic]
      exact (drops in_).2

theorem linksAndMessagesRule_kept : linksAndMessagesRule := by
  unfold linksAndMessagesRule
  intro s
  refine ⟨fun l => ?_, fun die up => credsnap_kept die up, fun hub => ⟨fun node mtype dst marg ok done link =>
    event_kept hub node mtype dst marg ok done link, fun link test => ⟨fun g up line => ?_, fun g code slot idx => ?_⟩, fun v part present test own => ?_⟩⟩
  · obtain ⟨retrain, end_, none_⟩ := modules_kept (s := s) l
    exact ⟨retrain, end_, none_, moduleFail_steps, moduleFail_last⟩
  · refine congrArg Host.Outcome.next (if_pos ?_)
    rw [hub, link, bne_iff_ne.mpr test, line, beq_self_eq_true]
    rfl
  · refine congrArg Host.Outcome.next ((if_pos ?_).trans State.doorbell_eq)
    rw [hub, link, bne_iff_ne.mpr test]
    rfl
  · have high : (v >>> 16).toNat = field v.toNat 16 16 := by
      rw [BitVec.toNat_ushiftRight, Nat.shiftRight_eq_div_pow, field]
      have := v.isLt
      omega
    have agent : Fin.ofNat 4 (v.toNat % 4) = Fin.ofNat 4 v.toNat := Fin.ext (Nat.mod_mod ..)
    have code : BitVec.ofNat 16 (field v.toNat 16 16) = (v >>> 16).setWidth 16 := by
      rw [← high]
      exact BitVec.ofNat_toNat ..
    refine congrArg Host.Outcome.next ((if_pos hub).trans ((if_pos ?_).trans (State.doorbell_eq.trans ?_)))
    · rw [part, present, bne_iff_ne.mpr test, ← high, decide_eq_true own]
      rfl
    · rw [agent, code]
      rfl

end
end Sys2Proof.Machine

/-! ## Loam requests (R18, R23, R24, R76, R382 to R387) -/
namespace Sys2Proof.Machine
open Sys2Proof Sys2Proof.Claims

section
variable {s t u : State} {a n : Nat} {c : CtxNo}

/-! ### Staged lines with no word of a thread's leave memory as it is (R76) -/

/-- Staged lines are dropped, and nothing else changes. -/
structure Drops (s t : State) : Prop where
  rest : t = { s with ctxs := t.ctxs }
  maps : ∀ c, ∃ ses, t.ctx c = { s.ctx c with ses := ses }
  staged : ∀ c tag e, t.sesD c none (·.staged tag) = some e → s.sesD c none (·.staged tag) = some e

theorem Drops.refl (s : State) : Drops s s := ⟨rfl, fun c => ⟨(s.ctx c).ses, rfl⟩, fun _ _ _ is => is⟩

theorem Drops.trans (f : Drops s t) (g : Drops t u) : Drops s u := by
  refine ⟨by rw [g.rest, f.rest], fun c => ?_, fun c tag e is => f.staged c tag e (g.staged c tag e is)⟩
  obtain ⟨x, first⟩ := f.maps c
  obtain ⟨y, second⟩ := g.maps c
  exact ⟨y, by rw [second, first]⟩

theorem Drops.linesOf (drops : Drops s t) (c : CtxNo) (h off : Nat) : t.linesOf c h off = s.linesOf c h off := by
  obtain ⟨x, ctx⟩ := drops.maps c
  have titles : t.titles = s.titles := by rw [drops.rest]
  unfold State.linesOf State.ctxTitle State.titleOf
  rw [ctx, titles]

theorem Session.staged_filter {x : Session} {tag tag' : Nat} {e : StageLine}
    (is : Session.staged { x with staging := x.staging.filter (fun z => z.tag != tag') } tag = some e) : x.staged tag = some e := by
  unfold Session.staged at is ⊢
  dsimp only at is
  rw [List.find?_filter] at is
  have other : tag ≠ tag' := by
    obtain ⟨both, -⟩ := List.find?_eq_some_iff_append.mp is
    simp only [bne_iff_ne, beq_iff_eq, decide_eq_true_eq] at both
    exact fun same => both.1 (both.2.trans same)
  rw [← is]
  congr 1
  funext z
  by_cases at_ : z.tag = tag
  · simp [at_, other]
  · simp [at_]

theorem State.dropLine_drops {tag : Nat} (clean : ∀ e, s.sesD c none (·.staged tag) = some e → e.words = []) : Drops s (s.dropLine c tag) := by
  unfold State.dropLine
  split
  · next e is =>
    have same : s.writeLine c e = s := by
      unfold State.writeLine
      rw [clean e is]
      dsimp only
      split
      · exact if_pos rfl
      · rfl
    rw [same]
    refine ⟨rfl, fun c' => ?_, fun c' tag' e' at_ => ?_⟩
    · by_cases own : c' = c
      · subst own
        exact ⟨_, (State.ctx_modCtx ..).trans (if_pos rfl)⟩
      · exact ⟨(s.ctx c').ses, (State.ctx_modCtx ..).trans (if_neg own)⟩
    · unfold State.sesD at at_ ⊢
      rw [State.ses_modSes] at at_
      by_cases own : c' = c
      · subst own
        rw [if_pos rfl] at at_
        cases held : s.ses c' with
        | none =>
          rw [held] at at_
          exact at_
        | some x =>
          rw [held] at at_
          exact Session.staged_filter at_
      · rw [if_neg own] at at_
        exact at_
  · exact .refl s

theorem Drops.foldl {α : Type} {f : State → α → State} (l : List α) (each : ∀ x ∈ l, ∀ z, Drops s z → Drops z (f z x)) :
    Drops s (l.foldl f s) :=
  List.foldlRecOn (motive := Drops s) l f (.refl s) fun z so x mem => so.trans (each x mem z so)

theorem State.unstaged_drops (clean : linesClean s a) : Drops s (s.unstaged a) := by
  unfold State.unstaged
  refine Drops.foldl _ fun c _ z so => ?_
  split
  · rw [so.linesOf]
    refine Drops.foldl _ fun tag mem y more => ?_
    exact State.dropLine_drops fun e is => clean c tag mem e (so.staged c tag e (more.staged c tag e is))
  · exact .refl z

theorem Drops.takers (drops : Drops s t) (f : Nat) : t.takers f = s.takers f := by
  rw [drops.rest]
  rfl

/-! ### The store itself (R387) -/

/-- The bytes of words, least significant first. -/
def wordBytes (l : List Word) : List Byte := l.flatMap (fun w => bytesLE 2 w.toNat)

theorem length_wordBytes (l : List Word) : (wordBytes l).length = 2 * l.length := by
  induction l with
  | nil => rfl
  | cons w l ih =>
    rw [wordBytes, List.flatMap_cons, List.length_append, length_bytesLE, ← wordBytes, ih, List.length_cons]
    omega

theorem wordBytes_word (l : List Word) : ∀ j, j < l.length → (wordBytes l).getD (2 * j + 1) 0 ++ (wordBytes l).getD (2 * j) 0 = l.getD j 0 := by
  induction l with
  | nil => exact fun _ none_ => absurd none_ (Nat.not_lt_zero _)
  | cons w l ih =>
    have cons : wordBytes (w :: l) = BitVec.ofNat 8 w.toNat :: BitVec.ofNat 8 (w.toNat / 256) :: wordBytes l := rfl
    intro j within
    rw [cons]
    cases j with
    | zero =>
      show BitVec.ofNat 8 (w.toNat / 256) ++ BitVec.ofNat 8 w.toNat = w
      apply BitVec.eq_of_toNat_eq
      have low : w.toNat % 2 ^ 8 < 2 ^ 8 := Nat.mod_lt _ (by decide)
      rw [BitVec.toNat_append, BitVec.toNat_ofNat, BitVec.toNat_ofNat, ← Nat.shiftLeft_add_eq_or_of_lt low, Nat.shiftLeft_eq]
      have := w.isLt
      omega
    | succ j =>
      rw [show 2 * (j + 1) + 1 = 2 * j + 1 + 1 + 1 from rfl, show 2 * (j + 1) = 2 * j + 1 + 1 from rfl]
      exact ih j (Nat.lt_of_succ_lt_succ within)

/-- Bytes stored in each of some frames, at one offset. -/
def State.storeIn (o : Nat) (l : List Byte) (gs : List Nat) (s : State) : State :=
  gs.foldl (fun (s : State) g => s.setBytes (g * 4096 + o) l) s

theorem State.storeIn_byte {o : Nat} {l : List Byte} (fits : o + l.length ≤ 4096) (x : Nat) : ∀ (gs : List Nat) (s : State),
    memByte (s.storeIn o l gs).mem x =
      if x / 4096 ∈ gs ∧ o ≤ x % 4096 ∧ x % 4096 < o + l.length then l.getD (x % 4096 - o) 0 else memByte s.mem x
  | [], s => by
    rw [if_neg fun both => List.not_mem_nil both.1]
    rfl
  | g :: gs, s => by
    have rest := State.storeIn_byte fits x gs (s.setBytes (g * 4096 + o) l)
    have first : memByte (s.setBytes (g * 4096 + o) l).mem x =
        if g * 4096 + o ≤ x ∧ x < g * 4096 + o + l.length then l.getD (x - (g * 4096 + o)) 0 else memByte s.mem x := memByte_memWrite ..
    rw [show s.storeIn o l (g :: gs) = (s.setBytes (g * 4096 + o) l).storeIn o l gs from rfl, rest, first]
    by_cases later : x / 4096 ∈ gs ∧ o ≤ x % 4096 ∧ x % 4096 < o + l.length
    · rw [if_pos later, if_pos ⟨.tail _ later.1, later.2⟩]
    · rw [if_neg later]
      by_cases own : g * 4096 + o ≤ x ∧ x < g * 4096 + o + l.length
      · have frame : x / 4096 = g := by omega
        rw [if_pos own, if_pos ⟨frame ▸ .head _, by omega, by omega⟩]
        congr 1
        omega
      · rw [if_neg own, if_neg]
        rintro ⟨mem, within⟩
        rcases List.mem_cons.mp mem with rfl | tail
        · exact own (by omega)
        · exact later ⟨tail, within⟩

/-- Maps and frame records are marked, and signals raised. -/
def Marks (s t : State) : Prop := t = { s with frames := t.frames, ctxs := t.ctxs, dic := t.dic, keepers := t.keepers }

theorem Marks.trans (f : Marks s t) (g : Marks t u) : Marks s u := by
  unfold Marks at f g ⊢
  rw [g, f]

theorem State.modFrame_marks (f : Nat) (h : FrameRec → FrameRec) : Marks s (s.modFrame f h) := by
  have only := State.setFrame_only (s := s) (f := f) (r := h (s.frame f))
  unfold Marks State.modFrame
  generalize s.setFrame f (h (s.frame f)) = t at only
  rw [only]

theorem Marks.foldl {α : Type} {f : State → α → State} (l : List α) (each : ∀ z x, Marks z (f z x)) : Marks s (l.foldl f s) :=
  List.foldlRecOn (motive := Marks s) l f rfl fun z so x _ => so.trans (each z x)

theorem State.dirtied_marks (f : Nat) : Marks s (s.dirtied f) := by
  unfold State.dirtied
  dsimp only
  by_cases stays : s.homeOf f = f ∨ s.current (s.homeOf f) ≠ s.homeOf f
  · rw [if_pos stays]
    rfl
  · rw [if_neg stays]
    refine (State.modFrame_marks ..).trans (Marks.foldl _ fun z c => ?_)
    generalize z.namesCopy (if f < 67174400 then 0 else 1) f c = names
    cases names
    · rfl
    · rfl

theorem State.dirtied_mem (f : Nat) : (s.dirtied f).mem = s.mem := by rw [State.dirtied_marks (s := s) f]

theorem State.loamStore_stored {data : List Word} (clean : linesClean s a) (fits : a % 4096 + 2 * data.length ≤ 4096) :
    stored s (s.loamStore a data false) a data := by
  have drops := State.unstaged_drops clean
  have takers := drops.takers (a / 4096)
  have mem : (s.unstaged a).mem = s.mem := by rw [drops.rest]
  have long := length_wordBytes data
  have is : (s.loamStore a data false).mem =
      (State.storeIn (a % 4096) (wordBytes data) ((s.unstaged a).takers (a / 4096)) { s.unstaged a with images := Sparse.erase (s.unstaged a).images (a / 4096) }).mem :=
    State.dirtied_mem _
  have bytes (x : Nat) : memByte (s.loamStore a data false).mem x = if x / 4096 ∈ s.takers (a / 4096) ∧ a % 4096 ≤ x % 4096 ∧
      x % 4096 < a % 4096 + 2 * data.length then (wordBytes data).getD (x % 4096 - a % 4096) 0 else memByte s.mem x := by
    rw [is, State.storeIn_byte (by omega), takers, long, ← mem]
  refine ⟨fun g taker j within => ?_, fun x out => ?_⟩
  · have at_ (i : Nat) (small : i < 2 * data.length) : memByte (s.loamStore a data false).mem (g * 4096 + a % 4096 + i) = (wordBytes data).getD i 0 := by
      have frame : (g * 4096 + a % 4096 + i) / 4096 = g := by omega
      rw [bytes, if_pos ⟨by rw [frame]; exact taker, by omega, by omega⟩]
      congr 1
      omega
    rw [State.word, memWord, at_ (2 * j) (by omega), Nat.add_assoc _ (2 * j) 1,
      at_ (2 * j + 1) (by omega), wordBytes_word data j within]
  · rw [bytes, if_neg]
    rintro ⟨taker, low, high⟩
    have := out _ taker
    omega

/-- The requests outstanding and what has left. -/
def Exchanges (s : State) : List LoamReq × List Sent := (s.loam, s.wire)

theorem Marks.exchanges (marks : Marks s t) : Exchanges t = Exchanges s := by
  rw [marks]
  rfl

theorem State.writeLine_exchanges (e : StageLine) : Exchanges (s.writeLine c e) = Exchanges s := by
  have words (l : List (Nat × Word)) (f i : Nat) (z : State) :
      Exchanges (l.foldl (fun (s : State) w => s.setWord (f * 4096 + 2 * (64 * i % 2048 + w.1)) w.2) z) = Exchanges z :=
    foldl_projection (f := fun (s : State) (w : Nat × Word) => s.setWord (f * 4096 + 2 * (64 * i % 2048 + w.1)) w.2) (p := Exchanges)
      (fun _ _ => rfl) l z
  have marks (z : State) (i : Nat) : Exchanges (z.markDirty c i) = Exchanges z := by
    unfold State.markDirty
    dsimp only
    split
    · split
      · rw [(State.modFrame_marks ..).exchanges]
        rfl
      · rfl
    · rfl
  unfold State.writeLine
  dsimp only
  split
  · split
    · rfl
    · rw [marks, words]
  · rfl

theorem State.unstaged_exchanges : Exchanges (s.unstaged a) = Exchanges s := by
  have drop (z : State) (c : CtxNo) (tag : Nat) : Exchanges (z.dropLine c tag) = Exchanges z := by
    unfold State.dropLine
    split
    · exact State.writeLine_exchanges _
    · rfl
  refine foldl_projection (p := Exchanges) (fun z c => ?_) s.ctxNos s
  split
  · exact foldl_projection (f := fun (z : State) tag => z.dropLine c tag) (p := Exchanges) (fun y tag => drop y c tag) _ z
  · rfl

theorem State.loamStore_exchanges (data : List Word) (poison : Bool) : Exchanges (s.loamStore a data poison) = Exchanges s := by
  have stores (l : List Byte) (z : State) : Exchanges (z.storeTakers a l poison) = Exchanges z := by
    refine foldl_projection (p := Exchanges) (fun y g => ?_) (z.takers (a / 4096)) { z with images := Sparse.erase z.images (a / 4096) }
    dsimp only
    split
    · rfl
    · rfl
  unfold State.loamStore
  rw [(State.dirtied_marks _).exchanges, stores]
  exact State.unstaged_exchanges

theorem State.loamStore_loam (data : List Word) (poison : Bool) : (s.loamStore a data poison).loam = s.loam :=
  congrArg Prod.fst (State.loamStore_exchanges data poison)

/-! ### A request at memory (R23, R24, R385) -/

variable {node tag : Byte} {op : LoamOp} {ty : Nat} {data : List Word} {ok : Bool} {k : Nat}

/-- What memory does with a request. -/
def State.atMemory (op : LoamOp) (a n ty : Nat) (data : List Word) (ok poison : Bool) (s : State) : State × LoamReply :=
  match op with
  | .rd => s.memRd a n
  | .atom => s.memAtom ty a data
  | .wr => s.memWr a data ok poison
  | .pwr => s.memWr a data ok poison

/-- A request of a device node that memory takes. -/
theorem State.serve_memory {w : Nat} (reach : Sys2Proof.Claims.reaches s node a w) :
    s.serve op node a n ty data ok false k = s.atMemory op a n ty data ok false ∧ s.memCheck (s.forwardUp a) a w = none := by
  obtain ⟨device, memory, even, fits, up, forward, d, die, inside, powered, route⟩ := reach
  refine ⟨?_, ?_⟩
  · unfold State.serve
    rw [if_neg fun guest => absurd guest.1 (not_le.mpr device), if_neg fun guest => absurd guest.1 (not_le.mpr device), die]
    have live : ¬ (d < 2 ∧ (!s.power.dieUp d) = true ∧ ((!s.winPowered a) = true ∨ a < rdWindow)) := by
      rintro ⟨low, off, -⟩
      rw [powered low] at off
      exact absurd off (by decide)
    dsimp only
    rw [if_neg inside, if_neg live, route, if_neg (by decide), if_pos memory]
    cases op
    · rfl
    · rfl
    · rfl
    · rfl
  · unfold State.memCheck
    rw [up, forward, if_neg (by decide), if_neg (by omega), if_neg (by omega)]
    rfl

theorem State.loamRead_plain (plain : noState s a) : s.loamRead a n = ({ s with fresh := s.fresh + n }, readWords s a n, badWords s a n) := by
  obtain ⟨page, image⟩ := plain
  have words : s.loamWords a n = readWords s a n := by
    unfold State.loamWords
    dsimp only
    rw [page, image]
    rfl
  rw [State.loamRead, words]
  rfl

theorem State.memRd_serves (reach : s.memCheck (s.forwardUp a) a n = none) (plain : noState s a) :
    s.memRd a n = ({ s with fresh := s.fresh + n }, { LoamReply.done (readWords s a n) with wrong := badWords s a n }) := by
  unfold State.memRd
  rw [reach]
  dsimp only
  rw [State.loamRead_plain plain]

theorem rd_kept {a : LoamAddr} {len : BitVec 7} (some_ : 1 ≤ len.toNat) (short : len.toNat ≤ 64) (may : s.mayIssueReq node tag false 0 = true) :
    let q := { issued node tag .rd a len.toNat [] with resp := readWords s a.toNat len.toNat, wrong := badWords s a.toNat len.toNat }
    (Sys2Proof.Claims.reaches s node a.toNat len.toNat → noState s a.toNat →
      ∃ t, exec (.rd node tag a len) s = .next t ∧ t = { s with loam := t.loam, fresh := t.fresh } ∧ inFlight s t q) ∧
    (node.toNat < 0xC0 → addrDie s.part a.toNat = none → ∃ t, exec (.rd node tag a len) s = .next t ∧ t = { s with loam := t.loam } ∧
      inFlight s t { q with status := 1, resp := [], wrong := false }) := by
  intro q
  have run : exec (.rd node tag a len) s = .next (s.request .rd node tag a len.toNat 0 [] true false) :=
    congrArg Host.Outcome.next ((if_neg (by omega)).trans (if_pos may))
  refine ⟨fun reach plain => ⟨_, run, ?_⟩, fun device none_ => ⟨_, run, ?_⟩⟩
  · obtain ⟨serves, check⟩ := State.serve_memory (op := .rd) (n := len.toNat) (ty := 0) (data := []) (ok := true) (k := 1) reach
    have answered : s.serve .rd node a.toNat len.toNat 0 [] true false 1 = _ := serves.trans (State.memRd_serves check plain)
    unfold State.request
    rw [answered]
    exact ⟨rfl, rfl⟩
  · have fails : s.serve .rd node a.toNat len.toNat 0 [] true false 1 = (s, LoamReply.fail 1) := by
      unfold State.serve
      rw [if_neg fun guest => absurd guest.1 (not_le.mpr device), if_neg fun guest => absurd guest.1 (not_le.mpr device), none_]
    unfold State.request
    rw [fails]
    exact ⟨rfl, rfl⟩

theorem wr_kept {a : LoamAddr} {i : Instr} (some_ : 1 ≤ data.length) (short : data.length ≤ 64)
    (may : s.mayIssueReq node tag true data.length = true) (reach : Sys2Proof.Claims.reaches s node a.toNat data.length)
    (is : i = .wr node tag a data ok false ∧ op = .wr ∨ i = .pwr node tag a data ok false ∧ op = .pwr) :
    let q := issued node tag op a data.length data
    (ok = true → ∃ t, exec i s = .next t ∧ inFlight s t q ∧ (linesClean s a.toNat → stored s t a.toNat data)) ∧
    (ok = false → ∃ t, exec i s = .next t ∧ t = { s with loam := t.loam } ∧ inFlight s t { q with status := 2 }) := by
  intro q
  have run : exec i s = .next (s.request op node tag a data.length 0 data ok false) := by
    rcases is with ⟨rfl, rfl⟩ | ⟨rfl, rfl⟩
    · exact congrArg Host.Outcome.next ((if_neg (by omega)).trans (if_pos may))
    · exact congrArg Host.Outcome.next ((if_neg (by omega)).trans (if_pos may))
  obtain ⟨serves, check⟩ := State.serve_memory (op := op) (n := data.length) (ty := 0) (data := data) (ok := ok) (k := 1) reach
  have writes : s.serve op node a.toNat data.length 0 data ok false 1 = s.memWr a.toNat data ok false := by
    rw [serves]
    rcases is with ⟨-, rfl⟩ | ⟨-, rfl⟩
    · rfl
    · rfl
  have lands : s.memWr a.toNat data ok false = if ok then (s.loamStore a.toNat data false, LoamReply.done []) else (s, LoamReply.fail 2) := by
    unfold State.memWr
    rw [check]
  rw [lands] at writes
  obtain ⟨-, -, -, fits, -⟩ := reach
  refine ⟨fun good => ⟨_, run, ?_⟩, fun bad => ⟨_, run, ?_⟩⟩
  · subst good
    unfold State.request
    rw [writes]
    refine ⟨congrArg (· ++ [q]) (State.loamStore_loam data false), fun clean => ?_⟩
    exact State.loamStore_stored clean (by omega)
  · subst bad
    unfold State.request
    rw [writes]
    exact ⟨rfl, rfl⟩

theorem length_wordsLE : ∀ n v : Nat, (wordsLE n v).length = n
  | 0, _ => rfl
  | n + 1, v => congrArg (· + 1) (length_wordsLE n (v / 65536))

theorem atom_kept {a : LoamAddr} {ty : BitVec 4} {k al w : Nat} (shape : atomShape ty.toNat = some (k, al, w)) (count : data.length = k)
    (aligned : a.toNat % al = 0) (may : s.mayIssueReq node tag false 0 = true) (reach : Sys2Proof.Claims.reaches s node a.toNat w) (plain : noState s a.toNat)
    (good : badWords s a.toNat w = false) :
    let old := readWords s a.toNat w
    let q := { issued node tag .atom a k data with resp := old, atype := ty }
    (∀ v, atomNew ty.toNat (ofWordsLE old) data = some v →
      ∃ t, exec (.atom node tag ty a data) s = .next t ∧ inFlight s t q ∧ (linesClean s a.toNat → stored s t a.toNat (wordsLE w v))) ∧
    (atomNew ty.toNat (ofWordsLE old) data = none →
      ∃ t, exec (.atom node tag ty a data) s = .next t ∧ t = { s with loam := t.loam, fresh := t.fresh } ∧ inFlight s t q) := by
  intro old q
  have type_ : BitVec.ofNat 4 ty.toNat = ty := BitVec.ofNat_toNat .. |>.trans (BitVec.setWidth_eq ty)
  have run : exec (.atom node tag ty a data) s = .next (s.request .atom node tag a data.length ty.toNat data true false) := by
    show Host.Outcome.next _ = _
    rw [if_neg, if_pos may]
    intro not_
    rw [shape] at not_
    dsimp only at not_
    rw [beq_iff_eq.mpr count] at not_
    exact absurd not_ (by decide)
  obtain ⟨serves, check⟩ := State.serve_memory (op := .atom) (n := data.length) (ty := ty.toNat) (data := data) (ok := true) (k := 1) reach
  have acts : s.memAtom ty.toNat a.toNat data = ((atomNew ty.toNat (ofWordsLE old) data).elim { s with fresh := s.fresh + w }
      (fun v => ({ s with fresh := s.fresh + w } : State).loamStore a.toNat (wordsLE w v) false), LoamReply.done old) := by
    unfold State.memAtom
    rw [shape]
    dsimp only
    rw [check]
    dsimp only
    rw [State.loamRead_plain plain, good, if_neg (not_not.mpr aligned), if_neg Bool.false_ne_true]
    dsimp only
    cases atomNew ty.toNat (ofWordsLE (readWords s a.toNat w)) data
    · rfl
    · rfl
  have answered : s.serve .atom node a.toNat data.length ty.toNat data true false 1 = _ := serves.trans acts
  obtain ⟨-, -, -, within, -⟩ := reach
  have same : q = { issued node tag .atom a data.length data with resp := old, atype := BitVec.ofNat 4 ty.toNat } := by
    rw [type_, count]
  refine ⟨fun v new => ⟨_, run, ?_⟩, fun new => ⟨_, run, ?_⟩⟩
  · rw [new] at answered
    unfold State.request
    rw [answered, same]
    refine ⟨congrArg (· ++ [_]) (State.loamStore_loam (s := { s with fresh := s.fresh + w }) (wordsLE w v) false), fun clean => ?_⟩
    exact State.loamStore_stored (s := { s with fresh := s.fresh + w }) clean (by rw [length_wordsLE]; omega)
  · rw [new] at answered
    unfold State.request
    rw [answered, same]
    exact ⟨rfl, rfl⟩

theorem loamRequestsRule_kept : loamRequestsRule := by
  unfold loamRequestsRule
  intro node tag a s x
  exact ⟨fun len some_ short may => rd_kept some_ short may, fun data ok i op some_ short may reach is => wr_kept some_ short may reach is,
    fun ty data k al w shape count aligned may reach plain good => atom_kept shape count aligned may reach plain good⟩

end
end Sys2Proof.Machine

/-! ## Loam responses (R85, R384, R390 to R392) -/
namespace Sys2Proof.Machine
open Sys2Proof Sys2Proof.Claims

section
variable {s t z : State} {node tag : Byte} {op : LoamOp} {r : LoamReq}

/-! ### A response is delivered (R384) -/

theorem State.findReq_facts (found : s.findReq node tag op = some r) : r ∈ s.loam ∧ r.node = node ∧ r.tag = tag ∧ r.op = op := by
  have both := List.find?_some found
  simp only [Bool.and_eq_true, beq_iff_eq] at both
  exact ⟨List.mem_of_find?_eq_some found, both.1.1.1, both.1.1.2, both.1.2⟩

/-- What a delivery leaves, to a state that differed in its registers. -/
theorem State.deliver_responded (same : z = { s with regs := z.regs }) (node_ : r.node = node) (tag_ : r.tag = tag) (status : BitVec 4) (data : List Word) :
    responded s (z.deliver r status.toNat data) node tag status data ∧
    z.deliver r status.toNat data = { s with
      loam := (z.deliver r status.toNat data).loam, wire := (z.deliver r status.toNat data).wire
      answer := (z.deliver r status.toNat data).answer, regs := z.regs } := by
  have code : BitVec.ofNat 4 status.toNat = status := (BitVec.ofNat_toNat ..).trans (BitVec.setWidth_eq status)
  subst node_ tag_
  refine ⟨⟨⟨z.wire, ?_⟩, rfl, ?_⟩, ?_⟩
  · show Sent.response r.node r.tag (BitVec.ofNat 4 status.toNat) data :: z.wire = _
    rw [code]
  · show z.loam.filter _ = _
    rw [same]
  · exact congrArg (fun y : State => { y with
      loam := (z.deliver r status.toNat data).loam, wire := (z.deliver r status.toNat data).wire
      answer := (z.deliver r status.toNat data).answer }) same

/-! ### Reads, writes and atomics (R85, R384, R390, R391) -/

theorem State.countCured_counted : (s.countCured r) = { s with regs := (s.countCured r).regs } ∧ curedCounted s (s.countCured r) r := by
  unfold curedCounted State.countCured
  refine ⟨?_, fun one => ?_, fun more low some_ => ?_⟩
  · split
    · rfl
    · rfl
  · rw [if_neg fun both => absurd both.1 (by omega)]
  · rw [if_pos ⟨more, low, some_⟩]
    exact State.regN_countReg

/-- A delivery that differs in its registers as said. -/
theorem State.deliver_kept (same : z = { s with regs := z.regs }) (node_ : r.node = node) (tag_ : r.tag = tag) (status : BitVec 4) (data : List Word) :
    responded s (z.deliver r status.toNat data) node tag status data ∧ (z.deliver r status.toNat data).regs = z.regs ∧
    z.deliver r status.toNat data = { s with
      loam := (z.deliver r status.toNat data).loam, wire := (z.deliver r status.toNat data).wire
      answer := (z.deliver r status.toNat data).answer, regs := (z.deliver r status.toNat data).regs } :=
  ⟨(State.deliver_responded same node_ tag_ status data).1, rfl, (State.deliver_responded same node_ tag_ status data).2⟩

/-- An address below the windows belongs to no guest. -/
theorem addrDie_low {p : Part} {a d : Nat} (low : a < rdWindow) (die : addrDie p a = some d) : d ≠ 3 := by
  unfold addrDie at die
  rw [if_neg, if_neg fun both => absurd both.1 (not_le.mpr low)] at die
  · obtain ⟨k, -, rfl⟩ := Option.map_eq_some_iff.mp die
    unfold poolDie
    split
    · decide
    · omega
  · unfold inPlinth
    rw [decide_eq_true_iff]
    unfold rdWindow at low
    unfold guestBase
    omega

/-- A request for memory sends nothing and leaves the others outstanding. -/
theorem State.serve_exchanges {a n ty k : Nat} {data : List Word} {ok poison : Bool} (device : node.toNat < 0xC0) (low : a < rdWindow)
    (plain : op ≠ .atom) : Exchanges (s.serve op node a n ty data ok poison k).1 = Exchanges s ∧
      (op = .rd → (s.serve op node a n ty data ok poison k).1.mem = s.mem) := by
  unfold State.serve
  rw [if_neg fun guest => absurd guest.1 (not_le.mpr device), if_neg fun guest => absurd guest.1 (not_le.mpr device)]
  cases die : addrDie s.part a with
  | none => exact ⟨rfl, fun _ => rfl⟩
  | some d =>
    dsimp only
    rw [if_neg (addrDie_low low die)]
    by_cases off : d < 2 ∧ (!s.power.dieUp d) = true ∧ ((!s.winPowered a) = true ∨ a < rdWindow)
    · rw [if_pos off]
      exact ⟨rfl, fun _ => rfl⟩
    · rw [if_neg off]
      by_cases cut : (!s.routeUp (nodeDie node) d) = true
      · rw [if_pos cut]
        exact ⟨rfl, fun _ => rfl⟩
      · rw [if_neg cut, if_pos low]
        have reads : Exchanges (s.memRd a n).1 = Exchanges s ∧ (s.memRd a n).1.mem = s.mem := by
          unfold State.memRd
          split
          · exact ⟨rfl, rfl⟩
          · exact ⟨rfl, rfl⟩
        have writes : Exchanges (s.memWr a data ok poison).1 = Exchanges s := by
          unfold State.memWr
          split
          · rfl
          · split
            · exact State.loamStore_exchanges data poison
            · rfl
        cases op with
        | rd => exact ⟨reads.1, fun _ => reads.2⟩
        | wr => exact ⟨writes, fun no => nomatch no⟩
        | pwr => exact ⟨writes, fun no => nomatch no⟩
        | atom => exact absurd rfl plain

/-- A request issued again stands for its next attempt (R390). -/
theorem State.reissue_again {ok : Bool} (mem : r ∈ s.loam) (device : r.node.toNat < 0xC0) (low : r.addr.toNat < rdWindow) (plain : r.op ≠ .atom) :
    (s.reissue r ok).wire = s.wire ∧ (r.op = .rd → (s.reissue r ok).mem = s.mem) ∧
      ∃ q ∈ (s.reissue r ok).loam, q.node = r.node ∧ q.tag = r.tag ∧ q.addr = r.addr ∧ q.attempts = r.attempts + 1 := by
  obtain ⟨exchanges, reads⟩ := State.serve_exchanges (s := s) (n := r.len) (ty := 0) (k := r.attempts + 1) (data := r.data) (ok := ok) (poison := r.poison) device low plain
  unfold State.reissue
  generalize s.serve r.op r.node r.addr.toNat r.len 0 r.data ok r.poison (r.attempts + 1) = x at exchanges reads
  obtain ⟨loam, wire⟩ := Prod.mk.inj exchanges
  refine ⟨wire, reads, _, List.mem_map.mpr ⟨r, by rw [loam]; exact mem, rfl⟩, ?_⟩
  rw [if_pos ⟨rfl, rfl⟩]
  exact ⟨rfl, rfl, rfl, rfl⟩

theorem State.countLoam_regs (node : Byte) (o n : Nat) : s.countLoam node o n = { s with regs := (s.countLoam node o n).regs } := by
  unfold State.countLoam
  split
  · rfl
  · split
    · rfl
    · rfl

theorem rdr_kept (device : node.toNat < 0xC0) (found : s.findReq node tag .rd = some r) :
    (r.status ≠ 0 → ∃ t, exec (.rdr node tag true) s = .next t ∧ responded s t node tag r.status [] ∧ t.mem = s.mem) ∧
    (r.status = 0 → r.poison = false → r.wrong = false → ∃ t, exec (.rdr node tag true) s = .next t ∧
      responded s t node tag 0 r.resp ∧ curedCounted s t r ∧
      t = { s with loam := t.loam, wire := t.wire, answer := t.answer, regs := t.regs }) ∧
    (r.status = 0 → r.poison = false → r.attempts < 4 → r.addr.toNat < rdWindow → ∃ t, exec (.rdr node tag false) s = .next t ∧
      t.mem = s.mem ∧ t.wire = s.wire ∧ ∃ q ∈ t.loam, q.node = node ∧ q.tag = tag ∧ q.addr = r.addr ∧ q.attempts = r.attempts + 1) := by
  obtain ⟨mem, node_, tag_, op_⟩ := State.findReq_facts found
  have run (ok : Bool) : exec (.rdr node tag ok) s = .next (if r.status ≠ 0 then s.deliver r r.status.toNat []
      else if r.poison then (s.persistent .rd node r.addr.toNat).deliver r 2 []
      else if ok && !r.wrong then (s.countCured r).deliver r 0 r.resp
      else if r.attempts < 4 then (s.countLoam node 0x400 1).reissue r true
      else (s.persistent .rd node r.addr.toNat).deliver r 2 []) := by
    show execRdr node tag ok s = _
    rw [execRdr, found]
  refine ⟨fun bad => ?_, fun fine whole right => ?_, fun fine whole few low => ?_⟩
  · refine ⟨_, (run true).trans (congrArg Host.Outcome.next (if_pos bad)), ?_⟩
    exact ⟨(State.deliver_kept (z := s) rfl node_ tag_ r.status []).1, rfl⟩
  · obtain ⟨regs, cured⟩ := State.countCured_counted (s := s) (r := r)
    obtain ⟨response, same, rest⟩ := State.deliver_kept regs node_ tag_ 0 r.resp
    refine ⟨_, (run true).trans (congrArg Host.Outcome.next ?_), response, cured, rest⟩
    rw [if_neg (not_not.mpr fine), whole, if_neg Bool.false_ne_true, right, if_pos (by decide)]
    rfl
  · have counted := State.countLoam_regs (s := s) node 0x400 1
    refine ⟨(s.countLoam node 0x400 1).reissue r true, (run false).trans (congrArg Host.Outcome.next ?_), ?_⟩
    · rw [if_neg (not_not.mpr fine), whole, if_neg Bool.false_ne_true, Bool.false_and, if_neg Bool.false_ne_true, if_pos few]
    · generalize s.countLoam node 0x400 1 = z at counted
      have in_ : r ∈ z.loam := by rw [counted]; exact mem
      obtain ⟨wire, kept, q, standing, node', tag', addr, attempts⟩ := State.reissue_again (ok := true) in_ (by rw [node_]; exact device) low
        (by rw [op_]; exact fun no => nomatch no)
      refine ⟨(kept op_).trans ?_, wire.trans ?_, q, standing, node'.trans node_, tag'.trans tag_, addr, attempts⟩
      · rw [counted]
      · rw [counted]

theorem writeAnswer_kept {i : Instr} (device : node.toNat < 0xC0) (found : s.findReq node tag op = some r)
    (is : i = .wrr node tag ∧ op = .wr ∨ i = .pack node tag ∧ op = .pwr) :
    (r.status ≠ 2 → ∃ t, exec i s = .next t ∧ responded s t node tag r.status [] ∧
      (r.status = 0 → curedCounted s t r) ∧ (r.status ≠ 0 → t.regs = s.regs) ∧
      t = { s with loam := t.loam, wire := t.wire, answer := t.answer, regs := t.regs }) ∧
    (r.status = 2 → r.attempts < 4 → r.addr.toNat < rdWindow → ∃ t, exec i s = .next t ∧ t.wire = s.wire ∧
      ∃ q ∈ t.loam, q.node = node ∧ q.tag = tag ∧ q.addr = r.addr ∧ q.attempts = r.attempts + 1) := by
  obtain ⟨mem, node_, tag_, op_⟩ := State.findReq_facts found
  have run : exec i s = .next (if r.status ≠ 2 then (if r.status = 0 then s.countCured r else s).deliver r r.status.toNat []
      else if r.attempts < 4 then (s.countLoam node 0x404 1).spend.reissue r (decide (0xC0 ≤ node.toNat) || Config.freeBool s.fresh)
      else (s.persistent op node r.addr.toNat).deliver r 2 []) := by
    have answer : s.writeAnswer op node tag = if r.status ≠ 2 then (if r.status = 0 then s.countCured r else s).deliver r r.status.toNat []
        else if r.attempts < 4 then (s.countLoam node 0x404 1).spend.reissue r (decide (0xC0 ≤ node.toNat) || Config.freeBool s.fresh)
        else (s.persistent op node r.addr.toNat).deliver r 2 [] := by
      rw [State.writeAnswer, found]
    rcases is with ⟨rfl, rfl⟩ | ⟨rfl, rfl⟩
    · exact congrArg Host.Outcome.next answer
    · exact congrArg Host.Outcome.next answer
  refine ⟨fun taken => ?_, fun refused few low => ?_⟩
  · have regs : (if r.status = 0 then s.countCured r else s) = { s with regs := (if r.status = 0 then s.countCured r else s).regs } := by
      split
      · exact State.countCured_counted.1
      · rfl
    obtain ⟨response, same, rest⟩ := State.deliver_kept regs node_ tag_ r.status []
    refine ⟨_, run.trans (congrArg Host.Outcome.next (if_pos taken)), response, fun fine => ?_, fun bad => ?_, rest⟩
    · rw [if_pos fine]
      exact State.countCured_counted.2
    · rw [if_neg bad]
      rfl
  · refine ⟨_, run.trans (congrArg Host.Outcome.next ((if_neg (not_not.mpr refused)).trans (if_pos few))), ?_⟩
    have counted := State.countLoam_regs (s := s) node 0x404 1
    generalize s.countLoam node 0x404 1 = z at counted
    have in_ : r ∈ z.spend.loam := by
      show r ∈ z.loam
      rw [counted]
      exact mem
    obtain ⟨wire, -, q, standing, node', tag', addr, attempts⟩ := State.reissue_again (ok := decide (0xC0 ≤ node.toNat) || Config.freeBool s.fresh) in_
      (by rw [node_]; exact device) low (by rw [op_]; rcases is with ⟨-, rfl⟩ | ⟨-, rfl⟩ <;> exact fun no => nomatch no)
    refine ⟨wire.trans ?_, q, standing, node'.trans node_, tag'.trans tag_, addr, attempts⟩
    show z.wire = s.wire
    rw [counted]

theorem atr_kept (found : s.findReq node tag .atom = some r) :
    (r.status ≠ 0 → ∃ t, exec (.atr node tag true) s = .next t ∧ responded s t node tag r.status []) ∧
    (r.status = 0 → r.wrong = false → ∃ t, exec (.atr node tag true) s = .next t ∧ responded s t node tag 0 r.resp ∧
      t = { s with loam := t.loam, wire := t.wire, answer := t.answer }) := by
  obtain ⟨mem, node_, tag_, op_⟩ := State.findReq_facts found
  have run : exec (.atr node tag true) s = .next (if r.status ≠ 0 then s.deliver r r.status.toNat []
      else if true && !r.wrong then s.deliver r 0 r.resp else (s.persistent .atom node r.addr.toNat).deliver r 2 []) := by
    show execAtr node tag true s = _
    rw [execAtr, found]
  refine ⟨fun bad => ?_, fun fine right => ?_⟩
  · exact ⟨_, run.trans (congrArg Host.Outcome.next (if_pos bad)), (State.deliver_kept (z := s) rfl node_ tag_ r.status []).1⟩
  · refine ⟨s.deliver r 0 r.resp, run.trans (congrArg Host.Outcome.next ((if_neg (not_not.mpr fine)).trans (if_pos ?_))),
      (State.deliver_kept (z := s) rfl node_ tag_ 0 r.resp).1, rfl⟩
    rw [right]
    rfl

theorem loamTimeout_kept (found : s.loam.find? (fun r => r.node == node && r.tag == tag) = some r) :
    (r.age < s.loamTimeout node → exec (.loamTimeout node tag) s = .next s) ∧
    (s.loamTimeout node ≤ r.age → ∃ t, exec (.loamTimeout node tag) s = .next t ∧ responded s t node tag 5 [] ∧
      t = { s with loam := t.loam, wire := t.wire, answer := t.answer, regs := t.regs } ∧
      (nodeDie node = 2 → t.regN (loamHdBase + 0x40C) = min 0xFFFFFFFF (s.regN (loamHdBase + 0x40C) + 1))) := by
  have both := List.find?_some found
  simp only [Bool.and_eq_true, beq_iff_eq] at both
  have run : exec (.loamTimeout node tag) s = .next (if s.loamTimeout node ≤ r.age then (s.countLoam node 0x40C 1).deliver r 5 [] else s) := by
    show execLoamTimeout node tag s = _
    rw [execLoamTimeout, found]
  refine ⟨fun young => run.trans (congrArg Host.Outcome.next (if_neg (not_le.mpr young))), fun old => ?_⟩
  obtain ⟨response, same, rest⟩ := State.deliver_kept (State.countLoam_regs (s := s) node 0x40C 1) both.1 both.2 5 []
  refine ⟨(s.countLoam node 0x40C 1).deliver r 5 [], run.trans (congrArg Host.Outcome.next (if_pos old)), response, rest, fun hub => ?_⟩
  have counts : s.countLoam node 0x40C 1 = s.countReg (loamHdBase + 0x40C) 1 := (if_neg (by omega)).trans (if_pos hub)
  rw [counts]
  exact State.regN_countReg

theorem loamResponsesRule_kept : loamResponsesRule := by
  unfold loamResponsesRule
  intro node tag s device
  exact ⟨fun r found => rdr_kept device found, fun r i op found is => writeAnswer_kept device found is, fun r found => atr_kept found,
    fun r found => loamTimeout_kept found⟩

/-- Settles O51. -/
theorem loamCommands : Obligations.LoamCommands :=
  ⟨loamRequestsRule_kept, loamResponsesRule_kept, linksAndMessagesRule_kept, flitsRule_kept⟩

end
end Sys2Proof.Machine

/-! ## Far stores and atomics of a page with a written staging line (R76, R163, R387) -/
namespace Sys2Proof.Machine
open Sys2Proof Sys2Proof.Claims

/-- A session whose thread has written word 0 of its first staging line. -/
def lineWritten : Session := { Session.initial false false 0 [] with staging := [{ tag := 0, words := [(0, 7)] }] }

/-- Keeper 0 runs, with segment 0 on Vault frame 3000; context 5, admitted on die 0, has that frame's clean Gallery copy and has written a
word of it in a staging line. -/
def cleanCopyStaged : State :=
  { State.reset with
    power := { State.reset.power with mode := .attended, on := 0x1FFFFFFFFFFFFE, cause := 0 }
    links := Vector.replicate 4 { up := 4, retraining := 0 }
    frames := [(copyFrameNo, { FrameRec.free with pool := 1, home := some 3000 })]
    ctxs := [(5, { Context.reset with
      state := .running, slot := 4, ses := some lineWritten
      pages := [(3, { PageEntry.none with alloc := true, gcopy := true, home := 3000, gframe := 40 })] })]
    slots := [(4, { SlotSt.idle with ctx := some 5 })]
    keepers := State.reset.keepers.set 0 { State.reset.keepers[0] with
      running := true, cpu := { State.reset.keepers[0].cpu with
        w := State.reset.keepers[0].cpu.w.set 1 0xBEEF, seg := State.reset.keepers[0].cpu.seg.set 0 12003 } } }

/-- The word that stands at an address where an instruction has completed. -/
def wordAfter (o : Outcome) (a : Nat) : Option Word :=
  match o with
  | .next t => some (t.word a)
  | _ => none

theorem cleanCopyStaged_issues : cleanCopyStaged.Issues (.keeper 0) 2 :=
  ⟨by decide, by decide, by decide, by decide, by decide, by decide +kernel, by
    intro q; fin_cases q <;> rfl⟩

theorem cleanCopyStaged_serves (n : Nat) (few : n = 1 ∨ n = 2) : memoryServes cleanCopyStaged 0xBB8000 n := by
  refine ⟨by decide, ?_, 0, by decide, fun _ => by decide, by decide⟩
  rcases few with rfl | rfl
  · decide
  · decide

theorem cleanCopyStaged_takers : cleanCopyStaged.takers (0xBB8000 / 4096) = [3000, copyFrameNo] := by decide

theorem stf_leavesHome : wordAfter (exec (.stf (.keeper 0) 1 0 0) cleanCopyStaged) 0xBB8000 = some 0 := by decide +kernel

theorem fadd32_leavesHome : wordAfter (exec (.fadd32 (.keeper 0) 1 0 0) cleanCopyStaged) 0xBB8000 = some 0 := by decide +kernel

/-- Refutes O21: the staged line written back first makes the Gallery copy dirty, so the store reaches it alone and the home frame, which
took writes before, does not hold the word. -/
theorem not_farStoreResults : ¬ Obligations.FarStoreResults := by
  intro stores
  obtain ⟨⟨-, goes⟩, -⟩ := stores 0 1 0 0
  obtain ⟨t, ran, -, holds, -⟩ := goes cleanCopyStaged ⟨cleanCopyStaged_issues, by decide, by decide, by decide, fun _ => by decide⟩ (by decide)
    (cleanCopyStaged_serves 1 (.inl rfl))
  have word := holds 3000 (by rw [show (cleanCopyStaged.cpu (.keeper 0)).farAddr 0 0 = 0xBB8000 by decide, cleanCopyStaged_takers]; exact .head _)
    0 (by decide)
  have left := stf_leavesHome
  rw [ran] at left
  exact absurd (word.symm.trans (Option.some.inj left)) (by decide)

/-- Refutes O22: for the same reason a sum reaches the Gallery copy alone. -/
theorem not_farAtomicResults : ¬ Obligations.FarAtomicResults := by
  intro atoms
  obtain ⟨⟨-, goes⟩, -⟩ := atoms 0 1 0 0
  obtain ⟨t, ran, -, holds, -⟩ := goes cleanCopyStaged ⟨cleanCopyStaged_issues, by decide, by decide, by decide, fun _ => by decide⟩ (by decide)
    (cleanCopyStaged_serves 2 (.inr rfl)) ⟨by decide, by decide, by decide⟩
  have word := holds 3000 (by rw [show (cleanCopyStaged.cpu (.keeper 0)).farAddr 0 0 = 0xBB8000 by decide, cleanCopyStaged_takers]; exact .head _)
    0 (by decide)
  have left := fadd32_leavesHome
  rw [ran] at left
  exact absurd (word.symm.trans (Option.some.inj left)) (by decide)

end Sys2Proof.Machine

/-! ## Far loads (R138, R139, R162, R163) -/

namespace Sys2Proof.Machine

open Sys2Proof Sys2Proof.Claims

/-! ### An instruction that goes on with the cycles it has issued for -/

section
variable {k : Fin 4} {s t u : State} {o : Op} {i : Issued} {len : Nat}

/-- Cycles of a Keeper pass, and free values are taken: its code banks, its release and its registers stay. -/
def Idles (k : Fin 4) (s t : State) : Prop :=
  ∃ (f : Keeper → Keeper) (n : Nat), t = { s.modKeeper k f with fresh := n } ∧
    ∀ x, (f x).running = x.running ∧ (f x).eff = x.eff ∧ (f x).cpu.core = x.cpu.core

theorem Idles.mod (f : Keeper → Keeper) (keeps : ∀ x, (f x).running = x.running ∧ (f x).eff = x.eff ∧ (f x).cpu.core = x.cpu.core) :
    Idles k s (s.modKeeper k f) := ⟨f, s.fresh, rfl, keeps⟩

theorem Idles.trans (first : Idles k s t) (second : Idles k t u) : Idles k s u := by
  obtain ⟨f, m, rfl, keeps⟩ := first
  obtain ⟨g, n, rfl, keeps'⟩ := second
  refine ⟨fun x => g (f x), n, ?_, fun x => ?_⟩
  · rw [← State.modKeeper_modKeeper (s := s) f g]
    rfl
  · obtain ⟨running, eff, core⟩ := keeps x
    obtain ⟨running', eff', core'⟩ := keeps' (f x)
    exact ⟨running'.trans running, eff'.trans eff, core'.trans core⟩

theorem State.setOwnIo_idles (a v : Nat) : Idles k s (s.setOwnIo (.keeper k) a v) :=
  .mod (fun x => { x with io := Sparse.set (ioReset false a) x.io a (BitVec.ofNat 16 v) }) fun _ => ⟨rfl, rfl, rfl⟩

theorem State.keeperTime_idles (n : Nat) : Idles k s (s.keeperTime k n) := by
  have cycles : Idles k s (s.keeperCycles k n) :=
    .mod (fun x => { x with int := x.int.timerCycles n, cpu := { x.cpu with now := x.cpu.now + n } }) fun _ => ⟨rfl, rfl, rfl⟩
  exact (cycles.trans (State.setOwnIo_idles _ _)).trans (State.setOwnIo_idles _ _)

theorem Idles.fresh (idles : Idles k s t) (n : Nat) : Idles k s { t with fresh := n } := by
  obtain ⟨f, m, rfl, keeps⟩ := idles
  exact ⟨f, n, rfl, keeps⟩

theorem Idles.mem (idles : Idles k s t) : t.mem = s.mem := by
  obtain ⟨f, m, rfl, -⟩ := idles
  rfl

theorem Idles.core (idles : Idles k s t) (q : Cpu) : (t.cpu q).core = (s.cpu q).core := by
  obtain ⟨f, m, rfl, keeps⟩ := idles
  cases q with
  | session c => rfl
  | keeper k' =>
    show ((s.modKeeper k f).keeper k').cpu.core = (s.keeper k').cpu.core
    rw [State.keeper_modKeeper]
    split
    · next same => rw [(keeps _).2.2, same]
    · rfl

theorem Idles.eff (idles : Idles k s t) : (t.keeper k).eff = (s.keeper k).eff := by
  obtain ⟨f, m, rfl, keeps⟩ := idles
  exact (congrArg Keeper.eff ((State.keeper_modKeeper ..).trans (if_pos rfl))).trans (keeps _).2.1

theorem Idles.running (idles : Idles k s t) : (t.keeper k).running = (s.keeper k).running := by
  obtain ⟨f, m, rfl, keeps⟩ := idles
  exact (congrArg Keeper.running ((State.keeper_modKeeper ..).trans (if_pos rfl))).trans (keeps _).1

theorem Idles.power (idles : Idles k s t) : t.power = s.power := by
  obtain ⟨f, m, rfl, -⟩ := idles
  rfl

theorem Idles.ports (idles : Idles k s t) : t.ports = s.ports := by
  obtain ⟨f, m, rfl, -⟩ := idles
  rfl

theorem State.cpu_holdAt : (t.holdAt (.keeper k) i).cpu (.keeper k) = { t.cpu (.keeper k) with issued := some i } :=
  State.cpu_modKeeperCpu _

theorem State.keeper_holdAt : (t.holdAt (.keeper k) i).keeper k = { t.keeper k with cpu := { (t.keeper k).cpu with issued := some i } } :=
  (State.keeper_modKeeper ..).trans (if_pos rfl)

/-- A processor with an instruction in progress goes on with it, whatever its cycles. -/
theorem Idles.mayIssue (idles : Idles k s t) (issues : s.mayIssue (.keeper k) = true) :
    (t.holdAt (.keeper k) i).mayIssue (.keeper k) = true := by
  obtain ⟨-, -, -, -, -, -, -, -, waiting, halted, -, seq, -⟩ := CpuState.SameRegs.of_core (idles.core (.keeper k))
  have active : (t.holdAt (.keeper k) i).active (.keeper k) = true := by
    have was := State.mayIssue_active issues
    unfold State.active at was ⊢
    dsimp only
    rw [State.cpu_holdAt, State.keeper_holdAt]
    show (!(t.cpu (.keeper k)).halted && ((t.keeper k).running && t.keeperClocked k)) = true
    rw [halted, idles.running, State.keeperClocked, idles.power]
    exact was
  unfold State.mayIssue State.entryDue
  rw [active, State.cpu_holdAt]
  simp [CpuState.between, seq, waiting, State.mayIssue_seq issues, State.mayIssue_waiting issues]

theorem Idles.codeBank (idles : Idles k s t) (a : Nat) :
    (t.holdAt (.keeper k) i).codeBank (.keeper k) a = s.codeBank (.keeper k) a := by
  unfold State.codeBank State.ownForce
  dsimp only
  rw [State.keeper_holdAt, idles.eff]

theorem Idles.pc (idles : Idles k s t) : ((t.holdAt (.keeper k) i).cpu (.keeper k)).pc = (s.cpu (.keeper k)).pc := by
  rw [State.cpu_holdAt]
  exact (CpuState.SameRegs.of_core (idles.core (.keeper k))).pc

theorem Idles.badFetch (idles : Idles k s t) (len : Nat) :
    (t.holdAt (.keeper k) i).badFetch (.keeper k) len = s.badFetch (.keeper k) len := by
  have ok : (t.holdAt (.keeper k) i).cOk (.keeper k) = s.cOk (.keeper k) :=
    funext fun a => congrArg keeperBank (idles.codeBank a)
  unfold State.badFetch
  rw [idles.pc, ok]

theorem Idles.unencoded (idles : Idles k s t) : (t.holdAt (.keeper k) i).unencoded (.keeper k) = s.unencoded (.keeper k) := by
  have words : ∀ a, ((t.holdAt (.keeper k) i).cWord (.keeper k) a).2 = (s.cWord (.keeper k) a).2 := by
    intro a
    show some _ = some _
    rw [idles.codeBank, State.word, State.word, show (t.holdAt (.keeper k) i).mem = s.mem from idles.mem]
  unfold State.unencoded
  dsimp only
  rw [idles.pc, words, words, idles.codeBank]

/-- An instruction in progress goes on, or takes its fault. -/
theorem State.Issues.resumes (issues : s.Issues (.keeper k) o.len) (idles : Idles k s t) :
    (t.holdAt (.keeper k) i).run (.keeper k) o = ((s.cpu (.keeper k)).faultOf o).elim ((t.holdAt (.keeper k) i).goOn (.keeper k) o i)
      (fun f => (t.holdAt (.keeper k) i).faultOn (.keeper k) f i) := by
  have may := idles.mayIssue (i := i) issues.issues
  have slot : (t.cpu (.keeper k)).slot = (s.cpu (.keeper k)).slot := (CpuState.SameRegs.of_core (idles.core (.keeper k))).slot
  have coded : (t.holdAt (.keeper k) i).asEncoded (.keeper k) o = o :=
    if_neg (by rw [idles.unencoded, show s.unencoded (.keeper k) = false from issues.coded]; decide)
  have fault : ((t.holdAt (.keeper k) i).cpu (.keeper k)).faultOf o = (s.cpu (.keeper k)).faultOf o := by
    rw [State.cpu_holdAt]
    show (if o.transfer.isSome && (t.cpu (.keeper k)).slot.isSome && _ then _ else _) = _
    rw [slot]
    rfl
  have goes : (t.holdAt (.keeper k) i).issue (.keeper k) o = ((s.cpu (.keeper k)).faultOf o).elim
      ((t.holdAt (.keeper k) i).goOn (.keeper k) o i) (fun f => (t.holdAt (.keeper k) i).faultOn (.keeper k) f i) := by
    unfold State.issue
    rw [fault, State.cpu_holdAt]
    cases (s.cpu (.keeper k)).faultOf o with
    | none => rfl
    | some f => rfl
  have kept : ((t.holdAt (.keeper k) i).cpu (.keeper k)).slot.any (·.annulled) = false := by
    rw [State.cpu_holdAt]
    dsimp only
    rw [slot]
    cases at_ : (s.cpu (.keeper k)).slot with
    | none => rfl
    | some d => exact issues.kept d at_
  have seq : ((t.holdAt (.keeper k) i).cpu (.keeper k)).seq = none := State.mayIssue_seq may
  have held : ((t.holdAt (.keeper k) i).cpu (.keeper k)).issued.isSome = true := by rw [State.cpu_holdAt]; rfl
  have run : (t.holdAt (.keeper k) i).run (.keeper k) o = (t.holdAt (.keeper k) i).issue (.keeper k) o := by
    unfold State.run
    refine (if_neg (by simp [State.poised, seq])).trans ((if_neg (by simp [State.poised, may])).trans ((if_neg ?_).trans ?_))
    · intro annulled
      dsimp only [State.poised] at annulled
      revert annulled kept
      cases ((t.holdAt (.keeper k) i).cpu (.keeper k)).slot <;> simp
    · dsimp only [State.poised]
      rw [idles.badFetch, issues.words]
      exact (if_pos held).trans (congrArg ((t.holdAt (.keeper k) i).issue (.keeper k)) coded)
  rw [run, goes]

end

end Sys2Proof.Machine

/-! ## What far loads leave (R138, R139, R163) -/

namespace Sys2Proof.Machine

open Sys2Proof Sys2Proof.Claims

/-! ### The transaction of a far read -/

section
variable {k : Fin 4} {s t : State} {node : Byte} {x m d : Nat}

/-- A read of a device node that reaches the die of its memory. -/
theorem State.serve_read (device : node.toNat < 0xC0) (low : x < rdWindow) (die : addrDie s.part x = some d)
    (powered : d < 2 → s.power.dieUp d = true) (route : s.routeUp (nodeDie node) d = true) :
    s.serve .rd node x m 0 [] true false 1 = s.memRd x m := by
  have live : ¬ (d < 2 ∧ (!s.power.dieUp d) = true ∧ ((!s.winPowered x) = true ∨ x < rdWindow)) := by
    rintro ⟨inside, off, -⟩
    rw [powered inside] at off
    exact absurd off (by decide)
  unfold State.serve
  rw [if_neg fun guest => absurd guest.1 (not_le.mpr device), if_neg fun guest => absurd guest.1 (not_le.mpr device), die]
  dsimp only
  rw [if_neg (addrDie_low low die), if_neg live, route, if_neg (by decide), if_pos low]

theorem cpuNode_device (k : Fin 4) : (cpuNode (.keeper k)).toNat < 0xC0 ∧ nodeDie (cpuNode (.keeper k)) = 2 := by
  revert k
  decide

/-- A far read that memory serves with good parity. -/
theorem State.fullRead_served (serves : memoryServes s x m) (well : readsWell s x m) :
    s.fullRead (cpuNode (.keeper k)) x m = ({ s with fresh := s.fresh + m }, some (servedWords s x m)) := by
  obtain ⟨low, check, d, die, powered, route⟩ := serves
  obtain ⟨page, image, parity⟩ := well
  obtain ⟨device, node⟩ := cpuNode_device k
  have read : s.loamRead x m = ({ s with fresh := s.fresh + m }, servedWords s x m, false) := by
    rw [State.loamRead_plain ⟨page, image⟩]
    exact congrArg (fun b => (({ s with fresh := s.fresh + m }, servedWords s x m, b) : State × List Word × Bool)) parity
  have answer : s.serve .rd (cpuNode (.keeper k)) x m 0 [] true false 1 =
      ({ s with fresh := s.fresh + m }, LoamReply.done (servedWords s x m)) := by
    rw [State.serve_read device low die powered (by rw [node]; exact route), State.memRd, check]
    dsimp only
    rw [read]
    rfl
  unfold State.fullRead
  rw [answer]
  rfl

/-- A far read that memory answers with an error. -/
theorem State.fullRead_fails {e : Nat} (low : x < rdWindow) (die : addrDie s.part x = some d)
    (powered : d < 2 → s.power.dieUp d = true) (route : s.routeUp 2 d = true) (check : s.memCheck (s.forwardUp x) x m = some e) :
    s.fullRead (cpuNode (.keeper k)) x m = (s, none) := by
  obtain ⟨device, node⟩ := cpuNode_device k
  have bad : e ≠ 0 := by
    rintro rfl
    revert check
    unfold State.memCheck
    split
    · exact nofun
    · split
      · exact nofun
      · split
        · exact nofun
        · split <;> exact nofun
  have answer : s.serve .rd (cpuNode (.keeper k)) x m 0 [] true false 1 = (s, LoamReply.fail e) := by
    rw [State.serve_read device low die powered (by rw [node]; exact route), State.memRd, check]
  unfold State.fullRead
  rw [answer]
  exact if_pos (.inr bad)

theorem Idles.memoryServes (idles : Idles k s t) (serves : memoryServes s x m) : memoryServes t x m := by
  obtain ⟨f, n, rfl, -⟩ := idles
  exact serves

theorem Idles.readsWell (idles : Idles k s t) (well : readsWell s x m) : readsWell t x m := by
  obtain ⟨f, n, rfl, -⟩ := idles
  exact well

theorem Idles.servedWords (idles : Idles k s t) : servedWords t x m = servedWords s x m := by
  obtain ⟨f, n, rfl, -⟩ := idles
  rfl

end

/-! ### Before the transaction -/

section
variable {p : Cpu} {k : Fin 4} {s : State} {d : RegNo} {m : Nat} {n : Fin 8} {a : Word} {ws : List Word} {f : FaultInfo}

theorem State.farLoadOp_faultOf : (s.cpu p).faultOf (s.farLoadOp p d m n a ws) = s.farFault p (farIllegal p d m) false m n a := rfl

/-- A far load that is stopped makes no transaction. -/
theorem State.farLoad_stopped (stops : s.farFault p (farIllegal p d m) false m n a = some f) :
    s.farLoad p d m n a = s.instr p (s.farLoadOp p d m n a []) := by
  have never : s.farIssues p (s.farLoadOp p d m n a []) = false := by
    unfold State.farIssues
    rw [State.farLoadOp_faultOf, stops]
    exact Bool.and_false _
  unfold State.farLoad State.farOp
  rw [never]
  rfl

theorem foldl_max_filter {α : Type} (f : α → Nat) (q : α → Bool) (l : List α) :
    ∀ c b, c ≤ b → (l.filter q).foldl (fun m e => max m (f e)) c ≤ l.foldl (fun m e => max m (f e)) b := by
  induction l with
  | nil => exact fun _ _ le => le
  | cons e l ih =>
    intro c b le
    rw [List.filter_cons, List.foldl_cons]
    split
    · exact ih _ _ (max_le_max_right _ le)
    · exact ih _ _ (le_max_of_le_left le)

theorem le_farWait (u : CpuState) (q : FarOut → Bool) : u.farWait q ≤ u.farWait (fun _ => true) := by
  unfold CpuState.farWait
  rw [List.filter_true]
  exact foldl_max_filter _ q u.far 0 0 (le_refl 0)

/-- A far load raises the fault that stops it, once its wait has passed. -/
theorem farLoad_faultsIf {i : Instr} {cond : State → Prop} (is : ∀ s, exec i s = s.farLoad p d m n a)
    (stops : ∀ s : State, cond s → s.farFault p (farIllegal p d m) false m n a = some f) : faultsIf i p 2 cond f := by
  intro s held ready
  obtain ⟨z, later, ran⟩ := State.Ready.faults (o := s.farLoadOp p d m n a []) ready (stops s held) (by
    show CpuState.faultWait _ _ f ≤ _
    unfold CpuState.faultWait
    split
    · exact Nat.zero_le _
    · have same := (s.begins_still p 2).cpu ready.quiet p
      refine CpuState.waitFor_le (Nat.le_trans (le_farWait _ _) (Nat.le_of_eq ?_))
      exact congrArg (CpuState.farWait · fun _ => true) same.symm)
  exact ⟨z, later, (is s).trans ((State.farLoad_stopped (stops s held)).trans ran)⟩

end

/-! ### An instruction that goes on to its end -/

/-- The last cycle of an instruction in progress, where memory is reached first (`c`) and then `g` changes its own registers. -/
theorem State.Reaches.ends {modes : Bool} {p : Cpu} {s h b c : State} {o : Op} {i : Issued} {g : CpuState → CpuState}
    (reached : State.Reaches modes p s c) (free : (s.cpu p).seq = none) (running : (s.cpu p).waiting = false)
    (last : h.lastState p o i = some b) (effect : o.effect b = (c.modCpu p g, true)) (pc : ∀ u, (g u).pc = u.pc)
    (slot : ∀ u, (g u).slot = u.slot) (seq : ∀ u, (g u).seq = u.seq) (waiting : ∀ u, (g u).waiting = u.waiting) :
    s.Retires (h.lastCycleOf p o i) p o.len { g (c.cpu p) with slot := o.transfer.map (o.resolve b), shadow := o.isLoad } ∧
      (∀ k, p = .keeper k → (h.lastCycleOf p o i).mem = c.mem) := by
  have cpu : (c.modCpu p g).cpu p = g (c.cpu p) := (State.cpu_modCpu _ reached.has).trans (if_pos rfl)
  have pc' : (c.cpu p).pc = (s.cpu p).pc := (congrArg CpuState.pc reached.own : ((c.cpu p).base modes).pc = ((s.cpu p).base modes).pc)
  have slot' : (c.cpu p).slot = (s.cpu p).slot :=
    (congrArg CpuState.slot reached.own : ((c.cpu p).base modes).slot = ((s.cpu p).base modes).slot)
  obtain ⟨post, lasts⟩ := State.lastCycle_eq last effect
  rw [lasts]
  have left := State.finishes (s := s) (o := o) (d := o.transfer.map (o.resolve b)) (issue := i.first) (post := post) (v := g (c.cpu p))
    ((State.has_modCpu g).mpr reached.has) (State.noneWaits_modCpu.mpr reached.waits) (by rw [cpu, seq, reached.seq, free])
    (fun _ => by rw [cpu, waiting, reached.waiting, running]) (by unfold CpuState.nextPc; rw [slot, pc, slot', pc']) (by rw [cpu])
    (fun q other => by rw [State.cpu_modCpu _ reached.has, if_neg other]; exact reached.others q other)
  exact ⟨left.1, fun k own => (left.2 k own).trans (State.mem_modCpu _)⟩

/-! ### The transaction and what follows -/

section
variable {k : Fin 4} {s t : State} {d : RegNo} {m : Nat} {n : Fin 8} {a : Word} {ws : List Word}

theorem farGoes_fault (goes : farGoes s k d m m false n a) : s.farFault (.keeper k) (farIllegal (.keeper k) d m) false m n a = none := by
  obtain ⟨-, fits, aligned, valid, -⟩ := goes
  have legal : farIllegal (.keeper k) d m = false := decide_eq_false (by omega)
  unfold State.farFault
  dsimp only
  rw [legal, aligned, valid]
  rfl

/-- The cycle a far load issues in. -/
def State.farFirst (s : State) (k : Fin 4) (d : RegNo) (m : Nat) (n : Fin 8) (a : Word) : Nat :=
  (s.cpu (.keeper k)).now + (s.cpu (.keeper k)).waitFor (s.farLoadOp (.keeper k) d m n a [])

/-- A far load that issues makes its transaction in its issue cycle. -/
theorem State.farLoad_goes (goes : farGoes s k d m m false n a) :
    ∃ t, Idles k s t ∧ (t.cpu (.keeper k)).now = s.farFirst k d m n a ∧
      (∀ z ws, t.fullRead (cpuNode (.keeper k)) ((s.cpu (.keeper k)).farAddr n a) m = (z, some ws) →
        s.farLoad (.keeper k) d m n a = (z.holdAt (.keeper k) { first := s.farFirst k d m n a, total := 2, half := none }).instr
          (.keeper k) (s.farLoadOp (.keeper k) d m n a ws)) ∧
      (∀ z, t.fullRead (cpuNode (.keeper k)) ((s.cpu (.keeper k)).farAddr n a) m = (z, none) →
        s.farLoad (.keeper k) d m n a = (z.holdAt (.keeper k) { first := s.farFirst k d m n a, total := 1, half := none }).instr
          (.keeper k) { s.farLoadOp (.keeper k) d m n a [] with fault := some (faultFar a.toNat) }) := by
  have issues := goes.1
  have now : s.farIssues (.keeper k) (s.farLoadOp (.keeper k) d m n a []) = true := by
    unfold State.farIssues
    rw [State.farLoadOp_faultOf, farGoes_fault goes, issues.issues, issues.words]
    cases at_ : (s.cpu (.keeper k)).slot with
    | none => rfl
    | some d => simp [issues.kept d at_]
  have later : (s.cpu (.keeper k)).now ≤ s.farFirst k d m n a := Nat.le_add_right ..
  refine ⟨s.keeperTime k (s.farFirst k d m n a - (s.cpu (.keeper k)).now), State.keeperTime_idles _, ?_, fun z ws read => ?_,
    fun z read => ?_⟩
  · have passed : ((s.keeperTime k (s.farFirst k d m n a - (s.cpu (.keeper k)).now)).cpu (.keeper k)).now =
        (s.cpu (.keeper k)).now + (s.farFirst k d m n a - (s.cpu (.keeper k)).now) := by
      simp [State.keeperTime, State.keeperCycles, State.count32, State.setOwnIo, State.cpu, State.keeper_modKeeper]
    omega
  · unfold State.farLoad State.farOp
    dsimp only
    rw [if_pos now, ← State.farFirst, State.cpuUntil]
    dsimp only
    rw [read]
  · unfold State.farLoad State.farOp
    dsimp only
    rw [if_pos now, ← State.farFirst, State.cpuUntil]
    dsimp only
    rw [read]

/-- A far load that memory answers with an error takes FAR_ERROR, and changes no register and no byte. -/
theorem State.farLoad_error {e e' : Nat} (goes : farGoes s k d m m false n a)
    (low : (s.cpu (.keeper k)).farAddr n a < rdWindow) (die : addrDie s.part ((s.cpu (.keeper k)).farAddr n a) = some e)
    (powered : e < 2 → s.power.dieUp e = true) (route : s.routeUp 2 e = true)
    (check : s.memCheck (s.forwardUp ((s.cpu (.keeper k)).farAddr n a)) ((s.cpu (.keeper k)).farAddr n a) m = some e') :
    ∃ u : State, s.farLoad (.keeper k) d m n a = .next (u.takeFault (.keeper k) (faultFar a.toNat)) ∧ u.mem = s.mem ∧
      (u.cpu (.keeper k)).w = (s.cpu (.keeper k)).w ∧ (u.cpu (.keeper k)).pc = (s.cpu (.keeper k)).pc := by
  obtain ⟨t, idles, -, -, failed⟩ := State.farLoad_goes goes
  have answer : t.fullRead (cpuNode (.keeper k)) ((s.cpu (.keeper k)).farAddr n a) m = (t, none) := by
    obtain ⟨f, n', rfl, -⟩ := idles
    exact State.fullRead_fails low die powered route check
  have ran := failed t answer
  generalize farOp : { s.farLoadOp (.keeper k) d m n a [] with fault := some (faultFar a.toNat) } = o at ran
  have len : o.len = 2 := by rw [← farOp]; rfl
  have fault : (s.cpu (.keeper k)).faultOf o = some (faultFar a.toNat) := by rw [← farOp]; rfl
  have issues : s.Issues (.keeper k) o.len := by rw [len]; exact goes.1
  rw [State.instr, issues.resumes idles, fault] at ran
  generalize ({ first := s.farFirst k d m n a, total := 1, half := none } : Issued) = i at ran
  have passed := State.keeperTime_idles (k := k) (s := t.holdAt (.keeper k) i) (i.first + i.total - ((t.holdAt (.keeper k) i).cpu (.keeper k)).now)
  have same := CpuState.SameRegs.of_core (passed.core (.keeper k))
  have same' := CpuState.SameRegs.of_core (idles.core (.keeper k))
  refine ⟨_, ran, passed.mem.trans idles.mem, ?_, ?_⟩
  · rw [State.cpu_modKeeperCpu]
    exact same.w.trans ((congrArg CpuState.w State.cpu_holdAt).trans same'.w)
  · rw [State.cpu_modKeeperCpu]
    exact same.pc.trans ((congrArg CpuState.pc State.cpu_holdAt).trans same'.pc)

/-- A group of registers, each with its word of a list made by index. -/
theorem zip_regs (d : RegNo) (g : Nat → Word) (m : Nat) : ((List.range m).map (regAfter d)).zip ((List.range m).map g) =
    (List.range m).map (fun i => (regAfter d i, ((List.range m).map g).getD i 0)) := by
  rw [List.zip_map']
  refine List.map_congr_left fun i inside => ?_
  have low := List.mem_range.mp inside
  simp [List.getD, low]

theorem Idles.reaches (idles : Idles k s t) (waits : s.noneWaits) : State.Reaches true (.keeper k) s t :=
  ⟨trivial, fun q => by rw [idles.ports]; exact waits q, CpuState.base_of_core (idles.core _), fun q _ => idles.core q⟩

/-- What a far load of `m` words leaves. -/
theorem State.farLoad_loads (goes : farGoes s k d m m false n a) (serves : memoryServes s ((s.cpu (.keeper k)).farAddr n a) m)
    (well : readsWell s ((s.cpu (.keeper k)).farAddr n a) m) :
    ∃ t, s.farLoad (.keeper k) d m n a = .next t ∧ s.RetiresHere t (.keeper k) 2
      (withLoads (((List.range m).map (regAfter d)).zip (servedWords s ((s.cpu (.keeper k)).farAddr n a) m)) (s.cpu (.keeper k)).x
        (s.cpu (.keeper k))) := by
  obtain ⟨t, idles, now, served, -⟩ := State.farLoad_goes goes
  have ran := served _ _ (State.fullRead_served (idles.memoryServes serves) (idles.readsWell well))
  rw [idles.servedWords] at ran
  generalize words : servedWords s ((s.cpu (.keeper k)).farAddr n a) m = ws at ran ⊢
  replace idles := idles.fresh (t.fresh + m)
  replace now : ({ t with fresh := t.fresh + m }.cpu (.keeper k)).now = s.farFirst k d m n a := now
  generalize { t with fresh := t.fresh + m } = z at *
  set p : Cpu := .keeper k
  set o := s.farLoadOp p d m n a ws
  generalize ({ first := s.farFirst k d m n a, total := 2, half := none } : Issued) = i at ran
  have issues : s.Issues p o.len := goes.1
  have sound : (s.cpu p).faultOf o = none := farGoes_fault goes
  rw [State.instr, issues.resumes idles, sound] at ran
  obtain ⟨b, last, here, -⟩ := State.lastState_keeper (s := z.holdAt p i) (o := o) (i := i) fun y => .refl k y
  have held : State.Reaches true p s (z.holdAt p i) :=
    (idles.reaches issues.quiet).modCpu (f := fun u => { u with issued := some i }) fun _ => rfl
  have running : ((z.holdAt p i).cpu p).waiting = false := held.waiting.trans (State.mayIssue_waiting issues.issues)
  obtain ⟨counted, old⟩ := (State.Reaches.refl held.has held.waits).lastState running (fun y => SameCpu.refl y) last
  have reached := (held.trans counted).same (State.spend_cpu (SameCpu.refl b))
  set l := (List.range m).map (fun i => (regAfter d i, ws.getD i 0))
  set g : CpuState → CpuState := fun u => { u.loadRegs l with
    far := (u.loadRegs l).far ++ [⟨s.farDie ((s.cpu p).farAddr n a), false, (b.cpu p).now + s.farBack⟩] }
  have effect : o.effect b = (b.spend.modCpu p g, true) :=
    congrArg (fun y => (y, true)) (State.modKeeper_modKeeper (s := b.spend) (k := k) (fun x => { x with cpu := x.cpu.loadRegs l })
      (fun x => { x with cpu := { x.cpu with far := x.cpu.far ++ _ } }))
  have left := reached.ends (State.mayIssue_seq issues.issues) (State.mayIssue_waiting issues.issues) last effect
    (fun u => by dsimp only [g]; rw [CpuState.loadRegs_eq]) (fun u => by dsimp only [g]; rw [CpuState.loadRegs_eq])
    (fun u => by dsimp only [g]; rw [CpuState.loadRegs_eq]) (fun u => by dsimp only [g]; rw [CpuState.loadRegs_eq])
  refine ⟨_, ran, left.1.of_left ?_, fun _ _ => (left.2 k rfl).trans (here.mem.trans idles.mem)⟩
  have list : ((List.range m).map (regAfter d)).zip ws = l := by
    subst words
    exact zip_regs d _ m
  rw [list, withLoads, CpuState.loadRegs_eq]
  dsimp only [g]
  rw [CpuState.loadRegs_eq]
  exact (congrArg (fun u : CpuState => ({ u with
    w := setWords u.w l, loadOld := l.map (fun e => (e.1, u.w[e.1.val])), slot := none, shadow := true } : CpuState).left true)
    reached.own :)

end

/-! ### The statement -/

section
variable {d : RegNo} {m : Nat} {n : Fin 8} {a : Word}

theorem State.farFault_illegal {s : State} {p : Cpu} {write : Bool} {align : Nat} (bad : 16 < d.val + m ∨ ∃ c, p = .session c) :
    s.farFault p (farIllegal p d m) write align n a = some faultIllegal := by
  have illegal : farIllegal p d m = true := by
    rcases bad with far | ⟨c, rfl⟩
    · unfold farIllegal
      rw [decide_eq_true far, Bool.or_true]
    · rfl
  unfold State.farFault
  rw [illegal]
  rfl

/-- A far load stops as its form, its address and its segment say. -/
theorem farLoad_stops {i : Cpu → Instr} (is : ∀ p s, exec (i p) s = s.farLoad p d m n a) : farStops i d m m m false n a := by
  refine ⟨fun p bad => farLoad_faultsIf (is p) fun s _ => State.farFault_illegal bad, ?_⟩
  intro k p fits
  have legal : farIllegal p d m = false := decide_eq_false (by omega)
  refine ⟨fun odd => farLoad_faultsIf (is p) fun s _ => ?_, fun aligned => farLoad_faultsIf (is p) fun s closed => ?_, ?_⟩
  · unfold State.farFault
    dsimp only
    rw [legal, if_neg (by decide), if_pos odd]
  · have invalid : (s.cpu p).seg[n.val].getLsbD 0 = false := by
      rcases closed with invalid | ⟨write, -⟩
      · exact invalid
      · cases write
    unfold State.farFault
    dsimp only
    rw [legal, aligned, invalid]
    rfl
  · intro s e e' goes x low die powered route check
    obtain ⟨u, ran, left⟩ := State.farLoad_error goes low die powered route check
    exact ⟨u, (is p s).trans ran, left⟩

theorem farLoads_of {i : Cpu → Instr} {k : Fin 4} (is : ∀ p s, exec (i p) s = s.farLoad p d m n a) : farLoads i k d m n a := by
  refine ⟨farLoad_stops is, ?_⟩
  intro s p x goes serves well
  obtain ⟨t, ran, left⟩ := State.farLoad_loads goes serves well
  exact ⟨t, (is p s).trans ran, left⟩

end

/-- Settles O20: both forms are far loads, of one word and of two. -/
theorem farLoadResults : Obligations.FarLoadResults := fun _ _ _ _ => ⟨farLoads_of fun _ _ => rfl, farLoads_of fun _ _ => rfl⟩

end Sys2Proof.Machine

/-! ## CALL where a boundary lies inside a band (R45, R91, R159) -/

namespace Sys2Proof.Machine

open Sys2Proof Sys2Proof.Claims

/-- A voice that plays the first S page. -/
def playingVoice : Voice :=
  { phase := 1, idx := 0, frac := 0, env := 0, s1 := 0, s2 := 0, start := 0, len := 100, lp := 0, fmt := 0, bank := false
    interp := false, keys := [] }

/-- A session at the last cycle of line 248, below its active area, with that voice and its stack pointer at a staging line's start. -/
def atLineEnd : Session :=
  { Session.initial false false 0x100 [400, 320, 262, 240, 1000] with
    share := 64, lastBoundary := some (0, 248), vcyc := 248999, vblankDone := true
    lpg := { running := false, bank := 0, pc := 0, lc := 0, frame := 1, line := 0, dot := 0 }
    snd := { Sound.zero with voices := [(0, playingVoice)] }
    cpu := { CpuState.zero with pc := 0x100, w := CpuState.zero.w.set 15 0xB080 } }

/-- Context 5 runs that session; line 249, inside the band of line 248, is where its slot says it resumed. Its stack's page has its
Gallery copy, a word of which, of no use to the CALL, fails; its S page has none, its contents stand in that same Gallery frame, and the
Gallery has no frame to give. -/
def boundaryInBand : State :=
  { State.reset with
    power := { State.reset.power with mode := .serving, on := 0x1FFFFFFFFFFF3E, cause := 0 }
    links := Vector.replicate 4 { up := 4, retraining := 0 }
    clock := { State.reset.clock with rootLock := true, time := 1000000000 }
    ctxs := [(5, { Context.reset with
      state := .running, title := 3, vclk := 15720000, ses := some atLineEnd
      pages := [(25, { PageEntry.none with alloc := true, gcopy := true, home := 2025, gframe := 41 }),
        (155, { PageEntry.none with alloc := true, home := 2155 })] })]
    titles := [(3, { state := 1, cPages := 4, dPages := 0, list := 0, frames := [1000, 1001, 1002, 1003] })]
    slots := [(0, { SlotSt.idle with
      ctx := some 5, horizonF := 5, sched := [{ f := 0, s := 0, period := 1000000000, shifts := [] }], period := 1000000000
      rendered := 200, firstF := 0, firstLine := 249 })]
    frames := [(2155, { FrameRec.page with copy := some (false, 41) }), (galleryFrame 0 41, FrameRec.copyOf 2025),
      (galleryFrame 0 0, FrameRec.copyOf 1000)]
    bad := [(galleryFrame 0 41 * 2048 + 2000, true)] }

/-- The cycles that the CALL may take there. -/
def callSpan : Nat :=
  ((boundaryInBand.begins (.session 5) 2).cpu (.session 5)).longest + (boundaryInBand.callOp (.session 5) false (.rel 9) 0).cycles +
    (boundaryInBand.fetchLine (.session 5) 2).1.fastExtra (.session 5)

theorem callSpan_eq : callSpan = 2 := by decide +kernel

theorem boundaryInBand_issues : boundaryInBand.Issues (.session 5) 2 :=
  ⟨by decide +kernel, by decide +kernel, by decide +kernel, by decide +kernel, by decide +kernel, by decide +kernel, by
    intro q
    fin_cases q <;> rfl⟩

theorem boundaryInBand_time : (boundaryInBand.begins (.session 5) 2).timeRuns (.session 5) callSpan := by
  rw [callSpan_eq]
  have runs : ∀ m : Fin 2,
      ((boundaryInBand.begins (.session 5) 2).cpuUntil (.session 5) (((boundaryInBand.begins (.session 5) 2).cpu (.session 5)).now + m)).2 = true ∧
      (((boundaryInBand.begins (.session 5) 2).cpuUntil (.session 5)
        (((boundaryInBand.begins (.session 5) 2).cpu (.session 5)).now + m)).1.poised (.session 5)).2 = true := by decide +kernel
  exact fun m few => runs ⟨m, few⟩

theorem boundaryInBand_calm : (boundaryInBand.begins (.session 5) 2).Calm (.session 5) callSpan := by
  rw [callSpan_eq]
  have still : ((boundaryInBand.begins (.session 5) 2).ses 5).any (fun x => decide (x.blit = none ∧ x.dmaAct = none ∧
      (∀ k : Fin 4, (x.ch k).phase = .off ∧ (x.ch k).trigs = []) ∧ x.soundWaits = false ∧ x.lpg.running = false ∧
      wbit (x.ioW 0xF500) 0 = false ∧ 2 < x.toBoundary ((boundaryInBand.begins (.session 5) 2).ctxBandH 5))) = true := by decide +kernel
  obtain ⟨x, here, facts⟩ := Option.any_eq_true _ _ |>.mp still
  exact ⟨x, here, of_decide_eq_true facts⟩

theorem boundaryInBand_ready : boundaryInBand.ReadyCalm (.session 5) 2 (boundaryInBand.callOp (.session 5) false (.rel 9) 0).cycles where
  toIssues := boundaryInBand_issues
  past := by decide +kernel
  time := boundaryInBand_time
  calm := boundaryInBand_calm

/-- Where a processor stands when a command has run. -/
def pcAfter (o : Outcome) (p : Cpu) : Option Word :=
  match o with
  | .next t => some (t.cpu p).pc
  | _ => none

theorem call_stands : pcAfter (exec (.call (.session 5) false (.rel 9) 0) boundaryInBand) (.session 5) = some 0x100 := by decide +kernel

/-- Refutes O17: a session that stands before the line its slot says it resumed at crosses a boundary at that line, inside a band, in the
CALL's second cycle. The prefetch made there meets the failing frame, the stack's page loses its Gallery copy, and the CALL waits for a
frame, though its words could be stored when it issued. -/
theorem not_callReturnResults : ¬ Obligations.CallReturnResults := by
  intro results
  obtain ⟨-, completes, -⟩ := results (.session 5) false (.rel 9) 0 boundaryInBand
  obtain ⟨t, ran, moves, -⟩ := completes 1 boundaryInBand_ready (by decide +kernel) ⟨by decide, by decide, by decide +kernel⟩
    (by decide +kernel) (by decide +kernel)
  have stands := call_stands
  rw [ran] at stands
  have here : (t.cpu (.session 5)).pc = 0x100 := Option.some.inj stands
  rw [moves.pc] at here
  exact absurd here (by decide +kernel)

end Sys2Proof.Machine
